-- ==== Sys2Proof/Word.lean ====
section
/-! DEFINITION. Word types, the fields of the instruction forms (02 R45 to R65) and the kinds of
register operand (02 R48 to R51, 04 R119). -/

namespace Sys2Proof

/-- A byte of memory (00 R4). -/
abbrev Byte := BitVec 8
/-- A register v0 to v510 (02 R48). -/
abbrev Word := BitVec 32
/-- An instruction word, an address or a 64-bit register pair (02 R39). -/
abbrev DWord := BitVec 64
/-- The widest operand an instruction reads as one value (02 R58). -/
abbrev Val := BitVec 128
/-- A set of lanes of one weave: bit l stands for lane l (01 R27). -/
abbrev Mask := BitVec 32

/-- A-form (02 R45, Table 1), the major opcode and fn apart. -/
structure AForm where
  pred : BitVec 3
  psense : Bool
  d : BitVec 9
  a : BitVec 9
  b : BitVec 9
  c : BitVec 9
  keep : BitVec 2
  empC : Bool
  empB : Bool
  empA : Bool
  ty : BitVec 3
  mod : BitVec 4
  deriving DecidableEq, Repr

/-- I-form (02 R61, Table 4). -/
structure IForm where
  pred : BitVec 3
  psense : Bool
  d : BitVec 9
  a : BitVec 9
  b : BitVec 9
  imm : BitVec 16
  empB : Bool
  empA : Bool
  ty : BitVec 3
  mod : BitVec 4
  deriving DecidableEq, Repr

/-- L-form (02 R62, Table 5): the first word's fields and the immediate word. -/
structure LForm where
  pred : BitVec 3
  psense : Bool
  d : BitVec 9
  a : BitVec 9
  keepA : Bool
  empA : Bool
  ty : BitVec 3
  mod : BitVec 4
  imm : BitVec 64
  deriving DecidableEq, Repr

/-- M-form (02 R63, Table 6). -/
structure MForm where
  pred : BitVec 3
  psense : Bool
  d : BitVec 9
  a : BitVec 9
  b : BitVec 9
  disp : BitVec 13
  keep : BitVec 2
  empC : Bool
  empB : Bool
  empA : Bool
  ty : BitVec 3
  mod : BitVec 4
  deriving DecidableEq, Repr

/-- B-form (02 R64, Table 7). -/
structure BForm where
  pred : BitVec 3
  psense : Bool
  d : BitVec 9
  off : BitVec 25
  deriving DecidableEq, Repr

/-- X-form (02 R65, Table 8). -/
structure XForm where
  pred : BitVec 3
  psense : Bool
  d : BitVec 9
  a : BitVec 9
  b : BitVec 9
  ts : BitVec 6
  cc : BitVec 4
  cce : Bool
  ty : BitVec 3
  mod : BitVec 4
  deriving DecidableEq, Repr

/-- How an instruction uses one register field (04 R119). `n` is the width in bits of the value. -/
inductive Use
  /-- the field is reserved -/
  | none
  /-- a predicate number in bits [2:0] (02 R51) -/
  | pred
  /-- a code in the low `n` bits -/
  | code (n : Nat)
  /-- a code in the bits that `mask` has -/
  | bits (mask : Nat)
  /-- a register source of `n` bits -/
  | src (n : Nat)
  /-- a register destination of `n` bits -/
  | dst (n : Nat)
  /-- read and written, `n` bits -/
  | both (n : Nat)
  /-- only the full/empty bit of one register is read (03 R103) -/
  | peek
  /-- the group of k elements of ldm, `n` bits each, k of the code in b (06 R183) -/
  | multiDst (n : Nat)
  /-- the group of stm -/
  | multiSrc (n : Nat)
  deriving DecidableEq, Repr

/-- Resources a kernel declares (02 R74, reason 0x0B). -/
inductive Res
  | rv | cv | cc | gb | ts | tile | mat | refine
  deriving DecidableEq, Repr

/-- The fields of any form, those a form lacks being zero. -/
structure Fields where
  pred : BitVec 3 := 7
  psense : Bool := false
  d : BitVec 9 := 0
  a : BitVec 9 := 0
  b : BitVec 9 := 0
  c : BitVec 9 := 0
  keep : BitVec 2 := 0
  empA : Bool := false
  empB : Bool := false
  empC : Bool := false
  ty : BitVec 3 := 0
  mod : BitVec 4 := 0
  imm : BitVec 64 := 0
  disp : BitVec 13 := 0
  off : BitVec 25 := 0
  ts : BitVec 6 := 0
  cc : BitVec 4 := 0
  cce : Bool := false
  /-- emp.c and keep = 11 stand for d (M-form, 02 R63) -/
  mform : Bool := false
  /-- two words (02 R62) -/
  lform : Bool := false
  deriving DecidableEq, Repr

def AForm.fields (o : AForm) : Fields :=
  { pred := o.pred, psense := o.psense, d := o.d, a := o.a, b := o.b, c := o.c, keep := o.keep,
    empA := o.empA, empB := o.empB, empC := o.empC, ty := o.ty, mod := o.mod }

def IForm.fields (o : IForm) : Fields :=
  { pred := o.pred, psense := o.psense, d := o.d, a := o.a, b := o.b,
    empA := o.empA, empB := o.empB, ty := o.ty, mod := o.mod, imm := o.imm.setWidth 64 }

def LForm.fields (o : LForm) : Fields :=
  { pred := o.pred, psense := o.psense, d := o.d, a := o.a, keep := if o.keepA then 1 else 0,
    empA := o.empA, ty := o.ty, mod := o.mod, imm := o.imm, lform := true }

def MForm.fields (o : MForm) : Fields :=
  { pred := o.pred, psense := o.psense, d := o.d, a := o.a, b := o.b, keep := o.keep,
    empA := o.empA, empB := o.empB, empC := o.empC, ty := o.ty, mod := o.mod, disp := o.disp,
    mform := true }

def BForm.fields (o : BForm) : Fields :=
  { pred := o.pred, psense := o.psense, d := o.d, off := o.off }

def XForm.fields (o : XForm) : Fields :=
  { pred := o.pred, psense := o.psense, d := o.d, a := o.a, b := o.b, ts := o.ts, cc := o.cc,
    cce := o.cce, ty := o.ty, mod := o.mod }

/-- What the spec says of one instruction's words: how it uses each register field, whether it
accepts fn, ty and mod (reason 0x05) and its own reserved bits (reason 0x06), the resources it names
with their index (reason 0x0B), and whether it is privileged (reason 0x07). -/
structure Row where
  d : Use := .none
  a : Use := .none
  b : Use := .none
  c : Use := .none
  accept : Bool := true
  clear : Bool := true
  res : List (Res × Nat) := []
  priv : Bool := false
  /-- a lane collective: pred must be 7 and psense 0 (04 R133) -/
  coll : Bool := false
  /-- the number of a system register read (`some (n, false)`) or written (12 R387) -/
  sreg : Option (Nat × Bool) := .none
  deriving DecidableEq, Repr

/-- A message of the lease protocol (13 R419, R425): the peer, the lender's extent, the lender's and
the borrower's entry, the term or new term, and whether a reply grants. -/
structure LeaseMsg where
  peer : Nat
  extent : Nat
  entry : Nat
  gen : Nat
  term : Nat
  deadline : Nat
  flags : Nat
  granted : Bool
  code : Nat
  deriving DecidableEq, Repr

/-- Who makes an access that reaches this package from outside (13 R421, R431, R434). -/
inductive PeerKind
  | peer | borrower | cxl | host
  deriving DecidableEq, Repr

/-- An access that reaches this package from outside: `data` is `none` for a read. -/
structure PeerReq where
  kind : PeerKind
  source : Nat
  ticket : Nat
  addr : Nat
  size : Nat
  data : Option (List Byte)
  deriving DecidableEq, Repr

end Sys2Proof
end

