-- ==== Sys2Proof/Syntax.lean ====
section
/-! DEFINITION. One constructor for every row of the opcode table: the 253 Phody instructions with the
fields of their form, the house-core load twl.v, and the 85 events of the machine (95), each with the
agent and the index it is about. A block header is no row of the table; Machine/Step.lean executes it. -/

namespace Sys2Proof

inductive Instr
  /-- R103 -/
  | br (o : BForm)
  /-- R105 -/
  | call (o : BForm)
  /-- R103 -/
  | dbnz (o : BForm)
  /-- R103 -/
  | bz (o : BForm)
  /-- R103 -/
  | bnz (o : BForm)
  /-- R103 -/
  | bfull (o : BForm)
  /-- R103 -/
  | bempty (o : BForm)
  /-- R104 -/
  | bpend (o : BForm)
  /-- R106 -/
  | jmp (o : AForm)
  /-- R106 -/
  | jcall (o : AForm)
  /-- R106 -/
  | ret (o : AForm)
  /-- R107 -/
  | pand (o : AForm)
  /-- R107 -/
  | por (o : AForm)
  /-- R107 -/
  | pxor (o : AForm)
  /-- R107 -/
  | pandn (o : AForm)
  /-- R108 -/
  | pset (o : AForm)
  /-- R108 -/
  | pget (o : AForm)
  /-- R109 -/
  | exit (o : AForm)
  /-- R110 -/
  | yield (o : AForm)
  /-- R111 -/
  | nop (o : AForm)
  /-- R112 -/
  | pause (o : IForm)
  /-- R113 -/
  | brk (o : IForm)
  /-- R121 -/
  | add (o : AForm)
  /-- R121 -/
  | sub (o : AForm)
  /-- R122 -/
  | addc (o : AForm)
  /-- R122 -/
  | subb (o : AForm)
  /-- R121 -/
  | min (o : AForm)
  /-- R121 -/
  | max (o : AForm)
  /-- R121 -/
  | abs (o : AForm)
  /-- R121 -/
  | mul (o : AForm)
  /-- R123 -/
  | mulhi (o : AForm)
  /-- R123 -/
  | mulw (o : AForm)
  /-- R121 -/
  | mad (o : AForm)
  /-- R124 -/
  | and (o : AForm)
  /-- R124 -/
  | or (o : AForm)
  /-- R124 -/
  | xor (o : AForm)
  /-- R124 -/
  | andn (o : AForm)
  /-- R125 -/
  | shl (o : AForm)
  /-- R125 -/
  | shr (o : AForm)
  /-- R125 -/
  | sar (o : AForm)
  /-- R125 -/
  | ror (o : AForm)
  /-- R125 -/
  | fsh (o : AForm)
  /-- R126 -/
  | bfx (o : AForm)
  /-- R126 -/
  | bfi (o : AForm)
  /-- R127 -/
  | popc (o : AForm)
  /-- R127 -/
  | clz (o : AForm)
  /-- R121 -/
  | addi (o : IForm)
  /-- R121 -/
  | muli (o : IForm)
  /-- R124 -/
  | andi (o : IForm)
  /-- R124 -/
  | ori (o : IForm)
  /-- R132 -/
  | lid (o : IForm)
  /-- R125 -/
  | shli (o : IForm)
  /-- R125 -/
  | shri (o : IForm)
  /-- R125 -/
  | sari (o : IForm)
  /-- R126 -/
  | bfxi (o : IForm)
  /-- R128 -/
  | cmpi (o : IForm)
  /-- R131 -/
  | lea (o : IForm)
  /-- R137 -/
  | shup (o : IForm)
  /-- R137 -/
  | shdn (o : IForm)
  /-- R137 -/
  | shxor (o : IForm)
  /-- R128 -/
  | cmp (o : AForm)
  /-- R129 -/
  | sel (o : AForm)
  /-- R137 -/
  | shfl (o : AForm)
  /-- R138 -/
  | vote (o : AForm)
  /-- R138 -/
  | ballot (o : AForm)
  /-- R139 -/
  | scan (o : AForm)
  /-- R130 -/
  | li (o : LForm)
  /-- R130 -/
  | lda (o : LForm)
  /-- R162 -/
  | fadd (o : AForm)
  /-- R162 -/
  | fsub (o : AForm)
  /-- R162 -/
  | fmul (o : AForm)
  /-- R162 -/
  | fdiv (o : AForm)
  /-- R162 -/
  | fma (o : AForm)
  /-- R162 -/
  | fms (o : AForm)
  /-- R162 -/
  | fsqrt (o : AForm)
  /-- R163 -/
  | fmin (o : AForm)
  /-- R163 -/
  | fmax (o : AForm)
  /-- R163 -/
  | fabs (o : AForm)
  /-- R163 -/
  | fneg (o : AForm)
  /-- R163 -/
  | fcps (o : AForm)
  /-- R164 -/
  | fcmp (o : AForm)
  /-- R164 -/
  | fclass (o : AForm)
  /-- R164 -/
  | frint (o : AForm)
  /-- R162 -/
  | fscale (o : AForm)
  /-- R164 -/
  | fgetexp (o : AForm)
  /-- R164 -/
  | fgetman (o : AForm)
  /-- R166 -/
  | fcvt (o : AForm)
  /-- R167 -/
  | fcvti (o : AForm)
  /-- R167 -/
  | icvtf (o : AForm)
  /-- R168 -/
  | fpk (o : AForm) (pos : BitVec 4)
  /-- R168 -/
  | fupk (o : AForm) (pos : BitVec 4)
  /-- R165 -/
  | frcpe (o : AForm)
  /-- R165 -/
  | frsqe (o : AForm)
  /-- R165 -/
  | fex2 (o : AForm)
  /-- R165 -/
  | flg2 (o : AForm)
  /-- R165 -/
  | fsinpi (o : AForm)
  /-- R165 -/
  | fcospi (o : AForm)
  /-- R169 -/
  | fdot2 (o : AForm)
  /-- R170 -/
  | bqnt (o : AForm)
  /-- R171 -/
  | bdq (o : AForm)
  /-- R172 -/
  | fredAdd (o : AForm)
  /-- R172 -/
  | fredMin (o : AForm)
  /-- R172 -/
  | fredMax (o : AForm)
  /-- R162 -/
  | faddi (o : IForm)
  /-- R162 -/
  | fmuli (o : IForm)
  /-- R162 -/
  | fmai (o : IForm)
  /-- R164 -/
  | fcmpi (o : IForm)
  /-- R162 -/
  | fli (o : LForm)
  /-- R180 -/
  | ld (o : MForm)
  /-- R180 -/
  | lds (o : MForm)
  /-- R180 -/
  | ldx (o : MForm)
  /-- R180 -/
  | ldxs (o : MForm)
  /-- R181 -/
  | st (o : MForm)
  /-- R181 -/
  | stx (o : MForm)
  /-- R184 -/
  | ldnt (o : MForm)
  /-- R184 -/
  | ldxnt (o : MForm)
  /-- R184 -/
  | stnt (o : MForm)
  /-- R184 -/
  | stxnt (o : MForm)
  /-- R185 -/
  | ldnf (o : MForm)
  /-- R182 -/
  | stbe (o : MForm)
  /-- R186 -/
  | pf (o : MForm)
  /-- R186 -/
  | pfx (o : MForm)
  /-- R183 -/
  | ldm (o : MForm)
  /-- R183 -/
  | stm (o : MForm)
  /-- R208 -/
  | tlbp (o : MForm)
  /-- R206 -/
  | tlbi (o : MForm)
  /-- R207 -/
  | tlbs (o : MForm)
  /-- R209 -/
  | pois (o : MForm)
  /-- R194 -/
  | spmap (o : AForm)
  /-- R194 -/
  | spmapz (o : AForm)
  /-- R194 -/
  | spclr (o : AForm)
  /-- R194 -/
  | spwb (o : AForm)
  /-- R194 -/
  | spdrop (o : AForm)
  /-- R198 -/
  | ldts (o : AForm)
  /-- R198 -/
  | stts (o : AForm)
  /-- R198 -/
  | tsfree (o : AForm)
  /-- R198 -/
  | tsstat (o : AForm)
  /-- R231 -/
  | thacq (o : AForm)
  /-- R234 -/
  | thpf (o : AForm)
  /-- R232 -/
  | threl (o : AForm)
  /-- R232 -/
  | thdown (o : AForm)
  /-- R233 -/
  | thclose (o : AForm)
  /-- R232 -/
  | thwb (o : AForm)
  /-- R230 -/
  | thsplit (o : AForm)
  /-- R235 -/
  | thbind (o : AForm)
  /-- R235 -/
  | thunbind (o : AForm)
  /-- R236 -/
  | thstat (o : AForm)
  /-- R236 -/
  | thext (o : AForm)
  /-- R237 -/
  | thprobe (o : AForm)
  /-- R228 -/
  | thopen (o : MForm)
  /-- R229 -/
  | thdesc (o : MForm)
  /-- R274 -/
  | cas (o : MForm)
  /-- R274 -/
  | swap (o : MForm)
  /-- R274 -/
  | aadd (o : MForm)
  /-- R274 -/
  | amin (o : MForm)
  /-- R274 -/
  | amax (o : MForm)
  /-- R274 -/
  | afadd (o : MForm)
  /-- R280 -/
  | xadd (o : MForm)
  /-- R280 -/
  | xrd (o : MForm)
  /-- R274 -/
  | aand (o : AForm)
  /-- R274 -/
  | aor (o : AForm)
  /-- R274 -/
  | axor (o : AForm)
  /-- R274 -/
  | ainc (o : AForm)
  /-- R262 -/
  | fence (o : AForm)
  /-- R262 -/
  | fenceAcq (o : AForm)
  /-- R262 -/
  | fenceRel (o : AForm)
  /-- R284 -/
  | rvinit (o : AForm)
  /-- R284 -/
  | rvarrive (o : AForm)
  /-- R284 -/
  | rvwait (o : AForm)
  /-- R290 -/
  | rvwaitSpec (o : AForm)
  /-- R284 -/
  | rvsync (o : AForm)
  /-- R286 -/
  | rvpoll (o : AForm)
  /-- R284 -/
  | gbinit (o : AForm)
  /-- R284 -/
  | gbarrive (o : AForm)
  /-- R284 -/
  | gbwait (o : AForm)
  /-- R284 -/
  | gbsync (o : AForm)
  /-- R277 -/
  | waitvEq (o : AForm)
  /-- R277 -/
  | waitvNe (o : AForm)
  /-- R298 -/
  | specwait (o : AForm)
  /-- R280 -/
  | xset (o : AForm)
  /-- R286 -/
  | rvstat (o : AForm)
  /-- R314 -/
  | mlds (o : XForm)
  /-- R314 -/
  | mldl (o : XForm)
  /-- R315 -/
  | mswap (o : XForm)
  /-- R316 -/
  | mmul (o : XForm)
  /-- R316 -/
  | mmulz (o : XForm)
  /-- R319 -/
  | acst (o : XForm)
  /-- R320 -/
  | acld (o : XForm)
  /-- R321 -/
  | acsclRow (o : XForm)
  /-- R321 -/
  | acsclCol (o : XForm)
  /-- R322 -/
  | acnrm (o : XForm)
  /-- R323 -/
  | acredMax (o : XForm)
  /-- R323 -/
  | acredSum (o : XForm)
  /-- R321 -/
  | acbias (o : XForm)
  /-- R306 -/
  | cvinit (o : AForm)
  /-- R306 -/
  | msign (o : AForm)
  /-- R310 -/
  | mwait (o : AForm)
  /-- R310 -/
  | mstat (o : AForm)
  /-- R310 -/
  | mstclr (o : AForm)
  /-- R325 -/
  | acrd (o : AForm)
  /-- R325 -/
  | acwr (o : AForm)
  /-- R325 -/
  | acclr (o : AForm)
  /-- R325 -/
  | mplane (o : AForm)
  /-- R336 -/
  | cpy (o : XForm)
  /-- R336 -/
  | fill (o : XForm)
  /-- R337 -/
  | cpts (o : XForm)
  /-- R337 -/
  | cpfs (o : XForm)
  /-- R338 -/
  | cpald (o : XForm)
  /-- R338 -/
  | cpast (o : XForm)
  /-- R340 -/
  | gcp (o : XForm)
  /-- R340 -/
  | gcpts (o : XForm)
  /-- R341 -/
  | expf (o : XForm)
  /-- R341 -/
  | exwb (o : XForm)
  /-- R347 -/
  | waitlt (o : AForm)
  /-- R348 -/
  | ccrd (o : AForm)
  /-- R348 -/
  | ccadd (o : AForm)
  /-- R348 -/
  | ccclr (o : AForm)
  /-- R362 -/
  | refine (o : XForm)
  /-- R369 -/
  | rfres (o : XForm)
  /-- R369 -/
  | rfchk (o : XForm)
  /-- R375 -/
  | rfcancel (o : XForm)
  /-- R372 -/
  | rfwait (o : AForm)
  /-- R374 -/
  | rfstat (o : AForm)
  /-- R390 -/
  | mfs (o : AForm)
  /-- R390 -/
  | mts (o : AForm)
  /-- R390 -/
  | mtsset (o : AForm)
  /-- R390 -/
  | mtsclr (o : AForm)
  /-- R384 -/
  | tret (o : AForm)
  /-- R385 -/
  | tmask (o : AForm)
  /-- R385 -/
  | tunmask (o : AForm)
  /-- R391 -/
  | tabort (o : AForm)
  /-- R393 -/
  | tmplace (o : AForm)
  /-- R393 -/
  | tmsave (o : AForm)
  /-- R393 -/
  | tmrest (o : AForm)
  /-- R393 -/
  | tmflush (o : AForm)
  /-- R393 -/
  | tmkill (o : AForm)
  /-- R395 -/
  | tkclaim (o : AForm)
  /-- R393 -/
  | tkdone (o : AForm)
  /-- R391 -/
  | ftime (o : AForm)
  /-- R395 -/
  | fwidle (o : AForm)
  /-- R395 -/
  | fwsev (o : AForm)
  /-- R392 -/
  | qpost (o : AForm)
  /-- R391 -/
  | rdcyc (o : AForm)
  /-- R425 -/
  | lsreq (o : AForm)
  /-- R425 -/
  | lsrenew (o : AForm)
  /-- R425 -/
  | lsdrop (o : AForm)
  /-- R426 -/
  | exlend (o : AForm)
  /-- R426 -/
  | lsrecall (o : AForm)
  /-- R426 -/
  | lsrd (o : AForm)
  /-- R435 -/
  | kyopen (o : AForm)
  /-- R435 -/
  | kyclose (o : AForm)
  /-- R429 -/
  | fmcand (o : LForm)
  /-- R427 -/
  | exmig (o : XForm)
  /-- R433: vd, the byte-offset register and the window register -/
  | twlV (vd rs1 rs2 : BitVec 5)
  /-- R112: A paused thread becomes ready again when its imm cycles have passed. -/
  | pauseExpiry (core slot lane : Nat)
    /-- R92: When every member of a join entry waits at its target or has exited, the members
  become ready together. -/
  | joinRelease (core slot entry : Nat)
    /-- R135: An open collective instance completes when every named lane has joined or exited and
  all contributors write their results. -/
  | laneCollectiveCompletion (core slot idx : Nat)
    /-- R96: A serviced parked sub-group becomes ready and replays its instruction in its own
  lanes. -/
  | parkedSubgroupReplay (core slot idx : Nat)
    /-- R55: A deferred load, atomic or remote mfs result arrives and sets its register full, or
  poisoned. -/
  | deferredResultArrival (core idx : Nat)
  /-- R257: A store leaves its weave's FIFO store queue and becomes visible to the core. -/
  | storeQueueDrain (core slot : Nat)
  /-- R257: A store is performed at its home and becomes visible to every other core and agent. -/
  | storePerformed (core idx : Nat)
  /-- R250: A line copy's hold reaches its expiry and the copy becomes invalid. -/
  | holdExpiry (idx : Nat)
  /-- R251: A write waiting at its slice is performed once every hold on the line has expired. -/
  | writeAfterHolds (core idx : Nat)
  /-- R200: A Larder bank group enters or leaves its refresh window, stalling or releasing reads. -/
  | larderRefreshWindow (die group : Nat) (enter : Bool)
  /-- R252: Each die raises HGEN when fabric time bit 39 changes. -/
  | hgenIncrement (die : Nat)
    /-- R252: A core leaving retention sleep compares HGEN and invalidates its cache banks if it
  differs. -/
  | coreRetentionWake (core : Nat)
  /-- R253: A PTP correction adjusts fabric time, slowing it instead of moving it back. -/
  | ptpCorrection (offset : Int)
  /-- R24: Average power over 1 ms above the limit makes cores insert idle issue cycles. -/
  | powerLimitWindow (milliwatts : Nat)
  /-- R244: A page's directory resolves a tenure request against held pieces and grants. -/
  | tileDirectoryRequest (idx : Nat)
  /-- R274: An atomic is performed at its executor with no intervening store. -/
  | atomicPerform (core idx : Nat)
    /-- R293: A conflicting store on a read-set sector rolls the speculating thread back to its
  rvwait. -/
  | speculativeRollback (core slot lane : Nat)
  /-- R277: After a store to the watched word becomes visible the device reads it again. -/
  | waitvReread (core slot lane : Nat)
  /-- R289: A gang barrier's completion travels from its holding engine to the waiting teams. -/
  | gangBarrierRelease (gang bar : Nat)
    /-- R282: The synchronisation engine applies a store or atomic to a half-line and updates its
  sharers. -/
  | syncEngineUpdate (core idx : Nat)
    /-- R308: A released matrix command starts on its unit once earlier and conflicting commands
  allow. -/
  | matrixCommandStart (core idx : Nat)
  /-- R327: A row command finishes a block of 32 rows and lowers its counter. -/
  | matrixBlockDone (core idx : Nat)
  /-- R324: A matrix command completes or ends in error, updating slots, DONE and its counter. -/
  | matrixCommandComplete (core idx : Nat)
  /-- R344: A copy command starts once every earlier conflicting command has completed. -/
  | engineCommandStart (core idx : Nat)
  /-- R342: The engine starts a unit in a free buffer and reads its source. -/
  | engineUnitStart (core idx : Nat)
    /-- R342: A unit's writes are performed at their homes and its bytes are discharged in posting
  order. -/
  | engineUnitPerformed (core buf : Nat)
  /-- R358: The controller starts the next queued block. -/
  | refineBlockStart (die : Nat)
  /-- R378: The controller finishes an item, the only point where it stops for a save or cancel. -/
  | refineItemEnd (die : Nat)
  /-- R370: A block writes X, zeroes W, writes the status record and discharges its charge. -/
  | refineBlockEnd (die : Nat)
  /-- R371: The arithmetic trap of an exhausted ladder is delivered to the posting weave. -/
  | refineTrapDelivery (idx : Nat)
  /-- R385: A handler masked for 2 µs has its context killed with reason 0x03. -/
  | handlerWatchdogExpiry (core slot : Nat)
  /-- R388: Reading flt.rec0 returns word 0 and presents the next fault record. -/
  | fltRec0Read (core : Nat)
  /-- R388: Reading eflt.rec0 returns word 0 and presents the next engine fault record. -/
  | efltRec0Read (core : Nat)
  /-- R213: Firmware ends a fault record with replay, protection or poison. -/
  | fltAck (core : Nat) (value : DWord)
  /-- R351: Firmware ends an engine fault record with replay or an error. -/
  | efltAck (core : Nat) (value : DWord)
  /-- R387: Any write to tr.ppc clears the poison record tr.ppc and tr.pva. -/
  | trPpcWrite (core slot : Nat)
    /-- R7: Write to a register with no behaviour of its own, stored or discarded as its access
  code gives. -/
  | registerWrite (addr : Nat) (value : DWord)
  /-- R403: A store to a queue descriptor, discarded while the queue is active. -/
  | queueDescriptorWrite (queue word : Nat) (value : DWord)
    /-- R403: Writing 1 to a queue control register validates the descriptor and activates the
  queue. -/
  | queueActivate (queue : Nat)
  /-- R407: Writing 2 to a queue control register cancels its undispatched work and destroys it. -/
  | queueDestroy (queue : Nat)
  /-- R404: A store to a notify register wakes the queue's thread to consume packets up to WIDX. -/
  | queueNotify (queue : Nat)
  /-- R409: A PARTMAP write updates core fields except those of cores holding teams or tickets. -/
  | partmapWrite (idx : Nat) (value : DWord)
  /-- R422: A LEASECTL write, discarded while any borrower entry is in use. -/
  | leasectlWrite (value : DWord)
    /-- R410: The queue processor reserves, commits or rolls back a window and posts tickets for
  the head gang. -/
  | gangPlacement (queue : Nat)
  /-- R410: The gang start barrier releases every team of the gang. -/
  | gangStartRelease (gang : Nat)
  /-- R411: A blocked head ages one point per whole millisecond, stopping back-fill at age 8. -/
  | headAging (queue : Nat)
  /-- R396: The queue processor advances RETIRED past done or flushed tickets. -/
  | ticketRetire (partition : Nat)
    /-- R406: A queue-processor thread silent for 50 µs is replaced by the standby, which replays
  its journal. -/
  | journalTakeover (thread : Nat)
    /-- R413: A team's slice expires, making Pending 1 and computing the debt at its next safe
  point. -/
  | sliceExpiry (core team : Nat)
  /-- R413: A team that reaches no safe point in time after expiry is pre-empted urgently. -/
  | urgentPreemptionTimeout (core team : Nat)
  /-- R414: The device chooses drain, save or flush for a team and carries it out. -/
  | preemptionRequest (core team : Nat)
  /-- R414: A draining team not ended after 100 µs is saved at once. -/
  | drainTimeout (core team : Nat)
    /-- R109: A team completes when every weave is freed and its commands, blocks and write-backs
  have ended. -/
  | teamCompletion (core team : Nat)
  /-- R425: The lender checks a lease request and grants or refuses it at once. -/
  | leaseRequestReceived (msg : LeaseMsg)
  /-- R419: A grant or refusal reaches the borrower entry in PENDING. -/
  | leaseGrantReceived (msg : LeaseMsg)
  /-- R419: A PENDING borrower entry with no reply within 50 µs returns to FREE. -/
  | leaseReplyTimeout (entry : Nat)
    /-- R419: Fabric time reaches TERM minus LEAD and the borrower entry enters ENDING with a
  lease shootdown. -/
  | borrowerLeaseEnd (entry : Nat)
  /-- R419: An ENDING borrower entry, written back and acknowledged, becomes FREE. -/
  | endingWritebackDone (entry : Nat)
  /-- R419: A revoke reaches the borrower, which frees the entry with CAUSE 2 and shoots down. -/
  | leaseRevokeReceived (entry : Nat)
  /-- R419: Fabric time reaches TERM with no release and the lender entry enters RECALLING. -/
  | lenderTermExpiry (extent : Nat)
  /-- R419: A release reaches the lender entry, which becomes FREE. -/
  | leaseReleaseReceived (extent : Nat)
    /-- R421: A back-invalidate snoop reaches the borrower, which answers with dirty data or an
  acknowledgement. -/
  | backInvalidateSnoop (entry line : Nat)
  /-- R421: With every snoop answered the lender commits, frees the entry and sends a revoke. -/
  | recallCommit (extent : Nat)
  /-- R420: Each party of an active lease sends a keepalive every 10 µs. -/
  | leaseKeepalive (peer : Nat) (received : Bool)
    /-- R420: After 50 µs with no keepalive or answer the peer is silent and its leases end as
  peer failure. -/
  | peerSilent (peer : Nat)
    /-- R211: An access to the lender with no response within 50 µs parks its lane with detail
  0x04. -/
  | lenderRequestTimeout (core idx : Nat)
    /-- R429: The fabric manager renews its 1 ms role lease every 100 µs with majority
  acknowledgements. -/
  | fmRoleLeaseRenew (acks : Nat)
  /-- R430: Every 1024 ns a receiver advertises each channel's flit window. -/
  | garefWindowAdvertise (port channel flits : Nat)
  /-- R430: PAUSE or RESUME for a virtual channel takes effect at the transmitter. -/
  | garefPause (port channel : Nat) (pause : Bool)
  /-- R430: A flit arrives and is checked, a failure triggering replay from it. -/
  | garefFlitReceive (port seq : Nat) (good : Bool)
  /-- R430: A link down for 1 ms is reported to firmware and accesses across it end. -/
  | garefLinkDown (port : Nat)
    /-- R431: An attached host asks for a copy, back-invalidating a victim when the snoop filter
  is full. -/
  | hostCacheRequest (port line : Nat) (modify : Bool)
    /-- R432: A received frame passing FCS is written into the receive ring with a timestamped
  header, or dropped. -/
  | ethernetFrameReceive (port : Nat) (frame : List Byte) (fcs : Bool) (stamp : DWord)
  /-- R436: A firmware image is accepted only if both signatures verify. -/
  | firmwareImageUpdate (image : Nat) (classical postQuantum : Bool)
  /-- R436: An SPDM measurement request is answered, or told ResponseNotReady during activation. -/
  | spdmMeasurementRequest (port : Nat)
  /-- R437: A cold start trains memory, zeroes the Cellar and clears the lease table. -/
  | coldStart
  /-- R437: A warm start keeps the Cellar, lease table and HBM and writes back the lease cache. -/
  | warmStart
  /-- R438: Lifetime counters are written to flash hourly and at orderly shutdown. -/
  | telemetryFlush (orderly : Bool)
    /-- R73: A word whose major opcode is unassigned, reserved or a header code issues as an
  instruction and raises the illegal-instruction trap. -/
  | unassignedOpcodeIssue (word : DWord)
  /-- R25: At fabric enumeration the package learns its package number and loads CHIPID.PKG. -/
  | fabricEnumeration (pkg : Nat)
  /-- R252: A core enters retention sleep and records the die's HGEN. -/
  | coreRetentionSleep (core : Nat)
    /-- R421: A memory access from a peer package, borrower, CXL peer or attached host arrives at
  this package and is served, refused as revoked, firewalled or answered with an error. -/
  | peerAccessArrival (req : PeerReq)
    /-- R429: A fabric manager's 1 ms role lease expires without renewal, ending its role and
  freeing candidates to acknowledge a new manager. -/
  | fmRoleLeaseExpiry
    /-- R430: A Garef link that was being retrained finishes retraining and replays from the
  failed flit. -/
  | garefRetrainComplete (port : Nat)
  /-- R414: The scheduler reserves a core for a saved team so that it can be restored. -/
  | savedTeamRestore (idx : Nat)
  deriving DecidableEq, Repr

end Sys2Proof
end

