-- ==== Sys2Proof/Machine/Forms.lean ====
section
/-! DEFINITION. Operand forms: for every instruction how its words use each field, which fn, ty and
mod values it accepts (02 R74), its own reserved bits and the resources it names. One row per
instruction, from the field tables of 02 to 13. -/

namespace Sys2Proof

/-- Bit `ty` of `mask` is set. -/
def tyIn (mask : Nat) (ty : BitVec 3) : Bool := mask.testBit ty.toNat
def ty0 (ty : BitVec 3) : Bool := ty == 0
def mod0 (m : BitVec 4) : Bool := m == 0
/-- mod[2:0] = 000, .sat where `sat` (02 R53, 04 R118). -/
def modInt (sat : Bool) (m : BitVec 4) : Bool := m == 0 || (sat && m == 8)
/-- rounding D of 05 R159 with .sat. -/
def modD (m : BitVec 4) : Bool := decide (m.toNat % 8 ≤ 4)
/-- rounding D or .rs of 05 R159 with .sat. -/
def modDrs (m : BitVec 4) : Bool := decide (m.toNat % 8 ≤ 5)
/-- .acq, .rel or .ar with a scope, or neither (06 R178, 08 R270). -/
def modScope (m : BitVec 4) : Bool := m == 0 || decide (9 ≤ m.toNat ∧ m.toNat ≤ 14)
/-- only mod[3] may be set (06 R186, R209). -/
def modTop (m : BitVec 4) : Bool := m == 0 || m == 8
/-- scope .die or .pkg (06 R206, R207). -/
def modDiePkg (m : BitVec 4) : Bool := m == 3 || m == 4
/-- a fence needs a scope (08 R270). -/
def modFence (m : BitVec 4) : Bool := decide (1 ≤ m.toNat ∧ m.toNat ≤ 6)
/-- .lk free, a scope or none (08 R270). -/
def modWaitv (m : BitVec 4) : Bool := decide (m.toNat % 8 ≤ 6)
/-- .rls or none (10 R333). -/
def modRls (m : BitVec 4) : Bool := m == 0 || m == 1
/-- bits of an operand of an integer type (04 Table 1). -/
def intBits (ty : BitVec 3) : Nat :=
  if ty == 2 || ty == 3 || ty == 5 then 64 else if ty == 6 then 8 else if ty == 7 then 4 else 32
/-- bits of an operand of a floating-point type (05 R146). -/
def fpBits (ty : BitVec 3) : Nat :=
  if ty == 1 then 64 else if ty == 2 || ty == 3 then 16 else if ty == 4 || ty == 5 then 8
  else if ty == 6 then 4 else 32
/-- bits of an operand of an access width (06 R177). -/
def memBits (ty : BitVec 3) : Nat := 8 * 2 ^ ty.toNat
/-- bits of an operand of a type of the synchronisation class (08 Table 6). -/
def syncBits (ty : BitVec 3) : Nat :=
  if ty == 2 || ty == 3 || ty == 5 then 64 else if ty == 6 then 128 else 32
/-- the code in the low three bits of a field. -/
def codeTy (c : BitVec 9) : BitVec 3 := c.extractLsb' 0 3
/-- the code in the low `n` bits is not `v`. -/
def codeNe (n v : Nat) (c : BitVec 9) : Bool := c.toNat % 2 ^ n != v
/-- a condition code of 04 Table 5. -/
def cond6 (b : BitVec 9) : Bool := decide (b.toNat % 8 ≤ 5)
/-- cmp: .b types take only .eq and .ne (04 R128). -/
def cmpCond (ty : BitVec 3) (c : BitVec 9) : Bool :=
  if ty == 4 || ty == 5 then decide (c.toNat % 8 ≤ 1) else decide (c.toNat % 8 ≤ 5)
/-- scan: operation, type and .sat (04 R139, Table 7). -/
def scanOk (ty : BitVec 3) (m : BitVec 4) (c : BitVec 9) : Bool :=
  let op := c.toNat % 8
  (m == 0 || (m == 8 && op == 0)) &&
    (if op ≤ 2 then decide (ty.toNat ≤ 3) else decide (op ≤ 5) && (ty == 4 || ty == 5))
/-- fcvt from `s` to `d` is narrowing (05 R166). -/
def narrowing (s d : BitVec 3) : Bool :=
  !(d == 1 || (d == 0 && (2 ≤ s.toNat && s.toNat ≤ 6)) ||
    ((d == 2 || d == 3) && (4 ≤ s.toNat && s.toNat ≤ 6)) ||
    ((d == 4 || d == 5) && s == 6))
def fcvtOk (ty : BitVec 3) (m : BitVec 4) (c : BitVec 9) : Bool :=
  let s := codeTy c
  tyIn 0x7F ty && tyIn 0x7F s && ty != s && (modD m || (modDrs m && narrowing s ty))
/-- an integer type of a conversion (05 R159). -/
def itySet (s : BitVec 3) : Bool := tyIn 0xCF s
/-- icvtf from integer type `s` to `d` is narrowing (05 R166). -/
def narrowingInt (s d : BitVec 3) : Bool :=
  if d == 1 then s == 2 || s == 3
  else if s == 6 then !(d == 0 || d == 2 || d == 3)
  else if s == 7 then d == 6
  else true
/-- The types of Table 5, and .e2m1 from .sm4, which 05 R166 names. Log entry 22, DEDUCED. -/
def icvtfOk (ty : BitVec 3) (m : BitVec 4) (c : BitVec 9) : Bool :=
  let s := codeTy c
  itySet s && (tyIn 0x0F ty || (ty == 6 && s == 7)) && (modD m || (modDrs m && narrowingInt s ty))
/-- element bits of a packed type (05 R168). -/
def packBits (ty : BitVec 3) : Nat := if ty == 2 || ty == 3 then 16 else if ty == 6 then 4 else 8
def fpkOk (pos : BitVec 4) (ty : BitVec 3) (m : BitVec 4) : Bool :=
  tyIn 0x7C ty && modDrs m && decide (pos.toNat < 16 / packBits ty)
def fupkOk (pos : BitVec 4) (ty : BitVec 3) (m : BitVec 4) : Bool :=
  tyIn 0x7C ty && mod0 m && decide (pos.toNat < 32 / packBits ty)
/-- thext: dimension 0 to 4 (07 R227). -/
def thextOk (c : BitVec 9) : Bool := decide (c.toNat % 8 ≤ 4)
/-- operand type with block scales (09 R303). -/
def opTyOk (ty : BitVec 3) (bs : Bool) : Bool :=
  if ty == 4 then bs else ty != 7 && (!bs || ty == 2 || ty == 3)
/-- accumulator-side type of acst with block scales (09 R303). -/
def acstOk (ty : BitVec 3) (bs : Bool) : Bool := !bs || ty == 4 || ty == 5 || ty == 6
/-- imm16[15:n] is zero. -/
def immHi0 (n : Nat) (imm : BitVec 16) : Bool := decide (imm.toNat < 2 ^ n)
def disp0 (d : BitVec 13) : Bool := d == 0
def ts0 (t : BitVec 6) : Bool := t == 0
def ccRes (cce : Bool) (cc : BitVec 4) : List (Res × Nat) := if cce then [(.cc, cc.toNat)] else []

/-- The numbers of 12 Table 4: registers of 64 bits. -/
def sreg64 : List Nat := [0x000, 0x002, 0x003, 0x005, 0x006, 0x007, 0x020, 0x021, 0x025, 0x026,
  0x027, 0x030, 0x031, 0x040, 0x041, 0x042, 0x043, 0x044, 0x048, 0x049, 0x04A, 0x04B, 0x04C, 0x050]
/-- The numbers of 12 Table 4: registers of 32 bits. -/
def sreg32 : List Nat := [0x001, 0x004, 0x010, 0x011, 0x012, 0x018, 0x019, 0x022, 0x023, 0x024]
def sregKnown (c : BitVec 9) : Bool := sreg64.contains c.toNat || sreg32.contains c.toNat
def sregBits (c : BitVec 9) : Nat := if sreg64.contains c.toNat then 64 else 32
/-- What a user weave may do with a system register (12 Table 4, column User). -/
def sregUserRead (n : Nat) : Bool :=
  (sreg64.contains n || sreg32.contains n) && n != 0x002 && decide (n < 0x040)
def sregUserWrite (n : Nat) : Bool :=
  [0x010, 0x011, 0x012, 0x018, 0x019, 0x024, 0x026].contains n


def rowBr (_o : BForm) : Row := {}
def rowCall (_o : BForm) : Row := { d := .dst 64 }
def rowDbnz (_o : BForm) : Row := { d := .both 32 }
def rowBz (_o : BForm) : Row := { d := .src 32 }
def rowBnz (_o : BForm) : Row := { d := .src 32 }
def rowBfull (_o : BForm) : Row := { d := .peek }
def rowBempty (_o : BForm) : Row := { d := .peek }
def rowBpend (_o : BForm) : Row := {}
def rowJmp (o : AForm) : Row := { a := .src 64, accept := ty0 o.ty && mod0 o.mod }
def rowJcall (o : AForm) : Row := { d := .dst 64, a := .src 64, accept := ty0 o.ty && mod0 o.mod }
def rowRet (o : AForm) : Row := { a := .src 64, accept := ty0 o.ty && mod0 o.mod }
def rowPand (o : AForm) : Row :=
  { d := .pred, a := .pred, b := .pred, accept := ty0 o.ty && mod0 o.mod }
def rowPor (o : AForm) : Row :=
  { d := .pred, a := .pred, b := .pred, accept := ty0 o.ty && mod0 o.mod }
def rowPxor (o : AForm) : Row :=
  { d := .pred, a := .pred, b := .pred, accept := ty0 o.ty && mod0 o.mod }
def rowPandn (o : AForm) : Row :=
  { d := .pred, a := .pred, b := .pred, accept := ty0 o.ty && mod0 o.mod }
def rowPset (o : AForm) : Row := { d := .pred, a := .src 32, accept := ty0 o.ty && mod0 o.mod }
def rowPget (o : AForm) : Row := { d := .dst 32, a := .pred, accept := ty0 o.ty && mod0 o.mod }
def rowExit (o : AForm) : Row := { accept := ty0 o.ty && mod0 o.mod }
def rowYield (o : AForm) : Row := { accept := ty0 o.ty && mod0 o.mod }
def rowNop (o : AForm) : Row := { accept := ty0 o.ty && mod0 o.mod }
def rowPause (o : IForm) : Row := { accept := ty0 o.ty && mod0 o.mod }
def rowBrk (o : IForm) : Row := { accept := ty0 o.ty && mod0 o.mod }
def rowAdd (o : AForm) : Row :=
  { d := .dst (intBits o.ty), a := .src (intBits o.ty), b := .src (intBits o.ty),
    accept := tyIn 0xcf o.ty && modInt true o.mod }
def rowSub (o : AForm) : Row :=
  { d := .dst (intBits o.ty), a := .src (intBits o.ty), b := .src (intBits o.ty),
    accept := tyIn 0xcf o.ty && modInt true o.mod }
def rowAddc (o : AForm) : Row :=
  { d := .dst (intBits o.ty), a := .src (intBits o.ty), b := .src (intBits o.ty), c := .pred,
    accept := tyIn 0x0A o.ty && modInt false o.mod }
def rowSubb (o : AForm) : Row :=
  { d := .dst (intBits o.ty), a := .src (intBits o.ty), b := .src (intBits o.ty), c := .pred,
    accept := tyIn 0x0A o.ty && modInt false o.mod }
def rowMin (o : AForm) : Row :=
  { d := .dst (intBits o.ty), a := .src (intBits o.ty), b := .src (intBits o.ty),
    accept := tyIn 0xcf o.ty && modInt false o.mod }
def rowMax (o : AForm) : Row :=
  { d := .dst (intBits o.ty), a := .src (intBits o.ty), b := .src (intBits o.ty),
    accept := tyIn 0xcf o.ty && modInt false o.mod }
def rowAbs (o : AForm) : Row :=
  { d := .dst (intBits o.ty), a := .src (intBits o.ty),
    accept := tyIn 0xC5 o.ty && modInt true o.mod }
def rowMul (o : AForm) : Row :=
  { d := .dst (intBits o.ty), a := .src (intBits o.ty), b := .src (intBits o.ty),
    accept := tyIn 0xcf o.ty && modInt true o.mod }
def rowMulhi (o : AForm) : Row :=
  { d := .dst (intBits o.ty), a := .src (intBits o.ty), b := .src (intBits o.ty),
    accept := tyIn 0xf o.ty && modInt false o.mod }
def rowMulw (o : AForm) : Row :=
  { d := .dst 64, a := .src 32, b := .src 32, accept := tyIn 0x03 o.ty && modInt false o.mod }
def rowMad (o : AForm) : Row :=
  { d := .dst (intBits o.ty), a := .src (intBits o.ty), b := .src (intBits o.ty), c := .src (intBits o.ty),
    accept := tyIn 0x0F o.ty && modInt true o.mod }
def rowAnd (o : AForm) : Row :=
  { d := .dst (intBits o.ty), a := .src (intBits o.ty), b := .src (intBits o.ty),
    accept := tyIn 0x30 o.ty && modInt false o.mod }
def rowOr (o : AForm) : Row :=
  { d := .dst (intBits o.ty), a := .src (intBits o.ty), b := .src (intBits o.ty),
    accept := tyIn 0x30 o.ty && modInt false o.mod }
def rowXor (o : AForm) : Row :=
  { d := .dst (intBits o.ty), a := .src (intBits o.ty), b := .src (intBits o.ty),
    accept := tyIn 0x30 o.ty && modInt false o.mod }
def rowAndn (o : AForm) : Row :=
  { d := .dst (intBits o.ty), a := .src (intBits o.ty), b := .src (intBits o.ty),
    accept := tyIn 0x30 o.ty && modInt false o.mod }
def rowShl (o : AForm) : Row :=
  { d := .dst (intBits o.ty), a := .src (intBits o.ty), b := .src 32,
    accept := tyIn 0x30 o.ty && modInt false o.mod }
def rowShr (o : AForm) : Row :=
  { d := .dst (intBits o.ty), a := .src (intBits o.ty), b := .src 32,
    accept := tyIn 0x30 o.ty && modInt false o.mod }
def rowSar (o : AForm) : Row :=
  { d := .dst (intBits o.ty), a := .src (intBits o.ty), b := .src 32,
    accept := tyIn 0x30 o.ty && modInt false o.mod }
def rowRor (o : AForm) : Row :=
  { d := .dst (intBits o.ty), a := .src (intBits o.ty), b := .src 32,
    accept := tyIn 0x30 o.ty && modInt false o.mod }
def rowFsh (o : AForm) : Row :=
  { d := .dst (intBits o.ty), a := .src (intBits o.ty), b := .src (intBits o.ty), c := .src 32,
    accept := tyIn 0x30 o.ty && modInt false o.mod }
def rowBfx (o : AForm) : Row :=
  { d := .dst (intBits o.ty), a := .src (intBits o.ty), b := .src 32,
    accept := tyIn 0x0F o.ty && modInt false o.mod }
def rowBfi (o : AForm) : Row :=
  { d := .dst (intBits o.ty), a := .src (intBits o.ty), b := .src 32, c := .src (intBits o.ty),
    accept := tyIn 0x30 o.ty && modInt false o.mod }
def rowPopc (o : AForm) : Row :=
  { d := .dst 32, a := .src (intBits o.ty), accept := tyIn 0x30 o.ty && modInt false o.mod }
def rowClz (o : AForm) : Row :=
  { d := .dst 32, a := .src (intBits o.ty), accept := tyIn 0x30 o.ty && modInt false o.mod }
def rowAddi (o : IForm) : Row :=
  { d := .dst (intBits o.ty), a := .src (intBits o.ty),
    accept := tyIn 0x0F o.ty && modInt true o.mod }
def rowMuli (o : IForm) : Row :=
  { d := .dst (intBits o.ty), a := .src (intBits o.ty),
    accept := tyIn 0x0F o.ty && modInt true o.mod }
def rowAndi (o : IForm) : Row :=
  { d := .dst (intBits o.ty), a := .src (intBits o.ty),
    accept := tyIn 0x30 o.ty && modInt false o.mod }
def rowOri (o : IForm) : Row :=
  { d := .dst (intBits o.ty), a := .src (intBits o.ty),
    accept := tyIn 0x30 o.ty && modInt false o.mod }
def rowLid (o : IForm) : Row := { d := .dst 32, accept := tyIn 0x01 o.ty && modInt false o.mod }
def rowShli (o : IForm) : Row :=
  { d := .dst (intBits o.ty), a := .src (intBits o.ty),
    accept := tyIn 0x30 o.ty && modInt false o.mod }
def rowShri (o : IForm) : Row :=
  { d := .dst (intBits o.ty), a := .src (intBits o.ty),
    accept := tyIn 0x30 o.ty && modInt false o.mod }
def rowSari (o : IForm) : Row :=
  { d := .dst (intBits o.ty), a := .src (intBits o.ty),
    accept := tyIn 0x30 o.ty && modInt false o.mod }
def rowBfxi (o : IForm) : Row :=
  { d := .dst (intBits o.ty), a := .src (intBits o.ty),
    accept := tyIn 0x0F o.ty && modInt false o.mod }
def rowCmpi (o : IForm) : Row :=
  { d := .pred, a := .src (intBits o.ty), b := .code 3,
    accept := tyIn 0x0F o.ty && modInt false o.mod && cond6 o.b }
def rowLea (o : IForm) : Row :=
  { d := .dst 64, a := .src 64, b := .src (intBits o.ty),
    accept := tyIn 0x0F o.ty && modInt false o.mod }
def rowShup (o : IForm) : Row :=
  { d := .dst (intBits o.ty), a := .src (intBits o.ty), b := .src 32,
    accept := tyIn 0x30 o.ty && modInt false o.mod, clear := immHi0 5 o.imm, coll := true }
def rowShdn (o : IForm) : Row :=
  { d := .dst (intBits o.ty), a := .src (intBits o.ty), b := .src 32,
    accept := tyIn 0x30 o.ty && modInt false o.mod, clear := immHi0 5 o.imm, coll := true }
def rowShxor (o : IForm) : Row :=
  { d := .dst (intBits o.ty), a := .src (intBits o.ty), b := .src 32,
    accept := tyIn 0x30 o.ty && modInt false o.mod, clear := immHi0 5 o.imm, coll := true }
def rowCmp (o : AForm) : Row :=
  { d := .pred, a := .src (intBits o.ty), b := .src (intBits o.ty), c := .code 3,
    accept := tyIn 0xFF o.ty && modInt false o.mod && cmpCond o.ty o.c }
def rowSel (o : AForm) : Row :=
  { d := .dst (intBits o.ty), a := .src (intBits o.ty), b := .src (intBits o.ty), c := .pred,
    accept := tyIn 0x30 o.ty && modInt false o.mod }
def rowShfl (o : AForm) : Row :=
  { d := .dst (intBits o.ty), a := .src (intBits o.ty), b := .src 32, c := .src 32,
    accept := tyIn 0x30 o.ty && modInt false o.mod, coll := true }
def rowVote (o : AForm) : Row :=
  { d := .pred, a := .pred, b := .src 32, c := .code 2,
    accept := tyIn 0x01 o.ty && modInt false o.mod && codeNe 2 3 o.c, coll := true }
def rowBallot (o : AForm) : Row :=
  { d := .dst 32, a := .pred, b := .src 32,
    accept := tyIn 0x01 o.ty && modInt false o.mod, coll := true }
def rowScan (o : AForm) : Row :=
  { d := .dst (intBits o.ty), a := .src (intBits o.ty), b := .src 32, c := .code 4,
    accept := scanOk o.ty o.mod o.c, coll := true }
def rowLi (o : LForm) : Row :=
  { d := .dst (intBits o.ty), accept := tyIn 0x30 o.ty && modInt false o.mod }
def rowLda (o : LForm) : Row := { d := .dst 64, accept := tyIn 0x20 o.ty && modInt false o.mod }
def rowFadd (o : AForm) : Row :=
  { d := .dst (fpBits o.ty), a := .src (fpBits o.ty), b := .src (fpBits o.ty),
    accept := tyIn 0x0F o.ty && modD o.mod }
def rowFsub (o : AForm) : Row :=
  { d := .dst (fpBits o.ty), a := .src (fpBits o.ty), b := .src (fpBits o.ty),
    accept := tyIn 0x0F o.ty && modD o.mod }
def rowFmul (o : AForm) : Row :=
  { d := .dst (fpBits o.ty), a := .src (fpBits o.ty), b := .src (fpBits o.ty),
    accept := tyIn 0x0F o.ty && modD o.mod }
def rowFdiv (o : AForm) : Row :=
  { d := .dst (fpBits o.ty), a := .src (fpBits o.ty), b := .src (fpBits o.ty),
    accept := tyIn 0x0F o.ty && modD o.mod }
def rowFma (o : AForm) : Row :=
  { d := .dst (fpBits o.ty), a := .src (fpBits o.ty), b := .src (fpBits o.ty), c := .src (fpBits o.ty),
    accept := tyIn 0x0F o.ty && modD o.mod }
def rowFms (o : AForm) : Row :=
  { d := .dst (fpBits o.ty), a := .src (fpBits o.ty), b := .src (fpBits o.ty), c := .src (fpBits o.ty),
    accept := tyIn 0x0F o.ty && modD o.mod }
def rowFsqrt (o : AForm) : Row :=
  { d := .dst (fpBits o.ty), a := .src (fpBits o.ty), accept := tyIn 0x0F o.ty && modD o.mod }
def rowFmin (o : AForm) : Row :=
  { d := .dst (fpBits o.ty), a := .src (fpBits o.ty), b := .src (fpBits o.ty),
    accept := tyIn 0x0F o.ty && mod0 o.mod }
def rowFmax (o : AForm) : Row :=
  { d := .dst (fpBits o.ty), a := .src (fpBits o.ty), b := .src (fpBits o.ty),
    accept := tyIn 0x0F o.ty && mod0 o.mod }
def rowFabs (o : AForm) : Row :=
  { d := .dst (fpBits o.ty), a := .src (fpBits o.ty), accept := tyIn 0x0F o.ty && mod0 o.mod }
def rowFneg (o : AForm) : Row :=
  { d := .dst (fpBits o.ty), a := .src (fpBits o.ty), accept := tyIn 0x0F o.ty && mod0 o.mod }
def rowFcps (o : AForm) : Row :=
  { d := .dst (fpBits o.ty), a := .src (fpBits o.ty), b := .src (fpBits o.ty),
    accept := tyIn 0x0F o.ty && mod0 o.mod }
def rowFcmp (o : AForm) : Row :=
  { d := .pred, a := .src (fpBits o.ty), b := .src (fpBits o.ty), c := .code 3,
    accept := tyIn 0x0F o.ty && mod0 o.mod }
def rowFclass (o : AForm) : Row :=
  { d := .dst 32, a := .src (fpBits o.ty), accept := tyIn 0x7F o.ty && mod0 o.mod }
def rowFrint (o : AForm) : Row :=
  { d := .dst (fpBits o.ty), a := .src (fpBits o.ty), accept := tyIn 0x0F o.ty && modD o.mod }
def rowFscale (o : AForm) : Row :=
  { d := .dst (fpBits o.ty), a := .src (fpBits o.ty), b := .src 32,
    accept := tyIn 0x0F o.ty && modD o.mod }
def rowFgetexp (o : AForm) : Row :=
  { d := .dst (fpBits o.ty), a := .src (fpBits o.ty), accept := tyIn 0x0F o.ty && mod0 o.mod }
def rowFgetman (o : AForm) : Row :=
  { d := .dst (fpBits o.ty), a := .src (fpBits o.ty), accept := tyIn 0x0F o.ty && mod0 o.mod }
def rowFcvt (o : AForm) : Row :=
  { d := .dst (fpBits o.ty), a := .src (fpBits (codeTy o.c)), c := .code 3,
    accept := fcvtOk o.ty o.mod o.c }
def rowFcvti (o : AForm) : Row :=
  { d := .dst (intBits (codeTy o.c)), a := .src (fpBits o.ty), c := .code 3,
    accept := tyIn 0x0F o.ty && modD o.mod && itySet (codeTy o.c) }
def rowIcvtf (o : AForm) : Row :=
  { d := .dst (fpBits o.ty), a := .src (intBits (codeTy o.c)), c := .code 3,
    accept := icvtfOk o.ty o.mod o.c }
def rowFpk (o : AForm) (pos : BitVec 4) : Row :=
  { d := .dst 32, a := .src 32, b := .src 32, c := .src 32, accept := fpkOk pos o.ty o.mod }
def rowFupk (o : AForm) (pos : BitVec 4) : Row :=
  { d := .dst 32, a := .src 32, accept := fupkOk pos o.ty o.mod }
def rowFrcpe (o : AForm) : Row :=
  { d := .dst 32, a := .src 32, accept := tyIn 0x01 o.ty && mod0 o.mod }
def rowFrsqe (o : AForm) : Row :=
  { d := .dst 32, a := .src 32, accept := tyIn 0x01 o.ty && mod0 o.mod }
def rowFex2 (o : AForm) : Row :=
  { d := .dst 32, a := .src 32, accept := tyIn 0x01 o.ty && mod0 o.mod }
def rowFlg2 (o : AForm) : Row :=
  { d := .dst 32, a := .src 32, accept := tyIn 0x01 o.ty && mod0 o.mod }
def rowFsinpi (o : AForm) : Row :=
  { d := .dst 32, a := .src 32, accept := tyIn 0x01 o.ty && mod0 o.mod }
def rowFcospi (o : AForm) : Row :=
  { d := .dst 32, a := .src 32, accept := tyIn 0x01 o.ty && mod0 o.mod }
def rowFdot2 (o : AForm) : Row :=
  { d := .dst 32, a := .src 32, b := .src 32, c := .src 32, accept := tyIn 0x0C o.ty && modD o.mod }
def rowBqnt (o : AForm) : Row :=
  { d := .dst 32, a := .src 32, b := .src 32,
    accept := tyIn 0x70 o.ty && modDrs o.mod, coll := true }
def rowBdq (o : AForm) : Row :=
  { d := .dst 32, a := .src 32, accept := tyIn 0x70 o.ty && modD o.mod }
def rowFredAdd (o : AForm) : Row :=
  { d := .dst (fpBits o.ty), a := .src (fpBits o.ty), b := .src 32,
    accept := tyIn 0x0F o.ty && modD o.mod, coll := true }
def rowFredMin (o : AForm) : Row :=
  { d := .dst (fpBits o.ty), a := .src (fpBits o.ty), b := .src 32,
    accept := tyIn 0x0F o.ty && mod0 o.mod, coll := true }
def rowFredMax (o : AForm) : Row :=
  { d := .dst (fpBits o.ty), a := .src (fpBits o.ty), b := .src 32,
    accept := tyIn 0x0F o.ty && mod0 o.mod, coll := true }
def rowFaddi (o : IForm) : Row :=
  { d := .dst (fpBits o.ty), a := .src (fpBits o.ty), accept := tyIn 0x0F o.ty && modD o.mod }
def rowFmuli (o : IForm) : Row :=
  { d := .dst (fpBits o.ty), a := .src (fpBits o.ty), accept := tyIn 0x0F o.ty && modD o.mod }
def rowFmai (o : IForm) : Row :=
  { d := .dst (fpBits o.ty), a := .src (fpBits o.ty), b := .src (fpBits o.ty),
    accept := tyIn 0x0F o.ty && modD o.mod }
def rowFcmpi (o : IForm) : Row :=
  { d := .pred, a := .src (fpBits o.ty), b := .code 3, accept := tyIn 0x0F o.ty && mod0 o.mod }
def rowFli (o : LForm) : Row := { d := .dst (fpBits o.ty), accept := tyIn 0x0F o.ty && modD o.mod }
def rowLd (o : MForm) : Row :=
  { d := .dst (memBits o.ty), a := .src 64, accept := tyIn 0x1F o.ty && modScope o.mod }
def rowLds (o : MForm) : Row :=
  { d := .dst 32, a := .src 64, accept := tyIn 0x03 o.ty && modScope o.mod }
def rowLdx (o : MForm) : Row :=
  { d := .dst (memBits o.ty), a := .src 64, b := .src 32,
    accept := tyIn 0x1F o.ty && modScope o.mod }
def rowLdxs (o : MForm) : Row :=
  { d := .dst 32, a := .src 64, b := .src 32, accept := tyIn 0x03 o.ty && modScope o.mod }
def rowSt (o : MForm) : Row :=
  { d := .src (memBits o.ty), a := .src 64, accept := tyIn 0x1F o.ty && modScope o.mod }
def rowStx (o : MForm) : Row :=
  { d := .src (memBits o.ty), a := .src 64, b := .src 32,
    accept := tyIn 0x1F o.ty && modScope o.mod }
def rowLdnt (o : MForm) : Row :=
  { d := .dst (memBits o.ty), a := .src 64, accept := tyIn 0x1F o.ty && mod0 o.mod }
def rowLdxnt (o : MForm) : Row :=
  { d := .dst (memBits o.ty), a := .src 64, b := .src 32, accept := tyIn 0x1F o.ty && mod0 o.mod }
def rowStnt (o : MForm) : Row :=
  { d := .src (memBits o.ty), a := .src 64, accept := tyIn 0x1F o.ty && mod0 o.mod }
def rowStxnt (o : MForm) : Row :=
  { d := .src (memBits o.ty), a := .src 64, b := .src 32, accept := tyIn 0x1F o.ty && mod0 o.mod }
def rowLdnf (o : MForm) : Row :=
  { d := .dst (memBits o.ty), a := .src 64, b := .pred, accept := tyIn 0x1F o.ty && mod0 o.mod }
def rowStbe (o : MForm) : Row :=
  { d := .src (memBits o.ty), a := .src 64, b := .src 32,
    accept := tyIn 0x1C o.ty && modScope o.mod }
def rowPf (o : MForm) : Row := { a := .src 64, accept := tyIn 0x1F o.ty && modTop o.mod }
def rowPfx (o : MForm) : Row :=
  { a := .src 64, b := .src 32, accept := tyIn 0x1F o.ty && modTop o.mod }
def rowLdm (o : MForm) : Row :=
  { d := .multiDst (memBits o.ty), a := .src 64, b := .code 2,
    accept := tyIn 0x0C o.ty && mod0 o.mod && codeNe 2 3 o.b }
def rowStm (o : MForm) : Row :=
  { d := .multiSrc (memBits o.ty), a := .src 64, b := .code 2,
    accept := tyIn 0x0C o.ty && mod0 o.mod && codeNe 2 3 o.b }
def rowTlbp (o : MForm) : Row :=
  { d := .dst 64, a := .src 64, b := .src 32, accept := tyIn 0x01 o.ty && mod0 o.mod, priv := true }
def rowTlbi (o : MForm) : Row :=
  { d := .src 32, a := .src 64, b := .code 2,
    accept := tyIn 0x01 o.ty && modDiePkg o.mod, priv := true }
def rowTlbs (o : MForm) : Row :=
  { accept := tyIn 0x01 o.ty && modDiePkg o.mod, clear := disp0 o.disp, priv := true }
def rowPois (o : MForm) : Row :=
  { a := .src 64, accept := tyIn 0x01 o.ty && modTop o.mod, priv := true }
def rowSpmap (o : AForm) : Row :=
  { d := .code 3, a := .src 64, b := .src 32, c := .src 32, accept := ty0 o.ty && mod0 o.mod }
def rowSpmapz (o : AForm) : Row :=
  { d := .code 3, a := .src 64, b := .src 32, c := .src 32, accept := ty0 o.ty && mod0 o.mod }
def rowSpclr (o : AForm) : Row := { d := .code 3, accept := ty0 o.ty && mod0 o.mod }
def rowSpwb (o : AForm) : Row := { d := .code 3, accept := ty0 o.ty && mod0 o.mod }
def rowSpdrop (o : AForm) : Row := { d := .code 3, accept := ty0 o.ty && mod0 o.mod }
def rowLdts (o : AForm) : Row :=
  { d := .dst (memBits o.ty), a := .src 32, b := .code 6,
    accept := tyIn 0x1F o.ty && mod0 o.mod, res := [(.ts, (o.b.toNat % 64))] }
def rowStts (o : AForm) : Row :=
  { a := .src 32, b := .code 6, c := .src (memBits o.ty),
    accept := tyIn 0x1F o.ty && mod0 o.mod, res := [(.ts, (o.b.toNat % 64))] }
def rowTsfree (o : AForm) : Row :=
  { b := .code 6, accept := ty0 o.ty && mod0 o.mod, res := [(.ts, (o.b.toNat % 64))] }
def rowTsstat (o : AForm) : Row :=
  { d := .dst 32, b := .code 6, accept := ty0 o.ty && mod0 o.mod, res := [(.ts, (o.b.toNat % 64))] }
def rowThacq (o : AForm) : Row :=
  { a := .src 32, c := .code 1, accept := ty0 o.ty && mod0 o.mod, res := [(.tile, 0)] }
def rowThpf (o : AForm) : Row :=
  { a := .src 32, accept := ty0 o.ty && mod0 o.mod, res := [(.tile, 0)] }
def rowThrel (o : AForm) : Row :=
  { a := .src 32, accept := ty0 o.ty && mod0 o.mod, res := [(.tile, 0)] }
def rowThdown (o : AForm) : Row :=
  { a := .src 32, accept := ty0 o.ty && mod0 o.mod, res := [(.tile, 0)] }
def rowThclose (o : AForm) : Row :=
  { a := .src 32, accept := ty0 o.ty && mod0 o.mod, res := [(.tile, 0)] }
def rowThwb (o : AForm) : Row :=
  { a := .src 32, accept := ty0 o.ty && mod0 o.mod, res := [(.tile, 0)] }
def rowThsplit (o : AForm) : Row :=
  { d := .dst 32, a := .src 32, b := .src 32, c := .code 4,
    accept := ty0 o.ty && mod0 o.mod, res := [(.tile, 0)] }
def rowThbind (o : AForm) : Row :=
  { a := .src 32, b := .code 6,
    accept := ty0 o.ty && mod0 o.mod, res := [(.tile, 0), (.ts, (o.b.toNat % 64))] }
def rowThunbind (o : AForm) : Row :=
  { b := .code 6, accept := ty0 o.ty && mod0 o.mod, res := [(.tile, 0), (.ts, (o.b.toNat % 64))] }
def rowThstat (o : AForm) : Row :=
  { d := .dst 32, a := .src 32, accept := ty0 o.ty && mod0 o.mod, res := [(.tile, 0)] }
def rowThext (o : AForm) : Row :=
  { d := .dst 32, a := .src 32, c := .code 3,
    accept := ty0 o.ty && mod0 o.mod && thextOk o.c, res := [(.tile, 0)] }
def rowThprobe (o : AForm) : Row :=
  { d := .dst 32, a := .src 64, accept := ty0 o.ty && mod0 o.mod, res := [(.tile, 0)] }
def rowThopen (o : MForm) : Row :=
  { d := .dst 32, a := .src 64, b := .code 4,
    accept := ty0 o.ty && mod0 o.mod, res := [(.tile, 0)] }
def rowThdesc (o : MForm) : Row :=
  { d := .src 32, a := .src 64, accept := ty0 o.ty && mod0 o.mod, res := [(.tile, 0)] }
def rowCas (o : MForm) : Row :=
  { d := .both (syncBits o.ty), a := .src 64, b := .src (syncBits o.ty),
    accept := tyIn 0x70 o.ty && modScope o.mod }
def rowSwap (o : MForm) : Row :=
  { d := .dst (syncBits o.ty), a := .src 64, b := .src (syncBits o.ty),
    accept := tyIn 0x70 o.ty && modScope o.mod }
def rowAadd (o : MForm) : Row :=
  { d := .dst (syncBits o.ty), a := .src 64, b := .src (syncBits o.ty),
    accept := tyIn 0x0F o.ty && modScope o.mod }
def rowAmin (o : MForm) : Row :=
  { d := .dst (syncBits o.ty), a := .src 64, b := .src (syncBits o.ty),
    accept := tyIn 0x0F o.ty && modScope o.mod }
def rowAmax (o : MForm) : Row :=
  { d := .dst (syncBits o.ty), a := .src 64, b := .src (syncBits o.ty),
    accept := tyIn 0x0F o.ty && modScope o.mod }
def rowAfadd (o : MForm) : Row :=
  { d := .dst (fpBits o.ty), a := .src 64, b := .src (fpBits o.ty),
    accept := tyIn 0x03 o.ty && modScope o.mod }
def rowXadd (o : MForm) : Row :=
  { d := .src (fpBits o.ty), a := .src 64, accept := tyIn 0x05 o.ty && modScope o.mod }
def rowXrd (o : MForm) : Row :=
  { d := .dst (fpBits o.ty), a := .src 64, accept := tyIn 0x07 o.ty && modScope o.mod }
def rowAand (o : AForm) : Row :=
  { d := .dst (syncBits o.ty), a := .src 64, b := .src (syncBits o.ty),
    accept := tyIn 0x30 o.ty && modScope o.mod }
def rowAor (o : AForm) : Row :=
  { d := .dst (syncBits o.ty), a := .src 64, b := .src (syncBits o.ty),
    accept := tyIn 0x30 o.ty && modScope o.mod }
def rowAxor (o : AForm) : Row :=
  { d := .dst (syncBits o.ty), a := .src 64, b := .src (syncBits o.ty),
    accept := tyIn 0x30 o.ty && modScope o.mod }
def rowAinc (o : AForm) : Row :=
  { d := .dst (syncBits o.ty), a := .src 64, b := .src (syncBits o.ty),
    accept := tyIn 0x0A o.ty && modScope o.mod }
def rowFence (o : AForm) : Row := { accept := ty0 o.ty && modFence o.mod }
def rowFenceAcq (o : AForm) : Row := { accept := ty0 o.ty && modFence o.mod }
def rowFenceRel (o : AForm) : Row := { accept := ty0 o.ty && modFence o.mod }
def rowRvinit (o : AForm) : Row :=
  { a := .src 32, c := .code 5, accept := ty0 o.ty && mod0 o.mod, res := [(.rv, (o.c.toNat % 32))] }
def rowRvarrive (o : AForm) : Row :=
  { c := .code 5, accept := ty0 o.ty && mod0 o.mod, res := [(.rv, (o.c.toNat % 32))] }
def rowRvwait (o : AForm) : Row :=
  { c := .code 5, accept := ty0 o.ty && mod0 o.mod, res := [(.rv, (o.c.toNat % 32))] }
def rowRvwaitSpec (o : AForm) : Row :=
  { c := .code 5, accept := ty0 o.ty && mod0 o.mod, res := [(.rv, (o.c.toNat % 32))] }
def rowRvsync (o : AForm) : Row :=
  { c := .code 5, accept := ty0 o.ty && mod0 o.mod, res := [(.rv, (o.c.toNat % 32))] }
def rowRvpoll (o : AForm) : Row :=
  { d := .pred, c := .code 5, accept := ty0 o.ty && mod0 o.mod, res := [(.rv, (o.c.toNat % 32))] }
def rowGbinit (o : AForm) : Row :=
  { a := .src 32, c := .code 3, accept := ty0 o.ty && mod0 o.mod, res := [(.gb, (o.c.toNat % 8))] }
def rowGbarrive (o : AForm) : Row :=
  { c := .code 3, accept := ty0 o.ty && mod0 o.mod, res := [(.gb, (o.c.toNat % 8))] }
def rowGbwait (o : AForm) : Row :=
  { c := .code 3, accept := ty0 o.ty && mod0 o.mod, res := [(.gb, (o.c.toNat % 8))] }
def rowGbsync (o : AForm) : Row :=
  { c := .code 3, accept := ty0 o.ty && mod0 o.mod, res := [(.gb, (o.c.toNat % 8))] }
def rowWaitvEq (o : AForm) : Row :=
  { d := .dst (syncBits o.ty), a := .src 64, b := .src (syncBits o.ty),
    accept := tyIn 0x30 o.ty && modWaitv o.mod }
def rowWaitvNe (o : AForm) : Row :=
  { d := .dst (syncBits o.ty), a := .src 64, b := .src (syncBits o.ty),
    accept := tyIn 0x30 o.ty && modWaitv o.mod }
def rowSpecwait (o : AForm) : Row := { accept := ty0 o.ty && mod0 o.mod }
def rowXset (o : AForm) : Row :=
  { a := .src 64, b := .src (fpBits o.ty), accept := tyIn 0x05 o.ty && modScope o.mod }
def rowRvstat (o : AForm) : Row :=
  { d := .dst 32, c := .code 5, accept := ty0 o.ty && mod0 o.mod, res := [(.rv, (o.c.toNat % 32))] }
def rowMlds (o : XForm) : Row :=
  { d := .code 7,
    accept := opTyOk o.ty (o.d.getLsbD 4) && mod0 o.mod, res := [(.mat, 0), (.cv, (o.d.toNat % 16)), (.ts, o.ts.toNat)] ++ ccRes o.cce o.cc }
def rowMldl (o : XForm) : Row :=
  { d := .code 6, a := .src 64,
    accept := opTyOk o.ty (o.d.getLsbD 4) && mod0 o.mod, clear := ts0 o.ts, res := [(.mat, 0), (.cv, (o.d.toNat % 16))] ++ ccRes o.cce o.cc }
def rowMswap (o : XForm) : Row :=
  { d := .bits 0x2F,
    accept := ty0 o.ty && mod0 o.mod, clear := ts0 o.ts && !o.cce, res := [(.mat, 0), (.cv, (o.d.toNat % 16))] }
def rowMmul (o : XForm) : Row :=
  { d := .code 7, a := .src 32, b := .src 32,
    accept := opTyOk o.ty (o.d.getLsbD 4) && mod0 o.mod, res := [(.mat, 0), (.cv, (o.d.toNat % 16)), (.ts, o.ts.toNat)] ++ ccRes o.cce o.cc }
def rowMmulz (o : XForm) : Row :=
  { d := .code 7, a := .src 32, b := .src 32,
    accept := opTyOk o.ty (o.d.getLsbD 4) && mod0 o.mod, res := [(.mat, 0), (.cv, (o.d.toNat % 16)), (.ts, o.ts.toNat)] ++ ccRes o.cce o.cc }
def rowAcst (o : XForm) : Row :=
  { d := .code 5, a := .src 32, b := .src 32,
    accept := acstOk o.ty (o.d.getLsbD 4) && modD o.mod, res := [(.mat, 0), (.cv, (o.d.toNat % 16)), (.ts, o.ts.toNat)] ++ ccRes o.cce o.cc }
def rowAcld (o : XForm) : Row :=
  { d := .bits 0x4F, a := .src 32, b := .src 32,
    accept := tyIn 0x0F o.ty && mod0 o.mod, res := [(.mat, 0), (.cv, (o.d.toNat % 16)), (.ts, o.ts.toNat)] ++ ccRes o.cce o.cc }
def rowAcsclRow (o : XForm) : Row :=
  { d := .bits 0x4F, a := .src 32, b := .src 32,
    accept := ty0 o.ty && modD o.mod, res := [(.mat, 0), (.cv, (o.d.toNat % 16)), (.ts, o.ts.toNat)] ++ ccRes o.cce o.cc }
def rowAcsclCol (o : XForm) : Row :=
  { d := .bits 0x4F, a := .src 32, b := .src 32,
    accept := ty0 o.ty && modD o.mod, res := [(.mat, 0), (.cv, (o.d.toNat % 16)), (.ts, o.ts.toNat)] ++ ccRes o.cce o.cc }
def rowAcnrm (o : XForm) : Row :=
  { d := .code 4, a := .src 32, b := .src 32,
    accept := ty0 o.ty && modD o.mod, res := [(.mat, 0), (.cv, (o.d.toNat % 16)), (.ts, o.ts.toNat)] ++ ccRes o.cce o.cc }
def rowAcredMax (o : XForm) : Row :=
  { d := .code 4, a := .src 32, b := .src 32,
    accept := tyIn 0x03 o.ty && mod0 o.mod, res := [(.mat, 0), (.cv, (o.d.toNat % 16)), (.ts, o.ts.toNat)] ++ ccRes o.cce o.cc }
def rowAcredSum (o : XForm) : Row :=
  { d := .code 4, a := .src 32, b := .src 32,
    accept := tyIn 0x03 o.ty && modD o.mod, res := [(.mat, 0), (.cv, (o.d.toNat % 16)), (.ts, o.ts.toNat)] ++ ccRes o.cce o.cc }
def rowAcbias (o : XForm) : Row :=
  { d := .bits 0x4F, a := .src 32, b := .src 32,
    accept := tyIn 0x03 o.ty && modD o.mod, res := [(.mat, 0), (.cv, (o.d.toNat % 16)), (.ts, o.ts.toNat)] ++ ccRes o.cce o.cc }
def rowCvinit (o : AForm) : Row :=
  { a := .src 32, c := .code 4,
    accept := ty0 o.ty && mod0 o.mod, res := [(.mat, 0), (.cv, (o.c.toNat % 16))] }
def rowMsign (o : AForm) : Row :=
  { c := .code 4, accept := ty0 o.ty && mod0 o.mod, res := [(.mat, 0), (.cv, (o.c.toNat % 16))] }
def rowMwait (o : AForm) : Row :=
  { c := .code 4, accept := ty0 o.ty && mod0 o.mod, res := [(.mat, 0), (.cv, (o.c.toNat % 16))] }
def rowMstat (o : AForm) : Row :=
  { d := .dst 64, c := .code 4,
    accept := ty0 o.ty && mod0 o.mod, res := [(.mat, 0), (.cv, (o.c.toNat % 16))] }
def rowMstclr (o : AForm) : Row :=
  { c := .code 4, accept := ty0 o.ty && mod0 o.mod, res := [(.mat, 0), (.cv, (o.c.toNat % 16))] }
def rowAcrd (o : AForm) : Row :=
  { d := .dst 32, a := .src 32, accept := ty0 o.ty && mod0 o.mod, res := [(.mat, 0)] }
def rowAcwr (o : AForm) : Row :=
  { a := .src 32, b := .src 32, accept := ty0 o.ty && mod0 o.mod, res := [(.mat, 0)] }
def rowAcclr (o : AForm) : Row :=
  { a := .src 32, b := .src 32, accept := tyIn 0x03 o.ty && mod0 o.mod, res := [(.mat, 0)] }
def rowMplane (o : AForm) : Row :=
  { d := .dst 32, accept := ty0 o.ty && mod0 o.mod, res := [(.mat, 0)] }
def rowCpy (o : XForm) : Row :=
  { d := .src 64, a := .src 64, b := .src 64,
    accept := ty0 o.ty && mod0 o.mod, clear := ts0 o.ts, res := ccRes o.cce o.cc }
def rowFill (o : XForm) : Row :=
  { d := .src 64, a := .src 64, b := .src 32,
    accept := ty0 o.ty && mod0 o.mod, clear := ts0 o.ts, res := ccRes o.cce o.cc }
def rowCpts (o : XForm) : Row :=
  { d := .src 32, a := .src 64, b := .src 32,
    accept := ty0 o.ty && mod0 o.mod, res := [(.ts, o.ts.toNat)] ++ ccRes o.cce o.cc }
def rowCpfs (o : XForm) : Row :=
  { d := .src 32, a := .src 64,
    accept := ty0 o.ty && modRls o.mod, res := [(.ts, o.ts.toNat)] ++ ccRes o.cce o.cc }
def rowCpald (o : XForm) : Row :=
  { d := .src 32, a := .src 64, b := .src 32,
    accept := ty0 o.ty && mod0 o.mod, clear := ts0 o.ts, res := ccRes o.cce o.cc }
def rowCpast (o : XForm) : Row :=
  { d := .src 32, a := .src 64, b := .src 32,
    accept := ty0 o.ty && mod0 o.mod, clear := ts0 o.ts, res := ccRes o.cce o.cc }
def rowGcp (o : XForm) : Row :=
  { a := .src 64, b := .src 64,
    accept := ty0 o.ty && mod0 o.mod, clear := ts0 o.ts, res := ccRes o.cce o.cc }
def rowGcpts (o : XForm) : Row :=
  { a := .src 64, b := .src 32,
    accept := ty0 o.ty && mod0 o.mod, res := [(.ts, o.ts.toNat)] ++ ccRes o.cce o.cc }
def rowExpf (o : XForm) : Row :=
  { d := .src 64, a := .src 64,
    accept := ty0 o.ty && mod0 o.mod, clear := ts0 o.ts, res := ccRes o.cce o.cc }
def rowExwb (o : XForm) : Row :=
  { d := .src 64, a := .src 64,
    accept := ty0 o.ty && mod0 o.mod, clear := ts0 o.ts, res := ccRes o.cce o.cc }
def rowWaitlt (o : AForm) : Row :=
  { a := .src 64, c := .code 4, accept := ty0 o.ty && mod0 o.mod, res := [(.cc, (o.c.toNat % 16))] }
def rowCcrd (o : AForm) : Row :=
  { d := .dst 64, c := .code 4, accept := ty0 o.ty && mod0 o.mod, res := [(.cc, (o.c.toNat % 16))] }
def rowCcadd (o : AForm) : Row :=
  { a := .src 64, c := .code 4, accept := ty0 o.ty && mod0 o.mod, res := [(.cc, (o.c.toNat % 16))] }
def rowCcclr (o : AForm) : Row :=
  { c := .code 4, accept := ty0 o.ty && mod0 o.mod, res := [(.cc, (o.c.toNat % 16))] }
def rowRefine (o : XForm) : Row :=
  { a := .src 64,
    accept := ty0 o.ty && mod0 o.mod, clear := ts0 o.ts && !o.cce, res := [(.refine, 0)] }
def rowRfres (o : XForm) : Row :=
  { a := .src 64,
    accept := ty0 o.ty && mod0 o.mod, clear := ts0 o.ts && !o.cce, res := [(.refine, 0)] }
def rowRfchk (o : XForm) : Row :=
  { a := .src 64,
    accept := ty0 o.ty && mod0 o.mod, clear := ts0 o.ts && !o.cce, res := [(.refine, 0)] }
def rowRfcancel (o : XForm) : Row :=
  { a := .src 64,
    accept := ty0 o.ty && mod0 o.mod, clear := ts0 o.ts && !o.cce, res := [(.refine, 0)] }
def rowRfwait (o : AForm) : Row :=
  { a := .src 64, accept := ty0 o.ty && mod0 o.mod, res := [(.refine, 0)] }
def rowRfstat (o : AForm) : Row :=
  { d := .dst 32, a := .src 64, accept := ty0 o.ty && mod0 o.mod, res := [(.refine, 0)] }
def rowMfs (o : AForm) : Row :=
  { d := .dst (sregBits o.c), c := .code 9,
    accept := ty0 o.ty && mod0 o.mod && sregKnown o.c, sreg := some (o.c.toNat, false) }
def rowMts (o : AForm) : Row :=
  { a := .src (sregBits o.c), c := .code 9,
    accept := ty0 o.ty && mod0 o.mod && sregKnown o.c, sreg := some (o.c.toNat, true) }
def rowMtsset (o : AForm) : Row :=
  { a := .src (sregBits o.c), c := .code 9,
    accept := ty0 o.ty && mod0 o.mod && sregKnown o.c, sreg := some (o.c.toNat, true) }
def rowMtsclr (o : AForm) : Row :=
  { a := .src (sregBits o.c), c := .code 9,
    accept := ty0 o.ty && mod0 o.mod && sregKnown o.c, sreg := some (o.c.toNat, true) }
def rowTret (o : AForm) : Row := { accept := ty0 o.ty && mod0 o.mod }
def rowTmask (o : AForm) : Row := { accept := ty0 o.ty && mod0 o.mod }
def rowTunmask (o : AForm) : Row := { accept := ty0 o.ty && mod0 o.mod }
def rowTabort (o : AForm) : Row := { a := .src 32, accept := ty0 o.ty && mod0 o.mod }
def rowTmplace (o : AForm) : Row := { a := .src 64, accept := ty0 o.ty && mod0 o.mod, priv := true }
def rowTmsave (o : AForm) : Row := { a := .src 64, accept := ty0 o.ty && mod0 o.mod, priv := true }
def rowTmrest (o : AForm) : Row := { a := .src 64, accept := ty0 o.ty && mod0 o.mod, priv := true }
def rowTmflush (o : AForm) : Row := { a := .src 64, accept := ty0 o.ty && mod0 o.mod, priv := true }
def rowTmkill (o : AForm) : Row := { a := .src 64, accept := ty0 o.ty && mod0 o.mod, priv := true }
def rowTkclaim (o : AForm) : Row :=
  { d := .dst 64, a := .src 64, accept := ty0 o.ty && mod0 o.mod, priv := true }
def rowTkdone (o : AForm) : Row := { a := .src 64, accept := ty0 o.ty && mod0 o.mod, priv := true }
def rowFtime (o : AForm) : Row := { d := .dst 64, accept := ty0 o.ty && mod0 o.mod }
def rowFwidle (o : AForm) : Row := { d := .dst 32, accept := ty0 o.ty && mod0 o.mod, priv := true }
def rowFwsev (o : AForm) : Row := { a := .src 32, accept := ty0 o.ty && mod0 o.mod, priv := true }
def rowQpost (o : AForm) : Row :=
  { d := .dst 32, a := .src 64, b := .src 32, accept := ty0 o.ty && mod0 o.mod }
def rowRdcyc (o : AForm) : Row := { d := .dst 64, accept := ty0 o.ty && mod0 o.mod }
def rowLsreq (o : AForm) : Row :=
  { d := .dst 32, a := .src 64, b := .src 64, accept := ty0 o.ty && mod0 o.mod, priv := true }
def rowLsrenew (o : AForm) : Row :=
  { d := .dst 32, a := .src 32, b := .src 64, accept := ty0 o.ty && mod0 o.mod, priv := true }
def rowLsdrop (o : AForm) : Row :=
  { d := .dst 32, a := .src 32, accept := ty0 o.ty && mod0 o.mod, priv := true }
def rowExlend (o : AForm) : Row :=
  { a := .src 32, b := .src 64, accept := ty0 o.ty && mod0 o.mod, priv := true }
def rowLsrecall (o : AForm) : Row :=
  { d := .dst 32, a := .src 32, accept := ty0 o.ty && mod0 o.mod, priv := true }
def rowLsrd (o : AForm) : Row :=
  { d := .dst 128, a := .src 32, accept := ty0 o.ty && mod0 o.mod, priv := true }
def rowKyopen (o : AForm) : Row :=
  { d := .dst 32, a := .src 32, b := .src 32, accept := ty0 o.ty && mod0 o.mod, priv := true }
def rowKyclose (o : AForm) : Row :=
  { d := .dst 32, a := .src 32, accept := ty0 o.ty && mod0 o.mod, priv := true }
def rowFmcand (o : LForm) : Row := { d := .dst 32, accept := ty0 o.ty && mod0 o.mod, priv := true }
def rowExmig (o : XForm) : Row :=
  { d := .src 64, a := .src 64, b := .src 64,
    accept := ty0 o.ty && mod0 o.mod, clear := ts0 o.ts, res := ccRes o.cce o.cc, priv := true }

/-- The row of an instruction; an event and twl.v have no register fields of these forms. -/
def Instr.row : Instr → Row
  | .br o => rowBr o
  | .call o => rowCall o
  | .dbnz o => rowDbnz o
  | .bz o => rowBz o
  | .bnz o => rowBnz o
  | .bfull o => rowBfull o
  | .bempty o => rowBempty o
  | .bpend o => rowBpend o
  | .jmp o => rowJmp o
  | .jcall o => rowJcall o
  | .ret o => rowRet o
  | .pand o => rowPand o
  | .por o => rowPor o
  | .pxor o => rowPxor o
  | .pandn o => rowPandn o
  | .pset o => rowPset o
  | .pget o => rowPget o
  | .exit o => rowExit o
  | .yield o => rowYield o
  | .nop o => rowNop o
  | .pause o => rowPause o
  | .brk o => rowBrk o
  | .add o => rowAdd o
  | .sub o => rowSub o
  | .addc o => rowAddc o
  | .subb o => rowSubb o
  | .min o => rowMin o
  | .max o => rowMax o
  | .abs o => rowAbs o
  | .mul o => rowMul o
  | .mulhi o => rowMulhi o
  | .mulw o => rowMulw o
  | .mad o => rowMad o
  | .and o => rowAnd o
  | .or o => rowOr o
  | .xor o => rowXor o
  | .andn o => rowAndn o
  | .shl o => rowShl o
  | .shr o => rowShr o
  | .sar o => rowSar o
  | .ror o => rowRor o
  | .fsh o => rowFsh o
  | .bfx o => rowBfx o
  | .bfi o => rowBfi o
  | .popc o => rowPopc o
  | .clz o => rowClz o
  | .addi o => rowAddi o
  | .muli o => rowMuli o
  | .andi o => rowAndi o
  | .ori o => rowOri o
  | .lid o => rowLid o
  | .shli o => rowShli o
  | .shri o => rowShri o
  | .sari o => rowSari o
  | .bfxi o => rowBfxi o
  | .cmpi o => rowCmpi o
  | .lea o => rowLea o
  | .shup o => rowShup o
  | .shdn o => rowShdn o
  | .shxor o => rowShxor o
  | .cmp o => rowCmp o
  | .sel o => rowSel o
  | .shfl o => rowShfl o
  | .vote o => rowVote o
  | .ballot o => rowBallot o
  | .scan o => rowScan o
  | .li o => rowLi o
  | .lda o => rowLda o
  | .fadd o => rowFadd o
  | .fsub o => rowFsub o
  | .fmul o => rowFmul o
  | .fdiv o => rowFdiv o
  | .fma o => rowFma o
  | .fms o => rowFms o
  | .fsqrt o => rowFsqrt o
  | .fmin o => rowFmin o
  | .fmax o => rowFmax o
  | .fabs o => rowFabs o
  | .fneg o => rowFneg o
  | .fcps o => rowFcps o
  | .fcmp o => rowFcmp o
  | .fclass o => rowFclass o
  | .frint o => rowFrint o
  | .fscale o => rowFscale o
  | .fgetexp o => rowFgetexp o
  | .fgetman o => rowFgetman o
  | .fcvt o => rowFcvt o
  | .fcvti o => rowFcvti o
  | .icvtf o => rowIcvtf o
  | .fpk o pos => rowFpk o pos
  | .fupk o pos => rowFupk o pos
  | .frcpe o => rowFrcpe o
  | .frsqe o => rowFrsqe o
  | .fex2 o => rowFex2 o
  | .flg2 o => rowFlg2 o
  | .fsinpi o => rowFsinpi o
  | .fcospi o => rowFcospi o
  | .fdot2 o => rowFdot2 o
  | .bqnt o => rowBqnt o
  | .bdq o => rowBdq o
  | .fredAdd o => rowFredAdd o
  | .fredMin o => rowFredMin o
  | .fredMax o => rowFredMax o
  | .faddi o => rowFaddi o
  | .fmuli o => rowFmuli o
  | .fmai o => rowFmai o
  | .fcmpi o => rowFcmpi o
  | .fli o => rowFli o
  | .ld o => rowLd o
  | .lds o => rowLds o
  | .ldx o => rowLdx o
  | .ldxs o => rowLdxs o
  | .st o => rowSt o
  | .stx o => rowStx o
  | .ldnt o => rowLdnt o
  | .ldxnt o => rowLdxnt o
  | .stnt o => rowStnt o
  | .stxnt o => rowStxnt o
  | .ldnf o => rowLdnf o
  | .stbe o => rowStbe o
  | .pf o => rowPf o
  | .pfx o => rowPfx o
  | .ldm o => rowLdm o
  | .stm o => rowStm o
  | .tlbp o => rowTlbp o
  | .tlbi o => rowTlbi o
  | .tlbs o => rowTlbs o
  | .pois o => rowPois o
  | .spmap o => rowSpmap o
  | .spmapz o => rowSpmapz o
  | .spclr o => rowSpclr o
  | .spwb o => rowSpwb o
  | .spdrop o => rowSpdrop o
  | .ldts o => rowLdts o
  | .stts o => rowStts o
  | .tsfree o => rowTsfree o
  | .tsstat o => rowTsstat o
  | .thacq o => rowThacq o
  | .thpf o => rowThpf o
  | .threl o => rowThrel o
  | .thdown o => rowThdown o
  | .thclose o => rowThclose o
  | .thwb o => rowThwb o
  | .thsplit o => rowThsplit o
  | .thbind o => rowThbind o
  | .thunbind o => rowThunbind o
  | .thstat o => rowThstat o
  | .thext o => rowThext o
  | .thprobe o => rowThprobe o
  | .thopen o => rowThopen o
  | .thdesc o => rowThdesc o
  | .cas o => rowCas o
  | .swap o => rowSwap o
  | .aadd o => rowAadd o
  | .amin o => rowAmin o
  | .amax o => rowAmax o
  | .afadd o => rowAfadd o
  | .xadd o => rowXadd o
  | .xrd o => rowXrd o
  | .aand o => rowAand o
  | .aor o => rowAor o
  | .axor o => rowAxor o
  | .ainc o => rowAinc o
  | .fence o => rowFence o
  | .fenceAcq o => rowFenceAcq o
  | .fenceRel o => rowFenceRel o
  | .rvinit o => rowRvinit o
  | .rvarrive o => rowRvarrive o
  | .rvwait o => rowRvwait o
  | .rvwaitSpec o => rowRvwaitSpec o
  | .rvsync o => rowRvsync o
  | .rvpoll o => rowRvpoll o
  | .gbinit o => rowGbinit o
  | .gbarrive o => rowGbarrive o
  | .gbwait o => rowGbwait o
  | .gbsync o => rowGbsync o
  | .waitvEq o => rowWaitvEq o
  | .waitvNe o => rowWaitvNe o
  | .specwait o => rowSpecwait o
  | .xset o => rowXset o
  | .rvstat o => rowRvstat o
  | .mlds o => rowMlds o
  | .mldl o => rowMldl o
  | .mswap o => rowMswap o
  | .mmul o => rowMmul o
  | .mmulz o => rowMmulz o
  | .acst o => rowAcst o
  | .acld o => rowAcld o
  | .acsclRow o => rowAcsclRow o
  | .acsclCol o => rowAcsclCol o
  | .acnrm o => rowAcnrm o
  | .acredMax o => rowAcredMax o
  | .acredSum o => rowAcredSum o
  | .acbias o => rowAcbias o
  | .cvinit o => rowCvinit o
  | .msign o => rowMsign o
  | .mwait o => rowMwait o
  | .mstat o => rowMstat o
  | .mstclr o => rowMstclr o
  | .acrd o => rowAcrd o
  | .acwr o => rowAcwr o
  | .acclr o => rowAcclr o
  | .mplane o => rowMplane o
  | .cpy o => rowCpy o
  | .fill o => rowFill o
  | .cpts o => rowCpts o
  | .cpfs o => rowCpfs o
  | .cpald o => rowCpald o
  | .cpast o => rowCpast o
  | .gcp o => rowGcp o
  | .gcpts o => rowGcpts o
  | .expf o => rowExpf o
  | .exwb o => rowExwb o
  | .waitlt o => rowWaitlt o
  | .ccrd o => rowCcrd o
  | .ccadd o => rowCcadd o
  | .ccclr o => rowCcclr o
  | .refine o => rowRefine o
  | .rfres o => rowRfres o
  | .rfchk o => rowRfchk o
  | .rfcancel o => rowRfcancel o
  | .rfwait o => rowRfwait o
  | .rfstat o => rowRfstat o
  | .mfs o => rowMfs o
  | .mts o => rowMts o
  | .mtsset o => rowMtsset o
  | .mtsclr o => rowMtsclr o
  | .tret o => rowTret o
  | .tmask o => rowTmask o
  | .tunmask o => rowTunmask o
  | .tabort o => rowTabort o
  | .tmplace o => rowTmplace o
  | .tmsave o => rowTmsave o
  | .tmrest o => rowTmrest o
  | .tmflush o => rowTmflush o
  | .tmkill o => rowTmkill o
  | .tkclaim o => rowTkclaim o
  | .tkdone o => rowTkdone o
  | .ftime o => rowFtime o
  | .fwidle o => rowFwidle o
  | .fwsev o => rowFwsev o
  | .qpost o => rowQpost o
  | .rdcyc o => rowRdcyc o
  | .lsreq o => rowLsreq o
  | .lsrenew o => rowLsrenew o
  | .lsdrop o => rowLsdrop o
  | .exlend o => rowExlend o
  | .lsrecall o => rowLsrecall o
  | .lsrd o => rowLsrd o
  | .kyopen o => rowKyopen o
  | .kyclose o => rowKyclose o
  | .fmcand o => rowFmcand o
  | .exmig o => rowExmig o
  | _ => {}

/-- The fields of a Phody instruction word; `none` for twl.v and for an event. -/
def Instr.fields : Instr → Option Fields
  | .br o => some o.fields
  | .call o => some o.fields
  | .dbnz o => some o.fields
  | .bz o => some o.fields
  | .bnz o => some o.fields
  | .bfull o => some o.fields
  | .bempty o => some o.fields
  | .bpend o => some o.fields
  | .jmp o => some o.fields
  | .jcall o => some o.fields
  | .ret o => some o.fields
  | .pand o => some o.fields
  | .por o => some o.fields
  | .pxor o => some o.fields
  | .pandn o => some o.fields
  | .pset o => some o.fields
  | .pget o => some o.fields
  | .exit o => some o.fields
  | .yield o => some o.fields
  | .nop o => some o.fields
  | .pause o => some o.fields
  | .brk o => some o.fields
  | .add o => some o.fields
  | .sub o => some o.fields
  | .addc o => some o.fields
  | .subb o => some o.fields
  | .min o => some o.fields
  | .max o => some o.fields
  | .abs o => some o.fields
  | .mul o => some o.fields
  | .mulhi o => some o.fields
  | .mulw o => some o.fields
  | .mad o => some o.fields
  | .and o => some o.fields
  | .or o => some o.fields
  | .xor o => some o.fields
  | .andn o => some o.fields
  | .shl o => some o.fields
  | .shr o => some o.fields
  | .sar o => some o.fields
  | .ror o => some o.fields
  | .fsh o => some o.fields
  | .bfx o => some o.fields
  | .bfi o => some o.fields
  | .popc o => some o.fields
  | .clz o => some o.fields
  | .addi o => some o.fields
  | .muli o => some o.fields
  | .andi o => some o.fields
  | .ori o => some o.fields
  | .lid o => some o.fields
  | .shli o => some o.fields
  | .shri o => some o.fields
  | .sari o => some o.fields
  | .bfxi o => some o.fields
  | .cmpi o => some o.fields
  | .lea o => some o.fields
  | .shup o => some o.fields
  | .shdn o => some o.fields
  | .shxor o => some o.fields
  | .cmp o => some o.fields
  | .sel o => some o.fields
  | .shfl o => some o.fields
  | .vote o => some o.fields
  | .ballot o => some o.fields
  | .scan o => some o.fields
  | .li o => some o.fields
  | .lda o => some o.fields
  | .fadd o => some o.fields
  | .fsub o => some o.fields
  | .fmul o => some o.fields
  | .fdiv o => some o.fields
  | .fma o => some o.fields
  | .fms o => some o.fields
  | .fsqrt o => some o.fields
  | .fmin o => some o.fields
  | .fmax o => some o.fields
  | .fabs o => some o.fields
  | .fneg o => some o.fields
  | .fcps o => some o.fields
  | .fcmp o => some o.fields
  | .fclass o => some o.fields
  | .frint o => some o.fields
  | .fscale o => some o.fields
  | .fgetexp o => some o.fields
  | .fgetman o => some o.fields
  | .fcvt o => some o.fields
  | .fcvti o => some o.fields
  | .icvtf o => some o.fields
  | .fpk o _ => some o.fields
  | .fupk o _ => some o.fields
  | .frcpe o => some o.fields
  | .frsqe o => some o.fields
  | .fex2 o => some o.fields
  | .flg2 o => some o.fields
  | .fsinpi o => some o.fields
  | .fcospi o => some o.fields
  | .fdot2 o => some o.fields
  | .bqnt o => some o.fields
  | .bdq o => some o.fields
  | .fredAdd o => some o.fields
  | .fredMin o => some o.fields
  | .fredMax o => some o.fields
  | .faddi o => some o.fields
  | .fmuli o => some o.fields
  | .fmai o => some o.fields
  | .fcmpi o => some o.fields
  | .fli o => some o.fields
  | .ld o => some o.fields
  | .lds o => some o.fields
  | .ldx o => some o.fields
  | .ldxs o => some o.fields
  | .st o => some o.fields
  | .stx o => some o.fields
  | .ldnt o => some o.fields
  | .ldxnt o => some o.fields
  | .stnt o => some o.fields
  | .stxnt o => some o.fields
  | .ldnf o => some o.fields
  | .stbe o => some o.fields
  | .pf o => some o.fields
  | .pfx o => some o.fields
  | .ldm o => some o.fields
  | .stm o => some o.fields
  | .tlbp o => some o.fields
  | .tlbi o => some o.fields
  | .tlbs o => some o.fields
  | .pois o => some o.fields
  | .spmap o => some o.fields
  | .spmapz o => some o.fields
  | .spclr o => some o.fields
  | .spwb o => some o.fields
  | .spdrop o => some o.fields
  | .ldts o => some o.fields
  | .stts o => some o.fields
  | .tsfree o => some o.fields
  | .tsstat o => some o.fields
  | .thacq o => some o.fields
  | .thpf o => some o.fields
  | .threl o => some o.fields
  | .thdown o => some o.fields
  | .thclose o => some o.fields
  | .thwb o => some o.fields
  | .thsplit o => some o.fields
  | .thbind o => some o.fields
  | .thunbind o => some o.fields
  | .thstat o => some o.fields
  | .thext o => some o.fields
  | .thprobe o => some o.fields
  | .thopen o => some o.fields
  | .thdesc o => some o.fields
  | .cas o => some o.fields
  | .swap o => some o.fields
  | .aadd o => some o.fields
  | .amin o => some o.fields
  | .amax o => some o.fields
  | .afadd o => some o.fields
  | .xadd o => some o.fields
  | .xrd o => some o.fields
  | .aand o => some o.fields
  | .aor o => some o.fields
  | .axor o => some o.fields
  | .ainc o => some o.fields
  | .fence o => some o.fields
  | .fenceAcq o => some o.fields
  | .fenceRel o => some o.fields
  | .rvinit o => some o.fields
  | .rvarrive o => some o.fields
  | .rvwait o => some o.fields
  | .rvwaitSpec o => some o.fields
  | .rvsync o => some o.fields
  | .rvpoll o => some o.fields
  | .gbinit o => some o.fields
  | .gbarrive o => some o.fields
  | .gbwait o => some o.fields
  | .gbsync o => some o.fields
  | .waitvEq o => some o.fields
  | .waitvNe o => some o.fields
  | .specwait o => some o.fields
  | .xset o => some o.fields
  | .rvstat o => some o.fields
  | .mlds o => some o.fields
  | .mldl o => some o.fields
  | .mswap o => some o.fields
  | .mmul o => some o.fields
  | .mmulz o => some o.fields
  | .acst o => some o.fields
  | .acld o => some o.fields
  | .acsclRow o => some o.fields
  | .acsclCol o => some o.fields
  | .acnrm o => some o.fields
  | .acredMax o => some o.fields
  | .acredSum o => some o.fields
  | .acbias o => some o.fields
  | .cvinit o => some o.fields
  | .msign o => some o.fields
  | .mwait o => some o.fields
  | .mstat o => some o.fields
  | .mstclr o => some o.fields
  | .acrd o => some o.fields
  | .acwr o => some o.fields
  | .acclr o => some o.fields
  | .mplane o => some o.fields
  | .cpy o => some o.fields
  | .fill o => some o.fields
  | .cpts o => some o.fields
  | .cpfs o => some o.fields
  | .cpald o => some o.fields
  | .cpast o => some o.fields
  | .gcp o => some o.fields
  | .gcpts o => some o.fields
  | .expf o => some o.fields
  | .exwb o => some o.fields
  | .waitlt o => some o.fields
  | .ccrd o => some o.fields
  | .ccadd o => some o.fields
  | .ccclr o => some o.fields
  | .refine o => some o.fields
  | .rfres o => some o.fields
  | .rfchk o => some o.fields
  | .rfcancel o => some o.fields
  | .rfwait o => some o.fields
  | .rfstat o => some o.fields
  | .mfs o => some o.fields
  | .mts o => some o.fields
  | .mtsset o => some o.fields
  | .mtsclr o => some o.fields
  | .tret o => some o.fields
  | .tmask o => some o.fields
  | .tunmask o => some o.fields
  | .tabort o => some o.fields
  | .tmplace o => some o.fields
  | .tmsave o => some o.fields
  | .tmrest o => some o.fields
  | .tmflush o => some o.fields
  | .tmkill o => some o.fields
  | .tkclaim o => some o.fields
  | .tkdone o => some o.fields
  | .ftime o => some o.fields
  | .fwidle o => some o.fields
  | .fwsev o => some o.fields
  | .qpost o => some o.fields
  | .rdcyc o => some o.fields
  | .lsreq o => some o.fields
  | .lsrenew o => some o.fields
  | .lsdrop o => some o.fields
  | .exlend o => some o.fields
  | .lsrecall o => some o.fields
  | .lsrd o => some o.fields
  | .kyopen o => some o.fields
  | .kyclose o => some o.fields
  | .fmcand o => some o.fields
  | .exmig o => some o.fields
  | _ => none

/-- Reserved bits of one register field `x` and of its emp bit (02 R51, R74; 04 R119). -/
def Use.clear (u : Use) (x : BitVec 9) (emp : Bool) : Bool :=
  match u with
  | .none => x == 0 && !emp
  | .pred => decide (x.toNat < 8) && !emp
  | .code n => decide (x.toNat < 2 ^ n) && !emp
  | .bits mask => x.toNat &&& mask == x.toNat && !emp
  | .src _ => true
  | .dst _ => !emp
  | .both _ => true
  | .peek => !emp
  | .multiDst _ => !emp
  | .multiSrc _ => true

/-- The field is read as a register source. -/
def Use.isSrc : Use → Bool
  | .src _ => true
  | .both _ => true
  | .multiSrc _ => true
  | _ => false

/-- No reserved field is set (reason 0x06, 02 R74). -/
def Row.reservedClear (r : Row) (f : Fields) : Bool :=
  r.d.clear f.d (f.mform && f.empC) && r.a.clear f.a f.empA && r.b.clear f.b f.empB &&
    r.c.clear f.c (!f.mform && f.empC) && (!r.coll || (f.pred == 7 && !f.psense)) && (f.cce || f.cc == 0) && r.clear

/-- keep names no source the instruction reads (reason 0x0A, 02 R58, R63). -/
def Row.keepWrong (r : Row) (f : Fields) : Bool :=
  match f.keep.toNat with
  | 0 => false
  | 1 => !r.a.isSrc
  | 2 => !r.b.isSrc
  | _ => if f.mform then !r.d.isSrc else !r.c.isSrc

end Sys2Proof
end

