-- ==== Sys2Proof/WellFormed.lean ====
section
/-! DEFINITION. Well-formed instructions: the words that no reason 0x05 or 0x06 refuses (02 R74).
What depends on the issuing weave (reasons 0x01 and 0x07 to 0x0D) is checked at issue. -/

namespace Sys2Proof

/-- No reserved field of the instruction's form is set. -/
def Instr.fieldsClear (i : Instr) : Bool :=
  match i.fields with
  | some f => i.row.reservedClear f
  | none => true

/-- The type, modifier and codes are accepted and no reserved field is set. -/
def Instr.wellFormed (i : Instr) : Bool := i.row.accept && i.fieldsClear

/-- An event stands in no memory: only an instruction has words. -/
def Instr.isWord (i : Instr) : Bool :=
  match i with
  | .twlV _ _ _ => true
  | i => i.fields.isSome

abbrev Instr.WellFormed (i : Instr) : Prop := i.wellFormed = true

end Sys2Proof
end

