-- ==== Sys2Proof/Decode.lean ====
section
/-! DEFINITION. The decoder of Phody words (02 R42 to R74), of the house-core word twl.v (13 R433),
and the encoder written from the same tables. A few definitions are marked noncomputable only because
Lean's compiler cannot build constructors past its tag limit; the kernel evaluates them. -/

namespace Sys2Proof

/-- The six forms (02 R46, Table 10). -/
inductive FormKind
  | A | I | L | M | B | X
  deriving DecidableEq, Repr

/-- 02 Table 10: the form of a major opcode, `none` where it is unassigned or reserved. -/
def majorForm (m : Nat) : Option FormKind :=
  if m ≤ 0x05 then some .B else
  if m ≤ 0x0b then some .A else
  if m ≤ 0x0d then some .I else
  if m ≤ 0x1f then none else
  if m ≤ 0x37 then some .A else
  if m ≤ 0x45 then some .I else
  if m ≤ 0x4b then some .A else
  if m ≤ 0x4c then some .L else
  if m ≤ 0x4f then none else
  if m ≤ 0x6b then some .A else
  if m ≤ 0x6f then some .I else
  if m ≤ 0x70 then some .L else
  if m ≤ 0x7f then none else
  if m ≤ 0x93 then some .M else
  if m ≤ 0x97 then some .A else
  if m ≤ 0x9f then none else
  if m ≤ 0xab then some .A else
  if m ≤ 0xad then some .M else
  if m ≤ 0xaf then none else
  if m ≤ 0xb7 then some .M else
  if m ≤ 0xbf then some .A else
  if m ≤ 0xc9 then some .X else
  if m ≤ 0xcf then some .A else
  if m ≤ 0xd9 then some .X else
  if m ≤ 0xdb then some .A else
  if m ≤ 0xdf then none else
  if m ≤ 0xe3 then some .X else
  if m ≤ 0xe5 then some .A else
  if m ≤ 0xe7 then none else
  if m ≤ 0xf3 then some .A else
  if m ≤ 0xf4 then some .L else
  if m ≤ 0xf5 then some .X else
  none

def majorOf (w : DWord) : Nat := (w.extractLsb' 56 8).toNat
def fnOf (w : DWord) : Nat := (w.extractLsb' 12 4).toNat

/-- The header marker 0b111110 (02 R42). -/
def isHeader (w : DWord) : Bool := w.extractLsb' 58 6 == 0b111110#6

def unpackA (w : DWord) : AForm :=
  { pred := w.extractLsb' 53 3, psense := w.getLsbD 52, d := w.extractLsb' 43 9,
    a := w.extractLsb' 34 9, b := w.extractLsb' 25 9, c := w.extractLsb' 16 9,
    keep := w.extractLsb' 10 2, empC := w.getLsbD 9, empB := w.getLsbD 8, empA := w.getLsbD 7,
    ty := w.extractLsb' 4 3, mod := w.extractLsb' 0 4 }

def unpackI (w : DWord) : IForm :=
  { pred := w.extractLsb' 53 3, psense := w.getLsbD 52, d := w.extractLsb' 43 9,
    a := w.extractLsb' 34 9, b := w.extractLsb' 25 9, imm := w.extractLsb' 9 16,
    empB := w.getLsbD 8, empA := w.getLsbD 7, ty := w.extractLsb' 4 3, mod := w.extractLsb' 0 4 }

def unpackL (w imm : DWord) : LForm :=
  { pred := w.extractLsb' 53 3, psense := w.getLsbD 52, d := w.extractLsb' 43 9,
    a := w.extractLsb' 34 9, keepA := w.getLsbD 10, empA := w.getLsbD 7,
    ty := w.extractLsb' 4 3, mod := w.extractLsb' 0 4, imm := imm }

def unpackM (w : DWord) : MForm :=
  { pred := w.extractLsb' 53 3, psense := w.getLsbD 52, d := w.extractLsb' 43 9,
    a := w.extractLsb' 34 9, b := w.extractLsb' 25 9, disp := w.extractLsb' 12 13,
    keep := w.extractLsb' 10 2, empC := w.getLsbD 9, empB := w.getLsbD 8, empA := w.getLsbD 7,
    ty := w.extractLsb' 4 3, mod := w.extractLsb' 0 4 }

def unpackB (w : DWord) : BForm :=
  { pred := w.extractLsb' 53 3, psense := w.getLsbD 52, d := w.extractLsb' 43 9,
    off := w.extractLsb' 18 25 }

def unpackX (w : DWord) : XForm :=
  { pred := w.extractLsb' 53 3, psense := w.getLsbD 52, d := w.extractLsb' 43 9,
    a := w.extractLsb' 34 9, b := w.extractLsb' 25 9, ts := w.extractLsb' 19 6,
    cc := w.extractLsb' 8 4, cce := w.getLsbD 7, ty := w.extractLsb' 4 3,
    mod := w.extractLsb' 0 4 }

/-- The reserved bits of a form that lie in no field: [17:16] and [11:0] of the B-form, [18:16] of
the X-form, [33:16], [11] and [9:8] of the L-form (02 Tables 5, 7 and 8). -/
def spareClear (k : FormKind) (w : DWord) : Bool :=
  match k with
  | .B => w.extractLsb' 16 2 == 0 && w.extractLsb' 0 12 == 0
  | .X => w.extractLsb' 16 3 == 0
  | .L => w.extractLsb' 16 18 == 0 && !w.getLsbD 11 && w.extractLsb' 8 2 == 0
  | _ => true

/-- The instruction of a major opcode of the control class and fn (the class's opcode table). -/
def selectControl (m fn : Nat) (w : DWord) : Option Instr :=
  match m with
  | 0x00 => if fn = 0 then some (.br (unpackB w)) else none
  | 0x01 => if fn = 0 then some (.call (unpackB w)) else none
  | 0x02 => if fn = 0 then some (.dbnz (unpackB w)) else none
  | 0x03 =>
    match fn with
    | 0 => some (.bz (unpackB w))
    | 1 => some (.bnz (unpackB w))
    | _ => none
  | 0x04 =>
    match fn with
    | 0 => some (.bfull (unpackB w))
    | 1 => some (.bempty (unpackB w))
    | _ => none
  | 0x05 => if fn = 0 then some (.bpend (unpackB w)) else none
  | 0x06 =>
    match fn with
    | 0 => some (.jmp (unpackA w))
    | 1 => some (.jcall (unpackA w))
    | 2 => some (.ret (unpackA w))
    | _ => none
  | 0x07 =>
    match fn with
    | 0 => some (.pand (unpackA w))
    | 1 => some (.por (unpackA w))
    | 2 => some (.pxor (unpackA w))
    | 3 => some (.pandn (unpackA w))
    | _ => none
  | 0x08 =>
    match fn with
    | 0 => some (.pset (unpackA w))
    | 1 => some (.pget (unpackA w))
    | _ => none
  | 0x09 => if fn = 0 then some (.exit (unpackA w)) else none
  | 0x0a => if fn = 0 then some (.yield (unpackA w)) else none
  | 0x0b => if fn = 0 then some (.nop (unpackA w)) else none
  | 0x0c => some (.pause (unpackI w))
  | 0x0d => some (.brk (unpackI w))
  | _ => none

/-- The instruction of a major opcode of the integer class and fn (the class's opcode table). -/
def selectInteger (m fn : Nat) (w imm : DWord) : Option Instr :=
  match m with
  | 0x20 => if fn = 0 then some (.add (unpackA w)) else none
  | 0x21 => if fn = 0 then some (.sub (unpackA w)) else none
  | 0x22 => if fn = 0 then some (.addc (unpackA w)) else none
  | 0x23 => if fn = 0 then some (.subb (unpackA w)) else none
  | 0x24 => if fn = 0 then some (.min (unpackA w)) else none
  | 0x25 => if fn = 0 then some (.max (unpackA w)) else none
  | 0x26 => if fn = 0 then some (.abs (unpackA w)) else none
  | 0x27 => if fn = 0 then some (.mul (unpackA w)) else none
  | 0x28 => if fn = 0 then some (.mulhi (unpackA w)) else none
  | 0x29 => if fn = 0 then some (.mulw (unpackA w)) else none
  | 0x2a => if fn = 0 then some (.mad (unpackA w)) else none
  | 0x2b => if fn = 0 then some (.and (unpackA w)) else none
  | 0x2c => if fn = 0 then some (.or (unpackA w)) else none
  | 0x2d => if fn = 0 then some (.xor (unpackA w)) else none
  | 0x2e => if fn = 0 then some (.andn (unpackA w)) else none
  | 0x2f => if fn = 0 then some (.shl (unpackA w)) else none
  | 0x30 => if fn = 0 then some (.shr (unpackA w)) else none
  | 0x31 => if fn = 0 then some (.sar (unpackA w)) else none
  | 0x32 => if fn = 0 then some (.ror (unpackA w)) else none
  | 0x33 => if fn = 0 then some (.fsh (unpackA w)) else none
  | 0x34 => if fn = 0 then some (.bfx (unpackA w)) else none
  | 0x35 => if fn = 0 then some (.bfi (unpackA w)) else none
  | 0x36 => if fn = 0 then some (.popc (unpackA w)) else none
  | 0x37 => if fn = 0 then some (.clz (unpackA w)) else none
  | 0x38 => some (.addi (unpackI w))
  | 0x39 => some (.muli (unpackI w))
  | 0x3a => some (.andi (unpackI w))
  | 0x3b => some (.ori (unpackI w))
  | 0x3c => some (.lid (unpackI w))
  | 0x3d => some (.shli (unpackI w))
  | 0x3e => some (.shri (unpackI w))
  | 0x3f => some (.sari (unpackI w))
  | 0x40 => some (.bfxi (unpackI w))
  | 0x41 => some (.cmpi (unpackI w))
  | 0x42 => some (.lea (unpackI w))
  | 0x43 => some (.shup (unpackI w))
  | 0x44 => some (.shdn (unpackI w))
  | 0x45 => some (.shxor (unpackI w))
  | 0x46 => if fn = 0 then some (.cmp (unpackA w)) else none
  | 0x47 => if fn = 0 then some (.sel (unpackA w)) else none
  | 0x48 => if fn = 0 then some (.shfl (unpackA w)) else none
  | 0x49 => if fn = 0 then some (.vote (unpackA w)) else none
  | 0x4a => if fn = 0 then some (.ballot (unpackA w)) else none
  | 0x4b => if fn = 0 then some (.scan (unpackA w)) else none
  | 0x4c =>
    match fn with
    | 0 => some (.li (unpackL w imm))
    | 1 => some (.lda (unpackL w imm))
    | _ => none
  | _ => none

/-- The instruction of a major opcode of the float class and fn (the class's opcode table). -/
def selectFloat (m fn : Nat) (w imm : DWord) : Option Instr :=
  match m with
  | 0x50 => if fn = 0 then some (.fadd (unpackA w)) else none
  | 0x51 => if fn = 0 then some (.fsub (unpackA w)) else none
  | 0x52 => if fn = 0 then some (.fmul (unpackA w)) else none
  | 0x53 => if fn = 0 then some (.fdiv (unpackA w)) else none
  | 0x54 =>
    match fn with
    | 0 => some (.fma (unpackA w))
    | 1 => some (.fms (unpackA w))
    | _ => none
  | 0x55 => if fn = 0 then some (.fsqrt (unpackA w)) else none
  | 0x56 =>
    match fn with
    | 0 => some (.fmin (unpackA w))
    | 1 => some (.fmax (unpackA w))
    | _ => none
  | 0x57 =>
    match fn with
    | 0 => some (.fabs (unpackA w))
    | 1 => some (.fneg (unpackA w))
    | _ => none
  | 0x58 => if fn = 0 then some (.fcps (unpackA w)) else none
  | 0x59 => if fn = 0 then some (.fcmp (unpackA w)) else none
  | 0x5a => if fn = 0 then some (.fclass (unpackA w)) else none
  | 0x5b => if fn = 0 then some (.frint (unpackA w)) else none
  | 0x5c => if fn = 0 then some (.fscale (unpackA w)) else none
  | 0x5d =>
    match fn with
    | 0 => some (.fgetexp (unpackA w))
    | 1 => some (.fgetman (unpackA w))
    | _ => none
  | 0x5e => if fn = 0 then some (.fcvt (unpackA w)) else none
  | 0x5f => if fn = 0 then some (.fcvti (unpackA w)) else none
  | 0x60 => if fn = 0 then some (.icvtf (unpackA w)) else none
  | 0x61 => some (.fpk (unpackA w) (BitVec.ofNat 4 fn))
  | 0x62 => some (.fupk (unpackA w) (BitVec.ofNat 4 fn))
  | 0x63 => if fn = 0 then some (.frcpe (unpackA w)) else none
  | 0x64 => if fn = 0 then some (.frsqe (unpackA w)) else none
  | 0x65 => if fn = 0 then some (.fex2 (unpackA w)) else none
  | 0x66 => if fn = 0 then some (.flg2 (unpackA w)) else none
  | 0x67 =>
    match fn with
    | 0 => some (.fsinpi (unpackA w))
    | 1 => some (.fcospi (unpackA w))
    | _ => none
  | 0x68 => if fn = 0 then some (.fdot2 (unpackA w)) else none
  | 0x69 => if fn = 0 then some (.bqnt (unpackA w)) else none
  | 0x6a => if fn = 0 then some (.bdq (unpackA w)) else none
  | 0x6b =>
    match fn with
    | 0 => some (.fredAdd (unpackA w))
    | 1 => some (.fredMin (unpackA w))
    | 2 => some (.fredMax (unpackA w))
    | _ => none
  | 0x6c => some (.faddi (unpackI w))
  | 0x6d => some (.fmuli (unpackI w))
  | 0x6e => some (.fmai (unpackI w))
  | 0x6f => some (.fcmpi (unpackI w))
  | 0x70 => if fn = 0 then some (.fli (unpackL w imm)) else none
  | _ => none

/-- The instruction of a major opcode of the memory class and fn (the class's opcode table). -/
def selectMemory (m fn : Nat) (w : DWord) : Option Instr :=
  match m with
  | 0x80 => some (.ld (unpackM w))
  | 0x81 => some (.lds (unpackM w))
  | 0x82 => some (.ldx (unpackM w))
  | 0x83 => some (.ldxs (unpackM w))
  | 0x84 => some (.st (unpackM w))
  | 0x85 => some (.stx (unpackM w))
  | 0x86 => some (.ldnt (unpackM w))
  | 0x87 => some (.ldxnt (unpackM w))
  | 0x88 => some (.stnt (unpackM w))
  | 0x89 => some (.stxnt (unpackM w))
  | 0x8a => some (.ldnf (unpackM w))
  | 0x8b => some (.stbe (unpackM w))
  | 0x8c => some (.pf (unpackM w))
  | 0x8d => some (.pfx (unpackM w))
  | 0x8e => some (.ldm (unpackM w))
  | 0x8f => some (.stm (unpackM w))
  | 0x90 => some (.tlbp (unpackM w))
  | 0x91 => some (.tlbi (unpackM w))
  | 0x92 => some (.tlbs (unpackM w))
  | 0x93 => some (.pois (unpackM w))
  | 0x94 =>
    match fn with
    | 0 => some (.spmap (unpackA w))
    | 1 => some (.spmapz (unpackA w))
    | 2 => some (.spclr (unpackA w))
    | 3 => some (.spwb (unpackA w))
    | 4 => some (.spdrop (unpackA w))
    | _ => none
  | 0x95 => if fn = 0 then some (.ldts (unpackA w)) else none
  | 0x96 => if fn = 0 then some (.stts (unpackA w)) else none
  | 0x97 =>
    match fn with
    | 0 => some (.tsfree (unpackA w))
    | 1 => some (.tsstat (unpackA w))
    | _ => none
  | _ => none

/-- The instruction of a major opcode of the tile class and fn (the class's opcode table). -/
def selectTile (m fn : Nat) (w : DWord) : Option Instr :=
  match m with
  | 0xa0 => if fn = 0 then some (.thacq (unpackA w)) else none
  | 0xa1 => if fn = 0 then some (.thpf (unpackA w)) else none
  | 0xa2 => if fn = 0 then some (.threl (unpackA w)) else none
  | 0xa3 => if fn = 0 then some (.thdown (unpackA w)) else none
  | 0xa4 => if fn = 0 then some (.thclose (unpackA w)) else none
  | 0xa6 => if fn = 0 then some (.thwb (unpackA w)) else none
  | 0xa5 => if fn = 0 then some (.thsplit (unpackA w)) else none
  | 0xa7 => if fn = 0 then some (.thbind (unpackA w)) else none
  | 0xa8 => if fn = 0 then some (.thunbind (unpackA w)) else none
  | 0xa9 => if fn = 0 then some (.thstat (unpackA w)) else none
  | 0xaa => if fn = 0 then some (.thext (unpackA w)) else none
  | 0xab => if fn = 0 then some (.thprobe (unpackA w)) else none
  | 0xac => some (.thopen (unpackM w))
  | 0xad => some (.thdesc (unpackM w))
  | _ => none

/-- The instruction of a major opcode of the sync class and fn (the class's opcode table). -/
def selectSync (m fn : Nat) (w : DWord) : Option Instr :=
  match m with
  | 0xb0 => some (.cas (unpackM w))
  | 0xb1 => some (.swap (unpackM w))
  | 0xb2 => some (.aadd (unpackM w))
  | 0xb3 => some (.amin (unpackM w))
  | 0xb4 => some (.amax (unpackM w))
  | 0xb5 => some (.afadd (unpackM w))
  | 0xb6 => some (.xadd (unpackM w))
  | 0xb7 => some (.xrd (unpackM w))
  | 0xb8 =>
    match fn with
    | 0 => some (.aand (unpackA w))
    | 1 => some (.aor (unpackA w))
    | 2 => some (.axor (unpackA w))
    | 3 => some (.ainc (unpackA w))
    | _ => none
  | 0xb9 =>
    match fn with
    | 0 => some (.fence (unpackA w))
    | 1 => some (.fenceAcq (unpackA w))
    | 2 => some (.fenceRel (unpackA w))
    | _ => none
  | 0xba =>
    match fn with
    | 0 => some (.rvinit (unpackA w))
    | 1 => some (.rvarrive (unpackA w))
    | 2 => some (.rvwait (unpackA w))
    | 3 => some (.rvwaitSpec (unpackA w))
    | 4 => some (.rvsync (unpackA w))
    | 5 => some (.rvpoll (unpackA w))
    | _ => none
  | 0xbb =>
    match fn with
    | 0 => some (.gbinit (unpackA w))
    | 1 => some (.gbarrive (unpackA w))
    | 2 => some (.gbwait (unpackA w))
    | 3 => some (.gbsync (unpackA w))
    | _ => none
  | 0xbc =>
    match fn with
    | 0 => some (.waitvEq (unpackA w))
    | 1 => some (.waitvNe (unpackA w))
    | _ => none
  | 0xbd => if fn = 0 then some (.specwait (unpackA w)) else none
  | 0xbe => if fn = 0 then some (.xset (unpackA w)) else none
  | 0xbf => if fn = 0 then some (.rvstat (unpackA w)) else none
  | _ => none

/-- The instruction of a major opcode of the matrix class and fn (the class's opcode table). -/
def selectMatrix (m fn : Nat) (w : DWord) : Option Instr :=
  match m with
  | 0xc0 => if fn = 0 then some (.mlds (unpackX w)) else none
  | 0xc1 => if fn = 0 then some (.mldl (unpackX w)) else none
  | 0xc2 => if fn = 0 then some (.mswap (unpackX w)) else none
  | 0xc3 =>
    match fn with
    | 0 => some (.mmul (unpackX w))
    | 1 => some (.mmulz (unpackX w))
    | _ => none
  | 0xc4 => if fn = 0 then some (.acst (unpackX w)) else none
  | 0xc5 => if fn = 0 then some (.acld (unpackX w)) else none
  | 0xc6 =>
    match fn with
    | 0 => some (.acsclRow (unpackX w))
    | 1 => some (.acsclCol (unpackX w))
    | _ => none
  | 0xc7 => if fn = 0 then some (.acnrm (unpackX w)) else none
  | 0xc8 =>
    match fn with
    | 0 => some (.acredMax (unpackX w))
    | 1 => some (.acredSum (unpackX w))
    | _ => none
  | 0xc9 => if fn = 0 then some (.acbias (unpackX w)) else none
  | 0xca =>
    match fn with
    | 0 => some (.cvinit (unpackA w))
    | 1 => some (.msign (unpackA w))
    | _ => none
  | 0xcb => if fn = 0 then some (.mwait (unpackA w)) else none
  | 0xcc =>
    match fn with
    | 0 => some (.mstat (unpackA w))
    | 1 => some (.mstclr (unpackA w))
    | _ => none
  | 0xcd =>
    match fn with
    | 0 => some (.acrd (unpackA w))
    | 1 => some (.acwr (unpackA w))
    | _ => none
  | 0xce => if fn = 0 then some (.acclr (unpackA w)) else none
  | 0xcf => if fn = 0 then some (.mplane (unpackA w)) else none
  | _ => none

/-- The instruction of a major opcode of the engine class and fn (the class's opcode table). -/
def selectEngine (m fn : Nat) (w : DWord) : Option Instr :=
  match m with
  | 0xd0 => if fn = 0 then some (.cpy (unpackX w)) else none
  | 0xd1 => if fn = 0 then some (.fill (unpackX w)) else none
  | 0xd2 => if fn = 0 then some (.cpts (unpackX w)) else none
  | 0xd3 => if fn = 0 then some (.cpfs (unpackX w)) else none
  | 0xd4 => if fn = 0 then some (.cpald (unpackX w)) else none
  | 0xd5 => if fn = 0 then some (.cpast (unpackX w)) else none
  | 0xd6 => if fn = 0 then some (.gcp (unpackX w)) else none
  | 0xd7 => if fn = 0 then some (.gcpts (unpackX w)) else none
  | 0xd8 => if fn = 0 then some (.expf (unpackX w)) else none
  | 0xd9 => if fn = 0 then some (.exwb (unpackX w)) else none
  | 0xda =>
    match fn with
    | 0 => some (.waitlt (unpackA w))
    | 1 => some (.ccrd (unpackA w))
    | 2 => some (.ccadd (unpackA w))
    | _ => none
  | 0xdb => if fn = 0 then some (.ccclr (unpackA w)) else none
  | _ => none

/-- The instruction of a major opcode of the refine class and fn (the class's opcode table). -/
def selectRefine (m fn : Nat) (w : DWord) : Option Instr :=
  match m with
  | 0xe0 => if fn = 0 then some (.refine (unpackX w)) else none
  | 0xe1 => if fn = 0 then some (.rfres (unpackX w)) else none
  | 0xe2 => if fn = 0 then some (.rfchk (unpackX w)) else none
  | 0xe3 => if fn = 0 then some (.rfcancel (unpackX w)) else none
  | 0xe4 => if fn = 0 then some (.rfwait (unpackA w)) else none
  | 0xe5 => if fn = 0 then some (.rfstat (unpackA w)) else none
  | _ => none

/-- The instruction of a major opcode of the system class and fn (the class's opcode table). -/
def selectSystem (m fn : Nat) (w : DWord) : Option Instr :=
  match m with
  | 0xe8 =>
    match fn with
    | 0 => some (.mfs (unpackA w))
    | 1 => some (.mts (unpackA w))
    | 2 => some (.mtsset (unpackA w))
    | 3 => some (.mtsclr (unpackA w))
    | _ => none
  | 0xe9 =>
    match fn with
    | 0 => some (.tret (unpackA w))
    | 1 => some (.tmask (unpackA w))
    | 2 => some (.tunmask (unpackA w))
    | 3 => some (.tabort (unpackA w))
    | _ => none
  | 0xea =>
    match fn with
    | 0 => some (.tmplace (unpackA w))
    | 1 => some (.tmsave (unpackA w))
    | 2 => some (.tmrest (unpackA w))
    | 3 => some (.tmflush (unpackA w))
    | 4 => some (.tmkill (unpackA w))
    | _ => none
  | 0xeb =>
    match fn with
    | 0 => some (.tkclaim (unpackA w))
    | 1 => some (.tkdone (unpackA w))
    | _ => none
  | 0xec => if fn = 0 then some (.ftime (unpackA w)) else none
  | 0xed =>
    match fn with
    | 0 => some (.fwidle (unpackA w))
    | 1 => some (.fwsev (unpackA w))
    | _ => none
  | 0xee => if fn = 0 then some (.qpost (unpackA w)) else none
  | 0xef => if fn = 0 then some (.rdcyc (unpackA w)) else none
  | _ => none

/-- The instruction of a major opcode of the extent class and fn (the class's opcode table). -/
noncomputable def selectExtent (m fn : Nat) (w imm : DWord) : Option Instr :=
  match m with
  | 0xf0 =>
    match fn with
    | 0 => some (.lsreq (unpackA w))
    | 1 => some (.lsrenew (unpackA w))
    | 2 => some (.lsdrop (unpackA w))
    | _ => none
  | 0xf1 =>
    match fn with
    | 0 => some (.exlend (unpackA w))
    | 1 => some (.lsrecall (unpackA w))
    | _ => none
  | 0xf2 => if fn = 0 then some (.lsrd (unpackA w)) else none
  | 0xf3 =>
    match fn with
    | 0 => some (.kyopen (unpackA w))
    | 1 => some (.kyclose (unpackA w))
    | _ => none
  | 0xf4 => if fn = 0 then some (.fmcand (unpackL w imm)) else none
  | 0xf5 => if fn = 0 then some (.exmig (unpackX w)) else none
  | _ => none

/-- The instruction that the major opcode and fn of `w` name; `imm` is the word after it. -/
noncomputable def selectInstr (m fn : Nat) (w imm : DWord) : Option Instr :=
  if m ≤ 0x1f then selectControl m fn w else
  if m ≤ 0x4f then selectInteger m fn w imm else
  if m ≤ 0x7f then selectFloat m fn w imm else
  if m ≤ 0x9f then selectMemory m fn w else
  if m ≤ 0xaf then selectTile m fn w else
  if m ≤ 0xbf then selectSync m fn w else
  if m ≤ 0xcf then selectMatrix m fn w else
  if m ≤ 0xdf then selectEngine m fn w else
  if m ≤ 0xe7 then selectRefine m fn w else
  if m ≤ 0xef then selectSystem m fn w else
  selectExtent m fn w imm

/-- What the decoder answers: an instruction, or the reason code of 02 Table 11 that refuses it. -/
inductive Decoded
  | ok (i : Instr)
  | illegal (reason : Nat)
  deriving DecidableEq, Repr

/-- A Phody word and the word after it (02 R73, R74: the lowest of the reasons 0x01 to 0x06 that
applies). -/
noncomputable def decodeWord (w imm : DWord) : Decoded :=
  if isHeader w then .illegal 0x01
  else match majorForm (majorOf w) with
    | none => .illegal 0x04
    | some k =>
      match selectInstr (majorOf w) (fnOf w) w imm with
      | none => .illegal 0x05
      | some i =>
        if !i.row.accept then .illegal 0x05
        else if !(i.fieldsClear && spareClear k w) then .illegal 0x06
        else .ok i

/-- Little-endian bytes (00 R4). -/
def bytesOf (n : Nat) (v : Nat) : List Byte :=
  (List.range n).map (fun k => BitVec.ofNat 8 (v >>> (8 * k)))

/-- The number that bytes hold, the lowest first (00 R4). -/
def ofBytes : List Byte → Nat
  | [] => 0
  | b :: bs => b.toNat + 256 * ofBytes bs

/-- Decode from bytes: the answer and the bytes that follow the instruction; `none` when fewer than
eight bytes (sixteen for an L-form) are left. -/
noncomputable def decode (bs : List Byte) : Option (Decoded × List Byte) :=
  if bs.length < 8 then none
  else
    let w := BitVec.ofNat 64 (ofBytes (bs.take 8))
    if majorForm (majorOf w) = some .L && !isHeader w then
      if bs.length < 16 then none
      else some (decodeWord w (BitVec.ofNat 64 (ofBytes ((bs.drop 8).take 8))), bs.drop 16)
    else some (decodeWord w 0, bs.drop 8)

/-- The house-core extension: twl.v in custom-0 (13 R433); no other word of a house core is
modelled. -/
noncomputable def decodeHouse (w : BitVec 32) : Option Instr :=
  if w &&& 0xFE00707F#32 = 0x0000000B#32 then
    some (.twlV (w.extractLsb' 7 5) (w.extractLsb' 15 5) (w.extractLsb' 20 5))
  else none

/-- The instruction read from a table row's bits: 32 bits or fewer are a house-core word, more are
Phody words. -/
noncomputable def decodeTableWord (nbits w : Nat) : Option Instr :=
  if nbits ≤ 32 then decodeHouse (BitVec.ofNat 32 w)
  else match decode (bytesOf 16 w) with
    | some (.ok i, _) => some i
    | _ => none

/-! ### The encoder -/

def packA (m : BitVec 8) (fn : BitVec 4) (o : AForm) : DWord :=
  m ++ o.pred ++ BitVec.ofBool o.psense ++ o.d ++ o.a ++ o.b ++ o.c ++ fn ++ o.keep ++
    BitVec.ofBool o.empC ++ BitVec.ofBool o.empB ++ BitVec.ofBool o.empA ++ o.ty ++ o.mod

def packI (m : BitVec 8) (o : IForm) : DWord :=
  m ++ o.pred ++ BitVec.ofBool o.psense ++ o.d ++ o.a ++ o.b ++ o.imm ++
    BitVec.ofBool o.empB ++ BitVec.ofBool o.empA ++ o.ty ++ o.mod

def packL (m : BitVec 8) (fn : BitVec 4) (o : LForm) : DWord :=
  m ++ o.pred ++ BitVec.ofBool o.psense ++ o.d ++ o.a ++ 0#18 ++ fn ++ 0#1 ++
    BitVec.ofBool o.keepA ++ 0#2 ++ BitVec.ofBool o.empA ++ o.ty ++ o.mod

def packM (m : BitVec 8) (o : MForm) : DWord :=
  m ++ o.pred ++ BitVec.ofBool o.psense ++ o.d ++ o.a ++ o.b ++ o.disp ++ o.keep ++
    BitVec.ofBool o.empC ++ BitVec.ofBool o.empB ++ BitVec.ofBool o.empA ++ o.ty ++ o.mod

def packB (m : BitVec 8) (fn : BitVec 4) (o : BForm) : DWord :=
  m ++ o.pred ++ BitVec.ofBool o.psense ++ o.d ++ o.off ++ 0#2 ++ fn ++ 0#12

def packX (m : BitVec 8) (fn : BitVec 4) (o : XForm) : DWord :=
  m ++ o.pred ++ BitVec.ofBool o.psense ++ o.d ++ o.a ++ o.b ++ o.ts ++ 0#3 ++ fn ++ o.cc ++
    BitVec.ofBool o.cce ++ o.ty ++ o.mod

/-- The first word of a Phody instruction; `none` for twl.v and for an event. -/
def encodeWord : Instr → Option DWord
  | .br o => some (packB 0x00 0 o)
  | .call o => some (packB 0x01 0 o)
  | .dbnz o => some (packB 0x02 0 o)
  | .bz o => some (packB 0x03 0 o)
  | .bnz o => some (packB 0x03 1 o)
  | .bfull o => some (packB 0x04 0 o)
  | .bempty o => some (packB 0x04 1 o)
  | .bpend o => some (packB 0x05 0 o)
  | .jmp o => some (packA 0x06 0 o)
  | .jcall o => some (packA 0x06 1 o)
  | .ret o => some (packA 0x06 2 o)
  | .pand o => some (packA 0x07 0 o)
  | .por o => some (packA 0x07 1 o)
  | .pxor o => some (packA 0x07 2 o)
  | .pandn o => some (packA 0x07 3 o)
  | .pset o => some (packA 0x08 0 o)
  | .pget o => some (packA 0x08 1 o)
  | .exit o => some (packA 0x09 0 o)
  | .yield o => some (packA 0x0a 0 o)
  | .nop o => some (packA 0x0b 0 o)
  | .pause o => some (packI 0x0c o)
  | .brk o => some (packI 0x0d o)
  | .add o => some (packA 0x20 0 o)
  | .sub o => some (packA 0x21 0 o)
  | .addc o => some (packA 0x22 0 o)
  | .subb o => some (packA 0x23 0 o)
  | .min o => some (packA 0x24 0 o)
  | .max o => some (packA 0x25 0 o)
  | .abs o => some (packA 0x26 0 o)
  | .mul o => some (packA 0x27 0 o)
  | .mulhi o => some (packA 0x28 0 o)
  | .mulw o => some (packA 0x29 0 o)
  | .mad o => some (packA 0x2a 0 o)
  | .and o => some (packA 0x2b 0 o)
  | .or o => some (packA 0x2c 0 o)
  | .xor o => some (packA 0x2d 0 o)
  | .andn o => some (packA 0x2e 0 o)
  | .shl o => some (packA 0x2f 0 o)
  | .shr o => some (packA 0x30 0 o)
  | .sar o => some (packA 0x31 0 o)
  | .ror o => some (packA 0x32 0 o)
  | .fsh o => some (packA 0x33 0 o)
  | .bfx o => some (packA 0x34 0 o)
  | .bfi o => some (packA 0x35 0 o)
  | .popc o => some (packA 0x36 0 o)
  | .clz o => some (packA 0x37 0 o)
  | .addi o => some (packI 0x38 o)
  | .muli o => some (packI 0x39 o)
  | .andi o => some (packI 0x3a o)
  | .ori o => some (packI 0x3b o)
  | .lid o => some (packI 0x3c o)
  | .shli o => some (packI 0x3d o)
  | .shri o => some (packI 0x3e o)
  | .sari o => some (packI 0x3f o)
  | .bfxi o => some (packI 0x40 o)
  | .cmpi o => some (packI 0x41 o)
  | .lea o => some (packI 0x42 o)
  | .shup o => some (packI 0x43 o)
  | .shdn o => some (packI 0x44 o)
  | .shxor o => some (packI 0x45 o)
  | .cmp o => some (packA 0x46 0 o)
  | .sel o => some (packA 0x47 0 o)
  | .shfl o => some (packA 0x48 0 o)
  | .vote o => some (packA 0x49 0 o)
  | .ballot o => some (packA 0x4a 0 o)
  | .scan o => some (packA 0x4b 0 o)
  | .li o => some (packL 0x4c 0 o)
  | .lda o => some (packL 0x4c 1 o)
  | .fadd o => some (packA 0x50 0 o)
  | .fsub o => some (packA 0x51 0 o)
  | .fmul o => some (packA 0x52 0 o)
  | .fdiv o => some (packA 0x53 0 o)
  | .fma o => some (packA 0x54 0 o)
  | .fms o => some (packA 0x54 1 o)
  | .fsqrt o => some (packA 0x55 0 o)
  | .fmin o => some (packA 0x56 0 o)
  | .fmax o => some (packA 0x56 1 o)
  | .fabs o => some (packA 0x57 0 o)
  | .fneg o => some (packA 0x57 1 o)
  | .fcps o => some (packA 0x58 0 o)
  | .fcmp o => some (packA 0x59 0 o)
  | .fclass o => some (packA 0x5a 0 o)
  | .frint o => some (packA 0x5b 0 o)
  | .fscale o => some (packA 0x5c 0 o)
  | .fgetexp o => some (packA 0x5d 0 o)
  | .fgetman o => some (packA 0x5d 1 o)
  | .fcvt o => some (packA 0x5e 0 o)
  | .fcvti o => some (packA 0x5f 0 o)
  | .icvtf o => some (packA 0x60 0 o)
  | .fpk o pos => some (packA 0x61 pos o)
  | .fupk o pos => some (packA 0x62 pos o)
  | .frcpe o => some (packA 0x63 0 o)
  | .frsqe o => some (packA 0x64 0 o)
  | .fex2 o => some (packA 0x65 0 o)
  | .flg2 o => some (packA 0x66 0 o)
  | .fsinpi o => some (packA 0x67 0 o)
  | .fcospi o => some (packA 0x67 1 o)
  | .fdot2 o => some (packA 0x68 0 o)
  | .bqnt o => some (packA 0x69 0 o)
  | .bdq o => some (packA 0x6a 0 o)
  | .fredAdd o => some (packA 0x6b 0 o)
  | .fredMin o => some (packA 0x6b 1 o)
  | .fredMax o => some (packA 0x6b 2 o)
  | .faddi o => some (packI 0x6c o)
  | .fmuli o => some (packI 0x6d o)
  | .fmai o => some (packI 0x6e o)
  | .fcmpi o => some (packI 0x6f o)
  | .fli o => some (packL 0x70 0 o)
  | .ld o => some (packM 0x80 o)
  | .lds o => some (packM 0x81 o)
  | .ldx o => some (packM 0x82 o)
  | .ldxs o => some (packM 0x83 o)
  | .st o => some (packM 0x84 o)
  | .stx o => some (packM 0x85 o)
  | .ldnt o => some (packM 0x86 o)
  | .ldxnt o => some (packM 0x87 o)
  | .stnt o => some (packM 0x88 o)
  | .stxnt o => some (packM 0x89 o)
  | .ldnf o => some (packM 0x8a o)
  | .stbe o => some (packM 0x8b o)
  | .pf o => some (packM 0x8c o)
  | .pfx o => some (packM 0x8d o)
  | .ldm o => some (packM 0x8e o)
  | .stm o => some (packM 0x8f o)
  | .tlbp o => some (packM 0x90 o)
  | .tlbi o => some (packM 0x91 o)
  | .tlbs o => some (packM 0x92 o)
  | .pois o => some (packM 0x93 o)
  | .spmap o => some (packA 0x94 0 o)
  | .spmapz o => some (packA 0x94 1 o)
  | .spclr o => some (packA 0x94 2 o)
  | .spwb o => some (packA 0x94 3 o)
  | .spdrop o => some (packA 0x94 4 o)
  | .ldts o => some (packA 0x95 0 o)
  | .stts o => some (packA 0x96 0 o)
  | .tsfree o => some (packA 0x97 0 o)
  | .tsstat o => some (packA 0x97 1 o)
  | .thacq o => some (packA 0xa0 0 o)
  | .thpf o => some (packA 0xa1 0 o)
  | .threl o => some (packA 0xa2 0 o)
  | .thdown o => some (packA 0xa3 0 o)
  | .thclose o => some (packA 0xa4 0 o)
  | .thwb o => some (packA 0xa6 0 o)
  | .thsplit o => some (packA 0xa5 0 o)
  | .thbind o => some (packA 0xa7 0 o)
  | .thunbind o => some (packA 0xa8 0 o)
  | .thstat o => some (packA 0xa9 0 o)
  | .thext o => some (packA 0xaa 0 o)
  | .thprobe o => some (packA 0xab 0 o)
  | .thopen o => some (packM 0xac o)
  | .thdesc o => some (packM 0xad o)
  | .cas o => some (packM 0xb0 o)
  | .swap o => some (packM 0xb1 o)
  | .aadd o => some (packM 0xb2 o)
  | .amin o => some (packM 0xb3 o)
  | .amax o => some (packM 0xb4 o)
  | .afadd o => some (packM 0xb5 o)
  | .xadd o => some (packM 0xb6 o)
  | .xrd o => some (packM 0xb7 o)
  | .aand o => some (packA 0xb8 0 o)
  | .aor o => some (packA 0xb8 1 o)
  | .axor o => some (packA 0xb8 2 o)
  | .ainc o => some (packA 0xb8 3 o)
  | .fence o => some (packA 0xb9 0 o)
  | .fenceAcq o => some (packA 0xb9 1 o)
  | .fenceRel o => some (packA 0xb9 2 o)
  | .rvinit o => some (packA 0xba 0 o)
  | .rvarrive o => some (packA 0xba 1 o)
  | .rvwait o => some (packA 0xba 2 o)
  | .rvwaitSpec o => some (packA 0xba 3 o)
  | .rvsync o => some (packA 0xba 4 o)
  | .rvpoll o => some (packA 0xba 5 o)
  | .gbinit o => some (packA 0xbb 0 o)
  | .gbarrive o => some (packA 0xbb 1 o)
  | .gbwait o => some (packA 0xbb 2 o)
  | .gbsync o => some (packA 0xbb 3 o)
  | .waitvEq o => some (packA 0xbc 0 o)
  | .waitvNe o => some (packA 0xbc 1 o)
  | .specwait o => some (packA 0xbd 0 o)
  | .xset o => some (packA 0xbe 0 o)
  | .rvstat o => some (packA 0xbf 0 o)
  | .mlds o => some (packX 0xc0 0 o)
  | .mldl o => some (packX 0xc1 0 o)
  | .mswap o => some (packX 0xc2 0 o)
  | .mmul o => some (packX 0xc3 0 o)
  | .mmulz o => some (packX 0xc3 1 o)
  | .acst o => some (packX 0xc4 0 o)
  | .acld o => some (packX 0xc5 0 o)
  | .acsclRow o => some (packX 0xc6 0 o)
  | .acsclCol o => some (packX 0xc6 1 o)
  | .acnrm o => some (packX 0xc7 0 o)
  | .acredMax o => some (packX 0xc8 0 o)
  | .acredSum o => some (packX 0xc8 1 o)
  | .acbias o => some (packX 0xc9 0 o)
  | .cvinit o => some (packA 0xca 0 o)
  | .msign o => some (packA 0xca 1 o)
  | .mwait o => some (packA 0xcb 0 o)
  | .mstat o => some (packA 0xcc 0 o)
  | .mstclr o => some (packA 0xcc 1 o)
  | .acrd o => some (packA 0xcd 0 o)
  | .acwr o => some (packA 0xcd 1 o)
  | .acclr o => some (packA 0xce 0 o)
  | .mplane o => some (packA 0xcf 0 o)
  | .cpy o => some (packX 0xd0 0 o)
  | .fill o => some (packX 0xd1 0 o)
  | .cpts o => some (packX 0xd2 0 o)
  | .cpfs o => some (packX 0xd3 0 o)
  | .cpald o => some (packX 0xd4 0 o)
  | .cpast o => some (packX 0xd5 0 o)
  | .gcp o => some (packX 0xd6 0 o)
  | .gcpts o => some (packX 0xd7 0 o)
  | .expf o => some (packX 0xd8 0 o)
  | .exwb o => some (packX 0xd9 0 o)
  | .waitlt o => some (packA 0xda 0 o)
  | .ccrd o => some (packA 0xda 1 o)
  | .ccadd o => some (packA 0xda 2 o)
  | .ccclr o => some (packA 0xdb 0 o)
  | .refine o => some (packX 0xe0 0 o)
  | .rfres o => some (packX 0xe1 0 o)
  | .rfchk o => some (packX 0xe2 0 o)
  | .rfcancel o => some (packX 0xe3 0 o)
  | .rfwait o => some (packA 0xe4 0 o)
  | .rfstat o => some (packA 0xe5 0 o)
  | .mfs o => some (packA 0xe8 0 o)
  | .mts o => some (packA 0xe8 1 o)
  | .mtsset o => some (packA 0xe8 2 o)
  | .mtsclr o => some (packA 0xe8 3 o)
  | .tret o => some (packA 0xe9 0 o)
  | .tmask o => some (packA 0xe9 1 o)
  | .tunmask o => some (packA 0xe9 2 o)
  | .tabort o => some (packA 0xe9 3 o)
  | .tmplace o => some (packA 0xea 0 o)
  | .tmsave o => some (packA 0xea 1 o)
  | .tmrest o => some (packA 0xea 2 o)
  | .tmflush o => some (packA 0xea 3 o)
  | .tmkill o => some (packA 0xea 4 o)
  | .tkclaim o => some (packA 0xeb 0 o)
  | .tkdone o => some (packA 0xeb 1 o)
  | .ftime o => some (packA 0xec 0 o)
  | .fwidle o => some (packA 0xed 0 o)
  | .fwsev o => some (packA 0xed 1 o)
  | .qpost o => some (packA 0xee 0 o)
  | .rdcyc o => some (packA 0xef 0 o)
  | .lsreq o => some (packA 0xf0 0 o)
  | .lsrenew o => some (packA 0xf0 1 o)
  | .lsdrop o => some (packA 0xf0 2 o)
  | .exlend o => some (packA 0xf1 0 o)
  | .lsrecall o => some (packA 0xf1 1 o)
  | .lsrd o => some (packA 0xf2 0 o)
  | .kyopen o => some (packA 0xf3 0 o)
  | .kyclose o => some (packA 0xf3 1 o)
  | .fmcand o => some (packL 0xf4 0 o)
  | .exmig o => some (packX 0xf5 0 o)
  | _ => none

/-- The immediate word of an L-form instruction (02 R62). -/
def immWord : Instr → Option DWord
  | .li o => some o.imm
  | .lda o => some o.imm
  | .fli o => some o.imm
  | .fmcand o => some o.imm
  | _ => none

def packHouse (vd rs1 rs2 : BitVec 5) : BitVec 32 :=
  0#7 ++ rs2 ++ rs1 ++ 0#3 ++ vd ++ 0x0B#7

/-- The bytes of an instruction as they stand in memory; empty for an event. -/
def encode (i : Instr) : List Byte :=
  match i with
  | .twlV vd rs1 rs2 => bytesOf 4 (packHouse vd rs1 rs2).toNat
  | i =>
    match encodeWord i, immWord i with
    | some w, some v => bytesOf 8 w.toNat ++ bytesOf 8 v.toNat
    | some w, none => bytesOf 8 w.toNat
    | none, _ => []

end Sys2Proof
end

