-- ==== Sys2Proof/Config.lean ====
section
/-! DEFINITION. What the implementation fixes and the values the spec leaves free. An opaque constant
has no body: no proof can see its value. -/

namespace Sys2Proof.Config

/-- Free value (log entry 2): compute-core cycles that pass in a step. -/
opaque elapsedCycles : Nat → Nat
/-- Free value (log entry 2): nanoseconds of fabric time that pass in a step. -/
opaque elapsedNs : Nat → Nat
/-- Free value (log entry 12): which of the six hold lengths of 07 R250 a slice chooses. -/
opaque holdChoice : Nat → BitVec 3
/-- Free value (log entry 16): the vector register width of a house core in bytes, less one. -/
opaque houseVlen : Nat
/-- Free value (log entry 23): a bit pattern the spec does not state. -/
opaque freeBits : Nat → BitVec 128

/-- Free value (log entry 9): the image base that lda of the firmware agent adds to. -/
opaque agentImage : Nat

/-- Free value (log entry 24): the LLC slice that homes a line, slices 128 to a die. -/
opaque homeSlice : Nat → Nat

/-- Free value (log entry 19): the packages that fabric enumeration has found. -/
opaque inFabric : Nat → Bool
/-- Free value (log entry 19): the fabric time from which a lender refuses accesses under a lease as revoked; 4096 ×
package + extent, and the time at which the lease was granted. -/
opaque lenderCommits : Nat → Nat → Nat
/-- Free value (log entry 19): whether a package answers at a fabric time. -/
opaque peerAnswers : Nat → Nat → Bool
/-- Free value (log entry 19): what a register of another package reads as, by tick and address. -/
opaque remoteRegister : Nat → Nat → Nat
/-- Free value (log entry 21): whether a core that exceeds the power limit idles in a step. -/
opaque idleCycle : Nat → Bool
/-- Free value (log entry 46): package number and priority of the strongest other candidate for fabric
manager in an epoch, priority 0 for none. -/
opaque fmRival : Nat → Nat × Nat
/-- Free value (log entry 46): the number of candidates in an epoch. -/
opaque fmCandidates : Nat → Nat
/-- Free value (log entry 66): what firmware's write of a value to a device register at a local address that the spec
does not place configures: a kind (Machine.FwKind), an index and a value. -/
opaque fwRegister : Nat → Nat → Nat × Nat × Nat
/-- Free value (log entry 19): the Garef port that carries accesses to a package. -/
opaque garefPort : Nat → Nat
/-- Free value (log entry 11): the set of the die TLB that caches a page. -/
opaque dieTlbSet : Nat → Nat
/-- Free value (log entry 20): how long a live activation of firmware lasts, in ns. -/
opaque activationNs : Nat

/-- STEP and ARCH of this part (00 R1). -/
def arch : Nat := 0x0100
def stepping : Nat := 0x02
def cores : Nat := 144
def dies : Nat := 4
def userSlots : Nat := 47
/-- The slot of the firmware agent (01 R28). -/
def agentSlot : Nat := 47
def bankBytes : Nat := 98304
def lineBytes : Nat := 128
def sectorBytes : Nat := 32
def joinEntries : Nat := 16
def parkedMax : Nat := 8
def storeQueue : Nat := 64

end Sys2Proof.Config
end

