-- ==== Sys2Proof/Machine/Sparse.lean ====
section
/-! DEFINITION. Sparse tables: lists of (key, value) pairs, keys strictly rising. `tabSet` keeps every
written entry; `tabPut` keeps the canonical form in which no entry equals what an unlisted key
reads as. -/

namespace Sys2Proof.Machine

/-- Plain data by key. -/
abbrev Tab (α : Type) := List (Nat × α)

/-- The entry of key `k`, if one is listed. -/
def tabFind {α : Type} (k : Nat) : Tab α → Option α
  | [] => none
  | (j, v) :: t => if j = k then some v else tabFind k t

/-- The value of key `k`, `d` where none is listed. -/
def tabGet {α : Type} (d : α) (k : Nat) (t : Tab α) : α := (tabFind k t).getD d

/-- List `v` under `k`, replacing an entry of that key. -/
def tabSet {α : Type} (k : Nat) (v : α) : Tab α → Tab α
  | [] => [(k, v)]
  | (j, w) :: t =>
    if k < j then (k, v) :: (j, w) :: t
    else if j = k then (k, v) :: t
    else (j, w) :: tabSet k v t

/-- Remove every entry of key `k`. -/
def tabErase {α : Type} (k : Nat) : Tab α → Tab α
  | [] => []
  | (j, w) :: t => if j = k then tabErase k t else (j, w) :: tabErase k t

/-- Write `v` under `k` in a table whose unlisted keys read `d`. -/
def tabPut {α : Type} [DecidableEq α] (d : α) (k : Nat) (v : α) (t : Tab α) : Tab α :=
  if v = d then tabErase k t else tabSet k v t

/-- Change the entry of key `k`, if one is listed. -/
def tabModify {α : Type} (k : Nat) (g : α → α) (t : Tab α) : Tab α :=
  match tabFind k t with
  | some v => tabSet k (g v) t
  | none => t

/-- The keys rise strictly. -/
def tabSorted {α : Type} : Tab α → Bool
  | [] => true
  | [_] => true
  | (j, _) :: (k, w) :: t => decide (j < k) && tabSorted ((k, w) :: t)

/-- The canonical form of a table whose unlisted keys read `d`. -/
def tabWf {α : Type} [DecidableEq α] (d : α) (t : Tab α) : Bool :=
  tabSorted t && t.all (fun e => e.2 ≠ d)

end Sys2Proof.Machine
end

