-- ==== Sys2Proof/Machine/State.lean ====
section
/-! DEFINITION. The state of the package, plain data throughout. Fields that are the model's own and
not the spec's say so and name the log entry. -/

namespace Sys2Proof.Machine

/-! ### Places and registers -/

/-- Where a byte lives: a fabric physical address (01 R25) or an offset of a team's scratchpad
(06 R193), the team named by the model's team number. -/
inductive Loc
  | mem (pa : Nat)
  | spad (team off : Nat)
  deriving DecidableEq, Repr

/-- A register with its full/empty bit and poison mark (02 R54, 06 R216). -/
structure RegCell where
  val : Word := 0
  full : Bool := true
  poison : Bool := false
  deriving DecidableEq, Repr

/-- The operand buffer of a thread (02 R58); `width` in bits. -/
structure OpBuf where
  valid : Bool := false
  width : Nat := 0
  val : Val := 0
  deriving DecidableEq, Repr

/-! ### Threads -/

/-- Why a thread waits. `retry`: the instruction at its PC is offered again (log entry 6). `join`: at a
join header (03 R92). `collective`: joined an open lane collective (04 R135). `arrived`: has arrived
in rvsync or gbsync and waits for the phase (08 R284). `posted`: the memory or directory side of its
instruction is under way. `lender`: an access waits for the lender (06 R211). -/
inductive WaitKind
  | retry | join | collective | arrived (gang : Bool) (n : Nat) | posted | lender
  deriving DecidableEq, Repr

/-- The five states of 03 R87. -/
inductive Mode
  | ready
  | waiting (k : WaitKind)
  | parked
  | paused
  | exited
  deriving DecidableEq, Repr

/-- Position of a thread in the code (03 R87). `len` is LEN of the header at BH and `entry` says that
the thread stands at a header it has yet to execute: both are the model's own (log entry 8). -/
structure Ctl where
  pc : DWord := 0
  bh : DWord := 0
  depth : BitVec 16 := 0
  len : Nat := 0
  entry : Bool := true
  deriving DecidableEq, Repr

/-- An access on its way to a lender (06 R211): the word that made it, its address and translation, whether
it writes, and the fabric time at which it was made. -/
structure LendWait where
  pc : DWord
  va : Nat
  pa : Nat
  leaf : Nat
  level : Nat
  wr : Bool
  since : Nat
  /-- an instruction fetch (06 R215) -/
  fetch : Bool := false
  /-- the fetch of a transfer's target (03 R102) -/
  target : Bool := false
  /-- the fill of a line of a mapped scratchpad (06 R212, SCR) -/
  scr : Bool := false
  deriving DecidableEq, Repr

/-- The first offer of a word at which a thread waits: its PC, a number that orders it among the commands
posted, and the accumulator words [lo, hi) that it reads or writes (09 R310, R325; 06 R198; 12 R393). -/
structure Mark where
  pc : DWord
  id : Nat
  acc : Option (Nat × Nat × Bool) := none
  /-- the tile-handle index that it waits for (07 R224) -/
  tile : Option Nat := none
  deriving DecidableEq, Repr

/-- A waitv at which a thread waits, and the last value it read (08 R277, R278). -/
structure Watch where
  instr : Instr
  last : Nat
  deriving DecidableEq, Repr

/-- A thread's part of the trap frame (12 R381). -/
structure Frame where
  ctl : Ctl := {}
  mode : Mode := .ready
  preds : BitVec 7 := 0
  ob : OpBuf := {}
  wake : Nat := 0
  conv : Nat := 0
  lend : Option LendWait := none
  mark : Option Mark := none
  hollow : List Nat := []
  ceded : List (Nat × Nat) := []
  watch : Option Watch := none
  noSpec : Option DWord := none
  deriving DecidableEq, Repr

/-- A store record of the Garret: bytes of one 32-byte sector (08 R291). -/
structure SpecStore where
  bytes : List (Loc × Byte)
  rel : Bool
  /-- on a page of the synchronisation class (08 R282) -/
  sync : Bool := false
  /-- bytes that a higher lane of the same issue stores too, each with that lane (06 R181) -/
  ceded : List (Nat × Loc) := []
  deriving DecidableEq, Repr

/-- What a speculating thread has read of a tile slot (slot, offset, bytes, value, none where it was poisoned) or of a tile
handle (its value, a dimension, the extent): no bytes of memory, and so in no read set (06 R190, 07 R248). -/
inductive Glance
  | slot (k off n : Nat) (val : Option Nat)
  | ext (h dim val : Nat)
  deriving DecidableEq, Repr

/-- A thread's speculation (08 R290 to R292): the checkpoint, undo records by register, store records
in program order, the point it waits on, and whether a conflicting store was seen (R293). -/
structure Spec where
  ctl : Ctl := {}
  preds : BitVec 7 := 0
  ob : OpBuf := {}
  fpCtl : Word := 0
  fpFlags : Word := 0
  rsCount : Word := 0
  joins : List (DWord × BitVec 16) := []
  undo : Tab RegCell := []
  stores : List SpecStore := []
  point : Nat := 0
  conflict : Bool := false
  /-- it would trap or park where it stands: it waits for the commit or the rollback (06 R190) -/
  held : Bool := false
  /-- PC and address of its first poisoned load, which counts from the commit on (06 R216, 08 R297) -/
  poison : Option (DWord × DWord) := none
  /-- what must read the same at the commit (08 R297; log entry 80) -/
  seen : List Glance := []
  deriving DecidableEq, Repr

/-- One thread (03 R87, 02 R48 to R60, 05 R149 to R151, 08 R284, R290). -/
structure Thread where
  ctl : Ctl := {}
  mode : Mode := .exited
  preds : BitVec 7 := 0
  ob : OpBuf := {}
  regs : Tab RegCell := []
  fpCtl : Word := 0
  fpFlags : Word := 0
  rsCount : Word := 0
  rvPend : BitVec 24 := 0
  rvDone : BitVec 24 := 0
  gbPend : BitVec 8 := 0
  gbDone : BitVec 8 := 0
  /-- the phase of its arrival has completed and the completion is on its way (08 R289) -/
  gbDue : BitVec 8 := 0
  spec : Option Spec := none
  /-- the rvwait.spec to which it was rolled back, and which it executes as rvwait (08 R295) -/
  noSpec : Option DWord := none
  frame : Option Frame := none
  /-- the core cycle at which a pause ends (03 R112); the model's own, log entry 8 -/
  wake : Nat := 0
  /-- the tick of the last issue (03 R88); the model's own, log entry 8 -/
  stamp : Nat := 0
  /-- a converted fault: 1 protection 0x0A, 2 poison, raised on replay (06 R213) -/
  conv : Nat := 0
  /-- the waitv at which it waits (08 R277, R278) -/
  watch : Option Watch := none
  /-- the access that waits for its lender (06 R211) -/
  lend : Option LendWait := none
  /-- the wait that it is in, where its order among commands counts; the model's own, log entry 6 -/
  mark : Option Mark := none
  /-- LIVE of the safe-point header at which it has stopped (02 R68, R71) -/
  stop : Option Nat := none
  /-- registers that parking at its instruction has left empty: its replay finds the operands as they were
  (02 R57, 03 R96) -/
  hollow : List Nat := []
  /-- addresses of bytes of its store that a higher lane of the same issue writes, each with that lane (06 R181) -/
  ceded : List (Nat × Nat) := []
  deriving DecidableEq, Repr

/-! ### Weaves -/

/-- An entry of the join table (03 R90): members, and those of them that wait at the target. -/
structure JoinEnt where
  target : DWord
  depth : BitVec 16
  members : Mask
  arrived : Mask
  deriving DecidableEq, Repr

/-- A record of a fault queue (06 Table 12, 10 Table 7), with its poster. -/
structure FaultRec where
  idx : Nat
  w0 : DWord
  w1 : DWord
  w2 : DWord
  w3 : DWord
  shown : Bool := false
  deriving DecidableEq, Repr

/-- A parked sub-group (03 R94). `record` is the index of its fault record, `page` and `cause` what a
later fault must match to join it, `action` what firmware answered (06 R213), none while open. -/
structure Parked where
  lanes : Mask
  pc : DWord
  page : Nat
  cause : Nat
  record : Nat
  action : Option Nat := none
  /-- the record that firmware has answered: a restore posts it again (03 R99) -/
  posted : Option FaultRec := none
  deriving DecidableEq, Repr

/-- An open lane collective (04 R134): its word address, mask, the instruction and those who joined.
A contributor's sources stand in its registers until the completion: they were full at its arrival. -/
structure Coll where
  pc : DWord
  mask : Mask
  instr : Instr
  joined : Mask := 0
  deriving DecidableEq, Repr

/-- One byte of a store: where, what, and the lane that wrote it. -/
structure StoreByte where
  loc : Loc
  val : Byte
  lane : Nat
  deriving DecidableEq, Repr

/-- An entry of a store queue: the bytes of one instruction within one line (06 R187). `rel`: a
release (08 R261). `dev`: an access to a device-class page, its width in bytes (08 R267).
`held`: it waits at its home for holds (07 R251). -/
structure StoreEnt where
  slot : Nat
  bytes : List StoreByte
  rel : Bool := false
  dev : Option Nat := none
  held : Bool := false
  /-- bytes of a synchronisation-class page (08 R282) -/
  sync : Bool := false
  /-- the team whose store it is, none for the firmware agent -/
  team : Option Nat := none
  /-- the step at which it issued or committed; the model's own, log entry 5 -/
  born : Nat := 0
  deriving DecidableEq, Repr

/-- One lane of an atomic instruction: the place, the operand, the comparand or new value, and the
destination register with its count (08 R274). -/
structure AtomLane where
  lane : Nat
  loc : Loc
  va : Nat
  /-- on a page of the synchronisation class -/
  sync : Bool
  x : Val
  y : Val
  deriving DecidableEq, Repr

/-- An atomic instruction that has issued and is not yet performed (08 R273 to R276). -/
structure Atom where
  slot : Nat
  pc : DWord
  instr : Instr
  lanes : List AtomLane
  /-- the team, none for the firmware agent, and the step at which it issued; the latter the model's own, log
  entry 5 -/
  team : Option Nat := none
  born : Nat := 0
  deriving DecidableEq, Repr

/-- The weave's part of the trap frame (12 R381). -/
structure WeaveFrame where
  joins : List JoinEnt
  parked : List Parked
  deriving DecidableEq, Repr

/-- A weave (03 R90, R94; 04 R134; 06 R187; 08 R292; 12 Table 4). -/
structure Weave where
  /-- the model's number of its team; none for the firmware agent -/
  team : Option Nat := none
  /-- index w within the team (04 R132) -/
  index : Nat := 0
  threads : Tab Thread := []
  joins : List JoinEnt := []
  parked : List Parked := []
  colls : List Coll := []
  storeq : List StoreEnt := []
  /-- stores of committed speculation that wait for free entries of the queue (06 R187, 08 R294) -/
  commitq : List StoreEnt := []
  /-- read-set entries: a sector and the lanes that read it (08 R292) -/
  reads : List (Loc × Mask) := []
  trCause : DWord := 0
  trPc : DWord := 0
  trAmask : Mask := 0
  trFmask : Mask := 0
  trH : Bool := false
  trM : Bool := false
  trSkip : Bool := false
  /-- fabric time since which M has stayed 1 (12 R385) -/
  trSince : Nat := 0
  rfTrap : DWord := 0
  trPpc : DWord := 0
  trPva : DWord := 0
  frame : Option WeaveFrame := none
  deriving DecidableEq, Repr

/-! ### Teams -/

/-- A kernel descriptor (12 Table 10). -/
structure Kdesc where
  image : Nat := 0
  codeLen : Nat := 0
  imgLen : Nat := 0
  regs : Nat := 16
  weaves : Nat := 1
  teams : Nat := 1
  idem : Bool := false
  rv : Nat := 0
  cv : Nat := 0
  cc : Nat := 0
  gb : Nat := 0
  slots : Nat := 0
  bc : Nat := 0
  bs : Nat := 0
  bo : Nat := 0
  bg : Nat := 0
  spec : Nat := 0
  syncent : Nat := 0
  fpctl : Word := 0
  deriving DecidableEq, Repr

/-- A rendezvous point or gang barrier (08 R284). -/
structure Point where
  armed : Bool := false
  exp : Nat := 0
  arr : Nat := 0
  ph : Nat := 0
  deriving DecidableEq, Repr

/-- A convergence register (09 R306, Table 4). -/
structure Conv where
  armed : Bool := false
  exp : Nat := 0
  sgn : Nat := 0
  ph : Nat := 0
  err : Nat := 0
  done : Nat := 0
  nan : Bool := false
  ovf : Bool := false
  isat : Bool := false
  nx : Bool := false
  deriving DecidableEq, Repr

/-- A command's charge on a counter: bytes not yet discharged, and bytes discharged that wait for an
earlier command (10 R346). -/
structure Charge where
  cmd : Nat
  left : Nat
  held : Nat
  deriving DecidableEq, Repr

/-- A completion counter (10 R346), its charges in posting order. -/
structure Counter where
  count : Nat := 0
  err : Nat := 0
  charges : List Charge := []
  deriving DecidableEq, Repr

/-- A tile descriptor (07 Table 1): extents and strides from dimension 0. -/
structure TileDesc where
  base : Nat := 0
  esz : Nat := 0
  ext : List Nat := []
  stride : List Nat := []
  deriving DecidableEq, Repr

/-- A piece: the index range [lo, hi) of each dimension (07 R222). -/
abbrev Piece := List (Nat × Nat)

/-- A tile handle (07 R222); `mode` 0 none, 1 read, 2 write. -/
structure Handle where
  opened : Bool := false
  gen : Nat := 0
  desc : TileDesc := {}
  mode : Nat := 0
  pieces : List Piece := []
  lost : Bool := false
  deriving DecidableEq, Repr

/-- The four states of a tile slot (06 R197). -/
inductive SlotState
  | empty | filling | ready | draining
  deriving DecidableEq, Repr

/-- A tile slot (06 R197, 07 R235): base and length within the team's operand-buffer banks, and the
handle it is bound to with the generation at binding. -/
structure TileSlot where
  st : SlotState := .empty
  base : Option Nat := none
  len : Nat := 0
  bound : Option (Nat × Nat) := none
  deriving DecidableEq, Repr

/-- A run of bytes of a mapped range: its physical start, its offset in the entry, its length. -/
structure Seg where
  pa : Nat
  off : Nat
  len : Nat
  /-- the leaf that translated it, and its level (06 Table 12) -/
  leaf : Nat := 0
  level : Nat := 0
  deriving DecidableEq, Repr

/-- A scratchpad mapping entry (06 R193, R194): `zero` under spmapz, lines filled and lines dirty by
line number within the entry. -/
structure MapEnt where
  va : Nat
  off : Nat
  len : Nat
  zero : Bool
  segs : List Seg
  filled : List Nat := []
  dirty : List Nat := []
  /-- lines written since the entry was made: a restored entry fills these from memory -/
  written : List Nat := []
  deriving DecidableEq, Repr

/-- A matrix command (09 R307 to R327). `op` is the posting instruction. -/
structure MatCmd where
  id : Nat
  instr : Instr
  pc : DWord
  cv : Nat
  ph : Nat
  acc : Nat := 0
  rows : Nat := 0
  stride : Nat := 0
  q : Nat := 0
  addr : Nat := 0
  slot : Nat := 0
  cc : Option Nat := none
  released : Bool := false
  started : Bool := false
  /-- its number on the scoreboard (10 R344) and its slot's base, both taken at the start -/
  entered : Nat := 0
  base : Nat := 0
  /-- rows done, a multiple of 32 but at the end -/
  done : Nat := 0
  /-- the bytes that it has still to discharge on its counter (09 R327) -/
  left : Nat := 0
  /-- an open fault record (09 R314) -/
  fault : Bool := false
  /-- the action firmware chose for its fault record (09 R314) -/
  action : Option Nat := none
  /-- since when its read waits for a lender (06 R211) -/
  asked : Option Nat := none
  deriving DecidableEq, Repr

/-- Pre-emption of a team (12 R407, R412 to R414). `action` 1 drain, 2 save, 3 flush and relaunch, 4 flush
of a cancelled team; 0 not chosen yet. -/
structure Preempt where
  requested : Bool := false
  urgent : Bool := false
  expired : Bool := false
  yielded : Bool := false
  /-- ns of the slice left when its charge was last settled, and the length of the slice in ns (0: not
  slicing) -/
  left : Nat := 0
  slice : Nat := 0
  /-- fabric time since which the slice is charged, none where it is not -/
  charged : Option Nat := none
  /-- fabric time of the expiry or of the request, and the start of a drain -/
  since : Nat := 0
  action : Nat := 0
  /-- its threads issue nothing more until it has been saved -/
  stopping : Bool := false
  /-- fabric time at which a thread of it last stopped at an SP header (12 R413) -/
  header : Option Nat := none
  /-- the end of its slice has been taken in (12 R413) -/
  ended : Bool := false
  deriving DecidableEq, Repr

/-- A team (01 R29). -/
structure Team where
  id : Nat := 0
  kd : Kdesc := {}
  ctx : Nat := 0
  /-- the model's numbers of its launch and gang -/
  launch : Nat := 0
  gang : Nat := 0
  /-- team index within the gang -/
  index : Nat := 0
  gtkt : Word := 0
  /-- local address of its ticket (12 R393) -/
  ticket : Nat := 0
  handler : DWord := 0
  rswin : Nat := 0
  /-- slots of its weaves that have not been freed -/
  slots : List Nat := []
  /-- physical tile slots of ts0 on (06 R197) -/
  phys : List Nat := []
  /-- bank numbers in the scratchpad, operand-buffer and Garret role (06 R192) -/
  spadBanks : List Nat := []
  bufBanks : List Nat := []
  garBanks : List Nat := []
  /-- issuing allowed: the start barrier has released it (12 R410) -/
  started : Bool := true
  points : Tab Point := []
  convs : Tab Conv := []
  matq : List MatCmd := []
  counters : Tab Counter := []
  cpErr : Nat := 0
  prog : Nat := 0
  handles : Tab Handle := []
  tslots : Tab TileSlot := []
  maps : Tab MapEnt := []
  spad : Tab Byte := []
  spadPoison : List Nat := []
  opbuf : Tab Byte := []
  opPoison : List Nat := []
  pre : Preempt := {}
  /-- weaves whose threads have all exited and that have been freed (03 R109) -/
  freed : Nat := 0
  deriving DecidableEq, Repr

/-! ### Cores -/

/-- A core TLB entry (06 R205): the leaf, its level, where it stands in memory. -/
structure TlbEnt where
  ctx : Nat
  va : Nat
  level : Nat
  leaf : DWord
  pte : Nat
  draining : Bool := false
  /-- number of the agent and scope of the tlbi that marked it (06 R207) -/
  mark : List (Nat × Bool) := []
  deriving DecidableEq, Repr

/-- A deferred result under way (02 R55): `val` none for poisoned data. -/
structure Deferred where
  slot : Nat
  lane : Nat
  reg : Nat
  cnt : Nat
  val : Option Nat
  pc : DWord
  va : DWord
  /-- its thread speculated at the issue -/
  spec : Bool := false
  deriving DecidableEq, Repr

/-- Signatures of one msign that follow the thread's earlier accesses (09 R306): register `cv`, one for each lane,
after the accesses of step `born` and before. -/
structure Sign where
  team : Nat
  slot : Nat
  cv : Nat
  lanes : Nat
  born : Nat
  deriving DecidableEq, Repr

/-- The commands of the copy engine (10 Table 1, 13 R427). -/
inductive EngKind
  | cpy | fill | cpts | cpfs | cpald | cpast | gcp | gcpts | expf | exwb | exmig
  deriving DecidableEq, Repr

/-- A gather descriptor as read (10 Table 3). -/
structure Gather where
  base : Nat
  idxa : Nat
  rowb : Nat
  stride : Nat
  isz : Nat
  count : Nat
  deriving DecidableEq, Repr

/-- A parked unit and its fault record; `action` once firmware has answered (10 R350). -/
structure UnitPark where
  unit : Nat
  record : Nat
  action : Option Nat := none
  deriving DecidableEq, Repr

/-- A copy-engine command (10 R332 to R352). `entry` is its command entry 0 to 63. -/
structure EngCmd where
  id : Nat
  entry : Nat
  kind : EngKind
  /-- the team, none for the firmware agent -/
  team : Option Nat
  ctx : Nat
  pc : DWord
  cc : Option Nat := none
  len : Nat := 0
  src : Nat := 0
  dst : Nat := 0
  pat : Word := 0
  acc : Nat := 0
  slot : Option Nat := none
  /-- the slot's base and length as at posting (10 R337) -/
  sbase : Nat := 0
  slen : Nat := 0
  rls : Bool := false
  gather : Option Gather := none
  tile : Option TileDesc := none
  started : Bool := false
  /-- units started so far, and units performed -/
  next : Nat := 0
  performed : Nat := 0
  parked : List UnitPark := []
  /-- units with an access on its way to a lender, each with the fabric time at which it went out (06 R211) -/
  asked : Tab Nat := []
  deriving DecidableEq, Repr

/-- A unit buffer (10 R342): the bytes read, each with its poison. -/
structure UnitBuf where
  cmd : Nat
  unit : Nat
  data : List (Byte × Bool)
  deriving DecidableEq, Repr

/-- A plane of a matrix array (09 R300): `fmt` none or the operand type and BS; elements and scales as
codes. -/
structure Plane where
  fmt : Option (BitVec 3 × Bool) := none
  elems : Tab Nat := []
  scales : Tab Nat := []
  deriving DecidableEq, Repr

/-- A matrix array: two planes and which is active (09 R300). -/
structure MatArray where
  plane0 : Plane := {}
  plane1 : Plane := {}
  active : Bool := false
  deriving DecidableEq, Repr

/-- A pending tlbi mark is in the entries; a core (01 R15). -/
structure Core where
  weaves : Tab Weave := []
  teams : Tab Team := []
  tlb : List TlbEnt := []
  /-- stores past step 2 of 08 R257, oldest first -/
  pending : List StoreEnt := []
  atoms : List Atom := []
  deferred : List Deferred := []
  bankrole : DWord := 0
  cmds : List EngCmd := []
  bufs : List UnitBuf := []
  /-- signatures not yet in effect, oldest first -/
  signs : List Sign := []
  array0 : MatArray := {}
  array1 : MatArray := {}
  acc : Tab Word := []
  /-- regions tagged INT32 (09 R302) -/
  accInt : Tab Bool := []
  flt : List FaultRec := []
  eflt : List FaultRec := []
  fwTrap : DWord := 0
  /-- pending events of fwidle, bit 0 first (12 R395) -/
  fwEvents : BitVec 6 := 0
  fwCounters : Tab Counter := []
  /-- cp.err of the firmware agent (10 Table 6) -/
  fwCpErr : Nat := 0
  /-- tickets the firmware agent holds claimed (12 R386) -/
  fwTickets : List Nat := []
  /-- HGEN recorded at retention sleep (07 R252) -/
  sleep : Option Nat := none
  /-- the last slot served, and the slots that have still to issue in this cycle (03 R88) -/
  lastSlot : Nat := 0
  due : List Nat := []
  deriving DecidableEq, Repr

/-- The firmware agent's weave right after reset: lane 0 ready at address 0, the other lanes exited
(log entry 9). DESIGN CHOICE (log entry 64): it is a weave of no team; the index that lid reads there is 0. -/
def Weave.agent : Weave :=
  { threads := [(0, { mode := .ready })] }

def Core.init : Core := { weaves := [(Config.agentSlot, Weave.agent)] }

/-! ### Refinement controllers -/

/-- Where a run of a refinement controller stands: the item it does next (11 R378; log entry 17). `corr`
tells a correction (step 6) from the first solve (step 2). -/
inductive RefPos
  | checkA (i : Nat)
  | checkB (c : Nat)
  | loadX (c : Nat)
  | form (i : Nat)
  | mirror (i : Nat)
  | pivot (j : Nat)
  | swap (j q part : Nat)
  | lrow (j i : Nat)
  | chol (j : Nat)
  | ccol (j k : Nat)
  | urow (p k : Nat)
  | scan (p : Nat)
  | store (p i : Nat)
  | storeRow (p k : Nat)
  | trail (p i : Nat)
  | fwd (corr : Bool) (c : Nat)
  | bwd (corr : Bool) (c : Nat)
  | add (corr : Bool) (c : Nat)
  | resid (c : Nat)
  | judge
  | ended
  deriving DecidableEq, Repr

/-- A block of a refinement controller (11 R358 to R378). `kind` 0 refine, 1 rfres, 2 rfchk. Values are
codes: FP32 in T, the factor and y, FP64 in x and r. Element (i, k) of a matrix has key i × N + k, and
row i of column c of a vector c × N + i. -/
structure RefBlock where
  id : Nat
  kind : Nat
  core : Nat
  slot : Nat
  lane : Nat
  team : Nat
  ctx : Nat
  addr : Nat
  pc : DWord
  words : List Nat
  desc : TileDesc := {}
  /-- the number of the check that failed (rfchk), 0 for none -/
  bad : Nat := 0
  cc : Option Nat := none
  /-- it runs now; it has run -/
  started : Bool := false
  begun : Bool := false
  cancel : Bool := false
  pos : RefPos := .checkA 0
  rung : Nat := 0
  t : Nat := 0
  iter : Nat := 0
  esc : Nat := 0
  tmat : Tab Nat := []
  fac : Tab Nat := []
  piv : Tab Nat := []
  y : Tab Nat := []
  x : Tab Nat := []
  r : Tab Nat := []
  /-- η and iterate of the best so far -/
  best : Option (Nat × Tab Nat) := none
  /-- the η of this rung's iterates, newest first -/
  etas : List Nat := []
  /-- η of the columns of the residual measured so far, and whether all of them pass -/
  eta : Nat := 0
  pass : Bool := true
  eta0 : Option Nat := none
  nb : Nat := 0
  /-- A or B holds a value that is not finite -/
  wild : Bool := false
  leave : List Nat := [0, 0, 0, 0]
  riter : List Nat := [0, 0, 0, 0]
  /-- the code with which the run ended, and the iterate that End names with its η -/
  code : Option Nat := none
  result : Option (Nat × Tab Nat) := none
  havex : Bool := false
  deliv : Bool := false
  /-- the end write under way: 0 X, 1 W, 2 the status record -/
  stage : Nat := 0
  /-- an open fault record, and the action firmware chose -/
  fault : Bool := false
  action : Option Nat := none
  /-- when the access that waits for a lender first went out (06 R211) -/
  asked : Option Nat := none
  /-- what the accesses of the item under way have read so far: an access that is replayed is replayed alone (11 R376) -/
  got : List (List Byte) := []
  deriving DecidableEq, Repr

/-- An arithmetic trap of a block waiting to be delivered (11 R371). -/
structure RefTrap where
  core : Nat
  slot : Nat
  team : Nat
  lane : Nat
  addr : DWord
  deriving DecidableEq, Repr

/-! ### The I/O die -/

/-- A priority inherited under waitv.lk, and the lock word with the value on which it rests (08 R278). -/
structure Inherit where
  cls : Nat
  loc : Loc
  bytes : Nat
  val : Nat
  deriving DecidableEq, Repr

/-- A page-table context (06 R201, 12 Table 4). -/
structure Context where
  ptroot : DWord := 0
  slDebt : Nat := 0
  /-- length in ns of its next slice, where a debt has been worked out (12 R413) -/
  slNext : Option Nat := none
  /-- the priorities that it has inherited under waitv.lk (08 R278) -/
  inherit : List Inherit := []
  deriving DecidableEq, Repr

/-- A page of a footprint: virtual and physical start, and log2 of its size. -/
structure TilePage where
  va : Nat
  pa : Nat
  bits : Nat
  deriving DecidableEq, Repr

/-- A tile-directory record (07 R238), oldest first in its list. -/
structure DirRec where
  slice : Nat
  team : Nat
  handle : Nat
  page : TilePage
  deriving DecidableEq, Repr

/-- A tenure request at the directories (07 R231, R244): pages still to grant. -/
structure DirReq where
  core : Nat
  slot : Nat
  pc : DWord
  team : Nat
  handle : Nat
  write : Bool
  pages : List TilePage
  /-- some page has granted: MODE and the pieces stand -/
  begun : Bool := false
  /-- its footprint has still to be translated: a restored handle's (07 R247) -/
  untranslated : Bool := false
  deriving DecidableEq, Repr

/-- A copy of a line under a hold (07 R250): the line, who keeps it (a core by its number, the slices of die d
as 1024 + d), the 40-bit expiry. -/
structure Hold where
  line : Nat
  core : Nat
  expiry : Nat
  deriving DecidableEq, Repr

/-- A half-line kept by a synchronisation engine (08 R281, R282). -/
structure SyncEnt where
  half : Nat
  sharers : List Nat := []
  /-- a ninth core asked: no copies are granted -/
  full : Bool := false
  /-- the team for which it was taken; the model's own, log entry 35 -/
  team : Option Nat := none
  overflow : Bool := false
  deriving DecidableEq, Repr

/-- A die (01 R15). -/
structure Die where
  hgen : Nat := 0
  /-- bit 39 of fabric time when HGEN last changed -/
  hbit : Bool := false
  /-- bank groups whose refresh window has been opened and not yet closed (06 R200) -/
  refresh : List Nat := []
  syncs : List SyncEnt := []
  dieTlb : List TlbEnt := []
  blocks : List RefBlock := []
  traps : List RefTrap := []
  deriving DecidableEq, Repr

/-- An entry of the lease table (13 Table 1). `st` 0 FREE, 1 PENDING, 2 ACTIVE, 3 ENDING or RECALLING;
`since` the fabric time of the request; `byTerm`: TERM started the recall; `why`: how ENDING began. -/
structure Lease where
  term : Nat := 0
  st : Nat := 0
  gen : Nat := 0
  peer : Nat := 0
  ext : Nat := 0
  pent : Nat := 0
  cause : Nat := 0
  since : Nat := 0
  byTerm : Bool := false
  why : Nat := 0
  /-- a borrower entry in ENDING has written its lines back and sent its release -/
  released : Bool := false
  /-- when the lease of a borrower entry was granted -/
  granted : Nat := 0
  /-- the TERM of a request or renewal that the lender has still to answer -/
  ask : Option Nat := none
  /-- the answer to it: a status code of 13 Table 5 -/
  answer : Option Nat := none
  deriving DecidableEq, Repr

/-- What this package knows of a peer: fabric time of the last keepalive from it and of the last one sent
to it (13 R420), and its extents whose lease to this package has ended (06 R211). -/
structure Peer where
  heard : Nat := 0
  sent : Nat := 0
  revoked : List Nat := []
  deriving DecidableEq, Repr

/-- A line recorded in the snoop filter of the lender side (13 R421) or of the host side (13 R431). -/
structure Snoop where
  line : Nat
  /-- package number of a borrower, or 1024 + port of a host -/
  holder : Nat
  modified : Bool
  /-- a back-invalidate snoop has gone out, and when the first did -/
  pending : Bool := false
  asked : Nat := 0
  deriving DecidableEq, Repr

/-- A lease-cache line with the bytes written and not yet written back (13 R422). -/
structure CacheLine where
  line : Nat
  /-- its place in the region, in lines from LCBASE on -/
  slot : Nat := 0
  dirty : Tab Byte := []
  deriving DecidableEq, Repr

/-- A queue (12 Table 13): the descriptor's words and whether it is active. -/
structure Queue where
  words : List DWord := [0, 0, 0, 0, 0, 0, 0, 0]
  active : Bool := false
  /-- stopped by a context kill (12 R385) -/
  stopped : Bool := false
  /-- its thread waits in the middle of the intake of a packet; the read that waits for a lender, and since
  when (12 R399, 06 R211) -/
  stuck : Bool := false
  asked : Option (Nat × Nat) := none
  deriving DecidableEq, Repr

/-- A preload entry (12 R400). -/
structure Preload where
  reg : Nat
  wide : Bool
  perThread : Bool
  val : DWord
  deriving DecidableEq, Repr

/-- A launch packet taken in (12 R399). -/
structure Launch where
  id : Nat
  queue : Nat
  ring : Nat
  ctx : Nat
  words : List DWord
  kd : Kdesc
  preload : List Preload
  bufs : List (Nat × Nat × Nat)
  /-- gangs dispatched and gangs completed -/
  placed : Nat := 0
  done : Nat := 0
  /-- its first team has started (12 Table 12A) -/
  opened : Bool := false
  /-- its queue has been destroyed (12 R407) -/
  cancel : Bool := false
  ended : Bool := false
  deriving DecidableEq, Repr

/-- A team of a gang (12 R410): its core, its ticket and the model's number of the team. -/
structure GangTeam where
  core : Nat
  ticket : Nat
  team : Nat
  /-- its core in the window that the gang was given (12 R408) -/
  home : Nat := 0
  /-- its resources are reserved on that core -/
  reserved : Bool := true
  /-- it has completed, and tkdone has reported so (12 R393) -/
  completed : Bool := false
  reported : Bool := false
  /-- tmkill has discarded it -/
  killed : Bool := false
  /-- the save area reserved for it -/
  save : Nat := 0
  /-- the read of its preload that waits for a lender: the address, and since when (12 R400, 06 R211) -/
  asked : Option (Nat × Nat) := none
  deriving DecidableEq, Repr

/-- A gang that has been dispatched (01 R30, 12 R410). -/
structure Gang where
  id : Nat
  launch : Nat
  index : Nat
  gtkt : Word
  part : Nat
  teams : List GangTeam
  bars : Tab Point := []
  /-- teams that have arrived at the start barrier -/
  arrived : List Nat := []
  started : Bool := false
  deriving DecidableEq, Repr

/-- A saved team (12 R393, R394): what its save area's records hold in the device's own format. -/
structure SavedTeam where
  team : Team
  weaves : Tab Weave
  cmds : List EngCmd := []
  blocks : List RefBlock := []
  traps : List RefTrap := []
  /-- open fault records of its sub-groups, and of its units, arrays and block -/
  flt : List FaultRec := []
  eflt : List FaultRec := []
  planes : Option (MatArray × MatArray) := none
  accInt : Tab Bool := []
  area : Nat
  /-- threads whose registers the save did not write from some index on, by 32 × w + lane (02 R68) -/
  live : Tab Nat := []
  /-- the accumulator store of a matrix owner -/
  acc : Tab Word := []
  /-- the number that draws the records in the device's own format (log entry 18) -/
  drawn : Nat := 0
  /-- the bytes of the whole area as the save left them: what the check value is over (12 R394) -/
  image : List Byte := []
  deriving DecidableEq, Repr

/-- The scheduler of the queue processor (12 R405 to R412). -/
structure Sched where
  /-- the head: launch and gang index, and since when it is blocked -/
  head : Option (Nat × Nat) := none
  blockedSince : Option Nat := none
  age : Nat := 0
  /-- the queue last served in each class, and the packet that is being served there -/
  last : Tab Nat := []
  serving : Tab Nat := []
  /-- cores kept for a blocked deadline head -/
  held : List Nat := []
  /-- journal entries: a kind and two arguments, newest last -/
  journal : List (Nat × Nat × Nat) := []
  /-- per thread: fabric time of its last entry or heartbeat, and whether it is the standby -/
  heart : Tab Nat := []
  standby : Nat := 63
  /-- queues adopted by the standby -/
  adopted : List Nat := []
  deriving DecidableEq, Repr

/-- The fabric manager's role as this package sees it (13 R429). -/
structure FabricMgr where
  priority : Nat := 0
  manager : Option Nat := none
  expiry : Nat := 0
  epoch : Nat := 0
  acked : Nat := 0
  renewed : Nat := 0
  deriving DecidableEq, Repr

/-- A Garef port (13 R430). -/
structure Garef where
  window : List Nat := [0, 0, 0, 0]
  paused : List Bool := [false, false, false, false]
  expect : Nat := 0
  resend : Nat := 0
  /-- flits refused from this sequence number on -/
  refused : Bool := false
  training : Bool := false
  down : Option Nat := none
  reported : Bool := false
  deriving DecidableEq, Repr

/-- An Ethernet port (13 R432): ring base, bytes, record limit, write offset, and the records in the ring,
oldest first, by offset and length. -/
structure Ether where
  base : Nat := 0
  size : Nat := 0
  limit : Nat := 16383
  pos : Nat := 0
  seq : Nat := 0
  drops : Nat := 0
  recs : List (Nat × Nat) := []
  /-- times at which PTP event messages came in, newest first -/
  ptp : List Nat := []
  deriving DecidableEq, Repr

/-- A house core as far as twl.v uses it (13 R433; log entry 16). -/
structure House where
  pc : DWord := 0
  x : Tab DWord := []
  /-- bytes of v0 to v31, vector register n from byte n times VLEN ÷ 8 -/
  v : Tab Byte := []
  vl : Nat := 0
  vstart : Nat := 0
  sew : Nat := 8
  /-- registers of a group -/
  lmul : Nat := 1
  mtvec : DWord := 0
  mepc : DWord := 0
  mcause : DWord := 0
  mtval : DWord := 0
  /-- it waits for a slot to become ready -/
  waiting : Bool := false
  deriving DecidableEq, Repr

/-- A frame that waits to be written into a receive ring (13 R432): its port, its bytes and the time of its start. -/
structure EthFrame where
  port : Nat
  bytes : List Byte
  stamp : DWord
  deriving DecidableEq, Repr

/-- Evidence of identity that an SPDM answer carries (00 R1, 13 R436). -/
structure SpdmIdentity where
  arch : Nat
  stepping : Nat
  deriving DecidableEq, Repr

/-- A coming move of the schedule (log entry 3): an issue offered to the group of a lane, a step of a
house core, an event, or an error that ECC cannot correct in a sector of memory or of a scratchpad, or of a
team's operand buffer (01 R22). -/
inductive Move
  | issue (core slot lane : Nat)
  | house (n : Nat)
  | event (i : Instr)
  | ecc (l : Loc)
  | eccBuffer (team offset : Nat)
  deriving DecidableEq, Repr

/-- The issue group an instruction constructor acts for (log entry 3). -/
structure Cursor where
  core : Nat := 0
  slot : Nat := Config.agentSlot
  lanes : Mask := 1
  house : Nat := 0
  deriving DecidableEq, Repr

/-- An event from outside that has to wait, to be offered again: QUEUE_NOTIFY, QUEUE_DESTROY and REGISTER_WRITE, for holds (07
R251), and LEASE_REVOKE_RECEIVED, for bytes in flight (07 R235). -/
inductive Kept
  | revoke (entry : Nat)
  | notify (queue : Nat)
  | destroy (queue : Nat)
  | register (addr : Nat) (value : DWord)
  deriving DecidableEq, Repr

/-- The package. -/
structure State where
  mem : List Host.Cell := []
  /-- poisoned 32-byte sectors of memory, by sector number -/
  poison : List Nat := []
  cores : Tab Core := []
  dies : Tab Die := []
  pkg : Nat := 0
  enumerated : Bool := false
  time : Nat := 0
  /-- compute-core cycles since reset, one clock for every core (12 R391) -/
  cycles : Nat := 0
  tick : Nat := 0
  free : Nat := 0
  agenda : List Move := []
  cur : Cursor := {}
  lastCore : Nat := 0
  contexts : Tab Context := []
  /-- owner tags of 512 KiB frames by frame number (13 R434) -/
  tags : Tab Word := []
  holds : List Hold := []
  /-- lines at which a write waits for holds, each with the fabric time by which none can stand any more (07
  R251) -/
  writeWaits : List (Nat × Nat) := []
  dirs : List DirRec := []
  dirReqs : List DirReq := []
  lenders : Tab Lease := []
  borrowers : Tab Lease := []
  lendable : Tab Nat := []
  peers : Tab Peer := []
  snoops : List Snoop := []
  lcache : List CacheLine := []
  leasectl : DWord := 0x000003E800000000
  queues : Tab Queue := []
  launches : List Launch := []
  gangs : List Gang := []
  sched : Sched := {}
  nextId : Nat := 1
  qpsaveb : DWord := 0
  qpsavel : DWord := 0
  qptkc : Tab DWord := []
  /-- POSTED and RETIRED of a partition's counter as the queue processor last wrote them (12 R396) -/
  posted : Tab (Nat × Nat) := []
  /-- partitions whose counter or ring software has written since the set-up (12 R396) -/
  tampered : List Nat := []
  /-- events from outside whose writes wait for holds (07 R251) -/
  kept : List Kept := []
  partmap : Tab DWord := []
  /-- device registers with no behaviour of their own (00 R7) -/
  devregs : Tab DWord := []
  saved : List SavedTeam := []
  fm : FabricMgr := {}
  garef : Tab Garef := []
  ether : Tab Ether := []
  /-- key slots in use: group × 64 + slot, with peer and gang ticket (13 R435) -/
  keys : Tab (Nat × Word) := []
  /-- windows of the tile-window table: core and physical slot (13 R433) -/
  windows : Tab (Nat × Nat) := []
  houses : Tab House := []
  /-- the running firmware image, and the fabric time at which its live activation began (13 R436) -/
  image : Nat := 0
  activated : Option Nat := none
  /-- answers given to SPDM requests: the port, and the evidence of identity; none for ResponseNotReady -/
  spdm : List (Nat × Option SpdmIdentity) := []
  /-- telemetry counters, their flash copy and the time of the last write (13 R438) -/
  counters : Tab Nat := []
  flash : Tab Nat := []
  flushed : Nat := 0
  /-- fabric time of the last start -/
  booted : Nat := 0
  powerLimit : Nat := 4000000
  idling : Bool := false
  /-- accesses from outside that wait to be performed (13 R421, R431) -/
  arrivals : List PeerReq := []
  /-- Ethernet frames that wait to be written (13 R422, R432) -/
  frames : List EthFrame := []
  /-- host requests for a line that wait for a victim or another holder: port, line, for modification (13 R431) -/
  hostReqs : List (Nat × Nat × Bool) := []
  /-- messages this package has sent, newest first: a kind (13 R420, R421, R425: 1 request, 2 renewal,
  3 release, 4 revoke, 5 keepalive, 6 snoop, 7 grant, 8 refusal, 9 answer to an access, 10 error
  response), a package or port, and an index, status or value -/
  sent : List (Nat × Nat × Nat) := []
  /-- events reported to firmware and to the house cores, newest first: 1 a lease ended as a peer failure,
  2 a link down -/
  reports : List (Nat × Nat) := []
  deriving DecidableEq, Repr

/-- Why the machine stops with a fault. -/
inductive Fault
  /-- an instruction constructor runs while the cursor names no weave, or no lane of it that can
  issue: a state no step reaches (log entry 14). Safe. -/
  | noGroup
  deriving DecidableEq, Repr

/-- Why the machine gives no meaning. -/
inductive Refusal
  /-- the arm of an instruction not modelled: raised by exec alone. Safe. -/
  | notModelled (mnemonic : String)
  /-- a house core fetches a word that is no twl.v: the RV64GCV instruction set is not in the spec
  (13 R433). Safe. -/
  | houseWord
  deriving DecidableEq, Repr

/-- The machine right after reset (00 R8, 13 R437: a cold start). Every field holds the value of its
Reset column, and where the spec gives none the value that log entry 10 names. -/
def State.reset : State := {}

end Sys2Proof.Machine
end

