-- ==== Sys2Proof/Machine/Operands.lean ====
section
/-! DEFINITION. Operands: the registers and the width that each field names (02 R48 to R51, R58), the
values read and written (02 R55, R59), and which instructions execute speculatively. -/

namespace Sys2Proof

/-- 32-bit registers of a value of `bits` bits (02 R50). -/
def regsOf (bits : Nat) : Nat := (bits + 31) / 32

/-- Registers a field names, and their alignment: (count, alignment). -/
def Use.regs (u : Use) (b : BitVec 9) : Nat × Nat :=
  match u with
  | .src n => (regsOf n, regsOf n)
  | .dst n => (regsOf n, regsOf n)
  | .both n => (regsOf n, regsOf n)
  | .peek => (1, 1)
  | .multiDst n => (2 ^ (b.toNat % 4 + 1) * regsOf n, regsOf n)
  | .multiSrc n => (2 ^ (b.toNat % 4 + 1) * regsOf n, regsOf n)
  | _ => (0, 1)
/-- Bits of the value a field is read at. -/
def Use.width (u : Use) (b : BitVec 9) : Nat :=
  match u with
  | .src n => n
  | .dst n => n
  | .both n => n
  | .multiDst n => 2 ^ (b.toNat % 4 + 1) * n
  | .multiSrc n => 2 ^ (b.toNat % 4 + 1) * n
  | _ => 0
def Use.isDst : Use → Bool
  | .dst _ => true
  | .both _ => true
  | .multiDst _ => true
  | _ => false

/-- The four register fields with their use and emp bit. -/
def Fields.uses (f : Fields) (r : Row) : List (Use × BitVec 9 × Bool) :=
  [(r.d, f.d, f.mform && f.empC), (r.a, f.a, f.empA), (r.b, f.b, f.empB), (r.c, f.c, !f.mform && f.empC)]

def Fields.dests (f : Fields) (r : Row) : List (BitVec 9 × Nat) :=
  ((f.uses r).filter (fun u => u.1.isDst)).map (fun u => (u.2.1, 32 * (u.1.regs f.b).1))

/-- Instructions that execute speculatively (03 R98, 04 R136, 05 R153, 06 R190, 07 R248, 08 R272,
12 R397). -/
def Instr.speculates (i : Instr) : Bool :=
  match i with
  | .exit _ | .yield _ | .brk _ | .bpend _ => false
  | .tlbp _ | .tlbi _ | .tlbs _ | .pois _ | .spmap _ | .spmapz _ | .spclr _ | .spwb _ | .spdrop _
  | .stts _ | .tsfree _ | .tsstat _ => false
  | .thext _ => true
  | .thacq _ | .thpf _ | .threl _ | .thdown _ | .thclose _ | .thwb _ | .thsplit _ | .thbind _
  | .thunbind _ | .thstat _ | .thprobe _ | .thopen _ | .thdesc _ => false
  | .cas _ | .swap _ | .aadd _ | .amin _ | .amax _ | .afadd _ | .xadd _ | .xrd _ | .aand _ | .aor _
  | .axor _ | .ainc _ | .fence _ | .fenceAcq _ | .fenceRel _ | .rvinit _ | .rvarrive _ | .rvwait _
  | .rvwaitSpec _ | .rvsync _ | .rvpoll _ | .gbinit _ | .gbarrive _ | .gbwait _ | .gbsync _
  | .waitvEq _ | .waitvNe _ | .specwait _ | .xset _ | .rvstat _ => false
  | .mlds _ | .mldl _ | .mswap _ | .mmul _ | .mmulz _ | .acst _ | .acld _ | .acsclRow _ | .acsclCol _
  | .acnrm _ | .acredMax _ | .acredSum _ | .acbias _ | .cvinit _ | .msign _ | .mwait _ | .mstat _
  | .mstclr _ | .acrd _ | .acwr _ | .acclr _ | .mplane _ => false
  | .cpy _ | .fill _ | .cpts _ | .cpfs _ | .cpald _ | .cpast _ | .gcp _ | .gcpts _ | .expf _ | .exwb _
  | .waitlt _ | .ccrd _ | .ccadd _ | .ccclr _ => false
  | .refine _ | .rfres _ | .rfchk _ | .rfcancel _ | .rfwait _ | .rfstat _ => false
  | .mfs o => [0x010, 0x011, 0x012].contains o.c.toNat
  | .mts o => [0x010, 0x011, 0x012].contains o.c.toNat
  | .mtsset o => [0x010, 0x011, 0x012].contains o.c.toNat
  | .mtsclr o => [0x010, 0x011, 0x012].contains o.c.toNat
  | .tret _ | .tmask _ | .tunmask _ | .tabort _ | .tmplace _ | .tmsave _ | .tmrest _ | .tmflush _
  | .tmkill _ | .tkclaim _ | .tkdone _ | .ftime _ | .fwidle _ | .fwsev _ | .qpost _ | .rdcyc _ => false
  | .lsreq _ | .lsrenew _ | .lsdrop _ | .exlend _ | .lsrecall _ | .lsrd _ | .kyopen _ | .kyclose _
  | .fmcand _ | .exmig _ => false
  | i => !i.row.coll

end Sys2Proof

namespace Sys2Proof.Machine

/-! ### Registers -/


def Thread.reg (t : Thread) (n : Nat) : RegCell := tabGet {} n t.regs
/-- Write a register cell; a speculating thread first saves the old one (08 R291). -/
def Thread.putReg (t : Thread) (n : Nat) (c : RegCell) : Thread :=
  { t with
    regs := tabPut {} n c t.regs
    spec := t.spec.map (fun p => match tabFind n p.undo with
      | some _ => p
      | none => { p with undo := tabSet n (t.reg n) p.undo }) }
/-- Write a register cell on the arrival of a deferred result: no undo record (02 R57). -/
def Thread.landReg (t : Thread) (n : Nat) (c : RegCell) : Thread :=
  { t with regs := tabPut {} n c t.regs }

/-- The registers of a group, none for vz. -/
def groupRegs (idx : BitVec 9) (bits : Nat) : List Nat :=
  if idx = 511 then [] else (List.range (regsOf bits)).map (idx.toNat + ·)
/-- The value of a group of `k` registers from register `n` on (02 R50). -/
def Thread.words (t : Thread) (n : Nat) : Nat → Nat
  | 0 => 0
  | k + 1 => (t.reg n).val.toNat + 2 ^ 32 * t.words (n + 1) k
/-- A source of `bits` bits: vz reads zero (02 R48, R50). -/
def Thread.source (t : Thread) (idx : BitVec 9) (bits : Nat) : Nat :=
  if idx = 511 then 0 else t.words idx.toNat (regsOf bits) % 2 ^ bits
/-- Write `k` registers from register `n` on, leaving them full (02 R55). -/
def Thread.putWords (t : Thread) (n v : Nat) : Nat → Thread
  | 0 => t
  | k + 1 => (t.putReg n { val := BitVec.ofNat 32 v }).putWords (n + 1) (v / 2 ^ 32) k
/-- A destination of `bits` bits: vz discards the write (02 R48). -/
def Thread.dest (t : Thread) (idx : BitVec 9) (bits v : Nat) : Thread :=
  if idx = 511 then t else t.putWords idx.toNat v (regsOf bits)
/-- Set a destination group empty at the issue of a deferred result (02 R55). -/
def Thread.setEmpty (t : Thread) (idx : BitVec 9) (bits : Nat) : Thread :=
  (groupRegs idx bits).foldl (fun t n => t.putReg n { t.reg n with full := false, poison := false }) t
/-- Leave a destination group empty and poisoned (06 R216). -/
def Thread.setPoisoned (t : Thread) (idx : BitVec 9) (bits : Nat) : Thread :=
  (groupRegs idx bits).foldl (fun t n => t.putReg n { t.reg n with full := false, poison := true }) t

/-- P(n): p7 reads true (02 R47). -/
def Thread.pred (t : Thread) (n : Nat) : Bool := n == 7 || t.preds.getLsbD n
/-- A write to p7 is discarded (02 R51). -/
def Thread.setPred (t : Thread) (n : Nat) (b : Bool) : Thread :=
  if n = 7 then t
  else { t with preds := if b then t.preds ||| (1#7 <<< n) else t.preds &&& ~~~(1#7 <<< n) }

/-- The operand buffer made invalid (02 R60). -/
def Thread.dropOb (t : Thread) : Thread := { t with ob := {} }

/-- A lane executes (02 R47). -/
def Thread.executes (t : Thread) (f : Fields) : Bool := xor (t.pred f.pred.toNat) f.psense

/-- A source field of a word: its register, the width it is read at and its emp bit. -/
structure SrcField where
  idx : BitVec 9
  bits : Nat
  emp : Bool
  deriving DecidableEq, Repr

def fieldSources (f : Fields) (r : Row) : List SrcField :=
  ((f.uses r).filter (fun u => u.1.isSrc)).map (fun u =>
    { idx := u.2.1, bits := u.1.width f.b, emp := u.2.2 })
/-- Reads the operand buffer (02 R59). -/
def SrcField.ob (x : SrcField) : Bool := x.idx == 511 && x.emp
def SrcField.obFails (x : SrcField) (t : Thread) : Bool :=
  x.ob && !(t.ob.valid && t.ob.width == x.bits)
def SrcField.poisoned (x : SrcField) (t : Thread) : Bool :=
  (groupRegs x.idx x.bits).any (fun n => (t.reg n).poison)
def SrcField.empty (x : SrcField) (t : Thread) : Bool :=
  (groupRegs x.idx x.bits).any (fun n => !(t.reg n).full)
/-- The value of a source in a thread: the operand buffer, vz or the registers. -/
def SrcField.value (x : SrcField) (t : Thread) : Nat :=
  if x.ob then t.ob.val.toNat else t.source x.idx x.bits
/-- A destination register that is empty and holds no poison mark (02 R55, 06 R216). -/
def destBusy (d : BitVec 9 × Nat) (t : Thread) : Bool :=
  (groupRegs d.1 d.2).any (fun n => !(t.reg n).full && !(t.reg n).poison)

end Sys2Proof.Machine
end

