-- ==== Sys2Proof/Machine/Tenure.lean ====
section
/-! DEFINITION. Tiles: descriptors, footprints, pieces, and how a request narrows a held piece
(07 R219 to R222, R240 to R243). Dimension 0 is the innermost throughout. -/

namespace Sys2Proof.Machine

/-- A virtual address obeys 01 R25: bits [63:57] all equal bit [56]. -/
def canonical (va : Nat) : Bool :=
  let h := va % 2 ^ 64 / 2 ^ 56
  decide (va < 2 ^ 64) && (h == 0 || h == 0xFF)

/-- Descriptor words to a descriptor; `none` when malformed (07 R220). -/
def tileOfWords (ws : List Nat) : Option TileDesc :=
  let w := fun (n : Nat) => ws.getD n 0
  let rank := w 1 % 8
  let esz := w 1 / 2 ^ 8 % 8
  let dims := (List.range 5).map (fun k => (w (2 + k) % 2 ^ 24, w (2 + k) / 2 ^ 24))
  let ext : List Nat := (dims.take rank).map (·.1)
  let stride : List Nat := (dims.take rank).map (·.2)
  let last := (dims.take rank).foldl (fun a d => a + (d.1 - 1) * d.2) (w 0) + 2 ^ esz - 1
  let nested := (List.range rank).all (fun (k : Nat) =>
    k == 0 || decide (stride.getD (k - 1) 0 * ext.getD (k - 1) 0 ≤ stride.getD k 0))
  if rank == 0 || decide (5 < rank) || decide (4 < esz) || w 7 != 0 ||
      w 1 / 2 ^ 11 != 0 || w 1 / 2 ^ 3 % 2 ^ 5 != 0 ||
      (dims.drop rank).any (fun d => d.1 != 0 || d.2 != 0) || ext.any (· == 0) ||
      stride.getD 0 0 != 2 ^ esz || !nested || w 0 % 2 ^ esz != 0 ||
      !canonical (w 0) || !canonical last then none
  else some { base := w 0, esz := esz, ext := ext, stride := stride }

/-- The words of a descriptor, reserved words zero (07 R229). -/
def tileWords (d : TileDesc) : List Nat :=
  [d.base, d.ext.length + d.esz * 2 ^ 8] ++
    (List.range 5).map (fun k => d.ext.getD k 0 + d.stride.getD k 0 * 2 ^ 24) ++ [0]

/-- The whole tile as a piece. -/
def tileWhole (d : TileDesc) : Piece := d.ext.map (fun e => (0, e))

/-- Bytes of a tile's elements. -/
def tileBytes (d : TileDesc) : Nat := d.ext.foldl (· * ·) 1 * 2 ^ d.esz

/-- One past the last byte of a tile. -/
def tileEnd (d : TileDesc) : Nat :=
  (d.ext.zip d.stride).foldl (fun a e => a + (e.1 - 1) * e.2) d.base + 2 ^ d.esz

/-- Ranges with their strides, outermost first. -/
def pieceDims (d : TileDesc) (p : Piece) : List (Nat × Nat × Nat) :=
  ((p.zip d.stride).map (fun e => (e.1.1, e.1.2, e.2))).reverse

/-- First and one past the last byte offset that the ranges `ds` span above an address. -/
def dimsHull (esz : Nat) : List (Nat × Nat × Nat) → Nat × Nat
  | [] => (0, 2 ^ esz)
  | (lo, hi, st) :: t =>
    let h := dimsHull esz t
    (lo * st + h.1, (hi - 1) * st + h.2)

/-- Some byte of the sub-tile at `base` lies in [a, b]. The rows of a sub-tile are ordered and apart,
so of three or more candidate indices an inner one lies wholly inside. -/
def dimsTouch (esz base a b : Nat) : List (Nat × Nat × Nat) → Bool
  | [] => decide (base ≤ b ∧ a < base + 2 ^ esz)
  | (lo, hi, st) :: t =>
    if hi ≤ lo then false
    else
      let h := dimsHull esz t
      -- index i spans [base + i st + h.1, base + i st + h.2 - 1]
      let i0 := if a + 1 ≤ base + h.2 then lo
        else max lo ((a + 1 - (base + h.2) + st - 1) / st)
      if b < base + h.1 then false
      else
        let i1 := min (hi - 1) ((b - (base + h.1)) / st)
        if i1 < i0 then false
        else if 2 ≤ i1 - i0 then true
        else dimsTouch esz (base + i0 * st) a b t || dimsTouch esz (base + i1 * st) a b t

/-- A piece holds a byte of the sectors that [a, b] meets. -/
def pieceTouch (d : TileDesc) (p : Piece) (a b : Nat) : Bool :=
  dimsTouch d.esz d.base (a / 32 * 32) (b / 32 * 32 + 31) (pieceDims d p)

/-- The rows of a piece as byte intervals [a, b]. -/
def dimsRows (esz base : Nat) : List (Nat × Nat × Nat) → List (Nat × Nat)
  | [] => [(base, base + 2 ^ esz - 1)]
  | [(lo, hi, st)] => if hi ≤ lo then [] else [(base + lo * st, base + (hi - 1) * st + 2 ^ esz - 1)]
  | (lo, hi, st) :: t =>
    ((List.range (hi - lo)).map (fun n => dimsRows esz (base + (lo + n) * st) t)).flatten

def pieceRows (d : TileDesc) (p : Piece) : List (Nat × Nat) := dimsRows d.esz d.base (pieceDims d p)

/-- The piece with the range of dimension `k` replaced. -/
def pieceSet (p : Piece) (k lo hi : Nat) : Piece := p.set k (lo, hi)

def pieceEmpty (p : Piece) : Bool := p.any (fun r => decide (r.2 ≤ r.1))

/-- 07 R241: what is kept of `p` and what is recalled for a tile request with footprint `q`, of whose addresses those in
[win.1, win.2) count: the part of a page that the request and the piece's handle share. -/
def splitTile (d : TileDesc) (p : Piece) (q : TileDesc) (win : Nat × Nat) : List Piece × Option Piece :=
  let o := p.length - 1
  let r := p.getD o (0, 0)
  let hit := (List.range (r.2 - r.1)).filter (fun n =>
    (pieceRows d (pieceSet p o (r.1 + n) (r.1 + n + 1))).any (fun iv =>
      let a := max iv.1 win.1
      let b := min (iv.2 + 1) win.2
      decide (a < b) && pieceTouch q (tileWhole q) a (b - 1)))
  match hit.head?, hit.getLast? with
  | some x, some y =>
    let a := r.1 + x
    let b := r.1 + y + 1
    ([pieceSet p o r.1 a, pieceSet p o b r.2].filter (fun p => !pieceEmpty p),
      some (pieceSet p o a b))
  | _, _ => ([p], none)

/-- One dimension of 07 R242: the pieces kept and the part that still holds the sector. -/
def narrowDim (d : TileDesc) (sector k : Nat) (x : Piece) : List Piece × Piece :=
  let r := x.getD k (0, 0)
  let st := max 1 (d.stride.getD k 1)
  -- with every outer range one index, only indices whose hull can meet the sector are looked at
  let one := ((pieceDims d x).take (x.length - 1 - k)).all (fun e => e.2.1 == e.1 + 1)
  let inner := dimsHull d.esz ((pieceDims d x).drop (x.length - k))
  let outer := ((pieceDims d x).take (x.length - 1 - k)).foldl (fun a e => a + e.1 * e.2.2) d.base
  let lo := if !one || decide (sector * 32 + 1 ≤ outer + inner.2) then r.1
    else max r.1 ((sector * 32 + 1 - (outer + inner.2)) / st)
  let hi := if !one then r.2 else min r.2 ((sector * 32 + 32 - min (sector * 32 + 32) (outer + inner.1)) / st + 2)
  let hit := (List.range (hi - lo)).filter (fun n =>
    pieceTouch d (pieceSet x k (lo + n) (lo + n + 1)) (sector * 32) (sector * 32 + 31))
  match hit.head?, hit.getLast? with
  | some p, some q =>
    let a := lo + p
    let b := lo + q + 1
    ([pieceSet x k r.1 a, pieceSet x k b r.2].filter (fun p => !pieceEmpty p), pieceSet x k a b)
  | _, _ => ([], x)

/-- 07 R242: the pieces kept of `p` when the row that holds `sector` is recalled. The outer ranges
narrow to the sector before an inner one is looked at, and a range that still spans several indices
is treated index by index at the innermost row. -/
def narrowRow (d : TileDesc) (sector : Nat) (p : Piece) : List Piece :=
  ((List.range (p.length - 1)).foldl (fun (acc : List Piece × Piece) n =>
    let r := narrowDim d sector (p.length - 1 - n) acc.2
    (acc.1 ++ r.1, r.2)) ([], p)).1

/-- The pieces of a handle after part of one is recalled; more than 16 pieces lose them all
(07 R243). -/
def handleRecall (h : Handle) (ps : List Piece) : Handle :=
  { h with pieces := if 16 < ps.length then [] else ps, lost := true }

/-- 07 R242 on every conflicting piece of a handle. -/
def handleRow (h : Handle) (store : Bool) (sector : Nat) : Handle :=
  if h.mode == 2 || (store && h.mode == 1) then
    if h.pieces.any (fun p => pieceTouch h.desc p (sector * 32) (sector * 32 + 31)) then
      handleRecall h ((h.pieces.map (fun p =>
        if pieceTouch h.desc p (sector * 32) (sector * 32 + 31) then narrowRow h.desc sector p
        else [p])).flatten)
    else h
  else h

/-- 07 R240, R241 on a handle, for a tile request of another team. -/
def handleTile (h : Handle) (write : Bool) (q : TileDesc) (win : Nat × Nat) : Handle :=
  if h.mode == 2 || (write && h.mode == 1) then
    let parts := h.pieces.map (fun p => splitTile h.desc p q win)
    if parts.any (fun e => e.2.isSome) then handleRecall h ((parts.map (·.1)).flatten) else h
  else h

/-- 07 R230: a piece cut at index `i` of dimension `o`: the part that stays, the part that moves,
with the moved range counted from `i`. -/
def pieceCut (p : Piece) (o i : Nat) : List Piece × List Piece :=
  let r := p.getD o (0, 0)
  ([pieceSet p o r.1 (min r.2 i)].filter (fun p => !pieceEmpty p),
    [pieceSet p o (max r.1 i - i) (r.2 - i)].filter (fun p => !pieceEmpty p && decide (i < r.2)))

/-! ### Units of the engine's commands (10 R342) and the slots bound to a handle (07 R235) -/

def unitBytes : Nat := 4096
/-- Units of a row of a gather. -/
def Gather.rowUnits (g : Gather) : Nat := (g.rowb + unitBytes - 1) / unitBytes
/-- Destination offset and bytes of a unit. -/
def EngCmd.geom (c : EngCmd) (u : Nat) : Nat × Nat :=
  match c.gather with
  | some g =>
    let r := u / g.rowUnits
    let o := u % g.rowUnits * unitBytes
    (r * g.rowb + o, min unitBytes (g.rowb - o))
  | none => (u * unitBytes, min unitBytes (c.len - u * unitBytes))
/-- Address of byte `o` of a tile in ascending index order, dimension 0 innermost (10 R337). -/
def tileAddr (d : TileDesc) (o : Nat) : Nat :=
  ((d.ext.zip d.stride).foldl (fun (r : Nat × Nat) e => (r.1 + r.2 % e.1 * e.2, r.2 / e.1)) (d.base, o / 2 ^ d.esz)).1 +
    o % 2 ^ d.esz
/-- Virtual addresses of `n` bytes of the command's memory side from offset `o` on. -/
def EngCmd.addrs (c : EngCmd) (base o n : Nat) : List Nat :=
  (List.range n).map (fun i => match c.tile with
    | some d => tileAddr d (o + i)
    | none => (base + o + i) % 2 ^ 64)

/-- Slots bound to a handle. -/
def Team.boundSlots (t : Team) (n : Nat) : List Nat :=
  (t.tslots.filter (fun e => (e.2.bound.map (·.1)) == some n)).map (·.1)

end Sys2Proof.Machine
end

