-- ==== Sys2Proof/Machine/Memory.lean ====
section
/-! DEFINITION. Access to the parts of the state, and bytes: the local address map (01 R26), the
scratchpad mapping (06 R193 to R196), poison (06 R216, R217) and the lease cache (13 R422). -/

namespace Sys2Proof.Machine

/-! ### Parts of the state -/

def State.core (s : State) (c : Nat) : Core := tabGet Core.init c s.cores
def State.setCore (s : State) (c : Nat) (k : Core) : State := { s with cores := tabSet c k s.cores }
def State.modCore (s : State) (c : Nat) (g : Core → Core) : State := s.setCore c (g (s.core c))

def Core.weave (k : Core) (w : Nat) : Weave := tabGet {} w k.weaves
def State.weave (s : State) (c w : Nat) : Weave := (s.core c).weave w
def State.setWeave (s : State) (c w : Nat) (x : Weave) : State :=
  s.modCore c (fun k => { k with weaves := tabSet w x k.weaves })
def State.modWeave (s : State) (c w : Nat) (g : Weave → Weave) : State :=
  s.setWeave c w (g (s.weave c w))

def Weave.thread (x : Weave) (l : Nat) : Thread := tabGet {} l x.threads
def Weave.modThread (x : Weave) (l : Nat) (g : Thread → Thread) : Weave :=
  { x with threads := tabSet l (g (x.thread l)) x.threads }
def State.thread (s : State) (c w l : Nat) : Thread := (s.weave c w).thread l
def State.modThread (s : State) (c w l : Nat) (g : Thread → Thread) : State :=
  s.modWeave c w (fun x => x.modThread l g)
/-- Change the threads of several lanes. -/
def State.modThreads (s : State) (c w : Nat) (ls : List Nat) (g : Nat → Thread → Thread) : State :=
  s.modWeave c w (fun x => ls.foldl (fun x l => x.modThread l (g l)) x)

/-- The core and the record of the team numbered `t`. -/
def State.findTeam (s : State) (t : Nat) : Option (Nat × Team) :=
  s.cores.findSome? (fun e => (tabFind t e.2.teams).map (fun x => (e.1, x)))
def State.team (s : State) (t : Nat) : Team := ((s.findTeam t).map (·.2)).getD {}
def State.modTeam (s : State) (t : Nat) (g : Team → Team) : State :=
  match s.findTeam t with
  | some (c, x) => s.modCore c (fun k => { k with teams := tabSet t (g x) k.teams })
  | none => s

def State.die (s : State) (d : Nat) : Die := tabGet {} d s.dies
def State.modDie (s : State) (d : Nat) (g : Die → Die) : State :=
  { s with dies := tabSet d (g (s.die d)) s.dies }
/-- Cores 36 d to 36 d + 35 lie on die d (01 R15). -/
def dieOf (core : Nat) : Nat := core / 36

def State.context (s : State) (x : Nat) : Context := tabGet {} x s.contexts
def State.modContext (s : State) (x : Nat) (g : Context → Context) : State :=
  { s with contexts := tabSet x (g (s.context x)) s.contexts }
def State.lender (s : State) (e : Nat) : Lease := tabGet {} e s.lenders
def State.modLender (s : State) (e : Nat) (g : Lease → Lease) : State :=
  { s with lenders := tabSet e (g (s.lender e)) s.lenders }
def State.borrower (s : State) (e : Nat) : Lease := tabGet {} e s.borrowers
def State.modBorrower (s : State) (e : Nat) (g : Lease → Lease) : State :=
  { s with borrowers := tabSet e (g (s.borrower e)) s.borrowers }
def State.peer (s : State) (p : Nat) : Peer := tabGet {} p s.peers
def State.modPeer (s : State) (p : Nat) (g : Peer → Peer) : State :=
  { s with peers := tabSet p (g (s.peer p)) s.peers }
def State.queue (s : State) (q : Nat) : Queue := tabGet {} q s.queues
def State.modQueue (s : State) (q : Nat) (g : Queue → Queue) : State :=
  { s with queues := tabSet q (g (s.queue q)) s.queues }
def State.modGang (s : State) (n : Nat) (f : Gang → Gang) : State :=
  { s with gangs := s.gangs.map (fun g => if g.id = n then f g else g) }
def State.findGang (s : State) (n : Nat) : Option Gang := s.gangs.find? (fun g => g.id = n)
def State.modLaunch (s : State) (n : Nat) (f : Launch → Launch) : State :=
  { s with launches := s.launches.map (fun g => if g.id = n then f g else g) }
def State.findLaunch (s : State) (n : Nat) : Option Launch := s.launches.find? (fun g => g.id = n)

/-- The lanes of a mask, ascending. -/
def lanesOf (m : Mask) : List Nat := (List.range 32).filter (fun l => m.getLsbD l)
/-- The mask of a list of lanes. -/
def maskOf (ls : List Nat) : Mask := ls.foldl (fun m l => m ||| (1#32 <<< l)) 0

/-- A value the spec leaves open, and the counter that draws it (log entry 23). -/
def State.draw (s : State) : Val × State := (Config.freeBits s.free, { s with free := s.free + 1 })

/-! ### Bytes and words -/

/-- Little-endian bytes as a number (00 R4). -/
def leNat : List Byte → Nat
  | [] => 0
  | b :: t => b.toNat + 256 * leNat t
/-- The `n` low bytes of a number, little-endian. -/
def leBytes : Nat → Nat → List Byte
  | 0, _ => []
  | n + 1, v => BitVec.ofNat 8 v :: leBytes n (v / 256)

/-- SInt of 00 R4: the value of the `n` low bits of `v` in two's complement. -/
def sint (n v : Nat) : Int :=
  let u := v % 2 ^ n
  if u < 2 ^ (n - 1) then (u : Int) else (u : Int) - (2 ^ n : Nat)
/-- The `n` low bits of an integer. -/
def wrap (n : Nat) (z : Int) : Nat := (z % (2 ^ n : Nat)).toNat
/-- Sign extension of the `n` low bits to 64 bits. -/
def sext64 (n v : Nat) : Nat := wrap 64 (sint n v)

/-! ### The local address map (01 R25, R26) -/

inductive Region
  | hbm
  | larder (die : Nat)
  | cellar (extent : Nat)
  | regs
  | reserved
  deriving DecidableEq, Repr

/-- Table 6 of chapter 01, by local address. -/
def localRegion (a : Nat) : Region :=
  if a < 0x8000000000 then .hbm
  else if 0x10000000000 ≤ a ∧ a < 0x10080000000 then .larder ((a - 0x10000000000) / 0x20000000)
  else if 0x100000000000 ≤ a ∧ a < 0x120000000000 then .cellar ((a - 0x100000000000) / 0x20000000)
  else if 0x3F0000000000 ≤ a ∧ a < 0x400000000000 then .regs
  else .reserved

def localAddr (pa : Nat) : Nat := pa % 2 ^ 46
def pkgAddr (pa : Nat) : Nat := pa / 2 ^ 46
/-- The fabric physical address of a local address of this package. -/
def State.fabric (s : State) (a : Nat) : Nat := s.pkg * 2 ^ 46 + a
def State.isLocal (s : State) (pa : Nat) : Bool := pkgAddr pa == s.pkg
def reservedAddr (pa : Nat) : Bool := localRegion (localAddr pa) == .reserved
def regsAddr (pa : Nat) : Bool := localRegion (localAddr pa) == .regs
def larderAddr (pa : Nat) : Bool :=
  match localRegion (localAddr pa) with
  | .larder _ => true
  | _ => false

/-- The owner tag of the 512 KiB frame of an address (13 R434). -/
def State.tag (s : State) (pa : Nat) : Word := tabGet 0 (pa / 2 ^ 19) s.tags

/-! ### Places -/

def Loc.add (l : Loc) (n : Nat) : Loc :=
  match l with
  | .mem pa => .mem (pa + n)
  | .spad t o => .spad t (o + n)
/-- The first byte of the place's block of `n` bytes. -/
def Loc.align (n : Nat) (l : Loc) : Loc :=
  match l with
  | .mem pa => .mem (pa / n * n)
  | .spad t o => .spad t (o / n * n)
def Loc.sector (l : Loc) : Loc := l.align 32
def Loc.line (l : Loc) : Loc := l.align 128

/-- The segment of a mapping entry that holds a physical address. -/
def MapEnt.locate (m : MapEnt) (pa : Nat) : Option Nat :=
  m.segs.findSome? (fun g => if g.pa ≤ pa ∧ pa < g.pa + g.len then some (m.off + g.off + (pa - g.pa))
    else none)
/-- The segment that backs a scratchpad offset. -/
def MapEnt.segAt (m : MapEnt) (o : Nat) : Option Seg := m.segs.find? (fun g => decide (m.off + g.off ≤ o ∧ o < m.off + g.off + g.len))
/-- The backing address of a scratchpad offset inside a mapping entry. -/
def MapEnt.backing (m : MapEnt) (o : Nat) : Option Nat :=
  if m.off ≤ o ∧ o < m.off + m.len then
    m.segs.findSome? (fun g => if m.off + g.off ≤ o ∧ o < m.off + g.off + g.len then
      some (g.pa + (o - m.off - g.off)) else none)
  else none

/-- Directory forwarding (06 R175, R195): the scratchpad that has `pa` registered, else memory. -/
def State.place (s : State) (pa : Nat) : Loc :=
  (s.cores.findSome? (fun e => e.2.teams.findSome? (fun t => t.2.maps.findSome? (fun m =>
    (m.2.locate pa).map (fun o => Loc.spad t.1 o))))).getD (.mem pa)

/-! ### Writes that others see (08 R293) -/

/-- A store to these places has become visible to the threads that `sees` picks: those whose read set
holds a sector of them, other than the storing thread, now have a conflict (08 R293). -/
def State.conflicts (s : State) (locs : List Loc) (by_ : Nat × Nat × Nat) (sees : Nat → Nat → Bool) : State :=
  let secs := locs.map Loc.sector
  { s with cores := s.cores.map (fun k => (k.1, { k.2 with weaves := k.2.weaves.map (fun w =>
      if sees k.1 w.1 then
        let hit := (w.2.reads.filter (fun r => secs.contains r.1)).foldl (fun m r => m ||| r.2) 0
        (w.1, (lanesOf hit).foldl (fun x l =>
          if by_ = (k.1, w.1, l) then x
          else x.modThread l (fun t => { t with spec := t.spec.map (fun p => { p with conflict := true }) })) w.2)
      else w) })) }

/-- The stores of an entry have become visible to the threads that `sees` picks (08 R257, R293). -/
def State.entryConflicts (s : State) (c : Nat) (e : StoreEnt) (sees : Nat → Nat → Bool) : State :=
  (e.bytes.map (·.lane)).dedup.foldl (fun s l =>
    s.conflicts ((e.bytes.filter (fun b => b.lane = l)).map (·.loc)) (c, e.slot, l) sees) s

/-! ### Bytes of memory -/

/-- The canonical form of memory (log entry 1): addresses strictly rising, no entry equal to the 0 that an unlisted
address reads as. -/
def Memory.wf (m : List Host.Cell) : Bool := tabWf 0 m

/-- First byte of extent `e` of package `p` (01 R26). -/
def extentAddr (p e : Nat) : Nat := p * 2 ^ 46 + 0x100000000000 + e * 0x20000000
/-- Extent number of a Cellar address. -/
def extentOf (pa : Nat) : Option Nat :=
  match localRegion (localAddr pa) with
  | .cellar e => some e
  | _ => none

/-- The address lies in an extent that an ACTIVE borrower entry covers. -/
def State.borrowed (s : State) (pa : Nat) : Bool :=
  match extentOf pa with
  | some e => s.borrowers.any (fun b => b.2.st == 2 && b.2.peer == pkgAddr pa && b.2.ext == e)
  | none => false
/-- LCN of LEASECTL (13 Table 3). -/
def State.lcn (s : State) : Nat := s.leasectl.toNat % 2 ^ 11
/-- A byte as this package sees it: a line of the lease cache stands for the lender's (13 R422). -/
def State.memByte (s : State) (pa : Nat) : Byte :=
  ((s.lcache.find? (fun c => c.line = pa / 128)).bind (fun c => tabFind pa c.dirty)).getD
    (tabGet 0 pa s.mem)
/-- A byte written into its line. -/
def lcPut (pa : Nat) (b : Byte) : List CacheLine → List CacheLine
  | [] => []
  | c :: t => if c.line = pa / 128 then { c with dirty := tabSet pa b c.dirty } :: t
    else c :: lcPut pa b t
/-- Write a lease-cache line back to the lender's memory. -/
def State.lcFlush (s : State) (c : CacheLine) : State :=
  { s with mem := (List.range 128).foldl (fun m i =>
             ((tabFind (c.line * 128 + i) c.dirty).map (fun b => tabPut 0 (c.line * 128 + i) b m)).getD m) s.mem,
           lcache := s.lcache.filter (fun x => x.line != c.line) }
/-- Lines that the lease cache holds: LCN units of 512 MiB (13 R422). -/
def State.lcLines (s : State) : Nat := s.lcn * 2 ^ 22
/-- LCBASE of LEASECTL in bytes, and where a line of the cache stands in that region of HBM (13 R422, Table 3). -/
def State.lcBase (s : State) : Nat := s.leasectl.toNat / 2 ^ 12 % 2 ^ 10 * 2 ^ 29
def State.lcAddr (s : State) (c : CacheLine) : Nat := s.fabric (s.lcBase + c.slot * 128)
/-- The address that the lease cache keeps at a place of HBM. -/
def State.lcKept (s : State) (pa : Nat) : Option Nat :=
  (s.lcache.find? (fun c => decide (s.lcAddr c ≤ pa ∧ pa < s.lcAddr c + 128))).map (fun c => c.line * 128 + (pa - s.lcAddr c))
/-- The line of an address stands in the lease cache. -/
def State.lcHit (s : State) (pa : Nat) : Bool := s.lcache.any (fun c => c.line = pa / 128)
/-- The least number that a list does not hold. -/
def freeIndex (l : List Nat) : Nat := ((List.range (l.length + 1)).find? (fun n => !l.contains n)).getD 0
/-- A line enters the lease cache; a full one first gives up its oldest line, and the line stands in the first free place (log
entry 62). -/
def State.lcEnter (s : State) (line : Nat) : State :=
  if s.lcache.any (fun c => c.line = line) then s
  else
    let s := match s.lcache with
      | c :: t => if s.lcLines ≤ t.length + 1 then s.lcFlush c else s
      | [] => s
    { s with lcache := s.lcache ++ [{ line := line, slot := freeIndex (s.lcache.map (·.slot)) }] }
/-- A peer has answered a request, a snoop or an access, or has sent a keepalive (13 R420). -/
def State.hears (s : State) (p : Nat) : State := s.modPeer p (fun p => { p with heard := s.time })
/-- A line of a borrowed extent that is read or written is kept in the lease cache (13 R422); where it does not stand there,
the lender answers. -/
def State.lcBring (s : State) (pa : Nat) : State :=
  if s.isLocal pa || !s.borrowed pa || s.lcHit pa then s
  else
    let s := s.hears (pkgAddr pa)
    if s.lcn != 0 then s.lcEnter (pa / 128) else s
/-- An access that the lender of a lease has refused as revoked (06 R211) was answered too. -/
def State.hearRefusal (s : State) (cause detail lid : Nat) : State :=
  if cause = 2 && detail = 3 then s.hears (s.borrower (lid % 2 ^ 12)).peer else s
def State.setByte (s : State) (pa : Nat) (b : Byte) : State :=
  let s := s.lcBring pa
  if !s.isLocal pa && s.lcHit pa then
    { s with lcache := lcPut pa b s.lcache }
  else { s with mem := tabPut 0 pa b s.mem }

def State.memPoison (s : State) (pa : Nat) : Bool := s.poison.contains (pa / 32)
/-- Insert into a rising list without repeats. -/
def insertNat (n : Nat) : List Nat → List Nat
  | [] => [n]
  | h :: t => if n < h then n :: h :: t else if n = h then h :: t else h :: insertNat n t
def State.setPoison (s : State) (pa : Nat) (on : Bool) : State :=
  { s with poison := if on then insertNat (pa / 32) s.poison else s.poison.filter (· != pa / 32) }

/-! ### Holds (07 R250, R251) -/

/-- The six lengths in ns (07 R250). -/
def holdLength (c : BitVec 3) : Nat := 256 * 2 ^ (c.toNat % 6)
/-- The copy may still be used at the time `now`. -/
def Hold.live (h : Hold) (now : Nat) : Bool :=
  let d := (h.expiry + 2 ^ 40 - now % 2 ^ 40) % 2 ^ 40
  decide (1 ≤ d ∧ d ≤ 2 ^ 39 - 1)
/-- A write waits at the line: a store, or what has left its mark there. -/
def State.lineWaits (s : State) (line : Nat) : Bool :=
  s.writeWaits.any (fun w => w.1 == line && decide (s.time < w.2)) || s.cores.any (fun k => k.2.pending.any (fun e => e.held && e.bytes.any (fun b =>
    match b.loc with
    | .mem pa => pa / 128 == line
    | .spad _ _ => false)))
/-- A write that holds keep waiting at its home leaves its mark, so that no new hold is granted there (07 R251): the
longest hold is gone after 8,192 ns. -/
def State.waitLine (s : State) (line : Nat) : State :=
  if s.writeWaits.any (fun w => w.1 == line && decide (s.time < w.2)) then s
  else { s with writeWaits := s.writeWaits.filter (fun w => decide (s.time < w.2)) ++ [(line, s.time + 8192)] }
/-- The marks at the lines of several places. -/
def State.waitLines (s : State) (ls : List Loc) : State :=
  ls.foldl (fun s l => match l with
    | .mem pa => s.waitLine (pa / 128)
    | .spad _ _ => s) s
/-- `who` keeps a copy of a line under a hold, unless it holds it or a write waits (07 R250, R251). -/
def State.holdLine (s : State) (who line : Nat) : State :=
  if s.holds.any (fun h => h.line = line && h.core = who && h.live s.time) || s.lineWaits line then s
  else { s with
    holds := s.holds.filter (fun h => !(h.line = line && h.core = who)) ++
      [{ line := line, core := who, expiry := (s.time + holdLength (Config.holdChoice s.free)) % 2 ^ 40 }],
    free := s.free + 1 }
/-- The slices of a die as the keeper of a copy. -/
def dieKeeper (d : Nat) : Nat := 1024 + d
/-- Unexpired holds of keepers other than `core` on a line. -/
def State.heldByOthers (s : State) (core line : Nat) : Bool :=
  s.holds.any (fun h => h.line = line && h.core != core && h.live s.time)

/-- Holds of other keepers stand on the line of a place (07 R251). -/
def State.heldLoc (s : State) (core : Nat) (l : Loc) : Bool :=
  match l with
  | .mem pa => s.heldByOthers core (pa / 128)
  | .spad _ _ => false

/-! ### Refresh of the Larder (06 R200) -/

/-- Group `g` is in refresh at fabric time `t` (06 R200). -/
def refreshAt (t g : Nat) : Bool := decide ((t + 64000 - 4000 * g % 64000) % 64000 < 2000)
/-- A Larder bank group in its refresh window stalls the read, until the window has been closed
(06 R200). -/
def State.refreshing (s : State) (pa : Nat) : Bool :=
  match localRegion (localAddr pa) with
  | .larder d =>
    let g := localAddr pa / 2 ^ 25 % 16
    s.isLocal pa && ((s.die d).refresh.contains g || refreshAt s.time g)
  | _ => false


/-! ### Tile slots and handles as threads read them (06 R198; 07 R225) -/

def Team.tslot (t : Team) (k : Nat) : TileSlot := tabGet {} k t.tslots
/-- `n` bytes from offset `o` of the operand-buffer space. -/
def Team.bufRead (t : Team) (o n : Nat) : List Byte := (List.range n).map (fun i => tabGet 0 (o + i) t.opbuf)
def Team.bufNat (t : Team) (o n : Nat) : Nat := leNat (t.bufRead o n)
def Team.bufPoison (t : Team) (o n : Nat) : Bool :=
  decide (0 < n) && t.opPoison.any (fun q => decide (o / 32 ≤ q ∧ q ≤ (o + n - 1) / 32))
def Team.handle (t : Team) (n : Nat) : Handle := tabGet {} n t.handles
/-- The check of a handle value: the detail of its failure. -/
def Team.handleBad (t : Team) (v : Nat) : Option Nat :=
  let h := t.handle (v % 16)
  if v / 2 ^ 12 ≠ 0 then some 0x11
  else if !h.opened then some 0x12
  else if h.gen ≠ v / 16 % 256 then some 0x13
  else none
/-- What a speculating thread has read reads the same now. -/
def Glance.holds (y : Team) : Glance → Bool
  | .slot k o n v =>
    let q := y.tslot k
    let b := q.base.getD 0 + o
    q.st == .ready && decide (o + n ≤ q.len) && (v == if y.bufPoison b n then none else some (y.bufNat b n))
  | .ext h d v => (y.handleBad h).isNone && (y.handle (h % 16)).desc.ext.getD d 0 == v
def Thread.glance (t : Thread) (g : Glance) : Thread :=
  { t with spec := t.spec.map (fun p => { p with seen := p.seen ++ [g] }) }
/-- DEDUCED (log entry 80): a speculation whose readings of slots and handles would be others now has met a conflict. -/
def Weave.review (w : Weave) (y : Team) : Weave :=
  { w with threads := w.threads.map (fun t => (t.1, { t.2 with spec := t.2.spec.map (fun p =>
      if p.seen.all (·.holds y) then p else { p with conflict := true }) })) }

/-! ### Scratchpads -/

/-- The mapping entry of a team that holds a scratchpad offset, with its number. -/
def Team.entryAt (t : Team) (o : Nat) : Option (Nat × MapEnt) :=
  t.maps.findSome? (fun m => if m.2.off ≤ o ∧ o < m.2.off + m.2.len then some (m.1, m.2) else none)

/-- Fill the line of an entry that holds offset `o` on its first access: from the backing memory, or
with zeros under spmapz (06 R194). Poison comes along. -/
def State.fillLine (s : State) (t o : Nat) : State :=
  match (s.team t).entryAt o with
  | none => s
  | some (e, m) =>
    let n := (o - m.off) / 128
    if m.filled.contains n then s
    else
      let base := m.off + n * 128
      let pa := (m.backing base).getD 0
      let zero := m.zero && !m.written.contains n
      let bytes := if zero then List.replicate 128 (0 : Byte)
        else (List.range 128).map (fun i => s.memByte (pa + i))
      let bad := if zero then [] else
        ((List.range 4).filter (fun i => s.memPoison (pa + i * 32))).map (fun i => base / 32 + i)
      let good := ((List.range 4).map (fun i => base / 32 + i)).filter (fun n => !bad.contains n)
      s.modTeam t (fun x => { x with
        spad := (bytes.zipIdx base).foldl (fun m e => tabPut 0 e.2 e.1 m) x.spad,
        spadPoison := bad.foldl (fun l n => insertNat n l)
          (x.spadPoison.filter (fun n => !good.contains n)),
        maps := tabSet e { m with filled := insertNat n m.filled } x.maps })
/-- What an access brings before it is performed: the line of a mapped scratchpad, or a borrowed line. -/
def State.touch (s : State) (l : Loc) : State :=
  match l with
  | .mem pa => s.lcBring pa
  | .spad t o => s.fillLine t o

/-- Mark the line of an entry dirty. -/
def Team.soil (t : Team) (o : Nat) : Team :=
  match t.entryAt o with
  | none => t
  | some (e, m) =>
    let n := (o - m.off) / 128
    { t with maps := tabSet e { m with dirty := insertNat n m.dirty, written := insertNat n m.written } t.maps }

/-- What the fill of the line of a scratchpad offset has still to bring: none where the banks hold the bytes, else
the backing address, none of it under spmapz (06 R194). -/
def Team.unfilled (t : Team) (o : Nat) : Option (Option Nat) :=
  match t.entryAt o with
  | none => none
  | some (_, m) =>
    let n := (o - m.off) / 128
    if m.filled.contains n then none
    else if m.zero && !m.written.contains n then some none else some (m.backing o)
/-- A byte as a read finds it: of a line not yet filled, what the fill brings. -/
def State.getByte (s : State) (l : Loc) : Byte :=
  match l with
  | .mem pa => s.memByte pa
  | .spad t o =>
    match (s.team t).unfilled o with
    | none => tabGet 0 o (s.team t).spad
    | some none => 0
    | some (some pa) => s.memByte pa
def State.putByte (s : State) (l : Loc) (b : Byte) : State :=
  match l with
  | .mem pa => s.setByte pa b
  | .spad t o => s.modTeam t (fun x => { x with spad := tabPut 0 o b x.spad }.soil o)
def State.isPoison (s : State) (l : Loc) : Bool :=
  match l with
  | .mem pa => s.memPoison pa
  | .spad t o =>
    match (s.team t).unfilled o with
    | none => (s.team t).spadPoison.contains (o / 32)
    | some none => false
    | some (some pa) => s.memPoison pa
def State.markPoison (s : State) (l : Loc) (on : Bool) : State :=
  match l with
  | .mem pa => s.setPoison pa on
  | .spad t o => s.modTeam t (fun x => { x with spadPoison :=
      (if on then insertNat (o / 32) x.spadPoison else x.spadPoison.filter (· != o / 32)) })

/-- The places of `n` bytes from a place on. -/
def Loc.span (l : Loc) (n : Nat) : List Loc := (List.range n).map l.add
/-- Bring every line that the places meet. -/
def State.touchAll (s : State) (ls : List Loc) : State := ls.foldl State.touch s
def State.getBytes (s : State) (l : Loc) (n : Nat) : List Byte := (l.span n).map s.getByte
def State.putBytes (s : State) (l : Loc) (bs : List Byte) : State :=
  (bs.zipIdx 0).foldl (fun s e => s.putByte (l.add e.2) e.1) s
def State.anyPoison (s : State) (ls : List Loc) : Bool := ls.any s.isPoison

/-- A little-endian number of `n` bytes of memory at a physical address, forwarding included. -/
def State.readPhys (s : State) (pa n : Nat) : Nat :=
  leNat ((List.range n).map (fun i => s.getByte (s.place (pa + i))))
/-- A priority inherited on a lock word that has changed ends (08 R278). -/
def State.endInherit (s : State) : State :=
  { s with contexts := s.contexts.map (fun x => (x.1, { x.2 with inherit := x.2.inherit.filter (fun i =>
      leNat (s.getBytes i.loc i.bytes) == i.val) })) }
/-- Write bytes at places, as an agent whose writes no other operation orders: what threads have read of them counts as
changed (08 R278, R293). -/
def State.writeAt (s : State) (bs : List (Loc × Byte)) : State :=
  let s := bs.foldl (fun s b => (s.touch b.1).putByte b.1 b.2) s
  (s.conflicts (bs.map (·.1)) (202, 0, 0) (fun _ _ => true)).endInherit
def State.writePhys (s : State) (pa n v : Nat) : State :=
  s.writeAt (((leBytes n v).zipIdx 0).map (fun e => (s.place (pa + e.2), e.1)))

/-- Write those dirty lines of a mapping entry that `sel` picks by their backing address to the backing memory. DESIGN
CHOICE (log entry 57): a mark that pois.clr has cleared in the scratchpad stays in the backing memory. -/
def State.spadWriteLines (s : State) (t e : Nat) (sel : Nat → Bool) : State :=
  match tabFind e (s.team t).maps with
  | none => s
  | some m =>
    let x := s.team t
    let picks := fun (n : Nat) => ((m.backing (m.off + n * 128)).map sel).getD false
    let out := m.dirty.filter picks
    let s := out.foldl (fun s n =>
      (List.range 128).foldl (fun s i =>
        match m.backing (m.off + n * 128 + i) with
        | some pa => s.setByte pa (tabGet 0 (m.off + n * 128 + i) x.spad)
        | none => s) s) s
    let s := out.foldl (fun s n =>
      (List.range 4).foldl (fun s i =>
        let o := m.off + n * 128 + i * 32
        match m.backing o with
        | some pa => if x.spadPoison.contains (o / 32) then s.setPoison pa true else s
        | none => s) s) s
    s.modTeam t (fun x => { x with maps := tabSet e { m with dirty := m.dirty.filter (fun n => !picks n) } x.maps })
/-- Write a mapping entry's dirty lines to its backing memory (06 R194, spwb). -/
def State.spadWriteBack (s : State) (t e : Nat) : State := s.spadWriteLines t e (fun _ => true)

/-- Accesses under way follow the directories: every place of a store, an atomic or a read set that
`f` moves (06 R195). -/
def StoreEnt.reroute (f : Loc → Loc) (e : StoreEnt) : StoreEnt :=
  { e with bytes := e.bytes.map (fun b => { b with loc := f b.loc }) }
def Spec.reroute (f : Loc → Loc) (p : Spec) : Spec :=
  { p with stores := p.stores.map (fun r => { r with
      bytes := r.bytes.map (fun b => (f b.1, b.2)), ceded := r.ceded.map (fun o => (o.1, f o.2)) }) }
def Weave.reroute (f : Loc → Loc) (w : Weave) : Weave :=
  { w with storeq := w.storeq.map (StoreEnt.reroute f)
           commitq := w.commitq.map (StoreEnt.reroute f)
           reads := w.reads.map (fun r => ((f r.1).sector, r.2))
           threads := w.threads.map (fun t => (t.1, { t.2 with spec := t.2.spec.map (Spec.reroute f) })) }
def Core.reroute (f : Loc → Loc) (k : Core) : Core :=
  { k with pending := k.pending.map (StoreEnt.reroute f)
           atoms := k.atoms.map (fun a => { a with lanes := a.lanes.map (fun l => { l with loc := f l.loc }) })
           weaves := k.weaves.map (fun w => (w.1, w.2.reroute f)) }
def State.reroute (s : State) (f : Loc → Loc) : State :=
  { s with cores := s.cores.map (fun k => (k.1, k.2.reroute f)) }

/-- A mapping entry is deregistered and made invalid, without any write (06 R194, spdrop). -/
def State.spadDrop (s : State) (t e : Nat) : State :=
  match tabFind e (s.team t).maps with
  | none => s
  | some m =>
    (s.modTeam t (fun x => { x with maps := tabErase e x.maps })).reroute (fun l => match l with
      | .spad u o => if u = t then ((m.backing o).map Loc.mem).getD l else l
      | l => l)
/-- Written back and unmapped (06 R194, spclr). -/
def State.spadClear (s : State) (t e : Nat) : State := (s.spadWriteBack t e).spadDrop t e

end Sys2Proof.Machine
end

