-- ==== Sys2Proof/Machine/Translate.lean ====
section
/-! DEFINITION. Translation: page tables, TLBs, leases and the checks of an access (02 R44, 06 R188,
R201 to R205, R210, 13 R434). -/

namespace Sys2Proof.Machine

/-- Who makes an access: the core, the context, whether it is the firmware agent, its team and gang
ticket. -/
structure Agent where
  core : Nat
  ctx : Nat
  fw : Bool
  team : Option Nat
  gtkt : Word
  deriving DecidableEq, Repr

/-- The agent that a weave's accesses are made for. The firmware agent's context is 0 (log entry 9). -/
def State.agent (s : State) (core slot : Nat) : Agent :=
  match (s.weave core slot).team with
  | none => { core := core, ctx := 0, fw := true, team := none, gtkt := 0 }
  | some t => let x := s.team t
    { core := core, ctx := x.ctx, fw := false, team := some t, gtkt := x.gtkt }

/-- The agent that an engine works for on behalf of a team, or of the firmware agent. -/
def State.teamAgent (s : State) (core ctx : Nat) (team : Option Nat) : Agent :=
  match team with
  | none => { core := core, ctx := ctx, fw := true, team := none, gtkt := 0 }
  | some t => { core := core, ctx := ctx, fw := false, team := some t, gtkt := (s.team t).gtkt }

/-! ### Page-table entries (06 Tables 9 and 10) -/

def bitAt (v n : Nat) : Bool := v / 2 ^ n % 2 == 1
def bitsAt (v lo n : Nat) : Nat := v / 2 ^ lo % 2 ^ n

/-- log2 of the page size of a leaf at a level. -/
def pageBits (level : Nat) : Nat := 19 + 10 * level
def leafLid (e : Nat) : Nat := bitsAt e 48 16
def leafMc (e : Nat) : Nat := bitsAt e 6 2
def leafFrame (e : Nat) : Nat := bitsAt e 11 37 * 2 ^ 19
def ptIndex (va level : Nat) : Nat :=
  if level = 3 then bitsAt va 49 8 else bitsAt va (19 + 10 * level) 10

/-- Local memory that can hold a table (06 R201). -/
def State.tableMemory (s : State) (pa : Nat) : Bool :=
  s.isLocal pa && localRegion (localAddr pa) != .regs && localRegion (localAddr pa) != .reserved

/-- Malformed leaf (06 R202). -/
def State.leafBad (s : State) (e level : Nat) : Bool :=
  level == 3 || leafFrame e % 2 ^ pageBits level != 0 ||
    (leafLid e != 0 && pkgAddr (leafFrame e) == s.pkg)
/-- Malformed table entry (06 R202). -/
def State.tableBad (s : State) (e level : Nat) : Bool :=
  level == 0 || bitsAt e 56 8 != 0 || bitsAt e 2 11 != 0 || !s.tableMemory (bitsAt e 0 56)

/-- A translation: the address, the leaf, its level and where it stands. -/
structure Xlat where
  pa : Nat
  leaf : Nat
  level : Nat
  pte : Nat
  deriving DecidableEq, Repr

/-- The end of a walk or a lookup. -/
inductive XRes
  | ok (x : Xlat)
  | fault (detail level : Nat)
  /-- the lookup hit a draining entry and waits (06 R206) -/
  | wait
  deriving DecidableEq, Repr

/-- Physical address of `va` under a leaf. -/
def leafAddr (leaf level va : Nat) : Nat := leafFrame leaf + va % 2 ^ pageBits level

/-- One entry of a walk: the end of the walk, or the next table. With `stall`, a table in a Larder bank group in refresh
keeps it waiting (06 R200). -/
def State.walkEntry (s : State) (stall : Bool) (va base level : Nat) : XRes ⊕ Nat :=
  let pte := base + 8 * ptIndex va level
  let e := s.readPhys pte 8
  if stall && s.refreshing pte then .inl .wait
  else if s.isPoison (s.place pte) then .inl (.fault 3 level)
  else if !bitAt e 0 then .inl (.fault 1 level)
  else if bitAt e 1 then
    if s.leafBad e level then .inl (.fault 2 level)
    else .inl (.ok { pa := leafAddr e level va, leaf := e, level := level, pte := pte })
  else if s.tableBad e level then .inl (.fault 2 level)
  else .inr (bitsAt e 13 43 * 2 ^ 13)

/-- The walk in memory from the table at `base` (06 R201, R202, R204). -/
def State.walkFrom (s : State) (stall : Bool) (va : Nat) : Nat → Nat → XRes
  | 0, base =>
    match s.walkEntry stall va base 0 with
    | .inl r => r
    | .inr _ => .fault 2 0
  | n + 1, base =>
    match s.walkEntry stall va base (n + 1) with
    | .inl r => r
    | .inr b => s.walkFrom stall va n b

/-- A walk of a context's page table; a root outside local memory ends it as malformed. -/
def State.walkWith (s : State) (stall : Bool) (ctx va : Nat) : XRes :=
  let root := bitsAt (s.context ctx).ptroot.toNat 11 45 * 2 ^ 11
  if s.tableMemory root then s.walkFrom stall va 3 root else .fault 2 3
def State.walk (s : State) (ctx va : Nat) : XRes := s.walkWith true ctx va
/-- The walk of an action whose step takes in the waits for its tables. -/
def State.walkNow (s : State) (ctx va : Nat) : XRes := s.walkWith false ctx va

/-- The device's atomic update of A, and of D for a store (06 R204). -/
def State.markLeaf (s : State) (x : Xlat) (store : Bool) : State × Xlat :=
  let l := if bitAt x.leaf 8 then x.leaf else x.leaf + 2 ^ 8
  let l := if store && !bitAt l 9 then l + 2 ^ 9 else l
  if l = x.leaf then (s, x) else (s.writePhys x.pte 8 l, { x with leaf := l })
/-- The update waits for holds that agents other than `core` have on the line of the entry (07 R251). -/
def State.markWaits (s : State) (core : Nat) (x : Xlat) (store : Bool) : Bool :=
  (!bitAt x.leaf 8 || (store && !bitAt x.leaf 9)) && s.heldLoc core (s.place x.pte)

/-! ### TLBs (06 R205; log entry 11) -/

def TlbEnt.covers (e : TlbEnt) (ctx va : Nat) : Bool :=
  (e.ctx == ctx || bitAt e.leaf.toNat 10) &&
    (va % 2 ^ 57) / 2 ^ pageBits e.level == (e.va % 2 ^ 57) / 2 ^ pageBits e.level
def TlbEnt.xlat (e : TlbEnt) (va : Nat) : Xlat :=
  { pa := leafAddr e.leaf.toNat e.level va, leaf := e.leaf.toNat, level := e.level, pte := e.pte }
def Xlat.entry (x : Xlat) (ctx va : Nat) : TlbEnt :=
  { ctx := ctx, va := va, level := x.level, leaf := BitVec.ofNat 64 x.leaf, pte := x.pte }

/-- Keep the newest `n` entries. -/
def keepLast {α : Type} (n : Nat) (l : List α) : List α := l.drop (l.length - n)
/-- The set of the die TLB that an entry stands in: one of 1024, chosen by its page. -/
def TlbEnt.set (e : TlbEnt) : Nat := Config.dieTlbSet ((e.va % 2 ^ 57) / 2 ^ pageBits e.level) % 1024
/-- An entry enters the die TLB: a set keeps its newest 8 (06 R205). -/
def dieEnter (e : TlbEnt) (l : List TlbEnt) : List TlbEnt :=
  if l.length < 8 then l ++ [e]
  else
    let mine := keepLast 7 (l.filter (fun f => f.set == e.set))
    l.filter (fun f => f.set != e.set || mine.contains f) ++ [e]
def State.fillTlb (s : State) (core ctx va : Nat) (x : Xlat) : State :=
  s.modCore core (fun k => { k with
    tlb := keepLast 256 (k.tlb.filter (fun e => !(e.covers ctx va) || e.draining) ++ [x.entry ctx va]) })
def State.fillDieTlb (s : State) (core ctx va : Nat) (x : Xlat) : State :=
  s.modDie (dieOf core) (fun d => { d with
    dieTlb := dieEnter (x.entry ctx va) (d.dieTlb.filter (fun e => !(e.covers ctx va))) })
/-- A die TLB entry stands while memory holds the leaf it caches: a store to the entry's address
invalidates it. -/
def State.dieLookup (s : State) (core ctx va : Nat) : Option Xlat :=
  ((s.die (dieOf core)).dieTlb.find? (fun e =>
    e.covers ctx va && s.readPhys e.pte 8 == e.leaf.toNat)).map (fun e => e.xlat va)

/-- Die TLB, then the walk, filling both TLBs. -/
def State.walkFill (s : State) (core ctx va : Nat) : State × XRes :=
  match (match s.dieLookup core ctx va with
    | some x => XRes.ok x
    | none => s.walk ctx va) with
  | .ok x =>
    if s.markWaits core x false then (s.waitLines [s.place x.pte], .wait) else
    let r := s.markLeaf x false
    ((r.1.fillDieTlb core ctx va r.2).fillTlb core ctx va r.2, .ok r.2)
  | .fault d l => (s, .fault d l)
  | .wait => (s, .wait)

/-- An access of the core is on its way to a lender: it was made under an earlier translation (06 R207, R211). -/
def Core.lending (k : Core) : Bool := k.weaves.any (fun w => w.2.threads.any (fun t => t.2.lend.isSome ||
  ((t.2.frame.bind (·.lend)).isSome)))
/-- Every access and store that the core has made under its translations has completed (06 R207). -/
def Core.settled (k : Core) : Bool :=
  k.pending.isEmpty && k.atoms.isEmpty && k.weaves.all (fun w => w.2.storeq.isEmpty && w.2.commitq.isEmpty) && !k.lending
/-- The I/O die, as the agent of a lease shootdown's marks. -/
def leaseAgent : Nat × Bool := (4096, true)
/-- The second phase of a lease shootdown: a core that has settled loses the entries that the first has marked (06 R211). -/
def State.endShoot (s : State) (core : Nat) : State :=
  if (s.core core).settled then
    s.modCore core (fun k => { k with tlb := k.tlb.filter (fun e => !(e.draining && e.mark.contains leaseAgent)) })
  else s
/-- Translate (06 R188): core TLB, die TLB, walk. -/
def State.translate (s : State) (core ctx va : Nat) : State × XRes :=
  match (s.core core).tlb.find? (fun e => e.covers ctx va) with
  | some e =>
    if !e.draining then (s, .ok (e.xlat va))
    else if e.mark.contains leaseAgent && (s.core core).settled then (s.endShoot core).walkFill core ctx va
    else (s, .wait)
  | none => s.walkFill core ctx va

/-- A store that will use an entry whose D is 0 walks again and sets D (06 R204). -/
def State.dirtied (s : State) (core ctx va : Nat) (x : Xlat) : State × XRes :=
  if bitAt x.leaf 9 then (s, .ok x)
  else match s.walk ctx va with
    | .ok x =>
      if s.markWaits core x true then (s.waitLines [s.place x.pte], .wait) else
      let r := s.markLeaf x true
      ((r.1.fillDieTlb core ctx va r.2).fillTlb core ctx va r.2, .ok r.2)
    | r => (s, r)

/-! ### Leases (06 R210, R211) -/

def State.leaseDetail (s : State) (lid : Nat) : Option Nat :=
  let e := s.borrower (lid % 2 ^ 12)
  if e.st != 2 then some 1 else if e.gen != lid / 2 ^ 12 then some 2 else none

/-- A link takes a request: it is not reported down, the channel of requests is not paused, and the receiver accepts
flits (13 R430). -/
def Garef.passes (g : Garef) : Bool := !g.reported && !(g.paused.getD 0 false) && g.window.getD 0 0 != 0
/-- The pieces of a handle that touch bytes [pa, pa + n) of a page. -/
def Handle.touches (h : Handle) (p : TilePage) (pa n : Nat) : Bool :=
  let lo := max p.pa pa
  let hi := min (p.pa + 2 ^ p.bits) (pa + n)
  decide (lo < hi) && h.pieces.any (fun q => pieceTouch h.desc q (p.va + (lo - p.pa)) (p.va + (hi - 1 - p.pa)))
/-- A handle of this package holds a piece in the physical range. -/
def State.tenureIn (s : State) (pa n : Nat) : Bool :=
  s.dirs.any (fun d => (tabGet {} d.handle (s.team d.team).handles).touches d.page pa n)
/-- The time has come at which the lender of a borrower entry commits a recall, unless directories have still to recall
tenure there: that comes first (07 R245; log entry 19). -/
def State.lenderReady (s : State) (i : Nat) : Bool :=
  let b := s.borrower i
  b.st == 2 && decide (Config.lenderCommits (b.peer * 4096 + b.ext) b.granted ≤ s.time)
def State.lenderCommits (s : State) (i : Nat) : Bool :=
  let b := s.borrower i
  s.lenderReady i && !s.tenureIn (extentAddr b.peer b.ext) 0x20000000
/-- What becomes of an access that goes to another package: `none` it is served, by the lease cache where that has the line,
`some 3` the lender refuses it as revoked, `some 4` no answer has come (13 R422; log entry 19). -/
def State.remoteRefusal (s : State) (pa : Nat) : Option Nat :=
  if s.isLocal pa then none
  else
    let p := pkgAddr pa
    let gone := match extentOf pa with
      | some e => (s.peer p).revoked.contains e || s.borrowers.any (fun b => b.2.st == 2 && b.2.peer == p && b.2.ext == e &&
          s.lenderCommits b.1)
      | none => false
    if gone then some 3
    else if s.lcHit pa then none
    else if (tabGet ({} : Garef) (Config.garefPort p) s.garef).passes && Config.peerAnswers s.time p then none else some 4
/-- A back-invalidate snoop goes out to the holder of a copy, unless one already has. -/
def Snoop.send (x : Snoop) (now : Nat) : Snoop := if x.pending then x else { x with pending := true, asked := now }
/-- An agent of this package meets a line that a borrower or a host has a copy of: a back-invalidate snoop
goes out, and the access waits for the answer (13 R422, R431). -/
def State.snooped (s : State) (l : Loc) : Bool :=
  match l with
  | .mem pa => s.snoops.any (fun x => x.line == pa / 128)
  | .spad _ _ => false
def State.snoop (s : State) (l : Loc) : State :=
  match l with
  | .mem pa => { s with snoops := s.snoops.map (fun x => if x.line = pa / 128 then x.send s.time else x) }
  | .spad _ _ => s

/-- Lease shootdown, its first phase: no die TLB of the package keeps an entry with this borrower entry, and the core TLBs
drain theirs (06 R211). -/
def State.leaseShoot (s : State) (entry : Nat) : State :=
  let gone := fun (e : TlbEnt) => leafLid e.leaf.toNat != 0 && leafLid e.leaf.toNat % 2 ^ 12 == entry
  { s with
    cores := s.cores.map (fun e => (e.1, { e.2 with tlb := e.2.tlb.map (fun x =>
      if gone x then { x with draining := true, mark := leaseAgent :: x.mark } else x) })),
    dies := s.dies.map (fun e => (e.1, { e.2 with dieTlb := e.2.dieTlb.filter (fun x => !gone x) })) }

/-! ### The checks of an access (06 R188, R189; 02 R44) -/

/-- An access: what it does and what it admits. -/
structure Acc where
  rd : Bool := false
  wr : Bool := false
  fetch : Bool := false
  /-- accepted on synchronisation-class and on device-class pages (06 Table 11) -/
  sync : Bool := true
  dev : Bool := false
  /-- AlignOf and the bytes of the access -/
  align : Nat := 1
  size : Nat := 1
  /-- remote-scratch window and scratchpad mappings are looked at (06 R175, R196) -/
  routes : Bool := true
  /-- a window address is refused (06 R196) -/
  noWindow : Bool := false
  /-- the access goes on to its home; a translation alone asks no lender -/
  reach : Bool := true
  /-- an atomic, refused on a Larder page whoever makes it (08 R273) -/
  atomic : Bool := false
  deriving DecidableEq, Repr

/-- How the checks of one lane end. -/
inductive Chk
  | ok (loc : Loc) (leaf : Nat)
  /-- a trap at a step of 06 R188 -/
  | bad (step cause detail : Nat)
  /-- a page fault (1) or lease fault (2) with detail, level and lease identifier -/
  | fault (cause detail level lid : Nat) (scr : Bool)
  | wait
  /-- the lender that keeps the bytes of a translation has not answered (06 R211); `scr`: the fill of a scratchpad line -/
  | lender (t : Xlat) (scr : Bool)
  deriving DecidableEq, Repr

def trapAlign : Nat := 6
def trapPoison : Nat := 7
def trapProt : Nat := 8

/-- The failing rules of Permitted, as detail codes, lowest first. -/
def permDetails (a : Agent) (x : Acc) (leaf pa : Nat) : List Nat :=
  let mc := leafMc leaf
  (if x.rd && !bitAt leaf 2 then [3] else []) ++
  (if x.wr && (!bitAt leaf 3 || (!a.fw && bitAt leaf 4)) then [4] else []) ++
  (if !a.fw && !bitAt leaf 5 then [5] else []) ++
  (if x.wr && (!a.fw || x.atomic) && larderAddr pa then [6] else []) ++
  (if (mc == 1 && !x.sync) || (mc == 2 && !x.dev) then [7] else []) ++
  (if x.fetch && !bitAt leaf 4 then [0x0C] else [])

/-- FirewallAllows (06 R188, 13 R434). -/
def State.firewall (s : State) (a : Agent) (pa : Nat) : Bool :=
  a.fw || s.tag pa == 0 || s.tag pa == a.gtkt

/-- The access is not refused: it is served, or has to wait for its lender. -/
def Chk.passes : Chk → Bool
  | .ok _ _ | .lender _ _ => true
  | _ => false

/-- The steps of 06 R188 after translation. -/
def State.checkPage (s : State) (a : Agent) (x : Acc) (t : Xlat) : Chk :=
  let lid := leafLid t.leaf
  match (if lid = 0 then none else s.leaseDetail lid) with
  | some d => .fault 2 d t.level lid false
  | none =>
    if reservedAddr t.pa then .bad 5 trapProt 2
    else match permDetails a x t.leaf t.pa with
      | d :: _ => .bad 6 trapProt d
      | [] =>
        if !s.firewall a t.pa then .bad 7 trapProt 0x20
        else if leafMc t.leaf = 3 then .bad 8 trapPoison 0
        else match (if x.reach then s.remoteRefusal t.pa else none) with
          | some 3 => .fault 2 3 t.level lid false
          | some _ => .lender t false
          | none => .ok (s.place t.pa) t.leaf

/-- RSWIN of an agent's gang, 0 for none. -/
def State.rswin (s : State) (a : Agent) : Nat :=
  match a.team with
  | some t => (s.team t).rswin
  | none => 0

/-- An address inside the remote-scratch window. -/
def State.windowHit (s : State) (a : Agent) (ea : Nat) : Bool :=
  let b := s.rswin a
  b != 0 && decide (b ≤ ea ∧ ea < b + 2 ^ 28)

/-- A window access (06 R196). -/
def State.checkWindow (s : State) (a : Agent) (x : Acc) (ea : Nat) : Chk :=
  if x.noWindow then .bad 3 trapProt 0x0B
  else
    let o := (ea - s.rswin a) % 2 ^ 22
    match (a.team.bind (fun t => s.findGang (s.team t).gang)).bind (fun g =>
      g.teams[(ea - s.rswin a) / 2 ^ 22]?) with
    | none => .bad 3 trapProt 0x0B
    | some g =>
      if g.completed then .bad 3 trapProt 0x0B
      else if (s.findTeam g.team).isNone then .wait
      else if o + x.size ≤ Config.bankBytes * (s.team g.team).spadBanks.length then .ok (.spad g.team o) 0
      else .bad 3 trapProt 0x0B

/-- The scratchpad offset of an address inside a mapping entry of the team (06 R175). -/
def Team.scratchHit (t : Team) (ea : Nat) : Option Nat :=
  t.maps.findSome? (fun m => if m.2.va ≤ ea ∧ ea < m.2.va + m.2.len then
    some (m.2.off + (ea - m.2.va)) else none)

/-- What the fill of the line of a scratchpad offset reads: the translation of its first byte not yet in the banks. -/
def Team.fillSource (t : Team) (o : Nat) : Option Xlat :=
  (t.unfilled o).bind (fun b => b.bind (fun pa => ((t.entryAt o).bind (fun e => e.2.segAt o)).map (fun g =>
    { pa := pa, leaf := g.leaf, level := g.level, pte := 0 })))
/-- The fill of a line from a borrowed extent whose lease has ended faults, and one from a lender that does not answer
waits (06 R211, Table 12, SCR). -/
def State.fillFault (s : State) (t o : Nat) : Option (Nat × Xlat) :=
  ((s.team t).fillSource o).bind (fun x => (s.remoteRefusal x.pa).map (fun n => (n, x)))

/-- A mapped scratchpad access, with its fill. -/
def State.checkScratch (s : State) (t o : Nat) : Chk :=
  match s.fillFault t o with
  | some (3, x) => .fault 2 3 x.level (leafLid x.leaf) true
  | some (_, x) => .lender x true
  | none => .ok (.spad t o) 0

/-- The same, once a copy of the line that a borrower or a host has is given up, where the fill reads it (13 R422). -/
def State.checkFill (s : State) (t o : Nat) : State × Chk :=
  match (s.team t).unfilled o with
  | some (some pa) => if s.snooped (.mem pa) then (s.snoop (.mem pa), .wait) else (s, s.checkScratch t o)
  | _ => (s, s.checkScratch t o)

/-- The checks of one lane's access at `ea` in the order of 06 R188. -/
def State.check (s : State) (a : Agent) (x : Acc) (ea : Nat) : State × Chk :=
  if !canonical ea then (s, .bad 1 trapProt 1)
  else if ea % x.align ≠ 0 then (s, .bad 2 trapAlign 0)
  else if x.routes && s.windowHit a ea then
    match s.checkWindow a x ea with
    | .ok (.spad t o) _ => s.checkFill t o
    | c => (s, c)
  else
    match (if x.routes then a.team.bind (fun t => ((s.team t).scratchHit ea).map (fun o => (t, o))) else none) with
    | some (t, o) => s.checkFill t o
    | none =>
      match s.translate a.core a.ctx ea with
      | (s, .ok t) =>
        let k := s.checkPage a x t
        if !k.passes then (s, k)
        else if x.reach && s.snooped (s.place t.pa) then (s.snoop (s.place t.pa), .wait)
        else if !x.wr then (s, k)
        else match s.dirtied a.core a.ctx ea t with
          | (s, .ok u) => (s, s.checkPage a x u)
          | (s, .fault d l) => (s, .fault 1 d l 0 false)
          | (s, .wait) => (s, .wait)
      | (s, .fault d l) => (s, .fault 1 d l 0 false)
      | (s, .wait) => (s, .wait)

/-- The checks of a list of addresses, first to last. -/
def State.checkList (s : State) (a : Agent) (x : Acc) : List Nat → State × List Chk
  | [] => (s, [])
  | e :: t =>
    let r := s.check a x e
    let q := r.1.checkList a x t
    (q.1, r.2 :: q.2)

/-- The trap of 06 R189 among the lanes' results: cause, detail and lanes. -/
def pickTrap (rs : List (Nat × Chk)) : Option (Nat × Nat × List Nat) :=
  let bads := rs.filterMap (fun r => match r.2 with
    | .bad s c d => some (r.1, s, c, d)
    | _ => none)
  match bads.foldl (fun (m : Option (Nat × Nat)) b => match m with
      | none => some (b.2.1, b.2.2.1)
      | some (s, c) => if b.2.1 < s then some (b.2.1, b.2.2.1) else some (s, c)) none with
  | none => none
  | some (_, c) =>
    let l := bads.filter (fun b => b.2.2.1 = c)
    some (c, (l.head?.map (fun b => b.2.2.2)).getD 0, l.map (·.1))

/-- An instruction fetch's page checks (02 R44): no window, no scratchpad mapping. -/
def fetchAcc : Acc := { fetch := true, align := 8, size := 8, routes := false }

/-! ### Writes of the device as a whole (07 R251) -/

/-- Lines that a state holds other bytes of than `s`, and of which keepers other than `core` have a copy under a hold, or a
borrower or a host has one: the writes must wait (07 R251, 13 R422). -/
def State.heldWrites (s : State) (core : Nat) (t : State) : List Nat :=
  (((s.holds.filter (fun h => h.core != core && h.live s.time)).map (·.line) ++ s.snoops.map (·.line)).dedup).filter (fun n =>
    (List.range 128).any (fun i => t.memByte (n * 128 + i) != s.memByte (n * 128 + i)))
/-- An action of the device as a whole waits while its writes have to. -/
def State.afterHolds (s : State) (core : Nat) (t : State) : State :=
  match s.heldWrites core t with
  | [] => t
  | ls => ls.foldl (fun s n => (s.waitLine n).snoop (.mem (n * 128))) s
/-- No agent's own copy: for writes of the I/O die. -/
def ioDie : Nat := 4096

end Sys2Proof.Machine
end

