-- ==== Sys2Proof/Machine/Teams.lean ====
section
/-! DEFINITION. Ending teams, launches and contexts: what a flush discards (12 R385, R391, R393), team
tickets (12 R393) and completion records (12 R402). -/

namespace Sys2Proof.Machine

/-! ### Team tickets (12 Table 8) -/

def State.ticketWord (s : State) (addr n : Nat) : Nat := s.readPhys (s.fabric (addr + 8 * n)) 8
def State.ticketState (s : State) (addr : Nat) : Nat := s.ticketWord addr 2 % 16
/-- The reserved fields of a ticket are zero: on any other the device does not act (00 R9). -/
def State.ticketSound (s : State) (addr : Nat) : Bool :=
  (List.range 4).all (fun n => s.ticketWord addr (4 + n) == 0) && bitsAt (s.ticketWord addr 2) 48 16 == 0 &&
    bitsAt (s.ticketWord addr 2) 4 28 == 0 && bitsAt (s.ticketWord addr 1) 16 2 == 0
def State.setTicketState (s : State) (addr st : Nat) : State :=
  s.writePhys (s.fabric (addr + 16)) 8 (s.ticketWord addr 2 / 16 * 16 + st)

/-! ### Discarding a team -/

/-- The stores of a weave that its core has not yet made visible to its other weaves, oldest first. -/
def Weave.queued (w : Weave) : List StoreEnt := w.storeq ++ w.commitq
/-- The queue takes in what waits for free entries (06 R187). -/
def Weave.takeIn (w : Weave) : Weave :=
  let n := Config.storeQueue - w.storeq.length
  { w with storeq := w.storeq ++ w.commitq.take n, commitq := w.commitq.drop n }

/-- The store entries of a weave that leaves: they stay on their way to memory (03 R109, 12 R385). -/
def Core.releaseStores (k : Core) (slot : Nat) : Core :=
  { k with pending := k.pending.map (fun e => if e.slot = slot then { e with slot := 48 } else e) ++
      (k.weave slot).queued.map (fun e => { e with slot := 48 }),
           weaves := tabErase slot k.weaves,
           deferred := k.deferred.filter (fun d => d.slot != slot),
           atoms := k.atoms.map (fun a => if a.slot = slot then { a with slot := 48 } else a) }

/-- What a weave has still in its queue becomes visible to the other weaves of its core (08 R257, R293). -/
def State.showStores (s : State) (c slot : Nat) : State :=
  (s.weave c slot).queued.foldl (fun s e => s.entryConflicts c e (fun c' w' => c' == c && w' != slot)) s

/-- Role bits of a set of banks cleared: they fall back to the cache role (06 R192). -/
def clearRoles (role : DWord) (banks : List Nat) : DWord :=
  banks.foldl (fun r b => r &&& ~~~(3#64 <<< (2 * b))) role
def setRoles (role : DWord) (banks : List Nat) (code : Nat) : DWord :=
  banks.foldl (fun r b => (r &&& ~~~(3#64 <<< (2 * b))) ||| (BitVec.ofNat 64 code <<< (2 * b))) role

/-- Discard a team's part of its core. -/
def Core.dropTeam (k : Core) (t : Nat) : Core :=
  match tabFind t k.teams with
  | none => k
  | some x =>
    let mine := (k.cmds.filter (fun c => c.team = some t)).map (·.id)
    let k := { x.slots.foldl Core.releaseStores k with
      teams := tabErase t k.teams
      bankrole := clearRoles k.bankrole (x.spadBanks ++ x.bufBanks ++ x.garBanks)
      flt := k.flt.filter (fun r => !x.slots.contains (bitsAt r.w2.toNat 10 6))
      eflt := k.eflt.filter (fun r => !((k.cmds.filter (fun c => c.team = some t)).any (fun c =>
        c.parked.any (fun p => p.record = r.idx && p.action.isNone))) &&
        !((x.matq.any (·.fault)) && (r.idx = 1024 || r.idx = 1025)))
      signs := k.signs.filter (fun g => g.team != t)
      cmds := k.cmds.filter (fun c => c.team != some t)
      bufs := k.bufs.filter (fun b => !mine.contains b.cmd) }
    k

/-- Take a team and all that stands for it off a core. -/
def State.removeTeam (s : State) (c t : Nat) : State :=
    let stuck := s.dies.any (fun d => d.2.blocks.any (fun b => b.team = t && b.fault))
    let s := (s.team t).slots.foldl (fun s w => s.showStores c w) s
    let s := s.modCore c (fun k => { k.dropTeam t with
      eflt := (k.dropTeam t).eflt.filter (fun r => !(stuck && r.idx = 1026)) })
    { s with
      dies := s.dies.map (fun d => (d.1, { d.2 with
        blocks := d.2.blocks.filter (fun b => b.team != t),
        traps := d.2.traps.filter (fun b => b.team != t) }))
      dirs := s.dirs.filter (fun d => d.team != t)
      dirReqs := s.dirReqs.filter (fun d => d.team != t) }
/-- Discard a team: its weaves, engines' work for it, mappings (as by spclr), handles and records of
the directories. Writes already made stand. -/
def State.dropTeam (s : State) (t : Nat) : State :=
  match s.findTeam t with
  | none => s
  | some (c, x) => ((x.maps.map (·.1)).foldl (fun s e => s.spadClear t e) s).removeTeam c t

/-! ### The end of a launch -/

/-- The physical runs of a listed buffer: of its pages that translate. -/
def State.bufferRuns (s : State) (ctx base len : Nat) : List (Nat × Nat) :=
  (List.range ((base + len + 2 ^ 19 - 1) / 2 ^ 19 - base / 2 ^ 19)).filterMap (fun i =>
    let a := max base ((base / 2 ^ 19 + i) * 2 ^ 19)
    match s.walkNow ctx a with
    | .ok x => some (x.pa, min (base + len) ((base / 2 ^ 19 + i + 1) * 2 ^ 19) - a)
    | _ => none)
/-- A line lies in one of the runs, in part at least. -/
def lineIn (runs : List (Nat × Nat)) (pa : Nat) : Bool :=
  runs.any (fun r => decide (r.1 < pa / 128 * 128 + 128 ∧ pa / 128 * 128 < r.1 + r.2))
/-- The dirty lines of scratchpads and of the lease cache that a buffer covers are written to memory
(12 Table 12A, MODE 10 and 11). -/
def State.flushBuffer (s : State) (ctx base len : Nat) : State :=
  let runs := s.bufferRuns ctx base len
  let s := s.cores.foldl (fun s e => e.2.teams.foldl (fun s t =>
    t.2.maps.foldl (fun s m => s.spadWriteLines t.1 m.1 (lineIn runs)) s) s) s
  (s.lcache.filter (fun c => lineIn runs (c.line * 128))).foldl State.lcFlush s

/-- The completion record (12 R402, Table 12). -/
def State.writeRecord (s : State) (l : Launch) (status reason cause : Nat) : State :=
  let crec := (l.words.getD 5 0).toNat
  let s := l.bufs.foldl (fun s b => if 2 ≤ b.2.2 then s.flushBuffer l.ctx b.1 b.2.1 else s) s
  if crec % 32 != 0 || !canonical crec then s
  else match s.walkNow l.ctx crec with
    | .ok x =>
      let s := (s.markLeaf x true).1
      let deadline := (l.words.getD 2 0).toNat
      let late := bitsAt ((s.queue l.queue).words.getD 1 0).toNat 0 3 == 0 && decide (deadline < s.time)
      let w0 := status % 256 + reason % 256 * 2 ^ 8 + cause % 256 * 2 ^ 16 +
        (if late then 2 ^ 24 else 0) + l.done % 2 ^ 32 * 2 ^ 32
      let pa := x.pa
      (((s.writePhys pa 8 w0).writePhys (pa + 8) 8 s.time).writePhys (pa + 16) 8 0).writePhys (pa + 24) 8 0
    | _ => s

/-- The thread of the queue processor that serves a queue is awake: its own, or the standby that has adopted it (12 R406). -/
def State.beat (s : State) (q : Nat) : State :=
  { s with sched := { s.sched with
    heart := tabSet (if s.sched.adopted.contains q then s.sched.standby else q) s.time s.sched.heart } }
/-- An entry of the journal, which holds 8192 of them, by the thread of a queue (12 R406; log entry 43): 1 a packet taken in,
2 a gang committed, 3 a ticket posted, 4 a core reserved, 5 a reservation rolled back, 6 a gang completed, 7 a completion
record. -/
def State.journal (s : State) (q kind a b : Nat) : State :=
  ({ s with sched := { s.sched with journal := keepLast 8192 (s.sched.journal ++ [(kind, a, b)]) } } : State).beat q
def State.pushLaunch (s : State) (l : Launch) : State := { s with launches := s.launches ++ [l] }
/-- End a launch packet once (12 R402). -/
def State.endLaunch (s : State) (id status reason cause : Nat) : State :=
  match s.findLaunch id with
  | none => s
  | some l =>
    if l.ended then s
    else ((s.journal l.queue 7 id status).writeRecord l status reason cause).modLaunch id (fun l => { l with ended := true })

/-- No agent holds this ticket claimed any more. -/
def State.dropClaim (s : State) (a : Nat) : State :=
  { s with cores := s.cores.map (fun k => (k.1, { k.2 with fwTickets := k.2.fwTickets.filter (fun b => b != a) })) }
/-- Flush every team of a launch, placed, saved or still to be placed; their tickets stand at STATE 5
(12 R385, R391). -/
def State.flushLaunch (s : State) (id : Nat) : State :=
  let teams := (s.cores.map (fun e => e.2.teams.filter (fun t => t.2.launch = id))).flatten
  let s := teams.foldl (fun s t => s.dropTeam t.1) s
  let open_ := ((s.gangs.filter (fun g => g.launch = id)).map (fun g => g.teams.filter (fun e => !e.reported))).flatten
  let s := open_.foldl (fun s e => (s.setTicketState e.ticket 5).dropClaim e.ticket) s
  { s with saved := s.saved.filter (fun v => v.team.launch != id),
           gangs := s.gangs.filter (fun g => g.launch != id) }

/-- A context kill (12 R385): every launch of the context that has been taken in ends, and no core TLB keeps an entry of it
(06 R205). -/
def State.contextKill (s : State) (ctx reason cause : Nat) : State :=
  let ids := (s.launches.filter (fun l => l.ctx = ctx && !l.ended)).map (·.id) ++
    (s.cores.map (fun e => (e.2.teams.filter (fun t => t.2.ctx = ctx)).map (·.2.launch))).flatten
  let s := ids.foldl (fun s id => (s.flushLaunch id).endLaunch id 4 reason cause) s
  { s with
    cores := s.cores.map (fun k => (k.1, { k.2 with tlb := k.2.tlb.filter (fun e => e.ctx != ctx) })),
    queues := s.queues.map (fun q =>
      if bitsAt (q.2.words.getD 1 0).toNat 48 16 = ctx then (q.1, { q.2 with active := false, stopped := true })
      else q) }

/-- A double trap of the firmware agent resets it; its claimed tickets return to STATE 0 (12 R386). DESIGN CHOICE (log entry
75): the reset takes its weave and its results still to come; its queued stores are dropped, and fw.trap, cc0 to cc15, cp.err and the
events of fwidle stay. -/
def State.resetAgent (s : State) (c : Nat) : State :=
  let s := (s.core c).fwTickets.foldl (fun s a => s.setTicketState a 0) s
  s.modCore c (fun k => { k with weaves := tabSet Config.agentSlot Weave.agent k.weaves,
                                 deferred := k.deferred.filter (fun d => d.slot != Config.agentSlot),
                                 fwTickets := [] })

end Sys2Proof.Machine
end

