-- ==== Sys2Proof/Machine/Ops.lean ====
section
/-! DEFINITION. The shared operations of issue: registers and predicates, joins and exits (03), trap
entry and return (12 R381 to R386), parking (03 R94, 06 R212), deferred results (02 R55), speculation
(08 R290 to R296), and the checks of an issue group (02 R75). -/

namespace Sys2Proof.Machine

/-! ### Join entries (03 R90 to R93) -/

/-- Remove a lane from one entry. -/
def JoinEnt.drop (e : JoinEnt) (l : Nat) : JoinEnt :=
  { e with members := e.members &&& ~~~(1#32 <<< l), arrived := e.arrived &&& ~~~(1#32 <<< l) }
/-- Remove a lane from every entry, freeing those left empty (03 R93). -/
def dropJoins (l : Nat) (js : List JoinEnt) : List JoinEnt :=
  (js.map (fun e => e.drop l)).filter (fun e => e.members != 0)
/-- Make a lane a member of (T, D) that has not arrived, with a new entry where none exists. -/
def putJoin (t : DWord) (d : BitVec 16) (l : Nat) (js : List JoinEnt) : List JoinEnt :=
  if js.any (fun e => e.target == t && e.depth == d) then
    js.map (fun e => if e.target == t && e.depth == d then
      { e with members := e.members ||| (1#32 <<< l) } else e)
  else js ++ [{ target := t, depth := d, members := 1#32 <<< l, arrived := 0 }]
/-- Add a lane to the entry (T, D), taking a free entry where none exists (03 R91); `kept` entries of the
table are not free. -/
def addJoin (kept : Nat) (t : DWord) (d : BitVec 16) (l : Nat) (js : List JoinEnt) : List JoinEnt :=
  if js.any (fun e => e.target == t && e.depth == d) || decide (js.length + kept < Config.joinEntries) then putJoin t d l js
  else js
/-- The entries released in speculation that a checkpoint still names are kept for its rollback: a rollback
restores every membership (03 R98; log entry 54). -/
def Weave.keptJoins (w : Weave) : Nat :=
  (((w.threads.map (fun t => (t.2.spec.map (·.joins)).getD [])).flatten.filter (fun k =>
    !w.joins.any (fun e => e.target == k.1 && e.depth == k.2))).dedup).length
/-- An entry all of whose members have arrived. -/
def JoinEnt.full (e : JoinEnt) : Bool := e.members == e.arrived
/-- Release the entries that are full: their members become ready (03 R92, R93). -/
def Weave.releaseJoins (w : Weave) : Weave :=
  (w.joins.filter JoinEnt.full).foldl (fun w e =>
    { (lanesOf e.members).foldl (fun w l => w.modThread l (fun t => { t with mode := .ready })) w with
      joins := w.joins.filter (fun x => !(x.target == e.target && x.depth == e.depth)) }) w
/-- A lane exits: every entry drops it, and those it held back are released (03 R93, R109). -/
def Weave.exitLane (w : Weave) (l : Nat) : Weave :=
  ({ w.modThread l (fun t => { t with mode := .exited, spec := none }) with
      joins := dropJoins l w.joins }).releaseJoins

/-! ### Deferred results (02 R55, 06 R216) -/

/-- A poisoned load leaves its mark in the weave's poison record (06 R216). DESIGN CHOICE (log entry 68): of several, the one
whose result comes first is the first. -/
def Weave.poisonRecord (w : Weave) (pc va : DWord) : Weave :=
  if w.trPpc = 0 then { w with trPpc := pc, trPva := va } else w
/-- The same for a load of lane `l`; one made in a speculation that still goes on counts from its commit on (08 R297). -/
def Weave.poisonLane (w : Weave) (l : Nat) (spec : Bool) (pc va : DWord) : Weave :=
  if spec && (w.thread l).spec.isSome then w.modThread l (fun t => { t with
    spec := t.spec.map (fun p => { p with poison := p.poison.or (some (pc, va)) }) })
  else w.poisonRecord pc va

/-- Deliver one result: to an exited thread it is discarded (03 R109). -/
def Weave.land (w : Weave) (d : Deferred) : Weave :=
  if (w.thread d.lane).mode = .exited then w
  else match d.val with
    | some v => w.modThread d.lane (fun t =>
        ((List.range d.cnt).foldl (fun (t : Thread) k =>
          t.landReg (d.reg + k) { val := BitVec.ofNat 32 (v / 2 ^ (32 * k)) }) t))
    | none => (w.modThread d.lane (fun t =>
        ((List.range d.cnt).foldl (fun (t : Thread) k =>
          t.landReg (d.reg + k) { t.reg (d.reg + k) with full := false, poison := true }) t))).poisonLane d.lane d.spec d.pc d.va

/-- Deliver at once every outstanding result of the lanes that `p` picks. -/
def State.landAll (s : State) (c w : Nat) (p : Nat → Bool) : State :=
  let due := (s.core c).deferred.filter (fun d => d.slot = w && p d.lane)
  (s.modWeave c w (fun x => due.foldl Weave.land x)).modCore c (fun k =>
    { k with deferred := k.deferred.filter (fun d => !(d.slot = w && p d.lane)) })

/-! ### Speculation (08 R290 to R296) -/

/-- A roll-back of the weave's speculating threads has to wait: one of them has an atomic under way whose
result must arrive first (08 R295, R296). -/
def State.rollWaits (s : State) (c w : Nat) : Bool :=
  (s.core c).atoms.any (fun a => a.slot == w && a.lanes.any (fun q => (s.thread c w q.lane).spec.isSome))
/-- The store of lane `l` is undone: what lower lanes of its issue had left to it is theirs again (06 R181, 08 R295). -/
def Thread.regain (t : Thread) (l : Nat) : Thread :=
  { t with
    ceded := t.ceded.filter (fun b => b.2 != l)
    spec := t.spec.map (fun p => { p with stores := p.stores.map (fun r => { r with ceded := r.ceded.filter (fun o => o.1 != l) }) }) }
def Weave.regain (w : Weave) (l : Nat) : Weave := { w with threads := w.threads.map (fun t => (t.1, t.2.regain l)) }
/-- Roll one thread back to its checkpoint; its outstanding results have been delivered (08 R295). It stands
at its rvwait as when it came there: at no join, no safe point and no wait. -/
def Weave.rollLane (w : Weave) (l : Nat) : Weave :=
  match (w.thread l).spec with
  | none => w
  | some p =>
    let w := w.modThread l (fun t => { t with
      ctl := p.ctl, preds := p.preds, ob := p.ob, fpCtl := p.fpCtl, fpFlags := p.fpFlags,
      rsCount := p.rsCount, mode := .ready, spec := none, noSpec := some p.ctl.pc,
      stop := none, lend := none, mark := none, watch := none, hollow := [], ceded := [],
      regs := p.undo.foldl (fun r e => tabPut {} e.1 e.2 r) t.regs })
    { w.regain l with
      joins := p.joins.foldl (fun js e => putJoin e.1 e.2 l js) (dropJoins l w.joins),
      reads := (w.reads.map (fun r => (r.1, r.2 &&& ~~~(1#32 <<< l)))).filter (fun r => r.2 != 0) }
def State.rollLane (s : State) (c w l : Nat) : State :=
  if (s.thread c w l).spec.isSome then
    ((s.landAll c w (fun m => m == l)).modWeave c w (fun x => x.rollLane l)).modWeave c w Weave.releaseJoins
  else s
/-- Roll back every speculating thread of a weave. -/
def State.rollWeave (s : State) (c w : Nat) : State :=
  (List.range 32).foldl (fun s l => s.rollLane c w l) s

/-- The entries that a thread's store records become, as though its stores issued now (08 R294); `gone` tells the lanes whose
stores stand, or come to stand at the same instant: a byte that such a lane stores too is left to it (06 R181). -/
def Spec.entries (p : Spec) (slot l : Nat) (team : Option Nat) (now : Nat) (gone : Nat → Bool) : List StoreEnt :=
  p.stores.map (fun r =>
    { slot := slot, bytes := (r.bytes.filter (fun b => !r.ceded.any (fun o => o.2 == b.1 && gone o.1))).map (fun b =>
        { loc := b.1, val := b.2, lane := l }),
      rel := r.rel, sync := r.sync, team := team, born := now })
/-- A lane has committed, or commits with the speculation `p`. -/
def Weave.commitsWith (w : Weave) (p : Spec) (l : Nat) : Bool :=
  match (w.thread l).spec with
  | none => true
  | some q => q.point == p.point && !q.conflict
/-- One thread commits at the step `now`: its store records enter the queue, oldest first (08 R294). -/
def Weave.commitLane (w : Weave) (slot l now : Nat) : Weave :=
  match (w.thread l).spec with
  | none => w
  | some p =>
    let x := { w.modThread l (fun t => { t with spec := none }) with
      commitq := w.commitq ++ p.entries slot l w.team now (w.commitsWith p),
      reads := (w.reads.map (fun r => (r.1, r.2 &&& ~~~(1#32 <<< l)))).filter (fun r => r.2 != 0) }
    match p.poison with
    | some (pc, va) => x.poisonRecord pc va
    | none => x

/-- A software write to this address is one that no software may make: to POSTED, RETIRED or a slot of a partition's
ticket counter (12 R396). -/
def State.tampers (s : State) (p : Nat × DWord) (pa : Nat) : Bool :=
  let c := s.fabric p.2.toNat
  let base := s.fabric (s.readPhys c 8)
  p.2 != 0 && decide ((c + 16 ≤ pa ∧ pa < c + 32) ∨ (base ≤ pa ∧ pa < base + 64 * (s.readPhys (c + 8) 8 % 2 ^ 17)))
/-- What else a write of software at these places does once it is performed: a priority inherited on a lock word that
has changed ends (08 R278), and a ticket counter written to serves no more until it is set up again (12 R396). -/
def State.noteWrite (s : State) (locs : List Loc) : State :=
  let bad := (s.qptkc.filter (fun p => locs.any (fun l => match l with
    | .mem pa => s.tampers p pa
    | .spad _ _ => false))).map (·.1)
  { s.endInherit with tampered := bad.foldl (fun l p => insertNat p l) s.tampered }

/-! ### Traps (12 R381 to R386) -/

def trapIllegal : Nat := 1
def trapEmpty : Nat := 2
def trapArith : Nat := 3
def trapBreak : Nat := 4
def trapBarrier : Nat := 5

/-- The lanes of a weave that have not exited. -/
def Weave.live (w : Weave) : List Nat :=
  (List.range 32).filter (fun l => (w.thread l).mode != .exited)

/-- The state a thread comes back to: a pause has ended (03 R112), and a lane that had joined a
collective joins again (04 R136). -/
def frameMode (m : Mode) : Mode :=
  match m with
  | .paused => .ready
  | .waiting .collective => .waiting .retry
  | m => m

/-- The weave's part of trap entry, once speculation is rolled back. -/
def Weave.enter (w : Weave) (g : List Nat) (f : List Nat) (cause detail : Nat) (pc handler : DWord)
    (now : Nat) : Weave :=
  let saved := { w with frame := some { joins := w.joins, parked := w.parked } }
  let step := fun (x : Weave) (l : Nat) => x.modThread l (fun t => { t with
    frame := some { ctl := t.ctl, mode := frameMode t.mode, preds := t.preds, ob := t.ob, wake := t.wake,
                    conv := t.conv, lend := t.lend, mark := t.mark, hollow := t.hollow, ceded := t.ceded,
                    watch := t.watch, noSpec := t.noSpec },
    ctl := { pc := handler, bh := 0, depth := 0, len := 0, entry := true },
    mode := .ready, ob := {}, conv := 0, stop := none, lend := none, mark := none, hollow := [], ceded := [],
    watch := none, noSpec := none })
  { saved.live.foldl step saved with
    joins := [], parked := [], colls := [],
    trCause := BitVec.ofNat 64 (detail % 2 ^ 16 * 2 ^ 16 + cause % 2 ^ 8),
    trPc := pc, trAmask := maskOf g, trFmask := maskOf f,
    trH := true, trM := true, trSkip := decide (cause = trapBreak), trSince := now }

/-- Trap entry: lanes `g` of the issue group, faulting lanes `f`, at the word `pc` (12 R381, R383,
R386). A kill or a reset whose writes have to wait for holds is tried again with the word (07 R251). -/
def State.trapEntry (s : State) (c w : Nat) (g f : List Nat) (cause detail : Nat) (pc : DWord) : State :=
  match (s.weave c w).team with
  | none =>
    if (s.weave c w).trH then s.afterHolds c (s.resetAgent c)
    else s.modWeave c w (fun x => x.enter g f cause detail pc (s.core c).fwTrap s.time)
  | some t =>
    let x := s.team t
    if (s.weave c w).trH then s.afterHolds c (s.contextKill x.ctx 2 cause)
    else if x.handler = 0 then s.afterHolds c ((s.rollWeave c w).contextKill x.ctx 1 cause)
    else (s.rollWeave c w).modWeave c w (fun y => y.enter g f cause detail pc x.handler s.time)

/-- A thread that waits in rvsync or gbsync goes on past it once the phase of its arrival is done
(08 R284). -/
def Thread.passArrived (t : Thread) : Thread :=
  let go : Thread := { t with mode := .ready, ctl := { t.ctl with
    pc := t.ctl.pc + 8, entry := t.ctl.pc + 8 == t.ctl.bh + 8#64 * BitVec.ofNat 64 (t.ctl.len + 1) } }
  match t.mode with
  | .waiting (.arrived false n) =>
    if t.rvDone.getLsbD n then { go with rvPend := go.rvPend &&& ~~~(1#24 <<< n) } else t
  | .waiting (.arrived true n) =>
    if t.gbDone.getLsbD n then { go with gbPend := go.gbPend &&& ~~~(1#8 <<< n) } else t
  | _ => t

/-- tret: every thread that has not exited takes back its frame; faulting lanes skip the trapping
word, of `words` words, where SKIP is set (12 R384). -/
def Weave.leave (w : Weave) (words : Nat) : Weave :=
  match w.frame with
  | none => w
  | some fr =>
    let lanes := w.live
    let gone := (List.range 32).filter (fun l => !lanes.contains l)
    let w := lanes.foldl (fun x l => x.modThread l (fun t =>
      match t.frame with
      | none => t
      | some f =>
        let skip := w.trSkip && w.trFmask.getLsbD l
        -- what belonged to the word that is skipped ends with it
        let f := if skip then { f with lend := none, mark := none, hollow := [], ceded := [], watch := none, noSpec := none } else f
        let pc := if skip then w.trPc + 8#64 * BitVec.ofNat 64 words else f.ctl.pc
        Thread.passArrived { t with
          frame := none, preds := f.preds, ob := f.ob, wake := f.wake, conv := f.conv,
          lend := f.lend, mark := f.mark, hollow := f.hollow, ceded := f.ceded, watch := f.watch, noSpec := f.noSpec,
          mode := if skip then .ready else f.mode,
          ctl := if skip then { f.ctl with pc := pc, entry := pc == f.ctl.bh + 8#64 * BitVec.ofNat 64 (f.ctl.len + 1) }
            else f.ctl })) w
    ({ w with
      frame := none,
      joins := gone.foldl (fun js l => dropJoins l js) fr.joins,
      parked := (fr.parked.map (fun (p : Parked) => { p with lanes := p.lanes &&& ~~~(maskOf gone) })).filter (fun (p : Parked) => p.lanes != 0),
      colls := [], trH := false, trM := false, trSkip := false }).releaseJoins

/-! ### Parking (03 R94 to R96, 06 R212) -/

/-- A lane that is to park: cause, detail, level and lease identifier of Table 12, the page, the
address and the flags. -/
structure ParkLane where
  lane : Nat
  cause : Nat
  detail : Nat
  level : Nat
  lid : Nat
  va : Nat
  scr : Bool := false
  /-- met by an instruction fetch (06 R215) -/
  iff : Bool := false
  deriving DecidableEq, Repr

/-- The page a fault names: the leaf's page for a lease fault, the smallest page otherwise
(log entry 25). -/
def ParkLane.page (p : ParkLane) : Nat :=
  let n := if p.cause = 2 then pageBits p.level else 19
  p.va / 2 ^ n * 2 ^ n

/-- The parked sub-group that a fault joins. -/
def parkJoins (pc : DWord) (p : ParkLane) (q : Parked) : Bool :=
  q.pc == pc && q.page == p.page && q.cause == p.cause && q.action == none

/-- Sub-groups that a list of faults needs beside those the weave holds (03 R95). -/
def parkNeed (ps : List Parked) (pc : DWord) (ls : List ParkLane) : Nat :=
  ((ls.filter (fun p => !ps.any (parkJoins pc p))).map (fun p => (p.page, p.cause))).dedup.length

/-- The lowest free record index (06 Table 12). -/
def freeRecord (rs : List FaultRec) (limit : Nat) : Nat :=
  ((List.range limit).find? (fun n => !rs.any (fun r => r.idx = n))).getD 0

/-- The fault record of one lane (06 Table 12). -/
def faultRecord (idx ctx slot : Nat) (pc : DWord) (p : ParkLane) (wr : Bool) : FaultRec :=
  { idx := idx,
    w0 := BitVec.ofNat 64 p.va, w1 := pc,
    w2 := BitVec.ofNat 64 (2 ^ p.lane * 2 ^ 32 + p.cause * 2 ^ 24 + p.detail * 2 ^ 16 + slot * 2 ^ 10 +
      (if p.iff then 2 ^ 4 else 0) + (if p.scr then 8 else 0) + (if wr then 4 else 0) + p.level % 4),
    w3 := BitVec.ofNat 64 (p.lid * 2 ^ 48 + ctx * 2 ^ 32 + idx) }

/-- The record of a sub-group that a lane joins: its mask grows, and its address is that of the lowest lane
(06 R212, Table 12). -/
def FaultRec.join (r : FaultRec) (p : ParkLane) : FaultRec :=
  { r with w0 := if (lanesOf (r.w2.extractLsb' 32 32)).all (fun l => p.lane < l) then BitVec.ofNat 64 p.va else r.w0
           w2 := r.w2 ||| (1#64 <<< (32 + p.lane)) }
/-- Park one lane: it joins a sub-group or forms one and posts a record. `wr`: the access writes. -/
def State.parkLane (s : State) (c w : Nat) (pc : DWord) (wr : Bool) (p : ParkLane) : State :=
  let x := s.weave c w
  let s := s.modThread c w p.lane (fun t => { t with mode := .parked })
  match x.parked.find? (parkJoins pc p) with
  | some q =>
    (s.modWeave c w (fun y => { y with parked := y.parked.map (fun r =>
      if r = q then { r with lanes := r.lanes ||| (1#32 <<< p.lane) } else r) })).modCore c (fun k =>
        { k with flt := k.flt.map (fun r => if r.idx = q.record then r.join p else r) })
  | none =>
    let idx := freeRecord (s.core c).flt 384
    let rec_ := faultRecord idx (s.agent c w).ctx w pc p wr
    (s.modWeave c w (fun y => { y with parked := y.parked ++
      [{ lanes := 1#32 <<< p.lane, pc := pc, page := p.page, cause := p.cause, record := idx }] })).modCore c
        (fun k => { k with flt := k.flt ++ [rec_], fwEvents := k.fwEvents ||| 2 })

/-- Sub-groups that a weave holds, those that its trap frame keeps included (03 R94, R97). -/
def Weave.subgroups (x : Weave) : Nat := x.parked.length + ((x.frame.map (fun f => f.parked.length)).getD 0)
/-- Park lanes with one PC; `none` where a ninth sub-group would be needed (03 R95). -/
def State.park (s : State) (c w : Nat) (pc : DWord) (wr : Bool) (ls : List ParkLane) : Option State :=
  let x := s.weave c w
  if Config.parkedMax < x.subgroups + parkNeed x.parked pc ls then none
  else some (ls.foldl (fun s p => (s.parkLane c w pc wr p).hearRefusal p.cause p.detail p.lid) s)

/-! ### Issue groups (03 R88, 02 R75) -/

/-- An issue group: its lanes, their PC, and whether they speculate. -/
structure Grp where
  core : Nat
  slot : Nat
  lanes : List Nat
  pc : DWord
  ctl : Ctl
  spec : Bool
  deriving DecidableEq, Repr

/-- A thread that an issue can be offered to: ready, or waiting for its word to be offered again. -/
def Mode.offers (m : Mode) : Bool := m == .ready || m == .waiting .retry || m == .waiting .lender
/-- The same of the thread: one that speculates up to a trap or a parking is offered nothing until its speculation has
ended (06 R190, 08 R291). -/
def Thread.offers (t : Thread) : Bool := t.mode.offers && !(t.spec.any (·.held))

/-- The issue group that the cursor names: those of its lanes that can issue and stand with its
lowest lane. -/
def State.group (s : State) : Option Grp :=
  let c := s.cur.core
  let w := s.cur.slot
  match tabFind w (s.core c).weaves with
  | none => none
  | some x =>
    match (lanesOf s.cur.lanes).filter (fun l => (x.thread l).offers) with
    | [] => none
    | l :: t =>
      let a := x.thread l
      some { core := c, slot := w, pc := a.ctl.pc, ctl := a.ctl, spec := a.spec.isSome,
             lanes := (l :: t).filter (fun m => (x.thread m).ctl.pc == a.ctl.pc &&
               (x.thread m).spec.isSome == a.spec.isSome) }

/-- The kernel descriptor of the group's team, none for the firmware agent (01 R451). -/
def State.desc (s : State) (g : Grp) : Option Kdesc :=
  (s.weave g.core g.slot).team.map (fun t => (s.team t).kd)
/-- Declared registers (02 R49, 01 R451). -/
def regLimit (k : Option Kdesc) : Nat := (k.map (·.regs)).getD 511
/-- Declared counts (02 R74, 01 R451). -/
def resLimit (k : Option Kdesc) (r : Res) : Nat :=
  match k with
  | none => if r = .cc then 16 else 0
  | some k =>
    match r with
    | .rv => k.rv
    | .cv => k.cv
    | .cc => k.cc
    | .gb => k.gb
    | .ts => k.slots
    | .tile => 16
    | .mat => k.cv
    | .refine => 1

/-- Reason 0x08 of one field (02 R49, R50). -/
def beyond (limit : Nat) (u : Use) (x b : BitVec 9) : Bool :=
  let n := (u.regs b).1
  n != 0 && x != 511 && decide (limit < x.toNat + n ∨ 511 < x.toNat + n)
/-- Reason 0x09 of one field (02 R50). -/
def misaligned (u : Use) (x b : BitVec 9) : Bool :=
  let n := (u.regs b).2
  n != 0 && x != 511 && x.toNat % n != 0

/-- A user weave may use the system register (12 Table 4). -/
def sregGranted (q : Option (Nat × Bool)) : Bool :=
  match q with
  | none => true
  | some (n, false) => sregUserRead n
  | some (n, true) => sregUserWrite n

/-- Some thread of the group stands at the last body word of its block. -/
def State.atLast (s : State) (g : Grp) : Bool :=
  g.lanes.any (fun l => let k := (s.thread g.core g.slot l).ctl; g.pc == k.bh + 8#64 * BitVec.ofNat 64 k.len)
/-- StaticReason of 02 R75: the lowest reason of 0x01 to 0x0B that applies, 0 for none. -/
def State.staticReason (s : State) (g : Grp) (f : Fields) (r : Row) : Nat :=
  let k := s.desc g
  if f.lform && s.atLast g then 0x01
  else if !r.accept then 0x05
  else if !r.reservedClear f then 0x06
  else if k.isSome && (r.priv || !sregGranted r.sreg) then 0x07
  else if (f.uses r).any (fun u => beyond (regLimit k) u.1 u.2.1 f.b) then 0x08
  else if (f.uses r).any (fun u => misaligned u.1 u.2.1 f.b) then 0x09
  else if r.keepWrong f then 0x0A
  else if r.res.any (fun q => decide (resLimit k q.1 ≤ q.2)) then 0x0B
  else 0

/-- An instruction at its issue: the group, the word's fields and row, the executing lanes and the
state they read their operands in. -/
structure Iss where
  g : Grp
  i : Instr
  f : Fields
  r : Row
  ex : List Nat
  old : State
  deriving DecidableEq, Repr

/-- Bytes of Garret space a team has (08 R292). -/
def Team.garret (t : Team) : Nat := Config.bankBytes * t.garBanks.length
/-- Garret bytes and read-set entries in use by a team. -/
def State.garretUsed (s : State) (c : Nat) (t : Team) : Nat :=
  (t.slots.map (fun w => ((s.weave c w).threads.map (fun e =>
    (e.2.spec.map (fun p => 64 * p.stores.length + 8 * p.undo.length)).getD 0)).sum)).sum
def State.readsUsed (s : State) (c : Nat) (t : Team) : Nat :=
  (t.slots.map (fun w => (s.weave c w).reads.length)).sum

/-- New undo records that the destinations of the executing lanes need. -/
def Iss.undoNeed (x : Iss) : Nat :=
  (x.ex.map (fun l =>
    let t := x.old.thread x.g.core x.g.slot l
    match t.spec with
    | none => 0
    | some p => (((x.f.dests x.r).map (fun d => groupRegs d.1 d.2)).flatten.filter (fun n =>
        (tabFind n p.undo).isNone)).length)).sum

/-- What 02 R75 does with a word before Execute. -/
inductive Gate
  | trap (cause detail : Nat) (lanes : List Nat)
  | wait
  | go (x : Iss)
  deriving DecidableEq, Repr

/-- A thread as its instruction reads it: registers that parking there has left empty hold what they held
(02 R57, 03 R96). -/
def Thread.whole (t : Thread) : Thread :=
  t.hollow.foldl (fun t n => { t with regs := tabPut {} n { t.reg n with full := true } t.regs }) t
/-- The checks of 02 R75 in their order; `sp` says that the instruction executes speculatively. -/
def State.gate (s : State) (g : Grp) (i : Instr) (f : Fields) (r : Row) (sp : Bool) : Gate :=
  let th := fun l => (s.thread g.core g.slot l).whole
  let ex := g.lanes.filter (fun l => (th l).executes f)
  let src := fieldSources f r
  let n := s.staticReason g f r
  if n ≠ 0 then .trap trapIllegal n g.lanes
  else match ex.filter (fun l => src.any (fun q => q.obFails (th l))) with
    | l :: t => .trap trapIllegal 0x0D (l :: t)
    | [] => match ex.filter (fun l => src.any (fun q => q.poisoned (th l))) with
      | l :: t => .trap trapPoison 0 (l :: t)
      | [] => match ex.filter (fun l => src.any (fun q => q.emp && q.empty (th l))) with
        | l :: t => .trap trapEmpty 0 (l :: t)
        | [] =>
          let x : Iss := { g := g, i := i, f := f, r := r, ex := ex, old := s }
          if ex.any (fun l => src.any (fun q => q.empty (th l)) || (f.dests r).any (fun d => destBusy d (th l))) then .wait
          else if g.spec && !ex.isEmpty && (!sp || (match (s.weave g.core g.slot).team with
              | some t => decide ((s.team t).garret < s.garretUsed g.core (s.team t) + 8 * x.undoNeed)
              | none => true)) then .wait
          else .go x

/-- The lanes wait for their word to be offered again (log entry 6). -/
def State.hold (s : State) (g : Grp) (ls : List Nat) : State :=
  s.modThreads g.core g.slot ls (fun _ t => { t with mode := .waiting .retry, stamp := s.tick })

/-- Lanes that speculate up to a trap or a parking perform nothing and wait for the commit or the rollback (06 R190, 08
R291). -/
def State.shelve (s : State) (g : Grp) (ls : List Nat) : State :=
  (s.hold g ls).modThreads g.core g.slot ls (fun _ t => { t with spec := t.spec.map (fun p => { p with held := true }) })

/-- The group raises a trap in lanes `f`; a speculating lane waits instead (06 R190, 08 R291), and so does the
group until the weave's speculating lanes can be rolled back (08 R296). -/
def State.raise (s : State) (g : Grp) (cause detail : Nat) (f : List Nat) : State :=
  if g.spec then s.shelve g f
  else if s.rollWaits g.core g.slot then s.hold g g.lanes
  else s.trapEntry g.core g.slot g.lanes f cause detail g.pc

/-- The control state after a word of `words` words that does not transfer (02 R43). -/
def Ctl.next (c : Ctl) (words : Nat) : Ctl :=
  let pc := c.pc + 8#64 * BitVec.ofNat 64 words
  { c with pc := pc, entry := pc == c.bh + 8#64 * BitVec.ofNat 64 (c.len + 1) }

/-- Move the group past the word: its lanes have issued. -/
def State.advance (s : State) (g : Grp) (words : Nat) : State :=
  s.modThreads g.core g.slot g.lanes (fun _ t =>
    { t with ctl := t.ctl.next words, mode := .ready, stamp := s.tick, lend := none, mark := none, hollow := [], ceded := [] })

/-- What Execute did. `done`: the lanes that completed; the other executing lanes keep their word.
`trap`: likewise, and then a trap in `lanes`. `wait`: the group waits, having done nothing. -/
inductive Act
  | done (s : State) (ran : List Nat)
  | trap (s : State) (ran : List Nat) (cause detail : Nat) (lanes : List Nat)
  | wait (s : State)
  /-- the state as it stands, control and keep included -/
  | whole (s : State)
  deriving DecidableEq, Repr

/-- The source that keep names (02 R58, R63). -/
def Iss.kept (x : Iss) : Option SrcField :=
  match x.f.keep.toNat with
  | 0 => none
  | 1 => some { idx := x.f.a, bits := x.r.a.width x.f.b, emp := x.f.empA }
  | 2 => some { idx := x.f.b, bits := x.r.b.width x.f.b, emp := x.f.empB }
  | _ => if x.f.mform then some { idx := x.f.d, bits := x.r.d.width x.f.b, emp := x.f.empC }
    else some { idx := x.f.c, bits := x.r.c.width x.f.b, emp := x.f.empC }

/-- The thread of a lane as it read its operands. -/
def Iss.th (x : Iss) (l : Nat) : Thread := (x.old.thread x.g.core x.g.slot l).whole
/-- The values of the sources in a lane. -/
def Iss.a (x : Iss) (l : Nat) : Nat :=
  SrcField.value { idx := x.f.a, bits := x.r.a.width x.f.b, emp := x.f.empA } (x.th l)
def Iss.b (x : Iss) (l : Nat) : Nat :=
  SrcField.value { idx := x.f.b, bits := x.r.b.width x.f.b, emp := x.f.empB } (x.th l)
def Iss.c (x : Iss) (l : Nat) : Nat :=
  SrcField.value { idx := x.f.c, bits := x.r.c.width x.f.b, emp := x.f.empC } (x.th l)
def Iss.d (x : Iss) (l : Nat) : Nat :=
  SrcField.value { idx := x.f.d, bits := x.r.d.width x.f.b, emp := x.f.mform && x.f.empC } (x.th l)

/-- The predicate that a field names, in a lane. -/
def Iss.predOf (x : Iss) (f : BitVec 9) (l : Nat) : Bool := (x.th l).pred (f.toNat % 8)

/-- KeepOperand of 02 R75. DESIGN CHOICE (log entry 55): of a group wider than 128 bits the low 128 bits stand,
with the width of the group. -/
def Iss.keep (x : Iss) (s : State) (ran : List Nat) : State :=
  match x.kept with
  | none => s
  | some q => s.modThreads x.g.core x.g.slot (x.ex.filter (fun l => ran.contains l)) (fun l t =>
      { t with ob := { valid := true, width := q.bits, val := BitVec.ofNat 128 (q.value (x.th l)) } })

/-- The registers that the instruction's deferred result is to fill (02 R55): of a load, or of an atomic that
returns a value. -/
def Iss.deferredDest (x : Iss) : List Nat :=
  match x.i with
  | .ld _ | .lds _ | .ldx _ | .ldxs _ | .ldnt _ | .ldxnt _ | .ldm _ | .cas _ | .swap _ | .aadd _ | .amin _ | .amax _
  | .afadd _ | .xrd _ | .aand _ | .aor _ | .axor _ | .ainc _ => ((x.f.dests x.r).map (fun d => groupRegs d.1 d.2)).flatten
  | _ => []
/-- A lane that has parked, or whose access is on its way to a lender, leaves its destination group empty until the value
comes (02 R55, R57). -/
def Thread.hollowed (t : Thread) (ns : List Nat) : Thread :=
  { ns.foldl (fun (t : Thread) n => t.putReg n { t.reg n with full := false, poison := false }) t with hollow := ns }
/-- The executing lanes that did not complete stand at the word again; an access on its way to a lender stays
so while its lane waits, and a lane that waits in its turn keeps its place. -/
def Iss.unrun (x : Iss) (s : State) (ls : List Nat) : State :=
  s.modThreads x.g.core x.g.slot ls (fun l t =>
    let t := { t with ctl := (x.th l).ctl, lend := if t.mode == .waiting .retry then (x.th l).lend else t.lend,
                      mark := t.mark.or (x.th l).mark, hollow := (x.th l).hollow, ceded := ((x.th l).ceded ++ t.ceded).dedup }
    if t.mode == .parked || t.mode == .waiting .lender then t.hollowed x.deferredDest else t)

/-- Lanes that met a fault: they park with `pc`, or wait where they speculate (06 R190). `none`: a ninth
sub-group would be needed (03 R95). -/
def Iss.park (x : Iss) (s : State) (pc : DWord) (wr : Bool) (ls : List ParkLane) : Option State :=
  if ls.isEmpty then some s
  else if x.g.spec then some (s.shelve x.g (ls.map (·.lane)))
  else s.park x.g.core x.g.slot pc wr ls

/-- Words of the instruction (02 R62). -/
def Iss.words (x : Iss) : Nat := if x.f.lform then 2 else 1

/-- The state after Execute. -/
def Iss.finish (x : Iss) (r : Act) : State :=
  match r with
  | .done s ran =>
    let back := x.ex.filter (fun l => !ran.contains l)
    x.keep (if back.isEmpty then s else x.unrun s back) ran
  | .trap s ran cause detail f =>
    if !x.g.spec && s.rollWaits x.g.core x.g.slot then x.old.hold x.g x.g.lanes else
    let s := x.unrun s (x.g.lanes.filter (fun l => !ran.contains l))
    if x.g.spec then s.shelve x.g f
    else s.trapEntry x.g.core x.g.slot x.g.lanes f cause detail x.g.pc
  | .wait s => x.unrun (s.hold x.g x.g.lanes) x.g.lanes
  | .whole s => s

/-- Issue of a word by the group that the cursor names (02 R75): `body` is Execute, in the state in which the
group has moved past the word. -/
def issueWith (i : Instr) (f : Fields) (r : Row) (sp : Bool) (body : Iss → State → Act) (s : State) :
    Host.Outcome State Fault Refusal :=
  match s.group with
  | none => .fault .noGroup
  | some g =>
    match s.gate g i f r sp with
    | .trap c d ls => .next (s.raise g c d ls)
    | .wait => .next (s.hold g g.lanes)
    | .go x => .next (x.finish (body x (s.advance g x.words)))
/-- Issue of an instruction. -/
def issue (i : Instr) (body : Iss → State → Act) (s : State) : Host.Outcome State Fault Refusal :=
  issueWith i (i.fields.getD {}) i.row i.speculates body s
/-- Issue of an instruction that never speculates and whose meaning does not look at its own constructor: any
instruction stands for it in `Iss.i`. -/
def issueRow (f : Fields) (r : Row) (body : Iss → State → Act) (s : State) : Host.Outcome State Fault Refusal :=
  issueWith (.nop ⟨7, false, 0, 0, 0, 0, 0, false, false, false, 0, 0⟩) f r false body s

/-! ### Waits with an order (log entry 6) -/

/-- A mark stands while its thread waits at the word. -/
def Thread.markNow (t : Thread) : Option Mark :=
  t.mark.filter (fun m => t.mode == .waiting .retry && t.ctl.pc == m.pc)
/-- It stands under a trap handler too (09 R325). -/
def Thread.marked (t : Thread) : Option Mark :=
  t.markNow.or (t.frame.bind (fun f => f.mark.filter (fun m => f.mode == .waiting .retry && f.ctl.pc == m.pc)))
/-- The number at which the word was first offered to a lane. -/
def Iss.since (x : Iss) (s : State) (l : Nat) : Nat :=
  match (x.th l).mark with
  | some m => if m.pc = x.g.pc then m.id else s.nextId
  | none => s.nextId
/-- The lane waits at the word since an earlier offer of it, which has acted. -/
def Iss.asked (x : Iss) (l : Nat) : Bool := ((x.th l).mark.map (fun m => m.pc == x.g.pc)) == some true
/-- Lanes take the number of their first offer. -/
def Iss.note (x : Iss) (s : State) (ls : List Nat) (acc : Nat → Option (Nat × Nat × Bool)) (tile : Option Nat) : State :=
  { s with nextId := s.nextId + 1 }.modThreads x.g.core x.g.slot ls (fun l t =>
    { t with mark := some { pc := x.g.pc, id := x.since s l, acc := acc l, tile := tile } })
/-- Lanes wait, each with the number of its first offer. -/
def Iss.holdMarked (x : Iss) (s : State) (ls : List Nat) (acc : Nat → Option (Nat × Nat × Bool)) : State :=
  x.note (s.hold x.g ls) ls acc none
/-- The lanes that `busy` does not hold back go on with `h`; the others wait. -/
def Iss.eachMarked (x : Iss) (s : State) (busy : Nat → Bool) (acc : Nat → Option (Nat × Nat × Bool)) (h : Iss → State → State) :
    Act :=
  let go := x.ex.filter (fun l => !busy l)
  let stay := x.ex.filter busy
  .done (h { x with ex := go } (if stay.isEmpty then s else x.holdMarked s stay acc)) go
/-- An instruction that acts once and may wait: while it waits it keeps its place, with the index that it names. -/
def Iss.inPlace (x : Iss) (tile : Option Nat) (a : Act) : Act :=
  match a with
  | .wait s => .wait (x.note s x.ex (fun _ => none) tile)
  | a => a

/-- What a lane of an instruction on registers and predicates writes. -/
structure Write where
  d : Option Nat := none
  p : Option Bool := none
  deriving DecidableEq, Repr

/-- Write a lane's result to d: a register group or a predicate (02 R51). -/
def Iss.put (x : Iss) (t : Thread) (w : Write) : Thread :=
  let t := match w.d with
    | some v => t.dest x.f.d (x.r.d.width x.f.b) v
    | none => t
  match w.p with
  | some b => t.setPred (x.f.d.toNat % 8) b
  | none => t

/-- Execute of an instruction whose lanes only compute: `h` gives each lane's result. -/
def perLane (h : Iss → Nat → Write) (x : Iss) (s : State) : Act :=
  .done (s.modThreads x.g.core x.g.slot x.ex (fun l t => x.put t (h x l))) x.ex

/-- Post a deferred result and set its destination empty (02 R55). `val` none for poisoned data, which leaves
its poison record also where the destination is vz (02 R48, 06 R216). -/
def State.defer (s : State) (x : Iss) (l : Nat) (idx : BitVec 9) (bits : Nat) (val : Option Nat)
    (va : Nat) : State :=
  if idx = 511 then
    match val with
    | some _ => s
    | none => s.modCore x.g.core (fun k => { k with
        deferred := k.deferred ++ [{ slot := x.g.slot, lane := l, reg := 511, cnt := 0, val := none,
                                     pc := x.g.pc, va := BitVec.ofNat 64 va, spec := x.g.spec }] })
  else
    (s.modThread x.g.core x.g.slot l (fun t => t.setEmpty idx bits)).modCore x.g.core (fun k => { k with
      deferred := k.deferred ++ [{ slot := x.g.slot, lane := l, reg := idx.toNat, cnt := regsOf bits, val := val,
                                   pc := x.g.pc, va := BitVec.ofNat 64 va, spec := x.g.spec }] })

end Sys2Proof.Machine
end

