-- ==== Sys2Proof/Machine/Access.lean ====
section
/-! DEFINITION. Accesses of the lanes of an instruction: addresses, checks, parking (06 R179, R188, R189,
R211), what a load sees and a store leaves (06 R180 to R183, 08 R257 to R260, R291), holds (07 R250)
and row recalls (07 R242). -/

namespace Sys2Proof.Machine

/-! ### Homes -/

/-- The LLC slice that homes a line, and its die (log entry 24). -/
def homeSlice (pa : Nat) : Nat := Config.homeSlice (pa / 128) % 512
def homeDie (pa : Nat) : Nat := homeSlice pa / 128

/-- The memory class of a leaf is plain, synchronisation or device (06 Table 11). -/
def leafPlain (leaf : Nat) : Bool := leafMc leaf == 0
def leafSync (leaf : Nat) : Bool := leafMc leaf == 1
def leafDevice (leaf : Nat) : Bool := leafMc leaf == 2

/-! ### Holds -/

/-- A team on die `d` has tenure over bytes of the line: what the slices of its die keep of it carries no hold (07 R238). -/
def State.tenured (s : State) (d line : Nat) : Bool :=
  s.dirs.any (fun r => decide (r.page.pa ≤ line * 128 ∧ line * 128 < r.page.pa + 2 ^ r.page.bits) &&
    ((s.findTeam r.team).map (fun e => dieOf e.1)) == some d &&
    (let h := tabGet {} r.handle (s.team r.team).handles
     let v := r.page.va + (line * 128 - r.page.pa)
     h.pieces.any (fun q => pieceTouch h.desc q v (v + 127))))
/-- A core reads a line into its cache-role banks, and the slices of its die keep a copy of a line homed on
another die or in another package (07 R238, R250). -/
def State.grantHold (s : State) (core line : Nat) : State :=
  let d := dieOf core
  (if (s.isLocal (line * 128) && homeDie (line * 128) == d) || s.tenured d line then s
    else s.holdLine (dieKeeper d) line).holdLine core line
/-- Copies are given up: what a thread has read of them counts as changed (08 R293). -/
def State.dropHolds (s : State) (p : Hold → Bool) : State :=
  (s.holds.filter p).foldl (fun s h =>
    s.conflicts ((List.range 4).map (fun i => Loc.mem (h.line * 128 + 32 * i))) (201, 0, 0)
      (fun c _ => c == h.core || dieKeeper (dieOf c) == h.core)) { s with holds := s.holds.filter (fun h => !p h) }

/-- What an instruction does as a whole waits, with nothing of it done, while its writes have to (07 R251). -/
def Iss.held (x : Iss) (s : State) (a : Act) : Act :=
  match a with
  | .done t ran => if (s.heldWrites x.g.core t).isEmpty then .done t ran else .wait (s.afterHolds x.g.core t)
  | .whole t => if (s.heldWrites x.g.core t).isEmpty then .whole t else .wait (s.afterHolds x.g.core t)
  | a => a

/-! ### Tenure met by accesses -/

/-- The pieces of a handle that touch a page. -/
def handleOnPage (h : Handle) (p : TilePage) : Bool :=
  h.pieces.any (fun q => pieceTouch h.desc q p.va (p.va + 2 ^ p.bits - 1))
/-- Drop the directory records that stand for no piece. -/
def State.pruneDirs (s : State) : State :=
  { s with dirs := s.dirs.filter (fun d =>
      handleOnPage (tabGet {} d.handle (s.team d.team).handles) d.page) }
/-- Change one handle of a team. -/
def State.modHandle (s : State) (t h : Nat) (g : Handle → Handle) : State :=
  s.modTeam t (fun x => { x with handles := tabSet h (g (tabGet {} h x.handles)) x.handles })
/-- Bytes of a handle's pieces that a command on a bound slot of its team has in flight (07 R235), by address. -/
def State.inFlight (s : State) (t n : Nat) : List Nat :=
  match s.findTeam t with
  | none => []
  | some (c, y) =>
    let k := s.core c
    let h := tabGet {} n y.handles
    ((k.bufs.map (fun b => (k.cmds.filter (fun e => e.id = b.cmd && e.team == some t && e.tile.isSome)).map (fun e =>
      e.addrs 0 (e.geom b.unit).1 (e.geom b.unit).2))).flatten.flatten).filter (fun v =>
        h.pieces.any (fun p => pieceTouch h.desc p v v))
/-- A recall of the row that holds a sector has to wait for bytes in flight there (07 R235). -/
def State.rowWaits (s : State) (who : Option Nat) (store : Bool) (pa : Nat) : Bool :=
  s.dirs.any (fun d => decide (d.page.pa ≤ pa ∧ pa < d.page.pa + 2 ^ d.page.bits) && who != some d.team &&
    (let h := tabGet {} d.handle (s.team d.team).handles
     let q := (d.page.va + (pa - d.page.pa)) / 32
     (h.mode == 2 || (store && h.mode == 1)) && (s.inFlight d.team d.handle).any (fun v =>
       h.pieces.any (fun p => pieceTouch h.desc p (q * 32) (q * 32 + 31) && pieceTouch h.desc p v v) &&
       !((h.pieces.filter (fun p => pieceTouch h.desc p (q * 32) (q * 32 + 31))).map (narrowRow h.desc q)).flatten.any
         (fun p => pieceTouch h.desc p v v))))
/-- The same for the sectors that `n` bytes at a place meet. -/
def State.recallWaits (s : State) (who : Option Nat) (store : Bool) (l : Loc) (n : Nat) : Bool :=
  match l with
  | .spad _ _ => false
  | .mem pa => !s.dirs.isEmpty && (List.range ((pa + n - 1) / 32 - pa / 32 + 1)).any (fun i =>
      s.rowWaits who store (max pa ((pa / 32 + i) * 32)))
/-- A team's tenure of sectors is recalled: a read set of the team that holds one of them counts it as a conflict
(08 R293). -/
def State.tenureLost (s : State) (t : Nat) (ls : List Loc) : State :=
  s.conflicts ls (201, 0, 0) (fun c w => (s.weave c w).team == some t)
/-- A handle of a team loses what `g` leaves it no more: a read set of the team that holds a sector of that counts it as a
conflict (08 R293). -/
def State.loseHandle (s : State) (t n : Nat) (g : Handle → Handle) : State :=
  let h := tabGet {} n (s.team t).handles
  let ls := ((s.dirs.filter (fun d => d.team == t && d.handle == n)).map (fun d =>
    ((s.cores.map (fun k => (k.2.weaves.map (fun w => w.2.reads.map (·.1))).flatten)).flatten).filter (fun l => match l with
      | .mem pa => decide (d.page.pa ≤ pa ∧ pa < d.page.pa + 2 ^ d.page.bits) &&
          (let v := d.page.va + (pa - d.page.pa)
           h.pieces.any (fun p => pieceTouch h.desc p v (v + 31)) && !((g h).pieces.any (fun p => pieceTouch h.desc p v (v + 31))))
      | .spad _ _ => false))).flatten
  (s.modHandle t n g).tenureLost t ls
/-- A plain access of `who` to the sector of a physical address narrows conflicting pieces of other
teams (07 R240, R242). -/
def State.rowRecall (s : State) (who : Option Nat) (store : Bool) (pa : Nat) : State :=
  let hit := s.dirs.filter (fun d => decide (d.page.pa ≤ pa ∧ pa < d.page.pa + 2 ^ d.page.bits) &&
    who != some d.team)
  if hit.isEmpty then s
  else
    let s := (hit.foldl (fun s d => s.modHandle d.team d.handle (fun h =>
      handleRow h store ((d.page.va + (pa - d.page.pa)) / 32))) s).pruneDirs
    hit.foldl (fun s d => s.tenureLost d.team [.mem pa]) s
/-- Row recalls of the sectors that `n` bytes at a place meet. -/
def State.recallSpan (s : State) (who : Option Nat) (store : Bool) (l : Loc) (n : Nat) : State :=
  match l with
  | .spad _ _ => s
  | .mem pa => (List.range ((pa + n - 1) / 32 - pa / 32 + 1)).foldl (fun s i =>
      s.rowRecall who store (max pa ((pa / 32 + i) * 32))) s

/-! ### Synchronisation-class memory -/

/-- Entries of a die's engine that other teams have reserved and do not use (08 R281). -/
def State.syncReserved (s : State) (d : Nat) (who : Option Nat) : Nat :=
  ((s.cores.filter (fun k => dieOf k.1 = d)).map (fun k => (k.2.teams.map (fun t =>
    if who = some t.1 then 0
    else t.2.kd.syncent - ((s.die d).syncs.filter (fun e => !e.overflow && e.team == some t.1)).length)).sum)).sum
/-- The engine has no free entry for `who` outside the other teams' reservations (08 R281). -/
def State.syncFull (s : State) (d : Nat) (who : Option Nat) : Bool :=
  decide (65536 ≤ ((s.die d).syncs.filter (fun e => !e.overflow)).length + s.syncReserved d who)
/-- A core asks for a copy of a half-line: the ninth makes the engine invalidate every copy (08 R282). -/
def SyncEnt.share (e : SyncEnt) (c : Nat) : SyncEnt :=
  if e.full || e.sharers.contains c then e
  else if e.sharers.length < 8 then { e with sharers := e.sharers ++ [c] }
  else { e with sharers := [], full := true }
/-- The home engine keeps the half-line of an address for `who`; `core` takes a copy where it is some core
(08 R281, R282). An update, or copies that are invalidated, count as conflicts for the cores that share the
half-line (R293). DESIGN CHOICE (log entry 58): an entry is freed at a start alone. -/
def State.syncTouch (s : State) (pa : Nat) (core who : Option Nat) : State :=
  let half := pa / 64
  let h := homeDie pa
  let old := ((s.die h).syncs.find? (fun e => e.half = half)).getD
    { half := half, overflow := s.syncFull h who, team := who }
  let new := match core with
    | none => old
    | some c => old.share c
  let put := fun (es : List SyncEnt) =>
    if es.any (fun e => e.half = half) then es.map (fun e => if e.half = half then new else e) else es ++ [new]
  let s := s.modDie h (fun d => { d with syncs := put d.syncs })
  if core.isNone || (new.full && !old.full) then
    s.conflicts [.mem (half * 64), .mem (half * 64 + 32)] (201, 0, 0) (fun c _ => old.sharers.contains c)
  else s

/-! ### Effective addresses -/

/-- 06 R179, `wb` the access width in bytes. -/
def Iss.ea (x : Iss) (indexed : Bool) (wb l : Nat) : Nat :=
  wrap 64 ((x.a l : Int) + ((if indexed then sint 32 (x.b l) else 0) + sint 13 x.f.disp.toNat) * wb)
/-- The agent of an issue. -/
def Iss.agent (x : Iss) : Agent := x.old.agent x.g.core x.g.slot

/-! ### Checks and parking of an instruction's lanes -/

/-- A lane that performs: its number, effective address, place and leaf. -/
structure Lane where
  l : Nat
  ea : Nat
  loc : Loc
  leaf : Nat
  deriving DecidableEq, Repr

/-- Where an access stands: it stops the instruction, or some lanes perform in a state in which the
others have parked or wait. -/
inductive Met
  | stop (a : Act)
  | go (s : State) (ls : List Lane)
  deriving DecidableEq, Repr

/-- An atomic of the lane is still to be performed: its later accesses wait (08 R259). -/
def State.atomPending (s : State) (c w : Nat) (ls : List Nat) : Bool :=
  (s.core c).atoms.any (fun a => a.slot = w && a.lanes.any (fun q => ls.contains q.lane))
/-- A store of the weave to a device is still on its way: a later read of a device waits (08 R267). -/
def State.devicePending (s : State) (c w : Nat) : Bool :=
  ((s.weave c w).queued ++ (s.core c).pending).any (fun e => e.slot == w && e.dev.isSome)

/-- The lane's access that is already on its way to a lender. -/
def Iss.onWay (x : Iss) (l ea : Nat) : Option LendWait :=
  match (x.th l).lend with
  | some q => if q.pc = x.g.pc ∧ q.va = ea then some q else none
  | none => none
/-- An access on its way is refused, has had no answer within 50 µs, is still without one, or is served, whatever
has become of the borrower entry since (06 R211). -/
def State.lenderAnswer (s : State) (q : LendWait) : Chk :=
  if 50000 ≤ s.time - q.since then .fault 2 4 q.level (leafLid q.leaf) q.scr
  else match s.remoteRefusal q.pa with
    | some 3 => .fault 2 3 q.level (leafLid q.leaf) q.scr
    | some _ => .lender { pa := q.pa, leaf := q.leaf, level := q.level, pte := 0 } q.scr
    | none => .ok (s.place q.pa) (if q.scr then 0 else q.leaf)
/-- The lanes' results, those of the accesses on their way in place. -/
def Iss.answers (x : Iss) (s : State) (rs : List (Nat × Nat × Chk)) : List (Nat × Nat × Chk) :=
  rs.map (fun r => (r.1, r.2.1, ((x.onWay r.1 r.2.1).map s.lenderAnswer).getD r.2.2))
/-- The wait of an access to `t` whose lender has not answered (06 R211). -/
def Iss.lendWait (x : Iss) (s : State) (wr : Bool) (l ea : Nat) (t : Xlat) (scr : Bool) : State :=
  s.modThread x.g.core x.g.slot l (fun u => { u with
    mode := .waiting .lender, stamp := s.tick,
    lend := some ((x.onWay l ea).getD
      { pc := x.g.pc, va := ea, pa := t.pa, leaf := t.leaf, level := t.level, wr := wr, since := s.time, scr := scr }) })

/-- The lanes after their checks: faults park, unanswered and draining lookups wait, and so does a
lane that speculates where it may not (06 R189, R190); `none` where a ninth sub-group would be
needed. -/
def Iss.settle (x : Iss) (s : State) (wr : Bool) (rs : List (Nat × Nat × Chk)) :
    Option (State × List Lane) :=
  let pk := rs.filterMap (fun r => match r.2.2 with
    | .fault c d lv lid scr => some { lane := r.1, cause := c, detail := d, level := lv, lid := lid, va := r.2.1, scr := scr }
    | _ => none)
  match x.park s x.g.pc wr pk with
  | none => none
  | some s =>
    let s := rs.foldl (fun s r => match r.2.2 with
      | .wait => s.hold x.g [r.1]
      | .lender t scr => x.lendWait s wr r.1 r.2.1 t scr
      | .ok loc leaf =>
        let stall := (match loc with
          | .mem pa => (!wr && (s.refreshing pa || s.recallWaits (s.weave x.g.core x.g.slot).team false (.mem pa) 1)) || ((leafDevice leaf || regsAddr pa) &&
              (x.g.spec || (!wr && s.devicePending x.g.core x.g.slot)))
          | .spad _ _ => false)
        if stall then s.hold x.g [r.1] else s
      | _ => s) s
    some (s, rs.filterMap (fun r => match r.2.2 with
      | .ok loc leaf =>
        if (s.thread x.g.core x.g.slot r.1).mode = .ready then some { l := r.1, ea := r.2.1, loc := loc, leaf := leaf }
        else none
      | _ => none))

/-- The check of the one access of a whole-team instruction: one on its way to a lender goes on, and a read waits as a
load does (06 R188, R200, R211). -/
def Iss.checkOnce (x : Iss) (s : State) (acc : Acc) (va : Nat) : State × Chk :=
  let r := match x.ex.findSome? (fun l => x.onWay l va) with
    | some q => (s, s.lenderAnswer q)
    | none => s.check x.agent acc va
  match r.2 with
  | .ok (.mem pa) leaf =>
    if acc.rd && (r.1.refreshing pa || r.1.recallWaits (s.weave x.g.core x.g.slot).team false (.mem pa) acc.size ||
      (regsAddr pa && s.devicePending x.g.core x.g.slot)) then (r.1, .wait) else (r.1, .ok (.mem pa) leaf)
  | k => (r.1, k)
/-- An engine's access that a lender has to answer, with the fabric time at which it first went out: it fails after 50
µs (06 R211). -/
def State.awaited (s : State) (since : Option Nat) (k : Chk) : Chk :=
  match k, since with
  | .lender x scr, some t => if t + 50000 ≤ s.time then .fault 2 4 x.level (leafLid x.leaf) scr else .lender x scr
  | k, _ => k
/-- The checks of every executing lane, and what they lead to (06 R188, R189). -/
def Iss.access (x : Iss) (s : State) (acc : Acc) (ea : Nat → Nat) : Met :=
  if s.atomPending x.g.core x.g.slot x.ex then .stop (.wait s)
  else
    let r := s.checkList x.agent acc (x.ex.map ea)
    let cs := x.answers r.1 ((x.ex.zip r.2).map (fun c => (c.1, ea c.1, c.2)))
    match pickTrap (cs.map (fun c => (c.1, c.2.2))) with
    | some (c, d, ls) => .stop (.trap r.1 [] c d ls)
    | none =>
      match x.settle r.1 acc.wr cs with
      | none => .stop (.wait s)
      | some (s, ls) => .go s ls

/-! ### What a load sees -/

/-- The newest value of a place in a list of store entries. -/
def entryByte (es : List StoreEnt) (l : Loc) : Option Byte :=
  es.foldl (fun m e => e.bytes.foldl (fun m b => if b.loc = l then some b.val else m) m) none
/-- The newest value of a place in a speculating thread's own records. -/
def Spec.byte (p : Spec) (l : Loc) : Option Byte :=
  p.stores.foldl (fun m r => r.bytes.foldl (fun m b => if b.1 = l then some b.2 else m) m) none
def Thread.ownByte (t : Thread) (l : Loc) : Option Byte := t.spec.bind (fun p => p.byte l)
/-- The byte that a thread's load returns: its own record, its weave's queue, the stores its core has
made visible, or memory (08 R257, R258, R291). -/
def State.seenByte (s : State) (c w l : Nat) (loc : Loc) : Byte :=
  match (s.thread c w l).ownByte loc with
  | some b => b
  | none => match entryByte (s.weave c w).queued loc with
    | some b => b
    | none => match entryByte (s.core c).pending loc with
      | some b => b
      | none => s.getByte loc
def State.seen (s : State) (c w l : Nat) (loc : Loc) (n : Nat) : Nat :=
  leNat ((loc.span n).map (s.seenByte c w l))

/-- Sectors that a speculating thread's load reads from memory. -/
def Thread.readSectors (t : Thread) (ls : List Loc) : List Loc :=
  ((ls.filter (fun l => (t.ownByte l).isNone)).map Loc.sector).dedup
/-- Enter sectors into the read set; `none` where the team's reservation has no room (08 R292). -/
def State.enterReads (s : State) (c w l : Nat) (ls : List Loc) : Option State :=
  match (s.thread c w l).spec, (s.weave c w).team with
  | some _, some t =>
    let x := s.weave c w
    let secs := (s.thread c w l).readSectors ls
    let fresh := secs.filter (fun k => !x.reads.any (fun r => r.1 == k))
    let tm := s.team t
    if tm.kd.spec < s.readsUsed c tm + fresh.length then none
    else
      let old := x.reads.map (fun r => if secs.contains r.1 then (r.1, r.2 ||| (1#32 <<< l)) else r)
      some (s.setWeave c w { x with reads := old ++ fresh.map (fun k => (k, 1#32 <<< l)) })
  | _, _ => some s

/-- The places of `n` bytes filled, tenure narrowed and a hold or a copy taken, before a load reads
them. -/
def State.prepLoad (s : State) (c w : Nat) (q : Lane) (n : Nat) (keep : Bool) : State :=
  let s := (s.touchAll (q.loc.span n)).recallSpan (s.weave c w).team false q.loc n
  match q.loc with
  | .spad _ _ => s
  | .mem pa =>
    if leafSync q.leaf then s.syncTouch pa (some c) (s.weave c w).team
    else if leafPlain q.leaf && keep && !regsAddr pa then s.grantHold c (pa / 128)
    else s

/-! ### What a store leaves -/

/-- A byte that a lane of a store is to write: lane, effective address, byte number of the access. -/
structure LaneByte where
  l : Nat
  ea : Nat
  k : Nat
  deriving DecidableEq, Repr
/-- The bytes of an access of `n` bytes at `ea` that `en` enables. -/
def laneBytes (l ea n : Nat) (en : Nat → Bool) : List LaneByte :=
  ((List.range n).filter en).map (fun k => { l := l, ea := (ea + k) % 2 ^ 64, k := k })
/-- The coalescer's merge (06 R181): a byte stands only for the highest lane that writes it. -/
def mergeBytes (bs : List LaneByte) : List LaneByte :=
  bs.filter (fun b => !bs.any (fun c => decide (b.l < c.l) && c.ea == b.ea))

/-- Add a byte to the entry of its line, opening one where there is none. -/
def addStoreByte (e0 : StoreEnt) (b : StoreByte) : List StoreEnt → List StoreEnt
  | [] => [{ e0 with bytes := [b] }]
  | e :: t =>
    if (e.bytes.head?.map (fun c => c.loc.line)) == some b.loc.line then { e with bytes := e.bytes ++ [b] } :: t
    else e :: addStoreByte e0 b t
/-- The entries of one instruction: one for each line (06 R187). -/
def lineEntries (e0 : StoreEnt) (bs : List StoreByte) : List StoreEnt :=
  bs.foldl (fun es b => addStoreByte e0 b es) []

/-- Store records of a thread: one for each sector (08 R291). -/
def sectorRecords (rel sync : Bool) (bs : List StoreByte) (ceded : List (Nat × Loc)) : List SpecStore :=
  let secs := (bs.map (fun b => b.loc.sector)).dedup
  secs.map (fun k => { bytes := (bs.filter (fun b => b.loc.sector == k)).map (fun b => (b.loc, b.val)), rel := rel,
                       sync := sync, ceded := ceded.filter (fun o => o.2.sector == k) })

/-- A store of several lanes: which lane stores what, by lane. -/
structure Stored where
  lane : Lane
  bytes : List StoreByte
  /-- bytes that a higher lane stores too, where the lanes speculate -/
  ceded : List (Nat × Loc) := []
  deriving DecidableEq, Repr

/-- The entries that a store's lanes need: accesses to device-class pages are not merged (08 R267). -/
def storeEntries (w : Nat) (team : Option Nat) (rel : Bool) (n now : Nat) (qs : List Stored) : List StoreEnt :=
  let dev := qs.filter (fun q => leafDevice q.lane.leaf || (match q.lane.loc with
    | .mem pa => regsAddr pa
    | .spad _ _ => false))
  let rest := qs.filter (fun q => !(dev.contains q))
  let e0 : StoreEnt := { slot := w, bytes := [], rel := rel, team := team, born := now }
  let sync := rest.filter (fun q => leafSync q.lane.leaf)
  let plain := rest.filter (fun q => !leafSync q.lane.leaf)
  dev.map (fun q => { e0 with bytes := q.bytes, dev := some n }) ++
    lineEntries e0 (plain.map (·.bytes)).flatten ++
    lineEntries { e0 with sync := true } (sync.map (·.bytes)).flatten

/-- Enter entries into a weave's queue: visible to its lanes at once (08 R257). -/
def State.pushStores (s : State) (c w : Nat) (es : List StoreEnt) : State :=
  let s := s.modWeave c w (fun x => { x with storeq := x.storeq ++ es })
  es.foldl (fun s e => s.entryConflicts c e (fun c' w' => c' == c && w' == w)) s

/-- Perform the stores of lanes: into the queue, or into the Garret of speculating threads. The lanes
that stored. `none` where the queue has no room (06 R187). -/
def Iss.store (x : Iss) (s : State) (rel : Bool) (n : Nat) (qs : List Stored) : Option (State × List Nat) :=
  let c := x.g.core
  let w := x.g.slot
  if x.g.spec then
    match (s.weave c w).team with
    | none => none
    | some t =>
      some (qs.foldl (fun (r : State × List Nat) q =>
        let recs := sectorRecords rel (leafSync q.lane.leaf) q.bytes q.ceded
        if (s.team t).garret < r.1.garretUsed c (s.team t) + 64 * recs.length then (r.1.hold x.g [q.lane.l], r.2)
        else (r.1.modThread c w q.lane.l (fun u => { u with
          spec := u.spec.map (fun p => { p with stores := p.stores ++ recs }) }), r.2 ++ [q.lane.l])) (s, []))
  else
    let es := storeEntries w (s.weave c w).team rel n s.tick qs
    if Config.storeQueue < (s.weave c w).queued.length + es.length then none
    else some (s.pushStores c w es, qs.map (fun q => q.lane.l))

end Sys2Proof.Machine
end

