-- ==== Sys2Proof/Machine/Fetch.lean ====
section
/-! DEFINITION. Instruction fetch (02 R44), block headers (02 R66 to R71, 03 R91, R92) and the check of a
transfer target (03 R102). -/

namespace Sys2Proof.Machine

/-- How a fetch ends. -/
inductive Fetched
  | word (w : DWord)
  | bad (cause detail : Nat)
  | park (cause detail level lid : Nat)
  /-- a draining TLB entry, or a Larder group in refresh (06 R200) -/
  | wait
  /-- a lender that has not answered (06 R211) -/
  | lender (q : LendWait)
  deriving DecidableEq, Repr

/-- The read of the word at `va` whose checks have ended; `q` is the fetch already on its way to a lender. A poisoned sector raises the poison trap (log entry 26). -/
def State.fetchEnd (s : State) (va : Nat) (q : Option LendWait) (k : Chk) : Fetched :=
  match k with
  | .ok loc _ =>
    if (match loc with
      | .mem pa => s.refreshing pa
      | .spad _ _ => false) then .wait
    else if s.anyPoison (loc.span 8) then .bad trapPoison 0
    else .word (BitVec.ofNat 64 (leNat (s.getBytes loc 8)))
  | .bad _ cause d => .bad cause d
  | .fault 2 d l lid _ => .park 2 d l lid
  | .fault _ d l lid _ => .park 3 d l lid
  | .wait => .wait
  | .lender t _ => .lender (q.getD { pc := 0, va := va, pa := t.pa, leaf := t.leaf, level := t.level, wr := false, since := s.time, fetch := true })
/-- Fetch the word at `va` for a weave (02 R44, 06 R215); `q` is this fetch already on its way to a lender. -/
def State.fetchOn (s : State) (c w va : Nat) (q : Option LendWait) : State × Fetched :=
  match q with
  | some q => (s, s.fetchEnd va (some q) (s.lenderAnswer q))
  | none =>
    let r := s.check (s.agent c w) fetchAcc va
    (r.1, r.1.fetchEnd va none r.2)
/-- The fetch of `va` that lanes of a weave wait for. -/
def State.fetchWait (s : State) (c w va : Nat) : Option LendWait :=
  (s.weave c w).threads.findSome? (fun t => match t.2.mode, t.2.lend with
    | .waiting .lender, some q => if q.fetch && !q.target && q.va == va && q.pc == t.2.ctl.pc then some q else none
    | _, _ => none)
/-- Fetch a word of the code at which lanes stand. -/
def State.fetch (s : State) (c w va : Nat) : State × Fetched := s.fetchOn c w va (s.fetchWait c w va)
/-- Lanes wait for the answer of a lender to their fetch (06 R211). -/
def State.holdFetch (s : State) (g : Grp) (q : LendWait) : State :=
  s.modThreads g.core g.slot g.lanes (fun _ t =>
    { t with mode := .waiting .lender, stamp := s.tick, lend := some { q with pc := g.pc } })

/-! ### Headers (02 Table 9) -/

def isMarker (w : DWord) : Bool := w.extractLsb' 58 6 == 0x3E#6
def hdrLen (w : DWord) : Nat := (w.extractLsb' 48 10).toNat
def hdrRcv (w : DWord) : BitVec 17 := w.extractLsb' 22 17
def hdrNs (w : DWord) : Bool := w.getLsbD 2
def hdrSp (w : DWord) : Bool := w.getLsbD 0
def hdrLive (w : DWord) : Nat := (w.extractLsb' 39 9).toNat
/-- The reconvergence target of the header `w` at `pc`. -/
def hdrTarget (w pc : DWord) : DWord := pc + 8#64 * (hdrRcv w).signExtend 64

/-- A lane is held at `pc` by an entry (T, DEPTH) that it is a member of (03 R92). -/
def Weave.heldAt (x : Weave) (pc : DWord) (l : Nat) : Bool :=
  x.joins.any (fun e => e.target == pc && e.depth == (x.thread l).ctl.depth && e.members.getLsbD l)
/-- The lane waits at the join target (03 R92). -/
def Weave.arriveJoin (x : Weave) (pc : DWord) (l : Nat) : Weave :=
  { x.modThread l (fun t => { t with mode := .waiting .join }) with
    joins := x.joins.map (fun e => if e.target == pc && e.depth == (x.thread l).ctl.depth && e.members.getLsbD l then
      { e with arrived := e.arrived ||| (1#32 <<< l) } else e) }

/-- The lanes execute the header `w` at `pc` (02 R67, 03 R91). -/
def Weave.enterBlock (x : Weave) (w pc : DWord) (now : Nat) (ls : List Nat) : Weave :=
  ls.foldl (fun x l =>
    let x := x.modThread l (fun t => { t with
      ob := {}, mode := .ready, stamp := now, stop := none, lend := none,
      ctl := { t.ctl with bh := pc, pc := pc + 8, len := hdrLen w, entry := false } })
    if hdrRcv w = 0 then x
    else { x with joins := addJoin x.keptJoins (hdrTarget w pc) (x.thread l).ctl.depth l x.joins }) x

/-- Some other context on the core is ready to run: one of its teams has a thread that can issue (03 R110). -/
def Core.others (k : Core) (ctx : Nat) : Bool :=
  k.teams.any (fun t => t.2.ctx != ctx && t.2.started && !t.2.pre.stopping &&
    t.2.slots.any (fun w => (k.weave w).threads.any (fun u => u.2.mode == .ready)))
/-- A weave stops at its next safe point (01 R32, 02 R71, 12 R413, R414): its slice has ended, or a
pre-emption other than a drain is wanted; not while it is masked in its handler (12 R385). -/
def State.stopsAt (s : State) (c w : Nat) : Bool :=
  let x := s.weave c w
  match x.team with
  | none => false
  | some t =>
    let y := s.team t
    let p := y.pre
    !(x.trH && x.trM) && p.action != 1 &&
      (p.requested || p.expired || (p.yielded && p.slice != 0))
/-- The lanes stop at the safe-point header `w`; the team notes when (12 R413). -/
def State.stopHere (s : State) (g : Grp) (w : DWord) : State :=
  let x := (s.hold g g.lanes).modThreads g.core g.slot g.lanes (fun _ t => { t with stop := some (hdrLive w) })
  match (s.weave g.core g.slot).team with
  | some t =>
    if g.lanes.any (fun l => (s.thread g.core g.slot l).stop.isNone) then
      x.modTeam t (fun y => { y with pre := { y.pre with header := some s.time } })
    else x
  | none => x

/-- The group stands at a header that it has yet to execute. Members of a join at this address wait;
the others execute the header. DESIGN CHOICE (log entry 56): reason 0x01 for a word without the marker stands also
where a kernel entry, a trap-handler entry or a reset PC leads to it. -/
def State.runHeader (s : State) (g : Grp) : State :=
  let x := s.weave g.core g.slot
  let held := g.lanes.filter (fun l => x.heldAt g.pc l)
  match held with
  | _ :: _ => s.modWeave g.core g.slot (fun x => (held.foldl (fun x l => x.arriveJoin g.pc l) x).releaseJoins)
  | [] =>
    let park := fun (s : State) (va : Nat) (c d l lid : Nat) =>
      if g.spec then s.shelve g g.lanes
      else (s.park g.core g.slot g.pc false (g.lanes.map (fun n =>
        { lane := n, cause := c, detail := d, level := l, lid := lid, va := va, iff := true }))).getD (s.hold g g.lanes)
    match s.fetch g.core g.slot g.pc.toNat with
    | (s, .wait) => s.hold g g.lanes
    | (s, .lender q) => s.holdFetch g q
    | (s, .bad c d) => s.raise g c d g.lanes
    | (s, .park c d l lid) => park s g.pc.toNat c d l lid
    | (s, .word w) =>
      if !isMarker w then s.raise g trapIllegal 0x01 g.lanes
      else if hdrSp w && s.stopsAt g.core g.slot then s.stopHere g w
      else if hdrNs w && g.spec then s.hold g g.lanes
      else if hdrLen w = 0 || w.extractLsb' 3 3 != 0 then s.raise g trapIllegal 0x02 g.lanes
      else if hdrRcv w = 0 then
        s.modWeave g.core g.slot (fun x => x.enterBlock w g.pc s.tick g.lanes)
      else match s.fetch g.core g.slot (hdrTarget w g.pc).toNat with
        | (s, .wait) => s.hold g g.lanes
        | (s, .lender q) => s.holdFetch g q
        | (s, .bad c d) => s.raise g c d g.lanes
        | (s, .park c d l lid) => park s (hdrTarget w g.pc).toNat c d l lid
        | (s, .word v) =>
          if !isMarker v then s.raise g trapIllegal 0x03 g.lanes
          else s.modWeave g.core g.slot (fun x => x.enterBlock w g.pc s.tick g.lanes)

/-! ### Transfers (03 R102) -/

/-- What 03 R102 finds of a target. -/
inductive Took
  | ok
  | park (p : ParkLane)
  | prot (detail : Nat)
  | poison
  | noHeader
  | wait
  | lender (q : LendWait)
  deriving DecidableEq, Repr

/-- Check the target `t` of lane `l`; `q` is the fetch of it that is on its way to a lender. -/
def State.takeCheck (s : State) (c w l : Nat) (t : DWord) (q : Option LendWait := none) : State × Took :=
  if !canonical t.toNat then (s, .prot 1)
  else if t.toNat % 8 ≠ 0 then (s, .noHeader)
  else match s.fetchOn c w t.toNat q with
    | (s, .word v) => (s, if isMarker v then .ok else .noHeader)
    | (s, .bad cause d) => (s, if cause = trapPoison then .poison else .prot d)
    | (s, .park cause d lvl lid) =>
      (s, .park { lane := l, cause := cause, detail := d, level := lvl, lid := lid, va := t.toNat, iff := true })
    | (s, .wait) => (s, .wait)
    | (s, .lender q) => (s, .lender { q with target := true })

/-- The checks of the lanes' targets; `on` tells the fetches that are on their way to a lender. -/
def State.takeAll (s : State) (c w : Nat) (on : Nat → DWord → Option LendWait) :
    List (Nat × DWord) → State × List (Nat × DWord × Took)
  | [] => (s, [])
  | (l, t) :: r =>
    let q := s.takeCheck c w l t (on l t)
    let z := q.1.takeAll c w on r
    (z.1, (l, t, q.2) :: z.2)

/-- The lane stands at the header of a target. -/
def Ctl.goto (k : Ctl) (t : DWord) : Ctl := { k with pc := t, entry := true }

/-- Park lanes one by one, each at its own target. -/
def Iss.parkTargets (x : Iss) (s : State) : List (DWord × ParkLane) → Option State
  | [] => some s
  | (t, p) :: r =>
    match x.park (s.modThread x.g.core x.g.slot p.lane (fun u => { u with ctl := u.ctl.goto t })) t false [p] with
    | some s => x.parkTargets s r
    | none => none

/-- Execute of a control transfer: `want` gives the target of a lane that takes it, `eff` what a
completing lane also does (03 R102, R103). -/
def transfer (want : Iss → Nat → Option DWord) (eff : Iss → Nat → Thread → Thread) (x : Iss) (s : State) : Act :=
  let c := x.g.core
  let w := x.g.slot
  let takes := x.ex.filterMap (fun l => (want x l).map (fun t => (l, t)))
  let r := s.takeAll c w (fun l t => x.onWay l t.toNat) takes
  let s := r.1
  let stay := x.ex.filter (fun l => !(takes.any (fun e => e.1 = l)))
  let good := r.2.filter (fun e => e.2.2 == .ok)
  let parks := r.2.filterMap (fun e => match e.2.2 with
    | .park p => some (e.2.1, p)
    | _ => none)
  let waits := (r.2.filter (fun e => e.2.2 == .wait)).map (·.1)
  let lent := r.2.filterMap (fun e => match e.2.2 with
    | .lender q => some (e.1, q)
    | _ => none)
  let prot := r.2.filterMap (fun e => match e.2.2 with
    | .prot d => some (e.1, d)
    | _ => none)
  let pois := (r.2.filter (fun e => e.2.2 == .poison)).map (·.1)
  let noHdr := (r.2.filter (fun e => e.2.2 == .noHeader)).map (·.1)
  -- a speculating lane that would park has not completed the transfer
  let done := stay ++ good.map (·.1) ++ (if x.g.spec then [] else parks.map (·.2.lane))
  let s := s.modThreads c w done (eff x)
  let s := good.foldl (fun s e => s.modThread c w e.1 (fun u => { u with ctl := u.ctl.goto e.2.1 })) s
  let s := if waits.isEmpty then s else s.hold x.g waits
  let s := lent.foldl (fun s e => s.modThread c w e.1 (fun t => { t with
    mode := .waiting .lender, stamp := s.tick, lend := some { e.2 with pc := x.g.pc } })) s
  match x.parkTargets s parks with
  | none => .wait r.1
  | some s =>
    match prot with
    | (l, d) :: t => .trap s done trapProt d (l :: t.map (·.1))
    | [] => match pois with
      | l :: t => .trap s done trapPoison 0 (l :: t)
      | [] => match noHdr with
        | l :: t => .trap s done trapIllegal 0x0C (l :: t)
        | [] => .done s done

end Sys2Proof.Machine
end

