-- ==== Sys2Proof/Machine/Control.lean ====
section
/-! DEFINITION. The control instructions (03 R100 to R113). -/

namespace Sys2Proof.Machine

/-- A weave whose threads have all exited and that awaits no result is freed (03 R109). -/
def State.freeWeave (s : State) (c w : Nat) : State :=
  match (s.weave c w).team with
  | none => s
  | some t =>
    if (s.weave c w).live.isEmpty && !((s.core c).deferred.any (fun d => d.slot = w)) &&
        !((s.core c).atoms.any (fun a => a.slot = w)) then
      ((s.showStores c w).modCore c (fun k => k.releaseStores w)).modTeam t (fun x => { x with freed := x.freed + 1, slots := x.slots.erase w })
    else s

/-- Pending of 03 R104. -/
def State.pending (s : State) (c w : Nat) : Bool :=
  match (s.weave c w).team with
  | none => false
  | some t => (s.team t).pre.requested || (s.team t).pre.expired

/-- The target of a B-form word (02 R64). -/
def Iss.label (x : Iss) : DWord := x.g.pc + 8#64 * x.f.off.signExtend 64
/-- No effect beside the transfer. -/
def noEff (_x : Iss) (_l : Nat) (t : Thread) : Thread := t
/-- The link of a call: the header after the calling block (03 R105). -/
def Ctl.link (k : Ctl) : DWord := k.bh + 8#64 * BitVec.ofNat 64 (k.len + 1)
/-- A call links and raises DEPTH (03 R105). -/
def linkEff (x : Iss) (l : Nat) (t : Thread) : Thread :=
  let k := (x.th l).ctl
  let t := t.dest x.f.d 64 k.link.toNat
  { t with ctl := { t.ctl with depth := k.depth + 1 } }

/-- Branch where `c` holds of the lane. -/
def branchIf (c : Iss → Nat → Bool) (eff : Iss → Nat → Thread → Thread) : Iss → State → Act :=
  transfer (fun x l => if c x l then some x.label else none) eff

/-- 03 R103. -/
def execBr (o : BForm) (s : State) : Host.Outcome State Fault Refusal :=
  issue (.br o) (branchIf (fun _ _ => true) noEff) s
/-- 03 R105. -/
def execCall (o : BForm) (s : State) : Host.Outcome State Fault Refusal :=
  issue (.call o) (branchIf (fun _ _ => true) linkEff) s
/-- d less 1, wrapping (03 R103). -/
def Iss.dec (x : Iss) (l : Nat) : Nat := (x.d l + 0xFFFFFFFF) % 2 ^ 32
/-- 03 R103. -/
def execDbnz (o : BForm) (s : State) : Host.Outcome State Fault Refusal :=
  issue (.dbnz o) (branchIf (fun x l => x.dec l != 0) (fun x l t => t.dest x.f.d 32 (x.dec l))) s
/-- 03 R103. -/
def execBz (o : BForm) (s : State) : Host.Outcome State Fault Refusal :=
  issue (.bz o) (branchIf (fun x l => x.d l == 0) noEff) s
/-- 03 R103. -/
def execBnz (o : BForm) (s : State) : Host.Outcome State Fault Refusal :=
  issue (.bnz o) (branchIf (fun x l => x.d l != 0) noEff) s
/-- IsFull of 03 R103: vz is full (02 R54). -/
def Iss.dFull (x : Iss) (l : Nat) : Bool := x.f.d == 511 || ((x.th l).reg x.f.d.toNat).full
/-- 03 R103. -/
def execBfull (o : BForm) (s : State) : Host.Outcome State Fault Refusal :=
  issue (.bfull o) (branchIf (fun x l => x.dFull l) noEff) s
/-- 03 R103. -/
def execBempty (o : BForm) (s : State) : Host.Outcome State Fault Refusal :=
  issue (.bempty o) (branchIf (fun x l => !x.dFull l) noEff) s
/-- 03 R103, R104. -/
def execBpend (o : BForm) (s : State) : Host.Outcome State Fault Refusal :=
  issue (.bpend o) (branchIf (fun x _ => x.old.pending x.g.core x.g.slot) noEff) s

/-- The target pair of an indirect transfer (03 R106). -/
def jumpTo (eff : Iss → Nat → Thread → Thread) : Iss → State → Act :=
  transfer (fun x l => some (BitVec.ofNat 64 (x.a l))) eff
/-- 03 R106. -/
def execJmp (o : AForm) (s : State) : Host.Outcome State Fault Refusal := issue (.jmp o) (jumpTo noEff) s
/-- 03 R106. -/
def execJcall (o : AForm) (s : State) : Host.Outcome State Fault Refusal := issue (.jcall o) (jumpTo linkEff) s
/-- 03 R106. -/
def execRet (o : AForm) (s : State) : Host.Outcome State Fault Refusal :=
  issue (.ret o) (jumpTo (fun x l t => { t with ctl := { t.ctl with depth := (x.th l).ctl.depth - 1 } })) s

/-- P(d) := P(a) op P(b) (03 R107). -/
def predOp (h : Bool → Bool → Bool) : Iss → State → Act :=
  perLane (fun x l => { p := some (h (x.predOf x.f.a l) (x.predOf x.f.b l)) })
/-- 03 R107. -/
def execPand (o : AForm) (s : State) : Host.Outcome State Fault Refusal := issue (.pand o) (predOp and) s
/-- 03 R107. -/
def execPor (o : AForm) (s : State) : Host.Outcome State Fault Refusal := issue (.por o) (predOp or) s
/-- 03 R107. -/
def execPxor (o : AForm) (s : State) : Host.Outcome State Fault Refusal := issue (.pxor o) (predOp xor) s
/-- 03 R107. -/
def execPandn (o : AForm) (s : State) : Host.Outcome State Fault Refusal :=
  issue (.pandn o) (predOp (fun a b => a && !b)) s
/-- 03 R108. -/
def execPset (o : AForm) (s : State) : Host.Outcome State Fault Refusal :=
  issue (.pset o) (perLane (fun x l => { p := some (x.a l != 0) })) s
/-- 03 R108. -/
def execPget (o : AForm) (s : State) : Host.Outcome State Fault Refusal :=
  issue (.pget o) (perLane (fun x l => { d := some (if x.predOf x.f.a l then 1 else 0) })) s

/-- 03 R109. -/
def execExit (o : AForm) (s : State) : Host.Outcome State Fault Refusal :=
  issue (.exit o) (fun x s =>
    .done ((s.modWeave x.g.core x.g.slot (fun w => x.ex.foldl Weave.exitLane w)).freeWeave x.g.core x.g.slot) x.ex) s
/-- 03 R110: no effect where no other context on the core is ready to run. -/
def execYield (o : AForm) (s : State) : Host.Outcome State Fault Refusal :=
  issue (.yield o) (fun x s =>
    match (s.weave x.g.core x.g.slot).team with
    | some t => .done (if x.ex.isEmpty || !(s.core x.g.core).others (s.team t).ctx then s else s.modTeam t (fun y => { y with pre := { y.pre with yielded := true } })) x.ex
    | none => .done s x.ex) s
/-- 03 R111. -/
def execNop (o : AForm) (s : State) : Host.Outcome State Fault Refusal :=
  issue (.nop o) (fun x s => .done s x.ex) s
/-- 03 R112. -/
def execPause (o : IForm) (s : State) : Host.Outcome State Fault Refusal :=
  issue (.pause o) (fun x s =>
    if x.f.imm = 0 then .done s x.ex
    else .done (s.modThreads x.g.core x.g.slot x.ex (fun _ t =>
      { t with mode := .paused, wake := s.cycles + x.f.imm.toNat })) x.ex) s
/-- 03 R113. -/
def execBrk (o : IForm) (s : State) : Host.Outcome State Fault Refusal :=
  issue (.brk o) (fun x s =>
    if x.ex.isEmpty then .done s x.ex else .trap s [] trapBreak x.f.imm.toNat x.ex) s

/-- PAUSE_EXPIRY: paused threads whose cycles have passed become ready, together with those that paused
in the same issue (03 R112). -/
def execPauseExpiry (core slot lane : Nat) (s : State) : Host.Outcome State Fault Refusal :=
  let t := s.thread core slot lane
  if t.mode == .paused && decide (t.wake ≤ s.cycles) then
    let ls := (List.range 32).filter (fun l =>
      (s.thread core slot l).mode == .paused && (s.thread core slot l).wake == t.wake)
    .next (s.modThreads core slot ls (fun _ u => { u with mode := .ready }))
  else .next s
/-- JOIN_RELEASE: an entry all of whose members wait at its target is released (03 R92, R93). -/
def execJoinRelease (core slot entry : Nat) (s : State) : Host.Outcome State Fault Refusal :=
  match (s.weave core slot).joins[entry]? with
  | some e => .next (if e.full then s.modWeave core slot Weave.releaseJoins else s)
  | none => .next s

end Sys2Proof.Machine
end

