-- ==== Sys2Proof/Machine/Float.lean ====
section
/-! DEFINITION. Number formats, rounding and exact arithmetic on floating-point values (05 R141 to R158,
R162 to R168). A format is named by its type code (02 Table 2); a code is a natural number. -/

namespace Sys2Proof.Machine

/-! ### Formats (05 Table 1) -/

def fF (ty : BitVec 3) : Nat :=
  match ty.toNat with
  | 0 => 23
  | 1 => 52
  | 2 => 7
  | 3 => 10
  | 4 => 3
  | 5 => 2
  | _ => 1
def fB (ty : BitVec 3) : Nat :=
  match ty.toNat with
  | 0 => 127
  | 1 => 1023
  | 2 => 127
  | 3 => 15
  | 4 => 7
  | 5 => 15
  | _ => 1
def fBits (ty : BitVec 3) : Nat :=
  match ty.toNat with
  | 0 => 32
  | 1 => 64
  | 2 => 16
  | 3 => 16
  | 4 => 8
  | 5 => 8
  | _ => 4
/-- Bits of the exponent field. -/
def fE (ty : BitVec 3) : Nat := fBits ty - 1 - fF ty
def fHasInf (ty : BitVec 3) : Bool := ty.toNat ≠ 4 && ty.toNat ≠ 6
/-- The code of the largest finite value, sign 0. -/
def fMaxCode (ty : BitVec 3) : Nat :=
  match ty.toNat with
  | 4 => 0x7E
  | 6 => 7
  | _ => (2 ^ fE ty - 1) * 2 ^ fF ty - 1
def fSign (ty : BitVec 3) (neg : Bool) : Nat := if neg then 2 ^ (fBits ty - 1) else 0
def fInfCode (ty : BitVec 3) (neg : Bool) : Nat := fSign ty neg + (2 ^ fE ty - 1) * 2 ^ fF ty
/-- The canonical quiet NaN (05 R142); E2M1 has none. -/
def fQNaN (ty : BitVec 3) (neg : Bool) : Nat :=
  match ty.toNat with
  | 4 => fSign ty neg + 0x7F
  | 6 => 0
  | _ => fInfCode ty neg + 2 ^ (fF ty - 1)

/-- Exceptions, bits of fp.flags (05 Table 3). -/
def exIV : Nat := 1
def exDZ : Nat := 2
def exOF : Nat := 4
def exUF : Nat := 8
def exNX : Nat := 16

/-- The value of a code. A finite value is (−1)^neg × m × 2^e. `src` is the format of a NaN. -/
inductive FVal
  | fin (neg : Bool) (m : Nat) (e : Int)
  | inf (neg : Bool)
  | nan (neg : Bool) (signalling : Bool) (frac : Nat) (src : BitVec 3)
  deriving DecidableEq, Repr

/-- 05 R141, R142. -/
def fVal (ty : BitVec 3) (code : Nat) : FVal :=
  let c := code % 2 ^ fBits ty
  let neg := c / 2 ^ (fBits ty - 1) % 2 == 1
  let e := c / 2 ^ fF ty % 2 ^ fE ty
  let f := c % 2 ^ fF ty
  let top := e == 2 ^ fE ty - 1
  if fHasInf ty && top then
    if f = 0 then .inf neg else .nan neg (decide (f < 2 ^ (fF ty - 1))) f ty
  else if ty == 4 && top && f == 7 then .nan neg false f ty
  else if e = 0 then .fin neg f (1 - fB ty - fF ty)
  else .fin neg (2 ^ fF ty + f) ((e : Int) - fB ty - fF ty)

def FVal.isNaN : FVal → Bool
  | .nan _ _ _ _ => true
  | _ => false
def FVal.isSig : FVal → Bool
  | .nan _ s _ _ => s
  | _ => false
def FVal.isInf : FVal → Bool
  | .inf _ => true
  | _ => false
def FVal.isZero : FVal → Bool
  | .fin _ 0 _ => true
  | _ => false
def FVal.neg : FVal → Bool
  | .fin n _ _ => n
  | .inf n => n
  | .nan n _ _ _ => n
def FVal.flip : FVal → FVal
  | .fin n m e => .fin (!n) m e
  | .inf n => .inf (!n)
  | .nan n s f t => .nan (!n) s f t
/-- A subnormal of the format read as a zero of the same sign (05 R158). -/
def FVal.flush (ty : BitVec 3) (ftz : Bool) (v : FVal) : FVal :=
  match v with
  | .fin n m e => if ftz && decide ((Nat.log2 m : Int) + e < 1 - fB ty) then .fin n 0 e else v
  | v => v

/-- The NaN rule of 05 R166: the code in `ty` of a NaN, quieted. -/
def nanCode (ty : BitVec 3) (neg : Bool) (frac : Nat) (src : BitVec 3) : Nat :=
  if ty == 4 || ty == 6 || src == 4 then fQNaN ty neg
  else
    let f := if fF src ≤ fF ty then frac * 2 ^ (fF ty - fF src) else frac / 2 ^ (fF src - fF ty)
    fInfCode ty neg + (f ||| 2 ^ (fF ty - 1))

/-! ### RoundFP (05 R147) -/

/-- Rounding: mode as mod[2:0], .sat, and the stochastic bits. -/
structure Rnd where
  mode : Nat
  sat : Bool
  bits : Nat := 0
  deriving DecidableEq, Repr

/-- Whether the value lo + (rem + sticky) ÷ 2^shift rounds up to lo + 1. -/
def roundUp (r : Rnd) (neg : Bool) (lo rem shift : Nat) (st : Bool) : Bool :=
  if rem = 0 && !st then false
  else match r.mode with
    | 0 => decide (2 ^ shift < 2 * rem) || (2 * rem == 2 ^ shift && (st || lo % 2 == 1))
    | 1 => false
    | 2 => neg
    | 3 => !neg
    | 4 => decide (2 ^ shift ≤ 2 * rem)
    | _ => decide (r.bits < rem * 2 ^ 32 / 2 ^ shift)

/-- Round (−1)^neg × (m + sticky) × 2^e, sticky standing for a part below one unit; the code and the
exceptions. -/
def roundFP (ty : BitVec 3) (r : Rnd) (neg : Bool) (m : Nat) (e : Int) (st : Bool) : Nat × Nat :=
  if m = 0 && !st then (fSign ty neg, 0)
  else
    let top := max ((Nat.log2 m : Int) + e) (1 - (fB ty : Int))
    let q := top - fF ty
    let sh := q - e
    -- a value far below the spacing is replaced by one as far below as matters
    let big := decide (((Nat.log2 m + 40 : Nat) : Int) < sh)
    let n := if big then 1 else m
    let s := if big then 40 else sh.toNat
    let st := st || big
    let lo := if sh < 0 then n * 2 ^ (-sh).toNat else n / 2 ^ s
    let rem := if sh < 0 then 0 else n % 2 ^ s
    let nx := rem != 0 || st
    let k := if roundUp r neg lo rem s st then lo + 1 else lo
    let code := if k < 2 ^ fF ty then k else ((q + fF ty + fB ty).toNat - 1) * 2 ^ fF ty + k
    if fMaxCode ty < code then
      let grow := r.mode == 0 || r.mode == 4 || r.mode == 5 || (r.mode == 3 && !neg) || (r.mode == 2 && neg)
      ((if grow && !r.sat && fHasInf ty then fInfCode ty neg
        else if grow && !r.sat && ty == 4 then fQNaN ty neg
        else fSign ty neg + fMaxCode ty), exOF ||| exNX)
    else (fSign ty neg + code, (if nx then exNX else 0) ||| (if nx && decide (code < 2 ^ fF ty) then exUF else 0))

/-! ### Exact results -/

/-- The exact result of an operation before rounding, with exceptions of the operation itself. -/
inductive FRes
  | num (neg : Bool) (m : Nat) (e : Int) (st : Bool)
  | inf (neg : Bool) (ex : Nat)
  /-- a NaN operand propagates -/
  | nan (neg : Bool) (frac : Nat) (src : BitVec 3)
  /-- an invalid operation on operands that are no NaN -/
  | bad
  deriving DecidableEq, Repr

/-- The first NaN of a list of operands. -/
def firstNaN : List FVal → Option FRes
  | [] => none
  | .nan n _ f t :: _ => some (.nan n f t)
  | _ :: t => firstNaN t
/-- IV for a signalling operand (05 R154). -/
def sigFlag (vs : List FVal) : Nat := if vs.any FVal.isSig then exIV else 0

/-- Write an exact result in `ty` (05 R154 to R158): the code and the exceptions. -/
def FRes.out (ty : BitVec 3) (r : Rnd) (ftz : Bool) (x : FRes) : Nat × Nat :=
  match x with
  | .num n m e st =>
    let (c, ex) := roundFP ty r n m e st
    let mag := c % 2 ^ (fBits ty - 1)
    if ftz && mag != 0 && decide (mag < 2 ^ fF ty) then (fSign ty n, ex ||| exUF ||| exNX) else (c, ex)
  | .inf n ex => (fInfCode ty n, ex)
  | .nan n f t => (nanCode ty n f t, 0)
  | .bad => (fQNaN ty false, exIV)

/-- The sum of two finite values; an exact zero from opposite signs is −0 under .rdn (05 R155). -/
def finSum (rdn : Bool) (n1 : Bool) (m1 : Nat) (e1 : Int) (n2 : Bool) (m2 : Nat) (e2 : Int) : FRes :=
  let e := min e1 e2
  let a : Int := (m1 * 2 ^ (e1 - e).toNat : Nat)
  let b : Int := (m2 * 2 ^ (e2 - e).toNat : Nat)
  let v := (if n1 then -a else a) + (if n2 then -b else b)
  if v = 0 then .num (if n1 == n2 then n1 else rdn) 0 0 false
  else .num (decide (v < 0)) v.natAbs e false

/-- a + b of values that are no NaN. -/
def addCore (rdn : Bool) (a b : FVal) : FRes :=
  match a, b with
  | .inf n, .inf k => if n == k then .inf n 0 else .bad
  | .inf n, _ => .inf n 0
  | _, .inf n => .inf n 0
  | .fin n1 m1 e1, .fin n2 m2 e2 =>
    -- a zero does not widen the sum
    if m1 = 0 && m2 != 0 then .num n2 m2 e2 false
    else if m2 = 0 && m1 != 0 then .num n1 m1 e1 false
    else finSum rdn n1 m1 e1 n2 m2 e2
  | _, _ => .bad
def fAddV (rdn : Bool) (a b : FVal) : FRes := (firstNaN [a, b]).getD (addCore rdn a b)

/-- a × b of values that are no NaN, as a value: `none` for 0 × ∞. -/
def mulCore (a b : FVal) : Option FVal :=
  match a, b with
  | .inf n, .inf k => some (.inf (n != k))
  | .inf n, .fin k m _ => if m = 0 then none else some (.inf (n != k))
  | .fin n m _, .inf k => if m = 0 then none else some (.inf (n != k))
  | .fin n1 m1 e1, .fin n2 m2 e2 => some (.fin (n1 != n2) (m1 * m2) (e1 + e2))
  | _, _ => none
def FVal.res (v : FVal) : FRes :=
  match v with
  | .fin n m e => .num n m e false
  | .inf n => .inf n 0
  | .nan n _ f t => .nan n f t
def fMulV (a b : FVal) : FRes :=
  (firstNaN [a, b]).getD (match mulCore a b with
    | some v => v.res
    | none => .bad)
/-- 0 × ∞ raises IV whether or not another operand is a NaN (05 R154). -/
def mulInvalid (a b : FVal) : Bool :=
  (a.isInf && b.isZero) || (a.isZero && b.isInf)
/-- a × b + c with NaN order as the list gives; the exceptions beside those of the result. -/
def fMaV (rdn : Bool) (order : List FVal) (a b c : FVal) : FRes × Nat :=
  let ex := if mulInvalid a b then exIV else 0
  ((firstNaN order).getD (match mulCore a b with
    | some p => addCore rdn p c
    | none => .bad), ex)

def fDivV (a b : FVal) : FRes :=
  (firstNaN [a, b]).getD (match a, b with
    | .inf _, .inf _ => .bad
    | .inf n, _ => .inf (n != b.neg) 0
    | _, .inf k => .num (a.neg != k) 0 0 false
    | .fin n1 m1 e1, .fin n2 m2 e2 =>
      if m2 = 0 then (if m1 = 0 then .bad else .inf (n1 != n2) exDZ)
      else
        let k := 130 + Nat.log2 m2
        let x := m1 * 2 ^ k
        .num (n1 != n2) (x / m2) (e1 - e2 - k) (decide (x % m2 ≠ 0))
    | _, _ => .bad)

/-- The integer square root found bit by bit, from bit `i - 1` down. -/
def isqrtBits (x : Nat) : Nat → Nat → Nat
  | 0, r => r
  | i + 1, r => isqrtBits x i (if (r + 2 ^ i) * (r + 2 ^ i) ≤ x then r + 2 ^ i else r)
def isqrt (x : Nat) : Nat := isqrtBits x (Nat.log2 x / 2 + 1) 0

/-- √ of a positive finite value. -/
def rootRes (m : Nat) (e : Int) : FRes :=
  let odd := e % 2 = 1
  let m := if odd then 2 * m else m
  let e := if odd then e - 1 else e
  let x := m * 2 ^ 264
  let r := isqrt x
  .num false r (e / 2 - 132) (decide (r * r ≠ x))
def fSqrtV (a : FVal) : FRes :=
  match a with
  | .nan n _ f t => .nan n f t
  | .inf n => if n then .bad else .inf false 0
  | .fin n m e => if m = 0 then .num n 0 0 false else if n then .bad else rootRes m e

/-! ### Order -/

/-- Compare two finite or infinite values, −0 and +0 being equal. -/
def fLt (a b : FVal) : Bool :=
  match a, b with
  | .inf n, .inf k => n && !k
  | .inf n, _ => n
  | _, .inf k => !k
  | .fin n1 m1 e1, .fin n2 m2 e2 =>
    let e := min e1 e2
    let x : Int := (m1 * 2 ^ (e1 - e).toNat : Nat)
    let y : Int := (m2 * 2 ^ (e2 - e).toNat : Nat)
    decide ((if n1 then -x else x) < (if n2 then -y else y))
  | _, _ => false
def fEq (a b : FVal) : Bool := !a.isNaN && !b.isNaN && !fLt a b && !fLt b a

/-- minimumNumber and maximumNumber, −0 below +0 (05 R163): the chosen operand. -/
def fPick (max : Bool) (a b : FVal) : FVal :=
  match a.isNaN, b.isNaN with
  | true, true => a
  | true, false => b
  | false, true => a
  | false, false =>
    let less := fLt a b || (fEq a b && a.neg && !b.neg)
    if less != max then a else b

/-- The conditions of 05 Table 7, and whether IV is raised. -/
def fCond (code : Nat) (a b : FVal) : Bool × Bool :=
  let un := a.isNaN || b.isNaN
  let sig := a.isSig || b.isSig
  match code with
  | 0 => (fEq a b, sig)
  | 1 => (!fEq a b, sig)
  | 2 => (!un && fLt a b, un)
  | 3 => (!un && !fLt b a, un)
  | 4 => (!un && fLt b a, un)
  | 5 => (!un && !fLt a b, un)
  | 6 => (un, sig)
  | _ => (!un, sig)

/-- The class mask of fclass (05 R164). -/
def fClass (ty : BitVec 3) (v : FVal) : Nat :=
  match v with
  | .inf n => if n then 1 else 2 ^ 7
  | .nan _ s _ _ => if s then 2 ^ 8 else 2 ^ 9
  | .fin n m _ =>
    if m = 0 then (if n then 2 ^ 3 else 2 ^ 4)
    else if m < 2 ^ fF ty then (if n then 2 ^ 2 else 2 ^ 5)
    else if n then 2 else 2 ^ 6

/-! ### Integers -/

/-- Round m × 2^e to an integer under a mode: the magnitude and whether it is inexact. -/
def roundInt (r : Rnd) (neg : Bool) (m : Nat) (e : Int) : Nat × Bool :=
  if 0 ≤ e then (m * 2 ^ e.toNat, false)
  else
    let big := decide (((Nat.log2 m + 40 : Nat) : Int) < -e)
    let s := if big then 40 else (-e).toNat
    let n := if big then (if m = 0 then 0 else 1) else m
    let st := big && decide (m ≠ 0)
    let lo := n / 2 ^ s
    let rem := n % 2 ^ s
    (if roundUp r neg lo rem s st then lo + 1 else lo, rem != 0 || st)

def fRintV (r : Rnd) (v : FVal) : FRes × Nat :=
  match v with
  | .fin n m e =>
    let (k, nx) := roundInt r n m e
    (.num n k 0 false, if nx then exNX else 0)
  | v => (v.res, sigFlag [v])

/-- Floor(Log2 |a|) (05 R164). -/
def fGetexpV (v : FVal) : FRes :=
  match v with
  | .fin _ m e =>
    if m = 0 then .inf true exDZ
    else
      let k := (Nat.log2 m : Int) + e
      .num (decide (k < 0)) k.natAbs 0 false
  | .inf _ => .inf false 0
  | .nan n _ f t => .nan n f t
/-- The significand in [1, 2) (05 R164). -/
def fGetmanV (v : FVal) : FRes :=
  match v with
  | .fin n m _ => if m = 0 then .num n 0 0 false else .num n m (-(Nat.log2 m : Int)) false
  | .inf _ => .bad
  | .nan n _ f t => .nan n f t
/-- The sum of values, `none` standing for 0 × ∞ (05 R154, R155): zeros of one sign keep it. -/
def finTotal (e : Int) : List FVal → Int
  | .fin n m k :: t => (if n then -((m * 2 ^ (k - e).toNat : Nat) : Int) else ((m * 2 ^ (k - e).toNat : Nat) : Int)) + finTotal e t
  | _ :: t => finTotal e t
  | [] => 0
def fSumV (rdn : Bool) (ts : List (Option FVal)) : FRes :=
  let vs := ts.filterMap id
  let infs := vs.filter FVal.isInf
  if ts.any Option.isNone then .bad
  else match infs with
    | v :: t => if t.all (fun u => u.neg == v.neg) then .inf v.neg 0 else .bad
    | [] =>
      let nz := vs.filter (fun v => !v.isZero)
      let e := nz.foldl (fun k v => match v with
        | .fin _ _ f => min k f
        | _ => k) (0 : Int)
      let v := finTotal e nz
      if v = 0 then
        .num (if nz.isEmpty && (vs.all FVal.neg || vs.all (fun u => !u.neg)) then vs.any FVal.neg else rdn) 0 0 false
      else .num (decide (v < 0)) v.natAbs e false

/-- a × 2^b (05 R162). -/
def fScaleV (v : FVal) (b : Int) : FRes :=
  match v with
  | .fin n m e => if m = 0 then .num n 0 0 false else .num n m (e + b) false
  | v => v.res

/-! ### Estimates and functions (05 R165) -/

/-- The `k` leading bits of m × 2^e. -/
def leadBits (k m : Nat) (e : Int) : Nat × Int :=
  let n := Nat.log2 m + 1
  if n ≤ k then (m, e) else (m / 2 ^ (n - k), e + (n - k : Nat))
/-- RoundSig(y, 12): round to 12 significant bits, nearest even, unbounded exponent. -/
def roundSig12 (m : Nat) (e : Int) (st : Bool) : Nat × Int :=
  let n := Nat.log2 m + 1
  if n ≤ 12 then (m, e)
  else
    let s := n - 12
    let lo := m / 2 ^ s
    (if roundUp { mode := 0, sat := false } false lo (m % 2 ^ s) s st then lo + 1 else lo, e + s)
def sig12 (neg : Bool) (r : FRes) : FRes :=
  match r with
  | .num _ m e st => let (m, e) := roundSig12 m e st; .num neg m e false
  | r => r
def fRcpV (v : FVal) : FRes :=
  match v with
  | .fin n m e =>
    if m = 0 then .inf n exDZ
    else
      let (k, f) := leadBits 12 m e
      sig12 n (fDivV (.fin false 1 0) (.fin false k f))
  | .inf n => .num n 0 0 false
  | .nan n _ f t => .nan n f t
def fRsqV (v : FVal) : FRes :=
  match v with
  | .fin n m e =>
    if m = 0 then .inf n exDZ
    else if n then .bad
    else
      let (k, f) := leadBits 12 m e
      -- 1/√x = √(1/x); 1/x with 600 bits leaves its root's first bits and stickiness exact
      match fDivV (.fin false (2 ^ 600) (-600)) (.fin false k f) with
      | .num _ q g st =>
        match rootRes q g with
        | .num _ r h st' => sig12 false (.num false r h (st || st'))
        | r => r
      | r => r
  | .inf n => if n then .bad else .num false 0 0 false
  | .nan n _ f t => .nan n f t

/-- Fraction bits of the fixed-point series (log entry 13). -/
def fixP : Nat := 320
def fixOne : Nat := 2 ^ fixP
def fixMul (a b : Nat) : Nat := a * b / fixOne

/-- Σ t^k ÷ k! from the term `t` of index `k` on. -/
def expSum (x : Nat) : Nat → Nat → Nat → Nat
  | 0, _, t => t
  | n + 1, k, t => t + expSum x n (k + 1) (fixMul t x / (k + 1))
/-- Σ z^(2k+1) ÷ (2k+1), `p` being the power of z and `d` its exponent. -/
def atanhSum (z2 : Nat) : Nat → Nat → Nat → Nat
  | 0, _, _ => 0
  | n + 1, d, p => p / d + atanhSum z2 n (d + 2) (fixMul p z2)
/-- ln of num ÷ den in [1, 2]: 2 atanh((num − den) ÷ (num + den)). -/
def fixLn (num den : Nat) : Nat :=
  let z := (num - den) * fixOne / (num + den)
  2 * atanhSum (fixMul z z) 110 1 z
def fixLn2 : Nat := fixLn 2 1
/-- Alternating sum for atan of 1 ÷ q. -/
def atanSum (q2 : Nat) : Nat → Nat → Nat → Bool → Int
  | 0, _, _, _ => 0
  | n + 1, d, p, neg =>
    (if neg then -((p / d : Nat) : Int) else ((p / d : Nat) : Int)) + atanSum q2 n (d + 2) (p / q2) (!neg)
/-- π = 16 atan(1/5) − 4 atan(1/239). -/
def fixPi : Nat :=
  (16 * atanSum 25 150 1 (fixOne / 5) false - 4 * atanSum (239 * 239) 50 1 (fixOne / 239) false).toNat
/-- Σ (−1)^k t^(2k+1) ÷ (2k+1)!. -/
def sinSum (x2 : Nat) : Nat → Nat → Nat → Bool → Int
  | 0, _, _, _ => 0
  | n + 1, d, t, neg =>
    (if neg then -(t : Int) else (t : Int)) + sinSum x2 n (d + 2) (fixMul t x2 / ((d + 1) * (d + 2))) (!neg)
/-- sin(π r) for r in (0, 1/2), r a fixed-point number. -/
def fixSinPi (r : Nat) : Nat :=
  let t := fixMul fixPi r
  (sinSum (fixMul t t) 70 1 t false).toNat

/-- m × 2^e as integer part and fixed-point fraction, for e ≥ −fixP and a magnitude below 2^24. -/
def fixParts (m : Nat) (e : Int) : Nat × Nat :=
  let v := m * 2 ^ (e + fixP).toNat
  (v / fixOne, v % fixOne)

/-- 2^a. -/
def fEx2V (v : FVal) : FRes :=
  match v with
  | .nan n _ f t => .nan n f t
  | .inf n => if n then .num false 0 0 false else .inf false 0
  | .fin n m e =>
    if m = 0 then .num false 1 0 false
    else if 11 < (Nat.log2 m : Int) + e then .num false 1 (if n then -4096 else 4096) false
    else
      let (i, f) := fixParts m e
      if f = 0 then .num false 1 (if n then -(i : Int) else i) false
      else
        let i : Int := if n then -(i : Int) - 1 else i
        let f := if n then fixOne - f else f
        .num false (expSum (fixMul f fixLn2) 90 0 fixOne) (i - fixP) true
/-- Log2 a. -/
def fLg2V (v : FVal) : FRes :=
  match v with
  | .nan n _ f t => .nan n f t
  | .inf n => if n then .bad else .inf false 0
  | .fin n m e =>
    if m = 0 then .inf true exDZ
    else if n then .bad
    else
      let k := Nat.log2 m
      let i : Int := k + e
      if m = 2 ^ k then .num (decide (i < 0)) i.natAbs 0 false
      else
        let f : Int := (fixLn m (2 ^ k) * fixOne / fixLn2 : Nat)
        let s := i * fixOne + f
        .num (decide (s < 0)) s.natAbs (-fixP) true
/-- sin(π r) as a result of a sign, r in [0, 1/2]. -/
def sinRes (neg : Bool) (r : Nat) : FRes :=
  if r = 0 then .num neg 0 0 false
  else if 2 * r = fixOne then .num neg 1 0 false
  else .num neg (fixSinPi r) (-fixP) true
/-- |a| mod 2 as a fixed-point number. -/
def fixMod2 (m : Nat) (e : Int) : Nat :=
  if 1 < e then 0 else m * 2 ^ (e + fixP).toNat % (2 * fixOne)
def fSinpiV (v : FVal) : FRes :=
  match v with
  | .nan n _ f t => .nan n f t
  | .inf _ => .bad
  | .fin n m e =>
    let x := fixMod2 m e
    if x % fixOne = 0 then .num n 0 0 false
    else
      let y := x % fixOne
      sinRes (n != decide (fixOne ≤ x)) (min y (fixOne - y))
def fCospiV (v : FVal) : FRes :=
  match v with
  | .nan n _ f t => .nan n f t
  | .inf _ => .bad
  | .fin _ m e =>
    let x := fixMod2 m e
    let y := min x (2 * fixOne - x)
    if 2 * y = fixOne then .num false 0 0 false
    else if 2 * y < fixOne then sinRes false (fixOne / 2 - y)
    else sinRes true (y - fixOne / 2)

/-! ### Conversions (05 R166 to R168) -/

/-- fcvt from a value to `ty`: the code and the exceptions; conversions do not flush. -/
def fConvert (ty : BitVec 3) (r : Rnd) (v : FVal) : Nat × Nat :=
  match v with
  | .fin n m e => roundFP ty r n m e false
  | .inf n =>
    if fHasInf ty then (fInfCode ty n, 0)
    else if ty == 4 then (if r.sat then fSign ty n + fMaxCode ty else fQNaN ty n, exIV)
    else (fSign ty n + fMaxCode ty, exIV)
  | .nan n s f t => (nanCode ty n f t, if s || ty == 6 then exIV else 0)

/-- An immediate code of 16 bits as a value: FP16 for .f16, BF16 for the others (05 R162). The value of
a NaN keeps its kind. -/
def fImm (ty : BitVec 3) (imm : Nat) : FVal := if ty == 3 then fVal 3 imm else fVal 2 imm

/-- StochBits (05 R148). -/
def stochBits (ti wi cnt : Nat) : Nat :=
  let m := 2 ^ 64
  let key := ti % 2 ^ 16 * 2 ^ 48 + wi % 2 ^ 48
  let z := (key + (cnt + 1) * 0x9E3779B97F4A7C15) % m
  let z := ((z ^^^ (z / 2 ^ 30)) * 0xBF58476D1CE4E5B9) % m
  let z := ((z ^^^ (z / 2 ^ 27)) * 0x94D049BB133111EB) % m
  (z ^^^ (z / 2 ^ 31)) / 2 ^ 32

end Sys2Proof.Machine
end

