-- ==== Sys2Proof/Machine/Flags.lean ====
section
/-! DEFINITION. The floating-point state of a thread: how an instruction reads fp.ctl and rs.count and
how it leaves fp.flags and rs.count (05 R148 to R153, R158). -/

namespace Sys2Proof.Machine

/-- FTZ and the enable bits of fp.ctl (05 Table 2). -/
def Thread.ftz (t : Thread) : Bool := t.fpCtl.getLsbD 8
def Thread.enables (t : Thread) : Nat := t.fpCtl.toNat % 32
/-- mod selects stochastic rounding (05 R147). -/
def Iss.stoch (x : Iss) : Bool := x.f.mod.toNat % 8 == 5
/-- TI, WI and the bits a lane draws (05 R148). DESIGN CHOICE (log entry 65): the firmware agent has no team; its lanes
draw with gang index 0 and weave index 0. -/
def Iss.draws (x : Iss) (l : Nat) : Nat :=
  let w := x.old.weave x.g.core x.g.slot
  let g := ((w.team.map x.old.team).map (·.index)).getD 0
  stochBits (1024 * g + 32 * w.index + l)
    ((x.g.pc - BitVec.ofNat 64 (((x.old.desc x.g).map (·.image)).getD Config.agentImage)).toNat / 8)
    (x.th l).rsCount.toNat
/-- Rounding of a lane: mod[2:0], .sat and the stochastic bits. -/
def Iss.rnd (x : Iss) (l : Nat) : Rnd :=
  { mode := x.f.mod.toNat % 8, sat := x.f.mod.getLsbD 3, bits := if x.stoch then x.draws l else 0 }
def Iss.rdn (x : Iss) : Bool := x.f.mod.toNat % 8 == 2

/-- A result with its exceptions. -/
structure FpWrite where
  w : Write
  ex : Nat
  deriving DecidableEq, Repr

/-- The enabled exceptions of the lanes' results, with the lanes that have some (05 R152). -/
def enabledLanes (x : Iss) (rs : List (Nat × FpWrite)) : List Nat :=
  (rs.filter (fun r => r.2.ex &&& (x.th r.1).enables != 0)).map (·.1)
def enabledUnion (x : Iss) (rs : List (Nat × FpWrite)) : Nat :=
  rs.foldl (fun m r => m ||| (r.2.ex &&& (x.th r.1).enables)) 0
/-- A thread after its result: the destination, the sticky flags and the count (05 R150 to R152). -/
def Iss.putFp (x : Iss) (t : Thread) (r : FpWrite) : Thread :=
  let t := x.put t r.w
  { t with fpFlags := t.fpFlags ||| BitVec.ofNat 32 r.ex,
           rsCount := if x.stoch then t.rsCount + 1 else t.rsCount }
/-- Write the results of several lanes. -/
def Iss.putAll (x : Iss) (s : State) (rs : List (Nat × FpWrite)) : State :=
  rs.foldl (fun s r => s.modThread x.g.core x.g.slot r.1 (fun t => x.putFp t r.2)) s

/-- Execute of a floating-point instruction (05 R152): all lanes write, or none does and the enabled
exceptions raise the arithmetic trap. -/
def fpLanes (h : Iss → Nat → FpWrite) (x : Iss) (s : State) : Act :=
  let rs := x.ex.map (fun l => (l, h x l))
  match enabledLanes x rs with
  | [] => .done (x.putAll s rs) x.ex
  | l :: t => .trap s [] trapArith (enabledUnion x rs) (l :: t)

/-! ### Operands -/

def Iss.flush (x : Iss) (l : Nat) (ty : BitVec 3) (v : FVal) : FVal := v.flush ty (x.th l).ftz
/-- The sources read in the type, flushed where FTZ says so. -/
def Iss.fa (x : Iss) (l : Nat) : FVal := x.flush l x.f.ty (fVal x.f.ty (x.a l))
def Iss.fb (x : Iss) (l : Nat) : FVal := x.flush l x.f.ty (fVal x.f.ty (x.b l))
def Iss.fc (x : Iss) (l : Nat) : FVal := x.flush l x.f.ty (fVal x.f.ty (x.c l))
/-- The immediate as an operand (05 R162). -/
def Iss.fi (x : Iss) (l : Nat) : FVal := x.flush l x.f.ty (fImm x.f.ty (x.f.imm.toNat % 2 ^ 16))

/-- A result in type `ty` from its exact value, under the lane's rounding and FTZ. -/
def Iss.outAs (x : Iss) (ty : BitVec 3) (l : Nat) (r : FRes) (ex : Nat) : FpWrite :=
  let o := r.out ty (x.rnd l) (x.th l).ftz
  { w := { d := some o.1 }, ex := o.2 ||| ex }
/-- Arithmetic in ty: the exact value with further exceptions. -/
def fpOp (h : Iss → Nat → FRes × Nat) : Iss → State → Act :=
  fpLanes (fun x l => let r := h x l; x.outAs x.f.ty l r.1 r.2)
/-- A code written as it is. -/
def fpCode (h : Iss → Nat → Nat × Nat) : Iss → State → Act :=
  fpLanes (fun x l => let r := h x l; { w := { d := some r.1 }, ex := r.2 })

end Sys2Proof.Machine
end

