-- ==== Sys2Proof/Machine/Integer.lean ====
section
/-! DEFINITION. Integer, address and lane instructions that act on each lane alone (04 R115 to R132). -/

namespace Sys2Proof.Machine

/-! ### Types (04 Table 1) -/

def intSigned (ty : BitVec 3) : Bool := ty == 0 || ty == 2
def intSm (ty : BitVec 3) : Bool := ty == 6 || ty == 7
/-- The value of a sign-magnitude code of `w` bits (04 R115, R116). -/
def smDec (w v : Nat) : Int :=
  let m : Int := (v % 2 ^ (w - 1) : Nat)
  if v / 2 ^ (w - 1) % 2 = 1 then -m else m
/-- The code of a value, 0 being the code 0 (04 R116). -/
def smEnc (w : Nat) (v : Int) : Nat := if v < 0 then 2 ^ (w - 1) + v.natAbs else v.natAbs
/-- The value that a type reads (04 Table 1). -/
def intVal (ty : BitVec 3) (v : Nat) : Int :=
  if intSm ty then smDec (intBits ty) (v % 2 ^ intBits ty)
  else if intSigned ty then sint (intBits ty) v else ((v % 2 ^ intBits ty : Nat) : Int)
/-- Lo and Hi of 04 Table 1. -/
def intLo (ty : BitVec 3) : Int :=
  if ty == 6 then -127 else if ty == 7 then -7 else if intSigned ty then -(2 ^ (intBits ty - 1) : Nat) else 0
def intHi (ty : BitVec 3) : Int :=
  if ty == 6 then 127 else if ty == 7 then 7
  else if intSigned ty then (2 ^ (intBits ty - 1) : Nat) - 1 else (2 ^ intBits ty : Nat) - 1
/-- Fit of 04 R117. -/
def fit (ty : BitVec 3) (sat : Bool) (v : Int) : Nat :=
  if intSm ty then smEnc (intBits ty) (max (intLo ty) (min (intHi ty) v))
  else if sat then wrap (intBits ty) (max (intLo ty) (min (intHi ty) v))
  else wrap (intBits ty) v

/-! ### Operands of a lane -/

/-- The sources as values of the type. -/
def Iss.x (s : Iss) (l : Nat) : Int := intVal s.f.ty (s.a l)
def Iss.y (s : Iss) (l : Nat) : Int := intVal s.f.ty (s.b l)
def Iss.z (s : Iss) (l : Nat) : Int := intVal s.f.ty (s.c l)
def Iss.sat (s : Iss) : Bool := s.f.mod.getLsbD 3
/-- imm16 sign-extended. -/
def Iss.simm (s : Iss) : Int := sint 16 s.f.imm.toNat
def Iss.uimm (s : Iss) : Nat := s.f.imm.toNat % 2 ^ 16
/-- The width W of the type. -/
def Iss.w (s : Iss) : Nat := intBits s.f.ty

/-- Fit(v) into d (04 R121). -/
def arith (v : Iss → Nat → Int) : Iss → State → Act :=
  perLane (fun x l => { d := some (fit x.f.ty x.sat (v x l)) })
/-- A bit pattern into d. -/
def bits (v : Iss → Nat → Nat) : Iss → State → Act := perLane (fun x l => { d := some (v x l) })

/-- 04 R121. -/
def execAdd (o : AForm) (s : State) : Host.Outcome State Fault Refusal :=
  issue (.add o) (arith (fun x l => x.x l + x.y l)) s
/-- 04 R121. -/
def execSub (o : AForm) (s : State) : Host.Outcome State Fault Refusal :=
  issue (.sub o) (arith (fun x l => x.x l - x.y l)) s

/-- A carry chain: the exact result of unsigned x, y and the carry P(c), and the carry out, which goes
to P(c) (04 R122). -/
def carry (v : Int → Int → Int → Int) (out : Nat → Int → Bool) (x : Iss) (s : State) : Act :=
  .done (s.modThreads x.g.core x.g.slot x.ex (fun l t =>
    let ci : Int := if x.predOf x.f.c l then 1 else 0
    let r := v (x.a l) (x.b l) ci
    (t.dest x.f.d x.w (wrap x.w r)).setPred (x.f.c.toNat % 8) (out x.w r))) x.ex
/-- 04 R122. -/
def execAddc (o : AForm) (s : State) : Host.Outcome State Fault Refusal :=
  issue (.addc o) (carry (fun x y c => x + y + c) (fun w v => decide ((2 ^ w : Nat) ≤ v))) s
/-- 04 R122. -/
def execSubb (o : AForm) (s : State) : Host.Outcome State Fault Refusal :=
  issue (.subb o) (carry (fun x y c => x - y - c) (fun _ v => decide (v < 0))) s
/-- 04 R121. -/
def execMin (o : AForm) (s : State) : Host.Outcome State Fault Refusal :=
  issue (.min o) (arith (fun x l => min (x.x l) (x.y l))) s
/-- 04 R121. -/
def execMax (o : AForm) (s : State) : Host.Outcome State Fault Refusal :=
  issue (.max o) (arith (fun x l => max (x.x l) (x.y l))) s
/-- 04 R121. -/
def execAbs (o : AForm) (s : State) : Host.Outcome State Fault Refusal :=
  issue (.abs o) (arith (fun x l => ((x.x l).natAbs : Int))) s
/-- 04 R121. -/
def execMul (o : AForm) (s : State) : Host.Outcome State Fault Refusal :=
  issue (.mul o) (arith (fun x l => x.x l * x.y l)) s
/-- 04 R123. -/
def execMulhi (o : AForm) (s : State) : Host.Outcome State Fault Refusal :=
  issue (.mulhi o) (bits (fun x l => wrap x.w (x.x l * x.y l / (2 ^ x.w : Nat)))) s
/-- 04 R123. -/
def execMulw (o : AForm) (s : State) : Host.Outcome State Fault Refusal :=
  issue (.mulw o) (bits (fun x l => wrap 64 (x.x l * x.y l))) s
/-- 04 R121. -/
def execMad (o : AForm) (s : State) : Host.Outcome State Fault Refusal :=
  issue (.mad o) (arith (fun x l => x.x l * x.y l + x.z l)) s

/-! ### Logic, shifts and bit fields -/

/-- The complement of `v` at `w` bits. -/
def compl (w v : Nat) : Nat := 2 ^ w - 1 - v % 2 ^ w
/-- 04 R124. -/
def execAnd (o : AForm) (s : State) : Host.Outcome State Fault Refusal :=
  issue (.and o) (bits (fun x l => x.a l &&& x.b l)) s
/-- 04 R124. -/
def execOr (o : AForm) (s : State) : Host.Outcome State Fault Refusal :=
  issue (.or o) (bits (fun x l => x.a l ||| x.b l)) s
/-- 04 R124. -/
def execXor (o : AForm) (s : State) : Host.Outcome State Fault Refusal :=
  issue (.xor o) (bits (fun x l => x.a l ^^^ x.b l)) s
/-- 04 R124. -/
def execAndn (o : AForm) (s : State) : Host.Outcome State Fault Refusal :=
  issue (.andn o) (bits (fun x l => x.a l &&& compl x.w (x.b l))) s

/-- The shifts of 04 R125 on `w` bits. -/
def shlN (w x s : Nat) : Nat := if w ≤ s then 0 else x * 2 ^ s % 2 ^ w
def shrN (w x s : Nat) : Nat := if w ≤ s then 0 else x / 2 ^ s
def sarN (w x s : Nat) : Nat := wrap w (sint w x / (2 ^ min s (w - 1) : Nat))
def rorN (w x s : Nat) : Nat :=
  let k := s % w
  (x / 2 ^ k + x * 2 ^ (w - k)) % 2 ^ w
def fshN (w x y z : Nat) : Nat :=
  let k := z % (2 * w)
  (x * 2 ^ w + y) / 2 ^ k % 2 ^ w

/-- 04 R125. -/
def execShl (o : AForm) (s : State) : Host.Outcome State Fault Refusal :=
  issue (.shl o) (bits (fun x l => shlN x.w (x.a l) (x.b l))) s
/-- 04 R125. -/
def execShr (o : AForm) (s : State) : Host.Outcome State Fault Refusal :=
  issue (.shr o) (bits (fun x l => shrN x.w (x.a l) (x.b l))) s
/-- 04 R125. -/
def execSar (o : AForm) (s : State) : Host.Outcome State Fault Refusal :=
  issue (.sar o) (bits (fun x l => sarN x.w (x.a l) (x.b l))) s
/-- 04 R125. -/
def execRor (o : AForm) (s : State) : Host.Outcome State Fault Refusal :=
  issue (.ror o) (bits (fun x l => rorN x.w (x.a l) (x.b l))) s
/-- 04 R125. -/
def execFsh (o : AForm) (s : State) : Host.Outcome State Fault Refusal :=
  issue (.fsh o) (bits (fun x l => fshN x.w (x.a l) (x.b l) (x.c l))) s

/-- The field of 04 R126 with position and length in a control value. -/
def bfxN (signed : Bool) (w : Nat) (e : Int) (ctl : Nat) : Nat :=
  let pos := ctl % 256
  let len := min (ctl / 256 % 256) w
  if len = 0 then 0
  else
    let f := (e / (2 ^ pos : Nat)) % (2 ^ len : Nat)
    let r := if signed && decide ((2 ^ (len - 1) : Nat) ≤ f) then f - (2 ^ len : Nat) else f
    wrap w r
/-- The insert of 04 R126: bits [pos, pos + len) of z replaced by the low bits of x. -/
def bfiN (w x z ctl : Nat) : Nat :=
  let pos := ctl % 256
  let len := ctl / 256 % 256
  let mask := (2 ^ len - 1) * 2 ^ pos % 2 ^ w
  (z &&& compl w mask) ||| (x * 2 ^ pos % 2 ^ w &&& mask)

/-- 04 R126. -/
def execBfx (o : AForm) (s : State) : Host.Outcome State Fault Refusal :=
  issue (.bfx o) (bits (fun x l => bfxN (intSigned x.f.ty) x.w (x.x l) (x.b l))) s
/-- 04 R126. -/
def execBfi (o : AForm) (s : State) : Host.Outcome State Fault Refusal :=
  issue (.bfi o) (bits (fun x l => bfiN x.w (x.a l) (x.c l) (x.b l))) s
/-- Ones among the `n` low bits. -/
def popcN (n v : Nat) : Nat := ((List.range n).filter (fun k => v.testBit k)).length
/-- Zero bits above the highest one bit of `n` bits. -/
def clzN (n v : Nat) : Nat := if v = 0 then n else n - 1 - Nat.log2 v
/-- 04 R127. -/
def execPopc (o : AForm) (s : State) : Host.Outcome State Fault Refusal :=
  issue (.popc o) (bits (fun x l => popcN x.w (x.a l))) s
/-- 04 R127. -/
def execClz (o : AForm) (s : State) : Host.Outcome State Fault Refusal :=
  issue (.clz o) (bits (fun x l => clzN x.w (x.a l))) s

/-! ### Immediate forms -/

/-- 04 R121. -/
def execAddi (o : IForm) (s : State) : Host.Outcome State Fault Refusal :=
  issue (.addi o) (arith (fun x l => x.x l + x.simm)) s
/-- 04 R121. -/
def execMuli (o : IForm) (s : State) : Host.Outcome State Fault Refusal :=
  issue (.muli o) (arith (fun x l => x.x l * x.simm)) s
/-- 04 R124. -/
def execAndi (o : IForm) (s : State) : Host.Outcome State Fault Refusal :=
  issue (.andi o) (bits (fun x l => x.a l &&& x.uimm)) s
/-- 04 R124. -/
def execOri (o : IForm) (s : State) : Host.Outcome State Fault Refusal :=
  issue (.ori o) (bits (fun x l => x.a l ||| x.uimm)) s
/-- 04 R132; imm16 stands zero-extended (log entry 27). -/
def execLid (o : IForm) (s : State) : Host.Outcome State Fault Refusal :=
  issue (.lid o) (bits (fun x l => (32 * (x.old.weave x.g.core x.g.slot).index + l + x.uimm) % 2 ^ 32)) s
/-- 04 R125. -/
def execShli (o : IForm) (s : State) : Host.Outcome State Fault Refusal :=
  issue (.shli o) (bits (fun x l => shlN x.w (x.a l) x.uimm)) s
/-- 04 R125. -/
def execShri (o : IForm) (s : State) : Host.Outcome State Fault Refusal :=
  issue (.shri o) (bits (fun x l => shrN x.w (x.a l) x.uimm)) s
/-- 04 R125. -/
def execSari (o : IForm) (s : State) : Host.Outcome State Fault Refusal :=
  issue (.sari o) (bits (fun x l => sarN x.w (x.a l) x.uimm)) s
/-- 04 R126. -/
def execBfxi (o : IForm) (s : State) : Host.Outcome State Fault Refusal :=
  issue (.bfxi o) (bits (fun x l => bfxN (intSigned x.f.ty) x.w (x.x l) x.uimm)) s

/-! ### Compare, select, constants and addresses -/

/-- The conditions of 04 Table 5. -/
def condHolds (code : Nat) (x y : Int) : Bool :=
  match code with
  | 0 => x == y
  | 1 => x != y
  | 2 => decide (x < y)
  | 3 => decide (x ≤ y)
  | 4 => decide (y < x)
  | _ => decide (y ≤ x)
/-- 04 R128: imm16 is sign-extended for signed types and zero-extended for unsigned ones. -/
def execCmpi (o : IForm) (s : State) : Host.Outcome State Fault Refusal :=
  issue (.cmpi o) (perLane (fun x l => { p := some (condHolds (x.f.b.toNat % 8) (x.x l)
    (if intSigned x.f.ty then x.simm else x.uimm)) })) s
/-- 04 R131. -/
def execLea (o : IForm) (s : State) : Host.Outcome State Fault Refusal :=
  issue (.lea o) (bits (fun x l => wrap 64 (x.a l + x.y l * (2 ^ (x.uimm / 2 ^ 13) : Nat) + sint 13 x.uimm))) s
/-- 04 R128. -/
def execCmp (o : AForm) (s : State) : Host.Outcome State Fault Refusal :=
  issue (.cmp o) (perLane (fun x l => { p := some (condHolds (x.f.c.toNat % 8) (x.x l) (x.y l)) })) s
/-- 04 R129. -/
def execSel (o : AForm) (s : State) : Host.Outcome State Fault Refusal :=
  issue (.sel o) (bits (fun x l => if x.predOf x.f.c l then x.a l else x.b l)) s
/-- 04 R130. -/
def execLi (o : LForm) (s : State) : Host.Outcome State Fault Refusal :=
  issue (.li o) (bits (fun x _ => x.f.imm.toNat % 2 ^ x.w)) s
/-- ImageBase of 04 R130. -/
def Iss.imageBase (x : Iss) : Nat := ((x.old.desc x.g).map (·.image)).getD Config.agentImage
/-- 04 R130. -/
def execLda (o : LForm) (s : State) : Host.Outcome State Fault Refusal :=
  issue (.lda o) (bits (fun x _ => (x.imageBase + x.f.imm.toNat) % 2 ^ 64)) s

end Sys2Proof.Machine
end

