-- ==== Sys2Proof/Machine/Registers.lean ====
section
/-! DEFINITION. The memory-mapped registers of the package: what a read returns (12 R394, R396, R403,
R409; 00 R7). -/

namespace Sys2Proof.Machine

/-- Offsets in the register region 0x3F00_0000_0000. -/
def regNotify : Nat := 0x3F0000100000
def regControl : Nat := 0x3F0000101000
def regDescriptor : Nat := 0x3F0000102000
def regSave : Nat := 0x3F0000103000
def regTickets : Nat := 0x3F0000103100
def regPartmap : Nat := 0x3F0000104000
def regLeasectl : Nat := 0x3F0000200000

/-- Which register an aligned local address names. -/
inductive DevReg
  | notify (q : Nat)
  | control (q : Nat)
  | descriptor (q word : Nat)
  | saveBase
  | saveLen
  | tickets (p : Nat)
  | partmap (i : Nat)
  | leasectl
  | other (a : Nat)
  deriving DecidableEq, Repr

def devReg (a : Nat) : DevReg :=
  if regNotify ≤ a ∧ a < regNotify + 4096 ∧ a % 64 = 0 then .notify ((a - regNotify) / 64)
  else if regControl ≤ a ∧ a < regControl + 4096 ∧ a % 64 = 0 then .control ((a - regControl) / 64)
  else if regDescriptor ≤ a ∧ a < regDescriptor + 4096 then
    .descriptor ((a - regDescriptor) / 64) ((a - regDescriptor) % 64 / 8)
  else if a = regSave then .saveBase
  else if a = regSave + 8 then .saveLen
  else if regTickets ≤ a ∧ a < regTickets + 64 then .tickets ((a - regTickets) / 8)
  else if regPartmap ≤ a ∧ a < regPartmap + 72 then .partmap ((a - regPartmap) / 8)
  else if a = regLeasectl then .leasectl
  else .other a

/-- What firmware configures through device registers whose address and layout the spec does not give (log entry 66). -/
inductive FwKind
  /-- the power limit in mW (01 R24) -/
  | power
  /-- base, bytes and record limit of an Ethernet receive ring (13 R432) -/
  | ringBase | ringSize | ringLimit
  /-- an entry of the tile-window table: invalid for 0, else 1 + core + 144 × physical slot (13 R433) -/
  | window
  /-- the owner tag of a 512 KiB frame (13 R434) -/
  | tag
  /-- the standby thread of the queue processor (12 R406) -/
  | standby
  deriving DecidableEq, Repr
def fwKind (n : Nat) : Option FwKind :=
  match n with
  | 1 => some .power
  | 2 => some .ringBase
  | 3 => some .ringSize
  | 4 => some .ringLimit
  | 5 => some .window
  | 6 => some .tag
  | 7 => some .standby
  | _ => none

/-- The bits of word `w` of a queue descriptor that are not reserved (12 Table 13; 00 R9). -/
def descMask (w : Nat) : DWord :=
  match w with
  | 0 => 0x1F
  | 1 => 0xFFFFFFFFFFFFFF0F
  | 2 | 3 | 4 => 0xFFFFFFFFFFFFFFFF
  | _ => 0
/-- The 64-bit register at a local address that is a multiple of 8. -/
def State.devRead (s : State) (a : Nat) : DWord :=
  match devReg a with
  | .notify _ => 0
  | .control q => if (s.queue q).active then 1 else 0
  | .descriptor q w => (s.queue q).words.getD w 0 &&& descMask w
  | .saveBase => s.qpsaveb
  | .saveLen => s.qpsavel
  | .tickets p => tabGet 0 p s.qptkc
  | .partmap i => tabGet 0 i s.partmap
  | .leasectl => s.leasectl
  | .other a => tabGet 0 a s.devregs
/-- `n` bytes of the registers from a local address on, little-endian. -/
def State.devBytes (s : State) (a n : Nat) : Nat :=
  ((s.devRead (a / 8 * 8)).toNat + 2 ^ 64 * (s.devRead (a / 8 * 8 + 8)).toNat) / 2 ^ (8 * (a % 8)) % 2 ^ (8 * n)

end Sys2Proof.Machine
end

