-- ==== Sys2Proof/Machine/Loads.lean ====
section
/-! DEFINITION. Loads, stores and prefetches (06 R176 to R187). -/

namespace Sys2Proof.Machine

/-- Bytes of an element of the type (02 Table 2). -/
def memBytes (ty : BitVec 3) : Nat := 2 ^ ty.toNat
/-- k of ldm and stm (06 Table 3). -/
def Iss.elems (x : Iss) : Nat := 2 ^ (x.f.b.toNat % 4 + 1)
/-- Whether ld, ldx, st and stx at this type are admitted to device-class pages (06 Table 11). -/
def devWidth (ty : BitVec 3) : Bool := ty == 2 || ty == 3

/-- What distinguishes the loads and the stores: indexed, sign-extended, non-temporal, several
elements, admitted to device-class pages. -/
structure MemKind where
  indexed : Bool := false
  signed : Bool := false
  nt : Bool := false
  multi : Bool := false
  dev : Bool := false
  deriving DecidableEq, Repr

/-- Bytes of one lane's access (06 R183). -/
def MemKind.size (k : MemKind) (x : Iss) : Nat := (if k.multi then x.elems else 1) * memBytes x.f.ty
def MemKind.acc (k : MemKind) (x : Iss) (wr : Bool) : Acc :=
  { rd := !wr, wr := wr, sync := !k.nt && !k.multi, dev := k.dev && devWidth x.f.ty,
    align := k.size x, size := k.size x }
def MemKind.ea (k : MemKind) (x : Iss) (l : Nat) : Nat := x.ea k.indexed (memBytes x.f.ty) l

/-! ### Loads -/

/-- The value at a place as a thread's load returns it, registers included (log entry 19). -/
def State.loadValue (s : State) (c w l : Nat) (loc : Loc) (n : Nat) : Nat :=
  match loc with
  | .mem pa =>
    if !regsAddr pa then s.seen c w l loc n
    else if s.isLocal pa then s.devBytes (localAddr pa) n
    else Config.remoteRegister s.tick pa % 2 ^ (8 * n)
  | .spad _ _ => s.seen c w l loc n
/-- Sign extension of `n` bytes to 32 bits where the load asks for it (06 R180). -/
def extendLoad (signed : Bool) (n v : Nat) : Nat := if signed then wrap 32 (sint (8 * n) v) else v

/-- One lane of a load: it waits where the read set has no room, else its result is posted. `bad`: the address of
the lowest lane that reads poison. -/
def Iss.loadLane (x : Iss) (k : MemKind) (bad : Option Nat) (r : State × List Nat) (q : Lane) : State × List Nat :=
  let n := k.size x
  let c := x.g.core
  let w := x.g.slot
  let s := r.1.prepLoad c w q n (!k.nt)
  match s.enterReads c w q.l (q.loc.span n) with
  | none => (s.hold x.g [q.l], r.2)
  | some s =>
    let v := if s.anyPoison (q.loc.span n) then none
      else some (extendLoad k.signed n (s.loadValue c w q.l q.loc n))
    (s.defer x q.l x.f.d (x.r.d.width x.f.b) v (bad.getD q.ea), r.2 ++ [q.l])
/-- The address of the lowest lane whose data is poisoned: what the weave's poison record is to keep of this load
(06 R216, 12 Table 4). -/
def State.poisonAddr (s : State) (n : Nat) (qs : List Lane) : Option Nat :=
  ((qs.filter (fun q => s.anyPoison (q.loc.span n))).head?).map (·.ea)
/-- Execute of a load (06 R180, R189). -/
def loadBody (k : MemKind) (x : Iss) (s : State) : Act :=
  match x.access s (k.acc x false) (k.ea x) with
  | .stop a => a
  | .go s qs =>
    let r := qs.foldl (x.loadLane k (s.poisonAddr (k.size x) qs)) (s, [])
    .done r.1 r.2

/-- 06 R180. -/
def execLd (o : MForm) (s : State) : Host.Outcome State Fault Refusal := issue (.ld o) (loadBody { dev := true }) s
/-- 06 R180. -/
def execLds (o : MForm) (s : State) : Host.Outcome State Fault Refusal := issue (.lds o) (loadBody { signed := true }) s
/-- 06 R180. -/
def execLdx (o : MForm) (s : State) : Host.Outcome State Fault Refusal :=
  issue (.ldx o) (loadBody { indexed := true, dev := true }) s
/-- 06 R180. -/
def execLdxs (o : MForm) (s : State) : Host.Outcome State Fault Refusal :=
  issue (.ldxs o) (loadBody { indexed := true, signed := true }) s
/-- 06 R184. -/
def execLdnt (o : MForm) (s : State) : Host.Outcome State Fault Refusal := issue (.ldnt o) (loadBody { nt := true }) s
/-- 06 R184. -/
def execLdxnt (o : MForm) (s : State) : Host.Outcome State Fault Refusal :=
  issue (.ldxnt o) (loadBody { indexed := true, nt := true }) s
/-- 06 R183. -/
def execLdm (o : MForm) (s : State) : Host.Outcome State Fault Refusal := issue (.ldm o) (loadBody { multi := true }) s

/-! ### The non-faulting load (06 R185) -/

/-- Value and status of a lane that performs. -/
def Iss.ldnfLane (x : Iss) (k : MemKind) (r : State × List Nat) (q : Lane) : State × List Nat :=
  let n := k.size x
  let c := x.g.core
  let w := x.g.slot
  let s := r.1.prepLoad c w q n true
  match s.enterReads c w q.l (q.loc.span n) with
  | none => (s.hold x.g [q.l], r.2)
  | some s =>
    let bad := s.anyPoison (q.loc.span n)
    let v := if bad then 0 else s.loadValue c w q.l q.loc n
    (s.modThread c w q.l (fun t => (t.dest x.f.d (8 * n) v).setPred (x.f.b.toNat % 8) (!bad)), r.2 ++ [q.l])
/-- Lanes whose checks end in a trap write zero and clear P(b). -/
def Iss.ldnfFail (x : Iss) (s : State) (ls : List Nat) : State :=
  s.modThreads x.g.core x.g.slot ls (fun _ t =>
    (t.dest x.f.d (x.r.d.width x.f.b) 0).setPred (x.f.b.toNat % 8) false)
/-- The group stands at the word: its lanes wait, but those that have parked or are on their way to a lender. -/
def Iss.stay (x : Iss) (s : State) : State :=
  x.unrun (s.hold x.g (x.g.lanes.filter (fun l => (s.thread x.g.core x.g.slot l).mode == .ready))) x.g.lanes
/-- Execute of ldnf: the lanes that do not park complete together, once each of them has its value and status. -/
def ldnfBody (x : Iss) (s : State) : Act :=
  let k : MemKind := {}
  if s.atomPending x.g.core x.g.slot x.ex then .wait s
  else
    let r := s.checkList x.agent (k.acc x false) (x.ex.map (k.ea x))
    let cs := x.answers r.1 ((x.ex.zip r.2).map (fun c => (c.1, k.ea x c.1, c.2)))
    let bad := (cs.filter (fun c => match c.2.2 with
      | .bad _ _ _ => true
      | _ => false)).map (·.1)
    match x.settle r.1 false cs with
    | none => .wait s
    | some (s, qs) =>
      let parked := x.ex.filter (fun l => (s.thread x.g.core x.g.slot l).mode == .parked)
      let r := qs.foldl (x.ldnfLane k) (x.ldnfFail s bad, bad)
      if x.ex.all (fun l => parked.contains l || r.2.contains l) then .done r.1 r.2 else .whole (x.stay s)
/-- 06 R185. -/
def execLdnf (o : MForm) (s : State) : Host.Outcome State Fault Refusal := issue (.ldnf o) ldnfBody s

/-! ### Stores -/

/-- The bytes that a store's executing lanes write before the coalescer's merge; `en` tells the enabled bytes of a
lane. Bytes that a higher lane of an earlier issue took are no more the lane's (06 R181). -/
def Iss.unmerged (x : Iss) (k : MemKind) (en : Nat → Nat → Bool) : List LaneByte :=
  ((x.ex.map (fun l => laneBytes l (k.ea x l) (k.size x) (en l))).flatten).filter (fun b => !(x.th b.l).ceded.any (fun c => c.1 == b.ea))
/-- The bytes that they write after it (06 R181, R182). -/
def Iss.merged (x : Iss) (k : MemKind) (en : Nat → Nat → Bool) : List LaneByte := mergeBytes (x.unmerged k en)
/-- The lanes that have not stored lose the bytes that a higher lane writes, for their replay too (06 R181). -/
def Iss.yieldBytes (x : Iss) (k : MemKind) (en : Nat → Nat → Bool) (s : State) (ran : List Nat) : State :=
  let bs := x.unmerged k en
  s.modThreads x.g.core x.g.slot (x.ex.filter (fun l => !ran.contains l)) (fun l t => { t with
    ceded := (bs.filter (fun b => b.l = l)).flatMap (fun b =>
      (bs.filter (fun c => decide (l < c.l) && c.ea == b.ea)).map (fun c => (b.ea, c.l))) })
/-- What a lane that performs stores. A lane of a device-class page writes all its bytes (08 R267). One that speculates keeps
the bytes that a higher lane stores too, since that lane may be rolled back alone (08 R295). -/
def Iss.storedBy (x : Iss) (k : MemKind) (en : Nat → Nat → Bool) (q : Lane) : Stored :=
  let all := laneBytes q.l q.ea (k.size x) (en q.l)
  let bs := x.unmerged k en
  let mine := if leafDevice q.leaf then all else (if x.g.spec then bs else mergeBytes bs).filter (fun b => b.l = q.l)
  { lane := q
    bytes := mine.map (fun b => { loc := q.loc.add b.k, val := BitVec.ofNat 8 (x.d q.l / 2 ^ (8 * b.k)), lane := q.l })
    ceded := if x.g.spec then mine.flatMap (fun b =>
      (bs.filter (fun c => decide (q.l < c.l) && c.ea == b.ea)).map (fun c => (c.l, q.loc.add b.k))) else [] }
/-- Execute of a store (06 R181, R187; 08 R257, R291). -/
def storeBody (k : MemKind) (en : Iss → Nat → Nat → Bool) (x : Iss) (s : State) : Act :=
  match x.access s (k.acc x true) (k.ea x) with
  | .stop a => a
  | .go s' qs =>
    match x.store s' (x.f.mod.getLsbD 3) (k.size x) (qs.map (x.storedBy k (en x))) with
    | none => .wait s
    | some (s, ran) => .done (if ran.length = x.ex.length then s else x.yieldBytes k (en x) s ran) ran
def allBytes (_x : Iss) (_l _k : Nat) : Bool := true

/-- 06 R181. -/
def execSt (o : MForm) (s : State) : Host.Outcome State Fault Refusal := issue (.st o) (storeBody { dev := true } allBytes) s
/-- 06 R181. -/
def execStx (o : MForm) (s : State) : Host.Outcome State Fault Refusal :=
  issue (.stx o) (storeBody { indexed := true, dev := true } allBytes) s
/-- 06 R184. -/
def execStnt (o : MForm) (s : State) : Host.Outcome State Fault Refusal := issue (.stnt o) (storeBody { nt := true } allBytes) s
/-- 06 R184. -/
def execStxnt (o : MForm) (s : State) : Host.Outcome State Fault Refusal :=
  issue (.stxnt o) (storeBody { indexed := true, nt := true } allBytes) s
/-- 06 R183. -/
def execStm (o : MForm) (s : State) : Host.Outcome State Fault Refusal := issue (.stm o) (storeBody { multi := true } allBytes) s
/-- 06 R182. -/
def execStbe (o : MForm) (s : State) : Host.Outcome State Fault Refusal :=
  issue (.stbe o) (storeBody {} (fun x l k => (x.b l).testBit k)) s

/-- The line that a lane's prefetch fetches into the cache-role banks, and whether its page is of the synchronisation class:
none where its access would fail or wait (06 R186). -/
def prefetchLine (s : State) (c : Chk) : Option (Nat × Bool) :=
  match c with
  | .ok (.mem pa) leaf =>
    if (leafPlain leaf || leafSync leaf) && !regsAddr pa && !s.refreshing pa && !s.memPoison pa then some (pa / 128, leafSync leaf)
    else none
  | _ => none
/-- The line comes into the core's banks: under a hold, or as copies of its half-lines where the page is of the
synchronisation class (07 R250, 08 R282). -/
def State.prefetchIn (s : State) (c : Nat) (team : Option Nat) (n : Nat × Bool) : State :=
  if n.2 then (s.syncTouch (n.1 * 128) (some c) team).syncTouch (n.1 * 128 + 64) (some c) team
  else s.grantHold c n.1
/-- A prefetch changes no architected state, traps in no lane and parks none, and what its lookups would have left in
page tables and TLBs does not stay; the line comes into the core's banks
under a hold, and with .llc into the home slice alone, which is where it lives (06 R186, 07 R250). -/
def prefetchBody (indexed : Bool) (x : Iss) (s : State) : Act :=
  let k : MemKind := { indexed := indexed }
  if x.f.mod.getLsbD 3 then .done s x.ex
  else
    let r := s.checkList x.agent (k.acc x false) (x.ex.map (k.ea x))
    .done ((r.2.filterMap (prefetchLine r.1)).foldl (fun u n => u.prefetchIn x.g.core x.agent.team n) s) x.ex
/-- 06 R186. -/
def execPf (o : MForm) (s : State) : Host.Outcome State Fault Refusal := issue (.pf o) (prefetchBody false) s
/-- 06 R186. -/
def execPfx (o : MForm) (s : State) : Host.Outcome State Fault Refusal := issue (.pfx o) (prefetchBody true) s

end Sys2Proof.Machine
end

