-- ==== Sys2Proof/Machine/Maps.lean ====
section
/-! DEFINITION. Probes, shootdown, poisoning and scratchpad mapping (06 R193 to R196, R206 to R209). -/

namespace Sys2Proof.Machine

/-! ### Waiting for a core's stores -/

/-- Every store of the weave, and every store that its core has made visible, has been performed. -/
def State.drained (s : State) (c w : Nat) : Bool :=
  (s.weave c w).queued.isEmpty && (s.core c).pending.isEmpty
/-- The same for all weaves of a core, atomics included. -/
def State.coreDrained (s : State) (c : Nat) : Bool :=
  (s.core c).pending.isEmpty && (s.core c).atoms.isEmpty && (s.core c).weaves.all (fun w => w.2.queued.isEmpty)

/-! ### Translation probe -/

/-- The word that tlbp writes (06 R208). -/
def State.probe (s : State) (ctx va : Nat) : Nat :=
  match s.walk ctx va with
  | .ok x =>
    match (if leafLid x.leaf = 0 then none else s.leaseDetail (leafLid x.leaf)) with
    | some d => 2 ^ 63 + 2 * 2 ^ 8 + d
    | none => x.level * 2 ^ 56 + x.pa
  | .fault d _ => 2 ^ 63 + 1 * 2 ^ 8 + d
  | .wait => 0
/-- Execute of tlbp: it waits while a table of a lane's walk is in refresh (06 R200). -/
def tlbpBody (x : Iss) (s : State) : Act :=
  if x.ex.any (fun l => s.walk (x.b l % 2 ^ 16) (x.ea false 1 l) == .wait) then .wait s
  else perLane (fun x l => { d := some (x.old.probe (x.b l % 2 ^ 16) (x.ea false 1 l)) }) x s
/-- 06 R208. -/
def execTlbp (o : MForm) (s : State) : Host.Outcome State Fault Refusal := issue (.tlbp o) tlbpBody s

/-! ### Shootdown -/

/-- The scope of tlbi and tlbs: the whole package, else the issuing die (06 R206). -/
def Iss.pkgScope (x : Iss) : Bool := x.f.mod.toNat % 8 == 4
def inScope (pkg : Bool) (core c : Nat) : Bool := pkg || dieOf c == dieOf core
/-- An entry that a tlbi covers (06 R206). -/
def TlbEnt.hit (e : TlbEnt) (ctx va size : Nat) : Bool :=
  (e.ctx == ctx || bitAt e.leaf.toNat 10) &&
    (size == 3 || (e.level == size && (va % 2 ^ 57) / 2 ^ pageBits e.level == (e.va % 2 ^ 57) / 2 ^ pageBits e.level))
/-- Mark the covered entries of the cores, and drop those of the dies (06 R206). -/
def State.shoot (s : State) (core : Nat) (pkg : Bool) (ctx va size : Nat) : State :=
  { s with
    cores := s.cores.map (fun k => if inScope pkg core k.1 then
      (k.1, { k.2 with tlb := k.2.tlb.map (fun e => if e.hit ctx va size then
        { e with draining := true, mark := (core, pkg) :: e.mark } else e) }) else k)
    dies := s.dies.map (fun d => if pkg || d.1 == dieOf core then
      (d.1, { d.2 with dieTlb := d.2.dieTlb.filter (fun e => !e.hit ctx va size) }) else d) }
/-- Execute of tlbi: its operand is checked under 06 R188 (log entry 28), and the lanes that pass shoot. -/
def tlbiBody (x : Iss) (s : State) : Act :=
  match x.access s { routes := false, reach := false } (x.ea false 1) with
  | .stop a => a
  | .go s qs => .done (qs.foldl (fun s q =>
      s.shoot x.g.core x.pkgScope (x.d q.l % 2 ^ 16) q.ea (x.f.b.toNat % 4)) s) (qs.map (·.l))
/-- 06 R206. -/
def execTlbi (o : MForm) (s : State) : Host.Outcome State Fault Refusal := issue (.tlbi o) tlbiBody s

/-- An entry marked by this agent at this scope. -/
def TlbEnt.marked (e : TlbEnt) (core : Nat) (pkg : Bool) : Bool := e.draining && e.mark.contains (core, pkg)
/-- Cores that hold entries this agent marked. -/
def State.markedCores (s : State) (core : Nat) (pkg : Bool) : List Nat :=
  (s.cores.filter (fun k => k.2.tlb.any (fun e => e.marked core pkg))).map (·.1)
/-- Execute of tlbs (06 R207): it waits for the stores and the accesses under way of the marked cores; an engine's access is
made whole in one step. Speculation there is rolled back (08 R293). -/
def tlbsBody (x : Iss) (s : State) : Act :=
  if x.ex.isEmpty then .done s x.ex
  else
    let cs := s.markedCores x.g.core x.pkgScope
    let s := cs.foldl (fun s c => ((s.core c).weaves.map (·.1)).foldl (fun s w =>
      if s.rollWaits c w then s else s.rollWeave c w) s) s
    if cs.all (fun c => (s.core c).settled) then
      .done (cs.foldl (fun s c => s.modCore c (fun k => { k with
        tlb := k.tlb.filter (fun e => !(e.marked x.g.core x.pkgScope)) })) s) x.ex
    else .wait s
/-- 06 R207. -/
def execTlbs (o : MForm) (s : State) : Host.Outcome State Fault Refusal := issue (.tlbs o) tlbsBody s

/-! ### Poisoning -/

/-- Write zero to the sector of a place and set or clear its mark (06 R209). -/
def State.poisSector (s : State) (l : Loc) (on : Bool) : State :=
  let b := l.sector
  ((((s.touchAll (b.span 32)).putBytes b (List.replicate 32 0)).markPoison b on).conflicts [b] (200, 0, 0) (fun _ _ => true)).noteWrite [b]
/-- Execute of pois: it waits for earlier stores and for holds on the line, and is visible at once. -/
def poisBody (x : Iss) (s : State) : Act :=
  match x.access s { wr := true, routes := false } (x.ea false 1) with
  | .stop a => a
  | .go s' qs =>
    if !s.drained x.g.core x.g.slot then .wait s
    else if qs.any (fun q => s.recallWaits none true q.loc 1) then .wait s
    else if qs.any (fun q => s.heldLoc x.g.core q.loc) then .wait (s.waitLines (qs.map (·.loc)))
    else .done (qs.foldl (fun s q => (s.recallSpan none true q.loc 1).poisSector q.loc (!x.f.mod.getLsbD 3)) s') (qs.map (·.l))
/-- 06 R209. -/
def execPois (o : MForm) (s : State) : Host.Outcome State Fault Refusal := issue (.pois o) poisBody s

/-! ### Scratchpad mapping (06 R194) -/

/-- Bytes of a team's scratchpad (06 R193). -/
def Team.spadBytes (t : Team) : Nat := Config.bankBytes * t.spadBanks.length
/-- The lanes whose operands differ from those of the lowest executing lane. -/
def Iss.differ (x : Iss) (v : Nat → List Nat) : List Nat :=
  match x.ex with
  | [] => []
  | l :: t => t.filter (fun m => v m != v l)
/-- Physical ranges [a, a + n) and [b, b + m) meet. -/
def meet (a n b m : Nat) : Bool := decide (a < b + m ∧ b < a + n)
/-- The range is registered by some other team. -/
def State.registered (s : State) (team : Nat) (gs : List Seg) : Bool :=
  s.cores.any (fun k => k.2.teams.any (fun t => t.1 != team && t.2.maps.any (fun m =>
    m.2.segs.any (fun a => gs.any (fun b => meet a.pa a.len b.pa b.len)))))
/-- The range and entry are acceptable before translation. -/
def Team.mapOk (t : Team) (e va off len : Nat) : Bool :=
  va % 128 == 0 && off % 128 == 0 && len % 128 == 0 && decide (128 ≤ len) && decide (off + len ≤ t.spadBytes) &&
    (tabFind e t.maps).isNone && t.maps.all (fun m => !meet m.2.va m.2.len va len)
/-- First addresses of the 512 KiB pages that [va, va + len) meets, with the bytes of each. -/
def pageCuts (va len : Nat) : List (Nat × Nat) :=
  (List.range ((va + len - 1) / 2 ^ 19 - va / 2 ^ 19 + 1)).map (fun i =>
    let a := max va ((va / 2 ^ 19 + i) * 2 ^ 19)
    (a, min (va + len) ((va / 2 ^ 19 + i + 1) * 2 ^ 19) - a))
/-- First addresses of the 128-byte lines that [va, va + len) meets, with the bytes of each: scratchpad mappings begin and
end at lines (06 R194). -/
def lineCuts (va len : Nat) : List (Nat × Nat) :=
  (List.range ((va + len - 1) / 128 - va / 128 + 1)).map (fun i =>
    let a := max va ((va / 128 + i) * 128)
    (a, min (va + len) ((va / 128 + i + 1) * 128) - a))
/-- The physical address at which a place is homed: of a registered one, its backing address. -/
def State.homeOf (s : State) (l : Loc) : Option Nat :=
  match l with
  | .mem pa => some pa
  | .spad t o => ((s.team t).entryAt o).bind (fun e => e.2.backing o)
def State.homeAddr (s : State) (l : Loc) : Nat := (s.homeOf l).getD 0
/-- The level of the leaf that translates an address. -/
def State.leafLevel (s : State) (a : Agent) (va : Nat) : Nat :=
  match (s.translate a.core a.ctx va).2 with
  | .ok t => t.level
  | _ => 0
/-- How the translations of a range end: the first failure with its address, or the segments. -/
def State.segsOf (s : State) (a : Agent) (va : Nat) : List ((Nat × Nat) × Chk) → Except (Nat × Chk) (List Seg)
  | [] => .ok []
  | (c, .ok l leaf) :: t => match s.segsOf a va t with
    | .ok gs => .ok ({ pa := s.homeAddr l, off := c.1 - va, len := c.2, leaf := leaf, level := s.leafLevel a c.1 } :: gs)
    | .error e => .error e
  | (c, k) :: _ => .error (c.1, k)
/-- Translate a range as a store would (06 R194). -/
def State.rangeSegs (s : State) (a : Agent) (va len : Nat) : State × Except (Nat × Chk) (List Seg) :=
  let cuts := pageCuts va len
  let r := s.checkList a { wr := true, routes := false, reach := false } (cuts.map (·.1))
  (r.1, r.1.segsOf a va (cuts.zip r.2))
/-- Register a range and make its entry valid; accesses under way follow (06 R194, R195). -/
def State.mapEntry (s : State) (t e : Nat) (m : MapEnt) : State :=
  (s.modTeam t (fun x => { x with maps := tabSet e m x.maps })).reroute (fun l => match l with
    | .mem pa => ((m.locate pa).map (Loc.spad t)).getD l
    | l => l)
/-- Execute of spmap and spmapz (06 R194). -/
def spmapBody (zero : Bool) (x : Iss) (s : State) : Act :=
  match x.ex with
  | [] => .done s []
  | l :: _ =>
    let e := x.f.d.toNat % 8
    match x.differ (fun l => [x.a l, x.b l, x.c l]), (s.weave x.g.core x.g.slot).team with
    | k :: t, _ => .trap s [] trapProt 9 (k :: t)
    | [], none => .trap s [] trapProt 9 x.ex
    | [], some t =>
      if !(s.team t).mapOk e (x.a l) (x.b l) (x.c l) then .trap s [] trapProt 9 x.ex
      else
        match s.rangeSegs x.agent (x.a l) (x.c l) with
        | (s', .ok gs) =>
          if s'.registered t gs then .trap s' [] trapProt 9 x.ex
          else .done (s'.mapEntry t e { va := x.a l, off := x.b l, len := x.c l, zero := zero, segs := gs }) x.ex
        | (s', .error (_, .bad _ c d)) => .trap s' [] c d x.ex
        | (s', .error (va, .fault c d lv lid _)) =>
          match x.park s' x.g.pc true (x.ex.map (fun n =>
            { lane := n, cause := c, detail := d, level := lv, lid := lid, va := va, scr := true })) with
          | some s => .done s []
          | none => .wait s'
        | (s', .error _) => .wait s'
/-- 06 R194. -/
def execSpmap (o : AForm) (s : State) : Host.Outcome State Fault Refusal := issue (.spmap o) (spmapBody false) s
/-- 06 R194. -/
def execSpmapz (o : AForm) (s : State) : Host.Outcome State Fault Refusal := issue (.spmapz o) (spmapBody true) s

/-- Lines to which a dirty line of a mapping entry is to be written back and on which holds stand, or of which a borrower or
a host has a copy (07 R251, 13 R422). -/
def State.backHeld (s : State) (core t e : Nat) : List Loc :=
  match tabFind e (s.team t).maps with
  | none => []
  | some m => (m.dirty.filterMap (fun n => (m.backing (m.off + n * 128)).map Loc.mem)).filter (fun l =>
      s.heldLoc core l || s.snooped l)
/-- Write-backs wait: no new hold is granted on their lines, and copies are asked for. -/
def State.waitBackLines (s : State) (ls : List Loc) : State := ls.foldl State.snoop (s.waitLines ls)
/-- spclr, spwb and spdrop act once on a valid entry, when earlier stores have been performed and no hold keeps the
write-back waiting (06 R194, 07 R251). -/
def spBody (back : Bool) (h : State → Nat → Nat → State) (x : Iss) (s : State) : Act :=
  match (s.weave x.g.core x.g.slot).team with
  | none => .done s x.ex
  | some t =>
    if x.ex.isEmpty || (tabFind (x.f.d.toNat % 8) (s.team t).maps).isNone then .done s x.ex
    else if !s.drained x.g.core x.g.slot then .wait s
    else match (if back then s.backHeld x.g.core t (x.f.d.toNat % 8) else []) with
      | [] => .done (h s t (x.f.d.toNat % 8)) x.ex
      | l :: ls => .wait (s.waitBackLines (l :: ls))
/-- 06 R194. -/
def execSpclr (o : AForm) (s : State) : Host.Outcome State Fault Refusal := issue (.spclr o) (spBody true State.spadClear) s
/-- 06 R194. -/
def execSpwb (o : AForm) (s : State) : Host.Outcome State Fault Refusal := issue (.spwb o) (spBody true State.spadWriteBack) s
/-- 06 R194. -/
def execSpdrop (o : AForm) (s : State) : Host.Outcome State Fault Refusal := issue (.spdrop o) (spBody false State.spadDrop) s

end Sys2Proof.Machine
end

