-- ==== Sys2Proof/Machine/Sync.lean ====
section
/-! DEFINITION. Atomics, exact sums, fences and waits (08 R261 to R283). -/

namespace Sys2Proof.Machine

/-! ### Exact sums (08 R279, R280) -/

/-- x × 2^149 of a finite value, exact for FP32 and BF16. -/
def exactOf (v : FVal) : Int :=
  match v with
  | .fin n m e => if n then -((m * 2 ^ (e + 149).toNat : Nat) : Int) else ((m * 2 ^ (e + 149).toNat : Nat) : Int)
  | _ => 0
/-- The fields of a cell. -/
structure Cell where
  acc : Nat
  cnt : Nat
  ovf : Bool
  ninf : Bool
  pinf : Bool
  nan : Bool
  user : Nat
  deriving DecidableEq, Repr
def cellOf (v : Nat) : Cell :=
  { acc := bitsAt v 0 320, cnt := bitsAt v 320 60, ovf := bitAt v 380, ninf := bitAt v 381,
    pinf := bitAt v 382, nan := bitAt v 383, user := bitsAt v 384 128 }
def bit (b : Bool) : Nat := if b then 1 else 0
def Cell.word (c : Cell) : Nat :=
  c.acc + 2 ^ 320 * c.cnt + 2 ^ 380 * bit c.ovf + 2 ^ 381 * bit c.ninf + 2 ^ 382 * bit c.pinf +
    2 ^ 383 * bit c.nan + 2 ^ 384 * c.user
/-- xadd. -/
def Cell.add (c : Cell) (v : FVal) : Cell :=
  let n := min (c.cnt + 1) (2 ^ 60 - 1)
  let c := { c with cnt := n, ovf := c.ovf || decide (2 ^ 42 < n) }
  match v with
  | .nan _ _ _ _ => { c with nan := true }
  | .inf true => { c with ninf := true }
  | .inf false => { c with pinf := true }
  | .fin _ _ _ => { c with acc := wrap 320 (c.acc + exactOf v) }
/-- xset. -/
def Cell.put (c : Cell) (v : FVal) : Cell :=
  { c with acc := wrap 320 (exactOf v), cnt := 0, ovf := false, nan := v.isNaN,
           pinf := v.isInf && !v.neg, ninf := v.isInf && v.neg }
/-- xrd: the code in `ty`. -/
def Cell.sum (c : Cell) (ty : BitVec 3) : Nat :=
  if c.nan || c.ovf || (c.pinf && c.ninf) then fQNaN ty false
  else if c.pinf then fInfCode ty false
  else if c.ninf then fInfCode ty true
  else
    let z := sint 320 c.acc
    if z = 0 then 0 else (roundFP ty { mode := 0, sat := false } (decide (z < 0)) z.natAbs (-149) false).1

/-! ### What an atomic does to its location (08 R274, Table 9) -/

/-- The operand of an atomic is this wide in memory, in bytes. -/
def atomBytes (i : Instr) : Nat :=
  let f := i.fields.getD {}
  match i with
  | .xadd _ | .xrd _ | .xset _ => 64
  | .afadd _ => fpBits f.ty / 8
  | _ => syncBits f.ty / 8
/-- The bits stored, none where the atomic stores nothing: `x` operand or comparand, `y` the new value
of cas. -/
def atomNew (i : Instr) (old x y : Nat) : Option Nat :=
  let ty := (i.fields.getD {}).ty
  let w := 8 * atomBytes i
  match i with
  | .cas _ => if old = x then some y else none
  | .swap _ => some x
  | .aadd _ => some ((old + x) % 2 ^ w)
  | .amin _ => some (if intVal ty x < intVal ty old then x else old)
  | .amax _ => some (if intVal ty old < intVal ty x then x else old)
  | .afadd _ => some (((fAddV false (fVal ty old) (fVal ty x)).out ty { mode := 0, sat := false } false).1)
  | .aand _ => some (old &&& x)
  | .aor _ => some (old ||| x)
  | .axor _ => some (old ^^^ x)
  | .ainc _ => some (if x ≤ old then 0 else old + 1)
  | .xadd _ => some ((cellOf old).add (fVal ty x)).word
  | .xset _ => some ((cellOf old).put (fVal ty x)).word
  | _ => none
/-- The value returned; none for xadd and xset. -/
def atomResult (i : Instr) (old : Nat) : Option Nat :=
  match i with
  | .xadd _ | .xset _ => none
  | .xrd o => some ((cellOf old).sum o.ty)
  | _ => some old

/-! ### Issue of an atomic -/

/-- Execute of an atomic: its lanes are posted, their destinations set empty (08 R273, R274). -/
def atomBody (ea : Iss → Nat → Nat) (xv yv : Iss → Nat → Nat) (x : Iss) (s : State) : Act :=
  let n := atomBytes x.i
  match x.access s { rd := true, wr := true, align := n, size := n, atomic := true } (ea x) with
  | .stop a => a
  | .go s qs =>
    let res := (atomResult x.i 0).isSome
    let s := if res then s.modThreads x.g.core x.g.slot (qs.map (·.l)) (fun _ t => t.setEmpty x.f.d (x.r.d.width x.f.b))
      else s
    let one : Lane → AtomLane := fun q =>
      { lane := q.l, loc := q.loc, va := q.ea, sync := leafSync q.leaf,
        x := BitVec.ofNat 128 (xv x q.l), y := BitVec.ofNat 128 (yv x q.l) }
    let a : Atom := { slot := x.g.slot, pc := x.g.pc, instr := x.i, lanes := qs.map one,
                      team := (s.weave x.g.core x.g.slot).team, born := s.tick }
    .done (if qs.isEmpty then s else s.modCore x.g.core (fun k => { k with atoms := k.atoms ++ [a] })) (qs.map (·.l))
/-- M-form: base plus displacement in units of the access width. -/
def eaDisp (x : Iss) (l : Nat) : Nat := x.ea false (atomBytes x.i) l
/-- A-form: the pair a. -/
def eaPair (x : Iss) (l : Nat) : Nat := x.a l
def zeroOf (_x : Iss) (_l : Nat) : Nat := 0

/-- 08 R274. -/
def execCas (o : MForm) (s : State) : Host.Outcome State Fault Refusal := issue (.cas o) (atomBody eaDisp Iss.b Iss.d) s
/-- 08 R274. -/
def execSwap (o : MForm) (s : State) : Host.Outcome State Fault Refusal := issue (.swap o) (atomBody eaDisp Iss.b zeroOf) s
/-- 08 R274. -/
def execAadd (o : MForm) (s : State) : Host.Outcome State Fault Refusal := issue (.aadd o) (atomBody eaDisp Iss.b zeroOf) s
/-- 08 R274. -/
def execAmin (o : MForm) (s : State) : Host.Outcome State Fault Refusal := issue (.amin o) (atomBody eaDisp Iss.b zeroOf) s
/-- 08 R274. -/
def execAmax (o : MForm) (s : State) : Host.Outcome State Fault Refusal := issue (.amax o) (atomBody eaDisp Iss.b zeroOf) s
/-- 08 R274. -/
def execAfadd (o : MForm) (s : State) : Host.Outcome State Fault Refusal := issue (.afadd o) (atomBody eaDisp Iss.b zeroOf) s
/-- 08 R280. -/
def execXadd (o : MForm) (s : State) : Host.Outcome State Fault Refusal := issue (.xadd o) (atomBody eaDisp Iss.d zeroOf) s
/-- 08 R280. -/
def execXrd (o : MForm) (s : State) : Host.Outcome State Fault Refusal := issue (.xrd o) (atomBody eaDisp zeroOf zeroOf) s
/-- 08 R274. -/
def execAand (o : AForm) (s : State) : Host.Outcome State Fault Refusal := issue (.aand o) (atomBody eaPair Iss.b zeroOf) s
/-- 08 R274. -/
def execAor (o : AForm) (s : State) : Host.Outcome State Fault Refusal := issue (.aor o) (atomBody eaPair Iss.b zeroOf) s
/-- 08 R274. -/
def execAxor (o : AForm) (s : State) : Host.Outcome State Fault Refusal := issue (.axor o) (atomBody eaPair Iss.b zeroOf) s
/-- 08 R274. -/
def execAinc (o : AForm) (s : State) : Host.Outcome State Fault Refusal := issue (.ainc o) (atomBody eaPair Iss.b zeroOf) s
/-- 08 R280. -/
def execXset (o : AForm) (s : State) : Host.Outcome State Fault Refusal := issue (.xset o) (atomBody eaPair Iss.b zeroOf) s

/-! ### Performing an atomic (08 R273 to R276) -/

/-- The place belongs to a team of a gang that is saved or flushed: the access waits until it is placed
again (06 R196). -/
def State.awayLoc (s : State) (l : Loc) : Bool :=
  match l with
  | .mem _ => false
  | .spad t _ => (s.findTeam t).isNone && s.gangs.any (fun g => g.teams.any (fun e => e.team = t && !e.completed))
/-- What an atomic follows: the stores of its weave that were queued before it, and those to the same line (08 R259,
R276), stores to it that its core has made visible to its threads (R256), atomics of its weave that were posted before it
there or by the same instruction (R275), and for .ar all stores visible to its core (R263). -/
def atomReady (s : State) (core idx : Nat) (a : Atom) : Bool :=
  let k := s.core core
  let ar := (a.instr.fields.getD {}).mod.getLsbD 3
  let lines := a.lanes.map (fun q => q.loc.line)
  let near := fun (e : StoreEnt) => e.bytes.any (fun b => lines.contains b.loc.line)
  !((k.weave a.slot).queued.any (fun e => decide (e.born ≤ a.born) || near e)) && !(k.pending.any near) &&
    !((k.atoms.take idx).any (fun b => b.slot == a.slot && (b.pc == a.pc || b.lanes.any (fun q => lines.contains q.loc.line)))) &&
    (!ar || (k.pending.isEmpty && (k.weave a.slot).queued.isEmpty)) &&
    a.lanes.all (fun q => !s.awayLoc q.loc && !s.heldLoc core q.loc &&
      !s.recallWaits (k.weave a.slot).team true q.loc (atomBytes a.instr))

/-- One lane of an atomic at its executor (08 R274); `pva` is the address of the lowest lane that reads poison. -/
def State.atomLane (s : State) (core : Nat) (a : Atom) (pva : Option Nat) (q : AtomLane) : State :=
  let n := atomBytes a.instr
  let span := q.loc.span n
  let team := (s.weave core a.slot).team
  let s := (s.touchAll span).recallSpan team true q.loc n
  let s := match q.loc with
    | .mem pa => if q.sync then s.syncTouch pa none team else s
    | .spad _ _ => s
  let old := leNat (span.map s.getByte)
  let bad := s.anyPoison span
  let s := match atomNew a.instr old q.x.toNat q.y.toNat with
    | none => s
    | some v => ((s.putBytes q.loc (leBytes n v)).conflicts span (core, a.slot, q.lane) (fun _ _ => true)).noteWrite span
  match atomResult a.instr old with
  | none => s
  | some v =>
    let f := a.instr.fields.getD {}
    let r := a.instr.row
    if a.slot = 48 || (f.d = 511 && !bad) then s
    else
      let d : Deferred := { slot := a.slot, lane := q.lane, reg := f.d.toNat,
                            cnt := if f.d = 511 then 0 else regsOf (r.d.width f.b),
                            val := (if bad then none else some v), pc := a.pc, va := BitVec.ofNat 64 (pva.getD q.va) }
      s.modCore core (fun k => { k with deferred := k.deferred ++ [d] })

/-- ATOMIC_PERFORM: an atomic that has issued is performed, its lanes in ascending order with nothing
between (08 R274, R275, R276). -/
def execAtomicPerform (core idx : Nat) (s : State) : Host.Outcome State Fault Refusal :=
  match (s.core core).atoms[idx]? with
  | none => .next s
  | some a =>
    if atomReady s core idx a then
      let s := s.modCore core (fun k => { k with atoms := k.atoms.eraseIdx idx })
      let bad := a.lanes.find? (fun q => s.anyPoison (q.loc.span (atomBytes a.instr)))
      .next ((a.lanes.foldl (fun s q => s.atomLane core a (bad.map (·.va)) q) s).freeWeave core a.slot)
    else .next (s.waitLines ((a.lanes.filter (fun q => s.heldLoc core q.loc)).map (·.loc)))

/-! ### Fences (08 R262) -/

/-- A fence that orders stores waits until those visible to the thread have been performed (log
entry 5). -/
def fenceBody (stores : Bool) (x : Iss) (s : State) : Act :=
  if x.ex.isEmpty then .done s x.ex
  else if s.atomPending x.g.core x.g.slot x.ex || (stores && !s.drained x.g.core x.g.slot) then .wait s
  else .done s x.ex
/-- 08 R262. -/
def execFence (o : AForm) (s : State) : Host.Outcome State Fault Refusal := issue (.fence o) (fenceBody true) s
/-- 08 R262. -/
def execFenceAcq (o : AForm) (s : State) : Host.Outcome State Fault Refusal := issue (.fenceAcq o) (fenceBody false) s
/-- 08 R262. -/
def execFenceRel (o : AForm) (s : State) : Host.Outcome State Fault Refusal := issue (.fenceRel o) (fenceBody true) s

/-! ### Waiting for a value (08 R277, R278) -/

/-- A context runs on some core. -/
def State.ctxRuns (s : State) (ctx : Nat) : Bool := s.cores.any (fun k => k.2.teams.any (fun t => t.2.ctx = ctx))
/-- The class of a queue. -/
def State.queueClass (s : State) (q : Nat) : Nat := bitsAt ((s.queue q).words.getD 1 0).toNat 0 3
/-- A class, or the best that the context has inherited where that is better (08 R278). -/
def State.ctxClass (s : State) (ctx cls : Nat) : Nat := ((s.context ctx).inherit.map (·.cls)).foldl min cls
/-- The class of a team: of the queue it came from, or inherited. -/
def State.teamClass (s : State) (t : Nat) : Nat :=
  s.ctxClass (s.team t).ctx (((s.findLaunch (s.team t).launch).map (fun l => s.queueClass l.queue)).getD 3)
/-- A pre-emption that arrives ends the pauses of a team's threads (03 R112). -/
def Weave.endPauses (w : Weave) : Weave :=
  { w with threads := w.threads.map (fun t => (t.1, { t.2 with mode := if t.2.mode == .paused then .ready else t.2.mode })) }
def State.endPauses (s : State) (c : Nat) (x : Team) : State :=
  x.slots.foldl (fun s w => s.modWeave c w Weave.endPauses) s
/-- An event for a core's agent (12 R395): 0 a ticket posted, 1 a fault record, 2 a pre-emption request, 3 a slice end,
4 fwsev, 5 a watchdog kill. -/
def State.wakeAgent (s : State) (core bit : Nat) : State :=
  s.modCore core (fun k => { k with fwEvents := k.fwEvents ||| (1#6 <<< bit) })
/-- The slice of a team has run out at the fabric time `at_`: Pending becomes 1 (12 R413). -/
def State.expire (s : State) (c : Nat) (x : Team) (at_ : Nat) : State :=
  ((s.modTeam x.id (fun y => { y with pre := { y.pre with
    expired := true, left := 0, charged := none, since := at_ } })).endPauses c x).wakeAgent c 3
/-- A context inherits a priority, once for each lock and waiting class. -/
def Context.lend (k : Context) (i : Inherit) : Context :=
  if k.inherit.contains i then k else { k with inherit := k.inherit ++ [i] }
/-- .lk: the holder of the lock, named by the word of `n` bytes at `loc`, is not running: the waiter's slice ends
now, once, and the holder inherits its priority (08 R278, 12 R413). -/
def State.lockWait (s : State) (c w : Nat) (loc : Loc) (n v : Nat) : State :=
  let h := v % 2 ^ 16
  match (s.weave c w).team with
  | none => s
  | some t =>
    if h = 0 || s.ctxRuns h then s
    else
      let s := s.modContext h (fun x => x.lend { cls := s.teamClass t, loc := loc, bytes := n, val := v })
      let y := s.team t
      if y.pre.slice = 0 || y.pre.expired then s else s.expire c y s.time

/-- One lane of waitv reads its word; poisoned data ends its wait as it ends a load (06 R216; log entry 30). -/
def Iss.waitLane (x : Iss) (ne : Bool) (r : State × List Nat) (q : Lane) : State × List Nat :=
  let c := x.g.core
  let w := x.g.slot
  let n := syncBits x.f.ty / 8
  let lk := x.f.mod.getLsbD 3
  let s := r.1.prepLoad c w q n true
  let v := s.loadValue c w q.l q.loc n
  if s.anyPoison (q.loc.span n) then
    ((s.modThread c w q.l (fun t => { t.setPoisoned x.f.d (8 * n) with watch := none })).modWeave c w (fun y =>
      y.poisonLane q.l x.g.spec x.g.pc (BitVec.ofNat 64 q.ea)), r.2 ++ [q.l])
  else if (v == x.b q.l) != ne then
    (s.modThread c w q.l (fun t => { t.dest x.f.d (8 * n) v with watch := none }), r.2 ++ [q.l])
  else
    let s := if lk then s.lockWait c w q.loc n v else s
    ((s.hold x.g [q.l]).modThread c w q.l (fun t => { t with watch := some { instr := x.i, last := v } }), r.2)
/-- Execute of waitv: lanes whose condition holds go on, the others read again. -/
def waitvBody (ne : Bool) (x : Iss) (s : State) : Act :=
  let n := syncBits x.f.ty / 8
  match x.access s { rd := true, align := n, size := n } (eaPair x) with
  | .stop a => a
  | .go s qs =>
    let r := qs.foldl (x.waitLane ne) (s, [])
    .done r.1 r.2
/-- 08 R277. -/
def execWaitvEq (o : AForm) (s : State) : Host.Outcome State Fault Refusal := issue (.waitvEq o) (waitvBody false) s
/-- 08 R277. -/
def execWaitvNe (o : AForm) (s : State) : Host.Outcome State Fault Refusal := issue (.waitvNe o) (waitvBody true) s

/-- WAITV_REREAD: a lane that waits in waitv reads its word again (08 R277). -/
def execWaitvReread (core slot lane : Nat) (s : State) : Host.Outcome State Fault Refusal :=
  let t := s.thread core slot lane
  let s' := { s with cur := { s.cur with core := core, slot := slot, lanes := 1#32 <<< lane } }
  if t.mode == .waiting .retry then
    match t.watch.map (fun (u : Watch) => u.instr) with
    | some (.waitvEq o) => execWaitvEq o s'
    | some (.waitvNe o) => execWaitvNe o s'
    | _ => .next s
  else .next s

end Sys2Proof.Machine
end

