-- ==== Sys2Proof/Machine/Tiles.lean ====
section
/-! DEFINITION. Tile-handle instructions and the tile directories (07 R221 to R249). -/

namespace Sys2Proof.Machine

/-! ### Footprints by page -/

/-- The lowest byte at or above `a` of the sub-tile at `base`. -/
def dimsNext (esz base a : Nat) : List (Nat × Nat × Nat) → Option Nat
  | [] => if a < base + 2 ^ esz then some (max a base) else none
  | (lo, hi, st) :: t =>
    let h := dimsHull esz t
    let i0 := if a < base + lo * st + h.2 then lo else (a + 1 - (base + h.2) + st - 1) / st
    if hi ≤ i0 then none
    else match dimsNext esz (base + i0 * st) a t with
      | some v => some v
      | none => if hi ≤ i0 + 1 then none else dimsNext esz (base + (i0 + 1) * st) a t
def tileNext (d : TileDesc) (a : Nat) : Option Nat := dimsNext d.esz d.base a (pieceDims d (tileWhole d))
def tileTouch (d : TileDesc) (a b : Nat) : Bool := pieceTouch d (tileWhole d) a b

/-- A page that is translated and refused for its class, a poisoned one as the others, or as a page of the Larder: the
detail (07 R231). -/
def classDetail (k : Chk) : Option Nat :=
  match k with
  | .bad 6 _ 6 => some 6
  | .bad 6 _ 7 => some 7
  | .bad 8 _ _ => some 7
  | _ => none
/-- The pages of a footprint in ascending order, each translated, with the details of those that are refused, or the first
failure with its address (07 R231). -/
def State.footPages (s : State) (a : Agent) (acc : Acc) (d : TileDesc) :
    Nat → Nat → State × Except (Nat × Chk) (List (TilePage × Option Nat))
  | 0, _ => (s, .ok [])
  | n + 1, cur =>
    match tileNext d cur with
    | none => (s, .ok [])
    | some v =>
      match s.check a acc v with
      | (s, k) =>
        if !k.passes && (classDetail k).isNone then (s, .error (v, k))
        else match s.translate a.core a.ctx v with
        | (s, .ok x) =>
          let b := pageBits x.level
          let p : TilePage := { va := v / 2 ^ b * 2 ^ b, pa := x.pa / 2 ^ b * 2 ^ b, bits := b }
          match s.footPages a acc d n (p.va + 2 ^ b) with
          | (s, .ok ps) => (s, .ok ((p, classDetail k) :: ps))
          | (s, .error e) => (s, .error e)
        | (s, .fault e l) => (s, .error (v, .fault 1 e l 0 false))
        | (s, .wait) => (s, .error (v, .wait))
/-- An access that translates a footprint: plain pages alone, no lender asked. -/
def tileAcc (write : Bool) : Acc := { rd := !write, wr := write, sync := false, routes := false, reach := false }
def State.tilePages (s : State) (a : Agent) (acc : Acc) (d : TileDesc) :
    State × Except (Nat × Chk) (List (TilePage × Option Nat)) :=
  s.footPages a acc d (tileEnd d / 2 ^ 19 + 1) d.base
/-- The part of the footprint on a page meets a range registered by some team's mapping. -/
def State.tileMapped (s : State) (d : TileDesc) (p : TilePage) : Bool :=
  s.cores.any (fun k => k.2.teams.any (fun t => t.2.maps.any (fun m => m.2.segs.any (fun g =>
    let lo := max g.pa p.pa
    let hi := min (g.pa + g.len) (p.pa + 2 ^ p.bits)
    decide (lo < hi) && tileTouch d (p.va + (lo - p.pa)) (p.va + (hi - p.pa) - 1)))))
/-- The footprint meets the gang's remote-scratch window (06 R196). -/
def State.tileWindow (s : State) (a : Agent) (d : TileDesc) : Bool :=
  s.rswin a != 0 && tileTouch d (s.rswin a) (s.rswin a + 2 ^ 28 - 1)

/-! ### Handles (07 R221, R222, R225) -/

def handleValue (h : Handle) (n : Nat) : Nat := h.gen * 16 + n
/-- One action for every executing lane: lanes that differ from the lowest trap (07 R224). -/
def once (ops : Iss → Nat → List Nat) (h : Iss → State → Nat → Nat → Act) (x : Iss) (s : State) : Act :=
  match x.ex, (s.weave x.g.core x.g.slot).team with
  | [], _ => .done s []
  | _, none => .done s x.ex
  | l :: _, some t =>
    match x.differ (ops x) with
    | k :: r => .trap s [] trapProt 0x19 (k :: r)
    | [] => h x s t l
/-- The request that stands for an issue. -/
def Iss.myReq (x : Iss) (t n : Nat) (r : DirReq) : Bool :=
  r.team == t && r.handle == n && r.slot == x.g.slot && r.pc == x.g.pc
/-- The mark of a thread as the issue meets it: what waits under a handler of the weave itself goes on after it. -/
def Iss.markOf (x : Iss) (w : Nat) (t : Thread) : Option Mark :=
  if w = x.g.slot then t.markNow else t.marked
/-- An instruction that reached the state of the team's index before has still to complete, or a thacq there has pages to
be granted: instructions that name the same index take effect one at a time (07 R224). -/
def Iss.outrun (x : Iss) (s : State) (t n : Nat) : Bool :=
  let mine := (x.ex.map (x.since s)).foldl min s.nextId
  s.dirReqs.any (fun r => r.team = t && r.handle = n && !x.myReq t n r && !r.pages.isEmpty) ||
    (s.team t).slots.any (fun w => (s.weave x.g.core w).threads.any (fun u =>
      !(w == x.g.slot && x.g.lanes.contains u.1) &&
        (x.markOf w u.2).any (fun m => m.tile == some n && decide (m.id < mine))))
/-- An instruction on the index `n` of the team, in its turn (07 R224). -/
def Iss.inTurn (x : Iss) (s : State) (t n : Nat) (a : Act) : Act :=
  x.inPlace (some n) (if x.outrun s t n then .wait s else a)
/-- The handle value that `v` names is checked first (07 R225), in the instruction's turn. -/
def withHandle (v : Iss → Nat → Nat) (h : Iss → State → Nat → Nat → Act) (x : Iss) (s : State) (t l : Nat) : Act :=
  x.inTurn s t (v x l % 16) (match (s.team t).handleBad (v x l) with
    | some d => .trap s [] trapProt d x.ex
    | none => h x s t l)
/-- Write a result to every executing lane. -/
def Iss.giveAll (x : Iss) (s : State) (v : Nat) : State :=
  s.modThreads x.g.core x.g.slot x.ex (fun _ t => t.dest x.f.d (x.r.d.width x.f.b) v)
/-- How a failed translation or access of a whole-team instruction ends: the executing lanes park as
one sub-group. -/
def Iss.failAll (x : Iss) (s : State) (wr : Bool) (va : Nat) (k : Chk) : Act :=
  match k with
  | .bad _ c d => .trap s [] c d x.ex
  | .fault c d lv lid scr =>
    match x.park s x.g.pc wr (x.ex.map (fun n =>
      { lane := n, cause := c, detail := d, level := lv, lid := lid, va := va, scr := scr })) with
    | some s => .done s []
    | none => .wait s
  | .lender t scr => .done (x.ex.foldl (fun s l => x.lendWait s wr l va t scr) s) []
  | _ => .wait s

/-! ### Opening, describing, splitting (07 R228 to R230) -/

def openBody : Iss → State → Act := once (fun x l => [x.a l]) (fun x s t l =>
  let n := x.f.b.toNat % 16
  let h := (s.team t).handle n
  let va := x.ea false 64 l
  x.inTurn s t n <|
  if h.opened then .trap s [] trapProt 0x14 x.ex
  else if s.atomPending x.g.core x.g.slot x.ex then .wait s
  else
    match x.checkOnce s { rd := true, align := 64, size := 64 } va with
    | (s', .ok loc leaf) =>
      let s := s'.prepLoad x.g.core x.g.slot { l := l, ea := va, loc := loc, leaf := leaf } 64 true
      let ws := (List.range 8).map (fun i => s.seen x.g.core x.g.slot l (loc.add (8 * i)) 8)
      if s.anyPoison (loc.span 64) then .trap s [] trapPoison 0 x.ex
      else match tileOfWords ws with
        | none => .trap s [] trapProt 0x10 x.ex
        | some d =>
          .done (x.giveAll (s.modHandle t n (fun h => { opened := true, gen := h.gen, desc := d })) (handleValue h n)) x.ex
    | (s', k) => x.failAll s' false va k)
/-- 07 R228. -/
def execThopen (o : MForm) (s : State) : Host.Outcome State Fault Refusal := issue (.thopen o) openBody s

def descBody : Iss → State → Act := once (fun x l => [x.d l, x.a l]) (withHandle Iss.d (fun x s t l =>
  let va := x.ea false 64 l
  if s.atomPending x.g.core x.g.slot x.ex then .wait s
  else
    match x.checkOnce s { wr := true, align := 64, size := 64 } va with
    | (s', .ok loc leaf) =>
      let bytes := ((tileWords ((s.team t).handle (x.d l % 16)).desc).map (leBytes 8)).flatten
      let q : Stored := { lane := { l := l, ea := va, loc := loc, leaf := leaf },
                          bytes := bytes.zipIdx.map (fun b => { loc := loc.add b.2, val := b.1, lane := l }) }
      match x.store s' false 64 [q] with
      | some (s, _) => .done s x.ex
      | none => .wait s
    | (s', k) => x.failAll s' true va k))
/-- 07 R229. -/
def execThdesc (o : MForm) (s : State) : Host.Outcome State Fault Refusal := issue (.thdesc o) descBody s

/-- Every piece of a handle is recalled (07 R238, R243). -/
def State.recallWhole (s : State) (t n : Nat) : State :=
  let s := s.loseHandle t n (fun h => { h with pieces := [], lost := true })
  { s with dirs := s.dirs.filter (fun d => !(d.team = t && d.handle = n)) }
/-- The slice whose directory keeps the records of a page (07 R238). -/
def dirSlice (pa : Nat) : Nat := pkgAddr pa * 512 + homeSlice pa
/-- A record that a slice with more than 64 has to recall has bytes in flight (07 R235). -/
def State.trimWaits (s : State) (sl : Nat) : Bool :=
  let mine := s.dirs.filter (fun d => d.slice = sl)
  (mine.take (mine.length - 64)).any (fun d => !(s.inFlight d.team d.handle).isEmpty)
/-- A slice that keeps more than its 64 records recalls the oldest whole (07 R238). -/
def State.trimSlice (s : State) (sl : Nat) : State :=
  let mine := fun (s : State) => s.dirs.filter (fun d => d.slice = sl)
  (mine s).foldl (fun s _ => match mine s with
    | d :: rest => if 64 ≤ rest.length then s.recallWhole d.team d.handle else s
    | [] => s) s
/-- The two handles that a split leaves (07 R230). -/
def splitHandle (h m : Handle) (i : Nat) : Handle × Handle :=
  let o := h.desc.ext.length - 1
  let e := h.desc.ext.getD o 0
  let cut := h.pieces.map (fun p => pieceCut p o i)
  ({ h with desc := { h.desc with ext := h.desc.ext.set o i }, pieces := (cut.map (·.1)).flatten },
   { opened := true, gen := m.gen, mode := h.mode, lost := h.lost, pieces := (cut.map (·.2)).flatten,
     desc := { h.desc with base := h.desc.base + i * h.desc.stride.getD o 0, ext := h.desc.ext.set o (e - i) } })
def splitBody : Iss → State → Act := once (fun x l => [x.a l, x.b l]) (withHandle Iss.a (fun x s t l =>
  let n := x.a l % 16
  let m := x.f.c.toNat % 16
  let h := (s.team t).handle n
  let i := x.b l
  if i = 0 ∨ h.desc.ext.getD (h.desc.ext.length - 1) 0 ≤ i then .trap s [] trapProt 0x16 x.ex
  else if x.outrun s t m then .wait s
  else if ((s.team t).handle m).opened then .trap s [] trapProt 0x14 x.ex
  else
    let r := splitHandle h ((s.team t).handle m) i
    let s := (s.modHandle t n (fun _ => r.1)).modHandle t m (fun _ => r.2)
    let extra := (s.dirs.filter (fun d => d.team = t && d.handle = n)).map (fun d => { d with handle := m })
    let old := s
    let s := { s with dirs := s.dirs ++ extra }.pruneDirs
    if (extra.map (·.slice)).any s.trimWaits then .wait old else
    .done (x.giveAll ((extra.map (·.slice)).foldl State.trimSlice s) (handleValue r.2 m)) x.ex))
/-- 07 R230. -/
def execThsplit (o : AForm) (s : State) : Host.Outcome State Fault Refusal := issue (.thsplit o) splitBody s

/-! ### Tenure (07 R231 to R233) -/

/-- Translate and check the footprint for a request; the pages, or how the instruction ends. DESIGN CHOICE (log entry 69): of
several pages refused for their class, the first in address order gives the detail. -/
def Iss.tilePages (x : Iss) (s : State) (write : Bool) (d : TileDesc) : Except Act (State × List TilePage) :=
  if s.tileWindow x.agent d then .error (.trap s [] trapProt 0x0B x.ex)
  else match s.tilePages x.agent (tileAcc write) d with
    | (s, .error (va, k)) => .error (x.failAll s write va k)
    | (s, .ok ps) =>
      if 16 < ps.length then .error (.trap s [] trapProt 0x15 x.ex)
      else if ps.any (fun p => s.tileMapped d p.1) then .error (.trap s [] trapProt 0x18 x.ex)
      else match ps.filterMap (·.2) with
        | k :: _ => .error (.trap s [] trapProt k x.ex)
        | [] => .ok (s, ps.map (·.1))
/-- Post the request of a thacq. -/
def askTenure (x : Iss) (s : State) (t l : Nat) : Act :=
  let n := x.a l % 16
  let h := (s.team t).handle n
  let write := x.f.c.getLsbD 0 || h.mode == 2
  match x.tilePages s (x.f.c.getLsbD 0) h.desc with
  | .error a => a
  | .ok (s, ps) =>
    .wait { s with dirReqs := s.dirReqs ++
      [{ core := x.g.core, slot := x.g.slot, pc := x.g.pc, team := t, handle := n, write := write, pages := ps }] }
/-- Execute of thacq: it posts its request and waits until every page has granted; then it completes, whatever has become of
the handle since. -/
def acquireBody : Iss → State → Act := once (fun x l => [x.a l]) (fun x s t l =>
  match s.dirReqs.find? (x.myReq t (x.a l % 16)) with
  | some r => x.inPlace (some (x.a l % 16))
    (if r.pages.isEmpty then .done { s with dirReqs := s.dirReqs.filter (fun q => q != r) } x.ex else .wait s)
  | none => withHandle Iss.a askTenure x s t l)
/-- 07 R231. -/
def execThacq (o : AForm) (s : State) : Host.Outcome State Fault Refusal := issue (.thacq o) acquireBody s

/-- Records of other teams on a page that meets the page of a request. -/
def State.rivals (s : State) (r : DirReq) (p : TilePage) : List DirRec :=
  s.dirs.filter (fun d => d.team != r.team && meet d.page.pa (2 ^ d.page.bits) p.pa (2 ^ p.bits))
/-- A footprint in the virtual addresses under which another handle has the page `p`. -/
def TileDesc.seenFrom (q : TileDesc) (d p : TilePage) : TileDesc :=
  { q with base := q.base + (d.va + (p.pa - d.pa)) - (p.va + (d.pa - p.pa)) }
/-- What two pages share, in the virtual addresses of the first. -/
def shared (d p : TilePage) : Nat × Nat :=
  (d.va + (max d.pa p.pa - d.pa), d.va + (min (d.pa + 2 ^ d.bits) (p.pa + 2 ^ p.bits) - d.pa))
/-- Conflicts of a request with the handles recorded on one of its pages (07 R240, R241). -/
def State.splitOthers (s : State) (r : DirReq) (q : TileDesc) (p : TilePage) : State :=
  ((s.rivals r p).foldl (fun s d => s.loseHandle d.team d.handle (fun h =>
    handleTile h r.write (q.seenFrom d.page p) (shared d.page p))) s).pruneDirs
/-- Bytes that the recall of a piece under such a request would take are in flight: the request waits (07 R235). -/
def State.splitWaits (s : State) (r : DirReq) (q : TileDesc) (p : TilePage) : Bool :=
  (s.rivals r p).any (fun d =>
    let h := (s.team d.team).handle d.handle
    (h.mode == 2 || (r.write && h.mode == 1)) && (s.inFlight d.team d.handle).any (fun v =>
      (h.pieces.filterMap (fun e => (splitTile h.desc e (q.seenFrom d.page p) (shared d.page p)).2)).any (fun e =>
        pieceTouch h.desc e v v)))
/-- The directory of a page grants: a record is made, the oldest of a full slice recalled (07 R238). -/
def State.grantPage (s : State) (r : DirReq) (p : TilePage) : State :=
  let sl := dirSlice p.pa
  let s := { s with dirs := s.dirs.filter (fun d => !(d.team = r.team && d.handle = r.handle && d.page = p)) }
  let s := match s.dirs.filter (fun d => d.slice = sl) with
    | d :: rest => if 63 ≤ rest.length then s.recallWhole d.team d.handle else s
    | [] => s
  let s := s.modHandle r.team r.handle (fun h =>
    if r.begun then h
    else { h with mode := (if r.write then 2 else 1), pieces := [tileWhole h.desc], lost := false })
  { s with dirs := s.dirs ++ [{ slice := sl, team := r.team, handle := r.handle, page := p }] }
/-- The record that a full slice has to recall for a new one has bytes in flight (07 R235). -/
def State.fullWaits (s : State) (p : TilePage) : Bool :=
  match s.dirs.filter (fun d => d.slice = dirSlice p.pa) with
  | d :: rest => decide (63 ≤ rest.length) && !(s.inFlight d.team d.handle).isEmpty
  | [] => false
/-- TILE_DIRECTORY_REQUEST: the first page of a request is resolved, requests at a page in arrival order
(07 R244). -/
def execTileDirectoryRequest (idx : Nat) (s : State) : Host.Outcome State Fault Refusal :=
  match s.dirReqs[idx]? with
  | none => .next s
  | some r =>
    match r.pages with
    | [] =>
      if !r.untranslated then .next s
      else match s.tilePages (s.teamAgent r.core (s.team r.team).ctx (some r.team)) (tileAcc r.write)
          ((s.team r.team).handle r.handle).desc with
        | (s, .ok ps) => .next { s with dirReqs := s.dirReqs.set idx { r with pages := ps.map (·.1), untranslated := false } }
        | (s, .error _) => .next s
    | p :: ps =>
      if (s.dirReqs.take idx).any (fun q => q.pages.any (fun o => meet o.pa (2 ^ o.bits) p.pa (2 ^ p.bits))) ||
          s.splitWaits r ((s.team r.team).handle r.handle).desc p || s.fullWaits p then .next s
      else
        let s := s.splitOthers r ((s.team r.team).handle r.handle).desc p
        let s := s.grantPage r p
        .next { s with dirReqs := s.dirReqs.set idx { r with pages := ps, begun := true } }

/-- Two tiles share a byte. -/
def TileDesc.meets (d q : TileDesc) : Bool :=
  (pieceRows d (tileWhole d)).any (fun iv => dimsTouch q.esz q.base iv.1 iv.2 (pieceDims q (tileWhole q)))
/-- A command that writes the tile of a handle through a bound slot is still under way (07 R235), one posted before the tile
was split included. -/
def State.boundBusy (s : State) (core t n : Nat) : Bool :=
  (s.core core).cmds.any (fun c => c.team = some t && c.kind = .cpfs &&
    c.tile.any (fun d => d.meets ((s.team t).handle n).desc))
/-- A handle gives up its tenure. -/
def State.dropTenure (s : State) (t n : Nat) : State :=
  let s := s.modHandle t n (fun h => if h.mode = 0 then h else { h with mode := 0, pieces := [], lost := false })
  { s with dirs := s.dirs.filter (fun d => !(d.team = t && d.handle = n)) }
/-- threl, thdown and thwb: a release at .sys, then the change of mode; with MODE none the release alone (07 R232). -/
def releaseBody (h : State → Nat → Nat → State) : Iss → State → Act :=
  once (fun x l => [x.a l]) (withHandle Iss.a (fun x s t l =>
    let n := x.a l % 16
    if !s.drained x.g.core x.g.slot || s.atomPending x.g.core x.g.slot x.ex ||
      (((s.team t).handle n).mode != 0 && s.boundBusy x.g.core t n) then .wait s
    else .done (h s t n) x.ex))
/-- 07 R232. -/
def execThrel (o : AForm) (s : State) : Host.Outcome State Fault Refusal := issue (.threl o) (releaseBody State.dropTenure) s
/-- 07 R232. -/
def execThdown (o : AForm) (s : State) : Host.Outcome State Fault Refusal :=
  issue (.thdown o) (releaseBody (fun s t n => s.modHandle t n (fun h => { h with mode := min h.mode 1 }))) s
/-- 07 R232. -/
def execThwb (o : AForm) (s : State) : Host.Outcome State Fault Refusal := issue (.thwb o) (releaseBody (fun s _ _ => s)) s

/-- A slot that a command fills or drains (06 Table 7). -/
def TileSlot.moving (q : TileSlot) : Bool := q.st == .filling || q.st == .draining
/-- Close an index: tenure given up, slots unbound, the generation advanced (07 R222, R233). -/
def State.closeHandle (s : State) (t n : Nat) : State :=
  ((s.dropTenure t n).modTeam t (fun x => { x with
    tslots := x.tslots.map (fun e => if (e.2.bound.map (·.1)) == some n then (e.1, { e.2 with bound := none }) else e) })).modHandle t n
      (fun h => { gen := (h.gen + 1) % 256 })
def closeBody : Iss → State → Act := once (fun x l => [x.a l]) (withHandle Iss.a (fun x s t l =>
  let n := x.a l % 16
  if !s.drained x.g.core x.g.slot || s.atomPending x.g.core x.g.slot x.ex ||
      (((s.team t).handle n).mode != 0 && s.boundBusy x.g.core t n) || ((s.team t).boundSlots n).any (fun k => (tabGet {} k (s.team t).tslots).moving) then .wait s
  else .done (s.closeHandle t n) x.ex))
/-- 07 R233. -/
def execThclose (o : AForm) (s : State) : Host.Outcome State Fault Refusal := issue (.thclose o) closeBody s

/-- 07 R234: a hint without architected effect. -/
def execThpf (o : AForm) (s : State) : Host.Outcome State Fault Refusal :=
  issue (.thpf o) (fun x s => .done s x.ex) s

/-! ### Binding, state and probes (07 R235 to R237) -/

def State.modSlot (s : State) (t k : Nat) (g : TileSlot → TileSlot) : State :=
  s.modTeam t (fun x => { x with tslots := tabSet k (g (tabGet {} k x.tslots)) x.tslots })
def bindBody : Iss → State → Act := once (fun x l => [x.a l]) (withHandle Iss.a (fun x s t l =>
  let n := x.a l % 16
  let k := x.f.b.toNat % 64
  match (tabGet {} k (s.team t).tslots).bound with
  | some (m, _) => if m = n then .done s x.ex else .trap s [] trapProt 0x17 x.ex
  | none => .done (s.modSlot t k (fun q => { q with bound := some (n, x.a l / 16 % 256) })) x.ex))
/-- 07 R235. -/
def execThbind (o : AForm) (s : State) : Host.Outcome State Fault Refusal := issue (.thbind o) bindBody s
def unbindBody : Iss → State → Act := once (fun _ _ => []) (fun x s t _ =>
  let k := x.f.b.toNat % 64
  let q := tabGet {} k (s.team t).tslots
  if q.bound.isSome && q.moving then .wait s
  else .done (if q.bound.isSome then s.modSlot t k (fun q => { q with bound := none }) else s) x.ex)
/-- 07 R235. -/
def execThunbind (o : AForm) (s : State) : Host.Outcome State Fault Refusal := issue (.thunbind o) unbindBody s

/-- 07 Table 2. -/
def Team.handleWord (t : Team) (n : Nat) : Nat :=
  let h := t.handle n
  h.gen * 2 ^ 24 + h.pieces.length * 2 ^ 11 + h.mode * 2 ^ 9 + bit h.lost * 2 ^ 8 +
    bit (!(t.boundSlots n).isEmpty) * 2 ^ 7 + bit h.opened
def statBody : Iss → State → Act := once (fun x l => [x.a l]) (fun x s t l =>
  x.inTurn s t (x.a l % 16) <|
  if x.a l / 2 ^ 12 ≠ 0 then .trap s [] trapProt 0x11 x.ex
  else .done (x.giveAll s ((s.team t).handleWord (x.a l % 16))) x.ex)
/-- 07 R236. -/
def execThstat (o : AForm) (s : State) : Host.Outcome State Fault Refusal := issue (.thstat o) statBody s
def extBody : Iss → State → Act := once (fun x l => [x.a l]) (withHandle Iss.a (fun x s t l =>
  let v := ((s.team t).handle (x.a l % 16)).desc.ext.getD (x.f.c.toNat % 8) 0
  .done ((x.giveAll s v).modThreads x.g.core x.g.slot x.ex (fun _ u => u.glance (.ext (x.a l) (x.f.c.toNat % 8) v))) x.ex))
/-- 07 R236. -/
def execThext (o : AForm) (s : State) : Host.Outcome State Fault Refusal := issue (.thext o) extBody s

/-- Modes in which teams of a gang hold the sector of an address, with the team (07 R237). -/
def State.holders (s : State) (gang pa : Nat) : List (Nat × Nat) :=
  s.dirs.filterMap (fun d =>
    let h := (s.team d.team).handle d.handle
    let va := d.page.va + (pa - d.page.pa)
    if d.page.pa ≤ pa ∧ pa < d.page.pa + 2 ^ d.page.bits ∧ (s.team d.team).gang = gang ∧
        h.pieces.any (fun p => pieceTouch h.desc p va va) then some (d.team, h.mode)
    else none)
/-- DESIGN CHOICE (log entry 70): of several holders the strongest mode is reported, and d[2] tells whether any of them is the
issuing team. -/
def probeBody : Iss → State → Act := once (fun x l => [x.a l]) (fun x s t l =>
  match s.check x.agent { rd := true, reach := false } (x.a l) with
  | (s, .ok loc _) =>
    let hs := ((s.homeOf loc).map (s.holders (s.team t).gang)).getD []
    let m := hs.foldl (fun m h => max m h.2) 0
    .done (x.giveAll s (m + (if hs.any (fun h => h.1 = t) then 4 else 0))) x.ex
  | (s, k) => x.failAll s false (x.a l) k)
/-- 07 R237. -/
def execThprobe (o : AForm) (s : State) : Host.Outcome State Fault Refusal := issue (.thprobe o) probeBody s

/-- Records of handles that hold a piece touching an extent. -/
def State.touching (s : State) (lo len : Nat) : List DirRec :=
  s.dirs.filter (fun d =>
    let a := max d.page.pa lo
    let b := min (d.page.pa + 2 ^ d.page.bits) (lo + len)
    let h := (s.team d.team).handle d.handle
    decide (a < b) && h.pieces.any (fun p => pieceTouch h.desc p (d.page.va + (a - d.page.pa)) (d.page.va + (b - 1 - d.page.pa))))
/-- A lease recall takes whole every handle that touches the extent (07 R245). -/
def State.recallExtent (s : State) (lo len : Nat) : State :=
  (s.touching lo len).foldl (fun s d => s.recallWhole d.team d.handle) s
/-- One of them has bytes in flight (07 R235). -/
def State.extentWaits (s : State) (lo len : Nat) : Bool :=
  (s.touching lo len).any (fun d => !(s.inFlight d.team d.handle).isEmpty)

end Sys2Proof.Machine
end

