-- ==== Sys2Proof/Machine/Buffers.lean ====
section
/-! DEFINITION. What the matrix arrays, the copy engine and the refinement controllers share: bytes of the
operand-buffer banks (06 R197, R217), completion counters (10 R346, R348), waits whose order among
posted commands counts, and whole-team operands. -/

namespace Sys2Proof.Machine

/-! ### Tile slots (06 R197) -/

/-- Bytes of the team's operand-buffer space (10 R335). -/
def Team.bufBytes (t : Team) : Nat := Config.bankBytes * t.bufBanks.length
/-- Bytes written merge into poisoned sectors, which stay poisoned (06 R217). -/
def Team.bufWrite (t : Team) (o : Nat) (bs : List Byte) : Team :=
  { t with opbuf := (bs.zipIdx o).foldl (fun m e => tabPut 0 e.2 e.1 m) t.opbuf }
/-- Round up to a multiple of 256 (10 R337). -/
def up256 (n : Nat) : Nat := (n + 255) / 256 * 256

/-! ### Completion counters (10 R346, R348) -/

/-- Change counter `n` of a team, or of the firmware agent of a core (01 R451). -/
def State.modCounter (s : State) (core : Nat) (team : Option Nat) (n : Nat) (f : Counter → Counter) : State :=
  match team with
  | some t => s.modTeam t (fun x => { x with counters := tabSet n (f (tabGet {} n x.counters)) x.counters })
  | none => s.modCore core (fun k => { k with fwCounters := tabSet n (f (tabGet {} n k.fwCounters)) k.fwCounters })
def State.counter (s : State) (core : Nat) (team : Option Nat) (n : Nat) : Counter :=
  match team with
  | some t => tabGet {} n (s.team t).counters
  | none => tabGet {} n (s.core core).fwCounters
/-- A count that leaves the 56 bits of COUNT through charges and discharges is a value the spec does not
state (log entry 36). -/
def countOf (z : Int) (free : Nat) : Nat := if z < 0 ∨ 2 ^ 56 ≤ z then free % 2 ^ 56 else z.toNat
/-- Apply what the first charges hold: a charge discharged in full gives way to the next. -/
def settleCharges (free : Nat) : Nat → List Charge → Nat × List Charge
  | c, [] => (c, [])
  | c, h :: t =>
    let d := countOf ((c : Int) - h.held) free
    if h.left = 0 then settleCharges free d t else (d, { h with held := 0 } :: t)
/-- A command charges `n` bytes when it is posted. -/
def State.charge (s : State) (core : Nat) (team : Option Nat) (cc : Option Nat) (cmd n : Nat) : State :=
  match cc with
  | none => s
  | some k =>
    if n = 0 then s
    else
      let d := s.draw
      let c := s.counter core team k
      (if 2 ^ 56 ≤ c.count + n then d.2 else s).modCounter core team k (fun c => { c with
        count := countOf (c.count + n) d.1.toNat, charges := c.charges ++ [{ cmd := cmd, left := n, held := 0 }] })
/-- Move `n` bytes of a command's charge to the bytes discharged. -/
def dischargeBytes (cmd n : Nat) (c : Charge) : Charge :=
  if c.cmd = cmd then { c with left := c.left - n, held := c.held + min n c.left } else c
/-- A command discharges `n` bytes; those of a later command wait for an earlier one. -/
def State.discharge (s : State) (core : Nat) (team : Option Nat) (cc : Option Nat) (cmd n : Nat) : State :=
  match cc with
  | none => s
  | some k =>
    let d := s.draw
    let c := s.counter core team k
    let due := (c.charges.map (·.held)).sum + n
    (if c.count < due then d.2 else s).modCounter core team k (fun c =>
      let r := settleCharges d.1.toNat c.count (c.charges.map (dischargeBytes cmd n))
      { c with count := r.1, charges := r.2 })
/-- A command that is discarded takes back its whole charge (09 R329, R330). -/
def State.uncharge (s : State) (core : Nat) (team : Option Nat) (cc : Option Nat) (cmd : Nat) : State :=
  match cc with
  | none => s
  | some k => s.modCounter core team k (fun c =>
      let mine := ((c.charges.filter (fun h => h.cmd = cmd)).map (fun h => h.left + h.held)).sum
      let r := settleCharges 0 (c.count - mine) (c.charges.filter (fun h => h.cmd != cmd))
      { c with count := r.1, charges := r.2 })
/-- Everything a command has not discharged (10 R349). -/
def State.dischargeRest (s : State) (core : Nat) (team : Option Nat) (cc : Option Nat) (cmd : Nat) : State :=
  match cc with
  | none => s
  | some k =>
    s.discharge core team cc cmd ((((s.counter core team k).charges.filter (fun h => h.cmd = cmd)).map (·.left)).sum)
/-- Record a code in the counter's ERR, or in cp.err where the command names no counter. -/
def State.noteErr (s : State) (core : Nat) (team : Option Nat) (cc : Option Nat) (code : Nat) : State :=
  match cc with
  | some k => s.modCounter core team k (fun c => if c.err = 0 then { c with err := code } else c)
  | none =>
    match team with
    | some t => s.modTeam t (fun x => if x.cpErr = 0 then { x with cpErr := code } else x)
    | none => s.modCore core (fun k => if k.fwCpErr = 0 then { k with fwCpErr := code } else k)

/-! ### One command for a whole issue group -/

/-- Operands must be equal in every executing lane, else the lanes that differ raise `detail`; the
firmware agent comes as no team. -/
def uniform (detail : Nat) (ops : Iss → Nat → List Nat) (h : Iss → State → Option Nat → Nat → Act) (x : Iss)
    (s : State) : Act :=
  match x.ex with
  | [] => .done s []
  | l :: _ =>
    match x.differ (ops x) with
    | k :: r => .trap s [] trapProt detail (k :: r)
    | [] => h x s (s.weave x.g.core x.g.slot).team l
/-- cc of an X-form word, where cce is set. -/
def Iss.cc (x : Iss) : Option Nat := if x.f.cce then some x.f.cc.toNat else none

/-! ### The range-overlap scoreboard (10 R344) -/

inductive Space
  | mem (ctx : Nat)
  | slot (team : Nat)
  | acc
  | phys
  deriving DecidableEq, Repr
/-- [lo, hi) of a space; a row read of a gather is all memory of its context. -/
structure Span where
  space : Space
  lo : Nat
  hi : Nat
  wr : Bool
  deriving DecidableEq, Repr
def Span.clash (a b : Span) : Bool :=
  a.space == b.space && (a.wr || b.wr) && decide (a.lo < b.hi ∧ b.lo < a.hi)
def clashes (as bs : List Span) : Bool := as.any (fun a => bs.any a.clash)

/-- The ranges of a copy-engine command. -/
def EngCmd.spans (c : EngCmd) : List Span :=
  let m : Nat → Nat → Bool → Span := fun a n w => { space := .mem c.ctx, lo := a, hi := a + n, wr := w }
  let side : Nat → Bool → Span := fun a w => match c.tile with
    | some d => m d.base (tileEnd d - d.base) w
    | none => m a c.len w
  let sl : Nat → Bool → Span := fun n w => { space := .slot (c.team.getD 0), lo := c.sbase, hi := c.sbase + n, wr := w }
  let ac : Bool → Span := fun w => { space := .acc, lo := c.acc, hi := c.acc + c.len / 4, wr := w }
  let all := m 0 (2 ^ 64) false
  match c.kind with
  | .cpy => [m c.src c.len false, m c.dst c.len true]
  | .fill => [m c.dst c.len true]
  | .cpts => [side c.src false, sl c.slen true]
  | .cpfs => [sl c.len false, side c.dst true]
  | .cpald => [m c.src c.len false, ac true]
  | .cpast => [ac false, m c.dst c.len true]
  | .gcp => [all, m c.dst c.len true]
  | .gcpts => [all, sl c.slen true]
  | .expf => [m c.src c.len false]
  | .exwb => [m c.src c.len false]
  | .exmig => [{ space := .phys, lo := c.src, hi := c.src + c.len, wr := false },
      { space := .phys, lo := c.dst, hi := c.dst + c.len, wr := true }]

end Sys2Proof.Machine
end

