-- ==== Sys2Proof/Machine/FloatInstr.lean ====
section
/-! DEFINITION. Floating-point and conversion instructions that act on each lane alone (05 R159 to R171). -/

namespace Sys2Proof.Machine

/-! ### Arithmetic -/

/-- 05 R162. -/
def execFadd (o : AForm) (s : State) : Host.Outcome State Fault Refusal :=
  issue (.fadd o) (fpOp (fun x l => (fAddV x.rdn (x.fa l) (x.fb l), sigFlag [x.fa l, x.fb l]))) s
/-- a − b: the sum with b's sign inverted, a NaN keeping its own. -/
def fSubV (rdn : Bool) (a b : FVal) : FRes := (firstNaN [a, b]).getD (addCore rdn a b.flip)
/-- 05 R162. -/
def execFsub (o : AForm) (s : State) : Host.Outcome State Fault Refusal :=
  issue (.fsub o) (fpOp (fun x l => (fSubV x.rdn (x.fa l) (x.fb l), sigFlag [x.fa l, x.fb l]))) s
/-- 05 R162. -/
def execFmul (o : AForm) (s : State) : Host.Outcome State Fault Refusal :=
  issue (.fmul o) (fpOp (fun x l => (fMulV (x.fa l) (x.fb l), sigFlag [x.fa l, x.fb l]))) s
/-- 05 R155, R162. -/
def execFdiv (o : AForm) (s : State) : Host.Outcome State Fault Refusal :=
  issue (.fdiv o) (fpOp (fun x l => (fDivV (x.fa l) (x.fb l), sigFlag [x.fa l, x.fb l]))) s
/-- A fused operation a × b + c with operands in NaN order. -/
def fusedOp (rdn : Bool) (order : List FVal) (a b c : FVal) : FRes × Nat :=
  let r := fMaV rdn order a b c
  (r.1, r.2 ||| sigFlag order)
/-- 05 R162. -/
def execFma (o : AForm) (s : State) : Host.Outcome State Fault Refusal :=
  issue (.fma o) (fpOp (fun x l =>
    fusedOp x.rdn [x.fa l, x.fb l, x.fc l] (x.fa l) (x.fb l) (x.fc l))) s
/-- 05 R162. -/
def execFms (o : AForm) (s : State) : Host.Outcome State Fault Refusal :=
  issue (.fms o) (fpOp (fun x l =>
    fusedOp x.rdn [x.fa l, x.fb l, x.fc l] (x.fa l) (x.fb l) (x.fc l).flip)) s
/-- 05 R155, R162. -/
def execFsqrt (o : AForm) (s : State) : Host.Outcome State Fault Refusal :=
  issue (.fsqrt o) (fpOp (fun x l => (fSqrtV (x.fa l), sigFlag [x.fa l]))) s
/-- b of fscale, a signed 32-bit integer; beyond ±8192 every finite value rounds as at that bound. -/
def Iss.scaleBy (x : Iss) (l : Nat) : Int := max (-8192) (min 8192 (sint 32 (x.b l)))
/-- 05 R162. -/
def execFscale (o : AForm) (s : State) : Host.Outcome State Fault Refusal :=
  issue (.fscale o) (fpOp (fun x l => (fScaleV (x.fa l) (x.scaleBy l), sigFlag [x.fa l]))) s
/-- 05 R162. -/
def execFaddi (o : IForm) (s : State) : Host.Outcome State Fault Refusal :=
  issue (.faddi o) (fpOp (fun x l => (fAddV x.rdn (x.fa l) (x.fi l), sigFlag [x.fa l, x.fi l]))) s
/-- 05 R162. -/
def execFmuli (o : IForm) (s : State) : Host.Outcome State Fault Refusal :=
  issue (.fmuli o) (fpOp (fun x l => (fMulV (x.fa l) (x.fi l), sigFlag [x.fa l, x.fi l]))) s
/-- a × imm + b with NaN order a, imm, b (05 R162). -/
def execFmai (o : IForm) (s : State) : Host.Outcome State Fault Refusal :=
  issue (.fmai o) (fpOp (fun x l =>
    fusedOp x.rdn [x.fa l, x.fi l, x.fb l] (x.fa l) (x.fi l) (x.fb l))) s
/-- 05 R162: the FP64 immediate as fcvt converts it; for .f64 the same value, a NaN quieted. -/
def execFli (o : LForm) (s : State) : Host.Outcome State Fault Refusal :=
  issue (.fli o) (fpCode (fun x l => fConvert x.f.ty (x.rnd l) (fVal 1 x.f.imm.toNat))) s

/-! ### Minimum, sign, compare and class -/

/-- 05 R163. -/
def fPickOp (max : Bool) : Iss → State → Act :=
  fpOp (fun x l => ((fPick max (x.fa l) (x.fb l)).res, sigFlag [x.fa l, x.fb l]))
/-- 05 R163. -/
def execFmin (o : AForm) (s : State) : Host.Outcome State Fault Refusal := issue (.fmin o) (fPickOp false) s
/-- 05 R163. -/
def execFmax (o : AForm) (s : State) : Host.Outcome State Fault Refusal := issue (.fmax o) (fPickOp true) s
/-- The weight of the sign bit of the type. -/
def Iss.signBit (x : Iss) : Nat := 2 ^ (fBits x.f.ty - 1)
/-- 05 R163. -/
def execFabs (o : AForm) (s : State) : Host.Outcome State Fault Refusal :=
  issue (.fabs o) (bits (fun x l => x.a l % x.signBit)) s
/-- 05 R163. -/
def execFneg (o : AForm) (s : State) : Host.Outcome State Fault Refusal :=
  issue (.fneg o) (bits (fun x l => x.a l ^^^ x.signBit)) s
/-- 05 R163. -/
def execFcps (o : AForm) (s : State) : Host.Outcome State Fault Refusal :=
  issue (.fcps o) (bits (fun x l => x.a l % x.signBit + x.b l / x.signBit % 2 * x.signBit)) s
/-- A comparison as a write to a predicate. -/
def fCmpWrite (code : Nat) (a b : FVal) : FpWrite :=
  let r := fCond code a b
  { w := { p := some r.1 }, ex := if r.2 then exIV else 0 }
/-- 05 R164. -/
def execFcmp (o : AForm) (s : State) : Host.Outcome State Fault Refusal :=
  issue (.fcmp o) (fpLanes (fun x l => fCmpWrite (x.f.c.toNat % 8) (x.fa l) (x.fb l))) s
/-- 05 R164. -/
def execFcmpi (o : IForm) (s : State) : Host.Outcome State Fault Refusal :=
  issue (.fcmpi o) (fpLanes (fun x l => fCmpWrite (x.f.b.toNat % 8) (x.fa l) (x.fi l))) s
/-- 05 R164. -/
def execFclass (o : AForm) (s : State) : Host.Outcome State Fault Refusal :=
  issue (.fclass o) (bits (fun x l => fClass x.f.ty (fVal x.f.ty (x.a l)))) s
/-- 05 R164. -/
def execFrint (o : AForm) (s : State) : Host.Outcome State Fault Refusal :=
  issue (.frint o) (fpOp (fun x l => fRintV (x.rnd l) (x.fa l))) s
/-- 05 R156, R164. -/
def execFgetexp (o : AForm) (s : State) : Host.Outcome State Fault Refusal :=
  issue (.fgetexp o) (fpOp (fun x l => (fGetexpV (x.fa l), sigFlag [x.fa l]))) s
/-- 05 R164. -/
def execFgetman (o : AForm) (s : State) : Host.Outcome State Fault Refusal :=
  issue (.fgetman o) (fpOp (fun x l => (fGetmanV (x.fa l), sigFlag [x.fa l]))) s

/-! ### Estimates and functions -/

/-- An estimate raises neither NX nor UF by its rounding; a flushed result raises both (05 R158,
R165). -/
def FRes.estimate (r : FRes) (ftz : Bool) : Nat × Nat :=
  let o := r.out 0 { mode := 0, sat := false } false
  let mag := o.1 % 2 ^ 31
  if ftz && mag != 0 && decide (mag < 2 ^ 23) then (o.1 - mag, exUF ||| exNX)
  else (o.1, o.2 &&& (exIV ||| exDZ ||| exOF))
def fpEstimate (h : FVal → FRes) : Iss → State → Act :=
  fpCode (fun x l =>
    let r := (h (x.fa l)).estimate (x.th l).ftz
    (r.1, r.2 ||| sigFlag [x.fa l]))
/-- 05 R165. -/
def execFrcpe (o : AForm) (s : State) : Host.Outcome State Fault Refusal := issue (.frcpe o) (fpEstimate fRcpV) s
/-- 05 R165. -/
def execFrsqe (o : AForm) (s : State) : Host.Outcome State Fault Refusal := issue (.frsqe o) (fpEstimate fRsqV) s
def fpFunction (h : FVal → FRes) : Iss → State → Act := fpOp (fun x l => (h (x.fa l), sigFlag [x.fa l]))
/-- 05 R165. -/
def execFex2 (o : AForm) (s : State) : Host.Outcome State Fault Refusal := issue (.fex2 o) (fpFunction fEx2V) s
/-- 05 R165. -/
def execFlg2 (o : AForm) (s : State) : Host.Outcome State Fault Refusal := issue (.flg2 o) (fpFunction fLg2V) s
/-- 05 R165. -/
def execFsinpi (o : AForm) (s : State) : Host.Outcome State Fault Refusal := issue (.fsinpi o) (fpFunction fSinpiV) s
/-- 05 R165. -/
def execFcospi (o : AForm) (s : State) : Host.Outcome State Fault Refusal := issue (.fcospi o) (fpFunction fCospiV) s

/-! ### Conversions -/

/-- The second type of a conversion, c[2:0] (05 R159). -/
def Iss.ty2 (x : Iss) : BitVec 3 := x.f.c.setWidth 3
/-- 05 R166. -/
def execFcvt (o : AForm) (s : State) : Host.Outcome State Fault Refusal :=
  issue (.fcvt o) (fpCode (fun x l => fConvert x.f.ty (x.rnd l) (fVal x.ty2 (x.a l)))) s
/-- A value as an integer of type `ity` (05 R167). -/
def fToInt (ity : BitVec 3) (r : Rnd) (v : FVal) : Nat × Nat :=
  match v with
  | .nan _ _ _ _ => (0, exIV)
  | .inf n => (fit ity true (if n then intLo ity else intHi ity), exIV)
  | .fin n m e =>
    let k := roundInt r n m e
    let z : Int := if n then -(k.1 : Int) else k.1
    if intLo ity ≤ z ∧ z ≤ intHi ity then (fit ity true z, if k.2 then exNX else 0)
    else (fit ity true z, exIV)
/-- 05 R167. -/
def execFcvti (o : AForm) (s : State) : Host.Outcome State Fault Refusal :=
  issue (.fcvti o) (fpCode (fun x l => fToInt x.ty2 (x.rnd l) (fVal x.f.ty (x.a l)))) s
/-- 05 R167. -/
def execIcvtf (o : AForm) (s : State) : Host.Outcome State Fault Refusal :=
  issue (.icvtf o) (fpCode (fun x l =>
    let v := intVal x.ty2 (x.a l)
    roundFP x.f.ty (x.rnd l) (decide (v < 0)) v.natAbs 0 false)) s

/-- Element `i` of width `w` of a register replaced. -/
def putElem (w i r v : Nat) : Nat := r - r / 2 ^ (w * i) % 2 ^ w * 2 ^ (w * i) + v * 2 ^ (w * i)
def getElem' (w i r : Nat) : Nat := r / 2 ^ (w * i) % 2 ^ w
/-- 05 R168. -/
def execFpk (o : AForm) (pos : BitVec 4) (s : State) : Host.Outcome State Fault Refusal :=
  issue (.fpk o pos) (fpCode (fun x l =>
    let w := fBits x.f.ty
    let ea := fConvert x.f.ty (x.rnd l) (fVal 0 (x.a l))
    let eb := fConvert x.f.ty (x.rnd l) (fVal 0 (x.b l))
    (putElem w (2 * pos.toNat + 1) (putElem w (2 * pos.toNat) (x.c l) ea.1) eb.1, ea.2 ||| eb.2))) s
/-- 05 R168. -/
def execFupk (o : AForm) (pos : BitVec 4) (s : State) : Host.Outcome State Fault Refusal :=
  issue (.fupk o pos) (fpCode (fun x l =>
    fConvert 0 { mode := 0, sat := false } (fVal x.f.ty (getElem' (fBits x.f.ty) pos.toNat (x.a l))))) s

/-- a0 × b0 + a1 × b1 + c (05 R169). -/
def fDot2V (rdn : Bool) (a0 a1 b0 b1 c : FVal) : FRes × Nat :=
  ((firstNaN [a0, a1, b0, b1, c]).getD (fSumV rdn [mulCore a0 b0, mulCore a1 b1, some c]),
   (if mulInvalid a0 b0 || mulInvalid a1 b1 then exIV else 0) ||| sigFlag [a0, a1, b0, b1, c])
/-- 05 R169. -/
def execFdot2 (o : AForm) (s : State) : Host.Outcome State Fault Refusal :=
  issue (.fdot2 o) (fpLanes (fun x l =>
    let e := fun (v i : Nat) => x.flush l x.f.ty (fVal x.f.ty (getElem' 16 i v))
    let r := fDot2V x.rdn (e (x.a l) 0) (e (x.a l) 1) (e (x.b l) 0) (e (x.b l) 1) (x.flush l 0 (fVal 0 (x.c l)))
    x.outAs 0 l r.1 r.2)) s

/-- Block dequantisation of an element with a scale code (05 R171). -/
def fDequant (ty : BitVec 3) (r : Rnd) (e c : Nat) : Nat × Nat :=
  if c = 255 then (fQNaN 0 false, 0)
  else match fVal ty e with
    | .fin n m k => if m = 0 then (fSign 0 n, 0) else roundFP 0 r n m (k + c - 127) false
    | v => fConvert 0 r v
/-- 05 R171. -/
def execBdq (o : AForm) (s : State) : Host.Outcome State Fault Refusal :=
  issue (.bdq o) (fpCode (fun x l =>
    fDequant x.f.ty (x.rnd l) (x.a l % 2 ^ fBits x.f.ty) (x.a l / 2 ^ 8 % 2 ^ 8))) s

end Sys2Proof.Machine
end

