-- ==== Sys2Proof/Machine/Lanes.lean ====
section
/-! DEFINITION. Lane collectives: arrival and completion (04 R133 to R136), the shuffles, votes and scans
(04 R137 to R139), block quantisation and reduction (05 R170, R172). -/

namespace Sys2Proof.Machine

/-! ### Results of the contributors -/

/-- a of a lane. -/
abbrev LaneVals := Iss → List (Nat × FpWrite)
/-- A result of each contributor without exceptions. -/
def plainVals (h : Iss → Nat → Write) : LaneVals := fun x => x.ex.map (fun l => (l, { w := h x l, ex := 0 }))
/-- The source lane of a shuffle is a contributor, else the lane itself (04 R137). -/
def shuffle (j : Iss → Nat → Int) : LaneVals :=
  plainVals (fun x l =>
    let k := j x l
    { d := some (if 0 ≤ k ∧ x.ex.contains k.toNat then x.a k.toNat else x.a l) })
/-- 04 R138. -/
def voteVals : LaneVals := plainVals (fun x _ =>
  let ps := x.ex.map (fun l => x.predOf x.f.a l)
  { p := some (match x.f.c.toNat % 4 with
      | 0 => ps.all id
      | 1 => ps.any id
      | _ => ps.all id || ps.all not) })
/-- 04 R138. -/
def ballotVals : LaneVals := plainVals (fun x _ =>
  { d := some (maskOf (x.ex.filter (fun l => x.predOf x.f.a l))).toNat })

/-- Identity and step of a scan (04 Table 7), on codes of the type. -/
def scanId (op : Nat) (ty : BitVec 3) : Nat :=
  match op with
  | 1 => wrap (intBits ty) (intHi ty)
  | 2 => wrap (intBits ty) (intLo ty)
  | 3 => 2 ^ intBits ty - 1
  | _ => 0
def scanStep (op : Nat) (ty : BitVec 3) (sat : Bool) (a b : Nat) : Nat :=
  match op with
  | 0 => fit ty sat (intVal ty a + intVal ty b)
  | 1 => if intVal ty b < intVal ty a then b else a
  | 2 => if intVal ty a < intVal ty b then b else a
  | 3 => a &&& b
  | 4 => a ||| b
  | _ => a ^^^ b
/-- 04 R139. -/
def scanFrom (x : Iss) (excl : Bool) (acc : Nat) : List Nat → List (Nat × FpWrite)
  | [] => []
  | l :: t =>
    let nxt := scanStep (x.f.c.toNat % 8) x.f.ty x.sat acc (x.a l)
    (l, { w := { d := some (if excl then acc else nxt) }, ex := 0 }) :: scanFrom x excl nxt t
def scanVals : LaneVals := fun x =>
  scanFrom x (x.f.c.getLsbD 3) (scanId (x.f.c.toNat % 8) x.f.ty) x.ex

/-- Floor(Log2 |v|) of a finite value that is no zero. -/
def FVal.expo : FVal → Int
  | .fin _ m e => (Nat.log2 m : Int) + e
  | _ => 0
/-- Emax of 05 R170. -/
def fEmax (ty : BitVec 3) : Int := if ty == 4 then 8 else if ty == 5 then 15 else 2
/-- The scale exponent S of a block of finite values (05 R170). -/
def blockScale (ty : BitVec 3) (vs : List FVal) : Int :=
  match vs.filter (fun v => !v.isZero) with
  | [] => -127
  | v :: t => max (-127) (min 127 ((t.foldl (fun m u => max m u.expo) v.expo) - fEmax ty))
/-- One element of a block under its scale. -/
def blockElem (ty : BitVec 3) (r : Rnd) (sc : Int) (v : FVal) : Nat × Nat :=
  match v with
  | .fin n m e =>
    let o := roundFP ty { r with sat := true } n m (e - sc) false
    (if o.1 % 2 ^ (fBits ty - 1) = 0 then 0 else o.1, o.2)
  | _ => (0, 0)
/-- 05 R170. -/
def bqntVals : LaneVals := fun x =>
  let v := fun l => fVal 0 (x.a l)
  if x.ex.any (fun l => (v l).isNaN || (v l).isInf) then
    x.ex.map (fun l => (l, { w := { d := some 0xFF00 }, ex := exIV }))
  else
    let sc := blockScale x.f.ty (x.ex.map v)
    x.ex.map (fun l =>
      let o := blockElem x.f.ty (x.rnd l) sc (v l)
      (l, { w := { d := some ((sc + 127).toNat * 2 ^ 8 + o.1) }, ex := o.2 }))

/-- One level of the tree of 05 R172: pairs of nodes, with the exceptions so far. -/
def fredLevel (op : Nat → Nat → Nat × Nat) : List (Option Nat) → List (Option Nat) × Nat
  | a :: b :: t =>
    let r := fredLevel op t
    match a, b with
    | none, y => (y :: r.1, r.2)
    | x, none => (x :: r.1, r.2)
    | some x, some y => let o := op x y; (some o.1 :: r.1, o.2 ||| r.2)
  | _ => ([], 0)
def fredTree (op : Nat → Nat → Nat × Nat) : Nat → List (Option Nat) → Nat → Nat × Nat
  | 0, ns, ex => (((ns.head?).getD none).getD 0, ex)
  | k + 1, ns, ex => let r := fredLevel op ns; fredTree op k r.1 (ex ||| r.2)
/-- 05 R172: FTZ of the lowest contributor governs every step. -/
def fredVals (h : Iss → FVal → FVal → FRes) : LaneVals := fun x =>
  let ftz := (x.ex.head?.map (fun l => (x.th l).ftz)).getD false
  let ty := x.f.ty
  let rd := fun c => (fVal ty c).flush ty ftz
  let leaf := fun c => if ftz && decide (c % 2 ^ (fBits ty - 1) < 2 ^ fF ty) then c - c % 2 ^ (fBits ty - 1) else c
  let op := fun a b =>
    let o := (h x (rd a) (rd b)).out ty { mode := x.f.mod.toNat % 8, sat := x.f.mod.getLsbD 3 } ftz
    (o.1, o.2 ||| sigFlag [rd a, rd b])
  let r := fredTree op 5 ((List.range 32).map (fun l => if x.ex.contains l then some (leaf (x.a l)) else none)) 0
  x.ex.map (fun l => (l, { w := { d := some r.1 }, ex := r.2 }))

/-- The results of a lane collective by its instruction. -/
def collVals (i : Instr) : LaneVals :=
  match i with
  | .shfl _ => shuffle (fun x l => (x.c l : Int))
  | .shup _ => shuffle (fun x l => (l : Int) - x.uimm)
  | .shdn _ => shuffle (fun x l => (l : Int) + x.uimm)
  | .shxor _ => shuffle (fun x l => ((l ^^^ x.uimm : Nat) : Int))
  | .vote _ => voteVals
  | .ballot _ => ballotVals
  | .scan _ => scanVals
  | .bqnt _ => bqntVals
  | .fredAdd _ => fredVals (fun x a b => fAddV x.rdn a b)
  | .fredMin _ => fredVals (fun _ a b => (fPick false a b).res)
  | .fredMax _ => fredVals (fun _ a b => (fPick true a b).res)
  | _ => fun _ => []

/-! ### Completion -/

/-- Every lane of the mask has joined or exited (04 R135). -/
def Weave.collReady (w : Weave) (k : Coll) : Bool :=
  (lanesOf k.mask).all (fun l => k.joined.getLsbD l || (w.thread l).mode == .exited)

/-- Complete an instance: its contributors write, keep and go on, or the arithmetic trap is raised, once the weave's
speculating lanes can be rolled back (04 R135, 05 R152, 08 R296). -/
def State.completeColl (s : State) (c w : Nat) (k : Coll) : State :=
  let hold := s.rollWaits c w
  let before := s
  let ls := lanesOf k.joined
  let ctl := (((ls.head?).map (fun l => (s.thread c w l).ctl)).getD {})
  let x : Iss := { g := { core := c, slot := w, lanes := ls, pc := k.pc, ctl := ctl, spec := false },
                   i := k.instr, f := k.instr.fields.getD {}, r := k.instr.row, ex := ls, old := s }
  let s := s.modWeave c w (fun y => { y with colls := y.colls.filter (fun q => !(q.pc == k.pc && q.mask == k.mask)) })
  let rs := collVals k.instr x
  match enabledLanes x rs with
  | [] => x.keep ((x.putAll s rs).modThreads c w ls (fun _ t =>
      { t with ctl := t.ctl.next 1, mode := .ready, stamp := s.tick, hollow := [], ceded := [] })) ls
  | l :: t => if hold then before else s.trapEntry c w ls (l :: t) trapArith (enabledUnion x rs) k.pc

/-- Complete the first instance that is ready. -/
def State.completeReady (s : State) (c w : Nat) (n : Nat) : State :=
  match n with
  | 0 => s
  | n + 1 =>
    match (s.weave c w).colls.find? (fun k => (s.weave c w).collReady k) with
    | some k => (s.completeColl c w k).completeReady c w n
    | none => s

/-! ### Arrival -/

/-- How a lane arrives (04 R133, R134). -/
inductive Arrive
  | join (mask : Mask)
  | bad (detail : Nat)
  | wait
  deriving DecidableEq, Repr
def arrive (cs : List Coll) (pc : DWord) (m : Mask) (l : Nat) : Arrive :=
  if !m.getLsbD l then .bad 1
  else if cs.any (fun k => k.pc == pc && k.mask == m) then .join m
  else if cs.any (fun k => k.pc == pc && k.mask.getLsbD l) then .bad 2
  else if cs.any (fun k => k.mask &&& m != 0) then .wait
  else .join m
/-- Add a lane to the instance (pc, mask), opening it where none is. -/
def joinColl (cs : List Coll) (i : Instr) (pc : DWord) (m : Mask) (l : Nat) : List Coll :=
  if cs.any (fun k => k.pc == pc && k.mask == m) then
    cs.map (fun k => if k.pc == pc && k.mask == m then { k with joined := k.joined ||| (1#32 <<< l) } else k)
  else cs ++ [{ pc := pc, mask := m, instr := i, joined := 1#32 <<< l }]
/-- One lane arrives; the lanes that fault are collected with their detail. -/
def Iss.arriveLane (x : Iss) (r : State × List (Nat × Nat)) (l : Nat) : State × List (Nat × Nat) :=
  let m := BitVec.ofNat 32 (x.b l)
  match arrive (r.1.weave x.g.core x.g.slot).colls x.g.pc m l with
  | .bad d => (r.1, r.2 ++ [(l, d)])
  | .wait => (r.1.hold x.g [l], r.2)
  | .join m => ((r.1.modWeave x.g.core x.g.slot (fun w =>
      { w with colls := joinColl w.colls x.i x.g.pc m l })).modThread x.g.core x.g.slot l (fun t =>
        { t with mode := .waiting .collective }), r.2)

/-- Execute of a lane collective: the lanes arrive in ascending order, and instances whose last lane
has come complete at once. DESIGN CHOICE (log entry 63): where lanes of the group meet different barrier conflicts, the
detail reported is that of the lowest, with every faulting lane in tr.fmask, and an instance that other lanes of the
group have filled does not complete: the trap entry discards it. -/
def collective (x : Iss) (s : State) : Act :=
  let r := x.ex.foldl x.arriveLane (x.unrun s x.ex, [])
  match r.2 with
  | e :: t => .trap r.1 [] trapBarrier e.2 ((e :: t).map (·.1))
  | [] => .whole (r.1.completeReady x.g.core x.g.slot 32)

/-- 04 R137. -/
def execShfl (o : AForm) (s : State) : Host.Outcome State Fault Refusal := issue (.shfl o) collective s
/-- 04 R137. -/
def execShup (o : IForm) (s : State) : Host.Outcome State Fault Refusal := issue (.shup o) collective s
/-- 04 R137. -/
def execShdn (o : IForm) (s : State) : Host.Outcome State Fault Refusal := issue (.shdn o) collective s
/-- 04 R137. -/
def execShxor (o : IForm) (s : State) : Host.Outcome State Fault Refusal := issue (.shxor o) collective s
/-- 04 R138. -/
def execVote (o : AForm) (s : State) : Host.Outcome State Fault Refusal := issue (.vote o) collective s
/-- 04 R138. -/
def execBallot (o : AForm) (s : State) : Host.Outcome State Fault Refusal := issue (.ballot o) collective s
/-- 04 R139. -/
def execScan (o : AForm) (s : State) : Host.Outcome State Fault Refusal := issue (.scan o) collective s
/-- 05 R170. -/
def execBqnt (o : AForm) (s : State) : Host.Outcome State Fault Refusal := issue (.bqnt o) collective s
/-- 05 R172. -/
def execFredAdd (o : AForm) (s : State) : Host.Outcome State Fault Refusal := issue (.fredAdd o) collective s
/-- 05 R172. -/
def execFredMin (o : AForm) (s : State) : Host.Outcome State Fault Refusal := issue (.fredMin o) collective s
/-- 05 R172. -/
def execFredMax (o : AForm) (s : State) : Host.Outcome State Fault Refusal := issue (.fredMax o) collective s

/-- LANE_COLLECTIVE_COMPLETION: an open instance completes once every lane of its mask has joined or
exited (04 R135). -/
def execLaneCollectiveCompletion (core slot idx : Nat) (s : State) : Host.Outcome State Fault Refusal :=
  match (s.weave core slot).colls[idx]? with
  | some k => .next (if (s.weave core slot).collReady k then s.completeColl core slot k else s)
  | none => .next s

end Sys2Proof.Machine
end

