-- ==== Sys2Proof/Machine/Rows.lean ====
section
/-! DEFINITION. What the matrix arrays and the accumulator unit compute, row by row (09 R303 to R305,
R316 to R323). -/

namespace Sys2Proof.Machine

/-! ### Types and layouts (09 R303, R305) -/

/-- Element bits of an operand type. -/
def opBits (ty : BitVec 3) : Nat :=
  match ty.toNat with
  | 0 => 16
  | 1 => 16
  | 4 => 4
  | 5 => 2
  | _ => 8
/-- Element bits of an accumulator-side type. -/
def accBits (ty : BitVec 3) : Nat :=
  match ty.toNat with
  | 0 => 32
  | 1 => 32
  | 2 => 16
  | 3 => 16
  | 6 => 4
  | _ => 8
/-- The value of a floating-point operand type. -/
def opVal (ty : BitVec 3) (c : Nat) : FVal := fVal (ty + 2) c
/-- T2 (05 R144). -/
def ternary (c : Nat) : Int := if c = 1 then 1 else if c = 3 then -1 else 0
/-- Element `i` of `bits` bits in the operand-buffer space from `base` (05 R145). -/
def Team.bufElem (t : Team) (base bits i : Nat) : Nat :=
  if bits < 8 then t.bufNat (base + i * bits / 8) 1 / 2 ^ (i * bits % 8) % 2 ^ bits
  else t.bufNat (base + i * bits / 8) (bits / 8)
/-- Elements of `bits` bits packed into bytes. -/
def packElems (bits : Nat) (cs : List Nat) : List Byte :=
  leBytes (cs.length * bits / 8) (cs.foldr (fun c a => c + 2 ^ bits * a) 0)

/-- Accepted operand pairs (09 Table 2). -/
def pairOk (plane stream : BitVec 3) : Bool := (plane == 5 && stream == 6) || (decide (plane.toNat < 5) && decide (stream.toNat < 5))

/-! ### Status bits: NX 1, ISAT 2, OVF 4, NAN 8 -/

def stNX : Nat := 1
def stISAT : Nat := 2
def stOVF : Nat := 4
def stNAN : Nat := 8
def statOf (ex : Nat) : Nat := (if ex &&& exOF ≠ 0 then stOVF else 0) + (if ex &&& exNX ≠ 0 then stNX else 0)
def qnan32 : Nat := 0x7FC00000
/-- A result of the accumulator unit in FP32, every NaN canonical. -/
def accOut (r : Rnd) (x : FRes) : Nat × Nat :=
  match x with
  | .nan _ _ _ => (qnan32, stNAN)
  | .bad => (qnan32, stNAN)
  | x => let o := x.out 0 r false
    (o.1, statOf o.2)
def rne : Rnd := { mode := 0, sat := false }
/-- A clamp to the INT32 range. -/
def clamp32 (v : Int) : Nat × Nat :=
  let c := max (-(2 ^ 31)) (min (2 ^ 31 - 1) v)
  (wrap 32 c, if c = v then 0 else stISAT)

/-! ### Streams (09 R316, R317) -/

/-- GroupSum of the floating-point pairs: the FP32 code and its status. -/
def groupSum (as ws : List FVal) (scales : List Nat) : Nat × Nat :=
  let ps := as.zipWith mulCore ws
  let vs := ps.filterMap id
  let pos := vs.any (fun v => v.isInf && !v.neg)
  let ninf := vs.any (fun v => v.isInf && v.neg)
  if as.any FVal.isNaN || ws.any FVal.isNaN || scales.contains 0xFF || ps.any Option.isNone || (pos && ninf) then (qnan32, 0)
  else if pos then (0x7F800000, 0)
  else if ninf then (0xFF800000, 0)
  else
    let e := vs.foldl (fun k v => match v with
      | .fin _ m f => if m = 0 then k else min k f
      | _ => k) (0 : Int)
    let z := finTotal e vs
    if z = 0 then (0, 0)
    else
      let o := roundFP 0 rne (decide (z < 0)) z.natAbs (e + ((scales.map (fun (c : Nat) => (c : Int) - 127)).sum)) false
      (o.1, statOf o.2 &&& stOVF)
/-- AddGroup of the floating-point pairs. -/
def addGroup (x g : Nat) : Nat × Nat :=
  let o := accOut rne (fAddV false (fVal 0 x) (fVal 0 g))
  (o.1, o.2 &&& (stOVF ||| stNAN))
/-- One word of a stream: groups in ascending k. `a` and `w` give the codes of the row and the column,
`sa` and `sw` their scales by group. -/
def streamWord (pt st : BitVec 3) (a w : Nat → Nat) (sa sw : Nat → List Nat) (x : Nat) : Nat × Nat :=
  (List.range 4).foldl (fun r g =>
    let ks := (List.range 32).map (fun k => 32 * g + k)
    if pt == 5 then
      let z := (ks.map (fun k => ternary (w k) * intVal 6 (a k))).sum
      let o := clamp32 (sint 32 r.1 + z)
      (o.1, r.2 ||| o.2)
    else
      let gs := groupSum (ks.map (fun k => opVal st (a k))) (ks.map (fun k => opVal pt (w k))) (sa g ++ sw g)
      let o := addGroup r.1 gs.1
      (o.1, r.2 ||| gs.2 ||| o.2)) (x, 0)

/-! ### The accumulator unit (09 R319 to R323) -/

/-- One element of acst without block scales (09 R319). -/
def acstElem (ty : BitVec 3) (r : Rnd) (w : Nat) : Nat × Nat :=
  match ty.toNat with
  | 1 => (w, 0)
  | 7 => (fit 6 true (sint 32 w), if 127 < (sint 32 w).natAbs then stISAT else 0)
  | _ =>
    let v := fVal 0 w
    let o := fConvert ty r (if v.isNaN then .nan false false 0 0 else v)
    let u := fVal ty o.1
    (o.1, (if v.isInf || v.isNaN then 0 else statOf o.2) ||| (if u.isNaN then stNAN else 0) |||
      (if v.isInf && !u.isInf && !u.isNaN then stOVF else 0))
/-- A block of 32 columns quantised as bqnt does: the scale, the elements and the status (05 R170). DESIGN CHOICE (log entry
73): a block whose scale is 0xFF (a NaN or an infinity in it, 05 R143) sets no status bit, for no element written is a NaN. -/
def acstBlock (ty : BitVec 3) (r : Rnd) (ws : List Nat) : Nat × List Nat × Nat :=
  let vs := ws.map (fVal 0)
  if vs.any (fun v => v.isNaN || v.isInf) then (0xFF, ws.map (fun _ => 0), 0)
  else
    let sc := blockScale ty vs
    let os := vs.map (blockElem ty r sc)
    ((sc + 127).toNat, os.map (·.1), os.foldl (fun f o => f ||| statOf o.2) 0)
/-- One element of acld (09 R320). -/
def acldElem (ty : BitVec 3) (c : Nat) : Nat × Nat :=
  if ty == 1 then (c, 0)
  else
    let w := if ty == 0 then c else (fConvert 0 rne (fVal ty c)).1
    (w, if (fVal 0 w).isNaN then stNAN else 0)
/-- acscl and acbias on one word (09 R321). -/
def scaleWord (r : Rnd) (x s : Nat) : Nat × Nat := accOut r (fMulV (fVal 0 x) (fVal 0 s))
def biasWord (ty : BitVec 3) (r : Rnd) (x s : Nat) : Nat × Nat :=
  if ty == 1 then clamp32 (sint 32 x + sint 32 s) else accOut r (fAddV (r.mode == 2) (fVal 0 x) (fVal 0 s))
/-- 1 ÷ √v for v = p ÷ q. -/
def invRoot (p q : Nat) : FRes :=
  let n := q * 2 ^ 1600
  match rootRes (n / p) (-1600) with
  | .num b m e st => .num b m e (st || decide (n % p ≠ 0))
  | r => r
/-- acnrm on one row: the factor and the words with the status (09 R322). -/
def normRow (r : Rnd) (q : Nat) (ws : List Nat) : Nat × List Nat × Nat :=
  let vs := ws.map (fVal 0)
  if vs.any (fun v => v.isNaN || v.isInf) then (qnan32, ws.map (fun _ => qnan32), stNAN)
  else
    let sq := vs.filterMap (fun v => match v with
      | .fin _ m e => some (FVal.fin false (m * m) (2 * e))
      | _ => none)
    let p := (finTotal (-300) sq).toNat + (if q = 0 then 0 else 192 * 2 ^ (300 - q))
    let f := if p = 0 then (0x3F800000, 0) else accOut r (invRoot p (192 * 2 ^ 300))
    let os := ws.map (fun x => scaleWord r x f.1)
    (f.1, os.map (·.1), os.foldl (fun a o => a ||| o.2) f.2)
/-- The order of acred.max: −0 below +0. -/
def orderKey (c : Nat) : Int := if c < 2 ^ 31 then (c : Int) else -((c - 2 ^ 31 : Nat) : Int) - 1
/-- acred on one row (09 R323). -/
def maxRow (ty : BitVec 3) (ws : List Nat) : Nat × Nat :=
  if ty == 1 then (ws.foldl (fun m w => if sint 32 m < sint 32 w then w else m) (ws.headD 0), 0)
  else if ws.any (fun w => (fVal 0 w).isNaN) then (qnan32, stNAN)
  else (ws.foldl (fun m w => if orderKey m < orderKey w then w else m) (ws.headD 0), 0)
def sumRow (ty : BitVec 3) (r : Rnd) (ws : List Nat) : Nat × Nat :=
  if ty == 1 then clamp32 ((ws.map (sint 32)).sum)
  else
    let vs := ws.map (fVal 0)
    accOut r ((firstNaN vs).getD (fSumV (r.mode == 2) (vs.map some)))

end Sys2Proof.Machine
end

