-- ==== Sys2Proof/Machine/Matrix.lean ====
section
/-! DEFINITION. The matrix queue, the arrays and the accumulator unit (09 R300 to R330). -/

namespace Sys2Proof.Machine

/-! ### What a command uses (09 R307, R308) -/

inductive MatUnit
  | array (a1 : Bool)
  | acc
  deriving DecidableEq, Repr

/-- The fields of a command's word. -/
def MatCmd.f (c : MatCmd) : Fields := c.instr.fields.getD {}
def MatCmd.bs (c : MatCmd) : Bool := c.f.d.getLsbD 4
def MatCmd.a1 (c : MatCmd) : Bool := c.f.d.getLsbD 5
/-- .rls, where the instruction has it. -/
def MatCmd.rls (c : MatCmd) : Bool := c.f.d.getLsbD 6
def MatCmd.rnd (c : MatCmd) : Rnd := { mode := c.f.mod.toNat % 8, sat := c.f.mod.getLsbD 3 }
def MatCmd.unit (c : MatCmd) : MatUnit :=
  match c.instr with
  | .mlds _ | .mldl _ | .mswap _ | .mmul _ | .mmulz _ => .array c.a1
  | _ => .acc
def MatCmd.isSwap (c : MatCmd) : Bool :=
  match c.instr with
  | .mswap _ => true
  | _ => false
def MatCmd.isLoad (c : MatCmd) : Bool :=
  match c.instr with
  | .mlds _ | .mldl _ => true
  | _ => false
def MatCmd.isStream (c : MatCmd) : Bool :=
  match c.instr with
  | .mmul _ | .mmulz _ => true
  | _ => false
/-- It writes its tile slot. -/
def MatCmd.slotWr (c : MatCmd) : Bool :=
  match c.instr with
  | .acst _ | .acnrm _ | .acredMax _ | .acredSum _ => true
  | _ => false
def MatCmd.slotRd (c : MatCmd) : Bool :=
  match c.instr with
  | .mlds _ | .mmul _ | .mmulz _ | .acld _ | .acsclRow _ | .acsclCol _ | .acbias _ => true
  | _ => false
/-- It writes accumulator words. -/
def MatCmd.accWr (c : MatCmd) : Bool :=
  match c.instr with
  | .mmul _ | .mmulz _ | .acld _ | .acsclRow _ | .acsclCol _ | .acnrm _ | .acbias _ => true
  | _ => false
/-- Bytes that it reads from or writes to its slot or memory, and charges (09 Table 9). -/
def MatCmd.bytes (c : MatCmd) : Nat :=
  match c.instr with
  | .mlds _ | .mldl _ => 3072 * opBits c.f.ty + (if c.bs then 768 else 0)
  | .mswap _ => 0
  | .mmul _ | .mmulz _ => c.rows * 16 * opBits c.f.ty + (if c.bs then 4 * c.rows else 0)
  | .acst _ => c.rows * 24 * accBits c.f.ty + (if c.bs then 6 * c.rows else 0)
  | .acld _ => c.rows * 24 * accBits c.f.ty
  | .acsclCol _ | .acbias _ => 768
  | _ => 4 * c.rows
/-- First words of the rows. -/
def MatCmd.rowAt (c : MatCmd) (m : Nat) : Nat := c.acc + m * c.stride
/-- Some row meets the words [lo, hi). -/
def MatCmd.meets (c : MatCmd) (lo hi : Nat) : Bool :=
  let m := if lo < c.acc + 192 then 0 else (lo - (c.acc + 192)) / c.stride + 1
  decide (m < c.rows ∧ c.rowAt m < hi ∧ lo < c.rowAt m + 192)
def MatCmd.overlap (c d : MatCmd) : Bool :=
  (List.range c.rows).any (fun m => d.meets (c.rowAt m) (c.rowAt m + 192))
/-- Two commands conflict (09 R308). -/
def MatCmd.conflicts (c d : MatCmd) : Bool :=
  (c.unit == d.unit && c.unit != .acc && (c.isSwap || d.isSwap)) ||
    ((c.accWr || d.accWr) && c.overlap d) ||
    ((c.slotRd || c.slotWr) && (d.slotRd || d.slotWr) && c.slot == d.slot &&
      (c.slotWr || d.slotWr || c.rls || d.rls))
/-- Its ranges on the scoreboard (10 R344). -/
def MatCmd.spans (c : MatCmd) (ctx team : Nat) : List Span :=
  (if c.slotRd || c.slotWr then [{ space := .slot team, lo := c.base, hi := c.base + c.bytes, wr := c.slotWr }] else []) ++
    (List.range c.rows).map (fun m => { space := .acc, lo := c.rowAt m, hi := c.rowAt m + 192, wr := c.accWr }) ++
    (match c.instr with
      | .mldl _ => [{ space := .mem ctx, lo := c.addr, hi := c.addr + c.bytes, wr := false }]
      | _ => [])

/-! ### Convergence registers (09 R306, R310) -/

def Team.conv (t : Team) (k : Nat) : Conv := tabGet {} k t.convs
def State.modConv (s : State) (t k : Nat) (f : Conv → Conv) : State :=
  s.modTeam t (fun x => { x with convs := tabSet k (f (x.conv k)) x.convs })
/-- Commands of register `k` attached and not released, and those released. -/
def Team.pendCmds (t : Team) (k : Nat) : Nat := (t.matq.filter (fun c => c.cv = k && !c.released)).length
def Team.runCmds (t : Team) (k : Nat) : Nat := (t.matq.filter (fun c => c.cv = k && c.released)).length
/-- One signature: the one that completes the phase releases the phase's commands. -/
def Team.sign (t : Team) (k : Nat) : Team :=
  let v := t.conv k
  if v.sgn + 1 = v.exp then
    { t with matq := t.matq.map (fun c => if c.cv = k && c.ph = v.ph then { c with released := true } else c),
             convs := tabSet k { v with sgn := 0, ph := (v.ph + 1) % 256 } t.convs }
  else { t with convs := tabSet k { v with sgn := v.sgn + 1 } t.convs }
/-- Signatures on a register that have been made and have still to take effect (09 R306). -/
def State.signsOf (s : State) (core t k : Nat) : Nat :=
  (((s.core core).signs.filter (fun g => g.team = t && g.cv = k)).map (·.lanes)).sum

/-! ### Posting (09 R307, R312, R313) -/

/-- ACC and SHAPE are acceptable (09 R312, R313). -/
def shapeOk (norm : Bool) (acc shape : Nat) : Bool :=
  let m := bitsAt shape 0 12
  let st := bitsAt shape 16 16
  (if norm then bitsAt acc 28 4 == 0 && !bitAt acc 19 && decide (bitsAt acc 20 8 < 150) else bitsAt acc 19 13 == 0) &&
    bitsAt shape 12 4 == 0 && m != 0 && decide (192 ≤ st) && decide (bitsAt acc 0 19 + (m - 1) * st + 191 < 524288)
/-- The register of a team as it stands once the signatures made so far have taken effect, with the queue then. -/
def State.convSoon (s : State) (core t k : Nat) : Team :=
  (List.range (s.signsOf core t k)).foldl (fun y _ => if (y.conv k).armed then y.sign k else y) (s.team t)
/-- Add a command to the queue: attached to the current phase, signatures made before it counted, and charged on its counter. -/
def Iss.enqueue (x : Iss) (s : State) (t : Nat) (c : MatCmd) : Act :=
  let cv := x.f.d.toNat % 16
  let v := (s.convSoon x.g.core t cv).conv cv
  if !v.armed then .trap s [] trapBarrier 4 x.ex
  else if 16 ≤ (s.team t).matq.length then .wait s
  else
    let c := { c with id := s.nextId, cv := cv, ph := v.ph, left := c.bytes }
    let s := { s with nextId := s.nextId + 1 }.charge x.g.core (some t) c.cc c.id c.bytes
    .done (s.modTeam t (fun y => { y with matq := y.matq ++ [c] })) x.ex
/-- The command of an issue, before it is posted. -/
def Iss.matCmd (x : Iss) : MatCmd :=
  { id := 0, instr := x.i, pc := x.g.pc, cv := 0, ph := 0, slot := x.f.ts.toNat, cc := x.cc }
/-- Post a command without accumulator rows. -/
def matPlain : Iss → State → Act := uniform 0x1A (fun _ _ => []) (fun x s team _ =>
  match team with
  | none => .done s x.ex
  | some t => x.enqueue s t x.matCmd)
/-- Post a command on accumulator rows. -/
def matRows (norm : Bool) : Iss → State → Act := uniform 0x1A (fun x l => [x.a l, x.b l]) (fun x s team l =>
  match team with
  | none => .done s x.ex
  | some t =>
    if !shapeOk norm (x.a l) (x.b l) then .trap s [] trapProt 0x1B x.ex
    else x.enqueue s t { x.matCmd with
      acc := bitsAt (x.a l) 0 19, rows := bitsAt (x.b l) 0 12, stride := bitsAt (x.b l) 16 16,
      q := if norm then bitsAt (x.a l) 20 8 else 0 })
/-- Check every page of a range, line by line: the first failure with its address (09 R314). -/
def State.checkRange (s : State) (a : Agent) (acc : Acc) (va len : Nat) : State × Option (Nat × Chk) :=
  let cuts := lineCuts va len
  let r := s.checkList a acc (cuts.map (·.1))
  (r.1, ((cuts.map (·.1)).zip r.2).find? (fun c => match c.2 with
    | .ok _ _ => false
    | _ => true))
/-- An engine's access: device-class pages are refused (10 R336). -/
def engineAcc (wr : Bool) : Acc := { rd := !wr, wr := wr }
/-- Post a plane load from memory (09 R314). -/
def matLoadMem : Iss → State → Act := uniform 0x1A (fun x l => [x.a l]) (fun x s team l =>
  match team with
  | none => .done s x.ex
  | some t =>
    let va := x.a l
    let c := { x.matCmd with addr := va }
    if va % 256 ≠ 0 then .trap s [] trapAlign 0 x.ex
    else
      match s.checkRange x.agent { engineAcc false with noWindow := true, reach := false } va c.bytes with
      | (s, none) => x.enqueue s t c
      | (s, some (a, k)) => x.failAll s false a k)

/-- 09 R314. -/
def execMlds (o : XForm) (s : State) : Host.Outcome State Fault Refusal := issue (.mlds o) matPlain s
/-- 09 R314. -/
def execMldl (o : XForm) (s : State) : Host.Outcome State Fault Refusal := issue (.mldl o) matLoadMem s
/-- 09 R315. -/
def execMswap (o : XForm) (s : State) : Host.Outcome State Fault Refusal := issue (.mswap o) matPlain s
/-- 09 R316. -/
def execMmul (o : XForm) (s : State) : Host.Outcome State Fault Refusal := issue (.mmul o) (matRows false) s
/-- 09 R316. -/
def execMmulz (o : XForm) (s : State) : Host.Outcome State Fault Refusal := issue (.mmulz o) (matRows false) s
/-- 09 R319. -/
def execAcst (o : XForm) (s : State) : Host.Outcome State Fault Refusal := issue (.acst o) (matRows false) s
/-- 09 R320. -/
def execAcld (o : XForm) (s : State) : Host.Outcome State Fault Refusal := issue (.acld o) (matRows false) s
/-- 09 R321. -/
def execAcsclRow (o : XForm) (s : State) : Host.Outcome State Fault Refusal := issue (.acsclRow o) (matRows false) s
/-- 09 R321. -/
def execAcsclCol (o : XForm) (s : State) : Host.Outcome State Fault Refusal := issue (.acsclCol o) (matRows false) s
/-- 09 R322. -/
def execAcnrm (o : XForm) (s : State) : Host.Outcome State Fault Refusal := issue (.acnrm o) (matRows true) s
/-- 09 R323. -/
def execAcredMax (o : XForm) (s : State) : Host.Outcome State Fault Refusal := issue (.acredMax o) (matRows false) s
/-- 09 R323. -/
def execAcredSum (o : XForm) (s : State) : Host.Outcome State Fault Refusal := issue (.acredSum o) (matRows false) s
/-- 09 R321. -/
def execAcbias (o : XForm) (s : State) : Host.Outcome State Fault Refusal := issue (.acbias o) (matRows false) s

/-! ### Instructions on convergence registers (09 R306, R310) -/

/-- The register that an A-form word names. -/
def Iss.cv (x : Iss) : Nat := x.f.c.toNat % 16

/-- cvinit: a barrier conflict, or the register's new state. Signatures made before it count, and one that disarms waits until
they have taken effect (log entry 5). -/
def cvinitBody (x : Iss) (s : State) : Act :=
  match x.ex, (s.weave x.g.core x.g.slot).team with
  | [], _ => .done s []
  | _, none => .done s x.ex
  | l :: _, some t =>
    let n := x.a l
    let v := (s.team t).conv x.cv
    match x.differ (fun l => [x.a l]) with
    | k :: r => .trap s [] trapBarrier 3 (k :: r)
    | [] =>
      if 1024 < n then .trap s [] trapBarrier 8 x.ex
      else if n = 0 then
        let y := s.convSoon x.g.core t x.cv
        if (y.conv x.cv).sgn ≠ 0 ∨ y.pendCmds x.cv ≠ 0 then .trap s [] trapBarrier 7 x.ex
        else if s.signsOf x.g.core t x.cv ≠ 0 then .wait s
        else .done (s.modConv t x.cv (fun v => { v with armed := false, exp := 0 })) x.ex
      else if v.armed && v.exp != n then .trap s [] trapBarrier 3 x.ex
      else .done (s.modConv t x.cv (fun v => { v with armed := true, exp := n })) x.ex
/-- 09 R306. -/
def execCvinit (o : AForm) (s : State) : Host.Outcome State Fault Refusal := issue (.cvinit o) cvinitBody s

/-- A store or an atomic of the thread that issued before its signature is not yet performed. -/
def Core.signWaits (k : Core) (g : Sign) : Bool :=
  let early := fun (e : StoreEnt) => (e.slot == g.slot || e.slot == 48) && e.team == some g.team && decide (e.born ≤ g.born)
  (k.weave g.slot).queued.any early || k.pending.any early ||
    k.atoms.any (fun a => (a.slot == g.slot || a.slot == 48) && a.team == some g.team && decide (a.born ≤ g.born))
/-- Signatures whose accesses have been performed take effect, in the order in which they were made. One that finds its
register disarmed since has none (log entry 5). -/
def State.settleSigns (s : State) (core : Nat) : State :=
  let k := s.core core
  let due := k.signs.filter (fun g => !k.signWaits g)
  if due.isEmpty then s else
  let s := s.modCore core (fun k => { k with signs := k.signs.filter (fun g => k.signWaits g) })
  due.foldl (fun s g => s.modTeam g.team (fun y =>
    (List.range g.lanes).foldl (fun y _ => if (y.conv g.cv).armed then y.sign g.cv else y) y)) s
/-- msign never waits: its signatures take effect after the thread's earlier accesses, as a release at .tm. -/
def msignBody (x : Iss) (s : State) : Act :=
  match (s.weave x.g.core x.g.slot).team with
  | none => .done s x.ex
  | some t =>
    if x.ex.isEmpty then .done s x.ex
    else if !((s.team t).conv x.cv).armed then .trap s [] trapBarrier 4 x.ex
    else
      let g : Sign := { team := t, slot := x.g.slot, cv := x.cv, lanes := x.ex.length, born := s.tick }
      .done ((s.modCore x.g.core (fun k => { k with signs := k.signs ++ [g] })).settleSigns x.g.core) x.ex
/-- 09 R306. -/
def execMsign (o : AForm) (s : State) : Host.Outcome State Fault Refusal := issue (.msign o) msignBody s

/-- mwait waits for the commands posted to the register before it was first offered. -/
def mwaitBody (x : Iss) (s : State) : Act :=
  match (s.weave x.g.core x.g.slot).team with
  | none => .done s x.ex
  | some t =>
    if x.ex.isEmpty then .done s x.ex
    else x.eachMarked s (fun l => (s.team t).matq.any (fun c => c.cv = x.cv && decide (c.id < x.since s l)))
      (fun _ => none) (fun _ s => s)
/-- 09 R310. -/
def execMwait (o : AForm) (s : State) : Host.Outcome State Fault Refusal := issue (.mwait o) mwaitBody s

/-- 09 Table 4. -/
def Team.convWord (t : Team) (k : Nat) : Nat :=
  let v := t.conv k
  v.ph % 2 ^ 8 * 2 ^ 56 + v.exp % 2 ^ 11 * 2 ^ 45 + v.sgn % 2 ^ 11 * 2 ^ 34 + t.pendCmds k % 32 * 2 ^ 29 +
    t.runCmds k % 32 * 2 ^ 24 + v.err % 256 * 2 ^ 16 + v.done % 256 * 2 ^ 8 + bit v.nan * 2 ^ 7 + bit v.ovf * 2 ^ 6 +
    bit v.isat * 2 ^ 5 + bit v.nx * 2 ^ 4 + bit v.armed
/-- 09 R310. -/
def execMstat (o : AForm) (s : State) : Host.Outcome State Fault Refusal :=
  issue (.mstat o) (fun x s =>
    match (s.weave x.g.core x.g.slot).team with
    | none => .done s x.ex
    | some t => .done (x.giveAll s ((s.team t).convWord x.cv)) x.ex) s
/-- 09 R310. -/
def execMstclr (o : AForm) (s : State) : Host.Outcome State Fault Refusal :=
  issue (.mstclr o) (fun x s =>
    match (s.weave x.g.core x.g.slot).team with
    | none => .done s x.ex
    | some t =>
      if x.ex.isEmpty then .done s x.ex
      else .done (s.modConv t x.cv (fun v => { v with err := 0, nan := false, ovf := false, isat := false, nx := false, done := 0 })) x.ex) s

/-! ### Direct access (09 R325) -/

def Core.accWord (k : Core) (i : Nat) : Nat := (tabGet 0 i k.acc).toNat
def Core.putAcc (k : Core) (i v : Nat) : Core := { k with acc := tabPut 0 i (BitVec.ofNat 32 v) k.acc }
/-- A command posted before `n` conflicts with an access to the words [lo, hi). -/
def Team.accBusy (t : Team) (n lo hi : Nat) (wr : Bool) : Bool :=
  t.matq.any (fun c => decide (c.id < n) && (wr || c.accWr) && c.meets lo hi)
/-- acrd and acwr: an index beyond the store traps in its lane alone. -/
def accLanes (wr : Bool) (h : Iss → State → State) (x : Iss) (s : State) : Act :=
  match (s.weave x.g.core x.g.slot).team with
  | none => .done s x.ex
  | some t =>
    match x.ex.filter (fun l => decide (524288 ≤ x.a l)) with
    | l :: r => .trap s [] trapProt 0x1B (l :: r)
    | [] => x.eachMarked s (fun l => (s.team t).accBusy (x.since s l) (x.a l) (x.a l + 1) wr)
        (fun l => some (x.a l, x.a l + 1, wr)) h
/-- 09 R325. -/
def execAcrd (o : AForm) (s : State) : Host.Outcome State Fault Refusal :=
  issue (.acrd o) (accLanes false (fun x s =>
    s.modThreads x.g.core x.g.slot x.ex (fun l t => t.dest x.f.d 32 ((s.core x.g.core).accWord (x.a l))))) s
/-- 09 R325: ascending lanes, so the highest executing lane's value stands. -/
def execAcwr (o : AForm) (s : State) : Host.Outcome State Fault Refusal :=
  issue (.acwr o) (accLanes true (fun x s =>
    s.modCore x.g.core (fun k => x.ex.foldl (fun k l => k.putAcc (x.a l) (x.b l)) k))) s
/-- Regions `a` to `a + n - 1` set to 0 under a tag. -/
def Core.clearRegions (k : Core) (a n : Nat) (int : Bool) : Core :=
  { k with acc := k.acc.filter (fun e => !(decide (2048 * a ≤ e.1 ∧ e.1 < 2048 * (a + n)))),
           accInt := (List.range n).foldl (fun m i => tabPut false (a + i) int m) k.accInt }
def acclrBody : Iss → State → Act := uniform 0x1A (fun x l => [x.a l, x.b l]) (fun x s team l =>
  match team with
  | none => .done s x.ex
  | some t =>
    let a := x.a l
    let n := x.b l
    if 255 < a ∨ n = 0 ∨ 256 < a + n then .trap s [] trapProt 0x1B x.ex
    else x.eachMarked s (fun _ => x.ex.any (fun l => (s.team t).accBusy (x.since s l) (2048 * a) (2048 * (a + n)) true))
      (fun _ => some (2048 * a, 2048 * (a + n), true))
      (fun x s => if x.ex.isEmpty then s else s.modCore x.g.core (fun k => k.clearRegions a n (x.f.ty == 1))))
/-- 09 R325. -/
def execAcclr (o : AForm) (s : State) : Host.Outcome State Fault Refusal := issue (.acclr o) acclrBody s

/-! ### The arrays (09 R300) -/

def Core.array (k : Core) (a1 : Bool) : MatArray := if a1 then k.array1 else k.array0
def Core.modArray (k : Core) (a1 : Bool) (f : MatArray → MatArray) : Core :=
  if a1 then { k with array1 := f k.array1 } else { k with array0 := f k.array0 }
def MatArray.live (m : MatArray) : Plane := if m.active then m.plane1 else m.plane0
def MatArray.shadow (m : MatArray) : Plane := if m.active then m.plane0 else m.plane1
def MatArray.setShadow (m : MatArray) (p : Plane) : MatArray :=
  if m.active then { m with plane0 := p } else { m with plane1 := p }
/-- One field of mplane. -/
def Plane.code (p : Plane) : Nat :=
  match p.fmt with
  | none => 0xF
  | some (ty, bs) => ty.toNat + 8 * bit bs
def Core.planeWord (k : Core) : Nat :=
  k.array0.live.code + k.array0.shadow.code * 2 ^ 4 + k.array1.live.code * 2 ^ 8 + k.array1.shadow.code * 2 ^ 12
/-- 09 R325. -/
def execMplane (o : AForm) (s : State) : Host.Outcome State Fault Refusal :=
  issue (.mplane o) (fun x s => .done (x.giveAll s (s.core x.g.core).planeWord) x.ex) s

/-- A plane from bytes under the layout of 09 R305. -/
def planeOf (ty : BitVec 3) (bs : Bool) (bytes : List Byte) : Plane :=
  let b := opBits ty
  let v := leNat bytes
  { fmt := some (ty, bs),
    elems := ((List.range 24576).map (fun i => (i, v / 2 ^ (b * i) % 2 ^ b))).filter (fun e => e.2 != 0),
    scales := if bs then ((List.range 768).map (fun i => (i, v / 2 ^ (8 * (3072 * b + i)) % 256))).filter (fun e => e.2 != 0) else [] }
def Plane.elem (p : Plane) (k n : Nat) : Nat := tabGet 0 (192 * k + n) p.elems
def Plane.scale (p : Plane) (g n : Nat) : List Nat :=
  match p.fmt with
  | some (_, true) => [tabGet 0 (192 * g + n) p.scales]
  | _ => []

/-! ### Start, blocks and completion (09 R308, R316, R324, R326, R327) -/

/-- The matrix owner of a core (09 R301). -/
def State.owner (s : State) (core : Nat) : Option (Nat × Team) :=
  (s.core core).teams.find? (fun t => decide (1 ≤ t.2.kd.cv))
/-- Accumulator words of a command carry the tag `int`. -/
def Core.tagged (k : Core) (c : MatCmd) (int : Bool) : Bool :=
  (List.range c.rows).all (fun m =>
    (tabGet false (c.rowAt m / 2048) k.accInt) == int && (tabGet false ((c.rowAt m + 191) / 2048) k.accInt) == int)
/-- The tag that a command of the accumulator unit needs (09 R319 to R323). -/
def MatCmd.wantsInt (c : MatCmd) : Bool := c.f.ty == 1 || c.f.ty == 7
/-- The first condition of 09 Table 8 that holds at the start, 0 for none. -/
def startError (k : Core) (t : Team) (c : MatCmd) : Nat :=
  let q := t.tslot c.slot
  let short := decide (q.len < c.bytes)
  match c.instr with
  | .mlds _ => if short then 3 else 0
  | .mldl _ | .mswap _ => 0
  | .mmul _ | .mmulz _ =>
    match (k.array c.a1).live.fmt with
    | none => 2
    | some (p, _) =>
      if !pairOk p c.f.ty then 1
      else if !k.tagged c (p == 5) then 4
      else if short then 3
      else 0
  | .acst _ =>
    if !k.tagged c c.wantsInt then 4
    else match q.base with
      | none => 3
      | some b => if t.bufBytes < b + up256 c.bytes then 3 else 0
  | _ =>
    if !k.tagged c c.wantsInt then 4
    else if c.slotWr && q.base.isNone then 3
    else if short then 3
    else 0
/-- Sticky status of a command. -/
def Conv.note (v : Conv) (st : Nat) : Conv :=
  { v with nan := v.nan || st &&& stNAN != 0, ovf := v.ovf || st &&& stOVF != 0, isat := v.isat || st &&& stISAT != 0,
           nx := v.nx || st &&& stNX != 0 }
/-- A command leaves the queue, complete (0) or with an error. -/
def State.endMat (s : State) (core t idx err : Nat) : State :=
  match (s.team t).matq[idx]? with
  | none => s
  | some c =>
    let s := s.modTeam t (fun y => { y with matq := y.matq.eraseIdx idx })
    let s := s.modConv t c.cv (fun v => { v with done := (v.done + 1) % 256, err := if v.err = 0 then err else v.err })
    let s := if c.rls then s.modSlot t c.slot (fun q => { q with st := .empty })
      else if c.slotWr && err = 0 then s.modSlot t c.slot (fun q => { q with st := .ready }) else s
    let s := if err != 0 && c.isLoad then
        s.modCore core (fun k => k.modArray c.a1 (fun m => m.setShadow { m.shadow with fmt := none }))
      else s
    s.dischargeRest core (some t) c.cc c.id
/-- A waiting acrd, acwr or acclr that was offered before the command conflicts with it (09 R325). -/
def State.accWaiter (s : State) (core t : Nat) (c : MatCmd) : Bool :=
  (s.team t).slots.any (fun w => (s.weave core w).threads.any (fun th => match th.2.marked with
    | some m => decide (m.id < c.id) && (match m.acc with
      | some (lo, hi, wr) => (wr || c.accWr) && c.meets lo hi
      | none => false)
    | none => false))
/-- The array of a command has stopped at the fault of another (09 R314). -/
def Team.arrayStopped (t : Team) (c : MatCmd) : Bool := t.matq.any (fun d => d.fault && d.unit == c.unit && d.id != c.id)
/-- The start conditions of 09 R308 and the scoreboard of 10 R344. -/
def State.mayStart (s : State) (core t idx : Nat) (c : MatCmd) : Bool :=
  let y := s.team t
  let before := y.matq.take idx
  let q := y.tslot c.slot
  c.released && !c.started && !y.arrayStopped c &&
    before.all (fun d => (d.unit != c.unit || d.started) && !c.conflicts d) &&
    (!c.slotRd || q.st == .ready) && (!c.slotWr || q.st == .empty || q.st == .ready) &&
    !(s.accWaiter core t c) &&
    !((s.core core).cmds.any (fun e => clashes e.spans ({ c with base := q.base.getD 0 }.spans y.ctx t)))
/-- MATRIX_COMMAND_START: signatures that are due take effect, and a command that may start does. -/
def execMatrixCommandStart (core idx : Nat) (s : State) : Host.Outcome State Fault Refusal :=
  let s := s.settleSigns core
  match s.owner core with
  | none => .next s
  | some (t, y) =>
    match y.matq[idx]? with
    | none => .next s
    | some c =>
      if s.mayStart core t idx c then
        let e := startError (s.core core) y c
        if e ≠ 0 then .next (s.endMat core t idx e)
        else
          let q := y.tslot c.slot
          let c' := { c with started := true, entered := s.nextId, base := q.base.getD 0 }
          let s := { s with nextId := s.nextId + 1 }.modTeam t (fun y => { y with matq := y.matq.set idx c' })
          let s := if c.slotWr then s.modSlot t c.slot (fun q => { q with st := .filling })
            else if c.rls then s.modSlot t c.slot (fun q => { q with st := .draining }) else s
          let s := match c.instr with
            | .acst _ => s.modSlot t c.slot (fun q => { q with len := up256 c.bytes })
            | _ => s
          .next (if c.isLoad then
            s.modCore core (fun k => k.modArray c.a1 (fun m => m.setShadow { m.shadow with fmt := some (c.f.ty, c.bs) }))
            else s)
      else .next s

/-- Words of a row. -/
def Core.row (k : Core) (i : Nat) : List Nat := (List.range 192).map (fun n => k.accWord (i + n))
def Core.putRow (k : Core) (i : Nat) (ws : List Nat) : Core :=
  (ws.zipIdx i).foldl (fun k e => k.putAcc e.2 e.1) k
/-- Row `m` of a command: the core and the team after it, and the status. -/
def matRow (k : Core) (t : Team) (c : MatCmd) (m : Nat) : Core × Team × Nat :=
  let i := c.rowAt m
  let ty := c.f.ty
  let r := c.rnd
  let ws := k.row i
  let words := fun (os : List (Nat × Nat)) => (k.putRow i (os.map (·.1)), t, os.foldl (fun f o => f ||| o.2) 0)
  let vec := fun (n : Nat) => t.bufNat (c.base + 4 * n) 4
  let stream := fun (zero : Bool) =>
    let p := (k.array c.a1).live
    let b := opBits ty
    let a := fun e => t.bufElem c.base b (128 * m + e)
    let sa := fun g => if c.bs then [t.bufNat (c.base + c.rows * 16 * b + 4 * m + g) 1] else []
    words (ws.zipIdx.map (fun e =>
      streamWord ((p.fmt.map (·.1)).getD 0) ty a (fun k => p.elem k e.2) sa (fun g => p.scale g e.2) (if zero then 0 else e.1)))
  match c.instr with
  | .mmul _ => stream false
  | .mmulz _ => stream true
  | .acst _ =>
    let b := accBits ty
    if c.bs then
      let os := (List.range 6).map (fun g => acstBlock ty r ((ws.drop (32 * g)).take 32))
      let t := t.bufWrite (c.base + m * 24 * b) (packElems b (os.map (fun o => o.2.1)).flatten)
      (k, t.bufWrite (c.base + c.rows * 24 * b + 6 * m) (os.map (fun o => BitVec.ofNat 8 o.1)),
        os.foldl (fun f o => f ||| o.2.2) 0)
    else
      let os := ws.map (acstElem ty r)
      (k, t.bufWrite (c.base + m * 24 * b) (packElems b (os.map (·.1))), os.foldl (fun f o => f ||| o.2) 0)
  | .acld _ => words ((List.range 192).map (fun n => acldElem ty (t.bufElem c.base (accBits ty) (192 * m + n))))
  | .acsclRow _ => words (ws.map (fun x => scaleWord r x (vec m)))
  | .acsclCol _ => words (ws.zipIdx.map (fun e => scaleWord r e.1 (vec e.2)))
  | .acbias _ => words (ws.zipIdx.map (fun e => biasWord ty r e.1 (vec e.2)))
  | .acnrm _ =>
    let o := normRow r c.q ws
    (k.putRow i o.2.1, t.bufWrite (c.base + 4 * m) (leBytes 4 o.1), o.2.2)
  | .acredMax _ =>
    let o := maxRow ty ws
    (k, t.bufWrite (c.base + 4 * m) (leBytes 4 o.1), o.2)
  | .acredSum _ =>
    let o := sumRow ty r ws
    (k, t.bufWrite (c.base + 4 * m) (leBytes 4 o.1), o.2)
  | _ => (k, t, 0)
/-- The slot bytes that rows `m` to `e - 1` read hold poison (09 R326). -/
def rowsPoisoned (t : Team) (c : MatCmd) (m e : Nat) : Bool :=
  match c.instr with
  | .mmul _ | .mmulz _ =>
    let rb := 16 * opBits c.f.ty
    t.bufPoison (c.base + m * rb) ((e - m) * rb) ||
      (c.bs && t.bufPoison (c.base + c.rows * rb + 4 * m) (4 * (e - m)))
  | .acld _ => t.bufPoison (c.base + m * 24 * accBits c.f.ty) ((e - m) * 24 * accBits c.f.ty)
  | .acsclRow _ => t.bufPoison (c.base + 4 * m) (4 * (e - m))
  | .acsclCol _ | .acbias _ => m = 0 && t.bufPoison c.base 768
  | _ => false
/-- Bytes discharged by rows `m` to `e - 1`; a command that reads one vector of 768 bytes discharges them
with its last block (log entry 37). -/
def blockBytes (c : MatCmd) (m e : Nat) : Nat :=
  match c.instr with
  | .acsclCol _ | .acbias _ => if e = c.rows then 768 else 0
  | _ => c.bytes / c.rows * (e - m)
/-- MATRIX_BLOCK_DONE: the next block of 32 rows, or the rest. -/
def execMatrixBlockDone (core idx : Nat) (s : State) : Host.Outcome State Fault Refusal :=
  match s.owner core with
  | none => .next s
  | some (t, y) =>
    match y.matq[idx]? with
    | none => .next s
    | some c =>
      if c.started && decide (c.done < c.rows) && !y.arrayStopped c then
        let e := min c.rows (c.done + 32)
        if rowsPoisoned y c c.done e then .next (s.endMat core t idx 5)
        else
          let r := (List.range (e - c.done)).foldl (fun (r : Core × Team × Nat) i =>
            let o := matRow r.1 r.2.1 c (c.done + i)
            (o.1, o.2.1, r.2.2 ||| o.2.2)) (s.core core, y, 0)
          let y' := { r.2.1 with matq := r.2.1.matq.set idx { c with done := e } }
          let s := s.setCore core { r.1 with teams := tabSet t y' r.1.teams }
          .next ((s.modConv t c.cv (fun v => v.note r.2.2)).discharge core (some t) c.cc c.id (blockBytes c c.done e))
      else .next s

/-- The record of a plane read's fault (09 R314). -/
def State.arrayFault (s : State) (core t idx : Nat) (c : MatCmd) (va : Nat) (k : Chk) : State :=
  match k with
  | .fault cause d lv lid _ =>
    let n := if c.a1 then 1025 else 1024
    let rec_ : FaultRec :=
      { idx := n, w0 := BitVec.ofNat 64 va, w1 := c.pc,
        w2 := BitVec.ofNat 64 ((if c.a1 then 0xFFFFFFF1 else 0xFFFFFFF0) * 2 ^ 32 + (if cause = 2 then 2 else 1) * 2 ^ 24 +
          d * 2 ^ 16 + lv % 4),
        w3 := BitVec.ofNat 64 (lid * 2 ^ 48 + (s.team t).ctx * 2 ^ 32 + n) }
    ((s.hearRefusal cause d lid).modTeam t (fun y => { y with matq := y.matq.set idx { c with fault := true, action := none } })).modCore core (fun q =>
      { q with eflt := q.eflt ++ [rec_], fwEvents := q.fwEvents ||| 2 })
  | _ => s
/-- How a failed engine read ends: an error code, none for a fault or a wait. -/
def readError (k : Chk) : Option Nat :=
  match k with
  | .bad 8 _ _ => some 5
  | .bad _ _ _ => some 6
  | _ => none
/-- A refused access is one to a page of class poisoned, which an engine takes as poison whatever else refuses it (10
R352). -/
def State.poisonPage (s : State) (a : Agent) (va : Nat) (k : Chk) : Bool :=
  match k, (s.translate a.core a.ctx va).2 with
  | .bad n _ _, .ok t => decide (5 ≤ n) && leafMc t.leaf == 3
  | _, _ => false
/-- The bytes of a range of memory as an engine reads them, with their poison (10 R336). -/
def State.engineBytes (s : State) (a : Agent) (va n : Nat) : State × Except (Nat × Chk) (List Loc) :=
  let cuts := lineCuts va n
  let r := s.checkList a (engineAcc false) (cuts.map (·.1))
  (r.1, (cuts.zip r.2).foldl (fun (m : Except (Nat × Chk) (List Loc)) e => match m, e.2 with
    | .error x, _ => .error x
    | .ok ls, .ok loc _ => .ok (ls ++ loc.span e.1.2)
    | .ok _, k => .error (e.1.1, if r.1.poisonPage a e.1.1 k then .bad 8 trapPoison 0 else k)) (.ok []))
/-- Places read by an engine: filled, and narrowing tenure as plain loads do. -/
def State.readPlaces (s : State) (team : Option Nat) (ls : List Loc) : State :=
  ((ls.map Loc.sector).dedup).foldl (fun s l => (s.touch l).recallSpan team false l 1) s
/-- A plane load delivers. -/
def State.finishLoad (s : State) (core t idx : Nat) (c : MatCmd) (bytes : List Byte) : State :=
  (s.modCore core (fun k => k.modArray c.a1 (fun m => m.setShadow (planeOf c.f.ty c.bs bytes)))).endMat core t idx 0
/-- MATRIX_COMMAND_COMPLETE: a load delivers its plane, a swap exchanges the planes, and a row command
whose rows are done ends. A load that has faulted goes on as firmware has answered (09 R314). DESIGN CHOICE (log entry
61): of two loads of one array the one that completes last stands in the shadow plane. -/
def execMatrixCommandComplete (core idx : Nat) (s : State) : Host.Outcome State Fault Refusal :=
  match s.owner core with
  | none => .next s
  | some (t, y) =>
    match y.matq[idx]? with
    | none => .next s
    | some c =>
      if !c.started || y.arrayStopped c then .next s
      else match c.instr with
        | .mlds _ =>
          if y.bufPoison c.base c.bytes then .next (s.endMat core t idx 5)
          else .next (s.finishLoad core t idx c (y.bufRead c.base c.bytes))
        | .mldl _ =>
          if c.fault then
            match c.action with
            | none => .next s
            | some 0 => .next (s.modTeam t (fun y => { y with matq := y.matq.set idx { c with fault := false, action := none } }))
            | some 1 => .next (s.endMat core t idx 6)
            | some _ => .next (s.endMat core t idx 5)
          else
            match s.engineBytes (s.teamAgent core y.ctx (some t)) c.addr c.bytes with
            | (s, .ok ls) =>
              if ls.any (fun l => match l with
                  | .mem pa => s.refreshing pa || s.recallWaits (some t) false (.mem pa) 1
                  | .spad _ _ => false) then .next s
              else
                let s := s.readPlaces (some t) ls
                if s.anyPoison ls then .next (s.endMat core t idx 5)
                else .next (s.finishLoad core t idx c (ls.map s.getByte))
            | (s, .error (va, .lender e scr)) =>
              match s.awaited c.asked (.lender e scr) with
              | .fault a d lv lid sc => .next (s.arrayFault core t idx { c with asked := none } va (.fault a d lv lid sc))
              | _ => .next (s.modTeam t (fun y => { y with matq := y.matq.set idx { c with asked := some (c.asked.getD s.time) } }))
            | (s, .error (va, k)) =>
              match readError k with
              | some e => .next (s.endMat core t idx e)
              | none => .next (s.arrayFault core t idx c va k)
        | .mswap _ =>
          .next ((s.modCore core (fun k => k.modArray c.a1 (fun m => { m with active := !m.active }))).endMat core t idx 0)
        | _ => .next (if c.rows ≤ c.done then s.endMat core t idx 0 else s)

end Sys2Proof.Machine
end

