-- ==== Sys2Proof/Machine/Engine.lean ====
section
/-! DEFINITION. The copy engine (10 R332 to R356). -/

namespace Sys2Proof.Machine

/-! ### Posting (10 R332, R335, R343) -/

/-- First and last byte of a range obey 01 R25. -/
def rangeOk (va n : Nat) : Bool := canonical va && decide (va + n - 1 < 2 ^ 64) && canonical (va + n - 1)
def maxRange : Nat := 2 ^ 48
/-- The lowest free command entry. -/
def Core.freeEntry (k : Core) : Nat := ((List.range 64).find? (fun n => !(k.cmds.any (fun c => c.entry = n)))).getD 0
/-- Post a command: 64 in flight and stores not yet performed make the group wait. -/
def Iss.post (x : Iss) (s : State) (c : EngCmd) : Act :=
  let core := x.g.core
  if 64 ≤ (s.core core).cmds.length then .wait s
  else if !s.drained core x.g.slot || s.atomPending core x.g.slot x.ex then .wait s
  else
    let c := { c with id := s.nextId, entry := (s.core core).freeEntry }
    let s := { s with nextId := s.nextId + 1 }.charge core c.team c.cc c.id c.len
    .done (s.modCore core (fun k => { k with cmds := k.cmds ++ [c] })) x.ex
/-- The command of an issue, before it is posted. -/
def Iss.engCmd (x : Iss) (team : Option Nat) (kind : EngKind) : EngCmd :=
  { id := 0, entry := 0, kind := kind, team := team, ctx := x.agent.ctx, pc := x.g.pc, cc := x.cc }
def prot (x : Iss) (s : State) (d : Nat) : Act := .trap s [] trapProt d x.ex

def cpyBody : Iss → State → Act := uniform 0x1D (fun x l => [x.d l, x.a l, x.b l]) (fun x s team l =>
  let n := x.d l
  if n = 0 then .done s x.ex
  else if !rangeOk (x.a l) n || !rangeOk (x.b l) n then prot x s 1
  else if meet (x.a l) n (x.b l) n || decide (maxRange < n) then prot x s 0x1C
  else x.post s { x.engCmd team .cpy with len := n, src := x.a l, dst := x.b l })
/-- 10 R336. -/
def execCpy (o : XForm) (s : State) : Host.Outcome State Fault Refusal := issue (.cpy o) cpyBody s
def fillBody : Iss → State → Act := uniform 0x1D (fun x l => [x.d l, x.a l, x.b l]) (fun x s team l =>
  let n := x.d l
  if n = 0 then .done s x.ex
  else if !rangeOk (x.a l) n then prot x s 1
  else if maxRange < n then prot x s 0x1C
  else x.post s { x.engCmd team .fill with len := n, dst := x.a l, pat := BitVec.ofNat 32 (x.b l) })
/-- 10 R336. -/
def execFill (o : XForm) (s : State) : Host.Outcome State Fault Refusal := issue (.fill o) fillBody s

/-- The memory side of a command on a bound slot, or the detail of its protection trap (10 R337). -/
def Team.boundTile (t : Team) (k : Nat) (dvz : Bool) : Except Nat TileDesc :=
  match (t.tslot k).bound with
  | none => .error 0x1C
  | some (n, gen) =>
    if !dvz then .error 0x1C
    else if !(t.handle n).opened then .error 0x12
    else if (t.handle n).gen ≠ gen then .error 0x13
    else .ok (t.handle n).desc
/-- Length and tile of cpts and cpfs. -/
def Iss.slotSide (x : Iss) (t : Team) (l : Nat) : Except Nat (Nat × Option TileDesc) :=
  if x.f.a = 511 then (t.boundTile x.f.ts.toNat (x.f.d == 511)).map (fun d => (tileBytes d, some d))
  else .ok (x.d l, none)
/-- Post a command that fills a slot from `off`: its state, base and length change at posting. -/
def Iss.postFill (x : Iss) (s : State) (t off : Nat) (c : EngCmd) : Act :=
  let k := x.f.ts.toNat
  if off % 256 ≠ 0 ∨ (s.team t).bufBytes < off + c.len then prot x s 0x1C
  else if ((s.team t).tslot k).moving then .wait s
  else match x.post s { c with slot := some k, sbase := off, slen := up256 c.len } with
    | .done s ls => .done (s.modSlot t k (fun q => { q with st := .filling, base := some off, len := up256 c.len })) ls
    | a => a
def cptsBody : Iss → State → Act := uniform 0x1D (fun x l => [x.d l, x.a l, x.b l]) (fun x s team l =>
  match team with
  | none => .done s x.ex
  | some t =>
    match x.slotSide (s.team t) l with
    | .error d => prot x s d
    | .ok (n, tile) =>
      if n = 0 then .done s x.ex
      else if tile.isNone && !rangeOk (x.a l) n then prot x s 1
      else x.postFill s t (x.b l) { x.engCmd team .cpts with len := n, src := x.a l, tile := tile })
/-- 10 R337. -/
def execCpts (o : XForm) (s : State) : Host.Outcome State Fault Refusal := issue (.cpts o) cptsBody s
def cpfsBody : Iss → State → Act := uniform 0x1D (fun x l => [x.d l, x.a l]) (fun x s team l =>
  match team with
  | none => .done s x.ex
  | some t =>
    let k := x.f.ts.toNat
    let q := (s.team t).tslot k
    let rls := x.f.mod.getLsbD 0
    match x.slotSide (s.team t) l with
    | .error d => prot x s d
    | .ok (n, tile) =>
      if n = 0 then .done s x.ex
      else if tile.isNone && !rangeOk (x.a l) n then prot x s 1
      else if q.st != .ready then .wait s
      else if q.len < n then prot x s 0x1C
      else match x.post s { x.engCmd team .cpfs with
          len := n, dst := x.a l, tile := tile, slot := some k, sbase := q.base.getD 0, slen := q.len, rls := rls } with
        | .done s ls => .done (if rls then s.modSlot t k (fun q => { q with st := .draining }) else s) ls
        | a => a)
/-- 10 R337. -/
def execCpfs (o : XForm) (s : State) : Host.Outcome State Fault Refusal := issue (.cpfs o) cpfsBody s

/-- cpald and cpast: the team must be the matrix owner (10 R335, 09 R301). -/
def accCopy (kind : EngKind) : Iss → State → Act := uniform 0x1D (fun x l => [x.d l, x.a l, x.b l]) (fun x s team l =>
  let n := 4 * x.d l
  if n = 0 then .done s x.ex
  else if !rangeOk (x.a l) n then prot x s 1
  else if 524288 < x.b l + x.d l then prot x s 0x1C
  else if x.a l % 4 ≠ 0 then .trap s [] trapAlign 0 x.ex
  else if (team.map (fun t => (s.team t).kd.cv)).getD 0 = 0 then .trap s [] trapIllegal 0x0B x.g.lanes
  else x.post s { x.engCmd team kind with len := n, src := x.a l, dst := x.a l, acc := x.b l })
/-- 10 R338. -/
def execCpald (o : XForm) (s : State) : Host.Outcome State Fault Refusal := issue (.cpald o) (accCopy .cpald) s
/-- 10 R338. -/
def execCpast (o : XForm) (s : State) : Host.Outcome State Fault Refusal := issue (.cpast o) (accCopy .cpast) s

/-- 10 Table 3; none when malformed. -/
def gatherOf (ws : List Nat) : Option Gather :=
  let w := fun (n : Nat) => ws.getD n 0
  let g : Gather := { base := w 0, idxa := w 1, rowb := bitsAt (w 2) 0 21, stride := bitsAt (w 2) 24 40,
                      isz := bitsAt (w 3) 24 2, count := bitsAt (w 3) 0 24 }
  if bitsAt (w 3) 26 38 ≠ 0 ∨ bitsAt (w 2) 21 3 ≠ 0 ∨ g.count = 0 ∨ g.rowb = 0 ∨ 1048576 < g.rowb ∨ 1 < g.isz then none
  else some g
def Gather.isize (g : Gather) : Nat := 2 ^ (g.isz + 2)
/-- Read the descriptor of a gather and go on with it (10 R339). A poisoned descriptor raises the poison
trap (log entry 39). -/
def withGather (h : Iss → State → Nat → Gather → Act) (x : Iss) (s : State) (l : Nat) : Act :=
  if s.atomPending x.g.core x.g.slot x.ex then .wait s
  else
    match x.checkOnce s { rd := true, align := 32, size := 32 } (x.a l) with
    | (s', .ok loc leaf) =>
      let s := s'.prepLoad x.g.core x.g.slot { l := l, ea := x.a l, loc := loc, leaf := leaf } 32 true
      if s.anyPoison (loc.span 32) then .trap s [] trapPoison 0 x.ex
      else match gatherOf ((List.range 4).map (fun i => s.seen x.g.core x.g.slot l (loc.add (8 * i)) 8)) with
        | none => prot x s 0x1E
        | some g => if rangeOk g.idxa (g.count * g.isize) then h x s l g else prot x s 1
    | (s', k) => x.failAll s' false (x.a l) k
def gcpBody : Iss → State → Act := uniform 0x1D (fun x l => [x.a l, x.b l]) (fun x s team l =>
  withGather (fun x s l g =>
    let n := g.count * g.rowb
    if !rangeOk (x.b l) n then prot x s 1
    else x.post s { x.engCmd team .gcp with len := n, dst := x.b l, gather := some g }) x s l)
/-- 10 R339, R340. -/
def execGcp (o : XForm) (s : State) : Host.Outcome State Fault Refusal := issue (.gcp o) gcpBody s
def gcptsBody : Iss → State → Act := uniform 0x1D (fun x l => [x.a l, x.b l]) (fun x s team l =>
  withGather (fun x s l g =>
    match team with
    | none => .done s x.ex
    | some t => x.postFill s t (x.b l) { x.engCmd team .gcpts with len := g.count * g.rowb, gather := some g }) x s l)
/-- 10 R339, R340. -/
def execGcpts (o : XForm) (s : State) : Host.Outcome State Fault Refusal := issue (.gcpts o) gcptsBody s

/-- expf and exwb. -/
def cacheCopy (kind : EngKind) : Iss → State → Act := uniform 0x1D (fun x l => [x.d l, x.a l]) (fun x s team l =>
  let n := x.d l
  if n = 0 then .done s x.ex
  else if !rangeOk (x.a l) n then prot x s 1
  else if maxRange < n then prot x s 0x1C
  else x.post s { x.engCmd team kind with len := n, src := x.a l })
/-- 10 R341. -/
def execExpf (o : XForm) (s : State) : Host.Outcome State Fault Refusal := issue (.expf o) (cacheCopy .expf) s
/-- 10 R341. -/
def execExwb (o : XForm) (s : State) : Host.Outcome State Fault Refusal := issue (.exwb o) (cacheCopy .exwb) s

/-! ### Completion counters (10 R347, R348) -/

def Iss.ccn (x : Iss) : Nat := x.f.c.toNat % 16
def Iss.team (x : Iss) : Option Nat := (x.old.weave x.g.core x.g.slot).team
def waitltBody (x : Iss) (s : State) : Act :=
  match x.ex.filter (fun l => x.a l % 2 ^ 56 = 0) with
  | l :: r => .trap s [] trapProt 0x1C (l :: r)
  | [] =>
    if x.ex.all (fun l => decide ((s.counter x.g.core x.team x.ccn).count < x.a l % 2 ^ 56)) then .done s x.ex
    else .wait s
/-- 10 R347. -/
def execWaitlt (o : AForm) (s : State) : Host.Outcome State Fault Refusal := issue (.waitlt o) waitltBody s
/-- 10 R348. -/
def execCcrd (o : AForm) (s : State) : Host.Outcome State Fault Refusal :=
  issue (.ccrd o) (fun x s =>
    let c := s.counter x.g.core x.team x.ccn
    .done (x.giveAll s (c.count % 2 ^ 56 + c.err % 256 * 2 ^ 56)) x.ex) s
/-- ccadd in one lane. -/
def Counter.add (c : Counter) (z : Int) : Counter :=
  let v := (c.count : Int) + z
  let w := max 0 (min (2 ^ 56 - 1) v)
  { c with count := w.toNat, err := if v ≠ w ∧ c.err = 0 then 8 else c.err }
/-- 10 R348. -/
def execCcadd (o : AForm) (s : State) : Host.Outcome State Fault Refusal :=
  issue (.ccadd o) (fun x s =>
    .done (x.ex.foldl (fun s l => s.modCounter x.g.core x.team x.ccn (fun c => c.add (sint 64 (x.a l)))) s) x.ex) s
/-- 10 R348. -/
def execCcclr (o : AForm) (s : State) : Host.Outcome State Fault Refusal :=
  issue (.ccclr o) (fun x s =>
    .done (if x.ex.isEmpty then s else s.modCounter x.g.core x.team x.ccn (fun c => { c with err := 0 })) x.ex) s

/-! ### Units (10 R342) -/

def EngCmd.units (c : EngCmd) : Nat :=
  match c.kind, c.gather with
  | .expf, _ => 0
  | .exwb, _ => 0
  | _, some g => g.count * g.rowUnits
  | _, none => (c.len + unitBytes - 1) / unitBytes
/-- UNIT of a fault record (10 Table 7). -/
def EngCmd.unitNumber (c : EngCmd) (u : Nat) : Nat :=
  match c.gather with
  | some g => u / g.rowUnits * 256 + u % g.rowUnits
  | none => u
/-- How the check of an engine's byte ends: a place, a dropped byte of a poisoned-class page, or not. -/
def placeOf (k : Chk) : Option (Option Loc) :=
  match k with
  | .ok loc _ => some (some loc)
  | .bad 8 _ _ => some none
  | _ => none
/-- Check a list of addresses up to the first that fails: the places before it, and it. -/
def State.engineCheck (s : State) (a : Agent) (acc : Acc) : List Nat → State × List (Option Loc) × Option (Nat × Chk)
  | [] => (s, [], none)
  | v :: t =>
    let r := s.check a acc v
    match (if r.1.poisonPage a v r.2 then some none else placeOf r.2) with
    | none => (r.1, [], some (v, r.2))
    | some p =>
      let q := r.1.engineCheck a acc t
      (q.1, p :: q.2.1, q.2.2)
/-- Bytes at places, each with its poison; a poisoned-class page reads as poison throughout. -/
def State.engineData (s : State) (ps : List (Option Loc)) : List (Byte × Bool) :=
  ps.map (fun p => match p with
    | some l => (s.getByte l, s.isPoison l)
    | none => (0, true))
/-- A read waits for a Larder bank group in refresh, or for a recall that waits (06 R200, 07 R235). -/
def State.placesStall (s : State) (team : Option Nat) (ps : List (Option Loc)) : Bool :=
  ps.any (fun p => match p with
    | some (.mem pa) => s.refreshing pa || s.recallWaits team false (.mem pa) 1
    | _ => false)

/-- What the source of a unit gives. -/
inductive Sourced
  | data (bs : List (Byte × Bool))
  | fail (va : Nat) (k : Chk)
  | wait
  deriving DecidableEq, Repr
/-- Read addresses as plain loads of the team. -/
def State.engineRead (s : State) (a : Agent) (vs : List Nat) : State × Sourced :=
  match s.engineCheck a (engineAcc false) vs with
  | (s, _, some (v, k)) => (s, .fail v k)
  | (s, ps, none) =>
    if s.placesStall a.team ps then (s, .wait)
    else
      let s := s.readPlaces a.team (ps.filterMap id)
      (s, .data (s.engineData ps))
/-- The agent that a command works for. -/
def State.cmdAgent (s : State) (core : Nat) (c : EngCmd) : Agent := s.teamAgent core c.ctx c.team
/-- exmig cannot reach a range: its lease has ended, or the lender refuses (13 R427, R428). -/
def State.physFails (s : State) (pa n : Nat) : Bool :=
  (List.range n).any (fun i => !s.isLocal (pa + i) && (!s.borrowed (pa + i) || s.remoteRefusal (pa + i) == some 3))
/-- A lender has not answered exmig yet (06 R211). -/
def State.physSilent (s : State) (pa n : Nat) : Bool :=
  (List.range n).any (fun i => (s.remoteRefusal (pa + i)).isSome)
/-- The source bytes of a unit. -/
def State.unitSource (s : State) (core : Nat) (c : EngCmd) (u : Nat) : State × Sourced :=
  let g := c.geom u
  let a := s.cmdAgent core c
  match c.kind with
  | .cpy => s.engineRead a (c.addrs c.src g.1 g.2)
  | .cpts => s.engineRead a (c.addrs c.src g.1 g.2)
  | .cpald => s.engineRead a (c.addrs c.src g.1 g.2)
  | .fill => (s, .data ((List.range g.2).map (fun i => (BitVec.ofNat 8 (c.pat.toNat / 2 ^ (8 * ((g.1 + i) % 4))), false))))
  | .cpfs =>
    let t := s.team (c.team.getD 0)
    (s, .data ((List.range g.2).map (fun i => (tabGet 0 (c.sbase + g.1 + i) t.opbuf, t.bufPoison (c.sbase + g.1 + i) 1))))
  | .cpast =>
    let k := s.core core
    (s, .data ((List.range g.2).map (fun i =>
      (BitVec.ofNat 8 (k.accWord (c.acc + (g.1 + i) / 4) / 2 ^ (8 * ((g.1 + i) % 4))), false))))
  | .exmig =>
    if s.physFails (c.src + g.1) g.2 then (s, .fail 0 (.bad 0 0 0x0A))
    else if s.physSilent (c.src + g.1) g.2 then (s, .fail 0 (.lender { pa := c.src + g.1, leaf := 0, level := 0, pte := 0 } false))
    else
      let ps := (List.range g.2).map (fun i => s.place (c.src + g.1 + i))
      let s := s.touchAll ps
      if s.placesStall none (ps.map some) then (s, .wait)
      else if ps.any s.snooped then (ps.foldl State.snoop s, .wait)
      else if s.anyPoison ps then (s, .fail 0 (.bad 0 0 9))
      else (s, .data (ps.map (fun l => (s.getByte l, false))))
  | _ =>
    match c.gather with
    | none => (s, .data [])
    | some gr =>
      let row := u / gr.rowUnits
      match s.engineRead a ((List.range gr.isize).map (fun i => (gr.idxa + row * gr.isize + i) % 2 ^ 64)) with
      | (s, .data bs) =>
        if bs.any (·.2) then (s, .data (List.replicate g.2 (0, true)))
        else
          let va := (gr.base + leNat (bs.map (·.1)) * gr.stride) % 2 ^ 64
          if !canonical va then (s, .fail va (.bad 1 trapProt 1))
          else s.engineRead a ((List.range g.2).map (fun i => (va + u % gr.rowUnits * unitBytes + i) % 2 ^ 64))
      | r => r

/-! ### Ends of commands and units (10 R346 to R352) -/

/-- Change the command with a number. -/
def State.modCmd (s : State) (core id : Nat) (f : EngCmd → EngCmd) : State :=
  s.modCore core (fun k => { k with cmds := k.cmds.map (fun c => if c.id = id then f c else c) })
/-- exmig moves the tile-directory records of its source pages (13 R427, 07 R246): the slices that then keep them. -/
def State.movedRecords (s : State) (src dst len : Nat) : State × List Nat :=
  let moves := fun (d : DirRec) => decide (src ≤ d.page.pa ∧ d.page.pa < src + len)
  ({ s with dirs := s.dirs.map (fun d =>
      if moves d then
        let p := { d.page with pa := d.page.pa - src + dst }
        { d with page := p, slice := dirSlice p.pa }
      else d) }, (s.dirs.filter moves).map (fun d => dirSlice (d.page.pa - src + dst)))
/-- No slice keeps more than its 64 (07 R238). -/
def State.moveRecords (s : State) (src dst len : Nat) : State :=
  let r := s.movedRecords src dst len
  r.2.foldl State.trimSlice r.1
/-- A record that would have to be recalled for a moved one has bytes in flight (07 R235). -/
def State.moveWaits (s : State) (src dst len : Nat) : Bool :=
  let r := s.movedRecords src dst len
  r.2.any r.1.trimWaits
/-- The units that exmig has written: those started and no longer in a buffer. -/
def State.unitsDone (s : State) (core : Nat) (c : EngCmd) : List Nat :=
  (List.range c.next).filter (fun u => !(s.core core).bufs.any (fun b => b.cmd = c.id && b.unit = u))
/-- The destination sectors that exmig has written are rewritten with zero (13 R428). -/
def State.wipe (s : State) (dst n : Nat) : State :=
  let ls := (List.range n).map (fun i => s.place (dst + i))
  ls.foldl (fun s l => s.markPoison l false) (s.writeAt (ls.map (fun l => (l, 0))))
/-- A command ends: `code` 0 for completion. DESIGN CHOICE (log entry 74): its other open fault records go with it. -/
def State.endCmd (s : State) (core : Nat) (c : EngCmd) (code : Nat) : State :=
  let gone := (c.parked.filter (·.action.isNone)).map (·.record)
  let wrote := s.unitsDone core c
  let s := s.modCore core (fun k => { k with
    cmds := k.cmds.filter (fun d => d.id != c.id), bufs := k.bufs.filter (fun b => b.cmd != c.id),
    eflt := k.eflt.filter (fun r => !gone.contains r.idx) })
  let s := s.dischargeRest core c.team c.cc c.id
  let s := if code = 0 then s else s.noteErr core c.team c.cc code
  let s := match c.kind, c.slot, c.team with
    | .cpts, some k, some t => s.modSlot t k (fun q => { q with st := .ready })
    | .gcpts, some k, some t => s.modSlot t k (fun q => { q with st := .ready })
    | .cpfs, some k, some t => if c.rls then s.modSlot t k (fun q => { q with st := .empty }) else s
    | _, _, _ => s
  if c.kind = .exmig then
    if code = 0 then s.moveRecords c.src c.dst c.len
    else wrote.foldl (fun s u => s.wipe (c.dst + (c.geom u).1) (c.geom u).2) s
  else s
/-- A unit parks: its buffer is given up and a record is posted (10 R350, Table 7). -/
def State.parkUnit (s : State) (core : Nat) (c : EngCmd) (u : Nat) (wr : Bool) (va cause d lv lid : Nat) : State :=
  let idx := freeRecord (s.core core).eflt 1024
  let rec_ : FaultRec :=
    { idx := idx, w0 := BitVec.ofNat 64 va, w1 := c.pc,
      w2 := BitVec.ofNat 64 (c.unitNumber u % 2 ^ 32 * 2 ^ 32 + (if cause = 2 then 2 else 1) * 2 ^ 24 + d * 2 ^ 16 +
        c.entry * 2 ^ 10 + (if wr then 4 else 0) + lv % 4),
      w3 := BitVec.ofNat 64 (lid * 2 ^ 48 + c.ctx * 2 ^ 32 + idx) }
  ((s.hearRefusal cause d lid).modCore core (fun k => { k with
    bufs := k.bufs.filter (fun b => !(b.cmd = c.id && b.unit = u)),
    eflt := k.eflt ++ [rec_], fwEvents := k.fwEvents ||| 2 })).modCmd core c.id (fun c =>
      { c with parked := c.parked.filter (fun p => p.unit != u) ++ [{ unit := u, record := idx }], asked := tabErase u c.asked })
/-- A unit has an access on its way to a lender. -/
def State.askUnit (s : State) (core : Nat) (c : EngCmd) (u : Nat) : State :=
  if (tabFind u c.asked).isSome then s else s.modCmd core c.id (fun c => { c with asked := tabSet u s.time c.asked })
/-- How a unit's access to a lender stands: exmig, which has no translation, aborts where a load would meet the fault (06
R211, 13 R428). -/
def State.unitAwaits (s : State) (c : EngCmd) (u : Nat) (k : Chk) : Chk :=
  match s.awaited (tabFind u c.asked) k with
  | .fault a d lv lid sc => if c.kind = .exmig then .bad 0 0 0x0A else .fault a d lv lid sc
  | k => k
/-- A unit meets a check that fails: it parks, or its command ends; a wait leaves the state. -/
def State.unitFails (s : State) (core : Nat) (c : EngCmd) (u : Nat) (wr : Bool) (va : Nat) (k : Chk) : State :=
  match k with
  | .fault cause d lv lid _ => s.parkUnit core c u wr va cause d lv lid
  | .bad 0 _ code => s.afterHolds 1000 (s.endCmd core c code)
  | .bad _ _ _ => s.endCmd core c 1
  | _ => s
/-- The unit that a command starts next: a replay that firmware has allowed, or the next in order, unless it might come
to hold a seventeenth parked unit. -/
def Core.nextUnit (k : Core) (c : EngCmd) : Option Nat :=
  if !c.started then none
  else match c.parked.find? (fun p => p.action == some 0) with
    | some p => some p.unit
    | none => if c.next < c.units ∧ c.parked.length + (k.bufs.filter (fun b => b.cmd = c.id)).length < 16 then some c.next
      else none
/-- A save has stopped the commands of the team (10 R354). -/
def State.stopped (s : State) (team : Option Nat) : Bool := (team.map (fun t => (s.team t).pre.stopping)) == some true
/-- ENGINE_UNIT_START: free buffers go to commands in their posting order (10 R342). -/
def execEngineUnitStart (core idx : Nat) (s : State) : Host.Outcome State Fault Refusal :=
  let k := s.core core
  match k.cmds[idx]? with
  | none => .next s
  | some c =>
    match k.nextUnit c with
    | none => .next s
    | some u =>
      if 8 ≤ k.bufs.length || (k.cmds.take idx).any (fun d => (k.nextUnit d).isSome && !s.stopped d.team) || s.stopped c.team then
        .next s
      else
        let replay := c.parked.any (fun p => p.unit = u)
        match s.unitSource core c u with
        | (s, .wait) => .next s
        | (s, .fail va k) =>
          match s.unitAwaits c u k with
          | .wait => .next s
          | .lender _ _ => .next (s.askUnit core c u)
          | k =>
            let c' := if replay || c.kind == .exmig then c else { c with next := c.next + 1 }
            let s := s.modCmd core c.id (fun _ => c')
            .next (s.unitFails core c' u false va k)
        | (s, .data bs) =>
          let bad := bs.any (·.2)
          let s := if bad then s.noteErr core c.team c.cc 5 else s
          if bad && c.kind == .cpald then .next (s.endCmd core c 5)
          else
            let s := s.modCmd core c.id (fun c => { c with
              next := if replay then c.next else c.next + 1, parked := c.parked.filter (fun p => p.unit != u),
              asked := tabErase u c.asked })
            .next (s.modCore core (fun k => { k with bufs := k.bufs ++ [{ cmd := c.id, unit := u, data := bs }] }))

/-- Write a byte of a unit; poison marks the sector that receives it (10 R352). -/
def State.engineByte (s : State) (l : Loc) (b : Byte × Bool) : State :=
  let s := (s.touch l).putByte l b.1
  if b.2 then s.markPoison l true else s
/-- Write bytes of a unit to their places, as plain stores do (10 R336, R352, 08 R293). -/
def State.engineWrite (s : State) (team : Option Nat) (ps : List (Option Loc)) (bs : List (Byte × Bool)) : State :=
  let ws := (ps.zip bs).filterMap (fun e => e.1.map (fun l => (l, e.2)))
  let s := ((ws.map (fun w => w.1.sector)).dedup).foldl (fun s l => s.recallSpan team true l 1) s
  ((ws.foldl (fun s w => s.engineByte w.1 w.2) s).conflicts (ws.map (·.1)) (201, 0, 0) (fun _ _ => true)).noteWrite (ws.map (·.1))
/-- A write to the places has to wait: holds stand on a line, or a recall of tenure there waits (07 R235, R251). -/
def State.placesHeld (s : State) (team : Option Nat) (ps : List (Option Loc)) : Bool :=
  ps.any (fun p => match p with
    | some (.mem pa) => s.heldByOthers 1000 (pa / 128) || s.recallWaits team true (.mem pa) 1
    | _ => false)
/-- A command all of whose units have been performed ends. -/
def State.closeCmd (s : State) (core id : Nat) : State :=
  match (s.core core).cmds.find? (fun c => c.id = id) with
  | none => s
  | some c => if c.units ≤ c.performed then s.endCmd core c 0 else s
/-- A unit is performed: its buffer is free and its bytes are discharged. -/
def State.unitDone (s : State) (core : Nat) (c : EngCmd) (u : Nat) : State :=
  let s := s.modCore core (fun k => { k with bufs := k.bufs.filter (fun b => !(b.cmd = c.id && b.unit = u)) })
  let s := s.modCmd core c.id (fun c => { c with performed := c.performed + 1 })
  (s.discharge core c.team c.cc c.id (c.geom u).2).closeCmd core c.id
/-- ENGINE_UNIT_PERFORMED: the writes of a unit; those before a refused page stand (10 R342, R350). -/
def execEngineUnitPerformed (core buf : Nat) (s : State) : Host.Outcome State Fault Refusal :=
  let k := s.core core
  match k.bufs[buf]? with
  | none => .next s
  | some b =>
    match k.cmds.find? (fun c => c.id = b.cmd) with
    | none => .next s
    | some c =>
      let g := c.geom b.unit
      match c.kind with
      | .cpts | .gcpts =>
        let t := c.team.getD 0
        let bad := (b.data.zipIdx (c.sbase + g.1)).filter (fun e => e.1.2)
        .next ((s.modTeam t (fun y => { y.bufWrite (c.sbase + g.1) (b.data.map (·.1)) with
          opPoison := bad.foldl (fun l e => insertNat (e.2 / 32) l) y.opPoison })).unitDone core c b.unit)
      | .cpald =>
        .next ((s.modCore core (fun k => (List.range (g.2 / 4)).foldl (fun k i =>
          k.putAcc (c.acc + g.1 / 4 + i) (leNat (((b.data.drop (4 * i)).take 4).map (·.1)))) k)).unitDone core c b.unit)
      | .exmig =>
        if s.physFails (c.dst + g.1) g.2 then .next (s.afterHolds 1000 (s.endCmd core c 0x0A))
        else if s.physSilent (c.dst + g.1) g.2 then
          match s.unitAwaits c b.unit (.lender { pa := c.dst + g.1, leaf := 0, level := 0, pte := 0 } false) with
          | .bad _ _ d => .next (s.afterHolds 1000 (s.endCmd core c d))
          | _ => .next (s.askUnit core c b.unit)
        else
          let ps := (List.range g.2).map (fun i => some (s.place (c.dst + g.1 + i)))
          if (ps.filterMap id).any s.snooped then .next ((ps.filterMap id).foldl State.snoop s)
          else if s.placesHeld none ps then .next (s.waitLines (ps.filterMap id))
          else if c.performed + 1 = c.units && s.moveWaits c.src c.dst c.len then .next s
          else .next ((s.engineWrite none ps b.data).unitDone core c b.unit)
      | _ =>
        match s.engineCheck (s.cmdAgent core c) (engineAcc true) (c.addrs c.dst g.1 g.2) with
        | (s, ps, fail) =>
          let fail := fail.map (fun e => (e.1, s.unitAwaits c b.unit e.2))
          if s.placesHeld c.team ps then .next (s.waitLines (ps.filterMap id))
          else match fail with
            | some (_, .wait) => .next s
            | some (_, .lender _ _) => .next (s.askUnit core c b.unit)
            | _ =>
              let s := s.engineWrite c.team ps b.data
              let s := if ps.any Option.isNone then s.noteErr core c.team c.cc 5 else s
              match fail with
              | none => .next (s.unitDone core c b.unit)
              | some (va, k) => .next (s.unitFails core c b.unit true va k)

/-! ### Starts (10 R341, R344) -/

/-- Pages of a range whose leaf names a valid lease, as physical runs (10 R341). -/
def State.leasedRuns (s : State) (core ctx va n : Nat) : List (Nat × Nat) :=
  (pageCuts va n).filterMap (fun e =>
    match (s.translate core ctx e.1).2 with
    | .ok x => if leafLid x.leaf != 0 && (s.leaseDetail (leafLid x.leaf)).isNone then some (x.pa, e.2) else none
    | _ => none)
/-- Some page's lookup has to wait. -/
def State.leasesWait (s : State) (core ctx va n : Nat) : Bool :=
  (pageCuts va n).any (fun e => (s.translate core ctx e.1).2 == .wait)
/-- expf brings the lines of a range into the lease cache, as copies that hold nothing yet to be written back. -/
def State.bringLines (s : State) (rs : List (Nat × Nat)) : State :=
  if s.lcn = 0 then s
  else rs.foldl (fun s r => (List.range ((r.1 + r.2 - 1) / 128 - r.1 / 128 + 1)).foldl (fun s i =>
    if s.isLocal (r.1 + 128 * i) then s else s.lcEnter (r.1 / 128 + i)) s) s
/-- exwb writes the lease-cache lines of a range back to the lender. -/
def State.writeBackLines (s : State) (rs : List (Nat × Nat)) : State :=
  (s.lcache.filter (fun c => rs.any (fun r => meet (c.line * 128) 128 r.1 r.2))).foldl State.lcFlush s
/-- ENGINE_COMMAND_START. -/
def execEngineCommandStart (core idx : Nat) (s : State) : Host.Outcome State Fault Refusal :=
  let k := s.core core
  match k.cmds[idx]? with
  | none => .next s
  | some c =>
    let early := (k.cmds.take idx).any (fun d => clashes d.spans c.spans)
    let mat := k.teams.any (fun t => t.2.matq.any (fun m => m.started && decide (m.entered < c.id) &&
      clashes (m.spans t.2.ctx t.1) c.spans))
    if c.started || early || mat || ((c.kind == .expf || c.kind == .exwb) && s.leasesWait core c.ctx c.src c.len) then .next s
    else
      let s := s.modCmd core c.id (fun c => { c with started := true })
      match c.kind with
      | .expf => .next ((s.bringLines (s.leasedRuns core c.ctx c.src c.len)).endCmd core c 0)
      | .exwb => .next ((s.writeBackLines (s.leasedRuns core c.ctx c.src c.len)).endCmd core c 0)
      | .cpts => .next (s.modTeam (c.team.getD 0) (fun y => y.bufWrite c.sbase (List.replicate c.slen 0)))
      | .gcpts => .next (s.modTeam (c.team.getD 0) (fun y => y.bufWrite c.sbase (List.replicate c.slen 0)))
      | _ => .next s

end Sys2Proof.Machine
end

