-- ==== Sys2Proof/Machine/Slots.lean ====
section
/-! DEFINITION. Threads on tile slots: ldts, stts, tsfree, tsstat (06 R198, R216). -/

namespace Sys2Proof.Machine

/-- The slot that a word names. -/
def Iss.slotNo (x : Iss) : Nat := x.f.b.toNat % 64
/-- Offsets of the lanes: alignment, then the slot's length (06 R198). -/
def slotChecks (x : Iss) (n len : Nat) : List (Nat × Chk) :=
  x.ex.map (fun l =>
    (l, if x.a l % n ≠ 0 then .bad 2 trapAlign 0 else if len < x.a l + n then .bad 3 trapProt 8 else .wait))
/-- Execute on a ready slot. -/
def onSlot (h : Iss → State → Nat → TileSlot → Act) (x : Iss) (s : State) : Act :=
  match (s.weave x.g.core x.g.slot).team with
  | none => .done s x.ex
  | some t =>
    let q := (s.team t).tslot x.slotNo
    if x.ex.isEmpty then .done s x.ex
    else if q.st != .ready then .wait s
    else match pickTrap (slotChecks x (memBytes x.f.ty) q.len) with
      | some (c, d, ls) => .trap s [] c d ls
      | none => h x s t q
/-- One lane of ldts: a poisoned sector leaves d empty and poisoned; the poison record keeps the offset
(log entry 40). -/
def Iss.slotLoad (x : Iss) (y : Team) (b n : Nat) (w : Weave) (l : Nat) : Weave :=
  if y.bufPoison (b + x.a l) n then
    (w.modThread l (fun t => (t.setPoisoned x.f.d (8 * n)).glance (.slot x.slotNo (x.a l) n none))).poisonLane l x.g.spec x.g.pc
      (BitVec.ofNat 64 (x.a l))
  else w.modThread l (fun t =>
    (t.dest x.f.d (8 * n) (y.bufNat (b + x.a l) n)).glance (.slot x.slotNo (x.a l) n (some (y.bufNat (b + x.a l) n))))
/-- 06 R198. -/
def execLdts (o : AForm) (s : State) : Host.Outcome State Fault Refusal :=
  issue (.ldts o) (onSlot (fun x s t q =>
    .done (s.modWeave x.g.core x.g.slot (fun w =>
      x.ex.foldl (x.slotLoad (s.team t) (q.base.getD 0) (memBytes x.f.ty)) w)) x.ex)) s

/-- Bytes of the operand-buffer space that a matrix command has still to read, as [lo, hi). -/
def MatCmd.unread (c : MatCmd) (y : Team) : List (Nat × Nat) :=
  let b := if c.started then c.base else ((y.tslot c.slot).base).getD 0
  match c.instr with
  | .mlds _ => [(b, b + c.bytes)]
  | .mmul _ | .mmulz _ =>
    let rb := 16 * opBits c.f.ty
    [(b + c.done * rb, b + c.rows * rb)] ++ (if c.bs then [(b + c.rows * rb + 4 * c.done, b + c.bytes)] else [])
  | .acld _ => [(b + c.done * 24 * accBits c.f.ty, b + c.bytes)]
  | .acsclRow _ => [(b + 4 * c.done, b + c.bytes)]
  | .acsclCol _ | .acbias _ => if c.done = 0 then [(b, b + 768)] else []
  | _ => []
/-- The same for a copy-engine command. -/
def EngCmd.unread (c : EngCmd) : List (Nat × Nat) :=
  match c.kind with
  | .cpfs => (c.sbase + c.next * unitBytes, c.sbase + c.len) ::
      c.parked.map (fun p => (c.sbase + (c.geom p.unit).1, c.sbase + (c.geom p.unit).1 + (c.geom p.unit).2))
  | _ => []
/-- A command posted before `n` has still to read one of the bytes [lo, hi). -/
def State.slotReaders (s : State) (core t n lo hi : Nat) : Bool :=
  let hit := fun (r : Nat × Nat) => decide (r.1 < hi ∧ lo < r.2)
  (s.team t).matq.any (fun c => decide (c.id < n) && (c.unread (s.team t)).any hit) ||
    (s.core core).cmds.any (fun c => decide (c.id < n) && c.team == some t && c.unread.any hit)
/-- 06 R198: lanes in ascending order, so a byte keeps the highest lane's value. -/
def execStts (o : AForm) (s : State) : Host.Outcome State Fault Refusal :=
  issue (.stts o) (onSlot (fun x s t q =>
    let n := memBytes x.f.ty
    let b := q.base.getD 0
    x.eachMarked s (fun l => s.slotReaders x.g.core t (x.since s l) (b + x.a l) (b + x.a l + n)) (fun _ => none)
      (fun x s => s.modTeam t (fun y => x.ex.foldl (fun y l => y.bufWrite (b + x.a l) (leBytes n (x.c l))) y)))) s

/-- 06 R198. -/
def execTsfree (o : AForm) (s : State) : Host.Outcome State Fault Refusal :=
  issue (.tsfree o) (fun x s =>
    match (s.weave x.g.core x.g.slot).team with
    | none => .done s x.ex
    | some t =>
      let q := (s.team t).tslot x.slotNo
      if x.ex.isEmpty then .done s x.ex
      else if q.moving then .wait s
      else .done (if q.st = .ready then s.modSlot t x.slotNo (fun q => { q with st := .empty }) else s) x.ex) s
/-- d of tsstat. -/
def TileSlot.word (q : TileSlot) : Nat :=
  (match q.st with
    | .empty => 0
    | .filling => 1
    | .ready => 2
    | .draining => 3) + q.len / 256 % 2 ^ 16 * 2 ^ 16
/-- 06 R198. -/
def execTsstat (o : AForm) (s : State) : Host.Outcome State Fault Refusal :=
  issue (.tsstat o) (fun x s =>
    match (s.weave x.g.core x.g.slot).team with
    | none => .done s x.ex
    | some t => .done (x.giveAll s ((s.team t).tslot x.slotNo).word) x.ex) s

end Sys2Proof.Machine
end

