-- ==== Sys2Proof/Machine/RefMath.lean ====
section
/-! DEFINITION. The arithmetic of a refinement run, item by item (11 R365 to R369; log entry 17). -/

namespace Sys2Proof.Machine

/-! ### Rounded operations: FP32 codes, FP64 codes -/

def f32 (x : FRes) : Nat := (x.out 0 rne false).1
def f64 (x : FRes) : Nat := (x.out 1 rne false).1
/-- RoundFP(z − x × y) (11 R366). -/
def fms32 (x y z : Nat) : Nat :=
  f32 (fMaV false [fVal 0 x, fVal 0 y, fVal 0 z] (fVal 0 x).flip (fVal 0 y) (fVal 0 z)).1
def fms64 (x y z : Nat) : Nat :=
  f64 (fMaV false [fVal 1 x, fVal 1 y, fVal 1 z] (fVal 1 x).flip (fVal 1 y) (fVal 1 z)).1
def div32 (x y : Nat) : Nat := f32 (fDivV (fVal 0 x) (fVal 0 y))
def sub32 (x y : Nat) : Nat := f32 (fAddV false (fVal 0 x) (fVal 0 y).flip)
/-- RoundFP(v, f32, rne, 1). -/
def narrow32 (v : FVal) : Nat := (fConvert 0 { mode := 0, sat := true } v).1
def widen64 (c : Nat) : Nat := (fConvert 1 rne (fVal 0 c)).1
def finite (v : FVal) : Bool := !v.isNaN && !v.isInf
/-- The magnitude of a code as a number that orders it. -/
def mag32 (c : Nat) : Nat := c % 2 ^ 31
def mag64 (c : Nat) : Nat := c % 2 ^ 63
def inf64 : Nat := 0x7FF0000000000000
def nan64 : Nat := 0x7FF8000000000000
/-- The larger of two magnitudes; a NaN stays. -/
def max64 (a b : Nat) : Nat :=
  if (fVal 1 a).isNaN || (fVal 1 b).isNaN then nan64 else max (mag64 a) (mag64 b)

/-! ### The fields of a block (11 Table 2) -/

def RefBlock.w (b : RefBlock) (n : Nat) : Nat := b.words.getD n 0
def RefBlock.n (b : RefBlock) : Nat := b.desc.ext.getD 0 0
def RefBlock.esz (b : RefBlock) : Nat := 2 ^ b.desc.esz
/-- The float type of A, B and X. -/
def RefBlock.fty (b : RefBlock) : BitVec 3 := if b.desc.esz = 3 then 1 else 0
def RefBlock.nrhs (b : RefBlock) : Nat := bitsAt (b.w 6) 32 9
def RefBlock.lu (b : RefBlock) : Bool := bitAt (b.w 6) 55
def RefBlock.exact (b : RefBlock) : Bool := bitAt (b.w 6) 54
def RefBlock.xaddr (b : RefBlock) : Nat := b.w 0
def RefBlock.baddr (b : RefBlock) : Nat := b.w 1
def RefBlock.waddr (b : RefBlock) : Nat := b.w 2
def RefBlock.saddr (b : RefBlock) : Nat := b.w 3
def RefBlock.bcs (b : RefBlock) : Nat := bitsAt (b.w 4) 0 32
def RefBlock.xcs (b : RefBlock) : Nat := bitsAt (b.w 4) 32 32
def RefBlock.wlen (b : RefBlock) : Nat := b.w 5
def RefBlock.ladder (b : RefBlock) (r : Nat) : Nat := if r < 4 then bitsAt (b.w 7) (4 * r) 4 else 0
def RefBlock.win (b : RefBlock) : Nat := bitsAt (b.w 7) 16 4
def RefBlock.itmax (b : RefBlock) : Nat := bitsAt (b.w 7) 20 16
/-- Indices c0 to c1 - 1 of a panel. -/
def RefBlock.c0 (_b : RefBlock) (p : Nat) : Nat := 256 * p
def RefBlock.c1 (b : RefBlock) (p : Nat) : Nat := min b.n (256 * p + 256)

def RefBlock.tm (b : RefBlock) (i k : Nat) : Nat := tabGet 0 (i * b.n + k) b.tmat
def RefBlock.fm (b : RefBlock) (i k : Nat) : Nat := tabGet 0 (i * b.n + k) b.fac
def RefBlock.putT (b : RefBlock) (i k v : Nat) : RefBlock := { b with tmat := tabPut 0 (i * b.n + k) v b.tmat }
def RefBlock.putF (b : RefBlock) (i k v : Nat) : RefBlock := { b with fac := tabPut 0 (i * b.n + k) v b.fac }
/-- Indices a to b - 1. -/
def upto (a b : Nat) : List Nat := (List.range (b - a)).map (a + ·)

/-! ### Quantisation (11 R365) -/

/-- The factor format of a rung's code as a float type; FP32 for 5. -/
def rungTy (code : Nat) : BitVec 3 :=
  match code with
  | 1 => 4
  | 2 => 5
  | 3 => 2
  | 4 => 3
  | _ => 0
/-- A block of at most 32 values, each an FP32 code. -/
def quantBlock (code : Nat) (vs : List Nat) : List Nat :=
  let ty := rungTy code
  if code = 1 ∨ code = 2 then
    let sc := blockScale ty (vs.map (fVal 0))
    vs.map (fun v => match fVal ty (blockElem ty rne sc (fVal 0 v)).1 with
      | .fin n m e => (roundFP 0 rne n m (e + sc) false).1
      | _ => 0)
  else if code = 5 then vs
  else vs.map (fun v => (fConvert 0 rne (fVal ty (fConvert ty { mode := 0, sat := true } (fVal 0 v)).1)).1)
/-- A run of values, cut into blocks of 32. -/
def quant (code : Nat) (vs : List Nat) : List Nat :=
  ((List.range ((vs.length + 31) / 32)).map (fun b => quantBlock code ((vs.drop (32 * b)).take 32))).flatten

/-! ### Items of a factorisation (11 R366) -/

/-- Column `j` is done: the next column of its panel, or what follows the panel's columns. -/
def RefBlock.afterCol (b : RefBlock) (j : Nat) : RefBlock :=
  let p := j / 256
  if j + 1 < b.c1 p then { b with pos := if b.lu then .pivot (j + 1) else .chol (j + 1) }
  else if b.lu && decide (b.c1 p < b.n) then { b with pos := .urow p (b.c1 p) }
  else { b with pos := .scan p }
/-- The lowest row from `j` on whose |T(i, j)| is largest. -/
def RefBlock.pivotRow (b : RefBlock) (j : Nat) : Nat :=
  (upto (j + 1) b.n).foldl (fun q i => if mag32 (b.tm q j) < mag32 (b.tm i j) then i else q) j
/-- The ladder's last rung stands at `r`. -/
def RefBlock.lastRung (b : RefBlock) (r : Nat) : Bool := b.ladder (r + 1) == 0
/-- End(c, it) (11 R369). -/
def RefBlock.finish (b : RefBlock) (c : Nat) (it : Option (Nat × Tab Nat)) (rungUsed : Bool) : RefBlock :=
  { b with code := some c, result := it, pos := .ended,
           leave := if rungUsed then b.leave.set b.rung c else b.leave }
/-- The rung is left with a code: the next one, or the end. -/
def RefBlock.leaveRung (b : RefBlock) (c : Nat) : RefBlock :=
  if b.lastRung b.rung then b.finish c b.best true
  else { b with leave := b.leave.set b.rung c, rung := b.rung + 1, esc := b.esc + 1, t := 0, etas := [],
                tmat := [], fac := [], piv := [], pos := .form 0 }
def RefBlock.breakdown (b : RefBlock) : RefBlock := b.leaveRung 5
/-- Exchange the columns [lo, hi) of rows `j` and `q`. -/
def swapRows (n j q lo hi : Nat) (m : Tab Nat) : Tab Nat :=
  (upto lo hi).foldl (fun m k =>
    let u := tabGet 0 (j * n + k) m
    let v := tabGet 0 (q * n + k) m
    tabPut 0 (q * n + k) u (tabPut 0 (j * n + k) v m)) m
def RefBlock.pivotItem (b : RefBlock) (j : Nat) : RefBlock :=
  let q := b.pivotRow j
  if mag32 (b.tm q j) = 0 then b.breakdown
  else if q = j then { b with piv := tabSet j j b.piv, pos := .lrow j (j + 1) }
  else { b with piv := tabSet j q b.piv, pos := .swap j q 0 }
/-- Parts 0 and 1 exchange T, parts 2 and 3 the values of L already stored. -/
def RefBlock.swapItem (b : RefBlock) (j q part : Nat) : RefBlock :=
  let h := b.n / 2
  let c := b.c0 (j / 256)
  let b := match part with
    | 0 => { b with tmat := swapRows b.n j q 0 h b.tmat }
    | 1 => { b with tmat := swapRows b.n j q h b.n b.tmat }
    | 2 => { b with fac := swapRows b.n j q 0 (min h c) b.fac }
    | _ => { b with fac := swapRows b.n j q (min h c) c b.fac }
  { b with pos := if part < 3 then .swap j q (part + 1) else .lrow j (j + 1) }
def RefBlock.lrowItem (b : RefBlock) (j i : Nat) : RefBlock :=
  if b.n ≤ i then b.afterCol j
  else
    let l := div32 (b.tm i j) (b.tm j j)
    let c := (upto (j + 1) (b.c1 (j / 256))).foldl (fun c k => c.putT i k (fms32 l (b.tm j k) (b.tm i k))) (b.putT i j l)
    if i + 1 < b.n then { c with pos := .lrow j (i + 1) } else c.afterCol j
def RefBlock.cholItem (b : RefBlock) (j : Nat) : RefBlock :=
  let d := b.tm j j
  if mag32 d = 0 || bitAt d 31 || (fVal 0 d).isNaN then b.breakdown
  else
    let s := f32 (fSqrtV (fVal 0 d))
    let b := (upto (j + 1) b.n).foldl (fun c i => c.putT i j (div32 (b.tm i j) s)) (b.putT j j s)
    if j + 1 < b.c1 (j / 256) then { b with pos := .ccol j (j + 1) } else b.afterCol j
def RefBlock.ccolItem (b : RefBlock) (j k : Nat) : RefBlock :=
  let b := (upto k b.n).foldl (fun c i => c.putT i k (fms32 (b.tm i j) (b.tm k j) (b.tm i k))) b
  if k + 1 < b.c1 (j / 256) then { b with pos := .ccol j (k + 1) } else b.afterCol j
def RefBlock.urowItem (b : RefBlock) (p k : Nat) : RefBlock :=
  let b := (upto (b.c0 p) (b.c1 p)).foldl (fun b j =>
    (upto (j + 1) (b.c1 p)).foldl (fun b i => b.putT i k (fms32 (b.tm i j) (b.tm j k) (b.tm i k))) b) b
  if k + 1 < b.n then { b with pos := .urow p (k + 1) } else { b with pos := .scan p }
def RefBlock.scanItem (b : RefBlock) (p : Nat) : RefBlock :=
  if b.tmat.any (fun e => !finite (fVal 0 e.2)) then b.breakdown else { b with pos := .store p (b.c0 p) }
/-- The panel's part of row `i`; for Cholesky what stands above the diagonal is no part of the factor. -/
def RefBlock.storeItem (b : RefBlock) (p i : Nat) : RefBlock :=
  let c0 := b.c0 p
  let row := (upto c0 (b.c1 p)).map (fun k => if !b.lu && i < k then 0 else b.tm i k)
  let b := ((quant (b.ladder b.rung) row).zipIdx c0).foldl (fun b e => b.putF i e.2 e.1) b
  if i < b.c1 p && mag32 (b.fm i i) = 0 then b.breakdown
  else if i + 1 < b.n then { b with pos := .store p (i + 1) }
  else if b.n ≤ b.c1 p then { b with pos := .fwd false 0 }
  else { b with pos := if b.lu then .storeRow p (b.c1 p) else .trail p (b.c1 p) }
def RefBlock.storeRowItem (b : RefBlock) (p k : Nat) : RefBlock :=
  let c0 := b.c0 p
  let col := (upto c0 (b.c1 p)).map (fun i => b.tm i k)
  let b := ((quant (b.ladder b.rung) col).zipIdx c0).foldl (fun b e => b.putF e.2 k e.1) b
  { b with pos := if k + 1 < b.n then .storeRow p (k + 1) else .trail p (b.c1 p) }
/-- MDot: groups of 32 of the panel's indices, as GroupSum and AddGroup. -/
def RefBlock.mdot (b : RefBlock) (p i k : Nat) : Nat :=
  (List.range 8).foldl (fun x g =>
    let js := (upto (b.c0 p + 32 * g) (min (b.c1 p) (b.c0 p + 32 * g + 32)))
    (addGroup x (groupSum (js.map (fun j => fVal 0 (b.fm i j)))
      (js.map (fun j => fVal 0 (if b.lu then b.fm j k else b.fm k j))) []).1).1) 0
def RefBlock.trailItem (b : RefBlock) (p i : Nat) : RefBlock :=
  let c1 := b.c1 p
  let b := (upto c1 (if b.lu then b.n else i + 1)).foldl (fun c k => c.putT i k (sub32 (b.tm i k) (b.mdot p i k))) b
  if i + 1 < b.n then { b with pos := .trail p (i + 1) }
  else { b with pos := if b.lu then .pivot c1 else .chol c1 }

/-! ### Solves (11 R367) -/

/-- v with the swaps of the pivots applied, j ascending. -/
def RefBlock.permute (b : RefBlock) (v : List Nat) : List Nat :=
  if b.lu then (List.range b.n).foldl (fun v j =>
    let q := tabGet j j b.piv
    (v.set j (v.getD q 0)).set q (v.getD j 0)) v
  else v
/-- The forward step on a right-hand side. -/
def RefBlock.forward (b : RefBlock) (v : List Nat) : Tab Nat :=
  let v := b.permute v
  (List.range b.n).foldl (fun y i =>
    let z := (List.range i).foldl (fun z k => fms32 (b.fm i k) (tabGet 0 k y) z) (v.getD i 0)
    tabPut 0 i (if b.lu then z else div32 z (b.fm i i)) y) []
/-- The backward step, i descending, k ascending. -/
def RefBlock.backward (b : RefBlock) (y : Tab Nat) : Tab Nat :=
  (List.range b.n).reverse.foldl (fun x i =>
    let z := (upto (i + 1) b.n).foldl (fun z k =>
      fms32 (if b.lu then b.fm i k else b.fm k i) (tabGet 0 k x) z) (tabGet 0 i y)
    tabPut 0 i (div32 z (b.fm i i)) x) []
/-- The backward step of column `c`. -/
def RefBlock.bwdItem (b : RefBlock) (corr : Bool) (c : Nat) : RefBlock :=
  { b with y := b.backward b.y, pos := .add corr c }
/-- The solution of column `c` is the first iterate, or a correction added to it. -/
def RefBlock.addItem (b : RefBlock) (corr : Bool) (c : Nat) : RefBlock :=
  let x := (List.range b.n).foldl (fun x i =>
    let v := widen64 (tabGet 0 i b.y)
    let k := c * b.n + i
    tabPut 0 k (if corr then f64 (fAddV false (fVal 1 (tabGet 0 k x)) (fVal 1 v)) else v) x) b.x
  let b := { b with x := x }
  if c + 1 < b.nrhs then { b with pos := .fwd corr (c + 1) }
  else
    let b := if corr then { b with iter := b.iter + 1, t := b.t + 1, riter := b.riter.set b.rung (b.riter.getD b.rung 0 + 1) }
      else b
    { b with pos := .resid 0, eta := 0, pass := true }

/-! ### Residual and decision (11 R368, R369) -/

/-- One value of a residual: `row` of A and column of x as FP64 codes. -/
def residual (exact : Bool) (bv : Nat) (row x : List Nat) : Nat :=
  if exact then
    let ps := row.zipWith (fun a v => mulCore (fVal 1 a).flip (fVal 1 v)) x
    if x.any (fun v => (fVal 1 v).isNaN) then nan64 else f64 (fSumV false (some (fVal 1 bv) :: ps))
  else (row.zip x).foldl (fun z e => fms64 e.1 e.2 z) bv
/-- RoundFP(ATOL + RTOL × nb). -/
def RefBlock.bound (b : RefBlock) (nb : Nat) : Nat :=
  f64 (fMaV false [] (fVal 1 (b.w 8)) (fVal 1 nb) (fVal 1 (b.w 9))).1
/-- The residual of column `c` has been formed: η, and the column test. -/
def RefBlock.residItem (b : RefBlock) (c : Nat) (bs rs : List Nat) : RefBlock :=
  let e := rs.foldl max64 0
  let nb := bs.foldl max64 0
  let ok := !(fVal 1 e).isNaN && decide (mag64 e ≤ b.bound nb)
  let b := { b with eta := max64 b.eta e, pass := b.pass && ok,
                    r := (rs.zipIdx (c * b.n)).foldl (fun (r : Tab Nat) (q : Nat × Nat) => tabPut 0 q.2 q.1 r) b.r }
  { b with pos := if c + 1 < b.nrhs then .resid (c + 1) else .judge }
/-- η exceeds ratio × η′, exactly. -/
def exceeds (e : Nat) (ratio : FVal) (e' : Nat) : Bool :=
  match mulCore ratio (fVal 1 e') with
  | some v => fLt v (fVal 1 e)
  | none => false
/-- Step 5 (11 R369); rfres ends here. -/
def RefBlock.judgeItem (b : RefBlock) : RefBlock :=
  let e := b.eta
  let fin := finite (fVal 1 e)
  if b.kind = 1 then { b.finish 7 (some (e, b.x)) false with eta0 := some e }
  else
    let b := { b with etas := e :: b.etas, eta0 := some (b.eta0.getD e) }
    let better := fin && (match b.best with
      | none => true
      | some (v, _) => decide (mag64 e < mag64 v))
    let b := if better then { b with best := some (e, b.x) } else b
    if b.pass then b.finish 1 (some (e, b.x)) true
    else if !fin || (decide (1 ≤ b.t) && exceeds e (fVal 0 (bitsAt (b.w 10) 0 32)) (b.etas.getD 1 0)) then b.leaveRung 3
    else if b.win ≤ b.t && exceeds e (fVal 0 (bitsAt (b.w 10) 32 32)) (b.etas.getD b.win 0) then b.leaveRung 2
    else if b.iter = b.itmax then b.finish 4 b.best true
    else { b with pos := .fwd true 0 }

/-- The step number that rfstat reports (11 R374). -/
def RefPos.step (p : RefPos) : Nat :=
  match p with
  | .fwd false _ => 2
  | .bwd false _ => 2
  | .add false _ => 2
  | .loadX _ => 3
  | .resid _ => 3
  | .judge => 5
  | .ended => 5
  | .fwd true _ => 6
  | .bwd true _ => 6
  | .add true _ => 6
  | _ => 1

end Sys2Proof.Machine
end

