-- ==== Sys2Proof/Machine/Refine.lean ====
section
/-! DEFINITION. The refinement instructions and controllers (11 R358 to R378). -/

namespace Sys2Proof.Machine

/-! ### The block's checks (11 R363, R364) -/

/-- Every byte of a range obeys 01 R25: its ends do, and stand on one side of the hole. -/
def rangeIn (va n : Nat) : Bool := rangeOk va n && decide (va / 2 ^ 63 = (va + n - 1) / 2 ^ 63)
/-- Bytes [lo, lo + n) of the memory that a block names. -/
abbrev Piece1 := Nat × Nat
def cols (a stride n cnt : Nat) : List Piece1 := (List.range cnt).map (fun j => (a + j * stride, n))
def RefBlock.colBytes (b : RefBlock) : Nat := b.n * b.esz
def RefBlock.xs (b : RefBlock) : List Piece1 := cols b.xaddr b.xcs b.colBytes b.nrhs
def RefBlock.bs (b : RefBlock) : List Piece1 := cols b.baddr b.bcs b.colBytes b.nrhs
/-- The workspace, of refine alone. -/
def RefBlock.ws (b : RefBlock) : List Piece1 := if b.kind = 0 then [(b.waddr, b.wlen)] else []
def RefBlock.ss (b : RefBlock) : List Piece1 := [(b.saddr, 64)]
def anyMeet (p q : List Piece1) : Bool := p.any (fun a => q.any (fun b => meet a.1 a.2 b.1 b.2))
/-- The range meets the footprint: the sectors that hold bytes of the tile (07 R219). -/
def tileMeets (d : TileDesc) (p : Piece1) : Bool :=
  decide (0 < p.2) && pieceTouch d (tileWhole d) p.1 (p.1 + p.2 - 1)
/-- The footprints are apart (check 10). -/
def RefBlock.apart (b : RefBlock) : Bool :=
  let parts := [b.xs, b.ws, b.ss, [(b.addr, 128)]]
  let free := fun (p : List Piece1) => !anyMeet p b.bs && !p.any (tileMeets b.desc)
  (parts.zipIdx).all (fun e => free e.1 && (parts.drop (e.2 + 1)).all (fun q => !anyMeet e.1 q))
/-- Check 6. -/
def RefBlock.ladderOk (b : RefBlock) : Bool :=
  let cs := (List.range 4).map b.ladder
  cs.headD 0 != 0 && cs.all (fun c => decide (c ≤ 5)) &&
    (List.range 3).all (fun r => cs.getD (r + 1) 0 == 0 || decide (cs.getD r 0 < cs.getD (r + 1) 0 ∧ cs.getD r 0 ≠ 0))
/-- Check 5 on B or X. -/
def RefBlock.vecOk (b : RefBlock) (a stride : Nat) : Bool :=
  a % b.esz == 0 && stride % b.esz == 0 && decide (b.colBytes ≤ stride) && rangeIn a ((b.nrhs - 1) * stride + b.colBytes)
/-- Whether a check passes. -/
def RefBlock.check (b : RefBlock) (y : Team) (busy : Bool) (n : Nat) : Bool :=
  match n with
  | 1 => b.saddr % 64 == 0 && rangeOk b.saddr 64
  | 2 => (b.words.drop 11).all (· == 0) && bitsAt (b.w 7) 36 28 == 0 && bitsAt (b.w 6) 56 8 == 0 && bitsAt (b.w 6) 41 7 == 0
  | 3 => (y.handleBad (bitsAt (b.w 6) 0 32)).isNone
  | 4 => b.desc.ext.length == 2 && (b.desc.esz == 2 || b.desc.esz == 3) && b.desc.ext.getD 1 0 == b.n &&
      decide (1 ≤ b.n ∧ b.n ≤ 65536)
  | 5 => decide (1 ≤ b.nrhs ∧ b.nrhs ≤ 256) && b.vecOk b.baddr b.bcs && b.vecOk b.xaddr b.xcs
  | 6 => b.kind == 1 || b.ladderOk
  | 7 => b.kind == 1 || (b.win != 0 && b.itmax != 0)
  | 8 => decide (b.w 8 < inf64) && decide (b.w 9 < inf64) &&
      decide (0 < bitsAt (b.w 10) 32 32 ∧ bitsAt (b.w 10) 32 32 ≤ 0x3F800000) &&
      decide (0x3F800000 ≤ bitsAt (b.w 10) 0 32 ∧ bitsAt (b.w 10) 0 32 < 0x7F800000)
  | 9 => b.kind == 1 || (b.waddr % 4096 == 0 && decide (8 * b.n * b.n + 64 * b.n * b.nrhs + 4096 ≤ b.wlen) && rangeIn b.waddr b.wlen)
  | 10 => { b with kind := if b.kind = 2 then 0 else b.kind }.apart
  | 11 => !bitAt (b.w 6) 52 || decide (bitsAt (b.w 6) 48 4 < y.kd.cc)
  | _ => !busy
/-- The first check that fails, 0 for none. -/
def RefBlock.firstBad (b : RefBlock) (y : Team) (busy : Bool) : Nat :=
  ((List.range 12).find? (fun n => !b.check y busy (n + 1))).elim 0 (· + 1)
/-- A range of the block, or the footprint of A, touches the remote-scratch window (06 R196). -/
def RefBlock.inWindow (b : RefBlock) (win : Nat) : Bool :=
  win != 0 && (anyMeet (b.xs ++ b.bs ++ b.ss ++ b.ws) [(win, 2 ^ 28)] || tileMeets b.desc (win, 2 ^ 28))

/-! ### Posting (11 R358, R362, R373) -/

/-- Blocks of a team at an address. -/
def State.blocksAt (s : State) (core t a : Nat) : List RefBlock :=
  (s.die (dieOf core)).blocks.filter (fun b => b.team = t && b.addr = a)
/-- Bytes that a block charges. -/
def RefBlock.charge (b : RefBlock) : Nat := if b.kind = 0 then b.n * b.nrhs * b.esz + 64 else 64
/-- Queue a block that has been read and checked. -/
def Iss.queueBlock (x : Iss) (s : State) (t : Nat) (b : RefBlock) : Act :=
  let core := x.g.core
  if 16 ≤ (s.die (dieOf core)).blocks.length then .wait s
  else if !s.drained core x.g.slot then .wait s
  else
    let y := s.team t
    let cc := if bitAt (b.w 6) 52 && (b.kind != 2 || (b.check y false 2 && b.check y false 11)) then some (bitsAt (b.w 6) 48 4) else none
    let b := { b with id := s.nextId, cc := cc }
    let s := { s with nextId := s.nextId + 1 }.charge core (some t) cc b.id b.charge
    .done (s.modDie (dieOf core) (fun d => { d with blocks := d.blocks ++ [b] })) x.ex
/-- Execute of refine (0), rfres (1) and rfchk (2). -/
def refineBody (kind : Nat) : Iss → State → Act := uniform 0x21 (fun x l => [x.a l]) (fun x s team l =>
  match team with
  | none => .done s x.ex
  | some t =>
    let a := x.a l
    if s.atomPending x.g.core x.g.slot x.ex then .wait s
    else match x.checkOnce s { rd := true, align := 128, size := 128 } a with
      | (s', .ok loc leaf) =>
        let s := s'.prepLoad x.g.core x.g.slot { l := l, ea := a, loc := loc, leaf := leaf } 128 true
        let ws := (List.range 16).map (fun i => s.seen x.g.core x.g.slot l (loc.add (8 * i)) 8)
        if s.anyPoison (loc.span 128) then .trap s [] trapPoison 0 x.ex
        else
          let y := s.team t
          let b : RefBlock :=
            { id := 0, kind := kind, core := x.g.core, slot := x.g.slot, lane := l, team := t, ctx := x.agent.ctx, addr := a,
              pc := x.g.pc, words := ws, desc := (y.handle (bitsAt (ws.getD 6 0) 0 4)).desc }
          let bad := b.firstBad y (!(s.blocksAt x.g.core t a).isEmpty)
          let b := { b with bad := bad }
          if kind = 2 && bad != 1 then
            if { b with kind := 0 }.inWindow (if bad = 0 then y.rswin else 0) then prot x s 0x0B else x.queueBlock s t b
          else if bad = 3 then prot x s ((y.handleBad (bitsAt (b.w 6) 0 32)).getD 0)
          else if bad ≠ 0 then prot x s 0x1F
          else if b.inWindow y.rswin then prot x s 0x0B
          else x.queueBlock s t b
      | (s', k) => x.failAll s' false a k)
/-- 11 R362. -/
def execRefine (o : XForm) (s : State) : Host.Outcome State Fault Refusal := issue (.refine o) (refineBody 0) s
/-- 11 R362, R369. -/
def execRfres (o : XForm) (s : State) : Host.Outcome State Fault Refusal := issue (.rfres o) (refineBody 1) s
/-- 11 R362, R369. -/
def execRfchk (o : XForm) (s : State) : Host.Outcome State Fault Refusal := issue (.rfchk o) (refineBody 2) s

/-- Change the block with a number, on any die. -/
def State.modBlock (s : State) (id : Nat) (f : RefBlock → RefBlock) : State :=
  { s with dies := s.dies.map (fun d => (d.1, { d.2 with blocks := d.2.blocks.map (fun b => if b.id = id then f b else b) })) }
/-- A rung is in use. -/
def RefBlock.rungUsed (b : RefBlock) : Bool :=
  b.kind == 0 && b.begun && (match b.pos with
    | .checkA _ => false
    | .checkB _ => false
    | _ => true)
def RefBlock.stop (b : RefBlock) (c : Nat) : RefBlock :=
  { b.finish c none b.rungUsed with fault := false, action := none, asked := none, got := [] }
/-- rfcancel on one block (11 R375). -/
def RefBlock.cancelled (b : RefBlock) : RefBlock :=
  if b.code.isSome then b else if b.started then { b with cancel := true } else b.stop 6
/-- 11 R375. -/
def execRfcancel (o : XForm) (s : State) : Host.Outcome State Fault Refusal :=
  issue (.rfcancel o) (uniform 0x21 (fun x l => [x.a l]) (fun x s team l =>
    match team with
    | none => .done s x.ex
    | some t => .done ((s.blocksAt x.g.core t (x.a l)).foldl (fun s b => s.modBlock b.id RefBlock.cancelled) s) x.ex)) s
/-- 11 R372. -/
def execRfwait (o : AForm) (s : State) : Host.Outcome State Fault Refusal :=
  issue (.rfwait o) (uniform 0x21 (fun x l => [x.a l]) (fun x s team l =>
    match team with
    | none => .done s x.ex
    | some t => if (s.blocksAt x.g.core t (x.a l)).isEmpty then .done s x.ex else .wait s)) s
/-- d of rfstat (11 R374). -/
def RefBlock.statWord (b : RefBlock) : Nat :=
  (if b.started then 2 + b.pos.step * 4 else 1) + b.rung % 4 * 2 ^ 5 + b.iter % 2 ^ 16 * 2 ^ 16
/-- 11 R374. -/
def execRfstat (o : AForm) (s : State) : Host.Outcome State Fault Refusal :=
  issue (.rfstat o) (uniform 0x21 (fun x l => [x.a l]) (fun x s team l =>
    match team with
    | none => .done s x.ex
    | some t => .done (x.giveAll s (((s.blocksAt x.g.core t (x.a l)).getLast?.map RefBlock.statWord).getD 0)) x.ex)) s

/-! ### Running (11 R358, R369, R376, R378) -/

/-- The controller stands at an access that firmware has not answered (11 R376). -/
def Die.refStuck (d : Die) : Bool := d.blocks.any (fun b => b.fault && b.action.isNone)
/-- The block has the controller, or is due it first: one that a restore brought back at its end writes (11 R378). -/
def RefBlock.holds (b : RefBlock) : Bool := b.started || b.fault || (b.begun && b.code.isSome)
/-- REFINE_BLOCK_START: the next block of the queue, while none runs and none stands at a fault. -/
def execRefineBlockStart (die : Nat) (s : State) : Host.Outcome State Fault Refusal :=
  let bs := (s.die die).blocks
  if bs.any RefBlock.holds then .next s
  else match bs.find? (fun b => b.code.isNone) with
    | none => .next s
    | some b => .next (s.modBlock b.id (fun b =>
        if b.kind = 2 then { b.finish (if b.bad = 0 then 8 else 0x10) none false with started := true, begun := true }
        else { b with started := true, begun := true }))

/-- The controller stops at a fault: one record in its own part of the posting core's queue (11 R376). -/
def State.blockFault (s : State) (b : RefBlock) (wr : Bool) (va : Nat) (k : Chk) : State :=
  match k with
  | .fault cause d lv lid _ =>
    let rec_ : FaultRec :=
      { idx := 1026, w0 := BitVec.ofNat 64 va, w1 := b.pc,
        w2 := BitVec.ofNat 64 (0xFFFFFFFF * 2 ^ 32 + (if cause = 2 then 2 else 1) * 2 ^ 24 + d * 2 ^ 16 + (if wr then 4 else 0) + lv % 4),
        w3 := BitVec.ofNat 64 (lid * 2 ^ 48 + b.ctx * 2 ^ 32 + 1026) }
    ((s.hearRefusal cause d lid).modBlock b.id (fun b => { b with fault := true, action := none, asked := none })).modCore b.core (fun q =>
      { q with eflt := q.eflt ++ [rec_], fwEvents := q.fwEvents ||| 2 })
  | _ => s
/-- Addresses of the `esz` bytes of values. -/
def RefBlock.bytesAt (b : RefBlock) (as : List Nat) : List Nat :=
  (as.map (fun a => (List.range b.esz).map (a + ·))).flatten
def RefBlock.aAddr (b : RefBlock) (i k : Nat) : Nat :=
  b.desc.base + k * b.desc.stride.getD 0 0 + i * b.desc.stride.getD 1 0
/-- Addresses of column `c` of B or X. -/
def RefBlock.colAddrs (b : RefBlock) (base stride c : Nat) : List Nat :=
  (List.range b.n).map (fun i => base + c * stride + i * b.esz)
/-- The values of bytes, as FP64 codes. -/
def RefBlock.values (b : RefBlock) (bs : List Byte) : List FVal :=
  (List.range (bs.length / b.esz)).map (fun i => fVal b.fty (leNat ((bs.drop (i * b.esz)).take b.esz)))
def code64 (v : FVal) : Nat := (fConvert 1 rne v).1
/-- An access of the controller that waits for a lender (06 R211). -/
def State.askBlock (s : State) (b : RefBlock) : State :=
  if b.asked.isSome then s else s.modBlock b.id (fun b => { b with asked := some s.time })
/-- What an access meets that does not go through (11 R376). -/
def State.blockMeets (s : State) (b : RefBlock) (wr : Bool) (va : Nat) (k : Chk) : State :=
  match s.awaited b.asked k with
  | .fault c d lv lid sc => s.blockFault b wr va (.fault c d lv lid sc)
  | .bad _ _ _ => s.modBlock b.id (fun b => b.stop 0x11)
  | .lender _ _ => s.askBlock b
  | _ => s
/-- Read the bytes of access `k` of an item and go on with them, or stop at what the access meets; what has been read stays
read, so that a replay is of the access that failed alone (11 R376). -/
def State.withBytes (s : State) (b : RefBlock) (k : Nat) (as : List Nat) (h : State → RefBlock → List Byte → State) : State :=
  match b.got[k]? with
  | some bs => h s b bs
  | none =>
    match s.engineRead (s.teamAgent b.core b.ctx (some b.team)) as with
    | (s, .data bs) =>
      if bs.any (·.2) then s.modBlock b.id (fun b => b.stop 0x12)
      else
        let got := b.got ++ [bs.map (·.1)]
        h (s.modBlock b.id (fun b => { b with asked := none, got := got })) { b with asked := none, got := got } (bs.map (·.1))
    | (s, .fail va k) => s.blockMeets b false va k
    | (s, .wait) => s

/-! What of W an item reads and writes, as offsets and lengths: T, the factor, then the vectors (log entry 17). -/

def RefBlock.tRow (b : RefBlock) (i lo hi : Nat) : Piece1 := (4 * (i * b.n + lo), 4 * (hi - lo))
def RefBlock.fRow (b : RefBlock) (i lo hi : Nat) : Piece1 := (4 * b.n * b.n + 4 * (i * b.n + lo), 4 * (hi - lo))
def RefBlock.tCol (b : RefBlock) (k lo hi : Nat) : List Piece1 := (upto lo hi).map (fun i => b.tRow i k (k + 1))
def RefBlock.fCol (b : RefBlock) (k lo hi : Nat) : List Piece1 := (upto lo hi).map (fun i => b.fRow i k (k + 1))
/-- Column `c` of vector `v`: 0 the iterate, 1 the residual, 2 the solution, 3 the pivots. -/
def RefBlock.vec (b : RefBlock) (v c : Nat) : Piece1 := (8 * b.n * b.n + 8 * (v * b.n * b.nrhs + c * b.n), 8 * b.n)
/-- The factor, as far as it is stored. -/
def RefBlock.facAll (b : RefBlock) : List Piece1 :=
  (List.range b.n).map (fun i => b.fRow i 0 (if b.lu then b.n else i + 1))
/-- What an item writes of W. -/
def RefBlock.wPuts (b : RefBlock) : List Piece1 :=
  if b.kind ≠ 0 then []
  else match b.pos with
  | .checkA _ => []
  | .checkB _ => []
  | .loadX _ => []
  | .form i => [b.tRow i 0 (if b.lu then b.n else i + 1)]
  | .mirror i => b.tCol i 0 i
  | .pivot j => [((b.vec 3 0).1 + 8 * j, 8)]
  | .swap j q p =>
    let h := b.n / 2
    let c := b.c0 (j / 256)
    match p with
    | 0 => [b.tRow j 0 h, b.tRow q 0 h]
    | 1 => [b.tRow j h b.n, b.tRow q h b.n]
    | 2 => [b.fRow j 0 (min h c), b.fRow q 0 (min h c)]
    | _ => [b.fRow j (min h c) c, b.fRow q (min h c) c]
  | .lrow j i => if i < b.n then [b.tRow i j (b.c1 (j / 256))] else []
  | .chol j => b.tCol j j b.n
  | .ccol _ k => b.tCol k k b.n
  | .urow p k => b.tCol k (b.c0 p) (b.c1 p)
  | .scan _ => []
  | .store p i => [b.fRow i (b.c0 p) (b.c1 p)]
  | .storeRow p k => b.fCol k (b.c0 p) (b.c1 p)
  | .trail p i => [b.tRow i (b.c1 p) (if b.lu then b.n else i + 1)]
  | .fwd _ _ => [b.vec 2 0]
  | .bwd _ _ => [b.vec 2 0]
  | .add _ c => [b.vec 0 c]
  | .resid c => [b.vec 1 c]
  | .judge => []
  | .ended => []
/-- What an item reads of W. -/
def RefBlock.wGets (b : RefBlock) : List Piece1 :=
  if b.kind ≠ 0 then []
  else match b.pos with
  | .checkA _ => []
  | .checkB _ => []
  | .loadX _ => []
  | .form _ => []
  | .mirror i => [b.tRow i 0 i]
  | .pivot j => b.tCol j j b.n
  | .swap _ _ _ => b.wPuts
  | .lrow j i => if i < b.n then [b.tRow i j (b.c1 (j / 256)), b.tRow j j (b.c1 (j / 256))] else []
  | .chol j => b.tCol j j b.n
  | .ccol j k => b.tCol j k b.n ++ b.tCol k k b.n
  | .urow p k => (upto (b.c0 p) (b.c1 p)).map (fun i => b.tRow i (b.c0 p) (b.c1 p)) ++ b.tCol k (b.c0 p) (b.c1 p)
  | .scan _ => [(0, 4 * b.n * b.n)]
  | .store p i => [b.tRow i (b.c0 p) (b.c1 p)]
  | .storeRow p k => b.tCol k (b.c0 p) (b.c1 p)
  | .trail p i => b.wPuts ++ [b.fRow i (b.c0 p) (b.c1 p)] ++
      (if b.lu then (upto (b.c0 p) (b.c1 p)).map (fun j => b.fRow j (b.c1 p) b.n)
       else (upto (b.c1 p) (i + 1)).map (fun k => b.fRow k (b.c0 p) (b.c1 p)))
  | .fwd corr c => b.facAll ++ (if b.lu then [b.vec 3 0] else []) ++ (if corr then [b.vec 1 c] else [])
  | .bwd _ _ => b.facAll ++ [b.vec 2 0]
  | .add corr c => [b.vec 2 0] ++ (if corr then [b.vec 0 c] else [])
  | .resid c => [b.vec 0 c]
  | .judge => []
  | .ended => []
/-- Addresses of parts of W. -/
def RefBlock.wBytes (b : RefBlock) (ps : List Piece1) : List Nat :=
  (ps.map (fun p => (List.range p.2).map (b.waddr + p.1 + ·))).flatten
/-- The end of an item: it writes its part of W, as values of no stated layout (log entry 17), and `f` is done to the block
(11 R376, R378). -/
def State.putItem (s : State) (b : RefBlock) (f : RefBlock → RefBlock) : State :=
  match s.engineCheck (s.teamAgent b.core b.ctx (some b.team)) (engineAcc true) (b.wBytes b.wPuts) with
  | (s, _, some (va, k)) => s.blockMeets b true va k
  | (s, ps, none) =>
    if ps.any Option.isNone then s.modBlock b.id (fun b => b.stop 0x12)
    else if s.placesHeld (some b.team) ps then s.waitLines (ps.filterMap id)
    else
      let bs := (List.range ps.length).map (fun k => (BitVec.ofNat 8 (Config.freeBits (s.free + k)).toNat, false))
      let s := { s with free := s.free + ps.length }.engineWrite (some b.team) ps bs
      s.modBlock b.id (fun b => { f b with asked := none, got := [] })
/-- Read values of A, B or X, after what the item reads of W, and end the item with them. -/
def State.withValues (s : State) (b : RefBlock) (as : List Nat) (f : List FVal → RefBlock → RefBlock) : State :=
  s.withBytes b 1 (b.bytesAt as) (fun s b bs => s.putItem b (f (b.values bs)))
/-- A value of A that the run reads: for Cholesky the lower triangle stands for both (11 R366, R368). -/
def RefBlock.aOf (b : RefBlock) (i k : Nat) : Nat := if b.lu || decide (k ≤ i) then b.aAddr i k else b.aAddr k i
/-- Columns of row `i` that stand in the part of A that is read. -/
def RefBlock.rowLen (b : RefBlock) (i : Nat) : Nat := if b.lu then b.n else i + 1
def RefBlock.rowAddrs (b : RefBlock) (i : Nat) : List Nat := (List.range (b.rowLen i)).map (fun k => b.aAddr i k)
/-- The checks are done. -/
def RefBlock.afterB (b : RefBlock) : RefBlock :=
  if b.wild then b.finish 0x13 none false else { b with pos := if b.kind = 1 then .loadX 0 else .form 0 }
/-- One item of a run (11 R378; log entry 17): it reads its part of W, then what it takes from A, B or X, and ends. -/
def State.refineItem (s : State) (b : RefBlock) : State := s.withBytes b 0 (b.wBytes b.wGets) (fun s b _ =>
  match b.pos with
  | .checkA i => s.withValues b (b.rowAddrs i) (fun vs b => { b with
      wild := b.wild || vs.any (fun v => !finite v), pos := if i + 1 < b.n then .checkA (i + 1) else .checkB 0 })
  | .checkB c => s.withValues b (b.colAddrs b.baddr b.bcs c) (fun vs b =>
      let b := { b with wild := b.wild || vs.any (fun v => !finite v), nb := (vs.map code64).foldl max64 b.nb }
      if c + 1 < b.nrhs then { b with pos := .checkB (c + 1) } else b.afterB)
  | .loadX c => s.withValues b (b.colAddrs b.xaddr b.xcs c) (fun vs b =>
      { b with x := ((vs.map code64).zipIdx (c * b.n)).foldl (fun (x : Tab Nat) (e : Nat × Nat) => tabPut 0 e.2 e.1 x) b.x,
               pos := if c + 1 < b.nrhs then .loadX (c + 1) else .resid 0, eta := 0, pass := true })
  | .form i => s.withValues b (b.rowAddrs i) (fun vs b =>
      let b := ((vs.map narrow32).zipIdx).foldl (fun (b : RefBlock) (e : Nat × Nat) =>
        b.putT i e.2 e.1) b
      { b with pos := if b.lu then (if i + 1 < b.n then .form (i + 1) else .pivot 0) else .mirror i })
  | .mirror i => s.putItem b (fun b =>
      { (List.range i).foldl (fun (b : RefBlock) k => b.putT k i (b.tm i k)) b with
        pos := if i + 1 < b.n then .form (i + 1) else .chol 0 })
  | .fwd false c => s.withValues b (b.colAddrs b.baddr b.bcs c) (fun vs b =>
      { b with y := b.forward (vs.map narrow32), pos := .bwd false c })
  | .fwd true c => s.putItem b (fun b =>
      { b with y := b.forward ((List.range b.n).map (fun i => narrow32 (fVal 1 (tabGet 0 (c * b.n + i) b.r)))), pos := .bwd true c })
  | .bwd corr c => s.putItem b (fun b => b.bwdItem corr c)
  | .add corr c => s.putItem b (fun b => b.addItem corr c)
  | .resid c => s.withValues b (b.colAddrs b.baddr b.bcs c ++
        ((List.range b.n).map (fun i => (List.range b.n).map (fun k => b.aOf i k))).flatten) (fun vs b =>
      let cs := vs.map code64
      let bv := cs.take b.n
      let xs := (List.range b.n).map (fun i => tabGet 0 (c * b.n + i) b.x)
      b.residItem c bv ((List.range b.n).map (fun i => residual b.exact (bv.getD i 0) ((cs.drop (b.n + i * b.n)).take b.n) xs)))
  | .judge => s.putItem b RefBlock.judgeItem
  | .pivot j => s.putItem b (fun b => b.pivotItem j)
  | .swap j q p => s.putItem b (fun b => b.swapItem j q p)
  | .lrow j i => s.putItem b (fun b => b.lrowItem j i)
  | .chol j => s.putItem b (fun b => b.cholItem j)
  | .ccol j k => s.putItem b (fun b => b.ccolItem j k)
  | .urow p k => s.putItem b (fun b => b.urowItem p k)
  | .scan p => s.putItem b (fun b => b.scanItem p)
  | .store p i => s.putItem b (fun b => b.storeItem p i)
  | .storeRow p k => s.putItem b (fun b => b.storeRowItem p k)
  | .trail p i => s.putItem b (fun b => b.trailItem p i)
  | .ended => s)
/-- What firmware's answer to a record makes of a block; none while it has not answered. -/
def RefBlock.answered (b : RefBlock) : Option (Option Nat) :=
  if !b.fault then some none
  else match b.action with
    | none => none
    | some 0 => some none
    | some 1 => some (some 0x11)
    | some _ => some (some 0x12)
/-- REFINE_ITEM_END. -/
def execRefineItemEnd (die : Nat) (s : State) : Host.Outcome State Fault Refusal :=
  match (s.die die).blocks.find? (fun b => b.started && b.code.isNone) with
  | none => .next s
  | some b =>
    if (s.die die).refStuck then .next s
    else match b.answered with
    | none => .next s
    | some (some c) => .next (s.modBlock b.id (fun b => b.stop c))
    | some none =>
      if b.cancel then .next (s.modBlock b.id (fun b => b.stop 6))
      else .next ((s.modBlock b.id (fun b => { b with fault := false, action := none })).refineItem { b with fault := false, action := none })

/-! ### The end of a block (11 R370, R371) -/

/-- 11 Table 4. -/
def RefBlock.record (b : RefBlock) : List Nat :=
  let code := b.code.getD 0
  let eta := match b.result with
    | some r => r.1
    | none => (b.best.map (·.1)).getD inf64
  let w0 := code + b.rung * 2 ^ 8 + b.iter % 2 ^ 16 * 2 ^ 16 + b.esc * 2 ^ 32 + bit b.deliv * 2 ^ 40 + bit b.havex * 2 ^ 41 +
    bit (code == 7 && b.pass) * 2 ^ 42 + (if code = 0x10 then b.bad * 2 ^ 56 else 0)
  let fold := fun (w : Nat) (l : List Nat) => l.foldr (fun v a => v % 2 ^ w + 2 ^ w * a) 0
  [w0, eta, b.eta0.getD inf64, b.nb, fold 16 b.riter, fold 8 b.leave, 0, 0]
/-- The bytes of X as the end writes them. -/
def RefBlock.xBytes (b : RefBlock) (it : Tab Nat) : List Byte :=
  ((List.range (b.nrhs * b.n)).map (fun k => leBytes b.esz (fConvert b.fty rne (fVal 1 (tabGet 0 k it))).1)).flatten
def RefBlock.xAddrs (b : RefBlock) : List Nat :=
  b.bytesAt ((List.range b.nrhs).map (b.colAddrs b.xaddr b.xcs)).flatten
/-- The iterate to write, where the code writes one. -/
def RefBlock.writesX (b : RefBlock) : Option (Tab Nat) :=
  match b.code with
  | some c => if 1 ≤ c ∧ c ≤ 5 then b.result.map (·.2) else none
  | none => none
/-- How an end write went: some code of the failure, none once it is done; `.error` stops at a fault or
waits. A write that is `whole`, the record, merges into poisoned sectors; the others stop at them. -/
def State.endWrite (s : State) (b : RefBlock) (whole : Bool) (as : List Nat) (bs : List Byte) : Except State (State × Option Nat) :=
  match s.engineCheck (s.teamAgent b.core b.ctx (some b.team)) (engineAcc true) as with
  | (s, ps, fail) =>
    let fail := fail.map (fun e => (e.1, s.awaited b.asked e.2))
    let stop := match ps.zipIdx.find? (fun e => e.1.elim true (fun l => !whole && s.isPoison l)), fail with
      | some e, _ => some (e.2, 0x12)
      | none, some (_, .bad _ _ _) => some (ps.length, 0x11)
      | none, _ => none
    if s.placesHeld (some b.team) ps then .error (s.waitLines (ps.filterMap id))
    else
      let n := match stop with
        | some e => if whole then 0 else e.1
        | none => if whole && fail.isSome then 0 else ps.length
      let s := s.engineWrite (some b.team) (ps.take n) ((bs.take n).map (fun v => (v, false)))
      match stop, fail with
      | some e, _ => .ok (s, some e.2)
      | none, none => .ok (s, none)
      | none, some (va, k) => .error (s.blockMeets b true va k)
/-- The block leaves the queue: its charge is discharged, and its trap waits to be delivered. -/
def State.endBlock (s : State) (b : RefBlock) : State :=
  let s := s.modDie (dieOf b.core) (fun d => { d with
    blocks := d.blocks.filter (fun c => c.id != b.id),
    traps := if b.deliv then d.traps ++ [{ core := b.core, slot := b.slot, team := b.team, lane := b.lane, addr := BitVec.ofNat 64 b.addr }]
      else d.traps })
  s.dischargeRest b.core (some b.team) b.cc b.id
/-- The posting weave still has a lane that has not exited. -/
def State.posterLives (s : State) (core slot team : Nat) : Bool :=
  (s.weave core slot).team == some team && !(s.weave core slot).live.isEmpty
/-- One stage of the end: `bad` is the code of a write that firmware has failed. -/
def State.endStage (s : State) (b : RefBlock) (bad : Option Nat) : State :=
  let next := fun (s : State) (f : RefBlock → RefBlock) =>
    s.modBlock b.id (fun b => { f b with stage := b.stage + 1, fault := false, action := none, asked := none })
  match b.stage with
  | 0 =>
    match b.writesX, bad with
    | none, _ => next s id
    | some _, some c => next s (fun b => { b with code := some c })
    | some it, none =>
      match s.endWrite b false b.xAddrs (b.xBytes it) with
      | .error s => s
      | .ok (s, some c) => next s (fun b => { b with code := some c })
      | .ok (s, none) => next s (fun b => { b with havex := true })
  | 1 =>
    if b.kind ≠ 0 ∨ !b.begun ∨ bad.isSome then next s id
    else
      match s.endWrite b false ((List.range b.wlen).map (b.waddr + ·)) (List.replicate b.wlen 0) with
      | .error s => s
      | .ok (s, _) => next s id
  | _ =>
    let code := b.code.getD 0
    let b := { b with deliv := bitAt (b.w 6) 53 && (code == 2 || code == 3 || code == 5) && s.posterLives b.core b.slot b.team }
    if bad.isSome then s.endBlock b
    else
      match s.endWrite b true ((List.range 64).map (b.saddr + ·)) ((b.record.map (leBytes 8)).flatten) with
      | .error s => s
      | .ok (s, _) => s.endBlock b
/-- The end writes of a block may go on: not those of a block that a restore brought back, while another one runs. -/
def Die.mayEnd (d : Die) (b : RefBlock) : Bool :=
  b.code.isSome && b.answered.isSome && (b.started || !b.begun || !d.blocks.any (·.started))
/-- REFINE_BLOCK_END: the end writes in order, each a stage of its own. -/
def execRefineBlockEnd (die : Nat) (s : State) : Host.Outcome State Fault Refusal :=
  match (s.die die).blocks.find? (s.die die).mayEnd with
  | none => .next s
  | some b =>
    match (if (s.die die).refStuck then none else b.answered) with
    | none => .next s
    | some bad => .next ((s.modBlock b.id (fun b => { b with fault := false, action := none })).endStage
        { b with fault := false, action := none } bad)

/-- The raised traps of every die. -/
def State.refTraps (s : State) : List (Nat × RefTrap) :=
  (s.dies.map (fun d => d.2.traps.map (fun t => (d.1, t)))).flatten
/-- REFINE_TRAP_DELIVERY: not while the weave is in its handler; discarded once every lane has exited
(11 R371, 12 R383). -/
def execRefineTrapDelivery (idx : Nat) (s : State) : Host.Outcome State Fault Refusal :=
  match s.refTraps[idx]? with
  | none => .next s
  | some (d, t) =>
    let w := s.weave t.core t.slot
    let s' := s.modDie d (fun x => { x with traps := x.traps.erase t })
    if !s.posterLives t.core t.slot t.team then .next s'
    else if w.trH || s.rollWaits t.core t.slot then .next s
    else
      let s' := s'.rollWeave t.core t.slot
      let live := (s'.weave t.core t.slot).live
      let l := if live.contains t.lane then t.lane else live.headD 0
      let s' := s'.modWeave t.core t.slot (fun w => { w with rfTrap := t.addr })
      .next (s'.trapEntry t.core t.slot live [t.lane] trapArith 0x20 (s'.thread t.core t.slot l).ctl.pc)

end Sys2Proof.Machine
end

