-- ==== Sys2Proof/Machine/Place.lean ====
section
/-! DEFINITION. Placing, saving, restoring, flushing and completing teams (12 R393, R394, R400, R410, R414;
03 R109; 09 R329; 10 R354; 11 R378). -/

namespace Sys2Proof.Machine

/-! ### What a team takes (01 R28, R31; 09 R301; 12 R394, R408) -/

/-- Registers of a thread as the register file counts them. -/
def Kdesc.alloc (k : Kdesc) : Nat := if k.regs = 511 then 512 else k.regs
/-- Weave slots, registers, banks, tile slots, read-set sectors and matrix ownership. -/
def Kdesc.take (k : Kdesc) : List Nat :=
  [k.weaves, k.weaves * k.alloc * 32, k.bc + k.bs + k.bo + k.bg, k.slots, k.spec, if k.cv = 0 then 0 else 1]
def coreLimits : List Nat := [47, 524288, 32, 64, 4096, 1]
/-- Descriptors that stand together on one core. -/
def fitTogether (ks : List Kdesc) : Bool :=
  (List.range 6).all (fun i => decide ((ks.map (fun k => k.take.getD i 0)).sum ≤ coreLimits.getD i 0))
def offReg : Nat := 262144
def Kdesc.offBit (k : Kdesc) : Nat := offReg + 128 * k.alloc * k.weaves
def Kdesc.offBank (k : Kdesc) : Nat := k.offBit + 8 * k.alloc * k.weaves
def Kdesc.offAcc (k : Kdesc) : Nat := k.offBank + Config.bankBytes * (k.bs + k.bo)
/-- SAVELEN (12 R394). -/
def Kdesc.saveLen (k : Kdesc) : Nat :=
  (k.offAcc + (if k.cv = 0 then 0 else 2296832) + 4095) / 4096 * 4096

/-! ### Reads of the queue processor and of firmware through a context (12 R399, R400) -/

/-- Why a read has brought no value: it cannot be read, or not yet; the address where it is on its way to a
lender. -/
inductive Stay
  | never
  | later
  | lender (va : Nat)
  deriving DecidableEq, Repr

/-- A read of `n` aligned bytes as a firmware load through a context (12 R399, R400); `asked` is the one on its way to
a lender, which has 50 µs to answer (06 R211). -/
def State.fwLoad (s : State) (ctx va n : Nat) (asked : Option (Nat × Nat)) : State × Except Stay Nat :=
  if !canonical va || va % n != 0 then (s, .error .never)
  else match s.walk ctx va with
    | .ok x =>
      if s.markWaits ioDie x false then (s.waitLines [s.place x.pte], .error .later) else
      let r := s.markLeaf x false
      match r.1.checkPage { core := 0, ctx := ctx, fw := true, team := none, gtkt := 0 } { rd := true, size := n } r.2 with
      | .ok l _ =>
        if r.1.snooped l then (r.1.snoop l, .error .later)
        else if r.1.refreshing x.pa then (r.1, .error .later)
        else
          let s := r.1.touchAll (l.span n)
          if s.anyPoison (l.span n) then (s, .error .never) else (s, .ok (leNat (s.getBytes l n)))
      | .lender _ _ => (r.1, .error (if asked.any (fun q => q.1 == va && decide (q.2 + 50000 ≤ s.time)) then .never else .lender va))
      | .wait => (r.1, .error .later)
      | _ => (r.1, .error .never)
    | .wait => (s, .error .later)
    | .fault _ _ => (s, .error .never)
/-- The read that waits for a lender, with the time at which it was made. -/
def Stay.ask (k : Stay) (asked : Option (Nat × Nat)) (now : Nat) : Option (Nat × Nat) :=
  match k with
  | .lender va => some (match asked with
    | some q => if q.1 = va then q else (va, now)
    | none => (va, now))
  | _ => none

/-! ### Gangs -/

/-- The gang and the index in it of the team with a ticket. -/
def State.ticketTeam (s : State) (a : Nat) : Option (Gang × Nat × GangTeam) :=
  s.gangs.findSome? (fun g => (g.teams.zipIdx.find? (fun e => e.1.ticket = a && !e.1.reported)).map (fun e => (g, e.2, e.1)))
/-- The weaves of a team that still take slots and registers: those not freed, of a team placed or saved (03 R109). -/
def State.weavesOf (s : State) (t : Nat) (k : Kdesc) : Nat :=
  match s.findTeam t with
  | some (_, x) => x.slots.length
  | none => match s.saved.find? (fun v => v.team.id = t) with
    | some v => v.weaves.length
    | none => k.weaves
/-- The descriptor of a team as it takes resources now. -/
def State.unfreed (s : State) (t : Nat) (k : Kdesc) : Kdesc := { k with weaves := s.weavesOf t k }
/-- Change the entry of a team in its gang. -/
def State.modGangTeam (s : State) (t : Nat) (f : GangTeam → GangTeam) : State :=
  { s with gangs := s.gangs.map (fun g => { g with teams := g.teams.map (fun e => if e.team = t then f e else e) }) }
def State.gangTeam (s : State) (t : Nat) : Option GangTeam :=
  s.gangs.findSome? (fun g => g.teams.find? (fun e => e.team = t))

/-! ### Slices (12 R413) -/

/-- Bring the charge of a slice up to date. -/
def Preempt.settle (p : Preempt) (now : Nat) : Preempt :=
  match p.charged with
  | none => p
  | some f => { p with left := p.left - (now - f), charged := some now }
/-- sl.left (12 Table 6). -/
def Preempt.sliceLeft (p : Preempt) (now : Nat) : Nat :=
  if p.slice = 0 || p.expired then 0 else (p.settle now).left
/-- The class a launch is placed at: its queue's, or the one its context has inherited (08 R278). -/
def State.launchClass (s : State) (l : Launch) : Nat := s.ctxClass l.ctx (s.queueClass l.queue)
/-- The head is blocked and is of this class or a higher one. -/
def State.blockedFor (s : State) (cls : Nat) : Bool :=
  s.sched.blockedSince.isSome && (match s.sched.head.bind (fun h => s.findLaunch h.1) with
    | some l => decide (s.launchClass l ≤ cls)
    | none => false)
/-- Settle every slice, and charge those that are to be charged from now on. -/
def State.recharge (s : State) : State :=
  { s with cores := s.cores.map (fun k => (k.1, { k.2 with teams := k.2.teams.map (fun t =>
      if t.2.pre.slice = 0 then t
      else
        let p := t.2.pre.settle s.time
        let on := t.2.started && !p.expired && s.blockedFor (s.teamClass t.1)
        (t.1, { t.2 with pre := { p with charged := if on then some s.time else none } })) })) }
/-- The slice that a team of a context starts with. -/
def State.freshSlice (s : State) (ctx queue : Nat) : Preempt :=
  let n := bitsAt ((s.queue queue).words.getD 1 0).toNat 8 32 * 1000
  { slice := n, left := ((s.context ctx).slNext.getD n) }
def State.takeSlice (s : State) (ctx : Nat) : State :=
  s.modContext ctx (fun x => { x with slNext := none })

/-! ### Binding (06 R192, R197; 12 R393) -/

/-- Bank numbers still in the cache role. -/
def Core.freeBanks (k : Core) : List Nat := (List.range 32).filter (fun b => k.bankrole.toNat / 2 ^ (2 * b) % 4 == 0)
def Core.freeSlots (k : Core) : List Nat := (List.range Config.userSlots).filter (fun w => (tabFind w k.weaves).isNone)
def Core.freePhys (k : Core) : List Nat :=
  (List.range 64).filter (fun n => !k.teams.any (fun t => t.2.phys.contains n))
/-- The numbers a team gets on a core: banks, physical tile slots and `n` weave slots. -/
def Core.bind (k : Core) (x : Team) (n : Nat) : Team :=
  let bs := k.freeBanks
  { x with
    spadBanks := bs.take x.kd.bs, bufBanks := (bs.drop x.kd.bs).take x.kd.bo,
    garBanks := (bs.drop (x.kd.bs + x.kd.bo)).take x.kd.bg,
    phys := k.freePhys.take x.kd.slots, slots := k.freeSlots.take n }
/-- A bound team and its weaves stand on the core; a matrix owner finds the accumulators and planes as
`arr`, `acc` and `tags` give them (09 R302). -/
def Core.install (k : Core) (x : Team) (ws : List Weave) (arr : MatArray × MatArray) (acc : Tab Word) (tags : Tab Bool) : Core :=
  let k := { k with
    teams := tabSet x.id x k.teams
    weaves := (x.slots.zip ws).foldl (fun m e => tabSet e.1 e.2 m) k.weaves
    bankrole := setRoles (setRoles (setRoles k.bankrole x.spadBanks 1) x.bufBanks 2) x.garBanks 3 }
  if x.kd.cv = 0 then k else { k with array0 := arr.1, array1 := arr.2, acc := acc, accInt := tags }

/-! ### tmplace (12 R393, R400, R410) -/

/-- Fill the registers of thread `i` of a team from the preload table. -/
def State.preloadThread (s : State) (ctx base i : Nat) (asked : Option (Nat × Nat)) :
    List Preload → Tab RegCell → State × Except Stay (Tab RegCell)
  | [], m => (s, .ok m)
  | p :: t, m =>
    let n := if p.wide then 8 else 4
    let r := if p.perThread then s.fwLoad ctx ((p.val.toNat + (base + i) * n) % 2 ^ 64) n asked else (s, .ok p.val.toNat)
    match r with
    | (s, .error k) => (s, .error k)
    | (s, .ok v) =>
      let put := fun (k v : Nat) (m : Tab RegCell) => if k = 511 then m else tabPut {} k { val := BitVec.ofNat 32 v } m
      let m := put p.reg v m
      s.preloadThread ctx base i asked t (if p.wide then put (p.reg + 1) (v / 2 ^ 32) m else m)
/-- The register files of threads 0 to n − 1. -/
def State.preloadAll (s : State) (ctx base : Nat) (asked : Option (Nat × Nat)) (ps : List Preload) :
    Nat → State × Except Stay (List (Tab RegCell))
  | 0 => (s, .ok [])
  | n + 1 =>
    match s.preloadAll ctx base asked ps n with
    | (s, .error k) => (s, .error k)
    | (s, .ok ms) =>
      match s.preloadThread ctx base n asked ps [] with
      | (s, .error k) => (s, .error k)
      | (s, .ok m) => (s, .ok (ms ++ [m]))
/-- A thread at placement (02 R54, 03 R87, 05 R149 to R151). -/
def Thread.fresh (k : Kdesc) (regs : Tab RegCell) : Thread :=
  { mode := .ready, ctl := { pc := BitVec.ofNat 64 k.image }, fpCtl := k.fpctl, regs := regs }
def Weave.fresh (k : Kdesc) (t w : Nat) (ms : List (Tab RegCell)) : Weave :=
  { team := some t, index := w,
    threads := (List.range 32).map (fun l => (l, Thread.fresh k (ms.getD (32 * w + l) []))) }
/-- A launch loses its teams and ends with STATUS 0x05 (12 R400). -/
def State.loseLaunch (s : State) (id : Nat) : State := (s.flushLaunch id).endLaunch id 5 0 0
/-- Place team `i` of a gang on the core its entry names; false where a read of its preload has to wait. DESIGN CHOICE (log
entry 72): its scratchpad and operand-buffer banks start without poison marks. -/
def State.placeGangTeam (s : State) (g : Gang) (i : Nat) (e : GangTeam) : State × Bool :=
  match s.findLaunch g.launch with
  | none => (s, true)
  | some l =>
    match s.preloadAll l.ctx ((g.index * l.kd.teams + i) * 1024) e.asked l.preload (32 * l.kd.weaves) with
    | (s, .error .never) => (s.loseLaunch l.id, true)
    | (s, .error k) => (s.modGangTeam e.team (fun e => { e with asked := k.ask e.asked s.time }), false)
    | (s, .ok ms) =>
      let x : Team := { id := e.team, kd := l.kd, ctx := l.ctx, launch := l.id, gang := g.id, index := i, gtkt := g.gtkt,
                        ticket := e.ticket, handler := l.words.getD 6 0, rswin := (l.words.getD 7 0).toNat,
                        started := g.started, pre := s.freshSlice l.ctx l.queue }
      let x := (s.core e.core).bind x l.kd.weaves
      let ws := (List.range l.kd.weaves).map (fun w => Weave.fresh l.kd e.team w ms)
      let s := (s.takeSlice l.ctx).modCore e.core (fun k => k.install x ws ({}, {}) [] [])
      let s := s.modGang g.id (fun g => { g with arrived := insertNat i g.arrived })
      ((s.setTicketState e.ticket 2).recharge, true)

/-! ### The save area (12 R394, Table 9A) -/

/-- LIVE of the header at which a lane stands, none where it stands at none (02 R68). DESIGN CHOICE (log entry 59):
it counts lane by lane, where lanes stand at different headers or only some stand at one. -/
def State.liveAt (s : State) (c w l : Nat) : Option Nat :=
  let t := s.thread c w l
  if t.stop.isSome then t.stop
  else if !t.ctl.entry then none
  else match (s.fetch c w t.ctl.pc.toNat).2 with
    | .word v => if isMarker v then some (hdrLive v) else none
    | _ => none
/-- A mode as it is saved: a pause ends (03 R112), a joined collective is arrived at again (04 R136), and so is an
access on its way. -/
def savedMode (m : Mode) : Mode :=
  match frameMode m with
  | .waiting .lender => .waiting .retry
  | m => m
/-- A thread as it is saved: registers from LIVE on are given up at a header (02 R68). -/
def Thread.saved (t : Thread) (live : Option Nat) : Thread :=
  { t with
    mode := savedMode t.mode
    regs := (match live with
      | some n => t.regs.filter (fun e => decide (e.1 < n))
      | none => t.regs)
    frame := t.frame.map (fun f => { f with mode := savedMode f.mode, lend := none })
    stop := none, lend := none }
def Weave.saved (w : Weave) (live : Nat → Option Nat) : Weave :=
  { w with threads := w.threads.map (fun t => (t.1, t.2.saved (live t.1))), colls := [] }
/-- Byte `o` of a plane in the layout of 09 R305. -/
def Plane.byte (p : Plane) (o : Nat) : Option Byte :=
  match p.fmt with
  | none => none
  | some (ty, bs) =>
    let b := opBits ty
    if o < 3072 * b then
      let per := max 1 (8 / b)
      some (BitVec.ofNat 8 (if b ≤ 8 then
          ((List.range per).map (fun i => tabGet 0 (o * per + i) p.elems * 2 ^ (b * i))).sum
        else tabGet 0 (o / (b / 8)) p.elems / 2 ^ (8 * (o % (b / 8)))))
    else if bs && decide (o < 3072 * b + 768) then some (BitVec.ofNat 8 (tabGet 0 (o - 3072 * b) p.scales))
    else none
/-- The word of full/empty bits and poison marks of register `n` (12 Table 9A), of the lanes that `keeps` picks. -/
def Weave.bitsOf (w : Weave) (n : Nat) (keeps : Nat → Bool) : Nat :=
  (((List.range 32).filter keeps).map (fun l =>
    let r := (w.thread l).reg n
    (if r.full then 2 ^ l else 0) + (if r.poison then 2 ^ (32 + l) else 0))).sum
/-- The save writes register `n` of a thread: it is declared, and below the LIVE that counts for the thread (02
R68). -/
def SavedTeam.keeps (v : SavedTeam) (w n l : Nat) : Bool :=
  decide (n < v.team.kd.regs) && decide (n < tabGet 512 (32 * w + l) v.live)
/-- What a save writes at offset `o` of its area, none where it writes nothing. The records in the
device's own format are free values (log entry 18). -/
def SavedTeam.byte (v : SavedTeam) (o : Nat) : Option Byte :=
  let k := v.team.kd
  let a := k.alloc
  if o < 229376 then some (BitVec.ofNat 8 ((Config.freeBits v.drawn).toNat + (Config.freeBits (v.drawn + 1 + o)).toNat))
  else if o < offReg then none
  else if o < k.offBit then
    let r := o - offReg
    let w := r / (128 * a)
    let n := r % (128 * a) / 128
    let l := r % 128 / 4
    match tabFind w v.weaves with
    | none => none
    | some x =>
      if !v.keeps w n l then none
      else some (BitVec.ofNat 8 (((x.thread l).reg n).val.toNat / 2 ^ (8 * (r % 4))))
  else if o < k.offBank then
    let r := o - k.offBit
    (tabFind (r / (8 * a)) v.weaves).bind (fun x =>
      let n := r % (8 * a) / 8
      if (List.range 32).any (v.keeps (r / (8 * a)) n) then
        some (BitVec.ofNat 8 (x.bitsOf n (v.keeps (r / (8 * a)) n) / 2 ^ (8 * (r % 8))))
      else none)
  else if o < k.offAcc then
    let r := o - k.offBank
    let n := Config.bankBytes * k.bs
    some (if r < n then tabGet 0 r v.team.spad else tabGet 0 (r - n) v.team.opbuf)
  else match v.planes with
    | none => none
    | some (p, q) =>
      let r := o - k.offAcc
      if r < 2097152 then some (BitVec.ofNat 8 ((tabGet 0 (r / 4) v.acc).toNat / 2 ^ (8 * (r % 4))))
      else
        let r := r - 2097152
        match r / 49920 with
        | 0 => p.plane0.byte r
        | 1 => p.plane1.byte (r - 49920)
        | 2 => q.plane0.byte (r - 2 * 49920)
        | 3 => q.plane1.byte (r - 3 * 49920)
        | _ => none
/-- Write the area. -/
def State.writeArea (s : State) (v : SavedTeam) : State :=
  s.writeAt ((List.range v.team.kd.saveLen).filterMap (fun o => (v.byte o).map (fun b => (s.place (s.fabric (v.area + o)), b))))
/-- The bytes of the whole area. -/
def State.areaBytes (s : State) (v : SavedTeam) : List Byte :=
  (List.range v.team.kd.saveLen).map (fun o => s.getByte (s.place (s.fabric (v.area + o))))
/-- The check value over the whole area still holds: no byte of it has changed since the save. -/
def State.areaHolds (s : State) (v : SavedTeam) : Bool := s.areaBytes v == v.image

/-! ### Save (12 R393, R414; 01 R34) -/

/-- Some weave of the team is in a handler that masks pre-emption (12 R385). -/
def State.masked (s : State) (c : Nat) (x : Team) : Bool :=
  x.slots.any (fun w => (s.weave c w).trH && (s.weave c w).trM)
/-- Every thread of the team has stopped at a safe point, is parked or has exited. -/
def State.atSafePoint (s : State) (c : Nat) (x : Team) : Bool :=
  x.slots.all (fun w => (s.weave c w).live.all (fun l =>
    (s.thread c w l).mode == .parked || (s.thread c w l).stop.isSome))
/-- A write-back of the team's mappings has to wait for holds (07 R251). -/
def State.backsHeld (s : State) (c : Nat) (x : Team) : Bool :=
  x.maps.any (fun m => !(s.backHeld c x.id m.1).isEmpty)
/-- The write-backs wait, and no new hold is granted on their lines. -/
def State.waitBacks (s : State) (c : Nat) (x : Team) : State :=
  s.waitBackLines ((x.maps.map (fun m => s.backHeld c x.id m.1)).flatten)
/-- Some thread of the weave speculates, or has an access on its way to a lender, under its handler too (06 R191). -/
def Weave.unsettled (w : Weave) : Bool :=
  w.threads.any (fun t => t.2.spec.isSome || t.2.mode == .waiting .lender || (t.2.frame.bind (·.lend)).isSome)
/-- Nothing of the team is under way (02 R57, 06 R191, 08 R296, 10 R354, 11 R378). -/
def State.quiet (s : State) (c : Nat) (x : Team) : Bool :=
  let k := s.core c
  let mine := (k.cmds.filter (fun e => e.team = some x.id)).map (·.id)
  !(k.deferred.any (fun d => x.slots.contains d.slot)) && !(k.atoms.any (fun a => x.slots.contains a.slot)) &&
    x.slots.all (fun w => (k.weave w).queued.isEmpty && !(k.weave w).unsettled) &&
    !(k.pending.any (fun e => e.team = some x.id)) && !(k.signs.any (fun g => g.team = x.id)) && !(k.bufs.any (fun b => mine.contains b.cmd)) &&
    !((s.die (dieOf c)).blocks.any (fun b => b.team = x.id && !b.fault && (b.code.isSome || b.asked.isSome || !b.got.isEmpty)))
/-- A sub-group that firmware has served becomes ready (03 R96, 06 R213). -/
def Weave.resume (w : Weave) (p : Parked) : Weave :=
  match p.action with
  | none => w
  | some a =>
    { (lanesOf p.lanes).foldl (fun w l => w.modThread l (fun t => { t with mode := .ready, conv := a })) w with
      parked := w.parked.filter (fun q => q != p) }
/-- Roll back the team's speculation, in the weaves in which no atomic's result has to arrive first (08 R295, R296). -/
def State.rollTeam (s : State) (c : Nat) (x : Team) : State :=
  x.slots.foldl (fun s w => if s.rollWaits c w then s else s.rollWeave c w) s
/-- Stop the threads of a team: speculation is rolled back (08 R296) and nothing more issues but what is on its way to
a lender. -/
def State.stopTeam (s : State) (c : Nat) (x : Team) : State :=
  let s := s.rollTeam c x
  let s := x.slots.foldl (fun s w => s.modWeave c w (fun y => y.parked.foldl Weave.resume y)) s
  s.modTeam x.id (fun y => { y with pre := { y.pre with stopping := true } })
/-- A block as it is saved, at the start of its item or of its end write: one that stood at a fault meets it again after the
restore (11 R378; log entry 18). -/
def RefBlock.saved (b : RefBlock) (slot : Nat) : RefBlock :=
  { b with slot := slot, started := false, fault := false, action := none, asked := none, got := [] }
/-- The saved form of a team that is quiet. -/
def State.savedForm (s : State) (c : Nat) (x : Team) : SavedTeam :=
  let k := s.core c
  let ws := x.slots.map (fun w => k.weave w)
  let idx := fun (slot : Nat) => if x.slots.contains slot then (k.weave slot).index else 48
  let mine := k.cmds.filter (fun e => e.team = some x.id)
  { team := { x with
      slots := [], phys := [], spadBanks := [], bufBanks := [], garBanks := [], started := false
      matq := x.matq.map (fun m => { m with asked := none })
      maps := x.maps.map (fun m => (m.1, { m.2 with filled := [], dirty := [] }))
      handles := x.handles.map (fun h => (h.1, { h.2 with pieces := [] }))
      pre := { slice := x.pre.slice } }
    weaves := (x.slots.zip ws).foldl (fun m w => tabSet w.2.index (w.2.saved (s.liveAt c w.1)) m) []
    cmds := mine.map (fun e => { e with asked := [] })
    blocks := ((s.die (dieOf c)).blocks.filter (fun b => b.team = x.id)).map (fun b => b.saved (idx b.slot))
    traps := ((s.die (dieOf c)).traps.filter (fun b => b.team = x.id)).map (fun b => { b with slot := idx b.slot })
    flt := k.flt.filter (fun r => x.slots.contains (bitsAt r.w2.toNat 10 6))
    eflt := k.eflt.filter (fun r => mine.any (fun e => e.parked.any (fun p => p.record = r.idx && p.action.isNone)) ||
      ((r.idx = 1024 || r.idx = 1025) && x.matq.any (·.fault)))
    planes := if x.kd.cv = 0 then none else some (k.array0, k.array1)
    accInt := if x.kd.cv = 0 then [] else k.accInt
    acc := if x.kd.cv = 0 then [] else k.acc
    area := ((s.gangTeam x.id).map (·.save)).getD 0
    live := ((x.slots.zip ws).map (fun w => w.2.threads.filterMap (fun t =>
      (s.liveAt c w.1 t.1).map (fun n => (32 * w.2.index + t.1, n))))).flatten
    drawn := s.free }
/-- Save a quiet team: its mappings are written back and deregistered, its tenure released, and its area
written (06 R195, 07 R247, 12 R394). -/
def State.saveTeam (s : State) (t : Nat) : State :=
  match s.findTeam t with
  | none => s
  | some (c, x) =>
    let v := s.savedForm c x
    let s := ((x.maps.map (·.1)).foldl (fun s e => s.spadClear t e) s).removeTeam c t
    let s := { s with free := s.free + 1 + 229376 }.writeArea v
    let s := { s with saved := s.saved ++ [{ v with image := s.areaBytes v }] }
    (s.setTicketState x.ticket 3).modGangTeam t (fun e => { e with reserved := false })

/-- Carry on the save of a team that has stopped: what speculates is rolled back, and the save is taken once the team is
quiet and no hold keeps the write-back of its mappings waiting (07 R251). -/
def State.carrySave (s : State) (c : Nat) (x : Team) : State :=
  let s := s.rollTeam c x
  if !s.quiet c x then s else if s.backsHeld c x then s.waitBacks c x else s.saveTeam x.id

/-! ### Restore (12 R393; 03 R99, 07 R247, 10 R354, 11 R358) -/

def setField (w : DWord) (lo n v : Nat) : DWord :=
  BitVec.ofNat 64 (w.toNat - bitsAt w.toNat lo n * 2 ^ lo + v * 2 ^ lo)
/-- A restored sub-group is serviced again before it resumes: its record is posted again on the new core, the one that
firmware had answered included (03 R99). -/
def Core.repark (k : Core) (slot : Nat) (flt : List FaultRec) (p : Parked) : Core × Parked :=
  match (match p.posted with
    | some r => some r
    | none => flt.find? (fun r => r.idx = p.record)) with
  | none => (k, p)
  | some r =>
    let n := freeRecord k.flt 384
    ({ k with fwEvents := k.fwEvents ||| 2, flt := k.flt ++ [{ r with
        idx := n, shown := false, w2 := setField r.w2 10 6 slot, w3 := setField r.w3 0 9 n }] },
      { p with record := n, action := none, posted := none })
def Core.reparkAll (k : Core) (slot : Nat) (flt : List FaultRec) (ps : List Parked) : Core × List Parked :=
  ps.foldl (fun (r : Core × List Parked) p =>
    let q := r.1.repark slot flt p
    (q.1, r.2 ++ [q.2])) (k, [])
def Core.reparkWeave (k : Core) (flt : List FaultRec) (slot : Nat) : Core :=
  let w := k.weave slot
  let r := k.reparkAll slot flt w.parked
  match w.frame with
  | none => { r.1 with weaves := tabSet slot { w with parked := r.2 } r.1.weaves }
  | some f =>
    let q := r.1.reparkAll slot flt f.parked
    { q.1 with weaves := tabSet slot { w with parked := r.2, frame := some { f with parked := q.2 } } q.1.weaves }
/-- A command re-enters the engine, its parked units with new records; those that firmware has answered have none. -/
def Core.reenter (k : Core) (eflt : List FaultRec) (c : EngCmd) : Core :=
  let e := k.freeEntry
  let r := c.parked.foldl (fun (r : Core × List UnitPark) u =>
    match (if u.action.isSome then none else eflt.find? (fun q => q.idx = u.record)) with
    | none => (r.1, r.2 ++ [u])
    | some q =>
      let n := freeRecord r.1.eflt 1024
      ({ r.1 with fwEvents := r.1.fwEvents ||| 2, eflt := r.1.eflt ++ [{ q with
          idx := n, shown := false, w2 := setField q.w2 10 6 e, w3 := setField q.w3 0 11 n }] },
        r.2 ++ [{ u with record := n }])) (k, [])
  { r.1 with cmds := r.1.cmds ++ [{ c with entry := e, parked := r.2 }] }
/-- Register a mapping entry again as under spmap, its pages translated anew (06 R195). DESIGN CHOICE (log entry 60):
where they no longer translate, the entry is registered over the runs that it had. DESIGN CHOICE (log entry 71): it is
registered without a check against ranges that other teams have registered since the save. -/
def State.remap (s : State) (core t e : Nat) (m : MapEnt) : State :=
  let m := { m with zero := false, written := [] }
  match s.rangeSegs (s.teamAgent core (s.team t).ctx (some t)) m.va m.len with
  | (s, .ok gs) => s.mapEntry t e { m with segs := gs }
  | (s, .error _) => s.mapEntry t e m
/-- Ask for the tenure that a handle had, whole and with LOST 0 (07 R247): the directories translate its footprint as
soon as that can be done (log entry 18). -/
def State.reacquire (s : State) (core t n : Nat) (h : Handle) : State :=
  if h.mode = 0 then s
  else { s.modHandle t n (fun h => { h with lost := false }) with dirReqs := s.dirReqs ++
    [{ core := core, slot := 48, pc := 0, team := t, handle := n, write := h.mode == 2, pages := [], untranslated := true }] }
/-- The engine and the controller of a core have room for what a saved team brings. -/
def State.roomFor (s : State) (core : Nat) (v : SavedTeam) : Bool :=
  decide ((s.core core).cmds.length + v.cmds.length ≤ 64) &&
    (v.blocks.isEmpty || decide ((s.die (dieOf core)).blocks.length + v.blocks.length ≤ 16))
/-- A saved team stands on a core again; it does not issue yet. -/
def State.restoreTeam (s : State) (core : Nat) (v : SavedTeam) : State :=
  let t := v.team.id
  let x0 := { v.team with maps := [], pre := s.freshSlice v.team.ctx ((s.findLaunch v.team.launch).map (·.queue) |>.getD 0) }
  let ws := v.weaves.map (·.2)
  let x := (s.core core).bind x0 ws.length
  let slotOf := fun (i : Nat) => (((v.weaves.map (·.1)).zip x.slots).find? (fun e => e.1 = i)).map (·.2) |>.getD 48
  let s := { s with saved := s.saved.filter (fun u => u.team.id != t) }.takeSlice x.ctx
  let s := s.modCore core (fun k =>
    let k := k.install x ws (v.planes.getD ({}, {})) v.acc v.accInt
    let k := x.slots.foldl (fun k w => k.reparkWeave v.flt w) k
    let k := v.cmds.foldl (fun k c => k.reenter v.eflt c) k
    { k with eflt := k.eflt ++ (v.eflt.filter (fun r => decide (1024 ≤ r.idx))).map (fun r => { r with shown := false }) })
  let s := s.modDie (dieOf core) (fun d => { d with
    blocks := d.blocks.filter (·.begun) ++ v.blocks.map (fun b => { b with core := core, slot := slotOf b.slot }) ++
      d.blocks.filter (fun b => !b.begun)
    traps := d.traps ++ v.traps.map (fun b => { b with core := core, slot := slotOf b.slot }) })
  let s := v.team.maps.foldl (fun s m => s.remap core t m.1 m.2) s
  v.team.handles.foldl (fun s h => s.reacquire core t h.1 h.2) s
/-- Its tenure requests have all granted. -/
def State.granted (s : State) (t : Nat) : Bool :=
  s.dirReqs.all (fun r => r.team != t || r.slot != 48 || (r.pages.isEmpty && !r.untranslated))
/-- The restored team runs. -/
def State.resumeTeam (s : State) (t ticket : Nat) (on : Bool) : State :=
  (({ s with dirReqs := s.dirReqs.filter (fun r => r.team != t || r.slot != 48) }.modTeam t (fun x =>
    { x with started := on })).setTicketState ticket 2).recharge

/-! ### Flush, kill and completion -/

/-- CORE of a ticket (12 Table 8). -/
def State.setTicketCore (s : State) (addr c : Nat) : State :=
  let w := s.ticketWord addr 1
  s.writePhys (s.fabric (addr + 8)) 8 (w - bitsAt w 18 8 * 2 ^ 18 + c * 2 ^ 18)
/-- Discard a team, placed or saved; `relaunch` returns its ticket to STATE 0, for the core of its gang's window (12 R393,
R414; 01 R30). -/
def State.flushTeam (s : State) (t ticket : Nat) (relaunch : Bool) : State :=
  let s := s.dropTeam t
  let s := { s with saved := s.saved.filter (fun v => v.team.id != t) }.dropClaim ticket
  let s := if relaunch then (s.setTicketState ticket 0).setTicketCore ticket (((s.gangTeam t).map (·.home)).getD 0)
    else s.setTicketState ticket 5
  let s := s.modGangTeam t (fun e => { e with
    reserved := false, reported := !relaunch, killed := !relaunch, core := if relaunch then e.home else e.core })
  { s with gangs := s.gangs.map (fun g => { g with arrived := g.arrived.filter (fun i =>
      ((g.teams[i]?).map (·.team)) != some t) }) }
/-- A gang all of whose teams have reported has completed, and with the last gang the launch (12 R402); a
gang with a killed team ends its launch (log entry 44). -/
def State.settleGang (s : State) (id : Nat) : State :=
  match s.findGang id with
  | none => s
  | some g =>
    if !g.teams.all (·.reported) then s
    else
      let s := { s with gangs := s.gangs.filter (fun h => h.id != id) }
      match s.findLaunch g.launch with
      | none => s
      | some l =>
        let s := s.journal l.queue 6 g.launch g.index
        if l.cancel then
          if s.gangs.any (fun h => h.launch = l.id) then s else s.endLaunch l.id 2 0 0
        else if g.teams.any (·.killed) then (s.flushLaunch l.id).endLaunch l.id 4 4 0
        else
          let s := s.modLaunch l.id (fun l => { l with done := l.done + 1 })
          if l.done + 1 = bitsAt (l.words.getD 1 0).toNat 32 16 then s.endLaunch l.id 1 0 0 else s
/-- A team has run to its end: every weave freed, commands, blocks and stores ended (03 R109, 07 R233, 09
R330, 10 R354, 11 R378). -/
def State.teamEnded (s : State) (c : Nat) (x : Team) : Bool :=
  let k := s.core c
  x.slots.isEmpty && decide (x.freed = x.kd.weaves) && !(k.signs.any (fun g => g.team = x.id)) && !(k.cmds.any (fun e => e.team = some x.id)) &&
    !(s.dies.any (fun d => d.2.blocks.any (fun b => b.team = x.id))) && !(x.matq.any (·.released)) &&
    !(k.pending.any (fun e => e.team = some x.id)) && !(s.dirReqs.any (fun r => r.team = x.id))
/-- Completion frees what the team held. -/
def State.completeTeam (s : State) (t : Nat) : State :=
  (s.dropTeam t).modGangTeam t (fun e => { e with completed := true, reserved := false })

end Sys2Proof.Machine
end

