-- ==== Sys2Proof/Machine/Queue.lean ====
section
/-! DEFINITION. The queue processor: intake of packets, placement of gangs, tickets, ages, takeover and the
end of queues (12 R396, R398 to R412, R416). -/

namespace Sys2Proof.Machine

/-! ### Words and journal -/

def Launch.word (l : Launch) (n : Nat) : Nat := (l.words.getD n 0).toNat
def Launch.parts (l : Launch) : Nat := bitsAt (l.word 1) 56 8
def Launch.ngang (l : Launch) : Nat := bitsAt (l.word 1) 32 16
def Queue.word (q : Queue) (n : Nat) : Nat := (q.words.getD n 0).toNat
def Queue.logN (q : Queue) : Nat := q.word 0 % 32
def Queue.owner (q : Queue) : Nat := bitsAt (q.word 1) 48 16

/-! ### Kernel descriptors (12 R398, Table 10) -/

def kdescOf (v : Nat) : Kdesc :=
  let w := fun (n : Nat) => bitsAt v (64 * n) 64
  let f := fun (n lo k : Nat) => bitsAt (w n) lo k
  { image := w 0, fpctl := BitVec.ofNat 32 (w 1), codeLen := w 4, imgLen := w 5,
    regs := f 2 55 9, weaves := f 2 49 6, teams := f 2 42 7, idem := f 2 41 1 == 1,
    rv := f 2 36 5, cv := f 2 31 5, cc := f 2 26 5, gb := f 2 22 4, slots := f 2 15 7,
    bc := f 3 58 6, bs := f 3 52 6, bo := f 3 46 6, bg := f 3 40 6, spec := f 3 27 13, syncent := f 3 10 17 }
/-- Fields in the ranges of 02 R84, reserved bits zero. -/
def kdescOk (v : Nat) : Bool :=
  let k := kdescOf v
  let w := fun (n : Nat) => bitsAt v (64 * n) 64
  w 6 == 0 && w 7 == 0 && w 1 / 2 ^ 32 == 0 && w 2 % 2 ^ 10 == 0 && w 3 % 2 ^ 10 == 0 &&
    (k.fpctl &&& ~~~(0x11F#32)) == 0 && bitsAt (w 2) 10 5 == 16 &&
    (k.regs == 511 || (k.regs % 16 == 0 && decide (16 ≤ k.regs ∧ k.regs ≤ 496))) &&
    decide (1 ≤ k.weaves ∧ k.weaves ≤ 32 ∧ 1 ≤ k.teams ∧ k.teams ≤ 64 ∧ k.rv ≤ 24 ∧ k.cv ≤ 16 ∧ k.cc ≤ 16 ∧
      k.gb ≤ 8 ∧ k.slots ≤ 64 ∧ k.bc + k.bs + k.bo + k.bg ≤ 32 ∧ k.syncent ≤ 65536 ∧ k.spec ≤ 4096 ∧
      (k.spec = 0 ∨ 1 ≤ k.bg))

/-! ### Partitions (12 R396, R408, R409) -/

def State.partField (s : State) (c : Nat) : Nat := bitsAt (tabGet 0 (c / 16) s.partmap).toNat (4 * (c % 16)) 4
/-- The enabled cores of a partition, ascending. -/
def State.partCores (s : State) (p : Nat) : List Nat :=
  (List.range Config.cores).filter (fun c => s.partField c == 8 + p)
/-- Words of a partition's ticket counter. -/
def State.tkcWord (s : State) (p n : Nat) : Nat := s.readPhys (s.fabric ((tabGet 0 p s.qptkc).toNat + 8 * n)) 8
def State.tkcSet (s : State) (p n v : Nat) : State := s.writePhys (s.fabric ((tabGet 0 p s.qptkc).toNat + 8 * n)) 8 v
/-- The counter is set up, with its reserved fields zero. -/
def State.tkcSound (s : State) (p : Nat) : Bool :=
  tabGet 0 p s.qptkc != 0 && (List.range 11).any (fun i => s.tkcWord p 1 == 64 * 2 ^ i) && s.tkcWord p 0 % 64 == 0 &&
    (List.range 4).all (fun i => s.tkcWord p (4 + i) == 0)
/-- It is set up, stands as the queue processor left it, untouched by other software, and has room for `n` tickets. -/
def State.tkcReady (s : State) (p n : Nat) : Bool :=
  let seen := tabGet (0, 0) p s.posted
  s.tkcSound p && !s.tampered.contains p &&
    s.tkcWord p 2 == seen.1 && s.tkcWord p 3 == seen.2 && decide (seen.1 + n - seen.2 ≤ s.tkcWord p 1)

/-! ### Intake (12 R399 to R401, R404) -/

/-- Preload entries of a table. -/
def State.readPreloads (s : State) (ctx va regs : Nat) (asked : Option (Nat × Nat)) :
    Nat → Nat → State × Except Stay (List Preload)
  | 0, _ => (s, .ok [])
  | n + 1, i =>
    match s.fwLoad ctx (va + 16 * i) 16 asked with
    | (s, .error k) => (s, .error k)
    | (s, .ok v) =>
      let w := v % 2 ^ 64
      let p : Preload := { reg := w % 512, wide := bitAt w 9, perThread := bitAt w 10, val := BitVec.ofNat 64 (v / 2 ^ 64) }
      if w / 2 ^ 11 != 0 || decide (regs ≤ p.reg) || (p.wide && p.reg % 2 == 1) then (s, .error .never)
      else match s.readPreloads ctx va regs asked n (i + 1) with
        | (s, .ok ps) => (s, .ok (p :: ps))
        | (s, .error k) => (s, .error k)
/-- Buffer list entries. -/
def State.readBufs (s : State) (ctx va : Nat) (asked : Option (Nat × Nat)) :
    Nat → Nat → State × Except Stay (List (Nat × Nat × Nat))
  | 0, _ => (s, .ok [])
  | n + 1, i =>
    match s.fwLoad ctx (va + 32 * i) 32 asked with
    | (s, .error k) => (s, .error k)
    | (s, .ok v) =>
      if v / 2 ^ 130 != 0 then (s, .error .never)
      else match s.readBufs ctx va asked n (i + 1) with
        | (s, .ok bs) => (s, .ok ((v % 2 ^ 64, bitsAt v 64 64, bitsAt v 128 2) :: bs))
        | (s, .error k) => (s, .error k)
/-- The checks of a packet's own fields (12 R399). -/
def State.packetOk (s : State) (q : Queue) (ws : List DWord) (k : Kdesc) : Bool :=
  let w := fun (n : Nat) => (ws.getD n 0).toNat
  let parts := bitsAt (w 1) 56 8
  let rs := w 7
  w 1 % 2 ^ 8 == 0 && bitsAt (w 1) 48 8 == 0 && bitsAt (w 1) 32 16 != 0 && decide (bitsAt (w 1) 8 8 ≤ 64) &&
    decide (bitsAt (w 1) 16 16 ≤ 1024) && parts != 0 &&
    (List.range 8).all (fun p => !bitAt parts p || bitAt (q.word 1) (40 + p)) &&
    (List.range 8).any (fun p => bitAt parts p && decide (k.teams ≤ (s.partCores p).length)) &&
    !(q.word 1 % 8 == 0 && w 2 == 0) && rs % 2 ^ 28 == 0 &&
    (rs == 0 || (canonical rs && canonical (rs + 2 ^ 28 - 1))) &&
    w 0 % 64 == 0 && w 4 % 16 == 0 && w 3 % 32 == 0
/-- What the packet names: descriptor, preload entries and buffer list, each checked (12 R398 to R401). -/
def State.readPacket (s : State) (q : Nat) (ws : List DWord) :
    State × Except Stay (Kdesc × List Preload × List (Nat × Nat × Nat)) :=
  let d := s.queue q
  let ctx := d.owner
  let w := fun (n : Nat) => (ws.getD n 0).toNat
  match s.fwLoad ctx (w 0) 64 d.asked with
  | (s, .error k) => (s, .error k)
  | (s, .ok v) =>
    let k := kdescOf v
    if !kdescOk v || !s.packetOk d ws k then (s, .error .never)
    else match s.readPreloads ctx (w 4) k.regs d.asked (bitsAt (w 1) 8 8) 0 with
      | (s, .error e) => (s, .error e)
      | (s, .ok ps) =>
        match s.readBufs ctx (w 3) d.asked (bitsAt (w 1) 16 16) 0 with
        | (s, .error e) => (s, .error e)
        | (s, .ok bs) => (s, .ok (k, ps, bs))
/-- The words of the packet at ring slot `ring`. -/
def State.ringWords (s : State) (ring : Nat) : List DWord :=
  (List.range 8).map (fun n => BitVec.ofNat 64 (s.readPhys (s.fabric (ring + 8 * n)) 8))
/-- Enter a packet among the launches, with a new number. -/
def State.enterLaunch (s : State) (q ring : Nat) (l : Launch) : State :=
  let id := s.nextId
  let l := { l with id := id, queue := q, ring := ring, ctx := (s.queue q).owner, words := s.ringWords ring }
  ({ s with nextId := id + 1 }.journal q 1 q id).pushLaunch l
/-- A packet of which nothing but its words is known. -/
def bareLaunch : Launch := { id := 0, queue := 0, ring := 0, ctx := 0, words := [], kd := {}, preload := [], bufs := [] }
/-- Take in one packet whose words stand at ring slot `ring`; false where a read has to wait. -/
def State.takePacket (s : State) (q ring : Nat) : State × Bool :=
  match s.readPacket q (s.ringWords ring) with
  | (s, .ok (k, ps, bs)) => (s.enterLaunch q ring { bareLaunch with kd := k, preload := ps, bufs := bs }, true)
  | (s, .error .never) => ((s.enterLaunch q ring bareLaunch).endLaunch s.nextId 5 0 0, true)
  | (s, .error k) => (s.modQueue q (fun d => { d with stuck := true, asked := k.ask d.asked s.time }), false)
/-- The ring slot of packet `i`. -/
def Queue.slotOf (d : Queue) (i : Nat) : Nat := d.word 2 + 64 * (i % 2 ^ d.logN)
/-- Take in packets one by one, from index `i` on; the index of the first not taken in. -/
def State.takePackets (s : State) (q : Nat) : Nat → Nat → State × Nat
  | 0, i => (s, i)
  | n + 1, i =>
    match s.takePacket q ((s.queue q).slotOf i) with
    | (s, true) => (s.modQueue q (fun d => { d with stuck := false, asked := none })).takePackets q n (i + 1)
    | (s, false) => (s, i)
/-- The thread bound to a queue consumes the packets from RIDX up to WIDX − 1 (12 R404). RING and WIDXA
are local physical addresses (log entry 41). -/
def State.intake (s : State) (q : Nat) : State :=
  let d := s.queue q
  if !d.active then s
  else
    let widx := s.readPhys (s.fabric (d.word 3)) 8
    let ridx := d.word 4
    let r := s.takePackets q (widx - ridx) ridx
    if r.2 = ridx then r.1 else r.1.modQueue q (fun d => { d with words := d.words.set 4 (BitVec.ofNat 64 r.2) })

/-! ### Reservations (12 R394, R408, R410) -/

/-- What stands, or is to stand, on a core. -/
structure Load where
  core : Nat
  kd : Kdesc
  cls : Nat
  team : Nat
  deriving DecidableEq, Repr
/-- Reserved teams of gangs, and teams on cores that belong to no gang. -/
def State.loads (s : State) : List Load :=
  (s.gangs.map (fun g => match s.findLaunch g.launch with
    | none => []
    | some l => (g.teams.filter (fun e => e.reserved && !e.completed)).map (fun e =>
        { core := e.core, kd := s.unfreed e.team l.kd, cls := s.launchClass l, team := e.team }))).flatten ++
  (s.cores.map (fun k => (k.2.teams.filter (fun t => (s.gangTeam t.1).isNone)).map (fun t =>
    { core := k.1, kd := s.unfreed t.1 t.2.kd, cls := 3, team := t.1 }))).flatten
/-- Each core of the window can take one more team, and each die its engine entries (08 R281). -/
def fits (loads : List Load) (k : Kdesc) (win : List Nat) : Bool :=
  win.all (fun c => fitTogether (k :: (loads.filter (fun e => e.core == c)).map (·.kd))) &&
  (List.range Config.dies).all (fun d =>
    decide (((loads.filter (fun e => dieOf e.core == d)).map (·.kd.syncent)).sum +
      k.syncent * (win.filter (fun c => dieOf c == d)).length ≤ 65536))
/-- Save areas in use by teams that `p` picks, as (base, bytes). -/
def State.areasOf (s : State) (p : GangTeam → Bool) : List (Nat × Nat) :=
  (s.gangs.map (fun g => (g.teams.filter (fun e => !e.reported && p e)).map (fun e =>
    (e.save, ((s.findLaunch g.launch).map (fun l => l.kd.saveLen)).getD 0)))).flatten
def State.areas (s : State) : List (Nat × Nat) := s.areasOf (fun _ => true)
/-- The lowest free base for `len` bytes at or above `a`, stepping over the areas that lie in the way. -/
def areaBase (used : List (Nat × Nat)) (len : Nat) : Nat → Nat → Nat
  | 0, a => a
  | n + 1, a =>
    match used.find? (fun u => decide (u.1 < a + len ∧ a < u.1 + u.2)) with
    | none => a
    | some u => areaBase used len n (u.1 + u.2)
/-- `n` areas of the save pool, none where they do not fit. -/
def State.allocAreas (s : State) (len : Nat) : Nat → List (Nat × Nat) → Option (List Nat)
  | 0, _ => some []
  | n + 1, used =>
    let a := areaBase used len used.length s.qpsaveb.toNat
    if s.qpsaveb.toNat + s.qpsavel.toNat < a + len then none
    else (s.allocAreas len n (used ++ [(a, len)])).map (a :: ·)
/-- The windows of `n` consecutive cores of a list. -/
def coreWindows (n : Nat) (cs : List Nat) : List (List Nat) :=
  if cs.length < n then [] else (List.range (cs.length + 1 - n)).map (fun i => (cs.drop i).take n)
/-- The windows that a launch tries, partitions ascending, then the lowest first core (12 R408). -/
def State.windowsFor (s : State) (l : Launch) (skip avoid : List Nat) : List (Nat × List Nat) :=
  if (s.allocAreas l.kd.saveLen l.kd.teams s.areas).isNone then []
  else ((List.range 8).map (fun p =>
    if bitAt l.parts p && !skip.contains p && s.tkcReady p l.kd.teams then
      ((coreWindows l.kd.teams (s.partCores p)).filter (fun w => !w.any avoid.contains)).map (fun w => (p, w))
    else [])).flatten
/-- The first window that fits. -/
def State.findWindow (s : State) (l : Launch) (skip avoid : List Nat) : Option (Nat × List Nat) :=
  (s.windowsFor l skip avoid).find? (fun e => fits s.loads l.kd e.2)
/-- The reservations of a window of which one fails are rolled back, each entered in the journal (12 R406, R410). -/
def State.failWindow (s : State) (l : Launch) (win : List Nat) : State :=
  let got := win.takeWhile (fun c => fits s.loads l.kd [c])
  let enter := fun (k : Nat) (s : State) => got.foldl (fun s c => s.journal l.queue k l.id c) s
  enter 5 (enter 4 s)

/-! ### Tickets (12 R393, R396) -/

/-- Write a ticket in STATE 0. -/
def State.writeTicket (s : State) (a packet gtkt team core ctx gang save : Nat) : State :=
  let w1 := gtkt % 2 ^ 32 * 2 ^ 32 + team % 64 * 2 ^ 26 + core % 256 * 2 ^ 18 + ctx % 2 ^ 16
  let put := fun (s : State) (n v : Nat) => s.writePhys (s.fabric (a + 8 * n)) 8 v
  let s := put (put (put (put s 0 packet) 1 w1) 2 (gang % 2 ^ 16 * 2 ^ 32)) 3 save
  (List.range 4).foldl (fun s n => put s (4 + n) 0) s
/-- Commit a gang on a window: reservations, tickets, one per team, and the journal's entries. -/
def State.commitGang (s : State) (l : Launch) (p : Nat) (win : List Nat) : State :=
  match s.allocAreas l.kd.saveLen l.kd.teams s.areas with
  | none => s
  | some areas =>
    let d := s.draw
    let gtkt := d.1.toNat % 2 ^ 32
    let s := d.2
    let id := s.nextId
    let base := s.tkcWord p 0
    let slots := bitsAt (s.tkcWord p 1) 0 17
    let first := s.tkcWord p 2
    let teams : List GangTeam := (win.zip areas).zipIdx.map (fun e =>
      { core := e.1.1, home := e.1.1, ticket := base + 64 * ((first + e.2) % slots), team := id + 1 + e.2, save := e.1.2 })
    let g : Gang := { id := id, launch := l.id, index := l.placed, gtkt := BitVec.ofNat 32 gtkt, part := p, teams := teams }
    let s := win.foldl (fun s c => s.journal l.queue 4 id c) { s with nextId := id + 1 + teams.length, gangs := s.gangs ++ [g] }
    let s := s.journal l.queue 2 l.id g.index
    let s := s.modLaunch l.id (fun l => { l with placed := l.placed + 1 })
    let s := teams.zipIdx.foldl (fun s e =>
      let s := s.writeTicket e.1.ticket l.ring gtkt e.2 e.1.core l.ctx g.index e.1.save
      let s := (s.tkcSet p 2 (first + e.2 + 1)).journal l.queue 3 id e.2
      s.wakeAgent e.1.core 0) s
    { s with posted := tabSet p (first + teams.length, s.tkcWord p 3) s.posted }

/-! ### Order and head (12 R405, R411) -/

def Launch.waiting (l : Launch) : Bool := !l.ended && !l.cancel && decide (l.placed < l.ngang)
/-- Deadline first, then queue, then ring order. -/
def Launch.before (a b : Launch) : Bool :=
  decide (a.word 2 < b.word 2) || (a.word 2 == b.word 2 &&
    (decide (a.queue < b.queue) || (a.queue == b.queue && decide (a.id ≤ b.id))))
def insertLaunch (l : Launch) : List Launch → List Launch
  | [] => [l]
  | h :: t => if l.before h then l :: h :: t else h :: insertLaunch l t
/-- Packets of one class served round-robin among queues: the r-th packets of every queue. -/
def roundRobin (last : Nat) (ls : List Launch) : List Launch :=
  let qs := ((List.range 64).map (fun d => (last + 1 + d) % 64)).map (fun q => ls.filter (fun l => l.queue == q))
  ((List.range ls.length).map (fun r => qs.filterMap (fun g => g[r]?))).flatten
/-- The packets of a class with gangs to place. -/
def State.waitingOf (s : State) (c : Nat) : List Launch := s.launches.filter (fun l => l.waiting && s.launchClass l == c)
/-- They are served round-robin, the packet in service first. -/
def State.served (s : State) (c : Nat) : List Launch :=
  let ls := s.waitingOf c
  let now := fun (l : Launch) => tabFind c s.sched.serving == some l.id
  ls.filter now ++ roundRobin (tabGet 63 c s.sched.last) (ls.filter (fun l => !now l))
/-- The packets with gangs to place, in the order of 12 R405. -/
def State.order (s : State) : List Launch :=
  (s.waitingOf 0).foldr insertLaunch [] ++ (((List.range 3).map (fun c => s.served (c + 1))).flatten)
/-- The first packet of each class comes into service once it is the head or has a gang placed, and stays there until
its last gang is placed. -/
def State.serve (s : State) (l : Launch) : State :=
  let c := s.launchClass l
  if c != 0 && ((s.served c).head?.map (·.id)) == some l.id then
    { s with sched := { s.sched with serving := tabSet c l.id s.sched.serving, last := tabSet c l.queue s.sched.last } }
  else s
/-- A head comes to be blocked: none of its windows can be reserved. -/
def State.failHead (s : State) (l : Launch) : State := (s.windowsFor l [] []).foldl (fun s e => s.failWindow l e.2) s
/-- Follow the head: a new head starts at age 0, a head that does not fit is blocked, and a blocked head ages with each
whole millisecond (12 R411). Slices are charged as the head now blocks (R413). -/
def State.ageHead (s : State) : State :=
  (match s.order.head? with
  | none => { s with sched := { s.sched with head := none, blockedSince := none, age := 0, held := [] } }
  | some l =>
    let s := s.serve l
    let fits := (s.findWindow l [] []).isSome
    if s.sched.head = some (l.id, l.placed) then
      if fits then s
      else
        let s := if s.sched.blockedSince.isNone then s.failHead l else s
        let t := s.sched.blockedSince.getD s.time
        { s with sched := { s.sched with blockedSince := some t, age := (s.time - t) / 1000000 } }
    else
      let s := if fits then s else s.failHead l
      { s with sched := { s.sched with
      head := some (l.id, l.placed), blockedSince := if fits then none else some s.time, age := 0, held := [] } }).recharge
/-- Partitions on which an aged head stops back-filling: it would fit there if every team there ended. -/
def State.closedParts (s : State) (h : Launch) : List Nat :=
  if s.sched.age < 8 then []
  else (List.range 8).filter (fun p =>
    let cs := s.partCores p
    bitAt h.parts p &&
      (s.allocAreas h.kd.saveLen h.kd.teams (s.areasOf (fun e => !cs.contains e.core))).isSome && (coreWindows h.kd.teams cs).any (fun w => fits (s.loads.filter (fun e => !cs.contains e.core)) h.kd w))
/-- The gang that is placed next: the head, else the first that back-fills (12 R411, R412); with its window, and the
windows that failed before it. -/
def State.nextGang (s : State) : Option (Launch × List (Nat × List Nat) × Nat × List Nat) :=
  let pick := fun (l : Launch) (skip avoid : List Nat) => (s.findWindow l skip avoid).map (fun w =>
    (l, (s.windowsFor l skip avoid).takeWhile (· != w), w))
  match s.order with
  | [] => none
  | h :: t =>
    match pick h [] [] with
    | some r => some r
    | none =>
      let closed := s.closedParts h
      t.findSome? (fun l => if s.launchClass h ≤ s.launchClass l then pick l closed s.sched.held else none)

/-! ### Pre-empting for a deadline head (12 R412) -/

/-- A pre-emption of a team is wanted (12 R414). -/
def State.requestPreempt (s : State) (t : Nat) (urgent : Bool) : State :=
  match s.findTeam t with
  | none => s
  | some (c, x) =>
    if x.pre.requested then
      s.modTeam t (fun x => { x with pre := { x.pre with urgent := x.pre.urgent || urgent } })
    else ((s.modTeam t (fun x => { x with pre := { x.pre with
      requested := true, urgent := urgent, since := (if x.pre.expired || x.pre.action == 1 then x.pre.since else s.time) } })).endPauses c x).wakeAgent c 2
/-- Cores of a window that the head needs freed, none where freeing learning and bulk teams would not do. -/
def neededCores (loads : List Load) (k : Kdesc) (win : List Nat) : Option (List Nat) :=
  let need := win.filter (fun c => !fits loads k [c])
  let rest := loads.filter (fun e => !(need.contains e.core && decide (2 ≤ e.cls)))
  if fits rest k win then some need else none
/-- The window with the fewest cores to free; ties go to the first in order. -/
def State.cheapestWindow (s : State) (h : Launch) : Option (List Nat) :=
  (((List.range 8).map (fun p => if bitAt h.parts p then
      (coreWindows h.kd.teams (s.partCores p)).filterMap (fun w => (neededCores s.loads h.kd w).map (fun n => (w, n.length)))
      else [])).flatten.foldl
    (fun (m : Option (List Nat × Nat)) w => match m with
      | none => some w
      | some b => if w.2 < b.2 then some w else some b) none).map (·.1)
/-- Team saves under way on a die. -/
def State.savesOn (s : State) (d : Nat) : Nat :=
  ((s.cores.filter (fun k => dieOf k.1 == d)).map (fun k =>
    (k.2.teams.filter (fun t => t.2.pre.requested && t.2.pre.urgent)).length)).sum
/-- Ask for the saves that a blocked deadline head needs, at most 32 on a die at a time; the cores of its window are kept
for it. -/
def State.preemptFor (s : State) (h : Launch) : State :=
  let s := if s.sched.held.isEmpty then { s with sched := { s.sched with held := (s.cheapestWindow h).getD [] } } else s
  let due := (s.cores.filter (fun k => s.sched.held.contains k.1 && !fits s.loads h.kd [k.1])).map (fun k =>
    (k.2.teams.filter (fun t => decide (2 ≤ s.teamClass t.1) && !t.2.pre.requested)).map (fun t => (k.1, t.1)))
  due.flatten.foldl (fun s e => if s.savesOn (dieOf e.1) < 32 then s.requestPreempt e.2 true else s) s

/-! ### Scheduler events -/

/-- GANG_PLACEMENT: the thread of a queue places the next gang of the package if it is one of its own;
a blocked deadline head first pre-empts for itself (12 R405, R408, R410 to R412). No program runs before boot firmware has
loaded the package number (00 R8). -/
def execGangPlacement (queue : Nat) (s : State) : Host.Outcome State Fault Refusal :=
  if !s.enumerated then .next s else
  let old := s
  let s := s.ageHead
  let s := match s.order.head? with
    | some h => if s.sched.blockedSince.isSome && s.launchClass h == 0 then s.preemptFor h else s
    | none => s
  match s.nextGang with
  | some (l, failed, p, win) =>
    if l.queue = queue then
      let s := failed.foldl (fun s e => s.failWindow l e.2) (s.serve l)
      .next (old.afterHolds ioDie (s.commitGang l p win).ageHead)
    else .next s
  | none => .next s
/-- HEAD_AGING (12 R411). -/
def execHeadAging (queue : Nat) (s : State) : Host.Outcome State Fault Refusal :=
  match s.order.head? with
  | some h => .next (if h.queue = queue then s.ageHead else s)
  | none => .next s
/-- The ranges of the buffers that MODE 01 and 11 name are invalidated in the caches (12 Table 12A). -/
def State.openLaunch (s : State) (l : Launch) : State :=
  let runs := ((l.bufs.filter (fun b => b.2.2 % 2 == 1)).map (fun b =>
    (pageCuts b.1 b.2.1).filterMap (fun e => match s.walkNow l.ctx e.1 with
      | .ok x => some (x.pa, e.2)
      | _ => none))).flatten
  let hit := fun (line : Nat) => runs.any (fun r => meet (line * 128) 128 r.1 r.2)
  { s with lcache := s.lcache.filter (fun c => !hit c.line) }.dropHolds (fun h => hit h.line)
/-- GANG_START_RELEASE: every team of the gang has arrived at the start barrier (12 R410). -/
def execGangStartRelease (gang : Nat) (s : State) : Host.Outcome State Fault Refusal :=
  match s.findGang gang with
  | none => .next s
  | some g =>
    if g.started || decide (g.arrived.length < g.teams.length) then .next s
    else
      let s := match s.findLaunch g.launch with
        | none => s
        | some l => if l.opened then s else (s.openLaunch l).modLaunch l.id (fun l => { l with opened := true })
      let s := s.modGang gang (fun g => { g with started := true })
      .next (g.teams.foldl (fun s e => s.modTeam e.team (fun x => { x with started := true })) s).recharge
/-- TICKET_RETIRE: RETIRED advances past tickets in STATE 4 or 5, also on a partition that gets no more gangs for what
software has written (12 R396). -/
def execTicketRetire (partition : Nat) (s : State) : Host.Outcome State Fault Refusal :=
  let slots := s.tkcWord partition 1
  let posted := s.tkcWord partition 2
  let retired := s.tkcWord partition 3
  let seen := tabGet (0, 0) partition s.posted
  if !(s.tkcSound partition) then .next s
  else
    let done := fun (n : Nat) => (
      let a := s.tkcWord partition 0 + 64 * (n % slots)
      s.ticketSound a && (s.ticketState a == 4 || s.ticketState a == 5))
    let n := ((List.range (min (posted - retired) slots)).takeWhile (fun i => done (retired + i))).length
    if n = 0 then .next s
    else .next (s.afterHolds ioDie { s.tkcSet partition 3 (retired + n) with
      posted := tabSet partition (seen.1, if seen.2 = retired then retired + n else seen.2) s.posted })
/-- JOURNAL_TAKEOVER: the standby adopts the queue of a thread that has been silent for 50 µs and
consumes what waits there (12 R404, R406). Heartbeats that write no entry are not modelled: log entry 43. -/
def execJournalTakeover (thread : Nat) (s : State) : Host.Outcome State Fault Refusal :=
  if thread = s.sched.standby || s.sched.adopted.contains thread ||
      decide (s.time < tabGet 0 thread s.sched.heart + 50000) || decide (64 ≤ thread) then .next s
  else
    let s := { s with sched := { s.sched with adopted := insertNat thread s.sched.adopted } }
    .next (s.afterHolds ioDie ((s.intake thread).beat thread))

/-! ### Queues (12 R403, R404, R407) -/

def State.notifyQueue (s : State) (queue : Nat) : State :=
  if queue < 64 then (s.intake queue).beat queue else s
/-- An event from outside whose writes have to wait for holds is kept, and offered again (07 R251). -/
def State.orKept (s : State) (i : Kept) (t : State) : State :=
  if (s.heldWrites ioDie t).isEmpty then { t with kept := t.kept.erase i }
  else { s.afterHolds ioDie t with kept := if s.kept.contains i then s.kept else s.kept ++ [i] }
/-- QUEUE_NOTIFY. -/
def execQueueNotify (queue : Nat) (s : State) : Host.Outcome State Fault Refusal :=
  .next (s.orKept (.notify queue) (s.notifyQueue queue))
/-- The fields that a store keeps in word `w` of a descriptor, RIDX being the queue processor's own
(12 Table 13). -/
def queueMask (w : Nat) : DWord :=
  match w with
  | 0 | 1 | 2 | 3 => 0xFFFFFFFFFFFFFFFF
  | 4 => 0
  | _ => 0xFFFFFFFFFFFFFFFF
def State.writeDescriptor (s : State) (queue word : Nat) (value : DWord) : State :=
  if 64 ≤ queue ∨ 8 ≤ word ∨ (s.queue queue).active then s
  else s.modQueue queue (fun q => { q with words := q.words.set word ((value &&& queueMask word) |||
    (q.words.getD word 0 &&& ~~~queueMask word)) })
/-- QUEUE_DESCRIPTOR_WRITE: discarded while the queue is active (12 R403). -/
def execQueueDescriptorWrite (queue word : Nat) (value : DWord) (s : State) : Host.Outcome State Fault Refusal :=
  .next (s.writeDescriptor queue word value)
/-- The descriptor admits activation (12 R403). -/
def Queue.sound (q : Queue) : Bool :=
  q.word 5 == 0 && q.word 6 == 0 && q.word 7 == 0 && q.word 0 / 32 == 0 && bitsAt (q.word 1) 4 4 == 0 &&
    decide (4 ≤ q.logN ∧ q.logN ≤ 16) && q.word 2 % 4096 == 0 && !bitAt (q.word 1) 2 && bitsAt (q.word 1) 40 8 != 0
def State.activateQueue (s : State) (queue : Nat) : State :=
  if 64 ≤ queue ∨ (s.queue queue).active then s
  else s.modQueue queue (fun q =>
    if q.sound then { q with active := true, stopped := false, words := q.words.set 4 0 } else q)
/-- QUEUE_ACTIVATE. -/
def execQueueActivate (queue : Nat) (s : State) : Host.Outcome State Fault Refusal := .next (s.activateQueue queue)
/-- A cancelled launch with nothing left of it ends (12 R407). -/
def State.settleCancel (s : State) (id : Nat) : State :=
  match s.findLaunch id with
  | none => s
  | some l => if l.cancel && !s.gangs.any (fun g => g.launch = id) then s.endLaunch id 2 0 0 else s
/-- Cancel a launch: teams that stand on no core, or have not begun, are discarded, the others are flushed at their next
safe point. -/
def State.cancelLaunch (s : State) (id : Nat) : State :=
  let s := s.modLaunch id (fun l => { l with cancel := true })
  let es := ((s.gangs.filter (fun g => g.launch = id)).map (fun g => g.teams.filter (fun e => !e.reported))).flatten
  let s := es.foldl (fun s e =>
    match s.findTeam e.team with
    | none => if e.completed then s else s.flushTeam e.team e.ticket false
    | some (c, y) =>
      if !y.started then s.flushTeam e.team e.ticket false
      else ((s.modTeam e.team (fun x => { x with pre := { x.pre with
        requested := true, action := 4, since := s.time } })).endPauses c y).wakeAgent c 2) s
  let s := ((s.gangs.filter (fun g => g.launch = id)).map (·.id)).foldl State.settleGang s
  s.settleCancel id
/-- Packets whose reads have still to wait are taken in by their words alone: they are to be cancelled. -/
def State.takeBare (s : State) (q : Nat) : State :=
  let d := s.queue q
  if !d.active then s
  else
    let widx := s.readPhys (s.fabric (d.word 3)) 8
    let ridx := d.word 4
    let s := (List.range (widx - ridx)).foldl (fun s i => s.enterLaunch q (d.slotOf (ridx + i)) bareLaunch) s
    if ridx < widx then s.modQueue q (fun d => { d with
      stuck := false, asked := none, words := d.words.set 4 (BitVec.ofNat 64 widx) }) else s
/-- What the ring still holds is taken in first (log entry 42). -/
def State.destroyQueue (s : State) (queue : Nat) : State :=
  if 64 ≤ queue then s
  else
    let s := (s.intake queue).takeBare queue
    let s := s.modQueue queue (fun q => { q with active := false })
    let ids := (s.launches.filter (fun l => l.queue = queue && !l.ended)).map (·.id)
    ids.foldl State.cancelLaunch s
/-- QUEUE_DESTROY. -/
def execQueueDestroy (queue : Nat) (s : State) : Host.Outcome State Fault Refusal :=
  .next (s.orKept (.destroy queue) (s.destroyQueue queue))
/-- A core that holds a placed team, a saved team or a ticket in STATE 0 or 1 (12 R409). -/
def State.coreHeld (s : State) (c : Nat) : Bool :=
  !(s.core c).teams.isEmpty || s.gangs.any (fun g => g.teams.any (fun e => e.core = c && !e.completed && !e.reported))
/-- Fields of held cores keep their value (12 R409). -/
def State.writePartmap (s : State) (idx : Nat) (value : DWord) : State :=
  if 9 ≤ idx then s
  else
    let old := tabGet 0 idx s.partmap
    let keep : DWord := (List.range 16).foldl (fun m j =>
      if s.coreHeld (16 * idx + j) then m ||| (0xF#64 <<< (4 * j)) else m) 0
    { s with partmap := tabPut 0 idx ((old &&& keep) ||| (value &&& ~~~keep)) s.partmap }
/-- PARTMAP_WRITE. -/
def execPartmapWrite (idx : Nat) (value : DWord) (s : State) : Host.Outcome State Fault Refusal :=
  .next (s.writePartmap idx value)

end Sys2Proof.Machine
end

