-- ==== Sys2Proof/Machine/Preempt.lean ====
section
/-! DEFINITION. Slices, pre-emption, restores and completions (12 R407, R412 to R416; 03 R104, R109). -/

namespace Sys2Proof.Machine

/-! ### Choice (12 R414) -/

/-- P of 12 R414. -/
def State.progress (s : State) (c : Nat) (x : Team) : Nat :=
  let out := x.freed + (x.slots.filter (fun w => (s.weave c w).live.isEmpty)).length
  max x.prog (65536 * out / max 1 x.kd.weaves)
/-- A thread has arrived at a gang barrier whose phase has not completed (08 R289). -/
def State.gangWaits (s : State) (c : Nat) (x : Team) : Bool :=
  x.slots.any (fun w => (s.weave c w).threads.any (fun t => t.2.gbPend &&& ~~~t.2.gbDone != 0))
/-- 1 drain, 2 save, 3 flush and relaunch. -/
def State.chooseAction (s : State) (c : Nat) (x : Team) (urgent : Bool) : Nat :=
  let p := s.progress c x
  let flush := x.kd.idem && decide (p < 16384) && !s.gangWaits c x
  if !urgent && decide (57344 ≤ p) then 1 else if flush then 3 else 2
/-- The slice of a team ends at a yield, which found some other context ready to run (03 R110). -/
def Team.yields (x : Team) : Bool := x.pre.yielded && x.pre.slice != 0
/-- The overrun of a slice: from its expiry to the SP header at which the team has come to its safe point, or to now. -/
def State.overrun (s : State) (c : Nat) (x : Team) : Nat :=
  (if s.atSafePoint c x then x.pre.header.getD s.time else s.time) - x.pre.since
/-- A team that has expired is at its safe point: its context's debt and the length of its next slice, taken once (12 R413).
A slice that ends at a yield leaves neither; the firmware agent learns of it as of any slice end (12 R395). -/
def State.endSlice (s : State) (c : Nat) (x : Team) : State :=
  if x.pre.slice = 0 || x.pre.ended || !(x.pre.expired || x.yields) then s
  else
    let s' := s.modTeam x.id (fun y => { y with pre := { y.pre with ended := true } })
    if !x.pre.expired then s'.wakeAgent c 3
    else s'.modContext x.ctx (fun k =>
      let debt := k.slDebt + s.overrun c x
      let next := max (x.pre.slice - debt) (x.pre.slice / 8)
      { k with slDebt := debt - (x.pre.slice - next), slNext := some next })
/-- Its threads run on to drain: they leave the safe points at which they stopped. -/
def State.beginDrain (s : State) (c : Nat) (x : Team) : State :=
  let s := x.slots.foldl (fun s w => s.modWeave c w (fun y => { y with
    threads := y.threads.map (fun t => (t.1, { t.2 with stop := none })) })) s
  s.modTeam x.id (fun y => { y with pre := { y.pre with action := 1, since := s.time } })
/-- Flush a team as its pre-emption needs, once no hold keeps the write-back of its mappings waiting (07 R251). -/
def State.flushStage (s : State) (c : Nat) (x : Team) (relaunch : Bool) : State :=
  if s.backsHeld c x then s.waitBacks c x else s.flushTeam x.id x.ticket relaunch
/-- The team drains, and nothing asks for it at once (12 R414). -/
def Preempt.drains (p : Preempt) : Bool := p.action == 1 && !p.urgent
/-- One stage of carrying out what the pre-emption of a team needs: nothing while a handler masks it or its
threads run on to a safe point; then the action; a save once the team is quiet. -/
def State.preemptStage (s : State) (c : Nat) (x : Team) : State :=
  let p := x.pre
  if x.slots.isEmpty || s.masked c x then s
  else if p.stopping && p.action != 4 then s.carrySave c x
  else if !p.stopping && (p.drains || !(p.urgent || s.atSafePoint c x) || !(p.requested || p.expired || x.yields)) then s
  else
    let s := s.endSlice c x
    match (if p.action = 4 then 4 else s.chooseAction c x p.urgent) with
    | 1 => s.beginDrain c x
    | 3 => s.flushStage c x true
    | 4 => (s.flushStage c x false).settleGang x.gang
    | _ => (s.modTeam x.id (fun y => { y with pre := { y.pre with action := 2 } })).stopTeam c x
/-- The next stage can be taken. -/
def State.stageReady (s : State) (c : Nat) (x : Team) : Bool :=
  let p := x.pre
  !x.slots.isEmpty && !s.masked c x && (p.stopping ||
    (!p.drains && (p.urgent || s.atSafePoint c x) && (p.requested || p.expired || x.yields)))

/-! ### Events -/

/-- PREEMPTION_REQUEST: a pre-emption of the team is asked for, or the one in hand is carried on. -/
def execPreemptionRequest (core team : Nat) (s : State) : Host.Outcome State Fault Refusal :=
  match s.findTeam team with
  | none => .next s
  | some (c, x) =>
    if c ≠ core then .next s
    else if x.pre.requested || x.pre.expired || x.yields then .next (s.afterHolds ioDie (s.preemptStage c x))
    else if x.slots.isEmpty then .next s
    else .next (s.requestPreempt team false)
/-- The fabric time at which the slice of a team expires, none where it is not charged. -/
def Preempt.expiry (p : Preempt) : Option Nat :=
  if p.slice = 0 || p.expired then none else p.charged.map (fun f => f + p.left)
/-- SLICE_EXPIRY: Pending becomes 1; at the safe point that follows the debt is computed (12 R413). -/
def execSliceExpiry (core team : Nat) (s : State) : Host.Outcome State Fault Refusal :=
  match s.findTeam team with
  | none => .next s
  | some (c, x) =>
    if c ≠ core then .next s
    else match x.pre.expiry with
      | some t =>
        if s.time < t then .next s
        else .next (s.expire c x t)
      | none => .next (if x.pre.expired then s.afterHolds ioDie (s.preemptStage c x) else s)
/-- How long a team may run on to a safe point (12 R413; log entry 45 for SLICE 0). -/
def Preempt.patience (p : Preempt) : Nat := if p.slice = 0 then 250000 else min (p.slice / 4) 250000
/-- The time has passed within which the team should have reached a safe point, that of a cancelled launch included. -/
def Preempt.overdue (p : Preempt) (now : Nat) : Bool :=
  (p.requested || p.expired) && !p.urgent && (p.action == 0 || p.action == 4) && decide (p.since + p.patience ≤ now)
/-- URGENT_PREEMPTION_TIMEOUT (12 R413). -/
def execUrgentPreemptionTimeout (core team : Nat) (s : State) : Host.Outcome State Fault Refusal :=
  match s.findTeam team with
  | none => .next s
  | some (c, x) =>
    if c = core && x.pre.overdue s.time then
      .next (s.modTeam team (fun x => { x with pre := { x.pre with urgent := true } }))
    else .next s
/-- DRAIN_TIMEOUT: a drain of 100 µs is followed by a save at once (12 R414). -/
def execDrainTimeout (core team : Nat) (s : State) : Host.Outcome State Fault Refusal :=
  match s.findTeam team with
  | none => .next s
  | some (c, x) =>
    if c = core && x.pre.action == 1 && decide (x.pre.since + 100000 ≤ s.time) && !x.slots.isEmpty && !s.masked c x then
      .next ((s.modTeam team (fun x => { x with pre := { x.pre with action := 2, urgent := true } })).stopTeam c x)
    else .next s
/-- TEAM_COMPLETION (03 R109). -/
def execTeamCompletion (core team : Nat) (s : State) : Host.Outcome State Fault Refusal :=
  match s.findTeam team with
  | none => .next s
  | some (c, x) => .next (if !(c = core && s.teamEnded c x) then s
      else if s.backsHeld c x then s.waitBacks c x else s.afterHolds ioDie (s.completeTeam team))

/-! ### Saved and flushed teams (12 R412, R414) -/

/-- Teams of gangs that hold no reservation: saved, or flushed and to be relaunched. -/
def State.away (s : State) : List (Gang × GangTeam) :=
  (s.gangs.map (fun g => (g.teams.filter (fun e => !e.reserved && !e.completed && !e.reported)).map (fun e => (g, e)))).flatten
/-- The core that can take such a team: the one whose agent has claimed its ticket; else, of a saved team, any of its
launch's partitions on which no other team of the gang is; of a flushed one, its own core in the gang's window, since the
neighbour rule is lifted for restores alone (01 R30, 12 R414). -/
def State.coreFor (s : State) (l : Launch) (g : Gang) (e : GangTeam) : Option Nat :=
  let held := if 2 ≤ s.launchClass l then s.sched.held else []
  let all := ((List.range 8).map (fun p => if bitAt l.parts p then s.partCores p else [])).flatten
  let mates := (g.teams.filter (fun o => o.team != e.team && !o.completed && !o.reported &&
    (o.reserved || !s.saved.any (fun v => v.team.id = o.team)))).map (·.core)
  let cs := if s.ticketState e.ticket = 1 then [e.core]
    else if s.saved.any (fun v => v.team.id = e.team) then all else [e.home]
  cs.find? (fun c => !mates.contains c && !held.contains c && fits s.loads (s.unfreed e.team l.kd) [c])
/-- SAVED_TEAM_RESTORE: the scheduler reserves a core, and its agent finds the ticket. -/
def execSavedTeamRestore (idx : Nat) (s : State) : Host.Outcome State Fault Refusal :=
  match s.away[idx]? with
  | none => .next s
  | some (g, e) =>
    match s.findLaunch g.launch with
    | none => .next s
    | some l =>
      match (if l.cancel then none else s.coreFor l g e) with
      | none => .next s
      | some c =>
        let t := (s.modGangTeam e.team (fun e => { e with core := c, reserved := true })).setTicketCore e.ticket c
        .next (s.afterHolds ioDie (t.wakeAgent c 0))

/-! ### Parked sub-groups (03 R96, 06 R213) -/

/-- PARKED_SUBGROUP_REPLAY. -/
def execParkedSubgroupReplay (core slot idx : Nat) (s : State) : Host.Outcome State Fault Refusal :=
  match (s.weave core slot).parked[idx]? with
  | none => .next s
  | some p => .next (if p.action.isSome then s.modWeave core slot (fun w => w.resume p) else s)

end Sys2Proof.Machine
end

