-- ==== Sys2Proof/Machine/System.lean ====
section
/-! DEFINITION. System, trap and scheduling instructions (12 R381 to R397) and the register accesses of
firmware as events of their own. -/

namespace Sys2Proof.Machine

/-! ### Fault queues (06 R212, R213; 10 R350, R351; 12 R388) -/

/-- The current record: the oldest not yet presented. -/
def currentRec (rs : List FaultRec) : Option FaultRec := rs.find? (fun r => !r.shown)
def FaultRec.word (r : FaultRec) (n : Nat) : DWord :=
  match n with
  | 0 => r.w0
  | 1 => r.w1
  | 2 => r.w2
  | _ => r.w3
/-- The current record has been presented; it stays open. -/
def presented (rs : List FaultRec) : List FaultRec :=
  match currentRec rs with
  | none => rs
  | some q => rs.map (fun r => if r.idx = q.idx then { r with shown := true } else r)
def State.nextFlt (s : State) (c : Nat) : State := s.modCore c (fun k => { k with flt := presented k.flt })
def State.nextEflt (s : State) (c : Nat) : State := s.modCore c (fun k => { k with eflt := presented k.eflt })
/-- Firmware's answer to the sub-groups of a record. -/
def answerParked (r : FaultRec) (act : Nat) (ps : List Parked) : List Parked :=
  ps.map (fun p => if p.record = r.idx ∧ p.action = none then { p with action := some act, posted := some r } else p)
def Weave.answer (r : FaultRec) (act : Nat) (w : Weave) : Weave :=
  { w with parked := answerParked r act w.parked,
           frame := w.frame.map (fun f => { f with parked := answerParked r act f.parked }) }
/-- A write to flt.ack (06 R213): one whose reserved bits are not zero, or of action 11, leaves the record
open. -/
def State.fltAck (s : State) (c v : Nat) : State :=
  let idx := v % 2 ^ 9
  let act := bitsAt v 12 2
  if bitsAt v 9 3 != 0 || v / 2 ^ 14 != 0 || act == 3 then s
  else match (s.core c).flt.find? (fun r => r.idx = idx) with
    | none => s
    | some r => s.modCore c (fun k => { k with
        flt := k.flt.filter (fun r => r.idx != idx),
        weaves := k.weaves.map (fun w => (w.1, w.2.answer r act)) })
/-- A write to eflt.ack (10 R351, 09 R314, 11 R376). -/
def State.efltAck (s : State) (c v : Nat) : State :=
  let idx := v % 2 ^ 11
  let act := bitsAt v 12 2
  if bitAt v 11 || v / 2 ^ 14 != 0 || act == 3 || !(s.core c).eflt.any (fun r => r.idx = idx) then s
  else if idx < 1024 then
    match (s.core c).cmds.find? (fun d => d.parked.any (fun p => p.record = idx && p.action.isNone)) with
    | none => s
    | some d =>
      if act = 0 then
        (s.modCmd c d.id (fun d => { d with parked := d.parked.map (fun p =>
          if p.record = idx && p.action.isNone then { p with action := some 0 } else p) })).modCore c (fun k =>
            { k with eflt := k.eflt.filter (fun r => r.idx != idx) })
      else s.endCmd c d (5 + act)
  else
    let s := s.modCore c (fun k => { k with eflt := k.eflt.filter (fun r => r.idx != idx) })
    if idx = 1026 then
      s.modDie (dieOf c) (fun d => { d with blocks := d.blocks.map (fun b =>
        if b.core = c ∧ b.fault then { b with action := some act } else b) })
    else match s.owner c with
      | none => s
      | some (t, _) => s.modTeam t (fun y => { y with matq := y.matq.map (fun m =>
          if m.fault && m.a1 == (idx == 1025) then { m with action := some act } else m) })

/-! ### System registers (12 R387, Table 4) -/

/-- LARDRW: group and time of the next window to open, which at fabric time 0 is that of group 0 at 0 (06 R200, Table
8). -/
def lardrw (now : Nat) : Nat :=
  let n := (now + 3999) / 4000
  n % 16 * 2 ^ 40 + (n * 4000) % 2 ^ 40
/-- SYNCEST (08 Table 11). -/
def Die.syncest (d : Die) : Nat :=
  min 65535 (d.syncs.filter (·.overflow)).length * 2 ^ 32 + (d.syncs.filter (fun e => !e.overflow)).length % 2 ^ 17
def Weave.trCtl (w : Weave) : Nat := bit w.trSkip * 4 + bit w.trM * 2 + bit w.trH
/-- Bits of a list of bank numbers. -/
def bankMask (bs : List Nat) : Nat := (bs.map (fun b => 2 ^ b)).sum
/-- A register that is not held per thread. flt.ack and eflt.ack only act on a write and read zero
(00 R7). -/
def State.sregRead (s : State) (c w n : Nat) : Nat :=
  let k := s.core c
  let x := k.weave w
  let a := s.agent c w
  let t := a.team.map s.team
  match n with
  | 0x000 => s.pkg * 2 ^ 48 + Config.arch * 2 ^ 32 + Config.stepping * 2 ^ 24 + c * 2 ^ 8
  | 0x001 => a.ctx
  | 0x002 => (s.context a.ctx).ptroot.toNat
  | 0x003 => k.bankrole.toNat
  | 0x004 => (t.map (fun t => bankMask (t.spadBanks ++ t.bufBanks ++ t.garBanks))).getD 0
  | 0x005 => lardrw s.time
  | 0x006 => (s.die (dieOf c)).hgen
  | 0x007 => (s.die (dieOf c)).syncest
  | 0x018 => (t.map (·.cpErr)).getD k.fwCpErr
  | 0x019 => (t.map (·.prog)).getD 0
  | 0x020 => x.trCause.toNat
  | 0x021 => x.trPc.toNat
  | 0x022 => x.trAmask.toNat
  | 0x023 => x.trFmask.toNat
  | 0x024 => x.trCtl
  | 0x025 => x.rfTrap.toNat
  | 0x026 => x.trPpc.toNat
  | 0x027 => x.trPva.toNat
  | 0x030 => (t.map (fun t => t.pre.sliceLeft s.time)).getD 0
  | 0x031 => (s.context a.ctx).slDebt
  | 0x040 | 0x041 | 0x042 | 0x043 => ((currentRec k.flt).map (fun r => (r.word (n - 0x040)).toNat)).getD 0
  | 0x048 | 0x049 | 0x04A | 0x04B => ((currentRec k.eflt).map (fun r => (r.word (n - 0x048)).toNat)).getD 0
  | 0x050 => k.fwTrap.toNat
  | _ => 0
/-- A register held per thread. -/
def Thread.sreg (t : Thread) (n : Nat) : Nat :=
  match n with
  | 0x010 => t.fpCtl.toNat
  | 0x011 => t.fpFlags.toNat
  | _ => t.rsCount.toNat
def Thread.setSreg (t : Thread) (n v : Nat) : Thread :=
  match n with
  | 0x010 => { t with fpCtl := BitVec.ofNat 32 v }
  | 0x011 => { t with fpFlags := BitVec.ofNat 32 v }
  | _ => { t with rsCount := BitVec.ofNat 32 v }
def perThreadReg (n : Nat) : Bool := n == 0x010 || n == 0x011 || n == 0x012
def remoteReg (n : Nat) : Bool := n == 0x005 || n == 0x006 || n == 0x007
/-- The writable fields of a register (05 Tables 2 to 4; 10 Table 6; 12 Tables 4 and 6). -/
def sregMask (n : Nat) : Nat :=
  match n with
  | 0x002 => 2 ^ 56 - 1
  | 0x010 => 0x11F
  | 0x011 => 0x1F
  | 0x012 => 2 ^ 32 - 1
  | 0x018 => 0xFF
  | 0x019 => 0xFFFF
  | 0x024 => 6
  | 0x050 => 2 ^ 64 - 1
  | _ => 0
/-- M of a weave's tr.ctl: the count of the watchdog starts where M becomes 1 (12 R385). -/
def Weave.setM (w : Weave) (m : Bool) (now : Nat) : Weave :=
  { w with trM := m, trSince := if m && !w.trM then now else w.trSince }
/-- Store a value in a register that is not held per thread. -/
def State.sregStore (s : State) (c w n v : Nat) : State :=
  let a := s.agent c w
  match n, a.team with
  | 0x002, _ => s.modContext a.ctx (fun x => { x with ptroot := BitVec.ofNat 64 v })
  | 0x018, some t => s.modTeam t (fun x => { x with cpErr := v })
  | 0x018, none => s.modCore c (fun k => { k with fwCpErr := v })
  | 0x019, some t => s.modTeam t (fun x => { x with prog := v })
  | 0x024, _ => s.modWeave c w (fun x => { x.setM (bitAt v 1) s.time with trSkip := bitAt v 2 })
  | 0x050, _ => s.modCore c (fun k => { k with fwTrap := BitVec.ofNat 64 v })
  | _, _ => s
/-- Any write to tr.ppc clears the poison record (12 Table 4). -/
def Weave.clearPoison (w : Weave) : Weave := { w with trPpc := 0, trPva := 0 }

/-! ### The mfs family (12 R390) -/

def mfsBody (x : Iss) (s : State) : Act :=
  let n := x.f.c.toNat
  let c := x.g.core
  let w := x.g.slot
  if perThreadReg n then
    .done (s.modThreads c w x.ex (fun l t => t.dest x.f.d (x.r.d.width x.f.b) ((x.th l).sreg n))) x.ex
  else if remoteReg n then
    .done (x.ex.foldl (fun s l => s.defer x l x.f.d (x.r.d.width x.f.b) (some (s.sregRead c w n)) 0) s) x.ex
  else
    let r := x.giveAll s (s.sregRead c w n)
    .done (if x.ex.isEmpty then r else if n = 0x040 then r.nextFlt c else if n = 0x048 then r.nextEflt c else r) x.ex
/-- 12 R390. -/
def execMfs (o : AForm) (s : State) : Host.Outcome State Fault Refusal := issue (.mfs o) mfsBody s

/-- A write by `h`, which makes the new value from the old one and the operand; `ack` for mts, the one
that flt.ack and eflt.ack take (06 R213, 10 R351). -/
def mtsBody (ack : Bool) (h : Nat → Nat → Nat) (x : Iss) (s : State) : Act :=
  let n := x.f.c.toNat
  let c := x.g.core
  let w := x.g.slot
  let m := sregMask n
  let new := fun (old a : Nat) => (h old a &&& m) ||| (old ^^^ (old &&& m))
  if perThreadReg n then
    .done (s.modThreads c w x.ex (fun l t => t.setSreg n (new (t.sreg n) (x.a l)))) x.ex
  else match x.ex with
    | [] => .done s []
    | l :: _ =>
      match x.differ (fun l => [x.a l]) with
      | k :: r => .trap s [] trapProt 0x22 (k :: r)
      | [] =>
        let v := x.a l
        .done (if n = 0x026 then s.modWeave c w Weave.clearPoison
          else if n = 0x044 then (if ack then s.fltAck c v else s)
          else if n = 0x04C then (if ack then s.efltAck c v else s)
          else s.sregStore c w n (new (s.sregRead c w n) v)) x.ex
/-- 12 R390. -/
def execMts (o : AForm) (s : State) : Host.Outcome State Fault Refusal := issue (.mts o) (mtsBody true (fun _ a => a)) s
/-- 12 R390. -/
def execMtsset (o : AForm) (s : State) : Host.Outcome State Fault Refusal :=
  issue (.mtsset o) (mtsBody false (fun old a => old ||| a)) s
/-- 12 R390. -/
def execMtsclr (o : AForm) (s : State) : Host.Outcome State Fault Refusal :=
  issue (.mtsclr o) (mtsBody false (fun old a => old ^^^ (old &&& a))) s

/-! ### Trap control (12 R384, R385, R391) -/

/-- Words of the instruction at tr.pc: an L-form has two. -/
def wordsAt (f : Fetched) : Nat :=
  match f with
  | .word v => if majorForm (majorOf v) = some .L && !isHeader v then 2 else 1
  | _ => 1
def tretBody (x : Iss) (s : State) : Act :=
  let c := x.g.core
  let w := x.g.slot
  if x.ex.isEmpty then .done s x.ex
  else if !(s.weave c w).trH then .trap s [] trapProt 0x23 x.ex
  else if !(s.weave c w).trSkip then .whole (s.modWeave c w (fun y => y.leave 1))
  else
    let at_ := (s.weave c w).trPc.toNat
    match s.fetchOn c w at_ (x.ex.findSome? (fun l => x.onWay l at_)) with
    | (s, .wait) => .wait s
    | (s, .lender q) => .done (s.holdFetch x.g { q with target := true }) []
    | (s, f) => .whole (s.modWeave c w (fun y => y.leave (wordsAt f)))
/-- 12 R384. -/
def execTret (o : AForm) (s : State) : Host.Outcome State Fault Refusal := issue (.tret o) tretBody s
/-- tmask and tunmask. -/
def maskBody (m : Bool) (x : Iss) (s : State) : Act :=
  if x.ex.isEmpty then .done s x.ex
  else if !(s.weave x.g.core x.g.slot).trH then .trap s [] trapProt 0x23 x.ex
  else .done (s.modWeave x.g.core x.g.slot (fun y => y.setM m s.time)) x.ex
/-- 12 R385, R391. -/
def execTmask (o : AForm) (s : State) : Host.Outcome State Fault Refusal := issue (.tmask o) (maskBody true) s
/-- 12 R385, R391. -/
def execTunmask (o : AForm) (s : State) : Host.Outcome State Fault Refusal := issue (.tunmask o) (maskBody false) s
/-- Every team of the issuing team's launch is flushed, and the launch ends (12 R391). -/
def State.abort (s : State) (t code : Nat) : State :=
  let l := (s.team t).launch
  (s.flushLaunch l).endLaunch l 3 (code % 256) 0
def tabortBody (x : Iss) (s : State) : Act :=
  match x.ex, (s.weave x.g.core x.g.slot).team with
  | l :: _, some t => x.held s (.whole (s.abort t (x.a l)))
  | _, _ => .done s x.ex
/-- 12 R391. -/
def execTabort (o : AForm) (s : State) : Host.Outcome State Fault Refusal := issue (.tabort o) tabortBody s

/-! ### Team tickets (12 R393) -/

/-- An instruction on the ticket that every executing lane names: its STATE must be one of `ok`, and its reserved fields
zero (00 R9), when it is first offered. Once accepted it waits until its action is complete; where no team stands for the
ticket any more, nothing is left to do (log entry 44). -/
def onTicket (ok : List Nat) (h : Iss → State → Nat → Gang × Nat × GangTeam → Act) : Iss → State → Act :=
  uniform 0x22 (fun x l => [x.a l]) (fun x s _ l =>
    if x.asked l || (s.ticketSound (x.a l) && ok.contains (s.ticketState (x.a l))) then
      x.inPlace none (match s.ticketTeam (x.a l) with
        | none => .done s x.ex
        | some e => x.held s (h x s (x.a l) e))
    else .trap s [] trapProt 0x24 x.ex)
/-- The agent no longer holds the ticket as claimed. -/
def State.unclaim (s : State) (c a : Nat) : State :=
  s.modCore c (fun k => { k with fwTickets := k.fwTickets.filter (fun b => b != a) })
/-- tmplace waits until the team's resources are reserved on the issuing core. -/
def placeBody : Iss → State → Act := onTicket [1] (fun x s a (g, i, e) =>
  if e.reserved && e.core == x.g.core && (s.findTeam e.team).isNone then
    match s.placeGangTeam g i e with
    | (s, true) => .done (s.unclaim x.g.core a) x.ex
    | (s, false) => .wait s
  else .wait s)
/-- 12 R393. -/
def execTmplace (o : AForm) (s : State) : Host.Outcome State Fault Refusal := issue (.tmplace o) placeBody s
/-- tmsave: the team stops, and is saved once it is quiet; a team that has exited completes instead
(12 R416), and one whose launch is cancelled is flushed (12 R407). -/
def saveBody : Iss → State → Act := onTicket [2] (fun x s _ (_, _, e) =>
  match s.findTeam e.team with
  | none => .done s x.ex
  | some (c, y) =>
    if y.slots.isEmpty then .done s x.ex
    else if s.masked c y || y.pre.action == 4 then .wait s
    else if !y.pre.stopping then
      .wait (((s.modTeam e.team (fun y => { y with pre := { y.pre with requested := true, urgent := true, action := 2 } })).endPauses c y).stopTeam c y)
    else
      let r := s.carrySave c y
      if (r.findTeam e.team).isNone then .done r x.ex else .wait r)
/-- 12 R393. -/
def execTmsave (o : AForm) (s : State) : Host.Outcome State Fault Refusal := issue (.tmsave o) saveBody s
/-- tmrest: on the core that the scheduler has reserved; it ends once the team's tenure has been granted
again. A check value that fails kills the context (12 R394). -/
def restBody : Iss → State → Act := onTicket [3] (fun x s a (g, _, e) =>
  match s.saved.find? (fun v => v.team.id = e.team) with
  | some v =>
    if !(e.reserved && e.core == x.g.core && s.roomFor e.core v) then .wait s
    else if !s.areaHolds v then .done (s.contextKill v.team.ctx 5 0) x.ex
    else
      let s := s.restoreTeam e.core v
      if s.granted e.team then .done ((s.resumeTeam e.team a g.started).unclaim x.g.core a) x.ex else .wait s
  | none =>
    if (s.findTeam e.team).isNone then .done s x.ex
    else if s.granted e.team then .done ((s.resumeTeam e.team a g.started).unclaim x.g.core a) x.ex
    else .wait s)
/-- 12 R393. -/
def execTmrest (o : AForm) (s : State) : Host.Outcome State Fault Refusal := issue (.tmrest o) restBody s
def flushBody (relaunch : Bool) : Iss → State → Act := onTicket [2, 3] (fun x s a (g, _, e) =>
  let go := Act.done (if relaunch then s.flushTeam e.team a true else (s.flushTeam e.team a false).settleGang g.id) x.ex
  match s.findTeam e.team with
  | some (c, y) => if s.backsHeld c y then .wait (s.waitBacks c y) else go
  | none => go)
/-- 12 R393. -/
def execTmflush (o : AForm) (s : State) : Host.Outcome State Fault Refusal := issue (.tmflush o) (flushBody true) s
/-- 12 R393. -/
def execTmkill (o : AForm) (s : State) : Host.Outcome State Fault Refusal := issue (.tmkill o) (flushBody false) s
/-- tkdone waits until the team has completed (03 R109, 07 R233, 09 R330, 10 R354). -/
def doneBody : Iss → State → Act := onTicket [2] (fun x s a (g, _, e) =>
  if e.completed then
    .done (((s.setTicketState a 4).modGangTeam e.team (fun e => { e with reported := true })).settleGang g.id) x.ex
  else .wait s)
/-- 12 R393. -/
def execTkdone (o : AForm) (s : State) : Host.Outcome State Fault Refusal := issue (.tkdone o) doneBody s

/-- The ticket that a claim by a core finds (12 R395): none of a counter whose reserved fields are not zero, nor one of which
that holds (00 R9). -/
def State.findTicket (s : State) (counter core : Nat) : Option Nat :=
  let w := fun (n : Nat) => s.readPhys (s.fabric (counter + 8 * n)) 8
  let slots := bitsAt (w 1) 0 17
  if w 1 / 2 ^ 17 != 0 || (List.range 4).any (fun n => w (4 + n) != 0) then none
  else ((List.range (w 2 - w 3)).map (fun i => w 0 + 64 * ((w 3 + i) % slots))).find? (fun a =>
    s.ticketSound a && s.ticketState a == 0 && bitsAt (s.ticketWord a 1) 18 8 == core)
def claimBody : Iss → State → Act := uniform 0x22 (fun x l => [x.a l]) (fun x s _ l =>
  match s.findTicket (x.a l) x.g.core with
  | none => .done (x.giveAll s 0) x.ex
  | some a =>
    let t := (s.setTicketState a 1).modCore x.g.core (fun k => { k with fwTickets := insertNat a k.fwTickets })
    x.held s (.done (x.giveAll t a) x.ex))
/-- 12 R395. -/
def execTkclaim (o : AForm) (s : State) : Host.Outcome State Fault Refusal := issue (.tkclaim o) claimBody s

/-! ### Time and events (12 R391, R395) -/

/-- 12 R391. -/
def execFtime (o : AForm) (s : State) : Host.Outcome State Fault Refusal :=
  issue (.ftime o) (perLane (fun x _ => { d := some (x.old.time % 2 ^ 64) })) s
/-- 12 R391. -/
def execRdcyc (o : AForm) (s : State) : Host.Outcome State Fault Refusal :=
  issue (.rdcyc o) (perLane (fun x _ => { d := some (x.old.cycles % 2 ^ 64) })) s
def idleBody (x : Iss) (s : State) : Act :=
  let e := (s.core x.g.core).fwEvents
  if x.ex.isEmpty then .done s x.ex
  else if e = 0 then .wait s
  else .done (x.giveAll (s.modCore x.g.core (fun k => { k with fwEvents := 0 })) e.toNat) x.ex
/-- 12 R395. -/
def execFwidle (o : AForm) (s : State) : Host.Outcome State Fault Refusal := issue (.fwidle o) idleBody s
def sevBody (x : Iss) (s : State) : Act :=
  match x.ex.filter (fun l => decide (143 < x.a l)) with
  | l :: t => .trap s [] trapProt 0x22 (l :: t)
  | [] => .done (x.ex.foldl (fun s l => s.wakeAgent (x.a l) 4) s) x.ex
/-- 12 R395. DEDUCED (log entry 79): a value above 143 is one of the whole operand. -/
def execFwsev (o : AForm) (s : State) : Host.Outcome State Fault Refusal := issue (.fwsev o) sevBody s

/-! ### qpost (12 R392) -/

/-- Put a packet into the ring of a queue and wake its thread. -/
def State.enqueue (s : State) (q : Nat) (bytes : List Byte) : State :=
  let d := s.queue q
  let widx := s.readPhys (s.fabric (d.word 3)) 8
  let s := s.writePhys (s.fabric (d.word 3)) 8 ((widx + 1) % 2 ^ 64)
  let s := s.writePhys (s.fabric (d.word 2 + 64 * (widx % 2 ^ d.logN))) 64 (leNat bytes)
  (s.intake q).beat q
def qpostBody : Iss → State → Act := uniform 0x22 (fun x l => [x.a l, x.b l]) (fun x s _ l =>
  let c := x.g.core
  let w := x.g.slot
  let q := x.b l % 64
  let d := s.queue q
  if x.b l / 64 ≠ 0 then .trap s [] trapProt 0x22 x.ex
  else if s.atomPending c w x.ex then .wait s
  else match x.checkOnce s { rd := true, align := 64, size := 64 } (x.a l) with
    | (s', .ok loc leaf) =>
      let s := s'.prepLoad c w { l := l, ea := x.a l, loc := loc, leaf := leaf } 64 true
      if s.anyPoison (loc.span 64) then .trap s [] trapPoison 0 x.ex
      else if !d.active || d.owner != x.agent.ctx || !bitAt (d.word 1) 3 then .done (x.giveAll s 2) x.ex
      else if 2 ^ d.logN ≤ s.readPhys (s.fabric (d.word 3)) 8 - d.word 4 then .done (x.giveAll s 1) x.ex
      else if !s.drained c w then .wait s'
      else x.held s (.done (x.giveAll (s.enqueue q ((loc.span 64).map (s.seenByte c w l))) 0) x.ex)
    | (s', k) => x.failAll s' false (x.a l) k)
/-- 12 R392. -/
def execQpost (o : AForm) (s : State) : Host.Outcome State Fault Refusal := issue (.qpost o) qpostBody s

/-! ### The same accesses as events, and the watchdog (12 R385, R388) -/

/-- FLT_REC0_READ. -/
def execFltRec0Read (core : Nat) (s : State) : Host.Outcome State Fault Refusal := .next (s.nextFlt core)
/-- EFLT_REC0_READ. -/
def execEfltRec0Read (core : Nat) (s : State) : Host.Outcome State Fault Refusal := .next (s.nextEflt core)
/-- FLT_ACK. -/
def execFltAck (core : Nat) (value : DWord) (s : State) : Host.Outcome State Fault Refusal :=
  .next (s.fltAck core value.toNat)
/-- EFLT_ACK. -/
def execEfltAck (core : Nat) (value : DWord) (s : State) : Host.Outcome State Fault Refusal :=
  .next (s.efltAck core value.toNat)
/-- TR_PPC_WRITE. -/
def execTrPpcWrite (core slot : Nat) (s : State) : Host.Outcome State Fault Refusal :=
  .next (s.modWeave core slot Weave.clearPoison)
/-- The watchdog of a masked handler has run out. -/
def State.barked (s : State) (w : Weave) : Bool :=
  w.team.isSome && w.trH && w.trM && decide (w.trSince + 2000 ≤ s.time)
/-- HANDLER_WATCHDOG_EXPIRY (12 R385). -/
def execHandlerWatchdogExpiry (core slot : Nat) (s : State) : Host.Outcome State Fault Refusal :=
  let w := s.weave core slot
  match w.team with
  | none => .next s
  | some t =>
    if s.barked w then
      .next (s.afterHolds core ((s.contextKill (s.team t).ctx 3 (w.trCause.toNat % 256)).wakeAgent core 5))
    else .next s

end Sys2Proof.Machine
end

