-- ==== Sys2Proof/Machine/Extents.lean ====
section
/-! DEFINITION. Extents and leases (13 R417 to R426), migration (R427), the fabric manager (R429), sessions
(R435) and the tile-window load of the house cores (R433). -/

namespace Sys2Proof.Machine

/-! ### The lease table (13 R417 to R422) -/

def extentBytes : Nat := 0x20000000
/-- First byte of extent `e` of package `p` (01 R26). -/
def extentBase (p e : Nat) : Nat := p * 2 ^ 46 + 0x100000000000 + e * extentBytes
def inExtent (p e pa : Nat) : Bool := decide (extentBase p e ≤ pa ∧ pa < extentBase p e + extentBytes)
/-- LEAD of LEASECTL in ns (13 Table 3). -/
def State.leadNs (s : State) : Nat := 1000 * bitsAt s.leasectl.toNat 32 16
def nextGen (g : Nat) : Nat := g % 15 + 1
/-- A message to another package or a port. -/
def State.send (s : State) (kind dest idx : Nat) : State := { s with sent := (kind, dest, idx) :: s.sent }
/-- A package that a request may name (13 Table 5, code 0x06). -/
def State.knows (s : State) (p : Nat) : Bool := s.enumerated && p != s.pkg && Config.inFabric p
/-- Table 1. The identifier of an entry that has never left FREE reads 0. -/
def Lease.read (l : Lease) (index : Nat) : Nat :=
  l.term * 2 ^ 64 + l.st * 2 ^ 61 + l.gen * 2 ^ 57 + l.peer * 2 ^ 47 + l.ext * 2 ^ 35 + l.pent * 2 ^ 23 +
    l.cause * 2 ^ 16 + (if l.gen = 0 then 0 else l.gen * 2 ^ 12 + index)

/-- Lines of an extent leave the lease cache, written back or discarded, and every copy under a hold is given up. -/
def State.leaveLines (s : State) (p e : Nat) (keep : Bool) : State :=
  let mine := s.lcache.filter (fun c => inExtent p e (c.line * 128))
  let s := if keep then mine.foldl State.lcFlush s
    else { s with lcache := s.lcache.filter (fun c => !inExtent p e (c.line * 128)) }
  s.dropHolds (fun h => inExtent p e (h.line * 128))
/-- A borrower entry becomes FREE for `cause`; lines still in the lease cache are written back, or
discarded where the lender is silent (13 Table 2). -/
def State.freeBorrower (s : State) (i cause : Nat) : State :=
  let b := s.borrower i
  let s := (s.leaveLines b.peer b.ext (cause != 3)).leaseShoot i
  let s := if b.st = 1 ∨ cause = 3 then s else s.modPeer b.peer (fun p => { p with revoked := insertNat b.ext p.revoked })
  s.modBorrower i (fun b => { b with
    st := 0, cause := cause, ask := none, released := false, answer := if b.ask.isSome && cause == 3 then some 7 else b.answer })
/-- A borrower entry starts to end: lease shootdown (13 Table 2; 06 R211). -/
def State.endBorrower (s : State) (i why : Nat) : State :=
  (s.modBorrower i (fun b => { b with st := 3, why := why, released := false })).leaseShoot i
/-- A lender entry becomes FREE for `cause`. -/
def State.freeLender (s : State) (e cause : Nat) : State :=
  { s.modLender e (fun l => { l with st := 0, cause := cause, byTerm := false }) with
    snoops := s.snoops.filter (fun x => !(decide (x.holder < 1024) && inExtent s.pkg e (x.line * 128))) }
/-- Tenure that touches an extent is recalled whole, once bound commands have no bytes of it in flight (07 R235, R245). -/
def State.recallTenure (s : State) (p e : Nat) : State :=
  if s.extentWaits (extentBase p e) extentBytes then s else s.recallExtent (extentBase p e) extentBytes
/-- A recall starts: steps 1 to 3 of 13 R421. -/
def State.beginRecall (s : State) (e : Nat) (byTerm : Bool) : State :=
  let s := s.modLender e (fun l => { l with st := 3, byTerm := byTerm })
  let s := s.recallTenure s.pkg e
  { s with snoops := s.snoops.map (fun x =>
      if decide (x.holder < 1024) && inExtent s.pkg e (x.line * 128) then x.send s.time else x) }
/-- The lender's term rule (13 R425). -/
def State.termOk (s : State) (e term : Nat) : Bool :=
  decide (s.time + s.leadNs < term ∧ term ≤ s.time + tabGet 0 e s.lendable)

/-! ### Instructions (13 R423 to R426) -/

/-- Each acts once, for operands equal in every executing lane; a reserved bit of an operand that is not
zero raises reason 0x06 (13 R424; log entry 47). -/
def leaseOp (wa wb : Nat) (ops : Iss → Nat → List Nat) (h : Iss → State → Nat → Act) (x : Iss) (s : State) : Act :=
  match x.ex.filter (fun l => 2 ^ wa ≤ x.a l || 2 ^ wb ≤ x.b l) with
  | l :: r => .trap s [] trapIllegal 6 (l :: r)
  | [] => uniform 0x22 ops (fun x s _ l => h x s l) x s
/-- The instruction completes and writes d. -/
def Iss.reply (x : Iss) (s : State) (v : Nat) : Act :=
  .done (x.giveAll s v) x.ex
/-- The instruction waits for what it has asked for. -/
def Iss.await (x : Iss) (s : State) : Act := x.eachMarked s (fun _ => true) (fun _ => none) (fun _ s => s)

/-- The answer to a request of a borrower entry, read once. -/
def Iss.answered (x : Iss) (s : State) (i : Nat) (h : Nat → Nat) : Act :=
  match (s.borrower i).answer with
  | some c => x.reply (s.modBorrower i (fun b => { b with answer := none })) (h c)
  | none => if (s.borrower i).ask.isSome then x.await s else x.reply s 1
def lsreqBody : Iss → State → Act := leaseOp 34 64 (fun x l => [x.a l, x.b l]) (fun x s l =>
  let peer := bitsAt (x.a l) 0 10
  let ext := bitsAt (x.a l) 10 12
  let i := bitsAt (x.a l) 22 12
  if x.asked l then
    x.answered s i (fun c => if c = 0 then ((s.borrower i).gen * 2 ^ 12 + i) * 2 ^ 16 else c)
  else if (s.borrower i).st ≠ 0 then x.reply s 1
  else if !s.knows peer then x.reply s 6
  else x.await ((s.modBorrower i (fun b => { b with
    st := 1, gen := nextGen b.gen, peer := peer, ext := ext, pent := 0, term := x.b l, since := s.time,
    ask := some (x.b l), answer := none })).send 1 peer i))
/-- 13 R425. DESIGN CHOICE (log entry 76): CAUSE goes on naming how the entry's last lease ended while the next one is PENDING
or ACTIVE. -/
def execLsreq (o : AForm) (s : State) : Host.Outcome State Fault Refusal := issueRow o.fields (rowLsreq o) lsreqBody s
/-- The entry that an identifier names, where it is ACTIVE with that generation. -/
def State.named (s : State) (id : Nat) : Bool :=
  let b := s.borrower (id % 2 ^ 12)
  b.st == 2 && b.gen == id / 2 ^ 12
def lsrenewBody : Iss → State → Act := leaseOp 16 64 (fun x l => [x.a l, x.b l]) (fun x s l =>
  let i := x.a l % 2 ^ 12
  if x.asked l then x.answered s i id
  else if !s.named (x.a l) then x.reply s 1
  else x.await ((s.modBorrower i (fun b => { b with since := s.time, ask := some (x.b l), answer := none })).send 2
    (s.borrower i).peer i))
/-- 13 R425. -/
def execLsrenew (o : AForm) (s : State) : Host.Outcome State Fault Refusal := issueRow o.fields (rowLsrenew o) lsrenewBody s
def lsdropBody : Iss → State → Act := leaseOp 16 32 (fun x l => [x.a l]) (fun x s l =>
  let i := x.a l % 2 ^ 12
  let b := s.borrower i
  if x.asked l then
    if b.st = 3 ∧ b.gen = x.a l / 2 ^ 12 then x.await s
    else x.reply s (if b.cause = 3 then 7 else 0)
  else if !s.named (x.a l) then x.reply s 1
  else x.await (s.endBorrower i 4))
/-- 13 R425. -/
def execLsdrop (o : AForm) (s : State) : Host.Outcome State Fault Refusal := issueRow o.fields (rowLsdrop o) lsdropBody s
def exlendBody : Iss → State → Act := leaseOp 12 64 (fun x l => [x.a l, x.b l]) (fun x s l =>
  .done { s with lendable := if x.b l = 0 then tabErase (x.a l) s.lendable else tabSet (x.a l) (x.b l) s.lendable } x.ex)
/-- 13 R426. -/
def execExlend (o : AForm) (s : State) : Host.Outcome State Fault Refusal := issueRow o.fields (rowExlend o) exlendBody s
def lsrecallBody : Iss → State → Act := leaseOp 12 32 (fun x l => [x.a l]) (fun x s l =>
  let e := x.a l
  let q := s.lender e
  if x.asked l then if q.st = 3 then x.await s else x.reply s (if q.cause = 3 then 7 else 0)
  else if q.st = 2 then x.await (s.beginRecall e false)
  else if q.st = 3 then x.await s
  else x.reply s 1)
/-- 13 R426. DESIGN CHOICE (log entry 77): it writes 0x00 too where the borrower's release ends the lease before the commit. -/
def execLsrecall (o : AForm) (s : State) : Host.Outcome State Fault Refusal := issueRow o.fields (rowLsrecall o) lsrecallBody s
def lsrdBody : Iss → State → Act := leaseOp 13 32 (fun x l => [x.a l]) (fun x s l =>
  let i := x.a l % 2 ^ 12
  .done (x.giveAll s ((if bitAt (x.a l) 12 then s.lender i else s.borrower i).read i)) x.ex)
/-- 13 R426. -/
def execLsrd (o : AForm) (s : State) : Host.Outcome State Fault Refusal := issueRow o.fields (rowLsrd o) lsrdBody s

/-! ### Protected sessions (13 R435; log entry 20) -/

/-- Key slots of a group that hold no active key. -/
def State.freeKeys (s : State) (group : Nat) : List Nat :=
  (List.range 64).filter (fun k => (tabFind (group * 64 + k) s.keys).isNone)
/-- The root of trust sets up a session: which free slot takes the key, and whether the peer answers and
agrees, are free values. -/
def State.openKey (s : State) (group peer : Nat) (ticket : Word) : State × Nat :=
  let free := s.freeKeys group
  let d := s.draw
  let k := free.getD (d.1.toNat / 4 % free.length) 0
  match d.1.toNat % 4 with
  | 0 => (d.2, 0x11)
  | 1 => (d.2, 5)
  | _ => ({ d.2 with keys := tabSet (group * 64 + k) (peer, ticket) d.2.keys }, (k * 8 + group) * 2 ^ 16)
def kyopenBody : Iss → State → Act := leaseOp 13 32 (fun x l => [x.a l, x.b l]) (fun x s l =>
  let group := x.a l % 8
  let peer := x.a l / 8
  if 4 < group then x.reply s 0x12
  else if !s.knows peer then x.reply s 6
  else if (s.freeKeys group).isEmpty then x.reply s 0x10
  else let r := s.openKey group peer (BitVec.ofNat 32 (x.b l)); x.reply r.1 r.2)
/-- 13 R435. DESIGN CHOICE (log entry 78): 0x12 comes before 0x06, and that before 0x10. -/
def execKyopen (o : AForm) (s : State) : Host.Outcome State Fault Refusal := issueRow o.fields (rowKyopen o) kyopenBody s
def kycloseBody : Iss → State → Act := leaseOp 9 32 (fun x l => [x.a l]) (fun x s l =>
  let n := x.a l % 8 * 64 + x.a l / 8
  if 4 < x.a l % 8 ∨ (tabFind n s.keys).isNone then x.reply s 0x12
  else x.reply { s with keys := tabErase n s.keys } 0)
/-- 13 R435. -/
def execKyclose (o : AForm) (s : State) : Host.Outcome State Fault Refusal := issueRow o.fields (rowKyclose o) kycloseBody s

/-! ### Fabric manager (13 R429; log entry 46) -/

/-- The role lease stands at fabric time `now`. -/
def FabricMgr.active (m : FabricMgr) (now : Nat) : Option Nat := m.manager.filter (fun _ => decide (now < m.expiry))
/-- What fmcand writes. -/
def State.fmWord (s : State) : Nat :=
  match s.fm.active s.time with
  | some p => p % 2 ^ 10 + (if p = s.pkg then 2 ^ 10 else 0) + 2 ^ 11
  | none => 0
/-- 13 R429. -/
def execFmcand (o : LForm) (s : State) : Host.Outcome State Fault Refusal :=
  issueRow o.fields (rowFmcand o) (fun x s =>
    if x.ex.isEmpty then .done s []
    else .done (x.giveAll { s with fm := { s.fm with priority := x.f.imm.toNat } } s.fmWord) x.ex) s
/-- The winner of an election among this package, where it is a candidate, and its strongest rival. -/
def State.fmWinner (s : State) : Option Nat :=
  let r := Config.fmRival s.fm.epoch
  let rival := if r.2 = 0 ∨ r.1 % 1024 = s.pkg then none else some (r.1 % 1024)
  match s.fm.priority, rival with
  | 0, q => q
  | _, none => some s.pkg
  | p, some q => if r.2 < p ∨ (p = r.2 ∧ s.pkg < q) then some s.pkg else some q
/-- FM_ROLE_LEASE_RENEW: the manager renews its role lease, or, with none active, the winner of the next
epoch takes it; this package needs a majority of candidates. -/
def execFmRoleLeaseRenew (acks : Nat) (s : State) : Host.Outcome State Fault Refusal :=
  let major := decide (Config.fmCandidates s.fm.epoch < 2 * acks)
  match s.fm.active s.time with
  | some p =>
    if s.time < s.fm.renewed + 100000 ∨ (p = s.pkg ∧ (!major ∨ s.fm.priority = 0)) then .next s
    else .next { s with fm := { s.fm with expiry := s.time + 1000000, renewed := s.time } }
  | none =>
    match s.fmWinner with
    | none => .next s
    | some p =>
      if p = s.pkg ∧ !major then .next s
      else .next { s with fm := { s.fm with
        manager := some p, expiry := s.time + 1000000, renewed := s.time, epoch := s.fm.epoch + 1, acked := s.fm.epoch } }
/-- FM_ROLE_LEASE_EXPIRY. -/
def execFmRoleLeaseExpiry (s : State) : Host.Outcome State Fault Refusal :=
  if s.fm.manager.isSome ∧ s.fm.expiry ≤ s.time then .next { s with fm := { s.fm with manager := none } } else .next s

/-! ### Migration (13 R427; log entry 48) -/

/-- A local physical address names this package. -/
def State.exmigAddr (s : State) (a : Nat) : Nat := if a < 2 ^ 46 then s.fabric a else a
/-- The detail with which a range of exmig is refused. -/
def State.exmigRange (s : State) (a n : Nat) : Option Nat :=
  let z := a + n - 1
  let rs := [localRegion (localAddr a), localRegion (localAddr z)]
  if 2 ^ 56 ≤ z ∨ rs.contains .reserved then some 2
  else if larderAddr a || larderAddr z then some 6
  else if pkgAddr a ≠ pkgAddr z then some 0x1C
  else match extentOf a, extentOf z with
    | some e, some f =>
      if s.isLocal a || (List.range (f - e + 1)).all (fun i => s.borrowed (extentBase (pkgAddr a) (e + i))) then none
      else some 0x1C
    | _, _ => if s.isLocal a && rs == [.hbm, .hbm] then none else some 0x1C
def exmigBody : Iss → State → Act := uniform 0x1D (fun x l => [x.d l, x.a l, x.b l]) (fun x s team l =>
  let n := x.d l
  let src := s.exmigAddr (x.a l)
  let dst := s.exmigAddr (x.b l)
  if x.a l % 524288 ≠ 0 ∨ x.b l % 524288 ≠ 0 ∨ n % 524288 ≠ 0 ∨ n = 0 ∨ 2 ^ 39 < n then prot x s 0x1C
  else match s.exmigRange src n, s.exmigRange dst n with
    | some d, some e => prot x s (min d e)
    | some d, none => prot x s d
    | none, some d => prot x s d
    | none, none =>
      if meet src n dst n then prot x s 0x1C
      else x.post s { x.engCmd team .exmig with len := n, src := src, dst := dst })
/-- 13 R427. -/
def execExmig (o : XForm) (s : State) : Host.Outcome State Fault Refusal := issueRow o.fields (rowExmig o) exmigBody s

/-! ### The house cores' tile-window load (13 R433; log entry 16) -/

def State.house (s : State) (n : Nat) : House := tabGet {} n s.houses
def State.modHouse (s : State) (n : Nat) (f : House → House) : State := { s with houses := tabSet n (f (s.house n)) s.houses }
/-- Register x0 reads zero. -/
def House.xreg (h : House) (n : Nat) : Nat := if n = 0 then 0 else (tabGet 0 n h.x).toNat
/-- A house core takes an exception. -/
def House.except (h : House) (cause : Nat) : House :=
  { h with mepc := h.pc, mcause := BitVec.ofNat 64 cause, mtval := 0, waiting := false,
           pc := BitVec.ofNat 64 (h.mtvec.toNat / 4 * 4) }
/-- The team and the number of the slot that a physical tile slot of a core serves. -/
def Core.physSlot (k : Core) (phys : Nat) : Option (Nat × Nat) :=
  k.teams.findSome? (fun t => (t.2.phys.findIdx? (· == phys)).map (fun i => (t.1, i)))
/-- 13 R433: elements from vstart on are loaded, as vle would; a register group is aligned as LMUL says. -/
def execTwlV (vd rs1 rs2 : BitVec 5) (s : State) : Host.Outcome State Fault Refusal :=
  let n := s.cur.house
  let h := s.house n
  let off := h.xreg rs2.toNat
  let eb := h.sew / 8
  match tabFind (h.xreg rs1.toNat % 16) s.windows with
  | none => .next (s.modHouse n (fun h => h.except 2))
  | some (core, phys) =>
    if vd.toNat % (max 1 h.lmul) ≠ 0 then .next (s.modHouse n (fun h => h.except 2))
    else if off % eb ≠ 0 then .next (s.modHouse n (fun h => h.except 5))
    else match (s.core core).physSlot phys with
      | none => .next (s.modHouse n (fun h => { h with waiting := true }))
      | some (t, i) =>
        let q := (s.team t).tslot i
        if q.st ≠ .ready then .next (s.modHouse n (fun h => { h with waiting := true }))
        else if q.len < off + h.vl * eb then .next (s.modHouse n (fun h => h.except 5))
        else
          let bytes := (s.team t).bufRead (q.base.getD 0 + off) (h.vl * eb)
          .next (s.modHouse n (fun h => { h with
            v := ((bytes.zipIdx (vd.toNat * (Config.houseVlen + 1))).drop (h.vstart * eb)).foldl (fun m e => tabPut 0 e.2 e.1 m) h.v,
            pc := h.pc + 4, vstart := 0, waiting := false }))

/-! ### Events of the lease protocol (13 R419 to R425; log entry 19) -/

/-- LEASE_REQUEST_RECEIVED: the lender grants or refuses at once. `flags` 1 is a renewal. -/
def execLeaseRequestReceived (msg : LeaseMsg) (s : State) : Host.Outcome State Fault Refusal :=
  let e := msg.extent % 4096
  let q := s.lender e
  let lend := tabGet 0 e s.lendable != 0
  if msg.peer = s.pkg ∨ 1024 ≤ msg.peer then .next s
  else if msg.flags = 1 then
    if q.st ≠ 2 ∨ q.peer ≠ msg.peer then .next (s.send 8 msg.peer 1)
    else if !lend || !s.termOk e msg.term then .next (s.send 8 msg.peer 4)
    else .next ((s.modLender e (fun l => { l with term := msg.term % 2 ^ 64 })).send 7 msg.peer e)
  else if !lend then .next (s.send 8 msg.peer 2)
  else if q.st ≠ 0 then .next (s.send 8 msg.peer 3)
  else if !s.termOk e msg.term then .next (s.send 8 msg.peer 4)
  else .next (((s.modLender e (fun l => { l with
      st := 2, gen := nextGen l.gen, peer := msg.peer, ext := e, pent := msg.entry % 4096, term := msg.term % 2 ^ 64,
      byTerm := false })).modPeer msg.peer (fun p => { p with heard := s.time, sent := s.time })).send 7 msg.peer e)
/-- LEASE_GRANT_RECEIVED: the lender's answer to a request or a renewal. -/
def execLeaseGrantReceived (msg : LeaseMsg) (s : State) : Host.Outcome State Fault Refusal :=
  let i := msg.entry % 4096
  let b := s.borrower i
  let own := b.ask.isSome && b.peer == msg.peer && b.ext == msg.extent && b.gen == msg.gen
  match b.ask with
  | none => .next s
  | some t =>
    if !own then .next s
    else if b.st = 1 then
      if msg.granted then
        .next ((s.modBorrower i (fun b => { b with
            st := 2, term := t, pent := b.ext, ask := none, answer := some 0, granted := s.time })).modPeer
          b.peer (fun p => { p with heard := s.time, sent := s.time, revoked := p.revoked.filter (· != b.ext) }))
      else .next ((s.modBorrower i (fun b => { b with st := 0, ask := none, answer := some msg.code })).hears b.peer)
    else if b.st = 2 then
      .next ((s.modBorrower i (fun b => { b with
        term := if msg.granted then t else b.term, ask := none, answer := some (if msg.granted then 0 else msg.code) })).hears b.peer)
    else .next s
/-- LEASE_REPLY_TIMEOUT. -/
def execLeaseReplyTimeout (entry : Nat) (s : State) : Host.Outcome State Fault Refusal :=
  let b := s.borrower entry
  if b.ask.isNone ∨ s.time < b.since + 50000 then .next s
  else .next (s.modBorrower entry (fun b => { b with
    st := if b.st = 1 then 0 else b.st, ask := none, answer := some 5 }))
/-- BORROWER_LEASE_END; and once its lender is about to commit a recall, tenure of this package in the extent is recalled first
(07 R245; log entry 19). -/
def execBorrowerLeaseEnd (entry : Nat) (s : State) : Host.Outcome State Fault Refusal :=
  let b := s.borrower entry
  if b.st = 2 ∧ b.term ≤ s.time + s.leadNs then .next (s.endBorrower entry 1)
  else if s.lenderReady entry then .next (s.recallTenure b.peer b.ext)
  else .next s
/-- ENDING_WRITEBACK_DONE: the lines are written back and the release goes out; once the lender acknowledges it the entry
is FREE. -/
def execEndingWritebackDone (entry : Nat) (s : State) : Host.Outcome State Fault Refusal :=
  let b := s.borrower entry
  if b.st ≠ 3 then .next s
  else if !b.released then
    .next (((s.leaveLines b.peer b.ext true).modBorrower entry (fun b => { b with released := true })).send 3 b.peer entry)
  else if Config.peerAnswers s.time b.peer then .next (s.freeBorrower entry b.why)
  else .next s
/-- LEASE_REVOKE_RECEIVED: while bound commands have bytes of the extent in flight it is kept (07 R235). -/
def execLeaseRevokeReceived (entry : Nat) (s : State) : Host.Outcome State Fault Refusal :=
  let b := s.borrower entry
  let s' : State := { s with kept := s.kept.erase (.revoke entry) }
  if b.st = 2 ∨ b.st = 3 then
    if s.extentWaits (extentBase b.peer b.ext) extentBytes then
      .next (if s.kept.contains (.revoke entry) then s else { s with kept := s.kept ++ [.revoke entry] })
    else .next ((s'.recallExtent (extentBase b.peer b.ext) extentBytes).freeBorrower entry 2)
  else .next s'
/-- LENDER_TERM_EXPIRY. -/
def execLenderTermExpiry (extent : Nat) (s : State) : Host.Outcome State Fault Refusal :=
  let q := s.lender extent
  if q.st = 2 ∧ q.term ≤ s.time then .next (s.beginRecall extent true) else .next s
/-- LEASE_RELEASE_RECEIVED: whether the borrower's entry had expired or was dropped is the borrower's to
know (13 Table 2: CAUSE 1 or 4). -/
def execLeaseReleaseReceived (extent : Nat) (s : State) : Host.Outcome State Fault Refusal :=
  let q := s.lender extent
  if q.st = 2 ∨ q.st = 3 then
    let d := s.draw
    .next (d.2.freeLender extent (if d.1.getLsbD 0 then 4 else 1))
  else .next s
/-- BACK_INVALIDATE_SNOOP: as borrower, the line of the entry's extent is written back and every copy is
given up; as lender, the borrower's answer to a snoop of this package arrives, its data having arrived
before as a write. -/
def execBackInvalidateSnoop (entry line : Nat) (s : State) : Host.Outcome State Fault Refusal :=
  if s.isLocal (line * 128) then
    match s.snoops.find? (fun x => x.line = line && x.pending) with
    | none => .next s
    | some x =>
      let s : State := { s with snoops := s.snoops.erase x }
      .next (if x.holder < 1024 then s.hears x.holder else s)
  else
    let b := s.borrower entry
    if (b.st = 2 ∨ b.st = 3) ∧ inExtent b.peer b.ext (line * 128) then
      let s := (s.lcache.filter (fun c => c.line = line)).foldl State.lcFlush s
      .next (s.dropHolds (fun h => h.line == line))
    else .next s
/-- RECALL_COMMIT: step 4 of 13 R421. -/
def execRecallCommit (extent : Nat) (s : State) : Host.Outcome State Fault Refusal :=
  let q := s.lender extent
  if q.st ≠ 3 ∨ s.snoops.any (fun x => x.pending && decide (x.holder < 1024) && inExtent s.pkg extent (x.line * 128)) ∨
      s.extentWaits (extentBase s.pkg extent) extentBytes then
    .next s
  else
    .next (((s.recallExtent (extentBase s.pkg extent) extentBytes).freeLender extent (if q.byTerm then 1 else 2)).send 4
      q.peer q.pent)
/-- An ACTIVE lease with a peer. -/
def State.leased (s : State) (p : Nat) : Bool :=
  s.lenders.any (fun l => l.2.peer == p && l.2.st == 2) || s.borrowers.any (fun b => b.2.peer == p && b.2.st == 2)
/-- LEASE_KEEPALIVE: one arrives, or one is due and is sent. -/
def execLeaseKeepalive (peer : Nat) (received : Bool) (s : State) : Host.Outcome State Fault Refusal :=
  if received then .next (s.hears peer)
  else if s.leased peer ∧ (s.peer peer).sent + 10000 ≤ s.time then
    .next ((s.modPeer peer (fun p => { p with sent := s.time })).send 5 peer 0)
  else .next s
/-- Entries that end when a peer falls silent: a PENDING one whose request has stood for 50 µs. -/
def State.silentBorrowers (s : State) (p : Nat) : List Nat :=
  (s.borrowers.filter (fun b => b.2.peer == p && (b.2.st == 2 || b.2.st == 3 ||
    (b.2.st == 1 && decide (b.2.since + 50000 ≤ s.time))))).map (·.1)
def State.silentLenders (s : State) (p : Nat) : List Nat :=
  (s.lenders.filter (fun l => l.2.peer == p && (l.2.st == 2 || l.2.st == 3))).map (·.1)
/-- A peer falls silent: nothing has come from it for 50 µs, or it has left a snoop unanswered for as long (13 R420, R421). -/
def State.silent (s : State) (p : Nat) : Bool :=
  decide ((s.peer p).heard + 50000 ≤ s.time) ||
    s.snoops.any (fun x => x.holder == p && x.pending && decide (x.asked + 50000 ≤ s.time))
/-- PEER_SILENT (13 R420): lines held for modification are poisoned, and firmware learns of it. -/
def execPeerSilent (peer : Nat) (s : State) : Host.Outcome State Fault Refusal :=
  let bs := s.silentBorrowers peer
  let ls := s.silentLenders peer
  if !s.silent peer ∨ (bs.isEmpty ∧ ls.isEmpty) then .next s
  else
    let lost := s.snoops.filter (fun x => x.holder = peer && x.modified)
    let s := bs.foldl (fun s i => s.freeBorrower i 3) s
    let s := lost.foldl (fun s x => (List.range 4).foldl (fun s i => s.setPoison (x.line * 128 + i * 32) true) s) s
    let s := { s with snoops := s.snoops.filter (fun x => x.holder != peer) }
    let s := ls.foldl (fun s e => s.freeLender e 3) s
    .next { s with reports := (bs ++ ls).map (fun _ => (1, peer)) ++ s.reports }
/-- LEASECTL_WRITE (13 R422, Table 3). -/
def leasectlMask : DWord := 0x0000FFFF003FF7FF
def State.writeLeasectl (s : State) (v : DWord) : State :=
  if s.borrowers.any (fun b => b.2.st != 0) then s else { s with leasectl := v &&& leasectlMask }
def execLeasectlWrite (value : DWord) (s : State) : Host.Outcome State Fault Refusal := .next (s.writeLeasectl value)

end Sys2Proof.Machine
end

