-- ==== Sys2Proof/Machine/Stores.lean ====
section
/-! DEFINITION. Stores on their way to memory (08 R257, R260 to R263, R266, R267, R282; 07 R250, R251),
results on their way back (02 R55), and writes to the registers of the package. -/

namespace Sys2Proof.Machine

/-! ### Registers of the package -/

/-- What firmware has configured takes effect (log entry 66). -/
def State.configure (s : State) (q : Nat × Nat × Nat) : State :=
  let ring := fun (f : Ether → Ether) =>
    if q.2.1 < 4 then { s with ether := tabSet q.2.1 (f (tabGet {} q.2.1 s.ether)) s.ether } else s
  match fwKind q.1 with
  | none => s
  | some .power => { s with powerLimit := min q.2.2 4000000 }
  | some .ringBase => ring (fun e => { e with base := q.2.2, pos := 0, recs := [] })
  | some .ringSize => ring (fun e => { e with size := q.2.2, pos := 0, recs := [] })
  | some .ringLimit => ring (fun e => { e with limit := q.2.2 })
  | some .window =>
    if 16 ≤ q.2.1 then s
    else if q.2.2 = 0 then { s with windows := tabErase q.2.1 s.windows }
    else { s with windows := tabSet q.2.1 ((q.2.2 - 1) % Config.cores, (q.2.2 - 1) / Config.cores) s.windows }
  | some .tag => { s with tags := tabPut 0 q.2.1 (BitVec.ofNat 32 q.2.2) s.tags }
  | some .standby => { s with sched := { s.sched with standby := q.2.2 % 64 } }
/-- A 64-bit value written to the register at a local address that is a multiple of 8 (12 R394, R396, R403,
R407, R409; 13 R422; 00 R7). -/
def State.devWrite (s : State) (a : Nat) (v : DWord) : State :=
  match devReg a with
  | .notify q => s.notifyQueue q
  | .control q => if v = 1 then s.activateQueue q else if v = 2 then s.destroyQueue q else s
  | .descriptor q w => s.writeDescriptor q w v
  | .saveBase => { s with qpsaveb := v }
  | .saveLen => { s with qpsavel := v }
  | .tickets p => { s with qptkc := tabPut 0 p v s.qptkc, posted := tabErase p s.posted,
                           tampered := s.tampered.filter (· != p) }
  | .partmap i => s.writePartmap i v
  | .leasectl => s.writeLeasectl v
  | .other a => { s with devregs := tabPut 0 a v s.devregs }.configure (Config.fwRegister a v.toNat)
/-- Replace one byte of a 64-bit value. -/
def putByteOf (v : DWord) (i : Nat) (b : Byte) : DWord :=
  (v &&& ~~~(0xFF#64 <<< (8 * i))) ||| ((b.setWidth 64) <<< (8 * i))
/-- What a register holds, reserved bits that a store has set in a descriptor included: activation finds them
(00 R9, 12 R403). -/
def State.devHeld (s : State) (a : Nat) : DWord :=
  match devReg a with
  | .descriptor q w => (s.queue q).words.getD w 0
  | _ => s.devRead a
/-- Bytes written to registers: each 64-bit register once. -/
def State.devStore (s : State) (bs : List (Nat × Byte)) : State :=
  ((bs.map (fun b => b.1 / 8 * 8)).dedup).foldl (fun s a =>
    s.devWrite a ((bs.filter (fun b => b.1 / 8 * 8 = a)).foldl (fun v b => putByteOf v (b.1 % 8) b.2) (s.devHeld a))) s
/-- REGISTER_WRITE. -/
def execRegisterWrite (addr : Nat) (value : DWord) (s : State) : Host.Outcome State Fault Refusal :=
  .next (s.orKept (.register addr value) (if localRegion addr = .regs then s.devWrite (addr / 8 * 8) value else s))

/-! ### Step 2 of 08 R257 -/

/-- STORE_QUEUE_DRAIN: the oldest entry of a weave's queue becomes visible to its core. -/
def execStoreQueueDrain (core slot : Nat) (s : State) : Host.Outcome State Fault Refusal :=
  match (s.weave core slot).storeq with
  | [] => .next s
  | e :: t =>
    let s := s.modWeave core slot (fun x => { x with storeq := t }.takeIn)
    let s := s.modCore core (fun k => { k with pending := k.pending ++ [e] })
    .next (s.entryConflicts core e (fun c w => c == core && w != slot))

/-! ### Step 3 -/

def StoreEnt.shares (a b : StoreEnt) : Bool := a.bytes.any (fun x => b.bytes.any (fun y => x.loc == y.loc))
/-- Every entry that must be performed before this one has been: those with a common byte; for a release
all that its core has made visible (08 R263); for a device those of its weave to devices (R267). A place
whose team is away, or a line that a borrower or a host holds, keeps it waiting. -/
def State.entryReady (s : State) (core idx : Nat) (e : StoreEnt) : Bool :=
  let early := (s.core core).pending.take idx
  !early.any (fun d => d.shares e || (e.dev.isSome && d.dev.isSome && d.slot == e.slot)) &&
    (!e.rel || early.isEmpty) &&
    !e.bytes.any (fun b => s.awayLoc b.loc || s.snooped b.loc || s.recallWaits e.team true b.loc 1)
def StoreByte.reg (b : StoreByte) : Option Nat :=
  match b.loc with
  | .mem pa => if regsAddr pa then some pa else none
  | .spad _ _ => none
/-- An entry is performed at its homes: visible at once to every other core and agent. -/
def State.performEntry (s : State) (core idx : Nat) (e : StoreEnt) : State :=
  let s := s.modCore core (fun k => { k with pending := k.pending.eraseIdx idx })
  let plain := e.bytes.filter (fun b => b.reg.isNone)
  let regs := e.bytes.filterMap (fun b => b.reg.bind (fun pa => if s.isLocal pa then some (localAddr pa, b.val) else none))
  let s := s.touchAll (plain.map (·.loc))
  let s := ((plain.map (fun b => b.loc.sector)).dedup).foldl (fun s l => s.recallSpan e.team true l 1) s
  let s := if e.sync then ((plain.map (·.loc)).foldl (fun s l => match l with
    | .mem pa => s.syncTouch pa none e.team
    | .spad _ _ => s) s) else s
  let s := plain.foldl (fun s b => s.putByte b.loc b.val) s
  ((s.devStore regs).entryConflicts core e (fun c _ => c != core)).noteWrite (plain.map (·.loc))
/-- A pending entry that is ready is performed; one that waits for a copy held by a borrower or a host sends the
snoop (13 R422). What a write to a register of the package sets off waits for holds too (07 R251). -/
def State.tryPerform (s : State) (core idx : Nat) (e : StoreEnt) (holds : Bool) : State :=
  if s.entryReady core idx e then
    if holds && e.bytes.any (fun b => s.heldLoc core b.loc) then
      (s.modCore core (fun k => { k with pending := k.pending.set idx { e with held := true } })).waitLines (e.bytes.map (·.loc))
    else if e.bytes.any (fun b => b.reg.isSome) then s.afterHolds core (s.performEntry core idx e)
    else s.performEntry core idx e
  else e.bytes.foldl (fun s b => s.snoop b.loc) s
/-- STORE_PERFORMED: an entry whose line is under holds of other cores waits at its home (07 R251). -/
def execStorePerformed (core idx : Nat) (s : State) : Host.Outcome State Fault Refusal :=
  match (s.core core).pending[idx]? with
  | none => .next s
  | some e => if e.held || e.sync then .next s else .next (s.tryPerform core idx e true)
/-- WRITE_AFTER_HOLDS. -/
def execWriteAfterHolds (core idx : Nat) (s : State) : Host.Outcome State Fault Refusal :=
  match (s.core core).pending[idx]? with
  | none => .next s
  | some e => if e.held then .next (s.tryPerform core idx e true) else .next s
/-- SYNC_ENGINE_UPDATE: the engine applies a store to its half-lines and every sharer takes the bytes. -/
def execSyncEngineUpdate (core idx : Nat) (s : State) : Host.Outcome State Fault Refusal :=
  match (s.core core).pending[idx]? with
  | none => .next s
  | some e => if e.sync then .next (s.tryPerform core idx e false) else .next s
/-- HOLD_EXPIRY: the copy is invalid; a thread that speculates on the line it kept is rolled back
(07 R250, 08 R293). -/
def execHoldExpiry (idx : Nat) (s : State) : Host.Outcome State Fault Refusal :=
  match s.holds[idx]? with
  | none => .next s
  | some h =>
    if h.live s.time then .next s
    else .next (s.dropHolds (fun x => x == h))

/-! ### Deferred results (02 R55) -/

/-- DEFERRED_RESULT_ARRIVAL. -/
def execDeferredResultArrival (core idx : Nat) (s : State) : Host.Outcome State Fault Refusal :=
  match (s.core core).deferred[idx]? with
  | none => .next s
  | some d =>
    .next (((s.modCore core (fun k => { k with deferred := k.deferred.eraseIdx idx })).modWeave core d.slot
      (fun w => w.land d)).freeWeave core d.slot)

end Sys2Proof.Machine
end

