-- ==== Sys2Proof/Machine/Fabric.lean ====
section
/-! DEFINITION. The package among others: Garef links, attached hosts, Ethernet, accesses from outside, start
paths, firmware and telemetry (13 R430 to R438; 01 R24, R25; 07 R252, R253), and events of the cores that
no other file holds. -/

namespace Sys2Proof.Machine

/-! ### Garef links (13 R430) -/

def State.modGaref (s : State) (port : Nat) (f : Garef → Garef) : State :=
  if port < 96 then { s with garef := tabSet port (f (tabGet {} port s.garef)) s.garef } else s
/-- GAREF_WINDOW_ADVERTISE: 0 to 640 flits on one of the 4 channels. -/
def execGarefWindowAdvertise (port channel flits : Nat) (s : State) : Host.Outcome State Fault Refusal :=
  .next (if flits ≤ 640 then s.modGaref port (fun g => { g with window := g.window.set channel flits }) else s)
/-- GAREF_PAUSE. -/
def execGarefPause (port channel : Nat) (pause : Bool) (s : State) : Host.Outcome State Fault Refusal :=
  .next (s.modGaref port (fun g => { g with paused := g.paused.set channel pause }))
/-- A flit that arrives: the one expected passes or is refused; after 16 resends that fail the link is
retrained. -/
def Garef.flit (g : Garef) (seq : Nat) (good : Bool) : Garef :=
  if g.training || g.down.isSome || seq != g.expect then g
  else if good then { g with expect := g.expect + 1, resend := 0, refused := false }
  else if !g.refused then { g with refused := true }
  else { g with resend := g.resend + 1, training := decide (16 ≤ g.resend + 1) }
/-- A lifetime counter: 0 of cold starts, 1 of warm ones, 2 of link replays, 3 of retrains, 5 of powered hours, 6 the
temperature, 7 of errors that ECC has corrected, from 512 on a histogram of temperatures, and from 1024 on of errors that ECC cannot
correct, by unit (13 R438; log entry 20). -/
def State.count (s : State) (n k : Nat) : State := { s with counters := tabSet n (tabGet 0 n s.counters + k) s.counters }
/-- GAREF_FLIT_RECEIVE: a refused flit is replayed, and a link that fails retrains. -/
def execGarefFlitReceive (port seq : Nat) (good : Bool) (s : State) : Host.Outcome State Fault Refusal :=
  let g := tabGet {} port s.garef
  let h := g.flit seq good
  let s' := s.modGaref port (fun _ => h)
  .next (if decide (96 ≤ port) || good || h == g then s' else (s'.count 2 1).count 3 (if h.training then 1 else 0))
/-- GAREF_LINK_DOWN: the link is down; after 1 ms firmware learns of it. -/
def execGarefLinkDown (port : Nat) (s : State) : Host.Outcome State Fault Refusal :=
  match (tabGet {} port s.garef).down with
  | none => .next (s.modGaref port (fun g => { g with down := some s.time }))
  | some t =>
    if (tabGet {} port s.garef).reported || decide (s.time < t + 1000000) then .next s
    else .next { s.modGaref port (fun g => { g with reported := true }) with reports := (2, port) :: s.reports }
/-- GAREF_RETRAIN_COMPLETE: the link replays from the flit that failed. -/
def execGarefRetrainComplete (port : Nat) (s : State) : Host.Outcome State Fault Refusal :=
  .next (s.modGaref port (fun g => { g with training := false, down := none, reported := false, resend := 0 }))

/-! ### Accesses from outside (13 R421, R431, R434; 01 R26) -/

/-- A holder of copies: a borrower's package number, or 1024 + port of a host. -/
def hostHolder (port : Nat) : Nat := 1024 + port
/-- The response to an access: an error where `ok` is false. -/
def State.respond (s : State) (ok : Bool) (source v : Nat) : State := s.send (if ok then 9 else 10) source v
/-- The snoop filter of the lender notes a borrower's copy while its entry is ACTIVE (13 R421). -/
def State.noteCopy (s : State) (source line : Nat) (wr : Bool) : State :=
  { s with snoops := s.snoops.filter (fun x => !(x.line = line && x.holder = source)) ++
      [{ line := line, holder := source, modified := wr }] }
/-- How an access from outside is met: none it is served, else it is refused. -/
def State.peerRefused (s : State) (q : PeerReq) : Bool :=
  let a := localAddr q.addr
  let gone := match q.kind, localRegion a with
    | .borrower, .cellar e => !((s.lender e).st == 2 || (s.lender e).st == 3) || (s.lender e).peer != q.source
    | .borrower, _ => true
    | .host, _ => decide (4 ≤ q.source)
    | _, _ => false
  localRegion a == .reserved || localRegion (a + (q.size - 1)) != localRegion a || gone || (q.size == 0) ||
    (List.range q.size).any (fun i => s.tag (q.addr + i) != 0 && s.tag (q.addr + i) != BitVec.ofNat 32 q.ticket)
/-- The owner of another package's address changes its memory: a line of the lease cache goes back first, tenure there is
recalled, and a range that a team has registered takes the bytes in its scratchpad (06 R195; 07 R240; 13 R422; log entry 19). The write waits
for holds. -/
def State.remoteChange (s : State) (req : PeerReq) : State :=
  match req.data with
  | none => s
  | some bs =>
    let ls := (List.range req.size).map (fun i => s.place (req.addr + i))
    if s.placesHeld none (ls.map some) then { s with arrivals := s.arrivals ++ [req] }.waitLines ls
    else
      let hit := fun (n : Nat) => ls.any (fun l => l.line == .mem (n * 128))
      let s := ((s.lcache.filter (fun c => hit c.line)).foldl State.lcFlush s).dropHolds (fun h => hit h.line)
      let s := ((ls.map Loc.sector).dedup).foldl (fun s l => s.recallSpan none true l 1) s
      let s := (ls.zip bs).foldl (fun s e => match e.1 with
        | .mem pa => { s with mem := tabPut 0 pa e.2 s.mem }
        | .spad _ _ => (s.touch e.1).putByte e.1 e.2) s
      (s.conflicts ls (201, 0, 0) (fun _ _ => true)).noteWrite ls
/-- PEER_ACCESS_ARRIVAL: an access at another package's address is that package's own change to its memory
(log entry 19). A write that waits for holds, and an access that waits for a snoop, is kept and tried
again. -/
def execPeerAccessArrival (req : PeerReq) (s : State) : Host.Outcome State Fault Refusal :=
  let s := { s with arrivals := s.arrivals.erase req }
  if !s.isLocal req.addr then .next (s.remoteChange req)
  else if s.peerRefused req then .next (s.respond false req.source 0)
  else
    let a := localAddr req.addr
    let s := match req.kind with
      | .borrower => s.hears req.source
      | _ => s
    if localRegion a = .regs then
      match req.data with
      | none => .next (s.respond true req.source (s.devBytes a req.size))
      | some bs =>
        let t := (s.devStore (((bs.take req.size).zipIdx a).map (fun e => (e.2, e.1)))).respond true req.source 0
        .next (if (s.heldWrites ioDie t).isEmpty then t else { s.afterHolds ioDie t with arrivals := s.arrivals ++ [req] })
    else
      let ls := (List.range req.size).map (fun i => s.place (req.addr + i))
      let who := match req.kind with
        | .host => hostHolder req.source
        | _ => req.source
      let others := s.snoops.any (fun x => x.holder != who && ls.any (fun l => l.line == .mem (x.line * 128)))
      let again : State := { (ls.foldl State.snoop s) with arrivals := s.arrivals ++ [req] }.waitLines ls
      if others then .next again
      else
        let keep := match req.kind, localRegion a with
          | .borrower, .cellar e => (s.lender e).st == 2
          | _, _ => false
        let note := fun (s : State) (wr : Bool) =>
          if keep then (((List.range req.size).map (fun i => (req.addr + i) / 128)).dedup).foldl (fun s n => s.noteCopy req.source n wr) s
          else s
        match req.data with
        | none =>
          if s.placesStall none (ls.map some) then .next again else
          let s := s.touchAll ls
          let s := ((ls.map Loc.sector).dedup).foldl (fun s l => s.recallSpan none false l 1) s
          .next ((note s false).respond (!s.anyPoison ls) req.source (leNat (ls.map s.getByte)))
        | some bs =>
          if s.placesHeld none (ls.map some) then .next again
          else .next ((note (s.engineWrite none (ls.map some) (bs.map (fun b => (b, false)))) true).respond true req.source 0)

/-- HOST_CACHE_REQUEST (13 R431): other holders of a line to be changed are asked for it first, and a full filter of
4,194,304 lines first takes back a victim that a free value names; the request waits for the answer. -/
def execHostCacheRequest (port line : Nat) (modify : Bool) (s : State) : Host.Outcome State Fault Refusal :=
  let s : State := { s with hostReqs := s.hostReqs.erase (port, line, modify) }
  let again := fun (s : State) => ({ s with hostReqs := s.hostReqs ++ [(port, line, modify)] } : State)
  let pa := line * 128
  let h := hostHolder port
  if 4 ≤ port then .next s
  else if !s.isLocal pa || localRegion (localAddr pa) == .reserved || localRegion (localAddr pa) == .regs || s.tag pa != 0 then
    .next (s.respond false h 0)
  else if s.snoops.any (fun x => x.line = line && x.holder != h && (modify || x.modified)) then
    .next (again { s with snoops := s.snoops.map (fun x => if x.line = line && x.holder != h then x.send s.time else x) })
  else
    let hosts := s.snoops.filter (fun x => decide (1024 ≤ x.holder))
    if hosts.length < 4194304 || hosts.any (fun x => x.line = line && x.holder = h) then
      .next ((s.noteCopy h line modify).respond true h 0)
    else if hosts.any (·.pending) then .next (again s)
    else
      let d := s.draw
      let v := hosts[d.1.toNat % hosts.length]?
      .next (again { d.2 with snoops := s.snoops.map (fun x => if some x = v then x.send s.time else x) })

/-! ### Ethernet (13 R432) -/

/-- Records at the front of the ring that the reader has freed. -/
def State.freedRecs (s : State) (base : Nat) : List (Nat × Nat) → List (Nat × Nat)
  | [] => []
  | r :: t => if s.readPhys (s.fabric (base + r.1 + 8)) 8 = 0 then s.freedRecs base t else r :: t
/-- A PTP event message: EtherType 88F7 with a message type of 0 to 3 (IEEE 1588-2019). -/
def isPtpEvent (frame : List Byte) : Bool :=
  frame.getD 12 0 == 0x88 && frame.getD 13 0 == 0xF7 && decide ((frame.getD 14 0).toNat % 16 < 4)
/-- ETHERNET_FRAME_RECEIVE: `frame` is the frame without its FCS, `stamp` the fabric time of its start within 4 ns, at which the event comes; the
header is written last. A frame waits behind earlier ones of its port, for holds on the ring's lines and for copies of
them outside (07 R251, 13 R422). -/
def execEthernetFrameReceive (port : Nat) (frame : List Byte) (fcs : Bool) (stamp : DWord) (s : State) :
    Host.Outcome State Fault Refusal :=
  let me : EthFrame := { port := port, bytes := frame, stamp := stamp }
  let mine := s.frames.filter (fun f => f.port = port)
  if !fcs || decide (4 ≤ port) || decide (s.time + 4 < stamp.toNat) ||
      (decide (stamp.toNat + 4 < s.time) && !mine.contains me) then .next s
  else if mine.any (· != me) && mine.head? != some me then
    .next (if mine.contains me then s else { s with frames := s.frames ++ [me] })
  else
    let kept : State := if mine.contains me then s else { s with frames := s.frames ++ [me] }
    let s : State := { s with frames := s.frames.erase me }
    let e := tabGet {} port s.ether
    let e := if isPtpEvent frame then { e with ptp := stamp.toNat :: e.ptp } else e
    let body := frame.take (min e.limit 16383)
    let n := body.length
    let size := (16 + n + 63) / 64 * 64
    let recs := s.freedRecs e.base e.recs
    let used := (recs.map (·.2)).sum
    let put := fun (e : Ether) (s : State) => { s with ether := tabSet port e s.ether }
    if e.size < used + size then
      .next (put { e with recs := recs, drops := e.drops + 1, seq := (e.seq + 1) % 2 ^ 32 } s)
    else
      let places := fun (o n : Nat) => (List.range n).map (fun i => some (s.place (s.fabric (e.base + (e.pos + o + i) % e.size))))
      let word1 := e.seq * 2 ^ 32 + (if n < frame.length then 2 ^ 19 else 0) + port * 2 ^ 16 + n
      let bytes := fun (bs : List Byte) => bs.map (fun b => (b, false))
      let ps := places 0 size
      if (ps.filterMap id).any s.snooped || s.placesHeld none ps then
        .next (((ps.filterMap id).foldl State.snoop kept).waitLines (ps.filterMap id))
      else
      let s := s.engineWrite none (places 16 (size - 16)) (bytes (body ++ List.replicate (size - 16 - n) 0))
      let s := s.engineWrite none (places 0 16) (bytes (leBytes 8 stamp.toNat ++ leBytes 8 word1))
      .next (put { e with recs := recs ++ [(e.pos, size)], pos := (e.pos + size) % e.size, seq := (e.seq + 1) % 2 ^ 32 } s)

/-! ### Firmware, attestation and telemetry (13 R436, R438; log entry 20) -/

/-- FIRMWARE_IMAGE_UPDATE: accepted only where both signatures verify; its live activation begins. -/
def execFirmwareImageUpdate (image : Nat) (classical postQuantum : Bool) (s : State) : Host.Outcome State Fault Refusal :=
  .next (if classical && postQuantum then { s with image := image, activated := some s.time } else s)
/-- A live activation is under way. -/
def State.activating (s : State) : Bool := (s.activated.map (fun t => decide (s.time < t + Config.activationNs))) == some true
/-- SPDM_MEASUREMENT_REQUEST: evidence of identity, or ResponseNotReady during an activation (00 R1). -/
def execSpdmMeasurementRequest (port : Nat) (s : State) : Host.Outcome State Fault Refusal :=
  .next { s with spdm := s.spdm ++
    [(port, if s.activating then none else some { arch := Config.arch, stepping := Config.stepping })] }
/-- The counters with the hours since the last start, and what the sensors give now, which the spec does not state: 6 the
temperature and 7 the corrected errors; numbers from 512 on are a histogram of temperatures, one sample a time (log entry 20). -/
def State.telemetry (s : State) : State :=
  let s := s.count 5 ((s.time - s.booted) / 3600000000000)
  { s with booted := s.booted + (s.time - s.booted) / 3600000000000 * 3600000000000, free := s.free + 2,
           counters := tabSet 6 (Config.freeBits s.free).toNat (tabSet 7 (Config.freeBits (s.free + 1)).toNat s.counters) }.count
    (512 + (Config.freeBits s.free).toNat % 256) 1
/-- TELEMETRY_FLUSH: at most once an hour, and at an orderly shutdown. -/
def execTelemetryFlush (orderly : Bool) (s : State) : Host.Outcome State Fault Refusal :=
  .next (if orderly || decide (s.flushed + 3600000000000 ≤ s.time) then
    { s.telemetry with flash := s.telemetry.counters, flushed := s.time } else s)

/-! ### Start paths (13 R437; 00 R8; log entry 49) -/

/-- A counter of starts: 0 of cold ones, 1 of warm ones. -/
def State.countStart (s : State) (n : Nat) : Tab Nat := tabSet n (tabGet 0 n s.counters + 1) s.counters
/-- COLD_START: what the flash holds, fabric time and the model's own fields go on. -/
def execColdStart (s : State) : Host.Outcome State Fault Refusal :=
  .next { State.reset with
    time := s.time, tick := s.tick, free := s.free + 2, agenda := s.agenda, nextId := s.nextId, image := s.image,
    flash := s.flash, flushed := s.flushed, counters := s.telemetry.countStart 0, booted := s.time,
    dies := (List.range Config.dies).map (fun d => (d, ({ hbit := s.time.testBit 39 } : Die))) }
/-- WARM_START: the lease cache is written back; the compute dies and every register with a reset value come back
as after a cold start, but for what R437 keeps and for the I/O die's own knowledge of the fabric. -/
def execWarmStart (s : State) : Host.Outcome State Fault Refusal :=
  let s := s.lcache.foldl State.lcFlush s
  .next { s with
    cores := [], dies := s.dies.map (fun d => (d.1, ({ hgen := d.2.hgen, hbit := d.2.hbit } : Die))), cycles := 0, cur := {},
    lastCore := 0, contexts := [], holds := [], dirs := [], dirReqs := [], lcache := [], queues := [], launches := [], gangs := [],
    sched := {}, qpsaveb := 0, qpsavel := 0, qptkc := [], posted := [], partmap := [], devregs := [], saved := [],
    houses := [], windows := [], idling := false, writeWaits := [], tampered := [], kept := [], frames := [],
    free := s.free + 2, counters := s.telemetry.countStart 1, booted := s.time }
/-- An address of this package under its new number. -/
def renumber (old new unit : Nat) (n : Nat) : Nat := if n / (2 ^ 46 / unit) = old then n % (2 ^ 46 / unit) + new * (2 ^ 46 / unit) else n
/-- FABRIC_ENUMERATION: the package learns its number once; its memory keeps its local addresses (01 R25). -/
def execFabricEnumeration (pkg : Nat) (s : State) : Host.Outcome State Fault Refusal :=
  if s.enumerated || decide (1024 ≤ pkg) then .next s
  else .next { s with
    pkg := pkg, enumerated := true,
    mem := s.mem.foldl (fun m e => tabPut 0 (renumber s.pkg pkg 1 e.1) e.2 m) [],
    poison := s.poison.foldl (fun l n => insertNat (renumber s.pkg pkg 32 n) l) [],
    tags := s.tags.foldl (fun m e => tabPut 0 (renumber s.pkg pkg (2 ^ 19) e.1) e.2 m) [] }

/-! ### Time, power and sleep (01 R24; 06 R200; 07 R252, R253) -/

/-- PTP_CORRECTION: a forward one moves fabric time; one that would move it back slows it, which the time of a
step already allows (log entry 2). -/
def execPtpCorrection (offset : Int) (s : State) : Host.Outcome State Fault Refusal :=
  .next { s with time := (s.time + offset.toNat) % 2 ^ 64 }
/-- POWER_LIMIT_WINDOW: the average of the last 1 ms is above the limit, or below it (log entry 21). -/
def execPowerLimitWindow (milliwatts : Nat) (s : State) : Host.Outcome State Fault Refusal :=
  .next (if s.powerLimit < milliwatts then { s with idling := true }
    else if milliwatts < s.powerLimit then { s with idling := false } else s)
/-- LARDER_REFRESH_WINDOW. -/
def execLarderRefreshWindow (die group : Nat) (enter : Bool) (s : State) : Host.Outcome State Fault Refusal :=
  if enter ≠ refreshAt s.time group ∨ 16 ≤ group ∨ Config.dies ≤ die then .next s
  else .next (s.modDie die (fun d => { d with
    refresh := if enter then insertNat group d.refresh else d.refresh.filter (· != group) }))
/-- A core's retention sleep ends: cache-role banks are invalidated where HGEN has moved. -/
def State.wakeCore (s : State) (core : Nat) : State :=
  match (s.core core).sleep with
  | none => s
  | some h =>
    (if h = (s.die (dieOf core)).hgen then s else s.dropHolds (fun x => x.core == core)).modCore core (fun k =>
      { k with sleep := none })
/-- Cores of a die whose sleep has lasted 254 changes of HGEN: the next would be the last that they could tell. -/
def State.lateSleepers (s : State) (die : Nat) : List Nat :=
  (s.cores.filter (fun k => dieOf k.1 == die && (k.2.sleep.map (fun h => decide (254 ≤ ((s.die die).hgen + 256 - h) % 256))) ==
    some true)).map (·.1)
/-- HGEN_INCREMENT: bit 39 of fabric time has changed. Cores that have slept too long are woken first. -/
def execHgenIncrement (die : Nat) (s : State) : Host.Outcome State Fault Refusal :=
  if (s.die die).hbit = s.time.testBit 39 ∨ Config.dies ≤ die then .next s
  else .next (((s.lateSleepers die).foldl State.wakeCore s).modDie die (fun d =>
    { d with hgen := (d.hgen + 1) % 256, hbit := s.time.testBit 39 }))
/-- A core with no team whose firmware agent waits for an event. -/
def State.coreIdle (s : State) (c : Nat) : Bool :=
  (s.core c).teams.isEmpty && (s.core c).fwEvents == 0 && s.coreDrained c && (s.core c).deferred.isEmpty && (s.core c).cmds.isEmpty &&
    (List.range 32).all (fun l => let m := ((s.core c).weave Config.agentSlot |>.thread l).mode; m == .waiting .retry || m == .exited)
/-- CORE_RETENTION_SLEEP: an idle core records HGEN. -/
def execCoreRetentionSleep (core : Nat) (s : State) : Host.Outcome State Fault Refusal :=
  if (s.core core).sleep.isNone && s.coreIdle core && decide (core < Config.cores) then
    .next (s.modCore core (fun k => { k with sleep := some (s.die (dieOf core)).hgen }))
  else .next s
/-- CORE_RETENTION_WAKE: cache-role banks are invalidated where HGEN has moved. -/
def execCoreRetentionWake (core : Nat) (s : State) : Host.Outcome State Fault Refusal :=
  .next (s.wakeCore core)

/-! ### Issue and access events (02 R73 to R75; 06 R211) -/

/-- UNASSIGNED_OPCODE_ISSUE: the group meets a word whose major opcode is a header's or no instruction's. -/
def execUnassignedOpcodeIssue (word : DWord) (s : State) : Host.Outcome State Fault Refusal :=
  match s.group with
  | none => .fault .noGroup
  | some g =>
    if isHeader word then .next (s.raise g trapIllegal 1 g.lanes)
    else if (majorForm (majorOf word)).isNone then .next (s.raise g trapIllegal 4 g.lanes)
    else .next s
/-- LENDER_REQUEST_TIMEOUT: lane `idx` mod 32 of slot `idx` / 32 has waited 50 µs for its lender. A lane that speculates
waits on (06 R190), a transfer meets the fault when its word is offered again, and an access that a trap has
interrupted is given up. -/
def execLenderRequestTimeout (core idx : Nat) (s : State) : Host.Outcome State Fault Refusal :=
  let w := idx / 32
  let l := idx % 32
  let t := s.thread core w l
  match t.mode, t.lend with
  | .waiting .lender, some q =>
    if s.time < q.since + 50000 || t.spec.isSome || q.target then .next s
    else
      let p : ParkLane := { lane := l, cause := 2, detail := 4, level := q.level, lid := leafLid q.leaf, va := q.va, iff := q.fetch, scr := q.scr }
      .next (((s.park core w t.ctl.pc q.wr [p]).map (fun s =>
        s.modThread core w l (fun t => { t with lend := none }))).getD s)
  | _, _ =>
    match t.frame.bind (·.lend) with
    | some q =>
      if s.time < q.since + 50000 then .next s
      else .next (s.modThread core w l (fun t => { t with frame := t.frame.map (fun f => { f with lend := none }) }))
    | none => .next s

end Sys2Proof.Machine
end

