-- ==== Sys2Proof/Machine/Rendezvous.lean ====
section
/-! DEFINITION. Rendezvous points, gang barriers and speculative barriers (08 R284 to R298). -/

namespace Sys2Proof.Machine

/-! ### Points and threads, for both kinds -/

/-- PENDING and DONE of a thread at a point or a barrier; a barrier's completion on its way counts as
done for a further arrival (08 R284, R289). -/
def Thread.isPend (t : Thread) (gang : Bool) (n : Nat) : Bool :=
  if gang then t.gbPend.getLsbD n else t.rvPend.getLsbD n
def Thread.isDone (t : Thread) (gang : Bool) (n : Nat) : Bool :=
  if gang then t.gbDone.getLsbD n else t.rvDone.getLsbD n
def Thread.isOpen (t : Thread) (gang : Bool) (n : Nat) : Bool :=
  t.isPend gang n && !t.isDone gang n && !(gang && t.gbDue.getLsbD n)
def bset {w : Nat} (v : BitVec w) (n : Nat) (b : Bool) : BitVec w :=
  if b then v ||| (1#w <<< n) else v &&& ~~~(1#w <<< n)
def Thread.setPend (t : Thread) (gang : Bool) (n : Nat) (b : Bool) : Thread :=
  if gang then { t with gbPend := bset t.gbPend n b } else { t with rvPend := bset t.rvPend n b }
/-- PENDING := 1, DONE := 0. -/
def Thread.arriveAt (t : Thread) (gang : Bool) (n : Nat) : Thread :=
  if gang then { t with gbPend := bset t.gbPend n true, gbDone := bset t.gbDone n false, gbDue := bset t.gbDue n false }
  else { t with rvPend := bset t.rvPend n true, rvDone := bset t.rvDone n false }

/-- The point of a team or the barrier of its gang. -/
def State.point (s : State) (t : Nat) (gang : Bool) (n : Nat) : Point :=
  if gang then tabGet {} n (((s.findGang (s.team t).gang).map (·.bars)).getD []) else tabGet {} n (s.team t).points
def State.setPoint (s : State) (t : Nat) (gang : Bool) (n : Nat) (p : Point) : State :=
  if gang then s.modGang (s.team t).gang (fun g => { g with bars := tabSet n p g.bars })
  else s.modTeam t (fun x => { x with points := tabSet n p x.points })

/-! ### Commit (08 R294) -/

/-- One thread's speculation commits: its records enter the queue as stores issued now, as far as the queue has room. -/
def State.commitLane (s : State) (c w l : Nat) : State := s.modWeave c w (fun x => (x.commitLane w l s.tick).takeIn)
/-- The entries with which a phase of point `n` makes a thread commit: none where it does not. -/
def State.phaseEntries (s : State) (c w n l : Nat) : List StoreEnt :=
  let t := s.thread c w l
  match t.spec with
  | some p => if t.isOpen false n && p.point == n && !p.conflict then p.entries w l (s.weave c w).team s.tick ((s.weave c w).commitsWith p) else []
  | none => []
/-- The phase of a thread's point has completed: DONE, then commit or roll back, then go on past an
arrive-and-wait. -/
def State.phaseLane (s : State) (c w n l : Nat) : State :=
  let t := s.thread c w l
  if t.isOpen false n then
    let s := s.modThread c w l (fun t => { t with rvDone := bset t.rvDone n true })
    let s := match t.spec with
      | none => s
      | some p =>
        if p.point != n then s
        else if p.conflict then (if s.rollWaits c w then s else s.rollLane c w l)
        else (s.commitLane c w l).modThread c w l (fun t => t.setPend false n false)
    s.modThread c w l Thread.passArrived
  else s
/-- A phase of a rendezvous point completes: every thread of the team (08 R284). Those that commit do so at one instant,
and then their stores are seen by the weave's threads that still speculate (08 R294). -/
def State.phaseTeam (s : State) (t n : Nat) : State :=
  match s.findTeam t with
  | none => s
  | some (c, x) =>
    let s := x.slots.foldl (fun s w => s.modWeave c w (fun v => v.review x)) s
    let es := (x.slots.map (fun w => ((List.range 32).map (s.phaseEntries c w n)).flatten)).flatten
    let s := x.slots.foldl (fun s w => (List.range 32).foldl (fun s l => s.phaseLane c w n l) s) s
    es.foldl (fun s e => s.entryConflicts c e (fun c' w' => c' == c && w' == e.slot)) s
/-- A phase of a gang barrier completes: its threads' completion is on its way (08 R289). -/
def Weave.dueAt (w : Weave) (n : Nat) : Weave :=
  { w with threads := w.threads.map (fun t =>
      if t.2.isOpen true n then (t.1, { t.2 with gbDue := bset t.2.gbDue n true }) else t) }
def State.phaseGang (s : State) (g n : Nat) : State :=
  { s with
    cores := s.cores.map (fun k => (k.1, { k.2 with weaves := k.2.weaves.map (fun w =>
      if (w.2.team.map (fun t => (s.team t).gang)) == some g then (w.1, w.2.dueAt n) else w) }))
    saved := s.saved.map (fun v => if v.team.gang = g then
      { v with weaves := v.weaves.map (fun w => (w.1, w.2.dueAt n)) } else v) }
/-- The completion reaches a thread: DONE, and on past a gbsync. -/
def Thread.gbReach (t : Thread) (n : Nat) : Thread :=
  if t.gbDue.getLsbD n then
    Thread.passArrived { t with gbDone := bset t.gbDone n true, gbDue := bset t.gbDue n false }
  else t
def Weave.reachAt (w : Weave) (n : Nat) : Weave :=
  { w with threads := w.threads.map (fun t => (t.1, t.2.gbReach n)) }
/-- GANG_BARRIER_RELEASE: a barrier's completion reaches the waiting teams, saved ones included
(08 R289). -/
def execGangBarrierRelease (gang bar : Nat) (s : State) : Host.Outcome State Fault Refusal :=
  .next { s with
    cores := s.cores.map (fun k => (k.1, { k.2 with weaves := k.2.weaves.map (fun w =>
      if (w.2.team.map (fun t => (s.team t).gang)) == some gang then (w.1, w.2.reachAt bar) else w) }))
    saved := s.saved.map (fun v => if v.team.gang = gang then
      { v with weaves := v.weaves.map (fun w => (w.1, w.2.reachAt bar)) } else v) }

/-! ### init (08 R284) -/

/-- What init does to a point with count n, or the detail of its conflict. -/
def initPoint (limit n : Nat) (p : Point) : Except Nat Point :=
  if limit < n then .error 8
  else if n = 0 then if p.arr ≠ 0 then .error 7 else .ok { p with armed := false, exp := 0 }
  else if p.armed && p.exp ≠ n then .error 3
  else .ok { p with armed := true, exp := n }
/-- The index of the point or barrier, c[4:0] or c[2:0] (08 R271). -/
def Iss.pointIdx (x : Iss) (gang : Bool) : Nat := x.f.c.toNat % (if gang then 8 else 32)
/-- Execute of an instruction of a team on a point. -/
def onPoint (h : Iss → State → Nat → Act) (x : Iss) (s : State) : Act :=
  match (s.weave x.g.core x.g.slot).team with
  | none => .done s x.ex
  | some t => if x.ex.isEmpty then .done s x.ex else h x s t
def initBody (gang : Bool) : Iss → State → Act := onPoint (fun x s t =>
  match x.differ (fun l => [x.a l]), x.ex with
  | k :: r, _ => .trap s [] trapBarrier 3 (k :: r)
  | [], [] => .done s []
  | [], l :: _ =>
    let n := x.pointIdx gang
    match initPoint (if gang then 65536 else 1024) (x.a l) (s.point t gang n) with
    | .error d => .trap s [] trapBarrier d x.ex
    | .ok p => .done (s.setPoint t gang n p) x.ex)

/-! ### arrive and wait -/

/-- One lane arrives (08 R284); the detail of its conflict is collected. -/
def Iss.arrivePoint (x : Iss) (gang : Bool) (t n : Nat) (r : State × List (Nat × Nat)) (l : Nat) :
    State × List (Nat × Nat) :=
  let s := r.1
  let p := s.point t gang n
  if !p.armed then (s, r.2 ++ [(l, 4)])
  else if (s.thread x.g.core x.g.slot l).isOpen gang n then (s, r.2 ++ [(l, 5)])
  else
    let s := s.modThread x.g.core x.g.slot l (fun u => u.arriveAt gang n)
    if p.arr + 1 = p.exp then
      let s := s.setPoint t gang n { p with arr := 0, ph := (p.ph + 1) % 256 }
      (if gang then s.phaseGang (s.team t).gang n else s.phaseTeam t n, r.2)
    else (s.setPoint t gang n { p with arr := p.arr + 1 }, r.2)
/-- The accesses that an arrival publishes have been made: those of its weave to the core for a point,
everywhere for a barrier (08 R287). -/
def State.published (s : State) (gang : Bool) (x : Iss) : Bool :=
  (s.weave x.g.core x.g.slot).queued.isEmpty && (!gang || (s.core x.g.core).pending.isEmpty) &&
    !s.atomPending x.g.core x.g.slot x.ex
/-- A trap of the failing lanes, with the detail of the lowest (08 R285). -/
def barrierTrap (s : State) (fs : List (Nat × Nat)) : Act :=
  .trap s [] trapBarrier ((fs.head?.map (·.2)).getD 0) (fs.map (·.1))
def arriveBody (gang : Bool) : Iss → State → Act := onPoint (fun x s t =>
  if !s.published gang x then .wait s
  else
    let r := x.ex.foldl (x.arrivePoint gang t (x.pointIdx gang)) (s, [])
    if r.2.isEmpty then .done r.1 x.ex else barrierTrap s r.2)
/-- The rvwait.spec to which a thread was rolled back has completed: it may speculate there again (08 R295). -/
def Thread.specAgain (t : Thread) (pc : DWord) : Thread := if t.noSpec = some pc then { t with noSpec := none } else t
/-- wait: a lane with no pending arrival conflicts; one whose phase is done goes on. -/
def waitBody (gang : Bool) : Iss → State → Act := onPoint (fun x s _ =>
  let n := x.pointIdx gang
  let th := s.thread x.g.core x.g.slot
  match x.ex.filter (fun l => !(th l).isPend gang n) with
  | l :: r => .trap s [] trapBarrier 6 (l :: r)
  | [] =>
    let ran := x.ex.filter (fun l => (th l).isDone gang n)
    .done ((s.modThreads x.g.core x.g.slot ran (fun _ t => (t.setPend gang n false).specAgain x.g.pc)).hold x.g
      (x.ex.filter (fun l => !ran.contains l))) ran)
/-- Arrive, then wait. -/
def syncBody (gang : Bool) : Iss → State → Act := onPoint (fun x s t =>
  if !s.published gang x then .wait s
  else
    let n := x.pointIdx gang
    let r := x.ex.foldl (x.arrivePoint gang t n) (s, [])
    if !r.2.isEmpty then barrierTrap s r.2
    else
      let ran := x.ex.filter (fun l => (r.1.thread x.g.core x.g.slot l).isDone gang n)
      let s := r.1.modThreads x.g.core x.g.slot ran (fun _ u => u.setPend gang n false)
      .done (s.modThreads x.g.core x.g.slot (x.ex.filter (fun l => !ran.contains l)) (fun _ u =>
        { u with mode := .waiting (.arrived gang n) })) ran)

/-- 08 R284. -/
def execRvinit (o : AForm) (s : State) : Host.Outcome State Fault Refusal := issue (.rvinit o) (initBody false) s
/-- 08 R284. -/
def execRvarrive (o : AForm) (s : State) : Host.Outcome State Fault Refusal := issue (.rvarrive o) (arriveBody false) s
/-- 08 R284. -/
def execRvwait (o : AForm) (s : State) : Host.Outcome State Fault Refusal := issue (.rvwait o) (waitBody false) s
/-- 08 R284. -/
def execRvsync (o : AForm) (s : State) : Host.Outcome State Fault Refusal := issue (.rvsync o) (syncBody false) s
/-- 08 R284. -/
def execGbinit (o : AForm) (s : State) : Host.Outcome State Fault Refusal := issue (.gbinit o) (initBody true) s
/-- 08 R284. -/
def execGbarrive (o : AForm) (s : State) : Host.Outcome State Fault Refusal := issue (.gbarrive o) (arriveBody true) s
/-- 08 R284. -/
def execGbwait (o : AForm) (s : State) : Host.Outcome State Fault Refusal := issue (.gbwait o) (waitBody true) s
/-- 08 R284. -/
def execGbsync (o : AForm) (s : State) : Host.Outcome State Fault Refusal := issue (.gbsync o) (syncBody true) s

/-- 08 R286. -/
def execRvpoll (o : AForm) (s : State) : Host.Outcome State Fault Refusal :=
  issue (.rvpoll o) (perLane (fun x l =>
    { p := some ((x.th l).isPend false (x.pointIdx false) && (x.th l).isDone false (x.pointIdx false)) })) s
/-- 08 Table 12. -/
def Point.word (p : Point) : Nat :=
  p.ph * 2 ^ 24 + p.arr % 2 ^ 11 * 2 ^ 13 + p.exp % 2 ^ 11 * 2 ^ 2 + bit p.armed
/-- 08 R286. -/
def execRvstat (o : AForm) (s : State) : Host.Outcome State Fault Refusal :=
  issue (.rvstat o) (bits (fun x _ =>
    match (x.old.weave x.g.core x.g.slot).team with
    | none => 0
    | some t => (x.old.point t false (x.pointIdx false)).word)) s

/-! ### Speculative barriers -/

/-- The team can speculate (08 R290). -/
def Team.speculative (t : Team) : Bool := !t.garBanks.isEmpty && t.kd.spec != 0
/-- The checkpoint of a lane at rvwait.spec (08 R290). -/
def Iss.checkpoint (x : Iss) (s : State) (n l : Nat) : Spec :=
  let t := x.th l
  { ctl := t.ctl, preds := t.preds, ob := t.ob, fpCtl := t.fpCtl, fpFlags := t.fpFlags, rsCount := t.rsCount,
    joins := ((s.weave x.g.core x.g.slot).joins.filter (fun e => e.members.getLsbD l)).map (fun e => (e.target, e.depth)),
    point := n }
/-- rvwait.spec: lanes whose phase is open go on speculating where they may, the rest act as at
rvwait (08 R290, R295). -/
def waitSpecBody : Iss → State → Act := onPoint (fun x s t =>
  let n := x.pointIdx false
  let th := s.thread x.g.core x.g.slot
  if x.ex.any (fun l => !(th l).isPend false n) then waitBody false x s
  else
    let go := x.ex.filter (fun l => !(th l).isDone false n && (th l).noSpec != some x.g.pc && (s.team t).speculative)
    let done := x.ex.filter (fun l => (th l).isDone false n)
    let rest := x.ex.filter (fun l => !go.contains l && !done.contains l)
    let s := s.modThreads x.g.core x.g.slot go (fun l u => { u with spec := some (x.checkpoint s n l) })
    let s := s.modThreads x.g.core x.g.slot done (fun _ u => (u.setPend false n false).specAgain x.g.pc)
    .done (s.hold x.g rest) (x.ex.filter (fun l => go.contains l || done.contains l)))
/-- 08 R290. -/
def execRvwaitSpec (o : AForm) (s : State) : Host.Outcome State Fault Refusal := issue (.rvwaitSpec o) waitSpecBody s
/-- 08 R298: a speculating thread waits at it, as at every instruction that never speculates. -/
def execSpecwait (o : AForm) (s : State) : Host.Outcome State Fault Refusal :=
  issue (.specwait o) (fun x s => .done s x.ex) s
/-- SPECULATIVE_ROLLBACK: a thread whose read set met a conflicting store returns to its rvwait (08 R293,
R295). -/
def execSpeculativeRollback (core slot lane : Nat) (s : State) : Host.Outcome State Fault Refusal :=
  match (s.thread core slot lane).spec with
  | some p => .next (if p.conflict && !s.rollWaits core slot then s.rollLane core slot lane else s)
  | none => .next s

end Sys2Proof.Machine
end

