-- ==== Sys2Proof/Machine/Dispatch.lean ====
section
/-! DEFINITION. exec: one arm per constructor, each a direct call of its meaning. -/

namespace Sys2Proof.Machine

def exec (i : Instr) (s : State) : Host.Outcome State Fault Refusal :=
  match i with
  | .br o => Sys2Proof.Machine.execBr o s
  | .call o => Sys2Proof.Machine.execCall o s
  | .dbnz o => Sys2Proof.Machine.execDbnz o s
  | .bz o => Sys2Proof.Machine.execBz o s
  | .bnz o => Sys2Proof.Machine.execBnz o s
  | .bfull o => Sys2Proof.Machine.execBfull o s
  | .bempty o => Sys2Proof.Machine.execBempty o s
  | .bpend o => Sys2Proof.Machine.execBpend o s
  | .jmp o => Sys2Proof.Machine.execJmp o s
  | .jcall o => Sys2Proof.Machine.execJcall o s
  | .ret o => Sys2Proof.Machine.execRet o s
  | .pand o => Sys2Proof.Machine.execPand o s
  | .por o => Sys2Proof.Machine.execPor o s
  | .pxor o => Sys2Proof.Machine.execPxor o s
  | .pandn o => Sys2Proof.Machine.execPandn o s
  | .pset o => Sys2Proof.Machine.execPset o s
  | .pget o => Sys2Proof.Machine.execPget o s
  | .exit o => Sys2Proof.Machine.execExit o s
  | .yield o => Sys2Proof.Machine.execYield o s
  | .nop o => Sys2Proof.Machine.execNop o s
  | .pause o => Sys2Proof.Machine.execPause o s
  | .brk o => Sys2Proof.Machine.execBrk o s
  | .add o => Sys2Proof.Machine.execAdd o s
  | .sub o => Sys2Proof.Machine.execSub o s
  | .addc o => Sys2Proof.Machine.execAddc o s
  | .subb o => Sys2Proof.Machine.execSubb o s
  | .min o => Sys2Proof.Machine.execMin o s
  | .max o => Sys2Proof.Machine.execMax o s
  | .abs o => Sys2Proof.Machine.execAbs o s
  | .mul o => Sys2Proof.Machine.execMul o s
  | .mulhi o => Sys2Proof.Machine.execMulhi o s
  | .mulw o => Sys2Proof.Machine.execMulw o s
  | .mad o => Sys2Proof.Machine.execMad o s
  | .and o => Sys2Proof.Machine.execAnd o s
  | .or o => Sys2Proof.Machine.execOr o s
  | .xor o => Sys2Proof.Machine.execXor o s
  | .andn o => Sys2Proof.Machine.execAndn o s
  | .shl o => Sys2Proof.Machine.execShl o s
  | .shr o => Sys2Proof.Machine.execShr o s
  | .sar o => Sys2Proof.Machine.execSar o s
  | .ror o => Sys2Proof.Machine.execRor o s
  | .fsh o => Sys2Proof.Machine.execFsh o s
  | .bfx o => Sys2Proof.Machine.execBfx o s
  | .bfi o => Sys2Proof.Machine.execBfi o s
  | .popc o => Sys2Proof.Machine.execPopc o s
  | .clz o => Sys2Proof.Machine.execClz o s
  | .addi o => Sys2Proof.Machine.execAddi o s
  | .muli o => Sys2Proof.Machine.execMuli o s
  | .andi o => Sys2Proof.Machine.execAndi o s
  | .ori o => Sys2Proof.Machine.execOri o s
  | .lid o => Sys2Proof.Machine.execLid o s
  | .shli o => Sys2Proof.Machine.execShli o s
  | .shri o => Sys2Proof.Machine.execShri o s
  | .sari o => Sys2Proof.Machine.execSari o s
  | .bfxi o => Sys2Proof.Machine.execBfxi o s
  | .cmpi o => Sys2Proof.Machine.execCmpi o s
  | .lea o => Sys2Proof.Machine.execLea o s
  | .shup o => Sys2Proof.Machine.execShup o s
  | .shdn o => Sys2Proof.Machine.execShdn o s
  | .shxor o => Sys2Proof.Machine.execShxor o s
  | .cmp o => Sys2Proof.Machine.execCmp o s
  | .sel o => Sys2Proof.Machine.execSel o s
  | .shfl o => Sys2Proof.Machine.execShfl o s
  | .vote o => Sys2Proof.Machine.execVote o s
  | .ballot o => Sys2Proof.Machine.execBallot o s
  | .scan o => Sys2Proof.Machine.execScan o s
  | .li o => Sys2Proof.Machine.execLi o s
  | .lda o => Sys2Proof.Machine.execLda o s
  | .fadd o => Sys2Proof.Machine.execFadd o s
  | .fsub o => Sys2Proof.Machine.execFsub o s
  | .fmul o => Sys2Proof.Machine.execFmul o s
  | .fdiv o => Sys2Proof.Machine.execFdiv o s
  | .fma o => Sys2Proof.Machine.execFma o s
  | .fms o => Sys2Proof.Machine.execFms o s
  | .fsqrt o => Sys2Proof.Machine.execFsqrt o s
  | .fmin o => Sys2Proof.Machine.execFmin o s
  | .fmax o => Sys2Proof.Machine.execFmax o s
  | .fabs o => Sys2Proof.Machine.execFabs o s
  | .fneg o => Sys2Proof.Machine.execFneg o s
  | .fcps o => Sys2Proof.Machine.execFcps o s
  | .fcmp o => Sys2Proof.Machine.execFcmp o s
  | .fclass o => Sys2Proof.Machine.execFclass o s
  | .frint o => Sys2Proof.Machine.execFrint o s
  | .fscale o => Sys2Proof.Machine.execFscale o s
  | .fgetexp o => Sys2Proof.Machine.execFgetexp o s
  | .fgetman o => Sys2Proof.Machine.execFgetman o s
  | .fcvt o => Sys2Proof.Machine.execFcvt o s
  | .fcvti o => Sys2Proof.Machine.execFcvti o s
  | .icvtf o => Sys2Proof.Machine.execIcvtf o s
  | .fpk o pos => Sys2Proof.Machine.execFpk o pos s
  | .fupk o pos => Sys2Proof.Machine.execFupk o pos s
  | .frcpe o => Sys2Proof.Machine.execFrcpe o s
  | .frsqe o => Sys2Proof.Machine.execFrsqe o s
  | .fex2 o => Sys2Proof.Machine.execFex2 o s
  | .flg2 o => Sys2Proof.Machine.execFlg2 o s
  | .fsinpi o => Sys2Proof.Machine.execFsinpi o s
  | .fcospi o => Sys2Proof.Machine.execFcospi o s
  | .fdot2 o => Sys2Proof.Machine.execFdot2 o s
  | .bqnt o => Sys2Proof.Machine.execBqnt o s
  | .bdq o => Sys2Proof.Machine.execBdq o s
  | .fredAdd o => Sys2Proof.Machine.execFredAdd o s
  | .fredMin o => Sys2Proof.Machine.execFredMin o s
  | .fredMax o => Sys2Proof.Machine.execFredMax o s
  | .faddi o => Sys2Proof.Machine.execFaddi o s
  | .fmuli o => Sys2Proof.Machine.execFmuli o s
  | .fmai o => Sys2Proof.Machine.execFmai o s
  | .fcmpi o => Sys2Proof.Machine.execFcmpi o s
  | .fli o => Sys2Proof.Machine.execFli o s
  | .ld o => Sys2Proof.Machine.execLd o s
  | .lds o => Sys2Proof.Machine.execLds o s
  | .ldx o => Sys2Proof.Machine.execLdx o s
  | .ldxs o => Sys2Proof.Machine.execLdxs o s
  | .st o => Sys2Proof.Machine.execSt o s
  | .stx o => Sys2Proof.Machine.execStx o s
  | .ldnt o => Sys2Proof.Machine.execLdnt o s
  | .ldxnt o => Sys2Proof.Machine.execLdxnt o s
  | .stnt o => Sys2Proof.Machine.execStnt o s
  | .stxnt o => Sys2Proof.Machine.execStxnt o s
  | .ldnf o => Sys2Proof.Machine.execLdnf o s
  | .stbe o => Sys2Proof.Machine.execStbe o s
  | .pf o => Sys2Proof.Machine.execPf o s
  | .pfx o => Sys2Proof.Machine.execPfx o s
  | .ldm o => Sys2Proof.Machine.execLdm o s
  | .stm o => Sys2Proof.Machine.execStm o s
  | .tlbp o => Sys2Proof.Machine.execTlbp o s
  | .tlbi o => Sys2Proof.Machine.execTlbi o s
  | .tlbs o => Sys2Proof.Machine.execTlbs o s
  | .pois o => Sys2Proof.Machine.execPois o s
  | .spmap o => Sys2Proof.Machine.execSpmap o s
  | .spmapz o => Sys2Proof.Machine.execSpmapz o s
  | .spclr o => Sys2Proof.Machine.execSpclr o s
  | .spwb o => Sys2Proof.Machine.execSpwb o s
  | .spdrop o => Sys2Proof.Machine.execSpdrop o s
  | .ldts o => Sys2Proof.Machine.execLdts o s
  | .stts o => Sys2Proof.Machine.execStts o s
  | .tsfree o => Sys2Proof.Machine.execTsfree o s
  | .tsstat o => Sys2Proof.Machine.execTsstat o s
  | .thacq o => Sys2Proof.Machine.execThacq o s
  | .thpf o => Sys2Proof.Machine.execThpf o s
  | .threl o => Sys2Proof.Machine.execThrel o s
  | .thdown o => Sys2Proof.Machine.execThdown o s
  | .thclose o => Sys2Proof.Machine.execThclose o s
  | .thwb o => Sys2Proof.Machine.execThwb o s
  | .thsplit o => Sys2Proof.Machine.execThsplit o s
  | .thbind o => Sys2Proof.Machine.execThbind o s
  | .thunbind o => Sys2Proof.Machine.execThunbind o s
  | .thstat o => Sys2Proof.Machine.execThstat o s
  | .thext o => Sys2Proof.Machine.execThext o s
  | .thprobe o => Sys2Proof.Machine.execThprobe o s
  | .thopen o => Sys2Proof.Machine.execThopen o s
  | .thdesc o => Sys2Proof.Machine.execThdesc o s
  | .cas o => Sys2Proof.Machine.execCas o s
  | .swap o => Sys2Proof.Machine.execSwap o s
  | .aadd o => Sys2Proof.Machine.execAadd o s
  | .amin o => Sys2Proof.Machine.execAmin o s
  | .amax o => Sys2Proof.Machine.execAmax o s
  | .afadd o => Sys2Proof.Machine.execAfadd o s
  | .xadd o => Sys2Proof.Machine.execXadd o s
  | .xrd o => Sys2Proof.Machine.execXrd o s
  | .aand o => Sys2Proof.Machine.execAand o s
  | .aor o => Sys2Proof.Machine.execAor o s
  | .axor o => Sys2Proof.Machine.execAxor o s
  | .ainc o => Sys2Proof.Machine.execAinc o s
  | .fence o => Sys2Proof.Machine.execFence o s
  | .fenceAcq o => Sys2Proof.Machine.execFenceAcq o s
  | .fenceRel o => Sys2Proof.Machine.execFenceRel o s
  | .rvinit o => Sys2Proof.Machine.execRvinit o s
  | .rvarrive o => Sys2Proof.Machine.execRvarrive o s
  | .rvwait o => Sys2Proof.Machine.execRvwait o s
  | .rvwaitSpec o => Sys2Proof.Machine.execRvwaitSpec o s
  | .rvsync o => Sys2Proof.Machine.execRvsync o s
  | .rvpoll o => Sys2Proof.Machine.execRvpoll o s
  | .gbinit o => Sys2Proof.Machine.execGbinit o s
  | .gbarrive o => Sys2Proof.Machine.execGbarrive o s
  | .gbwait o => Sys2Proof.Machine.execGbwait o s
  | .gbsync o => Sys2Proof.Machine.execGbsync o s
  | .waitvEq o => Sys2Proof.Machine.execWaitvEq o s
  | .waitvNe o => Sys2Proof.Machine.execWaitvNe o s
  | .specwait o => Sys2Proof.Machine.execSpecwait o s
  | .xset o => Sys2Proof.Machine.execXset o s
  | .rvstat o => Sys2Proof.Machine.execRvstat o s
  | .mlds o => Sys2Proof.Machine.execMlds o s
  | .mldl o => Sys2Proof.Machine.execMldl o s
  | .mswap o => Sys2Proof.Machine.execMswap o s
  | .mmul o => Sys2Proof.Machine.execMmul o s
  | .mmulz o => Sys2Proof.Machine.execMmulz o s
  | .acst o => Sys2Proof.Machine.execAcst o s
  | .acld o => Sys2Proof.Machine.execAcld o s
  | .acsclRow o => Sys2Proof.Machine.execAcsclRow o s
  | .acsclCol o => Sys2Proof.Machine.execAcsclCol o s
  | .acnrm o => Sys2Proof.Machine.execAcnrm o s
  | .acredMax o => Sys2Proof.Machine.execAcredMax o s
  | .acredSum o => Sys2Proof.Machine.execAcredSum o s
  | .acbias o => Sys2Proof.Machine.execAcbias o s
  | .cvinit o => Sys2Proof.Machine.execCvinit o s
  | .msign o => Sys2Proof.Machine.execMsign o s
  | .mwait o => Sys2Proof.Machine.execMwait o s
  | .mstat o => Sys2Proof.Machine.execMstat o s
  | .mstclr o => Sys2Proof.Machine.execMstclr o s
  | .acrd o => Sys2Proof.Machine.execAcrd o s
  | .acwr o => Sys2Proof.Machine.execAcwr o s
  | .acclr o => Sys2Proof.Machine.execAcclr o s
  | .mplane o => Sys2Proof.Machine.execMplane o s
  | .cpy o => Sys2Proof.Machine.execCpy o s
  | .fill o => Sys2Proof.Machine.execFill o s
  | .cpts o => Sys2Proof.Machine.execCpts o s
  | .cpfs o => Sys2Proof.Machine.execCpfs o s
  | .cpald o => Sys2Proof.Machine.execCpald o s
  | .cpast o => Sys2Proof.Machine.execCpast o s
  | .gcp o => Sys2Proof.Machine.execGcp o s
  | .gcpts o => Sys2Proof.Machine.execGcpts o s
  | .expf o => Sys2Proof.Machine.execExpf o s
  | .exwb o => Sys2Proof.Machine.execExwb o s
  | .waitlt o => Sys2Proof.Machine.execWaitlt o s
  | .ccrd o => Sys2Proof.Machine.execCcrd o s
  | .ccadd o => Sys2Proof.Machine.execCcadd o s
  | .ccclr o => Sys2Proof.Machine.execCcclr o s
  | .refine o => Sys2Proof.Machine.execRefine o s
  | .rfres o => Sys2Proof.Machine.execRfres o s
  | .rfchk o => Sys2Proof.Machine.execRfchk o s
  | .rfcancel o => Sys2Proof.Machine.execRfcancel o s
  | .rfwait o => Sys2Proof.Machine.execRfwait o s
  | .rfstat o => Sys2Proof.Machine.execRfstat o s
  | .mfs o => Sys2Proof.Machine.execMfs o s
  | .mts o => Sys2Proof.Machine.execMts o s
  | .mtsset o => Sys2Proof.Machine.execMtsset o s
  | .mtsclr o => Sys2Proof.Machine.execMtsclr o s
  | .tret o => Sys2Proof.Machine.execTret o s
  | .tmask o => Sys2Proof.Machine.execTmask o s
  | .tunmask o => Sys2Proof.Machine.execTunmask o s
  | .tabort o => Sys2Proof.Machine.execTabort o s
  | .tmplace o => Sys2Proof.Machine.execTmplace o s
  | .tmsave o => Sys2Proof.Machine.execTmsave o s
  | .tmrest o => Sys2Proof.Machine.execTmrest o s
  | .tmflush o => Sys2Proof.Machine.execTmflush o s
  | .tmkill o => Sys2Proof.Machine.execTmkill o s
  | .tkclaim o => Sys2Proof.Machine.execTkclaim o s
  | .tkdone o => Sys2Proof.Machine.execTkdone o s
  | .ftime o => Sys2Proof.Machine.execFtime o s
  | .fwidle o => Sys2Proof.Machine.execFwidle o s
  | .fwsev o => Sys2Proof.Machine.execFwsev o s
  | .qpost o => Sys2Proof.Machine.execQpost o s
  | .rdcyc o => Sys2Proof.Machine.execRdcyc o s
  | .lsreq o => Sys2Proof.Machine.execLsreq o s
  | .lsrenew o => Sys2Proof.Machine.execLsrenew o s
  | .lsdrop o => Sys2Proof.Machine.execLsdrop o s
  | .exlend o => Sys2Proof.Machine.execExlend o s
  | .lsrecall o => Sys2Proof.Machine.execLsrecall o s
  | .lsrd o => Sys2Proof.Machine.execLsrd o s
  | .kyopen o => Sys2Proof.Machine.execKyopen o s
  | .kyclose o => Sys2Proof.Machine.execKyclose o s
  | .fmcand o => Sys2Proof.Machine.execFmcand o s
  | .exmig o => Sys2Proof.Machine.execExmig o s
  | .twlV vd rs1 rs2 => Sys2Proof.Machine.execTwlV vd rs1 rs2 s
  | .pauseExpiry core slot lane => Sys2Proof.Machine.execPauseExpiry core slot lane s
  | .joinRelease core slot entry => Sys2Proof.Machine.execJoinRelease core slot entry s
  | .laneCollectiveCompletion core slot idx => Sys2Proof.Machine.execLaneCollectiveCompletion core slot idx s
  | .parkedSubgroupReplay core slot idx => Sys2Proof.Machine.execParkedSubgroupReplay core slot idx s
  | .deferredResultArrival core idx => Sys2Proof.Machine.execDeferredResultArrival core idx s
  | .storeQueueDrain core slot => Sys2Proof.Machine.execStoreQueueDrain core slot s
  | .storePerformed core idx => Sys2Proof.Machine.execStorePerformed core idx s
  | .holdExpiry idx => Sys2Proof.Machine.execHoldExpiry idx s
  | .writeAfterHolds core idx => Sys2Proof.Machine.execWriteAfterHolds core idx s
  | .larderRefreshWindow die group enter => Sys2Proof.Machine.execLarderRefreshWindow die group enter s
  | .hgenIncrement die => Sys2Proof.Machine.execHgenIncrement die s
  | .coreRetentionWake core => Sys2Proof.Machine.execCoreRetentionWake core s
  | .ptpCorrection offset => Sys2Proof.Machine.execPtpCorrection offset s
  | .powerLimitWindow milliwatts => Sys2Proof.Machine.execPowerLimitWindow milliwatts s
  | .tileDirectoryRequest idx => Sys2Proof.Machine.execTileDirectoryRequest idx s
  | .atomicPerform core idx => Sys2Proof.Machine.execAtomicPerform core idx s
  | .speculativeRollback core slot lane => Sys2Proof.Machine.execSpeculativeRollback core slot lane s
  | .waitvReread core slot lane => Sys2Proof.Machine.execWaitvReread core slot lane s
  | .gangBarrierRelease gang bar => Sys2Proof.Machine.execGangBarrierRelease gang bar s
  | .syncEngineUpdate core idx => Sys2Proof.Machine.execSyncEngineUpdate core idx s
  | .matrixCommandStart core idx => Sys2Proof.Machine.execMatrixCommandStart core idx s
  | .matrixBlockDone core idx => Sys2Proof.Machine.execMatrixBlockDone core idx s
  | .matrixCommandComplete core idx => Sys2Proof.Machine.execMatrixCommandComplete core idx s
  | .engineCommandStart core idx => Sys2Proof.Machine.execEngineCommandStart core idx s
  | .engineUnitStart core idx => Sys2Proof.Machine.execEngineUnitStart core idx s
  | .engineUnitPerformed core buf => Sys2Proof.Machine.execEngineUnitPerformed core buf s
  | .refineBlockStart die => Sys2Proof.Machine.execRefineBlockStart die s
  | .refineItemEnd die => Sys2Proof.Machine.execRefineItemEnd die s
  | .refineBlockEnd die => Sys2Proof.Machine.execRefineBlockEnd die s
  | .refineTrapDelivery idx => Sys2Proof.Machine.execRefineTrapDelivery idx s
  | .handlerWatchdogExpiry core slot => Sys2Proof.Machine.execHandlerWatchdogExpiry core slot s
  | .fltRec0Read core => Sys2Proof.Machine.execFltRec0Read core s
  | .efltRec0Read core => Sys2Proof.Machine.execEfltRec0Read core s
  | .fltAck core value => Sys2Proof.Machine.execFltAck core value s
  | .efltAck core value => Sys2Proof.Machine.execEfltAck core value s
  | .trPpcWrite core slot => Sys2Proof.Machine.execTrPpcWrite core slot s
  | .registerWrite addr value => Sys2Proof.Machine.execRegisterWrite addr value s
  | .queueDescriptorWrite queue word value => Sys2Proof.Machine.execQueueDescriptorWrite queue word value s
  | .queueActivate queue => Sys2Proof.Machine.execQueueActivate queue s
  | .queueDestroy queue => Sys2Proof.Machine.execQueueDestroy queue s
  | .queueNotify queue => Sys2Proof.Machine.execQueueNotify queue s
  | .partmapWrite idx value => Sys2Proof.Machine.execPartmapWrite idx value s
  | .leasectlWrite value => Sys2Proof.Machine.execLeasectlWrite value s
  | .gangPlacement queue => Sys2Proof.Machine.execGangPlacement queue s
  | .gangStartRelease gang => Sys2Proof.Machine.execGangStartRelease gang s
  | .headAging queue => Sys2Proof.Machine.execHeadAging queue s
  | .ticketRetire partition => Sys2Proof.Machine.execTicketRetire partition s
  | .journalTakeover thread => Sys2Proof.Machine.execJournalTakeover thread s
  | .sliceExpiry core team => Sys2Proof.Machine.execSliceExpiry core team s
  | .urgentPreemptionTimeout core team => Sys2Proof.Machine.execUrgentPreemptionTimeout core team s
  | .preemptionRequest core team => Sys2Proof.Machine.execPreemptionRequest core team s
  | .drainTimeout core team => Sys2Proof.Machine.execDrainTimeout core team s
  | .teamCompletion core team => Sys2Proof.Machine.execTeamCompletion core team s
  | .leaseRequestReceived msg => Sys2Proof.Machine.execLeaseRequestReceived msg s
  | .leaseGrantReceived msg => Sys2Proof.Machine.execLeaseGrantReceived msg s
  | .leaseReplyTimeout entry => Sys2Proof.Machine.execLeaseReplyTimeout entry s
  | .borrowerLeaseEnd entry => Sys2Proof.Machine.execBorrowerLeaseEnd entry s
  | .endingWritebackDone entry => Sys2Proof.Machine.execEndingWritebackDone entry s
  | .leaseRevokeReceived entry => Sys2Proof.Machine.execLeaseRevokeReceived entry s
  | .lenderTermExpiry extent => Sys2Proof.Machine.execLenderTermExpiry extent s
  | .leaseReleaseReceived extent => Sys2Proof.Machine.execLeaseReleaseReceived extent s
  | .backInvalidateSnoop entry line => Sys2Proof.Machine.execBackInvalidateSnoop entry line s
  | .recallCommit extent => Sys2Proof.Machine.execRecallCommit extent s
  | .leaseKeepalive peer received => Sys2Proof.Machine.execLeaseKeepalive peer received s
  | .peerSilent peer => Sys2Proof.Machine.execPeerSilent peer s
  | .lenderRequestTimeout core idx => Sys2Proof.Machine.execLenderRequestTimeout core idx s
  | .fmRoleLeaseRenew acks => Sys2Proof.Machine.execFmRoleLeaseRenew acks s
  | .garefWindowAdvertise port channel flits => Sys2Proof.Machine.execGarefWindowAdvertise port channel flits s
  | .garefPause port channel pause => Sys2Proof.Machine.execGarefPause port channel pause s
  | .garefFlitReceive port seq good => Sys2Proof.Machine.execGarefFlitReceive port seq good s
  | .garefLinkDown port => Sys2Proof.Machine.execGarefLinkDown port s
  | .hostCacheRequest port line modify => Sys2Proof.Machine.execHostCacheRequest port line modify s
  | .ethernetFrameReceive port frame fcs stamp => Sys2Proof.Machine.execEthernetFrameReceive port frame fcs stamp s
  | .firmwareImageUpdate image classical postQuantum => Sys2Proof.Machine.execFirmwareImageUpdate image classical postQuantum s
  | .spdmMeasurementRequest port => Sys2Proof.Machine.execSpdmMeasurementRequest port s
  | .coldStart => Sys2Proof.Machine.execColdStart s
  | .warmStart => Sys2Proof.Machine.execWarmStart s
  | .telemetryFlush orderly => Sys2Proof.Machine.execTelemetryFlush orderly s
  | .unassignedOpcodeIssue word => Sys2Proof.Machine.execUnassignedOpcodeIssue word s
  | .fabricEnumeration pkg => Sys2Proof.Machine.execFabricEnumeration pkg s
  | .coreRetentionSleep core => Sys2Proof.Machine.execCoreRetentionSleep core s
  | .peerAccessArrival req => Sys2Proof.Machine.execPeerAccessArrival req s
  | .fmRoleLeaseExpiry => Sys2Proof.Machine.execFmRoleLeaseExpiry s
  | .garefRetrainComplete port => Sys2Proof.Machine.execGarefRetrainComplete port s
  | .savedTeamRestore idx => Sys2Proof.Machine.execSavedTeamRestore idx s

end Sys2Proof.Machine
end

