-- ==== Sys2Proof/Machine/Run.lean ====
section
/-! DEFINITION. What a step does: time passes, and then the head of the agenda, an internal event that
is due or the issue that 03 R88 chooses is performed (log entries 2 and 3). -/

namespace Sys2Proof.Machine

/-- Time passes by amounts the spec leaves open (log entry 2); fabric time has 64 bits (01 R18). -/
def State.elapse (s : State) : State :=
  { s with tick := s.tick + 1, time := (s.time + Config.elapsedNs s.tick) % 2 ^ 64,
           cycles := s.cycles + Config.elapsedCycles s.tick }

/-! ### Issue -/

/-- A replay that firmware converted raises its trap, once the weave's speculating lanes can be rolled back (03 R96, 06 R213,
08 R296). -/
def State.convTrap (s : State) (g : Grp) : Option State :=
  let th := s.thread g.core g.slot
  match g.lanes.find? (fun l => (th l).conv != 0) with
  | none => none
  | some l =>
    let k := (th l).conv
    let f := g.lanes.filter (fun m => (th m).conv == k)
    if s.rollWaits g.core g.slot then some (s.hold g g.lanes) else
    let s := s.modThreads g.core g.slot f (fun _ t => { t with conv := 0 })
    some (if k = 1 then s.raise g trapProt 0x0A f else s.raise g trapPoison 0 f)

/-- The word at a body position that no instruction has: its reason (02 R73 to R75). -/
def State.illegalReason (s : State) (g : Grp) (w : DWord) (r : Nat) : Nat :=
  if majorForm (majorOf w) == some .L && s.atLast g then 1 else r
/-- The static check refuses the word whatever stands after it: it comes right after the fetch of the word itself
(02 R62, R75). -/
def State.staticBad (s : State) (g : Grp) (i : Instr) : Bool :=
  s.staticReason g (i.fields.getD {}) i.row != 0

/-- Issue the body word of the group that the cursor names. DESIGN CHOICE (log entry 56): a trap or a parking met by
the fetch of an L-form's second word names the address of the first in tr.pc. -/
noncomputable def State.issueWord (s : State) (g : Grp) : Host.Outcome State Fault Refusal :=
  let park := fun (s : State) (va : Nat) (c d l lid : Nat) =>
    if g.spec then s.shelve g g.lanes
    else (s.park g.core g.slot g.pc false (g.lanes.map (fun n =>
      { lane := n, cause := c, detail := d, level := l, lid := lid, va := va, iff := true }))).getD (s.hold g g.lanes)
  match s.fetch g.core g.slot g.pc.toNat with
  | (s, .wait) => .next (s.hold g g.lanes)
  | (s, .lender q) => .next (s.holdFetch g q)
  | (s, .bad c d) => .next (s.raise g c d g.lanes)
  | (s, .park c d l lid) => .next (park s g.pc.toNat c d l lid)
  | (s, .word w) =>
    match decodeWord w 0 with
    | .illegal r =>
      if r = 1 ∨ r = 4 then exec (.unassignedOpcodeIssue w) s
      else .next (s.raise g trapIllegal (s.illegalReason g w r) g.lanes)
    | .ok i =>
      if majorForm (majorOf w) = some .L && !s.staticBad g i then
        match s.fetch g.core g.slot (g.pc + 8#64).toNat with
        | (s, .wait) => .next (s.hold g g.lanes)
        | (s, .lender q) => .next (s.holdFetch g q)
        | (s, .bad c d) => .next (s.raise g c d g.lanes)
        | (s, .park c d l lid) => .next (park s (g.pc + 8#64).toNat c d l lid)
        | (s, .word v) =>
          match decodeWord w v with
          | .ok i => exec i s
          | .illegal r => .next (s.raise g trapIllegal (s.illegalReason g w r) g.lanes)
      else exec i s

/-- A lane may issue: its core is awake, its team has started and does not stop for a save, unless what it does is on its
way to a lender, and no trap of a refinement block is due to its weave (12 R410, R414; 06 R211; 11 R371; 07 R252). -/
def State.mayIssue (s : State) (c w l : Nat) : Bool :=
  ((s.core c).sleep).isNone && (match (s.weave c w).team with
    | none => true
    | some t => (s.team t).started && (!(s.team t).pre.stopping || (s.thread c w l).mode == .waiting .lender)) &&
    !(s.refTraps.any (fun e => e.2.core == c && e.2.slot == w && some e.2.team == (s.weave c w).team && !(s.weave c w).trH))

/-- Issue by one group: lanes of a weave that stand at one word. -/
noncomputable def State.offerGroup (s : State) (c w : Nat) (ls : List Nat) : Host.Outcome State Fault Refusal :=
  if ls.isEmpty then .next s
  else
    let s := { s with cur := { s.cur with core := c, slot := w, lanes := maskOf ls } }
    match s.group with
    | none => .next s
    | some g =>
      match s.convTrap g with
      | some s => .next s
      | none => if g.ctl.entry then .next (s.runHeader g) else s.issueWord g
/-- The thread stands at the word of `t`. -/
def Thread.standsWith (t u : Thread) : Bool := u.ctl.pc == t.ctl.pc && u.ctl.entry == t.ctl.entry
/-- Lanes that wait at the word of lane `l`, for it to be offered again or for a lender; a waitv reads again by an event of
its own. -/
def State.waiters (s : State) (c w l : Nat) : List Nat :=
  (List.range 32).filter (fun m =>
    let t := s.thread c w l
    let u := s.thread c w m
    u.offers && u.mode != .ready && u.watch.isNone && t.standsWith u && u.spec.isSome == t.spec.isSome && s.mayIssue c w m)
/-- A wait is over: the word would do more now than wait again. -/
noncomputable def State.wakes (s : State) (c w l : Nat) : Bool :=
  let ls := s.waiters c w l
  match s.offerGroup c w ls with
  | .next t => ({ t with cur := s.cur }.modThreads c w ls (fun m u => { u with stamp := (s.thread c w m).stamp })) != s
  | _ => true
/-- The lanes that issue together with lane `l`: those at its word that are ready, their waits being over (03 R88). -/
noncomputable def State.mates (s : State) (c w l : Nat) : List Nat :=
  (List.range 32).filter (fun m =>
    (s.thread c w l).standsWith (s.thread c w m) && s.mayIssue c w m &&
      ((s.thread c w m).offers && (s.thread c w m).mode == .ready ||
        (s.waiters c w l).contains m || ((s.waiters c w m).contains m && s.wakes c w m)))
/-- Offer an issue to the group of a lane. Its speculating lanes execute the word apart from the others, in the same step
(log entry 8). -/
noncomputable def State.offer (s : State) (c w l : Nat) : Host.Outcome State Fault Refusal :=
  if (tabFind w (s.core c).weaves).isNone || !(s.thread c w l).offers || !s.mayIssue c w l then .next s
  else
    let ms := s.mates c w l
    match s.offerGroup c w (ms.filter (fun m => (s.thread c w m).spec.isNone)) with
    | .next t => t.offerGroup c w (ms.filter (fun m => (s.thread c w m).spec.isSome && (t.thread c w m).spec.isSome &&
        (t.thread c w m).offers && (s.thread c w m).standsWith (t.thread c w m)))
    | r => r

/-- The candidate of a weave among the lanes that may issue: the group that has gone longest without issuing, then the one
with the lowest lane (03 R88). -/
noncomputable def State.candidate (s : State) (c w : Nat) : Option Nat :=
  ((List.range 32).filter (fun l => s.mayIssue c w l && (((s.thread c w l).offers && (s.thread c w l).mode == .ready) ||
      ((s.waiters c w l).contains l && s.wakes c w l)))).foldl (fun (m : Option Nat) l =>
    match m with
    | none => some l
    | some k => if (s.thread c w l).stamp < (s.thread c w k).stamp then some l else some k) none

/-- The slots in the order in which a core serves them: the firmware agent, then round robin. -/
def slotOrder (last : Nat) : List Nat :=
  Config.agentSlot :: (List.range Config.userSlots).map (fun n => (last + 1 + n) % Config.userSlots)
/-- The slots that a core serves in a new cycle: four at most, one candidate of each (03 R88). -/
noncomputable def State.coreCycle (s : State) (c : Nat) : List Nat :=
  ((slotOrder (s.core c).lastSlot).filter (fun w => (s.candidate c w).isSome)).take 4
/-- They issue with the agent first and then by ascending slot, so that what they post in one cycle enters in that order (09
R307). -/
def cycleOrder (ws : List Nat) : List Nat :=
  (Config.agentSlot :: List.range Config.userSlots).filter ws.contains
/-- The first of some slots that still has a candidate, that, and the slots after it. -/
noncomputable def State.firstOf (s : State) (c : Nat) : List Nat → Option (Nat × Nat × List Nat)
  | [] => none
  | w :: t =>
    match s.candidate c w with
    | some l => some (w, l, t)
    | none => s.firstOf c t
/-- A core's next issue: its slot and lane, the slots still to issue in the cycle, and the last slot served. -/
noncomputable def State.coreNext (s : State) (c : Nat) : Option (Nat × Nat × List Nat × Nat) :=
  match s.firstOf c (s.core c).due with
  | some e => some (e.1, e.2.1, e.2.2, (s.core c).lastSlot)
  | none =>
    let ws := s.coreCycle c
    (s.firstOf c (cycleOrder ws)).map (fun e =>
      (e.1, e.2.1, e.2.2, ((ws.filter (· != Config.agentSlot)).getLast?).getD (s.core c).lastSlot))

/-- The next issue, cores in turn. -/
noncomputable def State.nextIssue (s : State) : Option (Nat × Nat × Nat × List Nat × Nat) :=
  ((List.range Config.cores).map (fun n => (s.lastCore + 1 + n) % Config.cores)).findSome? (fun c =>
    (s.coreNext c).map (fun e => (c, e)))

noncomputable def State.issueNext (s : State) : Host.Outcome State Fault Refusal :=
  match (if s.idling && Config.idleCycle s.tick then none else s.nextIssue) with
  | some (c, w, l, due, last) =>
    ({ s with lastCore := c }.modCore c (fun k => { k with due := due, lastSlot := last })).offer c w l
  | none => .next s

/-! ### House cores (13 R433) -/

/-- A house core fetches 32 bits at its pc, a local address. -/
def State.houseWord (s : State) (n : Nat) : BitVec 32 :=
  BitVec.ofNat 32 (s.readPhys (s.fabric (localAddr ((tabGet {} n s.houses).pc.toNat))) 4)

/-- The firewall refuses a house core's access to a frame that a gang owns: its error response is an instruction access fault (13
R434; log entry 16). -/
def State.houseBarred (s : State) (n : Nat) : Bool :=
  let a := s.fabric (localAddr ((tabGet {} n s.houses).pc.toNat))
  s.tag a != 0 || s.tag (a + 3) != 0
noncomputable def State.houseStep (s : State) (n : Nat) : Host.Outcome State Fault Refusal :=
  if s.houseBarred n then .next (s.modHouse n (fun h => h.except 1))
  else match decodeHouse (s.houseWord n) with
  | some i => exec i { s with cur := { s.cur with house := n } }
  | none => .refused .houseWord

/-! ### Moves -/

/-- The core that a team stands on, for what its SRAM holds. -/
def State.unitOf (s : State) (t : Nat) : Nat := ((s.findTeam t).map (·.1)).getD 255
/-- An error that ECC cannot correct: the data is poisoned, and the telemetry counts it for the unit (01 R22, 13 R438): 1024 and
the core of a scratchpad or an operand buffer, 1280 and the die that a memory is homed on. A place of HBM at which the lease cache keeps a
line poisons that line. -/
def State.eccError (s : State) (l : Loc) : State :=
  match l with
  | .mem pa =>
    let pa := (s.lcKept pa).getD pa
    (s.setPoison pa true).count (1280 + homeDie pa) 1
  | .spad t _ => (s.markPoison l true).count (1024 + s.unitOf t) 1
def State.eccBuffer (s : State) (team off : Nat) : State :=
  (s.modTeam team (fun y => { y with opPoison := insertNat (off / 32) y.opPoison })).count (1024 + s.unitOf team) 1
/-- A move names units that exist (01 R15). -/
noncomputable def State.move (s : State) (m : Move) : Host.Outcome State Fault Refusal :=
  match m with
  | .issue c w l => if c < Config.cores then s.offer c w l else .next s
  | .house n => if n < 16 then s.houseStep n else .next s
  | .event i => if i.isWord then .next s else exec i s
  | .ecc l => .next (s.eccError l)
  | .eccBuffer t o => .next (s.eccBuffer t o)

/-- The numbers of the entries of a list. -/
def places {α : Type} (l : List α) : List Nat := List.range l.length
/-- Events of a weave that may be due. -/
noncomputable def Weave.events (x : Weave) (c w : Nat) : List Instr :=
  let ls := List.range 32
  List.flatten [
    (if x.queued.isEmpty then [] else [Instr.storeQueueDrain c w]),
    (ls.filter (fun l => (x.thread l).mode == .paused)).map (fun l => Instr.pauseExpiry c w l),
    (places x.joins).map (fun n => Instr.joinRelease c w n),
    (places x.colls).map (fun n => Instr.laneCollectiveCompletion c w n),
    (places x.parked).map (fun n => Instr.parkedSubgroupReplay c w n),
    (ls.filter (fun l => (x.thread l).spec.isSome)).map (fun l => Instr.speculativeRollback c w l),
    (ls.filter (fun l => (x.thread l).watch.isSome)).map (fun l => Instr.waitvReread c w l),
    (ls.filter (fun l => (x.thread l).lend.isSome || (x.thread l).frame.isSome)).map (fun l => Instr.lenderRequestTimeout c (32 * w + l)),
    (if x.trH && x.trM then [Instr.handlerWatchdogExpiry c w] else [])]
/-- A core in retention sleep that has work, or whose sleep has lasted nearly 255 changes of HGEN (07 R252). -/
def State.mustWake (s : State) (c : Nat) : Bool :=
  match (s.core c).sleep with
  | none => false
  | some h => (s.core c).fwEvents != 0 || !(s.core c).teams.isEmpty ||
      decide (254 ≤ ((s.die (dieOf c)).hgen + 256 - h) % 256)
/-- Events of a team that may be due. -/
noncomputable def State.teamEvents (s : State) (c t : Nat) (x : Team) : List Instr :=
  List.flatten [
    [Instr.teamCompletion c t, Instr.sliceExpiry c t, Instr.urgentPreemptionTimeout c t, Instr.drainTimeout c t],
    (if s.stageReady c x then [Instr.preemptionRequest c t] else []),
    ((places x.matq).map (fun n => [Instr.matrixCommandStart c n, Instr.matrixBlockDone c n, Instr.matrixCommandComplete c n])).flatten]
/-- Events of a core that may be due. -/
noncomputable def State.coreEvents (s : State) (c : Nat) (k : Core) : List Instr :=
  List.flatten [
    (k.weaves.map (fun e => e.2.events c e.1)).flatten,
    (places k.deferred).map (fun n => Instr.deferredResultArrival c n),
    ((places k.pending).map (fun n => [Instr.storePerformed c n, Instr.writeAfterHolds c n, Instr.syncEngineUpdate c n])).flatten,
    (places k.atoms).map (fun n => Instr.atomicPerform c n),
    ((places k.cmds).map (fun n => [Instr.engineCommandStart c n, Instr.engineUnitStart c n])).flatten,
    (places k.bufs).map (fun n => Instr.engineUnitPerformed c n),
    (if k.signs.isEmpty then [] else [Instr.matrixCommandStart c 0]),
    (k.teams.map (fun e => s.teamEvents c e.1 e.2)).flatten,
    (if s.mustWake c then [Instr.coreRetentionWake c] else [])]
/-- Events of the lease table that may be due (13 R419 to R421). -/
noncomputable def State.leaseEvents (s : State) : List Instr :=
  List.flatten [
    (s.borrowers.map (fun b => [Instr.leaseReplyTimeout b.1, Instr.borrowerLeaseEnd b.1, Instr.endingWritebackDone b.1])).flatten,
    (s.lenders.map (fun l => [Instr.lenderTermExpiry l.1, Instr.recallCommit l.1])).flatten,
    ((s.snoops.filter (·.pending)).map (fun x => Instr.backInvalidateSnoop 0 x.line)),
    (s.peers.map (fun p => [Instr.leaseKeepalive p.1 false, Instr.peerSilent p.1])).flatten]
noncomputable def Kept.event (k : Kept) : Instr :=
  match k with
  | .revoke e => .leaseRevokeReceived e
  | .notify q => .queueNotify q
  | .destroy q => .queueDestroy q
  | .register a v => .registerWrite a v
/-- Internal events that may be due, in no order that matters. -/
noncomputable def State.events (s : State) : List Instr :=
  List.flatten [
    (s.cores.map (fun k => s.coreEvents k.1 k.2)).flatten,
    (places s.dirReqs).map (fun n => Instr.tileDirectoryRequest n),
    ((s.gangs.map (fun g => Instr.gangStartRelease g.id :: (List.range 8).map (fun n => Instr.gangBarrierRelease g.id n))).flatten),
    ((List.range Config.dies).map (fun d => [Instr.refineBlockStart d, Instr.refineItemEnd d, Instr.refineBlockEnd d, Instr.hgenIncrement d])).flatten,
    (places s.refTraps).map (fun n => Instr.refineTrapDelivery n),
    (s.queues.map (fun q => [Instr.gangPlacement q.1, Instr.headAging q.1])).flatten,
    (s.qptkc.map (fun p => Instr.ticketRetire p.1)),
    (places s.away).map (fun n => Instr.savedTeamRestore n),
    s.sched.heart.map (fun h => Instr.journalTakeover h.1),
    (places s.holds).map (fun n => Instr.holdExpiry n),
    ((List.range (16 * Config.dies)).map (fun n => [Instr.larderRefreshWindow (n / 16) (n % 16) true,
      Instr.larderRefreshWindow (n / 16) (n % 16) false])).flatten,
    s.leaseEvents,
    s.arrivals.map (fun q => Instr.peerAccessArrival q),
    s.frames.map (fun f => Instr.ethernetFrameReceive f.port f.bytes true f.stamp),
    s.hostReqs.map (fun r => Instr.hostCacheRequest r.1 r.2.1 r.2.2),
    (s.queues.filter (fun q => q.2.stuck)).map (fun q => Instr.queueNotify q.1),
    s.kept.map Kept.event,
    [Instr.fmRoleLeaseExpiry]]
/-- An event is due where it changes the state. -/
noncomputable def State.due (s : State) (e : Instr) : Bool :=
  match exec e s with
  | .next t => t != s
  | _ => false
/-- An internal event that is due: those that may be are tried from a place that moves with the steps (log
entry 3). -/
noncomputable def State.nextEvent (s : State) : Option Instr :=
  let es := s.events
  let n := s.tick % (es.length + 1)
  (es.drop n ++ es.take n).find? s.due

/-- With nothing on the agenda, events and issues take turns, whichever is possible. -/
noncomputable def State.idle (s : State) : Host.Outcome State Fault Refusal :=
  match (if s.tick % 2 = 0 then s.nextEvent else none), s.nextIssue.isSome with
  | some e, _ => exec e s
  | none, true => s.issueNext
  | none, false =>
    match s.nextEvent with
    | some e => exec e s
    | none => .next s

/-- One step of the package. -/
noncomputable def State.stepOnce (s : State) : Host.Outcome State Fault Refusal :=
  let s := s.elapse
  match s.agenda with
  | m :: rest => { s with agenda := rest }.move m
  | [] => s.idle

/-! ### Placing an instruction where the next step fetches it (log entry 15) -/

/-- Bytes of a number stored from an address on. -/
def State.poke (s : State) (pa n v : Nat) : State :=
  { s with mem := ((leBytes n v).zipIdx 0).foldl (fun m e => tabPut 0 (pa + e.2) e.1 m) s.mem }

/-- Page tables of context `x` that map address 0 onto frame 1 for fetching, and a header there. -/
def State.placeCode (s : State) (x : Nat) : State :=
  let s := { s with contexts := tabSet x { s.context x with ptroot := 0x1000 } s.contexts }
  ((((s.poke 0x1000 8 0x2001).poke 0x2000 8 0x4001).poke 0x4000 8 0x6001).poke 0x6000 8
    (0x800 + 0x137)).poke 0x80100 8 0xF802000000000000

/-- A lane that stands at the first body word of that block. -/
def placedThread : Thread := { mode := .ready, ctl := { pc := 0x108, bh := 0x100, len := 2, entry := false } }

/-- A team of one weave on core 0 with one thread. -/
def State.placeTeam (s : State) : State :=
  let t := s.nextId
  { s with nextId := t + 1 }.modCore 0 (fun k => { k with
    weaves := tabSet 0 { team := some t, threads := [(0, placedThread)] } k.weaves
    teams := tabSet t { id := t, ctx := 1, slots := [0],
                        kd := { regs := 511, rv := 24, cv := 16, cc := 16, gb := 8, slots := 64 } } k.teams })

noncomputable def State.placeWord (s : State) (nbits w : Nat) : State :=
  if nbits ≤ 32 then
    let a := s.fabric (localAddr ((tabGet {} 0 s.houses).pc.toNat))
    { s.poke a 4 w with agenda := [.house 0] }
  else
    let fw := match decodeTableWord nbits w with
      | some i => i.row.priv
      | none => false
    if fw then
      let s := ((s.placeCode 0).poke 0x80108 16 w).modCore 0 (fun k => { k with
        weaves := tabSet Config.agentSlot { threads := [(0, placedThread)] } k.weaves })
      { s with agenda := [.issue 0 Config.agentSlot 0] }
    else
      let s := ((s.placeCode 1).poke 0x80108 16 w).placeTeam
      { s with agenda := [.issue 0 0 0] }

end Sys2Proof.Machine
end

