-- ==== Sys2Proof/Safety.lean ====
section
/-! DEFINITION. What counts as a safe run, and the words in which the obligations speak of one issue: when an
instruction completes, what its lanes then hold, and what stands as it was. -/

namespace Sys2Proof

/-- A step goes on. -/
def Safe (s : Machine.State) : Prop := ∃ t, Machine.step s = .next t

namespace Machine

/-- The group that the cursor names passes every check of 02 R75 with this instruction, which then executes
in the lanes `x.ex`, its operands read as `x` gives them. A condition on the state and the operands alone. -/
abbrev Ready (i : Instr) (s : State) (x : Iss) : Prop :=
  s.group = some x.g ∧ s.gate x.g i (i.fields.getD {}) i.row i.speculates = .go x

/-- What one executing lane leaves: the value of d, a predicate and its value, exceptions raised, stochastic
draws made. -/
structure LaneOut where
  reg : Option Nat := none
  pred : Option (Nat × Bool) := none
  flags : Nat := 0
  draws : Nat := 0
  deriving DecidableEq, Repr

/-- The register cell that a value of `bits` bits leaves in register `n`, where it is written to the group that
starts at `d`; vz discards it (02 R48, R50, R55). -/
def groupCell (d : BitVec 9) (bits v n : Nat) : Option RegCell :=
  if d ≠ 511 ∧ d.toNat ≤ n ∧ n < d.toNat + regsOf bits then
    some { val := BitVec.ofNat 32 (v / 2 ^ (32 * (n - d.toNat))) }
  else none

/-- A thread that has moved past its word (02 R43). -/
def movedOn (t : Thread) (words tick : Nat) : Thread :=
  { t with ctl := t.ctl.next words, mode := .ready, stamp := tick, lend := none, mark := none, hollow := [], ceded := [] }

/-- The operand buffer that keep leaves in an executing lane (02 R58, R60). -/
def keptOb (x : Iss) (l : Nat) (old : OpBuf) : OpBuf :=
  match x.kept with
  | none => old
  | some q => { valid := true, width := q.bits, val := BitVec.ofNat 128 (q.value (x.th l)) }

/-- A thread with the operand buffer that keep leaves. -/
def Iss.keeps (x : Iss) (l : Nat) (t : Thread) : Thread := { t with ob := keptOb x l t.ob }

/-- `t` differs from `s` at most in the threads `ls` of one weave: every byte of memory, every other register of
the package, core, weave and thread stands. -/
structure OnlyThreads (s t : State) (c w : Nat) (ls : List Nat) : Prop where
  bytes : ∀ pa, t.memByte pa = s.memByte pa
  package : { t with cores := s.cores } = s
  cores : ∀ k, k ≠ c → t.core k = s.core k
  units : { t.core c with weaves := (s.core c).weaves } = s.core c
  weaves : ∀ v, v ≠ w → t.weave c v = s.weave c v
  tables : { t.weave c w with threads := (s.weave c w).threads } = s.weave c w
  lanes : ∀ l, l ∉ ls → t.thread c w l = s.thread c w l

/-- What a lane of the group holds after an instruction that only computes: `o` is what it leaves, none where the
lane does not execute. -/
structure LaneAfter (x : Iss) (l : Nat) (o : Option LaneOut) (old new : Thread) (tick : Nat) : Prop where
  ctl : new.ctl = old.ctl.next x.words
  mode : new.mode = .ready
  stamp : new.stamp = tick
  lend : new.lend = none
  replay : new.hollow = [] ∧ new.ceded = [] ∧ new.mark = none
  regs : ∀ n, new.reg n = ((o.bind (·.reg)).bind (fun v => groupCell x.f.d (x.r.d.width x.f.b) v n)).getD (old.reg n)
  preds : ∀ n, n < 8 → new.pred n =
    match o.bind (·.pred) with
    | some (k, b) => if n = k ∧ n ≠ 7 then b else old.pred n
    | none => old.pred n
  ob : new.ob = if o.isSome then keptOb x l old.ob else old.ob
  flags : new.fpFlags = old.fpFlags ||| BitVec.ofNat 32 ((o.map (·.flags)).getD 0)
  draws : new.rsCount = old.rsCount + BitVec.ofNat 32 ((o.map (·.draws)).getD 0)
  spec : new.spec.isSome = old.spec.isSome
  rest : { new with ctl := old.ctl, mode := old.mode, stamp := old.stamp, lend := old.lend, regs := old.regs,
                    preds := old.preds, ob := old.ob, fpFlags := old.fpFlags, rsCount := old.rsCount,
                    spec := old.spec, mark := old.mark, hollow := old.hollow, ceded := old.ceded } = old

/-- The whole effect of an instruction that only computes: executing lane `l` leaves `out l`, the group stands at
the next word, and nothing else changes. -/
structure Computed (s : State) (x : Iss) (out : Nat → LaneOut) (t : State) : Prop where
  outside : OnlyThreads s t x.g.core x.g.slot x.g.lanes
  lanes : ∀ l, l ∈ x.g.lanes → LaneAfter x l (if l ∈ x.ex then some (out l) else none)
    (s.thread x.g.core x.g.slot l) (t.thread x.g.core x.g.slot l) s.tick

/-- Where it is ready, the instruction completes, each executing lane leaving `out`. -/
def Computes (i : Instr) (out : Iss → Nat → LaneOut) : Prop :=
  ∀ s x, Ready i s x → ∃ t, exec i s = .next t ∧ Computed s x (out x) t

/-- d and nothing else. -/
def toReg (v : Iss → Nat → Nat) : Iss → Nat → LaneOut := fun x l => { reg := some (v x l) }
/-- The predicate that the d field names. -/
def toPred (v : Iss → Nat → Bool) : Iss → Nat → LaneOut := fun x l => { pred := some (x.f.d.toNat % 8, v x l) }
/-- Nothing. -/
def toNone : Iss → Nat → LaneOut := fun _ _ => {}

/-- The state in which the group has moved past its word and nothing else has happened: the instruction's own
effect starts from it. -/
def Iss.moved (x : Iss) (s : State) : State := s.advance x.g x.words
/-- The state after the effect `u`: keep has filled the operand buffers of the executing lanes. -/
def Iss.settled (x : Iss) (u : State) : State := x.keep u x.ex
/-- The group still at its word, as a trap finds it. -/
def Iss.back (x : Iss) (s : State) : State := x.unrun (x.moved s) x.g.lanes

/-- What stands around an instruction that acts on a unit: every byte of memory, every thread outside the group, the
tables and trap registers of every weave; and the lanes of the group hold what they held but for `out`. -/
structure Stands (s : State) (x : Iss) (out : Nat → LaneOut) (t : State) : Prop where
  bytes : ∀ pa, t.memByte pa = s.memByte pa
  threads : ∀ c w l, ¬ (c = x.g.core ∧ w = x.g.slot ∧ l ∈ x.g.lanes) → t.thread c w l = s.thread c w l
  tables : ∀ c w, { t.weave c w with threads := [] } = { s.weave c w with threads := [] }
  lanes : ∀ l, l ∈ x.g.lanes → LaneAfter x l (if l ∈ x.ex then some (out l) else none)
    (s.thread x.g.core x.g.slot l) (t.thread x.g.core x.g.slot l) s.tick

/-- Where it is ready and `pre` holds of the moved state, the instruction completes: the moved state changed by
`eff`, and no more. -/
def Does (i : Instr) (pre : Iss → State → Prop) (eff : Iss → State → State) : Prop :=
  ∀ s x, Ready i s x → pre x (x.moved s) → exec i s = .next (x.settled (eff x (x.moved s)))

/-- Where it is ready and `pre` holds of the moved state, a condition on the state and the operands alone, the instruction
completes: exec answers a next state, in which every lane of the group stands at the next word. -/
def Completes (i : Instr) (pre : Iss → State → Prop) : Prop :=
  ∀ s x, Ready i s x → pre x (x.moved s) → ∃ t, exec i s = .next t ∧
    ∀ l ∈ x.g.lanes, (t.thread x.g.core x.g.slot l).ctl = (s.thread x.g.core x.g.slot l).ctl.next x.words ∧
      (t.thread x.g.core x.g.slot l).mode = .ready
/-- The checks of a non-faulting load (06 R185): the state that they leave, and the answer for each executing lane. -/
def Iss.nfChecks (x : Iss) (s : State) : State × List (Nat × Nat × Chk) :=
  let k : MemKind := {}
  let r := s.checkList x.agent (k.acc x false) (x.ex.map (k.ea x))
  (r.1, x.answers r.1 ((x.ex.zip r.2).map (fun c => (c.1, k.ea x c.1, c.2))))
/-- The lanes whose checks end in a trap. -/
def Iss.nfBad (x : Iss) (s : State) : List Nat :=
  ((x.nfChecks s).2.filter (fun c => match c.2.2 with
    | .bad _ _ _ => true
    | _ => false)).map (·.1)
/-- Every executing lane of a group that does not speculate is past its checks onto memory, or its checks end in a trap. -/
abbrev Iss.nfGoes (x : Iss) (s u : State) (qs : List Lane) : Prop :=
  x.g.spec = false ∧ s.atomPending x.g.core x.g.slot x.ex = false ∧
    x.settle (x.nfChecks s).1 false (x.nfChecks s).2 = some (u, qs) ∧
    (∀ l ∈ x.ex, l ∈ x.nfBad s ∨ l ∈ qs.map (·.l)) ∧
    ∀ q ∈ qs, ∃ pa, q.loc = .mem pa ∧ regsAddr pa = false

/-- `Does`, and memory, threads and weaves stand but for `out` in the executing lanes. -/
def Acts (i : Instr) (pre : Iss → State → Prop) (out : Iss → State → Nat → LaneOut) (eff : Iss → State → State) : Prop :=
  ∀ s x, Ready i s x → pre x (x.moved s) →
    exec i s = .next (x.settled (eff x (x.moved s))) ∧ Stands s x (out x (x.moved s)) (x.settled (eff x (x.moved s)))

/-- Acts that leave no value in a lane, and acts that write one value to d of every executing lane. -/
def still : Iss → State → Nat → LaneOut := fun _ _ _ => {}
def gives (v : Iss → State → Nat) : Iss → State → Nat → LaneOut := fun x s _ => { reg := some (v x s) }

/-- The team of the group, and that there is one and some lane executes. -/
def Iss.mine (x : Iss) (s : State) : Nat := (s.weave x.g.core x.g.slot).team.getD 0
abbrev Iss.teamed (x : Iss) (s : State) : Prop := (s.weave x.g.core x.g.slot).team.isSome = true ∧ x.ex ≠ []
/-- The lowest executing lane, and that every executing lane has its operands. -/
def Iss.low (x : Iss) : Nat := x.ex.headD 0
abbrev Iss.alike (x : Iss) (ops : Iss → Nat → List Nat) : Prop := x.ex ≠ [] ∧ ∀ l ∈ x.ex, ops x l = ops x x.low

/-- The group can trap: it does not speculate (06 R190), and no atomic of a lane of its weave that does is under way, whose
result a roll-back has to await (08 R296). -/
abbrev Iss.canTrap (x : Iss) (s : State) : Prop := x.g.spec = false ∧ s.rollWaits x.g.core x.g.slot = false
/-- Where it is ready and `pre` holds, the instruction raises the trap in the lanes that `who` picks, with none of its
effect. -/
def Raises (i : Instr) (pre : Iss → State → Prop) (cause detail : Nat) (who : Iss → List Nat) : Prop :=
  ∀ s x, Ready i s x → x.canTrap (x.moved s) → pre x (x.moved s) →
    exec i s = .next ((x.back s).trapEntry x.g.core x.g.slot x.g.lanes (who x) cause detail x.g.pc)

/-- A ticket instruction has accepted its ticket, or does so now: its reserved fields are zero and its STATE is one of `ks`
(12 R393, 00 R9). -/
abbrev Iss.accepted (x : Iss) (s : State) (ks : List Nat) : Prop :=
  x.asked x.low = true ∨ (s.ticketSound (x.a x.low) = true ∧ s.ticketState (x.a x.low) ∈ ks)
/-- A ticket lies in memory of this package that no scratchpad has registered, and the lease cache is empty. -/
abbrev State.ticketPlain (s : State) (a : Nat) : Prop :=
  s.lcache = [] ∧ ∀ i, i < 64 → s.isLocal (s.fabric (a + i)) = true ∧ s.place (s.fabric (a + i)) = .mem (s.fabric (a + i))

/-- A floating-point result as an effect: destination, sticky flags, and a draw where the mode is stochastic. -/
def fpOut (x : Iss) (w : FpWrite) : LaneOut :=
  { reg := w.w.d, pred := w.w.p.map (fun b => (x.f.d.toNat % 8, b)), flags := w.ex, draws := if x.stoch then 1 else 0 }
/-- The lanes with an enabled exception, and the union of these exceptions (05 R152). -/
def trapping (r : Iss → Nat → FpWrite) (x : Iss) : List Nat :=
  x.ex.filter (fun l => (r x l).ex &&& (x.th l).enables != 0)
def trapBits (r : Iss → Nat → FpWrite) (x : Iss) : Nat :=
  x.ex.foldl (fun m l => m ||| ((r x l).ex &&& (x.th l).enables)) 0
/-- Where it is ready and `pre` holds, the group waits for its word to be offered again, having done nothing. -/
def Waits (i : Instr) (pre : Iss → State → Prop) : Prop :=
  ∀ s x, Ready i s x → pre x (x.moved s) →
    exec i s = .next (x.unrun ((x.moved s).hold x.g x.g.lanes) x.g.lanes)

/-- The same of an instruction that keeps its place while it waits, at the index of the team that it names (log entry 6). -/
def WaitsInTurn (i : Instr) (pre : Iss → State → Prop) (tile : Iss → Option Nat) : Prop :=
  ∀ s x, Ready i s x → pre x (x.moved s) →
    exec i s = .next (x.unrun ((x.note (x.moved s) x.ex (fun _ => none) (tile x)).hold x.g x.g.lanes) x.g.lanes)

/-- A lane collective all of whose lanes arrive in one issue (04 R133 to R135): each names exactly the executing
lanes, and no collective is open in the weave. It completes, lane `l` leaving `val l`; `val` reads the state in which
the group has moved past its word. -/
def Collects (i : Instr) (val : Iss → Nat → FpWrite) : Prop :=
  ∀ s x, Ready i s x → x.ex ≠ [] → (s.weave x.g.core x.g.slot).colls = [] →
    (∀ l ∈ x.ex, BitVec.ofNat 32 (x.b l) = maskOf x.ex) → trapping val { x with old := x.moved s } = [] →
    ∃ t, exec i s = .next t ∧ Computed s x (fun l => fpOut x (val { x with old := x.moved s } l)) t

/-- The issue as which an open collective completes: its contributors, with the operands that stand in their registers. -/
def Coll.issue (k : Coll) (s : State) (c w : Nat) : Iss :=
  { g := { core := c, slot := w, lanes := lanesOf k.joined, pc := k.pc,
           ctl := (((lanesOf k.joined).head?).map (fun l => (s.thread c w l).ctl)).getD {}, spec := false },
    i := k.instr, f := k.instr.fields.getD {}, r := k.instr.row, ex := lanesOf k.joined, old := s }
/-- A collective whose lanes have arrived in several issues completes by the event: each contributor is left what
`val` gives it (04 R135). -/
def CollectsLater (i : Instr) (val : Iss → Nat → FpWrite) : Prop :=
  ∀ (s : State) c w n (k : Coll), (s.weave c w).colls[n]? = some k → (s.weave c w).collReady k = true → k.instr = i →
    let x := k.issue s c w
    trapping val x = [] → ∃ t, exec (.laneCollectiveCompletion c w n) s = .next t ∧ ∀ l, k.joined.getLsbD l = true →
      let o := fpOut x (val x l)
      let u := s.thread c w l
      let v := t.thread c w l
      (∀ r, v.reg r = (o.reg.bind (fun z => groupCell x.f.d (x.r.d.width x.f.b) z r)).getD (u.reg r)) ∧
      (∀ r, r < 8 → v.pred r = match o.pred with
        | some (j, b) => if r = j ∧ r ≠ 7 then b else u.pred r
        | none => u.pred r) ∧
      v.ob = keptOb x l u.ob ∧ v.fpFlags = u.fpFlags ||| BitVec.ofNat 32 o.flags ∧ v.rsCount = u.rsCount + BitVec.ofNat 32 o.draws
/-- With an enabled exception in some contributor, the event raises the arithmetic trap instead (05 R152). -/
def TrapsLater (i : Instr) (val : Iss → Nat → FpWrite) : Prop :=
  ∀ (s : State) c w n (k : Coll), (s.weave c w).colls[n]? = some k → (s.weave c w).collReady k = true → k.instr = i →
    let x := k.issue s c w
    trapping val x ≠ [] → s.rollWaits c w = false → exec (.laneCollectiveCompletion c w n) s =
      .next ((s.modWeave c w (fun y => { y with colls := y.colls.filter (fun q => !(q.pc == k.pc && q.mask == k.mask)) })).trapEntry
        c w x.ex (trapping val x) trapArith (trapBits val x) k.pc)

/-- What every instruction that goes to memory leaves around it: the bytes are those of `u`, the state in which its
checks have been made; `view` of a thread outside the group and of a lane that does not execute is as it was; an
executing lane is changed by `eff`. -/
structure Passed (s u : State) (x : Iss) (view : Thread → Thread) (eff : Nat → Thread → Thread) (t : State) : Prop where
  bytes : ∀ pa, t.memByte pa = u.memByte pa
  threads : ∀ c w l, ¬ (c = x.g.core ∧ w = x.g.slot ∧ l ∈ x.g.lanes) → view (t.thread c w l) = view (s.thread c w l)
  skipped : ∀ l, l ∈ x.g.lanes → l ∉ x.ex → view (t.thread x.g.core x.g.slot l) =
    view (movedOn (s.thread x.g.core x.g.slot l) x.words s.tick)
  lanes : ∀ l, l ∈ x.ex → view (t.thread x.g.core x.g.slot l) =
    view (x.keeps l (eff l (movedOn (s.thread x.g.core x.g.slot l) x.words s.tick)))
/-- Joins, parked sub-groups, collectives, queues, read sets and trap registers of every weave stand. -/
def SameTables (s t : State) : Prop := ∀ c w, { t.weave c w with threads := [] } = { s.weave c w with threads := [] }
/-- A thread but for its speculation, in which a store may mark a conflict (08 R293). -/
def Thread.plainly (t : Thread) : Thread := { t with spec := none }
/-- A place in memory that is no register. -/
def Loc.isData (l : Loc) : Prop := ∃ pa, l = .mem pa ∧ regsAddr pa = false
/-- What the executing thread `l` reads of `n` bytes (06 R180; 08 R257, R258). -/
def Iss.readsAt (x : Iss) (u : State) (q : Lane) (n : Nat) : Nat :=
  leNat ((q.loc.span n).map (u.seenByte x.g.core x.g.slot q.l))

/-- A load completes wherever all of its executing lanes pass the checks: d is set empty, and one result per lane is posted,
to vz none but a poisoned one; from memory it is the bytes read, none where a sector is poisoned, with the address of the
lowest lane that reads poison (02 R48, R55, 06 R180, R216). -/
def Loads (i : Instr) (k : MemKind) : Prop :=
  ∀ s x u qs, Ready i s x → x.g.spec = false → x.access (x.moved s) (k.acc x false) (k.ea x) = .go u qs →
    qs.map (·.l) = x.ex →
    ∃ t, ∃ vs : List (Option Nat), exec i s = .next t ∧
      Passed s u x Thread.plainly (fun _ t => t.setEmpty x.f.d (x.r.d.width x.f.b)) t ∧ SameTables s t ∧
      vs.length = qs.length ∧
      (t.core x.g.core).deferred = (s.core x.g.core).deferred ++ (qs.zip vs).flatMap (fun e =>
        if x.f.d = 511 ∧ e.2.isSome then [] else
          [{ slot := x.g.slot, lane := e.1.l, reg := x.f.d.toNat, cnt := if x.f.d = 511 then 0 else regsOf (x.r.d.width x.f.b),
             val := e.2, pc := x.g.pc, va := BitVec.ofNat 64 ((u.poisonAddr (k.size x) qs).getD e.1.ea) }]) ∧
      ∀ e ∈ qs.zip vs, e.1.loc.isData →
        e.2 = if u.anyPoison (e.1.loc.span (k.size x)) then none
              else some (extendLoad k.signed (k.size x) (x.readsAt u e.1 (k.size x)))

/-- The byte `j` that lane `q.l` stores from d (06 R181). -/
def Iss.storeByte (x : Iss) (q : Lane) (j : Nat) : StoreByte :=
  { loc := q.loc.add j, val := BitVec.ofNat 8 (x.d q.l / 2 ^ (8 * j)), lane := q.l }
/-- Entries hold exactly bytes of the store: each one some lane's enabled byte, and each enabled byte but for those
that a higher lane writes too, in this issue or in the one that parked the lane (06 R181, R182). -/
def StoresOf (x : Iss) (k : MemKind) (en : Nat → Nat → Bool) (qs : List Lane) (es : List StoreEnt) : Prop :=
  (∀ e ∈ es, e.slot = x.g.slot ∧ e.rel = x.f.mod.getLsbD 3 ∧ ∀ b ∈ e.bytes, ∃ q ∈ qs, ∃ j, j < k.size x ∧ en q.l j = true ∧
    b = x.storeByte q j) ∧
  ∀ q ∈ qs, ∀ j, j < k.size x → en q.l j = true →
    (∀ m ∈ x.ex, q.l < m → ∀ n, n < k.size x → en m n = true → (k.ea x m + n) % 2 ^ 64 ≠ (q.ea + j) % 2 ^ 64) →
    (q.ea + j) % 2 ^ 64 ∉ (x.th q.l).ceded.map (·.1) →
    ∃ e ∈ es, x.storeByte q j ∈ e.bytes
/-- A store can be made: its threads do not speculate (06 R190), every executing lane is past its checks (06 R188), and the
weave's queue has room for its entries (06 R187). -/
abbrev Iss.storeGoes (x : Iss) (k : MemKind) (en : Nat → Nat → Bool) (s : State) : Prop :=
  x.g.spec = false ∧ ∃ u qs, x.access s (k.acc x true) (k.ea x) = .go u qs ∧ qs.map (·.l) = x.ex ∧
    (s.weave x.g.core x.g.slot).queued.length + (storeEntries x.g.slot (s.weave x.g.core x.g.slot).team (x.f.mod.getLsbD 3)
      (k.size x) s.tick (qs.map (x.storedBy k en))).length ≤ Config.storeQueue
/-- A store completes wherever all of its executing lanes pass the checks, its threads do not speculate, and the weave's
queue has room: its bytes enter the queue, and no byte of memory changes yet (06 R187, 08 R257). -/
def Stores (i : Instr) (k : MemKind) (en : Iss → Nat → Nat → Bool) : Prop :=
  ∀ s x u qs, Ready i s x → x.g.spec = false → x.access (x.moved s) (k.acc x true) (k.ea x) = .go u qs →
    qs.map (·.l) = x.ex →
    (s.weave x.g.core x.g.slot).queued.length + (storeEntries x.g.slot (s.weave x.g.core x.g.slot).team (x.f.mod.getLsbD 3)
      (k.size x) s.tick (qs.map (x.storedBy k (en x)))).length ≤ Config.storeQueue →
    ∃ t es, exec i s = .next t ∧ Passed s u x Thread.plainly (fun _ t => t) t ∧ StoresOf x k (en x) qs es ∧
      (t.weave x.g.core x.g.slot).storeq = (s.weave x.g.core x.g.slot).storeq ++ es ∧
      ∀ c w, ¬ (c = x.g.core ∧ w = x.g.slot) → (t.weave c w).storeq = (s.weave c w).storeq

/-- An atomic all of whose executing lanes pass the checks: it is posted, its destination set empty where it returns a
value; `new` and `res` say what it does to its location and returns when it is performed, alone on a word of memory that
is no register, with no line of the lease cache and no copy under a hold in the way (08 R273 to R276). -/
def Atomics (i : Instr) (ea : Iss → Nat → Nat) (xv yv : Iss → Nat → Nat) (n : Nat) (new : Nat → Nat → Nat → Option Nat)
    (res : Nat → Option Nat) : Prop :=
  (∀ s x u qs, Ready i s x → x.ex ≠ [] →
    x.access (x.moved s) { rd := true, wr := true, align := n, size := n, atomic := true } (ea x) = .go u qs →
    qs.map (·.l) = x.ex →
    ∃ t, exec i s = .next t ∧
      Passed s u x Thread.plainly (fun _ t => if (res 0).isSome then t.setEmpty x.f.d (x.r.d.width x.f.b) else t) t ∧ SameTables s t ∧
      (t.core x.g.core).atoms = (s.core x.g.core).atoms ++
        [{ slot := x.g.slot, pc := x.g.pc, instr := i, team := (s.weave x.g.core x.g.slot).team, born := s.tick,
           lanes := qs.map (fun q =>
             { lane := q.l, loc := q.loc, va := q.ea, sync := leafSync q.leaf,
               x := BitVec.ofNat 128 (xv x q.l), y := BitVec.ofNat 128 (yv x q.l) }) }]) ∧
  ∀ s core idx a q pa, (s.core core).atoms[idx]? = some a → a.instr = i → a.lanes = [q] → q.loc = .mem pa →
    s.isLocal pa = true → (∀ j, j < n → s.isLocal (pa + j) = true) → s.lcache = [] → atomReady s core idx a = true →
    ∃ t old, exec (.atomicPerform core idx) s = .next t ∧
      old = leNat ((List.range n).map (fun j => s.memByte (pa + j))) ∧
      (∀ b, t.memByte b = match new old q.x.toNat q.y.toNat with
        | some v => if pa ≤ b ∧ b < pa + n then BitVec.ofNat 8 (v / 2 ^ (8 * (b - pa))) else s.memByte b
        | none => s.memByte b) ∧
      ∀ v, res old = some v → (i.fields.getD {}).d ≠ 511 → a.slot ≠ 48 → (s.weave core a.slot).live ≠ [] →
        (t.core core).deferred = (s.core core).deferred ++
          [{ slot := a.slot, lane := q.lane, reg := (i.fields.getD {}).d.toNat,
             cnt := regsOf (i.row.d.width (i.fields.getD {}).b), val := if s.anyPoison (q.loc.span n) then none else some v,
             pc := a.pc, va := BitVec.ofNat 64 q.va }]

/-- A counter after a command has charged `n` bytes on it: they stand in COUNT and in the charge (10 R346). -/
def Charged (u t : State) (core : Nat) (team cc : Option Nat) (id n : Nat) : Prop :=
  match cc with
  | none => ∀ k, t.counter core team k = u.counter core team k
  | some k => n ≠ 0 → (u.counter core team k).count + n < 2 ^ 56 → t.counter core team k =
      { u.counter core team k with count := (u.counter core team k).count + n,
                                   charges := (u.counter core team k).charges ++ [{ cmd := id, left := n, held := 0 }] }

/-- The convergence register that the word names, once the signatures made so far have taken effect (09 R306). -/
def Iss.convReg (x : Iss) (s : State) (y : Nat) : Conv := (s.convSoon x.g.core y (x.f.d.toNat % 16)).conv (x.f.d.toNat % 16)
/-- The matrix command `c` has been posted by the team `y`: it stands last in the queue, attached to the current phase
of its convergence register, with its charge; of the team nothing else has changed (09 R307). -/
structure MatPosted (u : State) (x : Iss) (y : Nat) (c : MatCmd) (t : State) : Prop where
  queue : (t.team y).matq = (u.team y).matq ++
    [{ c with id := u.nextId, cv := x.f.d.toNat % 16, ph := (x.convReg u y).ph, left := c.bytes }]
  team : { t.team y with matq := (u.team y).matq, counters := (u.team y).counters } = u.team y
  counter : Charged u t x.g.core (some y) x.cc u.nextId c.bytes
/-- The team can post one more matrix command on the register that the word names. -/
abbrev Iss.matRoom (x : Iss) (s : State) : Prop :=
  (s.findTeam (x.mine s)).isSome = true ∧ (x.convReg s (x.mine s)).armed = true ∧
    (s.team (x.mine s)).matq.length < 16
/-- An instruction that posts the matrix command `cmd` where `pre` holds. -/
def MatPosts (i : Instr) (pre : Iss → Prop) (cmd : Iss → MatCmd) : Prop :=
  (∀ s x, Ready i s x → x.teamed (x.moved s) → pre x → x.matRoom (x.moved s) →
    ∃ t, exec i s = .next t ∧ Stands s x (fun _ => {}) t ∧ MatPosted (x.moved s) x (x.mine (x.moved s)) (cmd x) t) ∧
  Raises i (fun x s => x.teamed s ∧ pre x ∧ (x.convReg s (x.mine s)).armed = false) 5 4 (fun x => x.ex) ∧
  Waits i (fun x s => x.teamed s ∧ pre x ∧ (x.convReg s (x.mine s)).armed = true ∧
    16 ≤ (s.team (x.mine s)).matq.length)
/-- The state after the split that thsplit names, with the lower handle's directory records noted for the upper one too, and
the slices of these (07 R230). -/
def Iss.splitIn (x : Iss) (s : State) : State × List Nat :=
  let n := x.a x.low % 16
  let m := x.f.c.toNat % 16
  let y := x.mine s
  let r := splitHandle ((s.team y).handle n) ((s.team y).handle m) (x.b x.low)
  let u := (s.modHandle y n (fun _ => r.1)).modHandle y m (fun _ => r.2)
  let extra := (u.dirs.filter (fun (d : DirRec) => d.team = y && d.handle = n)).map (fun (d : DirRec) => { d with handle := m })
  ({ u with dirs := u.dirs ++ extra }.pruneDirs, extra.map (·.slice))
/-- ACC and SHAPE of a row command: its first word, rows and stride, and for acnrm the column count q (09 Tables 5, 6). -/
def Iss.rowCmd (x : Iss) (norm : Bool) : MatCmd :=
  { x.matCmd with acc := x.a x.low % 2 ^ 19, rows := x.b x.low % 2 ^ 12, stride := x.b x.low / 2 ^ 16 % 2 ^ 16,
                  q := if norm then x.a x.low / 2 ^ 20 % 2 ^ 8 else 0 }
/-- ACC and SHAPE are equal in every executing lane, and acceptable. -/
abbrev Iss.rowsOk (x : Iss) (norm : Bool) : Prop :=
  x.alike (fun x l => [x.a l, x.b l]) ∧ shapeOk norm (x.a x.low) (x.b x.low) = true

/-- The engine command `c` has been posted: it stands last of its core, in the lowest free entry, with its charge
(10 R335, R343). -/
structure EngPosted (u : State) (x : Iss) (c : EngCmd) (t : State) : Prop where
  cmds : (t.core x.g.core).cmds = (u.core x.g.core).cmds ++ [{ c with id := u.nextId, entry := (u.core x.g.core).freeEntry }]
  counter : Charged u t x.g.core c.team c.cc u.nextId c.len
/-- A command entry is free, and the stores and atomics before the word have been performed. -/
abbrev Iss.engRoom (x : Iss) (s : State) : Prop :=
  (s.core x.g.core).cmds.length < 64 ∧ s.drained x.g.core x.g.slot = true ∧ s.atomPending x.g.core x.g.slot x.ex = false
/-- The team of the group, where there is one, stands on a core. -/
abbrev Iss.placed (x : Iss) (s : State) : Prop :=
  ∀ y, (s.weave x.g.core x.g.slot).team = some y → (s.findTeam y).isSome = true
/-- An instruction that posts the engine command `cmd` where `pre` holds of operands alike in every lane; lanes that
differ raise the protection trap. -/
def EngPosts (i : Instr) (ops : Iss → Nat → List Nat) (pre : Iss → State → Prop) (cmd : Iss → State → EngCmd) : Prop :=
  (∀ s x, Ready i s x → x.alike ops → pre x (x.moved s) → x.placed (x.moved s) → x.engRoom (x.moved s) →
    ∃ t, exec i s = .next t ∧ Stands s x (fun _ => {}) t ∧ EngPosted (x.moved s) x (cmd x (x.moved s)) t) ∧
  (∀ s x, Ready i s x → x.canTrap (x.moved s) → x.differ (ops x) ≠ [] → exec i s =
    .next ((x.back s).trapEntry x.g.core x.g.slot x.g.lanes (x.differ (ops x)) 8 0x1D x.g.pc)) ∧
  Waits i (fun x s => x.alike ops ∧ pre x s ∧ ¬ x.engRoom s)

/-- The lanes that take a transfer, with their targets. -/
def takers (want : Iss → Nat → Option DWord) (x : Iss) : List (Nat × DWord) :=
  x.ex.filterMap (fun l => (want x l).map (fun d => (l, d)))

/-- What a control transfer leaves (03 R102): an executing lane stands at the header of its target, or, where it takes
none, at the next word; `eff` is what it does besides. `u` is the state in which the targets have been fetched: of it
stand the bytes of memory, and of `s` every thread outside the group, but for a conflict that the update of a page table
entry may mark (08 R293), and every table of a weave. -/
structure Jumped (s u : State) (x : Iss) (want : Nat → Option DWord) (eff : Nat → Thread → Thread) (t : State) : Prop where
  bytes : ∀ pa, t.memByte pa = u.memByte pa
  threads : ∀ c w l, ¬ (c = x.g.core ∧ w = x.g.slot ∧ l ∈ x.g.lanes) → (t.thread c w l).plainly = (s.thread c w l).plainly
  tables : ∀ c w, { t.weave c w with threads := [] } = { s.weave c w with threads := [] }
  skipped : ∀ l, l ∈ x.g.lanes → l ∉ x.ex →
    (t.thread x.g.core x.g.slot l).plainly = (movedOn (s.thread x.g.core x.g.slot l) x.words s.tick).plainly
  lanes : ∀ l, l ∈ x.ex → (t.thread x.g.core x.g.slot l).plainly =
    let m := eff l (movedOn (s.thread x.g.core x.g.slot l) x.words s.tick)
    let n := match want l with
      | some d => { m with ctl := { m.ctl with pc := d, entry := true } }
      | none => m
    ({ n with ob := keptOb x l n.ob } : Thread).plainly

/-- The targets of a transfer as their fetches find them, one that is on its way to a lender going on (03 R102). -/
def Iss.targets (x : Iss) (s : State) (ts : List (Nat × DWord)) : State × List (Nat × DWord × Took) :=
  s.takeAll x.g.core x.g.slot (fun l t => x.onWay l t.toNat) ts
/-- Where every target is a header that the fetch finds, the transfer completes (03 R102). -/
def Jumps (i : Instr) (want : Iss → Nat → Option DWord) (eff : Iss → Nat → Thread → Thread) : Prop :=
  ∀ s x, Ready i s x →
    (∀ e ∈ (x.targets (x.moved s) (takers want x)).2, e.2.2 = .ok) →
    ∃ t, exec i s = .next t ∧ Jumped s (x.targets (x.moved s) (takers want x)).1 x (want x) (eff x) t

/-- A value rounded to the type of the instruction, with further exceptions (05 R147). -/
def rounded (h : Iss → Nat → FRes × Nat) : Iss → Nat → FpWrite := fun x l => x.outAs x.f.ty l (h x l).1 (h x l).2
/-- A code with its exceptions. -/
def coded (h : Iss → Nat → Nat × Nat) : Iss → Nat → FpWrite := fun _x l => { w := { d := some (h _x l).1 }, ex := (h _x l).2 }
/-- 05 R152: with no enabled exception every executing lane leaves its result; with one, none does, and the
arithmetic trap is raised in the lanes that have it. -/
def FpMeans (i : Instr) (r : Iss → Nat → FpWrite) : Prop :=
  (∀ s x, Ready i s x → trapping r x = [] → ∃ t, exec i s = .next t ∧ Computed s x (fun l => fpOut x (r x l)) t) ∧
  ∀ s x, Ready i s x → x.canTrap (x.moved s) → trapping r x ≠ [] →
    exec i s = .next ((x.back s).trapEntry x.g.core x.g.slot x.g.lanes (trapping r x) trapArith (trapBits r x) x.g.pc)

end Machine

end Sys2Proof
end

