-- ==== Sys2Proof/Certificates/Slice0/Obligations.lean ====
section
/-! DEFINITION. The statements for the provers. `Ready`, `Computes`, `Acts`, `Does`, `Raises`, `Jumps` and `FpMeans` are
those of Sys2Proof/Safety.lean. -/

open Sys2Proof Sys2Proof.Machine

/-- br, bz, bnz, bfull, bempty, bpend and dbnz, ready and with every taken target a header that the fetch finds, complete: an executing lane whose condition holds stands at its label, every other at the next word; dbnz also writes d less 1; nothing else of the weaves changes, and memory is that of the fetch. Completion, exec answering a next state under conditions on the state and the operands alone, is stated of br, bz, bnz, bfull, bempty, bpend, dbnz. -/
def Obligations.DirectBranches : Prop :=
  (∀ o, Jumps (.br o) (fun x _ => some x.label) (fun _ _ t => t)) ∧
  (∀ o, Jumps (.bz o) (fun x l => if x.d l = 0 then some x.label else none) (fun _ _ t => t)) ∧
  (∀ o, Jumps (.bnz o) (fun x l => if x.d l = 0 then none else some x.label) (fun _ _ t => t)) ∧
  (∀ o, Jumps (.bfull o) (fun x l => if x.f.d = 511 ∨ ((x.th l).reg x.f.d.toNat).full = true then some x.label else none) (fun _ _ t => t)) ∧
  (∀ o, Jumps (.bempty o) (fun x l => if x.f.d = 511 ∨ ((x.th l).reg x.f.d.toNat).full = true then none else some x.label) (fun _ _ t => t)) ∧
  (∀ o, Jumps (.bpend o) (fun x _ => if x.old.pending x.g.core x.g.slot then some x.label else none) (fun _ _ t => t)) ∧
  (∀ o, Jumps (.dbnz o) (fun x l => if (x.d l + 0xFFFFFFFF) % 2 ^ 32 = 0 then none else some x.label)
    (fun x l t => t.dest x.f.d 32 ((x.d l + 0xFFFFFFFF) % 2 ^ 32)))

/-- call and jcall, ready and with their targets found, write the address of the header that follows the calling block to the pair d and raise DEPTH by one; jmp, jcall and ret go to the address in the pair a; ret lowers DEPTH by one; nothing else of the weaves changes. Completion, exec answering a next state under conditions on the state and the operands alone, is stated of call, jmp, jcall, ret. -/
def Obligations.CallsAndReturns : Prop :=
  (∀ o, Jumps (.call o) (fun x _ => some x.label) (fun x l t =>
    let u := t.dest x.f.d 64 ((x.th l).ctl.bh + 8#64 * BitVec.ofNat 64 ((x.th l).ctl.len + 1)).toNat
    { u with ctl := { u.ctl with depth := (x.th l).ctl.depth + 1 } })) ∧
  (∀ o, Jumps (.jmp o) (fun x l => some (BitVec.ofNat 64 (x.a l))) (fun _ _ t => t)) ∧
  (∀ o, Jumps (.jcall o) (fun x l => some (BitVec.ofNat 64 (x.a l))) (fun x l t =>
    let u := t.dest x.f.d 64 ((x.th l).ctl.bh + 8#64 * BitVec.ofNat 64 ((x.th l).ctl.len + 1)).toNat
    { u with ctl := { u.ctl with depth := (x.th l).ctl.depth + 1 } })) ∧
  (∀ o, Jumps (.ret o) (fun x l => some (BitVec.ofNat 64 (x.a l))) (fun x l t =>
    { t with ctl := { t.ctl with depth := (x.th l).ctl.depth - 1 } }))

/-- Ready, the four logical predicate instructions write P(a) op P(b) to P(d), pset writes whether a is not zero, pget writes 1 or 0 to d; a write to p7 is discarded; every other register, predicate, thread, special register and byte of memory stands. Completion, exec answering a next state under conditions on the state and the operands alone, is stated of pand, por, pxor, pandn, pset, pget. -/
def Obligations.PredicateInstructions : Prop :=
  (∀ o, Computes (.pand o) (toPred fun x l => x.predOf x.f.a l && x.predOf x.f.b l)) ∧
  (∀ o, Computes (.por o) (toPred fun x l => x.predOf x.f.a l || x.predOf x.f.b l)) ∧
  (∀ o, Computes (.pxor o) (toPred fun x l => xor (x.predOf x.f.a l) (x.predOf x.f.b l))) ∧
  (∀ o, Computes (.pandn o) (toPred fun x l => x.predOf x.f.a l && !x.predOf x.f.b l)) ∧
  (∀ o, Computes (.pset o) (toPred fun x l => x.a l != 0)) ∧
  (∀ o, Computes (.pget o) (toReg fun x l => if x.predOf x.f.a l then 1 else 0))

/-- Ready: nop changes nothing; pause with an operand of 0 changes nothing and else pauses each executing lane until the cycle now plus imm; yield with an executing lane marks its team as yielding where another context on the core is ready to run, and else has no effect; exit leaves every executing lane exited, out of every join entry and without speculation, frees the weave where no thread of it is left, and writes no byte of memory; brk, not speculating and with an executing lane, enters the trap with cause 0x04 and detail imm16 for the executing lanes at the word itself, and with none it completes and changes nothing. Completion, exec answering a next state under conditions on the state and the operands alone, is stated of nop, pause, yield, exit, brk. -/
def Obligations.ExitPauseAndBreak : Prop :=
  (∀ o, Computes (.nop o) toNone) ∧
  (∀ o s x, Ready (.pause o) s x → exec (.pause o) s = .next (x.settled (if o.imm = 0 then x.moved s else
    (x.moved s).modThreads x.g.core x.g.slot x.ex (fun _ t => { t with mode := .paused, wake := s.cycles + o.imm.toNat })))) ∧
  (∀ o, Acts (.yield o) (fun x s => x.teamed s ∧ (s.core x.g.core).others (s.team (x.mine s)).ctx = true) still (fun x s =>
    s.modTeam (x.mine s) (fun y => { y with pre := { y.pre with yielded := true } }))) ∧
  (∀ o, Acts (.yield o) (fun x s => ¬ (x.teamed s ∧ (s.core x.g.core).others (s.team (x.mine s)).ctx = true)) still (fun _ s => s)) ∧
  (∀ o, Does (.exit o) (fun _ _ => True) (fun x s =>
    (s.modWeave x.g.core x.g.slot (fun w => x.ex.foldl Weave.exitLane w)).freeWeave x.g.core x.g.slot)) ∧
  (∀ o s x t, Ready (.exit o) s x → exec (.exit o) s = .next t → ∀ pa, t.memByte pa = s.memByte pa) ∧
  (∀ (w : Weave) l, ((w.exitLane l).thread l).mode = .exited ∧ ∀ e ∈ (w.exitLane l).joins, e.members.getLsbD l = false) ∧
  (∀ o, Raises (.brk o) (fun x _ => x.ex ≠ []) 0x04 o.imm.toNat (fun x => x.ex)) ∧
  (∀ o s x, Ready (.brk o) s x → x.ex = [] → exec (.brk o) s = .next (x.settled (x.moved s)) ∧ Stands s x (fun _ => {}) (x.settled (x.moved s)))

/-- Ready, add, sub, min, max, abs, mul, mad, addi and muli write Fit of the exact value to d, mulhi the high half of the product and mulw the product to 64 bits; nothing else changes but the program counter of the group and the operand buffers that keep names. Completion, exec answering a next state under conditions on the state and the operands alone, is stated of add, sub, min, max, abs, mul, mad, addi, muli, mulhi, mulw. -/
def Obligations.IntegerArithmetic : Prop :=
  (∀ o, Computes (.add o) (toReg fun x l => fit x.f.ty x.sat (x.x l + x.y l))) ∧
  (∀ o, Computes (.sub o) (toReg fun x l => fit x.f.ty x.sat (x.x l - x.y l))) ∧
  (∀ o, Computes (.min o) (toReg fun x l => fit x.f.ty x.sat (min (x.x l) (x.y l)))) ∧
  (∀ o, Computes (.max o) (toReg fun x l => fit x.f.ty x.sat (max (x.x l) (x.y l)))) ∧
  (∀ o, Computes (.abs o) (toReg fun x l => fit x.f.ty x.sat ((x.x l).natAbs : Int))) ∧
  (∀ o, Computes (.mul o) (toReg fun x l => fit x.f.ty x.sat (x.x l * x.y l))) ∧
  (∀ o, Computes (.mad o) (toReg fun x l => fit x.f.ty x.sat (x.x l * x.y l + x.z l))) ∧
  (∀ o, Computes (.addi o) (toReg fun x l => fit x.f.ty x.sat (x.x l + x.simm))) ∧
  (∀ o, Computes (.muli o) (toReg fun x l => fit x.f.ty x.sat (x.x l * x.simm))) ∧
  (∀ o, Computes (.mulhi o) (toReg fun x l => wrap x.w (x.x l * x.y l / (2 ^ x.w : Nat)))) ∧
  (∀ o, Computes (.mulw o) (toReg fun x l => wrap 64 (x.x l * x.y l)))

/-- For every integer type but the sign-magnitude ones: a value inside the range of the type is read back unchanged from what Fit writes, with and without .sat; below the range .sat gives Lo, above it Hi; without .sat the low bits stand. For sm8 and sm4 every value is clamped. -/
def Obligations.FitWrapsOrSaturates : Prop :=
  (∀ (ty : BitVec 3) sat v, intLo ty ≤ v → v ≤ intHi ty → intVal ty (fit ty sat v) = v) ∧
  (∀ (ty : BitVec 3) v, v < intLo ty → intVal ty (fit ty true v) = intLo ty) ∧
  (∀ (ty : BitVec 3) v, intHi ty < v → intVal ty (fit ty true v) = intHi ty) ∧
  (∀ (ty : BitVec 3) v, intSm ty = false → (fit ty false v : Int) = v % (2 ^ intBits ty : Nat)) ∧
  ∀ (ty : BitVec 3) v, intSm ty = true → fit ty false v = fit ty true v

/-- Ready, addc writes the low bits of x + y + P(c) and sets P(c) where the sum reaches 2^w; subb writes the low bits of x − y − P(c) and sets P(c) where the difference is below 0; a write of p7 is discarded; nothing else changes. Completion, exec answering a next state under conditions on the state and the operands alone, is stated of addc, subb. -/
def Obligations.CarryChains : Prop :=
  (∀ o, Computes (.addc o) (fun x l =>
    let v : Int := (x.a l : Int) + x.b l + (if x.predOf x.f.c l then 1 else 0)
    { reg := some (wrap x.w v), pred := some (x.f.c.toNat % 8, decide ((2 ^ x.w : Nat) ≤ v)) })) ∧
  (∀ o, Computes (.subb o) (fun x l =>
    let v : Int := (x.a l : Int) - x.b l - (if x.predOf x.f.c l then 1 else 0)
    { reg := some (wrap x.w v), pred := some (x.f.c.toNat % 8, decide (v < 0)) }))

/-- Ready, and, or, xor and andn and their immediate forms write the bitwise result; shl, shr, sar, ror, fsh, shli, shri and sari write the shifted value, zero (or the sign) where the count reaches the width; nothing else changes. Completion, exec answering a next state under conditions on the state and the operands alone, is stated of and, or, xor, andn, andi, ori, shl, shr, sar, ror, fsh, shli, shri, sari. -/
def Obligations.LogicAndShifts : Prop :=
  (∀ o, Computes (.and o) (toReg fun x l => x.a l &&& x.b l)) ∧
  (∀ o, Computes (.or o) (toReg fun x l => x.a l ||| x.b l)) ∧
  (∀ o, Computes (.xor o) (toReg fun x l => x.a l ^^^ x.b l)) ∧
  (∀ o, Computes (.andn o) (toReg fun x l => x.a l &&& (2 ^ x.w - 1 - x.b l % 2 ^ x.w))) ∧
  (∀ o, Computes (.andi o) (toReg fun x l => x.a l &&& x.uimm)) ∧
  (∀ o, Computes (.ori o) (toReg fun x l => x.a l ||| x.uimm)) ∧
  (∀ o, Computes (.shl o) (toReg fun x l => if x.w ≤ x.b l then 0 else x.a l * 2 ^ x.b l % 2 ^ x.w)) ∧
  (∀ o, Computes (.shr o) (toReg fun x l => if x.w ≤ x.b l then 0 else x.a l / 2 ^ x.b l)) ∧
  (∀ o, Computes (.sar o) (toReg fun x l => wrap x.w (sint x.w (x.a l) / (2 ^ min (x.b l) (x.w - 1) : Nat)))) ∧
  (∀ o, Computes (.ror o) (toReg fun x l => (x.a l / 2 ^ (x.b l % x.w) + x.a l * 2 ^ (x.w - x.b l % x.w)) % 2 ^ x.w)) ∧
  (∀ o, Computes (.fsh o) (toReg fun x l => (x.a l * 2 ^ x.w + x.b l) / 2 ^ (x.c l % (2 * x.w)) % 2 ^ x.w)) ∧
  (∀ o, Computes (.shli o) (toReg fun x l => if x.w ≤ x.uimm then 0 else x.a l * 2 ^ x.uimm % 2 ^ x.w)) ∧
  (∀ o, Computes (.shri o) (toReg fun x l => if x.w ≤ x.uimm then 0 else x.a l / 2 ^ x.uimm)) ∧
  (∀ o, Computes (.sari o) (toReg fun x l => wrap x.w (sint x.w (x.a l) / (2 ^ min x.uimm (x.w - 1) : Nat))))

/-- Ready, bfx and bfxi write the field that position and length name, zero-extended or sign-extended by the type, 0 for length 0; bfi replaces the field of z by the low bits of x; popc counts the ones and clz the zeros above the highest one, the width for 0; nothing else changes. Completion, exec answering a next state under conditions on the state and the operands alone, is stated of bfx, bfxi, bfi, popc, clz. -/
def Obligations.BitFieldsAndCounts : Prop :=
  (∀ o, Computes (.bfx o) (toReg fun x l => bfxN (intSigned x.f.ty) x.w (x.x l) (x.b l))) ∧
  (∀ o, Computes (.bfxi o) (toReg fun x l => bfxN (intSigned x.f.ty) x.w (x.x l) x.uimm)) ∧
  (∀ o, Computes (.bfi o) (toReg fun x l => bfiN x.w (x.a l) (x.c l) (x.b l))) ∧
  (∀ o, Computes (.popc o) (toReg fun x l => ((List.range x.w).filter (fun k => (x.a l).testBit k)).length)) ∧
  (∀ o, Computes (.clz o) (toReg fun x l => if x.a l = 0 then x.w else x.w - 1 - Nat.log2 (x.a l)))

/-- Ready, cmp and cmpi write the condition to P(d), cmpi with imm16 sign-extended for signed types and zero-extended for others; sel takes a where P(c) holds and else b; li writes the immediate, lda the image base plus the immediate, lea base plus scaled index plus displacement; lid writes 32 w plus the lane plus imm16, which the model zero-extends by its log entry 27; nothing else changes. Completion, exec answering a next state under conditions on the state and the operands alone, is stated of cmp, cmpi, sel, li, lda, lea, lid. -/
def Obligations.CompareSelectConstantsAddresses : Prop :=
  (∀ o, Computes (.cmp o) (toPred fun x l => condHolds (x.f.c.toNat % 8) (x.x l) (x.y l))) ∧
  (∀ o, Computes (.cmpi o) (toPred fun x l => condHolds (x.f.b.toNat % 8) (x.x l) (if intSigned x.f.ty then x.simm else x.uimm))) ∧
  (∀ o, Computes (.sel o) (toReg fun x l => if x.predOf x.f.c l then x.a l else x.b l)) ∧
  (∀ o, Computes (.li o) (toReg fun x _ => x.f.imm.toNat % 2 ^ x.w)) ∧
  (∀ o, Computes (.lda o) (toReg fun x _ => (x.imageBase + x.f.imm.toNat) % 2 ^ 64)) ∧
  (∀ o, Computes (.lea o) (toReg fun x l => wrap 64 (x.a l + x.y l * (2 ^ (x.uimm / 2 ^ 13) : Nat) + sint 13 x.uimm))) ∧
  (∀ o, Computes (.lid o) (toReg fun x l => (32 * (x.old.weave x.g.core x.g.slot).index + l + x.uimm) % 2 ^ 32))

/-- Ready, fadd, fsub, fmul, fdiv, fsqrt, fma, fms, fscale, faddi, fmuli and fmai write the exact value of their flushed operands rounded once under mod, set the sticky flags of their exceptions and count a stochastic draw, and change nothing else; where an enabled exception arises in a lane, no lane writes and the arithmetic trap is raised in the lanes that have one, with the union of their enabled exceptions as its detail. Completion, exec answering a next state under conditions on the state and the operands alone, is stated of fadd, fsub, fmul, fdiv, fsqrt, fma, fms, fscale, faddi, fmuli, fmai. -/
def Obligations.FloatArithmetic : Prop :=
  (∀ o, FpMeans (.fadd o) (rounded fun x l => (fAddV x.rdn (x.fa l) (x.fb l), sigFlag [x.fa l, x.fb l]))) ∧
  (∀ o, FpMeans (.fsub o) (rounded fun x l => (fSubV x.rdn (x.fa l) (x.fb l), sigFlag [x.fa l, x.fb l]))) ∧
  (∀ o, FpMeans (.fmul o) (rounded fun x l => (fMulV (x.fa l) (x.fb l), sigFlag [x.fa l, x.fb l]))) ∧
  (∀ o, FpMeans (.fdiv o) (rounded fun x l => (fDivV (x.fa l) (x.fb l), sigFlag [x.fa l, x.fb l]))) ∧
  (∀ o, FpMeans (.fsqrt o) (rounded fun x l => (fSqrtV (x.fa l), sigFlag [x.fa l]))) ∧
  (∀ o, FpMeans (.fma o) (rounded fun x l => fusedOp x.rdn [x.fa l, x.fb l, x.fc l] (x.fa l) (x.fb l) (x.fc l))) ∧
  (∀ o, FpMeans (.fms o) (rounded fun x l => fusedOp x.rdn [x.fa l, x.fb l, x.fc l] (x.fa l) (x.fb l) (x.fc l).flip)) ∧
  (∀ o, FpMeans (.fscale o) (rounded fun x l => (fScaleV (x.fa l) (max (-8192) (min 8192 (sint 32 (x.b l)))), sigFlag [x.fa l]))) ∧
  (∀ o, FpMeans (.faddi o) (rounded fun x l => (fAddV x.rdn (x.fa l) (x.fi l), sigFlag [x.fa l, x.fi l]))) ∧
  (∀ o, FpMeans (.fmuli o) (rounded fun x l => (fMulV (x.fa l) (x.fi l), sigFlag [x.fa l, x.fi l]))) ∧
  (∀ o, FpMeans (.fmai o) (rounded fun x l => fusedOp x.rdn [x.fa l, x.fi l, x.fb l] (x.fa l) (x.fi l) (x.fb l)))

/-- Ready, fmin, fmax, frint, fgetexp and fgetman write their rounded value with flags or trap as 05 R152 says; fcmp and fcmpi write the condition to P(d), invalid where the rule says so; fabs, fneg and fcps change the sign bit alone and fclass writes the class mask, all four raising nothing. Completion, exec answering a next state under conditions on the state and the operands alone, is stated of fmin, fmax, frint, fgetexp, fgetman, fcmp, fcmpi, fabs, fneg, fcps, fclass. -/
def Obligations.FloatSelectCompareClass : Prop :=
  (∀ o, FpMeans (.fmin o) (rounded fun x l => ((fPick false (x.fa l) (x.fb l)).res, sigFlag [x.fa l, x.fb l]))) ∧
  (∀ o, FpMeans (.fmax o) (rounded fun x l => ((fPick true (x.fa l) (x.fb l)).res, sigFlag [x.fa l, x.fb l]))) ∧
  (∀ o, FpMeans (.frint o) (rounded fun x l => fRintV (x.rnd l) (x.fa l))) ∧
  (∀ o, FpMeans (.fgetexp o) (rounded fun x l => (fGetexpV (x.fa l), sigFlag [x.fa l]))) ∧
  (∀ o, FpMeans (.fgetman o) (rounded fun x l => (fGetmanV (x.fa l), sigFlag [x.fa l]))) ∧
  (∀ o, FpMeans (.fcmp o) (fun x l => fCmpWrite (x.f.c.toNat % 8) (x.fa l) (x.fb l))) ∧
  (∀ o, FpMeans (.fcmpi o) (fun x l => fCmpWrite (x.f.b.toNat % 8) (x.fa l) (x.fi l))) ∧
  (∀ o, Computes (.fabs o) (toReg fun x l => x.a l % 2 ^ (fBits x.f.ty - 1))) ∧
  (∀ o, Computes (.fneg o) (toReg fun x l => x.a l ^^^ 2 ^ (fBits x.f.ty - 1))) ∧
  (∀ o, Computes (.fcps o) (toReg fun x l => x.a l % 2 ^ (fBits x.f.ty - 1) + x.b l / 2 ^ (fBits x.f.ty - 1) % 2 * 2 ^ (fBits x.f.ty - 1))) ∧
  (∀ o, Computes (.fclass o) (toReg fun x l => fClass x.f.ty (fVal x.f.ty (x.a l))))

/-- Ready, fex2, flg2, fsinpi and fcospi write the value of their function rounded once; frcpe and frsqe write their estimate, raising UF and NX only where FTZ flushed it; flags and traps are those of 05 R152; nothing else changes. Completion, exec answering a next state under conditions on the state and the operands alone, is stated of frcpe, frsqe, fex2, flg2, fsinpi, fcospi. By the model's reading and choice: UF and NX of a flushed estimate (log entry 35), the series that give fex2, flg2, fsinpi and fcospi (13). -/
def Obligations.FloatFunctions : Prop :=
  (∀ o, FpMeans (.frcpe o) (coded fun x l => (((fRcpV (x.fa l)).estimate (x.th l).ftz).1, ((fRcpV (x.fa l)).estimate (x.th l).ftz).2 ||| sigFlag [x.fa l]))) ∧
  (∀ o, FpMeans (.frsqe o) (coded fun x l => (((fRsqV (x.fa l)).estimate (x.th l).ftz).1, ((fRsqV (x.fa l)).estimate (x.th l).ftz).2 ||| sigFlag [x.fa l]))) ∧
  (∀ o, FpMeans (.fex2 o) (rounded fun x l => (fEx2V (x.fa l), sigFlag [x.fa l]))) ∧
  (∀ o, FpMeans (.flg2 o) (rounded fun x l => (fLg2V (x.fa l), sigFlag [x.fa l]))) ∧
  (∀ o, FpMeans (.fsinpi o) (rounded fun x l => (fSinpiV (x.fa l), sigFlag [x.fa l]))) ∧
  (∀ o, FpMeans (.fcospi o) (rounded fun x l => (fCospiV (x.fa l), sigFlag [x.fa l])))

/-- Ready, fli and fcvt write the source converted to the type, fcvti the integer with IV outside its range and NX where a fraction was dropped, icvtf the rounded integer value, fpk two converted values in the element pair its fn names, fupk one element as FP32, fdot2 the sum of two products and c rounded once, bdq an element times its scale; flags and traps are those of 05 R152; nothing else changes. Completion, exec answering a next state under conditions on the state and the operands alone, is stated of fli, fcvt, fcvti, icvtf, fpk, fupk, fdot2, bdq. -/
def Obligations.Conversions : Prop :=
  (∀ o, FpMeans (.fli o) (coded fun x l => fConvert x.f.ty (x.rnd l) (fVal 1 x.f.imm.toNat))) ∧
  (∀ o, FpMeans (.fcvt o) (coded fun x l => fConvert x.f.ty (x.rnd l) (fVal x.ty2 (x.a l)))) ∧
  (∀ o, FpMeans (.fcvti o) (coded fun x l => fToInt x.ty2 (x.rnd l) (fVal x.f.ty (x.a l)))) ∧
  (∀ o, FpMeans (.icvtf o) (coded fun x l => roundFP x.f.ty (x.rnd l) (decide (intVal x.ty2 (x.a l) < 0)) (intVal x.ty2 (x.a l)).natAbs 0 false)) ∧
  (∀ o pos, FpMeans (.fpk o pos) (coded fun x l =>
    let w := fBits x.f.ty
    let ea := fConvert x.f.ty (x.rnd l) (fVal 0 (x.a l))
    let eb := fConvert x.f.ty (x.rnd l) (fVal 0 (x.b l))
    (putElem w (2 * pos.toNat + 1) (putElem w (2 * pos.toNat) (x.c l) ea.1) eb.1, ea.2 ||| eb.2))) ∧
  (∀ o pos, FpMeans (.fupk o pos) (coded fun x l =>
    fConvert 0 { mode := 0, sat := false } (fVal x.f.ty (x.a l / 2 ^ (fBits x.f.ty * pos.toNat) % 2 ^ fBits x.f.ty)))) ∧
  (∀ o, FpMeans (.fdot2 o) (fun x l =>
    let e := fun (v i : Nat) => x.flush l x.f.ty (fVal x.f.ty (v / 2 ^ (16 * i) % 2 ^ 16))
    let r := fDot2V x.rdn (e (x.a l) 0) (e (x.a l) 1) (e (x.b l) 0) (e (x.b l) 1) (x.flush l 0 (fVal 0 (x.c l)))
    x.outAs 0 l r.1 r.2)) ∧
  (∀ o, FpMeans (.bdq o) (coded fun x l => fDequant x.f.ty (x.rnd l) (x.a l % 2 ^ fBits x.f.ty) (x.a l / 2 ^ 8 % 2 ^ 8)))

/-- Ready, with executing lanes that name exactly themselves in b and no open collective in the weave: shfl, shup, shdn and shxor give each lane a of the lane it names, its own where that lane does not contribute; vote combines P(a), ballot gives the mask of lanes where it holds, scan the inclusive or exclusive prefix in ascending lanes; all lanes go on and nothing else changes. Completion, exec answering a next state under conditions on the state and the operands alone, is stated of shfl, shup, shdn, shxor, vote, ballot, scan. -/
def Obligations.LaneCollectives : Prop :=
  (∀ o, Collects (.shfl o) (fun x l => { w := { d := some (if x.ex.contains (x.c l) then x.a (x.c l) else x.a l) }, ex := 0 })) ∧
  (∀ o, Collects (.shup o) (fun x l => { w := { d := some (if x.uimm ≤ l ∧ x.ex.contains (l - x.uimm) then x.a (l - x.uimm) else x.a l) }, ex := 0 })) ∧
  (∀ o, Collects (.shdn o) (fun x l => { w := { d := some (if x.ex.contains (l + x.uimm) then x.a (l + x.uimm) else x.a l) }, ex := 0 })) ∧
  (∀ o, Collects (.shxor o) (fun x l => { w := { d := some (if x.ex.contains (l ^^^ x.uimm) then x.a (l ^^^ x.uimm) else x.a l) }, ex := 0 })) ∧
  (∀ o, Collects (.vote o) (fun x _ => { w := { p := some (match x.f.c.toNat % 4 with
    | 0 => x.ex.all (fun l => x.predOf x.f.a l)
    | 1 => x.ex.any (fun l => x.predOf x.f.a l)
    | _ => x.ex.all (fun l => x.predOf x.f.a l) || x.ex.all (fun l => !x.predOf x.f.a l)) }, ex := 0 })) ∧
  (∀ o, Collects (.ballot o) (fun x _ => { w := { d := some (maskOf (x.ex.filter (fun l => x.predOf x.f.a l))).toNat }, ex := 0 })) ∧
  (∀ o, Collects (.scan o) (fun x l =>
    let before := x.ex.filter (fun k => if x.f.c.getLsbD 3 then decide (k < l) else decide (k ≤ l))
    { w := { d := some (before.foldl (fun v k => scanStep (x.f.c.toNat % 8) x.f.ty x.sat v (x.a k)) (scanId (x.f.c.toNat % 8) x.f.ty)) }, ex := 0 }))

/-- Ready, with executing lanes that name exactly themselves in b, no open collective in the weave and no enabled exception: bqnt gives each lane its element under the scale of the block, or 0xFF00 with IV where some value is a NaN or an infinity; fred.add, fred.min and fred.max give every lane the value and the exceptions of the tree over the contributors; all lanes go on and nothing else changes. Completion, exec answering a next state under conditions on the state and the operands alone, is stated of bqnt, fredAdd, fredMin, fredMax. -/
def Obligations.BlockQuantisationAndReduction : Prop :=
  (∀ o, Collects (.bqnt o) (fun x l =>
    if x.ex.any (fun k => (fVal 0 (x.a k)).isNaN || (fVal 0 (x.a k)).isInf) then { w := { d := some 0xFF00 }, ex := exIV }
    else
      let sc := blockScale x.f.ty (x.ex.map (fun k => fVal 0 (x.a k)))
      let e := blockElem x.f.ty (x.rnd l) sc (fVal 0 (x.a l))
      { w := { d := some ((sc + 127).toNat * 2 ^ 8 + e.1) }, ex := e.2 })) ∧
  (∀ o, Collects (.fredAdd o) (fun x l => ((fredVals (fun x a b => fAddV x.rdn a b) x).lookup l).getD { w := {}, ex := 0 })) ∧
  (∀ o, Collects (.fredMin o) (fun x l => ((fredVals (fun _ a b => (fPick false a b).res) x).lookup l).getD { w := {}, ex := 0 })) ∧
  (∀ o, Collects (.fredMax o) (fun x l => ((fredVals (fun _ a b => (fPick true a b).res) x).lookup l).getD { w := {}, ex := 0 }))

/-- Ready, with every executing lane past its checks: ld, lds, ldx, ldxs, ldnt, ldxnt and ldm complete (exec answers a next state), set d empty in the executing lanes, move on, and post one deferred result for each lane; from memory its value is the bytes that the thread sees there, little-endian, sign-extended by lds and ldxs, and none where a sector is poisoned, with the address of the lowest lane that reads poison; vz takes only a poisoned one; every other thread, every table of a weave and every byte of memory stands as the checks left it. Completion, exec answering a next state under conditions on the state and the operands alone, is stated of ld, lds, ldx, ldxs, ldnt, ldxnt, ldm. By the model's choice the value is fixed at issue and delivered later (log entry 4); speculating loads, scratchpads and devices are left out here. -/
def Obligations.LoadsPostTheirResults : Prop :=
  (∀ o, Loads (.ld o) { dev := true }) ∧
  (∀ o, Loads (.lds o) { signed := true }) ∧
  (∀ o, Loads (.ldx o) { indexed := true, dev := true }) ∧
  (∀ o, Loads (.ldxs o) { indexed := true, signed := true }) ∧
  (∀ o, Loads (.ldnt o) { nt := true }) ∧
  (∀ o, Loads (.ldxnt o) { indexed := true, nt := true }) ∧
  (∀ o, Loads (.ldm o) { multi := true })

/-- ldnf COMPLETES (exec answers a next state) for every state and operands that meet conditions on them alone: ready, not speculating, no earlier atomic of the lanes under way, every executing lane either refused by a check of R188 or past them onto memory. A lane past its checks writes the bytes it sees and sets P(b), or zero and clears it where a sector is poisoned; a refused lane writes zero and clears P(b); nothing else of the threads changes but what speculating threads learn of conflicts, and memory is that of the checks. Completion, exec answering a next state under conditions on the state and the operands alone, is stated of ldnf. -/
def Obligations.NonFaultingLoad : Prop :=
  (∀ o, Completes (.ldnf o) (fun x s => ∃ u qs, x.nfGoes s u qs)) ∧
  ∀ o s x u qs, Ready (.ldnf o) s x → x.nfGoes (x.moved s) u qs →
    let k : MemKind := {}
    ∃ t, exec (.ldnf o) s = .next t ∧ SameTables s t ∧
      Passed s u x (fun t => { t.plainly with regs := [], preds := 0 }) (fun _ t => t) t ∧
      (∀ l ∈ x.g.lanes, LaneAfter x l (if l ∈ x.ex then some (match qs.find? (fun q => q.l = l) with
          | some q => let ok := !u.anyPoison (q.loc.span (k.size x))
              { reg := some (if ok then x.readsAt u q (k.size x) else 0), pred := some (x.f.b.toNat % 8, ok) }
          | none => { reg := some 0, pred := some (x.f.b.toNat % 8, false) }) else none)
        (s.thread x.g.core x.g.slot l) (t.thread x.g.core x.g.slot l) s.tick)

/-- st, stx, stnt, stxnt, stm and stbe COMPLETE (exec answers a next state) for every state and operands that meet conditions on them alone: ready, not speculating, every executing lane past the checks of R188, and room in the queue (R187). They append entries that hold exactly the enabled bytes of d of the executing lanes at their addresses, but for bytes that a higher lane writes too; no byte of memory changes, no other queue, and of the threads only the executing lanes move on (another thread's speculation may learn of a conflict). Completion, exec answering a next state under conditions on the state and the operands alone, is stated of st, stx, stnt, stxnt, stm, stbe. -/
def Obligations.StoresEnterTheQueue : Prop :=
  (∀ o, Completes (.st o) (fun x s => x.storeGoes { dev := true } (allBytes x) s)) ∧
  (∀ o, Completes (.stx o) (fun x s => x.storeGoes { indexed := true, dev := true } (allBytes x) s)) ∧
  (∀ o, Completes (.stnt o) (fun x s => x.storeGoes { nt := true } (allBytes x) s)) ∧
  (∀ o, Completes (.stxnt o) (fun x s => x.storeGoes { indexed := true, nt := true } (allBytes x) s)) ∧
  (∀ o, Completes (.stm o) (fun x s => x.storeGoes { multi := true } (allBytes x) s)) ∧
  (∀ o, Completes (.stbe o) (fun x s => x.storeGoes {} (fun l k => (x.b l).testBit k) s)) ∧
  (∀ o, Stores (.st o) { dev := true } allBytes) ∧
  (∀ o, Stores (.stx o) { indexed := true, dev := true } allBytes) ∧
  (∀ o, Stores (.stnt o) { nt := true } allBytes) ∧
  (∀ o, Stores (.stxnt o) { indexed := true, nt := true } allBytes) ∧
  (∀ o, Stores (.stm o) { multi := true } allBytes) ∧
  (∀ o, Stores (.stbe o) {} (fun x l k => (x.b l).testBit k))

/-- STORE_QUEUE_DRAIN, STORE_PERFORMED, WRITE_AFTER_HOLDS and SYNC_ENGINE_UPDATE answer a next state under conditions on the state alone. The drain moves the oldest entry of a queue to its core, takes in committed stores that wait for the free entry, and changes no byte; an entry of memory bytes that is ready is then performed: for every address the byte after is the newest byte of the entry there, and the byte before at every address that the entry does not hold. The same holds of an entry that waited for holds and of one at a synchronisation engine. Completion, exec answering a next state under conditions on the state and the operands alone, is stated of storeQueueDrain, storePerformed, writeAfterHolds, syncEngineUpdate. By the model's choice committed stores wait beside the queue for a free entry (log entry 32); writes that must wait are log entry 12. -/
def Obligations.StoresReachMemory : Prop :=
  (∀ core slot s e r, (s.weave core slot).storeq = e :: r →
    ∃ t, exec (.storeQueueDrain core slot) s = .next t ∧ (t.weave core slot).storeq = r ++ (s.weave core slot).commitq.take (Config.storeQueue - r.length) ∧
      (t.weave core slot).commitq = (s.weave core slot).commitq.drop (Config.storeQueue - r.length) ∧
      (t.core core).pending = (s.core core).pending ++ [e] ∧ ∀ pa, t.memByte pa = s.memByte pa) ∧
  ∀ core idx s e, (s.core core).pending[idx]? = some e → s.lcache = [] →
    (∀ b ∈ e.bytes, ∃ pa, b.loc = .mem pa ∧ regsAddr pa = false ∧ s.isLocal pa = true ∧ s.heldByOthers core (pa / 128) = false) →
    s.entryReady core idx e = true →
    ∀ i, (i = .storePerformed core idx ∧ e.held = false ∧ e.sync = false ∨ i = .writeAfterHolds core idx ∧ e.held = true ∨
        i = .syncEngineUpdate core idx ∧ e.sync = true) →
      ∃ t, exec i s = .next t ∧ (t.core core).pending = (s.core core).pending.eraseIdx idx ∧
        ∀ pa, t.memByte pa = (entryByte [e] (.mem pa)).getD (s.memByte pa)

/-- Ready, pf, pfx, thpf and specwait complete in every lane, trap in none, and change no register, no predicate, no flag, no special register and no byte of memory; pf and pfx leave the core a copy of every line that an access of theirs would reach, under a hold, but where a write waits at the line (lineWaits: no new hold is granted there for 8192 ns, log entry 12), or, on a page of the synchronisation class, as copies of its half-lines, and with .llc none; where no such page is met every thread outside the group stands too, and else of one only the conflicts of its speculation may change. Completion, exec answering a next state under conditions on the state and the operands alone, is stated of thpf, specwait, pf, pfx. -/
def Obligations.Prefetches : Prop :=
  (∀ o, Computes (.thpf o) toNone) ∧
  (∀ o, Computes (.specwait o) toNone) ∧
  (∀ o s x, Ready (.pf o) s x →
      let k : MemKind := { indexed := false }
      let r := (x.moved s).checkList x.agent (k.acc x false) (x.ex.map (k.ea x))
      let ls := if x.f.mod.getLsbD 3 then [] else r.2.filterMap (prefetchLine r.1)
      ∃ t, exec (.pf o) s = .next t ∧ Passed s s x Thread.plainly (fun _ u => u) t ∧ SameTables s t ∧
      ((∀ n ∈ ls, n.2 = false) → Stands s x (fun _ => {}) t ∧ t.dies = s.dies) ∧
      { t with cores := s.cores, dies := s.dies, holds := s.holds, free := s.free } = s ∧
      (ls = [] → t.holds = s.holds ∧ t.free = s.free) ∧
      ∀ n ∈ ls, if n.2 then ∀ h ∈ [2 * n.1, 2 * n.1 + 1],
          ∃ e, (t.die (homeDie (n.1 * 128))).syncs.find? (fun e => e.half = h) = some e ∧ (e.full || e.sharers.contains x.g.core) = true
        else t.lineWaits n.1 = true ∨ ∃ h ∈ t.holds, h.line = n.1 ∧ h.core = x.g.core ∧ h.live t.time = true) ∧
  (∀ o s x, Ready (.pfx o) s x →
      let k : MemKind := { indexed := true }
      let r := (x.moved s).checkList x.agent (k.acc x false) (x.ex.map (k.ea x))
      let ls := if x.f.mod.getLsbD 3 then [] else r.2.filterMap (prefetchLine r.1)
      ∃ t, exec (.pfx o) s = .next t ∧ Passed s s x Thread.plainly (fun _ u => u) t ∧ SameTables s t ∧
      ((∀ n ∈ ls, n.2 = false) → Stands s x (fun _ => {}) t ∧ t.dies = s.dies) ∧
      { t with cores := s.cores, dies := s.dies, holds := s.holds, free := s.free } = s ∧
      (ls = [] → t.holds = s.holds ∧ t.free = s.free) ∧
      ∀ n ∈ ls, if n.2 then ∀ h ∈ [2 * n.1, 2 * n.1 + 1],
          ∃ e, (t.die (homeDie (n.1 * 128))).syncs.find? (fun e => e.half = h) = some e ∧ (e.full || e.sharers.contains x.g.core) = true
        else t.lineWaits n.1 = true ∨ ∃ h ∈ t.holds, h.line = n.1 ∧ h.core = x.g.core ∧ h.live t.time = true)

/-- Ready, with every executing lane past its checks, each atomic posts its lanes and sets d empty; performed on a word of memory, cas stores d where the word equals b, swap b, aadd the wrapped sum, amin and amax the smaller and the larger by the type, aand, aor and axor the bitwise result, ainc 0 where the word has reached b and else the word plus one; every other byte stands, and the old value is returned. Completion, exec answering a next state under conditions on the state and the operands alone, is stated of cas, swap, aadd, amin, amax, aand, aor, axor, ainc, atomicPerform. -/
def Obligations.IntegerAtomics : Prop :=
  (∀ o, Atomics (.cas o) eaDisp Iss.b Iss.d (syncBits o.ty / 8)
    (fun old x y => if old = x then some y else none) (some)) ∧
  (∀ o, Atomics (.swap o) eaDisp Iss.b zeroOf (syncBits o.ty / 8)
    (fun old x _ => some x) (some)) ∧
  (∀ o, Atomics (.aadd o) eaDisp Iss.b zeroOf (syncBits o.ty / 8)
    (fun old x _ => some ((old + x) % 2 ^ (8 * (syncBits o.ty / 8)))) (some)) ∧
  (∀ o, Atomics (.amin o) eaDisp Iss.b zeroOf (syncBits o.ty / 8)
    (fun old x _ => some (if intVal o.ty x < intVal o.ty old then x else old)) (some)) ∧
  (∀ o, Atomics (.amax o) eaDisp Iss.b zeroOf (syncBits o.ty / 8)
    (fun old x _ => some (if intVal o.ty old < intVal o.ty x then x else old)) (some)) ∧
  (∀ o, Atomics (.aand o) eaPair Iss.b zeroOf (syncBits o.ty / 8)
    (fun old x _ => some (old &&& x)) (some)) ∧
  (∀ o, Atomics (.aor o) eaPair Iss.b zeroOf (syncBits o.ty / 8)
    (fun old x _ => some (old ||| x)) (some)) ∧
  (∀ o, Atomics (.axor o) eaPair Iss.b zeroOf (syncBits o.ty / 8)
    (fun old x _ => some (old ^^^ x)) (some)) ∧
  (∀ o, Atomics (.ainc o) eaPair Iss.b zeroOf (syncBits o.ty / 8)
    (fun old x _ => some (if x ≤ old then 0 else old + 1)) (some))

/-- Ready, with every executing lane past its checks, afadd, xadd, xset and xrd post their lanes; performed on memory, afadd stores the sum rounded to nearest even and returns the old value, xadd adds its operand exactly to the cell, xset sets the cell to its operand, xrd stores nothing and returns the cell rounded to the type; every other byte stands. Completion, exec answering a next state under conditions on the state and the operands alone, is stated of afadd, xadd, xset, xrd. -/
def Obligations.FloatAndExactAtomics : Prop :=
  (∀ o, Atomics (.afadd o) eaDisp Iss.b zeroOf (fpBits o.ty / 8)
    (fun old x _ => some (((fAddV false (fVal o.ty old) (fVal o.ty x)).out o.ty { mode := 0, sat := false } false).1)) (some)) ∧
  (∀ o, Atomics (.xadd o) eaDisp Iss.d zeroOf 64
    (fun old x _ => some ((cellOf old).add (fVal o.ty x)).word) (fun _ => none)) ∧
  (∀ o, Atomics (.xset o) eaPair Iss.b zeroOf 64
    (fun old x _ => some ((cellOf old).put (fVal o.ty x)).word) (fun _ => none)) ∧
  (∀ o, Atomics (.xrd o) eaDisp zeroOf zeroOf 64
    (fun _ _ _ => none) (fun old => some ((cellOf old).sum o.ty)))

/-- For every 512-bit cell: xadd of a finite value adds its exact multiple of 2 to the power -149 to the 320-bit accumulator modulo 2 to the power 320 and changes no exception bit but the overflow that the count gives, the count saturates at 2^60 - 1, a NaN or an infinity sets its own bit and leaves the accumulator and the other two bits, the user bits always stand; a word is the word of its fields, and fields that fit their places read back from the word as they were written. -/
def Obligations.ExactSumCell : Prop :=
  (∀ v, v < 2 ^ 512 → (cellOf v).word = v) ∧
  (∀ (c : Cell), c.acc < 2 ^ 320 → c.cnt < 2 ^ 60 → c.user < 2 ^ 128 → c.word < 2 ^ 512 ∧ cellOf c.word = c) ∧
  (∀ (c : Cell) neg sig pl w, (c.add (.nan neg sig pl w)).nan = true ∧ (c.add (.nan neg sig pl w)).acc = c.acc ∧
    (c.add (.nan neg sig pl w)).pinf = c.pinf ∧ (c.add (.nan neg sig pl w)).ninf = c.ninf) ∧
  (∀ (c : Cell) v, (c.add v).cnt = min (c.cnt + 1) (2 ^ 60 - 1) ∧ (c.add v).user = c.user ∧
    (c.add v).ovf = (c.ovf || decide (2 ^ 42 < min (c.cnt + 1) (2 ^ 60 - 1)))) ∧
  (∀ (c : Cell) n m e, ((c.add (.fin n m e)).acc : Int) = ((c.acc : Int) + exactOf (.fin n m e)) % (2 ^ 320 : Nat) ∧
    (c.add (.fin n m e)).nan = c.nan ∧ (c.add (.fin n m e)).pinf = c.pinf ∧ (c.add (.fin n m e)).ninf = c.ninf) ∧
  ∀ (c : Cell), (c.add (.inf true)).acc = c.acc ∧ (c.add (.inf true)).ninf = true ∧ (c.add (.inf true)).pinf = c.pinf ∧ (c.add (.inf true)).nan = c.nan ∧
    (c.add (.inf false)).acc = c.acc ∧ (c.add (.inf false)).pinf = true ∧ (c.add (.inf false)).ninf = c.ninf ∧ (c.add (.inf false)).nan = c.nan

/-- Ready: fence and fence.rel complete and change nothing once no atomic of the executing lanes is pending, the queue of the weave is empty and the core has performed its stores; fence.acq once no such atomic is pending; else each waits at its word, having done nothing. Where the word in memory is not poisoned and meets the condition in every executing lane, waitv.eq and waitv.ne complete and write it to d. Completion, exec answering a next state under conditions on the state and the operands alone, is stated of fence, fenceRel, fenceAcq, waitvEq, waitvNe. What a fence waits for (atomPending, drained) is the model's reading (log entry 5). -/
def Obligations.FencesAndWaits : Prop :=
  (∀ o, Acts (.fence o) (fun x s => x.ex = [] ∨ s.atomPending x.g.core x.g.slot x.ex = false ∧ s.drained x.g.core x.g.slot = true) still (fun _ s => s)) ∧
  (∀ o, Acts (.fenceRel o) (fun x s => x.ex = [] ∨ s.atomPending x.g.core x.g.slot x.ex = false ∧ s.drained x.g.core x.g.slot = true) still (fun _ s => s)) ∧
  (∀ o, Acts (.fenceAcq o) (fun x s => x.ex = [] ∨ s.atomPending x.g.core x.g.slot x.ex = false) still (fun _ s => s)) ∧
  (∀ o, Waits (.fence o) (fun x s => x.ex ≠ [] ∧ (s.atomPending x.g.core x.g.slot x.ex = true ∨ s.drained x.g.core x.g.slot = false))) ∧
  (∀ o, Waits (.fenceRel o) (fun x s => x.ex ≠ [] ∧ (s.atomPending x.g.core x.g.slot x.ex = true ∨ s.drained x.g.core x.g.slot = false))) ∧
  (∀ o, Waits (.fenceAcq o) (fun x s => x.ex ≠ [] ∧ s.atomPending x.g.core x.g.slot x.ex = true)) ∧
  (∀ ne o i s x u qs, i = (if ne then Instr.waitvNe o else Instr.waitvEq o) → Ready i s x → x.g.spec = false →
    let n := syncBits x.f.ty / 8
    x.access (x.moved s) { rd := true, align := n, size := n } (fun l => x.a l) = .go u qs → qs.map (·.l) = x.ex →
    (∀ q ∈ qs, q.loc.isData ∧ u.anyPoison (q.loc.span n) = false ∧ (x.readsAt u q n = x.b q.l ↔ ne = false)) →
    ∃ t, exec i s = .next t ∧ SameTables s t ∧ Passed s u x Thread.plainly (fun l t =>
      { t.dest x.f.d (8 * n) (((qs.find? (fun q => q.l = l)).map (fun q => x.readsAt u q n)).getD 0) with watch := none }) t)

/-- Ready in a team and with one count in every executing lane: where the count is within its limit (1024 for a point, 65536 for a gang barrier), a point armed before has the same count, and none has arrived when the count is 0, the point is armed with the count, or disarmed by 0, and nothing else changes; a count beyond the limit raises the barrier conflict 8, a different count 3, a disarming with arrivals 7. Completion, exec answering a next state under conditions on the state and the operands alone, is stated of rvinit, gbinit. -/
def Obligations.PointsAreArmed : Prop :=
  (∀ o, Acts (.rvinit o) (fun x s => x.teamed s ∧ x.alike (fun x l => [x.a l]) ∧ x.a x.low ≤ 1024 ∧
      (x.a x.low = 0 → (s.point (x.mine s) false (x.pointIdx false)).arr = 0) ∧
      (x.a x.low ≠ 0 → (s.point (x.mine s) false (x.pointIdx false)).armed = true → (s.point (x.mine s) false (x.pointIdx false)).exp = x.a x.low)) still
    (fun x s => s.setPoint (x.mine s) false (x.pointIdx false) { s.point (x.mine s) false (x.pointIdx false) with
      armed := x.a x.low != 0, exp := x.a x.low })) ∧
  (∀ o, Acts (.gbinit o) (fun x s => x.teamed s ∧ x.alike (fun x l => [x.a l]) ∧ x.a x.low ≤ 65536 ∧
      (x.a x.low = 0 → (s.point (x.mine s) true (x.pointIdx true)).arr = 0) ∧
      (x.a x.low ≠ 0 → (s.point (x.mine s) true (x.pointIdx true)).armed = true → (s.point (x.mine s) true (x.pointIdx true)).exp = x.a x.low)) still
    (fun x s => s.setPoint (x.mine s) true (x.pointIdx true) { s.point (x.mine s) true (x.pointIdx true) with
      armed := x.a x.low != 0, exp := x.a x.low })) ∧
  (∀ o, Raises (.rvinit o) (fun x s => x.teamed s ∧ x.alike (fun x l => [x.a l]) ∧ 1024 < x.a x.low) 0x05 8 (fun x => x.ex)) ∧
  (∀ o, Raises (.gbinit o) (fun x s => x.teamed s ∧ x.alike (fun x l => [x.a l]) ∧ 65536 < x.a x.low) 0x05 8 (fun x => x.ex)) ∧
  (∀ o, Raises (.rvinit o) (fun x s => x.teamed s ∧ x.alike (fun x l => [x.a l]) ∧ x.a x.low ≤ 1024 ∧ x.a x.low ≠ 0 ∧
      (s.point (x.mine s) false (x.pointIdx false)).armed = true ∧ (s.point (x.mine s) false (x.pointIdx false)).exp ≠ x.a x.low) 0x05 3 (fun x => x.ex)) ∧
  (∀ o, Raises (.gbinit o) (fun x s => x.teamed s ∧ x.alike (fun x l => [x.a l]) ∧ x.a x.low ≤ 65536 ∧ x.a x.low ≠ 0 ∧
      (s.point (x.mine s) true (x.pointIdx true)).armed = true ∧ (s.point (x.mine s) true (x.pointIdx true)).exp ≠ x.a x.low) 0x05 3 (fun x => x.ex)) ∧
  (∀ o, Raises (.rvinit o) (fun x s => x.teamed s ∧ x.alike (fun x l => [x.a l]) ∧ x.a x.low = 0 ∧
      (s.point (x.mine s) false (x.pointIdx false)).arr ≠ 0) 0x05 7 (fun x => x.ex)) ∧
  (∀ o, Raises (.gbinit o) (fun x s => x.teamed s ∧ x.alike (fun x l => [x.a l]) ∧ x.a x.low = 0 ∧
      (s.point (x.mine s) true (x.pointIdx true)).arr ≠ 0) 0x05 7 (fun x => x.ex))

/-- Ready in a team, with an armed point, no arrival of an executing lane open and the accesses that the arrival publishes made: while the point still expects more, rvarrive and gbarrive count the executing lanes and set their PENDING, and rvsync and gbsync leave them waiting there; the arrivals that reach the count leave the point with none and its phase one higher, DONE set in the arriving lanes of a rendezvous point (which rvsync then passes), and the completion on its way to the lanes of a gang barrier, those of gbsync still waiting; it then reaches them (GANG_BARRIER_RELEASE), and a lane of gbsync goes on with DONE set and PENDING clear. The accesses that an arrival publishes stand as a hypothesis (State.published; log entry 5). Completion, exec answering a next state under conditions on the state and the operands alone, is stated of rvarrive, gbarrive, rvsync, gbsync, gangBarrierRelease. -/
def Obligations.Arrivals : Prop :=
  (∀ o s x, Ready (.rvarrive o) s x → let m := x.moved s; let p := m.point (x.mine m) false (x.pointIdx false)
    x.teamed m → m.published false x = true → (m.findTeam (x.mine m) = some (x.g.core, m.team (x.mine m))) → p.armed = true →
    (∀ l ∈ x.ex, (s.thread x.g.core x.g.slot l).isOpen false (x.pointIdx false) = false) → p.arr + x.ex.length < p.exp →
    ∃ t, exec (.rvarrive o) s = .next t ∧ SameTables s t ∧ t.point (x.mine m) false (x.pointIdx false) = { p with arr := p.arr + x.ex.length } ∧
      Passed s s x id (fun _ u => u.arriveAt false (x.pointIdx false)) t) ∧
  (∀ o s x, Ready (.gbarrive o) s x → let m := x.moved s; let p := m.point (x.mine m) true (x.pointIdx true)
    x.teamed m → m.published true x = true → ((m.findGang (m.team (x.mine m)).gang).isSome = true) → p.armed = true →
    (∀ l ∈ x.ex, (s.thread x.g.core x.g.slot l).isOpen true (x.pointIdx true) = false) → p.arr + x.ex.length < p.exp →
    ∃ t, exec (.gbarrive o) s = .next t ∧ SameTables s t ∧ t.point (x.mine m) true (x.pointIdx true) = { p with arr := p.arr + x.ex.length } ∧
      Passed s s x id (fun _ u => u.arriveAt true (x.pointIdx true)) t) ∧
  (∀ o s x, Ready (.rvsync o) s x → let m := x.moved s; let p := m.point (x.mine m) false (x.pointIdx false)
    x.teamed m → m.published false x = true → (m.findTeam (x.mine m) = some (x.g.core, m.team (x.mine m))) → p.armed = true →
    (∀ l ∈ x.ex, (s.thread x.g.core x.g.slot l).isOpen false (x.pointIdx false) = false) → p.arr + x.ex.length < p.exp →
    ∃ t, exec (.rvsync o) s = .next t ∧ SameTables s t ∧ t.point (x.mine m) false (x.pointIdx false) = { p with arr := p.arr + x.ex.length } ∧
      (∀ pa, t.memByte pa = s.memByte pa) ∧ ∀ l ∈ x.ex, t.thread x.g.core x.g.slot l = (fun u : Thread => { u.arriveAt false (x.pointIdx false) with ctl := (x.th l).ctl, mode := .waiting (.arrived false (x.pointIdx false)), hollow := (x.th l).hollow, ceded := (x.th l).ceded.dedup }) (movedOn (s.thread x.g.core x.g.slot l) x.words s.tick)) ∧
  (∀ o s x, Ready (.gbsync o) s x → let m := x.moved s; let p := m.point (x.mine m) true (x.pointIdx true)
    x.teamed m → m.published true x = true → ((m.findGang (m.team (x.mine m)).gang).isSome = true) → p.armed = true →
    (∀ l ∈ x.ex, (s.thread x.g.core x.g.slot l).isOpen true (x.pointIdx true) = false) → p.arr + x.ex.length < p.exp →
    ∃ t, exec (.gbsync o) s = .next t ∧ SameTables s t ∧ t.point (x.mine m) true (x.pointIdx true) = { p with arr := p.arr + x.ex.length } ∧
      (∀ pa, t.memByte pa = s.memByte pa) ∧ ∀ l ∈ x.ex, t.thread x.g.core x.g.slot l = (fun u : Thread => { u.arriveAt true (x.pointIdx true) with ctl := (x.th l).ctl, mode := .waiting (.arrived true (x.pointIdx true)), hollow := (x.th l).hollow, ceded := (x.th l).ceded.dedup }) (movedOn (s.thread x.g.core x.g.slot l) x.words s.tick)) ∧
  (∀ o s x, Ready (.rvarrive o) s x → let m := x.moved s; let p := m.point (x.mine m) false (x.pointIdx false)
    x.teamed m → x.g.spec = false → m.published false x = true → (m.findTeam (x.mine m) = some (x.g.core, m.team (x.mine m)) ∧ x.g.slot ∈ (m.team (x.mine m)).slots) → p.armed = true →
    (∀ l ∈ x.ex, (s.thread x.g.core x.g.slot l).isOpen false (x.pointIdx false) = false) → p.arr + x.ex.length = p.exp →
    ∃ t, exec (.rvarrive o) s = .next t ∧ t.point (x.mine m) false (x.pointIdx false) = { p with arr := 0, ph := (p.ph + 1) % 256 } ∧
      (∀ pa, t.memByte pa = s.memByte pa) ∧ ∀ l ∈ x.ex, (t.thread x.g.core x.g.slot l).isDone false (x.pointIdx false) = true ∧ (t.thread x.g.core x.g.slot l).isPend false (x.pointIdx false) = true) ∧
  (∀ o s x, Ready (.gbarrive o) s x → let m := x.moved s; let p := m.point (x.mine m) true (x.pointIdx true)
    x.teamed m → x.g.spec = false → m.published true x = true → ((m.findGang (m.team (x.mine m)).gang).isSome = true) → p.armed = true →
    (∀ l ∈ x.ex, (s.thread x.g.core x.g.slot l).isOpen true (x.pointIdx true) = false) → p.arr + x.ex.length = p.exp →
    ∃ t, exec (.gbarrive o) s = .next t ∧ t.point (x.mine m) true (x.pointIdx true) = { p with arr := 0, ph := (p.ph + 1) % 256 } ∧
      (∀ pa, t.memByte pa = s.memByte pa) ∧ ∀ l ∈ x.ex, (t.thread x.g.core x.g.slot l).gbDue.getLsbD (x.pointIdx true) = true ∧ (t.thread x.g.core x.g.slot l).isPend true (x.pointIdx true) = true) ∧
  (∀ o s x, Ready (.rvsync o) s x → let m := x.moved s; let p := m.point (x.mine m) false (x.pointIdx false)
    x.teamed m → x.g.spec = false → m.published false x = true → (m.findTeam (x.mine m) = some (x.g.core, m.team (x.mine m)) ∧ x.g.slot ∈ (m.team (x.mine m)).slots) → p.armed = true →
    (∀ l ∈ x.ex, (s.thread x.g.core x.g.slot l).isOpen false (x.pointIdx false) = false) → p.arr + x.ex.length = p.exp →
    ∃ t, exec (.rvsync o) s = .next t ∧ t.point (x.mine m) false (x.pointIdx false) = { p with arr := 0, ph := (p.ph + 1) % 256 } ∧
      (∀ pa, t.memByte pa = s.memByte pa) ∧ ∀ l ∈ x.ex, (t.thread x.g.core x.g.slot l).isPend false (x.pointIdx false) = false ∧ (t.thread x.g.core x.g.slot l).ctl = (s.thread x.g.core x.g.slot l).ctl.next x.words) ∧
  (∀ o s x, Ready (.gbsync o) s x → let m := x.moved s; let p := m.point (x.mine m) true (x.pointIdx true)
    x.teamed m → x.g.spec = false → m.published true x = true → ((m.findGang (m.team (x.mine m)).gang).isSome = true) → p.armed = true →
    (∀ l ∈ x.ex, (s.thread x.g.core x.g.slot l).isOpen true (x.pointIdx true) = false) → p.arr + x.ex.length = p.exp →
    ∃ t, exec (.gbsync o) s = .next t ∧ t.point (x.mine m) true (x.pointIdx true) = { p with arr := 0, ph := (p.ph + 1) % 256 } ∧
      (∀ pa, t.memByte pa = s.memByte pa) ∧ ∀ l ∈ x.ex, (t.thread x.g.core x.g.slot l).gbDue.getLsbD (x.pointIdx true) = true ∧ (t.thread x.g.core x.g.slot l).isPend true (x.pointIdx true) = true ∧
      (t.thread x.g.core x.g.slot l).mode = .waiting (.arrived true (x.pointIdx true)) ∧ (t.thread x.g.core x.g.slot l).ctl = (s.thread x.g.core x.g.slot l).ctl) ∧
  (∀ (s : State) g n c w l, let y := (s.weave c w).team.getD 0
    (s.weave c w).team.isSome = true → (s.team y).gang = g → (s.thread c w l).mode = .waiting (.arrived true n) → n < 8 →
    (s.thread c w l).gbDue.getLsbD n = true →
    ∃ t, exec (.gangBarrierRelease g n) s = .next t ∧ (∀ pa, t.memByte pa = s.memByte pa) ∧ (t.thread c w l).mode = .ready ∧
      (t.thread c w l).isDone true n = true ∧ (t.thread c w l).isPend true n = false ∧
      (t.thread c w l).ctl.pc = (s.thread c w l).ctl.pc + 8)

/-- Ready in a team: rvwait, gbwait and rvwait.spec whose executing lanes have arrived and whose phase is done clear PENDING and go on; rvwait.spec with the phase still open, in a team that can speculate, leaves a checkpoint of each executing lane and goes on; rvpoll writes to P(d) whether the arrival is pending and done; rvstat writes the word of the point, 0 without a team; all leave memory and every table of a weave. Completion, exec answering a next state under conditions on the state and the operands alone, is stated of rvwait, gbwait, rvwaitSpec, rvpoll, rvstat. -/
def Obligations.WaitsAtPoints : Prop :=
  (∀ o s x, Ready (.rvwait o) s x → x.teamed s → (∀ l ∈ x.ex, (s.thread x.g.core x.g.slot l).isPend false (x.pointIdx false) = true ∧
      (s.thread x.g.core x.g.slot l).isDone false (x.pointIdx false) = true) →
    ∃ t, exec (.rvwait o) s = .next t ∧ SameTables s t ∧
      Passed s s x id (fun _ u => (u.setPend false (x.pointIdx false) false).specAgain x.g.pc) t) ∧
  (∀ o s x, Ready (.gbwait o) s x → x.teamed s → (∀ l ∈ x.ex, (s.thread x.g.core x.g.slot l).isPend true (x.pointIdx true) = true ∧
      (s.thread x.g.core x.g.slot l).isDone true (x.pointIdx true) = true) →
    ∃ t, exec (.gbwait o) s = .next t ∧ SameTables s t ∧
      Passed s s x id (fun _ u => (u.setPend true (x.pointIdx true) false).specAgain x.g.pc) t) ∧
  (∀ o s x, Ready (.rvwaitSpec o) s x → x.teamed s → (∀ l ∈ x.ex, (s.thread x.g.core x.g.slot l).isPend false (x.pointIdx false) = true ∧
      (s.thread x.g.core x.g.slot l).isDone false (x.pointIdx false) = true) →
    ∃ t, exec (.rvwaitSpec o) s = .next t ∧ SameTables s t ∧
      Passed s s x id (fun _ u => (u.setPend false (x.pointIdx false) false).specAgain x.g.pc) t) ∧
  (∀ o s x, Ready (.rvwaitSpec o) s x → x.teamed (x.moved s) → ((x.moved s).team (x.mine (x.moved s))).speculative = true →
    (∀ l ∈ x.ex, (s.thread x.g.core x.g.slot l).isPend false (x.pointIdx false) = true ∧
      (s.thread x.g.core x.g.slot l).isDone false (x.pointIdx false) = false ∧ (s.thread x.g.core x.g.slot l).noSpec ≠ some x.g.pc) →
    ∃ t, exec (.rvwaitSpec o) s = .next t ∧ SameTables s t ∧
      Passed s s x id (fun l u => { u with spec := some (x.checkpoint (x.moved s) (x.pointIdx false) l) }) t) ∧
  (∀ o, Computes (.rvpoll o) (fun x l => { pred := some (x.f.d.toNat % 8, (x.th l).isPend false (x.pointIdx false) && (x.th l).isDone false (x.pointIdx false)) })) ∧
  (∀ o, Computes (.rvstat o) (toReg fun x _ => match (x.old.weave x.g.core x.g.slot).team with
    | none => 0
    | some t => (x.old.point t false (x.pointIdx false)).word))

/-- Ready: tlbp writes the probe of the address, and waits while a table of its walk is in refresh; tlbi, its lanes past the checks of R188, marks as draining the core TLB entries in its scope that its context, address and size cover, and where a check ends in a trap raises that trap, the address trap for addresses that are not canonical; tlbs, with no thread of a marked core speculating, waits until the stores, atomics and accesses to lenders of these cores have completed, and then drops the marked entries; pois, its lanes past their checks, stores performed and no hold in the way, writes zero to the sectors and sets or clears their marks, and every other byte and mark stands. Completion, exec answering a next state under conditions on the state and the operands alone, is stated of tlbp, tlbi, tlbs, pois. The checks of the operand of tlbi are the model's reading (log entry 28), and so are the bits that tlbp walks (29). -/
def Obligations.TranslationMaintenance : Prop :=
  (∀ o s x, Ready (.tlbp o) s x → (∀ l ∈ x.ex, (x.moved s).walk (x.b l % 2 ^ 16) (x.ea false 1 l) ≠ .wait) →
    ∃ t, exec (.tlbp o) s = .next t ∧ Computed s x (toReg (fun x l => x.old.probe (x.b l % 2 ^ 16) (x.ea false 1 l)) x) t) ∧
  (∀ o, Waits (.tlbp o) (fun x s => ∃ l ∈ x.ex, s.walk (x.b l % 2 ^ 16) (x.ea false 1 l) = .wait)) ∧
  (∀ o s x u qs, Ready (.tlbi o) s x → x.access (x.moved s) { routes := false, reach := false } (x.ea false 1) = .go u qs →
    qs.map (·.l) = x.ex →
    ∃ t, t = x.settled (qs.foldl (fun s q => s.shoot x.g.core x.pkgScope (x.d q.l % 2 ^ 16) q.ea (x.f.b.toNat % 4)) u) ∧
      exec (.tlbi o) s = .next t ∧ Passed s u x Thread.plainly (fun _ t => t) t ∧ SameTables s t) ∧
  (∀ o s x u c d ls, Ready (.tlbi o) s x →
    x.access (x.moved s) { routes := false, reach := false } (x.ea false 1) = .stop (.trap u [] c d ls) → x.canTrap u →
    exec (.tlbi o) s = .next ((x.unrun u x.g.lanes).trapEntry x.g.core x.g.slot x.g.lanes ls c d x.g.pc)) ∧
  (∀ (s : State) core pkg ctx va size c k, tabFind c s.cores = some k → tabFind c (s.shoot core pkg ctx va size).cores =
      some { k with tlb := k.tlb.map (fun e =>
        if (pkg = true ∨ c / 36 = core / 36) ∧ (e.ctx = ctx ∨ e.leaf.getLsbD 10 = true) ∧
            (size = 3 ∨ e.level = size ∧ va % 2 ^ 57 / 2 ^ pageBits size = e.va % 2 ^ 57 / 2 ^ pageBits size) then
          { e with draining := true, mark := (core, pkg) :: e.mark } else e) }) ∧
  (∀ o, Raises (.tlbi o) (fun x s => x.ex ≠ [] ∧ s.atomPending x.g.core x.g.slot x.ex = false ∧
      ∀ l ∈ x.ex, canonical (x.ea false 1 l) = false ∧ x.onWay l (x.ea false 1 l) = none) 8 1 (fun x => x.ex)) ∧
  (∀ o, Acts (.tlbs o) (fun x s => x.ex ≠ [] ∧ ∀ c ∈ s.markedCores x.g.core x.pkgScope, (∀ w l, (s.thread c w l).spec = none) ∧
      (s.core c).settled = true) still (fun x s =>
    (s.markedCores x.g.core x.pkgScope).foldl (fun u c => u.modCore c (fun k => { k with
      tlb := k.tlb.filter (fun e => !(e.draining && e.mark.contains (x.g.core, x.pkgScope))) })) s)) ∧
  (∀ o, Waits (.tlbs o) (fun x s => x.ex ≠ [] ∧
      (∀ c ∈ s.markedCores x.g.core x.pkgScope, ∀ w l, (s.thread c w l).spec = none) ∧
      ∃ c ∈ s.markedCores x.g.core x.pkgScope, (s.core c).settled = false)) ∧
  (∀ o s x u qs, Ready (.pois o) s x → x.access (x.moved s) { wr := true, routes := false } (x.ea false 1) = .go u qs →
    qs.map (·.l) = x.ex → (x.moved s).drained x.g.core x.g.slot = true →
    (∀ q ∈ qs, (x.moved s).heldLoc x.g.core q.loc = false ∧ (x.moved s).recallWaits none true q.loc 1 = false) → u.lcache = [] →
    ∃ t, exec (.pois o) s = .next t ∧ SameTables s t ∧
      (∀ b, t.memByte b = if ∃ q ∈ qs, q.loc.sector = .mem (b / 32 * 32) then 0 else u.memByte b) ∧
      ∀ b, t.memPoison b = if ∃ q ∈ qs, q.loc.sector = .mem (b / 32 * 32) then !x.f.mod.getLsbD 3 else u.memPoison b)

/-- Ready in a team: spmap and spmapz with alike operands, an entry that is free and a range that translates and that no other team has registered make the entry with the translated segments, so that its addresses then lead to the scratchpad; unacceptable operands raise the protection trap 9. spclr, spwb and spdrop on a valid entry act once the stores before them are performed, and spclr and spwb once no hold and no copy of a borrower stands on a line to be written back, and wait until then; on an entry that is not valid they do nothing. A write-back gives each byte of a dirty line to its backing address and changes no other byte. After spdrop and spclr the entry is not valid, no other entry has changed, no address that it alone covered leads to the scratchpad any more, its pending stores stand at their backing addresses, and the bytes of memory are those before spdrop, and for spclr those that spwb leaves. Completion, exec answering a next state under conditions on the state and the operands alone, is stated of spmap, spmapz, spclr, spwb, spdrop. -/
def Obligations.ScratchpadMapping : Prop :=
  (∀ o s x u gs, Ready (.spmap o) s x → x.teamed (x.moved s) → x.alike (fun x l => [x.a l, x.b l, x.c l]) →
    ((x.moved s).team (x.mine (x.moved s))).mapOk (x.f.d.toNat % 8) (x.a x.low) (x.b x.low) (x.c x.low) = true →
    (x.moved s).rangeSegs x.agent (x.a x.low) (x.c x.low) = (u, .ok gs) → u.registered (x.mine (x.moved s)) gs = false →
    exec (.spmap o) s = .next (x.settled (u.mapEntry (x.mine (x.moved s)) (x.f.d.toNat % 8)
      { va := x.a x.low, off := x.b x.low, len := x.c x.low, zero := false, segs := gs }))) ∧
  (∀ o s x u gs, Ready (.spmapz o) s x → x.teamed (x.moved s) → x.alike (fun x l => [x.a l, x.b l, x.c l]) →
    ((x.moved s).team (x.mine (x.moved s))).mapOk (x.f.d.toNat % 8) (x.a x.low) (x.b x.low) (x.c x.low) = true →
    (x.moved s).rangeSegs x.agent (x.a x.low) (x.c x.low) = (u, .ok gs) → u.registered (x.mine (x.moved s)) gs = false →
    exec (.spmapz o) s = .next (x.settled (u.mapEntry (x.mine (x.moved s)) (x.f.d.toNat % 8)
      { va := x.a x.low, off := x.b x.low, len := x.c x.low, zero := true, segs := gs }))) ∧
  (∀ o, Raises (.spmap o) (fun x s => x.teamed s ∧ x.alike (fun x l => [x.a l, x.b l, x.c l]) ∧
      (s.team (x.mine s)).mapOk (x.f.d.toNat % 8) (x.a x.low) (x.b x.low) (x.c x.low) = false) 8 9 (fun x => x.ex)) ∧
  (∀ o, Raises (.spmapz o) (fun x s => x.teamed s ∧ x.alike (fun x l => [x.a l, x.b l, x.c l]) ∧
      (s.team (x.mine s)).mapOk (x.f.d.toNat % 8) (x.a x.low) (x.b x.low) (x.c x.low) = false) 8 9 (fun x => x.ex)) ∧
  (∀ (y : Team) e va off len, y.mapOk e va off len = true ↔ va % 128 = 0 ∧ off % 128 = 0 ∧ len % 128 = 0 ∧ 128 ≤ len ∧
      off + len ≤ Config.bankBytes * y.spadBanks.length ∧ tabFind e y.maps = none ∧
      ∀ m ∈ y.maps, ¬ (m.2.va < va + len ∧ va < m.2.va + m.2.len)) ∧
  (∀ (s : State) y e m pa o, (s.findTeam y).isSome = true → s.place pa = .mem pa → m.locate pa = some o →
      (s.mapEntry y e m).place pa = .spad y o) ∧
  (∀ o, Does (.spclr o) (fun x s => x.teamed s ∧ (tabFind (x.f.d.toNat % 8) (s.team (x.mine s)).maps).isSome = true ∧
      s.drained x.g.core x.g.slot = true ∧ s.backHeld x.g.core (x.mine s) (x.f.d.toNat % 8) = []) (fun x s => s.spadClear (x.mine s) (x.f.d.toNat % 8))) ∧
  (∀ o, Does (.spwb o) (fun x s => x.teamed s ∧ (tabFind (x.f.d.toNat % 8) (s.team (x.mine s)).maps).isSome = true ∧
      s.drained x.g.core x.g.slot = true ∧ s.backHeld x.g.core (x.mine s) (x.f.d.toNat % 8) = []) (fun x s => s.spadWriteBack (x.mine s) (x.f.d.toNat % 8))) ∧
  (∀ o, Does (.spdrop o) (fun x s => x.teamed s ∧ (tabFind (x.f.d.toNat % 8) (s.team (x.mine s)).maps).isSome = true ∧
      s.drained x.g.core x.g.slot = true) (fun x s => s.spadDrop (x.mine s) (x.f.d.toNat % 8))) ∧
  (∀ o s x ls, Ready (.spclr o) s x → x.teamed (x.moved s) → (x.moved s).drained x.g.core x.g.slot = true →
      (x.moved s).backHeld x.g.core (x.mine (x.moved s)) (x.f.d.toNat % 8) = ls → ls ≠ [] →
      exec (.spclr o) s = .next (x.unrun (((x.moved s).waitBackLines ls).hold x.g x.g.lanes) x.g.lanes)) ∧
  (∀ o s x ls, Ready (.spwb o) s x → x.teamed (x.moved s) → (x.moved s).drained x.g.core x.g.slot = true →
      (x.moved s).backHeld x.g.core (x.mine (x.moved s)) (x.f.d.toNat % 8) = ls → ls ≠ [] →
      exec (.spwb o) s = .next (x.unrun (((x.moved s).waitBackLines ls).hold x.g x.g.lanes) x.g.lanes)) ∧
  (∀ o, Waits (.spclr o) (fun x s => x.teamed s ∧ (tabFind (x.f.d.toNat % 8) (s.team (x.mine s)).maps).isSome = true ∧
      s.drained x.g.core x.g.slot = false)) ∧
  (∀ o, Waits (.spwb o) (fun x s => x.teamed s ∧ (tabFind (x.f.d.toNat % 8) (s.team (x.mine s)).maps).isSome = true ∧
      s.drained x.g.core x.g.slot = false)) ∧
  (∀ o, Waits (.spdrop o) (fun x s => x.teamed s ∧ (tabFind (x.f.d.toNat % 8) (s.team (x.mine s)).maps).isSome = true ∧
      s.drained x.g.core x.g.slot = false)) ∧
  (∀ o, Acts (.spclr o) (fun x s => x.teamed s ∧ tabFind (x.f.d.toNat % 8) (s.team (x.mine s)).maps = none) still (fun _ s => s)) ∧
  (∀ o, Acts (.spwb o) (fun x s => x.teamed s ∧ tabFind (x.f.d.toNat % 8) (s.team (x.mine s)).maps = none) still (fun _ s => s)) ∧
  (∀ o, Acts (.spdrop o) (fun x s => x.teamed s ∧ tabFind (x.f.d.toNat % 8) (s.team (x.mine s)).maps = none) still (fun _ s => s)) ∧
  (∀ (s : State) y e m pa, tabFind e (s.team y).maps = some m → s.lcache = [] →
    (∀ n ∈ m.dirty, (m.backing (m.off + n * 128)).isSome = true) →
    let covers := fun o => m.backing o = some pa ∧ ∃ n ∈ m.dirty, ∃ i, i < 128 ∧ o = m.off + n * 128 + i
    ((∀ o, ¬ covers o) → (s.spadWriteBack y e).memByte pa = s.memByte pa) ∧
    ∀ o, covers o → (∀ o', covers o' → o' = o) → (s.spadWriteBack y e).memByte pa = tabGet 0 o (s.team y).spad) ∧
  (∀ (s : State) y e, (s.findTeam y).isSome = true → let t := s.spadDrop y e
    tabFind e (t.team y).maps = none ∧ (∀ k, k ≠ e → tabFind k (t.team y).maps = tabFind k (s.team y).maps) ∧
    (∀ pa, t.memByte pa = s.memByte pa) ∧
    (∀ va, (∀ m ∈ (s.team y).maps, m.1 ≠ e → ¬ (m.2.va ≤ va ∧ va < m.2.va + m.2.len)) → (t.team y).scratchHit va = none) ∧
    ∀ m, tabFind e (s.team y).maps = some m → ∀ c, (t.core c).pending = (s.core c).pending.map (fun q => { q with
      bytes := q.bytes.map (fun b => { b with loc := match b.loc with
        | .spad u n => if u = y then ((m.backing n).map Loc.mem).getD b.loc else b.loc
        | l => l }) })) ∧
  (∀ (s : State) y e, (s.findTeam y).isSome = true → let t := s.spadClear y e
    tabFind e (t.team y).maps = none ∧ (∀ k, k ≠ e → tabFind k (t.team y).maps = tabFind k (s.team y).maps) ∧
    (∀ pa, t.memByte pa = (s.spadWriteBack y e).memByte pa) ∧
    (∀ va, (∀ m ∈ (s.team y).maps, m.1 ≠ e → ¬ (m.2.va ≤ va ∧ va < m.2.va + m.2.len)) → (t.team y).scratchHit va = none) ∧
    ∀ m, tabFind e (s.team y).maps = some m → ∀ c, (t.core c).pending = (s.core c).pending.map (fun q => { q with
      bytes := q.bytes.map (fun b => { b with loc := match b.loc with
        | .spad u n => if u = y then ((m.backing n).map Loc.mem).getD b.loc else b.loc
        | l => l }) })) ∧
  (∀ (s : State) y e m pa, (s.findTeam y).isSome = true → tabFind e (s.team y).maps = none → s.place pa = .mem pa →
    ((s.mapEntry y e m).spadDrop y e).place pa = .mem pa) ∧
  (∀ (s : State) y e m pa, (s.findTeam y).isSome = true → tabFind e (s.team y).maps = none → s.place pa = .mem pa →
    ((s.mapEntry y e m).spadClear y e).place pa = .mem pa)

/-- Ready in a team with an executing lane: on a ready slot, offsets aligned and within its length, ldts writes the bytes of the slot to d where no sector of them is poisoned, and stts writes the low bytes of c in ascending lanes, once no earlier command has still to read them; a misaligned offset raises the alignment trap, one beyond the length the protection trap 8, in the lanes that have it; on a slot that is not ready they wait. tsfree empties a ready slot, leaves an empty one and waits while a command moves it; tsstat writes the state and the length in units of 256 bytes. Completion, exec answering a next state under conditions on the state and the operands alone, is stated of ldts, stts, tsfree, tsstat. -/
def Obligations.TileSlotAccesses : Prop :=
  (∀ o, Acts (.ldts o) (fun x s => x.teamed s ∧ ((s.team (x.mine s)).tslot x.slotNo).st = .ready ∧ ∀ l ∈ x.ex, x.a l % memBytes x.f.ty = 0 ∧ x.a l + memBytes x.f.ty ≤ ((s.team (x.mine s)).tslot x.slotNo).len ∧
      (s.team (x.mine s)).bufPoison ((((s.team (x.mine s)).tslot x.slotNo).base).getD 0 + x.a l) (memBytes x.f.ty) = false)
    (fun x s l => { reg := some ((s.team (x.mine s)).bufNat ((((s.team (x.mine s)).tslot x.slotNo).base).getD 0 + x.a l) (memBytes x.f.ty)) })
    (fun x s => s.modThreads x.g.core x.g.slot x.ex (fun l t =>
      let v := (s.team (x.mine s)).bufNat ((((s.team (x.mine s)).tslot x.slotNo).base).getD 0 + x.a l) (memBytes x.f.ty)
      (t.dest x.f.d (8 * memBytes x.f.ty) v).glance (.slot x.slotNo (x.a l) (memBytes x.f.ty) (some v))))) ∧
  (∀ o, Does (.stts o) (fun x s => x.teamed s ∧ ((s.team (x.mine s)).tslot x.slotNo).st = .ready ∧ ∀ l ∈ x.ex, x.a l % memBytes x.f.ty = 0 ∧ x.a l + memBytes x.f.ty ≤ ((s.team (x.mine s)).tslot x.slotNo).len ∧
      s.slotReaders x.g.core (x.mine s) (x.since s l) ((((s.team (x.mine s)).tslot x.slotNo).base).getD 0 + x.a l) ((((s.team (x.mine s)).tslot x.slotNo).base).getD 0 + x.a l + memBytes x.f.ty) = false)
    (fun x s => s.modTeam (x.mine s) (fun y => x.ex.foldl (fun y l =>
      y.bufWrite ((((s.team (x.mine s)).tslot x.slotNo).base).getD 0 + x.a l) (leBytes (memBytes x.f.ty) (x.c l))) y))) ∧
  (∀ (y : Team) o (bs : List Byte) j, tabGet 0 j (y.bufWrite o bs).opbuf = if o ≤ j then (bs[j - o]?).getD (tabGet 0 j y.opbuf) else tabGet 0 j y.opbuf) ∧
  (∀ o, Raises (.ldts o) (fun x s => x.teamed s ∧ ((s.team (x.mine s)).tslot x.slotNo).st = .ready ∧ ∃ l ∈ x.ex, x.a l % memBytes x.f.ty ≠ 0) 6 0
      (fun x => x.ex.filter (fun l => decide (x.a l % memBytes x.f.ty ≠ 0)))) ∧
  (∀ o, Raises (.stts o) (fun x s => x.teamed s ∧ ((s.team (x.mine s)).tslot x.slotNo).st = .ready ∧ ∃ l ∈ x.ex, x.a l % memBytes x.f.ty ≠ 0) 6 0
      (fun x => x.ex.filter (fun l => decide (x.a l % memBytes x.f.ty ≠ 0)))) ∧
  (∀ o k, Raises (.ldts o) (fun x s => x.teamed s ∧ ((s.team (x.mine s)).tslot x.slotNo).st = .ready ∧ ((s.team (x.mine s)).tslot x.slotNo).len = k ∧ (∀ l ∈ x.ex, x.a l % memBytes x.f.ty = 0) ∧
      ∃ l ∈ x.ex, k < x.a l + memBytes x.f.ty) 8 8 (fun x => x.ex.filter (fun l => decide (k < x.a l + memBytes x.f.ty)))) ∧
  (∀ o k, Raises (.stts o) (fun x s => x.teamed s ∧ ((s.team (x.mine s)).tslot x.slotNo).st = .ready ∧ ((s.team (x.mine s)).tslot x.slotNo).len = k ∧ (∀ l ∈ x.ex, x.a l % memBytes x.f.ty = 0) ∧
      ∃ l ∈ x.ex, k < x.a l + memBytes x.f.ty) 8 8 (fun x => x.ex.filter (fun l => decide (k < x.a l + memBytes x.f.ty)))) ∧
  (∀ o, Waits (.ldts o) (fun x s => x.teamed s ∧ ((s.team (x.mine s)).tslot x.slotNo).st ≠ .ready)) ∧
  (∀ o, Waits (.stts o) (fun x s => x.teamed s ∧ ((s.team (x.mine s)).tslot x.slotNo).st ≠ .ready)) ∧
  (∀ o, Acts (.tsfree o) (fun x s => x.teamed s ∧ ((s.team (x.mine s)).tslot x.slotNo).st = .ready) still (fun x s =>
      s.modTeam (x.mine s) (fun y => { y with tslots := tabSet x.slotNo { y.tslot x.slotNo with st := .empty } y.tslots }))) ∧
  (∀ o, Acts (.tsfree o) (fun x s => x.teamed s ∧ ((s.team (x.mine s)).tslot x.slotNo).st = .empty) still (fun _ s => s)) ∧
  (∀ o, Waits (.tsfree o) (fun x s => x.teamed s ∧ (((s.team (x.mine s)).tslot x.slotNo).st = .filling ∨ ((s.team (x.mine s)).tslot x.slotNo).st = .draining))) ∧
  (∀ o, Acts (.tsstat o) (fun x s => (s.weave x.g.core x.g.slot).team.isSome = true) (gives fun x s =>
      (match ((s.team (x.mine s)).tslot x.slotNo).st with | .empty => 0 | .filling => 1 | .ready => 2 | .draining => 3) + ((s.team (x.mine s)).tslot x.slotNo).len / 256 % 2 ^ 16 * 2 ^ 16)
    (fun x s => x.giveAll s (((s.team (x.mine s)).tslot x.slotNo).word)))

/-- Ready in a team with alike operands: thopen on a closed index, with a descriptor that its checks reach and that is well formed, opens it with that descriptor, no tenure and its generation, and writes the handle value; an open index raises the protection trap 0x14. thsplit cuts the outermost dimension: the lower handle keeps its indices below i, the other those from i on. threl and thclose give up tenure, thdown lowers it to read, thwb leaves it, each once the accesses before it are performed; thclose also unbinds the slots and advances the generation. thdesc stores the eight words that thopen reads. They wait in their turn while an instruction that reached the same index before them has still to complete (Iss.outrun), a thacq of another weave there with pages to be granted among these. A handle value that fails its check raises the protection trap with its detail. Completion, exec answering a next state under conditions on the state and the operands alone, is stated of thopen, thdesc, thsplit, threl, thdown, thwb, thclose. -/
def Obligations.TileHandlesOpenSplitClose : Prop :=
  (∀ o s x u loc leaf d, Ready (.thopen o) s x → x.teamed (x.moved s) → x.alike (fun x l => [x.a l]) →
    (((x.moved s).team (x.mine (x.moved s))).handle (x.f.b.toNat % 16)).opened = false →
    x.outrun (x.moved s) (x.mine (x.moved s)) (x.f.b.toNat % 16) = false →
    (x.moved s).atomPending x.g.core x.g.slot x.ex = false →
    x.checkOnce (x.moved s) { rd := true, align := 64, size := 64 } (x.ea false 64 x.low) = (u, .ok loc leaf) →
    let v := u.prepLoad x.g.core x.g.slot { l := x.low, ea := x.ea false 64 x.low, loc := loc, leaf := leaf } 64 true
    v.anyPoison (loc.span 64) = false →
    tileOfWords ((List.range 8).map (fun i => v.seen x.g.core x.g.slot x.low (loc.add (8 * i)) 8)) = some d →
    exec (.thopen o) s = .next (x.settled (x.giveAll (v.modHandle (x.mine (x.moved s)) (x.f.b.toNat % 16)
        (fun h => { opened := true, gen := h.gen, desc := d }))
      ((((x.moved s).team (x.mine (x.moved s))).handle (x.f.b.toNat % 16)).gen * 16 + x.f.b.toNat % 16)))) ∧
  (∀ o, Raises (.thopen o) (fun x s => x.teamed s ∧ x.alike (fun x l => [x.a l]) ∧
      ((s.team (x.mine s)).handle (x.f.b.toNat % 16)).opened = true ∧
      x.outrun s (x.mine s) (x.f.b.toNat % 16) = false) 8 0x14 (fun x => x.ex)) ∧
  (∀ o, WaitsInTurn (.thopen o) (fun x s => x.teamed s ∧ x.alike (fun x l => [x.a l]) ∧
      x.outrun s (x.mine s) (x.f.b.toNat % 16) = true) (fun x => some (x.f.b.toNat % 16))) ∧
  (∀ o s x u loc leaf v ls, Ready (.thdesc o) s x → x.teamed (x.moved s) → x.alike (fun x l => [x.d l, x.a l]) →
    ((x.moved s).team (x.mine (x.moved s))).handleBad (x.d x.low) = none →
    x.outrun (x.moved s) (x.mine (x.moved s)) (x.d x.low % 16) = false →
    (x.moved s).atomPending x.g.core x.g.slot x.ex = false →
    x.checkOnce (x.moved s) { wr := true, align := 64, size := 64 } (x.ea false 64 x.low) = (u, .ok loc leaf) →
    let words := tileWords (((x.moved s).team (x.mine (x.moved s))).handle (x.d x.low % 16)).desc
    x.store u false 64 [{ lane := { l := x.low, ea := x.ea false 64 x.low, loc := loc, leaf := leaf }, bytes := ((words.map (leBytes 8)).flatten.zipIdx).map (fun b => { loc := loc.add b.2, val := b.1, lane := x.low }) }] = some (v, ls) →
    exec (.thdesc o) s = .next (x.settled v)) ∧
  (∀ ws d, ws.length = 8 → (∀ w ∈ ws, w < 2 ^ 64) → tileOfWords ws = some d → tileWords d = ws) ∧
  (∀ o, Does (.thsplit o) (fun x s => x.teamed s ∧ x.alike (fun x l => [x.a l, x.b l]) ∧
      (s.team (x.mine s)).handleBad (x.a x.low) = none ∧ x.outrun s (x.mine s) (x.a x.low % 16) = false ∧ 0 < x.b x.low ∧
      x.b x.low < ((s.team (x.mine s)).handle (x.a x.low % 16)).desc.ext.getD (((s.team (x.mine s)).handle (x.a x.low % 16)).desc.ext.length - 1) 0 ∧ x.outrun s (x.mine s) (x.f.c.toNat % 16) = false ∧
      ((s.team (x.mine s)).handle (x.f.c.toNat % 16)).opened = false ∧ ∀ k ∈ (x.splitIn s).2, (x.splitIn s).1.trimWaits k = false)
    (fun x s => x.giveAll ((x.splitIn s).2.foldl State.trimSlice (x.splitIn s).1) (((s.team (x.mine s)).handle (x.f.c.toNat % 16)).gen * 16 + x.f.c.toNat % 16))) ∧
  (∀ o, Acts (.thsplit o) (fun x s => x.teamed s ∧ x.alike (fun x l => [x.a l, x.b l]) ∧
      (s.team (x.mine s)).handleBad (x.a x.low) = none ∧ x.outrun s (x.mine s) (x.a x.low % 16) = false ∧ 0 < x.b x.low ∧
      x.b x.low < ((s.team (x.mine s)).handle (x.a x.low % 16)).desc.ext.getD (((s.team (x.mine s)).handle (x.a x.low % 16)).desc.ext.length - 1) 0 ∧ x.outrun s (x.mine s) (x.f.c.toNat % 16) = false ∧
      ((s.team (x.mine s)).handle (x.f.c.toNat % 16)).opened = false ∧ ∀ k ∈ (x.splitIn s).2, ((x.splitIn s).1.dirs.filter (fun d => d.slice = k)).length ≤ 64)
    (gives fun x s => ((s.team (x.mine s)).handle (x.f.c.toNat % 16)).gen * 16 + x.f.c.toNat % 16)
    (fun x s => x.giveAll (x.splitIn s).1 (((s.team (x.mine s)).handle (x.f.c.toNat % 16)).gen * 16 + x.f.c.toNat % 16))) ∧
  (∀ (h m : Handle) i (idx : List Nat), 0 < h.desc.ext.length → idx.length = h.desc.ext.length →
    (∀ p ∈ h.pieces, p.length = h.desc.ext.length) →
    let k := h.desc.ext.length - 1
    let holds := fun (ps : List Piece) (j : List Nat) => ∃ p ∈ ps, ∀ n, n < p.length → (p.getD n (0, 0)).1 ≤ j.getD n 0 ∧ j.getD n 0 < (p.getD n (0, 0)).2
    (holds (splitHandle h m i).1.pieces idx ↔ holds h.pieces idx ∧ idx.getD k 0 < i) ∧
    (holds (splitHandle h m i).2.pieces idx ↔ holds h.pieces (idx.set k (idx.getD k 0 + i)))) ∧
  (∀ o, Acts (.threl o) (fun x s => x.teamed s ∧ x.alike (fun x l => [x.a l]) ∧ (s.team (x.mine s)).handleBad (x.a x.low) = none ∧
      x.outrun s (x.mine s) (x.a x.low % 16) = false ∧ s.drained x.g.core x.g.slot = true ∧ s.atomPending x.g.core x.g.slot x.ex = false ∧
      (((s.team (x.mine s)).handle (x.a x.low % 16)).mode ≠ 0 → s.boundBusy x.g.core (x.mine s) (x.a x.low % 16) = false)) still
    (fun x s => s.dropTenure (x.mine s) (x.a x.low % 16))) ∧
  (∀ o, Acts (.thdown o) (fun x s => x.teamed s ∧ x.alike (fun x l => [x.a l]) ∧ (s.team (x.mine s)).handleBad (x.a x.low) = none ∧
      x.outrun s (x.mine s) (x.a x.low % 16) = false ∧ s.drained x.g.core x.g.slot = true ∧ s.atomPending x.g.core x.g.slot x.ex = false ∧
      (((s.team (x.mine s)).handle (x.a x.low % 16)).mode ≠ 0 → s.boundBusy x.g.core (x.mine s) (x.a x.low % 16) = false)) still
    (fun x s => s.modHandle (x.mine s) (x.a x.low % 16) (fun h => { h with mode := min h.mode 1 }))) ∧
  (∀ o, Acts (.thwb o) (fun x s => x.teamed s ∧ x.alike (fun x l => [x.a l]) ∧ (s.team (x.mine s)).handleBad (x.a x.low) = none ∧
      x.outrun s (x.mine s) (x.a x.low % 16) = false ∧ s.drained x.g.core x.g.slot = true ∧ s.atomPending x.g.core x.g.slot x.ex = false ∧
      (((s.team (x.mine s)).handle (x.a x.low % 16)).mode ≠ 0 → s.boundBusy x.g.core (x.mine s) (x.a x.low % 16) = false)) still
    (fun _ s => s)) ∧
  (∀ o, Acts (.thclose o) (fun x s => x.teamed s ∧ x.alike (fun x l => [x.a l]) ∧ (s.team (x.mine s)).handleBad (x.a x.low) = none ∧
      x.outrun s (x.mine s) (x.a x.low % 16) = false ∧ s.drained x.g.core x.g.slot = true ∧ s.atomPending x.g.core x.g.slot x.ex = false ∧
      (((s.team (x.mine s)).handle (x.a x.low % 16)).mode ≠ 0 → s.boundBusy x.g.core (x.mine s) (x.a x.low % 16) = false) ∧
      ∀ k ∈ (s.team (x.mine s)).boundSlots (x.a x.low % 16), ((s.team (x.mine s)).tslot k).moving = false) still
    (fun x s => s.closeHandle (x.mine s) (x.a x.low % 16))) ∧
  (∀ o, WaitsInTurn (.threl o) (fun x s => x.teamed s ∧ x.alike (fun x l => [x.a l]) ∧ (s.team (x.mine s)).handleBad (x.a x.low) = none ∧
      x.outrun s (x.mine s) (x.a x.low % 16) = false ∧ (s.drained x.g.core x.g.slot = false ∨ s.atomPending x.g.core x.g.slot x.ex = true ∨
      ((s.team (x.mine s)).handle (x.a x.low % 16)).mode ≠ 0 ∧ s.boundBusy x.g.core (x.mine s) (x.a x.low % 16) = true)) (fun x => some (x.a x.low % 16))) ∧
  (∀ o, WaitsInTurn (.thdown o) (fun x s => x.teamed s ∧ x.alike (fun x l => [x.a l]) ∧ (s.team (x.mine s)).handleBad (x.a x.low) = none ∧
      x.outrun s (x.mine s) (x.a x.low % 16) = false ∧ (s.drained x.g.core x.g.slot = false ∨ s.atomPending x.g.core x.g.slot x.ex = true ∨
      ((s.team (x.mine s)).handle (x.a x.low % 16)).mode ≠ 0 ∧ s.boundBusy x.g.core (x.mine s) (x.a x.low % 16) = true)) (fun x => some (x.a x.low % 16))) ∧
  (∀ o, WaitsInTurn (.thwb o) (fun x s => x.teamed s ∧ x.alike (fun x l => [x.a l]) ∧ (s.team (x.mine s)).handleBad (x.a x.low) = none ∧
      x.outrun s (x.mine s) (x.a x.low % 16) = false ∧ (s.drained x.g.core x.g.slot = false ∨ s.atomPending x.g.core x.g.slot x.ex = true ∨
      ((s.team (x.mine s)).handle (x.a x.low % 16)).mode ≠ 0 ∧ s.boundBusy x.g.core (x.mine s) (x.a x.low % 16) = true)) (fun x => some (x.a x.low % 16))) ∧
  (∀ o, WaitsInTurn (.thclose o) (fun x s => x.teamed s ∧ x.alike (fun x l => [x.a l]) ∧ (s.team (x.mine s)).handleBad (x.a x.low) = none ∧
      x.outrun s (x.mine s) (x.a x.low % 16) = false ∧ (s.drained x.g.core x.g.slot = false ∨ s.atomPending x.g.core x.g.slot x.ex = true ∨
      ((s.team (x.mine s)).handle (x.a x.low % 16)).mode ≠ 0 ∧ s.boundBusy x.g.core (x.mine s) (x.a x.low % 16) = true)) (fun x => some (x.a x.low % 16))) ∧
  (∀ o, WaitsInTurn (.threl o) (fun x s => x.teamed s ∧ x.alike (fun x l => [x.a l]) ∧ x.outrun s (x.mine s) (x.a x.low % 16) = true) (fun x => some (x.a x.low % 16))) ∧
  (∀ o, WaitsInTurn (.thdown o) (fun x s => x.teamed s ∧ x.alike (fun x l => [x.a l]) ∧ x.outrun s (x.mine s) (x.a x.low % 16) = true) (fun x => some (x.a x.low % 16))) ∧
  (∀ o, WaitsInTurn (.thwb o) (fun x s => x.teamed s ∧ x.alike (fun x l => [x.a l]) ∧ x.outrun s (x.mine s) (x.a x.low % 16) = true) (fun x => some (x.a x.low % 16))) ∧
  (∀ o, WaitsInTurn (.thclose o) (fun x s => x.teamed s ∧ x.alike (fun x l => [x.a l]) ∧ x.outrun s (x.mine s) (x.a x.low % 16) = true) (fun x => some (x.a x.low % 16))) ∧
  (∀ (s : State) y n, (s.findTeam y).isSome = true →
    (∀ k, ((s.dropTenure y n).team y).handle k = if k = n ∧ ((s.team y).handle n).mode ≠ 0 then
      { (s.team y).handle n with mode := 0, pieces := [], lost := false } else (s.team y).handle k) ∧
    (∀ k, ((s.closeHandle y n).team y).handle k = if k = n then { gen := (((s.team y).handle n).gen + 1) % 256 }
      else (s.team y).handle k) ∧
    (∀ k, ((s.closeHandle y n).team y).tslot k = if (((s.team y).tslot k).bound.map (·.1)) = some n then
      { (s.team y).tslot k with bound := none } else (s.team y).tslot k) ∧
    (s.closeHandle y n).dirs = s.dirs.filter (fun d => !(d.team = y && d.handle = n))) ∧
  (∀ (y : Team) v, y.handleBad v = if 2 ^ 12 ≤ v then some 0x11 else if (y.handle (v % 16)).opened = false then some 0x12
    else if (y.handle (v % 16)).gen ≠ v / 16 % 256 then some 0x13 else none) ∧
  (∀ o d, Raises (.threl o) (fun x s => x.teamed s ∧ x.alike (fun x l => [x.a l]) ∧ (s.team (x.mine s)).handleBad (x.a x.low) = some d ∧
      x.outrun s (x.mine s) (x.a x.low % 16) = false) 8 d (fun x => x.ex)) ∧
  (∀ o d, Raises (.thdown o) (fun x s => x.teamed s ∧ x.alike (fun x l => [x.a l]) ∧ (s.team (x.mine s)).handleBad (x.a x.low) = some d ∧
      x.outrun s (x.mine s) (x.a x.low % 16) = false) 8 d (fun x => x.ex)) ∧
  (∀ o d, Raises (.thwb o) (fun x s => x.teamed s ∧ x.alike (fun x l => [x.a l]) ∧ (s.team (x.mine s)).handleBad (x.a x.low) = some d ∧
      x.outrun s (x.mine s) (x.a x.low % 16) = false) 8 d (fun x => x.ex)) ∧
  (∀ o d, Raises (.thclose o) (fun x s => x.teamed s ∧ x.alike (fun x l => [x.a l]) ∧ (s.team (x.mine s)).handleBad (x.a x.low) = some d ∧
      x.outrun s (x.mine s) (x.a x.low % 16) = false) 8 d (fun x => x.ex)) ∧
  (∀ o d, Raises (.thsplit o) (fun x s => x.teamed s ∧ x.alike (fun x l => [x.a l, x.b l]) ∧ (s.team (x.mine s)).handleBad (x.a x.low) = some d ∧
      x.outrun s (x.mine s) (x.a x.low % 16) = false) 8 d (fun x => x.ex)) ∧
  (∀ o d, Raises (.thdesc o) (fun x s => x.teamed s ∧ x.alike (fun x l => [x.d l, x.a l]) ∧ (s.team (x.mine s)).handleBad (x.d x.low) = some d ∧
      x.outrun s (x.mine s) (x.d x.low % 16) = false) 8 d (fun x => x.ex))

/-- Ready in a team with alike operands: thacq, its pages translated, posts one request and waits; the directory grants a page at a time, in the order of the requests at it, records the handle and, with the first page, gives the handle the mode and the whole tile; thacq then completes. thbind binds a free slot to the handle and its generation, keeps a binding to the same handle and raises the protection trap 0x17 on another; thunbind takes a binding away. thstat writes the state word, thext an extent of the descriptor, thprobe the strongest mode in which the gang holds the address, with 4 where this team holds it; thacq, thbind, thext and thstat wait in their turn while an instruction that reached the same index before them has still to complete (Iss.outrun). TILE_DIRECTORY_REQUEST answers a next state under conditions on the state alone. Completion, exec answering a next state under conditions on the state and the operands alone, is stated of thacq, tileDirectoryRequest, thbind, thunbind, thstat, thext, thprobe. That the handle has its mode and the whole tile with the first page granted is the model's reading (log entry 33); what thprobe gives of several holders is its choice (70), and so is the page whose refusal is reported (69). -/
def Obligations.TenureBindingAndProbes : Prop :=
  (∀ o s x r, Ready (.thacq o) s x → x.teamed (x.moved s) → x.alike (fun x l => [x.a l]) →
    (x.moved s).dirReqs.find? (x.myReq (x.mine (x.moved s)) (x.a x.low % 16)) = some r → r.pages = [] →
    ∃ t, exec (.thacq o) s = .next t ∧ Stands s x (fun _ => {}) t ∧ t.dirReqs = s.dirReqs.filter (fun q => q != r) ∧ t.dirs = s.dirs) ∧
  (∀ o s x u ps, Ready (.thacq o) s x → x.teamed (x.moved s) → x.alike (fun x l => [x.a l]) →
    let y := x.mine (x.moved s)
    let n := x.a x.low % 16
    let wr := x.f.c.getLsbD 0 || ((x.moved s).team y |>.handle n).mode == 2
    ((x.moved s).team y).handleBad (x.a x.low) = none → (∀ r ∈ s.dirReqs, ¬ (r.team = y ∧ r.handle = n)) →
    x.outrun (x.moved s) y n = false →
    x.tilePages (x.moved s) (x.f.c.getLsbD 0) (((x.moved s).team y).handle n).desc = .ok (u, ps) →
    exec (.thacq o) s = .next (x.unrun (State.hold (x.note { u with dirReqs := u.dirReqs ++
      [{ core := x.g.core, slot := x.g.slot, pc := x.g.pc, team := y, handle := n, write := wr, pages := ps }] } x.ex
        (fun _ => none) (some n)) x.g x.g.lanes) x.g.lanes)) ∧
  (∀ o, WaitsInTurn (.thacq o) (fun x s => x.teamed s ∧ x.alike (fun x l => [x.a l]) ∧
      ∃ r, s.dirReqs.find? (x.myReq (x.mine s) (x.a x.low % 16)) = some r ∧ r.pages ≠ []) (fun x => some (x.a x.low % 16))) ∧
  (∀ idx s r p ps, s.dirReqs[idx]? = some r → r.pages = p :: ps → (s.findTeam r.team).isSome = true →
    (∀ q ∈ s.dirReqs.take idx, ∀ o ∈ q.pages, ¬ (o.pa < p.pa + 2 ^ p.bits ∧ p.pa < o.pa + 2 ^ o.bits)) →
    (∀ d ∈ s.dirs, d.team ≠ r.team → ¬ (d.page.pa < p.pa + 2 ^ p.bits ∧ p.pa < d.page.pa + 2 ^ d.page.bits)) →
    (s.dirs.filter (fun d => d.slice = dirSlice p.pa)).length < 63 →
    ∃ t, exec (.tileDirectoryRequest idx) s = .next t ∧ (∀ pa, t.memByte pa = s.memByte pa) ∧
      t.dirReqs = s.dirReqs.set idx { r with pages := ps, begun := true } ∧
      { slice := dirSlice p.pa, team := r.team, handle := r.handle, page := p } ∈ t.dirs ∧
      (t.team r.team).handle r.handle = (if r.begun then (s.team r.team).handle r.handle
        else { (s.team r.team).handle r.handle with mode := (if r.write then 2 else 1), pieces := [tileWhole ((s.team r.team).handle r.handle).desc], lost := false }) ∧
      ∀ k, k ≠ r.handle → (t.team r.team).handle k = (s.team r.team).handle k) ∧
  (∀ o, Acts (.thbind o) (fun x s => x.teamed s ∧ x.alike (fun x l => [x.a l]) ∧ (s.team (x.mine s)).handleBad (x.a x.low) = none ∧
      x.outrun s (x.mine s) (x.a x.low % 16) = false ∧ ((s.team (x.mine s)).tslot (x.f.b.toNat % 64)).bound = none) still (fun x s =>
      s.modSlot (x.mine s) (x.f.b.toNat % 64) (fun q => { q with bound := some (x.a x.low % 16, x.a x.low / 16 % 256) }))) ∧
  (∀ o g, Acts (.thbind o) (fun x s => x.teamed s ∧ x.alike (fun x l => [x.a l]) ∧ (s.team (x.mine s)).handleBad (x.a x.low) = none ∧
      x.outrun s (x.mine s) (x.a x.low % 16) = false ∧ ((s.team (x.mine s)).tslot (x.f.b.toNat % 64)).bound = some (x.a x.low % 16, g)) still
      (fun _ s => s)) ∧
  (∀ o m g, Raises (.thbind o) (fun x s => x.teamed s ∧ x.alike (fun x l => [x.a l]) ∧ (s.team (x.mine s)).handleBad (x.a x.low) = none ∧
      x.outrun s (x.mine s) (x.a x.low % 16) = false ∧ ((s.team (x.mine s)).tslot (x.f.b.toNat % 64)).bound = some (m, g) ∧
      m ≠ x.a x.low % 16) 8 0x17 (fun x => x.ex)) ∧
  (∀ o, Acts (.thunbind o) (fun x s => x.teamed s ∧ ((s.team (x.mine s)).tslot (x.f.b.toNat % 64)).bound.isSome = true ∧
      ((s.team (x.mine s)).tslot (x.f.b.toNat % 64)).moving = false) still (fun x s =>
      s.modSlot (x.mine s) (x.f.b.toNat % 64) (fun q => { q with bound := none }))) ∧
  (∀ o, Acts (.thunbind o) (fun x s => x.teamed s ∧ ((s.team (x.mine s)).tslot (x.f.b.toNat % 64)).bound = none) still (fun _ s => s)) ∧
  (∀ o, Waits (.thunbind o) (fun x s => x.teamed s ∧ ((s.team (x.mine s)).tslot (x.f.b.toNat % 64)).bound.isSome = true ∧
      ((s.team (x.mine s)).tslot (x.f.b.toNat % 64)).moving = true)) ∧
  (∀ o, Acts (.thstat o) (fun x s => x.teamed s ∧ x.alike (fun x l => [x.a l]) ∧ x.a x.low < 2 ^ 12 ∧
      x.outrun s (x.mine s) (x.a x.low % 16) = false) (gives fun x s =>
      ((s.team (x.mine s)).handle (x.a x.low % 16)).gen * 2 ^ 24 + ((s.team (x.mine s)).handle (x.a x.low % 16)).pieces.length * 2 ^ 11 + ((s.team (x.mine s)).handle (x.a x.low % 16)).mode * 2 ^ 9 + (if ((s.team (x.mine s)).handle (x.a x.low % 16)).lost then 2 ^ 8 else 0) +
        (if (s.team (x.mine s)).boundSlots (x.a x.low % 16) = [] then 0 else 2 ^ 7) + (if ((s.team (x.mine s)).handle (x.a x.low % 16)).opened then 1 else 0))
    (fun x s => x.giveAll s ((s.team (x.mine s)).handleWord (x.a x.low % 16)))) ∧
  (∀ o, Acts (.thext o) (fun x s => x.teamed s ∧ x.alike (fun x l => [x.a l]) ∧ (s.team (x.mine s)).handleBad (x.a x.low) = none ∧
      x.outrun s (x.mine s) (x.a x.low % 16) = false) (gives fun x s => ((s.team (x.mine s)).handle (x.a x.low % 16)).desc.ext.getD (x.f.c.toNat % 8) 0)
    (fun x s => (x.giveAll s (((s.team (x.mine s)).handle (x.a x.low % 16)).desc.ext.getD (x.f.c.toNat % 8) 0)).modThreads x.g.core x.g.slot x.ex (fun _ u =>
      u.glance (.ext (x.a x.low) (x.f.c.toNat % 8) (((s.team (x.mine s)).handle (x.a x.low % 16)).desc.ext.getD (x.f.c.toNat % 8) 0))))) ∧
  (∀ o s x u loc leaf, Ready (.thprobe o) s x → x.teamed (x.moved s) → x.alike (fun x l => [x.a l]) →
    (x.moved s).check x.agent { rd := true, reach := false } (x.a x.low) = (u, .ok loc leaf) →
    let hs := ((u.homeOf loc).map (u.holders (u.team (x.mine (x.moved s))).gang)).getD []
    exec (.thprobe o) s = .next (x.settled (x.giveAll u ((hs.map (·.2)).foldl max 0 +
      (if ∃ h ∈ hs, h.1 = x.mine (x.moved s) then 4 else 0))))) ∧
  (∀ o, WaitsInTurn (.thacq o) (fun x s => x.teamed s ∧ x.alike (fun x l => [x.a l]) ∧ x.outrun s (x.mine s) (x.a x.low % 16) = true ∧ s.dirReqs.find? (x.myReq (x.mine s) (x.a x.low % 16)) = none) (fun x => some (x.a x.low % 16))) ∧
  (∀ o, WaitsInTurn (.thbind o) (fun x s => x.teamed s ∧ x.alike (fun x l => [x.a l]) ∧ x.outrun s (x.mine s) (x.a x.low % 16) = true) (fun x => some (x.a x.low % 16))) ∧
  (∀ o, WaitsInTurn (.thext o) (fun x s => x.teamed s ∧ x.alike (fun x l => [x.a l]) ∧ x.outrun s (x.mine s) (x.a x.low % 16) = true) (fun x => some (x.a x.low % 16))) ∧
  (∀ o, WaitsInTurn (.thstat o) (fun x s => x.teamed s ∧ x.alike (fun x l => [x.a l]) ∧ x.outrun s (x.mine s) (x.a x.low % 16) = true) (fun x => some (x.a x.low % 16))) ∧
  (∀ o, Raises (.thstat o) (fun x s => x.teamed s ∧ x.alike (fun x l => [x.a l]) ∧ 2 ^ 12 ≤ x.a x.low ∧
      x.outrun s (x.mine s) (x.a x.low % 16) = false) 8 0x11 (fun x => x.ex)) ∧
  (∀ (s : State) gang pa y m, (y, m) ∈ s.holders gang pa ↔ ∃ d ∈ s.dirs, d.team = y ∧ d.page.pa ≤ pa ∧ pa < d.page.pa + 2 ^ d.page.bits ∧
      (s.team y).gang = gang ∧ ((s.team y).handle d.handle).mode = m ∧
      ∃ p ∈ ((s.team y).handle d.handle).pieces, pieceTouch ((s.team y).handle d.handle).desc p
        (d.page.va + (pa - d.page.pa)) (d.page.va + (pa - d.page.pa)) = true)

/-- mlds, mldl, mswap, mmul, mmulz, acst, acld, acscl.row, acscl.col, acnrm, acred.max, acred.sum and acbias COMPLETE (exec answers a next state) for every state and operands that meet conditions on them alone: ready in a team, the convergence register armed (R307), room in the queue (R307), ACC and SHAPE alike and acceptable (R312, R313), for mldl the checks of its pages passed. mlds and mswap post their command; mmul, mmulz, acst, acld, the scales, the bias, the reductions and acnrm post theirs with the rows, stride and first word of ACC and SHAPE where these are alike and acceptable; mldl does where its address is a multiple of 256 and its pages pass their checks; nothing else changes. A register that is not armed raises the barrier conflict 4; a full queue makes them wait; an unacceptable ACC or SHAPE raises the protection trap 0x1B. Completion, exec answering a next state under conditions on the state and the operands alone, is stated of mlds, mswap, mmul, mmulz, acst, acld, acsclRow, acsclCol, acredMax, acredSum, acbias, acnrm, mldl. -/
def Obligations.MatrixCommandsArePosted : Prop :=
  (∀ o, Completes (.mlds o) (fun x s => x.teamed s ∧ x.matRoom s)) ∧
  (∀ o, Completes (.mswap o) (fun x s => x.teamed s ∧ x.matRoom s)) ∧
  (∀ o, Completes (.mmul o) (fun x s => x.teamed s ∧ x.rowsOk false ∧ x.matRoom s)) ∧
  (∀ o, Completes (.mmulz o) (fun x s => x.teamed s ∧ x.rowsOk false ∧ x.matRoom s)) ∧
  (∀ o, Completes (.acst o) (fun x s => x.teamed s ∧ x.rowsOk false ∧ x.matRoom s)) ∧
  (∀ o, Completes (.acld o) (fun x s => x.teamed s ∧ x.rowsOk false ∧ x.matRoom s)) ∧
  (∀ o, Completes (.acsclRow o) (fun x s => x.teamed s ∧ x.rowsOk false ∧ x.matRoom s)) ∧
  (∀ o, Completes (.acsclCol o) (fun x s => x.teamed s ∧ x.rowsOk false ∧ x.matRoom s)) ∧
  (∀ o, Completes (.acredMax o) (fun x s => x.teamed s ∧ x.rowsOk false ∧ x.matRoom s)) ∧
  (∀ o, Completes (.acredSum o) (fun x s => x.teamed s ∧ x.rowsOk false ∧ x.matRoom s)) ∧
  (∀ o, Completes (.acbias o) (fun x s => x.teamed s ∧ x.rowsOk false ∧ x.matRoom s)) ∧
  (∀ o, Completes (.acnrm o) (fun x s => x.teamed s ∧ x.rowsOk true ∧ x.matRoom s)) ∧
  (∀ o, Completes (.mldl o) (fun x s => x.teamed s ∧ x.alike (fun x l => [x.a l]) ∧ x.a x.low % 256 = 0 ∧ ∃ u,
      s.checkRange x.agent { rd := true, noWindow := true, reach := false } (x.a x.low) x.matCmd.bytes = (u, none) ∧
      x.matRoom u ∧ (u.weave x.g.core x.g.slot).team = (s.weave x.g.core x.g.slot).team)) ∧
  (∀ o, MatPosts (.mlds o) (fun _ => True) Iss.matCmd) ∧
  (∀ o, MatPosts (.mswap o) (fun _ => True) Iss.matCmd) ∧
  (∀ o, MatPosts (.mmul o) (fun x => x.rowsOk false) (fun x => x.rowCmd false)) ∧
  (∀ o, MatPosts (.mmulz o) (fun x => x.rowsOk false) (fun x => x.rowCmd false)) ∧
  (∀ o, MatPosts (.acst o) (fun x => x.rowsOk false) (fun x => x.rowCmd false)) ∧
  (∀ o, MatPosts (.acld o) (fun x => x.rowsOk false) (fun x => x.rowCmd false)) ∧
  (∀ o, MatPosts (.acsclRow o) (fun x => x.rowsOk false) (fun x => x.rowCmd false)) ∧
  (∀ o, MatPosts (.acsclCol o) (fun x => x.rowsOk false) (fun x => x.rowCmd false)) ∧
  (∀ o, MatPosts (.acredMax o) (fun x => x.rowsOk false) (fun x => x.rowCmd false)) ∧
  (∀ o, MatPosts (.acredSum o) (fun x => x.rowsOk false) (fun x => x.rowCmd false)) ∧
  (∀ o, MatPosts (.acbias o) (fun x => x.rowsOk false) (fun x => x.rowCmd false)) ∧
  (∀ o, MatPosts (.acnrm o) (fun x => x.rowsOk true) (fun x => x.rowCmd true)) ∧
  (∀ o, Raises (.mmul o) (fun x s => x.teamed s ∧ x.alike (fun x l => [x.a l, x.b l]) ∧ shapeOk false (x.a x.low) (x.b x.low) = false) 8 0x1B (fun x => x.ex)) ∧
  (∀ o, Raises (.mmulz o) (fun x s => x.teamed s ∧ x.alike (fun x l => [x.a l, x.b l]) ∧ shapeOk false (x.a x.low) (x.b x.low) = false) 8 0x1B (fun x => x.ex)) ∧
  (∀ o, Raises (.acst o) (fun x s => x.teamed s ∧ x.alike (fun x l => [x.a l, x.b l]) ∧ shapeOk false (x.a x.low) (x.b x.low) = false) 8 0x1B (fun x => x.ex)) ∧
  (∀ o, Raises (.acld o) (fun x s => x.teamed s ∧ x.alike (fun x l => [x.a l, x.b l]) ∧ shapeOk false (x.a x.low) (x.b x.low) = false) 8 0x1B (fun x => x.ex)) ∧
  (∀ o, Raises (.acsclRow o) (fun x s => x.teamed s ∧ x.alike (fun x l => [x.a l, x.b l]) ∧ shapeOk false (x.a x.low) (x.b x.low) = false) 8 0x1B (fun x => x.ex)) ∧
  (∀ o, Raises (.acsclCol o) (fun x s => x.teamed s ∧ x.alike (fun x l => [x.a l, x.b l]) ∧ shapeOk false (x.a x.low) (x.b x.low) = false) 8 0x1B (fun x => x.ex)) ∧
  (∀ o, Raises (.acredMax o) (fun x s => x.teamed s ∧ x.alike (fun x l => [x.a l, x.b l]) ∧ shapeOk false (x.a x.low) (x.b x.low) = false) 8 0x1B (fun x => x.ex)) ∧
  (∀ o, Raises (.acredSum o) (fun x s => x.teamed s ∧ x.alike (fun x l => [x.a l, x.b l]) ∧ shapeOk false (x.a x.low) (x.b x.low) = false) 8 0x1B (fun x => x.ex)) ∧
  (∀ o, Raises (.acbias o) (fun x s => x.teamed s ∧ x.alike (fun x l => [x.a l, x.b l]) ∧ shapeOk false (x.a x.low) (x.b x.low) = false) 8 0x1B (fun x => x.ex)) ∧
  (∀ o, Raises (.acnrm o) (fun x s => x.teamed s ∧ x.alike (fun x l => [x.a l, x.b l]) ∧ shapeOk true (x.a x.low) (x.b x.low) = false) 8 0x1B (fun x => x.ex)) ∧
  (∀ acc shape, shapeOk false acc shape = true ↔ acc / 2 ^ 19 % 2 ^ 13 = 0 ∧ shape / 2 ^ 12 % 2 ^ 4 = 0 ∧ shape % 2 ^ 12 ≠ 0 ∧
      192 ≤ shape / 2 ^ 16 % 2 ^ 16 ∧ acc % 2 ^ 19 + (shape % 2 ^ 12 - 1) * (shape / 2 ^ 16 % 2 ^ 16) + 191 < 524288) ∧
  (∀ o s x u, Ready (.mldl o) s x → x.teamed (x.moved s) → x.alike (fun x l => [x.a l]) → x.a x.low % 256 = 0 →
    (x.moved s).checkRange x.agent { rd := true, noWindow := true, reach := false } (x.a x.low) x.matCmd.bytes = (u, none) →
    x.matRoom u → (u.weave x.g.core x.g.slot).team = ((x.moved s).weave x.g.core x.g.slot).team →
    ∃ t, exec (.mldl o) s = .next t ∧ MatPosted u x (x.mine (x.moved s)) { x.matCmd with addr := x.a x.low } t ∧ SameTables s t ∧
      Passed s u x Thread.plainly (fun _ t => t) t) ∧
  (∀ o, Raises (.mldl o) (fun x s => x.teamed s ∧ x.alike (fun x l => [x.a l]) ∧ x.a x.low % 256 ≠ 0) 6 0 (fun x => x.ex))

/-- Ready in a team: cvinit arms its register with a count up to 1024, or disarms it with 0, and raises the barrier conflict on a count too large, a different one, or signatures or commands outstanding once the signatures made so far have counted; with those still to count it waits; msign completes at once and leaves one signature for each executing lane, which takes effect when the accesses of its weave before it have been performed; the signature that completes the phase releases exactly the commands attached to it; mwait passes once the commands posted to the register before it have ended; mstat reads and mstclr clears the status. acrd and acwr read and write accumulator words, acclr zeroes whole regions under a tag, mplane reads the formats of the planes. Completion, exec answering a next state under conditions on the state and the operands alone, is stated of cvinit, msign, mwait, mstat, mstclr, acrd, acwr, acclr, mplane. Signatures that stand until earlier accesses are performed are the model's reading (log entry 5). -/
def Obligations.ConvergenceAndAccumulators : Prop :=
  (∀ o, Acts (.cvinit o) (fun x s => x.teamed s ∧ x.alike (fun x l => [x.a l]) ∧ x.a x.low ≤ 1024 ∧
      (x.a x.low = 0 → ((s.team (x.mine s)).conv x.cv).sgn = 0 ∧ (s.team (x.mine s)).pendCmds x.cv = 0 ∧ s.signsOf x.g.core (x.mine s) x.cv = 0) ∧
      (x.a x.low ≠ 0 → ((s.team (x.mine s)).conv x.cv).armed = true → ((s.team (x.mine s)).conv x.cv).exp = x.a x.low)) still
    (fun x s => s.modConv (x.mine s) x.cv (fun v => { v with armed := x.a x.low != 0, exp := x.a x.low }))) ∧
  (∀ o, Raises (.cvinit o) (fun x s => x.teamed s ∧ x.alike (fun x l => [x.a l]) ∧ 1024 < x.a x.low) 5 8 (fun x => x.ex)) ∧
  (∀ o, Raises (.cvinit o) (fun x s => x.teamed s ∧ x.alike (fun x l => [x.a l]) ∧ x.a x.low = 0 ∧
      (((s.convSoon x.g.core (x.mine s) x.cv).conv x.cv).sgn ≠ 0 ∨ ((s.convSoon x.g.core (x.mine s) x.cv)).pendCmds x.cv ≠ 0)) 5 7 (fun x => x.ex)) ∧
  (∀ o, Waits (.cvinit o) (fun x s => x.teamed s ∧ x.alike (fun x l => [x.a l]) ∧ x.a x.low = 0 ∧ s.signsOf x.g.core (x.mine s) x.cv ≠ 0 ∧
      ((s.convSoon x.g.core (x.mine s) x.cv).conv x.cv).sgn = 0 ∧ ((s.convSoon x.g.core (x.mine s) x.cv)).pendCmds x.cv = 0)) ∧
  (∀ (s : State) c y k, s.signsOf c y k = (((s.core c).signs.filter (fun g => g.team = y ∧ g.cv = k)).map (·.lanes)).sum ∧
      s.convSoon c y k = (List.range (s.signsOf c y k)).foldl (fun t _ => if (t.conv k).armed = true then t.sign k else t) (s.team y)) ∧
  (∀ o, Raises (.cvinit o) (fun x s => x.teamed s ∧ x.alike (fun x l => [x.a l]) ∧ x.a x.low ≤ 1024 ∧ x.a x.low ≠ 0 ∧
      ((s.team (x.mine s)).conv x.cv).armed = true ∧ ((s.team (x.mine s)).conv x.cv).exp ≠ x.a x.low) 5 3 (fun x => x.ex)) ∧
  (∀ o, Acts (.msign o) (fun x s => x.teamed s ∧ ((s.team (x.mine s)).conv x.cv).armed = true) still (fun x s =>
      (s.modCore x.g.core (fun k => { k with signs := k.signs ++
        [{ team := x.mine s, slot := x.g.slot, cv := x.cv, lanes := x.ex.length, born := s.tick }] })).settleSigns x.g.core)) ∧
  (∀ (s : State) c g, (s.core c).signs = [g] → s.settleSigns c = if (s.core c).signWaits g = true then s else
      (s.modCore c (fun k => { k with signs := [] })).modTeam g.team (fun y =>
        (List.range g.lanes).foldl (fun y _ => if (y.conv g.cv).armed = true then y.sign g.cv else y) y)) ∧
  (∀ (k : Core) g e, e ∈ (k.weave g.slot).queued ++ k.pending → e.slot = g.slot → e.team = some g.team → e.born ≤ g.born →
      k.signWaits g = true) ∧
  (∀ o, Raises (.msign o) (fun x s => x.teamed s ∧ ((s.team (x.mine s)).conv x.cv).armed = false) 5 4 (fun x => x.ex)) ∧
  (∀ (y : Team) k, (∀ j, j ≠ k → (y.sign k).conv j = y.conv j) ∧
    (if (y.conv k).sgn + 1 = (y.conv k).exp then
      (y.sign k).conv k = { y.conv k with sgn := 0, ph := ((y.conv k).ph + 1) % 256 } ∧ (y.sign k).matq = y.matq.map (fun c =>
        if c.cv = k ∧ c.ph = (y.conv k).ph then { c with released := true } else c)
    else (y.sign k).conv k = { y.conv k with sgn := (y.conv k).sgn + 1 } ∧ (y.sign k).matq = y.matq)) ∧
  (∀ o, Acts (.mwait o) (fun x s => x.teamed s ∧ ∀ l ∈ x.ex, ∀ c ∈ (s.team (x.mine s)).matq, c.cv = x.cv → x.since s l ≤ c.id) still (fun _ s => s)) ∧
  (∀ o, Acts (.mstat o) (fun x s => (s.weave x.g.core x.g.slot).team.isSome = true) (gives fun x s =>
      let y := s.team (x.mine s)
      let v := y.conv x.cv
      v.ph % 2 ^ 8 * 2 ^ 56 + v.exp % 2 ^ 11 * 2 ^ 45 + v.sgn % 2 ^ 11 * 2 ^ 34 + y.pendCmds x.cv % 32 * 2 ^ 29 +
        y.runCmds x.cv % 32 * 2 ^ 24 + v.err % 256 * 2 ^ 16 + v.done % 256 * 2 ^ 8 + (if v.nan then 2 ^ 7 else 0) +
        (if v.ovf then 2 ^ 6 else 0) + (if v.isat then 2 ^ 5 else 0) + (if v.nx then 2 ^ 4 else 0) + (if v.armed then 1 else 0))
    (fun x s => x.giveAll s ((s.team (x.mine s)).convWord x.cv))) ∧
  (∀ o, Acts (.mstclr o) (fun x s => x.teamed s) still (fun x s => s.modConv (x.mine s) x.cv (fun v =>
      { v with err := 0, nan := false, ovf := false, isat := false, nx := false, done := 0 }))) ∧
  (∀ o, Acts (.acrd o) (fun x s => (s.weave x.g.core x.g.slot).team.isSome = true ∧ ∀ l ∈ x.ex, x.a l < 524288 ∧
      (s.team (x.mine s)).accBusy (x.since s l) (x.a l) (x.a l + 1) false = false)
    (fun x s l => { reg := some (tabGet 0 (x.a l) (s.core x.g.core).acc).toNat })
    (fun x s => s.modThreads x.g.core x.g.slot x.ex (fun l t => t.dest x.f.d 32 (tabGet 0 (x.a l) (s.core x.g.core).acc).toNat))) ∧
  (∀ o, Does (.acwr o) (fun x s => (s.weave x.g.core x.g.slot).team.isSome = true ∧ ∀ l ∈ x.ex, x.a l < 524288 ∧
      (s.team (x.mine s)).accBusy (x.since s l) (x.a l) (x.a l + 1) true = false)
    (fun x s => s.modCore x.g.core (fun k => { k with
      acc := x.ex.foldl (fun m l => tabPut 0 (x.a l) (BitVec.ofNat 32 (x.b l)) m) k.acc }))) ∧
  (∀ o, Raises (.acrd o) (fun x s => (s.weave x.g.core x.g.slot).team.isSome = true ∧ ∃ l ∈ x.ex, 524288 ≤ x.a l) 8 0x1B
      (fun x => x.ex.filter (fun l => decide (524288 ≤ x.a l)))) ∧
  (∀ o, Raises (.acwr o) (fun x s => (s.weave x.g.core x.g.slot).team.isSome = true ∧ ∃ l ∈ x.ex, 524288 ≤ x.a l) 8 0x1B
      (fun x => x.ex.filter (fun l => decide (524288 ≤ x.a l)))) ∧
  (∀ o, Does (.acclr o) (fun x s => x.teamed s ∧ x.alike (fun x l => [x.a l, x.b l]) ∧ 0 < x.b x.low ∧ x.a x.low + x.b x.low ≤ 256 ∧
      ∀ l ∈ x.ex, (s.team (x.mine s)).accBusy (x.since s l) (2048 * x.a x.low) (2048 * (x.a x.low + x.b x.low)) true = false)
    (fun x s => s.modCore x.g.core (fun k => k.clearRegions (x.a x.low) (x.b x.low) (x.f.ty == 1)))) ∧
  (∀ o, Raises (.acclr o) (fun x s => x.teamed s ∧ x.alike (fun x l => [x.a l, x.b l]) ∧ (x.b x.low = 0 ∨ 256 < x.a x.low + x.b x.low)) 8 0x1B (fun x => x.ex)) ∧
  (∀ (k : Core) a n int, (∀ i, (k.clearRegions a n int).accWord i = if 2048 * a ≤ i ∧ i < 2048 * (a + n) then 0 else k.accWord i) ∧
    ∀ r, tabGet false r (k.clearRegions a n int).accInt = if a ≤ r ∧ r < a + n then int else tabGet false r k.accInt) ∧
  (∀ o, Acts (.mplane o) (fun _ _ => True) (gives fun x s =>
      let code := fun (p : Plane) => match p.fmt with | none => 0xF | some (ty, bs) => ty.toNat + (if bs then 8 else 0)
      let live := fun (m : MatArray) => if m.active then m.plane1 else m.plane0
      let shadow := fun (m : MatArray) => if m.active then m.plane0 else m.plane1
      let k := s.core x.g.core
      code (live k.array0) + code (shadow k.array0) * 2 ^ 4 + code (live k.array1) * 2 ^ 8 + code (shadow k.array1) * 2 ^ 12)
    (fun x s => x.giveAll s (s.core x.g.core).planeWord))

/-- cpy, fill, expf, exwb, cpald, cpast, cpts, cpfs, gcp and gcpts COMPLETE (exec answers a next state) for every state and operands that meet conditions on them alone: ready, operands alike (R335), ranges and length acceptable, a command entry free and the accesses before them performed (R332, R343). They post their command in the lowest free entry, and wait until then or for an entry; nothing else changes; a length of 0 posts nothing. cpts and gcpts also mark their slot as filling, with its base and length, cpfs with .rls as draining. A range outside the address rule raises the protection trap 1 (source, destination, slot side and indexes too), overlapping ones, lengths above 2^48, words beyond the accumulator store and slot ranges that do not fit 0x1C, a malformed descriptor 0x1E, an address of accumulator copies that is no multiple of 4 the alignment trap, operands that differ 0x1D in the lanes that differ; a team that is no matrix owner raises the illegal-instruction trap 0x0B at cpald and cpast. Completion, exec answering a next state under conditions on the state and the operands alone, is stated of cpy, fill, expf, exwb, cpald, cpast, cpts, cpfs, gcp, gcpts. -/
def Obligations.EngineCommandsArePosted : Prop :=
  (∀ o, Completes (.cpy o) (fun x s => x.alike (fun x l => [x.d l, x.a l, x.b l]) ∧ (0 < x.d x.low ∧ x.d x.low ≤ 2 ^ 48 ∧ rangeOk (x.a x.low) (x.d x.low) = true ∧
      rangeOk (x.b x.low) (x.d x.low) = true ∧ meet (x.a x.low) (x.d x.low) (x.b x.low) (x.d x.low) = false) ∧ x.placed s ∧ x.engRoom s)) ∧
  (∀ o, EngPosts (.cpy o) (fun x l => [x.d l, x.a l, x.b l]) (fun x _ => 0 < x.d x.low ∧ x.d x.low ≤ 2 ^ 48 ∧ rangeOk (x.a x.low) (x.d x.low) = true ∧
      rangeOk (x.b x.low) (x.d x.low) = true ∧ meet (x.a x.low) (x.d x.low) (x.b x.low) (x.d x.low) = false)
    (fun x s => { x.engCmd (s.weave x.g.core x.g.slot).team .cpy with len := x.d x.low, src := x.a x.low, dst := x.b x.low })) ∧
  (∀ o, Completes (.fill o) (fun x s => x.alike (fun x l => [x.d l, x.a l, x.b l]) ∧ (0 < x.d x.low ∧ x.d x.low ≤ 2 ^ 48 ∧ rangeOk (x.a x.low) (x.d x.low) = true) ∧ x.placed s ∧ x.engRoom s)) ∧
  (∀ o, EngPosts (.fill o) (fun x l => [x.d l, x.a l, x.b l]) (fun x _ => 0 < x.d x.low ∧ x.d x.low ≤ 2 ^ 48 ∧ rangeOk (x.a x.low) (x.d x.low) = true)
    (fun x s => { x.engCmd (s.weave x.g.core x.g.slot).team .fill with len := x.d x.low, dst := x.a x.low, pat := BitVec.ofNat 32 (x.b x.low) })) ∧
  (∀ o, Completes (.expf o) (fun x s => x.alike (fun x l => [x.d l, x.a l]) ∧ (0 < x.d x.low ∧ x.d x.low ≤ 2 ^ 48 ∧ rangeOk (x.a x.low) (x.d x.low) = true) ∧ x.placed s ∧ x.engRoom s)) ∧
  (∀ o, EngPosts (.expf o) (fun x l => [x.d l, x.a l]) (fun x _ => 0 < x.d x.low ∧ x.d x.low ≤ 2 ^ 48 ∧ rangeOk (x.a x.low) (x.d x.low) = true)
    (fun x s => { x.engCmd (s.weave x.g.core x.g.slot).team .expf with len := x.d x.low, src := x.a x.low })) ∧
  (∀ o, Completes (.exwb o) (fun x s => x.alike (fun x l => [x.d l, x.a l]) ∧ (0 < x.d x.low ∧ x.d x.low ≤ 2 ^ 48 ∧ rangeOk (x.a x.low) (x.d x.low) = true) ∧ x.placed s ∧ x.engRoom s)) ∧
  (∀ o, EngPosts (.exwb o) (fun x l => [x.d l, x.a l]) (fun x _ => 0 < x.d x.low ∧ x.d x.low ≤ 2 ^ 48 ∧ rangeOk (x.a x.low) (x.d x.low) = true)
    (fun x s => { x.engCmd (s.weave x.g.core x.g.slot).team .exwb with len := x.d x.low, src := x.a x.low })) ∧
  (∀ o, Completes (.cpald o) (fun x s => x.alike (fun x l => [x.d l, x.a l, x.b l]) ∧ (0 < x.d x.low ∧ rangeOk (x.a x.low) (4 * x.d x.low) = true ∧ x.b x.low + x.d x.low ≤ 524288 ∧
      x.a x.low % 4 = 0 ∧ (s.weave x.g.core x.g.slot).team.isSome = true ∧ (s.team (x.mine s)).kd.cv ≠ 0) ∧ x.placed s ∧ x.engRoom s)) ∧
  (∀ o, EngPosts (.cpald o) (fun x l => [x.d l, x.a l, x.b l]) (fun x s => 0 < x.d x.low ∧ rangeOk (x.a x.low) (4 * x.d x.low) = true ∧ x.b x.low + x.d x.low ≤ 524288 ∧
      x.a x.low % 4 = 0 ∧ (s.weave x.g.core x.g.slot).team.isSome = true ∧ (s.team (x.mine s)).kd.cv ≠ 0)
    (fun x s => { x.engCmd (s.weave x.g.core x.g.slot).team .cpald with len := 4 * x.d x.low, src := x.a x.low, dst := x.a x.low, acc := x.b x.low })) ∧
  (∀ o, Completes (.cpast o) (fun x s => x.alike (fun x l => [x.d l, x.a l, x.b l]) ∧ (0 < x.d x.low ∧ rangeOk (x.a x.low) (4 * x.d x.low) = true ∧ x.b x.low + x.d x.low ≤ 524288 ∧
      x.a x.low % 4 = 0 ∧ (s.weave x.g.core x.g.slot).team.isSome = true ∧ (s.team (x.mine s)).kd.cv ≠ 0) ∧ x.placed s ∧ x.engRoom s)) ∧
  (∀ o, EngPosts (.cpast o) (fun x l => [x.d l, x.a l, x.b l]) (fun x s => 0 < x.d x.low ∧ rangeOk (x.a x.low) (4 * x.d x.low) = true ∧ x.b x.low + x.d x.low ≤ 524288 ∧
      x.a x.low % 4 = 0 ∧ (s.weave x.g.core x.g.slot).team.isSome = true ∧ (s.team (x.mine s)).kd.cv ≠ 0)
    (fun x s => { x.engCmd (s.weave x.g.core x.g.slot).team .cpast with len := 4 * x.d x.low, src := x.a x.low, dst := x.a x.low, acc := x.b x.low })) ∧
  (∀ o, Acts (.cpy o) (fun x _ => x.alike (fun x l => [x.d l, x.a l, x.b l]) ∧ x.d x.low = 0) still (fun _ s => s)) ∧
  (∀ o, Acts (.fill o) (fun x _ => x.alike (fun x l => [x.d l, x.a l, x.b l]) ∧ x.d x.low = 0) still (fun _ s => s)) ∧
  (∀ o, Acts (.expf o) (fun x _ => x.alike (fun x l => [x.d l, x.a l]) ∧ x.d x.low = 0) still (fun _ s => s)) ∧
  (∀ o, Acts (.exwb o) (fun x _ => x.alike (fun x l => [x.d l, x.a l]) ∧ x.d x.low = 0) still (fun _ s => s)) ∧
  (∀ o, Acts (.cpald o) (fun x _ => x.alike (fun x l => [x.d l, x.a l, x.b l]) ∧ x.d x.low = 0) still (fun _ s => s)) ∧
  (∀ o, Acts (.cpast o) (fun x _ => x.alike (fun x l => [x.d l, x.a l, x.b l]) ∧ x.d x.low = 0) still (fun _ s => s)) ∧
  (∀ o, Raises (.fill o) (fun x _ => x.alike (fun x l => [x.d l, x.a l, x.b l]) ∧ 0 < x.d x.low ∧ rangeOk (x.a x.low) (x.d x.low) = false) 8 1 (fun x => x.ex)) ∧
  (∀ o, Raises (.expf o) (fun x _ => x.alike (fun x l => [x.d l, x.a l]) ∧ 0 < x.d x.low ∧ rangeOk (x.a x.low) (x.d x.low) = false) 8 1 (fun x => x.ex)) ∧
  (∀ o, Raises (.exwb o) (fun x _ => x.alike (fun x l => [x.d l, x.a l]) ∧ 0 < x.d x.low ∧ rangeOk (x.a x.low) (x.d x.low) = false) 8 1 (fun x => x.ex)) ∧
  (∀ o, Raises (.fill o) (fun x _ => x.alike (fun x l => [x.d l, x.a l, x.b l]) ∧ 2 ^ 48 < x.d x.low ∧ rangeOk (x.a x.low) (x.d x.low) = true) 8 0x1C (fun x => x.ex)) ∧
  (∀ o, Raises (.expf o) (fun x _ => x.alike (fun x l => [x.d l, x.a l]) ∧ 2 ^ 48 < x.d x.low ∧ rangeOk (x.a x.low) (x.d x.low) = true) 8 0x1C (fun x => x.ex)) ∧
  (∀ o, Raises (.exwb o) (fun x _ => x.alike (fun x l => [x.d l, x.a l]) ∧ 2 ^ 48 < x.d x.low ∧ rangeOk (x.a x.low) (x.d x.low) = true) 8 0x1C (fun x => x.ex)) ∧
  (∀ o, Raises (.cpy o) (fun x _ => x.alike (fun x l => [x.d l, x.a l, x.b l]) ∧ 0 < x.d x.low ∧ rangeOk (x.a x.low) (x.d x.low) = true ∧
      rangeOk (x.b x.low) (x.d x.low) = true ∧ (meet (x.a x.low) (x.d x.low) (x.b x.low) (x.d x.low) = true ∨ 2 ^ 48 < x.d x.low)) 8 0x1C (fun x => x.ex)) ∧
  (∀ o, Raises (.cpy o) (fun x _ => x.alike (fun x l => [x.d l, x.a l, x.b l]) ∧ 0 < x.d x.low ∧ (rangeOk (x.a x.low) (x.d x.low) = false ∨
      rangeOk (x.b x.low) (x.d x.low) = false)) 8 1 (fun x => x.ex)) ∧
  (∀ o, Raises (.cpald o) (fun x _ => x.alike (fun x l => [x.d l, x.a l, x.b l]) ∧ 0 < x.d x.low ∧ rangeOk (x.a x.low) (4 * x.d x.low) = false) 8 1 (fun x => x.ex)) ∧
  (∀ o, Raises (.cpast o) (fun x _ => x.alike (fun x l => [x.d l, x.a l, x.b l]) ∧ 0 < x.d x.low ∧ rangeOk (x.a x.low) (4 * x.d x.low) = false) 8 1 (fun x => x.ex)) ∧
  (∀ o, Raises (.cpald o) (fun x _ => x.alike (fun x l => [x.d l, x.a l, x.b l]) ∧ 0 < x.d x.low ∧ rangeOk (x.a x.low) (4 * x.d x.low) = true ∧ 524288 < x.b x.low + x.d x.low) 8 0x1C (fun x => x.ex)) ∧
  (∀ o, Raises (.cpast o) (fun x _ => x.alike (fun x l => [x.d l, x.a l, x.b l]) ∧ 0 < x.d x.low ∧ rangeOk (x.a x.low) (4 * x.d x.low) = true ∧ 524288 < x.b x.low + x.d x.low) 8 0x1C (fun x => x.ex)) ∧
  (∀ o, Raises (.cpald o) (fun x _ => x.alike (fun x l => [x.d l, x.a l, x.b l]) ∧ 0 < x.d x.low ∧ rangeOk (x.a x.low) (4 * x.d x.low) = true ∧ x.b x.low + x.d x.low ≤ 524288 ∧
      x.a x.low % 4 ≠ 0) 6 0 (fun x => x.ex)) ∧
  (∀ o, Raises (.cpast o) (fun x _ => x.alike (fun x l => [x.d l, x.a l, x.b l]) ∧ 0 < x.d x.low ∧ rangeOk (x.a x.low) (4 * x.d x.low) = true ∧ x.b x.low + x.d x.low ≤ 524288 ∧
      x.a x.low % 4 ≠ 0) 6 0 (fun x => x.ex)) ∧
  (∀ o, Raises (.cpts o) (fun x s => x.teamed s ∧ x.alike (fun x l => [x.d l, x.a l, x.b l]) ∧ ∃ n, x.slotSide (s.team (x.mine s)) x.low = .ok (n, none) ∧
      0 < n ∧ rangeOk (x.a x.low) n = false) 8 1 (fun x => x.ex)) ∧
  (∀ o, Raises (.cpfs o) (fun x s => x.teamed s ∧ x.alike (fun x l => [x.d l, x.a l]) ∧ ∃ n, x.slotSide (s.team (x.mine s)) x.low = .ok (n, none) ∧
      0 < n ∧ rangeOk (x.a x.low) n = false) 8 1 (fun x => x.ex)) ∧
  (∀ o d, Raises (.cpts o) (fun x s => x.teamed s ∧ x.alike (fun x l => [x.d l, x.a l, x.b l]) ∧ x.slotSide (s.team (x.mine s)) x.low = .error d) 8 d (fun x => x.ex)) ∧
  (∀ o d, Raises (.cpfs o) (fun x s => x.teamed s ∧ x.alike (fun x l => [x.d l, x.a l]) ∧ x.slotSide (s.team (x.mine s)) x.low = .error d) 8 d (fun x => x.ex)) ∧
  (∀ o, Raises (.cpts o) (fun x s => x.teamed s ∧ x.alike (fun x l => [x.d l, x.a l, x.b l]) ∧ ∃ n tile, x.slotSide (s.team (x.mine s)) x.low = .ok (n, tile) ∧
      0 < n ∧ (tile = none → rangeOk (x.a x.low) n = true) ∧ (x.b x.low % 256 ≠ 0 ∨ (s.team (x.mine s)).bufBytes < x.b x.low + n)) 8 0x1C (fun x => x.ex)) ∧
  (∀ o, Raises (.cpfs o) (fun x s => x.teamed s ∧ x.alike (fun x l => [x.d l, x.a l]) ∧ ∃ n tile, x.slotSide (s.team (x.mine s)) x.low = .ok (n, tile) ∧
      0 < n ∧ (tile = none → rangeOk (x.a x.low) n = true) ∧ ((s.team (x.mine s)).tslot x.f.ts.toNat).st = .ready ∧
      ((s.team (x.mine s)).tslot x.f.ts.toNat).len < n) 8 0x1C (fun x => x.ex)) ∧
  (∀ o, Raises (.cpald o) (fun x s => x.alike (fun x l => [x.d l, x.a l, x.b l]) ∧ 0 < x.d x.low ∧ rangeOk (x.a x.low) (4 * x.d x.low) = true ∧
      x.b x.low + x.d x.low ≤ 524288 ∧ x.a x.low % 4 = 0 ∧ (s.weave x.g.core x.g.slot).team.isSome = true ∧
      (s.team (x.mine s)).kd.cv = 0) 1 0x0B (fun x => x.g.lanes)) ∧
  (∀ o, Raises (.cpast o) (fun x s => x.alike (fun x l => [x.d l, x.a l, x.b l]) ∧ 0 < x.d x.low ∧ rangeOk (x.a x.low) (4 * x.d x.low) = true ∧
      x.b x.low + x.d x.low ≤ 524288 ∧ x.a x.low % 4 = 0 ∧ (s.weave x.g.core x.g.slot).team.isSome = true ∧
      (s.team (x.mine s)).kd.cv = 0) 1 0x0B (fun x => x.g.lanes)) ∧
  (∀ va n, rangeOk va n = true ↔ canonical va = true ∧ va + n - 1 < 2 ^ 64 ∧ canonical (va + n - 1) = true) ∧
  (∀ va, canonical va = true ↔ va < 2 ^ 56 ∨ 2 ^ 64 - 2 ^ 56 ≤ va ∧ va < 2 ^ 64) ∧
  (∀ o s x n tile, Ready (.cpts o) s x → x.teamed (x.moved s) → x.placed (x.moved s) → x.alike (fun x l => [x.d l, x.a l, x.b l]) →
    x.slotSide ((x.moved s).team (x.mine (x.moved s))) x.low = .ok (n, tile) → 0 < n → (tile = none → rangeOk (x.a x.low) n = true) →
    x.b x.low % 256 = 0 → x.b x.low + n ≤ ((x.moved s).team (x.mine (x.moved s))).bufBytes →
    (((x.moved s).team (x.mine (x.moved s))).tslot x.f.ts.toNat).moving = false → x.engRoom (x.moved s) →
    ∃ t, exec (.cpts o) s = .next t ∧ Stands s x (fun _ => {}) t ∧
      EngPosted (x.moved s) x { x.engCmd (some (x.mine (x.moved s))) .cpts with len := n, src := x.a x.low, tile := tile, slot := some x.f.ts.toNat, sbase := x.b x.low, slen := up256 n } t ∧
      (t.team (x.mine (x.moved s))).tslot x.f.ts.toNat = { ((x.moved s).team (x.mine (x.moved s))).tslot x.f.ts.toNat with st := .filling, base := some (x.b x.low), len := up256 n }) ∧
  (∀ o s x n tile q, Ready (.cpfs o) s x → x.teamed (x.moved s) → x.placed (x.moved s) → x.alike (fun x l => [x.d l, x.a l]) →
    x.slotSide ((x.moved s).team (x.mine (x.moved s))) x.low = .ok (n, tile) → 0 < n → (tile = none → rangeOk (x.a x.low) n = true) →
    ((x.moved s).team (x.mine (x.moved s))).tslot x.f.ts.toNat = q → q.st = .ready → n ≤ q.len → x.engRoom (x.moved s) →
    ∃ t, exec (.cpfs o) s = .next t ∧ Stands s x (fun _ => {}) t ∧
      EngPosted (x.moved s) x { x.engCmd (some (x.mine (x.moved s))) .cpfs with len := n, dst := x.a x.low, tile := tile, slot := some x.f.ts.toNat, sbase := q.base.getD 0, slen := q.len, rls := x.f.mod.getLsbD 0 } t ∧
      (t.team (x.mine (x.moved s))).tslot x.f.ts.toNat = if x.f.mod.getLsbD 0 then { q with st := .draining } else q) ∧
  (∀ o s x u loc leaf, Ready (.gcp o) s x → x.alike (fun x l => [x.a l, x.b l]) →
    (x.moved s).atomPending x.g.core x.g.slot x.ex = false →
    x.checkOnce (x.moved s) { rd := true, align := 32, size := 32 } (x.a x.low) = (u, .ok loc leaf) →
    let v := u.prepLoad x.g.core x.g.slot { l := x.low, ea := x.a x.low, loc := loc, leaf := leaf } 32 true
    let ws := (List.range 4).map (fun i => v.seen x.g.core x.g.slot x.low (loc.add (8 * i)) 8)
    v.anyPoison (loc.span 32) = false → ∀ g, gatherOf ws = some g → rangeOk g.idxa (g.count * g.isize) = true → rangeOk (x.b x.low) (g.count * g.rowb) = true → x.placed v → x.engRoom v →
    ∃ t, exec (.gcp o) s = .next t ∧ SameTables s t ∧ Passed s v x Thread.plainly (fun _ t => t) t ∧
      EngPosted v x { x.engCmd (v.weave x.g.core x.g.slot).team .gcp with len := g.count * g.rowb, dst := x.b x.low, gather := some g } t) ∧
  (∀ o s x u loc leaf, Ready (.gcpts o) s x → x.alike (fun x l => [x.a l, x.b l]) →
    (x.moved s).atomPending x.g.core x.g.slot x.ex = false →
    x.checkOnce (x.moved s) { rd := true, align := 32, size := 32 } (x.a x.low) = (u, .ok loc leaf) →
    let v := u.prepLoad x.g.core x.g.slot { l := x.low, ea := x.a x.low, loc := loc, leaf := leaf } 32 true
    let ws := (List.range 4).map (fun i => v.seen x.g.core x.g.slot x.low (loc.add (8 * i)) 8)
    v.anyPoison (loc.span 32) = false → ∀ g, gatherOf ws = some g → rangeOk g.idxa (g.count * g.isize) = true → x.teamed (x.moved s) → x.b x.low % 256 = 0 → x.b x.low + g.count * g.rowb ≤ (v.team (x.mine v)).bufBytes →
    ((v.team (x.mine v)).tslot x.f.ts.toNat).moving = false → x.placed v → x.engRoom v →
    ∃ t, exec (.gcpts o) s = .next t ∧ SameTables s t ∧ Passed s v x Thread.plainly (fun _ t => t) t ∧
      EngPosted v x { x.engCmd (v.weave x.g.core x.g.slot).team .gcpts with len := g.count * g.rowb, gather := some g, slot := some x.f.ts.toNat, sbase := x.b x.low, slen := up256 (g.count * g.rowb) } t) ∧
  (∀ o s x u loc leaf, Ready (.gcp o) s x → x.alike (fun x l => [x.a l, x.b l]) →
    (x.moved s).atomPending x.g.core x.g.slot x.ex = false →
    x.checkOnce (x.moved s) { rd := true, align := 32, size := 32 } (x.a x.low) = (u, .ok loc leaf) →
    let v := u.prepLoad x.g.core x.g.slot { l := x.low, ea := x.a x.low, loc := loc, leaf := leaf } 32 true
    let ws := (List.range 4).map (fun i => v.seen x.g.core x.g.slot x.low (loc.add (8 * i)) 8)
    v.anyPoison (loc.span 32) = false → x.canTrap v → gatherOf ws = none → exec (.gcp o) s = .next ((x.unrun v x.g.lanes).trapEntry x.g.core x.g.slot x.g.lanes x.ex 8 0x1E x.g.pc)) ∧
  (∀ o s x u loc leaf, Ready (.gcpts o) s x → x.alike (fun x l => [x.a l, x.b l]) →
    (x.moved s).atomPending x.g.core x.g.slot x.ex = false →
    x.checkOnce (x.moved s) { rd := true, align := 32, size := 32 } (x.a x.low) = (u, .ok loc leaf) →
    let v := u.prepLoad x.g.core x.g.slot { l := x.low, ea := x.a x.low, loc := loc, leaf := leaf } 32 true
    let ws := (List.range 4).map (fun i => v.seen x.g.core x.g.slot x.low (loc.add (8 * i)) 8)
    v.anyPoison (loc.span 32) = false → x.canTrap v → gatherOf ws = none → exec (.gcpts o) s = .next ((x.unrun v x.g.lanes).trapEntry x.g.core x.g.slot x.g.lanes x.ex 8 0x1E x.g.pc)) ∧
  (∀ o s x u loc leaf, Ready (.gcp o) s x → x.alike (fun x l => [x.a l, x.b l]) →
    (x.moved s).atomPending x.g.core x.g.slot x.ex = false →
    x.checkOnce (x.moved s) { rd := true, align := 32, size := 32 } (x.a x.low) = (u, .ok loc leaf) →
    let v := u.prepLoad x.g.core x.g.slot { l := x.low, ea := x.a x.low, loc := loc, leaf := leaf } 32 true
    let ws := (List.range 4).map (fun i => v.seen x.g.core x.g.slot x.low (loc.add (8 * i)) 8)
    v.anyPoison (loc.span 32) = false → x.canTrap v → ∀ g, gatherOf ws = some g → rangeOk g.idxa (g.count * g.isize) = false → exec (.gcp o) s = .next ((x.unrun v x.g.lanes).trapEntry x.g.core x.g.slot x.g.lanes x.ex 8 1 x.g.pc)) ∧
  (∀ o s x u loc leaf, Ready (.gcpts o) s x → x.alike (fun x l => [x.a l, x.b l]) →
    (x.moved s).atomPending x.g.core x.g.slot x.ex = false →
    x.checkOnce (x.moved s) { rd := true, align := 32, size := 32 } (x.a x.low) = (u, .ok loc leaf) →
    let v := u.prepLoad x.g.core x.g.slot { l := x.low, ea := x.a x.low, loc := loc, leaf := leaf } 32 true
    let ws := (List.range 4).map (fun i => v.seen x.g.core x.g.slot x.low (loc.add (8 * i)) 8)
    v.anyPoison (loc.span 32) = false → x.canTrap v → ∀ g, gatherOf ws = some g → rangeOk g.idxa (g.count * g.isize) = false → exec (.gcpts o) s = .next ((x.unrun v x.g.lanes).trapEntry x.g.core x.g.slot x.g.lanes x.ex 8 1 x.g.pc)) ∧
  (∀ o s x u loc leaf, Ready (.gcp o) s x → x.alike (fun x l => [x.a l, x.b l]) →
    (x.moved s).atomPending x.g.core x.g.slot x.ex = false →
    x.checkOnce (x.moved s) { rd := true, align := 32, size := 32 } (x.a x.low) = (u, .ok loc leaf) →
    let v := u.prepLoad x.g.core x.g.slot { l := x.low, ea := x.a x.low, loc := loc, leaf := leaf } 32 true
    let ws := (List.range 4).map (fun i => v.seen x.g.core x.g.slot x.low (loc.add (8 * i)) 8)
    v.anyPoison (loc.span 32) = false → x.canTrap v → ∀ g, gatherOf ws = some g → rangeOk g.idxa (g.count * g.isize) = true →
    rangeOk (x.b x.low) (g.count * g.rowb) = false → exec (.gcp o) s = .next ((x.unrun v x.g.lanes).trapEntry x.g.core x.g.slot x.g.lanes x.ex 8 1 x.g.pc)) ∧
  (∀ o s x u loc leaf, Ready (.gcpts o) s x → x.alike (fun x l => [x.a l, x.b l]) →
    (x.moved s).atomPending x.g.core x.g.slot x.ex = false →
    x.checkOnce (x.moved s) { rd := true, align := 32, size := 32 } (x.a x.low) = (u, .ok loc leaf) →
    let v := u.prepLoad x.g.core x.g.slot { l := x.low, ea := x.a x.low, loc := loc, leaf := leaf } 32 true
    let ws := (List.range 4).map (fun i => v.seen x.g.core x.g.slot x.low (loc.add (8 * i)) 8)
    v.anyPoison (loc.span 32) = false → x.canTrap v → ∀ g, gatherOf ws = some g → rangeOk g.idxa (g.count * g.isize) = true → x.teamed v →
    (x.b x.low % 256 ≠ 0 ∨ (v.team (x.mine v)).bufBytes < x.b x.low + g.count * g.rowb) → exec (.gcpts o) s = .next ((x.unrun v x.g.lanes).trapEntry x.g.core x.g.slot x.g.lanes x.ex 8 0x1C x.g.pc))

/-- Ready: waitlt passes where the count is below the bound of every executing lane, waits where it is not, and raises the protection trap 0x1C in the lanes whose bound is 0; ccrd writes COUNT and ERR; ccadd adds its signed operand for each executing lane, clamping at 0 and at 2^56 - 1 and then noting the code 8 where none stands; ccclr clears ERR; nothing else changes. Completion, exec answering a next state under conditions on the state and the operands alone, is stated of waitlt, ccrd, ccadd, ccclr. -/
def Obligations.CompletionCounters : Prop :=
  (∀ o, Acts (.waitlt o) (fun x s => ∀ l ∈ x.ex, x.a l % 2 ^ 56 ≠ 0 ∧ (s.counter x.g.core x.team x.ccn).count < x.a l % 2 ^ 56) still (fun _ s => s)) ∧
  (∀ o, Waits (.waitlt o) (fun x s => (∀ l ∈ x.ex, x.a l % 2 ^ 56 ≠ 0) ∧ ∃ l ∈ x.ex, x.a l % 2 ^ 56 ≤ (s.counter x.g.core x.team x.ccn).count)) ∧
  (∀ o, Raises (.waitlt o) (fun x _ => ∃ l ∈ x.ex, x.a l % 2 ^ 56 = 0) 8 0x1C (fun x => x.ex.filter (fun l => x.a l % 2 ^ 56 = 0))) ∧
  (∀ o, Acts (.ccrd o) (fun _ _ => True) (gives fun x s => (s.counter x.g.core x.team x.ccn).count % 2 ^ 56 + (s.counter x.g.core x.team x.ccn).err % 256 * 2 ^ 56)
    (fun x s => x.giveAll s ((s.counter x.g.core x.team x.ccn).count % 2 ^ 56 + (s.counter x.g.core x.team x.ccn).err % 256 * 2 ^ 56))) ∧
  (∀ o, Acts (.ccadd o) (fun _ _ => True) still (fun x s => x.ex.foldl (fun s l =>
      s.modCounter x.g.core x.team x.ccn (fun c => c.add (sint 64 (x.a l)))) s)) ∧
  (∀ (c : Counter) z, (c.add z).charges = c.charges ∧
    (0 ≤ c.count + z ∧ c.count + z < 2 ^ 56 → ((c.add z).count : Int) = c.count + z ∧ (c.add z).err = c.err) ∧
    (c.count + z < 0 → (c.add z).count = 0 ∧ (c.add z).err = if c.err = 0 then 8 else c.err) ∧
    (2 ^ 56 ≤ c.count + z → (c.add z).count = 2 ^ 56 - 1 ∧ (c.add z).err = if c.err = 0 then 8 else c.err)) ∧
  (∀ o, Acts (.ccclr o) (fun x _ => x.ex ≠ []) still (fun x s => s.modCounter x.g.core x.team x.ccn (fun c => { c with err := 0 })))

/-- refine, rfres, rfchk, rfwait, rfcancel and rfstat COMPLETE (exec answers a next state) for every state and operands that meet conditions on them alone: ready in a team, operands alike, and for the first three a block that its checks reach. refine and rfres, with every check of the block passed, no range in the remote-scratch window, room in the queue of the die and the stores before them performed, append the block to the queue; a failed check raises the protection trap 0x1F, that of the handle the detail of the handle; rfchk appends it whichever check but the first fails, with the number of the lowest. rfwait passes once no block of the address is left and waits until then; rfcancel ends with code 6 a block that has not started and marks one that runs; rfstat writes the state of the latest. Completion, exec answering a next state under conditions on the state and the operands alone, is stated of refine, rfres, rfchk, rfwait, rfcancel, rfstat. -/
def Obligations.RefinementBlocksAreQueued : Prop :=
  (∀ o s x u loc leaf, Ready (.refine o) s x → x.teamed (x.moved s) → x.placed (x.moved s) → x.alike (fun x l => [x.a l]) →
    (x.moved s).atomPending x.g.core x.g.slot x.ex = false →
    x.checkOnce (x.moved s) { rd := true, align := 128, size := 128 } (x.a x.low) = (u, .ok loc leaf) →
    let y := x.mine (x.moved s)
    let v := u.prepLoad x.g.core x.g.slot { l := x.low, ea := x.a x.low, loc := loc, leaf := leaf } 128 true
    let ws := (List.range 16).map (fun i => v.seen x.g.core x.g.slot x.low (loc.add (8 * i)) 8)
    let b : RefBlock := { id := 0, kind := 0, core := x.g.core, slot := x.g.slot, lane := x.low, team := y, ctx := x.agent.ctx, addr := x.a x.low, pc := x.g.pc, words := ws, desc := ((v.team y).handle (ws.getD 6 0 % 2 ^ 4)).desc }
    v.anyPoison (loc.span 128) = false → b.firstBad (v.team y) (!(v.blocksAt x.g.core y (x.a x.low)).isEmpty) = 0 →
    b.inWindow (v.team y).rswin = false → (v.die (x.g.core / 36)).blocks.length < 16 → v.drained x.g.core x.g.slot = true →
    ∃ t b', exec (.refine o) s = .next t ∧ SameTables s t ∧ Passed s v x Thread.plainly (fun _ t => t) t ∧
      (t.die (x.g.core / 36)).blocks = (v.die (x.g.core / 36)).blocks ++ [b'] ∧ { b' with id := 0, cc := none } = b ∧
      b'.id = v.nextId ∧ b'.cc = if (b.w 6).testBit 52 then some (b.w 6 / 2 ^ 48 % 2 ^ 4) else none) ∧
  (∀ o s x u loc leaf, Ready (.rfres o) s x → x.teamed (x.moved s) → x.placed (x.moved s) → x.alike (fun x l => [x.a l]) →
    (x.moved s).atomPending x.g.core x.g.slot x.ex = false →
    x.checkOnce (x.moved s) { rd := true, align := 128, size := 128 } (x.a x.low) = (u, .ok loc leaf) →
    let y := x.mine (x.moved s)
    let v := u.prepLoad x.g.core x.g.slot { l := x.low, ea := x.a x.low, loc := loc, leaf := leaf } 128 true
    let ws := (List.range 16).map (fun i => v.seen x.g.core x.g.slot x.low (loc.add (8 * i)) 8)
    let b : RefBlock := { id := 0, kind := 1, core := x.g.core, slot := x.g.slot, lane := x.low, team := y, ctx := x.agent.ctx, addr := x.a x.low, pc := x.g.pc, words := ws, desc := ((v.team y).handle (ws.getD 6 0 % 2 ^ 4)).desc }
    v.anyPoison (loc.span 128) = false → b.firstBad (v.team y) (!(v.blocksAt x.g.core y (x.a x.low)).isEmpty) = 0 →
    b.inWindow (v.team y).rswin = false → (v.die (x.g.core / 36)).blocks.length < 16 → v.drained x.g.core x.g.slot = true →
    ∃ t b', exec (.rfres o) s = .next t ∧ SameTables s t ∧ Passed s v x Thread.plainly (fun _ t => t) t ∧
      (t.die (x.g.core / 36)).blocks = (v.die (x.g.core / 36)).blocks ++ [b'] ∧ { b' with id := 0, cc := none } = b ∧
      b'.id = v.nextId ∧ b'.cc = if (b.w 6).testBit 52 then some (b.w 6 / 2 ^ 48 % 2 ^ 4) else none) ∧
  (∀ o s x u loc leaf, Ready (.refine o) s x → x.teamed (x.moved s) → x.placed (x.moved s) → x.alike (fun x l => [x.a l]) →
    (x.moved s).atomPending x.g.core x.g.slot x.ex = false →
    x.checkOnce (x.moved s) { rd := true, align := 128, size := 128 } (x.a x.low) = (u, .ok loc leaf) →
    let y := x.mine (x.moved s)
    let v := u.prepLoad x.g.core x.g.slot { l := x.low, ea := x.a x.low, loc := loc, leaf := leaf } 128 true
    let ws := (List.range 16).map (fun i => v.seen x.g.core x.g.slot x.low (loc.add (8 * i)) 8)
    let b : RefBlock := { id := 0, kind := 0, core := x.g.core, slot := x.g.slot, lane := x.low, team := y, ctx := x.agent.ctx, addr := x.a x.low, pc := x.g.pc, words := ws, desc := ((v.team y).handle (ws.getD 6 0 % 2 ^ 4)).desc }
    v.anyPoison (loc.span 128) = false → ∀ bad, b.firstBad (v.team y) (!(v.blocksAt x.g.core y (x.a x.low)).isEmpty) = bad → bad ≠ 0 → x.canTrap v →
    exec (.refine o) s = .next ((x.unrun v x.g.lanes).trapEntry x.g.core x.g.slot x.g.lanes x.ex 8
      (if bad = 3 then ((v.team y).handleBad (b.w 6 % 2 ^ 32)).getD 0 else 0x1F) x.g.pc)) ∧
  (∀ o s x u loc leaf, Ready (.rfres o) s x → x.teamed (x.moved s) → x.placed (x.moved s) → x.alike (fun x l => [x.a l]) →
    (x.moved s).atomPending x.g.core x.g.slot x.ex = false →
    x.checkOnce (x.moved s) { rd := true, align := 128, size := 128 } (x.a x.low) = (u, .ok loc leaf) →
    let y := x.mine (x.moved s)
    let v := u.prepLoad x.g.core x.g.slot { l := x.low, ea := x.a x.low, loc := loc, leaf := leaf } 128 true
    let ws := (List.range 16).map (fun i => v.seen x.g.core x.g.slot x.low (loc.add (8 * i)) 8)
    let b : RefBlock := { id := 0, kind := 1, core := x.g.core, slot := x.g.slot, lane := x.low, team := y, ctx := x.agent.ctx, addr := x.a x.low, pc := x.g.pc, words := ws, desc := ((v.team y).handle (ws.getD 6 0 % 2 ^ 4)).desc }
    v.anyPoison (loc.span 128) = false → ∀ bad, b.firstBad (v.team y) (!(v.blocksAt x.g.core y (x.a x.low)).isEmpty) = bad → bad ≠ 0 → x.canTrap v →
    exec (.rfres o) s = .next ((x.unrun v x.g.lanes).trapEntry x.g.core x.g.slot x.g.lanes x.ex 8
      (if bad = 3 then ((v.team y).handleBad (b.w 6 % 2 ^ 32)).getD 0 else 0x1F) x.g.pc)) ∧
  (∀ o s x u loc leaf, Ready (.rfchk o) s x → x.teamed (x.moved s) → x.placed (x.moved s) → x.alike (fun x l => [x.a l]) →
    (x.moved s).atomPending x.g.core x.g.slot x.ex = false →
    x.checkOnce (x.moved s) { rd := true, align := 128, size := 128 } (x.a x.low) = (u, .ok loc leaf) →
    let y := x.mine (x.moved s)
    let v := u.prepLoad x.g.core x.g.slot { l := x.low, ea := x.a x.low, loc := loc, leaf := leaf } 128 true
    let ws := (List.range 16).map (fun i => v.seen x.g.core x.g.slot x.low (loc.add (8 * i)) 8)
    let b : RefBlock := { id := 0, kind := 2, core := x.g.core, slot := x.g.slot, lane := x.low, team := y, ctx := x.agent.ctx, addr := x.a x.low, pc := x.g.pc, words := ws, desc := ((v.team y).handle (ws.getD 6 0 % 2 ^ 4)).desc }
    v.anyPoison (loc.span 128) = false → ∀ bad, b.firstBad (v.team y) (!(v.blocksAt x.g.core y (x.a x.low)).isEmpty) = bad → bad ≠ 1 →
    { b with kind := 0 }.inWindow (if bad = 0 then (v.team y).rswin else 0) = false →
    (v.die (x.g.core / 36)).blocks.length < 16 → v.drained x.g.core x.g.slot = true →
    ∃ t b', exec (.rfchk o) s = .next t ∧ SameTables s t ∧ Passed s v x Thread.plainly (fun _ t => t) t ∧
      (t.die (x.g.core / 36)).blocks = (v.die (x.g.core / 36)).blocks ++ [b'] ∧ { b' with id := 0, cc := none, bad := 0 } = b ∧
      b'.bad = bad ∧ b'.id = v.nextId) ∧
  (∀ (b : RefBlock) y busy, (b.firstBad y busy = 0 ↔ ∀ n, 1 ≤ n → n ≤ 12 → b.check y busy n = true) ∧
    ∀ n, b.firstBad y busy = n + 1 → n + 1 ≤ 12 ∧ b.check y busy (n + 1) = false ∧ ∀ m, 1 ≤ m → m ≤ n → b.check y busy m = true) ∧
  (∀ o, Acts (.rfwait o) (fun x s => x.teamed s ∧ x.alike (fun x l => [x.a l]) ∧ s.blocksAt x.g.core (x.mine s) (x.a x.low) = []) still (fun _ s => s)) ∧
  (∀ o, Waits (.rfwait o) (fun x s => x.teamed s ∧ x.alike (fun x l => [x.a l]) ∧ s.blocksAt x.g.core (x.mine s) (x.a x.low) ≠ [])) ∧
  (∀ o, Acts (.rfcancel o) (fun x s => x.teamed s ∧ x.alike (fun x l => [x.a l])) still (fun x s =>
      (s.blocksAt x.g.core (x.mine s) (x.a x.low)).foldl (fun s b => s.modBlock b.id RefBlock.cancelled) s)) ∧
  (∀ (b : RefBlock), (b.code.isSome = true → b.cancelled = b) ∧ (b.code = none → b.started = true → b.cancelled = { b with cancel := true }) ∧
    (b.code = none → b.started = false → b.cancelled.code = some 6)) ∧
  (∀ o, Acts (.rfstat o) (fun x s => x.teamed s ∧ x.alike (fun x l => [x.a l])) (gives fun x s =>
      match (s.blocksAt x.g.core (x.mine s) (x.a x.low)).getLast? with
      | none => 0
      | some b => (if b.started then 2 + b.pos.step * 4 else 1) + b.rung % 4 * 2 ^ 5 + b.iter % 2 ^ 16 * 2 ^ 16)
    (fun x s => x.giveAll s (((s.blocksAt x.g.core (x.mine s) (x.a x.low)).getLast?.map RefBlock.statWord).getD 0)))

/-- Ready: mfs writes the register to d in each executing lane, the lane's own where it is held per thread; flt.rec0 and eflt.rec0 also present the record; LARDRW, HGEN and SYNCEST come as deferred results. mts, mtsset and mtsclr write the operand, the union and the difference into the writable fields and leave the others; a register not held per thread is written once, and operands that differ raise the protection trap 0x22; a write to tr.ppc clears the poison record; mtsset and mtsclr leave the acknowledge registers. Which field of the state stands behind each number of Table 4, and which field a write to each register with a writable one changes, is stated. Completion, exec answering a next state under conditions on the state and the operands alone, is stated of mfs, mts, mtsset, mtsclr. mtsset and mtsclr on an acknowledge register are the model's reading (log entry 51). -/
def Obligations.SystemRegisters : Prop :=
  (∀ o s x, Ready (.mfs o) s x → (x.f.c.toNat = 0x010 ∨ x.f.c.toNat = 0x011 ∨ x.f.c.toNat = 0x012) → ∃ t, exec (.mfs o) s = .next t ∧ Computed s x (fun l => { reg := some (if x.f.c.toNat = 0x010 then (x.th l).fpCtl.toNat else if x.f.c.toNat = 0x011 then (x.th l).fpFlags.toNat else (x.th l).rsCount.toNat) }) t) ∧
  (∀ o, Acts (.mfs o) (fun x _ => x.f.c.toNat ≠ 0x005 ∧ x.f.c.toNat ≠ 0x006 ∧ x.f.c.toNat ≠ 0x007 ∧ x.f.c.toNat ≠ 0x010 ∧ x.f.c.toNat ≠ 0x011 ∧ x.f.c.toNat ≠ 0x012 ∧ x.f.c.toNat ≠ 0x040 ∧ x.f.c.toNat ≠ 0x048)
    (gives fun x s => s.sregRead x.g.core x.g.slot x.f.c.toNat) (fun x s => x.giveAll s (s.sregRead x.g.core x.g.slot x.f.c.toNat))) ∧
  (∀ o, Acts (.mfs o) (fun x _ => x.ex ≠ [] ∧ x.f.c.toNat = 0x040) (gives fun x s => s.sregRead x.g.core x.g.slot 0x040)
    (fun x s => (x.giveAll s (s.sregRead x.g.core x.g.slot 0x040)).modCore x.g.core (fun k => { k with flt := presented k.flt }))) ∧
  (∀ o, Acts (.mfs o) (fun x _ => x.ex ≠ [] ∧ x.f.c.toNat = 0x048) (gives fun x s => s.sregRead x.g.core x.g.slot 0x048)
    (fun x s => (x.giveAll s (s.sregRead x.g.core x.g.slot 0x048)).modCore x.g.core (fun k => { k with eflt := presented k.eflt }))) ∧
  (∀ (rs : List FaultRec) q, currentRec rs = some q → q ∈ rs ∧ q.shown = false ∧ ∀ r ∈ presented rs, r.idx = q.idx → r.shown = true) ∧
  (∀ o s x, Ready (.mfs o) s x → (x.f.c.toNat = 0x005 ∨ x.f.c.toNat = 0x006 ∨ x.f.c.toNat = 0x007) → ∃ t, exec (.mfs o) s = .next t ∧ SameTables s t ∧
    Passed s s x id (fun _ t => t.setEmpty x.f.d (x.r.d.width x.f.b)) t ∧
    (t.core x.g.core).deferred = (s.core x.g.core).deferred ++ (if x.f.d = 511 then [] else x.ex.map (fun l => { slot := x.g.slot, lane := l, reg := x.f.d.toNat, cnt := regsOf (x.r.d.width x.f.b), val := some (s.sregRead x.g.core x.g.slot x.f.c.toNat), pc := x.g.pc, va := 0 }))) ∧
  (∀ o s x, Ready (.mts o) s x → (x.f.c.toNat = 0x010 ∨ x.f.c.toNat = 0x011 ∨ x.f.c.toNat = 0x012) → ∃ t, exec (.mts o) s = .next t ∧ SameTables s t ∧
    let new := fun (old a m : Nat) => ((a) &&& m) ||| (old ^^^ (old &&& m))
    Passed s s x id (fun l t =>
      if x.f.c.toNat = 0x010 then { t with fpCtl := BitVec.ofNat 32 (new t.fpCtl.toNat (x.a l) 0x11F) }
      else if x.f.c.toNat = 0x011 then { t with fpFlags := BitVec.ofNat 32 (new t.fpFlags.toNat (x.a l) 0x1F) }
      else { t with rsCount := BitVec.ofNat 32 (new t.rsCount.toNat (x.a l) (2 ^ 32 - 1)) }) t) ∧
  (∀ o s x, Ready (.mtsset o) s x → (x.f.c.toNat = 0x010 ∨ x.f.c.toNat = 0x011 ∨ x.f.c.toNat = 0x012) → ∃ t, exec (.mtsset o) s = .next t ∧ SameTables s t ∧
    let new := fun (old a m : Nat) => ((old ||| a) &&& m) ||| (old ^^^ (old &&& m))
    Passed s s x id (fun l t =>
      if x.f.c.toNat = 0x010 then { t with fpCtl := BitVec.ofNat 32 (new t.fpCtl.toNat (x.a l) 0x11F) }
      else if x.f.c.toNat = 0x011 then { t with fpFlags := BitVec.ofNat 32 (new t.fpFlags.toNat (x.a l) 0x1F) }
      else { t with rsCount := BitVec.ofNat 32 (new t.rsCount.toNat (x.a l) (2 ^ 32 - 1)) }) t) ∧
  (∀ o s x, Ready (.mtsclr o) s x → (x.f.c.toNat = 0x010 ∨ x.f.c.toNat = 0x011 ∨ x.f.c.toNat = 0x012) → ∃ t, exec (.mtsclr o) s = .next t ∧ SameTables s t ∧
    let new := fun (old a m : Nat) => ((old ^^^ (old &&& a)) &&& m) ||| (old ^^^ (old &&& m))
    Passed s s x id (fun l t =>
      if x.f.c.toNat = 0x010 then { t with fpCtl := BitVec.ofNat 32 (new t.fpCtl.toNat (x.a l) 0x11F) }
      else if x.f.c.toNat = 0x011 then { t with fpFlags := BitVec.ofNat 32 (new t.fpFlags.toNat (x.a l) 0x1F) }
      else { t with rsCount := BitVec.ofNat 32 (new t.rsCount.toNat (x.a l) (2 ^ 32 - 1)) }) t) ∧
  (∀ o, Does (.mts o) (fun x _ => x.alike (fun x l => [x.a l]) ∧ x.f.c.toNat ≠ 0x010 ∧ x.f.c.toNat ≠ 0x011 ∧ x.f.c.toNat ≠ 0x012 ∧ x.f.c.toNat ≠ 0x026 ∧ x.f.c.toNat ≠ 0x044 ∧ x.f.c.toNat ≠ 0x04C)
    (fun x s =>
      let old := s.sregRead x.g.core x.g.slot x.f.c.toNat
      let a := x.a x.low
      let m := sregMask x.f.c.toNat
      s.sregStore x.g.core x.g.slot x.f.c.toNat (((a) &&& m) ||| (old ^^^ (old &&& m))))) ∧
  (∀ o, Does (.mtsset o) (fun x _ => x.alike (fun x l => [x.a l]) ∧ x.f.c.toNat ≠ 0x010 ∧ x.f.c.toNat ≠ 0x011 ∧ x.f.c.toNat ≠ 0x012 ∧ x.f.c.toNat ≠ 0x026 ∧ x.f.c.toNat ≠ 0x044 ∧ x.f.c.toNat ≠ 0x04C)
    (fun x s =>
      let old := s.sregRead x.g.core x.g.slot x.f.c.toNat
      let a := x.a x.low
      let m := sregMask x.f.c.toNat
      s.sregStore x.g.core x.g.slot x.f.c.toNat (((old ||| a) &&& m) ||| (old ^^^ (old &&& m))))) ∧
  (∀ o, Does (.mtsclr o) (fun x _ => x.alike (fun x l => [x.a l]) ∧ x.f.c.toNat ≠ 0x010 ∧ x.f.c.toNat ≠ 0x011 ∧ x.f.c.toNat ≠ 0x012 ∧ x.f.c.toNat ≠ 0x026 ∧ x.f.c.toNat ≠ 0x044 ∧ x.f.c.toNat ≠ 0x04C)
    (fun x s =>
      let old := s.sregRead x.g.core x.g.slot x.f.c.toNat
      let a := x.a x.low
      let m := sregMask x.f.c.toNat
      s.sregStore x.g.core x.g.slot x.f.c.toNat (((old ^^^ (old &&& a)) &&& m) ||| (old ^^^ (old &&& m))))) ∧
  (∀ o, Does (.mts o) (fun x _ => x.alike (fun x l => [x.a l]) ∧ x.f.c.toNat = 0x026)
    (fun x s => s.modWeave x.g.core x.g.slot (fun w => { w with trPpc := 0, trPva := 0 }))) ∧
  (∀ o, Does (.mtsset o) (fun x _ => x.alike (fun x l => [x.a l]) ∧ x.f.c.toNat = 0x026)
    (fun x s => s.modWeave x.g.core x.g.slot (fun w => { w with trPpc := 0, trPva := 0 }))) ∧
  (∀ o, Does (.mtsclr o) (fun x _ => x.alike (fun x l => [x.a l]) ∧ x.f.c.toNat = 0x026)
    (fun x s => s.modWeave x.g.core x.g.slot (fun w => { w with trPpc := 0, trPva := 0 }))) ∧
  (∀ o, Does (.mts o) (fun x _ => x.alike (fun x l => [x.a l]) ∧ x.f.c.toNat = 0x044) (fun x s => s.fltAck x.g.core (x.a x.low))) ∧
  (∀ o, Does (.mts o) (fun x _ => x.alike (fun x l => [x.a l]) ∧ x.f.c.toNat = 0x04C) (fun x s => s.efltAck x.g.core (x.a x.low))) ∧
  (∀ o, Acts (.mtsset o) (fun x _ => x.alike (fun x l => [x.a l]) ∧ (x.f.c.toNat = 0x044 ∨ x.f.c.toNat = 0x04C)) still (fun _ s => s)) ∧
  (∀ o, Acts (.mtsclr o) (fun x _ => x.alike (fun x l => [x.a l]) ∧ (x.f.c.toNat = 0x044 ∨ x.f.c.toNat = 0x04C)) still (fun _ s => s)) ∧
  (∀ o s x, Ready (.mts o) s x → x.canTrap (x.moved s) → ¬ (x.f.c.toNat = 0x010 ∨ x.f.c.toNat = 0x011 ∨ x.f.c.toNat = 0x012) → x.differ (fun l => [x.a l]) ≠ [] → exec (.mts o) s =
    .next ((x.back s).trapEntry x.g.core x.g.slot x.g.lanes (x.differ (fun l => [x.a l])) 8 0x22 x.g.pc)) ∧
  (∀ o s x, Ready (.mtsset o) s x → x.canTrap (x.moved s) → ¬ (x.f.c.toNat = 0x010 ∨ x.f.c.toNat = 0x011 ∨ x.f.c.toNat = 0x012) → x.differ (fun l => [x.a l]) ≠ [] → exec (.mtsset o) s =
    .next ((x.back s).trapEntry x.g.core x.g.slot x.g.lanes (x.differ (fun l => [x.a l])) 8 0x22 x.g.pc)) ∧
  (∀ o s x, Ready (.mtsclr o) s x → x.canTrap (x.moved s) → ¬ (x.f.c.toNat = 0x010 ∨ x.f.c.toNat = 0x011 ∨ x.f.c.toNat = 0x012) → x.differ (fun l => [x.a l]) ≠ [] → exec (.mtsclr o) s =
    .next ((x.back s).trapEntry x.g.core x.g.slot x.g.lanes (x.differ (fun l => [x.a l])) 8 0x22 x.g.pc)) ∧
  (∀ (s : State) c w, let x := s.weave c w; s.sregRead c w 0x003 = (s.core c).bankrole.toNat ∧ s.sregRead c w 0x020 = x.trCause.toNat ∧
    s.sregRead c w 0x021 = x.trPc.toNat ∧ s.sregRead c w 0x022 = x.trAmask.toNat ∧ s.sregRead c w 0x023 = x.trFmask.toNat ∧
    s.sregRead c w 0x024 = (if x.trH then 1 else 0) + (if x.trM then 2 else 0) + (if x.trSkip then 4 else 0) ∧
    s.sregRead c w 0x025 = x.rfTrap.toNat ∧ s.sregRead c w 0x026 = x.trPpc.toNat ∧ s.sregRead c w 0x027 = x.trPva.toNat ∧
    s.sregRead c w 0x050 = (s.core c).fwTrap.toNat ∧ s.sregRead c w 0x044 = 0 ∧ s.sregRead c w 0x04C = 0) ∧
  (∀ (s : State) c w, s.sregRead c w 0x000 = s.pkg * 2 ^ 48 + Config.arch * 2 ^ 32 + Config.stepping * 2 ^ 24 + c * 2 ^ 8 ∧
    s.sregRead c w 0x006 = (s.die (c / 36)).hgen ∧
    s.sregRead c w 0x007 = min 65535 ((s.die (c / 36)).syncs.filter (fun e => e.overflow = true)).length * 2 ^ 32 +
      ((s.die (c / 36)).syncs.filter (fun e => e.overflow = false)).length % 2 ^ 17) ∧
  (∀ (s : State) c w y, (s.weave c w).team = some y → let x := s.team y
    s.sregRead c w 0x001 = x.ctx ∧ s.sregRead c w 0x002 = (s.context x.ctx).ptroot.toNat ∧ s.sregRead c w 0x018 = x.cpErr ∧
    s.sregRead c w 0x019 = x.prog ∧ s.sregRead c w 0x031 = (s.context x.ctx).slDebt ∧
    s.sregRead c w 0x004 = ((x.spadBanks ++ x.bufBanks ++ x.garBanks).map (2 ^ ·)).sum ∧
    s.sregRead c w 0x030 = if x.pre.slice = 0 ∨ x.pre.expired = true then 0 else match x.pre.charged with
      | none => x.pre.left
      | some f => x.pre.left - (s.time - f)) ∧
  (∀ (s : State) c w, (s.weave c w).team = none → s.sregRead c w 0x001 = 0 ∧ s.sregRead c w 0x002 = (s.context 0).ptroot.toNat ∧
    s.sregRead c w 0x004 = 0 ∧ s.sregRead c w 0x018 = (s.core c).fwCpErr ∧ s.sregRead c w 0x019 = 0 ∧ s.sregRead c w 0x030 = 0 ∧
    s.sregRead c w 0x031 = (s.context 0).slDebt) ∧
  (∀ (s : State) c w, ∃ n, s.time ≤ 4000 * n ∧ 4000 * n < s.time + 4000 ∧ refreshAt (4000 * n) (n % 16) = true ∧
    s.sregRead c w 0x005 = n % 16 * 2 ^ 40 + 4000 * n % 2 ^ 40) ∧
  (∀ (s : State) c w i, i < 4 →
    (∀ q, currentRec (s.core c).flt = some q → s.sregRead c w (0x040 + i) = ([q.w0, q.w1, q.w2, q.w3].getD i 0).toNat) ∧
    (currentRec (s.core c).flt = none → s.sregRead c w (0x040 + i) = 0) ∧
    (∀ q, currentRec (s.core c).eflt = some q → s.sregRead c w (0x048 + i) = ([q.w0, q.w1, q.w2, q.w3].getD i 0).toNat) ∧
    (currentRec (s.core c).eflt = none → s.sregRead c w (0x048 + i) = 0)) ∧
  (∀ (s : State) c w y v, (s.weave c w).team = some y → (s.findTeam y).isSome = true →
    (s.sregStore c w 0x018 v).team y = { s.team y with cpErr := v } ∧ (s.sregStore c w 0x019 v).team y = { s.team y with prog := v }) ∧
  (∀ (s : State) c w v, (s.weave c w).team = none →
    (s.sregStore c w 0x018 v).core c = { s.core c with fwCpErr := v } ∧ s.sregStore c w 0x019 v = s) ∧
  (∀ n, sregMask n = if n = 0x002 then 2 ^ 56 - 1 else if n = 0x010 then 0x11F else if n = 0x011 then 0x1F
    else if n = 0x012 then 2 ^ 32 - 1 else if n = 0x018 then 0xFF else if n = 0x019 then 0xFFFF else if n = 0x024 then 6
    else if n = 0x050 then 2 ^ 64 - 1 else 0) ∧
  (∀ (s : State) c w v, ((s.sregStore c w 0x024 v).weave c w).trM = v.testBit 1 ∧
    ((s.sregStore c w 0x024 v).weave c w).trSkip = v.testBit 2 ∧ ((s.sregStore c w 0x024 v).weave c w).trH = (s.weave c w).trH ∧
    ((s.sregStore c w 0x050 v).core c).fwTrap = BitVec.ofNat 64 v ∧
    ((s.sregStore c w 0x002 v).context (s.agent c w).ctx).ptroot = BitVec.ofNat 64 v ∧
    ∀ n, sregMask n = 0 → s.sregStore c w n v = s)

/-- Ready with an executing lane: tret in a handler gives back to each live thread the pc, block, depth, predicates and operand buffer of its frame, the faulting lanes past the trapping word where SKIP is set, and clears H, M, SKIP and the frame; tmask sets and tunmask clears M; outside a handler these raise the protection trap 0x23. tabort flushes the launch and ends it with status 3 and its code, once no hold keeps its writes waiting. ftime and rdcyc write fabric time and core cycles; fwidle waits for an event, then writes and clears the pending ones; fwsev sets event 4 of the cores named and raises the protection trap 0x22 beyond core 143. Completion, exec answering a next state under conditions on the state and the operands alone, is stated of tret, tmask, tunmask, tabort, fwidle, ftime, rdcyc, fwsev. The code of tabort from the lowest executing lane is the model's reading (log entry 51), and so is that fwsev tests the whole register (79). -/
def Obligations.TrapReturnMasksAndTime : Prop :=
  (∀ o s x, Ready (.tret o) s x → x.ex ≠ [] → ((x.moved s).weave x.g.core x.g.slot).trH = true → ((x.moved s).weave x.g.core x.g.slot).trSkip = false →
    exec (.tret o) s = .next ((x.moved s).modWeave x.g.core x.g.slot (fun w => w.leave 1))) ∧
  (∀ o s x u v, Ready (.tret o) s x → x.ex ≠ [] → ((x.moved s).weave x.g.core x.g.slot).trH = true → ((x.moved s).weave x.g.core x.g.slot).trSkip = true →
    (x.moved s).fetchOn x.g.core x.g.slot ((x.moved s).weave x.g.core x.g.slot).trPc.toNat (x.ex.findSome? (fun l => x.onWay l ((x.moved s).weave x.g.core x.g.slot).trPc.toNat)) = (u, .word v) →
    exec (.tret o) s = .next (u.modWeave x.g.core x.g.slot (fun w =>
      w.leave (if majorForm (majorOf v) = some .L ∧ isHeader v = false then 2 else 1)))) ∧
  (∀ (w : Weave) n fr, w.frame = some fr → (w.leave n).frame = none ∧ (w.leave n).trH = false ∧ (w.leave n).trM = false ∧
    (w.leave n).trSkip = false ∧ (w.leave n).trCause = w.trCause ∧ (w.leave n).trPc = w.trPc ∧
    ∀ l f, l < 32 → (w.thread l).mode ≠ .exited → (w.thread l).frame = some f → (∀ g k, f.mode ≠ .waiting (.arrived g k)) →
      ((w.leave n).thread l).frame = none ∧ ((w.leave n).thread l).preds = f.preds ∧ ((w.leave n).thread l).ob = f.ob ∧
      ((w.leave n).thread l).regs = (w.thread l).regs ∧ ((w.leave n).thread l).ctl.bh = f.ctl.bh ∧
      ((w.leave n).thread l).ctl.depth = f.ctl.depth ∧
      ((w.leave n).thread l).ctl.pc = if w.trSkip = true ∧ w.trFmask.getLsbD l = true then w.trPc + 8#64 * BitVec.ofNat 64 n else f.ctl.pc) ∧
  (∀ o, Acts (.tret o) (fun x _ => x.ex = []) still (fun _ s => s)) ∧
  (∀ o, Acts (.tmask o) (fun x _ => x.ex = []) still (fun _ s => s)) ∧
  (∀ o, Acts (.tunmask o) (fun x _ => x.ex = []) still (fun _ s => s)) ∧
  (∀ o, Acts (.tabort o) (fun x _ => x.ex = []) still (fun _ s => s)) ∧
  (∀ o, Acts (.fwidle o) (fun x _ => x.ex = []) still (fun _ s => s)) ∧
  (∀ o, Raises (.tret o) (fun x s => x.ex ≠ [] ∧ (s.weave x.g.core x.g.slot).trH = false) 8 0x23 (fun x => x.ex)) ∧
  (∀ o, Raises (.tmask o) (fun x s => x.ex ≠ [] ∧ (s.weave x.g.core x.g.slot).trH = false) 8 0x23 (fun x => x.ex)) ∧
  (∀ o, Raises (.tunmask o) (fun x s => x.ex ≠ [] ∧ (s.weave x.g.core x.g.slot).trH = false) 8 0x23 (fun x => x.ex)) ∧
  (∀ o, Does (.tmask o) (fun x s => x.ex ≠ [] ∧ (s.weave x.g.core x.g.slot).trH = true) (fun x s => s.modWeave x.g.core x.g.slot
      (fun w => { w with trM := true, trSince := if w.trM then w.trSince else s.time }))) ∧
  (∀ o, Does (.tunmask o) (fun x s => x.ex ≠ [] ∧ (s.weave x.g.core x.g.slot).trH = true) (fun x s => s.modWeave x.g.core x.g.slot
      (fun w => { w with trM := false }))) ∧
  (∀ o s x y t, Ready (.tabort o) s x → x.ex ≠ [] → ((x.moved s).weave x.g.core x.g.slot).team = some y →
    t = ((x.moved s).flushLaunch ((x.moved s).team y).launch).endLaunch ((x.moved s).team y).launch 3 (x.a x.low % 256) 0 →
    exec (.tabort o) s = .next (if (x.moved s).heldWrites x.g.core t = [] then t
      else x.unrun (((x.moved s).afterHolds x.g.core t).hold x.g x.g.lanes) x.g.lanes)) ∧
  (∀ o, Computes (.ftime o) (toReg fun x _ => x.old.time % 2 ^ 64)) ∧
  (∀ o, Computes (.rdcyc o) (toReg fun x _ => x.old.cycles % 2 ^ 64)) ∧
  (∀ o, Acts (.fwidle o) (fun x s => x.ex ≠ [] ∧ (s.core x.g.core).fwEvents ≠ 0) (gives fun x s => (s.core x.g.core).fwEvents.toNat)
    (fun x s => x.giveAll (s.modCore x.g.core (fun k => { k with fwEvents := 0 })) (s.core x.g.core).fwEvents.toNat)) ∧
  (∀ o, Waits (.fwidle o) (fun x s => x.ex ≠ [] ∧ (s.core x.g.core).fwEvents = 0)) ∧
  (∀ o, Acts (.fwsev o) (fun x _ => ∀ l ∈ x.ex, x.a l ≤ 143) still (fun x s => x.ex.foldl (fun s l =>
      s.modCore (x.a l) (fun k => { k with fwEvents := k.fwEvents ||| 0x10 })) s)) ∧
  (∀ o, Raises (.fwsev o) (fun x _ => ∃ l ∈ x.ex, 143 < x.a l) 8 0x22 (fun x => x.ex.filter (fun l => decide (143 < x.a l))))

/-- Ready with alike operands: each ticket instruction on a ticket whose state it does not admit, or with a reserved field set, raises the protection trap 0x24 when first offered; tmplace places the team once its core is reserved and its preload read, and leaves STATE 2, the team on the core, its threads at the image with fp.ctl and the preloaded registers; tmsave saves a team that has stopped and is quiet, leaving STATE 3 and no team on the core; tmrest brings a saved team back with its registers and leaves STATE 2 once its tenure is granted, and kills its context where the save area has changed; tmflush and tmkill discard the team and leave STATE 0 and 5; tkdone ends a completed one with STATE 4. Each waits until then, and while holds keep its writes waiting. tkclaim claims the first sound ticket of its core in state 0, or writes 0. qpost refuses an inactive queue or another owner with 2, a full ring with 1, else enqueues and writes 0. Completion, exec answering a next state under conditions on the state and the operands alone, is stated of tmplace, tmsave, tmrest, tmflush, tmkill, tkdone, tkclaim, qpost. By the model's choice and reading: what a save and a restore keep (log entry 18), a gang with a killed team (44), reserved ticket fields, tmplace and tmsave on a ticket not yet posted and the reservation of a flushed team (51), mappings at a restore (60, 71). -/
def Obligations.TicketsAndPackets : Prop :=
  (∀ o, Raises (.tmplace o) (fun x s => x.alike (fun x l => [x.a l]) ∧ ¬ x.accepted s [1]) 8 0x24 (fun x => x.ex)) ∧
  (∀ o, Raises (.tmsave o) (fun x s => x.alike (fun x l => [x.a l]) ∧ ¬ x.accepted s [2]) 8 0x24 (fun x => x.ex)) ∧
  (∀ o, Raises (.tmrest o) (fun x s => x.alike (fun x l => [x.a l]) ∧ ¬ x.accepted s [3]) 8 0x24 (fun x => x.ex)) ∧
  (∀ o, Raises (.tmflush o) (fun x s => x.alike (fun x l => [x.a l]) ∧ ¬ x.accepted s [2, 3]) 8 0x24 (fun x => x.ex)) ∧
  (∀ o, Raises (.tmkill o) (fun x s => x.alike (fun x l => [x.a l]) ∧ ¬ x.accepted s [2, 3]) 8 0x24 (fun x => x.ex)) ∧
  (∀ o, Raises (.tkdone o) (fun x s => x.alike (fun x l => [x.a l]) ∧ ¬ x.accepted s [2]) 8 0x24 (fun x => x.ex)) ∧
  (∀ o, Acts (.tmplace o) (fun x s => x.alike (fun x l => [x.a l]) ∧ x.accepted s [1] ∧ s.ticketTeam (x.a x.low) = none) still (fun _ s => s)) ∧
  (∀ o, Acts (.tmsave o) (fun x s => x.alike (fun x l => [x.a l]) ∧ x.accepted s [2] ∧ s.ticketTeam (x.a x.low) = none) still (fun _ s => s)) ∧
  (∀ o, Acts (.tmrest o) (fun x s => x.alike (fun x l => [x.a l]) ∧ x.accepted s [3] ∧ s.ticketTeam (x.a x.low) = none) still (fun _ s => s)) ∧
  (∀ o, Acts (.tmflush o) (fun x s => x.alike (fun x l => [x.a l]) ∧ x.accepted s [2, 3] ∧ s.ticketTeam (x.a x.low) = none) still (fun _ s => s)) ∧
  (∀ o, Acts (.tmkill o) (fun x s => x.alike (fun x l => [x.a l]) ∧ x.accepted s [2, 3] ∧ s.ticketTeam (x.a x.low) = none) still (fun _ s => s)) ∧
  (∀ o, Acts (.tkdone o) (fun x s => x.alike (fun x l => [x.a l]) ∧ x.accepted s [2] ∧ s.ticketTeam (x.a x.low) = none) still (fun _ s => s)) ∧
  (∀ (s : State) a, s.ticketSound a = true ↔ (∀ n, 4 ≤ n → n < 8 → s.ticketWord a n = 0) ∧ s.ticketWord a 2 / 2 ^ 48 % 2 ^ 16 = 0 ∧
    s.ticketWord a 2 / 2 ^ 4 % 2 ^ 28 = 0 ∧ s.ticketWord a 1 / 2 ^ 16 % 2 ^ 2 = 0) ∧
  (∀ (s : State) a st, st < 16 → s.ticketPlain a → (s.setTicketState a st).ticketState a = st) ∧
  (∀ o g i e, Does (.tmplace o) (fun x s => x.alike (fun x l => [x.a l]) ∧ x.accepted s [1] ∧ s.ticketTeam (x.a x.low) = some (g, i, e) ∧ e.reserved = true ∧ e.core = x.g.core ∧ s.findTeam e.team = none ∧
      (s.placeGangTeam g i e).2 = true ∧ s.heldWrites x.g.core ((s.placeGangTeam g i e).1.unclaim x.g.core (x.a x.low)) = []) (fun x s => (s.placeGangTeam g i e).1.unclaim x.g.core (x.a x.low))) ∧
  (∀ o s x g i e, Ready (.tmplace o) s x → let m := x.moved s
    x.alike (fun x l => [x.a l]) ∧ x.accepted m [1] ∧ m.ticketTeam (x.a x.low) = some (g, i, e) ∧ e.reserved = true ∧ e.core = x.g.core ∧ m.findTeam e.team = none ∧
      (m.placeGangTeam g i e).2 = true → m.heldWrites x.g.core ((m.placeGangTeam g i e).1.unclaim x.g.core (x.a x.low)) ≠ [] →
    exec (.tmplace o) s = .next (x.unrun ((x.note (m.afterHolds x.g.core ((m.placeGangTeam g i e).1.unclaim x.g.core (x.a x.low))) x.ex (fun _ => none) none).hold x.g x.g.lanes) x.g.lanes)) ∧
  (∀ o s x g i e, Ready (.tmplace o) s x → let m := x.moved s
    x.alike (fun x l => [x.a l]) ∧ x.accepted m [1] ∧ m.ticketTeam (x.a x.low) = some (g, i, e) ∧ e.reserved = true ∧ e.core = x.g.core ∧ m.findTeam e.team = none ∧
      (m.placeGangTeam g i e).2 = false →
    exec (.tmplace o) s = .next (x.unrun ((x.note ((m.placeGangTeam g i e).1) x.ex (fun _ => none) none).hold x.g x.g.lanes) x.g.lanes)) ∧
  (∀ o g i e, WaitsInTurn (.tmplace o) (fun x s => x.alike (fun x l => [x.a l]) ∧ x.accepted s [1] ∧ s.ticketTeam (x.a x.low) = some (g, i, e) ∧ (e.reserved = false ∨ e.core ≠ x.g.core ∨ (s.findTeam e.team).isSome = true)) (fun _ => none)) ∧
  (∀ (s : State) g i e l u ms, s.findLaunch g.launch = some l →
    s.preloadAll l.ctx ((g.index * l.kd.teams + i) * 1024) e.asked l.preload (32 * l.kd.weaves) = (u, .ok ms) →
    u.findTeam e.team = none → l.kd.weaves ≤ (u.core e.core).freeSlots.length → let t := (s.placeGangTeam g i e).1
    (s.placeGangTeam g i e).2 = true ∧ (u.ticketPlain e.ticket → t.ticketState e.ticket = 2) ∧
    (t.findTeam e.team).map (·.1) = some e.core ∧
    (t.team e.team).kd = l.kd ∧ (t.team e.team).ctx = l.ctx ∧ (t.team e.team).started = g.started ∧
    ∀ w k, w < l.kd.weaves → (u.core e.core).freeSlots[w]? = some k →
      (t.weave e.core k).team = some e.team ∧ (t.weave e.core k).index = w ∧
      ∀ j, j < 32 → (t.thread e.core k j).mode = .ready ∧ (t.thread e.core k j).ctl = { pc := BitVec.ofNat 64 l.kd.image } ∧
        (t.thread e.core k j).fpCtl = l.kd.fpctl ∧ (t.thread e.core k j).regs = ms.getD (32 * w + j) []) ∧
  (∀ (s u : State) ctx base n asked p m r, s.preloadThread ctx base n asked [p] m = (u, .ok r) →
    ∃ v, (if p.perThread = true then (s.fwLoad ctx ((p.val.toNat + (base + n) * (if p.wide then 8 else 4)) % 2 ^ 64) (if p.wide then 8 else 4) asked).2 = .ok v
      else v = p.val.toNat) ∧
    ∀ k, tabGet ({} : RegCell) k r = if p.wide = true ∧ k = p.reg + 1 ∧ k ≠ 511 then { val := BitVec.ofNat 32 (v / 2 ^ 32) }
      else if k = p.reg ∧ k ≠ 511 then { val := BitVec.ofNat 32 v } else tabGet {} k m) ∧
  (∀ o g i e c y, Does (.tmsave o) (fun x s => x.alike (fun x l => [x.a l]) ∧ x.accepted s [2] ∧ s.ticketTeam (x.a x.low) = some (g, i, e) ∧ s.findTeam e.team = some (c, y) ∧ y.slots ≠ [] ∧ s.masked c y = false ∧
      y.pre.action ≠ 4 ∧ y.pre.stopping = true ∧ (s.carrySave c y).findTeam e.team = none ∧ s.heldWrites x.g.core (s.carrySave c y) = []) (fun x s => s.carrySave c y)) ∧
  (∀ o s x g i e c y, Ready (.tmsave o) s x → let m := x.moved s
    x.alike (fun x l => [x.a l]) ∧ x.accepted m [2] ∧ m.ticketTeam (x.a x.low) = some (g, i, e) ∧ m.findTeam e.team = some (c, y) ∧ y.slots ≠ [] ∧ m.masked c y = false ∧
      y.pre.action ≠ 4 ∧ y.pre.stopping = true ∧ (m.carrySave c y).findTeam e.team = none →
    exec (.tmsave o) s = .next (if m.heldWrites x.g.core (m.carrySave c y) = [] then x.settled (m.carrySave c y)
      else x.unrun ((x.note (m.afterHolds x.g.core (m.carrySave c y)) x.ex (fun _ => none) none).hold x.g x.g.lanes) x.g.lanes)) ∧
  (∀ o s x g i e c y, Ready (.tmsave o) s x → let m := x.moved s
    x.alike (fun x l => [x.a l]) ∧ x.accepted m [2] ∧ m.ticketTeam (x.a x.low) = some (g, i, e) ∧ m.findTeam e.team = some (c, y) ∧ y.slots ≠ [] ∧ m.masked c y = false ∧
      y.pre.action ≠ 4 ∧ y.pre.stopping = true ∧ ((m.carrySave c y).findTeam e.team).isSome = true →
    exec (.tmsave o) s = .next (x.unrun ((x.note (m.carrySave c y) x.ex (fun _ => none) none).hold x.g x.g.lanes) x.g.lanes)) ∧
  (∀ o g i e c y, WaitsInTurn (.tmsave o) (fun x s => x.alike (fun x l => [x.a l]) ∧ x.accepted s [2] ∧ s.ticketTeam (x.a x.low) = some (g, i, e) ∧ s.findTeam e.team = some (c, y) ∧ y.slots ≠ [] ∧ (s.masked c y = true ∨ y.pre.action = 4)) (fun _ => none)) ∧
  (∀ o g i e, Acts (.tmsave o) (fun x s => x.alike (fun x l => [x.a l]) ∧ x.accepted s [2] ∧ s.ticketTeam (x.a x.low) = some (g, i, e) ∧ (s.findTeam e.team = none ∨ ∃ c y, s.findTeam e.team = some (c, y) ∧ y.slots = [])) still (fun _ s => s)) ∧
  (∀ (s : State) c y, (s.rollTeam c y).quiet c y = true → (s.rollTeam c y).backsHeld c y = false → s.carrySave c y = (s.rollTeam c y).saveTeam y.id) ∧
  (∀ (s : State) n c y, s.findTeam n = some (c, y) → let d := ((y.maps.map (·.1)).foldl (fun s e => s.spadClear n e) s).removeTeam c n
    let u := ({ d with free := d.free + 1 + 229376 } : State).writeArea (s.savedForm c y)
    (u.ticketPlain y.ticket → (s.saveTeam n).ticketState y.ticket = 3) ∧ tabFind n (d.core c).teams = none ∧
    ((∀ k ∈ s.cores, ∀ z ∈ k.2.teams, z.2.maps = []) → tabFind n ((s.saveTeam n).core c).teams = none) ∧
    (∃ v, (s.saveTeam n).saved.getLast? = some v ∧ v.team.id = y.id ∧ v.team.kd = y.kd ∧ v.team.ctx = y.ctx)) ∧
  (∀ (s : State) c y w k, y.slots = [k] → (s.weave c k).index = w → ∃ v : Weave, tabFind w (s.savedForm c y).weaves = some v ∧
    ∀ l n, s.liveAt c k l = none → (v.thread l).reg n = (s.thread c k l).reg n) ∧
  (∀ o g i e v, Does (.tmrest o) (fun x s => x.alike (fun x l => [x.a l]) ∧ x.accepted s [3] ∧ s.ticketTeam (x.a x.low) = some (g, i, e) ∧ s.saved.find? (fun v => v.team.id = e.team) = some v ∧ e.reserved = true ∧
      e.core = x.g.core ∧ s.roomFor e.core v = true ∧ s.areaHolds v = true ∧ (s.restoreTeam e.core v).granted e.team = true ∧ s.heldWrites x.g.core (((s.restoreTeam e.core v).resumeTeam e.team (x.a x.low) g.started).unclaim x.g.core (x.a x.low)) = []) (fun x s => ((s.restoreTeam e.core v).resumeTeam e.team (x.a x.low) g.started).unclaim x.g.core (x.a x.low))) ∧
  (∀ o s x g i e v, Ready (.tmrest o) s x → let m := x.moved s
    x.alike (fun x l => [x.a l]) ∧ x.accepted m [3] ∧ m.ticketTeam (x.a x.low) = some (g, i, e) ∧ m.saved.find? (fun v => v.team.id = e.team) = some v ∧ e.reserved = true ∧
      e.core = x.g.core ∧ m.roomFor e.core v = true ∧ m.areaHolds v = true ∧ (m.restoreTeam e.core v).granted e.team = true →
    exec (.tmrest o) s = .next (if m.heldWrites x.g.core (((m.restoreTeam e.core v).resumeTeam e.team (x.a x.low) g.started).unclaim x.g.core (x.a x.low)) = [] then x.settled (((m.restoreTeam e.core v).resumeTeam e.team (x.a x.low) g.started).unclaim x.g.core (x.a x.low))
      else x.unrun ((x.note (m.afterHolds x.g.core (((m.restoreTeam e.core v).resumeTeam e.team (x.a x.low) g.started).unclaim x.g.core (x.a x.low))) x.ex (fun _ => none) none).hold x.g x.g.lanes) x.g.lanes)) ∧
  (∀ o s x g i e v, Ready (.tmrest o) s x → let m := x.moved s
    x.alike (fun x l => [x.a l]) ∧ x.accepted m [3] ∧ m.ticketTeam (x.a x.low) = some (g, i, e) ∧ m.saved.find? (fun v => v.team.id = e.team) = some v ∧ e.reserved = true ∧
      e.core = x.g.core ∧ m.roomFor e.core v = true ∧ m.areaHolds v = true ∧ (m.restoreTeam e.core v).granted e.team = false →
    exec (.tmrest o) s = .next (x.unrun ((x.note (m.restoreTeam e.core v) x.ex (fun _ => none) none).hold x.g x.g.lanes) x.g.lanes)) ∧
  (∀ o g i e v, Does (.tmrest o) (fun x s => x.alike (fun x l => [x.a l]) ∧ x.accepted s [3] ∧ s.ticketTeam (x.a x.low) = some (g, i, e) ∧ s.saved.find? (fun v => v.team.id = e.team) = some v ∧ e.reserved = true ∧
      e.core = x.g.core ∧ s.roomFor e.core v = true ∧ s.areaHolds v = false ∧ s.heldWrites x.g.core (s.contextKill v.team.ctx 5 0) = []) (fun x s => s.contextKill v.team.ctx 5 0)) ∧
  (∀ o s x g i e v, Ready (.tmrest o) s x → let m := x.moved s
    x.alike (fun x l => [x.a l]) ∧ x.accepted m [3] ∧ m.ticketTeam (x.a x.low) = some (g, i, e) ∧ m.saved.find? (fun v => v.team.id = e.team) = some v ∧ e.reserved = true ∧
      e.core = x.g.core ∧ m.roomFor e.core v = true ∧ m.areaHolds v = false → m.heldWrites x.g.core (m.contextKill v.team.ctx 5 0) ≠ [] →
    exec (.tmrest o) s = .next (x.unrun ((x.note (m.afterHolds x.g.core (m.contextKill v.team.ctx 5 0)) x.ex (fun _ => none) none).hold x.g x.g.lanes) x.g.lanes)) ∧
  (∀ o g i e, Does (.tmrest o) (fun x s => x.alike (fun x l => [x.a l]) ∧ x.accepted s [3] ∧ s.ticketTeam (x.a x.low) = some (g, i, e) ∧ s.saved.find? (fun v => v.team.id = e.team) = none ∧
      (s.findTeam e.team).isSome = true ∧ s.granted e.team = true ∧ s.heldWrites x.g.core ((s.resumeTeam e.team (x.a x.low) g.started).unclaim x.g.core (x.a x.low)) = []) (fun x s => (s.resumeTeam e.team (x.a x.low) g.started).unclaim x.g.core (x.a x.low))) ∧
  (∀ o s x g i e, Ready (.tmrest o) s x → let m := x.moved s
    x.alike (fun x l => [x.a l]) ∧ x.accepted m [3] ∧ m.ticketTeam (x.a x.low) = some (g, i, e) ∧ m.saved.find? (fun v => v.team.id = e.team) = none ∧
      (m.findTeam e.team).isSome = true ∧ m.granted e.team = true → m.heldWrites x.g.core ((m.resumeTeam e.team (x.a x.low) g.started).unclaim x.g.core (x.a x.low)) ≠ [] →
    exec (.tmrest o) s = .next (x.unrun ((x.note (m.afterHolds x.g.core ((m.resumeTeam e.team (x.a x.low) g.started).unclaim x.g.core (x.a x.low))) x.ex (fun _ => none) none).hold x.g x.g.lanes) x.g.lanes)) ∧
  (∀ o g i e, WaitsInTurn (.tmrest o) (fun x s => x.alike (fun x l => [x.a l]) ∧ x.accepted s [3] ∧ s.ticketTeam (x.a x.low) = some (g, i, e) ∧ s.saved.find? (fun v => v.team.id = e.team) = none ∧
      (s.findTeam e.team).isSome = true ∧ s.granted e.team = false) (fun _ => none)) ∧
  (∀ o g i e v, WaitsInTurn (.tmrest o) (fun x s => x.alike (fun x l => [x.a l]) ∧ x.accepted s [3] ∧ s.ticketTeam (x.a x.low) = some (g, i, e) ∧ s.saved.find? (fun v => v.team.id = e.team) = some v ∧
      (e.reserved = false ∨ e.core ≠ x.g.core ∨ s.roomFor e.core v = false)) (fun _ => none)) ∧
  (∀ (s : State) c (v : SavedTeam), let t := s.restoreTeam c v
    (tabFind v.team.id (t.core c).teams).isSome = true ∧ (∀ u ∈ t.saved, u.team.id ≠ v.team.id) ∧
    ∀ (n i : Nat) (w : Weave) (k : Nat), (v.weaves : List (Nat × Weave))[n]? = some (i, w) → (s.core c).freeSlots[n]? = some k → ∀ l, (t.thread c k l).regs = (w.thread l).regs) ∧
  (∀ (s : State) n a on, ((s.resumeTeam n a on).findTeam n).isSome = (s.findTeam n).isSome ∧
    (s.ticketPlain a → (s.resumeTeam n a on).ticketState a = 2)) ∧
  (∀ o g i e, Does (.tmflush o) (fun x s => x.alike (fun x l => [x.a l]) ∧ x.accepted s [2, 3] ∧ s.ticketTeam (x.a x.low) = some (g, i, e) ∧ (∀ c y, s.findTeam e.team = some (c, y) → s.backsHeld c y = false) ∧ s.heldWrites x.g.core (s.flushTeam e.team (x.a x.low) true) = []) (fun x s => s.flushTeam e.team (x.a x.low) true)) ∧
  (∀ o s x g i e, Ready (.tmflush o) s x → let m := x.moved s
    x.alike (fun x l => [x.a l]) ∧ x.accepted m [2, 3] ∧ m.ticketTeam (x.a x.low) = some (g, i, e) ∧ (∀ c y, m.findTeam e.team = some (c, y) → m.backsHeld c y = false) → m.heldWrites x.g.core (m.flushTeam e.team (x.a x.low) true) ≠ [] →
    exec (.tmflush o) s = .next (x.unrun ((x.note (m.afterHolds x.g.core (m.flushTeam e.team (x.a x.low) true)) x.ex (fun _ => none) none).hold x.g x.g.lanes) x.g.lanes)) ∧
  (∀ o g i e, Does (.tmkill o) (fun x s => x.alike (fun x l => [x.a l]) ∧ x.accepted s [2, 3] ∧ s.ticketTeam (x.a x.low) = some (g, i, e) ∧ (∀ c y, s.findTeam e.team = some (c, y) → s.backsHeld c y = false) ∧ s.heldWrites x.g.core ((s.flushTeam e.team (x.a x.low) false).settleGang g.id) = []) (fun x s => (s.flushTeam e.team (x.a x.low) false).settleGang g.id)) ∧
  (∀ o s x g i e, Ready (.tmkill o) s x → let m := x.moved s
    x.alike (fun x l => [x.a l]) ∧ x.accepted m [2, 3] ∧ m.ticketTeam (x.a x.low) = some (g, i, e) ∧ (∀ c y, m.findTeam e.team = some (c, y) → m.backsHeld c y = false) → m.heldWrites x.g.core ((m.flushTeam e.team (x.a x.low) false).settleGang g.id) ≠ [] →
    exec (.tmkill o) s = .next (x.unrun ((x.note (m.afterHolds x.g.core ((m.flushTeam e.team (x.a x.low) false).settleGang g.id)) x.ex (fun _ => none) none).hold x.g x.g.lanes) x.g.lanes)) ∧
  (∀ o s x g i e c y, Ready (.tmflush o) s x → let m := x.moved s
    x.alike (fun x l => [x.a l]) ∧ x.accepted m [2, 3] ∧ m.ticketTeam (x.a x.low) = some (g, i, e) ∧ m.findTeam e.team = some (c, y) ∧ m.backsHeld c y = true →
    exec (.tmflush o) s = .next (x.unrun ((x.note (m.waitBacks c y) x.ex (fun _ => none) none).hold x.g x.g.lanes) x.g.lanes)) ∧
  (∀ o s x g i e c y, Ready (.tmkill o) s x → let m := x.moved s
    x.alike (fun x l => [x.a l]) ∧ x.accepted m [2, 3] ∧ m.ticketTeam (x.a x.low) = some (g, i, e) ∧ m.findTeam e.team = some (c, y) ∧ m.backsHeld c y = true →
    exec (.tmkill o) s = .next (x.unrun ((x.note (m.waitBacks c y) x.ex (fun _ => none) none).hold x.g x.g.lanes) x.g.lanes)) ∧
  (∀ (s : State) n a relaunch, let t := s.flushTeam n a relaunch
    ((s.dropTeam n).ticketPlain a → t.ticketState a = if relaunch = true then 0 else 5) ∧
    (∀ c y, s.findTeam n = some (c, y) → tabFind n ((s.dropTeam n).core c).teams = none ∧
      ((∀ k ∈ s.cores, ∀ z ∈ k.2.teams, z.2.maps = []) → tabFind n (t.core c).teams = none)) ∧ ∀ v ∈ t.saved, v.team.id ≠ n) ∧
  (∀ o g i e, Does (.tkdone o) (fun x s => x.alike (fun x l => [x.a l]) ∧ x.accepted s [2] ∧ s.ticketTeam (x.a x.low) = some (g, i, e) ∧ e.completed = true ∧ s.heldWrites x.g.core (((s.setTicketState (x.a x.low) 4).modGangTeam e.team (fun e => { e with reported := true })).settleGang g.id) = []) (fun x s => ((s.setTicketState (x.a x.low) 4).modGangTeam e.team (fun e => { e with reported := true })).settleGang g.id)) ∧
  (∀ o s x g i e, Ready (.tkdone o) s x → let m := x.moved s
    x.alike (fun x l => [x.a l]) ∧ x.accepted m [2] ∧ m.ticketTeam (x.a x.low) = some (g, i, e) ∧ e.completed = true → m.heldWrites x.g.core (((m.setTicketState (x.a x.low) 4).modGangTeam e.team (fun e => { e with reported := true })).settleGang g.id) ≠ [] →
    exec (.tkdone o) s = .next (x.unrun ((x.note (m.afterHolds x.g.core (((m.setTicketState (x.a x.low) 4).modGangTeam e.team (fun e => { e with reported := true })).settleGang g.id)) x.ex (fun _ => none) none).hold x.g x.g.lanes) x.g.lanes)) ∧
  (∀ o g i e, WaitsInTurn (.tkdone o) (fun x s => x.alike (fun x l => [x.a l]) ∧ x.accepted s [2] ∧ s.ticketTeam (x.a x.low) = some (g, i, e) ∧ e.completed = false) (fun _ => none)) ∧
  (∀ o, Acts (.tkclaim o) (fun x s => x.alike (fun x l => [x.a l]) ∧ s.findTicket (x.a x.low) x.g.core = none) (gives fun _ _ => 0)
    (fun x s => x.giveAll s 0)) ∧
  (∀ o a, Does (.tkclaim o) (fun x s => x.alike (fun x l => [x.a l]) ∧ s.findTicket (x.a x.low) x.g.core = some a ∧
      s.heldWrites x.g.core (x.giveAll ((s.setTicketState a 1).modCore x.g.core (fun k => { k with fwTickets := insertNat a k.fwTickets })) a) = [])
    (fun x s => x.giveAll ((s.setTicketState a 1).modCore x.g.core (fun k => { k with fwTickets := insertNat a k.fwTickets })) a)) ∧
  (∀ (s : State) counter core a, s.findTicket counter core = some a →
    s.ticketState a = 0 ∧ s.ticketWord a 1 / 2 ^ 18 % 2 ^ 8 = core ∧ s.ticketSound a = true ∧
    s.readPhys (s.fabric (counter + 8)) 8 / 2 ^ 17 = 0 ∧ ∀ n, 4 ≤ n → n < 8 → s.readPhys (s.fabric (counter + 8 * n)) 8 = 0) ∧
  (∀ o s x u loc leaf, Ready (.qpost o) s x → x.alike (fun x l => [x.a l, x.b l]) → x.b x.low < 64 →
    (x.moved s).atomPending x.g.core x.g.slot x.ex = false →
    x.checkOnce (x.moved s) { rd := true, align := 64, size := 64 } (x.a x.low) = (u, .ok loc leaf) →
    let v := u.prepLoad x.g.core x.g.slot { l := x.low, ea := x.a x.low, loc := loc, leaf := leaf } 64 true
    let q := (x.moved s).queue (x.b x.low)
    let used := v.readPhys (v.fabric (q.word 3)) 8 - q.word 4
    let t := x.giveAll (v.enqueue (x.b x.low) ((loc.span 64).map (v.seenByte x.g.core x.g.slot x.low))) 0
    v.anyPoison (loc.span 64) = false →
    ((q.active = false ∨ q.owner ≠ x.agent.ctx ∨ (q.word 1).testBit 3 = false) → exec (.qpost o) s = .next (x.settled (x.giveAll v 2))) ∧
    (q.active = true → q.owner = x.agent.ctx → (q.word 1).testBit 3 = true →
      (2 ^ q.logN ≤ used → exec (.qpost o) s = .next (x.settled (x.giveAll v 1))) ∧
      (used < 2 ^ q.logN → v.drained x.g.core x.g.slot = true → v.heldWrites x.g.core t = [] → exec (.qpost o) s = .next (x.settled t)))) ∧
  (∀ o, Raises (.qpost o) (fun x _ => x.alike (fun x l => [x.a l, x.b l]) ∧ 64 ≤ x.b x.low) 8 0x22 (fun x => x.ex))

/-- Ready with alike operands whose reserved bits are zero (each form answers a next state on conditions on the state and operands alone; completion is where it writes d): lsreq on a FREE entry and a known peer makes it PENDING, of the next generation, sends the request and waits; the answer completes it with the identifier in bits 31 to 16, or with the status; an entry in use gives 1, an unknown peer 6. lsrenew asks for a new term and completes with the status, lsdrop starts the end of the lease, in which its lines are written back before the release goes out, and completes once the entry is free. exlend sets or clears the extent's longest term, lsrecall starts a recall and completes when it has ended, lsrd writes the 128-bit entry. Reserved bits raise the illegal-instruction trap 6. Completion, exec answering a next state under conditions on the state and the operands alone, is stated of lsreq, lsrenew, lsdrop, exlend, lsrecall, lsrd. Reserved operand bits, the lanes that raise them and the identifier 0 are the model's reading (log entry 47); CAUSE of an earlier lease (76) and an lsrecall ended by a release (77) are its choices. -/
def Obligations.LeaseInstructions : Prop :=
  (∀ o, Raises (.lsreq o) (fun x _ => ∃ l ∈ x.ex, 2 ^ 34 ≤ x.a l ∨ 2 ^ 64 ≤ x.b l) 1 6 (fun x => x.ex.filter (fun l => 2 ^ 34 ≤ x.a l || 2 ^ 64 ≤ x.b l))) ∧
  (∀ o, Raises (.lsrenew o) (fun x _ => ∃ l ∈ x.ex, 2 ^ 16 ≤ x.a l ∨ 2 ^ 64 ≤ x.b l) 1 6 (fun x => x.ex.filter (fun l => 2 ^ 16 ≤ x.a l || 2 ^ 64 ≤ x.b l))) ∧
  (∀ o, Raises (.lsdrop o) (fun x _ => ∃ l ∈ x.ex, 2 ^ 16 ≤ x.a l ∨ 2 ^ 32 ≤ x.b l) 1 6 (fun x => x.ex.filter (fun l => 2 ^ 16 ≤ x.a l || 2 ^ 32 ≤ x.b l))) ∧
  (∀ o, Raises (.exlend o) (fun x _ => ∃ l ∈ x.ex, 2 ^ 12 ≤ x.a l ∨ 2 ^ 64 ≤ x.b l) 1 6 (fun x => x.ex.filter (fun l => 2 ^ 12 ≤ x.a l || 2 ^ 64 ≤ x.b l))) ∧
  (∀ o, Raises (.lsrecall o) (fun x _ => ∃ l ∈ x.ex, 2 ^ 12 ≤ x.a l ∨ 2 ^ 32 ≤ x.b l) 1 6 (fun x => x.ex.filter (fun l => 2 ^ 12 ≤ x.a l || 2 ^ 32 ≤ x.b l))) ∧
  (∀ o, Raises (.lsrd o) (fun x _ => ∃ l ∈ x.ex, 2 ^ 13 ≤ x.a l ∨ 2 ^ 32 ≤ x.b l) 1 6 (fun x => x.ex.filter (fun l => 2 ^ 13 ≤ x.a l || 2 ^ 32 ≤ x.b l))) ∧
  (∀ o s x, Ready (.lsreq o) s x → x.alike (fun x l => [x.a l, x.b l]) → (∀ l ∈ x.ex, x.a l < 2 ^ 34 ∧ x.b l < 2 ^ 64) → x.asked x.low = false → (s.borrower (x.a x.low / 2 ^ 22 % 2 ^ 12)).st = 0 → s.knows (x.a x.low % 2 ^ 10) = true →
    ∃ t, exec (.lsreq o) s = .next t ∧ (∀ pa, t.memByte pa = s.memByte pa) ∧ t.borrower (x.a x.low / 2 ^ 22 % 2 ^ 12) = { s.borrower (x.a x.low / 2 ^ 22 % 2 ^ 12) with st := 1, gen := (s.borrower (x.a x.low / 2 ^ 22 % 2 ^ 12)).gen % 15 + 1, peer := x.a x.low % 2 ^ 10, ext := x.a x.low / 2 ^ 10 % 2 ^ 12, pent := 0, term := x.b x.low, since := s.time, ask := some (x.b x.low), answer := none } ∧ t.sent = (1, x.a x.low % 2 ^ 10, (x.a x.low / 2 ^ 22 % 2 ^ 12)) :: s.sent ∧
      ∀ l ∈ x.ex, (t.thread x.g.core x.g.slot l).mode = .waiting .retry ∧ (t.thread x.g.core x.g.slot l).ctl = (s.thread x.g.core x.g.slot l).ctl ∧
        ((t.thread x.g.core x.g.slot l).mark.map (·.pc)) = some x.g.pc) ∧
  (∀ o, Does (.lsreq o) (fun x s => x.alike (fun x l => [x.a l, x.b l]) ∧ (∀ l ∈ x.ex, x.a l < 2 ^ 34 ∧ x.b l < 2 ^ 64) ∧ x.asked x.low = false ∧ (s.borrower (x.a x.low / 2 ^ 22 % 2 ^ 12)).st ≠ 0) (fun x s => x.giveAll s 1)) ∧
  (∀ o, Does (.lsreq o) (fun x s => x.alike (fun x l => [x.a l, x.b l]) ∧ (∀ l ∈ x.ex, x.a l < 2 ^ 34 ∧ x.b l < 2 ^ 64) ∧ x.asked x.low = false ∧ (s.borrower (x.a x.low / 2 ^ 22 % 2 ^ 12)).st = 0 ∧ s.knows (x.a x.low % 2 ^ 10) = false) (fun x s => x.giveAll s 6)) ∧
  (∀ c, ∀ o, Does (.lsreq o) (fun x s => x.alike (fun x l => [x.a l, x.b l]) ∧ (∀ l ∈ x.ex, x.a l < 2 ^ 34 ∧ x.b l < 2 ^ 64) ∧ x.asked x.low = true ∧ (s.borrower (x.a x.low / 2 ^ 22 % 2 ^ 12)).answer = some c) (fun x s => x.giveAll (s.modBorrower (x.a x.low / 2 ^ 22 % 2 ^ 12) (fun b => { b with answer := none })) (if c = 0 then ((s.borrower (x.a x.low / 2 ^ 22 % 2 ^ 12)).gen * 2 ^ 12 + (x.a x.low / 2 ^ 22 % 2 ^ 12)) * 2 ^ 16 else c))) ∧
  (∀ o s x, Ready (.lsrenew o) s x → x.alike (fun x l => [x.a l, x.b l]) → (∀ l ∈ x.ex, x.a l < 2 ^ 16 ∧ x.b l < 2 ^ 64) → x.asked x.low = false → (s.borrower (x.a x.low % 2 ^ 12)).st = 2 → (s.borrower (x.a x.low % 2 ^ 12)).gen = x.a x.low / 2 ^ 12 →
    ∃ t, exec (.lsrenew o) s = .next t ∧ (∀ pa, t.memByte pa = s.memByte pa) ∧ t.borrower (x.a x.low % 2 ^ 12) = { s.borrower (x.a x.low % 2 ^ 12) with since := s.time, ask := some (x.b x.low), answer := none } ∧ t.sent = (2, (s.borrower (x.a x.low % 2 ^ 12)).peer, (x.a x.low % 2 ^ 12)) :: s.sent ∧
      ∀ l ∈ x.ex, (t.thread x.g.core x.g.slot l).mode = .waiting .retry ∧ (t.thread x.g.core x.g.slot l).ctl = (s.thread x.g.core x.g.slot l).ctl ∧
        ((t.thread x.g.core x.g.slot l).mark.map (·.pc)) = some x.g.pc) ∧
  (∀ o, Does (.lsrenew o) (fun x s => x.alike (fun x l => [x.a l, x.b l]) ∧ (∀ l ∈ x.ex, x.a l < 2 ^ 16 ∧ x.b l < 2 ^ 64) ∧ x.asked x.low = false ∧ ¬ ((s.borrower (x.a x.low % 2 ^ 12)).st = 2 ∧ (s.borrower (x.a x.low % 2 ^ 12)).gen = x.a x.low / 2 ^ 12)) (fun x s => x.giveAll s 1)) ∧
  (∀ c, ∀ o, Does (.lsrenew o) (fun x s => x.alike (fun x l => [x.a l, x.b l]) ∧ (∀ l ∈ x.ex, x.a l < 2 ^ 16 ∧ x.b l < 2 ^ 64) ∧ x.asked x.low = true ∧ (s.borrower (x.a x.low % 2 ^ 12)).answer = some c) (fun x s => x.giveAll (s.modBorrower (x.a x.low % 2 ^ 12) (fun b => { b with answer := none })) c)) ∧
  (∀ o s x, Ready (.lsdrop o) s x → x.alike (fun x l => [x.a l]) → (∀ l ∈ x.ex, x.a l < 2 ^ 16 ∧ x.b l < 2 ^ 32) → x.asked x.low = false → (s.borrower (x.a x.low % 2 ^ 12)).st = 2 → (s.borrower (x.a x.low % 2 ^ 12)).gen = x.a x.low / 2 ^ 12 →
    ∃ t, exec (.lsdrop o) s = .next t ∧ (∀ pa, t.memByte pa = s.memByte pa) ∧ t.borrower (x.a x.low % 2 ^ 12) = { s.borrower (x.a x.low % 2 ^ 12) with st := 3, why := 4, released := false } ∧ t.sent = s.sent ∧
      ∀ l ∈ x.ex, (t.thread x.g.core x.g.slot l).mode = .waiting .retry ∧ (t.thread x.g.core x.g.slot l).ctl = (s.thread x.g.core x.g.slot l).ctl ∧
        ((t.thread x.g.core x.g.slot l).mark.map (·.pc)) = some x.g.pc) ∧
  (∀ o, Does (.lsdrop o) (fun x s => x.alike (fun x l => [x.a l]) ∧ (∀ l ∈ x.ex, x.a l < 2 ^ 16 ∧ x.b l < 2 ^ 32) ∧ x.asked x.low = false ∧ ¬ ((s.borrower (x.a x.low % 2 ^ 12)).st = 2 ∧ (s.borrower (x.a x.low % 2 ^ 12)).gen = x.a x.low / 2 ^ 12)) (fun x s => x.giveAll s 1)) ∧
  (∀ o, Does (.lsdrop o) (fun x s => x.alike (fun x l => [x.a l]) ∧ (∀ l ∈ x.ex, x.a l < 2 ^ 16 ∧ x.b l < 2 ^ 32) ∧ x.asked x.low = true ∧ ¬ ((s.borrower (x.a x.low % 2 ^ 12)).st = 3 ∧ (s.borrower (x.a x.low % 2 ^ 12)).gen = x.a x.low / 2 ^ 12)) (fun x s => x.giveAll s (if (s.borrower (x.a x.low % 2 ^ 12)).cause = 3 then 7 else 0))) ∧
  (∀ o, Acts (.exlend o) (fun x _ => x.alike (fun x l => [x.a l, x.b l]) ∧ (∀ l ∈ x.ex, x.a l < 2 ^ 12 ∧ x.b l < 2 ^ 64)) still (fun x s => { s with lendable := if x.b x.low = 0 then tabErase (x.a x.low) s.lendable else tabSet (x.a x.low) (x.b x.low) s.lendable })) ∧
  (∀ o s x, Ready (.lsrecall o) s x → x.alike (fun x l => [x.a l]) → (∀ l ∈ x.ex, x.a l < 2 ^ 12 ∧ x.b l < 2 ^ 32) → x.asked x.low = false → (s.lender (x.a x.low)).st = 2 →
    ∃ t, exec (.lsrecall o) s = .next t ∧ (∀ pa, t.memByte pa = s.memByte pa) ∧ t.lender (x.a x.low) = { s.lender (x.a x.low) with st := 3, byTerm := false } ∧ t.sent = s.sent ∧
      ∀ l ∈ x.ex, (t.thread x.g.core x.g.slot l).mode = .waiting .retry ∧ (t.thread x.g.core x.g.slot l).ctl = (s.thread x.g.core x.g.slot l).ctl ∧
        ((t.thread x.g.core x.g.slot l).mark.map (·.pc)) = some x.g.pc) ∧
  (∀ o, Does (.lsrecall o) (fun x s => x.alike (fun x l => [x.a l]) ∧ (∀ l ∈ x.ex, x.a l < 2 ^ 12 ∧ x.b l < 2 ^ 32) ∧ x.asked x.low = false ∧ (s.lender (x.a x.low)).st ≠ 2 ∧ (s.lender (x.a x.low)).st ≠ 3) (fun x s => x.giveAll s 1)) ∧
  (∀ o, Does (.lsrecall o) (fun x s => x.alike (fun x l => [x.a l]) ∧ (∀ l ∈ x.ex, x.a l < 2 ^ 12 ∧ x.b l < 2 ^ 32) ∧ x.asked x.low = true ∧ (s.lender (x.a x.low)).st ≠ 3) (fun x s => x.giveAll s (if (s.lender (x.a x.low)).cause = 3 then 7 else 0))) ∧
  (∀ o, Acts (.lsrd o) (fun x _ => x.alike (fun x l => [x.a l]) ∧ (∀ l ∈ x.ex, x.a l < 2 ^ 13 ∧ x.b l < 2 ^ 32)) (gives fun x s =>
      (if (x.a x.low).testBit 12 then s.lender (x.a x.low % 2 ^ 12) else s.borrower (x.a x.low % 2 ^ 12)).read (x.a x.low % 2 ^ 12))
    (fun x s => x.giveAll s ((if (x.a x.low).testBit 12 then s.lender (x.a x.low % 2 ^ 12) else s.borrower (x.a x.low % 2 ^ 12)).read (x.a x.low % 2 ^ 12)))) ∧
  (∀ (l : Lease) i, l.read i = l.term * 2 ^ 64 + l.st * 2 ^ 61 + l.gen * 2 ^ 57 + l.peer * 2 ^ 47 + l.ext * 2 ^ 35 + l.pent * 2 ^ 23 +
    l.cause * 2 ^ 16 + (if l.gen = 0 then 0 else l.gen * 2 ^ 12 + i))

/-- Ready with alike operands: kyopen refuses a group above 4 with 0x12, an unknown peer with 6 and a full group with 0x10, else takes the key that the root of trust sets up (its outcome is a free value, log entry 20); kyclose frees a slot in use and writes 0, else 0x12; fmcand writes the manager word and sets this package's priority; exmig posts its command on 512 KiB frames that the ranges admit. twl.v writes the elements from vstart to vl of the tile slot that its window names to vd and goes on; without a window, or with vd misaligned for LMUL, it takes the illegal-instruction exception, misaligned or beyond the slot the access fault 5, and on a slot that is not ready it waits. Completion, exec answering a next state under conditions on the state and the operands alone, is stated of kyopen, kyclose, fmcand, exmig, twlV. The exception entry of the house cores is presumed (log entry 16); the addresses of exmig are the model's reading (48), the session a free value (20) and the order of the status codes of kyopen its choice (78). -/
def Obligations.KeysManagerMigrationHouse : Prop :=
  (∀ o, Does (.kyopen o) (fun x s => x.alike (fun x l => [x.a l, x.b l]) ∧ (∀ l ∈ x.ex, x.a l < 2 ^ 13 ∧ x.b l < 2 ^ 32) ∧ 4 < x.a x.low % 8) (fun x s => x.giveAll s 0x12)) ∧
  (∀ o, Does (.kyopen o) (fun x s => x.alike (fun x l => [x.a l, x.b l]) ∧ (∀ l ∈ x.ex, x.a l < 2 ^ 13 ∧ x.b l < 2 ^ 32) ∧ x.a x.low % 8 ≤ 4 ∧ s.knows (x.a x.low / 8) = false) (fun x s => x.giveAll s 6)) ∧
  (∀ o, Does (.kyopen o) (fun x s => x.alike (fun x l => [x.a l, x.b l]) ∧ (∀ l ∈ x.ex, x.a l < 2 ^ 13 ∧ x.b l < 2 ^ 32) ∧ x.a x.low % 8 ≤ 4 ∧ s.knows (x.a x.low / 8) = true ∧ s.freeKeys (x.a x.low % 8) = []) (fun x s => x.giveAll s 0x10)) ∧
  (∀ o, Does (.kyopen o) (fun x s => x.alike (fun x l => [x.a l, x.b l]) ∧ (∀ l ∈ x.ex, x.a l < 2 ^ 13 ∧ x.b l < 2 ^ 32) ∧ x.a x.low % 8 ≤ 4 ∧ s.knows (x.a x.low / 8) = true ∧ s.freeKeys (x.a x.low % 8) ≠ [])
    (fun x s => let r := s.openKey (x.a x.low % 8) (x.a x.low / 8) (BitVec.ofNat 32 (x.b x.low)); x.giveAll r.1 r.2)) ∧
  (∀ (s : State) group peer k, s.freeKeys group ≠ [] → let r := s.openKey group peer k
    (r.1.keys = s.keys ∧ (r.2 = 0x11 ∨ r.2 = 5)) ∨ ∃ n ∈ s.freeKeys group, r.1.keys = tabSet (group * 64 + n) (peer, k) s.keys ∧ r.2 = (n * 8 + group) * 2 ^ 16) ∧
  (∀ o, Does (.kyclose o) (fun x s => x.alike (fun x l => [x.a l]) ∧ (∀ l ∈ x.ex, x.a l < 2 ^ 9 ∧ x.b l < 2 ^ 32) ∧ (4 < x.a x.low % 8 ∨ tabFind (x.a x.low % 8 * 64 + x.a x.low / 8) s.keys = none)) (fun x s => x.giveAll s 0x12)) ∧
  (∀ o, Does (.kyclose o) (fun x s => x.alike (fun x l => [x.a l]) ∧ (∀ l ∈ x.ex, x.a l < 2 ^ 9 ∧ x.b l < 2 ^ 32) ∧ x.a x.low % 8 ≤ 4 ∧ (tabFind (x.a x.low % 8 * 64 + x.a x.low / 8) s.keys).isSome = true)
    (fun x s => x.giveAll { s with keys := tabErase (x.a x.low % 8 * 64 + x.a x.low / 8) s.keys } 0)) ∧
  (∀ o, Acts (.fmcand o) (fun x _ => x.ex ≠ []) (gives fun _ s => match s.fm.manager with
      | some p => if s.time < s.fm.expiry then p % 2 ^ 10 + (if p = s.pkg then 2 ^ 10 else 0) + 2 ^ 11 else 0
      | none => 0)
    (fun x s => x.giveAll { s with fm := { s.fm with priority := x.f.imm.toNat } } s.fmWord)) ∧
  (∀ o, EngPosts (.exmig o) (fun x l => [x.d l, x.a l, x.b l]) (fun x s => x.a x.low % 524288 = 0 ∧ x.b x.low % 524288 = 0 ∧
      x.d x.low % 524288 = 0 ∧ 0 < x.d x.low ∧ x.d x.low ≤ 2 ^ 39 ∧ s.exmigRange (s.exmigAddr (x.a x.low)) (x.d x.low) = none ∧
      s.exmigRange (s.exmigAddr (x.b x.low)) (x.d x.low) = none ∧
      meet (s.exmigAddr (x.a x.low)) (x.d x.low) (s.exmigAddr (x.b x.low)) (x.d x.low) = false)
    (fun x s => { x.engCmd (s.weave x.g.core x.g.slot).team .exmig with
      len := x.d x.low, src := s.exmigAddr (x.a x.low), dst := s.exmigAddr (x.b x.low) })) ∧
  (∀ vd rs1 rs2 (s : State), let h := s.house s.cur.house; let off := h.xreg rs2.toNat; let eb := h.sew / 8
    (tabFind (h.xreg rs1.toNat % 16) s.windows = none → exec (.twlV vd rs1 rs2) s = .next (s.modHouse s.cur.house (fun h => h.except 2))) ∧
    (∀ k, tabFind (h.xreg rs1.toNat % 16) s.windows = some k → vd.toNat % max 1 h.lmul ≠ 0 →
      exec (.twlV vd rs1 rs2) s = .next (s.modHouse s.cur.house (fun h => h.except 2))) ∧
    (∀ k, tabFind (h.xreg rs1.toNat % 16) s.windows = some k → vd.toNat % max 1 h.lmul = 0 → off % eb ≠ 0 →
      exec (.twlV vd rs1 rs2) s = .next (s.modHouse s.cur.house (fun h => h.except 5))) ∧
    (∀ core phys, tabFind (h.xreg rs1.toNat % 16) s.windows = some (core, phys) → vd.toNat % max 1 h.lmul = 0 → off % eb = 0 →
      (s.core core).physSlot phys = none → exec (.twlV vd rs1 rs2) s = .next (s.modHouse s.cur.house (fun h => { h with waiting := true }))) ∧
    ∀ core phys y i q, tabFind (h.xreg rs1.toNat % 16) s.windows = some (core, phys) → vd.toNat % max 1 h.lmul = 0 → off % eb = 0 →
      (s.core core).physSlot phys = some (y, i) → (s.team y).tslot i = q →
      (q.st ≠ .ready → exec (.twlV vd rs1 rs2) s = .next (s.modHouse s.cur.house (fun h => { h with waiting := true }))) ∧
      (q.st = .ready → q.len < off + h.vl * eb → exec (.twlV vd rs1 rs2) s = .next (s.modHouse s.cur.house (fun h => h.except 5))) ∧
      (q.st = .ready → off + h.vl * eb ≤ q.len → ∃ t, exec (.twlV vd rs1 rs2) s = .next t ∧ { t with houses := s.houses } = s ∧
        (t.house s.cur.house).pc = h.pc + 4 ∧ (t.house s.cur.house).vstart = 0 ∧
        { t.house s.cur.house with v := h.v, pc := h.pc, vstart := h.vstart, waiting := h.waiting } = h ∧
        ∀ j, tabGet 0 j (t.house s.cur.house).v = if vd.toNat * (Config.houseVlen + 1) + h.vstart * eb ≤ j ∧ j < vd.toNat * (Config.houseVlen + 1) + h.vl * eb then
          tabGet 0 (q.base.getD 0 + off + (j - vd.toNat * (Config.houseVlen + 1))) (s.team y).opbuf else tabGet 0 j h.v)) ∧
  (∀ (h : House) c, (h.except c).mepc = h.pc ∧ (h.except c).mcause = BitVec.ofNat 64 c ∧ (h.except c).mtval = 0 ∧
    (h.except c).pc = BitVec.ofNat 64 (h.mtvec.toNat / 4 * 4) ∧ (h.except c).x = h.x ∧ (h.except c).v = h.v)

/-- A paused thread whose cycles have passed becomes ready with those that paused with it; a full join entry is freed and its members become ready; a collective all of whose lanes have joined or exited completes, its contributors at the next word with the values that they get where all arrive at once; an answered parked sub-group becomes ready; a deferred result fills its registers, or marks them poisoned, with the poison record, which of a speculating load waits for its commit; a thread in conflict returns to its checkpoint; waitv reads again; a barrier's completion reaches each waiting thread; an expired hold is dropped and the speculating readers of its line are in conflict. Nothing else changes; before its time each changes nothing. Completion, exec answering a next state under conditions on the state and the operands alone, is stated of pauseExpiry, joinRelease, laneCollectiveCompletion, parkedSubgroupReplay, deferredResultArrival, speculativeRollback, waitvReread, waitvEq, waitvNe, gangBarrierRelease, holdExpiry. -/
def Obligations.LaneEvents : Prop :=
  (∀ (s : State) c w l, (s.thread c w l).mode = .paused → (s.thread c w l).wake ≤ s.cycles →
    ∃ t, exec (.pauseExpiry c w l) s = .next t ∧ { t with cores := s.cores } = s ∧ SameTables s t ∧ ∀ k v m, t.thread k v m =
      if k = c ∧ v = w ∧ m < 32 ∧ (s.thread c w m).mode = .paused ∧ (s.thread c w m).wake = (s.thread c w l).wake
      then { s.thread c w m with mode := .ready } else s.thread k v m) ∧
  (∀ (s : State) c w l, (s.thread c w l).mode ≠ .paused ∨ s.cycles < (s.thread c w l).wake → exec (.pauseExpiry c w l) s = .next s) ∧
  (∀ (s : State) c w e j, (s.weave c w).joins[e]? = some j →
    exec (.joinRelease c w e) s = .next (if j.members = j.arrived then s.modWeave c w Weave.releaseJoins else s)) ∧
  (∀ (x : Weave), x.releaseJoins.joins = x.joins.filter (fun j => !x.joins.any (fun e => e.full && e.target == j.target && e.depth == j.depth)) ∧
    ∀ l, x.releaseJoins.thread l = if ∃ j ∈ x.joins, j.full = true ∧ j.members.getLsbD l = true then { x.thread l with mode := .ready } else x.thread l) ∧
  (∀ (s : State) c w n k, (s.weave c w).colls[n]? = some k → (s.weave c w).collReady k = true →
    (∀ l, k.joined.getLsbD l = true → (s.thread c w l).enables = 0) →
    ∃ t, exec (.laneCollectiveCompletion c w n) s = .next t ∧ (∀ pa, t.memByte pa = s.memByte pa) ∧
      (t.weave c w).colls = (s.weave c w).colls.filter (fun q => !(q.pc == k.pc && q.mask == k.mask)) ∧
      ∀ l, if k.joined.getLsbD l = true then (t.thread c w l).ctl = (s.thread c w l).ctl.next 1 ∧ (t.thread c w l).mode = .ready ∧
          (t.thread c w l).hollow = [] ∧ (t.thread c w l).ceded = []
        else t.thread c w l = s.thread c w l) ∧
  (∀ o, CollectsLater (.shfl o) (fun x l => { w := { d := some (if x.ex.contains (x.c l) then x.a (x.c l) else x.a l) }, ex := 0 })) ∧
  (∀ o, CollectsLater (.shup o) (fun x l => { w := { d := some (if x.uimm ≤ l ∧ x.ex.contains (l - x.uimm) then x.a (l - x.uimm) else x.a l) }, ex := 0 })) ∧
  (∀ o, CollectsLater (.shdn o) (fun x l => { w := { d := some (if x.ex.contains (l + x.uimm) then x.a (l + x.uimm) else x.a l) }, ex := 0 })) ∧
  (∀ o, CollectsLater (.shxor o) (fun x l => { w := { d := some (if x.ex.contains (l ^^^ x.uimm) then x.a (l ^^^ x.uimm) else x.a l) }, ex := 0 })) ∧
  (∀ o, CollectsLater (.vote o) (fun x _ => { w := { p := some (match x.f.c.toNat % 4 with
    | 0 => x.ex.all (fun l => x.predOf x.f.a l)
    | 1 => x.ex.any (fun l => x.predOf x.f.a l)
    | _ => x.ex.all (fun l => x.predOf x.f.a l) || x.ex.all (fun l => !x.predOf x.f.a l)) }, ex := 0 })) ∧
  (∀ o, CollectsLater (.ballot o) (fun x _ => { w := { d := some (maskOf (x.ex.filter (fun l => x.predOf x.f.a l))).toNat }, ex := 0 })) ∧
  (∀ o, CollectsLater (.scan o) (fun x l =>
    let before := x.ex.filter (fun k => if x.f.c.getLsbD 3 then decide (k < l) else decide (k ≤ l))
    { w := { d := some (before.foldl (fun v k => scanStep (x.f.c.toNat % 8) x.f.ty x.sat v (x.a k)) (scanId (x.f.c.toNat % 8) x.f.ty)) }, ex := 0 })) ∧
  (∀ o, CollectsLater (.bqnt o) (fun x l =>
    if x.ex.any (fun k => (fVal 0 (x.a k)).isNaN || (fVal 0 (x.a k)).isInf) then { w := { d := some 0xFF00 }, ex := exIV }
    else
      let sc := blockScale x.f.ty (x.ex.map (fun k => fVal 0 (x.a k)))
      let e := blockElem x.f.ty (x.rnd l) sc (fVal 0 (x.a l))
      { w := { d := some ((sc + 127).toNat * 2 ^ 8 + e.1) }, ex := e.2 })) ∧
  (∀ o, CollectsLater (.fredAdd o) (fun x l => ((fredVals (fun x a b => fAddV x.rdn a b) x).lookup l).getD { w := {}, ex := 0 })) ∧
  (∀ o, CollectsLater (.fredMin o) (fun x l => ((fredVals (fun _ a b => (fPick false a b).res) x).lookup l).getD { w := {}, ex := 0 })) ∧
  (∀ o, CollectsLater (.fredMax o) (fun x l => ((fredVals (fun _ a b => (fPick true a b).res) x).lookup l).getD { w := {}, ex := 0 })) ∧
  (∀ o, TrapsLater (.bqnt o) (fun x l =>
    if x.ex.any (fun k => (fVal 0 (x.a k)).isNaN || (fVal 0 (x.a k)).isInf) then { w := { d := some 0xFF00 }, ex := exIV }
    else
      let sc := blockScale x.f.ty (x.ex.map (fun k => fVal 0 (x.a k)))
      let e := blockElem x.f.ty (x.rnd l) sc (fVal 0 (x.a l))
      { w := { d := some ((sc + 127).toNat * 2 ^ 8 + e.1) }, ex := e.2 })) ∧
  (∀ o, TrapsLater (.fredAdd o) (fun x l => ((fredVals (fun x a b => fAddV x.rdn a b) x).lookup l).getD { w := {}, ex := 0 })) ∧
  (∀ o, TrapsLater (.fredMin o) (fun x l => ((fredVals (fun _ a b => (fPick false a b).res) x).lookup l).getD { w := {}, ex := 0 })) ∧
  (∀ o, TrapsLater (.fredMax o) (fun x l => ((fredVals (fun _ a b => (fPick true a b).res) x).lookup l).getD { w := {}, ex := 0 })) ∧
  (∀ (s : State) c w n k, (s.weave c w).colls[n]? = some k → (∃ l, l < 32 ∧ k.mask.getLsbD l = true ∧ k.joined.getLsbD l = false ∧
    (s.thread c w l).mode ≠ .exited) → exec (.laneCollectiveCompletion c w n) s = .next s) ∧
  (∀ (s : State) c w n p a, (s.weave c w).parked[n]? = some p → p.action = some a →
    ∃ t, exec (.parkedSubgroupReplay c w n) s = .next t ∧ { t with cores := s.cores } = s ∧
      (t.weave c w).parked = (s.weave c w).parked.filter (fun q => q != p) ∧ ∀ k v m, t.thread k v m =
        if k = c ∧ v = w ∧ p.lanes.getLsbD m = true then { s.thread c w m with mode := .ready, conv := a } else s.thread k v m) ∧
  (∀ (s : State) c w n p, (s.weave c w).parked[n]? = some p → p.action = none → exec (.parkedSubgroupReplay c w n) s = .next s) ∧
  (∀ (s : State) c n d, (s.core c).deferred[n]? = some d → d.lane < 32 → (s.thread c d.slot d.lane).mode ≠ .exited →
    ∃ t, exec (.deferredResultArrival c n) s = .next t ∧ { t with cores := s.cores } = s ∧
      (t.core c).deferred = (s.core c).deferred.eraseIdx n ∧
      (∀ k v m, ¬ (k = c ∧ v = d.slot ∧ m = d.lane) → t.thread k v m = s.thread k v m) ∧
      { t.thread c d.slot d.lane with regs := (s.thread c d.slot d.lane).regs, spec := (s.thread c d.slot d.lane).spec } = s.thread c d.slot d.lane ∧
      (t.thread c d.slot d.lane).spec = (if d.val = none ∧ d.spec = true then (s.thread c d.slot d.lane).spec.map (fun p =>
        { p with poison := p.poison.or (some (d.pc, d.va)) }) else (s.thread c d.slot d.lane).spec) ∧
      (∀ m, (t.thread c d.slot d.lane).reg m = if d.reg ≤ m ∧ m < d.reg + d.cnt then (match d.val with
          | some v => { val := BitVec.ofNat 32 (v / 2 ^ (32 * (m - d.reg))) }
          | none => { (s.thread c d.slot d.lane).reg m with full := false, poison := true })
        else (s.thread c d.slot d.lane).reg m) ∧
      let here := d.val = none ∧ ¬ (d.spec = true ∧ (s.thread c d.slot d.lane).spec.isSome = true) ∧ (s.weave c d.slot).trPpc = 0
      ((t.weave c d.slot).trPpc = if here then d.pc else (s.weave c d.slot).trPpc) ∧
      (t.weave c d.slot).trPva = if here then d.va else (s.weave c d.slot).trPva) ∧
  (∀ (s : State) c w l p, (s.thread c w l).spec = some p → p.conflict = true → s.rollWaits c w = false →
    ∃ t, exec (.speculativeRollback c w l) s = .next t ∧ { t with cores := s.cores } = s ∧ let u := t.thread c w l
      u.ctl = p.ctl ∧ u.preds = p.preds ∧ u.ob = p.ob ∧ u.fpCtl = p.fpCtl ∧ u.fpFlags = p.fpFlags ∧ u.rsCount = p.rsCount ∧
      u.mode = .ready ∧ u.spec = none ∧ u.noSpec = some p.ctl.pc ∧ u.stop = none ∧ u.lend = none ∧ u.watch = none ∧
      u.mark = none ∧ u.hollow = [] ∧ u.ceded = []) ∧
  (∀ (s : State) c w l, (∀ p, (s.thread c w l).spec = some p → p.conflict = false) ∨ s.rollWaits c w = true → exec (.speculativeRollback c w l) s = .next s) ∧
  (∀ o (s : State) c w l u g, (s.thread c w l).mode = .waiting .retry → (s.thread c w l).watch = some u → u.instr = .waitvEq o →
    ({ s with cur := { s.cur with core := c, slot := w, lanes := 1#32 <<< l } } : State).group = some g →
    ∃ t, exec (.waitvReread c w l) s = .next t ∧
      exec (.waitvEq o) { s with cur := { s.cur with core := c, slot := w, lanes := 1#32 <<< l } } = .next t) ∧
  (∀ o (s : State) c w l u g, (s.thread c w l).mode = .waiting .retry → (s.thread c w l).watch = some u → u.instr = .waitvNe o →
    ({ s with cur := { s.cur with core := c, slot := w, lanes := 1#32 <<< l } } : State).group = some g →
    ∃ t, exec (.waitvReread c w l) s = .next t ∧
      exec (.waitvNe o) { s with cur := { s.cur with core := c, slot := w, lanes := 1#32 <<< l } } = .next t) ∧
  (∀ (s : State) g n, ∃ t, exec (.gangBarrierRelease g n) s = .next t ∧ { t with cores := s.cores, saved := s.saved } = s ∧
      ∀ c w l, t.thread c w l = if (s.weave c w).team.map (fun y => (s.team y).gang) = some g
        then (s.thread c w l).gbReach n else s.thread c w l) ∧
  (∀ (u : Thread) n, n < 8 → (u.gbDue.getLsbD n = false → u.gbReach n = u) ∧ (u.gbDue.getLsbD n = true →
      (u.gbReach n).gbDue.getLsbD n = false ∧ (u.gbReach n).gbDone.getLsbD n = true ∧ (u.gbReach n).regs = u.regs ∧
      (u.mode = .waiting (.arrived true n) → (u.gbReach n).mode = .ready ∧ (u.gbReach n).ctl.pc = u.ctl.pc + 8 ∧ (u.gbReach n).gbPend.getLsbD n = false))) ∧
  (∀ (s : State) i h, s.holds[i]? = some h → h.live s.time = false →
    ∃ t, exec (.holdExpiry i) s = .next t ∧ { t with cores := s.cores, holds := s.holds } = s ∧ t.holds = s.holds.filter (fun x => !(x == h)) ∧
      (∀ c w l, (t.thread c w l).plainly = (s.thread c w l).plainly) ∧ (∀ c w l, c ≠ h.core → dieKeeper (dieOf c) ≠ h.core → t.thread c w l = s.thread c w l) ∧
      ∀ c w l p q, c = h.core ∨ dieKeeper (dieOf c) = h.core → c ≠ 201 → (s.thread c w l).spec = some p → l < 32 → (∃ r ∈ (s.weave c w).reads,
        (∃ j, j < 4 ∧ r.1 = .mem (h.line * 128 + 32 * j)) ∧ r.2.getLsbD l = true) → (t.thread c w l).spec = some q → q.conflict = true) ∧
  (∀ (s : State) i h, s.holds[i]? = some h → h.live s.time = true → exec (.holdExpiry i) s = .next s)

/-- A released command whose conditions hold starts: with an error of Table 8 it ends with its code, else it takes its number and the base of its slot, which fills or drains, and a load empties the shadow plane of its format. A block runs up to 32 rows on the accumulator words of those rows and no others, or ends the command with 5 where it reads poison; each word of a stream, a load, a scale, a bias or a normalisation, and what a store, a reduction or a normalisation writes to the slot, is stated. mswap exchanges the planes, mlds and mldl deliver the shadow plane, an array stands at the fault of another of its commands, a row command ends after its last row. Ending removes the command, counts DONE, keeps the first error, and frees or fills its slot. No byte of memory changes but through a plane load's checks. Completion, exec answering a next state under conditions on the state and the operands alone, is stated of matrixCommandStart, matrixBlockDone, matrixCommandComplete. The asked time and the 50 microseconds of a plane load from a silent lender are the model's reading (log entry 38); the status of acst.bs is its choice (73). -/
def Obligations.MatrixCommandsRun : Prop :=
  (∀ (s v : State) core i y m c, v = s.settleSigns core → v.owner core = some (y, m) → v.findTeam y = some (core, m) → m.matq[i]? = some c → v.mayStart core y i c = true → startError (v.core core) m c ≠ 0 →
    exec (.matrixCommandStart core i) s = .next (v.endMat core y i (startError (v.core core) m c))) ∧
  (∀ (s v : State) core i y m c, v = s.settleSigns core → v.owner core = some (y, m) → v.findTeam y = some (core, m) → m.matq[i]? = some c → v.mayStart core y i c = true → startError (v.core core) m c = 0 →
    ∃ t, exec (.matrixCommandStart core i) s = .next t ∧ (∀ pa, t.memByte pa = s.memByte pa) ∧
      (t.team y).matq = m.matq.set i { c with started := true, entered := v.nextId, base := (m.tslot c.slot).base.getD 0 } ∧
      ((t.team y).tslot c.slot).st = (if c.slotWr then .filling else if c.rls then .draining else (m.tslot c.slot).st) ∧
      (t.core core).acc = (s.core core).acc ∧ (∀ a, a ≠ c.a1 ∨ c.isLoad = false → (t.core core).array a = (s.core core).array a) ∧
      (c.isLoad = true → ((t.core core).array c.a1).shadow = { ((s.core core).array c.a1).shadow with fmt := some (c.f.ty, c.bs) } ∧
        ((t.core core).array c.a1).live = ((s.core core).array c.a1).live)) ∧
  (∀ (s v : State) core i y m c, v = s.settleSigns core → v.owner core = some (y, m) → v.findTeam y = some (core, m) → m.matq[i]? = some c → v.mayStart core y i c = false → exec (.matrixCommandStart core i) s = .next v) ∧
  (∀ (s : State) core i y m c, s.owner core = some (y, m) → s.findTeam y = some (core, m) → m.matq[i]? = some c → c.started = true → m.arrayStopped c = false → c.done < c.rows → rowsPoisoned m c c.done (min c.rows (c.done + 32)) = true →
    exec (.matrixBlockDone core i) s = .next (s.endMat core y i 5)) ∧
  (∀ (s : State) core i y m c, s.owner core = some (y, m) → s.findTeam y = some (core, m) → m.matq[i]? = some c → c.started = true → m.arrayStopped c = false → c.done < c.rows → rowsPoisoned m c c.done (min c.rows (c.done + 32)) = false →
    ∃ t, exec (.matrixBlockDone core i) s = .next t ∧ (∀ pa, t.memByte pa = s.memByte pa) ∧ (t.team y).matq = m.matq.set i { c with done := min c.rows (c.done + 32) } ∧
      (∀ n, (∀ r, c.done ≤ r → r < min c.rows (c.done + 32) → ¬ (c.rowAt r ≤ n ∧ n < c.rowAt r + 192)) →
        (t.core core).accWord n = (s.core core).accWord n) ∧
      (c.rows = c.done + 1 → (t.core core).acc = (matRow (s.core core) m c c.done).1.acc ∧ (t.team y).opbuf = (matRow (s.core core) m c c.done).2.1.opbuf)) ∧
  (∀ (s : State) core i y m c, s.owner core = some (y, m) → s.findTeam y = some (core, m) → m.matq[i]? = some c → c.started = false ∨ c.rows ≤ c.done ∨ m.arrayStopped c = true → exec (.matrixBlockDone core i) s = .next s) ∧
  (∀ k m c r, { (matRow k m c r).1 with acc := k.acc } = k ∧ { (matRow k m c r).2.1 with opbuf := m.opbuf } = m ∧
    (∀ n, ¬ (c.rowAt r ≤ n ∧ n < c.rowAt r + 192) → (matRow k m c r).1.accWord n = k.accWord n) ∧ (c.accWr = false → (matRow k m c r).1 = k) ∧
    (c.slotWr = false → (matRow k m c r).2.1 = m)) ∧
  (∀ k m c r n o, c.instr = .mmul o → n < 192 → let p := (k.array c.a1).live
    (matRow k m c r).1.accWord (c.rowAt r + n) = (BitVec.ofNat 32 (streamWord ((p.fmt.map (·.1)).getD 0) c.f.ty (fun e => m.bufElem c.base (opBits c.f.ty) (128 * r + e)) (fun e => p.elem e n)
      (fun g => if c.bs then [m.bufNat (c.base + c.rows * 16 * opBits c.f.ty + 4 * r + g) 1] else []) (fun g => p.scale g n) (k.accWord (c.rowAt r + n))).1).toNat) ∧
  (∀ k m c r n o, c.instr = .mmulz o → n < 192 → let p := (k.array c.a1).live
    (matRow k m c r).1.accWord (c.rowAt r + n) = (BitVec.ofNat 32 (streamWord ((p.fmt.map (·.1)).getD 0) c.f.ty (fun e => m.bufElem c.base (opBits c.f.ty) (128 * r + e)) (fun e => p.elem e n)
      (fun g => if c.bs then [m.bufNat (c.base + c.rows * 16 * opBits c.f.ty + 4 * r + g) 1] else []) (fun g => p.scale g n) 0).1).toNat) ∧
  (∀ k m c r n o, c.instr = .acld o → n < 192 → (matRow k m c r).1.accWord (c.rowAt r + n) = (BitVec.ofNat 32 (acldElem c.f.ty (m.bufElem c.base (accBits c.f.ty) (192 * r + n))).1).toNat) ∧
  (∀ k m c r n o, c.instr = .acsclRow o → n < 192 → (matRow k m c r).1.accWord (c.rowAt r + n) = (BitVec.ofNat 32 (scaleWord c.rnd (k.accWord (c.rowAt r + n)) (m.bufNat (c.base + 4 * r) 4)).1).toNat) ∧
  (∀ k m c r n o, c.instr = .acsclCol o → n < 192 → (matRow k m c r).1.accWord (c.rowAt r + n) = (BitVec.ofNat 32 (scaleWord c.rnd (k.accWord (c.rowAt r + n)) (m.bufNat (c.base + 4 * n) 4)).1).toNat) ∧
  (∀ k m c r n o, c.instr = .acbias o → n < 192 → (matRow k m c r).1.accWord (c.rowAt r + n) = (BitVec.ofNat 32 (biasWord c.f.ty c.rnd (k.accWord (c.rowAt r + n)) (m.bufNat (c.base + 4 * n) 4)).1).toNat) ∧
  (∀ k m c r n o, c.instr = .acnrm o → n < 192 → (matRow k m c r).1.accWord (c.rowAt r + n) = (BitVec.ofNat 32 ((normRow c.rnd c.q ((List.range 192).map (fun n => k.accWord (c.rowAt r + n)))).2.1.getD n 0)).toNat) ∧
  (∀ k m c r o, c.instr = .acnrm o → (matRow k m c r).2.1.bufNat (c.base + 4 * r) 4 = (normRow c.rnd c.q ((List.range 192).map (fun n => k.accWord (c.rowAt r + n)))).1 % 2 ^ 32) ∧
  (∀ k m c r o, c.instr = .acredMax o → (matRow k m c r).2.1.bufNat (c.base + 4 * r) 4 = (maxRow c.f.ty ((List.range 192).map (fun n => k.accWord (c.rowAt r + n)))).1 % 2 ^ 32) ∧
  (∀ k m c r o, c.instr = .acredSum o → (matRow k m c r).2.1.bufNat (c.base + 4 * r) 4 = (sumRow c.f.ty c.rnd ((List.range 192).map (fun n => k.accWord (c.rowAt r + n)))).1 % 2 ^ 32) ∧
  (∀ k m c r o, c.instr = .acst o → c.bs = false → ∀ j, j < 24 * accBits c.f.ty →
    tabGet 0 (c.base + r * 24 * accBits c.f.ty + j) (matRow k m c r).2.1.opbuf =
      (packElems (accBits c.f.ty) (((List.range 192).map (fun n => k.accWord (c.rowAt r + n))).map (fun v => (acstElem c.f.ty c.rnd v).1))).getD j 0) ∧
  (∀ k m c r o, c.instr = .acst o → c.bs = true → r < c.rows →
    let os := (List.range 6).map (fun g => acstBlock c.f.ty c.rnd ((List.range 32).map (fun n => k.accWord (c.rowAt r + 32 * g + n))))
    let y := (matRow k m c r).2.1
    (∀ j, j < 24 * accBits c.f.ty → tabGet 0 (c.base + r * 24 * accBits c.f.ty + j) y.opbuf = (packElems (accBits c.f.ty) (os.map (fun e => e.2.1)).flatten).getD j 0) ∧
    ∀ g, g < 6 → tabGet 0 (c.base + c.rows * 24 * accBits c.f.ty + 6 * r + g) y.opbuf = BitVec.ofNat 8 ((os.map (fun e => e.1)).getD g 0)) ∧
  (∀ bits (cs : List Nat), (∀ v ∈ cs, v < 2 ^ bits) → cs.length * bits % 8 = 0 → ∀ i, i < cs.length →
    leNat (packElems bits cs) / 2 ^ (bits * i) % 2 ^ bits = cs.getD i 0) ∧
  (∀ (s : State) core i y m c o, s.owner core = some (y, m) → s.findTeam y = some (core, m) → m.matq[i]? = some c → c.started = true → m.arrayStopped c = false → c.instr = .mswap o →
    ∃ t, exec (.matrixCommandComplete core i) s = .next t ∧ (∀ pa, t.memByte pa = s.memByte pa) ∧ (t.team y).matq = m.matq.eraseIdx i ∧
      (t.core core).array c.a1 = { (s.core core).array c.a1 with active := !((s.core core).array c.a1).active }) ∧
  (∀ (s : State) core i y m c o, s.owner core = some (y, m) → s.findTeam y = some (core, m) → m.matq[i]? = some c → c.started = true → m.arrayStopped c = false → c.instr = .mlds o → m.bufPoison c.base c.bytes = false →
    ∃ t, exec (.matrixCommandComplete core i) s = .next t ∧ (∀ pa, t.memByte pa = s.memByte pa) ∧ (t.team y).matq = m.matq.eraseIdx i ∧
      ((t.core core).array c.a1).shadow = planeOf c.f.ty c.bs (m.bufRead c.base c.bytes) ∧
      ((t.core core).array c.a1).live = ((s.core core).array c.a1).live) ∧
  (∀ (s : State) core i y m c o, s.owner core = some (y, m) → s.findTeam y = some (core, m) → m.matq[i]? = some c → c.started = true → m.arrayStopped c = false → c.instr = .mlds o → m.bufPoison c.base c.bytes = true →
    exec (.matrixCommandComplete core i) s = .next (s.endMat core y i 5)) ∧
  (∀ (s : State) core i y m c o u ls, s.owner core = some (y, m) → s.findTeam y = some (core, m) → m.matq[i]? = some c → c.started = true → m.arrayStopped c = false → c.instr = .mldl o → c.fault = false →
    s.engineBytes (s.teamAgent core m.ctx (some y)) c.addr c.bytes = (u, .ok ls) →
    (∀ pa, Loc.mem pa ∈ ls → u.refreshing pa = false ∧ u.recallWaits (some y) false (.mem pa) 1 = false) →
    exec (.matrixCommandComplete core i) s = .next (if (u.readPlaces (some y) ls).anyPoison ls then (u.readPlaces (some y) ls).endMat core y i 5
      else (u.readPlaces (some y) ls).finishLoad core y i c (ls.map (u.readPlaces (some y) ls).getByte))) ∧
  (∀ (s u : State) core i y m c o va k, s.owner core = some (y, m) → s.findTeam y = some (core, m) → m.matq[i]? = some c → c.started = true → m.arrayStopped c = false → c.instr = .mldl o → c.fault = false →
    s.engineBytes (s.teamAgent core m.ctx (some y)) c.addr c.bytes = (u, .error (va, k)) →
    ((∀ e sc, k ≠ .lender e sc) → exec (.matrixCommandComplete core i) s = .next (match readError k with
      | some e => u.endMat core y i e
      | none => u.arrayFault core y i c va k)) ∧
    ∀ e sc, k = .lender e sc → ((∀ q, c.asked = some q → u.time < q + 50000) → exec (.matrixCommandComplete core i) s =
        .next (u.modTeam y (fun z => { z with matq := z.matq.set i { c with asked := some (c.asked.getD u.time) } }))) ∧
      ∀ q, c.asked = some q → q + 50000 ≤ u.time → exec (.matrixCommandComplete core i) s =
        .next (u.arrayFault core y i { c with asked := none } va (.fault 2 4 e.level (leafLid e.leaf) sc))) ∧
  (∀ (s : State) core i y m c bytes, s.findTeam y = some (core, m) → m.matq[i]? = some c → let t := s.finishLoad core y i c bytes
    (∀ pa, t.memByte pa = s.memByte pa) ∧ (t.team y).matq = m.matq.eraseIdx i ∧ ((t.core core).array c.a1).shadow = planeOf c.f.ty c.bs bytes ∧
    ((t.core core).array c.a1).live = ((s.core core).array c.a1).live) ∧
  (∀ ty bs (bytes : List Byte), let p := planeOf ty bs bytes; p.fmt = some (ty, bs) ∧
    (∀ k n, 192 * k + n < 24576 → p.elem k n = leNat bytes / 2 ^ (opBits ty * (192 * k + n)) % 2 ^ opBits ty) ∧
    ∀ g n, p.scale g n = if bs = true then [if 192 * g + n < 768 then leNat bytes / 2 ^ (8 * (3072 * opBits ty + (192 * g + n))) % 256 else 0] else []) ∧
  (∀ (s : State) core i y m c o, s.owner core = some (y, m) → s.findTeam y = some (core, m) → m.matq[i]? = some c → c.started = true → m.arrayStopped c = false → c.instr = .mldl o → c.fault = true →
    (c.action = none → exec (.matrixCommandComplete core i) s = .next s) ∧
    (c.action = some 0 → exec (.matrixCommandComplete core i) s = .next (s.modTeam y (fun z => { z with matq := z.matq.set i { c with fault := false, action := none } }))) ∧
    (c.action = some 1 → exec (.matrixCommandComplete core i) s = .next (s.endMat core y i 6)) ∧
    (c.action = some 2 → exec (.matrixCommandComplete core i) s = .next (s.endMat core y i 5))) ∧
  (∀ (s : State) core i y m c, s.owner core = some (y, m) → s.findTeam y = some (core, m) → m.matq[i]? = some c → c.started = true → m.arrayStopped c = false → c.isLoad = false → c.isSwap = false →
    exec (.matrixCommandComplete core i) s = .next (if c.rows ≤ c.done then s.endMat core y i 0 else s)) ∧
  (∀ (s : State) core i y m c, s.owner core = some (y, m) → s.findTeam y = some (core, m) → m.matq[i]? = some c → c.started = false ∨ m.arrayStopped c = true → exec (.matrixCommandComplete core i) s = .next s) ∧
  (∀ (s : State) core i y m c e, s.findTeam y = some (core, m) → m.matq[i]? = some c → let t := s.endMat core y i e
    (∀ pa, t.memByte pa = s.memByte pa) ∧ (t.team y).matq = m.matq.eraseIdx i ∧ (t.team y).opbuf = m.opbuf ∧ (t.core core).acc = (s.core core).acc ∧
    (t.team y).conv c.cv = { m.conv c.cv with done := ((m.conv c.cv).done + 1) % 256, err := if (m.conv c.cv).err = 0 then e else (m.conv c.cv).err } ∧
    ((t.team y).tslot c.slot).st = if c.rls then .empty else if c.slotWr = true ∧ e = 0 then .ready else (m.tslot c.slot).st)

/-- A command that no earlier one clashes with starts; expf ends once its lines are in the lease cache, exwb once the lease-cache lines of its range are written back (both wait for a lookup that waits), cpts and gcpts clear the slot's bytes first. A free buffer takes the source bytes of the next unit of the first command that has one. A unit at a lender that has not answered notes when it asked. A unit that is performed writes exactly its bytes to its places, in memory, the operand buffer or the accumulators, and leaves its buffer; the last one ends the command. An ended command leaves the engine with its buffers. Completion, exec answering a next state under conditions on the state and the operands alone, is stated of engineCommandStart, engineUnitStart, engineUnitPerformed. The asked time of a unit at a silent lender is the model's reading (log entry 38). -/
def Obligations.EngineCommandsRun : Prop :=
  (∀ (s : State) core i c, (s.core core).cmds[i]? = some c → c.started = false → (∀ d ∈ (s.core core).cmds.take i, clashes d.spans c.spans = false) → (∀ e ∈ (s.core core).teams, ∀ m ∈ e.2.matq, m.started = true → m.entered < c.id → clashes (m.spans e.2.ctx e.1) c.spans = false) → c.kind ≠ .expf → c.kind ≠ .exwb → c.kind ≠ .cpts → c.kind ≠ .gcpts →
    exec (.engineCommandStart core i) s = .next (s.modCmd core c.id (fun c => { c with started := true }))) ∧
  (∀ (s : State) core i c, (s.core core).cmds[i]? = some c → c.started = false → (∀ d ∈ (s.core core).cmds.take i, clashes d.spans c.spans = false) → (∀ e ∈ (s.core core).teams, ∀ m ∈ e.2.matq, m.started = true → m.entered < c.id → clashes (m.spans e.2.ctx e.1) c.spans = false) → c.kind = .expf → s.leasesWait core c.ctx c.src c.len = false → exec (.engineCommandStart core i) s = .next (((s.modCmd core c.id (fun c => { c with started := true })).bringLines ((s.modCmd core c.id (fun c => { c with started := true })).leasedRuns core c.ctx c.src c.len)).endCmd core c 0)) ∧
  (∀ (s : State) core i c, (s.core core).cmds[i]? = some c → c.started = false → (∀ d ∈ (s.core core).cmds.take i, clashes d.spans c.spans = false) → (∀ e ∈ (s.core core).teams, ∀ m ∈ e.2.matq, m.started = true → m.entered < c.id → clashes (m.spans e.2.ctx e.1) c.spans = false) → c.kind = .exwb → s.leasesWait core c.ctx c.src c.len = false → exec (.engineCommandStart core i) s =
    .next (((s.modCmd core c.id (fun c => { c with started := true })).writeBackLines ((s.modCmd core c.id (fun c => { c with started := true })).leasedRuns core c.ctx c.src c.len)).endCmd core c 0)) ∧
  (∀ (s : State) core i c y, (s.core core).cmds[i]? = some c → c.started = false → (∀ d ∈ (s.core core).cmds.take i, clashes d.spans c.spans = false) → (∀ e ∈ (s.core core).teams, ∀ m ∈ e.2.matq, m.started = true → m.entered < c.id → clashes (m.spans e.2.ctx e.1) c.spans = false) → c.kind = .cpts ∨ c.kind = .gcpts → c.team = some y → (s.findTeam y).isSome = true →
    ∃ t, exec (.engineCommandStart core i) s = .next t ∧ (∀ pa, t.memByte pa = s.memByte pa) ∧ (∀ o, tabGet 0 o (t.team y).opbuf =
      if c.sbase ≤ o ∧ o < c.sbase + c.slen then 0 else tabGet 0 o (s.team y).opbuf)) ∧
  (∀ (s : State) core i c, (s.core core).cmds[i]? = some c → c.started = true ∨ (∃ d ∈ (s.core core).cmds.take i, clashes d.spans c.spans = true) ∨
    ((c.kind = .expf ∨ c.kind = .exwb) ∧ s.leasesWait core c.ctx c.src c.len = true) →
    exec (.engineCommandStart core i) s = .next s) ∧
  (∀ (s : State) core id f, ((s.modCmd core id f).core core).cmds = (s.core core).cmds.map (fun c => if c.id = id then f c else c)) ∧
  (∀ (s : State) core i c u v bs, (s.core core).cmds[i]? = some c → (s.core core).nextUnit c = some u → (s.core core).bufs.length < 8 →
    (∀ d ∈ (s.core core).cmds.take i, (s.core core).nextUnit d = none ∨ s.stopped d.team = true) → s.stopped c.team = false →
    s.unitSource core c u = (v, .data bs) → (∀ b ∈ bs, b.2 = false) →
    ∃ t, exec (.engineUnitStart core i) s = .next t ∧ (∀ pa, t.memByte pa = v.memByte pa) ∧
      (t.core core).bufs = (v.core core).bufs ++ [{ cmd := c.id, unit := u, data := bs }] ∧
      (t.core core).cmds = (v.core core).cmds.map (fun q => if q.id = c.id then { q with
        next := if c.parked.any (fun p => p.unit = u) then q.next else q.next + 1, parked := q.parked.filter (fun p => p.unit != u), asked := tabErase u q.asked } else q)) ∧
  (∀ (s : State) core i c, (s.core core).cmds[i]? = some c → (s.core core).nextUnit c = none ∨ 8 ≤ (s.core core).bufs.length ∨ s.stopped c.team = true → exec (.engineUnitStart core i) s = .next s) ∧
  (∀ (s : State) core i c u v va, (s.core core).cmds[i]? = some c → (s.core core).nextUnit c = some u → (s.core core).bufs.length < 8 →
    (∀ d ∈ (s.core core).cmds.take i, (s.core core).nextUnit d = none ∨ s.stopped d.team = true) → s.stopped c.team = false →
    (s.unitSource core c u = (v, .wait) → exec (.engineUnitStart core i) s = .next v) ∧
    (∀ e sc, s.unitSource core c u = (v, .fail va (.lender e sc)) → tabFind u c.asked = none →
      exec (.engineUnitStart core i) s = .next (v.modCmd core c.id (fun c => { c with asked := tabSet u v.time c.asked })))) ∧
  (∀ (s : State) core c u, c.kind = .fill → s.unitSource core c u = (s, .data ((List.range (c.geom u).2).map (fun i =>
      (BitVec.ofNat 8 (c.pat.toNat / 2 ^ (8 * (((c.geom u).1 + i) % 4))), false))))) ∧
  (∀ (c : EngCmd) u, c.gather = none → c.geom u = (u * 4096, min 4096 (c.len - u * 4096))) ∧
  (∀ (s : State) core n b c y, (s.core core).bufs[n]? = some b → (s.core core).cmds.find? (fun c => c.id = b.cmd) = some c → c.kind = .cpts ∨ c.kind = .gcpts → c.team = some y → (s.findTeam y).isSome = true →
    ∃ t, exec (.engineUnitPerformed core n) s = .next t ∧ (∀ pa, t.memByte pa = s.memByte pa) ∧
      ∀ o, tabGet 0 o (t.team y).opbuf = if c.sbase + (c.geom b.unit).1 ≤ o ∧ o < c.sbase + (c.geom b.unit).1 + b.data.length
        then (b.data.getD (o - (c.sbase + (c.geom b.unit).1)) (0, false)).1 else tabGet 0 o (s.team y).opbuf) ∧
  (∀ (s : State) core n b c, (s.core core).bufs[n]? = some b → (s.core core).cmds.find? (fun c => c.id = b.cmd) = some c → c.kind = .cpald → ∃ t, exec (.engineUnitPerformed core n) s = .next t ∧ (∀ pa, t.memByte pa = s.memByte pa) ∧
      ∀ w, (t.core core).accWord w = if c.acc + (c.geom b.unit).1 / 4 ≤ w ∧ w < c.acc + (c.geom b.unit).1 / 4 + (c.geom b.unit).2 / 4
        then leNat (((b.data.drop (4 * (w - (c.acc + (c.geom b.unit).1 / 4)))).take 4).map (·.1)) else (s.core core).accWord w) ∧
  (∀ (s : State) core n b c v (pas : List Nat), (s.core core).bufs[n]? = some b → (s.core core).cmds.find? (fun c => c.id = b.cmd) = some c → (c.kind = .cpy ∨ c.kind = .fill ∨ c.kind = .cpfs ∨ c.kind = .cpast ∨ c.kind = .gcp) →
    s.engineCheck (s.cmdAgent core c) (engineAcc true) (c.addrs c.dst (c.geom b.unit).1 (c.geom b.unit).2) = (v, pas.map (fun pa => some (.mem pa)), none) →
    v.placesHeld c.team (pas.map (fun pa => some (.mem pa))) = false → pas.Nodup → pas.length = b.data.length → (∀ pa ∈ pas, v.isLocal pa = true) → v.lcache = [] →
    ∃ t, exec (.engineUnitPerformed core n) s = .next t ∧ (∀ j, j < pas.length → t.memByte (pas.getD j 0) = (b.data.getD j (0, false)).1) ∧
      ∀ pa, pa ∉ pas → t.memByte pa = v.memByte pa) ∧
  (∀ (s : State) core c code, c.kind ≠ .exmig → let t := s.endCmd core c code
    (∀ pa, t.memByte pa = s.memByte pa) ∧ (t.core core).cmds = (s.core core).cmds.filter (fun d => d.id != c.id) ∧ (t.core core).bufs = (s.core core).bufs.filter (fun b => b.cmd != c.id)) ∧
  (∀ (s : State) core c u, c.kind ≠ .exmig → ∀ b ∈ ((s.unitDone core c u).core core).bufs, ¬ (b.cmd = c.id ∧ b.unit = u))

/-- The first block without a code starts where none has started; one of rfchk ends at once with 8, or 0x10 where a check failed. An item of the block that runs is done: it reads its part of W, then its values, computes (the narrowed rows of A, the forward and backward steps of a solve, the residual with its norm and test) and writes its part of W; one that meets poison in its workspace ends with 0x12, one that was cancelled with 6, one stopped by a fault waits for firmware's answer and goes on, or ends with 0x11 or 0x12. A block with a code makes its end writes stage by stage: X column by column where its code names an iterate, zeros to W, and the status record word by word; then it leaves the queue, with its trap where it delivers one. A trap waits while the weave is in its handler or an atomic of a speculating lane is on its way, enters it with cause 3 and detail 0x20 and its address in RFTRAP, and is dropped once no lane is left. Completion, exec answering a next state under conditions on the state and the operands alone, is stated of refineBlockStart, refineItemEnd, refineBlockEnd, refineTrapDelivery. The layout and the parts of W are the model's choice (log entry 17), and so is what a saved block meets again (18). -/
def Obligations.RefinementBlocksRun : Prop :=
  (∀ (s : State) die b, (∀ q ∈ (s.die die).blocks, q.started = false ∧ q.fault = false ∧ (q.begun = true → q.code = none)) → (s.die die).blocks.find? (fun b => b.code.isNone) = some b →
    ∃ t, exec (.refineBlockStart die) s = .next t ∧ { t with dies := s.dies } = s ∧ (t.die die).blocks.length = (s.die die).blocks.length ∧
      ∀ (n : Nat) q, (s.die die).blocks[n]? = some q → ∃ r, (t.die die).blocks[n]? = some r ∧ (q.id ≠ b.id → r = q) ∧ (q.id = b.id →
        r.started = true ∧ r.begun = true ∧ (q.kind ≠ 2 → r = { q with started := true, begun := true }) ∧
        (q.kind = 2 → r.code = some (if q.bad = 0 then 8 else 0x10)))) ∧
  (∀ (s : State) die, (∃ q ∈ (s.die die).blocks, q.started = true ∨ q.fault = true ∨ (q.begun = true ∧ q.code.isSome = true)) ∨ (∀ q ∈ (s.die die).blocks, q.code.isSome = true) → exec (.refineBlockStart die) s = .next s) ∧
  (∀ (s : State) die b, (s.die die).blocks.find? (fun b => b.started && b.code.isNone) = some b → b.fault = true → b.action = none → exec (.refineItemEnd die) s = .next s) ∧
  (∀ (s : State) die b, (s.die die).blocks.find? (fun b => b.started && b.code.isNone) = some b → b.fault = true → b.action = some 1 → (s.die die).refStuck = false → exec (.refineItemEnd die) s = .next (s.modBlock b.id (fun b => b.stop 0x11))) ∧
  (∀ (s : State) die b, (s.die die).blocks.find? (fun b => b.started && b.code.isNone) = some b → b.fault = true → b.action = some 2 → (s.die die).refStuck = false → exec (.refineItemEnd die) s = .next (s.modBlock b.id (fun b => b.stop 0x12))) ∧
  (∀ (s : State) die b, (s.die die).blocks.find? (fun b => b.started && b.code.isNone) = some b → (b.fault = false ∨ b.action = some 0) → (s.die die).refStuck = false → b.cancel = true →
    exec (.refineItemEnd die) s = .next (s.modBlock b.id (fun b => b.stop 6))) ∧
  (∀ (s : State) die b, (s.die die).blocks.find? (fun b => b.started && b.code.isNone) = some b → (b.fault = false ∨ b.action = some 0) → (s.die die).refStuck = false → b.cancel = false → exec (.refineItemEnd die) s =
    .next ((s.modBlock b.id (fun b => { b with fault := false, action := none })).refineItem { b with fault := false, action := none })) ∧
  (∀ (b : RefBlock) c, (b.stop c).code = some c ∧ (b.stop c).fault = false ∧ (b.stop c).action = none ∧ (b.stop c).id = b.id ∧ (b.stop c).words = b.words) ∧
  (∀ (s : State) id f d, ((s.modBlock id f).die d).blocks = (s.die d).blocks.map (fun b => if b.id = id then f b else b)) ∧
  (∀ (s : State) die b bad, (s.die die).blocks.find? (s.die die).mayEnd = some b → b.answered = some bad → (s.die die).refStuck = false →
    exec (.refineBlockEnd die) s = .next ((s.modBlock b.id (fun b => { b with fault := false, action := none })).endStage { b with fault := false, action := none } bad)) ∧
  (∀ (s : State) (b : RefBlock), b.stage = 0 → b.writesX = none → ∀ bad, s.endStage b bad = s.modBlock b.id (fun b => { b with stage := b.stage + 1, fault := false, action := none, asked := none })) ∧
  (∀ (s : State) (b : RefBlock) v, b.stage = 1 → b.kind = 0 → b.begun = true → s.endWrite b false ((List.range b.wlen).map (b.waddr + ·)) (List.replicate b.wlen 0) = .ok (v, none) →
    s.endStage b none = v.modBlock b.id (fun b => { b with stage := b.stage + 1, fault := false, action := none, asked := none })) ∧
  (∀ (d : Die) (b : RefBlock), d.mayEnd b = true ↔ b.code.isSome = true ∧ b.answered.isSome = true ∧
    (b.started = true ∨ b.begun = false ∨ ∀ q ∈ d.blocks, q.started = false)) ∧
  (∀ (s v : State) (b : RefBlock) it, b.stage = 0 → b.writesX = some it →
    (s.endWrite b false b.xAddrs (b.xBytes it) = .ok (v, none) →
      s.endStage b none = v.modBlock b.id (fun b => { b with havex := true, stage := b.stage + 1, fault := false, action := none, asked := none })) ∧
    (∀ c, s.endWrite b false b.xAddrs (b.xBytes it) = .ok (v, some c) →
      s.endStage b none = v.modBlock b.id (fun b => { b with code := some c, stage := b.stage + 1, fault := false, action := none, asked := none })) ∧
    ∀ c, s.endStage b (some c) = s.modBlock b.id (fun b => { b with code := some c, stage := b.stage + 1, fault := false, action := none, asked := none })) ∧
  (∀ (b : RefBlock) it, b.writesX = some it ↔ ∃ c e, b.code = some c ∧ 1 ≤ c ∧ c ≤ 5 ∧ b.result = some (e, it)) ∧
  (∀ (b : RefBlock) it i c j, i < b.n → c < b.nrhs → j < b.esz → b.fty = 0 ∧ b.esz = 4 ∨ b.fty = 1 ∧ b.esz = 8 →
    b.xAddrs.getD ((c * b.n + i) * b.esz + j) 0 = b.xaddr + c * b.xcs + i * b.esz + j ∧
    (b.xBytes it).getD ((c * b.n + i) * b.esz + j) 0 = BitVec.ofNat 8 ((fConvert b.fty rne (fVal 1 (tabGet 0 (c * b.n + i) it))).1 / 2 ^ (8 * j))) ∧
  (∀ (s v : State) (b : RefBlock) r, b.stage ≠ 0 → b.stage ≠ 1 → let code := b.code.getD 0
    let b' := { b with deliv := (b.w 6).testBit 53 && (code == 2 || code == 3 || code == 5) && s.posterLives b.core b.slot b.team }
    (s.endWrite b' true ((List.range 64).map (b.saddr + ·)) ((b'.record.map (leBytes 8)).flatten) = .ok (v, r) → s.endStage b none = v.endBlock b') ∧
    ∀ c, s.endStage b (some c) = s.endBlock b') ∧
  (∀ (b : RefBlock), b.record.length = 8 ∧ b.record.getD 0 0 = b.code.getD 0 + b.rung * 2 ^ 8 + b.iter % 2 ^ 16 * 2 ^ 16 + b.esc * 2 ^ 32 +
      (if b.deliv then 2 ^ 40 else 0) + (if b.havex then 2 ^ 41 else 0) + (if b.code = some 7 ∧ b.pass = true then 2 ^ 42 else 0) +
      (if b.code = some 0x10 then b.bad * 2 ^ 56 else 0) ∧
    b.record.getD 1 0 = (match b.result, b.best with
      | some r, _ => r.1
      | none, some r => r.1
      | none, none => inf64) ∧
    b.record.getD 2 0 = b.eta0.getD inf64 ∧ b.record.getD 3 0 = b.nb ∧
    (b.riter.length = 4 → ∀ i, i < 4 → b.record.getD 4 0 / 2 ^ (16 * i) % 2 ^ 16 = b.riter.getD i 0 % 2 ^ 16) ∧
    (b.leave.length = 4 → ∀ i, i < 4 → b.record.getD 5 0 / 2 ^ (8 * i) % 2 ^ 8 = b.leave.getD i 0 % 2 ^ 8) ∧
    b.record.getD 6 0 = 0 ∧ b.record.getD 7 0 = 0) ∧
  (∀ (s v : State) (b : RefBlock) whole as bs (pas : List Nat),
    s.engineCheck (s.teamAgent b.core b.ctx (some b.team)) (engineAcc true) as = (v, pas.map (fun pa => some (.mem pa)), none) →
    v.placesHeld (some b.team) (pas.map (fun pa => some (.mem pa))) = false → (∀ pa ∈ pas, v.memPoison pa = false) →
    pas.Nodup → pas.length = bs.length → (∀ pa ∈ pas, v.isLocal pa = true) → v.lcache = [] →
    ∃ t, s.endWrite b whole as bs = .ok (t, none) ∧ (∀ j, j < pas.length → t.memByte (pas.getD j 0) = bs.getD j 0) ∧
      ∀ pa, pa ∉ pas → t.memByte pa = v.memByte pa) ∧
  (∀ (s u : State) (b : RefBlock) bs, b.got = [] → s.engineRead (s.teamAgent b.core b.ctx (some b.team)) (b.wBytes b.wGets) = (u, .data bs) →
    ((∃ e ∈ bs, e.2 = true) → s.refineItem b = u.modBlock b.id (fun b => b.stop 0x12)) ∧
    ((∀ e ∈ bs, e.2 = false) → s.refineItem b = (u.modBlock b.id (fun q => { q with asked := none, got := [bs.map (·.1)] })).refineItem
      { b with asked := none, got := [bs.map (·.1)] })) ∧
  (∀ (s u : State) (b : RefBlock) i w bs, b.pos = .form i → b.got = [w] →
    s.engineRead (s.teamAgent b.core b.ctx (some b.team)) (b.bytesAt (b.rowAddrs i)) = (u, .data bs) → (∀ e ∈ bs, e.2 = false) →
    s.refineItem b = (u.modBlock b.id (fun q => { q with asked := none, got := [w, bs.map (·.1)] })).putItem
      { b with asked := none, got := [w, bs.map (·.1)] } (fun q =>
        { (((b.values (bs.map (·.1))).map narrow32).zipIdx).foldl (fun (q : RefBlock) (e : Nat × Nat) => q.putT i e.2 e.1) q with
          pos := if q.lu = true then (if i + 1 < q.n then .form (i + 1) else .pivot 0) else .mirror i })) ∧
  (∀ (b : RefBlock) (vs : List Nat) i, vs.length ≤ b.n → let q := (vs.zipIdx).foldl (fun (q : RefBlock) (e : Nat × Nat) => q.putT i e.2 e.1) b
    ∀ r k, k < b.n → q.tm r k = if r = i ∧ k < vs.length then vs.getD k 0 else b.tm r k) ∧
  (∀ (s u : State) (b : RefBlock) c w bs, b.pos = .fwd false c → b.got = [w] →
    s.engineRead (s.teamAgent b.core b.ctx (some b.team)) (b.bytesAt (b.colAddrs b.baddr b.bcs c)) = (u, .data bs) → (∀ e ∈ bs, e.2 = false) →
    s.refineItem b = (u.modBlock b.id (fun q => { q with asked := none, got := [w, bs.map (·.1)] })).putItem
      { b with asked := none, got := [w, bs.map (·.1)] } (fun q =>
        { q with y := q.forward ((b.values (bs.map (·.1))).map narrow32), pos := .bwd false c })) ∧
  (∀ (s : State) (b : RefBlock) c w, b.got = [w] →
    (b.pos = .fwd true c → s.refineItem b = s.putItem b (fun q =>
      { q with y := q.forward ((List.range q.n).map (fun i => narrow32 (fVal 1 (tabGet 0 (c * q.n + i) q.r)))), pos := .bwd true c })) ∧
    (∀ corr, b.pos = .bwd corr c → s.refineItem b = s.putItem b (fun q => { q with y := q.backward q.y, pos := .add corr c })) ∧
    (∀ corr, b.pos = .add corr c → s.refineItem b = s.putItem b (fun q => q.addItem corr c)) ∧
    (b.pos = .judge → s.refineItem b = s.putItem b RefBlock.judgeItem)) ∧
  (∀ (b : RefBlock) v i, i < b.n → tabGet 0 i (b.forward v) =
    let z := (List.range i).foldl (fun z k => fms32 (b.fm i k) (tabGet 0 k (b.forward v)) z) ((b.permute v).getD i 0)
    if b.lu = true then z else div32 z (b.fm i i)) ∧
  (∀ (b : RefBlock) y i, i < b.n → tabGet 0 i (b.backward y) =
    div32 ((upto (i + 1) b.n).foldl (fun z k => fms32 (if b.lu = true then b.fm i k else b.fm k i) (tabGet 0 k (b.backward y)) z) (tabGet 0 i y)) (b.fm i i)) ∧
  (∀ (b : RefBlock) corr c i, i < b.n → tabGet 0 (c * b.n + i) (b.addItem corr c).x =
    if corr = true then f64 (fAddV false (fVal 1 (tabGet 0 (c * b.n + i) b.x)) (fVal 1 (widen64 (tabGet 0 i b.y)))) else widen64 (tabGet 0 i b.y)) ∧
  (∀ (s u : State) (b : RefBlock) c w bs, b.pos = .resid c → b.got = [w] →
    s.engineRead (s.teamAgent b.core b.ctx (some b.team)) (b.bytesAt (b.colAddrs b.baddr b.bcs c ++
      ((List.range b.n).map (fun i => (List.range b.n).map (fun k => b.aOf i k))).flatten)) = (u, .data bs) → (∀ e ∈ bs, e.2 = false) →
    s.refineItem b = (u.modBlock b.id (fun q => { q with asked := none, got := [w, bs.map (·.1)] })).putItem
      { b with asked := none, got := [w, bs.map (·.1)] } (fun q =>
        let cs := (b.values (bs.map (·.1))).map code64
        q.residItem c (cs.take q.n) ((List.range q.n).map (fun i => residual q.exact ((cs.take q.n).getD i 0) ((cs.drop (q.n + i * q.n)).take q.n)
          ((List.range q.n).map (fun i => tabGet 0 (c * q.n + i) q.x)))))) ∧
  (∀ (b : RefBlock) c bs rs, let q := b.residItem c bs rs
    (∀ i, i < rs.length → tabGet 0 (c * b.n + i) q.r = rs.getD i 0) ∧ q.eta = max64 b.eta (rs.foldl max64 0) ∧
    (q.pass = true ↔ b.pass = true ∧ (fVal 1 (rs.foldl max64 0)).isNaN = false ∧ mag64 (rs.foldl max64 0) ≤ b.bound (bs.foldl max64 0)) ∧
    q.pos = if c + 1 < b.nrhs then .resid (c + 1) else .judge) ∧
  (∀ (s v : State) (b : RefBlock) f (pas : List Nat),
    s.engineCheck (s.teamAgent b.core b.ctx (some b.team)) (engineAcc true) (b.wBytes b.wPuts) = (v, pas.map (fun pa => some (.mem pa)), none) →
    v.placesHeld (some b.team) (pas.map (fun pa => some (.mem pa))) = false → (∀ pa ∈ pas, v.isLocal pa = true) → v.lcache = [] →
    ∃ u : State, s.putItem b f = u.modBlock b.id (fun q => { f q with asked := none, got := [] }) ∧ (∀ d, (u.die d).blocks = (v.die d).blocks) ∧
      ∀ pa, pa ∉ pas → u.memByte pa = v.memByte pa) ∧
  (∀ (s : State) (b : RefBlock), let t := s.endBlock b
    (∀ pa, t.memByte pa = s.memByte pa) ∧ (t.die (b.core / 36)).blocks = (s.die (b.core / 36)).blocks.filter (fun q => q.id != b.id) ∧
    (t.die (b.core / 36)).traps = (s.die (b.core / 36)).traps ++ (if b.deliv then [{ core := b.core, slot := b.slot, team := b.team, lane := b.lane, addr := BitVec.ofNat 64 b.addr }] else [])) ∧
  (∀ (s : State) i d e, s.refTraps[i]? = some (d, e) → s.posterLives e.core e.slot e.team = false →
    exec (.refineTrapDelivery i) s = .next (s.modDie d (fun x => { x with traps := x.traps.erase e }))) ∧
  (∀ (s : State) i d e, s.refTraps[i]? = some (d, e) → s.posterLives e.core e.slot e.team = true →
    (s.weave e.core e.slot).trH = true ∨ s.rollWaits e.core e.slot = true →
    exec (.refineTrapDelivery i) s = .next s) ∧
  (∀ (s : State) i d e, s.refTraps[i]? = some (d, e) → s.posterLives e.core e.slot e.team = true → (s.weave e.core e.slot).trH = false →
    s.rollWaits e.core e.slot = false →
    let v := (s.modDie d (fun x => { x with traps := x.traps.erase e })).rollWeave e.core e.slot
    let live := (v.weave e.core e.slot).live
    exec (.refineTrapDelivery i) s = .next ((v.modWeave e.core e.slot (fun w => { w with rfTrap := e.addr })).trapEntry e.core e.slot live [e.lane] 3 0x20
      (v.thread e.core e.slot (if live.contains e.lane then e.lane else live.headD 0)).ctl.pc))

/-- Reading rec0 presents the oldest record not yet presented; an acknowledgement with no reserved bit set and action 0, 1 or 2 of an open record closes it and answers its sub-groups, its unit or its block; any other leaves the state. A write to TR.PPC clears the poison record. A write to a register region goes to its register: save base, save length, ticket counters and those without behaviour read back what was written. A device-wide action whose writes would reach a line that is held or has a copy outside waits, marks it and asks for it; an event from outside is kept till then. A handler that has masked for 2 microseconds kills its context; an access unanswered for 50 microseconds parks its lane, but not where the lane speculates. A word with no instruction raises the illegal-instruction trap. Completion, exec answering a next state under conditions on the state and the operands alone, is stated of fltRec0Read, efltRec0Read, fltAck, efltAck, trPpcWrite, registerWrite, handlerWatchdogExpiry, lenderRequestTimeout, unassignedOpcodeIssue. That a register without stated behaviour reads back what was written is the model's choice (log entry 66), and so is what happens to the other records of an ended command (74). -/
def Obligations.FaultsAndRegisterWrites : Prop :=
  (∀ (s : State) c, exec (.fltRec0Read c) s = .next (s.modCore c (fun k => { k with flt := presented k.flt }))) ∧
  (∀ (s : State) c, exec (.efltRec0Read c) s = .next (s.modCore c (fun k => { k with eflt := presented k.eflt }))) ∧
  (∀ (s : State) c (v : DWord), let idx := v.toNat % 2 ^ 9; let act := v.toNat / 2 ^ 12 % 4
    v.toNat / 2 ^ 9 % 8 ≠ 0 ∨ v.toNat / 2 ^ 14 ≠ 0 ∨ act = 3 ∨ (∀ r ∈ (s.core c).flt, r.idx ≠ idx) → exec (.fltAck c v) s = .next s) ∧
  (∀ (s : State) c (v : DWord), let idx := v.toNat % 2 ^ 11; let act := v.toNat / 2 ^ 12 % 4
    v.toNat / 2 ^ 11 % 2 ≠ 0 ∨ v.toNat / 2 ^ 14 ≠ 0 ∨ act = 3 ∨ (∀ r ∈ (s.core c).eflt, r.idx ≠ idx) → exec (.efltAck c v) s = .next s) ∧
  (∀ (s : State) c (v : DWord), let idx := v.toNat % 2 ^ 9; let act := v.toNat / 2 ^ 12 % 4
    v.toNat / 2 ^ 9 % 8 = 0 → v.toNat / 2 ^ 14 = 0 → act ≠ 3 → ∀ r, (s.core c).flt.find? (fun r => r.idx = idx) = some r →
    ∃ t, exec (.fltAck c v) s = .next t ∧ { t with cores := s.cores } = s ∧ (t.core c).flt = (s.core c).flt.filter (fun r => r.idx != idx) ∧
      (∀ k w l, t.thread k w l = s.thread k w l) ∧ ∀ w, (t.weave c w).parked = (s.weave c w).parked.map (fun p =>
        if p.record = idx ∧ p.action = none then { p with action := some act, posted := some r } else p)) ∧
  (∀ (s : State) c (v : DWord) d, let idx := v.toNat % 2 ^ 11; let act := v.toNat / 2 ^ 12 % 4
    v.toNat / 2 ^ 11 % 2 = 0 → v.toNat / 2 ^ 14 = 0 → (∃ r ∈ (s.core c).eflt, r.idx = idx) → idx < 1024 →
    (s.core c).cmds.find? (fun d => d.parked.any (fun p => p.record = idx && p.action.isNone)) = some d →
    (act = 0 → ∃ t, exec (.efltAck c v) s = .next t ∧ { t with cores := s.cores } = s ∧
      (t.core c).eflt = (s.core c).eflt.filter (fun r => r.idx != idx) ∧ (t.core c).cmds = (s.core c).cmds.map (fun e =>
        if e.id = d.id then { e with parked := e.parked.map (fun p => if p.record = idx ∧ p.action = none then { p with action := some 0 } else p) } else e)) ∧
    ((act = 1 ∨ act = 2) → exec (.efltAck c v) s = .next (s.endCmd c d (5 + act)))) ∧
  (∀ (s : State) c (v : DWord), let act := v.toNat / 2 ^ 12 % 4
    v.toNat % 2 ^ 12 = 1026 → v.toNat / 2 ^ 14 = 0 → act ≠ 3 → (∃ r ∈ (s.core c).eflt, r.idx = 1026) →
    ∃ t, exec (.efltAck c v) s = .next t ∧ (t.core c).eflt = (s.core c).eflt.filter (fun r => r.idx != 1026) ∧
      (t.die (c / 36)).blocks = (s.die (c / 36)).blocks.map (fun b => if b.core = c ∧ b.fault = true then { b with action := some act } else b)) ∧
  (∀ (s : State) c w, exec (.trPpcWrite c w) s = .next (s.modWeave c w (fun x => { x with trPpc := 0, trPva := 0 }))) ∧
  (∀ (s : State) a v, exec (.registerWrite a v) s = .next (s.orKept (.register a v) (if localRegion a = .regs then s.devWrite (a / 8 * 8) v else s))) ∧
  (∀ (s : State) c t, s.heldWrites c t = [] → s.afterHolds c t = t) ∧
  (∀ (s : State) c t, s.heldWrites c t ≠ [] → (∀ pa, (s.afterHolds c t).memByte pa = s.memByte pa) ∧ (s.afterHolds c t).cores = s.cores ∧
    ∀ n ∈ s.heldWrites c t, ∀ x ∈ (s.afterHolds c t).snoops, x.line = n → x.pending = true) ∧
  (∀ (s : State) c t n, n ∈ s.heldWrites c t ↔ ((∃ h ∈ s.holds, h.line = n ∧ h.core ≠ c ∧ h.live s.time = true) ∨ ∃ x ∈ s.snoops, x.line = n) ∧
    ∃ i, i < 128 ∧ t.memByte (n * 128 + i) ≠ s.memByte (n * 128 + i)) ∧
  (∀ (s : State) i t, (s.heldWrites ioDie t = [] → s.orKept i t = { t with kept := t.kept.erase i }) ∧
    (s.heldWrites ioDie t ≠ [] → i ∈ (s.orKept i t).kept ∧ ∀ pa, (s.orKept i t).memByte pa = s.memByte pa)) ∧
  (∀ (s : State) c d code, let t := s.endCmd c d code; (t.core c).cmds = (s.core c).cmds.filter (fun e => e.id != d.id) ∧
    (t.core c).eflt = (s.core c).eflt.filter (fun r => !(((d.parked.filter (·.action.isNone)).map (·.record)).contains r.idx))) ∧
  (∀ (s : State) a v, (devReg a = .saveBase ∨ devReg a = .saveLen ∨ (∃ p, devReg a = .tickets p) ∨ ∃ b, devReg a = .other b) →
    (s.devWrite a v).devRead a = v ∧ (∀ pa, (s.devWrite a v).memByte pa = s.memByte pa) ∧ (s.devWrite a v).cores = s.cores) ∧
  (∀ (s : State) c w y, (s.weave c w).team = some y → (s.weave c w).trH = true → (s.weave c w).trM = true → (s.weave c w).trSince + 2000 ≤ s.time →
    exec (.handlerWatchdogExpiry c w) s = .next (s.afterHolds c ((s.contextKill (s.team y).ctx 3 ((s.weave c w).trCause.toNat % 256)).wakeAgent c 5))) ∧
  (∀ (s : State) c w, (s.weave c w).team = none ∨ (s.weave c w).trH = false ∨ (s.weave c w).trM = false ∨ s.time < (s.weave c w).trSince + 2000 →
    exec (.handlerWatchdogExpiry c w) s = .next s) ∧
  (∀ (s : State) ctx reason cause q, ((s.contextKill ctx reason cause).queue q).active = true → (s.queue q).owner ≠ ctx) ∧
  (∀ (s : State) c n q u, (s.thread c (n / 32) (n % 32)).mode = .waiting .lender → (s.thread c (n / 32) (n % 32)).lend = some q → q.since + 50000 ≤ s.time →
    (s.thread c (n / 32) (n % 32)).spec = none → q.target = false →
    s.park c (n / 32) (s.thread c (n / 32) (n % 32)).ctl.pc q.wr [{ lane := n % 32, cause := 2, detail := 4, level := q.level, lid := leafLid q.leaf, va := q.va, iff := q.fetch, scr := q.scr }] = some u →
    exec (.lenderRequestTimeout c n) s = .next (u.modThread c (n / 32) (n % 32) (fun t => { t with lend := none }))) ∧
  (∀ (s : State) c n q, (s.thread c (n / 32) (n % 32)).mode = .waiting .lender → (s.thread c (n / 32) (n % 32)).lend = some q →
    s.time < q.since + 50000 ∨ (s.thread c (n / 32) (n % 32)).spec.isSome = true ∨ q.target = true → exec (.lenderRequestTimeout c n) s = .next s) ∧
  (∀ (t : Thread) ns, (t.hollowed ns).hollow = ns ∧ { t.hollowed ns with regs := t.regs, hollow := t.hollow } = t ∧
    ∀ n, (t.hollowed ns).reg n = if n ∈ ns then { t.reg n with full := false, poison := false } else t.reg n) ∧
  (∀ (s : State) c n f q, (s.thread c (n / 32) (n % 32)).mode ≠ .waiting .lender → (s.thread c (n / 32) (n % 32)).frame = some f → f.lend = some q →
    q.since + 50000 ≤ s.time → exec (.lenderRequestTimeout c n) s =
      .next (s.modThread c (n / 32) (n % 32) (fun t => { t with frame := t.frame.map (fun f => { f with lend := none }) }))) ∧
  (∀ (s : State) g w, s.group = some g → isHeader w = true → exec (.unassignedOpcodeIssue w) s = .next (s.raise g 1 1 g.lanes)) ∧
  (∀ (s : State) g w, s.group = some g → isHeader w = false → majorForm (majorOf w) = none → exec (.unassignedOpcodeIssue w) s = .next (s.raise g 1 4 g.lanes)) ∧
  (∀ (s : State) g w, s.group = some g → isHeader w = false → (majorForm (majorOf w)).isSome = true → exec (.unassignedOpcodeIssue w) s = .next s)

/-- A write to a descriptor of an inactive queue changes that word, RIDX excepted; activation of a sound one makes it active with RIDX 0; both discard on an active queue. A notification takes in the packets from RIDX to WIDX; destruction makes the queue inactive and cancels its open launches. PARTMAP keeps the field of every held core. Once the package is enumerated, the next gang, of the queue asked, is committed to its window, a blocked deadline head pre-empting first; a head that fits nowhere is blocked and ages by whole milliseconds. A gang all of whose teams have arrived starts, windows that failed before it leave rollback entries in the journal, whose entries beat for their thread. RETIRED advances past sound tickets in state 4 or 5 of a counter that is set up, and the standby adopts a silent thread's queue. What writes memory waits for holds. Completion, exec answering a next state under conditions on the state and the operands alone, is stated of queueDescriptorWrite, queueActivate, queueNotify, queueDestroy, partmapWrite, gangPlacement, headAging, gangStartRelease, ticketRetire, journalTakeover. Untranslated RING and WIDXA (log entry 41) and a destruction that first takes in the ring (42) are the model's readings, heartbeats and takeover (43) its choice. -/
def Obligations.QueuesAndGangs : Prop :=
  (∀ (s : State) q w v, q < 64 → w < 8 → (s.queue q).active = false → ∃ t, exec (.queueDescriptorWrite q w v) s = .next t ∧
    { t with queues := s.queues } = s ∧ (∀ k, k ≠ q → t.queue k = s.queue k) ∧
    t.queue q = { s.queue q with words := (s.queue q).words.set w (if w = 4 then (s.queue q).words.getD 4 0 else v) }) ∧
  (∀ (s : State) q w v, 64 ≤ q ∨ 8 ≤ w ∨ (s.queue q).active = true → exec (.queueDescriptorWrite q w v) s = .next s) ∧
  (∀ (s : State) q, q < 64 → (s.queue q).active = false → ∃ t, exec (.queueActivate q) s = .next t ∧ { t with queues := s.queues } = s ∧
    (∀ k, k ≠ q → t.queue k = s.queue k) ∧ t.queue q = if (s.queue q).sound = true
      then { s.queue q with active := true, stopped := false, words := (s.queue q).words.set 4 0 } else s.queue q) ∧
  (∀ (s : State) q, 64 ≤ q ∨ (s.queue q).active = true → exec (.queueActivate q) s = .next s) ∧
  (∀ (q : Queue), q.sound = true ↔ q.word 5 = 0 ∧ q.word 6 = 0 ∧ q.word 7 = 0 ∧ q.word 0 < 32 ∧ q.word 1 / 2 ^ 4 % 2 ^ 4 = 0 ∧ 4 ≤ q.word 0 ∧ q.word 0 ≤ 16 ∧
    q.word 2 % 4096 = 0 ∧ (q.word 1).testBit 2 = false ∧ q.word 1 / 2 ^ 40 % 2 ^ 8 ≠ 0) ∧
  (∀ (s : State) q, q < 64 → exec (.queueNotify q) s = .next (s.orKept (.notify q) ((s.intake q).beat q))) ∧
  (∀ (s : State) q, { s.beat q with sched := s.sched } = s ∧ (s.beat q).sched = { s.sched with heart := (s.beat q).sched.heart } ∧
    tabGet 0 (if s.sched.adopted.contains q then s.sched.standby else q) (s.beat q).sched.heart = s.time) ∧
  (∀ (s : State) q, (s.queue q).active = false ∨ s.readPhys (s.fabric ((s.queue q).word 3)) 8 ≤ (s.queue q).word 4 → s.intake q = s) ∧
  (∀ (s : State) q, 64 ≤ q → exec (.queueNotify q) s = .next { s with kept := s.kept.erase (.notify q) } ∧
    exec (.queueDestroy q) s = .next { s with kept := s.kept.erase (.destroy q) }) ∧
  (∀ (s : State) q, q < 64 → let u := ((s.intake q).takeBare q).modQueue q (fun d => { d with active := false })
    exec (.queueDestroy q) s = .next (s.orKept (.destroy q)
      (((u.launches.filter (fun l => l.queue = q && !l.ended)).map (·.id)).foldl State.cancelLaunch u)) ∧
    (u.queue q).active = false) ∧
  (∀ (s : State) id l, s.findLaunch id = some l → (∀ g ∈ s.gangs, g.launch ≠ id) →
    s.cancelLaunch id = (s.modLaunch id (fun l => { l with cancel := true })).endLaunch id 2 0 0) ∧
  (∀ (s : State) i v, i < 9 → ∃ t, exec (.partmapWrite i v) s = .next t ∧ { t with partmap := s.partmap } = s ∧
    ∀ c, t.partField c = if c / 16 = i ∧ s.coreHeld c = false then v.toNat / 2 ^ (4 * (c % 16)) % 16 else s.partField c) ∧
  (∀ (s : State) i v, 9 ≤ i → exec (.partmapWrite i v) s = .next s) ∧
  (∀ (s b : State) q l f p win, s.enumerated = true → b = (match s.ageHead.order.head? with | some h => if s.ageHead.sched.blockedSince.isSome && s.ageHead.launchClass h == 0 then s.ageHead.preemptFor h else s.ageHead | none => s.ageHead) → b.nextGang = some (l, f, p, win) →
    exec (.gangPlacement q) s = .next (if l.queue = q then
      s.afterHolds ioDie ((f.foldl (fun s (e : Nat × List Nat) => s.failWindow l e.2) (b.serve l)).commitGang l p win).ageHead else b)) ∧
  (∀ (s b : State) q, s.enumerated = true → b = (match s.ageHead.order.head? with | some h => if s.ageHead.sched.blockedSince.isSome && s.ageHead.launchClass h == 0 then s.ageHead.preemptFor h else s.ageHead | none => s.ageHead) → b.nextGang = none → exec (.gangPlacement q) s = .next b) ∧
  (∀ (s : State) q, s.enumerated = false → exec (.gangPlacement q) s = .next s) ∧
  (∀ (s : State) l win, s.sched.journal.length ≤ 8192 → let got := win.takeWhile (fun c => fits s.loads l.kd [c])
    (s.failWindow l win).sched.journal = keepLast 8192 (s.sched.journal ++ got.map (fun c => (4, l.id, c)) ++ got.map (fun c => (5, l.id, c))) ∧
    { s.failWindow l win with sched := s.sched } = s) ∧
  (∀ (s : State) q k a b, (s.journal q k a b).sched.journal = keepLast 8192 (s.sched.journal ++ [(k, a, b)]) ∧
    tabGet 0 (if s.sched.adopted.contains q then s.sched.standby else q) (s.journal q k a b).sched.heart = s.time) ∧
  (∀ (s : State) h p, p ∈ s.closedParts h ↔ 8 ≤ s.sched.age ∧ p < 8 ∧ bitAt h.parts p = true ∧
    (s.allocAreas h.kd.saveLen h.kd.teams (s.areasOf (fun e => !(s.partCores p).contains e.core))).isSome = true ∧
    ∃ w ∈ coreWindows h.kd.teams (s.partCores p), fits (s.loads.filter (fun e => !(s.partCores p).contains e.core)) h.kd w = true) ∧
  (∀ (s : State) h, (∀ c ∈ (if s.sched.held.isEmpty then { s with sched := { s.sched with held := (s.cheapestWindow h).getD [] } } else s).cores,
      c.2.teams = []) → s.preemptFor h = if s.sched.held.isEmpty then { s with sched := { s.sched with held := (s.cheapestWindow h).getD [] } } else s) ∧
  (∀ (s : State) l p win areas, s.allocAreas l.kd.saveLen l.kd.teams s.areas = some areas → win.length = areas.length →
    ∃ g, (s.commitGang l p win).gangs = s.gangs ++ [g] ∧ g.launch = l.id ∧ g.index = l.placed ∧ g.part = p ∧ g.started = false ∧
      g.teams.map (·.core) = win ∧ g.teams.map (·.save) = areas ∧ ∀ e ∈ g.teams, e.reserved = true ∧ e.completed = false) ∧
  (∀ (s : State) l p win areas, s.allocAreas l.kd.saveLen l.kd.teams s.areas = some areas → win.length = areas.length → l.kd.teams = win.length →
    ∀ c ∈ win, ((s.commitGang l p win).core c).fwEvents.getLsbD 0 = true) ∧
  (∀ (s : State) q h rest, s.order = h :: rest → exec (.headAging q) s = .next (if h.queue = q then s.ageHead else s)) ∧
  (∀ (s : State) q, s.order = [] → exec (.headAging q) s = .next s) ∧
  (∀ (s : State) h rest, s.order = h :: rest → s.ageHead.sched.head = some (h.id, h.placed) ∧ let fits := ((s.serve h).findWindow h [] []).isSome
    (s.sched.head = some (h.id, h.placed) → fits = false → s.ageHead.sched.blockedSince = some (s.sched.blockedSince.getD s.time) ∧
      s.ageHead.sched.age = (s.time - s.sched.blockedSince.getD s.time) / 1000000) ∧
    (s.sched.head = some (h.id, h.placed) → fits = true → s.ageHead.sched.age = s.sched.age ∧ s.ageHead.sched.blockedSince = s.sched.blockedSince) ∧
    (s.sched.head ≠ some (h.id, h.placed) → s.ageHead.sched.age = 0 ∧ s.ageHead.sched.blockedSince = if fits = true then none else some s.time)) ∧
  (∀ (s : State) n g, s.findGang n = some g → g.started = false → g.teams.length ≤ g.arrived.length →
    tabSorted s.cores = true → ∃ t, exec (.gangStartRelease n) s = .next t ∧ t.findGang n = some { g with started := true } ∧
      ∀ e ∈ g.teams, (s.findTeam e.team).isSome = true → (t.team e.team).started = true) ∧
  (∀ (s : State) n g, s.findGang n = some g → g.started = true ∨ g.arrived.length < g.teams.length → exec (.gangStartRelease n) s = .next s) ∧
  (∀ (s : State) p, s.tkcSound p = true → let posted := s.tkcWord p 2; let retired := s.tkcWord p 3; let slots := s.tkcWord p 1
    let done := fun i => let a := s.tkcWord p 0 + 64 * ((retired + i) % slots); s.ticketSound a && (s.ticketState a == 4 || s.ticketState a == 5)
    let n := ((List.range (min (posted - retired) slots)).takeWhile done).length
    let seen := tabGet (0, 0) p s.posted
    exec (.ticketRetire p) s = .next (if n = 0 then s else s.afterHolds ioDie { s.tkcSet p 3 (retired + n) with
      posted := tabSet p (seen.1, if seen.2 = retired then retired + n else seen.2) s.posted })) ∧
  (∀ (s : State) p, s.tkcSound p = false → exec (.ticketRetire p) s = .next s) ∧
  (∀ (s : State) p, s.tkcSound p = true ↔ tabGet 0 p s.qptkc ≠ 0 ∧ (∃ i, i ≤ 10 ∧ s.tkcWord p 1 = 64 * 2 ^ i) ∧ s.tkcWord p 0 % 64 = 0 ∧
    ∀ i, i < 4 → s.tkcWord p (4 + i) = 0) ∧
  (∀ (s : State) n, n < 64 → n ≠ s.sched.standby → n ∉ s.sched.adopted → tabGet 0 n s.sched.heart + 50000 ≤ s.time →
    exec (.journalTakeover n) s = .next (s.afterHolds ioDie
      ((({ s with sched := { s.sched with adopted := insertNat n s.sched.adopted } } : State).intake n).beat n))) ∧
  (∀ (s : State) n, 64 ≤ n ∨ n = s.sched.standby ∨ n ∈ s.sched.adopted ∨ s.time < tabGet 0 n s.sched.heart + 50000 → exec (.journalTakeover n) s = .next s)

/-- For a team on its core: a slice whose charge has run out expires, ends its pauses and wakes the agent; a team not at a safe point within a quarter of its slice, at most 250 microseconds, becomes urgent; a request is noted and wakes the agent, and one in hand is carried on by drain, save or flush as its progress tells, after the overrun has entered the debt once; a drain of 100 microseconds turns into an urgent save; a team whose weaves, commands, blocks and stores have ended completes; a saved team gets the first core that fits, and its agent is woken. Before its condition holds each leaves the state as it is. Completion, exec answering a next state under conditions on the state and the operands alone, is stated of sliceExpiry, urgentPreemptionTimeout, preemptionRequest, drainTimeout, teamCompletion, savedTeamRestore. The 250 microseconds of a queue with SLICE 0 are the model's choice (log entry 45). -/
def Obligations.SlicesAndPreemption : Prop :=
  (∀ (s : State) c y x f, s.findTeam y = some (c, x) → x.pre.slice ≠ 0 → x.pre.expired = false → x.pre.charged = some f → f + x.pre.left ≤ s.time →
    ∃ t, exec (.sliceExpiry c y) s = .next t ∧ (∀ pa, t.memByte pa = s.memByte pa) ∧ (t.team y).pre = { x.pre with expired := true, left := 0, charged := none, since := f + x.pre.left } ∧ { t.team y with pre := x.pre } = x ∧ (∀ k, (t.core k).fwEvents = if k = c then (s.core c).fwEvents ||| (1#6 <<< 3) else (s.core k).fwEvents) ∧ ∀ w ∈ x.slots, ∀ l, (t.thread c w l).mode = if (s.thread c w l).mode = .paused then .ready else (s.thread c w l).mode) ∧
  (∀ (s : State) c y x f, s.findTeam y = some (c, x) → x.pre.slice ≠ 0 → x.pre.expired = false → x.pre.charged = some f → s.time < f + x.pre.left → exec (.sliceExpiry c y) s = .next s) ∧
  (∀ (s : State) c y x, s.findTeam y = some (c, x) → (x.pre.slice = 0 ∨ x.pre.charged = none) → x.pre.expired = false → exec (.sliceExpiry c y) s = .next s) ∧
  (∀ (s : State) c y x, s.findTeam y = some (c, x) → x.pre.expired = true → exec (.sliceExpiry c y) s = .next (s.afterHolds ioDie (s.preemptStage c x))) ∧
  (∀ (s : State) c y x, s.findTeam y = some (c, x) → (x.pre.requested = true ∨ x.pre.expired = true) → x.pre.urgent = false → (x.pre.action = 0 ∨ x.pre.action = 4) →
    x.pre.since + (if x.pre.slice = 0 then 250000 else min (x.pre.slice / 4) 250000) ≤ s.time →
    ∃ t, exec (.urgentPreemptionTimeout c y) s = .next t ∧ (∀ pa, t.memByte pa = s.memByte pa) ∧ (t.team y).pre = { x.pre with urgent := true } ∧ { t.team y with pre := x.pre } = x ∧ ∀ k, (t.core k).fwEvents = (s.core k).fwEvents) ∧
  (∀ (s : State) c y x, s.findTeam y = some (c, x) → (x.pre.requested = false ∧ x.pre.expired = false ∨ x.pre.urgent = true ∨ (x.pre.action ≠ 0 ∧ x.pre.action ≠ 4) ∨
    s.time < x.pre.since + (if x.pre.slice = 0 then 250000 else min (x.pre.slice / 4) 250000)) → exec (.urgentPreemptionTimeout c y) s = .next s) ∧
  (∀ (s : State) c y x, s.findTeam y = some (c, x) → x.pre.requested = false → x.pre.expired = false → x.yields = false → x.slots ≠ [] →
    ∃ t, exec (.preemptionRequest c y) s = .next t ∧ (∀ pa, t.memByte pa = s.memByte pa) ∧ (t.team y).pre = { x.pre with requested := true, urgent := false, since := if x.pre.action = 1 then x.pre.since else s.time } ∧ { t.team y with pre := x.pre } = x ∧ (∀ k, (t.core k).fwEvents = if k = c then (s.core c).fwEvents ||| (1#6 <<< 2) else (s.core k).fwEvents) ∧ ∀ w ∈ x.slots, ∀ l, (t.thread c w l).mode = if (s.thread c w l).mode = .paused then .ready else (s.thread c w l).mode) ∧
  (∀ (s : State) c y x, s.findTeam y = some (c, x) → (x.pre.requested = true ∨ x.pre.expired = true ∨ x.yields = true) →
    exec (.preemptionRequest c y) s = .next (s.afterHolds ioDie (s.preemptStage c x))) ∧
  (∀ (s : State) c x, x.slots = [] ∨ s.masked c x = true → s.preemptStage c x = s) ∧
  (∀ (s : State) c x, x.slots ≠ [] → s.masked c x = false → x.pre.stopping = true → x.pre.action ≠ 4 → s.preemptStage c x = s.carrySave c x) ∧
  (∀ (s : State) c x, x.slots ≠ [] → s.masked c x = false → x.pre.stopping = false → (x.pre.action = 1 ∧ x.pre.urgent = false ∨
      x.pre.urgent = false ∧ s.atSafePoint c x = false ∨ x.pre.requested = false ∧ x.pre.expired = false ∧ x.yields = false) → s.preemptStage c x = s) ∧
  (∀ (s : State) c x, x.slots ≠ [] → s.masked c x = false → x.pre.stopping = false → ¬ (x.pre.action = 1 ∧ x.pre.urgent = false) →
      (x.pre.urgent = true ∨ s.atSafePoint c x = true) → (x.pre.requested = true ∨ x.pre.expired = true ∨ x.yields = true) → x.pre.action ≠ 4 →
    let u := s.endSlice c x
    s.preemptStage c x = if u.chooseAction c x x.pre.urgent = 1 then u.beginDrain c x else if u.chooseAction c x x.pre.urgent = 3 then u.flushStage c x true
      else (u.modTeam x.id (fun y => { y with pre := { y.pre with action := 2 } })).stopTeam c x) ∧
  (∀ (s : State) c x, x.slots ≠ [] → s.masked c x = false → x.pre.action = 4 →
      (x.pre.stopping = true ∨ (x.pre.urgent = true ∨ s.atSafePoint c x = true) ∧ (x.pre.requested = true ∨ x.pre.expired = true ∨ x.yields = true)) →
    s.preemptStage c x = ((s.endSlice c x).flushStage c x false).settleGang x.gang) ∧
  (∀ (s : State) c (x : Team) re, s.flushStage c x re = if s.backsHeld c x = true then s.waitBacks c x else s.flushTeam x.id x.ticket re) ∧
  (∀ (s : State) c (x : Team), x.pre.slice = 0 ∨ x.pre.ended = true → s.endSlice c x = s) ∧
  (∀ (s : State) c (x : Team), x.pre.slice ≠ 0 → x.pre.ended = false → x.pre.expired = true →
    s.endSlice c x = (s.modTeam x.id (fun y => { y with pre := { y.pre with ended := true } })).modContext x.ctx (fun k =>
      let debt := k.slDebt + s.overrun c x; let next := max (x.pre.slice - debt) (x.pre.slice / 8)
      { k with slDebt := debt - (x.pre.slice - next), slNext := some next })) ∧
  (∀ (s : State) c (x : Team), x.pre.slice ≠ 0 → x.pre.ended = false → x.pre.expired = false → x.yields = true →
    s.endSlice c x = (s.modTeam x.id (fun y => { y with pre := { y.pre with ended := true } })).wakeAgent c 3) ∧
  (∀ (s : State) c (x : Team) at_, s.atSafePoint c x = true → x.pre.header = some at_ → s.overrun c x = at_ - x.pre.since) ∧
  (∀ (s : State) c x, let u := s.rollTeam c x
    s.carrySave c x = if u.quiet c x = false then u else if u.backsHeld c x = true then u.waitBacks c x else u.saveTeam x.id) ∧
  (∀ (s : State) c (x : Team), (∀ w ∈ x.slots, s.rollWaits c w = true) → s.rollTeam c x = s) ∧
  (∀ (s : State) c (x : Team) urgent, let p := s.progress c x
    s.chooseAction c x urgent = if urgent = false ∧ 57344 ≤ p then 1
      else if x.kd.idem = true ∧ p < 16384 ∧ s.gangWaits c x = false then 3 else 2) ∧
  (∀ (s : State) c y x, s.findTeam y = some (c, x) → x.pre.action = 1 → x.pre.since + 100000 ≤ s.time → x.slots ≠ [] → s.masked c x = false →
    exec (.drainTimeout c y) s = .next ((s.modTeam y (fun x => { x with pre := { x.pre with action := 2, urgent := true } })).stopTeam c x)) ∧
  (∀ (s : State) c y x, s.findTeam y = some (c, x) → x.id = y → (((s.stopTeam c x).team y).pre = { x.pre with stopping := true })) ∧
  (∀ (s : State) c y x, s.findTeam y = some (c, x) → (x.pre.action ≠ 1 ∨ s.time < x.pre.since + 100000 ∨ x.slots = [] ∨ s.masked c x = true) → exec (.drainTimeout c y) s = .next s) ∧
  (∀ (s : State) c y x, s.findTeam y = some (c, x) → s.teamEnded c x = true → s.backsHeld c x = false → exec (.teamCompletion c y) s = .next (s.afterHolds ioDie (s.completeTeam y)) ∧
      ∀ g ∈ (s.completeTeam y).gangs, ∀ e ∈ g.teams, e.team = y → e.completed = true ∧ e.reserved = false) ∧
  (∀ (s : State) c y x, s.findTeam y = some (c, x) → s.teamEnded c x = true → s.backsHeld c x = true → exec (.teamCompletion c y) s = .next (s.waitBacks c x)) ∧
  (∀ (s : State) c y x, s.findTeam y = some (c, x) → s.teamEnded c x = false → exec (.teamCompletion c y) s = .next s) ∧
  (∀ (s : State) n g e l c, s.away[n]? = some (g, e) → s.findLaunch g.launch = some l → l.cancel = false → s.coreFor l g e = some c →
    let u := ((s.modGangTeam e.team (fun e => { e with core := c, reserved := true })).setTicketCore e.ticket c).wakeAgent c 0
    exec (.savedTeamRestore n) s = .next (s.afterHolds ioDie u) ∧ (u.core c).fwEvents = (s.core c).fwEvents ||| (1#6 <<< 0) ∧
      u.gangs = s.gangs.map (fun g => { g with teams := g.teams.map (fun u => if u.team = e.team then { u with core := c, reserved := true } else u) })) ∧
  (∀ (s : State) a c, s.ticketPlain a → c < 256 → bitsAt ((s.setTicketCore a c).ticketWord a 1) 18 8 = c ∧ (s.setTicketCore a c).ticketState a = s.ticketState a) ∧
  (∀ (s : State) l g e c, s.coreFor l g e = some c → (s.ticketState e.ticket = 1 → c = e.core) ∧
    (s.ticketState e.ticket ≠ 1 → (∀ v ∈ s.saved, v.team.id ≠ e.team) → c = e.home) ∧ fits s.loads (s.unfreed e.team l.kd) [c] = true ∧
    ∀ o ∈ g.teams, o.team ≠ e.team → o.completed = false → o.reported = false → o.reserved = true → o.core ≠ c) ∧
  (∀ (s : State) n g e l, s.away[n]? = some (g, e) → s.findLaunch g.launch = some l → (l.cancel = true ∨ s.coreFor l g e = none) →
    exec (.savedTeamRestore n) s = .next s)

/-- A request for an extent that is lendable, FREE and whose term is in range makes its lender entry ACTIVE under the next generation and sends the grant; else the refusal 2, 3 or 4; a renewal changes the term or is refused with 1 or 4. A grant or refusal completes the request of the entry that it names; none for 50 microseconds gives 5. An entry ends at its term less the lead; its lines are written back, then the release is sent, and its acknowledgement frees it, as a revoke does, once bound commands have no bytes of the extent in flight; a lender entry is recalled at its term, and is free after a release or once no snoop is pending. Keepalives go out every 10 microseconds, each answer of a peer shows that it lives, and a peer silent for 50, or that leaves a snoop unanswered as long, ends every entry with cause 3. Completion, exec answering a next state under conditions on the state and the operands alone, is stated of leaseRequestReceived, leaseGrantReceived, leaseReplyTimeout, borrowerLeaseEnd, endingWritebackDone, leaseRevokeReceived, lenderTermExpiry, leaseReleaseReceived, backInvalidateSnoop, recallCommit, leaseKeepalive, peerSilent, leasectlWrite. Peer answers, the acknowledgement of a release, its free cause 1 or 4, and a lender that waits for tenure to be recalled are the model's choice (log entry 19); that a LEAD out of range is stored as written is its reading (51). -/
def Obligations.LeaseProtocol : Prop :=
  (∀ (s : State) (msg : LeaseMsg), msg.peer ≠ s.pkg → msg.peer < 1024 → msg.flags ≠ 1 → tabGet 0 (msg.extent % 4096) s.lendable ≠ 0 → (s.lender (msg.extent % 4096)).st = 0 → s.termOk (msg.extent % 4096) msg.term = true →
    ∃ t, exec (.leaseRequestReceived msg) s = .next t ∧ t.lender (msg.extent % 4096) = { s.lender (msg.extent % 4096) with st := 2, gen := (s.lender (msg.extent % 4096)).gen % 15 + 1, peer := msg.peer, ext := msg.extent % 4096, pent := msg.entry % 4096, term := msg.term % 2 ^ 64, byTerm := false } ∧ (∀ k, k ≠ (msg.extent % 4096) → t.lender k = s.lender k) ∧ t.sent = (7, msg.peer, (msg.extent % 4096)) :: s.sent) ∧
  (∀ (s : State) (msg : LeaseMsg), msg.peer ≠ s.pkg → msg.peer < 1024 → msg.flags ≠ 1 → tabGet 0 (msg.extent % 4096) s.lendable = 0 → exec (.leaseRequestReceived msg) s = .next { s with sent := (8, msg.peer, 2) :: s.sent }) ∧
  (∀ (s : State) (msg : LeaseMsg), msg.peer ≠ s.pkg → msg.peer < 1024 → msg.flags ≠ 1 → tabGet 0 (msg.extent % 4096) s.lendable ≠ 0 → (s.lender (msg.extent % 4096)).st ≠ 0 → exec (.leaseRequestReceived msg) s = .next { s with sent := (8, msg.peer, 3) :: s.sent }) ∧
  (∀ (s : State) (msg : LeaseMsg), msg.peer ≠ s.pkg → msg.peer < 1024 → msg.flags ≠ 1 → tabGet 0 (msg.extent % 4096) s.lendable ≠ 0 → (s.lender (msg.extent % 4096)).st = 0 → s.termOk (msg.extent % 4096) msg.term = false → exec (.leaseRequestReceived msg) s = .next { s with sent := (8, msg.peer, 4) :: s.sent }) ∧
  (∀ (s : State) (msg : LeaseMsg), msg.peer ≠ s.pkg → msg.peer < 1024 → msg.flags = 1 → (s.lender (msg.extent % 4096)).st = 2 → (s.lender (msg.extent % 4096)).peer = msg.peer → tabGet 0 (msg.extent % 4096) s.lendable ≠ 0 →
    s.termOk (msg.extent % 4096) msg.term = true → ∃ t, exec (.leaseRequestReceived msg) s = .next t ∧ t.lender (msg.extent % 4096) = { s.lender (msg.extent % 4096) with term := msg.term % 2 ^ 64 } ∧ (∀ k, k ≠ (msg.extent % 4096) → t.lender k = s.lender k) ∧ t.sent = (7, msg.peer, (msg.extent % 4096)) :: s.sent) ∧
  (∀ (s : State) (msg : LeaseMsg), msg.peer ≠ s.pkg → msg.peer < 1024 → msg.flags = 1 → ((s.lender (msg.extent % 4096)).st ≠ 2 ∨ (s.lender (msg.extent % 4096)).peer ≠ msg.peer) → exec (.leaseRequestReceived msg) s = .next { s with sent := (8, msg.peer, 1) :: s.sent }) ∧
  (∀ (s : State) (msg : LeaseMsg), msg.peer ≠ s.pkg → msg.peer < 1024 → msg.flags = 1 → (s.lender (msg.extent % 4096)).st = 2 → (s.lender (msg.extent % 4096)).peer = msg.peer → (tabGet 0 (msg.extent % 4096) s.lendable = 0 ∨ s.termOk (msg.extent % 4096) msg.term = false) → exec (.leaseRequestReceived msg) s = .next { s with sent := (8, msg.peer, 4) :: s.sent }) ∧
  (∀ (s : State) e term, s.termOk e term = true ↔ s.time + 1000 * (s.leasectl.toNat / 2 ^ 32 % 2 ^ 16) < term ∧ term ≤ s.time + tabGet 0 e s.lendable) ∧
  (∀ (s : State) (msg : LeaseMsg) term, (s.borrower (msg.entry % 4096)).ask = some term → (s.borrower (msg.entry % 4096)).peer = msg.peer → (s.borrower (msg.entry % 4096)).ext = msg.extent → (s.borrower (msg.entry % 4096)).gen = msg.gen → (s.borrower (msg.entry % 4096)).st = 1 → msg.granted = true → ∃ t, exec (.leaseGrantReceived msg) s = .next t ∧ t.borrower (msg.entry % 4096) = { s.borrower (msg.entry % 4096) with st := 2, term := term, pent := (s.borrower (msg.entry % 4096)).ext, ask := none, answer := some 0, granted := s.time } ∧ (∀ k, k ≠ (msg.entry % 4096) → t.borrower k = s.borrower k) ∧ t.sent = s.sent ∧ (t.peer msg.peer).heard = s.time) ∧
  (∀ (s : State) (msg : LeaseMsg) term, (s.borrower (msg.entry % 4096)).ask = some term → (s.borrower (msg.entry % 4096)).peer = msg.peer → (s.borrower (msg.entry % 4096)).ext = msg.extent → (s.borrower (msg.entry % 4096)).gen = msg.gen → (s.borrower (msg.entry % 4096)).st = 1 → msg.granted = false → ∃ t, exec (.leaseGrantReceived msg) s = .next t ∧ t.borrower (msg.entry % 4096) = { s.borrower (msg.entry % 4096) with st := 0, ask := none, answer := some msg.code } ∧ (∀ k, k ≠ (msg.entry % 4096) → t.borrower k = s.borrower k) ∧ t.sent = s.sent ∧ (t.peer msg.peer).heard = s.time) ∧
  (∀ (s : State) (msg : LeaseMsg) term, (s.borrower (msg.entry % 4096)).ask = some term → (s.borrower (msg.entry % 4096)).peer = msg.peer → (s.borrower (msg.entry % 4096)).ext = msg.extent → (s.borrower (msg.entry % 4096)).gen = msg.gen → (s.borrower (msg.entry % 4096)).st = 2 → ∃ t, exec (.leaseGrantReceived msg) s = .next t ∧ t.borrower (msg.entry % 4096) = { s.borrower (msg.entry % 4096) with term := if msg.granted then term else (s.borrower (msg.entry % 4096)).term, ask := none, answer := some (if msg.granted then 0 else msg.code) } ∧ (∀ k, k ≠ (msg.entry % 4096) → t.borrower k = s.borrower k) ∧ t.sent = s.sent ∧ (t.peer msg.peer).heard = s.time) ∧
  (∀ (s : State) (msg : LeaseMsg), (s.borrower (msg.entry % 4096)).ask = none → exec (.leaseGrantReceived msg) s = .next s) ∧
  (∀ (s : State) i, (s.borrower i).ask.isSome = true → (s.borrower i).since + 50000 ≤ s.time → ∃ t, exec (.leaseReplyTimeout i) s = .next t ∧ t.borrower i = { s.borrower i with st := if (s.borrower i).st = 1 then 0 else (s.borrower i).st, ask := none, answer := some 5 } ∧ (∀ k, k ≠ i → t.borrower k = s.borrower k) ∧ t.sent = s.sent) ∧
  (∀ (s : State) i, (s.borrower i).ask = none ∨ s.time < (s.borrower i).since + 50000 → exec (.leaseReplyTimeout i) s = .next s) ∧
  (∀ (s : State) i, (s.borrower i).st = 2 → (s.borrower i).term ≤ s.time + s.leadNs → ∃ t, exec (.borrowerLeaseEnd i) s = .next t ∧ t.borrower i = { s.borrower i with st := 3, why := 1, released := false } ∧ (∀ k, k ≠ i → t.borrower k = s.borrower k) ∧ t.sent = s.sent ∧ (∀ pa, t.memByte pa = s.memByte pa) ∧
      ∀ c, ∀ e ∈ (t.core c).tlb, leafLid e.leaf.toNat = 0 ∨ leafLid e.leaf.toNat % 2 ^ 12 ≠ i ∨ (e.draining = true ∧ leaseAgent ∈ e.mark)) ∧
  (∀ (s : State) i, (s.borrower i).st ≠ 2 ∨ s.time + s.leadNs < (s.borrower i).term → exec (.borrowerLeaseEnd i) s =
      .next (if s.lenderReady i = true then s.recallTenure (s.borrower i).peer (s.borrower i).ext else s)) ∧
  (∀ (s : State) p e, s.recallTenure p e = if s.extentWaits (extentBase p e) extentBytes = true then s else s.recallExtent (extentBase p e) extentBytes) ∧
  (∀ (s : State) i, (s.borrower i).st = 3 → (s.borrower i).released = false → ∃ t, exec (.endingWritebackDone i) s = .next t ∧ t.borrower i = { s.borrower i with released := true } ∧ (∀ k, k ≠ i → t.borrower k = s.borrower k) ∧ t.sent = (3, (s.borrower i).peer, i) :: s.sent ∧
      (∀ q ∈ t.lcache, inExtent (s.borrower i).peer (s.borrower i).ext (q.line * 128) = false) ∧ ∀ h ∈ t.holds, inExtent (s.borrower i).peer (s.borrower i).ext (h.line * 128) = false) ∧
  (∀ (s : State) i, (s.borrower i).st = 3 → (s.borrower i).released = true → Config.peerAnswers s.time (s.borrower i).peer = true → ∃ t, exec (.endingWritebackDone i) s = .next t ∧ t.borrower i = { s.borrower i with st := 0, cause := (s.borrower i).why, ask := none, released := false, answer := if (s.borrower i).ask.isSome && (s.borrower i).why == 3 then some 7 else (s.borrower i).answer } ∧ (∀ k, k ≠ i → t.borrower k = s.borrower k) ∧ ∀ q ∈ t.lcache, inExtent (s.borrower i).peer (s.borrower i).ext (q.line * 128) = false) ∧
  (∀ (s : State) i, (s.borrower i).st ≠ 3 ∨ (s.borrower i).released = true ∧ Config.peerAnswers s.time (s.borrower i).peer = false → exec (.endingWritebackDone i) s = .next s) ∧
  (∀ (s : State) i, ((s.borrower i).st = 2 ∨ (s.borrower i).st = 3) → s.extentWaits (extentBase (s.borrower i).peer (s.borrower i).ext) extentBytes = false → ∃ t, exec (.leaseRevokeReceived i) s = .next t ∧ t.borrower i = { s.borrower i with st := 0, cause := 2, ask := none, released := false } ∧ (∀ k, k ≠ i → t.borrower k = s.borrower k) ∧ (∀ q ∈ t.lcache, inExtent (s.borrower i).peer (s.borrower i).ext (q.line * 128) = false) ∧
      ∀ h ∈ t.holds, inExtent (s.borrower i).peer (s.borrower i).ext (h.line * 128) = false) ∧
  (∀ (s : State) i, ((s.borrower i).st = 2 ∨ (s.borrower i).st = 3) → s.extentWaits (extentBase (s.borrower i).peer (s.borrower i).ext) extentBytes = true →
    exec (.leaseRevokeReceived i) s = .next (if s.kept.contains (.revoke i) then s else { s with kept := s.kept ++ [.revoke i] })) ∧
  (∀ (s : State) i, (s.borrower i).st ≠ 2 → (s.borrower i).st ≠ 3 → exec (.leaseRevokeReceived i) s = .next { s with kept := s.kept.erase (.revoke i) }) ∧
  (∀ (s : State) e, (s.lender e).st = 2 → (s.lender e).term ≤ s.time → ∃ t, exec (.lenderTermExpiry e) s = .next t ∧ t.lender e = { s.lender e with st := 3, byTerm := true } ∧ (∀ k, k ≠ e → t.lender k = s.lender k) ∧ t.snoops = s.snoops.map (fun x =>
      if x.holder < 1024 ∧ inExtent s.pkg e (x.line * 128) = true then x.send s.time else x)) ∧
  (∀ (x : Snoop) now, x.send now = if x.pending = true then x else { x with pending := true, asked := now }) ∧
  (∀ (s : State) e, (s.lender e).st ≠ 2 ∨ s.time < (s.lender e).term → exec (.lenderTermExpiry e) s = .next s) ∧
  (∀ (s : State) e, ((s.lender e).st = 2 ∨ (s.lender e).st = 3) → ∃ t k, exec (.leaseReleaseReceived e) s = .next t ∧ (k = 1 ∨ k = 4) ∧
      t.lender e = { s.lender e with st := 0, cause := k, byTerm := false } ∧ ∀ n, n ≠ e → t.lender n = s.lender n) ∧
  (∀ (s : State) e, (s.lender e).st ≠ 2 → (s.lender e).st ≠ 3 → exec (.leaseReleaseReceived e) s = .next s) ∧
  (∀ (s : State) e line x, s.isLocal (line * 128) = true → s.snoops.find? (fun x => x.line = line && x.pending) = some x →
    ∃ t, exec (.backInvalidateSnoop e line) s = .next t ∧ { t with peers := s.peers, snoops := s.snoops } = s ∧ t.snoops = s.snoops.erase x ∧
      (∀ k, k ≠ x.holder ∨ 1024 ≤ x.holder → t.peer k = s.peer k) ∧ (x.holder < 1024 → t.peer x.holder = { s.peer x.holder with heard := s.time })) ∧
  (∀ (s : State) e line, s.isLocal (line * 128) = true → (∀ x ∈ s.snoops, x.line = line → x.pending = false) → exec (.backInvalidateSnoop e line) s = .next s) ∧
  (∀ (s : State) i line, s.isLocal (line * 128) = false → ((s.borrower i).st = 2 ∨ (s.borrower i).st = 3) → inExtent (s.borrower i).peer (s.borrower i).ext (line * 128) = true →
    ∃ t, exec (.backInvalidateSnoop i line) s = .next t ∧ (∀ q ∈ t.lcache, q.line ≠ line) ∧ t.holds = s.holds.filter (fun h => h.line != line)) ∧
  (∀ (s : State) e, (s.lender e).st = 3 → (∀ x ∈ s.snoops, x.pending = true → x.holder < 1024 → inExtent s.pkg e (x.line * 128) = false) →
    s.extentWaits (extentBase s.pkg e) extentBytes = false → ∃ t, exec (.recallCommit e) s = .next t ∧ t.lender e = { s.lender e with st := 0, cause := if (s.lender e).byTerm then 1 else 2, byTerm := false } ∧ (∀ k, k ≠ e → t.lender k = s.lender k) ∧ t.sent = (4, (s.lender e).peer, (s.lender e).pent) :: s.sent) ∧
  (∀ (s : State) e, (s.lender e).st ≠ 3 ∨ s.extentWaits (extentBase s.pkg e) extentBytes = true ∨ (∃ x ∈ s.snoops, x.pending = true ∧ x.holder < 1024 ∧ inExtent s.pkg e (x.line * 128) = true) → exec (.recallCommit e) s = .next s) ∧
  (∀ (s : State) p, ∃ t, exec (.leaseKeepalive p true) s = .next t ∧ t.peer p = { s.peer p with heard := s.time } ∧ (∀ k, k ≠ p → t.peer k = s.peer k) ∧ t.sent = s.sent) ∧
  (∀ (s : State) p, s.leased p = true → (s.peer p).sent + 10000 ≤ s.time → ∃ t, exec (.leaseKeepalive p false) s = .next t ∧ t.peer p = { s.peer p with sent := s.time } ∧ (∀ k, k ≠ p → t.peer k = s.peer k) ∧ t.sent = (5, p, 0) :: s.sent) ∧
  (∀ (s : State) p, s.leased p = false ∨ s.time < (s.peer p).sent + 10000 → exec (.leaseKeepalive p false) s = .next s) ∧
  (∀ (s : State) p, s.silent p = true → (s.silentBorrowers p ≠ [] ∨ s.silentLenders p ≠ []) → ∃ t, exec (.peerSilent p) s = .next t ∧
      (∀ i, if i ∈ s.silentBorrowers p then (t.borrower i).st = 0 ∧ (t.borrower i).cause = 3 else t.borrower i = s.borrower i) ∧
      (∀ e, if e ∈ s.silentLenders p then (t.lender e).st = 0 ∧ (t.lender e).cause = 3 else t.lender e = s.lender e) ∧
      (∀ x ∈ t.snoops, x.holder ≠ p) ∧ t.reports = (s.silentBorrowers p ++ s.silentLenders p).map (fun _ => (1, p)) ++ s.reports) ∧
  (∀ (s : State) p, s.silent p = false ∨ (s.silentBorrowers p = [] ∧ s.silentLenders p = []) → exec (.peerSilent p) s = .next s) ∧
  (∀ (s : State) p, s.silent p = true ↔ (s.peer p).heard + 50000 ≤ s.time ∨ ∃ x ∈ s.snoops, x.holder = p ∧ x.pending = true ∧ x.asked + 50000 ≤ s.time) ∧
  (∀ (s : State) v, exec (.leasectlWrite v) s = .next (if s.borrowers.any (fun b => b.2.st != 0) then s else { s with leasectl := v &&& 0x0000FFFF003FF7FF }))

/-- For a Garef port: an advertisement of at most 640 flits sets its channel's window, a pause its flag; the flit expected passes, or is refused and after 16 failed resends the link retrains; a link that goes down is reported after 1 ms; retraining clears all that. A host's request outside cacheable memory gives an error; one that others hold, or a victim of a full filter, is snooped first; else its copy is noted and answered. A frame with a bad FCS does nothing, one without room counts a drop, else its record is written. An access from outside is refused with an error, one of a host beyond port 3 included, or reads the bytes of memory or of a register, or writes exactly its bytes; the owner of another package's address changes exactly its bytes. Completion, exec answering a next state under conditions on the state and the operands alone, is stated of garefWindowAdvertise, garefPause, garefFlitReceive, garefLinkDown, garefRetrainComplete, hostCacheRequest, ethernetFrameReceive, peerAccessArrival. SEQ that counts dropped frames and the byte-by-byte ring wrap are the model's choice (log entry 50), the free victim of a full filter is its reading (51), and an access at another package's address is its owner's own by log entry 19. -/
def Obligations.LinksHostsAndEthernet : Prop :=
  (∀ (s : State) port ch n, port < 96 → n ≤ 640 → ∃ t, exec (.garefWindowAdvertise port ch n) s = .next t ∧ tabGet {} port t.garef = { (tabGet {} port s.garef : Garef) with window := (tabGet {} port s.garef : Garef).window.set ch n } ∧ { t with garef := s.garef } = s) ∧
  (∀ (s : State) port ch n, 96 ≤ port ∨ 640 < n → exec (.garefWindowAdvertise port ch n) s = .next s) ∧
  (∀ (s : State) port ch p, port < 96 → ∃ t, exec (.garefPause port ch p) s = .next t ∧ tabGet {} port t.garef = { (tabGet {} port s.garef : Garef) with paused := (tabGet {} port s.garef : Garef).paused.set ch p } ∧ { t with garef := s.garef } = s) ∧
  (∀ (s : State) port seq, port < 96 → (tabGet {} port s.garef : Garef).training = false → (tabGet {} port s.garef : Garef).down = none → seq = (tabGet {} port s.garef : Garef).expect → ∃ t, exec (.garefFlitReceive port seq true) s = .next t ∧ tabGet {} port t.garef = { (tabGet {} port s.garef : Garef) with expect := seq + 1, resend := 0, refused := false } ∧ { t with garef := s.garef } = s) ∧
  (∀ (s : State) port seq, port < 96 → (tabGet {} port s.garef : Garef).training = false → (tabGet {} port s.garef : Garef).down = none → seq = (tabGet {} port s.garef : Garef).expect → (tabGet {} port s.garef : Garef).refused = false → ∃ t, exec (.garefFlitReceive port seq false) s = .next t ∧ tabGet {} port t.garef = { (tabGet {} port s.garef : Garef) with refused := true } ∧ { t with garef := s.garef, counters := s.counters } = s ∧ tabGet 0 2 t.counters = tabGet 0 2 s.counters + 1 ∧ tabGet 0 3 t.counters = tabGet 0 3 s.counters + 0 ∧ ∀ n, n ≠ 2 → n ≠ 3 → tabGet 0 n t.counters = tabGet 0 n s.counters) ∧
  (∀ (s : State) port seq, port < 96 → (tabGet {} port s.garef : Garef).training = false → (tabGet {} port s.garef : Garef).down = none → seq = (tabGet {} port s.garef : Garef).expect → (tabGet {} port s.garef : Garef).refused = true → ∃ t, exec (.garefFlitReceive port seq false) s = .next t ∧ tabGet {} port t.garef = { (tabGet {} port s.garef : Garef) with resend := (tabGet {} port s.garef : Garef).resend + 1, training := decide (16 ≤ (tabGet {} port s.garef : Garef).resend + 1) } ∧ { t with garef := s.garef, counters := s.counters } = s ∧ tabGet 0 2 t.counters = tabGet 0 2 s.counters + 1 ∧ tabGet 0 3 t.counters = tabGet 0 3 s.counters + (if 16 ≤ (tabGet {} port s.garef : Garef).resend + 1 then 1 else 0) ∧ ∀ n, n ≠ 2 → n ≠ 3 → tabGet 0 n t.counters = tabGet 0 n s.counters) ∧
  (∀ (s : State) port seq good, 96 ≤ port → exec (.garefFlitReceive port seq good) s = .next s) ∧
  (∀ (s : State) port seq good, port < 96 → ((tabGet {} port s.garef : Garef).training = true ∨ (tabGet {} port s.garef : Garef).down.isSome = true ∨ seq ≠ (tabGet {} port s.garef : Garef).expect) → ∃ t, exec (.garefFlitReceive port seq good) s = .next t ∧ tabGet {} port t.garef = (tabGet {} port s.garef : Garef) ∧ { t with garef := s.garef } = s) ∧
  (∀ (s : State) port, port < 96 → (tabGet {} port s.garef : Garef).down = none → ∃ t, exec (.garefLinkDown port) s = .next t ∧ tabGet {} port t.garef = { (tabGet {} port s.garef : Garef) with down := some s.time } ∧ { t with garef := s.garef } = s) ∧
  (∀ (s : State) port since, port < 96 → (tabGet {} port s.garef : Garef).down = some since → (tabGet {} port s.garef : Garef).reported = false → since + 1000000 ≤ s.time →
    ∃ t, exec (.garefLinkDown port) s = .next t ∧ tabGet {} port t.garef = { (tabGet {} port s.garef : Garef) with reported := true } ∧ t.reports = (2, port) :: s.reports) ∧
  (∀ (s : State) port since, (tabGet {} port s.garef : Garef).down = some since → ((tabGet {} port s.garef : Garef).reported = true ∨ s.time < since + 1000000) → exec (.garefLinkDown port) s = .next s) ∧
  (∀ (s : State) port, port < 96 → ∃ t, exec (.garefRetrainComplete port) s = .next t ∧ tabGet {} port t.garef = { (tabGet {} port s.garef : Garef) with training := false, down := none, reported := false, resend := 0 } ∧ { t with garef := s.garef } = s) ∧
  (∀ (s : State) port line m, 4 ≤ port → exec (.hostCacheRequest port line m) s = .next { s with hostReqs := s.hostReqs.erase (port, line, m) }) ∧
  (∀ (s : State) port line m, port < 4 → (s.isLocal (line * 128) = false ∨ localRegion (localAddr (line * 128)) = .reserved ∨ localRegion (localAddr (line * 128)) = .regs ∨
    s.tag (line * 128) ≠ 0) → exec (.hostCacheRequest port line m) s = .next { s with hostReqs := s.hostReqs.erase (port, line, m), sent := (10, 1024 + port, 0) :: s.sent }) ∧
  (∀ (s : State) port line m, port < 4 → s.isLocal (line * 128) = true → localRegion (localAddr (line * 128)) ≠ .reserved → localRegion (localAddr (line * 128)) ≠ .regs →
    s.tag (line * 128) = 0 → (∃ x ∈ s.snoops, x.line = line ∧ x.holder ≠ 1024 + port ∧ (m = true ∨ x.modified = true)) → exec (.hostCacheRequest port line m) s =
    .next { s with snoops := s.snoops.map (fun x => if x.line = line ∧ x.holder ≠ 1024 + port then x.send s.time else x), hostReqs := s.hostReqs.erase (port, line, m) ++ [(port, line, m)] }) ∧
  (∀ (s : State) port line m, port < 4 → s.isLocal (line * 128) = true → localRegion (localAddr (line * 128)) ≠ .reserved → localRegion (localAddr (line * 128)) ≠ .regs →
    s.tag (line * 128) = 0 → (∀ x ∈ s.snoops, x.line = line → x.holder ≠ 1024 + port → m = false ∧ x.modified = false) → (s.snoops.filter (fun x => decide (1024 ≤ x.holder))).length < 4194304 →
    exec (.hostCacheRequest port line m) s = .next { s with hostReqs := s.hostReqs.erase (port, line, m), sent := (9, 1024 + port, 0) :: s.sent, snoops := s.snoops.filter (fun x => !(x.line = line && x.holder = 1024 + port)) ++ [{ line := line, holder := 1024 + port, modified := m }] }) ∧
  (∀ (s : State) port line m, port < 4 → s.isLocal (line * 128) = true → localRegion (localAddr (line * 128)) ≠ .reserved → localRegion (localAddr (line * 128)) ≠ .regs →
    s.tag (line * 128) = 0 → (∀ x ∈ s.snoops, x.line = line → x.holder ≠ 1024 + port → m = false ∧ x.modified = false) → 4194304 ≤ (s.snoops.filter (fun x => decide (1024 ≤ x.holder))).length →
    (∀ x ∈ s.snoops, 1024 ≤ x.holder → ¬ (x.line = line ∧ x.holder = 1024 + port) ∧ x.pending = false) →
    ∃ t v, exec (.hostCacheRequest port line m) s = .next t ∧ v ∈ s.snoops ∧ 1024 ≤ v.holder ∧ t.sent = s.sent ∧
      t.snoops = s.snoops.map (fun x => if x = v then x.send s.time else x) ∧ t.hostReqs = s.hostReqs.erase (port, line, m) ++ [(port, line, m)]) ∧
  (∀ (s : State) port frame fcs stamp, fcs = false ∨ 4 ≤ port ∨ s.time + 4 < stamp.toNat ∨ stamp.toNat + 4 < s.time ∧ (∀ f ∈ s.frames, f.port ≠ port) → exec (.ethernetFrameReceive port frame fcs stamp) s = .next s) ∧
  (∀ (s : State) port frame stamp, port < 4 → stamp.toNat ≤ s.time + 4 → s.time ≤ stamp.toNat + 4 → (∀ f ∈ s.frames, f.port ≠ port) → s.snoops = [] → s.holds = [] → s.dirs = [] →
    let e : Ether := { (tabGet {} port s.ether : Ether) with ptp := if isPtpEvent frame = true then stamp.toNat :: (tabGet {} port s.ether : Ether).ptp else (tabGet {} port s.ether : Ether).ptp }; let n := (frame.take (min e.limit 16383)).length
    let size := (16 + n + 63) / 64 * 64; let recs := s.freedRecs e.base e.recs
    ∃ t, exec (.ethernetFrameReceive port frame true stamp) s = .next t ∧
      (e.size < (recs.map (·.2)).sum + size → t = { s with ether := tabSet port { e with recs := recs, drops := e.drops + 1, seq := (e.seq + 1) % 2 ^ 32 } s.ether }) ∧
      ((recs.map (·.2)).sum + size ≤ e.size → tabGet {} port t.ether =
        { e with recs := recs ++ [(e.pos, size)], pos := (e.pos + size) % e.size, seq := (e.seq + 1) % 2 ^ 32 } ∧
        let at_ := fun i => s.fabric (e.base + (e.pos + i) % e.size)
        ((∀ i, i < size → s.place (at_ i) = .mem (at_ i) ∧ s.isLocal (at_ i) = true) → ((List.range size).map at_).Nodup → ∀ i, i < size → t.memByte (at_ i) =
          (leBytes 8 stamp.toNat ++ leBytes 8 (e.seq * 2 ^ 32 + (if n < frame.length then 2 ^ 19 else 0) + port * 2 ^ 16 + n) ++ frame.take n).getD i 0))) ∧
  (∀ (s : State) port frame stamp f, port < 4 → stamp.toNat ≤ s.time + 4 → s.time ≤ stamp.toNat + 4 → (s.frames.filter (fun f => f.port = port)).head? = some f →
    f ≠ { port := port, bytes := frame, stamp := stamp } → ({ port := port, bytes := frame, stamp := stamp } : EthFrame) ∉ s.frames →
    exec (.ethernetFrameReceive port frame true stamp) s = .next { s with frames := s.frames ++ [{ port := port, bytes := frame, stamp := stamp }] }) ∧
  (∀ (s : State) q, s.isLocal q.addr = false → exec (.peerAccessArrival q) s = .next (({ s with arrivals := s.arrivals.erase q } : State).remoteChange q)) ∧
  (∀ (s : State) (q : PeerReq), q.data = none → s.remoteChange q = s) ∧
  (∀ (s : State) (q : PeerReq) bs, q.data = some bs → bs.length = q.size → s.lcache = [] → s.dirs = [] → (∀ i, i < q.size → s.place (q.addr + i) = .mem (q.addr + i)) →
    s.placesHeld none ((List.range q.size).map (fun i => some (s.place (q.addr + i)))) = false →
    ∀ pa, (s.remoteChange q).memByte pa = if q.addr ≤ pa ∧ pa < q.addr + q.size then bs.getD (pa - q.addr) 0 else s.memByte pa) ∧
  (∀ (s : State) (q : PeerReq), q.kind = .host → 4 ≤ q.source → s.peerRefused q = true) ∧
  (∀ (s : State) q, s.isLocal q.addr = true → s.peerRefused q = false → q.kind = .host → localRegion (localAddr q.addr) = .regs → q.data = none →
    exec (.peerAccessArrival q) s = .next { s with arrivals := s.arrivals.erase q, sent := (9, q.source, s.devBytes (localAddr q.addr) q.size) :: s.sent }) ∧
  (∀ (s : State) q, s.isLocal q.addr = true → s.peerRefused q = true → exec (.peerAccessArrival q) s =
    .next { s with arrivals := s.arrivals.erase q, sent := (10, q.source, 0) :: s.sent }) ∧
  (∀ (s : State) q, s.isLocal q.addr = true → s.peerRefused q = false → q.kind = .host → localRegion (localAddr q.addr) ≠ .regs → q.data = none → s.snoops = [] →
    s.placesStall none ((List.range q.size).map (fun i => some (s.place (q.addr + i)))) = false →
    (∀ i, i < q.size → s.place (q.addr + i) = .mem (q.addr + i)) → ∃ t, exec (.peerAccessArrival q) s = .next t ∧ (∀ pa, t.memByte pa = s.memByte pa) ∧
      t.sent = (if (List.range q.size).any (fun i => s.memPoison (q.addr + i)) then 10 else 9, q.source, leNat ((List.range q.size).map (fun i => s.memByte (q.addr + i)))) :: s.sent) ∧
  (∀ (s : State) q bs, s.isLocal q.addr = true → s.peerRefused q = false → q.kind = .host → localRegion (localAddr q.addr) ≠ .regs → q.data = some bs → bs.length = q.size →
    s.snoops = [] → s.lcache = [] → s.holds = [] → s.dirs = [] → (∀ i, i < q.size → s.place (q.addr + i) = .mem (q.addr + i) ∧ s.isLocal (q.addr + i) = true) →
    ∃ t, exec (.peerAccessArrival q) s = .next t ∧ t.sent = (9, q.source, 0) :: s.sent ∧
      ∀ pa, t.memByte pa = if q.addr ≤ pa ∧ pa < q.addr + q.size then bs.getD (pa - q.addr) 0 else s.memByte pa)

/-- A cold start gives the reset state but for what the flash and the fabric keep; a warm start empties the cores, contexts, queues and directories and keeps memory, leases and the fabric's numbers. Enumeration gives the package its number once, and its bytes keep their local addresses. A PTP correction moves fabric time forward; a power average above the limit idles cycles; an idle core sleeps with the generation and wakes with its copies dropped where it has moved; refresh windows open and close. An image is taken only where both signatures verify; an error that ECC cannot correct poisons its sector and is counted for its unit; telemetry is written at most once an hour or at a shutdown. The role lease is renewed and expires. Completion, exec answering a next state under conditions on the state and the operands alone, is stated of coldStart, warmStart, fabricEnumeration, ptpCorrection, powerLimitWindow, larderRefreshWindow, hgenIncrement, coreRetentionSleep, coreRetentionWake, firmwareImageUpdate, spdmMeasurementRequest, telemetryFlush, fmRoleLeaseExpiry, fmRoleLeaseRenew. What a warm and a cold start keep is the model's choice (log entry 49), with the counters and sensors of 20, the power window of 21 and the one-time package number of 51. -/
def Obligations.StartsPowerAndFirmware : Prop :=
  (∀ (s : State), ∃ t, exec .coldStart s = .next t ∧ t.mem = [] ∧ t.cores = [] ∧ t.pkg = 0 ∧ t.enumerated = false ∧ t.time = s.time ∧ t.cycles = 0 ∧
      t.image = s.image ∧ t.flash = s.flash ∧ (∀ c, t.core c = Core.init) ∧ (∀ q, t.queue q = {}) ∧ t.leasectl = 0x000003E800000000 ∧
      tabGet 0 0 t.counters = tabGet 0 0 s.counters + 1 ∧ t.booted = s.time) ∧
  (∀ (s : State), ∃ t, exec .warmStart s = .next t ∧ (s.lcache = [] → ∀ pa, t.memByte pa = s.memByte pa) ∧ t.lcache = [] ∧ t.poison = s.poison ∧ (∀ c, t.core c = Core.init) ∧
      t.pkg = s.pkg ∧ t.enumerated = s.enumerated ∧ t.time = s.time ∧ t.cycles = 0 ∧ t.contexts = [] ∧ (∀ q, t.queue q = {}) ∧ t.dirs = [] ∧ t.holds = [] ∧
      (∀ d, (t.die d).hgen = (s.die d).hgen ∧ (t.die d).blocks = []) ∧ t.borrowers = s.borrowers ∧ t.lenders = s.lenders ∧ t.keys = s.keys ∧
      (s.lcache = [] → tabGet 0 1 t.counters = tabGet 0 1 s.counters + 1)) ∧
  (∀ (s : State) p, s.enumerated = false → p < 1024 → ∃ t, exec (.fabricEnumeration p) s = .next t ∧ t.pkg = p ∧ t.enumerated = true ∧
      (s.lcache = [] → tabSorted s.mem = true → (∀ e ∈ s.mem, e.1 / 2 ^ 46 = s.pkg) → ∀ a, a < 2 ^ 46 → t.memByte (p * 2 ^ 46 + a) = s.memByte (s.pkg * 2 ^ 46 + a))) ∧
  (∀ (s : State) p, s.enumerated = true ∨ 1024 ≤ p → exec (.fabricEnumeration p) s = .next s) ∧
  (∀ (s : State) z, exec (.ptpCorrection z) s = .next { s with time := (s.time + z.toNat) % 2 ^ 64 }) ∧
  (∀ (s : State) n, exec (.powerLimitWindow n) s = .next (if s.powerLimit < n then { s with idling := true } else if n < s.powerLimit then { s with idling := false } else s)) ∧
  (∀ (s : State) d g on, g < 16 → d < 4 → refreshAt s.time g = on → ∃ t, exec (.larderRefreshWindow d g on) s = .next t ∧ { t with dies := s.dies } = s ∧
      (∀ k, k ≠ d → t.die k = s.die k) ∧ { t.die d with refresh := (s.die d).refresh } = s.die d ∧ (g ∈ (t.die d).refresh ↔ on = true) ∧
      ∀ h, h ≠ g → (h ∈ (t.die d).refresh ↔ h ∈ (s.die d).refresh)) ∧
  (∀ (s : State) d g on, 16 ≤ g ∨ 4 ≤ d ∨ refreshAt s.time g ≠ on → exec (.larderRefreshWindow d g on) s = .next s) ∧
  (∀ time g, refreshAt time g = true ↔ (time + 64000 - 4000 * g % 64000) % 64000 < 2000) ∧
  (∀ (s : State) d, d < 4 → (s.die d).hbit ≠ s.time.testBit 39 → exec (.hgenIncrement d) s = .next (((s.lateSleepers d).foldl State.wakeCore s).modDie d
      (fun x => { x with hgen := (x.hgen + 1) % 256, hbit := s.time.testBit 39 }))) ∧
  (∀ (s : State) d c, c ∈ s.lateSleepers d ↔ ∃ k h, (c, k) ∈ s.cores ∧ c / 36 = d ∧ k.sleep = some h ∧ 254 ≤ ((s.die d).hgen + 256 - h) % 256) ∧
  (∀ (s : State) d, d < 4 → (s.die d).hbit ≠ s.time.testBit 39 → s.lateSleepers d = [] → ∃ t, exec (.hgenIncrement d) s = .next t ∧ { t with dies := s.dies } = s ∧
      (∀ k, k ≠ d → t.die k = s.die k) ∧ t.die d = { s.die d with hgen := ((s.die d).hgen + 1) % 256, hbit := s.time.testBit 39 }) ∧
  (∀ (s : State) d, (s.die d).hbit = s.time.testBit 39 ∨ 4 ≤ d → exec (.hgenIncrement d) s = .next s) ∧
  (∀ (s : State) c, c < 144 → (s.core c).sleep = none → s.coreIdle c = true → ∃ t, exec (.coreRetentionSleep c) s = .next t ∧ { t with cores := s.cores } = s ∧
      t.core c = { s.core c with sleep := some (s.die (c / 36)).hgen } ∧ ∀ k, k ≠ c → t.core k = s.core k) ∧
  (∀ (s : State) c, (s.core c).sleep.isSome = true ∨ s.coreIdle c = false ∨ 144 ≤ c → exec (.coreRetentionSleep c) s = .next s) ∧
  (∀ (s : State) c h, c < 144 → (s.core c).sleep = some h → ∃ t, exec (.coreRetentionWake c) s = .next t ∧ (t.core c).sleep = none ∧
      (∀ k, k ≠ c → t.core k = s.core k) ∧ { t with cores := s.cores, holds := s.holds } = s ∧ (∀ w l, (t.thread c w l).plainly = (s.thread c w l).plainly) ∧
      (h = (s.die (c / 36)).hgen → t.holds = s.holds ∧ t.core c = { s.core c with sleep := none }) ∧
      (h ≠ (s.die (c / 36)).hgen → t.holds = s.holds.filter (fun x => x.core != c))) ∧
  (∀ (s : State) n a b, exec (.firmwareImageUpdate n a b) s = .next (if a = true ∧ b = true then { s with image := n, activated := some s.time } else s)) ∧
  (∀ (s : State) p, ∃ r, exec (.spdmMeasurementRequest p) s = .next { s with spdm := s.spdm ++ [(p, r)] } ∧
      ((∃ at_, s.activated = some at_ ∧ s.time < at_ + Config.activationNs) → r = none) ∧
      ((∀ at_, s.activated = some at_ → at_ + Config.activationNs ≤ s.time) → r = some { arch := 0x0100, stepping := 0x02 })) ∧
  (∀ (s : State) o, o = true ∨ s.flushed + 3600000000000 ≤ s.time → ∃ t, exec (.telemetryFlush o) s = .next t ∧ t.flash = t.counters ∧ t.flushed = s.time ∧
      (∀ n, n ≠ 5 → n ≠ 6 → n ≠ 7 → n < 512 ∨ 768 ≤ n → tabGet 0 n t.counters = tabGet 0 n s.counters) ∧
      (∃ k, k < 256 ∧ ∀ n, n < 256 → tabGet 0 (512 + n) t.counters = tabGet 0 (512 + n) s.counters + if n = k then 1 else 0) ∧
      tabGet 0 5 t.counters = tabGet 0 5 s.counters + (s.time - s.booted) / 3600000000000 ∧
      { t with flash := s.flash, counters := s.counters, flushed := s.flushed, booted := s.booted, free := s.free } = s) ∧
  (∀ (s : State), s.time < s.flushed + 3600000000000 → exec (.telemetryFlush false) s = .next s) ∧
  (∀ (s : State) l rest, s.agenda = .ecc l :: rest → step s = .next (({ s.elapse with agenda := rest } : State).eccError l)) ∧
  (∀ (s : State) y o rest, s.agenda = .eccBuffer y o :: rest → step s = .next (({ s.elapse with agenda := rest } : State).eccBuffer y o)) ∧
  (∀ (s : State) pa, s.lcKept pa = none → s.eccError (.mem pa) = (s.setPoison pa true).count (1280 + homeDie pa) 1) ∧
  (∀ (s : State) y o c x, s.findTeam y = some (c, x) → s.eccError (.spad y o) = (s.markPoison (.spad y o) true).count (1024 + c) 1 ∧
      s.eccBuffer y o = (s.modTeam y (fun x => { x with opPoison := insertNat (o / 32) x.opPoison })).count (1024 + c) 1) ∧
  (∀ (s : State) n k m, tabGet 0 m (s.count n k).counters = tabGet 0 m s.counters + (if m = n then k else 0) ∧ { s.count n k with counters := s.counters } = s) ∧
  (∀ (s : State), s.fm.manager.isSome = true → s.fm.expiry ≤ s.time → exec .fmRoleLeaseExpiry s = .next { s with fm := { s.fm with manager := none } }) ∧
  (∀ (s : State), s.fm.manager = none ∨ s.time < s.fm.expiry → exec .fmRoleLeaseExpiry s = .next s) ∧
  (∀ (s : State) n p, s.fm.manager = some p → s.time < s.fm.expiry → s.fm.renewed + 100000 ≤ s.time →
    (p = s.pkg → Config.fmCandidates s.fm.epoch < 2 * n ∧ s.fm.priority ≠ 0) →
    exec (.fmRoleLeaseRenew n) s = .next { s with fm := { s.fm with expiry := s.time + 1000000, renewed := s.time } }) ∧
  (∀ (s : State) n p, (s.fm.manager = none ∨ s.fm.expiry ≤ s.time) → s.fmWinner = some p → (p = s.pkg → Config.fmCandidates s.fm.epoch < 2 * n) →
    exec (.fmRoleLeaseRenew n) s = .next { s with fm := { s.fm with manager := some p, expiry := s.time + 1000000, renewed := s.time, epoch := s.fm.epoch + 1, acked := s.fm.epoch } })

/-- The words that the spec gives for an add, br, shli, fcvt.rs, ldx, thopen, cas, mmulz, cpfs, li, refine, mfs, lsreq and twl.v decode to these instructions with their fields; a header word is refused with reason 0x01, an unassigned major opcode with 0x04, an fn that names no instruction with 0x05 and the word 0xD0E0402818000100 with 0x06. -/
def Obligations.SpecWordsDecode : Prop :=
  (decodeWord 0x206038140C000500 0 = .ok (.add ⟨3, false, 7, 5, 6, 0, 1, false, true, false, 0, 0⟩)) ∧
  (decodeWord 0x00300000000C0000 0 = .ok (.br ⟨1, true, 0, 3⟩)) ∧
  (decodeWord 0x3DE0281000001E40 0 = .ok (.shli ⟨7, false, 5, 4, 0, 15, false, false, 4, 0⟩)) ∧
  (decodeWord 0x5EE0200800000025 0 = .ok (.fcvt ⟨7, false, 4, 2, 0, 0, 0, false, false, false, 2, 5⟩)) ∧
  (decodeWord 0x82E030080A000020 0 = .ok (.ldx ⟨7, false, 6, 2, 5, 0, 0, false, false, false, 2, 0⟩)) ∧
  (decodeWord 0xACE0282004000000 0 = .ok (.thopen ⟨7, false, 5, 8, 2, 0, 0, false, false, false, 0, 0⟩)) ∧
  (decodeWord 0xB0E040101800006E 0 = .ok (.cas ⟨7, false, 8, 4, 12, 0, 0, false, false, false, 6, 14⟩)) ∧
  (decodeWord 0xC3E008100A101080 0 = .ok (.mmulz ⟨7, false, 1, 4, 5, 2, 0, true, 0, 0⟩)) ∧
  (decodeWord 0xD3E0403800000081 0 = .ok (.cpfs ⟨7, false, 8, 14, 0, 0, 0, true, 0, 1⟩)) ∧
  (decodeWord 0x4CE0600000000050 0x123456789ABCDEF = .ok (.li ⟨7, false, 12, 0, false, false, 5, 0, 81985529216486895⟩)) ∧
  (decodeWord 0xE0E0001800000000 0 = .ok (.refine ⟨7, false, 0, 6, 0, 0, 0, false, 0, 0⟩)) ∧
  (decodeWord 0xE8E0200000200000 0 = .ok (.mfs ⟨7, false, 4, 0, 0, 32, 0, false, false, false, 0, 0⟩)) ∧
  (decodeWord 0xF0E0201810000000 0 = .ok (.lsreq ⟨7, false, 4, 6, 8, 0, 0, false, false, false, 0, 0⟩)) ∧
  (decodeHouse 0x00B5040B = some (.twlV 8 10 11)) ∧
  (decodeWord 0xF8050C0003000183 0 = .illegal 1) ∧
  (decodeWord 0x4D00000000000000 0 = .illegal 4) ∧
  (decodeWord 0x09E0000000001000 0 = .illegal 5) ∧
  (decodeWord 0xD0E0402818000100 0 = .illegal 6)

/-- For every well-formed Phody instruction with every operand at every value, its words decode to it, and so do its bytes, whatever follows them, with exactly those bytes taken; a word that decodes to an instruction is well-formed and is that instruction's encoding, bit for bit; the 32-bit word of twl.v decodes to it with every register number. -/
def Obligations.EncodingRoundTrip : Prop :=
  (∀ i w, i.WellFormed → encodeWord i = some w → decodeWord w ((immWord i).getD 0) = .ok i) ∧
  (∀ i w rest, i.WellFormed → encodeWord i = some w → decode (encode i ++ rest) = some (.ok i, rest)) ∧
  (∀ w v i, decodeWord w v = .ok i → i.WellFormed ∧ encodeWord i = some w ∧ (immWord i = none ∨ immWord i = some v)) ∧
  (∀ vd rs1 rs2, decodeHouse (packHouse vd rs1 rs2) = some (.twlV vd rs1 rs2)) ∧
  (∀ w i, decodeHouse w = some i → ∃ vd rs1 rs2, i = .twlV vd rs1 rs2 ∧ w = packHouse vd rs1 rs2)

/-- Time passes first. Where the agenda (the model's own, log entry 3) names a lane of a weave that may issue, or, with an empty agenda at its turn, the group that R88 chooses does, the lanes that stand with it and may issue do so, speculating ones apart and in the same step (log entry 8); where the group stands at a body word that the fetch finds, that is exec of the instruction decoded, at the state after the fetch; an L-form is decoded with its second word, which is fetched after the static check; a word that decodes to none raises the illegal-instruction trap with its reason. At a header the lanes that an entry of the join table holds wait there; else LEN 0 or a reserved bit raises reason 2, an RCV that names no header reason 3, a stop at a safe point or NS in speculation waits, and the lanes enter the block with the operand buffer invalid and, with an RCV, a join entry. An event on the agenda is exec of it; a house core runs the word that decodes at its pc, or, by the model's choice (log entry 16), takes an exception where the firewall refuses it. -/
def Obligations.StepRunsDecoded : Prop :=
  (∀ (s : State) c w ls g u w1, let e := { s with cur := { s.cur with core := c, slot := w, lanes := maskOf ls } }
    ls ≠ [] → e.group = some g → e.convTrap g = none → g.ctl.entry = false → e.fetch g.core g.slot g.pc.toNat = (u, .word w1) →
    (∀ i, decodeWord w1 0 = .ok i → majorForm (majorOf w1) ≠ some .L ∨ u.staticReason g (i.fields.getD {}) i.row ≠ 0 → s.offerGroup c w ls = exec i u) ∧
    (∀ i j v w2, decodeWord w1 0 = .ok i → majorForm (majorOf w1) = some .L → u.staticReason g (i.fields.getD {}) i.row = 0 →
      u.fetch g.core g.slot (g.pc + 8#64).toNat = (v, .word w2) → decodeWord w1 w2 = .ok j → s.offerGroup c w ls = exec j v) ∧
    (∀ r, decodeWord w1 0 = .illegal r → r ≠ 1 → r ≠ 4 → s.offerGroup c w ls = .next (u.raise g 1 (if majorForm (majorOf w1) = some .L ∧
      u.atLast g = true then 1 else r) g.lanes)) ∧
    ∀ r, decodeWord w1 0 = .illegal r → r = 1 ∨ r = 4 → s.offerGroup c w ls = exec (.unassignedOpcodeIssue w1) u) ∧
  (∀ (s : State) c w l, (tabFind w (s.core c).weaves).isSome = true → (s.thread c w l).offers = true → s.mayIssue c w l = true →
    (∀ m ∈ s.mates c w l, (s.thread c w m).spec = none) → s.offer c w l = s.offerGroup c w (s.mates c w l)) ∧
  (∀ (s : State) c w l, (tabFind w (s.core c).weaves).isSome = true → (s.thread c w l).offers = true → s.mayIssue c w l = true →
    ∀ t, s.offerGroup c w ((s.mates c w l).filter (fun m => (s.thread c w m).spec.isNone)) = .next t → s.offer c w l =
      t.offerGroup c w ((s.mates c w l).filter (fun m => (s.thread c w m).spec.isSome && (t.thread c w m).spec.isSome &&
        (t.thread c w m).offers && (s.thread c w m).standsWith (t.thread c w m)))) ∧
  (∀ (s : State) c w l m, m ∈ s.mates c w l → m < 32 ∧ s.mayIssue c w m = true ∧ (s.thread c w m).offers = true ∧
    (s.thread c w m).ctl.pc = (s.thread c w l).ctl.pc ∧ (s.thread c w m).ctl.entry = (s.thread c w l).ctl.entry) ∧
  (∀ (s : State) c w l m, m < 32 → s.mayIssue c w m = true → (s.thread c w m).offers = true → (s.thread c w m).mode = .ready →
    (s.thread c w m).ctl.pc = (s.thread c w l).ctl.pc → (s.thread c w m).ctl.entry = (s.thread c w l).ctl.entry → m ∈ s.mates c w l) ∧
  (∀ (s : State) c w l rest, c < 144 → s.agenda = .issue c w l :: rest → step s = ({ s.elapse with agenda := rest } : State).offer c w l) ∧
  (∀ (s : State) c w l due last, s.agenda = [] → s.tick % 2 = 0 → s.idling = false → s.elapse.nextIssue = some (c, w, l, due, last) →
    step s = (({ s.elapse with lastCore := c } : State).modCore c (fun k => { k with due := due, lastSlot := last })).offer c w l) ∧
  (∀ (s : State) i rest, s.agenda = .event i :: rest → i.isWord = false → step s = exec i { s.elapse with agenda := rest }) ∧
  (∀ (s : State) n rest i, n < 16 → s.agenda = .house n :: rest → let e := { s.elapse with agenda := rest }
    e.houseBarred n = false → decodeHouse (e.houseWord n) = some i → step s = exec i { e with cur := { e.cur with house := n } }) ∧
  (∀ (s : State) n rest, n < 16 → s.agenda = .house n :: rest → let e := { s.elapse with agenda := rest }
    e.houseBarred n = true → step s = .next (e.modHouse n (fun h => h.except 1))) ∧
  (∀ (s : State), s.elapse = { s with tick := s.tick + 1, time := (s.time + Config.elapsedNs s.tick) % 2 ^ 64, cycles := s.cycles + Config.elapsedCycles s.tick }) ∧
  (∀ (s : State) c w ls g u v, let e := { s with cur := { s.cur with core := c, slot := w, lanes := maskOf ls } }
    ls ≠ [] → e.group = some g → e.convTrap g = none → g.ctl.entry = true → (∀ l ∈ g.lanes, (e.weave g.core g.slot).heldAt g.pc l = false) →
    e.fetch g.core g.slot g.pc.toNat = (u, .word v) → isMarker v = false → s.offerGroup c w ls = .next (u.raise g 1 1 g.lanes)) ∧
  (∀ (s : State) c w ls g u v, let e := { s with cur := { s.cur with core := c, slot := w, lanes := maskOf ls } }
    ls ≠ [] → e.group = some g → e.convTrap g = none → g.ctl.entry = true → (∀ l ∈ g.lanes, (e.weave g.core g.slot).heldAt g.pc l = false) →
    e.fetch g.core g.slot g.pc.toNat = (u, .word v) → isMarker v = true → (hdrSp v && u.stopsAt g.core g.slot) = false → (hdrNs v && g.spec) = false → (hdrLen v = 0 ∨ v.extractLsb' 3 3 ≠ 0) → s.offerGroup c w ls = .next (u.raise g 1 2 g.lanes)) ∧
  (∀ (s : State) c w ls g u v, let e := { s with cur := { s.cur with core := c, slot := w, lanes := maskOf ls } }
    ls ≠ [] → e.group = some g → e.convTrap g = none → g.ctl.entry = true → (∀ l ∈ g.lanes, (e.weave g.core g.slot).heldAt g.pc l = false) →
    e.fetch g.core g.slot g.pc.toNat = (u, .word v) → isMarker v = true → (hdrSp v && u.stopsAt g.core g.slot) = false → (hdrNs v && g.spec) = false → hdrLen v ≠ 0 → v.extractLsb' 3 3 = 0 → ∀ x y, hdrRcv v ≠ 0 → u.fetch g.core g.slot (hdrTarget v g.pc).toNat = (x, .word y) →
    isMarker y = false → s.offerGroup c w ls = .next (x.raise g 1 3 g.lanes)) ∧
  (∀ (s : State) c w ls g u v, let e := { s with cur := { s.cur with core := c, slot := w, lanes := maskOf ls } }
    ls ≠ [] → e.group = some g → e.convTrap g = none → g.ctl.entry = true → (∀ l ∈ g.lanes, (e.weave g.core g.slot).heldAt g.pc l = false) →
    e.fetch g.core g.slot g.pc.toNat = (u, .word v) → isMarker v = true → (hdrSp v && u.stopsAt g.core g.slot) = false → (hdrNs v && g.spec) = false → hdrLen v ≠ 0 → v.extractLsb' 3 3 = 0 → hdrRcv v = 0 → let x := u
    ∃ t, s.offerGroup c w ls = .next t ∧ (t.weave g.core g.slot).joins = (x.weave g.core g.slot).joins ∧ (∀ pa, t.memByte pa = x.memByte pa) ∧
      ∀ l, t.thread g.core g.slot l = if l ∈ g.lanes then { x.thread g.core g.slot l with
        ob := {}, mode := .ready, stamp := x.tick, stop := none, lend := none,
        ctl := { (x.thread g.core g.slot l).ctl with bh := g.pc, pc := g.pc + 8, len := hdrLen v, entry := false } } else x.thread g.core g.slot l) ∧
  (∀ (s : State) c w ls g u v, let e := { s with cur := { s.cur with core := c, slot := w, lanes := maskOf ls } }
    ls ≠ [] → e.group = some g → e.convTrap g = none → g.ctl.entry = true → (∀ l ∈ g.lanes, (e.weave g.core g.slot).heldAt g.pc l = false) →
    e.fetch g.core g.slot g.pc.toNat = (u, .word v) → isMarker v = true → (hdrSp v && u.stopsAt g.core g.slot) = false → (hdrNs v && g.spec) = false → hdrLen v ≠ 0 → v.extractLsb' 3 3 = 0 → ∀ x y, hdrRcv v ≠ 0 → u.fetch g.core g.slot (hdrTarget v g.pc).toNat = (x, .word y) → isMarker y = true →
    ∃ t, s.offerGroup c w ls = .next t ∧ (∀ l, g.lanes = [l] → (t.weave g.core g.slot).joins = addJoin (x.weave g.core g.slot).keptJoins (hdrTarget v g.pc) (x.thread g.core g.slot l).ctl.depth l
        (x.weave g.core g.slot).joins) ∧ (∀ pa, t.memByte pa = x.memByte pa) ∧
      ∀ l, t.thread g.core g.slot l = if l ∈ g.lanes then { x.thread g.core g.slot l with
        ob := {}, mode := .ready, stamp := x.tick, stop := none, lend := none,
        ctl := { (x.thread g.core g.slot l).ctl with bh := g.pc, pc := g.pc + 8, len := hdrLen v, entry := false } } else x.thread g.core g.slot l) ∧
  (∀ (s : State) c w ls g u v, let e := { s with cur := { s.cur with core := c, slot := w, lanes := maskOf ls } }
    ls ≠ [] → e.group = some g → e.convTrap g = none → g.ctl.entry = true → (∀ l ∈ g.lanes, (e.weave g.core g.slot).heldAt g.pc l = false) →
    e.fetch g.core g.slot g.pc.toNat = (u, .word v) → isMarker v = true → (hdrSp v && u.stopsAt g.core g.slot) = true → s.offerGroup c w ls = .next (u.stopHere g v)) ∧
  (∀ (s : State) c w ls g u v, let e := { s with cur := { s.cur with core := c, slot := w, lanes := maskOf ls } }
    ls ≠ [] → e.group = some g → e.convTrap g = none → g.ctl.entry = true → (∀ l ∈ g.lanes, (e.weave g.core g.slot).heldAt g.pc l = false) →
    e.fetch g.core g.slot g.pc.toNat = (u, .word v) → isMarker v = true → (hdrSp v && u.stopsAt g.core g.slot) = false → hdrNs v = true → g.spec = true → s.offerGroup c w ls = .next (u.hold g g.lanes)) ∧
  (∀ (s : State) c w ls g l held, let e := { s with cur := { s.cur with core := c, slot := w, lanes := maskOf ls } }
    ls ≠ [] → e.group = some g → e.convTrap g = none → g.ctl.entry = true → g.lanes.filter (fun l => (e.weave g.core g.slot).heldAt g.pc l) = l :: held →
    s.offerGroup c w ls = .next (e.modWeave g.core g.slot (fun x => ((l :: held).foldl (fun x l => x.arriveJoin g.pc l) x).releaseJoins))) ∧
  (∀ kept t d l (js : List JoinEnt), (∀ e ∈ js, e.target = t → e.depth ≠ d) → addJoin kept t d l js =
    if js.length + kept < 16 then js ++ [{ target := t, depth := d, members := 1#32 <<< l, arrived := 0 }] else js) ∧
  (∀ kept t d l (js : List JoinEnt), (∃ e ∈ js, e.target = t ∧ e.depth = d) → addJoin kept t d l js =
    js.map (fun e => if e.target = t ∧ e.depth = d then { e with members := e.members ||| (1#32 <<< l) } else e))

/-- After reset LEASECTL is 0x3E800000000, no lease, team, queue, launch or gang is there, no sector is poisoned, tr.cause and tr.ctl of every weave are 0, BANKROLE, HGEN and flt and eflt are 0 and empty, memory lists nothing and is canonical. By the model's choices unlisted bytes read 0 (log entry 1); lane 0 of each firmware agent is ready at address 0 and every other thread has exited (9); and PTROOT, fw.trap, the trap registers other than tr.cause and tr.ctl and every general register read 0, the registers full and not poisoned (10). -/
def Obligations.ResetState : Prop :=
  (State.reset.leasectl = 0x3E800000000) ∧
  (State.reset.mem = []) ∧
  (Memory.wf State.reset.mem = true) ∧
  (∀ pa, State.reset.memByte pa = 0) ∧
  (∀ pa, State.reset.memPoison pa = false) ∧
  (∀ x, (State.reset.context x).ptroot = 0) ∧
  (∀ e, (State.reset.lender e).st = 0 ∧ (State.reset.borrower e).st = 0) ∧
  (∀ t, State.reset.findTeam t = none) ∧
  (∀ q, (State.reset.queue q).active = false) ∧
  (State.reset.launches = [] ∧ State.reset.gangs = [] ∧ State.reset.holds = [] ∧ State.reset.dirs = []) ∧
  (∀ d, (State.reset.die d).hgen = 0) ∧
  (∀ c, (State.reset.core c).bankrole = 0 ∧ (State.reset.core c).fwTrap = 0 ∧ (State.reset.core c).fwEvents = 0 ∧ (State.reset.core c).flt = [] ∧
    (State.reset.core c).eflt = [] ∧ (State.reset.core c).tlb = [] ∧ (State.reset.core c).cmds = [] ∧ (State.reset.core c).fwTickets = [] ∧ (State.reset.core c).sleep = none) ∧
  (∀ c w, (State.reset.weave c w).team = none ∧ (State.reset.weave c w).trCause = 0 ∧ (State.reset.weave c w).trPc = 0 ∧ (State.reset.weave c w).trAmask = 0 ∧
    (State.reset.weave c w).trFmask = 0 ∧ (State.reset.weave c w).trH = false ∧ (State.reset.weave c w).trM = false ∧ (State.reset.weave c w).trSkip = false ∧
    (State.reset.weave c w).rfTrap = 0 ∧ (State.reset.weave c w).trPpc = 0 ∧ (State.reset.weave c w).trPva = 0 ∧ (State.reset.weave c w).joins = [] ∧
    (State.reset.weave c w).parked = [] ∧ (State.reset.weave c w).storeq = []) ∧
  (∀ c w l, (State.reset.thread c w l).mode = (if w = 47 ∧ l = 0 then .ready else .exited) ∧ (State.reset.thread c w l).ctl.pc = 0 ∧
    (State.reset.thread c w l).fpCtl = 0 ∧ (State.reset.thread c w l).fpFlags = 0 ∧ (State.reset.thread c w l).rsCount = 0 ∧
    ∀ n, (State.reset.thread c w l).reg n = { val := 0, full := true, poison := false })

/-- A byte written to memory, or to a line of the lease cache, reads back, and every other byte reads as before; a number of n bytes written where no scratchpad has the bytes registered reads back modulo 2^(8n) little-endian, and every byte outside stands; a byte written to a team's scratchpad reads back and its other bytes and all of memory stand; each of these writes, and the write-back of a lease-cache line, keeps the canonical form of memory. The checks of an access end in the order of R188: address, alignment, window, scratchpad mapping, translation, lease, reserved range, the lowest failing permission, firewall and poisoned class, each with its cause and detail; of a group the earliest step that fails in any lane is the trap, and without one the lanes that fault park and the others perform. A walk reads one entry a level from PTROOT on, and ends in a poisoned, absent or malformed entry as a page fault, in a leaf as its frame and the offset; A is set by it and D by a store. A speculating thread reads its own records first and enters the other sectors in the read set while there is room, a store of it makes records in its Garret and changes no queue, a register it writes is first kept, and up to a trap, a parking or an instruction that never speculates it waits. The remote side of an access is log entry 19 and the TLBs log entry 11. -/
def Obligations.MemoryReadAfterWrite : Prop :=
  (∀ (s : State) pa b a, s.lcache = [] ∨ (s.isLocal pa = false ∧ s.lcn ≠ 0 ∧ ∀ c ∈ s.lcache, tabSorted c.dirty = true ∧ ∀ e ∈ c.dirty, e.1 / 128 = c.line) → (s.setByte pa b).memByte a = if a = pa then b else s.memByte a) ∧
  (∀ (s : State) pa n v, s.lcache = [] → s.lcn = 0 → (∀ k, k < n → s.place (pa + k) = .mem (pa + k)) →
    (s.writePhys pa n v).readPhys pa n = v % 2 ^ (8 * n) ∧
    ∀ a, (s.writePhys pa n v).memByte a = if pa ≤ a ∧ a < pa + n then BitVec.ofNat 8 (v / 2 ^ (8 * (a - pa))) else s.memByte a) ∧
  (∀ (s : State) t o b, tabSorted s.cores = true → (s.findTeam t).isSome = true → (s.putByte (.spad t o) b).getByte (.spad t o) = b ∧
    (∀ p, p ≠ o → (s.putByte (.spad t o) b).getByte (.spad t p) = s.getByte (.spad t p)) ∧ ∀ a, (s.putByte (.spad t o) b).memByte a = s.memByte a) ∧
  (∀ (s : State) pa b, Memory.wf s.mem = true → Memory.wf (s.setByte pa b).mem = true) ∧
  (∀ (s : State) l b, Memory.wf s.mem = true → Memory.wf (s.putByte l b).mem = true) ∧
  (∀ (s : State) pa n v, Memory.wf s.mem = true → Memory.wf (s.writePhys pa n v).mem = true) ∧
  (∀ (s : State) k, Memory.wf s.mem = true → Memory.wf (s.lcFlush k).mem = true) ∧
  (∀ (s : State) a x ea, canonical ea = false → s.check a x ea = (s, .bad 1 8 1)) ∧
  (∀ ea, canonical ea = true ↔ ea / 2 ^ 57 = (if ea / 2 ^ 56 % 2 = 1 then 127 else 0)) ∧
  (∀ (s : State) a x ea, canonical ea = true → ea % x.align ≠ 0 → s.check a x ea = (s, .bad 2 6 0)) ∧
  (∀ (s : State) (a : Agent) (x : Acc) ea, canonical ea = true → ea % x.align = 0 → x.routes = true → s.windowHit a ea = true → x.noWindow = true → s.check a x ea = (s, .bad 3 8 0x0B)) ∧
  (∀ (s : State) (a : Agent) (x : Acc) ea, canonical ea = true → ea % x.align = 0 → x.routes = true → s.windowHit a ea = true → (a.team.bind (fun t => s.findGang (s.team t).gang)).bind (fun g => g.teams[(ea - s.rswin a) / 2 ^ 22]?) = none → s.check a x ea = (s, .bad 3 8 0x0B)) ∧
  (∀ (s : State) (a : Agent) (x : Acc) ea, canonical ea = true → ea % x.align = 0 → x.routes = true → s.windowHit a ea = true → ∀ g, x.noWindow = false → (a.team.bind (fun t => s.findGang (s.team t).gang)).bind (fun g => g.teams[(ea - s.rswin a) / 2 ^ 22]?) = some g →
    (g.completed = true → s.check a x ea = (s, .bad 3 8 0x0B)) ∧
    (g.completed = false → (s.findTeam g.team).isSome = true → 98304 * (s.team g.team).spadBanks.length < (ea - s.rswin a) % 2 ^ 22 + x.size →
      s.check a x ea = (s, .bad 3 8 0x0B)) ∧
    (g.completed = false → (s.findTeam g.team).isSome = true → (ea - s.rswin a) % 2 ^ 22 + x.size ≤ 98304 * (s.team g.team).spadBanks.length →
      (s.team g.team).unfilled ((ea - s.rswin a) % 2 ^ 22) = none → s.check a x ea = (s, .ok (.spad g.team ((ea - s.rswin a) % 2 ^ 22)) 0))) ∧
  (∀ (s : State) (a : Agent) (x : Acc) ea, canonical ea = true → ea % x.align = 0 → x.routes = true → s.windowHit a ea = false → ∀ t o, a.team = some t → (s.team t).scratchHit ea = some o → (s.team t).unfilled o = none →
    s.check a x ea = (s, .ok (.spad t o) 0)) ∧
  (∀ (s : State) (a : Agent) (x : Acc) ea, canonical ea = true → ea % x.align = 0 → (x.routes = false ∨ s.windowHit a ea = false ∧ ∀ t, a.team = some t → (s.team t).scratchHit ea = none) → ∀ u, (∀ d l, s.translate a.core a.ctx ea = (u, .fault d l) → s.check a x ea = (u, .fault 1 d l 0 false)) ∧ (s.translate a.core a.ctx ea = (u, .wait) → s.check a x ea = (u, .wait))) ∧
  (∀ (s : State) (a : Agent) (x : Acc) ea, canonical ea = true → ea % x.align = 0 → (x.routes = false ∨ s.windowHit a ea = false ∧ ∀ t, a.team = some t → (s.team t).scratchHit ea = none) → ∀ u, ∀ t, s.translate a.core a.ctx ea = (u, .ok t) → ((u.checkPage a x t).passes = false → s.check a x ea = (u, u.checkPage a x t)) ∧
    ((u.checkPage a x t).passes = true → u.snooped (u.place t.pa) = false → x.wr = false → s.check a x ea = (u, u.checkPage a x t)) ∧
    ((u.checkPage a x t).passes = true → u.snooped (u.place t.pa) = false → x.wr = true → bitAt t.leaf 9 = true → s.check a x ea = (u, u.checkPage a x t)) ∧
    ∀ y, (u.checkPage a x t).passes = true → u.snooped (u.place t.pa) = false → x.wr = true → bitAt t.leaf 9 = false → u.walk a.ctx ea = .ok y →
      u.markWaits a.core y true = false → ∃ v, s.check a x ea = (v, v.checkPage a x (u.markLeaf y true).2) ∧ ∀ pa, v.memByte pa = (u.markLeaf y true).1.memByte pa) ∧
  (∀ (s : State) a x t d, leafLid t.leaf ≠ 0 → s.leaseDetail (leafLid t.leaf) = some d → s.checkPage a x t = .fault 2 d t.level (leafLid t.leaf) false) ∧
  (∀ (s : State) a x t, (leafLid t.leaf = 0 ∨ s.leaseDetail (leafLid t.leaf) = none) → reservedAddr t.pa = true → s.checkPage a x t = .bad 5 8 2) ∧
  (∀ (s : State) a x t, (leafLid t.leaf = 0 ∨ s.leaseDetail (leafLid t.leaf) = none) → reservedAddr t.pa = false → ∀ d r, permDetails a x t.leaf t.pa = d :: r → s.checkPage a x t = .bad 6 8 d) ∧
  (∀ (s : State) a x t, (leafLid t.leaf = 0 ∨ s.leaseDetail (leafLid t.leaf) = none) → reservedAddr t.pa = false → permDetails a x t.leaf t.pa = [] → s.firewall a t.pa = false → s.checkPage a x t = .bad 7 8 0x20) ∧
  (∀ (s : State) a x t, (leafLid t.leaf = 0 ∨ s.leaseDetail (leafLid t.leaf) = none) → reservedAddr t.pa = false → permDetails a x t.leaf t.pa = [] → s.firewall a t.pa = true → leafMc t.leaf = 3 → s.checkPage a x t = .bad 8 7 0) ∧
  (∀ (s : State) a x t, (leafLid t.leaf = 0 ∨ s.leaseDetail (leafLid t.leaf) = none) → reservedAddr t.pa = false → permDetails a x t.leaf t.pa = [] → s.firewall a t.pa = true → leafMc t.leaf ≠ 3 → s.isLocal t.pa = true →
    s.checkPage a x t = .ok (s.place t.pa) t.leaf) ∧
  (∀ (s : State) n, let e := s.borrower (n % 2 ^ 12); s.leaseDetail n = if e.st ≠ 2 then some 1 else if e.gen ≠ n / 2 ^ 12 then some 2 else none) ∧
  (∀ a x leaf pa, (permDetails a x leaf pa).Pairwise (· < ·) ∧ (∀ d ∈ permDetails a x leaf pa, d ∈ [3, 4, 5, 6, 7, 12]) ∧
    (3 ∈ permDetails a x leaf pa ↔ x.rd = true ∧ bitAt leaf 2 = false) ∧
    (4 ∈ permDetails a x leaf pa ↔ x.wr = true ∧ (bitAt leaf 3 = false ∨ a.fw = false ∧ bitAt leaf 4 = true)) ∧
    (5 ∈ permDetails a x leaf pa ↔ a.fw = false ∧ bitAt leaf 5 = false) ∧
    (6 ∈ permDetails a x leaf pa ↔ x.wr = true ∧ (a.fw = false ∨ x.atomic = true) ∧ larderAddr pa = true) ∧
    (7 ∈ permDetails a x leaf pa ↔ (leafMc leaf = 1 ∧ x.sync = false ∨ leafMc leaf = 2 ∧ x.dev = false)) ∧
    (12 ∈ permDetails a x leaf pa ↔ x.fetch = true ∧ bitAt leaf 4 = false)) ∧
  (∀ (s : State) a pa, s.firewall a pa = true ↔ a.fw = true ∨ s.tag pa = 0 ∨ s.tag pa = a.gtkt) ∧
  (∀ (s : State) core ctx va e, (s.core core).tlb.find? (fun e => e.covers ctx va) = some e → e.draining = false → s.translate core ctx va = (s, .ok (e.xlat va))) ∧
  (∀ (s : State) core ctx va, (s.core core).tlb.find? (fun e => e.covers ctx va) = none → s.dieLookup core ctx va = none → ∀ d l, s.walk ctx va = .fault d l → s.translate core ctx va = (s, .fault d l)) ∧
  (∀ (s : State) core ctx va, (s.core core).tlb.find? (fun e => e.covers ctx va) = none → s.dieLookup core ctx va = none → ∀ y, s.walk ctx va = .ok y → s.markWaits core y false = false → (s.translate core ctx va).2 = .ok (s.markLeaf y false).2 ∧
    ∀ pa, (s.translate core ctx va).1.memByte pa = (s.markLeaf y false).1.memByte pa) ∧
  (∀ (s : State) (y : Xlat) st, let l := y.leaf + (if bitAt y.leaf 8 = true then 0 else 2 ^ 8) + (if st = true ∧ bitAt y.leaf 9 = false then 2 ^ 9 else 0)
    s.markLeaf y st = (if l = y.leaf then s else s.writePhys y.pte 8 l, { y with leaf := l })) ∧
  (∀ (s : State) ctx va, let root := bitsAt (s.context ctx).ptroot.toNat 11 45 * 2 ^ 11
    (s.tableMemory root = false → s.walk ctx va = .fault 2 3) ∧ (s.tableMemory root = true → s.walk ctx va = s.walkFrom true va 3 root)) ∧
  (∀ (s : State) va n base, (∀ r, s.walkEntry true va base n = .inl r → s.walkFrom true va n base = r) ∧
    ∀ b, s.walkEntry true va base (n + 1) = .inr b → s.walkFrom true va (n + 1) base = s.walkFrom true va n b) ∧
  (∀ (s : State) va base n, let pte := base + 8 * (if n = 3 then va / 2 ^ 49 % 2 ^ 8 else va / 2 ^ (19 + 10 * n) % 2 ^ 10); let e := s.readPhys pte 8
    s.refreshing pte = true → s.walkEntry true va base n = .inl .wait) ∧
  (∀ (s : State) va base n, let pte := base + 8 * (if n = 3 then va / 2 ^ 49 % 2 ^ 8 else va / 2 ^ (19 + 10 * n) % 2 ^ 10); let e := s.readPhys pte 8
    s.refreshing pte = false → s.isPoison (s.place pte) = true → s.walkEntry true va base n = .inl (.fault 3 n)) ∧
  (∀ (s : State) va base n, let pte := base + 8 * (if n = 3 then va / 2 ^ 49 % 2 ^ 8 else va / 2 ^ (19 + 10 * n) % 2 ^ 10); let e := s.readPhys pte 8
    s.refreshing pte = false → s.isPoison (s.place pte) = false → bitAt e 0 = false → s.walkEntry true va base n = .inl (.fault 1 n)) ∧
  (∀ (s : State) va base n, let pte := base + 8 * (if n = 3 then va / 2 ^ 49 % 2 ^ 8 else va / 2 ^ (19 + 10 * n) % 2 ^ 10); let e := s.readPhys pte 8
    s.refreshing pte = false → s.isPoison (s.place pte) = false → bitAt e 0 = true → bitAt e 1 = true → (n = 3 ∨ leafFrame e % 2 ^ (19 + 10 * n) ≠ 0 ∨ leafLid e ≠ 0 ∧ pkgAddr (leafFrame e) = s.pkg) →
    s.walkEntry true va base n = .inl (.fault 2 n)) ∧
  (∀ (s : State) va base n, let pte := base + 8 * (if n = 3 then va / 2 ^ 49 % 2 ^ 8 else va / 2 ^ (19 + 10 * n) % 2 ^ 10); let e := s.readPhys pte 8
    s.refreshing pte = false → s.isPoison (s.place pte) = false → bitAt e 0 = true → bitAt e 1 = true → n ≠ 3 → leafFrame e % 2 ^ (19 + 10 * n) = 0 → (leafLid e = 0 ∨ pkgAddr (leafFrame e) ≠ s.pkg) →
    s.walkEntry true va base n = .inl (.ok { pa := leafFrame e + va % 2 ^ (19 + 10 * n), leaf := e, level := n, pte := pte })) ∧
  (∀ (s : State) va base n, let pte := base + 8 * (if n = 3 then va / 2 ^ 49 % 2 ^ 8 else va / 2 ^ (19 + 10 * n) % 2 ^ 10); let e := s.readPhys pte 8
    s.refreshing pte = false → s.isPoison (s.place pte) = false → bitAt e 0 = true → bitAt e 1 = false → (n = 0 ∨ bitsAt e 56 8 ≠ 0 ∨ bitsAt e 2 11 ≠ 0 ∨ s.tableMemory (bitsAt e 0 56) = false) →
    s.walkEntry true va base n = .inl (.fault 2 n)) ∧
  (∀ (s : State) va base n, let pte := base + 8 * (if n = 3 then va / 2 ^ 49 % 2 ^ 8 else va / 2 ^ (19 + 10 * n) % 2 ^ 10); let e := s.readPhys pte 8
    s.refreshing pte = false → s.isPoison (s.place pte) = false → bitAt e 0 = true → bitAt e 1 = false → n ≠ 0 → bitsAt e 56 8 = 0 → bitsAt e 2 11 = 0 → s.tableMemory (bitsAt e 0 56) = true →
    s.walkEntry true va base n = .inr (bitsAt e 13 43 * 2 ^ 13)) ∧
  (∀ rs c d ls, pickTrap rs = some (c, d, ls) → (∃ l n e, (l, Chk.bad n c e) ∈ rs ∧ ∀ m k b f, (m, Chk.bad k b f) ∈ rs → n ≤ k) ∧
    (∀ l, l ∈ ls ↔ ∃ n e, (l, Chk.bad n c e) ∈ rs) ∧ ∃ l r n, ls = l :: r ∧ (l, Chk.bad n c d) ∈ rs) ∧
  (∀ rs, pickTrap rs = none ↔ ∀ l n c d, (l, Chk.bad n c d) ∉ rs) ∧
  (∀ (x : Iss) (s : State) acc ea, s.atomPending x.g.core x.g.slot x.ex = false → let r := s.checkList x.agent acc (x.ex.map ea)
    let cs := x.answers r.1 ((x.ex.zip r.2).map (fun c => (c.1, ea c.1, c.2)))
    (∀ c d ls, pickTrap (cs.map (fun c => (c.1, c.2.2))) = some (c, d, ls) → x.access s acc ea = .stop (.trap r.1 [] c d ls)) ∧
    (pickTrap (cs.map (fun c => (c.1, c.2.2))) = none → (x.settle r.1 acc.wr cs = none → x.access s acc ea = .stop (.wait s)) ∧
      ∀ u qs, x.settle r.1 acc.wr cs = some (u, qs) → x.access s acc ea = .go u qs)) ∧
  (∀ (x : Iss) (s : State) wr rs u qs, x.g.spec = false → (rs.map (·.1)).Nodup → x.settle s wr rs = some (u, qs) →
    (∀ r ∈ rs, ∀ c d lv n scr, r.2.2 = .fault c d lv n scr → (u.thread x.g.core x.g.slot r.1).mode = .parked) ∧
    (∀ q ∈ qs, (q.l, q.ea, Chk.ok q.loc q.leaf) ∈ rs) ∧
    ∀ r ∈ rs, ∀ t o leaf, r.2.2 = .ok (.spad t o) leaf → (s.thread x.g.core x.g.slot r.1).mode = .ready → ∃ q ∈ qs, q.l = r.1) ∧
  (∀ (x : Iss) (s : State) pc wr ls, x.g.spec = true → ls ≠ [] → x.park s pc wr ls = some (s.shelve x.g (ls.map (·.lane)))) ∧
  (∀ (s : State) (g : Grp) ls l, l ∈ ls → (s.thread g.core g.slot l).spec.isSome = true → ((s.shelve g ls).thread g.core g.slot l).offers = false ∧
    ((s.shelve g ls).thread g.core g.slot l).regs = (s.thread g.core g.slot l).regs ∧ ∀ pa, (s.shelve g ls).memByte pa = s.memByte pa) ∧
  (∀ (s : State) g i f r x, g.spec = true → s.gate g i f r false = .go x → x.ex = []) ∧
  (∀ (s : State) c w l loc b, (s.thread c w l).ownByte loc = some b → s.seenByte c w l loc = b) ∧
  (∀ (t : Thread) ls k, k ∈ t.readSectors ls ↔ ∃ loc ∈ ls, t.ownByte loc = none ∧ loc.sector = k) ∧
  (∀ (s : State) c w l y ls, l < 32 → (s.thread c w l).spec.isSome = true → (s.weave c w).team = some y →
    let fresh := ((s.thread c w l).readSectors ls).filter (fun k => !(s.weave c w).reads.any (fun r => r.1 == k))
    ((s.team y).kd.spec < s.readsUsed c (s.team y) + fresh.length → s.enterReads c w l ls = none) ∧
    (s.readsUsed c (s.team y) + fresh.length ≤ (s.team y).kd.spec → ∃ u, s.enterReads c w l ls = some u ∧
      (∀ k ∈ (s.thread c w l).readSectors ls, ∃ r ∈ (u.weave c w).reads, r.1 = k ∧ r.2.getLsbD l = true) ∧
      (∀ r ∈ (s.weave c w).reads, ∃ q ∈ (u.weave c w).reads, q.1 = r.1 ∧ ∀ m, r.2.getLsbD m = true → q.2.getLsbD m = true) ∧
      (∀ m, u.thread c w m = s.thread c w m) ∧ ∀ pa, u.memByte pa = s.memByte pa)) ∧
  (∀ (x : Iss) (s : State) rel n qs y, x.g.spec = true → (s.weave x.g.core x.g.slot).team = some y → (qs.map (·.lane.l)).Nodup →
    ∃ u ran, x.store s rel n qs = some (u, ran) ∧ (u.weave x.g.core x.g.slot).storeq = (s.weave x.g.core x.g.slot).storeq ∧ (∀ pa, u.memByte pa = s.memByte pa) ∧
      ∀ q ∈ qs, (q.lane.l ∈ ran → u.thread x.g.core x.g.slot q.lane.l = { s.thread x.g.core x.g.slot q.lane.l with
          spec := (s.thread x.g.core x.g.slot q.lane.l).spec.map (fun p => { p with stores := p.stores ++ sectorRecords rel (leafSync q.lane.leaf) q.bytes q.ceded }) }) ∧
        (q.lane.l ∉ ran → u.thread x.g.core x.g.slot q.lane.l = { s.thread x.g.core x.g.slot q.lane.l with mode := .waiting .retry, stamp := s.tick })) ∧
  (∀ (x : Iss) (s : State) rel n q y, x.g.spec = true → (s.weave x.g.core x.g.slot).team = some y →
    s.garretUsed x.g.core (s.team y) + 64 * (sectorRecords rel (leafSync q.lane.leaf) q.bytes q.ceded).length ≤ (s.team y).garret →
    ∃ u, x.store s rel n [q] = some (u, [q.lane.l])) ∧
  (∀ (t : Thread) n c p, t.spec = some p → tabFind n p.undo = none → (t.putReg n c).spec = some { p with undo := tabSet n (t.reg n) p.undo })

/-- For every instruction of a word, where the checks of R75 find a trap, exec takes it, or waits where the group speculates; where they find a wait, the group waits. A privileged word of a user weave raises reason 0x07. Trap entry of a weave outside its handler, with no thread speculating, sets tr.cause, tr.pc, tr.amask, tr.fmask, H, M and SKIP, saves each live thread and starts it at the handler with registers, predicates and floating-point state as they were, empties the join table, parked sub-groups and collectives into the frame, and leaves memory, other weaves and exited threads as they were. A trap in the handler kills the context with reason 2, one with no handler with reason 1; the firmware agent enters fw.trap, and its double trap resets it. What a reset of the agent clears is the model's choice (log entries 9 and 75). -/
def Obligations.TrapsAreTaken : Prop :=
  (∀ i (s : State) g c d ls, i.fields.isSome = true → s.group = some g → s.gate g i (i.fields.getD {}) i.row i.speculates = .trap c d ls →
    exec i s = .next (if g.spec then s.shelve g ls else if s.rollWaits g.core g.slot then s.hold g g.lanes else s.trapEntry g.core g.slot g.lanes ls c d g.pc)) ∧
  (∀ i (s : State) g, i.fields.isSome = true → s.group = some g → s.gate g i (i.fields.getD {}) i.row i.speculates = .wait →
    exec i s = .next (s.hold g g.lanes)) ∧
  (∀ i (s : State) g, i.row.priv = true → (s.weave g.core g.slot).team.isSome = true → i.row.accept = true → i.row.reservedClear (i.fields.getD {}) = true →
    ((i.fields.getD {}).lform = true → s.atLast g = false) →
    s.gate g i (i.fields.getD {}) i.row i.speculates = .trap 1 7 g.lanes) ∧
  (∀ (s : State) c w g f cause detail pc h, (s.weave c w).trH = false → (∀ l, l < 32 → (s.thread c w l).spec = none) →
    (match (s.weave c w).team with
      | none => h = (s.core c).fwTrap
      | some y => h = (s.team y).handler ∧ h ≠ 0) →
    let t := s.trapEntry c w g f cause detail pc
    (∀ pa, t.memByte pa = s.memByte pa) ∧ { t with cores := s.cores } = s ∧ (∀ k, k ≠ c → t.core k = s.core k) ∧
    { t.core c with weaves := (s.core c).weaves } = s.core c ∧ (∀ v, v ≠ w → t.weave c v = s.weave c v) ∧
    { t.weave c w with threads := [] } = { s.weave c w with
      threads := [], joins := [], parked := [], colls := [],
      trCause := BitVec.ofNat 64 (detail % 2 ^ 16 * 2 ^ 16 + cause % 2 ^ 8), trPc := pc, trAmask := maskOf g, trFmask := maskOf f,
      trH := true, trM := true, trSkip := decide (cause = 4), trSince := s.time,
      frame := some { joins := (s.weave c w).joins, parked := (s.weave c w).parked } } ∧
    ∀ l, t.thread c w l = if l < 32 ∧ (s.thread c w l).mode ≠ .exited then
      { s.thread c w l with
        frame := some { ctl := (s.thread c w l).ctl, mode := frameMode (s.thread c w l).mode, preds := (s.thread c w l).preds, ob := (s.thread c w l).ob,
                        wake := (s.thread c w l).wake, conv := (s.thread c w l).conv, lend := (s.thread c w l).lend, mark := (s.thread c w l).mark,
                        hollow := (s.thread c w l).hollow, ceded := (s.thread c w l).ceded, watch := (s.thread c w l).watch, noSpec := (s.thread c w l).noSpec },
        ctl := { pc := h, bh := 0, depth := 0, len := 0, entry := true }, mode := .ready, ob := {}, conv := 0, stop := none,
        lend := none, mark := none, hollow := [], ceded := [], watch := none, noSpec := none }
      else s.thread c w l) ∧
  (∀ (s : State) c w g f cause detail pc y, (s.weave c w).team = some y →
    ((s.weave c w).trH = true → s.trapEntry c w g f cause detail pc = s.afterHolds c (s.contextKill (s.team y).ctx 2 cause)) ∧
    ((s.weave c w).trH = false → (s.team y).handler = 0 → s.trapEntry c w g f cause detail pc = s.afterHolds c ((s.rollWeave c w).contextKill (s.team y).ctx 1 cause))) ∧
  (∀ (s : State) c w g f cause detail pc, (s.weave c w).team = none → (s.weave c w).trH = true → s.trapEntry c w g f cause detail pc = s.afterHolds c (s.resetAgent c)) ∧
  (∀ (s : State) c, (∀ w, (s.resetAgent c).weave c w = if w = 47 then Weave.agent else s.weave c w) ∧ ((s.resetAgent c).core c).fwTickets = [] ∧
    ∀ y, (s.core c).fwTickets = [y] → s.ticketPlain y → (s.resetAgent c).ticketState y = 0)

/-- For every state whose memory is in canonical form (addresses strictly rising, no entry equal to what an unlisted address reads as), if a step answers a next state, its memory is in canonical form too, so that equal memories are equal data; and exec of every instruction and of every event keeps it. -/
def Obligations.MemoryStaysCanonical : Prop :=
  (∀ (s t : State), Memory.wf s.mem = true → step s = .next t → Memory.wf t.mem = true) ∧
  (∀ i (s t : State), Memory.wf s.mem = true → exec i s = .next t → Memory.wf t.mem = true)
end

