-- ==== Sys2Proof/Laws/Tab.lean ====
section
/-! SUPPORT. Tables by key: read after write, other keys, and the canonical form. The first three hold of every
list, canonical or not. -/

namespace Sys2Proof.Machine

variable {α : Type}

@[simp] theorem tabFind_set_same (k : Nat) (v : α) (t : Tab α) : tabFind k (tabSet k v t) = some v := by
  induction t with
  | nil => simp [tabSet, tabFind]
  | cons h t ih =>
    simp only [tabSet]
    split
    · simp [tabFind]
    · split <;> simp_all [tabFind]

theorem tabFind_set_other {j k : Nat} (v : α) (t : Tab α) (h : j ≠ k) : tabFind j (tabSet k v t) = tabFind j t := by
  induction t with
  | nil => simp [tabSet, tabFind, h.symm]
  | cons e t ih =>
    simp only [tabSet]
    split
    · simp [tabFind, h.symm]
    · split
      · rename_i h1 h2; subst h2; simp [tabFind, h.symm]
      · simp [tabFind, ih]

theorem tabFind_set (j k : Nat) (v : α) (t : Tab α) :
    tabFind j (tabSet k v t) = if j = k then some v else tabFind j t := by
  split
  · subst_vars; simp
  · exact tabFind_set_other v t ‹_›

theorem tabFind_erase (j k : Nat) (t : Tab α) :
    tabFind j (tabErase k t) = if j = k then none else tabFind j t := by
  induction t with
  | nil => simp [tabErase, tabFind]
  | cons e t ih =>
    simp only [tabErase]
    split
    · rename_i h1; rw [ih]; split
      · rfl
      · simp only [tabFind, h1]; rw [if_neg (fun h => ‹¬j = k› h.symm)]
    · simp only [tabFind, ih]; split
      · rename_i h1 h2; rw [if_neg (by omega)]
      · rfl

@[simp] theorem tabGet_set (d : α) (j k : Nat) (v : α) (t : Tab α) :
    tabGet d j (tabSet k v t) = if j = k then v else tabGet d j t := by
  simp only [tabGet, tabFind_set]; split <;> simp

/-- A table written with `tabPut` reads back what was written, and every other key as before. -/
@[simp] theorem tabGet_put [DecidableEq α] (d : α) (j k : Nat) (v : α) (t : Tab α) :
    tabGet d j (tabPut d k v t) = if j = k then v else tabGet d j t := by
  unfold tabPut
  split
  · simp only [tabGet, tabFind_erase]; split <;> simp_all
  · simp

/-! ### The canonical form -/

/-- Every key of the table is above `n`. -/
def tabAbove (n : Nat) (t : Tab α) : Bool := t.all (fun e => decide (n < e.1))

theorem tabSorted_cons (j : Nat) (w : α) (t : Tab α) :
    tabSorted ((j, w) :: t) = (tabAbove j t && tabSorted t) := by
  induction t generalizing j w with
  | nil => simp [tabSorted, tabAbove]
  | cons e t ih =>
    obtain ⟨k, v⟩ := e
    rw [show tabSorted ((j, w) :: (k, v) :: t) = (decide (j < k) && tabSorted ((k, v) :: t)) from rfl, ih k v]
    by_cases h : j < k
    · simp only [h, decide_true, Bool.true_and, tabAbove, List.all_cons]
      rw [Bool.eq_iff_iff]
      simp only [Bool.and_eq_true, List.all_eq_true, decide_eq_true_eq]
      constructor
      · exact fun ⟨a, b⟩ => ⟨fun e he => lt_trans h (a e he), a, b⟩
      · exact fun ⟨_, a, b⟩ => ⟨a, b⟩
    · simp [h, tabAbove]

theorem tabAbove_set {n k : Nat} (v : α) (t : Tab α) (h : n < k) (ht : tabAbove n t = true) :
    tabAbove n (tabSet k v t) = true := by
  induction t with
  | nil => simp [tabSet, tabAbove, h]
  | cons e t ih =>
    simp only [tabAbove, List.all_cons, Bool.and_eq_true, decide_eq_true_eq] at ht ih ⊢
    simp only [tabSet]
    split
    · simp [h, ht]
    · split
      · simp [h, ht]
      · simp only [List.all_cons, Bool.and_eq_true, decide_eq_true_eq]; exact ⟨ht.1, ih ht.2⟩

theorem tabSorted_set (k : Nat) (v : α) (t : Tab α) (ht : tabSorted t = true) :
    tabSorted (tabSet k v t) = true := by
  induction t with
  | nil => simp [tabSet, tabSorted]
  | cons e t ih =>
    obtain ⟨j, w⟩ := e
    rw [tabSorted_cons, Bool.and_eq_true] at ht
    simp only [tabSet]
    split
    · rename_i h
      rw [tabSorted_cons, tabSorted_cons, Bool.and_eq_true, Bool.and_eq_true]
      refine ⟨?_, ht⟩
      simp only [tabAbove, List.all_cons, Bool.and_eq_true, decide_eq_true_eq, List.all_eq_true] at ht ⊢
      exact ⟨h, fun e he => lt_trans h (ht.1 e he)⟩
    · split
      · rename_i h; subst h; rw [tabSorted_cons, Bool.and_eq_true]; exact ht
      · rw [tabSorted_cons, Bool.and_eq_true]
        exact ⟨tabAbove_set v t (by omega) ht.1, ih ht.2⟩

theorem tabErase_sub (k : Nat) (t : Tab α) : ∀ e ∈ tabErase k t, e ∈ t := by
  induction t with
  | nil => simp [tabErase]
  | cons e t ih =>
    obtain ⟨j, w⟩ := e
    simp only [tabErase]
    split
    · exact fun e he => List.mem_cons_of_mem _ (ih e he)
    · simp only [List.mem_cons]; rintro e (rfl | he)
      · exact Or.inl rfl
      · exact Or.inr (ih e he)

theorem tabSorted_erase (k : Nat) (t : Tab α) (ht : tabSorted t = true) : tabSorted (tabErase k t) = true := by
  induction t with
  | nil => simp [tabErase, tabSorted]
  | cons e t ih =>
    obtain ⟨j, w⟩ := e
    rw [tabSorted_cons, Bool.and_eq_true] at ht
    simp only [tabErase]
    split
    · exact ih ht.2
    · rw [tabSorted_cons, Bool.and_eq_true]
      refine ⟨?_, ih ht.2⟩
      simp only [tabAbove, List.all_eq_true, decide_eq_true_eq] at ht ⊢
      exact fun e he => ht.1 e (tabErase_sub k t e he)

theorem tabSet_all (p : α → Bool) (k : Nat) (v : α) (t : Tab α) (hv : p v = true)
    (ht : t.all (fun e => p e.2) = true) : (tabSet k v t).all (fun e => p e.2) = true := by
  induction t with
  | nil => simp [tabSet, hv]
  | cons e t ih =>
    simp only [List.all_cons, Bool.and_eq_true] at ht
    simp only [tabSet]
    split
    · simp only [List.all_cons, hv, ht.1, ht.2, Bool.and_self]
    · split
      · simp only [List.all_cons, hv, ht.2, Bool.and_self]
      · simp only [List.all_cons, ht.1, ih ht.2, Bool.and_self]

/-- `tabPut` keeps the canonical form. -/
theorem tabWf_put [DecidableEq α] (d : α) (k : Nat) (v : α) (t : Tab α) (ht : tabWf d t = true) :
    tabWf d (tabPut d k v t) = true := by
  simp only [tabWf, Bool.and_eq_true] at ht ⊢
  unfold tabPut
  split
  · refine ⟨tabSorted_erase k t ht.1, ?_⟩
    simp only [List.all_eq_true] at ht ⊢
    exact fun e he => ht.2 e (tabErase_sub k t e he)
  · exact ⟨tabSorted_set k v t ht.1, tabSet_all (fun x => decide (x ≠ d)) k v t (by simpa using ‹¬v = d›) ht.2⟩

end Sys2Proof.Machine
end

