-- ==== Sys2Proof/Laws/Threads.lean ====
section
/-! SUPPORT. Reads of cores, weaves and threads after an update of one of them. -/

namespace Sys2Proof.Machine

theorem core_modCore (s : State) (c k : Nat) (g : Core → Core) :
    (s.modCore c g).core k = if k = c then g (s.core c) else s.core k := by
  simp [State.modCore, State.setCore, State.core]

theorem modCore_package (s : State) (c : Nat) (g : Core → Core) : { s.modCore c g with cores := s.cores } = s := rfl

theorem weave_modWeave (s : State) (c w v : Nat) (g : Weave → Weave) :
    (s.modWeave c w g).weave c v = if v = w then g (s.weave c w) else s.weave c v := by
  simp [State.modWeave, State.setWeave, State.weave, Core.weave, core_modCore]

theorem thread_modThread (x : Weave) (l m : Nat) (g : Thread → Thread) :
    (x.modThread l g).thread m = if m = l then g (x.thread l) else x.thread m := by
  simp [Weave.modThread, Weave.thread]

/-- Threads changed one lane at a time. -/
theorem thread_fold (ls : List Nat) (g : Nat → Thread → Thread) (x : Weave) (m : Nat) (h : ls.Nodup) :
    (ls.foldl (fun x l => x.modThread l (g l)) x).thread m = if m ∈ ls then g m (x.thread m) else x.thread m := by
  induction ls generalizing x with
  | nil => simp
  | cons l t ih =>
    rw [List.nodup_cons] at h
    rw [List.foldl_cons, ih _ h.2, thread_modThread]
    by_cases hm : m = l
    · subst hm; simp [h.1]
    · simp [hm]

theorem tables_fold (ls : List Nat) (g : Nat → Thread → Thread) (x : Weave) (ts : Tab Thread) :
    { ls.foldl (fun x l => x.modThread l (g l)) x with threads := ts } = { x with threads := ts } := by
  induction ls generalizing x with
  | nil => rfl
  | cons l t ih => rw [List.foldl_cons, ih]; rfl

theorem thread_modThreads (s : State) (c w : Nat) (ls : List Nat) (g : Nat → Thread → Thread) (m : Nat)
    (h : ls.Nodup) :
    (s.modThreads c w ls g).thread c w m = if m ∈ ls then g m (s.thread c w m) else s.thread c w m := by
  simp only [State.thread, State.modThreads, weave_modWeave, if_true]
  exact thread_fold ls g _ m h

/-- What an update of some threads of one weave leaves as it was. -/
theorem onlyThreads_modThreads (s : State) (c w : Nat) (ls : List Nat) (g : Nat → Thread → Thread) (h : ls.Nodup) :
    OnlyThreads s (s.modThreads c w ls g) c w ls where
  bytes _ := rfl
  package := rfl
  cores k hk := by simp [State.modThreads, State.modWeave, State.setWeave, core_modCore, hk]
  units := by simp [State.modThreads, State.modWeave, State.setWeave, core_modCore]
  weaves v hv := by simp [State.modThreads, weave_modWeave, hv]
  tables := by simp only [State.modThreads, weave_modWeave, if_true]; exact tables_fold ls g _ _
  lanes l hl := by rw [thread_modThreads s c w ls g l h, if_neg hl]

theorem OnlyThreads.trans {s t u : State} {c w : Nat} {ls : List Nat} (h : OnlyThreads s t c w ls)
    (k : OnlyThreads t u c w ls) : OnlyThreads s u c w ls where
  bytes pa := (k.bytes pa).trans (h.bytes pa)
  package := by
    have h1 := h.package; have h2 := k.package
    rw [← h2] at h1; simpa using h1
  cores n hn := (k.cores n hn).trans (h.cores n hn)
  units := by
    have h1 := h.units; have h2 := k.units
    rw [← h2] at h1; simpa using h1
  weaves v hv := (k.weaves v hv).trans (h.weaves v hv)
  tables := by
    have h1 := h.tables; have h2 := k.tables
    rw [← h2] at h1; simpa using h1
  lanes l hl := (k.lanes l hl).trans (h.lanes l hl)

theorem OnlyThreads.mono {s t : State} {c w : Nat} {ls ms : List Nat} (h : OnlyThreads s t c w ls)
    (k : ∀ l ∈ ls, l ∈ ms) : OnlyThreads s t c w ms :=
  { h with lanes := fun l hl => h.lanes l (fun hm => hl (k l hm)) }

theorem lanesOf_nodup (m : Mask) : (lanesOf m).Nodup := by
  unfold lanesOf; exact List.Nodup.filter _ (List.nodup_range)

/-- The lanes of a group are distinct. -/
theorem group_nodup {s : State} {g : Grp} (h : s.group = some g) : g.lanes.Nodup := by
  unfold State.group at h
  simp only at h
  split at h
  · cases h
  · split at h
    · cases h
    · rename_i x _ l t e
      cases h
      simp only
      rw [← e]
      exact ((lanesOf_nodup _).filter _).filter _

end Sys2Proof.Machine
end

