-- ==== Sys2Proof/Laws/Registers.lean ====
section
/-! SUPPORT. Reads of a thread's registers and predicates after a write to its destination (02 R48 to R51). -/

namespace Sys2Proof.Machine

theorem reg_putReg (t : Thread) (n m : Nat) (c : RegCell) :
    (t.putReg n c).reg m = if m = n then c else t.reg m := by
  simp [Thread.putReg, Thread.reg]

theorem spec_putReg (t : Thread) (n : Nat) (c : RegCell) : (t.putReg n c).spec.isSome = t.spec.isSome := by
  simp [Thread.putReg]

theorem rest_putReg (t : Thread) (n : Nat) (c : RegCell) (r : Tab RegCell) (p : Option Spec) :
    { t.putReg n c with regs := r, spec := p } = { t with regs := r, spec := p } := rfl

theorem reg_putWords (k : Nat) (t : Thread) (n v m : Nat) :
    (t.putWords n v k).reg m =
      if n ≤ m ∧ m < n + k then { val := BitVec.ofNat 32 (v / 2 ^ (32 * (m - n))) } else t.reg m := by
  induction k generalizing t n v with
  | zero => rw [if_neg (by omega)]; rfl
  | succ k ih =>
    rw [Thread.putWords, ih, reg_putReg]
    by_cases h : m = n
    · subst h; rw [if_neg (by omega), if_pos rfl, if_pos (by omega)]; simp
    · by_cases h2 : n + 1 ≤ m ∧ m < n + 1 + k
      · rw [if_pos h2, if_pos (by omega), Nat.div_div_eq_div_mul, ← pow_add]
        rw [show 32 + 32 * (m - (n + 1)) = 32 * (m - n) by omega]
      · rw [if_neg h2, if_neg h, if_neg (by omega)]

theorem spec_putWords (k : Nat) (t : Thread) (n v : Nat) : (t.putWords n v k).spec.isSome = t.spec.isSome := by
  induction k generalizing t n v with
  | zero => rfl
  | succ k ih => rw [Thread.putWords, ih, spec_putReg]

theorem rest_putWords (k : Nat) (t : Thread) (n v : Nat) (r : Tab RegCell) (p : Option Spec) :
    { t.putWords n v k with regs := r, spec := p } = { t with regs := r, spec := p } := by
  induction k generalizing t n v with
  | zero => rfl
  | succ k ih => rw [Thread.putWords, ih, rest_putReg]

/-- A write to a register group: its registers hold the value, every other register stands, and vz discards it. -/
theorem reg_dest (t : Thread) (d : BitVec 9) (bits v m : Nat) :
    (t.dest d bits v).reg m = (groupCell d bits v m).getD (t.reg m) := by
  unfold Thread.dest groupCell
  by_cases h : d = 511
  · simp [h]
  · rw [if_neg h, reg_putWords]
    by_cases h2 : d.toNat ≤ m ∧ m < d.toNat + regsOf bits
    · rw [if_pos h2, if_pos ⟨h, h2⟩]; rfl
    · rw [if_neg h2, if_neg (fun hh => h2 hh.2)]; rfl

theorem spec_dest (t : Thread) (d : BitVec 9) (bits v : Nat) : (t.dest d bits v).spec.isSome = t.spec.isSome := by
  unfold Thread.dest; split
  · rfl
  · exact spec_putWords _ t _ v

theorem rest_dest (t : Thread) (d : BitVec 9) (bits v : Nat) (r : Tab RegCell) (p : Option Spec) :
    { t.dest d bits v with regs := r, spec := p } = { t with regs := r, spec := p } := by
  unfold Thread.dest; split
  · rfl
  · exact rest_putWords _ t _ v r p

/-- Any field but regs and spec stands after a write to a register group. -/
theorem field_dest {β : Type} (f : Thread → β) (h : ∀ (t : Thread) r p, f { t with regs := r, spec := p } = f t)
    (t : Thread) (d : BitVec 9) (bits v : Nat) : f (t.dest d bits v) = f t := by
  rw [← h (t.dest d bits v) [] none, rest_dest, h]

/-- P(n) after a write to P(k): p7 discards it and reads true (02 R47, R51). -/
theorem pred_setPred (t : Thread) (k n : Nat) (b : Bool) (hk8 : k < 8) (hn : n < 8) :
    (t.setPred k b).pred n = if n = k ∧ n ≠ 7 then b else t.pred n := by
  unfold Thread.setPred Thread.pred
  by_cases hk : k = 7
  · subst hk
    rw [if_pos rfl, if_neg (by omega)]
  · rw [if_neg hk]
    cases b <;> (generalize t.preds = p; interval_cases n <;> interval_cases k <;> simp_all)

theorem rest_setPred (t : Thread) (k : Nat) (b : Bool) (q : BitVec 7) :
    { t.setPred k b with preds := q } = { t with preds := q } := by
  unfold Thread.setPred; split <;> rfl

theorem field_setPred {β : Type} (f : Thread → β) (h : ∀ (t : Thread) q, f { t with preds := q } = f t)
    (t : Thread) (k : Nat) (b : Bool) : f (t.setPred k b) = f t := by
  rw [← h (t.setPred k b) 0, rest_setPred, h]

end Sys2Proof.Machine
end

