-- ==== Sys2Proof/Laws/Issue.lean ====
section
/-! SUPPORT. The one law of issue: a ready group executes, and an instruction that only computes leaves what its
lanes compute and nothing else. -/

namespace Sys2Proof.Machine

theorem gate_go {s : State} {g : Grp} {i : Instr} {f : Fields} {r : Row} {sp : Bool} {x : Iss}
    (h : s.gate g i f r sp = .go x) :
    x = { g := g, i := i, f := f, r := r, ex := g.lanes.filter (fun l => (s.thread g.core g.slot l).whole.executes f), old := s } := by
  simp only [State.gate] at h
  repeat' split at h
  all_goals first | exact (Gate.go.inj h).symm | cases h

/-- The instruction that a ready issue names plays no part in the checks. -/
theorem gate_any {s : State} {g : Grp} {i : Instr} {f : Fields} {r : Row} {sp : Bool} {x : Iss} (j : Instr)
    (h : s.gate g i f r sp = .go x) : s.gate g j f r sp = .go { x with i := j } := by
  have e := gate_go h
  rw [e]
  unfold State.gate at h ⊢
  simp only at h ⊢
  split at h
  · cases h
  · rename_i c1
    rw [if_neg c1]
    split at h
    · cases h
    · split at h
      · cases h
      · split at h
        · cases h
        · split at h
          · cases h
          · rename_i c5
            rw [if_neg c5]
            split at h <;>
            · split at h
              · cases h
              · rename_i c6
                exact if_neg c6

theorem issueWith_go {s : State} {i : Instr} {f : Fields} {r : Row} {sp : Bool} {x : Iss}
    (body : Iss → State → Act) (hg : s.group = some x.g) (h : s.gate x.g i f r sp = .go x) :
    issueWith i f r sp body s = .next (x.finish (body x (s.advance x.g x.words))) := by
  simp [issueWith, hg, h]

theorem issue_go {s : State} {i : Instr} {x : Iss} (body : Iss → State → Act) (h : Ready i s x) :
    issue i body s = .next (x.finish (body x (s.advance x.g x.words))) :=
  issueWith_go body h.1 h.2

/-- An instruction whose meaning does not look at its own constructor. -/
theorem issueRow_go {s : State} {i : Instr} {x : Iss} (f : Fields) (r : Row) (body : Iss → State → Act)
    (h : Ready i s x) (hf : i.fields.getD {} = f) (hr : i.row = r) (hsp : i.speculates = false) :
    ∃ j, issueRow f r body s = .next (Iss.finish { x with i := j } (body { x with i := j } (s.advance x.g x.words))) := by
  subst hf hr
  have h2 := gate_any (.nop ⟨7, false, 0, 0, 0, 0, 0, false, false, false, 0, 0⟩) h.2
  rw [hsp] at h2
  exact ⟨_, issueWith_go (x := { x with i := .nop ⟨7, false, 0, 0, 0, 0, 0, false, false, false, 0, 0⟩ }) body h.1 h2⟩

theorem ready_ex {i : Instr} {s : State} {x : Iss} (h : Ready i s x) :
    x.ex = x.g.lanes.filter (fun l => (s.thread x.g.core x.g.slot l).whole.executes x.f) ∧ x.old = s ∧
      x.f = i.fields.getD {} ∧ x.r = i.row ∧ x.i = i := by
  have e := gate_go h.2
  have e2 : x = x := rfl
  constructor
  · conv_lhs => rw [e]
    conv_rhs => rw [e]
  · refine ⟨?_, ?_, ?_, ?_⟩ <;> (conv_lhs => rw [e])

theorem ready_nodup {i : Instr} {s : State} {x : Iss} (h : Ready i s x) : x.g.lanes.Nodup := group_nodup h.1

theorem ready_sub {i : Instr} {s : State} {x : Iss} (h : Ready i s x) : ∀ l ∈ x.ex, l ∈ x.g.lanes := by
  rw [(ready_ex h).1]; exact fun l hl => List.mem_of_mem_filter hl

theorem ready_ex_nodup {i : Instr} {s : State} {x : Iss} (h : Ready i s x) : x.ex.Nodup := by
  rw [(ready_ex h).1]; exact (ready_nodup h).filter _

end Sys2Proof.Machine
end

