-- ==== Sys2Proof/Laws/Compute.lean ====
section
/-! SUPPORT. Instructions whose lanes only compute: what `Iss.finish` leaves of them is `Computed`. -/

namespace Sys2Proof.Machine

/-- What a lane leaves by itself, before keep and the move past the word. -/
structure LaneEffect (x : Iss) (o : LaneOut) (old new : Thread) : Prop where
  regs : ∀ n, new.reg n = (o.reg.bind (fun v => groupCell x.f.d (x.r.d.width x.f.b) v n)).getD (old.reg n)
  preds : ∀ n, n < 8 → new.pred n =
    match o.pred with
    | some (k, b) => if n = k ∧ n ≠ 7 then b else old.pred n
    | none => old.pred n
  flags : new.fpFlags = old.fpFlags ||| BitVec.ofNat 32 o.flags
  draws : new.rsCount = old.rsCount + BitVec.ofNat 32 o.draws
  spec : new.spec.isSome = old.spec.isSome
  rest : { new with regs := old.regs, preds := old.preds, fpFlags := old.fpFlags, rsCount := old.rsCount,
                    spec := old.spec } = old

theorem filter_contains_self (l : List Nat) : l.filter (fun n => l.contains n) = l := by
  simp [List.filter_eq_self]

theorem filter_not_contains_self (l : List Nat) : l.filter (fun n => !l.contains n) = [] := by
  simp [List.filter_eq_nil_iff]

theorem finish_done_all (x : Iss) (s : State) : x.finish (.done s x.ex) = x.keep s x.ex := by
  simp only [Iss.finish, filter_not_contains_self, List.isEmpty_nil, if_true]

/-- keep changes the operand buffers of the lanes that ran. -/
theorem keep_thread (x : Iss) (s : State) (h : x.ex.Nodup) (l : Nat) :
    (x.keep s x.ex).thread x.g.core x.g.slot l =
      if l ∈ x.ex then { s.thread x.g.core x.g.slot l with ob := keptOb x l (s.thread x.g.core x.g.slot l).ob }
      else s.thread x.g.core x.g.slot l := by
  unfold Iss.keep keptOb
  cases hk : x.kept with
  | none => simp
  | some q =>
    simp only [filter_contains_self]
    rw [thread_modThreads _ _ _ _ _ _ h]

theorem keep_only (x : Iss) (s : State) (h : x.ex.Nodup) :
    OnlyThreads s (x.keep s x.ex) x.g.core x.g.slot x.ex := by
  unfold Iss.keep
  cases hk : x.kept with
  | none => exact ⟨fun _ => rfl, rfl, fun _ _ => rfl, rfl, fun _ _ => rfl, rfl, fun _ _ => rfl⟩
  | some q =>
    simp only [filter_contains_self]
    exact onlyThreads_modThreads _ _ _ _ _ h

theorem advance_only (s : State) (g : Grp) (n : Nat) (h : g.lanes.Nodup) :
    OnlyThreads s (s.advance g n) g.core g.slot g.lanes := onlyThreads_modThreads _ _ _ _ _ h

theorem advance_thread (s : State) (g : Grp) (n : Nat) (h : g.lanes.Nodup) (l : Nat) :
    (s.advance g n).thread g.core g.slot l =
      if l ∈ g.lanes then movedOn (s.thread g.core g.slot l) n s.tick else s.thread g.core g.slot l :=
  thread_modThreads s g.core g.slot g.lanes _ l h

/-- The law of computing instructions, for a state `u` in which the executing lanes have done their part. -/
theorem computed_settled {s u : State} {x : Iss} {out : Nat → LaneOut}
    (hl : x.g.lanes.Nodup) (he : x.ex.Nodup) (hs : ∀ l ∈ x.ex, l ∈ x.g.lanes)
    (ho : OnlyThreads (x.moved s) u x.g.core x.g.slot x.ex)
    (hh : ∀ l ∈ x.ex, LaneEffect x (out l) ((x.moved s).thread x.g.core x.g.slot l) (u.thread x.g.core x.g.slot l)) :
    Computed s x out (x.settled u) := by
  unfold Iss.settled
  unfold Iss.moved at ho hh
  constructor
  · exact ((advance_only s x.g x.words hl).trans (ho.mono hs)).trans ((keep_only x _ he).mono hs)
  · intro l hll
    rw [keep_thread x _ he]
    by_cases hx : l ∈ x.ex
    · simp only [hx, if_true]
      have q := hh l hx
      rw [advance_thread s x.g _ hl, if_pos hll] at q
      generalize s.thread x.g.core x.g.slot l = t at q
      generalize u.thread x.g.core x.g.slot l = v at q
      obtain ⟨q1, q2, q3, q4, q5, q6⟩ := q
      have fld : ∀ {β : Type} (f : Thread → β),
          (∀ (t : Thread) r p a b c, f { t with regs := r, preds := p, fpFlags := a, rsCount := b, spec := c } = f t) →
          f v = f (movedOn t x.words s.tick) := by
        intro β f hf
        rw [← hf v (movedOn t x.words s.tick).regs (movedOn t x.words s.tick).preds
          (movedOn t x.words s.tick).fpFlags (movedOn t x.words s.tick).rsCount (movedOn t x.words s.tick).spec, q6]
      exact {
        ctl := fld (·.ctl) (fun _ _ _ _ _ _ => rfl)
        mode := fld (·.mode) (fun _ _ _ _ _ _ => rfl)
        stamp := fld (·.stamp) (fun _ _ _ _ _ _ => rfl)
        lend := fld (·.lend) (fun _ _ _ _ _ _ => rfl)
        replay := ⟨fld (·.hollow) (fun _ _ _ _ _ _ => rfl), fld (·.ceded) (fun _ _ _ _ _ _ => rfl), fld (·.mark) (fun _ _ _ _ _ _ => rfl)⟩
        regs := fun n => q1 n
        preds := fun n hn => q2 n hn
        ob := by
          have e : v.ob = t.ob := fld (·.ob) (fun _ _ _ _ _ _ => rfl)
          simp [e]
        flags := q3
        draws := q4
        spec := q5
        rest := by
          have e := q6
          have e2 := congrArg (fun (v : Thread) => { v with
            ctl := t.ctl, mode := t.mode, stamp := t.stamp, lend := t.lend, ob := t.ob, hollow := t.hollow, ceded := t.ceded, mark := t.mark }) e
          exact e2 }
    · rw [ho.lanes l hx, advance_thread s x.g _ hl, if_pos hll]
      generalize s.thread x.g.core x.g.slot l = t
      simp only [hx, if_false]
      exact {
        ctl := rfl, mode := rfl, stamp := rfl, lend := rfl, replay := ⟨rfl, rfl, rfl⟩
        regs := fun n => rfl
        preds := fun n hn => rfl
        ob := by simp [movedOn]
        flags := by simp [movedOn]
        draws := by simp [movedOn]
        spec := rfl
        rest := rfl }

/-- The same where `h` gives each executing lane's part. -/
theorem computed_done {s : State} {x : Iss} {out : Nat → LaneOut} (h : Nat → Thread → Thread)
    (hl : x.g.lanes.Nodup) (he : x.ex.Nodup) (hs : ∀ l ∈ x.ex, l ∈ x.g.lanes)
    (hh : ∀ l ∈ x.ex, ∀ t, LaneEffect x (out l) t (h l t)) :
    Computed s x out
      (x.finish (.done ((s.advance x.g x.words).modThreads x.g.core x.g.slot x.ex h) x.ex)) := by
  rw [finish_done_all]
  refine computed_settled hl he hs (onlyThreads_modThreads _ _ _ _ _ he) (fun l hx => ?_)
  rw [thread_modThreads _ _ _ _ _ _ he, if_pos hx]
  exact hh l hx _

theorem none_effect (x : Iss) (t : Thread) : LaneEffect x {} t t :=
  ⟨fun _ => rfl, fun _ _ => rfl, by simp, by simp, rfl, rfl⟩

theorem dest_effect (x : Iss) (t : Thread) (v : Nat) :
    LaneEffect x { reg := some v } t (t.dest x.f.d (x.r.d.width x.f.b) v) where
  regs := fun n => reg_dest t _ _ v n
  preds := fun n _ => field_dest (·.pred n) (fun _ _ _ => rfl) t _ _ v
  flags := by simpa using field_dest (·.fpFlags) (fun _ _ _ => rfl) t _ _ v
  draws := by simpa using field_dest (·.rsCount) (fun _ _ _ => rfl) t _ _ v
  spec := spec_dest t _ _ v
  rest := by
    have e := congrArg (fun (q : Thread) => { q with preds := t.preds, fpFlags := t.fpFlags, rsCount := t.rsCount })
      (rest_dest t x.f.d (x.r.d.width x.f.b) v t.regs t.spec)
    exact e

/-- A predicate written after the rest. -/
theorem pred_effect {x : Iss} {t u : Thread} {d : Option Nat} {f n : Nat} (k : Nat) (b : Bool) (hk : k < 8)
    (q : LaneEffect x { reg := d, flags := f, draws := n } t u) :
    LaneEffect x { reg := d, pred := some (k, b), flags := f, draws := n } t (u.setPred k b) where
  regs := fun n => (field_setPred (·.reg n) (fun _ _ => rfl) u _ b).trans (q.regs n)
  preds := fun n hn => by
    simp only
    rw [pred_setPred u _ n b hk hn, q.preds n hn]
  flags := (field_setPred (·.fpFlags) (fun _ _ => rfl) u _ b).trans q.flags
  draws := (field_setPred (·.rsCount) (fun _ _ => rfl) u _ b).trans q.draws
  spec := (field_setPred (·.spec.isSome) (fun _ _ => rfl) u _ b).trans q.spec
  rest := by
    have e := congrArg (fun (q : Thread) => { q with regs := t.regs, fpFlags := t.fpFlags, rsCount := t.rsCount, spec := t.spec })
      (rest_setPred u k b t.preds)
    exact e.trans q.rest

/-- A lane that writes its destination and a predicate. -/
theorem put_effect (x : Iss) (t : Thread) (w : Write) :
    LaneEffect x { reg := w.d, pred := w.p.map (fun b => (x.f.d.toNat % 8, b)) } t (x.put t w) := by
  obtain ⟨d, p⟩ := w
  rcases d with _ | v <;> rcases p with _ | b
  · exact none_effect x t
  · exact pred_effect _ b (Nat.mod_lt _ (by norm_num)) (none_effect x t)
  · exact dest_effect x t v
  · exact pred_effect _ b (Nat.mod_lt _ (by norm_num)) (dest_effect x t v)

/-- Every instruction whose meaning is `perLane`. -/
theorem computes_perLane {i : Instr} {h : Iss → Nat → Write} (hx : ∀ s, exec i s = issue i (perLane h) s) :
    Computes i (fun x l => { reg := (h x l).d, pred := (h x l).p.map (fun b => (x.f.d.toNat % 8, b)) }) := by
  intro s x hr
  refine ⟨_, ((hx s).trans (issue_go _ hr)), ?_⟩
  exact computed_done _ (ready_nodup hr) (ready_ex_nodup hr) (ready_sub hr) (fun l _ t => put_effect x t _)

/-- Those that write d alone. -/
theorem computes_reg {i : Instr} {v : Iss → Nat → Nat} (hx : ∀ s, exec i s = issue i (bits v) s) :
    Computes i (toReg v) := computes_perLane (h := fun x l => { d := some (v x l) }) hx
/-- Those that write a predicate alone. -/
theorem computes_pred {i : Instr} {v : Iss → Nat → Bool}
    (hx : ∀ s, exec i s = issue i (perLane (fun x l => { p := some (v x l) })) s) :
    Computes i (toPred v) := computes_perLane (h := fun x l => { p := some (v x l) }) hx

end Sys2Proof.Machine
end

