-- ==== Sys2Proof/Laws/Units.lean ====
section
/-! SUPPORT. Instructions that act on a unit: an effect that leaves weaves and memory alone leaves the whole of
`Stands`. -/

namespace Sys2Proof.Machine

/-- `u` has the weaves and the bytes of `v`. -/
structure SameWeaves (v u : State) : Prop where
  weave : ∀ c w, u.weave c w = v.weave c w
  bytes : ∀ pa, u.memByte pa = v.memByte pa

theorem SameWeaves.rfl' (v : State) : SameWeaves v v := ⟨fun _ _ => rfl, fun _ => rfl⟩

theorem SameWeaves.trans {v u t : State} (h : SameWeaves v u) (k : SameWeaves u t) : SameWeaves v t :=
  ⟨fun c w => (k.weave c w).trans (h.weave c w), fun pa => (k.bytes pa).trans (h.bytes pa)⟩

theorem weave_modCore (s : State) (c k w : Nat) (g : Core → Core) :
    (s.modCore c g).weave k w = if k = c then (g (s.core c)).weave w else s.weave k w := by
  unfold State.weave; rw [core_modCore]; split <;> rfl

theorem weave_modWeave_at (s : State) (c w k v : Nat) (g : Weave → Weave) :
    (s.modWeave c w g).weave k v = if k = c ∧ v = w then g (s.weave c w) else s.weave k v := by
  by_cases hk : k = c
  · subst hk; rw [weave_modWeave]; simp
  · rw [if_neg (fun h => hk h.1)]
    simp [State.modWeave, State.setWeave, weave_modCore, hk]

theorem sameWeaves_modThreads {v u : State} (h : SameWeaves v u) (c w : Nat) (ls : List Nat)
    (g : Nat → Thread → Thread) : SameWeaves (v.modThreads c w ls g) (u.modThreads c w ls g) where
  weave k n := by
    simp only [State.modThreads, weave_modWeave_at, h.weave]
  bytes pa := h.bytes pa

/-- A change of a core that leaves its weaves. -/
theorem sameWeaves_modCore (s : State) (c : Nat) (g : Core → Core) (h : ∀ k : Core, (g k).weaves = k.weaves) :
    SameWeaves s (s.modCore c g) where
  weave k w := by
    rw [weave_modCore]; split
    · subst_vars; simp only [Core.weave, h]; rfl
    · rfl
  bytes _ := rfl

theorem sameWeaves_modTeam (s : State) (t : Nat) (g : Team → Team) : SameWeaves s (s.modTeam t g) := by
  unfold State.modTeam
  split
  · exact sameWeaves_modCore s _ _ (fun _ => rfl)
  · exact .rfl' s

/-- A change of a field of the package that is neither cores, memory nor the lease cache. -/
theorem sameWeaves_of {s u : State} (h1 : u.cores = s.cores) (h2 : u.mem = s.mem) (h3 : u.lcache = s.lcache) :
    SameWeaves s u where
  weave c w := by simp only [State.weave, State.core, h1]
  bytes pa := by simp only [State.memByte, h2, h3]

theorem finish_settled (x : Iss) (u : State) : x.finish (.done u x.ex) = x.settled u := finish_done_all x u

theorem done_back (x : Iss) (u : State) (ls : List Nat) (c d : Nat) (h : x.canTrap u) :
    x.finish (.trap u [] c d ls) = (x.unrun u x.g.lanes).trapEntry x.g.core x.g.slot x.g.lanes ls c d x.g.pc := by
  simp [Iss.finish, h.1, h.2]

/-- Threads and tables around a group whose threads alone change. -/
theorem stands_around {s t : State} {c w : Nat} {ls : List Nat} (h : OnlyThreads s t c w ls) :
    (∀ c' w' l, ¬ (c' = c ∧ w' = w ∧ l ∈ ls) → t.thread c' w' l = s.thread c' w' l) ∧
    (∀ c' w', { t.weave c' w' with threads := [] } = { s.weave c' w' with threads := [] }) := by
  constructor
  · intro c' w' l hn
    by_cases hc : c' = c
    · subst hc
      by_cases hw : w' = w
      · subst hw; exact h.lanes l (fun hl => hn ⟨rfl, rfl, hl⟩)
      · simp only [State.thread, h.weaves w' hw]
    · simp only [State.thread, State.weave, h.cores c' hc]
  · intro c' w'
    by_cases hc : c' = c
    · subst hc
      by_cases hw : w' = w
      · subst hw
        have e := congrArg (fun (y : Weave) => { y with threads := [] }) h.tables
        exact e
      · rw [h.weaves w' hw]
    · simp only [State.weave, h.cores c' hc]

/-- The law of instructions that act on a unit and write `out` by a change of the executing lanes' threads. -/
theorem stands_effect {s u : State} {x : Iss} {out : Nat → LaneOut} (h : Nat → Thread → Thread)
    (hl : x.g.lanes.Nodup) (he : x.ex.Nodup) (hs : ∀ l ∈ x.ex, l ∈ x.g.lanes)
    (hu : SameWeaves (x.moved s) u) (hh : ∀ l ∈ x.ex, ∀ t, LaneEffect x (out l) t (h l t)) :
    Stands s x out (x.settled (u.modThreads x.g.core x.g.slot x.ex h)) := by
  have hc := computed_done (s := s) h hl he hs hh
  rw [finish_done_all] at hc
  -- the same change on top of `u`
  have key : ∀ c w, (x.settled (u.modThreads x.g.core x.g.slot x.ex h)).weave c w =
      (x.keep ((s.advance x.g x.words).modThreads x.g.core x.g.slot x.ex h) x.ex).weave c w := by
    intro c w
    unfold Iss.settled Iss.keep
    have h1 := sameWeaves_modThreads hu x.g.core x.g.slot x.ex h
    cases x.kept with
    | none => exact h1.weave c w
    | some q => exact (sameWeaves_modThreads h1 _ _ _ _).weave c w
  have kb : ∀ pa, (x.settled (u.modThreads x.g.core x.g.slot x.ex h)).memByte pa = u.memByte pa := by
    intro pa
    unfold Iss.settled Iss.keep
    cases x.kept <;> rfl
  have ka := stands_around hc.outside
  constructor
  · intro pa; rw [kb, hu.bytes]; rfl
  · intro c w l hn
    rw [← ka.1 c w l hn]
    simp only [State.thread, key]
  · intro c w
    rw [key]; exact ka.2 c w
  · intro l hll
    have := hc.lanes l hll
    simpa only [State.thread, key] using this

/-- The law of instructions that act on a unit and write no register. -/
theorem stands_unit {s u : State} {x : Iss} (hl : x.g.lanes.Nodup) (he : x.ex.Nodup)
    (hs : ∀ l ∈ x.ex, l ∈ x.g.lanes) (hu : SameWeaves (x.moved s) u) :
    Stands s x (fun _ => {}) (x.settled u) := by
  have hc := computed_done (s := s) (out := fun _ => {}) (fun _ t => t) hl he hs (fun _ _ t => none_effect x t)
  rw [finish_done_all] at hc
  have keyT : ∀ l, ((x.settled u).thread x.g.core x.g.slot l) =
      (x.keep ((s.advance x.g x.words).modThreads x.g.core x.g.slot x.ex (fun _ t => t)) x.ex).thread x.g.core x.g.slot l := by
    intro l
    unfold Iss.settled
    rw [keep_thread x _ he, keep_thread x _ he, thread_modThreads _ _ _ _ _ _ he]
    simp only [State.thread, hu.weave, ite_self]
    rfl
  have ko := keep_only x u he
  have k1 := stands_around ko
  have ka := stands_around (advance_only s x.g x.words hl)
  constructor
  · intro pa; exact (ko.bytes pa).trans (hu.bytes pa)
  · intro c w l hn
    have h1 := k1.1 c w l (fun h => hn ⟨h.1, h.2.1, hs l h.2.2⟩)
    have h2 := ka.1 c w l hn
    unfold Iss.settled
    rw [h1, ← h2]; simp only [State.thread, hu.weave]; rfl
  · intro c w
    unfold Iss.settled
    rw [k1.2 c w, hu.weave]; exact ka.2 c w
  · intro l hll
    rw [keyT]; exact hc.lanes l hll

end Sys2Proof.Machine
end

