-- ==== Sys2Proof/Laws/Float.lean ====
section
/-! SUPPORT. Floating-point instructions: `fpLanes` completes with the results of its lanes, or raises the arithmetic
trap (05 R152). -/

namespace Sys2Proof.Machine

theorem onlyThreads_refl (s : State) (c w : Nat) (ls : List Nat) : OnlyThreads s s c w ls :=
  ⟨fun _ => rfl, rfl, fun _ _ => rfl, rfl, fun _ _ => rfl, rfl, fun _ _ => rfl⟩

theorem thread_modThread_at (s : State) (c w l m : Nat) (g : Thread → Thread) :
    (s.modThread c w l g).thread c w m = if m = l then g (s.thread c w m) else s.thread c w m := by
  simp only [State.thread, State.modThread, weave_modWeave, if_true, thread_modThread]
  split <;> simp_all

theorem onlyThreads_modThread (s : State) (c w l : Nat) (g : Thread → Thread) :
    OnlyThreads s (s.modThread c w l g) c w [l] :=
  onlyThreads_modThreads s c w [l] (fun _ => g) (List.nodup_singleton l)

/-- Threads changed one at a time, each once. -/
theorem fold_modThread {α : Type} (rs : List (Nat × α)) (f : α → Thread → Thread) (s : State) (c w : Nat)
    (h : (rs.map (·.1)).Nodup) :
    OnlyThreads s (rs.foldl (fun s r => s.modThread c w r.1 (f r.2)) s) c w (rs.map (·.1)) ∧
    ∀ r ∈ rs, (rs.foldl (fun s r => s.modThread c w r.1 (f r.2)) s).thread c w r.1 = f r.2 (s.thread c w r.1) := by
  induction rs generalizing s with
  | nil => exact ⟨onlyThreads_refl s c w _, by simp⟩
  | cons a t ih =>
    rw [List.map_cons, List.nodup_cons] at h
    have k := ih (s.modThread c w a.1 (f a.2)) h.2
    rw [List.foldl_cons]
    constructor
    · exact ((onlyThreads_modThread s c w a.1 (f a.2)).mono (by simp)).trans (k.1.mono (by simp; grind))
    · intro r hr
      rcases List.mem_cons.1 hr with e | hm
      · subst e
        rw [k.1.lanes _ h.1, thread_modThread_at, if_pos rfl]
      · have hne : r.1 ≠ a.1 := fun e => h.1 (e ▸ List.mem_map_of_mem hm)
        rw [k.2 r hm, thread_modThread_at, if_neg hne]

theorem fp_effect (x : Iss) (t : Thread) (w : FpWrite) : LaneEffect x (fpOut x w) t (x.putFp t w) := by
  have h := put_effect x t w.w
  constructor
  · exact h.regs
  · exact h.preds
  · have := h.flags
    simp only [Iss.putFp, fpOut]
    rw [this]; simp
  · have := h.draws
    simp only [Iss.putFp, fpOut]
    rw [this]; split <;> simp
  · exact h.spec
  · have e := congrArg (fun (q : Thread) => { q with fpFlags := t.fpFlags, rsCount := t.rsCount }) h.rest
    exact e

theorem trapping_eq (h : Iss → Nat → FpWrite) (x : Iss) :
    enabledLanes x (x.ex.map (fun l => (l, h x l))) = trapping h x := by
  simp [enabledLanes, trapping, List.filter_map, Function.comp_def]

theorem trapBits_eq (h : Iss → Nat → FpWrite) (x : Iss) :
    enabledUnion x (x.ex.map (fun l => (l, h x l))) = trapBits h x := by
  simp [enabledUnion, trapBits, List.foldl_map]

theorem fpMeans_lanes {i : Instr} {h : Iss → Nat → FpWrite} (hx : ∀ s, exec i s = issue i (fpLanes h) s) :
    FpMeans i h := by
  constructor
  · intro s x hr ht
    refine ⟨_, (hx s).trans (issue_go _ hr), ?_⟩
    have e : fpLanes h x (s.advance x.g x.words) =
        .done (x.putAll (x.moved s) (x.ex.map (fun l => (l, h x l)))) x.ex := by
      simp only [fpLanes, trapping_eq, ht]; rfl
    rw [e, finish_settled]
    have k := fold_modThread (x.ex.map (fun l => (l, h x l))) (fun r t => x.putFp t r) (x.moved s) x.g.core x.g.slot
      (by simpa [Function.comp_def] using ready_ex_nodup hr)
    refine computed_settled (ready_nodup hr) (ready_ex_nodup hr) (ready_sub hr) (k.1.mono (by simp)) (fun l hl => ?_)
    have k2 := k.2 (l, h x l) (List.mem_map_of_mem hl)
    rw [show (x.putAll (x.moved s) (x.ex.map (fun l => (l, h x l)))).thread x.g.core x.g.slot l =
      x.putFp ((x.moved s).thread x.g.core x.g.slot l) (h x l) from k2]
    exact fp_effect x _ _
  · intro s x hr hsp ht
    rw [hx s, issue_go _ hr]
    have e : fpLanes h x (s.advance x.g x.words) =
        .trap (x.moved s) [] trapArith (trapBits h x) (trapping h x) := by
      simp only [fpLanes, trapping_eq, trapBits_eq]
      cases hq : trapping h x with
      | nil => exact absurd hq ht
      | cons a t => rfl
    rw [e, done_back _ _ _ _ _ hsp]
    rfl

end Sys2Proof.Machine
end

