-- ==== Sys2Proof/Laws/Quiet.lean ====
section
/-! SUPPORT. What leaves every weave alone: bytes, translation, the checks of an access and what a load does to the
directories. -/

namespace Sys2Proof.Machine

/-- No weave of `s` differs in `u`. -/
def Quiet (s u : State) : Prop := ∀ c w, u.weave c w = s.weave c w

theorem Quiet.rfl' (s : State) : Quiet s s := fun _ _ => rfl
theorem Quiet.trans {s t u : State} (h : Quiet s t) (k : Quiet t u) : Quiet s u := fun c w => (k c w).trans (h c w)
theorem quiet_of {s u : State} (h : u.cores = s.cores) : Quiet s u := fun c w => by simp only [State.weave, State.core, h]

theorem Quiet.thread {s u : State} (h : Quiet s u) (c w l : Nat) : u.thread c w l = s.thread c w l := by
  simp only [State.thread, h c w]

theorem quiet_fold {α : Type} (ls : List α) (f : State → α → State) (h : ∀ s a, Quiet s (f s a)) (s : State) :
    Quiet s (ls.foldl f s) := by
  induction ls generalizing s with
  | nil => exact .rfl' s
  | cons a t ih => exact (h s a).trans (ih _)

theorem quiet_modCore (s : State) (c : Nat) (g : Core → Core) (h : ∀ k : Core, (g k).weaves = k.weaves) :
    Quiet s (s.modCore c g) := (sameWeaves_modCore s c g h).weave
theorem quiet_modTeam (s : State) (t : Nat) (g : Team → Team) : Quiet s (s.modTeam t g) :=
  (sameWeaves_modTeam s t g).weave

theorem quiet_lcEnter (s : State) (n : Nat) : Quiet s (s.lcEnter n) := by
  unfold State.lcEnter
  split
  · exact .rfl' s
  · dsimp only
    split
    · split
      · exact quiet_of rfl
      · exact quiet_of rfl
    · exact quiet_of rfl
theorem quiet_lcBring (s : State) (pa : Nat) : Quiet s (s.lcBring pa) := by
  unfold State.lcBring
  split
  · exact .rfl' s
  · dsimp only
    split
    · exact Quiet.trans (t := s.hears (pkgAddr pa)) (quiet_of rfl) (quiet_lcEnter _ _)
    · exact quiet_of rfl
theorem quiet_setByte (s : State) (pa : Nat) (b : Byte) : Quiet s (s.setByte pa b) := by
  unfold State.setByte
  dsimp only
  split
  · exact (quiet_lcBring s pa).trans (quiet_of rfl)
  · exact (quiet_lcBring s pa).trans (quiet_of rfl)
theorem quiet_putByte (s : State) (l : Loc) (b : Byte) : Quiet s (s.putByte l b) := by
  unfold State.putByte; split
  · exact quiet_setByte s _ b
  · exact quiet_modTeam s _ _
theorem quiet_fillLine (s : State) (t o : Nat) : Quiet s (s.fillLine t o) := by
  unfold State.fillLine
  split
  · exact .rfl' s
  · dsimp only
    split
    · exact .rfl' s
    · exact quiet_modTeam s _ _
theorem quiet_touch (s : State) (l : Loc) : Quiet s (s.touch l) := by
  unfold State.touch; split
  · exact quiet_lcBring s _
  · exact quiet_fillLine s _ _
theorem quiet_touchAll (s : State) (ls : List Loc) : Quiet s (s.touchAll ls) := quiet_fold ls _ quiet_touch s
/-- The weaves of `u` are those of `s`, but for what the threads' speculation holds: a conflict may have been marked
(08 R293). -/
structure Alike (s u : State) : Prop where
  threads : ∀ c w l, (u.thread c w l).plainly = (s.thread c w l).plainly
  tables : ∀ c w, { u.weave c w with threads := [] } = { s.weave c w with threads := [] }

theorem Quiet.alike {s u : State} (h : Quiet s u) : Alike s u :=
  ⟨fun c w l => by rw [h.thread], fun c w => by rw [h c w]⟩
theorem Alike.trans {s t u : State} (h : Alike s t) (k : Alike t u) : Alike s u :=
  ⟨fun c w l => (k.threads c w l).trans (h.threads c w l), fun c w => (k.tables c w).trans (h.tables c w)⟩
theorem alike_fold {α : Type} (ls : List α) (f : State → α → State) (h : ∀ s a, Alike s (f s a)) (s : State) :
    Alike s (ls.foldl f s) := by
  induction ls generalizing s with
  | nil => exact (Quiet.rfl' s).alike
  | cons a t ih => exact (h s a).trans (ih _)

theorem tabGet_map {α : Type} (d : α) (k : Nat) (g : Nat → α → α) (t : Tab α) :
    tabGet d k (t.map (fun e => (e.1, g e.1 e.2))) = g k (tabGet d k t) ∨
      tabGet d k (t.map (fun e => (e.1, g e.1 e.2))) = tabGet d k t := by
  induction t with
  | nil => exact .inr rfl
  | cons e t ih =>
    by_cases h : e.1 = k
    · exact .inl (by simp [tabGet, tabFind, h])
    · simpa [tabGet, tabFind, h] using ih

/-- A weave in which some threads have a conflict. -/
def Weave.marked (x : Weave) (p : Nat → Bool) (ls : List Nat) : Weave :=
  ls.foldl (fun x l => if p l then x
    else x.modThread l (fun t => { t with spec := t.spec.map (fun p => { p with conflict := true }) })) x
theorem marked_alike (x : Weave) (p : Nat → Bool) (ls : List Nat) :
    (∀ l, ((x.marked p ls).thread l).plainly = (x.thread l).plainly) ∧
      { x.marked p ls with threads := [] } = { x with threads := [] } := by
  unfold Weave.marked
  induction ls generalizing x with
  | nil => exact ⟨fun _ => rfl, rfl⟩
  | cons a t ih =>
    rw [List.foldl_cons]
    split
    · exact ih x
    · obtain ⟨h1, h2⟩ := ih (x.modThread a (fun t => { t with spec := t.spec.map (fun p => { p with conflict := true }) }))
      refine ⟨fun l => (h1 l).trans ?_, h2.trans rfl⟩
      rw [thread_modThread]
      split
      · subst_vars; rfl
      · rfl

/-- Marking conflicts changes nothing but the marks. -/
theorem alike_conflicts (s : State) (ls : List Loc) (b : Nat × Nat × Nat) (sees : Nat → Nat → Bool) :
    Alike s (s.conflicts ls b sees) := by
  let g : Nat → Nat → Weave → Weave := fun c w x =>
    if sees c w then x.marked (fun l => decide (b = (c, w, l)))
      (lanesOf ((x.reads.filter (fun r => (ls.map Loc.sector).contains r.1)).foldl (fun m r => m ||| r.2) 0)) else x
  have e : s.conflicts ls b sees = { s with cores := s.cores.map (fun k =>
      (k.1, { k.2 with weaves := k.2.weaves.map (fun w => (w.1, g k.1 w.1 w.2)) })) } := by
    simp only [State.conflicts, g, Weave.marked, decide_eq_true_eq]
    congr 1
    refine List.map_congr_left (fun k _ => ?_)
    congr 2
    refine List.map_congr_left (fun w _ => ?_)
    split <;> rfl
  have hw : ∀ c w, (s.conflicts ls b sees).weave c w = g c w (s.weave c w) ∨
      (s.conflicts ls b sees).weave c w = s.weave c w := by
    intro c w
    rw [e]
    simp only [State.weave, State.core]
    rcases tabGet_map Core.init c (fun k y => { y with weaves := y.weaves.map (fun w => (w.1, g k w.1 w.2)) }) s.cores with h | h
    · rw [h]
      exact tabGet_map {} w (fun w y => g c w y) _
    · rw [h]; exact .inr rfl
  have hg : ∀ c w x, (∀ l, ((g c w x).thread l).plainly = (x.thread l).plainly) ∧
      { g c w x with threads := [] } = { x with threads := [] } := by
    intro c w x
    simp only [g]
    split
    · exact marked_alike _ _ _
    · exact ⟨fun _ => rfl, rfl⟩
  constructor
  · intro c w l
    simp only [State.thread]
    rcases hw c w with h | h <;> rw [h]
    exact (hg c w _).1 l
  · intro c w
    rcases hw c w with h | h <;> rw [h]
    exact (hg c w _).2

theorem quiet_snoop (s : State) (l : Loc) : Quiet s (s.snoop l) := by
  unfold State.snoop; split <;> exact quiet_of rfl
theorem quiet_endInherit (s : State) : Quiet s s.endInherit := quiet_of rfl
theorem alike_writeAt (s : State) (bs : List (Loc × Byte)) : Alike s (s.writeAt bs) := by
  unfold State.writeAt
  extract_lets u
  have h : Alike s u := (quiet_fold bs (fun s b => (s.touch b.1).putByte b.1 b.2)
    (fun s _ => (quiet_touch s _).trans (quiet_putByte _ _ _)) s).alike
  exact (h.trans (alike_conflicts u _ _ _)).trans (quiet_endInherit (u.conflicts (bs.map (·.1)) (202, 0, 0) _)).alike
theorem alike_writePhys (s : State) (pa n v : Nat) : Alike s (s.writePhys pa n v) := alike_writeAt s _
theorem Alike.rfl' (s : State) : Alike s s := (Quiet.rfl' s).alike

theorem alike_markLeaf (s : State) (x : Xlat) (b : Bool) : Alike s (s.markLeaf x b).1 := by
  unfold State.markLeaf
  extract_lets l m
  split
  · exact .rfl' s
  · exact alike_writePhys s _ _ _
theorem quiet_fillTlb (s : State) (c x va : Nat) (y : Xlat) : Quiet s (s.fillTlb c x va y) :=
  quiet_modCore s c _ (fun _ => rfl)
theorem quiet_fillDieTlb (s : State) (c x va : Nat) (y : Xlat) : Quiet s (s.fillDieTlb c x va y) := quiet_of rfl
theorem quiet_waitLine (s : State) (n : Nat) : Quiet s (s.waitLine n) := by
  unfold State.waitLine; split <;> exact quiet_of rfl
theorem quiet_waitLines (s : State) (ls : List Loc) : Quiet s (s.waitLines ls) :=
  quiet_fold _ _ (fun s l => by cases l with
    | mem pa => exact quiet_waitLine s _
    | spad => exact .rfl' s) s
theorem alike_walkFill (s : State) (c x va : Nat) : Alike s (s.walkFill c x va).1 := by
  unfold State.walkFill
  split
  · split
    · exact (quiet_waitLines s _).alike
    · exact (alike_markLeaf s _ _).trans ((quiet_fillDieTlb _ _ _ _ _).trans (quiet_fillTlb _ _ _ _ _)).alike
  · exact .rfl' s
  · exact .rfl' s
theorem quiet_endShoot (s : State) (c : Nat) : Quiet s (s.endShoot c) := by
  unfold State.endShoot; split
  · exact quiet_modCore s c _ (fun _ => rfl)
  · exact .rfl' s
theorem alike_translate (s : State) (c x va : Nat) : Alike s (s.translate c x va).1 := by
  unfold State.translate
  split
  · split
    · exact .rfl' s
    · split
      · exact (quiet_endShoot s c).alike.trans (alike_walkFill _ c x va)
      · exact .rfl' s
  · exact alike_walkFill s c x va
theorem alike_dirtied (s : State) (c x va : Nat) (y : Xlat) : Alike s (s.dirtied c x va y).1 := by
  unfold State.dirtied
  split
  · exact .rfl' s
  · split
    · split
      · exact (quiet_waitLines s _).alike
      · exact (alike_markLeaf s _ _).trans ((quiet_fillDieTlb _ _ _ _ _).trans (quiet_fillTlb _ _ _ _ _)).alike
    · exact .rfl' s

theorem quiet_checkFill (s : State) (t o : Nat) : Quiet s (s.checkFill t o).1 := by
  unfold State.checkFill
  split
  · split
    · exact quiet_snoop s _
    · exact .rfl' s
  · exact .rfl' s

theorem alike_check (s : State) (a : Agent) (x : Acc) (ea : Nat) : Alike s (s.check a x ea).1 := by
  unfold State.check
  split
  · exact .rfl' s
  split
  · exact .rfl' s
  split
  · split
    · exact (quiet_checkFill s _ _).alike
    · exact .rfl' s
  split
  · exact (quiet_checkFill s _ _).alike
  · have ht := alike_translate s a.core a.ctx ea
    revert ht
    generalize s.translate a.core a.ctx ea = r
    obtain ⟨u, r⟩ := r
    intro ht
    cases r with
    | ok t =>
      dsimp only at ht ⊢
      split
      · exact ht
      split
      · exact ht.trans (quiet_snoop u _).alike
      split
      · exact ht
      · have hd := alike_dirtied u a.core a.ctx ea t
        revert hd
        generalize u.dirtied a.core a.ctx ea t = q
        obtain ⟨v, q⟩ := q
        intro hd
        cases q <;> exact ht.trans hd
    | fault _ _ => exact ht
    | wait => exact ht

theorem alike_checkList (s : State) (a : Agent) (x : Acc) (es : List Nat) : Alike s (s.checkList a x es).1 := by
  induction es generalizing s with
  | nil => exact .rfl' s
  | cons e t ih => exact (alike_check s a x e).trans (ih _)

theorem alike_fetchOn (s : State) (c w va : Nat) (q : Option LendWait) : Alike s (s.fetchOn c w va q).1 := by
  unfold State.fetchOn
  split
  · exact .rfl' s
  · exact alike_check s _ _ _
theorem alike_fetch (s : State) (c w va : Nat) : Alike s (s.fetch c w va).1 := alike_fetchOn s c w va _

theorem alike_takeCheck (s : State) (c w l : Nat) (t : DWord) (q : Option LendWait) :
    Alike s (s.takeCheck c w l t q).1 := by
  unfold State.takeCheck
  split
  · exact .rfl' s
  split
  · exact .rfl' s
  · have hf := alike_fetchOn s c w t.toNat q
    revert hf
    generalize s.fetchOn c w t.toNat q = r
    obtain ⟨u, r⟩ := r
    intro hf
    cases r <;> exact hf

theorem alike_takeAll (s : State) (c w : Nat) (on : Nat → DWord → Option LendWait) (ts : List (Nat × DWord)) :
    Alike s (s.takeAll c w on ts).1 := by
  induction ts generalizing s with
  | nil => exact .rfl' s
  | cons e t ih =>
    obtain ⟨l, d⟩ := e
    exact (alike_takeCheck s c w l d _).trans (ih _)

/-- Each target is looked at, in its place. -/
theorem takeAll_targets (s : State) (c w : Nat) (on : Nat → DWord → Option LendWait) (ts : List (Nat × DWord)) :
    (s.takeAll c w on ts).2.map (fun e => (e.1, e.2.1)) = ts := by
  induction ts generalizing s with
  | nil => rfl
  | cons e t ih =>
    obtain ⟨l, d⟩ := e
    simp only [State.takeAll, List.map_cons, ih]

/-! ### What a load does to the directories -/

theorem quiet_modHandle (s : State) (t h : Nat) (g : Handle → Handle) : Quiet s (s.modHandle t h g) := quiet_modTeam s t _
theorem quiet_pruneDirs (s : State) : Quiet s s.pruneDirs := quiet_of rfl
theorem alike_rowRecall (s : State) (who : Option Nat) (st : Bool) (pa : Nat) : Alike s (s.rowRecall who st pa) := by
  unfold State.rowRecall
  dsimp only
  split
  · exact (Quiet.rfl' s).alike
  · refine Alike.trans (Quiet.alike (Quiet.trans (quiet_fold _ _ (fun s _ => quiet_modHandle s _ _ _) s) (quiet_pruneDirs _)))
      (alike_fold _ _ (fun s d => ?_) _)
    exact alike_conflicts s _ _ _
theorem alike_recallSpan (s : State) (who : Option Nat) (st : Bool) (l : Loc) (n : Nat) :
    Alike s (s.recallSpan who st l n) := by
  unfold State.recallSpan
  split
  · exact (Quiet.rfl' s).alike
  · exact alike_fold _ _ (fun s _ => alike_rowRecall s _ _ _) s
theorem alike_syncTouch (s : State) (pa : Nat) (c w : Option Nat) : Alike s (s.syncTouch pa c w) := by
  have q : ∀ d g, Quiet s (s.modDie d g) := fun _ _ => quiet_of rfl
  unfold State.syncTouch
  extract_lets half h old new put u
  split
  · exact Alike.trans (q _ _).alike (alike_conflicts u _ _ _)
  · exact (q _ _).alike
theorem quiet_holdLine (s : State) (c n : Nat) : Quiet s (s.holdLine c n) := by
  unfold State.holdLine; split <;> exact quiet_of rfl
theorem quiet_grantHold (s : State) (c n : Nat) : Quiet s (s.grantHold c n) := by
  unfold State.grantHold
  dsimp only
  split
  · exact quiet_holdLine s _ _
  · exact (quiet_holdLine s _ _).trans (quiet_holdLine _ _ _)
/-- Before a load reads its places no weave changes but by a mark. -/
theorem alike_prepLoad (s : State) (c w : Nat) (q : Lane) (n : Nat) (k : Bool) : Alike s (s.prepLoad c w q n k) := by
  unfold State.prepLoad
  have h := (quiet_touchAll s (q.loc.span n)).alike.trans (alike_recallSpan _ (s.weave c w).team false q.loc n)
  dsimp only
  split
  · exact h
  · split
    · exact h.trans (alike_syncTouch _ _ _ _)
    · split
      · exact h.trans (quiet_grantHold _ _ _).alike
      · exact h

end Sys2Proof.Machine
end

