-- ==== Sys2Proof/Laws/Jump.lean ====
section
/-! SUPPORT. Control transfers: what `transfer` leaves where every target is found (03 R102). -/

namespace Sys2Proof.Machine

theorem filter_all_ok (r : List (Nat × DWord × Took)) (h : ∀ e ∈ r, e.2.2 = .ok) :
    r.filter (fun e => e.2.2 == .ok) = r :=
  List.filter_eq_self.2 (fun e he => by simp [h e he])

theorem filterMap_none {α β : Type} (r : List α) (f : α → Option β) (h : ∀ e ∈ r, f e = none) : r.filterMap f = [] :=
  List.filterMap_eq_nil_iff.2 h

/-- The lanes that take a transfer. -/
def takerLanes (want : Iss → Nat → Option DWord) (x : Iss) : List Nat := x.ex.filter (fun l => (want x l).isSome)

theorem takers_lanes (want : Iss → Nat → Option DWord) (x : Iss) :
    (takers want x).map (·.1) = takerLanes want x := by
  unfold takers takerLanes
  induction x.ex with
  | nil => rfl
  | cons l t ih =>
    simp only [List.filterMap_cons, List.filter_cons]
    cases h : want x l <;> simp [ih]

theorem mem_takers {want : Iss → Nat → Option DWord} {x : Iss} {l : Nat} {d : DWord} :
    (l, d) ∈ takers want x ↔ l ∈ x.ex ∧ want x l = some d := by
  simp [takers]

/-- The lanes that stay and those that take are the executing lanes. -/
def stayers (want : Iss → Nat → Option DWord) (x : Iss) : List Nat :=
  x.ex.filter (fun l => !((takers want x).any (fun e => e.1 = l)))

theorem mem_stayers {want : Iss → Nat → Option DWord} {x : Iss} {l : Nat} :
    l ∈ stayers want x ↔ l ∈ x.ex ∧ want x l = none := by
  unfold stayers
  rw [List.mem_filter]
  refine and_congr_right (fun hl => ?_)
  simp only [Bool.not_eq_true', List.any_eq_false, decide_eq_true_eq, Prod.forall, mem_takers]
  constructor
  · intro h
    cases hw : want x l with
    | none => rfl
    | some d => exact absurd rfl (h l d ⟨hl, hw⟩)
  · intro h a b hm e
    subst e
    simp [h] at hm

theorem movers_nodup {want : Iss → Nat → Option DWord} {x : Iss} (he : x.ex.Nodup) :
    (stayers want x ++ takerLanes want x).Nodup := by
  rw [List.nodup_append]
  refine ⟨he.filter _, he.filter _, ?_⟩
  intro a ha b hb e
  subst e
  have h1 := (mem_stayers.1 ha).2
  have h2 := (List.mem_filter.1 hb).2
  simp [h1] at h2

theorem mem_movers {want : Iss → Nat → Option DWord} {x : Iss} {l : Nat} :
    l ∈ stayers want x ++ takerLanes want x ↔ l ∈ x.ex := by
  rw [List.mem_append, mem_stayers]
  unfold takerLanes
  rw [List.mem_filter]
  cases want x l <;> simp

/-- `transfer` where every target is found. -/
theorem transfer_ok (want : Iss → Nat → Option DWord) (eff : Iss → Nat → Thread → Thread) (x : Iss) (s : State)
    (h : ∀ e ∈ (x.targets s (takers want x)).2, e.2.2 = .ok) :
    transfer want eff x s = .done
      ((takers want x).foldl (fun u e => u.modThread x.g.core x.g.slot e.1 (fun t => { t with ctl := t.ctl.goto e.2 }))
        ((x.targets s (takers want x)).1.modThreads x.g.core x.g.slot
          (stayers want x ++ takerLanes want x) (eff x)))
      (stayers want x ++ takerLanes want x) := by
  have ht := takeAll_targets s x.g.core x.g.slot (fun l t => x.onWay l t.toNat) (takers want x)
  unfold transfer
  unfold Iss.targets at h ⊢
  simp only
  rw [show x.ex.filterMap (fun l => (want x l).map (fun t => (l, t))) = takers want x from rfl]
  revert h ht
  generalize s.takeAll x.g.core x.g.slot (fun l t => x.onWay l t.toNat) (takers want x) = r
  obtain ⟨u, r⟩ := r
  intro h ht
  dsimp only at h ht ⊢
  have hw : r.filter (fun e => e.2.2 == .wait) = [] := List.filter_eq_nil_iff.2 (fun e he => by simp [h e he])
  have hz : r.filter (fun e => e.2.2 == .poison) = [] := List.filter_eq_nil_iff.2 (fun e he => by simp [h e he])
  have hn : r.filter (fun e => e.2.2 == .noHeader) = [] := List.filter_eq_nil_iff.2 (fun e he => by simp [h e he])
  rw [filterMap_none r _ (?_ : ∀ e ∈ r, _), filterMap_none r _ (?_ : ∀ e ∈ r, _), filterMap_none r _ (?_ : ∀ e ∈ r, _), hw, hz, hn, filter_all_ok r h]
  rotate_left
  · intro e he; simp [h e he]
  · intro e he; simp [h e he]
  · intro e he; simp [h e he]
  have hl : r.map (·.1) = takerLanes want x := by
    rw [← takers_lanes, ← ht]; simp [Function.comp_def]
  have hf : ∀ v : State, r.foldl (fun s e => s.modThread x.g.core x.g.slot e.1 (fun t => { t with ctl := t.ctl.goto e.2.1 })) v =
      (takers want x).foldl (fun s e => s.modThread x.g.core x.g.slot e.1 (fun t => { t with ctl := t.ctl.goto e.2 })) v := by
    intro v; rw [← ht, List.foldl_map]
  simp only [List.map_nil, List.isEmpty_nil, if_true, Iss.parkTargets, ite_self, List.append_nil, List.foldl_nil, hl, hf]
  rfl

/-- The law of control transfers; `eff` does the same whatever a thread speculates. -/
theorem jumps_transfer {i : Instr} {want : Iss → Nat → Option DWord} {eff : Iss → Nat → Thread → Thread}
    (hx : ∀ s, exec i s = issue i (transfer want eff) s)
    (hv : ∀ x l t v, t.plainly = v.plainly → (eff x l t).plainly = (eff x l v).plainly) : Jumps i want eff := by
  intro s x hr ht
  have hl := ready_nodup hr
  have he := ready_ex_nodup hr
  have hs := ready_sub hr
  have hq : Alike (x.moved s) (x.targets (x.moved s) (takers want x)).1 := alike_takeAll (x.moved s) x.g.core x.g.slot _ (takers want x)
  refine ⟨_, (hx s).trans (issue_go _ hr), ?_⟩
  rw [show s.advance x.g x.words = x.moved s from rfl, transfer_ok want eff x _ ht]
  generalize x.targets (x.moved s) (takers want x) = r at hq
  obtain ⟨u, r⟩ := r
  dsimp only at hq ⊢
  -- the executing lanes alone change from `u` on
  have e1 : OnlyThreads u (u.modThreads x.g.core x.g.slot (stayers want x ++ takerLanes want x) (eff x))
      x.g.core x.g.slot x.ex :=
    (onlyThreads_modThreads _ _ _ _ _ (movers_nodup he)).mono (fun l hm => mem_movers.1 hm)
  have e1t := fun l => thread_modThreads u x.g.core x.g.slot (stayers want x ++ takerLanes want x) (eff x) l (movers_nodup he)
  generalize u.modThreads x.g.core x.g.slot (stayers want x ++ takerLanes want x) (eff x) = v at e1 e1t
  have hn : ((takers want x).map (·.1)).Nodup := by rw [takers_lanes]; exact he.filter _
  have k := fold_modThread (takers want x) (fun d t => { t with ctl := t.ctl.goto d }) v x.g.core x.g.slot hn
  generalize (takers want x).foldl (fun u e => u.modThread x.g.core x.g.slot e.1 (fun t => { t with ctl := t.ctl.goto e.2 })) v = w at k
  have e2 : OnlyThreads v w x.g.core x.g.slot x.ex := k.1.mono (fun l hm => by
    rw [takers_lanes] at hm; exact List.mem_of_mem_filter hm)
  have hfin : x.finish (.done w (stayers want x ++ takerLanes want x)) = x.keep w x.ex := by
    have hb : x.ex.filter (fun l => !(stayers want x ++ takerLanes want x).contains l) = [] :=
      List.filter_eq_nil_iff.2 (fun l hm => by
        have := mem_movers (want := want).2 hm
        simp only [List.contains_iff_mem.2 this, Bool.not_true, Bool.false_eq_true, not_false_eq_true])
    have hk : x.ex.filter (fun l => (stayers want x ++ takerLanes want x).contains l) = x.ex :=
      List.filter_eq_self.2 (fun l hm => List.contains_iff_mem.2 (mem_movers.2 hm))
    simp only [Iss.finish, hb, List.isEmpty_nil, if_true]
    unfold Iss.keep
    cases x.kept with
    | none => rfl
    | some q => simp only [hk, filter_contains_self]
  rw [hfin]
  have e3 := keep_only x w he
  have e : OnlyThreads u (x.keep w x.ex) x.g.core x.g.slot x.ex := (e1.trans e2).trans e3
  have a := stands_around e
  have b := stands_around (advance_only s x.g x.words hl)
  have hu : ∀ c w l, (u.thread c w l).plainly = ((x.moved s).thread c w l).plainly := hq.threads
  refine ⟨e.bytes, ?_, ?_, ?_, ?_⟩
  · intro c w' l hm
    rw [a.1 c w' l (fun h => hm ⟨h.1, h.2.1, hs l h.2.2⟩), hu]
    exact congrArg _ (b.1 c w' l hm)
  · intro c w'
    rw [a.2 c w', hq.tables c w']; exact b.2 c w'
  · intro l hm hne
    rw [e.lanes l hne, hu]
    have := advance_thread s x.g x.words hl l
    rw [if_pos hm] at this
    exact congrArg _ this
  · intro l hm
    rw [keep_thread x w he l, if_pos hm]
    have h1 : (v.thread x.g.core x.g.slot l).plainly = (eff x l (movedOn (s.thread x.g.core x.g.slot l) x.words s.tick)).plainly := by
      rw [e1t l, if_pos (mem_movers.2 hm)]
      refine hv x l _ _ ((hu _ _ _).trans ?_)
      have := advance_thread s x.g x.words hl l
      rw [if_pos (hs l hm)] at this
      exact congrArg _ this
    have h2 : w.thread x.g.core x.g.slot l = (match want x l with
        | some d => { v.thread x.g.core x.g.slot l with ctl := { (v.thread x.g.core x.g.slot l).ctl with pc := d, entry := true } }
        | none => v.thread x.g.core x.g.slot l) := by
      cases hw : want x l with
      | none =>
        refine k.1.lanes l (fun hc => ?_)
        rw [takers_lanes] at hc
        simp [takerLanes, hw] at hc
      | some d =>
        exact k.2 (l, d) (mem_takers.2 ⟨hm, hw⟩)
    rw [h2]
    generalize v.thread x.g.core x.g.slot l = q at h1
    generalize eff x l (movedOn (s.thread x.g.core x.g.slot l) x.words s.tick) = r at h1
    have g : ∀ d, ({ q with ctl := { q.ctl with pc := d, entry := true }, ob := keptOb x l q.ob } : Thread).plainly =
        ({ r with ctl := { r.ctl with pc := d, entry := true }, ob := keptOb x l r.ob } : Thread).plainly := fun d =>
      congrArg (fun (t : Thread) => { t with ctl := { t.ctl with pc := d, entry := true }, ob := keptOb x l t.ob }) h1
    have g' : ({ q with ob := keptOb x l q.ob } : Thread).plainly = ({ r with ob := keptOb x l r.ob } : Thread).plainly :=
      congrArg (fun (t : Thread) => { t with ob := keptOb x l t.ob }) h1
    cases want x l with
    | none => exact g'
    | some d => exact g d

end Sys2Proof.Machine
end

