-- ==== Sys2Proof/Laws/Acts.lean ====
section
/-! SUPPORT. Instructions that act on a unit: how `Does` and `Acts` follow from what the body answers. -/

namespace Sys2Proof.Machine

theorem does_of {i : Instr} {pre : Iss → State → Prop} {eff : Iss → State → State} {body : Iss → State → Act}
    (hx : ∀ s, exec i s = issue i body s) (h : ∀ x u, pre x u → body x u = .done (eff x u) x.ex) : Does i pre eff := by
  intro s x hr hp
  rw [hx s, issue_go _ hr, show s.advance x.g x.words = x.moved s from rfl, h x _ hp, finish_settled]

/-- An effect that leaves weaves and memory alone. -/
theorem acts_still {i : Instr} {pre : Iss → State → Prop} {eff : Iss → State → State} {body : Iss → State → Act}
    (hx : ∀ s, exec i s = issue i body s) (h : ∀ x u, pre x u → body x u = .done (eff x u) x.ex)
    (hs : ∀ x u, pre x u → SameWeaves u (eff x u)) : Acts i pre still eff := by
  intro s x hr hp
  exact ⟨does_of hx h s x hr hp,
    stands_unit (ready_nodup hr) (ready_ex_nodup hr) (ready_sub hr) (hs x _ hp)⟩

/-- Such an effect, and one value for d. -/
theorem acts_gives {i : Instr} {pre : Iss → State → Prop} {eff : Iss → State → State} {v : Iss → State → Nat}
    {body : Iss → State → Act} (hx : ∀ s, exec i s = issue i body s)
    (h : ∀ x u, pre x u → body x u = .done (x.giveAll (eff x u) (v x u)) x.ex)
    (hs : ∀ x u, pre x u → SameWeaves u (eff x u)) : Acts i pre (gives v) (fun x u => x.giveAll (eff x u) (v x u)) := by
  intro s x hr hp
  refine ⟨does_of (eff := fun x u => x.giveAll (eff x u) (v x u)) hx h s x hr hp, ?_⟩
  exact stands_effect (out := gives v x (x.moved s)) _ (ready_nodup hr) (ready_ex_nodup hr) (ready_sub hr) (hs x _ hp)
    (fun l _ t => dest_effect x t _)

/-- Operands that are alike leave no lane that differs. -/
theorem differ_nil {x : Iss} {ops : Iss → Nat → List Nat} (h : x.alike ops) : x.differ (ops x) = [] := by
  obtain ⟨hn, h⟩ := h
  unfold Iss.differ
  cases he : x.ex with
  | nil => rfl
  | cons l t =>
    have hl : x.low = l := by simp [Iss.low, he]
    refine List.filter_eq_nil_iff.2 (fun m hm => ?_)
    have := h m (by rw [he]; exact List.mem_cons_of_mem _ hm)
    rw [hl] at this
    simp [this]

theorem ex_low {x : Iss} (h : x.ex ≠ []) : ∃ t, x.ex = x.low :: t := by
  cases he : x.ex with
  | nil => exact absurd he h
  | cons l t => exact ⟨t, by simp [Iss.low, he]⟩

/-- `uniform` on alike operands. -/
theorem uniform_alike {d : Nat} {ops : Iss → Nat → List Nat} {h : Iss → State → Option Nat → Nat → Act} {x : Iss} (s : State)
    (ha : x.alike ops) : uniform d ops h x s = h x s (s.weave x.g.core x.g.slot).team x.low := by
  obtain ⟨t, he⟩ := ex_low ha.1
  unfold uniform
  rw [he]
  simp only
  rw [differ_nil ha]

/-- `once` on alike operands. -/
theorem once_alike {ops : Iss → Nat → List Nat} {h : Iss → State → Nat → Nat → Act} {x : Iss} {s : State}
    (ha : x.alike ops) (ht : x.teamed s) : once ops h x s = h x s (x.mine s) x.low := by
  obtain ⟨t, he⟩ := ex_low ha.1
  obtain ⟨k, hk⟩ := Option.isSome_iff_exists.1 ht.1
  have hm : x.mine s = k := by simp [Iss.mine, hk]
  unfold once
  rw [hm, he, hk]
  simp only
  rw [differ_nil ha]

end Sys2Proof.Machine
end

