-- ==== Sys2Proof/Laws/Encoding.lean ====
section
/-! SUPPORT. A word is the sum of its fields: unpacking a packed word gives the fields back, and packing the unpacked
fields of a word gives the word. -/

namespace Sys2Proof

theorem field_toNat {n : Nat} (w : DWord) (s : Nat) : (w.extractLsb' s n).toNat = w.toNat / 2 ^ s % 2 ^ n := by
  rw [BitVec.extractLsb'_toNat, Nat.shiftRight_eq_div_pow]

theorem bit_field (w : DWord) (s : Nat) : BitVec.ofBool (w.getLsbD s) = w.extractLsb' s 1 := by
  apply BitVec.eq_of_getLsbD_eq; intro i hi
  obtain rfl : i = 0 := by omega
  cases h : w.getLsbD s <;> simp [h]

theorem fields_join (w : DWord) (t s m n : Nat) (h : t = s + n) :
    w.extractLsb' t m ++ w.extractLsb' s n = w.extractLsb' s (m + n) := by
  apply BitVec.eq_of_getLsbD_eq; intro i hi
  simp only [BitVec.getLsbD_append, BitVec.getLsbD_extractLsb']
  split
  · simp [*]
  · rw [h, show s + n + (i - n) = s + i by omega]
    simp [show i - n < m by omega, hi]

theorem field_low {a b : Nat} (x : BitVec a) (y : BitVec b) (s n : Nat) (h : s + n ≤ b) :
    (x ++ y).extractLsb' s n = y.extractLsb' s n := by
  apply BitVec.eq_of_getLsbD_eq; intro i hi
  simp only [BitVec.getLsbD_extractLsb', BitVec.getLsbD_append, hi, decide_true, Bool.true_and]
  rw [if_pos (by omega)]

theorem field_high {a b : Nat} (x : BitVec a) (y : BitVec b) (s n : Nat) (h : b ≤ s) :
    (x ++ y).extractLsb' s n = x.extractLsb' (s - b) n := by
  apply BitVec.eq_of_getLsbD_eq; intro i hi
  simp only [BitVec.getLsbD_extractLsb', BitVec.getLsbD_append, hi, decide_true, Bool.true_and]
  rw [if_neg (by omega)]; congr 1; omega

theorem bit_low {a b : Nat} (x : BitVec a) (y : BitVec b) (s : Nat) (h : s < b) : (x ++ y).getLsbD s = y.getLsbD s := by
  rw [BitVec.getLsbD_append, if_pos h]

theorem bit_high {a b : Nat} (x : BitVec a) (y : BitVec b) (s : Nat) (h : b ≤ s) :
    (x ++ y).getLsbD s = x.getLsbD (s - b) := by
  rw [BitVec.getLsbD_append, if_neg (by omega)]

theorem bit_ofBool (b : Bool) (s : Nat) (h : s = 0) : (BitVec.ofBool b).getLsbD s = b := by
  subst h; cases b <;> rfl

theorem unpackA_packA (m : BitVec 8) (fn : BitVec 4) (o : AForm) : unpackA (packA m fn o) = o := by
  obtain ⟨pred', psense', d', a', b', c', keep', empC', empB', empA', ty', mod'⟩ := o
  simp only [unpackA, packA, AForm.mk.injEq]
  refine ⟨?_, ?_, ?_, ?_, ?_, ?_, ?_, ?_, ?_, ?_, ?_, ?_⟩
  · (repeat rw [field_high _ _ _ _ (by decide)]); (try rw [field_low _ _ _ _ (by decide)]); simp
  · (repeat rw [bit_high _ _ _ (by decide)]); (try rw [bit_low _ _ _ (by decide)]); exact bit_ofBool _ _ rfl
  · (repeat rw [field_high _ _ _ _ (by decide)]); (try rw [field_low _ _ _ _ (by decide)]); simp
  · (repeat rw [field_high _ _ _ _ (by decide)]); (try rw [field_low _ _ _ _ (by decide)]); simp
  · (repeat rw [field_high _ _ _ _ (by decide)]); (try rw [field_low _ _ _ _ (by decide)]); simp
  · (repeat rw [field_high _ _ _ _ (by decide)]); (try rw [field_low _ _ _ _ (by decide)]); simp
  · (repeat rw [field_high _ _ _ _ (by decide)]); (try rw [field_low _ _ _ _ (by decide)]); simp
  · (repeat rw [bit_high _ _ _ (by decide)]); (try rw [bit_low _ _ _ (by decide)]); exact bit_ofBool _ _ rfl
  · (repeat rw [bit_high _ _ _ (by decide)]); (try rw [bit_low _ _ _ (by decide)]); exact bit_ofBool _ _ rfl
  · (repeat rw [bit_high _ _ _ (by decide)]); (try rw [bit_low _ _ _ (by decide)]); exact bit_ofBool _ _ rfl
  · (repeat rw [field_high _ _ _ _ (by decide)]); (try rw [field_low _ _ _ _ (by decide)]); simp
  · (repeat rw [field_high _ _ _ _ (by decide)]); (try rw [field_low _ _ _ _ (by decide)]); simp

theorem packA_parts (m : BitVec 8) (fn : BitVec 4) (o : AForm) : (packA m fn o).extractLsb' 56 8 = m ∧ (packA m fn o).extractLsb' 12 4 = fn := by
  refine ⟨?_, ?_⟩
  · unfold packA; (repeat rw [field_high _ _ _ _ (by decide)]); (try rw [field_low _ _ _ _ (by decide)]); simp
  · unfold packA; (repeat rw [field_high _ _ _ _ (by decide)]); (try rw [field_low _ _ _ _ (by decide)]); simp

theorem packA_unpackA (w : DWord) : packA (w.extractLsb' 56 8) (w.extractLsb' 12 4) (unpackA w) = w := by
  simp only [packA, unpackA, bit_field]
  repeat rw [fields_join _ _ _ _ _ (by decide)]
  simp

theorem unpackI_packI (m : BitVec 8) (o : IForm) : unpackI (packI m o) = o := by
  obtain ⟨pred', psense', d', a', b', imm', empB', empA', ty', mod'⟩ := o
  simp only [unpackI, packI, IForm.mk.injEq]
  refine ⟨?_, ?_, ?_, ?_, ?_, ?_, ?_, ?_, ?_, ?_⟩
  · (repeat rw [field_high _ _ _ _ (by decide)]); (try rw [field_low _ _ _ _ (by decide)]); simp
  · (repeat rw [bit_high _ _ _ (by decide)]); (try rw [bit_low _ _ _ (by decide)]); exact bit_ofBool _ _ rfl
  · (repeat rw [field_high _ _ _ _ (by decide)]); (try rw [field_low _ _ _ _ (by decide)]); simp
  · (repeat rw [field_high _ _ _ _ (by decide)]); (try rw [field_low _ _ _ _ (by decide)]); simp
  · (repeat rw [field_high _ _ _ _ (by decide)]); (try rw [field_low _ _ _ _ (by decide)]); simp
  · (repeat rw [field_high _ _ _ _ (by decide)]); (try rw [field_low _ _ _ _ (by decide)]); simp
  · (repeat rw [bit_high _ _ _ (by decide)]); (try rw [bit_low _ _ _ (by decide)]); exact bit_ofBool _ _ rfl
  · (repeat rw [bit_high _ _ _ (by decide)]); (try rw [bit_low _ _ _ (by decide)]); exact bit_ofBool _ _ rfl
  · (repeat rw [field_high _ _ _ _ (by decide)]); (try rw [field_low _ _ _ _ (by decide)]); simp
  · (repeat rw [field_high _ _ _ _ (by decide)]); (try rw [field_low _ _ _ _ (by decide)]); simp

theorem packI_parts (m : BitVec 8) (o : IForm) : (packI m o).extractLsb' 56 8 = m := by
  unfold packI; (repeat rw [field_high _ _ _ _ (by decide)]); (try rw [field_low _ _ _ _ (by decide)]); simp

theorem packI_unpackI (w : DWord) : packI (w.extractLsb' 56 8) (unpackI w) = w := by
  simp only [packI, unpackI, bit_field]
  repeat rw [fields_join _ _ _ _ _ (by decide)]
  simp

theorem unpackL_packL (m : BitVec 8) (fn : BitVec 4) (o : LForm) : unpackL (packL m fn o) o.imm = o := by
  obtain ⟨pred', psense', d', a', keepA', empA', ty', mod', imm'⟩ := o
  simp only [unpackL, packL, LForm.mk.injEq]
  refine ⟨?_, ?_, ?_, ?_, ?_, ?_, ?_, ?_, trivial⟩
  · (repeat rw [field_high _ _ _ _ (by decide)]); (try rw [field_low _ _ _ _ (by decide)]); simp
  · (repeat rw [bit_high _ _ _ (by decide)]); (try rw [bit_low _ _ _ (by decide)]); exact bit_ofBool _ _ rfl
  · (repeat rw [field_high _ _ _ _ (by decide)]); (try rw [field_low _ _ _ _ (by decide)]); simp
  · (repeat rw [field_high _ _ _ _ (by decide)]); (try rw [field_low _ _ _ _ (by decide)]); simp
  · (repeat rw [bit_high _ _ _ (by decide)]); (try rw [bit_low _ _ _ (by decide)]); exact bit_ofBool _ _ rfl
  · (repeat rw [bit_high _ _ _ (by decide)]); (try rw [bit_low _ _ _ (by decide)]); exact bit_ofBool _ _ rfl
  · (repeat rw [field_high _ _ _ _ (by decide)]); (try rw [field_low _ _ _ _ (by decide)]); simp
  · (repeat rw [field_high _ _ _ _ (by decide)]); (try rw [field_low _ _ _ _ (by decide)]); simp

theorem packL_parts (m : BitVec 8) (fn : BitVec 4) (o : LForm) : (packL m fn o).extractLsb' 56 8 = m ∧ (packL m fn o).extractLsb' 12 4 = fn ∧ spareClear .L (packL m fn o) = true := by
  refine ⟨?_, ?_, ?_⟩
  · unfold packL; (repeat rw [field_high _ _ _ _ (by decide)]); (try rw [field_low _ _ _ _ (by decide)]); simp
  · unfold packL; (repeat rw [field_high _ _ _ _ (by decide)]); (try rw [field_low _ _ _ _ (by decide)]); simp
  · have e0 : (packL m fn o).extractLsb' 16 18 = 0 := by unfold packL; (repeat rw [field_high _ _ _ _ (by decide)]); (try rw [field_low _ _ _ _ (by decide)]); rfl
    have e1 : (packL m fn o).extractLsb' 8 2 = 0 := by unfold packL; (repeat rw [field_high _ _ _ _ (by decide)]); (try rw [field_low _ _ _ _ (by decide)]); rfl
    have e9 : (packL m fn o).getLsbD 11 = false := by unfold packL; (repeat rw [bit_high _ _ _ (by decide)]); (try rw [bit_low _ _ _ (by decide)]); rfl
    simp only [spareClear, e0, e1, e9, beq_self_eq_true, Bool.not_false, Bool.and_self]

theorem packL_unpackL (w v : DWord) (h : spareClear .L w = true) : packL (w.extractLsb' 56 8) (w.extractLsb' 12 4) (unpackL w v) = w := by
  simp only [spareClear, Bool.and_eq_true, beq_iff_eq, Bool.not_eq_true'] at h
  have e1 : (0#18 : BitVec 18) = w.extractLsb' 16 18 := h.1.1.symm
  have e2 : (0#2 : BitVec 2) = w.extractLsb' 8 2 := h.2.symm
  have e3 : (0#1 : BitVec 1) = w.extractLsb' 11 1 := by rw [← bit_field, h.1.2]; rfl
  simp only [packL, unpackL, e1, e2, e3, bit_field]
  repeat rw [fields_join _ _ _ _ _ (by decide)]
  simp

theorem unpackM_packM (m : BitVec 8) (o : MForm) : unpackM (packM m o) = o := by
  obtain ⟨pred', psense', d', a', b', disp', keep', empC', empB', empA', ty', mod'⟩ := o
  simp only [unpackM, packM, MForm.mk.injEq]
  refine ⟨?_, ?_, ?_, ?_, ?_, ?_, ?_, ?_, ?_, ?_, ?_, ?_⟩
  · (repeat rw [field_high _ _ _ _ (by decide)]); (try rw [field_low _ _ _ _ (by decide)]); simp
  · (repeat rw [bit_high _ _ _ (by decide)]); (try rw [bit_low _ _ _ (by decide)]); exact bit_ofBool _ _ rfl
  · (repeat rw [field_high _ _ _ _ (by decide)]); (try rw [field_low _ _ _ _ (by decide)]); simp
  · (repeat rw [field_high _ _ _ _ (by decide)]); (try rw [field_low _ _ _ _ (by decide)]); simp
  · (repeat rw [field_high _ _ _ _ (by decide)]); (try rw [field_low _ _ _ _ (by decide)]); simp
  · (repeat rw [field_high _ _ _ _ (by decide)]); (try rw [field_low _ _ _ _ (by decide)]); simp
  · (repeat rw [field_high _ _ _ _ (by decide)]); (try rw [field_low _ _ _ _ (by decide)]); simp
  · (repeat rw [bit_high _ _ _ (by decide)]); (try rw [bit_low _ _ _ (by decide)]); exact bit_ofBool _ _ rfl
  · (repeat rw [bit_high _ _ _ (by decide)]); (try rw [bit_low _ _ _ (by decide)]); exact bit_ofBool _ _ rfl
  · (repeat rw [bit_high _ _ _ (by decide)]); (try rw [bit_low _ _ _ (by decide)]); exact bit_ofBool _ _ rfl
  · (repeat rw [field_high _ _ _ _ (by decide)]); (try rw [field_low _ _ _ _ (by decide)]); simp
  · (repeat rw [field_high _ _ _ _ (by decide)]); (try rw [field_low _ _ _ _ (by decide)]); simp

theorem packM_parts (m : BitVec 8) (o : MForm) : (packM m o).extractLsb' 56 8 = m := by
  unfold packM; (repeat rw [field_high _ _ _ _ (by decide)]); (try rw [field_low _ _ _ _ (by decide)]); simp

theorem packM_unpackM (w : DWord) : packM (w.extractLsb' 56 8) (unpackM w) = w := by
  simp only [packM, unpackM, bit_field]
  repeat rw [fields_join _ _ _ _ _ (by decide)]
  simp

theorem unpackB_packB (m : BitVec 8) (fn : BitVec 4) (o : BForm) : unpackB (packB m fn o) = o := by
  obtain ⟨pred', psense', d', off'⟩ := o
  simp only [unpackB, packB, BForm.mk.injEq]
  refine ⟨?_, ?_, ?_, ?_⟩
  · (repeat rw [field_high _ _ _ _ (by decide)]); (try rw [field_low _ _ _ _ (by decide)]); simp
  · (repeat rw [bit_high _ _ _ (by decide)]); (try rw [bit_low _ _ _ (by decide)]); exact bit_ofBool _ _ rfl
  · (repeat rw [field_high _ _ _ _ (by decide)]); (try rw [field_low _ _ _ _ (by decide)]); simp
  · (repeat rw [field_high _ _ _ _ (by decide)]); (try rw [field_low _ _ _ _ (by decide)]); simp

theorem packB_parts (m : BitVec 8) (fn : BitVec 4) (o : BForm) : (packB m fn o).extractLsb' 56 8 = m ∧ (packB m fn o).extractLsb' 12 4 = fn ∧ spareClear .B (packB m fn o) = true := by
  refine ⟨?_, ?_, ?_⟩
  · unfold packB; (repeat rw [field_high _ _ _ _ (by decide)]); (try rw [field_low _ _ _ _ (by decide)]); simp
  · unfold packB; (repeat rw [field_high _ _ _ _ (by decide)]); (try rw [field_low _ _ _ _ (by decide)]); simp
  · have e0 : (packB m fn o).extractLsb' 16 2 = 0 := by unfold packB; (repeat rw [field_high _ _ _ _ (by decide)]); (try rw [field_low _ _ _ _ (by decide)]); rfl
    have e1 : (packB m fn o).extractLsb' 0 12 = 0 := by unfold packB; (repeat rw [field_high _ _ _ _ (by decide)]); (try rw [field_low _ _ _ _ (by decide)]); rfl
    simp only [spareClear, e0, e1, beq_self_eq_true, Bool.not_false, Bool.and_self]

theorem packB_unpackB (w : DWord) (h : spareClear .B w = true) : packB (w.extractLsb' 56 8) (w.extractLsb' 12 4) (unpackB w) = w := by
  simp only [spareClear, Bool.and_eq_true, beq_iff_eq] at h
  have e1 : (0#2 : BitVec 2) = w.extractLsb' 16 2 := h.1.symm
  have e2 : (0#12 : BitVec 12) = w.extractLsb' 0 12 := h.2.symm
  simp only [packB, unpackB, e1, e2, bit_field]
  repeat rw [fields_join _ _ _ _ _ (by decide)]
  simp

theorem unpackX_packX (m : BitVec 8) (fn : BitVec 4) (o : XForm) : unpackX (packX m fn o) = o := by
  obtain ⟨pred', psense', d', a', b', ts', cc', cce', ty', mod'⟩ := o
  simp only [unpackX, packX, XForm.mk.injEq]
  refine ⟨?_, ?_, ?_, ?_, ?_, ?_, ?_, ?_, ?_, ?_⟩
  · (repeat rw [field_high _ _ _ _ (by decide)]); (try rw [field_low _ _ _ _ (by decide)]); simp
  · (repeat rw [bit_high _ _ _ (by decide)]); (try rw [bit_low _ _ _ (by decide)]); exact bit_ofBool _ _ rfl
  · (repeat rw [field_high _ _ _ _ (by decide)]); (try rw [field_low _ _ _ _ (by decide)]); simp
  · (repeat rw [field_high _ _ _ _ (by decide)]); (try rw [field_low _ _ _ _ (by decide)]); simp
  · (repeat rw [field_high _ _ _ _ (by decide)]); (try rw [field_low _ _ _ _ (by decide)]); simp
  · (repeat rw [field_high _ _ _ _ (by decide)]); (try rw [field_low _ _ _ _ (by decide)]); simp
  · (repeat rw [field_high _ _ _ _ (by decide)]); (try rw [field_low _ _ _ _ (by decide)]); simp
  · (repeat rw [bit_high _ _ _ (by decide)]); (try rw [bit_low _ _ _ (by decide)]); exact bit_ofBool _ _ rfl
  · (repeat rw [field_high _ _ _ _ (by decide)]); (try rw [field_low _ _ _ _ (by decide)]); simp
  · (repeat rw [field_high _ _ _ _ (by decide)]); (try rw [field_low _ _ _ _ (by decide)]); simp

theorem packX_parts (m : BitVec 8) (fn : BitVec 4) (o : XForm) : (packX m fn o).extractLsb' 56 8 = m ∧ (packX m fn o).extractLsb' 12 4 = fn ∧ spareClear .X (packX m fn o) = true := by
  refine ⟨?_, ?_, ?_⟩
  · unfold packX; (repeat rw [field_high _ _ _ _ (by decide)]); (try rw [field_low _ _ _ _ (by decide)]); simp
  · unfold packX; (repeat rw [field_high _ _ _ _ (by decide)]); (try rw [field_low _ _ _ _ (by decide)]); simp
  · have e0 : (packX m fn o).extractLsb' 16 3 = 0 := by unfold packX; (repeat rw [field_high _ _ _ _ (by decide)]); (try rw [field_low _ _ _ _ (by decide)]); rfl
    simp only [spareClear, e0, beq_self_eq_true, Bool.not_false, Bool.and_self]

theorem packX_unpackX (w : DWord) (h : spareClear .X w = true) : packX (w.extractLsb' 56 8) (w.extractLsb' 12 4) (unpackX w) = w := by
  simp only [spareClear, beq_iff_eq] at h
  have e1 : (0#3 : BitVec 3) = w.extractLsb' 16 3 := h.symm
  simp only [packX, unpackX, e1, bit_field]
  repeat rw [fields_join _ _ _ _ _ (by decide)]
  simp

end Sys2Proof
end

