-- ==== Sys2Proof/Laws/Memory.lean ====
section
/-! SUPPORT. Every operation on memory keeps its canonical form, and the memory after reset has it. -/

namespace Sys2Proof.Machine

theorem Memory.wf_reset : Memory.wf State.reset.mem = true := rfl

theorem Memory.wf_put {m : List Host.Cell} (pa : Nat) (b : Byte) (h : Memory.wf m = true) :
    Memory.wf (tabPut 0 pa b m) = true := tabWf_put 0 pa b m h

/-- Writes at addresses and of values that each entry of a list gives. -/
theorem Memory.wf_puts {α : Type} (ka : α → Nat) (va : α → Byte) (es : List α) :
    ∀ m : List Host.Cell, Memory.wf m = true → Memory.wf (es.foldl (fun m e => tabPut 0 (ka e) (va e) m) m) = true := by
  induction es with
  | nil => exact fun m h => h
  | cons e t ih => exact fun m h => ih _ (Memory.wf_put (ka e) (va e) h)

/-- A fold of operations that keep the form keeps it. -/
theorem foldl_wf {α : Type} (f : State → α → State) (hf : ∀ s a, Memory.wf s.mem = true → Memory.wf (f s a).mem = true)
    (l : List α) : ∀ s : State, Memory.wf s.mem = true → Memory.wf (l.foldl f s).mem = true := by
  induction l with
  | nil => exact fun s h => h
  | cons a t ih => exact fun s h => ih _ (hf s a h)

theorem lcFlush_wf (s : State) (c : CacheLine) (h : Memory.wf s.mem = true) : Memory.wf (s.lcFlush c).mem = true := by
  have step : ∀ l : List Nat, ∀ m : List Host.Cell, Memory.wf m = true → Memory.wf (l.foldl (fun m i =>
      ((tabFind (c.line * 128 + i) c.dirty).map (fun b => tabPut 0 (c.line * 128 + i) b m)).getD m) m) = true := by
    intro l
    induction l with
    | nil => exact fun m h => h
    | cons i t ih =>
      intro m h
      refine ih _ ?_
      dsimp only
      cases tabFind (c.line * 128 + i) c.dirty with
      | none => exact h
      | some b => exact Memory.wf_put _ b h
  unfold State.lcFlush
  exact step (List.range 128) s.mem h

theorem lcEnter_wf (s : State) (n : Nat) (h : Memory.wf s.mem = true) : Memory.wf (s.lcEnter n).mem = true := by
  unfold State.lcEnter
  split
  · exact h
  · dsimp only
    split
    · split
      · exact lcFlush_wf s _ h
      · exact h
    · exact h

theorem lcBring_wf (s : State) (pa : Nat) (h : Memory.wf s.mem = true) : Memory.wf (s.lcBring pa).mem = true := by
  unfold State.lcBring
  split
  · exact h
  · dsimp only
    split
    · exact lcEnter_wf _ _ h
    · exact h

theorem setByte_wf (s : State) (pa : Nat) (b : Byte) (h : Memory.wf s.mem = true) :
    Memory.wf (s.setByte pa b).mem = true := by
  unfold State.setByte
  dsimp only
  split
  · exact lcBring_wf s _ h
  · exact Memory.wf_put pa b (lcBring_wf s pa h)

theorem poke_wf (s : State) (pa n v : Nat) (h : Memory.wf s.mem = true) : Memory.wf (s.poke pa n v).mem = true :=
  Memory.wf_puts (fun e : Byte × Nat => pa + e.2) (fun e => e.1) _ s.mem h

@[simp] theorem modTeam_mem (s : State) (t : Nat) (g : Team → Team) : (s.modTeam t g).mem = s.mem := by
  unfold State.modTeam
  split <;> rfl

@[simp] theorem fillLine_mem (s : State) (t o : Nat) : (s.fillLine t o).mem = s.mem := by
  unfold State.fillLine
  split
  · rfl
  · dsimp only
    split
    · rfl
    · exact modTeam_mem _ _ _

theorem touch_wf (s : State) (l : Loc) (h : Memory.wf s.mem = true) : Memory.wf (s.touch l).mem = true := by
  cases l with
  | mem pa => exact lcBring_wf s pa h
  | spad t o => rw [show (s.touch (.spad t o)).mem = s.mem from fillLine_mem s t o]; exact h

theorem putByte_wf (s : State) (l : Loc) (b : Byte) (h : Memory.wf s.mem = true) : Memory.wf (s.putByte l b).mem = true := by
  cases l with
  | mem pa => exact setByte_wf s pa b h
  | spad t o => unfold State.putByte; rw [modTeam_mem]; exact h

theorem putBytes_wf (s : State) (l : Loc) (bs : List Byte) (h : Memory.wf s.mem = true) :
    Memory.wf (s.putBytes l bs).mem = true :=
  foldl_wf _ (fun s e h => putByte_wf s (l.add e.2) e.1 h) _ s h

theorem writeAt_wf (s : State) (bs : List (Loc × Byte)) (h : Memory.wf s.mem = true) : Memory.wf (s.writeAt bs).mem = true := by
  have hb := foldl_wf (fun (s : State) (b : Loc × Byte) => (s.touch b.1).putByte b.1 b.2)
    (fun s b h => putByte_wf _ b.1 b.2 (touch_wf s b.1 h)) bs s h
  exact hb

theorem writePhys_wf (s : State) (pa n v : Nat) (h : Memory.wf s.mem = true) : Memory.wf (s.writePhys pa n v).mem = true :=
  writeAt_wf s _ h

theorem spadWriteLines_wf (s : State) (t e : Nat) (sel : Nat → Bool) (h : Memory.wf s.mem = true) :
    Memory.wf (s.spadWriteLines t e sel).mem = true := by
  unfold State.spadWriteLines
  split
  · exact h
  · dsimp only
    rw [modTeam_mem]
    refine foldl_wf _ (fun s n h => foldl_wf _ (fun s i h => ?_) _ s h) _ _
      (foldl_wf _ (fun s n h => foldl_wf _ (fun s i h => ?_) _ s h) _ s h)
    · split
      · split <;> exact h
      · exact h
    · split
      · exact setByte_wf _ _ _ h
      · exact h

end Sys2Proof.Machine
end

