-- ==== Sys2Proof/Laws/PerInstr.lean ====
section
/-! SUPPORT. For every instruction, as syntax: decoding its encoding gives it back. -/

namespace Sys2Proof.Laws

/-- Where the instruction has words and is well-formed, its words decode to it. -/
def Encoding.Statement (i : Instr) : Prop :=
  ∀ w, encodeWord i = some w → i.WellFormed → decodeWord w ((immWord i).getD 0) = .ok i

theorem decodeWord_of {w v : DWord} {k : FormKind} {i : Instr} (hk : isHeader w = false) (hm : majorForm (majorOf w) = some k)
    (hs : selectInstr (majorOf w) (fnOf w) w v = some i) (hp : spareClear k w = true) (hw : i.WellFormed) :
    decodeWord w v = .ok i := by
  simp only [Instr.WellFormed, Instr.wellFormed, Bool.and_eq_true] at hw
  simp [decodeWord, hk, hm, hs, hp, hw.1, hw.2]

theorem isHeader_of {w : DWord} {m : BitVec 8} (h : w.extractLsb' 56 8 = m) (hm : m.toNat / 4 ≠ 62) : isHeader w = false := by
  have e := congrArg BitVec.toNat h
  rw [field_toNat] at e
  simp only [isHeader, beq_eq_false_iff_ne, ne_eq]
  intro hh
  have e2 := congrArg BitVec.toNat hh
  rw [field_toNat] at e2
  simp at e2
  omega

theorem encodesA (m : BitVec 8) (fn : BitVec 4) (f : AForm → Instr) (o : AForm) (he : encodeWord (f o) = some (packA m fn o)) (hi : immWord (f o) = none) (hm : majorForm m.toNat = some .A) (hh : m.toNat / 4 ≠ 62)
    (hs : ∀ w, selectInstr m.toNat fn.toNat w 0 = some (f (unpackA w))) :
    Encoding.Statement (f o) := by
  intro w hw hwf
  obtain rfl : packA m fn o = w := Option.some.inj (he.symm.trans hw)
  obtain ⟨hp, hf⟩ := packA_parts m fn o
  rw [hi]
  have hj : majorOf (packA m fn o) = m.toNat := congrArg BitVec.toNat hp
  have hn : fnOf (packA m fn o) = fn.toNat := congrArg BitVec.toNat hf
  refine decodeWord_of (k := .A) (isHeader_of hp hh) (by rw [hj]; exact hm) ?_ rfl hwf
  have e := hs (packA m fn o)
  rw [unpackA_packA] at e
  rw [hj, hn]; exact e

theorem encodesI (m : BitVec 8) (f : IForm → Instr) (o : IForm) (he : encodeWord (f o) = some (packI m o)) (hi : immWord (f o) = none) (hm : majorForm m.toNat = some .I) (hh : m.toNat / 4 ≠ 62)
    (hs : ∀ w, selectInstr m.toNat (fnOf w) w 0 = some (f (unpackI w))) :
    Encoding.Statement (f o) := by
  intro w hw hwf
  obtain rfl : packI m o = w := Option.some.inj (he.symm.trans hw)
  obtain hp := packI_parts m o
  rw [hi]
  have hj : majorOf (packI m o) = m.toNat := congrArg BitVec.toNat hp
  refine decodeWord_of (k := .I) (isHeader_of hp hh) (by rw [hj]; exact hm) ?_ rfl hwf
  have e := hs (packI m o)
  rw [unpackI_packI] at e
  rw [hj]; exact e

theorem encodesL (m : BitVec 8) (fn : BitVec 4) (f : LForm → Instr) (o : LForm) (he : encodeWord (f o) = some (packL m fn o)) (hi : immWord (f o) = some o.imm) (hm : majorForm m.toNat = some .L) (hh : m.toNat / 4 ≠ 62)
    (hs : ∀ w, selectInstr m.toNat fn.toNat w o.imm = some (f (unpackL w o.imm))) :
    Encoding.Statement (f o) := by
  intro w hw hwf
  obtain rfl : packL m fn o = w := Option.some.inj (he.symm.trans hw)
  obtain ⟨hp, hf, hc⟩ := packL_parts m fn o
  rw [hi]
  have hj : majorOf (packL m fn o) = m.toNat := congrArg BitVec.toNat hp
  have hn : fnOf (packL m fn o) = fn.toNat := congrArg BitVec.toNat hf
  refine decodeWord_of (k := .L) (isHeader_of hp hh) (by rw [hj]; exact hm) ?_ hc hwf
  have e := hs (packL m fn o)
  rw [unpackL_packL] at e
  rw [hj, hn]; exact e

theorem encodesM (m : BitVec 8) (f : MForm → Instr) (o : MForm) (he : encodeWord (f o) = some (packM m o)) (hi : immWord (f o) = none) (hm : majorForm m.toNat = some .M) (hh : m.toNat / 4 ≠ 62)
    (hs : ∀ w, selectInstr m.toNat (fnOf w) w 0 = some (f (unpackM w))) :
    Encoding.Statement (f o) := by
  intro w hw hwf
  obtain rfl : packM m o = w := Option.some.inj (he.symm.trans hw)
  obtain hp := packM_parts m o
  rw [hi]
  have hj : majorOf (packM m o) = m.toNat := congrArg BitVec.toNat hp
  refine decodeWord_of (k := .M) (isHeader_of hp hh) (by rw [hj]; exact hm) ?_ rfl hwf
  have e := hs (packM m o)
  rw [unpackM_packM] at e
  rw [hj]; exact e

theorem encodesB (m : BitVec 8) (fn : BitVec 4) (f : BForm → Instr) (o : BForm) (he : encodeWord (f o) = some (packB m fn o)) (hi : immWord (f o) = none) (hm : majorForm m.toNat = some .B) (hh : m.toNat / 4 ≠ 62)
    (hs : ∀ w, selectInstr m.toNat fn.toNat w 0 = some (f (unpackB w))) :
    Encoding.Statement (f o) := by
  intro w hw hwf
  obtain rfl : packB m fn o = w := Option.some.inj (he.symm.trans hw)
  obtain ⟨hp, hf, hc⟩ := packB_parts m fn o
  rw [hi]
  have hj : majorOf (packB m fn o) = m.toNat := congrArg BitVec.toNat hp
  have hn : fnOf (packB m fn o) = fn.toNat := congrArg BitVec.toNat hf
  refine decodeWord_of (k := .B) (isHeader_of hp hh) (by rw [hj]; exact hm) ?_ hc hwf
  have e := hs (packB m fn o)
  rw [unpackB_packB] at e
  rw [hj, hn]; exact e

theorem encodesX (m : BitVec 8) (fn : BitVec 4) (f : XForm → Instr) (o : XForm) (he : encodeWord (f o) = some (packX m fn o)) (hi : immWord (f o) = none) (hm : majorForm m.toNat = some .X) (hh : m.toNat / 4 ≠ 62)
    (hs : ∀ w, selectInstr m.toNat fn.toNat w 0 = some (f (unpackX w))) :
    Encoding.Statement (f o) := by
  intro w hw hwf
  obtain rfl : packX m fn o = w := Option.some.inj (he.symm.trans hw)
  obtain ⟨hp, hf, hc⟩ := packX_parts m fn o
  rw [hi]
  have hj : majorOf (packX m fn o) = m.toNat := congrArg BitVec.toNat hp
  have hn : fnOf (packX m fn o) = fn.toNat := congrArg BitVec.toNat hf
  refine decodeWord_of (k := .X) (isHeader_of hp hh) (by rw [hj]; exact hm) ?_ hc hwf
  have e := hs (packX m fn o)
  rw [unpackX_packX] at e
  rw [hj, hn]; exact e

theorem encodesNone (i : Instr) (h : encodeWord i = none) : Encoding.Statement i := by
  intro w hw; rw [h] at hw; cases hw

end Sys2Proof.Laws

theorem Sys2Proof.Laws.Encoding.br (o : Sys2Proof.BForm) : Sys2Proof.Laws.Encoding.Statement (.br o) :=
  Sys2Proof.Laws.encodesB 0x00 0 .br o rfl rfl rfl (by decide) (fun _ => rfl)
theorem Sys2Proof.Laws.Encoding.call (o : Sys2Proof.BForm) : Sys2Proof.Laws.Encoding.Statement (.call o) :=
  Sys2Proof.Laws.encodesB 0x01 0 .call o rfl rfl rfl (by decide) (fun _ => rfl)
theorem Sys2Proof.Laws.Encoding.dbnz (o : Sys2Proof.BForm) : Sys2Proof.Laws.Encoding.Statement (.dbnz o) :=
  Sys2Proof.Laws.encodesB 0x02 0 .dbnz o rfl rfl rfl (by decide) (fun _ => rfl)
theorem Sys2Proof.Laws.Encoding.bz (o : Sys2Proof.BForm) : Sys2Proof.Laws.Encoding.Statement (.bz o) :=
  Sys2Proof.Laws.encodesB 0x03 0 .bz o rfl rfl rfl (by decide) (fun _ => rfl)
theorem Sys2Proof.Laws.Encoding.bnz (o : Sys2Proof.BForm) : Sys2Proof.Laws.Encoding.Statement (.bnz o) :=
  Sys2Proof.Laws.encodesB 0x03 1 .bnz o rfl rfl rfl (by decide) (fun _ => rfl)
theorem Sys2Proof.Laws.Encoding.bfull (o : Sys2Proof.BForm) : Sys2Proof.Laws.Encoding.Statement (.bfull o) :=
  Sys2Proof.Laws.encodesB 0x04 0 .bfull o rfl rfl rfl (by decide) (fun _ => rfl)
theorem Sys2Proof.Laws.Encoding.bempty (o : Sys2Proof.BForm) : Sys2Proof.Laws.Encoding.Statement (.bempty o) :=
  Sys2Proof.Laws.encodesB 0x04 1 .bempty o rfl rfl rfl (by decide) (fun _ => rfl)
theorem Sys2Proof.Laws.Encoding.bpend (o : Sys2Proof.BForm) : Sys2Proof.Laws.Encoding.Statement (.bpend o) :=
  Sys2Proof.Laws.encodesB 0x05 0 .bpend o rfl rfl rfl (by decide) (fun _ => rfl)
theorem Sys2Proof.Laws.Encoding.jmp (o : Sys2Proof.AForm) : Sys2Proof.Laws.Encoding.Statement (.jmp o) :=
  Sys2Proof.Laws.encodesA 0x06 0 .jmp o rfl rfl rfl (by decide) (fun _ => rfl)
theorem Sys2Proof.Laws.Encoding.jcall (o : Sys2Proof.AForm) : Sys2Proof.Laws.Encoding.Statement (.jcall o) :=
  Sys2Proof.Laws.encodesA 0x06 1 .jcall o rfl rfl rfl (by decide) (fun _ => rfl)
theorem Sys2Proof.Laws.Encoding.ret (o : Sys2Proof.AForm) : Sys2Proof.Laws.Encoding.Statement (.ret o) :=
  Sys2Proof.Laws.encodesA 0x06 2 .ret o rfl rfl rfl (by decide) (fun _ => rfl)
theorem Sys2Proof.Laws.Encoding.pand (o : Sys2Proof.AForm) : Sys2Proof.Laws.Encoding.Statement (.pand o) :=
  Sys2Proof.Laws.encodesA 0x07 0 .pand o rfl rfl rfl (by decide) (fun _ => rfl)
theorem Sys2Proof.Laws.Encoding.por (o : Sys2Proof.AForm) : Sys2Proof.Laws.Encoding.Statement (.por o) :=
  Sys2Proof.Laws.encodesA 0x07 1 .por o rfl rfl rfl (by decide) (fun _ => rfl)
theorem Sys2Proof.Laws.Encoding.pxor (o : Sys2Proof.AForm) : Sys2Proof.Laws.Encoding.Statement (.pxor o) :=
  Sys2Proof.Laws.encodesA 0x07 2 .pxor o rfl rfl rfl (by decide) (fun _ => rfl)
theorem Sys2Proof.Laws.Encoding.pandn (o : Sys2Proof.AForm) : Sys2Proof.Laws.Encoding.Statement (.pandn o) :=
  Sys2Proof.Laws.encodesA 0x07 3 .pandn o rfl rfl rfl (by decide) (fun _ => rfl)
theorem Sys2Proof.Laws.Encoding.pset (o : Sys2Proof.AForm) : Sys2Proof.Laws.Encoding.Statement (.pset o) :=
  Sys2Proof.Laws.encodesA 0x08 0 .pset o rfl rfl rfl (by decide) (fun _ => rfl)
theorem Sys2Proof.Laws.Encoding.pget (o : Sys2Proof.AForm) : Sys2Proof.Laws.Encoding.Statement (.pget o) :=
  Sys2Proof.Laws.encodesA 0x08 1 .pget o rfl rfl rfl (by decide) (fun _ => rfl)
theorem Sys2Proof.Laws.Encoding.exit (o : Sys2Proof.AForm) : Sys2Proof.Laws.Encoding.Statement (.exit o) :=
  Sys2Proof.Laws.encodesA 0x09 0 .exit o rfl rfl rfl (by decide) (fun _ => rfl)
theorem Sys2Proof.Laws.Encoding.yield (o : Sys2Proof.AForm) : Sys2Proof.Laws.Encoding.Statement (.yield o) :=
  Sys2Proof.Laws.encodesA 0x0a 0 .yield o rfl rfl rfl (by decide) (fun _ => rfl)
theorem Sys2Proof.Laws.Encoding.nop (o : Sys2Proof.AForm) : Sys2Proof.Laws.Encoding.Statement (.nop o) :=
  Sys2Proof.Laws.encodesA 0x0b 0 .nop o rfl rfl rfl (by decide) (fun _ => rfl)
theorem Sys2Proof.Laws.Encoding.pause (o : Sys2Proof.IForm) : Sys2Proof.Laws.Encoding.Statement (.pause o) :=
  Sys2Proof.Laws.encodesI 0x0c .pause o rfl rfl rfl (by decide) (fun _ => rfl)
theorem Sys2Proof.Laws.Encoding.brk (o : Sys2Proof.IForm) : Sys2Proof.Laws.Encoding.Statement (.brk o) :=
  Sys2Proof.Laws.encodesI 0x0d .brk o rfl rfl rfl (by decide) (fun _ => rfl)
theorem Sys2Proof.Laws.Encoding.add (o : Sys2Proof.AForm) : Sys2Proof.Laws.Encoding.Statement (.add o) :=
  Sys2Proof.Laws.encodesA 0x20 0 .add o rfl rfl rfl (by decide) (fun _ => rfl)
theorem Sys2Proof.Laws.Encoding.sub (o : Sys2Proof.AForm) : Sys2Proof.Laws.Encoding.Statement (.sub o) :=
  Sys2Proof.Laws.encodesA 0x21 0 .sub o rfl rfl rfl (by decide) (fun _ => rfl)
theorem Sys2Proof.Laws.Encoding.addc (o : Sys2Proof.AForm) : Sys2Proof.Laws.Encoding.Statement (.addc o) :=
  Sys2Proof.Laws.encodesA 0x22 0 .addc o rfl rfl rfl (by decide) (fun _ => rfl)
theorem Sys2Proof.Laws.Encoding.subb (o : Sys2Proof.AForm) : Sys2Proof.Laws.Encoding.Statement (.subb o) :=
  Sys2Proof.Laws.encodesA 0x23 0 .subb o rfl rfl rfl (by decide) (fun _ => rfl)
theorem Sys2Proof.Laws.Encoding.min (o : Sys2Proof.AForm) : Sys2Proof.Laws.Encoding.Statement (.min o) :=
  Sys2Proof.Laws.encodesA 0x24 0 .min o rfl rfl rfl (by decide) (fun _ => rfl)
theorem Sys2Proof.Laws.Encoding.max (o : Sys2Proof.AForm) : Sys2Proof.Laws.Encoding.Statement (.max o) :=
  Sys2Proof.Laws.encodesA 0x25 0 .max o rfl rfl rfl (by decide) (fun _ => rfl)
theorem Sys2Proof.Laws.Encoding.abs (o : Sys2Proof.AForm) : Sys2Proof.Laws.Encoding.Statement (.abs o) :=
  Sys2Proof.Laws.encodesA 0x26 0 .abs o rfl rfl rfl (by decide) (fun _ => rfl)
theorem Sys2Proof.Laws.Encoding.mul (o : Sys2Proof.AForm) : Sys2Proof.Laws.Encoding.Statement (.mul o) :=
  Sys2Proof.Laws.encodesA 0x27 0 .mul o rfl rfl rfl (by decide) (fun _ => rfl)
theorem Sys2Proof.Laws.Encoding.mulhi (o : Sys2Proof.AForm) : Sys2Proof.Laws.Encoding.Statement (.mulhi o) :=
  Sys2Proof.Laws.encodesA 0x28 0 .mulhi o rfl rfl rfl (by decide) (fun _ => rfl)
theorem Sys2Proof.Laws.Encoding.mulw (o : Sys2Proof.AForm) : Sys2Proof.Laws.Encoding.Statement (.mulw o) :=
  Sys2Proof.Laws.encodesA 0x29 0 .mulw o rfl rfl rfl (by decide) (fun _ => rfl)
theorem Sys2Proof.Laws.Encoding.mad (o : Sys2Proof.AForm) : Sys2Proof.Laws.Encoding.Statement (.mad o) :=
  Sys2Proof.Laws.encodesA 0x2a 0 .mad o rfl rfl rfl (by decide) (fun _ => rfl)
theorem Sys2Proof.Laws.Encoding.and (o : Sys2Proof.AForm) : Sys2Proof.Laws.Encoding.Statement (.and o) :=
  Sys2Proof.Laws.encodesA 0x2b 0 .and o rfl rfl rfl (by decide) (fun _ => rfl)
theorem Sys2Proof.Laws.Encoding.or (o : Sys2Proof.AForm) : Sys2Proof.Laws.Encoding.Statement (.or o) :=
  Sys2Proof.Laws.encodesA 0x2c 0 .or o rfl rfl rfl (by decide) (fun _ => rfl)
theorem Sys2Proof.Laws.Encoding.xor (o : Sys2Proof.AForm) : Sys2Proof.Laws.Encoding.Statement (.xor o) :=
  Sys2Proof.Laws.encodesA 0x2d 0 .xor o rfl rfl rfl (by decide) (fun _ => rfl)
theorem Sys2Proof.Laws.Encoding.andn (o : Sys2Proof.AForm) : Sys2Proof.Laws.Encoding.Statement (.andn o) :=
  Sys2Proof.Laws.encodesA 0x2e 0 .andn o rfl rfl rfl (by decide) (fun _ => rfl)
theorem Sys2Proof.Laws.Encoding.shl (o : Sys2Proof.AForm) : Sys2Proof.Laws.Encoding.Statement (.shl o) :=
  Sys2Proof.Laws.encodesA 0x2f 0 .shl o rfl rfl rfl (by decide) (fun _ => rfl)
theorem Sys2Proof.Laws.Encoding.shr (o : Sys2Proof.AForm) : Sys2Proof.Laws.Encoding.Statement (.shr o) :=
  Sys2Proof.Laws.encodesA 0x30 0 .shr o rfl rfl rfl (by decide) (fun _ => rfl)
theorem Sys2Proof.Laws.Encoding.sar (o : Sys2Proof.AForm) : Sys2Proof.Laws.Encoding.Statement (.sar o) :=
  Sys2Proof.Laws.encodesA 0x31 0 .sar o rfl rfl rfl (by decide) (fun _ => rfl)
theorem Sys2Proof.Laws.Encoding.ror (o : Sys2Proof.AForm) : Sys2Proof.Laws.Encoding.Statement (.ror o) :=
  Sys2Proof.Laws.encodesA 0x32 0 .ror o rfl rfl rfl (by decide) (fun _ => rfl)
theorem Sys2Proof.Laws.Encoding.fsh (o : Sys2Proof.AForm) : Sys2Proof.Laws.Encoding.Statement (.fsh o) :=
  Sys2Proof.Laws.encodesA 0x33 0 .fsh o rfl rfl rfl (by decide) (fun _ => rfl)
theorem Sys2Proof.Laws.Encoding.bfx (o : Sys2Proof.AForm) : Sys2Proof.Laws.Encoding.Statement (.bfx o) :=
  Sys2Proof.Laws.encodesA 0x34 0 .bfx o rfl rfl rfl (by decide) (fun _ => rfl)
theorem Sys2Proof.Laws.Encoding.bfi (o : Sys2Proof.AForm) : Sys2Proof.Laws.Encoding.Statement (.bfi o) :=
  Sys2Proof.Laws.encodesA 0x35 0 .bfi o rfl rfl rfl (by decide) (fun _ => rfl)
theorem Sys2Proof.Laws.Encoding.popc (o : Sys2Proof.AForm) : Sys2Proof.Laws.Encoding.Statement (.popc o) :=
  Sys2Proof.Laws.encodesA 0x36 0 .popc o rfl rfl rfl (by decide) (fun _ => rfl)
theorem Sys2Proof.Laws.Encoding.clz (o : Sys2Proof.AForm) : Sys2Proof.Laws.Encoding.Statement (.clz o) :=
  Sys2Proof.Laws.encodesA 0x37 0 .clz o rfl rfl rfl (by decide) (fun _ => rfl)
theorem Sys2Proof.Laws.Encoding.addi (o : Sys2Proof.IForm) : Sys2Proof.Laws.Encoding.Statement (.addi o) :=
  Sys2Proof.Laws.encodesI 0x38 .addi o rfl rfl rfl (by decide) (fun _ => rfl)
theorem Sys2Proof.Laws.Encoding.muli (o : Sys2Proof.IForm) : Sys2Proof.Laws.Encoding.Statement (.muli o) :=
  Sys2Proof.Laws.encodesI 0x39 .muli o rfl rfl rfl (by decide) (fun _ => rfl)
theorem Sys2Proof.Laws.Encoding.andi (o : Sys2Proof.IForm) : Sys2Proof.Laws.Encoding.Statement (.andi o) :=
  Sys2Proof.Laws.encodesI 0x3a .andi o rfl rfl rfl (by decide) (fun _ => rfl)
theorem Sys2Proof.Laws.Encoding.ori (o : Sys2Proof.IForm) : Sys2Proof.Laws.Encoding.Statement (.ori o) :=
  Sys2Proof.Laws.encodesI 0x3b .ori o rfl rfl rfl (by decide) (fun _ => rfl)
theorem Sys2Proof.Laws.Encoding.lid (o : Sys2Proof.IForm) : Sys2Proof.Laws.Encoding.Statement (.lid o) :=
  Sys2Proof.Laws.encodesI 0x3c .lid o rfl rfl rfl (by decide) (fun _ => rfl)
theorem Sys2Proof.Laws.Encoding.shli (o : Sys2Proof.IForm) : Sys2Proof.Laws.Encoding.Statement (.shli o) :=
  Sys2Proof.Laws.encodesI 0x3d .shli o rfl rfl rfl (by decide) (fun _ => rfl)
theorem Sys2Proof.Laws.Encoding.shri (o : Sys2Proof.IForm) : Sys2Proof.Laws.Encoding.Statement (.shri o) :=
  Sys2Proof.Laws.encodesI 0x3e .shri o rfl rfl rfl (by decide) (fun _ => rfl)
theorem Sys2Proof.Laws.Encoding.sari (o : Sys2Proof.IForm) : Sys2Proof.Laws.Encoding.Statement (.sari o) :=
  Sys2Proof.Laws.encodesI 0x3f .sari o rfl rfl rfl (by decide) (fun _ => rfl)
theorem Sys2Proof.Laws.Encoding.bfxi (o : Sys2Proof.IForm) : Sys2Proof.Laws.Encoding.Statement (.bfxi o) :=
  Sys2Proof.Laws.encodesI 0x40 .bfxi o rfl rfl rfl (by decide) (fun _ => rfl)
theorem Sys2Proof.Laws.Encoding.cmpi (o : Sys2Proof.IForm) : Sys2Proof.Laws.Encoding.Statement (.cmpi o) :=
  Sys2Proof.Laws.encodesI 0x41 .cmpi o rfl rfl rfl (by decide) (fun _ => rfl)
theorem Sys2Proof.Laws.Encoding.lea (o : Sys2Proof.IForm) : Sys2Proof.Laws.Encoding.Statement (.lea o) :=
  Sys2Proof.Laws.encodesI 0x42 .lea o rfl rfl rfl (by decide) (fun _ => rfl)
theorem Sys2Proof.Laws.Encoding.shup (o : Sys2Proof.IForm) : Sys2Proof.Laws.Encoding.Statement (.shup o) :=
  Sys2Proof.Laws.encodesI 0x43 .shup o rfl rfl rfl (by decide) (fun _ => rfl)
theorem Sys2Proof.Laws.Encoding.shdn (o : Sys2Proof.IForm) : Sys2Proof.Laws.Encoding.Statement (.shdn o) :=
  Sys2Proof.Laws.encodesI 0x44 .shdn o rfl rfl rfl (by decide) (fun _ => rfl)
theorem Sys2Proof.Laws.Encoding.shxor (o : Sys2Proof.IForm) : Sys2Proof.Laws.Encoding.Statement (.shxor o) :=
  Sys2Proof.Laws.encodesI 0x45 .shxor o rfl rfl rfl (by decide) (fun _ => rfl)
theorem Sys2Proof.Laws.Encoding.cmp (o : Sys2Proof.AForm) : Sys2Proof.Laws.Encoding.Statement (.cmp o) :=
  Sys2Proof.Laws.encodesA 0x46 0 .cmp o rfl rfl rfl (by decide) (fun _ => rfl)
theorem Sys2Proof.Laws.Encoding.sel (o : Sys2Proof.AForm) : Sys2Proof.Laws.Encoding.Statement (.sel o) :=
  Sys2Proof.Laws.encodesA 0x47 0 .sel o rfl rfl rfl (by decide) (fun _ => rfl)
theorem Sys2Proof.Laws.Encoding.shfl (o : Sys2Proof.AForm) : Sys2Proof.Laws.Encoding.Statement (.shfl o) :=
  Sys2Proof.Laws.encodesA 0x48 0 .shfl o rfl rfl rfl (by decide) (fun _ => rfl)
theorem Sys2Proof.Laws.Encoding.vote (o : Sys2Proof.AForm) : Sys2Proof.Laws.Encoding.Statement (.vote o) :=
  Sys2Proof.Laws.encodesA 0x49 0 .vote o rfl rfl rfl (by decide) (fun _ => rfl)
theorem Sys2Proof.Laws.Encoding.ballot (o : Sys2Proof.AForm) : Sys2Proof.Laws.Encoding.Statement (.ballot o) :=
  Sys2Proof.Laws.encodesA 0x4a 0 .ballot o rfl rfl rfl (by decide) (fun _ => rfl)
theorem Sys2Proof.Laws.Encoding.scan (o : Sys2Proof.AForm) : Sys2Proof.Laws.Encoding.Statement (.scan o) :=
  Sys2Proof.Laws.encodesA 0x4b 0 .scan o rfl rfl rfl (by decide) (fun _ => rfl)
theorem Sys2Proof.Laws.Encoding.li (o : Sys2Proof.LForm) : Sys2Proof.Laws.Encoding.Statement (.li o) :=
  Sys2Proof.Laws.encodesL 0x4c 0 .li o rfl rfl rfl (by decide) (fun _ => rfl)
theorem Sys2Proof.Laws.Encoding.lda (o : Sys2Proof.LForm) : Sys2Proof.Laws.Encoding.Statement (.lda o) :=
  Sys2Proof.Laws.encodesL 0x4c 1 .lda o rfl rfl rfl (by decide) (fun _ => rfl)
theorem Sys2Proof.Laws.Encoding.fadd (o : Sys2Proof.AForm) : Sys2Proof.Laws.Encoding.Statement (.fadd o) :=
  Sys2Proof.Laws.encodesA 0x50 0 .fadd o rfl rfl rfl (by decide) (fun _ => rfl)
theorem Sys2Proof.Laws.Encoding.fsub (o : Sys2Proof.AForm) : Sys2Proof.Laws.Encoding.Statement (.fsub o) :=
  Sys2Proof.Laws.encodesA 0x51 0 .fsub o rfl rfl rfl (by decide) (fun _ => rfl)
theorem Sys2Proof.Laws.Encoding.fmul (o : Sys2Proof.AForm) : Sys2Proof.Laws.Encoding.Statement (.fmul o) :=
  Sys2Proof.Laws.encodesA 0x52 0 .fmul o rfl rfl rfl (by decide) (fun _ => rfl)
theorem Sys2Proof.Laws.Encoding.fdiv (o : Sys2Proof.AForm) : Sys2Proof.Laws.Encoding.Statement (.fdiv o) :=
  Sys2Proof.Laws.encodesA 0x53 0 .fdiv o rfl rfl rfl (by decide) (fun _ => rfl)
theorem Sys2Proof.Laws.Encoding.fma (o : Sys2Proof.AForm) : Sys2Proof.Laws.Encoding.Statement (.fma o) :=
  Sys2Proof.Laws.encodesA 0x54 0 .fma o rfl rfl rfl (by decide) (fun _ => rfl)
theorem Sys2Proof.Laws.Encoding.fms (o : Sys2Proof.AForm) : Sys2Proof.Laws.Encoding.Statement (.fms o) :=
  Sys2Proof.Laws.encodesA 0x54 1 .fms o rfl rfl rfl (by decide) (fun _ => rfl)
theorem Sys2Proof.Laws.Encoding.fsqrt (o : Sys2Proof.AForm) : Sys2Proof.Laws.Encoding.Statement (.fsqrt o) :=
  Sys2Proof.Laws.encodesA 0x55 0 .fsqrt o rfl rfl rfl (by decide) (fun _ => rfl)
theorem Sys2Proof.Laws.Encoding.fmin (o : Sys2Proof.AForm) : Sys2Proof.Laws.Encoding.Statement (.fmin o) :=
  Sys2Proof.Laws.encodesA 0x56 0 .fmin o rfl rfl rfl (by decide) (fun _ => rfl)
theorem Sys2Proof.Laws.Encoding.fmax (o : Sys2Proof.AForm) : Sys2Proof.Laws.Encoding.Statement (.fmax o) :=
  Sys2Proof.Laws.encodesA 0x56 1 .fmax o rfl rfl rfl (by decide) (fun _ => rfl)
theorem Sys2Proof.Laws.Encoding.fabs (o : Sys2Proof.AForm) : Sys2Proof.Laws.Encoding.Statement (.fabs o) :=
  Sys2Proof.Laws.encodesA 0x57 0 .fabs o rfl rfl rfl (by decide) (fun _ => rfl)
theorem Sys2Proof.Laws.Encoding.fneg (o : Sys2Proof.AForm) : Sys2Proof.Laws.Encoding.Statement (.fneg o) :=
  Sys2Proof.Laws.encodesA 0x57 1 .fneg o rfl rfl rfl (by decide) (fun _ => rfl)
theorem Sys2Proof.Laws.Encoding.fcps (o : Sys2Proof.AForm) : Sys2Proof.Laws.Encoding.Statement (.fcps o) :=
  Sys2Proof.Laws.encodesA 0x58 0 .fcps o rfl rfl rfl (by decide) (fun _ => rfl)
theorem Sys2Proof.Laws.Encoding.fcmp (o : Sys2Proof.AForm) : Sys2Proof.Laws.Encoding.Statement (.fcmp o) :=
  Sys2Proof.Laws.encodesA 0x59 0 .fcmp o rfl rfl rfl (by decide) (fun _ => rfl)
theorem Sys2Proof.Laws.Encoding.fclass (o : Sys2Proof.AForm) : Sys2Proof.Laws.Encoding.Statement (.fclass o) :=
  Sys2Proof.Laws.encodesA 0x5a 0 .fclass o rfl rfl rfl (by decide) (fun _ => rfl)
theorem Sys2Proof.Laws.Encoding.frint (o : Sys2Proof.AForm) : Sys2Proof.Laws.Encoding.Statement (.frint o) :=
  Sys2Proof.Laws.encodesA 0x5b 0 .frint o rfl rfl rfl (by decide) (fun _ => rfl)
theorem Sys2Proof.Laws.Encoding.fscale (o : Sys2Proof.AForm) : Sys2Proof.Laws.Encoding.Statement (.fscale o) :=
  Sys2Proof.Laws.encodesA 0x5c 0 .fscale o rfl rfl rfl (by decide) (fun _ => rfl)
theorem Sys2Proof.Laws.Encoding.fgetexp (o : Sys2Proof.AForm) : Sys2Proof.Laws.Encoding.Statement (.fgetexp o) :=
  Sys2Proof.Laws.encodesA 0x5d 0 .fgetexp o rfl rfl rfl (by decide) (fun _ => rfl)
theorem Sys2Proof.Laws.Encoding.fgetman (o : Sys2Proof.AForm) : Sys2Proof.Laws.Encoding.Statement (.fgetman o) :=
  Sys2Proof.Laws.encodesA 0x5d 1 .fgetman o rfl rfl rfl (by decide) (fun _ => rfl)
theorem Sys2Proof.Laws.Encoding.fcvt (o : Sys2Proof.AForm) : Sys2Proof.Laws.Encoding.Statement (.fcvt o) :=
  Sys2Proof.Laws.encodesA 0x5e 0 .fcvt o rfl rfl rfl (by decide) (fun _ => rfl)
theorem Sys2Proof.Laws.Encoding.fcvti (o : Sys2Proof.AForm) : Sys2Proof.Laws.Encoding.Statement (.fcvti o) :=
  Sys2Proof.Laws.encodesA 0x5f 0 .fcvti o rfl rfl rfl (by decide) (fun _ => rfl)
theorem Sys2Proof.Laws.Encoding.icvtf (o : Sys2Proof.AForm) : Sys2Proof.Laws.Encoding.Statement (.icvtf o) :=
  Sys2Proof.Laws.encodesA 0x60 0 .icvtf o rfl rfl rfl (by decide) (fun _ => rfl)
theorem Sys2Proof.Laws.Encoding.fpk (o : Sys2Proof.AForm) (pos : BitVec 4) : Sys2Proof.Laws.Encoding.Statement (.fpk o pos) := by
  refine Sys2Proof.Laws.encodesA 0x61 pos (fun o => .fpk o pos) o rfl rfl rfl (by decide) (fun w => ?_)
  have h : Sys2Proof.selectInstr 0x61 pos.toNat w 0 = some (.fpk (Sys2Proof.unpackA w) (BitVec.ofNat 4 pos.toNat)) := rfl
  simpa using h
theorem Sys2Proof.Laws.Encoding.fupk (o : Sys2Proof.AForm) (pos : BitVec 4) : Sys2Proof.Laws.Encoding.Statement (.fupk o pos) := by
  refine Sys2Proof.Laws.encodesA 0x62 pos (fun o => .fupk o pos) o rfl rfl rfl (by decide) (fun w => ?_)
  have h : Sys2Proof.selectInstr 0x62 pos.toNat w 0 = some (.fupk (Sys2Proof.unpackA w) (BitVec.ofNat 4 pos.toNat)) := rfl
  simpa using h
theorem Sys2Proof.Laws.Encoding.frcpe (o : Sys2Proof.AForm) : Sys2Proof.Laws.Encoding.Statement (.frcpe o) :=
  Sys2Proof.Laws.encodesA 0x63 0 .frcpe o rfl rfl rfl (by decide) (fun _ => rfl)
theorem Sys2Proof.Laws.Encoding.frsqe (o : Sys2Proof.AForm) : Sys2Proof.Laws.Encoding.Statement (.frsqe o) :=
  Sys2Proof.Laws.encodesA 0x64 0 .frsqe o rfl rfl rfl (by decide) (fun _ => rfl)
theorem Sys2Proof.Laws.Encoding.fex2 (o : Sys2Proof.AForm) : Sys2Proof.Laws.Encoding.Statement (.fex2 o) :=
  Sys2Proof.Laws.encodesA 0x65 0 .fex2 o rfl rfl rfl (by decide) (fun _ => rfl)
theorem Sys2Proof.Laws.Encoding.flg2 (o : Sys2Proof.AForm) : Sys2Proof.Laws.Encoding.Statement (.flg2 o) :=
  Sys2Proof.Laws.encodesA 0x66 0 .flg2 o rfl rfl rfl (by decide) (fun _ => rfl)
theorem Sys2Proof.Laws.Encoding.fsinpi (o : Sys2Proof.AForm) : Sys2Proof.Laws.Encoding.Statement (.fsinpi o) :=
  Sys2Proof.Laws.encodesA 0x67 0 .fsinpi o rfl rfl rfl (by decide) (fun _ => rfl)
theorem Sys2Proof.Laws.Encoding.fcospi (o : Sys2Proof.AForm) : Sys2Proof.Laws.Encoding.Statement (.fcospi o) :=
  Sys2Proof.Laws.encodesA 0x67 1 .fcospi o rfl rfl rfl (by decide) (fun _ => rfl)
theorem Sys2Proof.Laws.Encoding.fdot2 (o : Sys2Proof.AForm) : Sys2Proof.Laws.Encoding.Statement (.fdot2 o) :=
  Sys2Proof.Laws.encodesA 0x68 0 .fdot2 o rfl rfl rfl (by decide) (fun _ => rfl)
theorem Sys2Proof.Laws.Encoding.bqnt (o : Sys2Proof.AForm) : Sys2Proof.Laws.Encoding.Statement (.bqnt o) :=
  Sys2Proof.Laws.encodesA 0x69 0 .bqnt o rfl rfl rfl (by decide) (fun _ => rfl)
theorem Sys2Proof.Laws.Encoding.bdq (o : Sys2Proof.AForm) : Sys2Proof.Laws.Encoding.Statement (.bdq o) :=
  Sys2Proof.Laws.encodesA 0x6a 0 .bdq o rfl rfl rfl (by decide) (fun _ => rfl)
theorem Sys2Proof.Laws.Encoding.fredAdd (o : Sys2Proof.AForm) : Sys2Proof.Laws.Encoding.Statement (.fredAdd o) :=
  Sys2Proof.Laws.encodesA 0x6b 0 .fredAdd o rfl rfl rfl (by decide) (fun _ => rfl)
theorem Sys2Proof.Laws.Encoding.fredMin (o : Sys2Proof.AForm) : Sys2Proof.Laws.Encoding.Statement (.fredMin o) :=
  Sys2Proof.Laws.encodesA 0x6b 1 .fredMin o rfl rfl rfl (by decide) (fun _ => rfl)
theorem Sys2Proof.Laws.Encoding.fredMax (o : Sys2Proof.AForm) : Sys2Proof.Laws.Encoding.Statement (.fredMax o) :=
  Sys2Proof.Laws.encodesA 0x6b 2 .fredMax o rfl rfl rfl (by decide) (fun _ => rfl)
theorem Sys2Proof.Laws.Encoding.faddi (o : Sys2Proof.IForm) : Sys2Proof.Laws.Encoding.Statement (.faddi o) :=
  Sys2Proof.Laws.encodesI 0x6c .faddi o rfl rfl rfl (by decide) (fun _ => rfl)
theorem Sys2Proof.Laws.Encoding.fmuli (o : Sys2Proof.IForm) : Sys2Proof.Laws.Encoding.Statement (.fmuli o) :=
  Sys2Proof.Laws.encodesI 0x6d .fmuli o rfl rfl rfl (by decide) (fun _ => rfl)
theorem Sys2Proof.Laws.Encoding.fmai (o : Sys2Proof.IForm) : Sys2Proof.Laws.Encoding.Statement (.fmai o) :=
  Sys2Proof.Laws.encodesI 0x6e .fmai o rfl rfl rfl (by decide) (fun _ => rfl)
theorem Sys2Proof.Laws.Encoding.fcmpi (o : Sys2Proof.IForm) : Sys2Proof.Laws.Encoding.Statement (.fcmpi o) :=
  Sys2Proof.Laws.encodesI 0x6f .fcmpi o rfl rfl rfl (by decide) (fun _ => rfl)
theorem Sys2Proof.Laws.Encoding.fli (o : Sys2Proof.LForm) : Sys2Proof.Laws.Encoding.Statement (.fli o) :=
  Sys2Proof.Laws.encodesL 0x70 0 .fli o rfl rfl rfl (by decide) (fun _ => rfl)
theorem Sys2Proof.Laws.Encoding.ld (o : Sys2Proof.MForm) : Sys2Proof.Laws.Encoding.Statement (.ld o) :=
  Sys2Proof.Laws.encodesM 0x80 .ld o rfl rfl rfl (by decide) (fun _ => rfl)
theorem Sys2Proof.Laws.Encoding.lds (o : Sys2Proof.MForm) : Sys2Proof.Laws.Encoding.Statement (.lds o) :=
  Sys2Proof.Laws.encodesM 0x81 .lds o rfl rfl rfl (by decide) (fun _ => rfl)
theorem Sys2Proof.Laws.Encoding.ldx (o : Sys2Proof.MForm) : Sys2Proof.Laws.Encoding.Statement (.ldx o) :=
  Sys2Proof.Laws.encodesM 0x82 .ldx o rfl rfl rfl (by decide) (fun _ => rfl)
theorem Sys2Proof.Laws.Encoding.ldxs (o : Sys2Proof.MForm) : Sys2Proof.Laws.Encoding.Statement (.ldxs o) :=
  Sys2Proof.Laws.encodesM 0x83 .ldxs o rfl rfl rfl (by decide) (fun _ => rfl)
theorem Sys2Proof.Laws.Encoding.st (o : Sys2Proof.MForm) : Sys2Proof.Laws.Encoding.Statement (.st o) :=
  Sys2Proof.Laws.encodesM 0x84 .st o rfl rfl rfl (by decide) (fun _ => rfl)
theorem Sys2Proof.Laws.Encoding.stx (o : Sys2Proof.MForm) : Sys2Proof.Laws.Encoding.Statement (.stx o) :=
  Sys2Proof.Laws.encodesM 0x85 .stx o rfl rfl rfl (by decide) (fun _ => rfl)
theorem Sys2Proof.Laws.Encoding.ldnt (o : Sys2Proof.MForm) : Sys2Proof.Laws.Encoding.Statement (.ldnt o) :=
  Sys2Proof.Laws.encodesM 0x86 .ldnt o rfl rfl rfl (by decide) (fun _ => rfl)
theorem Sys2Proof.Laws.Encoding.ldxnt (o : Sys2Proof.MForm) : Sys2Proof.Laws.Encoding.Statement (.ldxnt o) :=
  Sys2Proof.Laws.encodesM 0x87 .ldxnt o rfl rfl rfl (by decide) (fun _ => rfl)
theorem Sys2Proof.Laws.Encoding.stnt (o : Sys2Proof.MForm) : Sys2Proof.Laws.Encoding.Statement (.stnt o) :=
  Sys2Proof.Laws.encodesM 0x88 .stnt o rfl rfl rfl (by decide) (fun _ => rfl)
theorem Sys2Proof.Laws.Encoding.stxnt (o : Sys2Proof.MForm) : Sys2Proof.Laws.Encoding.Statement (.stxnt o) :=
  Sys2Proof.Laws.encodesM 0x89 .stxnt o rfl rfl rfl (by decide) (fun _ => rfl)
theorem Sys2Proof.Laws.Encoding.ldnf (o : Sys2Proof.MForm) : Sys2Proof.Laws.Encoding.Statement (.ldnf o) :=
  Sys2Proof.Laws.encodesM 0x8a .ldnf o rfl rfl rfl (by decide) (fun _ => rfl)
theorem Sys2Proof.Laws.Encoding.stbe (o : Sys2Proof.MForm) : Sys2Proof.Laws.Encoding.Statement (.stbe o) :=
  Sys2Proof.Laws.encodesM 0x8b .stbe o rfl rfl rfl (by decide) (fun _ => rfl)
theorem Sys2Proof.Laws.Encoding.pf (o : Sys2Proof.MForm) : Sys2Proof.Laws.Encoding.Statement (.pf o) :=
  Sys2Proof.Laws.encodesM 0x8c .pf o rfl rfl rfl (by decide) (fun _ => rfl)
theorem Sys2Proof.Laws.Encoding.pfx (o : Sys2Proof.MForm) : Sys2Proof.Laws.Encoding.Statement (.pfx o) :=
  Sys2Proof.Laws.encodesM 0x8d .pfx o rfl rfl rfl (by decide) (fun _ => rfl)
theorem Sys2Proof.Laws.Encoding.ldm (o : Sys2Proof.MForm) : Sys2Proof.Laws.Encoding.Statement (.ldm o) :=
  Sys2Proof.Laws.encodesM 0x8e .ldm o rfl rfl rfl (by decide) (fun _ => rfl)
theorem Sys2Proof.Laws.Encoding.stm (o : Sys2Proof.MForm) : Sys2Proof.Laws.Encoding.Statement (.stm o) :=
  Sys2Proof.Laws.encodesM 0x8f .stm o rfl rfl rfl (by decide) (fun _ => rfl)
theorem Sys2Proof.Laws.Encoding.tlbp (o : Sys2Proof.MForm) : Sys2Proof.Laws.Encoding.Statement (.tlbp o) :=
  Sys2Proof.Laws.encodesM 0x90 .tlbp o rfl rfl rfl (by decide) (fun _ => rfl)
theorem Sys2Proof.Laws.Encoding.tlbi (o : Sys2Proof.MForm) : Sys2Proof.Laws.Encoding.Statement (.tlbi o) :=
  Sys2Proof.Laws.encodesM 0x91 .tlbi o rfl rfl rfl (by decide) (fun _ => rfl)
theorem Sys2Proof.Laws.Encoding.tlbs (o : Sys2Proof.MForm) : Sys2Proof.Laws.Encoding.Statement (.tlbs o) :=
  Sys2Proof.Laws.encodesM 0x92 .tlbs o rfl rfl rfl (by decide) (fun _ => rfl)
theorem Sys2Proof.Laws.Encoding.pois (o : Sys2Proof.MForm) : Sys2Proof.Laws.Encoding.Statement (.pois o) :=
  Sys2Proof.Laws.encodesM 0x93 .pois o rfl rfl rfl (by decide) (fun _ => rfl)
theorem Sys2Proof.Laws.Encoding.spmap (o : Sys2Proof.AForm) : Sys2Proof.Laws.Encoding.Statement (.spmap o) :=
  Sys2Proof.Laws.encodesA 0x94 0 .spmap o rfl rfl rfl (by decide) (fun _ => rfl)
theorem Sys2Proof.Laws.Encoding.spmapz (o : Sys2Proof.AForm) : Sys2Proof.Laws.Encoding.Statement (.spmapz o) :=
  Sys2Proof.Laws.encodesA 0x94 1 .spmapz o rfl rfl rfl (by decide) (fun _ => rfl)
theorem Sys2Proof.Laws.Encoding.spclr (o : Sys2Proof.AForm) : Sys2Proof.Laws.Encoding.Statement (.spclr o) :=
  Sys2Proof.Laws.encodesA 0x94 2 .spclr o rfl rfl rfl (by decide) (fun _ => rfl)
theorem Sys2Proof.Laws.Encoding.spwb (o : Sys2Proof.AForm) : Sys2Proof.Laws.Encoding.Statement (.spwb o) :=
  Sys2Proof.Laws.encodesA 0x94 3 .spwb o rfl rfl rfl (by decide) (fun _ => rfl)
theorem Sys2Proof.Laws.Encoding.spdrop (o : Sys2Proof.AForm) : Sys2Proof.Laws.Encoding.Statement (.spdrop o) :=
  Sys2Proof.Laws.encodesA 0x94 4 .spdrop o rfl rfl rfl (by decide) (fun _ => rfl)
theorem Sys2Proof.Laws.Encoding.ldts (o : Sys2Proof.AForm) : Sys2Proof.Laws.Encoding.Statement (.ldts o) :=
  Sys2Proof.Laws.encodesA 0x95 0 .ldts o rfl rfl rfl (by decide) (fun _ => rfl)
theorem Sys2Proof.Laws.Encoding.stts (o : Sys2Proof.AForm) : Sys2Proof.Laws.Encoding.Statement (.stts o) :=
  Sys2Proof.Laws.encodesA 0x96 0 .stts o rfl rfl rfl (by decide) (fun _ => rfl)
theorem Sys2Proof.Laws.Encoding.tsfree (o : Sys2Proof.AForm) : Sys2Proof.Laws.Encoding.Statement (.tsfree o) :=
  Sys2Proof.Laws.encodesA 0x97 0 .tsfree o rfl rfl rfl (by decide) (fun _ => rfl)
theorem Sys2Proof.Laws.Encoding.tsstat (o : Sys2Proof.AForm) : Sys2Proof.Laws.Encoding.Statement (.tsstat o) :=
  Sys2Proof.Laws.encodesA 0x97 1 .tsstat o rfl rfl rfl (by decide) (fun _ => rfl)
theorem Sys2Proof.Laws.Encoding.thacq (o : Sys2Proof.AForm) : Sys2Proof.Laws.Encoding.Statement (.thacq o) :=
  Sys2Proof.Laws.encodesA 0xa0 0 .thacq o rfl rfl rfl (by decide) (fun _ => rfl)
theorem Sys2Proof.Laws.Encoding.thpf (o : Sys2Proof.AForm) : Sys2Proof.Laws.Encoding.Statement (.thpf o) :=
  Sys2Proof.Laws.encodesA 0xa1 0 .thpf o rfl rfl rfl (by decide) (fun _ => rfl)
theorem Sys2Proof.Laws.Encoding.threl (o : Sys2Proof.AForm) : Sys2Proof.Laws.Encoding.Statement (.threl o) :=
  Sys2Proof.Laws.encodesA 0xa2 0 .threl o rfl rfl rfl (by decide) (fun _ => rfl)
theorem Sys2Proof.Laws.Encoding.thdown (o : Sys2Proof.AForm) : Sys2Proof.Laws.Encoding.Statement (.thdown o) :=
  Sys2Proof.Laws.encodesA 0xa3 0 .thdown o rfl rfl rfl (by decide) (fun _ => rfl)
theorem Sys2Proof.Laws.Encoding.thclose (o : Sys2Proof.AForm) : Sys2Proof.Laws.Encoding.Statement (.thclose o) :=
  Sys2Proof.Laws.encodesA 0xa4 0 .thclose o rfl rfl rfl (by decide) (fun _ => rfl)
theorem Sys2Proof.Laws.Encoding.thwb (o : Sys2Proof.AForm) : Sys2Proof.Laws.Encoding.Statement (.thwb o) :=
  Sys2Proof.Laws.encodesA 0xa6 0 .thwb o rfl rfl rfl (by decide) (fun _ => rfl)
theorem Sys2Proof.Laws.Encoding.thsplit (o : Sys2Proof.AForm) : Sys2Proof.Laws.Encoding.Statement (.thsplit o) :=
  Sys2Proof.Laws.encodesA 0xa5 0 .thsplit o rfl rfl rfl (by decide) (fun _ => rfl)
theorem Sys2Proof.Laws.Encoding.thbind (o : Sys2Proof.AForm) : Sys2Proof.Laws.Encoding.Statement (.thbind o) :=
  Sys2Proof.Laws.encodesA 0xa7 0 .thbind o rfl rfl rfl (by decide) (fun _ => rfl)
theorem Sys2Proof.Laws.Encoding.thunbind (o : Sys2Proof.AForm) : Sys2Proof.Laws.Encoding.Statement (.thunbind o) :=
  Sys2Proof.Laws.encodesA 0xa8 0 .thunbind o rfl rfl rfl (by decide) (fun _ => rfl)
theorem Sys2Proof.Laws.Encoding.thstat (o : Sys2Proof.AForm) : Sys2Proof.Laws.Encoding.Statement (.thstat o) :=
  Sys2Proof.Laws.encodesA 0xa9 0 .thstat o rfl rfl rfl (by decide) (fun _ => rfl)
theorem Sys2Proof.Laws.Encoding.thext (o : Sys2Proof.AForm) : Sys2Proof.Laws.Encoding.Statement (.thext o) :=
  Sys2Proof.Laws.encodesA 0xaa 0 .thext o rfl rfl rfl (by decide) (fun _ => rfl)
theorem Sys2Proof.Laws.Encoding.thprobe (o : Sys2Proof.AForm) : Sys2Proof.Laws.Encoding.Statement (.thprobe o) :=
  Sys2Proof.Laws.encodesA 0xab 0 .thprobe o rfl rfl rfl (by decide) (fun _ => rfl)
theorem Sys2Proof.Laws.Encoding.thopen (o : Sys2Proof.MForm) : Sys2Proof.Laws.Encoding.Statement (.thopen o) :=
  Sys2Proof.Laws.encodesM 0xac .thopen o rfl rfl rfl (by decide) (fun _ => rfl)
theorem Sys2Proof.Laws.Encoding.thdesc (o : Sys2Proof.MForm) : Sys2Proof.Laws.Encoding.Statement (.thdesc o) :=
  Sys2Proof.Laws.encodesM 0xad .thdesc o rfl rfl rfl (by decide) (fun _ => rfl)
theorem Sys2Proof.Laws.Encoding.cas (o : Sys2Proof.MForm) : Sys2Proof.Laws.Encoding.Statement (.cas o) :=
  Sys2Proof.Laws.encodesM 0xb0 .cas o rfl rfl rfl (by decide) (fun _ => rfl)
theorem Sys2Proof.Laws.Encoding.swap (o : Sys2Proof.MForm) : Sys2Proof.Laws.Encoding.Statement (.swap o) :=
  Sys2Proof.Laws.encodesM 0xb1 .swap o rfl rfl rfl (by decide) (fun _ => rfl)
theorem Sys2Proof.Laws.Encoding.aadd (o : Sys2Proof.MForm) : Sys2Proof.Laws.Encoding.Statement (.aadd o) :=
  Sys2Proof.Laws.encodesM 0xb2 .aadd o rfl rfl rfl (by decide) (fun _ => rfl)
theorem Sys2Proof.Laws.Encoding.amin (o : Sys2Proof.MForm) : Sys2Proof.Laws.Encoding.Statement (.amin o) :=
  Sys2Proof.Laws.encodesM 0xb3 .amin o rfl rfl rfl (by decide) (fun _ => rfl)
theorem Sys2Proof.Laws.Encoding.amax (o : Sys2Proof.MForm) : Sys2Proof.Laws.Encoding.Statement (.amax o) :=
  Sys2Proof.Laws.encodesM 0xb4 .amax o rfl rfl rfl (by decide) (fun _ => rfl)
theorem Sys2Proof.Laws.Encoding.afadd (o : Sys2Proof.MForm) : Sys2Proof.Laws.Encoding.Statement (.afadd o) :=
  Sys2Proof.Laws.encodesM 0xb5 .afadd o rfl rfl rfl (by decide) (fun _ => rfl)
theorem Sys2Proof.Laws.Encoding.xadd (o : Sys2Proof.MForm) : Sys2Proof.Laws.Encoding.Statement (.xadd o) :=
  Sys2Proof.Laws.encodesM 0xb6 .xadd o rfl rfl rfl (by decide) (fun _ => rfl)
theorem Sys2Proof.Laws.Encoding.xrd (o : Sys2Proof.MForm) : Sys2Proof.Laws.Encoding.Statement (.xrd o) :=
  Sys2Proof.Laws.encodesM 0xb7 .xrd o rfl rfl rfl (by decide) (fun _ => rfl)
theorem Sys2Proof.Laws.Encoding.aand (o : Sys2Proof.AForm) : Sys2Proof.Laws.Encoding.Statement (.aand o) :=
  Sys2Proof.Laws.encodesA 0xb8 0 .aand o rfl rfl rfl (by decide) (fun _ => rfl)
theorem Sys2Proof.Laws.Encoding.aor (o : Sys2Proof.AForm) : Sys2Proof.Laws.Encoding.Statement (.aor o) :=
  Sys2Proof.Laws.encodesA 0xb8 1 .aor o rfl rfl rfl (by decide) (fun _ => rfl)
theorem Sys2Proof.Laws.Encoding.axor (o : Sys2Proof.AForm) : Sys2Proof.Laws.Encoding.Statement (.axor o) :=
  Sys2Proof.Laws.encodesA 0xb8 2 .axor o rfl rfl rfl (by decide) (fun _ => rfl)
theorem Sys2Proof.Laws.Encoding.ainc (o : Sys2Proof.AForm) : Sys2Proof.Laws.Encoding.Statement (.ainc o) :=
  Sys2Proof.Laws.encodesA 0xb8 3 .ainc o rfl rfl rfl (by decide) (fun _ => rfl)
theorem Sys2Proof.Laws.Encoding.fence (o : Sys2Proof.AForm) : Sys2Proof.Laws.Encoding.Statement (.fence o) :=
  Sys2Proof.Laws.encodesA 0xb9 0 .fence o rfl rfl rfl (by decide) (fun _ => rfl)
theorem Sys2Proof.Laws.Encoding.fenceAcq (o : Sys2Proof.AForm) : Sys2Proof.Laws.Encoding.Statement (.fenceAcq o) :=
  Sys2Proof.Laws.encodesA 0xb9 1 .fenceAcq o rfl rfl rfl (by decide) (fun _ => rfl)
theorem Sys2Proof.Laws.Encoding.fenceRel (o : Sys2Proof.AForm) : Sys2Proof.Laws.Encoding.Statement (.fenceRel o) :=
  Sys2Proof.Laws.encodesA 0xb9 2 .fenceRel o rfl rfl rfl (by decide) (fun _ => rfl)
theorem Sys2Proof.Laws.Encoding.rvinit (o : Sys2Proof.AForm) : Sys2Proof.Laws.Encoding.Statement (.rvinit o) :=
  Sys2Proof.Laws.encodesA 0xba 0 .rvinit o rfl rfl rfl (by decide) (fun _ => rfl)
theorem Sys2Proof.Laws.Encoding.rvarrive (o : Sys2Proof.AForm) : Sys2Proof.Laws.Encoding.Statement (.rvarrive o) :=
  Sys2Proof.Laws.encodesA 0xba 1 .rvarrive o rfl rfl rfl (by decide) (fun _ => rfl)
theorem Sys2Proof.Laws.Encoding.rvwait (o : Sys2Proof.AForm) : Sys2Proof.Laws.Encoding.Statement (.rvwait o) :=
  Sys2Proof.Laws.encodesA 0xba 2 .rvwait o rfl rfl rfl (by decide) (fun _ => rfl)
theorem Sys2Proof.Laws.Encoding.rvwaitSpec (o : Sys2Proof.AForm) : Sys2Proof.Laws.Encoding.Statement (.rvwaitSpec o) :=
  Sys2Proof.Laws.encodesA 0xba 3 .rvwaitSpec o rfl rfl rfl (by decide) (fun _ => rfl)
theorem Sys2Proof.Laws.Encoding.rvsync (o : Sys2Proof.AForm) : Sys2Proof.Laws.Encoding.Statement (.rvsync o) :=
  Sys2Proof.Laws.encodesA 0xba 4 .rvsync o rfl rfl rfl (by decide) (fun _ => rfl)
theorem Sys2Proof.Laws.Encoding.rvpoll (o : Sys2Proof.AForm) : Sys2Proof.Laws.Encoding.Statement (.rvpoll o) :=
  Sys2Proof.Laws.encodesA 0xba 5 .rvpoll o rfl rfl rfl (by decide) (fun _ => rfl)
theorem Sys2Proof.Laws.Encoding.gbinit (o : Sys2Proof.AForm) : Sys2Proof.Laws.Encoding.Statement (.gbinit o) :=
  Sys2Proof.Laws.encodesA 0xbb 0 .gbinit o rfl rfl rfl (by decide) (fun _ => rfl)
theorem Sys2Proof.Laws.Encoding.gbarrive (o : Sys2Proof.AForm) : Sys2Proof.Laws.Encoding.Statement (.gbarrive o) :=
  Sys2Proof.Laws.encodesA 0xbb 1 .gbarrive o rfl rfl rfl (by decide) (fun _ => rfl)
theorem Sys2Proof.Laws.Encoding.gbwait (o : Sys2Proof.AForm) : Sys2Proof.Laws.Encoding.Statement (.gbwait o) :=
  Sys2Proof.Laws.encodesA 0xbb 2 .gbwait o rfl rfl rfl (by decide) (fun _ => rfl)
theorem Sys2Proof.Laws.Encoding.gbsync (o : Sys2Proof.AForm) : Sys2Proof.Laws.Encoding.Statement (.gbsync o) :=
  Sys2Proof.Laws.encodesA 0xbb 3 .gbsync o rfl rfl rfl (by decide) (fun _ => rfl)
theorem Sys2Proof.Laws.Encoding.waitvEq (o : Sys2Proof.AForm) : Sys2Proof.Laws.Encoding.Statement (.waitvEq o) :=
  Sys2Proof.Laws.encodesA 0xbc 0 .waitvEq o rfl rfl rfl (by decide) (fun _ => rfl)
theorem Sys2Proof.Laws.Encoding.waitvNe (o : Sys2Proof.AForm) : Sys2Proof.Laws.Encoding.Statement (.waitvNe o) :=
  Sys2Proof.Laws.encodesA 0xbc 1 .waitvNe o rfl rfl rfl (by decide) (fun _ => rfl)
theorem Sys2Proof.Laws.Encoding.specwait (o : Sys2Proof.AForm) : Sys2Proof.Laws.Encoding.Statement (.specwait o) :=
  Sys2Proof.Laws.encodesA 0xbd 0 .specwait o rfl rfl rfl (by decide) (fun _ => rfl)
theorem Sys2Proof.Laws.Encoding.xset (o : Sys2Proof.AForm) : Sys2Proof.Laws.Encoding.Statement (.xset o) :=
  Sys2Proof.Laws.encodesA 0xbe 0 .xset o rfl rfl rfl (by decide) (fun _ => rfl)
theorem Sys2Proof.Laws.Encoding.rvstat (o : Sys2Proof.AForm) : Sys2Proof.Laws.Encoding.Statement (.rvstat o) :=
  Sys2Proof.Laws.encodesA 0xbf 0 .rvstat o rfl rfl rfl (by decide) (fun _ => rfl)
theorem Sys2Proof.Laws.Encoding.mlds (o : Sys2Proof.XForm) : Sys2Proof.Laws.Encoding.Statement (.mlds o) :=
  Sys2Proof.Laws.encodesX 0xc0 0 .mlds o rfl rfl rfl (by decide) (fun _ => rfl)
theorem Sys2Proof.Laws.Encoding.mldl (o : Sys2Proof.XForm) : Sys2Proof.Laws.Encoding.Statement (.mldl o) :=
  Sys2Proof.Laws.encodesX 0xc1 0 .mldl o rfl rfl rfl (by decide) (fun _ => rfl)
theorem Sys2Proof.Laws.Encoding.mswap (o : Sys2Proof.XForm) : Sys2Proof.Laws.Encoding.Statement (.mswap o) :=
  Sys2Proof.Laws.encodesX 0xc2 0 .mswap o rfl rfl rfl (by decide) (fun _ => rfl)
theorem Sys2Proof.Laws.Encoding.mmul (o : Sys2Proof.XForm) : Sys2Proof.Laws.Encoding.Statement (.mmul o) :=
  Sys2Proof.Laws.encodesX 0xc3 0 .mmul o rfl rfl rfl (by decide) (fun _ => rfl)
theorem Sys2Proof.Laws.Encoding.mmulz (o : Sys2Proof.XForm) : Sys2Proof.Laws.Encoding.Statement (.mmulz o) :=
  Sys2Proof.Laws.encodesX 0xc3 1 .mmulz o rfl rfl rfl (by decide) (fun _ => rfl)
theorem Sys2Proof.Laws.Encoding.acst (o : Sys2Proof.XForm) : Sys2Proof.Laws.Encoding.Statement (.acst o) :=
  Sys2Proof.Laws.encodesX 0xc4 0 .acst o rfl rfl rfl (by decide) (fun _ => rfl)
theorem Sys2Proof.Laws.Encoding.acld (o : Sys2Proof.XForm) : Sys2Proof.Laws.Encoding.Statement (.acld o) :=
  Sys2Proof.Laws.encodesX 0xc5 0 .acld o rfl rfl rfl (by decide) (fun _ => rfl)
theorem Sys2Proof.Laws.Encoding.acsclRow (o : Sys2Proof.XForm) : Sys2Proof.Laws.Encoding.Statement (.acsclRow o) :=
  Sys2Proof.Laws.encodesX 0xc6 0 .acsclRow o rfl rfl rfl (by decide) (fun _ => rfl)
theorem Sys2Proof.Laws.Encoding.acsclCol (o : Sys2Proof.XForm) : Sys2Proof.Laws.Encoding.Statement (.acsclCol o) :=
  Sys2Proof.Laws.encodesX 0xc6 1 .acsclCol o rfl rfl rfl (by decide) (fun _ => rfl)
theorem Sys2Proof.Laws.Encoding.acnrm (o : Sys2Proof.XForm) : Sys2Proof.Laws.Encoding.Statement (.acnrm o) :=
  Sys2Proof.Laws.encodesX 0xc7 0 .acnrm o rfl rfl rfl (by decide) (fun _ => rfl)
theorem Sys2Proof.Laws.Encoding.acredMax (o : Sys2Proof.XForm) : Sys2Proof.Laws.Encoding.Statement (.acredMax o) :=
  Sys2Proof.Laws.encodesX 0xc8 0 .acredMax o rfl rfl rfl (by decide) (fun _ => rfl)
theorem Sys2Proof.Laws.Encoding.acredSum (o : Sys2Proof.XForm) : Sys2Proof.Laws.Encoding.Statement (.acredSum o) :=
  Sys2Proof.Laws.encodesX 0xc8 1 .acredSum o rfl rfl rfl (by decide) (fun _ => rfl)
theorem Sys2Proof.Laws.Encoding.acbias (o : Sys2Proof.XForm) : Sys2Proof.Laws.Encoding.Statement (.acbias o) :=
  Sys2Proof.Laws.encodesX 0xc9 0 .acbias o rfl rfl rfl (by decide) (fun _ => rfl)
theorem Sys2Proof.Laws.Encoding.cvinit (o : Sys2Proof.AForm) : Sys2Proof.Laws.Encoding.Statement (.cvinit o) :=
  Sys2Proof.Laws.encodesA 0xca 0 .cvinit o rfl rfl rfl (by decide) (fun _ => rfl)
theorem Sys2Proof.Laws.Encoding.msign (o : Sys2Proof.AForm) : Sys2Proof.Laws.Encoding.Statement (.msign o) :=
  Sys2Proof.Laws.encodesA 0xca 1 .msign o rfl rfl rfl (by decide) (fun _ => rfl)
theorem Sys2Proof.Laws.Encoding.mwait (o : Sys2Proof.AForm) : Sys2Proof.Laws.Encoding.Statement (.mwait o) :=
  Sys2Proof.Laws.encodesA 0xcb 0 .mwait o rfl rfl rfl (by decide) (fun _ => rfl)
theorem Sys2Proof.Laws.Encoding.mstat (o : Sys2Proof.AForm) : Sys2Proof.Laws.Encoding.Statement (.mstat o) :=
  Sys2Proof.Laws.encodesA 0xcc 0 .mstat o rfl rfl rfl (by decide) (fun _ => rfl)
theorem Sys2Proof.Laws.Encoding.mstclr (o : Sys2Proof.AForm) : Sys2Proof.Laws.Encoding.Statement (.mstclr o) :=
  Sys2Proof.Laws.encodesA 0xcc 1 .mstclr o rfl rfl rfl (by decide) (fun _ => rfl)
theorem Sys2Proof.Laws.Encoding.acrd (o : Sys2Proof.AForm) : Sys2Proof.Laws.Encoding.Statement (.acrd o) :=
  Sys2Proof.Laws.encodesA 0xcd 0 .acrd o rfl rfl rfl (by decide) (fun _ => rfl)
theorem Sys2Proof.Laws.Encoding.acwr (o : Sys2Proof.AForm) : Sys2Proof.Laws.Encoding.Statement (.acwr o) :=
  Sys2Proof.Laws.encodesA 0xcd 1 .acwr o rfl rfl rfl (by decide) (fun _ => rfl)
theorem Sys2Proof.Laws.Encoding.acclr (o : Sys2Proof.AForm) : Sys2Proof.Laws.Encoding.Statement (.acclr o) :=
  Sys2Proof.Laws.encodesA 0xce 0 .acclr o rfl rfl rfl (by decide) (fun _ => rfl)
theorem Sys2Proof.Laws.Encoding.mplane (o : Sys2Proof.AForm) : Sys2Proof.Laws.Encoding.Statement (.mplane o) :=
  Sys2Proof.Laws.encodesA 0xcf 0 .mplane o rfl rfl rfl (by decide) (fun _ => rfl)
theorem Sys2Proof.Laws.Encoding.cpy (o : Sys2Proof.XForm) : Sys2Proof.Laws.Encoding.Statement (.cpy o) :=
  Sys2Proof.Laws.encodesX 0xd0 0 .cpy o rfl rfl rfl (by decide) (fun _ => rfl)
theorem Sys2Proof.Laws.Encoding.fill (o : Sys2Proof.XForm) : Sys2Proof.Laws.Encoding.Statement (.fill o) :=
  Sys2Proof.Laws.encodesX 0xd1 0 .fill o rfl rfl rfl (by decide) (fun _ => rfl)
theorem Sys2Proof.Laws.Encoding.cpts (o : Sys2Proof.XForm) : Sys2Proof.Laws.Encoding.Statement (.cpts o) :=
  Sys2Proof.Laws.encodesX 0xd2 0 .cpts o rfl rfl rfl (by decide) (fun _ => rfl)
theorem Sys2Proof.Laws.Encoding.cpfs (o : Sys2Proof.XForm) : Sys2Proof.Laws.Encoding.Statement (.cpfs o) :=
  Sys2Proof.Laws.encodesX 0xd3 0 .cpfs o rfl rfl rfl (by decide) (fun _ => rfl)
theorem Sys2Proof.Laws.Encoding.cpald (o : Sys2Proof.XForm) : Sys2Proof.Laws.Encoding.Statement (.cpald o) :=
  Sys2Proof.Laws.encodesX 0xd4 0 .cpald o rfl rfl rfl (by decide) (fun _ => rfl)
theorem Sys2Proof.Laws.Encoding.cpast (o : Sys2Proof.XForm) : Sys2Proof.Laws.Encoding.Statement (.cpast o) :=
  Sys2Proof.Laws.encodesX 0xd5 0 .cpast o rfl rfl rfl (by decide) (fun _ => rfl)
theorem Sys2Proof.Laws.Encoding.gcp (o : Sys2Proof.XForm) : Sys2Proof.Laws.Encoding.Statement (.gcp o) :=
  Sys2Proof.Laws.encodesX 0xd6 0 .gcp o rfl rfl rfl (by decide) (fun _ => rfl)
theorem Sys2Proof.Laws.Encoding.gcpts (o : Sys2Proof.XForm) : Sys2Proof.Laws.Encoding.Statement (.gcpts o) :=
  Sys2Proof.Laws.encodesX 0xd7 0 .gcpts o rfl rfl rfl (by decide) (fun _ => rfl)
theorem Sys2Proof.Laws.Encoding.expf (o : Sys2Proof.XForm) : Sys2Proof.Laws.Encoding.Statement (.expf o) :=
  Sys2Proof.Laws.encodesX 0xd8 0 .expf o rfl rfl rfl (by decide) (fun _ => rfl)
theorem Sys2Proof.Laws.Encoding.exwb (o : Sys2Proof.XForm) : Sys2Proof.Laws.Encoding.Statement (.exwb o) :=
  Sys2Proof.Laws.encodesX 0xd9 0 .exwb o rfl rfl rfl (by decide) (fun _ => rfl)
theorem Sys2Proof.Laws.Encoding.waitlt (o : Sys2Proof.AForm) : Sys2Proof.Laws.Encoding.Statement (.waitlt o) :=
  Sys2Proof.Laws.encodesA 0xda 0 .waitlt o rfl rfl rfl (by decide) (fun _ => rfl)
theorem Sys2Proof.Laws.Encoding.ccrd (o : Sys2Proof.AForm) : Sys2Proof.Laws.Encoding.Statement (.ccrd o) :=
  Sys2Proof.Laws.encodesA 0xda 1 .ccrd o rfl rfl rfl (by decide) (fun _ => rfl)
theorem Sys2Proof.Laws.Encoding.ccadd (o : Sys2Proof.AForm) : Sys2Proof.Laws.Encoding.Statement (.ccadd o) :=
  Sys2Proof.Laws.encodesA 0xda 2 .ccadd o rfl rfl rfl (by decide) (fun _ => rfl)
theorem Sys2Proof.Laws.Encoding.ccclr (o : Sys2Proof.AForm) : Sys2Proof.Laws.Encoding.Statement (.ccclr o) :=
  Sys2Proof.Laws.encodesA 0xdb 0 .ccclr o rfl rfl rfl (by decide) (fun _ => rfl)
theorem Sys2Proof.Laws.Encoding.refine (o : Sys2Proof.XForm) : Sys2Proof.Laws.Encoding.Statement (.refine o) :=
  Sys2Proof.Laws.encodesX 0xe0 0 .refine o rfl rfl rfl (by decide) (fun _ => rfl)
theorem Sys2Proof.Laws.Encoding.rfres (o : Sys2Proof.XForm) : Sys2Proof.Laws.Encoding.Statement (.rfres o) :=
  Sys2Proof.Laws.encodesX 0xe1 0 .rfres o rfl rfl rfl (by decide) (fun _ => rfl)
theorem Sys2Proof.Laws.Encoding.rfchk (o : Sys2Proof.XForm) : Sys2Proof.Laws.Encoding.Statement (.rfchk o) :=
  Sys2Proof.Laws.encodesX 0xe2 0 .rfchk o rfl rfl rfl (by decide) (fun _ => rfl)
theorem Sys2Proof.Laws.Encoding.rfcancel (o : Sys2Proof.XForm) : Sys2Proof.Laws.Encoding.Statement (.rfcancel o) :=
  Sys2Proof.Laws.encodesX 0xe3 0 .rfcancel o rfl rfl rfl (by decide) (fun _ => rfl)
theorem Sys2Proof.Laws.Encoding.rfwait (o : Sys2Proof.AForm) : Sys2Proof.Laws.Encoding.Statement (.rfwait o) :=
  Sys2Proof.Laws.encodesA 0xe4 0 .rfwait o rfl rfl rfl (by decide) (fun _ => rfl)
theorem Sys2Proof.Laws.Encoding.rfstat (o : Sys2Proof.AForm) : Sys2Proof.Laws.Encoding.Statement (.rfstat o) :=
  Sys2Proof.Laws.encodesA 0xe5 0 .rfstat o rfl rfl rfl (by decide) (fun _ => rfl)
theorem Sys2Proof.Laws.Encoding.mfs (o : Sys2Proof.AForm) : Sys2Proof.Laws.Encoding.Statement (.mfs o) :=
  Sys2Proof.Laws.encodesA 0xe8 0 .mfs o rfl rfl rfl (by decide) (fun _ => rfl)
theorem Sys2Proof.Laws.Encoding.mts (o : Sys2Proof.AForm) : Sys2Proof.Laws.Encoding.Statement (.mts o) :=
  Sys2Proof.Laws.encodesA 0xe8 1 .mts o rfl rfl rfl (by decide) (fun _ => rfl)
theorem Sys2Proof.Laws.Encoding.mtsset (o : Sys2Proof.AForm) : Sys2Proof.Laws.Encoding.Statement (.mtsset o) :=
  Sys2Proof.Laws.encodesA 0xe8 2 .mtsset o rfl rfl rfl (by decide) (fun _ => rfl)
theorem Sys2Proof.Laws.Encoding.mtsclr (o : Sys2Proof.AForm) : Sys2Proof.Laws.Encoding.Statement (.mtsclr o) :=
  Sys2Proof.Laws.encodesA 0xe8 3 .mtsclr o rfl rfl rfl (by decide) (fun _ => rfl)
theorem Sys2Proof.Laws.Encoding.tret (o : Sys2Proof.AForm) : Sys2Proof.Laws.Encoding.Statement (.tret o) :=
  Sys2Proof.Laws.encodesA 0xe9 0 .tret o rfl rfl rfl (by decide) (fun _ => rfl)
theorem Sys2Proof.Laws.Encoding.tmask (o : Sys2Proof.AForm) : Sys2Proof.Laws.Encoding.Statement (.tmask o) :=
  Sys2Proof.Laws.encodesA 0xe9 1 .tmask o rfl rfl rfl (by decide) (fun _ => rfl)
theorem Sys2Proof.Laws.Encoding.tunmask (o : Sys2Proof.AForm) : Sys2Proof.Laws.Encoding.Statement (.tunmask o) :=
  Sys2Proof.Laws.encodesA 0xe9 2 .tunmask o rfl rfl rfl (by decide) (fun _ => rfl)
theorem Sys2Proof.Laws.Encoding.tabort (o : Sys2Proof.AForm) : Sys2Proof.Laws.Encoding.Statement (.tabort o) :=
  Sys2Proof.Laws.encodesA 0xe9 3 .tabort o rfl rfl rfl (by decide) (fun _ => rfl)
theorem Sys2Proof.Laws.Encoding.tmplace (o : Sys2Proof.AForm) : Sys2Proof.Laws.Encoding.Statement (.tmplace o) :=
  Sys2Proof.Laws.encodesA 0xea 0 .tmplace o rfl rfl rfl (by decide) (fun _ => rfl)
theorem Sys2Proof.Laws.Encoding.tmsave (o : Sys2Proof.AForm) : Sys2Proof.Laws.Encoding.Statement (.tmsave o) :=
  Sys2Proof.Laws.encodesA 0xea 1 .tmsave o rfl rfl rfl (by decide) (fun _ => rfl)
theorem Sys2Proof.Laws.Encoding.tmrest (o : Sys2Proof.AForm) : Sys2Proof.Laws.Encoding.Statement (.tmrest o) :=
  Sys2Proof.Laws.encodesA 0xea 2 .tmrest o rfl rfl rfl (by decide) (fun _ => rfl)
theorem Sys2Proof.Laws.Encoding.tmflush (o : Sys2Proof.AForm) : Sys2Proof.Laws.Encoding.Statement (.tmflush o) :=
  Sys2Proof.Laws.encodesA 0xea 3 .tmflush o rfl rfl rfl (by decide) (fun _ => rfl)
theorem Sys2Proof.Laws.Encoding.tmkill (o : Sys2Proof.AForm) : Sys2Proof.Laws.Encoding.Statement (.tmkill o) :=
  Sys2Proof.Laws.encodesA 0xea 4 .tmkill o rfl rfl rfl (by decide) (fun _ => rfl)
theorem Sys2Proof.Laws.Encoding.tkclaim (o : Sys2Proof.AForm) : Sys2Proof.Laws.Encoding.Statement (.tkclaim o) :=
  Sys2Proof.Laws.encodesA 0xeb 0 .tkclaim o rfl rfl rfl (by decide) (fun _ => rfl)
theorem Sys2Proof.Laws.Encoding.tkdone (o : Sys2Proof.AForm) : Sys2Proof.Laws.Encoding.Statement (.tkdone o) :=
  Sys2Proof.Laws.encodesA 0xeb 1 .tkdone o rfl rfl rfl (by decide) (fun _ => rfl)
theorem Sys2Proof.Laws.Encoding.ftime (o : Sys2Proof.AForm) : Sys2Proof.Laws.Encoding.Statement (.ftime o) :=
  Sys2Proof.Laws.encodesA 0xec 0 .ftime o rfl rfl rfl (by decide) (fun _ => rfl)
theorem Sys2Proof.Laws.Encoding.fwidle (o : Sys2Proof.AForm) : Sys2Proof.Laws.Encoding.Statement (.fwidle o) :=
  Sys2Proof.Laws.encodesA 0xed 0 .fwidle o rfl rfl rfl (by decide) (fun _ => rfl)
theorem Sys2Proof.Laws.Encoding.fwsev (o : Sys2Proof.AForm) : Sys2Proof.Laws.Encoding.Statement (.fwsev o) :=
  Sys2Proof.Laws.encodesA 0xed 1 .fwsev o rfl rfl rfl (by decide) (fun _ => rfl)
theorem Sys2Proof.Laws.Encoding.qpost (o : Sys2Proof.AForm) : Sys2Proof.Laws.Encoding.Statement (.qpost o) :=
  Sys2Proof.Laws.encodesA 0xee 0 .qpost o rfl rfl rfl (by decide) (fun _ => rfl)
theorem Sys2Proof.Laws.Encoding.rdcyc (o : Sys2Proof.AForm) : Sys2Proof.Laws.Encoding.Statement (.rdcyc o) :=
  Sys2Proof.Laws.encodesA 0xef 0 .rdcyc o rfl rfl rfl (by decide) (fun _ => rfl)
theorem Sys2Proof.Laws.Encoding.lsreq (o : Sys2Proof.AForm) : Sys2Proof.Laws.Encoding.Statement (.lsreq o) :=
  Sys2Proof.Laws.encodesA 0xf0 0 .lsreq o rfl rfl rfl (by decide) (fun _ => rfl)
theorem Sys2Proof.Laws.Encoding.lsrenew (o : Sys2Proof.AForm) : Sys2Proof.Laws.Encoding.Statement (.lsrenew o) :=
  Sys2Proof.Laws.encodesA 0xf0 1 .lsrenew o rfl rfl rfl (by decide) (fun _ => rfl)
theorem Sys2Proof.Laws.Encoding.lsdrop (o : Sys2Proof.AForm) : Sys2Proof.Laws.Encoding.Statement (.lsdrop o) :=
  Sys2Proof.Laws.encodesA 0xf0 2 .lsdrop o rfl rfl rfl (by decide) (fun _ => rfl)
theorem Sys2Proof.Laws.Encoding.exlend (o : Sys2Proof.AForm) : Sys2Proof.Laws.Encoding.Statement (.exlend o) :=
  Sys2Proof.Laws.encodesA 0xf1 0 .exlend o rfl rfl rfl (by decide) (fun _ => rfl)
theorem Sys2Proof.Laws.Encoding.lsrecall (o : Sys2Proof.AForm) : Sys2Proof.Laws.Encoding.Statement (.lsrecall o) :=
  Sys2Proof.Laws.encodesA 0xf1 1 .lsrecall o rfl rfl rfl (by decide) (fun _ => rfl)
theorem Sys2Proof.Laws.Encoding.lsrd (o : Sys2Proof.AForm) : Sys2Proof.Laws.Encoding.Statement (.lsrd o) :=
  Sys2Proof.Laws.encodesA 0xf2 0 .lsrd o rfl rfl rfl (by decide) (fun _ => rfl)
theorem Sys2Proof.Laws.Encoding.kyopen (o : Sys2Proof.AForm) : Sys2Proof.Laws.Encoding.Statement (.kyopen o) :=
  Sys2Proof.Laws.encodesA 0xf3 0 .kyopen o rfl rfl rfl (by decide) (fun _ => rfl)
theorem Sys2Proof.Laws.Encoding.kyclose (o : Sys2Proof.AForm) : Sys2Proof.Laws.Encoding.Statement (.kyclose o) :=
  Sys2Proof.Laws.encodesA 0xf3 1 .kyclose o rfl rfl rfl (by decide) (fun _ => rfl)
theorem Sys2Proof.Laws.Encoding.fmcand (o : Sys2Proof.LForm) : Sys2Proof.Laws.Encoding.Statement (.fmcand o) :=
  Sys2Proof.Laws.encodesL 0xf4 0 .fmcand o rfl rfl rfl (by decide) (fun _ => rfl)
theorem Sys2Proof.Laws.Encoding.exmig (o : Sys2Proof.XForm) : Sys2Proof.Laws.Encoding.Statement (.exmig o) :=
  Sys2Proof.Laws.encodesX 0xf5 0 .exmig o rfl rfl rfl (by decide) (fun _ => rfl)
theorem Sys2Proof.Laws.Encoding.twlV (vd rs1 rs2 : BitVec 5) : Sys2Proof.Laws.Encoding.Statement (.twlV vd rs1 rs2) := Sys2Proof.Laws.encodesNone _ rfl
theorem Sys2Proof.Laws.Encoding.pauseExpiry (core slot lane : Nat) : Sys2Proof.Laws.Encoding.Statement (.pauseExpiry core slot lane) := Sys2Proof.Laws.encodesNone _ rfl
theorem Sys2Proof.Laws.Encoding.joinRelease (core slot entry : Nat) : Sys2Proof.Laws.Encoding.Statement (.joinRelease core slot entry) := Sys2Proof.Laws.encodesNone _ rfl
theorem Sys2Proof.Laws.Encoding.laneCollectiveCompletion (core slot idx : Nat) : Sys2Proof.Laws.Encoding.Statement (.laneCollectiveCompletion core slot idx) := Sys2Proof.Laws.encodesNone _ rfl
theorem Sys2Proof.Laws.Encoding.parkedSubgroupReplay (core slot idx : Nat) : Sys2Proof.Laws.Encoding.Statement (.parkedSubgroupReplay core slot idx) := Sys2Proof.Laws.encodesNone _ rfl
theorem Sys2Proof.Laws.Encoding.deferredResultArrival (core idx : Nat) : Sys2Proof.Laws.Encoding.Statement (.deferredResultArrival core idx) := Sys2Proof.Laws.encodesNone _ rfl
theorem Sys2Proof.Laws.Encoding.storeQueueDrain (core slot : Nat) : Sys2Proof.Laws.Encoding.Statement (.storeQueueDrain core slot) := Sys2Proof.Laws.encodesNone _ rfl
theorem Sys2Proof.Laws.Encoding.storePerformed (core idx : Nat) : Sys2Proof.Laws.Encoding.Statement (.storePerformed core idx) := Sys2Proof.Laws.encodesNone _ rfl
theorem Sys2Proof.Laws.Encoding.holdExpiry (idx : Nat) : Sys2Proof.Laws.Encoding.Statement (.holdExpiry idx) := Sys2Proof.Laws.encodesNone _ rfl
theorem Sys2Proof.Laws.Encoding.writeAfterHolds (core idx : Nat) : Sys2Proof.Laws.Encoding.Statement (.writeAfterHolds core idx) := Sys2Proof.Laws.encodesNone _ rfl
theorem Sys2Proof.Laws.Encoding.larderRefreshWindow (die group : Nat) (enter : Bool) : Sys2Proof.Laws.Encoding.Statement (.larderRefreshWindow die group enter) := Sys2Proof.Laws.encodesNone _ rfl
theorem Sys2Proof.Laws.Encoding.hgenIncrement (die : Nat) : Sys2Proof.Laws.Encoding.Statement (.hgenIncrement die) := Sys2Proof.Laws.encodesNone _ rfl
theorem Sys2Proof.Laws.Encoding.coreRetentionWake (core : Nat) : Sys2Proof.Laws.Encoding.Statement (.coreRetentionWake core) := Sys2Proof.Laws.encodesNone _ rfl
theorem Sys2Proof.Laws.Encoding.ptpCorrection (offset : Int) : Sys2Proof.Laws.Encoding.Statement (.ptpCorrection offset) := Sys2Proof.Laws.encodesNone _ rfl
theorem Sys2Proof.Laws.Encoding.powerLimitWindow (milliwatts : Nat) : Sys2Proof.Laws.Encoding.Statement (.powerLimitWindow milliwatts) := Sys2Proof.Laws.encodesNone _ rfl
theorem Sys2Proof.Laws.Encoding.tileDirectoryRequest (idx : Nat) : Sys2Proof.Laws.Encoding.Statement (.tileDirectoryRequest idx) := Sys2Proof.Laws.encodesNone _ rfl
theorem Sys2Proof.Laws.Encoding.atomicPerform (core idx : Nat) : Sys2Proof.Laws.Encoding.Statement (.atomicPerform core idx) := Sys2Proof.Laws.encodesNone _ rfl
theorem Sys2Proof.Laws.Encoding.speculativeRollback (core slot lane : Nat) : Sys2Proof.Laws.Encoding.Statement (.speculativeRollback core slot lane) := Sys2Proof.Laws.encodesNone _ rfl
theorem Sys2Proof.Laws.Encoding.waitvReread (core slot lane : Nat) : Sys2Proof.Laws.Encoding.Statement (.waitvReread core slot lane) := Sys2Proof.Laws.encodesNone _ rfl
theorem Sys2Proof.Laws.Encoding.gangBarrierRelease (gang bar : Nat) : Sys2Proof.Laws.Encoding.Statement (.gangBarrierRelease gang bar) := Sys2Proof.Laws.encodesNone _ rfl
theorem Sys2Proof.Laws.Encoding.syncEngineUpdate (core idx : Nat) : Sys2Proof.Laws.Encoding.Statement (.syncEngineUpdate core idx) := Sys2Proof.Laws.encodesNone _ rfl
theorem Sys2Proof.Laws.Encoding.matrixCommandStart (core idx : Nat) : Sys2Proof.Laws.Encoding.Statement (.matrixCommandStart core idx) := Sys2Proof.Laws.encodesNone _ rfl
theorem Sys2Proof.Laws.Encoding.matrixBlockDone (core idx : Nat) : Sys2Proof.Laws.Encoding.Statement (.matrixBlockDone core idx) := Sys2Proof.Laws.encodesNone _ rfl
theorem Sys2Proof.Laws.Encoding.matrixCommandComplete (core idx : Nat) : Sys2Proof.Laws.Encoding.Statement (.matrixCommandComplete core idx) := Sys2Proof.Laws.encodesNone _ rfl
theorem Sys2Proof.Laws.Encoding.engineCommandStart (core idx : Nat) : Sys2Proof.Laws.Encoding.Statement (.engineCommandStart core idx) := Sys2Proof.Laws.encodesNone _ rfl
theorem Sys2Proof.Laws.Encoding.engineUnitStart (core idx : Nat) : Sys2Proof.Laws.Encoding.Statement (.engineUnitStart core idx) := Sys2Proof.Laws.encodesNone _ rfl
theorem Sys2Proof.Laws.Encoding.engineUnitPerformed (core buf : Nat) : Sys2Proof.Laws.Encoding.Statement (.engineUnitPerformed core buf) := Sys2Proof.Laws.encodesNone _ rfl
theorem Sys2Proof.Laws.Encoding.refineBlockStart (die : Nat) : Sys2Proof.Laws.Encoding.Statement (.refineBlockStart die) := Sys2Proof.Laws.encodesNone _ rfl
theorem Sys2Proof.Laws.Encoding.refineItemEnd (die : Nat) : Sys2Proof.Laws.Encoding.Statement (.refineItemEnd die) := Sys2Proof.Laws.encodesNone _ rfl
theorem Sys2Proof.Laws.Encoding.refineBlockEnd (die : Nat) : Sys2Proof.Laws.Encoding.Statement (.refineBlockEnd die) := Sys2Proof.Laws.encodesNone _ rfl
theorem Sys2Proof.Laws.Encoding.refineTrapDelivery (idx : Nat) : Sys2Proof.Laws.Encoding.Statement (.refineTrapDelivery idx) := Sys2Proof.Laws.encodesNone _ rfl
theorem Sys2Proof.Laws.Encoding.handlerWatchdogExpiry (core slot : Nat) : Sys2Proof.Laws.Encoding.Statement (.handlerWatchdogExpiry core slot) := Sys2Proof.Laws.encodesNone _ rfl
theorem Sys2Proof.Laws.Encoding.fltRec0Read (core : Nat) : Sys2Proof.Laws.Encoding.Statement (.fltRec0Read core) := Sys2Proof.Laws.encodesNone _ rfl
theorem Sys2Proof.Laws.Encoding.efltRec0Read (core : Nat) : Sys2Proof.Laws.Encoding.Statement (.efltRec0Read core) := Sys2Proof.Laws.encodesNone _ rfl
theorem Sys2Proof.Laws.Encoding.fltAck (core : Nat) (value : DWord) : Sys2Proof.Laws.Encoding.Statement (.fltAck core value) := Sys2Proof.Laws.encodesNone _ rfl
theorem Sys2Proof.Laws.Encoding.efltAck (core : Nat) (value : DWord) : Sys2Proof.Laws.Encoding.Statement (.efltAck core value) := Sys2Proof.Laws.encodesNone _ rfl
theorem Sys2Proof.Laws.Encoding.trPpcWrite (core slot : Nat) : Sys2Proof.Laws.Encoding.Statement (.trPpcWrite core slot) := Sys2Proof.Laws.encodesNone _ rfl
theorem Sys2Proof.Laws.Encoding.registerWrite (addr : Nat) (value : DWord) : Sys2Proof.Laws.Encoding.Statement (.registerWrite addr value) := Sys2Proof.Laws.encodesNone _ rfl
theorem Sys2Proof.Laws.Encoding.queueDescriptorWrite (queue word : Nat) (value : DWord) : Sys2Proof.Laws.Encoding.Statement (.queueDescriptorWrite queue word value) := Sys2Proof.Laws.encodesNone _ rfl
theorem Sys2Proof.Laws.Encoding.queueActivate (queue : Nat) : Sys2Proof.Laws.Encoding.Statement (.queueActivate queue) := Sys2Proof.Laws.encodesNone _ rfl
theorem Sys2Proof.Laws.Encoding.queueDestroy (queue : Nat) : Sys2Proof.Laws.Encoding.Statement (.queueDestroy queue) := Sys2Proof.Laws.encodesNone _ rfl
theorem Sys2Proof.Laws.Encoding.queueNotify (queue : Nat) : Sys2Proof.Laws.Encoding.Statement (.queueNotify queue) := Sys2Proof.Laws.encodesNone _ rfl
theorem Sys2Proof.Laws.Encoding.partmapWrite (idx : Nat) (value : DWord) : Sys2Proof.Laws.Encoding.Statement (.partmapWrite idx value) := Sys2Proof.Laws.encodesNone _ rfl
theorem Sys2Proof.Laws.Encoding.leasectlWrite (value : DWord) : Sys2Proof.Laws.Encoding.Statement (.leasectlWrite value) := Sys2Proof.Laws.encodesNone _ rfl
theorem Sys2Proof.Laws.Encoding.gangPlacement (queue : Nat) : Sys2Proof.Laws.Encoding.Statement (.gangPlacement queue) := Sys2Proof.Laws.encodesNone _ rfl
theorem Sys2Proof.Laws.Encoding.gangStartRelease (gang : Nat) : Sys2Proof.Laws.Encoding.Statement (.gangStartRelease gang) := Sys2Proof.Laws.encodesNone _ rfl
theorem Sys2Proof.Laws.Encoding.headAging (queue : Nat) : Sys2Proof.Laws.Encoding.Statement (.headAging queue) := Sys2Proof.Laws.encodesNone _ rfl
theorem Sys2Proof.Laws.Encoding.ticketRetire (partition : Nat) : Sys2Proof.Laws.Encoding.Statement (.ticketRetire partition) := Sys2Proof.Laws.encodesNone _ rfl
theorem Sys2Proof.Laws.Encoding.journalTakeover (thread : Nat) : Sys2Proof.Laws.Encoding.Statement (.journalTakeover thread) := Sys2Proof.Laws.encodesNone _ rfl
theorem Sys2Proof.Laws.Encoding.sliceExpiry (core team : Nat) : Sys2Proof.Laws.Encoding.Statement (.sliceExpiry core team) := Sys2Proof.Laws.encodesNone _ rfl
theorem Sys2Proof.Laws.Encoding.urgentPreemptionTimeout (core team : Nat) : Sys2Proof.Laws.Encoding.Statement (.urgentPreemptionTimeout core team) := Sys2Proof.Laws.encodesNone _ rfl
theorem Sys2Proof.Laws.Encoding.preemptionRequest (core team : Nat) : Sys2Proof.Laws.Encoding.Statement (.preemptionRequest core team) := Sys2Proof.Laws.encodesNone _ rfl
theorem Sys2Proof.Laws.Encoding.drainTimeout (core team : Nat) : Sys2Proof.Laws.Encoding.Statement (.drainTimeout core team) := Sys2Proof.Laws.encodesNone _ rfl
theorem Sys2Proof.Laws.Encoding.teamCompletion (core team : Nat) : Sys2Proof.Laws.Encoding.Statement (.teamCompletion core team) := Sys2Proof.Laws.encodesNone _ rfl
theorem Sys2Proof.Laws.Encoding.leaseRequestReceived (msg : LeaseMsg) : Sys2Proof.Laws.Encoding.Statement (.leaseRequestReceived msg) := Sys2Proof.Laws.encodesNone _ rfl
theorem Sys2Proof.Laws.Encoding.leaseGrantReceived (msg : LeaseMsg) : Sys2Proof.Laws.Encoding.Statement (.leaseGrantReceived msg) := Sys2Proof.Laws.encodesNone _ rfl
theorem Sys2Proof.Laws.Encoding.leaseReplyTimeout (entry : Nat) : Sys2Proof.Laws.Encoding.Statement (.leaseReplyTimeout entry) := Sys2Proof.Laws.encodesNone _ rfl
theorem Sys2Proof.Laws.Encoding.borrowerLeaseEnd (entry : Nat) : Sys2Proof.Laws.Encoding.Statement (.borrowerLeaseEnd entry) := Sys2Proof.Laws.encodesNone _ rfl
theorem Sys2Proof.Laws.Encoding.endingWritebackDone (entry : Nat) : Sys2Proof.Laws.Encoding.Statement (.endingWritebackDone entry) := Sys2Proof.Laws.encodesNone _ rfl
theorem Sys2Proof.Laws.Encoding.leaseRevokeReceived (entry : Nat) : Sys2Proof.Laws.Encoding.Statement (.leaseRevokeReceived entry) := Sys2Proof.Laws.encodesNone _ rfl
theorem Sys2Proof.Laws.Encoding.lenderTermExpiry (extent : Nat) : Sys2Proof.Laws.Encoding.Statement (.lenderTermExpiry extent) := Sys2Proof.Laws.encodesNone _ rfl
theorem Sys2Proof.Laws.Encoding.leaseReleaseReceived (extent : Nat) : Sys2Proof.Laws.Encoding.Statement (.leaseReleaseReceived extent) := Sys2Proof.Laws.encodesNone _ rfl
theorem Sys2Proof.Laws.Encoding.backInvalidateSnoop (entry line : Nat) : Sys2Proof.Laws.Encoding.Statement (.backInvalidateSnoop entry line) := Sys2Proof.Laws.encodesNone _ rfl
theorem Sys2Proof.Laws.Encoding.recallCommit (extent : Nat) : Sys2Proof.Laws.Encoding.Statement (.recallCommit extent) := Sys2Proof.Laws.encodesNone _ rfl
theorem Sys2Proof.Laws.Encoding.leaseKeepalive (peer : Nat) (received : Bool) : Sys2Proof.Laws.Encoding.Statement (.leaseKeepalive peer received) := Sys2Proof.Laws.encodesNone _ rfl
theorem Sys2Proof.Laws.Encoding.peerSilent (peer : Nat) : Sys2Proof.Laws.Encoding.Statement (.peerSilent peer) := Sys2Proof.Laws.encodesNone _ rfl
theorem Sys2Proof.Laws.Encoding.lenderRequestTimeout (core idx : Nat) : Sys2Proof.Laws.Encoding.Statement (.lenderRequestTimeout core idx) := Sys2Proof.Laws.encodesNone _ rfl
theorem Sys2Proof.Laws.Encoding.fmRoleLeaseRenew (acks : Nat) : Sys2Proof.Laws.Encoding.Statement (.fmRoleLeaseRenew acks) := Sys2Proof.Laws.encodesNone _ rfl
theorem Sys2Proof.Laws.Encoding.garefWindowAdvertise (port channel flits : Nat) : Sys2Proof.Laws.Encoding.Statement (.garefWindowAdvertise port channel flits) := Sys2Proof.Laws.encodesNone _ rfl
theorem Sys2Proof.Laws.Encoding.garefPause (port channel : Nat) (pause : Bool) : Sys2Proof.Laws.Encoding.Statement (.garefPause port channel pause) := Sys2Proof.Laws.encodesNone _ rfl
theorem Sys2Proof.Laws.Encoding.garefFlitReceive (port seq : Nat) (good : Bool) : Sys2Proof.Laws.Encoding.Statement (.garefFlitReceive port seq good) := Sys2Proof.Laws.encodesNone _ rfl
theorem Sys2Proof.Laws.Encoding.garefLinkDown (port : Nat) : Sys2Proof.Laws.Encoding.Statement (.garefLinkDown port) := Sys2Proof.Laws.encodesNone _ rfl
theorem Sys2Proof.Laws.Encoding.hostCacheRequest (port line : Nat) (modify : Bool) : Sys2Proof.Laws.Encoding.Statement (.hostCacheRequest port line modify) := Sys2Proof.Laws.encodesNone _ rfl
theorem Sys2Proof.Laws.Encoding.ethernetFrameReceive (port : Nat) (frame : List Byte) (fcs : Bool) (stamp : DWord) : Sys2Proof.Laws.Encoding.Statement (.ethernetFrameReceive port frame fcs stamp) := Sys2Proof.Laws.encodesNone _ rfl
theorem Sys2Proof.Laws.Encoding.firmwareImageUpdate (image : Nat) (classical postQuantum : Bool) : Sys2Proof.Laws.Encoding.Statement (.firmwareImageUpdate image classical postQuantum) := Sys2Proof.Laws.encodesNone _ rfl
theorem Sys2Proof.Laws.Encoding.spdmMeasurementRequest (port : Nat) : Sys2Proof.Laws.Encoding.Statement (.spdmMeasurementRequest port) := Sys2Proof.Laws.encodesNone _ rfl
theorem Sys2Proof.Laws.Encoding.coldStart  : Sys2Proof.Laws.Encoding.Statement (.coldStart ) := Sys2Proof.Laws.encodesNone _ rfl
theorem Sys2Proof.Laws.Encoding.warmStart  : Sys2Proof.Laws.Encoding.Statement (.warmStart ) := Sys2Proof.Laws.encodesNone _ rfl
theorem Sys2Proof.Laws.Encoding.telemetryFlush (orderly : Bool) : Sys2Proof.Laws.Encoding.Statement (.telemetryFlush orderly) := Sys2Proof.Laws.encodesNone _ rfl
theorem Sys2Proof.Laws.Encoding.unassignedOpcodeIssue (word : DWord) : Sys2Proof.Laws.Encoding.Statement (.unassignedOpcodeIssue word) := Sys2Proof.Laws.encodesNone _ rfl
theorem Sys2Proof.Laws.Encoding.fabricEnumeration (pkg : Nat) : Sys2Proof.Laws.Encoding.Statement (.fabricEnumeration pkg) := Sys2Proof.Laws.encodesNone _ rfl
theorem Sys2Proof.Laws.Encoding.coreRetentionSleep (core : Nat) : Sys2Proof.Laws.Encoding.Statement (.coreRetentionSleep core) := Sys2Proof.Laws.encodesNone _ rfl
theorem Sys2Proof.Laws.Encoding.peerAccessArrival (req : PeerReq) : Sys2Proof.Laws.Encoding.Statement (.peerAccessArrival req) := Sys2Proof.Laws.encodesNone _ rfl
theorem Sys2Proof.Laws.Encoding.fmRoleLeaseExpiry  : Sys2Proof.Laws.Encoding.Statement (.fmRoleLeaseExpiry ) := Sys2Proof.Laws.encodesNone _ rfl
theorem Sys2Proof.Laws.Encoding.garefRetrainComplete (port : Nat) : Sys2Proof.Laws.Encoding.Statement (.garefRetrainComplete port) := Sys2Proof.Laws.encodesNone _ rfl
theorem Sys2Proof.Laws.Encoding.savedTeamRestore (idx : Nat) : Sys2Proof.Laws.Encoding.Statement (.savedTeamRestore idx) := Sys2Proof.Laws.encodesNone _ rfl
end

