-- ==== Sys2Proof/Laws/State.lean ====
section
/-! SUPPORT. What an update of one part of the state leaves of every other part: for each update one law, a
conjunction with one equation per field, each true by unfolding. -/

namespace Sys2Proof.Machine

@[simp] theorem State.setCore_fields (s : State) (c : Nat) (k : Core) :
    (s.setCore c k).mem = s.mem ∧
    (s.setCore c k).poison = s.poison ∧
    (s.setCore c k).dies = s.dies ∧
    (s.setCore c k).pkg = s.pkg ∧
    (s.setCore c k).enumerated = s.enumerated ∧
    (s.setCore c k).time = s.time ∧
    (s.setCore c k).cycles = s.cycles ∧
    (s.setCore c k).tick = s.tick ∧
    (s.setCore c k).free = s.free ∧
    (s.setCore c k).agenda = s.agenda ∧
    (s.setCore c k).cur = s.cur ∧
    (s.setCore c k).lastCore = s.lastCore ∧
    (s.setCore c k).contexts = s.contexts ∧
    (s.setCore c k).tags = s.tags ∧
    (s.setCore c k).holds = s.holds ∧
    (s.setCore c k).writeWaits = s.writeWaits ∧
    (s.setCore c k).dirs = s.dirs ∧
    (s.setCore c k).dirReqs = s.dirReqs ∧
    (s.setCore c k).lenders = s.lenders ∧
    (s.setCore c k).borrowers = s.borrowers ∧
    (s.setCore c k).lendable = s.lendable ∧
    (s.setCore c k).peers = s.peers ∧
    (s.setCore c k).snoops = s.snoops ∧
    (s.setCore c k).lcache = s.lcache ∧
    (s.setCore c k).leasectl = s.leasectl ∧
    (s.setCore c k).queues = s.queues ∧
    (s.setCore c k).launches = s.launches ∧
    (s.setCore c k).gangs = s.gangs ∧
    (s.setCore c k).sched = s.sched ∧
    (s.setCore c k).nextId = s.nextId ∧
    (s.setCore c k).qpsaveb = s.qpsaveb ∧
    (s.setCore c k).qpsavel = s.qpsavel ∧
    (s.setCore c k).qptkc = s.qptkc ∧
    (s.setCore c k).posted = s.posted ∧
    (s.setCore c k).tampered = s.tampered ∧
    (s.setCore c k).kept = s.kept ∧
    (s.setCore c k).partmap = s.partmap ∧
    (s.setCore c k).devregs = s.devregs ∧
    (s.setCore c k).saved = s.saved ∧
    (s.setCore c k).fm = s.fm ∧
    (s.setCore c k).garef = s.garef ∧
    (s.setCore c k).ether = s.ether ∧
    (s.setCore c k).keys = s.keys ∧
    (s.setCore c k).windows = s.windows ∧
    (s.setCore c k).houses = s.houses ∧
    (s.setCore c k).image = s.image ∧
    (s.setCore c k).activated = s.activated ∧
    (s.setCore c k).spdm = s.spdm ∧
    (s.setCore c k).counters = s.counters ∧
    (s.setCore c k).flash = s.flash ∧
    (s.setCore c k).flushed = s.flushed ∧
    (s.setCore c k).booted = s.booted ∧
    (s.setCore c k).powerLimit = s.powerLimit ∧
    (s.setCore c k).idling = s.idling ∧
    (s.setCore c k).arrivals = s.arrivals ∧
    (s.setCore c k).frames = s.frames ∧
    (s.setCore c k).hostReqs = s.hostReqs ∧
    (s.setCore c k).sent = s.sent ∧
    (s.setCore c k).reports = s.reports :=
  ⟨rfl, rfl, rfl, rfl, rfl, rfl, rfl, rfl, rfl, rfl, rfl, rfl, rfl, rfl, rfl, rfl, rfl, rfl, rfl, rfl, rfl, rfl, rfl, rfl, rfl, rfl, rfl, rfl, rfl, rfl, rfl, rfl, rfl, rfl, rfl, rfl, rfl, rfl, rfl, rfl, rfl, rfl, rfl, rfl, rfl, rfl, rfl, rfl, rfl, rfl, rfl, rfl, rfl, rfl, rfl, rfl, rfl, rfl, rfl⟩

@[simp] theorem State.modCore_fields (s : State) (c : Nat) (g : Core → Core) :
    (s.modCore c g).mem = s.mem ∧
    (s.modCore c g).poison = s.poison ∧
    (s.modCore c g).dies = s.dies ∧
    (s.modCore c g).pkg = s.pkg ∧
    (s.modCore c g).enumerated = s.enumerated ∧
    (s.modCore c g).time = s.time ∧
    (s.modCore c g).cycles = s.cycles ∧
    (s.modCore c g).tick = s.tick ∧
    (s.modCore c g).free = s.free ∧
    (s.modCore c g).agenda = s.agenda ∧
    (s.modCore c g).cur = s.cur ∧
    (s.modCore c g).lastCore = s.lastCore ∧
    (s.modCore c g).contexts = s.contexts ∧
    (s.modCore c g).tags = s.tags ∧
    (s.modCore c g).holds = s.holds ∧
    (s.modCore c g).writeWaits = s.writeWaits ∧
    (s.modCore c g).dirs = s.dirs ∧
    (s.modCore c g).dirReqs = s.dirReqs ∧
    (s.modCore c g).lenders = s.lenders ∧
    (s.modCore c g).borrowers = s.borrowers ∧
    (s.modCore c g).lendable = s.lendable ∧
    (s.modCore c g).peers = s.peers ∧
    (s.modCore c g).snoops = s.snoops ∧
    (s.modCore c g).lcache = s.lcache ∧
    (s.modCore c g).leasectl = s.leasectl ∧
    (s.modCore c g).queues = s.queues ∧
    (s.modCore c g).launches = s.launches ∧
    (s.modCore c g).gangs = s.gangs ∧
    (s.modCore c g).sched = s.sched ∧
    (s.modCore c g).nextId = s.nextId ∧
    (s.modCore c g).qpsaveb = s.qpsaveb ∧
    (s.modCore c g).qpsavel = s.qpsavel ∧
    (s.modCore c g).qptkc = s.qptkc ∧
    (s.modCore c g).posted = s.posted ∧
    (s.modCore c g).tampered = s.tampered ∧
    (s.modCore c g).kept = s.kept ∧
    (s.modCore c g).partmap = s.partmap ∧
    (s.modCore c g).devregs = s.devregs ∧
    (s.modCore c g).saved = s.saved ∧
    (s.modCore c g).fm = s.fm ∧
    (s.modCore c g).garef = s.garef ∧
    (s.modCore c g).ether = s.ether ∧
    (s.modCore c g).keys = s.keys ∧
    (s.modCore c g).windows = s.windows ∧
    (s.modCore c g).houses = s.houses ∧
    (s.modCore c g).image = s.image ∧
    (s.modCore c g).activated = s.activated ∧
    (s.modCore c g).spdm = s.spdm ∧
    (s.modCore c g).counters = s.counters ∧
    (s.modCore c g).flash = s.flash ∧
    (s.modCore c g).flushed = s.flushed ∧
    (s.modCore c g).booted = s.booted ∧
    (s.modCore c g).powerLimit = s.powerLimit ∧
    (s.modCore c g).idling = s.idling ∧
    (s.modCore c g).arrivals = s.arrivals ∧
    (s.modCore c g).frames = s.frames ∧
    (s.modCore c g).hostReqs = s.hostReqs ∧
    (s.modCore c g).sent = s.sent ∧
    (s.modCore c g).reports = s.reports :=
  ⟨rfl, rfl, rfl, rfl, rfl, rfl, rfl, rfl, rfl, rfl, rfl, rfl, rfl, rfl, rfl, rfl, rfl, rfl, rfl, rfl, rfl, rfl, rfl, rfl, rfl, rfl, rfl, rfl, rfl, rfl, rfl, rfl, rfl, rfl, rfl, rfl, rfl, rfl, rfl, rfl, rfl, rfl, rfl, rfl, rfl, rfl, rfl, rfl, rfl, rfl, rfl, rfl, rfl, rfl, rfl, rfl, rfl, rfl, rfl⟩

@[simp] theorem State.setWeave_fields (s : State) (c w : Nat) (x : Weave) :
    (s.setWeave c w x).mem = s.mem ∧
    (s.setWeave c w x).poison = s.poison ∧
    (s.setWeave c w x).dies = s.dies ∧
    (s.setWeave c w x).pkg = s.pkg ∧
    (s.setWeave c w x).enumerated = s.enumerated ∧
    (s.setWeave c w x).time = s.time ∧
    (s.setWeave c w x).cycles = s.cycles ∧
    (s.setWeave c w x).tick = s.tick ∧
    (s.setWeave c w x).free = s.free ∧
    (s.setWeave c w x).agenda = s.agenda ∧
    (s.setWeave c w x).cur = s.cur ∧
    (s.setWeave c w x).lastCore = s.lastCore ∧
    (s.setWeave c w x).contexts = s.contexts ∧
    (s.setWeave c w x).tags = s.tags ∧
    (s.setWeave c w x).holds = s.holds ∧
    (s.setWeave c w x).writeWaits = s.writeWaits ∧
    (s.setWeave c w x).dirs = s.dirs ∧
    (s.setWeave c w x).dirReqs = s.dirReqs ∧
    (s.setWeave c w x).lenders = s.lenders ∧
    (s.setWeave c w x).borrowers = s.borrowers ∧
    (s.setWeave c w x).lendable = s.lendable ∧
    (s.setWeave c w x).peers = s.peers ∧
    (s.setWeave c w x).snoops = s.snoops ∧
    (s.setWeave c w x).lcache = s.lcache ∧
    (s.setWeave c w x).leasectl = s.leasectl ∧
    (s.setWeave c w x).queues = s.queues ∧
    (s.setWeave c w x).launches = s.launches ∧
    (s.setWeave c w x).gangs = s.gangs ∧
    (s.setWeave c w x).sched = s.sched ∧
    (s.setWeave c w x).nextId = s.nextId ∧
    (s.setWeave c w x).qpsaveb = s.qpsaveb ∧
    (s.setWeave c w x).qpsavel = s.qpsavel ∧
    (s.setWeave c w x).qptkc = s.qptkc ∧
    (s.setWeave c w x).posted = s.posted ∧
    (s.setWeave c w x).tampered = s.tampered ∧
    (s.setWeave c w x).kept = s.kept ∧
    (s.setWeave c w x).partmap = s.partmap ∧
    (s.setWeave c w x).devregs = s.devregs ∧
    (s.setWeave c w x).saved = s.saved ∧
    (s.setWeave c w x).fm = s.fm ∧
    (s.setWeave c w x).garef = s.garef ∧
    (s.setWeave c w x).ether = s.ether ∧
    (s.setWeave c w x).keys = s.keys ∧
    (s.setWeave c w x).windows = s.windows ∧
    (s.setWeave c w x).houses = s.houses ∧
    (s.setWeave c w x).image = s.image ∧
    (s.setWeave c w x).activated = s.activated ∧
    (s.setWeave c w x).spdm = s.spdm ∧
    (s.setWeave c w x).counters = s.counters ∧
    (s.setWeave c w x).flash = s.flash ∧
    (s.setWeave c w x).flushed = s.flushed ∧
    (s.setWeave c w x).booted = s.booted ∧
    (s.setWeave c w x).powerLimit = s.powerLimit ∧
    (s.setWeave c w x).idling = s.idling ∧
    (s.setWeave c w x).arrivals = s.arrivals ∧
    (s.setWeave c w x).frames = s.frames ∧
    (s.setWeave c w x).hostReqs = s.hostReqs ∧
    (s.setWeave c w x).sent = s.sent ∧
    (s.setWeave c w x).reports = s.reports :=
  ⟨rfl, rfl, rfl, rfl, rfl, rfl, rfl, rfl, rfl, rfl, rfl, rfl, rfl, rfl, rfl, rfl, rfl, rfl, rfl, rfl, rfl, rfl, rfl, rfl, rfl, rfl, rfl, rfl, rfl, rfl, rfl, rfl, rfl, rfl, rfl, rfl, rfl, rfl, rfl, rfl, rfl, rfl, rfl, rfl, rfl, rfl, rfl, rfl, rfl, rfl, rfl, rfl, rfl, rfl, rfl, rfl, rfl, rfl, rfl⟩

@[simp] theorem State.modWeave_fields (s : State) (c w : Nat) (g : Weave → Weave) :
    (s.modWeave c w g).mem = s.mem ∧
    (s.modWeave c w g).poison = s.poison ∧
    (s.modWeave c w g).dies = s.dies ∧
    (s.modWeave c w g).pkg = s.pkg ∧
    (s.modWeave c w g).enumerated = s.enumerated ∧
    (s.modWeave c w g).time = s.time ∧
    (s.modWeave c w g).cycles = s.cycles ∧
    (s.modWeave c w g).tick = s.tick ∧
    (s.modWeave c w g).free = s.free ∧
    (s.modWeave c w g).agenda = s.agenda ∧
    (s.modWeave c w g).cur = s.cur ∧
    (s.modWeave c w g).lastCore = s.lastCore ∧
    (s.modWeave c w g).contexts = s.contexts ∧
    (s.modWeave c w g).tags = s.tags ∧
    (s.modWeave c w g).holds = s.holds ∧
    (s.modWeave c w g).writeWaits = s.writeWaits ∧
    (s.modWeave c w g).dirs = s.dirs ∧
    (s.modWeave c w g).dirReqs = s.dirReqs ∧
    (s.modWeave c w g).lenders = s.lenders ∧
    (s.modWeave c w g).borrowers = s.borrowers ∧
    (s.modWeave c w g).lendable = s.lendable ∧
    (s.modWeave c w g).peers = s.peers ∧
    (s.modWeave c w g).snoops = s.snoops ∧
    (s.modWeave c w g).lcache = s.lcache ∧
    (s.modWeave c w g).leasectl = s.leasectl ∧
    (s.modWeave c w g).queues = s.queues ∧
    (s.modWeave c w g).launches = s.launches ∧
    (s.modWeave c w g).gangs = s.gangs ∧
    (s.modWeave c w g).sched = s.sched ∧
    (s.modWeave c w g).nextId = s.nextId ∧
    (s.modWeave c w g).qpsaveb = s.qpsaveb ∧
    (s.modWeave c w g).qpsavel = s.qpsavel ∧
    (s.modWeave c w g).qptkc = s.qptkc ∧
    (s.modWeave c w g).posted = s.posted ∧
    (s.modWeave c w g).tampered = s.tampered ∧
    (s.modWeave c w g).kept = s.kept ∧
    (s.modWeave c w g).partmap = s.partmap ∧
    (s.modWeave c w g).devregs = s.devregs ∧
    (s.modWeave c w g).saved = s.saved ∧
    (s.modWeave c w g).fm = s.fm ∧
    (s.modWeave c w g).garef = s.garef ∧
    (s.modWeave c w g).ether = s.ether ∧
    (s.modWeave c w g).keys = s.keys ∧
    (s.modWeave c w g).windows = s.windows ∧
    (s.modWeave c w g).houses = s.houses ∧
    (s.modWeave c w g).image = s.image ∧
    (s.modWeave c w g).activated = s.activated ∧
    (s.modWeave c w g).spdm = s.spdm ∧
    (s.modWeave c w g).counters = s.counters ∧
    (s.modWeave c w g).flash = s.flash ∧
    (s.modWeave c w g).flushed = s.flushed ∧
    (s.modWeave c w g).booted = s.booted ∧
    (s.modWeave c w g).powerLimit = s.powerLimit ∧
    (s.modWeave c w g).idling = s.idling ∧
    (s.modWeave c w g).arrivals = s.arrivals ∧
    (s.modWeave c w g).frames = s.frames ∧
    (s.modWeave c w g).hostReqs = s.hostReqs ∧
    (s.modWeave c w g).sent = s.sent ∧
    (s.modWeave c w g).reports = s.reports :=
  ⟨rfl, rfl, rfl, rfl, rfl, rfl, rfl, rfl, rfl, rfl, rfl, rfl, rfl, rfl, rfl, rfl, rfl, rfl, rfl, rfl, rfl, rfl, rfl, rfl, rfl, rfl, rfl, rfl, rfl, rfl, rfl, rfl, rfl, rfl, rfl, rfl, rfl, rfl, rfl, rfl, rfl, rfl, rfl, rfl, rfl, rfl, rfl, rfl, rfl, rfl, rfl, rfl, rfl, rfl, rfl, rfl, rfl, rfl, rfl⟩

@[simp] theorem State.modThread_fields (s : State) (c w l : Nat) (g : Thread → Thread) :
    (s.modThread c w l g).mem = s.mem ∧
    (s.modThread c w l g).poison = s.poison ∧
    (s.modThread c w l g).dies = s.dies ∧
    (s.modThread c w l g).pkg = s.pkg ∧
    (s.modThread c w l g).enumerated = s.enumerated ∧
    (s.modThread c w l g).time = s.time ∧
    (s.modThread c w l g).cycles = s.cycles ∧
    (s.modThread c w l g).tick = s.tick ∧
    (s.modThread c w l g).free = s.free ∧
    (s.modThread c w l g).agenda = s.agenda ∧
    (s.modThread c w l g).cur = s.cur ∧
    (s.modThread c w l g).lastCore = s.lastCore ∧
    (s.modThread c w l g).contexts = s.contexts ∧
    (s.modThread c w l g).tags = s.tags ∧
    (s.modThread c w l g).holds = s.holds ∧
    (s.modThread c w l g).writeWaits = s.writeWaits ∧
    (s.modThread c w l g).dirs = s.dirs ∧
    (s.modThread c w l g).dirReqs = s.dirReqs ∧
    (s.modThread c w l g).lenders = s.lenders ∧
    (s.modThread c w l g).borrowers = s.borrowers ∧
    (s.modThread c w l g).lendable = s.lendable ∧
    (s.modThread c w l g).peers = s.peers ∧
    (s.modThread c w l g).snoops = s.snoops ∧
    (s.modThread c w l g).lcache = s.lcache ∧
    (s.modThread c w l g).leasectl = s.leasectl ∧
    (s.modThread c w l g).queues = s.queues ∧
    (s.modThread c w l g).launches = s.launches ∧
    (s.modThread c w l g).gangs = s.gangs ∧
    (s.modThread c w l g).sched = s.sched ∧
    (s.modThread c w l g).nextId = s.nextId ∧
    (s.modThread c w l g).qpsaveb = s.qpsaveb ∧
    (s.modThread c w l g).qpsavel = s.qpsavel ∧
    (s.modThread c w l g).qptkc = s.qptkc ∧
    (s.modThread c w l g).posted = s.posted ∧
    (s.modThread c w l g).tampered = s.tampered ∧
    (s.modThread c w l g).kept = s.kept ∧
    (s.modThread c w l g).partmap = s.partmap ∧
    (s.modThread c w l g).devregs = s.devregs ∧
    (s.modThread c w l g).saved = s.saved ∧
    (s.modThread c w l g).fm = s.fm ∧
    (s.modThread c w l g).garef = s.garef ∧
    (s.modThread c w l g).ether = s.ether ∧
    (s.modThread c w l g).keys = s.keys ∧
    (s.modThread c w l g).windows = s.windows ∧
    (s.modThread c w l g).houses = s.houses ∧
    (s.modThread c w l g).image = s.image ∧
    (s.modThread c w l g).activated = s.activated ∧
    (s.modThread c w l g).spdm = s.spdm ∧
    (s.modThread c w l g).counters = s.counters ∧
    (s.modThread c w l g).flash = s.flash ∧
    (s.modThread c w l g).flushed = s.flushed ∧
    (s.modThread c w l g).booted = s.booted ∧
    (s.modThread c w l g).powerLimit = s.powerLimit ∧
    (s.modThread c w l g).idling = s.idling ∧
    (s.modThread c w l g).arrivals = s.arrivals ∧
    (s.modThread c w l g).frames = s.frames ∧
    (s.modThread c w l g).hostReqs = s.hostReqs ∧
    (s.modThread c w l g).sent = s.sent ∧
    (s.modThread c w l g).reports = s.reports :=
  ⟨rfl, rfl, rfl, rfl, rfl, rfl, rfl, rfl, rfl, rfl, rfl, rfl, rfl, rfl, rfl, rfl, rfl, rfl, rfl, rfl, rfl, rfl, rfl, rfl, rfl, rfl, rfl, rfl, rfl, rfl, rfl, rfl, rfl, rfl, rfl, rfl, rfl, rfl, rfl, rfl, rfl, rfl, rfl, rfl, rfl, rfl, rfl, rfl, rfl, rfl, rfl, rfl, rfl, rfl, rfl, rfl, rfl, rfl, rfl⟩

@[simp] theorem State.modThreads_fields (s : State) (c w : Nat) (ls : List Nat) (g : Nat → Thread → Thread) :
    (s.modThreads c w ls g).mem = s.mem ∧
    (s.modThreads c w ls g).poison = s.poison ∧
    (s.modThreads c w ls g).dies = s.dies ∧
    (s.modThreads c w ls g).pkg = s.pkg ∧
    (s.modThreads c w ls g).enumerated = s.enumerated ∧
    (s.modThreads c w ls g).time = s.time ∧
    (s.modThreads c w ls g).cycles = s.cycles ∧
    (s.modThreads c w ls g).tick = s.tick ∧
    (s.modThreads c w ls g).free = s.free ∧
    (s.modThreads c w ls g).agenda = s.agenda ∧
    (s.modThreads c w ls g).cur = s.cur ∧
    (s.modThreads c w ls g).lastCore = s.lastCore ∧
    (s.modThreads c w ls g).contexts = s.contexts ∧
    (s.modThreads c w ls g).tags = s.tags ∧
    (s.modThreads c w ls g).holds = s.holds ∧
    (s.modThreads c w ls g).writeWaits = s.writeWaits ∧
    (s.modThreads c w ls g).dirs = s.dirs ∧
    (s.modThreads c w ls g).dirReqs = s.dirReqs ∧
    (s.modThreads c w ls g).lenders = s.lenders ∧
    (s.modThreads c w ls g).borrowers = s.borrowers ∧
    (s.modThreads c w ls g).lendable = s.lendable ∧
    (s.modThreads c w ls g).peers = s.peers ∧
    (s.modThreads c w ls g).snoops = s.snoops ∧
    (s.modThreads c w ls g).lcache = s.lcache ∧
    (s.modThreads c w ls g).leasectl = s.leasectl ∧
    (s.modThreads c w ls g).queues = s.queues ∧
    (s.modThreads c w ls g).launches = s.launches ∧
    (s.modThreads c w ls g).gangs = s.gangs ∧
    (s.modThreads c w ls g).sched = s.sched ∧
    (s.modThreads c w ls g).nextId = s.nextId ∧
    (s.modThreads c w ls g).qpsaveb = s.qpsaveb ∧
    (s.modThreads c w ls g).qpsavel = s.qpsavel ∧
    (s.modThreads c w ls g).qptkc = s.qptkc ∧
    (s.modThreads c w ls g).posted = s.posted ∧
    (s.modThreads c w ls g).tampered = s.tampered ∧
    (s.modThreads c w ls g).kept = s.kept ∧
    (s.modThreads c w ls g).partmap = s.partmap ∧
    (s.modThreads c w ls g).devregs = s.devregs ∧
    (s.modThreads c w ls g).saved = s.saved ∧
    (s.modThreads c w ls g).fm = s.fm ∧
    (s.modThreads c w ls g).garef = s.garef ∧
    (s.modThreads c w ls g).ether = s.ether ∧
    (s.modThreads c w ls g).keys = s.keys ∧
    (s.modThreads c w ls g).windows = s.windows ∧
    (s.modThreads c w ls g).houses = s.houses ∧
    (s.modThreads c w ls g).image = s.image ∧
    (s.modThreads c w ls g).activated = s.activated ∧
    (s.modThreads c w ls g).spdm = s.spdm ∧
    (s.modThreads c w ls g).counters = s.counters ∧
    (s.modThreads c w ls g).flash = s.flash ∧
    (s.modThreads c w ls g).flushed = s.flushed ∧
    (s.modThreads c w ls g).booted = s.booted ∧
    (s.modThreads c w ls g).powerLimit = s.powerLimit ∧
    (s.modThreads c w ls g).idling = s.idling ∧
    (s.modThreads c w ls g).arrivals = s.arrivals ∧
    (s.modThreads c w ls g).frames = s.frames ∧
    (s.modThreads c w ls g).hostReqs = s.hostReqs ∧
    (s.modThreads c w ls g).sent = s.sent ∧
    (s.modThreads c w ls g).reports = s.reports :=
  ⟨rfl, rfl, rfl, rfl, rfl, rfl, rfl, rfl, rfl, rfl, rfl, rfl, rfl, rfl, rfl, rfl, rfl, rfl, rfl, rfl, rfl, rfl, rfl, rfl, rfl, rfl, rfl, rfl, rfl, rfl, rfl, rfl, rfl, rfl, rfl, rfl, rfl, rfl, rfl, rfl, rfl, rfl, rfl, rfl, rfl, rfl, rfl, rfl, rfl, rfl, rfl, rfl, rfl, rfl, rfl, rfl, rfl, rfl, rfl⟩

@[simp] theorem State.modDie_fields (s : State) (d : Nat) (g : Die → Die) :
    (s.modDie d g).mem = s.mem ∧
    (s.modDie d g).poison = s.poison ∧
    (s.modDie d g).cores = s.cores ∧
    (s.modDie d g).pkg = s.pkg ∧
    (s.modDie d g).enumerated = s.enumerated ∧
    (s.modDie d g).time = s.time ∧
    (s.modDie d g).cycles = s.cycles ∧
    (s.modDie d g).tick = s.tick ∧
    (s.modDie d g).free = s.free ∧
    (s.modDie d g).agenda = s.agenda ∧
    (s.modDie d g).cur = s.cur ∧
    (s.modDie d g).lastCore = s.lastCore ∧
    (s.modDie d g).contexts = s.contexts ∧
    (s.modDie d g).tags = s.tags ∧
    (s.modDie d g).holds = s.holds ∧
    (s.modDie d g).writeWaits = s.writeWaits ∧
    (s.modDie d g).dirs = s.dirs ∧
    (s.modDie d g).dirReqs = s.dirReqs ∧
    (s.modDie d g).lenders = s.lenders ∧
    (s.modDie d g).borrowers = s.borrowers ∧
    (s.modDie d g).lendable = s.lendable ∧
    (s.modDie d g).peers = s.peers ∧
    (s.modDie d g).snoops = s.snoops ∧
    (s.modDie d g).lcache = s.lcache ∧
    (s.modDie d g).leasectl = s.leasectl ∧
    (s.modDie d g).queues = s.queues ∧
    (s.modDie d g).launches = s.launches ∧
    (s.modDie d g).gangs = s.gangs ∧
    (s.modDie d g).sched = s.sched ∧
    (s.modDie d g).nextId = s.nextId ∧
    (s.modDie d g).qpsaveb = s.qpsaveb ∧
    (s.modDie d g).qpsavel = s.qpsavel ∧
    (s.modDie d g).qptkc = s.qptkc ∧
    (s.modDie d g).posted = s.posted ∧
    (s.modDie d g).tampered = s.tampered ∧
    (s.modDie d g).kept = s.kept ∧
    (s.modDie d g).partmap = s.partmap ∧
    (s.modDie d g).devregs = s.devregs ∧
    (s.modDie d g).saved = s.saved ∧
    (s.modDie d g).fm = s.fm ∧
    (s.modDie d g).garef = s.garef ∧
    (s.modDie d g).ether = s.ether ∧
    (s.modDie d g).keys = s.keys ∧
    (s.modDie d g).windows = s.windows ∧
    (s.modDie d g).houses = s.houses ∧
    (s.modDie d g).image = s.image ∧
    (s.modDie d g).activated = s.activated ∧
    (s.modDie d g).spdm = s.spdm ∧
    (s.modDie d g).counters = s.counters ∧
    (s.modDie d g).flash = s.flash ∧
    (s.modDie d g).flushed = s.flushed ∧
    (s.modDie d g).booted = s.booted ∧
    (s.modDie d g).powerLimit = s.powerLimit ∧
    (s.modDie d g).idling = s.idling ∧
    (s.modDie d g).arrivals = s.arrivals ∧
    (s.modDie d g).frames = s.frames ∧
    (s.modDie d g).hostReqs = s.hostReqs ∧
    (s.modDie d g).sent = s.sent ∧
    (s.modDie d g).reports = s.reports :=
  ⟨rfl, rfl, rfl, rfl, rfl, rfl, rfl, rfl, rfl, rfl, rfl, rfl, rfl, rfl, rfl, rfl, rfl, rfl, rfl, rfl, rfl, rfl, rfl, rfl, rfl, rfl, rfl, rfl, rfl, rfl, rfl, rfl, rfl, rfl, rfl, rfl, rfl, rfl, rfl, rfl, rfl, rfl, rfl, rfl, rfl, rfl, rfl, rfl, rfl, rfl, rfl, rfl, rfl, rfl, rfl, rfl, rfl, rfl, rfl⟩

@[simp] theorem State.modContext_fields (s : State) (x : Nat) (g : Context → Context) :
    (s.modContext x g).mem = s.mem ∧
    (s.modContext x g).poison = s.poison ∧
    (s.modContext x g).cores = s.cores ∧
    (s.modContext x g).dies = s.dies ∧
    (s.modContext x g).pkg = s.pkg ∧
    (s.modContext x g).enumerated = s.enumerated ∧
    (s.modContext x g).time = s.time ∧
    (s.modContext x g).cycles = s.cycles ∧
    (s.modContext x g).tick = s.tick ∧
    (s.modContext x g).free = s.free ∧
    (s.modContext x g).agenda = s.agenda ∧
    (s.modContext x g).cur = s.cur ∧
    (s.modContext x g).lastCore = s.lastCore ∧
    (s.modContext x g).tags = s.tags ∧
    (s.modContext x g).holds = s.holds ∧
    (s.modContext x g).writeWaits = s.writeWaits ∧
    (s.modContext x g).dirs = s.dirs ∧
    (s.modContext x g).dirReqs = s.dirReqs ∧
    (s.modContext x g).lenders = s.lenders ∧
    (s.modContext x g).borrowers = s.borrowers ∧
    (s.modContext x g).lendable = s.lendable ∧
    (s.modContext x g).peers = s.peers ∧
    (s.modContext x g).snoops = s.snoops ∧
    (s.modContext x g).lcache = s.lcache ∧
    (s.modContext x g).leasectl = s.leasectl ∧
    (s.modContext x g).queues = s.queues ∧
    (s.modContext x g).launches = s.launches ∧
    (s.modContext x g).gangs = s.gangs ∧
    (s.modContext x g).sched = s.sched ∧
    (s.modContext x g).nextId = s.nextId ∧
    (s.modContext x g).qpsaveb = s.qpsaveb ∧
    (s.modContext x g).qpsavel = s.qpsavel ∧
    (s.modContext x g).qptkc = s.qptkc ∧
    (s.modContext x g).posted = s.posted ∧
    (s.modContext x g).tampered = s.tampered ∧
    (s.modContext x g).kept = s.kept ∧
    (s.modContext x g).partmap = s.partmap ∧
    (s.modContext x g).devregs = s.devregs ∧
    (s.modContext x g).saved = s.saved ∧
    (s.modContext x g).fm = s.fm ∧
    (s.modContext x g).garef = s.garef ∧
    (s.modContext x g).ether = s.ether ∧
    (s.modContext x g).keys = s.keys ∧
    (s.modContext x g).windows = s.windows ∧
    (s.modContext x g).houses = s.houses ∧
    (s.modContext x g).image = s.image ∧
    (s.modContext x g).activated = s.activated ∧
    (s.modContext x g).spdm = s.spdm ∧
    (s.modContext x g).counters = s.counters ∧
    (s.modContext x g).flash = s.flash ∧
    (s.modContext x g).flushed = s.flushed ∧
    (s.modContext x g).booted = s.booted ∧
    (s.modContext x g).powerLimit = s.powerLimit ∧
    (s.modContext x g).idling = s.idling ∧
    (s.modContext x g).arrivals = s.arrivals ∧
    (s.modContext x g).frames = s.frames ∧
    (s.modContext x g).hostReqs = s.hostReqs ∧
    (s.modContext x g).sent = s.sent ∧
    (s.modContext x g).reports = s.reports :=
  ⟨rfl, rfl, rfl, rfl, rfl, rfl, rfl, rfl, rfl, rfl, rfl, rfl, rfl, rfl, rfl, rfl, rfl, rfl, rfl, rfl, rfl, rfl, rfl, rfl, rfl, rfl, rfl, rfl, rfl, rfl, rfl, rfl, rfl, rfl, rfl, rfl, rfl, rfl, rfl, rfl, rfl, rfl, rfl, rfl, rfl, rfl, rfl, rfl, rfl, rfl, rfl, rfl, rfl, rfl, rfl, rfl, rfl, rfl, rfl⟩

@[simp] theorem State.modLender_fields (s : State) (e : Nat) (g : Lease → Lease) :
    (s.modLender e g).mem = s.mem ∧
    (s.modLender e g).poison = s.poison ∧
    (s.modLender e g).cores = s.cores ∧
    (s.modLender e g).dies = s.dies ∧
    (s.modLender e g).pkg = s.pkg ∧
    (s.modLender e g).enumerated = s.enumerated ∧
    (s.modLender e g).time = s.time ∧
    (s.modLender e g).cycles = s.cycles ∧
    (s.modLender e g).tick = s.tick ∧
    (s.modLender e g).free = s.free ∧
    (s.modLender e g).agenda = s.agenda ∧
    (s.modLender e g).cur = s.cur ∧
    (s.modLender e g).lastCore = s.lastCore ∧
    (s.modLender e g).contexts = s.contexts ∧
    (s.modLender e g).tags = s.tags ∧
    (s.modLender e g).holds = s.holds ∧
    (s.modLender e g).writeWaits = s.writeWaits ∧
    (s.modLender e g).dirs = s.dirs ∧
    (s.modLender e g).dirReqs = s.dirReqs ∧
    (s.modLender e g).borrowers = s.borrowers ∧
    (s.modLender e g).lendable = s.lendable ∧
    (s.modLender e g).peers = s.peers ∧
    (s.modLender e g).snoops = s.snoops ∧
    (s.modLender e g).lcache = s.lcache ∧
    (s.modLender e g).leasectl = s.leasectl ∧
    (s.modLender e g).queues = s.queues ∧
    (s.modLender e g).launches = s.launches ∧
    (s.modLender e g).gangs = s.gangs ∧
    (s.modLender e g).sched = s.sched ∧
    (s.modLender e g).nextId = s.nextId ∧
    (s.modLender e g).qpsaveb = s.qpsaveb ∧
    (s.modLender e g).qpsavel = s.qpsavel ∧
    (s.modLender e g).qptkc = s.qptkc ∧
    (s.modLender e g).posted = s.posted ∧
    (s.modLender e g).tampered = s.tampered ∧
    (s.modLender e g).kept = s.kept ∧
    (s.modLender e g).partmap = s.partmap ∧
    (s.modLender e g).devregs = s.devregs ∧
    (s.modLender e g).saved = s.saved ∧
    (s.modLender e g).fm = s.fm ∧
    (s.modLender e g).garef = s.garef ∧
    (s.modLender e g).ether = s.ether ∧
    (s.modLender e g).keys = s.keys ∧
    (s.modLender e g).windows = s.windows ∧
    (s.modLender e g).houses = s.houses ∧
    (s.modLender e g).image = s.image ∧
    (s.modLender e g).activated = s.activated ∧
    (s.modLender e g).spdm = s.spdm ∧
    (s.modLender e g).counters = s.counters ∧
    (s.modLender e g).flash = s.flash ∧
    (s.modLender e g).flushed = s.flushed ∧
    (s.modLender e g).booted = s.booted ∧
    (s.modLender e g).powerLimit = s.powerLimit ∧
    (s.modLender e g).idling = s.idling ∧
    (s.modLender e g).arrivals = s.arrivals ∧
    (s.modLender e g).frames = s.frames ∧
    (s.modLender e g).hostReqs = s.hostReqs ∧
    (s.modLender e g).sent = s.sent ∧
    (s.modLender e g).reports = s.reports :=
  ⟨rfl, rfl, rfl, rfl, rfl, rfl, rfl, rfl, rfl, rfl, rfl, rfl, rfl, rfl, rfl, rfl, rfl, rfl, rfl, rfl, rfl, rfl, rfl, rfl, rfl, rfl, rfl, rfl, rfl, rfl, rfl, rfl, rfl, rfl, rfl, rfl, rfl, rfl, rfl, rfl, rfl, rfl, rfl, rfl, rfl, rfl, rfl, rfl, rfl, rfl, rfl, rfl, rfl, rfl, rfl, rfl, rfl, rfl, rfl⟩

@[simp] theorem State.modBorrower_fields (s : State) (e : Nat) (g : Lease → Lease) :
    (s.modBorrower e g).mem = s.mem ∧
    (s.modBorrower e g).poison = s.poison ∧
    (s.modBorrower e g).cores = s.cores ∧
    (s.modBorrower e g).dies = s.dies ∧
    (s.modBorrower e g).pkg = s.pkg ∧
    (s.modBorrower e g).enumerated = s.enumerated ∧
    (s.modBorrower e g).time = s.time ∧
    (s.modBorrower e g).cycles = s.cycles ∧
    (s.modBorrower e g).tick = s.tick ∧
    (s.modBorrower e g).free = s.free ∧
    (s.modBorrower e g).agenda = s.agenda ∧
    (s.modBorrower e g).cur = s.cur ∧
    (s.modBorrower e g).lastCore = s.lastCore ∧
    (s.modBorrower e g).contexts = s.contexts ∧
    (s.modBorrower e g).tags = s.tags ∧
    (s.modBorrower e g).holds = s.holds ∧
    (s.modBorrower e g).writeWaits = s.writeWaits ∧
    (s.modBorrower e g).dirs = s.dirs ∧
    (s.modBorrower e g).dirReqs = s.dirReqs ∧
    (s.modBorrower e g).lenders = s.lenders ∧
    (s.modBorrower e g).lendable = s.lendable ∧
    (s.modBorrower e g).peers = s.peers ∧
    (s.modBorrower e g).snoops = s.snoops ∧
    (s.modBorrower e g).lcache = s.lcache ∧
    (s.modBorrower e g).leasectl = s.leasectl ∧
    (s.modBorrower e g).queues = s.queues ∧
    (s.modBorrower e g).launches = s.launches ∧
    (s.modBorrower e g).gangs = s.gangs ∧
    (s.modBorrower e g).sched = s.sched ∧
    (s.modBorrower e g).nextId = s.nextId ∧
    (s.modBorrower e g).qpsaveb = s.qpsaveb ∧
    (s.modBorrower e g).qpsavel = s.qpsavel ∧
    (s.modBorrower e g).qptkc = s.qptkc ∧
    (s.modBorrower e g).posted = s.posted ∧
    (s.modBorrower e g).tampered = s.tampered ∧
    (s.modBorrower e g).kept = s.kept ∧
    (s.modBorrower e g).partmap = s.partmap ∧
    (s.modBorrower e g).devregs = s.devregs ∧
    (s.modBorrower e g).saved = s.saved ∧
    (s.modBorrower e g).fm = s.fm ∧
    (s.modBorrower e g).garef = s.garef ∧
    (s.modBorrower e g).ether = s.ether ∧
    (s.modBorrower e g).keys = s.keys ∧
    (s.modBorrower e g).windows = s.windows ∧
    (s.modBorrower e g).houses = s.houses ∧
    (s.modBorrower e g).image = s.image ∧
    (s.modBorrower e g).activated = s.activated ∧
    (s.modBorrower e g).spdm = s.spdm ∧
    (s.modBorrower e g).counters = s.counters ∧
    (s.modBorrower e g).flash = s.flash ∧
    (s.modBorrower e g).flushed = s.flushed ∧
    (s.modBorrower e g).booted = s.booted ∧
    (s.modBorrower e g).powerLimit = s.powerLimit ∧
    (s.modBorrower e g).idling = s.idling ∧
    (s.modBorrower e g).arrivals = s.arrivals ∧
    (s.modBorrower e g).frames = s.frames ∧
    (s.modBorrower e g).hostReqs = s.hostReqs ∧
    (s.modBorrower e g).sent = s.sent ∧
    (s.modBorrower e g).reports = s.reports :=
  ⟨rfl, rfl, rfl, rfl, rfl, rfl, rfl, rfl, rfl, rfl, rfl, rfl, rfl, rfl, rfl, rfl, rfl, rfl, rfl, rfl, rfl, rfl, rfl, rfl, rfl, rfl, rfl, rfl, rfl, rfl, rfl, rfl, rfl, rfl, rfl, rfl, rfl, rfl, rfl, rfl, rfl, rfl, rfl, rfl, rfl, rfl, rfl, rfl, rfl, rfl, rfl, rfl, rfl, rfl, rfl, rfl, rfl, rfl, rfl⟩

@[simp] theorem State.modPeer_fields (s : State) (p : Nat) (g : Peer → Peer) :
    (s.modPeer p g).mem = s.mem ∧
    (s.modPeer p g).poison = s.poison ∧
    (s.modPeer p g).cores = s.cores ∧
    (s.modPeer p g).dies = s.dies ∧
    (s.modPeer p g).pkg = s.pkg ∧
    (s.modPeer p g).enumerated = s.enumerated ∧
    (s.modPeer p g).time = s.time ∧
    (s.modPeer p g).cycles = s.cycles ∧
    (s.modPeer p g).tick = s.tick ∧
    (s.modPeer p g).free = s.free ∧
    (s.modPeer p g).agenda = s.agenda ∧
    (s.modPeer p g).cur = s.cur ∧
    (s.modPeer p g).lastCore = s.lastCore ∧
    (s.modPeer p g).contexts = s.contexts ∧
    (s.modPeer p g).tags = s.tags ∧
    (s.modPeer p g).holds = s.holds ∧
    (s.modPeer p g).writeWaits = s.writeWaits ∧
    (s.modPeer p g).dirs = s.dirs ∧
    (s.modPeer p g).dirReqs = s.dirReqs ∧
    (s.modPeer p g).lenders = s.lenders ∧
    (s.modPeer p g).borrowers = s.borrowers ∧
    (s.modPeer p g).lendable = s.lendable ∧
    (s.modPeer p g).snoops = s.snoops ∧
    (s.modPeer p g).lcache = s.lcache ∧
    (s.modPeer p g).leasectl = s.leasectl ∧
    (s.modPeer p g).queues = s.queues ∧
    (s.modPeer p g).launches = s.launches ∧
    (s.modPeer p g).gangs = s.gangs ∧
    (s.modPeer p g).sched = s.sched ∧
    (s.modPeer p g).nextId = s.nextId ∧
    (s.modPeer p g).qpsaveb = s.qpsaveb ∧
    (s.modPeer p g).qpsavel = s.qpsavel ∧
    (s.modPeer p g).qptkc = s.qptkc ∧
    (s.modPeer p g).posted = s.posted ∧
    (s.modPeer p g).tampered = s.tampered ∧
    (s.modPeer p g).kept = s.kept ∧
    (s.modPeer p g).partmap = s.partmap ∧
    (s.modPeer p g).devregs = s.devregs ∧
    (s.modPeer p g).saved = s.saved ∧
    (s.modPeer p g).fm = s.fm ∧
    (s.modPeer p g).garef = s.garef ∧
    (s.modPeer p g).ether = s.ether ∧
    (s.modPeer p g).keys = s.keys ∧
    (s.modPeer p g).windows = s.windows ∧
    (s.modPeer p g).houses = s.houses ∧
    (s.modPeer p g).image = s.image ∧
    (s.modPeer p g).activated = s.activated ∧
    (s.modPeer p g).spdm = s.spdm ∧
    (s.modPeer p g).counters = s.counters ∧
    (s.modPeer p g).flash = s.flash ∧
    (s.modPeer p g).flushed = s.flushed ∧
    (s.modPeer p g).booted = s.booted ∧
    (s.modPeer p g).powerLimit = s.powerLimit ∧
    (s.modPeer p g).idling = s.idling ∧
    (s.modPeer p g).arrivals = s.arrivals ∧
    (s.modPeer p g).frames = s.frames ∧
    (s.modPeer p g).hostReqs = s.hostReqs ∧
    (s.modPeer p g).sent = s.sent ∧
    (s.modPeer p g).reports = s.reports :=
  ⟨rfl, rfl, rfl, rfl, rfl, rfl, rfl, rfl, rfl, rfl, rfl, rfl, rfl, rfl, rfl, rfl, rfl, rfl, rfl, rfl, rfl, rfl, rfl, rfl, rfl, rfl, rfl, rfl, rfl, rfl, rfl, rfl, rfl, rfl, rfl, rfl, rfl, rfl, rfl, rfl, rfl, rfl, rfl, rfl, rfl, rfl, rfl, rfl, rfl, rfl, rfl, rfl, rfl, rfl, rfl, rfl, rfl, rfl, rfl⟩

@[simp] theorem State.modQueue_fields (s : State) (q : Nat) (g : Queue → Queue) :
    (s.modQueue q g).mem = s.mem ∧
    (s.modQueue q g).poison = s.poison ∧
    (s.modQueue q g).cores = s.cores ∧
    (s.modQueue q g).dies = s.dies ∧
    (s.modQueue q g).pkg = s.pkg ∧
    (s.modQueue q g).enumerated = s.enumerated ∧
    (s.modQueue q g).time = s.time ∧
    (s.modQueue q g).cycles = s.cycles ∧
    (s.modQueue q g).tick = s.tick ∧
    (s.modQueue q g).free = s.free ∧
    (s.modQueue q g).agenda = s.agenda ∧
    (s.modQueue q g).cur = s.cur ∧
    (s.modQueue q g).lastCore = s.lastCore ∧
    (s.modQueue q g).contexts = s.contexts ∧
    (s.modQueue q g).tags = s.tags ∧
    (s.modQueue q g).holds = s.holds ∧
    (s.modQueue q g).writeWaits = s.writeWaits ∧
    (s.modQueue q g).dirs = s.dirs ∧
    (s.modQueue q g).dirReqs = s.dirReqs ∧
    (s.modQueue q g).lenders = s.lenders ∧
    (s.modQueue q g).borrowers = s.borrowers ∧
    (s.modQueue q g).lendable = s.lendable ∧
    (s.modQueue q g).peers = s.peers ∧
    (s.modQueue q g).snoops = s.snoops ∧
    (s.modQueue q g).lcache = s.lcache ∧
    (s.modQueue q g).leasectl = s.leasectl ∧
    (s.modQueue q g).launches = s.launches ∧
    (s.modQueue q g).gangs = s.gangs ∧
    (s.modQueue q g).sched = s.sched ∧
    (s.modQueue q g).nextId = s.nextId ∧
    (s.modQueue q g).qpsaveb = s.qpsaveb ∧
    (s.modQueue q g).qpsavel = s.qpsavel ∧
    (s.modQueue q g).qptkc = s.qptkc ∧
    (s.modQueue q g).posted = s.posted ∧
    (s.modQueue q g).tampered = s.tampered ∧
    (s.modQueue q g).kept = s.kept ∧
    (s.modQueue q g).partmap = s.partmap ∧
    (s.modQueue q g).devregs = s.devregs ∧
    (s.modQueue q g).saved = s.saved ∧
    (s.modQueue q g).fm = s.fm ∧
    (s.modQueue q g).garef = s.garef ∧
    (s.modQueue q g).ether = s.ether ∧
    (s.modQueue q g).keys = s.keys ∧
    (s.modQueue q g).windows = s.windows ∧
    (s.modQueue q g).houses = s.houses ∧
    (s.modQueue q g).image = s.image ∧
    (s.modQueue q g).activated = s.activated ∧
    (s.modQueue q g).spdm = s.spdm ∧
    (s.modQueue q g).counters = s.counters ∧
    (s.modQueue q g).flash = s.flash ∧
    (s.modQueue q g).flushed = s.flushed ∧
    (s.modQueue q g).booted = s.booted ∧
    (s.modQueue q g).powerLimit = s.powerLimit ∧
    (s.modQueue q g).idling = s.idling ∧
    (s.modQueue q g).arrivals = s.arrivals ∧
    (s.modQueue q g).frames = s.frames ∧
    (s.modQueue q g).hostReqs = s.hostReqs ∧
    (s.modQueue q g).sent = s.sent ∧
    (s.modQueue q g).reports = s.reports :=
  ⟨rfl, rfl, rfl, rfl, rfl, rfl, rfl, rfl, rfl, rfl, rfl, rfl, rfl, rfl, rfl, rfl, rfl, rfl, rfl, rfl, rfl, rfl, rfl, rfl, rfl, rfl, rfl, rfl, rfl, rfl, rfl, rfl, rfl, rfl, rfl, rfl, rfl, rfl, rfl, rfl, rfl, rfl, rfl, rfl, rfl, rfl, rfl, rfl, rfl, rfl, rfl, rfl, rfl, rfl, rfl, rfl, rfl, rfl, rfl⟩

@[simp] theorem State.modGang_fields (s : State) (n : Nat) (g : Gang → Gang) :
    (s.modGang n g).mem = s.mem ∧
    (s.modGang n g).poison = s.poison ∧
    (s.modGang n g).cores = s.cores ∧
    (s.modGang n g).dies = s.dies ∧
    (s.modGang n g).pkg = s.pkg ∧
    (s.modGang n g).enumerated = s.enumerated ∧
    (s.modGang n g).time = s.time ∧
    (s.modGang n g).cycles = s.cycles ∧
    (s.modGang n g).tick = s.tick ∧
    (s.modGang n g).free = s.free ∧
    (s.modGang n g).agenda = s.agenda ∧
    (s.modGang n g).cur = s.cur ∧
    (s.modGang n g).lastCore = s.lastCore ∧
    (s.modGang n g).contexts = s.contexts ∧
    (s.modGang n g).tags = s.tags ∧
    (s.modGang n g).holds = s.holds ∧
    (s.modGang n g).writeWaits = s.writeWaits ∧
    (s.modGang n g).dirs = s.dirs ∧
    (s.modGang n g).dirReqs = s.dirReqs ∧
    (s.modGang n g).lenders = s.lenders ∧
    (s.modGang n g).borrowers = s.borrowers ∧
    (s.modGang n g).lendable = s.lendable ∧
    (s.modGang n g).peers = s.peers ∧
    (s.modGang n g).snoops = s.snoops ∧
    (s.modGang n g).lcache = s.lcache ∧
    (s.modGang n g).leasectl = s.leasectl ∧
    (s.modGang n g).queues = s.queues ∧
    (s.modGang n g).launches = s.launches ∧
    (s.modGang n g).sched = s.sched ∧
    (s.modGang n g).nextId = s.nextId ∧
    (s.modGang n g).qpsaveb = s.qpsaveb ∧
    (s.modGang n g).qpsavel = s.qpsavel ∧
    (s.modGang n g).qptkc = s.qptkc ∧
    (s.modGang n g).posted = s.posted ∧
    (s.modGang n g).tampered = s.tampered ∧
    (s.modGang n g).kept = s.kept ∧
    (s.modGang n g).partmap = s.partmap ∧
    (s.modGang n g).devregs = s.devregs ∧
    (s.modGang n g).saved = s.saved ∧
    (s.modGang n g).fm = s.fm ∧
    (s.modGang n g).garef = s.garef ∧
    (s.modGang n g).ether = s.ether ∧
    (s.modGang n g).keys = s.keys ∧
    (s.modGang n g).windows = s.windows ∧
    (s.modGang n g).houses = s.houses ∧
    (s.modGang n g).image = s.image ∧
    (s.modGang n g).activated = s.activated ∧
    (s.modGang n g).spdm = s.spdm ∧
    (s.modGang n g).counters = s.counters ∧
    (s.modGang n g).flash = s.flash ∧
    (s.modGang n g).flushed = s.flushed ∧
    (s.modGang n g).booted = s.booted ∧
    (s.modGang n g).powerLimit = s.powerLimit ∧
    (s.modGang n g).idling = s.idling ∧
    (s.modGang n g).arrivals = s.arrivals ∧
    (s.modGang n g).frames = s.frames ∧
    (s.modGang n g).hostReqs = s.hostReqs ∧
    (s.modGang n g).sent = s.sent ∧
    (s.modGang n g).reports = s.reports :=
  ⟨rfl, rfl, rfl, rfl, rfl, rfl, rfl, rfl, rfl, rfl, rfl, rfl, rfl, rfl, rfl, rfl, rfl, rfl, rfl, rfl, rfl, rfl, rfl, rfl, rfl, rfl, rfl, rfl, rfl, rfl, rfl, rfl, rfl, rfl, rfl, rfl, rfl, rfl, rfl, rfl, rfl, rfl, rfl, rfl, rfl, rfl, rfl, rfl, rfl, rfl, rfl, rfl, rfl, rfl, rfl, rfl, rfl, rfl, rfl⟩

@[simp] theorem State.modLaunch_fields (s : State) (n : Nat) (g : Launch → Launch) :
    (s.modLaunch n g).mem = s.mem ∧
    (s.modLaunch n g).poison = s.poison ∧
    (s.modLaunch n g).cores = s.cores ∧
    (s.modLaunch n g).dies = s.dies ∧
    (s.modLaunch n g).pkg = s.pkg ∧
    (s.modLaunch n g).enumerated = s.enumerated ∧
    (s.modLaunch n g).time = s.time ∧
    (s.modLaunch n g).cycles = s.cycles ∧
    (s.modLaunch n g).tick = s.tick ∧
    (s.modLaunch n g).free = s.free ∧
    (s.modLaunch n g).agenda = s.agenda ∧
    (s.modLaunch n g).cur = s.cur ∧
    (s.modLaunch n g).lastCore = s.lastCore ∧
    (s.modLaunch n g).contexts = s.contexts ∧
    (s.modLaunch n g).tags = s.tags ∧
    (s.modLaunch n g).holds = s.holds ∧
    (s.modLaunch n g).writeWaits = s.writeWaits ∧
    (s.modLaunch n g).dirs = s.dirs ∧
    (s.modLaunch n g).dirReqs = s.dirReqs ∧
    (s.modLaunch n g).lenders = s.lenders ∧
    (s.modLaunch n g).borrowers = s.borrowers ∧
    (s.modLaunch n g).lendable = s.lendable ∧
    (s.modLaunch n g).peers = s.peers ∧
    (s.modLaunch n g).snoops = s.snoops ∧
    (s.modLaunch n g).lcache = s.lcache ∧
    (s.modLaunch n g).leasectl = s.leasectl ∧
    (s.modLaunch n g).queues = s.queues ∧
    (s.modLaunch n g).gangs = s.gangs ∧
    (s.modLaunch n g).sched = s.sched ∧
    (s.modLaunch n g).nextId = s.nextId ∧
    (s.modLaunch n g).qpsaveb = s.qpsaveb ∧
    (s.modLaunch n g).qpsavel = s.qpsavel ∧
    (s.modLaunch n g).qptkc = s.qptkc ∧
    (s.modLaunch n g).posted = s.posted ∧
    (s.modLaunch n g).tampered = s.tampered ∧
    (s.modLaunch n g).kept = s.kept ∧
    (s.modLaunch n g).partmap = s.partmap ∧
    (s.modLaunch n g).devregs = s.devregs ∧
    (s.modLaunch n g).saved = s.saved ∧
    (s.modLaunch n g).fm = s.fm ∧
    (s.modLaunch n g).garef = s.garef ∧
    (s.modLaunch n g).ether = s.ether ∧
    (s.modLaunch n g).keys = s.keys ∧
    (s.modLaunch n g).windows = s.windows ∧
    (s.modLaunch n g).houses = s.houses ∧
    (s.modLaunch n g).image = s.image ∧
    (s.modLaunch n g).activated = s.activated ∧
    (s.modLaunch n g).spdm = s.spdm ∧
    (s.modLaunch n g).counters = s.counters ∧
    (s.modLaunch n g).flash = s.flash ∧
    (s.modLaunch n g).flushed = s.flushed ∧
    (s.modLaunch n g).booted = s.booted ∧
    (s.modLaunch n g).powerLimit = s.powerLimit ∧
    (s.modLaunch n g).idling = s.idling ∧
    (s.modLaunch n g).arrivals = s.arrivals ∧
    (s.modLaunch n g).frames = s.frames ∧
    (s.modLaunch n g).hostReqs = s.hostReqs ∧
    (s.modLaunch n g).sent = s.sent ∧
    (s.modLaunch n g).reports = s.reports :=
  ⟨rfl, rfl, rfl, rfl, rfl, rfl, rfl, rfl, rfl, rfl, rfl, rfl, rfl, rfl, rfl, rfl, rfl, rfl, rfl, rfl, rfl, rfl, rfl, rfl, rfl, rfl, rfl, rfl, rfl, rfl, rfl, rfl, rfl, rfl, rfl, rfl, rfl, rfl, rfl, rfl, rfl, rfl, rfl, rfl, rfl, rfl, rfl, rfl, rfl, rfl, rfl, rfl, rfl, rfl, rfl, rfl, rfl, rfl, rfl⟩

@[simp] theorem State.setPoison_fields (s : State) (pa : Nat) (on : Bool) :
    (s.setPoison pa on).mem = s.mem ∧
    (s.setPoison pa on).cores = s.cores ∧
    (s.setPoison pa on).dies = s.dies ∧
    (s.setPoison pa on).pkg = s.pkg ∧
    (s.setPoison pa on).enumerated = s.enumerated ∧
    (s.setPoison pa on).time = s.time ∧
    (s.setPoison pa on).cycles = s.cycles ∧
    (s.setPoison pa on).tick = s.tick ∧
    (s.setPoison pa on).free = s.free ∧
    (s.setPoison pa on).agenda = s.agenda ∧
    (s.setPoison pa on).cur = s.cur ∧
    (s.setPoison pa on).lastCore = s.lastCore ∧
    (s.setPoison pa on).contexts = s.contexts ∧
    (s.setPoison pa on).tags = s.tags ∧
    (s.setPoison pa on).holds = s.holds ∧
    (s.setPoison pa on).writeWaits = s.writeWaits ∧
    (s.setPoison pa on).dirs = s.dirs ∧
    (s.setPoison pa on).dirReqs = s.dirReqs ∧
    (s.setPoison pa on).lenders = s.lenders ∧
    (s.setPoison pa on).borrowers = s.borrowers ∧
    (s.setPoison pa on).lendable = s.lendable ∧
    (s.setPoison pa on).peers = s.peers ∧
    (s.setPoison pa on).snoops = s.snoops ∧
    (s.setPoison pa on).lcache = s.lcache ∧
    (s.setPoison pa on).leasectl = s.leasectl ∧
    (s.setPoison pa on).queues = s.queues ∧
    (s.setPoison pa on).launches = s.launches ∧
    (s.setPoison pa on).gangs = s.gangs ∧
    (s.setPoison pa on).sched = s.sched ∧
    (s.setPoison pa on).nextId = s.nextId ∧
    (s.setPoison pa on).qpsaveb = s.qpsaveb ∧
    (s.setPoison pa on).qpsavel = s.qpsavel ∧
    (s.setPoison pa on).qptkc = s.qptkc ∧
    (s.setPoison pa on).posted = s.posted ∧
    (s.setPoison pa on).tampered = s.tampered ∧
    (s.setPoison pa on).kept = s.kept ∧
    (s.setPoison pa on).partmap = s.partmap ∧
    (s.setPoison pa on).devregs = s.devregs ∧
    (s.setPoison pa on).saved = s.saved ∧
    (s.setPoison pa on).fm = s.fm ∧
    (s.setPoison pa on).garef = s.garef ∧
    (s.setPoison pa on).ether = s.ether ∧
    (s.setPoison pa on).keys = s.keys ∧
    (s.setPoison pa on).windows = s.windows ∧
    (s.setPoison pa on).houses = s.houses ∧
    (s.setPoison pa on).image = s.image ∧
    (s.setPoison pa on).activated = s.activated ∧
    (s.setPoison pa on).spdm = s.spdm ∧
    (s.setPoison pa on).counters = s.counters ∧
    (s.setPoison pa on).flash = s.flash ∧
    (s.setPoison pa on).flushed = s.flushed ∧
    (s.setPoison pa on).booted = s.booted ∧
    (s.setPoison pa on).powerLimit = s.powerLimit ∧
    (s.setPoison pa on).idling = s.idling ∧
    (s.setPoison pa on).arrivals = s.arrivals ∧
    (s.setPoison pa on).frames = s.frames ∧
    (s.setPoison pa on).hostReqs = s.hostReqs ∧
    (s.setPoison pa on).sent = s.sent ∧
    (s.setPoison pa on).reports = s.reports :=
  ⟨rfl, rfl, rfl, rfl, rfl, rfl, rfl, rfl, rfl, rfl, rfl, rfl, rfl, rfl, rfl, rfl, rfl, rfl, rfl, rfl, rfl, rfl, rfl, rfl, rfl, rfl, rfl, rfl, rfl, rfl, rfl, rfl, rfl, rfl, rfl, rfl, rfl, rfl, rfl, rfl, rfl, rfl, rfl, rfl, rfl, rfl, rfl, rfl, rfl, rfl, rfl, rfl, rfl, rfl, rfl, rfl, rfl, rfl, rfl⟩

@[simp] theorem State.elapse_fields (s : State) :
    s.elapse.mem = s.mem ∧
    s.elapse.poison = s.poison ∧
    s.elapse.cores = s.cores ∧
    s.elapse.dies = s.dies ∧
    s.elapse.pkg = s.pkg ∧
    s.elapse.enumerated = s.enumerated ∧
    s.elapse.free = s.free ∧
    s.elapse.agenda = s.agenda ∧
    s.elapse.cur = s.cur ∧
    s.elapse.lastCore = s.lastCore ∧
    s.elapse.contexts = s.contexts ∧
    s.elapse.tags = s.tags ∧
    s.elapse.holds = s.holds ∧
    s.elapse.writeWaits = s.writeWaits ∧
    s.elapse.dirs = s.dirs ∧
    s.elapse.dirReqs = s.dirReqs ∧
    s.elapse.lenders = s.lenders ∧
    s.elapse.borrowers = s.borrowers ∧
    s.elapse.lendable = s.lendable ∧
    s.elapse.peers = s.peers ∧
    s.elapse.snoops = s.snoops ∧
    s.elapse.lcache = s.lcache ∧
    s.elapse.leasectl = s.leasectl ∧
    s.elapse.queues = s.queues ∧
    s.elapse.launches = s.launches ∧
    s.elapse.gangs = s.gangs ∧
    s.elapse.sched = s.sched ∧
    s.elapse.nextId = s.nextId ∧
    s.elapse.qpsaveb = s.qpsaveb ∧
    s.elapse.qpsavel = s.qpsavel ∧
    s.elapse.qptkc = s.qptkc ∧
    s.elapse.posted = s.posted ∧
    s.elapse.tampered = s.tampered ∧
    s.elapse.kept = s.kept ∧
    s.elapse.partmap = s.partmap ∧
    s.elapse.devregs = s.devregs ∧
    s.elapse.saved = s.saved ∧
    s.elapse.fm = s.fm ∧
    s.elapse.garef = s.garef ∧
    s.elapse.ether = s.ether ∧
    s.elapse.keys = s.keys ∧
    s.elapse.windows = s.windows ∧
    s.elapse.houses = s.houses ∧
    s.elapse.image = s.image ∧
    s.elapse.activated = s.activated ∧
    s.elapse.spdm = s.spdm ∧
    s.elapse.counters = s.counters ∧
    s.elapse.flash = s.flash ∧
    s.elapse.flushed = s.flushed ∧
    s.elapse.booted = s.booted ∧
    s.elapse.powerLimit = s.powerLimit ∧
    s.elapse.idling = s.idling ∧
    s.elapse.arrivals = s.arrivals ∧
    s.elapse.frames = s.frames ∧
    s.elapse.hostReqs = s.hostReqs ∧
    s.elapse.sent = s.sent ∧
    s.elapse.reports = s.reports :=
  ⟨rfl, rfl, rfl, rfl, rfl, rfl, rfl, rfl, rfl, rfl, rfl, rfl, rfl, rfl, rfl, rfl, rfl, rfl, rfl, rfl, rfl, rfl, rfl, rfl, rfl, rfl, rfl, rfl, rfl, rfl, rfl, rfl, rfl, rfl, rfl, rfl, rfl, rfl, rfl, rfl, rfl, rfl, rfl, rfl, rfl, rfl, rfl, rfl, rfl, rfl, rfl, rfl, rfl, rfl, rfl, rfl, rfl⟩

theorem State.modTeam_cores (s : State) (t : Nat) (g : Team → Team) : ∃ k, s.modTeam t g = { s with cores := k } := by
  unfold State.modTeam
  split
  · exact ⟨_, rfl⟩
  · exact ⟨s.cores, rfl⟩

@[simp] theorem State.modTeam_fields (s : State) (t : Nat) (g : Team → Team) :
    (s.modTeam t g).mem = s.mem ∧
    (s.modTeam t g).poison = s.poison ∧
    (s.modTeam t g).dies = s.dies ∧
    (s.modTeam t g).pkg = s.pkg ∧
    (s.modTeam t g).enumerated = s.enumerated ∧
    (s.modTeam t g).time = s.time ∧
    (s.modTeam t g).cycles = s.cycles ∧
    (s.modTeam t g).tick = s.tick ∧
    (s.modTeam t g).free = s.free ∧
    (s.modTeam t g).agenda = s.agenda ∧
    (s.modTeam t g).cur = s.cur ∧
    (s.modTeam t g).lastCore = s.lastCore ∧
    (s.modTeam t g).contexts = s.contexts ∧
    (s.modTeam t g).tags = s.tags ∧
    (s.modTeam t g).holds = s.holds ∧
    (s.modTeam t g).writeWaits = s.writeWaits ∧
    (s.modTeam t g).dirs = s.dirs ∧
    (s.modTeam t g).dirReqs = s.dirReqs ∧
    (s.modTeam t g).lenders = s.lenders ∧
    (s.modTeam t g).borrowers = s.borrowers ∧
    (s.modTeam t g).lendable = s.lendable ∧
    (s.modTeam t g).peers = s.peers ∧
    (s.modTeam t g).snoops = s.snoops ∧
    (s.modTeam t g).lcache = s.lcache ∧
    (s.modTeam t g).leasectl = s.leasectl ∧
    (s.modTeam t g).queues = s.queues ∧
    (s.modTeam t g).launches = s.launches ∧
    (s.modTeam t g).gangs = s.gangs ∧
    (s.modTeam t g).sched = s.sched ∧
    (s.modTeam t g).nextId = s.nextId ∧
    (s.modTeam t g).qpsaveb = s.qpsaveb ∧
    (s.modTeam t g).qpsavel = s.qpsavel ∧
    (s.modTeam t g).qptkc = s.qptkc ∧
    (s.modTeam t g).posted = s.posted ∧
    (s.modTeam t g).tampered = s.tampered ∧
    (s.modTeam t g).kept = s.kept ∧
    (s.modTeam t g).partmap = s.partmap ∧
    (s.modTeam t g).devregs = s.devregs ∧
    (s.modTeam t g).saved = s.saved ∧
    (s.modTeam t g).fm = s.fm ∧
    (s.modTeam t g).garef = s.garef ∧
    (s.modTeam t g).ether = s.ether ∧
    (s.modTeam t g).keys = s.keys ∧
    (s.modTeam t g).windows = s.windows ∧
    (s.modTeam t g).houses = s.houses ∧
    (s.modTeam t g).image = s.image ∧
    (s.modTeam t g).activated = s.activated ∧
    (s.modTeam t g).spdm = s.spdm ∧
    (s.modTeam t g).counters = s.counters ∧
    (s.modTeam t g).flash = s.flash ∧
    (s.modTeam t g).flushed = s.flushed ∧
    (s.modTeam t g).booted = s.booted ∧
    (s.modTeam t g).powerLimit = s.powerLimit ∧
    (s.modTeam t g).idling = s.idling ∧
    (s.modTeam t g).arrivals = s.arrivals ∧
    (s.modTeam t g).frames = s.frames ∧
    (s.modTeam t g).hostReqs = s.hostReqs ∧
    (s.modTeam t g).sent = s.sent ∧
    (s.modTeam t g).reports = s.reports := by
  obtain ⟨k, h⟩ := s.modTeam_cores t g
  rw [h]
  exact ⟨rfl, rfl, rfl, rfl, rfl, rfl, rfl, rfl, rfl, rfl, rfl, rfl, rfl, rfl, rfl, rfl, rfl, rfl, rfl, rfl, rfl, rfl, rfl, rfl, rfl, rfl, rfl, rfl, rfl, rfl, rfl, rfl, rfl, rfl, rfl, rfl, rfl, rfl, rfl, rfl, rfl, rfl, rfl, rfl, rfl, rfl, rfl, rfl, rfl, rfl, rfl, rfl, rfl, rfl, rfl, rfl, rfl, rfl, rfl⟩

end Sys2Proof.Machine
end

