-- ==== Sys2Proof/Tests/Slice0.lean ====
section
/-! SUPPORT. Tests: words written out from the encoding tables of spec/02 to spec/13 decode to their instructions; a term
for each check of WellFormed that the check refuses; worked examples of the spec; the step from a word placed where it
fetches; and for every statement of Certificates/Slice0/Obligations.lean a state and operands that meet each of its
clauses' hypotheses together (`test_<statement>_met`, and `_met2` and so on where they are many). -/

set_option Elab.async false

open Sys2Proof.Machine

namespace Sys2Proof.Tests

/-! ### Decoding: one word of every instruction -/

/-- Major opcode and fn from the tables of the chapter, fields at the bits of 02 Tables 1, 4 to 8. -/
theorem test_decode_control :
    decodeWord 0x00E0000000080000 0 = .ok (.br ⟨7, false, 0, 2⟩) ∧
    decodeWord 0x01E0800000080000 0 = .ok (.call ⟨7, false, 16, 2⟩) ∧
    decodeWord 0x02E0800000080000 0 = .ok (.dbnz ⟨7, false, 16, 2⟩) ∧
    decodeWord 0x03E0800000080000 0 = .ok (.bz ⟨7, false, 16, 2⟩) ∧
    decodeWord 0x03E0800000081000 0 = .ok (.bnz ⟨7, false, 16, 2⟩) ∧
    decodeWord 0x04E0800000080000 0 = .ok (.bfull ⟨7, false, 16, 2⟩) ∧
    decodeWord 0x04E0800000081000 0 = .ok (.bempty ⟨7, false, 16, 2⟩) ∧
    decodeWord 0x05E0000000080000 0 = .ok (.bpend ⟨7, false, 0, 2⟩) ∧
    decodeWord 0x06E0008000000000 0 = .ok (.jmp ⟨7, false, 0, 32, 0, 0, 0, false, false, false, 0, 0⟩) ∧
    decodeWord 0x06E0808000001000 0 = .ok (.jcall ⟨7, false, 16, 32, 0, 0, 0, false, false, false, 0, 0⟩) ∧
    decodeWord 0x06E0008000002000 0 = .ok (.ret ⟨7, false, 0, 32, 0, 0, 0, false, false, false, 0, 0⟩) ∧
    decodeWord 0x07E0000000000000 0 = .ok (.pand ⟨7, false, 0, 0, 0, 0, 0, false, false, false, 0, 0⟩) ∧
    decodeWord 0x07E0000000001000 0 = .ok (.por ⟨7, false, 0, 0, 0, 0, 0, false, false, false, 0, 0⟩) ∧
    decodeWord 0x07E0000000002000 0 = .ok (.pxor ⟨7, false, 0, 0, 0, 0, 0, false, false, false, 0, 0⟩) ∧
    decodeWord 0x07E0000000003000 0 = .ok (.pandn ⟨7, false, 0, 0, 0, 0, 0, false, false, false, 0, 0⟩) ∧
    decodeWord 0x08E0008000000000 0 = .ok (.pset ⟨7, false, 0, 32, 0, 0, 0, false, false, false, 0, 0⟩) ∧
    decodeWord 0x08E0800000001000 0 = .ok (.pget ⟨7, false, 16, 0, 0, 0, 0, false, false, false, 0, 0⟩) ∧
    decodeWord 0x09E0000000000000 0 = .ok (.exit ⟨7, false, 0, 0, 0, 0, 0, false, false, false, 0, 0⟩) ∧
    decodeWord 0x0AE0000000000000 0 = .ok (.yield ⟨7, false, 0, 0, 0, 0, 0, false, false, false, 0, 0⟩) ∧
    decodeWord 0x0BE0000000000000 0 = .ok (.nop ⟨7, false, 0, 0, 0, 0, 0, false, false, false, 0, 0⟩) ∧
    decodeWord 0x0CE0000000000A00 0 = .ok (.pause ⟨7, false, 0, 0, 0, 5, false, false, 0, 0⟩) ∧
    decodeWord 0x0DE0000000000A00 0 = .ok (.brk ⟨7, false, 0, 0, 0, 5, false, false, 0, 0⟩) := by decide +kernel

/-- Major opcode and fn from the tables of the chapter, fields at the bits of 02 Tables 1, 4 to 8. -/
theorem test_decode_integer :
    decodeWord 0x20E0808060000000 0 = .ok (.add ⟨7, false, 16, 32, 48, 0, 0, false, false, false, 0, 0⟩) ∧
    decodeWord 0x21E0808060000000 0 = .ok (.sub ⟨7, false, 16, 32, 48, 0, 0, false, false, false, 0, 0⟩) ∧
    decodeWord 0x22E0808060000030 0 = .ok (.addc ⟨7, false, 16, 32, 48, 0, 0, false, false, false, 3, 0⟩) ∧
    decodeWord 0x23E0808060000030 0 = .ok (.subb ⟨7, false, 16, 32, 48, 0, 0, false, false, false, 3, 0⟩) ∧
    decodeWord 0x24E0808060000000 0 = .ok (.min ⟨7, false, 16, 32, 48, 0, 0, false, false, false, 0, 0⟩) ∧
    decodeWord 0x25E0808060000000 0 = .ok (.max ⟨7, false, 16, 32, 48, 0, 0, false, false, false, 0, 0⟩) ∧
    decodeWord 0x26E0808000000000 0 = .ok (.abs ⟨7, false, 16, 32, 0, 0, 0, false, false, false, 0, 0⟩) ∧
    decodeWord 0x27E0808060000000 0 = .ok (.mul ⟨7, false, 16, 32, 48, 0, 0, false, false, false, 0, 0⟩) ∧
    decodeWord 0x28E0808060000000 0 = .ok (.mulhi ⟨7, false, 16, 32, 48, 0, 0, false, false, false, 0, 0⟩) ∧
    decodeWord 0x29E0808060000000 0 = .ok (.mulw ⟨7, false, 16, 32, 48, 0, 0, false, false, false, 0, 0⟩) ∧
    decodeWord 0x2AE0808060400000 0 = .ok (.mad ⟨7, false, 16, 32, 48, 64, 0, false, false, false, 0, 0⟩) ∧
    decodeWord 0x2BE0808060000040 0 = .ok (.and ⟨7, false, 16, 32, 48, 0, 0, false, false, false, 4, 0⟩) ∧
    decodeWord 0x2CE0808060000040 0 = .ok (.or ⟨7, false, 16, 32, 48, 0, 0, false, false, false, 4, 0⟩) ∧
    decodeWord 0x2DE0808060000040 0 = .ok (.xor ⟨7, false, 16, 32, 48, 0, 0, false, false, false, 4, 0⟩) ∧
    decodeWord 0x2EE0808060000040 0 = .ok (.andn ⟨7, false, 16, 32, 48, 0, 0, false, false, false, 4, 0⟩) ∧
    decodeWord 0x2FE0808060000040 0 = .ok (.shl ⟨7, false, 16, 32, 48, 0, 0, false, false, false, 4, 0⟩) ∧
    decodeWord 0x30E0808060000040 0 = .ok (.shr ⟨7, false, 16, 32, 48, 0, 0, false, false, false, 4, 0⟩) ∧
    decodeWord 0x31E0808060000040 0 = .ok (.sar ⟨7, false, 16, 32, 48, 0, 0, false, false, false, 4, 0⟩) ∧
    decodeWord 0x32E0808060000040 0 = .ok (.ror ⟨7, false, 16, 32, 48, 0, 0, false, false, false, 4, 0⟩) ∧
    decodeWord 0x33E0808060400040 0 = .ok (.fsh ⟨7, false, 16, 32, 48, 64, 0, false, false, false, 4, 0⟩) ∧
    decodeWord 0x34E0808060000000 0 = .ok (.bfx ⟨7, false, 16, 32, 48, 0, 0, false, false, false, 0, 0⟩) ∧
    decodeWord 0x35E0808060400040 0 = .ok (.bfi ⟨7, false, 16, 32, 48, 64, 0, false, false, false, 4, 0⟩) ∧
    decodeWord 0x36E0808000000040 0 = .ok (.popc ⟨7, false, 16, 32, 0, 0, 0, false, false, false, 4, 0⟩) ∧
    decodeWord 0x37E0808000000040 0 = .ok (.clz ⟨7, false, 16, 32, 0, 0, 0, false, false, false, 4, 0⟩) ∧
    decodeWord 0x38E0808000000A00 0 = .ok (.addi ⟨7, false, 16, 32, 0, 5, false, false, 0, 0⟩) ∧
    decodeWord 0x39E0808000000A00 0 = .ok (.muli ⟨7, false, 16, 32, 0, 5, false, false, 0, 0⟩) ∧
    decodeWord 0x3AE0808000000A40 0 = .ok (.andi ⟨7, false, 16, 32, 0, 5, false, false, 4, 0⟩) ∧
    decodeWord 0x3BE0808000000A40 0 = .ok (.ori ⟨7, false, 16, 32, 0, 5, false, false, 4, 0⟩) ∧
    decodeWord 0x3CE0800000000A00 0 = .ok (.lid ⟨7, false, 16, 0, 0, 5, false, false, 0, 0⟩) ∧
    decodeWord 0x3DE0808000000A40 0 = .ok (.shli ⟨7, false, 16, 32, 0, 5, false, false, 4, 0⟩) ∧
    decodeWord 0x3EE0808000000A40 0 = .ok (.shri ⟨7, false, 16, 32, 0, 5, false, false, 4, 0⟩) ∧
    decodeWord 0x3FE0808000000A40 0 = .ok (.sari ⟨7, false, 16, 32, 0, 5, false, false, 4, 0⟩) ∧
    decodeWord 0x40E0808000000A00 0 = .ok (.bfxi ⟨7, false, 16, 32, 0, 5, false, false, 0, 0⟩) ∧
    decodeWord 0x41E0008000000A00 0 = .ok (.cmpi ⟨7, false, 0, 32, 0, 5, false, false, 0, 0⟩) ∧
    decodeWord 0x42E0808060000A00 0 = .ok (.lea ⟨7, false, 16, 32, 48, 5, false, false, 0, 0⟩) ∧
    decodeWord 0x43E0808060000A40 0 = .ok (.shup ⟨7, false, 16, 32, 48, 5, false, false, 4, 0⟩) ∧
    decodeWord 0x44E0808060000A40 0 = .ok (.shdn ⟨7, false, 16, 32, 48, 5, false, false, 4, 0⟩) ∧
    decodeWord 0x45E0808060000A40 0 = .ok (.shxor ⟨7, false, 16, 32, 48, 5, false, false, 4, 0⟩) ∧
    decodeWord 0x46E0008060000000 0 = .ok (.cmp ⟨7, false, 0, 32, 48, 0, 0, false, false, false, 0, 0⟩) ∧
    decodeWord 0x47E0808060000040 0 = .ok (.sel ⟨7, false, 16, 32, 48, 0, 0, false, false, false, 4, 0⟩) ∧
    decodeWord 0x48E0808060400040 0 = .ok (.shfl ⟨7, false, 16, 32, 48, 64, 0, false, false, false, 4, 0⟩) ∧
    decodeWord 0x49E0000060000000 0 = .ok (.vote ⟨7, false, 0, 0, 48, 0, 0, false, false, false, 0, 0⟩) ∧
    decodeWord 0x4AE0800060000000 0 = .ok (.ballot ⟨7, false, 16, 0, 48, 0, 0, false, false, false, 0, 0⟩) ∧
    decodeWord 0x4BE0808060000000 0 = .ok (.scan ⟨7, false, 16, 32, 48, 0, 0, false, false, false, 0, 0⟩) ∧
    decodeWord 0x4CE0800000000040 9 = .ok (.li ⟨7, false, 16, 0, false, false, 4, 0, 9⟩) ∧
    decodeWord 0x4CE0800000001050 9 = .ok (.lda ⟨7, false, 16, 0, false, false, 5, 0, 9⟩) := by decide +kernel

/-- Major opcode and fn from the tables of the chapter, fields at the bits of 02 Tables 1, 4 to 8. -/
theorem test_decode_float :
    decodeWord 0x50E0808060000000 0 = .ok (.fadd ⟨7, false, 16, 32, 48, 0, 0, false, false, false, 0, 0⟩) ∧
    decodeWord 0x51E0808060000000 0 = .ok (.fsub ⟨7, false, 16, 32, 48, 0, 0, false, false, false, 0, 0⟩) ∧
    decodeWord 0x52E0808060000000 0 = .ok (.fmul ⟨7, false, 16, 32, 48, 0, 0, false, false, false, 0, 0⟩) ∧
    decodeWord 0x53E0808060000000 0 = .ok (.fdiv ⟨7, false, 16, 32, 48, 0, 0, false, false, false, 0, 0⟩) ∧
    decodeWord 0x54E0808060400000 0 = .ok (.fma ⟨7, false, 16, 32, 48, 64, 0, false, false, false, 0, 0⟩) ∧
    decodeWord 0x54E0808060401000 0 = .ok (.fms ⟨7, false, 16, 32, 48, 64, 0, false, false, false, 0, 0⟩) ∧
    decodeWord 0x55E0808000000000 0 = .ok (.fsqrt ⟨7, false, 16, 32, 0, 0, 0, false, false, false, 0, 0⟩) ∧
    decodeWord 0x56E0808060000000 0 = .ok (.fmin ⟨7, false, 16, 32, 48, 0, 0, false, false, false, 0, 0⟩) ∧
    decodeWord 0x56E0808060001000 0 = .ok (.fmax ⟨7, false, 16, 32, 48, 0, 0, false, false, false, 0, 0⟩) ∧
    decodeWord 0x57E0808000000000 0 = .ok (.fabs ⟨7, false, 16, 32, 0, 0, 0, false, false, false, 0, 0⟩) ∧
    decodeWord 0x57E0808000001000 0 = .ok (.fneg ⟨7, false, 16, 32, 0, 0, 0, false, false, false, 0, 0⟩) ∧
    decodeWord 0x58E0808060000000 0 = .ok (.fcps ⟨7, false, 16, 32, 48, 0, 0, false, false, false, 0, 0⟩) ∧
    decodeWord 0x59E0008060000000 0 = .ok (.fcmp ⟨7, false, 0, 32, 48, 0, 0, false, false, false, 0, 0⟩) ∧
    decodeWord 0x5AE0808000000000 0 = .ok (.fclass ⟨7, false, 16, 32, 0, 0, 0, false, false, false, 0, 0⟩) ∧
    decodeWord 0x5BE0808000000000 0 = .ok (.frint ⟨7, false, 16, 32, 0, 0, 0, false, false, false, 0, 0⟩) ∧
    decodeWord 0x5CE0808060000000 0 = .ok (.fscale ⟨7, false, 16, 32, 48, 0, 0, false, false, false, 0, 0⟩) ∧
    decodeWord 0x5DE0808000000000 0 = .ok (.fgetexp ⟨7, false, 16, 32, 0, 0, 0, false, false, false, 0, 0⟩) ∧
    decodeWord 0x5DE0808000001000 0 = .ok (.fgetman ⟨7, false, 16, 32, 0, 0, 0, false, false, false, 0, 0⟩) ∧
    decodeWord 0x5EE0808000040000 0 = .ok (.fcvt ⟨7, false, 16, 32, 0, 4, 0, false, false, false, 0, 0⟩) ∧
    decodeWord 0x5FE0808000000000 0 = .ok (.fcvti ⟨7, false, 16, 32, 0, 0, 0, false, false, false, 0, 0⟩) ∧
    decodeWord 0x60E0808000000000 0 = .ok (.icvtf ⟨7, false, 16, 32, 0, 0, 0, false, false, false, 0, 0⟩) ∧
    decodeWord 0x61E0808060400020 0 = .ok (.fpk ⟨7, false, 16, 32, 48, 64, 0, false, false, false, 2, 0⟩ 0) ∧
    decodeWord 0x62E0808000001020 0 = .ok (.fupk ⟨7, false, 16, 32, 0, 0, 0, false, false, false, 2, 0⟩ 1) ∧
    decodeWord 0x63E0808000000000 0 = .ok (.frcpe ⟨7, false, 16, 32, 0, 0, 0, false, false, false, 0, 0⟩) ∧
    decodeWord 0x64E0808000000000 0 = .ok (.frsqe ⟨7, false, 16, 32, 0, 0, 0, false, false, false, 0, 0⟩) ∧
    decodeWord 0x65E0808000000000 0 = .ok (.fex2 ⟨7, false, 16, 32, 0, 0, 0, false, false, false, 0, 0⟩) ∧
    decodeWord 0x66E0808000000000 0 = .ok (.flg2 ⟨7, false, 16, 32, 0, 0, 0, false, false, false, 0, 0⟩) ∧
    decodeWord 0x67E0808000000000 0 = .ok (.fsinpi ⟨7, false, 16, 32, 0, 0, 0, false, false, false, 0, 0⟩) ∧
    decodeWord 0x67E0808000001000 0 = .ok (.fcospi ⟨7, false, 16, 32, 0, 0, 0, false, false, false, 0, 0⟩) ∧
    decodeWord 0x68E0808060400020 0 = .ok (.fdot2 ⟨7, false, 16, 32, 48, 64, 0, false, false, false, 2, 0⟩) ∧
    decodeWord 0x69E0808060000040 0 = .ok (.bqnt ⟨7, false, 16, 32, 48, 0, 0, false, false, false, 4, 0⟩) ∧
    decodeWord 0x6AE0808000000040 0 = .ok (.bdq ⟨7, false, 16, 32, 0, 0, 0, false, false, false, 4, 0⟩) ∧
    decodeWord 0x6BE0808060000000 0 = .ok (.fredAdd ⟨7, false, 16, 32, 48, 0, 0, false, false, false, 0, 0⟩) ∧
    decodeWord 0x6BE0808060001000 0 = .ok (.fredMin ⟨7, false, 16, 32, 48, 0, 0, false, false, false, 0, 0⟩) ∧
    decodeWord 0x6BE0808060002000 0 = .ok (.fredMax ⟨7, false, 16, 32, 48, 0, 0, false, false, false, 0, 0⟩) ∧
    decodeWord 0x6CE0808000000A00 0 = .ok (.faddi ⟨7, false, 16, 32, 0, 5, false, false, 0, 0⟩) ∧
    decodeWord 0x6DE0808000000A00 0 = .ok (.fmuli ⟨7, false, 16, 32, 0, 5, false, false, 0, 0⟩) ∧
    decodeWord 0x6EE0808060000A00 0 = .ok (.fmai ⟨7, false, 16, 32, 48, 5, false, false, 0, 0⟩) ∧
    decodeWord 0x6FE0008000000A00 0 = .ok (.fcmpi ⟨7, false, 0, 32, 0, 5, false, false, 0, 0⟩) ∧
    decodeWord 0x70E0800000000000 9 = .ok (.fli ⟨7, false, 16, 0, false, false, 0, 0, 9⟩) := by decide +kernel

/-- Major opcode and fn from the tables of the chapter, fields at the bits of 02 Tables 1, 4 to 8. -/
theorem test_decode_memory :
    decodeWord 0x80E0808000000000 0 = .ok (.ld ⟨7, false, 16, 32, 0, 0, 0, false, false, false, 0, 0⟩) ∧
    decodeWord 0x81E0808000000000 0 = .ok (.lds ⟨7, false, 16, 32, 0, 0, 0, false, false, false, 0, 0⟩) ∧
    decodeWord 0x82E0808060000000 0 = .ok (.ldx ⟨7, false, 16, 32, 48, 0, 0, false, false, false, 0, 0⟩) ∧
    decodeWord 0x83E0808060000000 0 = .ok (.ldxs ⟨7, false, 16, 32, 48, 0, 0, false, false, false, 0, 0⟩) ∧
    decodeWord 0x84E0808000000000 0 = .ok (.st ⟨7, false, 16, 32, 0, 0, 0, false, false, false, 0, 0⟩) ∧
    decodeWord 0x85E0808060000000 0 = .ok (.stx ⟨7, false, 16, 32, 48, 0, 0, false, false, false, 0, 0⟩) ∧
    decodeWord 0x86E0808000000000 0 = .ok (.ldnt ⟨7, false, 16, 32, 0, 0, 0, false, false, false, 0, 0⟩) ∧
    decodeWord 0x87E0808060000000 0 = .ok (.ldxnt ⟨7, false, 16, 32, 48, 0, 0, false, false, false, 0, 0⟩) ∧
    decodeWord 0x88E0808000000000 0 = .ok (.stnt ⟨7, false, 16, 32, 0, 0, 0, false, false, false, 0, 0⟩) ∧
    decodeWord 0x89E0808060000000 0 = .ok (.stxnt ⟨7, false, 16, 32, 48, 0, 0, false, false, false, 0, 0⟩) ∧
    decodeWord 0x8AE0808000000000 0 = .ok (.ldnf ⟨7, false, 16, 32, 0, 0, 0, false, false, false, 0, 0⟩) ∧
    decodeWord 0x8BE0808060000020 0 = .ok (.stbe ⟨7, false, 16, 32, 48, 0, 0, false, false, false, 2, 0⟩) ∧
    decodeWord 0x8CE0008000000000 0 = .ok (.pf ⟨7, false, 0, 32, 0, 0, 0, false, false, false, 0, 0⟩) ∧
    decodeWord 0x8DE0008060000000 0 = .ok (.pfx ⟨7, false, 0, 32, 48, 0, 0, false, false, false, 0, 0⟩) ∧
    decodeWord 0x8EE0808000000020 0 = .ok (.ldm ⟨7, false, 16, 32, 0, 0, 0, false, false, false, 2, 0⟩) ∧
    decodeWord 0x8FE0808000000020 0 = .ok (.stm ⟨7, false, 16, 32, 0, 0, 0, false, false, false, 2, 0⟩) ∧
    decodeWord 0x90E0808060000000 0 = .ok (.tlbp ⟨7, false, 16, 32, 48, 0, 0, false, false, false, 0, 0⟩) ∧
    decodeWord 0x91E0808000000003 0 = .ok (.tlbi ⟨7, false, 16, 32, 0, 0, 0, false, false, false, 0, 3⟩) ∧
    decodeWord 0x92E0000000000003 0 = .ok (.tlbs ⟨7, false, 0, 0, 0, 0, 0, false, false, false, 0, 3⟩) ∧
    decodeWord 0x93E0008000000000 0 = .ok (.pois ⟨7, false, 0, 32, 0, 0, 0, false, false, false, 0, 0⟩) ∧
    decodeWord 0x94E0008060400000 0 = .ok (.spmap ⟨7, false, 0, 32, 48, 64, 0, false, false, false, 0, 0⟩) ∧
    decodeWord 0x94E0008060401000 0 = .ok (.spmapz ⟨7, false, 0, 32, 48, 64, 0, false, false, false, 0, 0⟩) ∧
    decodeWord 0x94E0000000002000 0 = .ok (.spclr ⟨7, false, 0, 0, 0, 0, 0, false, false, false, 0, 0⟩) ∧
    decodeWord 0x94E0000000003000 0 = .ok (.spwb ⟨7, false, 0, 0, 0, 0, 0, false, false, false, 0, 0⟩) ∧
    decodeWord 0x94E0000000004000 0 = .ok (.spdrop ⟨7, false, 0, 0, 0, 0, 0, false, false, false, 0, 0⟩) ∧
    decodeWord 0x95E0808060000000 0 = .ok (.ldts ⟨7, false, 16, 32, 48, 0, 0, false, false, false, 0, 0⟩) ∧
    decodeWord 0x96E0008060400000 0 = .ok (.stts ⟨7, false, 0, 32, 48, 64, 0, false, false, false, 0, 0⟩) ∧
    decodeWord 0x97E0000060000000 0 = .ok (.tsfree ⟨7, false, 0, 0, 48, 0, 0, false, false, false, 0, 0⟩) ∧
    decodeWord 0x97E0800060001000 0 = .ok (.tsstat ⟨7, false, 16, 0, 48, 0, 0, false, false, false, 0, 0⟩) := by decide +kernel

/-- Major opcode and fn from the tables of the chapter, fields at the bits of 02 Tables 1, 4 to 8. -/
theorem test_decode_tiles :
    decodeWord 0xA0E0008000000000 0 = .ok (.thacq ⟨7, false, 0, 32, 0, 0, 0, false, false, false, 0, 0⟩) ∧
    decodeWord 0xA1E0008000000000 0 = .ok (.thpf ⟨7, false, 0, 32, 0, 0, 0, false, false, false, 0, 0⟩) ∧
    decodeWord 0xA2E0008000000000 0 = .ok (.threl ⟨7, false, 0, 32, 0, 0, 0, false, false, false, 0, 0⟩) ∧
    decodeWord 0xA3E0008000000000 0 = .ok (.thdown ⟨7, false, 0, 32, 0, 0, 0, false, false, false, 0, 0⟩) ∧
    decodeWord 0xA4E0008000000000 0 = .ok (.thclose ⟨7, false, 0, 32, 0, 0, 0, false, false, false, 0, 0⟩) ∧
    decodeWord 0xA6E0008000000000 0 = .ok (.thwb ⟨7, false, 0, 32, 0, 0, 0, false, false, false, 0, 0⟩) ∧
    decodeWord 0xA5E0808060000000 0 = .ok (.thsplit ⟨7, false, 16, 32, 48, 0, 0, false, false, false, 0, 0⟩) ∧
    decodeWord 0xA7E0008060000000 0 = .ok (.thbind ⟨7, false, 0, 32, 48, 0, 0, false, false, false, 0, 0⟩) ∧
    decodeWord 0xA8E0000060000000 0 = .ok (.thunbind ⟨7, false, 0, 0, 48, 0, 0, false, false, false, 0, 0⟩) ∧
    decodeWord 0xA9E0808000000000 0 = .ok (.thstat ⟨7, false, 16, 32, 0, 0, 0, false, false, false, 0, 0⟩) ∧
    decodeWord 0xAAE0808000000000 0 = .ok (.thext ⟨7, false, 16, 32, 0, 0, 0, false, false, false, 0, 0⟩) ∧
    decodeWord 0xABE0808000000000 0 = .ok (.thprobe ⟨7, false, 16, 32, 0, 0, 0, false, false, false, 0, 0⟩) ∧
    decodeWord 0xACE0808000000000 0 = .ok (.thopen ⟨7, false, 16, 32, 0, 0, 0, false, false, false, 0, 0⟩) ∧
    decodeWord 0xADE0808000000000 0 = .ok (.thdesc ⟨7, false, 16, 32, 0, 0, 0, false, false, false, 0, 0⟩) := by decide +kernel

/-- Major opcode and fn from the tables of the chapter, fields at the bits of 02 Tables 1, 4 to 8. -/
theorem test_decode_sync :
    decodeWord 0xB0E0808060000040 0 = .ok (.cas ⟨7, false, 16, 32, 48, 0, 0, false, false, false, 4, 0⟩) ∧
    decodeWord 0xB1E0808060000040 0 = .ok (.swap ⟨7, false, 16, 32, 48, 0, 0, false, false, false, 4, 0⟩) ∧
    decodeWord 0xB2E0808060000000 0 = .ok (.aadd ⟨7, false, 16, 32, 48, 0, 0, false, false, false, 0, 0⟩) ∧
    decodeWord 0xB3E0808060000000 0 = .ok (.amin ⟨7, false, 16, 32, 48, 0, 0, false, false, false, 0, 0⟩) ∧
    decodeWord 0xB4E0808060000000 0 = .ok (.amax ⟨7, false, 16, 32, 48, 0, 0, false, false, false, 0, 0⟩) ∧
    decodeWord 0xB5E0808060000000 0 = .ok (.afadd ⟨7, false, 16, 32, 48, 0, 0, false, false, false, 0, 0⟩) ∧
    decodeWord 0xB6E0808000000000 0 = .ok (.xadd ⟨7, false, 16, 32, 0, 0, 0, false, false, false, 0, 0⟩) ∧
    decodeWord 0xB7E0808000000000 0 = .ok (.xrd ⟨7, false, 16, 32, 0, 0, 0, false, false, false, 0, 0⟩) ∧
    decodeWord 0xB8E0808060000040 0 = .ok (.aand ⟨7, false, 16, 32, 48, 0, 0, false, false, false, 4, 0⟩) ∧
    decodeWord 0xB8E0808060001040 0 = .ok (.aor ⟨7, false, 16, 32, 48, 0, 0, false, false, false, 4, 0⟩) ∧
    decodeWord 0xB8E0808060002040 0 = .ok (.axor ⟨7, false, 16, 32, 48, 0, 0, false, false, false, 4, 0⟩) ∧
    decodeWord 0xB8E0808060003030 0 = .ok (.ainc ⟨7, false, 16, 32, 48, 0, 0, false, false, false, 3, 0⟩) ∧
    decodeWord 0xB9E0000000000001 0 = .ok (.fence ⟨7, false, 0, 0, 0, 0, 0, false, false, false, 0, 1⟩) ∧
    decodeWord 0xB9E0000000001001 0 = .ok (.fenceAcq ⟨7, false, 0, 0, 0, 0, 0, false, false, false, 0, 1⟩) ∧
    decodeWord 0xB9E0000000002001 0 = .ok (.fenceRel ⟨7, false, 0, 0, 0, 0, 0, false, false, false, 0, 1⟩) ∧
    decodeWord 0xBAE0008000000000 0 = .ok (.rvinit ⟨7, false, 0, 32, 0, 0, 0, false, false, false, 0, 0⟩) ∧
    decodeWord 0xBAE0000000001000 0 = .ok (.rvarrive ⟨7, false, 0, 0, 0, 0, 0, false, false, false, 0, 0⟩) ∧
    decodeWord 0xBAE0000000002000 0 = .ok (.rvwait ⟨7, false, 0, 0, 0, 0, 0, false, false, false, 0, 0⟩) ∧
    decodeWord 0xBAE0000000003000 0 = .ok (.rvwaitSpec ⟨7, false, 0, 0, 0, 0, 0, false, false, false, 0, 0⟩) ∧
    decodeWord 0xBAE0000000004000 0 = .ok (.rvsync ⟨7, false, 0, 0, 0, 0, 0, false, false, false, 0, 0⟩) ∧
    decodeWord 0xBAE0000000005000 0 = .ok (.rvpoll ⟨7, false, 0, 0, 0, 0, 0, false, false, false, 0, 0⟩) ∧
    decodeWord 0xBBE0008000000000 0 = .ok (.gbinit ⟨7, false, 0, 32, 0, 0, 0, false, false, false, 0, 0⟩) ∧
    decodeWord 0xBBE0000000001000 0 = .ok (.gbarrive ⟨7, false, 0, 0, 0, 0, 0, false, false, false, 0, 0⟩) ∧
    decodeWord 0xBBE0000000002000 0 = .ok (.gbwait ⟨7, false, 0, 0, 0, 0, 0, false, false, false, 0, 0⟩) ∧
    decodeWord 0xBBE0000000003000 0 = .ok (.gbsync ⟨7, false, 0, 0, 0, 0, 0, false, false, false, 0, 0⟩) ∧
    decodeWord 0xBCE0808060000040 0 = .ok (.waitvEq ⟨7, false, 16, 32, 48, 0, 0, false, false, false, 4, 0⟩) ∧
    decodeWord 0xBCE0808060001040 0 = .ok (.waitvNe ⟨7, false, 16, 32, 48, 0, 0, false, false, false, 4, 0⟩) ∧
    decodeWord 0xBDE0000000000000 0 = .ok (.specwait ⟨7, false, 0, 0, 0, 0, 0, false, false, false, 0, 0⟩) ∧
    decodeWord 0xBEE0008060000000 0 = .ok (.xset ⟨7, false, 0, 32, 48, 0, 0, false, false, false, 0, 0⟩) ∧
    decodeWord 0xBFE0800000000000 0 = .ok (.rvstat ⟨7, false, 16, 0, 0, 0, 0, false, false, false, 0, 0⟩) := by decide +kernel

/-- Major opcode and fn from the tables of the chapter, fields at the bits of 02 Tables 1, 4 to 8. -/
theorem test_decode_matrix :
    decodeWord 0xC0E0180000100380 0 = .ok (.mlds ⟨7, false, 3, 0, 0, 2, 3, true, 0, 0⟩) ∧
    decodeWord 0xC1E0188000000380 0 = .ok (.mldl ⟨7, false, 3, 32, 0, 0, 3, true, 0, 0⟩) ∧
    decodeWord 0xC2E0180000000000 0 = .ok (.mswap ⟨7, false, 3, 0, 0, 0, 0, false, 0, 0⟩) ∧
    decodeWord 0xC3E0188060100380 0 = .ok (.mmul ⟨7, false, 3, 32, 48, 2, 3, true, 0, 0⟩) ∧
    decodeWord 0xC3E0188060101380 0 = .ok (.mmulz ⟨7, false, 3, 32, 48, 2, 3, true, 0, 0⟩) ∧
    decodeWord 0xC4E0188060100380 0 = .ok (.acst ⟨7, false, 3, 32, 48, 2, 3, true, 0, 0⟩) ∧
    decodeWord 0xC5E0188060100380 0 = .ok (.acld ⟨7, false, 3, 32, 48, 2, 3, true, 0, 0⟩) ∧
    decodeWord 0xC6E0188060100380 0 = .ok (.acsclRow ⟨7, false, 3, 32, 48, 2, 3, true, 0, 0⟩) ∧
    decodeWord 0xC6E0188060101380 0 = .ok (.acsclCol ⟨7, false, 3, 32, 48, 2, 3, true, 0, 0⟩) ∧
    decodeWord 0xC7E0188060100380 0 = .ok (.acnrm ⟨7, false, 3, 32, 48, 2, 3, true, 0, 0⟩) ∧
    decodeWord 0xC8E0188060100380 0 = .ok (.acredMax ⟨7, false, 3, 32, 48, 2, 3, true, 0, 0⟩) ∧
    decodeWord 0xC8E0188060101380 0 = .ok (.acredSum ⟨7, false, 3, 32, 48, 2, 3, true, 0, 0⟩) ∧
    decodeWord 0xC9E0188060100380 0 = .ok (.acbias ⟨7, false, 3, 32, 48, 2, 3, true, 0, 0⟩) ∧
    decodeWord 0xCAE0008000000000 0 = .ok (.cvinit ⟨7, false, 0, 32, 0, 0, 0, false, false, false, 0, 0⟩) ∧
    decodeWord 0xCAE0000000001000 0 = .ok (.msign ⟨7, false, 0, 0, 0, 0, 0, false, false, false, 0, 0⟩) ∧
    decodeWord 0xCBE0000000000000 0 = .ok (.mwait ⟨7, false, 0, 0, 0, 0, 0, false, false, false, 0, 0⟩) ∧
    decodeWord 0xCCE0800000000000 0 = .ok (.mstat ⟨7, false, 16, 0, 0, 0, 0, false, false, false, 0, 0⟩) ∧
    decodeWord 0xCCE0000000001000 0 = .ok (.mstclr ⟨7, false, 0, 0, 0, 0, 0, false, false, false, 0, 0⟩) ∧
    decodeWord 0xCDE0808000000000 0 = .ok (.acrd ⟨7, false, 16, 32, 0, 0, 0, false, false, false, 0, 0⟩) ∧
    decodeWord 0xCDE0008060001000 0 = .ok (.acwr ⟨7, false, 0, 32, 48, 0, 0, false, false, false, 0, 0⟩) ∧
    decodeWord 0xCEE0008060000000 0 = .ok (.acclr ⟨7, false, 0, 32, 48, 0, 0, false, false, false, 0, 0⟩) ∧
    decodeWord 0xCFE0800000000000 0 = .ok (.mplane ⟨7, false, 16, 0, 0, 0, 0, false, false, false, 0, 0⟩) := by decide +kernel

/-- Major opcode and fn from the tables of the chapter, fields at the bits of 02 Tables 1, 4 to 8. -/
theorem test_decode_engines :
    decodeWord 0xD0E0808060000380 0 = .ok (.cpy ⟨7, false, 16, 32, 48, 0, 3, true, 0, 0⟩) ∧
    decodeWord 0xD1E0808060000380 0 = .ok (.fill ⟨7, false, 16, 32, 48, 0, 3, true, 0, 0⟩) ∧
    decodeWord 0xD2E0808060100380 0 = .ok (.cpts ⟨7, false, 16, 32, 48, 2, 3, true, 0, 0⟩) ∧
    decodeWord 0xD3E0808000100380 0 = .ok (.cpfs ⟨7, false, 16, 32, 0, 2, 3, true, 0, 0⟩) ∧
    decodeWord 0xD4E0808060000380 0 = .ok (.cpald ⟨7, false, 16, 32, 48, 0, 3, true, 0, 0⟩) ∧
    decodeWord 0xD5E0808060000380 0 = .ok (.cpast ⟨7, false, 16, 32, 48, 0, 3, true, 0, 0⟩) ∧
    decodeWord 0xD6E0008060000380 0 = .ok (.gcp ⟨7, false, 0, 32, 48, 0, 3, true, 0, 0⟩) ∧
    decodeWord 0xD7E0008060100380 0 = .ok (.gcpts ⟨7, false, 0, 32, 48, 2, 3, true, 0, 0⟩) ∧
    decodeWord 0xD8E0808000000380 0 = .ok (.expf ⟨7, false, 16, 32, 0, 0, 3, true, 0, 0⟩) ∧
    decodeWord 0xD9E0808000000380 0 = .ok (.exwb ⟨7, false, 16, 32, 0, 0, 3, true, 0, 0⟩) ∧
    decodeWord 0xDAE0008000000000 0 = .ok (.waitlt ⟨7, false, 0, 32, 0, 0, 0, false, false, false, 0, 0⟩) ∧
    decodeWord 0xDAE0800000001000 0 = .ok (.ccrd ⟨7, false, 16, 0, 0, 0, 0, false, false, false, 0, 0⟩) ∧
    decodeWord 0xDAE0008000002000 0 = .ok (.ccadd ⟨7, false, 0, 32, 0, 0, 0, false, false, false, 0, 0⟩) ∧
    decodeWord 0xDBE0000000000000 0 = .ok (.ccclr ⟨7, false, 0, 0, 0, 0, 0, false, false, false, 0, 0⟩) := by decide +kernel

/-- Major opcode and fn from the tables of the chapter, fields at the bits of 02 Tables 1, 4 to 8. -/
theorem test_decode_refine :
    decodeWord 0xE0E0008000000000 0 = .ok (.refine ⟨7, false, 0, 32, 0, 0, 0, false, 0, 0⟩) ∧
    decodeWord 0xE1E0008000000000 0 = .ok (.rfres ⟨7, false, 0, 32, 0, 0, 0, false, 0, 0⟩) ∧
    decodeWord 0xE2E0008000000000 0 = .ok (.rfchk ⟨7, false, 0, 32, 0, 0, 0, false, 0, 0⟩) ∧
    decodeWord 0xE3E0008000000000 0 = .ok (.rfcancel ⟨7, false, 0, 32, 0, 0, 0, false, 0, 0⟩) ∧
    decodeWord 0xE4E0008000000000 0 = .ok (.rfwait ⟨7, false, 0, 32, 0, 0, 0, false, false, false, 0, 0⟩) ∧
    decodeWord 0xE5E0808000000000 0 = .ok (.rfstat ⟨7, false, 16, 32, 0, 0, 0, false, false, false, 0, 0⟩) := by decide +kernel

/-- Major opcode and fn from the tables of the chapter, fields at the bits of 02 Tables 1, 4 to 8. -/
theorem test_decode_system :
    decodeWord 0xE8E0800000400000 0 = .ok (.mfs ⟨7, false, 16, 0, 0, 64, 0, false, false, false, 0, 0⟩) ∧
    decodeWord 0xE8E0008000401000 0 = .ok (.mts ⟨7, false, 0, 32, 0, 64, 0, false, false, false, 0, 0⟩) ∧
    decodeWord 0xE8E0008000402000 0 = .ok (.mtsset ⟨7, false, 0, 32, 0, 64, 0, false, false, false, 0, 0⟩) ∧
    decodeWord 0xE8E0008000403000 0 = .ok (.mtsclr ⟨7, false, 0, 32, 0, 64, 0, false, false, false, 0, 0⟩) ∧
    decodeWord 0xE9E0000000000000 0 = .ok (.tret ⟨7, false, 0, 0, 0, 0, 0, false, false, false, 0, 0⟩) ∧
    decodeWord 0xE9E0000000001000 0 = .ok (.tmask ⟨7, false, 0, 0, 0, 0, 0, false, false, false, 0, 0⟩) ∧
    decodeWord 0xE9E0000000002000 0 = .ok (.tunmask ⟨7, false, 0, 0, 0, 0, 0, false, false, false, 0, 0⟩) ∧
    decodeWord 0xE9E0008000003000 0 = .ok (.tabort ⟨7, false, 0, 32, 0, 0, 0, false, false, false, 0, 0⟩) ∧
    decodeWord 0xEAE0008000000000 0 = .ok (.tmplace ⟨7, false, 0, 32, 0, 0, 0, false, false, false, 0, 0⟩) ∧
    decodeWord 0xEAE0008000001000 0 = .ok (.tmsave ⟨7, false, 0, 32, 0, 0, 0, false, false, false, 0, 0⟩) ∧
    decodeWord 0xEAE0008000002000 0 = .ok (.tmrest ⟨7, false, 0, 32, 0, 0, 0, false, false, false, 0, 0⟩) ∧
    decodeWord 0xEAE0008000003000 0 = .ok (.tmflush ⟨7, false, 0, 32, 0, 0, 0, false, false, false, 0, 0⟩) ∧
    decodeWord 0xEAE0008000004000 0 = .ok (.tmkill ⟨7, false, 0, 32, 0, 0, 0, false, false, false, 0, 0⟩) ∧
    decodeWord 0xEBE0808000000000 0 = .ok (.tkclaim ⟨7, false, 16, 32, 0, 0, 0, false, false, false, 0, 0⟩) ∧
    decodeWord 0xEBE0008000001000 0 = .ok (.tkdone ⟨7, false, 0, 32, 0, 0, 0, false, false, false, 0, 0⟩) ∧
    decodeWord 0xECE0800000000000 0 = .ok (.ftime ⟨7, false, 16, 0, 0, 0, 0, false, false, false, 0, 0⟩) ∧
    decodeWord 0xEDE0800000000000 0 = .ok (.fwidle ⟨7, false, 16, 0, 0, 0, 0, false, false, false, 0, 0⟩) ∧
    decodeWord 0xEDE0008000001000 0 = .ok (.fwsev ⟨7, false, 0, 32, 0, 0, 0, false, false, false, 0, 0⟩) ∧
    decodeWord 0xEEE0808060000000 0 = .ok (.qpost ⟨7, false, 16, 32, 48, 0, 0, false, false, false, 0, 0⟩) ∧
    decodeWord 0xEFE0800000000000 0 = .ok (.rdcyc ⟨7, false, 16, 0, 0, 0, 0, false, false, false, 0, 0⟩) := by decide +kernel

/-- Major opcode and fn from the tables of the chapter, fields at the bits of 02 Tables 1, 4 to 8. -/
theorem test_decode_extents :
    decodeWord 0xF0E0808060000000 0 = .ok (.lsreq ⟨7, false, 16, 32, 48, 0, 0, false, false, false, 0, 0⟩) ∧
    decodeWord 0xF0E0808060001000 0 = .ok (.lsrenew ⟨7, false, 16, 32, 48, 0, 0, false, false, false, 0, 0⟩) ∧
    decodeWord 0xF0E0808000002000 0 = .ok (.lsdrop ⟨7, false, 16, 32, 0, 0, 0, false, false, false, 0, 0⟩) ∧
    decodeWord 0xF1E0008060000000 0 = .ok (.exlend ⟨7, false, 0, 32, 48, 0, 0, false, false, false, 0, 0⟩) ∧
    decodeWord 0xF1E0808000001000 0 = .ok (.lsrecall ⟨7, false, 16, 32, 0, 0, 0, false, false, false, 0, 0⟩) ∧
    decodeWord 0xF2E0808000000000 0 = .ok (.lsrd ⟨7, false, 16, 32, 0, 0, 0, false, false, false, 0, 0⟩) ∧
    decodeWord 0xF3E0808060000000 0 = .ok (.kyopen ⟨7, false, 16, 32, 48, 0, 0, false, false, false, 0, 0⟩) ∧
    decodeWord 0xF3E0808000001000 0 = .ok (.kyclose ⟨7, false, 16, 32, 0, 0, 0, false, false, false, 0, 0⟩) ∧
    decodeWord 0xF4E0800000000000 0 = .ok (.fmcand ⟨7, false, 16, 0, false, false, 0, 0, 0⟩) ∧
    decodeWord 0xF5E0808060000380 0 = .ok (.exmig ⟨7, false, 16, 32, 48, 0, 3, true, 0, 0⟩) := by decide +kernel

/-- Words that the chapters write out in their examples. -/
theorem test_decode_examples :
    decodeWord 0x0DE0000000005400 0 = .ok (.brk ⟨7, false, 0, 0, 0, 42, false, false, 0, 0⟩) ∧
    decodeWord 0x20E038140C000500 0 = .ok (.add ⟨7, false, 7, 5, 6, 0, 1, false, true, false, 0, 0⟩) ∧
    decodeWord 0x4BE0281002080010 0 = .ok (.scan ⟨7, false, 5, 4, 1, 8, 0, false, false, false, 1, 0⟩) ∧
    decodeWord 0x69E0180802000040 0 = .ok (.bqnt ⟨7, false, 3, 2, 1, 0, 0, false, false, false, 4, 0⟩) ∧
    decodeWord 0x85E0382008000020 0 = .ok (.stx ⟨7, false, 7, 8, 4, 0, 0, false, false, false, 2, 0⟩) ∧
    decodeWord 0xA0E0001400010000 0 = .ok (.thacq ⟨7, false, 0, 5, 0, 1, 0, false, false, false, 0, 0⟩) ∧
    decodeWord 0xBAE0000000033000 0 = .ok (.rvwaitSpec ⟨7, false, 0, 0, 0, 3, 0, false, false, false, 0, 0⟩) ∧
    decodeWord 0xCAE0000000011000 0 = .ok (.msign ⟨7, false, 0, 0, 0, 1, 0, false, false, false, 0, 0⟩) ∧
    decodeWord 0xD2E04013FE000080 0 = .ok (.cpts ⟨7, false, 8, 4, 511, 0, 0, true, 0, 0⟩) ∧
    decodeWord 0xDAE0003000000000 0 = .ok (.waitlt ⟨7, false, 0, 12, 0, 0, 0, false, false, false, 0, 0⟩) ∧
    decodeWord 0xE4E0001800000000 0 = .ok (.rfwait ⟨7, false, 0, 6, 0, 0, 0, false, false, false, 0, 0⟩) ∧
    decodeWord 0xEEE0300810000000 0 = .ok (.qpost ⟨7, false, 6, 2, 8, 0, 0, false, false, false, 0, 0⟩) := by decide +kernel

/-- Reason 0x01 for a header, 0x04 for an unassigned major opcode, 0x05 for an fn or ty that names nothing, 0x06 for a reserved
bit (02 Table 11); the bytes of a word stand lowest first (00 R4), and an L-form takes two words. -/
theorem test_decode_refused :
    decodeWord 0xF8050C0003000183 0 = .illegal 1 ∧ decodeWord 0x1000000000000000 0 = .illegal 4 ∧
    decodeWord 0x09E0000000001000 0 = .illegal 5 ∧ decodeWord 0x20E0381418000040 0 = .illegal 5 ∧
    decodeWord 0x09E0000000000200 0 = .illegal 6 ∧
    decode [0x00, 0, 0, 0, 0, 0, 0xE0] = none ∧
    decode [0x00, 0, 0, 0, 0, 0, 0xE0, 0x09, 7] = some (.ok (.exit ⟨7, false, 0, 0, 0, 0, 0, false, false, false, 0, 0⟩), [7]) ∧
    decodeHouse 0x00B5040B = some (.twlV 8 10 11) ∧ decodeHouse 0x00B5042B = none := by decide +kernel

/-! ### WellFormed refuses -/

/-- A type, a modifier and a mode that the instruction does not accept (reason 0x05); then a reserved register field, the emp
bit of a source it does not read, a predicate field above 7, a reserved code bit, a predicated collective, a counter
named without cce, and a reserved field of its own (reason 0x06). -/
theorem test_ill_formed :
    (Instr.mulw ⟨7, false, 16, 32, 48, 0, 0, false, false, false, 5, 0⟩).wellFormed = false ∧
    (Instr.mulw ⟨7, false, 16, 32, 48, 0, 0, false, false, false, 0, 8⟩).wellFormed = false ∧
    (Instr.vote ⟨7, false, 0, 0, 48, 3, 0, false, false, false, 0, 0⟩).wellFormed = false ∧
    (Instr.add ⟨7, false, 16, 32, 48, 1, 0, false, false, false, 0, 0⟩).fieldsClear = false ∧
    (Instr.abs ⟨7, false, 16, 32, 0, 0, 0, false, true, false, 0, 0⟩).fieldsClear = false ∧
    (Instr.pand ⟨7, false, 8, 0, 0, 0, 0, false, false, false, 0, 0⟩).fieldsClear = false ∧
    (Instr.scan ⟨7, false, 16, 32, 48, 16, 0, false, false, false, 0, 0⟩).fieldsClear = false ∧
    (Instr.ballot ⟨6, false, 16, 0, 48, 0, 0, false, false, false, 0, 0⟩).fieldsClear = false ∧
    (Instr.cpy ⟨7, false, 16, 32, 48, 0, 3, false, 0, 0⟩).fieldsClear = false ∧
    (Instr.cpy ⟨7, false, 16, 32, 48, 1, 3, true, 0, 0⟩).fieldsClear = false := by decide +kernel
/-- An event is no word, and every instruction is. -/
theorem test_isWord : (Instr.pauseExpiry 0 0 0).isWord = false ∧ (Instr.twlV 0 0 0).isWord = true ∧
    (Instr.exit ⟨7, false, 0, 0, 0, 0, 0, false, false, false, 0, 0⟩).isWord = true := by decide +kernel
/-- The encoder writes the spec's own word (02 Table 12). -/
theorem test_encode_add : encodeWord (.add ⟨3, false, 7, 5, 6, 0, 1, false, true, false, 0, 0⟩) = some 0x206038140C000500 := by decide +kernel

/-! ### States and helpers -/

/-- A lane at the first body word of a block of four words. -/
def here : Thread := { mode := .ready, ctl := { pc := 0x108, bh := 0x100, len := 4, entry := false } }
/-- A team of one weave on core 0 with `n` lanes at that word, its code mapped at 0 and data at 0x80000; the cursor names its group. -/
def demo (n : Nat) : State :=
  let s := ((State.reset.placeCode 1).poke 0x6008 8 0x132F).modCore 0 (fun k => { k with
    weaves := [(0, { team := some 1, threads := (List.range n).map (fun l => (l, here)) })],
    teams := [(1, { id := 1, ctx := 1, slots := [0], handler := 0x4000, spadBanks := [0], bufBanks := [1], garBanks := [2], gang := 1, launch := 2,
                    kd := { regs := 511, rv := 24, cv := 16, cc := 16, gb := 8, slots := 64, spec := 1 } })] })
  { s with cur := { core := 0, slot := 0, lanes := maskOf (List.range n) } }
abbrev D : State := demo 1
/-- The firmware agent of core 0 at such a word. -/
def agent : State :=
  let s := ((State.reset.placeCode 0).poke 0x6008 8 0x132F).modCore 0 (fun k => { k with weaves := [(47, { threads := [(0, here)] })] })
  { s with cur := { core := 0, slot := 47, lanes := 1 } }
/-- What an issue finds, where the checks pass. -/
def iss (i : Instr) (s : State) : Iss :=
  match s.group with
  | some g =>
    match s.gate g i (i.fields.getD {}) i.row i.speculates with
    | .go x => x
    | _ => { g := g, i := i, f := {}, r := i.row, ex := [], old := s }
  | none => { g := { core := 0, slot := 0, lanes := [], pc := 0, ctl := {}, spec := false }, i := i, f := {}, r := i.row, ex := [], old := s }
/-- Changes of a state: registers of lane 0, its thread, its weave, its team, core 0. -/
def reg (n v : Nat) (s : State) : State := s.modThread s.cur.core s.cur.slot 0 (fun t => t.dest (BitVec.ofNat 9 n) 64 v)
def th (g : Thread → Thread) (s : State) : State := s.modThread s.cur.core s.cur.slot 0 g
def wv (g : Weave → Weave) (s : State) : State := s.modWeave s.cur.core s.cur.slot g
def tm (g : Team → Team) (s : State) : State := s.modTeam 1 g
def cr (g : Core → Core) (s : State) : State := s.modCore 0 g
/-- Existence of what a check answers, from the answer itself. -/
def parts : Met → Option (State × List Lane)
  | .go u qs => some (u, qs)
  | _ => none
theorem ex_go {m : Met} {p : State → List Lane → Prop} (h : ((parts m).any fun e => decide (m = .go e.1 e.2)) = true)
    (hp : p (((parts m).map (·.1)).getD {}) (((parts m).map (·.2)).getD [])) : ∃ u qs, m = .go u qs ∧ p u qs := by
  cases m with
  | go u qs => exact ⟨u, qs, rfl, hp⟩
  | stop a => simp [parts] at h
theorem ex_some {α : Type} {a : Option α} {p : α → Prop} (h : a.isSome = true) (hp : p (a.get h)) : ∃ k, a = some k ∧ p k :=
  ⟨a.get h, by simp, hp⟩
theorem ex_pair {α β : Type} {a : Option (α × β)} {p : α → β → Prop} (h : a.isSome = true) (hp : p (a.get h).1 (a.get h).2) :
    ∃ u qs, a = some (u, qs) ∧ p u qs := ⟨(a.get h).1, (a.get h).2, by simp, hp⟩
def inData : Loc → Bool
  | .mem pa => !regsAddr pa
  | _ => false
theorem data_of {l : Loc} (h : inData l = true) : l.isData := by
  cases l with
  | mem pa => exact ⟨pa, rfl, by simpa [inData] using h⟩
  | spad => simp [inData] at h
theorem all_data {qs : List Lane} (h : (qs.all fun q => inData q.loc) = true) : ∀ q ∈ qs, q.loc.isData :=
  fun q hq => data_of (List.all_eq_true.mp h q hq)
theorem all_data_and {qs : List Lane} {p : Lane → Prop} [DecidablePred p] (h : (qs.all fun q => inData q.loc && decide (p q)) = true) :
    ∀ q ∈ qs, q.loc.isData ∧ p q := fun q hq => by
  have := List.all_eq_true.mp h q hq
  simp at this
  exact ⟨data_of this.1, this.2⟩
theorem get_all {α : Type} (d : α) (p : α → Bool) (hd : p d = true) (k : Nat) : ∀ t : Tab α, (t.all fun e => p e.2) = true → p (tabGet d k t) = true
  | [], _ => by simpa [tabGet, tabFind] using hd
  | e :: t, h => by
    simp only [List.all_cons, Bool.and_eq_true] at h
    have := get_all d p hd k t h.2
    simp only [tabGet, tabFind] at this ⊢
    split
    · exact h.1
    · exact this
theorem calm {s : State} {c : Nat} (h : ((s.core c).weaves.all fun w => w.2.threads.all fun t => t.2.spec.isNone) = true) :
    ∀ w l, (s.thread c w l).spec = none := fun w l => by
  have a := get_all ({} : Weave) (fun w => w.threads.all fun t => t.2.spec.isNone) rfl w _ h
  have b := get_all ({} : Thread) (fun t => t.spec.isNone) rfl l _ a
  exact Option.isNone_iff_eq_none.mp b
theorem ex_ok {ε α β : Type} {a : Except ε (α × β)} {p : α → β → Prop} (h : a.toOption.isSome = true)
    (hp : p (a.toOption.get h).1 (a.toOption.get h).2) : ∃ u ps, a = .ok (u, ps) ∧ p u ps := by
  cases a with
  | error e => simp [Except.toOption] at h
  | ok v => exact ⟨v.1, v.2, rfl, hp⟩
abbrev D2 : State := demo 2
theorem placed_of {x : Iss} {s : State} (h : ((s.weave x.g.core x.g.slot).team.all fun y => (s.findTeam y).isSome) = true) : x.placed s :=
  fun y hy => by simpa [hy] using h
theorem knows_of {s : State} {p : Nat} (he : s.enumerated = true) (hn : s.pkg = 0) (hp : p = 1) (h : Config.inFabric 1 = true) :
    s.knows p = true := by simp [State.knows, he, hn, hp, h]
/-- Words stored one after the other at a physical address. -/
def words (pa : Nat) (ws : List Nat) (s : State) : State := ws.zipIdx.foldl (fun s w => s.poke (pa + 8 * w.2) 8 w.1) s
theorem ex_triple {α β γ : Type} {a : Option (α × β × γ)} {p : α → β → γ → Prop} (h : a.isSome = true)
    (hp : p (a.get h).1 (a.get h).2.1 (a.get h).2.2) : ∃ l q w, a = some (l, q, w) ∧ p l q w :=
  ⟨(a.get h).1, (a.get h).2.1, (a.get h).2.2, by simp, hp⟩
theorem ex_pairok {σ ε β : Type} {a : σ × Except ε β} {p : σ → β → Prop} (h : a.2.toOption.isSome = true)
    (hp : p a.1 (a.2.toOption.get h)) : ∃ u ls, a = (u, .ok ls) ∧ p u ls := by
  obtain ⟨u, e⟩ := a
  cases e with
  | error e => simp [Except.toOption] at h
  | ok v => exact ⟨u, v, rfl, hp⟩
theorem calm_refresh {s : State} (h : ((List.range 16).all fun g => !refreshAt s.time g) = true)
    (hd : (s.dies.all fun d => d.2.refresh.isEmpty) = true) (pa : Nat) : s.refreshing pa = false := by
  have a : ∀ g, g < 16 → refreshAt s.time g = false := fun g hg => by
    simpa using List.all_eq_true.mp h g (List.mem_range.mpr hg)
  have b : ∀ d, (s.die d).refresh = [] := fun d => by
    exact List.isEmpty_iff.mp (get_all ({} : Die) (fun d => d.refresh.isEmpty) rfl d _ hd)
  unfold State.refreshing
  split
  · simp [a _ (Nat.mod_lt _ (by decide)), b]
  · rfl
def after {F R : Type} : Host.Outcome State F R → Option State
  | .next t => some t
  | _ => none
theorem ex_next {F R : Type} {a : Host.Outcome State F R} {p : State → Prop} (h : (after a).isSome = true) (hp : p ((after a).get h)) :
    ∃ t, a = .next t ∧ p t := by
  cases a with
  | next t => exact ⟨t, rfl, hp⟩
  | fault => simp [after] at h
  | refused => simp [after] at h

/-- What a non-faulting load finds where its checks pass. -/
def nfFound (x : Iss) (s : State) : Option (State × List Lane) := x.settle (x.nfChecks s).1 false (x.nfChecks s).2
theorem nf_goes {x : Iss} {s : State} (h1 : x.g.spec = false) (h2 : s.atomPending x.g.core x.g.slot x.ex = false)
    (h : (nfFound x s).isSome = true) (h3 : ∀ l ∈ x.ex, l ∈ x.nfBad s ∨ l ∈ ((nfFound x s).get h).2.map (·.l))
    (h4 : (((nfFound x s).get h).2.all fun q => inData q.loc) = true) :
    x.nfGoes s ((nfFound x s).get h).1 ((nfFound x s).get h).2 :=
  ⟨h1, h2, (Option.some_get h).symm, h3, all_data h4⟩
theorem rfl_pair {α β : Type} {a : α × Option β} (h : a.2.isNone = true) : a = (a.1, none) :=
  Prod.ext rfl (Option.isNone_iff_eq_none.mp h)
/-- A gang of one team whose ticket at 0x100040 is in state `st`. -/
def gangOf (e : GangTeam) : Gang := { id := 1, launch := 2, index := 0, gtkt := 0, part := 0, teams := [e] }
def tick (st : Nat) (e : GangTeam) (s : State) : State :=
  { s.poke 0x100050 8 st with gangs := [gangOf e], launches := [{ id := 2, queue := 0, ring := 0, ctx := 0, words := [], kd := {}, preload := [], bufs := [] }] }
/-- A team saved whole: its area holds what the save left. -/
def keptTeam (y : Team) (s : State) : SavedTeam :=
  { team := y, weaves := [], area := 0x200000, image := s.areaBytes { team := y, weaves := [], area := 0x200000 } }
def keptBase : State := tick 3 { core := 0, ticket := 0x100040, team := 1 } (reg 32 0x100040 agent)
def kept (y : Team) : State := { keptBase with saved := [keptTeam y keptBase] }
theorem kept_moved (y : Team) (x : Iss) : (x.moved (kept y)).saved = [keptTeam y keptBase] ∧ (x.moved (kept y)).mem = keptBase.mem ∧
    (x.moved (kept y)).lcache = keptBase.lcache ∧ (x.moved (kept y)).pkg = keptBase.pkg := by
  simp only [Iss.moved, State.advance, State.modThreads_fields]
  exact ⟨rfl, rfl, rfl, rfl⟩
theorem kept_found {y : Team} (x : Iss) {n : Nat} (h : n = y.id) :
    (x.moved (kept y)).saved.find? (fun v => v.team.id = n) = some (keptTeam y keptBase) := by
  rw [(kept_moved y x).1, h]; simp [keptTeam]
def bare (s : State) : Bool := s.cores.all fun e => e.2.teams.isEmpty
theorem bare_place {s : State} (h : bare s = true) (pa : Nat) : s.place pa = .mem pa := by
  have : s.cores.findSome? (fun e => e.2.teams.findSome? (fun t => t.2.maps.findSome? (fun m =>
      (m.2.locate pa).map (fun o => Loc.spad t.1 o)))) = none := by
    rw [List.findSome?_eq_none_iff]
    intro e he
    have := List.isEmpty_iff.mp (List.all_eq_true.mp h e he)
    simp [this]
  simp [State.place, this]
theorem kept_holds {y : Team} (x : Iss) (hb : bare (x.moved (kept y)) = true) (hk : bare keptBase = true) :
    (x.moved (kept y)).areaHolds (keptTeam y keptBase) = true := by
  obtain ⟨-, hm, hl, hp⟩ := kept_moved y x
  generalize x.moved (kept y) = u at *
  simp only [State.areaHolds, keptTeam, State.areaBytes, bare_place hb, bare_place hk, State.getByte, State.memByte, State.fabric,
    hm, hl, hp, beq_self_eq_true]
/-- No core holds the team. -/
def gone (t : Nat) (s : State) : Bool := s.cores.all fun e => (tabFind t e.2.teams).isNone
theorem gone_none {t : Nat} {s : State} (h : gone t s = true) : s.findTeam t = none := by
  simp only [State.findTeam, List.findSome?_eq_none_iff]
  intro e he
  have := List.all_eq_true.mp h e he
  simpa using this
theorem gone_modTeam {t : Nat} {s : State} (y : Nat) (g : Team → Team) (h : gone t s = true) : gone t (s.modTeam y g) = true := by
  simp only [State.modTeam]
  split
  · rename_i c x hc
    have hn : t ≠ y := fun e => by rw [← e, gone_none h] at hc; cases hc
    refine tabSet_all (fun k : Core => (tabFind t k.teams).isNone) c _ s.cores ?_ h
    simp only [tabFind_set_other _ _ hn]
    exact get_all Core.init (fun k => (tabFind t k.teams).isNone) rfl c s.cores h
  · exact h
theorem gone_of {t : Nat} {s u : State} (e : u.cores = s.cores) (h : gone t s = true) : gone t u = true := by simpa only [gone, e] using h
theorem gone_fold {α : Type} {t : Nat} (f : State → α → State) (hf : ∀ s a, gone t s = true → gone t (f s a) = true) (es : List α) :
    ∀ s, gone t s = true → gone t (es.foldl f s) = true := by
  induction es with
  | nil => exact fun _ h => h
  | cons e es ih => exact fun s h => ih _ (hf s e h)
theorem enter_cores (s : State) (n : Nat) : (s.lcEnter n).cores = s.cores := by
  unfold State.lcEnter
  split
  · rfl
  · dsimp only
    split
    · split <;> rfl
    · rfl
theorem bring_cores (s : State) (pa : Nat) : (s.lcBring pa).cores = s.cores := by
  unfold State.lcBring
  split
  · rfl
  · dsimp only
    split
    · rw [enter_cores]; rfl
    · rfl
theorem byte_cores (s : State) (pa : Nat) (b : Byte) : (s.setByte pa b).cores = s.cores := by
  unfold State.setByte
  dsimp only
  split <;> exact bring_cores s pa
theorem gone_put {t : Nat} {s : State} (l : Loc) (b : Byte) (h : gone t s = true) : gone t ((s.touch l).putByte l b) = true := by
  cases l with
  | mem pa => exact gone_of ((byte_cores _ _ _).trans (bring_cores s pa)) h
  | spad y o =>
    refine gone_modTeam _ _ ?_
    simp only [State.touch, State.fillLine]
    split
    · exact h
    · split
      · exact h
      · exact gone_modTeam _ _ h
theorem gone_conflicts {t : Nat} {s : State} (ls : List Loc) (b : Nat × Nat × Nat) (sees : Nat → Nat → Bool) (h : gone t s = true) :
    gone t (s.conflicts ls b sees) = true := by
  simpa only [gone, State.conflicts, List.all_map, Function.comp_def] using h
theorem gone_inherit {t : Nat} {s : State} (h : gone t s = true) : gone t s.endInherit = true := gone_of (show s.endInherit.cores = s.cores from rfl) h
theorem gone_at {t : Nat} {s : State} (bs : List (Loc × Byte)) (h : gone t s = true) : gone t (s.writeAt bs) = true := by
  unfold State.writeAt
  extract_lets u
  have hu : gone t u = true := gone_fold (fun s b => (s.touch b.1).putByte b.1 b.2) (fun _ b h => gone_put b.1 b.2 h) bs s h
  exact gone_inherit (gone_conflicts _ _ _ hu)
theorem gone_ticket {t : Nat} {s : State} (a st : Nat) (h : gone t s = true) : gone t (s.setTicketState a st) = true := gone_at _ h
theorem gone_area {t : Nat} {s : State} (v : SavedTeam) (h : gone t s = true) : gone t (s.writeArea v) = true := gone_at _ h
theorem gone_save {s : State} {t c : Nat} {x : Team} (hf : s.findTeam t = some (c, x))
    (h : gone t (((x.maps.map (·.1)).foldl (fun s e => s.spadClear t e) s).removeTeam c t) = true) : (s.saveTeam t).findTeam t = none := by
  refine gone_none ?_
  simp only [State.saveTeam, hf]
  generalize ((x.maps.map (·.1)).foldl (fun s e => s.spadClear t e) s).removeTeam c t = u at h ⊢
  generalize s.savedForm c x = v
  generalize u.free + 1 + 229376 = n
  have hw : gone t (State.writeArea { u with free := n } v) = true := gone_area v (gone_of (s := u) rfl h)
  generalize State.writeArea { u with free := n } v = w at hw ⊢
  generalize hy : ({ w with saved := w.saved ++ [{ v with image := w.areaBytes v }] } : State) = y
  have hv := gone_ticket x.ticket 3 (gone_of (s := w) (u := y) (by rw [← hy]) hw)
  generalize y.setTicketState x.ticket 3 = q at hv ⊢
  simpa only [gone, State.modGangTeam] using hv
theorem gone_carry {s : State} {c : Nat} {x : Team}
    (hq : (!(s.rollTeam c x).quiet c x || (s.rollTeam c x).backsHeld c x) = false)
    (hf : (s.rollTeam c x).findTeam x.id = some (c, x))
    (h : gone x.id (((x.maps.map (·.1)).foldl (fun u e => u.spadClear x.id e) (s.rollTeam c x)).removeTeam c x.id) = true) :
    (s.carrySave c x).findTeam x.id = none := by
  simp only [Bool.or_eq_false_iff] at hq
  simp only [State.carrySave, hq.1, hq.2]
  exact gone_save hf h
theorem ex_chk {α β : Type} {a : α × β} {c : β} {p : α → Prop} (h : a.2 = c) (hp : p a.1) : ∃ u, a = (u, c) ∧ p u := ⟨a.1, Prod.ext rfl h, hp⟩
theorem prep_clean {s : State} {c w n k pa : Nat} {q : Lane} (hq : q.loc = .mem pa) (hs : leafSync q.leaf = false)
    (h : ((s.touchAll (q.loc.span n)).recallSpan (s.weave c w).team false q.loc n).poison = []) :
    (s.prepLoad c w q n true).anyPoison (q.loc.span k) = false := by
  have hp : (s.prepLoad c w q n true).poison = [] := by
    unfold State.prepLoad
    simp only [hq, hs, Bool.false_eq_true, ↓reduceIte]
    rw [hq] at h
    split
    · unfold State.grantHold State.holdLine
      dsimp only
      split <;> (try split) <;> (try split) <;> exact h
    · exact h
  simp only [State.anyPoison, List.any_eq_false, Loc.span, hq, List.mem_map]
  rintro l ⟨i, -, rfl⟩
  simp [Loc.add, State.isPoison, State.memPoison, hp]
/-- An issue is ready where its checks pass. -/
def gateGoes (i : Instr) (s : State) : Bool := s.group.any fun g =>
  match s.gate g i (i.fields.getD {}) i.row i.speculates with
  | .go x => decide (x.g = g)
  | _ => false
theorem ready_iss {i : Instr} {s : State} (h : gateGoes i s = true) : Ready i s (iss i s) := by
  unfold gateGoes at h
  unfold iss
  cases hg : s.group with
  | none => simp [hg] at h
  | some g =>
    simp only [hg, Option.any_some] at h
    cases hk : s.gate g i (i.fields.getD {}) i.row i.speculates with
    | go x =>
      simp only [hk, decide_eq_true_eq] at h
      simp only [Ready, hg, h, hk, and_self]
    | trap => rw [hk] at h; exact absurd h (by simp)
    | wait => rw [hk] at h; exact absurd h (by simp)
theorem calm_recall {s : State} (h : s.dirs.isEmpty = true) (who : Option Nat) (st : Bool) (l : Loc) (n : Nat) : s.recallWaits who st l n = false := by
  cases l <;> simp [State.recallWaits, h]
/-- A read whose translation stands in the core's TLB and is accepted. -/
def plainHit (s : State) (a : Agent) (x : Acc) (ea : Nat) : Bool :=
  canonical ea && decide (ea % x.align = 0) && !(x.routes && s.windowHit a ea) &&
    (if x.routes then a.team.bind (fun t => ((s.team t).scratchHit ea).map (fun o => (t, o))) else none).isNone && !x.wr &&
    match (s.core a.core).tlb.find? (fun e => e.covers a.ctx ea) with
    | some e => !e.draining && (match s.checkPage a x (e.xlat ea) with
      | .ok _ _ => true
      | _ => false) && !(x.reach && s.snooped (s.place (e.xlat ea).pa))
    | none => false
theorem check_hit {s : State} {a : Agent} {x : Acc} {ea : Nat} (h : plainHit s a x ea = true) :
    ∃ loc leaf, s.check a x ea = (s, .ok loc leaf) := by
  simp only [plainHit, Bool.and_eq_true, Bool.not_eq_true', decide_eq_true_eq] at h
  obtain ⟨⟨⟨⟨⟨h1, h2⟩, h3⟩, h4⟩, h5⟩, h6⟩ := h
  cases hf : (s.core a.core).tlb.find? (fun e => e.covers a.ctx ea) with
  | none => simp [hf] at h6
  | some e =>
    simp only [hf, Bool.and_eq_true, Bool.not_eq_true'] at h6
    obtain ⟨⟨h7, h8⟩, h9⟩ := h6
    have ht : s.translate a.core a.ctx ea = (s, .ok (e.xlat ea)) := by simp only [State.translate, hf, h7]; rfl
    cases hc : s.checkPage a x (e.xlat ea) with
    | ok loc leaf =>
      refine ⟨loc, leaf, ?_⟩
      unfold State.check
      simp only [h1, h2, h3, Option.isNone_iff_eq_none.mp h4, ht, hc, h9, h5, Chk.passes]
      rfl
    | _ => simp [hc] at h8
theorem list_hit {s : State} {a : Agent} {x : Acc} (es : List Nat) (h : (es.all fun e => plainHit s a x e) = true) :
    (s.checkList a x es).1 = s ∧ ∀ c ∈ (s.checkList a x es).2, ∃ loc leaf, c = .ok loc leaf := by
  induction es with
  | nil => exact ⟨rfl, fun c hc => absurd hc (by simp [State.checkList])⟩
  | cons e t ih =>
    simp only [List.all_cons, Bool.and_eq_true] at h
    obtain ⟨loc, leaf, he⟩ := check_hit h.1
    obtain ⟨i1, i2⟩ := ih h.2
    simp only [State.checkList, he]
    exact ⟨i1, List.forall_mem_cons.mpr ⟨⟨loc, leaf, rfl⟩, i2⟩⟩
theorem range_hit {s : State} {a : Agent} {x : Acc} {va n : Nat} (h : ((lineCuts va n).all fun c => plainHit s a x c.1) = true) :
    s.checkRange a x va n = (s, none) := by
  obtain ⟨k1, k2⟩ := list_hit ((lineCuts va n).map (·.1)) (by rw [List.all_map]; exact h)
  unfold State.checkRange
  refine Prod.ext k1 ?_
  refine List.find?_eq_none.mpr (fun c hc => ?_)
  obtain ⟨loc, leaf, e⟩ := k2 c.2 (List.of_mem_zip hc).2
  simp [e]
theorem engine_hit {s : State} {a : Agent} {va n : Nat} (h : ((lineCuts va n).all fun c => plainHit s a (engineAcc false) c.1) = true) :
    s.engineBytes a va n = (s, .ok ((s.engineBytes a va n).2.toOption.getD [])) := by
  obtain ⟨k1, k2⟩ := list_hit ((lineCuts va n).map (·.1)) (by rw [List.all_map]; exact h)
  have f : ∀ (es : List ((Nat × Nat) × Chk)) (ls : List Loc) (g : (Nat × Nat) × Chk → Chk → Nat × Chk),
      (∀ e ∈ es, ∃ loc leaf, e.2 = .ok loc leaf) → ∃ r, es.foldl (fun (m : Except (Nat × Chk) (List Loc)) e => match m, e.2 with
        | .error x, _ => .error x
        | .ok ls, .ok loc _ => .ok (ls ++ loc.span e.1.2)
        | .ok _, k => .error (g e k)) (.ok ls) = .ok r := by
    intro es
    induction es with
    | nil => exact fun ls g _ => ⟨ls, rfl⟩
    | cons e t ih =>
      intro ls g h
      obtain ⟨loc, leaf, he⟩ := h e (List.mem_cons_self ..)
      simp only [List.foldl_cons, he]
      exact ih _ g (fun e he => h e (List.mem_cons_of_mem _ he))
  obtain ⟨r, hr⟩ := f ((lineCuts va n).zip (s.checkList a (engineAcc false) ((lineCuts va n).map (·.1))).2) []
    (fun e k => (e.1.1, if (s.checkList a (engineAcc false) ((lineCuts va n).map (·.1))).1.poisonPage a e.1.1 k then .bad 8 trapPoison 0 else k))
    (fun e he => k2 e.2 (List.of_mem_zip he).2)
  have e : (s.engineBytes a va n).2 = .ok r := hr
  exact Prod.ext k1 (by rw [e]; rfl)
theorem engine_go {s : State} {a : Agent} {va n : Nat} {p : State → List Loc → Prop}
    (h : ((lineCuts va n).all fun c => plainHit s a (engineAcc false) c.1) = true) (k : ∀ ls, p s ls) :
    ∃ u ls, s.engineBytes a va n = (u, .ok ls) ∧ p u ls := ⟨s, _, engine_hit h, k _⟩

/-! ### Worked examples and corners of the rules -/

/-- The value that the instruction leaves in v16 of lane 0. -/
def left (i : Instr) (s : State) : Option Nat := (after (exec i s)).map (fun t => ((t.thread 0 0 0).reg 16).val.toNat)
/-- 04 R121: the sum wraps, or saturates under .sat; addi.n32 with −1 subtracts 1. -/
theorem test_add :
    left (.add ⟨7, false, 16, 32, 48, 0, 0, false, false, false, 0, 0⟩) (reg 32 0x7FFFFFFF (reg 48 1 D)) = some 0x80000000 ∧
    left (.add ⟨7, false, 16, 32, 48, 0, 0, false, false, false, 0, 8⟩) (reg 32 0x7FFFFFFF (reg 48 1 D)) = some 0x7FFFFFFF ∧
    left (.addi ⟨7, false, 16, 32, 0, 0xFFFF, false, false, 1, 0⟩) (reg 32 5 D) = some 4 := by decide +kernel
/-- 04 R121: mulhi of −1 and 1, signed and unsigned. -/
theorem test_mulhi :
    left (.mulhi ⟨7, false, 16, 32, 48, 0, 0, false, false, false, 0, 0⟩) (reg 32 0xFFFFFFFF (reg 48 1 D)) = some 0xFFFFFFFF ∧
    left (.mulhi ⟨7, false, 16, 32, 48, 0, 0, false, false, false, 1, 0⟩) (reg 32 0xFFFFFFFF (reg 48 1 D)) = some 0 := by decide +kernel
/-- The example under 04 Table 9. -/
theorem test_lea : left (.lea ⟨7, false, 16, 32, 48, 0x7FF0, false, false, 0, 0⟩)
    (reg 32 0x4000001000 (reg 48 0xFFFFFFFE D)) = some 0x00000FE0 := by decide +kernel
/-- 05 R147: 1 + 2^-24 is a tie that .rne takes to 1. -/
theorem test_fadd_tie : left (.fadd ⟨7, false, 16, 32, 48, 0, 0, false, false, false, 0, 0⟩)
    (reg 32 0x3F800000 (reg 48 0x33800000 D)) = some 0x3F800000 := by decide +kernel
/-- 02 R55, 06 R180: a load leaves its destination empty until its result arrives. -/
theorem test_load_empties : (after (exec (.ld ⟨7, false, 16, 32, 0, 0, 0, false, false, false, 2, 0⟩)
    (tm (fun t => { t with maps := [(0, { va := 0x80000, off := 0, len := 128, zero := false, segs := [{ pa := 0x100000, off := 0, len := 128 }], filled := [], dirty := [] })] })
      (reg 32 0x80000 D)))).map
    (fun t => ((t.thread 0 0 0).reg 16).full) = some false := by decide +kernel
/-- 12 R381, R382: a privileged instruction in a user weave traps to the handler, with cause 0x01 and reason 0x07. -/
theorem test_trap_entry : (after (exec (.ftime ⟨7, false, 16, 0, 0, 0, 0, false, false, false, 5, 0⟩) D)).map
      (fun t => ((t.weave 0 0).trCause.toNat, (t.thread 0 0 0).ctl.pc.toNat, (t.weave 0 0).trH)) = some (0x50001, 0x4000, true) ∧
    (after (exec (.lsrd ⟨7, false, 16, 32, 0, 0, 0, false, false, false, 0, 0⟩) D)).map
      (fun t => ((t.weave 0 0).trCause.toNat, (t.weave 0 0).trPc.toNat, (t.weave 0 0).trM)) = some (0x70001, 0x108, true) := by decide +kernel
/-- 12 R385: a trap in the handler ends the context. -/
theorem test_double_trap : (after (exec (.lsrd ⟨7, false, 16, 32, 0, 0, 0, false, false, false, 0, 0⟩)
    (wv (fun w => { w with trH := true }) D))).map (fun t => (t.findTeam 1).isSome) = some false := by decide +kernel

/-! ### The step -/

/-- The pc of lane 0 of a weave after a step. -/
def pcAfter (c w : Nat) (r : Host.Outcome State Fault Refusal) : Option Nat := (after r).map (fun t => (t.thread c w 0).ctl.pc.toNat)
/-- A step fetches and runs the word placed: a user add, a privileged lsreq in the firmware agent, an li of two words, and a
privileged word refused to the user weave. -/
theorem test_step_add : pcAfter 0 0 (step (State.reset.withFetchWord 64 0x20E038140C000100)) = some 0x110 := by decide +kernel
theorem test_step_lsreq : pcAfter 0 47 (step (State.reset.withFetchWord 64 0xF0E0201810000000)) = some 0x110 := by decide +kernel
theorem test_step_li : pcAfter 0 0 (step (State.reset.withFetchWord 128 (0x4CE0600000000050 + 7 * 2 ^ 64))) = some 0x118 := by decide +kernel
theorem test_table_word : decodeTableWord 64 0x206038140C000500 = some (.add ⟨3, false, 7, 5, 6, 0, 1, false, true, false, 0, 0⟩) ∧
    decodeTableWord 32 0x00B5040B = some (.twlV 8 10 11) := by decide +kernel

/-! ### Witnesses: each clause's hypotheses are met -/

theorem test_DirectBranches_met :
    (∃ o, ∃ s : State, ∃ x : Iss, Ready (.br o) s x ∧ (takers (fun x _ => some x.label) x ≠ []) ∧ (∀ e ∈ (x.targets (x.moved s) (takers (fun x _ => some x.label) x)).2, e.2.2 = .ok)) ∧
    (∃ o, ∃ s : State, ∃ x : Iss, Ready (.bz o) s x ∧ (takers (fun x l => if x.d l = 0 then some x.label else none) x ≠ []) ∧ (∀ e ∈ (x.targets (x.moved s) (takers (fun x l => if x.d l = 0 then some x.label else none) x)).2, e.2.2 = .ok)) ∧
    (∃ o, ∃ s : State, ∃ x : Iss, Ready (.bnz o) s x ∧ (takers (fun x l => if x.d l = 0 then none else some x.label) x ≠ []) ∧ (∀ e ∈ (x.targets (x.moved s) (takers (fun x l => if x.d l = 0 then none else some x.label) x)).2, e.2.2 = .ok)) ∧
    (∃ o, ∃ s : State, ∃ x : Iss, Ready (.bfull o) s x ∧ (takers (fun x l => if x.f.d = 511 ∨ ((x.th l).reg x.f.d.toNat).full = true then some x.label else none) x ≠ []) ∧ (∀ e ∈ (x.targets (x.moved s) (takers (fun x l => if x.f.d = 511 ∨ ((x.th l).reg x.f.d.toNat).full = true then some x.label else none) x)).2, e.2.2 = .ok)) ∧
    (∃ o, ∃ s : State, ∃ x : Iss, Ready (.bempty o) s x ∧ (takers (fun x l => if x.f.d = 511 ∨ ((x.th l).reg x.f.d.toNat).full = true then none else some x.label) x ≠ []) ∧ (∀ e ∈ (x.targets (x.moved s) (takers (fun x l => if x.f.d = 511 ∨ ((x.th l).reg x.f.d.toNat).full = true then none else some x.label) x)).2, e.2.2 = .ok)) ∧
    (∃ o, ∃ s : State, ∃ x : Iss, Ready (.bpend o) s x ∧ (takers (fun x _ => if x.old.pending x.g.core x.g.slot then some x.label else none) x ≠ []) ∧ (∀ e ∈ (x.targets (x.moved s) (takers (fun x _ => if x.old.pending x.g.core x.g.slot then some x.label else none) x)).2, e.2.2 = .ok)) ∧
    (∃ o, ∃ s : State, ∃ x : Iss, Ready (.dbnz o) s x ∧ (takers (fun x l => if (x.d l + 0xFFFFFFFF) % 2 ^ 32 = 0 then none else some x.label) x ≠ []) ∧ (∀ e ∈ (x.targets (x.moved s) (takers (fun x l => if (x.d l + 0xFFFFFFFF) % 2 ^ 32 = 0 then none else some x.label) x)).2, e.2.2 = .ok)) :=
  ⟨⟨⟨7, false, 0, 33554431⟩, ⟨D, ⟨iss (.br ⟨7, false, 0, 33554431⟩) (D), ⟨(ready_iss (by decide +kernel)), by decide +kernel⟩⟩⟩⟩,
   ⟨⟨7, false, 16, 33554431⟩, ⟨D, ⟨iss (.bz ⟨7, false, 16, 33554431⟩) (D), ⟨(ready_iss (by decide +kernel)), by decide +kernel⟩⟩⟩⟩,
   ⟨⟨7, false, 16, 33554431⟩, ⟨(reg 16 1) (D), ⟨iss (.bnz ⟨7, false, 16, 33554431⟩) ((reg 16 1) (D)), ⟨(ready_iss (by decide +kernel)), by decide +kernel⟩⟩⟩⟩,
   ⟨⟨7, false, 16, 33554431⟩, ⟨D, ⟨iss (.bfull ⟨7, false, 16, 33554431⟩) (D), ⟨(ready_iss (by decide +kernel)), by decide +kernel⟩⟩⟩⟩,
   ⟨⟨7, false, 16, 33554431⟩, ⟨(th (fun t => t.setEmpty 16 32)) (D), ⟨iss (.bempty ⟨7, false, 16, 33554431⟩) ((th (fun t => t.setEmpty 16 32)) (D)), ⟨(ready_iss (by decide +kernel)), by decide +kernel⟩⟩⟩⟩,
   ⟨⟨7, false, 0, 33554431⟩, ⟨(cr (fun k => { k with teams := [(1, { (tabGet {} 1 k.teams) with pre := { requested := true } })] })) (D), ⟨iss (.bpend ⟨7, false, 0, 33554431⟩) ((cr (fun k => { k with teams := [(1, { (tabGet {} 1 k.teams) with pre := { requested := true } })] })) (D)), ⟨(ready_iss (by decide +kernel)), by decide +kernel⟩⟩⟩⟩,
   ⟨⟨7, false, 16, 33554431⟩, ⟨(reg 16 2) (D), ⟨iss (.dbnz ⟨7, false, 16, 33554431⟩) ((reg 16 2) (D)), ⟨(ready_iss (by decide +kernel)), by decide +kernel⟩⟩⟩⟩⟩
theorem test_CallsAndReturns_met :
    (∃ o, ∃ s : State, ∃ x : Iss, Ready (.call o) s x ∧ (takers (fun x _ => some x.label) x ≠ []) ∧ (∀ e ∈ (x.targets (x.moved s) (takers (fun x _ => some x.label) x)).2, e.2.2 = .ok)) ∧
    (∃ o, ∃ s : State, ∃ x : Iss, Ready (.jmp o) s x ∧ (takers (fun x l => some (BitVec.ofNat 64 (x.a l))) x ≠ []) ∧ (∀ e ∈ (x.targets (x.moved s) (takers (fun x l => some (BitVec.ofNat 64 (x.a l))) x)).2, e.2.2 = .ok)) ∧
    (∃ o, ∃ s : State, ∃ x : Iss, Ready (.jcall o) s x ∧ (takers (fun x l => some (BitVec.ofNat 64 (x.a l))) x ≠ []) ∧ (∀ e ∈ (x.targets (x.moved s) (takers (fun x l => some (BitVec.ofNat 64 (x.a l))) x)).2, e.2.2 = .ok)) ∧
    (∃ o, ∃ s : State, ∃ x : Iss, Ready (.ret o) s x ∧ (takers (fun x l => some (BitVec.ofNat 64 (x.a l))) x ≠ []) ∧ (∀ e ∈ (x.targets (x.moved s) (takers (fun x l => some (BitVec.ofNat 64 (x.a l))) x)).2, e.2.2 = .ok)) :=
  ⟨⟨⟨7, false, 16, 33554431⟩, ⟨D, ⟨iss (.call ⟨7, false, 16, 33554431⟩) (D), ⟨(ready_iss (by decide +kernel)), by decide +kernel⟩⟩⟩⟩,
   ⟨⟨7, false, 0, 32, 0, 0, 0, false, false, false, 0, 0⟩, ⟨(reg 32 0x100) (D), ⟨iss (.jmp ⟨7, false, 0, 32, 0, 0, 0, false, false, false, 0, 0⟩) ((reg 32 0x100) (D)), ⟨(ready_iss (by decide +kernel)), by decide +kernel⟩⟩⟩⟩,
   ⟨⟨7, false, 16, 32, 0, 0, 0, false, false, false, 0, 0⟩, ⟨(reg 32 0x100) (D), ⟨iss (.jcall ⟨7, false, 16, 32, 0, 0, 0, false, false, false, 0, 0⟩) ((reg 32 0x100) (D)), ⟨(ready_iss (by decide +kernel)), by decide +kernel⟩⟩⟩⟩,
   ⟨⟨7, false, 0, 32, 0, 0, 0, false, false, false, 0, 0⟩, ⟨(reg 32 0x100) (D), ⟨iss (.ret ⟨7, false, 0, 32, 0, 0, 0, false, false, false, 0, 0⟩) ((reg 32 0x100) (D)), ⟨(ready_iss (by decide +kernel)), by decide +kernel⟩⟩⟩⟩⟩
theorem test_PredicateInstructions_met :
    (∃ o, ∃ s : State, ∃ x : Iss, Ready (.pand o) s x) ∧
    (∃ o, ∃ s : State, ∃ x : Iss, Ready (.por o) s x) ∧
    (∃ o, ∃ s : State, ∃ x : Iss, Ready (.pxor o) s x) ∧
    (∃ o, ∃ s : State, ∃ x : Iss, Ready (.pandn o) s x) ∧
    (∃ o, ∃ s : State, ∃ x : Iss, Ready (.pset o) s x) ∧
    (∃ o, ∃ s : State, ∃ x : Iss, Ready (.pget o) s x) :=
  ⟨⟨⟨7, false, 0, 0, 0, 0, 0, false, false, false, 0, 0⟩, ⟨D, ⟨iss (.pand ⟨7, false, 0, 0, 0, 0, 0, false, false, false, 0, 0⟩) (D), ready_iss (by decide +kernel)⟩⟩⟩,
   ⟨⟨7, false, 0, 0, 0, 0, 0, false, false, false, 0, 0⟩, ⟨D, ⟨iss (.por ⟨7, false, 0, 0, 0, 0, 0, false, false, false, 0, 0⟩) (D), ready_iss (by decide +kernel)⟩⟩⟩,
   ⟨⟨7, false, 0, 0, 0, 0, 0, false, false, false, 0, 0⟩, ⟨D, ⟨iss (.pxor ⟨7, false, 0, 0, 0, 0, 0, false, false, false, 0, 0⟩) (D), ready_iss (by decide +kernel)⟩⟩⟩,
   ⟨⟨7, false, 0, 0, 0, 0, 0, false, false, false, 0, 0⟩, ⟨D, ⟨iss (.pandn ⟨7, false, 0, 0, 0, 0, 0, false, false, false, 0, 0⟩) (D), ready_iss (by decide +kernel)⟩⟩⟩,
   ⟨⟨7, false, 0, 32, 0, 0, 0, false, false, false, 0, 0⟩, ⟨D, ⟨iss (.pset ⟨7, false, 0, 32, 0, 0, 0, false, false, false, 0, 0⟩) (D), ready_iss (by decide +kernel)⟩⟩⟩,
   ⟨⟨7, false, 16, 0, 0, 0, 0, false, false, false, 0, 0⟩, ⟨D, ⟨iss (.pget ⟨7, false, 16, 0, 0, 0, 0, false, false, false, 0, 0⟩) (D), ready_iss (by decide +kernel)⟩⟩⟩⟩
theorem test_ExitPauseAndBreak_met :
    (∃ o, ∃ s : State, ∃ x : Iss, Ready (.nop o) s x) ∧
    (∃ o, ∃ s : State, ∃ x : Iss, Ready (.pause o) s x) ∧
    (∃ o, ∃ s : State, ∃ x : Iss, Ready (.yield o) s x ∧ (fun x s => x.teamed s ∧ (s.core x.g.core).others (s.team (x.mine s)).ctx = true) x (x.moved s)) ∧
    (∃ o, ∃ s : State, ∃ x : Iss, Ready (.yield o) s x ∧ (fun x s => ¬ (x.teamed s ∧ (s.core x.g.core).others (s.team (x.mine s)).ctx = true)) x (x.moved s)) ∧
    (∃ o, ∃ s : State, ∃ x : Iss, Ready (.exit o) s x ∧ (fun _ _ => True) x (x.moved s)) ∧
    (∃ o, ∃ s : State, ∃ x : Iss, Ready (.exit o) s x) ∧
    (∃ o, ∃ s : State, ∃ x : Iss, Ready (.brk o) s x ∧ x.canTrap (x.moved s) ∧ (fun x _ => x.ex ≠ []) x (x.moved s)) ∧
    (∃ o, ∃ s : State, ∃ x : Iss, Ready (.brk o) s x ∧ x.ex = []) :=
  ⟨⟨⟨7, false, 0, 0, 0, 0, 0, false, false, false, 0, 0⟩, ⟨D, ⟨iss (.nop ⟨7, false, 0, 0, 0, 0, 0, false, false, false, 0, 0⟩) (D), ready_iss (by decide +kernel)⟩⟩⟩,
   ⟨⟨7, false, 0, 0, 0, 5, false, false, 0, 0⟩, ⟨D, ⟨iss (.pause ⟨7, false, 0, 0, 0, 5, false, false, 0, 0⟩) (D), ready_iss (by decide +kernel)⟩⟩⟩,
   ⟨⟨7, false, 0, 0, 0, 0, 0, false, false, false, 0, 0⟩, ⟨(cr (fun k => { k with weaves := k.weaves ++ [(1, { team := some 2, threads := [(0, here)] })], teams := k.teams ++ [(2, { id := 2, ctx := 2, slots := [1], started := true })] })) (D), ⟨iss (.yield ⟨7, false, 0, 0, 0, 0, 0, false, false, false, 0, 0⟩) ((cr (fun k => { k with weaves := k.weaves ++ [(1, { team := some 2, threads := [(0, here)] })], teams := k.teams ++ [(2, { id := 2, ctx := 2, slots := [1], started := true })] })) (D)), ⟨(ready_iss (by decide +kernel)), by decide +kernel⟩⟩⟩⟩,
   ⟨⟨7, false, 0, 0, 0, 0, 0, false, false, false, 0, 0⟩, ⟨D, ⟨iss (.yield ⟨7, false, 0, 0, 0, 0, 0, false, false, false, 0, 0⟩) (D), ⟨(ready_iss (by decide +kernel)), by decide +kernel⟩⟩⟩⟩,
   ⟨⟨7, false, 0, 0, 0, 0, 0, false, false, false, 0, 0⟩, ⟨D, ⟨iss (.exit ⟨7, false, 0, 0, 0, 0, 0, false, false, false, 0, 0⟩) (D), ⟨(ready_iss (by decide +kernel)), by decide +kernel⟩⟩⟩⟩,
   ⟨⟨7, false, 0, 0, 0, 0, 0, false, false, false, 0, 0⟩, ⟨D, ⟨iss (.exit ⟨7, false, 0, 0, 0, 0, 0, false, false, false, 0, 0⟩) (D), ready_iss (by decide +kernel)⟩⟩⟩,
   ⟨⟨7, false, 0, 0, 0, 5, false, false, 0, 0⟩, ⟨D, ⟨iss (.brk ⟨7, false, 0, 0, 0, 5, false, false, 0, 0⟩) (D), ⟨(ready_iss (by decide +kernel)), by decide +kernel⟩⟩⟩⟩,
   ⟨⟨7, true, 0, 0, 0, 5, false, false, 0, 0⟩, ⟨D, ⟨iss (.brk ⟨7, true, 0, 0, 0, 5, false, false, 0, 0⟩) (D), ⟨(ready_iss (by decide +kernel)), by decide +kernel⟩⟩⟩⟩⟩
theorem test_IntegerArithmetic_met :
    (∃ o, ∃ s : State, ∃ x : Iss, Ready (.add o) s x) ∧
    (∃ o, ∃ s : State, ∃ x : Iss, Ready (.sub o) s x) ∧
    (∃ o, ∃ s : State, ∃ x : Iss, Ready (.min o) s x) ∧
    (∃ o, ∃ s : State, ∃ x : Iss, Ready (.max o) s x) ∧
    (∃ o, ∃ s : State, ∃ x : Iss, Ready (.abs o) s x) ∧
    (∃ o, ∃ s : State, ∃ x : Iss, Ready (.mul o) s x) ∧
    (∃ o, ∃ s : State, ∃ x : Iss, Ready (.mad o) s x) ∧
    (∃ o, ∃ s : State, ∃ x : Iss, Ready (.addi o) s x) ∧
    (∃ o, ∃ s : State, ∃ x : Iss, Ready (.muli o) s x) ∧
    (∃ o, ∃ s : State, ∃ x : Iss, Ready (.mulhi o) s x) ∧
    (∃ o, ∃ s : State, ∃ x : Iss, Ready (.mulw o) s x) :=
  ⟨⟨⟨7, false, 16, 32, 48, 0, 0, false, false, false, 0, 0⟩, ⟨D, ⟨iss (.add ⟨7, false, 16, 32, 48, 0, 0, false, false, false, 0, 0⟩) (D), ready_iss (by decide +kernel)⟩⟩⟩,
   ⟨⟨7, false, 16, 32, 48, 0, 0, false, false, false, 0, 0⟩, ⟨D, ⟨iss (.sub ⟨7, false, 16, 32, 48, 0, 0, false, false, false, 0, 0⟩) (D), ready_iss (by decide +kernel)⟩⟩⟩,
   ⟨⟨7, false, 16, 32, 48, 0, 0, false, false, false, 0, 0⟩, ⟨D, ⟨iss (.min ⟨7, false, 16, 32, 48, 0, 0, false, false, false, 0, 0⟩) (D), ready_iss (by decide +kernel)⟩⟩⟩,
   ⟨⟨7, false, 16, 32, 48, 0, 0, false, false, false, 0, 0⟩, ⟨D, ⟨iss (.max ⟨7, false, 16, 32, 48, 0, 0, false, false, false, 0, 0⟩) (D), ready_iss (by decide +kernel)⟩⟩⟩,
   ⟨⟨7, false, 16, 32, 0, 0, 0, false, false, false, 0, 0⟩, ⟨D, ⟨iss (.abs ⟨7, false, 16, 32, 0, 0, 0, false, false, false, 0, 0⟩) (D), ready_iss (by decide +kernel)⟩⟩⟩,
   ⟨⟨7, false, 16, 32, 48, 0, 0, false, false, false, 0, 0⟩, ⟨D, ⟨iss (.mul ⟨7, false, 16, 32, 48, 0, 0, false, false, false, 0, 0⟩) (D), ready_iss (by decide +kernel)⟩⟩⟩,
   ⟨⟨7, false, 16, 32, 48, 64, 0, false, false, false, 0, 0⟩, ⟨D, ⟨iss (.mad ⟨7, false, 16, 32, 48, 64, 0, false, false, false, 0, 0⟩) (D), ready_iss (by decide +kernel)⟩⟩⟩,
   ⟨⟨7, false, 16, 32, 0, 5, false, false, 0, 0⟩, ⟨D, ⟨iss (.addi ⟨7, false, 16, 32, 0, 5, false, false, 0, 0⟩) (D), ready_iss (by decide +kernel)⟩⟩⟩,
   ⟨⟨7, false, 16, 32, 0, 5, false, false, 0, 0⟩, ⟨D, ⟨iss (.muli ⟨7, false, 16, 32, 0, 5, false, false, 0, 0⟩) (D), ready_iss (by decide +kernel)⟩⟩⟩,
   ⟨⟨7, false, 16, 32, 48, 0, 0, false, false, false, 0, 0⟩, ⟨D, ⟨iss (.mulhi ⟨7, false, 16, 32, 48, 0, 0, false, false, false, 0, 0⟩) (D), ready_iss (by decide +kernel)⟩⟩⟩,
   ⟨⟨7, false, 16, 32, 48, 0, 0, false, false, false, 0, 0⟩, ⟨D, ⟨iss (.mulw ⟨7, false, 16, 32, 48, 0, 0, false, false, false, 0, 0⟩) (D), ready_iss (by decide +kernel)⟩⟩⟩⟩
theorem test_FitWrapsOrSaturates_met :
    (∃ ty : BitVec 3, ∃ v : Nat, intLo ty ≤ v ∧ v ≤ intHi ty) ∧
    (∃ ty : BitVec 3, ∃ v, v < intLo ty) ∧
    (∃ ty : BitVec 3, ∃ v : Nat, intHi ty < v) ∧
    (∃ ty : BitVec 3, intSm ty = false) ∧
    (∃ ty : BitVec 3, intSm ty = true) :=
  ⟨⟨0, ⟨2147483647, by decide +kernel⟩⟩,
   ⟨0, ⟨-2147483649, by decide +kernel⟩⟩,
   ⟨0, ⟨2147483648, by decide +kernel⟩⟩,
   ⟨0, by decide +kernel⟩,
   ⟨6, by decide +kernel⟩⟩
theorem test_CarryChains_met :
    (∃ o, ∃ s : State, ∃ x : Iss, Ready (.addc o) s x) ∧
    (∃ o, ∃ s : State, ∃ x : Iss, Ready (.subb o) s x) :=
  ⟨⟨⟨7, false, 16, 32, 48, 0, 0, false, false, false, 3, 0⟩, ⟨D, ⟨iss (.addc ⟨7, false, 16, 32, 48, 0, 0, false, false, false, 3, 0⟩) (D), ready_iss (by decide +kernel)⟩⟩⟩,
   ⟨⟨7, false, 16, 32, 48, 0, 0, false, false, false, 3, 0⟩, ⟨D, ⟨iss (.subb ⟨7, false, 16, 32, 48, 0, 0, false, false, false, 3, 0⟩) (D), ready_iss (by decide +kernel)⟩⟩⟩⟩
theorem test_LogicAndShifts_met :
    (∃ o, ∃ s : State, ∃ x : Iss, Ready (.and o) s x) ∧
    (∃ o, ∃ s : State, ∃ x : Iss, Ready (.or o) s x) ∧
    (∃ o, ∃ s : State, ∃ x : Iss, Ready (.xor o) s x) ∧
    (∃ o, ∃ s : State, ∃ x : Iss, Ready (.andn o) s x) ∧
    (∃ o, ∃ s : State, ∃ x : Iss, Ready (.andi o) s x) ∧
    (∃ o, ∃ s : State, ∃ x : Iss, Ready (.ori o) s x) ∧
    (∃ o, ∃ s : State, ∃ x : Iss, Ready (.shl o) s x) ∧
    (∃ o, ∃ s : State, ∃ x : Iss, Ready (.shr o) s x) ∧
    (∃ o, ∃ s : State, ∃ x : Iss, Ready (.sar o) s x) ∧
    (∃ o, ∃ s : State, ∃ x : Iss, Ready (.ror o) s x) ∧
    (∃ o, ∃ s : State, ∃ x : Iss, Ready (.fsh o) s x) ∧
    (∃ o, ∃ s : State, ∃ x : Iss, Ready (.shli o) s x) ∧
    (∃ o, ∃ s : State, ∃ x : Iss, Ready (.shri o) s x) ∧
    (∃ o, ∃ s : State, ∃ x : Iss, Ready (.sari o) s x) :=
  ⟨⟨⟨7, false, 16, 32, 48, 0, 0, false, false, false, 4, 0⟩, ⟨D, ⟨iss (.and ⟨7, false, 16, 32, 48, 0, 0, false, false, false, 4, 0⟩) (D), ready_iss (by decide +kernel)⟩⟩⟩,
   ⟨⟨7, false, 16, 32, 48, 0, 0, false, false, false, 4, 0⟩, ⟨D, ⟨iss (.or ⟨7, false, 16, 32, 48, 0, 0, false, false, false, 4, 0⟩) (D), ready_iss (by decide +kernel)⟩⟩⟩,
   ⟨⟨7, false, 16, 32, 48, 0, 0, false, false, false, 4, 0⟩, ⟨D, ⟨iss (.xor ⟨7, false, 16, 32, 48, 0, 0, false, false, false, 4, 0⟩) (D), ready_iss (by decide +kernel)⟩⟩⟩,
   ⟨⟨7, false, 16, 32, 48, 0, 0, false, false, false, 4, 0⟩, ⟨D, ⟨iss (.andn ⟨7, false, 16, 32, 48, 0, 0, false, false, false, 4, 0⟩) (D), ready_iss (by decide +kernel)⟩⟩⟩,
   ⟨⟨7, false, 16, 32, 0, 5, false, false, 4, 0⟩, ⟨D, ⟨iss (.andi ⟨7, false, 16, 32, 0, 5, false, false, 4, 0⟩) (D), ready_iss (by decide +kernel)⟩⟩⟩,
   ⟨⟨7, false, 16, 32, 0, 5, false, false, 4, 0⟩, ⟨D, ⟨iss (.ori ⟨7, false, 16, 32, 0, 5, false, false, 4, 0⟩) (D), ready_iss (by decide +kernel)⟩⟩⟩,
   ⟨⟨7, false, 16, 32, 48, 0, 0, false, false, false, 4, 0⟩, ⟨D, ⟨iss (.shl ⟨7, false, 16, 32, 48, 0, 0, false, false, false, 4, 0⟩) (D), ready_iss (by decide +kernel)⟩⟩⟩,
   ⟨⟨7, false, 16, 32, 48, 0, 0, false, false, false, 4, 0⟩, ⟨D, ⟨iss (.shr ⟨7, false, 16, 32, 48, 0, 0, false, false, false, 4, 0⟩) (D), ready_iss (by decide +kernel)⟩⟩⟩,
   ⟨⟨7, false, 16, 32, 48, 0, 0, false, false, false, 4, 0⟩, ⟨D, ⟨iss (.sar ⟨7, false, 16, 32, 48, 0, 0, false, false, false, 4, 0⟩) (D), ready_iss (by decide +kernel)⟩⟩⟩,
   ⟨⟨7, false, 16, 32, 48, 0, 0, false, false, false, 4, 0⟩, ⟨D, ⟨iss (.ror ⟨7, false, 16, 32, 48, 0, 0, false, false, false, 4, 0⟩) (D), ready_iss (by decide +kernel)⟩⟩⟩,
   ⟨⟨7, false, 16, 32, 48, 64, 0, false, false, false, 4, 0⟩, ⟨D, ⟨iss (.fsh ⟨7, false, 16, 32, 48, 64, 0, false, false, false, 4, 0⟩) (D), ready_iss (by decide +kernel)⟩⟩⟩,
   ⟨⟨7, false, 16, 32, 0, 5, false, false, 4, 0⟩, ⟨D, ⟨iss (.shli ⟨7, false, 16, 32, 0, 5, false, false, 4, 0⟩) (D), ready_iss (by decide +kernel)⟩⟩⟩,
   ⟨⟨7, false, 16, 32, 0, 5, false, false, 4, 0⟩, ⟨D, ⟨iss (.shri ⟨7, false, 16, 32, 0, 5, false, false, 4, 0⟩) (D), ready_iss (by decide +kernel)⟩⟩⟩,
   ⟨⟨7, false, 16, 32, 0, 5, false, false, 4, 0⟩, ⟨D, ⟨iss (.sari ⟨7, false, 16, 32, 0, 5, false, false, 4, 0⟩) (D), ready_iss (by decide +kernel)⟩⟩⟩⟩
theorem test_BitFieldsAndCounts_met :
    (∃ o, ∃ s : State, ∃ x : Iss, Ready (.bfx o) s x) ∧
    (∃ o, ∃ s : State, ∃ x : Iss, Ready (.bfxi o) s x) ∧
    (∃ o, ∃ s : State, ∃ x : Iss, Ready (.bfi o) s x) ∧
    (∃ o, ∃ s : State, ∃ x : Iss, Ready (.popc o) s x) ∧
    (∃ o, ∃ s : State, ∃ x : Iss, Ready (.clz o) s x) :=
  ⟨⟨⟨7, false, 16, 32, 48, 0, 0, false, false, false, 0, 0⟩, ⟨D, ⟨iss (.bfx ⟨7, false, 16, 32, 48, 0, 0, false, false, false, 0, 0⟩) (D), ready_iss (by decide +kernel)⟩⟩⟩,
   ⟨⟨7, false, 16, 32, 0, 5, false, false, 0, 0⟩, ⟨D, ⟨iss (.bfxi ⟨7, false, 16, 32, 0, 5, false, false, 0, 0⟩) (D), ready_iss (by decide +kernel)⟩⟩⟩,
   ⟨⟨7, false, 16, 32, 48, 64, 0, false, false, false, 4, 0⟩, ⟨D, ⟨iss (.bfi ⟨7, false, 16, 32, 48, 64, 0, false, false, false, 4, 0⟩) (D), ready_iss (by decide +kernel)⟩⟩⟩,
   ⟨⟨7, false, 16, 32, 0, 0, 0, false, false, false, 4, 0⟩, ⟨D, ⟨iss (.popc ⟨7, false, 16, 32, 0, 0, 0, false, false, false, 4, 0⟩) (D), ready_iss (by decide +kernel)⟩⟩⟩,
   ⟨⟨7, false, 16, 32, 0, 0, 0, false, false, false, 4, 0⟩, ⟨D, ⟨iss (.clz ⟨7, false, 16, 32, 0, 0, 0, false, false, false, 4, 0⟩) (D), ready_iss (by decide +kernel)⟩⟩⟩⟩
theorem test_CompareSelectConstantsAddresses_met :
    (∃ o, ∃ s : State, ∃ x : Iss, Ready (.cmp o) s x) ∧
    (∃ o, ∃ s : State, ∃ x : Iss, Ready (.cmpi o) s x) ∧
    (∃ o, ∃ s : State, ∃ x : Iss, Ready (.sel o) s x) ∧
    (∃ o, ∃ s : State, ∃ x : Iss, Ready (.li o) s x) ∧
    (∃ o, ∃ s : State, ∃ x : Iss, Ready (.lda o) s x) ∧
    (∃ o, ∃ s : State, ∃ x : Iss, Ready (.lea o) s x) ∧
    (∃ o, ∃ s : State, ∃ x : Iss, Ready (.lid o) s x) :=
  ⟨⟨⟨7, false, 0, 32, 48, 0, 0, false, false, false, 0, 0⟩, ⟨D, ⟨iss (.cmp ⟨7, false, 0, 32, 48, 0, 0, false, false, false, 0, 0⟩) (D), ready_iss (by decide +kernel)⟩⟩⟩,
   ⟨⟨7, false, 0, 32, 0, 5, false, false, 0, 0⟩, ⟨D, ⟨iss (.cmpi ⟨7, false, 0, 32, 0, 5, false, false, 0, 0⟩) (D), ready_iss (by decide +kernel)⟩⟩⟩,
   ⟨⟨7, false, 16, 32, 48, 0, 0, false, false, false, 4, 0⟩, ⟨D, ⟨iss (.sel ⟨7, false, 16, 32, 48, 0, 0, false, false, false, 4, 0⟩) (D), ready_iss (by decide +kernel)⟩⟩⟩,
   ⟨⟨7, false, 16, 0, false, false, 4, 0, 9⟩, ⟨D, ⟨iss (.li ⟨7, false, 16, 0, false, false, 4, 0, 9⟩) (D), ready_iss (by decide +kernel)⟩⟩⟩,
   ⟨⟨7, false, 16, 0, false, false, 5, 0, 9⟩, ⟨D, ⟨iss (.lda ⟨7, false, 16, 0, false, false, 5, 0, 9⟩) (D), ready_iss (by decide +kernel)⟩⟩⟩,
   ⟨⟨7, false, 16, 32, 48, 5, false, false, 0, 0⟩, ⟨D, ⟨iss (.lea ⟨7, false, 16, 32, 48, 5, false, false, 0, 0⟩) (D), ready_iss (by decide +kernel)⟩⟩⟩,
   ⟨⟨7, false, 16, 0, 0, 5, false, false, 0, 0⟩, ⟨D, ⟨iss (.lid ⟨7, false, 16, 0, 0, 5, false, false, 0, 0⟩) (D), ready_iss (by decide +kernel)⟩⟩⟩⟩
theorem test_FloatArithmetic_met :
    (∃ o, ∃ s : State, ∃ x : Iss, Ready (.fadd o) s x ∧ trapping (rounded fun x l => (fAddV x.rdn (x.fa l) (x.fb l), sigFlag [x.fa l, x.fb l])) x = []) ∧
    (∃ o, ∃ s : State, ∃ x : Iss, Ready (.fadd o) s x ∧ x.canTrap (x.moved s) ∧ trapping (rounded fun x l => (fAddV x.rdn (x.fa l) (x.fb l), sigFlag [x.fa l, x.fb l])) x ≠ []) ∧
    (∃ o, ∃ s : State, ∃ x : Iss, Ready (.fsub o) s x ∧ trapping (rounded fun x l => (fSubV x.rdn (x.fa l) (x.fb l), sigFlag [x.fa l, x.fb l])) x = []) ∧
    (∃ o, ∃ s : State, ∃ x : Iss, Ready (.fsub o) s x ∧ x.canTrap (x.moved s) ∧ trapping (rounded fun x l => (fSubV x.rdn (x.fa l) (x.fb l), sigFlag [x.fa l, x.fb l])) x ≠ []) ∧
    (∃ o, ∃ s : State, ∃ x : Iss, Ready (.fmul o) s x ∧ trapping (rounded fun x l => (fMulV (x.fa l) (x.fb l), sigFlag [x.fa l, x.fb l])) x = []) ∧
    (∃ o, ∃ s : State, ∃ x : Iss, Ready (.fmul o) s x ∧ x.canTrap (x.moved s) ∧ trapping (rounded fun x l => (fMulV (x.fa l) (x.fb l), sigFlag [x.fa l, x.fb l])) x ≠ []) ∧
    (∃ o, ∃ s : State, ∃ x : Iss, Ready (.fdiv o) s x ∧ trapping (rounded fun x l => (fDivV (x.fa l) (x.fb l), sigFlag [x.fa l, x.fb l])) x = []) ∧
    (∃ o, ∃ s : State, ∃ x : Iss, Ready (.fdiv o) s x ∧ x.canTrap (x.moved s) ∧ trapping (rounded fun x l => (fDivV (x.fa l) (x.fb l), sigFlag [x.fa l, x.fb l])) x ≠ []) ∧
    (∃ o, ∃ s : State, ∃ x : Iss, Ready (.fsqrt o) s x ∧ trapping (rounded fun x l => (fSqrtV (x.fa l), sigFlag [x.fa l])) x = []) ∧
    (∃ o, ∃ s : State, ∃ x : Iss, Ready (.fsqrt o) s x ∧ x.canTrap (x.moved s) ∧ trapping (rounded fun x l => (fSqrtV (x.fa l), sigFlag [x.fa l])) x ≠ []) ∧
    (∃ o, ∃ s : State, ∃ x : Iss, Ready (.fma o) s x ∧ trapping (rounded fun x l => fusedOp x.rdn [x.fa l, x.fb l, x.fc l] (x.fa l) (x.fb l) (x.fc l)) x = []) :=
  ⟨⟨⟨7, false, 16, 32, 48, 0, 0, false, false, false, 0, 0⟩, ⟨D, ⟨iss (.fadd ⟨7, false, 16, 32, 48, 0, 0, false, false, false, 0, 0⟩) (D), ⟨(ready_iss (by decide +kernel)), by decide +kernel⟩⟩⟩⟩,
   ⟨⟨7, false, 16, 32, 48, 0, 0, false, false, false, 0, 0⟩, ⟨(th (fun t => { t with fpCtl := 0x1F })) ((reg 32 0x7F800001) (D)), ⟨iss (.fadd ⟨7, false, 16, 32, 48, 0, 0, false, false, false, 0, 0⟩) ((th (fun t => { t with fpCtl := 0x1F })) ((reg 32 0x7F800001) (D))), ⟨(ready_iss (by decide +kernel)), by decide +kernel⟩⟩⟩⟩,
   ⟨⟨7, false, 16, 32, 48, 0, 0, false, false, false, 0, 0⟩, ⟨D, ⟨iss (.fsub ⟨7, false, 16, 32, 48, 0, 0, false, false, false, 0, 0⟩) (D), ⟨(ready_iss (by decide +kernel)), by decide +kernel⟩⟩⟩⟩,
   ⟨⟨7, false, 16, 32, 48, 0, 0, false, false, false, 0, 0⟩, ⟨(th (fun t => { t with fpCtl := 0x1F })) ((reg 32 0x7F800001) (D)), ⟨iss (.fsub ⟨7, false, 16, 32, 48, 0, 0, false, false, false, 0, 0⟩) ((th (fun t => { t with fpCtl := 0x1F })) ((reg 32 0x7F800001) (D))), ⟨(ready_iss (by decide +kernel)), by decide +kernel⟩⟩⟩⟩,
   ⟨⟨7, false, 16, 32, 48, 0, 0, false, false, false, 0, 0⟩, ⟨D, ⟨iss (.fmul ⟨7, false, 16, 32, 48, 0, 0, false, false, false, 0, 0⟩) (D), ⟨(ready_iss (by decide +kernel)), by decide +kernel⟩⟩⟩⟩,
   ⟨⟨7, false, 16, 32, 48, 0, 0, false, false, false, 0, 0⟩, ⟨(th (fun t => { t with fpCtl := 0x1F })) ((reg 32 0x7F800001) (D)), ⟨iss (.fmul ⟨7, false, 16, 32, 48, 0, 0, false, false, false, 0, 0⟩) ((th (fun t => { t with fpCtl := 0x1F })) ((reg 32 0x7F800001) (D))), ⟨(ready_iss (by decide +kernel)), by decide +kernel⟩⟩⟩⟩,
   ⟨⟨7, false, 16, 32, 48, 0, 0, false, false, false, 0, 0⟩, ⟨D, ⟨iss (.fdiv ⟨7, false, 16, 32, 48, 0, 0, false, false, false, 0, 0⟩) (D), ⟨(ready_iss (by decide +kernel)), by decide +kernel⟩⟩⟩⟩,
   ⟨⟨7, false, 16, 32, 48, 0, 0, false, false, false, 0, 0⟩, ⟨(th (fun t => { t with fpCtl := 0x1F })) ((reg 32 0x7F800001) (D)), ⟨iss (.fdiv ⟨7, false, 16, 32, 48, 0, 0, false, false, false, 0, 0⟩) ((th (fun t => { t with fpCtl := 0x1F })) ((reg 32 0x7F800001) (D))), ⟨(ready_iss (by decide +kernel)), by decide +kernel⟩⟩⟩⟩,
   ⟨⟨7, false, 16, 32, 0, 0, 0, false, false, false, 0, 0⟩, ⟨D, ⟨iss (.fsqrt ⟨7, false, 16, 32, 0, 0, 0, false, false, false, 0, 0⟩) (D), ⟨(ready_iss (by decide +kernel)), by decide +kernel⟩⟩⟩⟩,
   ⟨⟨7, false, 16, 32, 0, 0, 0, false, false, false, 0, 0⟩, ⟨(th (fun t => { t with fpCtl := 0x1F })) ((reg 32 0x7F800001) (D)), ⟨iss (.fsqrt ⟨7, false, 16, 32, 0, 0, 0, false, false, false, 0, 0⟩) ((th (fun t => { t with fpCtl := 0x1F })) ((reg 32 0x7F800001) (D))), ⟨(ready_iss (by decide +kernel)), by decide +kernel⟩⟩⟩⟩,
   ⟨⟨7, false, 16, 32, 48, 64, 0, false, false, false, 0, 0⟩, ⟨D, ⟨iss (.fma ⟨7, false, 16, 32, 48, 64, 0, false, false, false, 0, 0⟩) (D), ⟨(ready_iss (by decide +kernel)), by decide +kernel⟩⟩⟩⟩⟩
theorem test_FloatArithmetic_met2 :
    (∃ o, ∃ s : State, ∃ x : Iss, Ready (.fma o) s x ∧ x.canTrap (x.moved s) ∧ trapping (rounded fun x l => fusedOp x.rdn [x.fa l, x.fb l, x.fc l] (x.fa l) (x.fb l) (x.fc l)) x ≠ []) ∧
    (∃ o, ∃ s : State, ∃ x : Iss, Ready (.fms o) s x ∧ trapping (rounded fun x l => fusedOp x.rdn [x.fa l, x.fb l, x.fc l] (x.fa l) (x.fb l) (x.fc l).flip) x = []) ∧
    (∃ o, ∃ s : State, ∃ x : Iss, Ready (.fms o) s x ∧ x.canTrap (x.moved s) ∧ trapping (rounded fun x l => fusedOp x.rdn [x.fa l, x.fb l, x.fc l] (x.fa l) (x.fb l) (x.fc l).flip) x ≠ []) ∧
    (∃ o, ∃ s : State, ∃ x : Iss, Ready (.fscale o) s x ∧ trapping (rounded fun x l => (fScaleV (x.fa l) (max (-8192) (min 8192 (sint 32 (x.b l)))), sigFlag [x.fa l])) x = []) ∧
    (∃ o, ∃ s : State, ∃ x : Iss, Ready (.fscale o) s x ∧ x.canTrap (x.moved s) ∧ trapping (rounded fun x l => (fScaleV (x.fa l) (max (-8192) (min 8192 (sint 32 (x.b l)))), sigFlag [x.fa l])) x ≠ []) ∧
    (∃ o, ∃ s : State, ∃ x : Iss, Ready (.faddi o) s x ∧ trapping (rounded fun x l => (fAddV x.rdn (x.fa l) (x.fi l), sigFlag [x.fa l, x.fi l])) x = []) ∧
    (∃ o, ∃ s : State, ∃ x : Iss, Ready (.faddi o) s x ∧ x.canTrap (x.moved s) ∧ trapping (rounded fun x l => (fAddV x.rdn (x.fa l) (x.fi l), sigFlag [x.fa l, x.fi l])) x ≠ []) ∧
    (∃ o, ∃ s : State, ∃ x : Iss, Ready (.fmuli o) s x ∧ trapping (rounded fun x l => (fMulV (x.fa l) (x.fi l), sigFlag [x.fa l, x.fi l])) x = []) ∧
    (∃ o, ∃ s : State, ∃ x : Iss, Ready (.fmuli o) s x ∧ x.canTrap (x.moved s) ∧ trapping (rounded fun x l => (fMulV (x.fa l) (x.fi l), sigFlag [x.fa l, x.fi l])) x ≠ []) ∧
    (∃ o, ∃ s : State, ∃ x : Iss, Ready (.fmai o) s x ∧ trapping (rounded fun x l => fusedOp x.rdn [x.fa l, x.fi l, x.fb l] (x.fa l) (x.fi l) (x.fb l)) x = []) ∧
    (∃ o, ∃ s : State, ∃ x : Iss, Ready (.fmai o) s x ∧ x.canTrap (x.moved s) ∧ trapping (rounded fun x l => fusedOp x.rdn [x.fa l, x.fi l, x.fb l] (x.fa l) (x.fi l) (x.fb l)) x ≠ []) :=
  ⟨⟨⟨7, false, 16, 32, 48, 64, 0, false, false, false, 0, 0⟩, ⟨(th (fun t => { t with fpCtl := 0x1F })) ((reg 32 0x7F800001) (D)), ⟨iss (.fma ⟨7, false, 16, 32, 48, 64, 0, false, false, false, 0, 0⟩) ((th (fun t => { t with fpCtl := 0x1F })) ((reg 32 0x7F800001) (D))), ⟨(ready_iss (by decide +kernel)), by decide +kernel⟩⟩⟩⟩,
   ⟨⟨7, false, 16, 32, 48, 64, 0, false, false, false, 0, 0⟩, ⟨D, ⟨iss (.fms ⟨7, false, 16, 32, 48, 64, 0, false, false, false, 0, 0⟩) (D), ⟨(ready_iss (by decide +kernel)), by decide +kernel⟩⟩⟩⟩,
   ⟨⟨7, false, 16, 32, 48, 64, 0, false, false, false, 0, 0⟩, ⟨(th (fun t => { t with fpCtl := 0x1F })) ((reg 32 0x7F800001) (D)), ⟨iss (.fms ⟨7, false, 16, 32, 48, 64, 0, false, false, false, 0, 0⟩) ((th (fun t => { t with fpCtl := 0x1F })) ((reg 32 0x7F800001) (D))), ⟨(ready_iss (by decide +kernel)), by decide +kernel⟩⟩⟩⟩,
   ⟨⟨7, false, 16, 32, 48, 0, 0, false, false, false, 0, 0⟩, ⟨D, ⟨iss (.fscale ⟨7, false, 16, 32, 48, 0, 0, false, false, false, 0, 0⟩) (D), ⟨(ready_iss (by decide +kernel)), by decide +kernel⟩⟩⟩⟩,
   ⟨⟨7, false, 16, 32, 48, 0, 0, false, false, false, 0, 0⟩, ⟨(th (fun t => { t with fpCtl := 0x1F })) ((reg 32 0x7F800001) (D)), ⟨iss (.fscale ⟨7, false, 16, 32, 48, 0, 0, false, false, false, 0, 0⟩) ((th (fun t => { t with fpCtl := 0x1F })) ((reg 32 0x7F800001) (D))), ⟨(ready_iss (by decide +kernel)), by decide +kernel⟩⟩⟩⟩,
   ⟨⟨7, false, 16, 32, 0, 5, false, false, 0, 0⟩, ⟨D, ⟨iss (.faddi ⟨7, false, 16, 32, 0, 5, false, false, 0, 0⟩) (D), ⟨(ready_iss (by decide +kernel)), by decide +kernel⟩⟩⟩⟩,
   ⟨⟨7, false, 16, 32, 0, 5, false, false, 0, 0⟩, ⟨(th (fun t => { t with fpCtl := 0x1F })) ((reg 32 0x7F800001) (D)), ⟨iss (.faddi ⟨7, false, 16, 32, 0, 5, false, false, 0, 0⟩) ((th (fun t => { t with fpCtl := 0x1F })) ((reg 32 0x7F800001) (D))), ⟨(ready_iss (by decide +kernel)), by decide +kernel⟩⟩⟩⟩,
   ⟨⟨7, false, 16, 32, 0, 5, false, false, 0, 0⟩, ⟨D, ⟨iss (.fmuli ⟨7, false, 16, 32, 0, 5, false, false, 0, 0⟩) (D), ⟨(ready_iss (by decide +kernel)), by decide +kernel⟩⟩⟩⟩,
   ⟨⟨7, false, 16, 32, 0, 5, false, false, 0, 0⟩, ⟨(th (fun t => { t with fpCtl := 0x1F })) ((reg 32 0x7F800001) (D)), ⟨iss (.fmuli ⟨7, false, 16, 32, 0, 5, false, false, 0, 0⟩) ((th (fun t => { t with fpCtl := 0x1F })) ((reg 32 0x7F800001) (D))), ⟨(ready_iss (by decide +kernel)), by decide +kernel⟩⟩⟩⟩,
   ⟨⟨7, false, 16, 32, 48, 5, false, false, 0, 0⟩, ⟨D, ⟨iss (.fmai ⟨7, false, 16, 32, 48, 5, false, false, 0, 0⟩) (D), ⟨(ready_iss (by decide +kernel)), by decide +kernel⟩⟩⟩⟩,
   ⟨⟨7, false, 16, 32, 48, 5, false, false, 0, 0⟩, ⟨(th (fun t => { t with fpCtl := 0x1F })) ((reg 32 0x7F800001) (D)), ⟨iss (.fmai ⟨7, false, 16, 32, 48, 5, false, false, 0, 0⟩) ((th (fun t => { t with fpCtl := 0x1F })) ((reg 32 0x7F800001) (D))), ⟨(ready_iss (by decide +kernel)), by decide +kernel⟩⟩⟩⟩⟩
theorem test_FloatSelectCompareClass_met :
    (∃ o, ∃ s : State, ∃ x : Iss, Ready (.fmin o) s x ∧ trapping (rounded fun x l => ((fPick false (x.fa l) (x.fb l)).res, sigFlag [x.fa l, x.fb l])) x = []) ∧
    (∃ o, ∃ s : State, ∃ x : Iss, Ready (.fmin o) s x ∧ x.canTrap (x.moved s) ∧ trapping (rounded fun x l => ((fPick false (x.fa l) (x.fb l)).res, sigFlag [x.fa l, x.fb l])) x ≠ []) ∧
    (∃ o, ∃ s : State, ∃ x : Iss, Ready (.fmax o) s x ∧ trapping (rounded fun x l => ((fPick true (x.fa l) (x.fb l)).res, sigFlag [x.fa l, x.fb l])) x = []) ∧
    (∃ o, ∃ s : State, ∃ x : Iss, Ready (.fmax o) s x ∧ x.canTrap (x.moved s) ∧ trapping (rounded fun x l => ((fPick true (x.fa l) (x.fb l)).res, sigFlag [x.fa l, x.fb l])) x ≠ []) ∧
    (∃ o, ∃ s : State, ∃ x : Iss, Ready (.frint o) s x ∧ trapping (rounded fun x l => fRintV (x.rnd l) (x.fa l)) x = []) ∧
    (∃ o, ∃ s : State, ∃ x : Iss, Ready (.frint o) s x ∧ x.canTrap (x.moved s) ∧ trapping (rounded fun x l => fRintV (x.rnd l) (x.fa l)) x ≠ []) ∧
    (∃ o, ∃ s : State, ∃ x : Iss, Ready (.fgetexp o) s x ∧ trapping (rounded fun x l => (fGetexpV (x.fa l), sigFlag [x.fa l])) x = []) ∧
    (∃ o, ∃ s : State, ∃ x : Iss, Ready (.fgetexp o) s x ∧ x.canTrap (x.moved s) ∧ trapping (rounded fun x l => (fGetexpV (x.fa l), sigFlag [x.fa l])) x ≠ []) ∧
    (∃ o, ∃ s : State, ∃ x : Iss, Ready (.fgetman o) s x ∧ trapping (rounded fun x l => (fGetmanV (x.fa l), sigFlag [x.fa l])) x = []) ∧
    (∃ o, ∃ s : State, ∃ x : Iss, Ready (.fgetman o) s x ∧ x.canTrap (x.moved s) ∧ trapping (rounded fun x l => (fGetmanV (x.fa l), sigFlag [x.fa l])) x ≠ []) ∧
    (∃ o, ∃ s : State, ∃ x : Iss, Ready (.fcmp o) s x ∧ trapping (fun x l => fCmpWrite (x.f.c.toNat % 8) (x.fa l) (x.fb l)) x = []) ∧
    (∃ o, ∃ s : State, ∃ x : Iss, Ready (.fcmp o) s x ∧ x.canTrap (x.moved s) ∧ trapping (fun x l => fCmpWrite (x.f.c.toNat % 8) (x.fa l) (x.fb l)) x ≠ []) ∧
    (∃ o, ∃ s : State, ∃ x : Iss, Ready (.fcmpi o) s x ∧ trapping (fun x l => fCmpWrite (x.f.b.toNat % 8) (x.fa l) (x.fi l)) x = []) ∧
    (∃ o, ∃ s : State, ∃ x : Iss, Ready (.fcmpi o) s x ∧ x.canTrap (x.moved s) ∧ trapping (fun x l => fCmpWrite (x.f.b.toNat % 8) (x.fa l) (x.fi l)) x ≠ []) ∧
    (∃ o, ∃ s : State, ∃ x : Iss, Ready (.fabs o) s x) ∧
    (∃ o, ∃ s : State, ∃ x : Iss, Ready (.fneg o) s x) ∧
    (∃ o, ∃ s : State, ∃ x : Iss, Ready (.fcps o) s x) ∧
    (∃ o, ∃ s : State, ∃ x : Iss, Ready (.fclass o) s x) :=
  ⟨⟨⟨7, false, 16, 32, 48, 0, 0, false, false, false, 0, 0⟩, ⟨D, ⟨iss (.fmin ⟨7, false, 16, 32, 48, 0, 0, false, false, false, 0, 0⟩) (D), ⟨(ready_iss (by decide +kernel)), by decide +kernel⟩⟩⟩⟩,
   ⟨⟨7, false, 16, 32, 48, 0, 0, false, false, false, 0, 0⟩, ⟨(th (fun t => { t with fpCtl := 0x1F })) ((reg 32 0x7F800001) (D)), ⟨iss (.fmin ⟨7, false, 16, 32, 48, 0, 0, false, false, false, 0, 0⟩) ((th (fun t => { t with fpCtl := 0x1F })) ((reg 32 0x7F800001) (D))), ⟨(ready_iss (by decide +kernel)), by decide +kernel⟩⟩⟩⟩,
   ⟨⟨7, false, 16, 32, 48, 0, 0, false, false, false, 0, 0⟩, ⟨D, ⟨iss (.fmax ⟨7, false, 16, 32, 48, 0, 0, false, false, false, 0, 0⟩) (D), ⟨(ready_iss (by decide +kernel)), by decide +kernel⟩⟩⟩⟩,
   ⟨⟨7, false, 16, 32, 48, 0, 0, false, false, false, 0, 0⟩, ⟨(th (fun t => { t with fpCtl := 0x1F })) ((reg 32 0x7F800001) (D)), ⟨iss (.fmax ⟨7, false, 16, 32, 48, 0, 0, false, false, false, 0, 0⟩) ((th (fun t => { t with fpCtl := 0x1F })) ((reg 32 0x7F800001) (D))), ⟨(ready_iss (by decide +kernel)), by decide +kernel⟩⟩⟩⟩,
   ⟨⟨7, false, 16, 32, 0, 0, 0, false, false, false, 0, 0⟩, ⟨D, ⟨iss (.frint ⟨7, false, 16, 32, 0, 0, 0, false, false, false, 0, 0⟩) (D), ⟨(ready_iss (by decide +kernel)), by decide +kernel⟩⟩⟩⟩,
   ⟨⟨7, false, 16, 32, 0, 0, 0, false, false, false, 0, 0⟩, ⟨(th (fun t => { t with fpCtl := 0x1F })) ((reg 32 0x7F800001) (D)), ⟨iss (.frint ⟨7, false, 16, 32, 0, 0, 0, false, false, false, 0, 0⟩) ((th (fun t => { t with fpCtl := 0x1F })) ((reg 32 0x7F800001) (D))), ⟨(ready_iss (by decide +kernel)), by decide +kernel⟩⟩⟩⟩,
   ⟨⟨7, false, 16, 32, 0, 0, 0, false, false, false, 0, 0⟩, ⟨D, ⟨iss (.fgetexp ⟨7, false, 16, 32, 0, 0, 0, false, false, false, 0, 0⟩) (D), ⟨(ready_iss (by decide +kernel)), by decide +kernel⟩⟩⟩⟩,
   ⟨⟨7, false, 16, 32, 0, 0, 0, false, false, false, 0, 0⟩, ⟨(th (fun t => { t with fpCtl := 0x1F })) ((reg 32 0x7F800001) (D)), ⟨iss (.fgetexp ⟨7, false, 16, 32, 0, 0, 0, false, false, false, 0, 0⟩) ((th (fun t => { t with fpCtl := 0x1F })) ((reg 32 0x7F800001) (D))), ⟨(ready_iss (by decide +kernel)), by decide +kernel⟩⟩⟩⟩,
   ⟨⟨7, false, 16, 32, 0, 0, 0, false, false, false, 0, 0⟩, ⟨D, ⟨iss (.fgetman ⟨7, false, 16, 32, 0, 0, 0, false, false, false, 0, 0⟩) (D), ⟨(ready_iss (by decide +kernel)), by decide +kernel⟩⟩⟩⟩,
   ⟨⟨7, false, 16, 32, 0, 0, 0, false, false, false, 0, 0⟩, ⟨(th (fun t => { t with fpCtl := 0x1F })) ((reg 32 0x7F800001) (D)), ⟨iss (.fgetman ⟨7, false, 16, 32, 0, 0, 0, false, false, false, 0, 0⟩) ((th (fun t => { t with fpCtl := 0x1F })) ((reg 32 0x7F800001) (D))), ⟨(ready_iss (by decide +kernel)), by decide +kernel⟩⟩⟩⟩,
   ⟨⟨7, false, 0, 32, 48, 0, 0, false, false, false, 0, 0⟩, ⟨D, ⟨iss (.fcmp ⟨7, false, 0, 32, 48, 0, 0, false, false, false, 0, 0⟩) (D), ⟨(ready_iss (by decide +kernel)), by decide +kernel⟩⟩⟩⟩,
   ⟨⟨7, false, 0, 32, 48, 0, 0, false, false, false, 0, 0⟩, ⟨(th (fun t => { t with fpCtl := 0x1F })) ((reg 32 0x7F800001) (D)), ⟨iss (.fcmp ⟨7, false, 0, 32, 48, 0, 0, false, false, false, 0, 0⟩) ((th (fun t => { t with fpCtl := 0x1F })) ((reg 32 0x7F800001) (D))), ⟨(ready_iss (by decide +kernel)), by decide +kernel⟩⟩⟩⟩,
   ⟨⟨7, false, 0, 32, 0, 5, false, false, 0, 0⟩, ⟨D, ⟨iss (.fcmpi ⟨7, false, 0, 32, 0, 5, false, false, 0, 0⟩) (D), ⟨(ready_iss (by decide +kernel)), by decide +kernel⟩⟩⟩⟩,
   ⟨⟨7, false, 0, 32, 0, 5, false, false, 0, 0⟩, ⟨(th (fun t => { t with fpCtl := 0x1F })) ((reg 32 0x7F800001) (D)), ⟨iss (.fcmpi ⟨7, false, 0, 32, 0, 5, false, false, 0, 0⟩) ((th (fun t => { t with fpCtl := 0x1F })) ((reg 32 0x7F800001) (D))), ⟨(ready_iss (by decide +kernel)), by decide +kernel⟩⟩⟩⟩,
   ⟨⟨7, false, 16, 32, 0, 0, 0, false, false, false, 0, 0⟩, ⟨D, ⟨iss (.fabs ⟨7, false, 16, 32, 0, 0, 0, false, false, false, 0, 0⟩) (D), ready_iss (by decide +kernel)⟩⟩⟩,
   ⟨⟨7, false, 16, 32, 0, 0, 0, false, false, false, 0, 0⟩, ⟨D, ⟨iss (.fneg ⟨7, false, 16, 32, 0, 0, 0, false, false, false, 0, 0⟩) (D), ready_iss (by decide +kernel)⟩⟩⟩,
   ⟨⟨7, false, 16, 32, 48, 0, 0, false, false, false, 0, 0⟩, ⟨D, ⟨iss (.fcps ⟨7, false, 16, 32, 48, 0, 0, false, false, false, 0, 0⟩) (D), ready_iss (by decide +kernel)⟩⟩⟩,
   ⟨⟨7, false, 16, 32, 0, 0, 0, false, false, false, 0, 0⟩, ⟨D, ⟨iss (.fclass ⟨7, false, 16, 32, 0, 0, 0, false, false, false, 0, 0⟩) (D), ready_iss (by decide +kernel)⟩⟩⟩⟩
theorem test_FloatFunctions_met :
    (∃ o, ∃ s : State, ∃ x : Iss, Ready (.frcpe o) s x ∧ trapping (coded fun x l => (((fRcpV (x.fa l)).estimate (x.th l).ftz).1, ((fRcpV (x.fa l)).estimate (x.th l).ftz).2 ||| sigFlag [x.fa l])) x = []) ∧
    (∃ o, ∃ s : State, ∃ x : Iss, Ready (.frcpe o) s x ∧ x.canTrap (x.moved s) ∧ trapping (coded fun x l => (((fRcpV (x.fa l)).estimate (x.th l).ftz).1, ((fRcpV (x.fa l)).estimate (x.th l).ftz).2 ||| sigFlag [x.fa l])) x ≠ []) ∧
    (∃ o, ∃ s : State, ∃ x : Iss, Ready (.frsqe o) s x ∧ trapping (coded fun x l => (((fRsqV (x.fa l)).estimate (x.th l).ftz).1, ((fRsqV (x.fa l)).estimate (x.th l).ftz).2 ||| sigFlag [x.fa l])) x = []) ∧
    (∃ o, ∃ s : State, ∃ x : Iss, Ready (.frsqe o) s x ∧ x.canTrap (x.moved s) ∧ trapping (coded fun x l => (((fRsqV (x.fa l)).estimate (x.th l).ftz).1, ((fRsqV (x.fa l)).estimate (x.th l).ftz).2 ||| sigFlag [x.fa l])) x ≠ []) ∧
    (∃ o, ∃ s : State, ∃ x : Iss, Ready (.fex2 o) s x ∧ trapping (rounded fun x l => (fEx2V (x.fa l), sigFlag [x.fa l])) x = []) ∧
    (∃ o, ∃ s : State, ∃ x : Iss, Ready (.fex2 o) s x ∧ x.canTrap (x.moved s) ∧ trapping (rounded fun x l => (fEx2V (x.fa l), sigFlag [x.fa l])) x ≠ []) ∧
    (∃ o, ∃ s : State, ∃ x : Iss, Ready (.flg2 o) s x ∧ trapping (rounded fun x l => (fLg2V (x.fa l), sigFlag [x.fa l])) x = []) ∧
    (∃ o, ∃ s : State, ∃ x : Iss, Ready (.flg2 o) s x ∧ x.canTrap (x.moved s) ∧ trapping (rounded fun x l => (fLg2V (x.fa l), sigFlag [x.fa l])) x ≠ []) ∧
    (∃ o, ∃ s : State, ∃ x : Iss, Ready (.fsinpi o) s x ∧ trapping (rounded fun x l => (fSinpiV (x.fa l), sigFlag [x.fa l])) x = []) ∧
    (∃ o, ∃ s : State, ∃ x : Iss, Ready (.fsinpi o) s x ∧ x.canTrap (x.moved s) ∧ trapping (rounded fun x l => (fSinpiV (x.fa l), sigFlag [x.fa l])) x ≠ []) ∧
    (∃ o, ∃ s : State, ∃ x : Iss, Ready (.fcospi o) s x ∧ trapping (rounded fun x l => (fCospiV (x.fa l), sigFlag [x.fa l])) x = []) ∧
    (∃ o, ∃ s : State, ∃ x : Iss, Ready (.fcospi o) s x ∧ x.canTrap (x.moved s) ∧ trapping (rounded fun x l => (fCospiV (x.fa l), sigFlag [x.fa l])) x ≠ []) :=
  ⟨⟨⟨7, false, 16, 32, 0, 0, 0, false, false, false, 0, 0⟩, ⟨D, ⟨iss (.frcpe ⟨7, false, 16, 32, 0, 0, 0, false, false, false, 0, 0⟩) (D), ⟨(ready_iss (by decide +kernel)), by decide +kernel⟩⟩⟩⟩,
   ⟨⟨7, false, 16, 32, 0, 0, 0, false, false, false, 0, 0⟩, ⟨(th (fun t => { t with fpCtl := 0x1F })) ((reg 32 0x7F800001) (D)), ⟨iss (.frcpe ⟨7, false, 16, 32, 0, 0, 0, false, false, false, 0, 0⟩) ((th (fun t => { t with fpCtl := 0x1F })) ((reg 32 0x7F800001) (D))), ⟨(ready_iss (by decide +kernel)), by decide +kernel⟩⟩⟩⟩,
   ⟨⟨7, false, 16, 32, 0, 0, 0, false, false, false, 0, 0⟩, ⟨D, ⟨iss (.frsqe ⟨7, false, 16, 32, 0, 0, 0, false, false, false, 0, 0⟩) (D), ⟨(ready_iss (by decide +kernel)), by decide +kernel⟩⟩⟩⟩,
   ⟨⟨7, false, 16, 32, 0, 0, 0, false, false, false, 0, 0⟩, ⟨(th (fun t => { t with fpCtl := 0x1F })) ((reg 32 0x7F800001) (D)), ⟨iss (.frsqe ⟨7, false, 16, 32, 0, 0, 0, false, false, false, 0, 0⟩) ((th (fun t => { t with fpCtl := 0x1F })) ((reg 32 0x7F800001) (D))), ⟨(ready_iss (by decide +kernel)), by decide +kernel⟩⟩⟩⟩,
   ⟨⟨7, false, 16, 32, 0, 0, 0, false, false, false, 0, 0⟩, ⟨D, ⟨iss (.fex2 ⟨7, false, 16, 32, 0, 0, 0, false, false, false, 0, 0⟩) (D), ⟨(ready_iss (by decide +kernel)), by decide +kernel⟩⟩⟩⟩,
   ⟨⟨7, false, 16, 32, 0, 0, 0, false, false, false, 0, 0⟩, ⟨(th (fun t => { t with fpCtl := 0x1F })) ((reg 32 0x7F800001) (D)), ⟨iss (.fex2 ⟨7, false, 16, 32, 0, 0, 0, false, false, false, 0, 0⟩) ((th (fun t => { t with fpCtl := 0x1F })) ((reg 32 0x7F800001) (D))), ⟨(ready_iss (by decide +kernel)), by decide +kernel⟩⟩⟩⟩,
   ⟨⟨7, false, 16, 32, 0, 0, 0, false, false, false, 0, 0⟩, ⟨D, ⟨iss (.flg2 ⟨7, false, 16, 32, 0, 0, 0, false, false, false, 0, 0⟩) (D), ⟨(ready_iss (by decide +kernel)), by decide +kernel⟩⟩⟩⟩,
   ⟨⟨7, false, 16, 32, 0, 0, 0, false, false, false, 0, 0⟩, ⟨(th (fun t => { t with fpCtl := 0x1F })) ((reg 32 0x7F800001) (D)), ⟨iss (.flg2 ⟨7, false, 16, 32, 0, 0, 0, false, false, false, 0, 0⟩) ((th (fun t => { t with fpCtl := 0x1F })) ((reg 32 0x7F800001) (D))), ⟨(ready_iss (by decide +kernel)), by decide +kernel⟩⟩⟩⟩,
   ⟨⟨7, false, 16, 32, 0, 0, 0, false, false, false, 0, 0⟩, ⟨D, ⟨iss (.fsinpi ⟨7, false, 16, 32, 0, 0, 0, false, false, false, 0, 0⟩) (D), ⟨(ready_iss (by decide +kernel)), by decide +kernel⟩⟩⟩⟩,
   ⟨⟨7, false, 16, 32, 0, 0, 0, false, false, false, 0, 0⟩, ⟨(th (fun t => { t with fpCtl := 0x1F })) ((reg 32 0x7F800001) (D)), ⟨iss (.fsinpi ⟨7, false, 16, 32, 0, 0, 0, false, false, false, 0, 0⟩) ((th (fun t => { t with fpCtl := 0x1F })) ((reg 32 0x7F800001) (D))), ⟨(ready_iss (by decide +kernel)), by decide +kernel⟩⟩⟩⟩,
   ⟨⟨7, false, 16, 32, 0, 0, 0, false, false, false, 0, 0⟩, ⟨D, ⟨iss (.fcospi ⟨7, false, 16, 32, 0, 0, 0, false, false, false, 0, 0⟩) (D), ⟨(ready_iss (by decide +kernel)), by decide +kernel⟩⟩⟩⟩,
   ⟨⟨7, false, 16, 32, 0, 0, 0, false, false, false, 0, 0⟩, ⟨(th (fun t => { t with fpCtl := 0x1F })) ((reg 32 0x7F800001) (D)), ⟨iss (.fcospi ⟨7, false, 16, 32, 0, 0, 0, false, false, false, 0, 0⟩) ((th (fun t => { t with fpCtl := 0x1F })) ((reg 32 0x7F800001) (D))), ⟨(ready_iss (by decide +kernel)), by decide +kernel⟩⟩⟩⟩⟩
theorem test_Conversions_met :
    (∃ o, ∃ s : State, ∃ x : Iss, Ready (.fli o) s x ∧ trapping (coded fun x l => fConvert x.f.ty (x.rnd l) (fVal 1 x.f.imm.toNat)) x = []) ∧
    (∃ o, ∃ s : State, ∃ x : Iss, Ready (.fli o) s x ∧ x.canTrap (x.moved s) ∧ trapping (coded fun x l => fConvert x.f.ty (x.rnd l) (fVal 1 x.f.imm.toNat)) x ≠ []) ∧
    (∃ o, ∃ s : State, ∃ x : Iss, Ready (.fcvt o) s x ∧ trapping (coded fun x l => fConvert x.f.ty (x.rnd l) (fVal x.ty2 (x.a l))) x = []) ∧
    (∃ o, ∃ s : State, ∃ x : Iss, Ready (.fcvt o) s x ∧ x.canTrap (x.moved s) ∧ trapping (coded fun x l => fConvert x.f.ty (x.rnd l) (fVal x.ty2 (x.a l))) x ≠ []) ∧
    (∃ o, ∃ s : State, ∃ x : Iss, Ready (.fcvti o) s x ∧ trapping (coded fun x l => fToInt x.ty2 (x.rnd l) (fVal x.f.ty (x.a l))) x = []) ∧
    (∃ o, ∃ s : State, ∃ x : Iss, Ready (.fcvti o) s x ∧ x.canTrap (x.moved s) ∧ trapping (coded fun x l => fToInt x.ty2 (x.rnd l) (fVal x.f.ty (x.a l))) x ≠ []) ∧
    (∃ o, ∃ s : State, ∃ x : Iss, Ready (.icvtf o) s x ∧ trapping (coded fun x l => roundFP x.f.ty (x.rnd l) (decide (intVal x.ty2 (x.a l) < 0)) (intVal x.ty2 (x.a l)).natAbs 0 false) x = []) ∧
    (∃ o, ∃ s : State, ∃ x : Iss, Ready (.icvtf o) s x ∧ x.canTrap (x.moved s) ∧ trapping (coded fun x l => roundFP x.f.ty (x.rnd l) (decide (intVal x.ty2 (x.a l) < 0)) (intVal x.ty2 (x.a l)).natAbs 0 false) x ≠ []) ∧
    (∃ o, ∃ pos : BitVec 4, ∃ s : State, ∃ x : Iss, Ready (.fpk o pos) s x ∧ trapping (coded fun x l => let w := fBits x.f.ty; let ea := fConvert x.f.ty (x.rnd l) (fVal 0 (x.a l)); let eb := fConvert x.f.ty (x.rnd l) (fVal 0 (x.b l)); (putElem w (2 * pos.toNat + 1) (putElem w (2 * pos.toNat) (x.c l) ea.1) eb.1, ea.2 ||| eb.2)) x = []) ∧
    (∃ o, ∃ pos : BitVec 4, ∃ s : State, ∃ x : Iss, Ready (.fpk o pos) s x ∧ x.canTrap (x.moved s) ∧ trapping (coded fun x l => let w := fBits x.f.ty; let ea := fConvert x.f.ty (x.rnd l) (fVal 0 (x.a l)); let eb := fConvert x.f.ty (x.rnd l) (fVal 0 (x.b l)); (putElem w (2 * pos.toNat + 1) (putElem w (2 * pos.toNat) (x.c l) ea.1) eb.1, ea.2 ||| eb.2)) x ≠ []) ∧
    (∃ o, ∃ pos : BitVec 4, ∃ s : State, ∃ x : Iss, Ready (.fupk o pos) s x ∧ trapping (coded fun x l => fConvert 0 { mode := 0, sat := false } (fVal x.f.ty (x.a l / 2 ^ (fBits x.f.ty * pos.toNat) % 2 ^ fBits x.f.ty))) x = []) ∧
    (∃ o, ∃ pos : BitVec 4, ∃ s : State, ∃ x : Iss, Ready (.fupk o pos) s x ∧ x.canTrap (x.moved s) ∧ trapping (coded fun x l => fConvert 0 { mode := 0, sat := false } (fVal x.f.ty (x.a l / 2 ^ (fBits x.f.ty * pos.toNat) % 2 ^ fBits x.f.ty))) x ≠ []) ∧
    (∃ o, ∃ s : State, ∃ x : Iss, Ready (.fdot2 o) s x ∧ trapping (fun x l => let e := fun (v i : Nat) => x.flush l x.f.ty (fVal x.f.ty (v / 2 ^ (16 * i) % 2 ^ 16)); let r := fDot2V x.rdn (e (x.a l) 0) (e (x.a l) 1) (e (x.b l) 0) (e (x.b l) 1) (x.flush l 0 (fVal 0 (x.c l))); x.outAs 0 l r.1 r.2) x = []) ∧
    (∃ o, ∃ s : State, ∃ x : Iss, Ready (.fdot2 o) s x ∧ x.canTrap (x.moved s) ∧ trapping (fun x l => let e := fun (v i : Nat) => x.flush l x.f.ty (fVal x.f.ty (v / 2 ^ (16 * i) % 2 ^ 16)); let r := fDot2V x.rdn (e (x.a l) 0) (e (x.a l) 1) (e (x.b l) 0) (e (x.b l) 1) (x.flush l 0 (fVal 0 (x.c l))); x.outAs 0 l r.1 r.2) x ≠ []) ∧
    (∃ o, ∃ s : State, ∃ x : Iss, Ready (.bdq o) s x ∧ trapping (coded fun x l => fDequant x.f.ty (x.rnd l) (x.a l % 2 ^ fBits x.f.ty) (x.a l / 2 ^ 8 % 2 ^ 8)) x = []) ∧
    (∃ o, ∃ s : State, ∃ x : Iss, Ready (.bdq o) s x ∧ x.canTrap (x.moved s) ∧ trapping (coded fun x l => fDequant x.f.ty (x.rnd l) (x.a l % 2 ^ fBits x.f.ty) (x.a l / 2 ^ 8 % 2 ^ 8)) x ≠ []) :=
  ⟨⟨⟨7, false, 16, 0, false, false, 0, 0, 9⟩, ⟨D, ⟨iss (.fli ⟨7, false, 16, 0, false, false, 0, 0, 9⟩) (D), ⟨(ready_iss (by decide +kernel)), by decide +kernel⟩⟩⟩⟩,
   ⟨⟨7, false, 16, 0, false, false, 0, 0, 9⟩, ⟨(th (fun t => { t with fpCtl := 0x1F })) ((reg 32 0x7F800001) (D)), ⟨iss (.fli ⟨7, false, 16, 0, false, false, 0, 0, 9⟩) ((th (fun t => { t with fpCtl := 0x1F })) ((reg 32 0x7F800001) (D))), ⟨(ready_iss (by decide +kernel)), by decide +kernel⟩⟩⟩⟩,
   ⟨⟨7, false, 16, 32, 0, 4, 0, false, false, false, 0, 0⟩, ⟨D, ⟨iss (.fcvt ⟨7, false, 16, 32, 0, 4, 0, false, false, false, 0, 0⟩) (D), ⟨(ready_iss (by decide +kernel)), by decide +kernel⟩⟩⟩⟩,
   ⟨⟨7, false, 16, 32, 0, 0, 0, false, false, false, 2, 0⟩, ⟨(th (fun t => { t with fpCtl := 0x1F })) ((reg 32 0x7F800001) (D)), ⟨iss (.fcvt ⟨7, false, 16, 32, 0, 0, 0, false, false, false, 2, 0⟩) ((th (fun t => { t with fpCtl := 0x1F })) ((reg 32 0x7F800001) (D))), ⟨(ready_iss (by decide +kernel)), by decide +kernel⟩⟩⟩⟩,
   ⟨⟨7, false, 16, 32, 0, 0, 0, false, false, false, 0, 0⟩, ⟨D, ⟨iss (.fcvti ⟨7, false, 16, 32, 0, 0, 0, false, false, false, 0, 0⟩) (D), ⟨(ready_iss (by decide +kernel)), by decide +kernel⟩⟩⟩⟩,
   ⟨⟨7, false, 16, 32, 0, 0, 0, false, false, false, 0, 0⟩, ⟨(th (fun t => { t with fpCtl := 0x1F })) ((reg 32 0x7F800001) (D)), ⟨iss (.fcvti ⟨7, false, 16, 32, 0, 0, 0, false, false, false, 0, 0⟩) ((th (fun t => { t with fpCtl := 0x1F })) ((reg 32 0x7F800001) (D))), ⟨(ready_iss (by decide +kernel)), by decide +kernel⟩⟩⟩⟩,
   ⟨⟨7, false, 16, 32, 0, 0, 0, false, false, false, 0, 0⟩, ⟨D, ⟨iss (.icvtf ⟨7, false, 16, 32, 0, 0, 0, false, false, false, 0, 0⟩) (D), ⟨(ready_iss (by decide +kernel)), by decide +kernel⟩⟩⟩⟩,
   ⟨⟨7, false, 16, 32, 0, 0, 0, false, false, false, 0, 0⟩, ⟨(th (fun t => { t with fpCtl := 0x1F })) ((reg 32 0x7F800001) (D)), ⟨iss (.icvtf ⟨7, false, 16, 32, 0, 0, 0, false, false, false, 0, 0⟩) ((th (fun t => { t with fpCtl := 0x1F })) ((reg 32 0x7F800001) (D))), ⟨(ready_iss (by decide +kernel)), by decide +kernel⟩⟩⟩⟩,
   ⟨⟨7, false, 16, 32, 48, 64, 0, false, false, false, 2, 0⟩, ⟨0, ⟨D, ⟨iss (.fpk ⟨7, false, 16, 32, 48, 64, 0, false, false, false, 2, 0⟩ 0) (D), ⟨(ready_iss (by decide +kernel)), by decide +kernel⟩⟩⟩⟩⟩,
   ⟨⟨7, false, 16, 32, 48, 64, 0, false, false, false, 2, 0⟩, ⟨0, ⟨(th (fun t => { t with fpCtl := 0x1F })) ((reg 32 0x7F800001) (D)), ⟨iss (.fpk ⟨7, false, 16, 32, 48, 64, 0, false, false, false, 2, 0⟩ 0) ((th (fun t => { t with fpCtl := 0x1F })) ((reg 32 0x7F800001) (D))), ⟨(ready_iss (by decide +kernel)), by decide +kernel⟩⟩⟩⟩⟩,
   ⟨⟨7, false, 16, 32, 0, 0, 0, false, false, false, 2, 0⟩, ⟨0, ⟨D, ⟨iss (.fupk ⟨7, false, 16, 32, 0, 0, 0, false, false, false, 2, 0⟩ 0) (D), ⟨(ready_iss (by decide +kernel)), by decide +kernel⟩⟩⟩⟩⟩,
   ⟨⟨7, false, 16, 32, 0, 0, 0, false, false, false, 2, 0⟩, ⟨0, ⟨(th (fun t => { t with fpCtl := 0x1F })) ((reg 32 0x7F81) (D)), ⟨iss (.fupk ⟨7, false, 16, 32, 0, 0, 0, false, false, false, 2, 0⟩ 0) ((th (fun t => { t with fpCtl := 0x1F })) ((reg 32 0x7F81) (D))), ⟨(ready_iss (by decide +kernel)), by decide +kernel⟩⟩⟩⟩⟩,
   ⟨⟨7, false, 16, 32, 48, 64, 0, false, false, false, 2, 0⟩, ⟨D, ⟨iss (.fdot2 ⟨7, false, 16, 32, 48, 64, 0, false, false, false, 2, 0⟩) (D), ⟨(ready_iss (by decide +kernel)), by decide +kernel⟩⟩⟩⟩,
   ⟨⟨7, false, 16, 32, 48, 64, 0, false, false, false, 2, 0⟩, ⟨(th (fun t => { t with fpCtl := 0x1F })) ((reg 32 0x7F800001) (D)), ⟨iss (.fdot2 ⟨7, false, 16, 32, 48, 64, 0, false, false, false, 2, 0⟩) ((th (fun t => { t with fpCtl := 0x1F })) ((reg 32 0x7F800001) (D))), ⟨(ready_iss (by decide +kernel)), by decide +kernel⟩⟩⟩⟩,
   ⟨⟨7, false, 16, 32, 0, 0, 0, false, false, false, 4, 0⟩, ⟨D, ⟨iss (.bdq ⟨7, false, 16, 32, 0, 0, 0, false, false, false, 4, 0⟩) (D), ⟨(ready_iss (by decide +kernel)), by decide +kernel⟩⟩⟩⟩,
   ⟨⟨7, false, 16, 32, 0, 0, 0, false, false, false, 4, 0⟩, ⟨(th (fun t => { t with fpCtl := 0x1F })) ((reg 32 0xFE7E) (D)), ⟨iss (.bdq ⟨7, false, 16, 32, 0, 0, 0, false, false, false, 4, 0⟩) ((th (fun t => { t with fpCtl := 0x1F })) ((reg 32 0xFE7E) (D))), ⟨(ready_iss (by decide +kernel)), by decide +kernel⟩⟩⟩⟩⟩
theorem test_LaneCollectives_met :
    (∃ o, ∃ s : State, ∃ x : Iss, Ready (.shfl o) s x ∧ x.ex ≠ [] ∧ (s.weave x.g.core x.g.slot).colls = [] ∧ (∀ l ∈ x.ex, BitVec.ofNat 32 (x.b l) = maskOf x.ex) ∧ trapping (fun x l => { w := { d := some (if x.ex.contains (x.c l) then x.a (x.c l) else x.a l) }, ex := 0 }) { x with old := x.moved s } = []) ∧
    (∃ o, ∃ s : State, ∃ x : Iss, Ready (.shup o) s x ∧ x.ex ≠ [] ∧ (s.weave x.g.core x.g.slot).colls = [] ∧ (∀ l ∈ x.ex, BitVec.ofNat 32 (x.b l) = maskOf x.ex) ∧ trapping (fun x l => { w := { d := some (if x.uimm ≤ l ∧ x.ex.contains (l - x.uimm) then x.a (l - x.uimm) else x.a l) }, ex := 0 }) { x with old := x.moved s } = []) ∧
    (∃ o, ∃ s : State, ∃ x : Iss, Ready (.shdn o) s x ∧ x.ex ≠ [] ∧ (s.weave x.g.core x.g.slot).colls = [] ∧ (∀ l ∈ x.ex, BitVec.ofNat 32 (x.b l) = maskOf x.ex) ∧ trapping (fun x l => { w := { d := some (if x.ex.contains (l + x.uimm) then x.a (l + x.uimm) else x.a l) }, ex := 0 }) { x with old := x.moved s } = []) ∧
    (∃ o, ∃ s : State, ∃ x : Iss, Ready (.shxor o) s x ∧ x.ex ≠ [] ∧ (s.weave x.g.core x.g.slot).colls = [] ∧ (∀ l ∈ x.ex, BitVec.ofNat 32 (x.b l) = maskOf x.ex) ∧ trapping (fun x l => { w := { d := some (if x.ex.contains (l ^^^ x.uimm) then x.a (l ^^^ x.uimm) else x.a l) }, ex := 0 }) { x with old := x.moved s } = []) ∧
    (∃ o, ∃ s : State, ∃ x : Iss, Ready (.vote o) s x ∧ x.ex ≠ [] ∧ (s.weave x.g.core x.g.slot).colls = [] ∧ (∀ l ∈ x.ex, BitVec.ofNat 32 (x.b l) = maskOf x.ex) ∧ trapping (fun x _ => { w := { p := some (match x.f.c.toNat % 4 with | 0 => x.ex.all (fun l => x.predOf x.f.a l) | 1 => x.ex.any (fun l => x.predOf x.f.a l) | _ => x.ex.all (fun l => x.predOf x.f.a l) || x.ex.all (fun l => !x.predOf x.f.a l)) }, ex := 0 }) { x with old := x.moved s } = []) ∧
    (∃ o, ∃ s : State, ∃ x : Iss, Ready (.ballot o) s x ∧ x.ex ≠ [] ∧ (s.weave x.g.core x.g.slot).colls = [] ∧ (∀ l ∈ x.ex, BitVec.ofNat 32 (x.b l) = maskOf x.ex) ∧ trapping (fun x _ => { w := { d := some (maskOf (x.ex.filter (fun l => x.predOf x.f.a l))).toNat }, ex := 0 }) { x with old := x.moved s } = []) ∧
    (∃ o, ∃ s : State, ∃ x : Iss, Ready (.scan o) s x ∧ x.ex ≠ [] ∧ (s.weave x.g.core x.g.slot).colls = [] ∧ (∀ l ∈ x.ex, BitVec.ofNat 32 (x.b l) = maskOf x.ex) ∧ trapping (fun x l => let before := x.ex.filter (fun k => if x.f.c.getLsbD 3 then decide (k < l) else decide (k ≤ l)); { w := { d := some (before.foldl (fun v k => scanStep (x.f.c.toNat % 8) x.f.ty x.sat v (x.a k)) (scanId (x.f.c.toNat % 8) x.f.ty)) }, ex := 0 }) { x with old := x.moved s } = []) :=
  ⟨⟨⟨7, false, 16, 32, 48, 64, 0, false, false, false, 4, 0⟩, ⟨(reg 48 1) (D), ⟨iss (.shfl ⟨7, false, 16, 32, 48, 64, 0, false, false, false, 4, 0⟩) ((reg 48 1) (D)), ⟨(ready_iss (by decide +kernel)), by decide +kernel⟩⟩⟩⟩,
   ⟨⟨7, false, 16, 32, 48, 5, false, false, 4, 0⟩, ⟨(reg 48 1) (D), ⟨iss (.shup ⟨7, false, 16, 32, 48, 5, false, false, 4, 0⟩) ((reg 48 1) (D)), ⟨(ready_iss (by decide +kernel)), by decide +kernel⟩⟩⟩⟩,
   ⟨⟨7, false, 16, 32, 48, 5, false, false, 4, 0⟩, ⟨(reg 48 1) (D), ⟨iss (.shdn ⟨7, false, 16, 32, 48, 5, false, false, 4, 0⟩) ((reg 48 1) (D)), ⟨(ready_iss (by decide +kernel)), by decide +kernel⟩⟩⟩⟩,
   ⟨⟨7, false, 16, 32, 48, 5, false, false, 4, 0⟩, ⟨(reg 48 1) (D), ⟨iss (.shxor ⟨7, false, 16, 32, 48, 5, false, false, 4, 0⟩) ((reg 48 1) (D)), ⟨(ready_iss (by decide +kernel)), by decide +kernel⟩⟩⟩⟩,
   ⟨⟨7, false, 0, 0, 48, 0, 0, false, false, false, 0, 0⟩, ⟨(reg 48 1) (D), ⟨iss (.vote ⟨7, false, 0, 0, 48, 0, 0, false, false, false, 0, 0⟩) ((reg 48 1) (D)), ⟨(ready_iss (by decide +kernel)), by decide +kernel⟩⟩⟩⟩,
   ⟨⟨7, false, 16, 0, 48, 0, 0, false, false, false, 0, 0⟩, ⟨(reg 48 1) (D), ⟨iss (.ballot ⟨7, false, 16, 0, 48, 0, 0, false, false, false, 0, 0⟩) ((reg 48 1) (D)), ⟨(ready_iss (by decide +kernel)), by decide +kernel⟩⟩⟩⟩,
   ⟨⟨7, false, 16, 32, 48, 0, 0, false, false, false, 0, 0⟩, ⟨(reg 48 1) (D), ⟨iss (.scan ⟨7, false, 16, 32, 48, 0, 0, false, false, false, 0, 0⟩) ((reg 48 1) (D)), ⟨(ready_iss (by decide +kernel)), by decide +kernel⟩⟩⟩⟩⟩
theorem test_BlockQuantisationAndReduction_met :
    (∃ o, ∃ s : State, ∃ x : Iss, Ready (.bqnt o) s x ∧ x.ex ≠ [] ∧ (s.weave x.g.core x.g.slot).colls = [] ∧ (∀ l ∈ x.ex, BitVec.ofNat 32 (x.b l) = maskOf x.ex) ∧ trapping (fun x l => if x.ex.any (fun k => (fVal 0 (x.a k)).isNaN || (fVal 0 (x.a k)).isInf) then { w := { d := some 0xFF00 }, ex := exIV } else let sc := blockScale x.f.ty (x.ex.map (fun k => fVal 0 (x.a k))); let e := blockElem x.f.ty (x.rnd l) sc (fVal 0 (x.a l)); { w := { d := some ((sc + 127).toNat * 2 ^ 8 + e.1) }, ex := e.2 }) { x with old := x.moved s } = []) ∧
    (∃ o, ∃ s : State, ∃ x : Iss, Ready (.fredAdd o) s x ∧ x.ex ≠ [] ∧ (s.weave x.g.core x.g.slot).colls = [] ∧ (∀ l ∈ x.ex, BitVec.ofNat 32 (x.b l) = maskOf x.ex) ∧ trapping (fun x l => ((fredVals (fun x a b => fAddV x.rdn a b) x).lookup l).getD { w := {}, ex := 0 }) { x with old := x.moved s } = []) ∧
    (∃ o, ∃ s : State, ∃ x : Iss, Ready (.fredMin o) s x ∧ x.ex ≠ [] ∧ (s.weave x.g.core x.g.slot).colls = [] ∧ (∀ l ∈ x.ex, BitVec.ofNat 32 (x.b l) = maskOf x.ex) ∧ trapping (fun x l => ((fredVals (fun _ a b => (fPick false a b).res) x).lookup l).getD { w := {}, ex := 0 }) { x with old := x.moved s } = []) ∧
    (∃ o, ∃ s : State, ∃ x : Iss, Ready (.fredMax o) s x ∧ x.ex ≠ [] ∧ (s.weave x.g.core x.g.slot).colls = [] ∧ (∀ l ∈ x.ex, BitVec.ofNat 32 (x.b l) = maskOf x.ex) ∧ trapping (fun x l => ((fredVals (fun _ a b => (fPick true a b).res) x).lookup l).getD { w := {}, ex := 0 }) { x with old := x.moved s } = []) :=
  ⟨⟨⟨7, false, 16, 32, 48, 0, 0, false, false, false, 4, 0⟩, ⟨(reg 48 1) (D), ⟨iss (.bqnt ⟨7, false, 16, 32, 48, 0, 0, false, false, false, 4, 0⟩) ((reg 48 1) (D)), ⟨(ready_iss (by decide +kernel)), by decide +kernel⟩⟩⟩⟩,
   ⟨⟨7, false, 16, 32, 48, 0, 0, false, false, false, 0, 0⟩, ⟨(reg 48 1) (D), ⟨iss (.fredAdd ⟨7, false, 16, 32, 48, 0, 0, false, false, false, 0, 0⟩) ((reg 48 1) (D)), ⟨(ready_iss (by decide +kernel)), by decide +kernel⟩⟩⟩⟩,
   ⟨⟨7, false, 16, 32, 48, 0, 0, false, false, false, 0, 0⟩, ⟨(reg 48 1) (D), ⟨iss (.fredMin ⟨7, false, 16, 32, 48, 0, 0, false, false, false, 0, 0⟩) ((reg 48 1) (D)), ⟨(ready_iss (by decide +kernel)), by decide +kernel⟩⟩⟩⟩,
   ⟨⟨7, false, 16, 32, 48, 0, 0, false, false, false, 0, 0⟩, ⟨(reg 48 1) (D), ⟨iss (.fredMax ⟨7, false, 16, 32, 48, 0, 0, false, false, false, 0, 0⟩) ((reg 48 1) (D)), ⟨(ready_iss (by decide +kernel)), by decide +kernel⟩⟩⟩⟩⟩
theorem test_LoadsPostTheirResults_met :
    (∃ o, ∃ s : State, ∃ x : Iss, Ready (.ld o) s x ∧ x.g.spec = false ∧ ∃ u qs, x.access (x.moved s) (MemKind.acc { dev := true } x false) (MemKind.ea { dev := true } x) = .go u qs ∧ qs.map (·.l) = x.ex ∧ qs ≠ []) ∧
    (∃ o, ∃ s : State, ∃ x : Iss, Ready (.lds o) s x ∧ x.g.spec = false ∧ ∃ u qs, x.access (x.moved s) (MemKind.acc { signed := true } x false) (MemKind.ea { signed := true } x) = .go u qs ∧ qs.map (·.l) = x.ex ∧ qs ≠ []) ∧
    (∃ o, ∃ s : State, ∃ x : Iss, Ready (.ldx o) s x ∧ x.g.spec = false ∧ ∃ u qs, x.access (x.moved s) (MemKind.acc { indexed := true, dev := true } x false) (MemKind.ea { indexed := true, dev := true } x) = .go u qs ∧ qs.map (·.l) = x.ex ∧ qs ≠ []) ∧
    (∃ o, ∃ s : State, ∃ x : Iss, Ready (.ldxs o) s x ∧ x.g.spec = false ∧ ∃ u qs, x.access (x.moved s) (MemKind.acc { indexed := true, signed := true } x false) (MemKind.ea { indexed := true, signed := true } x) = .go u qs ∧ qs.map (·.l) = x.ex ∧ qs ≠ []) ∧
    (∃ o, ∃ s : State, ∃ x : Iss, Ready (.ldnt o) s x ∧ x.g.spec = false ∧ ∃ u qs, x.access (x.moved s) (MemKind.acc { nt := true } x false) (MemKind.ea { nt := true } x) = .go u qs ∧ qs.map (·.l) = x.ex ∧ qs ≠ []) ∧
    (∃ o, ∃ s : State, ∃ x : Iss, Ready (.ldxnt o) s x ∧ x.g.spec = false ∧ ∃ u qs, x.access (x.moved s) (MemKind.acc { indexed := true, nt := true } x false) (MemKind.ea { indexed := true, nt := true } x) = .go u qs ∧ qs.map (·.l) = x.ex ∧ qs ≠ []) ∧
    (∃ o, ∃ s : State, ∃ x : Iss, Ready (.ldm o) s x ∧ x.g.spec = false ∧ ∃ u qs, x.access (x.moved s) (MemKind.acc { multi := true } x false) (MemKind.ea { multi := true } x) = .go u qs ∧ qs.map (·.l) = x.ex ∧ qs ≠ []) :=
  ⟨⟨⟨7, false, 16, 32, 0, 0, 0, false, false, false, 0, 0⟩, ⟨D, ⟨iss (.ld ⟨7, false, 16, 32, 0, 0, 0, false, false, false, 0, 0⟩) (D), ⟨(ready_iss (by decide +kernel)), ⟨by decide +kernel, ex_go (by decide +kernel) (by decide +kernel)⟩⟩⟩⟩⟩,
   ⟨⟨7, false, 16, 32, 0, 0, 0, false, false, false, 0, 0⟩, ⟨D, ⟨iss (.lds ⟨7, false, 16, 32, 0, 0, 0, false, false, false, 0, 0⟩) (D), ⟨(ready_iss (by decide +kernel)), ⟨by decide +kernel, ex_go (by decide +kernel) (by decide +kernel)⟩⟩⟩⟩⟩,
   ⟨⟨7, false, 16, 32, 48, 0, 0, false, false, false, 0, 0⟩, ⟨D, ⟨iss (.ldx ⟨7, false, 16, 32, 48, 0, 0, false, false, false, 0, 0⟩) (D), ⟨(ready_iss (by decide +kernel)), ⟨by decide +kernel, ex_go (by decide +kernel) (by decide +kernel)⟩⟩⟩⟩⟩,
   ⟨⟨7, false, 16, 32, 48, 0, 0, false, false, false, 0, 0⟩, ⟨D, ⟨iss (.ldxs ⟨7, false, 16, 32, 48, 0, 0, false, false, false, 0, 0⟩) (D), ⟨(ready_iss (by decide +kernel)), ⟨by decide +kernel, ex_go (by decide +kernel) (by decide +kernel)⟩⟩⟩⟩⟩,
   ⟨⟨7, false, 16, 32, 0, 0, 0, false, false, false, 0, 0⟩, ⟨D, ⟨iss (.ldnt ⟨7, false, 16, 32, 0, 0, 0, false, false, false, 0, 0⟩) (D), ⟨(ready_iss (by decide +kernel)), ⟨by decide +kernel, ex_go (by decide +kernel) (by decide +kernel)⟩⟩⟩⟩⟩,
   ⟨⟨7, false, 16, 32, 48, 0, 0, false, false, false, 0, 0⟩, ⟨D, ⟨iss (.ldxnt ⟨7, false, 16, 32, 48, 0, 0, false, false, false, 0, 0⟩) (D), ⟨(ready_iss (by decide +kernel)), ⟨by decide +kernel, ex_go (by decide +kernel) (by decide +kernel)⟩⟩⟩⟩⟩,
   ⟨⟨7, false, 16, 32, 0, 0, 0, false, false, false, 2, 0⟩, ⟨D, ⟨iss (.ldm ⟨7, false, 16, 32, 0, 0, 0, false, false, false, 2, 0⟩) (D), ⟨(ready_iss (by decide +kernel)), ⟨by decide +kernel, ex_go (by decide +kernel) (by decide +kernel)⟩⟩⟩⟩⟩⟩
theorem test_NonFaultingLoad_met :
    (∃ o, ∃ s : State, ∃ x : Iss, Ready (.ldnf o) s x ∧ (fun x s => ∃ u qs, x.nfGoes s u qs) x (x.moved s)) ∧
    (∃ o, ∃ s : State, ∃ x : Iss, Ready (.ldnf o) s x ∧ ∃ u : State, ∃ qs : List Lane, x.nfGoes (x.moved s) u qs) :=
  ⟨⟨⟨7, false, 16, 32, 0, 0, 0, false, false, false, 2, 0⟩, ⟨(reg 32 0x80000) (D), ⟨iss (.ldnf ⟨7, false, 16, 32, 0, 0, 0, false, false, false, 2, 0⟩) ((reg 32 0x80000) (D)), ⟨(ready_iss (by decide +kernel)), ⟨_, _, nf_goes (by decide +kernel) (by decide +kernel) (by decide +kernel) (by decide +kernel) (by decide +kernel)⟩⟩⟩⟩⟩,
   ⟨⟨7, false, 16, 32, 0, 0, 0, false, false, false, 2, 0⟩, ⟨(reg 32 0x80000) (D), ⟨iss (.ldnf ⟨7, false, 16, 32, 0, 0, 0, false, false, false, 2, 0⟩) ((reg 32 0x80000) (D)), ⟨(ready_iss (by decide +kernel)), ⟨_, ⟨_, (nf_goes (by decide +kernel) (by decide +kernel) (by decide +kernel) (by decide +kernel) (by decide +kernel))⟩⟩⟩⟩⟩⟩⟩
theorem test_StoresEnterTheQueue_met :
    (∃ o, ∃ s : State, ∃ x : Iss, Ready (.st o) s x ∧ (fun x s => x.storeGoes { dev := true } (allBytes x) s) x (x.moved s)) ∧
    (∃ o, ∃ s : State, ∃ x : Iss, Ready (.stx o) s x ∧ (fun x s => x.storeGoes { indexed := true, dev := true } (allBytes x) s) x (x.moved s)) ∧
    (∃ o, ∃ s : State, ∃ x : Iss, Ready (.stnt o) s x ∧ (fun x s => x.storeGoes { nt := true } (allBytes x) s) x (x.moved s)) ∧
    (∃ o, ∃ s : State, ∃ x : Iss, Ready (.stxnt o) s x ∧ (fun x s => x.storeGoes { indexed := true, nt := true } (allBytes x) s) x (x.moved s)) ∧
    (∃ o, ∃ s : State, ∃ x : Iss, Ready (.stm o) s x ∧ (fun x s => x.storeGoes { multi := true } (allBytes x) s) x (x.moved s)) ∧
    (∃ o, ∃ s : State, ∃ x : Iss, Ready (.stbe o) s x ∧ (fun x s => x.storeGoes {} (fun l k => (x.b l).testBit k) s) x (x.moved s)) ∧
    (∃ o, ∃ s : State, ∃ x : Iss, Ready (.st o) s x ∧ x.g.spec = false ∧ ∃ u qs, x.access (x.moved s) (MemKind.acc { dev := true } x true) (MemKind.ea { dev := true } x) = .go u qs ∧ qs.map (·.l) = x.ex ∧ qs ≠ [] ∧ (s.weave x.g.core x.g.slot).queued.length + (storeEntries x.g.slot (s.weave x.g.core x.g.slot).team (x.f.mod.getLsbD 3) (MemKind.size { dev := true } x) s.tick (qs.map (x.storedBy { dev := true } (allBytes x)))).length ≤ Config.storeQueue) ∧
    (∃ o, ∃ s : State, ∃ x : Iss, Ready (.stx o) s x ∧ x.g.spec = false ∧ ∃ u qs, x.access (x.moved s) (MemKind.acc { indexed := true, dev := true } x true) (MemKind.ea { indexed := true, dev := true } x) = .go u qs ∧ qs.map (·.l) = x.ex ∧ qs ≠ [] ∧ (s.weave x.g.core x.g.slot).queued.length + (storeEntries x.g.slot (s.weave x.g.core x.g.slot).team (x.f.mod.getLsbD 3) (MemKind.size { indexed := true, dev := true } x) s.tick (qs.map (x.storedBy { indexed := true, dev := true } (allBytes x)))).length ≤ Config.storeQueue) ∧
    (∃ o, ∃ s : State, ∃ x : Iss, Ready (.stnt o) s x ∧ x.g.spec = false ∧ ∃ u qs, x.access (x.moved s) (MemKind.acc { nt := true } x true) (MemKind.ea { nt := true } x) = .go u qs ∧ qs.map (·.l) = x.ex ∧ qs ≠ [] ∧ (s.weave x.g.core x.g.slot).queued.length + (storeEntries x.g.slot (s.weave x.g.core x.g.slot).team (x.f.mod.getLsbD 3) (MemKind.size { nt := true } x) s.tick (qs.map (x.storedBy { nt := true } (allBytes x)))).length ≤ Config.storeQueue) ∧
    (∃ o, ∃ s : State, ∃ x : Iss, Ready (.stxnt o) s x ∧ x.g.spec = false ∧ ∃ u qs, x.access (x.moved s) (MemKind.acc { indexed := true, nt := true } x true) (MemKind.ea { indexed := true, nt := true } x) = .go u qs ∧ qs.map (·.l) = x.ex ∧ qs ≠ [] ∧ (s.weave x.g.core x.g.slot).queued.length + (storeEntries x.g.slot (s.weave x.g.core x.g.slot).team (x.f.mod.getLsbD 3) (MemKind.size { indexed := true, nt := true } x) s.tick (qs.map (x.storedBy { indexed := true, nt := true } (allBytes x)))).length ≤ Config.storeQueue) ∧
    (∃ o, ∃ s : State, ∃ x : Iss, Ready (.stm o) s x ∧ x.g.spec = false ∧ ∃ u qs, x.access (x.moved s) (MemKind.acc { multi := true } x true) (MemKind.ea { multi := true } x) = .go u qs ∧ qs.map (·.l) = x.ex ∧ qs ≠ [] ∧ (s.weave x.g.core x.g.slot).queued.length + (storeEntries x.g.slot (s.weave x.g.core x.g.slot).team (x.f.mod.getLsbD 3) (MemKind.size { multi := true } x) s.tick (qs.map (x.storedBy { multi := true } (allBytes x)))).length ≤ Config.storeQueue) ∧
    (∃ o, ∃ s : State, ∃ x : Iss, Ready (.stbe o) s x ∧ x.g.spec = false ∧ ∃ u qs, x.access (x.moved s) (MemKind.acc {} x true) (MemKind.ea {} x) = .go u qs ∧ qs.map (·.l) = x.ex ∧ qs ≠ [] ∧ (s.weave x.g.core x.g.slot).queued.length + (storeEntries x.g.slot (s.weave x.g.core x.g.slot).team (x.f.mod.getLsbD 3) (MemKind.size {} x) s.tick (qs.map (x.storedBy {} ((fun x l k => (x.b l).testBit k) x)))).length ≤ Config.storeQueue) :=
  ⟨⟨⟨7, false, 16, 32, 0, 0, 0, false, false, false, 0, 0⟩, ⟨(reg 32 0x80000) (D), ⟨iss (.st ⟨7, false, 16, 32, 0, 0, 0, false, false, false, 0, 0⟩) ((reg 32 0x80000) (D)), ⟨(ready_iss (by decide +kernel)), ⟨by decide +kernel, ex_go (by decide +kernel) (by decide +kernel)⟩⟩⟩⟩⟩,
   ⟨⟨7, false, 16, 32, 48, 0, 0, false, false, false, 0, 0⟩, ⟨(reg 32 0x80000) (D), ⟨iss (.stx ⟨7, false, 16, 32, 48, 0, 0, false, false, false, 0, 0⟩) ((reg 32 0x80000) (D)), ⟨(ready_iss (by decide +kernel)), ⟨by decide +kernel, ex_go (by decide +kernel) (by decide +kernel)⟩⟩⟩⟩⟩,
   ⟨⟨7, false, 16, 32, 0, 0, 0, false, false, false, 0, 0⟩, ⟨(reg 32 0x80000) (D), ⟨iss (.stnt ⟨7, false, 16, 32, 0, 0, 0, false, false, false, 0, 0⟩) ((reg 32 0x80000) (D)), ⟨(ready_iss (by decide +kernel)), ⟨by decide +kernel, ex_go (by decide +kernel) (by decide +kernel)⟩⟩⟩⟩⟩,
   ⟨⟨7, false, 16, 32, 48, 0, 0, false, false, false, 0, 0⟩, ⟨(reg 32 0x80000) (D), ⟨iss (.stxnt ⟨7, false, 16, 32, 48, 0, 0, false, false, false, 0, 0⟩) ((reg 32 0x80000) (D)), ⟨(ready_iss (by decide +kernel)), ⟨by decide +kernel, ex_go (by decide +kernel) (by decide +kernel)⟩⟩⟩⟩⟩,
   ⟨⟨7, false, 16, 32, 0, 0, 0, false, false, false, 2, 0⟩, ⟨(reg 32 0x80000) (D), ⟨iss (.stm ⟨7, false, 16, 32, 0, 0, 0, false, false, false, 2, 0⟩) ((reg 32 0x80000) (D)), ⟨(ready_iss (by decide +kernel)), ⟨by decide +kernel, ex_go (by decide +kernel) (by decide +kernel)⟩⟩⟩⟩⟩,
   ⟨⟨7, false, 16, 32, 48, 0, 0, false, false, false, 2, 0⟩, ⟨(reg 32 0x80000) (D), ⟨iss (.stbe ⟨7, false, 16, 32, 48, 0, 0, false, false, false, 2, 0⟩) ((reg 32 0x80000) (D)), ⟨(ready_iss (by decide +kernel)), ⟨by decide +kernel, ex_go (by decide +kernel) (by decide +kernel)⟩⟩⟩⟩⟩,
   ⟨⟨7, false, 16, 32, 0, 0, 0, false, false, false, 0, 0⟩, ⟨(reg 32 0x80000) (D), ⟨iss (.st ⟨7, false, 16, 32, 0, 0, 0, false, false, false, 0, 0⟩) ((reg 32 0x80000) (D)), ⟨(ready_iss (by decide +kernel)), ⟨by decide +kernel, ex_go (by decide +kernel) (by decide +kernel)⟩⟩⟩⟩⟩,
   ⟨⟨7, false, 16, 32, 48, 0, 0, false, false, false, 0, 0⟩, ⟨(reg 32 0x80000) (D), ⟨iss (.stx ⟨7, false, 16, 32, 48, 0, 0, false, false, false, 0, 0⟩) ((reg 32 0x80000) (D)), ⟨(ready_iss (by decide +kernel)), ⟨by decide +kernel, ex_go (by decide +kernel) (by decide +kernel)⟩⟩⟩⟩⟩,
   ⟨⟨7, false, 16, 32, 0, 0, 0, false, false, false, 0, 0⟩, ⟨(reg 32 0x80000) (D), ⟨iss (.stnt ⟨7, false, 16, 32, 0, 0, 0, false, false, false, 0, 0⟩) ((reg 32 0x80000) (D)), ⟨(ready_iss (by decide +kernel)), ⟨by decide +kernel, ex_go (by decide +kernel) (by decide +kernel)⟩⟩⟩⟩⟩,
   ⟨⟨7, false, 16, 32, 48, 0, 0, false, false, false, 0, 0⟩, ⟨(reg 32 0x80000) (D), ⟨iss (.stxnt ⟨7, false, 16, 32, 48, 0, 0, false, false, false, 0, 0⟩) ((reg 32 0x80000) (D)), ⟨(ready_iss (by decide +kernel)), ⟨by decide +kernel, ex_go (by decide +kernel) (by decide +kernel)⟩⟩⟩⟩⟩,
   ⟨⟨7, false, 16, 32, 0, 0, 0, false, false, false, 2, 0⟩, ⟨(reg 32 0x80000) (D), ⟨iss (.stm ⟨7, false, 16, 32, 0, 0, 0, false, false, false, 2, 0⟩) ((reg 32 0x80000) (D)), ⟨(ready_iss (by decide +kernel)), ⟨by decide +kernel, ex_go (by decide +kernel) (by decide +kernel)⟩⟩⟩⟩⟩,
   ⟨⟨7, false, 16, 32, 48, 0, 0, false, false, false, 2, 0⟩, ⟨(reg 32 0x80000) (D), ⟨iss (.stbe ⟨7, false, 16, 32, 48, 0, 0, false, false, false, 2, 0⟩) ((reg 32 0x80000) (D)), ⟨(ready_iss (by decide +kernel)), ⟨by decide +kernel, ex_go (by decide +kernel) (by decide +kernel)⟩⟩⟩⟩⟩⟩
theorem test_StoresReachMemory_met :
    (∃ core : Nat, ∃ slot : Nat, ∃ s : State, ∃ e, ∃ r, (s.weave core slot).storeq = e :: r) ∧
    (∃ core : Nat, ∃ idx : Nat, ∃ s : State, ∃ e, (s.core core).pending[idx]? = some e ∧ s.lcache = [] ∧ (∀ b ∈ e.bytes, ∃ pa, b.loc = .mem pa ∧ regsAddr pa = false ∧ s.isLocal pa = true ∧ s.heldByOthers core (pa / 128) = false) ∧ s.entryReady core idx e = true) :=
  ⟨⟨0, ⟨0, ⟨(wv (fun w => { w with storeq := [{ slot := 0, bytes := [⟨.mem 0x100000, 1, 0⟩] }] })) (D), ⟨{ slot := 0, bytes := [⟨.mem 0x100000, 1, 0⟩] }, ⟨[], by decide +kernel⟩⟩⟩⟩⟩,
   ⟨0, ⟨0, ⟨(cr (fun k => { k with pending := [{ slot := 0, bytes := [⟨.mem 0x100000, 1, 0⟩] }] })) (D), ⟨{ slot := 0, bytes := [⟨.mem 0x100000, 1, 0⟩] }, ⟨by decide +kernel, ⟨by decide +kernel, ⟨((fun b hb => by have h := List.mem_singleton.mp hb; subst h; exact ⟨_, rfl, by decide +kernel⟩)), by decide +kernel⟩⟩⟩⟩⟩⟩⟩⟩
theorem test_Prefetches_met :
    (∃ o, ∃ s : State, ∃ x : Iss, Ready (.thpf o) s x) ∧
    (∃ o, ∃ s : State, ∃ x : Iss, Ready (.specwait o) s x) ∧
    (∃ o, ∃ s : State, ∃ x : Iss, Ready (.pf o) s x) ∧
    (∃ o, ∃ s : State, ∃ x : Iss, Ready (.pfx o) s x) :=
  ⟨⟨⟨7, false, 0, 32, 0, 0, 0, false, false, false, 0, 0⟩, ⟨D, ⟨iss (.thpf ⟨7, false, 0, 32, 0, 0, 0, false, false, false, 0, 0⟩) (D), ready_iss (by decide +kernel)⟩⟩⟩,
   ⟨⟨7, false, 0, 0, 0, 0, 0, false, false, false, 0, 0⟩, ⟨D, ⟨iss (.specwait ⟨7, false, 0, 0, 0, 0, 0, false, false, false, 0, 0⟩) (D), ready_iss (by decide +kernel)⟩⟩⟩,
   ⟨⟨7, false, 0, 32, 0, 0, 0, false, false, false, 0, 0⟩, ⟨D, ⟨iss (.pf ⟨7, false, 0, 32, 0, 0, 0, false, false, false, 0, 0⟩) (D), ready_iss (by decide +kernel)⟩⟩⟩,
   ⟨⟨7, false, 0, 32, 48, 0, 0, false, false, false, 0, 0⟩, ⟨D, ⟨iss (.pfx ⟨7, false, 0, 32, 48, 0, 0, false, false, false, 0, 0⟩) (D), ready_iss (by decide +kernel)⟩⟩⟩⟩
theorem test_IntegerAtomics_met :
    (∃ o, ∃ s : State, ∃ x : Iss, Ready (.cas o) s x ∧ x.ex ≠ [] ∧ ∃ u qs, x.access (x.moved s) { rd := true, wr := true, align := (syncBits o.ty / 8), size := (syncBits o.ty / 8), atomic := true } (eaDisp x) = .go u qs ∧ qs.map (·.l) = x.ex) ∧
    (∃ s : State, ∃ core : Nat, ∃ idx : Nat, ∃ a : Atom, (s.core core).atoms[idx]? = some a ∧ ∃ o, a.instr = (.cas o) ∧ ∃ q : AtomLane, a.lanes = [q] ∧ ∃ pa : Nat, q.loc = .mem pa ∧ s.isLocal pa = true ∧ (∀ j, j < (syncBits o.ty / 8) → s.isLocal (pa + j) = true) ∧ s.lcache = [] ∧ atomReady s core idx a = true) ∧
    (∃ o, ∃ s : State, ∃ x : Iss, Ready (.swap o) s x ∧ x.ex ≠ [] ∧ ∃ u qs, x.access (x.moved s) { rd := true, wr := true, align := (syncBits o.ty / 8), size := (syncBits o.ty / 8), atomic := true } (eaDisp x) = .go u qs ∧ qs.map (·.l) = x.ex) ∧
    (∃ s : State, ∃ core : Nat, ∃ idx : Nat, ∃ a : Atom, (s.core core).atoms[idx]? = some a ∧ ∃ o, a.instr = (.swap o) ∧ ∃ q : AtomLane, a.lanes = [q] ∧ ∃ pa : Nat, q.loc = .mem pa ∧ s.isLocal pa = true ∧ (∀ j, j < (syncBits o.ty / 8) → s.isLocal (pa + j) = true) ∧ s.lcache = [] ∧ atomReady s core idx a = true) ∧
    (∃ o, ∃ s : State, ∃ x : Iss, Ready (.aadd o) s x ∧ x.ex ≠ [] ∧ ∃ u qs, x.access (x.moved s) { rd := true, wr := true, align := (syncBits o.ty / 8), size := (syncBits o.ty / 8), atomic := true } (eaDisp x) = .go u qs ∧ qs.map (·.l) = x.ex) ∧
    (∃ s : State, ∃ core : Nat, ∃ idx : Nat, ∃ a : Atom, (s.core core).atoms[idx]? = some a ∧ ∃ o, a.instr = (.aadd o) ∧ ∃ q : AtomLane, a.lanes = [q] ∧ ∃ pa : Nat, q.loc = .mem pa ∧ s.isLocal pa = true ∧ (∀ j, j < (syncBits o.ty / 8) → s.isLocal (pa + j) = true) ∧ s.lcache = [] ∧ atomReady s core idx a = true) ∧
    (∃ o, ∃ s : State, ∃ x : Iss, Ready (.amin o) s x ∧ x.ex ≠ [] ∧ ∃ u qs, x.access (x.moved s) { rd := true, wr := true, align := (syncBits o.ty / 8), size := (syncBits o.ty / 8), atomic := true } (eaDisp x) = .go u qs ∧ qs.map (·.l) = x.ex) ∧
    (∃ s : State, ∃ core : Nat, ∃ idx : Nat, ∃ a : Atom, (s.core core).atoms[idx]? = some a ∧ ∃ o, a.instr = (.amin o) ∧ ∃ q : AtomLane, a.lanes = [q] ∧ ∃ pa : Nat, q.loc = .mem pa ∧ s.isLocal pa = true ∧ (∀ j, j < (syncBits o.ty / 8) → s.isLocal (pa + j) = true) ∧ s.lcache = [] ∧ atomReady s core idx a = true) ∧
    (∃ o, ∃ s : State, ∃ x : Iss, Ready (.amax o) s x ∧ x.ex ≠ [] ∧ ∃ u qs, x.access (x.moved s) { rd := true, wr := true, align := (syncBits o.ty / 8), size := (syncBits o.ty / 8), atomic := true } (eaDisp x) = .go u qs ∧ qs.map (·.l) = x.ex) ∧
    (∃ s : State, ∃ core : Nat, ∃ idx : Nat, ∃ a : Atom, (s.core core).atoms[idx]? = some a ∧ ∃ o, a.instr = (.amax o) ∧ ∃ q : AtomLane, a.lanes = [q] ∧ ∃ pa : Nat, q.loc = .mem pa ∧ s.isLocal pa = true ∧ (∀ j, j < (syncBits o.ty / 8) → s.isLocal (pa + j) = true) ∧ s.lcache = [] ∧ atomReady s core idx a = true) ∧
    (∃ o, ∃ s : State, ∃ x : Iss, Ready (.aand o) s x ∧ x.ex ≠ [] ∧ ∃ u qs, x.access (x.moved s) { rd := true, wr := true, align := (syncBits o.ty / 8), size := (syncBits o.ty / 8), atomic := true } (eaPair x) = .go u qs ∧ qs.map (·.l) = x.ex) ∧
    (∃ s : State, ∃ core : Nat, ∃ idx : Nat, ∃ a : Atom, (s.core core).atoms[idx]? = some a ∧ ∃ o, a.instr = (.aand o) ∧ ∃ q : AtomLane, a.lanes = [q] ∧ ∃ pa : Nat, q.loc = .mem pa ∧ s.isLocal pa = true ∧ (∀ j, j < (syncBits o.ty / 8) → s.isLocal (pa + j) = true) ∧ s.lcache = [] ∧ atomReady s core idx a = true) ∧
    (∃ o, ∃ s : State, ∃ x : Iss, Ready (.aor o) s x ∧ x.ex ≠ [] ∧ ∃ u qs, x.access (x.moved s) { rd := true, wr := true, align := (syncBits o.ty / 8), size := (syncBits o.ty / 8), atomic := true } (eaPair x) = .go u qs ∧ qs.map (·.l) = x.ex) ∧
    (∃ s : State, ∃ core : Nat, ∃ idx : Nat, ∃ a : Atom, (s.core core).atoms[idx]? = some a ∧ ∃ o, a.instr = (.aor o) ∧ ∃ q : AtomLane, a.lanes = [q] ∧ ∃ pa : Nat, q.loc = .mem pa ∧ s.isLocal pa = true ∧ (∀ j, j < (syncBits o.ty / 8) → s.isLocal (pa + j) = true) ∧ s.lcache = [] ∧ atomReady s core idx a = true) ∧
    (∃ o, ∃ s : State, ∃ x : Iss, Ready (.axor o) s x ∧ x.ex ≠ [] ∧ ∃ u qs, x.access (x.moved s) { rd := true, wr := true, align := (syncBits o.ty / 8), size := (syncBits o.ty / 8), atomic := true } (eaPair x) = .go u qs ∧ qs.map (·.l) = x.ex) ∧
    (∃ s : State, ∃ core : Nat, ∃ idx : Nat, ∃ a : Atom, (s.core core).atoms[idx]? = some a ∧ ∃ o, a.instr = (.axor o) ∧ ∃ q : AtomLane, a.lanes = [q] ∧ ∃ pa : Nat, q.loc = .mem pa ∧ s.isLocal pa = true ∧ (∀ j, j < (syncBits o.ty / 8) → s.isLocal (pa + j) = true) ∧ s.lcache = [] ∧ atomReady s core idx a = true) ∧
    (∃ o, ∃ s : State, ∃ x : Iss, Ready (.ainc o) s x ∧ x.ex ≠ [] ∧ ∃ u qs, x.access (x.moved s) { rd := true, wr := true, align := (syncBits o.ty / 8), size := (syncBits o.ty / 8), atomic := true } (eaPair x) = .go u qs ∧ qs.map (·.l) = x.ex) ∧
    (∃ s : State, ∃ core : Nat, ∃ idx : Nat, ∃ a : Atom, (s.core core).atoms[idx]? = some a ∧ ∃ o, a.instr = (.ainc o) ∧ ∃ q : AtomLane, a.lanes = [q] ∧ ∃ pa : Nat, q.loc = .mem pa ∧ s.isLocal pa = true ∧ (∀ j, j < (syncBits o.ty / 8) → s.isLocal (pa + j) = true) ∧ s.lcache = [] ∧ atomReady s core idx a = true) :=
  ⟨⟨⟨7, false, 16, 32, 48, 0, 0, false, false, false, 4, 0⟩, ⟨(reg 32 0x80000) (D), ⟨iss (.cas ⟨7, false, 16, 32, 48, 0, 0, false, false, false, 4, 0⟩) ((reg 32 0x80000) (D)), ⟨(ready_iss (by decide +kernel)), ⟨by decide +kernel, ex_go (by decide +kernel) (by decide +kernel)⟩⟩⟩⟩⟩,
   ⟨(cr (fun k => { k with atoms := [{ slot := 0, pc := 0x108, instr := .cas ⟨7, false, 16, 32, 48, 0, 0, false, false, false, 4, 0⟩, lanes := [{ lane := 0, loc := .mem 0x100000, va := 0x80000, sync := false, x := 0, y := 0 }] }] })) (D), ⟨0, ⟨0, ⟨{ slot := 0, pc := 0x108, instr := .cas ⟨7, false, 16, 32, 48, 0, 0, false, false, false, 4, 0⟩, lanes := [{ lane := 0, loc := .mem 0x100000, va := 0x80000, sync := false, x := 0, y := 0 }] }, ⟨by decide +kernel, ⟨⟨7, false, 16, 32, 48, 0, 0, false, false, false, 4, 0⟩, ⟨by decide +kernel, ⟨{ lane := 0, loc := .mem 0x100000, va := 0x80000, sync := false, x := 0, y := 0 }, ⟨by decide +kernel, ⟨0x100000, by decide +kernel⟩⟩⟩⟩⟩⟩⟩⟩⟩⟩,
   ⟨⟨7, false, 16, 32, 48, 0, 0, false, false, false, 4, 0⟩, ⟨(reg 32 0x80000) (D), ⟨iss (.swap ⟨7, false, 16, 32, 48, 0, 0, false, false, false, 4, 0⟩) ((reg 32 0x80000) (D)), ⟨(ready_iss (by decide +kernel)), ⟨by decide +kernel, ex_go (by decide +kernel) (by decide +kernel)⟩⟩⟩⟩⟩,
   ⟨(cr (fun k => { k with atoms := [{ slot := 0, pc := 0x108, instr := .swap ⟨7, false, 16, 32, 48, 0, 0, false, false, false, 4, 0⟩, lanes := [{ lane := 0, loc := .mem 0x100000, va := 0x80000, sync := false, x := 0, y := 0 }] }] })) (D), ⟨0, ⟨0, ⟨{ slot := 0, pc := 0x108, instr := .swap ⟨7, false, 16, 32, 48, 0, 0, false, false, false, 4, 0⟩, lanes := [{ lane := 0, loc := .mem 0x100000, va := 0x80000, sync := false, x := 0, y := 0 }] }, ⟨by decide +kernel, ⟨⟨7, false, 16, 32, 48, 0, 0, false, false, false, 4, 0⟩, ⟨by decide +kernel, ⟨{ lane := 0, loc := .mem 0x100000, va := 0x80000, sync := false, x := 0, y := 0 }, ⟨by decide +kernel, ⟨0x100000, by decide +kernel⟩⟩⟩⟩⟩⟩⟩⟩⟩⟩,
   ⟨⟨7, false, 16, 32, 48, 0, 0, false, false, false, 0, 0⟩, ⟨(reg 32 0x80000) (D), ⟨iss (.aadd ⟨7, false, 16, 32, 48, 0, 0, false, false, false, 0, 0⟩) ((reg 32 0x80000) (D)), ⟨(ready_iss (by decide +kernel)), ⟨by decide +kernel, ex_go (by decide +kernel) (by decide +kernel)⟩⟩⟩⟩⟩,
   ⟨(cr (fun k => { k with atoms := [{ slot := 0, pc := 0x108, instr := .aadd ⟨7, false, 16, 32, 48, 0, 0, false, false, false, 0, 0⟩, lanes := [{ lane := 0, loc := .mem 0x100000, va := 0x80000, sync := false, x := 0, y := 0 }] }] })) (D), ⟨0, ⟨0, ⟨{ slot := 0, pc := 0x108, instr := .aadd ⟨7, false, 16, 32, 48, 0, 0, false, false, false, 0, 0⟩, lanes := [{ lane := 0, loc := .mem 0x100000, va := 0x80000, sync := false, x := 0, y := 0 }] }, ⟨by decide +kernel, ⟨⟨7, false, 16, 32, 48, 0, 0, false, false, false, 0, 0⟩, ⟨by decide +kernel, ⟨{ lane := 0, loc := .mem 0x100000, va := 0x80000, sync := false, x := 0, y := 0 }, ⟨by decide +kernel, ⟨0x100000, by decide +kernel⟩⟩⟩⟩⟩⟩⟩⟩⟩⟩,
   ⟨⟨7, false, 16, 32, 48, 0, 0, false, false, false, 0, 0⟩, ⟨(reg 32 0x80000) (D), ⟨iss (.amin ⟨7, false, 16, 32, 48, 0, 0, false, false, false, 0, 0⟩) ((reg 32 0x80000) (D)), ⟨(ready_iss (by decide +kernel)), ⟨by decide +kernel, ex_go (by decide +kernel) (by decide +kernel)⟩⟩⟩⟩⟩,
   ⟨(cr (fun k => { k with atoms := [{ slot := 0, pc := 0x108, instr := .amin ⟨7, false, 16, 32, 48, 0, 0, false, false, false, 0, 0⟩, lanes := [{ lane := 0, loc := .mem 0x100000, va := 0x80000, sync := false, x := 0, y := 0 }] }] })) (D), ⟨0, ⟨0, ⟨{ slot := 0, pc := 0x108, instr := .amin ⟨7, false, 16, 32, 48, 0, 0, false, false, false, 0, 0⟩, lanes := [{ lane := 0, loc := .mem 0x100000, va := 0x80000, sync := false, x := 0, y := 0 }] }, ⟨by decide +kernel, ⟨⟨7, false, 16, 32, 48, 0, 0, false, false, false, 0, 0⟩, ⟨by decide +kernel, ⟨{ lane := 0, loc := .mem 0x100000, va := 0x80000, sync := false, x := 0, y := 0 }, ⟨by decide +kernel, ⟨0x100000, by decide +kernel⟩⟩⟩⟩⟩⟩⟩⟩⟩⟩,
   ⟨⟨7, false, 16, 32, 48, 0, 0, false, false, false, 0, 0⟩, ⟨(reg 32 0x80000) (D), ⟨iss (.amax ⟨7, false, 16, 32, 48, 0, 0, false, false, false, 0, 0⟩) ((reg 32 0x80000) (D)), ⟨(ready_iss (by decide +kernel)), ⟨by decide +kernel, ex_go (by decide +kernel) (by decide +kernel)⟩⟩⟩⟩⟩,
   ⟨(cr (fun k => { k with atoms := [{ slot := 0, pc := 0x108, instr := .amax ⟨7, false, 16, 32, 48, 0, 0, false, false, false, 0, 0⟩, lanes := [{ lane := 0, loc := .mem 0x100000, va := 0x80000, sync := false, x := 0, y := 0 }] }] })) (D), ⟨0, ⟨0, ⟨{ slot := 0, pc := 0x108, instr := .amax ⟨7, false, 16, 32, 48, 0, 0, false, false, false, 0, 0⟩, lanes := [{ lane := 0, loc := .mem 0x100000, va := 0x80000, sync := false, x := 0, y := 0 }] }, ⟨by decide +kernel, ⟨⟨7, false, 16, 32, 48, 0, 0, false, false, false, 0, 0⟩, ⟨by decide +kernel, ⟨{ lane := 0, loc := .mem 0x100000, va := 0x80000, sync := false, x := 0, y := 0 }, ⟨by decide +kernel, ⟨0x100000, by decide +kernel⟩⟩⟩⟩⟩⟩⟩⟩⟩⟩,
   ⟨⟨7, false, 16, 32, 48, 0, 0, false, false, false, 4, 0⟩, ⟨(reg 32 0x80000) (D), ⟨iss (.aand ⟨7, false, 16, 32, 48, 0, 0, false, false, false, 4, 0⟩) ((reg 32 0x80000) (D)), ⟨(ready_iss (by decide +kernel)), ⟨by decide +kernel, ex_go (by decide +kernel) (by decide +kernel)⟩⟩⟩⟩⟩,
   ⟨(cr (fun k => { k with atoms := [{ slot := 0, pc := 0x108, instr := .aand ⟨7, false, 16, 32, 48, 0, 0, false, false, false, 4, 0⟩, lanes := [{ lane := 0, loc := .mem 0x100000, va := 0x80000, sync := false, x := 0, y := 0 }] }] })) (D), ⟨0, ⟨0, ⟨{ slot := 0, pc := 0x108, instr := .aand ⟨7, false, 16, 32, 48, 0, 0, false, false, false, 4, 0⟩, lanes := [{ lane := 0, loc := .mem 0x100000, va := 0x80000, sync := false, x := 0, y := 0 }] }, ⟨by decide +kernel, ⟨⟨7, false, 16, 32, 48, 0, 0, false, false, false, 4, 0⟩, ⟨by decide +kernel, ⟨{ lane := 0, loc := .mem 0x100000, va := 0x80000, sync := false, x := 0, y := 0 }, ⟨by decide +kernel, ⟨0x100000, by decide +kernel⟩⟩⟩⟩⟩⟩⟩⟩⟩⟩,
   ⟨⟨7, false, 16, 32, 48, 0, 0, false, false, false, 4, 0⟩, ⟨(reg 32 0x80000) (D), ⟨iss (.aor ⟨7, false, 16, 32, 48, 0, 0, false, false, false, 4, 0⟩) ((reg 32 0x80000) (D)), ⟨(ready_iss (by decide +kernel)), ⟨by decide +kernel, ex_go (by decide +kernel) (by decide +kernel)⟩⟩⟩⟩⟩,
   ⟨(cr (fun k => { k with atoms := [{ slot := 0, pc := 0x108, instr := .aor ⟨7, false, 16, 32, 48, 0, 0, false, false, false, 4, 0⟩, lanes := [{ lane := 0, loc := .mem 0x100000, va := 0x80000, sync := false, x := 0, y := 0 }] }] })) (D), ⟨0, ⟨0, ⟨{ slot := 0, pc := 0x108, instr := .aor ⟨7, false, 16, 32, 48, 0, 0, false, false, false, 4, 0⟩, lanes := [{ lane := 0, loc := .mem 0x100000, va := 0x80000, sync := false, x := 0, y := 0 }] }, ⟨by decide +kernel, ⟨⟨7, false, 16, 32, 48, 0, 0, false, false, false, 4, 0⟩, ⟨by decide +kernel, ⟨{ lane := 0, loc := .mem 0x100000, va := 0x80000, sync := false, x := 0, y := 0 }, ⟨by decide +kernel, ⟨0x100000, by decide +kernel⟩⟩⟩⟩⟩⟩⟩⟩⟩⟩,
   ⟨⟨7, false, 16, 32, 48, 0, 0, false, false, false, 4, 0⟩, ⟨(reg 32 0x80000) (D), ⟨iss (.axor ⟨7, false, 16, 32, 48, 0, 0, false, false, false, 4, 0⟩) ((reg 32 0x80000) (D)), ⟨(ready_iss (by decide +kernel)), ⟨by decide +kernel, ex_go (by decide +kernel) (by decide +kernel)⟩⟩⟩⟩⟩,
   ⟨(cr (fun k => { k with atoms := [{ slot := 0, pc := 0x108, instr := .axor ⟨7, false, 16, 32, 48, 0, 0, false, false, false, 4, 0⟩, lanes := [{ lane := 0, loc := .mem 0x100000, va := 0x80000, sync := false, x := 0, y := 0 }] }] })) (D), ⟨0, ⟨0, ⟨{ slot := 0, pc := 0x108, instr := .axor ⟨7, false, 16, 32, 48, 0, 0, false, false, false, 4, 0⟩, lanes := [{ lane := 0, loc := .mem 0x100000, va := 0x80000, sync := false, x := 0, y := 0 }] }, ⟨by decide +kernel, ⟨⟨7, false, 16, 32, 48, 0, 0, false, false, false, 4, 0⟩, ⟨by decide +kernel, ⟨{ lane := 0, loc := .mem 0x100000, va := 0x80000, sync := false, x := 0, y := 0 }, ⟨by decide +kernel, ⟨0x100000, by decide +kernel⟩⟩⟩⟩⟩⟩⟩⟩⟩⟩,
   ⟨⟨7, false, 16, 32, 48, 0, 0, false, false, false, 3, 0⟩, ⟨(reg 32 0x80000) (D), ⟨iss (.ainc ⟨7, false, 16, 32, 48, 0, 0, false, false, false, 3, 0⟩) ((reg 32 0x80000) (D)), ⟨(ready_iss (by decide +kernel)), ⟨by decide +kernel, ex_go (by decide +kernel) (by decide +kernel)⟩⟩⟩⟩⟩,
   ⟨(cr (fun k => { k with atoms := [{ slot := 0, pc := 0x108, instr := .ainc ⟨7, false, 16, 32, 48, 0, 0, false, false, false, 3, 0⟩, lanes := [{ lane := 0, loc := .mem 0x100000, va := 0x80000, sync := false, x := 0, y := 0 }] }] })) (D), ⟨0, ⟨0, ⟨{ slot := 0, pc := 0x108, instr := .ainc ⟨7, false, 16, 32, 48, 0, 0, false, false, false, 3, 0⟩, lanes := [{ lane := 0, loc := .mem 0x100000, va := 0x80000, sync := false, x := 0, y := 0 }] }, ⟨by decide +kernel, ⟨⟨7, false, 16, 32, 48, 0, 0, false, false, false, 3, 0⟩, ⟨by decide +kernel, ⟨{ lane := 0, loc := .mem 0x100000, va := 0x80000, sync := false, x := 0, y := 0 }, ⟨by decide +kernel, ⟨0x100000, by decide +kernel⟩⟩⟩⟩⟩⟩⟩⟩⟩⟩⟩
theorem test_FloatAndExactAtomics_met :
    (∃ o, ∃ s : State, ∃ x : Iss, Ready (.afadd o) s x ∧ x.ex ≠ [] ∧ ∃ u qs, x.access (x.moved s) { rd := true, wr := true, align := (fpBits o.ty / 8), size := (fpBits o.ty / 8), atomic := true } (eaDisp x) = .go u qs ∧ qs.map (·.l) = x.ex) ∧
    (∃ s : State, ∃ core : Nat, ∃ idx : Nat, ∃ a : Atom, (s.core core).atoms[idx]? = some a ∧ ∃ o, a.instr = (.afadd o) ∧ ∃ q : AtomLane, a.lanes = [q] ∧ ∃ pa : Nat, q.loc = .mem pa ∧ s.isLocal pa = true ∧ (∀ j, j < (fpBits o.ty / 8) → s.isLocal (pa + j) = true) ∧ s.lcache = [] ∧ atomReady s core idx a = true) ∧
    (∃ o, ∃ s : State, ∃ x : Iss, Ready (.xadd o) s x ∧ x.ex ≠ [] ∧ ∃ u qs, x.access (x.moved s) { rd := true, wr := true, align := 64, size := 64, atomic := true } (eaDisp x) = .go u qs ∧ qs.map (·.l) = x.ex) ∧
    (∃ s : State, ∃ core : Nat, ∃ idx : Nat, ∃ a : Atom, (s.core core).atoms[idx]? = some a ∧ ∃ o, a.instr = (.xadd o) ∧ ∃ q : AtomLane, a.lanes = [q] ∧ ∃ pa : Nat, q.loc = .mem pa ∧ s.isLocal pa = true ∧ (∀ j, j < 64 → s.isLocal (pa + j) = true) ∧ s.lcache = [] ∧ atomReady s core idx a = true) ∧
    (∃ o, ∃ s : State, ∃ x : Iss, Ready (.xset o) s x ∧ x.ex ≠ [] ∧ ∃ u qs, x.access (x.moved s) { rd := true, wr := true, align := 64, size := 64, atomic := true } (eaPair x) = .go u qs ∧ qs.map (·.l) = x.ex) ∧
    (∃ s : State, ∃ core : Nat, ∃ idx : Nat, ∃ a : Atom, (s.core core).atoms[idx]? = some a ∧ ∃ o, a.instr = (.xset o) ∧ ∃ q : AtomLane, a.lanes = [q] ∧ ∃ pa : Nat, q.loc = .mem pa ∧ s.isLocal pa = true ∧ (∀ j, j < 64 → s.isLocal (pa + j) = true) ∧ s.lcache = [] ∧ atomReady s core idx a = true) ∧
    (∃ o, ∃ s : State, ∃ x : Iss, Ready (.xrd o) s x ∧ x.ex ≠ [] ∧ ∃ u qs, x.access (x.moved s) { rd := true, wr := true, align := 64, size := 64, atomic := true } (eaDisp x) = .go u qs ∧ qs.map (·.l) = x.ex) ∧
    (∃ s : State, ∃ core : Nat, ∃ idx : Nat, ∃ a : Atom, (s.core core).atoms[idx]? = some a ∧ ∃ o, a.instr = (.xrd o) ∧ ∃ q : AtomLane, a.lanes = [q] ∧ ∃ pa : Nat, q.loc = .mem pa ∧ s.isLocal pa = true ∧ (∀ j, j < 64 → s.isLocal (pa + j) = true) ∧ s.lcache = [] ∧ atomReady s core idx a = true) :=
  ⟨⟨⟨7, false, 16, 32, 48, 0, 0, false, false, false, 0, 0⟩, ⟨(reg 32 0x80000) (D), ⟨iss (.afadd ⟨7, false, 16, 32, 48, 0, 0, false, false, false, 0, 0⟩) ((reg 32 0x80000) (D)), ⟨(ready_iss (by decide +kernel)), ⟨by decide +kernel, ex_go (by decide +kernel) (by decide +kernel)⟩⟩⟩⟩⟩,
   ⟨(cr (fun k => { k with atoms := [{ slot := 0, pc := 0x108, instr := .afadd ⟨7, false, 16, 32, 48, 0, 0, false, false, false, 0, 0⟩, lanes := [{ lane := 0, loc := .mem 0x100000, va := 0x80000, sync := false, x := 0, y := 0 }] }] })) (D), ⟨0, ⟨0, ⟨{ slot := 0, pc := 0x108, instr := .afadd ⟨7, false, 16, 32, 48, 0, 0, false, false, false, 0, 0⟩, lanes := [{ lane := 0, loc := .mem 0x100000, va := 0x80000, sync := false, x := 0, y := 0 }] }, ⟨by decide +kernel, ⟨⟨7, false, 16, 32, 48, 0, 0, false, false, false, 0, 0⟩, ⟨by decide +kernel, ⟨{ lane := 0, loc := .mem 0x100000, va := 0x80000, sync := false, x := 0, y := 0 }, ⟨by decide +kernel, ⟨0x100000, by decide +kernel⟩⟩⟩⟩⟩⟩⟩⟩⟩⟩,
   ⟨⟨7, false, 16, 32, 0, 0, 0, false, false, false, 0, 0⟩, ⟨(reg 32 0x80000) (D), ⟨iss (.xadd ⟨7, false, 16, 32, 0, 0, 0, false, false, false, 0, 0⟩) ((reg 32 0x80000) (D)), ⟨(ready_iss (by decide +kernel)), ⟨by decide +kernel, ex_go (by decide +kernel) (by decide +kernel)⟩⟩⟩⟩⟩,
   ⟨(cr (fun k => { k with atoms := [{ slot := 0, pc := 0x108, instr := .xadd ⟨7, false, 16, 32, 0, 0, 0, false, false, false, 0, 0⟩, lanes := [{ lane := 0, loc := .mem 0x100000, va := 0x80000, sync := false, x := 0, y := 0 }] }] })) (D), ⟨0, ⟨0, ⟨{ slot := 0, pc := 0x108, instr := .xadd ⟨7, false, 16, 32, 0, 0, 0, false, false, false, 0, 0⟩, lanes := [{ lane := 0, loc := .mem 0x100000, va := 0x80000, sync := false, x := 0, y := 0 }] }, ⟨by decide +kernel, ⟨⟨7, false, 16, 32, 0, 0, 0, false, false, false, 0, 0⟩, ⟨by decide +kernel, ⟨{ lane := 0, loc := .mem 0x100000, va := 0x80000, sync := false, x := 0, y := 0 }, ⟨by decide +kernel, ⟨0x100000, by decide +kernel⟩⟩⟩⟩⟩⟩⟩⟩⟩⟩,
   ⟨⟨7, false, 0, 32, 48, 0, 0, false, false, false, 0, 0⟩, ⟨(reg 32 0x80000) (D), ⟨iss (.xset ⟨7, false, 0, 32, 48, 0, 0, false, false, false, 0, 0⟩) ((reg 32 0x80000) (D)), ⟨(ready_iss (by decide +kernel)), ⟨by decide +kernel, ex_go (by decide +kernel) (by decide +kernel)⟩⟩⟩⟩⟩,
   ⟨(cr (fun k => { k with atoms := [{ slot := 0, pc := 0x108, instr := .xset ⟨7, false, 0, 32, 48, 0, 0, false, false, false, 0, 0⟩, lanes := [{ lane := 0, loc := .mem 0x100000, va := 0x80000, sync := false, x := 0, y := 0 }] }] })) (D), ⟨0, ⟨0, ⟨{ slot := 0, pc := 0x108, instr := .xset ⟨7, false, 0, 32, 48, 0, 0, false, false, false, 0, 0⟩, lanes := [{ lane := 0, loc := .mem 0x100000, va := 0x80000, sync := false, x := 0, y := 0 }] }, ⟨by decide +kernel, ⟨⟨7, false, 0, 32, 48, 0, 0, false, false, false, 0, 0⟩, ⟨by decide +kernel, ⟨{ lane := 0, loc := .mem 0x100000, va := 0x80000, sync := false, x := 0, y := 0 }, ⟨by decide +kernel, ⟨0x100000, by decide +kernel⟩⟩⟩⟩⟩⟩⟩⟩⟩⟩,
   ⟨⟨7, false, 16, 32, 0, 0, 0, false, false, false, 0, 0⟩, ⟨(reg 32 0x80000) (D), ⟨iss (.xrd ⟨7, false, 16, 32, 0, 0, 0, false, false, false, 0, 0⟩) ((reg 32 0x80000) (D)), ⟨(ready_iss (by decide +kernel)), ⟨by decide +kernel, ex_go (by decide +kernel) (by decide +kernel)⟩⟩⟩⟩⟩,
   ⟨(cr (fun k => { k with atoms := [{ slot := 0, pc := 0x108, instr := .xrd ⟨7, false, 16, 32, 0, 0, 0, false, false, false, 0, 0⟩, lanes := [{ lane := 0, loc := .mem 0x100000, va := 0x80000, sync := false, x := 0, y := 0 }] }] })) (D), ⟨0, ⟨0, ⟨{ slot := 0, pc := 0x108, instr := .xrd ⟨7, false, 16, 32, 0, 0, 0, false, false, false, 0, 0⟩, lanes := [{ lane := 0, loc := .mem 0x100000, va := 0x80000, sync := false, x := 0, y := 0 }] }, ⟨by decide +kernel, ⟨⟨7, false, 16, 32, 0, 0, 0, false, false, false, 0, 0⟩, ⟨by decide +kernel, ⟨{ lane := 0, loc := .mem 0x100000, va := 0x80000, sync := false, x := 0, y := 0 }, ⟨by decide +kernel, ⟨0x100000, by decide +kernel⟩⟩⟩⟩⟩⟩⟩⟩⟩⟩⟩
theorem test_ExactSumCell_met :
    (∃ v : Nat, v < 2 ^ 512) ∧
    (∃ c : Cell, c.acc < 2 ^ 320 ∧ c.cnt < 2 ^ 60 ∧ c.user < 2 ^ 128) :=
  ⟨⟨0, by decide +kernel⟩,
   ⟨cellOf 0, by decide +kernel⟩⟩
theorem test_FencesAndWaits_met :
    (∃ o, ∃ s : State, ∃ x : Iss, Ready (.fence o) s x ∧ (fun x s => x.ex = [] ∨ s.atomPending x.g.core x.g.slot x.ex = false ∧ s.drained x.g.core x.g.slot = true) x (x.moved s)) ∧
    (∃ o, ∃ s : State, ∃ x : Iss, Ready (.fenceRel o) s x ∧ (fun x s => x.ex = [] ∨ s.atomPending x.g.core x.g.slot x.ex = false ∧ s.drained x.g.core x.g.slot = true) x (x.moved s)) ∧
    (∃ o, ∃ s : State, ∃ x : Iss, Ready (.fenceAcq o) s x ∧ (fun x s => x.ex = [] ∨ s.atomPending x.g.core x.g.slot x.ex = false) x (x.moved s)) ∧
    (∃ o, ∃ s : State, ∃ x : Iss, Ready (.fence o) s x ∧ (fun x s => x.ex ≠ [] ∧ (s.atomPending x.g.core x.g.slot x.ex = true ∨ s.drained x.g.core x.g.slot = false)) x (x.moved s)) ∧
    (∃ o, ∃ s : State, ∃ x : Iss, Ready (.fenceRel o) s x ∧ (fun x s => x.ex ≠ [] ∧ (s.atomPending x.g.core x.g.slot x.ex = true ∨ s.drained x.g.core x.g.slot = false)) x (x.moved s)) ∧
    (∃ o, ∃ s : State, ∃ x : Iss, Ready (.fenceAcq o) s x ∧ (fun x s => x.ex ≠ [] ∧ s.atomPending x.g.core x.g.slot x.ex = true) x (x.moved s)) ∧
    (∃ ne, ∃ o, ∃ i, i = (if ne then Instr.waitvNe o else Instr.waitvEq o) ∧ ∃ s : State, ∃ x : Iss, Ready i s x ∧ x.g.spec = false ∧ let n := syncBits x.f.ty / 8; ∃ u qs, x.access (x.moved s) { rd := true, align := n, size := n } (fun l => x.a l) = .go u qs ∧ qs.map (·.l) = x.ex ∧ (∀ q ∈ qs, q.loc.isData ∧ u.anyPoison (q.loc.span n) = false ∧ (x.readsAt u q n = x.b q.l ↔ ne = false))) :=
  ⟨⟨⟨7, false, 0, 0, 0, 0, 0, false, false, false, 0, 1⟩, ⟨D, ⟨iss (.fence ⟨7, false, 0, 0, 0, 0, 0, false, false, false, 0, 1⟩) (D), ⟨(ready_iss (by decide +kernel)), by decide +kernel⟩⟩⟩⟩,
   ⟨⟨7, false, 0, 0, 0, 0, 0, false, false, false, 0, 1⟩, ⟨D, ⟨iss (.fenceRel ⟨7, false, 0, 0, 0, 0, 0, false, false, false, 0, 1⟩) (D), ⟨(ready_iss (by decide +kernel)), by decide +kernel⟩⟩⟩⟩,
   ⟨⟨7, false, 0, 0, 0, 0, 0, false, false, false, 0, 1⟩, ⟨D, ⟨iss (.fenceAcq ⟨7, false, 0, 0, 0, 0, 0, false, false, false, 0, 1⟩) (D), ⟨(ready_iss (by decide +kernel)), by decide +kernel⟩⟩⟩⟩,
   ⟨⟨7, false, 0, 0, 0, 0, 0, false, false, false, 0, 1⟩, ⟨(wv (fun w => { w with storeq := [{ slot := 0, bytes := [⟨.mem 0x100000, 1, 0⟩] }] })) (D), ⟨iss (.fence ⟨7, false, 0, 0, 0, 0, 0, false, false, false, 0, 1⟩) ((wv (fun w => { w with storeq := [{ slot := 0, bytes := [⟨.mem 0x100000, 1, 0⟩] }] })) (D)), ⟨(ready_iss (by decide +kernel)), by decide +kernel⟩⟩⟩⟩,
   ⟨⟨7, false, 0, 0, 0, 0, 0, false, false, false, 0, 1⟩, ⟨(wv (fun w => { w with storeq := [{ slot := 0, bytes := [⟨.mem 0x100000, 1, 0⟩] }] })) (D), ⟨iss (.fenceRel ⟨7, false, 0, 0, 0, 0, 0, false, false, false, 0, 1⟩) ((wv (fun w => { w with storeq := [{ slot := 0, bytes := [⟨.mem 0x100000, 1, 0⟩] }] })) (D)), ⟨(ready_iss (by decide +kernel)), by decide +kernel⟩⟩⟩⟩,
   ⟨⟨7, false, 0, 0, 0, 0, 0, false, false, false, 0, 1⟩, ⟨(cr (fun k => { k with atoms := [{ slot := 0, pc := 0x100, instr := .aadd ⟨7, false, 16, 32, 48, 0, 0, false, false, false, 0, 0⟩, lanes := [{ lane := 0, loc := .mem 0x100000, va := 0x80000, sync := false, x := 0, y := 0 }] }] })) (D), ⟨iss (.fenceAcq ⟨7, false, 0, 0, 0, 0, 0, false, false, false, 0, 1⟩) ((cr (fun k => { k with atoms := [{ slot := 0, pc := 0x100, instr := .aadd ⟨7, false, 16, 32, 48, 0, 0, false, false, false, 0, 0⟩, lanes := [{ lane := 0, loc := .mem 0x100000, va := 0x80000, sync := false, x := 0, y := 0 }] }] })) (D)), ⟨(ready_iss (by decide +kernel)), by decide +kernel⟩⟩⟩⟩,
   ⟨true, ⟨⟨7, false, 16, 32, 48, 0, 0, false, false, false, 4, 0⟩, ⟨Instr.waitvNe ⟨7, false, 16, 32, 48, 0, 0, false, false, false, 4, 0⟩, ⟨by decide +kernel, ⟨(reg 48 1) ((reg 32 0x80000) (D)), ⟨iss (Instr.waitvNe ⟨7, false, 16, 32, 48, 0, 0, false, false, false, 4, 0⟩) ((reg 48 1) ((reg 32 0x80000) (D))), ⟨(ready_iss (by decide +kernel)), ⟨by decide +kernel, ex_go (by decide +kernel) (⟨by decide +kernel, all_data_and (by decide +kernel)⟩)⟩⟩⟩⟩⟩⟩⟩⟩⟩
theorem test_PointsAreArmed_met :
    (∃ o, ∃ s : State, ∃ x : Iss, Ready (.rvinit o) s x ∧ (fun x s => x.teamed s ∧ x.alike (fun x l => [x.a l]) ∧ x.a x.low ≤ 1024 ∧ (x.a x.low = 0 → (s.point (x.mine s) false (x.pointIdx false)).arr = 0) ∧ (x.a x.low ≠ 0 → (s.point (x.mine s) false (x.pointIdx false)).armed = true → (s.point (x.mine s) false (x.pointIdx false)).exp = x.a x.low)) x (x.moved s)) ∧
    (∃ o, ∃ s : State, ∃ x : Iss, Ready (.gbinit o) s x ∧ (fun x s => x.teamed s ∧ x.alike (fun x l => [x.a l]) ∧ x.a x.low ≤ 65536 ∧ (x.a x.low = 0 → (s.point (x.mine s) true (x.pointIdx true)).arr = 0) ∧ (x.a x.low ≠ 0 → (s.point (x.mine s) true (x.pointIdx true)).armed = true → (s.point (x.mine s) true (x.pointIdx true)).exp = x.a x.low)) x (x.moved s)) ∧
    (∃ o, ∃ s : State, ∃ x : Iss, Ready (.rvinit o) s x ∧ x.canTrap (x.moved s) ∧ (fun x s => x.teamed s ∧ x.alike (fun x l => [x.a l]) ∧ 1024 < x.a x.low) x (x.moved s)) ∧
    (∃ o, ∃ s : State, ∃ x : Iss, Ready (.gbinit o) s x ∧ x.canTrap (x.moved s) ∧ (fun x s => x.teamed s ∧ x.alike (fun x l => [x.a l]) ∧ 65536 < x.a x.low) x (x.moved s)) ∧
    (∃ o, ∃ s : State, ∃ x : Iss, Ready (.rvinit o) s x ∧ x.canTrap (x.moved s) ∧ (fun x s => x.teamed s ∧ x.alike (fun x l => [x.a l]) ∧ x.a x.low ≤ 1024 ∧ x.a x.low ≠ 0 ∧ (s.point (x.mine s) false (x.pointIdx false)).armed = true ∧ (s.point (x.mine s) false (x.pointIdx false)).exp ≠ x.a x.low) x (x.moved s)) ∧
    (∃ o, ∃ s : State, ∃ x : Iss, Ready (.gbinit o) s x ∧ x.canTrap (x.moved s) ∧ (fun x s => x.teamed s ∧ x.alike (fun x l => [x.a l]) ∧ x.a x.low ≤ 65536 ∧ x.a x.low ≠ 0 ∧ (s.point (x.mine s) true (x.pointIdx true)).armed = true ∧ (s.point (x.mine s) true (x.pointIdx true)).exp ≠ x.a x.low) x (x.moved s)) ∧
    (∃ o, ∃ s : State, ∃ x : Iss, Ready (.rvinit o) s x ∧ x.canTrap (x.moved s) ∧ (fun x s => x.teamed s ∧ x.alike (fun x l => [x.a l]) ∧ x.a x.low = 0 ∧ (s.point (x.mine s) false (x.pointIdx false)).arr ≠ 0) x (x.moved s)) ∧
    (∃ o, ∃ s : State, ∃ x : Iss, Ready (.gbinit o) s x ∧ x.canTrap (x.moved s) ∧ (fun x s => x.teamed s ∧ x.alike (fun x l => [x.a l]) ∧ x.a x.low = 0 ∧ (s.point (x.mine s) true (x.pointIdx true)).arr ≠ 0) x (x.moved s)) :=
  ⟨⟨⟨7, false, 0, 32, 0, 0, 0, false, false, false, 0, 0⟩, ⟨D, ⟨iss (.rvinit ⟨7, false, 0, 32, 0, 0, 0, false, false, false, 0, 0⟩) (D), ⟨(ready_iss (by decide +kernel)), by decide +kernel⟩⟩⟩⟩,
   ⟨⟨7, false, 0, 32, 0, 0, 0, false, false, false, 0, 0⟩, ⟨D, ⟨iss (.gbinit ⟨7, false, 0, 32, 0, 0, 0, false, false, false, 0, 0⟩) (D), ⟨(ready_iss (by decide +kernel)), by decide +kernel⟩⟩⟩⟩,
   ⟨⟨7, false, 0, 32, 0, 0, 0, false, false, false, 0, 0⟩, ⟨(reg 32 1025) (D), ⟨iss (.rvinit ⟨7, false, 0, 32, 0, 0, 0, false, false, false, 0, 0⟩) ((reg 32 1025) (D)), ⟨(ready_iss (by decide +kernel)), by decide +kernel⟩⟩⟩⟩,
   ⟨⟨7, false, 0, 32, 0, 0, 0, false, false, false, 0, 0⟩, ⟨(reg 32 65537) (D), ⟨iss (.gbinit ⟨7, false, 0, 32, 0, 0, 0, false, false, false, 0, 0⟩) ((reg 32 65537) (D)), ⟨(ready_iss (by decide +kernel)), by decide +kernel⟩⟩⟩⟩,
   ⟨⟨7, false, 0, 32, 0, 0, 0, false, false, false, 0, 0⟩, ⟨(tm (fun t => { t with points := [(0, { armed := true, exp := 2, arr := 0 })] })) ((reg 32 1) (D)), ⟨iss (.rvinit ⟨7, false, 0, 32, 0, 0, 0, false, false, false, 0, 0⟩) ((tm (fun t => { t with points := [(0, { armed := true, exp := 2, arr := 0 })] })) ((reg 32 1) (D))), ⟨(ready_iss (by decide +kernel)), by decide +kernel⟩⟩⟩⟩,
   ⟨⟨7, false, 0, 32, 0, 0, 0, false, false, false, 0, 0⟩, ⟨((fun s : State => { s with gangs := [{ id := 1, launch := 2, index := 0, gtkt := 0, part := 0, teams := [{ core := 0, ticket := 0, team := 1 }], bars := [(0, { armed := true, exp := 2, arr := 0 })] }] })) ((reg 32 1) (D)), ⟨iss (.gbinit ⟨7, false, 0, 32, 0, 0, 0, false, false, false, 0, 0⟩) (((fun s : State => { s with gangs := [{ id := 1, launch := 2, index := 0, gtkt := 0, part := 0, teams := [{ core := 0, ticket := 0, team := 1 }], bars := [(0, { armed := true, exp := 2, arr := 0 })] }] })) ((reg 32 1) (D))), ⟨(ready_iss (by decide +kernel)), by decide +kernel⟩⟩⟩⟩,
   ⟨⟨7, false, 0, 32, 0, 0, 0, false, false, false, 0, 0⟩, ⟨(tm (fun t => { t with points := [(0, { armed := true, exp := 2, arr := 1 })] })) (D), ⟨iss (.rvinit ⟨7, false, 0, 32, 0, 0, 0, false, false, false, 0, 0⟩) ((tm (fun t => { t with points := [(0, { armed := true, exp := 2, arr := 1 })] })) (D)), ⟨(ready_iss (by decide +kernel)), by decide +kernel⟩⟩⟩⟩,
   ⟨⟨7, false, 0, 32, 0, 0, 0, false, false, false, 0, 0⟩, ⟨((fun s : State => { s with gangs := [{ id := 1, launch := 2, index := 0, gtkt := 0, part := 0, teams := [{ core := 0, ticket := 0, team := 1 }], bars := [(0, { armed := true, exp := 2, arr := 1 })] }] })) (D), ⟨iss (.gbinit ⟨7, false, 0, 32, 0, 0, 0, false, false, false, 0, 0⟩) (((fun s : State => { s with gangs := [{ id := 1, launch := 2, index := 0, gtkt := 0, part := 0, teams := [{ core := 0, ticket := 0, team := 1 }], bars := [(0, { armed := true, exp := 2, arr := 1 })] }] })) (D)), ⟨(ready_iss (by decide +kernel)), by decide +kernel⟩⟩⟩⟩⟩
theorem test_Arrivals_met :
    (∃ o, ∃ s : State, ∃ x : Iss, Ready (.rvarrive o) s x ∧ let m := x.moved s; let p := m.point (x.mine m) false (x.pointIdx false); x.teamed m ∧ m.published false x = true ∧ (m.findTeam (x.mine m) = some (x.g.core, m.team (x.mine m))) ∧ p.armed = true ∧ (∀ l ∈ x.ex, (s.thread x.g.core x.g.slot l).isOpen false (x.pointIdx false) = false) ∧ p.arr + x.ex.length < p.exp) ∧
    (∃ o, ∃ s : State, ∃ x : Iss, Ready (.gbarrive o) s x ∧ let m := x.moved s; let p := m.point (x.mine m) true (x.pointIdx true); x.teamed m ∧ m.published true x = true ∧ ((m.findGang (m.team (x.mine m)).gang).isSome = true) ∧ p.armed = true ∧ (∀ l ∈ x.ex, (s.thread x.g.core x.g.slot l).isOpen true (x.pointIdx true) = false) ∧ p.arr + x.ex.length < p.exp) ∧
    (∃ o, ∃ s : State, ∃ x : Iss, Ready (.rvsync o) s x ∧ let m := x.moved s; let p := m.point (x.mine m) false (x.pointIdx false); x.teamed m ∧ m.published false x = true ∧ (m.findTeam (x.mine m) = some (x.g.core, m.team (x.mine m))) ∧ p.armed = true ∧ (∀ l ∈ x.ex, (s.thread x.g.core x.g.slot l).isOpen false (x.pointIdx false) = false) ∧ p.arr + x.ex.length < p.exp) ∧
    (∃ o, ∃ s : State, ∃ x : Iss, Ready (.gbsync o) s x ∧ let m := x.moved s; let p := m.point (x.mine m) true (x.pointIdx true); x.teamed m ∧ m.published true x = true ∧ ((m.findGang (m.team (x.mine m)).gang).isSome = true) ∧ p.armed = true ∧ (∀ l ∈ x.ex, (s.thread x.g.core x.g.slot l).isOpen true (x.pointIdx true) = false) ∧ p.arr + x.ex.length < p.exp) ∧
    (∃ o, ∃ s : State, ∃ x : Iss, Ready (.rvarrive o) s x ∧ let m := x.moved s; let p := m.point (x.mine m) false (x.pointIdx false); x.teamed m ∧ x.g.spec = false ∧ m.published false x = true ∧ (m.findTeam (x.mine m) = some (x.g.core, m.team (x.mine m)) ∧ x.g.slot ∈ (m.team (x.mine m)).slots) ∧ p.armed = true ∧ (∀ l ∈ x.ex, (s.thread x.g.core x.g.slot l).isOpen false (x.pointIdx false) = false) ∧ p.arr + x.ex.length = p.exp) ∧
    (∃ o, ∃ s : State, ∃ x : Iss, Ready (.gbarrive o) s x ∧ let m := x.moved s; let p := m.point (x.mine m) true (x.pointIdx true); x.teamed m ∧ x.g.spec = false ∧ m.published true x = true ∧ ((m.findGang (m.team (x.mine m)).gang).isSome = true) ∧ p.armed = true ∧ (∀ l ∈ x.ex, (s.thread x.g.core x.g.slot l).isOpen true (x.pointIdx true) = false) ∧ p.arr + x.ex.length = p.exp) ∧
    (∃ o, ∃ s : State, ∃ x : Iss, Ready (.rvsync o) s x ∧ let m := x.moved s; let p := m.point (x.mine m) false (x.pointIdx false); x.teamed m ∧ x.g.spec = false ∧ m.published false x = true ∧ (m.findTeam (x.mine m) = some (x.g.core, m.team (x.mine m)) ∧ x.g.slot ∈ (m.team (x.mine m)).slots) ∧ p.armed = true ∧ (∀ l ∈ x.ex, (s.thread x.g.core x.g.slot l).isOpen false (x.pointIdx false) = false) ∧ p.arr + x.ex.length = p.exp) ∧
    (∃ o, ∃ s : State, ∃ x : Iss, Ready (.gbsync o) s x ∧ let m := x.moved s; let p := m.point (x.mine m) true (x.pointIdx true); x.teamed m ∧ x.g.spec = false ∧ m.published true x = true ∧ ((m.findGang (m.team (x.mine m)).gang).isSome = true) ∧ p.armed = true ∧ (∀ l ∈ x.ex, (s.thread x.g.core x.g.slot l).isOpen true (x.pointIdx true) = false) ∧ p.arr + x.ex.length = p.exp) ∧
    (∃ s : State, ∃ c : Nat, ∃ w : Nat, let y := (s.weave c w).team.getD 0; (s.weave c w).team.isSome = true ∧ ∃ g : Nat, (s.team y).gang = g ∧ ∃ n : Nat, ∃ l : Nat, (s.thread c w l).mode = .waiting (.arrived true n) ∧ n < 8 ∧ (s.thread c w l).gbDue.getLsbD n = true) :=
  ⟨⟨⟨7, false, 0, 0, 0, 0, 0, false, false, false, 0, 0⟩, ⟨(tm (fun t => { t with points := [(0, { armed := true, exp := 2, arr := 0 })] })) (D), ⟨iss (.rvarrive ⟨7, false, 0, 0, 0, 0, 0, false, false, false, 0, 0⟩) ((tm (fun t => { t with points := [(0, { armed := true, exp := 2, arr := 0 })] })) (D)), ⟨(ready_iss (by decide +kernel)), by decide +kernel⟩⟩⟩⟩,
   ⟨⟨7, false, 0, 0, 0, 0, 0, false, false, false, 0, 0⟩, ⟨((fun s : State => { s with gangs := [{ id := 1, launch := 2, index := 0, gtkt := 0, part := 0, teams := [{ core := 0, ticket := 0, team := 1 }], bars := [(0, { armed := true, exp := 2, arr := 0 })] }] })) (D), ⟨iss (.gbarrive ⟨7, false, 0, 0, 0, 0, 0, false, false, false, 0, 0⟩) (((fun s : State => { s with gangs := [{ id := 1, launch := 2, index := 0, gtkt := 0, part := 0, teams := [{ core := 0, ticket := 0, team := 1 }], bars := [(0, { armed := true, exp := 2, arr := 0 })] }] })) (D)), ⟨(ready_iss (by decide +kernel)), by decide +kernel⟩⟩⟩⟩,
   ⟨⟨7, false, 0, 0, 0, 0, 0, false, false, false, 0, 0⟩, ⟨(tm (fun t => { t with points := [(0, { armed := true, exp := 2, arr := 0 })] })) (D), ⟨iss (.rvsync ⟨7, false, 0, 0, 0, 0, 0, false, false, false, 0, 0⟩) ((tm (fun t => { t with points := [(0, { armed := true, exp := 2, arr := 0 })] })) (D)), ⟨(ready_iss (by decide +kernel)), by decide +kernel⟩⟩⟩⟩,
   ⟨⟨7, false, 0, 0, 0, 0, 0, false, false, false, 0, 0⟩, ⟨((fun s : State => { s with gangs := [{ id := 1, launch := 2, index := 0, gtkt := 0, part := 0, teams := [{ core := 0, ticket := 0, team := 1 }], bars := [(0, { armed := true, exp := 2, arr := 0 })] }] })) (D), ⟨iss (.gbsync ⟨7, false, 0, 0, 0, 0, 0, false, false, false, 0, 0⟩) (((fun s : State => { s with gangs := [{ id := 1, launch := 2, index := 0, gtkt := 0, part := 0, teams := [{ core := 0, ticket := 0, team := 1 }], bars := [(0, { armed := true, exp := 2, arr := 0 })] }] })) (D)), ⟨(ready_iss (by decide +kernel)), by decide +kernel⟩⟩⟩⟩,
   ⟨⟨7, false, 0, 0, 0, 0, 0, false, false, false, 0, 0⟩, ⟨(tm (fun t => { t with points := [(0, { armed := true, exp := 1, arr := 0 })] })) (D), ⟨iss (.rvarrive ⟨7, false, 0, 0, 0, 0, 0, false, false, false, 0, 0⟩) ((tm (fun t => { t with points := [(0, { armed := true, exp := 1, arr := 0 })] })) (D)), ⟨(ready_iss (by decide +kernel)), by decide +kernel⟩⟩⟩⟩,
   ⟨⟨7, false, 0, 0, 0, 0, 0, false, false, false, 0, 0⟩, ⟨((fun s : State => { s with gangs := [{ id := 1, launch := 2, index := 0, gtkt := 0, part := 0, teams := [{ core := 0, ticket := 0, team := 1 }], bars := [(0, { armed := true, exp := 1, arr := 0 })] }] })) (D), ⟨iss (.gbarrive ⟨7, false, 0, 0, 0, 0, 0, false, false, false, 0, 0⟩) (((fun s : State => { s with gangs := [{ id := 1, launch := 2, index := 0, gtkt := 0, part := 0, teams := [{ core := 0, ticket := 0, team := 1 }], bars := [(0, { armed := true, exp := 1, arr := 0 })] }] })) (D)), ⟨(ready_iss (by decide +kernel)), by decide +kernel⟩⟩⟩⟩,
   ⟨⟨7, false, 0, 0, 0, 0, 0, false, false, false, 0, 0⟩, ⟨(tm (fun t => { t with points := [(0, { armed := true, exp := 1, arr := 0 })] })) (D), ⟨iss (.rvsync ⟨7, false, 0, 0, 0, 0, 0, false, false, false, 0, 0⟩) ((tm (fun t => { t with points := [(0, { armed := true, exp := 1, arr := 0 })] })) (D)), ⟨(ready_iss (by decide +kernel)), by decide +kernel⟩⟩⟩⟩,
   ⟨⟨7, false, 0, 0, 0, 0, 0, false, false, false, 0, 0⟩, ⟨((fun s : State => { s with gangs := [{ id := 1, launch := 2, index := 0, gtkt := 0, part := 0, teams := [{ core := 0, ticket := 0, team := 1 }], bars := [(0, { armed := true, exp := 1, arr := 0 })] }] })) (D), ⟨iss (.gbsync ⟨7, false, 0, 0, 0, 0, 0, false, false, false, 0, 0⟩) (((fun s : State => { s with gangs := [{ id := 1, launch := 2, index := 0, gtkt := 0, part := 0, teams := [{ core := 0, ticket := 0, team := 1 }], bars := [(0, { armed := true, exp := 1, arr := 0 })] }] })) (D)), ⟨(ready_iss (by decide +kernel)), by decide +kernel⟩⟩⟩⟩,
   ⟨(th (fun t => { t with mode := .waiting (.arrived true 0), gbDue := 1 })) (D), ⟨0, ⟨0, ⟨by decide +kernel, ⟨1, ⟨by decide +kernel, ⟨0, ⟨0, by decide +kernel⟩⟩⟩⟩⟩⟩⟩⟩⟩
theorem test_WaitsAtPoints_met :
    (∃ o, ∃ s : State, ∃ x : Iss, Ready (.rvwait o) s x ∧ x.teamed s ∧ (∀ l ∈ x.ex, (s.thread x.g.core x.g.slot l).isPend false (x.pointIdx false) = true ∧ (s.thread x.g.core x.g.slot l).isDone false (x.pointIdx false) = true)) ∧
    (∃ o, ∃ s : State, ∃ x : Iss, Ready (.gbwait o) s x ∧ x.teamed s ∧ (∀ l ∈ x.ex, (s.thread x.g.core x.g.slot l).isPend true (x.pointIdx true) = true ∧ (s.thread x.g.core x.g.slot l).isDone true (x.pointIdx true) = true)) ∧
    (∃ o, ∃ s : State, ∃ x : Iss, Ready (.rvwaitSpec o) s x ∧ x.teamed s ∧ (∀ l ∈ x.ex, (s.thread x.g.core x.g.slot l).isPend false (x.pointIdx false) = true ∧ (s.thread x.g.core x.g.slot l).isDone false (x.pointIdx false) = true)) ∧
    (∃ o, ∃ s : State, ∃ x : Iss, Ready (.rvwaitSpec o) s x ∧ x.teamed (x.moved s) ∧ ((x.moved s).team (x.mine (x.moved s))).speculative = true ∧ (∀ l ∈ x.ex, (s.thread x.g.core x.g.slot l).isPend false (x.pointIdx false) = true ∧ (s.thread x.g.core x.g.slot l).isDone false (x.pointIdx false) = false ∧ (s.thread x.g.core x.g.slot l).noSpec ≠ some x.g.pc)) ∧
    (∃ o, ∃ s : State, ∃ x : Iss, Ready (.rvpoll o) s x) ∧
    (∃ o, ∃ s : State, ∃ x : Iss, Ready (.rvstat o) s x) :=
  ⟨⟨⟨7, false, 0, 0, 0, 0, 0, false, false, false, 0, 0⟩, ⟨(th (fun t => { t with rvPend := 1, rvDone := 1 })) (D), ⟨iss (.rvwait ⟨7, false, 0, 0, 0, 0, 0, false, false, false, 0, 0⟩) ((th (fun t => { t with rvPend := 1, rvDone := 1 })) (D)), ⟨(ready_iss (by decide +kernel)), by decide +kernel⟩⟩⟩⟩,
   ⟨⟨7, false, 0, 0, 0, 0, 0, false, false, false, 0, 0⟩, ⟨(th (fun t => { t with gbPend := 1, gbDone := 1 })) (D), ⟨iss (.gbwait ⟨7, false, 0, 0, 0, 0, 0, false, false, false, 0, 0⟩) ((th (fun t => { t with gbPend := 1, gbDone := 1 })) (D)), ⟨(ready_iss (by decide +kernel)), by decide +kernel⟩⟩⟩⟩,
   ⟨⟨7, false, 0, 0, 0, 0, 0, false, false, false, 0, 0⟩, ⟨(th (fun t => { t with rvPend := 1, rvDone := 1 })) (D), ⟨iss (.rvwaitSpec ⟨7, false, 0, 0, 0, 0, 0, false, false, false, 0, 0⟩) ((th (fun t => { t with rvPend := 1, rvDone := 1 })) (D)), ⟨(ready_iss (by decide +kernel)), by decide +kernel⟩⟩⟩⟩,
   ⟨⟨7, false, 0, 0, 0, 0, 0, false, false, false, 0, 0⟩, ⟨(th (fun t => { t with rvPend := 1 })) (D), ⟨iss (.rvwaitSpec ⟨7, false, 0, 0, 0, 0, 0, false, false, false, 0, 0⟩) ((th (fun t => { t with rvPend := 1 })) (D)), ⟨(ready_iss (by decide +kernel)), by decide +kernel⟩⟩⟩⟩,
   ⟨⟨7, false, 0, 0, 0, 0, 0, false, false, false, 0, 0⟩, ⟨D, ⟨iss (.rvpoll ⟨7, false, 0, 0, 0, 0, 0, false, false, false, 0, 0⟩) (D), ready_iss (by decide +kernel)⟩⟩⟩,
   ⟨⟨7, false, 16, 0, 0, 0, 0, false, false, false, 0, 0⟩, ⟨D, ⟨iss (.rvstat ⟨7, false, 16, 0, 0, 0, 0, false, false, false, 0, 0⟩) (D), ready_iss (by decide +kernel)⟩⟩⟩⟩
theorem test_TranslationMaintenance_met :
    (∃ o, ∃ s : State, ∃ x : Iss, Ready (.tlbp o) s x ∧ (∀ l ∈ x.ex, (x.moved s).walk (x.b l % 2 ^ 16) (x.ea false 1 l) ≠ .wait)) ∧
    (∃ o, ∃ s : State, ∃ x : Iss, Ready (.tlbp o) s x ∧ (fun x s => ∃ l ∈ x.ex, s.walk (x.b l % 2 ^ 16) (x.ea false 1 l) = .wait) x (x.moved s)) ∧
    (∃ o, ∃ s : State, ∃ x : Iss, Ready (.tlbi o) s x ∧ ∃ u qs, x.access (x.moved s) { routes := false, reach := false } (x.ea false 1) = .go u qs ∧ qs.map (·.l) = x.ex) ∧
    (∃ o, ∃ s : State, ∃ x : Iss, Ready (.tlbi o) s x ∧ ∃ u : State, ∃ c : Nat, ∃ d : Nat, ∃ ls : List Nat, x.access (x.moved s) { routes := false, reach := false } (x.ea false 1) = .stop (.trap u [] c d ls) ∧ x.canTrap u) ∧
    (∃ s : State, ∃ c : Nat, ∃ k, tabFind c s.cores = some k ∧ True) ∧
    (∃ o, ∃ s : State, ∃ x : Iss, Ready (.tlbi o) s x ∧ x.canTrap (x.moved s) ∧ (fun x s => x.ex ≠ [] ∧ s.atomPending x.g.core x.g.slot x.ex = false ∧ ∀ l ∈ x.ex, canonical (x.ea false 1 l) = false ∧ x.onWay l (x.ea false 1 l) = none) x (x.moved s)) ∧
    (∃ o, ∃ s : State, ∃ x : Iss, Ready (.tlbs o) s x ∧ (fun x s => x.ex ≠ [] ∧ ∀ c ∈ s.markedCores x.g.core x.pkgScope, (∀ w l, (s.thread c w l).spec = none) ∧ (s.core c).settled = true) x (x.moved s)) ∧
    (∃ o, ∃ s : State, ∃ x : Iss, Ready (.tlbs o) s x ∧ (fun x s => x.ex ≠ [] ∧ (∀ c ∈ s.markedCores x.g.core x.pkgScope, ∀ w l, (s.thread c w l).spec = none) ∧ ∃ c ∈ s.markedCores x.g.core x.pkgScope, (s.core c).settled = false) x (x.moved s)) ∧
    (∃ o, ∃ s : State, ∃ x : Iss, Ready (.pois o) s x ∧ ∃ u qs, x.access (x.moved s) { wr := true, routes := false } (x.ea false 1) = .go u qs ∧ qs.map (·.l) = x.ex ∧ (x.moved s).drained x.g.core x.g.slot = true ∧ (∀ q ∈ qs, (x.moved s).heldLoc x.g.core q.loc = false ∧ (x.moved s).recallWaits none true q.loc 1 = false) ∧ u.lcache = []) :=
  ⟨⟨⟨7, false, 16, 32, 48, 0, 0, false, false, false, 0, 0⟩, ⟨agent, ⟨iss (.tlbp ⟨7, false, 16, 32, 48, 0, 0, false, false, false, 0, 0⟩) (agent), ⟨(ready_iss (by decide +kernel)), by decide +kernel⟩⟩⟩⟩,
   ⟨⟨7, false, 16, 32, 48, 0, 0, false, false, false, 0, 0⟩, ⟨((fun s : State => { s with contexts := tabSet 2 { ptroot := 0x10000000000 } s.contexts })) ((reg 48 2) (agent)), ⟨iss (.tlbp ⟨7, false, 16, 32, 48, 0, 0, false, false, false, 0, 0⟩) (((fun s : State => { s with contexts := tabSet 2 { ptroot := 0x10000000000 } s.contexts })) ((reg 48 2) (agent))), ⟨(ready_iss (by decide +kernel)), by decide +kernel⟩⟩⟩⟩,
   ⟨⟨7, false, 16, 32, 0, 0, 0, false, false, false, 0, 3⟩, ⟨agent, ⟨iss (.tlbi ⟨7, false, 16, 32, 0, 0, 0, false, false, false, 0, 3⟩) (agent), ⟨(ready_iss (by decide +kernel)), ex_go (by decide +kernel) (by decide +kernel)⟩⟩⟩⟩,
   ⟨⟨7, false, 16, 32, 0, 0, 0, false, false, false, 0, 3⟩, ⟨(reg 32 0x100000000000000) (agent), ⟨iss (.tlbi ⟨7, false, 16, 32, 0, 0, 0, false, false, false, 0, 3⟩) ((reg 32 0x100000000000000) (agent)), ⟨(ready_iss (by decide +kernel)), ⟨(((iss (.tlbi ⟨7, false, 16, 32, 0, 0, 0, false, false, false, 0, 3⟩) ((reg 32 0x100000000000000) (agent))).moved ((reg 32 0x100000000000000) (agent))).checkList (iss (.tlbi ⟨7, false, 16, 32, 0, 0, 0, false, false, false, 0, 3⟩) ((reg 32 0x100000000000000) (agent))).agent { routes := false, reach := false } [(iss (.tlbi ⟨7, false, 16, 32, 0, 0, 0, false, false, false, 0, 3⟩) ((reg 32 0x100000000000000) (agent))).ea false 1 0]).1, ⟨8, ⟨1, ⟨[0], by decide +kernel⟩⟩⟩⟩⟩⟩⟩⟩,
   ⟨D, ⟨0, ex_some (by decide +kernel) (trivial)⟩⟩,
   ⟨⟨7, false, 16, 32, 0, 0, 0, false, false, false, 0, 3⟩, ⟨(reg 32 0x100000000000000) (agent), ⟨iss (.tlbi ⟨7, false, 16, 32, 0, 0, 0, false, false, false, 0, 3⟩) ((reg 32 0x100000000000000) (agent)), ⟨(ready_iss (by decide +kernel)), by decide +kernel⟩⟩⟩⟩,
   ⟨⟨7, false, 0, 0, 0, 0, 0, false, false, false, 0, 3⟩, ⟨(cr (fun k => { k with tlb := [{ ctx := 0, va := 0, level := 1, leaf := 0, pte := 0, draining := true, mark := [(0, false), (0, true)] }] })) (agent), ⟨iss (.tlbs ⟨7, false, 0, 0, 0, 0, 0, false, false, false, 0, 3⟩) ((cr (fun k => { k with tlb := [{ ctx := 0, va := 0, level := 1, leaf := 0, pte := 0, draining := true, mark := [(0, false), (0, true)] }] })) (agent)), ⟨(ready_iss (by decide +kernel)), ⟨by decide +kernel, fun c hc => by have h := (List.mem_singleton (a := c) (b := 0)).mp hc; subst h; exact ⟨calm (by decide +kernel), by decide +kernel⟩⟩⟩⟩⟩⟩,
   ⟨⟨7, false, 0, 0, 0, 0, 0, false, false, false, 0, 3⟩, ⟨(wv (fun w => { w with storeq := [{ slot := 0, bytes := [⟨.mem 0x100000, 1, 0⟩] }] })) ((cr (fun k => { k with tlb := [{ ctx := 0, va := 0, level := 1, leaf := 0, pte := 0, draining := true, mark := [(0, false), (0, true)] }] })) (agent)), ⟨iss (.tlbs ⟨7, false, 0, 0, 0, 0, 0, false, false, false, 0, 3⟩) ((wv (fun w => { w with storeq := [{ slot := 0, bytes := [⟨.mem 0x100000, 1, 0⟩] }] })) ((cr (fun k => { k with tlb := [{ ctx := 0, va := 0, level := 1, leaf := 0, pte := 0, draining := true, mark := [(0, false), (0, true)] }] })) (agent))), ⟨(ready_iss (by decide +kernel)), ⟨by decide +kernel, fun c hc => by have h := (List.mem_singleton (a := c) (b := 0)).mp hc; subst h; exact calm (by decide +kernel), by decide +kernel⟩⟩⟩⟩⟩,
   ⟨⟨7, false, 0, 32, 0, 0, 0, false, false, false, 0, 0⟩, ⟨(reg 32 0x80000) (agent), ⟨iss (.pois ⟨7, false, 0, 32, 0, 0, 0, false, false, false, 0, 0⟩) ((reg 32 0x80000) (agent)), ⟨(ready_iss (by decide +kernel)), ex_go (by decide +kernel) (⟨by decide +kernel, ⟨by decide +kernel, ⟨((fun q hq => by have h := List.mem_singleton.mp hq; subst h; exact ⟨by decide +kernel, by decide +kernel⟩)), by decide +kernel⟩⟩⟩)⟩⟩⟩⟩⟩
theorem test_ScratchpadMapping_met :
    (∃ o, ∃ s : State, ∃ x : Iss, Ready (.spmap o) s x ∧ x.teamed (x.moved s) ∧ x.alike (fun x l => [x.a l, x.b l, x.c l]) ∧ ((x.moved s).team (x.mine (x.moved s))).mapOk (x.f.d.toNat % 8) (x.a x.low) (x.b x.low) (x.c x.low) = true ∧ ∃ u : State, ∃ gs : List Seg, (x.moved s).rangeSegs x.agent (x.a x.low) (x.c x.low) = (u, .ok gs) ∧ u.registered (x.mine (x.moved s)) gs = false) ∧
    (∃ o, ∃ s : State, ∃ x : Iss, Ready (.spmapz o) s x ∧ x.teamed (x.moved s) ∧ x.alike (fun x l => [x.a l, x.b l, x.c l]) ∧ ((x.moved s).team (x.mine (x.moved s))).mapOk (x.f.d.toNat % 8) (x.a x.low) (x.b x.low) (x.c x.low) = true ∧ ∃ u : State, ∃ gs : List Seg, (x.moved s).rangeSegs x.agent (x.a x.low) (x.c x.low) = (u, .ok gs) ∧ u.registered (x.mine (x.moved s)) gs = false) ∧
    (∃ o, ∃ s : State, ∃ x : Iss, Ready (.spmap o) s x ∧ x.canTrap (x.moved s) ∧ (fun x s => x.teamed s ∧ x.alike (fun x l => [x.a l, x.b l, x.c l]) ∧ (s.team (x.mine s)).mapOk (x.f.d.toNat % 8) (x.a x.low) (x.b x.low) (x.c x.low) = false) x (x.moved s)) ∧
    (∃ o, ∃ s : State, ∃ x : Iss, Ready (.spmapz o) s x ∧ x.canTrap (x.moved s) ∧ (fun x s => x.teamed s ∧ x.alike (fun x l => [x.a l, x.b l, x.c l]) ∧ (s.team (x.mine s)).mapOk (x.f.d.toNat % 8) (x.a x.low) (x.b x.low) (x.c x.low) = false) x (x.moved s)) ∧
    (∃ s : State, ∃ y : Nat, (s.findTeam y).isSome = true ∧ ∃ pa : Nat, s.place pa = .mem pa ∧ ∃ m : MapEnt, ∃ o, m.locate pa = some o ∧ True) ∧
    (∃ o, ∃ s : State, ∃ x : Iss, Ready (.spclr o) s x ∧ (fun x s => x.teamed s ∧ (tabFind (x.f.d.toNat % 8) (s.team (x.mine s)).maps).isSome = true ∧ s.drained x.g.core x.g.slot = true ∧ s.backHeld x.g.core (x.mine s) (x.f.d.toNat % 8) = []) x (x.moved s)) ∧
    (∃ o, ∃ s : State, ∃ x : Iss, Ready (.spwb o) s x ∧ (fun x s => x.teamed s ∧ (tabFind (x.f.d.toNat % 8) (s.team (x.mine s)).maps).isSome = true ∧ s.drained x.g.core x.g.slot = true ∧ s.backHeld x.g.core (x.mine s) (x.f.d.toNat % 8) = []) x (x.moved s)) ∧
    (∃ o, ∃ s : State, ∃ x : Iss, Ready (.spdrop o) s x ∧ (fun x s => x.teamed s ∧ (tabFind (x.f.d.toNat % 8) (s.team (x.mine s)).maps).isSome = true ∧ s.drained x.g.core x.g.slot = true) x (x.moved s)) ∧
    (∃ o, ∃ s : State, ∃ x : Iss, Ready (.spclr o) s x ∧ x.teamed (x.moved s) ∧ (x.moved s).drained x.g.core x.g.slot = true ∧ ∃ ls : List Loc, (x.moved s).backHeld x.g.core (x.mine (x.moved s)) (x.f.d.toNat % 8) = ls ∧ ls ≠ []) ∧
    (∃ o, ∃ s : State, ∃ x : Iss, Ready (.spwb o) s x ∧ x.teamed (x.moved s) ∧ (x.moved s).drained x.g.core x.g.slot = true ∧ ∃ ls : List Loc, (x.moved s).backHeld x.g.core (x.mine (x.moved s)) (x.f.d.toNat % 8) = ls ∧ ls ≠ []) ∧
    (∃ o, ∃ s : State, ∃ x : Iss, Ready (.spclr o) s x ∧ (fun x s => x.teamed s ∧ (tabFind (x.f.d.toNat % 8) (s.team (x.mine s)).maps).isSome = true ∧ s.drained x.g.core x.g.slot = false) x (x.moved s)) :=
  ⟨⟨⟨7, false, 0, 32, 48, 64, 0, false, false, false, 0, 0⟩, ⟨(reg 64 128) ((reg 32 0x80000) (D)), ⟨iss (.spmap ⟨7, false, 0, 32, 48, 64, 0, false, false, false, 0, 0⟩) ((reg 64 128) ((reg 32 0x80000) (D))), ⟨(ready_iss (by decide +kernel)), ⟨by decide +kernel, ⟨by decide +kernel, ⟨by decide +kernel, ⟨(((iss (.spmap ⟨7, false, 0, 32, 48, 64, 0, false, false, false, 0, 0⟩) ((reg 64 128) ((reg 32 0x80000) (D)))).moved ((reg 64 128) ((reg 32 0x80000) (D)))).rangeSegs (iss (.spmap ⟨7, false, 0, 32, 48, 64, 0, false, false, false, 0, 0⟩) ((reg 64 128) ((reg 32 0x80000) (D)))).agent ((iss (.spmap ⟨7, false, 0, 32, 48, 64, 0, false, false, false, 0, 0⟩) ((reg 64 128) ((reg 32 0x80000) (D)))).a (iss (.spmap ⟨7, false, 0, 32, 48, 64, 0, false, false, false, 0, 0⟩) ((reg 64 128) ((reg 32 0x80000) (D)))).low) ((iss (.spmap ⟨7, false, 0, 32, 48, 64, 0, false, false, false, 0, 0⟩) ((reg 64 128) ((reg 32 0x80000) (D)))).c (iss (.spmap ⟨7, false, 0, 32, 48, 64, 0, false, false, false, 0, 0⟩) ((reg 64 128) ((reg 32 0x80000) (D)))).low)).1, ⟨[{ pa := 0x100000, off := 0, len := 128, leaf := 0x132F, level := 0 }], by decide +kernel⟩⟩⟩⟩⟩⟩⟩⟩⟩,
   ⟨⟨7, false, 0, 32, 48, 64, 0, false, false, false, 0, 0⟩, ⟨(reg 64 128) ((reg 32 0x80000) (D)), ⟨iss (.spmapz ⟨7, false, 0, 32, 48, 64, 0, false, false, false, 0, 0⟩) ((reg 64 128) ((reg 32 0x80000) (D))), ⟨(ready_iss (by decide +kernel)), ⟨by decide +kernel, ⟨by decide +kernel, ⟨by decide +kernel, ⟨(((iss (.spmapz ⟨7, false, 0, 32, 48, 64, 0, false, false, false, 0, 0⟩) ((reg 64 128) ((reg 32 0x80000) (D)))).moved ((reg 64 128) ((reg 32 0x80000) (D)))).rangeSegs (iss (.spmapz ⟨7, false, 0, 32, 48, 64, 0, false, false, false, 0, 0⟩) ((reg 64 128) ((reg 32 0x80000) (D)))).agent ((iss (.spmapz ⟨7, false, 0, 32, 48, 64, 0, false, false, false, 0, 0⟩) ((reg 64 128) ((reg 32 0x80000) (D)))).a (iss (.spmapz ⟨7, false, 0, 32, 48, 64, 0, false, false, false, 0, 0⟩) ((reg 64 128) ((reg 32 0x80000) (D)))).low) ((iss (.spmapz ⟨7, false, 0, 32, 48, 64, 0, false, false, false, 0, 0⟩) ((reg 64 128) ((reg 32 0x80000) (D)))).c (iss (.spmapz ⟨7, false, 0, 32, 48, 64, 0, false, false, false, 0, 0⟩) ((reg 64 128) ((reg 32 0x80000) (D)))).low)).1, ⟨[{ pa := 0x100000, off := 0, len := 128, leaf := 0x132F, level := 0 }], by decide +kernel⟩⟩⟩⟩⟩⟩⟩⟩⟩,
   ⟨⟨7, false, 0, 32, 48, 64, 0, false, false, false, 0, 0⟩, ⟨D, ⟨iss (.spmap ⟨7, false, 0, 32, 48, 64, 0, false, false, false, 0, 0⟩) (D), ⟨(ready_iss (by decide +kernel)), by decide +kernel⟩⟩⟩⟩,
   ⟨⟨7, false, 0, 32, 48, 64, 0, false, false, false, 0, 0⟩, ⟨D, ⟨iss (.spmapz ⟨7, false, 0, 32, 48, 64, 0, false, false, false, 0, 0⟩) (D), ⟨(ready_iss (by decide +kernel)), by decide +kernel⟩⟩⟩⟩,
   ⟨D, ⟨1, ⟨by decide +kernel, ⟨0x100000, ⟨by decide +kernel, ⟨({ va := 0x80000, off := 0, len := 128, zero := false, segs := [{ pa := 0x100000, off := 0, len := 128 }], filled := [0], dirty := [0] } : MapEnt), ex_some (by decide +kernel) (trivial)⟩⟩⟩⟩⟩⟩,
   ⟨⟨7, false, 0, 0, 0, 0, 0, false, false, false, 0, 0⟩, ⟨(tm (fun t => { t with maps := [(0, { va := 0x80000, off := 0, len := 128, zero := false, segs := [{ pa := 0x100000, off := 0, len := 128 }], filled := [0], dirty := [0] })] })) (D), ⟨iss (.spclr ⟨7, false, 0, 0, 0, 0, 0, false, false, false, 0, 0⟩) ((tm (fun t => { t with maps := [(0, { va := 0x80000, off := 0, len := 128, zero := false, segs := [{ pa := 0x100000, off := 0, len := 128 }], filled := [0], dirty := [0] })] })) (D)), ⟨(ready_iss (by decide +kernel)), by decide +kernel⟩⟩⟩⟩,
   ⟨⟨7, false, 0, 0, 0, 0, 0, false, false, false, 0, 0⟩, ⟨(tm (fun t => { t with maps := [(0, { va := 0x80000, off := 0, len := 128, zero := false, segs := [{ pa := 0x100000, off := 0, len := 128 }], filled := [0], dirty := [0] })] })) (D), ⟨iss (.spwb ⟨7, false, 0, 0, 0, 0, 0, false, false, false, 0, 0⟩) ((tm (fun t => { t with maps := [(0, { va := 0x80000, off := 0, len := 128, zero := false, segs := [{ pa := 0x100000, off := 0, len := 128 }], filled := [0], dirty := [0] })] })) (D)), ⟨(ready_iss (by decide +kernel)), by decide +kernel⟩⟩⟩⟩,
   ⟨⟨7, false, 0, 0, 0, 0, 0, false, false, false, 0, 0⟩, ⟨(tm (fun t => { t with maps := [(0, { va := 0x80000, off := 0, len := 128, zero := false, segs := [{ pa := 0x100000, off := 0, len := 128 }], filled := [0], dirty := [0] })] })) (D), ⟨iss (.spdrop ⟨7, false, 0, 0, 0, 0, 0, false, false, false, 0, 0⟩) ((tm (fun t => { t with maps := [(0, { va := 0x80000, off := 0, len := 128, zero := false, segs := [{ pa := 0x100000, off := 0, len := 128 }], filled := [0], dirty := [0] })] })) (D)), ⟨(ready_iss (by decide +kernel)), by decide +kernel⟩⟩⟩⟩,
   ⟨⟨7, false, 0, 0, 0, 0, 0, false, false, false, 0, 0⟩, ⟨((fun s : State => { s with holds := [{ line := 0x2000, core := 1, expiry := 1000 }] })) ((tm (fun t => { t with maps := [(0, { va := 0x80000, off := 0, len := 128, zero := false, segs := [{ pa := 0x100000, off := 0, len := 128 }], filled := [0], dirty := [0] })] })) (D)), ⟨iss (.spclr ⟨7, false, 0, 0, 0, 0, 0, false, false, false, 0, 0⟩) (((fun s : State => { s with holds := [{ line := 0x2000, core := 1, expiry := 1000 }] })) ((tm (fun t => { t with maps := [(0, { va := 0x80000, off := 0, len := 128, zero := false, segs := [{ pa := 0x100000, off := 0, len := 128 }], filled := [0], dirty := [0] })] })) (D))), ⟨(ready_iss (by decide +kernel)), ⟨by decide +kernel, ⟨by decide +kernel, ⟨[.mem 0x100000], by decide +kernel⟩⟩⟩⟩⟩⟩⟩,
   ⟨⟨7, false, 0, 0, 0, 0, 0, false, false, false, 0, 0⟩, ⟨((fun s : State => { s with holds := [{ line := 0x2000, core := 1, expiry := 1000 }] })) ((tm (fun t => { t with maps := [(0, { va := 0x80000, off := 0, len := 128, zero := false, segs := [{ pa := 0x100000, off := 0, len := 128 }], filled := [0], dirty := [0] })] })) (D)), ⟨iss (.spwb ⟨7, false, 0, 0, 0, 0, 0, false, false, false, 0, 0⟩) (((fun s : State => { s with holds := [{ line := 0x2000, core := 1, expiry := 1000 }] })) ((tm (fun t => { t with maps := [(0, { va := 0x80000, off := 0, len := 128, zero := false, segs := [{ pa := 0x100000, off := 0, len := 128 }], filled := [0], dirty := [0] })] })) (D))), ⟨(ready_iss (by decide +kernel)), ⟨by decide +kernel, ⟨by decide +kernel, ⟨[.mem 0x100000], by decide +kernel⟩⟩⟩⟩⟩⟩⟩,
   ⟨⟨7, false, 0, 0, 0, 0, 0, false, false, false, 0, 0⟩, ⟨(wv (fun w => { w with storeq := [{ slot := 0, bytes := [⟨.mem 0x100000, 1, 0⟩] }] })) ((tm (fun t => { t with maps := [(0, { va := 0x80000, off := 0, len := 128, zero := false, segs := [{ pa := 0x100000, off := 0, len := 128 }], filled := [0], dirty := [0] })] })) (D)), ⟨iss (.spclr ⟨7, false, 0, 0, 0, 0, 0, false, false, false, 0, 0⟩) ((wv (fun w => { w with storeq := [{ slot := 0, bytes := [⟨.mem 0x100000, 1, 0⟩] }] })) ((tm (fun t => { t with maps := [(0, { va := 0x80000, off := 0, len := 128, zero := false, segs := [{ pa := 0x100000, off := 0, len := 128 }], filled := [0], dirty := [0] })] })) (D))), ⟨(ready_iss (by decide +kernel)), by decide +kernel⟩⟩⟩⟩⟩
theorem test_ScratchpadMapping_met2 :
    (∃ o, ∃ s : State, ∃ x : Iss, Ready (.spwb o) s x ∧ (fun x s => x.teamed s ∧ (tabFind (x.f.d.toNat % 8) (s.team (x.mine s)).maps).isSome = true ∧ s.drained x.g.core x.g.slot = false) x (x.moved s)) ∧
    (∃ o, ∃ s : State, ∃ x : Iss, Ready (.spdrop o) s x ∧ (fun x s => x.teamed s ∧ (tabFind (x.f.d.toNat % 8) (s.team (x.mine s)).maps).isSome = true ∧ s.drained x.g.core x.g.slot = false) x (x.moved s)) ∧
    (∃ o, ∃ s : State, ∃ x : Iss, Ready (.spclr o) s x ∧ (fun x s => x.teamed s ∧ tabFind (x.f.d.toNat % 8) (s.team (x.mine s)).maps = none) x (x.moved s)) ∧
    (∃ o, ∃ s : State, ∃ x : Iss, Ready (.spwb o) s x ∧ (fun x s => x.teamed s ∧ tabFind (x.f.d.toNat % 8) (s.team (x.mine s)).maps = none) x (x.moved s)) ∧
    (∃ o, ∃ s : State, ∃ x : Iss, Ready (.spdrop o) s x ∧ (fun x s => x.teamed s ∧ tabFind (x.f.d.toNat % 8) (s.team (x.mine s)).maps = none) x (x.moved s)) ∧
    (∃ s : State, ∃ y : Nat, ∃ e : Nat, ∃ m, tabFind e (s.team y).maps = some m ∧ s.lcache = []) ∧
    (∃ s : State, ∃ y : Nat, (s.findTeam y).isSome = true ∧ ∃ e : Nat, tabFind e (s.team y).maps = some ({ va := 0x80000, off := 0, len := 128, zero := false, segs := [{ pa := 0x100000, off := 0, len := 128 }], filled := [0], dirty := [0] } : MapEnt)) ∧
    (∃ s : State, ∃ y : Nat, (s.findTeam y).isSome = true ∧ ∃ e : Nat, tabFind e (s.team y).maps = some ({ va := 0x80000, off := 0, len := 128, zero := false, segs := [{ pa := 0x100000, off := 0, len := 128 }], filled := [0], dirty := [0] } : MapEnt)) ∧
    (∃ s : State, ∃ y : Nat, (s.findTeam y).isSome = true ∧ ∃ e : Nat, tabFind e (s.team y).maps = none ∧ ∃ pa : Nat, s.place pa = .mem pa) ∧
    (∃ s : State, ∃ y : Nat, (s.findTeam y).isSome = true ∧ ∃ e : Nat, tabFind e (s.team y).maps = none ∧ ∃ pa : Nat, s.place pa = .mem pa) :=
  ⟨⟨⟨7, false, 0, 0, 0, 0, 0, false, false, false, 0, 0⟩, ⟨(wv (fun w => { w with storeq := [{ slot := 0, bytes := [⟨.mem 0x100000, 1, 0⟩] }] })) ((tm (fun t => { t with maps := [(0, { va := 0x80000, off := 0, len := 128, zero := false, segs := [{ pa := 0x100000, off := 0, len := 128 }], filled := [0], dirty := [0] })] })) (D)), ⟨iss (.spwb ⟨7, false, 0, 0, 0, 0, 0, false, false, false, 0, 0⟩) ((wv (fun w => { w with storeq := [{ slot := 0, bytes := [⟨.mem 0x100000, 1, 0⟩] }] })) ((tm (fun t => { t with maps := [(0, { va := 0x80000, off := 0, len := 128, zero := false, segs := [{ pa := 0x100000, off := 0, len := 128 }], filled := [0], dirty := [0] })] })) (D))), ⟨(ready_iss (by decide +kernel)), by decide +kernel⟩⟩⟩⟩,
   ⟨⟨7, false, 0, 0, 0, 0, 0, false, false, false, 0, 0⟩, ⟨(wv (fun w => { w with storeq := [{ slot := 0, bytes := [⟨.mem 0x100000, 1, 0⟩] }] })) ((tm (fun t => { t with maps := [(0, { va := 0x80000, off := 0, len := 128, zero := false, segs := [{ pa := 0x100000, off := 0, len := 128 }], filled := [0], dirty := [0] })] })) (D)), ⟨iss (.spdrop ⟨7, false, 0, 0, 0, 0, 0, false, false, false, 0, 0⟩) ((wv (fun w => { w with storeq := [{ slot := 0, bytes := [⟨.mem 0x100000, 1, 0⟩] }] })) ((tm (fun t => { t with maps := [(0, { va := 0x80000, off := 0, len := 128, zero := false, segs := [{ pa := 0x100000, off := 0, len := 128 }], filled := [0], dirty := [0] })] })) (D))), ⟨(ready_iss (by decide +kernel)), by decide +kernel⟩⟩⟩⟩,
   ⟨⟨7, false, 0, 0, 0, 0, 0, false, false, false, 0, 0⟩, ⟨D, ⟨iss (.spclr ⟨7, false, 0, 0, 0, 0, 0, false, false, false, 0, 0⟩) (D), ⟨(ready_iss (by decide +kernel)), by decide +kernel⟩⟩⟩⟩,
   ⟨⟨7, false, 0, 0, 0, 0, 0, false, false, false, 0, 0⟩, ⟨D, ⟨iss (.spwb ⟨7, false, 0, 0, 0, 0, 0, false, false, false, 0, 0⟩) (D), ⟨(ready_iss (by decide +kernel)), by decide +kernel⟩⟩⟩⟩,
   ⟨⟨7, false, 0, 0, 0, 0, 0, false, false, false, 0, 0⟩, ⟨D, ⟨iss (.spdrop ⟨7, false, 0, 0, 0, 0, 0, false, false, false, 0, 0⟩) (D), ⟨(ready_iss (by decide +kernel)), by decide +kernel⟩⟩⟩⟩,
   ⟨(tm (fun t => { t with maps := [(0, { va := 0x80000, off := 0, len := 128, zero := false, segs := [{ pa := 0x100000, off := 0, len := 128 }], filled := [0], dirty := [0] })] })) (D), ⟨1, ⟨0, ex_some (by decide +kernel) (by decide +kernel)⟩⟩⟩,
   ⟨(tm (fun t => { t with maps := [(0, { va := 0x80000, off := 0, len := 128, zero := false, segs := [{ pa := 0x100000, off := 0, len := 128 }], filled := [0], dirty := [0] })] })) (D), ⟨1, ⟨by decide +kernel, ⟨0, by decide +kernel⟩⟩⟩⟩,
   ⟨(tm (fun t => { t with maps := [(0, { va := 0x80000, off := 0, len := 128, zero := false, segs := [{ pa := 0x100000, off := 0, len := 128 }], filled := [0], dirty := [0] })] })) (D), ⟨1, ⟨by decide +kernel, ⟨0, by decide +kernel⟩⟩⟩⟩,
   ⟨D, ⟨1, ⟨by decide +kernel, ⟨0, ⟨by decide +kernel, ⟨0x200000, by decide +kernel⟩⟩⟩⟩⟩⟩,
   ⟨D, ⟨1, ⟨by decide +kernel, ⟨0, ⟨by decide +kernel, ⟨0x200000, by decide +kernel⟩⟩⟩⟩⟩⟩⟩
theorem test_TileSlotAccesses_met :
    (∃ o, ∃ s : State, ∃ x : Iss, Ready (.ldts o) s x ∧ (fun x s => x.teamed s ∧ ((s.team (x.mine s)).tslot x.slotNo).st = .ready ∧ ∀ l ∈ x.ex, x.a l % memBytes x.f.ty = 0 ∧ x.a l + memBytes x.f.ty ≤ ((s.team (x.mine s)).tslot x.slotNo).len ∧ (s.team (x.mine s)).bufPoison ((((s.team (x.mine s)).tslot x.slotNo).base).getD 0 + x.a l) (memBytes x.f.ty) = false) x (x.moved s)) ∧
    (∃ o, ∃ s : State, ∃ x : Iss, Ready (.stts o) s x ∧ (fun x s => x.teamed s ∧ ((s.team (x.mine s)).tslot x.slotNo).st = .ready ∧ ∀ l ∈ x.ex, x.a l % memBytes x.f.ty = 0 ∧ x.a l + memBytes x.f.ty ≤ ((s.team (x.mine s)).tslot x.slotNo).len ∧ s.slotReaders x.g.core (x.mine s) (x.since s l) ((((s.team (x.mine s)).tslot x.slotNo).base).getD 0 + x.a l) ((((s.team (x.mine s)).tslot x.slotNo).base).getD 0 + x.a l + memBytes x.f.ty) = false) x (x.moved s)) ∧
    (∃ o, ∃ s : State, ∃ x : Iss, Ready (.ldts o) s x ∧ x.canTrap (x.moved s) ∧ (fun x s => x.teamed s ∧ ((s.team (x.mine s)).tslot x.slotNo).st = .ready ∧ ∃ l ∈ x.ex, x.a l % memBytes x.f.ty ≠ 0) x (x.moved s)) ∧
    (∃ o, ∃ s : State, ∃ x : Iss, Ready (.stts o) s x ∧ x.canTrap (x.moved s) ∧ (fun x s => x.teamed s ∧ ((s.team (x.mine s)).tslot x.slotNo).st = .ready ∧ ∃ l ∈ x.ex, x.a l % memBytes x.f.ty ≠ 0) x (x.moved s)) ∧
    (∃ o, ∃ s : State, ∃ x : Iss, Ready (.ldts o) s x ∧ x.canTrap (x.moved s) ∧ ∃ k : Nat, (fun x s => x.teamed s ∧ ((s.team (x.mine s)).tslot x.slotNo).st = .ready ∧ ((s.team (x.mine s)).tslot x.slotNo).len = k ∧ (∀ l ∈ x.ex, x.a l % memBytes x.f.ty = 0) ∧ ∃ l ∈ x.ex, k < x.a l + memBytes x.f.ty) x (x.moved s)) ∧
    (∃ o, ∃ s : State, ∃ x : Iss, Ready (.stts o) s x ∧ x.canTrap (x.moved s) ∧ ∃ k : Nat, (fun x s => x.teamed s ∧ ((s.team (x.mine s)).tslot x.slotNo).st = .ready ∧ ((s.team (x.mine s)).tslot x.slotNo).len = k ∧ (∀ l ∈ x.ex, x.a l % memBytes x.f.ty = 0) ∧ ∃ l ∈ x.ex, k < x.a l + memBytes x.f.ty) x (x.moved s)) ∧
    (∃ o, ∃ s : State, ∃ x : Iss, Ready (.ldts o) s x ∧ (fun x s => x.teamed s ∧ ((s.team (x.mine s)).tslot x.slotNo).st ≠ .ready) x (x.moved s)) ∧
    (∃ o, ∃ s : State, ∃ x : Iss, Ready (.stts o) s x ∧ (fun x s => x.teamed s ∧ ((s.team (x.mine s)).tslot x.slotNo).st ≠ .ready) x (x.moved s)) ∧
    (∃ o, ∃ s : State, ∃ x : Iss, Ready (.tsfree o) s x ∧ (fun x s => x.teamed s ∧ ((s.team (x.mine s)).tslot x.slotNo).st = .ready) x (x.moved s)) ∧
    (∃ o, ∃ s : State, ∃ x : Iss, Ready (.tsfree o) s x ∧ (fun x s => x.teamed s ∧ ((s.team (x.mine s)).tslot x.slotNo).st = .empty) x (x.moved s)) ∧
    (∃ o, ∃ s : State, ∃ x : Iss, Ready (.tsfree o) s x ∧ (fun x s => x.teamed s ∧ (((s.team (x.mine s)).tslot x.slotNo).st = .filling ∨ ((s.team (x.mine s)).tslot x.slotNo).st = .draining)) x (x.moved s)) ∧
    (∃ o, ∃ s : State, ∃ x : Iss, Ready (.tsstat o) s x ∧ (fun x s => (s.weave x.g.core x.g.slot).team.isSome = true) x (x.moved s)) :=
  ⟨⟨⟨7, false, 16, 32, 48, 0, 0, false, false, false, 0, 0⟩, ⟨(tm (fun t => { t with tslots := [(48, { st := .ready, base := some 0, len := 16384 })] })) (D), ⟨iss (.ldts ⟨7, false, 16, 32, 48, 0, 0, false, false, false, 0, 0⟩) ((tm (fun t => { t with tslots := [(48, { st := .ready, base := some 0, len := 16384 })] })) (D)), ⟨(ready_iss (by decide +kernel)), by decide +kernel⟩⟩⟩⟩,
   ⟨⟨7, false, 0, 32, 48, 64, 0, false, false, false, 0, 0⟩, ⟨(tm (fun t => { t with tslots := [(48, { st := .ready, base := some 0, len := 16384 })] })) (D), ⟨iss (.stts ⟨7, false, 0, 32, 48, 64, 0, false, false, false, 0, 0⟩) ((tm (fun t => { t with tslots := [(48, { st := .ready, base := some 0, len := 16384 })] })) (D)), ⟨(ready_iss (by decide +kernel)), by decide +kernel⟩⟩⟩⟩,
   ⟨⟨7, false, 16, 32, 48, 0, 0, false, false, false, 2, 0⟩, ⟨(tm (fun t => { t with tslots := [(48, { st := .ready, base := some 0, len := 16384 })] })) ((reg 32 1) (D)), ⟨iss (.ldts ⟨7, false, 16, 32, 48, 0, 0, false, false, false, 2, 0⟩) ((tm (fun t => { t with tslots := [(48, { st := .ready, base := some 0, len := 16384 })] })) ((reg 32 1) (D))), ⟨(ready_iss (by decide +kernel)), by decide +kernel⟩⟩⟩⟩,
   ⟨⟨7, false, 0, 32, 48, 64, 0, false, false, false, 2, 0⟩, ⟨(tm (fun t => { t with tslots := [(48, { st := .ready, base := some 0, len := 16384 })] })) ((reg 32 1) (D)), ⟨iss (.stts ⟨7, false, 0, 32, 48, 64, 0, false, false, false, 2, 0⟩) ((tm (fun t => { t with tslots := [(48, { st := .ready, base := some 0, len := 16384 })] })) ((reg 32 1) (D))), ⟨(ready_iss (by decide +kernel)), by decide +kernel⟩⟩⟩⟩,
   ⟨⟨7, false, 16, 32, 48, 0, 0, false, false, false, 0, 0⟩, ⟨(tm (fun t => { t with tslots := [(48, { st := .ready, base := some 0, len := 16384 })] })) ((reg 32 16384) (D)), ⟨iss (.ldts ⟨7, false, 16, 32, 48, 0, 0, false, false, false, 0, 0⟩) ((tm (fun t => { t with tslots := [(48, { st := .ready, base := some 0, len := 16384 })] })) ((reg 32 16384) (D))), ⟨(ready_iss (by decide +kernel)), ⟨by decide +kernel, ⟨16384, by decide +kernel⟩⟩⟩⟩⟩⟩,
   ⟨⟨7, false, 0, 32, 48, 64, 0, false, false, false, 0, 0⟩, ⟨(tm (fun t => { t with tslots := [(48, { st := .ready, base := some 0, len := 16384 })] })) ((reg 32 16384) (D)), ⟨iss (.stts ⟨7, false, 0, 32, 48, 64, 0, false, false, false, 0, 0⟩) ((tm (fun t => { t with tslots := [(48, { st := .ready, base := some 0, len := 16384 })] })) ((reg 32 16384) (D))), ⟨(ready_iss (by decide +kernel)), ⟨by decide +kernel, ⟨16384, by decide +kernel⟩⟩⟩⟩⟩⟩,
   ⟨⟨7, false, 16, 32, 48, 0, 0, false, false, false, 0, 0⟩, ⟨D, ⟨iss (.ldts ⟨7, false, 16, 32, 48, 0, 0, false, false, false, 0, 0⟩) (D), ⟨(ready_iss (by decide +kernel)), by decide +kernel⟩⟩⟩⟩,
   ⟨⟨7, false, 0, 32, 48, 64, 0, false, false, false, 0, 0⟩, ⟨D, ⟨iss (.stts ⟨7, false, 0, 32, 48, 64, 0, false, false, false, 0, 0⟩) (D), ⟨(ready_iss (by decide +kernel)), by decide +kernel⟩⟩⟩⟩,
   ⟨⟨7, false, 0, 0, 48, 0, 0, false, false, false, 0, 0⟩, ⟨(tm (fun t => { t with tslots := [(48, { st := .ready, base := some 0, len := 16384 })] })) (D), ⟨iss (.tsfree ⟨7, false, 0, 0, 48, 0, 0, false, false, false, 0, 0⟩) ((tm (fun t => { t with tslots := [(48, { st := .ready, base := some 0, len := 16384 })] })) (D)), ⟨(ready_iss (by decide +kernel)), by decide +kernel⟩⟩⟩⟩,
   ⟨⟨7, false, 0, 0, 48, 0, 0, false, false, false, 0, 0⟩, ⟨D, ⟨iss (.tsfree ⟨7, false, 0, 0, 48, 0, 0, false, false, false, 0, 0⟩) (D), ⟨(ready_iss (by decide +kernel)), by decide +kernel⟩⟩⟩⟩,
   ⟨⟨7, false, 0, 0, 48, 0, 0, false, false, false, 0, 0⟩, ⟨(tm (fun t => { t with tslots := [(48, { st := .filling, base := some 0, len := 16384 })] })) (D), ⟨iss (.tsfree ⟨7, false, 0, 0, 48, 0, 0, false, false, false, 0, 0⟩) ((tm (fun t => { t with tslots := [(48, { st := .filling, base := some 0, len := 16384 })] })) (D)), ⟨(ready_iss (by decide +kernel)), by decide +kernel⟩⟩⟩⟩,
   ⟨⟨7, false, 16, 0, 48, 0, 0, false, false, false, 0, 0⟩, ⟨D, ⟨iss (.tsstat ⟨7, false, 16, 0, 48, 0, 0, false, false, false, 0, 0⟩) (D), ⟨(ready_iss (by decide +kernel)), by decide +kernel⟩⟩⟩⟩⟩
theorem test_TileHandlesOpenSplitClose_met :
    (∃ o, ∃ s : State, ∃ x : Iss, Ready (.thopen o) s x ∧ x.teamed (x.moved s) ∧ x.alike (fun x l => [x.a l]) ∧ (((x.moved s).team (x.mine (x.moved s))).handle (x.f.b.toNat % 16)).opened = false ∧ x.outrun (x.moved s) (x.mine (x.moved s)) (x.f.b.toNat % 16) = false ∧ (x.moved s).atomPending x.g.core x.g.slot x.ex = false ∧ ∃ loc : Loc, ∃ leaf : Nat, ∃ u, x.checkOnce (x.moved s) { rd := true, align := 64, size := 64 } (x.ea false 64 x.low) = (u, .ok loc leaf) ∧ let v := u.prepLoad x.g.core x.g.slot { l := x.low, ea := x.ea false 64 x.low, loc := loc, leaf := leaf } 64 true; v.anyPoison (loc.span 64) = false ∧ ∃ d, tileOfWords ((List.range 8).map (fun i => v.seen x.g.core x.g.slot x.low (loc.add (8 * i)) 8)) = some d) ∧
    (∃ o, ∃ s : State, ∃ x : Iss, Ready (.thopen o) s x ∧ x.canTrap (x.moved s) ∧ (fun x s => x.teamed s ∧ x.alike (fun x l => [x.a l]) ∧ ((s.team (x.mine s)).handle (x.f.b.toNat % 16)).opened = true ∧ x.outrun s (x.mine s) (x.f.b.toNat % 16) = false) x (x.moved s)) ∧
    (∃ o, ∃ s : State, ∃ x : Iss, Ready (.thopen o) s x ∧ (fun x s => x.teamed s ∧ x.alike (fun x l => [x.a l]) ∧ x.outrun s (x.mine s) (x.f.b.toNat % 16) = true) x (x.moved s)) ∧
    (∃ o, ∃ s : State, ∃ x : Iss, Ready (.thdesc o) s x ∧ x.teamed (x.moved s) ∧ x.alike (fun x l => [x.d l, x.a l]) ∧ ((x.moved s).team (x.mine (x.moved s))).handleBad (x.d x.low) = none ∧ x.outrun (x.moved s) (x.mine (x.moved s)) (x.d x.low % 16) = false ∧ (x.moved s).atomPending x.g.core x.g.slot x.ex = false ∧ ∃ loc, ∃ leaf : Nat, ∃ u, x.checkOnce (x.moved s) { wr := true, align := 64, size := 64 } (x.ea false 64 x.low) = (u, .ok loc leaf) ∧ let words := tileWords (((x.moved s).team (x.mine (x.moved s))).handle (x.d x.low % 16)).desc; ∃ v ls, x.store u false 64 [{ lane := { l := x.low, ea := x.ea false 64 x.low, loc := loc, leaf := leaf }, bytes := ((words.map (leBytes 8)).flatten.zipIdx).map (fun b => { loc := loc.add b.2, val := b.1, lane := x.low }) }] = some (v, ls) ∧ True) ∧
    (∃ ws : List Nat, ws.length = 8 ∧ (∀ w ∈ ws, w < 2 ^ 64) ∧ ∃ d, tileOfWords ws = some d ∧ True) ∧
    (∃ o, ∃ s : State, ∃ x : Iss, Ready (.thsplit o) s x ∧ (fun x s => x.teamed s ∧ x.alike (fun x l => [x.a l, x.b l]) ∧ (s.team (x.mine s)).handleBad (x.a x.low) = none ∧ x.outrun s (x.mine s) (x.a x.low % 16) = false ∧ 0 < x.b x.low ∧ x.b x.low < ((s.team (x.mine s)).handle (x.a x.low % 16)).desc.ext.getD (((s.team (x.mine s)).handle (x.a x.low % 16)).desc.ext.length - 1) 0 ∧ x.outrun s (x.mine s) (x.f.c.toNat % 16) = false ∧ ((s.team (x.mine s)).handle (x.f.c.toNat % 16)).opened = false ∧ ∀ k ∈ (x.splitIn s).2, (x.splitIn s).1.trimWaits k = false) x (x.moved s)) ∧
    (∃ o, ∃ s : State, ∃ x : Iss, Ready (.thsplit o) s x ∧ (fun x s => x.teamed s ∧ x.alike (fun x l => [x.a l, x.b l]) ∧ (s.team (x.mine s)).handleBad (x.a x.low) = none ∧ x.outrun s (x.mine s) (x.a x.low % 16) = false ∧ 0 < x.b x.low ∧ x.b x.low < ((s.team (x.mine s)).handle (x.a x.low % 16)).desc.ext.getD (((s.team (x.mine s)).handle (x.a x.low % 16)).desc.ext.length - 1) 0 ∧ x.outrun s (x.mine s) (x.f.c.toNat % 16) = false ∧ ((s.team (x.mine s)).handle (x.f.c.toNat % 16)).opened = false ∧ ∀ k ∈ (x.splitIn s).2, ((x.splitIn s).1.dirs.filter (fun d => d.slice = k)).length ≤ 64) x (x.moved s)) ∧
    (∃ h : Handle, 0 < h.desc.ext.length ∧ ∃ idx : List Nat, idx.length = h.desc.ext.length ∧ (∀ p ∈ h.pieces, p.length = h.desc.ext.length)) ∧
    (∃ o, ∃ s : State, ∃ x : Iss, Ready (.threl o) s x ∧ (fun x s => x.teamed s ∧ x.alike (fun x l => [x.a l]) ∧ (s.team (x.mine s)).handleBad (x.a x.low) = none ∧ x.outrun s (x.mine s) (x.a x.low % 16) = false ∧ s.drained x.g.core x.g.slot = true ∧ s.atomPending x.g.core x.g.slot x.ex = false ∧ (((s.team (x.mine s)).handle (x.a x.low % 16)).mode ≠ 0 → s.boundBusy x.g.core (x.mine s) (x.a x.low % 16) = false)) x (x.moved s)) ∧
    (∃ o, ∃ s : State, ∃ x : Iss, Ready (.thdown o) s x ∧ (fun x s => x.teamed s ∧ x.alike (fun x l => [x.a l]) ∧ (s.team (x.mine s)).handleBad (x.a x.low) = none ∧ x.outrun s (x.mine s) (x.a x.low % 16) = false ∧ s.drained x.g.core x.g.slot = true ∧ s.atomPending x.g.core x.g.slot x.ex = false ∧ (((s.team (x.mine s)).handle (x.a x.low % 16)).mode ≠ 0 → s.boundBusy x.g.core (x.mine s) (x.a x.low % 16) = false)) x (x.moved s)) ∧
    (∃ o, ∃ s : State, ∃ x : Iss, Ready (.thwb o) s x ∧ (fun x s => x.teamed s ∧ x.alike (fun x l => [x.a l]) ∧ (s.team (x.mine s)).handleBad (x.a x.low) = none ∧ x.outrun s (x.mine s) (x.a x.low % 16) = false ∧ s.drained x.g.core x.g.slot = true ∧ s.atomPending x.g.core x.g.slot x.ex = false ∧ (((s.team (x.mine s)).handle (x.a x.low % 16)).mode ≠ 0 → s.boundBusy x.g.core (x.mine s) (x.a x.low % 16) = false)) x (x.moved s)) ∧
    (∃ o, ∃ s : State, ∃ x : Iss, Ready (.thclose o) s x ∧ (fun x s => x.teamed s ∧ x.alike (fun x l => [x.a l]) ∧ (s.team (x.mine s)).handleBad (x.a x.low) = none ∧ x.outrun s (x.mine s) (x.a x.low % 16) = false ∧ s.drained x.g.core x.g.slot = true ∧ s.atomPending x.g.core x.g.slot x.ex = false ∧ (((s.team (x.mine s)).handle (x.a x.low % 16)).mode ≠ 0 → s.boundBusy x.g.core (x.mine s) (x.a x.low % 16) = false) ∧ ∀ k ∈ (s.team (x.mine s)).boundSlots (x.a x.low % 16), ((s.team (x.mine s)).tslot k).moving = false) x (x.moved s)) ∧
    (∃ o, ∃ s : State, ∃ x : Iss, Ready (.threl o) s x ∧ (fun x s => x.teamed s ∧ x.alike (fun x l => [x.a l]) ∧ (s.team (x.mine s)).handleBad (x.a x.low) = none ∧ x.outrun s (x.mine s) (x.a x.low % 16) = false ∧ (s.drained x.g.core x.g.slot = false ∨ s.atomPending x.g.core x.g.slot x.ex = true ∨ ((s.team (x.mine s)).handle (x.a x.low % 16)).mode ≠ 0 ∧ s.boundBusy x.g.core (x.mine s) (x.a x.low % 16) = true)) x (x.moved s)) ∧
    (∃ o, ∃ s : State, ∃ x : Iss, Ready (.thdown o) s x ∧ (fun x s => x.teamed s ∧ x.alike (fun x l => [x.a l]) ∧ (s.team (x.mine s)).handleBad (x.a x.low) = none ∧ x.outrun s (x.mine s) (x.a x.low % 16) = false ∧ (s.drained x.g.core x.g.slot = false ∨ s.atomPending x.g.core x.g.slot x.ex = true ∨ ((s.team (x.mine s)).handle (x.a x.low % 16)).mode ≠ 0 ∧ s.boundBusy x.g.core (x.mine s) (x.a x.low % 16) = true)) x (x.moved s)) :=
  ⟨⟨⟨7, false, 16, 32, 0, 0, 0, false, false, false, 0, 0⟩, ⟨((fun s : State => (tileWords { base := 0x80000, esz := 2, ext := [4], stride := [4] }).zipIdx.foldl (fun s w => s.poke (0x100000 + 8 * w.2) 8 w.1) s)) ((tm (fun t => { t with maps := [(0, { va := 0x80000, off := 0, len := 128, zero := false, segs := [{ pa := 0x100000, off := 0, len := 128 }], filled := [], dirty := [] })] })) ((reg 32 0x80000) (D))), ⟨iss (.thopen ⟨7, false, 16, 32, 0, 0, 0, false, false, false, 0, 0⟩) (((fun s : State => (tileWords { base := 0x80000, esz := 2, ext := [4], stride := [4] }).zipIdx.foldl (fun s w => s.poke (0x100000 + 8 * w.2) 8 w.1) s)) ((tm (fun t => { t with maps := [(0, { va := 0x80000, off := 0, len := 128, zero := false, segs := [{ pa := 0x100000, off := 0, len := 128 }], filled := [], dirty := [] })] })) ((reg 32 0x80000) (D)))), ⟨(ready_iss (by decide +kernel)), ⟨by decide +kernel, ⟨by decide +kernel, ⟨by decide +kernel, ⟨by decide +kernel, ⟨by decide +kernel, ⟨.spad 1 0, ⟨0, ex_chk (by decide +kernel) (⟨by decide +kernel, ⟨{ base := 0x80000, esz := 2, ext := [4], stride := [4] }, by decide +kernel⟩⟩)⟩⟩⟩⟩⟩⟩⟩⟩⟩⟩⟩,
   ⟨⟨7, false, 16, 32, 0, 0, 0, false, false, false, 0, 0⟩, ⟨(tm (fun t => { t with handles := [(0, { opened := true, desc := { base := 0x80000, esz := 2, ext := [4], stride := [4] } })] })) (D), ⟨iss (.thopen ⟨7, false, 16, 32, 0, 0, 0, false, false, false, 0, 0⟩) ((tm (fun t => { t with handles := [(0, { opened := true, desc := { base := 0x80000, esz := 2, ext := [4], stride := [4] } })] })) (D)), ⟨(ready_iss (by decide +kernel)), by decide +kernel⟩⟩⟩⟩,
   ⟨⟨7, false, 16, 32, 0, 0, 0, false, false, false, 0, 0⟩, ⟨((fun s : State => { s with dirReqs := [{ core := 0, slot := 1, pc := 0x108, team := 1, handle := 0, write := false, pages := [{ va := 0x80000, pa := 0x100000, bits := 19 }] }] })) (D), ⟨iss (.thopen ⟨7, false, 16, 32, 0, 0, 0, false, false, false, 0, 0⟩) (((fun s : State => { s with dirReqs := [{ core := 0, slot := 1, pc := 0x108, team := 1, handle := 0, write := false, pages := [{ va := 0x80000, pa := 0x100000, bits := 19 }] }] })) (D)), ⟨(ready_iss (by decide +kernel)), by decide +kernel⟩⟩⟩⟩,
   ⟨⟨7, false, 16, 32, 0, 0, 0, false, false, false, 0, 0⟩, ⟨(tm (fun t => { t with handles := [(0, { opened := true, desc := { base := 0x80000, esz := 2, ext := [4], stride := [4] } })] })) ((reg 32 0x80000) (D)), ⟨iss (.thdesc ⟨7, false, 16, 32, 0, 0, 0, false, false, false, 0, 0⟩) ((tm (fun t => { t with handles := [(0, { opened := true, desc := { base := 0x80000, esz := 2, ext := [4], stride := [4] } })] })) ((reg 32 0x80000) (D))), ⟨(ready_iss (by decide +kernel)), ⟨by decide +kernel, ⟨by decide +kernel, ⟨by decide +kernel, ⟨by decide +kernel, ⟨by decide +kernel, ⟨.mem 0x100000, ⟨0x132F, ex_chk (by decide +kernel) (ex_pair (by decide +kernel) (trivial))⟩⟩⟩⟩⟩⟩⟩⟩⟩⟩⟩,
   ⟨tileWords { base := 0x80000, esz := 2, ext := [4], stride := [4] }, ⟨by decide +kernel, ⟨by decide +kernel, ex_some (by decide +kernel) (trivial)⟩⟩⟩,
   ⟨⟨7, false, 16, 32, 48, 1, 0, false, false, false, 0, 0⟩, ⟨(tm (fun t => { t with handles := [(0, { opened := true, desc := { base := 0x80000, esz := 2, ext := [4], stride := [4] } })] })) ((reg 48 2) (D)), ⟨iss (.thsplit ⟨7, false, 16, 32, 48, 1, 0, false, false, false, 0, 0⟩) ((tm (fun t => { t with handles := [(0, { opened := true, desc := { base := 0x80000, esz := 2, ext := [4], stride := [4] } })] })) ((reg 48 2) (D))), ⟨(ready_iss (by decide +kernel)), by decide +kernel⟩⟩⟩⟩,
   ⟨⟨7, false, 16, 32, 48, 1, 0, false, false, false, 0, 0⟩, ⟨(tm (fun t => { t with handles := [(0, { opened := true, desc := { base := 0x80000, esz := 2, ext := [4], stride := [4] } })] })) ((reg 48 2) (D)), ⟨iss (.thsplit ⟨7, false, 16, 32, 48, 1, 0, false, false, false, 0, 0⟩) ((tm (fun t => { t with handles := [(0, { opened := true, desc := { base := 0x80000, esz := 2, ext := [4], stride := [4] } })] })) ((reg 48 2) (D))), ⟨(ready_iss (by decide +kernel)), by decide +kernel⟩⟩⟩⟩,
   ⟨{ desc := { base := 0x80000, esz := 2, ext := [4], stride := [4] }, pieces := [[(0, 4)]] }, ⟨by decide +kernel, ⟨[3], by decide +kernel⟩⟩⟩,
   ⟨⟨7, false, 0, 32, 0, 0, 0, false, false, false, 0, 0⟩, ⟨(tm (fun t => { t with handles := [(0, { opened := true, desc := { base := 0x80000, esz := 2, ext := [4], stride := [4] } })] })) (D), ⟨iss (.threl ⟨7, false, 0, 32, 0, 0, 0, false, false, false, 0, 0⟩) ((tm (fun t => { t with handles := [(0, { opened := true, desc := { base := 0x80000, esz := 2, ext := [4], stride := [4] } })] })) (D)), ⟨(ready_iss (by decide +kernel)), by decide +kernel⟩⟩⟩⟩,
   ⟨⟨7, false, 0, 32, 0, 0, 0, false, false, false, 0, 0⟩, ⟨(tm (fun t => { t with handles := [(0, { opened := true, desc := { base := 0x80000, esz := 2, ext := [4], stride := [4] } })] })) (D), ⟨iss (.thdown ⟨7, false, 0, 32, 0, 0, 0, false, false, false, 0, 0⟩) ((tm (fun t => { t with handles := [(0, { opened := true, desc := { base := 0x80000, esz := 2, ext := [4], stride := [4] } })] })) (D)), ⟨(ready_iss (by decide +kernel)), by decide +kernel⟩⟩⟩⟩,
   ⟨⟨7, false, 0, 32, 0, 0, 0, false, false, false, 0, 0⟩, ⟨(tm (fun t => { t with handles := [(0, { opened := true, desc := { base := 0x80000, esz := 2, ext := [4], stride := [4] } })] })) (D), ⟨iss (.thwb ⟨7, false, 0, 32, 0, 0, 0, false, false, false, 0, 0⟩) ((tm (fun t => { t with handles := [(0, { opened := true, desc := { base := 0x80000, esz := 2, ext := [4], stride := [4] } })] })) (D)), ⟨(ready_iss (by decide +kernel)), by decide +kernel⟩⟩⟩⟩,
   ⟨⟨7, false, 0, 32, 0, 0, 0, false, false, false, 0, 0⟩, ⟨(tm (fun t => { t with handles := [(0, { opened := true, desc := { base := 0x80000, esz := 2, ext := [4], stride := [4] } })] })) (D), ⟨iss (.thclose ⟨7, false, 0, 32, 0, 0, 0, false, false, false, 0, 0⟩) ((tm (fun t => { t with handles := [(0, { opened := true, desc := { base := 0x80000, esz := 2, ext := [4], stride := [4] } })] })) (D)), ⟨(ready_iss (by decide +kernel)), by decide +kernel⟩⟩⟩⟩,
   ⟨⟨7, false, 0, 32, 0, 0, 0, false, false, false, 0, 0⟩, ⟨(wv (fun w => { w with storeq := [{ slot := 0, bytes := [⟨.mem 0x100000, 1, 0⟩] }] })) ((tm (fun t => { t with handles := [(0, { opened := true, desc := { base := 0x80000, esz := 2, ext := [4], stride := [4] } })] })) (D)), ⟨iss (.threl ⟨7, false, 0, 32, 0, 0, 0, false, false, false, 0, 0⟩) ((wv (fun w => { w with storeq := [{ slot := 0, bytes := [⟨.mem 0x100000, 1, 0⟩] }] })) ((tm (fun t => { t with handles := [(0, { opened := true, desc := { base := 0x80000, esz := 2, ext := [4], stride := [4] } })] })) (D))), ⟨(ready_iss (by decide +kernel)), by decide +kernel⟩⟩⟩⟩,
   ⟨⟨7, false, 0, 32, 0, 0, 0, false, false, false, 0, 0⟩, ⟨(wv (fun w => { w with storeq := [{ slot := 0, bytes := [⟨.mem 0x100000, 1, 0⟩] }] })) ((tm (fun t => { t with handles := [(0, { opened := true, desc := { base := 0x80000, esz := 2, ext := [4], stride := [4] } })] })) (D)), ⟨iss (.thdown ⟨7, false, 0, 32, 0, 0, 0, false, false, false, 0, 0⟩) ((wv (fun w => { w with storeq := [{ slot := 0, bytes := [⟨.mem 0x100000, 1, 0⟩] }] })) ((tm (fun t => { t with handles := [(0, { opened := true, desc := { base := 0x80000, esz := 2, ext := [4], stride := [4] } })] })) (D))), ⟨(ready_iss (by decide +kernel)), by decide +kernel⟩⟩⟩⟩⟩
theorem test_TileHandlesOpenSplitClose_met2 :
    (∃ o, ∃ s : State, ∃ x : Iss, Ready (.thwb o) s x ∧ (fun x s => x.teamed s ∧ x.alike (fun x l => [x.a l]) ∧ (s.team (x.mine s)).handleBad (x.a x.low) = none ∧ x.outrun s (x.mine s) (x.a x.low % 16) = false ∧ (s.drained x.g.core x.g.slot = false ∨ s.atomPending x.g.core x.g.slot x.ex = true ∨ ((s.team (x.mine s)).handle (x.a x.low % 16)).mode ≠ 0 ∧ s.boundBusy x.g.core (x.mine s) (x.a x.low % 16) = true)) x (x.moved s)) ∧
    (∃ o, ∃ s : State, ∃ x : Iss, Ready (.thclose o) s x ∧ (fun x s => x.teamed s ∧ x.alike (fun x l => [x.a l]) ∧ (s.team (x.mine s)).handleBad (x.a x.low) = none ∧ x.outrun s (x.mine s) (x.a x.low % 16) = false ∧ (s.drained x.g.core x.g.slot = false ∨ s.atomPending x.g.core x.g.slot x.ex = true ∨ ((s.team (x.mine s)).handle (x.a x.low % 16)).mode ≠ 0 ∧ s.boundBusy x.g.core (x.mine s) (x.a x.low % 16) = true)) x (x.moved s)) ∧
    (∃ o, ∃ s : State, ∃ x : Iss, Ready (.threl o) s x ∧ (fun x s => x.teamed s ∧ x.alike (fun x l => [x.a l]) ∧ x.outrun s (x.mine s) (x.a x.low % 16) = true) x (x.moved s)) ∧
    (∃ o, ∃ s : State, ∃ x : Iss, Ready (.thdown o) s x ∧ (fun x s => x.teamed s ∧ x.alike (fun x l => [x.a l]) ∧ x.outrun s (x.mine s) (x.a x.low % 16) = true) x (x.moved s)) ∧
    (∃ o, ∃ s : State, ∃ x : Iss, Ready (.thwb o) s x ∧ (fun x s => x.teamed s ∧ x.alike (fun x l => [x.a l]) ∧ x.outrun s (x.mine s) (x.a x.low % 16) = true) x (x.moved s)) ∧
    (∃ o, ∃ s : State, ∃ x : Iss, Ready (.thclose o) s x ∧ (fun x s => x.teamed s ∧ x.alike (fun x l => [x.a l]) ∧ x.outrun s (x.mine s) (x.a x.low % 16) = true) x (x.moved s)) ∧
    (∃ s : State, ∃ y : Nat, (s.findTeam y).isSome = true) ∧
    (∃ o, ∃ s : State, ∃ x : Iss, Ready (.threl o) s x ∧ x.canTrap (x.moved s) ∧ ∃ d : Nat, (fun x s => x.teamed s ∧ x.alike (fun x l => [x.a l]) ∧ (s.team (x.mine s)).handleBad (x.a x.low) = some d ∧ x.outrun s (x.mine s) (x.a x.low % 16) = false) x (x.moved s)) ∧
    (∃ o, ∃ s : State, ∃ x : Iss, Ready (.thdown o) s x ∧ x.canTrap (x.moved s) ∧ ∃ d : Nat, (fun x s => x.teamed s ∧ x.alike (fun x l => [x.a l]) ∧ (s.team (x.mine s)).handleBad (x.a x.low) = some d ∧ x.outrun s (x.mine s) (x.a x.low % 16) = false) x (x.moved s)) ∧
    (∃ o, ∃ s : State, ∃ x : Iss, Ready (.thwb o) s x ∧ x.canTrap (x.moved s) ∧ ∃ d : Nat, (fun x s => x.teamed s ∧ x.alike (fun x l => [x.a l]) ∧ (s.team (x.mine s)).handleBad (x.a x.low) = some d ∧ x.outrun s (x.mine s) (x.a x.low % 16) = false) x (x.moved s)) ∧
    (∃ o, ∃ s : State, ∃ x : Iss, Ready (.thclose o) s x ∧ x.canTrap (x.moved s) ∧ ∃ d : Nat, (fun x s => x.teamed s ∧ x.alike (fun x l => [x.a l]) ∧ (s.team (x.mine s)).handleBad (x.a x.low) = some d ∧ x.outrun s (x.mine s) (x.a x.low % 16) = false) x (x.moved s)) ∧
    (∃ o, ∃ s : State, ∃ x : Iss, Ready (.thsplit o) s x ∧ x.canTrap (x.moved s) ∧ ∃ d : Nat, (fun x s => x.teamed s ∧ x.alike (fun x l => [x.a l, x.b l]) ∧ (s.team (x.mine s)).handleBad (x.a x.low) = some d ∧ x.outrun s (x.mine s) (x.a x.low % 16) = false) x (x.moved s)) ∧
    (∃ o, ∃ s : State, ∃ x : Iss, Ready (.thdesc o) s x ∧ x.canTrap (x.moved s) ∧ ∃ d : Nat, (fun x s => x.teamed s ∧ x.alike (fun x l => [x.d l, x.a l]) ∧ (s.team (x.mine s)).handleBad (x.d x.low) = some d ∧ x.outrun s (x.mine s) (x.d x.low % 16) = false) x (x.moved s)) :=
  ⟨⟨⟨7, false, 0, 32, 0, 0, 0, false, false, false, 0, 0⟩, ⟨(wv (fun w => { w with storeq := [{ slot := 0, bytes := [⟨.mem 0x100000, 1, 0⟩] }] })) ((tm (fun t => { t with handles := [(0, { opened := true, desc := { base := 0x80000, esz := 2, ext := [4], stride := [4] } })] })) (D)), ⟨iss (.thwb ⟨7, false, 0, 32, 0, 0, 0, false, false, false, 0, 0⟩) ((wv (fun w => { w with storeq := [{ slot := 0, bytes := [⟨.mem 0x100000, 1, 0⟩] }] })) ((tm (fun t => { t with handles := [(0, { opened := true, desc := { base := 0x80000, esz := 2, ext := [4], stride := [4] } })] })) (D))), ⟨(ready_iss (by decide +kernel)), by decide +kernel⟩⟩⟩⟩,
   ⟨⟨7, false, 0, 32, 0, 0, 0, false, false, false, 0, 0⟩, ⟨(wv (fun w => { w with storeq := [{ slot := 0, bytes := [⟨.mem 0x100000, 1, 0⟩] }] })) ((tm (fun t => { t with handles := [(0, { opened := true, desc := { base := 0x80000, esz := 2, ext := [4], stride := [4] } })] })) (D)), ⟨iss (.thclose ⟨7, false, 0, 32, 0, 0, 0, false, false, false, 0, 0⟩) ((wv (fun w => { w with storeq := [{ slot := 0, bytes := [⟨.mem 0x100000, 1, 0⟩] }] })) ((tm (fun t => { t with handles := [(0, { opened := true, desc := { base := 0x80000, esz := 2, ext := [4], stride := [4] } })] })) (D))), ⟨(ready_iss (by decide +kernel)), by decide +kernel⟩⟩⟩⟩,
   ⟨⟨7, false, 0, 32, 0, 0, 0, false, false, false, 0, 0⟩, ⟨((fun s : State => { s with dirReqs := [{ core := 0, slot := 1, pc := 0x108, team := 1, handle := 0, write := false, pages := [{ va := 0x80000, pa := 0x100000, bits := 19 }] }] })) ((tm (fun t => { t with handles := [(0, { opened := true, desc := { base := 0x80000, esz := 2, ext := [4], stride := [4] } })] })) (D)), ⟨iss (.threl ⟨7, false, 0, 32, 0, 0, 0, false, false, false, 0, 0⟩) (((fun s : State => { s with dirReqs := [{ core := 0, slot := 1, pc := 0x108, team := 1, handle := 0, write := false, pages := [{ va := 0x80000, pa := 0x100000, bits := 19 }] }] })) ((tm (fun t => { t with handles := [(0, { opened := true, desc := { base := 0x80000, esz := 2, ext := [4], stride := [4] } })] })) (D))), ⟨(ready_iss (by decide +kernel)), by decide +kernel⟩⟩⟩⟩,
   ⟨⟨7, false, 0, 32, 0, 0, 0, false, false, false, 0, 0⟩, ⟨((fun s : State => { s with dirReqs := [{ core := 0, slot := 1, pc := 0x108, team := 1, handle := 0, write := false, pages := [{ va := 0x80000, pa := 0x100000, bits := 19 }] }] })) ((tm (fun t => { t with handles := [(0, { opened := true, desc := { base := 0x80000, esz := 2, ext := [4], stride := [4] } })] })) (D)), ⟨iss (.thdown ⟨7, false, 0, 32, 0, 0, 0, false, false, false, 0, 0⟩) (((fun s : State => { s with dirReqs := [{ core := 0, slot := 1, pc := 0x108, team := 1, handle := 0, write := false, pages := [{ va := 0x80000, pa := 0x100000, bits := 19 }] }] })) ((tm (fun t => { t with handles := [(0, { opened := true, desc := { base := 0x80000, esz := 2, ext := [4], stride := [4] } })] })) (D))), ⟨(ready_iss (by decide +kernel)), by decide +kernel⟩⟩⟩⟩,
   ⟨⟨7, false, 0, 32, 0, 0, 0, false, false, false, 0, 0⟩, ⟨((fun s : State => { s with dirReqs := [{ core := 0, slot := 1, pc := 0x108, team := 1, handle := 0, write := false, pages := [{ va := 0x80000, pa := 0x100000, bits := 19 }] }] })) ((tm (fun t => { t with handles := [(0, { opened := true, desc := { base := 0x80000, esz := 2, ext := [4], stride := [4] } })] })) (D)), ⟨iss (.thwb ⟨7, false, 0, 32, 0, 0, 0, false, false, false, 0, 0⟩) (((fun s : State => { s with dirReqs := [{ core := 0, slot := 1, pc := 0x108, team := 1, handle := 0, write := false, pages := [{ va := 0x80000, pa := 0x100000, bits := 19 }] }] })) ((tm (fun t => { t with handles := [(0, { opened := true, desc := { base := 0x80000, esz := 2, ext := [4], stride := [4] } })] })) (D))), ⟨(ready_iss (by decide +kernel)), by decide +kernel⟩⟩⟩⟩,
   ⟨⟨7, false, 0, 32, 0, 0, 0, false, false, false, 0, 0⟩, ⟨((fun s : State => { s with dirReqs := [{ core := 0, slot := 1, pc := 0x108, team := 1, handle := 0, write := false, pages := [{ va := 0x80000, pa := 0x100000, bits := 19 }] }] })) ((tm (fun t => { t with handles := [(0, { opened := true, desc := { base := 0x80000, esz := 2, ext := [4], stride := [4] } })] })) (D)), ⟨iss (.thclose ⟨7, false, 0, 32, 0, 0, 0, false, false, false, 0, 0⟩) (((fun s : State => { s with dirReqs := [{ core := 0, slot := 1, pc := 0x108, team := 1, handle := 0, write := false, pages := [{ va := 0x80000, pa := 0x100000, bits := 19 }] }] })) ((tm (fun t => { t with handles := [(0, { opened := true, desc := { base := 0x80000, esz := 2, ext := [4], stride := [4] } })] })) (D))), ⟨(ready_iss (by decide +kernel)), by decide +kernel⟩⟩⟩⟩,
   ⟨D, ⟨1, by decide +kernel⟩⟩,
   ⟨⟨7, false, 0, 32, 0, 0, 0, false, false, false, 0, 0⟩, ⟨D, ⟨iss (.threl ⟨7, false, 0, 32, 0, 0, 0, false, false, false, 0, 0⟩) (D), ⟨(ready_iss (by decide +kernel)), ⟨by decide +kernel, ⟨0x12, by decide +kernel⟩⟩⟩⟩⟩⟩,
   ⟨⟨7, false, 0, 32, 0, 0, 0, false, false, false, 0, 0⟩, ⟨D, ⟨iss (.thdown ⟨7, false, 0, 32, 0, 0, 0, false, false, false, 0, 0⟩) (D), ⟨(ready_iss (by decide +kernel)), ⟨by decide +kernel, ⟨0x12, by decide +kernel⟩⟩⟩⟩⟩⟩,
   ⟨⟨7, false, 0, 32, 0, 0, 0, false, false, false, 0, 0⟩, ⟨D, ⟨iss (.thwb ⟨7, false, 0, 32, 0, 0, 0, false, false, false, 0, 0⟩) (D), ⟨(ready_iss (by decide +kernel)), ⟨by decide +kernel, ⟨0x12, by decide +kernel⟩⟩⟩⟩⟩⟩,
   ⟨⟨7, false, 0, 32, 0, 0, 0, false, false, false, 0, 0⟩, ⟨D, ⟨iss (.thclose ⟨7, false, 0, 32, 0, 0, 0, false, false, false, 0, 0⟩) (D), ⟨(ready_iss (by decide +kernel)), ⟨by decide +kernel, ⟨0x12, by decide +kernel⟩⟩⟩⟩⟩⟩,
   ⟨⟨7, false, 16, 32, 48, 0, 0, false, false, false, 0, 0⟩, ⟨D, ⟨iss (.thsplit ⟨7, false, 16, 32, 48, 0, 0, false, false, false, 0, 0⟩) (D), ⟨(ready_iss (by decide +kernel)), ⟨by decide +kernel, ⟨0x12, by decide +kernel⟩⟩⟩⟩⟩⟩,
   ⟨⟨7, false, 16, 32, 0, 0, 0, false, false, false, 0, 0⟩, ⟨D, ⟨iss (.thdesc ⟨7, false, 16, 32, 0, 0, 0, false, false, false, 0, 0⟩) (D), ⟨(ready_iss (by decide +kernel)), ⟨by decide +kernel, ⟨0x12, by decide +kernel⟩⟩⟩⟩⟩⟩⟩
theorem test_TenureBindingAndProbes_met :
    (∃ o, ∃ s : State, ∃ x : Iss, Ready (.thacq o) s x ∧ x.teamed (x.moved s) ∧ x.alike (fun x l => [x.a l]) ∧ ∃ r, (x.moved s).dirReqs.find? (x.myReq (x.mine (x.moved s)) (x.a x.low % 16)) = some r ∧ r.pages = []) ∧
    (∃ o, ∃ s : State, ∃ x : Iss, Ready (.thacq o) s x ∧ x.teamed (x.moved s) ∧ x.alike (fun x l => [x.a l]) ∧ let y := x.mine (x.moved s); let n := x.a x.low % 16; let wr := x.f.c.getLsbD 0 || ((x.moved s).team y |>.handle n).mode == 2; ((x.moved s).team y).handleBad (x.a x.low) = none ∧ (∀ r ∈ s.dirReqs, ¬ (r.team = y ∧ r.handle = n)) ∧ x.outrun (x.moved s) y n = false ∧ ∃ u ps, x.tilePages (x.moved s) (x.f.c.getLsbD 0) (((x.moved s).team y).handle n).desc = .ok (u, ps) ∧ True) ∧
    (∃ o, ∃ s : State, ∃ x : Iss, Ready (.thacq o) s x ∧ (fun x s => x.teamed s ∧ x.alike (fun x l => [x.a l]) ∧ ∃ r, s.dirReqs.find? (x.myReq (x.mine s) (x.a x.low % 16)) = some r ∧ r.pages ≠ []) x (x.moved s)) ∧
    (∃ idx : Nat, ∃ s : State, ∃ r, s.dirReqs[idx]? = some r ∧ ∃ p, ∃ ps, r.pages = p :: ps ∧ (s.findTeam r.team).isSome = true ∧ (∀ q ∈ s.dirReqs.take idx, ∀ o ∈ q.pages, ¬ (o.pa < p.pa + 2 ^ p.bits ∧ p.pa < o.pa + 2 ^ o.bits)) ∧ (∀ d ∈ s.dirs, d.team ≠ r.team → ¬ (d.page.pa < p.pa + 2 ^ p.bits ∧ p.pa < d.page.pa + 2 ^ d.page.bits)) ∧ (s.dirs.filter (fun d => d.slice = dirSlice p.pa)).length < 63) ∧
    (∃ o, ∃ s : State, ∃ x : Iss, Ready (.thbind o) s x ∧ (fun x s => x.teamed s ∧ x.alike (fun x l => [x.a l]) ∧ (s.team (x.mine s)).handleBad (x.a x.low) = none ∧ x.outrun s (x.mine s) (x.a x.low % 16) = false ∧ ((s.team (x.mine s)).tslot (x.f.b.toNat % 64)).bound = none) x (x.moved s)) ∧
    (∃ o, ∃ s : State, ∃ x : Iss, Ready (.thbind o) s x ∧ ∃ g : Nat, (fun x s => x.teamed s ∧ x.alike (fun x l => [x.a l]) ∧ (s.team (x.mine s)).handleBad (x.a x.low) = none ∧ x.outrun s (x.mine s) (x.a x.low % 16) = false ∧ ((s.team (x.mine s)).tslot (x.f.b.toNat % 64)).bound = some (x.a x.low % 16, g)) x (x.moved s)) ∧
    (∃ o, ∃ s : State, ∃ x : Iss, Ready (.thbind o) s x ∧ x.canTrap (x.moved s) ∧ ∃ m : Nat, ∃ g : Nat, (fun x s => x.teamed s ∧ x.alike (fun x l => [x.a l]) ∧ (s.team (x.mine s)).handleBad (x.a x.low) = none ∧ x.outrun s (x.mine s) (x.a x.low % 16) = false ∧ ((s.team (x.mine s)).tslot (x.f.b.toNat % 64)).bound = some (m, g) ∧ m ≠ x.a x.low % 16) x (x.moved s)) ∧
    (∃ o, ∃ s : State, ∃ x : Iss, Ready (.thunbind o) s x ∧ (fun x s => x.teamed s ∧ ((s.team (x.mine s)).tslot (x.f.b.toNat % 64)).bound.isSome = true ∧ ((s.team (x.mine s)).tslot (x.f.b.toNat % 64)).moving = false) x (x.moved s)) ∧
    (∃ o, ∃ s : State, ∃ x : Iss, Ready (.thunbind o) s x ∧ (fun x s => x.teamed s ∧ ((s.team (x.mine s)).tslot (x.f.b.toNat % 64)).bound = none) x (x.moved s)) ∧
    (∃ o, ∃ s : State, ∃ x : Iss, Ready (.thunbind o) s x ∧ (fun x s => x.teamed s ∧ ((s.team (x.mine s)).tslot (x.f.b.toNat % 64)).bound.isSome = true ∧ ((s.team (x.mine s)).tslot (x.f.b.toNat % 64)).moving = true) x (x.moved s)) ∧
    (∃ o, ∃ s : State, ∃ x : Iss, Ready (.thstat o) s x ∧ (fun x s => x.teamed s ∧ x.alike (fun x l => [x.a l]) ∧ x.a x.low < 2 ^ 12 ∧ x.outrun s (x.mine s) (x.a x.low % 16) = false) x (x.moved s)) ∧
    (∃ o, ∃ s : State, ∃ x : Iss, Ready (.thext o) s x ∧ (fun x s => x.teamed s ∧ x.alike (fun x l => [x.a l]) ∧ (s.team (x.mine s)).handleBad (x.a x.low) = none ∧ x.outrun s (x.mine s) (x.a x.low % 16) = false) x (x.moved s)) ∧
    (∃ o, ∃ s : State, ∃ x : Iss, Ready (.thprobe o) s x ∧ x.teamed (x.moved s) ∧ x.alike (fun x l => [x.a l]) ∧ ∃ u : State, ∃ loc : Loc, ∃ leaf : Nat, (x.moved s).check x.agent { rd := true, reach := false } (x.a x.low) = (u, .ok loc leaf)) ∧
    (∃ o, ∃ s : State, ∃ x : Iss, Ready (.thacq o) s x ∧ (fun x s => x.teamed s ∧ x.alike (fun x l => [x.a l]) ∧ x.outrun s (x.mine s) (x.a x.low % 16) = true ∧ s.dirReqs.find? (x.myReq (x.mine s) (x.a x.low % 16)) = none) x (x.moved s)) ∧
    (∃ o, ∃ s : State, ∃ x : Iss, Ready (.thbind o) s x ∧ (fun x s => x.teamed s ∧ x.alike (fun x l => [x.a l]) ∧ x.outrun s (x.mine s) (x.a x.low % 16) = true) x (x.moved s)) ∧
    (∃ o, ∃ s : State, ∃ x : Iss, Ready (.thext o) s x ∧ (fun x s => x.teamed s ∧ x.alike (fun x l => [x.a l]) ∧ x.outrun s (x.mine s) (x.a x.low % 16) = true) x (x.moved s)) ∧
    (∃ o, ∃ s : State, ∃ x : Iss, Ready (.thstat o) s x ∧ (fun x s => x.teamed s ∧ x.alike (fun x l => [x.a l]) ∧ x.outrun s (x.mine s) (x.a x.low % 16) = true) x (x.moved s)) ∧
    (∃ o, ∃ s : State, ∃ x : Iss, Ready (.thstat o) s x ∧ x.canTrap (x.moved s) ∧ (fun x s => x.teamed s ∧ x.alike (fun x l => [x.a l]) ∧ 2 ^ 12 ≤ x.a x.low ∧ x.outrun s (x.mine s) (x.a x.low % 16) = false) x (x.moved s)) :=
  ⟨⟨⟨7, false, 0, 32, 0, 0, 0, false, false, false, 0, 0⟩, ⟨((fun s : State => { s with dirReqs := [{ core := 0, slot := 0, pc := 0x108, team := 1, handle := 0, write := false, pages := [] }] })) ((tm (fun t => { t with handles := [(0, { opened := true, desc := { base := 0x80000, esz := 2, ext := [4], stride := [4] } })] })) (D)), ⟨iss (.thacq ⟨7, false, 0, 32, 0, 0, 0, false, false, false, 0, 0⟩) (((fun s : State => { s with dirReqs := [{ core := 0, slot := 0, pc := 0x108, team := 1, handle := 0, write := false, pages := [] }] })) ((tm (fun t => { t with handles := [(0, { opened := true, desc := { base := 0x80000, esz := 2, ext := [4], stride := [4] } })] })) (D))), ⟨(ready_iss (by decide +kernel)), ⟨by decide +kernel, ⟨by decide +kernel, ex_some (by decide +kernel) (by decide +kernel)⟩⟩⟩⟩⟩⟩,
   ⟨⟨7, false, 0, 32, 0, 0, 0, false, false, false, 0, 0⟩, ⟨(tm (fun t => { t with handles := [(0, { opened := true, desc := { base := 0x80000, esz := 2, ext := [4], stride := [4] } })] })) (D), ⟨iss (.thacq ⟨7, false, 0, 32, 0, 0, 0, false, false, false, 0, 0⟩) ((tm (fun t => { t with handles := [(0, { opened := true, desc := { base := 0x80000, esz := 2, ext := [4], stride := [4] } })] })) (D)), ⟨(ready_iss (by decide +kernel)), ⟨by decide +kernel, ⟨by decide +kernel, ⟨by decide +kernel, ⟨by decide +kernel, ⟨by decide +kernel, ex_ok (by decide +kernel) (trivial)⟩⟩⟩⟩⟩⟩⟩⟩⟩,
   ⟨⟨7, false, 0, 32, 0, 0, 0, false, false, false, 0, 0⟩, ⟨((fun s : State => { s with dirReqs := [{ core := 0, slot := 0, pc := 0x108, team := 1, handle := 0, write := false, pages := [{ va := 0x80000, pa := 0x100000, bits := 19 }] }] })) ((tm (fun t => { t with handles := [(0, { opened := true, desc := { base := 0x80000, esz := 2, ext := [4], stride := [4] } })] })) (D)), ⟨iss (.thacq ⟨7, false, 0, 32, 0, 0, 0, false, false, false, 0, 0⟩) (((fun s : State => { s with dirReqs := [{ core := 0, slot := 0, pc := 0x108, team := 1, handle := 0, write := false, pages := [{ va := 0x80000, pa := 0x100000, bits := 19 }] }] })) ((tm (fun t => { t with handles := [(0, { opened := true, desc := { base := 0x80000, esz := 2, ext := [4], stride := [4] } })] })) (D))), ⟨(ready_iss (by decide +kernel)), ⟨by decide +kernel, by decide +kernel, ex_some (by decide +kernel) (by decide +kernel)⟩⟩⟩⟩⟩,
   ⟨0, ⟨((fun s : State => { s with dirReqs := [{ core := 0, slot := 0, pc := 0x108, team := 1, handle := 0, write := false, pages := [{ va := 0x80000, pa := 0x100000, bits := 19 }] }] })) (D), ⟨{ core := 0, slot := 0, pc := 0x108, team := 1, handle := 0, write := false, pages := [{ va := 0x80000, pa := 0x100000, bits := 19 }] }, ⟨by decide +kernel, ⟨{ va := 0x80000, pa := 0x100000, bits := 19 }, ⟨[], by decide +kernel⟩⟩⟩⟩⟩⟩,
   ⟨⟨7, false, 0, 32, 48, 0, 0, false, false, false, 0, 0⟩, ⟨(tm (fun t => { t with handles := [(0, { opened := true, desc := { base := 0x80000, esz := 2, ext := [4], stride := [4] } })] })) (D), ⟨iss (.thbind ⟨7, false, 0, 32, 48, 0, 0, false, false, false, 0, 0⟩) ((tm (fun t => { t with handles := [(0, { opened := true, desc := { base := 0x80000, esz := 2, ext := [4], stride := [4] } })] })) (D)), ⟨(ready_iss (by decide +kernel)), by decide +kernel⟩⟩⟩⟩,
   ⟨⟨7, false, 0, 32, 48, 0, 0, false, false, false, 0, 0⟩, ⟨(tm (fun t => { t with tslots := [(48, { st := .ready, base := some 0, len := 16384, bound := some (0, 0) })] })) ((tm (fun t => { t with handles := [(0, { opened := true, desc := { base := 0x80000, esz := 2, ext := [4], stride := [4] } })] })) (D)), ⟨iss (.thbind ⟨7, false, 0, 32, 48, 0, 0, false, false, false, 0, 0⟩) ((tm (fun t => { t with tslots := [(48, { st := .ready, base := some 0, len := 16384, bound := some (0, 0) })] })) ((tm (fun t => { t with handles := [(0, { opened := true, desc := { base := 0x80000, esz := 2, ext := [4], stride := [4] } })] })) (D))), ⟨(ready_iss (by decide +kernel)), ⟨0, by decide +kernel⟩⟩⟩⟩⟩,
   ⟨⟨7, false, 0, 32, 48, 0, 0, false, false, false, 0, 0⟩, ⟨(tm (fun t => { t with tslots := [(48, { st := .ready, base := some 0, len := 16384, bound := some (1, 0) })] })) ((tm (fun t => { t with handles := [(0, { opened := true, desc := { base := 0x80000, esz := 2, ext := [4], stride := [4] } })] })) (D)), ⟨iss (.thbind ⟨7, false, 0, 32, 48, 0, 0, false, false, false, 0, 0⟩) ((tm (fun t => { t with tslots := [(48, { st := .ready, base := some 0, len := 16384, bound := some (1, 0) })] })) ((tm (fun t => { t with handles := [(0, { opened := true, desc := { base := 0x80000, esz := 2, ext := [4], stride := [4] } })] })) (D))), ⟨(ready_iss (by decide +kernel)), ⟨by decide +kernel, ⟨1, ⟨0, by decide +kernel⟩⟩⟩⟩⟩⟩⟩,
   ⟨⟨7, false, 0, 0, 48, 0, 0, false, false, false, 0, 0⟩, ⟨(tm (fun t => { t with tslots := [(48, { st := .ready, base := some 0, len := 16384, bound := some (0, 0) })] })) (D), ⟨iss (.thunbind ⟨7, false, 0, 0, 48, 0, 0, false, false, false, 0, 0⟩) ((tm (fun t => { t with tslots := [(48, { st := .ready, base := some 0, len := 16384, bound := some (0, 0) })] })) (D)), ⟨(ready_iss (by decide +kernel)), by decide +kernel⟩⟩⟩⟩,
   ⟨⟨7, false, 0, 0, 48, 0, 0, false, false, false, 0, 0⟩, ⟨D, ⟨iss (.thunbind ⟨7, false, 0, 0, 48, 0, 0, false, false, false, 0, 0⟩) (D), ⟨(ready_iss (by decide +kernel)), by decide +kernel⟩⟩⟩⟩,
   ⟨⟨7, false, 0, 0, 48, 0, 0, false, false, false, 0, 0⟩, ⟨(tm (fun t => { t with tslots := [(48, { st := .filling, base := some 0, len := 16384, bound := some (0, 0) })] })) (D), ⟨iss (.thunbind ⟨7, false, 0, 0, 48, 0, 0, false, false, false, 0, 0⟩) ((tm (fun t => { t with tslots := [(48, { st := .filling, base := some 0, len := 16384, bound := some (0, 0) })] })) (D)), ⟨(ready_iss (by decide +kernel)), by decide +kernel⟩⟩⟩⟩,
   ⟨⟨7, false, 16, 32, 0, 0, 0, false, false, false, 0, 0⟩, ⟨D, ⟨iss (.thstat ⟨7, false, 16, 32, 0, 0, 0, false, false, false, 0, 0⟩) (D), ⟨(ready_iss (by decide +kernel)), by decide +kernel⟩⟩⟩⟩,
   ⟨⟨7, false, 16, 32, 0, 0, 0, false, false, false, 0, 0⟩, ⟨(tm (fun t => { t with handles := [(0, { opened := true, desc := { base := 0x80000, esz := 2, ext := [4], stride := [4] } })] })) (D), ⟨iss (.thext ⟨7, false, 16, 32, 0, 0, 0, false, false, false, 0, 0⟩) ((tm (fun t => { t with handles := [(0, { opened := true, desc := { base := 0x80000, esz := 2, ext := [4], stride := [4] } })] })) (D)), ⟨(ready_iss (by decide +kernel)), by decide +kernel⟩⟩⟩⟩,
   ⟨⟨7, false, 16, 32, 0, 0, 0, false, false, false, 0, 0⟩, ⟨(reg 32 0x80000) (D), ⟨iss (.thprobe ⟨7, false, 16, 32, 0, 0, 0, false, false, false, 0, 0⟩) ((reg 32 0x80000) (D)), ⟨(ready_iss (by decide +kernel)), ⟨by decide +kernel, ⟨by decide +kernel, ⟨(((iss (.thprobe ⟨7, false, 16, 32, 0, 0, 0, false, false, false, 0, 0⟩) ((reg 32 0x80000) (D))).moved ((reg 32 0x80000) (D))).check (iss (.thprobe ⟨7, false, 16, 32, 0, 0, 0, false, false, false, 0, 0⟩) ((reg 32 0x80000) (D))).agent { rd := true, reach := false } ((iss (.thprobe ⟨7, false, 16, 32, 0, 0, 0, false, false, false, 0, 0⟩) ((reg 32 0x80000) (D))).a (iss (.thprobe ⟨7, false, 16, 32, 0, 0, 0, false, false, false, 0, 0⟩) ((reg 32 0x80000) (D))).low)).1, ⟨.mem 0x100000, ⟨0x132F, by decide +kernel⟩⟩⟩⟩⟩⟩⟩⟩⟩,
   ⟨⟨7, false, 0, 32, 0, 0, 0, false, false, false, 0, 0⟩, ⟨((fun s : State => { s with dirReqs := [{ core := 0, slot := 1, pc := 0x108, team := 1, handle := 0, write := false, pages := [{ va := 0x80000, pa := 0x100000, bits := 19 }] }] })) ((tm (fun t => { t with handles := [(0, { opened := true, desc := { base := 0x80000, esz := 2, ext := [4], stride := [4] } })] })) (D)), ⟨iss (.thacq ⟨7, false, 0, 32, 0, 0, 0, false, false, false, 0, 0⟩) (((fun s : State => { s with dirReqs := [{ core := 0, slot := 1, pc := 0x108, team := 1, handle := 0, write := false, pages := [{ va := 0x80000, pa := 0x100000, bits := 19 }] }] })) ((tm (fun t => { t with handles := [(0, { opened := true, desc := { base := 0x80000, esz := 2, ext := [4], stride := [4] } })] })) (D))), ⟨(ready_iss (by decide +kernel)), by decide +kernel⟩⟩⟩⟩,
   ⟨⟨7, false, 0, 32, 48, 0, 0, false, false, false, 0, 0⟩, ⟨((fun s : State => { s with dirReqs := [{ core := 0, slot := 1, pc := 0x108, team := 1, handle := 0, write := false, pages := [{ va := 0x80000, pa := 0x100000, bits := 19 }] }] })) ((tm (fun t => { t with handles := [(0, { opened := true, desc := { base := 0x80000, esz := 2, ext := [4], stride := [4] } })] })) (D)), ⟨iss (.thbind ⟨7, false, 0, 32, 48, 0, 0, false, false, false, 0, 0⟩) (((fun s : State => { s with dirReqs := [{ core := 0, slot := 1, pc := 0x108, team := 1, handle := 0, write := false, pages := [{ va := 0x80000, pa := 0x100000, bits := 19 }] }] })) ((tm (fun t => { t with handles := [(0, { opened := true, desc := { base := 0x80000, esz := 2, ext := [4], stride := [4] } })] })) (D))), ⟨(ready_iss (by decide +kernel)), by decide +kernel⟩⟩⟩⟩,
   ⟨⟨7, false, 16, 32, 0, 0, 0, false, false, false, 0, 0⟩, ⟨((fun s : State => { s with dirReqs := [{ core := 0, slot := 1, pc := 0x108, team := 1, handle := 0, write := false, pages := [{ va := 0x80000, pa := 0x100000, bits := 19 }] }] })) ((tm (fun t => { t with handles := [(0, { opened := true, desc := { base := 0x80000, esz := 2, ext := [4], stride := [4] } })] })) (D)), ⟨iss (.thext ⟨7, false, 16, 32, 0, 0, 0, false, false, false, 0, 0⟩) (((fun s : State => { s with dirReqs := [{ core := 0, slot := 1, pc := 0x108, team := 1, handle := 0, write := false, pages := [{ va := 0x80000, pa := 0x100000, bits := 19 }] }] })) ((tm (fun t => { t with handles := [(0, { opened := true, desc := { base := 0x80000, esz := 2, ext := [4], stride := [4] } })] })) (D))), ⟨(ready_iss (by decide +kernel)), by decide +kernel⟩⟩⟩⟩,
   ⟨⟨7, false, 16, 32, 0, 0, 0, false, false, false, 0, 0⟩, ⟨((fun s : State => { s with dirReqs := [{ core := 0, slot := 1, pc := 0x108, team := 1, handle := 0, write := false, pages := [{ va := 0x80000, pa := 0x100000, bits := 19 }] }] })) ((tm (fun t => { t with handles := [(0, { opened := true, desc := { base := 0x80000, esz := 2, ext := [4], stride := [4] } })] })) (D)), ⟨iss (.thstat ⟨7, false, 16, 32, 0, 0, 0, false, false, false, 0, 0⟩) (((fun s : State => { s with dirReqs := [{ core := 0, slot := 1, pc := 0x108, team := 1, handle := 0, write := false, pages := [{ va := 0x80000, pa := 0x100000, bits := 19 }] }] })) ((tm (fun t => { t with handles := [(0, { opened := true, desc := { base := 0x80000, esz := 2, ext := [4], stride := [4] } })] })) (D))), ⟨(ready_iss (by decide +kernel)), by decide +kernel⟩⟩⟩⟩,
   ⟨⟨7, false, 16, 32, 0, 0, 0, false, false, false, 0, 0⟩, ⟨(reg 32 4096) (D), ⟨iss (.thstat ⟨7, false, 16, 32, 0, 0, 0, false, false, false, 0, 0⟩) ((reg 32 4096) (D)), ⟨(ready_iss (by decide +kernel)), by decide +kernel⟩⟩⟩⟩⟩
theorem test_MatrixCommandsArePosted_met :
    (∃ o, ∃ s : State, ∃ x : Iss, Ready (.mlds o) s x ∧ (fun x s => x.teamed s ∧ x.matRoom s) x (x.moved s)) ∧
    (∃ o, ∃ s : State, ∃ x : Iss, Ready (.mswap o) s x ∧ (fun x s => x.teamed s ∧ x.matRoom s) x (x.moved s)) ∧
    (∃ o, ∃ s : State, ∃ x : Iss, Ready (.mmul o) s x ∧ (fun x s => x.teamed s ∧ x.rowsOk false ∧ x.matRoom s) x (x.moved s)) ∧
    (∃ o, ∃ s : State, ∃ x : Iss, Ready (.mmulz o) s x ∧ (fun x s => x.teamed s ∧ x.rowsOk false ∧ x.matRoom s) x (x.moved s)) ∧
    (∃ o, ∃ s : State, ∃ x : Iss, Ready (.acst o) s x ∧ (fun x s => x.teamed s ∧ x.rowsOk false ∧ x.matRoom s) x (x.moved s)) ∧
    (∃ o, ∃ s : State, ∃ x : Iss, Ready (.acld o) s x ∧ (fun x s => x.teamed s ∧ x.rowsOk false ∧ x.matRoom s) x (x.moved s)) ∧
    (∃ o, ∃ s : State, ∃ x : Iss, Ready (.acsclRow o) s x ∧ (fun x s => x.teamed s ∧ x.rowsOk false ∧ x.matRoom s) x (x.moved s)) ∧
    (∃ o, ∃ s : State, ∃ x : Iss, Ready (.acsclCol o) s x ∧ (fun x s => x.teamed s ∧ x.rowsOk false ∧ x.matRoom s) x (x.moved s)) ∧
    (∃ o, ∃ s : State, ∃ x : Iss, Ready (.acredMax o) s x ∧ (fun x s => x.teamed s ∧ x.rowsOk false ∧ x.matRoom s) x (x.moved s)) ∧
    (∃ o, ∃ s : State, ∃ x : Iss, Ready (.acredSum o) s x ∧ (fun x s => x.teamed s ∧ x.rowsOk false ∧ x.matRoom s) x (x.moved s)) ∧
    (∃ o, ∃ s : State, ∃ x : Iss, Ready (.acbias o) s x ∧ (fun x s => x.teamed s ∧ x.rowsOk false ∧ x.matRoom s) x (x.moved s)) ∧
    (∃ o, ∃ s : State, ∃ x : Iss, Ready (.acnrm o) s x ∧ (fun x s => x.teamed s ∧ x.rowsOk true ∧ x.matRoom s) x (x.moved s)) ∧
    (∃ o, ∃ s : State, ∃ x : Iss, Ready (.mldl o) s x ∧ (fun x s => x.teamed s ∧ x.alike (fun x l => [x.a l]) ∧ x.a x.low % 256 = 0 ∧ ∃ u, s.checkRange x.agent { rd := true, noWindow := true, reach := false } (x.a x.low) x.matCmd.bytes = (u, none) ∧ x.matRoom u ∧ (u.weave x.g.core x.g.slot).team = (s.weave x.g.core x.g.slot).team) x (x.moved s)) ∧
    (∃ o, ∃ s : State, ∃ x : Iss, Ready (.mlds o) s x ∧ x.teamed (x.moved s) ∧ (fun _ => True) x ∧ x.matRoom (x.moved s)) ∧
    (∃ o, ∃ s : State, ∃ x : Iss, Ready (.mlds o) s x ∧ x.canTrap (x.moved s) ∧ x.teamed (x.moved s) ∧ (fun _ => True) x ∧ (x.convReg (x.moved s) (x.mine (x.moved s))).armed = false) ∧
    (∃ o, ∃ s : State, ∃ x : Iss, Ready (.mlds o) s x ∧ x.teamed (x.moved s) ∧ (fun _ => True) x ∧ (x.convReg (x.moved s) (x.mine (x.moved s))).armed = true ∧ 16 ≤ ((x.moved s).team (x.mine (x.moved s))).matq.length) :=
  ⟨⟨⟨7, false, 3, 0, 0, 2, 3, true, 0, 0⟩, ⟨(tm (fun t => { t with convs := [(3, { armed := true, exp := 1, sgn := 0 })] })) (D), ⟨iss (.mlds ⟨7, false, 3, 0, 0, 2, 3, true, 0, 0⟩) ((tm (fun t => { t with convs := [(3, { armed := true, exp := 1, sgn := 0 })] })) (D)), ⟨(ready_iss (by decide +kernel)), by decide +kernel⟩⟩⟩⟩,
   ⟨⟨7, false, 3, 0, 0, 0, 0, false, 0, 0⟩, ⟨(tm (fun t => { t with convs := [(3, { armed := true, exp := 1, sgn := 0 })] })) (D), ⟨iss (.mswap ⟨7, false, 3, 0, 0, 0, 0, false, 0, 0⟩) ((tm (fun t => { t with convs := [(3, { armed := true, exp := 1, sgn := 0 })] })) (D)), ⟨(ready_iss (by decide +kernel)), by decide +kernel⟩⟩⟩⟩,
   ⟨⟨7, false, 3, 32, 48, 2, 3, true, 0, 0⟩, ⟨(tm (fun t => { t with convs := [(3, { armed := true, exp := 1, sgn := 0 })] })) ((reg 48 0xC00020) (D)), ⟨iss (.mmul ⟨7, false, 3, 32, 48, 2, 3, true, 0, 0⟩) ((tm (fun t => { t with convs := [(3, { armed := true, exp := 1, sgn := 0 })] })) ((reg 48 0xC00020) (D))), ⟨(ready_iss (by decide +kernel)), by decide +kernel⟩⟩⟩⟩,
   ⟨⟨7, false, 3, 32, 48, 2, 3, true, 0, 0⟩, ⟨(tm (fun t => { t with convs := [(3, { armed := true, exp := 1, sgn := 0 })] })) ((reg 48 0xC00020) (D)), ⟨iss (.mmulz ⟨7, false, 3, 32, 48, 2, 3, true, 0, 0⟩) ((tm (fun t => { t with convs := [(3, { armed := true, exp := 1, sgn := 0 })] })) ((reg 48 0xC00020) (D))), ⟨(ready_iss (by decide +kernel)), by decide +kernel⟩⟩⟩⟩,
   ⟨⟨7, false, 3, 32, 48, 2, 3, true, 0, 0⟩, ⟨(tm (fun t => { t with convs := [(3, { armed := true, exp := 1, sgn := 0 })] })) ((reg 48 0xC00020) (D)), ⟨iss (.acst ⟨7, false, 3, 32, 48, 2, 3, true, 0, 0⟩) ((tm (fun t => { t with convs := [(3, { armed := true, exp := 1, sgn := 0 })] })) ((reg 48 0xC00020) (D))), ⟨(ready_iss (by decide +kernel)), by decide +kernel⟩⟩⟩⟩,
   ⟨⟨7, false, 3, 32, 48, 2, 3, true, 0, 0⟩, ⟨(tm (fun t => { t with convs := [(3, { armed := true, exp := 1, sgn := 0 })] })) ((reg 48 0xC00020) (D)), ⟨iss (.acld ⟨7, false, 3, 32, 48, 2, 3, true, 0, 0⟩) ((tm (fun t => { t with convs := [(3, { armed := true, exp := 1, sgn := 0 })] })) ((reg 48 0xC00020) (D))), ⟨(ready_iss (by decide +kernel)), by decide +kernel⟩⟩⟩⟩,
   ⟨⟨7, false, 3, 32, 48, 2, 3, true, 0, 0⟩, ⟨(tm (fun t => { t with convs := [(3, { armed := true, exp := 1, sgn := 0 })] })) ((reg 48 0xC00020) (D)), ⟨iss (.acsclRow ⟨7, false, 3, 32, 48, 2, 3, true, 0, 0⟩) ((tm (fun t => { t with convs := [(3, { armed := true, exp := 1, sgn := 0 })] })) ((reg 48 0xC00020) (D))), ⟨(ready_iss (by decide +kernel)), by decide +kernel⟩⟩⟩⟩,
   ⟨⟨7, false, 3, 32, 48, 2, 3, true, 0, 0⟩, ⟨(tm (fun t => { t with convs := [(3, { armed := true, exp := 1, sgn := 0 })] })) ((reg 48 0xC00020) (D)), ⟨iss (.acsclCol ⟨7, false, 3, 32, 48, 2, 3, true, 0, 0⟩) ((tm (fun t => { t with convs := [(3, { armed := true, exp := 1, sgn := 0 })] })) ((reg 48 0xC00020) (D))), ⟨(ready_iss (by decide +kernel)), by decide +kernel⟩⟩⟩⟩,
   ⟨⟨7, false, 3, 32, 48, 2, 3, true, 0, 0⟩, ⟨(tm (fun t => { t with convs := [(3, { armed := true, exp := 1, sgn := 0 })] })) ((reg 48 0xC00020) (D)), ⟨iss (.acredMax ⟨7, false, 3, 32, 48, 2, 3, true, 0, 0⟩) ((tm (fun t => { t with convs := [(3, { armed := true, exp := 1, sgn := 0 })] })) ((reg 48 0xC00020) (D))), ⟨(ready_iss (by decide +kernel)), by decide +kernel⟩⟩⟩⟩,
   ⟨⟨7, false, 3, 32, 48, 2, 3, true, 0, 0⟩, ⟨(tm (fun t => { t with convs := [(3, { armed := true, exp := 1, sgn := 0 })] })) ((reg 48 0xC00020) (D)), ⟨iss (.acredSum ⟨7, false, 3, 32, 48, 2, 3, true, 0, 0⟩) ((tm (fun t => { t with convs := [(3, { armed := true, exp := 1, sgn := 0 })] })) ((reg 48 0xC00020) (D))), ⟨(ready_iss (by decide +kernel)), by decide +kernel⟩⟩⟩⟩,
   ⟨⟨7, false, 3, 32, 48, 2, 3, true, 0, 0⟩, ⟨(tm (fun t => { t with convs := [(3, { armed := true, exp := 1, sgn := 0 })] })) ((reg 48 0xC00020) (D)), ⟨iss (.acbias ⟨7, false, 3, 32, 48, 2, 3, true, 0, 0⟩) ((tm (fun t => { t with convs := [(3, { armed := true, exp := 1, sgn := 0 })] })) ((reg 48 0xC00020) (D))), ⟨(ready_iss (by decide +kernel)), by decide +kernel⟩⟩⟩⟩,
   ⟨⟨7, false, 3, 32, 48, 2, 3, true, 0, 0⟩, ⟨(tm (fun t => { t with convs := [(3, { armed := true, exp := 1, sgn := 0 })] })) ((reg 48 0xC00020) (D)), ⟨iss (.acnrm ⟨7, false, 3, 32, 48, 2, 3, true, 0, 0⟩) ((tm (fun t => { t with convs := [(3, { armed := true, exp := 1, sgn := 0 })] })) ((reg 48 0xC00020) (D))), ⟨(ready_iss (by decide +kernel)), by decide +kernel⟩⟩⟩⟩,
   ⟨⟨7, false, 3, 32, 0, 0, 3, true, 0, 0⟩, ⟨(cr (fun k => { k with tlb := [{ ctx := 1, va := 0x80000, level := 0, leaf := 0x132F, pte := 0x6008 }] })) ((tm (fun t => { t with convs := [(3, { armed := true, exp := 1, sgn := 0 })] })) ((reg 32 0x80000) (D))), ⟨iss (.mldl ⟨7, false, 3, 32, 0, 0, 3, true, 0, 0⟩) ((cr (fun k => { k with tlb := [{ ctx := 1, va := 0x80000, level := 0, leaf := 0x132F, pte := 0x6008 }] })) ((tm (fun t => { t with convs := [(3, { armed := true, exp := 1, sgn := 0 })] })) ((reg 32 0x80000) (D)))), ⟨(ready_iss (by decide +kernel)), ⟨by decide +kernel, by decide +kernel, by decide +kernel, _, range_hit (by decide +kernel), by decide +kernel, by decide +kernel⟩⟩⟩⟩⟩,
   ⟨⟨7, false, 3, 0, 0, 2, 3, true, 0, 0⟩, ⟨(tm (fun t => { t with convs := [(3, { armed := true, exp := 1, sgn := 0 })] })) (D), ⟨iss (.mlds ⟨7, false, 3, 0, 0, 2, 3, true, 0, 0⟩) ((tm (fun t => { t with convs := [(3, { armed := true, exp := 1, sgn := 0 })] })) (D)), ⟨(ready_iss (by decide +kernel)), by decide +kernel⟩⟩⟩⟩,
   ⟨⟨7, false, 3, 0, 0, 2, 3, true, 0, 0⟩, ⟨D, ⟨iss (.mlds ⟨7, false, 3, 0, 0, 2, 3, true, 0, 0⟩) (D), ⟨(ready_iss (by decide +kernel)), by decide +kernel⟩⟩⟩⟩,
   ⟨⟨7, false, 3, 0, 0, 2, 3, true, 0, 0⟩, ⟨(tm (fun t => { t with matq := List.replicate 16 { id := 1, instr := .mswap ⟨7, false, 3, 0, 0, 0, 0, false, 0, 0⟩, pc := 0, cv := 3, ph := 0 } })) ((tm (fun t => { t with convs := [(3, { armed := true, exp := 1, sgn := 0 })] })) (D)), ⟨iss (.mlds ⟨7, false, 3, 0, 0, 2, 3, true, 0, 0⟩) ((tm (fun t => { t with matq := List.replicate 16 { id := 1, instr := .mswap ⟨7, false, 3, 0, 0, 0, 0, false, 0, 0⟩, pc := 0, cv := 3, ph := 0 } })) ((tm (fun t => { t with convs := [(3, { armed := true, exp := 1, sgn := 0 })] })) (D))), ⟨(ready_iss (by decide +kernel)), by decide +kernel⟩⟩⟩⟩⟩
theorem test_MatrixCommandsArePosted_met2 :
    (∃ o, ∃ s : State, ∃ x : Iss, Ready (.mswap o) s x ∧ x.teamed (x.moved s) ∧ (fun _ => True) x ∧ x.matRoom (x.moved s)) ∧
    (∃ o, ∃ s : State, ∃ x : Iss, Ready (.mswap o) s x ∧ x.canTrap (x.moved s) ∧ x.teamed (x.moved s) ∧ (fun _ => True) x ∧ (x.convReg (x.moved s) (x.mine (x.moved s))).armed = false) ∧
    (∃ o, ∃ s : State, ∃ x : Iss, Ready (.mswap o) s x ∧ x.teamed (x.moved s) ∧ (fun _ => True) x ∧ (x.convReg (x.moved s) (x.mine (x.moved s))).armed = true ∧ 16 ≤ ((x.moved s).team (x.mine (x.moved s))).matq.length) ∧
    (∃ o, ∃ s : State, ∃ x : Iss, Ready (.mmul o) s x ∧ x.teamed (x.moved s) ∧ (fun x => x.rowsOk false) x ∧ x.matRoom (x.moved s)) ∧
    (∃ o, ∃ s : State, ∃ x : Iss, Ready (.mmul o) s x ∧ x.canTrap (x.moved s) ∧ x.teamed (x.moved s) ∧ (fun x => x.rowsOk false) x ∧ (x.convReg (x.moved s) (x.mine (x.moved s))).armed = false) ∧
    (∃ o, ∃ s : State, ∃ x : Iss, Ready (.mmul o) s x ∧ x.teamed (x.moved s) ∧ (fun x => x.rowsOk false) x ∧ (x.convReg (x.moved s) (x.mine (x.moved s))).armed = true ∧ 16 ≤ ((x.moved s).team (x.mine (x.moved s))).matq.length) ∧
    (∃ o, ∃ s : State, ∃ x : Iss, Ready (.mmulz o) s x ∧ x.teamed (x.moved s) ∧ (fun x => x.rowsOk false) x ∧ x.matRoom (x.moved s)) ∧
    (∃ o, ∃ s : State, ∃ x : Iss, Ready (.mmulz o) s x ∧ x.canTrap (x.moved s) ∧ x.teamed (x.moved s) ∧ (fun x => x.rowsOk false) x ∧ (x.convReg (x.moved s) (x.mine (x.moved s))).armed = false) ∧
    (∃ o, ∃ s : State, ∃ x : Iss, Ready (.mmulz o) s x ∧ x.teamed (x.moved s) ∧ (fun x => x.rowsOk false) x ∧ (x.convReg (x.moved s) (x.mine (x.moved s))).armed = true ∧ 16 ≤ ((x.moved s).team (x.mine (x.moved s))).matq.length) ∧
    (∃ o, ∃ s : State, ∃ x : Iss, Ready (.acst o) s x ∧ x.teamed (x.moved s) ∧ (fun x => x.rowsOk false) x ∧ x.matRoom (x.moved s)) ∧
    (∃ o, ∃ s : State, ∃ x : Iss, Ready (.acst o) s x ∧ x.canTrap (x.moved s) ∧ x.teamed (x.moved s) ∧ (fun x => x.rowsOk false) x ∧ (x.convReg (x.moved s) (x.mine (x.moved s))).armed = false) ∧
    (∃ o, ∃ s : State, ∃ x : Iss, Ready (.acst o) s x ∧ x.teamed (x.moved s) ∧ (fun x => x.rowsOk false) x ∧ (x.convReg (x.moved s) (x.mine (x.moved s))).armed = true ∧ 16 ≤ ((x.moved s).team (x.mine (x.moved s))).matq.length) ∧
    (∃ o, ∃ s : State, ∃ x : Iss, Ready (.acld o) s x ∧ x.teamed (x.moved s) ∧ (fun x => x.rowsOk false) x ∧ x.matRoom (x.moved s)) ∧
    (∃ o, ∃ s : State, ∃ x : Iss, Ready (.acld o) s x ∧ x.canTrap (x.moved s) ∧ x.teamed (x.moved s) ∧ (fun x => x.rowsOk false) x ∧ (x.convReg (x.moved s) (x.mine (x.moved s))).armed = false) ∧
    (∃ o, ∃ s : State, ∃ x : Iss, Ready (.acld o) s x ∧ x.teamed (x.moved s) ∧ (fun x => x.rowsOk false) x ∧ (x.convReg (x.moved s) (x.mine (x.moved s))).armed = true ∧ 16 ≤ ((x.moved s).team (x.mine (x.moved s))).matq.length) ∧
    (∃ o, ∃ s : State, ∃ x : Iss, Ready (.acsclRow o) s x ∧ x.teamed (x.moved s) ∧ (fun x => x.rowsOk false) x ∧ x.matRoom (x.moved s)) :=
  ⟨⟨⟨7, false, 3, 0, 0, 0, 0, false, 0, 0⟩, ⟨(tm (fun t => { t with convs := [(3, { armed := true, exp := 1, sgn := 0 })] })) ((reg 48 0xC00020) (D)), ⟨iss (.mswap ⟨7, false, 3, 0, 0, 0, 0, false, 0, 0⟩) ((tm (fun t => { t with convs := [(3, { armed := true, exp := 1, sgn := 0 })] })) ((reg 48 0xC00020) (D))), ⟨(ready_iss (by decide +kernel)), by decide +kernel⟩⟩⟩⟩,
   ⟨⟨7, false, 3, 0, 0, 0, 0, false, 0, 0⟩, ⟨(reg 48 0xC00020) (D), ⟨iss (.mswap ⟨7, false, 3, 0, 0, 0, 0, false, 0, 0⟩) ((reg 48 0xC00020) (D)), ⟨(ready_iss (by decide +kernel)), by decide +kernel⟩⟩⟩⟩,
   ⟨⟨7, false, 3, 0, 0, 0, 0, false, 0, 0⟩, ⟨(tm (fun t => { t with matq := List.replicate 16 { id := 1, instr := .mswap ⟨7, false, 3, 0, 0, 0, 0, false, 0, 0⟩, pc := 0, cv := 3, ph := 0 } })) ((tm (fun t => { t with convs := [(3, { armed := true, exp := 1, sgn := 0 })] })) ((reg 48 0xC00020) (D))), ⟨iss (.mswap ⟨7, false, 3, 0, 0, 0, 0, false, 0, 0⟩) ((tm (fun t => { t with matq := List.replicate 16 { id := 1, instr := .mswap ⟨7, false, 3, 0, 0, 0, 0, false, 0, 0⟩, pc := 0, cv := 3, ph := 0 } })) ((tm (fun t => { t with convs := [(3, { armed := true, exp := 1, sgn := 0 })] })) ((reg 48 0xC00020) (D)))), ⟨(ready_iss (by decide +kernel)), by decide +kernel⟩⟩⟩⟩,
   ⟨⟨7, false, 3, 32, 48, 2, 3, true, 0, 0⟩, ⟨(tm (fun t => { t with convs := [(3, { armed := true, exp := 1, sgn := 0 })] })) ((reg 48 0xC00020) (D)), ⟨iss (.mmul ⟨7, false, 3, 32, 48, 2, 3, true, 0, 0⟩) ((tm (fun t => { t with convs := [(3, { armed := true, exp := 1, sgn := 0 })] })) ((reg 48 0xC00020) (D))), ⟨(ready_iss (by decide +kernel)), by decide +kernel⟩⟩⟩⟩,
   ⟨⟨7, false, 3, 32, 48, 2, 3, true, 0, 0⟩, ⟨(reg 48 0xC00020) (D), ⟨iss (.mmul ⟨7, false, 3, 32, 48, 2, 3, true, 0, 0⟩) ((reg 48 0xC00020) (D)), ⟨(ready_iss (by decide +kernel)), by decide +kernel⟩⟩⟩⟩,
   ⟨⟨7, false, 3, 32, 48, 2, 3, true, 0, 0⟩, ⟨(tm (fun t => { t with matq := List.replicate 16 { id := 1, instr := .mswap ⟨7, false, 3, 0, 0, 0, 0, false, 0, 0⟩, pc := 0, cv := 3, ph := 0 } })) ((tm (fun t => { t with convs := [(3, { armed := true, exp := 1, sgn := 0 })] })) ((reg 48 0xC00020) (D))), ⟨iss (.mmul ⟨7, false, 3, 32, 48, 2, 3, true, 0, 0⟩) ((tm (fun t => { t with matq := List.replicate 16 { id := 1, instr := .mswap ⟨7, false, 3, 0, 0, 0, 0, false, 0, 0⟩, pc := 0, cv := 3, ph := 0 } })) ((tm (fun t => { t with convs := [(3, { armed := true, exp := 1, sgn := 0 })] })) ((reg 48 0xC00020) (D)))), ⟨(ready_iss (by decide +kernel)), by decide +kernel⟩⟩⟩⟩,
   ⟨⟨7, false, 3, 32, 48, 2, 3, true, 0, 0⟩, ⟨(tm (fun t => { t with convs := [(3, { armed := true, exp := 1, sgn := 0 })] })) ((reg 48 0xC00020) (D)), ⟨iss (.mmulz ⟨7, false, 3, 32, 48, 2, 3, true, 0, 0⟩) ((tm (fun t => { t with convs := [(3, { armed := true, exp := 1, sgn := 0 })] })) ((reg 48 0xC00020) (D))), ⟨(ready_iss (by decide +kernel)), by decide +kernel⟩⟩⟩⟩,
   ⟨⟨7, false, 3, 32, 48, 2, 3, true, 0, 0⟩, ⟨(reg 48 0xC00020) (D), ⟨iss (.mmulz ⟨7, false, 3, 32, 48, 2, 3, true, 0, 0⟩) ((reg 48 0xC00020) (D)), ⟨(ready_iss (by decide +kernel)), by decide +kernel⟩⟩⟩⟩,
   ⟨⟨7, false, 3, 32, 48, 2, 3, true, 0, 0⟩, ⟨(tm (fun t => { t with matq := List.replicate 16 { id := 1, instr := .mswap ⟨7, false, 3, 0, 0, 0, 0, false, 0, 0⟩, pc := 0, cv := 3, ph := 0 } })) ((tm (fun t => { t with convs := [(3, { armed := true, exp := 1, sgn := 0 })] })) ((reg 48 0xC00020) (D))), ⟨iss (.mmulz ⟨7, false, 3, 32, 48, 2, 3, true, 0, 0⟩) ((tm (fun t => { t with matq := List.replicate 16 { id := 1, instr := .mswap ⟨7, false, 3, 0, 0, 0, 0, false, 0, 0⟩, pc := 0, cv := 3, ph := 0 } })) ((tm (fun t => { t with convs := [(3, { armed := true, exp := 1, sgn := 0 })] })) ((reg 48 0xC00020) (D)))), ⟨(ready_iss (by decide +kernel)), by decide +kernel⟩⟩⟩⟩,
   ⟨⟨7, false, 3, 32, 48, 2, 3, true, 0, 0⟩, ⟨(tm (fun t => { t with convs := [(3, { armed := true, exp := 1, sgn := 0 })] })) ((reg 48 0xC00020) (D)), ⟨iss (.acst ⟨7, false, 3, 32, 48, 2, 3, true, 0, 0⟩) ((tm (fun t => { t with convs := [(3, { armed := true, exp := 1, sgn := 0 })] })) ((reg 48 0xC00020) (D))), ⟨(ready_iss (by decide +kernel)), by decide +kernel⟩⟩⟩⟩,
   ⟨⟨7, false, 3, 32, 48, 2, 3, true, 0, 0⟩, ⟨(reg 48 0xC00020) (D), ⟨iss (.acst ⟨7, false, 3, 32, 48, 2, 3, true, 0, 0⟩) ((reg 48 0xC00020) (D)), ⟨(ready_iss (by decide +kernel)), by decide +kernel⟩⟩⟩⟩,
   ⟨⟨7, false, 3, 32, 48, 2, 3, true, 0, 0⟩, ⟨(tm (fun t => { t with matq := List.replicate 16 { id := 1, instr := .mswap ⟨7, false, 3, 0, 0, 0, 0, false, 0, 0⟩, pc := 0, cv := 3, ph := 0 } })) ((tm (fun t => { t with convs := [(3, { armed := true, exp := 1, sgn := 0 })] })) ((reg 48 0xC00020) (D))), ⟨iss (.acst ⟨7, false, 3, 32, 48, 2, 3, true, 0, 0⟩) ((tm (fun t => { t with matq := List.replicate 16 { id := 1, instr := .mswap ⟨7, false, 3, 0, 0, 0, 0, false, 0, 0⟩, pc := 0, cv := 3, ph := 0 } })) ((tm (fun t => { t with convs := [(3, { armed := true, exp := 1, sgn := 0 })] })) ((reg 48 0xC00020) (D)))), ⟨(ready_iss (by decide +kernel)), by decide +kernel⟩⟩⟩⟩,
   ⟨⟨7, false, 3, 32, 48, 2, 3, true, 0, 0⟩, ⟨(tm (fun t => { t with convs := [(3, { armed := true, exp := 1, sgn := 0 })] })) ((reg 48 0xC00020) (D)), ⟨iss (.acld ⟨7, false, 3, 32, 48, 2, 3, true, 0, 0⟩) ((tm (fun t => { t with convs := [(3, { armed := true, exp := 1, sgn := 0 })] })) ((reg 48 0xC00020) (D))), ⟨(ready_iss (by decide +kernel)), by decide +kernel⟩⟩⟩⟩,
   ⟨⟨7, false, 3, 32, 48, 2, 3, true, 0, 0⟩, ⟨(reg 48 0xC00020) (D), ⟨iss (.acld ⟨7, false, 3, 32, 48, 2, 3, true, 0, 0⟩) ((reg 48 0xC00020) (D)), ⟨(ready_iss (by decide +kernel)), by decide +kernel⟩⟩⟩⟩,
   ⟨⟨7, false, 3, 32, 48, 2, 3, true, 0, 0⟩, ⟨(tm (fun t => { t with matq := List.replicate 16 { id := 1, instr := .mswap ⟨7, false, 3, 0, 0, 0, 0, false, 0, 0⟩, pc := 0, cv := 3, ph := 0 } })) ((tm (fun t => { t with convs := [(3, { armed := true, exp := 1, sgn := 0 })] })) ((reg 48 0xC00020) (D))), ⟨iss (.acld ⟨7, false, 3, 32, 48, 2, 3, true, 0, 0⟩) ((tm (fun t => { t with matq := List.replicate 16 { id := 1, instr := .mswap ⟨7, false, 3, 0, 0, 0, 0, false, 0, 0⟩, pc := 0, cv := 3, ph := 0 } })) ((tm (fun t => { t with convs := [(3, { armed := true, exp := 1, sgn := 0 })] })) ((reg 48 0xC00020) (D)))), ⟨(ready_iss (by decide +kernel)), by decide +kernel⟩⟩⟩⟩,
   ⟨⟨7, false, 3, 32, 48, 2, 3, true, 0, 0⟩, ⟨(tm (fun t => { t with convs := [(3, { armed := true, exp := 1, sgn := 0 })] })) ((reg 48 0xC00020) (D)), ⟨iss (.acsclRow ⟨7, false, 3, 32, 48, 2, 3, true, 0, 0⟩) ((tm (fun t => { t with convs := [(3, { armed := true, exp := 1, sgn := 0 })] })) ((reg 48 0xC00020) (D))), ⟨(ready_iss (by decide +kernel)), by decide +kernel⟩⟩⟩⟩⟩
theorem test_MatrixCommandsArePosted_met3 :
    (∃ o, ∃ s : State, ∃ x : Iss, Ready (.acsclRow o) s x ∧ x.canTrap (x.moved s) ∧ x.teamed (x.moved s) ∧ (fun x => x.rowsOk false) x ∧ (x.convReg (x.moved s) (x.mine (x.moved s))).armed = false) ∧
    (∃ o, ∃ s : State, ∃ x : Iss, Ready (.acsclRow o) s x ∧ x.teamed (x.moved s) ∧ (fun x => x.rowsOk false) x ∧ (x.convReg (x.moved s) (x.mine (x.moved s))).armed = true ∧ 16 ≤ ((x.moved s).team (x.mine (x.moved s))).matq.length) ∧
    (∃ o, ∃ s : State, ∃ x : Iss, Ready (.acsclCol o) s x ∧ x.teamed (x.moved s) ∧ (fun x => x.rowsOk false) x ∧ x.matRoom (x.moved s)) ∧
    (∃ o, ∃ s : State, ∃ x : Iss, Ready (.acsclCol o) s x ∧ x.canTrap (x.moved s) ∧ x.teamed (x.moved s) ∧ (fun x => x.rowsOk false) x ∧ (x.convReg (x.moved s) (x.mine (x.moved s))).armed = false) ∧
    (∃ o, ∃ s : State, ∃ x : Iss, Ready (.acsclCol o) s x ∧ x.teamed (x.moved s) ∧ (fun x => x.rowsOk false) x ∧ (x.convReg (x.moved s) (x.mine (x.moved s))).armed = true ∧ 16 ≤ ((x.moved s).team (x.mine (x.moved s))).matq.length) ∧
    (∃ o, ∃ s : State, ∃ x : Iss, Ready (.acredMax o) s x ∧ x.teamed (x.moved s) ∧ (fun x => x.rowsOk false) x ∧ x.matRoom (x.moved s)) ∧
    (∃ o, ∃ s : State, ∃ x : Iss, Ready (.acredMax o) s x ∧ x.canTrap (x.moved s) ∧ x.teamed (x.moved s) ∧ (fun x => x.rowsOk false) x ∧ (x.convReg (x.moved s) (x.mine (x.moved s))).armed = false) ∧
    (∃ o, ∃ s : State, ∃ x : Iss, Ready (.acredMax o) s x ∧ x.teamed (x.moved s) ∧ (fun x => x.rowsOk false) x ∧ (x.convReg (x.moved s) (x.mine (x.moved s))).armed = true ∧ 16 ≤ ((x.moved s).team (x.mine (x.moved s))).matq.length) ∧
    (∃ o, ∃ s : State, ∃ x : Iss, Ready (.acredSum o) s x ∧ x.teamed (x.moved s) ∧ (fun x => x.rowsOk false) x ∧ x.matRoom (x.moved s)) ∧
    (∃ o, ∃ s : State, ∃ x : Iss, Ready (.acredSum o) s x ∧ x.canTrap (x.moved s) ∧ x.teamed (x.moved s) ∧ (fun x => x.rowsOk false) x ∧ (x.convReg (x.moved s) (x.mine (x.moved s))).armed = false) ∧
    (∃ o, ∃ s : State, ∃ x : Iss, Ready (.acredSum o) s x ∧ x.teamed (x.moved s) ∧ (fun x => x.rowsOk false) x ∧ (x.convReg (x.moved s) (x.mine (x.moved s))).armed = true ∧ 16 ≤ ((x.moved s).team (x.mine (x.moved s))).matq.length) ∧
    (∃ o, ∃ s : State, ∃ x : Iss, Ready (.acbias o) s x ∧ x.teamed (x.moved s) ∧ (fun x => x.rowsOk false) x ∧ x.matRoom (x.moved s)) ∧
    (∃ o, ∃ s : State, ∃ x : Iss, Ready (.acbias o) s x ∧ x.canTrap (x.moved s) ∧ x.teamed (x.moved s) ∧ (fun x => x.rowsOk false) x ∧ (x.convReg (x.moved s) (x.mine (x.moved s))).armed = false) ∧
    (∃ o, ∃ s : State, ∃ x : Iss, Ready (.acbias o) s x ∧ x.teamed (x.moved s) ∧ (fun x => x.rowsOk false) x ∧ (x.convReg (x.moved s) (x.mine (x.moved s))).armed = true ∧ 16 ≤ ((x.moved s).team (x.mine (x.moved s))).matq.length) ∧
    (∃ o, ∃ s : State, ∃ x : Iss, Ready (.acnrm o) s x ∧ x.teamed (x.moved s) ∧ (fun x => x.rowsOk true) x ∧ x.matRoom (x.moved s)) ∧
    (∃ o, ∃ s : State, ∃ x : Iss, Ready (.acnrm o) s x ∧ x.canTrap (x.moved s) ∧ x.teamed (x.moved s) ∧ (fun x => x.rowsOk true) x ∧ (x.convReg (x.moved s) (x.mine (x.moved s))).armed = false) :=
  ⟨⟨⟨7, false, 3, 32, 48, 2, 3, true, 0, 0⟩, ⟨(reg 48 0xC00020) (D), ⟨iss (.acsclRow ⟨7, false, 3, 32, 48, 2, 3, true, 0, 0⟩) ((reg 48 0xC00020) (D)), ⟨(ready_iss (by decide +kernel)), by decide +kernel⟩⟩⟩⟩,
   ⟨⟨7, false, 3, 32, 48, 2, 3, true, 0, 0⟩, ⟨(tm (fun t => { t with matq := List.replicate 16 { id := 1, instr := .mswap ⟨7, false, 3, 0, 0, 0, 0, false, 0, 0⟩, pc := 0, cv := 3, ph := 0 } })) ((tm (fun t => { t with convs := [(3, { armed := true, exp := 1, sgn := 0 })] })) ((reg 48 0xC00020) (D))), ⟨iss (.acsclRow ⟨7, false, 3, 32, 48, 2, 3, true, 0, 0⟩) ((tm (fun t => { t with matq := List.replicate 16 { id := 1, instr := .mswap ⟨7, false, 3, 0, 0, 0, 0, false, 0, 0⟩, pc := 0, cv := 3, ph := 0 } })) ((tm (fun t => { t with convs := [(3, { armed := true, exp := 1, sgn := 0 })] })) ((reg 48 0xC00020) (D)))), ⟨(ready_iss (by decide +kernel)), by decide +kernel⟩⟩⟩⟩,
   ⟨⟨7, false, 3, 32, 48, 2, 3, true, 0, 0⟩, ⟨(tm (fun t => { t with convs := [(3, { armed := true, exp := 1, sgn := 0 })] })) ((reg 48 0xC00020) (D)), ⟨iss (.acsclCol ⟨7, false, 3, 32, 48, 2, 3, true, 0, 0⟩) ((tm (fun t => { t with convs := [(3, { armed := true, exp := 1, sgn := 0 })] })) ((reg 48 0xC00020) (D))), ⟨(ready_iss (by decide +kernel)), by decide +kernel⟩⟩⟩⟩,
   ⟨⟨7, false, 3, 32, 48, 2, 3, true, 0, 0⟩, ⟨(reg 48 0xC00020) (D), ⟨iss (.acsclCol ⟨7, false, 3, 32, 48, 2, 3, true, 0, 0⟩) ((reg 48 0xC00020) (D)), ⟨(ready_iss (by decide +kernel)), by decide +kernel⟩⟩⟩⟩,
   ⟨⟨7, false, 3, 32, 48, 2, 3, true, 0, 0⟩, ⟨(tm (fun t => { t with matq := List.replicate 16 { id := 1, instr := .mswap ⟨7, false, 3, 0, 0, 0, 0, false, 0, 0⟩, pc := 0, cv := 3, ph := 0 } })) ((tm (fun t => { t with convs := [(3, { armed := true, exp := 1, sgn := 0 })] })) ((reg 48 0xC00020) (D))), ⟨iss (.acsclCol ⟨7, false, 3, 32, 48, 2, 3, true, 0, 0⟩) ((tm (fun t => { t with matq := List.replicate 16 { id := 1, instr := .mswap ⟨7, false, 3, 0, 0, 0, 0, false, 0, 0⟩, pc := 0, cv := 3, ph := 0 } })) ((tm (fun t => { t with convs := [(3, { armed := true, exp := 1, sgn := 0 })] })) ((reg 48 0xC00020) (D)))), ⟨(ready_iss (by decide +kernel)), by decide +kernel⟩⟩⟩⟩,
   ⟨⟨7, false, 3, 32, 48, 2, 3, true, 0, 0⟩, ⟨(tm (fun t => { t with convs := [(3, { armed := true, exp := 1, sgn := 0 })] })) ((reg 48 0xC00020) (D)), ⟨iss (.acredMax ⟨7, false, 3, 32, 48, 2, 3, true, 0, 0⟩) ((tm (fun t => { t with convs := [(3, { armed := true, exp := 1, sgn := 0 })] })) ((reg 48 0xC00020) (D))), ⟨(ready_iss (by decide +kernel)), by decide +kernel⟩⟩⟩⟩,
   ⟨⟨7, false, 3, 32, 48, 2, 3, true, 0, 0⟩, ⟨(reg 48 0xC00020) (D), ⟨iss (.acredMax ⟨7, false, 3, 32, 48, 2, 3, true, 0, 0⟩) ((reg 48 0xC00020) (D)), ⟨(ready_iss (by decide +kernel)), by decide +kernel⟩⟩⟩⟩,
   ⟨⟨7, false, 3, 32, 48, 2, 3, true, 0, 0⟩, ⟨(tm (fun t => { t with matq := List.replicate 16 { id := 1, instr := .mswap ⟨7, false, 3, 0, 0, 0, 0, false, 0, 0⟩, pc := 0, cv := 3, ph := 0 } })) ((tm (fun t => { t with convs := [(3, { armed := true, exp := 1, sgn := 0 })] })) ((reg 48 0xC00020) (D))), ⟨iss (.acredMax ⟨7, false, 3, 32, 48, 2, 3, true, 0, 0⟩) ((tm (fun t => { t with matq := List.replicate 16 { id := 1, instr := .mswap ⟨7, false, 3, 0, 0, 0, 0, false, 0, 0⟩, pc := 0, cv := 3, ph := 0 } })) ((tm (fun t => { t with convs := [(3, { armed := true, exp := 1, sgn := 0 })] })) ((reg 48 0xC00020) (D)))), ⟨(ready_iss (by decide +kernel)), by decide +kernel⟩⟩⟩⟩,
   ⟨⟨7, false, 3, 32, 48, 2, 3, true, 0, 0⟩, ⟨(tm (fun t => { t with convs := [(3, { armed := true, exp := 1, sgn := 0 })] })) ((reg 48 0xC00020) (D)), ⟨iss (.acredSum ⟨7, false, 3, 32, 48, 2, 3, true, 0, 0⟩) ((tm (fun t => { t with convs := [(3, { armed := true, exp := 1, sgn := 0 })] })) ((reg 48 0xC00020) (D))), ⟨(ready_iss (by decide +kernel)), by decide +kernel⟩⟩⟩⟩,
   ⟨⟨7, false, 3, 32, 48, 2, 3, true, 0, 0⟩, ⟨(reg 48 0xC00020) (D), ⟨iss (.acredSum ⟨7, false, 3, 32, 48, 2, 3, true, 0, 0⟩) ((reg 48 0xC00020) (D)), ⟨(ready_iss (by decide +kernel)), by decide +kernel⟩⟩⟩⟩,
   ⟨⟨7, false, 3, 32, 48, 2, 3, true, 0, 0⟩, ⟨(tm (fun t => { t with matq := List.replicate 16 { id := 1, instr := .mswap ⟨7, false, 3, 0, 0, 0, 0, false, 0, 0⟩, pc := 0, cv := 3, ph := 0 } })) ((tm (fun t => { t with convs := [(3, { armed := true, exp := 1, sgn := 0 })] })) ((reg 48 0xC00020) (D))), ⟨iss (.acredSum ⟨7, false, 3, 32, 48, 2, 3, true, 0, 0⟩) ((tm (fun t => { t with matq := List.replicate 16 { id := 1, instr := .mswap ⟨7, false, 3, 0, 0, 0, 0, false, 0, 0⟩, pc := 0, cv := 3, ph := 0 } })) ((tm (fun t => { t with convs := [(3, { armed := true, exp := 1, sgn := 0 })] })) ((reg 48 0xC00020) (D)))), ⟨(ready_iss (by decide +kernel)), by decide +kernel⟩⟩⟩⟩,
   ⟨⟨7, false, 3, 32, 48, 2, 3, true, 0, 0⟩, ⟨(tm (fun t => { t with convs := [(3, { armed := true, exp := 1, sgn := 0 })] })) ((reg 48 0xC00020) (D)), ⟨iss (.acbias ⟨7, false, 3, 32, 48, 2, 3, true, 0, 0⟩) ((tm (fun t => { t with convs := [(3, { armed := true, exp := 1, sgn := 0 })] })) ((reg 48 0xC00020) (D))), ⟨(ready_iss (by decide +kernel)), by decide +kernel⟩⟩⟩⟩,
   ⟨⟨7, false, 3, 32, 48, 2, 3, true, 0, 0⟩, ⟨(reg 48 0xC00020) (D), ⟨iss (.acbias ⟨7, false, 3, 32, 48, 2, 3, true, 0, 0⟩) ((reg 48 0xC00020) (D)), ⟨(ready_iss (by decide +kernel)), by decide +kernel⟩⟩⟩⟩,
   ⟨⟨7, false, 3, 32, 48, 2, 3, true, 0, 0⟩, ⟨(tm (fun t => { t with matq := List.replicate 16 { id := 1, instr := .mswap ⟨7, false, 3, 0, 0, 0, 0, false, 0, 0⟩, pc := 0, cv := 3, ph := 0 } })) ((tm (fun t => { t with convs := [(3, { armed := true, exp := 1, sgn := 0 })] })) ((reg 48 0xC00020) (D))), ⟨iss (.acbias ⟨7, false, 3, 32, 48, 2, 3, true, 0, 0⟩) ((tm (fun t => { t with matq := List.replicate 16 { id := 1, instr := .mswap ⟨7, false, 3, 0, 0, 0, 0, false, 0, 0⟩, pc := 0, cv := 3, ph := 0 } })) ((tm (fun t => { t with convs := [(3, { armed := true, exp := 1, sgn := 0 })] })) ((reg 48 0xC00020) (D)))), ⟨(ready_iss (by decide +kernel)), by decide +kernel⟩⟩⟩⟩,
   ⟨⟨7, false, 3, 32, 48, 2, 3, true, 0, 0⟩, ⟨(tm (fun t => { t with convs := [(3, { armed := true, exp := 1, sgn := 0 })] })) ((reg 48 0xC00020) (D)), ⟨iss (.acnrm ⟨7, false, 3, 32, 48, 2, 3, true, 0, 0⟩) ((tm (fun t => { t with convs := [(3, { armed := true, exp := 1, sgn := 0 })] })) ((reg 48 0xC00020) (D))), ⟨(ready_iss (by decide +kernel)), by decide +kernel⟩⟩⟩⟩,
   ⟨⟨7, false, 3, 32, 48, 2, 3, true, 0, 0⟩, ⟨(reg 48 0xC00020) (D), ⟨iss (.acnrm ⟨7, false, 3, 32, 48, 2, 3, true, 0, 0⟩) ((reg 48 0xC00020) (D)), ⟨(ready_iss (by decide +kernel)), by decide +kernel⟩⟩⟩⟩⟩
theorem test_MatrixCommandsArePosted_met4 :
    (∃ o, ∃ s : State, ∃ x : Iss, Ready (.acnrm o) s x ∧ x.teamed (x.moved s) ∧ (fun x => x.rowsOk true) x ∧ (x.convReg (x.moved s) (x.mine (x.moved s))).armed = true ∧ 16 ≤ ((x.moved s).team (x.mine (x.moved s))).matq.length) ∧
    (∃ o, ∃ s : State, ∃ x : Iss, Ready (.mmul o) s x ∧ x.canTrap (x.moved s) ∧ (fun x s => x.teamed s ∧ x.alike (fun x l => [x.a l, x.b l]) ∧ shapeOk false (x.a x.low) (x.b x.low) = false) x (x.moved s)) ∧
    (∃ o, ∃ s : State, ∃ x : Iss, Ready (.mmulz o) s x ∧ x.canTrap (x.moved s) ∧ (fun x s => x.teamed s ∧ x.alike (fun x l => [x.a l, x.b l]) ∧ shapeOk false (x.a x.low) (x.b x.low) = false) x (x.moved s)) ∧
    (∃ o, ∃ s : State, ∃ x : Iss, Ready (.acst o) s x ∧ x.canTrap (x.moved s) ∧ (fun x s => x.teamed s ∧ x.alike (fun x l => [x.a l, x.b l]) ∧ shapeOk false (x.a x.low) (x.b x.low) = false) x (x.moved s)) ∧
    (∃ o, ∃ s : State, ∃ x : Iss, Ready (.acld o) s x ∧ x.canTrap (x.moved s) ∧ (fun x s => x.teamed s ∧ x.alike (fun x l => [x.a l, x.b l]) ∧ shapeOk false (x.a x.low) (x.b x.low) = false) x (x.moved s)) ∧
    (∃ o, ∃ s : State, ∃ x : Iss, Ready (.acsclRow o) s x ∧ x.canTrap (x.moved s) ∧ (fun x s => x.teamed s ∧ x.alike (fun x l => [x.a l, x.b l]) ∧ shapeOk false (x.a x.low) (x.b x.low) = false) x (x.moved s)) ∧
    (∃ o, ∃ s : State, ∃ x : Iss, Ready (.acsclCol o) s x ∧ x.canTrap (x.moved s) ∧ (fun x s => x.teamed s ∧ x.alike (fun x l => [x.a l, x.b l]) ∧ shapeOk false (x.a x.low) (x.b x.low) = false) x (x.moved s)) ∧
    (∃ o, ∃ s : State, ∃ x : Iss, Ready (.acredMax o) s x ∧ x.canTrap (x.moved s) ∧ (fun x s => x.teamed s ∧ x.alike (fun x l => [x.a l, x.b l]) ∧ shapeOk false (x.a x.low) (x.b x.low) = false) x (x.moved s)) ∧
    (∃ o, ∃ s : State, ∃ x : Iss, Ready (.acredSum o) s x ∧ x.canTrap (x.moved s) ∧ (fun x s => x.teamed s ∧ x.alike (fun x l => [x.a l, x.b l]) ∧ shapeOk false (x.a x.low) (x.b x.low) = false) x (x.moved s)) ∧
    (∃ o, ∃ s : State, ∃ x : Iss, Ready (.acbias o) s x ∧ x.canTrap (x.moved s) ∧ (fun x s => x.teamed s ∧ x.alike (fun x l => [x.a l, x.b l]) ∧ shapeOk false (x.a x.low) (x.b x.low) = false) x (x.moved s)) ∧
    (∃ o, ∃ s : State, ∃ x : Iss, Ready (.acnrm o) s x ∧ x.canTrap (x.moved s) ∧ (fun x s => x.teamed s ∧ x.alike (fun x l => [x.a l, x.b l]) ∧ shapeOk true (x.a x.low) (x.b x.low) = false) x (x.moved s)) ∧
    (∃ o, ∃ s : State, ∃ x : Iss, Ready (.mldl o) s x ∧ x.teamed (x.moved s) ∧ x.alike (fun x l => [x.a l]) ∧ x.a x.low % 256 = 0 ∧ ∃ u : State, (x.moved s).checkRange x.agent { rd := true, noWindow := true, reach := false } (x.a x.low) x.matCmd.bytes = (u, none) ∧ x.matRoom u ∧ (u.weave x.g.core x.g.slot).team = ((x.moved s).weave x.g.core x.g.slot).team) ∧
    (∃ o, ∃ s : State, ∃ x : Iss, Ready (.mldl o) s x ∧ x.canTrap (x.moved s) ∧ (fun x s => x.teamed s ∧ x.alike (fun x l => [x.a l]) ∧ x.a x.low % 256 ≠ 0) x (x.moved s)) :=
  ⟨⟨⟨7, false, 3, 32, 48, 2, 3, true, 0, 0⟩, ⟨(tm (fun t => { t with matq := List.replicate 16 { id := 1, instr := .mswap ⟨7, false, 3, 0, 0, 0, 0, false, 0, 0⟩, pc := 0, cv := 3, ph := 0 } })) ((tm (fun t => { t with convs := [(3, { armed := true, exp := 1, sgn := 0 })] })) ((reg 48 0xC00020) (D))), ⟨iss (.acnrm ⟨7, false, 3, 32, 48, 2, 3, true, 0, 0⟩) ((tm (fun t => { t with matq := List.replicate 16 { id := 1, instr := .mswap ⟨7, false, 3, 0, 0, 0, 0, false, 0, 0⟩, pc := 0, cv := 3, ph := 0 } })) ((tm (fun t => { t with convs := [(3, { armed := true, exp := 1, sgn := 0 })] })) ((reg 48 0xC00020) (D)))), ⟨(ready_iss (by decide +kernel)), by decide +kernel⟩⟩⟩⟩,
   ⟨⟨7, false, 3, 32, 48, 2, 3, true, 0, 0⟩, ⟨D, ⟨iss (.mmul ⟨7, false, 3, 32, 48, 2, 3, true, 0, 0⟩) (D), ⟨(ready_iss (by decide +kernel)), by decide +kernel⟩⟩⟩⟩,
   ⟨⟨7, false, 3, 32, 48, 2, 3, true, 0, 0⟩, ⟨D, ⟨iss (.mmulz ⟨7, false, 3, 32, 48, 2, 3, true, 0, 0⟩) (D), ⟨(ready_iss (by decide +kernel)), by decide +kernel⟩⟩⟩⟩,
   ⟨⟨7, false, 3, 32, 48, 2, 3, true, 0, 0⟩, ⟨D, ⟨iss (.acst ⟨7, false, 3, 32, 48, 2, 3, true, 0, 0⟩) (D), ⟨(ready_iss (by decide +kernel)), by decide +kernel⟩⟩⟩⟩,
   ⟨⟨7, false, 3, 32, 48, 2, 3, true, 0, 0⟩, ⟨D, ⟨iss (.acld ⟨7, false, 3, 32, 48, 2, 3, true, 0, 0⟩) (D), ⟨(ready_iss (by decide +kernel)), by decide +kernel⟩⟩⟩⟩,
   ⟨⟨7, false, 3, 32, 48, 2, 3, true, 0, 0⟩, ⟨D, ⟨iss (.acsclRow ⟨7, false, 3, 32, 48, 2, 3, true, 0, 0⟩) (D), ⟨(ready_iss (by decide +kernel)), by decide +kernel⟩⟩⟩⟩,
   ⟨⟨7, false, 3, 32, 48, 2, 3, true, 0, 0⟩, ⟨D, ⟨iss (.acsclCol ⟨7, false, 3, 32, 48, 2, 3, true, 0, 0⟩) (D), ⟨(ready_iss (by decide +kernel)), by decide +kernel⟩⟩⟩⟩,
   ⟨⟨7, false, 3, 32, 48, 2, 3, true, 0, 0⟩, ⟨D, ⟨iss (.acredMax ⟨7, false, 3, 32, 48, 2, 3, true, 0, 0⟩) (D), ⟨(ready_iss (by decide +kernel)), by decide +kernel⟩⟩⟩⟩,
   ⟨⟨7, false, 3, 32, 48, 2, 3, true, 0, 0⟩, ⟨D, ⟨iss (.acredSum ⟨7, false, 3, 32, 48, 2, 3, true, 0, 0⟩) (D), ⟨(ready_iss (by decide +kernel)), by decide +kernel⟩⟩⟩⟩,
   ⟨⟨7, false, 3, 32, 48, 2, 3, true, 0, 0⟩, ⟨D, ⟨iss (.acbias ⟨7, false, 3, 32, 48, 2, 3, true, 0, 0⟩) (D), ⟨(ready_iss (by decide +kernel)), by decide +kernel⟩⟩⟩⟩,
   ⟨⟨7, false, 3, 32, 48, 2, 3, true, 0, 0⟩, ⟨(reg 32 0x80001) (D), ⟨iss (.acnrm ⟨7, false, 3, 32, 48, 2, 3, true, 0, 0⟩) ((reg 32 0x80001) (D)), ⟨(ready_iss (by decide +kernel)), by decide +kernel⟩⟩⟩⟩,
   ⟨⟨7, false, 3, 32, 0, 0, 3, true, 0, 0⟩, ⟨(cr (fun k => { k with tlb := [{ ctx := 1, va := 0x80000, level := 0, leaf := 0x132F, pte := 0x6008 }] })) ((tm (fun t => { t with convs := [(3, { armed := true, exp := 1, sgn := 0 })] })) ((reg 32 0x80000) (D))), ⟨iss (.mldl ⟨7, false, 3, 32, 0, 0, 3, true, 0, 0⟩) ((cr (fun k => { k with tlb := [{ ctx := 1, va := 0x80000, level := 0, leaf := 0x132F, pte := 0x6008 }] })) ((tm (fun t => { t with convs := [(3, { armed := true, exp := 1, sgn := 0 })] })) ((reg 32 0x80000) (D)))), ⟨(ready_iss (by decide +kernel)), ⟨by decide +kernel, ⟨by decide +kernel, ⟨by decide +kernel, ⟨((iss (.mldl ⟨7, false, 3, 32, 0, 0, 3, true, 0, 0⟩) ((cr (fun k => { k with tlb := [{ ctx := 1, va := 0x80000, level := 0, leaf := 0x132F, pte := 0x6008 }] })) ((tm (fun t => { t with convs := [(3, { armed := true, exp := 1, sgn := 0 })] })) ((reg 32 0x80000) (D))))).moved ((cr (fun k => { k with tlb := [{ ctx := 1, va := 0x80000, level := 0, leaf := 0x132F, pte := 0x6008 }] })) ((tm (fun t => { t with convs := [(3, { armed := true, exp := 1, sgn := 0 })] })) ((reg 32 0x80000) (D))))), ⟨(range_hit (by decide +kernel)), by decide +kernel⟩⟩⟩⟩⟩⟩⟩⟩⟩,
   ⟨⟨7, false, 3, 32, 0, 0, 3, true, 0, 0⟩, ⟨(reg 32 0x80001) (D), ⟨iss (.mldl ⟨7, false, 3, 32, 0, 0, 3, true, 0, 0⟩) ((reg 32 0x80001) (D)), ⟨(ready_iss (by decide +kernel)), by decide +kernel⟩⟩⟩⟩⟩
theorem test_ConvergenceAndAccumulators_met :
    (∃ o, ∃ s : State, ∃ x : Iss, Ready (.cvinit o) s x ∧ (fun x s => x.teamed s ∧ x.alike (fun x l => [x.a l]) ∧ x.a x.low ≤ 1024 ∧ (x.a x.low = 0 → ((s.team (x.mine s)).conv x.cv).sgn = 0 ∧ (s.team (x.mine s)).pendCmds x.cv = 0 ∧ s.signsOf x.g.core (x.mine s) x.cv = 0) ∧ (x.a x.low ≠ 0 → ((s.team (x.mine s)).conv x.cv).armed = true → ((s.team (x.mine s)).conv x.cv).exp = x.a x.low)) x (x.moved s)) ∧
    (∃ o, ∃ s : State, ∃ x : Iss, Ready (.cvinit o) s x ∧ x.canTrap (x.moved s) ∧ (fun x s => x.teamed s ∧ x.alike (fun x l => [x.a l]) ∧ 1024 < x.a x.low) x (x.moved s)) ∧
    (∃ o, ∃ s : State, ∃ x : Iss, Ready (.cvinit o) s x ∧ x.canTrap (x.moved s) ∧ (fun x s => x.teamed s ∧ x.alike (fun x l => [x.a l]) ∧ x.a x.low = 0 ∧ (((s.convSoon x.g.core (x.mine s) x.cv).conv x.cv).sgn ≠ 0 ∨ ((s.convSoon x.g.core (x.mine s) x.cv)).pendCmds x.cv ≠ 0)) x (x.moved s)) ∧
    (∃ o, ∃ s : State, ∃ x : Iss, Ready (.cvinit o) s x ∧ (fun x s => x.teamed s ∧ x.alike (fun x l => [x.a l]) ∧ x.a x.low = 0 ∧ s.signsOf x.g.core (x.mine s) x.cv ≠ 0 ∧ ((s.convSoon x.g.core (x.mine s) x.cv).conv x.cv).sgn = 0 ∧ ((s.convSoon x.g.core (x.mine s) x.cv)).pendCmds x.cv = 0) x (x.moved s)) ∧
    (∃ o, ∃ s : State, ∃ x : Iss, Ready (.cvinit o) s x ∧ x.canTrap (x.moved s) ∧ (fun x s => x.teamed s ∧ x.alike (fun x l => [x.a l]) ∧ x.a x.low ≤ 1024 ∧ x.a x.low ≠ 0 ∧ ((s.team (x.mine s)).conv x.cv).armed = true ∧ ((s.team (x.mine s)).conv x.cv).exp ≠ x.a x.low) x (x.moved s)) ∧
    (∃ o, ∃ s : State, ∃ x : Iss, Ready (.msign o) s x ∧ (fun x s => x.teamed s ∧ ((s.team (x.mine s)).conv x.cv).armed = true) x (x.moved s)) ∧
    (∃ s : State, ∃ c : Nat, ∃ g : Sign, (s.core c).signs = [g]) ∧
    (∃ k : Core, ∃ g : Sign, ∃ e : StoreEnt, e ∈ (k.weave g.slot).queued ++ k.pending ∧ e.slot = g.slot ∧ e.team = some g.team ∧ e.born ≤ g.born) ∧
    (∃ o, ∃ s : State, ∃ x : Iss, Ready (.msign o) s x ∧ x.canTrap (x.moved s) ∧ (fun x s => x.teamed s ∧ ((s.team (x.mine s)).conv x.cv).armed = false) x (x.moved s)) ∧
    (∃ o, ∃ s : State, ∃ x : Iss, Ready (.mwait o) s x ∧ (fun x s => x.teamed s ∧ ∀ l ∈ x.ex, ∀ c ∈ (s.team (x.mine s)).matq, c.cv = x.cv → x.since s l ≤ c.id) x (x.moved s)) ∧
    (∃ o, ∃ s : State, ∃ x : Iss, Ready (.mstat o) s x ∧ (fun x s => (s.weave x.g.core x.g.slot).team.isSome = true) x (x.moved s)) ∧
    (∃ o, ∃ s : State, ∃ x : Iss, Ready (.mstclr o) s x ∧ (fun x s => x.teamed s) x (x.moved s)) ∧
    (∃ o, ∃ s : State, ∃ x : Iss, Ready (.acrd o) s x ∧ (fun x s => (s.weave x.g.core x.g.slot).team.isSome = true ∧ ∀ l ∈ x.ex, x.a l < 524288 ∧ (s.team (x.mine s)).accBusy (x.since s l) (x.a l) (x.a l + 1) false = false) x (x.moved s)) ∧
    (∃ o, ∃ s : State, ∃ x : Iss, Ready (.acwr o) s x ∧ (fun x s => (s.weave x.g.core x.g.slot).team.isSome = true ∧ ∀ l ∈ x.ex, x.a l < 524288 ∧ (s.team (x.mine s)).accBusy (x.since s l) (x.a l) (x.a l + 1) true = false) x (x.moved s)) ∧
    (∃ o, ∃ s : State, ∃ x : Iss, Ready (.acrd o) s x ∧ x.canTrap (x.moved s) ∧ (fun x s => (s.weave x.g.core x.g.slot).team.isSome = true ∧ ∃ l ∈ x.ex, 524288 ≤ x.a l) x (x.moved s)) ∧
    (∃ o, ∃ s : State, ∃ x : Iss, Ready (.acwr o) s x ∧ x.canTrap (x.moved s) ∧ (fun x s => (s.weave x.g.core x.g.slot).team.isSome = true ∧ ∃ l ∈ x.ex, 524288 ≤ x.a l) x (x.moved s)) ∧
    (∃ o, ∃ s : State, ∃ x : Iss, Ready (.acclr o) s x ∧ (fun x s => x.teamed s ∧ x.alike (fun x l => [x.a l, x.b l]) ∧ 0 < x.b x.low ∧ x.a x.low + x.b x.low ≤ 256 ∧ ∀ l ∈ x.ex, (s.team (x.mine s)).accBusy (x.since s l) (2048 * x.a x.low) (2048 * (x.a x.low + x.b x.low)) true = false) x (x.moved s)) ∧
    (∃ o, ∃ s : State, ∃ x : Iss, Ready (.acclr o) s x ∧ x.canTrap (x.moved s) ∧ (fun x s => x.teamed s ∧ x.alike (fun x l => [x.a l, x.b l]) ∧ (x.b x.low = 0 ∨ 256 < x.a x.low + x.b x.low)) x (x.moved s)) ∧
    (∃ o, ∃ s : State, ∃ x : Iss, Ready (.mplane o) s x ∧ (fun _ _ => True) x (x.moved s)) :=
  ⟨⟨⟨7, false, 0, 32, 0, 0, 0, false, false, false, 0, 0⟩, ⟨D, ⟨iss (.cvinit ⟨7, false, 0, 32, 0, 0, 0, false, false, false, 0, 0⟩) (D), ⟨(ready_iss (by decide +kernel)), by decide +kernel⟩⟩⟩⟩,
   ⟨⟨7, false, 0, 32, 0, 0, 0, false, false, false, 0, 0⟩, ⟨(reg 32 1025) (D), ⟨iss (.cvinit ⟨7, false, 0, 32, 0, 0, 0, false, false, false, 0, 0⟩) ((reg 32 1025) (D)), ⟨(ready_iss (by decide +kernel)), by decide +kernel⟩⟩⟩⟩,
   ⟨⟨7, false, 0, 32, 0, 0, 0, false, false, false, 0, 0⟩, ⟨(tm (fun t => { t with convs := [(0, { armed := true, exp := 1, sgn := 1 })] })) (D), ⟨iss (.cvinit ⟨7, false, 0, 32, 0, 0, 0, false, false, false, 0, 0⟩) ((tm (fun t => { t with convs := [(0, { armed := true, exp := 1, sgn := 1 })] })) (D)), ⟨(ready_iss (by decide +kernel)), by decide +kernel⟩⟩⟩⟩,
   ⟨⟨7, false, 0, 32, 0, 0, 0, false, false, false, 0, 0⟩, ⟨(cr (fun k => { k with signs := [{ team := 1, slot := 0, cv := 0, lanes := 1, born := 1 }] })) ((tm (fun t => { t with convs := [(0, { armed := true, exp := 1, sgn := 0 })] })) (D)), ⟨iss (.cvinit ⟨7, false, 0, 32, 0, 0, 0, false, false, false, 0, 0⟩) ((cr (fun k => { k with signs := [{ team := 1, slot := 0, cv := 0, lanes := 1, born := 1 }] })) ((tm (fun t => { t with convs := [(0, { armed := true, exp := 1, sgn := 0 })] })) (D))), ⟨(ready_iss (by decide +kernel)), by decide +kernel⟩⟩⟩⟩,
   ⟨⟨7, false, 0, 32, 0, 0, 0, false, false, false, 0, 0⟩, ⟨(tm (fun t => { t with convs := [(0, { armed := true, exp := 1, sgn := 0 })] })) ((reg 32 2) (D)), ⟨iss (.cvinit ⟨7, false, 0, 32, 0, 0, 0, false, false, false, 0, 0⟩) ((tm (fun t => { t with convs := [(0, { armed := true, exp := 1, sgn := 0 })] })) ((reg 32 2) (D))), ⟨(ready_iss (by decide +kernel)), by decide +kernel⟩⟩⟩⟩,
   ⟨⟨7, false, 0, 0, 0, 0, 0, false, false, false, 0, 0⟩, ⟨(tm (fun t => { t with convs := [(0, { armed := true, exp := 1, sgn := 0 })] })) (D), ⟨iss (.msign ⟨7, false, 0, 0, 0, 0, 0, false, false, false, 0, 0⟩) ((tm (fun t => { t with convs := [(0, { armed := true, exp := 1, sgn := 0 })] })) (D)), ⟨(ready_iss (by decide +kernel)), by decide +kernel⟩⟩⟩⟩,
   ⟨(cr (fun k => { k with signs := [{ team := 1, slot := 0, cv := 0, lanes := 1, born := 1 }] })) (D), ⟨0, ⟨{ team := 1, slot := 0, cv := 0, lanes := 1, born := 1 }, by decide +kernel⟩⟩⟩,
   ⟨{ pending := [{ slot := 0, team := some 1, born := 0, bytes := [⟨.mem 0x100000, 1, 0⟩] }] }, ⟨{ team := 1, slot := 0, cv := 0, lanes := 1, born := 1 }, ⟨{ slot := 0, team := some 1, born := 0, bytes := [⟨.mem 0x100000, 1, 0⟩] }, by decide +kernel⟩⟩⟩,
   ⟨⟨7, false, 0, 0, 0, 0, 0, false, false, false, 0, 0⟩, ⟨D, ⟨iss (.msign ⟨7, false, 0, 0, 0, 0, 0, false, false, false, 0, 0⟩) (D), ⟨(ready_iss (by decide +kernel)), by decide +kernel⟩⟩⟩⟩,
   ⟨⟨7, false, 0, 0, 0, 0, 0, false, false, false, 0, 0⟩, ⟨D, ⟨iss (.mwait ⟨7, false, 0, 0, 0, 0, 0, false, false, false, 0, 0⟩) (D), ⟨(ready_iss (by decide +kernel)), by decide +kernel⟩⟩⟩⟩,
   ⟨⟨7, false, 16, 0, 0, 0, 0, false, false, false, 0, 0⟩, ⟨D, ⟨iss (.mstat ⟨7, false, 16, 0, 0, 0, 0, false, false, false, 0, 0⟩) (D), ⟨(ready_iss (by decide +kernel)), by decide +kernel⟩⟩⟩⟩,
   ⟨⟨7, false, 0, 0, 0, 0, 0, false, false, false, 0, 0⟩, ⟨D, ⟨iss (.mstclr ⟨7, false, 0, 0, 0, 0, 0, false, false, false, 0, 0⟩) (D), ⟨(ready_iss (by decide +kernel)), by decide +kernel⟩⟩⟩⟩,
   ⟨⟨7, false, 16, 32, 0, 0, 0, false, false, false, 0, 0⟩, ⟨D, ⟨iss (.acrd ⟨7, false, 16, 32, 0, 0, 0, false, false, false, 0, 0⟩) (D), ⟨(ready_iss (by decide +kernel)), by decide +kernel⟩⟩⟩⟩,
   ⟨⟨7, false, 0, 32, 48, 0, 0, false, false, false, 0, 0⟩, ⟨D, ⟨iss (.acwr ⟨7, false, 0, 32, 48, 0, 0, false, false, false, 0, 0⟩) (D), ⟨(ready_iss (by decide +kernel)), by decide +kernel⟩⟩⟩⟩,
   ⟨⟨7, false, 16, 32, 0, 0, 0, false, false, false, 0, 0⟩, ⟨(reg 32 524288) (D), ⟨iss (.acrd ⟨7, false, 16, 32, 0, 0, 0, false, false, false, 0, 0⟩) ((reg 32 524288) (D)), ⟨(ready_iss (by decide +kernel)), by decide +kernel⟩⟩⟩⟩,
   ⟨⟨7, false, 0, 32, 48, 0, 0, false, false, false, 0, 0⟩, ⟨(reg 32 524288) (D), ⟨iss (.acwr ⟨7, false, 0, 32, 48, 0, 0, false, false, false, 0, 0⟩) ((reg 32 524288) (D)), ⟨(ready_iss (by decide +kernel)), by decide +kernel⟩⟩⟩⟩,
   ⟨⟨7, false, 0, 32, 48, 0, 0, false, false, false, 0, 0⟩, ⟨(reg 48 256) (D), ⟨iss (.acclr ⟨7, false, 0, 32, 48, 0, 0, false, false, false, 0, 0⟩) ((reg 48 256) (D)), ⟨(ready_iss (by decide +kernel)), by decide +kernel⟩⟩⟩⟩,
   ⟨⟨7, false, 0, 32, 48, 0, 0, false, false, false, 0, 0⟩, ⟨D, ⟨iss (.acclr ⟨7, false, 0, 32, 48, 0, 0, false, false, false, 0, 0⟩) (D), ⟨(ready_iss (by decide +kernel)), by decide +kernel⟩⟩⟩⟩,
   ⟨⟨7, false, 16, 0, 0, 0, 0, false, false, false, 0, 0⟩, ⟨D, ⟨iss (.mplane ⟨7, false, 16, 0, 0, 0, 0, false, false, false, 0, 0⟩) (D), ⟨(ready_iss (by decide +kernel)), by decide +kernel⟩⟩⟩⟩⟩
theorem test_EngineCommandsArePosted_met :
    (∃ o, ∃ s : State, ∃ x : Iss, Ready (.cpy o) s x ∧ (fun x s => x.alike (fun x l => [x.d l, x.a l, x.b l]) ∧ (0 < x.d x.low ∧ x.d x.low ≤ 2 ^ 48 ∧ rangeOk (x.a x.low) (x.d x.low) = true ∧ rangeOk (x.b x.low) (x.d x.low) = true ∧ meet (x.a x.low) (x.d x.low) (x.b x.low) (x.d x.low) = false) ∧ x.placed s ∧ x.engRoom s) x (x.moved s)) ∧
    (∃ o, ∃ s : State, ∃ x : Iss, Ready (.cpy o) s x ∧ x.alike (fun x l => [x.d l, x.a l, x.b l]) ∧ (fun x _ => 0 < x.d x.low ∧ x.d x.low ≤ 2 ^ 48 ∧ rangeOk (x.a x.low) (x.d x.low) = true ∧ rangeOk (x.b x.low) (x.d x.low) = true ∧ meet (x.a x.low) (x.d x.low) (x.b x.low) (x.d x.low) = false) x (x.moved s) ∧ x.placed (x.moved s) ∧ x.engRoom (x.moved s)) :=
  ⟨⟨⟨7, false, 16, 32, 48, 0, 3, true, 0, 0⟩, ⟨(reg 48 0x90000) ((reg 32 0x80000) ((reg 16 64) (D))), ⟨iss (.cpy ⟨7, false, 16, 32, 48, 0, 3, true, 0, 0⟩) ((reg 48 0x90000) ((reg 32 0x80000) ((reg 16 64) (D)))), ⟨(ready_iss (by decide +kernel)), by decide +kernel⟩⟩⟩⟩,
   ⟨⟨7, false, 16, 32, 48, 0, 3, true, 0, 0⟩, ⟨(reg 48 0x90000) ((reg 32 0x80000) ((reg 16 64) (D))), ⟨iss (.cpy ⟨7, false, 16, 32, 48, 0, 3, true, 0, 0⟩) ((reg 48 0x90000) ((reg 32 0x80000) ((reg 16 64) (D)))), ⟨(ready_iss (by decide +kernel)), ⟨by decide +kernel, ⟨by decide +kernel, ⟨(placed_of (by decide +kernel)), by decide +kernel⟩⟩⟩⟩⟩⟩⟩⟩
theorem test_EngineCommandsArePosted_met2 :
    (∃ o, ∃ s : State, ∃ x : Iss, Ready (.cpy o) s x ∧ x.canTrap (x.moved s) ∧ x.differ ((fun x l => [x.d l, x.a l, x.b l]) x) ≠ []) ∧
    (∃ o, ∃ s : State, ∃ x : Iss, Ready (.cpy o) s x ∧ x.alike (fun x l => [x.d l, x.a l, x.b l]) ∧ (fun x _ => 0 < x.d x.low ∧ x.d x.low ≤ 2 ^ 48 ∧ rangeOk (x.a x.low) (x.d x.low) = true ∧ rangeOk (x.b x.low) (x.d x.low) = true ∧ meet (x.a x.low) (x.d x.low) (x.b x.low) (x.d x.low) = false) x (x.moved s) ∧ ¬ x.engRoom (x.moved s)) :=
  ⟨⟨⟨7, false, 16, 32, 48, 0, 3, true, 0, 0⟩, ⟨(reg 32 1) (D2), ⟨iss (.cpy ⟨7, false, 16, 32, 48, 0, 3, true, 0, 0⟩) ((reg 32 1) (D2)), ⟨(ready_iss (by decide +kernel)), by decide +kernel⟩⟩⟩⟩,
   ⟨⟨7, false, 16, 32, 48, 0, 3, true, 0, 0⟩, ⟨(wv (fun w => { w with storeq := [{ slot := 0, bytes := [⟨.mem 0x100000, 1, 0⟩] }] })) ((reg 48 0x90000) ((reg 32 0x80000) ((reg 16 64) (D)))), ⟨iss (.cpy ⟨7, false, 16, 32, 48, 0, 3, true, 0, 0⟩) ((wv (fun w => { w with storeq := [{ slot := 0, bytes := [⟨.mem 0x100000, 1, 0⟩] }] })) ((reg 48 0x90000) ((reg 32 0x80000) ((reg 16 64) (D))))), ⟨(ready_iss (by decide +kernel)), by decide +kernel⟩⟩⟩⟩⟩
theorem test_EngineCommandsArePosted_met3 :
    (∃ o, ∃ s : State, ∃ x : Iss, Ready (.fill o) s x ∧ (fun x s => x.alike (fun x l => [x.d l, x.a l, x.b l]) ∧ (0 < x.d x.low ∧ x.d x.low ≤ 2 ^ 48 ∧ rangeOk (x.a x.low) (x.d x.low) = true) ∧ x.placed s ∧ x.engRoom s) x (x.moved s)) ∧
    (∃ o, ∃ s : State, ∃ x : Iss, Ready (.fill o) s x ∧ x.alike (fun x l => [x.d l, x.a l, x.b l]) ∧ (fun x _ => 0 < x.d x.low ∧ x.d x.low ≤ 2 ^ 48 ∧ rangeOk (x.a x.low) (x.d x.low) = true) x (x.moved s) ∧ x.placed (x.moved s) ∧ x.engRoom (x.moved s)) :=
  ⟨⟨⟨7, false, 16, 32, 48, 0, 3, true, 0, 0⟩, ⟨(reg 48 0x90000) ((reg 32 0x80000) ((reg 16 64) (D))), ⟨iss (.fill ⟨7, false, 16, 32, 48, 0, 3, true, 0, 0⟩) ((reg 48 0x90000) ((reg 32 0x80000) ((reg 16 64) (D)))), ⟨(ready_iss (by decide +kernel)), by decide +kernel⟩⟩⟩⟩,
   ⟨⟨7, false, 16, 32, 48, 0, 3, true, 0, 0⟩, ⟨(reg 48 0x90000) ((reg 32 0x80000) ((reg 16 64) (D))), ⟨iss (.fill ⟨7, false, 16, 32, 48, 0, 3, true, 0, 0⟩) ((reg 48 0x90000) ((reg 32 0x80000) ((reg 16 64) (D)))), ⟨(ready_iss (by decide +kernel)), ⟨by decide +kernel, ⟨by decide +kernel, ⟨(placed_of (by decide +kernel)), by decide +kernel⟩⟩⟩⟩⟩⟩⟩⟩
theorem test_EngineCommandsArePosted_met4 :
    (∃ o, ∃ s : State, ∃ x : Iss, Ready (.fill o) s x ∧ x.canTrap (x.moved s) ∧ x.differ ((fun x l => [x.d l, x.a l, x.b l]) x) ≠ []) ∧
    (∃ o, ∃ s : State, ∃ x : Iss, Ready (.fill o) s x ∧ x.alike (fun x l => [x.d l, x.a l, x.b l]) ∧ (fun x _ => 0 < x.d x.low ∧ x.d x.low ≤ 2 ^ 48 ∧ rangeOk (x.a x.low) (x.d x.low) = true) x (x.moved s) ∧ ¬ x.engRoom (x.moved s)) :=
  ⟨⟨⟨7, false, 16, 32, 48, 0, 3, true, 0, 0⟩, ⟨(reg 32 1) (D2), ⟨iss (.fill ⟨7, false, 16, 32, 48, 0, 3, true, 0, 0⟩) ((reg 32 1) (D2)), ⟨(ready_iss (by decide +kernel)), by decide +kernel⟩⟩⟩⟩,
   ⟨⟨7, false, 16, 32, 48, 0, 3, true, 0, 0⟩, ⟨(wv (fun w => { w with storeq := [{ slot := 0, bytes := [⟨.mem 0x100000, 1, 0⟩] }] })) ((reg 48 0x90000) ((reg 32 0x80000) ((reg 16 64) (D)))), ⟨iss (.fill ⟨7, false, 16, 32, 48, 0, 3, true, 0, 0⟩) ((wv (fun w => { w with storeq := [{ slot := 0, bytes := [⟨.mem 0x100000, 1, 0⟩] }] })) ((reg 48 0x90000) ((reg 32 0x80000) ((reg 16 64) (D))))), ⟨(ready_iss (by decide +kernel)), by decide +kernel⟩⟩⟩⟩⟩
theorem test_EngineCommandsArePosted_met5 :
    (∃ o, ∃ s : State, ∃ x : Iss, Ready (.expf o) s x ∧ (fun x s => x.alike (fun x l => [x.d l, x.a l]) ∧ (0 < x.d x.low ∧ x.d x.low ≤ 2 ^ 48 ∧ rangeOk (x.a x.low) (x.d x.low) = true) ∧ x.placed s ∧ x.engRoom s) x (x.moved s)) ∧
    (∃ o, ∃ s : State, ∃ x : Iss, Ready (.expf o) s x ∧ x.alike (fun x l => [x.d l, x.a l]) ∧ (fun x _ => 0 < x.d x.low ∧ x.d x.low ≤ 2 ^ 48 ∧ rangeOk (x.a x.low) (x.d x.low) = true) x (x.moved s) ∧ x.placed (x.moved s) ∧ x.engRoom (x.moved s)) :=
  ⟨⟨⟨7, false, 16, 32, 0, 0, 3, true, 0, 0⟩, ⟨(reg 48 0x90000) ((reg 32 0x80000) ((reg 16 64) (D))), ⟨iss (.expf ⟨7, false, 16, 32, 0, 0, 3, true, 0, 0⟩) ((reg 48 0x90000) ((reg 32 0x80000) ((reg 16 64) (D)))), ⟨(ready_iss (by decide +kernel)), by decide +kernel⟩⟩⟩⟩,
   ⟨⟨7, false, 16, 32, 0, 0, 3, true, 0, 0⟩, ⟨(reg 48 0x90000) ((reg 32 0x80000) ((reg 16 64) (D))), ⟨iss (.expf ⟨7, false, 16, 32, 0, 0, 3, true, 0, 0⟩) ((reg 48 0x90000) ((reg 32 0x80000) ((reg 16 64) (D)))), ⟨(ready_iss (by decide +kernel)), ⟨by decide +kernel, ⟨by decide +kernel, ⟨(placed_of (by decide +kernel)), by decide +kernel⟩⟩⟩⟩⟩⟩⟩⟩
theorem test_EngineCommandsArePosted_met6 :
    (∃ o, ∃ s : State, ∃ x : Iss, Ready (.expf o) s x ∧ x.canTrap (x.moved s) ∧ x.differ ((fun x l => [x.d l, x.a l]) x) ≠ []) ∧
    (∃ o, ∃ s : State, ∃ x : Iss, Ready (.expf o) s x ∧ x.alike (fun x l => [x.d l, x.a l]) ∧ (fun x _ => 0 < x.d x.low ∧ x.d x.low ≤ 2 ^ 48 ∧ rangeOk (x.a x.low) (x.d x.low) = true) x (x.moved s) ∧ ¬ x.engRoom (x.moved s)) :=
  ⟨⟨⟨7, false, 16, 32, 0, 0, 3, true, 0, 0⟩, ⟨(reg 32 1) (D2), ⟨iss (.expf ⟨7, false, 16, 32, 0, 0, 3, true, 0, 0⟩) ((reg 32 1) (D2)), ⟨(ready_iss (by decide +kernel)), by decide +kernel⟩⟩⟩⟩,
   ⟨⟨7, false, 16, 32, 0, 0, 3, true, 0, 0⟩, ⟨(wv (fun w => { w with storeq := [{ slot := 0, bytes := [⟨.mem 0x100000, 1, 0⟩] }] })) ((reg 48 0x90000) ((reg 32 0x80000) ((reg 16 64) (D)))), ⟨iss (.expf ⟨7, false, 16, 32, 0, 0, 3, true, 0, 0⟩) ((wv (fun w => { w with storeq := [{ slot := 0, bytes := [⟨.mem 0x100000, 1, 0⟩] }] })) ((reg 48 0x90000) ((reg 32 0x80000) ((reg 16 64) (D))))), ⟨(ready_iss (by decide +kernel)), by decide +kernel⟩⟩⟩⟩⟩
theorem test_EngineCommandsArePosted_met7 :
    (∃ o, ∃ s : State, ∃ x : Iss, Ready (.exwb o) s x ∧ (fun x s => x.alike (fun x l => [x.d l, x.a l]) ∧ (0 < x.d x.low ∧ x.d x.low ≤ 2 ^ 48 ∧ rangeOk (x.a x.low) (x.d x.low) = true) ∧ x.placed s ∧ x.engRoom s) x (x.moved s)) ∧
    (∃ o, ∃ s : State, ∃ x : Iss, Ready (.exwb o) s x ∧ x.alike (fun x l => [x.d l, x.a l]) ∧ (fun x _ => 0 < x.d x.low ∧ x.d x.low ≤ 2 ^ 48 ∧ rangeOk (x.a x.low) (x.d x.low) = true) x (x.moved s) ∧ x.placed (x.moved s) ∧ x.engRoom (x.moved s)) :=
  ⟨⟨⟨7, false, 16, 32, 0, 0, 3, true, 0, 0⟩, ⟨(reg 48 0x90000) ((reg 32 0x80000) ((reg 16 64) (D))), ⟨iss (.exwb ⟨7, false, 16, 32, 0, 0, 3, true, 0, 0⟩) ((reg 48 0x90000) ((reg 32 0x80000) ((reg 16 64) (D)))), ⟨(ready_iss (by decide +kernel)), by decide +kernel⟩⟩⟩⟩,
   ⟨⟨7, false, 16, 32, 0, 0, 3, true, 0, 0⟩, ⟨(reg 48 0x90000) ((reg 32 0x80000) ((reg 16 64) (D))), ⟨iss (.exwb ⟨7, false, 16, 32, 0, 0, 3, true, 0, 0⟩) ((reg 48 0x90000) ((reg 32 0x80000) ((reg 16 64) (D)))), ⟨(ready_iss (by decide +kernel)), ⟨by decide +kernel, ⟨by decide +kernel, ⟨(placed_of (by decide +kernel)), by decide +kernel⟩⟩⟩⟩⟩⟩⟩⟩
theorem test_EngineCommandsArePosted_met8 :
    (∃ o, ∃ s : State, ∃ x : Iss, Ready (.exwb o) s x ∧ x.canTrap (x.moved s) ∧ x.differ ((fun x l => [x.d l, x.a l]) x) ≠ []) ∧
    (∃ o, ∃ s : State, ∃ x : Iss, Ready (.exwb o) s x ∧ x.alike (fun x l => [x.d l, x.a l]) ∧ (fun x _ => 0 < x.d x.low ∧ x.d x.low ≤ 2 ^ 48 ∧ rangeOk (x.a x.low) (x.d x.low) = true) x (x.moved s) ∧ ¬ x.engRoom (x.moved s)) :=
  ⟨⟨⟨7, false, 16, 32, 0, 0, 3, true, 0, 0⟩, ⟨(reg 32 1) (D2), ⟨iss (.exwb ⟨7, false, 16, 32, 0, 0, 3, true, 0, 0⟩) ((reg 32 1) (D2)), ⟨(ready_iss (by decide +kernel)), by decide +kernel⟩⟩⟩⟩,
   ⟨⟨7, false, 16, 32, 0, 0, 3, true, 0, 0⟩, ⟨(wv (fun w => { w with storeq := [{ slot := 0, bytes := [⟨.mem 0x100000, 1, 0⟩] }] })) ((reg 48 0x90000) ((reg 32 0x80000) ((reg 16 64) (D)))), ⟨iss (.exwb ⟨7, false, 16, 32, 0, 0, 3, true, 0, 0⟩) ((wv (fun w => { w with storeq := [{ slot := 0, bytes := [⟨.mem 0x100000, 1, 0⟩] }] })) ((reg 48 0x90000) ((reg 32 0x80000) ((reg 16 64) (D))))), ⟨(ready_iss (by decide +kernel)), by decide +kernel⟩⟩⟩⟩⟩
theorem test_EngineCommandsArePosted_met9 :
    (∃ o, ∃ s : State, ∃ x : Iss, Ready (.cpald o) s x ∧ (fun x s => x.alike (fun x l => [x.d l, x.a l, x.b l]) ∧ (0 < x.d x.low ∧ rangeOk (x.a x.low) (4 * x.d x.low) = true ∧ x.b x.low + x.d x.low ≤ 524288 ∧ x.a x.low % 4 = 0 ∧ (s.weave x.g.core x.g.slot).team.isSome = true ∧ (s.team (x.mine s)).kd.cv ≠ 0) ∧ x.placed s ∧ x.engRoom s) x (x.moved s)) ∧
    (∃ o, ∃ s : State, ∃ x : Iss, Ready (.cpald o) s x ∧ x.alike (fun x l => [x.d l, x.a l, x.b l]) ∧ (fun x s => 0 < x.d x.low ∧ rangeOk (x.a x.low) (4 * x.d x.low) = true ∧ x.b x.low + x.d x.low ≤ 524288 ∧ x.a x.low % 4 = 0 ∧ (s.weave x.g.core x.g.slot).team.isSome = true ∧ (s.team (x.mine s)).kd.cv ≠ 0) x (x.moved s) ∧ x.placed (x.moved s) ∧ x.engRoom (x.moved s)) :=
  ⟨⟨⟨7, false, 16, 32, 48, 0, 3, true, 0, 0⟩, ⟨(reg 48 524272) ((reg 32 0x80000) ((reg 16 16) (D))), ⟨iss (.cpald ⟨7, false, 16, 32, 48, 0, 3, true, 0, 0⟩) ((reg 48 524272) ((reg 32 0x80000) ((reg 16 16) (D)))), ⟨(ready_iss (by decide +kernel)), by decide +kernel⟩⟩⟩⟩,
   ⟨⟨7, false, 16, 32, 48, 0, 3, true, 0, 0⟩, ⟨(reg 48 524272) ((reg 32 0x80000) ((reg 16 16) (D))), ⟨iss (.cpald ⟨7, false, 16, 32, 48, 0, 3, true, 0, 0⟩) ((reg 48 524272) ((reg 32 0x80000) ((reg 16 16) (D)))), ⟨(ready_iss (by decide +kernel)), ⟨by decide +kernel, ⟨by decide +kernel, ⟨(placed_of (by decide +kernel)), by decide +kernel⟩⟩⟩⟩⟩⟩⟩⟩
theorem test_EngineCommandsArePosted_met10 :
    (∃ o, ∃ s : State, ∃ x : Iss, Ready (.cpald o) s x ∧ x.canTrap (x.moved s) ∧ x.differ ((fun x l => [x.d l, x.a l, x.b l]) x) ≠ []) ∧
    (∃ o, ∃ s : State, ∃ x : Iss, Ready (.cpald o) s x ∧ x.alike (fun x l => [x.d l, x.a l, x.b l]) ∧ (fun x s => 0 < x.d x.low ∧ rangeOk (x.a x.low) (4 * x.d x.low) = true ∧ x.b x.low + x.d x.low ≤ 524288 ∧ x.a x.low % 4 = 0 ∧ (s.weave x.g.core x.g.slot).team.isSome = true ∧ (s.team (x.mine s)).kd.cv ≠ 0) x (x.moved s) ∧ ¬ x.engRoom (x.moved s)) :=
  ⟨⟨⟨7, false, 16, 32, 48, 0, 3, true, 0, 0⟩, ⟨(reg 32 1) (D2), ⟨iss (.cpald ⟨7, false, 16, 32, 48, 0, 3, true, 0, 0⟩) ((reg 32 1) (D2)), ⟨(ready_iss (by decide +kernel)), by decide +kernel⟩⟩⟩⟩,
   ⟨⟨7, false, 16, 32, 48, 0, 3, true, 0, 0⟩, ⟨(wv (fun w => { w with storeq := [{ slot := 0, bytes := [⟨.mem 0x100000, 1, 0⟩] }] })) ((reg 48 524272) ((reg 32 0x80000) ((reg 16 16) (D)))), ⟨iss (.cpald ⟨7, false, 16, 32, 48, 0, 3, true, 0, 0⟩) ((wv (fun w => { w with storeq := [{ slot := 0, bytes := [⟨.mem 0x100000, 1, 0⟩] }] })) ((reg 48 524272) ((reg 32 0x80000) ((reg 16 16) (D))))), ⟨(ready_iss (by decide +kernel)), by decide +kernel⟩⟩⟩⟩⟩
theorem test_EngineCommandsArePosted_met11 :
    (∃ o, ∃ s : State, ∃ x : Iss, Ready (.cpast o) s x ∧ (fun x s => x.alike (fun x l => [x.d l, x.a l, x.b l]) ∧ (0 < x.d x.low ∧ rangeOk (x.a x.low) (4 * x.d x.low) = true ∧ x.b x.low + x.d x.low ≤ 524288 ∧ x.a x.low % 4 = 0 ∧ (s.weave x.g.core x.g.slot).team.isSome = true ∧ (s.team (x.mine s)).kd.cv ≠ 0) ∧ x.placed s ∧ x.engRoom s) x (x.moved s)) ∧
    (∃ o, ∃ s : State, ∃ x : Iss, Ready (.cpast o) s x ∧ x.alike (fun x l => [x.d l, x.a l, x.b l]) ∧ (fun x s => 0 < x.d x.low ∧ rangeOk (x.a x.low) (4 * x.d x.low) = true ∧ x.b x.low + x.d x.low ≤ 524288 ∧ x.a x.low % 4 = 0 ∧ (s.weave x.g.core x.g.slot).team.isSome = true ∧ (s.team (x.mine s)).kd.cv ≠ 0) x (x.moved s) ∧ x.placed (x.moved s) ∧ x.engRoom (x.moved s)) :=
  ⟨⟨⟨7, false, 16, 32, 48, 0, 3, true, 0, 0⟩, ⟨(reg 48 524272) ((reg 32 0x80000) ((reg 16 16) (D))), ⟨iss (.cpast ⟨7, false, 16, 32, 48, 0, 3, true, 0, 0⟩) ((reg 48 524272) ((reg 32 0x80000) ((reg 16 16) (D)))), ⟨(ready_iss (by decide +kernel)), by decide +kernel⟩⟩⟩⟩,
   ⟨⟨7, false, 16, 32, 48, 0, 3, true, 0, 0⟩, ⟨(reg 48 524272) ((reg 32 0x80000) ((reg 16 16) (D))), ⟨iss (.cpast ⟨7, false, 16, 32, 48, 0, 3, true, 0, 0⟩) ((reg 48 524272) ((reg 32 0x80000) ((reg 16 16) (D)))), ⟨(ready_iss (by decide +kernel)), ⟨by decide +kernel, ⟨by decide +kernel, ⟨(placed_of (by decide +kernel)), by decide +kernel⟩⟩⟩⟩⟩⟩⟩⟩
theorem test_EngineCommandsArePosted_met12 :
    (∃ o, ∃ s : State, ∃ x : Iss, Ready (.cpast o) s x ∧ x.canTrap (x.moved s) ∧ x.differ ((fun x l => [x.d l, x.a l, x.b l]) x) ≠ []) ∧
    (∃ o, ∃ s : State, ∃ x : Iss, Ready (.cpast o) s x ∧ x.alike (fun x l => [x.d l, x.a l, x.b l]) ∧ (fun x s => 0 < x.d x.low ∧ rangeOk (x.a x.low) (4 * x.d x.low) = true ∧ x.b x.low + x.d x.low ≤ 524288 ∧ x.a x.low % 4 = 0 ∧ (s.weave x.g.core x.g.slot).team.isSome = true ∧ (s.team (x.mine s)).kd.cv ≠ 0) x (x.moved s) ∧ ¬ x.engRoom (x.moved s)) :=
  ⟨⟨⟨7, false, 16, 32, 48, 0, 3, true, 0, 0⟩, ⟨(reg 32 1) (D2), ⟨iss (.cpast ⟨7, false, 16, 32, 48, 0, 3, true, 0, 0⟩) ((reg 32 1) (D2)), ⟨(ready_iss (by decide +kernel)), by decide +kernel⟩⟩⟩⟩,
   ⟨⟨7, false, 16, 32, 48, 0, 3, true, 0, 0⟩, ⟨(wv (fun w => { w with storeq := [{ slot := 0, bytes := [⟨.mem 0x100000, 1, 0⟩] }] })) ((reg 48 524272) ((reg 32 0x80000) ((reg 16 16) (D)))), ⟨iss (.cpast ⟨7, false, 16, 32, 48, 0, 3, true, 0, 0⟩) ((wv (fun w => { w with storeq := [{ slot := 0, bytes := [⟨.mem 0x100000, 1, 0⟩] }] })) ((reg 48 524272) ((reg 32 0x80000) ((reg 16 16) (D))))), ⟨(ready_iss (by decide +kernel)), by decide +kernel⟩⟩⟩⟩⟩
theorem test_EngineCommandsArePosted_met13 :
    (∃ o, ∃ s : State, ∃ x : Iss, Ready (.cpy o) s x ∧ (fun x _ => x.alike (fun x l => [x.d l, x.a l, x.b l]) ∧ x.d x.low = 0) x (x.moved s)) ∧
    (∃ o, ∃ s : State, ∃ x : Iss, Ready (.fill o) s x ∧ (fun x _ => x.alike (fun x l => [x.d l, x.a l, x.b l]) ∧ x.d x.low = 0) x (x.moved s)) :=
  ⟨⟨⟨7, false, 16, 32, 48, 0, 3, true, 0, 0⟩, ⟨D, ⟨iss (.cpy ⟨7, false, 16, 32, 48, 0, 3, true, 0, 0⟩) (D), ⟨(ready_iss (by decide +kernel)), by decide +kernel⟩⟩⟩⟩,
   ⟨⟨7, false, 16, 32, 48, 0, 3, true, 0, 0⟩, ⟨D, ⟨iss (.fill ⟨7, false, 16, 32, 48, 0, 3, true, 0, 0⟩) (D), ⟨(ready_iss (by decide +kernel)), by decide +kernel⟩⟩⟩⟩⟩
theorem test_EngineCommandsArePosted_met14 :
    (∃ o, ∃ s : State, ∃ x : Iss, Ready (.expf o) s x ∧ (fun x _ => x.alike (fun x l => [x.d l, x.a l]) ∧ x.d x.low = 0) x (x.moved s)) ∧
    (∃ o, ∃ s : State, ∃ x : Iss, Ready (.exwb o) s x ∧ (fun x _ => x.alike (fun x l => [x.d l, x.a l]) ∧ x.d x.low = 0) x (x.moved s)) :=
  ⟨⟨⟨7, false, 16, 32, 0, 0, 3, true, 0, 0⟩, ⟨D, ⟨iss (.expf ⟨7, false, 16, 32, 0, 0, 3, true, 0, 0⟩) (D), ⟨(ready_iss (by decide +kernel)), by decide +kernel⟩⟩⟩⟩,
   ⟨⟨7, false, 16, 32, 0, 0, 3, true, 0, 0⟩, ⟨D, ⟨iss (.exwb ⟨7, false, 16, 32, 0, 0, 3, true, 0, 0⟩) (D), ⟨(ready_iss (by decide +kernel)), by decide +kernel⟩⟩⟩⟩⟩
theorem test_EngineCommandsArePosted_met15 :
    (∃ o, ∃ s : State, ∃ x : Iss, Ready (.cpald o) s x ∧ (fun x _ => x.alike (fun x l => [x.d l, x.a l, x.b l]) ∧ x.d x.low = 0) x (x.moved s)) ∧
    (∃ o, ∃ s : State, ∃ x : Iss, Ready (.cpast o) s x ∧ (fun x _ => x.alike (fun x l => [x.d l, x.a l, x.b l]) ∧ x.d x.low = 0) x (x.moved s)) :=
  ⟨⟨⟨7, false, 16, 32, 48, 0, 3, true, 0, 0⟩, ⟨D, ⟨iss (.cpald ⟨7, false, 16, 32, 48, 0, 3, true, 0, 0⟩) (D), ⟨(ready_iss (by decide +kernel)), by decide +kernel⟩⟩⟩⟩,
   ⟨⟨7, false, 16, 32, 48, 0, 3, true, 0, 0⟩, ⟨D, ⟨iss (.cpast ⟨7, false, 16, 32, 48, 0, 3, true, 0, 0⟩) (D), ⟨(ready_iss (by decide +kernel)), by decide +kernel⟩⟩⟩⟩⟩
theorem test_EngineCommandsArePosted_met16 :
    (∃ o, ∃ s : State, ∃ x : Iss, Ready (.fill o) s x ∧ x.canTrap (x.moved s) ∧ (fun x _ => x.alike (fun x l => [x.d l, x.a l, x.b l]) ∧ 0 < x.d x.low ∧ rangeOk (x.a x.low) (x.d x.low) = false) x (x.moved s)) ∧
    (∃ o, ∃ s : State, ∃ x : Iss, Ready (.expf o) s x ∧ x.canTrap (x.moved s) ∧ (fun x _ => x.alike (fun x l => [x.d l, x.a l]) ∧ 0 < x.d x.low ∧ rangeOk (x.a x.low) (x.d x.low) = false) x (x.moved s)) :=
  ⟨⟨⟨7, false, 16, 32, 48, 0, 3, true, 0, 0⟩, ⟨(reg 32 0x100000000000000) ((reg 16 64) (D)), ⟨iss (.fill ⟨7, false, 16, 32, 48, 0, 3, true, 0, 0⟩) ((reg 32 0x100000000000000) ((reg 16 64) (D))), ⟨(ready_iss (by decide +kernel)), by decide +kernel⟩⟩⟩⟩,
   ⟨⟨7, false, 16, 32, 0, 0, 3, true, 0, 0⟩, ⟨(reg 32 0x100000000000000) ((reg 16 64) (D)), ⟨iss (.expf ⟨7, false, 16, 32, 0, 0, 3, true, 0, 0⟩) ((reg 32 0x100000000000000) ((reg 16 64) (D))), ⟨(ready_iss (by decide +kernel)), by decide +kernel⟩⟩⟩⟩⟩
theorem test_EngineCommandsArePosted_met17 :
    (∃ o, ∃ s : State, ∃ x : Iss, Ready (.exwb o) s x ∧ x.canTrap (x.moved s) ∧ (fun x _ => x.alike (fun x l => [x.d l, x.a l]) ∧ 0 < x.d x.low ∧ rangeOk (x.a x.low) (x.d x.low) = false) x (x.moved s)) ∧
    (∃ o, ∃ s : State, ∃ x : Iss, Ready (.fill o) s x ∧ x.canTrap (x.moved s) ∧ (fun x _ => x.alike (fun x l => [x.d l, x.a l, x.b l]) ∧ 2 ^ 48 < x.d x.low ∧ rangeOk (x.a x.low) (x.d x.low) = true) x (x.moved s)) :=
  ⟨⟨⟨7, false, 16, 32, 0, 0, 3, true, 0, 0⟩, ⟨(reg 32 0x100000000000000) ((reg 16 64) (D)), ⟨iss (.exwb ⟨7, false, 16, 32, 0, 0, 3, true, 0, 0⟩) ((reg 32 0x100000000000000) ((reg 16 64) (D))), ⟨(ready_iss (by decide +kernel)), by decide +kernel⟩⟩⟩⟩,
   ⟨⟨7, false, 16, 32, 48, 0, 3, true, 0, 0⟩, ⟨(reg 32 0x80000) ((reg 16 0x1000000000001) (D)), ⟨iss (.fill ⟨7, false, 16, 32, 48, 0, 3, true, 0, 0⟩) ((reg 32 0x80000) ((reg 16 0x1000000000001) (D))), ⟨(ready_iss (by decide +kernel)), by decide +kernel⟩⟩⟩⟩⟩
theorem test_EngineCommandsArePosted_met18 :
    (∃ o, ∃ s : State, ∃ x : Iss, Ready (.expf o) s x ∧ x.canTrap (x.moved s) ∧ (fun x _ => x.alike (fun x l => [x.d l, x.a l]) ∧ 2 ^ 48 < x.d x.low ∧ rangeOk (x.a x.low) (x.d x.low) = true) x (x.moved s)) ∧
    (∃ o, ∃ s : State, ∃ x : Iss, Ready (.exwb o) s x ∧ x.canTrap (x.moved s) ∧ (fun x _ => x.alike (fun x l => [x.d l, x.a l]) ∧ 2 ^ 48 < x.d x.low ∧ rangeOk (x.a x.low) (x.d x.low) = true) x (x.moved s)) :=
  ⟨⟨⟨7, false, 16, 32, 0, 0, 3, true, 0, 0⟩, ⟨(reg 32 0x80000) ((reg 16 0x1000000000001) (D)), ⟨iss (.expf ⟨7, false, 16, 32, 0, 0, 3, true, 0, 0⟩) ((reg 32 0x80000) ((reg 16 0x1000000000001) (D))), ⟨(ready_iss (by decide +kernel)), by decide +kernel⟩⟩⟩⟩,
   ⟨⟨7, false, 16, 32, 0, 0, 3, true, 0, 0⟩, ⟨(reg 32 0x80000) ((reg 16 0x1000000000001) (D)), ⟨iss (.exwb ⟨7, false, 16, 32, 0, 0, 3, true, 0, 0⟩) ((reg 32 0x80000) ((reg 16 0x1000000000001) (D))), ⟨(ready_iss (by decide +kernel)), by decide +kernel⟩⟩⟩⟩⟩
theorem test_EngineCommandsArePosted_met19 :
    (∃ o, ∃ s : State, ∃ x : Iss, Ready (.cpy o) s x ∧ x.canTrap (x.moved s) ∧ (fun x _ => x.alike (fun x l => [x.d l, x.a l, x.b l]) ∧ 0 < x.d x.low ∧ rangeOk (x.a x.low) (x.d x.low) = true ∧ rangeOk (x.b x.low) (x.d x.low) = true ∧ (meet (x.a x.low) (x.d x.low) (x.b x.low) (x.d x.low) = true ∨ 2 ^ 48 < x.d x.low)) x (x.moved s)) ∧
    (∃ o, ∃ s : State, ∃ x : Iss, Ready (.cpy o) s x ∧ x.canTrap (x.moved s) ∧ (fun x _ => x.alike (fun x l => [x.d l, x.a l, x.b l]) ∧ 0 < x.d x.low ∧ (rangeOk (x.a x.low) (x.d x.low) = false ∨ rangeOk (x.b x.low) (x.d x.low) = false)) x (x.moved s)) :=
  ⟨⟨⟨7, false, 16, 32, 48, 0, 3, true, 0, 0⟩, ⟨(reg 48 0x8003F) ((reg 32 0x80000) ((reg 16 64) (D))), ⟨iss (.cpy ⟨7, false, 16, 32, 48, 0, 3, true, 0, 0⟩) ((reg 48 0x8003F) ((reg 32 0x80000) ((reg 16 64) (D)))), ⟨(ready_iss (by decide +kernel)), by decide +kernel⟩⟩⟩⟩,
   ⟨⟨7, false, 16, 32, 48, 0, 3, true, 0, 0⟩, ⟨(reg 32 0x100000000000000) ((reg 16 64) (D)), ⟨iss (.cpy ⟨7, false, 16, 32, 48, 0, 3, true, 0, 0⟩) ((reg 32 0x100000000000000) ((reg 16 64) (D))), ⟨(ready_iss (by decide +kernel)), by decide +kernel⟩⟩⟩⟩⟩
theorem test_EngineCommandsArePosted_met20 :
    (∃ o, ∃ s : State, ∃ x : Iss, Ready (.cpald o) s x ∧ x.canTrap (x.moved s) ∧ (fun x _ => x.alike (fun x l => [x.d l, x.a l, x.b l]) ∧ 0 < x.d x.low ∧ rangeOk (x.a x.low) (4 * x.d x.low) = false) x (x.moved s)) ∧
    (∃ o, ∃ s : State, ∃ x : Iss, Ready (.cpast o) s x ∧ x.canTrap (x.moved s) ∧ (fun x _ => x.alike (fun x l => [x.d l, x.a l, x.b l]) ∧ 0 < x.d x.low ∧ rangeOk (x.a x.low) (4 * x.d x.low) = false) x (x.moved s)) :=
  ⟨⟨⟨7, false, 16, 32, 48, 0, 3, true, 0, 0⟩, ⟨(reg 32 0x100000000000000) ((reg 16 64) (D)), ⟨iss (.cpald ⟨7, false, 16, 32, 48, 0, 3, true, 0, 0⟩) ((reg 32 0x100000000000000) ((reg 16 64) (D))), ⟨(ready_iss (by decide +kernel)), by decide +kernel⟩⟩⟩⟩,
   ⟨⟨7, false, 16, 32, 48, 0, 3, true, 0, 0⟩, ⟨(reg 32 0x100000000000000) ((reg 16 64) (D)), ⟨iss (.cpast ⟨7, false, 16, 32, 48, 0, 3, true, 0, 0⟩) ((reg 32 0x100000000000000) ((reg 16 64) (D))), ⟨(ready_iss (by decide +kernel)), by decide +kernel⟩⟩⟩⟩⟩
theorem test_EngineCommandsArePosted_met21 :
    (∃ o, ∃ s : State, ∃ x : Iss, Ready (.cpald o) s x ∧ x.canTrap (x.moved s) ∧ (fun x _ => x.alike (fun x l => [x.d l, x.a l, x.b l]) ∧ 0 < x.d x.low ∧ rangeOk (x.a x.low) (4 * x.d x.low) = true ∧ 524288 < x.b x.low + x.d x.low) x (x.moved s)) ∧
    (∃ o, ∃ s : State, ∃ x : Iss, Ready (.cpast o) s x ∧ x.canTrap (x.moved s) ∧ (fun x _ => x.alike (fun x l => [x.d l, x.a l, x.b l]) ∧ 0 < x.d x.low ∧ rangeOk (x.a x.low) (4 * x.d x.low) = true ∧ 524288 < x.b x.low + x.d x.low) x (x.moved s)) :=
  ⟨⟨⟨7, false, 16, 32, 48, 0, 3, true, 0, 0⟩, ⟨(reg 48 524280) ((reg 32 0x80000) ((reg 16 16) (D))), ⟨iss (.cpald ⟨7, false, 16, 32, 48, 0, 3, true, 0, 0⟩) ((reg 48 524280) ((reg 32 0x80000) ((reg 16 16) (D)))), ⟨(ready_iss (by decide +kernel)), by decide +kernel⟩⟩⟩⟩,
   ⟨⟨7, false, 16, 32, 48, 0, 3, true, 0, 0⟩, ⟨(reg 48 524280) ((reg 32 0x80000) ((reg 16 16) (D))), ⟨iss (.cpast ⟨7, false, 16, 32, 48, 0, 3, true, 0, 0⟩) ((reg 48 524280) ((reg 32 0x80000) ((reg 16 16) (D)))), ⟨(ready_iss (by decide +kernel)), by decide +kernel⟩⟩⟩⟩⟩
theorem test_EngineCommandsArePosted_met22 :
    (∃ o, ∃ s : State, ∃ x : Iss, Ready (.cpald o) s x ∧ x.canTrap (x.moved s) ∧ (fun x _ => x.alike (fun x l => [x.d l, x.a l, x.b l]) ∧ 0 < x.d x.low ∧ rangeOk (x.a x.low) (4 * x.d x.low) = true ∧ x.b x.low + x.d x.low ≤ 524288 ∧ x.a x.low % 4 ≠ 0) x (x.moved s)) ∧
    (∃ o, ∃ s : State, ∃ x : Iss, Ready (.cpast o) s x ∧ x.canTrap (x.moved s) ∧ (fun x _ => x.alike (fun x l => [x.d l, x.a l, x.b l]) ∧ 0 < x.d x.low ∧ rangeOk (x.a x.low) (4 * x.d x.low) = true ∧ x.b x.low + x.d x.low ≤ 524288 ∧ x.a x.low % 4 ≠ 0) x (x.moved s)) :=
  ⟨⟨⟨7, false, 16, 32, 48, 0, 3, true, 0, 0⟩, ⟨(reg 48 0) ((reg 32 0x80002) ((reg 16 16) (D))), ⟨iss (.cpald ⟨7, false, 16, 32, 48, 0, 3, true, 0, 0⟩) ((reg 48 0) ((reg 32 0x80002) ((reg 16 16) (D)))), ⟨(ready_iss (by decide +kernel)), by decide +kernel⟩⟩⟩⟩,
   ⟨⟨7, false, 16, 32, 48, 0, 3, true, 0, 0⟩, ⟨(reg 48 0) ((reg 32 0x80002) ((reg 16 16) (D))), ⟨iss (.cpast ⟨7, false, 16, 32, 48, 0, 3, true, 0, 0⟩) ((reg 48 0) ((reg 32 0x80002) ((reg 16 16) (D)))), ⟨(ready_iss (by decide +kernel)), by decide +kernel⟩⟩⟩⟩⟩
theorem test_EngineCommandsArePosted_met23 :
    (∃ o, ∃ s : State, ∃ x : Iss, Ready (.cpts o) s x ∧ x.canTrap (x.moved s) ∧ (fun x s => x.teamed s ∧ x.alike (fun x l => [x.d l, x.a l, x.b l]) ∧ ∃ n, x.slotSide (s.team (x.mine s)) x.low = .ok (n, none) ∧ 0 < n ∧ rangeOk (x.a x.low) n = false) x (x.moved s)) ∧
    (∃ o, ∃ s : State, ∃ x : Iss, Ready (.cpfs o) s x ∧ x.canTrap (x.moved s) ∧ (fun x s => x.teamed s ∧ x.alike (fun x l => [x.d l, x.a l]) ∧ ∃ n, x.slotSide (s.team (x.mine s)) x.low = .ok (n, none) ∧ 0 < n ∧ rangeOk (x.a x.low) n = false) x (x.moved s)) :=
  ⟨⟨⟨7, false, 16, 32, 48, 2, 3, true, 0, 0⟩, ⟨(reg 32 0x100000000000000) ((reg 16 64) (D)), ⟨iss (.cpts ⟨7, false, 16, 32, 48, 2, 3, true, 0, 0⟩) ((reg 32 0x100000000000000) ((reg 16 64) (D))), ⟨(ready_iss (by decide +kernel)), ⟨by decide +kernel, ⟨by decide +kernel, by decide +kernel, 64, rfl, by decide +kernel, by decide +kernel⟩⟩⟩⟩⟩⟩,
   ⟨⟨7, false, 16, 32, 0, 2, 3, true, 0, 0⟩, ⟨(reg 32 0x100000000000000) ((reg 16 64) (D)), ⟨iss (.cpfs ⟨7, false, 16, 32, 0, 2, 3, true, 0, 0⟩) ((reg 32 0x100000000000000) ((reg 16 64) (D))), ⟨(ready_iss (by decide +kernel)), ⟨by decide +kernel, ⟨by decide +kernel, by decide +kernel, 64, rfl, by decide +kernel, by decide +kernel⟩⟩⟩⟩⟩⟩⟩
theorem test_EngineCommandsArePosted_met24 :
    (∃ o, ∃ s : State, ∃ x : Iss, Ready (.cpts o) s x ∧ x.canTrap (x.moved s) ∧ ∃ d : Nat, (fun x s => x.teamed s ∧ x.alike (fun x l => [x.d l, x.a l, x.b l]) ∧ x.slotSide (s.team (x.mine s)) x.low = .error d) x (x.moved s)) ∧
    (∃ o, ∃ s : State, ∃ x : Iss, Ready (.cpfs o) s x ∧ x.canTrap (x.moved s) ∧ ∃ d : Nat, (fun x s => x.teamed s ∧ x.alike (fun x l => [x.d l, x.a l]) ∧ x.slotSide (s.team (x.mine s)) x.low = .error d) x (x.moved s)) :=
  ⟨⟨⟨7, false, 16, 511, 48, 2, 3, true, 0, 0⟩, ⟨D, ⟨iss (.cpts ⟨7, false, 16, 511, 48, 2, 3, true, 0, 0⟩) (D), ⟨(ready_iss (by decide +kernel)), ⟨by decide +kernel, ⟨0x1C, by decide +kernel⟩⟩⟩⟩⟩⟩,
   ⟨⟨7, false, 16, 511, 0, 2, 3, true, 0, 0⟩, ⟨D, ⟨iss (.cpfs ⟨7, false, 16, 511, 0, 2, 3, true, 0, 0⟩) (D), ⟨(ready_iss (by decide +kernel)), ⟨by decide +kernel, ⟨0x1C, by decide +kernel⟩⟩⟩⟩⟩⟩⟩
theorem test_EngineCommandsArePosted_met25 :
    (∃ o, ∃ s : State, ∃ x : Iss, Ready (.cpts o) s x ∧ x.canTrap (x.moved s) ∧ (fun x s => x.teamed s ∧ x.alike (fun x l => [x.d l, x.a l, x.b l]) ∧ ∃ n tile, x.slotSide (s.team (x.mine s)) x.low = .ok (n, tile) ∧ 0 < n ∧ (tile = none → rangeOk (x.a x.low) n = true) ∧ (x.b x.low % 256 ≠ 0 ∨ (s.team (x.mine s)).bufBytes < x.b x.low + n)) x (x.moved s)) ∧
    (∃ o, ∃ s : State, ∃ x : Iss, Ready (.cpfs o) s x ∧ x.canTrap (x.moved s) ∧ (fun x s => x.teamed s ∧ x.alike (fun x l => [x.d l, x.a l]) ∧ ∃ n tile, x.slotSide (s.team (x.mine s)) x.low = .ok (n, tile) ∧ 0 < n ∧ (tile = none → rangeOk (x.a x.low) n = true) ∧ ((s.team (x.mine s)).tslot x.f.ts.toNat).st = .ready ∧ ((s.team (x.mine s)).tslot x.f.ts.toNat).len < n) x (x.moved s)) :=
  ⟨⟨⟨7, false, 16, 32, 48, 2, 3, true, 0, 0⟩, ⟨(reg 48 1) ((reg 32 0x80000) ((reg 16 64) (D))), ⟨iss (.cpts ⟨7, false, 16, 32, 48, 2, 3, true, 0, 0⟩) ((reg 48 1) ((reg 32 0x80000) ((reg 16 64) (D)))), ⟨(ready_iss (by decide +kernel)), ⟨by decide +kernel, ⟨by decide +kernel, by decide +kernel, 64, none, rfl, by decide +kernel, fun _ => by decide +kernel, by decide +kernel⟩⟩⟩⟩⟩⟩,
   ⟨⟨7, false, 16, 32, 0, 2, 3, true, 0, 0⟩, ⟨(tm (fun t => { t with tslots := [(2, { st := .ready, base := some 0, len := 256 })] })) ((reg 32 0x80000) ((reg 16 512) (D))), ⟨iss (.cpfs ⟨7, false, 16, 32, 0, 2, 3, true, 0, 0⟩) ((tm (fun t => { t with tslots := [(2, { st := .ready, base := some 0, len := 256 })] })) ((reg 32 0x80000) ((reg 16 512) (D)))), ⟨(ready_iss (by decide +kernel)), ⟨by decide +kernel, ⟨by decide +kernel, by decide +kernel, 512, none, rfl, by decide +kernel, fun _ => by decide +kernel, by decide +kernel, by decide +kernel⟩⟩⟩⟩⟩⟩⟩
theorem test_EngineCommandsArePosted_met26 :
    (∃ o, ∃ s : State, ∃ x : Iss, Ready (.cpald o) s x ∧ x.canTrap (x.moved s) ∧ (fun x s => x.alike (fun x l => [x.d l, x.a l, x.b l]) ∧ 0 < x.d x.low ∧ rangeOk (x.a x.low) (4 * x.d x.low) = true ∧ x.b x.low + x.d x.low ≤ 524288 ∧ x.a x.low % 4 = 0 ∧ (s.weave x.g.core x.g.slot).team.isSome = true ∧ (s.team (x.mine s)).kd.cv = 0) x (x.moved s)) ∧
    (∃ o, ∃ s : State, ∃ x : Iss, Ready (.cpast o) s x ∧ x.canTrap (x.moved s) ∧ (fun x s => x.alike (fun x l => [x.d l, x.a l, x.b l]) ∧ 0 < x.d x.low ∧ rangeOk (x.a x.low) (4 * x.d x.low) = true ∧ x.b x.low + x.d x.low ≤ 524288 ∧ x.a x.low % 4 = 0 ∧ (s.weave x.g.core x.g.slot).team.isSome = true ∧ (s.team (x.mine s)).kd.cv = 0) x (x.moved s)) :=
  ⟨⟨⟨7, false, 16, 32, 48, 0, 3, true, 0, 0⟩, ⟨(tm (fun t => { t with kd := { t.kd with cv := 0 } })) ((reg 48 524272) ((reg 32 0x80000) ((reg 16 16) (D)))), ⟨iss (.cpald ⟨7, false, 16, 32, 48, 0, 3, true, 0, 0⟩) ((tm (fun t => { t with kd := { t.kd with cv := 0 } })) ((reg 48 524272) ((reg 32 0x80000) ((reg 16 16) (D))))), ⟨(ready_iss (by decide +kernel)), by decide +kernel⟩⟩⟩⟩,
   ⟨⟨7, false, 16, 32, 48, 0, 3, true, 0, 0⟩, ⟨(tm (fun t => { t with kd := { t.kd with cv := 0 } })) ((reg 48 524272) ((reg 32 0x80000) ((reg 16 16) (D)))), ⟨iss (.cpast ⟨7, false, 16, 32, 48, 0, 3, true, 0, 0⟩) ((tm (fun t => { t with kd := { t.kd with cv := 0 } })) ((reg 48 524272) ((reg 32 0x80000) ((reg 16 16) (D))))), ⟨(ready_iss (by decide +kernel)), by decide +kernel⟩⟩⟩⟩⟩
theorem test_EngineCommandsArePosted_met27 :
    (∃ o, ∃ s : State, ∃ x : Iss, Ready (.cpts o) s x ∧ x.teamed (x.moved s) ∧ x.placed (x.moved s) ∧ x.alike (fun x l => [x.d l, x.a l, x.b l]) ∧ ∃ n tile, x.slotSide ((x.moved s).team (x.mine (x.moved s))) x.low = .ok (n, tile) ∧ 0 < n ∧ (tile = none → rangeOk (x.a x.low) n = true) ∧ x.b x.low % 256 = 0 ∧ x.b x.low + n ≤ ((x.moved s).team (x.mine (x.moved s))).bufBytes ∧ (((x.moved s).team (x.mine (x.moved s))).tslot x.f.ts.toNat).moving = false ∧ x.engRoom (x.moved s)) ∧
    (∃ o, ∃ s : State, ∃ x : Iss, Ready (.cpfs o) s x ∧ x.teamed (x.moved s) ∧ x.placed (x.moved s) ∧ x.alike (fun x l => [x.d l, x.a l]) ∧ ∃ n tile, x.slotSide ((x.moved s).team (x.mine (x.moved s))) x.low = .ok (n, tile) ∧ 0 < n ∧ (tile = none → rangeOk (x.a x.low) n = true) ∧ ∃ q, ((x.moved s).team (x.mine (x.moved s))).tslot x.f.ts.toNat = q ∧ q.st = .ready ∧ n ≤ q.len ∧ x.engRoom (x.moved s)) :=
  ⟨⟨⟨7, false, 16, 32, 48, 2, 3, true, 0, 0⟩, ⟨(reg 32 0x80000) ((reg 16 256) (D)), ⟨iss (.cpts ⟨7, false, 16, 32, 48, 2, 3, true, 0, 0⟩) ((reg 32 0x80000) ((reg 16 256) (D))), ⟨(ready_iss (by decide +kernel)), ⟨by decide +kernel, ⟨(placed_of (by decide +kernel)), ⟨by decide +kernel, ex_ok (by decide +kernel) (by decide +kernel)⟩⟩⟩⟩⟩⟩⟩,
   ⟨⟨7, false, 16, 32, 0, 2, 3, true, 0, 0⟩, ⟨(tm (fun t => { t with tslots := [(2, { st := .ready, base := some 0, len := 256 })] })) ((reg 32 0x80000) ((reg 16 256) (D))), ⟨iss (.cpfs ⟨7, false, 16, 32, 0, 2, 3, true, 0, 0⟩) ((tm (fun t => { t with tslots := [(2, { st := .ready, base := some 0, len := 256 })] })) ((reg 32 0x80000) ((reg 16 256) (D)))), ⟨(ready_iss (by decide +kernel)), ⟨by decide +kernel, ⟨(placed_of (by decide +kernel)), ⟨by decide +kernel, ex_ok (by decide +kernel) (⟨by decide +kernel, ⟨by decide +kernel, ⟨((((iss (.cpfs ⟨7, false, 16, 32, 0, 2, 3, true, 0, 0⟩) ((tm (fun t => { t with tslots := [(2, { st := .ready, base := some 0, len := 256 })] })) ((reg 32 0x80000) ((reg 16 256) (D))))).moved ((tm (fun t => { t with tslots := [(2, { st := .ready, base := some 0, len := 256 })] })) ((reg 32 0x80000) ((reg 16 256) (D))))).team ((iss (.cpfs ⟨7, false, 16, 32, 0, 2, 3, true, 0, 0⟩) ((tm (fun t => { t with tslots := [(2, { st := .ready, base := some 0, len := 256 })] })) ((reg 32 0x80000) ((reg 16 256) (D))))).mine ((iss (.cpfs ⟨7, false, 16, 32, 0, 2, 3, true, 0, 0⟩) ((tm (fun t => { t with tslots := [(2, { st := .ready, base := some 0, len := 256 })] })) ((reg 32 0x80000) ((reg 16 256) (D))))).moved ((tm (fun t => { t with tslots := [(2, { st := .ready, base := some 0, len := 256 })] })) ((reg 32 0x80000) ((reg 16 256) (D))))))).tslot (iss (.cpfs ⟨7, false, 16, 32, 0, 2, 3, true, 0, 0⟩) ((tm (fun t => { t with tslots := [(2, { st := .ready, base := some 0, len := 256 })] })) ((reg 32 0x80000) ((reg 16 256) (D))))).f.ts.toNat), by decide +kernel⟩⟩⟩)⟩⟩⟩⟩⟩⟩⟩⟩
theorem test_EngineCommandsArePosted_met28 :
    (∃ o, ∃ s : State, ∃ x : Iss, Ready (.gcp o) s x ∧ x.alike (fun x l => [x.a l, x.b l]) ∧ (x.moved s).atomPending x.g.core x.g.slot x.ex = false ∧ ∃ loc : Loc, ∃ leaf : Nat, ∃ u, x.checkOnce (x.moved s) { rd := true, align := 32, size := 32 } (x.a x.low) = (u, .ok loc leaf) ∧ let v := u.prepLoad x.g.core x.g.slot { l := x.low, ea := x.a x.low, loc := loc, leaf := leaf } 32 true; let ws := (List.range 4).map (fun i => v.seen x.g.core x.g.slot x.low (loc.add (8 * i)) 8); v.anyPoison (loc.span 32) = false ∧ ∃ g : Gather, gatherOf ws = some g ∧ rangeOk g.idxa (g.count * g.isize) = true ∧ rangeOk (x.b x.low) (g.count * g.rowb) = true ∧ x.placed v ∧ x.engRoom v) ∧
    (∃ o, ∃ s : State, ∃ x : Iss, Ready (.gcpts o) s x ∧ x.alike (fun x l => [x.a l, x.b l]) ∧ (x.moved s).atomPending x.g.core x.g.slot x.ex = false ∧ ∃ loc : Loc, ∃ leaf : Nat, ∃ u, x.checkOnce (x.moved s) { rd := true, align := 32, size := 32 } (x.a x.low) = (u, .ok loc leaf) ∧ let v := u.prepLoad x.g.core x.g.slot { l := x.low, ea := x.a x.low, loc := loc, leaf := leaf } 32 true; let ws := (List.range 4).map (fun i => v.seen x.g.core x.g.slot x.low (loc.add (8 * i)) 8); v.anyPoison (loc.span 32) = false ∧ ∃ g : Gather, gatherOf ws = some g ∧ rangeOk g.idxa (g.count * g.isize) = true ∧ x.teamed (x.moved s) ∧ x.b x.low % 256 = 0 ∧ x.b x.low + g.count * g.rowb ≤ (v.team (x.mine v)).bufBytes ∧ ((v.team (x.mine v)).tslot x.f.ts.toNat).moving = false ∧ x.placed v ∧ x.engRoom v) :=
  ⟨⟨⟨7, false, 0, 32, 48, 0, 3, true, 0, 0⟩, ⟨((fun s : State => [0x80000, 0x80100, 0x10000010, 2].zipIdx.foldl (fun s w => s.poke (0x100000 + 8 * w.2) 8 w.1) s)) ((tm (fun t => { t with maps := [(0, { va := 0x80000, off := 0, len := 128, zero := false, segs := [{ pa := 0x100000, off := 0, len := 128 }], filled := [], dirty := [] })] })) ((reg 48 0x80200) ((reg 32 0x80000) (D)))), ⟨iss (.gcp ⟨7, false, 0, 32, 48, 0, 3, true, 0, 0⟩) (((fun s : State => [0x80000, 0x80100, 0x10000010, 2].zipIdx.foldl (fun s w => s.poke (0x100000 + 8 * w.2) 8 w.1) s)) ((tm (fun t => { t with maps := [(0, { va := 0x80000, off := 0, len := 128, zero := false, segs := [{ pa := 0x100000, off := 0, len := 128 }], filled := [], dirty := [] })] })) ((reg 48 0x80200) ((reg 32 0x80000) (D))))), ⟨(ready_iss (by decide +kernel)), ⟨by decide +kernel, ⟨by decide +kernel, ⟨.spad 1 0, ⟨0, ex_chk (by decide +kernel) (⟨by decide +kernel, ⟨{ base := 0x80000, idxa := 0x80100, rowb := 16, stride := 16, isz := 0, count := 2 }, ⟨by decide +kernel, ⟨by decide +kernel, ⟨by decide +kernel, ⟨(placed_of (by decide +kernel)), by decide +kernel⟩⟩⟩⟩⟩⟩)⟩⟩⟩⟩⟩⟩⟩⟩,
   ⟨⟨7, false, 0, 32, 48, 2, 3, true, 0, 0⟩, ⟨((fun s : State => [0x80000, 0x80100, 0x10000010, 2].zipIdx.foldl (fun s w => s.poke (0x100000 + 8 * w.2) 8 w.1) s)) ((tm (fun t => { t with maps := [(0, { va := 0x80000, off := 0, len := 128, zero := false, segs := [{ pa := 0x100000, off := 0, len := 128 }], filled := [], dirty := [] })] })) ((reg 48 256) ((reg 32 0x80000) (D)))), ⟨iss (.gcpts ⟨7, false, 0, 32, 48, 2, 3, true, 0, 0⟩) (((fun s : State => [0x80000, 0x80100, 0x10000010, 2].zipIdx.foldl (fun s w => s.poke (0x100000 + 8 * w.2) 8 w.1) s)) ((tm (fun t => { t with maps := [(0, { va := 0x80000, off := 0, len := 128, zero := false, segs := [{ pa := 0x100000, off := 0, len := 128 }], filled := [], dirty := [] })] })) ((reg 48 256) ((reg 32 0x80000) (D))))), ⟨(ready_iss (by decide +kernel)), ⟨by decide +kernel, ⟨by decide +kernel, ⟨.spad 1 0, ⟨0, ex_chk (by decide +kernel) (⟨by decide +kernel, ⟨{ base := 0x80000, idxa := 0x80100, rowb := 16, stride := 16, isz := 0, count := 2 }, ⟨by decide +kernel, ⟨by decide +kernel, ⟨by decide +kernel, ⟨by decide +kernel, ⟨by decide +kernel, ⟨by decide +kernel, ⟨(placed_of (by decide +kernel)), by decide +kernel⟩⟩⟩⟩⟩⟩⟩⟩⟩)⟩⟩⟩⟩⟩⟩⟩⟩⟩
theorem test_EngineCommandsArePosted_met29 :
    (∃ o, ∃ s : State, ∃ x : Iss, Ready (.gcp o) s x ∧ x.alike (fun x l => [x.a l, x.b l]) ∧ (x.moved s).atomPending x.g.core x.g.slot x.ex = false ∧ ∃ loc : Loc, ∃ leaf : Nat, ∃ u, x.checkOnce (x.moved s) { rd := true, align := 32, size := 32 } (x.a x.low) = (u, .ok loc leaf) ∧ let v := u.prepLoad x.g.core x.g.slot { l := x.low, ea := x.a x.low, loc := loc, leaf := leaf } 32 true; let ws := (List.range 4).map (fun i => v.seen x.g.core x.g.slot x.low (loc.add (8 * i)) 8); v.anyPoison (loc.span 32) = false ∧ x.canTrap v ∧ gatherOf ws = none) ∧
    (∃ o, ∃ s : State, ∃ x : Iss, Ready (.gcpts o) s x ∧ x.alike (fun x l => [x.a l, x.b l]) ∧ (x.moved s).atomPending x.g.core x.g.slot x.ex = false ∧ ∃ loc : Loc, ∃ leaf : Nat, ∃ u, x.checkOnce (x.moved s) { rd := true, align := 32, size := 32 } (x.a x.low) = (u, .ok loc leaf) ∧ let v := u.prepLoad x.g.core x.g.slot { l := x.low, ea := x.a x.low, loc := loc, leaf := leaf } 32 true; let ws := (List.range 4).map (fun i => v.seen x.g.core x.g.slot x.low (loc.add (8 * i)) 8); v.anyPoison (loc.span 32) = false ∧ x.canTrap v ∧ gatherOf ws = none) :=
  ⟨⟨⟨7, false, 0, 32, 48, 0, 3, true, 0, 0⟩, ⟨((fun s : State => [0, 0, 0, 0].zipIdx.foldl (fun s w => s.poke (0x100000 + 8 * w.2) 8 w.1) s)) ((tm (fun t => { t with maps := [(0, { va := 0x80000, off := 0, len := 128, zero := false, segs := [{ pa := 0x100000, off := 0, len := 128 }], filled := [], dirty := [] })] })) ((reg 48 0x80200) ((reg 32 0x80000) (D)))), ⟨iss (.gcp ⟨7, false, 0, 32, 48, 0, 3, true, 0, 0⟩) (((fun s : State => [0, 0, 0, 0].zipIdx.foldl (fun s w => s.poke (0x100000 + 8 * w.2) 8 w.1) s)) ((tm (fun t => { t with maps := [(0, { va := 0x80000, off := 0, len := 128, zero := false, segs := [{ pa := 0x100000, off := 0, len := 128 }], filled := [], dirty := [] })] })) ((reg 48 0x80200) ((reg 32 0x80000) (D))))), ⟨(ready_iss (by decide +kernel)), ⟨by decide +kernel, ⟨by decide +kernel, ⟨.spad 1 0, ⟨0, ex_chk (by decide +kernel) (by decide +kernel)⟩⟩⟩⟩⟩⟩⟩⟩,
   ⟨⟨7, false, 0, 32, 48, 2, 3, true, 0, 0⟩, ⟨((fun s : State => [0, 0, 0, 0].zipIdx.foldl (fun s w => s.poke (0x100000 + 8 * w.2) 8 w.1) s)) ((tm (fun t => { t with maps := [(0, { va := 0x80000, off := 0, len := 128, zero := false, segs := [{ pa := 0x100000, off := 0, len := 128 }], filled := [], dirty := [] })] })) ((reg 48 256) ((reg 32 0x80000) (D)))), ⟨iss (.gcpts ⟨7, false, 0, 32, 48, 2, 3, true, 0, 0⟩) (((fun s : State => [0, 0, 0, 0].zipIdx.foldl (fun s w => s.poke (0x100000 + 8 * w.2) 8 w.1) s)) ((tm (fun t => { t with maps := [(0, { va := 0x80000, off := 0, len := 128, zero := false, segs := [{ pa := 0x100000, off := 0, len := 128 }], filled := [], dirty := [] })] })) ((reg 48 256) ((reg 32 0x80000) (D))))), ⟨(ready_iss (by decide +kernel)), ⟨by decide +kernel, ⟨by decide +kernel, ⟨.spad 1 0, ⟨0, ex_chk (by decide +kernel) (by decide +kernel)⟩⟩⟩⟩⟩⟩⟩⟩⟩
theorem test_EngineCommandsArePosted_met30 :
    (∃ o, ∃ s : State, ∃ x : Iss, Ready (.gcp o) s x ∧ x.alike (fun x l => [x.a l, x.b l]) ∧ (x.moved s).atomPending x.g.core x.g.slot x.ex = false ∧ ∃ loc : Loc, ∃ leaf : Nat, ∃ u, x.checkOnce (x.moved s) { rd := true, align := 32, size := 32 } (x.a x.low) = (u, .ok loc leaf) ∧ let v := u.prepLoad x.g.core x.g.slot { l := x.low, ea := x.a x.low, loc := loc, leaf := leaf } 32 true; let ws := (List.range 4).map (fun i => v.seen x.g.core x.g.slot x.low (loc.add (8 * i)) 8); v.anyPoison (loc.span 32) = false ∧ x.canTrap v ∧ ∃ g : Gather, gatherOf ws = some g ∧ rangeOk g.idxa (g.count * g.isize) = false) ∧
    (∃ o, ∃ s : State, ∃ x : Iss, Ready (.gcpts o) s x ∧ x.alike (fun x l => [x.a l, x.b l]) ∧ (x.moved s).atomPending x.g.core x.g.slot x.ex = false ∧ ∃ loc : Loc, ∃ leaf : Nat, ∃ u, x.checkOnce (x.moved s) { rd := true, align := 32, size := 32 } (x.a x.low) = (u, .ok loc leaf) ∧ let v := u.prepLoad x.g.core x.g.slot { l := x.low, ea := x.a x.low, loc := loc, leaf := leaf } 32 true; let ws := (List.range 4).map (fun i => v.seen x.g.core x.g.slot x.low (loc.add (8 * i)) 8); v.anyPoison (loc.span 32) = false ∧ x.canTrap v ∧ ∃ g : Gather, gatherOf ws = some g ∧ rangeOk g.idxa (g.count * g.isize) = false) :=
  ⟨⟨⟨7, false, 0, 32, 48, 0, 3, true, 0, 0⟩, ⟨((fun s : State => [0x80000, 0x100000000000000, 0x10000010, 2].zipIdx.foldl (fun s w => s.poke (0x100000 + 8 * w.2) 8 w.1) s)) ((tm (fun t => { t with maps := [(0, { va := 0x80000, off := 0, len := 128, zero := false, segs := [{ pa := 0x100000, off := 0, len := 128 }], filled := [], dirty := [] })] })) ((reg 48 0x80200) ((reg 32 0x80000) (D)))), ⟨iss (.gcp ⟨7, false, 0, 32, 48, 0, 3, true, 0, 0⟩) (((fun s : State => [0x80000, 0x100000000000000, 0x10000010, 2].zipIdx.foldl (fun s w => s.poke (0x100000 + 8 * w.2) 8 w.1) s)) ((tm (fun t => { t with maps := [(0, { va := 0x80000, off := 0, len := 128, zero := false, segs := [{ pa := 0x100000, off := 0, len := 128 }], filled := [], dirty := [] })] })) ((reg 48 0x80200) ((reg 32 0x80000) (D))))), ⟨(ready_iss (by decide +kernel)), ⟨by decide +kernel, ⟨by decide +kernel, ⟨.spad 1 0, ⟨0, ex_chk (by decide +kernel) (⟨by decide +kernel, ⟨by decide +kernel, ⟨{ base := 0x80000, idxa := 0x100000000000000, rowb := 16, stride := 16, isz := 0, count := 2 }, by decide +kernel⟩⟩⟩)⟩⟩⟩⟩⟩⟩⟩⟩,
   ⟨⟨7, false, 0, 32, 48, 2, 3, true, 0, 0⟩, ⟨((fun s : State => [0x80000, 0x100000000000000, 0x10000010, 2].zipIdx.foldl (fun s w => s.poke (0x100000 + 8 * w.2) 8 w.1) s)) ((tm (fun t => { t with maps := [(0, { va := 0x80000, off := 0, len := 128, zero := false, segs := [{ pa := 0x100000, off := 0, len := 128 }], filled := [], dirty := [] })] })) ((reg 48 256) ((reg 32 0x80000) (D)))), ⟨iss (.gcpts ⟨7, false, 0, 32, 48, 2, 3, true, 0, 0⟩) (((fun s : State => [0x80000, 0x100000000000000, 0x10000010, 2].zipIdx.foldl (fun s w => s.poke (0x100000 + 8 * w.2) 8 w.1) s)) ((tm (fun t => { t with maps := [(0, { va := 0x80000, off := 0, len := 128, zero := false, segs := [{ pa := 0x100000, off := 0, len := 128 }], filled := [], dirty := [] })] })) ((reg 48 256) ((reg 32 0x80000) (D))))), ⟨(ready_iss (by decide +kernel)), ⟨by decide +kernel, ⟨by decide +kernel, ⟨.spad 1 0, ⟨0, ex_chk (by decide +kernel) (⟨by decide +kernel, ⟨by decide +kernel, ⟨{ base := 0x80000, idxa := 0x100000000000000, rowb := 16, stride := 16, isz := 0, count := 2 }, by decide +kernel⟩⟩⟩)⟩⟩⟩⟩⟩⟩⟩⟩⟩
theorem test_EngineCommandsArePosted_met31 :
    (∃ o, ∃ s : State, ∃ x : Iss, Ready (.gcp o) s x ∧ x.alike (fun x l => [x.a l, x.b l]) ∧ (x.moved s).atomPending x.g.core x.g.slot x.ex = false ∧ ∃ loc : Loc, ∃ leaf : Nat, ∃ u, x.checkOnce (x.moved s) { rd := true, align := 32, size := 32 } (x.a x.low) = (u, .ok loc leaf) ∧ let v := u.prepLoad x.g.core x.g.slot { l := x.low, ea := x.a x.low, loc := loc, leaf := leaf } 32 true; let ws := (List.range 4).map (fun i => v.seen x.g.core x.g.slot x.low (loc.add (8 * i)) 8); v.anyPoison (loc.span 32) = false ∧ x.canTrap v ∧ ∃ g : Gather, gatherOf ws = some g ∧ rangeOk g.idxa (g.count * g.isize) = true ∧ rangeOk (x.b x.low) (g.count * g.rowb) = false) ∧
    (∃ o, ∃ s : State, ∃ x : Iss, Ready (.gcpts o) s x ∧ x.alike (fun x l => [x.a l, x.b l]) ∧ (x.moved s).atomPending x.g.core x.g.slot x.ex = false ∧ ∃ loc : Loc, ∃ leaf : Nat, ∃ u, x.checkOnce (x.moved s) { rd := true, align := 32, size := 32 } (x.a x.low) = (u, .ok loc leaf) ∧ let v := u.prepLoad x.g.core x.g.slot { l := x.low, ea := x.a x.low, loc := loc, leaf := leaf } 32 true; let ws := (List.range 4).map (fun i => v.seen x.g.core x.g.slot x.low (loc.add (8 * i)) 8); v.anyPoison (loc.span 32) = false ∧ x.canTrap v ∧ ∃ g : Gather, gatherOf ws = some g ∧ rangeOk g.idxa (g.count * g.isize) = true ∧ x.teamed v ∧ (x.b x.low % 256 ≠ 0 ∨ (v.team (x.mine v)).bufBytes < x.b x.low + g.count * g.rowb)) :=
  ⟨⟨⟨7, false, 0, 32, 48, 0, 3, true, 0, 0⟩, ⟨((fun s : State => [0x80000, 0x80100, 0x10000010, 2].zipIdx.foldl (fun s w => s.poke (0x100000 + 8 * w.2) 8 w.1) s)) ((tm (fun t => { t with maps := [(0, { va := 0x80000, off := 0, len := 128, zero := false, segs := [{ pa := 0x100000, off := 0, len := 128 }], filled := [], dirty := [] })] })) ((reg 48 0x100000000000000) ((reg 32 0x80000) (D)))), ⟨iss (.gcp ⟨7, false, 0, 32, 48, 0, 3, true, 0, 0⟩) (((fun s : State => [0x80000, 0x80100, 0x10000010, 2].zipIdx.foldl (fun s w => s.poke (0x100000 + 8 * w.2) 8 w.1) s)) ((tm (fun t => { t with maps := [(0, { va := 0x80000, off := 0, len := 128, zero := false, segs := [{ pa := 0x100000, off := 0, len := 128 }], filled := [], dirty := [] })] })) ((reg 48 0x100000000000000) ((reg 32 0x80000) (D))))), ⟨(ready_iss (by decide +kernel)), ⟨by decide +kernel, ⟨by decide +kernel, ⟨.spad 1 0, ⟨0, ex_chk (by decide +kernel) (⟨by decide +kernel, ⟨by decide +kernel, ⟨{ base := 0x80000, idxa := 0x80100, rowb := 16, stride := 16, isz := 0, count := 2 }, by decide +kernel⟩⟩⟩)⟩⟩⟩⟩⟩⟩⟩⟩,
   ⟨⟨7, false, 0, 32, 48, 2, 3, true, 0, 0⟩, ⟨((fun s : State => [0x80000, 0x80100, 0x10000010, 2].zipIdx.foldl (fun s w => s.poke (0x100000 + 8 * w.2) 8 w.1) s)) ((tm (fun t => { t with maps := [(0, { va := 0x80000, off := 0, len := 128, zero := false, segs := [{ pa := 0x100000, off := 0, len := 128 }], filled := [], dirty := [] })] })) ((reg 48 1) ((reg 32 0x80000) (D)))), ⟨iss (.gcpts ⟨7, false, 0, 32, 48, 2, 3, true, 0, 0⟩) (((fun s : State => [0x80000, 0x80100, 0x10000010, 2].zipIdx.foldl (fun s w => s.poke (0x100000 + 8 * w.2) 8 w.1) s)) ((tm (fun t => { t with maps := [(0, { va := 0x80000, off := 0, len := 128, zero := false, segs := [{ pa := 0x100000, off := 0, len := 128 }], filled := [], dirty := [] })] })) ((reg 48 1) ((reg 32 0x80000) (D))))), ⟨(ready_iss (by decide +kernel)), ⟨by decide +kernel, ⟨by decide +kernel, ⟨.spad 1 0, ⟨0, ex_chk (by decide +kernel) (⟨by decide +kernel, ⟨by decide +kernel, ⟨{ base := 0x80000, idxa := 0x80100, rowb := 16, stride := 16, isz := 0, count := 2 }, by decide +kernel⟩⟩⟩)⟩⟩⟩⟩⟩⟩⟩⟩⟩
theorem test_CompletionCounters_met :
    (∃ o, ∃ s : State, ∃ x : Iss, Ready (.waitlt o) s x ∧ (fun x s => ∀ l ∈ x.ex, x.a l % 2 ^ 56 ≠ 0 ∧ (s.counter x.g.core x.team x.ccn).count < x.a l % 2 ^ 56) x (x.moved s)) ∧
    (∃ o, ∃ s : State, ∃ x : Iss, Ready (.waitlt o) s x ∧ (fun x s => (∀ l ∈ x.ex, x.a l % 2 ^ 56 ≠ 0) ∧ ∃ l ∈ x.ex, x.a l % 2 ^ 56 ≤ (s.counter x.g.core x.team x.ccn).count) x (x.moved s)) ∧
    (∃ o, ∃ s : State, ∃ x : Iss, Ready (.waitlt o) s x ∧ x.canTrap (x.moved s) ∧ (fun x _ => ∃ l ∈ x.ex, x.a l % 2 ^ 56 = 0) x (x.moved s)) ∧
    (∃ o, ∃ s : State, ∃ x : Iss, Ready (.ccrd o) s x ∧ (fun _ _ => True) x (x.moved s)) ∧
    (∃ o, ∃ s : State, ∃ x : Iss, Ready (.ccadd o) s x ∧ (fun _ _ => True) x (x.moved s)) ∧
    (∃ o, ∃ s : State, ∃ x : Iss, Ready (.ccclr o) s x ∧ (fun x _ => x.ex ≠ []) x (x.moved s)) :=
  ⟨⟨⟨7, false, 0, 32, 0, 0, 0, false, false, false, 0, 0⟩, ⟨(tm (fun t => { t with counters := [(0, { count := 1 })] })) ((reg 32 2) (D)), ⟨iss (.waitlt ⟨7, false, 0, 32, 0, 0, 0, false, false, false, 0, 0⟩) ((tm (fun t => { t with counters := [(0, { count := 1 })] })) ((reg 32 2) (D))), ⟨(ready_iss (by decide +kernel)), by decide +kernel⟩⟩⟩⟩,
   ⟨⟨7, false, 0, 32, 0, 0, 0, false, false, false, 0, 0⟩, ⟨(tm (fun t => { t with counters := [(0, { count := 1 })] })) ((reg 32 1) (D)), ⟨iss (.waitlt ⟨7, false, 0, 32, 0, 0, 0, false, false, false, 0, 0⟩) ((tm (fun t => { t with counters := [(0, { count := 1 })] })) ((reg 32 1) (D))), ⟨(ready_iss (by decide +kernel)), by decide +kernel⟩⟩⟩⟩,
   ⟨⟨7, false, 0, 32, 0, 0, 0, false, false, false, 0, 0⟩, ⟨D, ⟨iss (.waitlt ⟨7, false, 0, 32, 0, 0, 0, false, false, false, 0, 0⟩) (D), ⟨(ready_iss (by decide +kernel)), by decide +kernel⟩⟩⟩⟩,
   ⟨⟨7, false, 16, 0, 0, 0, 0, false, false, false, 0, 0⟩, ⟨D, ⟨iss (.ccrd ⟨7, false, 16, 0, 0, 0, 0, false, false, false, 0, 0⟩) (D), ⟨(ready_iss (by decide +kernel)), by decide +kernel⟩⟩⟩⟩,
   ⟨⟨7, false, 0, 32, 0, 0, 0, false, false, false, 0, 0⟩, ⟨D, ⟨iss (.ccadd ⟨7, false, 0, 32, 0, 0, 0, false, false, false, 0, 0⟩) (D), ⟨(ready_iss (by decide +kernel)), by decide +kernel⟩⟩⟩⟩,
   ⟨⟨7, false, 0, 0, 0, 0, 0, false, false, false, 0, 0⟩, ⟨D, ⟨iss (.ccclr ⟨7, false, 0, 0, 0, 0, 0, false, false, false, 0, 0⟩) (D), ⟨(ready_iss (by decide +kernel)), by decide +kernel⟩⟩⟩⟩⟩
theorem test_RefinementBlocksAreQueued_met :
    (∃ o, ∃ s : State, ∃ x : Iss, Ready (.refine o) s x ∧ x.teamed (x.moved s) ∧ x.placed (x.moved s) ∧ x.alike (fun x l => [x.a l]) ∧ (x.moved s).atomPending x.g.core x.g.slot x.ex = false ∧ ∃ loc : Loc, ∃ leaf : Nat, ∃ u, x.checkOnce (x.moved s) { rd := true, align := 128, size := 128 } (x.a x.low) = (u, .ok loc leaf) ∧ let y := x.mine (x.moved s); let v := u.prepLoad x.g.core x.g.slot { l := x.low, ea := x.a x.low, loc := loc, leaf := leaf } 128 true; let ws := (List.range 16).map (fun i => v.seen x.g.core x.g.slot x.low (loc.add (8 * i)) 8); let b : RefBlock := { id := 0, kind := 0, core := x.g.core, slot := x.g.slot, lane := x.low, team := y, ctx := x.agent.ctx, addr := x.a x.low, pc := x.g.pc, words := ws, desc := ((v.team y).handle (ws.getD 6 0 % 2 ^ 4)).desc }; v.anyPoison (loc.span 128) = false ∧ b.firstBad (v.team y) (!(v.blocksAt x.g.core y (x.a x.low)).isEmpty) = 0 ∧ b.inWindow (v.team y).rswin = false ∧ (v.die (x.g.core / 36)).blocks.length < 16 ∧ v.drained x.g.core x.g.slot = true) ∧
    (∃ o, ∃ s : State, ∃ x : Iss, Ready (.rfres o) s x ∧ x.teamed (x.moved s) ∧ x.placed (x.moved s) ∧ x.alike (fun x l => [x.a l]) ∧ (x.moved s).atomPending x.g.core x.g.slot x.ex = false ∧ ∃ loc : Loc, ∃ leaf : Nat, ∃ u, x.checkOnce (x.moved s) { rd := true, align := 128, size := 128 } (x.a x.low) = (u, .ok loc leaf) ∧ let y := x.mine (x.moved s); let v := u.prepLoad x.g.core x.g.slot { l := x.low, ea := x.a x.low, loc := loc, leaf := leaf } 128 true; let ws := (List.range 16).map (fun i => v.seen x.g.core x.g.slot x.low (loc.add (8 * i)) 8); let b : RefBlock := { id := 0, kind := 1, core := x.g.core, slot := x.g.slot, lane := x.low, team := y, ctx := x.agent.ctx, addr := x.a x.low, pc := x.g.pc, words := ws, desc := ((v.team y).handle (ws.getD 6 0 % 2 ^ 4)).desc }; v.anyPoison (loc.span 128) = false ∧ b.firstBad (v.team y) (!(v.blocksAt x.g.core y (x.a x.low)).isEmpty) = 0 ∧ b.inWindow (v.team y).rswin = false ∧ (v.die (x.g.core / 36)).blocks.length < 16 ∧ v.drained x.g.core x.g.slot = true) ∧
    (∃ o, ∃ s : State, ∃ x : Iss, Ready (.refine o) s x ∧ x.teamed (x.moved s) ∧ x.placed (x.moved s) ∧ x.alike (fun x l => [x.a l]) ∧ (x.moved s).atomPending x.g.core x.g.slot x.ex = false ∧ ∃ loc : Loc, ∃ leaf : Nat, ∃ u, x.checkOnce (x.moved s) { rd := true, align := 128, size := 128 } (x.a x.low) = (u, .ok loc leaf) ∧ let y := x.mine (x.moved s); let v := u.prepLoad x.g.core x.g.slot { l := x.low, ea := x.a x.low, loc := loc, leaf := leaf } 128 true; let ws := (List.range 16).map (fun i => v.seen x.g.core x.g.slot x.low (loc.add (8 * i)) 8); let b : RefBlock := { id := 0, kind := 0, core := x.g.core, slot := x.g.slot, lane := x.low, team := y, ctx := x.agent.ctx, addr := x.a x.low, pc := x.g.pc, words := ws, desc := ((v.team y).handle (ws.getD 6 0 % 2 ^ 4)).desc }; v.anyPoison (loc.span 128) = false ∧ ∃ bad : Nat, b.firstBad (v.team y) (!(v.blocksAt x.g.core y (x.a x.low)).isEmpty) = bad ∧ bad ≠ 0 ∧ x.canTrap v) ∧
    (∃ o, ∃ s : State, ∃ x : Iss, Ready (.rfres o) s x ∧ x.teamed (x.moved s) ∧ x.placed (x.moved s) ∧ x.alike (fun x l => [x.a l]) ∧ (x.moved s).atomPending x.g.core x.g.slot x.ex = false ∧ ∃ loc : Loc, ∃ leaf : Nat, ∃ u, x.checkOnce (x.moved s) { rd := true, align := 128, size := 128 } (x.a x.low) = (u, .ok loc leaf) ∧ let y := x.mine (x.moved s); let v := u.prepLoad x.g.core x.g.slot { l := x.low, ea := x.a x.low, loc := loc, leaf := leaf } 128 true; let ws := (List.range 16).map (fun i => v.seen x.g.core x.g.slot x.low (loc.add (8 * i)) 8); let b : RefBlock := { id := 0, kind := 1, core := x.g.core, slot := x.g.slot, lane := x.low, team := y, ctx := x.agent.ctx, addr := x.a x.low, pc := x.g.pc, words := ws, desc := ((v.team y).handle (ws.getD 6 0 % 2 ^ 4)).desc }; v.anyPoison (loc.span 128) = false ∧ ∃ bad : Nat, b.firstBad (v.team y) (!(v.blocksAt x.g.core y (x.a x.low)).isEmpty) = bad ∧ bad ≠ 0 ∧ x.canTrap v) ∧
    (∃ o, ∃ s : State, ∃ x : Iss, Ready (.rfchk o) s x ∧ x.teamed (x.moved s) ∧ x.placed (x.moved s) ∧ x.alike (fun x l => [x.a l]) ∧ (x.moved s).atomPending x.g.core x.g.slot x.ex = false ∧ ∃ loc : Loc, ∃ leaf : Nat, ∃ u, x.checkOnce (x.moved s) { rd := true, align := 128, size := 128 } (x.a x.low) = (u, .ok loc leaf) ∧ let y := x.mine (x.moved s); let v := u.prepLoad x.g.core x.g.slot { l := x.low, ea := x.a x.low, loc := loc, leaf := leaf } 128 true; let ws := (List.range 16).map (fun i => v.seen x.g.core x.g.slot x.low (loc.add (8 * i)) 8); let b : RefBlock := { id := 0, kind := 2, core := x.g.core, slot := x.g.slot, lane := x.low, team := y, ctx := x.agent.ctx, addr := x.a x.low, pc := x.g.pc, words := ws, desc := ((v.team y).handle (ws.getD 6 0 % 2 ^ 4)).desc }; v.anyPoison (loc.span 128) = false ∧ ∃ bad : Nat, b.firstBad (v.team y) (!(v.blocksAt x.g.core y (x.a x.low)).isEmpty) = bad ∧ bad ≠ 1 ∧ { b with kind := 0 }.inWindow (if bad = 0 then (v.team y).rswin else 0) = false ∧ (v.die (x.g.core / 36)).blocks.length < 16 ∧ v.drained x.g.core x.g.slot = true) ∧
    (∃ b : RefBlock, ∃ y : Team, ∃ busy : Bool, ∃ b : RefBlock, ∃ y : Team, ∃ busy : Bool, ∃ n : Nat, b.firstBad y busy = n + 1) ∧
    (∃ o, ∃ s : State, ∃ x : Iss, Ready (.rfwait o) s x ∧ (fun x s => x.teamed s ∧ x.alike (fun x l => [x.a l]) ∧ s.blocksAt x.g.core (x.mine s) (x.a x.low) = []) x (x.moved s)) ∧
    (∃ o, ∃ s : State, ∃ x : Iss, Ready (.rfwait o) s x ∧ (fun x s => x.teamed s ∧ x.alike (fun x l => [x.a l]) ∧ s.blocksAt x.g.core (x.mine s) (x.a x.low) ≠ []) x (x.moved s)) ∧
    (∃ o, ∃ s : State, ∃ x : Iss, Ready (.rfcancel o) s x ∧ (fun x s => x.teamed s ∧ x.alike (fun x l => [x.a l])) x (x.moved s)) ∧
    (∃ o, ∃ s : State, ∃ x : Iss, Ready (.rfstat o) s x ∧ (fun x s => x.teamed s ∧ x.alike (fun x l => [x.a l])) x (x.moved s)) :=
  ⟨⟨⟨7, false, 0, 32, 0, 0, 0, false, 0, 0⟩, ⟨(words 0x100000 [0x81000, 0x82000, 0x83000, 0x81400, 0x800000008, 8192, 0x100000000, 0x110001, 0, 0, 0x3F00000040000000]) ((tm (fun t => { t with handles := [(0, { opened := true, desc := { base := 0x88000, esz := 2, ext := [2, 2], stride := [8, 4] } })] })) ((tm (fun t => { t with maps := [(0, { va := 0x80000, off := 0, len := 128, zero := false, segs := [{ pa := 0x100000, off := 0, len := 128 }], filled := [], dirty := [] })] })) ((reg 32 0x80000) (D)))), ⟨iss (.refine ⟨7, false, 0, 32, 0, 0, 0, false, 0, 0⟩) ((words 0x100000 [0x81000, 0x82000, 0x83000, 0x81400, 0x800000008, 8192, 0x100000000, 0x110001, 0, 0, 0x3F00000040000000]) ((tm (fun t => { t with handles := [(0, { opened := true, desc := { base := 0x88000, esz := 2, ext := [2, 2], stride := [8, 4] } })] })) ((tm (fun t => { t with maps := [(0, { va := 0x80000, off := 0, len := 128, zero := false, segs := [{ pa := 0x100000, off := 0, len := 128 }], filled := [], dirty := [] })] })) ((reg 32 0x80000) (D))))), ⟨(ready_iss (by decide +kernel)), ⟨by decide +kernel, ⟨(placed_of (by decide +kernel)), ⟨by decide +kernel, ⟨by decide +kernel, ⟨.spad 1 0, ⟨0, ex_chk (by decide +kernel) (by decide +kernel)⟩⟩⟩⟩⟩⟩⟩⟩⟩⟩,
   ⟨⟨7, false, 0, 32, 0, 0, 0, false, 0, 0⟩, ⟨(words 0x100000 [0x81000, 0x82000, 0x83000, 0x81400, 0x800000008, 8192, 0x100000000, 0x110001, 0, 0, 0x3F00000040000000]) ((tm (fun t => { t with handles := [(0, { opened := true, desc := { base := 0x88000, esz := 2, ext := [2, 2], stride := [8, 4] } })] })) ((tm (fun t => { t with maps := [(0, { va := 0x80000, off := 0, len := 128, zero := false, segs := [{ pa := 0x100000, off := 0, len := 128 }], filled := [], dirty := [] })] })) ((reg 32 0x80000) (D)))), ⟨iss (.rfres ⟨7, false, 0, 32, 0, 0, 0, false, 0, 0⟩) ((words 0x100000 [0x81000, 0x82000, 0x83000, 0x81400, 0x800000008, 8192, 0x100000000, 0x110001, 0, 0, 0x3F00000040000000]) ((tm (fun t => { t with handles := [(0, { opened := true, desc := { base := 0x88000, esz := 2, ext := [2, 2], stride := [8, 4] } })] })) ((tm (fun t => { t with maps := [(0, { va := 0x80000, off := 0, len := 128, zero := false, segs := [{ pa := 0x100000, off := 0, len := 128 }], filled := [], dirty := [] })] })) ((reg 32 0x80000) (D))))), ⟨(ready_iss (by decide +kernel)), ⟨by decide +kernel, ⟨(placed_of (by decide +kernel)), ⟨by decide +kernel, ⟨by decide +kernel, ⟨.spad 1 0, ⟨0, ex_chk (by decide +kernel) (by decide +kernel)⟩⟩⟩⟩⟩⟩⟩⟩⟩⟩,
   ⟨⟨7, false, 0, 32, 0, 0, 0, false, 0, 0⟩, ⟨(words 0x100000 [0]) ((tm (fun t => { t with handles := [(0, { opened := true, desc := { base := 0x88000, esz := 2, ext := [2, 2], stride := [8, 4] } })] })) ((tm (fun t => { t with maps := [(0, { va := 0x80000, off := 0, len := 128, zero := false, segs := [{ pa := 0x100000, off := 0, len := 128 }], filled := [], dirty := [] })] })) ((reg 32 0x80000) (D)))), ⟨iss (.refine ⟨7, false, 0, 32, 0, 0, 0, false, 0, 0⟩) ((words 0x100000 [0]) ((tm (fun t => { t with handles := [(0, { opened := true, desc := { base := 0x88000, esz := 2, ext := [2, 2], stride := [8, 4] } })] })) ((tm (fun t => { t with maps := [(0, { va := 0x80000, off := 0, len := 128, zero := false, segs := [{ pa := 0x100000, off := 0, len := 128 }], filled := [], dirty := [] })] })) ((reg 32 0x80000) (D))))), ⟨(ready_iss (by decide +kernel)), ⟨by decide +kernel, ⟨(placed_of (by decide +kernel)), ⟨by decide +kernel, ⟨by decide +kernel, ⟨.spad 1 0, ⟨0, ex_chk (by decide +kernel) (⟨by decide +kernel, ⟨5, by decide +kernel⟩⟩)⟩⟩⟩⟩⟩⟩⟩⟩⟩⟩,
   ⟨⟨7, false, 0, 32, 0, 0, 0, false, 0, 0⟩, ⟨(words 0x100000 [0]) ((tm (fun t => { t with handles := [(0, { opened := true, desc := { base := 0x88000, esz := 2, ext := [2, 2], stride := [8, 4] } })] })) ((tm (fun t => { t with maps := [(0, { va := 0x80000, off := 0, len := 128, zero := false, segs := [{ pa := 0x100000, off := 0, len := 128 }], filled := [], dirty := [] })] })) ((reg 32 0x80000) (D)))), ⟨iss (.rfres ⟨7, false, 0, 32, 0, 0, 0, false, 0, 0⟩) ((words 0x100000 [0]) ((tm (fun t => { t with handles := [(0, { opened := true, desc := { base := 0x88000, esz := 2, ext := [2, 2], stride := [8, 4] } })] })) ((tm (fun t => { t with maps := [(0, { va := 0x80000, off := 0, len := 128, zero := false, segs := [{ pa := 0x100000, off := 0, len := 128 }], filled := [], dirty := [] })] })) ((reg 32 0x80000) (D))))), ⟨(ready_iss (by decide +kernel)), ⟨by decide +kernel, ⟨(placed_of (by decide +kernel)), ⟨by decide +kernel, ⟨by decide +kernel, ⟨.spad 1 0, ⟨0, ex_chk (by decide +kernel) (⟨by decide +kernel, ⟨5, by decide +kernel⟩⟩)⟩⟩⟩⟩⟩⟩⟩⟩⟩⟩,
   ⟨⟨7, false, 0, 32, 0, 0, 0, false, 0, 0⟩, ⟨(words 0x100000 [0x81000, 0x82000, 0x83000, 0x81400, 0x800000008, 8192, 0x100000000, 0x110001, 0, 0, 0x3F00000040000000]) ((tm (fun t => { t with handles := [(0, { opened := true, desc := { base := 0x88000, esz := 2, ext := [2, 2], stride := [8, 4] } })] })) ((tm (fun t => { t with maps := [(0, { va := 0x80000, off := 0, len := 128, zero := false, segs := [{ pa := 0x100000, off := 0, len := 128 }], filled := [], dirty := [] })] })) ((reg 32 0x80000) (D)))), ⟨iss (.rfchk ⟨7, false, 0, 32, 0, 0, 0, false, 0, 0⟩) ((words 0x100000 [0x81000, 0x82000, 0x83000, 0x81400, 0x800000008, 8192, 0x100000000, 0x110001, 0, 0, 0x3F00000040000000]) ((tm (fun t => { t with handles := [(0, { opened := true, desc := { base := 0x88000, esz := 2, ext := [2, 2], stride := [8, 4] } })] })) ((tm (fun t => { t with maps := [(0, { va := 0x80000, off := 0, len := 128, zero := false, segs := [{ pa := 0x100000, off := 0, len := 128 }], filled := [], dirty := [] })] })) ((reg 32 0x80000) (D))))), ⟨(ready_iss (by decide +kernel)), ⟨by decide +kernel, ⟨(placed_of (by decide +kernel)), ⟨by decide +kernel, ⟨by decide +kernel, ⟨.spad 1 0, ⟨0, ex_chk (by decide +kernel) (⟨by decide +kernel, ⟨0, by decide +kernel⟩⟩)⟩⟩⟩⟩⟩⟩⟩⟩⟩⟩,
   ⟨{ id := 1, kind := 0, core := 0, slot := 0, lane := 0, team := 1, ctx := 1, addr := 0, pc := 0, words := [0] }, ⟨{}, ⟨false, ⟨{ id := 1, kind := 0, core := 0, slot := 0, lane := 0, team := 1, ctx := 1, addr := 0, pc := 0, words := [0] }, ⟨{}, ⟨false, ⟨2, by decide +kernel⟩⟩⟩⟩⟩⟩⟩,
   ⟨⟨7, false, 0, 32, 0, 0, 0, false, false, false, 0, 0⟩, ⟨D, ⟨iss (.rfwait ⟨7, false, 0, 32, 0, 0, 0, false, false, false, 0, 0⟩) (D), ⟨(ready_iss (by decide +kernel)), by decide +kernel⟩⟩⟩⟩,
   ⟨⟨7, false, 0, 32, 0, 0, 0, false, false, false, 0, 0⟩, ⟨((fun s : State => s.modDie 0 (fun d => { d with blocks := [{ id := 1, kind := 0, core := 0, slot := 0, lane := 0, team := 1, ctx := 1, addr := 0, pc := 0, words := [] }] }))) (D), ⟨iss (.rfwait ⟨7, false, 0, 32, 0, 0, 0, false, false, false, 0, 0⟩) (((fun s : State => s.modDie 0 (fun d => { d with blocks := [{ id := 1, kind := 0, core := 0, slot := 0, lane := 0, team := 1, ctx := 1, addr := 0, pc := 0, words := [] }] }))) (D)), ⟨(ready_iss (by decide +kernel)), by decide +kernel⟩⟩⟩⟩,
   ⟨⟨7, false, 0, 32, 0, 0, 0, false, 0, 0⟩, ⟨D, ⟨iss (.rfcancel ⟨7, false, 0, 32, 0, 0, 0, false, 0, 0⟩) (D), ⟨(ready_iss (by decide +kernel)), by decide +kernel⟩⟩⟩⟩,
   ⟨⟨7, false, 16, 32, 0, 0, 0, false, false, false, 0, 0⟩, ⟨D, ⟨iss (.rfstat ⟨7, false, 16, 32, 0, 0, 0, false, false, false, 0, 0⟩) (D), ⟨(ready_iss (by decide +kernel)), by decide +kernel⟩⟩⟩⟩⟩
theorem test_SystemRegisters_met :
    (∃ o, ∃ s : State, ∃ x : Iss, Ready (.mfs o) s x ∧ (x.f.c.toNat = 0x010 ∨ x.f.c.toNat = 0x011 ∨ x.f.c.toNat = 0x012)) ∧
    (∃ o, ∃ s : State, ∃ x : Iss, Ready (.mfs o) s x ∧ (fun x _ => x.f.c.toNat ≠ 0x005 ∧ x.f.c.toNat ≠ 0x006 ∧ x.f.c.toNat ≠ 0x007 ∧ x.f.c.toNat ≠ 0x010 ∧ x.f.c.toNat ≠ 0x011 ∧ x.f.c.toNat ≠ 0x012 ∧ x.f.c.toNat ≠ 0x040 ∧ x.f.c.toNat ≠ 0x048) x (x.moved s)) ∧
    (∃ o, ∃ s : State, ∃ x : Iss, Ready (.mfs o) s x ∧ (fun x _ => x.ex ≠ [] ∧ x.f.c.toNat = 0x040) x (x.moved s)) ∧
    (∃ o, ∃ s : State, ∃ x : Iss, Ready (.mfs o) s x ∧ (fun x _ => x.ex ≠ [] ∧ x.f.c.toNat = 0x048) x (x.moved s)) ∧
    (∃ rs : List FaultRec, ∃ q, currentRec rs = some q ∧ True) ∧
    (∃ o, ∃ s : State, ∃ x : Iss, Ready (.mfs o) s x ∧ (x.f.c.toNat = 0x005 ∨ x.f.c.toNat = 0x006 ∨ x.f.c.toNat = 0x007)) ∧
    (∃ o, ∃ s : State, ∃ x : Iss, Ready (.mts o) s x ∧ (x.f.c.toNat = 0x010 ∨ x.f.c.toNat = 0x011 ∨ x.f.c.toNat = 0x012)) ∧
    (∃ o, ∃ s : State, ∃ x : Iss, Ready (.mtsset o) s x ∧ (x.f.c.toNat = 0x010 ∨ x.f.c.toNat = 0x011 ∨ x.f.c.toNat = 0x012)) ∧
    (∃ o, ∃ s : State, ∃ x : Iss, Ready (.mtsclr o) s x ∧ (x.f.c.toNat = 0x010 ∨ x.f.c.toNat = 0x011 ∨ x.f.c.toNat = 0x012)) ∧
    (∃ o, ∃ s : State, ∃ x : Iss, Ready (.mts o) s x ∧ (fun x _ => x.alike (fun x l => [x.a l]) ∧ x.f.c.toNat ≠ 0x010 ∧ x.f.c.toNat ≠ 0x011 ∧ x.f.c.toNat ≠ 0x012 ∧ x.f.c.toNat ≠ 0x026 ∧ x.f.c.toNat ≠ 0x044 ∧ x.f.c.toNat ≠ 0x04C) x (x.moved s)) ∧
    (∃ o, ∃ s : State, ∃ x : Iss, Ready (.mtsset o) s x ∧ (fun x _ => x.alike (fun x l => [x.a l]) ∧ x.f.c.toNat ≠ 0x010 ∧ x.f.c.toNat ≠ 0x011 ∧ x.f.c.toNat ≠ 0x012 ∧ x.f.c.toNat ≠ 0x026 ∧ x.f.c.toNat ≠ 0x044 ∧ x.f.c.toNat ≠ 0x04C) x (x.moved s)) ∧
    (∃ o, ∃ s : State, ∃ x : Iss, Ready (.mtsclr o) s x ∧ (fun x _ => x.alike (fun x l => [x.a l]) ∧ x.f.c.toNat ≠ 0x010 ∧ x.f.c.toNat ≠ 0x011 ∧ x.f.c.toNat ≠ 0x012 ∧ x.f.c.toNat ≠ 0x026 ∧ x.f.c.toNat ≠ 0x044 ∧ x.f.c.toNat ≠ 0x04C) x (x.moved s)) ∧
    (∃ o, ∃ s : State, ∃ x : Iss, Ready (.mts o) s x ∧ (fun x _ => x.alike (fun x l => [x.a l]) ∧ x.f.c.toNat = 0x026) x (x.moved s)) ∧
    (∃ o, ∃ s : State, ∃ x : Iss, Ready (.mtsset o) s x ∧ (fun x _ => x.alike (fun x l => [x.a l]) ∧ x.f.c.toNat = 0x026) x (x.moved s)) :=
  ⟨⟨⟨7, false, 16, 0, 0, 16, 0, false, false, false, 0, 0⟩, ⟨agent, ⟨iss (.mfs ⟨7, false, 16, 0, 0, 16, 0, false, false, false, 0, 0⟩) (agent), ⟨(ready_iss (by decide +kernel)), by decide +kernel⟩⟩⟩⟩,
   ⟨⟨7, false, 16, 0, 0, 32, 0, false, false, false, 0, 0⟩, ⟨agent, ⟨iss (.mfs ⟨7, false, 16, 0, 0, 32, 0, false, false, false, 0, 0⟩) (agent), ⟨(ready_iss (by decide +kernel)), by decide +kernel⟩⟩⟩⟩,
   ⟨⟨7, false, 16, 0, 0, 64, 0, false, false, false, 0, 0⟩, ⟨agent, ⟨iss (.mfs ⟨7, false, 16, 0, 0, 64, 0, false, false, false, 0, 0⟩) (agent), ⟨(ready_iss (by decide +kernel)), by decide +kernel⟩⟩⟩⟩,
   ⟨⟨7, false, 16, 0, 0, 72, 0, false, false, false, 0, 0⟩, ⟨agent, ⟨iss (.mfs ⟨7, false, 16, 0, 0, 72, 0, false, false, false, 0, 0⟩) (agent), ⟨(ready_iss (by decide +kernel)), by decide +kernel⟩⟩⟩⟩,
   ⟨[{ idx := 0, w0 := 1, w1 := 2, w2 := 3, w3 := 4 }], ex_some (by decide +kernel) (trivial)⟩,
   ⟨⟨7, false, 16, 0, 0, 5, 0, false, false, false, 0, 0⟩, ⟨agent, ⟨iss (.mfs ⟨7, false, 16, 0, 0, 5, 0, false, false, false, 0, 0⟩) (agent), ⟨(ready_iss (by decide +kernel)), by decide +kernel⟩⟩⟩⟩,
   ⟨⟨7, false, 0, 32, 0, 16, 0, false, false, false, 0, 0⟩, ⟨agent, ⟨iss (.mts ⟨7, false, 0, 32, 0, 16, 0, false, false, false, 0, 0⟩) (agent), ⟨(ready_iss (by decide +kernel)), by decide +kernel⟩⟩⟩⟩,
   ⟨⟨7, false, 0, 32, 0, 16, 0, false, false, false, 0, 0⟩, ⟨agent, ⟨iss (.mtsset ⟨7, false, 0, 32, 0, 16, 0, false, false, false, 0, 0⟩) (agent), ⟨(ready_iss (by decide +kernel)), by decide +kernel⟩⟩⟩⟩,
   ⟨⟨7, false, 0, 32, 0, 16, 0, false, false, false, 0, 0⟩, ⟨agent, ⟨iss (.mtsclr ⟨7, false, 0, 32, 0, 16, 0, false, false, false, 0, 0⟩) (agent), ⟨(ready_iss (by decide +kernel)), by decide +kernel⟩⟩⟩⟩,
   ⟨⟨7, false, 0, 32, 0, 36, 0, false, false, false, 0, 0⟩, ⟨agent, ⟨iss (.mts ⟨7, false, 0, 32, 0, 36, 0, false, false, false, 0, 0⟩) (agent), ⟨(ready_iss (by decide +kernel)), by decide +kernel⟩⟩⟩⟩,
   ⟨⟨7, false, 0, 32, 0, 36, 0, false, false, false, 0, 0⟩, ⟨agent, ⟨iss (.mtsset ⟨7, false, 0, 32, 0, 36, 0, false, false, false, 0, 0⟩) (agent), ⟨(ready_iss (by decide +kernel)), by decide +kernel⟩⟩⟩⟩,
   ⟨⟨7, false, 0, 32, 0, 36, 0, false, false, false, 0, 0⟩, ⟨agent, ⟨iss (.mtsclr ⟨7, false, 0, 32, 0, 36, 0, false, false, false, 0, 0⟩) (agent), ⟨(ready_iss (by decide +kernel)), by decide +kernel⟩⟩⟩⟩,
   ⟨⟨7, false, 0, 32, 0, 38, 0, false, false, false, 0, 0⟩, ⟨agent, ⟨iss (.mts ⟨7, false, 0, 32, 0, 38, 0, false, false, false, 0, 0⟩) (agent), ⟨(ready_iss (by decide +kernel)), by decide +kernel⟩⟩⟩⟩,
   ⟨⟨7, false, 0, 32, 0, 38, 0, false, false, false, 0, 0⟩, ⟨agent, ⟨iss (.mtsset ⟨7, false, 0, 32, 0, 38, 0, false, false, false, 0, 0⟩) (agent), ⟨(ready_iss (by decide +kernel)), by decide +kernel⟩⟩⟩⟩⟩
theorem test_SystemRegisters_met2 :
    (∃ o, ∃ s : State, ∃ x : Iss, Ready (.mtsclr o) s x ∧ (fun x _ => x.alike (fun x l => [x.a l]) ∧ x.f.c.toNat = 0x026) x (x.moved s)) ∧
    (∃ o, ∃ s : State, ∃ x : Iss, Ready (.mts o) s x ∧ (fun x _ => x.alike (fun x l => [x.a l]) ∧ x.f.c.toNat = 0x044) x (x.moved s)) ∧
    (∃ o, ∃ s : State, ∃ x : Iss, Ready (.mts o) s x ∧ (fun x _ => x.alike (fun x l => [x.a l]) ∧ x.f.c.toNat = 0x04C) x (x.moved s)) ∧
    (∃ o, ∃ s : State, ∃ x : Iss, Ready (.mtsset o) s x ∧ (fun x _ => x.alike (fun x l => [x.a l]) ∧ (x.f.c.toNat = 0x044 ∨ x.f.c.toNat = 0x04C)) x (x.moved s)) ∧
    (∃ o, ∃ s : State, ∃ x : Iss, Ready (.mtsclr o) s x ∧ (fun x _ => x.alike (fun x l => [x.a l]) ∧ (x.f.c.toNat = 0x044 ∨ x.f.c.toNat = 0x04C)) x (x.moved s)) ∧
    (∃ o, ∃ s : State, ∃ x : Iss, Ready (.mts o) s x ∧ x.canTrap (x.moved s) ∧ ¬ (x.f.c.toNat = 0x010 ∨ x.f.c.toNat = 0x011 ∨ x.f.c.toNat = 0x012) ∧ x.differ (fun l => [x.a l]) ≠ []) ∧
    (∃ o, ∃ s : State, ∃ x : Iss, Ready (.mtsset o) s x ∧ x.canTrap (x.moved s) ∧ ¬ (x.f.c.toNat = 0x010 ∨ x.f.c.toNat = 0x011 ∨ x.f.c.toNat = 0x012) ∧ x.differ (fun l => [x.a l]) ≠ []) ∧
    (∃ o, ∃ s : State, ∃ x : Iss, Ready (.mtsclr o) s x ∧ x.canTrap (x.moved s) ∧ ¬ (x.f.c.toNat = 0x010 ∨ x.f.c.toNat = 0x011 ∨ x.f.c.toNat = 0x012) ∧ x.differ (fun l => [x.a l]) ≠ []) ∧
    (∃ s : State, ∃ c : Nat, ∃ w : Nat, ∃ y : Nat, (s.weave c w).team = some y) ∧
    (∃ s : State, ∃ c : Nat, ∃ w : Nat, (s.weave c w).team = none) ∧
    (∃ i : Nat, i < 4) ∧
    (∃ s : State, ∃ c : Nat, ∃ w : Nat, ∃ y : Nat, (s.weave c w).team = some y ∧ (s.findTeam y).isSome = true) ∧
    (∃ s : State, ∃ c : Nat, ∃ w : Nat, (s.weave c w).team = none) :=
  ⟨⟨⟨7, false, 0, 32, 0, 38, 0, false, false, false, 0, 0⟩, ⟨agent, ⟨iss (.mtsclr ⟨7, false, 0, 32, 0, 38, 0, false, false, false, 0, 0⟩) (agent), ⟨(ready_iss (by decide +kernel)), by decide +kernel⟩⟩⟩⟩,
   ⟨⟨7, false, 0, 32, 0, 68, 0, false, false, false, 0, 0⟩, ⟨agent, ⟨iss (.mts ⟨7, false, 0, 32, 0, 68, 0, false, false, false, 0, 0⟩) (agent), ⟨(ready_iss (by decide +kernel)), by decide +kernel⟩⟩⟩⟩,
   ⟨⟨7, false, 0, 32, 0, 76, 0, false, false, false, 0, 0⟩, ⟨agent, ⟨iss (.mts ⟨7, false, 0, 32, 0, 76, 0, false, false, false, 0, 0⟩) (agent), ⟨(ready_iss (by decide +kernel)), by decide +kernel⟩⟩⟩⟩,
   ⟨⟨7, false, 0, 32, 0, 68, 0, false, false, false, 0, 0⟩, ⟨agent, ⟨iss (.mtsset ⟨7, false, 0, 32, 0, 68, 0, false, false, false, 0, 0⟩) (agent), ⟨(ready_iss (by decide +kernel)), by decide +kernel⟩⟩⟩⟩,
   ⟨⟨7, false, 0, 32, 0, 76, 0, false, false, false, 0, 0⟩, ⟨agent, ⟨iss (.mtsclr ⟨7, false, 0, 32, 0, 76, 0, false, false, false, 0, 0⟩) (agent), ⟨(ready_iss (by decide +kernel)), by decide +kernel⟩⟩⟩⟩,
   ⟨⟨7, false, 0, 32, 0, 25, 0, false, false, false, 0, 0⟩, ⟨(reg 32 1) (D2), ⟨iss (.mts ⟨7, false, 0, 32, 0, 25, 0, false, false, false, 0, 0⟩) ((reg 32 1) (D2)), ⟨(ready_iss (by decide +kernel)), by decide +kernel⟩⟩⟩⟩,
   ⟨⟨7, false, 0, 32, 0, 25, 0, false, false, false, 0, 0⟩, ⟨(reg 32 1) (D2), ⟨iss (.mtsset ⟨7, false, 0, 32, 0, 25, 0, false, false, false, 0, 0⟩) ((reg 32 1) (D2)), ⟨(ready_iss (by decide +kernel)), by decide +kernel⟩⟩⟩⟩,
   ⟨⟨7, false, 0, 32, 0, 25, 0, false, false, false, 0, 0⟩, ⟨(reg 32 1) (D2), ⟨iss (.mtsclr ⟨7, false, 0, 32, 0, 25, 0, false, false, false, 0, 0⟩) ((reg 32 1) (D2)), ⟨(ready_iss (by decide +kernel)), by decide +kernel⟩⟩⟩⟩,
   ⟨D, ⟨0, ⟨0, ⟨1, by decide +kernel⟩⟩⟩⟩,
   ⟨{}, ⟨0, ⟨0, by decide +kernel⟩⟩⟩,
   ⟨0, by decide +kernel⟩,
   ⟨D, ⟨0, ⟨0, ⟨1, by decide +kernel⟩⟩⟩⟩,
   ⟨{}, ⟨0, ⟨0, by decide +kernel⟩⟩⟩⟩
theorem test_TrapReturnMasksAndTime_met :
    (∃ o, ∃ s : State, ∃ x : Iss, Ready (.tret o) s x ∧ x.ex ≠ [] ∧ ((x.moved s).weave x.g.core x.g.slot).trH = true ∧ ((x.moved s).weave x.g.core x.g.slot).trSkip = false) ∧
    (∃ o, ∃ s : State, ∃ x : Iss, Ready (.tret o) s x ∧ x.ex ≠ [] ∧ ((x.moved s).weave x.g.core x.g.slot).trH = true ∧ ((x.moved s).weave x.g.core x.g.slot).trSkip = true ∧ ∃ u : State, ∃ v, (x.moved s).fetchOn x.g.core x.g.slot ((x.moved s).weave x.g.core x.g.slot).trPc.toNat (x.ex.findSome? (fun l => x.onWay l ((x.moved s).weave x.g.core x.g.slot).trPc.toNat)) = (u, .word v)) ∧
    (∃ w : Weave, ∃ fr, w.frame = some fr ∧ True) ∧
    (∃ o, ∃ s : State, ∃ x : Iss, Ready (.tret o) s x ∧ (fun x _ => x.ex = []) x (x.moved s)) ∧
    (∃ o, ∃ s : State, ∃ x : Iss, Ready (.tmask o) s x ∧ (fun x _ => x.ex = []) x (x.moved s)) ∧
    (∃ o, ∃ s : State, ∃ x : Iss, Ready (.tunmask o) s x ∧ (fun x _ => x.ex = []) x (x.moved s)) ∧
    (∃ o, ∃ s : State, ∃ x : Iss, Ready (.tabort o) s x ∧ (fun x _ => x.ex = []) x (x.moved s)) ∧
    (∃ o, ∃ s : State, ∃ x : Iss, Ready (.fwidle o) s x ∧ (fun x _ => x.ex = []) x (x.moved s)) ∧
    (∃ o, ∃ s : State, ∃ x : Iss, Ready (.tret o) s x ∧ x.canTrap (x.moved s) ∧ (fun x s => x.ex ≠ [] ∧ (s.weave x.g.core x.g.slot).trH = false) x (x.moved s)) ∧
    (∃ o, ∃ s : State, ∃ x : Iss, Ready (.tmask o) s x ∧ x.canTrap (x.moved s) ∧ (fun x s => x.ex ≠ [] ∧ (s.weave x.g.core x.g.slot).trH = false) x (x.moved s)) ∧
    (∃ o, ∃ s : State, ∃ x : Iss, Ready (.tunmask o) s x ∧ x.canTrap (x.moved s) ∧ (fun x s => x.ex ≠ [] ∧ (s.weave x.g.core x.g.slot).trH = false) x (x.moved s)) ∧
    (∃ o, ∃ s : State, ∃ x : Iss, Ready (.tmask o) s x ∧ (fun x s => x.ex ≠ [] ∧ (s.weave x.g.core x.g.slot).trH = true) x (x.moved s)) ∧
    (∃ o, ∃ s : State, ∃ x : Iss, Ready (.tunmask o) s x ∧ (fun x s => x.ex ≠ [] ∧ (s.weave x.g.core x.g.slot).trH = true) x (x.moved s)) ∧
    (∃ o, ∃ s : State, ∃ x : Iss, Ready (.tabort o) s x ∧ x.ex ≠ [] ∧ ∃ y : Nat, ((x.moved s).weave x.g.core x.g.slot).team = some y ∧ ∃ t : State, t = ((x.moved s).flushLaunch ((x.moved s).team y).launch).endLaunch ((x.moved s).team y).launch 3 (x.a x.low % 256) 0) ∧
    (∃ o, ∃ s : State, ∃ x : Iss, Ready (.ftime o) s x) ∧
    (∃ o, ∃ s : State, ∃ x : Iss, Ready (.rdcyc o) s x) ∧
    (∃ o, ∃ s : State, ∃ x : Iss, Ready (.fwidle o) s x ∧ (fun x s => x.ex ≠ [] ∧ (s.core x.g.core).fwEvents ≠ 0) x (x.moved s)) ∧
    (∃ o, ∃ s : State, ∃ x : Iss, Ready (.fwidle o) s x ∧ (fun x s => x.ex ≠ [] ∧ (s.core x.g.core).fwEvents = 0) x (x.moved s)) ∧
    (∃ o, ∃ s : State, ∃ x : Iss, Ready (.fwsev o) s x ∧ (fun x _ => ∀ l ∈ x.ex, x.a l ≤ 143) x (x.moved s)) ∧
    (∃ o, ∃ s : State, ∃ x : Iss, Ready (.fwsev o) s x ∧ x.canTrap (x.moved s) ∧ (fun x _ => ∃ l ∈ x.ex, 143 < x.a l) x (x.moved s)) :=
  ⟨⟨⟨7, false, 0, 0, 0, 0, 0, false, false, false, 0, 0⟩, ⟨(wv (fun w => { w with trH := true })) (D), ⟨iss (.tret ⟨7, false, 0, 0, 0, 0, 0, false, false, false, 0, 0⟩) ((wv (fun w => { w with trH := true })) (D)), ⟨(ready_iss (by decide +kernel)), by decide +kernel⟩⟩⟩⟩,
   ⟨⟨7, false, 0, 0, 0, 0, 0, false, false, false, 0, 0⟩, ⟨(wv (fun w => { w with trH := true, trSkip := true, trPc := 0x100 })) (D), ⟨iss (.tret ⟨7, false, 0, 0, 0, 0, 0, false, false, false, 0, 0⟩) ((wv (fun w => { w with trH := true, trSkip := true, trPc := 0x100 })) (D)), ⟨(ready_iss (by decide +kernel)), ⟨by decide +kernel, ⟨by decide +kernel, ⟨by decide +kernel, ⟨(((iss (.tret ⟨7, false, 0, 0, 0, 0, 0, false, false, false, 0, 0⟩) ((wv (fun w => { w with trH := true, trSkip := true, trPc := 0x100 })) (D))).moved ((wv (fun w => { w with trH := true, trSkip := true, trPc := 0x100 })) (D))).fetch (iss (.tret ⟨7, false, 0, 0, 0, 0, 0, false, false, false, 0, 0⟩) ((wv (fun w => { w with trH := true, trSkip := true, trPc := 0x100 })) (D))).g.core (iss (.tret ⟨7, false, 0, 0, 0, 0, 0, false, false, false, 0, 0⟩) ((wv (fun w => { w with trH := true, trSkip := true, trPc := 0x100 })) (D))).g.slot (((iss (.tret ⟨7, false, 0, 0, 0, 0, 0, false, false, false, 0, 0⟩) ((wv (fun w => { w with trH := true, trSkip := true, trPc := 0x100 })) (D))).moved ((wv (fun w => { w with trH := true, trSkip := true, trPc := 0x100 })) (D))).weave (iss (.tret ⟨7, false, 0, 0, 0, 0, 0, false, false, false, 0, 0⟩) ((wv (fun w => { w with trH := true, trSkip := true, trPc := 0x100 })) (D))).g.core (iss (.tret ⟨7, false, 0, 0, 0, 0, 0, false, false, false, 0, 0⟩) ((wv (fun w => { w with trH := true, trSkip := true, trPc := 0x100 })) (D))).g.slot).trPc.toNat).1, ⟨0xf802000000000000#64, by decide +kernel⟩⟩⟩⟩⟩⟩⟩⟩⟩,
   ⟨{ frame := some { joins := [], parked := [] } }, ex_some (by decide +kernel) (trivial)⟩,
   ⟨⟨0, false, 0, 0, 0, 0, 0, false, false, false, 0, 0⟩, ⟨D, ⟨iss (.tret ⟨0, false, 0, 0, 0, 0, 0, false, false, false, 0, 0⟩) (D), ⟨(ready_iss (by decide +kernel)), by decide +kernel⟩⟩⟩⟩,
   ⟨⟨0, false, 0, 0, 0, 0, 0, false, false, false, 0, 0⟩, ⟨D, ⟨iss (.tmask ⟨0, false, 0, 0, 0, 0, 0, false, false, false, 0, 0⟩) (D), ⟨(ready_iss (by decide +kernel)), by decide +kernel⟩⟩⟩⟩,
   ⟨⟨0, false, 0, 0, 0, 0, 0, false, false, false, 0, 0⟩, ⟨D, ⟨iss (.tunmask ⟨0, false, 0, 0, 0, 0, 0, false, false, false, 0, 0⟩) (D), ⟨(ready_iss (by decide +kernel)), by decide +kernel⟩⟩⟩⟩,
   ⟨⟨0, false, 0, 32, 0, 0, 0, false, false, false, 0, 0⟩, ⟨D, ⟨iss (.tabort ⟨0, false, 0, 32, 0, 0, 0, false, false, false, 0, 0⟩) (D), ⟨(ready_iss (by decide +kernel)), by decide +kernel⟩⟩⟩⟩,
   ⟨⟨0, false, 16, 0, 0, 0, 0, false, false, false, 0, 0⟩, ⟨agent, ⟨iss (.fwidle ⟨0, false, 16, 0, 0, 0, 0, false, false, false, 0, 0⟩) (agent), ⟨(ready_iss (by decide +kernel)), by decide +kernel⟩⟩⟩⟩,
   ⟨⟨7, false, 0, 0, 0, 0, 0, false, false, false, 0, 0⟩, ⟨D, ⟨iss (.tret ⟨7, false, 0, 0, 0, 0, 0, false, false, false, 0, 0⟩) (D), ⟨(ready_iss (by decide +kernel)), by decide +kernel⟩⟩⟩⟩,
   ⟨⟨7, false, 0, 0, 0, 0, 0, false, false, false, 0, 0⟩, ⟨D, ⟨iss (.tmask ⟨7, false, 0, 0, 0, 0, 0, false, false, false, 0, 0⟩) (D), ⟨(ready_iss (by decide +kernel)), by decide +kernel⟩⟩⟩⟩,
   ⟨⟨7, false, 0, 0, 0, 0, 0, false, false, false, 0, 0⟩, ⟨D, ⟨iss (.tunmask ⟨7, false, 0, 0, 0, 0, 0, false, false, false, 0, 0⟩) (D), ⟨(ready_iss (by decide +kernel)), by decide +kernel⟩⟩⟩⟩,
   ⟨⟨7, false, 0, 0, 0, 0, 0, false, false, false, 0, 0⟩, ⟨(wv (fun w => { w with trH := true })) (D), ⟨iss (.tmask ⟨7, false, 0, 0, 0, 0, 0, false, false, false, 0, 0⟩) ((wv (fun w => { w with trH := true })) (D)), ⟨(ready_iss (by decide +kernel)), by decide +kernel⟩⟩⟩⟩,
   ⟨⟨7, false, 0, 0, 0, 0, 0, false, false, false, 0, 0⟩, ⟨(wv (fun w => { w with trH := true })) (D), ⟨iss (.tunmask ⟨7, false, 0, 0, 0, 0, 0, false, false, false, 0, 0⟩) ((wv (fun w => { w with trH := true })) (D)), ⟨(ready_iss (by decide +kernel)), by decide +kernel⟩⟩⟩⟩,
   ⟨⟨7, false, 0, 32, 0, 0, 0, false, false, false, 0, 0⟩, ⟨D, ⟨iss (.tabort ⟨7, false, 0, 32, 0, 0, 0, false, false, false, 0, 0⟩) (D), ⟨(ready_iss (by decide +kernel)), ⟨by decide +kernel, ⟨1, ⟨by decide +kernel, ⟨((((iss (.tabort ⟨7, false, 0, 32, 0, 0, 0, false, false, false, 0, 0⟩) (D)).moved (D)).flushLaunch (((iss (.tabort ⟨7, false, 0, 32, 0, 0, 0, false, false, false, 0, 0⟩) (D)).moved (D)).team 1).launch).endLaunch (((iss (.tabort ⟨7, false, 0, 32, 0, 0, 0, false, false, false, 0, 0⟩) (D)).moved (D)).team 1).launch 3 ((iss (.tabort ⟨7, false, 0, 32, 0, 0, 0, false, false, false, 0, 0⟩) (D)).a (iss (.tabort ⟨7, false, 0, 32, 0, 0, 0, false, false, false, 0, 0⟩) (D)).low % 256) 0), rfl⟩⟩⟩⟩⟩⟩⟩⟩,
   ⟨⟨7, false, 16, 0, 0, 0, 0, false, false, false, 0, 0⟩, ⟨D, ⟨iss (.ftime ⟨7, false, 16, 0, 0, 0, 0, false, false, false, 0, 0⟩) (D), ready_iss (by decide +kernel)⟩⟩⟩,
   ⟨⟨7, false, 16, 0, 0, 0, 0, false, false, false, 0, 0⟩, ⟨D, ⟨iss (.rdcyc ⟨7, false, 16, 0, 0, 0, 0, false, false, false, 0, 0⟩) (D), ready_iss (by decide +kernel)⟩⟩⟩,
   ⟨⟨7, false, 16, 0, 0, 0, 0, false, false, false, 0, 0⟩, ⟨(cr (fun k => { k with fwEvents := 1 })) (agent), ⟨iss (.fwidle ⟨7, false, 16, 0, 0, 0, 0, false, false, false, 0, 0⟩) ((cr (fun k => { k with fwEvents := 1 })) (agent)), ⟨(ready_iss (by decide +kernel)), by decide +kernel⟩⟩⟩⟩,
   ⟨⟨7, false, 16, 0, 0, 0, 0, false, false, false, 0, 0⟩, ⟨agent, ⟨iss (.fwidle ⟨7, false, 16, 0, 0, 0, 0, false, false, false, 0, 0⟩) (agent), ⟨(ready_iss (by decide +kernel)), by decide +kernel⟩⟩⟩⟩,
   ⟨⟨7, false, 0, 32, 0, 0, 0, false, false, false, 0, 0⟩, ⟨agent, ⟨iss (.fwsev ⟨7, false, 0, 32, 0, 0, 0, false, false, false, 0, 0⟩) (agent), ⟨(ready_iss (by decide +kernel)), by decide +kernel⟩⟩⟩⟩,
   ⟨⟨7, false, 0, 32, 0, 0, 0, false, false, false, 0, 0⟩, ⟨(reg 32 144) (agent), ⟨iss (.fwsev ⟨7, false, 0, 32, 0, 0, 0, false, false, false, 0, 0⟩) ((reg 32 144) (agent)), ⟨(ready_iss (by decide +kernel)), by decide +kernel⟩⟩⟩⟩⟩
theorem test_TicketsAndPackets_met :
    (∃ o, ∃ s : State, ∃ x : Iss, Ready (.tmplace o) s x ∧ x.canTrap (x.moved s) ∧ (fun x s => x.alike (fun x l => [x.a l]) ∧ ¬ x.accepted s [1]) x (x.moved s)) ∧
    (∃ o, ∃ s : State, ∃ x : Iss, Ready (.tmsave o) s x ∧ x.canTrap (x.moved s) ∧ (fun x s => x.alike (fun x l => [x.a l]) ∧ ¬ x.accepted s [2]) x (x.moved s)) ∧
    (∃ o, ∃ s : State, ∃ x : Iss, Ready (.tmrest o) s x ∧ x.canTrap (x.moved s) ∧ (fun x s => x.alike (fun x l => [x.a l]) ∧ ¬ x.accepted s [3]) x (x.moved s)) ∧
    (∃ o, ∃ s : State, ∃ x : Iss, Ready (.tmflush o) s x ∧ x.canTrap (x.moved s) ∧ (fun x s => x.alike (fun x l => [x.a l]) ∧ ¬ x.accepted s [2, 3]) x (x.moved s)) ∧
    (∃ o, ∃ s : State, ∃ x : Iss, Ready (.tmkill o) s x ∧ x.canTrap (x.moved s) ∧ (fun x s => x.alike (fun x l => [x.a l]) ∧ ¬ x.accepted s [2, 3]) x (x.moved s)) ∧
    (∃ o, ∃ s : State, ∃ x : Iss, Ready (.tkdone o) s x ∧ x.canTrap (x.moved s) ∧ (fun x s => x.alike (fun x l => [x.a l]) ∧ ¬ x.accepted s [2]) x (x.moved s)) ∧
    (∃ o, ∃ s : State, ∃ x : Iss, Ready (.tmplace o) s x ∧ (fun x s => x.alike (fun x l => [x.a l]) ∧ x.accepted s [1] ∧ s.ticketTeam (x.a x.low) = none) x (x.moved s)) ∧
    (∃ o, ∃ s : State, ∃ x : Iss, Ready (.tmsave o) s x ∧ (fun x s => x.alike (fun x l => [x.a l]) ∧ x.accepted s [2] ∧ s.ticketTeam (x.a x.low) = none) x (x.moved s)) ∧
    (∃ o, ∃ s : State, ∃ x : Iss, Ready (.tmrest o) s x ∧ (fun x s => x.alike (fun x l => [x.a l]) ∧ x.accepted s [3] ∧ s.ticketTeam (x.a x.low) = none) x (x.moved s)) ∧
    (∃ o, ∃ s : State, ∃ x : Iss, Ready (.tmflush o) s x ∧ (fun x s => x.alike (fun x l => [x.a l]) ∧ x.accepted s [2, 3] ∧ s.ticketTeam (x.a x.low) = none) x (x.moved s)) ∧
    (∃ o, ∃ s : State, ∃ x : Iss, Ready (.tmkill o) s x ∧ (fun x s => x.alike (fun x l => [x.a l]) ∧ x.accepted s [2, 3] ∧ s.ticketTeam (x.a x.low) = none) x (x.moved s)) ∧
    (∃ o, ∃ s : State, ∃ x : Iss, Ready (.tkdone o) s x ∧ (fun x s => x.alike (fun x l => [x.a l]) ∧ x.accepted s [2] ∧ s.ticketTeam (x.a x.low) = none) x (x.moved s)) ∧
    (∃ st : Nat, st < 16 ∧ ∃ s : State, ∃ a : Nat, s.ticketPlain a) ∧
    (∃ o, ∃ s : State, ∃ x : Iss, Ready (.tmplace o) s x ∧ ∃ g : Gang, ∃ i : Nat, ∃ e : GangTeam, (fun x s => x.alike (fun x l => [x.a l]) ∧ x.accepted s [1] ∧ s.ticketTeam (x.a x.low) = some (g, i, e) ∧ e.reserved = true ∧ e.core = x.g.core ∧ s.findTeam e.team = none ∧ (s.placeGangTeam g i e).2 = true ∧ s.heldWrites x.g.core ((s.placeGangTeam g i e).1.unclaim x.g.core (x.a x.low)) = []) x (x.moved s)) ∧
    (∃ o, ∃ s : State, ∃ x : Iss, Ready (.tmplace o) s x ∧ let m := x.moved s; ∃ g : Gang, ∃ i : Nat, ∃ e : GangTeam, (x.alike (fun x l => [x.a l]) ∧ x.accepted m [1] ∧ m.ticketTeam (x.a x.low) = some (g, i, e) ∧ e.reserved = true ∧ e.core = x.g.core ∧ m.findTeam e.team = none ∧ (m.placeGangTeam g i e).2 = true) ∧ m.heldWrites x.g.core ((m.placeGangTeam g i e).1.unclaim x.g.core (x.a x.low)) ≠ []) ∧
    (∃ o, ∃ s : State, ∃ x : Iss, Ready (.tmplace o) s x ∧ let m := x.moved s; ∃ g : Gang, ∃ i : Nat, ∃ e : GangTeam, x.alike (fun x l => [x.a l]) ∧ x.accepted m [1] ∧ m.ticketTeam (x.a x.low) = some (g, i, e) ∧ e.reserved = true ∧ e.core = x.g.core ∧ m.findTeam e.team = none ∧ (m.placeGangTeam g i e).2 = false) ∧
    (∃ o, ∃ s : State, ∃ x : Iss, Ready (.tmplace o) s x ∧ ∃ g : Gang, ∃ i : Nat, ∃ e : GangTeam, (fun x s => x.alike (fun x l => [x.a l]) ∧ x.accepted s [1] ∧ s.ticketTeam (x.a x.low) = some (g, i, e) ∧ (e.reserved = false ∨ e.core ≠ x.g.core ∨ (s.findTeam e.team).isSome = true)) x (x.moved s)) :=
  ⟨⟨⟨7, false, 0, 32, 0, 0, 0, false, false, false, 0, 0⟩, ⟨agent, ⟨iss (.tmplace ⟨7, false, 0, 32, 0, 0, 0, false, false, false, 0, 0⟩) (agent), ⟨(ready_iss (by decide +kernel)), by decide +kernel⟩⟩⟩⟩,
   ⟨⟨7, false, 0, 32, 0, 0, 0, false, false, false, 0, 0⟩, ⟨agent, ⟨iss (.tmsave ⟨7, false, 0, 32, 0, 0, 0, false, false, false, 0, 0⟩) (agent), ⟨(ready_iss (by decide +kernel)), by decide +kernel⟩⟩⟩⟩,
   ⟨⟨7, false, 0, 32, 0, 0, 0, false, false, false, 0, 0⟩, ⟨agent, ⟨iss (.tmrest ⟨7, false, 0, 32, 0, 0, 0, false, false, false, 0, 0⟩) (agent), ⟨(ready_iss (by decide +kernel)), by decide +kernel⟩⟩⟩⟩,
   ⟨⟨7, false, 0, 32, 0, 0, 0, false, false, false, 0, 0⟩, ⟨agent, ⟨iss (.tmflush ⟨7, false, 0, 32, 0, 0, 0, false, false, false, 0, 0⟩) (agent), ⟨(ready_iss (by decide +kernel)), by decide +kernel⟩⟩⟩⟩,
   ⟨⟨7, false, 0, 32, 0, 0, 0, false, false, false, 0, 0⟩, ⟨agent, ⟨iss (.tmkill ⟨7, false, 0, 32, 0, 0, 0, false, false, false, 0, 0⟩) (agent), ⟨(ready_iss (by decide +kernel)), by decide +kernel⟩⟩⟩⟩,
   ⟨⟨7, false, 0, 32, 0, 0, 0, false, false, false, 0, 0⟩, ⟨agent, ⟨iss (.tkdone ⟨7, false, 0, 32, 0, 0, 0, false, false, false, 0, 0⟩) (agent), ⟨(ready_iss (by decide +kernel)), by decide +kernel⟩⟩⟩⟩,
   ⟨⟨7, false, 0, 32, 0, 0, 0, false, false, false, 0, 0⟩, ⟨((fun s : State => s.poke 0x100050 8 1)) ((reg 32 0x100040) (agent)), ⟨iss (.tmplace ⟨7, false, 0, 32, 0, 0, 0, false, false, false, 0, 0⟩) (((fun s : State => s.poke 0x100050 8 1)) ((reg 32 0x100040) (agent))), ⟨(ready_iss (by decide +kernel)), by decide +kernel⟩⟩⟩⟩,
   ⟨⟨7, false, 0, 32, 0, 0, 0, false, false, false, 0, 0⟩, ⟨((fun s : State => s.poke 0x100050 8 2)) ((reg 32 0x100040) (agent)), ⟨iss (.tmsave ⟨7, false, 0, 32, 0, 0, 0, false, false, false, 0, 0⟩) (((fun s : State => s.poke 0x100050 8 2)) ((reg 32 0x100040) (agent))), ⟨(ready_iss (by decide +kernel)), by decide +kernel⟩⟩⟩⟩,
   ⟨⟨7, false, 0, 32, 0, 0, 0, false, false, false, 0, 0⟩, ⟨((fun s : State => s.poke 0x100050 8 3)) ((reg 32 0x100040) (agent)), ⟨iss (.tmrest ⟨7, false, 0, 32, 0, 0, 0, false, false, false, 0, 0⟩) (((fun s : State => s.poke 0x100050 8 3)) ((reg 32 0x100040) (agent))), ⟨(ready_iss (by decide +kernel)), by decide +kernel⟩⟩⟩⟩,
   ⟨⟨7, false, 0, 32, 0, 0, 0, false, false, false, 0, 0⟩, ⟨((fun s : State => s.poke 0x100050 8 2)) ((reg 32 0x100040) (agent)), ⟨iss (.tmflush ⟨7, false, 0, 32, 0, 0, 0, false, false, false, 0, 0⟩) (((fun s : State => s.poke 0x100050 8 2)) ((reg 32 0x100040) (agent))), ⟨(ready_iss (by decide +kernel)), by decide +kernel⟩⟩⟩⟩,
   ⟨⟨7, false, 0, 32, 0, 0, 0, false, false, false, 0, 0⟩, ⟨((fun s : State => s.poke 0x100050 8 2)) ((reg 32 0x100040) (agent)), ⟨iss (.tmkill ⟨7, false, 0, 32, 0, 0, 0, false, false, false, 0, 0⟩) (((fun s : State => s.poke 0x100050 8 2)) ((reg 32 0x100040) (agent))), ⟨(ready_iss (by decide +kernel)), by decide +kernel⟩⟩⟩⟩,
   ⟨⟨7, false, 0, 32, 0, 0, 0, false, false, false, 0, 0⟩, ⟨((fun s : State => s.poke 0x100050 8 2)) ((reg 32 0x100040) (agent)), ⟨iss (.tkdone ⟨7, false, 0, 32, 0, 0, 0, false, false, false, 0, 0⟩) (((fun s : State => s.poke 0x100050 8 2)) ((reg 32 0x100040) (agent))), ⟨(ready_iss (by decide +kernel)), by decide +kernel⟩⟩⟩⟩,
   ⟨0, ⟨by decide +kernel, ⟨{}, ⟨0, by decide +kernel⟩⟩⟩⟩,
   ⟨⟨7, false, 0, 32, 0, 0, 0, false, false, false, 0, 0⟩, ⟨(tick 1 { core := 0, ticket := 0x100040, team := 1 }) ((reg 32 0x100040) (agent)), ⟨iss (.tmplace ⟨7, false, 0, 32, 0, 0, 0, false, false, false, 0, 0⟩) ((tick 1 { core := 0, ticket := 0x100040, team := 1 }) ((reg 32 0x100040) (agent))), ⟨(ready_iss (by decide +kernel)), ⟨gangOf ({ core := 0, ticket := 0x100040, team := 1 }), ⟨0, ⟨{ core := 0, ticket := 0x100040, team := 1 }, by decide +kernel⟩⟩⟩⟩⟩⟩⟩,
   ⟨⟨7, false, 0, 32, 0, 0, 0, false, false, false, 0, 0⟩, ⟨((fun s : State => { s with holds := [{ line := 0x2000, core := 1, expiry := 1000 }] })) ((tick 1 { core := 0, ticket := 0x100040, team := 1 }) ((reg 32 0x100040) (agent))), ⟨iss (.tmplace ⟨7, false, 0, 32, 0, 0, 0, false, false, false, 0, 0⟩) (((fun s : State => { s with holds := [{ line := 0x2000, core := 1, expiry := 1000 }] })) ((tick 1 { core := 0, ticket := 0x100040, team := 1 }) ((reg 32 0x100040) (agent)))), ⟨(ready_iss (by decide +kernel)), ⟨gangOf ({ core := 0, ticket := 0x100040, team := 1 }), ⟨0, ⟨{ core := 0, ticket := 0x100040, team := 1 }, by decide +kernel⟩⟩⟩⟩⟩⟩⟩,
   ⟨⟨7, false, 0, 32, 0, 0, 0, false, false, false, 0, 0⟩, ⟨((fun s : State => { s with snoops := [{ line := 0x2000, holder := 1, modified := true }] })) (((fun s : State => { s with launches := s.launches.map (fun l => { l with preload := [{ reg := 5, wide := false, perThread := true, val := 0x80000 }] }) })) ((tick 1 { core := 0, ticket := 0x100040, team := 1 }) ((reg 32 0x100040) (agent)))), ⟨iss (.tmplace ⟨7, false, 0, 32, 0, 0, 0, false, false, false, 0, 0⟩) (((fun s : State => { s with snoops := [{ line := 0x2000, holder := 1, modified := true }] })) (((fun s : State => { s with launches := s.launches.map (fun l => { l with preload := [{ reg := 5, wide := false, perThread := true, val := 0x80000 }] }) })) ((tick 1 { core := 0, ticket := 0x100040, team := 1 }) ((reg 32 0x100040) (agent))))), ⟨(ready_iss (by decide +kernel)), ⟨gangOf ({ core := 0, ticket := 0x100040, team := 1 }), ⟨0, ⟨{ core := 0, ticket := 0x100040, team := 1 }, by decide +kernel⟩⟩⟩⟩⟩⟩⟩,
   ⟨⟨7, false, 0, 32, 0, 0, 0, false, false, false, 0, 0⟩, ⟨(tick 1 { core := 0, ticket := 0x100040, team := 1, reserved := false }) ((reg 32 0x100040) (agent)), ⟨iss (.tmplace ⟨7, false, 0, 32, 0, 0, 0, false, false, false, 0, 0⟩) ((tick 1 { core := 0, ticket := 0x100040, team := 1, reserved := false }) ((reg 32 0x100040) (agent))), ⟨(ready_iss (by decide +kernel)), ⟨gangOf ({ core := 0, ticket := 0x100040, team := 1, reserved := false }), ⟨0, ⟨{ core := 0, ticket := 0x100040, team := 1, reserved := false }, by decide +kernel⟩⟩⟩⟩⟩⟩⟩⟩
theorem test_TicketsAndPackets_met2 :
    (∃ s : State, ∃ g : Gang, ∃ l : Launch, s.findLaunch g.launch = some l ∧ ∃ i : Nat, ∃ e : GangTeam, ∃ u ms, s.preloadAll l.ctx ((g.index * l.kd.teams + i) * 1024) e.asked l.preload (32 * l.kd.weaves) = (u, .ok ms) ∧ u.findTeam e.team = none ∧ l.kd.weaves ≤ (u.core e.core).freeSlots.length) ∧
    (∃ s : State, ∃ ctx : Nat, ∃ base : Nat, ∃ n : Nat, ∃ asked : Option (Nat × Nat), ∃ p : Preload, ∃ m : Tab RegCell, ∃ u r, s.preloadThread ctx base n asked [p] m = (u, .ok r) ∧ True) ∧
    (∃ o, ∃ s : State, ∃ x : Iss, Ready (.tmsave o) s x ∧ ∃ g : Gang, ∃ i : Nat, ∃ e : GangTeam, ∃ c : Nat, ∃ y : Team, (fun x s => x.alike (fun x l => [x.a l]) ∧ x.accepted s [2] ∧ s.ticketTeam (x.a x.low) = some (g, i, e) ∧ s.findTeam e.team = some (c, y) ∧ y.slots ≠ [] ∧ s.masked c y = false ∧ y.pre.action ≠ 4 ∧ y.pre.stopping = true ∧ (s.carrySave c y).findTeam e.team = none ∧ s.heldWrites x.g.core (s.carrySave c y) = []) x (x.moved s)) ∧
    (∃ o, ∃ s : State, ∃ x : Iss, Ready (.tmsave o) s x ∧ let m := x.moved s; ∃ g : Gang, ∃ i : Nat, ∃ e : GangTeam, ∃ c : Nat, ∃ y : Team, x.alike (fun x l => [x.a l]) ∧ x.accepted m [2] ∧ m.ticketTeam (x.a x.low) = some (g, i, e) ∧ m.findTeam e.team = some (c, y) ∧ y.slots ≠ [] ∧ m.masked c y = false ∧ y.pre.action ≠ 4 ∧ y.pre.stopping = true ∧ (m.carrySave c y).findTeam e.team = none) ∧
    (∃ o, ∃ s : State, ∃ x : Iss, Ready (.tmsave o) s x ∧ let m := x.moved s; ∃ g : Gang, ∃ i : Nat, ∃ e : GangTeam, ∃ c : Nat, ∃ y : Team, x.alike (fun x l => [x.a l]) ∧ x.accepted m [2] ∧ m.ticketTeam (x.a x.low) = some (g, i, e) ∧ m.findTeam e.team = some (c, y) ∧ y.slots ≠ [] ∧ m.masked c y = false ∧ y.pre.action ≠ 4 ∧ y.pre.stopping = true ∧ ((m.carrySave c y).findTeam e.team).isSome = true) ∧
    (∃ o, ∃ s : State, ∃ x : Iss, Ready (.tmsave o) s x ∧ ∃ g : Gang, ∃ i : Nat, ∃ e : GangTeam, ∃ c : Nat, ∃ y : Team, (fun x s => x.alike (fun x l => [x.a l]) ∧ x.accepted s [2] ∧ s.ticketTeam (x.a x.low) = some (g, i, e) ∧ s.findTeam e.team = some (c, y) ∧ y.slots ≠ [] ∧ (s.masked c y = true ∨ y.pre.action = 4)) x (x.moved s)) ∧
    (∃ o, ∃ s : State, ∃ x : Iss, Ready (.tmsave o) s x ∧ ∃ g : Gang, ∃ i : Nat, ∃ e : GangTeam, (fun x s => x.alike (fun x l => [x.a l]) ∧ x.accepted s [2] ∧ s.ticketTeam (x.a x.low) = some (g, i, e) ∧ (s.findTeam e.team = none ∨ ∃ c y, s.findTeam e.team = some (c, y) ∧ y.slots = [])) x (x.moved s)) ∧
    (∃ s : State, ∃ c : Nat, ∃ y : Team, (s.rollTeam c y).quiet c y = true ∧ (s.rollTeam c y).backsHeld c y = false) ∧
    (∃ s : State, ∃ n : Nat, ∃ c : Nat, ∃ y : Team, s.findTeam n = some (c, y)) ∧
    (∃ y : Team, ∃ k : Nat, y.slots = [k] ∧ ∃ s : State, ∃ c : Nat, ∃ w : Nat, (s.weave c k).index = w) ∧
    (∃ o, ∃ s : State, ∃ x : Iss, Ready (.tmrest o) s x ∧ ∃ g : Gang, ∃ i : Nat, ∃ e : GangTeam, ∃ v : SavedTeam, (fun x s => x.alike (fun x l => [x.a l]) ∧ x.accepted s [3] ∧ s.ticketTeam (x.a x.low) = some (g, i, e) ∧ s.saved.find? (fun v => v.team.id = e.team) = some v ∧ e.reserved = true ∧ e.core = x.g.core ∧ s.roomFor e.core v = true ∧ s.areaHolds v = true ∧ (s.restoreTeam e.core v).granted e.team = true ∧ s.heldWrites x.g.core (((s.restoreTeam e.core v).resumeTeam e.team (x.a x.low) g.started).unclaim x.g.core (x.a x.low)) = []) x (x.moved s)) ∧
    (∃ o, ∃ s : State, ∃ x : Iss, Ready (.tmrest o) s x ∧ let m := x.moved s; ∃ g : Gang, ∃ i : Nat, ∃ e : GangTeam, ∃ v : SavedTeam, x.alike (fun x l => [x.a l]) ∧ x.accepted m [3] ∧ m.ticketTeam (x.a x.low) = some (g, i, e) ∧ m.saved.find? (fun v => v.team.id = e.team) = some v ∧ e.reserved = true ∧ e.core = x.g.core ∧ m.roomFor e.core v = true ∧ m.areaHolds v = true ∧ (m.restoreTeam e.core v).granted e.team = true) ∧
    (∃ o, ∃ s : State, ∃ x : Iss, Ready (.tmrest o) s x ∧ let m := x.moved s; ∃ g : Gang, ∃ i : Nat, ∃ e : GangTeam, ∃ v : SavedTeam, x.alike (fun x l => [x.a l]) ∧ x.accepted m [3] ∧ m.ticketTeam (x.a x.low) = some (g, i, e) ∧ m.saved.find? (fun v => v.team.id = e.team) = some v ∧ e.reserved = true ∧ e.core = x.g.core ∧ m.roomFor e.core v = true ∧ m.areaHolds v = true ∧ (m.restoreTeam e.core v).granted e.team = false) ∧
    (∃ o, ∃ s : State, ∃ x : Iss, Ready (.tmrest o) s x ∧ ∃ g : Gang, ∃ i : Nat, ∃ e : GangTeam, ∃ v : SavedTeam, (fun x s => x.alike (fun x l => [x.a l]) ∧ x.accepted s [3] ∧ s.ticketTeam (x.a x.low) = some (g, i, e) ∧ s.saved.find? (fun v => v.team.id = e.team) = some v ∧ e.reserved = true ∧ e.core = x.g.core ∧ s.roomFor e.core v = true ∧ s.areaHolds v = false ∧ s.heldWrites x.g.core (s.contextKill v.team.ctx 5 0) = []) x (x.moved s)) ∧
    (∃ o, ∃ s : State, ∃ x : Iss, Ready (.tmrest o) s x ∧ let m := x.moved s; ∃ g : Gang, ∃ i : Nat, ∃ e : GangTeam, ∃ v : SavedTeam, (x.alike (fun x l => [x.a l]) ∧ x.accepted m [3] ∧ m.ticketTeam (x.a x.low) = some (g, i, e) ∧ m.saved.find? (fun v => v.team.id = e.team) = some v ∧ e.reserved = true ∧ e.core = x.g.core ∧ m.roomFor e.core v = true ∧ m.areaHolds v = false) ∧ m.heldWrites x.g.core (m.contextKill v.team.ctx 5 0) ≠ []) ∧
    (∃ o, ∃ s : State, ∃ x : Iss, Ready (.tmrest o) s x ∧ ∃ g : Gang, ∃ i : Nat, ∃ e : GangTeam, (fun x s => x.alike (fun x l => [x.a l]) ∧ x.accepted s [3] ∧ s.ticketTeam (x.a x.low) = some (g, i, e) ∧ s.saved.find? (fun v => v.team.id = e.team) = none ∧ (s.findTeam e.team).isSome = true ∧ s.granted e.team = true ∧ s.heldWrites x.g.core ((s.resumeTeam e.team (x.a x.low) g.started).unclaim x.g.core (x.a x.low)) = []) x (x.moved s)) ∧
    (∃ o, ∃ s : State, ∃ x : Iss, Ready (.tmrest o) s x ∧ let m := x.moved s; ∃ g : Gang, ∃ i : Nat, ∃ e : GangTeam, (x.alike (fun x l => [x.a l]) ∧ x.accepted m [3] ∧ m.ticketTeam (x.a x.low) = some (g, i, e) ∧ m.saved.find? (fun v => v.team.id = e.team) = none ∧ (m.findTeam e.team).isSome = true ∧ m.granted e.team = true) ∧ m.heldWrites x.g.core ((m.resumeTeam e.team (x.a x.low) g.started).unclaim x.g.core (x.a x.low)) ≠ []) :=
  ⟨⟨(tick 1 { core := 0, ticket := 0x100040, team := 1 }) (agent), ⟨gangOf ({ core := 0, ticket := 0x100040, team := 1 }), ⟨{ id := 2, queue := 0, ring := 0, ctx := 0, words := [], kd := {}, preload := [], bufs := [] }, ⟨by decide +kernel, ⟨0, ⟨{ core := 0, ticket := 0x100040, team := 1 }, ex_pairok (by decide +kernel) (by decide +kernel)⟩⟩⟩⟩⟩⟩,
   ⟨D, ⟨1, ⟨0, ⟨0, ⟨none, ⟨{ reg := 5, wide := false, perThread := true, val := 0x80000 }, ⟨[], ex_pairok (by decide +kernel) (trivial)⟩⟩⟩⟩⟩⟩⟩,
   ⟨⟨7, false, 0, 32, 0, 0, 0, false, false, false, 0, 0⟩, ⟨(cr (fun k => { k with teams := [(1, { id := 1, slots := [0], pre := { stopping := true } })] })) ((tick 2 { core := 0, ticket := 0x100040, team := 1 }) ((reg 32 0x100040) (agent))), ⟨iss (.tmsave ⟨7, false, 0, 32, 0, 0, 0, false, false, false, 0, 0⟩) ((cr (fun k => { k with teams := [(1, { id := 1, slots := [0], pre := { stopping := true } })] })) ((tick 2 { core := 0, ticket := 0x100040, team := 1 }) ((reg 32 0x100040) (agent)))), ⟨(ready_iss (by decide +kernel)), ⟨gangOf ({ core := 0, ticket := 0x100040, team := 1 }), ⟨0, ⟨{ core := 0, ticket := 0x100040, team := 1 }, ⟨0, ⟨{ id := 1, slots := [0], pre := { stopping := true } }, ⟨by decide +kernel, by decide +kernel, by decide +kernel, by decide +kernel, by decide +kernel, by decide +kernel, by decide +kernel, by decide +kernel, gone_carry (by decide +kernel) (by decide +kernel) (by decide +kernel), by decide +kernel⟩⟩⟩⟩⟩⟩⟩⟩⟩⟩,
   ⟨⟨7, false, 0, 32, 0, 0, 0, false, false, false, 0, 0⟩, ⟨(cr (fun k => { k with teams := [(1, { id := 1, slots := [0], pre := { stopping := true } })] })) ((tick 2 { core := 0, ticket := 0x100040, team := 1 }) ((reg 32 0x100040) (agent))), ⟨iss (.tmsave ⟨7, false, 0, 32, 0, 0, 0, false, false, false, 0, 0⟩) ((cr (fun k => { k with teams := [(1, { id := 1, slots := [0], pre := { stopping := true } })] })) ((tick 2 { core := 0, ticket := 0x100040, team := 1 }) ((reg 32 0x100040) (agent)))), ⟨(ready_iss (by decide +kernel)), ⟨gangOf ({ core := 0, ticket := 0x100040, team := 1 }), ⟨0, ⟨{ core := 0, ticket := 0x100040, team := 1 }, ⟨0, ⟨{ id := 1, slots := [0], pre := { stopping := true } }, ⟨by decide +kernel, by decide +kernel, by decide +kernel, by decide +kernel, by decide +kernel, by decide +kernel, by decide +kernel, by decide +kernel, gone_carry (by decide +kernel) (by decide +kernel) (by decide +kernel)⟩⟩⟩⟩⟩⟩⟩⟩⟩⟩,
   ⟨⟨7, false, 0, 32, 0, 0, 0, false, false, false, 0, 0⟩, ⟨(cr (fun k => { k with pending := [{ slot := 0, team := some 1, bytes := [⟨.mem 0x100000, 1, 0⟩] }] })) ((cr (fun k => { k with teams := [(1, { id := 1, slots := [0], pre := { stopping := true } })] })) ((tick 2 { core := 0, ticket := 0x100040, team := 1 }) ((reg 32 0x100040) (agent)))), ⟨iss (.tmsave ⟨7, false, 0, 32, 0, 0, 0, false, false, false, 0, 0⟩) ((cr (fun k => { k with pending := [{ slot := 0, team := some 1, bytes := [⟨.mem 0x100000, 1, 0⟩] }] })) ((cr (fun k => { k with teams := [(1, { id := 1, slots := [0], pre := { stopping := true } })] })) ((tick 2 { core := 0, ticket := 0x100040, team := 1 }) ((reg 32 0x100040) (agent))))), ⟨(ready_iss (by decide +kernel)), ⟨gangOf ({ core := 0, ticket := 0x100040, team := 1 }), ⟨0, ⟨{ core := 0, ticket := 0x100040, team := 1 }, ⟨0, ⟨{ id := 1, slots := [0], pre := { stopping := true } }, by decide +kernel⟩⟩⟩⟩⟩⟩⟩⟩⟩,
   ⟨⟨7, false, 0, 32, 0, 0, 0, false, false, false, 0, 0⟩, ⟨(cr (fun k => { k with weaves := k.weaves ++ [(0, { team := some 1, trH := true, trM := true })] })) ((cr (fun k => { k with teams := [(1, { id := 1, slots := [0] })] })) ((tick 2 { core := 0, ticket := 0x100040, team := 1 }) ((reg 32 0x100040) (agent)))), ⟨iss (.tmsave ⟨7, false, 0, 32, 0, 0, 0, false, false, false, 0, 0⟩) ((cr (fun k => { k with weaves := k.weaves ++ [(0, { team := some 1, trH := true, trM := true })] })) ((cr (fun k => { k with teams := [(1, { id := 1, slots := [0] })] })) ((tick 2 { core := 0, ticket := 0x100040, team := 1 }) ((reg 32 0x100040) (agent))))), ⟨(ready_iss (by decide +kernel)), ⟨gangOf ({ core := 0, ticket := 0x100040, team := 1 }), ⟨0, ⟨{ core := 0, ticket := 0x100040, team := 1 }, ⟨0, ⟨{ id := 1, slots := [0] }, by decide +kernel⟩⟩⟩⟩⟩⟩⟩⟩⟩,
   ⟨⟨7, false, 0, 32, 0, 0, 0, false, false, false, 0, 0⟩, ⟨(tick 2 { core := 0, ticket := 0x100040, team := 1 }) ((reg 32 0x100040) (agent)), ⟨iss (.tmsave ⟨7, false, 0, 32, 0, 0, 0, false, false, false, 0, 0⟩) ((tick 2 { core := 0, ticket := 0x100040, team := 1 }) ((reg 32 0x100040) (agent))), ⟨(ready_iss (by decide +kernel)), ⟨gangOf ({ core := 0, ticket := 0x100040, team := 1 }), ⟨0, ⟨{ core := 0, ticket := 0x100040, team := 1 }, ⟨by decide +kernel, by decide +kernel, by decide +kernel, .inl (by decide +kernel)⟩⟩⟩⟩⟩⟩⟩⟩,
   ⟨D, ⟨0, ⟨(D.team 1), by decide +kernel⟩⟩⟩,
   ⟨D, ⟨1, ⟨0, ⟨(D.team 1), by decide +kernel⟩⟩⟩⟩,
   ⟨{ slots := [0] }, ⟨0, ⟨by decide +kernel, ⟨D, ⟨0, ⟨0, by decide +kernel⟩⟩⟩⟩⟩⟩,
   ⟨⟨7, false, 0, 32, 0, 0, 0, false, false, false, 0, 0⟩, ⟨kept { id := 1 }, ⟨iss (.tmrest ⟨7, false, 0, 32, 0, 0, 0, false, false, false, 0, 0⟩) (kept { id := 1 }), ⟨(ready_iss (by decide +kernel)), ⟨gangOf ({ core := 0, ticket := 0x100040, team := 1 }), ⟨0, ⟨{ core := 0, ticket := 0x100040, team := 1 }, ⟨keptTeam { id := 1 } keptBase, ⟨by decide +kernel, by decide +kernel, by decide +kernel, kept_found _ (by decide +kernel), by decide +kernel, by decide +kernel, by decide +kernel, kept_holds _ (by decide +kernel) (by decide +kernel), by decide +kernel⟩⟩⟩⟩⟩⟩⟩⟩⟩,
   ⟨⟨7, false, 0, 32, 0, 0, 0, false, false, false, 0, 0⟩, ⟨kept { id := 1 }, ⟨iss (.tmrest ⟨7, false, 0, 32, 0, 0, 0, false, false, false, 0, 0⟩) (kept { id := 1 }), ⟨(ready_iss (by decide +kernel)), ⟨gangOf ({ core := 0, ticket := 0x100040, team := 1 }), ⟨0, ⟨{ core := 0, ticket := 0x100040, team := 1 }, ⟨keptTeam { id := 1 } keptBase, ⟨by decide +kernel, by decide +kernel, by decide +kernel, kept_found _ (by decide +kernel), by decide +kernel, by decide +kernel, by decide +kernel, kept_holds _ (by decide +kernel) (by decide +kernel), by decide +kernel⟩⟩⟩⟩⟩⟩⟩⟩⟩,
   ⟨⟨7, false, 0, 32, 0, 0, 0, false, false, false, 0, 0⟩, ⟨kept { id := 1, handles := [(0, { opened := true, mode := 1, desc := { base := 0x80000, esz := 2, ext := [4], stride := [4] } })] }, ⟨iss (.tmrest ⟨7, false, 0, 32, 0, 0, 0, false, false, false, 0, 0⟩) (kept { id := 1, handles := [(0, { opened := true, mode := 1, desc := { base := 0x80000, esz := 2, ext := [4], stride := [4] } })] }), ⟨(ready_iss (by decide +kernel)), ⟨gangOf ({ core := 0, ticket := 0x100040, team := 1 }), ⟨0, ⟨{ core := 0, ticket := 0x100040, team := 1 }, ⟨keptTeam ({ id := 1, handles := [(0, { opened := true, mode := 1, desc := { base := 0x80000, esz := 2, ext := [4], stride := [4] } })] }) keptBase, ⟨by decide +kernel, by decide +kernel, by decide +kernel, kept_found _ (by decide +kernel), by decide +kernel, by decide +kernel, by decide +kernel, kept_holds _ (by decide +kernel) (by decide +kernel), by decide +kernel⟩⟩⟩⟩⟩⟩⟩⟩⟩,
   ⟨⟨7, false, 0, 32, 0, 0, 0, false, false, false, 0, 0⟩, ⟨((fun s : State => { s with saved := [{ team := { id := 1 }, weaves := [], area := 0 }] })) ((tick 3 { core := 0, ticket := 0x100040, team := 1 }) ((reg 32 0x100040) (agent))), ⟨iss (.tmrest ⟨7, false, 0, 32, 0, 0, 0, false, false, false, 0, 0⟩) (((fun s : State => { s with saved := [{ team := { id := 1 }, weaves := [], area := 0 }] })) ((tick 3 { core := 0, ticket := 0x100040, team := 1 }) ((reg 32 0x100040) (agent)))), ⟨(ready_iss (by decide +kernel)), ⟨gangOf ({ core := 0, ticket := 0x100040, team := 1 }), ⟨0, ⟨{ core := 0, ticket := 0x100040, team := 1 }, ⟨{ team := { id := 1 }, weaves := [], area := 0 }, by decide +kernel⟩⟩⟩⟩⟩⟩⟩⟩,
   ⟨⟨7, false, 0, 32, 0, 0, 0, false, false, false, 0, 0⟩, ⟨((fun s : State => { s with holds := [{ line := 0x2000, core := 1, expiry := 1000 }] })) (((fun s : State => { s with saved := [{ team := { id := 1 }, weaves := [], area := 0 }] })) ((tick 3 { core := 0, ticket := 0x100040, team := 1 }) ((reg 32 0x100040) (agent)))), ⟨iss (.tmrest ⟨7, false, 0, 32, 0, 0, 0, false, false, false, 0, 0⟩) (((fun s : State => { s with holds := [{ line := 0x2000, core := 1, expiry := 1000 }] })) (((fun s : State => { s with saved := [{ team := { id := 1 }, weaves := [], area := 0 }] })) ((tick 3 { core := 0, ticket := 0x100040, team := 1 }) ((reg 32 0x100040) (agent))))), ⟨(ready_iss (by decide +kernel)), ⟨gangOf ({ core := 0, ticket := 0x100040, team := 1 }), ⟨0, ⟨{ core := 0, ticket := 0x100040, team := 1 }, ⟨{ team := { id := 1 }, weaves := [], area := 0 }, by decide +kernel⟩⟩⟩⟩⟩⟩⟩⟩,
   ⟨⟨7, false, 0, 32, 0, 0, 0, false, false, false, 0, 0⟩, ⟨(cr (fun k => { k with teams := [(1, { id := 1, slots := [0] })] })) ((tick 3 { core := 0, ticket := 0x100040, team := 1 }) ((reg 32 0x100040) (agent))), ⟨iss (.tmrest ⟨7, false, 0, 32, 0, 0, 0, false, false, false, 0, 0⟩) ((cr (fun k => { k with teams := [(1, { id := 1, slots := [0] })] })) ((tick 3 { core := 0, ticket := 0x100040, team := 1 }) ((reg 32 0x100040) (agent)))), ⟨(ready_iss (by decide +kernel)), ⟨gangOf ({ core := 0, ticket := 0x100040, team := 1 }), ⟨0, ⟨{ core := 0, ticket := 0x100040, team := 1 }, by decide +kernel⟩⟩⟩⟩⟩⟩⟩,
   ⟨⟨7, false, 0, 32, 0, 0, 0, false, false, false, 0, 0⟩, ⟨((fun s : State => { s with holds := [{ line := 0x2000, core := 1, expiry := 1000 }] })) ((cr (fun k => { k with teams := [(1, { id := 1, slots := [0] })] })) ((tick 3 { core := 0, ticket := 0x100040, team := 1 }) ((reg 32 0x100040) (agent)))), ⟨iss (.tmrest ⟨7, false, 0, 32, 0, 0, 0, false, false, false, 0, 0⟩) (((fun s : State => { s with holds := [{ line := 0x2000, core := 1, expiry := 1000 }] })) ((cr (fun k => { k with teams := [(1, { id := 1, slots := [0] })] })) ((tick 3 { core := 0, ticket := 0x100040, team := 1 }) ((reg 32 0x100040) (agent))))), ⟨(ready_iss (by decide +kernel)), ⟨gangOf ({ core := 0, ticket := 0x100040, team := 1 }), ⟨0, ⟨{ core := 0, ticket := 0x100040, team := 1 }, by decide +kernel⟩⟩⟩⟩⟩⟩⟩⟩
theorem test_TicketsAndPackets_met3 :
    (∃ o, ∃ s : State, ∃ x : Iss, Ready (.tmrest o) s x ∧ ∃ g : Gang, ∃ i : Nat, ∃ e : GangTeam, (fun x s => x.alike (fun x l => [x.a l]) ∧ x.accepted s [3] ∧ s.ticketTeam (x.a x.low) = some (g, i, e) ∧ s.saved.find? (fun v => v.team.id = e.team) = none ∧ (s.findTeam e.team).isSome = true ∧ s.granted e.team = false) x (x.moved s)) ∧
    (∃ o, ∃ s : State, ∃ x : Iss, Ready (.tmrest o) s x ∧ ∃ g : Gang, ∃ i : Nat, ∃ e : GangTeam, ∃ v : SavedTeam, (fun x s => x.alike (fun x l => [x.a l]) ∧ x.accepted s [3] ∧ s.ticketTeam (x.a x.low) = some (g, i, e) ∧ s.saved.find? (fun v => v.team.id = e.team) = some v ∧ (e.reserved = false ∨ e.core ≠ x.g.core ∨ s.roomFor e.core v = false)) x (x.moved s)) ∧
    (∃ v : SavedTeam, ∃ v : SavedTeam, ∃ n : Nat, ∃ i : Nat, ∃ w : Weave, (v.weaves : List (Nat × Weave))[n]? = some (i, w) ∧ ∃ s : State, ∃ c : Nat, ∃ s : State, ∃ c : Nat, ∃ k : Nat, (s.core c).freeSlots[n]? = some k) ∧
    (∃ o, ∃ s : State, ∃ x : Iss, Ready (.tmflush o) s x ∧ ∃ g : Gang, ∃ i : Nat, ∃ e : GangTeam, (fun x s => x.alike (fun x l => [x.a l]) ∧ x.accepted s [2, 3] ∧ s.ticketTeam (x.a x.low) = some (g, i, e) ∧ (∀ c y, s.findTeam e.team = some (c, y) → s.backsHeld c y = false) ∧ s.heldWrites x.g.core (s.flushTeam e.team (x.a x.low) true) = []) x (x.moved s)) ∧
    (∃ o, ∃ s : State, ∃ x : Iss, Ready (.tmflush o) s x ∧ let m := x.moved s; ∃ g : Gang, ∃ i : Nat, ∃ e : GangTeam, (x.alike (fun x l => [x.a l]) ∧ x.accepted m [2, 3] ∧ m.ticketTeam (x.a x.low) = some (g, i, e) ∧ (∀ c y, m.findTeam e.team = some (c, y) → m.backsHeld c y = false)) ∧ m.heldWrites x.g.core (m.flushTeam e.team (x.a x.low) true) ≠ []) ∧
    (∃ o, ∃ s : State, ∃ x : Iss, Ready (.tmkill o) s x ∧ ∃ g : Gang, ∃ i : Nat, ∃ e : GangTeam, (fun x s => x.alike (fun x l => [x.a l]) ∧ x.accepted s [2, 3] ∧ s.ticketTeam (x.a x.low) = some (g, i, e) ∧ (∀ c y, s.findTeam e.team = some (c, y) → s.backsHeld c y = false) ∧ s.heldWrites x.g.core ((s.flushTeam e.team (x.a x.low) false).settleGang g.id) = []) x (x.moved s)) ∧
    (∃ o, ∃ s : State, ∃ x : Iss, Ready (.tmkill o) s x ∧ let m := x.moved s; ∃ g : Gang, ∃ i : Nat, ∃ e : GangTeam, (x.alike (fun x l => [x.a l]) ∧ x.accepted m [2, 3] ∧ m.ticketTeam (x.a x.low) = some (g, i, e) ∧ (∀ c y, m.findTeam e.team = some (c, y) → m.backsHeld c y = false)) ∧ m.heldWrites x.g.core ((m.flushTeam e.team (x.a x.low) false).settleGang g.id) ≠ []) ∧
    (∃ o, ∃ s : State, ∃ x : Iss, Ready (.tmflush o) s x ∧ let m := x.moved s; ∃ g : Gang, ∃ i : Nat, ∃ e : GangTeam, ∃ c : Nat, ∃ y : Team, x.alike (fun x l => [x.a l]) ∧ x.accepted m [2, 3] ∧ m.ticketTeam (x.a x.low) = some (g, i, e) ∧ m.findTeam e.team = some (c, y) ∧ m.backsHeld c y = true) ∧
    (∃ o, ∃ s : State, ∃ x : Iss, Ready (.tmkill o) s x ∧ let m := x.moved s; ∃ g : Gang, ∃ i : Nat, ∃ e : GangTeam, ∃ c : Nat, ∃ y : Team, x.alike (fun x l => [x.a l]) ∧ x.accepted m [2, 3] ∧ m.ticketTeam (x.a x.low) = some (g, i, e) ∧ m.findTeam e.team = some (c, y) ∧ m.backsHeld c y = true) ∧
    (∃ o, ∃ s : State, ∃ x : Iss, Ready (.tkdone o) s x ∧ ∃ g : Gang, ∃ i : Nat, ∃ e : GangTeam, (fun x s => x.alike (fun x l => [x.a l]) ∧ x.accepted s [2] ∧ s.ticketTeam (x.a x.low) = some (g, i, e) ∧ e.completed = true ∧ s.heldWrites x.g.core (((s.setTicketState (x.a x.low) 4).modGangTeam e.team (fun e => { e with reported := true })).settleGang g.id) = []) x (x.moved s)) ∧
    (∃ o, ∃ s : State, ∃ x : Iss, Ready (.tkdone o) s x ∧ let m := x.moved s; ∃ g : Gang, ∃ i : Nat, ∃ e : GangTeam, (x.alike (fun x l => [x.a l]) ∧ x.accepted m [2] ∧ m.ticketTeam (x.a x.low) = some (g, i, e) ∧ e.completed = true) ∧ m.heldWrites x.g.core (((m.setTicketState (x.a x.low) 4).modGangTeam e.team (fun e => { e with reported := true })).settleGang g.id) ≠ []) ∧
    (∃ o, ∃ s : State, ∃ x : Iss, Ready (.tkdone o) s x ∧ ∃ g : Gang, ∃ i : Nat, ∃ e : GangTeam, (fun x s => x.alike (fun x l => [x.a l]) ∧ x.accepted s [2] ∧ s.ticketTeam (x.a x.low) = some (g, i, e) ∧ e.completed = false) x (x.moved s)) ∧
    (∃ o, ∃ s : State, ∃ x : Iss, Ready (.tkclaim o) s x ∧ (fun x s => x.alike (fun x l => [x.a l]) ∧ s.findTicket (x.a x.low) x.g.core = none) x (x.moved s)) ∧
    (∃ o, ∃ s : State, ∃ x : Iss, Ready (.tkclaim o) s x ∧ ∃ a : Nat, (fun x s => x.alike (fun x l => [x.a l]) ∧ s.findTicket (x.a x.low) x.g.core = some a ∧ s.heldWrites x.g.core (x.giveAll ((s.setTicketState a 1).modCore x.g.core (fun k => { k with fwTickets := insertNat a k.fwTickets })) a) = []) x (x.moved s)) ∧
    (∃ s : State, ∃ counter : Nat, ∃ core : Nat, ∃ a, s.findTicket counter core = some a ∧ True) ∧
    (∃ o, ∃ s : State, ∃ x : Iss, Ready (.qpost o) s x ∧ x.alike (fun x l => [x.a l, x.b l]) ∧ x.b x.low < 64 ∧ (x.moved s).atomPending x.g.core x.g.slot x.ex = false ∧ ∃ loc : Loc, ∃ leaf : Nat, ∃ u, x.checkOnce (x.moved s) { rd := true, align := 64, size := 64 } (x.a x.low) = (u, .ok loc leaf) ∧ let v := u.prepLoad x.g.core x.g.slot { l := x.low, ea := x.a x.low, loc := loc, leaf := leaf } 64 true; let q := (x.moved s).queue (x.b x.low); let used := v.readPhys (v.fabric (q.word 3)) 8 - q.word 4; let t := x.giveAll (v.enqueue (x.b x.low) ((loc.span 64).map (v.seenByte x.g.core x.g.slot x.low))) 0; v.anyPoison (loc.span 64) = false) ∧
    (∃ o, ∃ s : State, ∃ x : Iss, Ready (.qpost o) s x ∧ x.canTrap (x.moved s) ∧ (fun x _ => x.alike (fun x l => [x.a l, x.b l]) ∧ 64 ≤ x.b x.low) x (x.moved s)) :=
  ⟨⟨⟨7, false, 0, 32, 0, 0, 0, false, false, false, 0, 0⟩, ⟨((fun s : State => { s with dirReqs := [{ core := 0, slot := 48, pc := 0, team := 1, handle := 0, write := false, pages := [{ va := 0x80000, pa := 0x100000, bits := 19 }] }] })) ((cr (fun k => { k with teams := [(1, { id := 1, slots := [0] })] })) ((tick 3 { core := 0, ticket := 0x100040, team := 1 }) ((reg 32 0x100040) (agent)))), ⟨iss (.tmrest ⟨7, false, 0, 32, 0, 0, 0, false, false, false, 0, 0⟩) (((fun s : State => { s with dirReqs := [{ core := 0, slot := 48, pc := 0, team := 1, handle := 0, write := false, pages := [{ va := 0x80000, pa := 0x100000, bits := 19 }] }] })) ((cr (fun k => { k with teams := [(1, { id := 1, slots := [0] })] })) ((tick 3 { core := 0, ticket := 0x100040, team := 1 }) ((reg 32 0x100040) (agent))))), ⟨(ready_iss (by decide +kernel)), ⟨gangOf ({ core := 0, ticket := 0x100040, team := 1 }), ⟨0, ⟨{ core := 0, ticket := 0x100040, team := 1 }, by decide +kernel⟩⟩⟩⟩⟩⟩⟩,
   ⟨⟨7, false, 0, 32, 0, 0, 0, false, false, false, 0, 0⟩, ⟨((fun s : State => { s with saved := [{ team := { id := 1 }, weaves := [], area := 0 }] })) ((tick 3 { core := 0, ticket := 0x100040, team := 1, reserved := false }) ((reg 32 0x100040) (agent))), ⟨iss (.tmrest ⟨7, false, 0, 32, 0, 0, 0, false, false, false, 0, 0⟩) (((fun s : State => { s with saved := [{ team := { id := 1 }, weaves := [], area := 0 }] })) ((tick 3 { core := 0, ticket := 0x100040, team := 1, reserved := false }) ((reg 32 0x100040) (agent)))), ⟨(ready_iss (by decide +kernel)), ⟨gangOf ({ core := 0, ticket := 0x100040, team := 1, reserved := false }), ⟨0, ⟨{ core := 0, ticket := 0x100040, team := 1, reserved := false }, ⟨{ team := { id := 1 }, weaves := [], area := 0 }, by decide +kernel⟩⟩⟩⟩⟩⟩⟩⟩,
   ⟨{ team := { id := 1 }, weaves := [(0, {})], area := 0 }, ⟨{ team := { id := 1 }, weaves := [(0, {})], area := 0 }, ⟨0, ⟨0, ⟨{}, ⟨by decide +kernel, ⟨{}, ⟨0, ⟨{}, ⟨0, ⟨0, by decide +kernel⟩⟩⟩⟩⟩⟩⟩⟩⟩⟩⟩,
   ⟨⟨7, false, 0, 32, 0, 0, 0, false, false, false, 0, 0⟩, ⟨(tick 2 { core := 0, ticket := 0x100040, team := 1 }) ((reg 32 0x100040) (agent)), ⟨iss (.tmflush ⟨7, false, 0, 32, 0, 0, 0, false, false, false, 0, 0⟩) ((tick 2 { core := 0, ticket := 0x100040, team := 1 }) ((reg 32 0x100040) (agent))), ⟨(ready_iss (by decide +kernel)), ⟨gangOf ({ core := 0, ticket := 0x100040, team := 1 }), ⟨0, ⟨{ core := 0, ticket := 0x100040, team := 1 }, ⟨by decide +kernel, by decide +kernel, by decide +kernel, fun c y h => absurd h (by rw [show State.findTeam _ 1 = none from by decide +kernel]; exact fun h => nomatch h), by decide +kernel⟩⟩⟩⟩⟩⟩⟩⟩,
   ⟨⟨7, false, 0, 32, 0, 0, 0, false, false, false, 0, 0⟩, ⟨((fun s : State => { s with holds := [{ line := 0x2000, core := 1, expiry := 1000 }] })) ((tick 2 { core := 0, ticket := 0x100040, team := 1 }) ((reg 32 0x100040) (agent))), ⟨iss (.tmflush ⟨7, false, 0, 32, 0, 0, 0, false, false, false, 0, 0⟩) (((fun s : State => { s with holds := [{ line := 0x2000, core := 1, expiry := 1000 }] })) ((tick 2 { core := 0, ticket := 0x100040, team := 1 }) ((reg 32 0x100040) (agent)))), ⟨(ready_iss (by decide +kernel)), ⟨gangOf ({ core := 0, ticket := 0x100040, team := 1 }), ⟨0, ⟨{ core := 0, ticket := 0x100040, team := 1 }, ⟨(⟨by decide +kernel, by decide +kernel, by decide +kernel, fun c y h => absurd h (by rw [show State.findTeam _ 1 = none from by decide +kernel]; exact fun h => nomatch h)⟩), by decide +kernel⟩⟩⟩⟩⟩⟩⟩⟩,
   ⟨⟨7, false, 0, 32, 0, 0, 0, false, false, false, 0, 0⟩, ⟨(tick 2 { core := 0, ticket := 0x100040, team := 1 }) ((reg 32 0x100040) (agent)), ⟨iss (.tmkill ⟨7, false, 0, 32, 0, 0, 0, false, false, false, 0, 0⟩) ((tick 2 { core := 0, ticket := 0x100040, team := 1 }) ((reg 32 0x100040) (agent))), ⟨(ready_iss (by decide +kernel)), ⟨gangOf ({ core := 0, ticket := 0x100040, team := 1 }), ⟨0, ⟨{ core := 0, ticket := 0x100040, team := 1 }, ⟨by decide +kernel, by decide +kernel, by decide +kernel, fun c y h => absurd h (by rw [show State.findTeam _ 1 = none from by decide +kernel]; exact fun h => nomatch h), by decide +kernel⟩⟩⟩⟩⟩⟩⟩⟩,
   ⟨⟨7, false, 0, 32, 0, 0, 0, false, false, false, 0, 0⟩, ⟨((fun s : State => { s with holds := [{ line := 0x2000, core := 1, expiry := 1000 }] })) ((tick 2 { core := 0, ticket := 0x100040, team := 1 }) ((reg 32 0x100040) (agent))), ⟨iss (.tmkill ⟨7, false, 0, 32, 0, 0, 0, false, false, false, 0, 0⟩) (((fun s : State => { s with holds := [{ line := 0x2000, core := 1, expiry := 1000 }] })) ((tick 2 { core := 0, ticket := 0x100040, team := 1 }) ((reg 32 0x100040) (agent)))), ⟨(ready_iss (by decide +kernel)), ⟨gangOf ({ core := 0, ticket := 0x100040, team := 1 }), ⟨0, ⟨{ core := 0, ticket := 0x100040, team := 1 }, ⟨(⟨by decide +kernel, by decide +kernel, by decide +kernel, fun c y h => absurd h (by rw [show State.findTeam _ 1 = none from by decide +kernel]; exact fun h => nomatch h)⟩), by decide +kernel⟩⟩⟩⟩⟩⟩⟩⟩,
   ⟨⟨7, false, 0, 32, 0, 0, 0, false, false, false, 0, 0⟩, ⟨((fun s : State => { s with holds := [{ line := 0x2200, core := 1, expiry := 1000 }] })) ((cr (fun k => { k with teams := [(1, ({ id := 1, slots := [0], maps := [(0, { va := 0x80000, off := 0, len := 128, zero := false, segs := [{ pa := 0x110000, off := 0, len := 128 }], filled := [0], dirty := [0] })] } : Team))] })) ((tick 2 { core := 0, ticket := 0x100040, team := 1 }) ((reg 32 0x100040) (agent)))), ⟨iss (.tmflush ⟨7, false, 0, 32, 0, 0, 0, false, false, false, 0, 0⟩) (((fun s : State => { s with holds := [{ line := 0x2200, core := 1, expiry := 1000 }] })) ((cr (fun k => { k with teams := [(1, ({ id := 1, slots := [0], maps := [(0, { va := 0x80000, off := 0, len := 128, zero := false, segs := [{ pa := 0x110000, off := 0, len := 128 }], filled := [0], dirty := [0] })] } : Team))] })) ((tick 2 { core := 0, ticket := 0x100040, team := 1 }) ((reg 32 0x100040) (agent))))), ⟨(ready_iss (by decide +kernel)), ⟨gangOf ({ core := 0, ticket := 0x100040, team := 1 }), ⟨0, ⟨{ core := 0, ticket := 0x100040, team := 1 }, ⟨0, ⟨({ id := 1, slots := [0], maps := [(0, { va := 0x80000, off := 0, len := 128, zero := false, segs := [{ pa := 0x110000, off := 0, len := 128 }], filled := [0], dirty := [0] })] } : Team), by decide +kernel⟩⟩⟩⟩⟩⟩⟩⟩⟩,
   ⟨⟨7, false, 0, 32, 0, 0, 0, false, false, false, 0, 0⟩, ⟨((fun s : State => { s with holds := [{ line := 0x2200, core := 1, expiry := 1000 }] })) ((cr (fun k => { k with teams := [(1, ({ id := 1, slots := [0], maps := [(0, { va := 0x80000, off := 0, len := 128, zero := false, segs := [{ pa := 0x110000, off := 0, len := 128 }], filled := [0], dirty := [0] })] } : Team))] })) ((tick 2 { core := 0, ticket := 0x100040, team := 1 }) ((reg 32 0x100040) (agent)))), ⟨iss (.tmkill ⟨7, false, 0, 32, 0, 0, 0, false, false, false, 0, 0⟩) (((fun s : State => { s with holds := [{ line := 0x2200, core := 1, expiry := 1000 }] })) ((cr (fun k => { k with teams := [(1, ({ id := 1, slots := [0], maps := [(0, { va := 0x80000, off := 0, len := 128, zero := false, segs := [{ pa := 0x110000, off := 0, len := 128 }], filled := [0], dirty := [0] })] } : Team))] })) ((tick 2 { core := 0, ticket := 0x100040, team := 1 }) ((reg 32 0x100040) (agent))))), ⟨(ready_iss (by decide +kernel)), ⟨gangOf ({ core := 0, ticket := 0x100040, team := 1 }), ⟨0, ⟨{ core := 0, ticket := 0x100040, team := 1 }, ⟨0, ⟨({ id := 1, slots := [0], maps := [(0, { va := 0x80000, off := 0, len := 128, zero := false, segs := [{ pa := 0x110000, off := 0, len := 128 }], filled := [0], dirty := [0] })] } : Team), by decide +kernel⟩⟩⟩⟩⟩⟩⟩⟩⟩,
   ⟨⟨7, false, 0, 32, 0, 0, 0, false, false, false, 0, 0⟩, ⟨(tick 2 { core := 0, ticket := 0x100040, team := 1, completed := true }) ((reg 32 0x100040) (agent)), ⟨iss (.tkdone ⟨7, false, 0, 32, 0, 0, 0, false, false, false, 0, 0⟩) ((tick 2 { core := 0, ticket := 0x100040, team := 1, completed := true }) ((reg 32 0x100040) (agent))), ⟨(ready_iss (by decide +kernel)), ⟨gangOf ({ core := 0, ticket := 0x100040, team := 1, completed := true }), ⟨0, ⟨{ core := 0, ticket := 0x100040, team := 1, completed := true }, by decide +kernel⟩⟩⟩⟩⟩⟩⟩,
   ⟨⟨7, false, 0, 32, 0, 0, 0, false, false, false, 0, 0⟩, ⟨((fun s : State => { s with holds := [{ line := 0x2000, core := 1, expiry := 1000 }] })) ((tick 2 { core := 0, ticket := 0x100040, team := 1, completed := true }) ((reg 32 0x100040) (agent))), ⟨iss (.tkdone ⟨7, false, 0, 32, 0, 0, 0, false, false, false, 0, 0⟩) (((fun s : State => { s with holds := [{ line := 0x2000, core := 1, expiry := 1000 }] })) ((tick 2 { core := 0, ticket := 0x100040, team := 1, completed := true }) ((reg 32 0x100040) (agent)))), ⟨(ready_iss (by decide +kernel)), ⟨gangOf ({ core := 0, ticket := 0x100040, team := 1, completed := true }), ⟨0, ⟨{ core := 0, ticket := 0x100040, team := 1, completed := true }, by decide +kernel⟩⟩⟩⟩⟩⟩⟩,
   ⟨⟨7, false, 0, 32, 0, 0, 0, false, false, false, 0, 0⟩, ⟨(tick 2 { core := 0, ticket := 0x100040, team := 1 }) ((reg 32 0x100040) (agent)), ⟨iss (.tkdone ⟨7, false, 0, 32, 0, 0, 0, false, false, false, 0, 0⟩) ((tick 2 { core := 0, ticket := 0x100040, team := 1 }) ((reg 32 0x100040) (agent))), ⟨(ready_iss (by decide +kernel)), ⟨gangOf ({ core := 0, ticket := 0x100040, team := 1 }), ⟨0, ⟨{ core := 0, ticket := 0x100040, team := 1 }, by decide +kernel⟩⟩⟩⟩⟩⟩⟩,
   ⟨⟨7, false, 16, 32, 0, 0, 0, false, false, false, 0, 0⟩, ⟨agent, ⟨iss (.tkclaim ⟨7, false, 16, 32, 0, 0, 0, false, false, false, 0, 0⟩) (agent), ⟨(ready_iss (by decide +kernel)), by decide +kernel⟩⟩⟩⟩,
   ⟨⟨7, false, 16, 32, 0, 0, 0, false, false, false, 0, 0⟩, ⟨(words 0x100000 [0x100040, 1, 1, 0, 0, 0, 0, 0, 0, 0, 0]) ((reg 32 0x100000) (agent)), ⟨iss (.tkclaim ⟨7, false, 16, 32, 0, 0, 0, false, false, false, 0, 0⟩) ((words 0x100000 [0x100040, 1, 1, 0, 0, 0, 0, 0, 0, 0, 0]) ((reg 32 0x100000) (agent))), ⟨(ready_iss (by decide +kernel)), ⟨0x100040, by decide +kernel⟩⟩⟩⟩⟩,
   ⟨(words 0x100000 [0x100040, 1, 1, 0, 0, 0, 0, 0, 0, 0, 0]) (D), ⟨0x100000, ⟨0, ex_some (by decide +kernel) (trivial)⟩⟩⟩,
   ⟨⟨7, false, 16, 32, 48, 0, 0, false, false, false, 0, 0⟩, ⟨(tm (fun t => { t with maps := [(0, { va := 0x80000, off := 0, len := 128, zero := false, segs := [{ pa := 0x100000, off := 0, len := 128 }], filled := [], dirty := [] })] })) ((reg 32 0x80000) (D)), ⟨iss (.qpost ⟨7, false, 16, 32, 48, 0, 0, false, false, false, 0, 0⟩) ((tm (fun t => { t with maps := [(0, { va := 0x80000, off := 0, len := 128, zero := false, segs := [{ pa := 0x100000, off := 0, len := 128 }], filled := [], dirty := [] })] })) ((reg 32 0x80000) (D))), ⟨(ready_iss (by decide +kernel)), ⟨by decide +kernel, ⟨by decide +kernel, ⟨by decide +kernel, ⟨.spad 1 0, ⟨0, ex_chk (by decide +kernel) (by decide +kernel)⟩⟩⟩⟩⟩⟩⟩⟩⟩,
   ⟨⟨7, false, 16, 32, 48, 0, 0, false, false, false, 0, 0⟩, ⟨(reg 48 64) (D), ⟨iss (.qpost ⟨7, false, 16, 32, 48, 0, 0, false, false, false, 0, 0⟩) ((reg 48 64) (D)), ⟨(ready_iss (by decide +kernel)), by decide +kernel⟩⟩⟩⟩⟩
theorem test_LeaseInstructions_met :
    (∃ o, ∃ s : State, ∃ x : Iss, Ready (.lsreq o) s x ∧ x.canTrap (x.moved s) ∧ (fun x _ => ∃ l ∈ x.ex, 2 ^ 34 ≤ x.a l ∨ 2 ^ 64 ≤ x.b l) x (x.moved s)) ∧
    (∃ o, ∃ s : State, ∃ x : Iss, Ready (.lsrenew o) s x ∧ x.canTrap (x.moved s) ∧ (fun x _ => ∃ l ∈ x.ex, 2 ^ 16 ≤ x.a l ∨ 2 ^ 64 ≤ x.b l) x (x.moved s)) ∧
    (∃ o, ∃ s : State, ∃ x : Iss, Ready (.lsdrop o) s x ∧ x.canTrap (x.moved s) ∧ (fun x _ => ∃ l ∈ x.ex, 2 ^ 16 ≤ x.a l ∨ 2 ^ 32 ≤ x.b l) x (x.moved s)) ∧
    (∃ o, ∃ s : State, ∃ x : Iss, Ready (.exlend o) s x ∧ x.canTrap (x.moved s) ∧ (fun x _ => ∃ l ∈ x.ex, 2 ^ 12 ≤ x.a l ∨ 2 ^ 64 ≤ x.b l) x (x.moved s)) ∧
    (∃ o, ∃ s : State, ∃ x : Iss, Ready (.lsrecall o) s x ∧ x.canTrap (x.moved s) ∧ (fun x _ => ∃ l ∈ x.ex, 2 ^ 12 ≤ x.a l ∨ 2 ^ 32 ≤ x.b l) x (x.moved s)) ∧
    (∃ o, ∃ s : State, ∃ x : Iss, Ready (.lsrd o) s x ∧ x.canTrap (x.moved s) ∧ (fun x _ => ∃ l ∈ x.ex, 2 ^ 13 ≤ x.a l ∨ 2 ^ 32 ≤ x.b l) x (x.moved s)) ∧
    (Config.inFabric 1 = true → ∃ o, ∃ s : State, ∃ x : Iss, Ready (.lsreq o) s x ∧ x.alike (fun x l => [x.a l, x.b l]) ∧ (∀ l ∈ x.ex, x.a l < 2 ^ 34 ∧ x.b l < 2 ^ 64) ∧ x.asked x.low = false ∧ (s.borrower (x.a x.low / 2 ^ 22 % 2 ^ 12)).st = 0 ∧ s.knows (x.a x.low % 2 ^ 10) = true) ∧
    (∃ o, ∃ s : State, ∃ x : Iss, Ready (.lsreq o) s x ∧ (fun x s => x.alike (fun x l => [x.a l, x.b l]) ∧ (∀ l ∈ x.ex, x.a l < 2 ^ 34 ∧ x.b l < 2 ^ 64) ∧ x.asked x.low = false ∧ (s.borrower (x.a x.low / 2 ^ 22 % 2 ^ 12)).st ≠ 0) x (x.moved s)) ∧
    (∃ o, ∃ s : State, ∃ x : Iss, Ready (.lsreq o) s x ∧ (fun x s => x.alike (fun x l => [x.a l, x.b l]) ∧ (∀ l ∈ x.ex, x.a l < 2 ^ 34 ∧ x.b l < 2 ^ 64) ∧ x.asked x.low = false ∧ (s.borrower (x.a x.low / 2 ^ 22 % 2 ^ 12)).st = 0 ∧ s.knows (x.a x.low % 2 ^ 10) = false) x (x.moved s)) ∧
    (∃ o, ∃ s : State, ∃ x : Iss, Ready (.lsreq o) s x ∧ ∃ c : Nat, (fun x s => x.alike (fun x l => [x.a l, x.b l]) ∧ (∀ l ∈ x.ex, x.a l < 2 ^ 34 ∧ x.b l < 2 ^ 64) ∧ x.asked x.low = true ∧ (s.borrower (x.a x.low / 2 ^ 22 % 2 ^ 12)).answer = some c) x (x.moved s)) ∧
    (∃ o, ∃ s : State, ∃ x : Iss, Ready (.lsrenew o) s x ∧ x.alike (fun x l => [x.a l, x.b l]) ∧ (∀ l ∈ x.ex, x.a l < 2 ^ 16 ∧ x.b l < 2 ^ 64) ∧ x.asked x.low = false ∧ (s.borrower (x.a x.low % 2 ^ 12)).st = 2 ∧ (s.borrower (x.a x.low % 2 ^ 12)).gen = x.a x.low / 2 ^ 12) :=
  ⟨⟨⟨7, false, 16, 32, 48, 0, 0, false, false, false, 0, 0⟩, ⟨(reg 32 0x400000000) (agent), ⟨iss (.lsreq ⟨7, false, 16, 32, 48, 0, 0, false, false, false, 0, 0⟩) ((reg 32 0x400000000) (agent)), ⟨(ready_iss (by decide +kernel)), by decide +kernel⟩⟩⟩⟩,
   ⟨⟨7, false, 16, 32, 48, 0, 0, false, false, false, 0, 0⟩, ⟨(reg 32 0x10000) (agent), ⟨iss (.lsrenew ⟨7, false, 16, 32, 48, 0, 0, false, false, false, 0, 0⟩) ((reg 32 0x10000) (agent)), ⟨(ready_iss (by decide +kernel)), by decide +kernel⟩⟩⟩⟩,
   ⟨⟨7, false, 16, 32, 0, 0, 0, false, false, false, 0, 0⟩, ⟨(reg 32 0x10000) (agent), ⟨iss (.lsdrop ⟨7, false, 16, 32, 0, 0, 0, false, false, false, 0, 0⟩) ((reg 32 0x10000) (agent)), ⟨(ready_iss (by decide +kernel)), by decide +kernel⟩⟩⟩⟩,
   ⟨⟨7, false, 0, 32, 48, 0, 0, false, false, false, 0, 0⟩, ⟨(reg 32 0x1000) (agent), ⟨iss (.exlend ⟨7, false, 0, 32, 48, 0, 0, false, false, false, 0, 0⟩) ((reg 32 0x1000) (agent)), ⟨(ready_iss (by decide +kernel)), by decide +kernel⟩⟩⟩⟩,
   ⟨⟨7, false, 16, 32, 0, 0, 0, false, false, false, 0, 0⟩, ⟨(reg 32 0x1000) (agent), ⟨iss (.lsrecall ⟨7, false, 16, 32, 0, 0, 0, false, false, false, 0, 0⟩) ((reg 32 0x1000) (agent)), ⟨(ready_iss (by decide +kernel)), by decide +kernel⟩⟩⟩⟩,
   ⟨⟨7, false, 16, 32, 0, 0, 0, false, false, false, 0, 0⟩, ⟨(reg 32 0x2000) (agent), ⟨iss (.lsrd ⟨7, false, 16, 32, 0, 0, 0, false, false, false, 0, 0⟩) ((reg 32 0x2000) (agent)), ⟨(ready_iss (by decide +kernel)), by decide +kernel⟩⟩⟩⟩,
   fun hf => ⟨⟨7, false, 16, 32, 48, 0, 0, false, false, false, 0, 0⟩, ⟨((fun s : State => { s with enumerated := true })) ((reg 32 1) (agent)), ⟨iss (.lsreq ⟨7, false, 16, 32, 48, 0, 0, false, false, false, 0, 0⟩) (((fun s : State => { s with enumerated := true })) ((reg 32 1) (agent))), ⟨(ready_iss (by decide +kernel)), ⟨by decide +kernel, ⟨by decide +kernel, ⟨by decide +kernel, ⟨by decide +kernel, knows_of (by decide +kernel) (by decide +kernel) (by decide +kernel) hf⟩⟩⟩⟩⟩⟩⟩⟩,
   ⟨⟨7, false, 16, 32, 48, 0, 0, false, false, false, 0, 0⟩, ⟨((fun s : State => { s with borrowers := [(0, { st := 2, gen := 1, peer := 1 })] })) (agent), ⟨iss (.lsreq ⟨7, false, 16, 32, 48, 0, 0, false, false, false, 0, 0⟩) (((fun s : State => { s with borrowers := [(0, { st := 2, gen := 1, peer := 1 })] })) (agent)), ⟨(ready_iss (by decide +kernel)), by decide +kernel⟩⟩⟩⟩,
   ⟨⟨7, false, 16, 32, 48, 0, 0, false, false, false, 0, 0⟩, ⟨agent, ⟨iss (.lsreq ⟨7, false, 16, 32, 48, 0, 0, false, false, false, 0, 0⟩) (agent), ⟨(ready_iss (by decide +kernel)), by decide +kernel⟩⟩⟩⟩,
   ⟨⟨7, false, 16, 32, 48, 0, 0, false, false, false, 0, 0⟩, ⟨((fun s : State => { s with borrowers := [(0, { st := 2, gen := 1, peer := 1, answer := some 0 })] })) ((th (fun t => { t with mark := some { pc := 0x108, id := 0 } })) (agent)), ⟨iss (.lsreq ⟨7, false, 16, 32, 48, 0, 0, false, false, false, 0, 0⟩) (((fun s : State => { s with borrowers := [(0, { st := 2, gen := 1, peer := 1, answer := some 0 })] })) ((th (fun t => { t with mark := some { pc := 0x108, id := 0 } })) (agent))), ⟨(ready_iss (by decide +kernel)), ⟨0, by decide +kernel⟩⟩⟩⟩⟩,
   ⟨⟨7, false, 16, 32, 48, 0, 0, false, false, false, 0, 0⟩, ⟨((fun s : State => { s with borrowers := [(0, { st := 2, gen := 1, peer := 1 })] })) ((reg 32 0x1000) (agent)), ⟨iss (.lsrenew ⟨7, false, 16, 32, 48, 0, 0, false, false, false, 0, 0⟩) (((fun s : State => { s with borrowers := [(0, { st := 2, gen := 1, peer := 1 })] })) ((reg 32 0x1000) (agent))), ⟨(ready_iss (by decide +kernel)), by decide +kernel⟩⟩⟩⟩⟩
theorem test_LeaseInstructions_met2 :
    (∃ o, ∃ s : State, ∃ x : Iss, Ready (.lsrenew o) s x ∧ (fun x s => x.alike (fun x l => [x.a l, x.b l]) ∧ (∀ l ∈ x.ex, x.a l < 2 ^ 16 ∧ x.b l < 2 ^ 64) ∧ x.asked x.low = false ∧ ¬ ((s.borrower (x.a x.low % 2 ^ 12)).st = 2 ∧ (s.borrower (x.a x.low % 2 ^ 12)).gen = x.a x.low / 2 ^ 12)) x (x.moved s)) ∧
    (∃ o, ∃ s : State, ∃ x : Iss, Ready (.lsrenew o) s x ∧ ∃ c : Nat, (fun x s => x.alike (fun x l => [x.a l, x.b l]) ∧ (∀ l ∈ x.ex, x.a l < 2 ^ 16 ∧ x.b l < 2 ^ 64) ∧ x.asked x.low = true ∧ (s.borrower (x.a x.low % 2 ^ 12)).answer = some c) x (x.moved s)) ∧
    (∃ o, ∃ s : State, ∃ x : Iss, Ready (.lsdrop o) s x ∧ x.alike (fun x l => [x.a l]) ∧ (∀ l ∈ x.ex, x.a l < 2 ^ 16 ∧ x.b l < 2 ^ 32) ∧ x.asked x.low = false ∧ (s.borrower (x.a x.low % 2 ^ 12)).st = 2 ∧ (s.borrower (x.a x.low % 2 ^ 12)).gen = x.a x.low / 2 ^ 12) ∧
    (∃ o, ∃ s : State, ∃ x : Iss, Ready (.lsdrop o) s x ∧ (fun x s => x.alike (fun x l => [x.a l]) ∧ (∀ l ∈ x.ex, x.a l < 2 ^ 16 ∧ x.b l < 2 ^ 32) ∧ x.asked x.low = false ∧ ¬ ((s.borrower (x.a x.low % 2 ^ 12)).st = 2 ∧ (s.borrower (x.a x.low % 2 ^ 12)).gen = x.a x.low / 2 ^ 12)) x (x.moved s)) ∧
    (∃ o, ∃ s : State, ∃ x : Iss, Ready (.lsdrop o) s x ∧ (fun x s => x.alike (fun x l => [x.a l]) ∧ (∀ l ∈ x.ex, x.a l < 2 ^ 16 ∧ x.b l < 2 ^ 32) ∧ x.asked x.low = true ∧ ¬ ((s.borrower (x.a x.low % 2 ^ 12)).st = 3 ∧ (s.borrower (x.a x.low % 2 ^ 12)).gen = x.a x.low / 2 ^ 12)) x (x.moved s)) ∧
    (∃ o, ∃ s : State, ∃ x : Iss, Ready (.exlend o) s x ∧ (fun x _ => x.alike (fun x l => [x.a l, x.b l]) ∧ (∀ l ∈ x.ex, x.a l < 2 ^ 12 ∧ x.b l < 2 ^ 64)) x (x.moved s)) ∧
    (∃ o, ∃ s : State, ∃ x : Iss, Ready (.lsrecall o) s x ∧ x.alike (fun x l => [x.a l]) ∧ (∀ l ∈ x.ex, x.a l < 2 ^ 12 ∧ x.b l < 2 ^ 32) ∧ x.asked x.low = false ∧ (s.lender (x.a x.low)).st = 2) ∧
    (∃ o, ∃ s : State, ∃ x : Iss, Ready (.lsrecall o) s x ∧ (fun x s => x.alike (fun x l => [x.a l]) ∧ (∀ l ∈ x.ex, x.a l < 2 ^ 12 ∧ x.b l < 2 ^ 32) ∧ x.asked x.low = false ∧ (s.lender (x.a x.low)).st ≠ 2 ∧ (s.lender (x.a x.low)).st ≠ 3) x (x.moved s)) ∧
    (∃ o, ∃ s : State, ∃ x : Iss, Ready (.lsrecall o) s x ∧ (fun x s => x.alike (fun x l => [x.a l]) ∧ (∀ l ∈ x.ex, x.a l < 2 ^ 12 ∧ x.b l < 2 ^ 32) ∧ x.asked x.low = true ∧ (s.lender (x.a x.low)).st ≠ 3) x (x.moved s)) ∧
    (∃ o, ∃ s : State, ∃ x : Iss, Ready (.lsrd o) s x ∧ (fun x _ => x.alike (fun x l => [x.a l]) ∧ (∀ l ∈ x.ex, x.a l < 2 ^ 13 ∧ x.b l < 2 ^ 32)) x (x.moved s)) :=
  ⟨⟨⟨7, false, 16, 32, 48, 0, 0, false, false, false, 0, 0⟩, ⟨agent, ⟨iss (.lsrenew ⟨7, false, 16, 32, 48, 0, 0, false, false, false, 0, 0⟩) (agent), ⟨(ready_iss (by decide +kernel)), by decide +kernel⟩⟩⟩⟩,
   ⟨⟨7, false, 16, 32, 48, 0, 0, false, false, false, 0, 0⟩, ⟨((fun s : State => { s with borrowers := [(0, { st := 2, gen := 1, peer := 1, answer := some 0 })] })) ((th (fun t => { t with mark := some { pc := 0x108, id := 0 } })) (agent)), ⟨iss (.lsrenew ⟨7, false, 16, 32, 48, 0, 0, false, false, false, 0, 0⟩) (((fun s : State => { s with borrowers := [(0, { st := 2, gen := 1, peer := 1, answer := some 0 })] })) ((th (fun t => { t with mark := some { pc := 0x108, id := 0 } })) (agent))), ⟨(ready_iss (by decide +kernel)), ⟨0, by decide +kernel⟩⟩⟩⟩⟩,
   ⟨⟨7, false, 16, 32, 0, 0, 0, false, false, false, 0, 0⟩, ⟨((fun s : State => { s with borrowers := [(0, { st := 2, gen := 1, peer := 1 })] })) ((reg 32 0x1000) (agent)), ⟨iss (.lsdrop ⟨7, false, 16, 32, 0, 0, 0, false, false, false, 0, 0⟩) (((fun s : State => { s with borrowers := [(0, { st := 2, gen := 1, peer := 1 })] })) ((reg 32 0x1000) (agent))), ⟨(ready_iss (by decide +kernel)), by decide +kernel⟩⟩⟩⟩,
   ⟨⟨7, false, 16, 32, 0, 0, 0, false, false, false, 0, 0⟩, ⟨agent, ⟨iss (.lsdrop ⟨7, false, 16, 32, 0, 0, 0, false, false, false, 0, 0⟩) (agent), ⟨(ready_iss (by decide +kernel)), by decide +kernel⟩⟩⟩⟩,
   ⟨⟨7, false, 16, 32, 0, 0, 0, false, false, false, 0, 0⟩, ⟨(th (fun t => { t with mark := some { pc := 0x108, id := 0 } })) (agent), ⟨iss (.lsdrop ⟨7, false, 16, 32, 0, 0, 0, false, false, false, 0, 0⟩) ((th (fun t => { t with mark := some { pc := 0x108, id := 0 } })) (agent)), ⟨(ready_iss (by decide +kernel)), by decide +kernel⟩⟩⟩⟩,
   ⟨⟨7, false, 0, 32, 48, 0, 0, false, false, false, 0, 0⟩, ⟨agent, ⟨iss (.exlend ⟨7, false, 0, 32, 48, 0, 0, false, false, false, 0, 0⟩) (agent), ⟨(ready_iss (by decide +kernel)), by decide +kernel⟩⟩⟩⟩,
   ⟨⟨7, false, 16, 32, 0, 0, 0, false, false, false, 0, 0⟩, ⟨((fun s : State => { s with lenders := [(0, { st := 2, gen := 1, peer := 1 })] })) (agent), ⟨iss (.lsrecall ⟨7, false, 16, 32, 0, 0, 0, false, false, false, 0, 0⟩) (((fun s : State => { s with lenders := [(0, { st := 2, gen := 1, peer := 1 })] })) (agent)), ⟨(ready_iss (by decide +kernel)), by decide +kernel⟩⟩⟩⟩,
   ⟨⟨7, false, 16, 32, 0, 0, 0, false, false, false, 0, 0⟩, ⟨agent, ⟨iss (.lsrecall ⟨7, false, 16, 32, 0, 0, 0, false, false, false, 0, 0⟩) (agent), ⟨(ready_iss (by decide +kernel)), by decide +kernel⟩⟩⟩⟩,
   ⟨⟨7, false, 16, 32, 0, 0, 0, false, false, false, 0, 0⟩, ⟨(th (fun t => { t with mark := some { pc := 0x108, id := 0 } })) (agent), ⟨iss (.lsrecall ⟨7, false, 16, 32, 0, 0, 0, false, false, false, 0, 0⟩) ((th (fun t => { t with mark := some { pc := 0x108, id := 0 } })) (agent)), ⟨(ready_iss (by decide +kernel)), by decide +kernel⟩⟩⟩⟩,
   ⟨⟨7, false, 16, 32, 0, 0, 0, false, false, false, 0, 0⟩, ⟨agent, ⟨iss (.lsrd ⟨7, false, 16, 32, 0, 0, 0, false, false, false, 0, 0⟩) (agent), ⟨(ready_iss (by decide +kernel)), by decide +kernel⟩⟩⟩⟩⟩
theorem test_KeysManagerMigrationHouse_met :
    (∃ o, ∃ s : State, ∃ x : Iss, Ready (.kyopen o) s x ∧ (fun x s => x.alike (fun x l => [x.a l, x.b l]) ∧ (∀ l ∈ x.ex, x.a l < 2 ^ 13 ∧ x.b l < 2 ^ 32) ∧ 4 < x.a x.low % 8) x (x.moved s)) ∧
    (∃ o, ∃ s : State, ∃ x : Iss, Ready (.kyopen o) s x ∧ (fun x s => x.alike (fun x l => [x.a l, x.b l]) ∧ (∀ l ∈ x.ex, x.a l < 2 ^ 13 ∧ x.b l < 2 ^ 32) ∧ x.a x.low % 8 ≤ 4 ∧ s.knows (x.a x.low / 8) = false) x (x.moved s)) ∧
    (Config.inFabric 1 = true → ∃ o, ∃ s : State, ∃ x : Iss, Ready (.kyopen o) s x ∧ (fun x s => x.alike (fun x l => [x.a l, x.b l]) ∧ (∀ l ∈ x.ex, x.a l < 2 ^ 13 ∧ x.b l < 2 ^ 32) ∧ x.a x.low % 8 ≤ 4 ∧ s.knows (x.a x.low / 8) = true ∧ s.freeKeys (x.a x.low % 8) = []) x (x.moved s)) ∧
    (Config.inFabric 1 = true → ∃ o, ∃ s : State, ∃ x : Iss, Ready (.kyopen o) s x ∧ (fun x s => x.alike (fun x l => [x.a l, x.b l]) ∧ (∀ l ∈ x.ex, x.a l < 2 ^ 13 ∧ x.b l < 2 ^ 32) ∧ x.a x.low % 8 ≤ 4 ∧ s.knows (x.a x.low / 8) = true ∧ s.freeKeys (x.a x.low % 8) ≠ []) x (x.moved s)) ∧
    (∃ s : State, ∃ group : Nat, s.freeKeys group ≠ []) ∧
    (∃ o, ∃ s : State, ∃ x : Iss, Ready (.kyclose o) s x ∧ (fun x s => x.alike (fun x l => [x.a l]) ∧ (∀ l ∈ x.ex, x.a l < 2 ^ 9 ∧ x.b l < 2 ^ 32) ∧ (4 < x.a x.low % 8 ∨ tabFind (x.a x.low % 8 * 64 + x.a x.low / 8) s.keys = none)) x (x.moved s)) ∧
    (∃ o, ∃ s : State, ∃ x : Iss, Ready (.kyclose o) s x ∧ (fun x s => x.alike (fun x l => [x.a l]) ∧ (∀ l ∈ x.ex, x.a l < 2 ^ 9 ∧ x.b l < 2 ^ 32) ∧ x.a x.low % 8 ≤ 4 ∧ (tabFind (x.a x.low % 8 * 64 + x.a x.low / 8) s.keys).isSome = true) x (x.moved s)) ∧
    (∃ o, ∃ s : State, ∃ x : Iss, Ready (.fmcand o) s x ∧ (fun x _ => x.ex ≠ []) x (x.moved s)) ∧
    (∃ o, ∃ s : State, ∃ x : Iss, Ready (.exmig o) s x ∧ x.alike (fun x l => [x.d l, x.a l, x.b l]) ∧ (fun x s => x.a x.low % 524288 = 0 ∧ x.b x.low % 524288 = 0 ∧ x.d x.low % 524288 = 0 ∧ 0 < x.d x.low ∧ x.d x.low ≤ 2 ^ 39 ∧ s.exmigRange (s.exmigAddr (x.a x.low)) (x.d x.low) = none ∧ s.exmigRange (s.exmigAddr (x.b x.low)) (x.d x.low) = none ∧ meet (s.exmigAddr (x.a x.low)) (x.d x.low) (s.exmigAddr (x.b x.low)) (x.d x.low) = false) x (x.moved s) ∧ x.placed (x.moved s) ∧ x.engRoom (x.moved s)) ∧
    (∃ o, ∃ s : State, ∃ x : Iss, Ready (.exmig o) s x ∧ x.canTrap (x.moved s) ∧ x.differ ((fun x l => [x.d l, x.a l, x.b l]) x) ≠ []) ∧
    (∃ o, ∃ s : State, ∃ x : Iss, Ready (.exmig o) s x ∧ x.alike (fun x l => [x.d l, x.a l, x.b l]) ∧ (fun x s => x.a x.low % 524288 = 0 ∧ x.b x.low % 524288 = 0 ∧ x.d x.low % 524288 = 0 ∧ 0 < x.d x.low ∧ x.d x.low ≤ 2 ^ 39 ∧ s.exmigRange (s.exmigAddr (x.a x.low)) (x.d x.low) = none ∧ s.exmigRange (s.exmigAddr (x.b x.low)) (x.d x.low) = none ∧ meet (s.exmigAddr (x.a x.low)) (x.d x.low) (s.exmigAddr (x.b x.low)) (x.d x.low) = false) x (x.moved s) ∧ ¬ x.engRoom (x.moved s)) ∧
    (∃ s : State, tabFind 0 s.windows = some ((0 : Nat), (0 : Nat))) :=
  ⟨⟨⟨7, false, 16, 32, 48, 0, 0, false, false, false, 0, 0⟩, ⟨(reg 32 7) (agent), ⟨iss (.kyopen ⟨7, false, 16, 32, 48, 0, 0, false, false, false, 0, 0⟩) ((reg 32 7) (agent)), ⟨(ready_iss (by decide +kernel)), by decide +kernel⟩⟩⟩⟩,
   ⟨⟨7, false, 16, 32, 48, 0, 0, false, false, false, 0, 0⟩, ⟨agent, ⟨iss (.kyopen ⟨7, false, 16, 32, 48, 0, 0, false, false, false, 0, 0⟩) (agent), ⟨(ready_iss (by decide +kernel)), by decide +kernel⟩⟩⟩⟩,
   fun hf => ⟨⟨7, false, 16, 32, 48, 0, 0, false, false, false, 0, 0⟩, ⟨((fun s : State => { s with enumerated := true, keys := (List.range 64).map (fun k => (k, 1, 0)) })) ((reg 32 8) (agent)), ⟨iss (.kyopen ⟨7, false, 16, 32, 48, 0, 0, false, false, false, 0, 0⟩) (((fun s : State => { s with enumerated := true, keys := (List.range 64).map (fun k => (k, 1, 0)) })) ((reg 32 8) (agent))), ⟨(ready_iss (by decide +kernel)), ⟨by decide +kernel, by decide +kernel, by decide +kernel, knows_of (by decide +kernel) (by decide +kernel) (by decide +kernel) hf, by decide +kernel⟩⟩⟩⟩⟩,
   fun hf => ⟨⟨7, false, 16, 32, 48, 0, 0, false, false, false, 0, 0⟩, ⟨((fun s : State => { s with enumerated := true, keys := [] })) ((reg 32 8) (agent)), ⟨iss (.kyopen ⟨7, false, 16, 32, 48, 0, 0, false, false, false, 0, 0⟩) (((fun s : State => { s with enumerated := true, keys := [] })) ((reg 32 8) (agent))), ⟨(ready_iss (by decide +kernel)), ⟨by decide +kernel, by decide +kernel, by decide +kernel, knows_of (by decide +kernel) (by decide +kernel) (by decide +kernel) hf, by decide +kernel⟩⟩⟩⟩⟩,
   ⟨{}, ⟨0, by decide +kernel⟩⟩,
   ⟨⟨7, false, 16, 32, 0, 0, 0, false, false, false, 0, 0⟩, ⟨agent, ⟨iss (.kyclose ⟨7, false, 16, 32, 0, 0, 0, false, false, false, 0, 0⟩) (agent), ⟨(ready_iss (by decide +kernel)), by decide +kernel⟩⟩⟩⟩,
   ⟨⟨7, false, 16, 32, 0, 0, 0, false, false, false, 0, 0⟩, ⟨((fun s : State => { s with enumerated := true, keys := [(0, 1, 0)] })) (agent), ⟨iss (.kyclose ⟨7, false, 16, 32, 0, 0, 0, false, false, false, 0, 0⟩) (((fun s : State => { s with enumerated := true, keys := [(0, 1, 0)] })) (agent)), ⟨(ready_iss (by decide +kernel)), by decide +kernel⟩⟩⟩⟩,
   ⟨⟨7, false, 16, 0, false, false, 0, 0, 0⟩, ⟨agent, ⟨iss (.fmcand ⟨7, false, 16, 0, false, false, 0, 0, 0⟩) (agent), ⟨(ready_iss (by decide +kernel)), by decide +kernel⟩⟩⟩⟩,
   ⟨⟨7, false, 16, 32, 48, 0, 3, true, 0, 0⟩, ⟨(reg 48 0x200000) ((reg 32 0x100000) ((reg 16 524288) (agent))), ⟨iss (.exmig ⟨7, false, 16, 32, 48, 0, 3, true, 0, 0⟩) ((reg 48 0x200000) ((reg 32 0x100000) ((reg 16 524288) (agent)))), ⟨(ready_iss (by decide +kernel)), ⟨by decide +kernel, ⟨by decide +kernel, ⟨(placed_of (by decide +kernel)), by decide +kernel⟩⟩⟩⟩⟩⟩⟩,
   ⟨⟨7, false, 16, 32, 48, 0, 3, true, 0, 0⟩, ⟨((fun s : State => { s with cur := { s.cur with lanes := 3 } })) ((wv (fun w => { w with threads := w.threads ++ [(1, here)] })) ((reg 32 1) (agent))), ⟨iss (.exmig ⟨7, false, 16, 32, 48, 0, 3, true, 0, 0⟩) (((fun s : State => { s with cur := { s.cur with lanes := 3 } })) ((wv (fun w => { w with threads := w.threads ++ [(1, here)] })) ((reg 32 1) (agent)))), ⟨(ready_iss (by decide +kernel)), by decide +kernel⟩⟩⟩⟩,
   ⟨⟨7, false, 16, 32, 48, 0, 3, true, 0, 0⟩, ⟨(wv (fun w => { w with storeq := [{ slot := 0, bytes := [⟨.mem 0x100000, 1, 0⟩] }] })) ((reg 48 0x200000) ((reg 32 0x100000) ((reg 16 524288) (agent)))), ⟨iss (.exmig ⟨7, false, 16, 32, 48, 0, 3, true, 0, 0⟩) ((wv (fun w => { w with storeq := [{ slot := 0, bytes := [⟨.mem 0x100000, 1, 0⟩] }] })) ((reg 48 0x200000) ((reg 32 0x100000) ((reg 16 524288) (agent))))), ⟨(ready_iss (by decide +kernel)), by decide +kernel⟩⟩⟩⟩,
   ⟨((fun s : State => { s with windows := [(0, 0, 0)] })) (({} : State)), by decide +kernel⟩⟩
theorem test_LaneEvents_met :
    (∃ s : State, ∃ c : Nat, ∃ w : Nat, ∃ l : Nat, (s.thread c w l).mode = .paused ∧ (s.thread c w l).wake ≤ s.cycles) ∧
    (∃ s : State, ∃ c : Nat, ∃ w : Nat, ∃ l : Nat, ((s.thread c w l).mode ≠ .paused ∨ s.cycles < (s.thread c w l).wake)) ∧
    (∃ s : State, ∃ c : Nat, ∃ w : Nat, ∃ e : Nat, ∃ j, (s.weave c w).joins[e]? = some j ∧ True) ∧
    (∃ s : State, ∃ c : Nat, ∃ w : Nat, ∃ n : Nat, ∃ k, (s.weave c w).colls[n]? = some k ∧ (s.weave c w).collReady k = true ∧ (∀ l, k.joined.getLsbD l = true → (s.thread c w l).enables = 0)) ∧
    (∃ s : State, ∃ c : Nat, ∃ w : Nat, ∃ n : Nat, ∃ k : Coll, (s.weave c w).colls[n]? = some k ∧ (s.weave c w).collReady k = true ∧ ∃ o, k.instr = (.shfl o) ∧ trapping (fun x l => { w := { d := some (if x.ex.contains (x.c l) then x.a (x.c l) else x.a l) }, ex := 0 }) (k.issue s c w) = []) ∧
    (∃ s : State, ∃ c : Nat, ∃ w : Nat, ∃ n : Nat, ∃ k : Coll, (s.weave c w).colls[n]? = some k ∧ (s.weave c w).collReady k = true ∧ ∃ o, k.instr = (.shup o) ∧ trapping (fun x l => { w := { d := some (if x.uimm ≤ l ∧ x.ex.contains (l - x.uimm) then x.a (l - x.uimm) else x.a l) }, ex := 0 }) (k.issue s c w) = []) ∧
    (∃ s : State, ∃ c : Nat, ∃ w : Nat, ∃ n : Nat, ∃ k : Coll, (s.weave c w).colls[n]? = some k ∧ (s.weave c w).collReady k = true ∧ ∃ o, k.instr = (.shdn o) ∧ trapping (fun x l => { w := { d := some (if x.ex.contains (l + x.uimm) then x.a (l + x.uimm) else x.a l) }, ex := 0 }) (k.issue s c w) = []) ∧
    (∃ s : State, ∃ c : Nat, ∃ w : Nat, ∃ n : Nat, ∃ k : Coll, (s.weave c w).colls[n]? = some k ∧ (s.weave c w).collReady k = true ∧ ∃ o, k.instr = (.shxor o) ∧ trapping (fun x l => { w := { d := some (if x.ex.contains (l ^^^ x.uimm) then x.a (l ^^^ x.uimm) else x.a l) }, ex := 0 }) (k.issue s c w) = []) ∧
    (∃ s : State, ∃ c : Nat, ∃ w : Nat, ∃ n : Nat, ∃ k : Coll, (s.weave c w).colls[n]? = some k ∧ (s.weave c w).collReady k = true ∧ ∃ o, k.instr = (.vote o) ∧ trapping (fun x _ => { w := { p := some (match x.f.c.toNat % 4 with | 0 => x.ex.all (fun l => x.predOf x.f.a l) | 1 => x.ex.any (fun l => x.predOf x.f.a l) | _ => x.ex.all (fun l => x.predOf x.f.a l) || x.ex.all (fun l => !x.predOf x.f.a l)) }, ex := 0 }) (k.issue s c w) = []) ∧
    (∃ s : State, ∃ c : Nat, ∃ w : Nat, ∃ n : Nat, ∃ k : Coll, (s.weave c w).colls[n]? = some k ∧ (s.weave c w).collReady k = true ∧ ∃ o, k.instr = (.ballot o) ∧ trapping (fun x _ => { w := { d := some (maskOf (x.ex.filter (fun l => x.predOf x.f.a l))).toNat }, ex := 0 }) (k.issue s c w) = []) ∧
    (∃ s : State, ∃ c : Nat, ∃ w : Nat, ∃ n : Nat, ∃ k : Coll, (s.weave c w).colls[n]? = some k ∧ (s.weave c w).collReady k = true ∧ ∃ o, k.instr = (.scan o) ∧ trapping (fun x l => let before := x.ex.filter (fun k => if x.f.c.getLsbD 3 then decide (k < l) else decide (k ≤ l)); { w := { d := some (before.foldl (fun v k => scanStep (x.f.c.toNat % 8) x.f.ty x.sat v (x.a k)) (scanId (x.f.c.toNat % 8) x.f.ty)) }, ex := 0 }) (k.issue s c w) = []) ∧
    (∃ s : State, ∃ c : Nat, ∃ w : Nat, ∃ n : Nat, ∃ k : Coll, (s.weave c w).colls[n]? = some k ∧ (s.weave c w).collReady k = true ∧ ∃ o, k.instr = (.bqnt o) ∧ trapping (fun x l => if x.ex.any (fun k => (fVal 0 (x.a k)).isNaN || (fVal 0 (x.a k)).isInf) then { w := { d := some 0xFF00 }, ex := exIV } else let sc := blockScale x.f.ty (x.ex.map (fun k => fVal 0 (x.a k))); let e := blockElem x.f.ty (x.rnd l) sc (fVal 0 (x.a l)); { w := { d := some ((sc + 127).toNat * 2 ^ 8 + e.1) }, ex := e.2 }) (k.issue s c w) = []) ∧
    (∃ s : State, ∃ c : Nat, ∃ w : Nat, ∃ n : Nat, ∃ k : Coll, (s.weave c w).colls[n]? = some k ∧ (s.weave c w).collReady k = true ∧ ∃ o, k.instr = (.fredAdd o) ∧ trapping (fun x l => ((fredVals (fun x a b => fAddV x.rdn a b) x).lookup l).getD { w := {}, ex := 0 }) (k.issue s c w) = []) ∧
    (∃ s : State, ∃ c : Nat, ∃ w : Nat, ∃ n : Nat, ∃ k : Coll, (s.weave c w).colls[n]? = some k ∧ (s.weave c w).collReady k = true ∧ ∃ o, k.instr = (.fredMin o) ∧ trapping (fun x l => ((fredVals (fun _ a b => (fPick false a b).res) x).lookup l).getD { w := {}, ex := 0 }) (k.issue s c w) = []) ∧
    (∃ s : State, ∃ c : Nat, ∃ w : Nat, ∃ n : Nat, ∃ k : Coll, (s.weave c w).colls[n]? = some k ∧ (s.weave c w).collReady k = true ∧ ∃ o, k.instr = (.fredMax o) ∧ trapping (fun x l => ((fredVals (fun _ a b => (fPick true a b).res) x).lookup l).getD { w := {}, ex := 0 }) (k.issue s c w) = []) :=
  ⟨⟨(th (fun t => { t with mode := .paused, wake := 0 })) (D), ⟨0, ⟨0, ⟨0, by decide +kernel⟩⟩⟩⟩,
   ⟨(th (fun t => { t with mode := .paused, wake := 1000 })) (D), ⟨0, ⟨0, ⟨0, by decide +kernel⟩⟩⟩⟩,
   ⟨(wv (fun w => { w with joins := [⟨0x100, 0, 1, 1⟩] })) (D), ⟨0, ⟨0, ⟨0, ex_some (by decide +kernel) (trivial)⟩⟩⟩⟩,
   ⟨(wv (fun w => { w with colls := [{ pc := 0x108, mask := 1, instr := .ballot ⟨7, false, 16, 0, 48, 0, 0, false, false, false, 0, 0⟩, joined := 1 }] })) (D), ⟨0, ⟨0, ⟨0, ⟨{ pc := 0x108, mask := 1, instr := .ballot ⟨7, false, 16, 0, 48, 0, 0, false, false, false, 0, 0⟩, joined := 1 }, ⟨by decide +kernel, ⟨by decide +kernel, (fun l h => by have : l = 0 := by { by_contra hl; revert h; cases l with | zero => exact absurd rfl hl | succ l => simp [BitVec.getLsbD, Nat.testBit_succ] }; subst this; decide +kernel)⟩⟩⟩⟩⟩⟩⟩,
   ⟨(wv (fun w => { w with colls := [{ pc := 0x108, mask := 1, instr := .shfl ⟨7, false, 16, 32, 48, 64, 0, false, false, false, 4, 0⟩, joined := 1 }] })) (D), ⟨0, ⟨0, ⟨0, ⟨{ pc := 0x108, mask := 1, instr := .shfl ⟨7, false, 16, 32, 48, 64, 0, false, false, false, 4, 0⟩, joined := 1 }, ⟨by decide +kernel, ⟨by decide +kernel, ⟨⟨7, false, 16, 32, 48, 64, 0, false, false, false, 4, 0⟩, by decide +kernel⟩⟩⟩⟩⟩⟩⟩⟩,
   ⟨(wv (fun w => { w with colls := [{ pc := 0x108, mask := 1, instr := .shup ⟨7, false, 16, 32, 48, 5, false, false, 4, 0⟩, joined := 1 }] })) (D), ⟨0, ⟨0, ⟨0, ⟨{ pc := 0x108, mask := 1, instr := .shup ⟨7, false, 16, 32, 48, 5, false, false, 4, 0⟩, joined := 1 }, ⟨by decide +kernel, ⟨by decide +kernel, ⟨⟨7, false, 16, 32, 48, 5, false, false, 4, 0⟩, by decide +kernel⟩⟩⟩⟩⟩⟩⟩⟩,
   ⟨(wv (fun w => { w with colls := [{ pc := 0x108, mask := 1, instr := .shdn ⟨7, false, 16, 32, 48, 5, false, false, 4, 0⟩, joined := 1 }] })) (D), ⟨0, ⟨0, ⟨0, ⟨{ pc := 0x108, mask := 1, instr := .shdn ⟨7, false, 16, 32, 48, 5, false, false, 4, 0⟩, joined := 1 }, ⟨by decide +kernel, ⟨by decide +kernel, ⟨⟨7, false, 16, 32, 48, 5, false, false, 4, 0⟩, by decide +kernel⟩⟩⟩⟩⟩⟩⟩⟩,
   ⟨(wv (fun w => { w with colls := [{ pc := 0x108, mask := 1, instr := .shxor ⟨7, false, 16, 32, 48, 5, false, false, 4, 0⟩, joined := 1 }] })) (D), ⟨0, ⟨0, ⟨0, ⟨{ pc := 0x108, mask := 1, instr := .shxor ⟨7, false, 16, 32, 48, 5, false, false, 4, 0⟩, joined := 1 }, ⟨by decide +kernel, ⟨by decide +kernel, ⟨⟨7, false, 16, 32, 48, 5, false, false, 4, 0⟩, by decide +kernel⟩⟩⟩⟩⟩⟩⟩⟩,
   ⟨(wv (fun w => { w with colls := [{ pc := 0x108, mask := 1, instr := .vote ⟨7, false, 0, 0, 48, 0, 0, false, false, false, 0, 0⟩, joined := 1 }] })) (D), ⟨0, ⟨0, ⟨0, ⟨{ pc := 0x108, mask := 1, instr := .vote ⟨7, false, 0, 0, 48, 0, 0, false, false, false, 0, 0⟩, joined := 1 }, ⟨by decide +kernel, ⟨by decide +kernel, ⟨⟨7, false, 0, 0, 48, 0, 0, false, false, false, 0, 0⟩, by decide +kernel⟩⟩⟩⟩⟩⟩⟩⟩,
   ⟨(wv (fun w => { w with colls := [{ pc := 0x108, mask := 1, instr := .ballot ⟨7, false, 16, 0, 48, 0, 0, false, false, false, 0, 0⟩, joined := 1 }] })) (D), ⟨0, ⟨0, ⟨0, ⟨{ pc := 0x108, mask := 1, instr := .ballot ⟨7, false, 16, 0, 48, 0, 0, false, false, false, 0, 0⟩, joined := 1 }, ⟨by decide +kernel, ⟨by decide +kernel, ⟨⟨7, false, 16, 0, 48, 0, 0, false, false, false, 0, 0⟩, by decide +kernel⟩⟩⟩⟩⟩⟩⟩⟩,
   ⟨(wv (fun w => { w with colls := [{ pc := 0x108, mask := 1, instr := .scan ⟨7, false, 16, 32, 48, 0, 0, false, false, false, 0, 0⟩, joined := 1 }] })) (D), ⟨0, ⟨0, ⟨0, ⟨{ pc := 0x108, mask := 1, instr := .scan ⟨7, false, 16, 32, 48, 0, 0, false, false, false, 0, 0⟩, joined := 1 }, ⟨by decide +kernel, ⟨by decide +kernel, ⟨⟨7, false, 16, 32, 48, 0, 0, false, false, false, 0, 0⟩, by decide +kernel⟩⟩⟩⟩⟩⟩⟩⟩,
   ⟨(wv (fun w => { w with colls := [{ pc := 0x108, mask := 1, instr := .bqnt ⟨7, false, 16, 32, 48, 0, 0, false, false, false, 4, 0⟩, joined := 1 }] })) (D), ⟨0, ⟨0, ⟨0, ⟨{ pc := 0x108, mask := 1, instr := .bqnt ⟨7, false, 16, 32, 48, 0, 0, false, false, false, 4, 0⟩, joined := 1 }, ⟨by decide +kernel, ⟨by decide +kernel, ⟨⟨7, false, 16, 32, 48, 0, 0, false, false, false, 4, 0⟩, by decide +kernel⟩⟩⟩⟩⟩⟩⟩⟩,
   ⟨(wv (fun w => { w with colls := [{ pc := 0x108, mask := 1, instr := .fredAdd ⟨7, false, 16, 32, 48, 0, 0, false, false, false, 0, 0⟩, joined := 1 }] })) (D), ⟨0, ⟨0, ⟨0, ⟨{ pc := 0x108, mask := 1, instr := .fredAdd ⟨7, false, 16, 32, 48, 0, 0, false, false, false, 0, 0⟩, joined := 1 }, ⟨by decide +kernel, ⟨by decide +kernel, ⟨⟨7, false, 16, 32, 48, 0, 0, false, false, false, 0, 0⟩, by decide +kernel⟩⟩⟩⟩⟩⟩⟩⟩,
   ⟨(wv (fun w => { w with colls := [{ pc := 0x108, mask := 1, instr := .fredMin ⟨7, false, 16, 32, 48, 0, 0, false, false, false, 0, 0⟩, joined := 1 }] })) (D), ⟨0, ⟨0, ⟨0, ⟨{ pc := 0x108, mask := 1, instr := .fredMin ⟨7, false, 16, 32, 48, 0, 0, false, false, false, 0, 0⟩, joined := 1 }, ⟨by decide +kernel, ⟨by decide +kernel, ⟨⟨7, false, 16, 32, 48, 0, 0, false, false, false, 0, 0⟩, by decide +kernel⟩⟩⟩⟩⟩⟩⟩⟩,
   ⟨(wv (fun w => { w with colls := [{ pc := 0x108, mask := 1, instr := .fredMax ⟨7, false, 16, 32, 48, 0, 0, false, false, false, 0, 0⟩, joined := 1 }] })) (D), ⟨0, ⟨0, ⟨0, ⟨{ pc := 0x108, mask := 1, instr := .fredMax ⟨7, false, 16, 32, 48, 0, 0, false, false, false, 0, 0⟩, joined := 1 }, ⟨by decide +kernel, ⟨by decide +kernel, ⟨⟨7, false, 16, 32, 48, 0, 0, false, false, false, 0, 0⟩, by decide +kernel⟩⟩⟩⟩⟩⟩⟩⟩⟩
theorem test_LaneEvents_met2 :
    (∃ s : State, ∃ c : Nat, ∃ w : Nat, ∃ n : Nat, ∃ k : Coll, (s.weave c w).colls[n]? = some k ∧ (s.weave c w).collReady k = true ∧ ∃ o, k.instr = (.bqnt o) ∧ trapping (fun x l => if x.ex.any (fun k => (fVal 0 (x.a k)).isNaN || (fVal 0 (x.a k)).isInf) then { w := { d := some 0xFF00 }, ex := exIV } else let sc := blockScale x.f.ty (x.ex.map (fun k => fVal 0 (x.a k))); let e := blockElem x.f.ty (x.rnd l) sc (fVal 0 (x.a l)); { w := { d := some ((sc + 127).toNat * 2 ^ 8 + e.1) }, ex := e.2 }) (k.issue s c w) ≠ [] ∧ s.rollWaits c w = false) ∧
    (∃ s : State, ∃ c : Nat, ∃ w : Nat, ∃ n : Nat, ∃ k : Coll, (s.weave c w).colls[n]? = some k ∧ (s.weave c w).collReady k = true ∧ ∃ o, k.instr = (.fredAdd o) ∧ trapping (fun x l => ((fredVals (fun x a b => fAddV x.rdn a b) x).lookup l).getD { w := {}, ex := 0 }) (k.issue s c w) ≠ [] ∧ s.rollWaits c w = false) ∧
    (∃ s : State, ∃ c : Nat, ∃ w : Nat, ∃ n : Nat, ∃ k : Coll, (s.weave c w).colls[n]? = some k ∧ (s.weave c w).collReady k = true ∧ ∃ o, k.instr = (.fredMin o) ∧ trapping (fun x l => ((fredVals (fun _ a b => (fPick false a b).res) x).lookup l).getD { w := {}, ex := 0 }) (k.issue s c w) ≠ [] ∧ s.rollWaits c w = false) ∧
    (∃ s : State, ∃ c : Nat, ∃ w : Nat, ∃ n : Nat, ∃ k : Coll, (s.weave c w).colls[n]? = some k ∧ (s.weave c w).collReady k = true ∧ ∃ o, k.instr = (.fredMax o) ∧ trapping (fun x l => ((fredVals (fun _ a b => (fPick true a b).res) x).lookup l).getD { w := {}, ex := 0 }) (k.issue s c w) ≠ [] ∧ s.rollWaits c w = false) ∧
    (∃ s : State, ∃ c : Nat, ∃ w : Nat, ∃ n : Nat, ∃ k, (s.weave c w).colls[n]? = some k ∧ (∃ l, l < 32 ∧ k.mask.getLsbD l = true ∧ k.joined.getLsbD l = false ∧ (s.thread c w l).mode ≠ .exited)) ∧
    (∃ s : State, ∃ c : Nat, ∃ w : Nat, ∃ n : Nat, ∃ p, (s.weave c w).parked[n]? = some p ∧ ∃ a, p.action = some a ∧ True) ∧
    (∃ s : State, ∃ c : Nat, ∃ w : Nat, ∃ n : Nat, ∃ p, (s.weave c w).parked[n]? = some p ∧ p.action = none) ∧
    (∃ s : State, ∃ c : Nat, ∃ n : Nat, ∃ d, (s.core c).deferred[n]? = some d ∧ d.lane < 32 ∧ (s.thread c d.slot d.lane).mode ≠ .exited) ∧
    (∃ s : State, ∃ c : Nat, ∃ w : Nat, ∃ l : Nat, ∃ p, (s.thread c w l).spec = some p ∧ p.conflict = true ∧ s.rollWaits c w = false) ∧
    (∃ s : State, ∃ c : Nat, ∃ w : Nat, ∃ l : Nat, ((∀ p, (s.thread c w l).spec = some p → p.conflict = false) ∨ s.rollWaits c w = true)) ∧
    (∃ s : State, ∃ c : Nat, ∃ w : Nat, ∃ l : Nat, (s.thread c w l).mode = .waiting .retry ∧ ∃ u, (s.thread c w l).watch = some u ∧ ∃ o, u.instr = .waitvEq o ∧ ∃ g, ({ s with cur := { s.cur with core := c, slot := w, lanes := 1#32 <<< l } } : State).group = some g ∧ True) ∧
    (∃ s : State, ∃ c : Nat, ∃ w : Nat, ∃ l : Nat, (s.thread c w l).mode = .waiting .retry ∧ ∃ u, (s.thread c w l).watch = some u ∧ ∃ o, u.instr = .waitvNe o ∧ ∃ g, ({ s with cur := { s.cur with core := c, slot := w, lanes := 1#32 <<< l } } : State).group = some g ∧ True) ∧
    (∃ n : Nat, n < 8) ∧
    (∃ s : State, ∃ i : Nat, ∃ h, s.holds[i]? = some h ∧ h.live s.time = false) ∧
    (∃ s : State, ∃ i : Nat, ∃ h, s.holds[i]? = some h ∧ h.live s.time = true) :=
  ⟨⟨(th (fun t => { t with fpCtl := 0x1F })) ((reg 32 0x7F800001) ((wv (fun w => { w with colls := [{ pc := 0x108, mask := 1, instr := .bqnt ⟨7, false, 16, 32, 48, 0, 0, false, false, false, 4, 0⟩, joined := 1 }] })) (D))), ⟨0, ⟨0, ⟨0, ⟨{ pc := 0x108, mask := 1, instr := .bqnt ⟨7, false, 16, 32, 48, 0, 0, false, false, false, 4, 0⟩, joined := 1 }, ⟨by decide +kernel, ⟨by decide +kernel, ⟨⟨7, false, 16, 32, 48, 0, 0, false, false, false, 4, 0⟩, by decide +kernel⟩⟩⟩⟩⟩⟩⟩⟩,
   ⟨(th (fun t => { t with fpCtl := 0x1F })) ((reg 32 0x7F800001) ((wv (fun w => { w with colls := [{ pc := 0x108, mask := 3, instr := .fredAdd ⟨7, false, 16, 32, 48, 0, 0, false, false, false, 0, 0⟩, joined := 3 }] })) (D2))), ⟨0, ⟨0, ⟨0, ⟨{ pc := 0x108, mask := 3, instr := .fredAdd ⟨7, false, 16, 32, 48, 0, 0, false, false, false, 0, 0⟩, joined := 3 }, ⟨by decide +kernel, ⟨by decide +kernel, ⟨⟨7, false, 16, 32, 48, 0, 0, false, false, false, 0, 0⟩, by decide +kernel⟩⟩⟩⟩⟩⟩⟩⟩,
   ⟨(th (fun t => { t with fpCtl := 0x1F })) ((reg 32 0x7F800001) ((wv (fun w => { w with colls := [{ pc := 0x108, mask := 3, instr := .fredMin ⟨7, false, 16, 32, 48, 0, 0, false, false, false, 0, 0⟩, joined := 3 }] })) (D2))), ⟨0, ⟨0, ⟨0, ⟨{ pc := 0x108, mask := 3, instr := .fredMin ⟨7, false, 16, 32, 48, 0, 0, false, false, false, 0, 0⟩, joined := 3 }, ⟨by decide +kernel, ⟨by decide +kernel, ⟨⟨7, false, 16, 32, 48, 0, 0, false, false, false, 0, 0⟩, by decide +kernel⟩⟩⟩⟩⟩⟩⟩⟩,
   ⟨(th (fun t => { t with fpCtl := 0x1F })) ((reg 32 0x7F800001) ((wv (fun w => { w with colls := [{ pc := 0x108, mask := 3, instr := .fredMax ⟨7, false, 16, 32, 48, 0, 0, false, false, false, 0, 0⟩, joined := 3 }] })) (D2))), ⟨0, ⟨0, ⟨0, ⟨{ pc := 0x108, mask := 3, instr := .fredMax ⟨7, false, 16, 32, 48, 0, 0, false, false, false, 0, 0⟩, joined := 3 }, ⟨by decide +kernel, ⟨by decide +kernel, ⟨⟨7, false, 16, 32, 48, 0, 0, false, false, false, 0, 0⟩, by decide +kernel⟩⟩⟩⟩⟩⟩⟩⟩,
   ⟨(wv (fun w => { w with colls := [{ pc := 0x108, mask := 3, instr := .ballot ⟨7, false, 16, 0, 48, 0, 0, false, false, false, 0, 0⟩, joined := 1 }] })) (D2), ⟨0, ⟨0, ⟨0, ex_some (by decide +kernel) (⟨1, by decide +kernel⟩)⟩⟩⟩⟩,
   ⟨(wv (fun w => { w with parked := [{ lanes := 1, pc := 0x108, page := 0, cause := 1, record := 0, action := some 0 }] })) (D), ⟨0, ⟨0, ⟨0, ex_some (by decide +kernel) (ex_some (by decide +kernel) (trivial))⟩⟩⟩⟩,
   ⟨(wv (fun w => { w with parked := [{ lanes := 1, pc := 0x108, page := 0, cause := 1, record := 0 }] })) (D), ⟨0, ⟨0, ⟨0, ex_some (by decide +kernel) (by decide +kernel)⟩⟩⟩⟩,
   ⟨(cr (fun k => { k with deferred := [{ slot := 0, lane := 0, reg := 16, cnt := 1, val := some 1, pc := 0, va := 0 }] })) (D), ⟨0, ⟨0, ex_some (by decide +kernel) (by decide +kernel)⟩⟩⟩,
   ⟨(th (fun t => { t with spec := some { conflict := true } })) (D), ⟨0, ⟨0, ⟨0, ex_some (by decide +kernel) (by decide +kernel)⟩⟩⟩⟩,
   ⟨(th (fun t => { t with spec := some { conflict := false } })) (D), ⟨0, ⟨0, ⟨0, (.inl fun p h => by cases h; rfl)⟩⟩⟩⟩,
   ⟨(th (fun t => { t with mode := .waiting .retry, watch := some { instr := .waitvEq ⟨7, false, 16, 32, 48, 0, 0, false, false, false, 4, 0⟩, last := 0 } })) (D), ⟨0, ⟨0, ⟨0, ⟨by decide +kernel, ex_some (by decide +kernel) (⟨⟨7, false, 16, 32, 48, 0, 0, false, false, false, 4, 0⟩, ⟨by decide +kernel, ex_some (by decide +kernel) (trivial)⟩⟩)⟩⟩⟩⟩⟩,
   ⟨(th (fun t => { t with mode := .waiting .retry, watch := some { instr := .waitvNe ⟨7, false, 16, 32, 48, 0, 0, false, false, false, 4, 0⟩, last := 0 } })) (D), ⟨0, ⟨0, ⟨0, ⟨by decide +kernel, ex_some (by decide +kernel) (⟨⟨7, false, 16, 32, 48, 0, 0, false, false, false, 4, 0⟩, ⟨by decide +kernel, ex_some (by decide +kernel) (trivial)⟩⟩)⟩⟩⟩⟩⟩,
   ⟨0, by decide +kernel⟩,
   ⟨((fun s : State => { s with holds := [⟨0, 0, 0⟩] })) (({} : State)), ⟨0, ex_some (by decide +kernel) (by decide +kernel)⟩⟩,
   ⟨((fun s : State => { s with holds := [⟨0, 0, 100⟩] })) (({} : State)), ⟨0, ex_some (by decide +kernel) (by decide +kernel)⟩⟩⟩
theorem test_MatrixCommandsRun_met :
    (∃ s : State, ∃ v : State, ∃ core : Nat, v = s.settleSigns core ∧ ∃ y m, v.owner core = some (y, m) ∧ v.findTeam y = some (core, m) ∧ ∃ i : Nat, ∃ c, m.matq[i]? = some c ∧ v.mayStart core y i c = true ∧ startError (v.core core) m c ≠ 0) ∧
    (∃ s : State, ∃ v : State, ∃ core : Nat, v = s.settleSigns core ∧ ∃ y m, v.owner core = some (y, m) ∧ v.findTeam y = some (core, m) ∧ ∃ i : Nat, ∃ c, m.matq[i]? = some c ∧ v.mayStart core y i c = true ∧ startError (v.core core) m c = 0) ∧
    (∃ s : State, ∃ v : State, ∃ core : Nat, v = s.settleSigns core ∧ ∃ y m, v.owner core = some (y, m) ∧ v.findTeam y = some (core, m) ∧ ∃ i : Nat, ∃ c, m.matq[i]? = some c ∧ v.mayStart core y i c = false) ∧
    (∃ s : State, ∃ core : Nat, ∃ y m, s.owner core = some (y, m) ∧ s.findTeam y = some (core, m) ∧ ∃ i : Nat, ∃ c, m.matq[i]? = some c ∧ c.started = true ∧ m.arrayStopped c = false ∧ c.done < c.rows ∧ rowsPoisoned m c c.done (min c.rows (c.done + 32)) = true) ∧
    (∃ s : State, ∃ core : Nat, ∃ y m, s.owner core = some (y, m) ∧ s.findTeam y = some (core, m) ∧ ∃ i : Nat, ∃ c, m.matq[i]? = some c ∧ c.started = true ∧ m.arrayStopped c = false ∧ c.done < c.rows ∧ rowsPoisoned m c c.done (min c.rows (c.done + 32)) = false) ∧
    (∃ s : State, ∃ core : Nat, ∃ y m, s.owner core = some (y, m) ∧ s.findTeam y = some (core, m) ∧ ∃ i : Nat, ∃ c, m.matq[i]? = some c ∧ (c.started = false ∨ c.rows ≤ c.done ∨ m.arrayStopped c = true)) ∧
    (∃ c : MatCmd, ∃ o, c.instr = .mmul o ∧ ∃ n : Nat, n < 192) ∧
    (∃ c : MatCmd, ∃ o, c.instr = .mmulz o ∧ ∃ n : Nat, n < 192) ∧
    (∃ c : MatCmd, ∃ o, c.instr = .acld o ∧ ∃ n : Nat, n < 192) ∧
    (∃ c : MatCmd, ∃ o, c.instr = .acsclRow o ∧ ∃ n : Nat, n < 192) ∧
    (∃ c : MatCmd, ∃ o, c.instr = .acsclCol o ∧ ∃ n : Nat, n < 192) ∧
    (∃ c : MatCmd, ∃ o, c.instr = .acbias o ∧ ∃ n : Nat, n < 192) ∧
    (∃ c : MatCmd, ∃ o, c.instr = .acnrm o ∧ ∃ n : Nat, n < 192) ∧
    (∃ c : MatCmd, ∃ o, c.instr = .acnrm o) ∧
    (∃ c : MatCmd, ∃ o, c.instr = .acredMax o) :=
  ⟨⟨(tm (fun t => { t with matq := [{ id := 1, instr := .mmul ⟨7, false, 3, 32, 48, 2, 3, true, 0, 0⟩, pc := 0, cv := 0, ph := 0, rows := 32, stride := 192, slot := 2, released := true }], tslots := [(2, { st := .ready, base := some 0, len := 16384 })] })) (D), ⟨((tm (fun t => { t with matq := [{ id := 1, instr := .mmul ⟨7, false, 3, 32, 48, 2, 3, true, 0, 0⟩, pc := 0, cv := 0, ph := 0, rows := 32, stride := 192, slot := 2, released := true }], tslots := [(2, { st := .ready, base := some 0, len := 16384 })] })) (D)).settleSigns 0, ⟨0, ⟨rfl, ex_pair (by decide +kernel) (⟨by decide +kernel, ⟨0, ex_some (by decide +kernel) (by decide +kernel)⟩⟩)⟩⟩⟩⟩,
   ⟨(tm (fun t => { t with matq := [{ id := 1, instr := .mswap ⟨7, false, 3, 0, 0, 0, 0, false, 0, 0⟩, pc := 0, cv := 0, ph := 0, rows := 32, stride := 192, released := true }] })) (D), ⟨((tm (fun t => { t with matq := [{ id := 1, instr := .mswap ⟨7, false, 3, 0, 0, 0, 0, false, 0, 0⟩, pc := 0, cv := 0, ph := 0, rows := 32, stride := 192, released := true }] })) (D)).settleSigns 0, ⟨0, ⟨rfl, ex_pair (by decide +kernel) (⟨by decide +kernel, ⟨0, ex_some (by decide +kernel) (by decide +kernel)⟩⟩)⟩⟩⟩⟩,
   ⟨(tm (fun t => { t with matq := [{ id := 1, instr := .mswap ⟨7, false, 3, 0, 0, 0, 0, false, 0, 0⟩, pc := 0, cv := 0, ph := 0, rows := 32, stride := 192 }] })) (D), ⟨((tm (fun t => { t with matq := [{ id := 1, instr := .mswap ⟨7, false, 3, 0, 0, 0, 0, false, 0, 0⟩, pc := 0, cv := 0, ph := 0, rows := 32, stride := 192 }] })) (D)).settleSigns 0, ⟨0, ⟨rfl, ex_pair (by decide +kernel) (⟨by decide +kernel, ⟨0, ex_some (by decide +kernel) (by decide +kernel)⟩⟩)⟩⟩⟩⟩,
   ⟨(tm (fun t => { t with matq := [{ id := 1, instr := .acld ⟨7, false, 3, 32, 48, 2, 3, true, 0, 0⟩, pc := 0, cv := 0, ph := 0, rows := 32, stride := 192, started := true }], opPoison := [0] })) (D), ⟨0, ex_pair (by decide +kernel) (⟨by decide +kernel, ⟨0, ex_some (by decide +kernel) (by decide +kernel)⟩⟩)⟩⟩,
   ⟨(tm (fun t => { t with matq := [{ id := 1, instr := .acld ⟨7, false, 3, 32, 48, 2, 3, true, 0, 0⟩, pc := 0, cv := 0, ph := 0, rows := 32, stride := 192, started := true }] })) (D), ⟨0, ex_pair (by decide +kernel) (⟨by decide +kernel, ⟨0, ex_some (by decide +kernel) (by decide +kernel)⟩⟩)⟩⟩,
   ⟨(tm (fun t => { t with matq := [{ id := 1, instr := .acld ⟨7, false, 3, 32, 48, 2, 3, true, 0, 0⟩, pc := 0, cv := 0, ph := 0, rows := 32, stride := 192 }] })) (D), ⟨0, ex_pair (by decide +kernel) (⟨by decide +kernel, ⟨0, ex_some (by decide +kernel) (by decide +kernel)⟩⟩)⟩⟩,
   ⟨{ id := 1, instr := .mmul ⟨7, false, 3, 32, 48, 2, 3, true, 0, 0⟩, pc := 0, cv := 0, ph := 0, rows := 32, stride := 192 }, ⟨⟨7, false, 3, 32, 48, 2, 3, true, 0, 0⟩, ⟨by decide +kernel, ⟨191, by decide +kernel⟩⟩⟩⟩,
   ⟨{ id := 1, instr := .mmulz ⟨7, false, 3, 32, 48, 2, 3, true, 0, 0⟩, pc := 0, cv := 0, ph := 0, rows := 32, stride := 192 }, ⟨⟨7, false, 3, 32, 48, 2, 3, true, 0, 0⟩, ⟨by decide +kernel, ⟨191, by decide +kernel⟩⟩⟩⟩,
   ⟨{ id := 1, instr := .acld ⟨7, false, 3, 32, 48, 2, 3, true, 0, 0⟩, pc := 0, cv := 0, ph := 0, rows := 32, stride := 192 }, ⟨⟨7, false, 3, 32, 48, 2, 3, true, 0, 0⟩, ⟨by decide +kernel, ⟨191, by decide +kernel⟩⟩⟩⟩,
   ⟨{ id := 1, instr := .acsclRow ⟨7, false, 3, 32, 48, 2, 3, true, 0, 0⟩, pc := 0, cv := 0, ph := 0, rows := 32, stride := 192 }, ⟨⟨7, false, 3, 32, 48, 2, 3, true, 0, 0⟩, ⟨by decide +kernel, ⟨191, by decide +kernel⟩⟩⟩⟩,
   ⟨{ id := 1, instr := .acsclCol ⟨7, false, 3, 32, 48, 2, 3, true, 0, 0⟩, pc := 0, cv := 0, ph := 0, rows := 32, stride := 192 }, ⟨⟨7, false, 3, 32, 48, 2, 3, true, 0, 0⟩, ⟨by decide +kernel, ⟨191, by decide +kernel⟩⟩⟩⟩,
   ⟨{ id := 1, instr := .acbias ⟨7, false, 3, 32, 48, 2, 3, true, 0, 0⟩, pc := 0, cv := 0, ph := 0, rows := 32, stride := 192 }, ⟨⟨7, false, 3, 32, 48, 2, 3, true, 0, 0⟩, ⟨by decide +kernel, ⟨191, by decide +kernel⟩⟩⟩⟩,
   ⟨{ id := 1, instr := .acnrm ⟨7, false, 3, 32, 48, 2, 3, true, 0, 0⟩, pc := 0, cv := 0, ph := 0, rows := 32, stride := 192 }, ⟨⟨7, false, 3, 32, 48, 2, 3, true, 0, 0⟩, ⟨by decide +kernel, ⟨191, by decide +kernel⟩⟩⟩⟩,
   ⟨{ id := 1, instr := .acnrm ⟨7, false, 3, 32, 48, 2, 3, true, 0, 0⟩, pc := 0, cv := 0, ph := 0, rows := 32, stride := 192 }, ⟨⟨7, false, 3, 32, 48, 2, 3, true, 0, 0⟩, by decide +kernel⟩⟩,
   ⟨{ id := 1, instr := .acredMax ⟨7, false, 3, 32, 48, 2, 3, true, 0, 0⟩, pc := 0, cv := 0, ph := 0, rows := 32, stride := 192 }, ⟨⟨7, false, 3, 32, 48, 2, 3, true, 0, 0⟩, by decide +kernel⟩⟩⟩
theorem test_MatrixCommandsRun_met2 :
    (∃ c : MatCmd, ∃ o, c.instr = .acredSum o) ∧
    (∃ c : MatCmd, ∃ o, c.instr = .acst o ∧ c.bs = false) ∧
    (∃ c : MatCmd, ∃ o, c.instr = .acst o ∧ c.bs = true ∧ ∃ r : Nat, r < c.rows) ∧
    (∃ bits : Nat, ∃ cs : List Nat, (∀ v ∈ cs, v < 2 ^ bits) ∧ cs.length * bits % 8 = 0) ∧
    (∃ s : State, ∃ core : Nat, ∃ y m, s.owner core = some (y, m) ∧ s.findTeam y = some (core, m) ∧ ∃ i : Nat, ∃ c, m.matq[i]? = some c ∧ c.started = true ∧ m.arrayStopped c = false ∧ ∃ o, c.instr = .mswap o) ∧
    (∃ s : State, ∃ core : Nat, ∃ y m, s.owner core = some (y, m) ∧ s.findTeam y = some (core, m) ∧ ∃ i : Nat, ∃ c, m.matq[i]? = some c ∧ c.started = true ∧ m.arrayStopped c = false ∧ ∃ o, c.instr = .mlds o ∧ m.bufPoison c.base c.bytes = false) ∧
    (∃ s : State, ∃ core : Nat, ∃ y m, s.owner core = some (y, m) ∧ s.findTeam y = some (core, m) ∧ ∃ i : Nat, ∃ c, m.matq[i]? = some c ∧ c.started = true ∧ m.arrayStopped c = false ∧ ∃ o, c.instr = .mlds o ∧ m.bufPoison c.base c.bytes = true) ∧
    (∃ s : State, ∃ core : Nat, ∃ y m, s.owner core = some (y, m) ∧ s.findTeam y = some (core, m) ∧ ∃ i : Nat, ∃ c, m.matq[i]? = some c ∧ c.started = true ∧ m.arrayStopped c = false ∧ ∃ o, c.instr = .mldl o ∧ c.fault = false ∧ ∃ u ls, s.engineBytes (s.teamAgent core m.ctx (some y)) c.addr c.bytes = (u, .ok ls) ∧ (∀ pa, Loc.mem pa ∈ ls → u.refreshing pa = false ∧ u.recallWaits (some y) false (.mem pa) 1 = false)) ∧
    (∃ s : State, ∃ core : Nat, ∃ y m, s.owner core = some (y, m) ∧ s.findTeam y = some (core, m) ∧ ∃ i : Nat, ∃ c : MatCmd, m.matq[i]? = some c ∧ c.started = true ∧ m.arrayStopped c = false ∧ ∃ o : XForm, c.instr = .mldl o ∧ c.fault = false ∧ ∃ u : State, ∃ va : Nat, ∃ k : Chk, s.engineBytes (s.teamAgent core m.ctx (some y)) c.addr c.bytes = (u, .error (va, k))) ∧
    (∃ s : State, ∃ y : Nat, ∃ core m, s.findTeam y = some (core, m) ∧ ∃ i : Nat, ∃ c : MatCmd, m.matq[i]? = some c) ∧
    (∃ s : State, ∃ core : Nat, ∃ y m, s.owner core = some (y, m) ∧ s.findTeam y = some (core, m) ∧ ∃ i : Nat, ∃ c, m.matq[i]? = some c ∧ c.started = true ∧ m.arrayStopped c = false ∧ ∃ o, c.instr = .mldl o ∧ c.fault = true) ∧
    (∃ s : State, ∃ core : Nat, ∃ y m, s.owner core = some (y, m) ∧ s.findTeam y = some (core, m) ∧ ∃ i : Nat, ∃ c, m.matq[i]? = some c ∧ c.started = true ∧ m.arrayStopped c = false ∧ c.isLoad = false ∧ c.isSwap = false) ∧
    (∃ s : State, ∃ core : Nat, ∃ y m, s.owner core = some (y, m) ∧ s.findTeam y = some (core, m) ∧ ∃ i : Nat, ∃ c, m.matq[i]? = some c ∧ (c.started = false ∨ m.arrayStopped c = true)) ∧
    (∃ s : State, ∃ y : Nat, ∃ core m, s.findTeam y = some (core, m) ∧ ∃ i : Nat, ∃ c, m.matq[i]? = some c ∧ True) :=
  ⟨⟨{ id := 1, instr := .acredSum ⟨7, false, 3, 32, 48, 2, 3, true, 0, 0⟩, pc := 0, cv := 0, ph := 0, rows := 32, stride := 192 }, ⟨⟨7, false, 3, 32, 48, 2, 3, true, 0, 0⟩, by decide +kernel⟩⟩,
   ⟨{ id := 1, instr := .acst ⟨7, false, 3, 32, 48, 2, 3, true, 0, 0⟩, pc := 0, cv := 0, ph := 0, rows := 32, stride := 192 }, ⟨⟨7, false, 3, 32, 48, 2, 3, true, 0, 0⟩, by decide +kernel⟩⟩,
   ⟨{ id := 1, instr := .acst ⟨7, false, 19, 32, 48, 2, 3, true, 0, 0⟩, pc := 0, cv := 0, ph := 0, rows := 32, stride := 192 }, ⟨⟨7, false, 19, 32, 48, 2, 3, true, 0, 0⟩, ⟨by decide +kernel, ⟨by decide +kernel, ⟨0, by decide +kernel⟩⟩⟩⟩⟩,
   ⟨8, ⟨[1, 2], by decide +kernel⟩⟩,
   ⟨(tm (fun t => { t with matq := [{ id := 1, instr := .mswap ⟨7, false, 3, 0, 0, 0, 0, false, 0, 0⟩, pc := 0, cv := 0, ph := 0, rows := 32, stride := 192, started := true }] })) (D), ⟨0, ex_pair (by decide +kernel) (⟨by decide +kernel, ⟨0, ex_some (by decide +kernel) (⟨by decide +kernel, ⟨by decide +kernel, ⟨⟨7, false, 3, 0, 0, 0, 0, false, 0, 0⟩, by decide +kernel⟩⟩⟩)⟩⟩)⟩⟩,
   ⟨(tm (fun t => { t with matq := [{ id := 1, instr := .mlds ⟨7, false, 3, 0, 0, 2, 3, true, 0, 0⟩, pc := 0, cv := 0, ph := 0, rows := 32, stride := 192, started := true }] })) (D), ⟨0, ex_pair (by decide +kernel) (⟨by decide +kernel, ⟨0, ex_some (by decide +kernel) (⟨by decide +kernel, ⟨by decide +kernel, ⟨⟨7, false, 3, 0, 0, 2, 3, true, 0, 0⟩, by decide +kernel⟩⟩⟩)⟩⟩)⟩⟩,
   ⟨(tm (fun t => { t with matq := [{ id := 1, instr := .mlds ⟨7, false, 3, 0, 0, 2, 3, true, 0, 0⟩, pc := 0, cv := 0, ph := 0, rows := 32, stride := 192, started := true }], opPoison := [0] })) (D), ⟨0, ex_pair (by decide +kernel) (⟨by decide +kernel, ⟨0, ex_some (by decide +kernel) (⟨by decide +kernel, ⟨by decide +kernel, ⟨⟨7, false, 3, 0, 0, 2, 3, true, 0, 0⟩, by decide +kernel⟩⟩⟩)⟩⟩)⟩⟩,
   ⟨(cr (fun k => { k with tlb := [{ ctx := 1, va := 0x80000, level := 0, leaf := 0x132F, pte := 0x6008 }] })) (((fun s : State => { s with time := 2000 })) ((tm (fun t => { t with matq := [{ id := 1, instr := .mldl ⟨7, false, 3, 32, 0, 0, 3, true, 0, 0⟩, pc := 0, cv := 0, ph := 0, rows := 32, stride := 192, started := true, addr := 0x80000 }] })) (D))), ⟨0, ex_pair (by decide +kernel) (⟨by decide +kernel, ⟨0, ex_some (by decide +kernel) (⟨by decide +kernel, ⟨by decide +kernel, ⟨⟨7, false, 3, 32, 0, 0, 3, true, 0, 0⟩, ⟨by decide +kernel, ⟨by decide +kernel, engine_go (by decide +kernel) (fun _ => fun pa _ => ⟨calm_refresh (by decide +kernel) (by decide +kernel) pa, calm_recall (by decide +kernel) _ _ _ _⟩)⟩⟩⟩⟩⟩)⟩⟩)⟩⟩,
   ⟨(tm (fun t => { t with matq := [{ id := 1, instr := .mldl ⟨7, false, 3, 32, 0, 0, 3, true, 0, 0⟩, pc := 0, cv := 0, ph := 0, rows := 32, stride := 192, started := true, addr := 0x100000000000000 }] })) (D), ⟨0, ex_pair (by decide +kernel) (⟨by decide +kernel, ⟨0, ⟨{ id := 1, instr := .mldl ⟨7, false, 3, 32, 0, 0, 3, true, 0, 0⟩, pc := 0, cv := 0, ph := 0, rows := 32, stride := 192, started := true, addr := 0x100000000000000 }, ⟨by decide +kernel, ⟨by decide +kernel, ⟨by decide +kernel, ⟨⟨7, false, 3, 32, 0, 0, 3, true, 0, 0⟩, ⟨by decide +kernel, ⟨by decide +kernel, ⟨(((tm (fun t => { t with matq := [{ id := 1, instr := .mldl ⟨7, false, 3, 32, 0, 0, 3, true, 0, 0⟩, pc := 0, cv := 0, ph := 0, rows := 32, stride := 192, started := true, addr := 0x100000000000000 }] })) (D)).engineBytes (((tm (fun t => { t with matq := [{ id := 1, instr := .mldl ⟨7, false, 3, 32, 0, 0, 3, true, 0, 0⟩, pc := 0, cv := 0, ph := 0, rows := 32, stride := 192, started := true, addr := 0x100000000000000 }] })) (D)).teamAgent 0 1 (some 1)) 0x100000000000000 ({ id := 1, instr := .mldl ⟨7, false, 3, 32, 0, 0, 3, true, 0, 0⟩, pc := 0, cv := 0, ph := 0, rows := 32, stride := 192, started := true, addr := 0x100000000000000 } : MatCmd).bytes).1, ⟨0x100000000000000, ⟨.bad 1 8 1, by decide +kernel⟩⟩⟩⟩⟩⟩⟩⟩⟩⟩⟩⟩)⟩⟩,
   ⟨(tm (fun t => { t with matq := [{ id := 1, instr := .mldl ⟨7, false, 3, 32, 0, 0, 3, true, 0, 0⟩, pc := 0, cv := 0, ph := 0, rows := 32, stride := 192 }] })) (D), ⟨1, ex_pair (by decide +kernel) (⟨0, ⟨{ id := 1, instr := .mldl ⟨7, false, 3, 32, 0, 0, 3, true, 0, 0⟩, pc := 0, cv := 0, ph := 0, rows := 32, stride := 192 }, by decide +kernel⟩⟩)⟩⟩,
   ⟨(tm (fun t => { t with matq := [{ id := 1, instr := .mldl ⟨7, false, 3, 32, 0, 0, 3, true, 0, 0⟩, pc := 0, cv := 0, ph := 0, rows := 32, stride := 192, started := true, fault := true }] })) (D), ⟨0, ex_pair (by decide +kernel) (⟨by decide +kernel, ⟨0, ex_some (by decide +kernel) (⟨by decide +kernel, ⟨by decide +kernel, ⟨⟨7, false, 3, 32, 0, 0, 3, true, 0, 0⟩, by decide +kernel⟩⟩⟩)⟩⟩)⟩⟩,
   ⟨(tm (fun t => { t with matq := [{ id := 1, instr := .acld ⟨7, false, 3, 32, 48, 2, 3, true, 0, 0⟩, pc := 0, cv := 0, ph := 0, rows := 32, stride := 192, started := true }] })) (D), ⟨0, ex_pair (by decide +kernel) (⟨by decide +kernel, ⟨0, ex_some (by decide +kernel) (by decide +kernel)⟩⟩)⟩⟩,
   ⟨(tm (fun t => { t with matq := [{ id := 1, instr := .acld ⟨7, false, 3, 32, 48, 2, 3, true, 0, 0⟩, pc := 0, cv := 0, ph := 0, rows := 32, stride := 192 }] })) (D), ⟨0, ex_pair (by decide +kernel) (⟨by decide +kernel, ⟨0, ex_some (by decide +kernel) (by decide +kernel)⟩⟩)⟩⟩,
   ⟨(tm (fun t => { t with matq := [{ id := 1, instr := .acld ⟨7, false, 3, 32, 48, 2, 3, true, 0, 0⟩, pc := 0, cv := 0, ph := 0, rows := 32, stride := 192 }] })) (D), ⟨1, ex_pair (by decide +kernel) (⟨0, ex_some (by decide +kernel) (trivial)⟩)⟩⟩⟩
theorem test_EngineCommandsRun_met :
    (∃ s : State, ∃ core : Nat, ∃ i : Nat, ∃ c, (s.core core).cmds[i]? = some c ∧ c.started = false ∧ (∀ d ∈ (s.core core).cmds.take i, clashes d.spans c.spans = false) ∧ (∀ e ∈ (s.core core).teams, ∀ m ∈ e.2.matq, m.started = true → m.entered < c.id → clashes (m.spans e.2.ctx e.1) c.spans = false) ∧ c.kind ≠ .expf ∧ c.kind ≠ .exwb ∧ c.kind ≠ .cpts ∧ c.kind ≠ .gcpts) ∧
    (∃ s : State, ∃ core : Nat, ∃ i : Nat, ∃ c, (s.core core).cmds[i]? = some c ∧ c.started = false ∧ (∀ d ∈ (s.core core).cmds.take i, clashes d.spans c.spans = false) ∧ (∀ e ∈ (s.core core).teams, ∀ m ∈ e.2.matq, m.started = true → m.entered < c.id → clashes (m.spans e.2.ctx e.1) c.spans = false) ∧ c.kind = .expf ∧ s.leasesWait core c.ctx c.src c.len = false) ∧
    (∃ s : State, ∃ core : Nat, ∃ i : Nat, ∃ c, (s.core core).cmds[i]? = some c ∧ c.started = false ∧ (∀ d ∈ (s.core core).cmds.take i, clashes d.spans c.spans = false) ∧ (∀ e ∈ (s.core core).teams, ∀ m ∈ e.2.matq, m.started = true → m.entered < c.id → clashes (m.spans e.2.ctx e.1) c.spans = false) ∧ c.kind = .exwb ∧ s.leasesWait core c.ctx c.src c.len = false) ∧
    (∃ s : State, ∃ core : Nat, ∃ i : Nat, ∃ c, (s.core core).cmds[i]? = some c ∧ c.started = false ∧ (∀ d ∈ (s.core core).cmds.take i, clashes d.spans c.spans = false) ∧ (∀ e ∈ (s.core core).teams, ∀ m ∈ e.2.matq, m.started = true → m.entered < c.id → clashes (m.spans e.2.ctx e.1) c.spans = false) ∧ (c.kind = .cpts ∨ c.kind = .gcpts) ∧ ∃ y, c.team = some y ∧ (s.findTeam y).isSome = true) ∧
    (∃ s : State, ∃ core : Nat, ∃ i : Nat, ∃ c, (s.core core).cmds[i]? = some c ∧ (c.started = true ∨ (∃ d ∈ (s.core core).cmds.take i, clashes d.spans c.spans = true) ∨ ((c.kind = .expf ∨ c.kind = .exwb) ∧ s.leasesWait core c.ctx c.src c.len = true))) ∧
    (∃ s : State, ∃ core : Nat, ∃ i : Nat, ∃ c, (s.core core).cmds[i]? = some c ∧ ∃ u, (s.core core).nextUnit c = some u ∧ (s.core core).bufs.length < 8 ∧ (∀ d ∈ (s.core core).cmds.take i, (s.core core).nextUnit d = none ∨ s.stopped d.team = true) ∧ s.stopped c.team = false ∧ ∃ v, ∃ bs : List (Byte × Bool), s.unitSource core c u = (v, .data bs) ∧ (∀ b ∈ bs, b.2 = false)) ∧
    (∃ s : State, ∃ core : Nat, ∃ i : Nat, ∃ c, (s.core core).cmds[i]? = some c ∧ ((s.core core).nextUnit c = none ∨ 8 ≤ (s.core core).bufs.length ∨ s.stopped c.team = true)) ∧
    (∃ s : State, ∃ core : Nat, ∃ i : Nat, ∃ c, (s.core core).cmds[i]? = some c ∧ ∃ u, (s.core core).nextUnit c = some u ∧ (s.core core).bufs.length < 8 ∧ (∀ d ∈ (s.core core).cmds.take i, (s.core core).nextUnit d = none ∨ s.stopped d.team = true) ∧ s.stopped c.team = false) ∧
    (∃ c : EngCmd, c.kind = .fill) ∧
    (∃ c : EngCmd, c.gather = none) ∧
    (∃ s : State, ∃ core : Nat, ∃ n : Nat, ∃ b, (s.core core).bufs[n]? = some b ∧ ∃ c, (s.core core).cmds.find? (fun c => c.id = b.cmd) = some c ∧ (c.kind = .cpts ∨ c.kind = .gcpts) ∧ ∃ y, c.team = some y ∧ (s.findTeam y).isSome = true) ∧
    (∃ s : State, ∃ core : Nat, ∃ n : Nat, ∃ b, (s.core core).bufs[n]? = some b ∧ ∃ c, (s.core core).cmds.find? (fun c => c.id = b.cmd) = some c ∧ c.kind = .cpald) ∧
    (∃ s : State, ∃ core : Nat, ∃ n : Nat, ∃ b, (s.core core).bufs[n]? = some b ∧ ∃ c, (s.core core).cmds.find? (fun c => c.id = b.cmd) = some c ∧ (c.kind = .cpy ∨ c.kind = .fill ∨ c.kind = .cpfs ∨ c.kind = .cpast ∨ c.kind = .gcp) ∧ ∃ v, ∃ pas : List Nat, s.engineCheck (s.cmdAgent core c) (engineAcc true) (c.addrs c.dst (c.geom b.unit).1 (c.geom b.unit).2) = (v, pas.map (fun pa => some (.mem pa)), none) ∧ v.placesHeld c.team (pas.map (fun pa => some (.mem pa))) = false ∧ pas.Nodup ∧ pas.length = b.data.length ∧ (∀ pa ∈ pas, v.isLocal pa = true) ∧ v.lcache = []) ∧
    (∃ c : EngCmd, c.kind ≠ .exmig) ∧
    (∃ c : EngCmd, c.kind ≠ .exmig) :=
  ⟨⟨(cr (fun k => { k with cmds := [{ id := 1, entry := 0, kind := .fill, team := some 1, ctx := 1, pc := 0, len := 4, src := 0x80000, dst := 0x80000 }] })) (D), ⟨0, ⟨0, ex_some (by decide +kernel) (by decide +kernel)⟩⟩⟩,
   ⟨(cr (fun k => { k with cmds := [{ id := 1, entry := 0, kind := .expf, team := some 1, ctx := 1, pc := 0, len := 4, src := 0x80000, dst := 0x80000 }] })) (D), ⟨0, ⟨0, ex_some (by decide +kernel) (by decide +kernel)⟩⟩⟩,
   ⟨(cr (fun k => { k with cmds := [{ id := 1, entry := 0, kind := .exwb, team := some 1, ctx := 1, pc := 0, len := 4, src := 0x80000, dst := 0x80000 }] })) (D), ⟨0, ⟨0, ex_some (by decide +kernel) (by decide +kernel)⟩⟩⟩,
   ⟨(cr (fun k => { k with cmds := [{ id := 1, entry := 0, kind := .cpts, team := some 1, ctx := 1, pc := 0, len := 4, src := 0x80000, dst := 0x80000, slot := some 2 }] })) (D), ⟨0, ⟨0, ex_some (by decide +kernel) (⟨by decide +kernel, ⟨by decide +kernel, ⟨by decide +kernel, ⟨by decide +kernel, ex_some (by decide +kernel) (by decide +kernel)⟩⟩⟩⟩)⟩⟩⟩,
   ⟨(cr (fun k => { k with cmds := [{ id := 1, entry := 0, kind := .fill, team := some 1, ctx := 1, pc := 0, len := 4, src := 0x80000, dst := 0x80000, started := true }] })) (D), ⟨0, ⟨0, ex_some (by decide +kernel) (by decide +kernel)⟩⟩⟩,
   ⟨(cr (fun k => { k with cmds := [{ id := 1, entry := 0, kind := .fill, team := some 1, ctx := 1, pc := 0, len := 4, src := 0x80000, dst := 0x80000, started := true }] })) (D), ⟨0, ⟨0, ex_some (by decide +kernel) (ex_some (by decide +kernel) (⟨by decide +kernel, ⟨by decide +kernel, ⟨by decide +kernel, ⟨((cr (fun k => { k with cmds := [{ id := 1, entry := 0, kind := .fill, team := some 1, ctx := 1, pc := 0, len := 4, src := 0x80000, dst := 0x80000, started := true }] })) (D)), ⟨[(0, false), (0, false), (0, false), (0, false)], by decide +kernel⟩⟩⟩⟩⟩))⟩⟩⟩,
   ⟨(cr (fun k => { k with cmds := [{ id := 1, entry := 0, kind := .fill, team := some 1, ctx := 1, pc := 0, len := 4, src := 0x80000, dst := 0x80000 }] })) (D), ⟨0, ⟨0, ex_some (by decide +kernel) (by decide +kernel)⟩⟩⟩,
   ⟨(cr (fun k => { k with cmds := [{ id := 1, entry := 0, kind := .fill, team := some 1, ctx := 1, pc := 0, len := 4, src := 0x80000, dst := 0x80000, started := true }] })) (D), ⟨0, ⟨0, ex_some (by decide +kernel) (ex_some (by decide +kernel) (by decide +kernel))⟩⟩⟩,
   ⟨{ id := 1, entry := 0, kind := .fill, team := some 1, ctx := 1, pc := 0, len := 4, src := 0x80000, dst := 0x80000 }, by decide +kernel⟩,
   ⟨{ id := 1, entry := 0, kind := .fill, team := some 1, ctx := 1, pc := 0, len := 4, src := 0x80000, dst := 0x80000 }, by decide +kernel⟩,
   ⟨(cr (fun k => { k with cmds := [{ id := 1, entry := 0, kind := .cpts, team := some 1, ctx := 1, pc := 0, len := 4, src := 0x80000, dst := 0x80000, slot := some 2, started := true, next := 1 }], bufs := [{ cmd := 1, unit := 0, data := [(1, false), (2, false), (3, false), (4, false)] }] })) (D), ⟨0, ⟨0, ex_some (by decide +kernel) (ex_some (by decide +kernel) (⟨by decide +kernel, ex_some (by decide +kernel) (by decide +kernel)⟩))⟩⟩⟩,
   ⟨(cr (fun k => { k with cmds := [{ id := 1, entry := 0, kind := .cpald, team := some 1, ctx := 1, pc := 0, len := 4, src := 0x80000, dst := 0x80000, started := true, next := 1 }], bufs := [{ cmd := 1, unit := 0, data := [(1, false), (2, false), (3, false), (4, false)] }] })) (D), ⟨0, ⟨0, ex_some (by decide +kernel) (ex_some (by decide +kernel) (by decide +kernel))⟩⟩⟩,
   ⟨(cr (fun k => { k with cmds := [{ id := 1, entry := 0, kind := .fill, team := some 1, ctx := 1, pc := 0, len := 4, src := 0x80000, dst := 0x80000, started := true, next := 1 }], bufs := [{ cmd := 1, unit := 0, data := [(1, false), (2, false), (3, false), (4, false)] }] })) (D), ⟨0, ⟨0, ex_some (by decide +kernel) (ex_some (by decide +kernel) (⟨by decide +kernel, ⟨(((cr (fun k => { k with cmds := [{ id := 1, entry := 0, kind := .fill, team := some 1, ctx := 1, pc := 0, len := 4, src := 0x80000, dst := 0x80000, started := true, next := 1 }], bufs := [{ cmd := 1, unit := 0, data := [(1, false), (2, false), (3, false), (4, false)] }] })) (D)).engineCheck (((cr (fun k => { k with cmds := [{ id := 1, entry := 0, kind := .fill, team := some 1, ctx := 1, pc := 0, len := 4, src := 0x80000, dst := 0x80000, started := true, next := 1 }], bufs := [{ cmd := 1, unit := 0, data := [(1, false), (2, false), (3, false), (4, false)] }] })) (D)).cmdAgent 0 { id := 1, entry := 0, kind := .fill, team := some 1, ctx := 1, pc := 0, len := 4, src := 0x80000, dst := 0x80000, started := true, next := 1 }) (engineAcc true) [0x80000, 0x80001, 0x80002, 0x80003]).1, ⟨[0x100000, 0x100001, 0x100002, 0x100003], by decide +kernel⟩⟩⟩))⟩⟩⟩,
   ⟨{ id := 1, entry := 0, kind := .fill, team := some 1, ctx := 1, pc := 0, len := 4, src := 0x80000, dst := 0x80000 }, by decide +kernel⟩,
   ⟨{ id := 1, entry := 0, kind := .fill, team := some 1, ctx := 1, pc := 0, len := 4, src := 0x80000, dst := 0x80000 }, by decide +kernel⟩⟩
theorem test_RefinementBlocksRun_met :
    (∃ s : State, ∃ die : Nat, (∀ q ∈ (s.die die).blocks, q.started = false ∧ q.fault = false ∧ (q.begun = true → q.code = none)) ∧ ∃ b, (s.die die).blocks.find? (fun b => b.code.isNone) = some b ∧ True) ∧
    (∃ s : State, ∃ die : Nat, ((∃ q ∈ (s.die die).blocks, q.started = true ∨ q.fault = true ∨ (q.begun = true ∧ q.code.isSome = true)) ∨ (∀ q ∈ (s.die die).blocks, q.code.isSome = true))) ∧
    (∃ s : State, ∃ die : Nat, ∃ b, (s.die die).blocks.find? (fun b => b.started && b.code.isNone) = some b ∧ b.fault = true ∧ b.action = none) ∧
    (∃ s : State, ∃ die : Nat, ∃ b, (s.die die).blocks.find? (fun b => b.started && b.code.isNone) = some b ∧ b.fault = true ∧ b.action = some 1 ∧ (s.die die).refStuck = false) ∧
    (∃ s : State, ∃ die : Nat, ∃ b, (s.die die).blocks.find? (fun b => b.started && b.code.isNone) = some b ∧ b.fault = true ∧ b.action = some 2 ∧ (s.die die).refStuck = false) ∧
    (∃ s : State, ∃ die : Nat, ∃ b, (s.die die).blocks.find? (fun b => b.started && b.code.isNone) = some b ∧ (b.fault = false ∨ b.action = some 0) ∧ (s.die die).refStuck = false ∧ b.cancel = true) ∧
    (∃ s : State, ∃ die : Nat, ∃ b, (s.die die).blocks.find? (fun b => b.started && b.code.isNone) = some b ∧ (b.fault = false ∨ b.action = some 0) ∧ (s.die die).refStuck = false ∧ b.cancel = false) ∧
    (∃ s : State, ∃ die : Nat, ∃ b, (s.die die).blocks.find? (s.die die).mayEnd = some b ∧ ∃ bad, b.answered = some bad ∧ (s.die die).refStuck = false) ∧
    (∃ b : RefBlock, b.stage = 0 ∧ b.writesX = none) ∧
    (∃ b : RefBlock, b.stage = 1 ∧ b.kind = 0 ∧ b.begun = true ∧ ∃ s : State, ∃ v : State, s.endWrite b false ((List.range b.wlen).map (b.waddr + ·)) (List.replicate b.wlen 0) = .ok (v, none)) ∧
    (∃ b : RefBlock, b.stage = 0 ∧ ∃ it : Tab Nat, b.writesX = some it) ∧
    (∃ b : RefBlock, b.stage = 0 ∧ ∃ it : Tab Nat, b.writesX = some it ∧ ∃ s : State, ∃ v : State, s.endWrite b false b.xAddrs (b.xBytes it) = .ok (v, none)) ∧
    (∃ b : RefBlock, b.stage = 0 ∧ ∃ it : Tab Nat, b.writesX = some it ∧ ∃ s : State, ∃ v : State, s.endWrite b false b.xAddrs (b.xBytes it) = .ok (v, some 0x11)) ∧
    (∃ b : RefBlock, ∃ i : Nat, i < b.n ∧ ∃ c : Nat, c < b.nrhs ∧ ∃ j : Nat, j < b.esz ∧ (b.fty = 0 ∧ b.esz = 4 ∨ b.fty = 1 ∧ b.esz = 8)) ∧
    (∃ b : RefBlock, b.stage ≠ 0 ∧ b.stage ≠ 1) ∧
    (∃ b : RefBlock, b.stage = 2 ∧ ({ b with deliv := (b.w 6).testBit 53 ∧ False } : RefBlock).deliv = false ∧ ∃ s : State, ∃ v : State, ∃ r : Option Nat, s.endWrite b true ((List.range 64).map (b.saddr + ·)) ((b.record.map (leBytes 8)).flatten) = .ok (v, r)) ∧
    (∃ s : State, ∃ v : State, ∃ b : RefBlock, ∃ as : List Nat, ∃ pas : List Nat, s.engineCheck (s.teamAgent b.core b.ctx (some b.team)) (engineAcc true) as = (v, pas.map (fun pa => some (.mem pa)), none) ∧ v.placesHeld (some b.team) (pas.map (fun pa => some (.mem pa))) = false ∧ (∀ pa ∈ pas, v.memPoison pa = false) ∧ pas.Nodup ∧ ∃ bs : List Byte, pas.length = bs.length ∧ (∀ pa ∈ pas, v.isLocal pa = true) ∧ v.lcache = []) ∧
    (∃ b : RefBlock, b.got = [] ∧ ∃ s : State, ∃ u : State, ∃ bs : List (Byte × Bool), s.engineRead (s.teamAgent b.core b.ctx (some b.team)) (b.wBytes b.wGets) = (u, .data bs)) :=
  ⟨⟨((fun s : State => s.modDie 0 (fun d => { d with blocks := [{ id := 1, kind := 0, core := 0, slot := 0, lane := 0, team := 1, ctx := 1, addr := 0, pc := 0, words := [] }] }))) (({} : State)), ⟨0, ⟨by decide +kernel, ex_some (by decide +kernel) (trivial)⟩⟩⟩,
   ⟨{}, ⟨0, by decide +kernel⟩⟩,
   ⟨((fun s : State => s.modDie 0 (fun d => { d with blocks := [{ id := 1, kind := 0, core := 0, slot := 0, lane := 0, team := 1, ctx := 1, addr := 0, pc := 0, words := [], started := true, fault := true }] }))) (({} : State)), ⟨0, ex_some (by decide +kernel) (by decide +kernel)⟩⟩,
   ⟨((fun s : State => s.modDie 0 (fun d => { d with blocks := [{ id := 1, kind := 0, core := 0, slot := 0, lane := 0, team := 1, ctx := 1, addr := 0, pc := 0, words := [], started := true, fault := true, action := some 1 }] }))) (({} : State)), ⟨0, ex_some (by decide +kernel) (by decide +kernel)⟩⟩,
   ⟨((fun s : State => s.modDie 0 (fun d => { d with blocks := [{ id := 1, kind := 0, core := 0, slot := 0, lane := 0, team := 1, ctx := 1, addr := 0, pc := 0, words := [], started := true, fault := true, action := some 2 }] }))) (({} : State)), ⟨0, ex_some (by decide +kernel) (by decide +kernel)⟩⟩,
   ⟨((fun s : State => s.modDie 0 (fun d => { d with blocks := [{ id := 1, kind := 0, core := 0, slot := 0, lane := 0, team := 1, ctx := 1, addr := 0, pc := 0, words := [], started := true, cancel := true }] }))) (({} : State)), ⟨0, ex_some (by decide +kernel) (by decide +kernel)⟩⟩,
   ⟨((fun s : State => s.modDie 0 (fun d => { d with blocks := [{ id := 1, kind := 0, core := 0, slot := 0, lane := 0, team := 1, ctx := 1, addr := 0, pc := 0, words := [], started := true }] }))) (({} : State)), ⟨0, ex_some (by decide +kernel) (by decide +kernel)⟩⟩,
   ⟨((fun s : State => s.modDie 0 (fun d => { d with blocks := [{ id := 1, kind := 0, core := 0, slot := 0, lane := 0, team := 1, ctx := 1, addr := 0, pc := 0, words := [], started := true, code := some 6 }] }))) (({} : State)), ⟨0, ex_some (by decide +kernel) (ex_some (by decide +kernel) (by decide +kernel))⟩⟩,
   ⟨{ id := 1, kind := 0, core := 0, slot := 0, lane := 0, team := 1, ctx := 1, addr := 0, pc := 0, words := [] }, by decide +kernel⟩,
   ⟨{ id := 1, kind := 0, core := 0, slot := 0, lane := 0, team := 1, ctx := 1, addr := 0, pc := 0, words := [0, 0, 0x80000, 0, 0, 64], stage := 1, begun := true }, ⟨by decide +kernel, ⟨by decide +kernel, ⟨by decide +kernel, ⟨D, ⟨(match (D).endWrite { id := 1, kind := 0, core := 0, slot := 0, lane := 0, team := 1, ctx := 1, addr := 0, pc := 0, words := [0, 0, 0x80000, 0, 0, 64], stage := 1, begun := true } false ((List.range 64).map (0x80000 + ·)) (List.replicate 64 0) with | .ok r => r.1 | .error t => t), by decide +kernel⟩⟩⟩⟩⟩⟩,
   ⟨({ id := 1, kind := 0, core := 0, slot := 0, lane := 0, team := 1, ctx := 1, addr := 0, pc := 0, words := [0x81000, 0x82000, 0x83000, 0x81400, 0x800000008, 8192, 0x100000000, 0x110001], desc := { base := 0x88000, esz := 2, ext := [2, 2], stride := [8, 4] }, code := some 1, result := some (0, []) } : RefBlock), ⟨by decide +kernel, ⟨[], by decide +kernel⟩⟩⟩,
   ⟨({ id := 1, kind := 0, core := 0, slot := 0, lane := 0, team := 1, ctx := 1, addr := 0, pc := 0, words := [0x81000, 0x82000, 0x83000, 0x81400, 0x800000008, 8192, 0x100000000, 0x110001], desc := { base := 0x88000, esz := 2, ext := [2, 2], stride := [8, 4] }, code := some 1, result := some (0, []) } : RefBlock), ⟨by decide +kernel, ⟨[], ⟨by decide +kernel, ⟨(cr (fun k => { k with tlb := [{ ctx := 1, va := 0x80000, level := 0, leaf := 0x132F, pte := 0x6008 }] })) (((fun s : State => { s with time := 2000 })) (D)), ⟨(match (((cr (fun k => { k with tlb := [{ ctx := 1, va := 0x80000, level := 0, leaf := 0x132F, pte := 0x6008 }] })) (((fun s : State => { s with time := 2000 })) (D))).endWrite (({ id := 1, kind := 0, core := 0, slot := 0, lane := 0, team := 1, ctx := 1, addr := 0, pc := 0, words := [0x81000, 0x82000, 0x83000, 0x81400, 0x800000008, 8192, 0x100000000, 0x110001], desc := { base := 0x88000, esz := 2, ext := [2, 2], stride := [8, 4] }, code := some 1, result := some (0, []) } : RefBlock)) false (({ id := 1, kind := 0, core := 0, slot := 0, lane := 0, team := 1, ctx := 1, addr := 0, pc := 0, words := [0x81000, 0x82000, 0x83000, 0x81400, 0x800000008, 8192, 0x100000000, 0x110001], desc := { base := 0x88000, esz := 2, ext := [2, 2], stride := [8, 4] }, code := some 1, result := some (0, []) } : RefBlock)).xAddrs ((({ id := 1, kind := 0, core := 0, slot := 0, lane := 0, team := 1, ctx := 1, addr := 0, pc := 0, words := [0x81000, 0x82000, 0x83000, 0x81400, 0x800000008, 8192, 0x100000000, 0x110001], desc := { base := 0x88000, esz := 2, ext := [2, 2], stride := [8, 4] }, code := some 1, result := some (0, []) } : RefBlock)).xBytes [])) with | .ok r => r.1 | .error t => t), by decide +kernel⟩⟩⟩⟩⟩⟩,
   ⟨({ id := 1, kind := 0, core := 0, slot := 0, lane := 0, team := 1, ctx := 1, addr := 0, pc := 0, words := [0x100000000000000, 0x82000, 0x83000, 0x81400, 0x800000008, 8192, 0x100000000, 0x110001], desc := { base := 0x88000, esz := 2, ext := [2, 2], stride := [8, 4] }, code := some 1, result := some (0, []) } : RefBlock), ⟨by decide +kernel, ⟨[], ⟨by decide +kernel, ⟨(cr (fun k => { k with tlb := [{ ctx := 1, va := 0x80000, level := 0, leaf := 0x132F, pte := 0x6008 }] })) (((fun s : State => { s with time := 2000 })) (D)), ⟨(match (((cr (fun k => { k with tlb := [{ ctx := 1, va := 0x80000, level := 0, leaf := 0x132F, pte := 0x6008 }] })) (((fun s : State => { s with time := 2000 })) (D))).endWrite (({ id := 1, kind := 0, core := 0, slot := 0, lane := 0, team := 1, ctx := 1, addr := 0, pc := 0, words := [0x100000000000000, 0x82000, 0x83000, 0x81400, 0x800000008, 8192, 0x100000000, 0x110001], desc := { base := 0x88000, esz := 2, ext := [2, 2], stride := [8, 4] }, code := some 1, result := some (0, []) } : RefBlock)) false (({ id := 1, kind := 0, core := 0, slot := 0, lane := 0, team := 1, ctx := 1, addr := 0, pc := 0, words := [0x100000000000000, 0x82000, 0x83000, 0x81400, 0x800000008, 8192, 0x100000000, 0x110001], desc := { base := 0x88000, esz := 2, ext := [2, 2], stride := [8, 4] }, code := some 1, result := some (0, []) } : RefBlock)).xAddrs ((({ id := 1, kind := 0, core := 0, slot := 0, lane := 0, team := 1, ctx := 1, addr := 0, pc := 0, words := [0x100000000000000, 0x82000, 0x83000, 0x81400, 0x800000008, 8192, 0x100000000, 0x110001], desc := { base := 0x88000, esz := 2, ext := [2, 2], stride := [8, 4] }, code := some 1, result := some (0, []) } : RefBlock)).xBytes [])) with | .ok r => r.1 | .error t => t), by decide +kernel⟩⟩⟩⟩⟩⟩,
   ⟨({ id := 1, kind := 0, core := 0, slot := 0, lane := 0, team := 1, ctx := 1, addr := 0, pc := 0, words := [0x81000, 0x82000, 0x83000, 0x81400, 0x800000008, 8192, 0x100000000, 0x110001], desc := { base := 0x88000, esz := 2, ext := [2, 2], stride := [8, 4] } } : RefBlock), ⟨1, ⟨by decide +kernel, ⟨0, ⟨by decide +kernel, ⟨3, by decide +kernel⟩⟩⟩⟩⟩⟩,
   ⟨({ id := 1, kind := 0, core := 0, slot := 0, lane := 0, team := 1, ctx := 1, addr := 0, pc := 0, words := [0x81000, 0x82000, 0x83000, 0x81400, 0x800000008, 8192, 0x100000000, 0x110001], desc := { base := 0x88000, esz := 2, ext := [2, 2], stride := [8, 4] }, code := some 1, result := some (0, []), stage := 2 } : RefBlock), by decide +kernel⟩,
   ⟨({ id := 1, kind := 0, core := 0, slot := 0, lane := 0, team := 1, ctx := 1, addr := 0, pc := 0, words := [0x81000, 0x82000, 0x83000, 0x81400, 0x800000008, 8192, 0x100000000, 0x110001], desc := { base := 0x88000, esz := 2, ext := [2, 2], stride := [8, 4] }, code := some 1, result := some (0, []), stage := 2 } : RefBlock), ⟨by decide +kernel, ⟨by decide +kernel, ⟨(cr (fun k => { k with tlb := [{ ctx := 1, va := 0x80000, level := 0, leaf := 0x132F, pte := 0x6008 }] })) (((fun s : State => { s with time := 2000 })) (D)), ⟨(match (((cr (fun k => { k with tlb := [{ ctx := 1, va := 0x80000, level := 0, leaf := 0x132F, pte := 0x6008 }] })) (((fun s : State => { s with time := 2000 })) (D))).endWrite (({ id := 1, kind := 0, core := 0, slot := 0, lane := 0, team := 1, ctx := 1, addr := 0, pc := 0, words := [0x81000, 0x82000, 0x83000, 0x81400, 0x800000008, 8192, 0x100000000, 0x110001], desc := { base := 0x88000, esz := 2, ext := [2, 2], stride := [8, 4] }, code := some 1, result := some (0, []), stage := 2 } : RefBlock)) true ((List.range 64).map ((({ id := 1, kind := 0, core := 0, slot := 0, lane := 0, team := 1, ctx := 1, addr := 0, pc := 0, words := [0x81000, 0x82000, 0x83000, 0x81400, 0x800000008, 8192, 0x100000000, 0x110001], desc := { base := 0x88000, esz := 2, ext := [2, 2], stride := [8, 4] }, code := some 1, result := some (0, []), stage := 2 } : RefBlock)).saddr + ·)) (((({ id := 1, kind := 0, core := 0, slot := 0, lane := 0, team := 1, ctx := 1, addr := 0, pc := 0, words := [0x81000, 0x82000, 0x83000, 0x81400, 0x800000008, 8192, 0x100000000, 0x110001], desc := { base := 0x88000, esz := 2, ext := [2, 2], stride := [8, 4] }, code := some 1, result := some (0, []), stage := 2 } : RefBlock)).record.map (leBytes 8)).flatten)) with | .ok r => r.1 | .error t => t), ⟨none, by decide +kernel⟩⟩⟩⟩⟩⟩,
   ⟨(cr (fun k => { k with tlb := [{ ctx := 1, va := 0x80000, level := 0, leaf := 0x132F, pte := 0x6008 }] })) (((fun s : State => { s with time := 2000 })) (D)), ⟨(((cr (fun k => { k with tlb := [{ ctx := 1, va := 0x80000, level := 0, leaf := 0x132F, pte := 0x6008 }] })) (((fun s : State => { s with time := 2000 })) (D))).engineCheck (((cr (fun k => { k with tlb := [{ ctx := 1, va := 0x80000, level := 0, leaf := 0x132F, pte := 0x6008 }] })) (((fun s : State => { s with time := 2000 })) (D))).teamAgent 0 1 (some 1)) (engineAcc true) [0x80000, 0x80001]).1, ⟨({ id := 1, kind := 0, core := 0, slot := 0, lane := 0, team := 1, ctx := 1, addr := 0, pc := 0, words := [0x81000, 0x82000, 0x83000, 0x81400, 0x800000008, 8192, 0x100000000, 0x110001], desc := { base := 0x88000, esz := 2, ext := [2, 2], stride := [8, 4] } } : RefBlock), ⟨[0x80000, 0x80001], ⟨[0x100000, 0x100001], ⟨by decide +kernel, ⟨by decide +kernel, ⟨by decide +kernel, ⟨by decide +kernel, ⟨[1, 2], by decide +kernel⟩⟩⟩⟩⟩⟩⟩⟩⟩⟩,
   ⟨({ id := 1, kind := 0, core := 0, slot := 0, lane := 0, team := 1, ctx := 1, addr := 0, pc := 0, words := [0x81000, 0x82000, 0x83000, 0x81400, 0x800000008, 8192, 0x100000000, 0x110001], desc := { base := 0x88000, esz := 2, ext := [2, 2], stride := [8, 4] }, pos := .form 0 } : RefBlock), ⟨by decide +kernel, ⟨(cr (fun k => { k with tlb := [{ ctx := 1, va := 0x80000, level := 0, leaf := 0x132F, pte := 0x6008 }] })) (((fun s : State => { s with time := 2000 })) (D)), ⟨(((cr (fun k => { k with tlb := [{ ctx := 1, va := 0x80000, level := 0, leaf := 0x132F, pte := 0x6008 }] })) (((fun s : State => { s with time := 2000 })) (D))).engineRead (((cr (fun k => { k with tlb := [{ ctx := 1, va := 0x80000, level := 0, leaf := 0x132F, pte := 0x6008 }] })) (((fun s : State => { s with time := 2000 })) (D))).teamAgent (({ id := 1, kind := 0, core := 0, slot := 0, lane := 0, team := 1, ctx := 1, addr := 0, pc := 0, words := [0x81000, 0x82000, 0x83000, 0x81400, 0x800000008, 8192, 0x100000000, 0x110001], desc := { base := 0x88000, esz := 2, ext := [2, 2], stride := [8, 4] }, pos := .form 0 } : RefBlock)).core (({ id := 1, kind := 0, core := 0, slot := 0, lane := 0, team := 1, ctx := 1, addr := 0, pc := 0, words := [0x81000, 0x82000, 0x83000, 0x81400, 0x800000008, 8192, 0x100000000, 0x110001], desc := { base := 0x88000, esz := 2, ext := [2, 2], stride := [8, 4] }, pos := .form 0 } : RefBlock)).ctx (some (({ id := 1, kind := 0, core := 0, slot := 0, lane := 0, team := 1, ctx := 1, addr := 0, pc := 0, words := [0x81000, 0x82000, 0x83000, 0x81400, 0x800000008, 8192, 0x100000000, 0x110001], desc := { base := 0x88000, esz := 2, ext := [2, 2], stride := [8, 4] }, pos := .form 0 } : RefBlock)).team)) ((({ id := 1, kind := 0, core := 0, slot := 0, lane := 0, team := 1, ctx := 1, addr := 0, pc := 0, words := [0x81000, 0x82000, 0x83000, 0x81400, 0x800000008, 8192, 0x100000000, 0x110001], desc := { base := 0x88000, esz := 2, ext := [2, 2], stride := [8, 4] }, pos := .form 0 } : RefBlock)).wBytes (({ id := 1, kind := 0, core := 0, slot := 0, lane := 0, team := 1, ctx := 1, addr := 0, pc := 0, words := [0x81000, 0x82000, 0x83000, 0x81400, 0x800000008, 8192, 0x100000000, 0x110001], desc := { base := 0x88000, esz := 2, ext := [2, 2], stride := [8, 4] }, pos := .form 0 } : RefBlock)).wGets)).1, ⟨(match (((cr (fun k => { k with tlb := [{ ctx := 1, va := 0x80000, level := 0, leaf := 0x132F, pte := 0x6008 }] })) (((fun s : State => { s with time := 2000 })) (D))).engineRead (((cr (fun k => { k with tlb := [{ ctx := 1, va := 0x80000, level := 0, leaf := 0x132F, pte := 0x6008 }] })) (((fun s : State => { s with time := 2000 })) (D))).teamAgent (({ id := 1, kind := 0, core := 0, slot := 0, lane := 0, team := 1, ctx := 1, addr := 0, pc := 0, words := [0x81000, 0x82000, 0x83000, 0x81400, 0x800000008, 8192, 0x100000000, 0x110001], desc := { base := 0x88000, esz := 2, ext := [2, 2], stride := [8, 4] }, pos := .form 0 } : RefBlock)).core (({ id := 1, kind := 0, core := 0, slot := 0, lane := 0, team := 1, ctx := 1, addr := 0, pc := 0, words := [0x81000, 0x82000, 0x83000, 0x81400, 0x800000008, 8192, 0x100000000, 0x110001], desc := { base := 0x88000, esz := 2, ext := [2, 2], stride := [8, 4] }, pos := .form 0 } : RefBlock)).ctx (some (({ id := 1, kind := 0, core := 0, slot := 0, lane := 0, team := 1, ctx := 1, addr := 0, pc := 0, words := [0x81000, 0x82000, 0x83000, 0x81400, 0x800000008, 8192, 0x100000000, 0x110001], desc := { base := 0x88000, esz := 2, ext := [2, 2], stride := [8, 4] }, pos := .form 0 } : RefBlock)).team)) ((({ id := 1, kind := 0, core := 0, slot := 0, lane := 0, team := 1, ctx := 1, addr := 0, pc := 0, words := [0x81000, 0x82000, 0x83000, 0x81400, 0x800000008, 8192, 0x100000000, 0x110001], desc := { base := 0x88000, esz := 2, ext := [2, 2], stride := [8, 4] }, pos := .form 0 } : RefBlock)).wBytes (({ id := 1, kind := 0, core := 0, slot := 0, lane := 0, team := 1, ctx := 1, addr := 0, pc := 0, words := [0x81000, 0x82000, 0x83000, 0x81400, 0x800000008, 8192, 0x100000000, 0x110001], desc := { base := 0x88000, esz := 2, ext := [2, 2], stride := [8, 4] }, pos := .form 0 } : RefBlock)).wGets)).2 with | .data e => e | _ => []), by decide +kernel⟩⟩⟩⟩⟩⟩
theorem test_RefinementBlocksRun_met2 :
    (∃ b : RefBlock, b.got = [] ∧ ∃ s : State, ∃ u : State, ∃ bs : List (Byte × Bool), s.engineRead (s.teamAgent b.core b.ctx (some b.team)) (b.wBytes b.wGets) = (u, .data bs) ∧ (∀ e ∈ bs, e.2 = false)) ∧
    (∃ b : RefBlock, ∃ i : Nat, b.pos = .form i ∧ ∃ w : List Byte, b.got = [w] ∧ ∃ s : State, ∃ u : State, ∃ bs : List (Byte × Bool), s.engineRead (s.teamAgent b.core b.ctx (some b.team)) (b.bytesAt (b.rowAddrs i)) = (u, .data bs) ∧ (∀ e ∈ bs, e.2 = false)) ∧
    (∃ b : RefBlock, ∃ vs : List Nat, vs.length ≤ b.n) ∧
    (∃ b : RefBlock, ∃ c : Nat, b.pos = .fwd false c ∧ ∃ w : List Byte, b.got = [w] ∧ ∃ s : State, ∃ u : State, ∃ bs : List (Byte × Bool), s.engineRead (s.teamAgent b.core b.ctx (some b.team)) (b.bytesAt (b.colAddrs b.baddr b.bcs c)) = (u, .data bs) ∧ (∀ e ∈ bs, e.2 = false)) ∧
    (∃ b : RefBlock, ∃ w : List Byte, b.got = [w]) ∧
    (∃ b : RefBlock, ∃ w : List Byte, b.got = [w] ∧ ∃ c : Nat, b.pos = .fwd true c) ∧
    (∃ b : RefBlock, ∃ w : List Byte, b.got = [w] ∧ ∃ c : Nat, b.pos = .bwd true c) ∧
    (∃ b : RefBlock, ∃ w : List Byte, b.got = [w] ∧ ∃ c : Nat, b.pos = .add true c) ∧
    (∃ b : RefBlock, ∃ w : List Byte, b.got = [w] ∧ b.pos = .judge) ∧
    (∃ b : RefBlock, ∃ i : Nat, i < b.n) ∧
    (∃ b : RefBlock, ∃ i : Nat, i < b.n) ∧
    (∃ b : RefBlock, ∃ i : Nat, i < b.n) ∧
    (∃ b : RefBlock, ∃ c : Nat, b.pos = .resid c ∧ ∃ w : List Byte, b.got = [w] ∧ ∃ s : State, ∃ u : State, ∃ bs : List (Byte × Bool), s.engineRead (s.teamAgent b.core b.ctx (some b.team)) (b.bytesAt (b.colAddrs b.baddr b.bcs c ++ ((List.range b.n).map (fun i => (List.range b.n).map (fun k => b.aOf i k))).flatten)) = (u, .data bs) ∧ (∀ e ∈ bs, e.2 = false)) ∧
    (∃ s : State, ∃ v : State, ∃ b : RefBlock, ∃ pas : List Nat, s.engineCheck (s.teamAgent b.core b.ctx (some b.team)) (engineAcc true) (b.wBytes b.wPuts) = (v, pas.map (fun pa => some (.mem pa)), none) ∧ v.placesHeld (some b.team) (pas.map (fun pa => some (.mem pa))) = false ∧ (∀ pa ∈ pas, v.isLocal pa = true) ∧ v.lcache = []) ∧
    (∃ s : State, ∃ i : Nat, ∃ d e, s.refTraps[i]? = some (d, e) ∧ s.posterLives e.core e.slot e.team = false) ∧
    (∃ s : State, ∃ i : Nat, ∃ d e, s.refTraps[i]? = some (d, e) ∧ s.posterLives e.core e.slot e.team = true ∧ ((s.weave e.core e.slot).trH = true ∨ s.rollWaits e.core e.slot = true)) ∧
    (∃ s : State, ∃ i : Nat, ∃ d e, s.refTraps[i]? = some (d, e) ∧ s.posterLives e.core e.slot e.team = true ∧ (s.weave e.core e.slot).trH = false ∧ s.rollWaits e.core e.slot = false) :=
  ⟨⟨({ id := 1, kind := 0, core := 0, slot := 0, lane := 0, team := 1, ctx := 1, addr := 0, pc := 0, words := [0x81000, 0x82000, 0x83000, 0x81400, 0x800000008, 8192, 0x100000000, 0x110001], desc := { base := 0x88000, esz := 2, ext := [2, 2], stride := [8, 4] }, pos := .form 0 } : RefBlock), ⟨by decide +kernel, ⟨(cr (fun k => { k with tlb := [{ ctx := 1, va := 0x80000, level := 0, leaf := 0x132F, pte := 0x6008 }] })) (((fun s : State => { s with time := 2000 })) (D)), ⟨(((cr (fun k => { k with tlb := [{ ctx := 1, va := 0x80000, level := 0, leaf := 0x132F, pte := 0x6008 }] })) (((fun s : State => { s with time := 2000 })) (D))).engineRead (((cr (fun k => { k with tlb := [{ ctx := 1, va := 0x80000, level := 0, leaf := 0x132F, pte := 0x6008 }] })) (((fun s : State => { s with time := 2000 })) (D))).teamAgent (({ id := 1, kind := 0, core := 0, slot := 0, lane := 0, team := 1, ctx := 1, addr := 0, pc := 0, words := [0x81000, 0x82000, 0x83000, 0x81400, 0x800000008, 8192, 0x100000000, 0x110001], desc := { base := 0x88000, esz := 2, ext := [2, 2], stride := [8, 4] }, pos := .form 0 } : RefBlock)).core (({ id := 1, kind := 0, core := 0, slot := 0, lane := 0, team := 1, ctx := 1, addr := 0, pc := 0, words := [0x81000, 0x82000, 0x83000, 0x81400, 0x800000008, 8192, 0x100000000, 0x110001], desc := { base := 0x88000, esz := 2, ext := [2, 2], stride := [8, 4] }, pos := .form 0 } : RefBlock)).ctx (some (({ id := 1, kind := 0, core := 0, slot := 0, lane := 0, team := 1, ctx := 1, addr := 0, pc := 0, words := [0x81000, 0x82000, 0x83000, 0x81400, 0x800000008, 8192, 0x100000000, 0x110001], desc := { base := 0x88000, esz := 2, ext := [2, 2], stride := [8, 4] }, pos := .form 0 } : RefBlock)).team)) ((({ id := 1, kind := 0, core := 0, slot := 0, lane := 0, team := 1, ctx := 1, addr := 0, pc := 0, words := [0x81000, 0x82000, 0x83000, 0x81400, 0x800000008, 8192, 0x100000000, 0x110001], desc := { base := 0x88000, esz := 2, ext := [2, 2], stride := [8, 4] }, pos := .form 0 } : RefBlock)).wBytes (({ id := 1, kind := 0, core := 0, slot := 0, lane := 0, team := 1, ctx := 1, addr := 0, pc := 0, words := [0x81000, 0x82000, 0x83000, 0x81400, 0x800000008, 8192, 0x100000000, 0x110001], desc := { base := 0x88000, esz := 2, ext := [2, 2], stride := [8, 4] }, pos := .form 0 } : RefBlock)).wGets)).1, ⟨(match (((cr (fun k => { k with tlb := [{ ctx := 1, va := 0x80000, level := 0, leaf := 0x132F, pte := 0x6008 }] })) (((fun s : State => { s with time := 2000 })) (D))).engineRead (((cr (fun k => { k with tlb := [{ ctx := 1, va := 0x80000, level := 0, leaf := 0x132F, pte := 0x6008 }] })) (((fun s : State => { s with time := 2000 })) (D))).teamAgent (({ id := 1, kind := 0, core := 0, slot := 0, lane := 0, team := 1, ctx := 1, addr := 0, pc := 0, words := [0x81000, 0x82000, 0x83000, 0x81400, 0x800000008, 8192, 0x100000000, 0x110001], desc := { base := 0x88000, esz := 2, ext := [2, 2], stride := [8, 4] }, pos := .form 0 } : RefBlock)).core (({ id := 1, kind := 0, core := 0, slot := 0, lane := 0, team := 1, ctx := 1, addr := 0, pc := 0, words := [0x81000, 0x82000, 0x83000, 0x81400, 0x800000008, 8192, 0x100000000, 0x110001], desc := { base := 0x88000, esz := 2, ext := [2, 2], stride := [8, 4] }, pos := .form 0 } : RefBlock)).ctx (some (({ id := 1, kind := 0, core := 0, slot := 0, lane := 0, team := 1, ctx := 1, addr := 0, pc := 0, words := [0x81000, 0x82000, 0x83000, 0x81400, 0x800000008, 8192, 0x100000000, 0x110001], desc := { base := 0x88000, esz := 2, ext := [2, 2], stride := [8, 4] }, pos := .form 0 } : RefBlock)).team)) ((({ id := 1, kind := 0, core := 0, slot := 0, lane := 0, team := 1, ctx := 1, addr := 0, pc := 0, words := [0x81000, 0x82000, 0x83000, 0x81400, 0x800000008, 8192, 0x100000000, 0x110001], desc := { base := 0x88000, esz := 2, ext := [2, 2], stride := [8, 4] }, pos := .form 0 } : RefBlock)).wBytes (({ id := 1, kind := 0, core := 0, slot := 0, lane := 0, team := 1, ctx := 1, addr := 0, pc := 0, words := [0x81000, 0x82000, 0x83000, 0x81400, 0x800000008, 8192, 0x100000000, 0x110001], desc := { base := 0x88000, esz := 2, ext := [2, 2], stride := [8, 4] }, pos := .form 0 } : RefBlock)).wGets)).2 with | .data e => e | _ => []), by decide +kernel⟩⟩⟩⟩⟩,
   ⟨({ id := 1, kind := 0, core := 0, slot := 0, lane := 0, team := 1, ctx := 1, addr := 0, pc := 0, words := [0x81000, 0x82000, 0x83000, 0x81400, 0x800000008, 8192, 0x100000000, 0x110001], desc := { base := 0x88000, esz := 2, ext := [2, 2], stride := [8, 4] }, pos := .form 0, got := [[]] } : RefBlock), ⟨0, ⟨by decide +kernel, ⟨[], ⟨by decide +kernel, ⟨(cr (fun k => { k with tlb := [{ ctx := 1, va := 0x80000, level := 0, leaf := 0x132F, pte := 0x6008 }] })) (((fun s : State => { s with time := 2000 })) (D)), ⟨(((cr (fun k => { k with tlb := [{ ctx := 1, va := 0x80000, level := 0, leaf := 0x132F, pte := 0x6008 }] })) (((fun s : State => { s with time := 2000 })) (D))).engineRead (((cr (fun k => { k with tlb := [{ ctx := 1, va := 0x80000, level := 0, leaf := 0x132F, pte := 0x6008 }] })) (((fun s : State => { s with time := 2000 })) (D))).teamAgent (({ id := 1, kind := 0, core := 0, slot := 0, lane := 0, team := 1, ctx := 1, addr := 0, pc := 0, words := [0x81000, 0x82000, 0x83000, 0x81400, 0x800000008, 8192, 0x100000000, 0x110001], desc := { base := 0x88000, esz := 2, ext := [2, 2], stride := [8, 4] }, pos := .form 0, got := [[]] } : RefBlock)).core (({ id := 1, kind := 0, core := 0, slot := 0, lane := 0, team := 1, ctx := 1, addr := 0, pc := 0, words := [0x81000, 0x82000, 0x83000, 0x81400, 0x800000008, 8192, 0x100000000, 0x110001], desc := { base := 0x88000, esz := 2, ext := [2, 2], stride := [8, 4] }, pos := .form 0, got := [[]] } : RefBlock)).ctx (some (({ id := 1, kind := 0, core := 0, slot := 0, lane := 0, team := 1, ctx := 1, addr := 0, pc := 0, words := [0x81000, 0x82000, 0x83000, 0x81400, 0x800000008, 8192, 0x100000000, 0x110001], desc := { base := 0x88000, esz := 2, ext := [2, 2], stride := [8, 4] }, pos := .form 0, got := [[]] } : RefBlock)).team)) ((({ id := 1, kind := 0, core := 0, slot := 0, lane := 0, team := 1, ctx := 1, addr := 0, pc := 0, words := [0x81000, 0x82000, 0x83000, 0x81400, 0x800000008, 8192, 0x100000000, 0x110001], desc := { base := 0x88000, esz := 2, ext := [2, 2], stride := [8, 4] }, pos := .form 0, got := [[]] } : RefBlock)).bytesAt ((({ id := 1, kind := 0, core := 0, slot := 0, lane := 0, team := 1, ctx := 1, addr := 0, pc := 0, words := [0x81000, 0x82000, 0x83000, 0x81400, 0x800000008, 8192, 0x100000000, 0x110001], desc := { base := 0x88000, esz := 2, ext := [2, 2], stride := [8, 4] }, pos := .form 0, got := [[]] } : RefBlock)).rowAddrs 0))).1, ⟨(match (((cr (fun k => { k with tlb := [{ ctx := 1, va := 0x80000, level := 0, leaf := 0x132F, pte := 0x6008 }] })) (((fun s : State => { s with time := 2000 })) (D))).engineRead (((cr (fun k => { k with tlb := [{ ctx := 1, va := 0x80000, level := 0, leaf := 0x132F, pte := 0x6008 }] })) (((fun s : State => { s with time := 2000 })) (D))).teamAgent (({ id := 1, kind := 0, core := 0, slot := 0, lane := 0, team := 1, ctx := 1, addr := 0, pc := 0, words := [0x81000, 0x82000, 0x83000, 0x81400, 0x800000008, 8192, 0x100000000, 0x110001], desc := { base := 0x88000, esz := 2, ext := [2, 2], stride := [8, 4] }, pos := .form 0, got := [[]] } : RefBlock)).core (({ id := 1, kind := 0, core := 0, slot := 0, lane := 0, team := 1, ctx := 1, addr := 0, pc := 0, words := [0x81000, 0x82000, 0x83000, 0x81400, 0x800000008, 8192, 0x100000000, 0x110001], desc := { base := 0x88000, esz := 2, ext := [2, 2], stride := [8, 4] }, pos := .form 0, got := [[]] } : RefBlock)).ctx (some (({ id := 1, kind := 0, core := 0, slot := 0, lane := 0, team := 1, ctx := 1, addr := 0, pc := 0, words := [0x81000, 0x82000, 0x83000, 0x81400, 0x800000008, 8192, 0x100000000, 0x110001], desc := { base := 0x88000, esz := 2, ext := [2, 2], stride := [8, 4] }, pos := .form 0, got := [[]] } : RefBlock)).team)) ((({ id := 1, kind := 0, core := 0, slot := 0, lane := 0, team := 1, ctx := 1, addr := 0, pc := 0, words := [0x81000, 0x82000, 0x83000, 0x81400, 0x800000008, 8192, 0x100000000, 0x110001], desc := { base := 0x88000, esz := 2, ext := [2, 2], stride := [8, 4] }, pos := .form 0, got := [[]] } : RefBlock)).bytesAt ((({ id := 1, kind := 0, core := 0, slot := 0, lane := 0, team := 1, ctx := 1, addr := 0, pc := 0, words := [0x81000, 0x82000, 0x83000, 0x81400, 0x800000008, 8192, 0x100000000, 0x110001], desc := { base := 0x88000, esz := 2, ext := [2, 2], stride := [8, 4] }, pos := .form 0, got := [[]] } : RefBlock)).rowAddrs 0))).2 with | .data e => e | _ => []), by decide +kernel⟩⟩⟩⟩⟩⟩⟩⟩,
   ⟨({ id := 1, kind := 0, core := 0, slot := 0, lane := 0, team := 1, ctx := 1, addr := 0, pc := 0, words := [0x81000, 0x82000, 0x83000, 0x81400, 0x800000008, 8192, 0x100000000, 0x110001], desc := { base := 0x88000, esz := 2, ext := [2, 2], stride := [8, 4] } } : RefBlock), ⟨[1, 2], by decide +kernel⟩⟩,
   ⟨({ id := 1, kind := 0, core := 0, slot := 0, lane := 0, team := 1, ctx := 1, addr := 0, pc := 0, words := [0x81000, 0x82000, 0x83000, 0x81400, 0x800000008, 8192, 0x100000000, 0x110001], desc := { base := 0x88000, esz := 2, ext := [2, 2], stride := [8, 4] }, pos := .fwd false 0, got := [[]] } : RefBlock), ⟨0, ⟨by decide +kernel, ⟨[], ⟨by decide +kernel, ⟨(cr (fun k => { k with tlb := [{ ctx := 1, va := 0x80000, level := 0, leaf := 0x132F, pte := 0x6008 }] })) (((fun s : State => { s with time := 2000 })) (D)), ⟨(((cr (fun k => { k with tlb := [{ ctx := 1, va := 0x80000, level := 0, leaf := 0x132F, pte := 0x6008 }] })) (((fun s : State => { s with time := 2000 })) (D))).engineRead (((cr (fun k => { k with tlb := [{ ctx := 1, va := 0x80000, level := 0, leaf := 0x132F, pte := 0x6008 }] })) (((fun s : State => { s with time := 2000 })) (D))).teamAgent (({ id := 1, kind := 0, core := 0, slot := 0, lane := 0, team := 1, ctx := 1, addr := 0, pc := 0, words := [0x81000, 0x82000, 0x83000, 0x81400, 0x800000008, 8192, 0x100000000, 0x110001], desc := { base := 0x88000, esz := 2, ext := [2, 2], stride := [8, 4] }, pos := .fwd false 0, got := [[]] } : RefBlock)).core (({ id := 1, kind := 0, core := 0, slot := 0, lane := 0, team := 1, ctx := 1, addr := 0, pc := 0, words := [0x81000, 0x82000, 0x83000, 0x81400, 0x800000008, 8192, 0x100000000, 0x110001], desc := { base := 0x88000, esz := 2, ext := [2, 2], stride := [8, 4] }, pos := .fwd false 0, got := [[]] } : RefBlock)).ctx (some (({ id := 1, kind := 0, core := 0, slot := 0, lane := 0, team := 1, ctx := 1, addr := 0, pc := 0, words := [0x81000, 0x82000, 0x83000, 0x81400, 0x800000008, 8192, 0x100000000, 0x110001], desc := { base := 0x88000, esz := 2, ext := [2, 2], stride := [8, 4] }, pos := .fwd false 0, got := [[]] } : RefBlock)).team)) ((({ id := 1, kind := 0, core := 0, slot := 0, lane := 0, team := 1, ctx := 1, addr := 0, pc := 0, words := [0x81000, 0x82000, 0x83000, 0x81400, 0x800000008, 8192, 0x100000000, 0x110001], desc := { base := 0x88000, esz := 2, ext := [2, 2], stride := [8, 4] }, pos := .fwd false 0, got := [[]] } : RefBlock)).bytesAt ((({ id := 1, kind := 0, core := 0, slot := 0, lane := 0, team := 1, ctx := 1, addr := 0, pc := 0, words := [0x81000, 0x82000, 0x83000, 0x81400, 0x800000008, 8192, 0x100000000, 0x110001], desc := { base := 0x88000, esz := 2, ext := [2, 2], stride := [8, 4] }, pos := .fwd false 0, got := [[]] } : RefBlock)).colAddrs (({ id := 1, kind := 0, core := 0, slot := 0, lane := 0, team := 1, ctx := 1, addr := 0, pc := 0, words := [0x81000, 0x82000, 0x83000, 0x81400, 0x800000008, 8192, 0x100000000, 0x110001], desc := { base := 0x88000, esz := 2, ext := [2, 2], stride := [8, 4] }, pos := .fwd false 0, got := [[]] } : RefBlock)).baddr (({ id := 1, kind := 0, core := 0, slot := 0, lane := 0, team := 1, ctx := 1, addr := 0, pc := 0, words := [0x81000, 0x82000, 0x83000, 0x81400, 0x800000008, 8192, 0x100000000, 0x110001], desc := { base := 0x88000, esz := 2, ext := [2, 2], stride := [8, 4] }, pos := .fwd false 0, got := [[]] } : RefBlock)).bcs 0))).1, ⟨(match (((cr (fun k => { k with tlb := [{ ctx := 1, va := 0x80000, level := 0, leaf := 0x132F, pte := 0x6008 }] })) (((fun s : State => { s with time := 2000 })) (D))).engineRead (((cr (fun k => { k with tlb := [{ ctx := 1, va := 0x80000, level := 0, leaf := 0x132F, pte := 0x6008 }] })) (((fun s : State => { s with time := 2000 })) (D))).teamAgent (({ id := 1, kind := 0, core := 0, slot := 0, lane := 0, team := 1, ctx := 1, addr := 0, pc := 0, words := [0x81000, 0x82000, 0x83000, 0x81400, 0x800000008, 8192, 0x100000000, 0x110001], desc := { base := 0x88000, esz := 2, ext := [2, 2], stride := [8, 4] }, pos := .fwd false 0, got := [[]] } : RefBlock)).core (({ id := 1, kind := 0, core := 0, slot := 0, lane := 0, team := 1, ctx := 1, addr := 0, pc := 0, words := [0x81000, 0x82000, 0x83000, 0x81400, 0x800000008, 8192, 0x100000000, 0x110001], desc := { base := 0x88000, esz := 2, ext := [2, 2], stride := [8, 4] }, pos := .fwd false 0, got := [[]] } : RefBlock)).ctx (some (({ id := 1, kind := 0, core := 0, slot := 0, lane := 0, team := 1, ctx := 1, addr := 0, pc := 0, words := [0x81000, 0x82000, 0x83000, 0x81400, 0x800000008, 8192, 0x100000000, 0x110001], desc := { base := 0x88000, esz := 2, ext := [2, 2], stride := [8, 4] }, pos := .fwd false 0, got := [[]] } : RefBlock)).team)) ((({ id := 1, kind := 0, core := 0, slot := 0, lane := 0, team := 1, ctx := 1, addr := 0, pc := 0, words := [0x81000, 0x82000, 0x83000, 0x81400, 0x800000008, 8192, 0x100000000, 0x110001], desc := { base := 0x88000, esz := 2, ext := [2, 2], stride := [8, 4] }, pos := .fwd false 0, got := [[]] } : RefBlock)).bytesAt ((({ id := 1, kind := 0, core := 0, slot := 0, lane := 0, team := 1, ctx := 1, addr := 0, pc := 0, words := [0x81000, 0x82000, 0x83000, 0x81400, 0x800000008, 8192, 0x100000000, 0x110001], desc := { base := 0x88000, esz := 2, ext := [2, 2], stride := [8, 4] }, pos := .fwd false 0, got := [[]] } : RefBlock)).colAddrs (({ id := 1, kind := 0, core := 0, slot := 0, lane := 0, team := 1, ctx := 1, addr := 0, pc := 0, words := [0x81000, 0x82000, 0x83000, 0x81400, 0x800000008, 8192, 0x100000000, 0x110001], desc := { base := 0x88000, esz := 2, ext := [2, 2], stride := [8, 4] }, pos := .fwd false 0, got := [[]] } : RefBlock)).baddr (({ id := 1, kind := 0, core := 0, slot := 0, lane := 0, team := 1, ctx := 1, addr := 0, pc := 0, words := [0x81000, 0x82000, 0x83000, 0x81400, 0x800000008, 8192, 0x100000000, 0x110001], desc := { base := 0x88000, esz := 2, ext := [2, 2], stride := [8, 4] }, pos := .fwd false 0, got := [[]] } : RefBlock)).bcs 0))).2 with | .data e => e | _ => []), by decide +kernel⟩⟩⟩⟩⟩⟩⟩⟩,
   ⟨({ id := 1, kind := 0, core := 0, slot := 0, lane := 0, team := 1, ctx := 1, addr := 0, pc := 0, words := [0x81000, 0x82000, 0x83000, 0x81400, 0x800000008, 8192, 0x100000000, 0x110001], desc := { base := 0x88000, esz := 2, ext := [2, 2], stride := [8, 4] }, pos := .judge, got := [[]] } : RefBlock), ⟨[], by decide +kernel⟩⟩,
   ⟨({ id := 1, kind := 0, core := 0, slot := 0, lane := 0, team := 1, ctx := 1, addr := 0, pc := 0, words := [0x81000, 0x82000, 0x83000, 0x81400, 0x800000008, 8192, 0x100000000, 0x110001], desc := { base := 0x88000, esz := 2, ext := [2, 2], stride := [8, 4] }, pos := .fwd true 0, got := [[]] } : RefBlock), ⟨[], ⟨by decide +kernel, ⟨0, by decide +kernel⟩⟩⟩⟩,
   ⟨({ id := 1, kind := 0, core := 0, slot := 0, lane := 0, team := 1, ctx := 1, addr := 0, pc := 0, words := [0x81000, 0x82000, 0x83000, 0x81400, 0x800000008, 8192, 0x100000000, 0x110001], desc := { base := 0x88000, esz := 2, ext := [2, 2], stride := [8, 4] }, pos := .bwd true 0, got := [[]] } : RefBlock), ⟨[], ⟨by decide +kernel, ⟨0, by decide +kernel⟩⟩⟩⟩,
   ⟨({ id := 1, kind := 0, core := 0, slot := 0, lane := 0, team := 1, ctx := 1, addr := 0, pc := 0, words := [0x81000, 0x82000, 0x83000, 0x81400, 0x800000008, 8192, 0x100000000, 0x110001], desc := { base := 0x88000, esz := 2, ext := [2, 2], stride := [8, 4] }, pos := .add true 0, got := [[]] } : RefBlock), ⟨[], ⟨by decide +kernel, ⟨0, by decide +kernel⟩⟩⟩⟩,
   ⟨({ id := 1, kind := 0, core := 0, slot := 0, lane := 0, team := 1, ctx := 1, addr := 0, pc := 0, words := [0x81000, 0x82000, 0x83000, 0x81400, 0x800000008, 8192, 0x100000000, 0x110001], desc := { base := 0x88000, esz := 2, ext := [2, 2], stride := [8, 4] }, pos := .judge, got := [[]] } : RefBlock), ⟨[], by decide +kernel⟩⟩,
   ⟨({ id := 1, kind := 0, core := 0, slot := 0, lane := 0, team := 1, ctx := 1, addr := 0, pc := 0, words := [0x81000, 0x82000, 0x83000, 0x81400, 0x800000008, 8192, 0x100000000, 0x110001], desc := { base := 0x88000, esz := 2, ext := [2, 2], stride := [8, 4] } } : RefBlock), ⟨1, by decide +kernel⟩⟩,
   ⟨({ id := 1, kind := 0, core := 0, slot := 0, lane := 0, team := 1, ctx := 1, addr := 0, pc := 0, words := [0x81000, 0x82000, 0x83000, 0x81400, 0x800000008, 8192, 0x100000000, 0x110001], desc := { base := 0x88000, esz := 2, ext := [2, 2], stride := [8, 4] } } : RefBlock), ⟨1, by decide +kernel⟩⟩,
   ⟨({ id := 1, kind := 0, core := 0, slot := 0, lane := 0, team := 1, ctx := 1, addr := 0, pc := 0, words := [0x81000, 0x82000, 0x83000, 0x81400, 0x800000008, 8192, 0x100000000, 0x110001], desc := { base := 0x88000, esz := 2, ext := [2, 2], stride := [8, 4] } } : RefBlock), ⟨1, by decide +kernel⟩⟩,
   ⟨({ id := 1, kind := 0, core := 0, slot := 0, lane := 0, team := 1, ctx := 1, addr := 0, pc := 0, words := [0x81000, 0x82000, 0x83000, 0x81400, 0x800000008, 8192, 0x100000000, 0x110001], desc := { base := 0x88000, esz := 2, ext := [2, 2], stride := [8, 4] }, pos := .resid 0, got := [[]] } : RefBlock), ⟨0, ⟨by decide +kernel, ⟨[], ⟨by decide +kernel, ⟨(cr (fun k => { k with tlb := [{ ctx := 1, va := 0x80000, level := 0, leaf := 0x132F, pte := 0x6008 }] })) (((fun s : State => { s with time := 2000 })) (D)), ⟨(((cr (fun k => { k with tlb := [{ ctx := 1, va := 0x80000, level := 0, leaf := 0x132F, pte := 0x6008 }] })) (((fun s : State => { s with time := 2000 })) (D))).engineRead (((cr (fun k => { k with tlb := [{ ctx := 1, va := 0x80000, level := 0, leaf := 0x132F, pte := 0x6008 }] })) (((fun s : State => { s with time := 2000 })) (D))).teamAgent (({ id := 1, kind := 0, core := 0, slot := 0, lane := 0, team := 1, ctx := 1, addr := 0, pc := 0, words := [0x81000, 0x82000, 0x83000, 0x81400, 0x800000008, 8192, 0x100000000, 0x110001], desc := { base := 0x88000, esz := 2, ext := [2, 2], stride := [8, 4] }, pos := .resid 0, got := [[]] } : RefBlock)).core (({ id := 1, kind := 0, core := 0, slot := 0, lane := 0, team := 1, ctx := 1, addr := 0, pc := 0, words := [0x81000, 0x82000, 0x83000, 0x81400, 0x800000008, 8192, 0x100000000, 0x110001], desc := { base := 0x88000, esz := 2, ext := [2, 2], stride := [8, 4] }, pos := .resid 0, got := [[]] } : RefBlock)).ctx (some (({ id := 1, kind := 0, core := 0, slot := 0, lane := 0, team := 1, ctx := 1, addr := 0, pc := 0, words := [0x81000, 0x82000, 0x83000, 0x81400, 0x800000008, 8192, 0x100000000, 0x110001], desc := { base := 0x88000, esz := 2, ext := [2, 2], stride := [8, 4] }, pos := .resid 0, got := [[]] } : RefBlock)).team)) ((({ id := 1, kind := 0, core := 0, slot := 0, lane := 0, team := 1, ctx := 1, addr := 0, pc := 0, words := [0x81000, 0x82000, 0x83000, 0x81400, 0x800000008, 8192, 0x100000000, 0x110001], desc := { base := 0x88000, esz := 2, ext := [2, 2], stride := [8, 4] }, pos := .resid 0, got := [[]] } : RefBlock)).bytesAt ((({ id := 1, kind := 0, core := 0, slot := 0, lane := 0, team := 1, ctx := 1, addr := 0, pc := 0, words := [0x81000, 0x82000, 0x83000, 0x81400, 0x800000008, 8192, 0x100000000, 0x110001], desc := { base := 0x88000, esz := 2, ext := [2, 2], stride := [8, 4] }, pos := .resid 0, got := [[]] } : RefBlock)).colAddrs (({ id := 1, kind := 0, core := 0, slot := 0, lane := 0, team := 1, ctx := 1, addr := 0, pc := 0, words := [0x81000, 0x82000, 0x83000, 0x81400, 0x800000008, 8192, 0x100000000, 0x110001], desc := { base := 0x88000, esz := 2, ext := [2, 2], stride := [8, 4] }, pos := .resid 0, got := [[]] } : RefBlock)).baddr (({ id := 1, kind := 0, core := 0, slot := 0, lane := 0, team := 1, ctx := 1, addr := 0, pc := 0, words := [0x81000, 0x82000, 0x83000, 0x81400, 0x800000008, 8192, 0x100000000, 0x110001], desc := { base := 0x88000, esz := 2, ext := [2, 2], stride := [8, 4] }, pos := .resid 0, got := [[]] } : RefBlock)).bcs 0 ++ ((List.range (({ id := 1, kind := 0, core := 0, slot := 0, lane := 0, team := 1, ctx := 1, addr := 0, pc := 0, words := [0x81000, 0x82000, 0x83000, 0x81400, 0x800000008, 8192, 0x100000000, 0x110001], desc := { base := 0x88000, esz := 2, ext := [2, 2], stride := [8, 4] }, pos := .resid 0, got := [[]] } : RefBlock)).n).map (fun i => (List.range (({ id := 1, kind := 0, core := 0, slot := 0, lane := 0, team := 1, ctx := 1, addr := 0, pc := 0, words := [0x81000, 0x82000, 0x83000, 0x81400, 0x800000008, 8192, 0x100000000, 0x110001], desc := { base := 0x88000, esz := 2, ext := [2, 2], stride := [8, 4] }, pos := .resid 0, got := [[]] } : RefBlock)).n).map (fun k => (({ id := 1, kind := 0, core := 0, slot := 0, lane := 0, team := 1, ctx := 1, addr := 0, pc := 0, words := [0x81000, 0x82000, 0x83000, 0x81400, 0x800000008, 8192, 0x100000000, 0x110001], desc := { base := 0x88000, esz := 2, ext := [2, 2], stride := [8, 4] }, pos := .resid 0, got := [[]] } : RefBlock)).aOf i k))).flatten))).1, ⟨(match (((cr (fun k => { k with tlb := [{ ctx := 1, va := 0x80000, level := 0, leaf := 0x132F, pte := 0x6008 }] })) (((fun s : State => { s with time := 2000 })) (D))).engineRead (((cr (fun k => { k with tlb := [{ ctx := 1, va := 0x80000, level := 0, leaf := 0x132F, pte := 0x6008 }] })) (((fun s : State => { s with time := 2000 })) (D))).teamAgent (({ id := 1, kind := 0, core := 0, slot := 0, lane := 0, team := 1, ctx := 1, addr := 0, pc := 0, words := [0x81000, 0x82000, 0x83000, 0x81400, 0x800000008, 8192, 0x100000000, 0x110001], desc := { base := 0x88000, esz := 2, ext := [2, 2], stride := [8, 4] }, pos := .resid 0, got := [[]] } : RefBlock)).core (({ id := 1, kind := 0, core := 0, slot := 0, lane := 0, team := 1, ctx := 1, addr := 0, pc := 0, words := [0x81000, 0x82000, 0x83000, 0x81400, 0x800000008, 8192, 0x100000000, 0x110001], desc := { base := 0x88000, esz := 2, ext := [2, 2], stride := [8, 4] }, pos := .resid 0, got := [[]] } : RefBlock)).ctx (some (({ id := 1, kind := 0, core := 0, slot := 0, lane := 0, team := 1, ctx := 1, addr := 0, pc := 0, words := [0x81000, 0x82000, 0x83000, 0x81400, 0x800000008, 8192, 0x100000000, 0x110001], desc := { base := 0x88000, esz := 2, ext := [2, 2], stride := [8, 4] }, pos := .resid 0, got := [[]] } : RefBlock)).team)) ((({ id := 1, kind := 0, core := 0, slot := 0, lane := 0, team := 1, ctx := 1, addr := 0, pc := 0, words := [0x81000, 0x82000, 0x83000, 0x81400, 0x800000008, 8192, 0x100000000, 0x110001], desc := { base := 0x88000, esz := 2, ext := [2, 2], stride := [8, 4] }, pos := .resid 0, got := [[]] } : RefBlock)).bytesAt ((({ id := 1, kind := 0, core := 0, slot := 0, lane := 0, team := 1, ctx := 1, addr := 0, pc := 0, words := [0x81000, 0x82000, 0x83000, 0x81400, 0x800000008, 8192, 0x100000000, 0x110001], desc := { base := 0x88000, esz := 2, ext := [2, 2], stride := [8, 4] }, pos := .resid 0, got := [[]] } : RefBlock)).colAddrs (({ id := 1, kind := 0, core := 0, slot := 0, lane := 0, team := 1, ctx := 1, addr := 0, pc := 0, words := [0x81000, 0x82000, 0x83000, 0x81400, 0x800000008, 8192, 0x100000000, 0x110001], desc := { base := 0x88000, esz := 2, ext := [2, 2], stride := [8, 4] }, pos := .resid 0, got := [[]] } : RefBlock)).baddr (({ id := 1, kind := 0, core := 0, slot := 0, lane := 0, team := 1, ctx := 1, addr := 0, pc := 0, words := [0x81000, 0x82000, 0x83000, 0x81400, 0x800000008, 8192, 0x100000000, 0x110001], desc := { base := 0x88000, esz := 2, ext := [2, 2], stride := [8, 4] }, pos := .resid 0, got := [[]] } : RefBlock)).bcs 0 ++ ((List.range (({ id := 1, kind := 0, core := 0, slot := 0, lane := 0, team := 1, ctx := 1, addr := 0, pc := 0, words := [0x81000, 0x82000, 0x83000, 0x81400, 0x800000008, 8192, 0x100000000, 0x110001], desc := { base := 0x88000, esz := 2, ext := [2, 2], stride := [8, 4] }, pos := .resid 0, got := [[]] } : RefBlock)).n).map (fun i => (List.range (({ id := 1, kind := 0, core := 0, slot := 0, lane := 0, team := 1, ctx := 1, addr := 0, pc := 0, words := [0x81000, 0x82000, 0x83000, 0x81400, 0x800000008, 8192, 0x100000000, 0x110001], desc := { base := 0x88000, esz := 2, ext := [2, 2], stride := [8, 4] }, pos := .resid 0, got := [[]] } : RefBlock)).n).map (fun k => (({ id := 1, kind := 0, core := 0, slot := 0, lane := 0, team := 1, ctx := 1, addr := 0, pc := 0, words := [0x81000, 0x82000, 0x83000, 0x81400, 0x800000008, 8192, 0x100000000, 0x110001], desc := { base := 0x88000, esz := 2, ext := [2, 2], stride := [8, 4] }, pos := .resid 0, got := [[]] } : RefBlock)).aOf i k))).flatten))).2 with | .data e => e | _ => []), by decide +kernel⟩⟩⟩⟩⟩⟩⟩⟩,
   ⟨(cr (fun k => { k with tlb := [{ ctx := 1, va := 0x80000, level := 0, leaf := 0x132F, pte := 0x6008 }] })) (((fun s : State => { s with time := 2000 })) (D)), ⟨(((cr (fun k => { k with tlb := [{ ctx := 1, va := 0x80000, level := 0, leaf := 0x132F, pte := 0x6008 }] })) (((fun s : State => { s with time := 2000 })) (D))).engineCheck (((cr (fun k => { k with tlb := [{ ctx := 1, va := 0x80000, level := 0, leaf := 0x132F, pte := 0x6008 }] })) (((fun s : State => { s with time := 2000 })) (D))).teamAgent 0 1 (some 1)) (engineAcc true) ((({ id := 1, kind := 0, core := 0, slot := 0, lane := 0, team := 1, ctx := 1, addr := 0, pc := 0, words := [0x81000, 0x82000, 0x83000, 0x81400, 0x800000008, 8192, 0x100000000, 0x110001], desc := { base := 0x88000, esz := 2, ext := [2, 2], stride := [8, 4] }, pos := .form 0, got := [[]] } : RefBlock)).wBytes (({ id := 1, kind := 0, core := 0, slot := 0, lane := 0, team := 1, ctx := 1, addr := 0, pc := 0, words := [0x81000, 0x82000, 0x83000, 0x81400, 0x800000008, 8192, 0x100000000, 0x110001], desc := { base := 0x88000, esz := 2, ext := [2, 2], stride := [8, 4] }, pos := .form 0, got := [[]] } : RefBlock)).wPuts)).1, ⟨({ id := 1, kind := 0, core := 0, slot := 0, lane := 0, team := 1, ctx := 1, addr := 0, pc := 0, words := [0x81000, 0x82000, 0x83000, 0x81400, 0x800000008, 8192, 0x100000000, 0x110001], desc := { base := 0x88000, esz := 2, ext := [2, 2], stride := [8, 4] }, pos := .form 0, got := [[]] } : RefBlock), ⟨(((({ id := 1, kind := 0, core := 0, slot := 0, lane := 0, team := 1, ctx := 1, addr := 0, pc := 0, words := [0x81000, 0x82000, 0x83000, 0x81400, 0x800000008, 8192, 0x100000000, 0x110001], desc := { base := 0x88000, esz := 2, ext := [2, 2], stride := [8, 4] }, pos := .form 0, got := [[]] } : RefBlock)).wBytes (({ id := 1, kind := 0, core := 0, slot := 0, lane := 0, team := 1, ctx := 1, addr := 0, pc := 0, words := [0x81000, 0x82000, 0x83000, 0x81400, 0x800000008, 8192, 0x100000000, 0x110001], desc := { base := 0x88000, esz := 2, ext := [2, 2], stride := [8, 4] }, pos := .form 0, got := [[]] } : RefBlock)).wPuts).map (fun a => a + 0x80000)), by decide +kernel⟩⟩⟩⟩,
   ⟨((fun s : State => s.modDie 0 (fun d => { d with traps := [{ core := 0, slot := 0, team := 1, lane := 0, addr := 0 }] }))) (({} : State)), ⟨0, ex_pair (by decide +kernel) (by decide +kernel)⟩⟩,
   ⟨((fun s : State => s.modDie 0 (fun d => { d with traps := [{ core := 0, slot := 0, team := 1, lane := 0, addr := 0 }] }))) ((wv (fun w => { w with trH := true })) (D)), ⟨0, ex_pair (by decide +kernel) (by decide +kernel)⟩⟩,
   ⟨((fun s : State => s.modDie 0 (fun d => { d with traps := [{ core := 0, slot := 0, team := 1, lane := 0, addr := 0 }] }))) (D), ⟨0, ex_pair (by decide +kernel) (by decide +kernel)⟩⟩⟩
theorem test_FaultsAndRegisterWrites_met :
    (∃ v : DWord, let idx := v.toNat % 2 ^ 9; let act := v.toNat / 2 ^ 12 % 4; ∃ s : State, ∃ c : Nat, (v.toNat / 2 ^ 9 % 8 ≠ 0 ∨ v.toNat / 2 ^ 14 ≠ 0 ∨ act = 3 ∨ (∀ r ∈ (s.core c).flt, r.idx ≠ idx))) ∧
    (∃ v : DWord, let idx := v.toNat % 2 ^ 11; let act := v.toNat / 2 ^ 12 % 4; ∃ s : State, ∃ c : Nat, (v.toNat / 2 ^ 11 % 2 ≠ 0 ∨ v.toNat / 2 ^ 14 ≠ 0 ∨ act = 3 ∨ (∀ r ∈ (s.core c).eflt, r.idx ≠ idx))) ∧
    (∃ v : DWord, let idx := v.toNat % 2 ^ 9; let act := v.toNat / 2 ^ 12 % 4; v.toNat / 2 ^ 9 % 8 = 0 ∧ v.toNat / 2 ^ 14 = 0 ∧ act ≠ 3 ∧ ∃ s : State, ∃ c : Nat, ∃ r, (s.core c).flt.find? (fun r => r.idx = idx) = some r ∧ True) ∧
    (∃ v : DWord, let idx := v.toNat % 2 ^ 11; let act := v.toNat / 2 ^ 12 % 4; v.toNat / 2 ^ 11 % 2 = 0 ∧ v.toNat / 2 ^ 14 = 0 ∧ ∃ s : State, ∃ c : Nat, (∃ r ∈ (s.core c).eflt, r.idx = idx) ∧ idx < 1024 ∧ ∃ d, (s.core c).cmds.find? (fun d => d.parked.any (fun p => p.record = idx && p.action.isNone)) = some d ∧ True) ∧
    (∃ v : DWord, let act := v.toNat / 2 ^ 12 % 4; v.toNat % 2 ^ 12 = 1026 ∧ v.toNat / 2 ^ 14 = 0 ∧ act ≠ 3 ∧ ∃ s : State, ∃ c : Nat, (∃ r ∈ (s.core c).eflt, r.idx = 1026)) ∧
    (∃ s : State, ∃ c : Nat, ∃ t : State, s.heldWrites c t = []) ∧
    (∃ s : State, ∃ c : Nat, ∃ t : State, s.heldWrites c t ≠ []) ∧
    (∃ a : Nat, (devReg a = .saveBase ∨ devReg a = .saveLen ∨ (∃ p, devReg a = .tickets p) ∨ ∃ b, devReg a = .other b)) ∧
    (∃ s : State, ∃ c : Nat, ∃ w : Nat, ∃ y, (s.weave c w).team = some y ∧ (s.weave c w).trH = true ∧ (s.weave c w).trM = true ∧ (s.weave c w).trSince + 2000 ≤ s.time) ∧
    (∃ s : State, ∃ c : Nat, ∃ w : Nat, ((s.weave c w).team = none ∨ (s.weave c w).trH = false ∨ (s.weave c w).trM = false ∨ s.time < (s.weave c w).trSince + 2000)) ∧
    (∃ s : State, ∃ ctx : Nat, ∃ reason : Nat, ∃ cause : Nat, ∃ q : Nat, ((s.contextKill ctx reason cause).queue q).active = true) ∧
    (∃ s : State, ∃ c : Nat, ∃ n : Nat, (s.thread c (n / 32) (n % 32)).mode = .waiting .lender ∧ ∃ q, (s.thread c (n / 32) (n % 32)).lend = some q ∧ q.since + 50000 ≤ s.time ∧ (s.thread c (n / 32) (n % 32)).spec = none ∧ q.target = false ∧ ∃ u, s.park c (n / 32) (s.thread c (n / 32) (n % 32)).ctl.pc q.wr [{ lane := n % 32, cause := 2, detail := 4, level := q.level, lid := leafLid q.leaf, va := q.va, iff := q.fetch, scr := q.scr }] = some u ∧ True) ∧
    (∃ s : State, ∃ c : Nat, ∃ n : Nat, (s.thread c (n / 32) (n % 32)).mode = .waiting .lender ∧ ∃ q, (s.thread c (n / 32) (n % 32)).lend = some q ∧ (s.time < q.since + 50000 ∨ (s.thread c (n / 32) (n % 32)).spec.isSome = true ∨ q.target = true)) ∧
    (∃ s : State, ∃ c : Nat, ∃ n : Nat, (s.thread c (n / 32) (n % 32)).mode ≠ .waiting .lender ∧ ∃ f, (s.thread c (n / 32) (n % 32)).frame = some f ∧ ∃ q, f.lend = some q ∧ q.since + 50000 ≤ s.time) ∧
    (∃ s : State, ∃ g, s.group = some g ∧ ∃ w : DWord, isHeader w = true) ∧
    (∃ s : State, ∃ g, s.group = some g ∧ ∃ w : DWord, isHeader w = false ∧ majorForm (majorOf w) = none) ∧
    (∃ s : State, ∃ g, s.group = some g ∧ ∃ w : DWord, isHeader w = false ∧ (majorForm (majorOf w)).isSome = true) :=
  ⟨⟨0x4000, ⟨{}, ⟨0, by decide +kernel⟩⟩⟩,
   ⟨0x4000, ⟨{}, ⟨0, by decide +kernel⟩⟩⟩,
   ⟨0, ⟨by decide +kernel, ⟨by decide +kernel, ⟨by decide +kernel, ⟨(cr (fun k => { k with flt := [{ idx := 0, w0 := 1, w1 := 2, w2 := 3, w3 := 4 }] })) (D), ⟨0, ex_some (by decide +kernel) (trivial)⟩⟩⟩⟩⟩⟩,
   ⟨0, ⟨by decide +kernel, ⟨by decide +kernel, ⟨(cr (fun k => { k with eflt := [{ idx := 0, w0 := 1, w1 := 2, w2 := 3, w3 := 4 }], cmds := [{ id := 1, entry := 0, kind := .fill, team := some 1, ctx := 1, pc := 0, len := 4, src := 0x80000, dst := 0x80000, parked := [{ unit := 0, record := 0 }] }] })) (D), ⟨0, ⟨by decide +kernel, ⟨by decide +kernel, ex_some (by decide +kernel) (trivial)⟩⟩⟩⟩⟩⟩⟩,
   ⟨1026, ⟨by decide +kernel, ⟨by decide +kernel, ⟨by decide +kernel, ⟨(cr (fun k => { k with eflt := [{ idx := 1026, w0 := 1, w1 := 2, w2 := 3, w3 := 4 }] })) (D), ⟨0, by decide +kernel⟩⟩⟩⟩⟩⟩,
   ⟨D, ⟨0, ⟨(D), by decide +kernel⟩⟩⟩,
   ⟨((fun s : State => { s with holds := [{ line := 0x2000, core := 1, expiry := 1000 }] })) (D), ⟨0, ⟨((((fun s : State => { s with holds := [{ line := 0x2000, core := 1, expiry := 1000 }] })) (D)).poke 0x100000 1 1), by decide +kernel⟩⟩⟩,
   ⟨regSave, (.inl (by decide +kernel))⟩,
   ⟨((fun s : State => { s with time := 2000 })) ((wv (fun w => { w with trH := true, trM := true })) (D)), ⟨0, ⟨0, ex_some (by decide +kernel) (by decide +kernel)⟩⟩⟩,
   ⟨{}, ⟨0, ⟨0, by decide +kernel⟩⟩⟩,
   ⟨((fun s : State => { s with queues := [(0, { active := true })] })) (({} : State)), ⟨1, ⟨0, ⟨0, ⟨0, by decide +kernel⟩⟩⟩⟩⟩,
   ⟨((fun s : State => { s with time := 50000 })) ((th (fun t => { t with mode := .waiting .lender, lend := some { pc := 0x108, va := 0x80000, pa := 0x100000, leaf := 0x132F, level := 1, wr := false, since := 0 } })) (D)), ⟨0, ⟨0, ⟨by decide +kernel, ex_some (by decide +kernel) (⟨by decide +kernel, ⟨by decide +kernel, ⟨by decide +kernel, ex_some (by decide +kernel) (trivial)⟩⟩⟩)⟩⟩⟩⟩,
   ⟨(th (fun t => { t with mode := .waiting .lender, lend := some { pc := 0x108, va := 0x80000, pa := 0x100000, leaf := 0x132F, level := 1, wr := false, since := 0 } })) (D), ⟨0, ⟨0, ⟨by decide +kernel, ex_some (by decide +kernel) (by decide +kernel)⟩⟩⟩⟩,
   ⟨((fun s : State => { s with time := 50000 })) ((th (fun t => { t with frame := some { lend := some { pc := 0x108, va := 0x80000, pa := 0x100000, leaf := 0x132F, level := 1, wr := false, since := 0 } } })) (D)), ⟨0, ⟨0, ⟨by decide +kernel, ex_some (by decide +kernel) (ex_some (by decide +kernel) (by decide +kernel))⟩⟩⟩⟩,
   ⟨D, ex_some (by decide +kernel) (⟨0xF8050C0003000183, by decide +kernel⟩)⟩,
   ⟨D, ex_some (by decide +kernel) (⟨0x1000000000000000, by decide +kernel⟩)⟩,
   ⟨D, ex_some (by decide +kernel) (⟨0x206038140C000500, by decide +kernel⟩)⟩⟩
theorem test_QueuesAndGangs_met :
    (∃ q : Nat, q < 64 ∧ ∃ w : Nat, w < 8 ∧ ∃ s : State, (s.queue q).active = false) ∧
    (∃ s : State, ∃ q : Nat, ∃ w : Nat, (64 ≤ q ∨ 8 ≤ w ∨ (s.queue q).active = true)) ∧
    (∃ q : Nat, q < 64 ∧ ∃ s : State, (s.queue q).active = false) ∧
    (∃ s : State, ∃ q : Nat, (64 ≤ q ∨ (s.queue q).active = true)) ∧
    (∃ q : Nat, q < 64) ∧
    (∃ s : State, ∃ q : Nat, ((s.queue q).active = false ∨ s.readPhys (s.fabric ((s.queue q).word 3)) 8 ≤ (s.queue q).word 4)) ∧
    (∃ q : Nat, 64 ≤ q) ∧
    (∃ q : Nat, q < 64) ∧
    (∃ s : State, ∃ id : Nat, ∃ l, s.findLaunch id = some l ∧ (∀ g ∈ s.gangs, g.launch ≠ id)) ∧
    (∃ i : Nat, i < 9) ∧
    (∃ i : Nat, 9 ≤ i) ∧
    (∃ s : State, s.enumerated = true ∧ ∃ b : State, b = (match s.ageHead.order.head? with | some h => if s.ageHead.sched.blockedSince.isSome && s.ageHead.launchClass h == 0 then s.ageHead.preemptFor h else s.ageHead | none => s.ageHead) ∧ ∃ l : Launch, ∃ f : List (Nat × List Nat), ∃ p : Nat, ∃ win : List Nat, b.nextGang = some (l, f, p, win)) ∧
    (∃ s : State, s.enumerated = true ∧ ∃ b : State, b = (match s.ageHead.order.head? with | some h => if s.ageHead.sched.blockedSince.isSome && s.ageHead.launchClass h == 0 then s.ageHead.preemptFor h else s.ageHead | none => s.ageHead) ∧ b.nextGang = none) ∧
    (∃ s : State, s.enumerated = false) ∧
    (∃ s : State, s.sched.journal.length ≤ 8192) :=
  ⟨⟨0, ⟨by decide +kernel, ⟨0, ⟨by decide +kernel, ⟨{}, by decide +kernel⟩⟩⟩⟩⟩,
   ⟨{}, ⟨64, ⟨0, by decide +kernel⟩⟩⟩,
   ⟨0, ⟨by decide +kernel, ⟨{}, by decide +kernel⟩⟩⟩,
   ⟨{}, ⟨64, by decide +kernel⟩⟩,
   ⟨0, by decide +kernel⟩,
   ⟨{}, ⟨0, by decide +kernel⟩⟩,
   ⟨64, by decide +kernel⟩,
   ⟨0, by decide +kernel⟩,
   ⟨((fun s : State => { s with launches := [{ id := 0, queue := 0, ring := 0, ctx := 1, words := [], kd := {}, preload := [], bufs := [] }] })) (({} : State)), ⟨0, ex_some (by decide +kernel) (by decide +kernel)⟩⟩,
   ⟨0, by decide +kernel⟩,
   ⟨9, by decide +kernel⟩,
   ⟨(words 0x100000 [0x100040, 64, 0, 0]) (((fun s : State => { s with enumerated := true, qpsavel := 0x10000000, qptkc := [(0, 0x100000)], partmap := [(0, 8)], launches := [{ id := 2, queue := 0, ring := 0, ctx := 1, words := [0, 0x100000100000000], kd := {}, preload := [], bufs := [] }] })) (({} : State))), ⟨by decide +kernel, ⟨(match ((words 0x100000 [0x100040, 64, 0, 0]) (((fun s : State => { s with enumerated := true, qpsavel := 0x10000000, qptkc := [(0, 0x100000)], partmap := [(0, 8)], launches := [{ id := 2, queue := 0, ring := 0, ctx := 1, words := [0, 0x100000100000000], kd := {}, preload := [], bufs := [] }] })) (({} : State)))).ageHead.order.head? with | some h => if ((words 0x100000 [0x100040, 64, 0, 0]) (((fun s : State => { s with enumerated := true, qpsavel := 0x10000000, qptkc := [(0, 0x100000)], partmap := [(0, 8)], launches := [{ id := 2, queue := 0, ring := 0, ctx := 1, words := [0, 0x100000100000000], kd := {}, preload := [], bufs := [] }] })) (({} : State)))).ageHead.sched.blockedSince.isSome && ((words 0x100000 [0x100040, 64, 0, 0]) (((fun s : State => { s with enumerated := true, qpsavel := 0x10000000, qptkc := [(0, 0x100000)], partmap := [(0, 8)], launches := [{ id := 2, queue := 0, ring := 0, ctx := 1, words := [0, 0x100000100000000], kd := {}, preload := [], bufs := [] }] })) (({} : State)))).ageHead.launchClass h == 0 then ((words 0x100000 [0x100040, 64, 0, 0]) (((fun s : State => { s with enumerated := true, qpsavel := 0x10000000, qptkc := [(0, 0x100000)], partmap := [(0, 8)], launches := [{ id := 2, queue := 0, ring := 0, ctx := 1, words := [0, 0x100000100000000], kd := {}, preload := [], bufs := [] }] })) (({} : State)))).ageHead.preemptFor h else ((words 0x100000 [0x100040, 64, 0, 0]) (((fun s : State => { s with enumerated := true, qpsavel := 0x10000000, qptkc := [(0, 0x100000)], partmap := [(0, 8)], launches := [{ id := 2, queue := 0, ring := 0, ctx := 1, words := [0, 0x100000100000000], kd := {}, preload := [], bufs := [] }] })) (({} : State)))).ageHead | none => ((words 0x100000 [0x100040, 64, 0, 0]) (((fun s : State => { s with enumerated := true, qpsavel := 0x10000000, qptkc := [(0, 0x100000)], partmap := [(0, 8)], launches := [{ id := 2, queue := 0, ring := 0, ctx := 1, words := [0, 0x100000100000000], kd := {}, preload := [], bufs := [] }] })) (({} : State)))).ageHead), ⟨rfl, ⟨(((match ((words 0x100000 [0x100040, 64, 0, 0]) (((fun s : State => { s with enumerated := true, qpsavel := 0x10000000, qptkc := [(0, 0x100000)], partmap := [(0, 8)], launches := [{ id := 2, queue := 0, ring := 0, ctx := 1, words := [0, 0x100000100000000], kd := {}, preload := [], bufs := [] }] })) (({} : State)))).ageHead.order.head? with | some h => if ((words 0x100000 [0x100040, 64, 0, 0]) (((fun s : State => { s with enumerated := true, qpsavel := 0x10000000, qptkc := [(0, 0x100000)], partmap := [(0, 8)], launches := [{ id := 2, queue := 0, ring := 0, ctx := 1, words := [0, 0x100000100000000], kd := {}, preload := [], bufs := [] }] })) (({} : State)))).ageHead.sched.blockedSince.isSome && ((words 0x100000 [0x100040, 64, 0, 0]) (((fun s : State => { s with enumerated := true, qpsavel := 0x10000000, qptkc := [(0, 0x100000)], partmap := [(0, 8)], launches := [{ id := 2, queue := 0, ring := 0, ctx := 1, words := [0, 0x100000100000000], kd := {}, preload := [], bufs := [] }] })) (({} : State)))).ageHead.launchClass h == 0 then ((words 0x100000 [0x100040, 64, 0, 0]) (((fun s : State => { s with enumerated := true, qpsavel := 0x10000000, qptkc := [(0, 0x100000)], partmap := [(0, 8)], launches := [{ id := 2, queue := 0, ring := 0, ctx := 1, words := [0, 0x100000100000000], kd := {}, preload := [], bufs := [] }] })) (({} : State)))).ageHead.preemptFor h else ((words 0x100000 [0x100040, 64, 0, 0]) (((fun s : State => { s with enumerated := true, qpsavel := 0x10000000, qptkc := [(0, 0x100000)], partmap := [(0, 8)], launches := [{ id := 2, queue := 0, ring := 0, ctx := 1, words := [0, 0x100000100000000], kd := {}, preload := [], bufs := [] }] })) (({} : State)))).ageHead | none => ((words 0x100000 [0x100040, 64, 0, 0]) (((fun s : State => { s with enumerated := true, qpsavel := 0x10000000, qptkc := [(0, 0x100000)], partmap := [(0, 8)], launches := [{ id := 2, queue := 0, ring := 0, ctx := 1, words := [0, 0x100000100000000], kd := {}, preload := [], bufs := [] }] })) (({} : State)))).ageHead)).nextGang.getD ({ id := 0, queue := 0, ring := 0, ctx := 1, words := [], kd := {}, preload := [], bufs := [] }, [], 0, [])).1, ⟨(((match ((words 0x100000 [0x100040, 64, 0, 0]) (((fun s : State => { s with enumerated := true, qpsavel := 0x10000000, qptkc := [(0, 0x100000)], partmap := [(0, 8)], launches := [{ id := 2, queue := 0, ring := 0, ctx := 1, words := [0, 0x100000100000000], kd := {}, preload := [], bufs := [] }] })) (({} : State)))).ageHead.order.head? with | some h => if ((words 0x100000 [0x100040, 64, 0, 0]) (((fun s : State => { s with enumerated := true, qpsavel := 0x10000000, qptkc := [(0, 0x100000)], partmap := [(0, 8)], launches := [{ id := 2, queue := 0, ring := 0, ctx := 1, words := [0, 0x100000100000000], kd := {}, preload := [], bufs := [] }] })) (({} : State)))).ageHead.sched.blockedSince.isSome && ((words 0x100000 [0x100040, 64, 0, 0]) (((fun s : State => { s with enumerated := true, qpsavel := 0x10000000, qptkc := [(0, 0x100000)], partmap := [(0, 8)], launches := [{ id := 2, queue := 0, ring := 0, ctx := 1, words := [0, 0x100000100000000], kd := {}, preload := [], bufs := [] }] })) (({} : State)))).ageHead.launchClass h == 0 then ((words 0x100000 [0x100040, 64, 0, 0]) (((fun s : State => { s with enumerated := true, qpsavel := 0x10000000, qptkc := [(0, 0x100000)], partmap := [(0, 8)], launches := [{ id := 2, queue := 0, ring := 0, ctx := 1, words := [0, 0x100000100000000], kd := {}, preload := [], bufs := [] }] })) (({} : State)))).ageHead.preemptFor h else ((words 0x100000 [0x100040, 64, 0, 0]) (((fun s : State => { s with enumerated := true, qpsavel := 0x10000000, qptkc := [(0, 0x100000)], partmap := [(0, 8)], launches := [{ id := 2, queue := 0, ring := 0, ctx := 1, words := [0, 0x100000100000000], kd := {}, preload := [], bufs := [] }] })) (({} : State)))).ageHead | none => ((words 0x100000 [0x100040, 64, 0, 0]) (((fun s : State => { s with enumerated := true, qpsavel := 0x10000000, qptkc := [(0, 0x100000)], partmap := [(0, 8)], launches := [{ id := 2, queue := 0, ring := 0, ctx := 1, words := [0, 0x100000100000000], kd := {}, preload := [], bufs := [] }] })) (({} : State)))).ageHead)).nextGang.getD ({ id := 0, queue := 0, ring := 0, ctx := 1, words := [], kd := {}, preload := [], bufs := [] }, [], 0, [])).2.1, ⟨(((match ((words 0x100000 [0x100040, 64, 0, 0]) (((fun s : State => { s with enumerated := true, qpsavel := 0x10000000, qptkc := [(0, 0x100000)], partmap := [(0, 8)], launches := [{ id := 2, queue := 0, ring := 0, ctx := 1, words := [0, 0x100000100000000], kd := {}, preload := [], bufs := [] }] })) (({} : State)))).ageHead.order.head? with | some h => if ((words 0x100000 [0x100040, 64, 0, 0]) (((fun s : State => { s with enumerated := true, qpsavel := 0x10000000, qptkc := [(0, 0x100000)], partmap := [(0, 8)], launches := [{ id := 2, queue := 0, ring := 0, ctx := 1, words := [0, 0x100000100000000], kd := {}, preload := [], bufs := [] }] })) (({} : State)))).ageHead.sched.blockedSince.isSome && ((words 0x100000 [0x100040, 64, 0, 0]) (((fun s : State => { s with enumerated := true, qpsavel := 0x10000000, qptkc := [(0, 0x100000)], partmap := [(0, 8)], launches := [{ id := 2, queue := 0, ring := 0, ctx := 1, words := [0, 0x100000100000000], kd := {}, preload := [], bufs := [] }] })) (({} : State)))).ageHead.launchClass h == 0 then ((words 0x100000 [0x100040, 64, 0, 0]) (((fun s : State => { s with enumerated := true, qpsavel := 0x10000000, qptkc := [(0, 0x100000)], partmap := [(0, 8)], launches := [{ id := 2, queue := 0, ring := 0, ctx := 1, words := [0, 0x100000100000000], kd := {}, preload := [], bufs := [] }] })) (({} : State)))).ageHead.preemptFor h else ((words 0x100000 [0x100040, 64, 0, 0]) (((fun s : State => { s with enumerated := true, qpsavel := 0x10000000, qptkc := [(0, 0x100000)], partmap := [(0, 8)], launches := [{ id := 2, queue := 0, ring := 0, ctx := 1, words := [0, 0x100000100000000], kd := {}, preload := [], bufs := [] }] })) (({} : State)))).ageHead | none => ((words 0x100000 [0x100040, 64, 0, 0]) (((fun s : State => { s with enumerated := true, qpsavel := 0x10000000, qptkc := [(0, 0x100000)], partmap := [(0, 8)], launches := [{ id := 2, queue := 0, ring := 0, ctx := 1, words := [0, 0x100000100000000], kd := {}, preload := [], bufs := [] }] })) (({} : State)))).ageHead)).nextGang.getD ({ id := 0, queue := 0, ring := 0, ctx := 1, words := [], kd := {}, preload := [], bufs := [] }, [], 0, [])).2.2.1, ⟨(((match ((words 0x100000 [0x100040, 64, 0, 0]) (((fun s : State => { s with enumerated := true, qpsavel := 0x10000000, qptkc := [(0, 0x100000)], partmap := [(0, 8)], launches := [{ id := 2, queue := 0, ring := 0, ctx := 1, words := [0, 0x100000100000000], kd := {}, preload := [], bufs := [] }] })) (({} : State)))).ageHead.order.head? with | some h => if ((words 0x100000 [0x100040, 64, 0, 0]) (((fun s : State => { s with enumerated := true, qpsavel := 0x10000000, qptkc := [(0, 0x100000)], partmap := [(0, 8)], launches := [{ id := 2, queue := 0, ring := 0, ctx := 1, words := [0, 0x100000100000000], kd := {}, preload := [], bufs := [] }] })) (({} : State)))).ageHead.sched.blockedSince.isSome && ((words 0x100000 [0x100040, 64, 0, 0]) (((fun s : State => { s with enumerated := true, qpsavel := 0x10000000, qptkc := [(0, 0x100000)], partmap := [(0, 8)], launches := [{ id := 2, queue := 0, ring := 0, ctx := 1, words := [0, 0x100000100000000], kd := {}, preload := [], bufs := [] }] })) (({} : State)))).ageHead.launchClass h == 0 then ((words 0x100000 [0x100040, 64, 0, 0]) (((fun s : State => { s with enumerated := true, qpsavel := 0x10000000, qptkc := [(0, 0x100000)], partmap := [(0, 8)], launches := [{ id := 2, queue := 0, ring := 0, ctx := 1, words := [0, 0x100000100000000], kd := {}, preload := [], bufs := [] }] })) (({} : State)))).ageHead.preemptFor h else ((words 0x100000 [0x100040, 64, 0, 0]) (((fun s : State => { s with enumerated := true, qpsavel := 0x10000000, qptkc := [(0, 0x100000)], partmap := [(0, 8)], launches := [{ id := 2, queue := 0, ring := 0, ctx := 1, words := [0, 0x100000100000000], kd := {}, preload := [], bufs := [] }] })) (({} : State)))).ageHead | none => ((words 0x100000 [0x100040, 64, 0, 0]) (((fun s : State => { s with enumerated := true, qpsavel := 0x10000000, qptkc := [(0, 0x100000)], partmap := [(0, 8)], launches := [{ id := 2, queue := 0, ring := 0, ctx := 1, words := [0, 0x100000100000000], kd := {}, preload := [], bufs := [] }] })) (({} : State)))).ageHead)).nextGang.getD ({ id := 0, queue := 0, ring := 0, ctx := 1, words := [], kd := {}, preload := [], bufs := [] }, [], 0, [])).2.2.2, by decide +kernel⟩⟩⟩⟩⟩⟩⟩⟩,
   ⟨((fun s : State => { s with enumerated := true })) (({} : State)), ⟨by decide +kernel, ⟨(match (((fun s : State => { s with enumerated := true })) (({} : State))).ageHead.order.head? with | some h => if (((fun s : State => { s with enumerated := true })) (({} : State))).ageHead.sched.blockedSince.isSome && (((fun s : State => { s with enumerated := true })) (({} : State))).ageHead.launchClass h == 0 then (((fun s : State => { s with enumerated := true })) (({} : State))).ageHead.preemptFor h else (((fun s : State => { s with enumerated := true })) (({} : State))).ageHead | none => (((fun s : State => { s with enumerated := true })) (({} : State))).ageHead), ⟨rfl, by decide +kernel⟩⟩⟩⟩,
   ⟨{}, by decide +kernel⟩,
   ⟨{}, by decide +kernel⟩⟩
theorem test_QueuesAndGangs_met2 :
    (∃ s : State, ∃ h : Launch, (∀ c ∈ (if s.sched.held.isEmpty then { s with sched := { s.sched with held := (s.cheapestWindow h).getD [] } } else s).cores, c.2.teams = [])) ∧
    (∃ s : State, ∃ l : Launch, ∃ areas, s.allocAreas l.kd.saveLen l.kd.teams s.areas = some areas ∧ ∃ win : List Nat, win.length = areas.length) ∧
    (∃ s : State, ∃ l : Launch, ∃ areas, s.allocAreas l.kd.saveLen l.kd.teams s.areas = some areas ∧ ∃ win : List Nat, win.length = areas.length ∧ l.kd.teams = win.length) ∧
    (∃ s : State, ∃ h : Launch, ∃ rest : List Launch, s.order = h :: rest) ∧
    (∃ s : State, s.order = []) ∧
    (∃ s : State, ∃ h : Launch, ∃ rest : List Launch, s.order = h :: rest) ∧
    (∃ s : State, ∃ n : Nat, ∃ g, s.findGang n = some g ∧ g.started = false ∧ g.teams.length ≤ g.arrived.length ∧ tabSorted s.cores = true) ∧
    (∃ s : State, ∃ n : Nat, ∃ g, s.findGang n = some g ∧ (g.started = true ∨ g.arrived.length < g.teams.length)) ∧
    (∃ s : State, ∃ p : Nat, s.tkcSound p = true) ∧
    (∃ s : State, ∃ p : Nat, s.tkcSound p = false) ∧
    (∃ s : State, ∃ p : Nat, s.tkcSound p = true) ∧
    (∃ s : State, ∃ p : Nat, tabGet 0 p s.qptkc ≠ 0 ∧ ((∃ i, i ≤ 10 ∧ s.tkcWord p 1 = 64 * 2 ^ i) ∧ (s.tkcWord p 0 % 64 = 0 ∧ ∀ i, i < 4 → s.tkcWord p (4 + i) = 0))) ∧
    (∃ n : Nat, n < 64 ∧ ∃ s : State, n ≠ s.sched.standby ∧ n ∉ s.sched.adopted ∧ tabGet 0 n s.sched.heart + 50000 ≤ s.time) ∧
    (∃ s : State, ∃ n : Nat, (64 ≤ n ∨ n = s.sched.standby ∨ n ∈ s.sched.adopted ∨ s.time < tabGet 0 n s.sched.heart + 50000)) :=
  ⟨⟨{}, ⟨{ id := 2, queue := 0, ring := 0, ctx := 1, words := [0, 0x100000000], kd := {}, preload := [], bufs := [] }, by decide +kernel⟩⟩,
   ⟨((fun s : State => { s with qpsavel := 0x10000000 })) (({} : State)), ⟨{ id := 2, queue := 0, ring := 0, ctx := 1, words := [], kd := {}, preload := [], bufs := [] }, ex_some (by decide +kernel) (⟨[0], by decide +kernel⟩)⟩⟩,
   ⟨((fun s : State => { s with qpsavel := 0x10000000 })) (({} : State)), ⟨{ id := 2, queue := 0, ring := 0, ctx := 1, words := [], kd := {}, preload := [], bufs := [] }, ex_some (by decide +kernel) (⟨[0], by decide +kernel⟩)⟩⟩,
   ⟨((fun s : State => { s with launches := [{ id := 2, queue := 0, ring := 0, ctx := 1, words := [0, 0x100000000], kd := {}, preload := [], bufs := [] }] })) (({} : State)), ⟨{ id := 2, queue := 0, ring := 0, ctx := 1, words := [0, 0x100000000], kd := {}, preload := [], bufs := [] }, ⟨[], by decide +kernel⟩⟩⟩,
   ⟨{}, by decide +kernel⟩,
   ⟨((fun s : State => { s with launches := [{ id := 2, queue := 0, ring := 0, ctx := 1, words := [0, 0x100000000], kd := {}, preload := [], bufs := [] }] })) (({} : State)), ⟨{ id := 2, queue := 0, ring := 0, ctx := 1, words := [0, 0x100000000], kd := {}, preload := [], bufs := [] }, ⟨[], by decide +kernel⟩⟩⟩,
   ⟨((fun s : State => { s with gangs := [{ id := 1, launch := 2, index := 0, gtkt := 0, part := 0, teams := [{ core := 0, ticket := 0, team := 1 }], arrived := [1] }] })) (({} : State)), ⟨1, ex_some (by decide +kernel) (by decide +kernel)⟩⟩,
   ⟨((fun s : State => { s with gangs := [{ id := 1, launch := 2, index := 0, gtkt := 0, part := 0, teams := [{ core := 0, ticket := 0, team := 1 }], arrived := [] }] })) (({} : State)), ⟨1, ex_some (by decide +kernel) (by decide +kernel)⟩⟩,
   ⟨(words 0x100000 [0x100040, 64, 0, 0]) (((fun s : State => { s with qptkc := [(0, 0x100000)] })) (({} : State))), ⟨0, by decide +kernel⟩⟩,
   ⟨{}, ⟨0, by decide +kernel⟩⟩,
   ⟨(words 0x100000 [0x100040, 64, 0, 0]) (((fun s : State => { s with qptkc := [(0, 0x100000)] })) (({} : State))), ⟨0, by decide +kernel⟩⟩,
   ⟨(words 0x100000 [0x100040, 64, 0, 0]) (((fun s : State => { s with qptkc := [(0, 0x100000)] })) (({} : State))), ⟨0, ⟨by decide +kernel, ⟨0, by decide +kernel⟩, by decide +kernel⟩⟩⟩,
   ⟨0, ⟨by decide +kernel, ⟨((fun s : State => { s with time := 50000 })) (({} : State)), by decide +kernel⟩⟩⟩,
   ⟨{}, ⟨0, by decide +kernel⟩⟩⟩
theorem test_SlicesAndPreemption_met :
    (∃ s : State, ∃ y : Nat, ∃ c x, s.findTeam y = some (c, x) ∧ x.pre.slice ≠ 0 ∧ x.pre.expired = false ∧ ∃ f, x.pre.charged = some f ∧ f + x.pre.left ≤ s.time) ∧
    (∃ s : State, ∃ y : Nat, ∃ c x, s.findTeam y = some (c, x) ∧ x.pre.slice ≠ 0 ∧ x.pre.expired = false ∧ ∃ f, x.pre.charged = some f ∧ s.time < f + x.pre.left) ∧
    (∃ s : State, ∃ y : Nat, ∃ c x, s.findTeam y = some (c, x) ∧ (x.pre.slice = 0 ∨ x.pre.charged = none) ∧ x.pre.expired = false) ∧
    (∃ s : State, ∃ y : Nat, ∃ c x, s.findTeam y = some (c, x) ∧ x.pre.expired = true) ∧
    (∃ s : State, ∃ y : Nat, ∃ c x, s.findTeam y = some (c, x) ∧ (x.pre.requested = true ∨ x.pre.expired = true) ∧ x.pre.urgent = false ∧ (x.pre.action = 0 ∨ x.pre.action = 4) ∧ x.pre.since + (if x.pre.slice = 0 then 250000 else min (x.pre.slice / 4) 250000) ≤ s.time) ∧
    (∃ s : State, ∃ y : Nat, ∃ c x, s.findTeam y = some (c, x) ∧ (x.pre.requested = false ∧ x.pre.expired = false ∨ x.pre.urgent = true ∨ (x.pre.action ≠ 0 ∧ x.pre.action ≠ 4) ∨ s.time < x.pre.since + (if x.pre.slice = 0 then 250000 else min (x.pre.slice / 4) 250000))) ∧
    (∃ s : State, ∃ y : Nat, ∃ c x, s.findTeam y = some (c, x) ∧ x.pre.requested = false ∧ x.pre.expired = false ∧ x.yields = false ∧ x.slots ≠ []) ∧
    (∃ s : State, ∃ y : Nat, ∃ c x, s.findTeam y = some (c, x) ∧ (x.pre.requested = true ∨ x.pre.expired = true ∨ x.yields = true)) ∧
    (∃ s : State, ∃ c : Nat, ∃ x : Team, (x.slots = [] ∨ s.masked c x = true)) ∧
    (∃ x : Team, x.slots ≠ [] ∧ ∃ s : State, ∃ c : Nat, s.masked c x = false ∧ x.pre.stopping = true ∧ x.pre.action ≠ 4) ∧
    (∃ x : Team, x.slots ≠ [] ∧ ∃ s : State, ∃ c : Nat, s.masked c x = false ∧ x.pre.stopping = false ∧ (x.pre.action = 1 ∧ x.pre.urgent = false ∨ x.pre.urgent = false ∧ s.atSafePoint c x = false ∨ x.pre.requested = false ∧ x.pre.expired = false ∧ x.yields = false)) ∧
    (∃ x : Team, x.slots ≠ [] ∧ ∃ s : State, ∃ c : Nat, s.masked c x = false ∧ x.pre.stopping = false ∧ ¬ (x.pre.action = 1 ∧ x.pre.urgent = false) ∧ (x.pre.urgent = true ∨ s.atSafePoint c x = true) ∧ (x.pre.requested = true ∨ x.pre.expired = true ∨ x.yields = true) ∧ x.pre.action ≠ 4) ∧
    (∃ x : Team, x.slots ≠ [] ∧ ∃ s : State, ∃ c : Nat, s.masked c x = false ∧ x.pre.action = 4 ∧ (x.pre.stopping = true ∨ (x.pre.urgent = true ∨ s.atSafePoint c x = true) ∧ (x.pre.requested = true ∨ x.pre.expired = true ∨ x.yields = true))) ∧
    (∃ x : Team, (x.pre.slice = 0 ∨ x.pre.ended = true)) ∧
    (∃ x : Team, x.pre.slice ≠ 0 ∧ x.pre.ended = false ∧ x.pre.expired = true) :=
  ⟨⟨((fun s : State => { s with time := 10 })) ((tm (fun t => { t with pre := { slice := 100, left := 10, charged := some 0 } })) (D)), ⟨1, ex_pair (by decide +kernel) (⟨by decide +kernel, ⟨by decide +kernel, ex_some (by decide +kernel) (by decide +kernel)⟩⟩)⟩⟩,
   ⟨((fun s : State => { s with time := 9 })) ((tm (fun t => { t with pre := { slice := 100, left := 10, charged := some 0 } })) (D)), ⟨1, ex_pair (by decide +kernel) (⟨by decide +kernel, ⟨by decide +kernel, ex_some (by decide +kernel) (by decide +kernel)⟩⟩)⟩⟩,
   ⟨D, ⟨1, ex_pair (by decide +kernel) (by decide +kernel)⟩⟩,
   ⟨(tm (fun t => { t with pre := { expired := true } })) (D), ⟨1, ex_pair (by decide +kernel) (by decide +kernel)⟩⟩,
   ⟨((fun s : State => { s with time := 250000 })) ((tm (fun t => { t with pre := { requested := true } })) (D)), ⟨1, ex_pair (by decide +kernel) (by decide +kernel)⟩⟩,
   ⟨D, ⟨1, ex_pair (by decide +kernel) (by decide +kernel)⟩⟩,
   ⟨D, ⟨1, ex_pair (by decide +kernel) (by decide +kernel)⟩⟩,
   ⟨(tm (fun t => { t with pre := { requested := true } })) (D), ⟨1, ex_pair (by decide +kernel) (by decide +kernel)⟩⟩,
   ⟨D, ⟨0, ⟨{}, by decide +kernel⟩⟩⟩,
   ⟨{ slots := [0], pre := { stopping := true } }, ⟨by decide +kernel, ⟨D, ⟨0, by decide +kernel⟩⟩⟩⟩,
   ⟨{ id := 1, ctx := 1, slots := [0], pre := { action := 1 } }, ⟨by decide +kernel, ⟨D, ⟨0, by decide +kernel⟩⟩⟩⟩,
   ⟨{ id := 1, ctx := 1, slots := [0], pre := { requested := true, urgent := true } }, ⟨by decide +kernel, ⟨D, ⟨0, by decide +kernel⟩⟩⟩⟩,
   ⟨{ id := 1, ctx := 1, slots := [0], pre := { requested := true, urgent := true, action := 4 } }, ⟨by decide +kernel, ⟨D, ⟨0, by decide +kernel⟩⟩⟩⟩,
   ⟨{ id := 1, ctx := 1, slots := [0], pre := {  } }, by decide +kernel⟩,
   ⟨{ id := 1, ctx := 1, slots := [0], pre := { slice := 100, expired := true } }, by decide +kernel⟩⟩
theorem test_SlicesAndPreemption_met2 :
    (∃ x : Team, x.pre.slice ≠ 0 ∧ x.pre.ended = false ∧ x.pre.expired = false ∧ x.yields = true) ∧
    (∃ s : State, ∃ c : Nat, ∃ x : Team, s.atSafePoint c x = true ∧ ∃ at_ : Nat, x.pre.header = some at_) ∧
    (∃ s : State, ∃ c : Nat, ∃ x : Team, (∀ w ∈ x.slots, s.rollWaits c w = true)) ∧
    (∃ s : State, ∃ y : Nat, ∃ c x, s.findTeam y = some (c, x) ∧ x.pre.action = 1 ∧ x.pre.since + 100000 ≤ s.time ∧ x.slots ≠ [] ∧ s.masked c x = false) ∧
    (∃ s : State, ∃ y : Nat, ∃ c x, s.findTeam y = some (c, x) ∧ x.id = y) ∧
    (∃ s : State, ∃ y : Nat, ∃ c x, s.findTeam y = some (c, x) ∧ (x.pre.action ≠ 1 ∨ s.time < x.pre.since + 100000 ∨ x.slots = [] ∨ s.masked c x = true)) ∧
    (∃ s : State, ∃ y : Nat, ∃ c x, s.findTeam y = some (c, x) ∧ s.teamEnded c x = true ∧ s.backsHeld c x = false) ∧
    (∃ s : State, ∃ y : Nat, ∃ c x, s.findTeam y = some (c, x) ∧ s.teamEnded c x = true ∧ s.backsHeld c x = true) ∧
    (∃ s : State, ∃ y : Nat, ∃ c x, s.findTeam y = some (c, x) ∧ s.teamEnded c x = false) ∧
    (∃ s : State, ∃ n : Nat, ∃ g e, s.away[n]? = some (g, e) ∧ ∃ l, s.findLaunch g.launch = some l ∧ l.cancel = false ∧ ∃ c, s.coreFor l g e = some c ∧ True) ∧
    (∃ s : State, ∃ a : Nat, s.ticketPlain a ∧ ∃ c : Nat, c < 256) ∧
    (∃ s : State, ∃ l : Launch, ∃ g : Gang, ∃ e : GangTeam, ∃ c : Nat, s.coreFor l g e = some c ∧ s.ticketState e.ticket ≠ 1) ∧
    (∃ s : State, ∃ l : Launch, ∃ g : Gang, ∃ e : GangTeam, ∃ c : Nat, s.coreFor l g e = some c ∧ s.ticketState e.ticket = 1) ∧
    (∃ s : State, ∃ n : Nat, ∃ g e, s.away[n]? = some (g, e) ∧ ∃ l, s.findLaunch g.launch = some l ∧ (l.cancel = true ∨ s.coreFor l g e = none)) :=
  ⟨⟨{ id := 1, ctx := 1, slots := [0], pre := { slice := 100, yielded := true } }, by decide +kernel⟩,
   ⟨(th (fun t => { t with mode := .parked })) (D), ⟨0, ⟨{ id := 1, ctx := 1, slots := [0], pre := { header := some 5 } }, ⟨by decide +kernel, ⟨5, by decide +kernel⟩⟩⟩⟩⟩,
   ⟨(cr (fun k => { k with atoms := [{ slot := 0, pc := 0x108, instr := .add ⟨7, false, 16, 32, 48, 0, 0, false, false, false, 0, 0⟩, lanes := [{ lane := 0, loc := .mem 0x100000, va := 0x80000, sync := false, x := 0, y := 0 }] }] })) ((th (fun t => { t with spec := some {} })) (D)), ⟨0, ⟨{ slots := [0] }, by decide +kernel⟩⟩⟩,
   ⟨((fun s : State => { s with time := 100000 })) ((tm (fun t => { t with pre := { action := 1 } })) (D)), ⟨1, ex_pair (by decide +kernel) (by decide +kernel)⟩⟩,
   ⟨D, ⟨1, ex_pair (by decide +kernel) (by decide +kernel)⟩⟩,
   ⟨D, ⟨1, ex_pair (by decide +kernel) (by decide +kernel)⟩⟩,
   ⟨(tm (fun t => { t with slots := [], freed := 1 })) (D), ⟨1, ex_pair (by decide +kernel) (by decide +kernel)⟩⟩,
   ⟨((fun s : State => { s with holds := [{ line := 0x2200, core := 1, expiry := 1000 }] })) ((tm (fun t => { t with maps := [(0, { va := 0x80000, off := 0, len := 128, zero := false, segs := [{ pa := 0x110000, off := 0, len := 128 }], filled := [0], dirty := [0] })] })) ((tm (fun t => { t with slots := [], freed := 1 })) (D))), ⟨1, ex_pair (by decide +kernel) (by decide +kernel)⟩⟩,
   ⟨D, ⟨1, ex_pair (by decide +kernel) (by decide +kernel)⟩⟩,
   ⟨(words 0x100040 [0, 0, 1]) (((fun s : State => { s with launches := [{ id := 2, queue := 0, ring := 0, ctx := 1, words := [], kd := {}, preload := [], bufs := [] }], gangs := [{ id := 1, launch := 2, index := 0, gtkt := 0, part := 0, teams := [{ core := 0, ticket := 0x100040, team := 1, reserved := false }] }] })) (({} : State))), ⟨0, ex_pair (by decide +kernel) (ex_some (by decide +kernel) (⟨by decide +kernel, ex_some (by decide +kernel) (trivial)⟩))⟩⟩,
   ⟨{}, ⟨0, ⟨by decide +kernel, ⟨0, by decide +kernel⟩⟩⟩⟩,
   ⟨(words 0x100040 [0, 0, 0]) (((fun s : State => { s with launches := [{ id := 2, queue := 0, ring := 0, ctx := 1, words := [], kd := {}, preload := [], bufs := [] }], gangs := [{ id := 1, launch := 2, index := 0, gtkt := 0, part := 0, teams := [{ core := 0, ticket := 0x100040, team := 1, reserved := false }] }] })) (({} : State))), ⟨{ id := 2, queue := 0, ring := 0, ctx := 1, words := [], kd := {}, preload := [], bufs := [] }, ⟨{ id := 1, launch := 2, index := 0, gtkt := 0, part := 0, teams := [{ core := 0, ticket := 0x100040, team := 1, reserved := false }] }, ⟨{ core := 0, ticket := 0x100040, team := 1, reserved := false }, ⟨0, by decide +kernel⟩⟩⟩⟩⟩,
   ⟨(words 0x100040 [0, 0, 1]) (((fun s : State => { s with launches := [{ id := 2, queue := 0, ring := 0, ctx := 1, words := [], kd := {}, preload := [], bufs := [] }], gangs := [{ id := 1, launch := 2, index := 0, gtkt := 0, part := 0, teams := [{ core := 0, ticket := 0x100040, team := 1, reserved := false }] }] })) (({} : State))), ⟨{ id := 2, queue := 0, ring := 0, ctx := 1, words := [], kd := {}, preload := [], bufs := [] }, ⟨{ id := 1, launch := 2, index := 0, gtkt := 0, part := 0, teams := [{ core := 0, ticket := 0x100040, team := 1, reserved := false }] }, ⟨{ core := 0, ticket := 0x100040, team := 1, reserved := false }, ⟨0, by decide +kernel⟩⟩⟩⟩⟩,
   ⟨(words 0x100040 [0, 0, 1]) (((fun s : State => { s with launches := [{ id := 2, queue := 0, ring := 0, ctx := 1, words := [], kd := {}, preload := [], bufs := [], cancel := true }], gangs := [{ id := 1, launch := 2, index := 0, gtkt := 0, part := 0, teams := [{ core := 0, ticket := 0x100040, team := 1, reserved := false }] }] })) (({} : State))), ⟨0, ex_pair (by decide +kernel) (ex_some (by decide +kernel) (by decide +kernel))⟩⟩⟩
theorem test_LeaseProtocol_met :
    (∃ s : State, ∃ msg : LeaseMsg, msg.peer ≠ s.pkg ∧ msg.peer < 1024 ∧ msg.flags ≠ 1 ∧ tabGet 0 (msg.extent % 4096) s.lendable ≠ 0 ∧ (s.lender (msg.extent % 4096)).st = 0 ∧ s.termOk (msg.extent % 4096) msg.term = true) ∧
    (∃ s : State, ∃ msg : LeaseMsg, msg.peer ≠ s.pkg ∧ msg.peer < 1024 ∧ msg.flags ≠ 1 ∧ tabGet 0 (msg.extent % 4096) s.lendable = 0) ∧
    (∃ s : State, ∃ msg : LeaseMsg, msg.peer ≠ s.pkg ∧ msg.peer < 1024 ∧ msg.flags ≠ 1 ∧ tabGet 0 (msg.extent % 4096) s.lendable ≠ 0 ∧ (s.lender (msg.extent % 4096)).st ≠ 0) ∧
    (∃ s : State, ∃ msg : LeaseMsg, msg.peer ≠ s.pkg ∧ msg.peer < 1024 ∧ msg.flags ≠ 1 ∧ tabGet 0 (msg.extent % 4096) s.lendable ≠ 0 ∧ (s.lender (msg.extent % 4096)).st = 0 ∧ s.termOk (msg.extent % 4096) msg.term = false) ∧
    (∃ s : State, ∃ msg : LeaseMsg, msg.peer ≠ s.pkg ∧ msg.peer < 1024 ∧ msg.flags = 1 ∧ (s.lender (msg.extent % 4096)).st = 2 ∧ (s.lender (msg.extent % 4096)).peer = msg.peer ∧ tabGet 0 (msg.extent % 4096) s.lendable ≠ 0 ∧ s.termOk (msg.extent % 4096) msg.term = true) ∧
    (∃ s : State, ∃ msg : LeaseMsg, msg.peer ≠ s.pkg ∧ msg.peer < 1024 ∧ msg.flags = 1 ∧ ((s.lender (msg.extent % 4096)).st ≠ 2 ∨ (s.lender (msg.extent % 4096)).peer ≠ msg.peer)) ∧
    (∃ s : State, ∃ msg : LeaseMsg, msg.peer ≠ s.pkg ∧ msg.peer < 1024 ∧ msg.flags = 1 ∧ (s.lender (msg.extent % 4096)).st = 2 ∧ (s.lender (msg.extent % 4096)).peer = msg.peer ∧ (tabGet 0 (msg.extent % 4096) s.lendable = 0 ∨ s.termOk (msg.extent % 4096) msg.term = false)) ∧
    (∃ s : State, ∃ msg : LeaseMsg, ∃ term, (s.borrower (msg.entry % 4096)).ask = some term ∧ (s.borrower (msg.entry % 4096)).peer = msg.peer ∧ (s.borrower (msg.entry % 4096)).ext = msg.extent ∧ (s.borrower (msg.entry % 4096)).gen = msg.gen ∧ (s.borrower (msg.entry % 4096)).st = 1 ∧ msg.granted = true) ∧
    (∃ s : State, ∃ msg : LeaseMsg, ∃ term, (s.borrower (msg.entry % 4096)).ask = some term ∧ (s.borrower (msg.entry % 4096)).peer = msg.peer ∧ (s.borrower (msg.entry % 4096)).ext = msg.extent ∧ (s.borrower (msg.entry % 4096)).gen = msg.gen ∧ (s.borrower (msg.entry % 4096)).st = 1 ∧ msg.granted = false) ∧
    (∃ s : State, ∃ msg : LeaseMsg, ∃ term, (s.borrower (msg.entry % 4096)).ask = some term ∧ (s.borrower (msg.entry % 4096)).peer = msg.peer ∧ (s.borrower (msg.entry % 4096)).ext = msg.extent ∧ (s.borrower (msg.entry % 4096)).gen = msg.gen ∧ (s.borrower (msg.entry % 4096)).st = 2) ∧
    (∃ s : State, ∃ msg : LeaseMsg, (s.borrower (msg.entry % 4096)).ask = none) ∧
    (∃ s : State, ∃ i : Nat, (s.borrower i).ask.isSome = true ∧ (s.borrower i).since + 50000 ≤ s.time) ∧
    (∃ s : State, ∃ i : Nat, ((s.borrower i).ask = none ∨ s.time < (s.borrower i).since + 50000)) ∧
    (∃ s : State, ∃ i : Nat, (s.borrower i).st = 2 ∧ (s.borrower i).term ≤ s.time + s.leadNs) ∧
    (∃ s : State, ∃ i : Nat, ((s.borrower i).st ≠ 2 ∨ s.time + s.leadNs < (s.borrower i).term)) ∧
    (∃ s : State, ∃ i : Nat, (s.borrower i).st = 3 ∧ (s.borrower i).released = false) ∧
    (Config.peerAnswers 0 1 = true → ∃ s : State, ∃ i : Nat, (s.borrower i).st = 3 ∧ (s.borrower i).released = true ∧ Config.peerAnswers s.time (s.borrower i).peer = true) :=
  ⟨⟨((fun s : State => { s with lendable := [(0, 10000000)] })) (({} : State)), ⟨{ peer := 1, term := 2000000, extent := 0, flags := 0, gen := 1, entry := 0, granted := false, deadline := 0, code := 0 }, by decide +kernel⟩⟩,
   ⟨{}, ⟨{ peer := 1, term := 2000000, extent := 0, flags := 0, gen := 1, entry := 0, granted := false, deadline := 0, code := 0 }, by decide +kernel⟩⟩,
   ⟨((fun s : State => { s with lendable := [(0, 10000000)], lenders := [(0, { st := 2, gen := 1, peer := 1 })] })) (({} : State)), ⟨{ peer := 1, term := 2000000, extent := 0, flags := 0, gen := 1, entry := 0, granted := false, deadline := 0, code := 0 }, by decide +kernel⟩⟩,
   ⟨((fun s : State => { s with lendable := [(0, 10000000)] })) (({} : State)), ⟨{ peer := 1, term := 1000000, extent := 0, flags := 0, gen := 1, entry := 0, granted := false, deadline := 0, code := 0 }, by decide +kernel⟩⟩,
   ⟨((fun s : State => { s with lendable := [(0, 10000000)], lenders := [(0, { st := 2, gen := 1, peer := 1 })] })) (({} : State)), ⟨{ peer := 1, term := 2000000, extent := 0, flags := 1, gen := 1, entry := 0, granted := false, deadline := 0, code := 0 }, by decide +kernel⟩⟩,
   ⟨{}, ⟨{ peer := 1, term := 2000000, extent := 0, flags := 1, gen := 1, entry := 0, granted := false, deadline := 0, code := 0 }, by decide +kernel⟩⟩,
   ⟨((fun s : State => { s with lenders := [(0, { st := 2, gen := 1, peer := 1 })] })) (({} : State)), ⟨{ peer := 1, term := 2000000, extent := 0, flags := 1, gen := 1, entry := 0, granted := false, deadline := 0, code := 0 }, by decide +kernel⟩⟩,
   ⟨((fun s : State => { s with borrowers := [(0, { gen := 1, peer := 1, st := 1, ask := some 5 })], time := 0 })) (({} : State)), ⟨{ peer := 1, term := 2000000, extent := 0, flags := 0, gen := 1, entry := 0, granted := true, deadline := 0, code := 0 }, ex_some (by decide +kernel) (by decide +kernel)⟩⟩,
   ⟨((fun s : State => { s with borrowers := [(0, { gen := 1, peer := 1, st := 1, ask := some 5 })], time := 0 })) (({} : State)), ⟨{ peer := 1, term := 2000000, extent := 0, flags := 0, gen := 1, entry := 0, granted := false, deadline := 0, code := 0 }, ex_some (by decide +kernel) (by decide +kernel)⟩⟩,
   ⟨((fun s : State => { s with borrowers := [(0, { gen := 1, peer := 1, st := 2, ask := some 5 })], time := 0 })) (({} : State)), ⟨{ peer := 1, term := 2000000, extent := 0, flags := 0, gen := 1, entry := 0, granted := false, deadline := 0, code := 0 }, ex_some (by decide +kernel) (by decide +kernel)⟩⟩,
   ⟨{}, ⟨{ peer := 1, term := 2000000, extent := 0, flags := 0, gen := 1, entry := 0, granted := false, deadline := 0, code := 0 }, by decide +kernel⟩⟩,
   ⟨((fun s : State => { s with borrowers := [(0, { gen := 1, peer := 1, st := 1, ask := some 5 })], time := 50000 })) (({} : State)), ⟨0, by decide +kernel⟩⟩,
   ⟨{}, ⟨0, by decide +kernel⟩⟩,
   ⟨((fun s : State => { s with borrowers := [(0, { gen := 1, peer := 1, st := 2 })], time := 0 })) (({} : State)), ⟨0, by decide +kernel⟩⟩,
   ⟨{}, ⟨0, by decide +kernel⟩⟩,
   ⟨((fun s : State => { s with borrowers := [(0, { gen := 1, peer := 1, st := 3 })], time := 0 })) (({} : State)), ⟨0, by decide +kernel⟩⟩,
   fun hf => ⟨((fun s : State => { s with borrowers := [(0, { gen := 1, peer := 1, st := 3, released := true })], time := 0 })) (({} : State)), ⟨0, ⟨by decide +kernel, ⟨by decide +kernel, hf⟩⟩⟩⟩⟩
theorem test_LeaseProtocol_met2 :
    (∃ s : State, ∃ i : Nat, ((s.borrower i).st ≠ 3 ∨ (s.borrower i).released = true ∧ Config.peerAnswers s.time (s.borrower i).peer = false)) ∧
    (∃ s : State, ∃ i : Nat, ((s.borrower i).st = 2 ∨ (s.borrower i).st = 3) ∧ s.extentWaits (extentBase (s.borrower i).peer (s.borrower i).ext) extentBytes = false) ∧
    (∃ s : State, ∃ i : Nat, ((s.borrower i).st = 2 ∨ (s.borrower i).st = 3) ∧ s.extentWaits (extentBase (s.borrower i).peer (s.borrower i).ext) extentBytes = true) ∧
    (∃ s : State, ∃ i : Nat, (s.borrower i).st ≠ 2 ∧ (s.borrower i).st ≠ 3) ∧
    (∃ s : State, ∃ e : Nat, (s.lender e).st = 2 ∧ (s.lender e).term ≤ s.time) ∧
    (∃ s : State, ∃ e : Nat, ((s.lender e).st ≠ 2 ∨ s.time < (s.lender e).term)) ∧
    (∃ s : State, ∃ e : Nat, ((s.lender e).st = 2 ∨ (s.lender e).st = 3)) ∧
    (∃ s : State, ∃ e : Nat, (s.lender e).st ≠ 2 ∧ (s.lender e).st ≠ 3) ∧
    (∃ s : State, ∃ line : Nat, s.isLocal (line * 128) = true ∧ ∃ x, s.snoops.find? (fun x => x.line = line && x.pending) = some x ∧ True) ∧
    (∃ s : State, ∃ line : Nat, s.isLocal (line * 128) = true ∧ (∀ x ∈ s.snoops, x.line = line → x.pending = false)) ∧
    (∃ s : State, ∃ line : Nat, s.isLocal (line * 128) = false ∧ ∃ i : Nat, ((s.borrower i).st = 2 ∨ (s.borrower i).st = 3) ∧ inExtent (s.borrower i).peer (s.borrower i).ext (line * 128) = true) ∧
    (∃ s : State, ∃ e : Nat, (s.lender e).st = 3 ∧ (∀ x ∈ s.snoops, x.pending = true → x.holder < 1024 → inExtent s.pkg e (x.line * 128) = false) ∧ s.extentWaits (extentBase s.pkg e) extentBytes = false) ∧
    (∃ s : State, ∃ e : Nat, ((s.lender e).st ≠ 3 ∨ s.extentWaits (extentBase s.pkg e) extentBytes = true ∨ (∃ x ∈ s.snoops, x.pending = true ∧ x.holder < 1024 ∧ inExtent s.pkg e (x.line * 128) = true))) ∧
    (∃ s : State, ∃ p : Nat, s.leased p = true ∧ (s.peer p).sent + 10000 ≤ s.time) ∧
    (∃ s : State, ∃ p : Nat, (s.leased p = false ∨ s.time < (s.peer p).sent + 10000)) ∧
    (∃ s : State, ∃ p : Nat, s.silent p = true ∧ (s.silentBorrowers p ≠ [] ∨ s.silentLenders p ≠ [])) ∧
    (∃ s : State, ∃ p : Nat, (s.silent p = false ∨ (s.silentBorrowers p = [] ∧ s.silentLenders p = []))) :=
  ⟨⟨{}, ⟨0, by decide +kernel⟩⟩,
   ⟨((fun s : State => { s with borrowers := [(0, { gen := 1, peer := 1, st := 3 })], time := 0 })) (({} : State)), ⟨0, by decide +kernel⟩⟩,
   ⟨((fun s : State => { s with dirs := [{ slice := 0, team := 1, handle := 0, page := { va := 0x80000, pa := 0x100000000000, bits := 19 } }], borrowers := [(0, { gen := 1, peer := 0, st := 3 })] })) ((cr (fun k => { k with cmds := [{ id := 7, entry := 0, kind := .cpfs, team := some 1, ctx := 1, pc := 0, len := 8, tile := some { base := 0x80000, esz := 2, ext := [4], stride := [4] } }], bufs := [{ cmd := 7, unit := 0, data := [] }] })) ((tm (fun t => { t with handles := [(0, { opened := true, mode := 2, desc := { base := 0x80000, esz := 2, ext := [4], stride := [4] }, pieces := [[(0, 4)]] })] })) (D))), ⟨0, by decide +kernel⟩⟩,
   ⟨{}, ⟨0, by decide +kernel⟩⟩,
   ⟨((fun s : State => { s with lenders := [(0, { gen := 1, peer := 1, st := 2, term := 5 })], time := 5 })) (({} : State)), ⟨0, by decide +kernel⟩⟩,
   ⟨{}, ⟨0, by decide +kernel⟩⟩,
   ⟨((fun s : State => { s with lenders := [(0, { gen := 1, peer := 1, st := 3 })], time := 0 })) (({} : State)), ⟨0, by decide +kernel⟩⟩,
   ⟨{}, ⟨0, by decide +kernel⟩⟩,
   ⟨((fun s : State => { s with snoops := [{ line := 0, holder := 1, modified := true, pending := true }] })) (({} : State)), ⟨0, ⟨by decide +kernel, ex_some (by decide +kernel) (trivial)⟩⟩⟩,
   ⟨{}, ⟨0, by decide +kernel⟩⟩,
   ⟨((fun s : State => { s with borrowers := [(0, { gen := 1, peer := 1, st := 2 })], time := 0 })) (({} : State)), ⟨extentBase 1 0 / 128, ⟨by decide +kernel, ⟨0, by decide +kernel⟩⟩⟩⟩,
   ⟨((fun s : State => { s with lenders := [(0, { gen := 1, peer := 1, st := 3 })], time := 0 })) (({} : State)), ⟨0, by decide +kernel⟩⟩,
   ⟨{}, ⟨0, by decide +kernel⟩⟩,
   ⟨((fun s : State => { s with lenders := [(0, { gen := 1, peer := 1, st := 2 })], time := 10000 })) (({} : State)), ⟨1, by decide +kernel⟩⟩,
   ⟨{}, ⟨0, by decide +kernel⟩⟩,
   ⟨((fun s : State => { s with lenders := [(0, { gen := 1, peer := 1, st := 2 })], time := 50000 })) (({} : State)), ⟨1, by decide +kernel⟩⟩,
   ⟨{}, ⟨0, by decide +kernel⟩⟩⟩
theorem test_LinksHostsAndEthernet_met :
    (∃ port : Nat, port < 96 ∧ ∃ n : Nat, n ≤ 640) ∧
    (∃ port : Nat, ∃ n : Nat, (96 ≤ port ∨ 640 < n)) ∧
    (∃ port : Nat, port < 96) ∧
    (∃ port : Nat, port < 96 ∧ ∃ s : State, (tabGet {} port s.garef : Garef).training = false ∧ (tabGet {} port s.garef : Garef).down = none ∧ ∃ seq : Nat, seq = (tabGet {} port s.garef : Garef).expect) ∧
    (∃ port : Nat, port < 96 ∧ ∃ s : State, (tabGet {} port s.garef : Garef).training = false ∧ (tabGet {} port s.garef : Garef).down = none ∧ ∃ seq : Nat, seq = (tabGet {} port s.garef : Garef).expect ∧ (tabGet {} port s.garef : Garef).refused = false) ∧
    (∃ port : Nat, port < 96 ∧ ∃ s : State, (tabGet {} port s.garef : Garef).training = false ∧ (tabGet {} port s.garef : Garef).down = none ∧ ∃ seq : Nat, seq = (tabGet {} port s.garef : Garef).expect ∧ (tabGet {} port s.garef : Garef).refused = true) ∧
    (∃ port : Nat, 96 ≤ port) ∧
    (∃ port : Nat, port < 96 ∧ ∃ s : State, ∃ seq : Nat, ((tabGet {} port s.garef : Garef).training = true ∨ (tabGet {} port s.garef : Garef).down.isSome = true ∨ seq ≠ (tabGet {} port s.garef : Garef).expect)) ∧
    (∃ port : Nat, port < 96 ∧ ∃ s : State, (tabGet {} port s.garef : Garef).down = none) ∧
    (∃ port : Nat, port < 96 ∧ ∃ s : State, ∃ since, (tabGet {} port s.garef : Garef).down = some since ∧ (tabGet {} port s.garef : Garef).reported = false ∧ since + 1000000 ≤ s.time) ∧
    (∃ s : State, ∃ port : Nat, ∃ since, (tabGet {} port s.garef : Garef).down = some since ∧ ((tabGet {} port s.garef : Garef).reported = true ∨ s.time < since + 1000000)) ∧
    (∃ port : Nat, port < 96) ∧
    (∃ port : Nat, 4 ≤ port) ∧
    (∃ port : Nat, port < 4 ∧ ∃ s : State, ∃ line : Nat, (s.isLocal (line * 128) = false ∨ localRegion (localAddr (line * 128)) = .reserved ∨ localRegion (localAddr (line * 128)) = .regs ∨ s.tag (line * 128) ≠ 0)) :=
  ⟨⟨0, ⟨by decide +kernel, ⟨0, by decide +kernel⟩⟩⟩,
   ⟨96, ⟨0, by decide +kernel⟩⟩,
   ⟨0, by decide +kernel⟩,
   ⟨0, ⟨by decide +kernel, ⟨{}, ⟨by decide +kernel, ⟨by decide +kernel, ⟨0, by decide +kernel⟩⟩⟩⟩⟩⟩,
   ⟨0, ⟨by decide +kernel, ⟨{}, ⟨by decide +kernel, ⟨by decide +kernel, ⟨0, by decide +kernel⟩⟩⟩⟩⟩⟩,
   ⟨0, ⟨by decide +kernel, ⟨((fun s : State => { s with garef := [(0, { refused := true })], time := 0 })) (({} : State)), ⟨by decide +kernel, ⟨by decide +kernel, ⟨0, by decide +kernel⟩⟩⟩⟩⟩⟩,
   ⟨96, by decide +kernel⟩,
   ⟨0, ⟨by decide +kernel, ⟨{}, ⟨1, by decide +kernel⟩⟩⟩⟩,
   ⟨0, ⟨by decide +kernel, ⟨{}, by decide +kernel⟩⟩⟩,
   ⟨0, ⟨by decide +kernel, ⟨((fun s : State => { s with garef := [(0, { down := some 0 })], time := 1000000 })) (({} : State)), ex_some (by decide +kernel) (by decide +kernel)⟩⟩⟩,
   ⟨((fun s : State => { s with garef := [(0, { down := some 0 })], time := 0 })) (({} : State)), ⟨0, ex_some (by decide +kernel) (by decide +kernel)⟩⟩,
   ⟨0, by decide +kernel⟩,
   ⟨4, by decide +kernel⟩,
   ⟨0, ⟨by decide +kernel, ⟨{}, ⟨2 ^ 39, by decide +kernel⟩⟩⟩⟩⟩
theorem test_LinksHostsAndEthernet_met2 :
    (∃ port : Nat, port < 4 ∧ ∃ s : State, ∃ line : Nat, s.isLocal (line * 128) = true ∧ localRegion (localAddr (line * 128)) ≠ .reserved ∧ localRegion (localAddr (line * 128)) ≠ .regs ∧ s.tag (line * 128) = 0 ∧ ∃ m : Bool, (∃ x ∈ s.snoops, x.line = line ∧ x.holder ≠ 1024 + port ∧ (m = true ∨ x.modified = true))) ∧
    (∃ port : Nat, port < 4 ∧ ∃ s : State, ∃ line : Nat, s.isLocal (line * 128) = true ∧ localRegion (localAddr (line * 128)) ≠ .reserved ∧ localRegion (localAddr (line * 128)) ≠ .regs ∧ s.tag (line * 128) = 0 ∧ ∃ m : Bool, (∀ x ∈ s.snoops, x.line = line → x.holder ≠ 1024 + port → m = false ∧ x.modified = false) ∧ (s.snoops.filter (fun x => decide (1024 ≤ x.holder))).length < 4194304) ∧
    (∃ port : Nat, port < 4 ∧ ∃ s : State, ∃ line : Nat, s.isLocal (line * 128) = true ∧ localRegion (localAddr (line * 128)) ≠ .reserved ∧ localRegion (localAddr (line * 128)) ≠ .regs ∧ s.tag (line * 128) = 0 ∧ ∃ m : Bool, (∀ x ∈ s.snoops, x.line = line → x.holder ≠ 1024 + port → m = false ∧ x.modified = false) ∧ 4194304 ≤ (s.snoops.filter (fun x => decide (1024 ≤ x.holder))).length ∧ (∀ x ∈ s.snoops, 1024 ≤ x.holder → ¬ (x.line = line ∧ x.holder = 1024 + port) ∧ x.pending = false)) ∧
    (∃ s : State, ∃ port : Nat, ∃ fcs : Bool, ∃ stamp : DWord, (fcs = false ∨ 4 ≤ port ∨ s.time + 4 < stamp.toNat ∨ stamp.toNat + 4 < s.time ∧ (∀ f ∈ s.frames, f.port ≠ port))) ∧
    (∃ port : Nat, port < 4) ∧
    (∃ port : Nat, port < 4 ∧ ∃ s : State, ∃ stamp : DWord, stamp.toNat ≤ s.time + 4 ∧ s.time ≤ stamp.toNat + 4 ∧ ∃ f, (s.frames.filter (fun f => f.port = port)).head? = some f ∧ ∃ frame : List Byte, f ≠ { port := port, bytes := frame, stamp := stamp } ∧ ({ port := port, bytes := frame, stamp := stamp } : EthFrame) ∉ s.frames) ∧
    (∃ s : State, ∃ q : PeerReq, s.isLocal q.addr = false) ∧
    (∃ q : PeerReq, q.data = none) ∧
    (∃ q : PeerReq, ∃ bs : List Byte, q.data = some bs ∧ bs.length = q.size ∧ ∃ s : State, s.lcache = [] ∧ s.dirs = [] ∧ (∀ i, i < q.size → s.place (q.addr + i) = .mem (q.addr + i)) ∧ s.placesHeld none ((List.range q.size).map (fun i => some (s.place (q.addr + i)))) = false) ∧
    (∃ q : PeerReq, q.kind = .host ∧ 4 ≤ q.source) ∧
    (∃ s : State, ∃ q : PeerReq, s.isLocal q.addr = true ∧ s.peerRefused q = false ∧ q.kind = .host ∧ localRegion (localAddr q.addr) = .regs ∧ q.data = none) ∧
    (∃ s : State, ∃ q : PeerReq, s.isLocal q.addr = true ∧ s.peerRefused q = true) ∧
    (∃ s : State, ∃ q : PeerReq, s.isLocal q.addr = true ∧ s.peerRefused q = false ∧ q.kind = .host ∧ localRegion (localAddr q.addr) ≠ .regs ∧ q.data = none ∧ s.snoops = [] ∧ s.placesStall none ((List.range q.size).map (fun i => some (s.place (q.addr + i)))) = false ∧ (∀ i, i < q.size → s.place (q.addr + i) = .mem (q.addr + i))) ∧
    (∃ s : State, ∃ q : PeerReq, s.isLocal q.addr = true ∧ s.peerRefused q = false ∧ q.kind = .host ∧ localRegion (localAddr q.addr) ≠ .regs ∧ ∃ bs, q.data = some bs ∧ bs.length = q.size ∧ s.snoops = [] ∧ s.lcache = [] ∧ s.holds = [] ∧ s.dirs = [] ∧ (∀ i, i < q.size → s.place (q.addr + i) = .mem (q.addr + i) ∧ s.isLocal (q.addr + i) = true)) :=
  ⟨⟨0, ⟨by decide +kernel, ⟨((fun s : State => { s with snoops := [{ line := 0, holder := 1, modified := true }] })) (({} : State)), ⟨0, ⟨by decide +kernel, ⟨by decide +kernel, ⟨by decide +kernel, ⟨by decide +kernel, ⟨true, by decide +kernel⟩⟩⟩⟩⟩⟩⟩⟩⟩,
   ⟨0, ⟨by decide +kernel, ⟨{}, ⟨0, ⟨by decide +kernel, ⟨by decide +kernel, ⟨by decide +kernel, ⟨by decide +kernel, ⟨true, by decide +kernel⟩⟩⟩⟩⟩⟩⟩⟩⟩,
   ⟨1, ⟨by decide +kernel, ⟨((fun s : State => { s with snoops := List.replicate 4194304 { line := 0, holder := 1024, modified := false } })) (({} : State)), ⟨0x2000, ⟨by decide +kernel, ⟨by decide +kernel, ⟨by decide +kernel, ⟨by decide +kernel, ⟨false, ⟨((fun x hx h => absurd h (by rw [List.eq_of_mem_replicate hx]; decide))), ⟨((by rw [List.filter_replicate, if_pos (by decide), List.length_replicate])), (fun x hx _ => by rw [List.eq_of_mem_replicate hx]; decide)⟩⟩⟩⟩⟩⟩⟩⟩⟩⟩⟩,
   ⟨{}, ⟨0, ⟨false, ⟨0, by decide +kernel⟩⟩⟩⟩,
   ⟨0, by decide +kernel⟩,
   ⟨0, ⟨by decide +kernel, ⟨((fun s : State => { s with frames := [{ port := 0, bytes := [1], stamp := 0 }] })) (({} : State)), ⟨0, ⟨by decide +kernel, ⟨by decide +kernel, ex_some (by decide +kernel) (⟨[2], by decide +kernel⟩)⟩⟩⟩⟩⟩⟩,
   ⟨{}, ⟨{ kind := .host, source := 0, ticket := 0, addr := 0x500000000000, size := 0, data := none }, by decide +kernel⟩⟩,
   ⟨{ kind := .host, source := 0, ticket := 0, addr := 0x500000000000, size := 0, data := none }, by decide +kernel⟩,
   ⟨{ kind := .host, source := 0, ticket := 0, addr := 0x500000000000, size := 1, data := some [1] }, ⟨[1], ⟨by decide +kernel, ⟨by decide +kernel, ⟨{}, by decide +kernel⟩⟩⟩⟩⟩,
   ⟨{ kind := .host, source := 7, ticket := 0, addr := 0x100000, size := 0, data := none }, by decide +kernel⟩,
   ⟨{}, ⟨{ kind := .host, source := 0, ticket := 0, addr := 0x3F0000000000, size := 8, data := none }, by decide +kernel⟩⟩,
   ⟨{}, ⟨{ kind := .host, source := 0, ticket := 0, addr := 0x100000, size := 0, data := none }, by decide +kernel⟩⟩,
   ⟨{}, ⟨{ kind := .host, source := 0, ticket := 0, addr := 0x100000, size := 4, data := none }, ⟨by decide +kernel, ⟨by decide +kernel, ⟨by decide +kernel, ⟨by decide +kernel, ⟨by decide +kernel, ⟨by decide +kernel, ⟨by decide +kernel, (fun i hi => by decide +revert +kernel)⟩⟩⟩⟩⟩⟩⟩⟩⟩,
   ⟨{}, ⟨{ kind := .host, source := 0, ticket := 0, addr := 0x100000, size := 4, data := some [1, 2, 3, 4] }, ⟨by decide +kernel, ⟨by decide +kernel, ⟨by decide +kernel, ⟨by decide +kernel, ex_some (by decide +kernel) (⟨by decide +kernel, ⟨by decide +kernel, ⟨by decide +kernel, ⟨by decide +kernel, ⟨by decide +kernel, (fun i hi => by decide +revert +kernel)⟩⟩⟩⟩⟩)⟩⟩⟩⟩⟩⟩⟩
theorem test_StartsPowerAndFirmware_met :
    (∃ s : State, s.enumerated = false ∧ ∃ p : Nat, p < 1024) ∧
    (∃ s : State, ∃ p : Nat, (s.enumerated = true ∨ 1024 ≤ p)) ∧
    (∃ g : Nat, g < 16 ∧ ∃ d : Nat, d < 4 ∧ ∃ s : State, ∃ on : Bool, refreshAt s.time g = on) ∧
    (∃ s : State, ∃ d : Nat, ∃ g : Nat, ∃ on : Bool, (16 ≤ g ∨ 4 ≤ d ∨ refreshAt s.time g ≠ on)) ∧
    (∃ d : Nat, d < 4 ∧ ∃ s : State, (s.die d).hbit ≠ s.time.testBit 39) ∧
    (∃ d : Nat, d < 4 ∧ ∃ s : State, (s.die d).hbit ≠ s.time.testBit 39 ∧ s.lateSleepers d = []) ∧
    (∃ s : State, ∃ d : Nat, ((s.die d).hbit = s.time.testBit 39 ∨ 4 ≤ d)) ∧
    (∃ c : Nat, c < 144 ∧ ∃ s : State, (s.core c).sleep = none ∧ s.coreIdle c = true) ∧
    (∃ s : State, ∃ c : Nat, ((s.core c).sleep.isSome = true ∨ s.coreIdle c = false ∨ 144 ≤ c)) ∧
    (∃ c : Nat, c < 144 ∧ ∃ s : State, ∃ h, (s.core c).sleep = some h ∧ True) ∧
    (∃ s : State, ∃ o : Bool, (o = true ∨ s.flushed + 3600000000000 ≤ s.time)) ∧
    (∃ s : State, s.time < s.flushed + 3600000000000) ∧
    (∃ s : State, ∃ l : Loc, ∃ rest : List Move, s.agenda = .ecc l :: rest) ∧
    (∃ s : State, ∃ y : Nat, ∃ o : Nat, ∃ rest : List Move, s.agenda = .eccBuffer y o :: rest) ∧
    (∃ s : State, ∃ pa : Nat, s.lcKept pa = none) ∧
    (∃ s : State, ∃ y : Nat, ∃ c x, s.findTeam y = some (c, x) ∧ True) ∧
    (∃ s : State, s.fm.manager.isSome = true ∧ s.fm.expiry ≤ s.time) ∧
    (∃ s : State, (s.fm.manager = none ∨ s.time < s.fm.expiry)) ∧
    (∃ s : State, ∃ p : Nat, s.fm.manager = some p ∧ s.time < s.fm.expiry ∧ s.fm.renewed + 100000 ≤ s.time ∧ ∃ n : Nat, (p = s.pkg → Config.fmCandidates s.fm.epoch < 2 * n ∧ s.fm.priority ≠ 0)) ∧
    (Config.fmRival 0 = (1, 1) → ∃ s : State, (s.fm.manager = none ∨ s.fm.expiry ≤ s.time) ∧ ∃ p : Nat, s.fmWinner = some p ∧ ∃ n : Nat, (p = s.pkg → Config.fmCandidates s.fm.epoch < 2 * n)) :=
  ⟨⟨{}, ⟨by decide +kernel, ⟨0, by decide +kernel⟩⟩⟩,
   ⟨{}, ⟨1024, by decide +kernel⟩⟩,
   ⟨0, ⟨by decide +kernel, ⟨0, ⟨by decide +kernel, ⟨{}, ⟨true, by decide +kernel⟩⟩⟩⟩⟩⟩,
   ⟨{}, ⟨0, ⟨16, ⟨true, by decide +kernel⟩⟩⟩⟩,
   ⟨0, ⟨by decide +kernel, ⟨((fun s : State => { s with time := 2 ^ 39 })) (({} : State)), by decide +kernel⟩⟩⟩,
   ⟨0, ⟨by decide +kernel, ⟨((fun s : State => { s with time := 2 ^ 39 })) (({} : State)), by decide +kernel⟩⟩⟩,
   ⟨{}, ⟨0, by decide +kernel⟩⟩,
   ⟨0, ⟨by decide +kernel, ⟨(th (fun t => { t with mode := .waiting .retry })) (agent), by decide +kernel⟩⟩⟩,
   ⟨{}, ⟨0, by decide +kernel⟩⟩,
   ⟨0, ⟨by decide +kernel, ⟨(cr (fun k => { k with sleep := some 0 })) (({} : State)), ex_some (by decide +kernel) (trivial)⟩⟩⟩,
   ⟨{}, ⟨true, by decide +kernel⟩⟩,
   ⟨{}, by decide +kernel⟩,
   ⟨((fun s : State => { s with agenda := [.ecc (.mem 0)] })) (({} : State)), ⟨.mem 0, ⟨[], by decide +kernel⟩⟩⟩,
   ⟨((fun s : State => { s with agenda := [.eccBuffer 1 0] })) (({} : State)), ⟨1, ⟨0, ⟨[], by decide +kernel⟩⟩⟩⟩,
   ⟨{}, ⟨0, by decide +kernel⟩⟩,
   ⟨D, ⟨1, ex_pair (by decide +kernel) (trivial)⟩⟩,
   ⟨((fun s : State => { s with fm := { manager := some 1, expiry := 100000 }, time := 100000 })) (({} : State)), by decide +kernel⟩,
   ⟨{}, by decide +kernel⟩,
   ⟨((fun s : State => { s with fm := { manager := some 1, expiry := 100001 }, time := 100000 })) (({} : State)), ⟨1, ⟨by decide +kernel, ⟨by decide +kernel, ⟨by decide +kernel, ⟨0, (fun h => absurd h (by decide +kernel))⟩⟩⟩⟩⟩⟩,
   fun hf => ⟨{}, ⟨((.inl rfl)), ⟨1, ⟨((by simp [State.fmWinner, hf])), ⟨0, (fun h => absurd h (by decide +kernel))⟩⟩⟩⟩⟩⟩
theorem test_EncodingRoundTrip_met :
    (∃ i : Instr, i.WellFormed ∧ ∃ w, encodeWord i = some w ∧ True) ∧
    (∃ i : Instr, i.WellFormed ∧ ∃ w, encodeWord i = some w ∧ True) ∧
    (∃ w : DWord, ∃ v : DWord, ∃ i, decodeWord w v = .ok i) ∧
    (∃ w : Word, ∃ i, decodeHouse w = some i ∧ True) :=
  ⟨⟨.add ⟨7, false, 16, 32, 48, 0, 0, false, false, false, 0, 0⟩, ⟨by decide +kernel, ex_some (by decide +kernel) (trivial)⟩⟩,
   ⟨.add ⟨7, false, 16, 32, 48, 0, 0, false, false, false, 0, 0⟩, ⟨by decide +kernel, ex_some (by decide +kernel) (trivial)⟩⟩,
   ⟨0x206038140C000500, ⟨0, ⟨.add ⟨3, false, 7, 5, 6, 0, 1, false, true, false, 0, 0⟩, by decide +kernel⟩⟩⟩,
   ⟨0x00B5040B, ex_some (by decide +kernel) (trivial)⟩⟩
theorem test_StepRunsDecoded_met :
    (∃ s : State, ∃ c : Nat, ∃ w : Nat, ∃ ls : List Nat, let e := { s with cur := { s.cur with core := c, slot := w, lanes := maskOf ls } }; ls ≠ [] ∧ ∃ g, e.group = some g ∧ e.convTrap g = none ∧ g.ctl.entry = false ∧ ∃ u : State, ∃ w1 : DWord, e.fetch g.core g.slot g.pc.toNat = (u, .word w1)) ∧
    (∃ ls : List Nat, ls ≠ [] ∧ ∃ s : State, ∃ c : Nat, ∃ w : Nat, ∃ g, ({ s with cur := { s.cur with core := c, slot := w, lanes := maskOf ls } } : State).group = some g ∧ ({ s with cur := { s.cur with core := c, slot := w, lanes := maskOf ls } } : State).convTrap g = none ∧ g.ctl.entry = false ∧ ∃ u : State, ∃ w1 : DWord, ({ s with cur := { s.cur with core := c, slot := w, lanes := maskOf ls } } : State).fetch g.core g.slot g.pc.toNat = (u, .word w1) ∧ decodeWord w1 0 = .ok (.add ⟨7, false, 16, 32, 48, 0, 0, false, false, false, 0, 0⟩) ∧ (majorForm (majorOf w1) ≠ some .L ∨ u.staticReason g {} {} ≠ 0)) ∧
    (∃ ls : List Nat, ls ≠ [] ∧ ∃ s : State, ∃ c : Nat, ∃ w : Nat, ∃ g, ({ s with cur := { s.cur with core := c, slot := w, lanes := maskOf ls } } : State).group = some g ∧ ({ s with cur := { s.cur with core := c, slot := w, lanes := maskOf ls } } : State).convTrap g = none ∧ g.ctl.entry = false ∧ ∃ u : State, ∃ w1 : DWord, ({ s with cur := { s.cur with core := c, slot := w, lanes := maskOf ls } } : State).fetch g.core g.slot g.pc.toNat = (u, .word w1) ∧ decodeWord w1 0 = .illegal 5) ∧
    (∃ ls : List Nat, ls ≠ [] ∧ ∃ s : State, ∃ c : Nat, ∃ w : Nat, ∃ g, ({ s with cur := { s.cur with core := c, slot := w, lanes := maskOf ls } } : State).group = some g ∧ ({ s with cur := { s.cur with core := c, slot := w, lanes := maskOf ls } } : State).convTrap g = none ∧ g.ctl.entry = false ∧ ∃ u : State, ∃ w1 : DWord, ({ s with cur := { s.cur with core := c, slot := w, lanes := maskOf ls } } : State).fetch g.core g.slot g.pc.toNat = (u, .word w1) ∧ decodeWord w1 0 = .illegal 4) ∧
    (∃ ls : List Nat, ls ≠ [] ∧ ∃ s : State, ∃ c : Nat, ∃ w : Nat, ∃ g, ({ s with cur := { s.cur with core := c, slot := w, lanes := maskOf ls } } : State).group = some g ∧ ({ s with cur := { s.cur with core := c, slot := w, lanes := maskOf ls } } : State).convTrap g = none ∧ g.ctl.entry = false ∧ ∃ u : State, ∃ w1 : DWord, ({ s with cur := { s.cur with core := c, slot := w, lanes := maskOf ls } } : State).fetch g.core g.slot g.pc.toNat = (u, .word w1) ∧ decodeWord w1 0 = .ok (.li ⟨7, false, 16, 0, false, false, 4, 0, 0⟩) ∧ majorForm (majorOf w1) = some .L ∧ u.staticReason g (Instr.fields (.li ⟨7, false, 16, 0, false, false, 4, 0, 0⟩) |>.getD {}) (Instr.row (.li ⟨7, false, 16, 0, false, false, 4, 0, 0⟩)) = 0 ∧ ∃ v : State, ∃ w2 : DWord, u.fetch g.core g.slot (g.pc + 8#64).toNat = (v, .word w2) ∧ decodeWord w1 w2 = .ok (.li ⟨7, false, 16, 0, false, false, 4, 0, 9⟩)) ∧
    (∃ s : State, ∃ c : Nat, ∃ w : Nat, (tabFind w (s.core c).weaves).isSome = true ∧ ∃ l : Nat, (s.thread c w l).offers = true ∧ s.mayIssue c w l = true ∧ (∀ m ∈ s.mates c w l, (s.thread c w m).spec = none)) ∧
    (∃ s : State, ∃ c : Nat, ∃ w : Nat, (tabFind w (s.core c).weaves).isSome = true ∧ ∃ l : Nat, (s.thread c w l).offers = true ∧ s.mayIssue c w l = true ∧ (s.mates c w l).filter (fun m => (s.thread c w m).spec.isNone) = [0, 1]) ∧
    (∃ s : State, ∃ c : Nat, ∃ w : Nat, ∃ l : Nat, ∃ m : Nat, m ∈ s.mates c w l) ∧
    (∃ m : Nat, m < 32 ∧ ∃ s : State, ∃ c : Nat, ∃ w : Nat, s.mayIssue c w m = true ∧ (s.thread c w m).offers = true ∧ (s.thread c w m).mode = .ready ∧ ∃ l : Nat, (s.thread c w m).ctl.pc = (s.thread c w l).ctl.pc ∧ (s.thread c w m).ctl.entry = (s.thread c w l).ctl.entry) ∧
    (∃ c : Nat, c < 144 ∧ ∃ s : State, ∃ w : Nat, ∃ l : Nat, ∃ rest : List Move, s.agenda = .issue c w l :: rest) ∧
    (∃ s : State, s.agenda = [] ∧ s.tick % 2 = 0 ∧ s.idling = false ∧ ∃ c : Nat, ∃ w : Nat, ∃ l : Nat, ∃ due : List Nat, ∃ last : Nat, s.elapse.nextIssue = some (c, w, l, due, last)) ∧
    (∃ s : State, ∃ i : Instr, ∃ rest : List Move, s.agenda = .event i :: rest ∧ i.isWord = false) :=
  ⟨⟨D, ⟨0, ⟨0, ⟨[0], ⟨by decide +kernel, ex_some (by decide +kernel) (⟨by decide +kernel, ⟨by decide +kernel, ⟨(({ (D) with cur := { (D).cur with core := 0, slot := 0, lanes := maskOf [0] } } : State).fetch 0 0 0x108).1, ⟨0, by decide +kernel⟩⟩⟩⟩)⟩⟩⟩⟩⟩,
   ⟨[0], ⟨by decide +kernel, ⟨(words 0x80108 [0x20E0808060000000]) (D), ⟨0, ⟨0, ex_some (by decide +kernel) (⟨by decide +kernel, ⟨by decide +kernel, ⟨(({ ((words 0x80108 [0x20E0808060000000]) (D)) with cur := { ((words 0x80108 [0x20E0808060000000]) (D)).cur with core := 0, slot := 0, lanes := maskOf [0] } } : State).fetch 0 0 0x108).1, ⟨0x20E0808060000000, by decide +kernel⟩⟩⟩⟩)⟩⟩⟩⟩⟩,
   ⟨[0], ⟨by decide +kernel, ⟨(words 0x80108 [0x4CE080000000F000]) (D), ⟨0, ⟨0, ex_some (by decide +kernel) (⟨by decide +kernel, ⟨by decide +kernel, ⟨(({ ((words 0x80108 [0x4CE080000000F000]) (D)) with cur := { ((words 0x80108 [0x4CE080000000F000]) (D)).cur with core := 0, slot := 0, lanes := maskOf [0] } } : State).fetch 0 0 0x108).1, ⟨0x4CE080000000F000, by decide +kernel⟩⟩⟩⟩)⟩⟩⟩⟩⟩,
   ⟨[0], ⟨by decide +kernel, ⟨(words 0x80108 [0xFF00000000000000]) (D), ⟨0, ⟨0, ex_some (by decide +kernel) (⟨by decide +kernel, ⟨by decide +kernel, ⟨(({ ((words 0x80108 [0xFF00000000000000]) (D)) with cur := { ((words 0x80108 [0xFF00000000000000]) (D)).cur with core := 0, slot := 0, lanes := maskOf [0] } } : State).fetch 0 0 0x108).1, ⟨0xFF00000000000000, by decide +kernel⟩⟩⟩⟩)⟩⟩⟩⟩⟩,
   ⟨[0], ⟨by decide +kernel, ⟨(words 0x80108 [0x4ce0800000000040, 9]) (D), ⟨0, ⟨0, ex_some (by decide +kernel) (⟨by decide +kernel, ⟨by decide +kernel, ⟨(({ ((words 0x80108 [0x4ce0800000000040, 9]) (D)) with cur := { ((words 0x80108 [0x4ce0800000000040, 9]) (D)).cur with core := 0, slot := 0, lanes := maskOf [0] } } : State).fetch 0 0 0x108).1, ⟨0x4ce0800000000040, ⟨by decide +kernel, ⟨by decide +kernel, ⟨by decide +kernel, ⟨by decide +kernel, ⟨((({ ((words 0x80108 [0x4ce0800000000040, 9]) (D)) with cur := { ((words 0x80108 [0x4ce0800000000040, 9]) (D)).cur with core := 0, slot := 0, lanes := maskOf [0] } } : State).fetch 0 0 0x108).1.fetch 0 0 0x110).1, ⟨9, by decide +kernel⟩⟩⟩⟩⟩⟩⟩⟩⟩⟩)⟩⟩⟩⟩⟩,
   ⟨D, ⟨0, ⟨0, ⟨by decide +kernel, ⟨0, by decide +kernel⟩⟩⟩⟩⟩,
   ⟨D2, ⟨0, ⟨0, ⟨by decide +kernel, ⟨0, by decide +kernel⟩⟩⟩⟩⟩,
   ⟨D, ⟨0, ⟨0, ⟨0, ⟨0, by decide +kernel⟩⟩⟩⟩⟩,
   ⟨0, ⟨by decide +kernel, ⟨D, ⟨0, ⟨0, ⟨by decide +kernel, ⟨by decide +kernel, ⟨by decide +kernel, ⟨0, by decide +kernel⟩⟩⟩⟩⟩⟩⟩⟩⟩,
   ⟨0, ⟨by decide +kernel, ⟨((fun s : State => { s with agenda := [.issue 0 47 0] })) (({} : State)), ⟨47, ⟨0, ⟨[], by decide +kernel⟩⟩⟩⟩⟩⟩,
   ⟨((fun s : State => { s with lastCore := 143 })) (D), ⟨by decide +kernel, ⟨by decide +kernel, ⟨by decide +kernel, ⟨0, ⟨0, ⟨0, ⟨((((fun s : State => { s with lastCore := 143 })) (D)).elapse.nextIssue.getD (0, 0, 0, [], 0)).2.2.2.1, ⟨((((fun s : State => { s with lastCore := 143 })) (D)).elapse.nextIssue.getD (0, 0, 0, [], 0)).2.2.2.2, by decide +kernel⟩⟩⟩⟩⟩⟩⟩⟩⟩,
   ⟨((fun s : State => { s with agenda := [.event (.pauseExpiry 0 0 0)] })) (({} : State)), ⟨.pauseExpiry 0 0 0, ⟨[], by decide +kernel⟩⟩⟩⟩
theorem test_StepRunsDecoded_met2 :
    (∃ n : Nat, n < 16 ∧ ∃ s : State, ∃ rest : List Move, s.agenda = .house n :: rest ∧ let e := { s.elapse with agenda := rest }; e.houseBarred n = false ∧ ∃ i, decodeHouse (e.houseWord n) = some i ∧ True) ∧
    (∃ n : Nat, n < 16 ∧ ∃ s : State, ∃ rest : List Move, s.agenda = .house n :: rest ∧ let e := { s.elapse with agenda := rest }; e.houseBarred n = true) ∧
    (∃ s : State, ∃ c : Nat, ∃ w : Nat, ∃ ls : List Nat, let e := { s with cur := { s.cur with core := c, slot := w, lanes := maskOf ls } }; ls ≠ [] ∧ ∃ g, e.group = some g ∧ e.convTrap g = none ∧ g.ctl.entry = true ∧ (∀ l ∈ g.lanes, (e.weave g.core g.slot).heldAt g.pc l = false) ∧ ∃ u : State, ∃ v : DWord, e.fetch g.core g.slot g.pc.toNat = (u, .word v) ∧ isMarker v = false) ∧
    (∃ s : State, ∃ c : Nat, ∃ w : Nat, ∃ ls : List Nat, let e := { s with cur := { s.cur with core := c, slot := w, lanes := maskOf ls } }; ls ≠ [] ∧ ∃ g, e.group = some g ∧ e.convTrap g = none ∧ g.ctl.entry = true ∧ (∀ l ∈ g.lanes, (e.weave g.core g.slot).heldAt g.pc l = false) ∧ ∃ u : State, ∃ v : DWord, e.fetch g.core g.slot g.pc.toNat = (u, .word v) ∧ isMarker v = true ∧ (hdrSp v && u.stopsAt g.core g.slot) = false ∧ (hdrNs v && g.spec) = false ∧ (hdrLen v = 0 ∨ v.extractLsb' 3 3 ≠ 0)) ∧
    (∃ s : State, ∃ c : Nat, ∃ w : Nat, ∃ ls : List Nat, let e := { s with cur := { s.cur with core := c, slot := w, lanes := maskOf ls } }; ls ≠ [] ∧ ∃ g, e.group = some g ∧ e.convTrap g = none ∧ g.ctl.entry = true ∧ (∀ l ∈ g.lanes, (e.weave g.core g.slot).heldAt g.pc l = false) ∧ ∃ u : State, ∃ v : DWord, e.fetch g.core g.slot g.pc.toNat = (u, .word v) ∧ isMarker v = true ∧ (hdrSp v && u.stopsAt g.core g.slot) = false ∧ (hdrNs v && g.spec) = false ∧ hdrLen v ≠ 0 ∧ v.extractLsb' 3 3 = 0 ∧ hdrRcv v ≠ 0 ∧ ∃ x : State, ∃ y : DWord, u.fetch g.core g.slot (hdrTarget v g.pc).toNat = (x, .word y) ∧ isMarker y = false) ∧
    (∃ s : State, ∃ c : Nat, ∃ w : Nat, ∃ ls : List Nat, let e := { s with cur := { s.cur with core := c, slot := w, lanes := maskOf ls } }; ls ≠ [] ∧ ∃ g, e.group = some g ∧ e.convTrap g = none ∧ g.ctl.entry = true ∧ (∀ l ∈ g.lanes, (e.weave g.core g.slot).heldAt g.pc l = false) ∧ ∃ u : State, ∃ v : DWord, e.fetch g.core g.slot g.pc.toNat = (u, .word v) ∧ isMarker v = true ∧ (hdrSp v && u.stopsAt g.core g.slot) = false ∧ (hdrNs v && g.spec) = false ∧ hdrLen v ≠ 0 ∧ v.extractLsb' 3 3 = 0 ∧ hdrRcv v = 0) ∧
    (∃ s : State, ∃ c : Nat, ∃ w : Nat, ∃ ls : List Nat, let e := { s with cur := { s.cur with core := c, slot := w, lanes := maskOf ls } }; ls ≠ [] ∧ ∃ g, e.group = some g ∧ e.convTrap g = none ∧ g.ctl.entry = true ∧ (∀ l ∈ g.lanes, (e.weave g.core g.slot).heldAt g.pc l = false) ∧ ∃ u : State, ∃ v : DWord, e.fetch g.core g.slot g.pc.toNat = (u, .word v) ∧ isMarker v = true ∧ (hdrSp v && u.stopsAt g.core g.slot) = false ∧ (hdrNs v && g.spec) = false ∧ hdrLen v ≠ 0 ∧ v.extractLsb' 3 3 = 0 ∧ hdrRcv v ≠ 0 ∧ ∃ x : State, ∃ y : DWord, u.fetch g.core g.slot (hdrTarget v g.pc).toNat = (x, .word y) ∧ isMarker y = true) ∧
    (∃ s : State, ∃ c : Nat, ∃ w : Nat, ∃ ls : List Nat, let e := { s with cur := { s.cur with core := c, slot := w, lanes := maskOf ls } }; ls ≠ [] ∧ ∃ g, e.group = some g ∧ e.convTrap g = none ∧ g.ctl.entry = true ∧ (∀ l ∈ g.lanes, (e.weave g.core g.slot).heldAt g.pc l = false) ∧ ∃ u : State, ∃ v : DWord, e.fetch g.core g.slot g.pc.toNat = (u, .word v) ∧ isMarker v = true ∧ (hdrSp v && u.stopsAt g.core g.slot) = true) ∧
    (∃ s : State, ∃ c : Nat, ∃ w : Nat, ∃ ls : List Nat, let e := { s with cur := { s.cur with core := c, slot := w, lanes := maskOf ls } }; ls ≠ [] ∧ ∃ g, e.group = some g ∧ e.convTrap g = none ∧ g.ctl.entry = true ∧ (∀ l ∈ g.lanes, (e.weave g.core g.slot).heldAt g.pc l = false) ∧ ∃ u : State, ∃ v : DWord, e.fetch g.core g.slot g.pc.toNat = (u, .word v) ∧ isMarker v = true ∧ (hdrSp v && u.stopsAt g.core g.slot) = false ∧ hdrNs v = true ∧ g.spec = true) ∧
    (∃ s : State, ∃ c : Nat, ∃ w : Nat, ∃ ls : List Nat, let e := { s with cur := { s.cur with core := c, slot := w, lanes := maskOf ls } }; ls ≠ [] ∧ ∃ g, e.group = some g ∧ e.convTrap g = none ∧ g.ctl.entry = true ∧ ∃ l : Nat, ∃ held : List Nat, g.lanes.filter (fun l => (e.weave g.core g.slot).heldAt g.pc l) = l :: held) ∧
    (∃ t : DWord, ∃ d : BitVec 16, ∃ js : List JoinEnt, (∀ e ∈ js, e.target = t → e.depth ≠ d)) ∧
    (∃ t : DWord, ∃ d : BitVec 16, ∃ js : List JoinEnt, (∃ e ∈ js, e.target = t ∧ e.depth = d)) :=
  ⟨⟨0, ⟨by decide +kernel, ⟨(words 0 [0x00B5040B]) (((fun s : State => { s with agenda := [.house 0] })) (({} : State))), ⟨[], ⟨by decide +kernel, ⟨by decide +kernel, ex_some (by decide +kernel) (trivial)⟩⟩⟩⟩⟩⟩,
   ⟨0, ⟨by decide +kernel, ⟨((fun s : State => { s with agenda := [.house 0], tags := [(0, 5)] })) (({} : State)), ⟨[], by decide +kernel⟩⟩⟩⟩,
   ⟨(words 0x80100 [0]) ((th (fun t => { t with ctl := { t.ctl with entry := true, pc := 0x100 } })) (D)), ⟨0, ⟨0, ⟨[0], ⟨by decide +kernel, ex_some (by decide +kernel) (⟨by decide +kernel, ⟨by decide +kernel, ⟨by decide +kernel, ⟨(({ ((words 0x80100 [0]) ((th (fun t => { t with ctl := { t.ctl with entry := true, pc := 0x100 } })) (D))) with cur := { ((words 0x80100 [0]) ((th (fun t => { t with ctl := { t.ctl with entry := true, pc := 0x100 } })) (D))).cur with core := 0, slot := 0, lanes := maskOf [0] } } : State).fetch 0 0 0x100).1, ⟨0, by decide +kernel⟩⟩⟩⟩⟩)⟩⟩⟩⟩⟩,
   ⟨(words 0x80100 [0xF800000000000000]) ((th (fun t => { t with ctl := { t.ctl with entry := true, pc := 0x100 } })) (D)), ⟨0, ⟨0, ⟨[0], ⟨by decide +kernel, ex_some (by decide +kernel) (⟨by decide +kernel, ⟨by decide +kernel, ⟨by decide +kernel, ⟨(({ ((words 0x80100 [0xF800000000000000]) ((th (fun t => { t with ctl := { t.ctl with entry := true, pc := 0x100 } })) (D))) with cur := { ((words 0x80100 [0xF800000000000000]) ((th (fun t => { t with ctl := { t.ctl with entry := true, pc := 0x100 } })) (D))).cur with core := 0, slot := 0, lanes := maskOf [0] } } : State).fetch 0 0 0x100).1, ⟨0xF800000000000000, by decide +kernel⟩⟩⟩⟩⟩)⟩⟩⟩⟩⟩,
   ⟨(words 0x80100 [0xF802000000800000]) ((th (fun t => { t with ctl := { t.ctl with entry := true, pc := 0x100 } })) (D)), ⟨0, ⟨0, ⟨[0], ⟨by decide +kernel, ex_some (by decide +kernel) (⟨by decide +kernel, ⟨by decide +kernel, ⟨by decide +kernel, ⟨(({ ((words 0x80100 [0xF802000000800000]) ((th (fun t => { t with ctl := { t.ctl with entry := true, pc := 0x100 } })) (D))) with cur := { ((words 0x80100 [0xF802000000800000]) ((th (fun t => { t with ctl := { t.ctl with entry := true, pc := 0x100 } })) (D))).cur with core := 0, slot := 0, lanes := maskOf [0] } } : State).fetch 0 0 0x100).1, ⟨0xF802000000800000, ⟨by decide +kernel, ⟨by decide +kernel, ⟨by decide +kernel, ⟨by decide +kernel, ⟨by decide +kernel, ⟨by decide +kernel, ⟨by decide +kernel, ⟨((({ ((words 0x80100 [0xF802000000800000]) ((th (fun t => { t with ctl := { t.ctl with entry := true, pc := 0x100 } })) (D))) with cur := { ((words 0x80100 [0xF802000000800000]) ((th (fun t => { t with ctl := { t.ctl with entry := true, pc := 0x100 } })) (D))).cur with core := 0, slot := 0, lanes := maskOf [0] } } : State).fetch 0 0 0x100).1.fetch 0 0 0x110).1, ⟨0, by decide +kernel⟩⟩⟩⟩⟩⟩⟩⟩⟩⟩⟩⟩⟩⟩)⟩⟩⟩⟩⟩,
   ⟨(words 0x80100 [0xF802000000000000]) ((th (fun t => { t with ctl := { t.ctl with entry := true, pc := 0x100 } })) (D)), ⟨0, ⟨0, ⟨[0], ⟨by decide +kernel, ex_some (by decide +kernel) (⟨by decide +kernel, ⟨by decide +kernel, ⟨by decide +kernel, ⟨(({ ((words 0x80100 [0xF802000000000000]) ((th (fun t => { t with ctl := { t.ctl with entry := true, pc := 0x100 } })) (D))) with cur := { ((words 0x80100 [0xF802000000000000]) ((th (fun t => { t with ctl := { t.ctl with entry := true, pc := 0x100 } })) (D))).cur with core := 0, slot := 0, lanes := maskOf [0] } } : State).fetch 0 0 0x100).1, ⟨0xF802000000000000, by decide +kernel⟩⟩⟩⟩⟩)⟩⟩⟩⟩⟩,
   ⟨(words 0x80100 [0xF802000000800000, 0, 0xF802000000000000]) ((th (fun t => { t with ctl := { t.ctl with entry := true, pc := 0x100 } })) (D)), ⟨0, ⟨0, ⟨[0], ⟨by decide +kernel, ex_some (by decide +kernel) (⟨by decide +kernel, ⟨by decide +kernel, ⟨by decide +kernel, ⟨(({ ((words 0x80100 [0xF802000000800000, 0, 0xF802000000000000]) ((th (fun t => { t with ctl := { t.ctl with entry := true, pc := 0x100 } })) (D))) with cur := { ((words 0x80100 [0xF802000000800000, 0, 0xF802000000000000]) ((th (fun t => { t with ctl := { t.ctl with entry := true, pc := 0x100 } })) (D))).cur with core := 0, slot := 0, lanes := maskOf [0] } } : State).fetch 0 0 0x100).1, ⟨0xF802000000800000, ⟨by decide +kernel, ⟨by decide +kernel, ⟨by decide +kernel, ⟨by decide +kernel, ⟨by decide +kernel, ⟨by decide +kernel, ⟨by decide +kernel, ⟨((({ ((words 0x80100 [0xF802000000800000, 0, 0xF802000000000000]) ((th (fun t => { t with ctl := { t.ctl with entry := true, pc := 0x100 } })) (D))) with cur := { ((words 0x80100 [0xF802000000800000, 0, 0xF802000000000000]) ((th (fun t => { t with ctl := { t.ctl with entry := true, pc := 0x100 } })) (D))).cur with core := 0, slot := 0, lanes := maskOf [0] } } : State).fetch 0 0 0x100).1.fetch 0 0 0x110).1, ⟨0xF802000000000000, by decide +kernel⟩⟩⟩⟩⟩⟩⟩⟩⟩⟩⟩⟩⟩⟩)⟩⟩⟩⟩⟩,
   ⟨(tm (fun t => { t with pre := { requested := true } })) ((words 0x80100 [0xF802000000000001]) ((th (fun t => { t with ctl := { t.ctl with entry := true, pc := 0x100 } })) (D))), ⟨0, ⟨0, ⟨[0], ⟨by decide +kernel, ex_some (by decide +kernel) (⟨by decide +kernel, ⟨by decide +kernel, ⟨by decide +kernel, ⟨(({ ((tm (fun t => { t with pre := { requested := true } })) ((words 0x80100 [0xF802000000000001]) ((th (fun t => { t with ctl := { t.ctl with entry := true, pc := 0x100 } })) (D)))) with cur := { ((tm (fun t => { t with pre := { requested := true } })) ((words 0x80100 [0xF802000000000001]) ((th (fun t => { t with ctl := { t.ctl with entry := true, pc := 0x100 } })) (D)))).cur with core := 0, slot := 0, lanes := maskOf [0] } } : State).fetch 0 0 0x100).1, ⟨0xF802000000000001, by decide +kernel⟩⟩⟩⟩⟩)⟩⟩⟩⟩⟩,
   ⟨(th (fun t => { t with spec := some {} })) ((words 0x80100 [0xF802000000000004]) ((th (fun t => { t with ctl := { t.ctl with entry := true, pc := 0x100 } })) (D))), ⟨0, ⟨0, ⟨[0], ⟨by decide +kernel, ex_some (by decide +kernel) (⟨by decide +kernel, ⟨by decide +kernel, ⟨by decide +kernel, ⟨(({ ((th (fun t => { t with spec := some {} })) ((words 0x80100 [0xF802000000000004]) ((th (fun t => { t with ctl := { t.ctl with entry := true, pc := 0x100 } })) (D)))) with cur := { ((th (fun t => { t with spec := some {} })) ((words 0x80100 [0xF802000000000004]) ((th (fun t => { t with ctl := { t.ctl with entry := true, pc := 0x100 } })) (D)))).cur with core := 0, slot := 0, lanes := maskOf [0] } } : State).fetch 0 0 0x100).1, ⟨0xF802000000000004, by decide +kernel⟩⟩⟩⟩⟩)⟩⟩⟩⟩⟩,
   ⟨(wv (fun w => { w with joins := [{ target := 0x100, depth := 0, members := 1, arrived := 0 }] })) ((words 0x80100 [0xF802000000000000]) ((th (fun t => { t with ctl := { t.ctl with entry := true, pc := 0x100 } })) (D))), ⟨0, ⟨0, ⟨[0], ⟨by decide +kernel, ex_some (by decide +kernel) (⟨by decide +kernel, ⟨by decide +kernel, ⟨0, ⟨[], by decide +kernel⟩⟩⟩⟩)⟩⟩⟩⟩⟩,
   ⟨0x200, ⟨0, ⟨[{ target := 0x100, depth := 0, members := 1, arrived := 0 }], by decide +kernel⟩⟩⟩,
   ⟨0x100, ⟨0, ⟨[{ target := 0x100, depth := 0, members := 1, arrived := 0 }], by decide +kernel⟩⟩⟩⟩
theorem test_MemoryReadAfterWrite_met :
    (∃ s : State, ∃ pa : Nat, (s.lcache = [] ∨ (s.isLocal pa = false ∧ s.lcn ≠ 0 ∧ ∀ c ∈ s.lcache, tabSorted c.dirty = true ∧ ∀ e ∈ c.dirty, e.1 / 128 = c.line))) ∧
    (∃ s : State, s.lcache = [] ∧ s.lcn = 0 ∧ ∃ pa : Nat, ∃ n : Nat, (∀ k, k < n → s.place (pa + k) = .mem (pa + k))) ∧
    (∃ s : State, tabSorted s.cores = true ∧ ∃ t : Nat, (s.findTeam t).isSome = true) ∧
    (∃ s : State, Memory.wf s.mem = true) ∧
    (∃ s : State, Memory.wf s.mem = true) ∧
    (∃ s : State, Memory.wf s.mem = true) ∧
    (∃ s : State, Memory.wf s.mem = true) ∧
    (∃ ea : Nat, canonical ea = false) ∧
    (∃ ea : Nat, canonical ea = true ∧ ∃ x : Acc, ea % x.align ≠ 0) ∧
    (∃ ea : Nat, canonical ea = true ∧ ∃ x : Acc, ea % x.align = 0 ∧ x.routes = true ∧ ∃ s : State, ∃ a : Agent, s.windowHit a ea = true ∧ x.noWindow = true) ∧
    (∃ ea : Nat, canonical ea = true ∧ ∃ x : Acc, ea % x.align = 0 ∧ x.routes = true ∧ ∃ s : State, ∃ a : Agent, s.windowHit a ea = true ∧ (a.team.bind (fun t => s.findGang (s.team t).gang)).bind (fun g => g.teams[(ea - s.rswin a) / 2 ^ 22]?) = none) ∧
    (∃ ea : Nat, canonical ea = true ∧ ∃ x : Acc, ea % x.align = 0 ∧ x.routes = true ∧ ∃ s : State, ∃ a : Agent, s.windowHit a ea = true ∧ x.noWindow = false ∧ ∃ g : GangTeam, ∃ g : GangTeam, (a.team.bind (fun t => s.findGang (s.team t).gang)).bind (fun g => g.teams[(ea - s.rswin a) / 2 ^ 22]?) = some g) ∧
    (∃ ea : Nat, canonical ea = true ∧ ∃ x : Acc, ea % x.align = 0 ∧ x.routes = true ∧ ∃ s : State, ∃ a : Agent, s.windowHit a ea = true ∧ x.noWindow = false ∧ ∃ g : GangTeam, ∃ g : GangTeam, (a.team.bind (fun t => s.findGang (s.team t).gang)).bind (fun g => g.teams[(ea - s.rswin a) / 2 ^ 22]?) = some g ∧ g.completed = true) ∧
    (∃ ea : Nat, canonical ea = true ∧ ∃ x : Acc, ea % x.align = 0 ∧ x.routes = true ∧ ∃ s : State, ∃ a : Agent, s.windowHit a ea = true ∧ x.noWindow = false ∧ ∃ g : GangTeam, ∃ g : GangTeam, (a.team.bind (fun t => s.findGang (s.team t).gang)).bind (fun g => g.teams[(ea - s.rswin a) / 2 ^ 22]?) = some g ∧ g.completed = false ∧ (s.findTeam g.team).isSome = true ∧ 98304 * (s.team g.team).spadBanks.length < (ea - s.rswin a) % 2 ^ 22 + x.size) ∧
    (∃ ea : Nat, canonical ea = true ∧ ∃ x : Acc, ea % x.align = 0 ∧ x.routes = true ∧ ∃ s : State, ∃ a : Agent, s.windowHit a ea = true ∧ x.noWindow = false ∧ ∃ g : GangTeam, ∃ g : GangTeam, (a.team.bind (fun t => s.findGang (s.team t).gang)).bind (fun g => g.teams[(ea - s.rswin a) / 2 ^ 22]?) = some g ∧ g.completed = false ∧ (s.findTeam g.team).isSome = true ∧ (ea - s.rswin a) % 2 ^ 22 + x.size ≤ 98304 * (s.team g.team).spadBanks.length ∧ (s.team g.team).unfilled ((ea - s.rswin a) % 2 ^ 22) = none) ∧
    (∃ ea : Nat, canonical ea = true ∧ ∃ x : Acc, ea % x.align = 0 ∧ x.routes = true ∧ ∃ s : State, ∃ a : Agent, s.windowHit a ea = false ∧ ∃ t : Nat, a.team = some t ∧ ∃ o : Nat, (s.team t).scratchHit ea = some o ∧ (s.team t).unfilled o = none) ∧
    (∃ ea : Nat, canonical ea = true ∧ ∃ x : Acc, ea % x.align = 0 ∧ ∃ s : State, ∃ a : Agent, (x.routes = false ∨ s.windowHit a ea = false ∧ ∀ t, a.team = some t → (s.team t).scratchHit ea = none) ∧ ∃ u : State, ∃ d : Nat, ∃ l : Nat, s.translate a.core a.ctx ea = (u, .fault d l)) ∧
    (∃ ea : Nat, canonical ea = true ∧ ∃ x : Acc, ea % x.align = 0 ∧ ∃ s : State, ∃ a : Agent, (x.routes = false ∨ s.windowHit a ea = false ∧ ∀ t, a.team = some t → (s.team t).scratchHit ea = none) ∧ ∃ u : State, ∃ d : Nat, ∃ l : Nat, s.translate a.core a.ctx ea = (u, .fault d l)) ∧
    (∃ ea : Nat, canonical ea = true ∧ ∃ x : Acc, ea % x.align = 0 ∧ ∃ s : State, ∃ a : Agent, (x.routes = false ∨ s.windowHit a ea = false ∧ ∀ t, a.team = some t → (s.team t).scratchHit ea = none) ∧ ∃ u : State, s.translate a.core a.ctx ea = (u, .wait)) :=
  ⟨⟨{}, ⟨0, by decide +kernel⟩⟩,
   ⟨{}, ⟨by decide +kernel, ⟨by decide +kernel, ⟨0x100000, ⟨8, (fun k hk => by decide +revert +kernel)⟩⟩⟩⟩⟩,
   ⟨D, ⟨by decide +kernel, ⟨1, by decide +kernel⟩⟩⟩,
   ⟨{}, by decide +kernel⟩,
   ⟨{}, by decide +kernel⟩,
   ⟨{}, by decide +kernel⟩,
   ⟨{}, by decide +kernel⟩,
   ⟨0x100000000000000, by decide +kernel⟩,
   ⟨0x80001, ⟨by decide +kernel, ⟨{ align := 2 }, by decide +kernel⟩⟩⟩,
   ⟨0x10000000, ⟨by decide +kernel, ⟨{ noWindow := true }, ⟨by decide +kernel, ⟨by decide +kernel, ⟨(tm (fun t => { t with rswin := 0x10000000 })) (D), ⟨(((tm (fun t => { t with rswin := 0x10000000 })) (D)).teamAgent 0 1 (some 1)), by decide +kernel⟩⟩⟩⟩⟩⟩⟩,
   ⟨0x10000000, ⟨by decide +kernel, ⟨{}, ⟨by decide +kernel, ⟨by decide +kernel, ⟨(tm (fun t => { t with rswin := 0x10000000 })) (D), ⟨(((tm (fun t => { t with rswin := 0x10000000 })) (D)).teamAgent 0 1 (some 1)), by decide +kernel⟩⟩⟩⟩⟩⟩⟩,
   ⟨0x10000000, ⟨by decide +kernel, ⟨{}, ⟨by decide +kernel, ⟨by decide +kernel, ⟨((fun s : State => { s with gangs := [{ id := 1, launch := 2, index := 0, gtkt := 0, part := 0, teams := [{ core := 0, ticket := 0, team := 1 }] }] })) ((tm (fun t => { t with rswin := 0x10000000 })) (D)), ⟨((((fun s : State => { s with gangs := [{ id := 1, launch := 2, index := 0, gtkt := 0, part := 0, teams := [{ core := 0, ticket := 0, team := 1 }] }] })) ((tm (fun t => { t with rswin := 0x10000000 })) (D))).teamAgent 0 1 (some 1)), ⟨by decide +kernel, ⟨by decide +kernel, ⟨{ core := 0, ticket := 0, team := 1 }, ⟨{ core := 0, ticket := 0, team := 1 }, by decide +kernel⟩⟩⟩⟩⟩⟩⟩⟩⟩⟩⟩,
   ⟨0x10000000, ⟨by decide +kernel, ⟨{}, ⟨by decide +kernel, ⟨by decide +kernel, ⟨((fun s : State => { s with gangs := [{ id := 1, launch := 2, index := 0, gtkt := 0, part := 0, teams := [{ core := 0, ticket := 0, team := 1, completed := true }] }] })) ((tm (fun t => { t with rswin := 0x10000000 })) (D)), ⟨((((fun s : State => { s with gangs := [{ id := 1, launch := 2, index := 0, gtkt := 0, part := 0, teams := [{ core := 0, ticket := 0, team := 1, completed := true }] }] })) ((tm (fun t => { t with rswin := 0x10000000 })) (D))).teamAgent 0 1 (some 1)), ⟨by decide +kernel, ⟨by decide +kernel, ⟨{ core := 0, ticket := 0, team := 1, completed := true }, ⟨{ core := 0, ticket := 0, team := 1, completed := true }, by decide +kernel⟩⟩⟩⟩⟩⟩⟩⟩⟩⟩⟩,
   ⟨0x10000000, ⟨by decide +kernel, ⟨{ size := 98305 }, ⟨by decide +kernel, ⟨by decide +kernel, ⟨((fun s : State => { s with gangs := [{ id := 1, launch := 2, index := 0, gtkt := 0, part := 0, teams := [{ core := 0, ticket := 0, team := 1 }] }] })) ((tm (fun t => { t with rswin := 0x10000000 })) (D)), ⟨((((fun s : State => { s with gangs := [{ id := 1, launch := 2, index := 0, gtkt := 0, part := 0, teams := [{ core := 0, ticket := 0, team := 1 }] }] })) ((tm (fun t => { t with rswin := 0x10000000 })) (D))).teamAgent 0 1 (some 1)), ⟨by decide +kernel, ⟨by decide +kernel, ⟨{ core := 0, ticket := 0, team := 1 }, ⟨{ core := 0, ticket := 0, team := 1 }, by decide +kernel⟩⟩⟩⟩⟩⟩⟩⟩⟩⟩⟩,
   ⟨0x10000000, ⟨by decide +kernel, ⟨{}, ⟨by decide +kernel, ⟨by decide +kernel, ⟨((fun s : State => { s with gangs := [{ id := 1, launch := 2, index := 0, gtkt := 0, part := 0, teams := [{ core := 0, ticket := 0, team := 1 }] }] })) ((tm (fun t => { t with rswin := 0x10000000 })) (D)), ⟨((((fun s : State => { s with gangs := [{ id := 1, launch := 2, index := 0, gtkt := 0, part := 0, teams := [{ core := 0, ticket := 0, team := 1 }] }] })) ((tm (fun t => { t with rswin := 0x10000000 })) (D))).teamAgent 0 1 (some 1)), ⟨by decide +kernel, ⟨by decide +kernel, ⟨{ core := 0, ticket := 0, team := 1 }, ⟨{ core := 0, ticket := 0, team := 1 }, by decide +kernel⟩⟩⟩⟩⟩⟩⟩⟩⟩⟩⟩,
   ⟨0x80000, ⟨by decide +kernel, ⟨{}, ⟨by decide +kernel, ⟨by decide +kernel, ⟨(tm (fun t => { t with maps := [(0, { va := 0x80000, off := 0, len := 128, zero := false, segs := [{ pa := 0x100000, off := 0, len := 128 }], filled := [0], dirty := [0] })] })) (D), ⟨(((tm (fun t => { t with maps := [(0, { va := 0x80000, off := 0, len := 128, zero := false, segs := [{ pa := 0x100000, off := 0, len := 128 }], filled := [0], dirty := [0] })] })) (D)).teamAgent 0 1 (some 1)), ⟨by decide +kernel, ⟨1, ⟨by decide +kernel, ⟨0, by decide +kernel⟩⟩⟩⟩⟩⟩⟩⟩⟩⟩⟩,
   ⟨0x8000000, ⟨by decide +kernel, ⟨{ routes := false }, ⟨by decide +kernel, ⟨D, ⟨((D).teamAgent 0 1 (some 1)), ⟨(.inl rfl), ⟨((D).translate 0 1 0x8000000).1, ⟨1, ⟨0, by decide +kernel⟩⟩⟩⟩⟩⟩⟩⟩⟩⟩,
   ⟨0x8000000, ⟨by decide +kernel, ⟨{}, ⟨by decide +kernel, ⟨D, ⟨((D).teamAgent 0 1 (some 1)), ⟨(.inr ⟨by decide +kernel, fun t ht => by cases ht; decide +kernel⟩), ⟨((D).translate 0 1 0x8000000).1, ⟨1, ⟨0, by decide +kernel⟩⟩⟩⟩⟩⟩⟩⟩⟩⟩,
   ⟨0x80000, ⟨by decide +kernel, ⟨{ routes := false }, ⟨by decide +kernel, ⟨(cr (fun k => { k with tlb := [{ ctx := 1, va := 0x80000, level := 0, leaf := 0x132F, pte := 0x6008, draining := true }] })) (D), ⟨(((cr (fun k => { k with tlb := [{ ctx := 1, va := 0x80000, level := 0, leaf := 0x132F, pte := 0x6008, draining := true }] })) (D)).teamAgent 0 1 (some 1)), ⟨(.inl rfl), ⟨(((cr (fun k => { k with tlb := [{ ctx := 1, va := 0x80000, level := 0, leaf := 0x132F, pte := 0x6008, draining := true }] })) (D)).translate 0 1 0x80000).1, by decide +kernel⟩⟩⟩⟩⟩⟩⟩⟩⟩
theorem test_MemoryReadAfterWrite_met2 :
    (∃ ea : Nat, canonical ea = true ∧ ∃ x : Acc, ea % x.align = 0 ∧ ∃ s : State, ∃ a : Agent, ∃ t : Xlat, ∃ t : Xlat, (x.routes = false ∨ s.windowHit a ea = false ∧ ∀ t, a.team = some t → (s.team t).scratchHit ea = none) ∧ ∃ u : State, s.translate a.core a.ctx ea = (u, .ok t)) ∧
    (∃ ea : Nat, canonical ea = true ∧ ∃ x : Acc, ea % x.align = 0 ∧ ∃ s : State, ∃ a : Agent, ∃ t : Xlat, ∃ t : Xlat, (x.routes = false ∨ s.windowHit a ea = false ∧ ∀ t, a.team = some t → (s.team t).scratchHit ea = none) ∧ ∃ u : State, s.translate a.core a.ctx ea = (u, .ok t) ∧ (u.checkPage a x t).passes = false) ∧
    (∃ ea : Nat, canonical ea = true ∧ ∃ x : Acc, ea % x.align = 0 ∧ ∃ s : State, ∃ a : Agent, ∃ t : Xlat, ∃ t : Xlat, (x.routes = false ∨ s.windowHit a ea = false ∧ ∀ t, a.team = some t → (s.team t).scratchHit ea = none) ∧ ∃ u : State, s.translate a.core a.ctx ea = (u, .ok t) ∧ (u.checkPage a x t).passes = true ∧ u.snooped (u.place t.pa) = false ∧ x.wr = false) ∧
    (∃ ea : Nat, canonical ea = true ∧ ∃ x : Acc, ea % x.align = 0 ∧ ∃ s : State, ∃ a : Agent, ∃ t : Xlat, ∃ t : Xlat, (x.routes = false ∨ s.windowHit a ea = false ∧ ∀ t, a.team = some t → (s.team t).scratchHit ea = none) ∧ ∃ u : State, s.translate a.core a.ctx ea = (u, .ok t) ∧ (u.checkPage a x t).passes = true ∧ u.snooped (u.place t.pa) = false ∧ x.wr = true ∧ bitAt t.leaf 9 = true) ∧
    (∃ ea : Nat, canonical ea = true ∧ ∃ x : Acc, ea % x.align = 0 ∧ ∃ s : State, ∃ a : Agent, ∃ t : Xlat, ∃ t : Xlat, (x.routes = false ∨ s.windowHit a ea = false ∧ ∀ t, a.team = some t → (s.team t).scratchHit ea = none) ∧ ∃ u : State, s.translate a.core a.ctx ea = (u, .ok t) ∧ (u.checkPage a x t).passes = true ∧ u.snooped (u.place t.pa) = false ∧ x.wr = true ∧ bitAt t.leaf 9 = false ∧ ∃ y : Xlat, u.walk a.ctx ea = .ok y ∧ u.markWaits a.core y true = false) ∧
    (∃ t : Xlat, leafLid t.leaf ≠ 0 ∧ ∃ s : State, ∃ d : Nat, s.leaseDetail (leafLid t.leaf) = some d) ∧
    (∃ s : State, ∃ t : Xlat, (leafLid t.leaf = 0 ∨ s.leaseDetail (leafLid t.leaf) = none) ∧ reservedAddr t.pa = true) ∧
    (∃ s : State, ∃ t : Xlat, (leafLid t.leaf = 0 ∨ s.leaseDetail (leafLid t.leaf) = none) ∧ reservedAddr t.pa = false ∧ ∃ a : Agent, ∃ x : Acc, ∃ d : Nat, ∃ r : List Nat, permDetails a x t.leaf t.pa = d :: r) ∧
    (∃ s : State, ∃ t : Xlat, (leafLid t.leaf = 0 ∨ s.leaseDetail (leafLid t.leaf) = none) ∧ reservedAddr t.pa = false ∧ ∃ a : Agent, ∃ x : Acc, permDetails a x t.leaf t.pa = [] ∧ s.firewall a t.pa = false) ∧
    (∃ s : State, ∃ t : Xlat, (leafLid t.leaf = 0 ∨ s.leaseDetail (leafLid t.leaf) = none) ∧ reservedAddr t.pa = false ∧ ∃ a : Agent, ∃ x : Acc, permDetails a x t.leaf t.pa = [] ∧ s.firewall a t.pa = true ∧ leafMc t.leaf = 3) ∧
    (∃ s : State, ∃ t : Xlat, (leafLid t.leaf = 0 ∨ s.leaseDetail (leafLid t.leaf) = none) ∧ reservedAddr t.pa = false ∧ ∃ a : Agent, ∃ x : Acc, permDetails a x t.leaf t.pa = [] ∧ s.firewall a t.pa = true ∧ leafMc t.leaf ≠ 3 ∧ s.isLocal t.pa = true) ∧
    (∃ s : State, ∃ core : Nat, ∃ ctx : Nat, ∃ va : Nat, ∃ e, (s.core core).tlb.find? (fun e => e.covers ctx va) = some e ∧ e.draining = false) ∧
    (∃ s : State, ∃ core : Nat, ∃ ctx : Nat, ∃ va : Nat, (s.core core).tlb.find? (fun e => e.covers ctx va) = none ∧ s.dieLookup core ctx va = none ∧ ∃ d : Nat, ∃ l : Nat, s.walk ctx va = .fault d l) ∧
    (∃ s : State, ∃ core : Nat, ∃ ctx : Nat, ∃ va : Nat, (s.core core).tlb.find? (fun e => e.covers ctx va) = none ∧ s.dieLookup core ctx va = none ∧ ∃ y : Xlat, s.walk ctx va = .ok y ∧ s.markWaits core y false = false) ∧
    (∃ s : State, ∃ ctx : Nat, s.tableMemory (bitsAt (s.context ctx).ptroot.toNat 11 45 * 2 ^ 11) = true) ∧
    (∃ s : State, ∃ va : Nat, ∃ n : Nat, ∃ base : Nat, ∃ r : XRes, s.walkEntry true va base n = .inl r) ∧
    (∃ s : State, ∃ va : Nat, ∃ n : Nat, ∃ base : Nat, ∃ b : Nat, s.walkEntry true va base (n + 1) = .inr b) ∧
    (∃ va : Nat, ∃ base : Nat, ∃ n : Nat, let pte := base + 8 * (if n = 3 then va / 2 ^ 49 % 2 ^ 8 else va / 2 ^ (19 + 10 * n) % 2 ^ 10); ∃ s : State, let e := s.readPhys pte 8; s.refreshing pte = true) ∧
    (∃ va : Nat, ∃ base : Nat, ∃ n : Nat, let pte := base + 8 * (if n = 3 then va / 2 ^ 49 % 2 ^ 8 else va / 2 ^ (19 + 10 * n) % 2 ^ 10); ∃ s : State, let e := s.readPhys pte 8; s.refreshing pte = false ∧ s.isPoison (s.place pte) = true) :=
  ⟨⟨0x80000, ⟨by decide +kernel, ⟨{ routes := false }, ⟨by decide +kernel, ⟨(cr (fun k => { k with tlb := [{ ctx := 1, va := 0x80000, level := 0, leaf := 0x132F, pte := 0x6008 }] })) (D), ⟨(((cr (fun k => { k with tlb := [{ ctx := 1, va := 0x80000, level := 0, leaf := 0x132F, pte := 0x6008 }] })) (D)).teamAgent 0 1 (some 1)), ⟨{ pa := 0x100000, leaf := 0x132F, level := 0, pte := 0x6008 }, ⟨{ pa := 0x100000, leaf := 0x132F, level := 0, pte := 0x6008 }, ⟨(.inl rfl), ⟨((cr (fun k => { k with tlb := [{ ctx := 1, va := 0x80000, level := 0, leaf := 0x132F, pte := 0x6008 }] })) (D)), by decide +kernel⟩⟩⟩⟩⟩⟩⟩⟩⟩⟩,
   ⟨0x80000, ⟨by decide +kernel, ⟨{ routes := false, fetch := true }, ⟨by decide +kernel, ⟨(cr (fun k => { k with tlb := [{ ctx := 1, va := 0x80000, level := 0, leaf := 0x132F, pte := 0x6008 }] })) (D), ⟨(((cr (fun k => { k with tlb := [{ ctx := 1, va := 0x80000, level := 0, leaf := 0x132F, pte := 0x6008 }] })) (D)).teamAgent 0 1 (some 1)), ⟨{ pa := 0x100000, leaf := 0x132F, level := 0, pte := 0x6008 }, ⟨{ pa := 0x100000, leaf := 0x132F, level := 0, pte := 0x6008 }, ⟨(.inl rfl), ⟨((cr (fun k => { k with tlb := [{ ctx := 1, va := 0x80000, level := 0, leaf := 0x132F, pte := 0x6008 }] })) (D)), by decide +kernel⟩⟩⟩⟩⟩⟩⟩⟩⟩⟩,
   ⟨0x80000, ⟨by decide +kernel, ⟨{ routes := false }, ⟨by decide +kernel, ⟨(cr (fun k => { k with tlb := [{ ctx := 1, va := 0x80000, level := 0, leaf := 0x132F, pte := 0x6008 }] })) (D), ⟨(((cr (fun k => { k with tlb := [{ ctx := 1, va := 0x80000, level := 0, leaf := 0x132F, pte := 0x6008 }] })) (D)).teamAgent 0 1 (some 1)), ⟨{ pa := 0x100000, leaf := 0x132F, level := 0, pte := 0x6008 }, ⟨{ pa := 0x100000, leaf := 0x132F, level := 0, pte := 0x6008 }, ⟨(.inl rfl), ⟨((cr (fun k => { k with tlb := [{ ctx := 1, va := 0x80000, level := 0, leaf := 0x132F, pte := 0x6008 }] })) (D)), by decide +kernel⟩⟩⟩⟩⟩⟩⟩⟩⟩⟩,
   ⟨0x80000, ⟨by decide +kernel, ⟨{ wr := true }, ⟨by decide +kernel, ⟨(cr (fun k => { k with tlb := [{ ctx := 1, va := 0x80000, level := 0, leaf := 0x132F, pte := 0x6008 }] })) (D), ⟨(((cr (fun k => { k with tlb := [{ ctx := 1, va := 0x80000, level := 0, leaf := 0x132F, pte := 0x6008 }] })) (D)).teamAgent 0 1 (some 1)), ⟨{ pa := 0x100000, leaf := 0x132F, level := 0, pte := 0x6008 }, ⟨{ pa := 0x100000, leaf := 0x132F, level := 0, pte := 0x6008 }, ⟨(.inr ⟨by decide +kernel, fun t ht => by cases ht; decide +kernel⟩), ⟨((cr (fun k => { k with tlb := [{ ctx := 1, va := 0x80000, level := 0, leaf := 0x132F, pte := 0x6008 }] })) (D)), by decide +kernel⟩⟩⟩⟩⟩⟩⟩⟩⟩⟩,
   ⟨0x80000, ⟨by decide +kernel, ⟨{ wr := true, routes := false }, ⟨by decide +kernel, ⟨((fun s : State => s.poke 0x6008 8 0x112F)) ((cr (fun k => { k with tlb := [{ ctx := 1, va := 0x80000, level := 0, leaf := 0x112F, pte := 0x6008 }] })) (D)), ⟨((((fun s : State => s.poke 0x6008 8 0x112F)) ((cr (fun k => { k with tlb := [{ ctx := 1, va := 0x80000, level := 0, leaf := 0x112F, pte := 0x6008 }] })) (D))).teamAgent 0 1 (some 1)), ⟨{ pa := 0x100000, leaf := 0x112F, level := 0, pte := 0x6008 }, ⟨{ pa := 0x100000, leaf := 0x112F, level := 0, pte := 0x6008 }, ⟨(.inl rfl), ⟨(((fun s : State => s.poke 0x6008 8 0x112F)) ((cr (fun k => { k with tlb := [{ ctx := 1, va := 0x80000, level := 0, leaf := 0x112F, pte := 0x6008 }] })) (D))), ⟨by decide +kernel, ⟨by decide +kernel, ⟨by decide +kernel, ⟨by decide +kernel, ⟨by decide +kernel, ⟨{ pa := 0x100000, leaf := 0x112F, level := 0, pte := 0x6008 }, by decide +kernel⟩⟩⟩⟩⟩⟩⟩⟩⟩⟩⟩⟩⟩⟩⟩⟩,
   ⟨{ pa := 0x100000, leaf := 0x100000000132F, level := 0, pte := 0x6008 }, ⟨by decide +kernel, ⟨D, ⟨1, by decide +kernel⟩⟩⟩⟩,
   ⟨D, ⟨{ pa := 0x9000000000, leaf := 0x132F, level := 0, pte := 0x6008 }, by decide +kernel⟩⟩,
   ⟨D, ⟨{ pa := 0x100000, leaf := 0x132F, level := 0, pte := 0x6008 }, ⟨by decide +kernel, ⟨by decide +kernel, ⟨((D).teamAgent 0 1 (some 1)), ⟨{ fetch := true }, ⟨12, ⟨[], by decide +kernel⟩⟩⟩⟩⟩⟩⟩⟩,
   ⟨((fun s : State => { s with tags := [(2, 5)] })) (D), ⟨{ pa := 0x100000, leaf := 0x132F, level := 0, pte := 0x6008 }, ⟨by decide +kernel, ⟨by decide +kernel, ⟨((((fun s : State => { s with tags := [(2, 5)] })) (D)).teamAgent 0 1 (some 1)), ⟨{}, by decide +kernel⟩⟩⟩⟩⟩⟩,
   ⟨D, ⟨{ pa := 0x100000, leaf := 0x13EF, level := 0, pte := 0x6008 }, ⟨by decide +kernel, ⟨by decide +kernel, ⟨((D).teamAgent 0 1 (some 1)), ⟨{}, by decide +kernel⟩⟩⟩⟩⟩⟩,
   ⟨D, ⟨{ pa := 0x100000, leaf := 0x132F, level := 0, pte := 0x6008 }, ⟨by decide +kernel, ⟨by decide +kernel, ⟨((D).teamAgent 0 1 (some 1)), ⟨{}, by decide +kernel⟩⟩⟩⟩⟩⟩,
   ⟨(cr (fun k => { k with tlb := [{ ctx := 1, va := 0x80000, level := 0, leaf := 0x132F, pte := 0x6008 }] })) (D), ⟨0, ⟨1, ⟨0x80000, ex_some (by decide +kernel) (by decide +kernel)⟩⟩⟩⟩,
   ⟨D, ⟨0, ⟨1, ⟨0x8000000, ⟨by decide +kernel, ⟨by decide +kernel, ⟨1, ⟨0, by decide +kernel⟩⟩⟩⟩⟩⟩⟩⟩,
   ⟨D, ⟨0, ⟨1, ⟨0x80000, ⟨by decide +kernel, ⟨by decide +kernel, ⟨{ pa := 0x100000, leaf := 0x132F, level := 0, pte := 0x6008 }, by decide +kernel⟩⟩⟩⟩⟩⟩⟩,
   ⟨D, ⟨1, by decide +kernel⟩⟩,
   ⟨D, ⟨0x80000, ⟨0, ⟨0x6000, ⟨.ok { pa := 0x100000, leaf := 0x132F, level := 0, pte := 0x6008 }, by decide +kernel⟩⟩⟩⟩⟩,
   ⟨D, ⟨0x80000, ⟨2, ⟨0x1000, ⟨0x2000, by decide +kernel⟩⟩⟩⟩⟩,
   ⟨0x80000, ⟨0x10000000000, ⟨0, ⟨((fun s : State => { s with time := 0 })) (D), by decide +kernel⟩⟩⟩⟩,
   ⟨0x80000, ⟨0x6000, ⟨0, ⟨((fun s : State => s.setPoison 0x6008 true)) (D), by decide +kernel⟩⟩⟩⟩⟩
theorem test_MemoryReadAfterWrite_met3 :
    (∃ va : Nat, ∃ base : Nat, ∃ n : Nat, let pte := base + 8 * (if n = 3 then va / 2 ^ 49 % 2 ^ 8 else va / 2 ^ (19 + 10 * n) % 2 ^ 10); ∃ s : State, let e := s.readPhys pte 8; s.refreshing pte = false ∧ s.isPoison (s.place pte) = false ∧ bitAt e 0 = false) ∧
    (∃ va : Nat, ∃ base : Nat, ∃ n : Nat, let pte := base + 8 * (if n = 3 then va / 2 ^ 49 % 2 ^ 8 else va / 2 ^ (19 + 10 * n) % 2 ^ 10); ∃ s : State, let e := s.readPhys pte 8; s.refreshing pte = false ∧ s.isPoison (s.place pte) = false ∧ bitAt e 0 = true ∧ bitAt e 1 = true ∧ (n = 3 ∨ leafFrame e % 2 ^ (19 + 10 * n) ≠ 0 ∨ leafLid e ≠ 0 ∧ pkgAddr (leafFrame e) = s.pkg)) ∧
    (∃ va : Nat, ∃ base : Nat, ∃ n : Nat, let pte := base + 8 * (if n = 3 then va / 2 ^ 49 % 2 ^ 8 else va / 2 ^ (19 + 10 * n) % 2 ^ 10); ∃ s : State, let e := s.readPhys pte 8; s.refreshing pte = false ∧ s.isPoison (s.place pte) = false ∧ bitAt e 0 = true ∧ bitAt e 1 = true ∧ n ≠ 3 ∧ leafFrame e % 2 ^ (19 + 10 * n) = 0 ∧ (leafLid e = 0 ∨ pkgAddr (leafFrame e) ≠ s.pkg)) ∧
    (∃ va : Nat, ∃ base : Nat, ∃ n : Nat, let pte := base + 8 * (if n = 3 then va / 2 ^ 49 % 2 ^ 8 else va / 2 ^ (19 + 10 * n) % 2 ^ 10); ∃ s : State, let e := s.readPhys pte 8; s.refreshing pte = false ∧ s.isPoison (s.place pte) = false ∧ bitAt e 0 = true ∧ bitAt e 1 = false ∧ (n = 0 ∨ bitsAt e 56 8 ≠ 0 ∨ bitsAt e 2 11 ≠ 0 ∨ s.tableMemory (bitsAt e 0 56) = false)) ∧
    (∃ va : Nat, ∃ base : Nat, ∃ n : Nat, let pte := base + 8 * (if n = 3 then va / 2 ^ 49 % 2 ^ 8 else va / 2 ^ (19 + 10 * n) % 2 ^ 10); ∃ s : State, let e := s.readPhys pte 8; s.refreshing pte = false ∧ s.isPoison (s.place pte) = false ∧ bitAt e 0 = true ∧ bitAt e 1 = false ∧ n ≠ 0 ∧ bitsAt e 56 8 = 0 ∧ bitsAt e 2 11 = 0 ∧ s.tableMemory (bitsAt e 0 56) = true) ∧
    (∃ rs : List (Nat × Chk), ∃ c : Nat, ∃ d : Nat, ∃ ls : List Nat, pickTrap rs = some (c, d, ls)) ∧
    (∃ x : Iss, ∃ s : State, s.atomPending x.g.core x.g.slot x.ex = false ∧ ∃ acc : Acc, ∃ ea : Nat → Nat, ∃ c : Nat, ∃ d : Nat, ∃ ls : List Nat, pickTrap ((x.answers (s.checkList x.agent acc (x.ex.map ea)).1 ((x.ex.zip (s.checkList x.agent acc (x.ex.map ea)).2).map (fun c => (c.1, ea c.1, c.2)))).map (fun c => (c.1, c.2.2))) = some (c, d, ls)) ∧
    (∃ x : Iss, ∃ s : State, s.atomPending x.g.core x.g.slot x.ex = false ∧ ∃ acc : Acc, ∃ ea : Nat → Nat, pickTrap ((x.answers (s.checkList x.agent acc (x.ex.map ea)).1 ((x.ex.zip (s.checkList x.agent acc (x.ex.map ea)).2).map (fun c => (c.1, ea c.1, c.2)))).map (fun c => (c.1, c.2.2))) = none ∧ (x.settle (s.checkList x.agent acc (x.ex.map ea)).1 acc.wr (x.answers (s.checkList x.agent acc (x.ex.map ea)).1 ((x.ex.zip (s.checkList x.agent acc (x.ex.map ea)).2).map (fun c => (c.1, ea c.1, c.2))))).isSome = true) ∧
    (∃ x : Iss, x.g.spec = false ∧ ∃ rs : List (Nat × Nat × Chk), (rs.map (·.1)).Nodup ∧ ∃ s : State, ∃ wr : Bool, (x.settle s wr rs).isSome = true) ∧
    (∃ x : Iss, x.g.spec = true ∧ ∃ ls : List ParkLane, ls ≠ []) ∧
    (∃ ls : List Nat, ∃ l : Nat, l ∈ ls ∧ ∃ s : State, ∃ g : Grp, (s.thread g.core g.slot l).spec.isSome = true) ∧
    (∃ g : Grp, g.spec = true ∧ ∃ s : State, ∃ i : Instr, ∃ f : Fields, ∃ r : Row, ∃ x : Iss, s.gate g i f r false = .go x) ∧
    (∃ s : State, ∃ c : Nat, ∃ w : Nat, ∃ l : Nat, ∃ loc : Loc, ∃ b, (s.thread c w l).ownByte loc = some b ∧ True) ∧
    (∃ l : Nat, l < 32 ∧ ∃ s : State, ∃ c : Nat, ∃ w : Nat, (s.thread c w l).spec.isSome = true ∧ ∃ y : Nat, (s.weave c w).team = some y) ∧
    (∃ x : Iss, x.g.spec = true ∧ ∃ s : State, ∃ y : Nat, (s.weave x.g.core x.g.slot).team = some y ∧ ∃ qs : List Stored, (qs.map (·.lane.l)).Nodup) ∧
    (∃ x : Iss, x.g.spec = true ∧ ∃ s : State, ∃ y : Nat, (s.weave x.g.core x.g.slot).team = some y ∧ ∃ rel : Bool, ∃ q : Stored, s.garretUsed x.g.core (s.team y) + 64 * (sectorRecords rel (leafSync q.lane.leaf) q.bytes q.ceded).length ≤ (s.team y).garret) ∧
    (∃ t : Thread, ∃ p : Spec, t.spec = some p ∧ ∃ n : Nat, tabFind n p.undo = none) :=
  ⟨⟨0x100000, ⟨0x6000, ⟨0, ⟨D, by decide +kernel⟩⟩⟩⟩,
   ⟨0, ⟨0x6000, ⟨3, ⟨D, by decide +kernel⟩⟩⟩⟩,
   ⟨0x80000, ⟨0x6000, ⟨0, ⟨D, by decide +kernel⟩⟩⟩⟩,
   ⟨0, ⟨0x1000, ⟨0, ⟨D, by decide +kernel⟩⟩⟩⟩,
   ⟨0, ⟨0x1000, ⟨3, ⟨D, by decide +kernel⟩⟩⟩⟩,
   ⟨[(0, .bad 1 8 1)], ⟨8, ⟨1, ⟨[0], by decide +kernel⟩⟩⟩⟩,
   ⟨iss (.ld ⟨7, false, 16, 32, 0, 0, 0, false, false, false, 0, 0⟩) (D), ⟨D, ⟨by decide +kernel, ⟨{ rd := true }, ⟨fun _ => 0x100000000000000, ⟨8, ⟨1, ⟨[0], by decide +kernel⟩⟩⟩⟩⟩⟩⟩⟩,
   ⟨iss (.ld ⟨7, false, 16, 32, 0, 0, 0, false, false, false, 0, 0⟩) (D), ⟨D, ⟨by decide +kernel, ⟨{ rd := true }, ⟨fun _ => 0x80000, by decide +kernel⟩⟩⟩⟩⟩,
   ⟨iss (.ld ⟨7, false, 16, 32, 0, 0, 0, false, false, false, 0, 0⟩) (D), ⟨by decide +kernel, ⟨[(0, 0x80000, .ok (.mem 0x100000) 0x132F)], ⟨by decide +kernel, ⟨D, ⟨false, by decide +kernel⟩⟩⟩⟩⟩⟩,
   ⟨iss (.ld ⟨7, false, 16, 32, 0, 0, 0, false, false, false, 0, 0⟩) ((th (fun t => { t with spec := some {} })) (D)), ⟨by decide +kernel, ⟨[{ lane := 0, cause := 1, detail := 1, level := 0, lid := 0, va := 0 }], by decide +kernel⟩⟩⟩,
   ⟨[0], ⟨0, ⟨by decide +kernel, ⟨(th (fun t => { t with spec := some {} })) (D), ⟨{ core := 0, slot := 0, lanes := [0], pc := 0x108, ctl := {}, spec := true }, by decide +kernel⟩⟩⟩⟩⟩,
   ⟨{ core := 0, slot := 0, lanes := [0], pc := 0x108, ctl := {}, spec := true }, ⟨by decide +kernel, ⟨(th (fun t => { t with spec := some {} })) (D), ⟨(.add ⟨0, false, 16, 32, 48, 0, 0, false, false, false, 0, 0⟩ : Instr), ⟨(Instr.fields (.add ⟨0, false, 16, 32, 48, 0, 0, false, false, false, 0, 0⟩ : Instr)).getD {}, ⟨Instr.row (.add ⟨0, false, 16, 32, 48, 0, 0, false, false, false, 0, 0⟩ : Instr), ⟨(match (((th (fun t => { t with spec := some {} })) (D)).gate ({ core := 0, slot := 0, lanes := [0], pc := 0x108, ctl := {}, spec := true }) ((.add ⟨0, false, 16, 32, 48, 0, 0, false, false, false, 0, 0⟩ : Instr)) (((Instr.fields (.add ⟨0, false, 16, 32, 48, 0, 0, false, false, false, 0, 0⟩ : Instr)).getD {})) ((Instr.row (.add ⟨0, false, 16, 32, 48, 0, 0, false, false, false, 0, 0⟩ : Instr))) false) with | .go x => x | _ => iss (.ld ⟨7, false, 16, 32, 0, 0, 0, false, false, false, 0, 0⟩) (D)), by decide +kernel⟩⟩⟩⟩⟩⟩⟩,
   ⟨(th (fun t => { t with spec := some { stores := [{ bytes := [(.mem 0x100000, 7)], rel := false }] } })) (D), ⟨0, ⟨0, ⟨0, ⟨.mem 0x100000, ex_some (by decide +kernel) (trivial)⟩⟩⟩⟩⟩,
   ⟨0, ⟨by decide +kernel, ⟨(th (fun t => { t with spec := some {} })) (D), ⟨0, ⟨0, ⟨by decide +kernel, ⟨1, by decide +kernel⟩⟩⟩⟩⟩⟩⟩,
   ⟨iss (.ld ⟨7, false, 16, 32, 0, 0, 0, false, false, false, 0, 0⟩) ((th (fun t => { t with spec := some {} })) (D)), ⟨by decide +kernel, ⟨(th (fun t => { t with spec := some {} })) (D), ⟨1, ⟨by decide +kernel, ⟨[{ lane := { l := 0, ea := 0x80000, loc := .mem 0x100000, leaf := 0x132F }, bytes := [⟨.mem 0x100000, 1, 0⟩] }], by decide +kernel⟩⟩⟩⟩⟩⟩,
   ⟨iss (.ld ⟨7, false, 16, 32, 0, 0, 0, false, false, false, 0, 0⟩) ((th (fun t => { t with spec := some {} })) (D)), ⟨by decide +kernel, ⟨(th (fun t => { t with spec := some {} })) (D), ⟨1, ⟨by decide +kernel, ⟨false, ⟨{ lane := { l := 0, ea := 0x80000, loc := .mem 0x100000, leaf := 0x132F }, bytes := [⟨.mem 0x100000, 1, 0⟩] }, by decide +kernel⟩⟩⟩⟩⟩⟩⟩,
   ⟨{ spec := some {} }, ⟨{}, ⟨by decide +kernel, ⟨16, by decide +kernel⟩⟩⟩⟩⟩
theorem test_TrapsAreTaken_met :
    (∃ i : Instr, i.fields.isSome = true ∧ ∃ s : State, ∃ g, s.group = some g ∧ ∃ c : Nat, ∃ d : Nat, ∃ ls : List Nat, s.gate g i (i.fields.getD {}) i.row i.speculates = .trap c d ls) ∧
    (∃ i : Instr, i.fields.isSome = true ∧ ∃ s : State, ∃ g, s.group = some g ∧ s.gate g i (i.fields.getD {}) i.row i.speculates = .wait) ∧
    (∃ i : Instr, i.row.priv = true ∧ ∃ s : State, ∃ g : Grp, (s.weave g.core g.slot).team.isSome = true ∧ i.row.accept = true ∧ i.row.reservedClear (i.fields.getD {}) = true ∧ ((i.fields.getD {}).lform = true → s.atLast g = false)) ∧
    (∃ s : State, ∃ c : Nat, ∃ w : Nat, (s.weave c w).trH = false ∧ (∀ l, l < 32 → (s.thread c w l).spec = none) ∧ ∃ h : DWord, (match (s.weave c w).team with | none => h = (s.core c).fwTrap | some y => h = (s.team y).handler ∧ h ≠ 0)) ∧
    (∃ s : State, ∃ c : Nat, ∃ w : Nat, ∃ y, (s.weave c w).team = some y ∧ True) ∧
    (∃ s : State, ∃ c : Nat, ∃ w : Nat, (s.weave c w).team = none ∧ (s.weave c w).trH = true) ∧
    (∃ s : State, ∃ c : Nat, ∃ s : State, ∃ c : Nat, ∃ y : Nat, (s.core c).fwTickets = [y] ∧ s.ticketPlain y) :=
  ⟨⟨.lsreq ⟨7, false, 16, 32, 48, 0, 0, false, false, false, 0, 0⟩, ⟨by decide +kernel, ⟨D, ex_some (by decide +kernel) (⟨1, ⟨7, ⟨[0], by decide +kernel⟩⟩⟩)⟩⟩⟩,
   ⟨.add ⟨7, false, 16, 32, 48, 0, 0, false, false, false, 0, 0⟩, ⟨by decide +kernel, ⟨(th (fun t => t.setEmpty 32 32)) (D), ex_some (by decide +kernel) (by decide +kernel)⟩⟩⟩,
   ⟨.lsreq ⟨7, false, 16, 32, 48, 0, 0, false, false, false, 0, 0⟩, ⟨by decide +kernel, ⟨D, ⟨{ core := 0, slot := 0, lanes := [0], pc := 0x108, ctl := { pc := 0x108, bh := 0x100, len := 4, entry := false }, spec := false }, by decide +kernel⟩⟩⟩⟩,
   ⟨D, ⟨0, ⟨0, ⟨by decide +kernel, ⟨by decide +kernel, ⟨0x4000, (show (0x4000 : DWord) = (D.team 1).handler ∧ (0x4000 : DWord) ≠ 0 from by decide +kernel)⟩⟩⟩⟩⟩⟩,
   ⟨D, ⟨0, ⟨0, ex_some (by decide +kernel) (trivial)⟩⟩⟩,
   ⟨(wv (fun w => { w with trH := true })) (agent), ⟨0, ⟨47, by decide +kernel⟩⟩⟩,
   ⟨(cr (fun k => { k with fwTickets := [0x100040] })) (({} : State)), ⟨0, ⟨(cr (fun k => { k with fwTickets := [0x100040] })) (({} : State)), ⟨0, ⟨0x100040, by decide +kernel⟩⟩⟩⟩⟩⟩
theorem test_MemoryStaysCanonical_met :
    (∃ s : State, Memory.wf s.mem = true ∧ ∃ t, step s = .next t ∧ True) ∧
    (∃ s : State, Memory.wf s.mem = true) :=
  ⟨⟨{}, ⟨by decide +kernel, ex_next (by decide +kernel) (trivial)⟩⟩,
   ⟨{}, by decide +kernel⟩⟩

end Sys2Proof.Tests
end

section
/-! SUPPORT. The words of an instruction decode to it, and a word that decodes is the encoding of its instruction
(02 R46, R62, R73, R74; 13 R433). -/

namespace Sys2Proof.Laws

/-- The law of each instruction, gathered: where it has words, they decode to it. -/
theorem encoding_statement (i : Instr) : Encoding.Statement i := by
  cases i with
  | br o => exact Encoding.br o | call o => exact Encoding.call o | dbnz o => exact Encoding.dbnz o | bz o => exact Encoding.bz o
  | bnz o => exact Encoding.bnz o | bfull o => exact Encoding.bfull o | bempty o => exact Encoding.bempty o | bpend o => exact Encoding.bpend o
  | jmp o => exact Encoding.jmp o | jcall o => exact Encoding.jcall o | ret o => exact Encoding.ret o | pand o => exact Encoding.pand o
  | por o => exact Encoding.por o | pxor o => exact Encoding.pxor o | pandn o => exact Encoding.pandn o | pset o => exact Encoding.pset o
  | pget o => exact Encoding.pget o | exit o => exact Encoding.exit o | yield o => exact Encoding.yield o | nop o => exact Encoding.nop o
  | pause o => exact Encoding.pause o | brk o => exact Encoding.brk o | add o => exact Encoding.add o | sub o => exact Encoding.sub o
  | addc o => exact Encoding.addc o | subb o => exact Encoding.subb o | min o => exact Encoding.min o | max o => exact Encoding.max o
  | abs o => exact Encoding.abs o | mul o => exact Encoding.mul o | mulhi o => exact Encoding.mulhi o | mulw o => exact Encoding.mulw o
  | mad o => exact Encoding.mad o | and o => exact Encoding.and o | or o => exact Encoding.or o | xor o => exact Encoding.xor o
  | andn o => exact Encoding.andn o | shl o => exact Encoding.shl o | shr o => exact Encoding.shr o | sar o => exact Encoding.sar o
  | ror o => exact Encoding.ror o | fsh o => exact Encoding.fsh o | bfx o => exact Encoding.bfx o | bfi o => exact Encoding.bfi o
  | popc o => exact Encoding.popc o | clz o => exact Encoding.clz o | addi o => exact Encoding.addi o | muli o => exact Encoding.muli o
  | andi o => exact Encoding.andi o | ori o => exact Encoding.ori o | lid o => exact Encoding.lid o | shli o => exact Encoding.shli o
  | shri o => exact Encoding.shri o | sari o => exact Encoding.sari o | bfxi o => exact Encoding.bfxi o | cmpi o => exact Encoding.cmpi o
  | lea o => exact Encoding.lea o | shup o => exact Encoding.shup o | shdn o => exact Encoding.shdn o | shxor o => exact Encoding.shxor o
  | cmp o => exact Encoding.cmp o | sel o => exact Encoding.sel o | shfl o => exact Encoding.shfl o | vote o => exact Encoding.vote o
  | ballot o => exact Encoding.ballot o | scan o => exact Encoding.scan o | li o => exact Encoding.li o | lda o => exact Encoding.lda o
  | fadd o => exact Encoding.fadd o | fsub o => exact Encoding.fsub o | fmul o => exact Encoding.fmul o | fdiv o => exact Encoding.fdiv o
  | fma o => exact Encoding.fma o | fms o => exact Encoding.fms o | fsqrt o => exact Encoding.fsqrt o | fmin o => exact Encoding.fmin o
  | fmax o => exact Encoding.fmax o | fabs o => exact Encoding.fabs o | fneg o => exact Encoding.fneg o | fcps o => exact Encoding.fcps o
  | fcmp o => exact Encoding.fcmp o | fclass o => exact Encoding.fclass o | frint o => exact Encoding.frint o | fscale o => exact Encoding.fscale o
  | fgetexp o => exact Encoding.fgetexp o | fgetman o => exact Encoding.fgetman o | fcvt o => exact Encoding.fcvt o
  | fcvti o => exact Encoding.fcvti o | icvtf o => exact Encoding.icvtf o | fpk o p => exact Encoding.fpk o p | fupk o p => exact Encoding.fupk o p
  | frcpe o => exact Encoding.frcpe o | frsqe o => exact Encoding.frsqe o | fex2 o => exact Encoding.fex2 o | flg2 o => exact Encoding.flg2 o
  | fsinpi o => exact Encoding.fsinpi o | fcospi o => exact Encoding.fcospi o | fdot2 o => exact Encoding.fdot2 o | bqnt o => exact Encoding.bqnt o
  | bdq o => exact Encoding.bdq o | fredAdd o => exact Encoding.fredAdd o | fredMin o => exact Encoding.fredMin o
  | fredMax o => exact Encoding.fredMax o | faddi o => exact Encoding.faddi o | fmuli o => exact Encoding.fmuli o | fmai o => exact Encoding.fmai o
  | fcmpi o => exact Encoding.fcmpi o | fli o => exact Encoding.fli o | ld o => exact Encoding.ld o | lds o => exact Encoding.lds o
  | ldx o => exact Encoding.ldx o | ldxs o => exact Encoding.ldxs o | st o => exact Encoding.st o | stx o => exact Encoding.stx o
  | ldnt o => exact Encoding.ldnt o | ldxnt o => exact Encoding.ldxnt o | stnt o => exact Encoding.stnt o | stxnt o => exact Encoding.stxnt o
  | ldnf o => exact Encoding.ldnf o | stbe o => exact Encoding.stbe o | pf o => exact Encoding.pf o | pfx o => exact Encoding.pfx o
  | ldm o => exact Encoding.ldm o | stm o => exact Encoding.stm o | tlbp o => exact Encoding.tlbp o | tlbi o => exact Encoding.tlbi o
  | tlbs o => exact Encoding.tlbs o | pois o => exact Encoding.pois o | spmap o => exact Encoding.spmap o | spmapz o => exact Encoding.spmapz o
  | spclr o => exact Encoding.spclr o | spwb o => exact Encoding.spwb o | spdrop o => exact Encoding.spdrop o | ldts o => exact Encoding.ldts o
  | stts o => exact Encoding.stts o | tsfree o => exact Encoding.tsfree o | tsstat o => exact Encoding.tsstat o | thacq o => exact Encoding.thacq o
  | thpf o => exact Encoding.thpf o | threl o => exact Encoding.threl o | thdown o => exact Encoding.thdown o | thclose o => exact Encoding.thclose o
  | thwb o => exact Encoding.thwb o | thsplit o => exact Encoding.thsplit o | thbind o => exact Encoding.thbind o
  | thunbind o => exact Encoding.thunbind o | thstat o => exact Encoding.thstat o | thext o => exact Encoding.thext o
  | thprobe o => exact Encoding.thprobe o | thopen o => exact Encoding.thopen o | thdesc o => exact Encoding.thdesc o | cas o => exact Encoding.cas o
  | swap o => exact Encoding.swap o | aadd o => exact Encoding.aadd o | amin o => exact Encoding.amin o | amax o => exact Encoding.amax o
  | afadd o => exact Encoding.afadd o | xadd o => exact Encoding.xadd o | xrd o => exact Encoding.xrd o | aand o => exact Encoding.aand o
  | aor o => exact Encoding.aor o | axor o => exact Encoding.axor o | ainc o => exact Encoding.ainc o | fence o => exact Encoding.fence o
  | fenceAcq o => exact Encoding.fenceAcq o | fenceRel o => exact Encoding.fenceRel o | rvinit o => exact Encoding.rvinit o
  | rvarrive o => exact Encoding.rvarrive o | rvwait o => exact Encoding.rvwait o | rvwaitSpec o => exact Encoding.rvwaitSpec o
  | rvsync o => exact Encoding.rvsync o | rvpoll o => exact Encoding.rvpoll o | gbinit o => exact Encoding.gbinit o
  | gbarrive o => exact Encoding.gbarrive o | gbwait o => exact Encoding.gbwait o | gbsync o => exact Encoding.gbsync o
  | waitvEq o => exact Encoding.waitvEq o | waitvNe o => exact Encoding.waitvNe o | specwait o => exact Encoding.specwait o
  | xset o => exact Encoding.xset o | rvstat o => exact Encoding.rvstat o | mlds o => exact Encoding.mlds o | mldl o => exact Encoding.mldl o
  | mswap o => exact Encoding.mswap o | mmul o => exact Encoding.mmul o | mmulz o => exact Encoding.mmulz o | acst o => exact Encoding.acst o
  | acld o => exact Encoding.acld o | acsclRow o => exact Encoding.acsclRow o | acsclCol o => exact Encoding.acsclCol o
  | acnrm o => exact Encoding.acnrm o | acredMax o => exact Encoding.acredMax o | acredSum o => exact Encoding.acredSum o
  | acbias o => exact Encoding.acbias o | cvinit o => exact Encoding.cvinit o | msign o => exact Encoding.msign o | mwait o => exact Encoding.mwait o
  | mstat o => exact Encoding.mstat o | mstclr o => exact Encoding.mstclr o | acrd o => exact Encoding.acrd o | acwr o => exact Encoding.acwr o
  | acclr o => exact Encoding.acclr o | mplane o => exact Encoding.mplane o | cpy o => exact Encoding.cpy o | fill o => exact Encoding.fill o
  | cpts o => exact Encoding.cpts o | cpfs o => exact Encoding.cpfs o | cpald o => exact Encoding.cpald o | cpast o => exact Encoding.cpast o
  | gcp o => exact Encoding.gcp o | gcpts o => exact Encoding.gcpts o | expf o => exact Encoding.expf o | exwb o => exact Encoding.exwb o
  | waitlt o => exact Encoding.waitlt o | ccrd o => exact Encoding.ccrd o | ccadd o => exact Encoding.ccadd o | ccclr o => exact Encoding.ccclr o
  | refine o => exact Encoding.refine o | rfres o => exact Encoding.rfres o | rfchk o => exact Encoding.rfchk o
  | rfcancel o => exact Encoding.rfcancel o | rfwait o => exact Encoding.rfwait o | rfstat o => exact Encoding.rfstat o
  | mfs o => exact Encoding.mfs o | mts o => exact Encoding.mts o | mtsset o => exact Encoding.mtsset o | mtsclr o => exact Encoding.mtsclr o
  | tret o => exact Encoding.tret o | tmask o => exact Encoding.tmask o | tunmask o => exact Encoding.tunmask o | tabort o => exact Encoding.tabort o
  | tmplace o => exact Encoding.tmplace o | tmsave o => exact Encoding.tmsave o | tmrest o => exact Encoding.tmrest o
  | tmflush o => exact Encoding.tmflush o | tmkill o => exact Encoding.tmkill o | tkclaim o => exact Encoding.tkclaim o
  | tkdone o => exact Encoding.tkdone o | ftime o => exact Encoding.ftime o | fwidle o => exact Encoding.fwidle o | fwsev o => exact Encoding.fwsev o
  | qpost o => exact Encoding.qpost o | rdcyc o => exact Encoding.rdcyc o | lsreq o => exact Encoding.lsreq o | lsrenew o => exact Encoding.lsrenew o
  | lsdrop o => exact Encoding.lsdrop o | exlend o => exact Encoding.exlend o | lsrecall o => exact Encoding.lsrecall o
  | lsrd o => exact Encoding.lsrd o | kyopen o => exact Encoding.kyopen o | kyclose o => exact Encoding.kyclose o
  | fmcand o => exact Encoding.fmcand o | exmig o => exact Encoding.exmig o
  | _ => exact encodesNone _ rfl

/-! ### From a word to its instruction -/

/-- The word that the encoder makes of the fields of `w` in form `k`, under the opcode `m` and `fn`. -/
def repack (k : FormKind) (m fn : Nat) (w v : DWord) : DWord :=
  match k with
  | .A => packA (BitVec.ofNat 8 m) (BitVec.ofNat 4 fn) (unpackA w)
  | .I => packI (BitVec.ofNat 8 m) (unpackI w)
  | .L => packL (BitVec.ofNat 8 m) (BitVec.ofNat 4 fn) (unpackL w v)
  | .M => packM (BitVec.ofNat 8 m) (unpackM w)
  | .B => packB (BitVec.ofNat 8 m) (BitVec.ofNat 4 fn) (unpackB w)
  | .X => packX (BitVec.ofNat 8 m) (BitVec.ofNat 4 fn) (unpackX w)

theorem ofNat_majorOf (w : DWord) : BitVec.ofNat 8 (majorOf w) = w.extractLsb' 56 8 := BitVec.ofNat_toNat ..

theorem ofNat_fnOf (w : DWord) : BitVec.ofNat 4 (fnOf w) = w.extractLsb' 12 4 := BitVec.ofNat_toNat ..

/-- Where the bits that lie in no field are clear, packing a word's own fields gives the word. -/
theorem repack_self {k : FormKind} {w : DWord} (v : DWord) (h : spareClear k w = true) :
    repack k (majorOf w) (fnOf w) w v = w := by
  cases k with
  | A => simpa only [repack, ofNat_majorOf, ofNat_fnOf] using packA_unpackA w
  | I => simpa only [repack, ofNat_majorOf] using packI_unpackI w
  | L => simpa only [repack, ofNat_majorOf, ofNat_fnOf] using packL_unpackL w v h
  | M => simpa only [repack, ofNat_majorOf] using packM_unpackM w
  | B => simpa only [repack, ofNat_majorOf, ofNat_fnOf] using packB_unpackB w h
  | X => simpa only [repack, ofNat_majorOf, ofNat_fnOf] using packX_unpackX w h

/-- The instruction has the opcode `m` and `fn` and the fields of `w` in the form of `m`; in the L-form `v` is its
immediate word. -/
structure ReadFrom (m fn : Nat) (w v : DWord) (i : Instr) : Prop where
  word : encodeWord i = (majorForm m).map (fun k => repack k m fn w v)
  imm : immWord i = if majorForm m = some .L then some v else none

theorem selectControl_readFrom {m fn : Nat} {w : DWord} {i : Instr} (h : selectControl m fn w = some i) (v : DWord) :
    ReadFrom m fn w v i := by
  unfold selectControl at h
  repeat' split at h
  all_goals cases h
  all_goals (try subst fn); exact ⟨rfl, rfl⟩

theorem selectInteger_readFrom {m fn : Nat} {w v : DWord} {i : Instr} (h : selectInteger m fn w v = some i) :
    ReadFrom m fn w v i := by
  unfold selectInteger at h
  repeat' split at h
  all_goals cases h
  all_goals (try subst fn); exact ⟨rfl, rfl⟩

theorem selectFloat_readFrom {m fn : Nat} {w v : DWord} {i : Instr} (h : selectFloat m fn w v = some i) :
    ReadFrom m fn w v i := by
  unfold selectFloat at h
  repeat' split at h
  all_goals cases h
  all_goals (try subst fn); exact ⟨rfl, rfl⟩

theorem selectMemory_readFrom {m fn : Nat} {w : DWord} {i : Instr} (h : selectMemory m fn w = some i) (v : DWord) :
    ReadFrom m fn w v i := by
  unfold selectMemory at h
  repeat' split at h
  all_goals cases h
  all_goals (try subst fn); exact ⟨rfl, rfl⟩

theorem selectTile_readFrom {m fn : Nat} {w : DWord} {i : Instr} (h : selectTile m fn w = some i) (v : DWord) :
    ReadFrom m fn w v i := by
  unfold selectTile at h
  repeat' split at h
  all_goals cases h
  all_goals (try subst fn); exact ⟨rfl, rfl⟩

theorem selectSync_readFrom {m fn : Nat} {w : DWord} {i : Instr} (h : selectSync m fn w = some i) (v : DWord) :
    ReadFrom m fn w v i := by
  unfold selectSync at h
  repeat' split at h
  all_goals cases h
  all_goals (try subst fn); exact ⟨rfl, rfl⟩

theorem selectMatrix_readFrom {m fn : Nat} {w : DWord} {i : Instr} (h : selectMatrix m fn w = some i) (v : DWord) :
    ReadFrom m fn w v i := by
  unfold selectMatrix at h
  repeat' split at h
  all_goals cases h
  all_goals (try subst fn); exact ⟨rfl, rfl⟩

theorem selectEngine_readFrom {m fn : Nat} {w : DWord} {i : Instr} (h : selectEngine m fn w = some i) (v : DWord) :
    ReadFrom m fn w v i := by
  unfold selectEngine at h
  repeat' split at h
  all_goals cases h
  all_goals (try subst fn); exact ⟨rfl, rfl⟩

theorem selectRefine_readFrom {m fn : Nat} {w : DWord} {i : Instr} (h : selectRefine m fn w = some i) (v : DWord) :
    ReadFrom m fn w v i := by
  unfold selectRefine at h
  repeat' split at h
  all_goals cases h
  all_goals (try subst fn); exact ⟨rfl, rfl⟩

theorem selectSystem_readFrom {m fn : Nat} {w : DWord} {i : Instr} (h : selectSystem m fn w = some i) (v : DWord) :
    ReadFrom m fn w v i := by
  unfold selectSystem at h
  repeat' split at h
  all_goals cases h
  all_goals (try subst fn); exact ⟨rfl, rfl⟩

theorem selectExtent_readFrom {m fn : Nat} {w v : DWord} {i : Instr} (h : selectExtent m fn w v = some i) :
    ReadFrom m fn w v i := by
  unfold selectExtent at h
  repeat' split at h
  all_goals cases h
  all_goals (try subst fn); exact ⟨rfl, rfl⟩


theorem selectInstr_readFrom {m fn : Nat} {w v : DWord} {i : Instr} (h : selectInstr m fn w v = some i) :
    ReadFrom m fn w v i := by
  unfold selectInstr at h
  split at h
  · exact selectControl_readFrom h v
  split at h
  · exact selectInteger_readFrom h
  split at h
  · exact selectFloat_readFrom h
  split at h
  · exact selectMemory_readFrom h v
  split at h
  · exact selectTile_readFrom h v
  split at h
  · exact selectSync_readFrom h v
  split at h
  · exact selectMatrix_readFrom h v
  split at h
  · exact selectEngine_readFrom h v
  split at h
  · exact selectRefine_readFrom h v
  split at h
  · exact selectSystem_readFrom h v
  exact selectExtent_readFrom h

/-- What a word that decodes is: no header, of an assigned opcode, with no reserved bit set. -/
theorem decodeWord_ok {w v : DWord} {i : Instr} (h : decodeWord w v = .ok i) :
    isHeader w = false ∧ i.WellFormed ∧ ∃ k, majorForm (majorOf w) = some k ∧ spareClear k w = true ∧
      ReadFrom (majorOf w) (fnOf w) w v i := by
  unfold decodeWord at h
  split at h
  · cases h
  rename_i hh
  split at h
  · cases h
  rename_i k hk
  split at h
  · cases h
  rename_i j hj
  split at h
  · cases h
  rename_i ha
  split at h
  · cases h
  rename_i hc
  obtain rfl : j = i := Decoded.ok.inj h
  simp only [Bool.not_eq_true', Bool.not_eq_false, Bool.and_eq_true] at ha hc hh
  refine ⟨by simpa using hh, ?_, k, hk, hc.2, selectInstr_readFrom hj⟩
  simp only [Instr.WellFormed, Instr.wellFormed, ha, hc.1, Bool.and_self]

/-- A word that decodes is its instruction's encoding, and the immediate is the word after it. -/
theorem encodeWord_of_decodeWord {w v : DWord} {i : Instr} (h : decodeWord w v = .ok i) :
    encodeWord i = some w ∧ (immWord i = none ∨ immWord i = some v) := by
  obtain ⟨-, -, k, hk, hs, hr⟩ := decodeWord_ok h
  constructor
  · rw [hr.word, hk, Option.map_some, repack_self v hs]
  · rw [hr.imm]; split <;> simp

/-! ### Bytes -/

@[simp] theorem bytesOf_length (n v : Nat) : (bytesOf n v).length = n := by simp [bytesOf]

theorem bytesOf_succ (n v : Nat) : bytesOf (n + 1) v = BitVec.ofNat 8 v :: bytesOf n (v / 256) := by
  simp only [bytesOf, List.range_succ_eq_map, List.map_cons, List.map_map, Nat.mul_zero, Nat.shiftRight_zero]
  congr 1
  refine List.map_congr_left fun k _ => ?_
  simp only [Function.comp_apply, Nat.shiftRight_eq_div_pow, Nat.div_div_eq_div_mul]
  rw [Nat.mul_succ, pow_add, Nat.mul_comm (2 ^ (8 * k)), show (2 : Nat) ^ 8 = 256 from rfl]

/-- The bytes of a number hold it (00 R4). -/
theorem ofBytes_bytesOf (n v : Nat) : ofBytes (bytesOf n v) = v % 2 ^ (8 * n) := by
  induction n generalizing v with
  | zero => simp [bytesOf, ofBytes, Nat.mod_one]
  | succ n ih =>
    rw [bytesOf_succ, ofBytes, ih, BitVec.toNat_ofNat, Nat.mul_succ, Nat.add_comm (8 * n), pow_add, Nat.mod_mul,
      show (2 : Nat) ^ 8 = 256 from rfl]

theorem ofNat_bytesOf (w : DWord) : BitVec.ofNat 64 (ofBytes (bytesOf 8 w.toNat)) = w := by
  rw [ofBytes_bytesOf, Nat.mod_eq_of_lt (by simpa using w.isLt), BitVec.ofNat_toNat, BitVec.setWidth_eq]

/-- The bytes of an instruction that has words: eight, or sixteen with an immediate word. -/
theorem encode_word {i : Instr} {w : DWord} (h : encodeWord i = some w) :
    encode i = bytesOf 8 w.toNat ++ ((immWord i).map (fun v => bytesOf 8 v.toNat)).getD [] := by
  unfold encode
  split
  · cases h
  · rw [h]
    cases immWord i <;> simp

/-- A word that is no L-form takes eight bytes. -/
theorem decode_short {w : DWord} (rest : List Byte) (h : majorForm (majorOf w) ≠ some .L) :
    decode (bytesOf 8 w.toNat ++ rest) = some (decodeWord w 0, rest) := by
  simp only [decode, List.length_append, bytesOf_length, List.take_left' (bytesOf_length 8 w.toNat), ofNat_bytesOf,
    List.drop_left' (bytesOf_length 8 w.toNat)]
  rw [if_neg (by omega), if_neg (by simp [h])]

/-- An L-form takes sixteen, and its second word is the immediate (02 R62). -/
theorem decode_long {w : DWord} (v : DWord) (rest : List Byte) (h : majorForm (majorOf w) = some .L)
    (hh : isHeader w = false) :
    decode (bytesOf 8 w.toNat ++ bytesOf 8 v.toNat ++ rest) = some (decodeWord w v, rest) := by
  have h16 : (bytesOf 8 w.toNat ++ bytesOf 8 v.toNat).length = 16 := by simp
  simp only [decode, List.drop_left' h16, List.length_append, bytesOf_length]
  simp only [List.append_assoc, List.take_left' (bytesOf_length 8 w.toNat), List.drop_left' (bytesOf_length 8 w.toNat),
    List.take_left' (bytesOf_length 8 v.toNat), ofNat_bytesOf]
  rw [if_neg (by omega), if_pos (by simp [h, hh]), if_neg (by omega)]

/-- The bytes of a well-formed instruction decode to it, and what follows them is left. -/
theorem decode_encode {i : Instr} {w : DWord} (rest : List Byte) (hi : i.WellFormed) (hw : encodeWord i = some w) :
    decode (encode i ++ rest) = some (.ok i, rest) := by
  have hd := encoding_statement i w hw hi
  obtain ⟨hh, -, k, -, -, hr⟩ := decodeWord_ok hd
  have him := hr.imm
  rw [encode_word hw]
  cases hv : immWord i with
  | none =>
    rw [hv] at hd him
    have hk : majorForm (majorOf w) ≠ some .L := fun hL => by rw [if_pos hL] at him; cases him
    simpa using (decode_short rest hk).trans (congrArg (fun d => some (d, rest)) hd)
  | some v =>
    rw [hv] at hd him
    have hk : majorForm (majorOf w) = some .L := by by_contra hL; rw [if_neg hL] at him; cases him
    exact (decode_long v rest hk hh).trans (congrArg (fun d => some (d, rest)) hd)

/-! ### The house cores' word -/

/-- The bits of a house word that twl.v fixes: the opcode, funct3 and funct7 (13 R433). -/
theorem houseMask_eq : 0xFE00707F#32 =
    BitVec.allOnes 7 ++ 0#5 ++ 0#5 ++ BitVec.allOnes 3 ++ 0#5 ++ BitVec.allOnes 7 := rfl

theorem packHouse_fixed (vd rs1 rs2 : BitVec 5) : packHouse vd rs1 rs2 &&& 0xFE00707F#32 = 0x0000000B#32 := by
  rw [houseMask_eq, packHouse]
  show (0#7 ++ rs2 ++ rs1 ++ 0#3 ++ vd ++ 0x0B#7) &&&
    (BitVec.allOnes 7 ++ 0#5 ++ 0#5 ++ BitVec.allOnes 3 ++ 0#5 ++ BitVec.allOnes 7) = _
  simp only [BitVec.and_append, BitVec.and_zero, BitVec.and_allOnes]
  rfl

theorem packHouse_fields (vd rs1 rs2 : BitVec 5) : (packHouse vd rs1 rs2).extractLsb' 7 5 = vd ∧
    (packHouse vd rs1 rs2).extractLsb' 15 5 = rs1 ∧ (packHouse vd rs1 rs2).extractLsb' 20 5 = rs2 := by
  refine ⟨?_, ?_, ?_⟩ <;>
  · unfold packHouse
    repeat rw [field_high _ _ _ _ (by decide)]
    rw [field_low _ _ _ _ (by decide)]
    simp

theorem decodeHouse_packHouse (vd rs1 rs2 : BitVec 5) : decodeHouse (packHouse vd rs1 rs2) = some (.twlV vd rs1 rs2) := by
  obtain ⟨hd, h1, h2⟩ := packHouse_fields vd rs1 rs2
  rw [decodeHouse, if_pos (packHouse_fixed vd rs1 rs2), hd, h1, h2]

theorem eq_packHouse {w : BitVec 32} (h : w &&& 0xFE00707F#32 = 0x0000000B#32) :
    w = packHouse (w.extractLsb' 7 5) (w.extractLsb' 15 5) (w.extractLsb' 20 5) := by
  have fixed (s n : Nat) : w.extractLsb' s n &&& (0xFE00707F#32).extractLsb' s n = (0x0000000B#32).extractLsb' s n := by
    rw [← BitVec.extractLsb'_and, h]
  have hop : w.extractLsb' 0 7 = 0x0B#7 := BitVec.and_allOnes.symm.trans (fixed 0 7)
  have hf3 : w.extractLsb' 12 3 = 0#3 := BitVec.and_allOnes.symm.trans (fixed 12 3)
  have hf7 : w.extractLsb' 25 7 = 0#7 := BitVec.and_allOnes.symm.trans (fixed 25 7)
  rw [packHouse, ← hop, ← hf3, ← hf7]
  repeat rw [BitVec.extractLsb'_append_extractLsb'_eq_extractLsb' (by decide)]
  exact BitVec.extractLsb'_eq_self.symm

/-- Settles O55: the laws of the single instructions give the way from an instruction to its words and back; the way
from a word goes through the class tables, where each row names the constructor whose encoding it is. -/
theorem encodingRoundTrip : Obligations.EncodingRoundTrip := by
  refine ⟨fun i w hi hw => encoding_statement i w hw hi, fun i w rest hi hw => decode_encode rest hi hw,
    fun w v i h => ⟨(decodeWord_ok h).2.1, encodeWord_of_decodeWord h⟩, decodeHouse_packHouse, fun w i h => ?_⟩
  unfold decodeHouse at h
  split at h
  · cases h
    exact ⟨_, _, _, rfl, eq_packHouse ‹_›⟩
  · cases h

end Sys2Proof.Laws
end

section
/-! SUPPORT. The state after reset (00 R8, 13 R437), unit by unit. -/

namespace Sys2Proof.Machine

theorem core_reset (c : Nat) : State.reset.core c = Core.init := rfl

/-- After reset only the firmware agent has a weave of its own (log entry 9). -/
theorem weave_reset (c w : Nat) : State.reset.weave c w = if w = 47 then Weave.agent else {} := by
  rw [State.weave, core_reset]
  by_cases h : w = 47
  · subst h; rfl
  · rw [if_neg h, Core.weave, Core.init, tabGet, tabFind, if_neg (fun e => h e.symm)]
    rfl

theorem thread_reset (c w l : Nat) :
    State.reset.thread c w l = if w = 47 ∧ l = 0 then { mode := .ready } else {} := by
  rw [State.thread, weave_reset]
  by_cases hw : w = 47
  · by_cases hl : l = 0
    · subst hw hl; rfl
    · rw [if_pos hw, if_neg (fun h => hl h.2), Weave.thread, Weave.agent, tabGet, tabFind, if_neg (fun e => hl e.symm)]
      rfl
  · rw [if_neg hw, if_neg (fun h => hw h.1)]
    rfl

/-- Settles O57: every table of the reset state is empty, so each entry reads as its default; only the agent's lane 0
has an entry of its own. -/
theorem resetState : Obligations.ResetState := by
  refine ⟨rfl, rfl, Memory.wf_reset, fun _ => rfl, fun _ => rfl, fun _ => rfl, fun _ => ⟨rfl, rfl⟩, fun _ => rfl, fun _ => rfl,
    ⟨rfl, rfl, rfl, rfl⟩, fun _ => rfl, fun c => ?_, fun c w => ?_, fun c w l => ?_⟩
  · rw [core_reset]
    exact ⟨rfl, rfl, rfl, rfl, rfl, rfl, rfl, rfl, rfl⟩
  · rw [weave_reset]
    split <;> exact ⟨rfl, rfl, rfl, rfl, rfl, rfl, rfl, rfl, rfl, rfl, rfl, rfl, rfl, rfl⟩
  · rw [thread_reset]
    split <;> exact ⟨rfl, rfl, rfl, rfl, rfl, fun _ => rfl⟩

end Sys2Proof.Machine
end

section
/-! SUPPORT. Memory stays in canonical form (01 R26): every operation of the model either leaves memory alone (the lemmas
named `…_mem`) or changes it by writes that keep the form (those named `…_wf`), in the order of the model's text. -/

namespace Sys2Proof.Machine

/-! ### Folds and the state within a result -/

/-- The state that an instruction's answer carries. -/
def Act.state : Act → State
  | .done s _ | .trap s _ _ _ _ | .wait s | .whole s => s

/-- The state that a meeting of the checks carries. -/
def Met.state : Met → State
  | .stop a => a.state
  | .go s _ => s

theorem foldl_mem {α : Type} (f : State → α → State) (hf : ∀ s a, (f s a).mem = s.mem) (l : List α) (s : State) :
    (l.foldl f s).mem = s.mem := by
  induction l generalizing s with
  | nil => rfl
  | cons a t ih => rw [List.foldl_cons, ih, hf]

/-- The fold law for a fold that carries a result beside the state. -/
theorem foldl_fst_mem {α β : Type} (f : State × β → α → State × β) (hf : ∀ r a, (f r a).1.mem = r.1.mem)
    (l : List α) (r : State × β) : (l.foldl f r).1.mem = r.1.mem := by
  induction l generalizing r with
  | nil => rfl
  | cons a t ih => rw [List.foldl_cons, ih, hf]

theorem foldl_fst_wf {α β : Type} (f : State × β → α → State × β)
    (hf : ∀ r a, Memory.wf r.1.mem = true → Memory.wf (f r a).1.mem = true) (l : List α) (r : State × β)
    (h : Memory.wf r.1.mem = true) : Memory.wf (l.foldl f r).1.mem = true := by
  induction l generalizing r with
  | nil => exact h
  | cons a t ih => exact ih _ (hf r a h)

/-! ### The operations on parts of the state -/

@[simp] theorem setCore_mem (s : State) (c : Nat) (k : Core) :
    (State.setCore s c k).mem = s.mem := rfl

@[simp] theorem modCore_mem (s : State) (c : Nat) (g : Core → Core) :
    (State.modCore s c g).mem = s.mem := rfl

@[simp] theorem setWeave_mem (s : State) (c w : Nat) (x : Weave) :
    (State.setWeave s c w x).mem = s.mem := rfl

@[simp] theorem modWeave_mem (s : State) (c w : Nat) (g : Weave → Weave) :
    (State.modWeave s c w g).mem = s.mem := rfl

@[simp] theorem modThread_mem (s : State) (c w l : Nat) (g : Thread → Thread) :
    (State.modThread s c w l g).mem = s.mem := rfl

@[simp] theorem modThreads_mem (s : State) (c w : Nat) (ls : List Nat) (g : Nat → Thread → Thread) :
    (State.modThreads s c w ls g).mem = s.mem := rfl

@[simp] theorem modDie_mem (s : State) (d : Nat) (g : Die → Die) :
    (State.modDie s d g).mem = s.mem := rfl

@[simp] theorem modContext_mem (s : State) (x : Nat) (g : Context → Context) :
    (State.modContext s x g).mem = s.mem := rfl

@[simp] theorem modLender_mem (s : State) (e : Nat) (g : Lease → Lease) :
    (State.modLender s e g).mem = s.mem := rfl

@[simp] theorem modBorrower_mem (s : State) (e : Nat) (g : Lease → Lease) :
    (State.modBorrower s e g).mem = s.mem := rfl

@[simp] theorem modPeer_mem (s : State) (p : Nat) (g : Peer → Peer) :
    (State.modPeer s p g).mem = s.mem := rfl

@[simp] theorem modQueue_mem (s : State) (q : Nat) (g : Queue → Queue) :
    (State.modQueue s q g).mem = s.mem := rfl

@[simp] theorem modGang_mem (s : State) (n : Nat) (f : Gang → Gang) :
    (State.modGang s n f).mem = s.mem := rfl

@[simp] theorem modLaunch_mem (s : State) (n : Nat) (f : Launch → Launch) :
    (State.modLaunch s n f).mem = s.mem := rfl

@[simp] theorem draw_mem (s : State) :
    (State.draw s).2.mem = s.mem := rfl

@[simp] theorem conflicts_mem (s : State) (locs : List Loc) (by_ : Nat × Nat × Nat) (sees : Nat → Nat → Bool) :
    (State.conflicts s locs by_ sees).mem = s.mem := rfl

@[simp] theorem entryConflicts_mem (s : State) (c : Nat) (e : StoreEnt) (sees : Nat → Nat → Bool) :
    (State.entryConflicts s c e sees).mem = s.mem := by
  unfold State.entryConflicts
  grind [foldl_mem, conflicts_mem]

@[simp] theorem hears_mem (s : State) (p : Nat) :
    (State.hears s p).mem = s.mem := rfl

@[simp] theorem hearRefusal_mem (s : State) (cause detail lid : Nat) :
    (State.hearRefusal s cause detail lid).mem = s.mem := by
  unfold State.hearRefusal
  grind [hears_mem]

/-! ### Lines, scratchpads and the lease cache (06) -/

@[simp] theorem setPoison_mem (s : State) (pa : Nat) (on : Bool) :
    (State.setPoison s pa on).mem = s.mem := rfl

@[simp] theorem waitLine_mem (s : State) (line : Nat) :
    (State.waitLine s line).mem = s.mem := by
  unfold State.waitLine
  grind

@[simp] theorem waitLines_mem (s : State) (ls : List Loc) :
    (State.waitLines s ls).mem = s.mem := by
  unfold State.waitLines
  grind [foldl_mem, waitLine_mem]

@[simp] theorem holdLine_mem (s : State) (who line : Nat) :
    (State.holdLine s who line).mem = s.mem := by
  unfold State.holdLine
  grind

@[simp] theorem markPoison_mem (s : State) (l : Loc) (on : Bool) :
    (State.markPoison s l on).mem = s.mem := by
  unfold State.markPoison
  grind [modTeam_mem, setPoison_mem]

theorem touchAll_wf (s : State) (ls : List Loc) (h : Memory.wf s.mem = true) :
    Memory.wf (State.touchAll s ls).mem = true := by
  unfold State.touchAll
  grind [foldl_wf, foldl_mem, touch_wf]

@[simp] theorem endInherit_mem (s : State) :
    (State.endInherit s).mem = s.mem := rfl

theorem spadWriteBack_wf (s : State) (t e : Nat) (h : Memory.wf s.mem = true) :
    Memory.wf (State.spadWriteBack s t e).mem = true := by
  unfold State.spadWriteBack
  grind [spadWriteLines_wf]

@[simp] theorem reroute_mem (s : State) (f : Loc → Loc) :
    (State.reroute s f).mem = s.mem := rfl

@[simp] theorem spadDrop_mem (s : State) (t e : Nat) :
    (State.spadDrop s t e).mem = s.mem := by
  unfold State.spadDrop
  grind [modTeam_mem, reroute_mem]

theorem spadClear_wf (s : State) (t e : Nat) (h : Memory.wf s.mem = true) :
    Memory.wf (State.spadClear s t e).mem = true := by
  unfold State.spadClear
  grind [spadWriteBack_wf, spadDrop_mem]

/-! ### Translation and checks (06 R188, R201 to R204) -/

theorem markLeaf_wf (s : State) (x : Xlat) (store : Bool) (h : Memory.wf s.mem = true) :
    Memory.wf (State.markLeaf s x store).1.mem = true := by
  unfold State.markLeaf
  grind [writePhys_wf]

@[simp] theorem fillTlb_mem (s : State) (core ctx va : Nat) (x : Xlat) :
    (State.fillTlb s core ctx va x).mem = s.mem := rfl

@[simp] theorem fillDieTlb_mem (s : State) (core ctx va : Nat) (x : Xlat) :
    (State.fillDieTlb s core ctx va x).mem = s.mem := rfl

theorem walkFill_wf (s : State) (core ctx va : Nat) (h : Memory.wf s.mem = true) :
    Memory.wf (State.walkFill s core ctx va).1.mem = true := by
  unfold State.walkFill
  grind [waitLines_mem, markLeaf_wf, fillTlb_mem, fillDieTlb_mem]

@[simp] theorem endShoot_mem (s : State) (core : Nat) :
    (State.endShoot s core).mem = s.mem := by
  unfold State.endShoot
  grind [modCore_mem]

theorem translate_wf (s : State) (core ctx va : Nat) (h : Memory.wf s.mem = true) :
    Memory.wf (State.translate s core ctx va).1.mem = true := by
  unfold State.translate
  grind [walkFill_wf, endShoot_mem]

theorem dirtied_wf (s : State) (core ctx va : Nat) (x : Xlat) (h : Memory.wf s.mem = true) :
    Memory.wf (State.dirtied s core ctx va x).1.mem = true := by
  unfold State.dirtied
  grind [waitLines_mem, markLeaf_wf, fillTlb_mem, fillDieTlb_mem]

@[simp] theorem snoop_mem (s : State) (l : Loc) :
    (State.snoop s l).mem = s.mem := by
  unfold State.snoop
  grind

@[simp] theorem leaseShoot_mem (s : State) (entry : Nat) :
    (State.leaseShoot s entry).mem = s.mem := rfl

@[simp] theorem checkFill_mem (s : State) (t o : Nat) :
    (State.checkFill s t o).1.mem = s.mem := by
  unfold State.checkFill
  grind [snoop_mem]

theorem check_wf (s : State) (a : Agent) (x : Acc) (ea : Nat) (h : Memory.wf s.mem = true) :
    Memory.wf (State.check s a x ea).1.mem = true := by
  unfold State.check
  grind [translate_wf, dirtied_wf, snoop_mem, checkFill_mem]

theorem checkList_wf (s : State) (a : Agent) (x : Acc) (es : List Nat) (h : Memory.wf s.mem = true) :
    Memory.wf (s.checkList a x es).1.mem = true := by
  induction es generalizing s with
  | nil => exact h
  | cons e t ih => exact ih _ (check_wf s a x e h)

theorem afterHolds_wf (s : State) (core : Nat) (t : State) (h : Memory.wf s.mem = true) (h1 : Memory.wf t.mem = true) :
    Memory.wf (s.afterHolds core t).mem = true := by
  unfold State.afterHolds
  split
  · exact h1
  · rwa [foldl_mem _ (fun s n => by rw [snoop_mem, waitLine_mem])]

/-! ### Teams, launches and contexts (12) -/

theorem setTicketState_wf (s : State) (addr st : Nat) (h : Memory.wf s.mem = true) :
    Memory.wf (State.setTicketState s addr st).mem = true := by
  unfold State.setTicketState
  grind [writePhys_wf]

@[simp] theorem showStores_mem (s : State) (c slot : Nat) :
    (State.showStores s c slot).mem = s.mem := by
  unfold State.showStores
  grind [foldl_mem, entryConflicts_mem]

@[simp] theorem removeTeam_mem (s : State) (c t : Nat) :
    (State.removeTeam s c t).mem = s.mem := by
  unfold State.removeTeam
  grind [foldl_mem, modCore_mem, showStores_mem]

theorem dropTeam_wf (s : State) (t : Nat) (h : Memory.wf s.mem = true) :
    Memory.wf (State.dropTeam s t).mem = true := by
  unfold State.dropTeam
  grind [foldl_wf, foldl_mem, spadClear_wf, removeTeam_mem]

theorem flushBuffer_wf (s : State) (ctx base len : Nat) (h : Memory.wf s.mem = true) :
    Memory.wf (State.flushBuffer s ctx base len).mem = true := by
  unfold State.flushBuffer
  grind [foldl_wf, foldl_mem, lcFlush_wf, spadWriteLines_wf]

theorem writeRecord_wf (s : State) (l : Launch) (status reason cause : Nat) (h : Memory.wf s.mem = true) :
    Memory.wf (State.writeRecord s l status reason cause).mem = true := by
  unfold State.writeRecord
  grind [foldl_fst_wf, foldl_fst_mem, foldl_wf, foldl_mem, writePhys_wf, markLeaf_wf, flushBuffer_wf]

@[simp] theorem beat_mem (s : State) (q : Nat) :
    (State.beat s q).mem = s.mem := rfl

@[simp] theorem journal_mem (s : State) (q kind a b : Nat) :
    (State.journal s q kind a b).mem = s.mem := by
  unfold State.journal
  grind [beat_mem]

@[simp] theorem pushLaunch_mem (s : State) (l : Launch) :
    (State.pushLaunch s l).mem = s.mem := rfl

theorem endLaunch_wf (s : State) (id status reason cause : Nat) (h : Memory.wf s.mem = true) :
    Memory.wf (State.endLaunch s id status reason cause).mem = true := by
  unfold State.endLaunch
  split <;> grind [modLaunch_mem, writeRecord_wf, journal_mem]

@[simp] theorem dropClaim_mem (s : State) (a : Nat) :
    (State.dropClaim s a).mem = s.mem := rfl

theorem flushLaunch_wf (s : State) (id : Nat) (h : Memory.wf s.mem = true) :
    Memory.wf (State.flushLaunch s id).mem = true := by
  unfold State.flushLaunch
  grind [foldl_wf, foldl_mem, setTicketState_wf, dropTeam_wf, dropClaim_mem]

theorem contextKill_wf (s : State) (ctx reason cause : Nat) (h : Memory.wf s.mem = true) :
    Memory.wf (State.contextKill s ctx reason cause).mem = true := by
  unfold State.contextKill
  grind [foldl_wf, foldl_mem, endLaunch_wf, flushLaunch_wf]

theorem resetAgent_wf (s : State) (c : Nat) (h : Memory.wf s.mem = true) :
    Memory.wf (State.resetAgent s c).mem = true := by
  unfold State.resetAgent
  grind [foldl_wf, foldl_mem, modCore_mem, setTicketState_wf]

/-! ### Roll-back, traps and parking (12) -/

@[simp] theorem landAll_mem (s : State) (c w : Nat) (p : Nat → Bool) :
    (State.landAll s c w p).mem = s.mem := rfl

@[simp] theorem rollLane_mem (s : State) (c w l : Nat) :
    (State.rollLane s c w l).mem = s.mem := by
  unfold State.rollLane
  grind [modWeave_mem, landAll_mem]

@[simp] theorem rollWeave_mem (s : State) (c w : Nat) :
    (State.rollWeave s c w).mem = s.mem := by
  unfold State.rollWeave
  grind [foldl_mem, rollLane_mem]

@[simp] theorem noteWrite_mem (s : State) (locs : List Loc) :
    (State.noteWrite s locs).mem = s.mem := rfl

theorem trapEntry_wf (s : State) (c w : Nat) (g : List Nat) (f : List Nat) (cause detail : Nat)
    (pc : DWord) (h : Memory.wf s.mem = true) :
    Memory.wf (State.trapEntry s c w g f cause detail pc).mem = true := by
  unfold State.trapEntry
  grind [modWeave_mem, afterHolds_wf, contextKill_wf, resetAgent_wf, rollWeave_mem]

@[simp] theorem parkLane_mem (s : State) (c w : Nat) (pc : DWord) (wr : Bool) (p : ParkLane) :
    (State.parkLane s c w pc wr p).mem = s.mem := by
  unfold State.parkLane
  grind [modCore_mem, modWeave_mem, modThread_mem]

theorem park_mem (s : State) (c w : Nat) (pc : DWord) (wr : Bool) (ls : List ParkLane) (u : State)
    (hu : s.park c w pc wr ls = some u) : u.mem = s.mem := by
  unfold State.park at hu
  grind [foldl_mem, parkLane_mem, hearRefusal_mem]

@[simp] theorem hold_mem (s : State) (g : Grp) (ls : List Nat) :
    (State.hold s g ls).mem = s.mem := rfl

@[simp] theorem shelve_mem (s : State) (g : Grp) (ls : List Nat) :
    (State.shelve s g ls).mem = s.mem := rfl

theorem raise_wf (s : State) (g : Grp) (cause detail : Nat) (f : List Nat) (h : Memory.wf s.mem = true) :
    Memory.wf (State.raise s g cause detail f).mem = true := by
  unfold State.raise
  grind [trapEntry_wf, hold_mem, shelve_mem]

/-! ### The issue of an instruction -/

@[simp] theorem advance_mem (s : State) (g : Grp) (words : Nat) :
    (State.advance s g words).mem = s.mem := rfl

@[simp] theorem Iss.keep_mem (x : Iss) (s : State) (ran : List Nat) :
    (Iss.keep x s ran).mem = s.mem := by
  unfold Iss.keep
  grind [modThreads_mem]

@[simp] theorem Iss.unrun_mem (x : Iss) (s : State) (ls : List Nat) :
    (Iss.unrun x s ls).mem = s.mem := rfl

theorem Iss.park_mem (x : Iss) (s : State) (pc : DWord) (wr : Bool) (ls : List ParkLane) (u : State)
    (hu : x.park s pc wr ls = some u) : u.mem = s.mem := by
  unfold Iss.park at hu
  grind [Machine.park_mem, shelve_mem]

theorem Iss.finish_wf (x : Iss) (r : Act) (ho : Memory.wf x.old.mem = true) (h : Memory.wf r.state.mem = true) :
    Memory.wf (x.finish r).mem = true := by
  cases r with
  | done s ran => unfold Iss.finish; grind [Act.state, Iss.keep_mem, Iss.unrun_mem]
  | trap s ran c d f => unfold Iss.finish; grind [Act.state, Iss.unrun_mem, shelve_mem, hold_mem, trapEntry_wf]
  | wait s => unfold Iss.finish; grind [Act.state, Iss.unrun_mem, hold_mem]
  | whole s => exact h

theorem gate_old {s : State} {g : Grp} {i : Instr} {f : Fields} {r : Row} {sp : Bool} {x : Iss}
    (h : s.gate g i f r sp = .go x) : x.old = s := congrArg Iss.old (gate_go h)
theorem issueWith_wf (i : Instr) (f : Fields) (r : Row) (sp : Bool) (body : Iss → State → Act) (s t : State)
    (hb : ∀ x u, Memory.wf u.mem = true → Memory.wf (body x u).state.mem = true) (h : Memory.wf s.mem = true)
    (ht : issueWith i f r sp body s = .next t) : Memory.wf t.mem = true := by
  unfold issueWith at ht
  grind [advance_mem, hold_mem, raise_wf, Iss.finish_wf, gate_old]

@[simp] theorem Iss.note_mem (x : Iss) (s : State) (ls : List Nat) (acc : Nat → Option (Nat × Nat × Bool)) (tile : Option Nat) :
    (Iss.note x s ls acc tile).mem = s.mem := rfl

@[simp] theorem Iss.holdMarked_mem (x : Iss) (s : State) (ls : List Nat) (acc : Nat → Option (Nat × Nat × Bool)) :
    (Iss.holdMarked x s ls acc).mem = s.mem := rfl

theorem Iss.eachMarked_wf (x : Iss) (s : State) (busy : Nat → Bool) (acc : Nat → Option (Nat × Nat × Bool))
    (k : Iss → State → State) (hk : ∀ x s, Memory.wf s.mem = true → Memory.wf (k x s).mem = true)
    (h : Memory.wf s.mem = true) : Memory.wf (x.eachMarked s busy acc k).state.mem = true := by
  unfold Iss.eachMarked
  grind [Act.state, Iss.holdMarked_mem]

theorem Iss.inPlace_wf (x : Iss) (tile : Option Nat) (a : Act) (ha : Memory.wf a.state.mem = true) :
    Memory.wf (x.inPlace tile a).state.mem = true := by
  cases a with
  | wait s => exact (Iss.note_mem x s _ _ _).symm ▸ ha
  | _ => exact ha

theorem perLane_wf (f : Iss → Nat → Write) (x : Iss) (s : State) (h : Memory.wf s.mem = true) :
    Memory.wf (perLane f x s).state.mem = true := by
  unfold perLane
  grind [Act.state, modThreads_mem]

/-! ### Holds, tenures and handles (07, 08) -/

@[simp] theorem defer_mem (s : State) (x : Iss) (l : Nat) (idx : BitVec 9) (bits : Nat) (val : Option Nat) (va : Nat) :
    (State.defer s x l idx bits val va).mem = s.mem := by
  unfold State.defer
  grind [modCore_mem, modThread_mem]

@[simp] theorem grantHold_mem (s : State) (core line : Nat) :
    (State.grantHold s core line).mem = s.mem := by
  unfold State.grantHold
  grind [holdLine_mem]

@[simp] theorem dropHolds_mem (s : State) (p : Hold → Bool) :
    (State.dropHolds s p).mem = s.mem := by
  unfold State.dropHolds
  grind [foldl_mem, conflicts_mem]

theorem Iss.held_wf (x : Iss) (s : State) (a : Act) (h : Memory.wf s.mem = true) (ha : Memory.wf a.state.mem = true) :
    Memory.wf (x.held s a).state.mem = true := by
  cases a with
  | done t ran => unfold Iss.held; grind [Act.state, afterHolds_wf]
  | whole t => unfold Iss.held; grind [Act.state, afterHolds_wf]
  | _ => exact ha

@[simp] theorem pruneDirs_mem (s : State) :
    (State.pruneDirs s).mem = s.mem := rfl

@[simp] theorem modHandle_mem (s : State) (t n : Nat) (g : Handle → Handle) :
    (State.modHandle s t n g).mem = s.mem := by
  unfold State.modHandle
  grind [modTeam_mem]

@[simp] theorem tenureLost_mem (s : State) (t : Nat) (ls : List Loc) :
    (State.tenureLost s t ls).mem = s.mem := rfl

@[simp] theorem loseHandle_mem (s : State) (t n : Nat) (g : Handle → Handle) :
    (State.loseHandle s t n g).mem = s.mem := by
  unfold State.loseHandle
  grind [modHandle_mem, tenureLost_mem]

@[simp] theorem rowRecall_mem (s : State) (who : Option Nat) (store : Bool) (pa : Nat) :
    (State.rowRecall s who store pa).mem = s.mem := by
  unfold State.rowRecall
  grind [foldl_mem, pruneDirs_mem, modHandle_mem, tenureLost_mem]

@[simp] theorem recallSpan_mem (s : State) (who : Option Nat) (store : Bool) (l : Loc) (n : Nat) :
    (State.recallSpan s who store l n).mem = s.mem := by
  unfold State.recallSpan
  grind [foldl_mem, rowRecall_mem]

@[simp] theorem syncTouch_mem (s : State) (pa : Nat) (core : Option Nat) (who : Option Nat) :
    (State.syncTouch s pa core who).mem = s.mem := by
  unfold State.syncTouch
  grind [modDie_mem, conflicts_mem]

/-! ### Accesses and stores (06) -/

@[simp] theorem Iss.lendWait_mem (x : Iss) (s : State) (wr : Bool) (l ea : Nat) (t : Xlat) (scr : Bool) :
    (Iss.lendWait x s wr l ea t scr).mem = s.mem := rfl

theorem Iss.settle_mem (x : Iss) (s : State) (wr : Bool) (rs : List (Nat × Nat × Chk)) (u : State) (qs : List Lane)
    (hu : x.settle s wr rs = some (u, qs)) : u.mem = s.mem := by
  unfold Iss.settle at hu
  grind [Iss.park_mem, foldl_mem, hold_mem, Iss.lendWait_mem]

theorem Iss.checkOnce_wf (x : Iss) (s : State) (acc : Acc) (va : Nat) (h : Memory.wf s.mem = true) :
    Memory.wf (Iss.checkOnce x s acc va).1.mem = true := by
  unfold Iss.checkOnce
  grind [check_wf]

theorem Iss.access_wf (x : Iss) (s : State) (acc : Acc) (ea : Nat → Nat) (h : Memory.wf s.mem = true) :
    Memory.wf (x.access s acc ea).state.mem = true := by
  unfold Iss.access
  grind [Met.state, Act.state, checkList_wf, Iss.settle_mem]

theorem enterReads_mem (s : State) (c w l : Nat) (ls : List Loc) (u : State) (hu : s.enterReads c w l ls = some u) :
    u.mem = s.mem := by
  unfold State.enterReads at hu
  grind [setWeave_mem]

theorem prepLoad_wf (s : State) (c w : Nat) (q : Lane) (n : Nat) (keep : Bool) (h : Memory.wf s.mem = true) :
    Memory.wf (State.prepLoad s c w q n keep).mem = true := by
  unfold State.prepLoad
  grind [touchAll_wf, grantHold_mem, recallSpan_mem, syncTouch_mem]

@[simp] theorem pushStores_mem (s : State) (c w : Nat) (es : List StoreEnt) :
    (State.pushStores s c w es).mem = s.mem := by
  unfold State.pushStores
  grind [foldl_mem, modWeave_mem, entryConflicts_mem]

theorem Iss.store_mem (x : Iss) (s : State) (rel : Bool) (n : Nat) (qs : List Stored) (u : State) (ran : List Nat)
    (hu : x.store s rel n qs = some (u, ran)) : u.mem = s.mem := by
  unfold Iss.store at hu
  grind [foldl_fst_mem, hold_mem, modThread_mem, pushStores_mem]

/-! ### Fetch and the header (02, 03) -/

theorem fetchOn_wf (s : State) (c w va : Nat) (q : Option LendWait) (h : Memory.wf s.mem = true) :
    Memory.wf (State.fetchOn s c w va q).1.mem = true := by
  unfold State.fetchOn
  grind [check_wf]

theorem fetch_wf (s : State) (c w va : Nat) (h : Memory.wf s.mem = true) :
    Memory.wf (State.fetch s c w va).1.mem = true := by
  unfold State.fetch
  grind [fetchOn_wf]

@[simp] theorem holdFetch_mem (s : State) (g : Grp) (q : LendWait) :
    (State.holdFetch s g q).mem = s.mem := rfl

@[simp] theorem stopHere_mem (s : State) (g : Grp) (w : DWord) :
    (State.stopHere s g w).mem = s.mem := by
  unfold State.stopHere
  grind [modThreads_mem, modTeam_mem, hold_mem]

/-- Lanes whose fetch faults wait where they speculate, and park otherwise, or wait for a free sub-group. -/
theorem parkFetch_mem (s : State) (g : Grp) (pc : DWord) (ls : List ParkLane) :
    (if g.spec then s.shelve g g.lanes
      else (s.park g.core g.slot pc false ls).getD (s.hold g g.lanes)).mem = s.mem := by
  split
  · exact shelve_mem s g g.lanes
  · cases hp : s.park g.core g.slot pc false ls with
    | none => exact hold_mem s g g.lanes
    | some v => exact park_mem s g.core g.slot pc false ls v hp
theorem runHeader_wf (s : State) (g : Grp) (h : Memory.wf s.mem = true) : Memory.wf (s.runHeader g).mem = true := by
  have hf := fetch_wf s g.core g.slot g.pc.toNat h
  unfold State.runHeader
  dsimp only
  split
  · exact h
  split <;> rename_i u _ hu <;> rw [hu] at hf
  · exact hf
  · exact hf
  · exact raise_wf _ _ _ _ _ hf
  · rwa [parkFetch_mem]
  · rename_i w
    have hv := fetch_wf u g.core g.slot (hdrTarget w g.pc).toNat hf
    split
    · exact raise_wf _ _ _ _ _ hf
    split
    · rwa [stopHere_mem]
    split
    · exact hf
    split
    · exact raise_wf _ _ _ _ _ hf
    split
    · exact hf
    split <;> rename_i v _ hv' <;> rw [hv'] at hv
    · exact hv
    · exact hv
    · exact raise_wf _ _ _ _ _ hv
    · rwa [parkFetch_mem]
    · split
      · exact raise_wf _ _ _ _ _ hv
      · exact hv

theorem takeCheck_wf (s : State) (c w l : Nat) (t : DWord) (q : optParam (Option LendWait) none)
    (h : Memory.wf s.mem = true) :
    Memory.wf (State.takeCheck s c w l t q).1.mem = true := by
  unfold State.takeCheck
  grind [fetchOn_wf]

theorem takeAll_wf (s : State) (c w : Nat) (on : Nat → DWord → Option LendWait) (ts : List (Nat × DWord))
    (h : Memory.wf s.mem = true) : Memory.wf (s.takeAll c w on ts).1.mem = true := by
  induction ts generalizing s with
  | nil => exact h
  | cons e t ih => exact ih _ (takeCheck_wf s c w e.1 e.2 _ h)

theorem Iss.parkTargets_mem (x : Iss) (s : State) (ts : List (DWord × ParkLane)) (u : State)
    (hu : x.parkTargets s ts = some u) : u.mem = s.mem := by
  induction ts generalizing s with
  | nil => exact congrArg State.mem (Option.some.inj hu).symm
  | cons e t ih =>
    unfold Iss.parkTargets at hu
    split at hu
    · rename_i v hv
      rw [ih v hu, Iss.park_mem _ _ _ _ _ _ hv, modThread_mem]
    · cases hu

theorem transfer_wf (want : Iss → Nat → Option DWord) (eff : Iss → Nat → Thread → Thread) (x : Iss) (s : State)
    (h : Memory.wf s.mem = true) : Memory.wf (transfer want eff x s).state.mem = true := by
  have ht := fun on ts => takeAll_wf s x.g.core x.g.slot on ts h
  unfold transfer
  dsimp only
  split
  · exact ht _ _
  · rename_i v hv
    have hm : Memory.wf v.mem = true := by
      rw [Iss.parkTargets_mem _ _ _ _ hv, foldl_mem _ (by intros; rfl)]
      split
      · rw [foldl_mem _ (by intros; rfl)]; exact ht _ _
      · rw [hold_mem, foldl_mem _ (by intros; rfl)]; exact ht _ _
    split
    · exact hm
    split
    · exact hm
    split <;> exact hm

@[simp] theorem freeWeave_mem (s : State) (c w : Nat) :
    (State.freeWeave s c w).mem = s.mem := by
  unfold State.freeWeave
  grind [modCore_mem, modTeam_mem, showStores_mem]

/-! ### Bodies: control, integers and floating point (03 to 05) -/

theorem branchIf_wf (c : Iss → Nat → Bool) (eff : Iss → Nat → Thread → Thread) (x : Iss) (s : State)
    (h : Memory.wf s.mem = true) :
    Memory.wf (branchIf c eff x s).state.mem = true := by
  unfold branchIf
  grind [Act.state, transfer_wf]

theorem jumpTo_wf (eff : Iss → Nat → Thread → Thread) (x : Iss) (s : State) (h : Memory.wf s.mem = true) :
    Memory.wf (jumpTo eff x s).state.mem = true := by
  unfold jumpTo
  grind [Act.state, transfer_wf]

theorem predOp_wf (f : Bool → Bool → Bool) (x : Iss) (s : State) (h : Memory.wf s.mem = true) :
    Memory.wf (predOp f x s).state.mem = true := by
  unfold predOp
  grind [Act.state, perLane_wf]

@[simp] theorem Iss.putAll_mem (x : Iss) (s : State) (rs : List (Nat × FpWrite)) :
    (Iss.putAll x s rs).mem = s.mem := by
  unfold Iss.putAll
  grind [foldl_mem, modThread_mem]

theorem fpLanes_wf (f : Iss → Nat → FpWrite) (x : Iss) (s : State) (h : Memory.wf s.mem = true) :
    Memory.wf (fpLanes f x s).state.mem = true := by
  unfold fpLanes
  grind [Act.state, Iss.putAll_mem]

theorem fpOp_wf (f : Iss → Nat → FRes × Nat) (x : Iss) (s : State) (h : Memory.wf s.mem = true) :
    Memory.wf (fpOp f x s).state.mem = true := by
  unfold fpOp
  grind [Act.state, fpLanes_wf]

theorem fpCode_wf (f : Iss → Nat → Nat × Nat) (x : Iss) (s : State) (h : Memory.wf s.mem = true) :
    Memory.wf (fpCode f x s).state.mem = true := by
  unfold fpCode
  grind [Act.state, fpLanes_wf]

theorem arith_wf (v : Iss → Nat → ℤ) (x : Iss) (s : State) (h : Memory.wf s.mem = true) :
    Memory.wf (arith v x s).state.mem = true := by
  unfold arith
  grind [Act.state, perLane_wf]

theorem bits_wf (v : Iss → Nat → Nat) (x : Iss) (s : State) (h : Memory.wf s.mem = true) :
    Memory.wf (bits v x s).state.mem = true := by
  unfold bits
  grind [Act.state, perLane_wf]

theorem carry_wf (v : ℤ → ℤ → ℤ → ℤ) (out : Nat → ℤ → Bool) (x : Iss) (s : State) (h : Memory.wf s.mem = true) :
    Memory.wf (carry v out x s).state.mem = true := by
  unfold carry
  grind [Act.state, modThreads_mem]

/-! ### Bodies: loads and stores (06) -/

theorem Iss.loadLane_wf (x : Iss) (k : MemKind) (bad : Option Nat) (r : State × List Nat) (q : Lane)
    (h : Memory.wf r.1.mem = true) : Memory.wf (x.loadLane k bad r q).1.mem = true := by
  unfold Iss.loadLane
  grind [prepLoad_wf, enterReads_mem, hold_mem, defer_mem]

theorem loadBody_wf (k : MemKind) (x : Iss) (s : State) (h : Memory.wf s.mem = true) :
    Memory.wf (loadBody k x s).state.mem = true := by
  have ha := x.access_wf s (k.acc x false) (k.ea x) h
  unfold loadBody
  grind [Met.state, Act.state, foldl_fst_wf, Iss.loadLane_wf]

theorem Iss.ldnfLane_wf (x : Iss) (k : MemKind) (r : State × List Nat) (q : Lane) (h : Memory.wf r.1.mem = true) :
    Memory.wf (x.ldnfLane k r q).1.mem = true := by
  unfold Iss.ldnfLane
  grind [prepLoad_wf, enterReads_mem, hold_mem, modThread_mem]

@[simp] theorem Iss.ldnfFail_mem (x : Iss) (s : State) (ls : List Nat) :
    (Iss.ldnfFail x s ls).mem = s.mem := rfl

@[simp] theorem Iss.stay_mem (x : Iss) (s : State) :
    (Iss.stay x s).mem = s.mem := rfl

theorem ldnfBody_wf (x : Iss) (s : State) (h : Memory.wf s.mem = true) :
    Memory.wf (ldnfBody x s).state.mem = true := by
  unfold ldnfBody
  grind [foldl_fst_wf, foldl_fst_mem, Act.state, foldl_wf, foldl_mem, checkList_wf, Iss.settle_mem, Iss.ldnfLane_wf,
    Iss.ldnfFail_mem, Iss.stay_mem]

@[simp] theorem Iss.yieldBytes_mem (x : Iss) (k : MemKind) (en : Nat → Nat → Bool) (s : State) (ran : List Nat) :
    (Iss.yieldBytes x k en s ran).mem = s.mem := rfl

theorem storeBody_wf (k : MemKind) (en : Iss → Nat → Nat → Bool) (x : Iss) (s : State) (h : Memory.wf s.mem = true) :
    Memory.wf (storeBody k en x s).state.mem = true := by
  unfold storeBody
  grind [Met.state, Act.state, Iss.access_wf, Iss.store_mem, Iss.yieldBytes_mem]

@[simp] theorem prefetchIn_mem (s : State) (c : Nat) (team : Option Nat) (n : Nat × Bool) :
    (State.prefetchIn s c team n).mem = s.mem := by
  unfold State.prefetchIn
  grind [grantHold_mem, syncTouch_mem]

theorem prefetchBody_wf (indexed : Bool) (x : Iss) (s : State) (h : Memory.wf s.mem = true) :
    Memory.wf (prefetchBody indexed x s).state.mem = true := by
  unfold prefetchBody
  grind [foldl_fst_wf, foldl_fst_mem, Act.state, foldl_wf, foldl_mem, checkList_wf, prefetchIn_mem]

/-! ### Bodies: TLBs, poison and scratchpads (06) -/

theorem tlbpBody_wf (x : Iss) (s : State) (h : Memory.wf s.mem = true) :
    Memory.wf (tlbpBody x s).state.mem = true := by
  unfold tlbpBody
  grind [Act.state, perLane_wf]

@[simp] theorem shoot_mem (s : State) (core : Nat) (pkg : Bool) (ctx va size : Nat) :
    (State.shoot s core pkg ctx va size).mem = s.mem := rfl

theorem tlbiBody_wf (x : Iss) (s : State) (h : Memory.wf s.mem = true) :
    Memory.wf (tlbiBody x s).state.mem = true := by
  unfold tlbiBody
  grind [Met.state, Act.state, foldl_wf, foldl_mem, Iss.access_wf, shoot_mem]

theorem tlbsBody_wf (x : Iss) (s : State) (h : Memory.wf s.mem = true) :
    Memory.wf (tlbsBody x s).state.mem = true := by
  unfold tlbsBody
  grind [Act.state, foldl_mem, modCore_mem, rollWeave_mem]

theorem poisSector_wf (s : State) (l : Loc) (on : Bool) (h : Memory.wf s.mem = true) :
    Memory.wf (State.poisSector s l on).mem = true := by
  unfold State.poisSector
  grind [conflicts_mem, markPoison_mem, touchAll_wf, putBytes_wf, noteWrite_mem]

theorem poisBody_wf (x : Iss) (s : State) (h : Memory.wf s.mem = true) :
    Memory.wf (poisBody x s).state.mem = true := by
  unfold poisBody
  grind [Met.state, Act.state, foldl_wf, foldl_mem, waitLines_mem, recallSpan_mem, Iss.access_wf, poisSector_wf]

theorem rangeSegs_wf (s : State) (a : Agent) (va len : Nat) (h : Memory.wf s.mem = true) :
    Memory.wf (State.rangeSegs s a va len).1.mem = true := by
  unfold State.rangeSegs
  grind [checkList_wf]

@[simp] theorem mapEntry_mem (s : State) (t e : Nat) (m : MapEnt) :
    (State.mapEntry s t e m).mem = s.mem := by
  unfold State.mapEntry
  grind [modTeam_mem, reroute_mem]

theorem spmapBody_wf (zero : Bool) (x : Iss) (s : State) (h : Memory.wf s.mem = true) :
    Memory.wf (spmapBody zero x s).state.mem = true := by
  unfold spmapBody
  split <;> grind [Act.state, Iss.park_mem, rangeSegs_wf, mapEntry_mem]

@[simp] theorem waitBackLines_mem (s : State) (ls : List Loc) :
    (State.waitBackLines s ls).mem = s.mem := by
  unfold State.waitBackLines
  grind [foldl_mem, waitLines_mem, snoop_mem]

theorem spBody_wf (back : Bool) (k : State → Nat → Nat → State) (x : Iss) (s : State)
    (hk : ∀ s t e, Memory.wf s.mem = true → Memory.wf (k s t e).mem = true) (h : Memory.wf s.mem = true) :
    Memory.wf (spBody back k x s).state.mem = true := by
  unfold spBody
  grind [Act.state, waitBackLines_mem]

/-! ### Bodies: atomics, fences and waits (08) -/

theorem atomBody_wf (ea : Iss → Nat → Nat) (xv : Iss → Nat → Nat) (yv : Iss → Nat → Nat) (x : Iss) (s : State)
    (h : Memory.wf s.mem = true) :
    Memory.wf (atomBody ea xv yv x s).state.mem = true := by
  unfold atomBody
  grind [Met.state, Act.state, modCore_mem, modThreads_mem, Iss.access_wf]

theorem atomLane_wf (s : State) (core : Nat) (a : Atom) (pva : Option Nat) (q : AtomLane) (h : Memory.wf s.mem = true) :
    Memory.wf (State.atomLane s core a pva q).mem = true := by
  unfold State.atomLane
  grind [modCore_mem, conflicts_mem, touchAll_wf, putBytes_wf, noteWrite_mem, recallSpan_mem, syncTouch_mem]

theorem fenceBody_wf (stores : Bool) (x : Iss) (s : State) (h : Memory.wf s.mem = true) :
    Memory.wf (fenceBody stores x s).state.mem = true := by
  unfold fenceBody
  grind [Act.state]

@[simp] theorem endPauses_mem (s : State) (c : Nat) (x : Team) :
    (State.endPauses s c x).mem = s.mem := by
  unfold State.endPauses
  grind [foldl_mem, modWeave_mem]

@[simp] theorem wakeAgent_mem (s : State) (core bit : Nat) :
    (State.wakeAgent s core bit).mem = s.mem := rfl

@[simp] theorem expire_mem (s : State) (c : Nat) (x : Team) (at_ : Nat) :
    (State.expire s c x at_).mem = s.mem := by
  unfold State.expire
  grind [modTeam_mem, endPauses_mem, wakeAgent_mem]

@[simp] theorem lockWait_mem (s : State) (c w : Nat) (loc : Loc) (n v : Nat) :
    (State.lockWait s c w loc n v).mem = s.mem := by
  unfold State.lockWait
  grind [modContext_mem, expire_mem]

theorem Iss.waitLane_wf (x : Iss) (ne : Bool) (r : State × List Nat) (q : Lane)
    (h : Memory.wf r.1.mem = true) : Memory.wf (x.waitLane ne r q).1.mem = true := by
  unfold Iss.waitLane
  grind [prepLoad_wf, hold_mem, modThread_mem, modWeave_mem, lockWait_mem]

theorem waitvBody_wf (ne : Bool) (x : Iss) (s : State) (h : Memory.wf s.mem = true) :
    Memory.wf (waitvBody ne x s).state.mem = true := by
  unfold waitvBody
  grind [foldl_fst_wf, foldl_fst_mem, Met.state, Act.state, foldl_wf, foldl_mem, Iss.access_wf, Iss.waitLane_wf]

/-! ### Bodies: tile handles (07) -/

theorem footPages_wf (s : State) (a : Agent) (acc : Acc) (d : TileDesc) (n cur : Nat) (h : Memory.wf s.mem = true) :
    Memory.wf (s.footPages a acc d n cur).1.mem = true := by
  induction n generalizing s cur with
  | zero => exact h
  | succ n ih =>
    unfold State.footPages
    grind [check_wf, translate_wf]

theorem tilePages_wf (s : State) (a : Agent) (acc : Acc) (d : TileDesc) (h : Memory.wf s.mem = true) :
    Memory.wf (State.tilePages s a acc d).1.mem = true := by
  unfold State.tilePages
  grind [footPages_wf]

theorem once_wf (ops : Iss → Nat → List Nat) (k : Iss → State → Nat → Nat → Act) (x : Iss) (s : State)
    (hk : ∀ x s t l, Memory.wf s.mem = true → Memory.wf (k x s t l).state.mem = true) (h : Memory.wf s.mem = true) :
    Memory.wf (once ops k x s).state.mem = true := by
  unfold once
  grind [Act.state]

theorem Iss.inTurn_wf (x : Iss) (s : State) (t n : Nat) (a : Act) (h : Memory.wf s.mem = true)
    (ha : Memory.wf a.state.mem = true) : Memory.wf (x.inTurn s t n a).state.mem = true := by
  unfold Iss.inTurn
  grind [Act.state, Iss.inPlace_wf]

theorem withHandle_wf (v : Iss → Nat → Nat) (k : Iss → State → Nat → Nat → Act) (x : Iss) (s : State) (t l : Nat)
    (hk : ∀ x s t l, Memory.wf s.mem = true → Memory.wf (k x s t l).state.mem = true) (h : Memory.wf s.mem = true) :
    Memory.wf (withHandle v k x s t l).state.mem = true := by
  unfold withHandle
  grind [Act.state, Iss.inTurn_wf]

@[simp] theorem Iss.giveAll_mem (x : Iss) (s : State) (v : Nat) :
    (Iss.giveAll x s v).mem = s.mem := rfl

theorem Iss.failAll_wf (x : Iss) (s : State) (wr : Bool) (va : Nat) (k : Chk) (h : Memory.wf s.mem = true) :
    Memory.wf (x.failAll s wr va k).state.mem = true := by
  unfold Iss.failAll
  grind [Act.state, Iss.park_mem, foldl_mem, Iss.lendWait_mem]

theorem openBody_wf (x : Iss) (s : State) (h : Memory.wf s.mem = true) :
    Memory.wf (openBody x s).state.mem = true := by
  unfold openBody
  grind [Act.state, modHandle_mem, Iss.checkOnce_wf, prepLoad_wf, once_wf, Iss.inTurn_wf, Iss.giveAll_mem, Iss.failAll_wf]

theorem descBody_wf (x : Iss) (s : State) (h : Memory.wf s.mem = true) :
    Memory.wf (descBody x s).state.mem = true := by
  unfold descBody
  grind [Act.state, Iss.checkOnce_wf, Iss.store_mem, once_wf, withHandle_wf, Iss.failAll_wf]

@[simp] theorem recallWhole_mem (s : State) (t n : Nat) :
    (State.recallWhole s t n).mem = s.mem := by
  unfold State.recallWhole
  grind [loseHandle_mem]

@[simp] theorem trimSlice_mem (s : State) (sl : Nat) :
    (State.trimSlice s sl).mem = s.mem := by
  unfold State.trimSlice
  grind [foldl_mem, recallWhole_mem]

theorem splitBody_wf (x : Iss) (s : State) (h : Memory.wf s.mem = true) :
    Memory.wf (splitBody x s).state.mem = true := by
  unfold splitBody
  grind [Act.state, foldl_mem, pruneDirs_mem, modHandle_mem, once_wf, withHandle_wf, Iss.giveAll_mem, trimSlice_mem]

/-- The state that the pages of a tile are met with. -/
def tilePagesState (r : Except Act (State × List TilePage)) : State :=
  match r with
  | .error a => a.state
  | .ok p => p.1
theorem Iss.tilePages_wf (x : Iss) (s : State) (write : Bool) (d : TileDesc) (h : Memory.wf s.mem = true) :
    Memory.wf (tilePagesState (x.tilePages s write d)).mem = true := by
  unfold Iss.tilePages
  grind [tilePagesState, Act.state, tilePages_wf, Iss.failAll_wf]

theorem askTenure_wf (x : Iss) (s : State) (t l : Nat) (h : Memory.wf s.mem = true) :
    Memory.wf (askTenure x s t l).state.mem = true := by
  unfold askTenure
  grind [tilePagesState, Act.state, Iss.tilePages_wf]

theorem acquireBody_wf (x : Iss) (s : State) (h : Memory.wf s.mem = true) :
    Memory.wf (acquireBody x s).state.mem = true := by
  unfold acquireBody
  grind [Act.state, Iss.inPlace_wf, once_wf, withHandle_wf, askTenure_wf]

@[simp] theorem splitOthers_mem (s : State) (r : DirReq) (q : TileDesc) (p : TilePage) :
    (State.splitOthers s r q p).mem = s.mem := by
  unfold State.splitOthers
  grind [foldl_mem, pruneDirs_mem, loseHandle_mem]

@[simp] theorem grantPage_mem (s : State) (r : DirReq) (p : TilePage) :
    (State.grantPage s r p).mem = s.mem := by
  unfold State.grantPage
  grind [modHandle_mem, recallWhole_mem]

@[simp] theorem dropTenure_mem (s : State) (t n : Nat) :
    (State.dropTenure s t n).mem = s.mem := by
  unfold State.dropTenure
  grind [modHandle_mem]

theorem releaseBody_wf (k : State → Nat → Nat → State) (hk : ∀ s t n, Memory.wf s.mem = true → Memory.wf (k s t n).mem = true)
    (x : Iss) (s : State) (h : Memory.wf s.mem = true) : Memory.wf (releaseBody k x s).state.mem = true :=
  once_wf _ _ x s (fun x s t l h => withHandle_wf _ _ x s t l (fun x s t l h => by
    grind [Act.state]) h) h

@[simp] theorem closeHandle_mem (s : State) (t n : Nat) :
    (State.closeHandle s t n).mem = s.mem := by
  unfold State.closeHandle
  grind [modTeam_mem, modHandle_mem, dropTenure_mem]

theorem closeBody_wf (x : Iss) (s : State) (h : Memory.wf s.mem = true) :
    Memory.wf (closeBody x s).state.mem = true := by
  unfold closeBody
  grind [Act.state, once_wf, withHandle_wf, closeHandle_mem]

@[simp] theorem modSlot_mem (s : State) (t k : Nat) (g : TileSlot → TileSlot) :
    (State.modSlot s t k g).mem = s.mem := by
  unfold State.modSlot
  grind [modTeam_mem]

theorem bindBody_wf (x : Iss) (s : State) (h : Memory.wf s.mem = true) :
    Memory.wf (bindBody x s).state.mem = true := by
  unfold bindBody
  grind [Act.state, once_wf, withHandle_wf, modSlot_mem]

theorem unbindBody_wf (x : Iss) (s : State) (h : Memory.wf s.mem = true) :
    Memory.wf (unbindBody x s).state.mem = true := by
  unfold unbindBody
  grind [Act.state, once_wf, modSlot_mem]

theorem statBody_wf (x : Iss) (s : State) (h : Memory.wf s.mem = true) :
    Memory.wf (statBody x s).state.mem = true := by
  unfold statBody
  grind [Act.state, once_wf, Iss.inTurn_wf, Iss.giveAll_mem]

theorem extBody_wf (x : Iss) (s : State) (h : Memory.wf s.mem = true) :
    Memory.wf (extBody x s).state.mem = true := by
  unfold extBody
  grind [Act.state, modThreads_mem, once_wf, withHandle_wf, Iss.giveAll_mem]

theorem probeBody_wf (x : Iss) (s : State) (h : Memory.wf s.mem = true) :
    Memory.wf (probeBody x s).state.mem = true := by
  unfold probeBody
  grind [foldl_fst_wf, foldl_fst_mem, Act.state, foldl_wf, foldl_mem, check_wf, once_wf, Iss.giveAll_mem, Iss.failAll_wf]

@[simp] theorem recallExtent_mem (s : State) (lo len : Nat) :
    (State.recallExtent s lo len).mem = s.mem := by
  unfold State.recallExtent
  grind [foldl_mem, recallWhole_mem]

/-! ### Completion counters and collectives (05, 10) -/

@[simp] theorem modCounter_mem (s : State) (core : Nat) (team : Option Nat) (n : Nat) (f : Counter → Counter) :
    (State.modCounter s core team n f).mem = s.mem := by
  unfold State.modCounter
  grind [modCore_mem, modTeam_mem]

@[simp] theorem charge_mem (s : State) (core : Nat) (team : Option Nat) (cc : Option Nat) (cmd n : Nat) :
    (State.charge s core team cc cmd n).mem = s.mem := by
  unfold State.charge
  grind [draw_mem, modCounter_mem]

@[simp] theorem discharge_mem (s : State) (core : Nat) (team : Option Nat) (cc : Option Nat) (cmd n : Nat) :
    (State.discharge s core team cc cmd n).mem = s.mem := by
  unfold State.discharge
  grind [draw_mem, modCounter_mem]

@[simp] theorem dischargeRest_mem (s : State) (core : Nat) (team : Option Nat) (cc : Option Nat) (cmd : Nat) :
    (State.dischargeRest s core team cc cmd).mem = s.mem := by
  unfold State.dischargeRest
  grind [discharge_mem]

@[simp] theorem noteErr_mem (s : State) (core : Nat) (team : Option Nat) (cc : Option Nat) (code : Nat) :
    (State.noteErr s core team cc code).mem = s.mem := by
  unfold State.noteErr
  grind [modCore_mem, modTeam_mem, modCounter_mem]

theorem uniform_wf (detail : Nat) (ops : Iss → Nat → List Nat) (k : Iss → State → Option Nat → Nat → Act) (x : Iss)
    (s : State) (hk : ∀ x s t l, Memory.wf s.mem = true → Memory.wf (k x s t l).state.mem = true)
    (h : Memory.wf s.mem = true) : Memory.wf (uniform detail ops k x s).state.mem = true := by
  unfold uniform
  grind [Act.state]

theorem fPickOp_wf (max : Bool) (x : Iss) (s : State) (h : Memory.wf s.mem = true) :
    Memory.wf (fPickOp max x s).state.mem = true := by
  unfold fPickOp
  grind [Act.state, fpOp_wf]

theorem fpEstimate_wf (f : FVal → FRes) (x : Iss) (s : State) (h : Memory.wf s.mem = true) :
    Memory.wf (fpEstimate f x s).state.mem = true := by
  unfold fpEstimate
  grind [Act.state, fpCode_wf]

theorem fpFunction_wf (f : FVal → FRes) (x : Iss) (s : State) (h : Memory.wf s.mem = true) :
    Memory.wf (fpFunction f x s).state.mem = true := by
  unfold fpFunction
  grind [Act.state, fpOp_wf]

theorem completeColl_wf (s : State) (c w : Nat) (k : Coll) (h : Memory.wf s.mem = true) :
    Memory.wf (State.completeColl s c w k).mem = true := by
  unfold State.completeColl
  grind [modWeave_mem, modThreads_mem, trapEntry_wf, Iss.keep_mem, Iss.putAll_mem]

theorem completeReady_wf (s : State) (c w n : Nat)
    (h : Memory.wf s.mem = true) : Memory.wf (s.completeReady c w n).mem = true := by
  induction n generalizing s with
  | zero => exact h
  | succ n ih =>
    unfold State.completeReady
    grind [completeColl_wf]

theorem Iss.arriveLane_mem (x : Iss) (r : State × List (Nat × Nat)) (l : Nat) : (x.arriveLane r l).1.mem = r.1.mem := by
  unfold Iss.arriveLane
  grind [hold_mem, modWeave_mem, modThread_mem]

theorem collective_wf (x : Iss) (s : State) (h : Memory.wf s.mem = true) : Memory.wf (collective x s).state.mem = true := by
  have hr : (x.ex.foldl x.arriveLane (x.unrun s x.ex, [])).1.mem = s.mem :=
    (foldl_fst_mem _ (fun r l => Iss.arriveLane_mem x r l) _ _).trans (Iss.unrun_mem x s _)
  unfold collective
  grind [Act.state, completeReady_wf]

/-! ### Bodies: the arrays (09) -/

@[simp] theorem modConv_mem (s : State) (t k : Nat) (f : Conv → Conv) :
    (State.modConv s t k f).mem = s.mem := by
  unfold State.modConv
  grind [modTeam_mem]

theorem Iss.enqueue_wf (x : Iss) (s : State) (t : Nat) (c : MatCmd) (h : Memory.wf s.mem = true) :
    Memory.wf (Iss.enqueue x s t c).state.mem = true := by
  unfold Iss.enqueue
  grind [Act.state, modTeam_mem, charge_mem]

theorem matPlain_wf (x : Iss) (s : State) (h : Memory.wf s.mem = true) :
    Memory.wf (matPlain x s).state.mem = true := by
  unfold matPlain
  grind [Act.state, uniform_wf, Iss.enqueue_wf]

theorem matRows_wf (norm : Bool) (x : Iss) (s : State) (h : Memory.wf s.mem = true) :
    Memory.wf (matRows norm x s).state.mem = true := by
  unfold matRows
  grind [Act.state, uniform_wf, Iss.enqueue_wf]

theorem checkRange_wf (s : State) (a : Agent) (acc : Acc) (va len : Nat) (h : Memory.wf s.mem = true) :
    Memory.wf (State.checkRange s a acc va len).1.mem = true := by
  unfold State.checkRange
  grind [checkList_wf]

theorem matLoadMem_wf (x : Iss) (s : State) (h : Memory.wf s.mem = true) :
    Memory.wf (matLoadMem x s).state.mem = true := by
  unfold matLoadMem
  grind [Act.state, Iss.failAll_wf, uniform_wf, Iss.enqueue_wf, checkRange_wf]

theorem cvinitBody_wf (x : Iss) (s : State) (h : Memory.wf s.mem = true) :
    Memory.wf (cvinitBody x s).state.mem = true := by
  unfold cvinitBody
  grind [Act.state, modConv_mem]

@[simp] theorem settleSigns_mem (s : State) (core : Nat) :
    (State.settleSigns s core).mem = s.mem := by
  unfold State.settleSigns
  grind [foldl_mem, modCore_mem, modTeam_mem]

theorem msignBody_wf (x : Iss) (s : State) (h : Memory.wf s.mem = true) :
    Memory.wf (msignBody x s).state.mem = true := by
  unfold msignBody
  grind [Act.state, modCore_mem, settleSigns_mem]

theorem mwaitBody_wf (x : Iss) (s : State) (h : Memory.wf s.mem = true) :
    Memory.wf (mwaitBody x s).state.mem = true := by
  unfold mwaitBody
  grind [Act.state, Iss.eachMarked_wf]

theorem accLanes_wf (wr : Bool) (k : Iss → State → State) (x : Iss) (s : State)
    (hk : ∀ x s, Memory.wf s.mem = true → Memory.wf (k x s).mem = true) (h : Memory.wf s.mem = true) :
    Memory.wf (accLanes wr k x s).state.mem = true := by
  unfold accLanes
  grind [Act.state, Iss.eachMarked_wf]

theorem acclrBody_wf (x : Iss) (s : State) (h : Memory.wf s.mem = true) :
    Memory.wf (acclrBody x s).state.mem = true := by
  unfold acclrBody
  grind [Act.state, modCore_mem, Iss.eachMarked_wf, uniform_wf]

@[simp] theorem endMat_mem (s : State) (core t idx err : Nat) :
    (State.endMat s core t idx err).mem = s.mem := by
  unfold State.endMat
  grind [modCore_mem, modTeam_mem, modSlot_mem, dischargeRest_mem, modConv_mem]

@[simp] theorem arrayFault_mem (s : State) (core t idx : Nat) (c : MatCmd) (va : Nat) (k : Chk) :
    (State.arrayFault s core t idx c va k).mem = s.mem := by
  unfold State.arrayFault
  grind [modCore_mem, modTeam_mem, hearRefusal_mem]

/-! ### Bodies: the copy engines (10) -/

theorem engineBytes_wf (s : State) (a : Agent) (va n : Nat) (h : Memory.wf s.mem = true) :
    Memory.wf (State.engineBytes s a va n).1.mem = true := by
  unfold State.engineBytes
  grind [foldl_fst_wf, foldl_fst_mem, foldl_wf, foldl_mem, checkList_wf]

theorem readPlaces_wf (s : State) (team : Option Nat) (ls : List Loc) (h : Memory.wf s.mem = true) :
    Memory.wf (State.readPlaces s team ls).mem = true := by
  unfold State.readPlaces
  grind [foldl_wf, foldl_mem, touch_wf, recallSpan_mem]

@[simp] theorem finishLoad_mem (s : State) (core t idx : Nat) (c : MatCmd) (bytes : List Byte) :
    (State.finishLoad s core t idx c bytes).mem = s.mem := by
  unfold State.finishLoad
  grind [modCore_mem, endMat_mem]

theorem Iss.post_wf (x : Iss) (s : State) (c : EngCmd) (h : Memory.wf s.mem = true) :
    Memory.wf (Iss.post x s c).state.mem = true := by
  unfold Iss.post
  grind [Act.state, modCore_mem, charge_mem]

theorem prot_wf (x : Iss) (s : State) (d : Nat) (h : Memory.wf s.mem = true) :
    Memory.wf (prot x s d).state.mem = true := by
  unfold prot
  grind [Act.state]

theorem cpyBody_wf (x : Iss) (s : State) (h : Memory.wf s.mem = true) :
    Memory.wf (cpyBody x s).state.mem = true := by
  unfold cpyBody
  grind [Act.state, uniform_wf, Iss.post_wf, prot_wf]

theorem fillBody_wf (x : Iss) (s : State) (h : Memory.wf s.mem = true) :
    Memory.wf (fillBody x s).state.mem = true := by
  unfold fillBody
  grind [Act.state, uniform_wf, Iss.post_wf, prot_wf]

theorem Iss.postFill_wf (x : Iss) (s : State) (t off : Nat) (c : EngCmd) (h : Memory.wf s.mem = true) :
    Memory.wf (Iss.postFill x s t off c).state.mem = true := by
  unfold Iss.postFill
  grind [Act.state, modSlot_mem, Iss.post_wf, prot_wf]

theorem cptsBody_wf (x : Iss) (s : State) (h : Memory.wf s.mem = true) :
    Memory.wf (cptsBody x s).state.mem = true := by
  unfold cptsBody
  grind [Act.state, uniform_wf, prot_wf, Iss.postFill_wf]

theorem cpfsBody_wf (x : Iss) (s : State) (h : Memory.wf s.mem = true) :
    Memory.wf (cpfsBody x s).state.mem = true := by
  unfold cpfsBody
  grind [Act.state, modSlot_mem, uniform_wf, Iss.post_wf, prot_wf]

theorem accCopy_wf (kind : EngKind) (x : Iss) (s : State) (h : Memory.wf s.mem = true) :
    Memory.wf (accCopy kind x s).state.mem = true := by
  unfold accCopy
  grind [Act.state, uniform_wf, Iss.post_wf, prot_wf]

theorem withGather_wf (k : Iss → State → Nat → Gather → Act) (x : Iss) (s : State) (l : Nat)
    (hk : ∀ x s l g, Memory.wf s.mem = true → Memory.wf (k x s l g).state.mem = true) (h : Memory.wf s.mem = true) :
    Memory.wf (withGather k x s l).state.mem = true := by
  unfold withGather
  grind [Act.state, Iss.checkOnce_wf, prepLoad_wf, prot_wf, Iss.failAll_wf]

theorem gcpBody_wf (x : Iss) (s : State) (h : Memory.wf s.mem = true) :
    Memory.wf (gcpBody x s).state.mem = true := by
  unfold gcpBody
  grind [Act.state, uniform_wf, Iss.post_wf, prot_wf, withGather_wf]

theorem gcptsBody_wf (x : Iss) (s : State) (h : Memory.wf s.mem = true) :
    Memory.wf (gcptsBody x s).state.mem = true := by
  unfold gcptsBody
  grind [Act.state, uniform_wf, Iss.postFill_wf, withGather_wf]

theorem cacheCopy_wf (kind : EngKind) (x : Iss) (s : State) (h : Memory.wf s.mem = true) :
    Memory.wf (cacheCopy kind x s).state.mem = true := by
  unfold cacheCopy
  grind [Act.state, uniform_wf, Iss.post_wf, prot_wf]

theorem waitltBody_wf (x : Iss) (s : State) (h : Memory.wf s.mem = true) :
    Memory.wf (waitltBody x s).state.mem = true := by
  unfold waitltBody
  grind [Act.state]

theorem engineCheck_wf (s : State) (a : Agent) (acc : Acc) (vs : List Nat) (h : Memory.wf s.mem = true) :
    Memory.wf (s.engineCheck a acc vs).1.mem = true := by
  induction vs generalizing s with
  | nil => exact h
  | cons v t ih =>
    unfold State.engineCheck
    grind [check_wf]

theorem engineRead_wf (s : State) (a : Agent) (vs : List Nat) (h : Memory.wf s.mem = true) :
    Memory.wf (State.engineRead s a vs).1.mem = true := by
  unfold State.engineRead
  grind [readPlaces_wf, engineCheck_wf]

theorem unitSource_wf (s : State) (core : Nat) (c : EngCmd) (u : Nat) (h : Memory.wf s.mem = true) :
    Memory.wf (s.unitSource core c u).1.mem = true := by
  unfold State.unitSource
  split
  case h_1 | h_2 | h_3 => exact engineRead_wf _ _ _ h
  case h_4 | h_5 | h_6 => exact h
  case h_7 => grind [touchAll_wf, foldl_mem, snoop_mem]
  case h_8 =>
    split
    · exact h
    · dsimp only
      split
      · rename_i v bs hv
        have hm : Memory.wf v.mem = true :=
          (congrArg (fun r => Memory.wf r.1.mem) hv).symm.trans (engineRead_wf _ _ _ h)
        split
        · exact hm
        split
        · exact hm
        · exact engineRead_wf _ _ _ hm
      · exact engineRead_wf _ _ _ h

@[simp] theorem modCmd_mem (s : State) (core id : Nat) (f : EngCmd → EngCmd) :
    (State.modCmd s core id f).mem = s.mem := rfl

@[simp] theorem movedRecords_mem (s : State) (src dst len : Nat) :
    (State.movedRecords s src dst len).1.mem = s.mem := by
  unfold State.movedRecords
  grind

@[simp] theorem moveRecords_mem (s : State) (src dst len : Nat) :
    (State.moveRecords s src dst len).mem = s.mem := by
  unfold State.moveRecords
  grind [foldl_fst_mem, foldl_mem, trimSlice_mem, movedRecords_mem]

theorem wipe_wf (s : State) (dst n : Nat) (h : Memory.wf s.mem = true) :
    Memory.wf (State.wipe s dst n).mem = true := by
  unfold State.wipe
  grind [foldl_wf, foldl_mem, markPoison_mem, writeAt_wf]

theorem endCmd_wf (s : State) (core : Nat) (c : EngCmd) (code : Nat) (h : Memory.wf s.mem = true) :
    Memory.wf (State.endCmd s core c code).mem = true := by
  unfold State.endCmd
  grind [foldl_wf, foldl_mem, modCore_mem, modSlot_mem, dischargeRest_mem, noteErr_mem, moveRecords_mem, wipe_wf]

@[simp] theorem parkUnit_mem (s : State) (core : Nat) (c : EngCmd) (u : Nat) (wr : Bool) (va cause d lv lid : Nat) :
    (State.parkUnit s core c u wr va cause d lv lid).mem = s.mem := by
  unfold State.parkUnit
  grind [modCore_mem, hearRefusal_mem, modCmd_mem]

@[simp] theorem askUnit_mem (s : State) (core : Nat) (c : EngCmd) (u : Nat) :
    (State.askUnit s core c u).mem = s.mem := by
  unfold State.askUnit
  grind [modCmd_mem]

theorem unitFails_wf (s : State) (core : Nat) (c : EngCmd) (u : Nat) (wr : Bool) (va : Nat) (k : Chk)
    (h : Memory.wf s.mem = true) :
    Memory.wf (State.unitFails s core c u wr va k).mem = true := by
  unfold State.unitFails
  grind [afterHolds_wf, endCmd_wf, parkUnit_mem]

theorem engineByte_wf (s : State) (l : Loc) (b : Byte × Bool) (h : Memory.wf s.mem = true) :
    Memory.wf (State.engineByte s l b).mem = true := by
  unfold State.engineByte
  grind [touch_wf, putByte_wf, markPoison_mem]

theorem engineWrite_wf (s : State) (team : Option Nat) (ps : List (Option Loc)) (bs : List (Byte × Bool))
    (h : Memory.wf s.mem = true) :
    Memory.wf (State.engineWrite s team ps bs).mem = true := by
  unfold State.engineWrite
  grind [foldl_wf, foldl_mem, conflicts_mem, noteWrite_mem, recallSpan_mem, engineByte_wf]

theorem closeCmd_wf (s : State) (core id : Nat) (h : Memory.wf s.mem = true) :
    Memory.wf (State.closeCmd s core id).mem = true := by
  unfold State.closeCmd
  grind [endCmd_wf]

theorem unitDone_wf (s : State) (core : Nat) (c : EngCmd) (u : Nat) (h : Memory.wf s.mem = true) :
    Memory.wf (State.unitDone s core c u).mem = true := by
  unfold State.unitDone
  grind [modCore_mem, discharge_mem, modCmd_mem, closeCmd_wf]

theorem bringLines_wf (s : State) (rs : List (Nat × Nat)) (h : Memory.wf s.mem = true) :
    Memory.wf (State.bringLines s rs).mem = true := by
  unfold State.bringLines
  grind [foldl_wf, foldl_mem, lcEnter_wf]

theorem writeBackLines_wf (s : State) (rs : List (Nat × Nat)) (h : Memory.wf s.mem = true) :
    Memory.wf (State.writeBackLines s rs).mem = true := by
  unfold State.writeBackLines
  grind [foldl_wf, foldl_mem, lcFlush_wf]

theorem onSlot_wf (k : Iss → State → Nat → TileSlot → Act) (x : Iss) (s : State)
    (hk : ∀ x s t q, Memory.wf s.mem = true → Memory.wf (k x s t q).state.mem = true) (h : Memory.wf s.mem = true) :
    Memory.wf (onSlot k x s).state.mem = true := by
  unfold onSlot
  grind [Act.state]

/-! ### Bodies: refinement blocks (11) -/

theorem Iss.queueBlock_wf (x : Iss) (s : State) (t : Nat) (b : RefBlock) (h : Memory.wf s.mem = true) :
    Memory.wf (Iss.queueBlock x s t b).state.mem = true := by
  unfold Iss.queueBlock
  grind [Act.state, modDie_mem, charge_mem]

theorem refineBody_wf (kind : Nat) (x : Iss) (s : State) (h : Memory.wf s.mem = true) :
    Memory.wf (refineBody kind x s).state.mem = true := by
  unfold refineBody
  grind [Act.state, Iss.checkOnce_wf, prepLoad_wf, Iss.failAll_wf, uniform_wf, prot_wf, Iss.queueBlock_wf]

@[simp] theorem modBlock_mem (s : State) (id : Nat) (f : RefBlock → RefBlock) :
    (State.modBlock s id f).mem = s.mem := rfl

@[simp] theorem blockFault_mem (s : State) (b : RefBlock) (wr : Bool) (va : Nat) (k : Chk) :
    (State.blockFault s b wr va k).mem = s.mem := by
  unfold State.blockFault
  grind [modCore_mem, hearRefusal_mem, modBlock_mem]

@[simp] theorem askBlock_mem (s : State) (b : RefBlock) :
    (State.askBlock s b).mem = s.mem := by
  unfold State.askBlock
  grind [modBlock_mem]

@[simp] theorem blockMeets_mem (s : State) (b : RefBlock) (wr : Bool) (va : Nat) (k : Chk) :
    (State.blockMeets s b wr va k).mem = s.mem := by
  unfold State.blockMeets
  grind [modBlock_mem, blockFault_mem, askBlock_mem]

theorem withBytes_wf (s : State) (b : RefBlock) (n : Nat) (as : List Nat) (k : State → RefBlock → List Byte → State)
    (hk : ∀ s b bs, Memory.wf s.mem = true → Memory.wf (k s b bs).mem = true) (h : Memory.wf s.mem = true) :
    Memory.wf (s.withBytes b n as k).mem = true := by
  unfold State.withBytes
  grind [engineRead_wf, modBlock_mem, blockMeets_mem]

theorem putItem_wf (s : State) (b : RefBlock) (f : RefBlock → RefBlock) (h : Memory.wf s.mem = true) :
    Memory.wf (State.putItem s b f).mem = true := by
  unfold State.putItem
  grind [waitLines_mem, engineCheck_wf, engineWrite_wf, modBlock_mem, blockMeets_mem]

theorem withValues_wf (s : State) (b : RefBlock) (as : List Nat) (f : List FVal → RefBlock → RefBlock)
    (h : Memory.wf s.mem = true) : Memory.wf (s.withValues b as f).mem = true :=
  withBytes_wf s b 1 _ _ (fun s b _ h => putItem_wf s b _ h) h

theorem refineItem_wf (s : State) (b : RefBlock) (h : Memory.wf s.mem = true) : Memory.wf (s.refineItem b).mem = true := by
  refine withBytes_wf s b 0 _ _ (fun s b _ h => ?_) h
  cases b.pos <;> grind [withValues_wf, putItem_wf]

/-- The state that the end of a write leaves. -/
def endWriteState (r : Except State (State × Option Nat)) : State :=
  match r with
  | .error s => s
  | .ok p => p.1
theorem endWrite_wf (s : State) (b : RefBlock) (whole : Bool) (as : List Nat) (bs : List Byte) (h : Memory.wf s.mem = true) :
    Memory.wf (endWriteState (s.endWrite b whole as bs)).mem = true := by
  have hc := engineCheck_wf s (s.teamAgent b.core b.ctx (some b.team)) (engineAcc true) as h
  unfold State.endWrite
  grind [endWriteState, waitLines_mem, engineWrite_wf, blockMeets_mem]

@[simp] theorem endBlock_mem (s : State) (b : RefBlock) :
    (State.endBlock s b).mem = s.mem := by
  unfold State.endBlock
  grind [modDie_mem, dischargeRest_mem]

theorem endStage_wf (s : State) (b : RefBlock) (bad : Option Nat) (h : Memory.wf s.mem = true) :
    Memory.wf (State.endStage s b bad).mem = true := by
  unfold State.endStage
  grind [endWriteState, modBlock_mem, endWrite_wf, endBlock_mem]

/-! ### Scheduling, tickets and queues (12) -/

theorem fwLoad_wf (s : State) (ctx va n : Nat) (asked : Option (Nat × Nat)) (h : Memory.wf s.mem = true) :
    Memory.wf (State.fwLoad s ctx va n asked).1.mem = true := by
  unfold State.fwLoad
  grind [waitLines_mem, touchAll_wf, markLeaf_wf, snoop_mem]

@[simp] theorem modGangTeam_mem (s : State) (t : Nat) (f : GangTeam → GangTeam) :
    (State.modGangTeam s t f).mem = s.mem := rfl

@[simp] theorem recharge_mem (s : State) :
    (State.recharge s).mem = s.mem := rfl

@[simp] theorem takeSlice_mem (s : State) (ctx : Nat) :
    (State.takeSlice s ctx).mem = s.mem := rfl

theorem preloadThread_wf (s : State) (ctx base i : Nat) (asked : Option (Nat × Nat)) (ps : List Preload) (m : Tab RegCell)
    (h : Memory.wf s.mem = true) : Memory.wf (s.preloadThread ctx base i asked ps m).1.mem = true := by
  induction ps generalizing s m with
  | nil => exact h
  | cons p t ih =>
    unfold State.preloadThread
    grind [fwLoad_wf]

theorem preloadAll_wf (s : State) (ctx base : Nat) (asked : Option (Nat × Nat)) (ps : List Preload) (n : Nat)
    (h : Memory.wf s.mem = true) : Memory.wf (s.preloadAll ctx base asked ps n).1.mem = true := by
  induction n with
  | zero => exact h
  | succ n ih =>
    unfold State.preloadAll
    grind [preloadThread_wf]

theorem loseLaunch_wf (s : State) (id : Nat) (h : Memory.wf s.mem = true) :
    Memory.wf (State.loseLaunch s id).mem = true := by
  unfold State.loseLaunch
  grind [endLaunch_wf, flushLaunch_wf]

theorem placeGangTeam_wf (s : State) (g : Gang) (i : Nat) (e : GangTeam) (h : Memory.wf s.mem = true) :
    Memory.wf (State.placeGangTeam s g i e).1.mem = true := by
  unfold State.placeGangTeam
  grind [modCore_mem, modGang_mem, setTicketState_wf, modGangTeam_mem, recharge_mem, takeSlice_mem, preloadAll_wf,
    loseLaunch_wf]

theorem writeArea_wf (s : State) (v : SavedTeam) (h : Memory.wf s.mem = true) :
    Memory.wf (State.writeArea s v).mem = true := by
  unfold State.writeArea
  grind [writeAt_wf]

@[simp] theorem waitBacks_mem (s : State) (c : Nat) (x : Team) :
    (State.waitBacks s c x).mem = s.mem := by
  unfold State.waitBacks
  grind [waitBackLines_mem]

@[simp] theorem rollTeam_mem (s : State) (c : Nat) (x : Team) :
    (State.rollTeam s c x).mem = s.mem := by
  unfold State.rollTeam
  grind [foldl_mem, rollWeave_mem]

@[simp] theorem stopTeam_mem (s : State) (c : Nat) (x : Team) :
    (State.stopTeam s c x).mem = s.mem := by
  unfold State.stopTeam
  grind [foldl_mem, modWeave_mem, modTeam_mem, rollTeam_mem]

theorem saveTeam_wf (s : State) (t : Nat) (h : Memory.wf s.mem = true) :
    Memory.wf (State.saveTeam s t).mem = true := by
  unfold State.saveTeam
  grind [foldl_wf, foldl_mem, spadClear_wf, setTicketState_wf, removeTeam_mem, modGangTeam_mem, writeArea_wf]

theorem carrySave_wf (s : State) (c : Nat) (x : Team) (h : Memory.wf s.mem = true) :
    Memory.wf (State.carrySave s c x).mem = true := by
  unfold State.carrySave
  grind [waitBacks_mem, rollTeam_mem, saveTeam_wf]

theorem remap_wf (s : State) (core t e : Nat) (m : MapEnt) (h : Memory.wf s.mem = true) :
    Memory.wf (State.remap s core t e m).mem = true := by
  unfold State.remap
  grind [rangeSegs_wf, mapEntry_mem]

@[simp] theorem reacquire_mem (s : State) (core t n : Nat) (r : Handle) :
    (State.reacquire s core t n r).mem = s.mem := by
  unfold State.reacquire
  grind [modHandle_mem]

theorem restoreTeam_wf (s : State) (core : Nat) (v : SavedTeam) (h : Memory.wf s.mem = true) :
    Memory.wf (State.restoreTeam s core v).mem = true := by
  unfold State.restoreTeam
  grind [foldl_wf, foldl_mem, modCore_mem, modDie_mem, takeSlice_mem, remap_wf, reacquire_mem]

theorem resumeTeam_wf (s : State) (t ticket : Nat) (on : Bool) (h : Memory.wf s.mem = true) :
    Memory.wf (State.resumeTeam s t ticket on).mem = true := by
  unfold State.resumeTeam
  grind [modTeam_mem, setTicketState_wf, recharge_mem]

theorem setTicketCore_wf (s : State) (addr c : Nat) (h : Memory.wf s.mem = true) :
    Memory.wf (State.setTicketCore s addr c).mem = true := by
  unfold State.setTicketCore
  grind [writePhys_wf]

theorem flushTeam_wf (s : State) (t ticket : Nat) (relaunch : Bool) (h : Memory.wf s.mem = true) :
    Memory.wf (State.flushTeam s t ticket relaunch).mem = true := by
  unfold State.flushTeam
  grind [setTicketState_wf, dropTeam_wf, dropClaim_mem, modGangTeam_mem, setTicketCore_wf]

theorem settleGang_wf (s : State) (id : Nat) (h : Memory.wf s.mem = true) :
    Memory.wf (State.settleGang s id).mem = true := by
  unfold State.settleGang
  grind [modLaunch_mem, journal_mem, endLaunch_wf, flushLaunch_wf]

theorem completeTeam_wf (s : State) (t : Nat) (h : Memory.wf s.mem = true) :
    Memory.wf (State.completeTeam s t).mem = true := by
  unfold State.completeTeam
  grind [dropTeam_wf, modGangTeam_mem]

theorem tkcSet_wf (s : State) (p n v : Nat) (h : Memory.wf s.mem = true) :
    Memory.wf (State.tkcSet s p n v).mem = true := by
  unfold State.tkcSet
  grind [writePhys_wf]

theorem readPreloads_wf (s : State) (ctx va regs : Nat) (asked : Option (Nat × Nat)) (n i : Nat) (h : Memory.wf s.mem = true) :
    Memory.wf (s.readPreloads ctx va regs asked n i).1.mem = true := by
  induction n generalizing s i with
  | zero => exact h
  | succ n ih =>
    unfold State.readPreloads
    grind [fwLoad_wf]

theorem readBufs_wf (s : State) (ctx va : Nat) (asked : Option (Nat × Nat)) (n i : Nat) (h : Memory.wf s.mem = true) :
    Memory.wf (s.readBufs ctx va asked n i).1.mem = true := by
  induction n generalizing s i with
  | zero => exact h
  | succ n ih =>
    unfold State.readBufs
    grind [fwLoad_wf]

theorem readPacket_wf (s : State) (q : Nat) (ws : List DWord) (h : Memory.wf s.mem = true) :
    Memory.wf (State.readPacket s q ws).1.mem = true := by
  unfold State.readPacket
  grind [fwLoad_wf, readPreloads_wf, readBufs_wf]

@[simp] theorem enterLaunch_mem (s : State) (q ring : Nat) (l : Launch) :
    (State.enterLaunch s q ring l).mem = s.mem := by
  unfold State.enterLaunch
  grind [journal_mem, pushLaunch_mem]

theorem takePacket_wf (s : State) (q ring : Nat) (h : Memory.wf s.mem = true) :
    Memory.wf (State.takePacket s q ring).1.mem = true := by
  unfold State.takePacket
  dsimp only
  grind [modQueue_mem, endLaunch_wf, readPacket_wf, enterLaunch_mem]

theorem takePackets_wf (s : State) (q n i : Nat) (h : Memory.wf s.mem = true) :
    Memory.wf (s.takePackets q n i).1.mem = true := by
  induction n generalizing s i with
  | zero => exact h
  | succ n ih =>
    unfold State.takePackets
    grind [takePacket_wf, modQueue_mem]

theorem intake_wf (s : State) (q : Nat) (h : Memory.wf s.mem = true) :
    Memory.wf (State.intake s q).mem = true := by
  unfold State.intake
  grind [modQueue_mem, takePackets_wf]

@[simp] theorem failWindow_mem (s : State) (l : Launch) (win : List Nat) :
    (State.failWindow s l win).mem = s.mem := by
  unfold State.failWindow
  grind [foldl_mem, journal_mem]

theorem writeTicket_wf (s : State) (a packet gtkt team core ctx gang save : Nat) (h : Memory.wf s.mem = true) :
    Memory.wf (State.writeTicket s a packet gtkt team core ctx gang save).mem = true := by
  unfold State.writeTicket
  grind [foldl_wf, foldl_mem, writePhys_wf]

theorem commitGang_wf (s : State) (l : Launch) (p : Nat) (win : List Nat) (h : Memory.wf s.mem = true) :
    Memory.wf (State.commitGang s l p win).mem = true := by
  unfold State.commitGang
  grind [foldl_fst_wf, foldl_fst_mem, foldl_wf, foldl_mem, modLaunch_mem, draw_mem, journal_mem, wakeAgent_mem,
    tkcSet_wf, writeTicket_wf]

@[simp] theorem serve_mem (s : State) (l : Launch) :
    (State.serve s l).mem = s.mem := by
  unfold State.serve
  grind

@[simp] theorem failHead_mem (s : State) (l : Launch) :
    (State.failHead s l).mem = s.mem := by
  unfold State.failHead
  grind [foldl_mem, failWindow_mem]

@[simp] theorem ageHead_mem (s : State) :
    (State.ageHead s).mem = s.mem := by
  unfold State.ageHead
  grind [recharge_mem, serve_mem, failHead_mem]

@[simp] theorem requestPreempt_mem (s : State) (t : Nat) (urgent : Bool) :
    (State.requestPreempt s t urgent).mem = s.mem := by
  unfold State.requestPreempt
  grind [modTeam_mem, endPauses_mem, wakeAgent_mem]

@[simp] theorem preemptFor_mem (s : State) (r : Launch) :
    (State.preemptFor s r).mem = s.mem := by
  unfold State.preemptFor
  grind [foldl_mem, requestPreempt_mem]

@[simp] theorem openLaunch_mem (s : State) (l : Launch) :
    (State.openLaunch s l).mem = s.mem := by
  unfold State.openLaunch
  grind [dropHolds_mem]

theorem notifyQueue_wf (s : State) (queue : Nat) (h : Memory.wf s.mem = true) :
    Memory.wf (State.notifyQueue s queue).mem = true := by
  unfold State.notifyQueue
  grind [beat_mem, intake_wf]

theorem orKept_wf (s : State) (i : Kept) (t : State) (h : Memory.wf s.mem = true) (h1 : Memory.wf t.mem = true) :
    Memory.wf (s.orKept i t).mem = true := by
  unfold State.orKept
  grind [afterHolds_wf]

@[simp] theorem writeDescriptor_mem (s : State) (queue word : Nat) (value : DWord) :
    (State.writeDescriptor s queue word value).mem = s.mem := by
  unfold State.writeDescriptor
  grind [modQueue_mem]

@[simp] theorem activateQueue_mem (s : State) (queue : Nat) :
    (State.activateQueue s queue).mem = s.mem := by
  unfold State.activateQueue
  grind [modQueue_mem]

theorem settleCancel_wf (s : State) (id : Nat) (h : Memory.wf s.mem = true) :
    Memory.wf (State.settleCancel s id).mem = true := by
  unfold State.settleCancel
  grind [endLaunch_wf]

theorem cancelLaunch_wf (s : State) (id : Nat) (h : Memory.wf s.mem = true) :
    Memory.wf (State.cancelLaunch s id).mem = true := by
  unfold State.cancelLaunch
  grind [foldl_wf, foldl_mem, modTeam_mem, modLaunch_mem, endPauses_mem, wakeAgent_mem, flushTeam_wf, settleGang_wf,
    settleCancel_wf]

@[simp] theorem takeBare_mem (s : State) (q : Nat) :
    (State.takeBare s q).mem = s.mem := by
  unfold State.takeBare
  grind [foldl_mem, modQueue_mem, enterLaunch_mem]

theorem destroyQueue_wf (s : State) (queue : Nat) (h : Memory.wf s.mem = true) :
    Memory.wf (State.destroyQueue s queue).mem = true := by
  unfold State.destroyQueue
  grind [foldl_wf, foldl_mem, modQueue_mem, intake_wf, cancelLaunch_wf, takeBare_mem]

@[simp] theorem writePartmap_mem (s : State) (idx : Nat) (value : DWord) :
    (State.writePartmap s idx value).mem = s.mem := by
  unfold State.writePartmap
  grind [foldl_mem]

@[simp] theorem endSlice_mem (s : State) (c : Nat) (x : Team) :
    (State.endSlice s c x).mem = s.mem := by
  unfold State.endSlice
  grind [modTeam_mem, modContext_mem, wakeAgent_mem]

@[simp] theorem beginDrain_mem (s : State) (c : Nat) (x : Team) :
    (State.beginDrain s c x).mem = s.mem := by
  unfold State.beginDrain
  grind [foldl_mem, modWeave_mem, modTeam_mem]

theorem flushStage_wf (s : State) (c : Nat) (x : Team) (relaunch : Bool) (h : Memory.wf s.mem = true) :
    Memory.wf (State.flushStage s c x relaunch).mem = true := by
  unfold State.flushStage
  grind [waitBacks_mem, flushTeam_wf]

theorem preemptStage_wf (s : State) (c : Nat) (x : Team) (h : Memory.wf s.mem = true) :
    Memory.wf (State.preemptStage s c x).mem = true := by
  unfold State.preemptStage
  grind [modTeam_mem, stopTeam_mem, carrySave_wf, settleGang_wf, endSlice_mem, beginDrain_mem, flushStage_wf]

/-! ### Faults, special registers and trap returns (12) -/

@[simp] theorem nextFlt_mem (s : State) (c : Nat) :
    (State.nextFlt s c).mem = s.mem := rfl

@[simp] theorem nextEflt_mem (s : State) (c : Nat) :
    (State.nextEflt s c).mem = s.mem := rfl

@[simp] theorem fltAck_mem (s : State) (c v : Nat) :
    (State.fltAck s c v).mem = s.mem := by
  unfold State.fltAck
  grind [modCore_mem]

theorem efltAck_wf (s : State) (c v : Nat) (h : Memory.wf s.mem = true) :
    Memory.wf (State.efltAck s c v).mem = true := by
  unfold State.efltAck
  grind [modCore_mem, modTeam_mem, modDie_mem, modCmd_mem, endCmd_wf]

@[simp] theorem sregStore_mem (s : State) (c w n v : Nat) :
    (State.sregStore s c w n v).mem = s.mem := by
  unfold State.sregStore
  grind [modCore_mem, modWeave_mem, modTeam_mem, modContext_mem]

theorem mfsBody_wf (x : Iss) (s : State) (h : Memory.wf s.mem = true) :
    Memory.wf (mfsBody x s).state.mem = true := by
  unfold mfsBody
  split <;> grind [Act.state, foldl_mem, modThreads_mem, defer_mem, Iss.giveAll_mem, nextFlt_mem, nextEflt_mem]

theorem mtsBody_wf (ack : Bool) (f : Nat → Nat → Nat) (x : Iss) (s : State) (h : Memory.wf s.mem = true) :
    Memory.wf (mtsBody ack f x s).state.mem = true := by
  unfold mtsBody
  split <;> grind [Act.state, modWeave_mem, modThreads_mem, fltAck_mem, efltAck_wf, sregStore_mem]

theorem tretBody_wf (x : Iss) (s : State) (h : Memory.wf s.mem = true) :
    Memory.wf (tretBody x s).state.mem = true := by
  unfold tretBody
  split <;> grind [Act.state, modWeave_mem, fetchOn_wf, holdFetch_mem]

theorem maskBody_wf (m : Bool) (x : Iss) (s : State) (h : Memory.wf s.mem = true) :
    Memory.wf (maskBody m x s).state.mem = true := by
  unfold maskBody
  split <;> grind [Act.state, modWeave_mem]

theorem abort_wf (s : State) (t code : Nat) (h : Memory.wf s.mem = true) :
    Memory.wf (State.abort s t code).mem = true := by
  unfold State.abort
  grind [endLaunch_wf, flushLaunch_wf]

theorem tabortBody_wf (x : Iss) (s : State) (h : Memory.wf s.mem = true) :
    Memory.wf (tabortBody x s).state.mem = true := by
  unfold tabortBody
  split <;> grind [Act.state, Iss.held_wf, abort_wf]

/-! ### Bodies: the firmware of the teams (12) -/

theorem onTicket_wf (ok : List Nat) (k : Iss → State → Nat → Gang × Nat × GangTeam → Act) (x : Iss) (s : State)
    (hk : ∀ x s a e, Memory.wf s.mem = true → Memory.wf (k x s a e).state.mem = true) (h : Memory.wf s.mem = true) :
    Memory.wf (onTicket ok k x s).state.mem = true := by
  refine uniform_wf _ _ _ x s (fun x s t l h => ?_) h
  grind [Act.state, Iss.inPlace_wf, Iss.held_wf]

@[simp] theorem unclaim_mem (s : State) (c a : Nat) :
    (State.unclaim s c a).mem = s.mem := rfl

theorem placeBody_wf (x : Iss) (s : State) (h : Memory.wf s.mem = true) :
    Memory.wf (placeBody x s).state.mem = true := by
  unfold placeBody
  dsimp only
  grind [Act.state, placeGangTeam_wf, onTicket_wf, unclaim_mem]

theorem saveBody_wf (x : Iss) (s : State) (h : Memory.wf s.mem = true) :
    Memory.wf (saveBody x s).state.mem = true := by
  unfold saveBody
  dsimp only
  grind [Act.state, modTeam_mem, endPauses_mem, stopTeam_mem, carrySave_wf, onTicket_wf]

theorem restBody_wf (x : Iss) (s : State) (h : Memory.wf s.mem = true) :
    Memory.wf (restBody x s).state.mem = true := by
  unfold restBody
  dsimp only
  grind [Act.state, contextKill_wf, restoreTeam_wf, resumeTeam_wf, onTicket_wf, unclaim_mem]

theorem flushBody_wf (relaunch : Bool) (x : Iss) (s : State) (h : Memory.wf s.mem = true) :
    Memory.wf (flushBody relaunch x s).state.mem = true := by
  unfold flushBody
  dsimp only
  grind [Act.state, waitBacks_mem, flushTeam_wf, settleGang_wf, onTicket_wf]

theorem doneBody_wf (x : Iss) (s : State) (h : Memory.wf s.mem = true) :
    Memory.wf (doneBody x s).state.mem = true := by
  unfold doneBody
  dsimp only
  grind [Act.state, setTicketState_wf, modGangTeam_mem, settleGang_wf, onTicket_wf]

theorem claimBody_wf (x : Iss) (s : State) (h : Memory.wf s.mem = true) :
    Memory.wf (claimBody x s).state.mem = true := by
  unfold claimBody
  dsimp only
  grind [Act.state, modCore_mem, setTicketState_wf, Iss.held_wf, Iss.giveAll_mem, uniform_wf]

theorem idleBody_wf (x : Iss) (s : State) (h : Memory.wf s.mem = true) :
    Memory.wf (idleBody x s).state.mem = true := by
  unfold idleBody
  dsimp only
  grind [Act.state, modCore_mem, Iss.giveAll_mem]

theorem sevBody_wf (x : Iss) (s : State) (h : Memory.wf s.mem = true) :
    Memory.wf (sevBody x s).state.mem = true := by
  unfold sevBody
  split <;> grind [Act.state, foldl_mem, wakeAgent_mem]

theorem enqueue_wf (s : State) (q : Nat) (bytes : List Byte) (h : Memory.wf s.mem = true) :
    Memory.wf (State.enqueue s q bytes).mem = true := by
  unfold State.enqueue
  grind [writePhys_wf, beat_mem, intake_wf]

theorem qpostBody_wf (x : Iss) (s : State) (h : Memory.wf s.mem = true) :
    Memory.wf (qpostBody x s).state.mem = true := by
  unfold qpostBody
  dsimp only
  grind [Act.state, Iss.held_wf, Iss.checkOnce_wf, prepLoad_wf, Iss.giveAll_mem, Iss.failAll_wf, uniform_wf, enqueue_wf]

/-! ### Leases and keys (06, 12) -/

@[simp] theorem send_mem (s : State) (kind dest idx : Nat) :
    (State.send s kind dest idx).mem = s.mem := rfl

theorem leaveLines_wf (s : State) (p e : Nat) (keep : Bool) (h : Memory.wf s.mem = true) :
    Memory.wf (State.leaveLines s p e keep).mem = true := by
  unfold State.leaveLines
  grind [foldl_wf, foldl_mem, lcFlush_wf, dropHolds_mem]

theorem freeBorrower_wf (s : State) (i cause : Nat) (h : Memory.wf s.mem = true) :
    Memory.wf (State.freeBorrower s i cause).mem = true := by
  unfold State.freeBorrower
  grind [modBorrower_mem, modPeer_mem, leaseShoot_mem, leaveLines_wf]

@[simp] theorem endBorrower_mem (s : State) (i why : Nat) :
    (State.endBorrower s i why).mem = s.mem := rfl

@[simp] theorem freeLender_mem (s : State) (e cause : Nat) :
    (State.freeLender s e cause).mem = s.mem := rfl

@[simp] theorem recallTenure_mem (s : State) (p e : Nat) :
    (State.recallTenure s p e).mem = s.mem := by
  unfold State.recallTenure
  grind [recallExtent_mem]

@[simp] theorem beginRecall_mem (s : State) (e : Nat) (byTerm : Bool) :
    (State.beginRecall s e byTerm).mem = s.mem := by
  unfold State.beginRecall
  grind [modLender_mem, recallTenure_mem]

theorem leaseOp_wf (wa wb : Nat) (ops : Iss → Nat → List Nat) (k : Iss → State → Nat → Act) (x : Iss) (s : State)
    (hk : ∀ x s l, Memory.wf s.mem = true → Memory.wf (k x s l).state.mem = true) (h : Memory.wf s.mem = true) :
    Memory.wf (leaseOp wa wb ops k x s).state.mem = true := by
  unfold leaseOp
  grind [Act.state, uniform_wf]

theorem Iss.reply_wf (x : Iss) (s : State) (v : Nat) (h : Memory.wf s.mem = true) : Memory.wf
    (x.reply s v).state.mem = true := by
  unfold Iss.reply
  grind [Act.state, Iss.giveAll_mem]

theorem Iss.await_wf (x : Iss) (s : State) (h : Memory.wf s.mem = true) : Memory.wf (x.await s).state.mem = true :=
  Iss.eachMarked_wf x s _ _ _ (fun _ _ h => h) h

theorem Iss.answered_wf (x : Iss) (s : State) (i : Nat) (f : Nat → Nat) (h : Memory.wf s.mem = true) :
    Memory.wf (Iss.answered x s i f).state.mem = true := by
  unfold Iss.answered
  grind [Act.state, modBorrower_mem, Iss.reply_wf, Iss.await_wf]

theorem lsreqBody_wf (x : Iss) (s : State) (h : Memory.wf s.mem = true) : Memory.wf (lsreqBody x s).state.mem = true :=
  leaseOp_wf _ _ _ _ x s (fun x s l h => by
    grind [Iss.answered_wf, Iss.reply_wf, Iss.await_wf, send_mem, modBorrower_mem]) h

theorem lsrenewBody_wf (x : Iss) (s : State) (h : Memory.wf s.mem = true) : Memory.wf (lsrenewBody x s).state.mem = true :=
  leaseOp_wf _ _ _ _ x s (fun x s l h => by
    grind [Iss.answered_wf, Iss.reply_wf, Iss.await_wf, send_mem, modBorrower_mem]) h

theorem lsdropBody_wf (x : Iss) (s : State) (h : Memory.wf s.mem = true) :
    Memory.wf (lsdropBody x s).state.mem = true := by
  unfold lsdropBody
  dsimp only
  grind [Act.state, endBorrower_mem, leaseOp_wf, Iss.reply_wf, Iss.await_wf]

theorem exlendBody_wf (x : Iss) (s : State) (h : Memory.wf s.mem = true) :
    Memory.wf (exlendBody x s).state.mem = true := by
  unfold exlendBody
  grind [Act.state, leaseOp_wf]

theorem lsrecallBody_wf (x : Iss) (s : State) (h : Memory.wf s.mem = true) :
    Memory.wf (lsrecallBody x s).state.mem = true := by
  unfold lsrecallBody
  dsimp only
  grind [Act.state, beginRecall_mem, leaseOp_wf, Iss.reply_wf, Iss.await_wf]

theorem lsrdBody_wf (x : Iss) (s : State) (h : Memory.wf s.mem = true) :
    Memory.wf (lsrdBody x s).state.mem = true := by
  unfold lsrdBody
  dsimp only
  grind [Act.state, Iss.giveAll_mem, leaseOp_wf]

@[simp] theorem openKey_mem (s : State) (group peer : Nat) (ticket : Word) :
    (State.openKey s group peer ticket).1.mem = s.mem := by
  unfold State.openKey
  grind [draw_mem]

theorem kyopenBody_wf (x : Iss) (s : State) (h : Memory.wf s.mem = true) :
    Memory.wf (kyopenBody x s).state.mem = true := by
  unfold kyopenBody
  dsimp only
  grind [Act.state, leaseOp_wf, Iss.reply_wf, openKey_mem]

theorem kycloseBody_wf (x : Iss) (s : State) (h : Memory.wf s.mem = true) :
    Memory.wf (kycloseBody x s).state.mem = true := by
  unfold kycloseBody
  dsimp only
  grind [Act.state, leaseOp_wf, Iss.reply_wf]

theorem exmigBody_wf (x : Iss) (s : State) (h : Memory.wf s.mem = true) :
    Memory.wf (exmigBody x s).state.mem = true := by
  unfold exmigBody
  dsimp only
  grind [Act.state, uniform_wf, Iss.post_wf, prot_wf]

@[simp] theorem modHouse_mem (s : State) (n : Nat) (f : House → House) :
    (State.modHouse s n f).mem = s.mem := rfl

@[simp] theorem writeLeasectl_mem (s : State) (v : DWord) :
    (State.writeLeasectl s v).mem = s.mem := by
  unfold State.writeLeasectl
  grind

@[simp] theorem configure_mem (s : State) (q : Nat × Nat × Nat) :
    (State.configure s q).mem = s.mem := by
  unfold State.configure
  grind

/-! ### Performing queued stores (06) -/

theorem devWrite_wf (s : State) (a : Nat) (v : DWord) (h : Memory.wf s.mem = true) :
    Memory.wf (State.devWrite s a v).mem = true := by
  unfold State.devWrite
  grind [notifyQueue_wf, writeDescriptor_mem, activateQueue_mem, destroyQueue_wf, writePartmap_mem,
    writeLeasectl_mem, configure_mem]

theorem devStore_wf (s : State) (bs : List (Nat × Byte)) (h : Memory.wf s.mem = true) :
    Memory.wf (State.devStore s bs).mem = true := by
  unfold State.devStore
  grind [foldl_wf, foldl_mem, devWrite_wf]

theorem performEntry_wf (s : State) (core idx : Nat) (e : StoreEnt) (h : Memory.wf s.mem = true) :
    Memory.wf (State.performEntry s core idx e).mem = true := by
  unfold State.performEntry
  grind [foldl_wf, foldl_mem, modCore_mem, entryConflicts_mem, putByte_wf, touchAll_wf, noteWrite_mem,
    recallSpan_mem, syncTouch_mem, devStore_wf]

theorem tryPerform_wf (s : State) (core idx : Nat) (e : StoreEnt) (holds : Bool) (h : Memory.wf s.mem = true) :
    Memory.wf (State.tryPerform s core idx e holds).mem = true := by
  unfold State.tryPerform
  grind [foldl_wf, foldl_mem, modCore_mem, waitLines_mem, snoop_mem, afterHolds_wf, performEntry_wf]

/-! ### The fabric (13) -/

@[simp] theorem modGaref_mem (s : State) (port : Nat) (f : Garef → Garef) :
    (State.modGaref s port f).mem = s.mem := by
  unfold State.modGaref
  grind

@[simp] theorem count_mem (s : State) (n k : Nat) :
    (State.count s n k).mem = s.mem := rfl

@[simp] theorem respond_mem (s : State) (ok : Bool) (source v : Nat) :
    (State.respond s ok source v).mem = s.mem := rfl

@[simp] theorem noteCopy_mem (s : State) (source line : Nat) (wr : Bool) :
    (State.noteCopy s source line wr).mem = s.mem := rfl

theorem remoteChange_wf (s : State) (req : PeerReq) (h : Memory.wf s.mem = true) : Memory.wf
    (s.remoteChange req).mem = true := by
  unfold State.remoteChange
  split
  · exact h
  · rename_i bs _
    dsimp only
    split
    · rwa [waitLines_mem]
    · rw [noteWrite_mem, conflicts_mem]
      refine foldl_wf _ (fun s e h => ?_) _ _ (foldl_wf _ (fun s l h => by rwa [recallSpan_mem]) _ _ ?_)
      · split
        · exact Memory.wf_put _ _ h
        · exact putByte_wf _ _ _ (touch_wf _ _ h)
      · rw [dropHolds_mem]
        exact foldl_wf _ (fun s c h => lcFlush_wf s c h) _ _ h

@[simp] theorem telemetry_mem (s : State) :
    (State.telemetry s).mem = s.mem := rfl

@[simp] theorem wakeCore_mem (s : State) (core : Nat) :
    (State.wakeCore s core).mem = s.mem := by
  unfold State.wakeCore
  grind [modCore_mem, dropHolds_mem]

@[simp] theorem setPoint_mem (s : State) (t : Nat) (gang : Bool) (n : Nat) (p : Point) :
    (State.setPoint s t gang n p).mem = s.mem := by
  unfold State.setPoint
  grind [modTeam_mem, modGang_mem]

/-! ### Phases and barriers (08) -/

@[simp] theorem commitLane_mem (s : State) (c w l : Nat) :
    (State.commitLane s c w l).mem = s.mem := rfl

@[simp] theorem phaseLane_mem (s : State) (c w n l : Nat) :
    (State.phaseLane s c w n l).mem = s.mem := by
  unfold State.phaseLane
  grind [modThread_mem, rollLane_mem, commitLane_mem]

@[simp] theorem phaseTeam_mem (s : State) (t n : Nat) :
    (State.phaseTeam s t n).mem = s.mem := by
  unfold State.phaseTeam
  grind [foldl_mem, modWeave_mem, entryConflicts_mem, phaseLane_mem]

@[simp] theorem phaseGang_mem (s : State) (g n : Nat) :
    (State.phaseGang s g n).mem = s.mem := rfl

theorem onPoint_wf (k : Iss → State → Nat → Act) (x : Iss) (s : State)
    (hk : ∀ x s t, Memory.wf s.mem = true → Memory.wf (k x s t).state.mem = true) (h : Memory.wf s.mem = true) :
    Memory.wf (onPoint k x s).state.mem = true := by
  unfold onPoint
  grind [Act.state]

theorem initBody_wf (gang : Bool) (x : Iss) (s : State) (h : Memory.wf s.mem = true) :
    Memory.wf (initBody gang x s).state.mem = true := by
  unfold initBody
  dsimp only
  grind [Act.state, setPoint_mem, onPoint_wf]

theorem Iss.arrivePoint_mem (x : Iss) (gang : Bool) (t n : Nat) (r : State × List (Nat × Nat)) (l : Nat) :
    (x.arrivePoint gang t n r l).1.mem = r.1.mem := by
  unfold Iss.arrivePoint
  grind [modThread_mem, setPoint_mem, phaseGang_mem, phaseTeam_mem]

theorem barrierTrap_wf (s : State) (fs : List (Nat × Nat)) (h : Memory.wf s.mem = true) :
    Memory.wf (barrierTrap s fs).state.mem = true := h

theorem arriveBody_wf (gang : Bool) (x : Iss) (s : State) (h : Memory.wf s.mem = true) :
    Memory.wf (arriveBody gang x s).state.mem = true := by
  unfold arriveBody
  dsimp only
  grind [foldl_fst_mem, Act.state, foldl_mem, onPoint_wf, Iss.arrivePoint_mem, barrierTrap_wf]

theorem waitBody_wf (gang : Bool) (x : Iss) (s : State) (h : Memory.wf s.mem = true) :
    Memory.wf (waitBody gang x s).state.mem = true := by
  unfold waitBody
  dsimp only
  grind [Act.state, modThreads_mem, hold_mem, onPoint_wf]

theorem syncBody_wf (gang : Bool) (x : Iss) (s : State) (h : Memory.wf s.mem = true) :
    Memory.wf (syncBody gang x s).state.mem = true := by
  unfold syncBody
  dsimp only
  grind [foldl_fst_mem, Act.state, foldl_mem, modThreads_mem, onPoint_wf, Iss.arrivePoint_mem, barrierTrap_wf]

theorem waitSpecBody_wf (x : Iss) (s : State) (h : Memory.wf s.mem = true) :
    Memory.wf (waitSpecBody x s).state.mem = true := by
  unfold waitSpecBody
  dsimp only
  grind [Act.state, modThreads_mem, hold_mem, onPoint_wf, waitBody_wf]

/-! ### Time and errors -/

@[simp] theorem elapse_mem (s : State) :
    (State.elapse s).mem = s.mem := rfl

theorem convTrap_wf (s : State) (g : Grp) (u : State) (h : Memory.wf s.mem = true) (hu : s.convTrap g = some u) :
    Memory.wf u.mem = true := by
  unfold State.convTrap at hu
  grind [hold_mem, modThreads_mem, raise_wf]

@[simp] theorem eccError_mem (s : State) (l : Loc) :
    (State.eccError s l).mem = s.mem := by
  unfold State.eccError
  grind [setPoison_mem, markPoison_mem, count_mem]

@[simp] theorem eccBuffer_mem (s : State) (team off : Nat) :
    (State.eccBuffer s team off).mem = s.mem := by
  unfold State.eccBuffer
  grind [modTeam_mem, count_mem]

/-! ### Instructions and events -/

theorem issue_wf {i : Instr} {body : Iss → State → Act} {s t : State}
    (hb : ∀ x u, Memory.wf u.mem = true → Memory.wf (body x u).state.mem = true) (h : Memory.wf s.mem = true)
    (ht : issue i body s = .next t) : Memory.wf t.mem = true := issueWith_wf _ _ _ _ body s t hb h ht

theorem issueRow_wf {f : Fields} {r : Row} {body : Iss → State → Act} {s t : State}
    (hb : ∀ x u, Memory.wf u.mem = true → Memory.wf (body x u).state.mem = true) (h : Memory.wf s.mem = true)
    (ht : issueRow f r body s = .next t) : Memory.wf t.mem = true := issueWith_wf _ _ _ _ body s t hb h ht

/-! ### Instructions whose body is written in place -/

theorem execAcrd_wf {o : AForm} {s t : State} (h : Memory.wf s.mem = true) (ht : execAcrd o s = .next t) :
    Memory.wf t.mem = true := by
  unfold execAcrd at ht
  refine issue_wf ?_ h ht
  intro x u hu
  exact accLanes_wf _ _ x u (fun _ _ h => by rwa [modThreads_mem]) hu

theorem execAcwr_wf {o : AForm} {s t : State} (h : Memory.wf s.mem = true) (ht : execAcwr o s = .next t) :
    Memory.wf t.mem = true := by
  unfold execAcwr at ht
  refine issue_wf ?_ h ht
  intro x u hu
  exact accLanes_wf _ _ x u (fun _ _ h => by rwa [modCore_mem]) hu

theorem execLdts_wf {o : AForm} {s t : State} (h : Memory.wf s.mem = true) (ht : execLdts o s = .next t) :
    Memory.wf t.mem = true := by
  unfold execLdts at ht
  refine issue_wf ?_ h ht
  intro x u hu
  exact onSlot_wf _ x u (fun _ _ _ _ h => by grind [Act.state, modWeave_mem]) hu

theorem execStts_wf {o : AForm} {s t : State} (h : Memory.wf s.mem = true) (ht : execStts o s = .next t) :
    Memory.wf t.mem = true := by
  unfold execStts at ht
  refine issue_wf ?_ h ht
  intro x u hu
  exact onSlot_wf _ x u
    (fun x s t q h => Iss.eachMarked_wf x s _ _ _ (fun _ _ h => by rwa [modTeam_mem]) h) hu

theorem execRfcancel_wf {o : XForm} {s t : State} (h : Memory.wf s.mem = true) (ht : execRfcancel o s = .next t) :
    Memory.wf t.mem = true := by
  unfold execRfcancel at ht
  refine issue_wf ?_ h ht
  intro x u hu
  refine uniform_wf _ _ _ x u (fun x s y l h => ?_) hu
  cases y <;> grind [Act.state, foldl_mem, modBlock_mem]

theorem execRfwait_wf {o : AForm} {s t : State} (h : Memory.wf s.mem = true) (ht : execRfwait o s = .next t) :
    Memory.wf t.mem = true := by
  unfold execRfwait at ht
  refine issue_wf ?_ h ht
  intro x u hu
  refine uniform_wf _ _ _ x u (fun x s y l h => ?_) hu
  cases y <;> grind [Act.state]

theorem execRfstat_wf {o : AForm} {s t : State} (h : Memory.wf s.mem = true) (ht : execRfstat o s = .next t) :
    Memory.wf t.mem = true := by
  unfold execRfstat at ht
  refine issue_wf ?_ h ht
  intro x u hu
  refine uniform_wf _ _ _ x u (fun x s y l h => ?_) hu
  cases y <;> grind [Act.state, Iss.giveAll_mem]

theorem execExit_wf {o : AForm} {s t : State} (h : Memory.wf s.mem = true) (ht : execExit o s = .next t) :
    Memory.wf t.mem = true := by
  unfold execExit at ht
  refine issue_wf ?_ h ht
  intro x u hu
  grind [Act.state, modWeave_mem, freeWeave_mem]

theorem execYield_wf {o : AForm} {s t : State} (h : Memory.wf s.mem = true) (ht : execYield o s = .next t) :
    Memory.wf t.mem = true := by
  unfold execYield at ht
  refine issue_wf ?_ h ht
  intro x u hu
  grind [Act.state, modTeam_mem]

theorem execPause_wf {o : IForm} {s t : State} (h : Memory.wf s.mem = true) (ht : execPause o s = .next t) :
    Memory.wf t.mem = true := by
  unfold execPause at ht
  refine issue_wf ?_ h ht
  intro x u hu
  grind [Act.state, modThreads_mem]

theorem execBrk_wf {o : IForm} {s t : State} (h : Memory.wf s.mem = true) (ht : execBrk o s = .next t) :
    Memory.wf t.mem = true := by
  unfold execBrk at ht
  refine issue_wf ?_ h ht
  intro x u hu
  grind [Act.state]

theorem execMstat_wf {o : AForm} {s t : State} (h : Memory.wf s.mem = true) (ht : execMstat o s = .next t) :
    Memory.wf t.mem = true := by
  unfold execMstat at ht
  refine issue_wf ?_ h ht
  intro x u hu
  grind [Act.state, Iss.giveAll_mem]

theorem execMstclr_wf {o : AForm} {s t : State} (h : Memory.wf s.mem = true) (ht : execMstclr o s = .next t) :
    Memory.wf t.mem = true := by
  unfold execMstclr at ht
  refine issue_wf ?_ h ht
  intro x u hu
  grind [Act.state, modConv_mem]

theorem execMplane_wf {o : AForm} {s t : State} (h : Memory.wf s.mem = true) (ht : execMplane o s = .next t) :
    Memory.wf t.mem = true := by
  unfold execMplane at ht
  refine issue_wf ?_ h ht
  intro x u hu
  grind [Act.state, Iss.giveAll_mem]

theorem execCcrd_wf {o : AForm} {s t : State} (h : Memory.wf s.mem = true) (ht : execCcrd o s = .next t) :
    Memory.wf t.mem = true := by
  unfold execCcrd at ht
  refine issue_wf ?_ h ht
  intro x u hu
  grind [Act.state, Iss.giveAll_mem]

theorem execCcadd_wf {o : AForm} {s t : State} (h : Memory.wf s.mem = true) (ht : execCcadd o s = .next t) :
    Memory.wf t.mem = true := by
  unfold execCcadd at ht
  refine issue_wf ?_ h ht
  intro x u hu
  grind [Act.state, foldl_mem, modCounter_mem]

theorem execCcclr_wf {o : AForm} {s t : State} (h : Memory.wf s.mem = true) (ht : execCcclr o s = .next t) :
    Memory.wf t.mem = true := by
  unfold execCcclr at ht
  refine issue_wf ?_ h ht
  intro x u hu
  grind [Act.state, modCounter_mem]

theorem execTsfree_wf {o : AForm} {s t : State} (h : Memory.wf s.mem = true) (ht : execTsfree o s = .next t) :
    Memory.wf t.mem = true := by
  unfold execTsfree at ht
  refine issue_wf ?_ h ht
  intro x u hu
  grind [Act.state, modSlot_mem]

theorem execTsstat_wf {o : AForm} {s t : State} (h : Memory.wf s.mem = true) (ht : execTsstat o s = .next t) :
    Memory.wf t.mem = true := by
  unfold execTsstat at ht
  refine issue_wf ?_ h ht
  intro x u hu
  grind [Act.state, Iss.giveAll_mem]

theorem execFmcand_wf {o : LForm} {s t : State} (h : Memory.wf s.mem = true) (ht : execFmcand o s = .next t) :
    Memory.wf t.mem = true := by
  unfold execFmcand at ht
  refine issueRow_wf ?_ h ht
  intro x u hu
  grind [Act.state, Iss.giveAll_mem]

/-! ### Events -/

theorem execPauseExpiry_wf {core slot lane : Nat} {s t : State} (h : Memory.wf s.mem = true)
    (ht : execPauseExpiry core slot lane s = .next t) : Memory.wf t.mem = true := by
  unfold execPauseExpiry at ht
  grind [modThreads_mem]

theorem execJoinRelease_wf {core slot entry : Nat} {s t : State} (h : Memory.wf s.mem = true)
    (ht : execJoinRelease core slot entry s = .next t) : Memory.wf t.mem = true := by
  unfold execJoinRelease at ht
  grind [modWeave_mem]

theorem execAtomicPerform_wf {core idx : Nat} {s t : State} (h : Memory.wf s.mem = true)
    (ht : execAtomicPerform core idx s = .next t) : Memory.wf t.mem = true := by
  unfold execAtomicPerform at ht
  grind [foldl_wf, foldl_mem, modCore_mem, waitLines_mem, freeWeave_mem, atomLane_wf]

theorem execWaitvReread_wf {core slot lane : Nat} {s t : State} (h : Memory.wf s.mem = true)
    (ht : execWaitvReread core slot lane s = .next t) : Memory.wf t.mem = true := by
  unfold execWaitvReread at ht
  dsimp only at ht
  split at ht
  · split at ht
    · exact issue_wf (waitvBody_wf _) (by exact h) ht
    · exact issue_wf (waitvBody_wf _) (by exact h) ht
    · cases ht; exact h
  · cases ht; exact h

theorem execTileDirectoryRequest_wf {idx : Nat} {s t : State} (h : Memory.wf s.mem = true)
    (ht : execTileDirectoryRequest idx s = .next t) : Memory.wf t.mem = true := by
  unfold execTileDirectoryRequest at ht
  grind [tilePages_wf, splitOthers_mem, grantPage_mem]

theorem execLaneCollectiveCompletion_wf {core slot idx : Nat} {s t : State} (h : Memory.wf s.mem = true)
    (ht : execLaneCollectiveCompletion core slot idx s = .next t) : Memory.wf t.mem = true := by
  unfold execLaneCollectiveCompletion at ht
  grind [completeColl_wf]

theorem execMatrixCommandStart_wf {core idx : Nat} {s t : State} (h : Memory.wf s.mem = true)
    (ht : execMatrixCommandStart core idx s = .next t) : Memory.wf t.mem = true := by
  unfold execMatrixCommandStart at ht
  grind [modCore_mem, modTeam_mem, modSlot_mem, settleSigns_mem, endMat_mem]

theorem execMatrixBlockDone_wf {core idx : Nat} {s t : State} (h : Memory.wf s.mem = true)
    (ht : execMatrixBlockDone core idx s = .next t) : Memory.wf t.mem = true := by
  unfold execMatrixBlockDone at ht
  grind [foldl_mem, setCore_mem, discharge_mem, modConv_mem, endMat_mem]

theorem execMatrixCommandComplete_wf {core idx : Nat} {s t : State} (h : Memory.wf s.mem = true)
    (ht : execMatrixCommandComplete core idx s = .next t) : Memory.wf t.mem = true := by
  unfold execMatrixCommandComplete at ht
  split at ht
  · cases ht; exact h
  rename_i tm y _
  split at ht
  · cases ht; exact h
  rename_i c _
  have hb := fun a => engineBytes_wf s a c.addr c.bytes h
  split at ht
  · cases ht; exact h
  split at ht
  · split at ht <;> cases ht
    · rwa [endMat_mem]
    · rwa [finishLoad_mem]
  · split at ht
    · split at ht <;> cases ht
      · exact h
      · rwa [modTeam_mem]
      · rwa [endMat_mem]
      · rwa [endMat_mem]
    · split at ht
      · rename_i v ls hv
        have hm : Memory.wf v.mem = true := (congrArg (fun r => Memory.wf r.1.mem) hv).symm.trans (hb _)
        split at ht
        · cases ht; exact hm
        have hr := readPlaces_wf v (some tm) ls hm
        dsimp only at ht
        split at ht <;> cases ht
        · rwa [endMat_mem]
        · rwa [finishLoad_mem]
      · rename_i v va e scr hv
        have hm : Memory.wf v.mem = true := (congrArg (fun r => Memory.wf r.1.mem) hv).symm.trans (hb _)
        split at ht <;> cases ht
        · rwa [arrayFault_mem]
        · rwa [modTeam_mem]
      · rename_i v va k _ hv
        have hm : Memory.wf v.mem = true := (congrArg (fun r => Memory.wf r.1.mem) hv).symm.trans (hb _)
        split at ht <;> cases ht
        · rwa [endMat_mem]
        · rwa [arrayFault_mem]
  · cases ht; rwa [endMat_mem]
  · grind [endMat_mem]

theorem execEngineUnitStart_wf {core idx : Nat} {s t : State} (h : Memory.wf s.mem = true)
    (ht : execEngineUnitStart core idx s = .next t) : Memory.wf t.mem = true := by
  unfold execEngineUnitStart at ht
  dsimp only at ht
  split at ht
  · cases ht; exact h
  rename_i c _
  split at ht
  · cases ht; exact h
  rename_i u _
  have hs := unitSource_wf s core c u h
  split at ht
  · cases ht; exact h
  split at ht <;> rename_i hv <;> rw [hv] at hs
  · cases ht; exact hs
  · split at ht <;> cases ht
    · exact hs
    · rwa [askUnit_mem]
    · exact unitFails_wf _ _ _ _ _ _ _ hs
  · rename_i v bs
    have hm : Memory.wf (if bs.any (·.2) then v.noteErr core c.team c.cc 5 else v).mem = true := by
      split
      · rwa [noteErr_mem]
      · exact hs
    split at ht <;> cases ht
    · exact endCmd_wf _ _ _ _ hm
    · rwa [modCore_mem, modCmd_mem]

theorem execEngineUnitPerformed_wf {core buf : Nat} {s t : State} (h : Memory.wf s.mem = true)
    (ht : execEngineUnitPerformed core buf s = .next t) : Memory.wf t.mem = true := by
  unfold execEngineUnitPerformed at ht
  dsimp only at ht
  split at ht
  · cases ht; exact h
  rename_i b _
  split at ht
  · cases ht; exact h
  rename_i c _
  have hc := engineCheck_wf s (s.cmdAgent core c) (engineAcc true) (c.addrs c.dst (c.geom b.unit).1 (c.geom b.unit).2) h
  split at ht
  case h_1 | h_2 => cases ht; exact unitDone_wf _ _ _ _ (by rwa [modTeam_mem])
  case h_3 => cases ht; exact unitDone_wf _ _ _ _ h
  case h_4 => grind [endCmd_wf, afterHolds_wf, askUnit_mem, foldl_mem, snoop_mem, waitLines_mem, engineWrite_wf, unitDone_wf]
  case h_5 => grind [waitLines_mem, askUnit_mem, engineWrite_wf, noteErr_mem, unitDone_wf, unitFails_wf]

theorem execEngineCommandStart_wf {core idx : Nat} {s t : State} (h : Memory.wf s.mem = true)
    (ht : execEngineCommandStart core idx s = .next t) : Memory.wf t.mem = true := by
  unfold execEngineCommandStart at ht
  grind [modTeam_mem, modCmd_mem, endCmd_wf, bringLines_wf, writeBackLines_wf]

theorem execRefineBlockStart_wf {die : Nat} {s t : State} (h : Memory.wf s.mem = true)
    (ht : execRefineBlockStart die s = .next t) : Memory.wf t.mem = true := by
  unfold execRefineBlockStart at ht
  grind [modBlock_mem]

theorem execRefineItemEnd_wf {die : Nat} {s t : State} (h : Memory.wf s.mem = true)
    (ht : execRefineItemEnd die s = .next t) : Memory.wf t.mem = true := by
  unfold execRefineItemEnd at ht
  grind [modBlock_mem, refineItem_wf]

theorem execRefineBlockEnd_wf {die : Nat} {s t : State} (h : Memory.wf s.mem = true)
    (ht : execRefineBlockEnd die s = .next t) : Memory.wf t.mem = true := by
  unfold execRefineBlockEnd at ht
  grind [modBlock_mem, endStage_wf]

theorem execRefineTrapDelivery_wf {idx : Nat} {s t : State} (h : Memory.wf s.mem = true)
    (ht : execRefineTrapDelivery idx s = .next t) : Memory.wf t.mem = true := by
  unfold execRefineTrapDelivery at ht
  grind [modWeave_mem, modDie_mem, rollWeave_mem, trapEntry_wf]

theorem execGangPlacement_wf {queue : Nat} {s t : State} (h : Memory.wf s.mem = true)
    (ht : execGangPlacement queue s = .next t) : Memory.wf t.mem = true := by
  unfold execGangPlacement at ht
  grind [foldl_wf, foldl_mem, afterHolds_wf, failWindow_mem, commitGang_wf, serve_mem, ageHead_mem, preemptFor_mem]

theorem execHeadAging_wf {queue : Nat} {s t : State} (h : Memory.wf s.mem = true)
    (ht : execHeadAging queue s = .next t) : Memory.wf t.mem = true := by
  unfold execHeadAging at ht
  grind [ageHead_mem]

theorem execGangStartRelease_wf {gang : Nat} {s t : State} (h : Memory.wf s.mem = true)
    (ht : execGangStartRelease gang s = .next t) : Memory.wf t.mem = true := by
  unfold execGangStartRelease at ht
  grind [foldl_mem, modTeam_mem, modGang_mem, modLaunch_mem, recharge_mem, openLaunch_mem]

theorem execTicketRetire_wf {partition : Nat} {s t : State} (h : Memory.wf s.mem = true)
    (ht : execTicketRetire partition s = .next t) : Memory.wf t.mem = true := by
  unfold execTicketRetire at ht
  grind [afterHolds_wf, tkcSet_wf]

theorem execJournalTakeover_wf {thread : Nat} {s t : State} (h : Memory.wf s.mem = true)
    (ht : execJournalTakeover thread s = .next t) : Memory.wf t.mem = true := by
  unfold execJournalTakeover at ht
  grind [afterHolds_wf, beat_mem, intake_wf]

theorem execQueueNotify_wf {queue : Nat} {s t : State} (h : Memory.wf s.mem = true)
    (ht : execQueueNotify queue s = .next t) : Memory.wf t.mem = true := by
  unfold execQueueNotify at ht
  grind [notifyQueue_wf, orKept_wf]

theorem execQueueDescriptorWrite_wf {queue word : Nat} {value : DWord} {s t : State} (h : Memory.wf s.mem = true)
    (ht : execQueueDescriptorWrite queue word value s = .next t) : Memory.wf t.mem = true := by
  unfold execQueueDescriptorWrite at ht
  grind [writeDescriptor_mem]

theorem execQueueActivate_wf {queue : Nat} {s t : State} (h : Memory.wf s.mem = true)
    (ht : execQueueActivate queue s = .next t) : Memory.wf t.mem = true := by
  unfold execQueueActivate at ht
  grind [activateQueue_mem]

theorem execQueueDestroy_wf {queue : Nat} {s t : State} (h : Memory.wf s.mem = true)
    (ht : execQueueDestroy queue s = .next t) : Memory.wf t.mem = true := by
  unfold execQueueDestroy at ht
  grind [orKept_wf, destroyQueue_wf]

theorem execPartmapWrite_wf {idx : Nat} {value : DWord} {s t : State} (h : Memory.wf s.mem = true)
    (ht : execPartmapWrite idx value s = .next t) : Memory.wf t.mem = true := by
  unfold execPartmapWrite at ht
  grind [writePartmap_mem]

theorem execPreemptionRequest_wf {core team : Nat} {s t : State} (h : Memory.wf s.mem = true)
    (ht : execPreemptionRequest core team s = .next t) : Memory.wf t.mem = true := by
  unfold execPreemptionRequest at ht
  grind [afterHolds_wf, requestPreempt_mem, preemptStage_wf]

theorem execSliceExpiry_wf {core team : Nat} {s t : State} (h : Memory.wf s.mem = true)
    (ht : execSliceExpiry core team s = .next t) : Memory.wf t.mem = true := by
  unfold execSliceExpiry at ht
  grind [afterHolds_wf, expire_mem, preemptStage_wf]

theorem execUrgentPreemptionTimeout_wf {core team : Nat} {s t : State} (h : Memory.wf s.mem = true)
    (ht : execUrgentPreemptionTimeout core team s = .next t) : Memory.wf t.mem = true := by
  unfold execUrgentPreemptionTimeout at ht
  grind [modTeam_mem]

theorem execDrainTimeout_wf {core team : Nat} {s t : State} (h : Memory.wf s.mem = true)
    (ht : execDrainTimeout core team s = .next t) : Memory.wf t.mem = true := by
  unfold execDrainTimeout at ht
  grind [modTeam_mem, stopTeam_mem]

theorem execTeamCompletion_wf {core team : Nat} {s t : State} (h : Memory.wf s.mem = true)
    (ht : execTeamCompletion core team s = .next t) : Memory.wf t.mem = true := by
  unfold execTeamCompletion at ht
  grind [afterHolds_wf, waitBacks_mem, completeTeam_wf]

theorem execSavedTeamRestore_wf {idx : Nat} {s t : State} (h : Memory.wf s.mem = true)
    (ht : execSavedTeamRestore idx s = .next t) : Memory.wf t.mem = true := by
  unfold execSavedTeamRestore at ht
  grind [afterHolds_wf, wakeAgent_mem, modGangTeam_mem, setTicketCore_wf]

theorem execParkedSubgroupReplay_wf {core slot idx : Nat} {s t : State} (h : Memory.wf s.mem = true)
    (ht : execParkedSubgroupReplay core slot idx s = .next t) : Memory.wf t.mem = true := by
  unfold execParkedSubgroupReplay at ht
  grind [modWeave_mem]

theorem execFltRec0Read_wf {core : Nat} {s t : State} (h : Memory.wf s.mem = true)
    (ht : execFltRec0Read core s = .next t) : Memory.wf t.mem = true := by
  unfold execFltRec0Read at ht
  grind [nextFlt_mem]

theorem execEfltRec0Read_wf {core : Nat} {s t : State} (h : Memory.wf s.mem = true)
    (ht : execEfltRec0Read core s = .next t) : Memory.wf t.mem = true := by
  unfold execEfltRec0Read at ht
  grind [nextEflt_mem]

theorem execFltAck_wf {core : Nat} {value : DWord} {s t : State} (h : Memory.wf s.mem = true)
    (ht : execFltAck core value s = .next t) : Memory.wf t.mem = true := by
  unfold execFltAck at ht
  grind [fltAck_mem]

theorem execEfltAck_wf {core : Nat} {value : DWord} {s t : State} (h : Memory.wf s.mem = true)
    (ht : execEfltAck core value s = .next t) : Memory.wf t.mem = true := by
  unfold execEfltAck at ht
  grind [efltAck_wf]

theorem execTrPpcWrite_wf {core slot : Nat} {s t : State} (h : Memory.wf s.mem = true)
    (ht : execTrPpcWrite core slot s = .next t) : Memory.wf t.mem = true := by
  unfold execTrPpcWrite at ht
  grind [modWeave_mem]

theorem execHandlerWatchdogExpiry_wf {core slot : Nat} {s t : State} (h : Memory.wf s.mem = true)
    (ht : execHandlerWatchdogExpiry core slot s = .next t) : Memory.wf t.mem = true := by
  unfold execHandlerWatchdogExpiry at ht
  grind [afterHolds_wf, contextKill_wf, wakeAgent_mem]

theorem execFmRoleLeaseRenew_wf {acks : Nat} {s t : State} (h : Memory.wf s.mem = true)
    (ht : execFmRoleLeaseRenew acks s = .next t) : Memory.wf t.mem = true := by
  unfold execFmRoleLeaseRenew at ht
  grind

theorem execFmRoleLeaseExpiry_wf {s t : State} (h : Memory.wf s.mem = true)
    (ht : execFmRoleLeaseExpiry s = .next t) : Memory.wf t.mem = true := by
  unfold execFmRoleLeaseExpiry at ht
  grind

theorem execTwlV_wf {vd : BitVec 5} {rs1 : BitVec 5} {rs2 : BitVec 5} {s t : State} (h : Memory.wf s.mem = true)
    (ht : execTwlV vd rs1 rs2 s = .next t) : Memory.wf t.mem = true := by
  unfold execTwlV at ht
  grind [foldl_mem, modHouse_mem]

theorem execLeaseRequestReceived_wf {msg : LeaseMsg} {s t : State} (h : Memory.wf s.mem = true)
    (ht : execLeaseRequestReceived msg s = .next t) : Memory.wf t.mem = true := by
  unfold execLeaseRequestReceived at ht
  grind [modLender_mem, modPeer_mem, send_mem]

theorem execLeaseGrantReceived_wf {msg : LeaseMsg} {s t : State} (h : Memory.wf s.mem = true)
    (ht : execLeaseGrantReceived msg s = .next t) : Memory.wf t.mem = true := by
  unfold execLeaseGrantReceived at ht
  grind [modBorrower_mem, modPeer_mem, hears_mem]

theorem execLeaseReplyTimeout_wf {entry : Nat} {s t : State} (h : Memory.wf s.mem = true)
    (ht : execLeaseReplyTimeout entry s = .next t) : Memory.wf t.mem = true := by
  unfold execLeaseReplyTimeout at ht
  grind [modBorrower_mem]

theorem execBorrowerLeaseEnd_wf {entry : Nat} {s t : State} (h : Memory.wf s.mem = true)
    (ht : execBorrowerLeaseEnd entry s = .next t) : Memory.wf t.mem = true := by
  unfold execBorrowerLeaseEnd at ht
  grind [endBorrower_mem, recallTenure_mem]

theorem execEndingWritebackDone_wf {entry : Nat} {s t : State} (h : Memory.wf s.mem = true)
    (ht : execEndingWritebackDone entry s = .next t) : Memory.wf t.mem = true := by
  unfold execEndingWritebackDone at ht
  grind [modBorrower_mem, send_mem, leaveLines_wf, freeBorrower_wf]

theorem execLeaseRevokeReceived_wf {entry : Nat} {s t : State} (h : Memory.wf s.mem = true)
    (ht : execLeaseRevokeReceived entry s = .next t) : Memory.wf t.mem = true := by
  unfold execLeaseRevokeReceived at ht
  grind [recallExtent_mem, freeBorrower_wf]

theorem execLenderTermExpiry_wf {extent : Nat} {s t : State} (h : Memory.wf s.mem = true)
    (ht : execLenderTermExpiry extent s = .next t) : Memory.wf t.mem = true := by
  unfold execLenderTermExpiry at ht
  grind [beginRecall_mem]

theorem execLeaseReleaseReceived_wf {extent : Nat} {s t : State} (h : Memory.wf s.mem = true)
    (ht : execLeaseReleaseReceived extent s = .next t) : Memory.wf t.mem = true := by
  unfold execLeaseReleaseReceived at ht
  grind [draw_mem, freeLender_mem]

theorem execBackInvalidateSnoop_wf {entry line : Nat} {s t : State} (h : Memory.wf s.mem = true)
    (ht : execBackInvalidateSnoop entry line s = .next t) : Memory.wf t.mem = true := by
  unfold execBackInvalidateSnoop at ht
  grind [foldl_wf, foldl_mem, lcFlush_wf, hears_mem, dropHolds_mem]

theorem execRecallCommit_wf {extent : Nat} {s t : State} (h : Memory.wf s.mem = true)
    (ht : execRecallCommit extent s = .next t) : Memory.wf t.mem = true := by
  unfold execRecallCommit at ht
  grind [recallExtent_mem, send_mem, freeLender_mem]

theorem execLeaseKeepalive_wf {peer : Nat} {received : Bool} {s t : State} (h : Memory.wf s.mem = true)
    (ht : execLeaseKeepalive peer received s = .next t) : Memory.wf t.mem = true := by
  unfold execLeaseKeepalive at ht
  grind [modPeer_mem, hears_mem, send_mem]

theorem execPeerSilent_wf {peer : Nat} {s t : State} (h : Memory.wf s.mem = true)
    (ht : execPeerSilent peer s = .next t) : Memory.wf t.mem = true := by
  unfold execPeerSilent at ht
  grind [foldl_wf, foldl_mem, setPoison_mem, freeBorrower_wf, freeLender_mem]

theorem execLeasectlWrite_wf {value : DWord} {s t : State} (h : Memory.wf s.mem = true)
    (ht : execLeasectlWrite value s = .next t) : Memory.wf t.mem = true := by
  unfold execLeasectlWrite at ht
  grind [writeLeasectl_mem]

theorem execRegisterWrite_wf {addr : Nat} {value : DWord} {s t : State} (h : Memory.wf s.mem = true)
    (ht : execRegisterWrite addr value s = .next t) : Memory.wf t.mem = true := by
  unfold execRegisterWrite at ht
  grind [orKept_wf, devWrite_wf]

theorem execStoreQueueDrain_wf {core slot : Nat} {s t : State} (h : Memory.wf s.mem = true)
    (ht : execStoreQueueDrain core slot s = .next t) : Memory.wf t.mem = true := by
  unfold execStoreQueueDrain at ht
  grind [modCore_mem, modWeave_mem, entryConflicts_mem]

theorem execStorePerformed_wf {core idx : Nat} {s t : State} (h : Memory.wf s.mem = true)
    (ht : execStorePerformed core idx s = .next t) : Memory.wf t.mem = true := by
  unfold execStorePerformed at ht
  grind [tryPerform_wf]

theorem execWriteAfterHolds_wf {core idx : Nat} {s t : State} (h : Memory.wf s.mem = true)
    (ht : execWriteAfterHolds core idx s = .next t) : Memory.wf t.mem = true := by
  unfold execWriteAfterHolds at ht
  grind [tryPerform_wf]

theorem execSyncEngineUpdate_wf {core idx : Nat} {s t : State} (h : Memory.wf s.mem = true)
    (ht : execSyncEngineUpdate core idx s = .next t) : Memory.wf t.mem = true := by
  unfold execSyncEngineUpdate at ht
  grind [tryPerform_wf]

theorem execHoldExpiry_wf {idx : Nat} {s t : State} (h : Memory.wf s.mem = true)
    (ht : execHoldExpiry idx s = .next t) : Memory.wf t.mem = true := by
  unfold execHoldExpiry at ht
  split at ht
  · cases ht; exact h
  split at ht
  · cases ht; exact h
  · cases ht; rwa [dropHolds_mem]

theorem execDeferredResultArrival_wf {core idx : Nat} {s t : State} (h : Memory.wf s.mem = true)
    (ht : execDeferredResultArrival core idx s = .next t) : Memory.wf t.mem = true := by
  unfold execDeferredResultArrival at ht
  grind [modCore_mem, modWeave_mem, freeWeave_mem]

theorem execGarefWindowAdvertise_wf {port channel flits : Nat} {s t : State} (h : Memory.wf s.mem = true)
    (ht : execGarefWindowAdvertise port channel flits s = .next t) : Memory.wf t.mem = true := by
  unfold execGarefWindowAdvertise at ht
  grind [modGaref_mem]

theorem execGarefPause_wf {port channel : Nat} {pause : Bool} {s t : State} (h : Memory.wf s.mem = true)
    (ht : execGarefPause port channel pause s = .next t) : Memory.wf t.mem = true := by
  unfold execGarefPause at ht
  grind [modGaref_mem]

theorem execGarefFlitReceive_wf {port seq : Nat} {good : Bool} {s t : State} (h : Memory.wf s.mem = true)
    (ht : execGarefFlitReceive port seq good s = .next t) : Memory.wf t.mem = true := by
  unfold execGarefFlitReceive at ht
  grind [modGaref_mem, count_mem]

theorem execGarefLinkDown_wf {port : Nat} {s t : State} (h : Memory.wf s.mem = true)
    (ht : execGarefLinkDown port s = .next t) : Memory.wf t.mem = true := by
  unfold execGarefLinkDown at ht
  grind [modGaref_mem]

theorem execGarefRetrainComplete_wf {port : Nat} {s t : State} (h : Memory.wf s.mem = true)
    (ht : execGarefRetrainComplete port s = .next t) : Memory.wf t.mem = true := by
  unfold execGarefRetrainComplete at ht
  grind [modGaref_mem]

theorem execPeerAccessArrival_wf {req : PeerReq} {s t : State} (h : Memory.wf s.mem = true)
    (ht : execPeerAccessArrival req s = .next t) : Memory.wf t.mem = true := by
  unfold execPeerAccessArrival at ht
  grind [foldl_wf, foldl_mem, hears_mem, waitLines_mem, touchAll_wf, snoop_mem, afterHolds_wf, recallSpan_mem,
    engineWrite_wf, devStore_wf, respond_mem, noteCopy_mem, remoteChange_wf]

theorem execHostCacheRequest_wf {port line : Nat} {modify : Bool} {s t : State} (h : Memory.wf s.mem = true)
    (ht : execHostCacheRequest port line modify s = .next t) : Memory.wf t.mem = true := by
  unfold execHostCacheRequest at ht
  grind [draw_mem, respond_mem, noteCopy_mem]

theorem execEthernetFrameReceive_wf {port : Nat} {frame : List Byte} {fcs : Bool} {stamp : DWord} {s t : State}
    (h : Memory.wf s.mem = true)
    (ht : execEthernetFrameReceive port frame fcs stamp s = .next t) : Memory.wf t.mem = true := by
  unfold execEthernetFrameReceive at ht
  grind [foldl_wf, foldl_mem, waitLines_mem, snoop_mem, engineWrite_wf]

theorem execFirmwareImageUpdate_wf {image : Nat} {classical postQuantum : Bool} {s t : State}
    (h : Memory.wf s.mem = true)
    (ht : execFirmwareImageUpdate image classical postQuantum s = .next t) : Memory.wf t.mem = true := by
  unfold execFirmwareImageUpdate at ht
  grind

theorem execSpdmMeasurementRequest_wf {port : Nat} {s t : State} (h : Memory.wf s.mem = true)
    (ht : execSpdmMeasurementRequest port s = .next t) : Memory.wf t.mem = true := by
  unfold execSpdmMeasurementRequest at ht
  grind

theorem execTelemetryFlush_wf {orderly : Bool} {s t : State} (h : Memory.wf s.mem = true)
    (ht : execTelemetryFlush orderly s = .next t) : Memory.wf t.mem = true := by
  unfold execTelemetryFlush at ht
  grind [telemetry_mem]

theorem execColdStart_wf {s t : State} (ht : execColdStart s = .next t) : Memory.wf t.mem = true := by
  cases ht
  exact Memory.wf_reset

theorem execWarmStart_wf {s t : State} (h : Memory.wf s.mem = true)
    (ht : execWarmStart s = .next t) : Memory.wf t.mem = true := by
  unfold execWarmStart at ht
  grind [foldl_wf, foldl_mem, lcFlush_wf, telemetry_mem]

theorem execFabricEnumeration_wf {pkg : Nat} {s t : State} (h : Memory.wf s.mem = true)
    (ht : execFabricEnumeration pkg s = .next t) : Memory.wf t.mem = true := by
  unfold execFabricEnumeration at ht
  split at ht <;> cases ht
  · exact h
  · exact Memory.wf_puts (fun e : Host.Cell => renumber s.pkg pkg 1 e.1) (fun e => e.2) s.mem [] rfl

theorem execPtpCorrection_wf {offset : ℤ} {s t : State} (h : Memory.wf s.mem = true)
    (ht : execPtpCorrection offset s = .next t) : Memory.wf t.mem = true := by
  unfold execPtpCorrection at ht
  grind

theorem execPowerLimitWindow_wf {milliwatts : Nat} {s t : State} (h : Memory.wf s.mem = true)
    (ht : execPowerLimitWindow milliwatts s = .next t) : Memory.wf t.mem = true := by
  unfold execPowerLimitWindow at ht
  grind

theorem execLarderRefreshWindow_wf {die group : Nat} {enter : Bool} {s t : State} (h : Memory.wf s.mem = true)
    (ht : execLarderRefreshWindow die group enter s = .next t) : Memory.wf t.mem = true := by
  unfold execLarderRefreshWindow at ht
  grind [modDie_mem]

theorem execHgenIncrement_wf {die : Nat} {s t : State} (h : Memory.wf s.mem = true)
    (ht : execHgenIncrement die s = .next t) : Memory.wf t.mem = true := by
  unfold execHgenIncrement at ht
  grind [foldl_mem, modDie_mem, wakeCore_mem]

theorem execCoreRetentionSleep_wf {core : Nat} {s t : State} (h : Memory.wf s.mem = true)
    (ht : execCoreRetentionSleep core s = .next t) : Memory.wf t.mem = true := by
  unfold execCoreRetentionSleep at ht
  grind [modCore_mem]

theorem execCoreRetentionWake_wf {core : Nat} {s t : State} (h : Memory.wf s.mem = true)
    (ht : execCoreRetentionWake core s = .next t) : Memory.wf t.mem = true := by
  unfold execCoreRetentionWake at ht
  grind [wakeCore_mem]

theorem execUnassignedOpcodeIssue_wf {word : DWord} {s t : State} (h : Memory.wf s.mem = true)
    (ht : execUnassignedOpcodeIssue word s = .next t) : Memory.wf t.mem = true := by
  unfold execUnassignedOpcodeIssue at ht
  grind [raise_wf]

theorem execLenderRequestTimeout_wf {core idx : Nat} {s t : State} (h : Memory.wf s.mem = true)
    (ht : execLenderRequestTimeout core idx s = .next t) : Memory.wf t.mem = true := by
  have parked (ls : List ParkLane) (f : State → State) (pc : DWord) (wr : Bool) (hf : ∀ u, (f u).mem = u.mem) :
      Memory.wf (((s.park core (idx / 32) pc wr ls).map f).getD s).mem = true := by
    cases hp : s.park core (idx / 32) pc wr ls with
    | none => exact h
    | some v => exact (hf v).symm ▸ (park_mem _ _ _ _ _ _ v hp).symm ▸ h
  unfold execLenderRequestTimeout at ht
  dsimp only at ht
  split at ht
  · split at ht
    · cases ht; exact h
    · cases ht; exact parked _ _ _ _ (fun _ => rfl)
  · grind [modThread_mem]

theorem execGangBarrierRelease_wf {gang bar : Nat} {s t : State} (h : Memory.wf s.mem = true)
    (ht : execGangBarrierRelease gang bar s = .next t) : Memory.wf t.mem = true := by
  unfold execGangBarrierRelease at ht
  grind

theorem execSpeculativeRollback_wf {core slot lane : Nat} {s t : State} (h : Memory.wf s.mem = true)
    (ht : execSpeculativeRollback core slot lane s = .next t) : Memory.wf t.mem = true := by
  unfold execSpeculativeRollback at ht
  grind [rollLane_mem]

/-! ### The step -/

/-- Every instruction and every event keeps the canonical form. -/
theorem exec_wf {i : Instr} {s t : State} (h : Memory.wf s.mem = true) (ht : exec i s = .next t) : Memory.wf t.mem = true := by
  cases i with
  | br _ | call _ | dbnz _ | bz _ | bnz _ | bfull _ | bempty _ | bpend _ => exact issue_wf (branchIf_wf _ _) h ht
  | jmp _ | jcall _ | ret _ => exact issue_wf (jumpTo_wf _) h ht
  | pand _ | por _ | pxor _ | pandn _ => exact issue_wf (predOp_wf _) h ht
  | pset _ | pget _ | cmpi _ | cmp _ | ftime _ | rdcyc _ | rvpoll _ => exact issue_wf (perLane_wf _) h ht
  | add _ | sub _ | min _ | max _ | abs _ | mul _ | mad _ | addi _ | muli _ => exact issue_wf (arith_wf _) h ht
  | addc _ | subb _ => exact issue_wf (carry_wf _ _) h ht
  | mulhi _ | mulw _ | and _ | or _ | xor _ | andn _ | shl _ | shr _ | sar _ | ror _ | fsh _ | bfx _ | bfi _ | popc _
  | clz _ | andi _ | ori _ | lid _ | shli _ | shri _ | sari _ | bfxi _ | lea _ | sel _ | li _ | lda _ | fabs _
  | fneg _ | fcps _ | fclass _ | rvstat _ => exact issue_wf (bits_wf _) h ht
  | ld _ | lds _ | ldx _ | ldxs _ | ldnt _ | ldxnt _ | ldm _ => exact issue_wf (loadBody_wf _) h ht
  | ldnf _ => exact issue_wf ldnfBody_wf h ht
  | st _ | stx _ | stnt _ | stxnt _ | stm _ | stbe _ => exact issue_wf (storeBody_wf _ _) h ht
  | pf _ | pfx _ => exact issue_wf (prefetchBody_wf _) h ht
  | tlbp _ => exact issue_wf tlbpBody_wf h ht
  | tlbi _ => exact issue_wf tlbiBody_wf h ht
  | tlbs _ => exact issue_wf tlbsBody_wf h ht
  | pois _ => exact issue_wf poisBody_wf h ht
  | spmap _ | spmapz _ => exact issue_wf (spmapBody_wf _) h ht
  | spclr _ => exact issue_wf (fun x u hu => spBody_wf _ _ x u (fun s t e h => spadClear_wf s t e h) hu) h ht
  | spwb _ => exact issue_wf (fun x u hu => spBody_wf _ _ x u (fun s t e h => spadWriteBack_wf s t e h) hu) h ht
  | spdrop _ => exact issue_wf (fun x u hu => spBody_wf _ _ x u (fun s t e h => by rwa [spadDrop_mem]) hu) h ht
  | cas _ | swap _ | aadd _ | amin _ | amax _ | afadd _ | xadd _ | xrd _ | aand _ | aor _ | axor _ | ainc _ | xset _ =>
    exact issue_wf (atomBody_wf _ _ _) h ht
  | fence _ | fenceAcq _ | fenceRel _ => exact issue_wf (fenceBody_wf _) h ht
  | waitvEq _ | waitvNe _ => exact issue_wf (waitvBody_wf _) h ht
  | thopen _ => exact issue_wf openBody_wf h ht
  | thdesc _ => exact issue_wf descBody_wf h ht
  | thsplit _ => exact issue_wf splitBody_wf h ht
  | thacq _ => exact issue_wf acquireBody_wf h ht
  | threl _ => exact issue_wf (releaseBody_wf _ (fun s t e h => by rwa [dropTenure_mem])) h ht
  | thdown _ => exact issue_wf (releaseBody_wf _ (fun s t e h => by rwa [modHandle_mem])) h ht
  | thwb _ => exact issue_wf (releaseBody_wf _ (fun _ _ _ h => h)) h ht
  | thclose _ => exact issue_wf closeBody_wf h ht
  | thbind _ => exact issue_wf bindBody_wf h ht
  | thunbind _ => exact issue_wf unbindBody_wf h ht
  | thstat _ => exact issue_wf statBody_wf h ht
  | thext _ => exact issue_wf extBody_wf h ht
  | thprobe _ => exact issue_wf probeBody_wf h ht
  | fadd _ | fsub _ | fmul _ | fdiv _ | fma _ | fms _ | fsqrt _ | fscale _ | faddi _ | fmuli _ | fmai _ | frint _
  | fgetexp _ | fgetman _ => exact issue_wf (fpOp_wf _) h ht
  | fli _ | fcvt _ | fcvti _ | icvtf _ | fpk _ _ | fupk _ _ | bdq _ => exact issue_wf (fpCode_wf _) h ht
  | fmin _ | fmax _ => exact issue_wf (fPickOp_wf _) h ht
  | fcmp _ | fcmpi _ | fdot2 _ => exact issue_wf (fpLanes_wf _) h ht
  | frcpe _ | frsqe _ => exact issue_wf (fpEstimate_wf _) h ht
  | fex2 _ | flg2 _ | fsinpi _ | fcospi _ => exact issue_wf (fpFunction_wf _) h ht
  | shfl _ | shup _ | shdn _ | shxor _ | vote _ | ballot _ | scan _ | bqnt _ | fredAdd _ | fredMin _ | fredMax _ =>
    exact issue_wf collective_wf h ht
  | mlds _ | mswap _ => exact issue_wf matPlain_wf h ht
  | mldl _ => exact issue_wf matLoadMem_wf h ht
  | mmul _ | mmulz _ | acst _ | acld _ | acsclRow _ | acsclCol _ | acnrm _ | acredMax _ | acredSum _ | acbias _ =>
    exact issue_wf (matRows_wf _) h ht
  | cvinit _ => exact issue_wf cvinitBody_wf h ht
  | msign _ => exact issue_wf msignBody_wf h ht
  | mwait _ => exact issue_wf mwaitBody_wf h ht
  | acrd _ => exact execAcrd_wf h ht
  | acwr _ => exact execAcwr_wf h ht
  | acclr _ => exact issue_wf acclrBody_wf h ht
  | cpy _ => exact issue_wf cpyBody_wf h ht
  | fill _ => exact issue_wf fillBody_wf h ht
  | cpts _ => exact issue_wf cptsBody_wf h ht
  | cpfs _ => exact issue_wf cpfsBody_wf h ht
  | cpald _ | cpast _ => exact issue_wf (accCopy_wf _) h ht
  | gcp _ => exact issue_wf gcpBody_wf h ht
  | gcpts _ => exact issue_wf gcptsBody_wf h ht
  | expf _ | exwb _ => exact issue_wf (cacheCopy_wf _) h ht
  | waitlt _ => exact issue_wf waitltBody_wf h ht
  | ldts _ => exact execLdts_wf h ht
  | stts _ => exact execStts_wf h ht
  | refine _ | rfres _ | rfchk _ => exact issue_wf (refineBody_wf _) h ht
  | rfcancel _ => exact execRfcancel_wf h ht
  | rfwait _ => exact execRfwait_wf h ht
  | rfstat _ => exact execRfstat_wf h ht
  | mfs _ => exact issue_wf mfsBody_wf h ht
  | mts _ | mtsset _ | mtsclr _ => exact issue_wf (mtsBody_wf _ _) h ht
  | tret _ => exact issue_wf tretBody_wf h ht
  | tmask _ | tunmask _ => exact issue_wf (maskBody_wf _) h ht
  | tabort _ => exact issue_wf tabortBody_wf h ht
  | tmplace _ => exact issue_wf placeBody_wf h ht
  | tmsave _ => exact issue_wf saveBody_wf h ht
  | tmrest _ => exact issue_wf restBody_wf h ht
  | tmflush _ | tmkill _ => exact issue_wf (flushBody_wf _) h ht
  | tkdone _ => exact issue_wf doneBody_wf h ht
  | tkclaim _ => exact issue_wf claimBody_wf h ht
  | fwidle _ => exact issue_wf idleBody_wf h ht
  | fwsev _ => exact issue_wf sevBody_wf h ht
  | qpost _ => exact issue_wf qpostBody_wf h ht
  | lsreq _ => exact issueRow_wf lsreqBody_wf h ht
  | lsrenew _ => exact issueRow_wf lsrenewBody_wf h ht
  | lsdrop _ => exact issueRow_wf lsdropBody_wf h ht
  | exlend _ => exact issueRow_wf exlendBody_wf h ht
  | lsrecall _ => exact issueRow_wf lsrecallBody_wf h ht
  | lsrd _ => exact issueRow_wf lsrdBody_wf h ht
  | kyopen _ => exact issueRow_wf kyopenBody_wf h ht
  | kyclose _ => exact issueRow_wf kycloseBody_wf h ht
  | exmig _ => exact issueRow_wf exmigBody_wf h ht
  | rvinit _ | gbinit _ => exact issue_wf (initBody_wf _) h ht
  | rvarrive _ | gbarrive _ => exact issue_wf (arriveBody_wf _) h ht
  | rvwait _ | gbwait _ => exact issue_wf (waitBody_wf _) h ht
  | rvsync _ | gbsync _ => exact issue_wf (syncBody_wf _) h ht
  | rvwaitSpec _ => exact issue_wf waitSpecBody_wf h ht
  | exit _ => exact execExit_wf h ht
  | yield _ => exact execYield_wf h ht
  | nop _ | thpf _ | specwait _ => exact issue_wf (body := fun x s => .done s x.ex) (fun _ _ hu => hu) h ht
  | pause _ => exact execPause_wf h ht
  | brk _ => exact execBrk_wf h ht
  | mstat _ => exact execMstat_wf h ht
  | mplane _ => exact execMplane_wf h ht
  | ccrd _ => exact execCcrd_wf h ht
  | tsstat _ => exact execTsstat_wf h ht
  | mstclr _ => exact execMstclr_wf h ht
  | ccadd _ => exact execCcadd_wf h ht
  | ccclr _ => exact execCcclr_wf h ht
  | tsfree _ => exact execTsfree_wf h ht
  | fmcand _ => exact execFmcand_wf h ht
  | pauseExpiry _ _ _ => exact execPauseExpiry_wf h ht
  | joinRelease _ _ _ => exact execJoinRelease_wf h ht
  | atomicPerform _ _ => exact execAtomicPerform_wf h ht
  | waitvReread _ _ _ => exact execWaitvReread_wf h ht
  | tileDirectoryRequest _ => exact execTileDirectoryRequest_wf h ht
  | laneCollectiveCompletion _ _ _ => exact execLaneCollectiveCompletion_wf h ht
  | matrixCommandStart _ _ => exact execMatrixCommandStart_wf h ht
  | matrixBlockDone _ _ => exact execMatrixBlockDone_wf h ht
  | matrixCommandComplete _ _ => exact execMatrixCommandComplete_wf h ht
  | engineUnitStart _ _ => exact execEngineUnitStart_wf h ht
  | engineUnitPerformed _ _ => exact execEngineUnitPerformed_wf h ht
  | engineCommandStart _ _ => exact execEngineCommandStart_wf h ht
  | refineBlockStart _ => exact execRefineBlockStart_wf h ht
  | refineItemEnd _ => exact execRefineItemEnd_wf h ht
  | refineBlockEnd _ => exact execRefineBlockEnd_wf h ht
  | refineTrapDelivery _ => exact execRefineTrapDelivery_wf h ht
  | gangPlacement _ => exact execGangPlacement_wf h ht
  | headAging _ => exact execHeadAging_wf h ht
  | gangStartRelease _ => exact execGangStartRelease_wf h ht
  | ticketRetire _ => exact execTicketRetire_wf h ht
  | journalTakeover _ => exact execJournalTakeover_wf h ht
  | queueNotify _ => exact execQueueNotify_wf h ht
  | queueDescriptorWrite _ _ _ => exact execQueueDescriptorWrite_wf h ht
  | queueActivate _ => exact execQueueActivate_wf h ht
  | queueDestroy _ => exact execQueueDestroy_wf h ht
  | partmapWrite _ _ => exact execPartmapWrite_wf h ht
  | preemptionRequest _ _ => exact execPreemptionRequest_wf h ht
  | sliceExpiry _ _ => exact execSliceExpiry_wf h ht
  | urgentPreemptionTimeout _ _ => exact execUrgentPreemptionTimeout_wf h ht
  | drainTimeout _ _ => exact execDrainTimeout_wf h ht
  | teamCompletion _ _ => exact execTeamCompletion_wf h ht
  | savedTeamRestore _ => exact execSavedTeamRestore_wf h ht
  | parkedSubgroupReplay _ _ _ => exact execParkedSubgroupReplay_wf h ht
  | fltRec0Read _ => exact execFltRec0Read_wf h ht
  | efltRec0Read _ => exact execEfltRec0Read_wf h ht
  | fltAck _ _ => exact execFltAck_wf h ht
  | efltAck _ _ => exact execEfltAck_wf h ht
  | trPpcWrite _ _ => exact execTrPpcWrite_wf h ht
  | handlerWatchdogExpiry _ _ => exact execHandlerWatchdogExpiry_wf h ht
  | fmRoleLeaseRenew _ => exact execFmRoleLeaseRenew_wf h ht
  | fmRoleLeaseExpiry => exact execFmRoleLeaseExpiry_wf h ht
  | twlV _ _ _ => exact execTwlV_wf h ht
  | leaseRequestReceived _ => exact execLeaseRequestReceived_wf h ht
  | leaseGrantReceived _ => exact execLeaseGrantReceived_wf h ht
  | leaseReplyTimeout _ => exact execLeaseReplyTimeout_wf h ht
  | borrowerLeaseEnd _ => exact execBorrowerLeaseEnd_wf h ht
  | endingWritebackDone _ => exact execEndingWritebackDone_wf h ht
  | leaseRevokeReceived _ => exact execLeaseRevokeReceived_wf h ht
  | lenderTermExpiry _ => exact execLenderTermExpiry_wf h ht
  | leaseReleaseReceived _ => exact execLeaseReleaseReceived_wf h ht
  | backInvalidateSnoop _ _ => exact execBackInvalidateSnoop_wf h ht
  | recallCommit _ => exact execRecallCommit_wf h ht
  | leaseKeepalive _ _ => exact execLeaseKeepalive_wf h ht
  | peerSilent _ => exact execPeerSilent_wf h ht
  | leasectlWrite _ => exact execLeasectlWrite_wf h ht
  | registerWrite _ _ => exact execRegisterWrite_wf h ht
  | storeQueueDrain _ _ => exact execStoreQueueDrain_wf h ht
  | storePerformed _ _ => exact execStorePerformed_wf h ht
  | writeAfterHolds _ _ => exact execWriteAfterHolds_wf h ht
  | syncEngineUpdate _ _ => exact execSyncEngineUpdate_wf h ht
  | holdExpiry _ => exact execHoldExpiry_wf h ht
  | deferredResultArrival _ _ => exact execDeferredResultArrival_wf h ht
  | garefWindowAdvertise _ _ _ => exact execGarefWindowAdvertise_wf h ht
  | garefPause _ _ _ => exact execGarefPause_wf h ht
  | garefFlitReceive _ _ _ => exact execGarefFlitReceive_wf h ht
  | garefLinkDown _ => exact execGarefLinkDown_wf h ht
  | garefRetrainComplete _ => exact execGarefRetrainComplete_wf h ht
  | peerAccessArrival _ => exact execPeerAccessArrival_wf h ht
  | hostCacheRequest _ _ _ => exact execHostCacheRequest_wf h ht
  | ethernetFrameReceive _ _ _ _ => exact execEthernetFrameReceive_wf h ht
  | firmwareImageUpdate _ _ _ => exact execFirmwareImageUpdate_wf h ht
  | spdmMeasurementRequest _ => exact execSpdmMeasurementRequest_wf h ht
  | telemetryFlush _ => exact execTelemetryFlush_wf h ht
  | coldStart => exact execColdStart_wf ht
  | warmStart => exact execWarmStart_wf h ht
  | fabricEnumeration _ => exact execFabricEnumeration_wf h ht
  | ptpCorrection _ => exact execPtpCorrection_wf h ht
  | powerLimitWindow _ => exact execPowerLimitWindow_wf h ht
  | larderRefreshWindow _ _ _ => exact execLarderRefreshWindow_wf h ht
  | hgenIncrement _ => exact execHgenIncrement_wf h ht
  | coreRetentionSleep _ => exact execCoreRetentionSleep_wf h ht
  | coreRetentionWake _ => exact execCoreRetentionWake_wf h ht
  | unassignedOpcodeIssue _ => exact execUnassignedOpcodeIssue_wf h ht
  | lenderRequestTimeout _ _ => exact execLenderRequestTimeout_wf h ht
  | gangBarrierRelease _ _ => exact execGangBarrierRelease_wf h ht
  | speculativeRollback _ _ _ => exact execSpeculativeRollback_wf h ht

theorem houseStep_wf {s t : State} {n : Nat} (h : Memory.wf s.mem = true) (ht : s.houseStep n = .next t) :
    Memory.wf t.mem = true := by
  unfold State.houseStep at ht
  split at ht
  · cases ht; exact h
  split at ht
  · exact exec_wf (by exact h) ht
  · cases ht

theorem issueWord_wf {s t : State} {g : Grp} (h : Memory.wf s.mem = true) (ht : s.issueWord g = .next t) :
    Memory.wf t.mem = true := by
  have hf := fetch_wf s g.core g.slot g.pc.toNat h
  unfold State.issueWord at ht
  dsimp only at ht
  split at ht <;> rename_i u _ hu <;> rw [hu] at hf
  · cases ht; exact hf
  · cases ht; exact hf
  · cases ht; exact raise_wf _ _ _ _ _ hf
  · cases ht; rwa [parkFetch_mem]
  · rename_i w
    have hv := fetch_wf u g.core g.slot (g.pc + 8#64).toNat hf
    split at ht
    · split at ht
      · exact exec_wf hf ht
      · cases ht; exact raise_wf _ _ _ _ _ hf
    split at ht
    · split at ht <;> rename_i v _ hv' <;> rw [hv'] at hv
      · cases ht; exact hv
      · cases ht; exact hv
      · cases ht; exact raise_wf _ _ _ _ _ hv
      · cases ht; rwa [parkFetch_mem]
      · split at ht
        · exact exec_wf hv ht
        · cases ht; exact raise_wf _ _ _ _ _ hv
    · exact exec_wf hf ht

theorem offerGroup_wf {s t : State} {c w : Nat} {ls : List Nat} (h : Memory.wf s.mem = true)
    (ht : s.offerGroup c w ls = .next t) : Memory.wf t.mem = true := by
  unfold State.offerGroup at ht
  dsimp only at ht
  split at ht
  · cases ht; exact h
  split at ht
  · cases ht; exact h
  split at ht
  · rename_i hv
    cases ht
    exact convTrap_wf _ _ _ (by exact h) hv
  split at ht
  · cases ht
    exact runHeader_wf _ _ h
  · exact issueWord_wf (by exact h) ht

theorem offer_wf {s t : State} {c w l : Nat} (h : Memory.wf s.mem = true) (ht : s.offer c w l = .next t) :
    Memory.wf t.mem = true := by
  unfold State.offer at ht
  dsimp only at ht
  split at ht
  · cases ht; exact h
  split at ht
  · rename_i hu
    exact offerGroup_wf (offerGroup_wf h hu) ht
  · exact offerGroup_wf h ht

theorem issueNext_wf {s t : State} (h : Memory.wf s.mem = true) (ht : s.issueNext = .next t) : Memory.wf t.mem = true := by
  unfold State.issueNext at ht
  split at ht
  · exact offer_wf (by exact h) ht
  · cases ht; exact h

theorem idle_wf {s t : State} (h : Memory.wf s.mem = true) (ht : s.idle = .next t) : Memory.wf t.mem = true := by
  unfold State.idle at ht
  split at ht
  · exact exec_wf h ht
  · exact issueNext_wf h ht
  · split at ht
    · exact exec_wf h ht
    · cases ht; exact h

theorem move_wf {s t : State} {m : Move} (h : Memory.wf s.mem = true) (ht : s.move m = .next t) : Memory.wf t.mem = true := by
  cases m with
  | issue c w l =>
    simp only [State.move] at ht
    split at ht
    · exact offer_wf h ht
    · cases ht; exact h
  | house n =>
    simp only [State.move] at ht
    split at ht
    · exact houseStep_wf h ht
    · cases ht; exact h
  | event i =>
    simp only [State.move] at ht
    split at ht
    · cases ht; exact h
    · exact exec_wf h ht
  | ecc l => cases ht; rwa [eccError_mem]
  | eccBuffer y o => cases ht; rwa [eccBuffer_mem]

theorem step_wf {s t : State} (h : Memory.wf s.mem = true) (ht : step s = .next t) : Memory.wf t.mem = true := by
  unfold step State.stepOnce at ht
  dsimp only at ht
  split at ht
  · exact move_wf (by exact h) ht
  · exact idle_wf (by exact h) ht

/-- Settles O60: every operation of the model keeps the canonical form of memory, the few that write memory by
`tabPut` or a flush and all others by leaving it alone; so does every instruction, every event and every step. -/
theorem memoryStaysCanonical : Obligations.MemoryStaysCanonical :=
  ⟨fun _ _ h ht => step_wf h ht, fun _ _ _ h ht => exec_wf h ht⟩

end Sys2Proof.Machine
end

section
/-! SUPPORT. Start paths, enumeration, time, power and sleep, firmware and telemetry, and the manager's role (13 R429, R436 to
R438; 00 R8; 01 R24, R25; 06 R200; 07 R252, R253). -/

namespace Sys2Proof.Machine

/-! ### Tables, counters and the write-back of the lease cache -/

theorem tabFind_map {α : Type} (g : Nat → α → α) (k : Nat) (t : Tab α) :
    tabFind k (t.map (fun e => (e.1, g e.1 e.2))) = (tabFind k t).map (g k) := by
  induction t with
  | nil => rfl
  | cons e t ih =>
    rw [List.map_cons, tabFind, tabFind]
    by_cases h : e.1 = k
    · rw [if_pos h, if_pos h, h]; rfl
    · rw [if_neg h, if_neg h, ih]

theorem mem_insertNat (n m : Nat) (l : List Nat) : m ∈ insertNat n l ↔ m = n ∨ m ∈ l := by
  induction l with
  | nil => simp [insertNat]
  | cons a t ih =>
    unfold insertNat
    split
    · simp
    · split
      · subst_vars; simp
      · simp only [List.mem_cons, ih]; tauto

theorem tabGet_count (s : State) (n k m : Nat) :
    tabGet 0 m (s.count n k).counters = tabGet 0 m s.counters + (if m = n then k else 0) := by
  rw [State.count, tabGet_set]
  split
  · subst_vars; rfl
  · rfl

/-- A flush of the whole lease cache touches memory and the cache only. -/
theorem lcFlushAll_frame (ls : List CacheLine) (s : State) :
    ∃ m c, ls.foldl State.lcFlush s = { s with mem := m, lcache := c } := by
  induction ls generalizing s with
  | nil => exact ⟨s.mem, s.lcache, rfl⟩
  | cons a t ih =>
    obtain ⟨m, c, h⟩ := ih (s.lcFlush a)
    exact ⟨m, c, h⟩

/-- The sensors' own counters are 5, 6, 7 and the histogram from 512 on. -/
theorem telemetry_counter (s : State) (m : Nat) (h6 : m ≠ 6) (h7 : m ≠ 7) : tabGet 0 m s.telemetry.counters =
    tabGet 0 m s.counters + (if m = 5 then (s.time - s.booted) / 3600000000000 else 0) +
      (if m = 512 + (Config.freeBits s.free).toNat % 256 then 1 else 0) := by
  unfold State.telemetry
  rw [tabGet_count]
  simp only [tabGet_set, if_neg h6, if_neg h7, tabGet_count]
  rfl

theorem countStart_start (s : State) (n : Nat) (hn : n < 5) :
    tabGet 0 n (s.telemetry.countStart n) = tabGet 0 n s.counters + 1 := by
  rw [State.countStart, tabGet_set, if_pos rfl, telemetry_counter s n (by omega) (by omega), if_neg (by omega), if_neg (by omega)]

/-! ### Starts and the package number -/

theorem coldStart_result (s : State) : ∃ t, exec .coldStart s = .next t ∧ t.mem = [] ∧ t.cores = [] ∧ t.pkg = 0 ∧
    t.enumerated = false ∧ t.time = s.time ∧ t.cycles = 0 ∧ t.image = s.image ∧ t.flash = s.flash ∧
    (∀ c, t.core c = Core.init) ∧ (∀ q, t.queue q = {}) ∧ t.leasectl = 0x000003E800000000 ∧
    tabGet 0 0 t.counters = tabGet 0 0 s.counters + 1 ∧ t.booted = s.time :=
  ⟨_, rfl, rfl, rfl, rfl, rfl, rfl, rfl, rfl, rfl, fun _ => rfl, fun _ => rfl, rfl, countStart_start s 0 (by omega), rfl⟩

/-- What a warm start keeps of a die. -/
theorem die_warm (ds : Tab Die) (d : Nat) :
    tabGet {} d (ds.map (fun d => (d.1, ({ hgen := d.2.hgen, hbit := d.2.hbit } : Die)))) =
      { hgen := (tabGet {} d ds : Die).hgen, hbit := (tabGet {} d ds : Die).hbit } := by
  rw [tabGet, tabFind_map (fun _ x => { hgen := x.hgen, hbit := x.hbit }) d ds, tabGet]
  cases tabFind d ds <;> rfl

theorem warmStart_result (s : State) : ∃ t, exec .warmStart s = .next t ∧ (s.lcache = [] → ∀ pa, t.memByte pa = s.memByte pa) ∧
    t.lcache = [] ∧ t.poison = s.poison ∧ (∀ c, t.core c = Core.init) ∧ t.pkg = s.pkg ∧ t.enumerated = s.enumerated ∧
    t.time = s.time ∧ t.cycles = 0 ∧ t.contexts = [] ∧ (∀ q, t.queue q = {}) ∧ t.dirs = [] ∧ t.holds = [] ∧
    (∀ d, (t.die d).hgen = (s.die d).hgen ∧ (t.die d).blocks = []) ∧ t.borrowers = s.borrowers ∧ t.lenders = s.lenders ∧
    t.keys = s.keys ∧ (s.lcache = [] → tabGet 0 1 t.counters = tabGet 0 1 s.counters + 1) := by
  obtain ⟨m, c, hf⟩ := lcFlushAll_frame s.lcache s
  refine ⟨_, rfl, fun h pa => ?_, rfl, (congrArg State.poison hf :), fun _ => rfl, (congrArg State.pkg hf :),
    (congrArg State.enumerated hf :), (congrArg State.time hf :), rfl, rfl, fun _ => rfl, rfl, rfl, fun d => ?_,
    (congrArg State.borrowers hf :), (congrArg State.lenders hf :), (congrArg State.keys hf :), fun h => ?_⟩
  · simp only [State.memByte, h, List.foldl_nil]
  · simp only [State.die, hf, die_warm]
    exact ⟨trivial, trivial⟩
  · simp only [h, List.foldl_nil]
    exact countStart_start s 1 (by omega)

theorem tabFind_above (k : Nat) (t : Tab α) (h : tabAbove k t = true) : tabFind k t = none := by
  induction t with
  | nil => rfl
  | cons e t ih =>
    simp only [tabAbove, List.all_cons, Bool.and_eq_true, decide_eq_true_eq] at h
    rw [tabFind, if_neg (by omega)]
    exact ih h.2

theorem renumber_local (old new a : Nat) (h : a / 2 ^ 46 = old) : renumber old new 1 a = new * 2 ^ 46 + a % 2 ^ 46 := by
  unfold renumber
  rw [Nat.div_one, if_pos h, Nat.add_comm]

/-- Memory listed under a new package number, entry by entry. -/
theorem tabGet_renumbered (old new a : Nat) (ha : a < 2 ^ 46) (m acc : Tab Byte) (hs : tabSorted m = true)
    (hm : ∀ e ∈ m, e.1 / 2 ^ 46 = old) :
    tabGet 0 (new * 2 ^ 46 + a) (m.foldl (fun r e => tabPut 0 (renumber old new 1 e.1) e.2 r) acc) =
      (tabFind (old * 2 ^ 46 + a) m).getD (tabGet 0 (new * 2 ^ 46 + a) acc) := by
  induction m generalizing acc with
  | nil => rw [List.foldl_nil, tabFind, Option.getD_none]
  | cons e t ih =>
    obtain ⟨k, v⟩ := e
    have hk : k / 2 ^ 46 = old := hm (k, v) (List.mem_cons_self ..)
    rw [tabSorted_cons, Bool.and_eq_true] at hs
    rw [List.foldl_cons, ih _ hs.2 (fun e he => hm e (List.mem_cons_of_mem _ he)), tabGet_put,
      renumber_local old new k hk, tabFind]
    by_cases h : k = old * 2 ^ 46 + a
    · have habove : tabFind (old * 2 ^ 46 + a) t = none := by
        rw [← h]
        exact tabFind_above k t hs.1
      rw [if_pos h, habove, if_pos (by omega)]
      rfl
    · rw [if_neg h, if_neg (by omega)]

theorem fabricEnumeration_result (s : State) (p : Nat) (he : s.enumerated = false) (hp : p < 1024) :
    ∃ t, exec (.fabricEnumeration p) s = .next t ∧ t.pkg = p ∧ t.enumerated = true ∧
      (s.lcache = [] → tabSorted s.mem = true → (∀ e ∈ s.mem, e.1 / 2 ^ 46 = s.pkg) → ∀ a, a < 2 ^ 46 →
        t.memByte (p * 2 ^ 46 + a) = s.memByte (s.pkg * 2 ^ 46 + a)) := by
  refine ⟨_, if_neg (by simp [he, hp]), rfl, rfl, fun hl hs hm a ha => ?_⟩
  simp only [State.memByte, hl, List.find?_nil, Option.bind_none, Option.getD_none]
  rw [tabGet_renumbered s.pkg p a ha s.mem [] hs hm, tabGet]
  rfl

theorem fabricEnumeration_done (s : State) (p : Nat) (h : s.enumerated = true ∨ 1024 ≤ p) :
    exec (.fabricEnumeration p) s = .next s :=
  if_pos (by rw [Bool.or_eq_true, decide_eq_true_eq]; exact h)

/-! ### Time, refresh and sleep -/

theorem powerLimitWindow_result (s : State) (n : Nat) : exec (.powerLimitWindow n) s = .next
    (if s.powerLimit < n then { s with idling := true } else if n < s.powerLimit then { s with idling := false } else s) := rfl

/-- The groups of a die whose refresh windows stand open. -/
theorem mem_refresh (l : List Nat) (g h : Nat) (on : Bool) :
    h ∈ (if on then insertNat g l else l.filter (· != g)) ↔ if h = g then on = true else h ∈ l := by
  cases on
  · by_cases e : h = g <;> simp [e]
  · by_cases e : h = g <;> simp [e, mem_insertNat]

theorem die_modDie (s : State) (d k : Nat) (g : Die → Die) :
    (s.modDie d g).die k = if k = d then g (s.die d) else s.die k := by
  rw [State.die, State.modDie, tabGet_set]; rfl

theorem larderRefreshWindow_result (s : State) (d g : Nat) (on : Bool) (hg : g < 16) (hd : d < 4) (ho : refreshAt s.time g = on) :
    ∃ t, exec (.larderRefreshWindow d g on) s = .next t ∧ { t with dies := s.dies } = s ∧
      (∀ k, k ≠ d → t.die k = s.die k) ∧ { t.die d with refresh := (s.die d).refresh } = s.die d ∧
      (g ∈ (t.die d).refresh ↔ on = true) ∧ ∀ h, h ≠ g → (h ∈ (t.die d).refresh ↔ h ∈ (s.die d).refresh) := by
  refine ⟨_, if_neg ?_, rfl, fun k hk => ?_, ?_, ?_, fun h hh => ?_⟩
  · rintro (h | h | h)
    · exact h ho.symm
    · omega
    · exact absurd h (by simp only [Config.dies]; omega)
  · rw [die_modDie, if_neg hk]
  · rw [die_modDie, if_pos rfl]
  · rw [die_modDie, if_pos rfl]
    exact (mem_refresh _ _ _ _).trans (by rw [if_pos rfl])
  · rw [die_modDie, if_pos rfl]
    exact (mem_refresh _ _ _ _).trans (by rw [if_neg hh])

theorem larderRefreshWindow_other (s : State) (d g : Nat) (on : Bool) (h : 16 ≤ g ∨ 4 ≤ d ∨ refreshAt s.time g ≠ on) :
    exec (.larderRefreshWindow d g on) s = .next s := by
  refine if_pos ?_
  rcases h with h | h | h
  · exact .inr (.inl h)
  · exact .inr (.inr h)
  · exact .inl (Ne.symm h)

theorem refreshAt_iff (time g : Nat) : refreshAt time g = true ↔ (time + 64000 - 4000 * g % 64000) % 64000 < 2000 :=
  decide_eq_true_iff

theorem hgenIncrement_result (s : State) (d : Nat) (hd : d < 4) (h : (s.die d).hbit ≠ s.time.testBit 39) :
    exec (.hgenIncrement d) s = .next (((s.lateSleepers d).foldl State.wakeCore s).modDie d
      (fun x => { x with hgen := (x.hgen + 1) % 256, hbit := s.time.testBit 39 })) :=
  if_neg (by rintro (e | e); exacts [h e, absurd e (by simp only [Config.dies]; omega)])

theorem mem_lateSleepers (s : State) (d c : Nat) : c ∈ s.lateSleepers d ↔
    ∃ k h, (c, k) ∈ s.cores ∧ c / 36 = d ∧ k.sleep = some h ∧ 254 ≤ ((s.die d).hgen + 256 - h) % 256 := by
  simp only [State.lateSleepers, List.mem_map, List.mem_filter, Bool.and_eq_true, beq_iff_eq, Option.map_eq_some_iff,
    decide_eq_true_eq, dieOf]
  constructor
  · rintro ⟨⟨_, k⟩, ⟨hm, hd, h, hs, hl⟩, rfl⟩
    exact ⟨k, h, hm, hd, hs, hl⟩
  · rintro ⟨k, h, hm, hd, hs, hl⟩
    exact ⟨(c, k), ⟨hm, hd, h, hs, hl⟩, rfl⟩

theorem hgenIncrement_noneLate (s : State) (d : Nat) (hd : d < 4) (h : (s.die d).hbit ≠ s.time.testBit 39)
    (hl : s.lateSleepers d = []) : ∃ t, exec (.hgenIncrement d) s = .next t ∧ { t with dies := s.dies } = s ∧
      (∀ k, k ≠ d → t.die k = s.die k) ∧
      t.die d = { s.die d with hgen := ((s.die d).hgen + 1) % 256, hbit := s.time.testBit 39 } := by
  rw [hgenIncrement_result s d hd h, hl, List.foldl_nil]
  exact ⟨_, rfl, rfl, fun k hk => by rw [die_modDie, if_neg hk], by rw [die_modDie, if_pos rfl]⟩

theorem hgenIncrement_other (s : State) (d : Nat) (h : (s.die d).hbit = s.time.testBit 39 ∨ 4 ≤ d) :
    exec (.hgenIncrement d) s = .next s := if_pos h

theorem coreRetentionSleep_result (s : State) (c : Nat) (hc : c < 144) (hs : (s.core c).sleep = none) (hi : s.coreIdle c = true) :
    ∃ t, exec (.coreRetentionSleep c) s = .next t ∧ { t with cores := s.cores } = s ∧
      t.core c = { s.core c with sleep := some (s.die (c / 36)).hgen } ∧ ∀ k, k ≠ c → t.core k = s.core k :=
  ⟨_, if_pos (by simp [hs, hi, Config.cores, hc]), rfl, by rw [core_modCore, if_pos rfl]; rfl,
    fun k hk => by rw [core_modCore, if_neg hk]⟩

theorem coreRetentionSleep_other (s : State) (c : Nat) (h : (s.core c).sleep.isSome = true ∨ s.coreIdle c = false ∨ 144 ≤ c) :
    exec (.coreRetentionSleep c) s = .next s := by
  refine if_neg ?_
  simp only [Bool.and_eq_true, decide_eq_true_eq, Config.cores]
  rintro ⟨⟨hs, hi⟩, hc⟩
  rcases h with h | h | h
  · rw [Option.isNone_iff_eq_none.mp hs] at h; cases h
  · rw [h] at hi; cases hi
  · exact absurd (of_decide_eq_true hc) (Nat.not_lt.mpr h)

/-- A core in which some threads have met a conflict (08 R293). -/
def Core.conflicted (ls : List Loc) (b : Nat × Nat × Nat) (sees : Nat → Nat → Bool) (c : Nat) (k : Core) : Core :=
  { k with weaves := k.weaves.map (fun w => if sees c w.1 then (w.1, w.2.marked (fun l => decide (b = (c, w.1, l)))
      (lanesOf ((w.2.reads.filter (fun r => (ls.map Loc.sector).contains r.1)).foldl (fun m r => m ||| r.2) 0))) else w) }

theorem cores_conflicts (s : State) (ls : List Loc) (b : Nat × Nat × Nat) (sees : Nat → Nat → Bool) :
    (s.conflicts ls b sees).cores = s.cores.map (fun k => (k.1, k.2.conflicted ls b sees k.1)) := by
  simp only [State.conflicts, Core.conflicted, Weave.marked, decide_eq_true_eq]

theorem conflicted_unseen (ls : List Loc) (b : Nat × Nat × Nat) (sees : Nat → Nat → Bool) (c : Nat) (k : Core)
    (h : ∀ w, sees c w = false) : k.conflicted ls b sees c = k := by
  simp [Core.conflicted, h]

/-- Conflicts that only weaves of other cores can see leave a core as it was. -/
theorem core_conflicts_unseen (s : State) (ls : List Loc) (b : Nat × Nat × Nat) (sees : Nat → Nat → Bool) (k : Nat)
    (h : ∀ w, sees k w = false) : (s.conflicts ls b sees).core k = s.core k := by
  have hid : (fun x : Core => x.conflicted ls b sees k) = id := funext (fun x => conflicted_unseen ls b sees k x h)
  have hf := tabFind_map (fun k (x : Core) => x.conflicted ls b sees k) k s.cores
  rw [hid, Option.map_id] at hf
  rw [State.core, tabGet, cores_conflicts]
  exact congrArg (fun o => o.getD Core.init) hf

theorem conflicts_package (s : State) (ls : List Loc) (b : Nat × Nat × Nat) (sees : Nat → Nat → Bool) :
    { s.conflicts ls b sees with cores := s.cores } = s := rfl

/-- Copies that a core alone kept are given up: only that core's threads can have read them. -/
theorem conflicts_ofOwnHolds (c : Nat) (hc : c < 144) (hs : List Hold) (hh : ∀ h ∈ hs, h.core = c) (s : State) :
    let t := hs.foldl (fun s h => s.conflicts ((List.range 4).map (fun i => Loc.mem (h.line * 128 + 32 * i))) (201, 0, 0)
      (fun k _ => k == h.core || dieKeeper (dieOf k) == h.core)) s
    { t with cores := s.cores } = s ∧ (∀ k, k ≠ c → t.core k = s.core k) ∧
      ∀ w l, (t.thread c w l).plainly = (s.thread c w l).plainly := by
  induction hs generalizing s with
  | nil => exact ⟨rfl, fun _ _ => rfl, fun _ _ => rfl⟩
  | cons a t ih =>
    have ha := hh a (List.mem_cons_self ..)
    obtain ⟨h1, h2, h3⟩ := ih (fun h hm => hh h (List.mem_cons_of_mem _ hm)) (s.conflicts _ _ _)
    refine ⟨(congrArg (fun u : State => { u with cores := s.cores }) h1 :), fun k hk => (h2 k hk).trans ?_,
      fun w l => (h3 w l).trans ?_⟩
    · refine core_conflicts_unseen s _ _ _ k (fun _ => ?_)
      simp only [ha, Bool.or_eq_false_iff, beq_eq_false_iff_ne, dieKeeper]
      exact ⟨hk, by omega⟩
    · exact (alike_conflicts s _ _ _).threads c w l

theorem dropHolds_own (s : State) (c : Nat) (hc : c < 144) :
    ∃ cs, s.dropHolds (fun x => x.core == c) = { s with cores := cs, holds := s.holds.filter (fun x => x.core != c) } ∧
      (∀ k, k ≠ c → tabGet Core.init k cs = s.core k) ∧
      ∀ w l, (({ s with cores := cs } : State).thread c w l).plainly = (s.thread c w l).plainly := by
  obtain ⟨h1, h2, h3⟩ := conflicts_ofOwnHolds c hc (s.holds.filter (fun x => x.core == c))
    (fun h hm => by simpa using (List.mem_filter.mp hm).2) { s with holds := s.holds.filter (fun x => x.core != c) }
  exact ⟨_, (congrArg (fun u : State => { u with cores := (s.dropHolds (fun x => x.core == c)).cores }) h1 :), h2, h3⟩

theorem wakeCore_asleep (s : State) (c h : Nat) (hs : (s.core c).sleep = some h) : s.wakeCore c =
    (if h = (s.die (c / 36)).hgen then s else s.dropHolds (fun x => x.core == c)).modCore c (fun k => { k with sleep := none }) := by
  rw [State.wakeCore, hs]; rfl

theorem thread_awake (s : State) (c w l : Nat) :
    (s.modCore c (fun k => { k with sleep := none })).thread c w l = s.thread c w l := by
  rw [State.thread, State.weave, core_modCore, if_pos rfl]; rfl

theorem coreRetentionWake_result (s : State) (c h : Nat) (hc : c < 144) (hs : (s.core c).sleep = some h) :
    ∃ t, exec (.coreRetentionWake c) s = .next t ∧ (t.core c).sleep = none ∧ (∀ k, k ≠ c → t.core k = s.core k) ∧
      { t with cores := s.cores, holds := s.holds } = s ∧ (∀ w l, (t.thread c w l).plainly = (s.thread c w l).plainly) ∧
      (h = (s.die (c / 36)).hgen → t.holds = s.holds ∧ t.core c = { s.core c with sleep := none }) ∧
      (h ≠ (s.die (c / 36)).hgen → t.holds = s.holds.filter (fun x => x.core != c)) := by
  refine ⟨s.wakeCore c, rfl, ?_⟩
  rw [wakeCore_asleep s c h hs]
  by_cases hg : h = (s.die (c / 36)).hgen
  · rw [if_pos hg]
    exact ⟨by rw [core_modCore, if_pos rfl], fun k hk => by rw [core_modCore, if_neg hk], rfl,
      fun w l => by rw [thread_awake], fun _ => ⟨rfl, by rw [core_modCore, if_pos rfl]⟩, fun hn => absurd hg hn⟩
  · obtain ⟨cs, hd, ho, ht⟩ := dropHolds_own s c hc
    rw [if_neg hg, hd]
    exact ⟨by rw [core_modCore, if_pos rfl], fun k hk => by rw [core_modCore, if_neg hk]; exact ho k hk, rfl,
      fun w l => by rw [thread_awake]; exact ht w l, fun he => absurd he hg, fun _ => rfl⟩

/-! ### Attestation, telemetry and errors -/

theorem spdmMeasurementRequest_result (s : State) (p : Nat) :
    ∃ r, exec (.spdmMeasurementRequest p) s = .next { s with spdm := s.spdm ++ [(p, r)] } ∧
      ((∃ at_, s.activated = some at_ ∧ s.time < at_ + Config.activationNs) → r = none) ∧
      ((∀ at_, s.activated = some at_ → at_ + Config.activationNs ≤ s.time) →
        r = some { arch := 0x0100, stepping := 0x02 }) := by
  refine ⟨_, rfl, ?_, fun h => ?_⟩
  · rintro ⟨t, ht, hl⟩
    exact if_pos (by simp [State.activating, ht, hl])
  · refine if_neg ?_
    rw [State.activating]
    cases ha : s.activated with
    | none => simp
    | some t => simp [h t ha]

theorem telemetryFlush_result (s : State) (o : Bool) (h : o = true ∨ s.flushed + 3600000000000 ≤ s.time) :
    ∃ t, exec (.telemetryFlush o) s = .next t ∧ t.flash = t.counters ∧ t.flushed = s.time ∧
      (∀ n, n ≠ 5 → n ≠ 6 → n ≠ 7 → n < 512 ∨ 768 ≤ n → tabGet 0 n t.counters = tabGet 0 n s.counters) ∧
      (∃ k, k < 256 ∧ ∀ n, n < 256 → tabGet 0 (512 + n) t.counters = tabGet 0 (512 + n) s.counters + if n = k then 1 else 0) ∧
      tabGet 0 5 t.counters = tabGet 0 5 s.counters + (s.time - s.booted) / 3600000000000 ∧
      { t with flash := s.flash, counters := s.counters, flushed := s.flushed, booted := s.booted, free := s.free } = s := by
  have hk : (Config.freeBits s.free).toNat % 256 < 256 := Nat.mod_lt _ (by omega)
  refine ⟨_, congrArg Host.Outcome.next (if_pos (by rw [Bool.or_eq_true, decide_eq_true_eq]; exact h)), rfl, rfl,
    fun n h5 h6 h7 hr => ?_, ⟨_, hk, fun n hn => ?_⟩, ?_, rfl⟩
  · refine (telemetry_counter s n h6 h7).trans ?_
    rw [if_neg h5, if_neg (by omega), Nat.add_zero]
  · refine (telemetry_counter s (512 + n) (by omega) (by omega)).trans ?_
    rw [if_neg (by omega)]
    simp only [Nat.add_zero, Nat.add_left_cancel_iff]
  · refine (telemetry_counter s 5 (by omega) (by omega)).trans ?_
    rw [if_pos rfl, if_neg (by omega), Nat.add_zero]

theorem telemetryFlush_early (s : State) (h : s.time < s.flushed + 3600000000000) :
    exec (.telemetryFlush false) s = .next s :=
  congrArg Host.Outcome.next (if_neg (by simp [h]))

theorem step_ecc (s : State) (l : Loc) (rest : List Move) (h : s.agenda = .ecc l :: rest) :
    step s = .next (({ s.elapse with agenda := rest } : State).eccError l) := by
  have he : s.elapse.agenda = .ecc l :: rest := h
  simp only [step, State.stepOnce, he, State.move]

theorem step_eccBuffer (s : State) (y o : Nat) (rest : List Move) (h : s.agenda = .eccBuffer y o :: rest) :
    step s = .next (({ s.elapse with agenda := rest } : State).eccBuffer y o) := by
  have he : s.elapse.agenda = .eccBuffer y o :: rest := h
  simp only [step, State.stepOnce, he, State.move]

theorem eccError_mem_eq (s : State) (pa : Nat) (h : s.lcKept pa = none) :
    s.eccError (.mem pa) = (s.setPoison pa true).count (1280 + homeDie pa) 1 := by
  simp only [State.eccError, h, Option.getD_none]

theorem ecc_scratchpad (s : State) (y o c : Nat) (x : Team) (h : s.findTeam y = some (c, x)) :
    s.eccError (.spad y o) = (s.markPoison (.spad y o) true).count (1024 + c) 1 ∧
      s.eccBuffer y o = (s.modTeam y (fun x => { x with opPoison := insertNat (o / 32) x.opPoison })).count (1024 + c) 1 := by
  have hu : s.unitOf y = c := by rw [State.unitOf, h]; rfl
  rw [State.eccError, State.eccBuffer, hu]
  exact ⟨rfl, rfl⟩

/-! ### The manager's role -/

theorem fmRoleLeaseExpiry_stands (s : State) (h : s.fm.manager = none ∨ s.time < s.fm.expiry) :
    exec .fmRoleLeaseExpiry s = .next s := by
  refine if_neg ?_
  rintro ⟨hm, ht⟩
  rcases h with h | h
  · rw [h] at hm; cases hm
  · omega

theorem fmActive_some (m : FabricMgr) (now p : Nat) (hm : m.manager = some p) (ht : now < m.expiry) : m.active now = some p := by
  simp [FabricMgr.active, hm, Option.filter, ht]

theorem fmActive_none (m : FabricMgr) (now : Nat) (h : m.manager = none ∨ m.expiry ≤ now) : m.active now = none := by
  rw [FabricMgr.active, Option.filter_eq_none_iff]
  rintro p hp
  rcases h with h | h
  · rw [h] at hp; cases hp
  · simpa using h

theorem fmRoleLeaseRenew_manager (s : State) (n p : Nat) (hm : s.fm.manager = some p) (ht : s.time < s.fm.expiry)
    (hr : s.fm.renewed + 100000 ≤ s.time) (hp : p = s.pkg → Config.fmCandidates s.fm.epoch < 2 * n ∧ s.fm.priority ≠ 0) :
    exec (.fmRoleLeaseRenew n) s =
      .next { s with fm := { s.fm with expiry := s.time + 1000000, renewed := s.time } } := by
  show execFmRoleLeaseRenew n s = _
  simp only [execFmRoleLeaseRenew, fmActive_some s.fm s.time p hm ht]
  refine if_neg ?_
  rintro (h | ⟨he, h⟩)
  · omega
  · obtain ⟨hc, h0⟩ := hp he
    simp [hc, h0] at h

theorem fmRoleLeaseRenew_election (s : State) (n p : Nat) (hm : s.fm.manager = none ∨ s.fm.expiry ≤ s.time)
    (hw : s.fmWinner = some p) (hp : p = s.pkg → Config.fmCandidates s.fm.epoch < 2 * n) :
    exec (.fmRoleLeaseRenew n) s = .next { s with fm := { s.fm with
      manager := some p, expiry := s.time + 1000000, renewed := s.time, epoch := s.fm.epoch + 1, acked := s.fm.epoch } } := by
  show execFmRoleLeaseRenew n s = _
  simp only [execFmRoleLeaseRenew, fmActive_none s.fm s.time hm, hw]
  refine if_neg ?_
  rintro ⟨he, h⟩
  simp [hp he] at h

/-- Settles O53: each start, enumeration, power, sleep, firmware, telemetry and role event by its own law. -/
theorem startsPowerAndFirmware : Obligations.StartsPowerAndFirmware :=
  ⟨coldStart_result, warmStart_result, fabricEnumeration_result, fabricEnumeration_done, fun _ _ => rfl,
    powerLimitWindow_result, larderRefreshWindow_result, larderRefreshWindow_other, refreshAt_iff, hgenIncrement_result,
    mem_lateSleepers, hgenIncrement_noneLate, hgenIncrement_other, coreRetentionSleep_result, coreRetentionSleep_other,
    coreRetentionWake_result, fun _ _ a b => by cases a <;> cases b <;> rfl, spdmMeasurementRequest_result,
    telemetryFlush_result, telemetryFlush_early, step_ecc, step_eccBuffer, eccError_mem_eq, ecc_scratchpad,
    fun s n k m => ⟨tabGet_count s n k m, rfl⟩, fun _ hm he => if_pos ⟨hm, he⟩, fmRoleLeaseExpiry_stands,
    fmRoleLeaseRenew_manager, fmRoleLeaseRenew_election⟩

end Sys2Proof.Machine
end

section
/-! SUPPORT. The statement on faults and register writes speaks of the hollowed registers of every thread, speculating ones
included. -/

namespace Sys2Proof.Machine

/-- A speculating thread that has kept nothing yet. -/
def speculating : Thread := { spec := some {} }

/-- A register of a speculating thread that is left empty is first kept in the undo record (08 R291). -/
theorem hollowed_speculating : (speculating.hollowed [0]).spec = some { undo := [(0, {})] } := rfl

/-- Refutes O48: its clause on hollowed registers says that nothing of the thread but its registers and the list of hollow
ones changes, but a speculating thread's undo record changes too. The thread `speculating` with register 0 is the
counterexample. -/
theorem not_faultsAndRegisterWrites : ¬ Obligations.FaultsAndRegisterWrites := by
  intro h
  obtain ⟨-, -, -, -, -, -, -, -, -, -, -, -, -, -, -, -, -, -, -, -, hollow, -⟩ := h
  have frame := (hollow speculating [0]).2.1
  have hspec : (speculating.hollowed [0]).spec = speculating.spec := (congrArg Thread.spec frame :)
  rw [hollowed_speculating] at hspec
  exact absurd hspec (by decide)

end Sys2Proof.Machine
end

section
/-! SUPPORT. The statement on memory speaks of every byte of a team's scratchpad, those of lines not yet filled included. -/

namespace Sys2Proof.Machine

/-- Team 1 of core 0 has the first line of its scratchpad mapped to the first line of HBM, and the line has not yet been
filled. -/
def unfilledLine : State :=
  { cores := [(0, { Core.init with teams := [(1, { maps :=
    [(0, { va := 0, off := 0, len := 128, zero := false, segs := [{ off := 0, len := 128, pa := 0 }] })] })] })] }

/-- A store to a line that is still to be filled does not make it filled: the model's accesses fill it first (06 R194), so a
bare write is hidden by what the fill would bring. -/
theorem getByte_putByte_unfilled : (unfilledLine.putByte (.spad 1 0) 1).getByte (.spad 1 0) = 0 := by decide

/-- Refutes O58: its clause on scratchpads says that a byte written reads back whatever the state of its line. The state
`unfilledLine` is the counterexample: 1 is written and 0 is read. -/
theorem not_memoryReadAfterWrite : ¬ Obligations.MemoryReadAfterWrite := by
  intro h
  obtain ⟨-, -, spad, -⟩ := h
  have hread := (spad unfilledLine 1 0 1 (by decide) (by decide)).1
  rw [getByte_putByte_unfilled] at hread
  exact absurd hread (by decide)

end Sys2Proof.Machine
end

section
/-! SUPPORT. The words that the spec writes out, decoded by running the decoder. -/

namespace Sys2Proof.Machine

/-- Settles O54: the decoder runs on each of the words. -/
theorem specWordsDecode : Obligations.SpecWordsDecode :=
  ⟨rfl, rfl, rfl, rfl, rfl, rfl, rfl, rfl, rfl, rfl, rfl, rfl, rfl, rfl, rfl, rfl, rfl, rfl⟩

end Sys2Proof.Machine
end

section
/-! SUPPORT. A step runs what it decodes: whom an offer of issue reaches, what a body word and a header lead to, and the
heads of the agenda (02 R46, R62, R66 to R75; 03 R88, R91, R92). -/

namespace Sys2Proof.Machine

/-! ### The group that an offer reaches -/

/-- The state whose cursor names the lanes `ls` of a weave. -/
abbrev State.pointedAt (s : State) (c w : Nat) (ls : List Nat) : State :=
  { s with cur := { s.cur with core := c, slot := w, lanes := maskOf ls } }

theorem offerGroup_of_group {s : State} {c w : Nat} {ls : List Nat} {g : Grp} (hls : ls ≠ [])
    (hg : (s.pointedAt c w ls).group = some g) (hc : (s.pointedAt c w ls).convTrap g = none) :
    s.offerGroup c w ls = if g.ctl.entry then .next ((s.pointedAt c w ls).runHeader g) else (s.pointedAt c w ls).issueWord g := by
  unfold State.offerGroup
  rw [if_neg (by simpa using hls)]
  dsimp only
  rw [hg]
  dsimp only
  rw [hc]

theorem offerGroup_nil (s : State) (c w : Nat) : s.offerGroup c w [] = .next s := rfl

theorem offer_of_mates {s : State} {c w l : Nat} (hw : (tabFind w (s.core c).weaves).isSome = true)
    (ho : (s.thread c w l).offers = true) (hm : s.mayIssue c w l = true) {t : State}
    (ht : s.offerGroup c w ((s.mates c w l).filter (fun m => (s.thread c w m).spec.isNone)) = .next t) :
    s.offer c w l = t.offerGroup c w ((s.mates c w l).filter (fun m => (s.thread c w m).spec.isSome &&
      (t.thread c w m).spec.isSome && (t.thread c w m).offers && (s.thread c w m).standsWith (t.thread c w m))) := by
  unfold State.offer
  rw [if_neg (by simp [hw, ho, hm, ← Option.not_isSome])]
  dsimp only
  rw [ht]

/-- Where none of the lanes speculates, the group issues whole. -/
theorem offer_of_none_speculates {s : State} {c w l : Nat} (hw : (tabFind w (s.core c).weaves).isSome = true)
    (ho : (s.thread c w l).offers = true) (hm : s.mayIssue c w l = true)
    (hs : ∀ m ∈ s.mates c w l, (s.thread c w m).spec = none) : s.offer c w l = s.offerGroup c w (s.mates c w l) := by
  have hall : (s.mates c w l).filter (fun m => (s.thread c w m).spec.isNone) = s.mates c w l :=
    List.filter_eq_self.2 (fun m h => by rw [hs m h]; rfl)
  unfold State.offer
  rw [if_neg (by simp [hw, ho, hm, ← Option.not_isSome])]
  dsimp only
  rw [hall]
  cases hr : s.offerGroup c w (s.mates c w l) with
  | next t =>
    have hnone : (s.mates c w l).filter (fun m => (s.thread c w m).spec.isSome && (t.thread c w m).spec.isSome &&
        (t.thread c w m).offers && (s.thread c w m).standsWith (t.thread c w m)) = [] :=
      List.filter_eq_nil_iff.2 (fun m h => by simp [hs m h])
    dsimp only
    rw [hnone, offerGroup_nil]
  | _ => rfl

theorem standsWith_iff {t u : Thread} : t.standsWith u = true ↔ u.ctl.pc = t.ctl.pc ∧ u.ctl.entry = t.ctl.entry := by
  simp [Thread.standsWith]

theorem mem_waiters {s : State} {c w l m : Nat} (h : m ∈ s.waiters c w l) : (s.thread c w m).offers = true := by
  simp only [State.waiters, List.mem_filter, Bool.and_eq_true] at h
  exact h.2.1.1.1.1.1

theorem mem_mates {s : State} {c w l m : Nat} (h : m ∈ s.mates c w l) :
    m < 32 ∧ s.mayIssue c w m = true ∧ (s.thread c w m).offers = true ∧
      (s.thread c w m).ctl.pc = (s.thread c w l).ctl.pc ∧ (s.thread c w m).ctl.entry = (s.thread c w l).ctl.entry := by
  simp only [State.mates, List.mem_filter, List.mem_range, Bool.and_eq_true, Bool.or_eq_true, List.contains_iff_mem] at h
  obtain ⟨hlt, ⟨hw, hi⟩, ho⟩ := h
  refine ⟨hlt, hi, ?_, standsWith_iff.1 hw⟩
  rcases ho with (⟨ho, -⟩ | hl) | ⟨hm, -⟩
  · exact ho
  · exact mem_waiters hl
  · exact mem_waiters hm

theorem mates_of_ready {s : State} {c w l m : Nat} (hlt : m < 32) (hi : s.mayIssue c w m = true)
    (ho : (s.thread c w m).offers = true) (hr : (s.thread c w m).mode = .ready)
    (hpc : (s.thread c w m).ctl.pc = (s.thread c w l).ctl.pc)
    (he : (s.thread c w m).ctl.entry = (s.thread c w l).ctl.entry) : m ∈ s.mates c w l := by
  simp [State.mates, hlt, hi, ho, hr, standsWith_iff, hpc, he]

/-! ### The heads of the agenda -/

theorem step_issue {s : State} {c w l : Nat} {rest : List Move} (hc : c < 144) (ha : s.agenda = .issue c w l :: rest) :
    step s = ({ s.elapse with agenda := rest } : State).offer c w l := by
  have hs : s.elapse.agenda = .issue c w l :: rest := ha
  unfold step State.stepOnce
  dsimp only
  rw [hs]
  exact if_pos hc

theorem step_event {s : State} {i : Instr} {rest : List Move} (ha : s.agenda = .event i :: rest) (hi : i.isWord = false) :
    step s = exec i { s.elapse with agenda := rest } := by
  have hs : s.elapse.agenda = .event i :: rest := ha
  unfold step State.stepOnce
  dsimp only
  rw [hs]
  exact if_neg (by simp [hi])

theorem step_house {s : State} {n : Nat} {rest : List Move} (hn : n < 16) (ha : s.agenda = .house n :: rest) :
    step s = ({ s.elapse with agenda := rest } : State).houseStep n := by
  have hs : s.elapse.agenda = .house n :: rest := ha
  unfold step State.stepOnce
  dsimp only
  rw [hs]
  exact if_pos hn

theorem houseStep_decoded {s : State} {n : Nat} {i : Instr} (hb : s.houseBarred n = false)
    (hd : decodeHouse (s.houseWord n) = some i) : s.houseStep n = exec i { s with cur := { s.cur with house := n } } := by
  unfold State.houseStep
  rw [if_neg (by simp [hb]), hd]

/-- With nothing on the agenda, the turn after an even tick is an issue's (log entry 3). -/
theorem idle_issue {s : State} {c w l : Nat} {due : List Nat} {last : Nat} (ht : s.tick % 2 = 1) (hi : s.idling = false)
    (hn : s.nextIssue = some (c, w, l, due, last)) :
    s.idle = (({ s with lastCore := c } : State).modCore c (fun k => { k with due := due, lastSlot := last })).offer c w l := by
  unfold State.idle State.issueNext
  rw [if_neg (by omega), hn, if_neg (by simp [hi])]
  rfl

theorem step_turn {s : State} {c w l : Nat} {due : List Nat} {last : Nat} (ha : s.agenda = []) (ht : s.tick % 2 = 0)
    (hi : s.idling = false) (hn : s.elapse.nextIssue = some (c, w, l, due, last)) :
    step s = (({ s.elapse with lastCore := c } : State).modCore c (fun k => { k with due := due, lastSlot := last })).offer c w l := by
  have hs : s.elapse.agenda = [] := ha
  have hidle : step s = s.elapse.idle := by
    unfold step State.stepOnce
    dsimp only
    rw [hs]
  have htick : s.elapse.tick = s.tick + 1 := rfl
  rw [hidle]
  exact idle_issue (s := s.elapse) (by omega) hi hn

/-! ### Body words -/

theorem issueWord_decoded {s u : State} {g : Grp} {w : DWord} {i : Instr}
    (hf : s.fetch g.core g.slot g.pc.toNat = (u, .word w)) (hd : decodeWord w 0 = .ok i)
    (hk : majorForm (majorOf w) ≠ some .L ∨ u.staticReason g (i.fields.getD {}) i.row ≠ 0) : s.issueWord g = exec i u := by
  have hone : ¬ (decide (majorForm (majorOf w) = some .L) && !u.staticBad g i) = true := by
    rw [Bool.and_eq_true, decide_eq_true_iff, Bool.not_eq_true', State.staticBad, bne_eq_false_iff_eq]
    exact fun h => hk.elim (absurd h.1) (absurd h.2)
  unfold State.issueWord
  rw [hf]
  dsimp only
  rw [hd]
  exact if_neg hone

/-- An L-form is decoded with its second word, fetched after the static check (02 R62, R75). -/
theorem issueWord_second {s u v : State} {g : Grp} {w w2 : DWord} {i j : Instr}
    (hf : s.fetch g.core g.slot g.pc.toNat = (u, .word w)) (hd : decodeWord w 0 = .ok i)
    (hk : majorForm (majorOf w) = some .L) (hr : u.staticReason g (i.fields.getD {}) i.row = 0)
    (hf2 : u.fetch g.core g.slot (g.pc + 8#64).toNat = (v, .word w2)) (hd2 : decodeWord w w2 = .ok j) :
    s.issueWord g = exec j v := by
  have htwo : (decide (majorForm (majorOf w) = some .L) && !u.staticBad g i) = true := by
    rw [State.staticBad, hr, hk]
    rfl
  unfold State.issueWord
  rw [hf]
  dsimp only
  rw [hd]
  refine (if_pos htwo).trans ?_
  rw [hf2]
  dsimp only
  rw [hd2]

theorem issueWord_illegal {s u : State} {g : Grp} {w : DWord} {r : Nat}
    (hf : s.fetch g.core g.slot g.pc.toNat = (u, .word w)) (hd : decodeWord w 0 = .illegal r) :
    s.issueWord g = if r = 1 ∨ r = 4 then exec (.unassignedOpcodeIssue w) u
      else .next (u.raise g 1 (if majorForm (majorOf w) = some .L ∧ u.atLast g = true then 1 else r) g.lanes) := by
  unfold State.issueWord
  rw [hf]
  dsimp only
  rw [hd]
  simp only [State.illegalReason, Bool.and_eq_true, beq_iff_eq]
  rfl

/-! ### Headers -/

/-- A group at a header whose word the fetch finds and no lane of which is held (02 R66 to R71, 03 R91). -/
structure HeaderFetched (s : State) (g : Grp) (u : State) (v : DWord) : Prop where
  free : ∀ l ∈ g.lanes, (s.weave g.core g.slot).heldAt g.pc l = false
  word : s.fetch g.core g.slot g.pc.toNat = (u, .word v)

/-- The checks of a header's own word (02 R67, R71). -/
structure HeaderGood (u : State) (g : Grp) (v : DWord) : Prop where
  marker : isMarker v = true
  goes : (hdrSp v && u.stopsAt g.core g.slot) = false
  plain : (hdrNs v && g.spec) = false
  len : hdrLen v ≠ 0
  spare : v.extractLsb' 3 3 = 0

theorem HeaderFetched.none_held {s u : State} {g : Grp} {v : DWord} (h : HeaderFetched s g u v) :
    g.lanes.filter (fun l => (s.weave g.core g.slot).heldAt g.pc l) = [] :=
  List.filter_eq_nil_iff.2 (fun l hl => by simp [h.free l hl])

section
variable {s u : State} {g : Grp} {v : DWord} (h : HeaderFetched s g u v)
include h

theorem runHeader_noMarker (hm : isMarker v = false) : s.runHeader g = u.raise g 1 1 g.lanes := by
  simp [State.runHeader, h.none_held, h.word, hm, trapIllegal]

theorem runHeader_stops (hm : isMarker v = true) (hs : (hdrSp v && u.stopsAt g.core g.slot) = true) :
    s.runHeader g = u.stopHere g v := by
  simp only [State.runHeader, h.none_held, h.word, hm, hs]
  simp

theorem runHeader_noSpec (hm : isMarker v = true) (hs : (hdrSp v && u.stopsAt g.core g.slot) = false)
    (hn : hdrNs v = true) (hg : g.spec = true) : s.runHeader g = u.hold g g.lanes := by
  simp only [State.runHeader, h.none_held, h.word, hm, hs, hn, hg]
  simp

theorem runHeader_malformed (hm : isMarker v = true) (hs : (hdrSp v && u.stopsAt g.core g.slot) = false)
    (hn : (hdrNs v && g.spec) = false) (hb : hdrLen v = 0 ∨ v.extractLsb' 3 3 ≠ 0) :
    s.runHeader g = u.raise g 1 2 g.lanes := by
  have hbad : (decide (hdrLen v = 0) || v.extractLsb' 3 3 != 0) = true := by simpa using hb
  simp only [State.runHeader, h.none_held, h.word, hm, hs, hn, hbad]
  simp [trapIllegal]

theorem runHeader_noJoin (k : HeaderGood u g v) (hr : hdrRcv v = 0) :
    s.runHeader g = u.modWeave g.core g.slot (fun x => x.enterBlock v g.pc u.tick g.lanes) := by
  simp only [State.runHeader, h.none_held, h.word, k.marker, k.goes, k.plain, k.len, k.spare, hr]
  simp

theorem runHeader_noTarget (k : HeaderGood u g v) (hr : hdrRcv v ≠ 0) {x : State} {y : DWord}
    (hf : u.fetch g.core g.slot (hdrTarget v g.pc).toNat = (x, .word y)) (hy : isMarker y = false) :
    s.runHeader g = x.raise g 1 3 g.lanes := by
  simp only [State.runHeader, h.none_held, h.word, k.marker, k.goes, k.plain, k.len, k.spare, hr, hf, hy]
  simp [trapIllegal]

theorem runHeader_join (k : HeaderGood u g v) (hr : hdrRcv v ≠ 0) {x : State} {y : DWord}
    (hf : u.fetch g.core g.slot (hdrTarget v g.pc).toNat = (x, .word y)) (hy : isMarker y = true) :
    s.runHeader g = x.modWeave g.core g.slot (fun z => z.enterBlock v g.pc x.tick g.lanes) := by
  simp only [State.runHeader, h.none_held, h.word, k.marker, k.goes, k.plain, k.len, k.spare, hr, hf, hy]
  simp

end

/-- The members of a join at the header wait there (03 R92). -/
theorem runHeader_held {s : State} {g : Grp} {l : Nat} {held : List Nat}
    (h : g.lanes.filter (fun l => (s.weave g.core g.slot).heldAt g.pc l) = l :: held) :
    s.runHeader g = s.modWeave g.core g.slot (fun x => ((l :: held).foldl (fun x l => x.arriveJoin g.pc l) x).releaseJoins) := by
  unfold State.runHeader
  dsimp only
  rw [h]

/-- A lane that has entered the block of a header (02 R67). -/
def Thread.entered (t : Thread) (w pc : DWord) (now : Nat) : Thread :=
  { t with ob := {}, mode := .ready, stamp := now, stop := none, lend := none,
           ctl := { t.ctl with bh := pc, pc := pc + 8, len := hdrLen w, entry := false } }

/-- One lane enters the block. -/
def Weave.enterLane (w pc : DWord) (now : Nat) (x : Weave) (l : Nat) : Weave :=
  let y := x.modThread l (fun t => t.entered w pc now)
  if hdrRcv w = 0 then y else { y with joins := addJoin y.keptJoins (hdrTarget w pc) (y.thread l).ctl.depth l y.joins }

theorem enterBlock_eq (x : Weave) (w pc : DWord) (now : Nat) (ls : List Nat) :
    x.enterBlock w pc now ls = ls.foldl (Weave.enterLane w pc now) x := rfl

theorem thread_enterLane (w pc : DWord) (now : Nat) (x : Weave) (l m : Nat) :
    (x.enterLane w pc now l).thread m = if m = l then (x.thread l).entered w pc now else x.thread m := by
  rw [← thread_modThread x l m (fun t => t.entered w pc now)]
  unfold Weave.enterLane
  split <;> rfl

theorem thread_enterBlock (w pc : DWord) (now : Nat) (ls : List Nat) (x : Weave) (m : Nat) (h : ls.Nodup) :
    (x.enterBlock w pc now ls).thread m = if m ∈ ls then (x.thread m).entered w pc now else x.thread m := by
  rw [enterBlock_eq]
  induction ls generalizing x with
  | nil => rfl
  | cons l t ih =>
    rw [List.nodup_cons] at h
    rw [List.foldl_cons, ih _ h.2, thread_enterLane]
    by_cases hm : m = l
    · subst hm; simp [h.1]
    · simp [hm]

theorem joins_enterBlock_none {w : DWord} (hr : hdrRcv w = 0) (pc : DWord) (now : Nat) (ls : List Nat) (x : Weave) :
    (x.enterBlock w pc now ls).joins = x.joins := by
  rw [enterBlock_eq]
  induction ls generalizing x with
  | nil => rfl
  | cons l t ih => rw [List.foldl_cons, ih, Weave.enterLane, if_pos hr]; rfl

/-! ### Join entries -/

section
variable {α β : Type} (p : α → List β) {d : α} (hd : p d = [])
include hd

theorem mem_flatten_of_tabGet (k : Nat) (t : Tab α) {b : β} (h : b ∈ p (tabGet d k t)) :
    b ∈ (t.map (fun e => p e.2)).flatten := by
  induction t with
  | nil => rw [tabGet, tabFind, Option.getD_none, hd] at h; cases h
  | cons e t ih =>
    rw [List.map_cons, List.flatten_cons, List.mem_append]
    by_cases hk : e.1 = k
    · rw [tabGet, tabFind, if_pos hk] at h
      exact .inl h
    · rw [tabGet, tabFind, if_neg hk] at h
      exact .inr (ih h)

/-- Where a new entry lists what the old one did, the whole table does: an unlisted key reads as `d`, which lists nothing. -/
theorem mem_flatten_tabSet (v : α) (k : Nat) (t : Tab α) (hv : p v = p (tabGet d k t)) (b : β) :
    b ∈ ((tabSet k v t).map (fun e => p e.2)).flatten ↔ b ∈ (t.map (fun e => p e.2)).flatten := by
  induction t with
  | nil => simp [tabSet, hv, tabGet, tabFind, hd]
  | cons e t ih =>
    have hold := mem_flatten_of_tabGet p hd k (e :: t) (b := b)
    rw [← hv] at hold
    rw [tabSet]
    split
    · simp only [List.map_cons, List.flatten_cons, List.mem_append] at hold ⊢
      tauto
    · split
      · rename_i hk
        rw [tabGet, tabFind, if_pos hk, Option.getD_some] at hv
        rw [List.map_cons, List.map_cons, List.flatten_cons, List.flatten_cons, hv]
      · rename_i hk
        rw [tabGet, tabFind, if_neg hk] at hv
        rw [List.map_cons, List.map_cons, List.flatten_cons, List.flatten_cons, List.mem_append, List.mem_append, ih hv]

end

/-- The entries that the table keeps for rollbacks stand where a thread changes but not its speculation. -/
theorem keptJoins_modThread (x : Weave) (l : Nat) (g : Thread → Thread) (h : (g (x.thread l)).spec = (x.thread l).spec) :
    (x.modThread l g).keptJoins = x.keptJoins := by
  have hmem := mem_flatten_tabSet (fun t : Thread => (t.spec.map (·.joins)).getD []) (d := {}) rfl (g (x.thread l)) l x.threads
    (by simp only [h]; rfl)
  unfold Weave.keptJoins
  rw [← List.card_toFinset, ← List.card_toFinset]
  congr 1
  ext k
  rw [List.mem_toFinset, List.mem_toFinset, List.mem_filter, List.mem_filter]
  exact and_congr_left' (hmem k)

/-- A lane alone that enters a block with an RCV joins the target's entry (03 R91). -/
theorem joins_enterBlock_one {w : DWord} (hr : hdrRcv w ≠ 0) (pc : DWord) (now l : Nat) (x : Weave) :
    (x.enterBlock w pc now [l]).joins = addJoin x.keptJoins (hdrTarget w pc) (x.thread l).ctl.depth l x.joins := by
  rw [enterBlock_eq, List.foldl_cons, List.foldl_nil, Weave.enterLane, if_neg hr, keptJoins_modThread x l _ (by rfl),
    thread_modThread, if_pos rfl]
  rfl

theorem any_sameEntry {t : DWord} {d : BitVec 16} {js : List JoinEnt} :
    js.any (fun e => e.target == t && e.depth == d) = true ↔ ∃ e ∈ js, e.target = t ∧ e.depth = d := by
  simp

/-- With no entry of the same target and depth, a lane takes a new one while there is room (03 R91). -/
theorem addJoin_new {kept : Nat} {t : DWord} {d : BitVec 16} {l : Nat} {js : List JoinEnt}
    (h : ∀ e ∈ js, e.target = t → e.depth ≠ d) : addJoin kept t d l js =
      if js.length + kept < 16 then js ++ [{ target := t, depth := d, members := 1#32 <<< l, arrived := 0 }] else js := by
  have hnone : js.any (fun e => e.target == t && e.depth == d) = false :=
    Bool.eq_false_iff.2 (fun ha => by
      obtain ⟨e, he, ht, hd⟩ := any_sameEntry.1 ha
      exact h e he ht hd)
  rw [addJoin, hnone, putJoin, hnone, Bool.false_or]
  exact if_congr decide_eq_true_iff rfl rfl

theorem addJoin_old {kept : Nat} {t : DWord} {d : BitVec 16} {l : Nat} {js : List JoinEnt}
    (h : ∃ e ∈ js, e.target = t ∧ e.depth = d) : addJoin kept t d l js =
      js.map (fun e => if e.target = t ∧ e.depth = d then { e with members := e.members ||| (1#32 <<< l) } else e) := by
  simp [addJoin, putJoin, any_sameEntry.2 h]

/-! ### The obligation -/

/-- What a group leaves that has entered the block of a header. -/
theorem entered_block (x : State) (g : Grp) (v : DWord) (hl : g.lanes.Nodup) :
    (∀ pa, (x.modWeave g.core g.slot (fun z => z.enterBlock v g.pc x.tick g.lanes)).memByte pa = x.memByte pa) ∧
    ∀ l, (x.modWeave g.core g.slot (fun z => z.enterBlock v g.pc x.tick g.lanes)).thread g.core g.slot l =
      if l ∈ g.lanes then (x.thread g.core g.slot l).entered v g.pc x.tick else x.thread g.core g.slot l := by
  refine ⟨fun _ => rfl, fun l => ?_⟩
  rw [State.thread, weave_modWeave, if_pos rfl]
  exact thread_enterBlock v g.pc x.tick g.lanes _ l hl

theorem offerGroup_word {s : State} {c w : Nat} {ls : List Nat} {g : Grp} (hls : ls ≠ [])
    (hg : (s.pointedAt c w ls).group = some g) (hc : (s.pointedAt c w ls).convTrap g = none) (he : g.ctl.entry = false) :
    s.offerGroup c w ls = (s.pointedAt c w ls).issueWord g := by
  rw [offerGroup_of_group hls hg hc, if_neg (by simp [he])]

theorem offerGroup_header {s : State} {c w : Nat} {ls : List Nat} {g : Grp} (hls : ls ≠ [])
    (hg : (s.pointedAt c w ls).group = some g) (hc : (s.pointedAt c w ls).convTrap g = none) (he : g.ctl.entry = true) :
    s.offerGroup c w ls = .next ((s.pointedAt c w ls).runHeader g) := by
  rw [offerGroup_of_group hls hg hc, if_pos he]

/-- Settles O56: an offer reaches the group that the cursor names; the cases of its word and of its header are the lemmas
above, and the agenda's head is what a step performs. -/
theorem stepRunsDecoded : Obligations.StepRunsDecoded := by
  unfold Obligations.StepRunsDecoded
  refine ⟨fun s c w ls g u w1 hls hg hc he hf => ⟨?_, ?_, ?_, ?_⟩, fun s c w l hw ho hm => offer_of_none_speculates hw ho hm,
    fun s c w l hw ho hm t => offer_of_mates hw ho hm, fun s c w l m => mem_mates,
    fun s c w l m => mates_of_ready, fun s c w l rest => step_issue, fun s c w l due last => step_turn,
    fun s i rest => step_event, fun s n rest i hn ha hb hd => ?_, fun s n rest hn ha hb => ?_, fun _ => rfl,
    ?_, ?_, ?_, ?_, ?_, ?_, ?_, ?_, fun _ _ _ _ _ => addJoin_new, fun _ _ _ _ _ => addJoin_old⟩
  · intro i hd hk
    rw [offerGroup_word hls hg hc he, issueWord_decoded hf hd hk]
  · intro i j v w2 hd hk hr hf2 hd2
    rw [offerGroup_word hls hg hc he, issueWord_second hf hd hk hr hf2 hd2]
  · intro r hd h1 h4
    rw [offerGroup_word hls hg hc he, issueWord_illegal hf hd, if_neg (by omega)]
  · intro r hd hr
    rw [offerGroup_word hls hg hc he, issueWord_illegal hf hd, if_pos hr]
  · rw [step_house hn ha, houseStep_decoded hb hd]
  · rw [step_house hn ha, State.houseStep, if_pos hb]
  · intro s c w ls g u v e hls hg hc he hfree hf hm
    rw [offerGroup_header hls hg hc he, runHeader_noMarker ⟨hfree, hf⟩ hm]
  · intro s c w ls g u v e hls hg hc he hfree hf hm hs hn hb
    rw [offerGroup_header hls hg hc he, runHeader_malformed ⟨hfree, hf⟩ hm hs hn hb]
  · intro s c w ls g u v e hls hg hc he hfree hf hm hs hn hlen hz x y hr hf2 hy
    rw [offerGroup_header hls hg hc he, runHeader_noTarget ⟨hfree, hf⟩ ⟨hm, hs, hn, hlen, hz⟩ hr hf2 hy]
  · intro s c w ls g u v e hls hg hc he hfree hf hm hs hn hlen hz hr
    refine ⟨_, (offerGroup_header hls hg hc he).trans
      (congrArg _ (runHeader_noJoin ⟨hfree, hf⟩ ⟨hm, hs, hn, hlen, hz⟩ hr)), ?_, entered_block u g v (group_nodup hg)⟩
    rw [weave_modWeave, if_pos rfl, joins_enterBlock_none hr]
  · intro s c w ls g u v e hls hg hc he hfree hf hm hs hn hlen hz x y hr hf2 hy
    refine ⟨_, (offerGroup_header hls hg hc he).trans
      (congrArg _ (runHeader_join ⟨hfree, hf⟩ ⟨hm, hs, hn, hlen, hz⟩ hr hf2 hy)), ?_, entered_block x g v (group_nodup hg)⟩
    intro l hl
    rw [weave_modWeave, if_pos rfl, hl, joins_enterBlock_one hr]
    rfl
  · intro s c w ls g u v e hls hg hc he hfree hf hm hs
    rw [offerGroup_header hls hg hc he, runHeader_stops ⟨hfree, hf⟩ hm hs]
  · intro s c w ls g u v e hls hg hc he hfree hf hm hs hn hspec
    rw [offerGroup_header hls hg hc he, runHeader_noSpec ⟨hfree, hf⟩ hm hs hn hspec]
  · intro s c w ls g l held e hls hg hc he hheld
    rw [offerGroup_header hls hg hc he, runHeader_held hheld]

end Sys2Proof.Machine
end

section
/-! SUPPORT. The statement on traps says that the reset of a firmware agent leaves every other weave of its core as it was,
speculating ones included. -/

namespace Sys2Proof.Machine

/-- A speculating thread of weave 0 of core 0 has read the first sector of HBM, where the ticket that the core's agent holds
claimed stands. -/
def ticketReader : State :=
  { cores := [(0, { Core.init with
      weaves := [(0, { threads := [(0, { mode := .ready, spec := some {} })], reads := [(.mem 0, 1)] }), (47, Weave.agent)],
      fwTickets := [0] })] }

/-- The ticket returns to STATE 0 by a write, and a write is a conflict of the threads that have read its sector (08 R293). -/
theorem resetAgent_ticketReader : ((ticketReader.resetAgent 0).thread 0 0 0).spec = some { conflict := true } := by
  decide +kernel

/-- Refutes O59: its last clause says that the reset of an agent leaves every weave but the agent's as it was, but the
tickets that the agent held are written, which is a conflict of a speculating reader. The state `ticketReader` is the
counterexample. -/
theorem not_trapsAreTaken : ¬ Obligations.TrapsAreTaken := by
  intro h
  obtain ⟨-, -, -, -, -, -, reset⟩ := h
  have hweave : (ticketReader.resetAgent 0).weave 0 0 = ticketReader.weave 0 0 := (reset ticketReader 0).1 0
  have hspec := resetAgent_ticketReader
  rw [State.thread, hweave] at hspec
  exact absurd hspec (by decide)

end Sys2Proof.Machine
end

section
/-! SUPPORT. Pauses and join entries: the lanes of a mask, the threads of one weave after an update of it, and what the
release of full join entries leaves (03 R92, R93, R112). -/

namespace Sys2Proof.Machine

/-! ### Lanes and weaves -/

theorem mem_lanesOf (m : Mask) (l : Nat) : l ∈ lanesOf m ↔ m.getLsbD l = true := by
  simp only [lanesOf, List.mem_filter, List.mem_range, and_iff_right_iff_imp]
  exact fun h => BitVec.lt_of_getLsbD h

theorem thread_modWeave_at (s : State) (c w k v m : Nat) (g : Weave → Weave) :
    (s.modWeave c w g).thread k v m = if k = c ∧ v = w then (g (s.weave c w)).thread m else s.thread k v m := by
  simp only [State.thread, weave_modWeave_at]
  split <;> rfl

/-- Some threads of one weave changed, read anywhere. -/
theorem thread_modThreads_at (s : State) (c w k v m : Nat) (ls : List Nat) (g : Nat → Thread → Thread) (h : ls.Nodup) :
    (s.modThreads c w ls g).thread k v m =
      if k = c ∧ v = w ∧ m ∈ ls then g m (s.thread c w m) else s.thread k v m := by
  rw [State.modThreads, thread_modWeave_at, thread_fold ls g _ m h]
  by_cases hk : k = c ∧ v = w
  · obtain ⟨rfl, rfl⟩ := hk
    by_cases hm : m ∈ ls <;> simp [hm, State.thread]
  · rw [if_neg hk, if_neg (fun e => hk ⟨e.1, e.2.1⟩)]

/-! ### Pauses -/

/-- The lanes that paused together with one that wakes at `n`. -/
theorem pauseExpiry_fires (s : State) (c w l : Nat) (hp : (s.thread c w l).mode = .paused)
    (hw : (s.thread c w l).wake ≤ s.cycles) :
    ∃ t, exec (.pauseExpiry c w l) s = .next t ∧ { t with cores := s.cores } = s ∧ SameTables s t ∧ ∀ k v m, t.thread k v m =
      if k = c ∧ v = w ∧ m < 32 ∧ (s.thread c w m).mode = .paused ∧ (s.thread c w m).wake = (s.thread c w l).wake
      then { s.thread c w m with mode := .ready } else s.thread k v m := by
  have hn : ((List.range 32).filter (fun m =>
      (s.thread c w m).mode == .paused && (s.thread c w m).wake == (s.thread c w l).wake)).Nodup :=
    List.nodup_range.filter _
  refine ⟨_, if_pos (by rw [hp, decide_eq_true hw]; rfl), rfl,
    (stands_around (onlyThreads_modThreads s c w _ _ hn)).2, fun k v m => ?_⟩
  rw [thread_modThreads_at _ _ _ _ _ _ _ _ hn]
  simp only [List.mem_filter, List.mem_range, Bool.and_eq_true, beq_iff_eq]

theorem pauseExpiry_early (s : State) (c w l : Nat)
    (h : (s.thread c w l).mode ≠ .paused ∨ s.cycles < (s.thread c w l).wake) : exec (.pauseExpiry c w l) s = .next s := by
  refine if_neg ?_
  rw [Bool.and_eq_true, beq_iff_eq, decide_eq_true_eq]
  rintro ⟨hp, hw⟩
  exact h.elim (fun h => h hp) (fun h => absurd hw (by omega))

/-! ### Join entries -/

theorem joinRelease_runs (s : State) (c w e : Nat) (j : JoinEnt) (h : (s.weave c w).joins[e]? = some j) :
    exec (.joinRelease c w e) s = .next (if j.members = j.arrived then s.modWeave c w Weave.releaseJoins else s) := by
  show execJoinRelease c w e s = _
  simp only [execJoinRelease, h, JoinEnt.full, beq_iff_eq]

/-- Two entries for the same target and depth. -/
def JoinEnt.same (e j : JoinEnt) : Bool := e.target == j.target && e.depth == j.depth
/-- The release of one entry. -/
def Weave.releaseOne (x : Weave) (e : JoinEnt) : Weave :=
  { (lanesOf e.members).foldl (fun x l => x.modThread l (fun t => { t with mode := .ready })) x with
    joins := x.joins.filter (fun j => !j.same e) }

theorem releaseJoins_eq (x : Weave) : x.releaseJoins = (x.joins.filter JoinEnt.full).foldl Weave.releaseOne x := rfl

theorem thread_releaseOne (x : Weave) (e : JoinEnt) (l : Nat) : (x.releaseOne e).thread l =
    if e.members.getLsbD l = true then { x.thread l with mode := .ready } else x.thread l := by
  have h := thread_fold (lanesOf e.members) (fun _ t => { t with mode := .ready }) x l (lanesOf_nodup _)
  simp only [mem_lanesOf] at h
  exact h

/-- Entries released one after another. -/
theorem release_fold (es : List JoinEnt) (x : Weave) :
    (es.foldl Weave.releaseOne x).joins = x.joins.filter (fun j => !es.any (fun e => j.same e)) ∧
    ∀ l, (es.foldl Weave.releaseOne x).thread l =
      if ∃ e ∈ es, e.members.getLsbD l = true then { x.thread l with mode := .ready } else x.thread l := by
  induction es generalizing x with
  | nil => simp
  | cons e es ih =>
    obtain ⟨hj, ht⟩ := ih (x.releaseOne e)
    rw [List.foldl_cons]
    constructor
    · rw [hj, Weave.releaseOne, List.filter_filter]
      exact List.filter_congr (fun j _ => by rw [List.any_cons, Bool.not_or, Bool.and_comm])
    · intro l
      rw [ht, thread_releaseOne]
      by_cases h1 : e.members.getLsbD l = true <;>
        by_cases h2 : ∃ e ∈ es, e.members.getLsbD l = true <;> simp [h1, h2]

theorem JoinEnt.same_comm (e j : JoinEnt) : e.same j = j.same e := by
  simp only [JoinEnt.same, Bool.beq_comm (a := e.target), Bool.beq_comm (a := e.depth)]

theorem releaseJoins_law (x : Weave) :
    x.releaseJoins.joins = x.joins.filter (fun j => !x.joins.any (fun e => e.full && e.target == j.target && e.depth == j.depth)) ∧
    ∀ l, x.releaseJoins.thread l =
      if ∃ j ∈ x.joins, j.full = true ∧ j.members.getLsbD l = true then { x.thread l with mode := .ready } else x.thread l := by
  obtain ⟨hj, ht⟩ := release_fold (x.joins.filter JoinEnt.full) x
  rw [releaseJoins_eq]
  constructor
  · rw [hj]
    refine List.filter_congr (fun j _ => ?_)
    have hs : ∀ e : JoinEnt, j.same e = (e.target == j.target && e.depth == j.depth) := fun e => j.same_comm e
    simp only [List.any_filter, hs, Bool.and_assoc]
  · intro l
    rw [ht]
    simp only [List.mem_filter, and_assoc]

end Sys2Proof.Machine
end

section
/-! SUPPORT. Sub-groups that firmware has served, and deferred results as they reach their registers (02 R55, 03 R96,
06 R216). -/

namespace Sys2Proof.Machine

/-! ### Parked sub-groups -/

theorem parkedSubgroupReplay_answered (s : State) (c w n : Nat) (p : Parked) (a : Nat)
    (hp : (s.weave c w).parked[n]? = some p) (ha : p.action = some a) :
    ∃ t, exec (.parkedSubgroupReplay c w n) s = .next t ∧ { t with cores := s.cores } = s ∧
      (t.weave c w).parked = (s.weave c w).parked.filter (fun q => q != p) ∧ ∀ k v m, t.thread k v m =
        if k = c ∧ v = w ∧ p.lanes.getLsbD m = true then { s.thread c w m with mode := .ready, conv := a } else s.thread k v m := by
  have he : exec (.parkedSubgroupReplay c w n) s = .next (s.modWeave c w (fun y => y.resume p)) := by
    show execParkedSubgroupReplay c w n s = _
    simp only [execParkedSubgroupReplay, hp, ha, Option.isSome_some, if_true]
  refine ⟨_, he, rfl, ?_, fun k v m => ?_⟩
  · simp only [weave_modWeave, if_true, Weave.resume, ha]
  · have ht := thread_fold (lanesOf p.lanes) (fun _ t => { t with mode := .ready, conv := a }) (s.weave c w) m (lanesOf_nodup _)
    rw [thread_modWeave_at]
    simp only [Weave.resume, ha]
    by_cases hk : k = c ∧ v = w
    · obtain ⟨rfl, rfl⟩ := hk
      simp only [and_self, if_true, true_and, ← mem_lanesOf]
      exact ht
    · rw [if_neg hk, if_neg (fun e => hk ⟨e.1, e.2.1⟩)]

theorem parkedSubgroupReplay_unanswered (s : State) (c w n : Nat) (p : Parked)
    (hp : (s.weave c w).parked[n]? = some p) (ha : p.action = none) :
    exec (.parkedSubgroupReplay c w n) s = .next s := by
  show execParkedSubgroupReplay c w n s = _
  simp only [execParkedSubgroupReplay, hp, ha, Option.isSome_none, Bool.false_eq_true, if_false]

/-! ### Registers that a deferred result fills -/

/-- Cells `ks` from register `r` on, each replaced by what `f` makes of it. -/
def Thread.landCells (r : Nat) (f : Nat → RegCell → RegCell) (ks : List Nat) (t : Thread) : Thread :=
  ks.foldl (fun t k => t.landReg (r + k) (f k (t.reg (r + k)))) t

theorem reg_landReg (t : Thread) (n m : Nat) (c : RegCell) :
    (t.landReg n c).reg m = if m = n then c else t.reg m := tabGet_put ({} : RegCell) m n c t.regs

theorem reg_landCells (r : Nat) (f : Nat → RegCell → RegCell) (ks : List Nat) (t : Thread) (h : ks.Nodup) (m : Nat) :
    (t.landCells r f ks).reg m = if r ≤ m ∧ m - r ∈ ks then f (m - r) (t.reg m) else t.reg m := by
  induction ks generalizing t with
  | nil => simp [Thread.landCells]
  | cons k ks ih =>
    rw [List.nodup_cons] at h
    rw [Thread.landCells, List.foldl_cons, ← Thread.landCells, ih _ h.2, reg_landReg]
    by_cases hm : m = r + k
    · subst hm
      simp [h.1]
    · have hk : r ≤ m → m - r ≠ k := by omega
      by_cases hr : r ≤ m <;> simp [hm, hr, hk]

theorem landCells_rest (r : Nat) (f : Nat → RegCell → RegCell) (ks : List Nat) (t : Thread) (rs : Tab RegCell) :
    { t.landCells r f ks with regs := rs } = { t with regs := rs } := by
  induction ks generalizing t with
  | nil => rfl
  | cons k ks ih => exact (ih _).trans rfl

theorem landCells_spec (r : Nat) (f : Nat → RegCell → RegCell) (ks : List Nat) (t : Thread) :
    (t.landCells r f ks).spec = t.spec := (congrArg Thread.spec (landCells_rest r f ks t []) :)

/-- What a deferred result makes of the `k`-th of its registers. -/
def Deferred.cell (d : Deferred) (k : Nat) (c : RegCell) : RegCell :=
  match d.val with
  | some v => { val := BitVec.ofNat 32 (v / 2 ^ (32 * k)) }
  | none => { c with full := false, poison := true }
/-- Poisoned data of a load that was made in speculation. -/
def Deferred.poisonsSpec (d : Deferred) : Bool := d.val.isNone && d.spec
/-- A thread that a deferred result has reached. -/
def Thread.arrive (t : Thread) (d : Deferred) : Thread :=
  { t.landCells d.reg d.cell (List.range d.cnt) with
    spec := if d.poisonsSpec then t.spec.map (fun p => { p with poison := p.poison.or (some (d.pc, d.va)) }) else t.spec }

theorem arrive_rest (t : Thread) (d : Deferred) : { t.arrive d with regs := t.regs, spec := t.spec } = t :=
  congrArg (fun u : Thread => { u with spec := t.spec }) (landCells_rest d.reg d.cell (List.range d.cnt) t t.regs)

theorem arrive_mode (t : Thread) (d : Deferred) : (t.arrive d).mode = t.mode :=
  (congrArg Thread.mode (arrive_rest t d) :)

theorem arrive_reg (t : Thread) (d : Deferred) (m : Nat) :
    (t.arrive d).reg m = if d.reg ≤ m ∧ m < d.reg + d.cnt then d.cell (m - d.reg) (t.reg m) else t.reg m := by
  have h := reg_landCells d.reg d.cell (List.range d.cnt) t List.nodup_range m
  simp only [List.mem_range] at h
  refine (show (t.arrive d).reg m = _ from h).trans ?_
  by_cases hr : d.reg ≤ m
  · simp only [hr, true_and, show m - d.reg < d.cnt ↔ m < d.reg + d.cnt by omega]
  · simp [hr]

/-! ### A weave that a deferred result has reached -/

/-- Its poison goes to the weave's record: none where a speculation that goes on keeps it (08 R297). -/
def Weave.notes (x : Weave) (d : Deferred) : Prop :=
  d.val = none ∧ ¬ (d.spec = true ∧ (x.thread d.lane).spec.isSome = true) ∧ x.trPpc = 0

theorem thread_poisonRecord (x : Weave) (pc va : DWord) (m : Nat) : (x.poisonRecord pc va).thread m = x.thread m := by
  unfold Weave.poisonRecord; split <;> rfl

/-- A record of poison concerns the speculation of its lane, where that goes on. -/
theorem thread_poisonLane (x : Weave) (l : Nat) (sp : Bool) (pc va : DWord) (m : Nat) :
    (x.poisonLane l sp pc va).thread m = if m = l then { x.thread l with
      spec := if sp then (x.thread l).spec.map (fun p => { p with poison := p.poison.or (some (pc, va)) }) else (x.thread l).spec }
      else x.thread m := by
  unfold Weave.poisonLane
  by_cases hs : (sp && (x.thread l).spec.isSome) = true
  · rw [if_pos hs, thread_modThread]
    simp only [Bool.and_eq_true] at hs
    simp only [hs.1, if_true]
  · rw [if_neg hs, thread_poisonRecord]
    cases sp with
    | false => by_cases hm : m = l <;> simp [hm]
    | true =>
      have hn : (x.thread l).spec = none := by simpa using hs
      by_cases hm : m = l
      · subst hm
        simp only [if_true, hn, Option.map_none]
        rw [← hn]
      · simp [hm]

/-- `land`, with the two kinds of results side by side. -/
theorem land_eq (x : Weave) (d : Deferred) (h : (x.thread d.lane).mode ≠ .exited) :
    x.land d = match d.val with
      | some _ => x.modThread d.lane (fun t => t.landCells d.reg d.cell (List.range d.cnt))
      | none => (x.modThread d.lane (fun t => t.landCells d.reg d.cell (List.range d.cnt))).poisonLane d.lane d.spec d.pc d.va := by
  unfold Weave.land
  rw [if_neg h]
  have e : d.cell = fun k c => match d.val with
    | some v => { val := BitVec.ofNat 32 (v / 2 ^ (32 * k)) }
    | none => { c with full := false, poison := true } := rfl
  cases hv : d.val <;> simp only [Thread.landCells, e, hv]

theorem land_exited (x : Weave) (d : Deferred) (h : (x.thread d.lane).mode = .exited) : x.land d = x := if_pos h

theorem land_thread (x : Weave) (d : Deferred) (h : (x.thread d.lane).mode ≠ .exited) (m : Nat) :
    (x.land d).thread m = if m = d.lane then (x.thread d.lane).arrive d else x.thread m := by
  have hs := landCells_spec d.reg d.cell (List.range d.cnt) (x.thread d.lane)
  rw [land_eq x d h, Thread.arrive, Deferred.poisonsSpec]
  cases d.val with
  | some v =>
    simp only [thread_modThread, Option.isNone_some, Bool.false_and, Bool.false_eq_true, if_false, ← hs]
  | none =>
    simp only [thread_poisonLane, thread_modThread, if_true, Option.isNone_none, Bool.true_and, hs]
    split <;> rfl

theorem poisonLane_record (x : Weave) (l : Nat) (sp : Bool) (pc va : DWord) :
    ((¬ (sp = true ∧ (x.thread l).spec.isSome = true) ∧ x.trPpc = 0) →
      (x.poisonLane l sp pc va).trPpc = pc ∧ (x.poisonLane l sp pc va).trPva = va) ∧
    (¬ (¬ (sp = true ∧ (x.thread l).spec.isSome = true) ∧ x.trPpc = 0) →
      (x.poisonLane l sp pc va).trPpc = x.trPpc ∧ (x.poisonLane l sp pc va).trPva = x.trPva) := by
  unfold Weave.poisonLane Weave.poisonRecord
  simp only [Bool.and_eq_true]
  constructor
  · rintro ⟨hs, h0⟩
    rw [if_neg hs, if_pos h0]
    exact ⟨rfl, rfl⟩
  · intro h
    split
    · exact ⟨rfl, rfl⟩
    · rename_i hs
      rw [if_neg (fun h0 => h ⟨hs, h0⟩)]
      exact ⟨rfl, rfl⟩

theorem land_record (x : Weave) (d : Deferred) (h : (x.thread d.lane).mode ≠ .exited) :
    (x.notes d → (x.land d).trPpc = d.pc ∧ (x.land d).trPva = d.va) ∧
    (¬ x.notes d → (x.land d).trPpc = x.trPpc ∧ (x.land d).trPva = x.trPva) := by
  have hc := landCells_spec d.reg d.cell (List.range d.cnt) (x.thread d.lane)
  have hr := poisonLane_record (x.modThread d.lane (fun t => t.landCells d.reg d.cell (List.range d.cnt))) d.lane d.spec d.pc d.va
  simp only [thread_modThread, if_true, hc] at hr
  rw [land_eq x d h]
  unfold Weave.notes
  cases d.val with
  | some v => exact ⟨fun n => absurd n.1 (by simp), fun _ => ⟨rfl, rfl⟩⟩
  | none => exact ⟨fun n => hr.1 n.2, fun n => hr.2 (fun m => n ⟨rfl, m⟩)⟩

/-! ### The event -/

/-- A weave with a live thread stays. -/
theorem freeWeave_live (s : State) (c w l : Nat) (hl : l < 32) (h : (s.thread c w l).mode ≠ .exited) : s.freeWeave c w = s := by
  have hm : l ∈ (s.weave c w).live := by
    simp only [Weave.live, List.mem_filter, List.mem_range, bne_iff_ne]
    exact ⟨hl, h⟩
  unfold State.freeWeave
  split
  · rfl
  · refine if_neg ?_
    rw [List.isEmpty_eq_false_iff.mpr (List.ne_nil_of_mem hm), Bool.false_and, Bool.false_and]
    exact Bool.false_ne_true

/-- The state in which a deferred result has reached a live thread. -/
theorem deferredResultArrival_runs (s : State) (c n : Nat) (d : Deferred) (hd : (s.core c).deferred[n]? = some d)
    (hl : d.lane < 32) (hm : (s.thread c d.slot d.lane).mode ≠ .exited) :
    exec (.deferredResultArrival c n) s = .next ((s.modCore c (fun k => { k with deferred := k.deferred.eraseIdx n })).modWeave c d.slot
      (fun x => x.land d)) := by
  have hw := (sameWeaves_modCore s c (fun k => { k with deferred := k.deferred.eraseIdx n }) (fun _ => rfl)).weave
  show execDeferredResultArrival c n s = _
  simp only [execDeferredResultArrival, hd]
  rw [freeWeave_live _ c d.slot d.lane hl]
  simp only [State.thread, weave_modWeave, if_true, hw, land_thread _ d hm, arrive_mode]
  exact hm

theorem deferredResultArrival_fills (s : State) (c n : Nat) (d : Deferred) (hd : (s.core c).deferred[n]? = some d)
    (hl : d.lane < 32) (hm : (s.thread c d.slot d.lane).mode ≠ .exited) :
    ∃ t, exec (.deferredResultArrival c n) s = .next t ∧ { t with cores := s.cores } = s ∧
      (t.core c).deferred = (s.core c).deferred.eraseIdx n ∧
      (∀ k v m, ¬ (k = c ∧ v = d.slot ∧ m = d.lane) → t.thread k v m = s.thread k v m) ∧
      t.thread c d.slot d.lane = (s.thread c d.slot d.lane).arrive d ∧
      t.weave c d.slot = (s.weave c d.slot).land d := by
  have hw := (sameWeaves_modCore s c (fun k => { k with deferred := k.deferred.eraseIdx n }) (fun _ => rfl)).weave
  have ht : ∀ k v m, (s.modCore c (fun k => { k with deferred := k.deferred.eraseIdx n })).thread k v m = s.thread k v m :=
    fun k v m => congrArg (fun x : Weave => x.thread m) (hw k v)
  refine ⟨_, deferredResultArrival_runs s c n d hd hl hm, rfl, ?_, fun k v m hn => ?_, ?_, ?_⟩
  · rw [State.modWeave, State.setWeave, core_modCore, if_pos rfl, core_modCore, if_pos rfl]
  · rw [thread_modWeave_at, hw, ht]
    split
    · rename_i h
      obtain ⟨rfl, rfl⟩ := h
      rw [land_thread _ d hm, if_neg (fun e => hn ⟨rfl, rfl, e⟩)]
      rfl
    · rfl
  · rw [thread_modWeave_at, if_pos ⟨rfl, rfl⟩, hw, land_thread _ d hm, if_pos rfl]
    rfl
  · rw [weave_modWeave, if_pos rfl, hw]

theorem arrive_spec (t : Thread) (d : Deferred) : (t.arrive d).spec = if d.val = none ∧ d.spec = true then
    t.spec.map (fun p => { p with poison := p.poison.or (some (d.pc, d.va)) }) else t.spec := by
  simp only [Thread.arrive, Deferred.poisonsSpec, Bool.and_eq_true, Option.isNone_iff_eq_none]

/-- The event's effect field by field. -/
theorem deferredResultArrival_effect (s : State) (c n : Nat) (d : Deferred) (hd : (s.core c).deferred[n]? = some d)
    (hl : d.lane < 32) (hm : (s.thread c d.slot d.lane).mode ≠ .exited) :
    ∃ t, exec (.deferredResultArrival c n) s = .next t ∧ { t with cores := s.cores } = s ∧
      (t.core c).deferred = (s.core c).deferred.eraseIdx n ∧
      (∀ k v m, ¬ (k = c ∧ v = d.slot ∧ m = d.lane) → t.thread k v m = s.thread k v m) ∧
      { t.thread c d.slot d.lane with regs := (s.thread c d.slot d.lane).regs, spec := (s.thread c d.slot d.lane).spec } = s.thread c d.slot d.lane ∧
      (t.thread c d.slot d.lane).spec = (if d.val = none ∧ d.spec = true then (s.thread c d.slot d.lane).spec.map (fun p =>
        { p with poison := p.poison.or (some (d.pc, d.va)) }) else (s.thread c d.slot d.lane).spec) ∧
      (∀ m, (t.thread c d.slot d.lane).reg m = if d.reg ≤ m ∧ m < d.reg + d.cnt then d.cell (m - d.reg)
        ((s.thread c d.slot d.lane).reg m) else (s.thread c d.slot d.lane).reg m) ∧
      let here := d.val = none ∧ ¬ (d.spec = true ∧ (s.thread c d.slot d.lane).spec.isSome = true) ∧ (s.weave c d.slot).trPpc = 0
      ((t.weave c d.slot).trPpc = if here then d.pc else (s.weave c d.slot).trPpc) ∧
      (t.weave c d.slot).trPva = if here then d.va else (s.weave c d.slot).trPva := by
  obtain ⟨t, he, hp, hq, ho, ht, hw⟩ := deferredResultArrival_fills s c n d hd hl hm
  obtain ⟨h1, h2⟩ := land_record (s.weave c d.slot) d hm
  refine ⟨t, he, hp, hq, ho, ?_, ?_, fun m => ?_, ?_⟩
  · rw [ht]
    exact arrive_rest _ d
  · rw [ht, arrive_spec]
  · rw [ht, arrive_reg]
  · intro here
    rw [hw]
    by_cases hh : here
    · rw [if_pos hh, if_pos hh]
      exact h1 hh
    · rw [if_neg hh, if_neg hh]
      exact h2 hh

end Sys2Proof.Machine
end

section
/-! SUPPORT. A thread in conflict returns to its checkpoint (08 R293, R295), and a word is read again by waitv
(08 R277). -/

namespace Sys2Proof.Machine

/-! ### Outstanding results before a roll-back -/

/-- A speculation but for the poison that its loads have met. -/
def Thread.speculates (t : Thread) (p : Spec) : Prop := ∃ q, t.spec = some { p with poison := q }

theorem arrive_speculates {t : Thread} {p : Spec} (h : t.speculates p) (d : Deferred) : (t.arrive d).speculates p := by
  obtain ⟨q, h⟩ := h
  cases hd : d.poisonsSpec with
  | true => exact ⟨q.or (some (d.pc, d.va)), by simp [Thread.arrive, h, hd]⟩
  | false => exact ⟨q, by simp [Thread.arrive, h, hd]⟩

theorem land_speculates (x : Weave) (d : Deferred) (l : Nat) (p : Spec) (h : (x.thread l).speculates p) :
    ((x.land d).thread l).speculates p := by
  by_cases hx : (x.thread d.lane).mode = .exited
  · rw [land_exited x d hx]
    exact h
  · rw [land_thread x d hx]
    split
    · subst_vars
      exact arrive_speculates h d
    · exact h

theorem lands_speculates (ds : List Deferred) (x : Weave) (l : Nat) (p : Spec) (h : (x.thread l).speculates p) :
    ((ds.foldl Weave.land x).thread l).speculates p := by
  induction ds generalizing x with
  | nil => exact h
  | cons d ds ih => exact ih _ (land_speculates x d l p h)

theorem weave_landAll (s : State) (c w : Nat) (p : Nat → Bool) : (s.landAll c w p).weave c w =
    ((s.core c).deferred.filter (fun d => d.slot = w && p d.lane)).foldl Weave.land (s.weave c w) := by
  have hw := (sameWeaves_modCore (s.modWeave c w (fun x =>
    ((s.core c).deferred.filter (fun d => d.slot = w && p d.lane)).foldl Weave.land x)) c
    (fun k => { k with deferred := k.deferred.filter (fun d => !(d.slot = w && p d.lane)) }) (fun _ => rfl)).weave c w
  exact hw.trans (by rw [weave_modWeave, if_pos rfl])

/-! ### The thread at its checkpoint -/

/-- A thread rolled back to a checkpoint. -/
def Thread.rolled (t : Thread) (p : Spec) : Thread :=
  { t with
    ctl := p.ctl, preds := p.preds, ob := p.ob, fpCtl := p.fpCtl, fpFlags := p.fpFlags,
    rsCount := p.rsCount, mode := .ready, spec := none, noSpec := some p.ctl.pc,
    stop := none, lend := none, mark := none, watch := none, hollow := [], ceded := [],
    regs := p.undo.foldl (fun r e => tabPut {} e.1 e.2 r) t.regs }

/-- A table all of whose entries change alike, where the unlisted ones change to themselves. -/
theorem tabGet_mapAll {α : Type} (d : α) (f : α → α) (hd : f d = d) (k : Nat) (t : Tab α) :
    tabGet d k (t.map (fun e => (e.1, f e.2))) = f (tabGet d k t) := by
  rw [tabGet, tabFind_map (fun _ => f), tabGet]
  cases tabFind k t with
  | none => exact hd.symm
  | some v => rfl

theorem thread_regain (x : Weave) (l m : Nat) : (x.regain l).thread m = (x.thread m).regain l := by
  exact tabGet_mapAll {} (fun t => t.regain l) rfl m x.threads

theorem thread_rollLane (x : Weave) (l : Nat) (p : Spec) (h : (x.thread l).spec = some p) :
    (x.rollLane l).thread l = (x.thread l).rolled p := by
  have ht : (x.rollLane l).thread l = ((x.modThread l (fun t => t.rolled p)).regain l).thread l := by
    simp only [Weave.rollLane, h]
    rfl
  rw [ht, thread_regain, thread_modThread, if_pos rfl]
  rfl

/-- The release of join entries leaves a ready thread as it is. -/
theorem thread_releaseJoins_ready (x : Weave) (l : Nat) (h : (x.thread l).mode = .ready) :
    x.releaseJoins.thread l = x.thread l := by
  rw [(releaseJoins_law x).2 l]
  split
  · rw [← h]
  · rfl

/-- A roll-back takes the thread to its checkpoint, whatever its outstanding results were. -/
theorem thread_stateRollLane (s : State) (c w l : Nat) (p : Spec) (h : (s.thread c w l).spec = some p) :
    ∃ (u : Thread) (q : Option (DWord × DWord)), (s.rollLane c w l).thread c w l = u.rolled { p with poison := q } := by
  obtain ⟨q, hq⟩ := lands_speculates ((s.core c).deferred.filter (fun d => d.slot = w && d.lane == l)) (s.weave c w) l p
    ⟨p.poison, h⟩
  have hr := thread_rollLane _ l _ hq
  refine ⟨_, q, Eq.trans ?_ hr⟩
  rw [State.rollLane, if_pos (by rw [h]; rfl), thread_modWeave_at, if_pos ⟨rfl, rfl⟩, weave_modWeave, if_pos rfl,
    weave_landAll, thread_releaseJoins_ready _ l (by rw [hr]; rfl)]

theorem speculativeRollback_fires (s : State) (c w l : Nat) (p : Spec) (h : (s.thread c w l).spec = some p)
    (hc : p.conflict = true) (hw : s.rollWaits c w = false) :
    ∃ t, exec (.speculativeRollback c w l) s = .next t ∧ { t with cores := s.cores } = s ∧ let u := t.thread c w l
      u.ctl = p.ctl ∧ u.preds = p.preds ∧ u.ob = p.ob ∧ u.fpCtl = p.fpCtl ∧ u.fpFlags = p.fpFlags ∧ u.rsCount = p.rsCount ∧
      u.mode = .ready ∧ u.spec = none ∧ u.noSpec = some p.ctl.pc ∧ u.stop = none ∧ u.lend = none ∧ u.watch = none ∧
      u.mark = none ∧ u.hollow = [] ∧ u.ceded = [] := by
  have he : exec (.speculativeRollback c w l) s = .next (s.rollLane c w l) := by
    show execSpeculativeRollback c w l s = _
    simp only [execSpeculativeRollback, h, hc, hw, Bool.not_false, Bool.and_self, if_true]
  obtain ⟨u, q, hu⟩ := thread_stateRollLane s c w l p h
  refine ⟨_, he, ?_, ?_⟩
  · rw [State.rollLane, if_pos (by rw [h]; rfl)]
    rfl
  · rw [hu]
    exact ⟨rfl, rfl, rfl, rfl, rfl, rfl, rfl, rfl, rfl, rfl, rfl, rfl, rfl, rfl, rfl⟩

theorem speculativeRollback_stands (s : State) (c w l : Nat)
    (h : (∀ p, (s.thread c w l).spec = some p → p.conflict = false) ∨ s.rollWaits c w = true) :
    exec (.speculativeRollback c w l) s = .next s := by
  show execSpeculativeRollback c w l s = _
  unfold execSpeculativeRollback
  split
  · rename_i p hp
    rcases h with h | h
    · rw [h p hp, Bool.false_and, if_neg Bool.false_ne_true]
    · rw [h, Bool.not_true, Bool.and_false, if_neg Bool.false_ne_true]
  · rfl

/-! ### waitv -/

/-- A word offered to a group that stands somewhere is answered with a next state. -/
theorem issue_answers (i : Instr) (h : Iss → State → Act) (s : State) (g : Grp) (hg : s.group = some g) :
    ∃ t, issue i h s = .next t := by
  simp only [issue, issueWith, hg]
  split
  · exact ⟨_, rfl⟩
  · exact ⟨_, rfl⟩
  · exact ⟨_, rfl⟩

theorem waitvReread_eq (o : AForm) (s : State) (c w l : Nat) (u : Watch) (g : Grp)
    (hm : (s.thread c w l).mode = .waiting .retry) (hu : (s.thread c w l).watch = some u) (hi : u.instr = .waitvEq o)
    (hg : ({ s with cur := { s.cur with core := c, slot := w, lanes := 1#32 <<< l } } : State).group = some g) :
    ∃ t, exec (.waitvReread c w l) s = .next t ∧
      exec (.waitvEq o) { s with cur := { s.cur with core := c, slot := w, lanes := 1#32 <<< l } } = .next t := by
  obtain ⟨t, ht⟩ := issue_answers (.waitvEq o) (waitvBody false) _ g hg
  refine ⟨t, ?_, ht⟩
  show execWaitvReread c w l s = _
  simp only [execWaitvReread, hm, hu, hi, Option.map_some, beq_self_eq_true, if_true]
  exact ht

theorem waitvReread_ne (o : AForm) (s : State) (c w l : Nat) (u : Watch) (g : Grp)
    (hm : (s.thread c w l).mode = .waiting .retry) (hu : (s.thread c w l).watch = some u) (hi : u.instr = .waitvNe o)
    (hg : ({ s with cur := { s.cur with core := c, slot := w, lanes := 1#32 <<< l } } : State).group = some g) :
    ∃ t, exec (.waitvReread c w l) s = .next t ∧
      exec (.waitvNe o) { s with cur := { s.cur with core := c, slot := w, lanes := 1#32 <<< l } } = .next t := by
  obtain ⟨t, ht⟩ := issue_answers (.waitvNe o) (waitvBody true) _ g hg
  refine ⟨t, ?_, ht⟩
  show execWaitvReread c w l s = _
  simp only [execWaitvReread, hm, hu, hi, Option.map_some, beq_self_eq_true, if_true]
  exact ht

end Sys2Proof.Machine
end

section
/-! SUPPORT. Updates of every weave of the package: completions of gang barriers (08 R289), and holds that expire
(07 R250, 08 R293). -/

namespace Sys2Proof.Machine

/-! ### Updates of every weave -/

/-- Every weave of every core changed. -/
def State.mapWeaves (s : State) (g : Nat → Nat → Weave → Weave) : State :=
  { s with cores := s.cores.map (fun k => (k.1, { k.2 with weaves := k.2.weaves.map (fun w => (w.1, g k.1 w.1 w.2)) })) }

/-- An update that leaves the weaves of a core that is not listed. -/
theorem weave_mapWeaves (s : State) (g : Nat → Nat → Weave → Weave) (he : ∀ c w, g c w {} = {})
    (ha : ∀ c w, g c w Weave.agent = Weave.agent) (c w : Nat) : (s.mapWeaves g).weave c w = g c w (s.weave c w) := by
  have hc := tabFind_map (fun k (y : Core) => { y with weaves := y.weaves.map (fun w => (w.1, g k w.1 w.2)) }) c s.cores
  have hw := fun (t : Tab Weave) => tabFind_map (fun w y => g c w y) w t
  simp only [State.weave, State.core, State.mapWeaves, Core.weave, tabGet, hc]
  cases tabFind c s.cores with
  | none =>
    by_cases h : Config.agentSlot = w
    · simp [Core.init, tabFind, h, ha]
    · simp only [Option.map_none, Core.init, tabFind, Option.getD_none, if_neg h]
      exact (he c w).symm
  | some k =>
    simp only [Option.map_some, Option.getD_some, hw]
    cases tabFind w k.weaves with
    | none => exact (he c w).symm
    | some y => rfl

/-! ### Gang barriers -/

/-- The completion of a barrier as it comes to one weave. -/
def Weave.reached (s : State) (gang n : Nat) (x : Weave) : Weave :=
  if x.team.map (fun t => (s.team t).gang) == some gang then x.reachAt n else x

theorem gbReach_notDue (u : Thread) (n : Nat) (h : u.gbDue.getLsbD n = false) : u.gbReach n = u := by
  unfold Thread.gbReach
  rw [h, if_neg Bool.false_ne_true]

theorem thread_reachAt (x : Weave) (n l : Nat) : (x.reachAt n).thread l = (x.thread l).gbReach n :=
  tabGet_mapAll ({} : Thread) (fun t => t.gbReach n) (gbReach_notDue {} n BitVec.getLsbD_zero) l x.threads

theorem gangBarrierRelease_reaches (s : State) (g n : Nat) : ∃ t, exec (.gangBarrierRelease g n) s = .next t ∧
    { t with cores := s.cores, saved := s.saved } = s ∧ ∀ c w l, t.thread c w l =
      if (s.weave c w).team.map (fun y => (s.team y).gang) = some g then (s.thread c w l).gbReach n else s.thread c w l := by
  refine ⟨_, rfl, rfl, fun c w l => ?_⟩
  have hw := weave_mapWeaves s (fun _ _ x => x.reached s g n) (fun _ _ => rfl) (fun _ _ => rfl) c w
  have hm : (fun w : Nat × Weave => if (w.2.team.map (fun t => (s.team t).gang)) == some g then (w.1, w.2.reachAt n) else w) =
      fun w => (w.1, w.2.reached s g n) := by
    funext w
    unfold Weave.reached
    split <;> rfl
  have ht := congrArg (fun x : Weave => x.thread l) hw
  simp only [State.mapWeaves, ← hm] at ht
  refine Eq.trans ht ?_
  simp only [Weave.reached, beq_iff_eq]
  split
  · exact thread_reachAt _ n l
  · rfl

theorem getLsbD_bset {w : Nat} (v : BitVec w) (n : Nat) (b : Bool) (h : n < w) : (bset v n b).getLsbD n = b := by
  unfold bset
  cases b <;> simp [h]

/-- Going on past an arrival changes where a thread stands and the arrival alone. -/
theorem passArrived_rest (t : Thread) :
    { t.passArrived with mode := t.mode, ctl := t.ctl, rvPend := t.rvPend, gbPend := t.gbPend } = t := by
  unfold Thread.passArrived
  split
  · split <;> rfl
  · split <;> rfl
  · rfl

theorem gbReach_law (u : Thread) (n : Nat) (hn : n < 8) :
    (u.gbDue.getLsbD n = false → u.gbReach n = u) ∧ (u.gbDue.getLsbD n = true →
      (u.gbReach n).gbDue.getLsbD n = false ∧ (u.gbReach n).gbDone.getLsbD n = true ∧ (u.gbReach n).regs = u.regs ∧
      (u.mode = .waiting (.arrived true n) → (u.gbReach n).mode = .ready ∧ (u.gbReach n).ctl.pc = u.ctl.pc + 8 ∧
        (u.gbReach n).gbPend.getLsbD n = false)) := by
  refine ⟨gbReach_notDue u n, fun hd => ?_⟩
  have hr : u.gbReach n = ({ u with gbDone := bset u.gbDone n true, gbDue := bset u.gbDue n false } : Thread).passArrived :=
    if_pos hd
  have hp := passArrived_rest { u with gbDone := bset u.gbDone n true, gbDue := bset u.gbDue n false }
  rw [← hr] at hp
  refine ⟨?_, ?_, (congrArg Thread.regs hp :), fun hm => ?_⟩
  · rw [show (u.gbReach n).gbDue = _ from (congrArg Thread.gbDue hp :)]
    exact getLsbD_bset _ n _ hn
  · rw [show (u.gbReach n).gbDone = _ from (congrArg Thread.gbDone hp :)]
    exact getLsbD_bset _ n _ hn
  · rw [hr]
    simp only [Thread.passArrived, hm, getLsbD_bset _ n _ hn, if_true]
    exact ⟨trivial, trivial, getLsbD_bset u.gbPend n false hn⟩

/-! ### Conflicts -/

/-- A thread that has met a conflict, where it speculates. -/
def Thread.conflicted (t : Thread) : Prop := ∀ q, t.spec = some q → q.conflict = true

theorem marked_conflicted (x : Weave) (p : Nat → Bool) (ls : List Nat) (l : Nat) (h : (x.thread l).conflicted) :
    ((x.marked p ls).thread l).conflicted := by
  unfold Weave.marked
  induction ls generalizing x with
  | nil => exact h
  | cons a ls ih =>
    rw [List.foldl_cons]
    refine ih _ ?_
    split
    · exact h
    · rw [thread_modThread]
      split
      · intro q hq
        obtain ⟨r, -, rfl⟩ := Option.map_eq_some_iff.mp hq
        rfl
      · exact h

theorem marked_hits (x : Weave) (p : Nat → Bool) (ls : List Nat) (l : Nat) (hl : l ∈ ls) (hp : p l = false) :
    ((x.marked p ls).thread l).conflicted := by
  induction ls generalizing x with
  | nil => exact absurd hl List.not_mem_nil
  | cons a ls ih =>
    rw [Weave.marked, List.foldl_cons, ← Weave.marked]
    by_cases ha : l = a
    · subst ha
      refine marked_conflicted _ p ls l ?_
      rw [hp, if_neg Bool.false_ne_true, thread_modThread, if_pos rfl]
      intro q hq
      obtain ⟨r, -, rfl⟩ := Option.map_eq_some_iff.mp hq
      rfl
    · exact ih _ ((List.mem_cons.mp hl).resolve_left ha)

/-- The lanes that have read one of the places. -/
def Weave.readers (x : Weave) (ls : List Loc) : Mask :=
  (x.reads.filter (fun r => (ls.map Loc.sector).contains r.1)).foldl (fun m r => m ||| r.2) 0

theorem getLsbD_union {α : Type} (rs : List (α × Mask)) (m : Mask) (l : Nat) :
    (rs.foldl (fun m r => m ||| r.2) m).getLsbD l = (m.getLsbD l || rs.any (fun r => r.2.getLsbD l)) := by
  induction rs generalizing m with
  | nil => simp
  | cons r rs ih => rw [List.foldl_cons, ih, BitVec.getLsbD_or, List.any_cons, Bool.or_assoc]

/-- A weave that has read nothing meets no conflict. -/
theorem marked_noReads (x : Weave) (p : Nat → Bool) (ls : List Loc) (h : x.reads = []) :
    x.marked p (lanesOf (x.readers ls)) = x := by
  have h0 : lanesOf 0 = [] := by simp [lanesOf]
  have hr : x.readers ls = 0 := by rw [Weave.readers, h]; rfl
  rw [hr, h0]
  rfl

theorem weave_conflicts (s : State) (ls : List Loc) (b : Nat × Nat × Nat) (sees : Nat → Nat → Bool) (c w : Nat) :
    (s.conflicts ls b sees).weave c w =
      if sees c w then (s.weave c w).marked (fun l => decide (b = (c, w, l))) (lanesOf ((s.weave c w).readers ls))
      else s.weave c w := by
  have h := weave_mapWeaves s (fun c w x => if sees c w then
    x.marked (fun l => decide (b = (c, w, l))) (lanesOf (x.readers ls)) else x)
    (fun _ _ => by split; exacts [marked_noReads _ _ _ rfl, rfl])
    (fun _ _ => by split; exacts [marked_noReads _ _ _ rfl, rfl]) c w
  have hm : s.conflicts ls b sees = s.mapWeaves (fun c w x => if sees c w then
      x.marked (fun l => decide (b = (c, w, l))) (lanesOf (x.readers ls)) else x) := by
    simp only [State.conflicts, State.mapWeaves, Weave.marked, Weave.readers, decide_eq_true_eq]
    congr 1
    refine List.map_congr_left (fun k _ => ?_)
    congr 2
    refine List.map_congr_left (fun w _ => ?_)
    split <;> rfl
  rw [hm, h]

theorem conflicts_conflicted (s : State) (ls : List Loc) (b : Nat × Nat × Nat) (sees : Nat → Nat → Bool) (c w l : Nat)
    (h : (s.thread c w l).conflicted) : ((s.conflicts ls b sees).thread c w l).conflicted := by
  rw [State.thread, weave_conflicts]
  split
  · exact marked_conflicted _ _ _ l h
  · exact h

theorem conflicts_hits (s : State) (ls : List Loc) (b : Nat × Nat × Nat) (sees : Nat → Nat → Bool) (c w l : Nat)
    (hs : sees c w = true) (hb : b ≠ (c, w, l))
    (hr : ∃ r ∈ (s.weave c w).reads, r.1 ∈ ls.map Loc.sector ∧ r.2.getLsbD l = true) :
    ((s.conflicts ls b sees).thread c w l).conflicted := by
  rw [State.thread, weave_conflicts, if_pos hs]
  refine marked_hits _ _ _ l ?_ (decide_eq_false hb)
  obtain ⟨r, hm, hl, hg⟩ := hr
  rw [mem_lanesOf, Weave.readers, getLsbD_union, Bool.or_eq_true, List.any_eq_true]
  exact .inr ⟨r, List.mem_filter.mpr ⟨hm, List.contains_iff_mem.mpr hl⟩, hg⟩

/-! ### Holds -/

/-- The four sectors of a line that a hold keeps. -/
def Hold.sectors (h : Hold) : List Loc := (List.range 4).map (fun i => Loc.mem (h.line * 128 + 32 * i))
/-- What the loss of one copy does. -/
def State.lose (s : State) (h : Hold) : State :=
  s.conflicts h.sectors (201, 0, 0) (fun c _ => c == h.core || dieKeeper (dieOf c) == h.core)

theorem dropHolds_eq (s : State) (p : Hold → Bool) : s.dropHolds p =
    (s.holds.filter p).foldl State.lose { s with holds := s.holds.filter (fun h => !p h) } := rfl

theorem mem_sectors (h : Hold) (j : Nat) (hj : j < 4) : Loc.mem (h.line * 128 + 32 * j) ∈ h.sectors.map Loc.sector := by
  refine List.mem_map.mpr ⟨.mem (h.line * 128 + 32 * j), List.mem_map.mpr ⟨j, List.mem_range.mpr hj, rfl⟩, ?_⟩
  simp only [Loc.sector, Loc.align, Loc.mem.injEq]
  omega

/-- Copies lost one after another change cores alone, and nothing of the threads but the marks of a conflict. -/
theorem lose_fold_frame (hs : List Hold) (s : State) : { hs.foldl State.lose s with cores := s.cores } = s ∧
    ∀ c w l, ((hs.foldl State.lose s).thread c w l).plainly = (s.thread c w l).plainly := by
  refine ⟨?_, (alike_fold hs State.lose (fun s h => alike_conflicts s _ _ _) s).threads⟩
  induction hs generalizing s with
  | nil => rfl
  | cons h hs ih => exact (congrArg (fun u : State => { u with cores := s.cores }) (ih (s.lose h)) :)

theorem lose_fold_unseen (hs : List Hold) (s : State) (c : Nat) (h : ∀ k ∈ hs, c ≠ k.core ∧ dieKeeper (dieOf c) ≠ k.core) :
    (hs.foldl State.lose s).core c = s.core c := by
  induction hs generalizing s with
  | nil => rfl
  | cons k hs ih =>
    obtain ⟨h1, h2⟩ := h k (List.mem_cons_self ..)
    rw [List.foldl_cons, ih _ (fun k hk => h k (List.mem_cons_of_mem _ hk))]
    exact core_conflicts_unseen s _ _ _ c (fun _ => by simp [h1, h2])

theorem lose_fold_conflicted (hs : List Hold) (s : State) (c w l : Nat) (h : (s.thread c w l).conflicted) :
    ((hs.foldl State.lose s).thread c w l).conflicted := by
  induction hs generalizing s with
  | nil => exact h
  | cons k hs ih => exact ih _ (conflicts_conflicted s _ _ _ c w l h)

/-- The first of the copies lost marks the readers of its line, and the later ones leave the mark. -/
theorem lose_fold_hits (hs : List Hold) (s : State) (h : Hold) (hm : hs.head? = some h) (c w l : Nat)
    (hc : c = h.core ∨ dieKeeper (dieOf c) = h.core) (hn : c ≠ 201)
    (hr : ∃ r ∈ (s.weave c w).reads, (∃ j, j < 4 ∧ r.1 = .mem (h.line * 128 + 32 * j)) ∧ r.2.getLsbD l = true) :
    ((hs.foldl State.lose s).thread c w l).conflicted := by
  obtain ⟨hs, rfl⟩ : ∃ t, hs = h :: t := List.head?_eq_some_iff.mp hm
  refine lose_fold_conflicted hs _ c w l (conflicts_hits s _ _ _ c w l ?_ ?_ ?_)
  · simpa using hc
  · exact fun e => hn (congrArg Prod.fst e).symm
  · obtain ⟨r, hr, ⟨j, hj, hl⟩, hg⟩ := hr
    exact ⟨r, hr, hl ▸ mem_sectors h j hj, hg⟩

theorem holdExpiry_drops (s : State) (i : Nat) (h : Hold) (hi : s.holds[i]? = some h) (hl : h.live s.time = false) :
    ∃ t, exec (.holdExpiry i) s = .next t ∧ { t with cores := s.cores, holds := s.holds } = s ∧
      t.holds = s.holds.filter (fun x => !(x == h)) ∧
      (∀ c w l, (t.thread c w l).plainly = (s.thread c w l).plainly) ∧
      (∀ c w l, c ≠ h.core → dieKeeper (dieOf c) ≠ h.core → t.thread c w l = s.thread c w l) ∧
      ∀ c w l p q, c = h.core ∨ dieKeeper (dieOf c) = h.core → c ≠ 201 → (s.thread c w l).spec = some p → l < 32 → (∃ r ∈ (s.weave c w).reads,
        (∃ j, j < 4 ∧ r.1 = .mem (h.line * 128 + 32 * j)) ∧ r.2.getLsbD l = true) → (t.thread c w l).spec = some q → q.conflict = true := by
  have he : exec (.holdExpiry i) s = .next (s.dropHolds (fun x => x == h)) := by
    show execHoldExpiry i s = _
    simp only [execHoldExpiry, hi, hl, Bool.false_eq_true, if_false]
  have hf := lose_fold_frame (s.holds.filter (fun x => x == h)) { s with holds := s.holds.filter (fun x => !(x == h)) }
  have hall : ∀ k ∈ s.holds.filter (fun x => x == h), k = h := fun k hk => eq_of_beq (List.mem_filter.mp hk).2
  have hhead : (s.holds.filter (fun x => x == h)).head? = some h := by
    have hm : h ∈ s.holds.filter (fun x => x == h) :=
      List.mem_filter.mpr ⟨List.mem_of_getElem? hi, beq_self_eq_true h⟩
    obtain ⟨k, hk⟩ := Option.isSome_iff_exists.mp (List.isSome_head?.mpr (List.ne_nil_of_mem hm))
    rw [hk, hall k (List.mem_of_mem_head? hk)]
  rw [dropHolds_eq] at he
  refine ⟨_, he, ?_, ?_, hf.2, fun c w l h1 h2 => ?_, fun c w l p q hc hn _ _ hr hq => ?_⟩
  · exact (congrArg (fun u : State => { u with holds := s.holds }) hf.1 :)
  · exact (congrArg State.holds hf.1 :)
  · refine congrArg (fun k : Core => (k.weave w).thread l) (lose_fold_unseen _ _ c (fun k hk => ?_))
    rw [hall k hk]
    exact ⟨h1, h2⟩
  · exact lose_fold_hits _ { s with holds := s.holds.filter (fun x => !(x == h)) } h hhead c w l hc hn hr q hq

theorem holdExpiry_live (s : State) (i : Nat) (h : Hold) (hi : s.holds[i]? = some h) (hl : h.live s.time = true) :
    exec (.holdExpiry i) s = .next s := by
  show execHoldExpiry i s = _
  simp only [execHoldExpiry, hi, hl, if_true]

end Sys2Proof.Machine
end

section
/-! SUPPORT. Lane collectives whose lanes arrive in several issues: what each contributor is left, and the completion by
the event (04 R133 to R139, 05 R152, R170, R172). -/

namespace Sys2Proof.Machine

/-! ### The results of a collective, contributor by contributor -/

/-- The results of a collective of `i` are `val` of each contributor. -/
def GivesEach (i : Instr) (val : Iss → Nat → FpWrite) : Prop :=
  ∀ x : Iss, x.ex.Pairwise (· < ·) → collVals i x = x.ex.map (fun l => (l, val x l))

theorem shfl_givesEach (o : AForm) : GivesEach (.shfl o)
    (fun x l => { w := { d := some (if x.ex.contains (x.c l) then x.a (x.c l) else x.a l) }, ex := 0 }) := by
  intro x _
  simp only [collVals, shuffle, plainVals, Int.natCast_nonneg, true_and, Int.toNat_natCast]

theorem shup_givesEach (o : IForm) : GivesEach (.shup o)
    (fun x l => { w := { d := some (if x.uimm ≤ l ∧ x.ex.contains (l - x.uimm) then x.a (l - x.uimm) else x.a l) }, ex := 0 }) := by
  intro x _
  have hn : ∀ l : Nat, ((l : Int) - x.uimm).toNat = l - x.uimm := fun l => by omega
  have hs : ∀ l : Nat, (0 ≤ (l : Int) - x.uimm) = (x.uimm ≤ l) := fun l => by
    rw [Int.sub_nonneg, Int.ofNat_le]
  simp only [collVals, shuffle, plainVals, hn, hs]

theorem shdn_givesEach (o : IForm) : GivesEach (.shdn o)
    (fun x l => { w := { d := some (if x.ex.contains (l + x.uimm) then x.a (l + x.uimm) else x.a l) }, ex := 0 }) := by
  intro x _
  simp only [collVals, shuffle, plainVals, ← Int.natCast_add, Int.natCast_nonneg, true_and, Int.toNat_natCast]

theorem shxor_givesEach (o : IForm) : GivesEach (.shxor o)
    (fun x l => { w := { d := some (if x.ex.contains (l ^^^ x.uimm) then x.a (l ^^^ x.uimm) else x.a l) }, ex := 0 }) := by
  intro x _
  simp only [collVals, shuffle, plainVals, Int.natCast_nonneg, true_and, Int.toNat_natCast]

/-- What a vote says of the contributors (04 R138). -/
def voted (x : Iss) : Bool :=
  match x.f.c.toNat % 4 with
  | 0 => x.ex.all (fun l => x.predOf x.f.a l)
  | 1 => x.ex.any (fun l => x.predOf x.f.a l)
  | _ => x.ex.all (fun l => x.predOf x.f.a l) || x.ex.all (fun l => !x.predOf x.f.a l)

theorem vote_givesEach (o : AForm) : GivesEach (.vote o) (fun x _ => { w := { p := some (voted x) }, ex := 0 }) := by
  intro x _
  have hv : (match x.f.c.toNat % 4 with
      | 0 => (x.ex.map (fun l => x.predOf x.f.a l)).all id
      | 1 => (x.ex.map (fun l => x.predOf x.f.a l)).any id
      | _ => (x.ex.map (fun l => x.predOf x.f.a l)).all id || (x.ex.map (fun l => x.predOf x.f.a l)).all not) = voted x := by
    simp only [voted, List.all_map, List.any_map]
    rfl
  exact List.map_congr_left (fun l _ => congrArg (fun b => (l, ({ w := { p := some b }, ex := 0 } : FpWrite))) hv)

theorem ballot_givesEach (o : AForm) : GivesEach (.ballot o)
    (fun x _ => { w := { d := some (maskOf (x.ex.filter (fun l => x.predOf x.f.a l))).toNat }, ex := 0 }) :=
  fun _ _ => rfl

/-- The scan of lane `l` counts lane `k`; an exclusive one (`e`) leaves out the lane itself (04 R139). -/
def scanCounts (e : Bool) (l k : Nat) : Bool := if e then decide (k < l) else decide (k ≤ l)
/-- What a scan leaves a contributor, from what it holds before the first lane of `ls`. -/
def scanned (x : Iss) (e : Bool) (ls : List Nat) (acc l : Nat) : FpWrite :=
  { w := { d := some ((ls.filter (scanCounts e l)).foldl
      (fun v k => scanStep (x.f.c.toNat % 8) x.f.ty x.sat v (x.a k)) acc) }, ex := 0 }

/-- The lowest lane counts at most itself. -/
theorem scanCounts_lowest (e : Bool) (a : Nat) (t : List Nat) (h : ∀ k ∈ t, a < k) :
    (a :: t).filter (scanCounts e a) = if e then [] else [a] := by
  have ht : t.filter (scanCounts e a) = [] := by
    refine List.filter_eq_nil_iff.mpr (fun k hk => ?_)
    have := h k hk
    cases e <;> simp only [scanCounts, Bool.false_eq_true, if_true, if_false, decide_eq_true_eq] <;> omega
  cases e <;> simp [scanCounts, ← ht]

theorem scanFrom_eq (x : Iss) (e : Bool) (ls : List Nat) (acc : Nat) (h : ls.Pairwise (· < ·)) :
    scanFrom x e acc ls = ls.map (fun l => (l, scanned x e ls acc l)) := by
  induction ls generalizing acc with
  | nil => rfl
  | cons a t ih =>
    obtain ⟨ha, ht⟩ := List.pairwise_cons.mp h
    rw [scanFrom, ih _ ht, List.map_cons]
    congr 1
    · rw [scanned, scanCounts_lowest e a t ha]
      cases e <;> rfl
    · refine List.map_congr_left (fun l hl => ?_)
      have hal := ha l hl
      have hk : scanCounts e l a = true := by
        cases e <;> simp only [scanCounts, Bool.false_eq_true, if_true, if_false, decide_eq_true_eq] <;> omega
      rw [scanned, scanned, List.filter_cons_of_pos hk, List.foldl_cons]

theorem scan_givesEach (o : AForm) : GivesEach (.scan o)
    (fun x l => scanned x (x.f.c.getLsbD 3) x.ex (scanId (x.f.c.toNat % 8) x.f.ty) l) :=
  fun x h => scanFrom_eq x _ x.ex _ h

/-- What a block quantisation leaves a contributor (05 R170). -/
def quantised (x : Iss) (l : Nat) : FpWrite :=
  if x.ex.any (fun k => (fVal 0 (x.a k)).isNaN || (fVal 0 (x.a k)).isInf) then { w := { d := some 0xFF00 }, ex := exIV }
  else
    let sc := blockScale x.f.ty (x.ex.map (fun k => fVal 0 (x.a k)))
    let e := blockElem x.f.ty (x.rnd l) sc (fVal 0 (x.a l))
    { w := { d := some ((sc + 127).toNat * 2 ^ 8 + e.1) }, ex := e.2 }

theorem bqnt_givesEach (o : AForm) : GivesEach (.bqnt o) quantised := by
  intro x _
  simp only [collVals, bqntVals, quantised]
  split <;> rfl

/-- What a tree reduction leaves a contributor (05 R172). -/
def reduced (h : Iss → FVal → FVal → FRes) (x : Iss) (l : Nat) : FpWrite :=
  ((fredVals h x).lookup l).getD { w := {}, ex := 0 }

theorem lookup_map_self {α : Type} (ls : List Nat) (f : Nat → α) (l : Nat) (h : l ∈ ls) :
    (ls.map (fun m => (m, f m))).lookup l = some (f l) := by
  induction ls with
  | nil => exact absurd h List.not_mem_nil
  | cons a t ih =>
    rw [List.map_cons, List.lookup_cons]
    by_cases he : l = a
    · rw [he, beq_self_eq_true]
    · rw [beq_false_of_ne he]
      exact ih ((List.mem_cons.mp h).resolve_left he)

theorem fredVals_each (h : Iss → FVal → FVal → FRes) (x : Iss) :
    fredVals h x = x.ex.map (fun l => (l, reduced h x l)) := by
  have hr : ∃ r, fredVals h x = x.ex.map (fun l => (l, r)) := ⟨_, rfl⟩
  obtain ⟨r, hr⟩ := hr
  refine hr.trans (List.map_congr_left (fun l hl => ?_))
  rw [reduced, hr, lookup_map_self x.ex (fun _ => r) l hl]
  rfl

theorem fredAdd_givesEach (o : AForm) : GivesEach (.fredAdd o) (reduced (fun x a b => fAddV x.rdn a b)) := by
  intro x _
  simp only [collVals]
  exact fredVals_each _ x
theorem fredMin_givesEach (o : AForm) : GivesEach (.fredMin o) (reduced (fun _ a b => (fPick false a b).res)) := by
  intro x _
  simp only [collVals]
  exact fredVals_each _ x
theorem fredMax_givesEach (o : AForm) : GivesEach (.fredMax o) (reduced (fun _ a b => (fPick true a b).res)) := by
  intro x _
  simp only [collVals]
  exact fredVals_each _ x

/-- The results of any collective are those of its contributors, or none where the word is no collective. -/
theorem collVals_lanes (i : Instr) (x : Iss) (h : x.ex.Pairwise (· < ·)) :
    (collVals i x).map (·.1) = x.ex ∨ collVals i x = [] := by
  have each : ∀ val, GivesEach i val → (collVals i x).map (·.1) = x.ex := by
    intro val hv
    rw [hv x h, List.map_map]
    exact List.map_id' x.ex
  cases i
  case shfl o => exact .inl (each _ (shfl_givesEach o))
  case shup o => exact .inl (each _ (shup_givesEach o))
  case shdn o => exact .inl (each _ (shdn_givesEach o))
  case shxor o => exact .inl (each _ (shxor_givesEach o))
  case vote o => exact .inl (each _ (vote_givesEach o))
  case ballot o => exact .inl (each _ (ballot_givesEach o))
  case scan o => exact .inl (each _ (scan_givesEach o))
  case bqnt o => exact .inl (each _ (bqnt_givesEach o))
  case fredAdd o => exact .inl (each _ (fredAdd_givesEach o))
  case fredMin o => exact .inl (each _ (fredMin_givesEach o))
  case fredMax o => exact .inl (each _ (fredMax_givesEach o))
  all_goals exact .inr rfl

/-! ### Completion -/

/-- What parking has left empty concerns registers alone. -/
theorem whole_fpCtl (t : Thread) : t.whole.fpCtl = t.fpCtl := by
  unfold Thread.whole
  generalize t.hollow = ns
  induction ns generalizing t with
  | nil => rfl
  | cons n ns ih => exact ih _

/-- The collective leaves the table of open ones. -/
def State.dropColl (s : State) (c w : Nat) (k : Coll) : State :=
  s.modWeave c w (fun y => { y with colls := y.colls.filter (fun q => !(q.pc == k.pc && q.mask == k.mask)) })
/-- The contributors hold their results. -/
def State.collPut (s : State) (c w : Nat) (k : Coll) : State :=
  (k.issue s c w).putAll (s.dropColl c w k) (collVals k.instr (k.issue s c w))
/-- They go on past the word, and keep what it keeps. -/
def State.collDone (s : State) (c w : Nat) (k : Coll) : State :=
  (k.issue s c w).keep ((s.collPut c w k).modThreads c w (lanesOf k.joined) (fun _ t =>
    { t with ctl := t.ctl.next 1, mode := .ready, stamp := s.tick, hollow := [], ceded := [] })) (lanesOf k.joined)

theorem completeColl_done (s : State) (c w : Nat) (k : Coll)
    (h : enabledLanes (k.issue s c w) (collVals k.instr (k.issue s c w)) = []) : s.completeColl c w k = s.collDone c w k := by
  unfold State.completeColl
  unfold Coll.issue at h
  simp only [h]
  rfl

theorem completeColl_traps (s : State) (c w : Nat) (k : Coll)
    (h : enabledLanes (k.issue s c w) (collVals k.instr (k.issue s c w)) ≠ []) (hr : s.rollWaits c w = false) :
    s.completeColl c w k = (s.dropColl c w k).trapEntry c w (lanesOf k.joined)
      (enabledLanes (k.issue s c w) (collVals k.instr (k.issue s c w))) trapArith
      (enabledUnion (k.issue s c w) (collVals k.instr (k.issue s c w))) k.pc := by
  obtain ⟨l, t, hl⟩ := List.exists_cons_of_ne_nil h
  rw [hl]
  unfold State.completeColl
  unfold Coll.issue at hl
  simp only [hl, hr, Bool.false_eq_true, if_false]
  rfl

theorem laneCollectiveCompletion_ready (s : State) (c w n : Nat) (k : Coll) (hk : (s.weave c w).colls[n]? = some k)
    (hr : (s.weave c w).collReady k = true) : exec (.laneCollectiveCompletion c w n) s = .next (s.completeColl c w k) := by
  show execLaneCollectiveCompletion c w n s = _
  simp only [execLaneCollectiveCompletion, hk, hr, if_true]

theorem laneCollectiveCompletion_early (s : State) (c w n : Nat) (k : Coll) (hk : (s.weave c w).colls[n]? = some k)
    (h : ∃ l, l < 32 ∧ k.mask.getLsbD l = true ∧ k.joined.getLsbD l = false ∧ (s.thread c w l).mode ≠ .exited) :
    exec (.laneCollectiveCompletion c w n) s = .next s := by
  obtain ⟨l, -, hm, hj, hx⟩ := h
  have hr : (s.weave c w).collReady k = false := by
    refine Bool.eq_false_iff.mpr (fun ha => ?_)
    have := List.all_eq_true.mp ha l ((mem_lanesOf _ l).mpr hm)
    simp only [hj, Bool.false_or, beq_iff_eq] at this
    exact hx this
  show execLaneCollectiveCompletion c w n s = _
  simp only [execLaneCollectiveCompletion, hk, hr, Bool.false_eq_true, if_false]

theorem lanesOf_ascending (m : Mask) : (lanesOf m).Pairwise (· < ·) := List.pairwise_lt_range.filter _

/-- A result changes registers, predicates, flags and draws alone. -/
theorem putFp_ctl (x : Iss) (t : Thread) (r : FpWrite) : (x.putFp t r).ctl = t.ctl :=
  (congrArg Thread.ctl (fp_effect x t r).rest :)
theorem putFp_ob (x : Iss) (t : Thread) (r : FpWrite) : (x.putFp t r).ob = t.ob :=
  (congrArg Thread.ob (fp_effect x t r).rest :)

theorem dropColl_thread (s : State) (c w : Nat) (k : Coll) (l : Nat) : (s.dropColl c w k).thread c w l = s.thread c w l := by
  rw [State.dropColl, thread_modWeave_at, if_pos ⟨rfl, rfl⟩]
  rfl

/-- The results of a collective go to its contributors. -/
theorem collVals_within (s : State) (c w : Nat) (k : Coll) :
    ((collVals k.instr (k.issue s c w)).map (·.1)).Nodup ∧
      ∀ l ∈ (collVals k.instr (k.issue s c w)).map (·.1), l ∈ lanesOf k.joined := by
  rcases collVals_lanes k.instr (k.issue s c w) (lanesOf_ascending k.joined) with h | h
  · rw [h]
    exact ⟨lanesOf_nodup _, fun _ hl => hl⟩
  · rw [h]
    exact ⟨List.nodup_nil, fun _ hl => absurd hl List.not_mem_nil⟩

theorem collPut_frame (s : State) (c w : Nat) (k : Coll) :
    OnlyThreads (s.dropColl c w k) (s.collPut c w k) c w (lanesOf k.joined) ∧
    ∀ r ∈ collVals k.instr (k.issue s c w), (s.collPut c w k).thread c w r.1 = (k.issue s c w).putFp (s.thread c w r.1) r.2 := by
  obtain ⟨hn, hi⟩ := collVals_within s c w k
  have h := fold_modThread (collVals k.instr (k.issue s c w)) (fun r t => (k.issue s c w).putFp t r) (s.dropColl c w k) c w hn
  refine ⟨h.1.mono hi, fun r hr => ?_⟩
  rw [← dropColl_thread s c w k]
  exact h.2 r hr

/-- Whatever the results, a contributor stands where it stood. -/
theorem collPut_ctl (s : State) (c w : Nat) (k : Coll) (l : Nat) :
    ((s.collPut c w k).thread c w l).ctl = (s.thread c w l).ctl := by
  obtain ⟨hn, hi⟩ := collVals_within s c w k
  have h := fold_modThread (collVals k.instr (k.issue s c w)) (fun r t => (k.issue s c w).putFp t r) (s.dropColl c w k) c w hn
  by_cases hl : l ∈ (collVals k.instr (k.issue s c w)).map (·.1)
  · obtain ⟨r, hr, rfl⟩ := List.mem_map.mp hl
    rw [(collPut_frame s c w k).2 r hr, putFp_ctl]
  · have he : (s.collPut c w k).thread c w l = s.thread c w l := (h.1.lanes l hl).trans (dropColl_thread s c w k l)
    rw [he]

/-- A thread that has left a collective, from what its results have made of it. -/
def Thread.leftColl (x : Iss) (l tick : Nat) (y : Thread) : Thread :=
  { y with ctl := y.ctl.next 1, mode := .ready, stamp := tick, hollow := [], ceded := [], ob := keptOb x l y.ob }

theorem collDone_thread (s : State) (c w : Nat) (k : Coll) (l : Nat) : (s.collDone c w k).thread c w l =
    if l ∈ lanesOf k.joined then ((s.collPut c w k).thread c w l).leftColl (k.issue s c w) l s.tick else s.thread c w l := by
  have hk := keep_thread (k.issue s c w) ((s.collPut c w k).modThreads c w (lanesOf k.joined) (fun _ t =>
    { t with ctl := t.ctl.next 1, mode := .ready, stamp := s.tick, hollow := [], ceded := [] })) (lanesOf_nodup k.joined) l
  refine Eq.trans hk ?_
  show (if l ∈ lanesOf k.joined then _ else State.thread _ c w l) = _
  rw [show (k.issue s c w).g.core = c from rfl, show (k.issue s c w).g.slot = w from rfl,
    thread_modThreads _ c w _ _ l (lanesOf_nodup _)]
  split
  · rfl
  · rename_i h
    exact ((collPut_frame s c w k).1.lanes l h).trans (dropColl_thread s c w k l)

theorem collDone_frame (s : State) (c w : Nat) (k : Coll) :
    OnlyThreads (s.dropColl c w k) (s.collDone c w k) c w (lanesOf k.joined) :=
  ((collPut_frame s c w k).1.trans (onlyThreads_modThreads _ c w _ _ (lanesOf_nodup _))).trans
    (keep_only (k.issue s c w) _ (lanesOf_nodup k.joined))

/-- Contributors without an enabled exception go on. -/
theorem laneCollectiveCompletion_masked (s : State) (c w n : Nat) (k : Coll) (hk : (s.weave c w).colls[n]? = some k)
    (hr : (s.weave c w).collReady k = true) (he : ∀ l, k.joined.getLsbD l = true → (s.thread c w l).enables = 0) :
    ∃ t, exec (.laneCollectiveCompletion c w n) s = .next t ∧ (∀ pa, t.memByte pa = s.memByte pa) ∧
      (t.weave c w).colls = (s.weave c w).colls.filter (fun q => !(q.pc == k.pc && q.mask == k.mask)) ∧
      ∀ l, if k.joined.getLsbD l = true then (t.thread c w l).ctl = (s.thread c w l).ctl.next 1 ∧ (t.thread c w l).mode = .ready ∧
          (t.thread c w l).hollow = [] ∧ (t.thread c w l).ceded = []
        else t.thread c w l = s.thread c w l := by
  have hd : enabledLanes (k.issue s c w) (collVals k.instr (k.issue s c w)) = [] := by
    rw [enabledLanes, List.map_eq_nil_iff, List.filter_eq_nil_iff]
    intro r hm
    have hj := (collVals_within s c w k).2 r.1 (List.mem_map_of_mem hm)
    have hx : ((k.issue s c w).th r.1).enables = (s.thread c w r.1).enables :=
      congrArg (fun v : Word => v.toNat % 32) (whole_fpCtl _)
    rw [hx, he r.1 ((mem_lanesOf _ _).mp hj)]
    simp
  have hf := collDone_frame s c w k
  refine ⟨s.collDone c w k, ?_, hf.bytes, ?_, fun l => ?_⟩
  · rw [laneCollectiveCompletion_ready s c w n k hk hr, completeColl_done s c w k hd]
  · have ht : ((s.collDone c w k).weave c w).colls = ((s.dropColl c w k).weave c w).colls := (congrArg Weave.colls hf.tables :)
    rw [ht, State.dropColl, weave_modWeave, if_pos rfl]
  · rw [collDone_thread]
    simp only [mem_lanesOf]
    split
    · exact ⟨congrArg (fun q : Ctl => q.next 1) (collPut_ctl s c w k l), rfl, rfl, rfl⟩
    · rfl

theorem collectsLater_of {i : Instr} {val : Iss → Nat → FpWrite} (h : GivesEach i val) : CollectsLater i val := by
  intro s c w n k hk hr hi x ht
  have hv := h x (lanesOf_ascending k.joined)
  rw [← hi] at hv
  have hd : enabledLanes x (collVals k.instr x) = [] := by rw [hv, trapping_eq, ht]
  refine ⟨s.collDone c w k, ?_, fun l hl => ?_⟩
  · rw [laneCollectiveCompletion_ready s c w n k hk hr, completeColl_done s c w k hd]
  · have hm := (mem_lanesOf k.joined l).mpr hl
    have hp : (s.collPut c w k).thread c w l = x.putFp (s.thread c w l) (val x l) :=
      (collPut_frame s c w k).2 (l, val x l) (hv ▸ List.mem_map_of_mem hm)
    have e := fp_effect x (s.thread c w l) (val x l)
    intro o u v
    have hvl : v = (x.putFp u (val x l)).leftColl x l s.tick := by
      show (s.collDone c w k).thread c w l = _
      rw [collDone_thread, if_pos hm, hp]
    rw [hvl]
    exact ⟨e.regs, e.preds, congrArg (keptOb x l) (putFp_ob x u (val x l)), e.flags, e.draws⟩

theorem trapsLater_of {i : Instr} {val : Iss → Nat → FpWrite} (h : GivesEach i val) : TrapsLater i val := by
  intro s c w n k hk hr hi x ht hw
  have hv := h x (lanesOf_ascending k.joined)
  rw [← hi] at hv
  have hd : enabledLanes x (collVals k.instr x) = trapping val x := by rw [hv, trapping_eq]
  have hb : enabledUnion x (collVals k.instr x) = trapBits val x := by rw [hv, trapBits_eq]
  rw [laneCollectiveCompletion_ready s c w n k hk hr, completeColl_traps s c w k (by rw [hd]; exact ht) hw, hd, hb]
  rfl

/-! ### The obligation -/

/-- Settles O44: each event is one of the laws above, most of them by one function of the state that says what the event
leaves its lanes (`arrive`, `rolled`, `gbReach`, `leftColl`). -/
theorem laneEvents : Obligations.LaneEvents :=
  ⟨pauseExpiry_fires, pauseExpiry_early, joinRelease_runs, releaseJoins_law, laneCollectiveCompletion_masked,
    fun o => collectsLater_of (shfl_givesEach o), fun o => collectsLater_of (shup_givesEach o),
    fun o => collectsLater_of (shdn_givesEach o), fun o => collectsLater_of (shxor_givesEach o),
    fun o => collectsLater_of (vote_givesEach o), fun o => collectsLater_of (ballot_givesEach o),
    fun o => collectsLater_of (scan_givesEach o), fun o => collectsLater_of (bqnt_givesEach o),
    fun o => collectsLater_of (fredAdd_givesEach o), fun o => collectsLater_of (fredMin_givesEach o),
    fun o => collectsLater_of (fredMax_givesEach o), fun o => trapsLater_of (bqnt_givesEach o),
    fun o => trapsLater_of (fredAdd_givesEach o), fun o => trapsLater_of (fredMin_givesEach o),
    fun o => trapsLater_of (fredMax_givesEach o), laneCollectiveCompletion_early, parkedSubgroupReplay_answered,
    parkedSubgroupReplay_unanswered, deferredResultArrival_effect, speculativeRollback_fires, speculativeRollback_stands,
    waitvReread_eq, waitvReread_ne, gangBarrierRelease_reaches, gbReach_law, holdExpiry_drops, holdExpiry_live⟩

end Sys2Proof.Machine
end

section
/-! SUPPORT. The control instructions: branches, calls and returns (03 R102 to R106), predicates (R107, R108), exit, yield,
pause and brk (R109 to R113). -/

namespace Sys2Proof.Machine

/-! ### Transfers -/

theorem plainly_putWords (k : Nat) (t : Thread) (n v : Nat) : (t.putWords n v k).plainly = t.plainly.putWords n v k := by
  induction k generalizing t n v with
  | zero => rfl
  | succ k ih => exact ih (t.putReg n { val := BitVec.ofNat 32 v }) (n + 1) (v / 2 ^ 32)

theorem plainly_dest (t : Thread) (d : BitVec 9) (bits v : Nat) : (t.dest d bits v).plainly = t.plainly.dest d bits v := by
  unfold Thread.dest
  split
  · rfl
  · exact plainly_putWords _ t _ v

/-- A write to d does the same whatever the thread speculates. -/
theorem dest_alike {t u : Thread} (h : t.plainly = u.plainly) (d : BitVec 9) (bits v : Nat) :
    (t.dest d bits v).plainly = (u.dest d bits v).plainly := by
  rw [plainly_dest, h, plainly_dest]

theorem linkEff_alike (x : Iss) (l : Nat) (t u : Thread) (h : t.plainly = u.plainly) :
    (linkEff x l t).plainly = (linkEff x l u).plainly :=
  congrArg (fun v : Thread => { v with ctl := { v.ctl with depth := (x.th l).ctl.depth + 1 } })
    (dest_alike h x.f.d 64 (x.th l).ctl.link.toNat)

/-- A branch whose condition `c` holds exactly where `want` names its label. -/
theorem jumps_branchIf {i : Instr} {c : Iss → Nat → Bool} {want : Iss → Nat → Option DWord}
    {eff : Iss → Nat → Thread → Thread} (hx : ∀ s, exec i s = issue i (branchIf c eff) s)
    (hw : ∀ x l, (if c x l then some x.label else none) = want x l)
    (hv : ∀ x l t u, t.plainly = u.plainly → (eff x l t).plainly = (eff x l u).plainly) : Jumps i want eff := by
  obtain rfl : (fun x l => if c x l then some x.label else none) = want := funext₂ hw
  exact jumps_transfer hx hv

theorem dFull_iff (x : Iss) (l : Nat) :
    x.dFull l = true ↔ x.f.d = 511 ∨ ((x.th l).reg x.f.d.toNat).full = true := by
  simp [Iss.dFull]

/-- Settles O1: each branch is the transfer to its label under its condition. -/
theorem directBranches : Obligations.DirectBranches := by
  unfold Obligations.DirectBranches
  refine ⟨fun o => ?br, fun o => ?bz, fun o => ?bnz, fun o => ?bfull, fun o => ?bempty, fun o => ?bpend, fun o => ?dbnz⟩
  case br => exact jumps_branchIf (fun _ => rfl) (fun _ _ => rfl) (fun _ _ _ _ h => h)
  case bz => exact jumps_branchIf (fun _ => rfl) (fun x l => by simp) (fun _ _ _ _ h => h)
  case bnz => exact jumps_branchIf (fun _ => rfl) (fun x l => by simp) (fun _ _ _ _ h => h)
  case bfull => exact jumps_branchIf (fun _ => rfl) (fun x l => by simp only [dFull_iff]) (fun _ _ _ _ h => h)
  case bempty =>
    exact jumps_branchIf (fun _ => rfl) (fun x l => by simp only [← dFull_iff]; cases x.dFull l <;> rfl) (fun _ _ _ _ h => h)
  case bpend => exact jumps_branchIf (fun _ => rfl) (fun _ _ => rfl) (fun _ _ _ _ h => h)
  case dbnz =>
    exact jumps_branchIf (fun _ => rfl) (fun x l => by simp [Iss.dec]) (fun x l _ _ h => dest_alike h x.f.d 32 (x.dec l))

/-- Settles O2: a call is the branch or the jump that also links, ret the jump that lowers DEPTH. -/
theorem callsAndReturns : Obligations.CallsAndReturns := by
  unfold Obligations.CallsAndReturns
  refine ⟨fun o => ?call, fun o => ?jmp, fun o => ?jcall, fun o => ?ret⟩
  case call => exact jumps_branchIf (eff := linkEff) (fun _ => rfl) (fun _ _ => rfl) linkEff_alike
  case jmp => exact jumps_transfer (fun _ => rfl) (fun _ _ _ _ h => h)
  case jcall => exact jumps_transfer (eff := linkEff) (fun _ => rfl) linkEff_alike
  case ret =>
    exact jumps_transfer (fun _ => rfl) (fun x l _ _ h =>
      congrArg (fun v : Thread => { v with ctl := { v.ctl with depth := (x.th l).ctl.depth - 1 } }) h)

/-! ### Predicates -/

/-- Settles O3: each of them gives every lane one predicate or one value, computed from the lane alone. -/
theorem predicateInstructions : Obligations.PredicateInstructions := by
  unfold Obligations.PredicateInstructions
  refine ⟨fun o => ?pand, fun o => ?por, fun o => ?pxor, fun o => ?pandn, fun o => ?pset, fun o => ?pget⟩
  case pget => exact computes_reg (fun _ => rfl)
  all_goals exact computes_pred (fun _ => rfl)

/-! ### Nothing done -/

theorem computed_moved {i : Instr} {s : State} {x : Iss} (hr : Ready i s x) :
    Computed s x (fun _ => {}) (x.settled (x.moved s)) :=
  computed_settled (ready_nodup hr) (ready_ex_nodup hr) (ready_sub hr) (onlyThreads_refl _ _ _ _) (fun _ _ => none_effect x _)

theorem stands_moved {i : Instr} {s : State} {x : Iss} (hr : Ready i s x) :
    Stands s x (fun _ => {}) (x.settled (x.moved s)) :=
  stands_unit (ready_nodup hr) (ready_ex_nodup hr) (ready_sub hr) (.rfl' _)

/-- An instruction that has no effect. -/
theorem computes_none {i : Instr} (hx : ∀ s, exec i s = issue i (fun x s => .done s x.ex) s) : Computes i toNone := by
  intro s x hr
  refine ⟨_, (hx s).trans (issue_go _ hr), ?_⟩
  rw [finish_settled]
  exact computed_moved hr

/-! ### pause and yield -/

theorem imm_toNat (o : IForm) : o.fields.imm.toNat = o.imm.toNat :=
  BitVec.toNat_setWidth_of_le (by norm_num)

theorem imm_zero_iff (o : IForm) : o.fields.imm = 0 ↔ o.imm = 0 := by
  simp only [BitVec.toNat_eq, imm_toNat, BitVec.ofNat_eq_ofNat, BitVec.toNat_ofNat, Nat.zero_mod]

theorem pause_waits (o : IForm) (s : State) (x : Iss) (hr : Ready (.pause o) s x) :
    exec (.pause o) s = .next (x.settled (if o.imm = 0 then x.moved s else
      (x.moved s).modThreads x.g.core x.g.slot x.ex (fun _ t => { t with mode := .paused, wake := s.cycles + o.imm.toNat }))) := by
  obtain ⟨-, -, hf, -, -⟩ := ready_ex hr
  have hf : x.f = o.fields := hf
  refine (execPause.eq_def o s).trans ((issue_go _ hr).trans ?_)
  simp only [hf, imm_zero_iff, imm_toNat]
  split <;> rw [finish_settled] <;> rfl

theorem yield_marks (o : AForm) :
    Acts (.yield o) (fun x s => x.teamed s ∧ (s.core x.g.core).others (s.team (x.mine s)).ctx = true) still (fun x s =>
      s.modTeam (x.mine s) (fun y => { y with pre := { y.pre with yielded := true } })) := by
  refine acts_still (execYield.eq_def o) ?_ (fun x u _ => sameWeaves_modTeam u _ _)
  rintro x u ⟨⟨ht, hex⟩, ho⟩
  obtain ⟨y, hy⟩ := Option.isSome_iff_exists.1 ht
  have hm : x.mine u = y := by rw [Iss.mine, hy]; rfl
  rw [hm] at ho ⊢
  simp [hy, hex, ho]

theorem yield_passes (o : AForm) :
    Acts (.yield o) (fun x s => ¬ (x.teamed s ∧ (s.core x.g.core).others (s.team (x.mine s)).ctx = true)) still
      (fun _ s => s) := by
  refine acts_still (execYield.eq_def o) ?_ (fun x u _ => .rfl' u)
  intro x u hn
  cases hy : (u.weave x.g.core x.g.slot).team with
  | none => simp only
  | some y =>
    have hm : x.mine u = y := by rw [Iss.mine, hy]; rfl
    have hskip : (x.ex.isEmpty || !(u.core x.g.core).others (u.team y).ctx) = true := by
      by_contra hc
      rw [Bool.or_eq_true, not_or, List.isEmpty_iff, Bool.not_eq_true', Bool.not_eq_false] at hc
      exact hn ⟨⟨by rw [hy]; rfl, hc.1⟩, by rw [hm]; exact hc.2⟩
    simp only [hskip, if_true]

/-! ### exit -/

theorem memByte_foldl {α : Type} (f : State → α → State) (hf : ∀ s a pa, (f s a).memByte pa = s.memByte pa) (es : List α)
    (s : State) (pa : Nat) : (es.foldl f s).memByte pa = s.memByte pa := by
  induction es generalizing s with
  | nil => rfl
  | cons a es ih => rw [List.foldl_cons, ih, hf]

theorem memByte_entryConflicts (s : State) (c : Nat) (e : StoreEnt) (sees : Nat → Nat → Bool) (pa : Nat) :
    (s.entryConflicts c e sees).memByte pa = s.memByte pa := by
  unfold State.entryConflicts
  rw [memByte_foldl]
  exact fun _ _ _ => rfl

/-- What becomes visible to other weaves marks their conflicts, and no more. -/
theorem memByte_showStores (s : State) (c w pa : Nat) : (s.showStores c w).memByte pa = s.memByte pa := by
  unfold State.showStores
  rw [memByte_foldl]
  exact fun s e pa => memByte_entryConflicts s c e _ pa

theorem memByte_freeWeave (s : State) (c w pa : Nat) : (s.freeWeave c w).memByte pa = s.memByte pa := by
  unfold State.freeWeave
  split
  · rfl
  · split
    · rw [(sameWeaves_modTeam _ _ _).bytes]
      exact memByte_showStores s c w pa
    · rfl

theorem exit_does (o : AForm) : Does (.exit o) (fun _ _ => True) (fun x s =>
    (s.modWeave x.g.core x.g.slot (fun w => x.ex.foldl Weave.exitLane w)).freeWeave x.g.core x.g.slot) :=
  does_of (fun _ => rfl) (fun _ _ _ => rfl)

theorem exit_bytes (o : AForm) (s : State) (x : Iss) (t : State) (hr : Ready (.exit o) s x)
    (h : exec (.exit o) s = .next t) (pa : Nat) : t.memByte pa = s.memByte pa := by
  have he := (exit_does o s x hr trivial).symm.trans h
  injection he with he
  rw [← he, Iss.settled, (keep_only x _ (ready_ex_nodup hr)).bytes, memByte_freeWeave]
  rfl

theorem JoinEnt.drop_members (e : JoinEnt) (l : Nat) : (e.drop l).members.getLsbD l = false := by
  simp [JoinEnt.drop]

theorem dropJoins_members {l : Nat} {js : List JoinEnt} {e : JoinEnt} (h : e ∈ dropJoins l js) :
    e.members.getLsbD l = false := by
  obtain ⟨h, -⟩ := List.mem_filter.1 h
  obtain ⟨j, -, rfl⟩ := List.mem_map.1 h
  exact j.drop_members l

/-- The lane is out of every entry before full entries are released, so no release makes it ready. -/
theorem exitLane_exited (w : Weave) (l : Nat) :
    ((w.exitLane l).thread l).mode = .exited ∧ ∀ e ∈ (w.exitLane l).joins, e.members.getLsbD l = false := by
  obtain ⟨hj, ht⟩ := releaseJoins_law { w.modThread l (fun t => { t with mode := .exited, spec := none }) with
    joins := dropJoins l w.joins }
  constructor
  · rw [Weave.exitLane, ht, if_neg]
    · exact congrArg Thread.mode ((thread_modThread w l l (fun t => { t with mode := .exited, spec := none })).trans (if_pos rfl))
    · rintro ⟨e, he, -, hl⟩
      rw [dropJoins_members he] at hl
      exact Bool.false_ne_true hl
  · intro e he
    rw [Weave.exitLane, hj] at he
    exact dropJoins_members (List.mem_of_mem_filter he)

/-! ### brk -/

theorem brk_traps (o : IForm) : Raises (.brk o) (fun x _ => x.ex ≠ []) 0x04 o.imm.toNat (fun x => x.ex) := by
  intro s x hr hc hex
  obtain ⟨-, -, hf, -, -⟩ := ready_ex hr
  have himm : x.f.imm.toNat = o.imm.toNat := by rw [hf]; exact imm_toNat o
  refine (execBrk.eq_def o s).trans ((issue_go _ hr).trans ?_)
  rw [if_neg (by simpa using hex), himm]
  exact congrArg _ (done_back x (x.moved s) x.ex 0x04 o.imm.toNat hc)

theorem brk_idle (o : IForm) (s : State) (x : Iss) (hr : Ready (.brk o) s x) (hex : x.ex = []) :
    exec (.brk o) s = .next (x.settled (x.moved s)) := by
  refine (execBrk.eq_def o s).trans ((issue_go _ hr).trans ?_)
  rw [if_pos (by simpa using hex), finish_settled]
  rfl

/-- Settles O4, form by form. -/
theorem exitPauseAndBreak : Obligations.ExitPauseAndBreak :=
  ⟨fun _ => computes_none (fun _ => rfl), pause_waits, yield_marks, yield_passes, exit_does, exit_bytes, exitLane_exited,
    brk_traps, fun o s x hr hex => ⟨brk_idle o s x hr hex, stands_moved hr⟩⟩

end Sys2Proof.Machine
end

section
/-! SUPPORT. The statement on slices speaks of a team under the name by which it is found, the model of the name in the
team's record. -/

namespace Sys2Proof.Machine

/-- A record that bears another name than the one under which it stands: its slice of 100 ns has run out. -/
def misnamedTeam : Team := { id := 2, pre := { slice := 100, left := 10, charged := some 0 } }

/-- Core 0 holds `misnamedTeam` as its team 1, and no other team. -/
def misnamedState : State := { cores := [(0, { Core.init with teams := [(1, misnamedTeam)] })], time := 10 }

/-- The slice ends in the record of team 2, of which there is none. -/
theorem sliceExpiry_misnamed :
    exec (.sliceExpiry 0 1) misnamedState = .next (misnamedState.expire 0 misnamedTeam 10) ∧
      (misnamedState.expire 0 misnamedTeam 10).team 1 = misnamedTeam :=
  ⟨rfl, by decide +kernel⟩

/-- Refutes O50: its first clause says that the team found under a name expires, but the model marks the team that the
record found names (`x.id`), and nothing in the clause makes the two names one, as `x.id = y` does in the clause on
`State.stopTeam`. The state `misnamedState` is the counterexample. -/
theorem not_slicesAndPreemption : ¬ Obligations.SlicesAndPreemption := by
  intro h
  obtain ⟨expires, -⟩ := h
  obtain ⟨hexec, hteam⟩ := sliceExpiry_misnamed
  obtain ⟨t, ht, -, hpre, -⟩ := expires misnamedState 0 1 misnamedTeam 0 (by decide +kernel) (by decide) (by decide) (by decide)
    (by decide +kernel)
  have he := hexec.symm.trans ht
  injection he with he
  rw [← he, hteam] at hpre
  exact absurd (congrArg Preempt.expired hpre) (by decide)

end Sys2Proof.Machine
end

section
/-! SUPPORT. Integer instructions that act on each lane alone (04 R115 to R132): Fit and the codes of the integer types, and
the carry chains. -/

namespace Sys2Proof.Machine

/-! ### The codes of the integer types (04 R115 to R117) -/

/-- The code of a value that the type holds. -/
def intCode (ty : BitVec 3) (v : Int) : Nat := if intSm ty then smEnc (intBits ty) v else wrap (intBits ty) v

theorem wrap_emod (n : Nat) (v : Int) : (wrap n v : Int) = v % (2 ^ n : Nat) :=
  Int.toNat_of_nonneg (Int.emod_nonneg v (by positivity))

theorem wrap_lt (n : Nat) (v : Int) : wrap n v < 2 ^ n := by
  have h : v % ((2 ^ n : Nat) : Int) < (2 ^ n : Nat) := Int.emod_lt_of_pos v (by positivity)
  rw [← wrap_emod] at h
  exact Int.ofNat_lt.1 h

theorem wrap_of_range (n : Nat) (v : Int) (h0 : 0 ≤ v) (h1 : v < (2 ^ n : Nat)) : (wrap n v : Int) = v := by
  rw [wrap_emod, Int.emod_eq_of_lt h0 h1]

/-- Two's complement reads back a value of the signed range. -/
theorem sint_wrap (k : Nat) (v : Int) (h0 : -(2 ^ k : Nat) ≤ v) (h1 : v < (2 ^ k : Nat)) :
    sint (k + 1) (wrap (k + 1) v) = v := by
  have hp : 2 ^ (k + 1) = 2 * 2 ^ k := pow_succ' 2 k
  have hu := Nat.mod_eq_of_lt (wrap_lt (k + 1) v)
  simp only [sint, hu, Nat.add_sub_cancel]
  rcases le_or_gt 0 v with hv | hv
  · have hw := wrap_of_range (k + 1) v hv (by omega)
    rw [if_pos (by omega), hw]
  · have hw : (wrap (k + 1) v : Int) = v + (2 ^ (k + 1) : Nat) := by
      rw [wrap_emod, ← Int.add_emod_right, Int.emod_eq_of_lt (by omega) (by omega)]
    rw [if_neg (by omega), hw, Int.add_sub_cancel]

/-- Sign and magnitude read back a value whose magnitude fits. -/
theorem smDec_smEnc (k : Nat) (v : Int) (h : v.natAbs < 2 ^ k) : smDec (k + 1) (smEnc (k + 1) v % 2 ^ (k + 1)) = v := by
  have hp : 2 ^ (k + 1) = 2 * 2 ^ k := pow_succ' 2 k
  simp only [smDec, smEnc, Nat.add_sub_cancel]
  split
  · rw [Nat.mod_eq_of_lt (by omega : 2 ^ k + v.natAbs < 2 ^ (k + 1)), Nat.add_mod_left, Nat.mod_eq_of_lt h,
      Nat.add_div_left _ (by positivity), Nat.div_eq_of_lt h, if_pos rfl]
    omega
  · rw [Nat.mod_eq_of_lt (by omega : v.natAbs < 2 ^ (k + 1)), Nat.mod_eq_of_lt h, Nat.div_eq_of_lt h, if_neg (by decide)]
    omega

theorem intLo_le_intHi (ty : BitVec 3) : intLo ty ≤ intHi ty := by
  revert ty; decide

theorem intBits_pos (ty : BitVec 3) : ∃ k, intBits ty = k + 1 := by
  refine ⟨intBits ty - 1, ?_⟩
  revert ty; decide

/-- Lo and Hi of a sign-magnitude type bound the magnitude (04 Table 1). -/
theorem intSm_range (ty : BitVec 3) (h : intSm ty = true) :
    intLo ty = 1 - (2 ^ (intBits ty - 1) : Nat) ∧ intHi ty = (2 ^ (intBits ty - 1) : Nat) - 1 := by
  revert ty; decide

theorem int_range (ty : BitVec 3) (h : intSm ty = false) :
    (intLo ty, intHi ty) = if intSigned ty then (-((2 ^ (intBits ty - 1) : Nat) : Int), ((2 ^ (intBits ty - 1) : Nat) : Int) - 1)
      else (0, ((2 ^ intBits ty : Nat) : Int) - 1) := by
  revert ty; decide

/-- A type reads its own codes. -/
theorem intVal_intCode (ty : BitVec 3) (v : Int) (h0 : intLo ty ≤ v) (h1 : v ≤ intHi ty) : intVal ty (intCode ty v) = v := by
  obtain ⟨k, hk⟩ := intBits_pos ty
  cases hs : intSm ty with
  | true =>
    obtain ⟨hlo, hhi⟩ := intSm_range ty hs
    rw [hk, Nat.add_sub_cancel] at hlo hhi
    simp only [intVal, intCode, hs, hk, if_true]
    exact smDec_smEnc k v (by omega)
  | false =>
    have hr := int_range ty hs
    simp only [intVal, intCode, hs, hk, Bool.false_eq_true, if_false, Nat.add_sub_cancel] at hr ⊢
    split at hr
    · obtain ⟨hlo, hhi⟩ := Prod.mk.inj hr
      rw [if_pos ‹_›]
      exact sint_wrap k v (by omega) (by omega)
    · obtain ⟨hlo, hhi⟩ := Prod.mk.inj hr
      rw [if_neg ‹_›, Nat.mod_eq_of_lt (wrap_lt _ v)]
      exact wrap_of_range _ v (by omega) (by omega)

theorem fit_sat (ty : BitVec 3) (v : Int) : fit ty true v = intCode ty (max (intLo ty) (min (intHi ty) v)) := by
  simp only [fit, intCode, if_true]

theorem fit_inside (ty : BitVec 3) (sat : Bool) (v : Int) (h0 : intLo ty ≤ v) (h1 : v ≤ intHi ty) :
    fit ty sat v = intCode ty v := by
  simp only [fit, intCode, min_eq_right h1, max_eq_right h0, ite_self]

theorem fit_sm (ty : BitVec 3) (sat : Bool) (v : Int) (h : intSm ty = true) : fit ty sat v = fit ty true v := by
  simp only [fit, h, if_true]

/-- Settles O6: Fit writes the code of the value, clamped or wrapped where the type does not hold it, and a type reads its own
codes. -/
theorem fitWrapsOrSaturates : Obligations.FitWrapsOrSaturates := by
  refine ⟨fun ty sat v h0 h1 => ?inside, fun ty v h => ?below, fun ty v h => ?above, fun ty v h => ?wraps,
    fun ty v h => fit_sm ty false v h⟩
  case inside => rw [fit_inside ty sat v h0 h1, intVal_intCode ty v h0 h1]
  case below =>
    have hle := intLo_le_intHi ty
    rw [fit_sat, min_eq_right (h.le.trans hle), max_eq_left h.le, intVal_intCode ty _ le_rfl hle]
  case above =>
    have hle := intLo_le_intHi ty
    rw [fit_sat, min_eq_left h.le, max_eq_right hle, intVal_intCode ty _ hle le_rfl]
  case wraps => simp only [fit, h, Bool.false_eq_true, if_false, wrap_emod]

/-! ### Results of one lane -/

/-- An instruction that writes Fit of an exact value (04 R121). -/
theorem computes_arith {i : Instr} {v : Iss → Nat → Int} (hx : ∀ s, exec i s = issue i (arith v) s) :
    Computes i (toReg fun x l => fit x.f.ty x.sat (v x l)) := computes_reg hx

/-- Settles O5: every one of them is Fit of its exact value, or a bit pattern of the exact product. -/
theorem integerArithmetic : Obligations.IntegerArithmetic := by
  unfold Obligations.IntegerArithmetic
  refine ⟨fun o => ?add, fun o => ?sub, fun o => ?min, fun o => ?max, fun o => ?abs, fun o => ?mul, fun o => ?mad,
    fun o => ?addi, fun o => ?muli, fun o => ?mulhi, fun o => ?mulw⟩
  case mulhi | mulw => exact computes_reg (fun _ => rfl)
  all_goals exact computes_arith (fun _ => rfl)

/-- Settles O8: each of them writes a bit pattern computed from the lane alone. -/
theorem logicAndShifts : Obligations.LogicAndShifts := by
  unfold Obligations.LogicAndShifts
  refine ⟨fun o => ?and, fun o => ?or, fun o => ?xor, fun o => ?andn, fun o => ?andi, fun o => ?ori, fun o => ?shl,
    fun o => ?shr, fun o => ?sar, fun o => ?ror, fun o => ?fsh, fun o => ?shli, fun o => ?shri, fun o => ?sari⟩
  all_goals exact computes_reg (fun _ => rfl)

/-- Settles O9: each of them writes a bit pattern computed from the lane alone. -/
theorem bitFieldsAndCounts : Obligations.BitFieldsAndCounts := by
  unfold Obligations.BitFieldsAndCounts
  refine ⟨fun o => ?bfx, fun o => ?bfxi, fun o => ?bfi, fun o => ?popc, fun o => ?clz⟩
  all_goals exact computes_reg (fun _ => rfl)

/-- Settles O10: the comparisons write one predicate, the others one value, each computed from the lane alone. -/
theorem compareSelectConstantsAddresses : Obligations.CompareSelectConstantsAddresses := by
  unfold Obligations.CompareSelectConstantsAddresses
  refine ⟨fun o => ?cmp, fun o => ?cmpi, fun o => ?sel, fun o => ?li, fun o => ?lda, fun o => ?lea, fun o => ?lid⟩
  case cmp | cmpi => exact computes_pred (fun _ => rfl)
  all_goals exact computes_reg (fun _ => rfl)

/-! ### Carry chains (04 R122) -/

/-- The carry that a lane reads. -/
def Iss.carryIn (x : Iss) (l : Nat) : Int := if x.predOf x.f.c l then 1 else 0

/-- A carry chain writes the low bits of its exact result, and then its carry to P(c). -/
theorem computes_carry {i : Instr} {v : Int → Int → Int → Int} {out : Nat → Int → Bool}
    (hx : ∀ s, exec i s = issue i (carry v out) s) (hw : i.row.d.width (i.fields.getD {}).b = intBits (i.fields.getD {}).ty) :
    Computes i (fun x l =>
      { reg := some (wrap x.w (v (x.a l) (x.b l) (x.carryIn l))),
        pred := some (x.f.c.toNat % 8, out x.w (v (x.a l) (x.b l) (x.carryIn l))) }) := by
  intro s x hr
  obtain ⟨-, -, hf, hrow, -⟩ := ready_ex hr
  have hwidth : x.r.d.width x.f.b = x.w := by rw [hf, hrow, Iss.w, hf, hw]
  refine ⟨_, (hx s).trans (issue_go _ hr), computed_done _ (ready_nodup hr) (ready_ex_nodup hr) (ready_sub hr) (fun l _ t => ?_)⟩
  have hd := dest_effect x t (wrap x.w (v (x.a l) (x.b l) (x.carryIn l)))
  rw [hwidth] at hd
  exact pred_effect _ _ (Nat.mod_lt _ (by norm_num)) hd

/-- Settles O7: both are the carry chain of their exact result. -/
theorem carryChains : Obligations.CarryChains :=
  ⟨fun _ => computes_carry (v := fun a b c => a + b + c) (out := fun w r => decide ((2 ^ w : Nat) ≤ r)) (fun _ => rfl) rfl,
    fun _ => computes_carry (v := fun a b c => a - b - c) (out := fun _ r => decide (r < 0)) (fun _ => rfl) rfl⟩

end Sys2Proof.Machine
end

section
/-! SUPPORT. The statement on lane collectives speaks of every lane that arrives, one that bears the mark of an earlier wait
included. -/

namespace Sys2Proof.Machine

/-- A shuffle of a mask in register 1. -/
def shuffleWord : AForm :=
  { pred := 7, psense := false, d := 2, a := 3, b := 1, c := 4, keep := 0, empA := false, empB := false, empC := false,
    ty := 4, mod := 0 }

/-- Lane 0 of weave 0 of core 0 is alone, names itself in register 1, and bears the mark of an earlier offer of its word. -/
def markedLane : State :=
  { cores := [(0, { Core.init with weaves := [(0, { threads :=
      [(0, { mode := .ready, regs := [(1, { val := 1 })], mark := some { pc := 0, id := 0 } })] })] })],
    cur := { core := 0, slot := 0, lanes := 1 } }

/-- The issue of the shuffle by that lane. -/
def markedIssue : Iss :=
  { g := { core := 0, slot := 0, lanes := [0], pc := 0, ctl := {}, spec := false }, i := .shfl shuffleWord,
    f := shuffleWord.fields, r := (Instr.shfl shuffleWord).row, ex := [0], old := markedLane }

theorem markedIssue_ready : Ready (.shfl shuffleWord) markedLane markedIssue := by decide +kernel

/-- Arriving at a collective gives a lane back the mark that it bore, and the completion does not take it away. -/
theorem shfl_keeps_mark :
    ((markedIssue.finish (collective markedIssue (markedIssue.moved markedLane))).thread 0 0 0).mark =
      some { pc := 0, id := 0 } := by
  decide +kernel

/-- Refutes O15: it says that every lane of a completed collective goes on as after any other word, its mark gone, but a lane
that bore a mark when it arrived still bears it. The state `markedLane` is the counterexample, by its first clause. -/
theorem not_laneCollectives : ¬ Obligations.LaneCollectives := by
  intro h
  obtain ⟨shfl, -⟩ := h
  obtain ⟨t, ht, hc⟩ := shfl shuffleWord markedLane markedIssue markedIssue_ready (by decide) (by decide +kernel)
    (by decide +kernel) (by decide +kernel)
  have he := (issue_go collective markedIssue_ready).symm.trans ht
  injection he with he
  obtain ⟨-, -, hmark⟩ := (hc.lanes 0 (by decide)).replay
  rw [← he] at hmark
  exact absurd (hmark.symm.trans shfl_keeps_mark) (by decide)

end Sys2Proof.Machine
end

section
/-! SUPPORT. Floating-point instructions that act on each lane alone (05 R162 to R171): each is `fpLanes` of its exact result,
rounded, or of its code. -/

namespace Sys2Proof.Machine

/-! ### Shapes of a result -/

/-- Arithmetic: the exact value of each lane rounded once to the type (05 R147). -/
theorem fpMeans_rounded {i : Instr} {h : Iss → Nat → FRes × Nat} (hx : ∀ s, exec i s = issue i (fpOp h) s) :
    FpMeans i (rounded h) := fpMeans_lanes hx

/-- Conversions and estimates: a code and its exceptions, written as they are. -/
theorem fpMeans_coded {i : Instr} {h : Iss → Nat → Nat × Nat} (hx : ∀ s, exec i s = issue i (fpCode h) s) :
    FpMeans i (coded h) := fpMeans_lanes hx

/-- A minimum or maximum is the operand that `fPick` chooses (05 R163). -/
theorem fpMeans_pick {i : Instr} (max : Bool) (hx : ∀ s, exec i s = issue i (fPickOp max) s) :
    FpMeans i (rounded fun x l => ((fPick max (x.fa l) (x.fb l)).res, sigFlag [x.fa l, x.fb l])) := fpMeans_rounded hx

/-- A function of one operand, rounded once (05 R165). -/
theorem fpMeans_function {i : Instr} (h : FVal → FRes) (hx : ∀ s, exec i s = issue i (fpFunction h) s) :
    FpMeans i (rounded fun x l => (h (x.fa l), sigFlag [x.fa l])) := fpMeans_rounded hx

/-- An estimate, with the exceptions of its flush (05 R158, R165; log entry 35). -/
theorem fpMeans_estimate {i : Instr} (h : FVal → FRes) (hx : ∀ s, exec i s = issue i (fpEstimate h) s) :
    FpMeans i (coded fun x l =>
      (((h (x.fa l)).estimate (x.th l).ftz).1, ((h (x.fa l)).estimate (x.th l).ftz).2 ||| sigFlag [x.fa l])) :=
  fpMeans_coded hx

/-! ### The obligations -/

/-- Settles O11: each of them rounds its exact value once. -/
theorem floatArithmetic : Obligations.FloatArithmetic := by
  unfold Obligations.FloatArithmetic
  refine ⟨fun o => ?fadd, fun o => ?fsub, fun o => ?fmul, fun o => ?fdiv, fun o => ?fsqrt, fun o => ?fma, fun o => ?fms,
    fun o => ?fscale, fun o => ?faddi, fun o => ?fmuli, fun o => ?fmai⟩
  all_goals exact fpMeans_rounded (fun _ => rfl)

/-- Settles O12: a selection or rounded value, a predicate, or a bit pattern that raises nothing. -/
theorem floatSelectCompareClass : Obligations.FloatSelectCompareClass := by
  unfold Obligations.FloatSelectCompareClass
  refine ⟨fun o => ?fmin, fun o => ?fmax, fun o => ?frint, fun o => ?fgetexp, fun o => ?fgetman, fun o => ?fcmp, fun o => ?fcmpi,
    fun o => ?fabs, fun o => ?fneg, fun o => ?fcps, fun o => ?fclass⟩
  case fmin => exact fpMeans_pick false (fun _ => rfl)
  case fmax => exact fpMeans_pick true (fun _ => rfl)
  case frint | fgetexp | fgetman => exact fpMeans_rounded (fun _ => rfl)
  case fcmp | fcmpi => exact fpMeans_lanes (fun _ => rfl)
  case fabs | fneg | fcps | fclass => exact computes_reg (fun _ => rfl)

/-- Settles O13: the estimates write their code, the functions round theirs. -/
theorem floatFunctions : Obligations.FloatFunctions :=
  ⟨fun _ => fpMeans_estimate fRcpV (fun _ => rfl), fun _ => fpMeans_estimate fRsqV (fun _ => rfl),
    fun _ => fpMeans_function fEx2V (fun _ => rfl), fun _ => fpMeans_function fLg2V (fun _ => rfl),
    fun _ => fpMeans_function fSinpiV (fun _ => rfl), fun _ => fpMeans_function fCospiV (fun _ => rfl)⟩

/-- Settles O14: each writes a code with its exceptions but fdot2, which rounds its sum once to FP32. -/
theorem conversions : Obligations.Conversions := by
  unfold Obligations.Conversions
  refine ⟨fun o => ?fli, fun o => ?fcvt, fun o => ?fcvti, fun o => ?icvtf, fun o pos => ?fpk, fun o pos => ?fupk, fun o => ?fdot2,
    fun o => ?bdq⟩
  case fdot2 => exact fpMeans_lanes (fun _ => rfl)
  all_goals exact fpMeans_coded (fun _ => rfl)

end Sys2Proof.Machine
end

section
/-! SUPPORT. The statement on block quantisation and reductions speaks, like the one on lane collectives, of a lane that bears
the mark of an earlier wait. -/

namespace Sys2Proof.Machine

/-- Block quantisation to E4M3 of register 3 over the lanes in register 1. -/
def quantiseWord : AForm := { shuffleWord with c := 0 }

/-- The issue of the block quantisation by the lane of `markedLane`. -/
def markedQuantise : Iss :=
  { markedIssue with i := .bqnt quantiseWord, f := quantiseWord.fields, r := (Instr.bqnt quantiseWord).row }

theorem markedQuantise_ready : Ready (.bqnt quantiseWord) markedLane markedQuantise := by decide +kernel

/-- The completion of a block quantisation leaves a lane the mark that it bore, as that of a shuffle does. -/
theorem bqnt_keeps_mark :
    ((markedQuantise.finish (collective markedQuantise (markedQuantise.moved markedLane))).thread 0 0 0).mark =
      some { pc := 0, id := 0 } := by
  decide +kernel

/-- What `Collects` would leave of every mark: none. -/
theorem mark_of_collects {i : Instr} {val : Iss → Nat → FpWrite} {s : State} {x : Iss} (h : Collects i val)
    (hx : ∀ s, exec i s = issue i collective s) (hr : Ready i s x) (hex : x.ex ≠ [])
    (hcolls : (s.weave x.g.core x.g.slot).colls = []) (hmask : ∀ l ∈ x.ex, BitVec.ofNat 32 (x.b l) = maskOf x.ex)
    (htrap : trapping val { x with old := x.moved s } = []) {l : Nat} (hl : l ∈ x.g.lanes) :
    ((x.finish (collective x (x.moved s))).thread x.g.core x.g.slot l).mark = none := by
  obtain ⟨t, ht, hc⟩ := h s x hr hex hcolls hmask htrap
  have he := ((hx s).trans (issue_go collective hr)).symm.trans ht
  injection he with he
  obtain ⟨-, -, hmark⟩ := (hc.lanes l hl).replay
  rw [← hmark, ← he]
  rfl

/-- Refutes O16: it says that every lane goes on as after any other word, its mark gone, but a lane that bore a mark when it
arrived at the collective still bears it (`bqnt_keeps_mark`). The state `markedLane` is the counterexample, by the first
clause. -/
theorem not_blockQuantisationAndReduction : ¬ Obligations.BlockQuantisationAndReduction := by
  intro h
  obtain ⟨bqnt, -⟩ := h
  have gone := mark_of_collects (bqnt quantiseWord) (fun _ => rfl) markedQuantise_ready (by decide) (by decide +kernel)
    (by decide +kernel) (by decide +kernel) (l := 0) (by decide)
  exact absurd (gone.symm.trans bqnt_keeps_mark) (by decide)

end Sys2Proof.Machine
end

section
/-! SUPPORT. Threads on tile slots (06 R198), and the trap that 06 R189 picks among the lanes of an instruction. -/

namespace Sys2Proof.Machine

/-! ### The trap picked among the lanes (06 R189) -/

/-- A lane whose check ends in a trap, with the step, the cause and the detail. -/
def badOf (r : Nat × Chk) : Option (Nat × Nat × Nat × Nat) :=
  match r.2 with
  | .bad s c d => some (r.1, s, c, d)
  | _ => none

/-- The lower of two steps with its cause, the first of equals. -/
def lowerStep (m : Option (Nat × Nat)) (b : Nat × Nat × Nat × Nat) : Option (Nat × Nat) :=
  match m with
  | none => some (b.2.1, b.2.2.1)
  | some (s, c) => if b.2.1 < s then some (b.2.1, b.2.2.1) else some (s, c)

/-- The lanes that have the cause, with the detail of the first. -/
def trapOf (bads : List (Nat × Nat × Nat × Nat)) (c : Nat) : Nat × Nat × List Nat :=
  let l := bads.filter (fun b => b.2.2.1 = c)
  (c, (l.head?.map (fun b => b.2.2.2)).getD 0, l.map (·.1))

theorem pickTrap_eq (rs : List (Nat × Chk)) :
    pickTrap rs = ((rs.filterMap badOf).foldl lowerStep none).map (fun m => trapOf (rs.filterMap badOf) m.2) := by
  have h : pickTrap rs = match (rs.filterMap badOf).foldl lowerStep none with
    | none => none
    | some (_, c) => some (trapOf (rs.filterMap badOf) c) := rfl
  rw [h]
  cases (rs.filterMap badOf).foldl lowerStep none <;> rfl

theorem lowerStep_least (st c : Nat) (bads : List (Nat × Nat × Nat × Nat)) (m : Option (Nat × Nat))
    (hb : ∀ b ∈ bads, (b.2.1 = st ∧ b.2.2.1 = c) ∨ st < b.2.1) (hm : ∀ n, m = some n → n = (st, c) ∨ st < n.1)
    (hex : m = some (st, c) ∨ ∃ b ∈ bads, b.2.1 = st) : bads.foldl lowerStep m = some (st, c) := by
  induction bads generalizing m with
  | nil => simpa using hex
  | cons b t ih =>
    obtain ⟨hb1, ht⟩ := List.forall_mem_cons.1 hb
    refine ih _ ht ?_ ?_
    · rcases m with _ | ⟨s', c'⟩
      · grind [lowerStep]
      · grind [lowerStep]
    · rcases m with _ | ⟨s', c'⟩
      · grind [lowerStep]
      · grind [lowerStep]

/-- The traps of the lowest failing step win; the other checks that fail do so at later steps for other causes. -/
theorem pickTrap_least {rs : List (Nat × Chk)} {st c d : Nat} (hex : ∃ l, (l, .bad st c d) ∈ rs)
    (hall : ∀ l s' c' d', (l, .bad s' c' d') ∈ rs → (s' = st ∧ c' = c ∧ d' = d) ∨ (st < s' ∧ c' ≠ c)) :
    pickTrap rs = some (c, d, (rs.filter (fun r => r.2 = .bad st c d)).map (·.1)) := by
  have mem : ∀ b, b ∈ rs.filterMap badOf ↔ (b.1, .bad b.2.1 b.2.2.1 b.2.2.2) ∈ rs := by
    intro b
    rw [List.mem_filterMap]
    constructor
    · rintro ⟨⟨l, k⟩, hr, he⟩
      cases k <;> simp only [badOf, reduceCtorEq, Option.some.injEq] at he
      subst he
      exact hr
    · exact fun h => ⟨_, h, rfl⟩
  obtain ⟨l, hl⟩ := hex
  have hf : (rs.filterMap badOf).foldl lowerStep none = some (st, c) := by
    refine lowerStep_least st c _ none (fun b hb => ?_) (by simp) (.inr ⟨(l, st, c, d), (mem _).2 hl, rfl⟩)
    rcases hall _ _ _ _ ((mem b).1 hb) with ⟨h1, h2, -⟩ | ⟨h1, -⟩
    · exact .inl ⟨h1, h2⟩
    · exact .inr h1
  have hq : (rs.filterMap badOf).filter (fun b => b.2.2.1 = c) =
      (rs.filter (fun r => r.2 = .bad st c d)).map (fun r => (r.1, st, c, d)) := by
    clear hf mem hl
    induction rs with
    | nil => rfl
    | cons r t ih =>
      have iht := ih (fun l s' c' d' h => hall l s' c' d' (List.mem_cons_of_mem _ h))
      obtain ⟨m, k⟩ := r
      cases k with
      | bad s' c' d' =>
        rcases hall m s' c' d' (List.mem_cons_self ..) with ⟨rfl, rfl, rfl⟩ | ⟨h1, h2⟩
        · simp [badOf, iht]
        · simp [badOf, iht, h2]
      | ok | fault | wait | lender =>
        rw [List.filterMap_cons_none rfl, iht, List.filter_cons_of_neg (by simp)]
  have hne : rs.filter (fun r => r.2 = .bad st c d) ≠ [] :=
    List.ne_nil_of_mem (List.mem_filter.2 ⟨hl, by simp⟩)
  rw [pickTrap_eq, hf, Option.map_some, trapOf, hq]
  obtain ⟨a, t, hat⟩ := List.exists_cons_of_ne_nil hne
  simp [hat, Function.comp_def]

theorem pickTrap_none {rs : List (Nat × Chk)} (h : ∀ r ∈ rs, ∀ s c d, r.2 ≠ .bad s c d) : pickTrap rs = none := by
  have hb : rs.filterMap badOf = [] := List.filterMap_eq_nil_iff.2 (fun r hr => by
    unfold badOf
    split
    · exact absurd ‹_› (h r hr _ _ _)
    · rfl)
  rw [pickTrap_eq, hb]
  rfl

/-! ### Bytes of the operand-buffer banks -/

theorem tabGet_putList (bs : List Byte) (o j : Nat) (m : Tab Byte) :
    tabGet 0 j ((bs.zipIdx o).foldl (fun m e => tabPut 0 e.2 e.1 m) m) =
      if o ≤ j then (bs[j - o]?).getD (tabGet 0 j m) else tabGet 0 j m := by
  induction bs generalizing o m with
  | nil => simp
  | cons b t ih =>
    rw [List.zipIdx_cons, List.foldl_cons, ih, tabGet_put]
    rcases lt_trichotomy j o with h | h | h
    · rw [if_neg (show ¬ o + 1 ≤ j by omega), if_neg h.ne, if_neg (by omega)]
    · subst h
      simp
    · rw [if_pos (show o + 1 ≤ j from h), if_neg (show j ≠ o from h.ne'), if_pos h.le, show j - o = j - (o + 1) + 1 by omega,
        List.getElem?_cons_succ]

/-! ### Instructions on a slot -/

/-- The slot that the word names, in the team of its weave. -/
def Iss.slot (x : Iss) (s : State) : TileSlot := (s.team (x.mine s)).tslot x.slotNo

theorem mine_eq {x : Iss} {s : State} {t : Nat} (h : (s.weave x.g.core x.g.slot).team = some t) : x.mine s = t := by
  rw [Iss.mine, h]; rfl

theorem team_some {x : Iss} {s : State} (h : (s.weave x.g.core x.g.slot).team.isSome = true) :
    (s.weave x.g.core x.g.slot).team = some (x.mine s) := by
  obtain ⟨t, ht⟩ := Option.isSome_iff_exists.1 h
  rw [ht, mine_eq ht]

theorem onSlot_waits {h : Iss → State → Nat → TileSlot → Act} {x : Iss} {s : State} (ht : x.teamed s)
    (hs : (x.slot s).st ≠ .ready) : onSlot h x s = .wait s := by
  have hs' : ((s.team (x.mine s)).tslot x.slotNo).st ≠ .ready := hs
  simp [onSlot, team_some ht.1, ht.2, hs']

theorem onSlot_traps {h : Iss → State → Nat → TileSlot → Act} {x : Iss} {s : State} {c d : Nat} {ls : List Nat}
    (ht : x.teamed s) (hs : (x.slot s).st = .ready)
    (hp : pickTrap (slotChecks x (memBytes x.f.ty) (x.slot s).len) = some (c, d, ls)) :
    onSlot h x s = .trap s [] c d ls := by
  have hs' : ((s.team (x.mine s)).tslot x.slotNo).st = .ready := hs
  have hp' : pickTrap (slotChecks x (memBytes x.f.ty) ((s.team (x.mine s)).tslot x.slotNo).len) = some (c, d, ls) := hp
  simp [onSlot, team_some ht.1, ht.2, hs', hp']

theorem onSlot_runs {h : Iss → State → Nat → TileSlot → Act} {x : Iss} {s : State} (ht : x.teamed s)
    (hs : (x.slot s).st = .ready)
    (hl : ∀ l ∈ x.ex, x.a l % memBytes x.f.ty = 0 ∧ x.a l + memBytes x.f.ty ≤ (x.slot s).len) :
    onSlot h x s = h x s (x.mine s) (x.slot s) := by
  have hs' : ((s.team (x.mine s)).tslot x.slotNo).st = .ready := hs
  have hp : pickTrap (slotChecks x (memBytes x.f.ty) ((s.team (x.mine s)).tslot x.slotNo).len) = none := by
    refine pickTrap_none (fun r hr => ?_)
    obtain ⟨l, hl', rfl⟩ := List.mem_map.1 hr
    obtain ⟨h1, h2⟩ := hl l hl'
    have h2' : ¬ ((s.team (x.mine s)).tslot x.slotNo).len < x.a l + memBytes x.f.ty := not_lt.2 h2
    simp [h1, h2']
  simp [onSlot, team_some ht.1, ht.2, hs', hp, Iss.slot]

/-- The lanes whose offset is misaligned trap before any that goes beyond the slot (06 R198, R189). -/
theorem slotChecks_misaligned {x : Iss} {n len : Nat} (h : ∃ l ∈ x.ex, x.a l % n ≠ 0) :
    pickTrap (slotChecks x n len) = some (6, 0, x.ex.filter (fun l => decide (x.a l % n ≠ 0))) := by
  obtain ⟨l, hl, hn⟩ := h
  rw [slotChecks, pickTrap_least (st := 2) (c := 6) (d := 0) ⟨l, List.mem_map.2 ⟨l, hl, by rw [if_pos hn]; rfl⟩⟩]
  · rw [List.filter_map, List.map_map]
    simp only [Function.comp_def, List.map_id', Option.some.injEq, Prod.mk.injEq, true_and]
    refine List.filter_congr (fun m _ => ?_)
    by_cases hm : x.a m % n = 0
    · simp only [hm, ne_eq, not_true_eq_false, if_false]
      split <;> simp
    · simp [hm, trapAlign]
  · intro m s' c' d' hr
    obtain ⟨k, -, he⟩ := List.mem_map.1 hr
    obtain ⟨-, he⟩ := Prod.mk.inj he
    split at he
    · cases he; exact .inl ⟨rfl, rfl, rfl⟩
    · split at he
      · cases he; exact .inr ⟨by omega, by decide⟩
      · cases he

theorem slotChecks_beyond {x : Iss} {n len : Nat} (ha : ∀ l ∈ x.ex, x.a l % n = 0) (h : ∃ l ∈ x.ex, len < x.a l + n) :
    pickTrap (slotChecks x n len) = some (8, 8, x.ex.filter (fun l => decide (len < x.a l + n))) := by
  obtain ⟨l, hl, hn⟩ := h
  rw [slotChecks, pickTrap_least (st := 3) (c := 8) (d := 8)
    ⟨l, List.mem_map.2 ⟨l, hl, by rw [if_neg (not_not.2 (ha l hl)), if_pos hn]; rfl⟩⟩]
  · rw [List.filter_map, List.map_map]
    simp only [Function.comp_def, List.map_id', Option.some.injEq, Prod.mk.injEq, true_and]
    refine List.filter_congr (fun m hm => ?_)
    by_cases hm' : len < x.a m + n <;> simp [ha m hm, hm', trapProt]
  · intro m s' c' d' hr
    obtain ⟨k, hk, he⟩ := List.mem_map.1 hr
    obtain ⟨-, he⟩ := Prod.mk.inj he
    rw [if_neg (not_not.2 (ha k hk))] at he
    split at he
    · cases he; exact .inl ⟨rfl, rfl, rfl⟩
    · cases he

/-! ### Traps and waits of an instruction -/

/-- An instruction whose body traps with none of its effect. -/
theorem raises_of {i : Instr} {pre : Iss → State → Prop} {cause detail : Nat} {who : Iss → List Nat}
    {body : Iss → State → Act} (hx : ∀ s, exec i s = issue i body s)
    (h : ∀ x u, pre x u → body x u = .trap u [] cause detail (who x)) : Raises i pre cause detail who := by
  intro s x hr hc hp
  rw [hx s, issue_go _ hr, show s.advance x.g x.words = x.moved s from rfl, h x _ hp, done_back _ _ _ _ _ hc]
  rfl

/-- An instruction whose body waits, having done nothing. -/
theorem waits_of {i : Instr} {pre : Iss → State → Prop} {body : Iss → State → Act}
    (hx : ∀ s, exec i s = issue i body s) (h : ∀ x u, pre x u → body x u = .wait u) : Waits i pre := by
  intro s x hr hp
  rw [hx s, issue_go _ hr, show s.advance x.g x.words = x.moved s from rfl, h x _ hp]
  rfl

section
variable {i : Instr} {h : Iss → State → Nat → TileSlot → Act} (hx : ∀ s, exec i s = issue i (onSlot h) s)
include hx

/-- 06 R198: a misaligned offset. -/
theorem onSlot_raises_misaligned : Raises i (fun x s => x.teamed s ∧ (x.slot s).st = .ready ∧
    ∃ l ∈ x.ex, x.a l % memBytes x.f.ty ≠ 0) 6 0 (fun x => x.ex.filter (fun l => decide (x.a l % memBytes x.f.ty ≠ 0))) :=
  raises_of hx (fun _ _ ⟨ht, hs, hl⟩ => onSlot_traps ht hs (slotChecks_misaligned hl))

/-- 06 R198: an offset beyond the slot's length. -/
theorem onSlot_raises_beyond (k : Nat) : Raises i (fun x s => x.teamed s ∧ (x.slot s).st = .ready ∧ (x.slot s).len = k ∧
    (∀ l ∈ x.ex, x.a l % memBytes x.f.ty = 0) ∧ ∃ l ∈ x.ex, k < x.a l + memBytes x.f.ty) 8 8
    (fun x => x.ex.filter (fun l => decide (k < x.a l + memBytes x.f.ty))) :=
  raises_of hx (fun _ _ ⟨ht, hs, hk, ha, hl⟩ => onSlot_traps ht hs (by rw [hk]; exact slotChecks_beyond ha hl))

/-- 06 R198: a slot that is not ready. -/
theorem onSlot_waits_notReady : Waits i (fun x s => x.teamed s ∧ (x.slot s).st ≠ .ready) :=
  waits_of hx (fun _ _ ⟨ht, hs⟩ => onSlot_waits ht hs)
end

/-! ### ldts and stts -/

/-- A speculating thread's note of what it has read is no value that a lane leaves. -/
theorem glance_effect {x : Iss} {o : LaneOut} {t u : Thread} (h : LaneEffect x o t u) (g : Glance) :
    LaneEffect x o t (u.glance g) where
  regs := h.regs
  preds := h.preds
  flags := h.flags
  draws := h.draws
  spec := Option.isSome_map.trans h.spec
  rest := h.rest

/-- What ldts reads in a lane: the place in the operand-buffer banks, and the bytes that stand there. -/
def Iss.slotAt (x : Iss) (s : State) (l : Nat) : Nat := (x.slot s).base.getD 0 + x.a l
def Iss.slotRead (x : Iss) (s : State) (l : Nat) : Nat := (s.team (x.mine s)).bufNat (x.slotAt s l) (memBytes x.f.ty)

/-- A lane of ldts that reads no poison. -/
def Iss.readSlot (x : Iss) (s : State) (l : Nat) (t : Thread) : Thread :=
  (t.dest x.f.d (8 * memBytes x.f.ty) (x.slotRead s l)).glance (.slot x.slotNo (x.a l) (memBytes x.f.ty) (some (x.slotRead s l)))

theorem slotLoad_clean {x : Iss} {s : State} {l : Nat} (h : (s.team (x.mine s)).bufPoison (x.slotAt s l) (memBytes x.f.ty) = false)
    (w : Weave) : x.slotLoad (s.team (x.mine s)) ((x.slot s).base.getD 0) (memBytes x.f.ty) w l = w.modThread l (x.readSlot s l) :=
  if_neg (by rw [show (x.slot s).base.getD 0 + x.a l = x.slotAt s l from rfl, h]; exact Bool.false_ne_true)

theorem ldts_acts (o : AForm) : Acts (.ldts o) (fun x s => x.teamed s ∧ (x.slot s).st = .ready ∧
      ∀ l ∈ x.ex, x.a l % memBytes x.f.ty = 0 ∧ x.a l + memBytes x.f.ty ≤ (x.slot s).len ∧
        (s.team (x.mine s)).bufPoison (x.slotAt s l) (memBytes x.f.ty) = false)
    (fun x s l => { reg := some (x.slotRead s l) }) (fun x s => s.modThreads x.g.core x.g.slot x.ex (x.readSlot s)) := by
  intro s x hr ⟨ht, hs, hl⟩
  obtain ⟨-, -, hf, hrow, -⟩ := ready_ex hr
  have hwidth : 8 * memBytes x.f.ty = x.r.d.width x.f.b := by rw [hrow, hf]; rfl
  constructor
  · refine (execLdts.eq_def o s).trans ((issue_go _ hr).trans ?_)
    rw [show s.advance x.g x.words = x.moved s from rfl, onSlot_runs ht hs (fun l h => ⟨(hl l h).1, (hl l h).2.1⟩), finish_settled]
    have hfold : ∀ w : Weave, x.ex.foldl (x.slotLoad ((x.moved s).team (x.mine (x.moved s))) ((x.slot (x.moved s)).base.getD 0)
        (memBytes x.f.ty)) w = x.ex.foldl (fun w l => w.modThread l (x.readSlot (x.moved s) l)) w :=
      fun w => List.foldl_ext _ _ w (fun w l h => slotLoad_clean (hl l h).2.2 w)
    simp only [hfold]
    rfl
  · refine stands_effect (x.readSlot (x.moved s)) (ready_nodup hr) (ready_ex_nodup hr) (ready_sub hr) (.rfl' _) (fun l _ t => ?_)
    unfold Iss.readSlot
    rw [hwidth]
    exact glance_effect (dest_effect x t _) _

theorem stts_does (o : AForm) : Does (.stts o) (fun x s => x.teamed s ∧ (x.slot s).st = .ready ∧
      ∀ l ∈ x.ex, x.a l % memBytes x.f.ty = 0 ∧ x.a l + memBytes x.f.ty ≤ (x.slot s).len ∧
        s.slotReaders x.g.core (x.mine s) (x.since s l) (x.slotAt s l) (x.slotAt s l + memBytes x.f.ty) = false)
    (fun x s => s.modTeam (x.mine s) (fun y => x.ex.foldl (fun y l =>
      y.bufWrite (x.slotAt s l) (leBytes (memBytes x.f.ty) (x.c l))) y)) := by
  refine does_of (fun _ => rfl) (fun x s ⟨ht, hs, hl⟩ => ?_)
  rw [onSlot_runs ht hs (fun l h => ⟨(hl l h).1, (hl l h).2.1⟩)]
  have hfree : ∀ l ∈ x.ex, s.slotReaders x.g.core (x.mine s) (x.since s l) ((x.slot s).base.getD 0 + x.a l)
      ((x.slot s).base.getD 0 + x.a l + memBytes x.f.ty) = false := fun l h => (hl l h).2.2
  have hgo : x.ex.filter (fun l => !s.slotReaders x.g.core (x.mine s) (x.since s l) ((x.slot s).base.getD 0 + x.a l)
      ((x.slot s).base.getD 0 + x.a l + memBytes x.f.ty)) = x.ex :=
    List.filter_eq_self.2 (fun l h => by rw [hfree l h]; rfl)
  have hstay : x.ex.filter (fun l => s.slotReaders x.g.core (x.mine s) (x.since s l) ((x.slot s).base.getD 0 + x.a l)
      ((x.slot s).base.getD 0 + x.a l + memBytes x.f.ty)) = [] :=
    List.filter_eq_nil_iff.2 (fun l h => by rw [hfree l h]; exact Bool.false_ne_true)
  simp only [Iss.eachMarked, hgo, hstay, List.isEmpty_nil, if_true]
  rfl

/-! ### tsfree and tsstat -/

theorem tsfree_empties (o : AForm) : Acts (.tsfree o) (fun x s => x.teamed s ∧ (x.slot s).st = .ready) still
    (fun x s => s.modTeam (x.mine s) (fun y => { y with tslots := tabSet x.slotNo { y.tslot x.slotNo with st := .empty } y.tslots })) := by
  refine acts_still (execTsfree.eq_def o) (fun x s ⟨ht, hs⟩ => ?_) (fun _ _ _ => sameWeaves_modTeam _ _ _)
  have hs' : ((s.team (x.mine s)).tslot x.slotNo).st = .ready := hs
  have hm : ((s.team (x.mine s)).tslot x.slotNo).moving = false := by simp [TileSlot.moving, hs']
  simp only [team_some ht.1, List.isEmpty_eq_false_iff.2 ht.2, hm, hs', Bool.false_eq_true, if_false, if_true]
  rfl

theorem tsfree_leaves (o : AForm) : Acts (.tsfree o) (fun x s => x.teamed s ∧ (x.slot s).st = .empty) still (fun _ s => s) := by
  refine acts_still (execTsfree.eq_def o) (fun x s ⟨ht, hs⟩ => ?_) (fun _ _ _ => .rfl' _)
  have hs' : ((s.team (x.mine s)).tslot x.slotNo).st = .empty := hs
  simp [team_some ht.1, ht.2, hs', TileSlot.moving]

theorem tsfree_waits (o : AForm) : Waits (.tsfree o) (fun x s => x.teamed s ∧ ((x.slot s).st = .filling ∨ (x.slot s).st = .draining)) := by
  refine waits_of (execTsfree.eq_def o) (fun x s ⟨ht, hs⟩ => ?_)
  have hs' : ((s.team (x.mine s)).tslot x.slotNo).moving = true := by
    rw [TileSlot.moving, Bool.or_eq_true, beq_iff_eq, beq_iff_eq]
    exact hs
  simp [team_some ht.1, ht.2, hs']

theorem tsstat_acts (o : AForm) : Acts (.tsstat o) (fun x s => (s.weave x.g.core x.g.slot).team.isSome = true)
    (gives fun x s => (x.slot s).word) (fun x s => x.giveAll s (x.slot s).word) := by
  refine acts_gives (eff := fun _ s => s) (execTsstat.eq_def o) (fun x s ht => ?_) (fun _ _ _ => .rfl' _)
  simp only [team_some ht]
  rfl

/-- Settles O31, instruction by instruction. -/
theorem tileSlotAccesses : Obligations.TileSlotAccesses :=
  ⟨ldts_acts, stts_does, fun y o bs j => tabGet_putList bs o j y.opbuf,
    fun o => onSlot_raises_misaligned (i := .ldts o) (fun _ => rfl), fun o => onSlot_raises_misaligned (i := .stts o) (fun _ => rfl),
    fun o => onSlot_raises_beyond (i := .ldts o) (fun _ => rfl), fun o => onSlot_raises_beyond (i := .stts o) (fun _ => rfl),
    fun o => onSlot_waits_notReady (i := .ldts o) (fun _ => rfl), fun o => onSlot_waits_notReady (i := .stts o) (fun _ => rfl),
    tsfree_empties, tsfree_leaves, tsfree_waits, tsstat_acts⟩

end Sys2Proof.Machine
end

section
/-! SUPPORT. What accesses leave around them: the lease cache stands for the bytes it holds (13 R422), the checks of an access
change no unit of a core but its TLB and its teams' banks, and what a load does to the directories changes no byte and no
poison mark. -/

namespace Sys2Proof.Machine

/-! ### The lease cache (13 R422) -/

theorem tabGet_flush (c : CacheLine) (is : List Nat) (m : Tab Byte) (pa : Nat) :
    tabGet 0 pa (is.foldl (fun m i => ((tabFind (c.line * 128 + i) c.dirty).map (fun b =>
      tabPut 0 (c.line * 128 + i) b m)).getD m) m) =
      if ∃ i ∈ is, pa = c.line * 128 + i then (tabFind pa c.dirty).getD (tabGet 0 pa m) else tabGet 0 pa m := by
  induction is generalizing m with
  | nil => simp
  | cons i t ih =>
    rw [List.foldl_cons, ih]
    by_cases hi : pa = c.line * 128 + i
    · subst hi
      cases tabFind (c.line * 128 + i) c.dirty <;> simp
    · cases tabFind (c.line * 128 + i) c.dirty <;> simp [hi]

/-- The bytes that a line of the lease cache holds, where it holds one. -/
def lcByte (ls : List CacheLine) (pa : Nat) : Option Byte :=
  (ls.find? (fun c => c.line = pa / 128)).bind (fun c => tabFind pa c.dirty)

theorem memByte_eq (s : State) (pa : Nat) : s.memByte pa = (lcByte s.lcache pa).getD (tabGet 0 pa s.mem) := rfl

theorem lcByte_cons (c : CacheLine) (ls : List CacheLine) (pa : Nat) :
    lcByte (c :: ls) pa = if c.line = pa / 128 then tabFind pa c.dirty else lcByte ls pa := by
  unfold lcByte
  rw [List.find?_cons]
  by_cases h : c.line = pa / 128 <;> simp [h]

theorem lcByte_none {ls : List CacheLine} {pa : Nat} (h : ∀ c ∈ ls, c.line ≠ pa / 128) : lcByte ls pa = none := by
  rw [lcByte, List.find?_eq_none.2 (by simpa using h), Option.bind_none]

theorem lcByte_filter (n : Nat) (ls : List CacheLine) (pa : Nat) :
    lcByte (ls.filter (fun x => x.line != n)) pa = if pa / 128 = n then none else lcByte ls pa := by
  split
  · exact lcByte_none (fun c hc e => by have := (List.mem_filter.1 hc).2; simp_all)
  · induction ls with
    | nil => rfl
    | cons c t ih =>
      rw [List.filter_cons]
      by_cases hc : c.line = n
      · rw [if_neg (by simp [hc]), ih, lcByte_cons, if_neg (by omega)]
      · rw [if_pos (by simp [hc]), lcByte_cons, lcByte_cons, ih]

/-- Writing the oldest line back changes no byte that the package sees. -/
theorem memByte_lcFlush {s : State} {c : CacheLine} {t : List CacheLine} (h : s.lcache = c :: t) (pa : Nat) :
    (s.lcFlush c).memByte pa = s.memByte pa := by
  have hr : (∃ i ∈ List.range 128, pa = c.line * 128 + i) ↔ pa / 128 = c.line := by
    constructor
    · rintro ⟨i, hi, rfl⟩
      have := List.mem_range.1 hi
      omega
    · exact fun e => ⟨pa % 128, List.mem_range.2 (Nat.mod_lt _ (by omega)), by omega⟩
  rw [memByte_eq, memByte_eq, h]
  simp only [State.lcFlush, h, lcByte_filter, tabGet_flush, hr, lcByte_cons]
  by_cases hl : pa / 128 = c.line
  · simp [hl]
  · simp [hl, Ne.symm hl]

theorem memByte_lcEnter (s : State) (n pa : Nat) : (s.lcEnter n).memByte pa = s.memByte pa := by
  have enters : ∀ (u : State) (k : Nat), ({ u with lcache := u.lcache ++ [{ line := n, slot := k }] } : State).memByte pa =
      u.memByte pa := by
    intro u k
    rw [memByte_eq, memByte_eq]
    congr 1
    unfold lcByte
    rw [List.find?_append]
    cases hf : u.lcache.find? (fun c => c.line = pa / 128) with
    | some c => rfl
    | none =>
      by_cases hn : n = pa / 128 <;> simp [hn, tabFind]
  unfold State.lcEnter
  split
  · rfl
  · dsimp only
    rw [enters]
    split
    · split
      · exact memByte_lcFlush ‹_› pa
      · rfl
    · rfl

theorem memByte_lcBring (s : State) (pa q : Nat) : (s.lcBring pa).memByte q = s.memByte q := by
  unfold State.lcBring
  split
  · rfl
  · dsimp only
    split
    · rw [memByte_lcEnter]; rfl
    · rfl

/-- Bringing a line touches memory, the lease cache and what has been heard of peers. -/
theorem lcBring_frame (s : State) (pa : Nat) :
    { s.lcBring pa with mem := s.mem, lcache := s.lcache, peers := s.peers } = s := by
  unfold State.lcBring
  split
  · rfl
  · dsimp only
    split
    · unfold State.lcEnter
      split
      · rfl
      · dsimp only
        split
        · split <;> rfl
        · rfl
    · rfl

theorem setByte_frame (s : State) (pa : Nat) (b : Byte) :
    { s.setByte pa b with mem := s.mem, lcache := s.lcache, peers := s.peers } = s := by
  have h := lcBring_frame s pa
  unfold State.setByte
  dsimp only
  split <;> exact h

/-- The lease cache holds lines of other packages alone. -/
def State.lcForeign (s : State) : Prop := ∀ c ∈ s.lcache, s.isLocal (c.line * 128) = false

theorem isLocal_line (s : State) (pa : Nat) : s.isLocal (pa / 128 * 128) = s.isLocal pa := by
  unfold State.isLocal pkgAddr
  rw [show pa / 128 * 128 / 2 ^ 46 = pa / 2 ^ 46 by omega]

theorem lcForeign_nil {s : State} (h : s.lcache = []) : s.lcForeign := by simp [State.lcForeign, h]

theorem lcForeign_lcEnter {s : State} {n : Nat} (h : s.lcForeign) (hn : s.isLocal (n * 128) = false) :
    (s.lcEnter n).lcForeign := by
  have enters : ∀ (ls : List CacheLine) (k : Nat), (∀ c ∈ ls, s.isLocal (c.line * 128) = false) →
      ∀ c ∈ ls ++ [{ line := n, slot := k }], s.isLocal (c.line * 128) = false := by
    intro ls k hl c hc
    rcases List.mem_append.1 hc with hc | hc
    · exact hl c hc
    · rw [List.mem_singleton.1 hc]; exact hn
  unfold State.lcEnter
  split
  · exact h
  · dsimp only
    split
    · split
      · exact enters _ _ (fun c hc => h c (List.mem_of_mem_filter hc))
      · exact enters _ _ h
    · exact enters _ _ h

theorem lcForeign_lcBring {s : State} (h : s.lcForeign) (pa : Nat) : (s.lcBring pa).lcForeign := by
  unfold State.lcBring
  split
  · exact h
  · rename_i hc
    have hl : s.isLocal pa = false := by
      by_contra hl
      exact hc (by simp [Bool.eq_true_of_not_eq_false hl])
    dsimp only
    split
    · exact lcForeign_lcEnter (s := s.hears (pkgAddr pa)) h ((isLocal_line _ pa).trans hl)
    · exact h

theorem line_lcPut {pa : Nat} {b : Byte} {ls : List CacheLine} {c : CacheLine} (h : c ∈ lcPut pa b ls) :
    ∃ d ∈ ls, d.line = c.line := by
  induction ls with
  | nil => exact absurd h List.not_mem_nil
  | cons a t ih =>
    unfold lcPut at h
    split at h
    · rcases List.mem_cons.1 h with rfl | h
      · exact ⟨a, List.mem_cons_self .., rfl⟩
      · exact ⟨c, List.mem_cons_of_mem _ h, rfl⟩
    · rcases List.mem_cons.1 h with rfl | h
      · exact ⟨c, List.mem_cons_self .., rfl⟩
      · obtain ⟨d, hd, he⟩ := ih h
        exact ⟨d, List.mem_cons_of_mem _ hd, he⟩

theorem lcForeign_setByte {s : State} (h : s.lcForeign) (pa : Nat) (b : Byte) : (s.setByte pa b).lcForeign := by
  have hb := lcForeign_lcBring h pa
  unfold State.setByte
  dsimp only
  split
  · intro c hc
    obtain ⟨d, hd, he⟩ := line_lcPut hc
    rw [← he]
    exact hb d hd
  · exact hb

theorem lcByte_lcPut {ls : List CacheLine} {pa : Nat} (b : Byte) (h : ∃ c ∈ ls, c.line = pa / 128) (q : Nat) :
    lcByte (lcPut pa b ls) q = if q = pa then some b else lcByte ls q := by
  induction ls with
  | nil => simp at h
  | cons c t ih =>
    unfold lcPut
    by_cases hc : c.line = pa / 128
    · rw [if_pos hc, lcByte_cons, lcByte_cons, tabFind_set]
      by_cases hq : q = pa
      · simp [hq, hc]
      · simp [hq]
    · rw [if_neg hc, lcByte_cons, lcByte_cons, ih (by simpa [hc] using h)]
      by_cases hq : q = pa
      · simp [hq, hc]
      · simp [hq]

/-- A byte written reads back, and every other byte stands, where the lease cache holds no line of this package. -/
theorem memByte_setByte {s : State} (h : s.lcForeign) (pa : Nat) (b : Byte) (q : Nat) :
    (s.setByte pa b).memByte q = if q = pa then b else s.memByte q := by
  have hb := lcForeign_lcBring h pa
  have hm := memByte_lcBring s pa q
  have hp : ∀ pa', (s.lcBring pa).isLocal pa' = s.isLocal pa' := fun pa' => by
    have := congrArg (fun u : State => u.isLocal pa') (lcBring_frame s pa)
    exact this
  unfold State.setByte
  dsimp only
  generalize s.lcBring pa = u at hb hm hp
  split
  · rename_i hc
    have hex : ∃ c ∈ u.lcache, c.line = pa / 128 := by
      simpa [State.lcHit] using (Bool.and_eq_true_iff.1 hc).2
    rw [memByte_eq, lcByte_lcPut b hex, ← hm, memByte_eq]
    split <;> rfl
  · rename_i hc
    have hno : lcByte u.lcache pa = none := by
      refine lcByte_none (fun c hm e => hc ?_)
      have hf := hb c hm
      rw [e, isLocal_line, hp] at hf
      rw [hp, hf, Bool.not_false, Bool.true_and, State.lcHit, List.any_eq_true]
      exact ⟨c, hm, by simpa using e⟩
    rw [← hm, memByte_eq, memByte_eq, tabGet_put]
    by_cases hq : q = pa
    · subst hq
      simp [hno]
    · simp [hq]

/-! ### What an access leaves of the cores -/

/-- Of `s` the state `u` keeps every unit of a core but its weaves, its TLB and its teams, and the step; a thread that does
not speculate comes to no speculation. -/
structure Upkeep (s u : State) : Prop where
  units : ∀ c, { u.core c with weaves := [], tlb := [], teams := [] } = { s.core c with weaves := [], tlb := [], teams := [] }
  step : u.tick = s.tick
  calm : ∀ c w l, (s.thread c w l).spec = none → (u.thread c w l).spec = none

/-- The same, and no byte of memory and no poison mark of it changes, nor does a line of this package enter the lease
cache. -/
structure SeesAs (s u : State) : Prop extends Upkeep s u where
  bytes : ∀ pa, u.memByte pa = s.memByte pa
  poison : u.poison = s.poison
  foreign : s.lcForeign → u.lcForeign

theorem Upkeep.rfl' (s : State) : Upkeep s s := ⟨fun _ => rfl, rfl, fun _ _ _ h => h⟩
theorem Upkeep.trans {s t u : State} (h : Upkeep s t) (k : Upkeep t u) : Upkeep s u :=
  ⟨fun c => (k.units c).trans (h.units c), k.step.trans h.step, fun c w l hs => k.calm c w l (h.calm c w l hs)⟩
theorem SeesAs.rfl' (s : State) : SeesAs s s := ⟨.rfl' s, fun _ => rfl, rfl, id⟩
theorem SeesAs.trans {s t u : State} (h : SeesAs s t) (k : SeesAs t u) : SeesAs s u :=
  ⟨h.toUpkeep.trans k.toUpkeep, fun pa => (k.bytes pa).trans (h.bytes pa), k.poison.trans h.poison, k.foreign ∘ h.foreign⟩

theorem upkeep_fold {α : Type} (ls : List α) (f : State → α → State) (h : ∀ s a, Upkeep s (f s a)) (s : State) :
    Upkeep s (ls.foldl f s) := by
  induction ls generalizing s with
  | nil => exact .rfl' s
  | cons a t ih => exact (h s a).trans (ih _)
theorem seesAs_fold {α : Type} (ls : List α) (f : State → α → State) (h : ∀ s a, SeesAs s (f s a)) (s : State) :
    SeesAs s (ls.foldl f s) := by
  induction ls generalizing s with
  | nil => exact .rfl' s
  | cons a t ih => exact (h s a).trans (ih _)

theorem Upkeep.pending {s u : State} (h : Upkeep s u) (c : Nat) : (u.core c).pending = (s.core c).pending :=
  (congrArg Core.pending (h.units c) :)
theorem Upkeep.deferred {s u : State} (h : Upkeep s u) (c : Nat) : (u.core c).deferred = (s.core c).deferred :=
  (congrArg Core.deferred (h.units c) :)

/-- A change of the package that leaves the cores. -/
theorem upkeep_of {s u : State} (hc : u.cores = s.cores) (ht : u.tick = s.tick) : Upkeep s u where
  units c := by simp only [State.core, hc]
  step := ht
  calm c w l h := by rw [(quiet_of hc).thread]; exact h

/-- The same, where memory and the lease cache stand too. -/
theorem seesAs_of {s u : State} (hc : u.cores = s.cores) (ht : u.tick = s.tick) (hm : u.mem = s.mem) (hl : u.lcache = s.lcache)
    (hp : u.poison = s.poison) (hk : u.pkg = s.pkg) : SeesAs s u :=
  ⟨upkeep_of hc ht, fun pa => by simp only [State.memByte, hm, hl], hp,
    fun h c hm => by rw [hl] at hm; simpa only [State.isLocal, hk] using h c hm⟩

/-- A change of the TLB and the teams of a core. -/
theorem seesAs_modCore (s : State) (c : Nat) (g : Core → Core)
    (h : ∀ k : Core, { g k with tlb := k.tlb, teams := k.teams } = k) : SeesAs s (s.modCore c g) where
  units k := by
    rw [core_modCore]
    split
    · subst_vars
      exact congrArg (fun k : Core => { k with weaves := [], tlb := [], teams := [] }) (h (s.core _))
    · rfl
  step := rfl
  calm k w l hs := by
    rw [(quiet_modCore s c g (fun k => (congrArg Core.weaves (h k) :))).thread]; exact hs
  bytes _ := rfl
  poison := rfl
  foreign := id

theorem seesAs_modTeam (s : State) (t : Nat) (g : Team → Team) : SeesAs s (s.modTeam t g) := by
  unfold State.modTeam
  split
  · exact seesAs_modCore s _ _ (fun _ => rfl)
  · exact .rfl' s

theorem marked_calm (x : Weave) (p : Nat → Bool) (ls : List Nat) (l : Nat) (h : (x.thread l).spec = none) :
    ((x.marked p ls).thread l).spec = none := by
  unfold Weave.marked
  induction ls generalizing x with
  | nil => exact h
  | cons a ls ih =>
    rw [List.foldl_cons]
    refine ih _ ?_
    split
    · exact h
    · rw [thread_modThread]
      split
      · subst_vars
        exact congrArg (Option.map _) h
      · exact h

theorem seesAs_conflicts (s : State) (ls : List Loc) (b : Nat × Nat × Nat) (sees : Nat → Nat → Bool) :
    SeesAs s (s.conflicts ls b sees) where
  units c := by
    rw [State.core, cores_conflicts]
    rcases tabGet_map Core.init c (fun c k => k.conflicted ls b sees c) s.cores with h | h
    · rw [h]; rfl
    · rw [h]; rfl
  step := rfl
  calm c w l h := by
    rw [State.thread, weave_conflicts]
    split
    · exact marked_calm _ _ _ l h
    · exact h
  bytes _ := rfl
  poison := rfl
  foreign := id

/-! ### Bytes brought (06 R194; 13 R422) -/

theorem seesAs_lcBring (s : State) (pa : Nat) : SeesAs s (s.lcBring pa) :=
  have h := lcBring_frame s pa
  ⟨upkeep_of (congrArg State.cores h :) (congrArg State.tick h :), memByte_lcBring s pa, (congrArg State.poison h :),
    fun hf => lcForeign_lcBring hf pa⟩
theorem seesAs_fillLine (s : State) (t o : Nat) : SeesAs s (s.fillLine t o) := by
  unfold State.fillLine
  split
  · exact .rfl' s
  · dsimp only
    split
    · exact .rfl' s
    · exact seesAs_modTeam s _ _
theorem seesAs_touch (s : State) (l : Loc) : SeesAs s (s.touch l) := by
  cases l with
  | mem pa => exact seesAs_lcBring s pa
  | spad t o => exact seesAs_fillLine s t o
theorem seesAs_touchAll (s : State) (ls : List Loc) : SeesAs s (s.touchAll ls) := seesAs_fold ls _ seesAs_touch s

theorem upkeep_setByte (s : State) (pa : Nat) (b : Byte) : Upkeep s (s.setByte pa b) :=
  upkeep_of (congrArg State.cores (setByte_frame s pa b) :) (congrArg State.tick (setByte_frame s pa b) :)
theorem upkeep_putByte (s : State) (l : Loc) (b : Byte) : Upkeep s (s.putByte l b) := by
  cases l with
  | mem pa => exact upkeep_setByte s pa b
  | spad t o => exact (seesAs_modTeam s t _).toUpkeep
theorem upkeep_endInherit (s : State) : Upkeep s s.endInherit := upkeep_of rfl rfl
theorem upkeep_writeAt (s : State) (bs : List (Loc × Byte)) : Upkeep s (s.writeAt bs) := by
  unfold State.writeAt
  extract_lets u
  have h : Upkeep s u := upkeep_fold bs (fun s b => (s.touch b.1).putByte b.1 b.2)
    (fun s b => (seesAs_touch s b.1).toUpkeep.trans (upkeep_putByte _ _ _)) s
  exact (h.trans (seesAs_conflicts u _ _ _).toUpkeep).trans (upkeep_endInherit _)

/-! ### Translation and the checks of an access (06 R188, R204) -/

theorem upkeep_snoop (s : State) (l : Loc) : Upkeep s (s.snoop l) := by
  cases l <;> exact upkeep_of rfl rfl
theorem upkeep_waitLine (s : State) (n : Nat) : Upkeep s (s.waitLine n) := by
  unfold State.waitLine
  split <;> exact upkeep_of rfl rfl
theorem upkeep_waitLines (s : State) (ls : List Loc) : Upkeep s (s.waitLines ls) :=
  upkeep_fold ls _ (fun s l => by
    cases l with
    | mem pa => exact upkeep_waitLine s _
    | spad => exact .rfl' s) s
theorem upkeep_markLeaf (s : State) (x : Xlat) (b : Bool) : Upkeep s (s.markLeaf x b).1 := by
  unfold State.markLeaf
  extract_lets l m
  split
  · exact .rfl' s
  · exact upkeep_writeAt s _
/-- A translation marked in its leaf and entered in both TLBs. -/
theorem upkeep_enterTlbs (s : State) (c ctx va : Nat) (x y : Xlat) (b : Bool) :
    Upkeep s (((s.markLeaf x b).1.fillDieTlb c ctx va y).fillTlb c ctx va y) := by
  have h := upkeep_markLeaf s x b
  generalize (s.markLeaf x b).1 = u at h
  have hd : Upkeep u (u.fillDieTlb c ctx va y) := upkeep_of rfl rfl
  refine (h.trans hd).trans (seesAs_modCore _ c _ ?_).toUpkeep
  exact fun _ => rfl
theorem upkeep_walkFill (s : State) (c ctx va : Nat) : Upkeep s (s.walkFill c ctx va).1 := by
  unfold State.walkFill
  split
  · split
    · exact upkeep_waitLines s _
    · exact upkeep_enterTlbs s c ctx va _ _ false
  · exact .rfl' s
  · exact .rfl' s
theorem upkeep_endShoot (s : State) (c : Nat) : Upkeep s (s.endShoot c) := by
  unfold State.endShoot
  split
  · refine (seesAs_modCore s c _ ?_).toUpkeep
    exact fun _ => rfl
  · exact .rfl' s
theorem upkeep_translate (s : State) (c ctx va : Nat) : Upkeep s (s.translate c ctx va).1 := by
  unfold State.translate
  split
  · split
    · exact .rfl' s
    · split
      · exact (upkeep_endShoot s c).trans (upkeep_walkFill _ c ctx va)
      · exact .rfl' s
  · exact upkeep_walkFill s c ctx va
theorem upkeep_dirtied (s : State) (c ctx va : Nat) (x : Xlat) : Upkeep s (s.dirtied c ctx va x).1 := by
  unfold State.dirtied
  split
  · exact .rfl' s
  · split
    · split
      · exact upkeep_waitLines s _
      · exact upkeep_enterTlbs s c ctx va _ _ true
    · exact .rfl' s
theorem upkeep_checkFill (s : State) (t o : Nat) : Upkeep s (s.checkFill t o).1 := by
  unfold State.checkFill
  split
  · split
    · exact upkeep_snoop s (.mem _)
    · exact .rfl' s
  · exact .rfl' s
theorem upkeep_check (s : State) (a : Agent) (x : Acc) (ea : Nat) : Upkeep s (s.check a x ea).1 := by
  unfold State.check
  split
  · exact .rfl' s
  split
  · exact .rfl' s
  split
  · split
    · exact upkeep_checkFill s _ _
    · exact .rfl' s
  split
  · exact upkeep_checkFill s _ _
  · have ht := upkeep_translate s a.core a.ctx ea
    revert ht
    generalize s.translate a.core a.ctx ea = r
    obtain ⟨u, r⟩ := r
    intro ht
    cases r with
    | ok t =>
      dsimp only at ht ⊢
      split
      · exact ht
      split
      · exact ht.trans (upkeep_snoop u _)
      split
      · exact ht
      · have hd := upkeep_dirtied u a.core a.ctx ea t
        revert hd
        generalize u.dirtied a.core a.ctx ea t = q
        obtain ⟨v, q⟩ := q
        intro hd
        cases q <;> exact ht.trans hd
    | fault _ _ => exact ht
    | wait => exact ht
theorem upkeep_checkList (s : State) (a : Agent) (x : Acc) (es : List Nat) : Upkeep s (s.checkList a x es).1 := by
  induction es generalizing s with
  | nil => exact .rfl' s
  | cons e t ih => exact (upkeep_check s a x e).trans (ih _)

/-! ### What a load does to the directories (07 R240, R242, R250; 08 R282) -/

theorem seesAs_rowRecall (s : State) (who : Option Nat) (st : Bool) (pa : Nat) : SeesAs s (s.rowRecall who st pa) := by
  unfold State.rowRecall
  dsimp only
  split
  · exact .rfl' s
  · refine SeesAs.trans ?_ (seesAs_fold _ _ (fun s d => seesAs_conflicts s _ _ _) _)
    exact (seesAs_fold _ _ (fun s (d : DirRec) => seesAs_modTeam s _ _) s).trans
      (seesAs_of rfl rfl rfl rfl rfl rfl)
theorem seesAs_recallSpan (s : State) (who : Option Nat) (st : Bool) (l : Loc) (n : Nat) :
    SeesAs s (s.recallSpan who st l n) := by
  cases l with
  | mem pa => exact seesAs_fold _ _ (fun s _ => seesAs_rowRecall s _ _ _) s
  | spad => exact .rfl' s
theorem seesAs_syncTouch (s : State) (pa : Nat) (c w : Option Nat) : SeesAs s (s.syncTouch pa c w) := by
  have q : ∀ d g, SeesAs s (s.modDie d g) := fun _ _ => seesAs_of rfl rfl rfl rfl rfl rfl
  unfold State.syncTouch
  extract_lets half h old new put u
  split
  · exact (q _ _).trans (seesAs_conflicts u _ _ _)
  · exact q _ _
theorem seesAs_holdLine (s : State) (c n : Nat) : SeesAs s (s.holdLine c n) := by
  unfold State.holdLine
  split <;> exact seesAs_of rfl rfl rfl rfl rfl rfl
theorem seesAs_grantHold (s : State) (c n : Nat) : SeesAs s (s.grantHold c n) := by
  unfold State.grantHold
  dsimp only
  split
  · exact seesAs_holdLine s _ _
  · exact (seesAs_holdLine s _ _).trans (seesAs_holdLine _ _ _)
theorem seesAs_prepLoad (s : State) (c w : Nat) (q : Lane) (n : Nat) (k : Bool) : SeesAs s (s.prepLoad c w q n k) := by
  have h := (seesAs_touchAll s (q.loc.span n)).trans (seesAs_recallSpan _ (s.weave c w).team false q.loc n)
  unfold State.prepLoad
  dsimp only
  split
  · exact h
  · split
    · exact h.trans (seesAs_syncTouch _ _ _ _)
    · split
      · exact h.trans (seesAs_grantHold _ _ _)
      · exact h

end Sys2Proof.Machine
end

section
/-! SUPPORT. Accesses all of whose executing lanes pass their checks (06 R188, R189): none parks and none waits, so the checks
alone have acted; and what finishes an instruction all of whose lanes have run. -/

namespace Sys2Proof.Machine

/-! ### Lanes after their checks -/

/-- The lane's check ends in a trap. -/
def Chk.isBad : Chk → Bool
  | .bad _ _ _ => true
  | _ => false

theorem Chk.isBad_iff (k : Chk) : k.isBad = true ↔ ∃ s c d, k = .bad s c d := by
  cases k <;> simp [Chk.isBad]

/-- A lane past its checks waits all the same: for the Larder's refresh, for bytes in flight, or for the devices. -/
def Iss.stalls (x : Iss) (wr : Bool) (s : State) (loc : Loc) (leaf : Nat) : Bool :=
  match loc with
  | .mem pa => (!wr && (s.refreshing pa || s.recallWaits (s.weave x.g.core x.g.slot).team false (.mem pa) 1)) ||
      ((leafDevice leaf || regsAddr pa) && (x.g.spec || (!wr && s.devicePending x.g.core x.g.slot)))
  | .spad _ _ => false

/-- One lane of an instruction after its check: it waits, or goes on. -/
def Iss.waitOr (x : Iss) (wr : Bool) (s : State) (r : Nat × Nat × Chk) : State :=
  match r.2.2 with
  | .wait => s.hold x.g [r.1]
  | .lender t scr => x.lendWait s wr r.1 r.2.1 t scr
  | .ok loc leaf => if x.stalls wr s loc leaf then s.hold x.g [r.1] else s
  | _ => s

/-- The lanes that go on: past their checks, and ready. -/
def Iss.goers (x : Iss) (s : State) (rs : List (Nat × Nat × Chk)) : List Lane :=
  rs.filterMap (fun r => match r.2.2 with
    | .ok loc leaf =>
      if (s.thread x.g.core x.g.slot r.1).mode = .ready then some { l := r.1, ea := r.2.1, loc := loc, leaf := leaf } else none
    | _ => none)

/-- The lanes that meet a fault. -/
def faulters (rs : List (Nat × Nat × Chk)) : List ParkLane :=
  rs.filterMap (fun r => match r.2.2 with
    | .fault c d lv lid scr => some { lane := r.1, cause := c, detail := d, level := lv, lid := lid, va := r.2.1, scr := scr }
    | _ => none)

theorem settle_eq (x : Iss) (s : State) (wr : Bool) (rs : List (Nat × Nat × Chk)) :
    x.settle s wr rs = (x.park s x.g.pc wr (faulters rs)).map (fun s =>
      (rs.foldl (x.waitOr wr) s, x.goers (rs.foldl (x.waitOr wr) s) rs)) := by
  have h : x.settle s wr rs = match x.park s x.g.pc wr (faulters rs) with
      | none => none
      | some s => some (rs.foldl (x.waitOr wr) s, x.goers (rs.foldl (x.waitOr wr) s) rs) := rfl
  rw [h]
  cases x.park s x.g.pc wr (faulters rs) <;> rfl

theorem mem_goers {x : Iss} {s : State} {rs : List (Nat × Nat × Chk)} {q : Lane} (h : q ∈ x.goers s rs) :
    (q.l, q.ea, .ok q.loc q.leaf) ∈ rs ∧ (s.thread x.g.core x.g.slot q.l).mode = .ready := by
  obtain ⟨⟨l, ea, k⟩, hr, he⟩ := List.mem_filterMap.1 h
  cases k with
  | ok loc leaf =>
    dsimp only at he
    split at he
    · cases he; exact ⟨hr, ‹_›⟩
    · cases he
  | _ => cases he

theorem hold_mode (s : State) (g : Grp) (l m : Nat) : ((s.hold g [l]).thread g.core g.slot m).mode =
    if m = l then .waiting .retry else (s.thread g.core g.slot m).mode := by
  rw [State.hold, thread_modThreads _ _ _ _ _ _ (List.nodup_singleton l)]
  by_cases h : m = l <;> simp [h]

theorem lendWait_mode (x : Iss) (s : State) (wr : Bool) (l ea : Nat) (t : Xlat) (scr : Bool) (m : Nat) :
    ((x.lendWait s wr l ea t scr).thread x.g.core x.g.slot m).mode =
      if m = l then .waiting .lender else (s.thread x.g.core x.g.slot m).mode := by
  rw [Iss.lendWait, thread_modThread_at]
  by_cases h : m = l <;> simp [h]

theorem waitOr_ok (x : Iss) (wr : Bool) (s : State) (l ea : Nat) (loc : Loc) (leaf : Nat) :
    x.waitOr wr s (l, ea, .ok loc leaf) = if x.stalls wr s loc leaf then s.hold x.g [l] else s := rfl

/-- A lane that does anything at its check is no more ready. -/
theorem waitOr_moves (x : Iss) (wr : Bool) (s : State) (r : Nat × Nat × Chk) :
    x.waitOr wr s r = s ∨ ((x.waitOr wr s r).thread x.g.core x.g.slot r.1).mode ≠ .ready := by
  obtain ⟨l, ea, k⟩ := r
  cases k with
  | wait => exact .inr (by rw [Iss.waitOr, hold_mode, if_pos rfl]; exact Mode.noConfusion)
  | lender t scr => exact .inr (by rw [Iss.waitOr, lendWait_mode, if_pos rfl]; exact Mode.noConfusion)
  | ok loc leaf =>
    rw [waitOr_ok]
    by_cases h : x.stalls wr s loc leaf = true
    · exact .inr (by rw [if_pos h, hold_mode, if_pos rfl]; exact Mode.noConfusion)
    · exact .inl (if_neg h)
  | bad | fault => exact .inl rfl

theorem waitOr_mode {x : Iss} {wr : Bool} {s : State} {m : Nat} (h : (s.thread x.g.core x.g.slot m).mode ≠ .ready)
    (r : Nat × Nat × Chk) : ((x.waitOr wr s r).thread x.g.core x.g.slot m).mode ≠ .ready := by
  by_cases hm : r.1 = m
  · subst hm
    rcases waitOr_moves x wr s r with he | he
    · rw [he]; exact h
    · exact he
  · obtain ⟨l, ea, k⟩ := r
    cases k with
    | wait => rw [Iss.waitOr, hold_mode, if_neg (Ne.symm hm)]; exact h
    | lender t scr => rw [Iss.waitOr, lendWait_mode, if_neg (Ne.symm hm)]; exact h
    | ok loc leaf =>
      rw [waitOr_ok]
      split
      · rw [hold_mode, if_neg (Ne.symm hm)]; exact h
      · exact h
    | bad | fault => exact h

theorem waitOr_fold_mode {x : Iss} {wr : Bool} {s : State} {m : Nat} (h : (s.thread x.g.core x.g.slot m).mode ≠ .ready)
    (rs : List (Nat × Nat × Chk)) : ((rs.foldl (x.waitOr wr) s).thread x.g.core x.g.slot m).mode ≠ .ready := by
  induction rs generalizing s with
  | nil => exact h
  | cons r t ih => exact ih (waitOr_mode h r)

/-- Where every lane that does not trap is ready in the end, none has waited. -/
theorem waitOr_fold_none {x : Iss} {wr : Bool} {s : State} {rs : List (Nat × Nat × Chk)}
    (h : ∀ r ∈ rs, r.2.2.isBad = true ∨ ((rs.foldl (x.waitOr wr) s).thread x.g.core x.g.slot r.1).mode = .ready) :
    rs.foldl (x.waitOr wr) s = s := by
  induction rs generalizing s with
  | nil => rfl
  | cons r t ih =>
    have hr : x.waitOr wr s r = s := by
      rcases waitOr_moves x wr s r with he | he
      · exact he
      · rcases h r (List.mem_cons_self ..) with hb | hb
        · obtain ⟨l, ea, k⟩ := r
          obtain ⟨_, _, _, rfl⟩ := (Chk.isBad_iff k).1 hb
          rfl
        · exact absurd hb (waitOr_fold_mode he t)
    rw [List.foldl_cons, hr] at h ⊢
    exact ih (fun q hq => h q (List.mem_cons_of_mem _ hq))

/-- Where every lane either traps or goes on, none has parked and none waits. -/
theorem settle_all {x : Iss} {s u : State} {wr : Bool} {rs : List (Nat × Nat × Chk)} {qs : List Lane}
    (h : x.settle s wr rs = some (u, qs)) (hn : (rs.map (·.1)).Nodup)
    (hc : ∀ r ∈ rs, r.2.2.isBad = true ∨ r.1 ∈ qs.map (·.l)) :
    u = s ∧ ∀ q ∈ qs, (q.l, q.ea, .ok q.loc q.leaf) ∈ rs := by
  rw [settle_eq, Option.map_eq_some_iff] at h
  obtain ⟨v, hp, he⟩ := h
  obtain ⟨hu, hq⟩ := Prod.mk.inj he
  have hok : ∀ q ∈ qs, (q.l, q.ea, .ok q.loc q.leaf) ∈ rs := fun q hm => (mem_goers (hq ▸ hm)).1
  have hnone : faulters rs = [] := by
    refine List.filterMap_eq_nil_iff.2 (fun r hr => ?_)
    rcases hc r hr with hb | hb
    · obtain ⟨l, ea, k⟩ := r
      obtain ⟨_, _, _, rfl⟩ := (Chk.isBad_iff k).1 hb
      rfl
    · obtain ⟨q, hm, hl⟩ := List.mem_map.1 hb
      rw [← List.inj_on_of_nodup_map hn (hok q hm) hr hl]
  rw [hnone] at hp
  obtain rfl : s = v := Option.some.inj hp
  refine ⟨hu ▸ waitOr_fold_none (fun r hr => (hc r hr).imp id (fun hb => ?_)), hok⟩
  obtain ⟨q, hm, hl⟩ := List.mem_map.1 hb
  rw [← hl]
  exact (mem_goers (hq ▸ hm)).2

/-! ### The whole access -/

theorem checkList_length (s : State) (a : Agent) (x : Acc) (es : List Nat) : (s.checkList a x es).2.length = es.length := by
  induction es generalizing s with
  | nil => rfl
  | cons e t ih => exact congrArg (· + 1) (ih _)

/-- The lanes' results stand in the order of the lanes, each with its address. -/
theorem answers_lanes (x : Iss) (s : State) (ea : Nat → Nat) {ks : List Chk} (h : ks.length = x.ex.length) :
    (x.answers s ((x.ex.zip ks).map (fun c => (c.1, ea c.1, c.2)))).map (·.1) = x.ex := by
  simp only [Iss.answers, List.map_map, Function.comp_def]
  exact List.map_fst_zip h.ge

theorem mem_answers {x : Iss} {s : State} {ea : Nat → Nat} {ks : List Chk} {r : Nat × Nat × Chk}
    (h : r ∈ x.answers s ((x.ex.zip ks).map (fun c => (c.1, ea c.1, c.2)))) : r.1 ∈ x.ex ∧ r.2.1 = ea r.1 := by
  obtain ⟨p, hp, rfl⟩ := List.mem_map.1 h
  obtain ⟨⟨l, k⟩, hl, rfl⟩ := List.mem_map.1 hp
  exact ⟨(List.of_mem_zip hl).1, rfl⟩

/-- An access all of whose lanes go on: the state is that of the checks, each lane at its address. -/
theorem access_go {x : Iss} {s u : State} {acc : Acc} {ea : Nat → Nat} {qs : List Lane} (he : x.ex.Nodup)
    (h : x.access s acc ea = .go u qs) (hq : qs.map (·.l) = x.ex) :
    u = (s.checkList x.agent acc (x.ex.map ea)).1 ∧ ∀ q ∈ qs, q.ea = ea q.l := by
  unfold Iss.access at h
  split at h
  · cases h
  · dsimp only at h
    split at h
    · cases h
    · split at h
      · cases h
      · rename_i hs
        cases h
        have hl : (s.checkList x.agent acc (x.ex.map ea)).2.length = x.ex.length := by
          rw [checkList_length, List.length_map]
        obtain ⟨h1, h2⟩ := settle_all hs (by rw [answers_lanes x _ ea hl]; exact he)
          (fun r hr => .inr (hq ▸ (mem_answers hr).1))
        exact ⟨h1, fun q hm => (mem_answers (h2 q hm)).2⟩

/-- What the checks of such an access leave. -/
theorem access_upkeep {x : Iss} {s u : State} {acc : Acc} {ea : Nat → Nat} {qs : List Lane} (he : x.ex.Nodup)
    (h : x.access s acc ea = .go u qs) (hq : qs.map (·.l) = x.ex) : Alike s u ∧ Upkeep s u := by
  rw [(access_go he h hq).1]
  exact ⟨alike_checkList s _ _ _, upkeep_checkList s _ _ _⟩

/-! ### The group, its lanes, and the end of an instruction -/

/-- No lane of a group that does not speculate has speculation (03 R88). -/
theorem group_calm {s : State} {g : Grp} (h : s.group = some g) (hs : g.spec = false) :
    ∀ l ∈ g.lanes, (s.thread g.core g.slot l).spec = none := by
  unfold State.group at h
  dsimp only at h
  split at h
  · cases h
  · rename_i y hy
    split at h
    · cases h
    · rename_i a t _
      cases h
      intro l hl
      have hw : s.weave s.cur.core s.cur.slot = y := by
        rw [State.weave, Core.weave, tabGet, hy]; rfl
      have := (List.mem_filter.1 hl).2
      simp only [Bool.and_eq_true, beq_iff_eq] at this
      rw [State.thread, hw]
      exact Option.isSome_eq_false_iff.1 (this.2.trans hs) |> Option.isNone_iff_eq_none.1

/-- Every executing lane has run. -/
theorem finish_covers (x : Iss) (s : State) {ran : List Nat} (h : ∀ l ∈ x.ex, l ∈ ran) :
    x.finish (.done s ran) = x.settled s := by
  have hb : x.ex.filter (fun l => !ran.contains l) = [] :=
    List.filter_eq_nil_iff.2 (fun l hl => by simp [h l hl])
  have hk : x.ex.filter (fun l => ran.contains l) = x.ex :=
    List.filter_eq_self.2 (fun l hl => by simp [h l hl])
  simp only [Iss.finish, hb, List.isEmpty_nil, if_true, Iss.settled, Iss.keep]
  cases x.kept with
  | none => rfl
  | some q => simp only [hk, filter_contains_self]

end Sys2Proof.Machine
end

section
/-! SUPPORT. Loads that complete (06 R180, R183 to R185): lane by lane, what one lane leaves does not change what the next one
reads. -/

namespace Sys2Proof.Machine

/-! ### What a load reads -/

/-- A thread of `t` that does not speculate reads of `s` what it reads of `t`. -/
structure ReadsAs (s t : State) : Prop where
  bytes : ∀ pa, t.memByte pa = s.memByte pa
  poison : t.poison = s.poison
  pending : ∀ c, (t.core c).pending = (s.core c).pending
  tables : SameTables s t
  calm : ∀ c w l, (s.thread c w l).spec = none → (t.thread c w l).spec = none

theorem ReadsAs.rfl' (s : State) : ReadsAs s s := ⟨fun _ => rfl, rfl, fun _ => rfl, fun _ _ => rfl, fun _ _ _ h => h⟩

theorem ReadsAs.trans {s t u : State} (h : ReadsAs s t) (k : ReadsAs t u) : ReadsAs s u :=
  ⟨fun pa => (k.bytes pa).trans (h.bytes pa), k.poison.trans h.poison, fun c => (k.pending c).trans (h.pending c),
    fun c w => (k.tables c w).trans (h.tables c w), fun c w l hs => k.calm c w l (h.calm c w l hs)⟩
theorem SeesAs.readsAs {s t : State} (h : SeesAs s t) (k : Alike s t) : ReadsAs s t :=
  ⟨h.bytes, h.poison, h.toUpkeep.pending, k.tables, h.calm⟩

theorem span_mem (pa n : Nat) : (Loc.mem pa).span n = (List.range n).map (fun j => Loc.mem (pa + j)) := rfl

theorem ReadsAs.anyPoison {s t : State} (h : ReadsAs s t) (pa n : Nat) :
    t.anyPoison ((Loc.mem pa).span n) = s.anyPoison ((Loc.mem pa).span n) := by
  have hp : ∀ a, t.isPoison (.mem a) = s.isPoison (.mem a) := fun a => congrArg (fun p : List Nat => p.contains (a / 32)) h.poison
  simp only [State.anyPoison, span_mem, List.any_map, Function.comp_def, hp]

theorem queued_eq {s t : State} (h : SameTables s t) (c w : Nat) : (t.weave c w).queued = (s.weave c w).queued :=
  (congrArg Weave.queued (h c w) :)

theorem ReadsAs.seenByte {s t : State} (h : ReadsAs s t) {c w l : Nat} (hc : (s.thread c w l).spec = none) (pa : Nat) :
    t.seenByte c w l (.mem pa) = s.seenByte c w l (.mem pa) := by
  have hs : (s.thread c w l).ownByte (.mem pa) = none := by rw [Thread.ownByte, hc]; rfl
  have ht : (t.thread c w l).ownByte (.mem pa) = none := by rw [Thread.ownByte, h.calm c w l hc]; rfl
  have hm : t.getByte (.mem pa) = s.getByte (.mem pa) := h.bytes pa
  simp only [State.seenByte, hs, ht, queued_eq h.tables, h.pending, hm]

theorem ReadsAs.seen {s t : State} (h : ReadsAs s t) {c w l : Nat} (hc : (s.thread c w l).spec = none) (pa n : Nat) :
    t.seen c w l (.mem pa) n = s.seen c w l (.mem pa) n := by
  simp only [State.seen, span_mem, List.map_map, Function.comp_def, h.seenByte hc]

/-- From memory, a load's value is the bytes that the thread sees. -/
theorem loadValue_data (s : State) (c w l n : Nat) {pa : Nat} (h : regsAddr pa = false) :
    s.loadValue c w l (.mem pa) n = s.seen c w l (.mem pa) n := by
  simp [State.loadValue, h]

/-- A thread that does not speculate enters no sector into its read set. -/
theorem enterReads_calm {s : State} {c w l : Nat} (h : (s.thread c w l).spec = none) (ls : List Loc) :
    s.enterReads c w l ls = some s := by
  unfold State.enterReads
  split
  · rename_i hs _
    rw [h] at hs
    cases hs
  · rfl

/-! ### Lane by lane -/

/-- From `s` to `t` the lanes `ls` of the group change by `f`, and nothing that a load reads. -/
structure Lanewise (x : Iss) (ls : List Nat) (f : Nat → Thread → Thread) (s t : State) : Prop where
  reads : ReadsAs s t
  threads : ∀ c w l, (t.thread c w l).plainly =
    (if c = x.g.core ∧ w = x.g.slot ∧ l ∈ ls then f l (s.thread c w l) else s.thread c w l).plainly

theorem Lanewise.rfl' (x : Iss) (f : Nat → Thread → Thread) (s : State) : Lanewise x [] f s s :=
  ⟨.rfl' s, fun _ _ _ => by simp⟩

theorem Lanewise.append {x : Iss} {ls ms : List Nat} {f : Nat → Thread → Thread} {s t u : State} (h : Lanewise x ls f s t)
    (k : Lanewise x ms f t u) (hf : ∀ l a b, Thread.plainly a = b.plainly → (f l a).plainly = (f l b).plainly)
    (hd : ∀ l ∈ ls, l ∉ ms) : Lanewise x (ls ++ ms) f s u where
  reads := h.reads.trans k.reads
  threads c w l := by
    have hs := h.threads c w l
    rw [k.threads c w l]
    by_cases hg : c = x.g.core ∧ w = x.g.slot
    · by_cases hl : l ∈ ls
      · have hm := hd l hl
        simp only [hg, hl, hm, and_self, and_false, if_true, if_false, List.mem_append, true_or] at hs ⊢
        exact hs
      · by_cases hm : l ∈ ms
        · simp only [hg, hl, hm, and_self, and_false, if_true, if_false, List.mem_append, or_true] at hs ⊢
          exact hf l _ _ hs
        · simp only [hg, hl, hm, and_false, if_false, List.mem_append, or_self] at hs ⊢
          exact hs
    · rw [if_neg (fun h => hg ⟨h.1, h.2.1⟩)] at hs
      rw [if_neg (fun h => hg ⟨h.1, h.2.1⟩), if_neg (fun h => hg ⟨h.1, h.2.1⟩), hs]

/-- What brings nothing but what loads bring. -/
theorem Lanewise.of {x : Iss} {f : Nat → Thread → Thread} {s t : State} (h : SeesAs s t) (k : Alike s t) :
    Lanewise x [] f s t :=
  ⟨h.readsAs k, fun c w l => by simpa using k.threads c w l⟩

/-- Some threads of the group changed. -/
theorem lanewise_modThreads (x : Iss) {ls : List Nat} (h : ls.Nodup) {f : Nat → Thread → Thread}
    (hf : ∀ l t, Thread.spec t = none → (f l t).spec = none) (s : State) :
    Lanewise x ls f s (s.modThreads x.g.core x.g.slot ls f) where
  reads := {
    bytes := fun _ => rfl
    poison := rfl
    pending := fun c => by
      rw [State.modThreads, State.modWeave, State.setWeave, core_modCore]
      split
      · subst_vars; rfl
      · rfl
    tables := (stands_around (onlyThreads_modThreads s _ _ _ f h)).2
    calm := fun c w l hs => by
      rw [thread_modThreads_at _ _ _ _ _ _ _ _ h]
      split
      · obtain ⟨rfl, rfl, -⟩ := ‹_›
        exact hf l _ hs
      · exact hs }
  threads c w l := by
    rw [thread_modThreads_at _ _ _ _ _ _ _ _ h]
    by_cases hg : c = x.g.core ∧ w = x.g.slot ∧ l ∈ ls
    · obtain ⟨rfl, rfl, hl⟩ := hg
      simp [hl]
    · rw [if_neg hg, if_neg hg]

theorem modThread_eq (s : State) (c w l : Nat) (g : Thread → Thread) :
    s.modThread c w l g = s.modThreads c w [l] (fun _ => g) := rfl

/-- A lane of a group that does not speculate holds exactly what the change leaves. -/
theorem Lanewise.thread {x : Iss} {ls : List Nat} {f : Nat → Thread → Thread} {s t : State} (h : Lanewise x ls f s t) {l : Nat}
    (hs : (s.thread x.g.core x.g.slot l).spec = none) (hf : ∀ u, Thread.spec u = none → (f l u).spec = none) :
    t.thread x.g.core x.g.slot l = if l ∈ ls then f l (s.thread x.g.core x.g.slot l) else s.thread x.g.core x.g.slot l := by
  have exact' : ∀ a b : Thread, a.spec = none → b.spec = none → a.plainly = b.plainly → a = b := by
    intro a b ha hb he
    have h1 : a.plainly = a := by rw [Thread.plainly, ← ha]
    have h2 : b.plainly = b := by rw [Thread.plainly, ← hb]
    rw [← h1, ← h2, he]
  refine exact' _ _ (h.reads.calm _ _ _ hs) ?_ ?_
  · split
    · exact hf _ hs
    · exact hs
  · have := h.threads x.g.core x.g.slot l
    simpa using this

/-! ### Around an instruction whose lanes pass their checks -/

/-- keep looks at no view that leaves out what it does not read. -/
theorem keeps_plainly {x : Iss} {l : Nat} {a b : Thread} (h : a.plainly = b.plainly) :
    (x.keeps l a).plainly = (x.keeps l b).plainly :=
  congrArg (fun t : Thread => { t with ob := keptOb x l t.ob }) h

/-- What the group's lanes leave, keep included: `v` is the state in which they have run. -/
theorem passed_settled {i : Instr} {s u v : State} {x : Iss} {view : Thread → Thread} {eff : Nat → Thread → Thread}
    (hr : Ready i s x) (hk : ∀ l a b, view a = view b → view (x.keeps l a) = view (x.keeps l b))
    (hb : ∀ pa, v.memByte pa = u.memByte pa)
    (ht : ∀ c w l, view (v.thread c w l) = view (if c = x.g.core ∧ w = x.g.slot ∧ l ∈ x.ex then
      eff l ((x.moved s).thread c w l) else (x.moved s).thread c w l)) : Passed s u x view eff (x.settled v) := by
  have hm := advance_thread s x.g x.words (ready_nodup hr)
  have ho := stands_around (advance_only s x.g x.words (ready_nodup hr))
  have e := keep_only x v (ready_ex_nodup hr)
  have ek := keep_thread x v (ready_ex_nodup hr)
  have er := stands_around e
  refine ⟨fun pa => (e.bytes pa).trans (hb pa), fun c w l hn => ?_, fun l hl hx => ?_, fun l hx => ?_⟩
  · have hx : ¬ (c = x.g.core ∧ w = x.g.slot ∧ l ∈ x.ex) := fun h => hn ⟨h.1, h.2.1, ready_sub hr l h.2.2⟩
    rw [Iss.settled, er.1 c w l hx, ht c w l, if_neg hx]
    exact congrArg view (ho.1 c w l hn)
  · have hm' := hm l
    rw [if_pos hl] at hm'
    rw [Iss.settled, ek l, if_neg hx, ht, if_neg (fun h => hx h.2.2)]
    exact congrArg view hm'
  · have hm' := hm l
    rw [if_pos (ready_sub hr l hx)] at hm'
    rw [Iss.settled, ek l, if_pos hx]
    refine (hk l _ _ (ht _ _ l)).trans ?_
    rw [if_pos ⟨rfl, rfl, hx⟩, show (x.moved s).thread x.g.core x.g.slot l = movedOn (s.thread x.g.core x.g.slot l) x.words s.tick
      from hm']

/-- Tables of weaves that stand until the lanes have run stand in the end. -/
theorem sameTables_settled {i : Instr} {s v : State} {x : Iss} (hr : Ready i s x) (h : SameTables (x.moved s) v) :
    SameTables s (x.settled v) := fun c w =>
  ((stands_around (keep_only x v (ready_ex_nodup hr))).2 c w).trans
    ((h c w).trans ((stands_around (advance_only s x.g x.words (ready_nodup hr))).2 c w))

/-! ### Loads -/

theorem plainly_setEmpty (t : Thread) (d : BitVec 9) (bits : Nat) : (t.setEmpty d bits).plainly = t.plainly.setEmpty d bits := by
  unfold Thread.setEmpty
  induction groupRegs d bits generalizing t with
  | nil => rfl
  | cons n ns ih => exact ih _
theorem setEmpty_calm {t : Thread} (h : t.spec = none) (d : BitVec 9) (bits : Nat) : (t.setEmpty d bits).spec = none := by
  unfold Thread.setEmpty
  induction groupRegs d bits generalizing t with
  | nil => exact h
  | cons n ns ih => exact ih (congrArg (Option.map _) h)

/-- The deferred result of a lane, none for a value that goes to vz (02 R48, R55). -/
def Iss.results (x : Iss) (bad : Option Nat) (q : Lane) (v : Option Nat) : List Deferred :=
  if x.f.d = 511 ∧ v.isSome then [] else
    [{ slot := x.g.slot, lane := q.l, reg := x.f.d.toNat, cnt := if x.f.d = 511 then 0 else regsOf (x.r.d.width x.f.b),
       val := v, pc := x.g.pc, va := BitVec.ofNat 64 (bad.getD q.ea) }]

/-- Results posted to the core. -/
def State.posts (s : State) (c : Nat) (ds : List Deferred) : State :=
  s.modCore c (fun k => { k with deferred := k.deferred ++ ds })

theorem quiet_posts (s : State) (c : Nat) (ds : List Deferred) : Quiet s (s.posts c ds) := quiet_modCore s c _ (fun _ => rfl)

theorem lanewise_posts (x : Iss) (s : State) (ds : List Deferred) {f : Nat → Thread → Thread} :
    Lanewise x [] f s (s.posts x.g.core ds) where
  reads := {
    bytes := fun _ => rfl
    poison := rfl
    pending := fun c => by
      rw [State.posts, core_modCore]
      split
      · subst_vars; rfl
      · rfl
    tables := fun c w => by rw [quiet_posts s x.g.core ds c w]
    calm := fun c w l hs => by rw [(quiet_posts s x.g.core ds).thread]; exact hs }
  threads c w l := by
    rw [(quiet_posts s x.g.core ds).thread]
    simp

theorem core_modThreads_deferred (s : State) (c w : Nat) (ls : List Nat) (f : Nat → Thread → Thread) (k : Nat) :
    ((s.modThreads c w ls f).core k).deferred = (s.core k).deferred := by
  rw [State.modThreads, State.modWeave, State.setWeave, core_modCore]
  split
  · subst_vars; rfl
  · rfl

/-- A lane that keeps its threads as they are runs all the same. -/
theorem Lanewise.idle {x : Iss} {f : Nat → Thread → Thread} {s t : State} (h : Lanewise x [] f s t) (hf : ∀ l u, f l u = u)
    (ls : List Nat) : Lanewise x ls f s t :=
  ⟨h.reads, fun c w l => by simpa [hf] using h.threads c w l⟩

/-- A lane's result is posted, and its destination set empty. -/
theorem defer_lane (x : Iss) (s : State) (bad : Option Nat) (q : Lane) (v : Option Nat) (hs : x.g.spec = false) :
    Lanewise x [q.l] (fun _ t => t.setEmpty x.f.d (x.r.d.width x.f.b)) s
      (s.defer x q.l x.f.d (x.r.d.width x.f.b) v (bad.getD q.ea)) ∧
    ((s.defer x q.l x.f.d (x.r.d.width x.f.b) v (bad.getD q.ea)).core x.g.core).deferred =
      (s.core x.g.core).deferred ++ x.results bad q v := by
  by_cases hd : x.f.d = 511
  · have hz : ∀ (l : Nat) (t : Thread), (fun _ t => t.setEmpty x.f.d (x.r.d.width x.f.b) : Nat → Thread → Thread) l t = t :=
      fun _ t => by rw [hd]; rfl
    cases v with
    | some v =>
      have he : s.defer x q.l x.f.d (x.r.d.width x.f.b) (some v) (bad.getD q.ea) = s := if_pos hd
      rw [he, Iss.results, if_pos ⟨hd, rfl⟩, List.append_nil]
      exact ⟨(Lanewise.rfl' x _ s).idle hz [q.l], rfl⟩
    | none =>
      have he : s.defer x q.l x.f.d (x.r.d.width x.f.b) none (bad.getD q.ea) = s.posts x.g.core (x.results bad q none) := by
        refine (if_pos hd).trans ?_
        rw [Iss.results, if_neg (fun h => absurd h.2 Bool.false_ne_true), if_pos hd, hd, hs]; rfl
      rw [he]
      exact ⟨(lanewise_posts x s _).idle hz [q.l], by rw [State.posts, core_modCore, if_pos rfl]⟩
  · have he : s.defer x q.l x.f.d (x.r.d.width x.f.b) v (bad.getD q.ea) = (s.modThreads x.g.core x.g.slot [q.l]
        (fun _ t => t.setEmpty x.f.d (x.r.d.width x.f.b))).posts x.g.core (x.results bad q v) := by
      refine (if_neg hd).trans ?_
      rw [Iss.results, if_neg (fun h => hd h.1), if_neg hd, hs]; rfl
    rw [he]
    refine ⟨?_, by rw [State.posts, core_modCore, if_pos rfl, core_modThreads_deferred]⟩
    exact (lanewise_modThreads x (List.nodup_singleton q.l) (fun _ t h => setEmpty_calm h _ _) s).append
      (lanewise_posts x _ _) (fun _ a b h => by rw [plainly_setEmpty, plainly_setEmpty, h]) (by simp)

/-- What a load of the lane's place reads (06 R180). -/
def Iss.loaded (x : Iss) (k : MemKind) (u : State) (q : Lane) : Option Nat :=
  if u.anyPoison (q.loc.span (k.size x)) then none else some (extendLoad k.signed (k.size x) (x.readsAt u q (k.size x)))

theorem ReadsAs.loaded {s t : State} (h : ReadsAs s t) {x : Iss} {q : Lane} (hc : (s.thread x.g.core x.g.slot q.l).spec = none)
    (hd : q.loc.isData) (k : MemKind) : x.loaded k t q = x.loaded k s q := by
  obtain ⟨pa, hp, -⟩ := hd
  have hr : x.readsAt t q (k.size x) = x.readsAt s q (k.size x) := by
    simp only [Iss.readsAt, hp, span_mem, List.map_map, Function.comp_def, h.seenByte hc]
  rw [Iss.loaded, Iss.loaded, hr, hp, h.anyPoison]

/-- One lane of a load (06 R180). -/
theorem load_lane {x : Iss} (hs : x.g.spec = false) (k : MemKind) (bad : Option Nat) (t : State) (ran : List Nat) (q : Lane)
    (hc : (t.thread x.g.core x.g.slot q.l).spec = none) :
    ∃ u v, x.loadLane k bad (t, ran) q = (u, ran ++ [q.l]) ∧
      Lanewise x [q.l] (fun _ t => t.setEmpty x.f.d (x.r.d.width x.f.b)) t u ∧
      (u.core x.g.core).deferred = (t.core x.g.core).deferred ++ x.results bad q v ∧
      (q.loc.isData → v = x.loaded k t q) := by
  have hp := seesAs_prepLoad t x.g.core x.g.slot q (k.size x) (!k.nt)
  have hl : Lanewise x [] (fun _ t => t.setEmpty x.f.d (x.r.d.width x.f.b)) t _ :=
    .of hp (alike_prepLoad t x.g.core x.g.slot q (k.size x) (!k.nt))
  rw [Iss.loadLane]
  generalize t.prepLoad x.g.core x.g.slot q (k.size x) (!k.nt) = p at hp hl ⊢
  have hv : q.loc.isData → (if p.anyPoison (q.loc.span (k.size x)) then none
      else some (extendLoad k.signed (k.size x) (p.loadValue x.g.core x.g.slot q.l q.loc (k.size x)))) = x.loaded k t q := by
    intro hd
    rw [← hl.reads.loaded hc hd k]
    obtain ⟨pa, hpa, hr⟩ := hd
    rw [Iss.loaded, hpa, loadValue_data _ _ _ _ _ hr, Iss.readsAt, hpa]
    rfl
  rw [enterReads_calm (hl.reads.calm _ _ _ hc)]
  obtain ⟨h1, h2⟩ := defer_lane x p bad q (if p.anyPoison (q.loc.span (k.size x)) then none
      else some (extendLoad k.signed (k.size x) (p.loadValue x.g.core x.g.slot q.l q.loc (k.size x)))) hs
  exact ⟨_, _, rfl, hl.append h1 (fun _ a b h => by rw [plainly_setEmpty, plainly_setEmpty, h]) (by simp),
    by rw [h2, hp.toUpkeep.deferred], hv⟩

/-- All lanes of a load, in turn. -/
theorem load_lanes {x : Iss} (hs : x.g.spec = false) (k : MemKind) (bad : Option Nat) (qs : List Lane)
    (hn : (qs.map (·.l)).Nodup) (t : State) (ran : List Nat)
    (hc : ∀ q ∈ qs, (t.thread x.g.core x.g.slot q.l).spec = none) :
    ∃ u vs, qs.foldl (x.loadLane k bad) (t, ran) = (u, ran ++ qs.map (·.l)) ∧
      Lanewise x (qs.map (·.l)) (fun _ t => t.setEmpty x.f.d (x.r.d.width x.f.b)) t u ∧
      vs.length = qs.length ∧
      (u.core x.g.core).deferred = (t.core x.g.core).deferred ++ (qs.zip vs).flatMap (fun e => x.results bad e.1 e.2) ∧
      ∀ e ∈ qs.zip vs, e.1.loc.isData → e.2 = x.loaded k t e.1 := by
  induction qs generalizing t ran with
  | nil => exact ⟨t, [], by simp, .rfl' x _ t, rfl, by simp, by simp⟩
  | cons q qs ih =>
    rw [List.map_cons, List.nodup_cons] at hn
    obtain ⟨w, v, hw, hl, hd, hv⟩ := load_lane hs k bad t ran q (hc q (List.mem_cons_self ..))
    have hcw : ∀ p ∈ qs, (w.thread x.g.core x.g.slot p.l).spec = none := fun p hp =>
      hl.reads.calm _ _ _ (hc p (List.mem_cons_of_mem _ hp))
    obtain ⟨u, vs, hu, hls, hlen, hds, hvs⟩ := ih hn.2 w (ran ++ [q.l]) hcw
    refine ⟨u, v :: vs, ?_, ?_, by simp [hlen], ?_, ?_⟩
    · rw [List.foldl_cons, hw, hu, List.map_cons, List.append_assoc, List.singleton_append]
    · exact hl.append hls (fun _ a b h => by rw [plainly_setEmpty, plainly_setEmpty, h]) (by simpa using hn.1)
    · rw [hds, hd, List.zip_cons_cons, List.flatMap_cons, List.append_assoc]
    · intro e he hde
      rcases List.mem_cons.1 (by rwa [List.zip_cons_cons] at he) with rfl | he
      · exact hv hde
      · rw [hvs e he hde]
        exact hl.reads.loaded (hc _ (List.mem_cons_of_mem _ (List.of_mem_zip he).1)) hde k

/-! ### The instruction -/

theorem deferred_settled (x : Iss) (s : State) (k : Nat) : ((x.settled s).core k).deferred = (s.core k).deferred := by
  unfold Iss.settled Iss.keep
  split
  · rfl
  · exact core_modThreads_deferred s _ _ _ _ k

/-- The lanes of a group that does not speculate, once they have moved on (03 R88). -/
theorem moved_calm {i : Instr} {s : State} {x : Iss} (hr : Ready i s x) (hs : x.g.spec = false) {l : Nat} (hl : l ∈ x.g.lanes) :
    ((x.moved s).thread x.g.core x.g.slot l).spec = none := by
  have h := group_calm hr.1 hs l hl
  have hm := advance_thread s x.g x.words (ready_nodup hr) l
  rw [if_pos hl] at hm
  rw [show (x.moved s).thread x.g.core x.g.slot l = movedOn (s.thread x.g.core x.g.slot l) x.words s.tick from hm]
  exact h

theorem loads_of {i : Instr} {k : MemKind} (hx : ∀ s, exec i s = issue i (loadBody k) s) : Loads i k := by
  intro s x u qs hr hs ha hq
  have he := ready_ex_nodup hr
  obtain ⟨hal, hup⟩ := access_upkeep he ha hq
  have hc : ∀ q ∈ qs, (u.thread x.g.core x.g.slot q.l).spec = none := fun q hm => hup.calm _ _ _
    (moved_calm hr hs (ready_sub hr _ (hq ▸ List.mem_map_of_mem (f := (·.l)) hm)))
  obtain ⟨v, vs, hv, hl, hlen, hd, hvs⟩ := load_lanes hs k (u.poisonAddr (k.size x) qs) qs (hq ▸ he) u [] hc
  have hb : loadBody k x (x.moved s) = .done v x.ex := by
    rw [loadBody, ha]
    dsimp only
    rw [hv, List.nil_append, hq]
  refine ⟨x.settled v, vs, ?_, ?_, ?_, hlen, ?_, hvs⟩
  · rw [hx s, issue_go _ hr, show s.advance x.g x.words = x.moved s from rfl, hb, finish_settled]
  · refine passed_settled hr (fun l a b => keeps_plainly) hl.reads.bytes (fun c w l => ?_)
    rw [hl.threads c w l, hq]
    split
    · rw [plainly_setEmpty, plainly_setEmpty, hal.threads]
    · exact hal.threads c w l
  · exact sameTables_settled hr (fun c w => (hl.reads.tables c w).trans (hal.tables c w))
  · rw [deferred_settled, hd, hup.deferred, Iss.moved, State.advance, core_modThreads_deferred]
    rfl

/-- Settles O17, lane by lane: what one lane leaves does not change what the next one reads. -/
theorem loadsPostTheirResults : Obligations.LoadsPostTheirResults :=
  ⟨fun _ => loads_of (fun _ => rfl), fun _ => loads_of (fun _ => rfl), fun _ => loads_of (fun _ => rfl),
    fun _ => loads_of (fun _ => rfl), fun _ => loads_of (fun _ => rfl), fun _ => loads_of (fun _ => rfl),
    fun _ => loads_of (fun _ => rfl)⟩

end Sys2Proof.Machine
end

section
/-! SUPPORT. The non-faulting load (06 R185): a refused lane and a lane past its checks alike write one value and one
predicate. -/

namespace Sys2Proof.Machine

/-! ### A value and a predicate -/

/-- The lane writes a value to d and a status to P(b). -/
def Iss.answer (x : Iss) (out : Nat → Nat × Bool) (l : Nat) (t : Thread) : Thread :=
  (t.dest x.f.d (x.r.d.width x.f.b) (out l).1).setPred (x.f.b.toNat % 8) (out l).2

theorem plainly_setPred (t : Thread) (n : Nat) (b : Bool) : (t.setPred n b).plainly = t.plainly.setPred n b := by
  unfold Thread.setPred
  split <;> rfl
theorem plainly_answer (x : Iss) (out : Nat → Nat × Bool) (l : Nat) (t : Thread) :
    (x.answer out l t).plainly = x.answer out l t.plainly := by
  rw [Iss.answer, plainly_setPred, plainly_dest, Iss.answer]
theorem answer_plainly (x : Iss) (out : Nat → Nat × Bool) (l : Nat) (a b : Thread) (h : a.plainly = b.plainly) :
    (x.answer out l a).plainly = (x.answer out l b).plainly := by
  rw [plainly_answer, plainly_answer, h]
theorem answer_calm (x : Iss) (out : Nat → Nat × Bool) (l : Nat) (t : Thread) (h : t.spec = none) :
    (x.answer out l t).spec = none := by
  have hs : (x.answer out l t).spec.isSome = t.spec.isSome := by
    rw [Iss.answer, field_setPred (·.spec.isSome) (fun _ _ => rfl), spec_dest]
  rw [h] at hs
  exact Option.not_isSome_iff_eq_none.1 (by rw [hs]; exact Bool.false_ne_true)

theorem answer_effect (x : Iss) (out : Nat → Nat × Bool) (l : Nat) (t : Thread) :
    LaneEffect x { reg := some (out l).1, pred := some (x.f.b.toNat % 8, (out l).2) } t (x.answer out l t) :=
  pred_effect _ _ (Nat.mod_lt _ (by norm_num)) (dest_effect x t _)

/-- A view of a thread but for its speculation, its registers and its predicates. -/
def Thread.bare (t : Thread) : Thread := { t.plainly with regs := [], preds := 0 }
theorem bare_answer (x : Iss) (out : Nat → Nat × Bool) (l : Nat) (t : Thread) : (x.answer out l t).bare = t.bare := by
  rw [Iss.answer, field_setPred Thread.bare (fun _ _ => rfl), field_dest Thread.bare (fun _ _ _ => rfl)]

/-! ### Lanes after their changes -/

theorem Lanewise.congr {x : Iss} {ls : List Nat} {f g : Nat → Thread → Thread} {s t : State} (h : Lanewise x ls f s t)
    (hf : ∀ l ∈ ls, ∀ t, f l t = g l t) : Lanewise x ls g s t := by
  refine ⟨h.reads, fun c w l => (h.threads c w l).trans ?_⟩
  split
  · rw [hf l ‹c = x.g.core ∧ w = x.g.slot ∧ l ∈ ls›.2.2]
  · rfl

/-- A group that does not speculate: a lane holds what its own part leaves, and then moves on. -/
theorem after_settled {i : Instr} {s v : State} {x : Iss} {out : Nat → LaneOut} (h : Nat → Thread → Thread) (hr : Ready i s x)
    (hv : ∀ l ∈ x.g.lanes, v.thread x.g.core x.g.slot l =
      if l ∈ x.ex then h l ((x.moved s).thread x.g.core x.g.slot l) else (x.moved s).thread x.g.core x.g.slot l)
    (hh : ∀ l ∈ x.ex, ∀ t, LaneEffect x (out l) t (h l t)) :
    ∀ l ∈ x.g.lanes, LaneAfter x l (if l ∈ x.ex then some (out l) else none)
      (s.thread x.g.core x.g.slot l) ((x.settled v).thread x.g.core x.g.slot l) s.tick := by
  intro l hl
  have he := ready_ex_nodup hr
  have hc := (computed_done (s := s) h (ready_nodup hr) he (ready_sub hr) hh).lanes l hl
  rw [finish_done_all, keep_thread x _ he, thread_modThreads _ _ _ _ _ _ he] at hc
  rw [Iss.settled, keep_thread x _ he, hv l hl]
  exact hc

/-- A lane of a group that does not speculate, once the checks of an access have been made. -/
theorem calm_thread {s u : State} (h : Alike s u) (k : Upkeep s u) {c w l : Nat} (hs : (s.thread c w l).spec = none) :
    u.thread c w l = s.thread c w l := by
  have hu := k.calm c w l hs
  calc u.thread c w l = (u.thread c w l).plainly := by rw [Thread.plainly, ← hu]
    _ = (s.thread c w l).plainly := h.threads c w l
    _ = s.thread c w l := by rw [Thread.plainly, ← hs]

/-! ### The lanes of ldnf -/

theorem goers_sublist (x : Iss) (s : State) (rs : List (Nat × Nat × Chk)) :
    ((x.goers s rs).map (·.l)).Sublist (rs.map (·.1)) := by
  unfold Iss.goers
  induction rs with
  | nil => exact .slnil
  | cons r rs ih =>
    obtain ⟨l, ea, k⟩ := r
    rw [List.filterMap_cons]
    split
    · exact ih.cons l
    · rename_i q hq
      have : q.l = l := by
        cases k <;> simp at hq
        rw [← hq.2]
      rw [List.map_cons, List.map_cons, this]
      exact ih.cons_cons l

/-- The lanes that go on are lanes of the access, each once. -/
theorem settle_lanes {x : Iss} {s u : State} {wr : Bool} {rs : List (Nat × Nat × Chk)} {qs : List Lane}
    (h : x.settle s wr rs = some (u, qs)) : (qs.map (·.l)).Sublist (rs.map (·.1)) := by
  rw [settle_eq, Option.map_eq_some_iff] at h
  obtain ⟨v, -, he⟩ := h
  rw [← (Prod.mk.inj he).2]
  exact goers_sublist x _ rs

theorem find_lane {qs : List Lane} (h : (qs.map (·.l)).Nodup) {q : Lane} (hq : q ∈ qs) :
    qs.find? (fun p => p.l = q.l) = some q := by
  cases hf : qs.find? (fun p => p.l = q.l) with
  | none => exact absurd (List.find?_eq_none.1 hf q hq) (by simp)
  | some p => rw [List.inj_on_of_nodup_map h (List.mem_of_find?_eq_some hf) hq (by simpa using List.find?_some hf)]

/-- What a lane past its checks answers (06 R185). -/
def Iss.nfValue (x : Iss) (k : MemKind) (u : State) (q : Lane) : Nat × Bool :=
  (if !u.anyPoison (q.loc.span (k.size x)) then x.readsAt u q (k.size x) else 0, !u.anyPoison (q.loc.span (k.size x)))

/-- What each lane answers: zero and false where it is refused. -/
def Iss.nfOut (x : Iss) (k : MemKind) (u : State) (qs : List Lane) (l : Nat) : Nat × Bool :=
  ((qs.find? (fun q => q.l = l)).map (x.nfValue k u)).getD (0, false)

theorem ReadsAs.nfValue {s t : State} (h : ReadsAs s t) {x : Iss} {q : Lane} (hc : (s.thread x.g.core x.g.slot q.l).spec = none)
    (hd : q.loc.isData) (k : MemKind) : x.nfValue k t q = x.nfValue k s q := by
  obtain ⟨pa, hp, -⟩ := hd
  have hr : x.readsAt t q (k.size x) = x.readsAt s q (k.size x) := by
    simp only [Iss.readsAt, hp, span_mem, List.map_map, Function.comp_def, h.seenByte hc]
  rw [Iss.nfValue, Iss.nfValue, hr, hp, h.anyPoison]

theorem ldnf_lane {x : Iss} {k : MemKind} (hw : x.r.d.width x.f.b = 8 * k.size x) {out : Nat → Nat × Bool} (t : State)
    (ran : List Nat) (q : Lane) (hc : (t.thread x.g.core x.g.slot q.l).spec = none) (hd : q.loc.isData)
    (ho : out q.l = x.nfValue k t q) :
    ∃ u, x.ldnfLane k (t, ran) q = (u, ran ++ [q.l]) ∧ Lanewise x [q.l] (x.answer out) t u := by
  have hl : Lanewise x [] (x.answer out) t _ := .of (seesAs_prepLoad t x.g.core x.g.slot q (k.size x) true)
    (alike_prepLoad t x.g.core x.g.slot q (k.size x) true)
  rw [Iss.ldnfLane]
  generalize t.prepLoad x.g.core x.g.slot q (k.size x) true = p at hl ⊢
  rw [← hl.reads.nfValue hc hd k] at ho
  have hv : (if p.anyPoison (q.loc.span (k.size x)) then 0 else p.loadValue x.g.core x.g.slot q.l q.loc (k.size x)) = (out q.l).1 := by
    obtain ⟨pa, hpa, hr⟩ := hd
    rw [ho, Iss.nfValue, hpa, loadValue_data _ _ _ _ _ hr, Iss.readsAt, hpa]
    cases p.anyPoison ((Loc.mem pa).span (k.size x)) <;> rfl
  have hb : (!p.anyPoison (q.loc.span (k.size x))) = (out q.l).2 := by rw [ho]; rfl
  rw [enterReads_calm (hl.reads.calm _ _ _ hc)]
  dsimp only
  rw [hv, hb, modThread_eq, ← hw]
  exact ⟨_, rfl, hl.append ((lanewise_modThreads x (List.nodup_singleton q.l) (fun l => answer_calm x (fun _ => out q.l) l)
    p).congr (by simp [Iss.answer])) (answer_plainly x out) (by simp)⟩

theorem ldnf_lanes {x : Iss} {k : MemKind} (hw : x.r.d.width x.f.b = 8 * k.size x) {out : Nat → Nat × Bool} (qs : List Lane)
    (hn : (qs.map (·.l)).Nodup) (t : State) (ran : List Nat)
    (hc : ∀ q ∈ qs, (t.thread x.g.core x.g.slot q.l).spec = none) (hd : ∀ q ∈ qs, q.loc.isData)
    (ho : ∀ q ∈ qs, out q.l = x.nfValue k t q) :
    ∃ u, qs.foldl (x.ldnfLane k) (t, ran) = (u, ran ++ qs.map (·.l)) ∧ Lanewise x (qs.map (·.l)) (x.answer out) t u := by
  induction qs generalizing t ran with
  | nil => exact ⟨t, by simp, .rfl' x _ t⟩
  | cons q qs ih =>
    rw [List.map_cons, List.nodup_cons] at hn
    rw [List.forall_mem_cons] at hc hd ho
    obtain ⟨w, he, hl⟩ := ldnf_lane hw t ran q hc.1 hd.1 ho.1
    obtain ⟨u, hu, hls⟩ := ih hn.2 w (ran ++ [q.l]) (fun p hp => hl.reads.calm _ _ _ (hc.2 p hp)) hd.2
      (fun p hp => (ho.2 p hp).trans (hl.reads.nfValue (hc.2 p hp) (hd.2 p hp) k).symm)
    refine ⟨u, ?_, hl.append hls (answer_plainly x out) (by simpa using hn.1)⟩
    rw [List.foldl_cons, he, hu, List.map_cons, List.append_assoc, List.singleton_append]

/-! ### The instruction -/

theorem nfChecks_lanes (x : Iss) (s : State) : (x.nfChecks s).2.map (·.1) = x.ex :=
  answers_lanes x _ _ (by rw [checkList_length, List.length_map])

theorem nfBad_lanes {x : Iss} {s : State} {l : Nat} (h : l ∈ x.nfBad s) :
    ∃ ea c, (l, ea, c) ∈ (x.nfChecks s).2 ∧ c.isBad = true := by
  obtain ⟨⟨m, ea, c⟩, hm, rfl⟩ := List.mem_map.1 h
  obtain ⟨hm, hb⟩ := List.mem_filter.1 hm
  exact ⟨ea, c, hm, hb⟩

theorem ldnf_width {o : MForm} {s : State} {x : Iss} (hr : Ready (.ldnf o) s x) :
    x.r.d.width x.f.b = 8 * ({} : MemKind).size x := by
  obtain ⟨-, -, hf, hrow, -⟩ := ready_ex hr
  rw [hrow, MemKind.size, hf]
  exact (congrArg (8 * ·) (Nat.one_mul _)).symm

/-- What ldnf writes in a lane. -/
def Iss.nfWrites (x : Iss) (k : MemKind) (u : State) (qs : List Lane) (l : Nat) : LaneOut :=
  match qs.find? (fun q => q.l = l) with
  | some q =>
    let ok := !u.anyPoison (q.loc.span (k.size x))
    { reg := some (if ok then x.readsAt u q (k.size x) else 0), pred := some (x.f.b.toNat % 8, ok) }
  | none => { reg := some 0, pred := some (x.f.b.toNat % 8, false) }

theorem nfWrites_effect (x : Iss) (k : MemKind) (u : State) (qs : List Lane) (l : Nat) (t : Thread) :
    LaneEffect x (x.nfWrites k u qs l) t (x.answer (x.nfOut k u qs) l t) := by
  have h := answer_effect x (x.nfOut k u qs) l t
  unfold Iss.nfWrites
  cases hf : qs.find? (fun q => q.l = l) <;> simp only [Iss.nfOut, hf] at h <;> exact h

/-- The refused lanes and those past their checks: together the executing lanes, each once. -/
structure NfLanes (x : Iss) (bad : List Nat) (qs : List Lane) : Prop where
  bad_nodup : bad.Nodup
  go_nodup : (qs.map (·.l)).Nodup
  apart : ∀ l ∈ bad, l ∉ qs.map (·.l)
  cover : ∀ l, l ∈ bad ++ qs.map (·.l) ↔ l ∈ x.ex

theorem nfGoes_lanes {x : Iss} {s u : State} {qs : List Lane} (he : x.ex.Nodup) (hg : x.nfGoes s u qs) :
    u = (x.nfChecks s).1 ∧ NfLanes x (x.nfBad s) qs := by
  obtain ⟨-, -, hset, hall, -⟩ := hg
  have hx := nfChecks_lanes x s
  have hn : ((x.nfChecks s).2.map (·.1)).Nodup := by rw [hx]; exact he
  have hmem : ∀ r ∈ (x.nfChecks s).2, r.1 ∈ x.ex := fun r hr => hx ▸ List.mem_map_of_mem (f := fun r : Nat × Nat × Chk => r.1) hr
  obtain ⟨hu, hok⟩ := settle_all hset hn (fun r hr => (hall r.1 (hmem r hr)).imp_left (fun hb => by
    obtain ⟨ea, c, hc, hb⟩ := nfBad_lanes hb
    rw [List.inj_on_of_nodup_map hn hr hc rfl]
    exact hb))
  refine ⟨hu, (List.filter_sublist.map _).nodup hn, (settle_lanes hset).nodup hn, fun l hl hq => ?_, fun l => ?_⟩
  · obtain ⟨ea, c, hc, hb⟩ := nfBad_lanes hl
    obtain ⟨q, hm, rfl⟩ := List.mem_map.1 hq
    have := List.inj_on_of_nodup_map hn hc (hok q hm) rfl
    rw [(Prod.mk.inj (Prod.mk.inj this).2).2] at hb
    exact absurd hb Bool.false_ne_true
  · rw [List.mem_append]
    refine ⟨fun h => h.elim (fun hl => ?_) (fun hq => hx ▸ (settle_lanes hset).subset hq), hall l⟩
    obtain ⟨ea, c, hc, -⟩ := nfBad_lanes hl
    exact hmem _ hc

/-- Where every executing lane is refused or goes on, ldnf is done. -/
theorem ldnfBody_done {x : Iss} {s u v : State} {qs : List Lane} {ran : List Nat}
    (hp : s.atomPending x.g.core x.g.slot x.ex = false)
    (hset : x.settle (x.nfChecks s).1 false (x.nfChecks s).2 = some (u, qs))
    (hv : qs.foldl (x.ldnfLane {}) (x.ldnfFail u (x.nfBad s), x.nfBad s) = (v, ran)) (hran : ∀ l ∈ x.ex, l ∈ ran) :
    ldnfBody x s = .done v ran := by
  have hb : ldnfBody x s = if s.atomPending x.g.core x.g.slot x.ex then .wait s else
      match x.settle (x.nfChecks s).1 false (x.nfChecks s).2 with
      | none => .wait s
      | some (u, qs) =>
        let r := qs.foldl (x.ldnfLane {}) (x.ldnfFail u (x.nfBad s), x.nfBad s)
        if x.ex.all (fun l => (x.ex.filter (fun l => (u.thread x.g.core x.g.slot l).mode == .parked)).contains l ||
          r.2.contains l) then .done r.1 r.2 else .whole (x.stay u) := rfl
  rw [hb, hp, hset]
  dsimp only
  rw [hv]
  exact if_pos (List.all_eq_true.2 (fun l hl => Bool.or_eq_true_iff.2 (.inr (List.contains_iff_mem.2 (hran l hl)))))

/-- The refused lanes write zero and false. -/
theorem ldnfFail_lanes {x : Iss} {k : MemKind} {u : State} {bad : List Nat} {qs : List Lane} (h : NfLanes x bad qs) :
    Lanewise x bad (x.answer (x.nfOut k u qs)) u (x.ldnfFail u bad) := by
  refine (lanewise_modThreads x h.bad_nodup (fun l => answer_calm x (fun _ => (0, false)) l) u).congr (fun l hl t => ?_)
  have hno : qs.find? (fun q => q.l = l) = none := List.find?_eq_none.2 (fun q hq he =>
    h.apart l hl (List.mem_map.2 ⟨q, hq, by simpa using he⟩))
  simp only [Iss.answer, Iss.nfOut, hno, Option.map_none, Option.getD_none]

/-- The state that ldnf leaves, but for keep: the refused lanes have answered, then those past their checks. -/
theorem ldnf_runs {o : MForm} {s u : State} {x : Iss} {qs : List Lane} (hr : Ready (.ldnf o) s x)
    (hg : x.nfGoes (x.moved s) u qs) : Alike (x.moved s) u ∧ Upkeep (x.moved s) u ∧
      ∃ v, exec (.ldnf o) s = .next (x.settled v) ∧ Lanewise x x.ex (x.answer (x.nfOut {} u qs)) u v := by
  obtain ⟨hu, hlanes⟩ := nfGoes_lanes (ready_ex_nodup hr) hg
  obtain ⟨hs, hp, hset, -, hdata⟩ := hg
  have hal : Alike (x.moved s) u := hu ▸ alike_checkList (x.moved s) _ _ _
  have hup : Upkeep (x.moved s) u := hu ▸ upkeep_checkList (x.moved s) _ _ _
  have hcalm : ∀ q ∈ qs, (u.thread x.g.core x.g.slot q.l).spec = none := fun q hq => hup.calm _ _ _
    (moved_calm hr hs (ready_sub hr q.l ((hlanes.cover q.l).1 (List.mem_append_right _ (List.mem_map_of_mem (f := (·.l)) hq)))))
  have hfail : Lanewise x (x.nfBad (x.moved s)) (x.answer (x.nfOut {} u qs)) u _ := ldnfFail_lanes hlanes
  obtain ⟨v, hv, hl⟩ := ldnf_lanes (k := {}) (out := x.nfOut {} u qs) (ldnf_width hr) qs hlanes.go_nodup _ (x.nfBad (x.moved s))
    (fun q hq => hfail.reads.calm _ _ _ (hcalm q hq)) hdata
    (fun q hq => by
      rw [hfail.reads.nfValue (hcalm q hq) (hdata q hq), Iss.nfOut, find_lane hlanes.go_nodup hq]; rfl)
  refine ⟨hal, hup, v, ?_, ⟨hfail.reads.trans hl.reads, fun c w l => ?_⟩⟩
  · rw [show exec (.ldnf o) s = issue (.ldnf o) ldnfBody s from rfl, issue_go _ hr, show s.advance x.g x.words = x.moved s from rfl,
      ldnfBody_done hp hset hv (fun l hl => (hlanes.cover l).2 hl), finish_covers x v (fun l hl => (hlanes.cover l).2 hl)]
  · rw [(hfail.append hl (answer_plainly x _) hlanes.apart).threads c w l]
    simp only [hlanes.cover]

theorem ldnf_after {o : MForm} {s u v : State} {x : Iss} {qs : List Lane} (hr : Ready (.ldnf o) s x) (hs : x.g.spec = false)
    (hal : Alike (x.moved s) u) (hup : Upkeep (x.moved s) u) (hl : Lanewise x x.ex (x.answer (x.nfOut {} u qs)) u v) :
    ∀ l ∈ x.g.lanes, LaneAfter x l (if l ∈ x.ex then some (x.nfWrites {} u qs l) else none)
      (s.thread x.g.core x.g.slot l) ((x.settled v).thread x.g.core x.g.slot l) s.tick := by
  refine after_settled (x.answer (x.nfOut {} u qs)) hr (fun l hll => ?_) (fun l _ t => nfWrites_effect x {} u qs l t)
  have hc := moved_calm hr hs hll
  rw [hl.thread (hup.calm _ _ _ hc) (answer_calm x _ l), calm_thread hal hup hc]

/-- Settles O18, lane by lane: a refused lane and a lane past its checks alike write one value and one predicate. -/
theorem nonFaultingLoad : Obligations.NonFaultingLoad := by
  refine ⟨fun o s x hr ⟨u, qs, hg⟩ => ?_, fun o s x u qs hr hg => ?_⟩
  · obtain ⟨hal, hup, v, hx, hl⟩ := ldnf_runs hr hg
    have ha := ldnf_after hr hg.1 hal hup hl
    exact ⟨x.settled v, hx, fun l hl => ⟨(ha l hl).ctl, (ha l hl).mode⟩⟩
  · obtain ⟨hal, hup, v, hx, hl⟩ := ldnf_runs hr hg
    refine ⟨x.settled v, hx, sameTables_settled hr (fun c w => (hl.reads.tables c w).trans (hal.tables c w)), ?_,
      ldnf_after hr hg.1 hal hup hl⟩
    refine passed_settled (view := Thread.bare) hr (fun l a b h => congrArg (fun t : Thread => { t with ob := keptOb x l t.ob }) h)
      hl.reads.bytes (fun c w l => ?_)
    rw [ite_self]
    have h1 := congrArg Thread.bare (hl.threads c w l)
    have h2 := congrArg Thread.bare (hal.threads c w l)
    refine h1.trans (Eq.trans ?_ h2)
    split
    · exact bare_answer x _ l _
    · rfl

end Sys2Proof.Machine
end

section
/-! SUPPORT. Stores that enter the queue (06 R181 to R184, R187): which bytes the entries of one instruction hold. -/

namespace Sys2Proof.Machine

/-! ### The entries of one line each -/

/-- The entry is one of this store: of its weave and its ordering. -/
def StoreEnt.of (e0 e : StoreEnt) : Prop := e.slot = e0.slot ∧ e.rel = e0.rel

theorem addStoreByte_of {e0 : StoreEnt} {b : StoreByte} {es : List StoreEnt} {e : StoreEnt} (h : e ∈ addStoreByte e0 b es)
    (hs : ∀ e ∈ es, e0.of e) : e0.of e := by
  induction es with
  | nil => rw [addStoreByte, List.mem_singleton] at h; subst h; exact ⟨rfl, rfl⟩
  | cons a t ih =>
    rw [List.forall_mem_cons] at hs
    rw [addStoreByte] at h
    split at h
    · rcases List.mem_cons.1 h with rfl | h
      · exact hs.1
      · exact hs.2 e h
    · rcases List.mem_cons.1 h with rfl | h
      · exact hs.1
      · exact ih h hs.2

theorem mem_addStoreByte (e0 : StoreEnt) (b c : StoreByte) (es : List StoreEnt) :
    (∃ e ∈ addStoreByte e0 b es, c ∈ e.bytes) ↔ c = b ∨ ∃ e ∈ es, c ∈ e.bytes := by
  induction es with
  | nil => simp [addStoreByte]
  | cons a t ih =>
    rw [addStoreByte]
    split
    · simp only [List.exists_mem_cons_iff, List.mem_append, List.mem_singleton]
      tauto
    · rw [List.exists_mem_cons_iff, ih, List.exists_mem_cons_iff]
      tauto

theorem lineEntries_of {e0 : StoreEnt} {bs : List StoreByte} : ∀ e ∈ lineEntries e0 bs, e0.of e := by
  unfold lineEntries
  have h : ∀ (bs : List StoreByte) (es : List StoreEnt), (∀ e ∈ es, e0.of e) →
      ∀ e ∈ bs.foldl (fun es b => addStoreByte e0 b es) es, e0.of e := by
    intro bs
    induction bs with
    | nil => exact fun _ h => h
    | cons b bs ih => exact fun es hs => ih _ (fun e he => addStoreByte_of he hs)
  exact h bs [] (by simp)

theorem mem_lineEntries (e0 : StoreEnt) (bs : List StoreByte) (c : StoreByte) :
    (∃ e ∈ lineEntries e0 bs, c ∈ e.bytes) ↔ c ∈ bs := by
  unfold lineEntries
  have h : ∀ (bs : List StoreByte) (es : List StoreEnt), (∃ e ∈ bs.foldl (fun es b => addStoreByte e0 b es) es, c ∈ e.bytes) ↔
      c ∈ bs ∨ ∃ e ∈ es, c ∈ e.bytes := by
    intro bs
    induction bs with
    | nil => simp
    | cons b bs ih =>
      intro es
      rw [List.foldl_cons, ih, mem_addStoreByte, List.mem_cons]
      tauto
  simpa using h bs []

/-! ### The entries of one store -/

theorem storeEntries_of {w n now : Nat} {team : Option Nat} {rel : Bool} {qs : List Stored} {e : StoreEnt}
    (h : e ∈ storeEntries w team rel n now qs) : e.slot = w ∧ e.rel = rel := by
  unfold storeEntries at h
  rcases List.mem_append.1 h with h | h
  · rcases List.mem_append.1 h with h | h
    · obtain ⟨q, -, rfl⟩ := List.mem_map.1 h
      exact ⟨rfl, rfl⟩
    · exact lineEntries_of e h
  · exact lineEntries_of e h

/-- The entries hold exactly the bytes of the lanes. -/
theorem mem_storeEntries (w n now : Nat) (team : Option Nat) (rel : Bool) (qs : List Stored) (c : StoreByte) :
    (∃ e ∈ storeEntries w team rel n now qs, c ∈ e.bytes) ↔ ∃ q ∈ qs, c ∈ q.bytes := by
  unfold storeEntries
  extract_lets dev rest e0 sync plain
  have hd : (∃ e ∈ dev.map (fun q => { e0 with bytes := q.bytes, dev := some n }), c ∈ e.bytes) ↔ ∃ q ∈ dev, c ∈ q.bytes := by
    simp
  have hl : ∀ (e0 : StoreEnt) (ps : List Stored),
      (∃ e ∈ lineEntries e0 (ps.map (·.bytes)).flatten, c ∈ e.bytes) ↔ ∃ q ∈ ps, c ∈ q.bytes := by
    intro e0 ps
    rw [mem_lineEntries]
    simp
  have hq : ∀ q, q ∈ qs ↔ q ∈ dev ∨ q ∈ plain ∨ q ∈ sync := by
    intro q
    simp only [plain, sync, rest, List.mem_filter]
    have hs : q ∈ dev → q ∈ qs := List.mem_of_mem_filter
    by_cases h : q ∈ dev <;> cases leafSync q.lane.leaf <;> simp_all
  calc _ ↔ (∃ q ∈ dev, c ∈ q.bytes) ∨ (∃ q ∈ plain, c ∈ q.bytes) ∨ ∃ q ∈ sync, c ∈ q.bytes := by
        rw [← hd, ← hl e0 plain, ← hl { e0 with sync := true } sync]
        simp only [List.mem_append, or_and_right, exists_or, or_assoc]
    _ ↔ _ := by
        simp only [hq, or_and_right, exists_or]

/-! ### The bytes of one lane -/

theorem mem_laneBytes {l ea n : Nat} {en : Nat → Bool} {b : LaneByte} :
    b ∈ laneBytes l ea n en ↔ ∃ j, j < n ∧ en j = true ∧ b = { l := l, ea := (ea + j) % 2 ^ 64, k := j } := by
  simp only [laneBytes, List.mem_map, List.mem_filter, List.mem_range]
  exact ⟨fun ⟨j, ⟨h, he⟩, e⟩ => ⟨j, h, he, e.symm⟩, fun ⟨j, h, he, e⟩ => ⟨j, ⟨h, he⟩, e.symm⟩⟩

theorem mem_unmerged {x : Iss} {k : MemKind} {en : Nat → Nat → Bool} {b : LaneByte} :
    b ∈ x.unmerged k en ↔ b.l ∈ x.ex ∧ b.k < k.size x ∧ en b.l b.k = true ∧ b.ea = (k.ea x b.l + b.k) % 2 ^ 64 ∧
      b.ea ∉ (x.th b.l).ceded.map (·.1) := by
  have hc : (!(x.th b.l).ceded.any (fun c => c.1 == b.ea)) = true ↔ b.ea ∉ (x.th b.l).ceded.map (·.1) := by
    rw [Bool.not_eq_true', ← Bool.not_eq_true, List.any_eq_true, List.mem_map]
    simp only [beq_iff_eq]
  rw [Iss.unmerged, List.mem_filter, hc, List.mem_flatten]
  simp only [List.mem_map, exists_exists_and_eq_and, mem_laneBytes]
  constructor
  · rintro ⟨⟨l, hl, j, hj, he, rfl⟩, h⟩
    exact ⟨hl, hj, he, rfl, h⟩
  · rintro ⟨hl, hj, he, hea, h⟩
    exact ⟨⟨b.l, hl, b.k, hj, he, by rw [← hea]⟩, h⟩

/-- The bytes that a lane of a group that does not speculate stores, and those that it must. -/
theorem mem_storedBy {x : Iss} (hs : x.g.spec = false) {k : MemKind} {en : Nat → Nat → Bool} {q : Lane} (c : StoreByte) :
    c ∈ (x.storedBy k en q).bytes ↔ ∃ b, c = x.storeByte q b.k ∧
      if leafDevice q.leaf then b ∈ laneBytes q.l q.ea (k.size x) (en q.l)
      else b ∈ x.unmerged k en ∧ b.l = q.l ∧ ∀ d ∈ x.unmerged k en, b.l < d.l → d.ea ≠ b.ea := by
  have hm : ∀ b, b ∈ (mergeBytes (x.unmerged k en)).filter (fun b => b.l = q.l) ↔
      b ∈ x.unmerged k en ∧ b.l = q.l ∧ ∀ d ∈ x.unmerged k en, b.l < d.l → d.ea ≠ b.ea := by
    intro b
    have hc : (∀ d ∈ x.unmerged k en, d.ea = b.ea → d.l ≤ b.l) ↔ ∀ d ∈ x.unmerged k en, b.l < d.l → d.ea ≠ b.ea :=
      forall₂_congr (fun d _ => ⟨fun h hl he => absurd (h he) (not_le.2 hl), fun h he => not_lt.1 (fun hl => h hl he)⟩)
    rw [← hc]
    simp only [mergeBytes, List.mem_filter, decide_eq_true_eq, Bool.not_eq_true', List.any_eq_false, Bool.and_eq_true, beq_iff_eq,
      not_and', not_lt]
    tauto
  rw [Iss.storedBy]
  simp only [hs, Bool.false_eq_true, if_false, List.mem_map]
  constructor
  · rintro ⟨b, hb, rfl⟩
    refine ⟨b, rfl, ?_⟩
    by_cases hd : leafDevice q.leaf = true
    · rwa [if_pos hd] at hb ⊢
    · rw [if_neg hd] at hb ⊢
      exact (hm b).1 hb
  · rintro ⟨b, rfl, hb⟩
    refine ⟨b, ?_, rfl⟩
    split
    · rwa [if_pos ‹_›] at hb
    · rw [if_neg ‹_›] at hb
      exact (hm b).2 hb

theorem storesOf_entries {x : Iss} (hs : x.g.spec = false) {k : MemKind} {en : Nat → Nat → Bool} {qs : List Lane}
    (hq : ∀ q ∈ qs, q.l ∈ x.ex) (hea : ∀ q ∈ qs, q.ea = k.ea x q.l) (team : Option Nat) (n now : Nat) :
    StoresOf x k en qs (storeEntries x.g.slot team (x.f.mod.getLsbD 3) n now (qs.map (x.storedBy k en))) := by
  constructor
  · intro e he
    obtain ⟨h1, h2⟩ := storeEntries_of he
    refine ⟨h1, h2, fun c hc => ?_⟩
    obtain ⟨p, hp, hc⟩ := (mem_storeEntries _ _ _ _ _ _ c).1 ⟨e, he, hc⟩
    obtain ⟨q, hm, rfl⟩ := List.mem_map.1 hp
    obtain ⟨b, rfl, hb⟩ := (mem_storedBy hs c).1 hc
    refine ⟨q, hm, b.k, ?_⟩
    split at hb
    · obtain ⟨j, hj, he, rfl⟩ := mem_laneBytes.1 hb
      exact ⟨hj, he, rfl⟩
    · obtain ⟨hb, hl, -⟩ := hb
      obtain ⟨-, hj, he, -⟩ := mem_unmerged.1 hb
      exact ⟨hj, hl ▸ he, rfl⟩
  · intro q hm j hj he hhigh hced
    refine (mem_storeEntries _ _ _ _ _ _ _).2 ⟨x.storedBy k en q, List.mem_map_of_mem hm, (mem_storedBy hs _).2
      ⟨{ l := q.l, ea := (q.ea + j) % 2 ^ 64, k := j }, rfl, ?_⟩⟩
    split
    · exact mem_laneBytes.2 ⟨j, hj, he, rfl⟩
    · refine ⟨mem_unmerged.2 ⟨hq q hm, hj, he, by rw [hea q hm], hced⟩, rfl, fun d hd hl => ?_⟩
      obtain ⟨hdx, hdk, hde, hda, -⟩ := mem_unmerged.1 hd
      rw [hda]
      exact hhigh d.l hdx hl d.k hdk hde

/-! ### The queue -/

theorem alike_entryConflicts (s : State) (c : Nat) (e : StoreEnt) (sees : Nat → Nat → Bool) :
    Alike s (s.entryConflicts c e sees) := alike_fold _ _ (fun s _ => alike_conflicts s _ _ _) s

/-- Entries put into the queue of one weave. -/
theorem pushStores_frame (s : State) (c w : Nat) (es : List StoreEnt) :
    (∀ pa, (s.pushStores c w es).memByte pa = s.memByte pa) ∧
    (∀ c' w' l, ((s.pushStores c w es).thread c' w' l).plainly = (s.thread c' w' l).plainly) ∧
    ∀ c' w', ((s.pushStores c w es).weave c' w').storeq =
      if c' = c ∧ w' = w then (s.weave c w).storeq ++ es else (s.weave c' w').storeq := by
  have hb : ∀ pa, (s.pushStores c w es).memByte pa = s.memByte pa := fun pa =>
    memByte_foldl _ (fun s e => memByte_entryConflicts s c e _) es _ pa
  have ha : Alike (s.modWeave c w (fun x => { x with storeq := x.storeq ++ es })) (s.pushStores c w es) :=
    alike_fold es _ (fun s e => alike_entryConflicts s c e _) _
  refine ⟨hb, fun c' w' l => (ha.threads c' w' l).trans ?_, fun c' w' => (congrArg Weave.storeq (ha.tables c' w') :).trans ?_⟩
  · rw [State.thread, weave_modWeave_at]
    split
    · obtain ⟨rfl, rfl⟩ := ‹c' = c ∧ w' = w›
      rfl
    · rfl
  · change ((s.modWeave c w _).weave c' w').storeq = _
    rw [weave_modWeave_at]
    split <;> rfl

/-! ### The instruction -/

/-- The entries of the lanes that go on. -/
def Iss.entries (x : Iss) (s : State) (k : MemKind) (en : Nat → Nat → Bool) (qs : List Lane) : List StoreEnt :=
  storeEntries x.g.slot (s.weave x.g.core x.g.slot).team (x.f.mod.getLsbD 3) (k.size x) s.tick (qs.map (x.storedBy k en))

theorem entries_tables {s u : State} (x : Iss) (h : SameTables s u) (ht : u.tick = s.tick) (k : MemKind) (en : Nat → Nat → Bool)
    (qs : List Lane) : x.entries u k en qs = x.entries s k en qs := by
  have hteam : (u.weave x.g.core x.g.slot).team = (s.weave x.g.core x.g.slot).team := (congrArg Weave.team (h x.g.core x.g.slot) :)
  rw [Iss.entries, hteam, ht, Iss.entries]

/-- A store of a group that does not speculate, with room in the queue. -/
theorem store_room {x : Iss} {s : State} (hs : x.g.spec = false) {k : MemKind} {en : Nat → Nat → Bool} {qs : List Lane}
    (h : (s.weave x.g.core x.g.slot).queued.length + (x.entries s k en qs).length ≤ Config.storeQueue) :
    x.store s (x.f.mod.getLsbD 3) (k.size x) (qs.map (x.storedBy k en)) =
      some (s.pushStores x.g.core x.g.slot (x.entries s k en qs), qs.map (·.l)) := by
  have hl : (qs.map (x.storedBy k en)).map (fun q => q.lane.l) = qs.map (·.l) := by rw [List.map_map]; rfl
  unfold Iss.entries at h ⊢
  simp only [Iss.store, hs, Bool.false_eq_true, if_false, if_neg (not_lt.2 h), hl]

theorem stores_of {i : Instr} {k : MemKind} {en : Iss → Nat → Nat → Bool} (hx : ∀ s, exec i s = issue i (storeBody k en) s) :
    Stores i k en := by
  intro s x u qs hr hs ha hq hroom
  have he := ready_ex_nodup hr
  obtain ⟨hal, hup⟩ := access_upkeep he ha hq
  have htab : SameTables s u := fun c w =>
    (hal.tables c w).trans ((stands_around (advance_only s x.g x.words (ready_nodup hr))).2 c w)
  have hold : ∀ c w, (u.weave c w).storeq = (s.weave c w).storeq := fun c w => (congrArg Weave.storeq (htab c w) :)
  have hkeep : ∀ (v : State) c w, ((x.settled v).weave c w).storeq = (v.weave c w).storeq := fun v c w =>
    (congrArg Weave.storeq ((stands_around (keep_only x v he)).2 c w) :)
  have hent : x.entries u k (en x) qs = x.entries s k (en x) qs := entries_tables x htab hup.step k (en x) qs
  have hst := store_room (k := k) (en := en x) (qs := qs) hs (s := u) (by rw [hent, queued_eq htab]; exact hroom)
  have hbody : storeBody k en x (x.moved s) =
      .done (u.pushStores x.g.core x.g.slot (x.entries s k (en x) qs)) x.ex := by
    rw [storeBody, ha]
    dsimp only
    rw [hst, hent, hq]
    exact congrArg (Act.done · x.ex) (if_pos rfl)
  obtain ⟨hb, ht, hsq⟩ := pushStores_frame u x.g.core x.g.slot (x.entries s k (en x) qs)
  refine ⟨x.settled (u.pushStores x.g.core x.g.slot (x.entries s k (en x) qs)), x.entries s k (en x) qs, ?_, ?_,
    storesOf_entries hs (fun q hm => hq ▸ List.mem_map_of_mem (f := (·.l)) hm) (access_go he ha hq).2 _ _ _, ?_, fun c w hn => ?_⟩
  · rw [hx s, issue_go _ hr, show s.advance x.g x.words = x.moved s from rfl, hbody, finish_settled]
  · refine passed_settled hr (fun l a b => keeps_plainly) hb (fun c w l => ?_)
    rw [ite_self]
    exact (ht c w l).trans (hal.threads c w l)
  · rw [hkeep, hsq, if_pos ⟨rfl, rfl⟩, hold]
  · rw [hkeep, hsq, if_neg hn, hold]

/-- A lane whose effect leaves its place and its mode has gone past the word. -/
theorem Passed.past {s u t : State} {x : Iss} {eff : Nat → Thread → Thread} (h : Passed s u x Thread.plainly eff t)
    (hc : ∀ l t, (eff l t).ctl = t.ctl) (hm : ∀ l t, (eff l t).mode = t.mode) (l : Nat) (hl : l ∈ x.g.lanes) :
    (t.thread x.g.core x.g.slot l).ctl = (s.thread x.g.core x.g.slot l).ctl.next x.words ∧
      (t.thread x.g.core x.g.slot l).mode = .ready := by
  by_cases hx : l ∈ x.ex
  · have h := h.lanes l hx
    exact ⟨(congrArg Thread.ctl h :).trans (hc l _), (congrArg Thread.mode h :).trans (hm l _)⟩
  · have h := h.skipped l hl hx
    exact ⟨(congrArg Thread.ctl h :), (congrArg Thread.mode h :)⟩

/-- What stores completes (06 R181). -/
theorem store_completes {i : Instr} {k : MemKind} {en : Iss → Nat → Nat → Bool} (h : Stores i k en) :
    Completes i (fun x s => x.storeGoes k (en x) s) := by
  rintro s x hr ⟨hs, u, qs, ha, hq, hroom⟩
  have ht : SameTables s (x.moved s) := (stands_around (advance_only s x.g x.words (ready_nodup hr))).2
  rw [queued_eq ht] at hroom
  have he := entries_tables x ht rfl k (en x) qs
  unfold Iss.entries at he
  rw [he] at hroom
  obtain ⟨t, -, hx, hp, -⟩ := h s x u qs hr hs ha hq hroom
  exact ⟨t, hx, hp.past (fun _ _ => rfl) (fun _ _ => rfl)⟩

/-- Settles O19: the entries of the lines hold the bytes that the coalescer leaves to each lane. -/
theorem storesEnterTheQueue : Obligations.StoresEnterTheQueue :=
  have h0 := fun o => stores_of (i := .st o) (fun _ => rfl)
  have h1 := fun o => stores_of (i := .stx o) (fun _ => rfl)
  have h2 := fun o => stores_of (i := .stnt o) (fun _ => rfl)
  have h3 := fun o => stores_of (i := .stxnt o) (fun _ => rfl)
  have h4 := fun o => stores_of (i := .stm o) (fun _ => rfl)
  have h5 := fun o => stores_of (i := .stbe o) (fun _ => rfl)
  ⟨fun o => store_completes (h0 o), fun o => store_completes (h1 o), fun o => store_completes (h2 o),
    fun o => store_completes (h3 o), fun o => store_completes (h4 o), fun o => store_completes (h5 o), h0, h1, h2, h3, h4, h5⟩

end Sys2Proof.Machine
end

section
/-! SUPPORT. Prefetches (06 R186; 07 R250; 08 R282): what brings a copy leaves a core's other copies and holds where they
are. -/

namespace Sys2Proof.Machine

/-! ### Lines that a write waits for (07 R251) -/

theorem mem_of_tabFind {α : Type} {k : Nat} {v : α} {t : Tab α} (h : tabFind k t = some v) : (k, v) ∈ t := by
  induction t with
  | nil => cases h
  | cons e t ih =>
    obtain ⟨j, w⟩ := e
    rw [tabFind] at h
    split at h
    · subst_vars
      cases h
      exact List.mem_cons_self ..
    · exact List.mem_cons_of_mem _ (ih h)

/-- What the stores under way of every core tell, and of a core that holds none. -/
theorem any_tabSet (p : Core → Bool) (hp : p Core.init = false) (c : Nat) (k : Core) (t : Tab Core)
    (hk : p k = p (tabGet Core.init c t)) : (tabSet c k t).any (fun e => p e.2) = t.any (fun e => p e.2) := by
  induction t with
  | nil => simpa [tabSet, tabGet, tabFind, hp] using hk
  | cons e t ih =>
    obtain ⟨j, w⟩ := e
    by_cases hj : j = c
    · subst hj
      have : p k = p w := by simpa [tabGet, tabFind] using hk
      simp [tabSet, this]
    · have hk' : p k = p (tabGet Core.init c t) := by simpa [tabGet, tabFind, hj] using hk
      by_cases hc : c < j
      · have hin : p k = true → t.any (fun e => p e.2) = true := by
          intro h
          rw [hk', tabGet] at h
          cases hf : tabFind c t with
          | none => rw [hf, Option.getD_none, hp] at h; exact absurd h Bool.false_ne_true
          | some q =>
            rw [hf] at h
            exact List.any_eq_true.2 ⟨(c, q), mem_of_tabFind hf, h⟩
        rw [tabSet, if_pos hc, List.any_cons, List.any_cons]
        cases hpk : p k with
        | false => rfl
        | true => rw [hin hpk]; simp
      · rw [tabSet, if_neg hc, if_neg hj, List.any_cons, List.any_cons, ih hk']

/-- A held store to the line stands in the core. -/
def Core.holdsBack (k : Core) (line : Nat) : Bool :=
  k.pending.any (fun e => e.held && e.bytes.any (fun b => match b.loc with
    | .mem pa => pa / 128 == line
    | .spad _ _ => false))

theorem lineWaits_eq (s : State) (line : Nat) : s.lineWaits line =
    (s.writeWaits.any (fun w => w.1 == line && decide (s.time < w.2)) || s.cores.any (fun e => e.2.holdsBack line)) := rfl

theorem lineWaits_modCore (s : State) (c : Nat) (g : Core → Core) (h : (g (s.core c)).pending = (s.core c).pending) (line : Nat) :
    (s.modCore c g).lineWaits line = s.lineWaits line := by
  rw [lineWaits_eq, lineWaits_eq]
  congr 1
  exact any_tabSet (fun k => k.holdsBack line) rfl c (g (s.core c)) s.cores (by
    show (g (s.core c)).holdsBack line = (s.core c).holdsBack line
    rw [Core.holdsBack, h, Core.holdsBack])

theorem lineWaits_modThreads (s : State) (c w : Nat) (ls : List Nat) (f : Nat → Thread → Thread) (line : Nat) :
    (s.modThreads c w ls f).lineWaits line = s.lineWaits line :=
  lineWaits_modCore s c _ rfl line

theorem lineWaits_conflicts (s : State) (ls : List Loc) (b : Nat × Nat × Nat) (sees : Nat → Nat → Bool) (line : Nat) :
    (s.conflicts ls b sees).lineWaits line = s.lineWaits line := by
  rw [lineWaits_eq, lineWaits_eq]
  congr 1
  rw [cores_conflicts, List.any_map]
  rfl

/-! ### Copies that a core holds -/

/-- A live hold of the core on the line (07 R250). -/
def State.heldBy (s : State) (core line : Nat) : Prop :=
  ∃ h ∈ s.holds, h.line = line ∧ h.core = core ∧ h.live s.time = true

/-- A copy of the half-line at the core (08 R282). -/
def State.copyOf (s : State) (core die half : Nat) : Prop :=
  ∃ e, (s.die die).syncs.find? (fun e => e.half = half) = some e ∧ (e.full || e.sharers.contains core) = true

/-- From `s` to `u` copies have come to cores, and none has gone. -/
structure Copied (s u : State) : Prop where
  frame : { u with cores := s.cores, dies := s.dies, holds := s.holds, free := s.free } = s
  sees : SeesAs s u
  alike : Alike s u
  waits : ∀ n, u.lineWaits n = s.lineWaits n
  held : ∀ c n, s.heldBy c n → u.heldBy c n
  copies : ∀ c d h, s.copyOf c d h → u.copyOf c d h

theorem Copied.rfl' (s : State) : Copied s s :=
  ⟨rfl, .rfl' s, (Quiet.rfl' s).alike, fun _ => rfl, fun _ _ => id, fun _ _ _ => id⟩

theorem Copied.trans {s t u : State} (h : Copied s t) (k : Copied t u) : Copied s u where
  frame := by
    have := congrArg (fun v : State => { v with cores := s.cores, dies := s.dies, holds := s.holds, free := s.free }) k.frame
    exact this.trans h.frame
  sees := h.sees.trans k.sees
  alike := h.alike.trans k.alike
  waits := fun n => (k.waits n).trans (h.waits n)
  held := fun c n hs => k.held c n (h.held c n hs)
  copies := fun c d n hs => k.copies c d n (h.copies c d n hs)

/-! ### Holds -/

theorem copied_holdLine (s : State) (c n : Nat) : Copied s (s.holdLine c n) := by
  unfold State.holdLine
  split
  · exact .rfl' s
  · rename_i hn
    rw [Bool.or_eq_true, not_or] at hn
    refine ⟨rfl, seesAs_of rfl rfl rfl rfl rfl rfl, Quiet.alike (fun _ _ => rfl), fun _ => rfl, fun c' n' hs => ?_,
      fun _ _ _ => id⟩
    obtain ⟨h, hm, hl, hc, hlive⟩ := hs
    refine ⟨h, List.mem_append_left _ (List.mem_filter.2 ⟨hm, ?_⟩), hl, hc, hlive⟩
    by_contra hb
    have hb : h.line = n ∧ h.core = c := by simpa using hb
    exact hn.1 (List.any_eq_true.2 ⟨h, hm, by simp [hb, hlive]⟩)

/-- A hold just granted has not expired (07 R250, 08 R251). -/
theorem live_fresh (line core now : Nat) (b : BitVec 3) :
    Hold.live { line := line, core := core, expiry := (now + holdLength b) % 2 ^ 40 } now = true := by
  have h : 256 ≤ holdLength b ∧ holdLength b ≤ 8192 := by
    have hb : b.toNat % 6 < 6 := Nat.mod_lt _ (by omega)
    unfold holdLength
    interval_cases b.toNat % 6 <;> omega
  simp only [Hold.live, decide_eq_true_eq]
  omega

theorem holdLine_holds (s : State) (c n : Nat) : (s.holdLine c n).lineWaits n = true ∨ (s.holdLine c n).heldBy c n := by
  unfold State.holdLine
  split
  · rename_i h
    rcases Bool.or_eq_true_iff.1 h with h | h
    · obtain ⟨q, hm, hq⟩ := List.any_eq_true.1 h
      simp only [Bool.and_eq_true, decide_eq_true_eq] at hq
      exact .inr ⟨q, hm, hq.1.1, hq.1.2, hq.2⟩
    · exact .inl h
  · exact .inr ⟨_, List.mem_append_right _ (List.mem_singleton_self _), rfl, rfl, live_fresh _ _ _ _⟩

theorem copied_grantHold (s : State) (c n : Nat) : Copied s (s.grantHold c n) := by
  unfold State.grantHold
  dsimp only
  split
  · exact copied_holdLine s _ _
  · exact (copied_holdLine s _ _).trans (copied_holdLine _ _ _)

theorem grantHold_holds (s : State) (c n : Nat) : (s.grantHold c n).lineWaits n = true ∨ (s.grantHold c n).heldBy c n :=
  holdLine_holds _ _ _

/-- A hold touches no core and no die. -/
theorem grantHold_frame (s : State) (c n : Nat) : { s.grantHold c n with holds := s.holds, free := s.free } = s := by
  have h : ∀ (u : State) c n, { u.holdLine c n with holds := u.holds, free := u.free } = u := by
    intro u c n
    unfold State.holdLine
    split <;> rfl
  unfold State.grantHold
  dsimp only
  split
  · exact h s c n
  · exact (congrArg (fun u : State => { u with holds := s.holds, free := s.free }) (h (s.holdLine _ n) c n)).trans (h s _ n)

/-! ### Copies of half-lines -/

theorem share_keeps (e : SyncEnt) (c k : Nat) (h : (e.full || e.sharers.contains k) = true) :
    ((e.share c).full || (e.share c).sharers.contains k) = true := by
  unfold SyncEnt.share
  split
  · exact h
  · split
    · rcases Bool.or_eq_true_iff.1 h with h | h
      · simp [h]
      · simp [List.contains_iff_mem.1 h]
    · rfl

theorem share_shares (e : SyncEnt) (c : Nat) : ((e.share c).full || (e.share c).sharers.contains c) = true := by
  unfold SyncEnt.share
  split
  · assumption
  · split
    · simp
    · rfl

theorem share_half (e : SyncEnt) (c : Nat) : (e.share c).half = e.half := by
  unfold SyncEnt.share
  split
  · rfl
  · split <;> rfl

/-- The entries of a directory once an entry has been put in the place of those of its half-line. -/
def putSync (new : SyncEnt) (es : List SyncEnt) : List SyncEnt :=
  if es.any (fun e => e.half = new.half) then es.map (fun e => if e.half = new.half then new else e) else es ++ [new]

theorem find_putSync (new : SyncEnt) (es : List SyncEnt) (h : Nat) :
    (putSync new es).find? (fun e => e.half = h) = if h = new.half then some new else es.find? (fun e => e.half = h) := by
  have hmap : (es.map (fun e => if e.half = new.half then new else e)).find? (fun e => e.half = h) =
      if h = new.half then (if es.any (fun e => e.half = new.half) then some new else none)
      else es.find? (fun e => e.half = h) := by
    induction es with
    | nil => simp
    | cons a t ih =>
      rw [List.map_cons, List.find?_cons, ih, List.any_cons, List.find?_cons]
      by_cases ha : a.half = new.half
      · by_cases hh : h = new.half
        · simp [ha, hh]
        · simp [ha, hh, Ne.symm hh]
      · by_cases hh : h = new.half
        · simp [ha, hh]
        · simp [ha, hh]
  unfold putSync
  split
  · rename_i hany
    rw [hmap, if_pos hany]
  · rename_i hany
    rw [List.find?_append]
    by_cases hh : h = new.half
    · have : es.find? (fun e => e.half = h) = none := by
        rw [List.find?_eq_none]
        intro e he hc
        exact hany (List.any_eq_true.2 ⟨e, he, by simpa [← hh] using hc⟩)
      subst hh
      rw [this, if_pos rfl]
      simp
    · simp [hh, Ne.symm hh]

/-- The entry that a touch leaves for its half-line. -/
def State.syncNew (s : State) (pa c : Nat) (who : Option Nat) : SyncEnt :=
  SyncEnt.share (((s.die (homeDie pa)).syncs.find? (fun e => e.half = pa / 64)).getD
    { half := pa / 64, overflow := s.syncFull (homeDie pa) who, team := who }) c

theorem syncNew_half (s : State) (pa c : Nat) (who : Option Nat) : (s.syncNew pa c who).half = pa / 64 := by
  rw [State.syncNew, share_half]
  cases hf : (s.die (homeDie pa)).syncs.find? (fun e => e.half = pa / 64) with
  | none => rfl
  | some e => simpa using List.find?_some hf

/-- A touch changes one directory, and the conflicts of cores (08 R282). -/
theorem syncTouch_cases (s : State) (pa c : Nat) (who : Option Nat) :
    let u := s.modDie (homeDie pa) (fun d => { d with syncs := putSync (s.syncNew pa c who) d.syncs })
    s.syncTouch pa (some c) who = u ∨ ∃ ls b sees, s.syncTouch pa (some c) who = u.conflicts ls b sees := by
  have hput : ∀ es, putSync (s.syncNew pa c who) es = if es.any (fun e => e.half = pa / 64) then
      es.map (fun e => if e.half = pa / 64 then s.syncNew pa c who else e) else es ++ [s.syncNew pa c who] := fun es => by
    rw [putSync, syncNew_half]
  intro u
  have hu : u = s.modDie (homeDie pa) (fun d => { d with syncs := putSync (s.syncNew pa c who) d.syncs }) := rfl
  simp only [hput] at hu
  rw [hu]
  unfold State.syncTouch
  dsimp only
  split
  · exact .inr ⟨_, _, _, rfl⟩
  · exact .inl rfl

theorem syncTouch_frame (s : State) (pa c : Nat) (who : Option Nat) :
    { s.syncTouch pa (some c) who with cores := s.cores, dies := s.dies } = s := by
  rcases syncTouch_cases s pa c who with h | ⟨ls, b, sees, h⟩ <;> rw [h] <;> rfl

theorem syncTouch_waits (s : State) (pa c : Nat) (who : Option Nat) (n : Nat) :
    (s.syncTouch pa (some c) who).lineWaits n = s.lineWaits n := by
  rcases syncTouch_cases s pa c who with h | ⟨ls, b, sees, h⟩
  · rw [h]; rfl
  · rw [h, lineWaits_conflicts]; rfl

theorem syncTouch_syncs (s : State) (pa c : Nat) (who : Option Nat) (d : Nat) :
    ((s.syncTouch pa (some c) who).die d).syncs =
      if d = homeDie pa then putSync (s.syncNew pa c who) (s.die (homeDie pa)).syncs else (s.die d).syncs := by
  have hm : ((s.modDie (homeDie pa) (fun d => { d with syncs := putSync (s.syncNew pa c who) d.syncs })).die d).syncs =
      if d = homeDie pa then putSync (s.syncNew pa c who) (s.die (homeDie pa)).syncs else (s.die d).syncs := by
    rw [State.die, State.modDie, tabGet_set]
    split <;> rfl
  rcases syncTouch_cases s pa c who with h | ⟨ls, b, sees, h⟩
  · rw [h]; exact hm
  · rw [h]; exact hm

theorem copied_syncTouch (s : State) (pa c : Nat) (who : Option Nat) : Copied s (s.syncTouch pa (some c) who) where
  frame := by
    have := congrArg (fun v : State => { v with holds := s.holds, free := s.free }) (syncTouch_frame s pa c who)
    exact this
  sees := seesAs_syncTouch s pa _ _
  alike := alike_syncTouch s pa _ _
  waits := syncTouch_waits s pa c who
  held := fun k n hs => by
    have hh : (s.syncTouch pa (some c) who).holds = s.holds := (congrArg State.holds (syncTouch_frame s pa c who) :)
    have ht : (s.syncTouch pa (some c) who).time = s.time := (congrArg State.time (syncTouch_frame s pa c who) :)
    rw [State.heldBy, hh, ht]
    exact hs
  copies := fun k d h hs => by
    obtain ⟨e, he, hk⟩ := hs
    rw [State.copyOf, syncTouch_syncs]
    by_cases hd : d = homeDie pa
    · subst hd
      rw [if_pos rfl, find_putSync, syncNew_half]
      by_cases hh : h = pa / 64
      · subst hh
        refine ⟨_, if_pos rfl, ?_⟩
        rw [State.syncNew, he]
        exact share_keeps e c k hk
      · exact ⟨e, (if_neg hh).trans he, hk⟩
    · rw [if_neg hd]
      exact ⟨e, he, hk⟩

theorem syncTouch_copies (s : State) (pa c : Nat) (who : Option Nat) :
    (s.syncTouch pa (some c) who).copyOf c (homeDie pa) (pa / 64) := by
  refine ⟨s.syncNew pa c who, ?_, share_shares _ c⟩
  rw [syncTouch_syncs, if_pos rfl, find_putSync, syncNew_half, if_pos rfl]

/-! ### The lines of a prefetch -/

/-- The line is there: its half-lines shared, or a hold on it, but for a line that a write waits for (06 R186). -/
def State.brought (u : State) (c : Nat) (n : Nat × Bool) : Prop :=
  if n.2 then ∀ h ∈ [2 * n.1, 2 * n.1 + 1], u.copyOf c (homeDie (n.1 * 128)) h else u.lineWaits n.1 = true ∨ u.heldBy c n.1

theorem Copied.brought {s u : State} (h : Copied s u) {c : Nat} {n : Nat × Bool} (hs : s.brought c n) : u.brought c n := by
  unfold State.brought at hs ⊢
  split
  · rw [if_pos ‹_›] at hs
    exact fun k hk => h.copies c _ k (hs k hk)
  · rw [if_neg ‹_›] at hs
    exact hs.imp (fun hw => (h.waits n.1).trans hw) (h.held c n.1)

theorem copied_prefetchIn (s : State) (c : Nat) (team : Option Nat) (n : Nat × Bool) : Copied s (s.prefetchIn c team n) := by
  unfold State.prefetchIn
  split
  · exact (copied_syncTouch s _ c team).trans (copied_syncTouch _ _ c team)
  · exact copied_grantHold s c n.1

theorem prefetchIn_brings (s : State) (c : Nat) (team : Option Nat) (n : Nat × Bool) : (s.prefetchIn c team n).brought c n := by
  unfold State.prefetchIn State.brought
  split
  · have h1 := (copied_syncTouch (s.syncTouch (n.1 * 128) (some c) team) (n.1 * 128 + 64) c team).copies c _ _
      (syncTouch_copies s (n.1 * 128) c team)
    have h2 := syncTouch_copies (s.syncTouch (n.1 * 128) (some c) team) (n.1 * 128 + 64) c team
    have hd : homeDie (n.1 * 128 + 64) = homeDie (n.1 * 128) := by
      unfold homeDie homeSlice
      rw [show (n.1 * 128 + 64) / 128 = n.1 * 128 / 128 by omega]
    rw [show n.1 * 128 / 64 = 2 * n.1 by omega] at h1
    rw [hd, show (n.1 * 128 + 64) / 64 = 2 * n.1 + 1 by omega] at h2
    simpa using ⟨h1, h2⟩
  · exact grantHold_holds s c n.1

theorem prefetch_all (s : State) (c : Nat) (team : Option Nat) (ls : List (Nat × Bool)) :
    Copied s (ls.foldl (fun u n => u.prefetchIn c team n) s) ∧
      ∀ n ∈ ls, (ls.foldl (fun u n => u.prefetchIn c team n) s).brought c n := by
  induction ls generalizing s with
  | nil => exact ⟨.rfl' s, by simp⟩
  | cons a t ih =>
    obtain ⟨h1, h2⟩ := ih (s.prefetchIn c team a)
    refine ⟨(copied_prefetchIn s c team a).trans h1, List.forall_mem_cons.2 ⟨?_, h2⟩⟩
    exact h1.brought (prefetchIn_brings s c team a)

/-- Lines of no page of the synchronisation class touch no core and no die. -/
theorem prefetch_plain (s : State) (c : Nat) (team : Option Nat) (ls : List (Nat × Bool)) (h : ∀ n ∈ ls, n.2 = false) :
    { ls.foldl (fun u n => u.prefetchIn c team n) s with holds := s.holds, free := s.free } = s := by
  induction ls generalizing s with
  | nil => rfl
  | cons a t ih =>
    rw [List.forall_mem_cons] at h
    have ha : s.prefetchIn c team a = s.grantHold c a.1 := by rw [State.prefetchIn, h.1]; rfl
    have := congrArg (fun u : State => { u with holds := s.holds, free := s.free }) (ih (s.prefetchIn c team a) h.2)
    exact this.trans (by rw [ha]; exact grantHold_frame s c a.1)

/-! ### The instruction -/

/-- The lines that a prefetch brings. -/
def Iss.prefetches (x : Iss) (s : State) (indexed : Bool) : List (Nat × Bool) :=
  let k : MemKind := { indexed := indexed }
  let r := s.checkList x.agent (k.acc x false) (x.ex.map (k.ea x))
  if x.f.mod.getLsbD 3 then [] else r.2.filterMap (prefetchLine r.1)

theorem prefetchBody_eq (indexed : Bool) (x : Iss) (s : State) : prefetchBody indexed x s =
    .done ((x.prefetches s indexed).foldl (fun u n => u.prefetchIn x.g.core x.agent.team n) s) x.ex := by
  unfold prefetchBody Iss.prefetches
  dsimp only
  split <;> rfl

theorem lineWaits_settled (x : Iss) (s : State) (n : Nat) : (x.settled s).lineWaits n = s.lineWaits n := by
  unfold Iss.settled Iss.keep
  split
  · rfl
  · exact lineWaits_modThreads s _ _ _ _ n

/-- keep changes threads alone. -/
theorem settled_frame (x : Iss) (s : State) : { x.settled s with cores := s.cores } = s := by
  unfold Iss.settled Iss.keep
  split <;> rfl

theorem prefetch_of {i : Instr} {indexed : Bool} (hx : ∀ s, exec i s = issue i (prefetchBody indexed) s) {s : State} {x : Iss}
    (hr : Ready i s x) : ∃ t, exec i s = .next t ∧ Passed s s x Thread.plainly (fun _ u => u) t ∧ SameTables s t ∧
      ((∀ n ∈ x.prefetches (x.moved s) indexed, n.2 = false) → Stands s x (fun _ => {}) t ∧ t.dies = s.dies) ∧
      { t with cores := s.cores, dies := s.dies, holds := s.holds, free := s.free } = s ∧
      (x.prefetches (x.moved s) indexed = [] → t.holds = s.holds ∧ t.free = s.free) ∧
      ∀ n ∈ x.prefetches (x.moved s) indexed, t.brought x.g.core n := by
  obtain ⟨hc, hb⟩ := prefetch_all (x.moved s) x.g.core x.agent.team (x.prefetches (x.moved s) indexed)
  have hp := prefetch_plain (x.moved s) x.g.core x.agent.team (x.prefetches (x.moved s) indexed)
  have hnil : x.prefetches (x.moved s) indexed = [] → (x.prefetches (x.moved s) indexed).foldl
      (fun u n => u.prefetchIn x.g.core x.agent.team n) (x.moved s) = x.moved s := fun h => by rw [h]; rfl
  have hbody : exec i s = .next (x.settled ((x.prefetches (x.moved s) indexed).foldl
      (fun u n => u.prefetchIn x.g.core x.agent.team n) (x.moved s))) := by
    rw [hx s, issue_go _ hr, prefetchBody_eq, finish_settled]; rfl
  generalize (x.prefetches (x.moved s) indexed).foldl (fun u n => u.prefetchIn x.g.core x.agent.team n) (x.moved s) = u at *
  have hu := settled_frame x u
  refine ⟨_, hbody, ?_, ?_, fun h => ⟨?_, ?_⟩, ?_, fun h => ?_, fun n hn => ?_⟩
  · refine passed_settled hr (fun l a b => keeps_plainly) (fun pa => hc.sees.bytes pa) (fun c w l => ?_)
    rw [ite_self]
    exact hc.alike.threads c w l
  · exact sameTables_settled hr hc.alike.tables
  · have h := hp h
    exact stands_unit (ready_nodup hr) (ready_ex_nodup hr) (ready_sub hr)
      (sameWeaves_of (congrArg State.cores h :) (congrArg State.mem h :) (congrArg State.lcache h :))
  · exact (congrArg State.dies hu :).trans (congrArg State.dies (hp h) :)
  · have h1 := congrArg (fun v : State => { v with cores := s.cores, dies := s.dies, holds := s.holds, free := s.free }) hu
    have h2 := congrArg (fun v : State => { v with cores := s.cores }) hc.frame
    exact h1.trans h2
  · have h := hnil h
    exact ⟨(congrArg State.holds hu :).trans (congrArg State.holds h :), (congrArg State.free hu :).trans (congrArg State.free h :)⟩
  · have hn := hb n hn
    unfold State.brought at hn ⊢
    have hd : (x.settled u).dies = u.dies := (congrArg State.dies hu :)
    have hh : (x.settled u).holds = u.holds := (congrArg State.holds hu :)
    have ht : (x.settled u).time = u.time := (congrArg State.time hu :)
    simp only [State.copyOf, State.heldBy, State.die, hd, hh, ht, lineWaits_settled] at hn ⊢
    exact hn

/-- Settles O21: a copy that comes changes no other copy, no hold and no thread but for its speculation. -/
theorem prefetches : Obligations.Prefetches :=
  ⟨fun o => computes_none (execThpf.eq_def o), fun o => computes_none (execSpecwait.eq_def o),
    fun _ _ _ hr => prefetch_of (fun _ => rfl) hr, fun _ _ _ hr => prefetch_of (fun _ => rfl) hr⟩

end Sys2Proof.Machine
end

section
/-! SUPPORT. Probes, shootdown and poisoning (06 R206 to R209). -/

namespace Sys2Proof.Machine

/-! ### tlbp -/

theorem tlbp_computes (o : MForm) (s : State) (x : Iss) (hr : Ready (.tlbp o) s x)
    (hw : ∀ l ∈ x.ex, (x.moved s).walk (x.b l % 2 ^ 16) (x.ea false 1 l) ≠ .wait) :
    ∃ t, exec (.tlbp o) s = .next t ∧ Computed s x (toReg (fun x l => x.old.probe (x.b l % 2 ^ 16) (x.ea false 1 l)) x) t := by
  have hb : tlbpBody x (x.moved s) = perLane (fun x l => { d := some (x.old.probe (x.b l % 2 ^ 16) (x.ea false 1 l)) }) x (x.moved s) := by
    refine if_neg (fun h => ?_)
    obtain ⟨l, hl, he⟩ := List.any_eq_true.1 h
    exact hw l hl (by simpa using he)
  refine ⟨_, (show exec (.tlbp o) s = issue (.tlbp o) tlbpBody s from rfl).trans (issue_go _ hr), ?_⟩
  rw [show s.advance x.g x.words = x.moved s from rfl, hb]
  exact computed_done _ (ready_nodup hr) (ready_ex_nodup hr) (ready_sub hr)
    (fun l _ t => put_effect x t { d := some (x.old.probe (x.b l % 2 ^ 16) (x.ea false 1 l)) })

theorem tlbp_waits (o : MForm) : Waits (.tlbp o) (fun x s => ∃ l ∈ x.ex, s.walk (x.b l % 2 ^ 16) (x.ea false 1 l) = .wait) :=
  waits_of (body := tlbpBody) (fun _ => rfl) (fun _ _ ⟨l, hl, he⟩ => if_pos (List.any_eq_true.2 ⟨l, hl, by simpa using he⟩))

/-! ### tlbi -/

/-- What a tlbi does to the entries of a core. -/
def Core.shot (core : Nat) (pkg : Bool) (ctx va size c : Nat) (k : Core) : Core :=
  if inScope pkg core c then
    { k with tlb := k.tlb.map (fun e => if e.hit ctx va size then
      { e with draining := true, mark := (core, pkg) :: e.mark } else e) }
  else k

theorem shoot_cores (s : State) (core : Nat) (pkg : Bool) (ctx va size : Nat) :
    (s.shoot core pkg ctx va size).cores = s.cores.map (fun e => (e.1, e.2.shot core pkg ctx va size e.1)) := by
  refine List.map_congr_left (fun e _ => ?_)
  unfold Core.shot
  split <;> rfl

theorem quiet_shoot (s : State) (core : Nat) (pkg : Bool) (ctx va size : Nat) : Quiet s (s.shoot core pkg ctx va size) := by
  intro c w
  have hw : ∀ k : Core, (k.shot core pkg ctx va size c).weaves = k.weaves := fun k => by
    unfold Core.shot
    split <;> rfl
  unfold State.weave State.core
  rw [shoot_cores]
  rcases tabGet_map Core.init c (fun c k => k.shot core pkg ctx va size c) s.cores with h | h <;> rw [h]
  rw [Core.weave, hw]
  rfl

theorem tlbi_shoots (o : MForm) (s : State) (x : Iss) (u : State) (qs : List Lane) (hr : Ready (.tlbi o) s x)
    (ha : x.access (x.moved s) { routes := false, reach := false } (x.ea false 1) = .go u qs) (hq : qs.map (·.l) = x.ex) :
    ∃ t, t = x.settled (qs.foldl (fun s q => s.shoot x.g.core x.pkgScope (x.d q.l % 2 ^ 16) q.ea (x.f.b.toNat % 4)) u) ∧
      exec (.tlbi o) s = .next t ∧ Passed s u x Thread.plainly (fun _ t => t) t ∧ SameTables s t := by
  obtain ⟨hal, -⟩ := access_upkeep (ready_ex_nodup hr) ha hq
  have hb : tlbiBody x (x.moved s) = .done (qs.foldl (fun s q =>
      s.shoot x.g.core x.pkgScope (x.d q.l % 2 ^ 16) q.ea (x.f.b.toNat % 4)) u) x.ex := by
    rw [tlbiBody, ha]
    dsimp only
    rw [hq]
  have hs : ∀ v : State, Quiet v (qs.foldl (fun s q => s.shoot x.g.core x.pkgScope (x.d q.l % 2 ^ 16) q.ea (x.f.b.toNat % 4)) v) :=
    quiet_fold qs _ (fun v q => quiet_shoot v _ _ _ _ _)
  have hm : ∀ (v : State) pa, (qs.foldl (fun s q => s.shoot x.g.core x.pkgScope (x.d q.l % 2 ^ 16) q.ea (x.f.b.toNat % 4)) v).memByte pa =
      v.memByte pa := fun v => memByte_foldl (fun (s : State) (q : Lane) =>
      s.shoot x.g.core x.pkgScope (x.d q.l % 2 ^ 16) q.ea (x.f.b.toNat % 4)) (fun _ _ _ => rfl) qs v
  refine ⟨_, rfl, ?_, passed_settled hr (fun l a b => keeps_plainly) (hm u) (fun c w l => ?_),
    sameTables_settled hr (hal.trans (hs u).alike).tables⟩
  · rw [show exec (.tlbi o) s = issue (.tlbi o) tlbiBody s from rfl, issue_go _ hr,
      show s.advance x.g x.words = x.moved s from rfl, hb, finish_settled]
  · rw [ite_self]
    exact (hal.trans (hs u).alike).threads c w l

theorem tlbi_traps (o : MForm) (s : State) (x : Iss) (u : State) (c d : Nat) (ls : List Nat) (hr : Ready (.tlbi o) s x)
    (ha : x.access (x.moved s) { routes := false, reach := false } (x.ea false 1) = .stop (.trap u [] c d ls)) (hc : x.canTrap u) :
    exec (.tlbi o) s = .next ((x.unrun u x.g.lanes).trapEntry x.g.core x.g.slot x.g.lanes ls c d x.g.pc) := by
  have hb : tlbiBody x (x.moved s) = .trap u [] c d ls := by rw [tlbiBody, ha]
  rw [show exec (.tlbi o) s = issue (.tlbi o) tlbiBody s from rfl, issue_go _ hr,
    show s.advance x.g x.words = x.moved s from rfl, hb, done_back _ _ _ _ _ hc]

theorem shoot_marks (s : State) (core : Nat) (pkg : Bool) (ctx va size c : Nat) (k : Core) (h : tabFind c s.cores = some k) :
    tabFind c (s.shoot core pkg ctx va size).cores =
      some { k with tlb := k.tlb.map (fun e =>
        if (pkg = true ∨ c / 36 = core / 36) ∧ (e.ctx = ctx ∨ e.leaf.getLsbD 10 = true) ∧
            (size = 3 ∨ e.level = size ∧ va % 2 ^ 57 / 2 ^ pageBits size = e.va % 2 ^ 57 / 2 ^ pageBits size) then
          { e with draining := true, mark := (core, pkg) :: e.mark } else e) } := by
  have hhit : ∀ e : TlbEnt, e.hit ctx va size = true ↔ (e.ctx = ctx ∨ e.leaf.getLsbD 10 = true) ∧
      (size = 3 ∨ e.level = size ∧ va % 2 ^ 57 / 2 ^ pageBits size = e.va % 2 ^ 57 / 2 ^ pageBits size) := by
    intro e
    have hbit : bitAt e.leaf.toNat 10 = e.leaf.getLsbD 10 := by
      rw [bitAt, BitVec.getLsbD, Nat.testBit_eq_decide_div_mod_eq]
      rfl
    simp only [TlbEnt.hit, Bool.and_eq_true, Bool.or_eq_true, beq_iff_eq, hbit]
    refine and_congr_right (fun _ => or_congr_right (and_congr_right (fun hl => by rw [hl])))
  have hscope : inScope pkg core c = true ↔ pkg = true ∨ c / 36 = core / 36 := by
    simp [inScope, dieOf]
  rw [shoot_cores, tabFind_map (Core.shot core pkg ctx va size) c s.cores, h, Option.map_some, Core.shot]
  by_cases hs : inScope pkg core c = true
  · rw [if_pos hs]
    simp only [hhit, hscope.1 hs, true_and]
  · rw [if_neg hs]
    have hn : ¬ (pkg = true ∨ c / 36 = core / 36) := fun h => hs (hscope.2 h)
    simp only [hn, false_and, if_false, List.map_id']

theorem check_noncanonical (s : State) (a : Agent) (acc : Acc) {e : Nat} (h : canonical e = false) :
    s.check a acc e = (s, .bad 1 trapProt 1) := by
  rw [State.check, h]
  rfl

theorem checkList_noncanonical (s : State) (a : Agent) (acc : Acc) (es : List Nat) (h : ∀ e ∈ es, canonical e = false) :
    s.checkList a acc es = (s, es.map (fun _ => .bad 1 trapProt 1)) := by
  induction es with
  | nil => rfl
  | cons e t ih =>
    rw [List.forall_mem_cons] at h
    rw [State.checkList, check_noncanonical s a acc h.1, ih h.2]
    rfl

/-- An access none of whose addresses is canonical traps in every lane (06 R188). -/
theorem access_noncanonical {x : Iss} {s : State} {acc : Acc} {ea : Nat → Nat} (hne : x.ex ≠ [])
    (hp : s.atomPending x.g.core x.g.slot x.ex = false) (h : ∀ l ∈ x.ex, canonical (ea l) = false ∧ x.onWay l (ea l) = none) :
    x.access s acc ea = .stop (.trap s [] 8 1 x.ex) := by
  have hc := checkList_noncanonical s x.agent acc (x.ex.map ea) (by simpa using fun l hl => (h l hl).1)
  have hz : (x.ex.zip ((x.ex.map ea).map (fun _ => (.bad 1 trapProt 1 : Chk)))).map (fun c => (c.1, ea c.1, c.2)) =
      x.ex.map (fun l => (l, ea l, .bad 1 trapProt 1)) := by
    have h := List.zip_map' (f := fun l : Nat => l) (g := fun _ => (.bad 1 trapProt 1 : Chk)) (l := x.ex)
    rw [List.map_id'] at h
    rw [List.map_map, show (fun _ : Nat => (.bad 1 trapProt 1 : Chk)) ∘ ea = fun _ => .bad 1 trapProt 1 from rfl, h, List.map_map]
    rfl
  have ha : (x.answers s (x.ex.map (fun l => (l, ea l, .bad 1 trapProt 1)))).map (fun c => (c.1, c.2.2)) =
      x.ex.map (fun l => (l, .bad 1 trapProt 1)) := by
    rw [Iss.answers, List.map_map, List.map_map]
    exact List.map_congr_left (fun l hl => by simp only [Function.comp_apply, (h l hl).2]; rfl)
  obtain ⟨l, t, he⟩ := List.exists_cons_of_ne_nil hne
  have hpick : pickTrap (x.ex.map (fun l => (l, (.bad 1 trapProt 1 : Chk)))) = some (8, 1, x.ex) := by
    rw [pickTrap_least (st := 1) (c := 8) (d := 1) ⟨l, List.mem_map.2 ⟨l, by rw [he]; exact List.mem_cons_self .., rfl⟩⟩]
    · simp [List.filter_map, Function.comp_def, trapProt]
    · intro m s' c' d' hm
      obtain ⟨k, -, hk⟩ := List.mem_map.1 hm
      cases hk
      exact .inl ⟨rfl, rfl, rfl⟩
  unfold Iss.access
  rw [if_neg (by rw [hp]; exact Bool.false_ne_true), hc]
  dsimp only
  rw [hz, ha, hpick]

theorem tlbi_raises (o : MForm) : Raises (.tlbi o) (fun x s => x.ex ≠ [] ∧ s.atomPending x.g.core x.g.slot x.ex = false ∧
      ∀ l ∈ x.ex, canonical (x.ea false 1 l) = false ∧ x.onWay l (x.ea false 1 l) = none) 8 1 (fun x => x.ex) :=
  raises_of (body := tlbiBody) (fun _ => rfl) (fun x s ⟨hne, hp, hl⟩ => by rw [tlbiBody, access_noncanonical hne hp hl])

/-! ### tlbs -/

theorem foldl_same {α β : Type} (f : β → α → β) (s : β) (ls : List α) (h : ∀ a ∈ ls, f s a = s) : ls.foldl f s = s := by
  induction ls with
  | nil => rfl
  | cons a t ih =>
    rw [List.forall_mem_cons] at h
    rw [List.foldl_cons, h.1, ih h.2]

theorem sameWeaves_fold {α : Type} (ls : List α) (f : State → α → State) (h : ∀ s a, SameWeaves s (f s a)) (s : State) :
    SameWeaves s (ls.foldl f s) := by
  induction ls generalizing s with
  | nil => exact .rfl' s
  | cons a t ih => exact (h s a).trans (ih _)

theorem rollWeave_calm {s : State} {c w : Nat} (h : ∀ l, (s.thread c w l).spec = none) : s.rollWeave c w = s :=
  foldl_same _ s _ (fun l _ => by rw [State.rollLane, h l]; rfl)

/-- Cores none of whose threads speculates have nothing to roll back (08 R293). -/
theorem rollCores_calm {s : State} {cs : List Nat} (h : ∀ c ∈ cs, ∀ w l, (s.thread c w l).spec = none) :
    cs.foldl (fun s c => ((s.core c).weaves.map (·.1)).foldl (fun s w => if s.rollWaits c w then s else s.rollWeave c w) s) s = s :=
  foldl_same _ s cs (fun c hc => foldl_same _ s _ (fun w _ => by rw [rollWeave_calm (h c hc w), ite_self]))

theorem tlbsBody_calm {x : Iss} {s : State} (hne : x.ex ≠ [])
    (h : ∀ c ∈ s.markedCores x.g.core x.pkgScope, ∀ w l, (s.thread c w l).spec = none) :
    tlbsBody x s = if (s.markedCores x.g.core x.pkgScope).all (fun c => (s.core c).settled) then
        .done ((s.markedCores x.g.core x.pkgScope).foldl (fun u c => u.modCore c (fun k => { k with
          tlb := k.tlb.filter (fun e => !(e.draining && e.mark.contains (x.g.core, x.pkgScope))) })) s) x.ex
      else .wait s := by
  have hr := rollCores_calm h
  rw [tlbsBody, if_neg (by simpa using hne)]
  dsimp only
  rw [hr]
  rfl

theorem tlbs_acts (o : MForm) : Acts (.tlbs o) (fun x s => x.ex ≠ [] ∧ ∀ c ∈ s.markedCores x.g.core x.pkgScope,
      (∀ w l, (s.thread c w l).spec = none) ∧ (s.core c).settled = true) still (fun x s =>
    (s.markedCores x.g.core x.pkgScope).foldl (fun u c => u.modCore c (fun k => { k with
      tlb := k.tlb.filter (fun e => !(e.draining && e.mark.contains (x.g.core, x.pkgScope))) })) s) := by
  refine acts_still (body := tlbsBody) (fun _ => rfl) (fun x s ⟨hne, h⟩ => ?_) (fun x s _ => ?_)
  · rw [tlbsBody_calm hne (fun c hc => (h c hc).1), if_pos (List.all_eq_true.2 (fun c hc => (h c hc).2))]
  · exact sameWeaves_fold _ _ (fun u c => sameWeaves_modCore u c (fun k => { k with
      tlb := k.tlb.filter (fun e => !(e.draining && e.mark.contains (x.g.core, x.pkgScope))) }) (fun _ => rfl)) s

theorem tlbs_waits (o : MForm) : Waits (.tlbs o) (fun x s => x.ex ≠ [] ∧
      (∀ c ∈ s.markedCores x.g.core x.pkgScope, ∀ w l, (s.thread c w l).spec = none) ∧
      ∃ c ∈ s.markedCores x.g.core x.pkgScope, (s.core c).settled = false) := by
  refine waits_of (body := tlbsBody) (fun _ => rfl) (fun x s ⟨hne, h, c, hc, hs⟩ => ?_)
  rw [tlbsBody_calm hne h, if_neg (fun hall => ?_)]
  rw [List.all_eq_true.1 hall c hc] at hs
  cases hs

/-! ### pois -/

/-- The sectors of memory that `p` picks have been wiped: zero, and marked or not (06 R209). -/
structure Wiped (s u : State) (p : Nat → Prop) [DecidablePred p] (on : Bool) : Prop where
  bytes : ∀ b, u.memByte b = if p (b / 32) then 0 else s.memByte b
  poison : ∀ b, u.memPoison b = if p (b / 32) then on else s.memPoison b
  foreign : s.lcForeign → u.lcForeign
  alike : Alike s u

theorem memPoison_setPoison (s : State) (pa : Nat) (on : Bool) (b : Nat) :
    (s.setPoison pa on).memPoison b = if b / 32 = pa / 32 then on else s.memPoison b := by
  rw [Bool.eq_iff_iff, State.memPoison, List.contains_iff_mem]
  cases on with
  | true =>
    rw [State.setPoison, if_pos rfl, mem_insertNat]
    by_cases h : b / 32 = pa / 32 <;> simp [h, State.memPoison]
  | false =>
    by_cases h : b / 32 = pa / 32 <;> simp [State.setPoison, State.memPoison, h]

theorem poison_setByte (s : State) (pa : Nat) (b : Byte) : (s.setByte pa b).poison = s.poison :=
  (congrArg State.poison (setByte_frame s pa b) :)

/-- Bytes put in a row from an offset on. -/
theorem putRow_mem {s : State} (hf : s.lcForeign) (pa n : Nat) (bs : List Byte) :
    let u := (bs.zipIdx n).foldl (fun s e => s.putByte ((Loc.mem pa).add e.2) e.1) s
    u.lcForeign ∧ u.poison = s.poison ∧
      ∀ b, u.memByte b = if pa + n ≤ b then (bs[b - (pa + n)]?).getD (s.memByte b) else s.memByte b := by
  induction bs generalizing s n with
  | nil => exact ⟨hf, rfl, by simp⟩
  | cons a t ih =>
    obtain ⟨h1, h2, h3⟩ := ih (lcForeign_setByte hf (pa + n) a) (n + 1)
    refine ⟨h1, h2.trans (poison_setByte s _ a), fun b => (h3 b).trans ?_⟩
    rw [memByte_setByte hf]
    rcases lt_trichotomy b (pa + n) with h | h | h
    · rw [if_neg (by omega), if_neg h.ne, if_neg (by omega)]
    · subst h
      simp
    · rw [if_pos (by omega), if_neg h.ne', if_pos h.le, show b - (pa + n) = b - (pa + (n + 1)) + 1 by omega, List.getElem?_cons_succ]

theorem seesAs_putRow_spad (s : State) (t o : Nat) (bs : List Byte) : SeesAs s (s.putBytes (.spad t o) bs) :=
  seesAs_fold _ _ (fun s _ => seesAs_modTeam s t _) s

theorem seesAs_markSpad (s : State) (t o : Nat) (on : Bool) : SeesAs s (s.markPoison (.spad t o) on) := seesAs_modTeam s t _
theorem quiet_markSpad (s : State) (t o : Nat) (on : Bool) : Quiet s (s.markPoison (.spad t o) on) := quiet_modTeam s t _

theorem quiet_putBytes (s : State) (l : Loc) (bs : List Byte) : Quiet s (s.putBytes l bs) :=
  quiet_fold _ _ (fun s _ => quiet_putByte s _ _) s

theorem seesAs_noteWrite (s : State) (ls : List Loc) : SeesAs s (s.noteWrite ls) := seesAs_of rfl rfl rfl rfl rfl rfl
theorem quiet_noteWrite (s : State) (ls : List Loc) : Quiet s (s.noteWrite ls) := quiet_of rfl
theorem SeesAs.memPoison {s u : State} (h : SeesAs s u) (b : Nat) : u.memPoison b = s.memPoison b :=
  congrArg (fun p : List Nat => p.contains (b / 32)) h.poison

/-- A place in memory that is one sector's. -/
abbrev Loc.inSector (l : Loc) (n : Nat) : Prop := l.sector = .mem (n * 32)
theorem inSector_mem (pa n : Nat) : (Loc.mem pa).inSector n ↔ n = pa / 32 := by
  unfold Loc.inSector Loc.sector Loc.align
  rw [Loc.mem.injEq]
  omega
theorem inSector_spad (t o n : Nat) : ¬ (Loc.spad t o).inSector n := Loc.noConfusion

theorem Wiped.rfl' (s : State) (on : Bool) : Wiped s s (fun _ => False) on :=
  ⟨fun _ => by simp, fun _ => by simp, id, (Quiet.rfl' s).alike⟩
theorem Wiped.trans {s t u : State} {p q : Nat → Prop} [DecidablePred p] [DecidablePred q] {on : Bool} (h : Wiped s t p on)
    (k : Wiped t u q on) : Wiped s u (fun n => p n ∨ q n) on where
  bytes b := by
    rw [k.bytes, h.bytes]
    by_cases hp : p (b / 32) <;> by_cases hq : q (b / 32) <;> simp [hp, hq]
  poison b := by
    rw [k.poison, h.poison]
    by_cases hp : p (b / 32) <;> by_cases hq : q (b / 32) <;> simp [hp, hq]
  foreign := k.foreign ∘ h.foreign
  alike := h.alike.trans k.alike

theorem Wiped.congr {s u : State} {p q : Nat → Prop} [DecidablePred p] [DecidablePred q] {on : Bool} (h : Wiped s u p on)
    (hp : ∀ n, p n ↔ q n) : Wiped s u q on :=
  ⟨fun b => by simp only [h.bytes, hp], fun b => by simp only [h.poison, hp], h.foreign, h.alike⟩

/-- What nothing sees, after which sectors are wiped, and before. -/
theorem Wiped.after {s t u : State} {p : Nat → Prop} [DecidablePred p] {on : Bool} (h : SeesAs s t) (ha : Alike s t)
    (k : Wiped t u p on) : Wiped s u p on :=
  ⟨fun b => by rw [k.bytes, h.bytes], fun b => by rw [k.poison, h.memPoison], k.foreign ∘ h.foreign, ha.trans k.alike⟩
theorem Wiped.before {s t u : State} {p : Nat → Prop} [DecidablePred p] {on : Bool} (h : Wiped s t p on) (k : SeesAs t u)
    (ka : Alike t u) : Wiped s u p on :=
  ⟨fun b => by rw [k.bytes, h.bytes], fun b => by rw [k.memPoison, h.poison], k.foreign ∘ h.foreign, h.alike.trans ka⟩

/-- Zero in a sector of memory, and its mark. -/
theorem wiped_mem {s : State} (hf : s.lcForeign) (n : Nat) (on : Bool) :
    Wiped s ((s.putBytes (.mem (n * 32)) (List.replicate 32 0)).markPoison (.mem (n * 32)) on) (fun m => m = n) on := by
  obtain ⟨h1, h2, h3⟩ := putRow_mem hf (n * 32) 0 (List.replicate 32 0)
  refine ⟨fun b => (h3 b).trans ?_, fun b => (memPoison_setPoison _ _ on b).trans ?_, fun _ => h1,
    Quiet.alike (fun c w => quiet_putBytes s (.mem (n * 32)) (List.replicate 32 0) c w)⟩
  · rw [List.getElem?_replicate]
    by_cases hb : b / 32 = n
    · rw [if_pos (by omega), if_pos (by omega), if_pos hb]
      rfl
    · rw [if_neg hb]
      split
      · rw [if_neg (by omega)]; rfl
      · rfl
  · rw [Nat.mul_div_cancel n (by omega)]
    exact congrArg (fun v => if b / 32 = n then on else v) (congrArg (fun p : List Nat => p.contains (b / 32)) h2)

theorem wiped_poisSector {s : State} (hf : s.lcForeign) (l : Loc) (on : Bool) :
    Wiped s (s.poisSector l on) l.inSector on := by
  have ht := seesAs_touchAll s (l.sector.span 32)
  have hw : Wiped (s.touchAll (l.sector.span 32)) (((s.touchAll (l.sector.span 32)).putBytes l.sector
      (List.replicate 32 0)).markPoison l.sector on) l.inSector on := by
    cases l with
    | mem pa => exact (wiped_mem (ht.foreign hf) (pa / 32) on).congr (fun n => (inSector_mem pa n).symm)
    | spad t o =>
      have hno : ∀ n, False ↔ (Loc.spad t o).inSector n := fun n => iff_of_false id (inSector_spad t o n)
      exact ((Wiped.rfl' _ on).congr hno).before
        ((seesAs_putRow_spad _ t (o / 32 * 32) _).trans (seesAs_markSpad _ t (o / 32 * 32) on))
        ((quiet_putBytes _ (.spad t (o / 32 * 32)) _).trans (quiet_markSpad _ t (o / 32 * 32) on)).alike
  unfold State.poisSector
  exact ((hw.after ht (quiet_touchAll s _).alike).before (seesAs_conflicts _ _ _ _) (alike_conflicts _ _ _ _)).before
    (seesAs_noteWrite _ _) (quiet_noteWrite _ _).alike

theorem wiped_poisAll (qs : List Lane) (on : Bool) {s : State} (hf : s.lcForeign) :
    Wiped s (qs.foldl (fun s q => (s.recallSpan none true q.loc 1).poisSector q.loc on) s) (fun n => ∃ q ∈ qs, q.loc.inSector n) on := by
  induction qs generalizing s with
  | nil => exact (Wiped.rfl' s on).congr (by simp)
  | cons q t ih =>
    have hr := seesAs_recallSpan s none true q.loc 1
    have hq := (wiped_poisSector (hr.foreign hf) q.loc on).after hr (alike_recallSpan s none true q.loc 1)
    exact (hq.trans (ih (hq.foreign hf))).congr (fun n => by simp)

theorem pois_wipes (o : MForm) (s : State) (x : Iss) (u : State) (qs : List Lane) (hr : Ready (.pois o) s x)
    (ha : x.access (x.moved s) { wr := true, routes := false } (x.ea false 1) = .go u qs) (hq : qs.map (·.l) = x.ex)
    (hd : (x.moved s).drained x.g.core x.g.slot = true)
    (hh : ∀ q ∈ qs, (x.moved s).heldLoc x.g.core q.loc = false ∧ (x.moved s).recallWaits none true q.loc 1 = false)
    (hl : u.lcache = []) :
    ∃ t, exec (.pois o) s = .next t ∧ SameTables s t ∧
      (∀ b, t.memByte b = if ∃ q ∈ qs, q.loc.sector = .mem (b / 32 * 32) then 0 else u.memByte b) ∧
      ∀ b, t.memPoison b = if ∃ q ∈ qs, q.loc.sector = .mem (b / 32 * 32) then !x.f.mod.getLsbD 3 else u.memPoison b := by
  obtain ⟨hal, -⟩ := access_upkeep (ready_ex_nodup hr) ha hq
  have hw := wiped_poisAll qs (!x.f.mod.getLsbD 3) (lcForeign_nil hl)
  have hrec : ¬ qs.any (fun q => (x.moved s).recallWaits none true q.loc 1) = true := by
    simpa using fun q hm => (hh q hm).2
  have hheld : ¬ qs.any (fun q => (x.moved s).heldLoc x.g.core q.loc) = true := by
    simpa using fun q hm => (hh q hm).1
  have hb : poisBody x (x.moved s) = .done (qs.foldl (fun s q =>
      (s.recallSpan none true q.loc 1).poisSector q.loc (!x.f.mod.getLsbD 3)) u) x.ex := by
    rw [poisBody, ha]
    dsimp only
    rw [hd, if_neg (by decide), if_neg hrec, if_neg hheld, hq]
  have hset := settled_frame x (qs.foldl (fun s q => (s.recallSpan none true q.loc 1).poisSector q.loc (!x.f.mod.getLsbD 3)) u)
  refine ⟨_, ?_, sameTables_settled hr (hal.trans hw.alike).tables, fun b => ?_, fun b => ?_⟩
  · rw [show exec (.pois o) s = issue (.pois o) poisBody s from rfl, issue_go _ hr,
      show s.advance x.g x.words = x.moved s from rfl, hb, finish_settled]
  · exact (congrArg (fun v : State => v.memByte b) hset :).trans (hw.bytes b)
  · exact (congrArg (fun v : State => v.memPoison b) hset :).trans (hw.poison b)

/-- Settles O29, instruction by instruction. -/
theorem translationMaintenance : Obligations.TranslationMaintenance :=
  ⟨tlbp_computes, tlbp_waits, tlbi_shoots, tlbi_traps, shoot_marks, tlbi_raises, tlbs_acts, tlbs_waits, pois_wipes⟩

end Sys2Proof.Machine
end

section
/-! SUPPORT. The teams of all cores as one table of tables: what a change of one team leaves of the directories that forward to
scratchpads (06 R175, R194, R195). -/

namespace Sys2Proof.Machine

/-! ### Tables of tables -/

section
variable {α : Type}

theorem tabSet_tabSet (k : Nat) (v w : α) (t : Tab α) : tabSet k w (tabSet k v t) = tabSet k w t := by
  induction t with
  | nil => simp [tabSet]
  | cons e t ih =>
    obtain ⟨j, u⟩ := e
    by_cases h : k < j
    · simp [tabSet, h]
    · by_cases hj : j = k
      · simp [tabSet, hj]
      · simp [tabSet, h, hj, ih]

theorem mem_tabSet {k : Nat} {v : α} {t : Tab α} {p : Nat × α} (h : p ∈ tabSet k v t) : p = (k, v) ∨ p ∈ t := by
  induction t with
  | nil => exact .inl (List.mem_singleton.1 h)
  | cons e t ih =>
    obtain ⟨j, u⟩ := e
    rw [tabSet] at h
    split at h
    · exact (List.mem_cons.1 h)
    · split at h
      · exact (List.mem_cons.1 h).imp_right (List.mem_cons_of_mem _)
      · rcases List.mem_cons.1 h with h | h
        · exact .inr (h ▸ List.mem_cons_self ..)
        · exact (ih h).imp_right (List.mem_cons_of_mem _)

theorem mem_tabErase {k : Nat} {t : Tab α} {p : Nat × α} (h : p ∈ tabErase k t) : p ∈ t ∧ p.1 ≠ k := by
  induction t with
  | nil => cases h
  | cons e t ih =>
    obtain ⟨j, u⟩ := e
    rw [tabErase] at h
    split at h
    · exact ⟨List.mem_cons_of_mem _ (ih h).1, (ih h).2⟩
    · rcases List.mem_cons.1 h with rfl | h
      · exact ⟨List.mem_cons_self .., ‹¬ j = k›⟩
      · exact ⟨List.mem_cons_of_mem _ (ih h).1, (ih h).2⟩

theorem tabSet_map {β : Type} (f : α → β) (k : Nat) (v : α) (t : Tab α) :
    (tabSet k v t).map (fun e => (e.1, f e.2)) = tabSet k (f v) (t.map (fun e => (e.1, f e.2))) := by
  induction t with
  | nil => rfl
  | cons e t ih =>
    obtain ⟨j, u⟩ := e
    simp only [tabSet, List.map_cons]
    split
    · rfl
    · split
      · rfl
      · rw [List.map_cons, ih]

theorem tabFind_values {β : Type} (f : α → β) (k : Nat) (t : Tab α) :
    tabFind k (t.map (fun e => (e.1, f e.2))) = (tabFind k t).map f := by
  induction t with
  | nil => rfl
  | cons e t ih =>
    obtain ⟨j, u⟩ := e
    rw [List.map_cons, tabFind, tabFind]
    split
    · rfl
    · exact ih

/-- The first table that has the key, with its value. -/
def findIn (T : Tab (Tab α)) (y : Nat) : Option (Nat × α) := T.findSome? (fun e => (tabFind y e.2).map (fun x => (e.1, x)))
/-- A value put into one table. -/
def setIn (T : Tab (Tab α)) (c y : Nat) (v : α) : Tab (Tab α) := tabSet c (tabSet y v (tabGet [] c T)) T

theorem findIn_tabSet {T : Tab (Tab α)} {c y : Nat} {x v : α} (h : findIn T y = some (c, x)) {t : Tab α}
    (ht : tabFind y t = some v) : findIn (tabSet c t T) y = some (c, v) := by
  unfold findIn at h ⊢
  induction T with
  | nil => cases h
  | cons e T ih =>
    obtain ⟨j, u⟩ := e
    rw [List.findSome?_cons] at h
    cases hu : tabFind y u with
    | some z =>
      rw [hu] at h
      cases h
      simp [tabSet, ht]
    | none =>
      rw [hu] at h
      rw [tabSet]
      split
      · simp [ht]
      · split
        · simp [ht]
        · rw [List.findSome?_cons, hu]
          exact ih h

theorem findIn_setIn {T : Tab (Tab α)} {c y : Nat} {x : α} (h : findIn T y = some (c, x)) (v : α) :
    findIn (setIn T c y v) y = some (c, v) := findIn_tabSet h (tabFind_set_same y v _)

theorem setIn_setIn (T : Tab (Tab α)) (c y : Nat) (v w : α) : setIn (setIn T c y v) c y w = setIn T c y w := by
  rw [setIn, setIn, tabGet_set, if_pos rfl, tabSet_tabSet, tabSet_tabSet, setIn]

/-- The values of such tables are those put in, and old ones. -/
theorem mem_setIn {T : Tab (Tab α)} {c y : Nat} {v : α} {e : Nat × Tab α} (he : e ∈ setIn T c y v) {p : Nat × α} (hp : p ∈ e.2) :
    p = (y, v) ∨ ∃ d ∈ T, p ∈ d.2 := by
  rcases mem_tabSet he with rfl | he
  · refine (mem_tabSet hp).imp_right (fun hp => ?_)
    rw [tabGet] at hp
    cases hf : tabFind c T with
    | none => rw [hf] at hp; cases hp
    | some u => rw [hf] at hp; exact ⟨(c, u), mem_of_tabFind hf, hp⟩
  · exact .inr ⟨e, he, hp⟩

theorem mem_setIn_self (T : Tab (Tab α)) (c y : Nat) (v : α) : ∃ e ∈ setIn T c y v, (y, v) ∈ e.2 := by
  have mem_set : ∀ {β : Type} (k : Nat) (w : β) (t : Tab β), (k, w) ∈ tabSet k w t := fun k w t =>
    mem_of_tabFind (tabFind_set_same k w t)
  exact ⟨_, mem_set c _ T, mem_set y v _⟩

theorem mem_findIn {T : Tab (Tab α)} {c y : Nat} {x : α} (h : findIn T y = some (c, x)) : ∃ e ∈ T, (y, x) ∈ e.2 := by
  obtain ⟨e, he, hx⟩ := List.exists_of_findSome?_eq_some h
  obtain ⟨z, hz, hz'⟩ := Option.map_eq_some_iff.1 hx
  cases hz'
  exact ⟨e, he, mem_of_tabFind hz⟩
end

/-! ### The teams of the cores -/

/-- The teams of each core. -/
def State.teamTab (s : State) : Tab (Tab Team) := s.cores.map (fun e => (e.1, e.2.teams))

theorem findTeam_eq (s : State) (y : Nat) : s.findTeam y = findIn s.teamTab y := by
  rw [State.findTeam, findIn, State.teamTab, List.findSome?_map]
  rfl

theorem teams_core (s : State) (c : Nat) : (s.core c).teams = tabGet [] c s.teamTab := by
  rw [State.core, State.teamTab, tabGet, tabGet, tabFind_values Core.teams]
  cases tabFind c s.cores <;> rfl

theorem teamTab_modTeam {s : State} {y c : Nat} {x : Team} (h : s.findTeam y = some (c, x)) (g : Team → Team) :
    (s.modTeam y g).teamTab = setIn s.teamTab c y (g x) := by
  rw [State.modTeam, h]
  show (tabSet c _ s.cores).map _ = _
  rw [tabSet_map (fun k => Core.teams k), setIn, ← teams_core]
  rfl

theorem findTeam_modTeam {s : State} {y c : Nat} {x : Team} (h : s.findTeam y = some (c, x)) (g : Team → Team) :
    (s.modTeam y g).findTeam y = some (c, g x) := by
  rw [findTeam_eq, teamTab_modTeam h]
  exact findIn_setIn ((findTeam_eq s y).symm.trans h) (g x)

theorem team_of_find {s : State} {y c : Nat} {x : Team} (h : s.findTeam y = some (c, x)) : s.team y = x := by
  rw [State.team, h]; rfl

theorem team_modTeam {s : State} {y : Nat} (h : (s.findTeam y).isSome = true) (g : Team → Team) :
    (s.modTeam y g).team y = g (s.team y) := by
  obtain ⟨⟨c, x⟩, hx⟩ := Option.isSome_iff_exists.1 h
  rw [team_of_find (findTeam_modTeam hx g), team_of_find hx]

/-- A team that has something is somewhere. -/
theorem find_of_map {s : State} {y e : Nat} {m : MapEnt} (h : tabFind e (s.team y).maps = some m) : (s.findTeam y).isSome = true := by
  cases hf : s.findTeam y with
  | some p => rfl
  | none => rw [State.team, hf] at h; cases h

theorem teamTab_reroute (s : State) (f : Loc → Loc) : (s.reroute f).teamTab = s.teamTab := by
  rw [State.teamTab, State.reroute, List.map_map]
  rfl

/-- What depends on the teams of the cores alone. -/
theorem team_of_tab {s u : State} (h : u.teamTab = s.teamTab) (y : Nat) : u.team y = s.team y := by
  rw [State.team, findTeam_eq, h, ← findTeam_eq, State.team]

theorem findTeam_of_tab {s u : State} (h : u.teamTab = s.teamTab) (y : Nat) : u.findTeam y = s.findTeam y := by
  rw [findTeam_eq, h, ← findTeam_eq]

/-! ### Directory forwarding (06 R175, R195) -/

theorem place_eq (s : State) (pa : Nat) : s.place pa =
    (s.teamTab.findSome? (fun e => e.2.findSome? (fun t => t.2.maps.findSome? (fun m =>
      (m.2.locate pa).map (fun o => Loc.spad t.1 o))))).getD (.mem pa) := by
  rw [State.place, State.teamTab, List.findSome?_map]
  rfl

/-- An address leads to memory where no mapping entry has it. -/
theorem place_mem_iff (s : State) (pa : Nat) :
    s.place pa = .mem pa ↔ ∀ e ∈ s.teamTab, ∀ t ∈ e.2, ∀ m ∈ t.2.maps, m.2.locate pa = none := by
  rw [place_eq]
  have hnone : s.teamTab.findSome? (fun e => e.2.findSome? (fun t => t.2.maps.findSome? (fun m =>
      (m.2.locate pa).map (fun o => Loc.spad t.1 o)))) = none ↔
      ∀ e ∈ s.teamTab, ∀ t ∈ e.2, ∀ m ∈ t.2.maps, m.2.locate pa = none := by
    simp only [List.findSome?_eq_none_iff, Option.map_eq_none_iff]
  rw [← hnone]
  constructor
  · intro h
    cases hf : s.teamTab.findSome? (fun e => e.2.findSome? (fun t => t.2.maps.findSome? (fun m =>
        (m.2.locate pa).map (fun o => Loc.spad t.1 o)))) with
    | none => rfl
    | some l =>
      rw [hf] at h
      obtain ⟨e, -, he⟩ := List.exists_of_findSome?_eq_some hf
      obtain ⟨t, -, ht⟩ := List.exists_of_findSome?_eq_some he
      obtain ⟨m, -, hm⟩ := List.exists_of_findSome?_eq_some ht
      obtain ⟨o, -, ho⟩ := Option.map_eq_some_iff.1 hm
      rw [Option.getD_some, ← ho] at h
      cases h
  · intro h
    rw [h]; rfl

/-- An address leads to the one place that mapping entries give it. -/
theorem place_spad {s : State} {pa y o : Nat} (hex : ∃ e ∈ s.teamTab, ∃ t ∈ e.2, ∃ m ∈ t.2.maps, (m.2.locate pa).isSome = true)
    (hall : ∀ e ∈ s.teamTab, ∀ t ∈ e.2, ∀ m ∈ t.2.maps, ∀ n, m.2.locate pa = some n → t.1 = y ∧ n = o) :
    s.place pa = .spad y o := by
  rw [place_eq]
  cases hf : s.teamTab.findSome? (fun e => e.2.findSome? (fun t => t.2.maps.findSome? (fun m =>
      (m.2.locate pa).map (fun o => Loc.spad t.1 o)))) with
  | none =>
    obtain ⟨e, he, t, ht, m, hm, hs⟩ := hex
    have h1 := List.findSome?_eq_none_iff.1 (List.findSome?_eq_none_iff.1 (List.findSome?_eq_none_iff.1 hf e he) t ht) m hm
    rw [Option.map_eq_none_iff.1 h1] at hs
    cases hs
  | some l =>
    obtain ⟨e, he, h1⟩ := List.exists_of_findSome?_eq_some hf
    obtain ⟨t, ht, h2⟩ := List.exists_of_findSome?_eq_some h1
    obtain ⟨m, hm, h3⟩ := List.exists_of_findSome?_eq_some h2
    obtain ⟨n, hn, rfl⟩ := Option.map_eq_some_iff.1 h3
    obtain ⟨rfl, rfl⟩ := hall e he t ht m hm n hn
    rfl

end Sys2Proof.Machine
end

section
/-! SUPPORT. Mapping entries of scratchpads: made, written back and ended (06 R193 to R195). -/

namespace Sys2Proof.Machine

/-! ### What the change of a mapping entry leaves -/

theorem teamTab_of_cores {s u : State} (h : u.cores = s.cores) : u.teamTab = s.teamTab := by
  rw [State.teamTab, h, State.teamTab]

/-- The team whose mapping entries change to `g` of what they were, accesses under way rerouted. -/
theorem teamTab_remap {s : State} {y c : Nat} {x : Team} (h : s.findTeam y = some (c, x)) (g : Tab MapEnt → Tab MapEnt) (f : Loc → Loc) :
    ((s.modTeam y (fun z => { z with maps := g z.maps })).reroute f).teamTab = setIn s.teamTab c y { x with maps := g x.maps } := by
  rw [teamTab_reroute, teamTab_modTeam h]

/-- An entry just made leads where it says. -/
theorem mapEntry_place (s : State) (y e : Nat) (m : MapEnt) (pa o : Nat) (hy : (s.findTeam y).isSome = true)
    (hp : s.place pa = .mem pa) (hm : m.locate pa = some o) : (s.mapEntry y e m).place pa = .spad y o := by
  obtain ⟨⟨c, x⟩, hx⟩ := Option.isSome_iff_exists.1 hy
  have hT : (s.mapEntry y e m).teamTab = setIn s.teamTab c y { x with maps := tabSet e m x.maps } :=
    teamTab_remap hx (tabSet e m) _
  have hno := (place_mem_iff s pa).1 hp
  obtain ⟨d, hd, hxd⟩ := mem_findIn ((findTeam_eq s y).symm.trans hx)
  refine place_spad ?_ (fun q hq t ht k hk n hn => ?_)
  · obtain ⟨q, hq, ht⟩ := mem_setIn_self s.teamTab c y { x with maps := tabSet e m x.maps }
    exact ⟨q, hT ▸ hq, _, ht, (e, m), mem_of_tabFind (tabFind_set_same e m x.maps), by rw [hm]; rfl⟩
  · rcases mem_setIn (hT ▸ hq) ht with rfl | ⟨q', hq', ht'⟩
    · rcases mem_tabSet hk with rfl | hk
      · exact ⟨rfl, Option.some.inj (hn.symm.trans hm)⟩
      · rw [hno d hd _ hxd k hk] at hn
        cases hn
    · rw [hno q' hq' t ht' k hk] at hn
      cases hn

/-- Where every mapping entry is an old one, an address leads to memory as before. -/
theorem place_mem_of_old {s u : State} {y c : Nat} {x z : Team} {pa : Nat} (hx : s.findTeam y = some (c, x)) (hp : s.place pa = .mem pa)
    (hT : u.teamTab = setIn s.teamTab c y z) (hz : ∀ m ∈ z.maps, m ∈ x.maps) : u.place pa = .mem pa := by
  have hno := (place_mem_iff s pa).1 hp
  obtain ⟨d, hd, hxd⟩ := mem_findIn ((findTeam_eq s y).symm.trans hx)
  refine (place_mem_iff u pa).2 (fun q hq t ht k hk => ?_)
  rcases mem_setIn (hT ▸ hq) ht with rfl | ⟨q', hq', ht'⟩
  · exact hno d hd _ hxd k (hz k hk)
  · exact hno q' hq' t ht' k hk

/-! ### spdrop -/

theorem spadDrop_none {s : State} {y e : Nat} (h : tabFind e (s.team y).maps = none) : s.spadDrop y e = s := by
  rw [State.spadDrop, h]

/-- Where the places of a dropped entry lead to (06 R194). -/
def MapEnt.unplace (m : MapEnt) (y : Nat) (l : Loc) : Loc :=
  match l with
  | .spad u n => if u = y then ((m.backing n).map Loc.mem).getD l else l
  | l => l

theorem spadDrop_some {s : State} {y e : Nat} {m : MapEnt} (h : tabFind e (s.team y).maps = some m) :
    s.spadDrop y e = (s.modTeam y (fun x => { x with maps := tabErase e x.maps })).reroute (m.unplace y) := by
  have hf : m.unplace y = fun l => match l with
      | .spad u o => if u = y then ((m.backing o).map Loc.mem).getD l else l
      | l => l := by
    funext l
    cases l <;> rfl
  unfold State.spadDrop
  rw [h]
  exact congrArg (State.reroute _) hf.symm

theorem core_reroute_pending (s : State) (f : Loc → Loc) (c : Nat) :
    ((s.reroute f).core c).pending = (s.core c).pending.map (StoreEnt.reroute f) := by
  rw [State.core, State.reroute, tabGet, tabFind_values (Core.reroute f), State.core, tabGet]
  cases tabFind c s.cores <;> rfl

theorem pending_modTeam (s : State) (y : Nat) (g : Team → Team) (c : Nat) :
    ((s.modTeam y g).core c).pending = (s.core c).pending := (seesAs_modTeam s y g).toUpkeep.pending c

/-- What the entries of the team are once one is dropped. -/
theorem spadDrop_maps {s : State} {y : Nat} (e : Nat) (hy : (s.findTeam y).isSome = true) :
    ((s.spadDrop y e).team y).maps = tabErase e (s.team y).maps ∨
      tabFind e (s.team y).maps = none ∧ (s.spadDrop y e).team y = s.team y := by
  cases h : tabFind e (s.team y).maps with
  | none => exact .inr ⟨rfl, by rw [spadDrop_none h]⟩
  | some m =>
    left
    rw [spadDrop_some h, team_of_tab (teamTab_reroute _ _), team_modTeam hy]

theorem tabFind_none_of_keys {α : Type} {k : Nat} {t : Tab α} (h : tabFind k t = none) : ∀ p ∈ t, p.1 ≠ k := by
  induction t with
  | nil => simp
  | cons a t ih =>
    obtain ⟨j, u⟩ := a
    rw [tabFind] at h
    split at h
    · cases h
    · exact List.forall_mem_cons.2 ⟨‹_›, ih h⟩

theorem spadDrop_law (s : State) (y e : Nat) (hy : (s.findTeam y).isSome = true) : let t := s.spadDrop y e
    tabFind e (t.team y).maps = none ∧ (∀ k, k ≠ e → tabFind k (t.team y).maps = tabFind k (s.team y).maps) ∧
    (∀ pa, t.memByte pa = s.memByte pa) ∧
    (∀ va, (∀ m ∈ (s.team y).maps, m.1 ≠ e → ¬ (m.2.va ≤ va ∧ va < m.2.va + m.2.len)) → (t.team y).scratchHit va = none) ∧
    ∀ m, tabFind e (s.team y).maps = some m → ∀ c, (t.core c).pending = (s.core c).pending.map (StoreEnt.reroute (m.unplace y)) := by
  intro t
  have hfind : ∀ k, tabFind k (t.team y).maps = if k = e then none else tabFind k (s.team y).maps := by
    intro k
    rcases spadDrop_maps e hy with h | ⟨h, h'⟩
    · rw [h, tabFind_erase]
    · rw [h']
      split
      · rw [‹k = e›, h]
      · rfl
  refine ⟨by rw [hfind, if_pos rfl], fun k hk => by rw [hfind, if_neg hk], fun pa => ?_, fun va hva => ?_, fun m hm c => ?_⟩
  · cases h : tabFind e (s.team y).maps with
    | none => exact congrArg (fun u : State => u.memByte pa) (spadDrop_none h)
    | some m => exact (congrArg (fun u : State => u.memByte pa) (spadDrop_some h)).trans ((sameWeaves_modTeam s y _).bytes pa)
  · refine List.findSome?_eq_none_iff.2 (fun m hm => if_neg ?_)
    rcases spadDrop_maps e hy with h | ⟨h, h'⟩
    · obtain ⟨hm, hk⟩ := mem_tabErase (h ▸ hm)
      exact hva m hm hk
    · rw [h'] at hm
      exact hva m hm (tabFind_none_of_keys h m hm)
  · rw [show t = _ from spadDrop_some hm, core_reroute_pending, pending_modTeam]

/-! ### spwb -/

/-- The byte of a scratchpad offset goes to its backing address. -/
def MapEnt.putBack (m : MapEnt) (v : Nat → Byte) (s : State) (o : Nat) : State :=
  match m.backing o with
  | some pa => s.setByte pa (v o)
  | none => s

theorem putBack_cores (m : MapEnt) (v : Nat → Byte) (s : State) (o : Nat) : (m.putBack v s o).cores = s.cores := by
  unfold MapEnt.putBack
  split
  · exact (congrArg State.cores (setByte_frame s _ _) :)
  · rfl

theorem putBack_mem (m : MapEnt) (v : Nat → Byte) {s : State} (hf : s.lcForeign) (o : Nat) :
    (m.putBack v s o).lcForeign ∧ ∀ pa, (m.putBack v s o).memByte pa = if m.backing o = some pa then v o else s.memByte pa := by
  unfold MapEnt.putBack
  cases m.backing o with
  | none => exact ⟨hf, fun _ => by simp⟩
  | some a =>
    refine ⟨lcForeign_setByte hf a _, fun pa => ?_⟩
    dsimp only
    rw [memByte_setByte hf]
    by_cases h : pa = a <;> simp [h, Ne.symm]

/-- The bytes of many offsets written back: an address that none of them has stands, and one that a single offset has takes
its byte. -/
theorem putBack_all (m : MapEnt) (v : Nat → Byte) {s : State} (hf : s.lcForeign) (os : List Nat) :
    (os.foldl (m.putBack v) s).lcForeign ∧ ∀ pa,
      ((∀ o ∈ os, m.backing o ≠ some pa) → (os.foldl (m.putBack v) s).memByte pa = s.memByte pa) ∧
      ∀ o ∈ os, m.backing o = some pa → (∀ o' ∈ os, m.backing o' = some pa → o' = o) →
        (os.foldl (m.putBack v) s).memByte pa = v o := by
  induction os generalizing s with
  | nil => exact ⟨hf, fun _ => ⟨fun _ => rfl, fun o ho => absurd ho List.not_mem_nil⟩⟩
  | cons a t ih =>
    obtain ⟨h1, h2⟩ := putBack_mem m v hf a
    obtain ⟨h3, h4⟩ := ih h1
    refine ⟨h3, fun pa => ⟨fun hno => ?_, fun o ho hb hu => ?_⟩⟩
    · rw [List.forall_mem_cons] at hno
      rw [List.foldl_cons, (h4 pa).1 hno.2, h2, if_neg hno.1]
    · rw [List.forall_mem_cons] at hu
      rw [List.foldl_cons]
      by_cases hex : ∃ o' ∈ t, m.backing o' = some pa
      · obtain ⟨o', ho', hb'⟩ := hex
        have he := hu.2 o' ho' hb'
        exact (h4 pa).2 o (he ▸ ho') hb hu.2
      · have hno : ∀ o' ∈ t, m.backing o' ≠ some pa := fun o' ho' hb' => hex ⟨o', ho', hb'⟩
        have ho : o = a := (List.mem_cons.1 ho).resolve_right (fun ho => hno o ho hb)
        rw [(h4 pa).1 hno, h2, ← ho, if_pos hb]

/-- The offsets of the lines of an entry. -/
def MapEnt.lineOffs (m : MapEnt) (ns : List Nat) : List Nat := ns.flatMap (fun n => (List.range 128).map (fun i => m.off + n * 128 + i))

theorem mem_lineOffs {m : MapEnt} {ns : List Nat} {o : Nat} :
    o ∈ m.lineOffs ns ↔ ∃ n ∈ ns, ∃ i, i < 128 ∧ o = m.off + n * 128 + i := by
  simp only [MapEnt.lineOffs, List.mem_flatMap, List.mem_map, List.mem_range]
  exact exists_congr (fun n => and_congr_right (fun _ => exists_congr (fun i => and_congr_right (fun _ => eq_comm))))

/-- Poison marks that the backing memory takes over (log entry 57). -/
def MapEnt.putMarks (m : MapEnt) (x : Team) (s : State) (n : Nat) : State :=
  (List.range 4).foldl (fun s i =>
    let o := m.off + n * 128 + i * 32
    match m.backing o with
    | some pa => if x.spadPoison.contains (o / 32) then s.setPoison pa true else s
    | none => s) s

theorem putMarks_frame (m : MapEnt) (x : Team) (s : State) (n : Nat) : { m.putMarks x s n with poison := s.poison } = s := by
  unfold MapEnt.putMarks
  generalize List.range 4 = is
  induction is generalizing s with
  | nil => rfl
  | cons i t ih =>
    rw [List.foldl_cons]
    refine (congrArg (fun u : State => { u with poison := s.poison }) (ih _)).trans ?_
    dsimp only
    split
    · split <;> rfl
    · rfl

theorem putMarks_all (m : MapEnt) (x : Team) (s : State) (ns : List Nat) :
    { ns.foldl (m.putMarks x) s with poison := s.poison } = s := by
  induction ns generalizing s with
  | nil => rfl
  | cons n t ih =>
    rw [List.foldl_cons]
    exact (congrArg (fun u : State => { u with poison := s.poison }) (ih _)).trans (putMarks_frame m x s n)

/-- The lines that a write-back takes: those of which the entry tells a backing address. -/
def MapEnt.backed (m : MapEnt) (n : Nat) : Bool := (m.backing (m.off + n * 128)).isSome

theorem writeBack_some {s : State} {y e : Nat} {m : MapEnt} (h : tabFind e (s.team y).maps = some m) :
    s.spadWriteBack y e = (((m.dirty.filter m.backed).foldl (m.putMarks (s.team y))
      ((m.lineOffs (m.dirty.filter m.backed)).foldl (m.putBack (fun o => tabGet 0 o (s.team y).spad)) s)).modTeam y
      (fun x => { x with maps := tabSet e { m with dirty := m.dirty.filter (fun n => !m.backed n) } x.maps })) := by
  have hp : ∀ n, ((m.backing (m.off + n * 128)).map (fun _ => true)).getD false = m.backed n := fun n => by
    unfold MapEnt.backed
    cases m.backing (m.off + n * 128) <;> rfl
  rw [State.spadWriteBack, State.spadWriteLines, h]
  dsimp only
  simp only [hp]
  rw [MapEnt.lineOffs, List.foldl_flatMap]
  simp only [List.foldl_map]
  rfl

/-- What writing the lines back leaves before the entry is marked clean: cores, bytes. -/
theorem writeBack_cores (m : MapEnt) (x : Team) (v : Nat → Byte) (s : State) (ns os : List Nat) :
    (ns.foldl (m.putMarks x) (os.foldl (m.putBack v) s)).cores = s.cores := by
  rw [show (ns.foldl (m.putMarks x) (os.foldl (m.putBack v) s)).cores = (os.foldl (m.putBack v) s).cores from
    (congrArg State.cores (putMarks_all m x _ ns) :)]
  induction os generalizing s with
  | nil => rfl
  | cons o t ih => exact (ih _).trans (putBack_cores m v s o)

/-- The entries of the team once one is written back: that one alone, and only what of it is dirty, has changed. -/
theorem writeBack_tab {s : State} {y e : Nat} {m : MapEnt} (h : tabFind e (s.team y).maps = some m) :
    ∃ c n, s.findTeam y = some (c, s.team y) ∧ (s.spadWriteBack y e).teamTab =
      setIn s.teamTab c y { s.team y with maps := tabSet e { m with dirty := n } (s.team y).maps } := by
  obtain ⟨⟨c, x⟩, hx⟩ := Option.isSome_iff_exists.1 (find_of_map h)
  obtain rfl := team_of_find hx
  refine ⟨c, m.dirty.filter (fun n => !m.backed n), hx, ?_⟩
  have hc := writeBack_cores m (s.team y) (fun o => tabGet 0 o (s.team y).spad) s (m.dirty.filter m.backed)
    (m.lineOffs (m.dirty.filter m.backed))
  have ht := teamTab_of_cores hc
  rw [writeBack_some h, teamTab_modTeam ((findTeam_of_tab ht y).trans hx), ht]

theorem writeBack_pending (s : State) (y e c : Nat) : ((s.spadWriteBack y e).core c).pending = (s.core c).pending := by
  cases h : tabFind e (s.team y).maps with
  | none => rw [State.spadWriteBack, State.spadWriteLines, h]
  | some m =>
    rw [writeBack_some h, pending_modTeam, State.core, writeBack_cores, State.core]

theorem writeBack_bytes (s : State) (y e : Nat) (m : MapEnt) (pa : Nat) (h : tabFind e (s.team y).maps = some m)
    (hl : s.lcache = []) (hb : ∀ n ∈ m.dirty, (m.backing (m.off + n * 128)).isSome = true) :
    let covers := fun o => m.backing o = some pa ∧ ∃ n ∈ m.dirty, ∃ i, i < 128 ∧ o = m.off + n * 128 + i
    ((∀ o, ¬ covers o) → (s.spadWriteBack y e).memByte pa = s.memByte pa) ∧
    ∀ o, covers o → (∀ o', covers o' → o' = o) → (s.spadWriteBack y e).memByte pa = tabGet 0 o (s.team y).spad := by
  intro covers
  have hd : m.dirty.filter m.backed = m.dirty := List.filter_eq_self.2 hb
  have hbytes : (s.spadWriteBack y e).memByte pa =
      ((m.lineOffs m.dirty).foldl (m.putBack (fun o => tabGet 0 o (s.team y).spad)) s).memByte pa := by
    rw [writeBack_some h, (sameWeaves_modTeam _ y _).bytes, hd]
    exact (congrArg (fun u : State => u.memByte pa) (putMarks_all m (s.team y) _ m.dirty) :)
  obtain ⟨h1, h2⟩ := (putBack_all m (fun o => tabGet 0 o (s.team y).spad) (lcForeign_nil hl) (m.lineOffs m.dirty)).2 pa
  rw [hbytes]
  refine ⟨fun hno => h1 (fun o ho hp => hno o ⟨hp, mem_lineOffs.1 ho⟩), fun o ⟨hp, ho⟩ hu => ?_⟩
  exact h2 o (mem_lineOffs.2 ho) hp (fun o' ho' hp' => hu o' ⟨hp', mem_lineOffs.1 ho'⟩)

/-! ### spclr -/

theorem spadClear_law (s : State) (y e : Nat) (hy : (s.findTeam y).isSome = true) : let t := s.spadClear y e
    tabFind e (t.team y).maps = none ∧ (∀ k, k ≠ e → tabFind k (t.team y).maps = tabFind k (s.team y).maps) ∧
    (∀ pa, t.memByte pa = (s.spadWriteBack y e).memByte pa) ∧
    (∀ va, (∀ m ∈ (s.team y).maps, m.1 ≠ e → ¬ (m.2.va ≤ va ∧ va < m.2.va + m.2.len)) → (t.team y).scratchHit va = none) ∧
    ∀ m, tabFind e (s.team y).maps = some m → ∀ c, (t.core c).pending = (s.core c).pending.map (StoreEnt.reroute (m.unplace y)) := by
  intro t
  cases h : tabFind e (s.team y).maps with
  | none =>
    have hw : s.spadWriteBack y e = s := by rw [State.spadWriteBack, State.spadWriteLines, h]
    obtain ⟨h1, h2, h3, h4, -⟩ := spadDrop_law s y e hy
    have ht : t = s.spadDrop y e := congrArg (fun u : State => u.spadDrop y e) hw
    rw [ht, hw]
    exact ⟨h1, h2, h3, h4, fun m hm => absurd hm (by simp)⟩
  | some m =>
    obtain ⟨c, n, hx, hT⟩ := writeBack_tab h
    have hfind : (s.spadWriteBack y e).findTeam y = some (c, { s.team y with maps := tabSet e { m with dirty := n } (s.team y).maps }) := by
      rw [findTeam_eq, hT]
      exact findIn_setIn ((findTeam_eq s y).symm.trans hx) _
    have hteam := team_of_find hfind
    obtain ⟨h1, h2, h3, h4, h5⟩ := spadDrop_law (s.spadWriteBack y e) y e (by rw [hfind]; rfl)
    rw [hteam] at h2 h4 h5
    refine ⟨h1, fun k hk => (h2 k hk).trans (tabFind_set_other _ _ hk), h3, fun va hva => h4 va (fun p hp hk => ?_), ?_⟩
    · rcases mem_tabSet hp with rfl | hp
      · exact absurd rfl hk
      · exact hva p hp hk
    · intro m' hm' c'
      obtain rfl := Option.some.inj hm'
      refine (h5 _ (tabFind_set_same e _ _) c').trans ?_
      rw [writeBack_pending]
      rfl

/-! ### An entry made and ended -/

theorem spadDrop_tab {s : State} {y c e : Nat} {x : Team} {m : MapEnt} (hx : s.findTeam y = some (c, x)) (h : tabFind e x.maps = some m) :
    (s.spadDrop y e).teamTab = setIn s.teamTab c y { x with maps := tabErase e x.maps } := by
  rw [spadDrop_some (m := m) (by rw [team_of_find hx]; exact h), teamTab_reroute, teamTab_modTeam hx]

theorem findTeam_remap {s : State} {y c : Nat} {x : Team} (hx : s.findTeam y = some (c, x)) (e : Nat) (m : MapEnt) :
    (s.mapEntry y e m).findTeam y = some (c, { x with maps := tabSet e m x.maps }) := by
  rw [findTeam_eq, State.mapEntry, teamTab_reroute, ← findTeam_eq, findTeam_modTeam hx]

theorem mapEntry_drop_place (s : State) (y e : Nat) (m : MapEnt) (pa : Nat) (hy : (s.findTeam y).isSome = true)
    (hp : s.place pa = .mem pa) : ((s.mapEntry y e m).spadDrop y e).place pa = .mem pa := by
  obtain ⟨⟨c, x⟩, hx⟩ := Option.isSome_iff_exists.1 hy
  have hT := spadDrop_tab (findTeam_remap hx e m) (tabFind_set_same e m x.maps)
  rw [show (s.mapEntry y e m).teamTab = _ from teamTab_remap hx (tabSet e m) _, setIn_setIn] at hT
  refine place_mem_of_old hx hp hT (fun k hk => ?_)
  obtain ⟨hk, hne⟩ := mem_tabErase hk
  exact (mem_tabSet hk).resolve_left (fun h => hne (congrArg Prod.fst h))

theorem mapEntry_clear_place (s : State) (y e : Nat) (m : MapEnt) (pa : Nat) (hy : (s.findTeam y).isSome = true)
    (hp : s.place pa = .mem pa) : ((s.mapEntry y e m).spadClear y e).place pa = .mem pa := by
  obtain ⟨⟨c, x⟩, hx⟩ := Option.isSome_iff_exists.1 hy
  have hm := findTeam_remap hx e m
  obtain ⟨c', n, hx', hT⟩ := writeBack_tab (s := s.mapEntry y e m) (e := e) (m := m)
    (by rw [team_of_find hm]; exact tabFind_set_same e m x.maps)
  rw [team_of_find hm] at hx' hT
  obtain rfl : c = c' := congrArg Prod.fst (Option.some.inj (hm.symm.trans hx'))
  have hw : ((s.mapEntry y e m).spadWriteBack y e).findTeam y =
      some (c, { x with maps := tabSet e { m with dirty := n } (tabSet e m x.maps) }) := by
    rw [findTeam_eq, hT]
    exact findIn_setIn ((findTeam_eq _ y).symm.trans hm) _
  have hD := spadDrop_tab hw (tabFind_set_same e _ _)
  rw [hT, setIn_setIn, show (s.mapEntry y e m).teamTab = _ from teamTab_remap hx (tabSet e m) _, setIn_setIn] at hD
  refine place_mem_of_old hx hp hD (fun k hk => ?_)
  obtain ⟨hk, hne⟩ := mem_tabErase hk
  have h1 := (mem_tabSet hk).resolve_left (fun h => hne (congrArg Prod.fst h))
  exact (mem_tabSet h1).resolve_left (fun h => hne (congrArg Prod.fst h))

/-! ### The instructions -/

theorem mapOk_iff (y : Team) (e va off len : Nat) : y.mapOk e va off len = true ↔ va % 128 = 0 ∧ off % 128 = 0 ∧ len % 128 = 0 ∧
    128 ≤ len ∧ off + len ≤ Config.bankBytes * y.spadBanks.length ∧ tabFind e y.maps = none ∧
      ∀ m ∈ y.maps, ¬ (m.2.va < va + len ∧ va < m.2.va + m.2.len) := by
  simp only [Team.mapOk, meet, Bool.and_eq_true, beq_iff_eq, decide_eq_true_eq, Option.isNone_iff_eq_none,
    List.all_eq_true, Bool.not_eq_true', decide_eq_false_iff_not, and_assoc]
  exact Iff.rfl

theorem spmapBody_alike {x : Iss} {s : State} (zero : Bool) (ht : x.teamed s) (ha : x.alike (fun x l => [x.a l, x.b l, x.c l])) :
    spmapBody zero x s =
      if !(s.team (x.mine s)).mapOk (x.f.d.toNat % 8) (x.a x.low) (x.b x.low) (x.c x.low) then .trap s [] trapProt 9 x.ex
      else
        match s.rangeSegs x.agent (x.a x.low) (x.c x.low) with
        | (s', .ok gs) =>
          if s'.registered (x.mine s) gs then .trap s' [] trapProt 9 x.ex
          else .done (s'.mapEntry (x.mine s) (x.f.d.toNat % 8)
            { va := x.a x.low, off := x.b x.low, len := x.c x.low, zero := zero, segs := gs }) x.ex
        | (s', .error (_, .bad _ c d)) => .trap s' [] c d x.ex
        | (s', .error (va, .fault c d lv lid _)) =>
          match x.park s' x.g.pc true (x.ex.map (fun n =>
            { lane := n, cause := c, detail := d, level := lv, lid := lid, va := va, scr := true })) with
          | some s => .done s []
          | none => .wait s'
        | (s', .error _) => .wait s' := by
  obtain ⟨t, he⟩ := ex_low ha.1
  unfold spmapBody
  rw [team_some ht.1, differ_nil ha]
  split
  · rename_i h
    exact absurd h ha.1
  · rename_i l t' h
    obtain rfl : x.low = l := by rw [Iss.low, h]; rfl
    rw [h] <;> rfl

theorem spmap_maps {i : Instr} {zero : Bool} (hx : ∀ s, exec i s = issue i (spmapBody zero) s) (s : State) (x : Iss) (u : State)
    (gs : List Seg) (hr : Ready i s x) (ht : x.teamed (x.moved s)) (ha : x.alike (fun x l => [x.a l, x.b l, x.c l]))
    (hm : ((x.moved s).team (x.mine (x.moved s))).mapOk (x.f.d.toNat % 8) (x.a x.low) (x.b x.low) (x.c x.low) = true)
    (hg : (x.moved s).rangeSegs x.agent (x.a x.low) (x.c x.low) = (u, .ok gs)) (hn : u.registered (x.mine (x.moved s)) gs = false) :
    exec i s = .next (x.settled (u.mapEntry (x.mine (x.moved s)) (x.f.d.toNat % 8)
      { va := x.a x.low, off := x.b x.low, len := x.c x.low, zero := zero, segs := gs })) := by
  rw [hx s, issue_go _ hr, show s.advance x.g x.words = x.moved s from rfl, spmapBody_alike zero ht ha, hm, hg]
  dsimp only
  rw [hn]
  exact congrArg Host.Outcome.next (finish_settled x _)

theorem spmap_raises {i : Instr} {zero : Bool} (hx : ∀ s, exec i s = issue i (spmapBody zero) s) :
    Raises i (fun x s => x.teamed s ∧ x.alike (fun x l => [x.a l, x.b l, x.c l]) ∧
      (s.team (x.mine s)).mapOk (x.f.d.toNat % 8) (x.a x.low) (x.b x.low) (x.c x.low) = false) 8 9 (fun x => x.ex) :=
  raises_of hx (fun x s ⟨ht, ha, hm⟩ => by rw [spmapBody_alike zero ht ha, hm]; rfl)

section
variable {back : Bool} {h : State → Nat → Nat → State} {x : Iss} {s : State}

/-- 06 R194: an entry that is not valid. -/
theorem spBody_invalid (ht : x.teamed s) (he : tabFind (x.f.d.toNat % 8) (s.team (x.mine s)).maps = none) :
    spBody back h x s = .done s x.ex := by
  simp [spBody, team_some ht.1, he]

/-- 06 R194: a valid one. -/
theorem spBody_valid (ht : x.teamed s) (he : (tabFind (x.f.d.toNat % 8) (s.team (x.mine s)).maps).isSome = true) :
    spBody back h x s = if !s.drained x.g.core x.g.slot then .wait s
      else match (if back then s.backHeld x.g.core (x.mine s) (x.f.d.toNat % 8) else []) with
        | [] => .done (h s (x.mine s) (x.f.d.toNat % 8)) x.ex
        | l :: ls => .wait (s.waitBackLines (l :: ls)) := by
  have hn : (x.ex.isEmpty || (tabFind (x.f.d.toNat % 8) (s.team (x.mine s)).maps).isNone) = false := by
    rw [Bool.or_eq_false_iff]
    exact ⟨by simpa using ht.2, by rw [← Option.not_isSome, he]; rfl⟩
  unfold spBody
  rw [team_some ht.1]
  dsimp only
  rw [hn] <;> rfl

theorem spBody_acts (ht : x.teamed s) (he : (tabFind (x.f.d.toNat % 8) (s.team (x.mine s)).maps).isSome = true)
    (hd : s.drained x.g.core x.g.slot = true)
    (hb : (if back then s.backHeld x.g.core (x.mine s) (x.f.d.toNat % 8) else []) = []) :
    spBody back h x s = .done (h s (x.mine s) (x.f.d.toNat % 8)) x.ex := by
  rw [spBody_valid ht he, hd, hb]
  rfl

theorem spBody_undrained (ht : x.teamed s) (he : (tabFind (x.f.d.toNat % 8) (s.team (x.mine s)).maps).isSome = true)
    (hd : s.drained x.g.core x.g.slot = false) : spBody back h x s = .wait s := by
  rw [spBody_valid ht he, hd]
  rfl
end

/-- A line to be written back is that of an entry. -/
theorem backHeld_valid {s : State} {core y e : Nat} (h : s.backHeld core y e ≠ []) : (tabFind e (s.team y).maps).isSome = true := by
  unfold State.backHeld at h
  cases hf : tabFind e (s.team y).maps with
  | some m => rfl
  | none => rw [hf] at h; exact absurd rfl h

theorem spBack_waits {i : Instr} {h : State → Nat → Nat → State} (hx : ∀ s, exec i s = issue i (spBody true h) s) (s : State) (x : Iss)
    (ls : List Loc) (hr : Ready i s x) (ht : x.teamed (x.moved s)) (hd : (x.moved s).drained x.g.core x.g.slot = true)
    (hb : (x.moved s).backHeld x.g.core (x.mine (x.moved s)) (x.f.d.toNat % 8) = ls) (hne : ls ≠ []) :
    exec i s = .next (x.unrun (((x.moved s).waitBackLines ls).hold x.g x.g.lanes) x.g.lanes) := by
  obtain ⟨l, t, rfl⟩ := List.exists_cons_of_ne_nil hne
  rw [hx s, issue_go _ hr, show s.advance x.g x.words = x.moved s from rfl,
    spBody_valid ht (backHeld_valid (by rw [hb]; exact hne)), hd, if_pos rfl, hb]
  rfl

theorem sp_waits {i : Instr} {back : Bool} {h : State → Nat → Nat → State} (hx : ∀ s, exec i s = issue i (spBody back h) s) :
    Waits i (fun x s => x.teamed s ∧ (tabFind (x.f.d.toNat % 8) (s.team (x.mine s)).maps).isSome = true ∧
      s.drained x.g.core x.g.slot = false) :=
  waits_of hx (fun _ _ ⟨ht, he, hd⟩ => spBody_undrained ht he hd)

theorem sp_still {i : Instr} {back : Bool} {h : State → Nat → Nat → State} (hx : ∀ s, exec i s = issue i (spBody back h) s) :
    Acts i (fun x s => x.teamed s ∧ tabFind (x.f.d.toNat % 8) (s.team (x.mine s)).maps = none) still (fun _ s => s) :=
  acts_still hx (fun _ _ ⟨ht, he⟩ => spBody_invalid ht he) (fun _ _ _ => .rfl' _)

theorem spBack_does {i : Instr} {h : State → Nat → Nat → State} (hx : ∀ s, exec i s = issue i (spBody true h) s) :
    Does i (fun x s => x.teamed s ∧ (tabFind (x.f.d.toNat % 8) (s.team (x.mine s)).maps).isSome = true ∧
      s.drained x.g.core x.g.slot = true ∧ s.backHeld x.g.core (x.mine s) (x.f.d.toNat % 8) = [])
      (fun x s => h s (x.mine s) (x.f.d.toNat % 8)) :=
  does_of hx (fun _ _ ⟨ht, he, hd, hb⟩ => spBody_acts ht he hd hb)

theorem spdrop_does (o : AForm) : Does (.spdrop o) (fun x s => x.teamed s ∧
      (tabFind (x.f.d.toNat % 8) (s.team (x.mine s)).maps).isSome = true ∧ s.drained x.g.core x.g.slot = true)
      (fun x s => s.spadDrop (x.mine s) (x.f.d.toNat % 8)) :=
  does_of (execSpdrop.eq_def o) (fun _ _ ⟨ht, he, hd⟩ => spBody_acts ht he hd rfl)

/-- Settles O30: the tables of teams that a mapping entry changes, and the instructions that change them. -/
theorem scratchpadMapping : Obligations.ScratchpadMapping :=
  ⟨fun o => spmap_maps (execSpmap.eq_def o), fun o => spmap_maps (execSpmapz.eq_def o),
    fun o => spmap_raises (execSpmap.eq_def o), fun o => spmap_raises (execSpmapz.eq_def o),
    mapOk_iff, mapEntry_place,
    fun o => spBack_does (execSpclr.eq_def o), fun o => spBack_does (execSpwb.eq_def o), spdrop_does,
    fun o => spBack_waits (execSpclr.eq_def o), fun o => spBack_waits (execSpwb.eq_def o),
    fun o => sp_waits (execSpclr.eq_def o), fun o => sp_waits (execSpwb.eq_def o), fun o => sp_waits (execSpdrop.eq_def o),
    fun o => sp_still (execSpclr.eq_def o), fun o => sp_still (execSpwb.eq_def o), fun o => sp_still (execSpdrop.eq_def o),
    writeBack_bytes, spadDrop_law, spadClear_law,
    fun s y e m pa hy _ => mapEntry_drop_place s y e m pa hy, fun s y e m pa hy _ => mapEntry_clear_place s y e m pa hy⟩

end Sys2Proof.Machine
end

section
/-! SUPPORT. Instructions on a tile handle of the team (07 R224, R225): those that name one index take their turns, a handle value is
checked first, and what a change of one handle leaves of the others. -/

namespace Sys2Proof.Machine

/-! ### Turns at an index of the team (07 R224) -/

theorem inTurn_outrun {x : Iss} {s : State} {t n : Nat} (h : x.outrun s t n = true) (a : Act) :
    x.inTurn s t n a = .wait (x.note s x.ex (fun _ => none) (some n)) := by
  rw [Iss.inTurn, if_pos h]; rfl

theorem inTurn_next {x : Iss} {s : State} {t n : Nat} (h : x.outrun s t n = false) (a : Act) :
    x.inTurn s t n a = x.inPlace (some n) a := by
  rw [Iss.inTurn, if_neg (by rw [h]; exact Bool.false_ne_true)]

/-- An instruction whose body waits in its place. -/
theorem waitsInTurn_of {i : Instr} {pre : Iss → State → Prop} {tile : Iss → Option Nat} {body : Iss → State → Act}
    (hx : ∀ s, exec i s = issue i body s)
    (h : ∀ x u, pre x u → body x u = .wait (x.note u x.ex (fun _ => none) (tile x))) : WaitsInTurn i pre tile := by
  intro s x hr hp
  rw [hx s, issue_go _ hr, show s.advance x.g x.words = x.moved s from rfl, h x _ hp]
  rfl

/-- An instruction whose body completes in every executing lane. -/
theorem exec_done {i : Instr} {body : Iss → State → Act} {s u : State} {x : Iss} (hx : ∀ s, exec i s = issue i body s)
    (hr : Ready i s x) (hb : body x (x.moved s) = .done u x.ex) : exec i s = .next (x.settled u) := by
  rw [hx s, issue_go _ hr, show s.advance x.g x.words = x.moved s from rfl, hb, finish_settled]

/-- Every result written and noted in the threads stands. -/
theorem Computed.stands {s t : State} {x : Iss} {out : Nat → LaneOut} (h : Computed s x out t) : Stands s x out t :=
  ⟨h.outside.bytes, (stands_around h.outside).1, (stands_around h.outside).2, h.lanes⟩

/-! ### The check of a handle value (07 R225) -/

section
variable {v : Iss → Nat → Nat} {ops : Iss → Nat → List Nat} {h : Iss → State → Nat → Nat → Act} {x : Iss} {s : State}

theorem withHandle_goes (ht : x.teamed s) (ha : x.alike ops) (hb : (s.team (x.mine s)).handleBad (v x x.low) = none)
    (ho : x.outrun s (x.mine s) (v x x.low % 16) = false) :
    once ops (withHandle v h) x s = x.inPlace (some (v x x.low % 16)) (h x s (x.mine s) x.low) := by
  rw [once_alike ha ht, withHandle, inTurn_next ho, hb]

theorem withHandle_traps {d : Nat} (ht : x.teamed s) (ha : x.alike ops) (hb : (s.team (x.mine s)).handleBad (v x x.low) = some d)
    (ho : x.outrun s (x.mine s) (v x x.low % 16) = false) : once ops (withHandle v h) x s = .trap s [] trapProt d x.ex := by
  rw [once_alike ha ht, withHandle, inTurn_next ho, hb]; rfl

theorem withHandle_waits (ht : x.teamed s) (ha : x.alike ops) (ho : x.outrun s (x.mine s) (v x x.low % 16) = true) :
    once ops (withHandle v h) x s = .wait (x.note s x.ex (fun _ => none) (some (v x x.low % 16))) := by
  rw [once_alike ha ht, withHandle, inTurn_outrun ho]
end

section
variable {i : Instr} {v : Iss → Nat → Nat} {ops : Iss → Nat → List Nat} {h : Iss → State → Nat → Nat → Act}
  (hx : ∀ s, exec i s = issue i (once ops (withHandle v h)) s)
include hx

/-- A handle value that fails its check. -/
theorem withHandle_raises (d : Nat) : Raises i (fun x s => x.teamed s ∧ x.alike ops ∧
    (s.team (x.mine s)).handleBad (v x x.low) = some d ∧ x.outrun s (x.mine s) (v x x.low % 16) = false) 8 d (fun x => x.ex) :=
  raises_of hx (fun _ _ ⟨ht, ha, hb, ho⟩ => withHandle_traps ht ha hb ho)

/-- An instruction that reached the same index before has still to complete. -/
theorem withHandle_waitsInTurn : WaitsInTurn i (fun x s => x.teamed s ∧ x.alike ops ∧
    x.outrun s (x.mine s) (v x x.low % 16) = true) (fun x => some (v x x.low % 16)) :=
  waitsInTurn_of hx (fun _ _ ⟨ht, ha, ho⟩ => withHandle_waits ht ha ho)
end

theorem handleBad_eq (y : Team) (v : Nat) : y.handleBad v = if 2 ^ 12 ≤ v then some 0x11
    else if (y.handle (v % 16)).opened = false then some 0x12
    else if (y.handle (v % 16)).gen ≠ v / 16 % 256 then some 0x13 else none := by
  have hv : v / 2 ^ 12 ≠ 0 ↔ 2 ^ 12 ≤ v := by omega
  simp only [Team.handleBad, hv, Bool.not_eq_true']

/-! ### One handle of a team changed -/

theorem sameWeaves_modHandle (s : State) (y n : Nat) (g : Handle → Handle) : SameWeaves s (s.modHandle y n g) :=
  sameWeaves_modTeam s y _

theorem findTeam_modTeam_isSome {s : State} {y : Nat} (h : (s.findTeam y).isSome = true) (g : Team → Team) :
    ((s.modTeam y g).findTeam y).isSome = true := by
  obtain ⟨⟨c, x⟩, hx⟩ := Option.isSome_iff_exists.1 h
  rw [findTeam_modTeam hx]; rfl

theorem handle_modHandle {s : State} {y : Nat} (h : (s.findTeam y).isSome = true) (n : Nat) (g : Handle → Handle) (k : Nat) :
    ((s.modHandle y n g).team y).handle k = if k = n then g ((s.team y).handle n) else (s.team y).handle k := by
  rw [State.modHandle, team_modTeam h]
  exact tabGet_set ..

theorem tslot_modHandle {s : State} {y : Nat} (h : (s.findTeam y).isSome = true) (n : Nat) (g : Handle → Handle) (k : Nat) :
    ((s.modHandle y n g).team y).tslot k = (s.team y).tslot k := by
  rw [State.modHandle, team_modTeam h]; rfl

@[simp] theorem dirs_modHandle (s : State) (y n : Nat) (g : Handle → Handle) : (s.modHandle y n g).dirs = s.dirs := by
  simp [State.modHandle]

@[simp] theorem dirReqs_modHandle (s : State) (y n : Nat) (g : Handle → Handle) : (s.modHandle y n g).dirReqs = s.dirReqs := by
  simp [State.modHandle]

/-! ### Tenure given up, an index closed (07 R232, R233) -/

theorem sameWeaves_dropTenure (s : State) (y n : Nat) : SameWeaves s (s.dropTenure y n) :=
  (sameWeaves_modHandle s y n _).trans (sameWeaves_of rfl rfl rfl)

theorem sameWeaves_closeHandle (s : State) (y n : Nat) : SameWeaves s (s.closeHandle y n) :=
  ((sameWeaves_dropTenure s y n).trans (sameWeaves_modTeam _ y _)).trans (sameWeaves_modHandle _ y n _)

theorem findTeam_dropTenure {s : State} {y : Nat} (h : (s.findTeam y).isSome = true) (n : Nat) :
    ((s.dropTenure y n).findTeam y).isSome = true := findTeam_modTeam_isSome h _

theorem dropTenure_handle {s : State} {y : Nat} (h : (s.findTeam y).isSome = true) (n k : Nat) :
    ((s.dropTenure y n).team y).handle k = if k = n ∧ ((s.team y).handle n).mode ≠ 0 then
      { (s.team y).handle n with mode := 0, pieces := [], lost := false } else (s.team y).handle k := by
  refine (handle_modHandle h n _ k).trans ?_
  by_cases hk : k = n
  · subst hk
    by_cases hm : ((s.team y).handle k).mode = 0 <;> simp [hm]
  · simp [hk]

theorem dropTenure_tslot {s : State} {y : Nat} (h : (s.findTeam y).isSome = true) (n k : Nat) :
    ((s.dropTenure y n).team y).tslot k = (s.team y).tslot k := tslot_modHandle h n _ k

theorem closeHandle_handle {s : State} {y : Nat} (h : (s.findTeam y).isSome = true) (n k : Nat) :
    ((s.closeHandle y n).team y).handle k =
      if k = n then { gen := (((s.team y).handle n).gen + 1) % 256 } else (s.team y).handle k := by
  have hd := findTeam_dropTenure h n
  have hgen : (((s.dropTenure y n).team y).handle n).gen = ((s.team y).handle n).gen := by
    rw [dropTenure_handle h]
    split <;> rfl
  have hsame : ∀ j, j ≠ n → ((s.dropTenure y n).team y).handle j = (s.team y).handle j := fun j hj => by
    rw [dropTenure_handle h, if_neg (fun hc => hj hc.1)]
  rw [State.closeHandle, handle_modHandle (findTeam_modTeam_isSome hd _), team_modTeam hd]
  split
  · exact congrArg (fun g => ({ gen := (g + 1) % 256 } : Handle)) hgen
  · exact hsame k ‹_›

/-- A slot bound to the index is bound no more (07 R233). -/
theorem closeHandle_tslot {s : State} {y : Nat} (h : (s.findTeam y).isSome = true) (n k : Nat) :
    ((s.closeHandle y n).team y).tslot k = if (((s.team y).tslot k).bound.map (·.1)) = some n then
      { (s.team y).tslot k with bound := none } else (s.team y).tslot k := by
  have hd := findTeam_dropTenure h n
  rw [State.closeHandle, tslot_modHandle (findTeam_modTeam_isSome hd _), team_modTeam hd, ← dropTenure_tslot h n k]
  generalize (s.dropTenure y n).team y = z
  have hmap : z.tslots.map (fun e => if (e.2.bound.map (·.1)) == some n then (e.1, { e.2 with bound := none }) else e) =
      z.tslots.map (fun e => (e.1, if (e.2.bound.map (·.1)) = some n then { e.2 with bound := none } else e.2)) := by
    refine List.map_congr_left (fun e _ => ?_)
    by_cases he : (e.2.bound.map (·.1)) = some n <;> simp [he]
  unfold Team.tslot tabGet
  dsimp only
  rw [hmap, tabFind_values (fun q : TileSlot => if (q.bound.map (·.1)) = some n then { q with bound := none } else q)]
  cases tabFind k z.tslots <;> rfl

theorem closeHandle_dirs (s : State) (y n : Nat) :
    (s.closeHandle y n).dirs = s.dirs.filter (fun d => !(d.team = y && d.handle = n)) := by
  simp [State.closeHandle, State.dropTenure]

end Sys2Proof.Machine
end

section
/-! SUPPORT. Opening, describing, splitting, releasing and closing tile handles (07 R220, R228 to R233). -/

namespace Sys2Proof.Machine

/-! ### The words of a descriptor (07 R220, R229) -/

theorem getD_take_map {α : Type} (f : α → Nat) (ds : List α) (r k : Nat) (d : α) (hd : f d = 0) :
    ((ds.take r).map f).getD k 0 = if k < r then f (ds.getD k d) else 0 := by
  simp only [List.getD_eq_getElem?_getD, List.getElem?_map, List.getElem?_take]
  split
  · cases ds[k]? <;> simp [hd]
  · rfl

/-- What the checks of a descriptor leave of its words (07 R220). -/
theorem tileOfWords_some {ws : List Nat} {d : TileDesc} (h : tileOfWords ws = some d) :
    let dims := (List.range 5).map (fun k => (ws.getD (2 + k) 0 % 2 ^ 24, ws.getD (2 + k) 0 / 2 ^ 24))
    let rank := ws.getD 1 0 % 8
    rank ≤ 5 ∧ ws.getD 7 0 = 0 ∧ ws.getD 1 0 = rank + ws.getD 1 0 / 2 ^ 8 % 8 * 2 ^ 8 ∧ (∀ e ∈ dims.drop rank, e = (0, 0)) ∧
      d = { base := ws.getD 0 0, esz := ws.getD 1 0 / 2 ^ 8 % 8, ext := (dims.take rank).map (·.1), stride := (dims.take rank).map (·.2) } := by
  intro dims rank
  unfold tileOfWords at h
  extract_lets at h
  split at h
  · cases h
  · rename_i hc
    simp only [Bool.or_eq_true, not_or, bne_iff_ne, ne_eq, not_not, decide_eq_true_eq, not_lt, beq_iff_eq] at hc
    obtain ⟨⟨⟨⟨⟨⟨⟨⟨⟨⟨⟨⟨-, h5⟩, -⟩, h7⟩, hhi⟩, hmid⟩, hdrop⟩, -⟩, -⟩, -⟩, -⟩, -⟩, -⟩ := hc
    have hword : ws.getD 1 0 / 2 ^ 11 = 0 ∧ ws.getD 1 0 / 2 ^ 3 % 2 ^ 5 = 0 := ⟨hhi, hmid⟩
    refine ⟨h5, h7, by omega, fun e he => ?_, (Option.some.inj h).symm⟩
    have hz := fun hp => hdrop (List.any_eq_true.2 ⟨e, he, hp⟩)
    simp only [Bool.or_eq_true, bne_iff_ne, ne_eq] at hz
    exact Prod.ext (by tauto) (by tauto)

/-- 07 R229: the words that describe a well-formed descriptor are those it was read from. -/
theorem tileWords_tileOfWords (ws : List Nat) (d : TileDesc) (hn : ws.length = 8) (h : tileOfWords ws = some d) :
    tileWords d = ws := by
  obtain ⟨h5, h7, h1, hdrop, rfl⟩ := tileOfWords_some h
  generalize hdims : (List.range 5).map (fun k => (ws.getD (2 + k) 0 % 2 ^ 24, ws.getD (2 + k) 0 / 2 ^ 24)) = dims at hdrop ⊢
  have hlen : dims.length = 5 := by simp [← hdims]
  have hdim : ∀ k, k < 5 → dims[k]? = some (ws.getD (2 + k) 0 % 2 ^ 24, ws.getD (2 + k) 0 / 2 ^ 24) := fun k hk => by
    simp [← hdims, hk]
  have hget : ∀ k, k < 5 → dims.getD k (0, 0) = (ws.getD (2 + k) 0 % 2 ^ 24, ws.getD (2 + k) 0 / 2 ^ 24) := fun k hk => by
    rw [List.getD_eq_getElem?_getD, hdim k hk, Option.getD_some]
  have hrow : ∀ k, k < 5 → ((dims.take (ws.getD 1 0 % 8)).map (·.1)).getD k 0 +
      ((dims.take (ws.getD 1 0 % 8)).map (·.2)).getD k 0 * 2 ^ 24 = ws.getD (2 + k) 0 := by
    intro k hk
    rw [getD_take_map _ _ _ _ (0, 0) rfl, getD_take_map _ _ _ _ (0, 0) rfl, hget k hk]
    by_cases hr : k < ws.getD 1 0 % 8
    · rw [if_pos hr, if_pos hr]
      exact Nat.mod_add_div' _ _
    · have hz := hdrop _ (List.mem_of_getElem? (i := k - ws.getD 1 0 % 8)
        ((List.getElem?_drop).trans ((congrArg _ (Nat.add_sub_of_le (not_lt.1 hr))).trans (hdim k hk))))
      rw [Prod.mk.injEq] at hz
      rw [if_neg hr, if_neg hr]
      omega
  calc tileWords _ = [ws.getD 0 0, ws.getD 1 0] ++ (List.range 5).map (fun k => ws.getD (2 + k) 0) ++ [ws.getD 7 0] := by
        unfold tileWords
        rw [List.length_map, List.length_take, hlen, Nat.min_eq_left h5, ← h1, h7,
          List.map_congr_left (fun k hk => hrow k (List.mem_range.1 hk))]
    _ = (List.range 8).map (fun n => ws.getD n 0) := rfl
    _ = ws := List.ext_getElem (by simp [hn]) (fun n _ h2 => by simp [h2])

/-! ### thopen and thdesc (07 R228, R229) -/

theorem thopen_opens (o : MForm) (s : State) (x : Iss) (u : State) (loc : Loc) (leaf : Nat) (d : TileDesc) (hr : Ready (.thopen o) s x)
    (ht : x.teamed (x.moved s)) (ha : x.alike (fun x l => [x.a l]))
    (hop : (((x.moved s).team (x.mine (x.moved s))).handle (x.f.b.toNat % 16)).opened = false)
    (ho : x.outrun (x.moved s) (x.mine (x.moved s)) (x.f.b.toNat % 16) = false)
    (hp : (x.moved s).atomPending x.g.core x.g.slot x.ex = false)
    (hc : x.checkOnce (x.moved s) { rd := true, align := 64, size := 64 } (x.ea false 64 x.low) = (u, .ok loc leaf)) :
    let v := u.prepLoad x.g.core x.g.slot { l := x.low, ea := x.ea false 64 x.low, loc := loc, leaf := leaf } 64 true
    v.anyPoison (loc.span 64) = false →
    tileOfWords ((List.range 8).map (fun i => v.seen x.g.core x.g.slot x.low (loc.add (8 * i)) 8)) = some d →
    exec (.thopen o) s = .next (x.settled (x.giveAll (v.modHandle (x.mine (x.moved s)) (x.f.b.toNat % 16)
        (fun h => { opened := true, gen := h.gen, desc := d }))
      ((((x.moved s).team (x.mine (x.moved s))).handle (x.f.b.toNat % 16)).gen * 16 + x.f.b.toNat % 16))) := by
  intro v hv hd
  have hb : openBody x (x.moved s) = .done (x.giveAll (v.modHandle (x.mine (x.moved s)) (x.f.b.toNat % 16)
      (fun h => { opened := true, gen := h.gen, desc := d }))
      (handleValue (((x.moved s).team (x.mine (x.moved s))).handle (x.f.b.toNat % 16)) (x.f.b.toNat % 16))) x.ex := by
    unfold openBody
    rw [once_alike ha ht]
    dsimp only
    rw [inTurn_next ho, hop, hp, hc]
    dsimp only
    rw [show (u.prepLoad x.g.core x.g.slot { l := x.low, ea := x.ea false 64 x.low, loc := loc, leaf := leaf } 64 true) = v from rfl,
      hv, hd]
    rfl
  exact exec_done (execThopen.eq_def o) hr hb

theorem thopen_raises (o : MForm) : Raises (.thopen o) (fun x s => x.teamed s ∧ x.alike (fun x l => [x.a l]) ∧
    ((s.team (x.mine s)).handle (x.f.b.toNat % 16)).opened = true ∧
    x.outrun s (x.mine s) (x.f.b.toNat % 16) = false) 8 0x14 (fun x => x.ex) := by
  refine raises_of (execThopen.eq_def o) (fun x s ⟨ht, ha, hop, ho⟩ => ?_)
  unfold openBody
  rw [once_alike ha ht]
  dsimp only
  rw [inTurn_next ho, hop]
  rfl

theorem thopen_waitsInTurn (o : MForm) : WaitsInTurn (.thopen o) (fun x s => x.teamed s ∧ x.alike (fun x l => [x.a l]) ∧
    x.outrun s (x.mine s) (x.f.b.toNat % 16) = true) (fun x => some (x.f.b.toNat % 16)) :=
  waitsInTurn_of (execThopen.eq_def o) (fun _ _ ⟨ht, ha, ho⟩ => (once_alike ha ht).trans (inTurn_outrun ho _))

theorem thdesc_stores (o : MForm) (s : State) (x : Iss) (u : State) (loc : Loc) (leaf : Nat) (v : State) (ls : List Nat)
    (hr : Ready (.thdesc o) s x) (ht : x.teamed (x.moved s)) (ha : x.alike (fun x l => [x.d l, x.a l]))
    (hb : ((x.moved s).team (x.mine (x.moved s))).handleBad (x.d x.low) = none)
    (ho : x.outrun (x.moved s) (x.mine (x.moved s)) (x.d x.low % 16) = false)
    (hp : (x.moved s).atomPending x.g.core x.g.slot x.ex = false)
    (hc : x.checkOnce (x.moved s) { wr := true, align := 64, size := 64 } (x.ea false 64 x.low) = (u, .ok loc leaf)) :
    let words := tileWords (((x.moved s).team (x.mine (x.moved s))).handle (x.d x.low % 16)).desc
    x.store u false 64 [{ lane := { l := x.low, ea := x.ea false 64 x.low, loc := loc, leaf := leaf }, bytes := ((words.map (leBytes 8)).flatten.zipIdx).map (fun b => { loc := loc.add b.2, val := b.1, lane := x.low }) }] = some (v, ls) →
    exec (.thdesc o) s = .next (x.settled v) := by
  intro words hst
  have hbody : descBody x (x.moved s) = .done v x.ex := by
    unfold descBody
    rw [withHandle_goes (v := Iss.d) ht ha hb ho]
    dsimp only
    rw [hp, if_neg Bool.false_ne_true, hc]
    dsimp only
    rw [show tileWords (((x.moved s).team (x.mine (x.moved s))).handle (x.d x.low % 16)).desc = words from rfl, hst]
    rfl
  exact exec_done (execThdesc.eq_def o) hr hbody

/-! ### thsplit (07 R230) -/

/-- A piece has the index `j`: each of its ranges has the part of its dimension. -/
def Piece.has (p : Piece) (j : List Nat) : Prop :=
  ∀ n, n < p.length → (p.getD n (0, 0)).1 ≤ j.getD n 0 ∧ j.getD n 0 < (p.getD n (0, 0)).2

theorem has_pieceSet {p : Piece} {k : Nat} (hk : k < p.length) (lo hi : Nat) (j : List Nat) :
    (pieceSet p k lo hi).has j ↔ (∀ n, n < p.length → n ≠ k → (p.getD n (0, 0)).1 ≤ j.getD n 0 ∧ j.getD n 0 < (p.getD n (0, 0)).2) ∧
      lo ≤ j.getD k 0 ∧ j.getD k 0 < hi := by
  have hset : ∀ n, (pieceSet p k lo hi).getD n (0, 0) = if n = k then (lo, hi) else p.getD n (0, 0) := by
    intro n
    simp only [pieceSet, List.getD_eq_getElem?_getD, List.getElem?_set]
    by_cases h : n = k
    · subst h; simp [hk]
    · simp [h, Ne.symm h]
  have hlen : (pieceSet p k lo hi).length = p.length := List.length_set
  unfold Piece.has
  simp only [hset, hlen]
  constructor
  · intro h
    refine ⟨fun n hn hne => ?_, ?_⟩
    · simpa [hne] using h n hn
    · simpa using h k hk
  · rintro ⟨h1, h2⟩ n hn
    by_cases h : n = k
    · subst h; simpa using h2
    · simpa [h] using h1 n hn h

theorem pieceEmpty_of_has {p : Piece} {j : List Nat} (h : p.has j) : pieceEmpty p = false := by
  refine List.any_eq_false.2 (fun r hr => ?_)
  obtain ⟨n, hn, rfl⟩ := List.mem_iff_getElem.1 hr
  have := h n hn
  rw [List.getD_eq_getElem _ _ hn] at this
  simpa using lt_of_le_of_lt this.1 this.2

theorem has_split {p : Piece} {k : Nat} (hk : k < p.length) (j : List Nat) :
    p.has j ↔ (∀ n, n < p.length → n ≠ k → (p.getD n (0, 0)).1 ≤ j.getD n 0 ∧ j.getD n 0 < (p.getD n (0, 0)).2) ∧
      (p.getD k (0, 0)).1 ≤ j.getD k 0 ∧ j.getD k 0 < (p.getD k (0, 0)).2 := by
  refine ⟨fun h => ⟨fun n hn _ => h n hn, h k hk⟩, fun ⟨h1, h2⟩ n hn => ?_⟩
  by_cases h : n = k
  · exact h ▸ h2
  · exact h1 n hn h

/-- The part of a piece that stays has its indices below the cut. -/
theorem pieceCut_lower {p : Piece} {k : Nat} (hk : k < p.length) (i : Nat) (j : List Nat) :
    (∃ q ∈ (pieceCut p k i).1, q.has j) ↔ p.has j ∧ j.getD k 0 < i := by
  have hcut : (∃ q ∈ (pieceCut p k i).1, q.has j) ↔
      (pieceSet p k (p.getD k (0, 0)).1 (min (p.getD k (0, 0)).2 i)).has j := by
    simp only [pieceCut, List.mem_filter, List.mem_singleton, Bool.not_eq_true']
    exact ⟨fun ⟨q, ⟨hq, _⟩, hj⟩ => hq ▸ hj, fun h => ⟨_, ⟨rfl, pieceEmpty_of_has h⟩, h⟩⟩
  rw [hcut, has_pieceSet hk, has_split hk j, lt_min_iff]
  tauto

/-- The part that moves has the others, counted from the cut. -/
theorem pieceCut_upper {p : Piece} {k : Nat} (hk : k < p.length) (i : Nat) {j : List Nat} (hj : j.length = p.length) :
    (∃ q ∈ (pieceCut p k i).2, q.has j) ↔ p.has (j.set k (j.getD k 0 + i)) := by
  have hcut : (∃ q ∈ (pieceCut p k i).2, q.has j) ↔
      (pieceSet p k (max (p.getD k (0, 0)).1 i - i) ((p.getD k (0, 0)).2 - i)).has j := by
    simp only [pieceCut, List.mem_filter, List.mem_singleton, Bool.and_eq_true, Bool.not_eq_true', decide_eq_true_eq]
    refine ⟨fun ⟨q, ⟨hq, _⟩, hj⟩ => hq ▸ hj, fun h => ⟨_, ⟨rfl, pieceEmpty_of_has h, ?_⟩, h⟩⟩
    have := ((has_pieceSet hk _ _ j).1 h).2
    omega
  have hother : ∀ n, n ≠ k → (j.set k (j.getD k 0 + i)).getD n 0 = j.getD n 0 := fun n hn => by
    simp only [List.getD_eq_getElem?_getD, List.getElem?_set_ne (Ne.symm hn)]
  have hself : (j.set k (j.getD k 0 + i)).getD k 0 = j.getD k 0 + i := by
    rw [List.getD_eq_getElem?_getD, List.getElem?_set_self (by omega)]
    rfl
  rw [hcut, has_pieceSet hk, has_split hk, hself]
  refine and_congr (forall_congr' fun n => forall_congr' fun _ => forall_congr' fun hn => by rw [hother n hn]) ?_
  omega

theorem exists_has_flatten (ps : List Piece) (f : Piece → List Piece) (j : List Nat) :
    (∃ q ∈ (ps.map f).flatten, q.has j) ↔ ∃ p ∈ ps, ∃ q ∈ f p, q.has j := by
  simp only [List.mem_flatten, List.mem_map]
  exact ⟨fun ⟨q, ⟨_, ⟨p, hp, he⟩, hq⟩, hj⟩ => ⟨p, hp, q, he ▸ hq, hj⟩, fun ⟨p, hp, q, hq, hj⟩ => ⟨q, ⟨_, ⟨p, hp, rfl⟩, hq⟩, hj⟩⟩

/-- 07 R230: the indices of the outermost dimension below the cut stay, the others move. -/
theorem splitHandle_pieces (h m : Handle) (i : Nat) (idx : List Nat) (h0 : 0 < h.desc.ext.length)
    (hidx : idx.length = h.desc.ext.length) (hps : ∀ p ∈ h.pieces, p.length = h.desc.ext.length) :
    let k := h.desc.ext.length - 1
    ((∃ q ∈ (splitHandle h m i).1.pieces, q.has idx) ↔ (∃ p ∈ h.pieces, p.has idx) ∧ idx.getD k 0 < i) ∧
    ((∃ q ∈ (splitHandle h m i).2.pieces, q.has idx) ↔ ∃ p ∈ h.pieces, p.has (idx.set k (idx.getD k 0 + i))) := by
  intro k
  have hk : ∀ p ∈ h.pieces, k < p.length := fun p hp => by rw [hps p hp]; omega
  have hlower : (splitHandle h m i).1.pieces = (h.pieces.map (fun p => (pieceCut p k i).1)).flatten :=
    congrArg List.flatten List.map_map
  have hupper : (splitHandle h m i).2.pieces = (h.pieces.map (fun p => (pieceCut p k i).2)).flatten :=
    congrArg List.flatten List.map_map
  rw [hlower, hupper, exists_has_flatten, exists_has_flatten]
  constructor
  · calc (∃ p ∈ h.pieces, ∃ q ∈ (pieceCut p k i).1, q.has idx) ↔ ∃ p ∈ h.pieces, p.has idx ∧ idx.getD k 0 < i :=
        exists_congr (fun p => and_congr_right (fun hp => pieceCut_lower (hk p hp) i idx))
      _ ↔ (∃ p ∈ h.pieces, p.has idx) ∧ idx.getD k 0 < i := by
        simp only [← and_assoc, exists_and_right]
  · exact exists_congr (fun p => and_congr_right (fun hp => pieceCut_upper (hk p hp) i (hidx.trans (hps p hp).symm)))

theorem trimSlice_few {s : State} {sl : Nat} (h : (s.dirs.filter (fun d => d.slice = sl)).length ≤ 64) : s.trimSlice sl = s := by
  refine foldl_same _ s _ (fun _ _ => ?_)
  dsimp only
  split
  · rename_i d rest he
    rw [he, List.length_cons] at h
    exact if_neg (by omega)
  · rfl

theorem trimWaits_few {s : State} {sl : Nat} (h : (s.dirs.filter (fun d => d.slice = sl)).length ≤ 64) : s.trimWaits sl = false := by
  unfold State.trimWaits
  dsimp only
  rw [Nat.sub_eq_zero_of_le h]
  rfl

/-- What thsplit asks of its operands: a handle value that passes its check, a cut inside the outermost dimension, and a
closed upper index. -/
structure Iss.splits (x : Iss) (s : State) : Prop where
  teamed : x.teamed s
  alike : x.alike (fun x l => [x.a l, x.b l])
  good : (s.team (x.mine s)).handleBad (x.a x.low) = none
  turn : x.outrun s (x.mine s) (x.a x.low % 16) = false
  pos : 0 < x.b x.low
  inside : x.b x.low < ((s.team (x.mine s)).handle (x.a x.low % 16)).desc.ext.getD (((s.team (x.mine s)).handle (x.a x.low % 16)).desc.ext.length - 1) 0
  upperTurn : x.outrun s (x.mine s) (x.f.c.toNat % 16) = false
  upperClosed : ((s.team (x.mine s)).handle (x.f.c.toNat % 16)).opened = false

theorem splitBody_done {x : Iss} {s : State} (h : x.splits s) (hw : ∀ k ∈ (x.splitIn s).2, (x.splitIn s).1.trimWaits k = false) :
    splitBody x s = .done (x.giveAll ((x.splitIn s).2.foldl State.trimSlice (x.splitIn s).1)
      (((s.team (x.mine s)).handle (x.f.c.toNat % 16)).gen * 16 + x.f.c.toNat % 16)) x.ex := by
  have hany : (x.splitIn s).2.any (x.splitIn s).1.trimWaits = false := List.any_eq_false.2 (fun k hk => by rw [hw k hk]; exact Bool.false_ne_true)
  unfold splitBody
  rw [withHandle_goes (v := Iss.a) h.teamed h.alike h.good h.turn]
  dsimp only
  rw [if_neg (not_or.2 ⟨h.pos.ne', not_le.2 h.inside⟩), h.upperTurn, h.upperClosed, if_neg Bool.false_ne_true, if_neg Bool.false_ne_true]
  unfold Iss.splitIn at hany
  dsimp only at hany
  rw [hany]
  rfl

theorem sameWeaves_splitIn (x : Iss) (s : State) : SameWeaves s (x.splitIn s).1 :=
  ((sameWeaves_modHandle s _ _ _).trans (sameWeaves_modHandle _ _ _ _)).trans (sameWeaves_of rfl rfl rfl)

theorem thsplit_does (o : AForm) : Does (.thsplit o) (fun x s => x.teamed s ∧ x.alike (fun x l => [x.a l, x.b l]) ∧
      (s.team (x.mine s)).handleBad (x.a x.low) = none ∧ x.outrun s (x.mine s) (x.a x.low % 16) = false ∧ 0 < x.b x.low ∧
      x.b x.low < ((s.team (x.mine s)).handle (x.a x.low % 16)).desc.ext.getD (((s.team (x.mine s)).handle (x.a x.low % 16)).desc.ext.length - 1) 0 ∧ x.outrun s (x.mine s) (x.f.c.toNat % 16) = false ∧
      ((s.team (x.mine s)).handle (x.f.c.toNat % 16)).opened = false ∧ ∀ k ∈ (x.splitIn s).2, (x.splitIn s).1.trimWaits k = false)
    (fun x s => x.giveAll ((x.splitIn s).2.foldl State.trimSlice (x.splitIn s).1) (((s.team (x.mine s)).handle (x.f.c.toNat % 16)).gen * 16 + x.f.c.toNat % 16)) :=
  does_of (execThsplit.eq_def o) (fun _ _ ⟨ht, ha, hb, ho, h0, he, hm, hop, hw⟩ => splitBody_done ⟨ht, ha, hb, ho, h0, he, hm, hop⟩ hw)

theorem thsplit_acts (o : AForm) : Acts (.thsplit o) (fun x s => x.teamed s ∧ x.alike (fun x l => [x.a l, x.b l]) ∧
      (s.team (x.mine s)).handleBad (x.a x.low) = none ∧ x.outrun s (x.mine s) (x.a x.low % 16) = false ∧ 0 < x.b x.low ∧
      x.b x.low < ((s.team (x.mine s)).handle (x.a x.low % 16)).desc.ext.getD (((s.team (x.mine s)).handle (x.a x.low % 16)).desc.ext.length - 1) 0 ∧ x.outrun s (x.mine s) (x.f.c.toNat % 16) = false ∧
      ((s.team (x.mine s)).handle (x.f.c.toNat % 16)).opened = false ∧ ∀ k ∈ (x.splitIn s).2, ((x.splitIn s).1.dirs.filter (fun d => d.slice = k)).length ≤ 64)
    (gives fun x s => ((s.team (x.mine s)).handle (x.f.c.toNat % 16)).gen * 16 + x.f.c.toNat % 16)
    (fun x s => x.giveAll (x.splitIn s).1 (((s.team (x.mine s)).handle (x.f.c.toNat % 16)).gen * 16 + x.f.c.toNat % 16)) := by
  refine acts_gives (eff := fun x s => (x.splitIn s).1) (execThsplit.eq_def o)
    (fun x s ⟨ht, ha, hb, ho, h0, he, hm, hop, hw⟩ => ?_) (fun x s _ => sameWeaves_splitIn x s)
  rw [splitBody_done ⟨ht, ha, hb, ho, h0, he, hm, hop⟩ (fun k hk => trimWaits_few (hw k hk)),
    foldl_same State.trimSlice _ _ (fun k hk => trimSlice_few (hw k hk))]

/-! ### threl, thdown, thwb and thclose (07 R232, R233) -/

/-- Accesses before the word that have still to be performed, or a command that writes the tile under tenure. -/
def Iss.unreleased (x : Iss) (s : State) : Bool :=
  !s.drained x.g.core x.g.slot || s.atomPending x.g.core x.g.slot x.ex ||
    (((s.team (x.mine s)).handle (x.a x.low % 16)).mode != 0 && s.boundBusy x.g.core (x.mine s) (x.a x.low % 16))

theorem unreleased_eq_false {x : Iss} {s : State} (hd : s.drained x.g.core x.g.slot = true)
    (hp : s.atomPending x.g.core x.g.slot x.ex = false)
    (hb : ((s.team (x.mine s)).handle (x.a x.low % 16)).mode ≠ 0 → s.boundBusy x.g.core (x.mine s) (x.a x.low % 16) = false) :
    x.unreleased s = false := by
  rw [Iss.unreleased, hd, hp]
  by_cases hm : ((s.team (x.mine s)).handle (x.a x.low % 16)).mode = 0
  · simp [hm]
  · simp [hb hm]

theorem unreleased_eq_true {x : Iss} {s : State} (h : s.drained x.g.core x.g.slot = false ∨
    s.atomPending x.g.core x.g.slot x.ex = true ∨ ((s.team (x.mine s)).handle (x.a x.low % 16)).mode ≠ 0 ∧
      s.boundBusy x.g.core (x.mine s) (x.a x.low % 16) = true) : x.unreleased s = true := by
  simpa [Iss.unreleased, or_assoc] using h

theorem releaseBody_turn {h : State → Nat → Nat → State} {x : Iss} {s : State} (ht : x.teamed s) (ha : x.alike (fun x l => [x.a l]))
    (hb : (s.team (x.mine s)).handleBad (x.a x.low) = none) (ho : x.outrun s (x.mine s) (x.a x.low % 16) = false) :
    releaseBody h x s = x.inPlace (some (x.a x.low % 16)) (if x.unreleased s then .wait s
      else .done (h s (x.mine s) (x.a x.low % 16)) x.ex) :=
  withHandle_goes (v := Iss.a) ht ha hb ho

section
variable {i : Instr} {h : State → Nat → Nat → State} (hx : ∀ s, exec i s = issue i (releaseBody h) s)
include hx

theorem release_acts (hs : ∀ s y n, SameWeaves s (h s y n)) :
    Acts i (fun x s => x.teamed s ∧ x.alike (fun x l => [x.a l]) ∧ (s.team (x.mine s)).handleBad (x.a x.low) = none ∧
      x.outrun s (x.mine s) (x.a x.low % 16) = false ∧ s.drained x.g.core x.g.slot = true ∧ s.atomPending x.g.core x.g.slot x.ex = false ∧
      (((s.team (x.mine s)).handle (x.a x.low % 16)).mode ≠ 0 → s.boundBusy x.g.core (x.mine s) (x.a x.low % 16) = false)) still
    (fun x s => h s (x.mine s) (x.a x.low % 16)) := by
  refine acts_still hx (fun x s ⟨ht, ha, hb, ho, hd, hp, hf⟩ => ?_) (fun _ _ _ => hs _ _ _)
  rw [releaseBody_turn ht ha hb ho, unreleased_eq_false hd hp hf]
  rfl

theorem release_waits : WaitsInTurn i (fun x s => x.teamed s ∧ x.alike (fun x l => [x.a l]) ∧
      (s.team (x.mine s)).handleBad (x.a x.low) = none ∧
      x.outrun s (x.mine s) (x.a x.low % 16) = false ∧ (s.drained x.g.core x.g.slot = false ∨ s.atomPending x.g.core x.g.slot x.ex = true ∨
      ((s.team (x.mine s)).handle (x.a x.low % 16)).mode ≠ 0 ∧ s.boundBusy x.g.core (x.mine s) (x.a x.low % 16) = true))
    (fun x => some (x.a x.low % 16)) := by
  refine waitsInTurn_of hx (fun x s ⟨ht, ha, hb, ho, hw⟩ => ?_)
  rw [releaseBody_turn ht ha hb ho, unreleased_eq_true hw]
  rfl
end

/-- A slot bound to the index that a command fills or drains. -/
def Iss.boundMoving (x : Iss) (s : State) : Bool :=
  ((s.team (x.mine s)).boundSlots (x.a x.low % 16)).any (fun k => ((s.team (x.mine s)).tslot k).moving)

theorem closeBody_turn {x : Iss} {s : State} (ht : x.teamed s) (ha : x.alike (fun x l => [x.a l]))
    (hb : (s.team (x.mine s)).handleBad (x.a x.low) = none) (ho : x.outrun s (x.mine s) (x.a x.low % 16) = false) :
    closeBody x s = x.inPlace (some (x.a x.low % 16)) (if x.unreleased s || x.boundMoving s then .wait s
      else .done (s.closeHandle (x.mine s) (x.a x.low % 16)) x.ex) :=
  withHandle_goes (v := Iss.a) ht ha hb ho

theorem thclose_acts (o : AForm) : Acts (.thclose o) (fun x s => x.teamed s ∧ x.alike (fun x l => [x.a l]) ∧ (s.team (x.mine s)).handleBad (x.a x.low) = none ∧
      x.outrun s (x.mine s) (x.a x.low % 16) = false ∧ s.drained x.g.core x.g.slot = true ∧ s.atomPending x.g.core x.g.slot x.ex = false ∧
      (((s.team (x.mine s)).handle (x.a x.low % 16)).mode ≠ 0 → s.boundBusy x.g.core (x.mine s) (x.a x.low % 16) = false) ∧
      ∀ k ∈ (s.team (x.mine s)).boundSlots (x.a x.low % 16), ((s.team (x.mine s)).tslot k).moving = false) still
    (fun x s => s.closeHandle (x.mine s) (x.a x.low % 16)) := by
  refine acts_still (execThclose.eq_def o) (fun x s ⟨ht, ha, hb, ho, hd, hp, hf, hm⟩ => ?_) (fun _ _ _ => sameWeaves_closeHandle _ _ _)
  have hmoving : x.boundMoving s = false := List.any_eq_false.2 (fun k hk => by rw [hm k hk]; exact Bool.false_ne_true)
  rw [closeBody_turn ht ha hb ho, unreleased_eq_false hd hp hf, hmoving]
  rfl

theorem thclose_waits (o : AForm) : WaitsInTurn (.thclose o) (fun x s => x.teamed s ∧ x.alike (fun x l => [x.a l]) ∧
      (s.team (x.mine s)).handleBad (x.a x.low) = none ∧
      x.outrun s (x.mine s) (x.a x.low % 16) = false ∧ (s.drained x.g.core x.g.slot = false ∨ s.atomPending x.g.core x.g.slot x.ex = true ∨
      ((s.team (x.mine s)).handle (x.a x.low % 16)).mode ≠ 0 ∧ s.boundBusy x.g.core (x.mine s) (x.a x.low % 16) = true))
    (fun x => some (x.a x.low % 16)) := by
  refine waitsInTurn_of (execThclose.eq_def o) (fun x s ⟨ht, ha, hb, ho, hw⟩ => ?_)
  rw [closeBody_turn ht ha hb ho, unreleased_eq_true hw]
  rfl

/-- Settles O32, instruction by instruction. -/
theorem tileHandlesOpenSplitClose : Obligations.TileHandlesOpenSplitClose :=
  ⟨thopen_opens, thopen_raises, thopen_waitsInTurn, thdesc_stores, fun ws d hn _ => tileWords_tileOfWords ws d hn, thsplit_does, thsplit_acts,
    fun h m i idx h0 hidx hps => splitHandle_pieces h m i idx h0 hidx hps,
    fun o => release_acts (i := .threl o) (execThrel.eq_def o) sameWeaves_dropTenure,
    fun o => release_acts (i := .thdown o) (execThdown.eq_def o) (fun _ _ _ => sameWeaves_modHandle _ _ _ _),
    fun o => release_acts (i := .thwb o) (execThwb.eq_def o) (fun s _ _ => .rfl' s), thclose_acts,
    fun o => release_waits (i := .threl o) (execThrel.eq_def o), fun o => release_waits (i := .thdown o) (execThdown.eq_def o),
    fun o => release_waits (i := .thwb o) (execThwb.eq_def o), thclose_waits,
    fun o => withHandle_waitsInTurn (i := .threl o) (v := Iss.a) (execThrel.eq_def o),
    fun o => withHandle_waitsInTurn (i := .thdown o) (v := Iss.a) (execThdown.eq_def o),
    fun o => withHandle_waitsInTurn (i := .thwb o) (v := Iss.a) (execThwb.eq_def o),
    fun o => withHandle_waitsInTurn (i := .thclose o) (v := Iss.a) (execThclose.eq_def o),
    fun s y n hy => ⟨dropTenure_handle hy n, closeHandle_handle hy n, closeHandle_tslot hy n, closeHandle_dirs s y n⟩,
    handleBad_eq,
    fun o => withHandle_raises (i := .threl o) (v := Iss.a) (execThrel.eq_def o),
    fun o => withHandle_raises (i := .thdown o) (v := Iss.a) (execThdown.eq_def o),
    fun o => withHandle_raises (i := .thwb o) (v := Iss.a) (execThwb.eq_def o),
    fun o => withHandle_raises (i := .thclose o) (v := Iss.a) (execThclose.eq_def o),
    fun o => withHandle_raises (i := .thsplit o) (v := Iss.a) (execThsplit.eq_def o),
    fun o => withHandle_raises (i := .thdesc o) (v := Iss.d) (execThdesc.eq_def o)⟩

end Sys2Proof.Machine
end

section
/-! SUPPORT. Tenure requests and their grants, slots bound to a handle, handle state and probes (07 R231, R235 to R244). -/

namespace Sys2Proof.Machine

/-! ### thacq (07 R231) -/

theorem dirs_settled (x : Iss) (u : State) : (x.settled u).dirs = u.dirs := (congrArg State.dirs (settled_frame x u) :)
theorem dirReqs_settled (x : Iss) (u : State) : (x.settled u).dirReqs = u.dirReqs := (congrArg State.dirReqs (settled_frame x u) :)

section
variable {x : Iss} {s : State}

theorem acquireBody_asked {r : DirReq} (ht : x.teamed s) (ha : x.alike (fun x l => [x.a l]))
    (hf : s.dirReqs.find? (x.myReq (x.mine s) (x.a x.low % 16)) = some r) :
    acquireBody x s = x.inPlace (some (x.a x.low % 16))
      (if r.pages.isEmpty then .done { s with dirReqs := s.dirReqs.filter (fun q => q != r) } x.ex else .wait s) := by
  unfold acquireBody
  rw [once_alike ha ht, hf]

theorem acquireBody_new (ht : x.teamed s) (ha : x.alike (fun x l => [x.a l]))
    (hf : s.dirReqs.find? (x.myReq (x.mine s) (x.a x.low % 16)) = none) :
    acquireBody x s = once (fun x l => [x.a l]) (withHandle Iss.a askTenure) x s := by
  unfold acquireBody
  rw [once_alike ha ht, once_alike ha ht, hf]
end

theorem thacq_completes (o : AForm) (s : State) (x : Iss) (r : DirReq) (hr : Ready (.thacq o) s x) (ht : x.teamed (x.moved s))
    (ha : x.alike (fun x l => [x.a l])) (hf : (x.moved s).dirReqs.find? (x.myReq (x.mine (x.moved s)) (x.a x.low % 16)) = some r)
    (hp : r.pages = []) : ∃ t, exec (.thacq o) s = .next t ∧ Stands s x (fun _ => {}) t ∧
      t.dirReqs = s.dirReqs.filter (fun q => q != r) ∧ t.dirs = s.dirs := by
  have hb : acquireBody x (x.moved s) =
      .done { x.moved s with dirReqs := (x.moved s).dirReqs.filter (fun q => q != r) } x.ex := by
    rw [acquireBody_asked ht ha hf, hp]; rfl
  refine ⟨x.settled { x.moved s with dirReqs := (x.moved s).dirReqs.filter (fun q => q != r) }, exec_done (execThacq.eq_def o) hr hb,
    stands_unit (ready_nodup hr) (ready_ex_nodup hr) (ready_sub hr) (sameWeaves_of rfl rfl rfl), dirReqs_settled _ _, dirs_settled _ _⟩

theorem thacq_posts (o : AForm) (s : State) (x : Iss) (u : State) (ps : List TilePage) (hr : Ready (.thacq o) s x)
    (ht : x.teamed (x.moved s)) (ha : x.alike (fun x l => [x.a l])) :
    let y := x.mine (x.moved s)
    let n := x.a x.low % 16
    let wr := x.f.c.getLsbD 0 || ((x.moved s).team y |>.handle n).mode == 2
    ((x.moved s).team y).handleBad (x.a x.low) = none → (∀ r ∈ s.dirReqs, ¬ (r.team = y ∧ r.handle = n)) →
    x.outrun (x.moved s) y n = false →
    x.tilePages (x.moved s) (x.f.c.getLsbD 0) (((x.moved s).team y).handle n).desc = .ok (u, ps) →
    exec (.thacq o) s = .next (x.unrun (State.hold (x.note { u with dirReqs := u.dirReqs ++
      [{ core := x.g.core, slot := x.g.slot, pc := x.g.pc, team := y, handle := n, write := wr, pages := ps }] } x.ex
        (fun _ => none) (some n)) x.g x.g.lanes) x.g.lanes) := by
  intro y n wr hb hno ho hpg
  have hf : (x.moved s).dirReqs.find? (x.myReq y n) = none := List.find?_eq_none.2 (fun r hm hq => by
    simp only [Iss.myReq, Bool.and_eq_true, beq_iff_eq] at hq
    exact hno r hm hq.1.1)
  have hask : askTenure x (x.moved s) y x.low = .wait { u with dirReqs := u.dirReqs ++
      [{ core := x.g.core, slot := x.g.slot, pc := x.g.pc, team := y, handle := n, write := wr, pages := ps }] } := by
    unfold askTenure
    dsimp only
    rw [hpg]
  rw [show exec (.thacq o) s = issue (.thacq o) acquireBody s from rfl, issue_go _ hr, show s.advance x.g x.words = x.moved s from rfl,
    acquireBody_new ht ha hf, withHandle_goes (v := Iss.a) ht ha hb ho, hask]
  rfl

theorem thacq_waitsForPages (o : AForm) : WaitsInTurn (.thacq o) (fun x s => x.teamed s ∧ x.alike (fun x l => [x.a l]) ∧
    ∃ r, s.dirReqs.find? (x.myReq (x.mine s) (x.a x.low % 16)) = some r ∧ r.pages ≠ []) (fun x => some (x.a x.low % 16)) := by
  refine waitsInTurn_of (execThacq.eq_def o) (fun x s ⟨ht, ha, r, hf, hp⟩ => ?_)
  rw [acquireBody_asked ht ha hf, if_neg (by simpa using hp)]
  rfl

theorem thacq_waitsInTurn (o : AForm) : WaitsInTurn (.thacq o) (fun x s => x.teamed s ∧ x.alike (fun x l => [x.a l]) ∧
    x.outrun s (x.mine s) (x.a x.low % 16) = true ∧ s.dirReqs.find? (x.myReq (x.mine s) (x.a x.low % 16)) = none)
    (fun x => some (x.a x.low % 16)) :=
  waitsInTurn_of (execThacq.eq_def o) (fun _ _ ⟨ht, ha, ho, hf⟩ =>
    (acquireBody_new ht ha hf).trans (withHandle_waits (v := Iss.a) ht ha ho))

/-! ### The directory of a page (07 R238, R240, R244) -/

section
variable {s : State} {r : DirReq} {p : TilePage}

theorem meet_false {a n b m : Nat} (h : ¬ (a < b + m ∧ b < a + n)) : meet a n b m = false := decide_eq_false h

/-- No record of another team meets the page. -/
theorem rivals_nil (h : ∀ d ∈ s.dirs, d.team ≠ r.team → ¬ (d.page.pa < p.pa + 2 ^ p.bits ∧ p.pa < d.page.pa + 2 ^ d.page.bits)) :
    s.rivals r p = [] := by
  refine List.filter_eq_nil_iff.2 (fun d hd hc => ?_)
  simp only [Bool.and_eq_true, bne_iff_ne] at hc
  rw [meet_false (h d hd hc.1)] at hc
  exact Bool.false_ne_true hc.2

theorem splitWaits_free (h : s.rivals r p = []) (q : TileDesc) : s.splitWaits r q p = false := by
  rw [State.splitWaits, h]; rfl

theorem splitOthers_free (h : s.rivals r p = []) (q : TileDesc) : s.splitOthers r q p = s.pruneDirs := by
  rw [State.splitOthers, h]; rfl

theorem fullWaits_few (h : (s.dirs.filter (fun d => d.slice = dirSlice p.pa)).length < 63) : s.fullWaits p = false := by
  unfold State.fullWaits
  split
  · rename_i d rest he
    rw [he, List.length_cons] at h
    rw [decide_eq_false (by omega)]; rfl
  · rfl

/-- The records but for that of the handle on this page. -/
def State.otherDirs (s : State) (r : DirReq) (p : TilePage) : List DirRec :=
  s.dirs.filter (fun d => !(d.team = r.team && d.handle = r.handle && d.page = p))

/-- What the first grant gives a handle (log entry 33). -/
def DirReq.grant (r : DirReq) (h : Handle) : Handle :=
  if r.begun then h else { h with mode := (if r.write then 2 else 1), pieces := [tileWhole h.desc], lost := false }

/-- A slice with room grants a page without a recall. -/
theorem grantPage_few (h : (s.dirs.filter (fun d => d.slice = dirSlice p.pa)).length < 63) :
    s.grantPage r p = { State.modHandle { s with dirs := s.otherDirs r p } r.team r.handle r.grant with
      dirs := s.otherDirs r p ++ [{ slice := dirSlice p.pa, team := r.team, handle := r.handle, page := p }] } := by
  have hlen : ((s.otherDirs r p).filter (fun d => d.slice = dirSlice p.pa)).length < 63 :=
    lt_of_le_of_lt ((List.filter_sublist.filter _).length_le) h
  unfold State.grantPage
  extract_lets sl u v w
  have hv : v = u := by
    simp only [v]
    split
    · rename_i d rest he
      rw [show u.dirs.filter (fun d => d.slice = sl) = (s.otherDirs r p).filter (fun d => d.slice = dirSlice p.pa) from rfl] at he
      rw [he, List.length_cons] at hlen
      exact if_neg (by omega)
    · rfl
  have hw : w = u.modHandle r.team r.handle r.grant := congrArg (fun z : State => z.modHandle r.team r.handle r.grant) hv
  rw [hw, dirs_modHandle]
  rfl

theorem team_pruneDirs (s : State) (y : Nat) : s.pruneDirs.team y = s.team y := team_of_tab rfl y

/-- A page with no rival, in a slice with room, is granted (07 R244). -/
theorem tileDirectory_grants (idx : Nat) (s : State) (r : DirReq) (p : TilePage) (ps : List TilePage) (hi : s.dirReqs[idx]? = some r)
    (hp : r.pages = p :: ps) (hy : (s.findTeam r.team).isSome = true)
    (hq : ∀ q ∈ s.dirReqs.take idx, ∀ o ∈ q.pages, ¬ (o.pa < p.pa + 2 ^ p.bits ∧ p.pa < o.pa + 2 ^ o.bits))
    (hd : ∀ d ∈ s.dirs, d.team ≠ r.team → ¬ (d.page.pa < p.pa + 2 ^ p.bits ∧ p.pa < d.page.pa + 2 ^ d.page.bits))
    (hl : (s.dirs.filter (fun d => d.slice = dirSlice p.pa)).length < 63) :
    ∃ t, exec (.tileDirectoryRequest idx) s = .next t ∧ (∀ pa, t.memByte pa = s.memByte pa) ∧
      t.dirReqs = s.dirReqs.set idx { r with pages := ps, begun := true } ∧
      { slice := dirSlice p.pa, team := r.team, handle := r.handle, page := p } ∈ t.dirs ∧
      (t.team r.team).handle r.handle = (if r.begun then (s.team r.team).handle r.handle
        else { (s.team r.team).handle r.handle with mode := (if r.write then 2 else 1), pieces := [tileWhole ((s.team r.team).handle r.handle).desc], lost := false }) ∧
      ∀ k, k ≠ r.handle → (t.team r.team).handle k = (s.team r.team).handle k := by
  have hearlier : (s.dirReqs.take idx).any (fun q => q.pages.any (fun o => meet o.pa (2 ^ o.bits) p.pa (2 ^ p.bits))) = false :=
    List.any_eq_false.2 (fun q hm => by
      rw [List.any_eq_false.2 (fun o ho => by rw [meet_false (hq q hm o ho)]; exact Bool.false_ne_true)]; exact Bool.false_ne_true)
  have hr := rivals_nil hd
  have hl' : (s.pruneDirs.dirs.filter (fun d => d.slice = dirSlice p.pa)).length < 63 :=
    lt_of_le_of_lt ((List.filter_sublist.filter _).length_le) hl
  have hgrant : ((s.splitOthers r ((s.team r.team).handle r.handle).desc p).grantPage r p) =
      { State.modHandle { s.pruneDirs with dirs := s.pruneDirs.otherDirs r p } r.team r.handle r.grant with
        dirs := s.pruneDirs.otherDirs r p ++ [{ slice := dirSlice p.pa, team := r.team, handle := r.handle, page := p }] } := by
    rw [splitOthers_free hr, grantPage_few hl']
  have hexec : exec (.tileDirectoryRequest idx) s = .next { s.splitOthers r ((s.team r.team).handle r.handle).desc p |>.grantPage r p with
      dirReqs := ((s.splitOthers r ((s.team r.team).handle r.handle).desc p).grantPage r p).dirReqs.set idx
        { r with pages := ps, begun := true } } := by
    rw [show exec (.tileDirectoryRequest idx) s = execTileDirectoryRequest idx s from rfl, execTileDirectoryRequest, hi]
    dsimp only
    rw [hp]
    dsimp only
    rw [hearlier, splitWaits_free hr, fullWaits_few hl]
    rfl
  rw [hgrant] at hexec
  have hhandle : ∀ k, ((State.modHandle { s.pruneDirs with dirs := s.pruneDirs.otherDirs r p } r.team r.handle r.grant).team r.team).handle k =
      if k = r.handle then r.grant ((s.team r.team).handle r.handle) else (s.team r.team).handle k :=
    handle_modHandle (s := { s.pruneDirs with dirs := s.pruneDirs.otherDirs r p }) hy r.handle r.grant
  refine ⟨_, hexec, (sameWeaves_modHandle _ _ _ _).bytes, ?_, List.mem_append_right _ (List.mem_singleton_self _),
    (hhandle _).trans (if_pos rfl), fun k hk => (hhandle k).trans (if_neg hk)⟩
  exact congrArg (fun q : List DirReq => q.set idx _) (dirReqs_modHandle _ _ _ _)
end

/-! ### Slots bound to a handle (07 R235) -/

section
variable {x : Iss} {s : State}

theorem bindBody_turn (ht : x.teamed s) (ha : x.alike (fun x l => [x.a l])) (hb : (s.team (x.mine s)).handleBad (x.a x.low) = none)
    (ho : x.outrun s (x.mine s) (x.a x.low % 16) = false) :
    bindBody x s = x.inPlace (some (x.a x.low % 16)) (match ((s.team (x.mine s)).tslot (x.f.b.toNat % 64)).bound with
      | some (m, _) => if m = x.a x.low % 16 then .done s x.ex else .trap s [] trapProt 0x17 x.ex
      | none => .done (s.modSlot (x.mine s) (x.f.b.toNat % 64)
          (fun q => { q with bound := some (x.a x.low % 16, x.a x.low / 16 % 256) })) x.ex) :=
  withHandle_goes (v := Iss.a) ht ha hb ho

theorem unbindBody_once (ht : x.teamed s) : unbindBody x s =
    if ((s.team (x.mine s)).tslot (x.f.b.toNat % 64)).bound.isSome && ((s.team (x.mine s)).tslot (x.f.b.toNat % 64)).moving then .wait s
    else .done (if ((s.team (x.mine s)).tslot (x.f.b.toNat % 64)).bound.isSome then
      s.modSlot (x.mine s) (x.f.b.toNat % 64) (fun q => { q with bound := none }) else s) x.ex :=
  once_alike ⟨ht.2, fun _ _ => rfl⟩ ht
end

theorem sameWeaves_modSlot (s : State) (y k : Nat) (g : TileSlot → TileSlot) : SameWeaves s (s.modSlot y k g) :=
  sameWeaves_modTeam s y _

theorem thbind_binds (o : AForm) : Acts (.thbind o) (fun x s => x.teamed s ∧ x.alike (fun x l => [x.a l]) ∧ (s.team (x.mine s)).handleBad (x.a x.low) = none ∧
      x.outrun s (x.mine s) (x.a x.low % 16) = false ∧ ((s.team (x.mine s)).tslot (x.f.b.toNat % 64)).bound = none) still (fun x s =>
      s.modSlot (x.mine s) (x.f.b.toNat % 64) (fun q => { q with bound := some (x.a x.low % 16, x.a x.low / 16 % 256) })) := by
  refine acts_still (execThbind.eq_def o) (fun x s ⟨ht, ha, hb, ho, hs⟩ => ?_) (fun _ _ _ => sameWeaves_modSlot _ _ _ _)
  rw [bindBody_turn ht ha hb ho, hs]
  rfl

theorem thbind_keeps (o : AForm) (g : Nat) : Acts (.thbind o) (fun x s => x.teamed s ∧ x.alike (fun x l => [x.a l]) ∧ (s.team (x.mine s)).handleBad (x.a x.low) = none ∧
      x.outrun s (x.mine s) (x.a x.low % 16) = false ∧ ((s.team (x.mine s)).tslot (x.f.b.toNat % 64)).bound = some (x.a x.low % 16, g)) still
      (fun _ s => s) := by
  refine acts_still (execThbind.eq_def o) (fun x s ⟨ht, ha, hb, ho, hs⟩ => ?_) (fun _ _ _ => .rfl' _)
  rw [bindBody_turn ht ha hb ho, hs]
  exact congrArg (x.inPlace _) (if_pos rfl)

theorem thbind_raises (o : AForm) (m g : Nat) : Raises (.thbind o) (fun x s => x.teamed s ∧ x.alike (fun x l => [x.a l]) ∧ (s.team (x.mine s)).handleBad (x.a x.low) = none ∧
      x.outrun s (x.mine s) (x.a x.low % 16) = false ∧ ((s.team (x.mine s)).tslot (x.f.b.toNat % 64)).bound = some (m, g) ∧
      m ≠ x.a x.low % 16) 8 0x17 (fun x => x.ex) := by
  refine raises_of (execThbind.eq_def o) (fun x s ⟨ht, ha, hb, ho, hs, hm⟩ => ?_)
  rw [bindBody_turn ht ha hb ho, hs]
  exact congrArg (x.inPlace _) (if_neg hm)

theorem thunbind_unbinds (o : AForm) : Acts (.thunbind o) (fun x s => x.teamed s ∧ ((s.team (x.mine s)).tslot (x.f.b.toNat % 64)).bound.isSome = true ∧
      ((s.team (x.mine s)).tslot (x.f.b.toNat % 64)).moving = false) still (fun x s =>
      s.modSlot (x.mine s) (x.f.b.toNat % 64) (fun q => { q with bound := none })) := by
  refine acts_still (execThunbind.eq_def o) (fun x s ⟨ht, hs, hm⟩ => ?_) (fun _ _ _ => sameWeaves_modSlot _ _ _ _)
  rw [unbindBody_once ht, hs, hm]
  rfl

theorem thunbind_leaves (o : AForm) : Acts (.thunbind o) (fun x s => x.teamed s ∧
    ((s.team (x.mine s)).tslot (x.f.b.toNat % 64)).bound = none) still (fun _ s => s) := by
  refine acts_still (execThunbind.eq_def o) (fun x s ⟨ht, hs⟩ => ?_) (fun _ _ _ => .rfl' _)
  rw [unbindBody_once ht, hs]
  rfl

theorem thunbind_waits (o : AForm) : Waits (.thunbind o) (fun x s => x.teamed s ∧ ((s.team (x.mine s)).tslot (x.f.b.toNat % 64)).bound.isSome = true ∧
      ((s.team (x.mine s)).tslot (x.f.b.toNat % 64)).moving = true) := by
  refine waits_of (execThunbind.eq_def o) (fun x s ⟨ht, hs, hm⟩ => ?_)
  rw [unbindBody_once ht, hs, hm]
  rfl

/-! ### Handle state and extents (07 R236) -/

theorem statBody_turn {x : Iss} {s : State} (ht : x.teamed s) (ha : x.alike (fun x l => [x.a l])) :
    statBody x s = x.inTurn s (x.mine s) (x.a x.low % 16) (if x.a x.low / 2 ^ 12 ≠ 0 then .trap s [] trapProt 0x11 x.ex
      else .done (x.giveAll s ((s.team (x.mine s)).handleWord (x.a x.low % 16))) x.ex) := once_alike ha ht

theorem handleWord_eq (y : Team) (n : Nat) : y.handleWord n = (y.handle n).gen * 2 ^ 24 + (y.handle n).pieces.length * 2 ^ 11 +
    (y.handle n).mode * 2 ^ 9 + (if (y.handle n).lost then 2 ^ 8 else 0) + (if y.boundSlots n = [] then 0 else 2 ^ 7) +
      (if (y.handle n).opened then 1 else 0) := by
  have hbit : ∀ (b : Bool) (k : Nat), bit b * k = if b then k else 0 := fun b k => by cases b <;> simp [bit]
  have hslots : bit (!(y.boundSlots n).isEmpty) * 2 ^ 7 = if y.boundSlots n = [] then 0 else 2 ^ 7 := by
    cases y.boundSlots n <;> rfl
  simp only [Team.handleWord]
  rw [hslots, hbit, bit]

theorem thstat_acts (o : AForm) : Acts (.thstat o) (fun x s => x.teamed s ∧ x.alike (fun x l => [x.a l]) ∧ x.a x.low < 2 ^ 12 ∧
      x.outrun s (x.mine s) (x.a x.low % 16) = false) (gives fun x s => (s.team (x.mine s)).handleWord (x.a x.low % 16))
    (fun x s => x.giveAll s ((s.team (x.mine s)).handleWord (x.a x.low % 16))) := by
  refine acts_gives (eff := fun _ s => s) (execThstat.eq_def o) (fun x s ⟨ht, ha, hv, ho⟩ => ?_) (fun _ _ _ => .rfl' _)
  rw [statBody_turn ht ha, inTurn_next ho, if_neg (by omega)]
  rfl

theorem thstat_raises (o : AForm) : Raises (.thstat o) (fun x s => x.teamed s ∧ x.alike (fun x l => [x.a l]) ∧ 2 ^ 12 ≤ x.a x.low ∧
      x.outrun s (x.mine s) (x.a x.low % 16) = false) 8 0x11 (fun x => x.ex) := by
  refine raises_of (execThstat.eq_def o) (fun x s ⟨ht, ha, hv, ho⟩ => ?_)
  rw [statBody_turn ht ha, inTurn_next ho, if_pos (by omega)]
  rfl

theorem thstat_waitsInTurn (o : AForm) : WaitsInTurn (.thstat o) (fun x s => x.teamed s ∧ x.alike (fun x l => [x.a l]) ∧
    x.outrun s (x.mine s) (x.a x.low % 16) = true) (fun x => some (x.a x.low % 16)) :=
  waitsInTurn_of (execThstat.eq_def o) (fun _ _ ⟨ht, ha, ho⟩ => (statBody_turn ht ha).trans (inTurn_outrun ho _))

/-- The extent that thext reads. -/
def Iss.extent (x : Iss) (s : State) : Nat := ((s.team (x.mine s)).handle (x.a x.low % 16)).desc.ext.getD (x.f.c.toNat % 8) 0

/-- One value for d, and a note of a reading in the executing lanes (log entry 80). -/
theorem glance_stands {i : Instr} {s : State} {x : Iss} (hr : Ready i s x) (v : Nat) (g : Glance) :
    Stands s x (fun _ => { reg := some v })
      (x.settled ((x.giveAll (x.moved s) v).modThreads x.g.core x.g.slot x.ex (fun _ u => u.glance g))) := by
  have he := ready_ex_nodup hr
  refine (computed_settled (ready_nodup hr) he (ready_sub hr)
    ((onlyThreads_modThreads _ _ _ _ _ he).trans (onlyThreads_modThreads _ _ _ _ _ he)) (fun l hl => ?_)).stands
  rw [thread_modThreads _ _ _ _ _ _ he, if_pos hl, thread_modThreads _ _ _ _ _ _ he, if_pos hl]
  exact glance_effect (dest_effect x _ v) g

theorem thext_acts (o : AForm) : Acts (.thext o) (fun x s => x.teamed s ∧ x.alike (fun x l => [x.a l]) ∧ (s.team (x.mine s)).handleBad (x.a x.low) = none ∧
      x.outrun s (x.mine s) (x.a x.low % 16) = false) (gives fun x s => x.extent s)
    (fun x s => (x.giveAll s (x.extent s)).modThreads x.g.core x.g.slot x.ex (fun _ u =>
      u.glance (.ext (x.a x.low) (x.f.c.toNat % 8) (x.extent s)))) := by
  intro s x hr ⟨ht, ha, hb, ho⟩
  exact ⟨exec_done (execThext.eq_def o) hr (withHandle_goes (v := Iss.a) ht ha hb ho), glance_stands hr _ _⟩

/-! ### Probes (07 R237) -/

theorem thprobe_gives (o : AForm) (s : State) (x : Iss) (u : State) (loc : Loc) (leaf : Nat) (hr : Ready (.thprobe o) s x)
    (ht : x.teamed (x.moved s)) (ha : x.alike (fun x l => [x.a l]))
    (hc : (x.moved s).check x.agent { rd := true, reach := false } (x.a x.low) = (u, .ok loc leaf)) :
    let hs := ((u.homeOf loc).map (u.holders (u.team (x.mine (x.moved s))).gang)).getD []
    exec (.thprobe o) s = .next (x.settled (x.giveAll u ((hs.map (·.2)).foldl max 0 +
      (if ∃ h ∈ hs, h.1 = x.mine (x.moved s) then 4 else 0)))) := by
  intro hs
  have hb : probeBody x (x.moved s) = .done (x.giveAll u (hs.foldl (fun m h => max m h.2) 0 +
      (if hs.any (fun h => h.1 = x.mine (x.moved s)) then 4 else 0))) x.ex := by
    unfold probeBody
    rw [once_alike ha ht, hc]
  have hany : hs.any (fun h => h.1 = x.mine (x.moved s)) = true ↔ ∃ h ∈ hs, h.1 = x.mine (x.moved s) := by
    simp only [List.any_eq_true, decide_eq_true_eq]
  rw [exec_done (i := .thprobe o) (execThprobe.eq_def o) hr hb, if_congr hany rfl rfl, List.foldl_map]

theorem mem_holders (s : State) (gang pa y m : Nat) : (y, m) ∈ s.holders gang pa ↔ ∃ d ∈ s.dirs, d.team = y ∧ d.page.pa ≤ pa ∧
    pa < d.page.pa + 2 ^ d.page.bits ∧ (s.team y).gang = gang ∧ ((s.team y).handle d.handle).mode = m ∧
      ∃ p ∈ ((s.team y).handle d.handle).pieces, pieceTouch ((s.team y).handle d.handle).desc p
        (d.page.va + (pa - d.page.pa)) (d.page.va + (pa - d.page.pa)) = true := by
  unfold State.holders
  rw [List.mem_filterMap]
  refine exists_congr (fun d => and_congr_right (fun _ => ?_))
  simp only [Option.ite_none_right_eq_some, Option.some.injEq, Prod.mk.injEq, List.any_eq_true]
  constructor
  · rintro ⟨⟨h1, h2, h3, h4⟩, rfl, h5⟩
    exact ⟨rfl, h1, h2, h3, h5, h4⟩
  · rintro ⟨rfl, h1, h2, h3, h5, h4⟩
    exact ⟨⟨h1, h2, h3, h4⟩, rfl, h5⟩

/-- Settles O33, instruction by instruction; the grant of a page is the event of its directory. -/
theorem tenureBindingAndProbes : Obligations.TenureBindingAndProbes :=
  ⟨thacq_completes, thacq_posts, thacq_waitsForPages, tileDirectory_grants, thbind_binds, thbind_keeps, thbind_raises,
    thunbind_unbinds, thunbind_leaves, thunbind_waits,
    fun o => by simpa only [handleWord_eq] using thstat_acts o,
    thext_acts, thprobe_gives, thacq_waitsInTurn,
    fun o => withHandle_waitsInTurn (i := .thbind o) (v := Iss.a) (execThbind.eq_def o),
    fun o => withHandle_waitsInTurn (i := .thext o) (v := Iss.a) (execThext.eq_def o),
    thstat_waitsInTurn, thstat_raises, mem_holders⟩

end Sys2Proof.Machine
end

section
/-! SUPPORT. The 512-bit cell of an exact sum (08 R279, R280): a word and its fields. -/

namespace Sys2Proof.Machine

/-! ### Fields of a number -/

/-- A number from one of its bits on is the field there and what stands above it. -/
theorem bitsAt_join (v lo n : Nat) : v / 2 ^ lo = bitsAt v lo n + 2 ^ n * (v / 2 ^ (lo + n)) := by
  rw [bitsAt, pow_add, ← Nat.div_div_eq_div_mul, Nat.mod_add_div]

theorem bitAt_eq (v n : Nat) : bitAt v n = (bitsAt v n 1 == 1) := rfl

theorem bit_bitAt (v n : Nat) : bit (bitAt v n) = bitsAt v n 1 := by
  have h : bitsAt v n 1 < 2 := Nat.mod_lt _ (by omega)
  rw [bitAt_eq]
  interval_cases bitsAt v n 1 <;> rfl

theorem bit_lt (b : Bool) : bit b < 2 ^ 1 := by cases b <;> decide

theorem bit_beq_one (b : Bool) : (bit b == 1) = b := by cases b <;> rfl

theorem bitsAt_low {a n : Nat} (h : a < 2 ^ n) (q : Nat) : bitsAt (a + 2 ^ n * q) 0 n = a := by
  rw [bitsAt, pow_zero, Nat.div_one, Nat.add_mul_mod_self_left, Nat.mod_eq_of_lt h]

theorem bitsAt_high {a n : Nat} (h : a < 2 ^ n) (q lo m : Nat) (hlo : n ≤ lo) :
    bitsAt (a + 2 ^ n * q) lo m = bitsAt q (lo - n) m := by
  obtain ⟨k, rfl⟩ := Nat.exists_eq_add_of_le hlo
  rw [bitsAt, bitsAt, pow_add, ← Nat.div_div_eq_div_mul, Nat.add_mul_div_left _ _ (by positivity), Nat.div_eq_of_lt h, Nat.zero_add,
    Nat.add_sub_cancel_left]

theorem add_pow_mul_lt {a n q m : Nat} (ha : a < 2 ^ n) (hq : q < 2 ^ m) : a + 2 ^ n * q < 2 ^ (n + m) := by
  rw [pow_add]
  calc a + 2 ^ n * q < 2 ^ n * (q + 1) := by rw [mul_add, mul_one]; omega
    _ ≤ 2 ^ n * 2 ^ m := Nat.mul_le_mul_left _ hq

/-! ### The word of a cell -/

/-- The fields above the accumulator, from the count on. -/
def Cell.upper (c : Cell) : Nat :=
  c.cnt + 2 ^ 60 * (bit c.ovf + 2 ^ 1 * (bit c.ninf + 2 ^ 1 * (bit c.pinf + 2 ^ 1 * (bit c.nan + 2 ^ 1 * c.user))))

theorem word_nested (c : Cell) : c.word = c.acc + 2 ^ 320 * c.upper := by
  unfold Cell.word Cell.upper
  rw [show 380 = 320 + 60 from rfl, show 381 = 320 + 61 from rfl, show 382 = 320 + 62 from rfl, show 383 = 320 + 63 from rfl,
    show 384 = 320 + 64 from rfl, pow_add, pow_add, pow_add, pow_add, pow_add]
  generalize 2 ^ 320 = p
  ring

theorem upper_lt {c : Cell} (hc : c.cnt < 2 ^ 60) (hu : c.user < 2 ^ 128) : c.upper < 2 ^ 192 :=
  add_pow_mul_lt (m := 132) hc (add_pow_mul_lt (m := 131) (bit_lt _) (add_pow_mul_lt (m := 130) (bit_lt _)
    (add_pow_mul_lt (m := 129) (bit_lt _) (add_pow_mul_lt (m := 128) (bit_lt _) hu))))

/-- The fields of a word above its accumulator. -/
theorem upper_fields {c : Cell} (hc : c.cnt < 2 ^ 60) (hu : c.user < 2 ^ 128) : bitsAt c.upper 0 60 = c.cnt ∧
    bitsAt c.upper 60 1 = bit c.ovf ∧ bitsAt c.upper 61 1 = bit c.ninf ∧ bitsAt c.upper 62 1 = bit c.pinf ∧
    bitsAt c.upper 63 1 = bit c.nan ∧ bitsAt c.upper 64 128 = c.user := by
  have high : ∀ lo m, 60 ≤ lo → bitsAt c.upper lo m = _ := bitsAt_high hc _
  have skip : ∀ (b : Bool) (q lo m : Nat), 1 ≤ lo → bitsAt (bit b + 2 ^ 1 * q) lo m = bitsAt q (lo - 1) m := fun b => bitsAt_high (bit_lt b)
  have low : ∀ (b : Bool) (q : Nat), bitsAt (bit b + 2 ^ 1 * q) 0 1 = bit b := fun b => bitsAt_low (bit_lt b)
  refine ⟨bitsAt_low hc _, ?_, ?_, ?_, ?_, ?_⟩
  · rw [high 60 1 (by omega), low]
  · rw [high 61 1 (by omega), skip _ _ _ _ (by omega), low]
  · rw [high 62 1 (by omega), skip _ _ _ _ (by omega), skip _ _ _ _ (by omega), low]
  · rw [high 63 1 (by omega), skip _ _ _ _ (by omega), skip _ _ _ _ (by omega), skip _ _ _ _ (by omega), low]
  · rw [high 64 128 (by omega), skip _ _ _ _ (by omega), skip _ _ _ _ (by omega), skip _ _ _ _ (by omega), skip _ _ _ _ (by omega)]
    exact (congrArg (· % 2 ^ 128) (Nat.div_one _)).trans (Nat.mod_eq_of_lt hu)

theorem cellOf_word {v : Nat} (h : v < 2 ^ 512) : (cellOf v).word = v := by
  rw [show 512 = 384 + 128 from rfl, pow_add] at h
  have htop : bitsAt v 384 128 = v / 2 ^ 384 :=
    Nat.mod_eq_of_lt (Nat.div_lt_of_lt_mul h)
  have hv : v = bitsAt v 0 320 + 2 ^ 320 * (v / 2 ^ 320) := by
    simpa only [pow_zero, Nat.div_one, Nat.zero_add] using bitsAt_join v 0 320
  rw [word_nested]
  simp only [cellOf, Cell.upper, bit_bitAt, htop]
  rw [← bitsAt_join v 383 1, ← bitsAt_join v 382 1, ← bitsAt_join v 381 1, ← bitsAt_join v 380 1, ← bitsAt_join v 320 60, ← hv]

theorem word_cellOf {c : Cell} (ha : c.acc < 2 ^ 320) (hc : c.cnt < 2 ^ 60) (hu : c.user < 2 ^ 128) :
    c.word < 2 ^ 512 ∧ cellOf c.word = c := by
  rw [word_nested]
  refine ⟨by rw [show 512 = 320 + 192 from rfl]; exact add_pow_mul_lt ha (upper_lt hc hu), ?_⟩
  obtain ⟨hcnt, hovf, hninf, hpinf, hnan, huser⟩ := upper_fields hc hu
  have high := bitsAt_high ha c.upper
  unfold cellOf
  rw [bitAt_eq, bitAt_eq, bitAt_eq, bitAt_eq, bitsAt_low ha, high 320 60 (by omega), high 380 1 (by omega), high 381 1 (by omega),
    high 382 1 (by omega), high 383 1 (by omega), high 384 128 (by omega), hcnt, hovf, hninf, hpinf, hnan, huser]
  simp only [bit_beq_one]

/-! ### Additions -/

theorem add_count (c : Cell) (v : FVal) : (c.add v).cnt = min (c.cnt + 1) (2 ^ 60 - 1) ∧ (c.add v).user = c.user ∧
    (c.add v).ovf = (c.ovf || decide (2 ^ 42 < min (c.cnt + 1) (2 ^ 60 - 1))) := by
  cases v with
  | nan => exact ⟨rfl, rfl, rfl⟩
  | inf neg => cases neg <;> exact ⟨rfl, rfl, rfl⟩
  | fin => exact ⟨rfl, rfl, rfl⟩

/-- Settles O24: a word is the sum of its fields, each within its place, and an addition changes the fields that it names. -/
theorem exactSumCell : Obligations.ExactSumCell :=
  ⟨fun _ => cellOf_word, fun _ => word_cellOf, fun _ _ _ _ _ => ⟨rfl, rfl, rfl, rfl⟩, add_count,
    fun c n m e => ⟨wrap_emod 320 (c.acc + exactOf (.fin n m e)), rfl, rfl, rfl⟩,
    fun _ => ⟨rfl, rfl, rfl, rfl, rfl, rfl, rfl, rfl⟩⟩

end Sys2Proof.Machine
end

section
/-! SUPPORT. Rendezvous points and gang barriers: arming, waiting and polling (08 R284 to R286, R290). -/

namespace Sys2Proof.Machine

/-! ### Instructions of a team on a point -/

theorem onPoint_teamed {h : Iss → State → Nat → Act} {x : Iss} {s : State} (ht : x.teamed s) : onPoint h x s = h x s (x.mine s) := by
  obtain ⟨hteam, hex⟩ := ht
  rw [onPoint, team_some hteam]
  dsimp only
  rw [List.isEmpty_eq_false_iff.mpr hex]
  rfl

theorem sameWeaves_setPoint (s : State) (y : Nat) (gang : Bool) (n : Nat) (p : Point) : SameWeaves s (s.setPoint y gang n p) := by
  cases gang
  · exact sameWeaves_modTeam s y _
  · exact sameWeaves_of rfl rfl rfl

/-! ### init (08 R284) -/

/-- The greatest count of a point, and of a gang barrier. -/
def pointLimit (gang : Bool) : Nat := if gang then 65536 else 1024

theorem initBody_alike {gang : Bool} {x : Iss} {s : State} (ht : x.teamed s) (ha : x.alike (fun x l => [x.a l])) :
    initBody gang x s = match initPoint (pointLimit gang) (x.a x.low) (s.point (x.mine s) gang (x.pointIdx gang)) with
      | .error d => .trap s [] trapBarrier d x.ex
      | .ok p => .done (s.setPoint (x.mine s) gang (x.pointIdx gang) p) x.ex := by
  obtain ⟨t, he⟩ := ex_low ha.1
  rw [initBody, onPoint_teamed ht, differ_nil ha, he]
  rfl

section
variable {limit n : Nat} {p : Point}

theorem initPoint_arms (hl : n ≤ limit) (h0 : n = 0 → p.arr = 0) (hn : n ≠ 0 → p.armed = true → p.exp = n) :
    initPoint limit n p = .ok { p with armed := n != 0, exp := n } := by
  unfold initPoint
  rw [if_neg (by omega)]
  by_cases hz : n = 0
  · subst hz
    rw [if_pos rfl, if_neg (by simp [h0 rfl])]
    rfl
  · rw [if_neg hz, if_neg (by simpa using hn hz), show (n != 0) = true by simpa using hz]

theorem initPoint_beyond (h : limit < n) : initPoint limit n p = .error 8 := if_pos h

theorem initPoint_differs (hl : n ≤ limit) (hz : n ≠ 0) (ha : p.armed = true) (he : p.exp ≠ n) : initPoint limit n p = .error 3 := by
  unfold initPoint
  rw [if_neg (by omega), if_neg hz, if_pos (by simp [ha, he])]

theorem initPoint_arrived (hz : n = 0) (ha : p.arr ≠ 0) : initPoint limit n p = .error 7 := by
  unfold initPoint
  rw [if_neg (by omega), if_pos hz, if_pos ha]
end

section
variable {i : Instr} {gang : Bool} (hx : ∀ s, exec i s = issue i (initBody gang) s)
include hx

theorem init_arms : Acts i (fun x s => x.teamed s ∧ x.alike (fun x l => [x.a l]) ∧ x.a x.low ≤ pointLimit gang ∧
      (x.a x.low = 0 → (s.point (x.mine s) gang (x.pointIdx gang)).arr = 0) ∧
      (x.a x.low ≠ 0 → (s.point (x.mine s) gang (x.pointIdx gang)).armed = true → (s.point (x.mine s) gang (x.pointIdx gang)).exp = x.a x.low)) still
    (fun x s => s.setPoint (x.mine s) gang (x.pointIdx gang) { s.point (x.mine s) gang (x.pointIdx gang) with
      armed := x.a x.low != 0, exp := x.a x.low }) :=
  acts_still hx (fun x s ⟨ht, ha, hl, h0, hn⟩ => by rw [initBody_alike ht ha, initPoint_arms hl h0 hn])
    (fun _ s _ => sameWeaves_setPoint s _ _ _ _)

theorem init_raises {pre : Iss → State → Prop} {d : Nat}
    (h : ∀ x s, pre x s → initPoint (pointLimit gang) (x.a x.low) (s.point (x.mine s) gang (x.pointIdx gang)) = .error d) :
    Raises i (fun x s => x.teamed s ∧ x.alike (fun x l => [x.a l]) ∧ pre x s) 0x05 d (fun x => x.ex) :=
  raises_of hx (fun x s ⟨ht, ha, hp⟩ => by rw [initBody_alike ht ha, h x s hp]; rfl)
end

/-- Settles O26: what init does to a point is one function of its count, the same for both kinds. -/
theorem pointsAreArmed : Obligations.PointsAreArmed :=
  ⟨fun o => init_arms (i := .rvinit o) (gang := false) (fun _ => rfl), fun o => init_arms (i := .gbinit o) (gang := true) (fun _ => rfl),
    fun o => init_raises (i := .rvinit o) (gang := false) (fun _ => rfl) (fun _ _ => initPoint_beyond),
    fun o => init_raises (i := .gbinit o) (gang := true) (fun _ => rfl) (fun _ _ => initPoint_beyond),
    fun o => init_raises (i := .rvinit o) (gang := false) (fun _ => rfl) (fun _ _ ⟨hl, hz, ha, he⟩ => initPoint_differs hl hz ha he),
    fun o => init_raises (i := .gbinit o) (gang := true) (fun _ => rfl) (fun _ _ ⟨hl, hz, ha, he⟩ => initPoint_differs hl hz ha he),
    fun o => init_raises (i := .rvinit o) (gang := false) (fun _ => rfl) (fun _ _ ⟨hz, ha⟩ => initPoint_arrived hz ha),
    fun o => init_raises (i := .gbinit o) (gang := true) (fun _ => rfl) (fun _ _ ⟨hz, ha⟩ => initPoint_arrived hz ha)⟩

/-! ### Lanes of a group that go on -/

section
variable {i : Instr} {s : State} {x : Iss}

/-- An executing lane once the group has moved past the word. -/
theorem moved_lane (hr : Ready i s x) {l : Nat} (hl : l ∈ x.ex) :
    (x.moved s).thread x.g.core x.g.slot l = movedOn (s.thread x.g.core x.g.slot l) x.words s.tick :=
  (advance_thread s x.g x.words (ready_nodup hr) l).trans (if_pos (ready_sub hr l hl))

theorem moved_tables (hr : Ready i s x) : SameTables s (x.moved s) := (stands_around (advance_only s x.g x.words (ready_nodup hr))).2

theorem moved_teamed (hr : Ready i s x) (ht : x.teamed s) : x.teamed (x.moved s) :=
  ⟨(congrArg (fun w : Weave => w.team.isSome) (moved_tables hr x.g.core x.g.slot)).trans ht.1, ht.2⟩

/-- All lanes go on, each changed by `eff`, and nothing else has changed. -/
theorem passed_threads {v : State} {eff : Nat → Thread → Thread} (hr : Ready i s x)
    (h : OnlyThreads (x.moved s) v x.g.core x.g.slot x.ex)
    (he : ∀ l ∈ x.ex, v.thread x.g.core x.g.slot l = eff l ((x.moved s).thread x.g.core x.g.slot l)) :
    SameTables s (x.settled v) ∧ Passed s s x id eff (x.settled v) := by
  obtain ⟨hthreads, htables⟩ := stands_around h
  refine ⟨sameTables_settled hr htables, passed_settled hr (fun l _ _ => congrArg (x.keeps l)) h.bytes (fun c w l => ?_)⟩
  split
  · obtain ⟨rfl, rfl, hl⟩ := ‹_›
    exact he l hl
  · exact hthreads c w l ‹_›
end

/-- No lane waits. -/
theorem onlyThreads_hold_nil (s : State) (g : Grp) (ls : List Nat) : OnlyThreads s (s.hold g []) g.core g.slot ls :=
  (onlyThreads_modThreads s _ _ _ _ List.nodup_nil).mono (fun _ h => absurd h List.not_mem_nil)

theorem thread_hold_nil (s : State) (g : Grp) (l : Nat) : (s.hold g []).thread g.core g.slot l = s.thread g.core g.slot l :=
  (onlyThreads_hold_nil s g []).lanes l List.not_mem_nil

/-! ### wait (08 R284, R290) -/

/-- A thread that has arrived, as a wait leaves it once its phase is done. -/
def Iss.passes (x : Iss) (gang : Bool) (t : Thread) : Thread := (t.setPend gang (x.pointIdx gang) false).specAgain x.g.pc

/-- Every executing lane has arrived, and `p` of it holds. -/
def Iss.arrivedWith (x : Iss) (s : State) (gang : Bool) (p : Thread → Prop) : Prop :=
  ∀ l ∈ x.ex, (s.thread x.g.core x.g.slot l).isPend gang (x.pointIdx gang) = true ∧ p (s.thread x.g.core x.g.slot l)

theorem arrivedWith_moved {i : Instr} {s : State} {x : Iss} (hr : Ready i s x) {gang : Bool} {p : Thread → Prop}
    (hp : ∀ t, p t → p (movedOn t x.words s.tick)) (h : x.arrivedWith s gang p) : x.arrivedWith (x.moved s) gang p := by
  intro l hl
  rw [moved_lane hr hl]
  exact ⟨(h l hl).1, hp _ (h l hl).2⟩

section
variable {x : Iss} {s : State} {gang : Bool}

theorem waitBody_done (ht : x.teamed s) (h : x.arrivedWith s gang (fun t => t.isDone gang (x.pointIdx gang) = true)) :
    waitBody gang x s = .done ((s.modThreads x.g.core x.g.slot x.ex (fun _ => x.passes gang)).hold x.g []) x.ex := by
  have hnone : x.ex.filter (fun l => !(s.thread x.g.core x.g.slot l).isPend gang (x.pointIdx gang)) = [] :=
    List.filter_eq_nil_iff.2 (fun l hl => by simp [(h l hl).1])
  have hall : x.ex.filter (fun l => (s.thread x.g.core x.g.slot l).isDone gang (x.pointIdx gang)) = x.ex :=
    List.filter_eq_self.2 (fun l hl => (h l hl).2)
  rw [waitBody, onPoint_teamed ht]
  dsimp only
  rw [hnone]
  dsimp only
  rw [hall, filter_not_contains_self]
  rfl

/-- The speculation that rvwait.spec leaves a lane with. -/
def Iss.speculates (x : Iss) (s : State) (l : Nat) (t : Thread) : Thread :=
  { t with spec := some (x.checkpoint s (x.pointIdx false) l) }

/-- rvwait.spec whose executing lanes have arrived, `go` of them with an open phase, the others with their phase done. -/
theorem waitSpecBody_arrived {go done : List Nat} (ht : x.teamed s) (h : x.arrivedWith s false (fun _ => True))
    (hgo : x.ex.filter (fun l => !(s.thread x.g.core x.g.slot l).isDone false (x.pointIdx false) &&
      (s.thread x.g.core x.g.slot l).noSpec != some x.g.pc && (s.team (x.mine s)).speculative) = go)
    (hdone : x.ex.filter (fun l => (s.thread x.g.core x.g.slot l).isDone false (x.pointIdx false)) = done)
    (hall : ∀ l ∈ x.ex, l ∈ go ∨ l ∈ done) :
    waitSpecBody x s = .done (((s.modThreads x.g.core x.g.slot go (x.speculates s)).modThreads x.g.core x.g.slot done
      (fun _ => x.passes false)).hold x.g []) x.ex := by
  have hpend : x.ex.any (fun l => !(s.thread x.g.core x.g.slot l).isPend false (x.pointIdx false)) = false :=
    List.any_eq_false.2 (fun l hl => by simp [(h l hl).1])
  have hrest : x.ex.filter (fun l => !go.contains l && !done.contains l) = [] :=
    List.filter_eq_nil_iff.2 (fun l hl => by simpa [or_iff_not_imp_left] using hall l hl)
  have hran : x.ex.filter (fun l => go.contains l || done.contains l) = x.ex :=
    List.filter_eq_self.2 (fun l hl => by simpa using hall l hl)
  rw [waitSpecBody, onPoint_teamed ht]
  dsimp only
  rw [hpend, if_neg Bool.false_ne_true, hgo, hdone, hrest, hran]
  rfl

theorem waitSpecBody_done (ht : x.teamed s) (h : x.arrivedWith s false (fun t => t.isDone false (x.pointIdx false) = true)) :
    waitSpecBody x s = .done (((s.modThreads x.g.core x.g.slot [] (x.speculates s)).modThreads x.g.core x.g.slot x.ex
      (fun _ => x.passes false)).hold x.g []) x.ex :=
  waitSpecBody_arrived ht (fun l hl => ⟨(h l hl).1, trivial⟩) (List.filter_eq_nil_iff.2 (fun l hl => by simp [(h l hl).2]))
    (List.filter_eq_self.2 (fun l hl => (h l hl).2)) (fun _ => .inr)

theorem waitSpecBody_goes (ht : x.teamed s) (hs : (s.team (x.mine s)).speculative = true)
    (h : x.arrivedWith s false (fun t => t.isDone false (x.pointIdx false) = false ∧ t.noSpec ≠ some x.g.pc)) :
    waitSpecBody x s = .done (((s.modThreads x.g.core x.g.slot x.ex (x.speculates s)).modThreads x.g.core x.g.slot []
      (fun _ => x.passes false)).hold x.g []) x.ex :=
  waitSpecBody_arrived ht (fun l hl => ⟨(h l hl).1, trivial⟩)
    (List.filter_eq_self.2 (fun l hl => by simp [(h l hl).2, hs])) (List.filter_eq_nil_iff.2 (fun l hl => by simp [(h l hl).2]))
    (fun _ => .inl)
end

/-- Some threads of one weave changed twice, the second time none of them. -/
theorem onlyThreads_twice (s : State) (c w : Nat) {ls ms ns : List Nat} (f g : Nat → Thread → Thread) (hl : ls.Nodup) (hm : ms.Nodup)
    (hln : ∀ l ∈ ls, l ∈ ns) (hmn : ∀ l ∈ ms, l ∈ ns) :
    OnlyThreads s ((s.modThreads c w ls f).modThreads c w ms g) c w ns :=
  ((onlyThreads_modThreads s c w ls f hl).mono hln).trans ((onlyThreads_modThreads _ c w ms g hm).mono hmn)

section
variable {i : Instr} {s : State} {x : Iss}

/-- A wait of lanes whose phase is done. -/
theorem wait_passes {gang : Bool} (hx : ∀ s, exec i s = issue i (waitBody gang) s) (hr : Ready i s x) (ht : x.teamed s)
    (h : x.arrivedWith s gang (fun t => t.isDone gang (x.pointIdx gang) = true)) :
    ∃ t, exec i s = .next t ∧ SameTables s t ∧ Passed s s x id (fun _ => x.passes gang) t := by
  have he := ready_ex_nodup hr
  have hb := waitBody_done (moved_teamed hr ht) (arrivedWith_moved hr (fun _ h => h) h)
  refine ⟨_, exec_done hx hr hb, passed_threads hr ((onlyThreads_modThreads _ _ _ _ _ he).trans (onlyThreads_hold_nil _ _ _))
    (fun l hl => ?_)⟩
  rw [thread_hold_nil, thread_modThreads _ _ _ _ _ _ he, if_pos hl]

/-- rvwait.spec, which leaves speculation in the lanes `go`, where `eff` says what each executing lane comes to. -/
theorem waitSpec_passed {go done : List Nat} {eff : Nat → Thread → Thread} (hx : ∀ s, exec i s = issue i waitSpecBody s) (hr : Ready i s x)
    (hb : waitSpecBody x (x.moved s) = .done ((((x.moved s).modThreads x.g.core x.g.slot go (x.speculates (x.moved s))).modThreads
      x.g.core x.g.slot done (fun _ => x.passes false)).hold x.g []) x.ex)
    (hg : go.Nodup) (hd : done.Nodup) (hgx : ∀ l ∈ go, l ∈ x.ex) (hdx : ∀ l ∈ done, l ∈ x.ex)
    (heff : ∀ l ∈ x.ex, ∀ t, (if l ∈ done then x.passes false (if l ∈ go then x.speculates (x.moved s) l t else t)
      else if l ∈ go then x.speculates (x.moved s) l t else t) = eff l t) :
    ∃ t, exec i s = .next t ∧ SameTables s t ∧ Passed s s x id eff t := by
  refine ⟨_, exec_done hx hr hb, passed_threads hr ((onlyThreads_twice _ _ _ _ _ hg hd hgx hdx).trans (onlyThreads_hold_nil _ _ _))
    (fun l hl => ?_)⟩
  rw [thread_hold_nil, thread_modThreads _ _ _ _ _ _ hd, thread_modThreads _ _ _ _ _ _ hg]
  exact heff l hl _
end

theorem rvwaitSpec_passes (o : AForm) (s : State) (x : Iss) (hr : Ready (.rvwaitSpec o) s x) (ht : x.teamed s)
    (h : x.arrivedWith s false (fun t => t.isDone false (x.pointIdx false) = true)) :
    ∃ t, exec (.rvwaitSpec o) s = .next t ∧ SameTables s t ∧ Passed s s x id (fun _ => x.passes false) t :=
  waitSpec_passed (i := .rvwaitSpec o) (fun _ => rfl) hr (waitSpecBody_done (moved_teamed hr ht) (arrivedWith_moved hr (fun _ h => h) h))
    List.nodup_nil (ready_ex_nodup hr) (by simp) (fun _ => id) (fun l hl t => by simp [hl])

theorem rvwaitSpec_goes (o : AForm) (s : State) (x : Iss) (hr : Ready (.rvwaitSpec o) s x) (ht : x.teamed (x.moved s))
    (hs : ((x.moved s).team (x.mine (x.moved s))).speculative = true)
    (h : x.arrivedWith s false (fun t => t.isDone false (x.pointIdx false) = false ∧ t.noSpec ≠ some x.g.pc)) :
    ∃ t, exec (.rvwaitSpec o) s = .next t ∧ SameTables s t ∧ Passed s s x id (x.speculates (x.moved s)) t :=
  waitSpec_passed (i := .rvwaitSpec o) (fun _ => rfl) hr (waitSpecBody_goes ht hs (arrivedWith_moved hr (fun _ h => h) h))
    (ready_ex_nodup hr) List.nodup_nil (fun _ => id) (by simp) (fun l hl t => by simp [hl])

/-- Settles O28: waits that go on are one change of the executing lanes' threads; rvpoll and rvstat only compute. -/
theorem waitsAtPoints : Obligations.WaitsAtPoints :=
  ⟨fun o _ _ hr ht h => wait_passes (i := .rvwait o) (gang := false) (fun _ => rfl) hr ht h,
    fun o _ _ hr ht h => wait_passes (i := .gbwait o) (gang := true) (fun _ => rfl) hr ht h,
    rvwaitSpec_passes, rvwaitSpec_goes,
    fun o => computes_pred (i := .rvpoll o) (fun _ => rfl),
    fun o => computes_reg (i := .rvstat o) (fun _ => rfl)⟩

end Sys2Proof.Machine
end

section
/-! SUPPORT. Fences, and waits for a value whose condition holds (08 R261, R262, R277). -/

namespace Sys2Proof.Machine

/-! ### Fences -/

section
variable {x : Iss} {s : State} {stores : Bool}

/-- What a fence waits for (08 R262; log entry 5). -/
def Iss.fenced (x : Iss) (s : State) (stores : Bool) : Bool :=
  s.atomPending x.g.core x.g.slot x.ex || (stores && !s.drained x.g.core x.g.slot)

theorem fenceBody_done (h : x.ex = [] ∨ x.fenced s stores = false) : fenceBody stores x s = .done s x.ex := by
  unfold fenceBody
  split
  · rfl
  · rename_i hn
    exact if_neg (ne_true_of_eq_false (h.resolve_left (fun he => hn (List.isEmpty_iff.2 he))))

theorem fenceBody_waits (hn : x.ex ≠ []) (h : x.fenced s stores = true) : fenceBody stores x s = .wait s :=
  (if_neg (by simpa using hn)).trans (if_pos h)
end

section
variable {i : Instr} {stores : Bool} (hx : ∀ s, exec i s = issue i (fenceBody stores) s)
include hx

theorem fence_acts {pre : Iss → State → Prop} (h : ∀ x s, pre x s → x.fenced s stores = false) :
    Acts i (fun x s => x.ex = [] ∨ pre x s) still (fun _ s => s) :=
  acts_still hx (fun x s hp => fenceBody_done (hp.imp id (h x s))) (fun _ s _ => .rfl' s)

theorem fence_waits {pre : Iss → State → Prop} (h : ∀ x s, pre x s → x.fenced s stores = true) :
    Waits i (fun x s => x.ex ≠ [] ∧ pre x s) :=
  waits_of hx (fun x s ⟨hn, hp⟩ => fenceBody_waits hn (h x s hp))
end

theorem fenced_false {x : Iss} {s : State} (h : s.atomPending x.g.core x.g.slot x.ex = false ∧ s.drained x.g.core x.g.slot = true) :
    x.fenced s true = false := by
  rw [Iss.fenced, h.1, h.2]; rfl

theorem fenced_true {x : Iss} {s : State} (h : s.atomPending x.g.core x.g.slot x.ex = true ∨ s.drained x.g.core x.g.slot = false) :
    x.fenced s true = true := by
  rcases h with h | h <;> simp [Iss.fenced, h]

theorem fenced_acquire (x : Iss) (s : State) : x.fenced s false = s.atomPending x.g.core x.g.slot x.ex := Bool.or_false _

/-! ### The lanes of waitv -/

/-- A lane of waitv whose condition holds takes the word and waits no more. -/
def Iss.waited (x : Iss) (v : Nat → Nat) (l : Nat) (t : Thread) : Thread :=
  { t.dest x.f.d (8 * (syncBits x.f.ty / 8)) (v l) with watch := none }

theorem plainly_waited (x : Iss) (v : Nat → Nat) (l : Nat) (t : Thread) : (x.waited v l t).plainly = x.waited v l t.plainly :=
  congrArg (fun u : Thread => { u with watch := none }) (plainly_dest t _ _ _)
theorem waited_plainly (x : Iss) (v : Nat → Nat) (l : Nat) (a b : Thread) (h : a.plainly = b.plainly) :
    (x.waited v l a).plainly = (x.waited v l b).plainly := by
  rw [plainly_waited, plainly_waited, h]
theorem waited_calm (x : Iss) (v : Nat → Nat) (l : Nat) (t : Thread) (h : t.spec = none) : (x.waited v l t).spec = none := by
  have hs : (x.waited v l t).spec.isSome = t.spec.isSome := spec_dest t _ _ _
  rw [h] at hs
  exact Option.not_isSome_iff_eq_none.1 (by rw [hs]; exact Bool.false_ne_true)

theorem ReadsAs.readsAt {s t : State} (h : ReadsAs s t) {x : Iss} {q : Lane} (hc : (s.thread x.g.core x.g.slot q.l).spec = none)
    (hd : q.loc.isData) (n : Nat) : x.readsAt t q n = x.readsAt s q n := by
  obtain ⟨pa, hp, -⟩ := hd
  simp only [Iss.readsAt, hp, span_mem, List.map_map, Function.comp_def, h.seenByte hc]

/-- The word of a lane is not poisoned, is `v`, and meets the condition. -/
structure Iss.meets (x : Iss) (ne : Bool) (s : State) (q : Lane) (v : Nat) : Prop where
  calm : (s.thread x.g.core x.g.slot q.l).spec = none
  data : q.loc.isData
  clean : s.anyPoison (q.loc.span (syncBits x.f.ty / 8)) = false
  word : x.readsAt s q (syncBits x.f.ty / 8) = v
  holds : v = x.b q.l ↔ ne = false

theorem Iss.meets.after {x : Iss} {ne : Bool} {s t : State} {q : Lane} {v : Nat} (h : x.meets ne s q v) (k : ReadsAs s t) :
    x.meets ne t q v where
  calm := k.calm _ _ _ h.calm
  data := h.data
  clean := by
    obtain ⟨pa, hpa, -⟩ := h.data
    have hc := h.clean
    rw [hpa] at hc ⊢
    rw [k.anyPoison, hc]
  word := (k.readsAt h.calm h.data _).trans h.word
  holds := h.holds

theorem waitv_lane {x : Iss} {ne : Bool} {v : Nat → Nat} (t : State) (ran : List Nat) (q : Lane) (h : x.meets ne t q (v q.l)) :
    ∃ u, x.waitLane ne (t, ran) q = (u, ran ++ [q.l]) ∧ Lanewise x [q.l] (x.waited v) t u := by
  have hl : Lanewise x [] (x.waited v) t _ := .of (seesAs_prepLoad t x.g.core x.g.slot q (syncBits x.f.ty / 8) true)
    (alike_prepLoad t x.g.core x.g.slot q (syncBits x.f.ty / 8) true)
  unfold Iss.waitLane
  dsimp only
  generalize t.prepLoad x.g.core x.g.slot q (syncBits x.f.ty / 8) true = p at hl ⊢
  have hm := h.after hl.reads
  have hv : p.loadValue x.g.core x.g.slot q.l q.loc (syncBits x.f.ty / 8) = v q.l := by
    rw [← hm.word]
    obtain ⟨pa, hpa, hr⟩ := h.data
    rw [hpa, loadValue_data _ _ _ _ _ hr, Iss.readsAt, hpa]
    rfl
  have hcond : ((v q.l == x.b q.l) != ne) = true := by
    have := h.holds
    cases ne <;> simpa using this
  rw [hv, hm.clean, if_neg Bool.false_ne_true, if_pos hcond, modThread_eq]
  exact ⟨_, rfl, hl.append ((lanewise_modThreads x (List.nodup_singleton q.l) (fun l => waited_calm x (fun _ => v q.l) l)
    p).congr (by simp [Iss.waited])) (waited_plainly x v) (by simp)⟩

theorem waitv_lanes {x : Iss} {ne : Bool} {v : Nat → Nat} (qs : List Lane) (hn : (qs.map (·.l)).Nodup) (t : State) (ran : List Nat)
    (h : ∀ q ∈ qs, x.meets ne t q (v q.l)) :
    ∃ u, qs.foldl (x.waitLane ne) (t, ran) = (u, ran ++ qs.map (·.l)) ∧ Lanewise x (qs.map (·.l)) (x.waited v) t u := by
  induction qs generalizing t ran with
  | nil => exact ⟨t, by simp, .rfl' x _ t⟩
  | cons q qs ih =>
    rw [List.map_cons, List.nodup_cons] at hn
    rw [List.forall_mem_cons] at h
    obtain ⟨w, he, hl⟩ := waitv_lane t ran q h.1
    obtain ⟨u, hu, hls⟩ := ih hn.2 w (ran ++ [q.l]) (fun p hp => (h.2 p hp).after hl.reads)
    refine ⟨u, ?_, hl.append hls (waited_plainly x v) (by simpa using hn.1)⟩
    rw [List.foldl_cons, he, hu, List.map_cons, List.append_assoc, List.singleton_append]

/-! ### The instructions -/

/-- What a lane reads of `n` bytes. -/
def Iss.laneWord (x : Iss) (u : State) (qs : List Lane) (n l : Nat) : Nat :=
  ((qs.find? (fun q => q.l = l)).map (fun q => x.readsAt u q n)).getD 0

theorem waitv_completes {i : Instr} {ne : Bool} {s u : State} {x : Iss} {qs : List Lane}
    (hx : ∀ s, exec i s = issue i (waitvBody ne) s) (hr : Ready i s x) (hs : x.g.spec = false)
    (ha : x.access (x.moved s) { rd := true, align := syncBits x.f.ty / 8, size := syncBits x.f.ty / 8 } (fun l => x.a l) = .go u qs)
    (hq : qs.map (·.l) = x.ex) (hm : ∀ q ∈ qs, q.loc.isData ∧ u.anyPoison (q.loc.span (syncBits x.f.ty / 8)) = false ∧
      (x.readsAt u q (syncBits x.f.ty / 8) = x.b q.l ↔ ne = false)) :
    ∃ t, exec i s = .next t ∧ SameTables s t ∧ Passed s u x Thread.plainly (x.waited (x.laneWord u qs (syncBits x.f.ty / 8))) t := by
  have he := ready_ex_nodup hr
  obtain ⟨hal, hup⟩ := access_upkeep he ha hq
  obtain ⟨v, hv, hl⟩ := waitv_lanes (v := x.laneWord u qs (syncBits x.f.ty / 8)) qs (hq ▸ he) u [] (fun q hin => by
    have hw : x.laneWord u qs (syncBits x.f.ty / 8) q.l = x.readsAt u q (syncBits x.f.ty / 8) := by
      rw [Iss.laneWord, find_lane (hq ▸ he) hin]; rfl
    obtain ⟨hd, hc, hh⟩ := hm q hin
    rw [hw]
    exact ⟨hup.calm _ _ _ (moved_calm hr hs (ready_sub hr _ (hq ▸ List.mem_map_of_mem (f := (·.l)) hin))), hd, hc, rfl, hh⟩)
  have hb : waitvBody ne x (x.moved s) = .done v x.ex := by
    unfold waitvBody
    dsimp only
    rw [show eaPair x = fun l => x.a l from rfl, ha]
    dsimp only
    rw [hv, List.nil_append, hq]
  refine ⟨x.settled v, exec_done hx hr hb, sameTables_settled hr (fun c w => (hl.reads.tables c w).trans (hal.tables c w)),
    passed_settled hr (fun l a b => keeps_plainly) hl.reads.bytes (fun c w l => ?_)⟩
  rw [hl.threads c w l, hq]
  split
  · exact waited_plainly x _ l _ _ (hal.threads c w l)
  · exact hal.threads c w l

theorem waitv_does (ne : Bool) (o : AForm) (i : Instr) (hi : i = if ne then Instr.waitvNe o else Instr.waitvEq o) (s : State) :
    exec i s = issue i (waitvBody ne) s := by
  cases ne
  · rw [hi]; rfl
  · rw [hi]; rfl

/-- Settles O25: a fence has one condition, and waitv reads lane by lane as a load does. -/
theorem fencesAndWaits : Obligations.FencesAndWaits :=
  ⟨fun o => fence_acts (i := .fence o) (fun _ => rfl) (fun _ _ => fenced_false),
    fun o => fence_acts (i := .fenceRel o) (fun _ => rfl) (fun _ _ => fenced_false),
    fun o => fence_acts (i := .fenceAcq o) (fun _ => rfl) (fun x s => (fenced_acquire x s).trans),
    fun o => fence_waits (i := .fence o) (fun _ => rfl) (fun _ _ => fenced_true),
    fun o => fence_waits (i := .fenceRel o) (fun _ => rfl) (fun _ _ => fenced_true),
    fun o => fence_waits (i := .fenceAcq o) (fun _ => rfl) (fun x s => (fenced_acquire x s).trans),
    fun ne o i _ _ _ _ hi hr hs ha hq hm => waitv_completes (waitv_does ne o i hi) hr hs ha hq hm⟩

end Sys2Proof.Machine
end

section
/-! SUPPORT. Stores on their way to memory (08 R257, R266, R282): the oldest entry of a queue reaches its core, and an entry of
memory bytes that is ready is performed. -/

namespace Sys2Proof.Machine

theorem seesAs_entryConflicts (s : State) (c : Nat) (e : StoreEnt) (sees : Nat → Nat → Bool) : SeesAs s (s.entryConflicts c e sees) :=
  seesAs_fold _ _ (fun s _ => seesAs_conflicts s _ _ _) s

/-! ### The drain -/

/-- The state in which the oldest entry has left its queue and stands last of those that its core has made visible. -/
def State.drainedInto (s : State) (core slot : Nat) (e : StoreEnt) (r : List StoreEnt) : State :=
  (s.modWeave core slot (fun x => { x with storeq := r }.takeIn)).modCore core (fun k => { k with pending := k.pending ++ [e] })

theorem storeQueueDrain_runs {core slot : Nat} {s : State} {e : StoreEnt} {r : List StoreEnt}
    (h : (s.weave core slot).storeq = e :: r) : exec (.storeQueueDrain core slot) s =
      .next ((s.drainedInto core slot e r).entryConflicts core e (fun c w => c == core && w != slot)) := by
  rw [show exec (.storeQueueDrain core slot) s = execStoreQueueDrain core slot s from rfl, execStoreQueueDrain, h]
  rfl

theorem drainedInto_weave (s : State) (core slot : Nat) (e : StoreEnt) (r : List StoreEnt) :
    (s.drainedInto core slot e r).weave core slot = { s.weave core slot with storeq := r }.takeIn :=
  ((weave_modCore _ core core slot _).trans (if_pos rfl)).trans ((weave_modWeave s core slot slot _).trans (if_pos rfl))

theorem drainedInto_pending (s : State) (core slot : Nat) (e : StoreEnt) (r : List StoreEnt) :
    ((s.drainedInto core slot e r).core core).pending = (s.core core).pending ++ [e] := by
  rw [State.drainedInto, core_modCore, if_pos rfl, State.modWeave, State.setWeave, core_modCore, if_pos rfl]

theorem storeQueueDrain_moves (core slot : Nat) (s : State) (e : StoreEnt) (r : List StoreEnt) (h : (s.weave core slot).storeq = e :: r) :
    ∃ t, exec (.storeQueueDrain core slot) s = .next t ∧
      (t.weave core slot).storeq = r ++ (s.weave core slot).commitq.take (Config.storeQueue - r.length) ∧
      (t.weave core slot).commitq = (s.weave core slot).commitq.drop (Config.storeQueue - r.length) ∧
      (t.core core).pending = (s.core core).pending ++ [e] ∧ ∀ pa, t.memByte pa = s.memByte pa := by
  have hw := drainedInto_weave s core slot e r
  have htab := (alike_entryConflicts (s.drainedInto core slot e r) core e (fun c w => c == core && w != slot)).tables core slot
  refine ⟨_, storeQueueDrain_runs h, (congrArg Weave.storeq htab :).trans (congrArg Weave.storeq hw),
    (congrArg Weave.commitq htab :).trans (congrArg Weave.commitq hw),
    (seesAs_entryConflicts _ _ _ _).toUpkeep.pending core |>.trans (drainedInto_pending s core slot e r),
    fun pa => memByte_entryConflicts _ _ _ _ pa⟩

/-! ### Bytes of memory put one after the other -/

/-- An entry of bytes of memory that are no registers. -/
def StoreEnt.plain (e : StoreEnt) : Prop := ∀ b ∈ e.bytes, b.loc.isData

theorem reg_data {b : StoreByte} (h : b.loc.isData) : b.reg = none := by
  obtain ⟨pa, hpa, hr⟩ := h
  simp [StoreByte.reg, hpa, hr]

/-- The newest value that bytes written in turn give a place. -/
def newest (bs : List StoreByte) (l : Loc) (m : Option Byte) : Option Byte :=
  bs.foldl (fun m b => if b.loc = l then some b.val else m) m

theorem memByte_puts {bs : List StoreByte} (hb : ∀ b ∈ bs, b.loc.isData) {s : State} (hf : s.lcForeign) {pa : Nat} {m : Option Byte} {d : Byte}
    (hm : s.memByte pa = m.getD d) :
    (bs.foldl (fun s b => s.putByte b.loc b.val) s).memByte pa = (newest bs (.mem pa) m).getD d := by
  induction bs generalizing s m with
  | nil => exact hm
  | cons b bs ih =>
    rw [List.forall_mem_cons] at hb
    obtain ⟨⟨q, hq, -⟩, hbs⟩ := hb
    rw [List.foldl_cons, newest, List.foldl_cons, hq]
    refine ih hbs (lcForeign_setByte hf q b.val) ?_
    rw [memByte_setByte hf]
    by_cases h : pa = q
    · subst h; simp
    · rw [if_neg h, if_neg (fun he => h (Loc.mem.inj he).symm), hm]

theorem upkeep_puts (bs : List StoreByte) (s : State) : Upkeep s (bs.foldl (fun s b => s.putByte b.loc b.val) s) :=
  upkeep_fold bs _ (fun s b => upkeep_putByte s b.loc b.val) s

/-! ### An entry performed -/

/-- The lines of an entry brought, tenure narrowed and the synchronisation engine told, before its bytes are written. -/
def State.entryMet (s : State) (core idx : Nat) (e : StoreEnt) : State :=
  let u := ((e.bytes.map (fun b => b.loc.sector)).dedup).foldl (fun s l => s.recallSpan e.team true l 1)
    ((s.modCore core (fun k => { k with pending := k.pending.eraseIdx idx })).touchAll (e.bytes.map (·.loc)))
  if e.sync then (e.bytes.map (·.loc)).foldl (fun s l => match l with
    | .mem pa => s.syncTouch pa none e.team
    | .spad _ _ => s) u else u

theorem seesAs_entryMet (s : State) (core idx : Nat) (e : StoreEnt) :
    SeesAs (s.modCore core (fun k => { k with pending := k.pending.eraseIdx idx })) (s.entryMet core idx e) := by
  unfold State.entryMet
  have hu := (seesAs_touchAll (s.modCore core (fun k => { k with pending := k.pending.eraseIdx idx })) (e.bytes.map (·.loc))).trans
    (seesAs_fold ((e.bytes.map (fun b => b.loc.sector)).dedup) _ (fun s l => seesAs_recallSpan s e.team true l 1) _)
  dsimp only
  split
  · refine hu.trans (seesAs_fold _ _ (fun s l => ?_) _)
    cases l with
    | mem pa => exact seesAs_syncTouch s pa none e.team
    | spad => exact .rfl' s
  · exact hu

theorem performEntry_plain {e : StoreEnt} (h : e.plain) (s : State) (core idx : Nat) : s.performEntry core idx e =
    ((e.bytes.foldl (fun s b => s.putByte b.loc b.val) (s.entryMet core idx e)).entryConflicts core e (fun c _ => c != core)).noteWrite
      (e.bytes.map (·.loc)) := by
  have hall : e.bytes.filter (fun b => b.reg.isNone) = e.bytes := List.filter_eq_self.2 (fun b hb => by rw [reg_data (h b hb)]; rfl)
  have hnone : ∀ u : State, e.bytes.filterMap (fun b => b.reg.bind (fun pa => if u.isLocal pa then some (localAddr pa, b.val) else none)) = [] :=
    fun _ => List.filterMap_eq_nil_iff.2 (fun b hb => by rw [reg_data (h b hb)]; rfl)
  unfold State.performEntry
  dsimp only
  rw [hall, hnone]
  rfl

theorem performEntry_bytes {e : StoreEnt} (h : e.plain) {s : State} (hl : s.lcache = []) (core idx pa : Nat) :
    (s.performEntry core idx e).memByte pa = (entryByte [e] (.mem pa)).getD (s.memByte pa) := by
  have hmet := seesAs_entryMet s core idx e
  rw [performEntry_plain h, (seesAs_noteWrite _ _).bytes, memByte_entryConflicts]
  exact memByte_puts (m := none) h (hmet.foreign (lcForeign_nil hl)) (hmet.bytes pa)

theorem performEntry_pending {e : StoreEnt} (h : e.plain) (s : State) (core idx : Nat) :
    ((s.performEntry core idx e).core core).pending = (s.core core).pending.eraseIdx idx := by
  rw [performEntry_plain h, (seesAs_noteWrite _ _).toUpkeep.pending, (seesAs_entryConflicts _ _ _ _).toUpkeep.pending,
    (upkeep_puts _ _).pending, (seesAs_entryMet s core idx e).toUpkeep.pending, core_modCore, if_pos rfl]

theorem tryPerform_ready {s : State} {core idx : Nat} {e : StoreEnt} (h : e.plain) (hr : s.entryReady core idx e = true)
    (hh : ∀ b ∈ e.bytes, s.heldLoc core b.loc = false) (holds : Bool) : s.tryPerform core idx e holds = s.performEntry core idx e := by
  have hheld : (e.bytes.any (fun b => s.heldLoc core b.loc)) = false := List.any_eq_false.2 (fun b hb => by rw [hh b hb]; exact Bool.false_ne_true)
  have hreg : (e.bytes.any (fun b => b.reg.isSome)) = false := List.any_eq_false.2 (fun b hb => by rw [reg_data (h b hb)]; exact Bool.false_ne_true)
  rw [State.tryPerform, if_pos hr, hheld, Bool.and_false, hreg]
  rfl

/-- Each of the three events performs the entry where it is the one that it waits for. -/
theorem entryEvent_performs {s : State} {core idx : Nat} {e : StoreEnt} (he : (s.core core).pending[idx]? = some e) (h : e.plain)
    (hr : s.entryReady core idx e = true) (hh : ∀ b ∈ e.bytes, s.heldLoc core b.loc = false) {i : Instr}
    (hi : i = .storePerformed core idx ∧ e.held = false ∧ e.sync = false ∨ i = .writeAfterHolds core idx ∧ e.held = true ∨
      i = .syncEngineUpdate core idx ∧ e.sync = true) : exec i s = .next (s.performEntry core idx e) := by
  have hp := tryPerform_ready h hr hh
  rcases hi with ⟨rfl, hheld, hsync⟩ | ⟨rfl, hheld⟩ | ⟨rfl, hsync⟩
  · rw [show exec (.storePerformed core idx) s = execStorePerformed core idx s from rfl, execStorePerformed, he]
    dsimp only
    rw [hheld, hsync, hp]
    rfl
  · rw [show exec (.writeAfterHolds core idx) s = execWriteAfterHolds core idx s from rfl, execWriteAfterHolds, he]
    dsimp only
    rw [hheld, hp]
    rfl
  · rw [show exec (.syncEngineUpdate core idx) s = execSyncEngineUpdate core idx s from rfl, execSyncEngineUpdate, he]
    dsimp only
    rw [hsync, hp]
    rfl

/-- Settles O20: the drain is one move, and the three events that perform an entry write its bytes in turn. -/
theorem storesReachMemory : Obligations.StoresReachMemory := by
  refine ⟨storeQueueDrain_moves, fun core idx s e he hl hb hr i hi => ?_⟩
  have hplain : e.plain := fun b hm => by
    obtain ⟨pa, hpa, hreg, -⟩ := hb b hm
    exact ⟨pa, hpa, hreg⟩
  have hheld : ∀ b ∈ e.bytes, s.heldLoc core b.loc = false := fun b hm => by
    obtain ⟨pa, hpa, -, -, hh⟩ := hb b hm
    rw [hpa]
    exact hh
  exact ⟨_, entryEvent_performs he hplain hr hheld hi, performEntry_pending hplain s core idx, performEntry_bytes hplain hl core idx⟩

end Sys2Proof.Machine
end

section
/-! SUPPORT. Atomics (08 R273 to R276): posted by their lanes, and performed on a word of memory. -/

namespace Sys2Proof.Machine

/-! ### What an atomic reads and leaves at its place -/

theorem leBytes_getElem? (n v k : Nat) : (leBytes n v)[k]? = if k < n then some (BitVec.ofNat 8 (v / 2 ^ (8 * k))) else none := by
  induction n generalizing v k with
  | zero => rfl
  | succ n ih =>
    cases k with
    | zero => simp [leBytes]
    | succ k =>
      rw [leBytes, List.getElem?_cons_succ, ih, Nat.div_div_eq_div_mul, show 2 ^ (8 * (k + 1)) = 256 * 2 ^ (8 * k) by ring]
      simp only [Nat.succ_lt_succ_iff]

/-- The synchronisation engine told of an access to a place, where one serves it. -/
def State.syncTold (s : State) (l : Loc) (sync : Bool) (team : Option Nat) : State :=
  match l with
  | .mem pa => if sync then s.syncTouch pa none team else s
  | .spad _ _ => s

theorem seesAs_syncTold (s : State) (l : Loc) (sync : Bool) (team : Option Nat) : SeesAs s (s.syncTold l sync team) := by
  cases l with
  | mem pa =>
    cases sync with
    | true => exact seesAs_syncTouch s pa none team
    | false => exact .rfl' s
  | spad => exact .rfl' s
theorem alike_syncTold (s : State) (l : Loc) (sync : Bool) (team : Option Nat) : Alike s (s.syncTold l sync team) := by
  cases l with
  | mem pa =>
    cases sync with
    | true => exact alike_syncTouch s pa none team
    | false => exact (Quiet.rfl' s).alike
  | spad => exact (Quiet.rfl' s).alike

/-- The lines of a lane's place brought, tenure narrowed and the synchronisation engine told, before its word is read. -/
def State.atomMet (s : State) (core : Nat) (a : Atom) (q : AtomLane) : State :=
  ((s.touchAll (q.loc.span (atomBytes a.instr))).recallSpan (s.weave core a.slot).team true q.loc (atomBytes a.instr)).syncTold
    q.loc q.sync (s.weave core a.slot).team

/-- What the lane stores, where it stores. -/
def State.atomStored (s : State) (core : Nat) (a : Atom) (q : AtomLane) (new : Option Nat) : State :=
  match new with
  | none => s
  | some v => ((s.putBytes q.loc (leBytes (atomBytes a.instr) v)).conflicts (q.loc.span (atomBytes a.instr)) (core, a.slot, q.lane)
      (fun _ _ => true)).noteWrite (q.loc.span (atomBytes a.instr))

/-- The result that a lane leaves for its thread. -/
def Atom.result (a : Atom) (pva : Option Nat) (q : AtomLane) (bad : Bool) (v : Nat) : Deferred :=
  { slot := a.slot, lane := q.lane, reg := (a.instr.fields.getD {}).d.toNat,
    cnt := if (a.instr.fields.getD {}).d = 511 then 0 else regsOf (a.instr.row.d.width (a.instr.fields.getD {}).b),
    val := (if bad then none else some v), pc := a.pc, va := BitVec.ofNat 64 (pva.getD q.va) }

theorem seesAs_atomMet (s : State) (core : Nat) (a : Atom) (q : AtomLane) : SeesAs s (s.atomMet core a q) :=
  ((seesAs_touchAll s _).trans (seesAs_recallSpan _ _ _ _ _)).trans (seesAs_syncTold _ _ _ _)
theorem alike_atomMet (s : State) (core : Nat) (a : Atom) (q : AtomLane) : Alike s (s.atomMet core a q) :=
  ((quiet_touchAll s _).alike.trans (alike_recallSpan _ _ _ _ _)).trans (alike_syncTold _ _ _ _)

theorem upkeep_atomStored (s : State) (core : Nat) (a : Atom) (q : AtomLane) (new : Option Nat) :
    Upkeep s (s.atomStored core a q new) := by
  cases new with
  | none => exact .rfl' s
  | some v =>
    exact ((upkeep_fold _ _ (fun s _ => upkeep_putByte s _ _) s).trans (seesAs_conflicts _ _ _ _).toUpkeep).trans
      (seesAs_noteWrite _ _).toUpkeep
theorem alike_atomStored (s : State) (core : Nat) (a : Atom) (q : AtomLane) (new : Option Nat) :
    Alike s (s.atomStored core a q new) := by
  cases new with
  | none => exact (Quiet.rfl' s).alike
  | some v => exact ((quiet_putBytes s _ _).alike.trans (alike_conflicts _ _ _ _)).trans (quiet_noteWrite _ _).alike

/-- A byte once a number of `n` bytes, if any, has been stored from a place on. -/
def State.byteAfter (s : State) (pa n : Nat) (new : Option Nat) (b : Nat) : Byte :=
  match new with
  | none => s.memByte b
  | some v => if pa ≤ b ∧ b < pa + n then BitVec.ofNat 8 (v / 2 ^ (8 * (b - pa))) else s.memByte b

theorem memByte_putNumber {s : State} (hf : s.lcForeign) (pa n v b : Nat) :
    (s.putBytes (.mem pa) (leBytes n v)).memByte b = s.byteAfter pa n (some v) b := by
  refine ((putRow_mem hf pa 0 (leBytes n v)).2.2 b).trans ?_
  rw [Nat.add_zero, leBytes_getElem?, State.byteAfter]
  by_cases h1 : pa ≤ b
  · by_cases h2 : b < pa + n
    · rw [if_pos h1, if_pos (by omega), if_pos ⟨h1, h2⟩, Option.getD_some]
    · rw [if_pos h1, if_neg (by omega), if_neg (fun h => h2 h.2), Option.getD_none]
  · rw [if_neg h1, if_neg (fun h => h1 h.1)]

theorem atomStored_bytes {s : State} (hf : s.lcForeign) (core : Nat) {a : Atom} {q : AtomLane} {pa : Nat} (hq : q.loc = .mem pa)
    (new : Option Nat) (b : Nat) : (s.atomStored core a q new).memByte b = s.byteAfter pa (atomBytes a.instr) new b := by
  cases new with
  | none => rfl
  | some v =>
    rw [← memByte_putNumber hf, ← hq]
    exact ((seesAs_noteWrite _ _).bytes b).trans ((seesAs_conflicts _ _ _ _).bytes b)

/-! ### One lane performed -/

/-- The old value of a lane's place. -/
def State.atomOld (s : State) (a : Atom) (q : AtomLane) : Nat := leNat (s.getBytes q.loc (atomBytes a.instr))

/-- The state in which a lane has read and stored. -/
def State.atomRan (s : State) (core : Nat) (a : Atom) (q : AtomLane) : State :=
  (s.atomMet core a q).atomStored core a q (atomNew a.instr ((s.atomMet core a q).atomOld a q) q.x.toNat q.y.toNat)

/-- A lane meets its place, reads and stores, and posts its result where it returns one. -/
theorem atomLane_runs (s : State) (core : Nat) (a : Atom) (pva : Option Nat) (q : AtomLane) : s.atomLane core a pva q =
    match atomResult a.instr ((s.atomMet core a q).atomOld a q) with
    | none => s.atomRan core a q
    | some v =>
      if a.slot = 48 || ((a.instr.fields.getD {}).d = 511 && !(s.atomMet core a q).anyPoison (q.loc.span (atomBytes a.instr))) then
        s.atomRan core a q
      else (s.atomRan core a q).posts core
        [a.result pva q ((s.atomMet core a q).anyPoison (q.loc.span (atomBytes a.instr))) v] := rfl

theorem memByte_atomLane (s : State) (core : Nat) (a : Atom) (pva : Option Nat) (q : AtomLane) (b : Nat) :
    (s.atomLane core a pva q).memByte b = (s.atomRan core a q).memByte b := by
  rw [atomLane_runs]
  split
  · rfl
  · split <;> rfl

theorem atomLane_posts {s : State} {core : Nat} {a : Atom} {q : AtomLane} {v : Nat}
    (hv : atomResult a.instr ((s.atomMet core a q).atomOld a q) = some v) (hslot : a.slot ≠ 48) (hd : (a.instr.fields.getD {}).d ≠ 511)
    (pva : Option Nat) : s.atomLane core a pva q = (s.atomRan core a q).posts core
      [a.result pva q ((s.atomMet core a q).anyPoison (q.loc.span (atomBytes a.instr))) v] := by
  rw [atomLane_runs, hv]
  exact if_neg (by rw [decide_eq_false hslot, decide_eq_false hd]; exact Bool.false_ne_true)

theorem upkeep_atomRan (s : State) (core : Nat) (a : Atom) (q : AtomLane) : Upkeep s (s.atomRan core a q) :=
  (seesAs_atomMet s core a q).toUpkeep.trans (upkeep_atomStored _ _ _ _ _)
theorem alike_atomRan (s : State) (core : Nat) (a : Atom) (q : AtomLane) : Alike s (s.atomRan core a q) :=
  (alike_atomMet s core a q).trans (alike_atomStored _ _ _ _ _)

/-! ### The event -/

/-- The atomic has left those of its core that wait. -/
def State.atomTaken (s : State) (core idx : Nat) : State := s.modCore core (fun k => { k with atoms := k.atoms.eraseIdx idx })

theorem quiet_atomTaken (s : State) (core idx : Nat) : Quiet s (s.atomTaken core idx) := quiet_modCore s core _ (fun _ => rfl)

theorem live_alike {s u : State} (h : Alike s u) (c w : Nat) : (u.weave c w).live = (s.weave c w).live :=
  List.filter_congr (fun l _ => (congrArg (fun t : Thread => t.mode != .exited) (h.threads c w l) :))

theorem freeWeave_lives {s : State} {c w : Nat} (h : (s.weave c w).live ≠ []) : s.freeWeave c w = s := by
  obtain ⟨l, hl⟩ := List.exists_mem_of_ne_nil _ h
  simp only [Weave.live, List.mem_filter, List.mem_range, bne_iff_ne] at hl
  exact freeWeave_live s c w l hl.1 hl.2

theorem atomicPerform_one {s : State} {core idx : Nat} {a : Atom} {q : AtomLane} (ha : (s.core core).atoms[idx]? = some a)
    (hq : a.lanes = [q]) (hr : atomReady s core idx a = true) : ∃ pva, (pva = none ∨ pva = some q.va) ∧ exec (.atomicPerform core idx) s =
      .next (((s.atomTaken core idx).atomLane core a pva q).freeWeave core a.slot) := by
  refine ⟨(a.lanes.find? (fun q => (s.atomTaken core idx).anyPoison (q.loc.span (atomBytes a.instr)))).map (·.va), ?_, ?_⟩
  · rw [hq, List.find?_singleton]
    split
    · exact .inr rfl
    · exact .inl rfl
  · rw [show exec (.atomicPerform core idx) s = execAtomicPerform core idx s from rfl, execAtomicPerform, ha]
    dsimp only
    rw [if_pos hr, hq]
    rfl

section
variable {s : State} {core idx : Nat} {a : Atom} {q : AtomLane} {pa : Nat}

/-- Nothing that the lane meets on its way to the word changes the bytes and the poison that it reads. -/
theorem taken_met (s : State) (core idx : Nat) (a : Atom) (q : AtomLane) (hq : q.loc = .mem pa) :
    let m := (s.atomTaken core idx).atomMet core a q
    m.atomOld a q = leNat ((List.range (atomBytes a.instr)).map (fun j => s.memByte (pa + j))) ∧
      m.anyPoison (q.loc.span (atomBytes a.instr)) = s.anyPoison (q.loc.span (atomBytes a.instr)) := by
  have hs := seesAs_atomMet (s.atomTaken core idx) core a q
  have hr : ReadsAs (s.atomTaken core idx) _ := hs.readsAs (alike_atomMet (s.atomTaken core idx) core a q)
  constructor
  · rw [State.atomOld, State.getBytes, hq, span_mem, List.map_map]
    exact congrArg leNat (List.map_congr_left (fun j _ => hs.bytes (pa + j)))
  · rw [hq, hr.anyPoison]
    simp only [State.anyPoison, span_mem, List.any_map, Function.comp_def]
    rfl

theorem taken_bytes (hq : q.loc = .mem pa) (hl : s.lcache = []) (b : Nat) :
    ((s.atomTaken core idx).atomRan core a q).memByte b = s.byteAfter pa (atomBytes a.instr)
      (atomNew a.instr (leNat ((List.range (atomBytes a.instr)).map (fun j => s.memByte (pa + j)))) q.x.toNat q.y.toNat) b := by
  have hs := seesAs_atomMet (s.atomTaken core idx) core a q
  rw [State.atomRan, atomStored_bytes (hs.foreign (lcForeign_nil hl)) core hq, (taken_met s core idx a q hq).1]
  unfold State.byteAfter
  rw [hs.bytes]
  rfl

theorem taken_deferred : (((s.atomTaken core idx).atomRan core a q).core core).deferred = (s.core core).deferred := by
  rw [(upkeep_atomRan _ core a q).deferred, State.atomTaken, core_modCore, if_pos rfl]

theorem taken_live : (((s.atomTaken core idx).atomRan core a q).weave core a.slot).live = (s.weave core a.slot).live := by
  rw [live_alike (alike_atomRan _ core a q), quiet_atomTaken]

/-- An atomic of one lane, on memory: it writes its word, and its result is on its way to its thread. -/
theorem atomicPerform_memory (ha : (s.core core).atoms[idx]? = some a) (hls : a.lanes = [q]) (hq : q.loc = .mem pa)
    (hl : s.lcache = []) (hr : atomReady s core idx a = true) {old : Nat}
    (ho : old = leNat ((List.range (atomBytes a.instr)).map (fun j => s.memByte (pa + j)))) : ∃ t,
    exec (.atomicPerform core idx) s = .next t ∧
      (∀ b, t.memByte b = s.byteAfter pa (atomBytes a.instr) (atomNew a.instr old q.x.toNat q.y.toNat) b) ∧
      ∀ v, atomResult a.instr old = some v → (a.instr.fields.getD {}).d ≠ 511 → a.slot ≠ 48 → (s.weave core a.slot).live ≠ [] →
        (t.core core).deferred = (s.core core).deferred ++
          [a.result none q (s.anyPoison (q.loc.span (atomBytes a.instr))) v] := by
  obtain ⟨pva, hpva, he⟩ := atomicPerform_one ha hls hr
  obtain ⟨hold, hbad⟩ := taken_met s core idx a q hq
  refine ⟨_, he, fun b => ?_, fun v hv hd hslot hlive => ?_⟩
  · rw [memByte_freeWeave, memByte_atomLane, taken_bytes hq hl, ho]
  · have hva : a.result pva q (s.anyPoison (q.loc.span (atomBytes a.instr))) v =
        a.result none q (s.anyPoison (q.loc.span (atomBytes a.instr))) v := by
      rcases hpva with rfl | rfl <;> rfl
    rw [atomLane_posts (by rw [hold, ← ho]; exact hv) hslot hd, hbad, hva, freeWeave_lives, State.posts, core_modCore, if_pos rfl,
      taken_deferred]
    rw [quiet_posts, taken_live]
    exact hlive

end

/-! ### Posting -/

/-- A lane of the atomic that an issue posts. -/
def Iss.atomOf (x : Iss) (xv yv : Iss → Nat → Nat) (q : Lane) : AtomLane where
  lane := q.l
  loc := q.loc
  va := q.ea
  sync := leafSync q.leaf
  x := BitVec.ofNat 128 (xv x q.l)
  y := BitVec.ofNat 128 (yv x q.l)

/-- The atomic that the lanes of an issue post. -/
def Iss.atom (x : Iss) (xv yv : Iss → Nat → Nat) (u : State) (qs : List Lane) : Atom where
  slot := x.g.slot
  pc := x.g.pc
  instr := x.i
  team := (u.weave x.g.core x.g.slot).team
  born := u.tick
  lanes := qs.map (x.atomOf xv yv)

/-- What an atomic does to a thread that it is posted for. -/
def Iss.emptied (x : Iss) (res : Bool) (_l : Nat) (t : Thread) : Thread := if res then t.setEmpty x.f.d (x.r.d.width x.f.b) else t

theorem emptied_plainly {x : Iss} {res : Bool} {l : Nat} {a b : Thread} (h : a.plainly = b.plainly) :
    (x.emptied res l a).plainly = (x.emptied res l b).plainly := by
  unfold Iss.emptied
  split
  · rw [plainly_setEmpty, plainly_setEmpty, h]
  · exact h

/-- The state in which the lanes' destinations are empty, where the atomic returns a value. -/
def Iss.emptying (x : Iss) (u : State) (ls : List Nat) : State :=
  if (atomResult x.i 0).isSome then u.modThreads x.g.core x.g.slot ls (fun _ t => t.setEmpty x.f.d (x.r.d.width x.f.b)) else u

theorem core_modThreads_atoms (s : State) (c w : Nat) (ls : List Nat) (f : Nat → Thread → Thread) (k : Nat) :
    ((s.modThreads c w ls f).core k).atoms = (s.core k).atoms := by
  rw [State.modThreads, State.modWeave, State.setWeave, core_modCore]
  split
  · subst_vars; rfl
  · rfl

section
variable (x : Iss) (u : State) {ls : List Nat}

theorem emptying_thread (h : ls.Nodup) (c w l : Nat) : (x.emptying u ls).thread c w l =
    if c = x.g.core ∧ w = x.g.slot ∧ l ∈ ls then x.emptied (atomResult x.i 0).isSome l (u.thread c w l) else u.thread c w l := by
  unfold Iss.emptying Iss.emptied
  split
  · rw [thread_modThreads_at _ _ _ _ _ _ _ _ h]
    split
    · obtain ⟨rfl, rfl, -⟩ := ‹_›; rfl
    · rfl
  · rw [ite_self]

theorem emptying_tables (h : ls.Nodup) : SameTables u (x.emptying u ls) := by
  unfold Iss.emptying
  split
  · exact (stands_around (onlyThreads_modThreads u _ _ _ _ h)).2
  · exact fun _ _ => rfl

theorem emptying_atoms (ls : List Nat) (k : Nat) : ((x.emptying u ls).core k).atoms = (u.core k).atoms := by
  unfold Iss.emptying
  split
  · exact core_modThreads_atoms u _ _ _ _ k
  · rfl

theorem emptying_bytes (ls : List Nat) (pa : Nat) : (x.emptying u ls).memByte pa = u.memByte pa := by
  unfold Iss.emptying
  split <;> rfl
theorem emptying_tick (ls : List Nat) : (x.emptying u ls).tick = u.tick := by
  unfold Iss.emptying
  split <;> rfl

end

/-- The state in which the lanes have posted their atomic. -/
def Iss.atomIssued (x : Iss) (xv yv : Iss → Nat → Nat) (u : State) (qs : List Lane) : State :=
  (x.emptying u (qs.map (·.l))).modCore x.g.core (fun k => { k with atoms := k.atoms ++ [x.atom xv yv u qs] })

theorem quiet_atomIssued (x : Iss) (xv yv : Iss → Nat → Nat) (u : State) (qs : List Lane) :
    Quiet (x.emptying u (qs.map (·.l))) (x.atomIssued xv yv u qs) := quiet_modCore _ _ _ (fun _ => rfl)
theorem atoms_issued (x : Iss) (xv yv : Iss → Nat → Nat) (u : State) (qs : List Lane) :
    ((x.atomIssued xv yv u qs).core x.g.core).atoms = (u.core x.g.core).atoms ++ [x.atom xv yv u qs] := by
  rw [Iss.atomIssued, core_modCore, if_pos rfl]
  dsimp only
  rw [emptying_atoms]

theorem atoms_settled (x : Iss) (s : State) (k : Nat) : ((x.settled s).core k).atoms = (s.core k).atoms := by
  unfold Iss.settled Iss.keep
  split
  · rfl
  · exact core_modThreads_atoms s _ _ _ _ k
theorem Upkeep.atoms {s u : State} (h : Upkeep s u) (c : Nat) : (u.core c).atoms = (s.core c).atoms :=
  (congrArg Core.atoms (h.units c) :)

/-- An atomic names the same team and step where the tables of weaves and the step stand. -/
theorem atom_congr {s u : State} (h : SameTables s u) (ht : u.tick = s.tick) (x : Iss) (xv yv : Iss → Nat → Nat) (qs : List Lane) :
    x.atom xv yv u qs = x.atom xv yv s qs := by
  rw [Iss.atom, Iss.atom, ht, show (u.weave x.g.core x.g.slot).team = (s.weave x.g.core x.g.slot).team from
    (congrArg Weave.team (h x.g.core x.g.slot) :)]

theorem atomBody_posts {x : Iss} {s u : State} {ea xv yv : Iss → Nat → Nat} {qs : List Lane}
    (ha : x.access s { rd := true, wr := true, align := atomBytes x.i, size := atomBytes x.i, atomic := true } (ea x) = .go u qs)
    (he : (qs.map (·.l)).Nodup) (hne : qs ≠ []) : atomBody ea xv yv x s = .done (x.atomIssued xv yv u qs) (qs.map (·.l)) := by
  have hb : atomBody ea xv yv x s = .done (if qs.isEmpty then x.emptying u (qs.map (·.l)) else (x.emptying u (qs.map (·.l))).modCore
      x.g.core (fun k => { k with atoms := k.atoms ++ [x.atom xv yv (x.emptying u (qs.map (·.l))) qs] })) (qs.map (·.l)) := by
    unfold atomBody
    dsimp only
    rw [ha]
    rfl
  rw [hb, if_neg (by simpa using hne), atom_congr (emptying_tables x u he) (emptying_tick x u _)]
  rfl

theorem atoms_post {i : Instr} {ea xv yv : Iss → Nat → Nat} {s u : State} {x : Iss} {qs : List Lane}
    (hx : ∀ s, exec i s = issue i (atomBody ea xv yv) s) (hr : Ready i s x) (hne : x.ex ≠ [])
    (ha : x.access (x.moved s) { rd := true, wr := true, align := atomBytes x.i, size := atomBytes x.i, atomic := true } (ea x) = .go u qs)
    (hq : qs.map (·.l) = x.ex) : ∃ t, exec i s = .next t ∧ Passed s u x Thread.plainly (x.emptied (atomResult x.i 0).isSome) t ∧
      SameTables s t ∧ (t.core x.g.core).atoms = (s.core x.g.core).atoms ++ [x.atom xv yv s qs] := by
  have he : (qs.map (·.l)).Nodup := hq ▸ ready_ex_nodup hr
  obtain ⟨hal, hup⟩ := access_upkeep (ready_ex_nodup hr) ha hq
  have hb := atomBody_posts (xv := xv) (yv := yv) ha he (fun h => hne (by rw [← hq, h]; rfl))
  have hquiet := quiet_atomIssued x xv yv u qs
  refine ⟨x.settled (x.atomIssued xv yv u qs), exec_done hx hr (hq ▸ hb), passed_settled hr (fun l a b => keeps_plainly)
    (emptying_bytes x u _) (fun c w l => ?_), sameTables_settled hr (fun c w => ?_), ?_⟩
  · rw [hquiet.thread, emptying_thread x u he, hq]
    split
    · exact emptied_plainly (hal.threads c w l)
    · exact hal.threads c w l
  · rw [hquiet]
    exact (emptying_tables x u he c w).trans (hal.tables c w)
  · rw [atoms_settled, atoms_issued, hup.atoms, Iss.moved, State.advance, core_modThreads_atoms,
      atom_congr (fun c w => (hal.tables c w).trans (moved_tables hr c w)) hup.step]

/-- An atomic is posted by its lanes and performed on its word; the four equations say what it is. -/
theorem atomics_of {i : Instr} {ea xv yv : Iss → Nat → Nat} {n : Nat} {new : Nat → Nat → Nat → Option Nat} {res : Nat → Option Nat}
    (hx : ∀ s, exec i s = issue i (atomBody ea xv yv) s) (hn : atomBytes i = n) (hnew : atomNew i = new) (hres : atomResult i = res) :
    Atomics i ea xv yv n new res := by
  subst hn hnew hres
  refine ⟨fun s x u qs hr hne ha hq => ?_, fun s core idx a q pa ha hi hls hq _ _ hl hr => ?_⟩
  · obtain ⟨-, -, -, -, rfl⟩ := ready_ex hr
    exact atoms_post hx hr hne ha hq
  · subst hi
    obtain ⟨t, he, hb, hd⟩ := atomicPerform_memory ha hls hq hl hr rfl
    refine ⟨t, _, he, rfl, fun b => (hb b).trans ?_, fun v hv h511 h48 hlive => (hd v hv h511 h48 hlive).trans ?_⟩
    · generalize atomNew a.instr _ _ _ = new
      cases new <;> rfl
    · rw [Atom.result, if_neg h511]
      rfl

/-- Settles O22: every integer atomic is of that form. -/
theorem integerAtomics : Obligations.IntegerAtomics := by
  refine ⟨fun o => ?_, fun o => ?_, fun o => ?_, fun o => ?_, fun o => ?_, fun o => ?_, fun o => ?_, fun o => ?_, fun o => ?_⟩ <;>
    exact atomics_of (fun _ => rfl) rfl rfl rfl

/-- Settles O23: afadd and the three exact forms are of that form too. -/
theorem floatAndExactAtomics : Obligations.FloatAndExactAtomics := by
  refine ⟨fun o => ?_, fun o => ?_, fun o => ?_, fun o => ?_⟩ <;> exact atomics_of (fun _ => rfl) rfl rfl rfl

end Sys2Proof.Machine
end

section
/-! SUPPORT. The statement on arrivals speaks of every lane that rvsync leaves waiting, one that bears the mark of an earlier
wait included. -/

namespace Sys2Proof.Machine

/-- An arrive-and-wait at rendezvous point 0. -/
def syncWord : AForm :=
  { pred := 7, psense := false, d := 0, a := 0, b := 0, c := 0, keep := 0, empA := false, empB := false, empC := false,
    ty := 0, mod := 0 }

/-- Lane 0 of weave 0 of core 0 bears the mark of an earlier wait at its word; point 0 of its team expects two arrivals. -/
def markedArrival : State :=
  { cores := [(0, { Core.init with
      weaves := [(0, { team := some 1, threads := [(0, { mode := .ready, mark := some { pc := 0, id := 0 } })] })]
      teams := [(1, { id := 1, kd := { rv := 1 }, slots := [0], points := [(0, { armed := true, exp := 2, arr := 0 })] })] })],
    cur := { core := 0, slot := 0, lanes := 1 } }

/-- The issue of the arrive-and-wait by that lane. -/
def markedSync : Iss :=
  { g := { core := 0, slot := 0, lanes := [0], pc := 0, ctl := {}, spec := false }, i := .rvsync syncWord,
    f := syncWord.fields, r := (Instr.rvsync syncWord).row, ex := [0], old := markedArrival }

theorem markedSync_ready : Ready (.rvsync syncWord) markedArrival markedSync := by decide +kernel

/-- A lane that rvsync leaves waiting at its word keeps the mark that it bore there. -/
theorem rvsync_keeps_mark :
    ((markedSync.finish (syncBody false markedSync (markedSync.moved markedArrival))).thread 0 0 0).mark =
      some { pc := 0, id := 0 } := by
  decide +kernel

/-- Refutes O27: its third clause says that a lane that rvsync leaves waiting is, but for PENDING and its place, as after any
other word, its mark gone; but a lane that bore a mark at the word still bears it, since it has not gone past the word. The
state `markedArrival` is the counterexample. -/
theorem not_arrivals : ¬ Obligations.Arrivals := by
  intro h
  obtain ⟨-, -, rvsync, -⟩ := h
  obtain ⟨t, ht, -, -, -, hlanes⟩ := rvsync syncWord markedArrival markedSync markedSync_ready (by decide +kernel) (by decide +kernel)
    (by decide +kernel) (by decide +kernel) (by decide +kernel) (by decide +kernel)
  have he := (issue_go (syncBody false) markedSync_ready).symm.trans ht
  injection he with he
  have hmark := congrArg Thread.mark (hlanes 0 (by decide))
  rw [← he] at hmark
  exact absurd (rvsync_keeps_mark.symm.trans hmark) (by decide)

end Sys2Proof.Machine
end

section
/-! SUPPORT. Completion counters of a team: what a charge and a discharge leave of it (10 R346). -/

namespace Sys2Proof.Machine

/-- A counter that a discharge or a charge draws a value for stands on the same cores. -/
theorem findTeam_modCounter {s : State} {y c : Nat} {m : Team} (h : s.findTeam y = some (c, m)) (core n : Nat)
    (f : Counter → Counter) : (s.modCounter core (some y) n f).findTeam y =
      some (c, { m with counters := tabSet n (f (tabGet {} n m.counters)) m.counters }) :=
  findTeam_modTeam h _

theorem findTeam_charge {s : State} {y c : Nat} {m : Team} (h : s.findTeam y = some (c, m)) (core : Nat) (cc : Option Nat)
    (cmd n : Nat) : ∃ cs, (s.charge core (some y) cc cmd n).findTeam y = some (c, { m with counters := cs }) := by
  cases cc with
  | none => exact ⟨m.counters, h⟩
  | some k =>
    unfold State.charge
    dsimp only
    split
    · exact ⟨m.counters, h⟩
    · split
      · exact ⟨_, findTeam_modCounter (s := s.draw.2) h core k _⟩
      · exact ⟨_, findTeam_modCounter h core k _⟩

theorem sameWeaves_modCounter (s : State) (core : Nat) (team : Option Nat) (n : Nat) (f : Counter → Counter) :
    SameWeaves s (s.modCounter core team n f) := by
  cases team with
  | none =>
    exact sameWeaves_modCore s core (fun k => { k with fwCounters := tabSet n (f (tabGet {} n k.fwCounters)) k.fwCounters })
      (fun _ => rfl)
  | some y => exact sameWeaves_modTeam s y _

theorem sameWeaves_draw (s : State) : SameWeaves s s.draw.2 := sameWeaves_of rfl rfl rfl

theorem sameWeaves_charge (s : State) (core : Nat) (team cc : Option Nat) (cmd n : Nat) :
    SameWeaves s (s.charge core team cc cmd n) := by
  cases cc with
  | none => exact .rfl' s
  | some k =>
    unfold State.charge
    dsimp only
    split
    · exact .rfl' s
    · split
      · exact (sameWeaves_draw s).trans (sameWeaves_modCounter _ _ _ _ _)
      · exact sameWeaves_modCounter _ _ _ _ _

theorem counter_of_find {s : State} {y c : Nat} {m : Team} (h : s.findTeam y = some (c, m)) (core k : Nat) :
    s.counter core (some y) k = tabGet {} k m.counters := by
  rw [State.counter, team_of_find h]

/-- A charge within the 56 bits of COUNT stands in COUNT and among the charges (10 R346). -/
theorem charge_charged {s : State} {y c : Nat} {m : Team} (h : s.findTeam y = some (c, m)) (core : Nat) (cc : Option Nat)
    (cmd n : Nat) : Charged s (s.charge core (some y) cc cmd n) core (some y) cc cmd n := by
  cases cc with
  | none => exact fun _ => rfl
  | some k =>
    intro hn hlt
    unfold State.charge
    dsimp only
    rw [if_neg hn, if_neg (by omega), counter_of_find (findTeam_modCounter h core k _), tabGet_set, if_pos rfl,
      counter_of_find h]
    rw [counter_of_find h] at hlt
    have hcount : ∀ free, countOf (((tabGet {} k m.counters).count : Int) + n) free = (tabGet {} k m.counters).count + n :=
      fun free => (if_neg (by omega)).trans (by omega)
    rw [hcount]

end Sys2Proof.Machine
end

section
/-! SUPPORT. Matrix commands are posted (09 R307, R312 to R323): one law of the queue, and what each body leads to. -/

namespace Sys2Proof.Machine

/-! ### The queue (09 R307) -/

/-- The command as it enters the queue: numbered, attached to the current phase, and charged. -/
def Iss.attached (x : Iss) (s : State) (y : Nat) (c : MatCmd) : MatCmd :=
  { c with id := s.nextId, cv := x.f.d.toNat % 16, ph := (x.convReg s y).ph, left := c.bytes }

/-- A number taken. -/
def State.numbered (s : State) : State := { s with nextId := s.nextId + 1 }
/-- The charge of a command on its counter, its number taken. -/
def Iss.chargedFor (x : Iss) (s : State) (y : Nat) (c : MatCmd) : State :=
  s.numbered.charge x.g.core (some y) c.cc s.nextId c.bytes

/-- The state in which the command stands last in the team's queue. -/
def Iss.queued (x : Iss) (s : State) (y : Nat) (c : MatCmd) : State :=
  (x.chargedFor s y c).modTeam y (fun z => { z with matq := z.matq ++ [x.attached s y c] })

section
variable {x : Iss} {s : State} {y : Nat} {c : MatCmd}

theorem enqueue_disarmed (h : (x.convReg s y).armed = false) : x.enqueue s y c = .trap s [] trapBarrier 4 x.ex :=
  if_pos (congrArg Bool.not h)

theorem enqueue_armed (h : (x.convReg s y).armed = true) : x.enqueue s y c =
    if 16 ≤ (s.team y).matq.length then .wait s else .done (x.queued s y c) x.ex :=
  if_neg (Bool.eq_false_iff.1 (congrArg Bool.not h))

theorem enqueue_full (h : (x.convReg s y).armed = true) (hq : 16 ≤ (s.team y).matq.length) : x.enqueue s y c = .wait s :=
  (enqueue_armed h).trans (if_pos hq)

theorem enqueue_room (h : (x.convReg s y).armed = true) (hq : (s.team y).matq.length < 16) :
    x.enqueue s y c = .done (x.queued s y c) x.ex := (enqueue_armed h).trans (if_neg (by omega))
end

theorem sameWeaves_queued (x : Iss) (s : State) (y : Nat) (c : MatCmd) : SameWeaves s (x.queued s y c) :=
  ((sameWeaves_of (s := s) (u := s.numbered) rfl rfl rfl).trans (sameWeaves_charge _ _ _ _ _ _)).trans (sameWeaves_modTeam _ y _)

/-- 09 R307: the command stands last in the queue, with its charge. -/
theorem queued_matPosted {x : Iss} {s : State} {y : Nat} {c : MatCmd} (h : (s.findTeam y).isSome = true) (hcc : c.cc = x.cc) :
    MatPosted s x y c (x.queued s y c) := by
  obtain ⟨⟨k, m⟩, hm⟩ := Option.isSome_iff_exists.1 h
  obtain ⟨cs, hcs⟩ := findTeam_charge (s := s.numbered) hm x.g.core c.cc s.nextId c.bytes
  have hq : (x.queued s y c).findTeam y = some (k, { m with counters := cs, matq := m.matq ++ [x.attached s y c] }) :=
    findTeam_modTeam hcs _
  refine ⟨?_, ?_, ?_⟩
  · rw [team_of_find hq, team_of_find hm]
    rfl
  · rw [team_of_find hq, team_of_find hm]
  · have hch : Charged s.numbered (x.chargedFor s y c) x.g.core (some y) c.cc s.nextId c.bytes :=
      charge_charged (s := s.numbered) hm x.g.core c.cc s.nextId c.bytes
    have hsame : ∀ n, (x.queued s y c).counter x.g.core (some y) n = (x.chargedFor s y c).counter x.g.core (some y) n :=
      fun n => (counter_of_find hq _ n).trans (counter_of_find hcs _ n).symm
    rw [← hcc]
    cases hc : c.cc with
    | none =>
      rw [hc] at hch
      exact fun n => (hsame n).trans (hch n)
    | some n =>
      rw [hc] at hch
      exact fun hn hlt => (hsame n).trans (hch hn hlt)

/-! ### Words of an X-form -/

/-- A word without keep leaves the operand buffers. -/
theorem settled_unkept {i : Instr} {s : State} {x : Iss} (hr : Ready i s x) (hk : (i.fields.getD {}).keep = 0) (u : State) :
    x.settled u = u := by
  obtain ⟨-, -, hf, -⟩ := ready_ex hr
  have hnone : x.kept = none := by
    unfold Iss.kept
    rw [hf, hk]
    rfl
  rw [Iss.settled, Iss.keep, hnone]

/-! ### Posting a command on conditions of the operands -/

section
variable {i : Instr} {pre : Iss → Prop} {cmd : Iss → MatCmd}

/-- An instruction whose body enters its command into the queue. -/
theorem matPosts_of {body : Iss → State → Act} (hx : ∀ s, exec i s = issue i body s) (hk : (i.fields.getD {}).keep = 0)
    (hcc : ∀ x, (cmd x).cc = x.cc)
    (hb : ∀ x s, x.teamed s → pre x → body x s = x.enqueue s (x.mine s) (cmd x)) : MatPosts i pre cmd := by
  refine ⟨fun s x hr ht hp hroom => ?_, raises_of hx (fun x s ⟨ht, hp, ha⟩ => ?_), waits_of hx (fun x s ⟨ht, hp, ha, hq⟩ => ?_)⟩
  · obtain ⟨hfind, harmed, hlen⟩ := hroom
    refine ⟨_, exec_done hx hr ((hb _ _ ht hp).trans (enqueue_room harmed hlen)),
      stands_unit (ready_nodup hr) (ready_ex_nodup hr) (ready_sub hr) (sameWeaves_queued _ _ _ _), ?_⟩
    rw [settled_unkept hr hk]
    exact queued_matPosted hfind (hcc x)
  · exact (hb x s ht hp).trans (enqueue_disarmed ha)
  · exact (hb x s ht hp).trans (enqueue_full ha hq)

theorem MatPosts.completes (h : MatPosts i pre cmd) : Completes i (fun x s => x.teamed s ∧ pre x ∧ x.matRoom s) := by
  intro s x hr ⟨ht, hp, hroom⟩
  obtain ⟨t, he, hst, -⟩ := h.1 s x hr ht hp hroom
  exact ⟨t, he, fun l hl => ⟨(hst.lanes l hl).ctl, (hst.lanes l hl).mode⟩⟩

/-- The same where the operands play no part. -/
theorem MatPosts.completes_always (h : MatPosts i (fun _ => True) cmd) : Completes i (fun x s => x.teamed s ∧ x.matRoom s) :=
  fun s x hr ⟨ht, hroom⟩ => h.completes s x hr ⟨ht, trivial, hroom⟩
end

/-! ### Commands without rows, and commands on rows -/

theorem matPlain_teamed {x : Iss} {s : State} (ht : x.teamed s) : matPlain x s = x.enqueue s (x.mine s) x.matCmd := by
  rw [matPlain, uniform_alike s ⟨ht.2, fun _ _ => rfl⟩, team_some ht.1]

theorem matRows_teamed {norm : Bool} {x : Iss} {s : State} (ht : x.teamed s) (ha : x.alike (fun x l => [x.a l, x.b l])) :
    matRows norm x s = if shapeOk norm (x.a x.low) (x.b x.low) = true then x.enqueue s (x.mine s) (x.rowCmd norm)
      else .trap s [] trapProt 0x1B x.ex := by
  rw [matRows, uniform_alike s ha, team_some ht.1]
  dsimp only
  rw [show x.rowCmd norm = { x.matCmd with
    acc := bitsAt (x.a x.low) 0 19, rows := bitsAt (x.b x.low) 0 12, stride := bitsAt (x.b x.low) 16 16,
    q := if norm then bitsAt (x.a x.low) 20 8 else 0 } by simp [Iss.rowCmd, bitsAt]]
  cases shapeOk norm (x.a x.low) (x.b x.low) <;> rfl

theorem plain_posts {i : Instr} (hx : ∀ s, exec i s = issue i matPlain s) (hk : (i.fields.getD {}).keep = 0) :
    MatPosts i (fun _ => True) Iss.matCmd := matPosts_of hx hk (fun _ => rfl) (fun _ _ ht _ => matPlain_teamed ht)

section
variable {i : Instr} {norm : Bool} (hx : ∀ s, exec i s = issue i (matRows norm) s)
include hx

theorem rows_posts (hk : (i.fields.getD {}).keep = 0) : MatPosts i (fun x => x.rowsOk norm) (fun x => x.rowCmd norm) :=
  matPosts_of hx hk (fun _ => rfl) (fun _ _ ht ⟨ha, hs⟩ => (matRows_teamed ht ha).trans (if_pos hs))

/-- 09 R312, R313: ACC or SHAPE that are not acceptable. -/
theorem rows_raises : Raises i (fun x s => x.teamed s ∧ x.alike (fun x l => [x.a l, x.b l]) ∧
    shapeOk norm (x.a x.low) (x.b x.low) = false) 8 0x1B (fun x => x.ex) :=
  raises_of hx (fun _ _ ⟨ht, ha, hs⟩ => (matRows_teamed ht ha).trans (if_neg (Bool.eq_false_iff.1 hs)))
end

/-- 09 Tables 5 and 6. -/
theorem shapeOk_iff (acc shape : Nat) : shapeOk false acc shape = true ↔
    acc / 2 ^ 19 % 2 ^ 13 = 0 ∧ shape / 2 ^ 12 % 2 ^ 4 = 0 ∧ shape % 2 ^ 12 ≠ 0 ∧ 192 ≤ shape / 2 ^ 16 % 2 ^ 16 ∧
      acc % 2 ^ 19 + (shape % 2 ^ 12 - 1) * (shape / 2 ^ 16 % 2 ^ 16) + 191 < 524288 := by
  simp only [shapeOk, Bool.false_eq_true, if_false, Bool.and_eq_true, beq_iff_eq, bne_iff_ne, decide_eq_true_iff, and_assoc]
  simp only [bitsAt, pow_zero, Nat.div_one]

/-! ### A plane load from memory (09 R314) -/

theorem matLoadMem_misaligned {x : Iss} {s : State} (ht : x.teamed s) (ha : x.alike (fun x l => [x.a l]))
    (h : x.a x.low % 256 ≠ 0) : matLoadMem x s = .trap s [] trapAlign 0 x.ex := by
  rw [matLoadMem, uniform_alike s ha, team_some ht.1]
  exact if_pos h

theorem matLoadMem_passes {x : Iss} {s u : State} (ht : x.teamed s) (ha : x.alike (fun x l => [x.a l]))
    (h : x.a x.low % 256 = 0)
    (hc : s.checkRange x.agent { rd := true, noWindow := true, reach := false } (x.a x.low) x.matCmd.bytes = (u, none)) :
    matLoadMem x s = x.enqueue u (x.mine s) { x.matCmd with addr := x.a x.low } := by
  rw [matLoadMem, uniform_alike s ha, team_some ht.1]
  dsimp only
  rw [if_neg (not_not.2 h)]
  have hc' : s.checkRange x.agent { engineAcc false with noWindow := true, reach := false } (x.a x.low)
      (MatCmd.bytes { x.matCmd with addr := x.a x.low }) = (u, none) := hc
  rw [hc']

theorem alike_checkRange (s : State) (a : Agent) (acc : Acc) (va n : Nat) : Alike s (s.checkRange a acc va n).1 :=
  alike_checkList s a acc _

/-- 09 R314: a plane load whose pages pass their checks is posted. -/
theorem mldl_posts {o : XForm} {s u : State} {x : Iss} (hr : Ready (.mldl o) s x) (ht : x.teamed (x.moved s))
    (ha : x.alike (fun x l => [x.a l])) (h : x.a x.low % 256 = 0)
    (hc : (x.moved s).checkRange x.agent { rd := true, noWindow := true, reach := false } (x.a x.low) x.matCmd.bytes = (u, none))
    (hroom : x.matRoom u) (hteam : (u.weave x.g.core x.g.slot).team = ((x.moved s).weave x.g.core x.g.slot).team) :
    ∃ t, exec (.mldl o) s = .next t ∧ MatPosted u x (x.mine (x.moved s)) { x.matCmd with addr := x.a x.low } t ∧
      SameTables s t ∧ Passed s u x Thread.plainly (fun _ t => t) t := by
  obtain ⟨hfind, harmed, hlen⟩ := hroom
  have hmine : x.mine u = x.mine (x.moved s) := congrArg (·.getD 0) hteam
  rw [hmine] at hfind harmed hlen
  have hal : Alike (x.moved s) u := by
    have := alike_checkRange (x.moved s) x.agent { rd := true, noWindow := true, reach := false } (x.a x.low) x.matCmd.bytes
    rwa [hc] at this
  have hw := sameWeaves_queued x u (x.mine (x.moved s)) { x.matCmd with addr := x.a x.low }
  have hal' := hal.trans (Quiet.alike hw.weave)
  refine ⟨_, exec_done (execMldl.eq_def o) hr ((matLoadMem_passes ht ha h hc).trans (enqueue_room harmed hlen)), ?_,
    sameTables_settled hr hal'.tables, passed_settled hr (fun _ _ _ => keeps_plainly) hw.bytes (fun c w l => ?_)⟩
  · rw [settled_unkept hr rfl]
    exact queued_matPosted hfind rfl
  · rw [ite_self]
    exact hal'.threads c w l

/-- A group that has been past its checks stands at the next word. -/
theorem Passed.stepped {s u t : State} {x : Iss} (h : Passed s u x Thread.plainly (fun _ t => t) t) {l : Nat} (hl : l ∈ x.g.lanes) :
    (t.thread x.g.core x.g.slot l).ctl = (s.thread x.g.core x.g.slot l).ctl.next x.words ∧
      (t.thread x.g.core x.g.slot l).mode = .ready := by
  by_cases hx : l ∈ x.ex
  · exact ⟨congrArg Thread.ctl (h.lanes l hx), congrArg Thread.mode (h.lanes l hx)⟩
  · exact ⟨congrArg Thread.ctl (h.skipped l hl hx), congrArg Thread.mode (h.skipped l hl hx)⟩

theorem mldl_completes (o : XForm) : Completes (.mldl o) (fun x s => x.teamed s ∧ x.alike (fun x l => [x.a l]) ∧ x.a x.low % 256 = 0 ∧ ∃ u,
    s.checkRange x.agent { rd := true, noWindow := true, reach := false } (x.a x.low) x.matCmd.bytes = (u, none) ∧
    x.matRoom u ∧ (u.weave x.g.core x.g.slot).team = (s.weave x.g.core x.g.slot).team) := by
  intro s x hr ⟨ht, ha, h, u, hc, hroom, hteam⟩
  obtain ⟨t, he, -, -, hp⟩ := mldl_posts hr ht ha h hc hroom hteam
  exact ⟨t, he, fun _ hl => hp.stepped hl⟩

/-! ### The obligation -/

/-- Settles O34: every body enters its command into the one queue. -/
theorem matrixCommandsArePosted : Obligations.MatrixCommandsArePosted := by
  have mlds : ∀ o, MatPosts (.mlds o) (fun _ => True) Iss.matCmd := fun o => plain_posts (execMlds.eq_def o) rfl
  have mswap : ∀ o, MatPosts (.mswap o) (fun _ => True) Iss.matCmd := fun o => plain_posts (execMswap.eq_def o) rfl
  have mmul := fun o => rows_posts (i := .mmul o) (execMmul.eq_def o) rfl
  have mmulz := fun o => rows_posts (i := .mmulz o) (execMmulz.eq_def o) rfl
  have acst := fun o => rows_posts (i := .acst o) (execAcst.eq_def o) rfl
  have acld := fun o => rows_posts (i := .acld o) (execAcld.eq_def o) rfl
  have acsclRow := fun o => rows_posts (i := .acsclRow o) (execAcsclRow.eq_def o) rfl
  have acsclCol := fun o => rows_posts (i := .acsclCol o) (execAcsclCol.eq_def o) rfl
  have acredMax := fun o => rows_posts (i := .acredMax o) (execAcredMax.eq_def o) rfl
  have acredSum := fun o => rows_posts (i := .acredSum o) (execAcredSum.eq_def o) rfl
  have acbias := fun o => rows_posts (i := .acbias o) (execAcbias.eq_def o) rfl
  have acnrm := fun o => rows_posts (i := .acnrm o) (execAcnrm.eq_def o) rfl
  exact ⟨fun o => (mlds o).completes_always, fun o => (mswap o).completes_always, fun o => (mmul o).completes,
    fun o => (mmulz o).completes, fun o => (acst o).completes, fun o => (acld o).completes, fun o => (acsclRow o).completes,
    fun o => (acsclCol o).completes, fun o => (acredMax o).completes, fun o => (acredSum o).completes,
    fun o => (acbias o).completes, fun o => (acnrm o).completes, mldl_completes,
    mlds, mswap, mmul, mmulz, acst, acld, acsclRow, acsclCol, acredMax, acredSum, acbias, acnrm,
    fun o => rows_raises (i := .mmul o) (execMmul.eq_def o), fun o => rows_raises (i := .mmulz o) (execMmulz.eq_def o), fun o => rows_raises (i := .acst o) (execAcst.eq_def o),
    fun o => rows_raises (i := .acld o) (execAcld.eq_def o), fun o => rows_raises (i := .acsclRow o) (execAcsclRow.eq_def o), fun o => rows_raises (i := .acsclCol o) (execAcsclCol.eq_def o),
    fun o => rows_raises (i := .acredMax o) (execAcredMax.eq_def o), fun o => rows_raises (i := .acredSum o) (execAcredSum.eq_def o), fun o => rows_raises (i := .acbias o) (execAcbias.eq_def o),
    fun o => rows_raises (i := .acnrm o) (execAcnrm.eq_def o), shapeOk_iff, fun _ _ _ _ => mldl_posts,
    fun o => raises_of (execMldl.eq_def o) (fun _ _ ⟨ht, ha, h⟩ => matLoadMem_misaligned ht ha h)⟩

end Sys2Proof.Machine
end

section
/-! SUPPORT. Convergence registers (09 R306, R310) and direct access to the accumulator store (09 R325). -/

namespace Sys2Proof.Machine

/-! ### cvinit -/

section
variable {x : Iss} {s : State}

theorem cvinit_alike (ht : x.teamed s) (ha : x.alike (fun x l => [x.a l])) : cvinitBody x s =
    if 1024 < x.a x.low then .trap s [] trapBarrier 8 x.ex
    else if x.a x.low = 0 then
      if ((s.convSoon x.g.core (x.mine s) x.cv).conv x.cv).sgn ≠ 0 ∨ (s.convSoon x.g.core (x.mine s) x.cv).pendCmds x.cv ≠ 0 then
        .trap s [] trapBarrier 7 x.ex
      else if s.signsOf x.g.core (x.mine s) x.cv ≠ 0 then .wait s
      else .done (s.modConv (x.mine s) x.cv (fun v => { v with armed := false, exp := 0 })) x.ex
    else if ((s.team (x.mine s)).conv x.cv).armed && ((s.team (x.mine s)).conv x.cv).exp != x.a x.low then
      .trap s [] trapBarrier 3 x.ex
    else .done (s.modConv (x.mine s) x.cv (fun v => { v with armed := true, exp := x.a x.low })) x.ex := by
  obtain ⟨t, he⟩ := ex_low ha.1
  unfold cvinitBody
  rw [differ_nil ha, team_some ht.1, he]

/-- No signature stands that has still to take effect. -/
theorem convSoon_settled {c y k : Nat} (h : s.signsOf c y k = 0) : s.convSoon c y k = s.team y := by
  rw [State.convSoon, h]
  rfl

theorem cvinit_runs (ht : x.teamed s) (ha : x.alike (fun x l => [x.a l])) (hl : x.a x.low ≤ 1024)
    (h0 : x.a x.low = 0 → ((s.team (x.mine s)).conv x.cv).sgn = 0 ∧ (s.team (x.mine s)).pendCmds x.cv = 0 ∧
      s.signsOf x.g.core (x.mine s) x.cv = 0)
    (hn : x.a x.low ≠ 0 → ((s.team (x.mine s)).conv x.cv).armed = true → ((s.team (x.mine s)).conv x.cv).exp = x.a x.low) :
    cvinitBody x s = .done (s.modConv (x.mine s) x.cv (fun v => { v with armed := x.a x.low != 0, exp := x.a x.low })) x.ex := by
  rw [cvinit_alike ht ha, if_neg (by omega)]
  by_cases hz : x.a x.low = 0
  · obtain ⟨hsgn, hpend, hsigns⟩ := h0 hz
    rw [if_pos hz, convSoon_settled hsigns, if_neg (by simp [hsgn, hpend]), if_neg (not_not.2 hsigns), hz]
    rfl
  · rw [if_neg hz, if_neg (by simpa using hn hz), show (x.a x.low != 0) = true by simpa using hz]
end

theorem sameWeaves_modConv (s : State) (y k : Nat) (f : Conv → Conv) : SameWeaves s (s.modConv y k f) := sameWeaves_modTeam s y _

theorem cvinit_acts (o : AForm) : Acts (.cvinit o) (fun x s => x.teamed s ∧ x.alike (fun x l => [x.a l]) ∧ x.a x.low ≤ 1024 ∧
      (x.a x.low = 0 → ((s.team (x.mine s)).conv x.cv).sgn = 0 ∧ (s.team (x.mine s)).pendCmds x.cv = 0 ∧ s.signsOf x.g.core (x.mine s) x.cv = 0) ∧
      (x.a x.low ≠ 0 → ((s.team (x.mine s)).conv x.cv).armed = true → ((s.team (x.mine s)).conv x.cv).exp = x.a x.low)) still
    (fun x s => s.modConv (x.mine s) x.cv (fun v => { v with armed := x.a x.low != 0, exp := x.a x.low })) :=
  acts_still (execCvinit.eq_def o) (fun _ _ ⟨ht, ha, hl, h0, hn⟩ => cvinit_runs ht ha hl h0 hn) (fun _ s _ => sameWeaves_modConv s _ _ _)

theorem cvinit_beyond (o : AForm) : Raises (.cvinit o)
    (fun x s => x.teamed s ∧ x.alike (fun x l => [x.a l]) ∧ 1024 < x.a x.low) 5 8 (fun x => x.ex) :=
  raises_of (execCvinit.eq_def o) (fun _ _ ⟨ht, ha, h⟩ => (cvinit_alike ht ha).trans (if_pos h))

theorem cvinit_outstanding (o : AForm) : Raises (.cvinit o) (fun x s => x.teamed s ∧ x.alike (fun x l => [x.a l]) ∧ x.a x.low = 0 ∧
    (((s.convSoon x.g.core (x.mine s) x.cv).conv x.cv).sgn ≠ 0 ∨ ((s.convSoon x.g.core (x.mine s) x.cv)).pendCmds x.cv ≠ 0)) 5 7
    (fun x => x.ex) :=
  raises_of (execCvinit.eq_def o) (fun _ _ ⟨ht, ha, hz, h⟩ => by
    rw [cvinit_alike ht ha, if_neg (by omega), if_pos hz, if_pos h]
    rfl)

theorem cvinit_waits (o : AForm) : Waits (.cvinit o) (fun x s => x.teamed s ∧ x.alike (fun x l => [x.a l]) ∧ x.a x.low = 0 ∧
    s.signsOf x.g.core (x.mine s) x.cv ≠ 0 ∧
    ((s.convSoon x.g.core (x.mine s) x.cv).conv x.cv).sgn = 0 ∧ ((s.convSoon x.g.core (x.mine s) x.cv)).pendCmds x.cv = 0) :=
  waits_of (execCvinit.eq_def o) (fun _ _ ⟨ht, ha, hz, hs, hsgn, hpend⟩ => by
    rw [cvinit_alike ht ha, if_neg (by omega), if_pos hz, if_neg (by simp [hsgn, hpend]), if_pos hs])

theorem cvinit_differs (o : AForm) : Raises (.cvinit o) (fun x s => x.teamed s ∧ x.alike (fun x l => [x.a l]) ∧ x.a x.low ≤ 1024 ∧ x.a x.low ≠ 0 ∧
    ((s.team (x.mine s)).conv x.cv).armed = true ∧ ((s.team (x.mine s)).conv x.cv).exp ≠ x.a x.low) 5 3 (fun x => x.ex) :=
  raises_of (execCvinit.eq_def o) (fun _ _ ⟨ht, ha, hl, hz, harmed, hexp⟩ => by
    rw [cvinit_alike ht ha, if_neg (by omega), if_neg hz, if_pos (by simp [harmed, hexp])]
    rfl)

/-! ### Signatures -/

theorem signsOf_eq (s : State) (c y k : Nat) :
    s.signsOf c y k = (((s.core c).signs.filter (fun g => g.team = y ∧ g.cv = k)).map (·.lanes)).sum := by
  simp only [State.signsOf, Bool.decide_and]

/-- The signature as the team counts it, one for each lane. -/
def Sign.counted (g : Sign) (y : Team) : Team :=
  (List.range g.lanes).foldl (fun y _ => if (y.conv g.cv).armed = true then y.sign g.cv else y) y

/-- The core with the signatures that have still to wait. -/
def Core.unsettled (k : Core) : Core := { k with signs := k.signs.filter (fun g => k.signWaits g) }

theorem settleSigns_eq (s : State) (c : Nat) : s.settleSigns c =
    if ((s.core c).signs.filter (fun g => !(s.core c).signWaits g)).isEmpty = true then s else
      ((s.core c).signs.filter (fun g => !(s.core c).signWaits g)).foldl (fun (s : State) (g : Sign) => s.modTeam g.team g.counted)
        (s.modCore c Core.unsettled) := rfl

theorem sameWeaves_settleSigns (s : State) (c : Nat) : SameWeaves s (s.settleSigns c) := by
  rw [settleSigns_eq]
  split
  · exact .rfl' s
  · exact (sameWeaves_modCore s c Core.unsettled (fun _ => rfl)).trans (sameWeaves_fold _ _ (fun s (g : Sign) => sameWeaves_modTeam s g.team _) _)

theorem settleSigns_one {s : State} {c : Nat} {g : Sign} (h : (s.core c).signs = [g]) : s.settleSigns c =
    if (s.core c).signWaits g = true then s else
      (s.modCore c (fun k => { k with signs := [] })).modTeam g.team g.counted := by
  rw [settleSigns_eq, h]
  cases hw : (s.core c).signWaits g with
  | true => simp [hw]
  | false =>
    have hclear : s.modCore c Core.unsettled = s.modCore c (fun k => { k with signs := [] }) := by
      unfold State.modCore Core.unsettled
      dsimp only
      rw [h, List.filter_cons_of_neg (by simp [hw]), List.filter_nil]
    simp [hw, hclear]

/-- A signature waits for an access that its weave's threads issued before it (log entry 5). -/
theorem signWaits_early {k : Core} {g : Sign} {e : StoreEnt} (he : e ∈ (k.weave g.slot).queued ++ k.pending)
    (hs : e.slot = g.slot) (ht : e.team = some g.team) (hb : e.born ≤ g.born) : k.signWaits g = true := by
  have hearly : ((e.slot == g.slot || e.slot == 48) && e.team == some g.team && decide (e.born ≤ g.born)) = true := by
    simp [hs, ht, hb]
  unfold Core.signWaits
  dsimp only
  rcases List.mem_append.1 he with he | he
  · rw [List.any_eq_true.2 ⟨e, he, hearly⟩]
    rfl
  · rw [List.any_eq_true.2 ⟨e, he, hearly⟩, Bool.or_true]
    rfl

theorem conv_set (y : Team) (q : List MatCmd) (k : Nat) (v : Conv) (j : Nat) :
    Team.conv { y with matq := q, convs := tabSet k v y.convs } j = if j = k then v else y.conv j := tabGet_set ..

/-- 09 R306: the signature that completes the phase releases the commands attached to it, and no others. -/
theorem sign_effect (y : Team) (k : Nat) : (∀ j, j ≠ k → (y.sign k).conv j = y.conv j) ∧
    (if (y.conv k).sgn + 1 = (y.conv k).exp then
      (y.sign k).conv k = { y.conv k with sgn := 0, ph := ((y.conv k).ph + 1) % 256 } ∧ (y.sign k).matq = y.matq.map (fun c =>
        if c.cv = k ∧ c.ph = (y.conv k).ph then { c with released := true } else c)
    else (y.sign k).conv k = { y.conv k with sgn := (y.conv k).sgn + 1 } ∧ (y.sign k).matq = y.matq) := by
  unfold Team.sign
  dsimp only
  split
  · refine ⟨fun j hj => (conv_set ..).trans (if_neg hj), (conv_set ..).trans (if_pos rfl), ?_⟩
    simp only [Bool.and_eq_true, decide_eq_true_eq]
  · exact ⟨fun j hj => (conv_set y y.matq ..).trans (if_neg hj), (conv_set y y.matq ..).trans (if_pos rfl), rfl⟩

section
variable {x : Iss} {s : State}

theorem msign_teamed (ht : x.teamed s) : msignBody x s =
    if ((s.team (x.mine s)).conv x.cv).armed = false then .trap s [] trapBarrier 4 x.ex
    else .done ((s.modCore x.g.core (fun k => { k with signs := k.signs ++
      [{ team := x.mine s, slot := x.g.slot, cv := x.cv, lanes := x.ex.length, born := s.tick }] })).settleSigns x.g.core) x.ex := by
  unfold msignBody
  rw [team_some ht.1]
  dsimp only
  rw [List.isEmpty_eq_false_iff.2 ht.2]
  cases ((s.team (x.mine s)).conv x.cv).armed <;> rfl
end

theorem msign_acts (o : AForm) : Acts (.msign o) (fun x s => x.teamed s ∧ ((s.team (x.mine s)).conv x.cv).armed = true) still
    (fun x s => (s.modCore x.g.core (fun k => { k with signs := k.signs ++
      [{ team := x.mine s, slot := x.g.slot, cv := x.cv, lanes := x.ex.length, born := s.tick }] })).settleSigns x.g.core) :=
  acts_still (execMsign.eq_def o) (fun _ _ ⟨ht, h⟩ => by rw [msign_teamed ht, if_neg (by simp [h])])
    (fun x s _ => (sameWeaves_modCore s x.g.core (fun k => { k with signs := k.signs ++
      [{ team := x.mine s, slot := x.g.slot, cv := x.cv, lanes := x.ex.length, born := s.tick }] }) (fun _ => rfl)).trans
      (sameWeaves_settleSigns _ _))

theorem msign_raises (o : AForm) : Raises (.msign o) (fun x s => x.teamed s ∧ ((s.team (x.mine s)).conv x.cv).armed = false) 5 4
    (fun x => x.ex) :=
  raises_of (execMsign.eq_def o) (fun _ _ ⟨ht, h⟩ => (msign_teamed ht).trans (if_pos h))

/-! ### Lanes that earlier commands do not hold back -/

theorem eachMarked_goes {x : Iss} {s : State} {busy : Nat → Bool} (h : ∀ l ∈ x.ex, busy l = false)
    (acc : Nat → Option (Nat × Nat × Bool)) (f : Iss → State → State) : x.eachMarked s busy acc f = .done (f x s) x.ex := by
  have hgo : x.ex.filter (fun l => !busy l) = x.ex := List.filter_eq_self.2 (fun l hl => by rw [h l hl]; rfl)
  have hstay : x.ex.filter busy = [] := List.filter_eq_nil_iff.2 (fun l hl => by rw [h l hl]; exact Bool.false_ne_true)
  rw [Iss.eachMarked, hgo, hstay]
  rfl

theorem mwait_acts (o : AForm) : Acts (.mwait o)
    (fun x s => x.teamed s ∧ ∀ l ∈ x.ex, ∀ c ∈ (s.team (x.mine s)).matq, c.cv = x.cv → x.since s l ≤ c.id) still (fun _ s => s) := by
  refine acts_still (execMwait.eq_def o) (fun x s ⟨ht, h⟩ => ?_) (fun _ s _ => .rfl' s)
  unfold mwaitBody
  rw [team_some ht.1]
  dsimp only
  rw [List.isEmpty_eq_false_iff.2 ht.2]
  rw [if_neg Bool.false_ne_true]
  refine eachMarked_goes (fun l hl => List.any_eq_false.2 (fun c hc hb => ?_)) _ _
  obtain ⟨hcv, hlt⟩ := Bool.and_eq_true_iff.1 hb
  have hle := h l hl c hc (of_decide_eq_true hcv)
  have := of_decide_eq_true hlt
  omega

/-! ### Status of a register (09 R310) -/

theorem bit_mul (b : Bool) (n : Nat) : bit b * n = if b then n else 0 := by cases b <;> simp [bit]

/-- 09 Table 4. -/
theorem convWord_eq (y : Team) (k : Nat) : y.convWord k =
    (y.conv k).ph % 2 ^ 8 * 2 ^ 56 + (y.conv k).exp % 2 ^ 11 * 2 ^ 45 + (y.conv k).sgn % 2 ^ 11 * 2 ^ 34 + y.pendCmds k % 32 * 2 ^ 29 +
      y.runCmds k % 32 * 2 ^ 24 + (y.conv k).err % 256 * 2 ^ 16 + (y.conv k).done % 256 * 2 ^ 8 + (if (y.conv k).nan then 2 ^ 7 else 0) +
      (if (y.conv k).ovf then 2 ^ 6 else 0) + (if (y.conv k).isat then 2 ^ 5 else 0) + (if (y.conv k).nx then 2 ^ 4 else 0) +
      (if (y.conv k).armed then 1 else 0) := by
  unfold Team.convWord
  simp only [bit_mul]
  rfl

theorem mstat_acts (o : AForm) : Acts (.mstat o) (fun x s => (s.weave x.g.core x.g.slot).team.isSome = true)
    (gives fun x s => (s.team (x.mine s)).convWord x.cv) (fun x s => x.giveAll s ((s.team (x.mine s)).convWord x.cv)) := by
  refine acts_gives (eff := fun _ s => s) (execMstat.eq_def o) (fun x s ht => ?_) (fun _ _ _ => .rfl' _)
  rw [team_some ht]

theorem mstclr_acts (o : AForm) : Acts (.mstclr o) (fun x s => x.teamed s) still (fun x s => s.modConv (x.mine s) x.cv (fun v =>
    { v with err := 0, nan := false, ovf := false, isat := false, nx := false, done := 0 })) := by
  refine acts_still (execMstclr.eq_def o) (fun x s ht => ?_) (fun _ s _ => sameWeaves_modConv s _ _ _)
  rw [team_some ht.1]
  dsimp only
  rw [List.isEmpty_eq_false_iff.2 ht.2]
  rfl

/-! ### acrd and acwr (09 R325) -/

section
variable {x : Iss} {s : State} {wr : Bool} {f : Iss → State → State}

theorem accLanes_goes (ht : (s.weave x.g.core x.g.slot).team.isSome = true) (h : ∀ l ∈ x.ex, x.a l < 524288 ∧
    (s.team (x.mine s)).accBusy (x.since s l) (x.a l) (x.a l + 1) wr = false) : accLanes wr f x s = .done (f x s) x.ex := by
  have hin : x.ex.filter (fun l => decide (524288 ≤ x.a l)) = [] := List.filter_eq_nil_iff.2 (fun l hl => by
    have := (h l hl).1
    simpa using this)
  unfold accLanes
  rw [team_some ht, hin]
  exact eachMarked_goes (fun l hl => (h l hl).2) _ _

theorem accLanes_beyond (ht : (s.weave x.g.core x.g.slot).team.isSome = true) (h : ∃ l ∈ x.ex, 524288 ≤ x.a l) :
    accLanes wr f x s = .trap s [] trapProt 0x1B (x.ex.filter (fun l => decide (524288 ≤ x.a l))) := by
  obtain ⟨l, hl, hb⟩ := h
  obtain ⟨m, t, hm⟩ := List.exists_cons_of_ne_nil (List.ne_nil_of_mem
    (List.mem_filter.2 ⟨hl, decide_eq_true hb⟩ : l ∈ x.ex.filter (fun l => decide (524288 ≤ x.a l))))
  unfold accLanes
  rw [team_some ht, hm]
end

theorem acrd_acts (o : AForm) : Acts (.acrd o) (fun x s => (s.weave x.g.core x.g.slot).team.isSome = true ∧ ∀ l ∈ x.ex, x.a l < 524288 ∧
      (s.team (x.mine s)).accBusy (x.since s l) (x.a l) (x.a l + 1) false = false)
    (fun x s l => { reg := some (tabGet 0 (x.a l) (s.core x.g.core).acc).toNat })
    (fun x s => s.modThreads x.g.core x.g.slot x.ex (fun l t => t.dest x.f.d 32 (tabGet 0 (x.a l) (s.core x.g.core).acc).toNat)) := by
  intro s x hr ⟨ht, h⟩
  obtain ⟨-, -, hf, hrow, -⟩ := ready_ex hr
  have hwidth : 32 = x.r.d.width x.f.b := by rw [hrow, hf]; rfl
  refine ⟨exec_done (execAcrd.eq_def o) hr (accLanes_goes ht h), stands_effect _ (ready_nodup hr) (ready_ex_nodup hr) (ready_sub hr)
    (.rfl' _) (fun l _ t => ?_)⟩
  have he := dest_effect x t (tabGet 0 (x.a l) ((x.moved s).core x.g.core).acc).toNat
  rwa [← hwidth] at he

/-- Words written one after the other change the store alone. -/
theorem putAcc_fold (a b : Nat → Nat) (ls : List Nat) (k : Core) : ls.foldl (fun k l => k.putAcc (a l) (b l)) k =
    { k with acc := ls.foldl (fun m l => tabPut 0 (a l) (BitVec.ofNat 32 (b l)) m) k.acc } := by
  induction ls generalizing k with
  | nil => rfl
  | cons l t ih => rw [List.foldl_cons, ih]; rfl

theorem acwr_does (o : AForm) : Does (.acwr o) (fun x s => (s.weave x.g.core x.g.slot).team.isSome = true ∧ ∀ l ∈ x.ex, x.a l < 524288 ∧
      (s.team (x.mine s)).accBusy (x.since s l) (x.a l) (x.a l + 1) true = false)
    (fun x s => s.modCore x.g.core (fun k => { k with
      acc := x.ex.foldl (fun m l => tabPut 0 (x.a l) (BitVec.ofNat 32 (x.b l)) m) k.acc })) :=
  does_of (execAcwr.eq_def o) (fun x _ ⟨ht, h⟩ => by
    rw [accLanes_goes ht h]
    simp only [putAcc_fold])

/-! ### acclr (09 R325) -/

theorem acclr_alike {x : Iss} {s : State} (ht : x.teamed s) (ha : x.alike (fun x l => [x.a l, x.b l])) : acclrBody x s =
    if 255 < x.a x.low ∨ x.b x.low = 0 ∨ 256 < x.a x.low + x.b x.low then .trap s [] trapProt 0x1B x.ex
    else x.eachMarked s (fun _ => x.ex.any (fun l => (s.team (x.mine s)).accBusy (x.since s l) (2048 * x.a x.low)
        (2048 * (x.a x.low + x.b x.low)) true))
      (fun _ => some (2048 * x.a x.low, 2048 * (x.a x.low + x.b x.low), true))
      (fun y s => if y.ex.isEmpty then s else
        s.modCore y.g.core (fun k => k.clearRegions (x.a x.low) (x.b x.low) (y.f.ty == 1))) := by
  rw [acclrBody, uniform_alike s ha, team_some ht.1]

theorem acclr_does (o : AForm) : Does (.acclr o) (fun x s => x.teamed s ∧ x.alike (fun x l => [x.a l, x.b l]) ∧ 0 < x.b x.low ∧ x.a x.low + x.b x.low ≤ 256 ∧
      ∀ l ∈ x.ex, (s.team (x.mine s)).accBusy (x.since s l) (2048 * x.a x.low) (2048 * (x.a x.low + x.b x.low)) true = false)
    (fun x s => s.modCore x.g.core (fun k => k.clearRegions (x.a x.low) (x.b x.low) (x.f.ty == 1))) :=
  does_of (execAcclr.eq_def o) (fun x s ⟨ht, ha, hpos, hin, h⟩ => by
    have hfree : x.ex.any (fun l => (s.team (x.mine s)).accBusy (x.since s l) (2048 * x.a x.low)
        (2048 * (x.a x.low + x.b x.low)) true) = false := List.any_eq_false.2 (fun l hl => by simp [h l hl])
    rw [acclr_alike ht ha, if_neg (by omega), eachMarked_goes (fun _ _ => hfree), List.isEmpty_eq_false_iff.2 ht.2]
    rfl)

theorem acclr_raises (o : AForm) : Raises (.acclr o) (fun x s => x.teamed s ∧ x.alike (fun x l => [x.a l, x.b l]) ∧
    (x.b x.low = 0 ∨ 256 < x.a x.low + x.b x.low)) 8 0x1B (fun x => x.ex) :=
  raises_of (execAcclr.eq_def o) (fun _ _ ⟨ht, ha, h⟩ => (acclr_alike ht ha).trans (if_pos (.inr h)))

theorem tabFind_filter {α : Type} (p : Nat → Bool) (k : Nat) (t : Tab α) :
    tabFind k (t.filter (fun e => p e.1)) = if p k then tabFind k t else none := by
  induction t with
  | nil => simp [tabFind]
  | cons e t ih =>
    obtain ⟨j, v⟩ := e
    by_cases hj : j = k
    · subst hj
      cases hp : p j <;> simp [tabFind, hp, ih]
    · cases hp : p j <;> simp [tabFind, hp, ih, hj]

theorem tabGet_fill (a n r : Nat) (b : Bool) (m : Tab Bool) :
    tabGet false r ((List.range n).foldl (fun m i => tabPut false (a + i) b m) m) =
      if a ≤ r ∧ r < a + n then b else tabGet false r m := by
  induction n with
  | zero => rw [if_neg (by omega)]; rfl
  | succ n ih =>
    rw [List.range_succ, List.foldl_concat, tabGet_put, ih]
    by_cases h : r = a + n
    · rw [if_pos h, if_pos (by omega)]
    · rw [if_neg h]
      exact if_congr (by omega) rfl rfl

/-- 09 R325: the words of the regions are zero and carry the tag; every other word and tag stands. -/
theorem clearRegions_effect (k : Core) (a n : Nat) (int : Bool) :
    (∀ i, (k.clearRegions a n int).accWord i = if 2048 * a ≤ i ∧ i < 2048 * (a + n) then 0 else k.accWord i) ∧
    ∀ r, tabGet false r (k.clearRegions a n int).accInt = if a ≤ r ∧ r < a + n then int else tabGet false r k.accInt := by
  refine ⟨fun i => ?_, fun r => tabGet_fill a n r int k.accInt⟩
  unfold Core.accWord Core.clearRegions tabGet
  dsimp only
  rw [tabFind_filter (fun j => !(decide (2048 * a ≤ j ∧ j < 2048 * (a + n))))]
  by_cases h : 2048 * a ≤ i ∧ i < 2048 * (a + n) <;> simp [h]

/-! ### mplane (09 R325) -/

theorem mplane_acts (o : AForm) : Acts (.mplane o) (fun _ _ => True) (gives fun x s => (s.core x.g.core).planeWord)
    (fun x s => x.giveAll s (s.core x.g.core).planeWord) :=
  acts_gives (eff := fun _ s => s) (execMplane.eq_def o) (fun _ _ _ => rfl) (fun _ _ _ => .rfl' _)

theorem planeCode_eq (p : Plane) : p.code = match p.fmt with
    | none => 0xF
    | some (ty, bs) => ty.toNat + (if bs then 8 else 0) := by
  unfold Plane.code
  cases p.fmt with
  | none => rfl
  | some e => exact congrArg (e.1.toNat + ·) ((Nat.mul_comm _ _).trans (bit_mul _ _))

/-! ### The obligation -/

/-- The same value given, written in another way. -/
theorem Acts.gives_eq {i : Instr} {pre : Iss → State → Prop} {eff : Iss → State → State} {v w : Iss → State → Nat}
    (h : Acts i pre (gives v) eff) (hv : ∀ x s, v x s = w x s) : Acts i pre (gives w) eff := by
  rwa [show v = w from funext fun x => funext (hv x)] at h

/-- Settles O35, instruction by instruction. -/
theorem convergenceAndAccumulators : Obligations.ConvergenceAndAccumulators :=
  ⟨cvinit_acts, cvinit_beyond, cvinit_outstanding, cvinit_waits, fun s c y k => ⟨signsOf_eq s c y k, rfl⟩, cvinit_differs, msign_acts,
    fun _ _ _ => settleSigns_one, fun _ _ _ => signWaits_early, msign_raises, sign_effect, mwait_acts,
    fun o => (mstat_acts o).gives_eq (fun _ _ => convWord_eq _ _), mstclr_acts, acrd_acts, acwr_does,
    fun o => raises_of (execAcrd.eq_def o) (fun _ _ ⟨ht, h⟩ => accLanes_beyond ht h),
    fun o => raises_of (execAcwr.eq_def o) (fun _ _ ⟨ht, h⟩ => accLanes_beyond ht h), acclr_does, acclr_raises, clearRegions_effect,
    fun o => (mplane_acts o).gives_eq (fun x s => by simp only [Core.planeWord, planeCode_eq]; rfl)⟩

end Sys2Proof.Machine
end

section
/-! SUPPORT. Operations on the state that change one team, and its core but for its teams: what they leave (09 R301). -/

namespace Sys2Proof.Machine

/-! ### A core whose teams stand -/

theorem findIn_self {α : Type} {T : Tab (Tab α)} {c y : Nat} {x z : α} (h : findIn T y = some (c, x))
    (hz : tabFind y (tabGet [] c T) = some z) : z = x := by
  unfold findIn at h
  induction T with
  | nil => cases h
  | cons e T ih =>
    obtain ⟨j, u⟩ := e
    rw [List.findSome?_cons] at h
    by_cases hj : j = c
    · have hu : tabGet [] c ((j, u) :: T) = u := by simp [tabGet, tabFind, hj]
      rw [hu] at hz
      rw [hz] at h
      cases h
      rfl
    · have hu : tabGet [] c ((j, u) :: T) = tabGet [] c T := by simp [tabGet, tabFind, hj]
      rw [hu] at hz
      cases hf : tabFind y u with
      | some w =>
        rw [hf] at h
        cases h
        exact absurd rfl hj
      | none =>
        rw [hf] at h
        exact ih h hz

theorem findIn_tabSet_none {α : Type} {T : Tab (Tab α)} {c y : Nat} (hn : tabFind y (tabGet [] c T) = none) :
    findIn (tabSet c (tabGet [] c T) T) y = findIn T y := by
  have key : ∀ t : Tab α, tabFind y t = none → ∀ T : Tab (Tab α), tabFind y (tabGet [] c T) = none →
      findIn (tabSet c t T) y = findIn T y := by
    intro t ht T
    unfold findIn
    induction T with
    | nil => simp [tabSet, ht]
    | cons e T ih =>
      obtain ⟨j, u⟩ := e
      intro hT
      rw [tabSet]
      split
      · rw [List.findSome?_cons, ht]
        rfl
      · split
        · have hu : tabGet [] c ((j, u) :: T) = u := by simp [tabGet, tabFind, ‹j = c›]
          rw [hu] at hT
          rw [List.findSome?_cons, List.findSome?_cons, ht, hT]
          rfl
        · have hu : tabGet [] c ((j, u) :: T) = tabGet [] c T := by simp [tabGet, tabFind, ‹¬ j = c›]
          rw [hu] at hT
          rw [List.findSome?_cons, List.findSome?_cons, ih hT]
  exact key _ hn T hn

theorem teamTab_setCore (s : State) (c : Nat) (k : Core) : (s.setCore c k).teamTab = tabSet c k.teams s.teamTab :=
  tabSet_map (fun k => Core.teams k) c k s.cores

/-- A team found on a core that is replaced by one that has it. -/
theorem findTeam_setCore {s : State} {y c : Nat} {m z : Team} (h : s.findTeam y = some (c, m)) {k : Core}
    (hk : tabFind y k.teams = some z) : (s.setCore c k).findTeam y = some (c, z) := by
  rw [findTeam_eq] at h ⊢
  rw [teamTab_setCore]
  exact findIn_tabSet h hk

/-- A change of the core of a team that leaves its teams. -/
theorem findTeam_modCore {s : State} {y c : Nat} {m : Team} (h : s.findTeam y = some (c, m)) {g : Core → Core}
    (hg : (g (s.core c)).teams = (s.core c).teams) : (s.modCore c g).findTeam y = some (c, m) := by
  rw [findTeam_eq] at h ⊢
  rw [State.modCore, teamTab_setCore, hg, teams_core]
  cases hf : tabFind y (tabGet [] c s.teamTab) with
  | some z =>
    cases findIn_self h hf
    exact findIn_tabSet h hf
  | none => exact (findIn_tabSet_none hf).trans h

/-! ### Changes of one team -/

/-- `t` is `s` but for the team `y`, which was `m` and is now `z`, and what the package counts: the bytes of memory and
the core stand but for its teams. -/
structure Turned (s t : State) (core y : Nat) (m z : Team) : Prop where
  team : s.findTeam y = some (core, m) → t.findTeam y = some (core, z)
  bytes : ∀ pa, t.memByte pa = s.memByte pa
  units : { t.core core with teams := [] } = { s.core core with teams := [] }

section
variable {s t u : State} {core y : Nat} {m z w : Team}

theorem Turned.rfl' (s : State) (core y : Nat) (m : Team) : Turned s s core y m m := ⟨id, fun _ => rfl, rfl⟩

theorem Turned.trans (h : Turned s t core y m z) (k : Turned t u core y z w) : Turned s u core y m w :=
  ⟨fun hf => k.team (h.team hf), fun pa => (k.bytes pa).trans (h.bytes pa), k.units.trans h.units⟩

theorem Turned.acc (h : Turned s t core y m z) : (t.core core).acc = (s.core core).acc := (congrArg Core.acc h.units :)
theorem Turned.accWord (h : Turned s t core y m z) (n : Nat) : (t.core core).accWord n = (s.core core).accWord n :=
  congrArg (fun a => (tabGet 0 n a).toNat) h.acc
theorem Turned.array (h : Turned s t core y m z) (a : Bool) : (t.core core).array a = (s.core core).array a :=
  (congrArg (fun k : Core => k.array a) h.units :)
end

theorem units_modTeam (s : State) (y : Nat) (g : Team → Team) (c : Nat) :
    { (s.modTeam y g).core c with teams := [] } = { s.core c with teams := [] } := by
  unfold State.modTeam
  split
  · rw [core_modCore]
    split
    · subst_vars; rfl
    · rfl
  · rfl

theorem turned_modTeam (s : State) (core y : Nat) (m : Team) (g : Team → Team) : Turned s (s.modTeam y g) core y m (g m) :=
  ⟨fun h => findTeam_modTeam h g, (sameWeaves_modTeam s y g).bytes, units_modTeam s y g core⟩

theorem turned_ite (p : Prop) [Decidable p] {s t u : State} {core y : Nat} {m z w : Team} (h : Turned s t core y m z)
    (k : Turned s u core y m w) : Turned s (if p then t else u) core y m (if p then z else w) := by
  split
  · exact h
  · exact k

/-- Only the counters of a team change, and the values drawn. -/
theorem turned_discharge (s : State) (core y : Nat) (m : Team) (cc : Option Nat) (cmd n : Nat) :
    ∃ cs, Turned s (s.discharge core (some y) cc cmd n) core y m { m with counters := cs } := by
  cases cc with
  | none => exact ⟨m.counters, .rfl' s core y m⟩
  | some k =>
    unfold State.discharge
    dsimp only
    split
    · exact ⟨_, (⟨id, fun _ => rfl, rfl⟩ : Turned s s.draw.2 core y m m).trans (turned_modTeam _ core y m _)⟩
    · exact ⟨_, turned_modTeam s core y m _⟩

theorem turned_dischargeRest (s : State) (core y : Nat) (m : Team) (cc : Option Nat) (cmd : Nat) :
    ∃ cs, Turned s (s.dischargeRest core (some y) cc cmd) core y m { m with counters := cs } := by
  cases cc with
  | none => exact ⟨m.counters, .rfl' s core y m⟩
  | some k => exact turned_discharge s core y m (some k) cmd _

/-- What settled signatures leave of a core: everything but its teams and the signatures. -/
theorem settleSigns_core (s : State) (c : Nat) :
    { (s.settleSigns c).core c with teams := [], signs := [] } = { s.core c with teams := [], signs := [] } := by
  have hfold : ∀ (gs : List Sign) (u : State),
      { (gs.foldl (fun (s : State) (g : Sign) => s.modTeam g.team g.counted) u).core c with teams := [] } =
        { u.core c with teams := [] } := by
    intro gs
    induction gs with
    | nil => exact fun _ => rfl
    | cons g t ih => exact fun u => (ih _).trans (units_modTeam u g.team _ c)
  rw [settleSigns_eq]
  split
  · rfl
  · have h := congrArg (fun k : Core => { k with signs := [] }) (hfold ((s.core c).signs.filter (fun g => !(s.core c).signWaits g))
      (s.modCore c Core.unsettled))
    refine h.trans ?_
    rw [core_modCore, if_pos rfl]
    rfl

/-! ### The arrays -/

@[simp] theorem array_modArray (k : Core) (a b : Bool) (f : MatArray → MatArray) :
    (k.modArray a f).array b = if b = a then f (k.array a) else k.array b := by
  cases a <;> cases b <;> rfl

theorem modArray_teams (k : Core) (a : Bool) (f : MatArray → MatArray) : (k.modArray a f).teams = k.teams := by cases a <;> rfl
theorem modArray_acc (k : Core) (a : Bool) (f : MatArray → MatArray) : (k.modArray a f).acc = k.acc := by cases a <;> rfl

@[simp] theorem shadow_setShadow (m : MatArray) (p : Plane) : (m.setShadow p).shadow = p := by
  obtain ⟨p0, p1, active⟩ := m
  cases active <;> rfl

@[simp] theorem live_setShadow (m : MatArray) (p : Plane) : (m.setShadow p).live = m.live := by
  obtain ⟨p0, p1, active⟩ := m
  cases active <;> rfl

/-- One array of a core changed. -/
def State.modArray (s : State) (core : Nat) (a : Bool) (f : MatArray → MatArray) : State :=
  s.modCore core (fun k => k.modArray a f)

section
variable (s : State) (core : Nat) (a : Bool) (f : MatArray → MatArray)

theorem findTeam_modArray {y : Nat} {m : Team} (h : s.findTeam y = some (core, m)) :
    (s.modArray core a f).findTeam y = some (core, m) := findTeam_modCore h (modArray_teams _ a f)

theorem acc_modArray : ((s.modArray core a f).core core).acc = (s.core core).acc := by
  rw [State.modArray, core_modCore, if_pos rfl, modArray_acc]

theorem array_modArray_state (b : Bool) : ((s.modArray core a f).core core).array b =
    if b = a then f ((s.core core).array a) else (s.core core).array b := by
  rw [State.modArray, core_modCore, if_pos rfl, array_modArray]
end

end Sys2Proof.Machine
end

section
/-! SUPPORT. Matrix commands end and start (09 R308, R324, R326, R327). -/

namespace Sys2Proof.Machine

/-! ### The end of a command -/

/-- One slot of a team changed. -/
def Team.withSlot (m : Team) (k : Nat) (g : TileSlot → TileSlot) : Team := { m with tslots := tabSet k (g (m.tslot k)) m.tslots }
/-- One convergence register of a team changed. -/
def Team.withConv (m : Team) (k : Nat) (f : Conv → Conv) : Team := { m with convs := tabSet k (f (m.conv k)) m.convs }

theorem turned_modSlot (s : State) (core y : Nat) (m : Team) (k : Nat) (g : TileSlot → TileSlot) :
    Turned s (s.modSlot y k g) core y m (m.withSlot k g) := turned_modTeam s core y m _
theorem turned_modConv (s : State) (core y : Nat) (m : Team) (k : Nat) (f : Conv → Conv) :
    Turned s (s.modConv y k f) core y m (m.withConv k f) := turned_modTeam s core y m _

theorem withSlot_tslot (m : Team) (k : Nat) (g : TileSlot → TileSlot) : (m.withSlot k g).tslot k = g (m.tslot k) :=
  (tabGet_set ..).trans (if_pos rfl)
theorem withConv_conv (m : Team) (k : Nat) (f : Conv → Conv) : (m.withConv k f).conv k = f (m.conv k) :=
  (tabGet_set ..).trans (if_pos rfl)

/-- A convergence register once a command of it has ended with the code `e`: DONE counts it, the first error stands (R326). -/
def Conv.ended (v : Conv) (e : Nat) : Conv := { v with done := (v.done + 1) % 256, err := if v.err = 0 then e else v.err }

/-- The team with the slot of an ended command: freed with .rls, ready where the command wrote it. -/
def Team.slotLeft (m : Team) (c : MatCmd) (e : Nat) : Team :=
  if c.rls = true then m.withSlot c.slot (fun q => { q with st := .empty })
  else if (c.slotWr && decide (e = 0)) = true then m.withSlot c.slot (fun q => { q with st := .ready }) else m

/-- The team once its command `c`, the `i`-th, has ended with the code `e`, but for its counters. -/
def Team.ended (m : Team) (c : MatCmd) (i e : Nat) : Team :=
  (({ m with matq := m.matq.eraseIdx i } : Team).withConv c.cv (·.ended e)).slotLeft c e

/-- The same of the state. -/
def State.matLeft (s : State) (y i : Nat) (c : MatCmd) (e : Nat) : State :=
  let u := (s.modTeam y (fun z => { z with matq := z.matq.eraseIdx i })).modConv y c.cv (·.ended e)
  if c.rls then u.modSlot y c.slot (fun q => { q with st := .empty })
  else if c.slotWr && e = 0 then u.modSlot y c.slot (fun q => { q with st := .ready }) else u

/-- A load that has failed leaves its plane without a format. -/
def State.planeLeft (s : State) (core : Nat) (c : MatCmd) (e : Nat) : State :=
  if e != 0 && c.isLoad then s.modArray core c.a1 (fun a => a.setShadow { a.shadow with fmt := none }) else s

theorem endMat_eq {s : State} {core y i e : Nat} {m : Team} {c : MatCmd} (h : s.findTeam y = some (core, m))
    (hc : m.matq[i]? = some c) :
    s.endMat core y i e = ((s.matLeft y i c e).planeLeft core c e).dischargeRest core (some y) c.cc c.id := by
  unfold State.endMat
  rw [team_of_find h, hc]
  rfl

theorem turned_matLeft (s : State) (core y i : Nat) (m : Team) (c : MatCmd) (e : Nat) :
    Turned s (s.matLeft y i c e) core y m (m.ended c i e) := by
  have hu := (turned_modTeam s core y m (fun z => { z with matq := z.matq.eraseIdx i })).trans
    (turned_modConv _ core y _ c.cv (·.ended e))
  exact turned_ite _ (hu.trans (turned_modSlot _ core y _ _ _)) (turned_ite _ (hu.trans (turned_modSlot _ core y _ _ _)) hu)

section
variable {s : State} {core y : Nat} {m : Team} (c : MatCmd) (e : Nat)

theorem findTeam_planeLeft (h : s.findTeam y = some (core, m)) : (s.planeLeft core c e).findTeam y = some (core, m) := by
  unfold State.planeLeft
  split
  · exact findTeam_modArray s core _ _ h
  · exact h

theorem bytes_planeLeft (pa : Nat) : (s.planeLeft core c e).memByte pa = s.memByte pa := by
  unfold State.planeLeft
  split <;> rfl

theorem acc_planeLeft : ((s.planeLeft core c e).core core).acc = (s.core core).acc := by
  unfold State.planeLeft
  split
  · exact acc_modArray s core _ _
  · rfl
end

/-- 09 R326, R327: what the end of a command leaves; its counter's discharge aside. -/
structure MatEnded (s t : State) (core y i e : Nat) (m : Team) (c : MatCmd) : Prop where
  team : ∃ cs, t.findTeam y = some (core, { m.ended c i e with counters := cs })
  bytes : ∀ pa, t.memByte pa = s.memByte pa
  acc : (t.core core).acc = (s.core core).acc
  array : e = 0 → ∀ a, (t.core core).array a = (s.core core).array a

theorem endMat_ended {s : State} {core y i e : Nat} {m : Team} {c : MatCmd} (h : s.findTeam y = some (core, m))
    (hc : m.matq[i]? = some c) : MatEnded s (s.endMat core y i e) core y i e m c := by
  rw [endMat_eq h hc]
  have hl := turned_matLeft s core y i m c e
  obtain ⟨cs, hd⟩ := turned_dischargeRest ((s.matLeft y i c e).planeLeft core c e) core y (m.ended c i e) c.cc c.id
  refine ⟨⟨cs, hd.team (findTeam_planeLeft c e (hl.team h))⟩,
    fun pa => (hd.bytes pa).trans ((bytes_planeLeft c e pa).trans (hl.bytes pa)),
    hd.acc.trans ((acc_planeLeft c e).trans hl.acc), fun he a => ?_⟩
  subst he
  exact (hd.array a).trans (hl.array a)

theorem slotLeft_keeps (m : Team) (c : MatCmd) (e : Nat) :
    (m.slotLeft c e).matq = m.matq ∧ (m.slotLeft c e).opbuf = m.opbuf ∧ (m.slotLeft c e).convs = m.convs := by
  unfold Team.slotLeft
  split
  · exact ⟨rfl, rfl, rfl⟩
  · split <;> exact ⟨rfl, rfl, rfl⟩

theorem slotLeft_st (m : Team) (c : MatCmd) (e : Nat) : ((m.slotLeft c e).tslot c.slot).st =
    if c.rls then .empty else if c.slotWr = true ∧ e = 0 then .ready else (m.tslot c.slot).st := by
  unfold Team.slotLeft
  simp only [Bool.and_eq_true, decide_eq_true_eq]
  split
  · rw [withSlot_tslot]
  · split
    · rw [withSlot_tslot]
    · rfl

section
variable {s t : State} {core y i e : Nat} {m : Team} {c : MatCmd}

theorem MatEnded.matq (h : MatEnded s t core y i e m c) : (t.team y).matq = m.matq.eraseIdx i := by
  obtain ⟨cs, hf⟩ := h.team
  rw [team_of_find hf]
  exact (slotLeft_keeps _ c e).1

theorem MatEnded.opbuf (h : MatEnded s t core y i e m c) : (t.team y).opbuf = m.opbuf := by
  obtain ⟨cs, hf⟩ := h.team
  rw [team_of_find hf]
  exact (slotLeft_keeps _ c e).2.1

theorem MatEnded.conv (h : MatEnded s t core y i e m c) : (t.team y).conv c.cv = (m.conv c.cv).ended e := by
  obtain ⟨cs, hf⟩ := h.team
  rw [team_of_find hf]
  change tabGet {} c.cv (Team.slotLeft _ c e).convs = _
  rw [(slotLeft_keeps _ c e).2.2]
  exact withConv_conv _ _ _

theorem MatEnded.slot (h : MatEnded s t core y i e m c) : ((t.team y).tslot c.slot).st =
    if c.rls then .empty else if c.slotWr = true ∧ e = 0 then .ready else (m.tslot c.slot).st := by
  obtain ⟨cs, hf⟩ := h.team
  rw [team_of_find hf]
  exact slotLeft_st _ c e
end

/-! ### The start of a command (09 R308) -/

/-- The command once it has started. -/
def MatCmd.begun (c : MatCmd) (n : Nat) (q : TileSlot) : MatCmd := { c with started := true, entered := n, base := q.base.getD 0 }

/-- The team whose command takes its number and its slot's base, and whose slot fills or drains. -/
def Team.begun (m : Team) (c : MatCmd) (i n : Nat) : Team :=
  let z : Team := { m with matq := m.matq.set i (c.begun n (m.tslot c.slot)) }
  if c.slotWr = true then z.withSlot c.slot (fun q => { q with st := .filling })
  else if c.rls = true then z.withSlot c.slot (fun q => { q with st := .draining }) else z

/-- The slot of acst takes the length of its bytes. -/
def Team.sized (m : Team) (c : MatCmd) : Team :=
  match c.instr with
  | .acst _ => m.withSlot c.slot (fun q => { q with len := up256 c.bytes })
  | _ => m

/-- The same of the state. -/
def State.matBegun (s : State) (y i : Nat) (m : Team) (c : MatCmd) : State :=
  let u := s.numbered.modTeam y (fun z => { z with matq := z.matq.set i (c.begun s.nextId (m.tslot c.slot)) })
  if c.slotWr then u.modSlot y c.slot (fun q => { q with st := .filling })
  else if c.rls then u.modSlot y c.slot (fun q => { q with st := .draining }) else u
def State.matSized (s : State) (y : Nat) (c : MatCmd) : State :=
  match c.instr with
  | .acst _ => s.modSlot y c.slot (fun q => { q with len := up256 c.bytes })
  | _ => s
/-- A load empties the shadow plane of its format. -/
def State.planeBegun (s : State) (core : Nat) (c : MatCmd) : State :=
  if c.isLoad then s.modArray core c.a1 (fun a => a.setShadow { a.shadow with fmt := some (c.f.ty, c.bs) }) else s

theorem turned_matBegun (s : State) (core y i : Nat) (m : Team) (c : MatCmd) :
    Turned s (s.matBegun y i m c) core y m (m.begun c i s.nextId) := by
  have hn : Turned s s.numbered core y m m := ⟨id, fun _ => rfl, rfl⟩
  have hu := hn.trans (turned_modTeam _ core y m (fun z => { z with matq := z.matq.set i (c.begun s.nextId (m.tslot c.slot)) }))
  exact turned_ite _ (hu.trans (turned_modSlot _ core y _ _ _)) (turned_ite _ (hu.trans (turned_modSlot _ core y _ _ _)) hu)

theorem turned_matSized (s : State) (core y : Nat) (m : Team) (c : MatCmd) : Turned s (s.matSized y c) core y m (m.sized c) := by
  unfold State.matSized Team.sized
  split
  · exact turned_modSlot s core y m _ _
  · exact .rfl' s core y m

theorem begun_effect (m : Team) (c : MatCmd) (i n : Nat) : (m.begun c i n).matq = m.matq.set i (c.begun n (m.tslot c.slot)) ∧
    ((m.begun c i n).tslot c.slot).st = if c.slotWr then .filling else if c.rls then .draining else (m.tslot c.slot).st := by
  unfold Team.begun
  dsimp only
  split
  · exact ⟨rfl, by rw [withSlot_tslot]⟩
  · split
    · exact ⟨rfl, by rw [withSlot_tslot]⟩
    · exact ⟨rfl, rfl⟩

theorem sized_keeps (m : Team) (c : MatCmd) : (m.sized c).matq = m.matq ∧ ((m.sized c).tslot c.slot).st = (m.tslot c.slot).st := by
  unfold Team.sized
  split
  · exact ⟨rfl, by rw [withSlot_tslot]⟩
  · exact ⟨rfl, rfl⟩

section
variable {s v : State} {core i y : Nat} {m : Team} {c : MatCmd} (hv : v = s.settleSigns core) (ho : v.owner core = some (y, m))
  (hc : m.matq[i]? = some c)
include hv ho hc

theorem start_waits (hm : v.mayStart core y i c = false) : exec (.matrixCommandStart core i) s = .next v := by
  subst hv
  change execMatrixCommandStart core i s = _
  unfold execMatrixCommandStart
  dsimp only
  rw [ho]
  dsimp only
  rw [hc]
  dsimp only
  rw [hm]
  rfl

theorem start_fails (hm : v.mayStart core y i c = true) (he : startError (v.core core) m c ≠ 0) :
    exec (.matrixCommandStart core i) s = .next (v.endMat core y i (startError (v.core core) m c)) := by
  subst hv
  change execMatrixCommandStart core i s = _
  unfold execMatrixCommandStart
  dsimp only
  rw [ho]
  dsimp only
  rw [hc]
  dsimp only
  rw [if_pos hm, if_pos he]

theorem start_runs (hm : v.mayStart core y i c = true) (he : startError (v.core core) m c = 0) :
    exec (.matrixCommandStart core i) s = .next (((v.matBegun y i m c).matSized y c).planeBegun core c) := by
  subst hv
  change execMatrixCommandStart core i s = _
  unfold execMatrixCommandStart
  dsimp only
  rw [ho]
  dsimp only
  rw [hc]
  dsimp only
  rw [if_pos hm, if_neg (not_not.2 he)]
  rfl
end

theorem planeBegun_effect (s : State) (core : Nat) (c : MatCmd) : (∀ pa, (s.planeBegun core c).memByte pa = s.memByte pa) ∧
    (∀ y m, s.findTeam y = some (core, m) → (s.planeBegun core c).findTeam y = some (core, m)) ∧
    ((s.planeBegun core c).core core).acc = (s.core core).acc ∧
    (∀ a, a ≠ c.a1 ∨ c.isLoad = false → ((s.planeBegun core c).core core).array a = (s.core core).array a) ∧
    (c.isLoad = true → (((s.planeBegun core c).core core).array c.a1).shadow =
        { ((s.core core).array c.a1).shadow with fmt := some (c.f.ty, c.bs) } ∧
      (((s.planeBegun core c).core core).array c.a1).live = ((s.core core).array c.a1).live) := by
  unfold State.planeBegun
  cases hl : c.isLoad with
  | false => exact ⟨fun _ => rfl, fun _ _ h => h, rfl, fun _ _ => rfl, fun h => absurd h Bool.false_ne_true⟩
  | true =>
    rw [if_pos rfl]
    refine ⟨fun _ => rfl, fun y m h => findTeam_modArray s core _ _ h, acc_modArray s core _ _, fun a ha => ?_, fun _ => ?_⟩
    · rw [array_modArray_state, if_neg (ha.resolve_right (by simp))]
    · rw [array_modArray_state, if_pos rfl]
      exact ⟨shadow_setShadow _ _, live_setShadow _ _⟩

theorem start_effect {s v : State} {core i y : Nat} {m : Team} {c : MatCmd} (hv : v = s.settleSigns core)
    (ho : v.owner core = some (y, m)) (hf : v.findTeam y = some (core, m)) (hc : m.matq[i]? = some c)
    (hm : v.mayStart core y i c = true) (he : startError (v.core core) m c = 0) :
    ∃ t, exec (.matrixCommandStart core i) s = .next t ∧ (∀ pa, t.memByte pa = s.memByte pa) ∧
      (t.team y).matq = m.matq.set i { c with started := true, entered := v.nextId, base := (m.tslot c.slot).base.getD 0 } ∧
      ((t.team y).tslot c.slot).st = (if c.slotWr then .filling else if c.rls then .draining else (m.tslot c.slot).st) ∧
      (t.core core).acc = (s.core core).acc ∧ (∀ a, a ≠ c.a1 ∨ c.isLoad = false → (t.core core).array a = (s.core core).array a) ∧
      (c.isLoad = true → ((t.core core).array c.a1).shadow = { ((s.core core).array c.a1).shadow with fmt := some (c.f.ty, c.bs) } ∧
        ((t.core core).array c.a1).live = ((s.core core).array c.a1).live) := by
  have hsigns := settleSigns_core s core
  rw [← hv] at hsigns
  have hacc : (v.core core).acc = (s.core core).acc := (congrArg Core.acc hsigns :)
  have harr : ∀ a, (v.core core).array a = (s.core core).array a := fun a => (congrArg (fun k : Core => k.array a) hsigns :)
  have hturn := (turned_matBegun v core y i m c).trans (turned_matSized _ core y _ c)
  obtain ⟨hbytes, hteam, hpacc, hother, hload⟩ := planeBegun_effect ((v.matBegun y i m c).matSized y c) core c
  have hz := team_of_find (hteam y _ (hturn.team hf))
  obtain ⟨hq, hst⟩ := sized_keeps (m.begun c i v.nextId) c
  obtain ⟨hq', hst'⟩ := begun_effect m c i v.nextId
  refine ⟨_, start_runs hv ho hc hm he, fun pa => ?_, ?_, ?_, ?_, fun a ha => ?_, fun hl => ?_⟩
  · rw [hbytes, hturn.bytes, hv]
    exact (sameWeaves_settleSigns s core).bytes pa
  · rw [hz, hq, hq']
    rfl
  · rw [hz, hst, hst']
  · rw [hpacc, hturn.acc, hacc]
  · rw [hother a ha, hturn.array, harr]
  · obtain ⟨h1, h2⟩ := hload hl
    rw [hturn.array, harr] at h1 h2
    exact ⟨h1, h2⟩

end Sys2Proof.Machine
end

section
/-! SUPPORT. Rows of matrix commands (09 R303, R316 to R323): the words and the bytes that a row writes, and no others. -/

namespace Sys2Proof.Machine

/-! ### Numbers as bytes -/

theorem leBytes_length (n v : Nat) : (leBytes n v).length = n := by
  induction n generalizing v with
  | zero => rfl
  | succ n ih => rw [leBytes, List.length_cons, ih]

theorem leNat_leBytes (n v : Nat) : leNat (leBytes n v) = v % 2 ^ (8 * n) := by
  induction n generalizing v with
  | zero => simp [leBytes, leNat, Nat.mod_one]
  | succ n ih =>
    rw [leBytes, leNat, ih, BitVec.toNat_ofNat, show 8 * (n + 1) = 8 + 8 * n by ring, pow_add, Nat.mod_mul]
    rfl

/-- Codes packed into a number, the first in its low bits. -/
def packed (bits : Nat) (cs : List Nat) : Nat := cs.foldr (fun c a => c + 2 ^ bits * a) 0

theorem packed_lt {bits : Nat} {cs : List Nat} (h : ∀ v ∈ cs, v < 2 ^ bits) : packed bits cs < 2 ^ (cs.length * bits) := by
  induction cs with
  | nil => simp [packed]
  | cons c t ih =>
    obtain ⟨hc, ht⟩ := List.forall_mem_cons.1 h
    rw [List.length_cons, Nat.succ_mul, Nat.add_comm]
    exact add_pow_mul_lt hc (ih ht)

theorem packed_get {bits : Nat} {cs : List Nat} (h : ∀ v ∈ cs, v < 2 ^ bits) (i : Nat) :
    packed bits cs / 2 ^ (bits * i) % 2 ^ bits = cs.getD i 0 := by
  induction cs generalizing i with
  | nil => simp [packed]
  | cons c t ih =>
    obtain ⟨hc, ht⟩ := List.forall_mem_cons.1 h
    have hp : packed bits (c :: t) = c + 2 ^ bits * packed bits t := rfl
    cases i with
    | zero => rw [hp, mul_zero, pow_zero, Nat.div_one, Nat.add_mul_mod_self_left, Nat.mod_eq_of_lt hc]; rfl
    | succ i =>
      rw [hp, Nat.mul_succ, Nat.add_comm (bits * i), pow_add, ← Nat.div_div_eq_div_mul, Nat.add_mul_div_left _ _ (by positivity),
        Nat.div_eq_of_lt hc, Nat.zero_add, ih ht, List.getD_cons_succ]

/-- 05 R145: each element stands at its bits. -/
theorem packElems_get (bits : Nat) (cs : List Nat) (h : ∀ v ∈ cs, v < 2 ^ bits) (hlen : cs.length * bits % 8 = 0) (i : Nat)
    (_hi : i < cs.length) : leNat (packElems bits cs) / 2 ^ (bits * i) % 2 ^ bits = cs.getD i 0 := by
  have hbytes : 8 * (cs.length * bits / 8) = cs.length * bits := Nat.mul_div_cancel' (Nat.dvd_of_mod_eq_zero hlen)
  rw [packElems, leNat_leBytes, hbytes, show cs.foldr (fun c a => c + 2 ^ bits * a) 0 = packed bits cs from rfl,
    Nat.mod_eq_of_lt (packed_lt h)]
  exact packed_get h i

theorem packElems_length (bits : Nat) (cs : List Nat) : (packElems bits cs).length = cs.length * bits / 8 := leBytes_length _ _

/-! ### Bytes written to the operand buffer -/

theorem bufWrite_get (m : Team) (o : Nat) (bs : List Byte) {j : Nat} (hj : j < bs.length) :
    tabGet 0 (o + j) (m.bufWrite o bs).opbuf = bs.getD j 0 := by
  refine (tabGet_putList bs o (o + j) m.opbuf).trans ?_
  rw [if_pos (by omega), Nat.add_sub_cancel_left, List.getD_eq_getElem?_getD, List.getElem?_eq_getElem hj]
  rfl

theorem bufWrite_below (m : Team) {o j : Nat} (bs : List Byte) (hj : j < o) :
    tabGet 0 j (m.bufWrite o bs).opbuf = tabGet 0 j m.opbuf := (tabGet_putList bs o j m.opbuf).trans (if_neg (by omega))

theorem bufNat_bufWrite (m : Team) (o n v : Nat) : (m.bufWrite o (leBytes n v)).bufNat o n = v % 2 ^ (8 * n) := by
  have hread : (m.bufWrite o (leBytes n v)).bufRead o n = leBytes n v := by
    refine List.ext_getElem (by simp [Team.bufRead, leBytes_length]) (fun j h1 h2 => ?_)
    have hj := bufWrite_get m o (leBytes n v) h2
    rw [List.getD_eq_getElem?_getD, List.getElem?_eq_getElem h2] at hj
    simpa [Team.bufRead] using hj
  rw [Team.bufNat, hread, leNat_leBytes]

/-! ### Words of a row -/

theorem accWord_putAcc (k : Core) (i v n : Nat) :
    (k.putAcc i v).accWord n = if n = i then (BitVec.ofNat 32 v).toNat else k.accWord n := by
  unfold Core.putAcc Core.accWord
  rw [tabGet_put]
  split <;> rfl

theorem accWord_putRow (ws : List Nat) (k : Core) (i n : Nat) : (k.putRow i ws).accWord n =
    if i ≤ n ∧ n < i + ws.length then (BitVec.ofNat 32 (ws.getD (n - i) 0)).toNat else k.accWord n := by
  unfold Core.putRow
  induction ws generalizing k i with
  | nil => rw [if_neg (by simp)]; rfl
  | cons w t ih =>
    rw [List.zipIdx_cons, List.foldl_cons, ih, accWord_putAcc, List.length_cons]
    by_cases hn : n = i
    · subst hn
      rw [if_neg (by omega), if_pos rfl, if_pos (by omega), Nat.sub_self]
      rfl
    · rw [if_neg hn]
      by_cases hr : i + 1 ≤ n ∧ n < i + 1 + t.length
      · rw [if_pos hr, if_pos (by omega), show n - i = n - (i + 1) + 1 by omega, List.getD_cons_succ]
      · rw [if_neg hr, if_neg (by omega)]

theorem putRow_keeps (ws : List Nat) (k : Core) (i : Nat) : { k.putRow i ws with acc := k.acc } = k := by
  unfold Core.putRow
  have key : ∀ (es : List (Nat × Nat)) (k : Core), { es.foldl (fun k e => k.putAcc e.2 e.1) k with acc := ([] : Tab Word) } =
      { k with acc := [] } := by
    intro es
    induction es with
    | nil => exact fun _ => rfl
    | cons e t ih => exact fun k => (ih _).trans rfl
  exact congrArg (fun q : Core => { q with acc := k.acc }) (key (ws.zipIdx i) k)

/-- A row of 192 words written from the values of its columns. -/
theorem accWord_putRow_col {ws : List Nat} {f : Nat → Nat} (hw : ws = (List.range 192).map f) (k : Core) (i : Nat) {n : Nat}
    (hn : n < 192) : (k.putRow i ws).accWord (i + n) = (BitVec.ofNat 32 (f n)).toNat := by
  subst hw
  rw [accWord_putRow, if_pos (by simp [hn]), Nat.add_sub_cancel_left, List.getD_eq_getElem?_getD, List.getElem?_map,
    List.getElem?_range hn]
  rfl

theorem row_zipIdx (k : Core) (i : Nat) : (k.row i).zipIdx = (List.range 192).map (fun n => (k.accWord (i + n), n)) :=
  List.ext_getElem (by simp [Core.row]) (fun n h1 h2 => by simp [Core.row])

/-! ### One row of a command -/

/-- What one row of a command can change: the words of that row, where the command writes accumulator words, and the bytes of the
operand buffer, where it writes its slot. -/
structure RowOf (k : Core) (m : Team) (c : MatCmd) (r : Nat) (o : Core × Team × Nat) : Prop where
  core : { o.1 with acc := k.acc } = k
  team : { o.2.1 with opbuf := m.opbuf } = m
  words : ∀ n, ¬ (c.rowAt r ≤ n ∧ n < c.rowAt r + 192) → o.1.accWord n = k.accWord n
  read : c.accWr = false → o.1 = k
  slot : c.slotWr = false → o.2.1 = m

theorem row_length (k : Core) (i : Nat) : (k.row i).length = 192 := by simp [Core.row]

theorem normRow_length (r : Rnd) (q : Nat) (ws : List Nat) : (normRow r q ws).2.1.length = ws.length := by
  unfold normRow
  extract_lets
  split
  · exact List.length_map _
  · exact (List.length_map _).trans (List.length_map _)

section
variable (k : Core) (m : Team) (c : MatCmd) (r st : Nat)

theorem rowOf_words {ws : List Nat} (hl : ws.length = 192) (ha : c.accWr = true) : RowOf k m c r (k.putRow (c.rowAt r) ws, m, st) :=
  ⟨putRow_keeps ws k _, rfl, fun n hn => by rw [accWord_putRow, hl, if_neg hn], fun h => absurd (ha.symm.trans h) (by decide),
    fun _ => rfl⟩

theorem rowOf_slot (o : Nat) (bs : List Byte) (hs : c.slotWr = true) : RowOf k m c r (k, m.bufWrite o bs, st) :=
  ⟨rfl, rfl, fun _ _ => rfl, fun _ => rfl, fun h => absurd (hs.symm.trans h) (by decide)⟩

theorem rowOf_slots (o p : Nat) (bs bt : List Byte) (hs : c.slotWr = true) :
    RowOf k m c r (k, (m.bufWrite o bs).bufWrite p bt, st) :=
  ⟨rfl, rfl, fun _ _ => rfl, fun _ => rfl, fun h => absurd (hs.symm.trans h) (by decide)⟩

theorem rowOf_both {ws : List Nat} (o : Nat) (bs : List Byte) (hl : ws.length = 192) (ha : c.accWr = true) (hs : c.slotWr = true) :
    RowOf k m c r (k.putRow (c.rowAt r) ws, m.bufWrite o bs, st) :=
  ⟨putRow_keeps ws k _, rfl, fun n hn => by rw [accWord_putRow, hl, if_neg hn], fun h => absurd (ha.symm.trans h) (by decide),
    fun h => absurd (hs.symm.trans h) (by decide)⟩
end

/-- The results of a row's words put into the row, with their status. -/
def putWords (k : Core) (m : Team) (i : Nat) (os : List (Nat × Nat)) : Core × Team × Nat :=
  (k.putRow i (os.map (·.1)), m, os.foldl (fun f o => f ||| o.2) 0)

/-- The word of a stream in column `n` of row `r`, from what stood there (09 R316). -/
def streamCol (k : Core) (m : Team) (c : MatCmd) (r n old : Nat) : Nat × Nat :=
  streamWord (((k.array c.a1).live.fmt.map (·.1)).getD 0) c.f.ty (fun e => m.bufElem c.base (opBits c.f.ty) (128 * r + e))
    (fun e => (k.array c.a1).live.elem e n)
    (fun g => if c.bs then [m.bufNat (c.base + c.rows * 16 * opBits c.f.ty + 4 * r + g) 1] else [])
    (fun g => (k.array c.a1).live.scale g n) old

/-- The blocks of a row of acst with block scales (09 R319). -/
def rowBlocks (k : Core) (c : MatCmd) (r : Nat) : List (Nat × List Nat × Nat) :=
  (List.range 6).map (fun g => acstBlock c.f.ty c.rnd (((k.row (c.rowAt r)).drop (32 * g)).take 32))

section
variable {k : Core} {m : Team} {c : MatCmd} {r : Nat} {o : XForm}

theorem matRow_mmul (h : c.instr = .mmul o) : matRow k m c r =
    putWords k m (c.rowAt r) ((k.row (c.rowAt r)).zipIdx.map (fun e => streamCol k m c r e.2 e.1)) := by
  unfold matRow
  rw [h]
  rfl

theorem matRow_mmulz (h : c.instr = .mmulz o) : matRow k m c r =
    putWords k m (c.rowAt r) ((k.row (c.rowAt r)).zipIdx.map (fun e => streamCol k m c r e.2 0)) := by
  unfold matRow
  rw [h]
  rfl

theorem matRow_acst (h : c.instr = .acst o) (hb : c.bs = false) : matRow k m c r =
    (k, m.bufWrite (c.base + r * 24 * accBits c.f.ty) (packElems (accBits c.f.ty)
      (((k.row (c.rowAt r)).map (acstElem c.f.ty c.rnd)).map (·.1))),
      ((k.row (c.rowAt r)).map (acstElem c.f.ty c.rnd)).foldl (fun f o => f ||| o.2) 0) := by
  unfold matRow
  rw [h, hb]
  rfl

theorem matRow_acst_blocks (h : c.instr = .acst o) (hb : c.bs = true) : matRow k m c r =
    (k, (m.bufWrite (c.base + r * 24 * accBits c.f.ty) (packElems (accBits c.f.ty)
        ((rowBlocks k c r).map (fun o => o.2.1)).flatten)).bufWrite (c.base + c.rows * 24 * accBits c.f.ty + 6 * r)
        ((rowBlocks k c r).map (fun o => BitVec.ofNat 8 o.1)),
      (rowBlocks k c r).foldl (fun f o => f ||| o.2.2) 0) := by
  unfold matRow
  rw [h, hb]
  rfl

theorem matRow_acld (h : c.instr = .acld o) : matRow k m c r = putWords k m (c.rowAt r)
    ((List.range 192).map (fun n => acldElem c.f.ty (m.bufElem c.base (accBits c.f.ty) (192 * r + n)))) := by
  unfold matRow
  rw [h]
  rfl

theorem matRow_acsclRow (h : c.instr = .acsclRow o) : matRow k m c r = putWords k m (c.rowAt r)
    ((k.row (c.rowAt r)).map (fun x => scaleWord c.rnd x (m.bufNat (c.base + 4 * r) 4))) := by
  unfold matRow
  rw [h]
  rfl

theorem matRow_acsclCol (h : c.instr = .acsclCol o) : matRow k m c r = putWords k m (c.rowAt r)
    ((k.row (c.rowAt r)).zipIdx.map (fun e => scaleWord c.rnd e.1 (m.bufNat (c.base + 4 * e.2) 4))) := by
  unfold matRow
  rw [h]
  rfl

theorem matRow_acbias (h : c.instr = .acbias o) : matRow k m c r = putWords k m (c.rowAt r)
    ((k.row (c.rowAt r)).zipIdx.map (fun e => biasWord c.f.ty c.rnd e.1 (m.bufNat (c.base + 4 * e.2) 4))) := by
  unfold matRow
  rw [h]
  rfl

theorem matRow_acnrm (h : c.instr = .acnrm o) : matRow k m c r =
    (k.putRow (c.rowAt r) (normRow c.rnd c.q (k.row (c.rowAt r))).2.1,
      m.bufWrite (c.base + 4 * r) (leBytes 4 (normRow c.rnd c.q (k.row (c.rowAt r))).1),
      (normRow c.rnd c.q (k.row (c.rowAt r))).2.2) := by
  unfold matRow
  rw [h]

theorem matRow_acredMax (h : c.instr = .acredMax o) : matRow k m c r =
    (k, m.bufWrite (c.base + 4 * r) (leBytes 4 (maxRow c.f.ty (k.row (c.rowAt r))).1), (maxRow c.f.ty (k.row (c.rowAt r))).2) := by
  unfold matRow
  rw [h]

theorem matRow_acredSum (h : c.instr = .acredSum o) : matRow k m c r =
    (k, m.bufWrite (c.base + 4 * r) (leBytes 4 (sumRow c.f.ty c.rnd (k.row (c.rowAt r))).1),
      (sumRow c.f.ty c.rnd (k.row (c.rowAt r))).2) := by
  unfold matRow
  rw [h]
end

/-- 09 R316 to R323: every row writes within its words and its slot. -/
theorem matRow_of (k : Core) (m : Team) (c : MatCmd) (r : Nat) : RowOf k m c r (matRow k m c r) := by
  obtain ⟨w, hw⟩ : ∃ w, matRow k m c r = w := ⟨_, rfl⟩
  have hw' := hw
  unfold matRow at hw'
  dsimp only at hw'
  split at hw'
  case h_1 o hi => rw [matRow_mmul hi]; exact rowOf_words k m c r _ (by simp [row_length]) (by simp [MatCmd.accWr, hi])
  case h_2 o hi => rw [matRow_mmulz hi]; exact rowOf_words k m c r _ (by simp [row_length]) (by simp [MatCmd.accWr, hi])
  case h_3 o hi =>
    have hs : c.slotWr = true := by simp [MatCmd.slotWr, hi]
    cases hb : c.bs with
    | false => rw [matRow_acst hi hb]; exact rowOf_slot k m c r _ _ _ hs
    | true => rw [matRow_acst_blocks hi hb]; exact rowOf_slots k m c r _ _ _ _ _ hs
  case h_4 o hi => rw [matRow_acld hi]; exact rowOf_words k m c r _ (by simp) (by simp [MatCmd.accWr, hi])
  case h_5 o hi => rw [matRow_acsclRow hi]; exact rowOf_words k m c r _ (by simp [row_length]) (by simp [MatCmd.accWr, hi])
  case h_6 o hi => rw [matRow_acsclCol hi]; exact rowOf_words k m c r _ (by simp [row_length]) (by simp [MatCmd.accWr, hi])
  case h_7 o hi => rw [matRow_acbias hi]; exact rowOf_words k m c r _ (by simp [row_length]) (by simp [MatCmd.accWr, hi])
  case h_8 o hi =>
    rw [matRow_acnrm hi]
    exact rowOf_both k m c r _ _ _ ((normRow_length ..).trans (row_length ..)) (by simp [MatCmd.accWr, hi]) (by simp [MatCmd.slotWr, hi])
  case h_9 o hi => rw [matRow_acredMax hi]; exact rowOf_slot k m c r _ _ _ (by simp [MatCmd.slotWr, hi])
  case h_10 o hi => rw [matRow_acredSum hi]; exact rowOf_slot k m c r _ _ _ (by simp [MatCmd.slotWr, hi])
  case h_11 =>
    rw [hw, ← hw']
    exact ⟨rfl, rfl, fun _ _ => rfl, fun _ => rfl, fun _ => rfl⟩

/-! ### The words of each form -/

section
variable {k : Core} {m : Team} {c : MatCmd} {r n : Nat} {o : XForm}

theorem putWords_col {os : List (Nat × Nat)} {f : Nat → Nat × Nat} (ho : os = (List.range 192).map f) (i : Nat) (hn : n < 192) :
    (putWords k m i os).1.accWord (i + n) = (BitVec.ofNat 32 (f n).1).toNat :=
  accWord_putRow_col (f := fun n => (f n).1) (by rw [ho, List.map_map]; rfl) k i hn

/-- Words each from its own value and column. -/
theorem putWords_cols (f : Nat × Nat → Nat × Nat) (i : Nat) (hn : n < 192) :
    (putWords k m i ((k.row i).zipIdx.map f)).1.accWord (i + n) = (BitVec.ofNat 32 (f (k.accWord (i + n), n)).1).toNat :=
  putWords_col (f := fun n => f (k.accWord (i + n), n)) (by rw [row_zipIdx, List.map_map]; rfl) i hn

theorem mmul_word (h : c.instr = .mmul o) (hn : n < 192) : (matRow k m c r).1.accWord (c.rowAt r + n) =
    (BitVec.ofNat 32 (streamCol k m c r n (k.accWord (c.rowAt r + n))).1).toNat := by
  rw [matRow_mmul h]
  exact putWords_cols (fun e => streamCol k m c r e.2 e.1) _ hn

theorem mmulz_word (h : c.instr = .mmulz o) (hn : n < 192) : (matRow k m c r).1.accWord (c.rowAt r + n) =
    (BitVec.ofNat 32 (streamCol k m c r n 0).1).toNat := by
  rw [matRow_mmulz h]
  exact putWords_cols (fun e => streamCol k m c r e.2 0) _ hn

theorem acld_word (h : c.instr = .acld o) (hn : n < 192) : (matRow k m c r).1.accWord (c.rowAt r + n) =
    (BitVec.ofNat 32 (acldElem c.f.ty (m.bufElem c.base (accBits c.f.ty) (192 * r + n))).1).toNat := by
  rw [matRow_acld h]
  exact putWords_col rfl _ hn

theorem acsclRow_word (h : c.instr = .acsclRow o) (hn : n < 192) : (matRow k m c r).1.accWord (c.rowAt r + n) =
    (BitVec.ofNat 32 (scaleWord c.rnd (k.accWord (c.rowAt r + n)) (m.bufNat (c.base + 4 * r) 4)).1).toNat := by
  rw [matRow_acsclRow h]
  exact putWords_col (List.map_map ..) _ hn

theorem acsclCol_word (h : c.instr = .acsclCol o) (hn : n < 192) : (matRow k m c r).1.accWord (c.rowAt r + n) =
    (BitVec.ofNat 32 (scaleWord c.rnd (k.accWord (c.rowAt r + n)) (m.bufNat (c.base + 4 * n) 4)).1).toNat := by
  rw [matRow_acsclCol h]
  exact putWords_cols (fun e => scaleWord c.rnd e.1 (m.bufNat (c.base + 4 * e.2) 4)) _ hn

theorem acbias_word (h : c.instr = .acbias o) (hn : n < 192) : (matRow k m c r).1.accWord (c.rowAt r + n) =
    (BitVec.ofNat 32 (biasWord c.f.ty c.rnd (k.accWord (c.rowAt r + n)) (m.bufNat (c.base + 4 * n) 4)).1).toNat := by
  rw [matRow_acbias h]
  exact putWords_cols (fun e => biasWord c.f.ty c.rnd e.1 (m.bufNat (c.base + 4 * e.2) 4)) _ hn

theorem acnrm_word (h : c.instr = .acnrm o) (hn : n < 192) : (matRow k m c r).1.accWord (c.rowAt r + n) =
    (BitVec.ofNat 32 ((normRow c.rnd c.q (k.row (c.rowAt r))).2.1.getD n 0)).toNat := by
  rw [matRow_acnrm h, accWord_putRow, normRow_length, row_length, if_pos (by omega), Nat.add_sub_cancel_left]

theorem acnrm_factor (h : c.instr = .acnrm o) :
    (matRow k m c r).2.1.bufNat (c.base + 4 * r) 4 = (normRow c.rnd c.q (k.row (c.rowAt r))).1 % 2 ^ 32 := by
  rw [matRow_acnrm h]
  exact bufNat_bufWrite ..

theorem acredMax_value (h : c.instr = .acredMax o) :
    (matRow k m c r).2.1.bufNat (c.base + 4 * r) 4 = (maxRow c.f.ty (k.row (c.rowAt r))).1 % 2 ^ 32 := by
  rw [matRow_acredMax h]
  exact bufNat_bufWrite ..

theorem acredSum_value (h : c.instr = .acredSum o) :
    (matRow k m c r).2.1.bufNat (c.base + 4 * r) 4 = (sumRow c.f.ty c.rnd (k.row (c.rowAt r))).1 % 2 ^ 32 := by
  rw [matRow_acredSum h]
  exact bufNat_bufWrite ..

/-- The elements of a row fill its bytes. -/
theorem rowBytes_length {cs : List Nat} (h : cs.length = 192) (b : Nat) : (packElems b cs).length = 24 * b := by
  rw [packElems_length, h]
  omega

theorem acst_bytes (h : c.instr = .acst o) (hb : c.bs = false) {j : Nat} (hj : j < 24 * accBits c.f.ty) :
    tabGet 0 (c.base + r * 24 * accBits c.f.ty + j) (matRow k m c r).2.1.opbuf =
      (packElems (accBits c.f.ty) ((k.row (c.rowAt r)).map (fun v => (acstElem c.f.ty c.rnd v).1))).getD j 0 := by
  rw [matRow_acst h hb, List.map_map]
  exact bufWrite_get m _ _ (by rwa [rowBytes_length (by simp [row_length])])

/-! ### acst with block scales (09 R319) -/

theorem acstBlock_length (ty : BitVec 3) (q : Rnd) (ws : List Nat) : (acstBlock ty q ws).2.1.length = ws.length := by
  unfold acstBlock
  dsimp only
  split
  · exact List.length_map _
  · simp only [List.length_map]

theorem rowBlocks_eq (k : Core) (c : MatCmd) (r : Nat) : rowBlocks k c r = (List.range 6).map (fun g =>
    acstBlock c.f.ty c.rnd ((List.range 32).map (fun n => k.accWord (c.rowAt r + 32 * g + n)))) := by
  refine List.map_congr_left (fun g hg => ?_)
  have hg6 := List.mem_range.1 hg
  congr 1
  refine List.ext_getElem (by simp [row_length]; omega) (fun n h1 h2 => ?_)
  simp [Core.row, Nat.add_assoc]

theorem rowBlocks_elements (k : Core) (c : MatCmd) (r : Nat) : ((rowBlocks k c r).map (fun e => e.2.1)).flatten.length = 192 := by
  have h32 : ∀ g ∈ List.range 6, (acstBlock c.f.ty c.rnd (((k.row (c.rowAt r)).drop (32 * g)).take 32)).2.1.length = 32 := fun g hg => by
    have := List.mem_range.1 hg
    rw [acstBlock_length, List.length_take, List.length_drop, row_length]
    omega
  rw [List.length_flatten, rowBlocks, List.map_map, List.map_map]
  exact congrArg List.sum (List.map_congr_left (g := fun _ => 32) h32)

theorem acst_elements (h : c.instr = .acst o) (hb : c.bs = true) (hr : r < c.rows) {j : Nat} (hj : j < 24 * accBits c.f.ty) :
    tabGet 0 (c.base + r * 24 * accBits c.f.ty + j) (matRow k m c r).2.1.opbuf =
      (packElems (accBits c.f.ty) ((rowBlocks k c r).map (fun e => e.2.1)).flatten).getD j 0 := by
  have hrows : (r + 1) * (24 * accBits c.f.ty) ≤ c.rows * (24 * accBits c.f.ty) := Nat.mul_le_mul_right _ hr
  rw [Nat.succ_mul] at hrows
  rw [matRow_acst_blocks h hb]
  dsimp only
  rw [bufWrite_below _ _ (by rw [Nat.mul_assoc, Nat.mul_assoc]; omega)]
  exact bufWrite_get m _ _ (by rwa [rowBytes_length (rowBlocks_elements k c r)])

theorem acst_scales (h : c.instr = .acst o) (hb : c.bs = true) {g : Nat} (hg : g < 6) :
    tabGet 0 (c.base + c.rows * 24 * accBits c.f.ty + 6 * r + g) (matRow k m c r).2.1.opbuf =
      BitVec.ofNat 8 (((rowBlocks k c r).map (fun e => e.1)).getD g 0) := by
  have hl : (rowBlocks k c r).length = 6 := by simp [rowBlocks]
  rw [matRow_acst_blocks h hb]
  refine (bufWrite_get _ _ _ (by simpa [hl] using hg)).trans ?_
  simp [List.getD_eq_getElem?_getD, hl, hg]
end

/-! ### Planes (09 R300, R305) -/

theorem tabFind_append {α : Type} (k : Nat) (t u : Tab α) : tabFind k (t ++ u) = (tabFind k t).or (tabFind k u) := by
  induction t with
  | nil => rfl
  | cons e t ih =>
    obtain ⟨j, v⟩ := e
    rw [List.cons_append, tabFind, tabFind]
    split
    · rfl
    · exact ih

theorem tabFind_listed (f : Nat → Nat) (n i : Nat) :
    tabFind i (((List.range n).map (fun i => (i, f i))).filter (fun e => e.2 != 0)) =
      if i < n ∧ f i ≠ 0 then some (f i) else none := by
  induction n with
  | zero => rfl
  | succ n ih =>
    have hlast : tabFind i (([(n, f n)] : Tab Nat).filter (fun e => e.2 != 0)) = if i = n ∧ f i ≠ 0 then some (f i) else none := by
      by_cases hi : i = n
      · subst hi
        by_cases hz : f i = 0 <;> simp [tabFind, hz]
      · by_cases hz : f n = 0 <;> simp [tabFind, hz, hi, Ne.symm hi]
    rw [List.range_succ, List.map_append, List.filter_append, tabFind_append, ih]
    refine (congrArg _ hlast).trans ?_
    by_cases hz : f i = 0
    · simp [hz]
    · by_cases hi : i = n
      · simp [hi]
      · simp only [hz, hi, ne_eq, not_false_eq_true, and_true, if_false, Option.or_none]
        exact if_congr (by omega) rfl rfl

/-- A table of the numbers that are not zero. -/
theorem tabGet_listed (f : Nat → Nat) (n i : Nat) :
    tabGet 0 i (((List.range n).map (fun i => (i, f i))).filter (fun e => e.2 != 0)) = if i < n then f i else 0 := by
  rw [tabGet, tabFind_listed]
  by_cases hz : f i = 0
  · simp [hz]
  · by_cases hi : i < n <;> simp [hz, hi]

theorem plane_elem (ty : BitVec 3) (bs : Bool) (bytes : List Byte) (k n : Nat) (h : 192 * k + n < 24576) :
    (planeOf ty bs bytes).elem k n = leNat bytes / 2 ^ (opBits ty * (192 * k + n)) % 2 ^ opBits ty := by
  unfold Plane.elem planeOf
  dsimp only
  rw [tabGet_listed, if_pos h]

theorem plane_scale (ty : BitVec 3) (bs : Bool) (bytes : List Byte) (g n : Nat) : (planeOf ty bs bytes).scale g n =
    if bs = true then [if 192 * g + n < 768 then leNat bytes / 2 ^ (8 * (3072 * opBits ty + (192 * g + n))) % 256 else 0] else [] := by
  unfold Plane.scale planeOf
  dsimp only
  cases bs with
  | false => rfl
  | true =>
    dsimp only
    rw [if_pos rfl, tabGet_listed, if_pos rfl]

end Sys2Proof.Machine
end

section
/-! SUPPORT. Blocks of rows, and the end of loads, swaps and row commands (09 R308, R314, R316, R326, R327). -/

namespace Sys2Proof.Machine

/-! ### A block of rows -/

/-- Row `d + i` of a command, after the rows before it; the status of the rows is gathered. -/
def rowAfter (c : MatCmd) (d : Nat) (r : Core × Team × Nat) (i : Nat) : Core × Team × Nat :=
  let o := matRow r.1 r.2.1 c (d + i)
  (o.1, o.2.1, r.2.2 ||| o.2.2)

/-- Rows `d` to `d + n - 1` of a command. -/
def rowsRun (k : Core) (m : Team) (c : MatCmd) (d n : Nat) : Core × Team × Nat := (List.range n).foldl (rowAfter c d) (k, m, 0)

theorem rowsRun_succ (k : Core) (m : Team) (c : MatCmd) (d n : Nat) :
    rowsRun k m c d (n + 1) = rowAfter c d (rowsRun k m c d n) n := by
  rw [rowsRun, List.range_succ, List.foldl_append]
  rfl

/-- What rows `d` to `d + n - 1` of a command can change: their words, and the operand buffer. -/
structure RowsOf (k : Core) (m : Team) (c : MatCmd) (d n : Nat) (o : Core × Team × Nat) : Prop where
  core : { o.1 with acc := k.acc } = k
  team : { o.2.1 with opbuf := m.opbuf } = m
  words : ∀ x, (∀ r, d ≤ r → r < d + n → ¬ (c.rowAt r ≤ x ∧ x < c.rowAt r + 192)) → o.1.accWord x = k.accWord x

theorem rowsRun_of (k : Core) (m : Team) (c : MatCmd) (d n : Nat) : RowsOf k m c d n (rowsRun k m c d n) := by
  induction n with
  | zero => exact ⟨rfl, rfl, fun _ _ => rfl⟩
  | succ n ih =>
    rw [rowsRun_succ]
    have hrow := matRow_of (rowsRun k m c d n).1 (rowsRun k m c d n).2.1 c (d + n)
    refine ⟨?_, ?_, fun x hx => ?_⟩
    · exact (congrArg (fun q : Core => { q with acc := k.acc }) hrow.core).trans ih.core
    · exact (congrArg (fun z : Team => { z with opbuf := m.opbuf }) hrow.team).trans ih.team
    · exact (hrow.words x (hx (d + n) (by omega) (by omega))).trans (ih.words x (fun r h1 h2 => hx r h1 (by omega)))

/-- The team once rows up to `e` of its command have run. -/
def Team.rowsMade (z : Team) (c : MatCmd) (i e : Nat) : Team := { z with matq := z.matq.set i { c with done := e } }

/-- The state once rows up to `e` of a command have run, but for its status and its counter. -/
def State.rowsMade (s : State) (core y i : Nat) (c : MatCmd) (e : Nat) (r : Core × Team × Nat) : State :=
  s.setCore core { r.1 with teams := tabSet y (r.2.1.rowsMade c i e) r.1.teams }

section
variable {s : State} {core i y : Nat} {m : Team} {c : MatCmd}

theorem block_runs (ho : s.owner core = some (y, m)) (hc : m.matq[i]? = some c) (hs : c.started = true)
    (ha : m.arrayStopped c = false) (hd : c.done < c.rows) {e : Nat} (he : e = min c.rows (c.done + 32))
    {r : Core × Team × Nat} (hr : r = rowsRun (s.core core) m c c.done (e - c.done)) : exec (.matrixBlockDone core i) s =
      if rowsPoisoned m c c.done e = true then .next (s.endMat core y i 5)
      else .next (((s.rowsMade core y i c e r).modConv y c.cv (fun v => v.note r.2.2)).discharge core (some y) c.cc c.id
        (blockBytes c c.done e)) := by
  subst he hr
  change execMatrixBlockDone core i s = _
  unfold execMatrixBlockDone
  rw [ho]
  dsimp only
  rw [hc]
  dsimp only
  rw [if_pos (by rw [hs, ha, decide_eq_true hd]; rfl)]
  rfl

theorem block_poisoned (ho : s.owner core = some (y, m)) (hc : m.matq[i]? = some c) (hs : c.started = true)
    (ha : m.arrayStopped c = false) (hd : c.done < c.rows) (hp : rowsPoisoned m c c.done (min c.rows (c.done + 32)) = true) :
    exec (.matrixBlockDone core i) s = .next (s.endMat core y i 5) :=
  (block_runs ho hc hs ha hd rfl rfl).trans (if_pos hp)

theorem block_idle (ho : s.owner core = some (y, m)) (hc : m.matq[i]? = some c)
    (h : c.started = false ∨ c.rows ≤ c.done ∨ m.arrayStopped c = true) : exec (.matrixBlockDone core i) s = .next s := by
  change execMatrixBlockDone core i s = _
  unfold execMatrixBlockDone
  rw [ho]
  dsimp only
  rw [hc]
  dsimp only
  refine if_neg fun hgo => ?_
  simp only [Bool.and_eq_true, decide_eq_true_eq, Bool.not_eq_true'] at hgo
  obtain ⟨⟨hs, hd⟩, ha⟩ := hgo
  rcases h with h | h | h
  · exact absurd (h.symm.trans hs) (by decide)
  · omega
  · exact absurd (h.symm.trans ha) (by decide)

theorem core_setCore (s : State) (core : Nat) (k : Core) : (s.setCore core k).core core = k :=
  (core_modCore s core core (fun _ => k)).trans (if_pos rfl)

/-- What the rows of a block leave. -/
theorem rowsMade_effect (hf : s.findTeam y = some (core, m)) {e : Nat} {d n : Nat} {r : Core × Team × Nat}
    (hr : RowsOf (s.core core) m c d n r) : (s.rowsMade core y i c e r).findTeam y = some (core, r.2.1.rowsMade c i e) ∧
      ((s.rowsMade core y i c e r).core core).acc = r.1.acc ∧ (r.2.1.rowsMade c i e).matq = m.matq.set i { c with done := e } :=
  ⟨findTeam_setCore hf (tabFind_set_same ..),
    (congrArg Core.acc (core_setCore s core _) :),
    congrArg (fun q => q.set i { c with done := e }) (congrArg Team.matq hr.team :)⟩

theorem block_effect (ho : s.owner core = some (y, m)) (hf : s.findTeam y = some (core, m)) (hc : m.matq[i]? = some c)
    (hs : c.started = true) (ha : m.arrayStopped c = false) (hd : c.done < c.rows)
    (hp : rowsPoisoned m c c.done (min c.rows (c.done + 32)) = false) :
    ∃ t, exec (.matrixBlockDone core i) s = .next t ∧ (∀ pa, t.memByte pa = s.memByte pa) ∧
      (t.team y).matq = m.matq.set i { c with done := min c.rows (c.done + 32) } ∧
      (∀ n, (∀ r, c.done ≤ r → r < min c.rows (c.done + 32) → ¬ (c.rowAt r ≤ n ∧ n < c.rowAt r + 192)) →
        (t.core core).accWord n = (s.core core).accWord n) ∧
      (c.rows = c.done + 1 → (t.core core).acc = (matRow (s.core core) m c c.done).1.acc ∧
        (t.team y).opbuf = (matRow (s.core core) m c c.done).2.1.opbuf) := by
  obtain ⟨e, he⟩ : ∃ e, e = min c.rows (c.done + 32) := ⟨_, rfl⟩
  rw [← he] at hp ⊢
  obtain ⟨r, hr⟩ : ∃ r, r = rowsRun (s.core core) m c c.done (e - c.done) := ⟨_, rfl⟩
  have hrows := rowsRun_of (s.core core) m c c.done (e - c.done)
  rw [← hr] at hrows
  obtain ⟨hteam, hacc, hmatq⟩ := rowsMade_effect (i := i) (e := e) hf hrows
  have hconv := turned_modConv (s.rowsMade core y i c e r) core y (r.2.1.rowsMade c i e) c.cv (fun v => v.note r.2.2)
  obtain ⟨cs, hdis⟩ := turned_discharge ((s.rowsMade core y i c e r).modConv y c.cv (fun v => v.note r.2.2)) core y _ c.cc c.id
    (blockBytes c c.done e)
  have hturn := hconv.trans hdis
  refine ⟨_, (block_runs ho hc hs ha hd he hr).trans (if_neg (by rw [hp]; decide)), hturn.bytes, ?_, fun n hn => ?_, fun h1 => ?_⟩
  · rw [team_of_find (hturn.team hteam)]
    exact hmatq
  · rw [hturn.accWord]
    refine (congrArg (fun a => (tabGet 0 n a).toNat) hacc).trans (hrows.words n (fun r h1 h2 => hn r h1 ?_))
    omega
  · have hone : e - c.done = 1 := by omega
    rw [hone] at hr
    rw [hturn.acc, hacc, team_of_find (hturn.team hteam), hr]
    exact ⟨rfl, rfl⟩
end

/-! ### The end of loads, swaps and row commands -/

theorem finishLoad_effect {s : State} {core y i : Nat} {m : Team} {c : MatCmd} (bytes : List Byte)
    (hf : s.findTeam y = some (core, m)) (hc : m.matq[i]? = some c) : let t := s.finishLoad core y i c bytes
    (∀ pa, t.memByte pa = s.memByte pa) ∧ (t.team y).matq = m.matq.eraseIdx i ∧
      ((t.core core).array c.a1).shadow = planeOf c.f.ty c.bs bytes ∧
      ((t.core core).array c.a1).live = ((s.core core).array c.a1).live := by
  let g : MatArray → MatArray := fun a => a.setShadow (planeOf c.f.ty c.bs bytes)
  have hend : MatEnded (s.modArray core c.a1 g) (s.finishLoad core y i c bytes) core y i 0 m c :=
    endMat_ended (findTeam_modArray s core c.a1 g hf) hc
  have harray : ((s.finishLoad core y i c bytes).core core).array c.a1 = g ((s.core core).array c.a1) := by
    rw [hend.array rfl, array_modArray_state, if_pos rfl]
  refine ⟨hend.bytes, hend.matq, ?_, ?_⟩
  · rw [harray]
    exact shadow_setShadow _ _
  · rw [harray]
    exact live_setShadow _ _

/-- A plane load that has faulted goes on as firmware has answered (09 R314). -/
def State.loadAnswered (s : State) (core y i : Nat) (c : MatCmd) : Host.Outcome State Fault Refusal :=
  match c.action with
  | none => .next s
  | some 0 => .next (s.modTeam y (fun z => { z with matq := z.matq.set i { c with fault := false, action := none } }))
  | some 1 => .next (s.endMat core y i 6)
  | some _ => .next (s.endMat core y i 5)

/-- A place that waits before a load may read it. -/
def State.placeWaits (s : State) (y : Nat) : Loc → Bool
  | .mem pa => s.refreshing pa || s.recallWaits (some y) false (.mem pa) 1
  | .spad _ _ => false

/-- A plane load whose places pass their checks. -/
def State.loadPlaces (s : State) (core y i : Nat) (c : MatCmd) (ls : List Loc) : Host.Outcome State Fault Refusal :=
  if ls.any (s.placeWaits y) then .next s
  else if (s.readPlaces (some y) ls).anyPoison ls then .next ((s.readPlaces (some y) ls).endMat core y i 5)
  else .next ((s.readPlaces (some y) ls).finishLoad core y i c (ls.map (s.readPlaces (some y) ls).getByte))

/-- A plane load at a lender that has not answered. -/
def State.loadAwaits (s : State) (core y i : Nat) (c : MatCmd) (va : Nat) (k : Chk) : Host.Outcome State Fault Refusal :=
  match s.awaited c.asked k with
  | .fault a d lv lid sc => .next (s.arrayFault core y i { c with asked := none } va (.fault a d lv lid sc))
  | _ => .next (s.modTeam y (fun z => { z with matq := z.matq.set i { c with asked := some (c.asked.getD s.time) } }))

/-- A plane load whose read is refused. -/
def State.loadRefused (s : State) (core y i : Nat) (c : MatCmd) (va : Nat) (k : Chk) : Host.Outcome State Fault Refusal :=
  match readError k with
  | some e => .next (s.endMat core y i e)
  | none => .next (s.arrayFault core y i c va k)

/-- A plane load, from its read. -/
def loadReads (core y i : Nat) (c : MatCmd) (r : State × Except (Nat × Chk) (List Loc)) : Host.Outcome State Fault Refusal :=
  match r with
  | (s, .ok ls) => s.loadPlaces core y i c ls
  | (s, .error (va, .lender e sc)) => s.loadAwaits core y i c va (.lender e sc)
  | (s, .error (va, k)) => s.loadRefused core y i c va k

/-- A started command completes, by its instruction. -/
def State.completes (s : State) (core y i : Nat) (m : Team) (c : MatCmd) : Host.Outcome State Fault Refusal :=
  match c.instr with
  | .mlds _ => if m.bufPoison c.base c.bytes then .next (s.endMat core y i 5)
    else .next (s.finishLoad core y i c (m.bufRead c.base c.bytes))
  | .mldl _ => if c.fault then s.loadAnswered core y i c
    else loadReads core y i c (s.engineBytes (s.teamAgent core m.ctx (some y)) c.addr c.bytes)
  | .mswap _ => .next ((s.modArray core c.a1 (fun a => { a with active := !a.active })).endMat core y i 0)
  | _ => .next (if c.rows ≤ c.done then s.endMat core y i 0 else s)

section
variable {s : State} {core i y : Nat} {m : Team} {c : MatCmd} {o : XForm}

theorem complete_idle (ho : s.owner core = some (y, m)) (hc : m.matq[i]? = some c)
    (h : c.started = false ∨ m.arrayStopped c = true) : exec (.matrixCommandComplete core i) s = .next s := by
  change execMatrixCommandComplete core i s = _
  unfold execMatrixCommandComplete
  rw [ho]
  dsimp only
  rw [hc]
  refine if_pos ?_
  rcases h with h | h
  · rw [h]; rfl
  · rw [h]; exact Bool.or_true _

theorem complete_runs (ho : s.owner core = some (y, m)) (hc : m.matq[i]? = some c) (hs : c.started = true)
    (ha : m.arrayStopped c = false) : exec (.matrixCommandComplete core i) s = s.completes core y i m c := by
  change execMatrixCommandComplete core i s = _
  unfold execMatrixCommandComplete
  rw [ho]
  dsimp only
  rw [hc]
  dsimp only
  rw [if_neg (by rw [hs, ha]; decide)]
  rfl

/-! #### What each form completes with -/

theorem completes_mlds (hi : c.instr = .mlds o) : s.completes core y i m c = if m.bufPoison c.base c.bytes
    then .next (s.endMat core y i 5) else .next (s.finishLoad core y i c (m.bufRead c.base c.bytes)) := by
  unfold State.completes
  rw [hi]

theorem completes_mldl_faulted (hi : c.instr = .mldl o) (hf : c.fault = true) :
    s.completes core y i m c = s.loadAnswered core y i c := by
  unfold State.completes
  rw [hi]
  exact if_pos hf

theorem completes_mldl (hi : c.instr = .mldl o) (hf : c.fault = false) : s.completes core y i m c =
    loadReads core y i c (s.engineBytes (s.teamAgent core m.ctx (some y)) c.addr c.bytes) := by
  unfold State.completes
  rw [hi]
  exact if_neg (by rw [hf]; decide)

theorem completes_mswap (hi : c.instr = .mswap o) : s.completes core y i m c =
    .next ((s.modArray core c.a1 (fun a => { a with active := !a.active })).endMat core y i 0) := by
  unfold State.completes
  rw [hi]

theorem completes_rows (hl : c.isLoad = false) (hw : c.isSwap = false) : s.completes core y i m c =
    .next (if c.rows ≤ c.done then s.endMat core y i 0 else s) := by
  unfold State.completes
  split
  · simp_all [MatCmd.isLoad]
  · simp_all [MatCmd.isLoad]
  · simp_all [MatCmd.isSwap]
  · rfl

theorem loadReads_refused {va : Nat} {k : Chk} (hk : ∀ e sc, k ≠ .lender e sc) :
    loadReads core y i c (s, .error (va, k)) = s.loadRefused core y i c va k := by
  cases k with
  | lender e sc => exact absurd rfl (hk e sc)
  | _ => rfl

theorem loadRefused_eq (va : Nat) (k : Chk) : s.loadRefused core y i c va k = .next (match readError k with
    | some e => s.endMat core y i e
    | none => s.arrayFault core y i c va k) := by
  unfold State.loadRefused
  cases readError k <;> rfl

theorem loadPlaces_free {ls : List Loc}
    (h : ∀ pa, Loc.mem pa ∈ ls → s.refreshing pa = false ∧ s.recallWaits (some y) false (.mem pa) 1 = false) :
    s.loadPlaces core y i c ls = .next (if (s.readPlaces (some y) ls).anyPoison ls then (s.readPlaces (some y) ls).endMat core y i 5
      else (s.readPlaces (some y) ls).finishLoad core y i c (ls.map (s.readPlaces (some y) ls).getByte)) := by
  have hfree : ls.any (s.placeWaits y) = false := by
    refine List.any_eq_false.2 fun l hl => ?_
    cases l with
    | spad n d => exact Bool.false_ne_true
    | mem pa =>
      obtain ⟨h1, h2⟩ := h pa hl
      rw [State.placeWaits, h1, h2]
      decide
  unfold State.loadPlaces
  rw [hfree, if_neg Bool.false_ne_true]
  split <;> rfl

theorem loadAwaits_early {va : Nat} {e : Xlat} {sc : Bool} (h : ∀ q, c.asked = some q → s.time < q + 50000) :
    s.loadAwaits core y i c va (.lender e sc) =
      .next (s.modTeam y (fun z => { z with matq := z.matq.set i { c with asked := some (c.asked.getD s.time) } })) := by
  have hl : s.awaited c.asked (.lender e sc) = .lender e sc := by
    cases hq : c.asked with
    | none => rfl
    | some q => exact if_neg (Nat.not_le.2 (h q hq))
  unfold State.loadAwaits
  rw [hl]

theorem loadAwaits_late {va q : Nat} {e : Xlat} {sc : Bool} (hq : c.asked = some q) (h : q + 50000 ≤ s.time) :
    s.loadAwaits core y i c va (.lender e sc) =
      .next (s.arrayFault core y i { c with asked := none } va (.fault 2 4 e.level (leafLid e.leaf) sc)) := by
  have hl : s.awaited c.asked (.lender e sc) = .fault 2 4 e.level (leafLid e.leaf) sc := by
    rw [hq]
    exact if_pos h
  unfold State.loadAwaits
  rw [hl]
end

/-- 09 R314: a swap exchanges the planes of its array. -/
theorem swap_effect {s : State} {core i y : Nat} {m : Team} {c : MatCmd} {o : XForm} (ho : s.owner core = some (y, m))
    (hf : s.findTeam y = some (core, m)) (hc : m.matq[i]? = some c) (hs : c.started = true) (ha : m.arrayStopped c = false)
    (hi : c.instr = .mswap o) :
    ∃ t, exec (.matrixCommandComplete core i) s = .next t ∧ (∀ pa, t.memByte pa = s.memByte pa) ∧
      (t.team y).matq = m.matq.eraseIdx i ∧
      (t.core core).array c.a1 = { (s.core core).array c.a1 with active := !((s.core core).array c.a1).active } := by
  let g : MatArray → MatArray := fun a => { a with active := !a.active }
  have hend : MatEnded (s.modArray core c.a1 g) ((s.modArray core c.a1 g).endMat core y i 0) core y i 0 m c :=
    endMat_ended (findTeam_modArray s core c.a1 g hf) hc
  refine ⟨_, (complete_runs ho hc hs ha).trans (completes_mswap hi), hend.bytes, hend.matq, ?_⟩
  rw [hend.array rfl, array_modArray_state, if_pos rfl]

/-! ### The obligation -/

/-- Settles O45: the start and the end of a command turn its team and leave memory (`start_effect`, `endMat_ended`), a block is
a run of rows that each keep to their words (`rowsRun_of`, `matRow_of`), and a command completes by its instruction
(`complete_runs`). -/
theorem matrixCommandsRun : Obligations.MatrixCommandsRun := by
  refine ⟨fun s v core i y m c hv ho _ hc => start_fails hv ho hc, fun s v core i y m c => start_effect,
    fun s v core i y m c hv ho _ hc => start_waits hv ho hc,
    fun s core i y m c ho _ => block_poisoned ho, fun s core i y m c => block_effect, fun s core i y m c ho _ => block_idle ho,
    fun k m c r => ?_,
    fun k m c r n o => mmul_word, fun k m c r n o => mmulz_word, fun k m c r n o => acld_word, fun k m c r n o => acsclRow_word,
    fun k m c r n o => acsclCol_word, fun k m c r n o => acbias_word, fun k m c r n o => acnrm_word,
    fun k m c r o => acnrm_factor, fun k m c r o => acredMax_value, fun k m c r o => acredSum_value,
    fun k m c r o h hb j => acst_bytes h hb, fun k m c r o h hb hr => ?_, packElems_get,
    fun s core i y m c o => swap_effect, ?_, ?_, ?_, ?_, fun s core i y m c bytes => finishLoad_effect bytes,
    fun ty bs bytes => ⟨rfl, plane_elem ty bs bytes, plane_scale ty bs bytes⟩, ?_, ?_,
    fun s core i y m c ho _ => complete_idle ho, fun s core i y m c e hf hc => ?_⟩
  case refine_1 =>
    obtain ⟨hcore, hteam, hwords, hread, hslot⟩ := matRow_of k m c r
    exact ⟨hcore, hteam, hwords, hread, hslot⟩
  case refine_2 =>
    rw [← rowBlocks_eq]
    exact ⟨fun j => acst_elements h hb hr, fun g => acst_scales h hb⟩
  case refine_3 =>
    intro s core i y m c o ho hf hc hs ha hi hp
    exact ⟨_, (complete_runs ho hc hs ha).trans ((completes_mlds hi).trans (if_neg (by rw [hp]; decide))),
      finishLoad_effect _ hf hc⟩
  case refine_4 =>
    intro s core i y m c o ho hf hc hs ha hi hp
    exact (complete_runs ho hc hs ha).trans ((completes_mlds hi).trans (if_pos hp))
  case refine_5 =>
    intro s core i y m c o u ls ho _ hc hs ha hi hfault hread hfree
    rw [complete_runs ho hc hs ha, completes_mldl hi hfault, hread]
    exact loadPlaces_free hfree
  case refine_6 =>
    intro s u core i y m c o va k ho _ hc hs ha hi hfault hread
    have hrun : exec (.matrixCommandComplete core i) s = loadReads core y i c (u, .error (va, k)) := by
      rw [complete_runs ho hc hs ha, completes_mldl hi hfault, hread]
    refine ⟨fun hk => hrun.trans ((loadReads_refused hk).trans (loadRefused_eq va k)), fun e sc hk => ?_⟩
    subst hk
    exact ⟨fun h => hrun.trans (loadAwaits_early h), fun q hq h => hrun.trans (loadAwaits_late hq h)⟩
  case refine_7 =>
    intro s core i y m c o ho _ hc hs ha hi hfault
    have hrun := (complete_runs ho hc hs ha).trans (completes_mldl_faulted hi hfault)
    unfold State.loadAnswered at hrun
    refine ⟨fun h => ?_, fun h => ?_, fun h => ?_, fun h => ?_⟩ <;> simp only [hrun, h]
  case refine_8 =>
    intro s core i y m c ho _ hc hs ha hl hw
    exact (complete_runs ho hc hs ha).trans (completes_rows hl hw)
  case refine_9 =>
    have hend := endMat_ended (e := e) hf hc
    exact ⟨hend.bytes, hend.matq, hend.opbuf, hend.acc, hend.conv, hend.slot⟩

end Sys2Proof.Machine
end

section
/-! SUPPORT. Completion counters read, added to, cleared and waited on (10 R347, R348). -/

namespace Sys2Proof.Machine

/-! ### waitlt (10 R347) -/

section
variable {x : Iss} {s : State}

theorem waitlt_bounded (h : ∀ l ∈ x.ex, x.a l % 2 ^ 56 ≠ 0) : waitltBody x s =
    if ∀ l ∈ x.ex, (s.counter x.g.core x.team x.ccn).count < x.a l % 2 ^ 56 then .done s x.ex else .wait s := by
  have hnone : x.ex.filter (fun l => decide (x.a l % 2 ^ 56 = 0)) = [] :=
    List.filter_eq_nil_iff.2 (fun l hl => by simpa using h l hl)
  unfold waitltBody
  rw [hnone]
  simp only [List.all_eq_true, decide_eq_true_eq]

theorem waitlt_unbounded (h : ∃ l ∈ x.ex, x.a l % 2 ^ 56 = 0) : waitltBody x s =
    .trap s [] trapProt 0x1C (x.ex.filter (fun l => decide (x.a l % 2 ^ 56 = 0))) := by
  obtain ⟨l, hl, hz⟩ := h
  obtain ⟨m, t, hm⟩ := List.exists_cons_of_ne_nil (List.ne_nil_of_mem
    (List.mem_filter.2 ⟨hl, decide_eq_true hz⟩ : l ∈ x.ex.filter (fun l => decide (x.a l % 2 ^ 56 = 0))))
  unfold waitltBody
  rw [hm]
end

/-! ### ccadd and ccclr (10 R348) -/

/-- 10 R348: the sum where COUNT can hold it; else the bound that it passes, and the code 8 where none stands. -/
theorem counter_add (c : Counter) (z : Int) : (c.add z).charges = c.charges ∧
    (0 ≤ c.count + z ∧ c.count + z < 2 ^ 56 → ((c.add z).count : Int) = c.count + z ∧ (c.add z).err = c.err) ∧
    (c.count + z < 0 → (c.add z).count = 0 ∧ (c.add z).err = if c.err = 0 then 8 else c.err) ∧
    (2 ^ 56 ≤ c.count + z → (c.add z).count = 2 ^ 56 - 1 ∧ (c.add z).err = if c.err = 0 then 8 else c.err) := by
  unfold Counter.add
  dsimp only
  generalize (c.count : Int) + z = v
  have hin : 0 ≤ v ∧ v < 2 ^ 56 → max 0 (min (2 ^ 56 - 1) v) = v := by omega
  have hlow : v < 0 → max 0 (min (2 ^ 56 - 1) v) = 0 := by omega
  have hhigh : 2 ^ 56 ≤ v → max 0 (min (2 ^ 56 - 1) v) = 2 ^ 56 - 1 := by omega
  refine ⟨rfl, fun h => ?_, fun h => ?_, fun h => ?_⟩
  · rw [hin h, Int.toNat_of_nonneg h.1]
    simp
  · have hne : v ≠ 0 := by omega
    rw [hlow h]
    simp [hne]
  · have hne : v ≠ 2 ^ 56 - 1 := by omega
    rw [hhigh h]
    simp only [ne_eq, hne, not_false_eq_true, true_and, and_true]
    decide

theorem ccadd_acts (o : AForm) : Acts (.ccadd o) (fun _ _ => True) still (fun x s => x.ex.foldl (fun s l =>
    s.modCounter x.g.core x.team x.ccn (fun c => c.add (sint 64 (x.a l)))) s) :=
  acts_still (execCcadd.eq_def o) (fun _ _ _ => rfl)
    (fun x s _ => sameWeaves_fold _ _ (fun s _ => sameWeaves_modCounter s x.g.core x.team x.ccn _) s)

theorem ccclr_acts (o : AForm) : Acts (.ccclr o) (fun x _ => x.ex ≠ []) still
    (fun x s => s.modCounter x.g.core x.team x.ccn (fun c => { c with err := 0 })) :=
  acts_still (execCcclr.eq_def o) (fun _ _ h => by rw [List.isEmpty_eq_false_iff.2 h]; rfl)
    (fun _ s _ => sameWeaves_modCounter s _ _ _ _)

/-! ### The obligation -/

/-- Settles O37: waitlt has one condition, ccrd gives one value, and the others change the one counter. -/
theorem completionCounters : Obligations.CompletionCounters :=
  ⟨fun o => acts_still (execWaitlt.eq_def o)
      (fun _ _ h => (waitlt_bounded fun l hl => (h l hl).1).trans (if_pos fun l hl => (h l hl).2)) (fun _ s _ => .rfl' s),
    fun o => waits_of (execWaitlt.eq_def o) (fun _ _ ⟨hb, l, hl, hle⟩ =>
      (waitlt_bounded hb).trans (if_neg fun h => absurd (h l hl) (not_lt.2 hle))),
    fun o => raises_of (execWaitlt.eq_def o) (fun _ _ h => waitlt_unbounded h),
    fun o => acts_gives (eff := fun _ s => s) (execCcrd.eq_def o) (fun _ _ _ => rfl) (fun _ s _ => .rfl' s),
    ccadd_acts, counter_add, ccclr_acts⟩

end Sys2Proof.Machine
end

section
/-! SUPPORT. The tables of cores: a core that stands where a write puts it, so that a write that leaves its teams leaves where
every team is found. -/

namespace Sys2Proof.Machine

theorem tabSet_comm {α : Type} {j k : Nat} (h : j ≠ k) (v w : α) (t : Tab α) :
    tabSet j v (tabSet k w t) = tabSet k w (tabSet j v t) := by
  induction t with
  | nil => grind [tabSet]
  | cons e t ih => grind [tabSet]

/-- The core `c` stands in the table of cores where a write puts it: to write its teams back changes nothing. -/
def State.homed (s : State) (c : Nat) : Prop := tabSet c (tabGet [] c s.teamTab) s.teamTab = s.teamTab

theorem homed_setCore_self (s : State) (c : Nat) (k : Core) : (s.setCore c k).homed c := by
  rw [State.homed, teamTab_setCore, tabGet_set, if_pos rfl, tabSet_tabSet]

theorem homed_setCore {s : State} {c : Nat} (h : s.homed c) (d : Nat) (k : Core) : (s.setCore d k).homed c := by
  by_cases hc : c = d
  · subst hc
    exact homed_setCore_self s c k
  · rw [State.homed, teamTab_setCore, tabGet_set, if_neg hc, tabSet_comm hc, h]

/-- A group that has moved past its word stands on such a core. -/
theorem homed_moved (x : Iss) (s : State) : (x.moved s).homed x.g.core := homed_setCore_self s x.g.core _

/-- A change of such a core that leaves its teams. -/
theorem findTeam_homed {s : State} {c : Nat} (h : s.homed c) {g : Core → Core} (hg : (g (s.core c)).teams = (s.core c).teams) (y : Nat) :
    (s.modCore c g).findTeam y = s.findTeam y := by
  rw [findTeam_eq, State.modCore, teamTab_setCore, hg, teams_core, h, ← findTeam_eq]

/-- Every core that stands so in `s` does in `u`. -/
def Homes (s u : State) : Prop := ∀ c, s.homed c → u.homed c

theorem Homes.rfl' (s : State) : Homes s s := fun _ h => h
theorem Homes.trans {s t u : State} (h : Homes s t) (k : Homes t u) : Homes s u := fun c hc => k c (h c hc)
theorem homes_of_tab {s u : State} (h : u.teamTab = s.teamTab) : Homes s u := fun c hc => by rwa [State.homed, h]
theorem homes_of {s u : State} (h : u.cores = s.cores) : Homes s u := homes_of_tab (by rw [State.teamTab, h, State.teamTab])
theorem homes_modCore (s : State) (c : Nat) (g : Core → Core) : Homes s (s.modCore c g) := fun _ h => homed_setCore h c _
theorem homes_modTeam (s : State) (y : Nat) (g : Team → Team) : Homes s (s.modTeam y g) := by
  unfold State.modTeam
  split
  · exact homes_modCore s _ _
  · exact .rfl' s
theorem homes_fold {α : Type} (ls : List α) (f : State → α → State) (h : ∀ s a, Homes s (f s a)) (s : State) :
    Homes s (ls.foldl f s) := by
  induction ls generalizing s with
  | nil => exact .rfl' s
  | cons a t ih => exact (h s a).trans (ih _)

theorem homes_conflicts (s : State) (ls : List Loc) (b : Nat × Nat × Nat) (sees : Nat → Nat → Bool) : Homes s (s.conflicts ls b sees) :=
  homes_of_tab (by rw [State.teamTab, cores_conflicts, List.map_map]; rfl)

/-! ### Bytes brought and written -/

theorem homes_lcBring (s : State) (pa : Nat) : Homes s (s.lcBring pa) := homes_of (congrArg State.cores (lcBring_frame s pa) :)
theorem homes_fillLine (s : State) (t o : Nat) : Homes s (s.fillLine t o) := by
  unfold State.fillLine
  split
  · exact .rfl' s
  · dsimp only
    split
    · exact .rfl' s
    · exact homes_modTeam s _ _
theorem homes_touch (s : State) (l : Loc) : Homes s (s.touch l) := by
  cases l with
  | mem pa => exact homes_lcBring s pa
  | spad t o => exact homes_fillLine s t o
theorem homes_touchAll (s : State) (ls : List Loc) : Homes s (s.touchAll ls) := homes_fold ls _ homes_touch s
theorem homes_putByte (s : State) (l : Loc) (b : Byte) : Homes s (s.putByte l b) := by
  cases l with
  | mem pa => exact homes_of (congrArg State.cores (setByte_frame s pa b) :)
  | spad t o => exact homes_modTeam s t _
theorem homes_endInherit (s : State) : Homes s s.endInherit := homes_of rfl
theorem homes_writeAt (s : State) (bs : List (Loc × Byte)) : Homes s (s.writeAt bs) := by
  unfold State.writeAt
  extract_lets u
  have h : Homes s u := homes_fold bs (fun s b => (s.touch b.1).putByte b.1 b.2)
    (fun s b => (homes_touch s b.1).trans (homes_putByte _ _ _)) s
  exact (h.trans (homes_conflicts u _ _ _)).trans (homes_endInherit _)

/-! ### Translation and the checks of an access -/

theorem homes_snoop (s : State) (l : Loc) : Homes s (s.snoop l) := by
  cases l <;> exact homes_of rfl
theorem homes_waitLine (s : State) (n : Nat) : Homes s (s.waitLine n) := by
  unfold State.waitLine
  split <;> exact homes_of rfl
theorem homes_waitLines (s : State) (ls : List Loc) : Homes s (s.waitLines ls) :=
  homes_fold ls _ (fun s l => by
    cases l with
    | mem pa => exact homes_waitLine s _
    | spad => exact .rfl' s) s
/-- A translation marked in its leaf and entered in both TLBs. -/
theorem homes_enterTlbs (s : State) (c ctx va : Nat) (x y : Xlat) (b : Bool) :
    Homes s (((s.markLeaf x b).1.fillDieTlb c ctx va y).fillTlb c ctx va y) := by
  have h : Homes s (s.markLeaf x b).1 := by
    unfold State.markLeaf
    extract_lets l m
    split
    · exact .rfl' s
    · exact homes_writeAt s _
  generalize (s.markLeaf x b).1 = u at h
  have hd : Homes u (u.fillDieTlb c ctx va y) := homes_of rfl
  exact (h.trans hd).trans (homes_modCore _ c _)
theorem homes_walkFill (s : State) (c ctx va : Nat) : Homes s (s.walkFill c ctx va).1 := by
  unfold State.walkFill
  split
  · split
    · exact homes_waitLines s _
    · exact homes_enterTlbs s c ctx va _ _ false
  · exact .rfl' s
  · exact .rfl' s
theorem homes_endShoot (s : State) (c : Nat) : Homes s (s.endShoot c) := by
  unfold State.endShoot
  split
  · exact homes_modCore s c _
  · exact .rfl' s
theorem homes_translate (s : State) (c ctx va : Nat) : Homes s (s.translate c ctx va).1 := by
  unfold State.translate
  split
  · split
    · exact .rfl' s
    · split
      · exact (homes_endShoot s c).trans (homes_walkFill _ c ctx va)
      · exact .rfl' s
  · exact homes_walkFill s c ctx va
theorem homes_dirtied (s : State) (c ctx va : Nat) (x : Xlat) : Homes s (s.dirtied c ctx va x).1 := by
  unfold State.dirtied
  split
  · exact .rfl' s
  · split
    · split
      · exact homes_waitLines s _
      · exact homes_enterTlbs s c ctx va _ _ true
    · exact .rfl' s
theorem homes_checkFill (s : State) (t o : Nat) : Homes s (s.checkFill t o).1 := by
  unfold State.checkFill
  split
  · split
    · exact homes_snoop s (.mem _)
    · exact .rfl' s
  · exact .rfl' s
theorem homes_check (s : State) (a : Agent) (x : Acc) (ea : Nat) : Homes s (s.check a x ea).1 := by
  unfold State.check
  split
  · exact .rfl' s
  split
  · exact .rfl' s
  split
  · split
    · exact homes_checkFill s _ _
    · exact .rfl' s
  split
  · exact homes_checkFill s _ _
  · have ht := homes_translate s a.core a.ctx ea
    revert ht
    generalize s.translate a.core a.ctx ea = r
    obtain ⟨u, r⟩ := r
    intro ht
    cases r with
    | ok t =>
      dsimp only at ht ⊢
      split
      · exact ht
      split
      · exact ht.trans (homes_snoop u _)
      split
      · exact ht
      · have hd := homes_dirtied u a.core a.ctx ea t
        revert hd
        generalize u.dirtied a.core a.ctx ea t = q
        obtain ⟨v, q⟩ := q
        intro hd
        cases q <;> exact ht.trans hd
    | fault _ _ => exact ht
    | wait => exact ht

/-- What the check of the one access of a whole-team instruction leaves is what one check leaves, or the state. -/
theorem checkOnce_state (x : Iss) (s : State) (acc : Acc) (va : Nat) :
    (x.checkOnce s acc va).1 = s ∨ (x.checkOnce s acc va).1 = (s.check x.agent acc va).1 := by
  unfold Iss.checkOnce
  cases x.ex.findSome? (fun l => x.onWay l va) with
  | some q =>
    left
    dsimp only
    split
    · split <;> rfl
    · rfl
  | none =>
    right
    dsimp only
    split
    · split <;> rfl
    · rfl

theorem homes_checkOnce (x : Iss) (s : State) (acc : Acc) (va : Nat) : Homes s (x.checkOnce s acc va).1 := by
  rcases checkOnce_state x s acc va with h | h <;> rw [h]
  · exact .rfl' s
  · exact homes_check s _ _ _
theorem alike_checkOnce (x : Iss) (s : State) (acc : Acc) (va : Nat) : Alike s (x.checkOnce s acc va).1 := by
  rcases checkOnce_state x s acc va with h | h <;> rw [h]
  · exact .rfl' s
  · exact alike_check s _ _ _

/-! ### What a load does to the directories -/

theorem homes_rowRecall (s : State) (who : Option Nat) (st : Bool) (pa : Nat) : Homes s (s.rowRecall who st pa) := by
  unfold State.rowRecall
  dsimp only
  split
  · exact .rfl' s
  · refine Homes.trans ?_ (homes_fold _ _ (fun s d => homes_conflicts s _ _ _) _)
    exact (homes_fold _ _ (fun s (d : DirRec) => homes_modTeam s _ _) s).trans (homes_of rfl)
theorem homes_recallSpan (s : State) (who : Option Nat) (st : Bool) (l : Loc) (n : Nat) : Homes s (s.recallSpan who st l n) := by
  cases l with
  | mem pa => exact homes_fold _ _ (fun s _ => homes_rowRecall s _ _ _) s
  | spad => exact .rfl' s
theorem homes_syncTouch (s : State) (pa : Nat) (c w : Option Nat) : Homes s (s.syncTouch pa c w) := by
  have q : ∀ d g, Homes s (s.modDie d g) := fun _ _ => homes_of rfl
  unfold State.syncTouch
  extract_lets half h old new put u
  split
  · exact (q _ _).trans (homes_conflicts u _ _ _)
  · exact q _ _
theorem homes_holdLine (s : State) (c n : Nat) : Homes s (s.holdLine c n) := by
  unfold State.holdLine
  split <;> exact homes_of rfl
theorem homes_grantHold (s : State) (c n : Nat) : Homes s (s.grantHold c n) := by
  unfold State.grantHold
  dsimp only
  split
  · exact homes_holdLine s _ _
  · exact (homes_holdLine s _ _).trans (homes_holdLine _ _ _)
theorem homes_prepLoad (s : State) (c w : Nat) (q : Lane) (n : Nat) (k : Bool) : Homes s (s.prepLoad c w q n k) := by
  have h := (homes_touchAll s (q.loc.span n)).trans (homes_recallSpan _ (s.weave c w).team false q.loc n)
  unfold State.prepLoad
  dsimp only
  split
  · exact h
  · split
    · exact h.trans (homes_syncTouch _ _ _ _)
    · split
      · exact h.trans (homes_grantHold _ _ _)
      · exact h

end Sys2Proof.Machine
end

section
/-! SUPPORT. Engine commands are posted (10 R335, R343): one law of posting, and what each body leads to. -/

namespace Sys2Proof.Machine

/-! ### Counters (10 R346) -/

/-- A counter depends on where its team is found and on the counters of the core's agent. -/
theorem counter_of_same {s u : State} {core : Nat} (hf : ∀ y, u.findTeam y = s.findTeam y)
    (hc : (u.core core).fwCounters = (s.core core).fwCounters) (team : Option Nat) (n : Nat) :
    u.counter core team n = s.counter core team n := by
  cases team with
  | none => rw [State.counter, hc]; rfl
  | some y => rw [State.counter, State.team, hf y]; rfl

theorem counter_modCounter_agent (s : State) (core k : Nat) (f : Counter → Counter) :
    (s.modCounter core none k f).counter core none k = f (s.counter core none k) := by
  simp only [State.counter, State.modCounter, core_modCore, if_true, tabGet_set]

theorem charge_agent (s : State) (core : Nat) (cc : Option Nat) (cmd n : Nat) :
    Charged s (s.charge core none cc cmd n) core none cc cmd n := by
  cases cc with
  | none => exact fun _ => rfl
  | some k =>
    intro hn hlt
    have hcount : ∀ free, countOf (((s.counter core none k).count : Int) + n) free = (s.counter core none k).count + n :=
      fun free => (if_neg (by omega)).trans (by omega)
    unfold State.charge
    dsimp only
    rw [if_neg hn, if_neg (by omega), counter_modCounter_agent, hcount]

/-- A charge on the counter of a team that is found, or of the agent, stands in it. -/
theorem charge_stands {s : State} {team : Option Nat} (h : ∀ y, team = some y → (s.findTeam y).isSome = true) (core : Nat)
    (cc : Option Nat) (cmd n : Nat) : Charged s (s.charge core team cc cmd n) core team cc cmd n := by
  cases team with
  | none => exact charge_agent s core cc cmd n
  | some y =>
    obtain ⟨⟨c, m⟩, hm⟩ := Option.isSome_iff_exists.1 (h y rfl)
    exact charge_charged hm core cc cmd n

theorem Charged.of_same {u s t : State} {core : Nat} {team cc : Option Nat} {id n : Nat} (h : Charged u s core team cc id n)
    (hs : ∀ k, t.counter core team k = s.counter core team k) : Charged u t core team cc id n := by
  cases cc with
  | none => exact fun k => (hs k).trans (h k)
  | some k => exact fun hn hlt => (hs k).trans (h hn hlt)

theorem cmds_modTeam (s : State) (y : Nat) (g : Team → Team) (c : Nat) : ((s.modTeam y g).core c).cmds = (s.core c).cmds :=
  (congrArg Core.cmds (units_modTeam s y g c) :)

theorem cmds_modCounter (s : State) (core : Nat) (team : Option Nat) (n : Nat) (f : Counter → Counter) (c : Nat) :
    ((s.modCounter core team n f).core c).cmds = (s.core c).cmds := by
  cases team with
  | none =>
    rw [State.modCounter, core_modCore]
    split
    · subst_vars; rfl
    · rfl
  | some y => exact cmds_modTeam s y _ c

theorem homes_modCounter (s : State) (core : Nat) (team : Option Nat) (n : Nat) (f : Counter → Counter) :
    Homes s (s.modCounter core team n f) := by
  cases team with
  | none => exact homes_modCore s core _
  | some y => exact homes_modTeam s y _

/-- What a charge leaves: every engine command, and the place of every core. -/
theorem charge_keeps (s : State) (core : Nat) (team cc : Option Nat) (cmd n : Nat) :
    (∀ c, ((s.charge core team cc cmd n).core c).cmds = (s.core c).cmds) ∧ Homes s (s.charge core team cc cmd n) := by
  cases cc with
  | none => exact ⟨fun _ => rfl, .rfl' s⟩
  | some k =>
    unfold State.charge
    dsimp only
    split
    · exact ⟨fun _ => rfl, .rfl' s⟩
    · split
      · exact ⟨cmds_modCounter s.draw.2 core team k _, (homes_of (s := s) (u := s.draw.2) rfl).trans (homes_modCounter _ _ _ _ _)⟩
      · exact ⟨cmds_modCounter s core team k _, homes_modCounter _ _ _ _ _⟩

/-! ### Posting (10 R343) -/

/-- The command as it is entered: numbered, in the lowest free entry. -/
def Iss.numbers (x : Iss) (s : State) (c : EngCmd) : EngCmd := { c with id := s.nextId, entry := (s.core x.g.core).freeEntry }
/-- The charge of a command on its counter, its number taken. -/
def Iss.chargedEng (x : Iss) (s : State) (c : EngCmd) : State := s.numbered.charge x.g.core c.team c.cc s.nextId c.len
/-- The state in which the command stands last of its core. -/
def Iss.posted (x : Iss) (s : State) (c : EngCmd) : State :=
  (x.chargedEng s c).modCore x.g.core (fun k => { k with cmds := k.cmds ++ [x.numbers s c] })

section
variable {x : Iss} {s : State}

theorem post_room (h : x.engRoom s) (c : EngCmd) : x.post s c = .done (x.posted s c) x.ex := by
  obtain ⟨hlen, hdrained, hatom⟩ := h
  unfold Iss.post
  dsimp only
  rw [if_neg (not_le.2 hlen), hdrained, hatom]
  rfl

theorem post_waits (h : ¬ x.engRoom s) (c : EngCmd) : x.post s c = .wait s := by
  unfold Iss.post
  dsimp only
  by_cases hlen : 64 ≤ (s.core x.g.core).cmds.length
  · exact if_pos hlen
  · rw [if_neg hlen]
    refine if_pos ?_
    cases hd : s.drained x.g.core x.g.slot with
    | false => rfl
    | true =>
      cases ha : s.atomPending x.g.core x.g.slot x.ex with
      | true => rfl
      | false => exact absurd ⟨not_le.1 hlen, hd, ha⟩ h
end

theorem sameWeaves_posted (x : Iss) (s : State) (c : EngCmd) : SameWeaves s (x.posted s c) :=
  ((sameWeaves_of (s := s) (u := s.numbered) rfl rfl rfl).trans (sameWeaves_charge _ _ _ _ _ _)).trans
    (sameWeaves_modCore _ _ _ (fun _ => rfl))

section
variable {x : Iss} {s : State} {c : EngCmd} (hh : s.homed x.g.core)
include hh

theorem findTeam_posted (y : Nat) : (x.posted s c).findTeam y = (x.chargedEng s c).findTeam y :=
  findTeam_homed ((charge_keeps s.numbered _ _ _ _ _).2 _ hh) rfl y

/-- 10 R335, R343: the command stands last of its core, in the lowest free entry, with its charge. -/
theorem posted_engPosted (hp : ∀ y, c.team = some y → (s.findTeam y).isSome = true) : EngPosted s x c (x.posted s c) := by
  have hcore : ((x.posted s c).core x.g.core) =
      { (x.chargedEng s c).core x.g.core with cmds := ((x.chargedEng s c).core x.g.core).cmds ++ [x.numbers s c] } :=
    (core_modCore _ _ _ _).trans (if_pos rfl)
  refine ⟨?_, ?_⟩
  · have hcmds : ((x.chargedEng s c).core x.g.core).cmds = (s.core x.g.core).cmds := (charge_keeps s.numbered _ _ _ _ _).1 _
    rw [hcore]
    exact congrArg (· ++ _) hcmds
  · have hch : Charged s (x.chargedEng s c) x.g.core c.team c.cc s.nextId c.len := charge_stands (s := s.numbered) hp _ _ _ _
    exact hch.of_same (counter_of_same (findTeam_posted hh) (by rw [hcore]) c.team)

/-- The team that posts keeps everything but its counters. -/
theorem posted_team {y k : Nat} {m : Team} (hy : c.team = some y) (hf : s.findTeam y = some (k, m)) :
    ∃ cs, (x.posted s c).findTeam y = some (k, { m with counters := cs }) := by
  obtain ⟨cs, hcs⟩ := findTeam_charge (s := s.numbered) hf x.g.core c.cc s.nextId c.len
  refine ⟨cs, (findTeam_posted hh y).trans ?_⟩
  rw [Iss.chargedEng, hy]
  exact hcs
end

/-! ### Posting a command on conditions of the operands -/

theorem uniform_differs {d : Nat} {ops : Iss → Nat → List Nat} {h : Iss → State → Option Nat → Nat → Act} {x : Iss} (s : State)
    (hd : x.differ (ops x) ≠ []) : uniform d ops h x s = .trap s [] trapProt d (x.differ (ops x)) := by
  obtain ⟨l, t, hl⟩ := List.exists_cons_of_ne_nil hd
  unfold uniform
  cases he : x.ex with
  | nil => exact absurd (by rw [Iss.differ, he]) hd
  | cons m r =>
    dsimp only
    rw [hl]

section
variable {i : Instr} {ops : Iss → Nat → List Nat} {pre : Iss → State → Prop} {cmd : Iss → State → EngCmd}

/-- An instruction whose body posts its command where its operands are alike and acceptable. -/
theorem engPosts_of {h : Iss → State → Option Nat → Nat → Act} (hx : ∀ s, exec i s = issue i (uniform 0x1D ops h) s)
    (hk : (i.fields.getD {}).keep = 0) (hteam : ∀ x s, (cmd x s).team = (s.weave x.g.core x.g.slot).team)
    (hb : ∀ x s, x.alike ops → pre x s → uniform 0x1D ops h x s = x.post s (cmd x s)) : EngPosts i ops pre cmd := by
  refine ⟨fun s x hr ha hp hplaced hroom => ?_, raises_of (pre := fun x _ => x.differ (ops x) ≠ []) hx (fun _ s hd => uniform_differs s hd),
    waits_of hx (fun x s ⟨ha, hp, hroom⟩ => (hb x s ha hp).trans (post_waits hroom _))⟩
  refine ⟨_, exec_done hx hr ((hb _ _ ha hp).trans (post_room hroom _)),
    stands_unit (ready_nodup hr) (ready_ex_nodup hr) (ready_sub hr) (sameWeaves_posted _ _ _), ?_⟩
  rw [settled_unkept hr hk]
  exact posted_engPosted (homed_moved x s) (fun y hy => hplaced y ((hteam x _).symm.trans hy))

theorem EngPosts.completes (h : EngPosts i ops pre cmd) : Completes i (fun x s => x.alike ops ∧ pre x s ∧ x.placed s ∧ x.engRoom s) := by
  intro s x hr ⟨ha, hp, hplaced, hroom⟩
  obtain ⟨t, he, hst, -⟩ := h.1 s x hr ha hp hplaced hroom
  exact ⟨t, he, fun l hl => ⟨(hst.lanes l hl).ctl, (hst.lanes l hl).mode⟩⟩

/-- An instruction whose body does nothing where `pre` holds: a length of 0 posts nothing. -/
theorem acts_idle {body : Iss → State → Act} (hx : ∀ s, exec i s = issue i body s) (hb : ∀ x s, pre x s → body x s = .done s x.ex) :
    Acts i pre still (fun _ s => s) := acts_still hx hb (fun _ s _ => .rfl' s)
end

/-! ### The address rule (01 R25) -/

theorem rangeOk_iff (va n : Nat) : rangeOk va n = true ↔ canonical va = true ∧ va + n - 1 < 2 ^ 64 ∧ canonical (va + n - 1) = true := by
  simp [rangeOk, and_assoc]

theorem canonical_iff (va : Nat) : canonical va = true ↔ va < 2 ^ 56 ∨ 2 ^ 64 - 2 ^ 56 ≤ va ∧ va < 2 ^ 64 := by
  simp only [canonical, Bool.and_eq_true, Bool.or_eq_true, decide_eq_true_eq, beq_iff_eq]
  omega

/-! ### The bodies on alike operands (10 R336, R338, R341) -/

section
variable {x : Iss} {s : State} {kind : EngKind}

theorem cpy_alike (ha : x.alike (fun x l => [x.d l, x.a l, x.b l])) : cpyBody x s =
    if x.d x.low = 0 then .done s x.ex
    else if (!rangeOk (x.a x.low) (x.d x.low) || !rangeOk (x.b x.low) (x.d x.low)) = true then prot x s 1
    else if (meet (x.a x.low) (x.d x.low) (x.b x.low) (x.d x.low) || decide (2 ^ 48 < x.d x.low)) = true then prot x s 0x1C
    else x.post s { x.engCmd (s.weave x.g.core x.g.slot).team .cpy with len := x.d x.low, src := x.a x.low, dst := x.b x.low } :=
  uniform_alike s ha

theorem fill_alike (ha : x.alike (fun x l => [x.d l, x.a l, x.b l])) : fillBody x s =
    if x.d x.low = 0 then .done s x.ex
    else if (!rangeOk (x.a x.low) (x.d x.low)) = true then prot x s 1
    else if 2 ^ 48 < x.d x.low then prot x s 0x1C
    else x.post s { x.engCmd (s.weave x.g.core x.g.slot).team .fill with
      len := x.d x.low, dst := x.a x.low, pat := BitVec.ofNat 32 (x.b x.low) } := uniform_alike s ha

theorem cacheCopy_alike (ha : x.alike (fun x l => [x.d l, x.a l])) : cacheCopy kind x s =
    if x.d x.low = 0 then .done s x.ex
    else if (!rangeOk (x.a x.low) (x.d x.low)) = true then prot x s 1
    else if 2 ^ 48 < x.d x.low then prot x s 0x1C
    else x.post s { x.engCmd (s.weave x.g.core x.g.slot).team kind with len := x.d x.low, src := x.a x.low } := uniform_alike s ha

theorem accCopy_alike (ha : x.alike (fun x l => [x.d l, x.a l, x.b l])) : accCopy kind x s =
    if 4 * x.d x.low = 0 then .done s x.ex
    else if (!rangeOk (x.a x.low) (4 * x.d x.low)) = true then prot x s 1
    else if 524288 < x.b x.low + x.d x.low then prot x s 0x1C
    else if x.a x.low % 4 ≠ 0 then .trap s [] trapAlign 0 x.ex
    else if ((s.weave x.g.core x.g.slot).team.map (fun t => (s.team t).kd.cv)).getD 0 = 0 then .trap s [] trapIllegal 0x0B x.g.lanes
    else x.post s { x.engCmd (s.weave x.g.core x.g.slot).team kind with
      len := 4 * x.d x.low, src := x.a x.low, dst := x.a x.low, acc := x.b x.low } := uniform_alike s ha

/-- The team of a group, asked whether it owns the arrays. -/
theorem owner_cv (ht : (s.weave x.g.core x.g.slot).team.isSome = true) :
    ((s.weave x.g.core x.g.slot).team.map (fun t => (s.team t).kd.cv)).getD 0 = (s.team (x.mine s)).kd.cv := by
  rw [team_some ht]
  rfl
end

end Sys2Proof.Machine
end

section
/-! SUPPORT. The copy instructions: what they post, where they trap (10 R336, R338, R341). -/

namespace Sys2Proof.Machine

/-! ### cpy and fill (10 R336) -/

/-- Operands of cpy. -/
abbrev Iss.cpyOk (x : Iss) : Prop := 0 < x.d x.low ∧ x.d x.low ≤ 2 ^ 48 ∧ rangeOk (x.a x.low) (x.d x.low) = true ∧
  rangeOk (x.b x.low) (x.d x.low) = true ∧ meet (x.a x.low) (x.d x.low) (x.b x.low) (x.d x.low) = false
/-- A range from a with the length d. -/
abbrev Iss.rangeOkA (x : Iss) : Prop := 0 < x.d x.low ∧ x.d x.low ≤ 2 ^ 48 ∧ rangeOk (x.a x.low) (x.d x.low) = true
/-- Words of an accumulator copy. -/
abbrev Iss.accOk (x : Iss) (s : State) : Prop := 0 < x.d x.low ∧ rangeOk (x.a x.low) (4 * x.d x.low) = true ∧
  x.b x.low + x.d x.low ≤ 524288 ∧ x.a x.low % 4 = 0 ∧ (s.weave x.g.core x.g.slot).team.isSome = true ∧ (s.team (x.mine s)).kd.cv ≠ 0

theorem cpy_posts (o : XForm) : EngPosts (.cpy o) (fun x l => [x.d l, x.a l, x.b l]) (fun x _ => x.cpyOk)
    (fun x s => { x.engCmd (s.weave x.g.core x.g.slot).team .cpy with len := x.d x.low, src := x.a x.low, dst := x.b x.low }) :=
  engPosts_of (execCpy.eq_def o) rfl (fun _ _ => rfl) (fun x s ha ⟨hpos, hmax, hsrc, hdst, hmeet⟩ => by
    refine (cpy_alike ha).trans ?_
    rw [if_neg hpos.ne', hsrc, hdst, hmeet, if_neg (by decide), if_neg (by simpa using hmax)])

theorem fill_posts (o : XForm) : EngPosts (.fill o) (fun x l => [x.d l, x.a l, x.b l]) (fun x _ => x.rangeOkA)
    (fun x s => { x.engCmd (s.weave x.g.core x.g.slot).team .fill with
      len := x.d x.low, dst := x.a x.low, pat := BitVec.ofNat 32 (x.b x.low) }) :=
  engPosts_of (execFill.eq_def o) rfl (fun _ _ => rfl) (fun x s ha ⟨hpos, hmax, hsrc⟩ => by
    refine (fill_alike ha).trans ?_
    rw [if_neg hpos.ne', hsrc, if_neg (by decide), if_neg (not_lt.2 hmax)])

section
variable {i : Instr} {kind : EngKind}

theorem cacheCopy_posts (hx : ∀ s, exec i s = issue i (cacheCopy kind) s) (hk : (i.fields.getD {}).keep = 0) :
    EngPosts i (fun x l => [x.d l, x.a l]) (fun x _ => x.rangeOkA)
      (fun x s => { x.engCmd (s.weave x.g.core x.g.slot).team kind with len := x.d x.low, src := x.a x.low }) :=
  engPosts_of hx hk (fun _ _ => rfl) (fun x s ha ⟨hpos, hmax, hsrc⟩ => by
    refine (cacheCopy_alike ha).trans ?_
    rw [if_neg hpos.ne', hsrc, if_neg (by decide), if_neg (not_lt.2 hmax)])

theorem accCopy_posts (hx : ∀ s, exec i s = issue i (accCopy kind) s) (hk : (i.fields.getD {}).keep = 0) :
    EngPosts i (fun x l => [x.d l, x.a l, x.b l]) Iss.accOk (fun x s => { x.engCmd (s.weave x.g.core x.g.slot).team kind with
      len := 4 * x.d x.low, src := x.a x.low, dst := x.a x.low, acc := x.b x.low }) :=
  engPosts_of hx hk (fun _ _ => rfl) (fun x s ha ⟨hpos, hrange, hwords, halign, hteam, hcv⟩ => by
    refine (accCopy_alike ha).trans ?_
    rw [if_neg (by omega), hrange, if_neg (by decide), if_neg (not_lt.2 hwords), if_neg (not_not.2 halign), owner_cv hteam, if_neg hcv])

/-! ### Lengths of 0 -/

theorem cacheCopy_idle (hx : ∀ s, exec i s = issue i (cacheCopy kind) s) :
    Acts i (fun x _ => x.alike (fun x l => [x.d l, x.a l]) ∧ x.d x.low = 0) still (fun _ s => s) :=
  acts_idle hx (fun _ _ ⟨ha, h0⟩ => (cacheCopy_alike ha).trans (if_pos h0))

theorem accCopy_idle (hx : ∀ s, exec i s = issue i (accCopy kind) s) :
    Acts i (fun x _ => x.alike (fun x l => [x.d l, x.a l, x.b l]) ∧ x.d x.low = 0) still (fun _ s => s) :=
  acts_idle hx (fun _ _ ⟨ha, h0⟩ => (accCopy_alike ha).trans (if_pos (by rw [h0])))

/-! ### Ranges that are refused -/

theorem cacheCopy_range (hx : ∀ s, exec i s = issue i (cacheCopy kind) s) : Raises i (fun x _ => x.alike (fun x l => [x.d l, x.a l]) ∧
    0 < x.d x.low ∧ rangeOk (x.a x.low) (x.d x.low) = false) 8 1 (fun x => x.ex) :=
  raises_of hx (fun _ _ ⟨ha, hpos, hr⟩ => by
    refine (cacheCopy_alike ha).trans ?_
    rw [if_neg hpos.ne', hr, if_pos Bool.not_false]
    rfl)

theorem cacheCopy_long (hx : ∀ s, exec i s = issue i (cacheCopy kind) s) : Raises i (fun x _ => x.alike (fun x l => [x.d l, x.a l]) ∧
    2 ^ 48 < x.d x.low ∧ rangeOk (x.a x.low) (x.d x.low) = true) 8 0x1C (fun x => x.ex) :=
  raises_of hx (fun _ _ ⟨ha, hlong, hr⟩ => by
    refine (cacheCopy_alike ha).trans ?_
    rw [if_neg (by omega), hr, if_neg (by decide), if_pos hlong]
    rfl)

section
variable (hx : ∀ s, exec i s = issue i (accCopy kind) s)
include hx

theorem accCopy_range : Raises i (fun x _ => x.alike (fun x l => [x.d l, x.a l, x.b l]) ∧ 0 < x.d x.low ∧
    rangeOk (x.a x.low) (4 * x.d x.low) = false) 8 1 (fun x => x.ex) :=
  raises_of hx (fun _ _ ⟨ha, hpos, hr⟩ => by
    refine (accCopy_alike ha).trans ?_
    rw [if_neg (by omega), hr, if_pos Bool.not_false]
    rfl)

theorem accCopy_beyond : Raises i (fun x _ => x.alike (fun x l => [x.d l, x.a l, x.b l]) ∧ 0 < x.d x.low ∧
    rangeOk (x.a x.low) (4 * x.d x.low) = true ∧ 524288 < x.b x.low + x.d x.low) 8 0x1C (fun x => x.ex) :=
  raises_of hx (fun _ _ ⟨ha, hpos, hr, hb⟩ => by
    refine (accCopy_alike ha).trans ?_
    rw [if_neg (by omega), hr, if_neg (by decide), if_pos hb]
    rfl)

theorem accCopy_misaligned : Raises i (fun x _ => x.alike (fun x l => [x.d l, x.a l, x.b l]) ∧ 0 < x.d x.low ∧
    rangeOk (x.a x.low) (4 * x.d x.low) = true ∧ x.b x.low + x.d x.low ≤ 524288 ∧ x.a x.low % 4 ≠ 0) 6 0 (fun x => x.ex) :=
  raises_of hx (fun _ _ ⟨ha, hpos, hr, hb, hal⟩ => by
    refine (accCopy_alike ha).trans ?_
    rw [if_neg (by omega), hr, if_neg (by decide), if_neg (not_lt.2 hb), if_pos hal]
    rfl)

/-- 10 R335, 09 R301: a team that does not own the arrays. -/
theorem accCopy_unowned : Raises i (fun x s => x.alike (fun x l => [x.d l, x.a l, x.b l]) ∧ 0 < x.d x.low ∧
    rangeOk (x.a x.low) (4 * x.d x.low) = true ∧ x.b x.low + x.d x.low ≤ 524288 ∧ x.a x.low % 4 = 0 ∧
    (s.weave x.g.core x.g.slot).team.isSome = true ∧ (s.team (x.mine s)).kd.cv = 0) 1 0x0B (fun x => x.g.lanes) :=
  raises_of hx (fun _ _ ⟨ha, hpos, hr, hb, hal, ht, hcv⟩ => by
    refine (accCopy_alike ha).trans ?_
    rw [if_neg (by omega), hr, if_neg (by decide), if_neg (not_lt.2 hb), if_neg (not_not.2 hal), owner_cv ht, if_pos hcv]
    rfl)
end
end

theorem cpy_idle (o : XForm) : Acts (.cpy o) (fun x _ => x.alike (fun x l => [x.d l, x.a l, x.b l]) ∧ x.d x.low = 0) still (fun _ s => s) :=
  acts_idle (execCpy.eq_def o) (fun _ _ ⟨ha, h0⟩ => (cpy_alike ha).trans (if_pos h0))

theorem fill_idle (o : XForm) : Acts (.fill o) (fun x _ => x.alike (fun x l => [x.d l, x.a l, x.b l]) ∧ x.d x.low = 0) still (fun _ s => s) :=
  acts_idle (execFill.eq_def o) (fun _ _ ⟨ha, h0⟩ => (fill_alike ha).trans (if_pos h0))

theorem fill_range (o : XForm) : Raises (.fill o) (fun x _ => x.alike (fun x l => [x.d l, x.a l, x.b l]) ∧ 0 < x.d x.low ∧
    rangeOk (x.a x.low) (x.d x.low) = false) 8 1 (fun x => x.ex) :=
  raises_of (execFill.eq_def o) (fun _ _ ⟨ha, hpos, hr⟩ => by
    refine (fill_alike ha).trans ?_
    rw [if_neg hpos.ne', hr, if_pos Bool.not_false]
    rfl)

theorem fill_long (o : XForm) : Raises (.fill o) (fun x _ => x.alike (fun x l => [x.d l, x.a l, x.b l]) ∧ 2 ^ 48 < x.d x.low ∧
    rangeOk (x.a x.low) (x.d x.low) = true) 8 0x1C (fun x => x.ex) :=
  raises_of (execFill.eq_def o) (fun _ _ ⟨ha, hlong, hr⟩ => by
    refine (fill_alike ha).trans ?_
    rw [if_neg (by omega), hr, if_neg (by decide), if_pos hlong]
    rfl)

theorem cpy_range (o : XForm) : Raises (.cpy o) (fun x _ => x.alike (fun x l => [x.d l, x.a l, x.b l]) ∧ 0 < x.d x.low ∧
    (rangeOk (x.a x.low) (x.d x.low) = false ∨ rangeOk (x.b x.low) (x.d x.low) = false)) 8 1 (fun x => x.ex) :=
  raises_of (execCpy.eq_def o) (fun _ _ ⟨ha, hpos, hr⟩ => by
    refine (cpy_alike ha).trans ?_
    rw [if_neg hpos.ne', if_pos (by rcases hr with hr | hr <;> simp [hr])]
    rfl)

theorem cpy_overlaps (o : XForm) : Raises (.cpy o) (fun x _ => x.alike (fun x l => [x.d l, x.a l, x.b l]) ∧ 0 < x.d x.low ∧
    rangeOk (x.a x.low) (x.d x.low) = true ∧ rangeOk (x.b x.low) (x.d x.low) = true ∧
    (meet (x.a x.low) (x.d x.low) (x.b x.low) (x.d x.low) = true ∨ 2 ^ 48 < x.d x.low)) 8 0x1C (fun x => x.ex) :=
  raises_of (execCpy.eq_def o) (fun _ _ ⟨ha, hpos, hsrc, hdst, h⟩ => by
    refine (cpy_alike ha).trans ?_
    rw [if_neg hpos.ne', hsrc, hdst, if_neg (by decide), if_pos (by simpa using h)]
    rfl)

end Sys2Proof.Machine
end

section
/-! SUPPORT. Copies between memory and tile slots (10 R337). -/

namespace Sys2Proof.Machine

/-- A change of a slot leaves where the team's command stands and what it has charged. -/
theorem EngPosted.modSlot {u t : State} {x : Iss} {c : EngCmd} {y : Nat} (h : EngPosted u x c t) (hy : c.team = some y)
    (hf : (t.findTeam y).isSome = true) (k : Nat) (g : TileSlot → TileSlot) : EngPosted u x c (t.modSlot y k g) := by
  refine ⟨(cmds_modTeam t y _ _).trans h.cmds, h.counter.of_same (fun n => ?_)⟩
  rw [hy, State.counter, State.counter]
  exact congrArg (fun m : Team => tabGet {} n m.counters) (team_modTeam hf _)

theorem tslot_modSlot {s : State} {y : Nat} (h : (s.findTeam y).isSome = true) (k : Nat) (g : TileSlot → TileSlot) :
    ((s.modSlot y k g).team y).tslot k = g ((s.team y).tslot k) := by
  rw [State.modSlot, team_modTeam h]
  exact (tabGet_set ..).trans (if_pos rfl)

/-- What posting leaves of the team that posts. -/
theorem posted_stands {x : Iss} {s : State} {y : Nat} {c : EngCmd} (hh : s.homed x.g.core) (hy : c.team = some y)
    (hf : (s.findTeam y).isSome = true) : EngPosted s x c (x.posted s c) ∧ ((x.posted s c).findTeam y).isSome = true ∧
      ∀ k, ((x.posted s c).team y).tslot k = (s.team y).tslot k := by
  obtain ⟨⟨k, m⟩, hm⟩ := Option.isSome_iff_exists.1 hf
  obtain ⟨cs, hcs⟩ := posted_team hh hy hm
  refine ⟨posted_engPosted hh (fun z hz => ?_), by rw [hcs]; rfl, fun k => ?_⟩
  · cases hy.symm.trans hz
    exact hf
  · rw [team_of_find hcs, team_of_find hm]
    rfl

/-- The state once a command has been posted that fills the slot of the word from `off` on. -/
def Iss.filled (x : Iss) (s : State) (y off : Nat) (c : EngCmd) : State :=
  (x.posted s c).modSlot y x.f.ts.toNat (fun q => { q with st := .filling, base := some off, len := up256 c.len })

section
variable {x : Iss} {s : State} {y off : Nat} {c : EngCmd}

theorem postFill_beyond (h : off % 256 ≠ 0 ∨ (s.team y).bufBytes < off + c.len) : x.postFill s y off c = prot x s 0x1C := if_pos h

theorem postFill_room (hoff : off % 256 = 0) (hlen : off + c.len ≤ (s.team y).bufBytes)
    (hm : ((s.team y).tslot x.f.ts.toNat).moving = false) (hroom : x.engRoom s) : x.postFill s y off c =
      .done (x.filled s y off { c with slot := some x.f.ts.toNat, sbase := off, slen := up256 c.len }) x.ex := by
  unfold Iss.postFill
  dsimp only
  rw [if_neg (by omega), hm, if_neg Bool.false_ne_true, post_room hroom]
  rfl

theorem sameWeaves_filled : SameWeaves s (x.filled s y off c) := (sameWeaves_posted x s c).trans (sameWeaves_modSlot _ _ _ _)

/-- 10 R337: what posting leaves of the slot. -/
theorem filled_effect (hh : s.homed x.g.core) (hy : c.team = some y) (hf : (s.findTeam y).isSome = true) :
    EngPosted s x c (x.filled s y off c) ∧ ((x.filled s y off c).team y).tslot x.f.ts.toNat =
      { (s.team y).tslot x.f.ts.toNat with st := .filling, base := some off, len := up256 c.len } := by
  obtain ⟨hposted, hpf, hslot⟩ := posted_stands hh hy hf
  refine ⟨hposted.modSlot hy hpf _ _, ?_⟩
  rw [Iss.filled, tslot_modSlot hpf, hslot]
end

section
variable {x : Iss} {s : State} {n : Nat} {tile : Option TileDesc}

/-- The command of cpts. -/
def Iss.cptsCmd (x : Iss) (y n : Nat) (tile : Option TileDesc) : EngCmd :=
  { x.engCmd (some y) .cpts with len := n, src := x.a x.low, tile := tile }
/-- The command of cpfs on a slot that reads `q`. -/
def Iss.cpfsCmd (x : Iss) (y n : Nat) (tile : Option TileDesc) (q : TileSlot) : EngCmd :=
  { x.engCmd (some y) .cpfs with len := n, dst := x.a x.low, tile := tile, slot := some x.f.ts.toNat, sbase := q.base.getD 0,
                                 slen := q.len, rls := x.f.mod.getLsbD 0 }
/-- The state once a command has been posted that reads the slot of the word: .rls drains the slot. -/
def Iss.drains (x : Iss) (s : State) (y : Nat) (c : EngCmd) : State :=
  if x.f.mod.getLsbD 0 then (x.posted s c).modSlot y x.f.ts.toNat (fun q => { q with st := .draining }) else x.posted s c

/-- The tile or the memory side passes its check. -/
theorem side_passes {tile : Option TileDesc} {va n : Nat} (h : tile = none → rangeOk va n = true) :
    ¬ (tile.isNone && !rangeOk va n) = true := by
  cases tile with
  | none => rw [h rfl]; decide
  | some _ => exact Bool.false_ne_true

theorem cpts_alike (ht : x.teamed s) (ha : x.alike (fun x l => [x.d l, x.a l, x.b l]))
    (hs : x.slotSide (s.team (x.mine s)) x.low = .ok (n, tile)) (hn : 0 < n) : cptsBody x s =
      if (tile.isNone && !rangeOk (x.a x.low) n) = true then prot x s 1
      else x.postFill s (x.mine s) (x.b x.low) (x.cptsCmd (x.mine s) n tile) := by
  refine (uniform_alike s ha).trans ?_
  rw [team_some ht.1]
  dsimp only
  rw [hs]
  exact if_neg hn.ne'


section
variable (ht : x.teamed s) (ha : x.alike (fun x l => [x.d l, x.a l])) (hs : x.slotSide (s.team (x.mine s)) x.low = .ok (n, tile))
  (hn : 0 < n) (hr : tile = none → rangeOk (x.a x.low) n = true) (hst : ((s.team (x.mine s)).tslot x.f.ts.toNat).st = .ready)
include ht ha hs hn hr hst

theorem cpfs_short (hlen : ((s.team (x.mine s)).tslot x.f.ts.toNat).len < n) : cpfsBody x s = prot x s 0x1C := by
  refine (uniform_alike s ha).trans ?_
  rw [team_some ht.1]
  dsimp only
  rw [hs]
  dsimp only
  rw [if_neg hn.ne', if_neg (side_passes hr), hst]
  exact if_pos hlen

theorem cpfs_room (hlen : n ≤ ((s.team (x.mine s)).tslot x.f.ts.toNat).len) (hroom : x.engRoom s) : cpfsBody x s =
    .done (x.drains s (x.mine s) (x.cpfsCmd (x.mine s) n tile ((s.team (x.mine s)).tslot x.f.ts.toNat))) x.ex := by
  refine (uniform_alike s ha).trans ?_
  rw [team_some ht.1]
  dsimp only
  rw [hs]
  dsimp only
  rw [if_neg hn.ne', if_neg (side_passes hr), hst, if_neg (by decide), if_neg (not_lt.2 hlen), post_room hroom]
  rfl
end
end

theorem sameWeaves_drains (x : Iss) (s : State) (y : Nat) (c : EngCmd) : SameWeaves s (x.drains s y c) := by
  unfold Iss.drains
  split
  · exact (sameWeaves_posted x s c).trans (sameWeaves_modSlot _ _ _ _)
  · exact sameWeaves_posted x s c

/-- 10 R337: what posting leaves of the slot that is read. -/
theorem drains_effect {x : Iss} {s : State} {y : Nat} {c : EngCmd} (hh : s.homed x.g.core) (hy : c.team = some y)
    (hf : (s.findTeam y).isSome = true) : EngPosted s x c (x.drains s y c) ∧ ((x.drains s y c).team y).tslot x.f.ts.toNat =
      if x.f.mod.getLsbD 0 then { (s.team y).tslot x.f.ts.toNat with st := .draining } else (s.team y).tslot x.f.ts.toNat := by
  obtain ⟨hposted, hpf, hslot⟩ := posted_stands hh hy hf
  unfold Iss.drains
  split
  · refine ⟨hposted.modSlot hy hpf _ _, ?_⟩
    rw [tslot_modSlot hpf, hslot]
  · exact ⟨hposted, hslot _⟩

theorem cpts_range (o : XForm) : Raises (.cpts o) (fun x s => x.teamed s ∧ x.alike (fun x l => [x.d l, x.a l, x.b l]) ∧
    ∃ n, x.slotSide (s.team (x.mine s)) x.low = .ok (n, none) ∧ 0 < n ∧ rangeOk (x.a x.low) n = false) 8 1 (fun x => x.ex) :=
  raises_of (execCpts.eq_def o) (fun _ _ ⟨ht, ha, _, hs, hn, hr⟩ => (cpts_alike ht ha hs hn).trans (if_pos (by rw [hr]; rfl)))

theorem cpts_side (o : XForm) (d : Nat) : Raises (.cpts o) (fun x s => x.teamed s ∧ x.alike (fun x l => [x.d l, x.a l, x.b l]) ∧
    x.slotSide (s.team (x.mine s)) x.low = .error d) 8 d (fun x => x.ex) :=
  raises_of (execCpts.eq_def o) (fun x s ⟨ht, ha, hs⟩ => by
    refine (uniform_alike s ha).trans ?_
    rw [team_some ht.1]
    dsimp only
    rw [hs]
    rfl)

theorem cpts_beyond (o : XForm) : Raises (.cpts o) (fun x s => x.teamed s ∧ x.alike (fun x l => [x.d l, x.a l, x.b l]) ∧
    ∃ n tile, x.slotSide (s.team (x.mine s)) x.low = .ok (n, tile) ∧ 0 < n ∧ (tile = none → rangeOk (x.a x.low) n = true) ∧
      (x.b x.low % 256 ≠ 0 ∨ (s.team (x.mine s)).bufBytes < x.b x.low + n)) 8 0x1C (fun x => x.ex) :=
  raises_of (execCpts.eq_def o) (fun _ _ ⟨ht, ha, _, _, hs, hn, hr, hb⟩ =>
    (cpts_alike ht ha hs hn).trans ((if_neg (side_passes hr)).trans (postFill_beyond hb)))

theorem cpfs_side (o : XForm) (d : Nat) : Raises (.cpfs o) (fun x s => x.teamed s ∧ x.alike (fun x l => [x.d l, x.a l]) ∧
    x.slotSide (s.team (x.mine s)) x.low = .error d) 8 d (fun x => x.ex) :=
  raises_of (execCpfs.eq_def o) (fun x s ⟨ht, ha, hs⟩ => by
    refine (uniform_alike s ha).trans ?_
    rw [team_some ht.1]
    dsimp only
    rw [hs]
    rfl)

theorem cpfs_range (o : XForm) : Raises (.cpfs o) (fun x s => x.teamed s ∧ x.alike (fun x l => [x.d l, x.a l]) ∧
    ∃ n, x.slotSide (s.team (x.mine s)) x.low = .ok (n, none) ∧ 0 < n ∧ rangeOk (x.a x.low) n = false) 8 1 (fun x => x.ex) :=
  raises_of (execCpfs.eq_def o) (fun x s ⟨ht, ha, n, hs, hn, hr⟩ => by
    refine (uniform_alike s ha).trans ?_
    rw [team_some ht.1]
    dsimp only
    rw [hs]
    dsimp only
    rw [if_neg hn.ne', hr]
    rfl)

theorem cpfs_beyond (o : XForm) : Raises (.cpfs o) (fun x s => x.teamed s ∧ x.alike (fun x l => [x.d l, x.a l]) ∧
    ∃ n tile, x.slotSide (s.team (x.mine s)) x.low = .ok (n, tile) ∧ 0 < n ∧ (tile = none → rangeOk (x.a x.low) n = true) ∧
      ((s.team (x.mine s)).tslot x.f.ts.toNat).st = .ready ∧ ((s.team (x.mine s)).tslot x.f.ts.toNat).len < n) 8 0x1C (fun x => x.ex) :=
  raises_of (execCpfs.eq_def o) (fun _ _ ⟨ht, ha, _, _, hs, hn, hr, hst, hlen⟩ =>
    cpfs_short ht ha hs hn hr hst hlen)

theorem cpts_posts (o : XForm) (s : State) (x : Iss) (n : Nat) (tile : Option TileDesc) (hr : Ready (.cpts o) s x)
    (ht : x.teamed (x.moved s)) (hp : x.placed (x.moved s)) (ha : x.alike (fun x l => [x.d l, x.a l, x.b l]))
    (hs : x.slotSide ((x.moved s).team (x.mine (x.moved s))) x.low = .ok (n, tile)) (hn : 0 < n)
    (hrange : tile = none → rangeOk (x.a x.low) n = true) (hoff : x.b x.low % 256 = 0)
    (hlen : x.b x.low + n ≤ ((x.moved s).team (x.mine (x.moved s))).bufBytes)
    (hm : (((x.moved s).team (x.mine (x.moved s))).tslot x.f.ts.toNat).moving = false) (hroom : x.engRoom (x.moved s)) :
    ∃ t, exec (.cpts o) s = .next t ∧ Stands s x (fun _ => {}) t ∧
      EngPosted (x.moved s) x { x.engCmd (some (x.mine (x.moved s))) .cpts with len := n, src := x.a x.low, tile := tile, slot := some x.f.ts.toNat, sbase := x.b x.low, slen := up256 n } t ∧
      (t.team (x.mine (x.moved s))).tslot x.f.ts.toNat = { ((x.moved s).team (x.mine (x.moved s))).tslot x.f.ts.toNat with st := .filling, base := some (x.b x.low), len := up256 n } := by
  have hb := (cpts_alike ht ha hs hn).trans ((if_neg (side_passes hrange)).trans (postFill_room hoff hlen hm hroom))
  refine ⟨_, exec_done (execCpts.eq_def o) hr hb,
    stands_unit (ready_nodup hr) (ready_ex_nodup hr) (ready_sub hr) sameWeaves_filled, ?_⟩
  rw [settled_unkept hr rfl]
  exact filled_effect (homed_moved x s) rfl (hp _ (team_some ht.1))

theorem cpfs_posts (o : XForm) (s : State) (x : Iss) (n : Nat) (tile : Option TileDesc) (q : TileSlot) (hr : Ready (.cpfs o) s x)
    (ht : x.teamed (x.moved s)) (hp : x.placed (x.moved s)) (ha : x.alike (fun x l => [x.d l, x.a l]))
    (hs : x.slotSide ((x.moved s).team (x.mine (x.moved s))) x.low = .ok (n, tile)) (hn : 0 < n)
    (hrange : tile = none → rangeOk (x.a x.low) n = true) (hq : ((x.moved s).team (x.mine (x.moved s))).tslot x.f.ts.toNat = q)
    (hst : q.st = .ready) (hlen : n ≤ q.len) (hroom : x.engRoom (x.moved s)) :
    ∃ t, exec (.cpfs o) s = .next t ∧ Stands s x (fun _ => {}) t ∧
      EngPosted (x.moved s) x { x.engCmd (some (x.mine (x.moved s))) .cpfs with len := n, dst := x.a x.low, tile := tile, slot := some x.f.ts.toNat, sbase := q.base.getD 0, slen := q.len, rls := x.f.mod.getLsbD 0 } t ∧
      (t.team (x.mine (x.moved s))).tslot x.f.ts.toNat = if x.f.mod.getLsbD 0 then { q with st := .draining } else q := by
  subst hq
  refine ⟨_, exec_done (execCpfs.eq_def o) hr (cpfs_room ht ha hs hn hrange hst hlen hroom),
    stands_unit (ready_nodup hr) (ready_ex_nodup hr) (ready_sub hr) (sameWeaves_drains _ _ _ _), ?_⟩
  rw [settled_unkept hr rfl]
  exact drains_effect (homed_moved x s) rfl (hp _ (team_some ht.1))

end Sys2Proof.Machine
end

section
/-! SUPPORT. Gathers (10 R339, R340): a descriptor that its checks reach is read, and the command posted or refused. -/

namespace Sys2Proof.Machine

/-! ### The descriptor -/

/-- The state in which the descriptor is read, its place found by the check. -/
def Iss.gatherRead (x : Iss) (u : State) (loc : Loc) (leaf : Nat) : State :=
  u.prepLoad x.g.core x.g.slot { l := x.low, ea := x.a x.low, loc := loc, leaf := leaf } 32 true
/-- The words of the descriptor. -/
def Iss.gatherWords (x : Iss) (v : State) (loc : Loc) : List Nat :=
  (List.range 4).map (fun i => v.seen x.g.core x.g.slot x.low (loc.add (8 * i)) 8)

/-- The check reaches the descriptor of the word, which is not poisoned and reads `r`. -/
structure Iss.reaches (x : Iss) (s u : State) (loc : Loc) (leaf : Nat) (r : Option Gather) : Prop where
  alone : s.atomPending x.g.core x.g.slot x.ex = false
  found : x.checkOnce s { rd := true, align := 32, size := 32 } (x.a x.low) = (u, .ok loc leaf)
  clean : (x.gatherRead u loc leaf).anyPoison (loc.span 32) = false
  words : gatherOf (x.gatherWords (x.gatherRead u loc leaf) loc) = r

section
variable {x : Iss} {s u : State} {loc : Loc} {leaf : Nat} {g : Gather} {h : Iss → State → Nat → Gather → Act}

theorem withGather_malformed (hg : x.reaches s u loc leaf none) :
    withGather h x s x.low = prot x (x.gatherRead u loc leaf) 0x1E := by
  obtain ⟨halone, hfound, hclean, hwords⟩ := hg
  unfold Iss.gatherRead at hclean hwords ⊢
  unfold Iss.gatherWords at hwords
  unfold withGather
  rw [halone, if_neg Bool.false_ne_true, hfound]
  dsimp only
  rw [hclean, if_neg Bool.false_ne_true, hwords]

theorem withGather_reads (hg : x.reaches s u loc leaf (some g)) : withGather h x s x.low =
    if rangeOk g.idxa (g.count * g.isize) = true then h x (x.gatherRead u loc leaf) x.low g else prot x (x.gatherRead u loc leaf) 1 := by
  obtain ⟨halone, hfound, hclean, hwords⟩ := hg
  unfold Iss.gatherRead at hclean hwords ⊢
  unfold Iss.gatherWords at hwords
  unfold withGather
  rw [halone, if_neg Bool.false_ne_true, hfound]
  dsimp only
  rw [hclean, if_neg Bool.false_ne_true, hwords]
end

section
variable {x : Iss} {s u : State} {loc : Loc} {leaf : Nat} {r : Option Gather}

/-- Reading the descriptor changes no weave but by a mark, and leaves every core in its place. -/
theorem Iss.reaches.keeps (h : x.reaches s u loc leaf r) : Alike s (x.gatherRead u loc leaf) ∧ Homes s (x.gatherRead u loc leaf) := by
  have ha := alike_checkOnce x s { rd := true, align := 32, size := 32 } (x.a x.low)
  have hh := homes_checkOnce x s { rd := true, align := 32, size := 32 } (x.a x.low)
  rw [h.found] at ha hh
  exact ⟨ha.trans (alike_prepLoad _ _ _ _ _ _), hh.trans (homes_prepLoad _ _ _ _ _ _)⟩

theorem Iss.reaches.team (h : x.reaches s u loc leaf r) :
    ((x.gatherRead u loc leaf).weave x.g.core x.g.slot).team = (s.weave x.g.core x.g.slot).team :=
  (congrArg Weave.team (h.keeps.1.tables x.g.core x.g.slot) :)
end

/-! ### Completion and traps -/

section
variable {i : Instr} {body : Iss → State → Act} {s v : State} {x : Iss} (hx : ∀ s, exec i s = issue i body s) (hr : Ready i s x)
include hx hr

/-- A body that traps in a state of its own. -/
theorem exec_traps {c d : Nat} {ls : List Nat} (hc : x.canTrap v) (hb : body x (x.moved s) = .trap v [] c d ls) :
    exec i s = .next ((x.unrun v x.g.lanes).trapEntry x.g.core x.g.slot x.g.lanes ls c d x.g.pc) := by
  rw [hx s, issue_go _ hr, show s.advance x.g x.words = x.moved s from rfl, hb, done_back _ _ _ _ _ hc]

/-- A body that posts from a state `v` whose weaves are those of the moved state but for marks. -/
theorem exec_posts {t : State} {c : EngCmd} (hk : (i.fields.getD {}).keep = 0) (hv : Alike (x.moved s) v) (hw : SameWeaves v t)
    (hb : body x (x.moved s) = .done t x.ex) (hp : EngPosted v x c t) :
    ∃ t, exec i s = .next t ∧ SameTables s t ∧ Passed s v x Thread.plainly (fun _ t => t) t ∧ EngPosted v x c t := by
  have hal := hv.trans (Quiet.alike hw.weave)
  refine ⟨_, exec_done hx hr hb, sameTables_settled hr hal.tables,
    passed_settled hr (fun _ _ _ => keeps_plainly) hw.bytes (fun c w l => ?_), ?_⟩
  · rw [ite_self]
    exact hal.threads c w l
  · rwa [settled_unkept hr hk]
end

/-! ### gcp and gcpts -/

/-- The command of gcp. -/
def Iss.gcpCmd (x : Iss) (team : Option Nat) (g : Gather) : EngCmd :=
  { x.engCmd team .gcp with len := g.count * g.rowb, dst := x.b x.low, gather := some g }
/-- The command of gcpts, before its slot is named. -/
def Iss.gcptsCmd (x : Iss) (y : Nat) (g : Gather) : EngCmd := { x.engCmd (some y) .gcpts with len := g.count * g.rowb, gather := some g }

section
variable {x : Iss} {s u : State} {loc : Loc} {leaf : Nat} {g : Gather} (ha : x.alike (fun x l => [x.a l, x.b l]))
include ha

theorem gcp_malformed (h : x.reaches s u loc leaf none) : gcpBody x s = prot x (x.gatherRead u loc leaf) 0x1E :=
  (uniform_alike s ha).trans (withGather_malformed h)

theorem gcpts_malformed (h : x.reaches s u loc leaf none) : gcptsBody x s = prot x (x.gatherRead u loc leaf) 0x1E :=
  (uniform_alike s ha).trans (withGather_malformed h)

section
variable (h : x.reaches s u loc leaf (some g))
include h

theorem gcp_indexes (hi : rangeOk g.idxa (g.count * g.isize) = false) : gcpBody x s = prot x (x.gatherRead u loc leaf) 1 :=
  (uniform_alike s ha).trans ((withGather_reads h).trans (if_neg (Bool.eq_false_iff.1 hi)))

theorem gcpts_indexes (hi : rangeOk g.idxa (g.count * g.isize) = false) : gcptsBody x s = prot x (x.gatherRead u loc leaf) 1 :=
  (uniform_alike s ha).trans ((withGather_reads h).trans (if_neg (Bool.eq_false_iff.1 hi)))

theorem gcp_reads (hi : rangeOk g.idxa (g.count * g.isize) = true) : gcpBody x s =
    if (!rangeOk (x.b x.low) (g.count * g.rowb)) = true then prot x (x.gatherRead u loc leaf) 1
    else x.post (x.gatherRead u loc leaf) (x.gcpCmd ((x.gatherRead u loc leaf).weave x.g.core x.g.slot).team g) := by
  rw [h.team]
  exact (uniform_alike s ha).trans ((withGather_reads h).trans (if_pos hi))

theorem gcpts_reads (hi : rangeOk g.idxa (g.count * g.isize) = true)
    (ht : ((x.gatherRead u loc leaf).weave x.g.core x.g.slot).team.isSome = true) : gcptsBody x s =
      x.postFill (x.gatherRead u loc leaf) (x.mine (x.gatherRead u loc leaf)) (x.b x.low)
        (x.gcptsCmd (x.mine (x.gatherRead u loc leaf)) g) := by
  refine (uniform_alike s ha).trans ((withGather_reads h).trans ((if_pos hi).trans ?_))
  rw [← h.team, team_some ht]
  rfl
end
end

end Sys2Proof.Machine
end

section
/-! SUPPORT. The statement on posted engine commands. -/

namespace Sys2Proof.Machine

section
variable (o : XForm) (s : State) (x : Iss) (u : State) (loc : Loc) (leaf : Nat)

theorem gcp_posts (hr : Ready (.gcp o) s x) (ha : x.alike (fun x l => [x.a l, x.b l]))
    (halone : (x.moved s).atomPending x.g.core x.g.slot x.ex = false)
    (hfound : x.checkOnce (x.moved s) { rd := true, align := 32, size := 32 } (x.a x.low) = (u, .ok loc leaf)) :
    let v := x.gatherRead u loc leaf
    v.anyPoison (loc.span 32) = false → ∀ g, gatherOf (x.gatherWords v loc) = some g → rangeOk g.idxa (g.count * g.isize) = true →
      rangeOk (x.b x.low) (g.count * g.rowb) = true → x.placed v → x.engRoom v →
      ∃ t, exec (.gcp o) s = .next t ∧ SameTables s t ∧ Passed s v x Thread.plainly (fun _ t => t) t ∧
        EngPosted v x (x.gcpCmd (v.weave x.g.core x.g.slot).team g) t := by
  intro v hclean g hwords hi hdst hp hroom
  have h : x.reaches (x.moved s) u loc leaf (some g) := ⟨halone, hfound, hclean, hwords⟩
  exact exec_posts (i := .gcp o) (execGcp.eq_def o) hr rfl h.keeps.1 (sameWeaves_posted _ _ _)
    ((gcp_reads ha h hi).trans ((if_neg (by rw [hdst]; decide)).trans (post_room hroom _)))
    (posted_engPosted (h.keeps.2 _ (homed_moved x s)) hp)

theorem gcpts_posts (hr : Ready (.gcpts o) s x) (ha : x.alike (fun x l => [x.a l, x.b l]))
    (halone : (x.moved s).atomPending x.g.core x.g.slot x.ex = false)
    (hfound : x.checkOnce (x.moved s) { rd := true, align := 32, size := 32 } (x.a x.low) = (u, .ok loc leaf)) :
    let v := x.gatherRead u loc leaf
    v.anyPoison (loc.span 32) = false → ∀ g, gatherOf (x.gatherWords v loc) = some g → rangeOk g.idxa (g.count * g.isize) = true →
      x.teamed (x.moved s) → x.b x.low % 256 = 0 → x.b x.low + g.count * g.rowb ≤ (v.team (x.mine v)).bufBytes →
      ((v.team (x.mine v)).tslot x.f.ts.toNat).moving = false → x.placed v → x.engRoom v →
      ∃ t, exec (.gcpts o) s = .next t ∧ SameTables s t ∧ Passed s v x Thread.plainly (fun _ t => t) t ∧
        EngPosted v x { x.gcptsCmd (x.mine v) g with slot := some x.f.ts.toNat, sbase := x.b x.low, slen := up256 (g.count * g.rowb) } t := by
  intro v hclean g hwords hi ht hoff hlen hm hp hroom
  have h : x.reaches (x.moved s) u loc leaf (some g) := ⟨halone, hfound, hclean, hwords⟩
  have hv : (v.weave x.g.core x.g.slot).team.isSome = true := (congrArg Option.isSome h.team).trans ht.1
  exact exec_posts (i := .gcpts o) (execGcpts.eq_def o) hr rfl h.keeps.1 sameWeaves_filled
    ((gcpts_reads ha h hi hv).trans (postFill_room hoff hlen hm hroom))
    (filled_effect (h.keeps.2 _ (homed_moved x s)) rfl (hp _ (team_some hv))).1
end

/-- Settles O36, instruction by instruction. -/
theorem engineCommandsArePosted : Obligations.EngineCommandsArePosted := by
  have expf := fun o => cacheCopy_posts (i := .expf o) (execExpf.eq_def o) rfl
  have exwb := fun o => cacheCopy_posts (i := .exwb o) (execExwb.eq_def o) rfl
  have cpald := fun o => accCopy_posts (i := .cpald o) (execCpald.eq_def o) rfl
  have cpast := fun o => accCopy_posts (i := .cpast o) (execCpast.eq_def o) rfl
  refine ⟨fun o => (cpy_posts o).completes, cpy_posts, fun o => (fill_posts o).completes, fill_posts,
    fun o => (expf o).completes, expf, fun o => (exwb o).completes, exwb, fun o => (cpald o).completes, cpald,
    fun o => (cpast o).completes, cpast, cpy_idle, fill_idle,
    fun o => cacheCopy_idle (execExpf.eq_def o), fun o => cacheCopy_idle (execExwb.eq_def o),
    fun o => accCopy_idle (execCpald.eq_def o), fun o => accCopy_idle (execCpast.eq_def o), fill_range,
    fun o => cacheCopy_range (execExpf.eq_def o), fun o => cacheCopy_range (execExwb.eq_def o), fill_long,
    fun o => cacheCopy_long (execExpf.eq_def o), fun o => cacheCopy_long (execExwb.eq_def o), cpy_overlaps, cpy_range,
    fun o => accCopy_range (execCpald.eq_def o), fun o => accCopy_range (execCpast.eq_def o),
    fun o => accCopy_beyond (execCpald.eq_def o), fun o => accCopy_beyond (execCpast.eq_def o),
    fun o => accCopy_misaligned (execCpald.eq_def o), fun o => accCopy_misaligned (execCpast.eq_def o),
    cpts_range, cpfs_range, cpts_side, cpfs_side, cpts_beyond, cpfs_beyond,
    fun o => accCopy_unowned (execCpald.eq_def o), fun o => accCopy_unowned (execCpast.eq_def o), rangeOk_iff, canonical_iff,
    cpts_posts, cpfs_posts, gcp_posts, ?_, ?_, ?_, ?_, ?_, ?_, ?_⟩
  · intro o s x u loc leaf hr ha halone hfound v ws hclean g hwords hi ht
    have h : x.reaches (x.moved s) u loc leaf (some g) := ⟨halone, hfound, hclean, hwords⟩
    have hv : (v.weave x.g.core x.g.slot).team = some (x.mine v) := team_some ((congrArg Option.isSome h.team).trans ht.1)
    rw [hv]
    exact gcpts_posts o s x u loc leaf hr ha halone hfound hclean g hwords hi ht
  · exact fun o s x u loc leaf hr ha halone hfound hclean hc hwords =>
      exec_traps (i := .gcp o) (execGcp.eq_def o) hr hc (gcp_malformed ha ⟨halone, hfound, hclean, hwords⟩)
  · exact fun o s x u loc leaf hr ha halone hfound hclean hc hwords =>
      exec_traps (i := .gcpts o) (execGcpts.eq_def o) hr hc (gcpts_malformed ha ⟨halone, hfound, hclean, hwords⟩)
  · exact fun o s x u loc leaf hr ha halone hfound hclean hc g hwords hi =>
      exec_traps (i := .gcp o) (execGcp.eq_def o) hr hc (gcp_indexes ha ⟨halone, hfound, hclean, hwords⟩ hi)
  · exact fun o s x u loc leaf hr ha halone hfound hclean hc g hwords hi =>
      exec_traps (i := .gcpts o) (execGcpts.eq_def o) hr hc (gcpts_indexes ha ⟨halone, hfound, hclean, hwords⟩ hi)
  · exact fun o s x u loc leaf hr ha halone hfound hclean hc g hwords hi hdst =>
      exec_traps (i := .gcp o) (execGcp.eq_def o) hr hc
        ((gcp_reads ha ⟨halone, hfound, hclean, hwords⟩ hi).trans (if_pos (by rw [hdst]; decide)))
  · exact fun o s x u loc leaf hr ha halone hfound hclean hc g hwords hi ht hb =>
      exec_traps (i := .gcpts o) (execGcpts.eq_def o) hr hc
        ((gcpts_reads ha ⟨halone, hfound, hclean, hwords⟩ hi ht.1).trans (postFill_beyond hb))

end Sys2Proof.Machine
end

section
/-! SUPPORT. The statement on running engine commands speaks of every table of cores, in order or not; a team is found on the
first core listed that has it. -/

namespace Sys2Proof.Machine

/-- A copy into a slot of team 1, of which no byte is left to clear. -/
def slotCopy : EngCmd := { id := 1, entry := 0, kind := .cpts, team := some 1, ctx := 0, pc := 0 }

/-- Core 1 is listed before core 0, and each has a team 1; the operand buffer of the one on core 1 holds the byte 1 at 0. The
command is core 0's. -/
def twiceListed : State :=
  { cores := [(1, { Core.init with teams := [(1, { opbuf := [(0, 1)] })] }),
              (0, { Core.init with teams := [(1, {})], cmds := [slotCopy] })] }

/-- The start writes core 0, which puts it in front: the team 1 found after it is core 0's. -/
theorem start_twiceListed :
    exec (.engineCommandStart 0 0) twiceListed =
      .next ((twiceListed.modCmd 0 1 (fun c => { c with started := true })).modTeam 1 (fun y => y.bufWrite 0 [])) ∧
    tabGet 0 0 (((twiceListed.modCmd 0 1 (fun c => { c with started := true })).modTeam 1 (fun y => y.bufWrite 0 [])).team 1).opbuf = 0 ∧
    tabGet 0 0 (twiceListed.team 1).opbuf = 1 :=
  ⟨rfl, by decide +kernel, by decide⟩

/-- Refutes O46: its clause on the start of cpts and gcpts says that the operand buffer of the command's team stands but for the
slot's bytes. It speaks of any state in which a team is found under the name, and does not say that the table of cores is in
order, or that the team found is one of the command's core, as the statement on matrix commands does. In the state
`twiceListed` it is not: the start finds another team of that name than the state did. -/
theorem not_engineCommandsRun : ¬ Obligations.EngineCommandsRun := by
  intro h
  obtain ⟨-, -, -, start, -⟩ := h
  obtain ⟨hexec, hafter, hbefore⟩ := start_twiceListed
  obtain ⟨t, ht, -, hbuf⟩ := start twiceListed 0 0 slotCopy 1 (by decide +kernel) (by decide) (by decide +kernel) (by decide +kernel)
    (.inl rfl) rfl (by decide +kernel)
  have he := hexec.symm.trans ht
  injection he with he
  have hbyte := hbuf 0
  rw [← he, hafter, hbefore] at hbyte
  exact absurd hbyte (by decide)

end Sys2Proof.Machine
end

section
/-! SUPPORT. Refinement blocks are posted (11 R358, R362 to R364): a block that its checks reach is read, and queued or refused. -/

namespace Sys2Proof.Machine

/-! ### The block that an instruction reads -/

/-- The state in which the block is read, its place found by the check. -/
def Iss.blockRead (x : Iss) (u : State) (loc : Loc) (leaf : Nat) : State :=
  u.prepLoad x.g.core x.g.slot { l := x.low, ea := x.a x.low, loc := loc, leaf := leaf } 128 true
/-- The words of the block. -/
def Iss.blockWords (x : Iss) (v : State) (loc : Loc) : List Nat :=
  (List.range 16).map (fun i => v.seen x.g.core x.g.slot x.low (loc.add (8 * i)) 8)
/-- The block as it is checked, not yet numbered. -/
def Iss.blockOf (x : Iss) (kind y : Nat) (v : State) (ws : List Nat) : RefBlock :=
  { id := 0, kind := kind, core := x.g.core, slot := x.g.slot, lane := x.low, team := y, ctx := x.agent.ctx, addr := x.a x.low,
    pc := x.g.pc, words := ws, desc := ((v.team y).handle (ws.getD 6 0 % 2 ^ 4)).desc }

/-- The check reaches the block of the word, which is not poisoned. -/
structure Iss.reachesBlock (x : Iss) (s u : State) (loc : Loc) (leaf : Nat) : Prop where
  alone : s.atomPending x.g.core x.g.slot x.ex = false
  found : x.checkOnce s { rd := true, align := 128, size := 128 } (x.a x.low) = (u, .ok loc leaf)
  clean : (x.blockRead u loc leaf).anyPoison (loc.span 128) = false

/-- What follows the reading of the block `b`: its first check that fails refuses it, but under rfchk. -/
def Iss.judges (x : Iss) (v : State) (b : RefBlock) : Act :=
  let bad := b.firstBad (v.team b.team) (!(v.blocksAt x.g.core b.team b.addr).isEmpty)
  let c := { b with bad := bad }
  if b.kind = 2 && bad != 1 then
    if { c with kind := 0 }.inWindow (if bad = 0 then (v.team b.team).rswin else 0) then prot x v 0x0B else x.queueBlock v b.team c
  else if bad = 3 then prot x v (((v.team b.team).handleBad (bitsAt (c.w 6) 0 32)).getD 0)
  else if bad ≠ 0 then prot x v 0x1F
  else if c.inWindow (v.team b.team).rswin then prot x v 0x0B
  else x.queueBlock v b.team c

section
variable {x : Iss} {s u : State} {loc : Loc} {leaf : Nat}

theorem bitsAt_zero (v n : Nat) : bitsAt v 0 n = v % 2 ^ n := by rw [bitsAt, pow_zero, Nat.div_one]

theorem refineBody_reads (kind : Nat) (ht : x.teamed s) (ha : x.alike (fun x l => [x.a l])) (h : x.reachesBlock s u loc leaf) :
    refineBody kind x s =
      x.judges (x.blockRead u loc leaf)
        (x.blockOf kind (x.mine s) (x.blockRead u loc leaf) (x.blockWords (x.blockRead u loc leaf) loc)) := by
  obtain ⟨halone, hfound, hclean⟩ := h
  refine (uniform_alike s ha).trans ?_
  rw [team_some ht.1]
  dsimp -zeta only
  rw [halone, if_neg Bool.false_ne_true, hfound]
  dsimp -zeta only
  refine (if_neg (ne_true_of_eq_false hclean)).trans ?_
  rw [Iss.blockOf, ← bitsAt_zero]
  rfl

/-- Reading the block changes no weave but by a mark. -/
theorem Iss.reachesBlock.keeps (h : x.reachesBlock s u loc leaf) : Alike s (x.blockRead u loc leaf) := by
  have ha := alike_checkOnce x s { rd := true, align := 128, size := 128 } (x.a x.low)
  rw [h.found] at ha
  exact ha.trans (alike_prepLoad _ _ _ _ _ _)
end

/-! ### The checks (11 R363) -/

theorem firstBad_zero (b : RefBlock) (y : Team) (busy : Bool) :
    b.firstBad y busy = 0 ↔ ∀ n, 1 ≤ n → n ≤ 12 → b.check y busy n = true := by
  unfold RefBlock.firstBad
  cases hf : (List.range 12).find? (fun n => !b.check y busy (n + 1)) with
  | none =>
    have hall := List.find?_eq_none.1 hf
    refine ⟨fun _ n h1 h2 => ?_, fun _ => rfl⟩
    have hn := hall (n - 1) (List.mem_range.2 (by omega))
    rw [Nat.sub_add_cancel h1] at hn
    simpa using hn
  | some n =>
    have hbad := List.find?_some hf
    have hlt := List.mem_range.1 (List.mem_of_find?_eq_some hf)
    refine ⟨fun h => absurd h (Nat.succ_ne_zero n), fun h => ?_⟩
    rw [h (n + 1) (by omega) (by omega)] at hbad
    exact absurd hbad (by decide)

theorem firstBad_succ {b : RefBlock} {y : Team} {busy : Bool} {n : Nat} (h : b.firstBad y busy = n + 1) :
    n + 1 ≤ 12 ∧ b.check y busy (n + 1) = false ∧ ∀ m, 1 ≤ m → m ≤ n → b.check y busy m = true := by
  unfold RefBlock.firstBad at h
  cases hf : (List.range 12).find? (fun n => !b.check y busy (n + 1)) with
  | none => rw [hf] at h; exact absurd h.symm (Nat.succ_ne_zero n)
  | some k =>
    rw [hf] at h
    obtain rfl : k = n := Nat.succ_injective h
    obtain ⟨hbad, hlt, hbelow⟩ := List.find?_range_eq_some.1 hf
    refine ⟨List.mem_range.1 hlt, by simpa using hbad, fun m h1 h2 => ?_⟩
    have hm := hbelow (m - 1) (by omega)
    rw [Nat.sub_add_cancel h1] at hm
    simpa using hm

/-! ### The queue of the die (11 R358, R373) -/

/-- The counter that a block charges. -/
def RefBlock.counter (b : RefBlock) (y : Team) : Option Nat :=
  if bitAt (b.w 6) 52 && (b.kind != 2 || (b.check y false 2 && b.check y false 11)) then some (bitsAt (b.w 6) 48 4) else none
/-- The block as it is queued: numbered, with the counter that it charges. -/
def RefBlock.numbered (b : RefBlock) (v : State) : RefBlock := { b with id := v.nextId, cc := b.counter (v.team b.team) }
/-- The state in which the block stands last in the queue of its die. -/
def Iss.blockQueued (x : Iss) (v : State) (b : RefBlock) : State :=
  ({ v with nextId := v.nextId + 1 }.charge x.g.core (some b.team) (b.counter (v.team b.team)) v.nextId b.charge).modDie
    (dieOf x.g.core) (fun d => { d with blocks := d.blocks ++ [b.numbered v] })
/-- The queue of the die has room, and the stores before the word have been performed. -/
def Iss.blockRoom (x : Iss) (v : State) : Prop := (v.die (x.g.core / 36)).blocks.length < 16 ∧ v.drained x.g.core x.g.slot = true

theorem queueBlock_room {x : Iss} {v : State} (h : x.blockRoom v) (b : RefBlock) :
    x.queueBlock v b.team b = .done (x.blockQueued v b) x.ex := by
  obtain ⟨hlen, hdrained⟩ := h
  unfold Iss.queueBlock
  refine (if_neg (not_le.2 hlen)).trans ?_
  rw [hdrained]
  rfl

/-- A change that leaves every die. -/
theorem dies_modTeam (s : State) (y : Nat) (g : Team → Team) : (s.modTeam y g).dies = s.dies := by
  unfold State.modTeam
  split <;> rfl

theorem dies_modCounter (s : State) (core : Nat) (team : Option Nat) (n : Nat) (f : Counter → Counter) :
    (s.modCounter core team n f).dies = s.dies := by
  cases team with
  | none => rfl
  | some y => exact dies_modTeam s y _

theorem dies_charge (s : State) (core : Nat) (team cc : Option Nat) (cmd n : Nat) : (s.charge core team cc cmd n).dies = s.dies := by
  cases cc with
  | none => rfl
  | some k =>
    unfold State.charge
    dsimp only
    split
    · rfl
    · rw [dies_modCounter]
      split <;> rfl

theorem sameWeaves_modDie (s : State) (d : Nat) (g : Die → Die) : SameWeaves s (s.modDie d g) := sameWeaves_of rfl rfl rfl

theorem sameWeaves_blockQueued (x : Iss) (v : State) (b : RefBlock) : SameWeaves v (x.blockQueued v b) :=
  ((sameWeaves_of (s := v) (u := { v with nextId := v.nextId + 1 }) rfl rfl rfl).trans (sameWeaves_charge _ _ _ _ _ _)).trans
    (sameWeaves_modDie _ _ _)

theorem blocks_blockQueued (x : Iss) (v : State) (b : RefBlock) :
    ((x.blockQueued v b).die (x.g.core / 36)).blocks = (v.die (x.g.core / 36)).blocks ++ [b.numbered v] := by
  unfold Iss.blockQueued
  rw [dieOf, die_modDie, if_pos rfl, State.die, dies_charge]
  rfl

theorem bitAt_testBit (v n : Nat) : bitAt v n = v.testBit n := by
  rw [bitAt, Nat.testBit_eq_decide_div_mod_eq]
  rfl

/-- A block of refine and rfres charges the counter that its word 6 names. -/
theorem counter_posted {b : RefBlock} (h : b.kind ≠ 2) (y : Team) :
    b.counter y = if (b.w 6).testBit 52 then some (b.w 6 / 2 ^ 48 % 2 ^ 4) else none := by
  rw [RefBlock.counter, bitAt_testBit, show (b.kind != 2) = true from bne_iff_ne.2 h, Bool.true_or, Bool.and_true]
  rfl

/-! ### What the first check that fails leads to -/

section
variable {x : Iss} {v : State} {b : RefBlock} {bad : Nat}
  (hbad : b.firstBad (v.team b.team) (!(v.blocksAt x.g.core b.team b.addr).isEmpty) = bad)
include hbad

/-- No check has failed and no range meets the remote-scratch window. -/
theorem judges_queues (hk : b.kind ≠ 2) (h0 : bad = 0) (hb : b.bad = 0) (hw : b.inWindow (v.team b.team).rswin = false)
    (hr : x.blockRoom v) : x.judges v b = .done (x.blockQueued v b) x.ex := by
  subst h0
  have hsame : { b with bad := 0 } = b := by rw [← hb]
  unfold Iss.judges
  extract_lets bad' c
  have hc : c = b := by rw [← hsame, ← hbad]
  rw [show bad' = 0 from hbad, hc, decide_eq_false hk, Bool.false_and, if_neg Bool.false_ne_true, if_neg (by decide),
    if_neg (by decide), hw, if_neg Bool.false_ne_true]
  exact queueBlock_room hr b

theorem judges_refuses (hk : b.kind ≠ 2) (h0 : bad ≠ 0) : x.judges v b =
    prot x v (if bad = 3 then ((v.team b.team).handleBad (b.w 6 % 2 ^ 32)).getD 0 else 0x1F) := by
  unfold Iss.judges
  extract_lets bad' c
  rw [show bad' = bad from hbad, decide_eq_false hk, Bool.false_and, if_neg Bool.false_ne_true, bitsAt_zero]
  by_cases h3 : bad = 3
  · rw [if_pos h3, if_pos h3]
    rfl
  · rw [if_neg h3, if_neg h3, if_pos h0]

theorem judges_checks (hk : b.kind = 2) (h1 : bad ≠ 1)
    (hw : { b with kind := 0 }.inWindow (if bad = 0 then (v.team b.team).rswin else 0) = false) (hr : x.blockRoom v) :
    x.judges v b = .done (x.blockQueued v { b with bad := bad }) x.ex := by
  unfold Iss.judges
  extract_lets bad' c
  have hwin : { c with kind := 0 }.inWindow (if bad = 0 then (v.team b.team).rswin else 0) = false := hw
  rw [show bad' = bad from hbad, decide_eq_true hk, bne_iff_ne.2 h1, Bool.true_and, if_pos rfl, hwin, if_neg Bool.false_ne_true,
    show c = { b with bad := bad } by rw [← hbad]]
  exact queueBlock_room hr { b with bad := bad }
end

/-! ### The instructions -/

/-- A body that is done in a state whose weaves are those of `v`, itself the moved state but for marks. -/
theorem exec_passes {i : Instr} {body : Iss → State → Act} {s v t : State} {x : Iss} (hx : ∀ s, exec i s = issue i body s)
    (hr : Ready i s x) (hk : (i.fields.getD {}).keep = 0) (hv : Alike (x.moved s) v) (hw : SameWeaves v t)
    (hb : body x (x.moved s) = .done t x.ex) :
    exec i s = .next t ∧ SameTables s t ∧ Passed s v x Thread.plainly (fun _ t => t) t := by
  have hal := hv.trans (Quiet.alike hw.weave)
  have hset := settled_unkept hr hk t
  refine ⟨(exec_done hx hr hb).trans (congrArg _ hset), hset ▸ sameTables_settled hr hal.tables,
    hset ▸ passed_settled hr (fun _ _ _ => keeps_plainly) hw.bytes (fun c w l => ?_)⟩
  rw [ite_self]
  exact hal.threads c w l

section
variable {i : Instr} {kind : Nat} (hx : ∀ s, exec i s = issue i (refineBody kind) s)
  {s : State} {x : Iss} {u : State} {loc : Loc} {leaf : Nat} (hr : Ready i s x) (ht : x.teamed (x.moved s))
  (ha : x.alike (fun x l => [x.a l])) (h : x.reachesBlock (x.moved s) u loc leaf)
include hx hr ht ha h

/-- refine and rfres queue a block that has passed its checks. -/
theorem refine_queues (hk : (i.fields.getD {}).keep = 0) (hkind : kind ≠ 2) :
    let v := x.blockRead u loc leaf
    let b := x.blockOf kind (x.mine (x.moved s)) v (x.blockWords v loc)
    b.firstBad (v.team b.team) (!(v.blocksAt x.g.core b.team b.addr).isEmpty) = 0 →
    b.inWindow (v.team b.team).rswin = false → x.blockRoom v →
    ∃ t b', exec i s = .next t ∧ SameTables s t ∧ Passed s v x Thread.plainly (fun _ t => t) t ∧
      (t.die (x.g.core / 36)).blocks = (v.die (x.g.core / 36)).blocks ++ [b'] ∧ { b' with id := 0, cc := none } = b ∧
      b'.id = v.nextId ∧ b'.cc = if (b.w 6).testBit 52 then some (b.w 6 / 2 ^ 48 % 2 ^ 4) else none := by
  intro v b hbad hw hroom
  obtain ⟨hexec, htab, hpass⟩ := exec_passes hx hr hk h.keeps (sameWeaves_blockQueued x v b)
    ((refineBody_reads kind ht ha h).trans (judges_queues hbad hkind rfl rfl hw hroom))
  exact ⟨_, b.numbered v, hexec, htab, hpass, blocks_blockQueued x v b, rfl, rfl, counter_posted hkind _⟩

/-- refine and rfres refuse a block with the detail of the lowest check that it fails. -/
theorem refine_refuses (hkind : kind ≠ 2) :
    let v := x.blockRead u loc leaf
    let b := x.blockOf kind (x.mine (x.moved s)) v (x.blockWords v loc)
    ∀ bad, b.firstBad (v.team b.team) (!(v.blocksAt x.g.core b.team b.addr).isEmpty) = bad → bad ≠ 0 → x.canTrap v →
    exec i s = .next ((x.unrun v x.g.lanes).trapEntry x.g.core x.g.slot x.g.lanes x.ex 8
      (if bad = 3 then ((v.team b.team).handleBad (b.w 6 % 2 ^ 32)).getD 0 else 0x1F) x.g.pc) := by
  intro v b bad hbad h0 hc
  exact exec_traps hx hr hc ((refineBody_reads kind ht ha h).trans (judges_refuses hbad hkind h0))

/-- rfchk queues a block whichever check but the first it fails. -/
theorem rfchk_queues (hk : (i.fields.getD {}).keep = 0) (hkind : kind = 2) :
    let v := x.blockRead u loc leaf
    let b := x.blockOf kind (x.mine (x.moved s)) v (x.blockWords v loc)
    ∀ bad, b.firstBad (v.team b.team) (!(v.blocksAt x.g.core b.team b.addr).isEmpty) = bad → bad ≠ 1 →
    { b with kind := 0 }.inWindow (if bad = 0 then (v.team b.team).rswin else 0) = false → x.blockRoom v →
    ∃ t b', exec i s = .next t ∧ SameTables s t ∧ Passed s v x Thread.plainly (fun _ t => t) t ∧
      (t.die (x.g.core / 36)).blocks = (v.die (x.g.core / 36)).blocks ++ [b'] ∧ { b' with id := 0, cc := none, bad := 0 } = b ∧
      b'.bad = bad ∧ b'.id = v.nextId := by
  intro v b bad hbad h1 hw hroom
  obtain ⟨hexec, htab, hpass⟩ := exec_passes hx hr hk h.keeps (sameWeaves_blockQueued x v { b with bad := bad })
    ((refineBody_reads kind ht ha h).trans (judges_checks hbad hkind h1 hw hroom))
  exact ⟨_, ({ b with bad := bad } : RefBlock).numbered v, hexec, htab, hpass, blocks_blockQueued x v _, rfl, rfl, rfl⟩
end

/-! ### rfwait, rfcancel and rfstat (11 R372, R374, R375) -/

section
variable {d : Nat} {ops : Iss → Nat → List Nat} {h : Iss → State → Option Nat → Nat → Act} {x : Iss} {s : State}

/-- `uniform` on alike operands in a team. -/
theorem uniform_teamed (ht : x.teamed s) (ha : x.alike ops) : uniform d ops h x s = h x s (some (x.mine s)) x.low :=
  (uniform_alike s ha).trans (by rw [team_some ht.1])
end

theorem rfwait_passes (o : AForm) : Acts (.rfwait o) (fun x s => x.teamed s ∧ x.alike (fun x l => [x.a l]) ∧
    s.blocksAt x.g.core (x.mine s) (x.a x.low) = []) still (fun _ s => s) :=
  acts_still (execRfwait.eq_def o) (fun x s ⟨ht, ha, hb⟩ => by rw [uniform_teamed ht ha]; dsimp only; rw [hb]; rfl)
    (fun _ s _ => .rfl' s)

theorem rfwait_waits (o : AForm) : Waits (.rfwait o) (fun x s => x.teamed s ∧ x.alike (fun x l => [x.a l]) ∧
    s.blocksAt x.g.core (x.mine s) (x.a x.low) ≠ []) :=
  waits_of (execRfwait.eq_def o) (fun x s ⟨ht, ha, hb⟩ => by
    rw [uniform_teamed ht ha]; dsimp only; rw [List.isEmpty_eq_false_iff.2 hb]; rfl)

theorem rfcancel_cancels (o : XForm) : Acts (.rfcancel o) (fun x s => x.teamed s ∧ x.alike (fun x l => [x.a l])) still (fun x s =>
    (s.blocksAt x.g.core (x.mine s) (x.a x.low)).foldl (fun s b => s.modBlock b.id RefBlock.cancelled) s) :=
  acts_still (execRfcancel.eq_def o) (fun _ _ ⟨ht, ha⟩ => uniform_teamed ht ha)
    (fun _ s _ => sameWeaves_fold _ (fun s (b : RefBlock) => s.modBlock b.id RefBlock.cancelled)
      (fun _ _ => sameWeaves_of rfl rfl rfl) s)

theorem cancelled_cases (b : RefBlock) : (b.code.isSome = true → b.cancelled = b) ∧
    (b.code = none → b.started = true → b.cancelled = { b with cancel := true }) ∧
    (b.code = none → b.started = false → b.cancelled.code = some 6) := by
  unfold RefBlock.cancelled
  refine ⟨fun h => if_pos h, fun h hs => ?_, fun h hs => ?_⟩
  · rw [h, hs]; rfl
  · rw [h, hs]; rfl

/-- What the lanes are left may be said in other words. -/
theorem Acts.congr_out {i : Instr} {pre : Iss → State → Prop} {out out' : Iss → State → Nat → LaneOut}
    {eff : Iss → State → State} (h : Acts i pre out eff) (ho : ∀ x s, out x s = out' x s) : Acts i pre out' eff :=
  (funext fun x => funext (ho x) : out = out') ▸ h

theorem rfstat_gives (o : AForm) : Acts (.rfstat o) (fun x s => x.teamed s ∧ x.alike (fun x l => [x.a l]))
    (gives fun x s => ((s.blocksAt x.g.core (x.mine s) (x.a x.low)).getLast?.map RefBlock.statWord).getD 0)
    (fun x s => x.giveAll s (((s.blocksAt x.g.core (x.mine s) (x.a x.low)).getLast?.map RefBlock.statWord).getD 0)) :=
  acts_gives (eff := fun _ s => s) (execRfstat.eq_def o) (fun _ _ ⟨ht, ha⟩ => uniform_teamed ht ha) (fun _ s _ => .rfl' s)

/-! ### The obligation -/

/-- Settles O38: refine, rfres and rfchk read a block alike and part at the first check that it fails; the others act on the
blocks of their address. -/
theorem refinementBlocksAreQueued : Obligations.RefinementBlocksAreQueued := by
  refine ⟨fun o s x u loc leaf hr ht _ ha halone hfound hclean hbad hw hlen hd => ?_,
    fun o s x u loc leaf hr ht _ ha halone hfound hclean hbad hw hlen hd => ?_,
    fun o s x u loc leaf hr ht _ ha halone hfound hclean => ?_,
    fun o s x u loc leaf hr ht _ ha halone hfound hclean => ?_,
    fun o s x u loc leaf hr ht _ ha halone hfound hclean bad hbad h1 hw hlen hd => ?_,
    fun b y busy => ⟨firstBad_zero b y busy, fun n => firstBad_succ⟩, rfwait_passes, rfwait_waits, rfcancel_cancels,
    cancelled_cases, ?_⟩
  · exact refine_queues (i := .refine o) (execRefine.eq_def o) hr ht ha ⟨halone, hfound, hclean⟩ rfl (by decide)
      hbad hw ⟨hlen, hd⟩
  · exact refine_queues (i := .rfres o) (execRfres.eq_def o) hr ht ha ⟨halone, hfound, hclean⟩ rfl (by decide)
      hbad hw ⟨hlen, hd⟩
  · exact refine_refuses (i := .refine o) (execRefine.eq_def o) hr ht ha ⟨halone, hfound, hclean⟩ (by decide)
  · exact refine_refuses (i := .rfres o) (execRfres.eq_def o) hr ht ha ⟨halone, hfound, hclean⟩ (by decide)
  · exact rfchk_queues (i := .rfchk o) (execRfchk.eq_def o) hr ht ha ⟨halone, hfound, hclean⟩ rfl rfl
      bad hbad h1 hw ⟨hlen, hd⟩
  · refine fun o => (rfstat_gives o).congr_out (fun x s => funext fun _ => congrArg (fun v => ({ reg := some v } : LaneOut)) ?_)
    dsimp only
    cases (s.blocksAt x.g.core (x.mine s) (x.a x.low)).getLast? <;> rfl

end Sys2Proof.Machine
end

section
/-! SUPPORT. The arithmetic of a refinement run (11 R366 to R369): what a table holds that a loop has filled, entry by entry, and
what the steps of a solve, the residual and its test leave. -/

namespace Sys2Proof.Machine

/-! ### Tables filled by a loop -/

section
variable {α : Type}

/-- Each `a` of a list in turn writes under `key a` what `val` makes of it and of the table so far. -/
def fillTab (key : α → Nat) (val : α → Tab Nat → Nat) (as : List α) (m : Tab Nat) : Tab Nat :=
  as.foldl (fun m a => tabPut 0 (key a) (val a m) m) m

variable {key : α → Nat} {val : α → Tab Nat → Nat}

theorem fillTab_append (as bs : List α) (m : Tab Nat) : fillTab key val (as ++ bs) m = fillTab key val bs (fillTab key val as m) :=
  List.foldl_append

theorem fillTab_other {as : List α} {k : Nat} (h : ∀ a ∈ as, key a ≠ k) (m : Tab Nat) :
    tabGet 0 k (fillTab key val as m) = tabGet 0 k m := by
  induction as generalizing m with
  | nil => rfl
  | cons a as ih =>
    obtain ⟨ha, has⟩ := List.forall_mem_cons.1 h
    exact (ih has _).trans ((tabGet_put ..).trans (if_neg (Ne.symm ha)))

/-- An entry keeps what its turn wrote, where no later turn has its key. -/
theorem fillTab_at {as bs : List α} {a : α} (h : ∀ c ∈ bs, key c ≠ key a) (m : Tab Nat) :
    tabGet 0 (key a) (fillTab key val (as ++ a :: bs) m) = val a (fillTab key val as m) := by
  rw [fillTab_append]
  exact (fillTab_other h _).trans ((tabGet_put ..).trans (if_pos rfl))
end

theorem mem_upto {a b k : Nat} : k ∈ upto a b ↔ a ≤ k ∧ k < b := by
  simp only [upto, List.mem_map, List.mem_range]
  exact ⟨fun ⟨j, hj, he⟩ => by omega, fun h => ⟨k - a, by omega, by omega⟩⟩

theorem range_split {n i : Nat} (h : i < n) : List.range n = List.range i ++ i :: upto (i + 1) n := by
  conv_lhs => rw [← Nat.add_sub_cancel' (Nat.succ_le_of_lt h), List.range_add, Nat.succ_eq_add_one, List.range_succ]
  rw [List.append_assoc]
  rfl

section
variable {val : Nat → Tab Nat → Nat} {n i : Nat} (h : i < n) (m : Tab Nat)
include h

/-- A table filled upwards: an entry is what its turn makes of the entries below it. -/
theorem fillTab_up (hval : ∀ m m', (∀ k < i, tabGet 0 k m = tabGet 0 k m') → val i m = val i m') :
    tabGet 0 i (fillTab id val (List.range n) m) = val i (fillTab id val (List.range n) m) := by
  rw [range_split h]
  have hlater : ∀ c ∈ upto (i + 1) n, id c ≠ id i := fun c hc => by have := (mem_upto.1 hc).1; simp only [id]; omega
  refine (fillTab_at hlater m).trans (hval _ _ (fun k hk => ?_))
  rw [fillTab_append]
  refine (fillTab_other (fun c hc => ?_) _).symm
  rcases List.mem_cons.1 hc with rfl | hc
  · exact hk.ne'
  · have := (mem_upto.1 hc).1
    simp only [id]
    omega

/-- A table filled downwards: an entry is what its turn makes of the entries above it. -/
theorem fillTab_down (hval : ∀ m m', (∀ k ∈ upto (i + 1) n, tabGet 0 k m = tabGet 0 k m') → val i m = val i m') :
    tabGet 0 i (fillTab id val (List.range n).reverse m) = val i (fillTab id val (List.range n).reverse m) := by
  rw [range_split h, List.reverse_append, List.reverse_cons, List.append_assoc, List.singleton_append]
  have hbelow : ∀ c ∈ (List.range i).reverse, c < i := fun c hc => List.mem_range.1 (List.mem_reverse.1 hc)
  refine (fillTab_at (fun c hc => (hbelow c hc).ne) m).trans (hval _ _ (fun k hk => ?_))
  have hk := (mem_upto.1 hk).1
  rw [fillTab_append]
  refine (fillTab_other (fun c hc => ?_) _).symm
  rcases List.mem_cons.1 hc with rfl | hc
  · exact (Nat.lt_of_succ_le hk).ne
  · have := hbelow c hc
    simp only [id]
    omega
end

/-- A run of values written from a key on. -/
theorem tabGet_putRun (vs : List Nat) (o j : Nat) (m : Tab Nat) :
    tabGet 0 j ((vs.zipIdx o).foldl (fun m e => tabPut 0 e.2 e.1 m) m) =
      if o ≤ j ∧ j < o + vs.length then vs.getD (j - o) 0 else tabGet 0 j m := by
  induction vs generalizing o m with
  | nil => simp
  | cons v vs ih =>
    rw [List.zipIdx_cons, List.foldl_cons, ih, tabGet_put, List.length_cons]
    by_cases hj : j = o
    · subst hj
      simp
    · by_cases h : o + 1 ≤ j ∧ j < o + 1 + vs.length
      · rw [if_pos h, if_pos (by omega), show j - o = j - (o + 1) + 1 by omega, List.getD_cons_succ]
      · rw [if_neg h, if_neg hj, if_neg (by omega)]

/-! ### The part of A that is read (11 R366) -/

theorem putT_run (vs : List Nat) (b : RefBlock) (i o : Nat) :
    (vs.zipIdx o).foldl (fun (q : RefBlock) (e : Nat × Nat) => q.putT i e.2 e.1) b =
      { b with tmat := (vs.zipIdx (i * b.n + o)).foldl (fun m e => tabPut 0 e.2 e.1 m) b.tmat } := by
  induction vs generalizing b o with
  | nil => rfl
  | cons v vs ih => exact ih (b.putT i o v) (o + 1)

/-- A row of T takes the values written to it, and every other entry stands. -/
theorem tm_row (b : RefBlock) (vs : List Nat) (i : Nat) (hlen : vs.length ≤ b.n) :
    let q := (vs.zipIdx).foldl (fun (q : RefBlock) (e : Nat × Nat) => q.putT i e.2 e.1) b
    ∀ r k, k < b.n → q.tm r k = if r = i ∧ k < vs.length then vs.getD k 0 else b.tm r k := by
  intro q r k hk
  have hq : q.tm r k = tabGet 0 (r * b.n + k) ((vs.zipIdx (i * b.n)).foldl (fun m e => tabPut 0 e.2 e.1 m) b.tmat) := by
    rw [show q = _ from putT_run vs b i 0]
    rfl
  rw [hq, tabGet_putRun]
  rcases lt_trichotomy r i with h | rfl | h
  · have hrow := Nat.mul_le_mul_right b.n (Nat.succ_le_of_lt h)
    rw [Nat.succ_mul] at hrow
    rw [if_neg (by omega), if_neg (by omega)]
    rfl
  · simp [RefBlock.tm]
  · have hrow := Nat.mul_le_mul_right b.n (Nat.succ_le_of_lt h)
    rw [Nat.succ_mul] at hrow
    rw [if_neg (by omega), if_neg (by omega)]
    rfl

/-! ### Solves (11 R367) -/

section
variable (b : RefBlock) {i : Nat} (h : i < b.n)
include h

/-- The forward step, row by row. -/
theorem forward_row (v : List Nat) : tabGet 0 i (b.forward v) =
    let z := (List.range i).foldl (fun z k => fms32 (b.fm i k) (tabGet 0 k (b.forward v)) z) ((b.permute v).getD i 0)
    if b.lu = true then z else div32 z (b.fm i i) := by
  refine fillTab_up (val := fun i y =>
    let z := (List.range i).foldl (fun z k => fms32 (b.fm i k) (tabGet 0 k y) z) ((b.permute v).getD i 0)
    if b.lu = true then z else div32 z (b.fm i i)) h [] (fun m m' hm => ?_)
  have hz := List.foldl_ext (fun z k => fms32 (b.fm i k) (tabGet 0 k m) z) (fun z k => fms32 (b.fm i k) (tabGet 0 k m') z)
    ((b.permute v).getD i 0) (l := List.range i) (fun z k hk => by rw [hm k (List.mem_range.1 hk)])
  dsimp only
  rw [hz]

/-- The backward step, row by row. -/
theorem backward_row (y : Tab Nat) : tabGet 0 i (b.backward y) =
    div32 ((upto (i + 1) b.n).foldl (fun z k => fms32 (if b.lu = true then b.fm i k else b.fm k i) (tabGet 0 k (b.backward y)) z)
      (tabGet 0 i y)) (b.fm i i) := by
  refine fillTab_down (val := fun i x =>
    div32 ((upto (i + 1) b.n).foldl (fun z k => fms32 (if b.lu = true then b.fm i k else b.fm k i) (tabGet 0 k x) z)
      (tabGet 0 i y)) (b.fm i i)) h [] (fun m m' hm => ?_)
  have hz := List.foldl_ext (fun z k => fms32 (if b.lu = true then b.fm i k else b.fm k i) (tabGet 0 k m) z)
    (fun z k => fms32 (if b.lu = true then b.fm i k else b.fm k i) (tabGet 0 k m') z)
    (tabGet 0 i y) (l := upto (i + 1) b.n) (fun z k hk => by rw [hm k hk])
  rw [hz]

/-- The entry of the iterate as an item of its column leaves it. -/
theorem addItem_entry (corr : Bool) (c : Nat) : tabGet 0 (c * b.n + i) (b.addItem corr c).x =
    if corr = true then f64 (fAddV false (fVal 1 (tabGet 0 (c * b.n + i) b.x)) (fVal 1 (widen64 (tabGet 0 i b.y))))
    else widen64 (tabGet 0 i b.y) := by
  have hx : (b.addItem corr c).x = fillTab (fun i => c * b.n + i) (fun i x =>
      if corr = true then f64 (fAddV false (fVal 1 (tabGet 0 (c * b.n + i) x)) (fVal 1 (widen64 (tabGet 0 i b.y))))
      else widen64 (tabGet 0 i b.y)) (List.range b.n) b.x := by
    by_cases hc : c + 1 < b.nrhs
    · exact congrArg RefBlock.x (if_pos hc)
    · exact (congrArg RefBlock.x (if_neg hc)).trans (by cases corr <;> rfl)
  have hlater : ∀ k ∈ upto (i + 1) b.n, c * b.n + k ≠ c * b.n + i := fun k hk => by have := (mem_upto.1 hk).1; omega
  have hbefore : ∀ k ∈ List.range i, c * b.n + k ≠ c * b.n + i := fun k hk => by have := List.mem_range.1 hk; omega
  rw [hx, range_split h]
  refine (fillTab_at (key := fun i => c * b.n + i) hlater b.x).trans ?_
  rw [fillTab_other hbefore]
end

/-! ### The residual and its test (11 R368, R369) -/

theorem residItem_leaves (b : RefBlock) (c : Nat) (bs rs : List Nat) : let q := b.residItem c bs rs
    (∀ i, i < rs.length → tabGet 0 (c * b.n + i) q.r = rs.getD i 0) ∧ q.eta = max64 b.eta (rs.foldl max64 0) ∧
    (q.pass = true ↔ b.pass = true ∧ (fVal 1 (rs.foldl max64 0)).isNaN = false ∧
      mag64 (rs.foldl max64 0) ≤ b.bound (bs.foldl max64 0)) ∧
    q.pos = if c + 1 < b.nrhs then .resid (c + 1) else .judge := by
  refine ⟨fun i hi => ?_, rfl, ?_, rfl⟩
  · refine (tabGet_putRun rs (c * b.n) (c * b.n + i) b.r).trans ?_
    rw [if_pos (by omega), Nat.add_sub_cancel_left]
  · simp [RefBlock.residItem]

end Sys2Proof.Machine
end

section
/-! SUPPORT. What the accesses of a refinement controller write (11 R370, R376, R378): bytes at places in memory, with no line of
the lease cache in the way, and no block of a die. -/

namespace Sys2Proof.Machine

/-! ### Operations that leave the dies -/

theorem dies_fold {α : Type} (ls : List α) (f : State → α → State) (h : ∀ s a, (f s a).dies = s.dies) (s : State) :
    (ls.foldl f s).dies = s.dies := by
  induction ls generalizing s with
  | nil => rfl
  | cons a t ih => exact (ih _).trans (h s a)

theorem dies_rowRecall (s : State) (who : Option Nat) (st : Bool) (pa : Nat) : (s.rowRecall who st pa).dies = s.dies := by
  unfold State.rowRecall
  dsimp only
  split
  · rfl
  · refine (dies_fold _ (fun s (d : DirRec) => s.tenureLost d.team [.mem pa]) (fun _ _ => rfl) _).trans ?_
    exact dies_fold _ (fun s (d : DirRec) => s.modHandle d.team d.handle (fun h =>
      handleRow h st ((d.page.va + (pa - d.page.pa)) / 32))) (fun s d => dies_modTeam s _ _) s

theorem dies_recallSpan (s : State) (who : Option Nat) (st : Bool) (l : Loc) (n : Nat) : (s.recallSpan who st l n).dies = s.dies := by
  cases l with
  | mem pa => exact dies_fold _ _ (fun s _ => dies_rowRecall s _ _ _) s
  | spad => rfl

theorem dies_discharge (s : State) (core : Nat) (team cc : Option Nat) (cmd n : Nat) :
    (s.discharge core team cc cmd n).dies = s.dies := by
  cases cc with
  | none => rfl
  | some k =>
    unfold State.discharge
    dsimp only
    rw [dies_modCounter]
    split <;> rfl

theorem dies_dischargeRest (s : State) (core : Nat) (team cc : Option Nat) (cmd : Nat) :
    (s.dischargeRest core team cc cmd).dies = s.dies := by
  cases cc with
  | none => rfl
  | some k => exact dies_discharge s _ _ _ _ _

/-! ### Bytes written to places in memory -/

/-- A place in memory that a check has found. -/
def foundMem (pa : Nat) : Option Loc := some (.mem pa)
/-- A byte that an engine writes, not poisoned. -/
def cleanByte (v : Byte) : Byte × Bool := (v, false)
/-- Bytes written one after the other, each at its address. -/
def State.putClean (s : State) (es : List (Nat × Byte)) : State := es.foldl (fun s e => s.engineByte (.mem e.1) (cleanByte e.2)) s

section
variable {s : State} (hf : s.lcForeign)
include hf

theorem lcForeign_engineByte (pa : Nat) (v : Byte) : (s.engineByte (.mem pa) (cleanByte v)).lcForeign :=
  lcForeign_setByte (lcForeign_lcBring hf pa) pa v

theorem memByte_engineByte (pa : Nat) (v : Byte) (q : Nat) :
    (s.engineByte (.mem pa) (cleanByte v)).memByte q = if q = pa then v else s.memByte q :=
  (memByte_setByte (lcForeign_lcBring hf pa) pa v q).trans (by rw [memByte_lcBring])
end

theorem dies_engineByte (s : State) (pa : Nat) (v : Byte) : (s.engineByte (.mem pa) (cleanByte v)).dies = s.dies :=
  (congrArg State.dies (setByte_frame (s.lcBring pa) pa v) :).trans (congrArg State.dies (lcBring_frame s pa) :)

theorem putClean_other {es : List (Nat × Byte)} {q : Nat} (h : q ∉ es.map Prod.fst) {s : State} (hf : s.lcForeign) :
    (s.putClean es).memByte q = s.memByte q := by
  induction es generalizing s with
  | nil => rfl
  | cons e es ih =>
    rw [List.map_cons, List.mem_cons, not_or] at h
    exact (ih h.2 (lcForeign_engineByte hf _ _)).trans ((memByte_engineByte hf ..).trans (if_neg h.1))

theorem putClean_at {es : List (Nat × Byte)} (hn : (es.map Prod.fst).Nodup) {e : Nat × Byte} (he : e ∈ es) {s : State}
    (hf : s.lcForeign) : (s.putClean es).memByte e.1 = e.2 := by
  induction es generalizing s with
  | nil => exact absurd he List.not_mem_nil
  | cons d es ih =>
    rw [List.map_cons, List.nodup_cons] at hn
    have hd := lcForeign_engineByte hf d.1 d.2
    rcases List.mem_cons.1 he with rfl | he
    · exact (putClean_other hn.1 hd).trans ((memByte_engineByte hf ..).trans (if_pos rfl))
    · exact ih hn.2 he hd

/-- The tenures narrowed before an engine writes. -/
def State.engineMet (s : State) (team : Option Nat) (ls : List Loc) : State :=
  ((ls.map Loc.sector).dedup).foldl (fun s l => s.recallSpan team true l 1) s

theorem seesAs_engineMet (s : State) (team : Option Nat) (ls : List Loc) : SeesAs s (s.engineMet team ls) :=
  seesAs_fold _ _ (fun s l => seesAs_recallSpan s team true l 1) s

section
variable (s : State) (team : Option Nat) (pas : List Nat) (vs : List Byte)

theorem engineWrite_mem : s.engineWrite team (pas.map foundMem) (vs.map cleanByte) =
    ((((s.engineMet team ((pas.zip vs).map (fun e => .mem e.1))).putClean (pas.zip vs)).conflicts
      ((pas.zip vs).map (fun e => .mem e.1)) (201, 0, 0) (fun _ _ => true)).noteWrite ((pas.zip vs).map (fun e => .mem e.1))) := by
  have hws : (((pas.map foundMem).zip (vs.map cleanByte)).filterMap (fun e => e.1.map (fun l => (l, e.2)))) =
      (pas.zip vs).map (fun e => (Loc.mem e.1, cleanByte e.2)) := by
    rw [List.zip_map, List.filterMap_map, ← List.filterMap_eq_map]
    rfl
  unfold State.engineWrite
  rw [hws]
  dsimp only
  simp only [State.engineMet, State.putClean, List.map_map, List.foldl_map]
  rfl

theorem dies_engineWrite : (s.engineWrite team (pas.map foundMem) (vs.map cleanByte)).dies = s.dies := by
  rw [engineWrite_mem]
  refine (dies_fold _ (fun s (e : Nat × Byte) => s.engineByte (.mem e.1) (cleanByte e.2))
    (fun s e => dies_engineByte s _ _) _).trans ?_
  exact dies_fold _ _ (fun s l => dies_recallSpan s team true l 1) s

variable {s pas vs} (hf : s.lcForeign)
include hf

/-- An engine's write leaves every byte but those of its places. -/
theorem engineWrite_other {q : Nat} (hq : q ∉ pas) :
    (s.engineWrite team (pas.map foundMem) (vs.map cleanByte)).memByte q = s.memByte q := by
  have hm := seesAs_engineMet s team ((pas.zip vs).map (fun e => .mem e.1))
  have hz : q ∉ (pas.zip vs).map Prod.fst := fun h => by
    obtain ⟨e, he, rfl⟩ := List.mem_map.1 h
    exact hq (List.of_mem_zip he).1
  rw [engineWrite_mem, (seesAs_noteWrite _ _).bytes, (seesAs_conflicts _ _ _ _).bytes, putClean_other hz (hm.foreign hf), hm.bytes]

/-- An engine's write at places that differ leaves each its byte. -/
theorem engineWrite_at (hn : pas.Nodup) (hlen : pas.length = vs.length) {j : Nat} (hj : j < pas.length) :
    (s.engineWrite team (pas.map foundMem) (vs.map cleanByte)).memByte (pas.getD j 0) = vs.getD j 0 := by
  have hm := seesAs_engineMet s team ((pas.zip vs).map (fun e => .mem e.1))
  have hfst : (pas.zip vs).map Prod.fst = pas := List.map_fst_zip hlen.le
  have hv : j < vs.length := hlen ▸ hj
  have he : (pas.getD j 0, vs.getD j 0) ∈ pas.zip vs := by
    rw [List.getD_eq_getElem _ _ hj, List.getD_eq_getElem _ _ hv, ← List.getElem_zip (h := by simpa [hlen] using hv)]
    exact List.getElem_mem _
  rw [engineWrite_mem, (seesAs_noteWrite _ _).bytes, (seesAs_conflicts _ _ _ _).bytes]
  exact putClean_at (hfst.symm ▸ hn) he (hm.foreign hf)
end

/-! ### The write of an end stage (11 R370) -/

/-- A write of an end stage whose places have all been found in memory, neither held nor poisoned. -/
theorem endWrite_mem {s v : State} {b : RefBlock} {as pas : List Nat} {bs : List Byte} (whole : Bool)
    (hfound : s.engineCheck (s.teamAgent b.core b.ctx (some b.team)) (engineAcc true) as = (v, pas.map foundMem, none))
    (hheld : v.placesHeld (some b.team) (pas.map foundMem) = false) (hclean : ∀ pa ∈ pas, v.memPoison pa = false)
    (hlen : pas.length = bs.length) :
    s.endWrite b whole as bs = .ok (v.engineWrite (some b.team) (pas.map foundMem) (bs.map cleanByte), none) := by
  have hstop : (pas.map foundMem).zipIdx.find? (fun e => e.1.elim true (fun l => !whole && v.isPoison l)) = none := by
    refine List.find?_eq_none.2 (fun e he => ?_)
    obtain ⟨pa, hpa, hl⟩ := List.mem_map.1 (List.fst_mem_of_mem_zipIdx he)
    rw [← hl]
    simp only [foundMem, Option.elim, State.isPoison, hclean pa hpa, Bool.and_false, Bool.false_eq_true, not_false_eq_true]
  unfold State.endWrite
  rw [hfound]
  dsimp only [Option.map_none]
  rw [hstop]
  dsimp only
  rw [hheld, if_neg Bool.false_ne_true]
  simp only [Option.isSome_none, Bool.and_false, Bool.false_eq_true, if_false, List.take_length]
  rw [List.length_map, hlen, List.take_length]
  rfl

/-! ### The write of an item (11 R376, R378) -/

/-- The end of an item whose part of W has been found in memory and is not held. -/
theorem putItem_mem {s v : State} {b : RefBlock} (f : RefBlock → RefBlock) {pas : List Nat}
    (hfound : s.engineCheck (s.teamAgent b.core b.ctx (some b.team)) (engineAcc true) (b.wBytes b.wPuts) = (v, pas.map foundMem, none))
    (hheld : v.placesHeld (some b.team) (pas.map foundMem) = false) :
    ∃ vs : List Byte, s.putItem b f = (({ v with free := v.free + pas.length } : State).engineWrite (some b.team) (pas.map foundMem)
      (vs.map cleanByte)).modBlock b.id (fun q => { f q with asked := none, got := [] }) := by
  have hall : (pas.map foundMem).any Option.isNone = false := by
    rw [List.any_map]
    exact List.any_eq_false.2 (fun _ _ => Bool.false_ne_true)
  refine ⟨(List.range pas.length).map (fun k => BitVec.ofNat 8 (Config.freeBits (v.free + k)).toNat), ?_⟩
  unfold State.putItem
  rw [hfound]
  dsimp only
  rw [hall, if_neg Bool.false_ne_true, hheld, if_neg Bool.false_ne_true, List.length_map, List.map_map]
  rfl

/-! ### The block leaves the queue (11 R371) -/

theorem sameWeaves_dischargeRest (s : State) (core : Nat) (team cc : Option Nat) (cmd : Nat) :
    SameWeaves s (s.dischargeRest core team cc cmd) := by
  cases cc with
  | none => exact .rfl' s
  | some k =>
    unfold State.dischargeRest State.discharge
    dsimp only
    split
    · exact (sameWeaves_draw s).trans (sameWeaves_modCounter _ _ _ _ _)
    · exact sameWeaves_modCounter _ _ _ _ _

/-- The trap that a block leaves to be delivered, where it delivers one. -/
def RefBlock.raised (b : RefBlock) : List RefTrap :=
  if b.deliv then [{ core := b.core, slot := b.slot, team := b.team, lane := b.lane, addr := BitVec.ofNat 64 b.addr }] else []

theorem endBlock_leaves (s : State) (b : RefBlock) : let t := s.endBlock b
    (∀ pa, t.memByte pa = s.memByte pa) ∧
    (t.die (b.core / 36)).blocks = (s.die (b.core / 36)).blocks.filter (fun q => q.id != b.id) ∧
    (t.die (b.core / 36)).traps = (s.die (b.core / 36)).traps ++ b.raised := by
  have hdie : (s.endBlock b).die (b.core / 36) = { s.die (b.core / 36) with
      blocks := (s.die (b.core / 36)).blocks.filter (fun c => c.id != b.id),
      traps := if b.deliv then (s.die (b.core / 36)).traps ++
          [{ core := b.core, slot := b.slot, team := b.team, lane := b.lane, addr := BitVec.ofNat 64 b.addr }]
        else (s.die (b.core / 36)).traps } := by
    unfold State.endBlock
    rw [State.die, dies_dischargeRest]
    exact (die_modDie ..).trans (if_pos rfl)
  refine ⟨fun pa => ((sameWeaves_modDie s _ _).trans (sameWeaves_dischargeRest _ _ _ _ _)).bytes pa, by rw [hdie], ?_⟩
  rw [hdie, RefBlock.raised]
  cases b.deliv
  · exact (List.append_nil _).symm
  · rfl

end Sys2Proof.Machine
end

section
/-! SUPPORT. A refinement controller starts a block and does its items (11 R358, R366 to R369, R376, R378). -/

namespace Sys2Proof.Machine

/-! ### Blocks changed by their number -/

theorem blocks_modBlock (s : State) (id : Nat) (f : RefBlock → RefBlock) (d : Nat) :
    ((s.modBlock id f).die d).blocks = (s.die d).blocks.map (fun b => if b.id = id then f b else b) := by
  have h := tabFind_map (fun _ (x : Die) => { x with blocks := x.blocks.map (fun b => if b.id = id then f b else b) }) d s.dies
  rw [State.die, tabGet, State.modBlock, h, State.die, tabGet]
  cases tabFind d s.dies <;> rfl

theorem stop_leaves (b : RefBlock) (c : Nat) : (b.stop c).code = some c ∧ (b.stop c).fault = false ∧ (b.stop c).action = none ∧
    (b.stop c).id = b.id ∧ (b.stop c).words = b.words := ⟨rfl, rfl, rfl, rfl, rfl⟩

/-! ### The start of a block (11 R358) -/

/-- A block as it starts; one of rfchk ends at once. -/
def RefBlock.starts (b : RefBlock) : RefBlock :=
  if b.kind = 2 then { b.finish (if b.bad = 0 then 8 else 0x10) none false with started := true, begun := true }
  else { b with started := true, begun := true }

theorem starts_running (b : RefBlock) : b.starts.started = true ∧ b.starts.begun = true := by
  unfold RefBlock.starts
  split <;> exact ⟨rfl, rfl⟩

theorem starts_cases (b : RefBlock) : (b.kind ≠ 2 → b.starts = { b with started := true, begun := true }) ∧
    (b.kind = 2 → b.starts.code = some (if b.bad = 0 then 8 else 0x10)) :=
  ⟨fun h => if_neg h, fun h => congrArg RefBlock.code (if_pos h)⟩

section
variable {s : State} {die : Nat}

theorem refineBlockStart_free {b : RefBlock} (hh : (s.die die).blocks.any RefBlock.holds = false)
    (hb : (s.die die).blocks.find? (fun b => b.code.isNone) = some b) :
    exec (.refineBlockStart die) s = .next (s.modBlock b.id RefBlock.starts) := by
  rw [show exec (.refineBlockStart die) s = execRefineBlockStart die s from rfl, execRefineBlockStart]
  dsimp only
  rw [hh, if_neg Bool.false_ne_true, hb]
  rfl

/-- A block neither runs, nor stands at a fault, nor has ended in an earlier placement of its team. -/
theorem holds_false {q : RefBlock} (h : q.started = false ∧ q.fault = false ∧ (q.begun = true → q.code = none)) :
    q.holds = false := by
  obtain ⟨hs, hf, hc⟩ := h
  rw [RefBlock.holds, hs, hf]
  cases hb : q.begun with
  | false => rfl
  | true => rw [hc hb]; rfl

theorem refineBlockStart_starts {b : RefBlock}
    (h : ∀ q ∈ (s.die die).blocks, q.started = false ∧ q.fault = false ∧ (q.begun = true → q.code = none))
    (hb : (s.die die).blocks.find? (fun b => b.code.isNone) = some b) :
    ∃ t, exec (.refineBlockStart die) s = .next t ∧ { t with dies := s.dies } = s ∧
      (t.die die).blocks.length = (s.die die).blocks.length ∧
      ∀ (n : Nat) q, (s.die die).blocks[n]? = some q → ∃ r, (t.die die).blocks[n]? = some r ∧
        (q.id ≠ b.id → r = q) ∧ (q.id = b.id →
        r.started = true ∧ r.begun = true ∧ (q.kind ≠ 2 → r = { q with started := true, begun := true }) ∧
        (q.kind = 2 → r.code = some (if q.bad = 0 then 8 else 0x10))) := by
  have hh : (s.die die).blocks.any RefBlock.holds = false :=
    List.any_eq_false.2 (fun q hq => by rw [holds_false (h q hq)]; exact Bool.false_ne_true)
  refine ⟨_, refineBlockStart_free hh hb, rfl, by rw [blocks_modBlock, List.length_map], fun n q hq => ?_⟩
  refine ⟨if q.id = b.id then q.starts else q, by rw [blocks_modBlock, List.getElem?_map, hq]; rfl,
    fun hne => if_neg hne, fun he => ?_⟩
  rw [if_pos he]
  exact ⟨(starts_running q).1, (starts_running q).2, starts_cases q⟩

/-- A block holds the controller, or none is left to start. -/
theorem refineBlockStart_stays (h : (∃ q ∈ (s.die die).blocks,
      q.started = true ∨ q.fault = true ∨ (q.begun = true ∧ q.code.isSome = true)) ∨
    (∀ q ∈ (s.die die).blocks, q.code.isSome = true)) : exec (.refineBlockStart die) s = .next s := by
  rw [show exec (.refineBlockStart die) s = execRefineBlockStart die s from rfl, execRefineBlockStart]
  dsimp only
  rcases h with ⟨q, hq, hold⟩ | hall
  · refine if_pos (List.any_eq_true.2 ⟨q, hq, ?_⟩)
    simpa [RefBlock.holds, or_assoc] using hold
  · have hnone : (s.die die).blocks.find? (fun b => b.code.isNone) = none :=
      List.find?_eq_none.2 (fun q hq => by simpa [Option.isSome_iff_ne_none] using hall q hq)
    rw [hnone]
    exact ite_self _
end

/-! ### The end of an item (11 R376, R378) -/

/-- Firmware's answer as a block finds it. -/
theorem answered_goes {b : RefBlock} (h : b.fault = false ∨ b.action = some 0) : b.answered = some none := by
  unfold RefBlock.answered
  rcases h with h | h
  · rw [h]; rfl
  · rw [h]; cases b.fault <;> rfl

theorem answered_fault {b : RefBlock} (hf : b.fault = true) {a c : Nat} (ha : b.action = some a)
    (hc : a = 1 ∧ c = 0x11 ∨ a = 2 ∧ c = 0x12) :
    b.answered = some (some c) := by
  unfold RefBlock.answered
  rw [hf, ha]
  rcases hc with ⟨rfl, rfl⟩ | ⟨rfl, rfl⟩ <;> rfl

/-- The block whose item the controller does. -/
def Die.running (d : Die) : Option RefBlock := d.blocks.find? (fun b => b.started && b.code.isNone)

section
variable {s : State} {die : Nat} {b : RefBlock} (hb : (s.die die).running = some b)
include hb

/-- The controller stands at an access that firmware has not answered. -/
theorem refineItemEnd_stuck (hf : b.fault = true) (ha : b.action = none) : exec (.refineItemEnd die) s = .next s := by
  have hstuck : (s.die die).refStuck = true :=
    List.any_eq_true.2 ⟨b, List.mem_of_find?_eq_some hb, by rw [hf, ha]; rfl⟩
  rw [Die.running] at hb
  rw [show exec (.refineItemEnd die) s = execRefineItemEnd die s from rfl, execRefineItemEnd, hb]
  exact if_pos hstuck

section
variable (hs : (s.die die).refStuck = false)
include hs

/-- Firmware has ended the block. -/
theorem refineItemEnd_stops {c : Nat} (h : b.answered = some (some c)) :
    exec (.refineItemEnd die) s = .next (s.modBlock b.id (fun b => b.stop c)) := by
  rw [Die.running] at hb
  rw [show exec (.refineItemEnd die) s = execRefineItemEnd die s from rfl, execRefineItemEnd, hb]
  dsimp only
  rw [hs, if_neg Bool.false_ne_true, h]

/-- The block goes on, unless it has been cancelled. -/
theorem refineItemEnd_goes (h : b.answered = some none) : exec (.refineItemEnd die) s =
    if b.cancel = true then .next (s.modBlock b.id (fun b => b.stop 6))
    else .next ((s.modBlock b.id (fun b => { b with fault := false, action := none })).refineItem
      { b with fault := false, action := none }) := by
  rw [Die.running] at hb
  rw [show exec (.refineItemEnd die) s = execRefineItemEnd die s from rfl, execRefineItemEnd, hb]
  dsimp only
  rw [hs, if_neg Bool.false_ne_true, h]
end
end

/-! ### What an item reads (11 R376, R378) -/

/-- A block that has read the bytes of one more access. -/
def RefBlock.reads (b : RefBlock) (got : List (List Byte)) : RefBlock := { b with asked := none, got := got }

section
variable {s u : State} {b : RefBlock} {k : Nat} {as : List Nat} {bs : List (Byte × Bool)}
  {h : State → RefBlock → List Byte → State}

theorem withBytes_had {w : List Byte} (hg : b.got[k]? = some w) : s.withBytes b k as h = h s b w := by
  rw [State.withBytes, hg]

section
variable (hg : b.got[k]? = none) (hr : s.engineRead (s.teamAgent b.core b.ctx (some b.team)) as = (u, .data bs))
include hg hr

theorem withBytes_poisoned (hp : ∃ e ∈ bs, e.2 = true) : s.withBytes b k as h = u.modBlock b.id (fun b => b.stop 0x12) := by
  rw [State.withBytes, hg]
  dsimp only
  rw [hr]
  exact if_pos (List.any_eq_true.2 hp)

theorem withBytes_reads (hp : ∀ e ∈ bs, e.2 = false) : s.withBytes b k as h =
    h (u.modBlock b.id (fun q => q.reads (b.got ++ [bs.map (·.1)]))) (b.reads (b.got ++ [bs.map (·.1)])) (bs.map (·.1)) := by
  rw [State.withBytes, hg]
  dsimp only
  rw [hr]
  exact if_neg (fun hany => by
    obtain ⟨e, he, ht⟩ := List.any_eq_true.1 hany
    exact Bool.false_ne_true ((hp e he).symm.trans ht))
end
end

/-- An item that has read its part of W goes on; one that has not reads it first, and meets the poison there. -/
theorem refineItem_reads {s u : State} {b : RefBlock} {bs : List (Byte × Bool)} (hg : b.got = [])
    (hr : s.engineRead (s.teamAgent b.core b.ctx (some b.team)) (b.wBytes b.wGets) = (u, .data bs)) :
    ((∃ e ∈ bs, e.2 = true) → s.refineItem b = u.modBlock b.id (fun b => b.stop 0x12)) ∧
    ((∀ e ∈ bs, e.2 = false) → s.refineItem b =
      (u.modBlock b.id (fun q => q.reads [bs.map (·.1)])).refineItem (b.reads [bs.map (·.1)])) := by
  have h0 : b.got[0]? = none := by rw [hg]; rfl
  refine ⟨fun hp => withBytes_poisoned h0 hr hp, fun hp => (withBytes_reads h0 hr hp).trans ?_⟩
  rw [hg]
  rfl

section
variable {s u : State} {b : RefBlock} {w : List Byte} (hg : b.got = [w])
include hg

theorem got_first : b.got[0]? = some w := by rw [hg]; rfl

/-- The values of an item, read after its part of W. -/
theorem withValues_reads {as : List Nat} {bs : List (Byte × Bool)} (f : List FVal → RefBlock → RefBlock)
    (hr : s.engineRead (s.teamAgent b.core b.ctx (some b.team)) (b.bytesAt as) = (u, .data bs)) (hp : ∀ e ∈ bs, e.2 = false) :
    s.withValues b as f =
      (u.modBlock b.id (fun q => q.reads [w, bs.map (·.1)])).putItem (b.reads [w, bs.map (·.1)]) (f (b.values (bs.map (·.1)))) := by
  refine (withBytes_reads (by rw [hg]; rfl) hr hp).trans ?_
  rw [hg]
  rfl

/-- 11 R366: a row of A is narrowed into T. -/
theorem refineItem_form {i : Nat} {bs : List (Byte × Bool)} (hpos : b.pos = .form i)
    (hr : s.engineRead (s.teamAgent b.core b.ctx (some b.team)) (b.bytesAt (b.rowAddrs i)) = (u, .data bs))
    (hp : ∀ e ∈ bs, e.2 = false) :
    s.refineItem b = (u.modBlock b.id (fun q => q.reads [w, bs.map (·.1)])).putItem (b.reads [w, bs.map (·.1)]) (fun q =>
        { (((b.values (bs.map (·.1))).map narrow32).zipIdx).foldl (fun (q : RefBlock) (e : Nat × Nat) => q.putT i e.2 e.1) q with
          pos := if q.lu = true then (if i + 1 < q.n then .form (i + 1) else .pivot 0) else .mirror i }) := by
  refine (withBytes_had (got_first hg)).trans ?_
  rw [hpos]
  refine (withValues_reads hg _ hr hp).trans (congrArg (State.putItem _ _) (funext fun q => ?_))
  dsimp only
  rw [putT_run]
  rfl

/-- 11 R367: the forward step on a column of B. -/
theorem refineItem_fwd {c : Nat} {bs : List (Byte × Bool)} (hpos : b.pos = .fwd false c)
    (hr : s.engineRead (s.teamAgent b.core b.ctx (some b.team)) (b.bytesAt (b.colAddrs b.baddr b.bcs c)) = (u, .data bs))
    (hp : ∀ e ∈ bs, e.2 = false) :
    s.refineItem b = (u.modBlock b.id (fun q => q.reads [w, bs.map (·.1)])).putItem (b.reads [w, bs.map (·.1)]) (fun q =>
        { q with y := q.forward ((b.values (bs.map (·.1))).map narrow32), pos := .bwd false c }) := by
  refine (withBytes_had (got_first hg)).trans ?_
  rw [hpos]
  exact withValues_reads hg _ hr hp

/-- 11 R368: the residual of a column. -/
theorem refineItem_resid {c : Nat} {bs : List (Byte × Bool)} (hpos : b.pos = .resid c)
    (hr : s.engineRead (s.teamAgent b.core b.ctx (some b.team)) (b.bytesAt (b.colAddrs b.baddr b.bcs c ++
      ((List.range b.n).map (fun i => (List.range b.n).map (fun k => b.aOf i k))).flatten)) = (u, .data bs))
    (hp : ∀ e ∈ bs, e.2 = false) :
    s.refineItem b = (u.modBlock b.id (fun q => q.reads [w, bs.map (·.1)])).putItem (b.reads [w, bs.map (·.1)]) (fun q =>
        let cs := (b.values (bs.map (·.1))).map code64
        q.residItem c (cs.take q.n) ((List.range q.n).map (fun i => residual q.exact ((cs.take q.n).getD i 0)
          ((cs.drop (q.n + i * q.n)).take q.n) ((List.range q.n).map (fun i => tabGet 0 (c * q.n + i) q.x))))) := by
  refine (withBytes_had (got_first hg)).trans ?_
  rw [hpos]
  exact withValues_reads hg _ hr hp

/-- 11 R367, R369: the items that read W alone. -/
theorem refineItem_inside (c : Nat) :
    (b.pos = .fwd true c → s.refineItem b = s.putItem b (fun q =>
      { q with y := q.forward ((List.range q.n).map (fun i => narrow32 (fVal 1 (tabGet 0 (c * q.n + i) q.r)))),
               pos := .bwd true c })) ∧
    (∀ corr, b.pos = .bwd corr c → s.refineItem b = s.putItem b (fun q => { q with y := q.backward q.y, pos := .add corr c })) ∧
    (∀ corr, b.pos = .add corr c → s.refineItem b = s.putItem b (fun q => q.addItem corr c)) ∧
    (b.pos = .judge → s.refineItem b = s.putItem b RefBlock.judgeItem) := by
  have hgo := fun h => withBytes_had (s := s) (as := b.wBytes b.wGets) (h := h) (got_first hg)
  exact ⟨fun hpos => (hgo _).trans (by rw [hpos]), fun corr hpos => (hgo _).trans (by rw [hpos]; rfl),
    fun corr hpos => (hgo _).trans (by rw [hpos]), fun hpos => (hgo _).trans (by rw [hpos])⟩
end

/-- 11 R376: an item writes bytes of its part of W alone, and is done to its block. -/
theorem putItem_leaves {s v : State} {b : RefBlock} (f : RefBlock → RefBlock) {pas : List Nat}
    (hfound : s.engineCheck (s.teamAgent b.core b.ctx (some b.team)) (engineAcc true) (b.wBytes b.wPuts) = (v, pas.map foundMem, none))
    (hheld : v.placesHeld (some b.team) (pas.map foundMem) = false) (hl : v.lcache = []) :
    ∃ u : State, s.putItem b f = u.modBlock b.id (fun q => { f q with asked := none, got := [] }) ∧
      (∀ d, (u.die d).blocks = (v.die d).blocks) ∧ ∀ pa, pa ∉ pas → u.memByte pa = v.memByte pa := by
  obtain ⟨vs, hput⟩ := putItem_mem f hfound hheld
  have hf : ({ v with free := v.free + pas.length } : State).lcForeign := lcForeign_nil hl
  refine ⟨_, hput, fun d => ?_, fun pa hpa => engineWrite_other _ hf hpa⟩
  rw [State.die, dies_engineWrite]
  rfl

end Sys2Proof.Machine
end

section
/-! SUPPORT. The end of a refinement block (11 R370, R371): its stages, its status record, and the trap that it leaves. -/

namespace Sys2Proof.Machine

/-! ### Which block may end (11 R378) -/

theorem mayEnd_iff (d : Die) (b : RefBlock) : d.mayEnd b = true ↔ b.code.isSome = true ∧ b.answered.isSome = true ∧
    (b.started = true ∨ b.begun = false ∨ ∀ q ∈ d.blocks, q.started = false) := by
  simp [Die.mayEnd, and_assoc, or_assoc]

theorem refineBlockEnd_writes {s : State} {die : Nat} {b : RefBlock} {bad : Option Nat}
    (hb : (s.die die).blocks.find? (s.die die).mayEnd = some b) (ha : b.answered = some bad) (hs : (s.die die).refStuck = false) :
    exec (.refineBlockEnd die) s =
      .next ((s.modBlock b.id (fun b => { b with fault := false, action := none })).endStage
        { b with fault := false, action := none } bad) := by
  rw [show exec (.refineBlockEnd die) s = execRefineBlockEnd die s from rfl, execRefineBlockEnd, hb]
  dsimp only
  rw [hs, if_neg Bool.false_ne_true, ha]

/-! ### The stages (11 R370) -/

/-- A block whose end write has been made, `f` done to it. -/
def RefBlock.staged (f : RefBlock → RefBlock) (b : RefBlock) : RefBlock :=
  { f b with stage := b.stage + 1, fault := false, action := none, asked := none }

section
variable {s v : State} {b : RefBlock} {it : Tab Nat}

theorem writesX_iff (b : RefBlock) (it : Tab Nat) :
    b.writesX = some it ↔ ∃ c e, b.code = some c ∧ 1 ≤ c ∧ c ≤ 5 ∧ b.result = some (e, it) := by
  unfold RefBlock.writesX
  cases hc : b.code with
  | none => simp
  | some c =>
    by_cases h : 1 ≤ c ∧ c ≤ 5
    · simp [h.1, h.2]
    · have hno : ¬ ∃ c' e, some c = some c' ∧ 1 ≤ c' ∧ c' ≤ 5 ∧ b.result = some (e, it) := by
        rintro ⟨c', e, hcc, h1, h5, -⟩
        obtain rfl := Option.some.inj hcc
        exact h ⟨h1, h5⟩
      simp only [h, if_false, hno, reduceCtorEq]

/-- No iterate is written. -/
theorem endStage_noX (h0 : b.stage = 0) (hx : b.writesX = none) (bad : Option Nat) :
    s.endStage b bad = s.modBlock b.id (RefBlock.staged id) := by
  unfold State.endStage
  rw [h0, hx]
  rfl

section
variable (h0 : b.stage = 0) (hx : b.writesX = some it)
include h0 hx

theorem endStage_X_done (h : s.endWrite b false b.xAddrs (b.xBytes it) = .ok (v, none)) :
    s.endStage b none = v.modBlock b.id (RefBlock.staged (fun b => { b with havex := true })) := by
  unfold State.endStage
  rw [h0, hx]
  dsimp only
  rw [h]
  rfl

theorem endStage_X_fails {c : Nat} (h : s.endWrite b false b.xAddrs (b.xBytes it) = .ok (v, some c)) :
    s.endStage b none = v.modBlock b.id (RefBlock.staged (fun b => { b with code := some c })) := by
  unfold State.endStage
  rw [h0, hx]
  dsimp only
  rw [h]
  rfl

theorem endStage_X_failed (c : Nat) : s.endStage b (some c) =
    s.modBlock b.id (RefBlock.staged (fun b => { b with code := some c })) := by
  unfold State.endStage
  rw [h0, hx]
  rfl
end

/-- Zeros to the workspace. -/
theorem endStage_W (h1 : b.stage = 1) (hk : b.kind = 0) (hb : b.begun = true)
    (h : s.endWrite b false ((List.range b.wlen).map (b.waddr + ·)) (List.replicate b.wlen 0) = .ok (v, none)) :
    s.endStage b none = v.modBlock b.id (RefBlock.staged id) := by
  unfold State.endStage
  rw [h1]
  refine (if_neg ?_).trans ?_
  · rw [hk, hb]; decide
  · rw [h]
    rfl

/-- A block whose delivery of a trap has been decided (11 R371). -/
def State.delivers (s : State) (b : RefBlock) : RefBlock :=
  let code := b.code.getD 0
  { b with deliv := (b.w 6).testBit 53 && (code == 2 || code == 3 || code == 5) && s.posterLives b.core b.slot b.team }

section
variable (h0 : b.stage ≠ 0) (h1 : b.stage ≠ 1)
include h0 h1

/-- The status record has been written. -/
theorem endStage_record {r : Option Nat}
    (h : s.endWrite (s.delivers b) true ((List.range 64).map ((s.delivers b).saddr + ·))
      (((s.delivers b).record.map (leBytes 8)).flatten) =
      .ok (v, r)) :
    s.endStage b none = v.endBlock (s.delivers b) := by
  dsimp only [State.delivers] at h ⊢
  rw [← bitAt_testBit] at h ⊢
  unfold State.endStage
  split
  · exact absurd ‹_› h0
  · exact absurd ‹_› h1
  · dsimp only
    rw [h]
    rfl

/-- Firmware has failed the write of the status record. -/
theorem endStage_record_failed (c : Nat) : s.endStage b (some c) = s.endBlock (s.delivers b) := by
  dsimp only [State.delivers]
  rw [← bitAt_testBit]
  unfold State.endStage
  split
  · exact absurd ‹_› h0
  · exact absurd ‹_› h1
  · rfl
end
end

/-! ### The status record (11 Table 4) -/

/-- Numbers packed as the fields of a word. -/
theorem packed_mod (w : Nat) (l : List Nat) : l.foldr (fun v a => v % 2 ^ w + 2 ^ w * a) 0 = packed w (l.map (· % 2 ^ w)) := by
  rw [packed, List.foldr_map]

theorem packed_field (w : Nat) (l : List Nat) (i : Nat) :
    l.foldr (fun v a => v % 2 ^ w + 2 ^ w * a) 0 / 2 ^ (w * i) % 2 ^ w = l.getD i 0 % 2 ^ w := by
  have hlt : ∀ v ∈ l.map (· % 2 ^ w), v < 2 ^ w := fun v hv => by
    obtain ⟨u, -, rfl⟩ := List.mem_map.1 hv
    exact Nat.mod_lt _ (by positivity)
  rw [packed_mod, packed_get hlt, List.getD_eq_getElem?_getD, List.getD_eq_getElem?_getD, List.getElem?_map]
  cases l[i]? <;> simp

/-- The first word of the record, flag by flag. -/
theorem record_status (b : RefBlock) : b.record.getD 0 0 = b.code.getD 0 + b.rung * 2 ^ 8 + b.iter % 2 ^ 16 * 2 ^ 16 + b.esc * 2 ^ 32 +
    (if b.deliv then 2 ^ 40 else 0) + (if b.havex then 2 ^ 41 else 0) + (if b.code = some 7 ∧ b.pass = true then 2 ^ 42 else 0) +
    (if b.code = some 0x10 then b.bad * 2 ^ 56 else 0) := by
  have hbit : ∀ (c : Bool) n, bit c * 2 ^ n = if c then 2 ^ n else 0 := fun c n => by cases c <;> simp [bit]
  have hcode : ∀ k, k ≠ 0 → (b.code.getD 0 = k ↔ b.code = some k) := fun k hk => by
    cases b.code with
    | none => simpa using hk.symm
    | some c => simp
  have hpass : (b.code.getD 0 == 7 && b.pass) = true ↔ b.code = some 7 ∧ b.pass = true := by
    rw [Bool.and_eq_true, beq_iff_eq, hcode 7 (by decide)]
  unfold RefBlock.record
  simp only [hbit, hpass, hcode 0x10 (by decide)]
  rfl

theorem record_fields (b : RefBlock) : b.record.length = 8 ∧
    b.record.getD 0 0 = b.code.getD 0 + b.rung * 2 ^ 8 + b.iter % 2 ^ 16 * 2 ^ 16 + b.esc * 2 ^ 32 +
      (if b.deliv then 2 ^ 40 else 0) + (if b.havex then 2 ^ 41 else 0) + (if b.code = some 7 ∧ b.pass = true then 2 ^ 42 else 0) +
      (if b.code = some 0x10 then b.bad * 2 ^ 56 else 0) ∧
    b.record.getD 1 0 = (match b.result, b.best with
      | some r, _ => r.1
      | none, some r => r.1
      | none, none => inf64) ∧
    b.record.getD 2 0 = b.eta0.getD inf64 ∧ b.record.getD 3 0 = b.nb ∧
    (b.riter.length = 4 → ∀ i, i < 4 → b.record.getD 4 0 / 2 ^ (16 * i) % 2 ^ 16 = b.riter.getD i 0 % 2 ^ 16) ∧
    (b.leave.length = 4 → ∀ i, i < 4 → b.record.getD 5 0 / 2 ^ (8 * i) % 2 ^ 8 = b.leave.getD i 0 % 2 ^ 8) ∧
    b.record.getD 6 0 = 0 ∧ b.record.getD 7 0 = 0 := by
  refine ⟨rfl, record_status b, ?_, rfl, rfl, fun _ i _ => packed_field 16 b.riter i,
    fun _ i _ => packed_field 8 b.leave i, rfl, rfl⟩
  unfold RefBlock.record
  cases b.result <;> cases b.best <;> rfl

/-! ### The bytes of X (11 R370) -/

/-- Runs of one length, put one after the other. -/
theorem getD_flatten {α : Type} {m : Nat} {ls : List (List α)} (h : ∀ l ∈ ls, l.length = m) (d : α) (k : Nat)
    {j : Nat} (hj : j < m) :
    ls.flatten.getD (k * m + j) d = (ls.getD k []).getD j d := by
  induction ls generalizing k with
  | nil => simp
  | cons l ls ih =>
    obtain ⟨hl, hls⟩ := List.forall_mem_cons.1 h
    rw [List.flatten_cons]
    cases k with
    | zero =>
      rw [Nat.zero_mul, Nat.zero_add, List.getD_append _ _ _ _ (by omega)]
      rfl
    | succ k =>
      rw [List.getD_append_right _ _ _ _ (by rw [hl, Nat.succ_mul]; omega), hl, Nat.succ_mul,
        show k * m + m + j - m = k * m + j by omega, ih hls, List.getD_cons_succ]

theorem length_flatten {α : Type} {m : Nat} {ls : List (List α)} (h : ∀ l ∈ ls, l.length = m) :
    ls.flatten.length = ls.length * m := by
  rw [List.length_flatten, List.map_congr_left h, List.map_const', List.sum_replicate, smul_eq_mul]

/-- A place of a run among runs of one length. -/
theorem run_lt {n m i c : Nat} (hi : i < n) (hc : c < m) : c * n + i < m * n :=
  calc c * n + i < (c + 1) * n := by rw [Nat.succ_mul]; omega
    _ ≤ m * n := Nat.mul_le_mul_right n hc

theorem getD_map_lt {α β : Type} (f : α → β) (a : α) (d : β) {l : List α} {k : Nat} (h : k < l.length) :
    (l.map f).getD k d = f (l.getD k a) := by
  rw [List.getD_eq_getElem _ _ (by rwa [List.length_map]), List.getElem_map, List.getD_eq_getElem _ _ h]

theorem getD_map_range {α : Type} (f : Nat → α) (d : α) {n k : Nat} (h : k < n) : ((List.range n).map f).getD k d = f k := by
  rw [getD_map_lt f 0 d (by rwa [List.length_range]), List.getD_eq_getElem _ _ (by rwa [List.length_range]), List.getElem_range]

section
variable (b : RefBlock) {i c j : Nat} (hi : i < b.n) (hc : c < b.nrhs)
include hi hc

theorem xAddrs_at (hj : j < b.esz) : b.xAddrs.getD ((c * b.n + i) * b.esz + j) 0 = b.xaddr + c * b.xcs + i * b.esz + j := by
  have hcols : ∀ l ∈ (List.range b.nrhs).map (b.colAddrs b.xaddr b.xcs), l.length = b.n := fun l hl => by
    obtain ⟨k, -, rfl⟩ := List.mem_map.1 hl
    simp [RefBlock.colAddrs]
  have haddr : ((List.range b.nrhs).map (b.colAddrs b.xaddr b.xcs)).flatten.getD (c * b.n + i) 0 =
      b.xaddr + c * b.xcs + i * b.esz := by
    rw [getD_flatten hcols 0 c hi, getD_map_range _ _ hc, RefBlock.colAddrs, getD_map_range _ _ hi]
  have hlen : c * b.n + i < ((List.range b.nrhs).map (b.colAddrs b.xaddr b.xcs)).flatten.length := by
    rw [length_flatten hcols, List.length_map, List.length_range]
    exact run_lt hi hc
  have hbytes : ∀ l ∈ ((List.range b.nrhs).map (b.colAddrs b.xaddr b.xcs)).flatten.map (fun a => (List.range b.esz).map (a + ·)),
      l.length = b.esz := fun l hl => by
    obtain ⟨a, -, rfl⟩ := List.mem_map.1 hl
    simp
  rw [RefBlock.xAddrs, RefBlock.bytesAt, getD_flatten hbytes 0 _ hj, getD_map_lt _ 0 _ hlen, haddr, getD_map_range _ _ hj]

theorem xBytes_at (it : Tab Nat) (hj : j < b.esz) : (b.xBytes it).getD ((c * b.n + i) * b.esz + j) 0 =
    BitVec.ofNat 8 ((fConvert b.fty rne (fVal 1 (tabGet 0 (c * b.n + i) it))).1 / 2 ^ (8 * j)) := by
  have hbytes : ∀ l ∈ (List.range (b.nrhs * b.n)).map (fun k => leBytes b.esz (fConvert b.fty rne (fVal 1 (tabGet 0 k it))).1),
      l.length = b.esz := fun l hl => by
    obtain ⟨a, -, rfl⟩ := List.mem_map.1 hl
    exact leBytes_length _ _
  rw [RefBlock.xBytes, getD_flatten hbytes 0 _ hj, getD_map_range _ _ (run_lt hi hc),
    List.getD_eq_getElem?_getD, leBytes_getElem?, if_pos hj]
  rfl
end

/-! ### The trap is delivered (11 R371) -/

/-- A change of RFTRAP leaves the threads of its weave. -/
theorem thread_rfTrap (v : State) (c w l : Nat) (a : DWord) :
    (v.modWeave c w (fun x => { x with rfTrap := a })).thread c w l = v.thread c w l :=
  (thread_modWeave_at ..).trans (if_pos ⟨rfl, rfl⟩)

section
variable {s : State} {i d : Nat} {e : RefTrap} (h : s.refTraps[i]? = some (d, e))
include h

/-- Every lane of the posting weave has exited. -/
theorem refineTrap_dropped (hl : s.posterLives e.core e.slot e.team = false) :
    exec (.refineTrapDelivery i) s = .next (s.modDie d (fun x => { x with traps := x.traps.erase e })) := by
  rw [show exec (.refineTrapDelivery i) s = execRefineTrapDelivery i s from rfl, execRefineTrapDelivery, h]
  dsimp only
  rw [hl]
  rfl

section
variable (hl : s.posterLives e.core e.slot e.team = true)
include hl

/-- The weave is in its handler, or an atomic of a speculating lane is on its way. -/
theorem refineTrap_waits (hw : (s.weave e.core e.slot).trH = true ∨ s.rollWaits e.core e.slot = true) :
    exec (.refineTrapDelivery i) s = .next s := by
  rw [show exec (.refineTrapDelivery i) s = execRefineTrapDelivery i s from rfl, execRefineTrapDelivery, h]
  dsimp only
  rw [hl, if_neg (by decide), if_pos (Bool.or_eq_true_iff.2 hw)]

theorem refineTrap_enters (hh : (s.weave e.core e.slot).trH = false) (hr : s.rollWaits e.core e.slot = false) :
    let v := (s.modDie d (fun x => { x with traps := x.traps.erase e })).rollWeave e.core e.slot
    let live := (v.weave e.core e.slot).live
    exec (.refineTrapDelivery i) s = .next ((v.modWeave e.core e.slot (fun w => { w with rfTrap := e.addr })).trapEntry
      e.core e.slot live [e.lane] 3 0x20
      (v.thread e.core e.slot (if live.contains e.lane then e.lane else live.headD 0)).ctl.pc) := by
  intro v live
  rw [show exec (.refineTrapDelivery i) s = execRefineTrapDelivery i s from rfl, execRefineTrapDelivery, h]
  dsimp -zeta only
  refine (if_neg ?_).trans ((if_neg ?_).trans ?_)
  · rw [hl]; decide
  · rw [hh, hr]; decide
  · extract_lets lane u
    have hu : u = v.modWeave e.core e.slot (fun w => { w with rfTrap := e.addr }) := rfl
    clear_value v u
    rw [hu, thread_rfTrap, trapArith]
end
end

/-! ### The obligation -/

/-- Settles O47, event by event, and an item or an end stage of a block by what its accesses read and write. -/
theorem refinementBlocksRun : Obligations.RefinementBlocksRun := by
  refine ⟨fun s die b => refineBlockStart_starts, fun s die => refineBlockStart_stays, fun s die b => refineItemEnd_stuck,
    fun s die b hb hf ha hs => refineItemEnd_stops hb hs (answered_fault hf ha (.inl ⟨rfl, rfl⟩)),
    fun s die b hb hf ha hs => refineItemEnd_stops hb hs (answered_fault hf ha (.inr ⟨rfl, rfl⟩)),
    fun s die b hb h hs hc => (refineItemEnd_goes hb hs (answered_goes h)).trans (if_pos hc),
    fun s die b hb h hs hc => (refineItemEnd_goes hb hs (answered_goes h)).trans (if_neg (ne_true_of_eq_false hc)),
    stop_leaves, blocks_modBlock, fun s die b bad => refineBlockEnd_writes, fun s b h0 hx bad => endStage_noX h0 hx bad,
    fun s b v => endStage_W, mayEnd_iff,
    fun s v b it h0 hx => ⟨endStage_X_done h0 hx, fun c => endStage_X_fails h0 hx, endStage_X_failed h0 hx⟩,
    writesX_iff, fun b it i c j hi hc hj _ => ⟨xAddrs_at b hi hc hj, xBytes_at b hi hc it hj⟩,
    fun s v b r h0 h1 => ⟨endStage_record h0 h1, endStage_record_failed h0 h1⟩, record_fields, ?_, ?_, ?_, tm_row, ?_, ?_,
    fun b v i hi => forward_row b hi v, fun b y i hi => backward_row b hi y, fun b corr c i hi => addItem_entry b hi corr c, ?_,
    residItem_leaves, ?_, endBlock_leaves, fun s i d e => refineTrap_dropped, fun s i d e => refineTrap_waits,
    fun s i d e => refineTrap_enters⟩
  · intro s v b whole as bs pas hfound hheld hclean hn hlen _ hl
    exact ⟨_, endWrite_mem whole hfound hheld hclean hlen, fun j => engineWrite_at _ (lcForeign_nil hl) hn hlen,
      fun pa => engineWrite_other _ (lcForeign_nil hl)⟩
  · exact fun s u b bs => refineItem_reads
  · exact fun s u b i w bs hpos hg hr hp => refineItem_form hg hpos hr hp
  · exact fun s u b c w bs hpos hg hr hp => refineItem_fwd hg hpos hr hp
  · exact fun s b c w hg => refineItem_inside hg c
  · exact fun s u b c w bs hpos hg hr hp => refineItem_resid hg hpos hr hp
  · exact fun s v b f pas hfound hheld _ hl => putItem_leaves f hfound hheld hl

end Sys2Proof.Machine
end

section
/-! SUPPORT. The statement on links, hosts and Ethernet speaks of every lease cache, one that holds a line of the package's own
memory included. -/

namespace Sys2Proof.Machine

/-- Port 0 has a ring of one record at address 0, and the lease cache holds that line with byte 0 written. -/
def ringLineCached : State :=
  { ether := [(0, { size := 64 })], lcache := [{ line := 0, slot := 0, dirty := [(0, 1)] }] }

/-- The places of the record's bytes are distinct bytes of the package's own memory. -/
theorem ringLineCached_places :
    (∀ i, i < 64 → ringLineCached.place (ringLineCached.fabric (0 + (0 + i) % 64)) =
        .mem (ringLineCached.fabric (0 + (0 + i) % 64)) ∧
      ringLineCached.isLocal (ringLineCached.fabric (0 + (0 + i) % 64)) = true) ∧
    ((List.range 64).map (fun i => ringLineCached.fabric (0 + (0 + i) % 64))).Nodup := by
  decide +kernel

/-- An empty frame's record is written to memory, and byte 0 still reads as the cached line's. -/
theorem memByte_ringLineCached :
    (match exec (.ethernetFrameReceive 0 [] true 0) ringLineCached with
      | .next t => t.memByte 0
      | _ => 0) = 1 := by
  decide +kernel

/-- Refutes O52: its clause on a frame that is written to its ring says that every byte of the record reads back. It does not
say that the lease cache is empty, as its clause on the writes of a host does, and a line held there hides the byte written. In
the state `ringLineCached` the record's first byte is 0 and reads as 1. -/
theorem not_linksHostsAndEthernet : ¬ Obligations.LinksHostsAndEthernet := by
  intro h
  obtain ⟨-, -, -, -, -, -, -, -, -, -, -, -, -, -, -, -, -, -, frame, -⟩ := h
  obtain ⟨hplaces, hdistinct⟩ := ringLineCached_places
  obtain ⟨t, ht, -, hwritten⟩ := frame ringLineCached 0 [] 0 (by decide) (by decide) (by decide) (by simp [ringLineCached]) rfl rfl rfl
  have hbyte := (hwritten (by decide)).2 hplaces hdistinct 0 (by decide)
  have hread := memByte_ringLineCached
  rw [ht] at hread
  exact absurd (hbyte.symm.trans hread) (by decide)

end Sys2Proof.Machine
end

section
/-! SUPPORT. The lease protocol (13 R417 to R425): a recall of tenure changes cores and directories alone, lines that leave the
caches change memory, the lease cache, the holds and the cores alone, and each event then changes its own entry. -/

namespace Sys2Proof.Machine

/-! ### What a recall and a write-back leave -/

/-- A projection that each step of a fold leaves is left by the fold. -/
theorem foldl_leaves {α β : Type} (p : State → β) (f : State → α → State) (h : ∀ s a, p (f s a) = p s) (ls : List α) (s : State) :
    p (ls.foldl f s) = p s := by
  induction ls generalizing s with
  | nil => rfl
  | cons a t ih => rw [List.foldl_cons, ih, h]

/-- What a recall of tenure leaves of the state. -/
def State.untenured (s : State) : State := { s with cores := [], dirs := [] }
/-- What lines that leave the caches and a lease shootdown leave of that. -/
def State.unlined (s : State) : State := { s.untenured with mem := [], lcache := [], holds := [], dies := [] }

theorem unlined_of {s t : State} (h : t.untenured = s.untenured) : t.unlined = s.unlined :=
  (congrArg (fun u : State => u.unlined) h :)

theorem modTeam_untenured (s : State) (t : Nat) (g : Team → Team) : (s.modTeam t g).untenured = s.untenured := by
  unfold State.modTeam
  split <;> rfl

theorem recallWhole_untenured (s : State) (t n : Nat) : (s.recallWhole t n).untenured = s.untenured :=
  modTeam_untenured s t _

theorem recallExtent_untenured (s : State) (lo len : Nat) : (s.recallExtent lo len).untenured = s.untenured := by
  unfold State.recallExtent
  rw [foldl_leaves State.untenured]
  exact fun s d => recallWhole_untenured s d.team d.handle

theorem recallTenure_untenured (s : State) (p e : Nat) : (s.recallTenure p e).untenured = s.untenured := by
  unfold State.recallTenure
  split
  · rfl
  · exact recallExtent_untenured s _ _

theorem dropHolds_unlined (s : State) (p : Hold → Bool) : (s.dropHolds p).unlined = s.unlined := by
  unfold State.dropHolds
  rw [foldl_leaves State.unlined]
  · rfl
  · exact fun _ _ => rfl

theorem dropHolds_lcache (s : State) (p : Hold → Bool) : (s.dropHolds p).lcache = s.lcache := by
  unfold State.dropHolds
  rw [foldl_leaves State.lcache]
  exact fun _ _ => rfl

theorem dropHolds_holds (s : State) (p : Hold → Bool) : (s.dropHolds p).holds = s.holds.filter (fun h => !p h) := by
  unfold State.dropHolds
  rw [foldl_leaves State.holds]
  exact fun _ _ => rfl

theorem flushLines_unlined (ls : List CacheLine) (s : State) : (ls.foldl State.lcFlush s).unlined = s.unlined :=
  foldl_leaves State.unlined State.lcFlush (fun _ _ => rfl) ls s

theorem flushLines_holds (ls : List CacheLine) (s : State) : (ls.foldl State.lcFlush s).holds = s.holds :=
  foldl_leaves State.holds State.lcFlush (fun _ _ => rfl) ls s

/-- A line still cached after some have been written back stood there before, and is none of them. -/
theorem mem_flushLines {ls : List CacheLine} {s : State} {q : CacheLine} (h : q ∈ (ls.foldl State.lcFlush s).lcache) :
    q ∈ s.lcache ∧ ∀ c ∈ ls, q.line ≠ c.line := by
  induction ls generalizing s with
  | nil => exact ⟨h, by simp⟩
  | cons c t ih =>
    obtain ⟨hq, ht⟩ := ih (s := s.lcFlush c) h
    obtain ⟨hs, hc⟩ := List.mem_filter.1 (show q ∈ s.lcache.filter (fun x => x.line != c.line) from hq)
    exact ⟨hs, by simpa [show q.line ≠ c.line by simpa using hc] using ht⟩

theorem leaveLines_unlined (s : State) (p e : Nat) (keep : Bool) : (s.leaveLines p e keep).unlined = s.unlined := by
  unfold State.leaveLines
  dsimp only
  rw [dropHolds_unlined]
  split
  · exact flushLines_unlined _ s
  · rfl

/-- No line of the extent stays in the lease cache. -/
theorem leaveLines_lcache {s : State} {p e : Nat} {keep : Bool} {q : CacheLine} (h : q ∈ (s.leaveLines p e keep).lcache) :
    inExtent p e (q.line * 128) = false := by
  unfold State.leaveLines at h
  dsimp only at h
  rw [dropHolds_lcache] at h
  split at h
  · obtain ⟨hq, hline⟩ := mem_flushLines h
    by_contra hin
    exact hline q (List.mem_filter.2 ⟨hq, by simpa using hin⟩) rfl
  · simpa using (List.mem_filter.1 h).2

/-- No copy of a line of the extent stays under a hold. -/
theorem leaveLines_holds {s : State} {p e : Nat} {keep : Bool} {h : Hold} (hh : h ∈ (s.leaveLines p e keep).holds) :
    inExtent p e (h.line * 128) = false := by
  unfold State.leaveLines at hh
  dsimp only at hh
  rw [dropHolds_holds] at hh
  simpa using (List.mem_filter.1 hh).2

/-! ### Entries -/

theorem borrower_mod (s : State) (i k : Nat) (g : Lease → Lease) :
    (s.modBorrower i g).borrower k = if k = i then g (s.borrower i) else s.borrower k := tabGet_set ..

theorem lender_mod (s : State) (i k : Nat) (g : Lease → Lease) :
    (s.modLender i g).lender k = if k = i then g (s.lender i) else s.lender k := tabGet_set ..

theorem peer_mod (s : State) (i k : Nat) (g : Peer → Peer) :
    (s.modPeer i g).peer k = if k = i then g (s.peer i) else s.peer k := tabGet_set ..

theorem borrower_set {s t : State} {i : Nat} {l : Lease} (h : t.borrowers = tabSet i l s.borrowers) :
    t.borrower i = l ∧ ∀ k, k ≠ i → t.borrower k = s.borrower k := by
  unfold State.borrower
  rw [h]
  exact ⟨(tabGet_set ..).trans (if_pos rfl), fun k hk => (tabGet_set ..).trans (if_neg hk)⟩

theorem lender_set {s t : State} {e : Nat} {l : Lease} (h : t.lenders = tabSet e l s.lenders) :
    t.lender e = l ∧ ∀ k, k ≠ e → t.lender k = s.lender k := by
  unfold State.lender
  rw [h]
  exact ⟨(tabGet_set ..).trans (if_pos rfl), fun k hk => (tabGet_set ..).trans (if_neg hk)⟩

theorem peer_set {s t : State} {p : Nat} {q : Peer} (h : t.peers = tabSet p q s.peers) :
    t.peer p = q ∧ ∀ k, k ≠ p → t.peer k = s.peer k := by
  unfold State.peer
  rw [h]
  exact ⟨(tabGet_set ..).trans (if_pos rfl), fun k hk => (tabGet_set ..).trans (if_neg hk)⟩

/-- The entry after a change that comes behind one that leaves the table. -/
theorem borrower_after {s u : State} (hu : u.borrower = s.borrower) (i : Nat) (g : Lease → Lease) :
    (u.modBorrower i g).borrower i = g (s.borrower i) ∧ ∀ k, k ≠ i → (u.modBorrower i g).borrower k = s.borrower k := by
  rw [← hu]
  exact borrower_set rfl

theorem lender_after {s u : State} (hu : u.lender = s.lender) (e : Nat) (g : Lease → Lease) :
    (u.modLender e g).lender e = g (s.lender e) ∧ ∀ k, k ≠ e → (u.modLender e g).lender k = s.lender k := by
  rw [← hu]
  exact lender_set rfl

theorem borrower_unlined {s t : State} (h : t.unlined = s.unlined) : t.borrower = s.borrower := (congrArg State.borrower h :)
theorem lender_untenured {s t : State} (h : t.untenured = s.untenured) : t.lender = s.lender := (congrArg State.lender h :)

theorem heard_modPeer (s : State) (p : Nat) {g : Peer → Peer} {n : Nat} (h : ∀ q, (g q).heard = n) :
    ((s.modPeer p g).peer p).heard = n := by
  rw [peer_mod, if_pos rfl, h]

/-- A borrower entry that is freed for `cause` (13 Table 2). -/
def Lease.freed (b : Lease) (cause : Nat) : Lease :=
  { b with st := 0, cause := cause, ask := none, released := false, answer := if b.ask.isSome && cause == 3 then some 7 else b.answer }

/-- What is done before the entry is marked free: its lines leave, and no TLB keeps them. -/
def State.beforeFree (s : State) (i cause : Nat) : State :=
  let b := s.borrower i
  let s := (s.leaveLines b.peer b.ext (cause != 3)).leaseShoot i
  if b.st = 1 ∨ cause = 3 then s else s.modPeer b.peer (fun p => { p with revoked := insertNat b.ext p.revoked })

theorem freeBorrower_eq (s : State) (i cause : Nat) :
    s.freeBorrower i cause = (s.beforeFree i cause).modBorrower i (fun b => b.freed cause) := rfl

/-- Of what stands outside the caches a freed entry changes itself and the revoked extents of its peer. -/
theorem beforeFree_frame (s : State) (i cause : Nat) :
    { (s.beforeFree i cause).unlined with peers := s.peers } = s.unlined := by
  have h := leaveLines_unlined s (s.borrower i).peer (s.borrower i).ext (cause != 3)
  have hp : { (s.leaveLines (s.borrower i).peer (s.borrower i).ext (cause != 3)).unlined with peers := s.peers } = s.unlined := by
    rw [h]; rfl
  unfold State.beforeFree
  dsimp only
  split <;> exact hp

theorem beforeFree_borrower (s : State) (i cause k : Nat) : (s.beforeFree i cause).borrower k = s.borrower k :=
  (congrArg (fun u : State => u.borrower k) (beforeFree_frame s i cause) :)

theorem freeBorrower_borrower (s : State) (i cause k : Nat) :
    (s.freeBorrower i cause).borrower k = if k = i then (s.borrower i).freed cause else s.borrower k := by
  rw [freeBorrower_eq, borrower_mod, beforeFree_borrower, beforeFree_borrower]

theorem freeBorrower_frame (s : State) (i cause : Nat) :
    { (s.freeBorrower i cause).unlined with borrowers := s.borrowers, peers := s.peers } = s.unlined :=
  (congrArg (fun u : State => { u with borrowers := s.borrowers }) (beforeFree_frame s i cause) :)

theorem beforeFree_lcache (s : State) (i cause : Nat) :
    (s.beforeFree i cause).lcache = (s.leaveLines (s.borrower i).peer (s.borrower i).ext (cause != 3)).lcache := by
  unfold State.beforeFree
  dsimp only
  split <;> rfl

theorem beforeFree_holds (s : State) (i cause : Nat) :
    (s.beforeFree i cause).holds = (s.leaveLines (s.borrower i).peer (s.borrower i).ext (cause != 3)).holds := by
  unfold State.beforeFree
  dsimp only
  split <;> rfl

theorem freeBorrower_lcache {s : State} {i cause : Nat} {q : CacheLine} (h : q ∈ (s.freeBorrower i cause).lcache) :
    inExtent (s.borrower i).peer (s.borrower i).ext (q.line * 128) = false :=
  leaveLines_lcache (beforeFree_lcache s i cause ▸ (show q ∈ (s.beforeFree i cause).lcache from h))

theorem freeBorrower_holds {s : State} {i cause : Nat} {h : Hold} (hh : h ∈ (s.freeBorrower i cause).holds) :
    inExtent (s.borrower i).peer (s.borrower i).ext (h.line * 128) = false :=
  leaveLines_holds (beforeFree_holds s i cause ▸ (show h ∈ (s.beforeFree i cause).holds from hh))

theorem freeLender_lender (s : State) (e cause k : Nat) :
    (s.freeLender e cause).lender k =
      if k = e then ({ s.lender e with st := 0, cause := cause, byTerm := false } : Lease) else s.lender k :=
  lender_mod s e k (fun l => { l with st := 0, cause := cause, byTerm := false })

/-! ### Messages of a borrower (13 R419, R425) -/

section
variable {s : State} {msg : LeaseMsg} (hp : msg.peer ≠ s.pkg) (hb : msg.peer < 1024)
include hp hb

theorem exec_request : exec (.leaseRequestReceived msg) s = .next (
    if msg.flags = 1 then
      if (s.lender (msg.extent % 4096)).st ≠ 2 ∨ (s.lender (msg.extent % 4096)).peer ≠ msg.peer then s.send 8 msg.peer 1
      else if tabGet 0 (msg.extent % 4096) s.lendable = 0 ∨ s.termOk (msg.extent % 4096) msg.term = false then s.send 8 msg.peer 4
      else (s.modLender (msg.extent % 4096) (fun l => { l with term := msg.term % 2 ^ 64 })).send 7 msg.peer (msg.extent % 4096)
    else if tabGet 0 (msg.extent % 4096) s.lendable = 0 then s.send 8 msg.peer 2
    else if (s.lender (msg.extent % 4096)).st ≠ 0 then s.send 8 msg.peer 3
    else if s.termOk (msg.extent % 4096) msg.term = false then s.send 8 msg.peer 4
    else ((s.modLender (msg.extent % 4096) (fun l => { l with
        st := 2, gen := nextGen l.gen, peer := msg.peer, ext := msg.extent % 4096, pent := msg.entry % 4096,
        term := msg.term % 2 ^ 64, byTerm := false })).modPeer msg.peer (fun p => { p with heard := s.time, sent := s.time })).send
          7 msg.peer (msg.extent % 4096)) := by
  show execLeaseRequestReceived msg s = _
  unfold execLeaseRequestReceived
  dsimp only
  rw [if_neg (by omega)]
  simp only [Bool.or_eq_true, Bool.not_eq_true', bne_eq_false_iff_eq, apply_ite (Host.Outcome.next (φ := Fault) (ρ := Refusal))]

section
variable (hf : msg.flags ≠ 1)
include hf

theorem request_granted (hl : tabGet 0 (msg.extent % 4096) s.lendable ≠ 0) (h0 : (s.lender (msg.extent % 4096)).st = 0)
    (ht : s.termOk (msg.extent % 4096) msg.term = true) :
    ∃ t, exec (.leaseRequestReceived msg) s = .next t ∧ t.lender (msg.extent % 4096) =
        { s.lender (msg.extent % 4096) with
          st := 2, gen := (s.lender (msg.extent % 4096)).gen % 15 + 1, peer := msg.peer, ext := msg.extent % 4096,
          pent := msg.entry % 4096, term := msg.term % 2 ^ 64, byTerm := false } ∧
      (∀ k, k ≠ msg.extent % 4096 → t.lender k = s.lender k) ∧ t.sent = (7, msg.peer, msg.extent % 4096) :: s.sent := by
  rw [exec_request hp hb, if_neg hf, if_neg hl, if_neg (not_not.2 h0), if_neg (ne_false_of_eq_true ht)]
  exact ⟨_, rfl, (lender_set rfl).1, (lender_set rfl).2, rfl⟩

theorem request_notLendable (hl : tabGet 0 (msg.extent % 4096) s.lendable = 0) :
    exec (.leaseRequestReceived msg) s = .next { s with sent := (8, msg.peer, 2) :: s.sent } := by
  rw [exec_request hp hb, if_neg hf, if_pos hl]; rfl

theorem request_inUse (hl : tabGet 0 (msg.extent % 4096) s.lendable ≠ 0) (h0 : (s.lender (msg.extent % 4096)).st ≠ 0) :
    exec (.leaseRequestReceived msg) s = .next { s with sent := (8, msg.peer, 3) :: s.sent } := by
  rw [exec_request hp hb, if_neg hf, if_neg hl, if_pos h0]; rfl

theorem request_badTerm (hl : tabGet 0 (msg.extent % 4096) s.lendable ≠ 0) (h0 : (s.lender (msg.extent % 4096)).st = 0)
    (ht : s.termOk (msg.extent % 4096) msg.term = false) :
    exec (.leaseRequestReceived msg) s = .next { s with sent := (8, msg.peer, 4) :: s.sent } := by
  rw [exec_request hp hb, if_neg hf, if_neg hl, if_neg (not_not.2 h0), if_pos ht]; rfl
end

section
variable (hf : msg.flags = 1)
include hf

theorem renewal_notHeld (h : (s.lender (msg.extent % 4096)).st ≠ 2 ∨ (s.lender (msg.extent % 4096)).peer ≠ msg.peer) :
    exec (.leaseRequestReceived msg) s = .next { s with sent := (8, msg.peer, 1) :: s.sent } := by
  rw [exec_request hp hb, if_pos hf, if_pos h]; rfl

variable (h2 : (s.lender (msg.extent % 4096)).st = 2) (hpeer : (s.lender (msg.extent % 4096)).peer = msg.peer)
include h2 hpeer

theorem renewal_granted (hl : tabGet 0 (msg.extent % 4096) s.lendable ≠ 0) (ht : s.termOk (msg.extent % 4096) msg.term = true) :
    ∃ t, exec (.leaseRequestReceived msg) s = .next t ∧
      t.lender (msg.extent % 4096) = { s.lender (msg.extent % 4096) with term := msg.term % 2 ^ 64 } ∧
      (∀ k, k ≠ msg.extent % 4096 → t.lender k = s.lender k) ∧ t.sent = (7, msg.peer, msg.extent % 4096) :: s.sent := by
  rw [exec_request hp hb, if_pos hf, if_neg (by simp [h2, hpeer]), if_neg (by simp [hl, ht])]
  exact ⟨_, rfl, (lender_set rfl).1, (lender_set rfl).2, rfl⟩

theorem renewal_refused (h : tabGet 0 (msg.extent % 4096) s.lendable = 0 ∨ s.termOk (msg.extent % 4096) msg.term = false) :
    exec (.leaseRequestReceived msg) s = .next { s with sent := (8, msg.peer, 4) :: s.sent } := by
  rw [exec_request hp hb, if_pos hf, if_neg (by simp [h2, hpeer]), if_pos h]; rfl
end
end

/-! ### Answers of a lender (13 R419, R425) -/

section
variable {s : State} {msg : LeaseMsg} {term : Nat} (ha : (s.borrower (msg.entry % 4096)).ask = some term)
  (hp : (s.borrower (msg.entry % 4096)).peer = msg.peer) (he : (s.borrower (msg.entry % 4096)).ext = msg.extent)
  (hg : (s.borrower (msg.entry % 4096)).gen = msg.gen)
include ha hp he hg

/-- The answer names the request that stands. -/
theorem exec_answer : exec (.leaseGrantReceived msg) s = .next (
    if (s.borrower (msg.entry % 4096)).st = 1 then
      if msg.granted then
        (s.modBorrower (msg.entry % 4096) (fun b => { b with
          st := 2, term := term, pent := b.ext, ask := none, answer := some 0, granted := s.time })).modPeer msg.peer (fun p =>
            { p with heard := s.time, sent := s.time,
                     revoked := p.revoked.filter (· != msg.extent) })
      else (s.modBorrower (msg.entry % 4096) (fun b => { b with st := 0, ask := none, answer := some msg.code })).hears msg.peer
    else if (s.borrower (msg.entry % 4096)).st = 2 then
      (s.modBorrower (msg.entry % 4096) (fun b => { b with
        term := if msg.granted then term else b.term, ask := none,
        answer := some (if msg.granted then 0 else msg.code) })).hears msg.peer
    else s) := by
  show execLeaseGrantReceived msg s = _
  unfold execLeaseGrantReceived
  dsimp only
  rw [ha, hp, he, hg]
  simp only [Option.isSome_some, beq_self_eq_true, Bool.and_self, Bool.not_true, Bool.false_eq_true, if_false,
    apply_ite (Host.Outcome.next (φ := Fault) (ρ := Refusal))]

theorem answer_grant (h1 : (s.borrower (msg.entry % 4096)).st = 1) (hgr : msg.granted = true) :
    ∃ t, exec (.leaseGrantReceived msg) s = .next t ∧ t.borrower (msg.entry % 4096) =
        { s.borrower (msg.entry % 4096) with
          st := 2, term := term, pent := (s.borrower (msg.entry % 4096)).ext, ask := none, answer := some 0, granted := s.time } ∧
      (∀ k, k ≠ msg.entry % 4096 → t.borrower k = s.borrower k) ∧ t.sent = s.sent ∧ (t.peer msg.peer).heard = s.time := by
  rw [exec_answer ha hp he hg, if_pos h1, if_pos hgr]
  exact ⟨_, rfl, (borrower_set rfl).1, (borrower_set rfl).2, rfl, heard_modPeer _ _ (fun _ => rfl)⟩

theorem answer_refusal (h1 : (s.borrower (msg.entry % 4096)).st = 1) (hgr : msg.granted = false) :
    ∃ t, exec (.leaseGrantReceived msg) s = .next t ∧ t.borrower (msg.entry % 4096) =
        { s.borrower (msg.entry % 4096) with st := 0, ask := none, answer := some msg.code } ∧
      (∀ k, k ≠ msg.entry % 4096 → t.borrower k = s.borrower k) ∧ t.sent = s.sent ∧ (t.peer msg.peer).heard = s.time := by
  rw [exec_answer ha hp he hg, if_pos h1, if_neg (ne_true_of_eq_false hgr)]
  exact ⟨_, rfl, (borrower_set rfl).1, (borrower_set rfl).2, rfl, heard_modPeer _ _ (fun _ => rfl)⟩

theorem answer_renewal (h2 : (s.borrower (msg.entry % 4096)).st = 2) :
    ∃ t, exec (.leaseGrantReceived msg) s = .next t ∧ t.borrower (msg.entry % 4096) =
        { s.borrower (msg.entry % 4096) with
          term := if msg.granted then term else (s.borrower (msg.entry % 4096)).term, ask := none,
          answer := some (if msg.granted then 0 else msg.code) } ∧
      (∀ k, k ≠ msg.entry % 4096 → t.borrower k = s.borrower k) ∧ t.sent = s.sent ∧ (t.peer msg.peer).heard = s.time := by
  rw [exec_answer ha hp he hg, if_neg (by omega), if_pos h2]
  exact ⟨_, rfl, (borrower_set rfl).1, (borrower_set rfl).2, rfl, heard_modPeer _ _ (fun _ => rfl)⟩
end

theorem answer_unasked (s : State) (msg : LeaseMsg) (ha : (s.borrower (msg.entry % 4096)).ask = none) :
    exec (.leaseGrantReceived msg) s = .next s := by
  show execLeaseGrantReceived msg s = _
  unfold execLeaseGrantReceived
  dsimp only
  rw [ha]

/-! ### The end of a borrower's lease (13 R420, R425) -/

section
variable {s : State} {i : Nat}

theorem replyTimeout_due (ha : (s.borrower i).ask.isSome = true) (hd : (s.borrower i).since + 50000 ≤ s.time) :
    ∃ t, exec (.leaseReplyTimeout i) s = .next t ∧
      t.borrower i = { s.borrower i with st := if (s.borrower i).st = 1 then 0 else (s.borrower i).st, ask := none, answer := some 5 } ∧
      (∀ k, k ≠ i → t.borrower k = s.borrower k) ∧ t.sent = s.sent := by
  refine ⟨_, if_neg ?_, (borrower_set rfl).1, (borrower_set rfl).2, rfl⟩
  rw [Option.isNone_iff_eq_none, not_or]
  exact ⟨Option.isSome_iff_ne_none.1 ha, by omega⟩

theorem replyTimeout_early (h : (s.borrower i).ask = none ∨ s.time < (s.borrower i).since + 50000) :
    exec (.leaseReplyTimeout i) s = .next s :=
  if_pos (h.imp_left Option.isNone_iff_eq_none.2)

theorem core_map (cs : Tab Core) (g : Core → Core) (hg : g Core.init = Core.init) (c : Nat) :
    tabGet Core.init c (cs.map (fun e => (e.1, g e.2))) = g (tabGet Core.init c cs) := by
  rw [tabGet, tabFind_map (fun _ => g), tabGet]
  cases tabFind c cs with
  | none => exact hg.symm
  | some k => rfl

/-- After a lease shootdown every entry of a core TLB that stands for the lease is marked to be dropped (06 R211). -/
theorem leaseShoot_tlb (s : State) (i c : Nat) {e : TlbEnt} (he : e ∈ ((s.leaseShoot i).core c).tlb) :
    leafLid e.leaf.toNat = 0 ∨ leafLid e.leaf.toNat % 2 ^ 12 ≠ i ∨ (e.draining = true ∧ leaseAgent ∈ e.mark) := by
  have hc : (s.leaseShoot i).core c = _ := core_map s.cores (fun k => { k with tlb := k.tlb.map (fun x =>
    if leafLid x.leaf.toNat != 0 && leafLid x.leaf.toNat % 2 ^ 12 == i then
      { x with draining := true, mark := leaseAgent :: x.mark } else x) }) rfl c
  rw [hc] at he
  obtain ⟨x, -, rfl⟩ := List.mem_map.1 he
  by_cases hg : (leafLid x.leaf.toNat != 0 && leafLid x.leaf.toNat % 2 ^ 12 == i) = true
  · rw [if_pos hg]
    exact .inr (.inr ⟨rfl, List.mem_cons_self ..⟩)
  · rw [if_neg hg]
    simp only [Bool.and_eq_true, bne_iff_ne, beq_iff_eq, not_and] at hg
    by_cases h0 : leafLid x.leaf.toNat = 0
    · exact .inl h0
    · exact .inr (.inl (hg h0))

theorem leaseEnd_due (h2 : (s.borrower i).st = 2) (ht : (s.borrower i).term ≤ s.time + s.leadNs) :
    ∃ t, exec (.borrowerLeaseEnd i) s = .next t ∧ t.borrower i = { s.borrower i with st := 3, why := 1, released := false } ∧
      (∀ k, k ≠ i → t.borrower k = s.borrower k) ∧ t.sent = s.sent ∧ (∀ pa, t.memByte pa = s.memByte pa) ∧
      ∀ c, ∀ e ∈ (t.core c).tlb, leafLid e.leaf.toNat = 0 ∨ leafLid e.leaf.toNat % 2 ^ 12 ≠ i ∨
        (e.draining = true ∧ leaseAgent ∈ e.mark) :=
  ⟨_, if_pos ⟨h2, ht⟩, (borrower_set rfl).1, (borrower_set rfl).2, rfl, fun _ => rfl, fun c _ he => leaseShoot_tlb _ i c he⟩

theorem leaseEnd_early (h : (s.borrower i).st ≠ 2 ∨ s.time + s.leadNs < (s.borrower i).term) :
    exec (.borrowerLeaseEnd i) s =
      .next (if s.lenderReady i = true then s.recallTenure (s.borrower i).peer (s.borrower i).ext else s) :=
  (if_neg (by omega)).trans (apply_ite Host.Outcome.next _ _ _).symm

theorem ending_releases (h3 : (s.borrower i).st = 3) (hr : (s.borrower i).released = false) :
    ∃ t, exec (.endingWritebackDone i) s = .next t ∧ t.borrower i = { s.borrower i with released := true } ∧
      (∀ k, k ≠ i → t.borrower k = s.borrower k) ∧ t.sent = (3, (s.borrower i).peer, i) :: s.sent ∧
      (∀ q ∈ t.lcache, inExtent (s.borrower i).peer (s.borrower i).ext (q.line * 128) = false) ∧
      ∀ h ∈ t.holds, inExtent (s.borrower i).peer (s.borrower i).ext (h.line * 128) = false := by
  have hframe := leaveLines_unlined s (s.borrower i).peer (s.borrower i).ext true
  have hs : (s.leaveLines (s.borrower i).peer (s.borrower i).ext true).sent = s.sent := (congrArg State.sent hframe :)
  obtain ⟨own, others⟩ := borrower_after (borrower_unlined hframe) i (fun b => { b with released := true })
  exact ⟨_, (if_neg (not_not.2 h3)).trans (if_pos (by rw [hr]; rfl)), own, others, congrArg (List.cons _) hs,
    fun q => leaveLines_lcache, fun h => leaveLines_holds⟩

theorem ending_freed (h3 : (s.borrower i).st = 3) (hr : (s.borrower i).released = true)
    (ha : Config.peerAnswers s.time (s.borrower i).peer = true) :
    ∃ t, exec (.endingWritebackDone i) s = .next t ∧ t.borrower i = (s.borrower i).freed (s.borrower i).why ∧
      (∀ k, k ≠ i → t.borrower k = s.borrower k) ∧
      ∀ q ∈ t.lcache, inExtent (s.borrower i).peer (s.borrower i).ext (q.line * 128) = false :=
  ⟨_, (if_neg (not_not.2 h3)).trans ((if_neg (by rw [hr]; decide)).trans (if_pos ha)),
    (freeBorrower_borrower ..).trans (if_pos rfl), fun k hk => (freeBorrower_borrower ..).trans (if_neg hk),
    fun q => freeBorrower_lcache⟩

theorem ending_stays (h : (s.borrower i).st ≠ 3 ∨ (s.borrower i).released = true ∧ Config.peerAnswers s.time (s.borrower i).peer = false) :
    exec (.endingWritebackDone i) s = .next s := by
  show execEndingWritebackDone i s = _
  unfold execEndingWritebackDone
  dsimp only
  by_cases h3 : (s.borrower i).st = 3
  · obtain ⟨hr, ha⟩ := h.resolve_left (not_not.2 h3)
    rw [if_neg (not_not.2 h3), hr, ha]
    rfl
  · rw [if_pos h3]

section
variable (h23 : (s.borrower i).st = 2 ∨ (s.borrower i).st = 3)
include h23

theorem revoke_frees (hw : s.extentWaits (extentBase (s.borrower i).peer (s.borrower i).ext) extentBytes = false) :
    ∃ t, exec (.leaseRevokeReceived i) s = .next t ∧
      t.borrower i = { s.borrower i with st := 0, cause := 2, ask := none, released := false } ∧
      (∀ k, k ≠ i → t.borrower k = s.borrower k) ∧
      (∀ q ∈ t.lcache, inExtent (s.borrower i).peer (s.borrower i).ext (q.line * 128) = false) ∧
      ∀ h ∈ t.holds, inExtent (s.borrower i).peer (s.borrower i).ext (h.line * 128) = false := by
  have hframe := recallExtent_untenured { s with kept := s.kept.erase (.revoke i) }
    (extentBase (s.borrower i).peer (s.borrower i).ext) extentBytes
  generalize ht : State.recallExtent { s with kept := s.kept.erase (.revoke i) }
    (extentBase (s.borrower i).peer (s.borrower i).ext) extentBytes = u at hframe
  have hb : u.borrower = s.borrower := (congrArg State.borrower hframe :)
  refine ⟨u.freeBorrower i 2, ?_, ?_, fun k hk => ?_, fun q hq => ?_, fun h hh => ?_⟩
  · rw [← ht]
    exact (if_pos h23).trans (if_neg (ne_true_of_eq_false hw))
  · rw [freeBorrower_borrower, if_pos rfl, hb, Lease.freed]
    simp
  · rw [freeBorrower_borrower, if_neg hk, hb]
  · rw [← hb]; exact freeBorrower_lcache hq
  · rw [← hb]; exact freeBorrower_holds hh

theorem revoke_kept (hw : s.extentWaits (extentBase (s.borrower i).peer (s.borrower i).ext) extentBytes = true) :
    exec (.leaseRevokeReceived i) s =
      .next (if s.kept.contains (.revoke i) then s else { s with kept := s.kept ++ [.revoke i] }) :=
  (if_pos h23).trans (if_pos hw)
end

theorem revoke_free (h2 : (s.borrower i).st ≠ 2) (h3 : (s.borrower i).st ≠ 3) :
    exec (.leaseRevokeReceived i) s = .next { s with kept := s.kept.erase (.revoke i) } :=
  if_neg (by omega)
end

/-! ### The lender's side (13 R421) -/

section
variable {s : State} {e : Nat}

theorem beginRecall_lender (s : State) (e : Nat) (byTerm : Bool) :
    (s.beginRecall e byTerm).lender e = { s.lender e with st := 3, byTerm := byTerm } ∧
      ∀ k, k ≠ e → (s.beginRecall e byTerm).lender k = s.lender k :=
  lender_set (congrArg State.lenders (recallTenure_untenured (s.modLender e (fun l => { l with st := 3, byTerm := byTerm })) s.pkg e) :)

theorem beginRecall_snoops (s : State) (e : Nat) (byTerm : Bool) :
    (s.beginRecall e byTerm).snoops = s.snoops.map (fun x =>
      if x.holder < 1024 ∧ inExtent s.pkg e (x.line * 128) = true then x.send s.time else x) := by
  have hframe := recallTenure_untenured (s.modLender e (fun l => { l with st := 3, byTerm := byTerm })) s.pkg e
  have hs : ((s.modLender e (fun l => { l with st := 3, byTerm := byTerm })).recallTenure s.pkg e).snoops = s.snoops :=
    (congrArg State.snoops hframe :)
  have hp : ((s.modLender e (fun l => { l with st := 3, byTerm := byTerm })).recallTenure s.pkg e).pkg = s.pkg :=
    (congrArg State.pkg hframe :)
  have ht : ((s.modLender e (fun l => { l with st := 3, byTerm := byTerm })).recallTenure s.pkg e).time = s.time :=
    (congrArg State.time hframe :)
  unfold State.beginRecall
  dsimp only [State.modLender] at hs hp ht ⊢
  rw [hs, hp, ht]
  simp only [Bool.and_eq_true, decide_eq_true_eq]

theorem termExpiry_due (h2 : (s.lender e).st = 2) (ht : (s.lender e).term ≤ s.time) :
    ∃ t, exec (.lenderTermExpiry e) s = .next t ∧ t.lender e = { s.lender e with st := 3, byTerm := true } ∧
      (∀ k, k ≠ e → t.lender k = s.lender k) ∧ t.snoops = s.snoops.map (fun x =>
        if x.holder < 1024 ∧ inExtent s.pkg e (x.line * 128) = true then x.send s.time else x) :=
  ⟨_, if_pos ⟨h2, ht⟩, (beginRecall_lender s e true).1, (beginRecall_lender s e true).2, beginRecall_snoops s e true⟩

theorem termExpiry_early (h : (s.lender e).st ≠ 2 ∨ s.time < (s.lender e).term) : exec (.lenderTermExpiry e) s = .next s :=
  if_neg (by omega)

theorem releaseReceived_frees (h23 : (s.lender e).st = 2 ∨ (s.lender e).st = 3) :
    ∃ t k, exec (.leaseReleaseReceived e) s = .next t ∧ (k = 1 ∨ k = 4) ∧
      t.lender e = { s.lender e with st := 0, cause := k, byTerm := false } ∧ ∀ n, n ≠ e → t.lender n = s.lender n := by
  refine ⟨_, _, if_pos h23, ?_, (lender_set rfl).1, (lender_set rfl).2⟩
  split <;> simp

theorem releaseReceived_free (h2 : (s.lender e).st ≠ 2) (h3 : (s.lender e).st ≠ 3) :
    exec (.leaseReleaseReceived e) s = .next s := if_neg (by omega)

/-- An answer to a snoop of this package takes the snoop away and shows that its holder lives. -/
theorem snoop_answered {line : Nat} {x : Snoop} (hl : s.isLocal (line * 128) = true)
    (hx : s.snoops.find? (fun x => x.line = line && x.pending) = some x) :
    ∃ t, exec (.backInvalidateSnoop e line) s = .next t ∧ { t with peers := s.peers, snoops := s.snoops } = s ∧
      t.snoops = s.snoops.erase x ∧ (∀ k, k ≠ x.holder ∨ 1024 ≤ x.holder → t.peer k = s.peer k) ∧
      (x.holder < 1024 → t.peer x.holder = { s.peer x.holder with heard := s.time }) := by
  refine ⟨if x.holder < 1024 then ({ s with snoops := s.snoops.erase x } : State).hears x.holder
    else { s with snoops := s.snoops.erase x }, ?_, ?_⟩
  · show execBackInvalidateSnoop e line s = _
    unfold execBackInvalidateSnoop
    rw [if_pos hl, hx]
  · split
    · exact ⟨rfl, rfl, fun k hk => (peer_set (s := s) rfl).2 k (by omega), fun _ => (peer_set (s := s) rfl).1⟩
    · exact ⟨rfl, rfl, fun _ _ => rfl, fun h => absurd h ‹_›⟩

theorem snoop_unasked {line : Nat} (hl : s.isLocal (line * 128) = true)
    (hx : ∀ x ∈ s.snoops, x.line = line → x.pending = false) : exec (.backInvalidateSnoop e line) s = .next s := by
  show execBackInvalidateSnoop e line s = _
  unfold execBackInvalidateSnoop
  rw [if_pos hl, List.find?_eq_none.2 (fun x hm => by simpa using hx x hm)]

theorem snoop_taken {i line : Nat} (hl : s.isLocal (line * 128) = false) (h23 : (s.borrower i).st = 2 ∨ (s.borrower i).st = 3)
    (hin : inExtent (s.borrower i).peer (s.borrower i).ext (line * 128) = true) :
    ∃ t, exec (.backInvalidateSnoop i line) s = .next t ∧ (∀ q ∈ t.lcache, q.line ≠ line) ∧
      t.holds = s.holds.filter (fun h => h.line != line) := by
  refine ⟨_, (if_neg (ne_true_of_eq_false hl)).trans (if_pos ⟨h23, hin⟩), fun q hq he => ?_, ?_⟩
  · rw [dropHolds_lcache] at hq
    obtain ⟨hs, hlines⟩ := mem_flushLines hq
    exact hlines q (List.mem_filter.2 ⟨hs, by simpa using he⟩) rfl
  · rw [dropHolds_holds, flushLines_holds]
    rfl

theorem recallCommit_frees (h3 : (s.lender e).st = 3)
    (hx : ∀ x ∈ s.snoops, x.pending = true → x.holder < 1024 → inExtent s.pkg e (x.line * 128) = false)
    (hw : s.extentWaits (extentBase s.pkg e) extentBytes = false) :
    ∃ t, exec (.recallCommit e) s = .next t ∧
      t.lender e = { s.lender e with st := 0, cause := if (s.lender e).byTerm then 1 else 2, byTerm := false } ∧
      (∀ k, k ≠ e → t.lender k = s.lender k) ∧ t.sent = (4, (s.lender e).peer, (s.lender e).pent) :: s.sent := by
  have hframe := recallExtent_untenured s (extentBase s.pkg e) extentBytes
  have hs : (s.recallExtent (extentBase s.pkg e) extentBytes).sent = s.sent := (congrArg State.sent hframe :)
  obtain ⟨own, others⟩ := lender_after (lender_untenured hframe) e
    (fun l => { l with st := 0, cause := if (s.lender e).byTerm then 1 else 2, byTerm := false })
  refine ⟨_, if_neg ?_, own, others, congrArg (List.cons _) hs⟩
  rw [not_or, not_or, List.any_eq_true]
  refine ⟨not_not.2 h3, fun ⟨x, hm, hc⟩ => ?_, ne_true_of_eq_false hw⟩
  simp only [Bool.and_eq_true, decide_eq_true_eq] at hc
  exact ne_true_of_eq_false (hx x hm hc.1.1 hc.1.2) hc.2

theorem recallCommit_waits (h : (s.lender e).st ≠ 3 ∨ s.extentWaits (extentBase s.pkg e) extentBytes = true ∨
      ∃ x ∈ s.snoops, x.pending = true ∧ x.holder < 1024 ∧ inExtent s.pkg e (x.line * 128) = true) :
    exec (.recallCommit e) s = .next s := by
  refine if_pos (h.imp_right (fun h => h.symm.imp_left (fun ⟨x, hm, hp, hh, hin⟩ => ?_)))
  exact List.any_eq_true.2 ⟨x, hm, by simp [hp, hh, hin]⟩
end

/-! ### Keepalives and silence (13 R420) -/

section
variable {s : State} {p : Nat}

theorem keepalive_arrives (s : State) (p : Nat) :
    ∃ t, exec (.leaseKeepalive p true) s = .next t ∧ t.peer p = { s.peer p with heard := s.time } ∧
      (∀ k, k ≠ p → t.peer k = s.peer k) ∧ t.sent = s.sent :=
  ⟨_, rfl, (peer_set rfl).1, (peer_set rfl).2, rfl⟩

theorem keepalive_due (hl : s.leased p = true) (hd : (s.peer p).sent + 10000 ≤ s.time) :
    ∃ t, exec (.leaseKeepalive p false) s = .next t ∧ t.peer p = { s.peer p with sent := s.time } ∧
      (∀ k, k ≠ p → t.peer k = s.peer k) ∧ t.sent = (5, p, 0) :: s.sent :=
  ⟨_, if_pos ⟨hl, hd⟩, (peer_set rfl).1, (peer_set rfl).2, rfl⟩

theorem keepalive_early (h : s.leased p = false ∨ s.time < (s.peer p).sent + 10000) :
    exec (.leaseKeepalive p false) s = .next s :=
  if_neg (fun ⟨hl, hd⟩ => h.elim (fun h => by rw [h] at hl; cases hl) (fun h => by omega))

/-- Every entry of a list is freed for `cause`, and no other changes. -/
theorem freeBorrowers_borrower (is : List Nat) (s : State) (cause i : Nat) :
    if i ∈ is then ((is.foldl (fun s i => s.freeBorrower i cause) s).borrower i).st = 0 ∧
        ((is.foldl (fun s i => s.freeBorrower i cause) s).borrower i).cause = cause
      else (is.foldl (fun s i => s.freeBorrower i cause) s).borrower i = s.borrower i := by
  induction is generalizing s with
  | nil => simp
  | cons a t ih =>
    have h := ih (s.freeBorrower a cause)
    rw [List.foldl_cons]
    by_cases ht : i ∈ t
    · simpa [ht] using h
    · rw [if_neg ht, freeBorrower_borrower] at h
      rw [h]
      by_cases ha : i = a <;> simp [ha, ht, Lease.freed]

theorem freeLenders_lender (es : List Nat) (s : State) (cause e : Nat) :
    if e ∈ es then ((es.foldl (fun s e => s.freeLender e cause) s).lender e).st = 0 ∧
        ((es.foldl (fun s e => s.freeLender e cause) s).lender e).cause = cause
      else (es.foldl (fun s e => s.freeLender e cause) s).lender e = s.lender e := by
  induction es generalizing s with
  | nil => simp
  | cons a t ih =>
    have h := ih (s.freeLender a cause)
    rw [List.foldl_cons]
    by_cases ht : e ∈ t
    · simpa [ht] using h
    · rw [if_neg ht, freeLender_lender] at h
      rw [h]
      by_cases ha : e = a <;> simp [ha, ht]

theorem freeBorrowers_frame (is : List Nat) (s : State) (cause : Nat) :
    { (is.foldl (fun s i => s.freeBorrower i cause) s).unlined with borrowers := [], peers := [] } =
      { s.unlined with borrowers := [], peers := [] } :=
  foldl_leaves (fun u : State => { u.unlined with borrowers := [], peers := [] }) (fun s i => s.freeBorrower i cause)
    (fun s i => (congrArg (fun u : State => { u with borrowers := [], peers := [] }) (freeBorrower_frame s i cause) :)) is s

/-- Copies that are given up with a lender's entries are taken from those there were. -/
theorem freeLenders_snoops {es : List Nat} {s : State} {cause : Nat} {x : Snoop}
    (h : x ∈ (es.foldl (fun s e => s.freeLender e cause) s).snoops) : x ∈ s.snoops := by
  induction es generalizing s with
  | nil => exact h
  | cons a t ih => exact List.mem_of_mem_filter (ih (s := s.freeLender a cause) h)

theorem freeLenders_frame (es : List Nat) (s : State) (cause : Nat) :
    { es.foldl (fun s e => s.freeLender e cause) s with lenders := [], snoops := [] } = { s with lenders := [], snoops := [] } :=
  foldl_leaves (fun u : State => { u with lenders := [], snoops := [] }) (fun s e => s.freeLender e cause) (fun _ _ => rfl) es s

/-- Lines that a silent peer held for modification are poisoned. -/
def State.poisonLost (s : State) (lost : List Snoop) : State :=
  lost.foldl (fun s x => (List.range 4).foldl (fun s i => s.setPoison (x.line * 128 + i * 32) true) s) s

theorem poisonLost_frame (lost : List Snoop) (s : State) : { s.poisonLost lost with poison := [] } = { s with poison := [] } :=
  foldl_leaves (fun u : State => { u with poison := [] }) _ (fun s x => foldl_leaves (fun u : State => { u with poison := [] })
    (fun s i => s.setPoison (x.line * 128 + i * 32) true) (fun _ _ => rfl) (List.range 4) s) lost s

theorem peerSilent_ends (hs : s.silent p = true) (hany : s.silentBorrowers p ≠ [] ∨ s.silentLenders p ≠ []) :
    ∃ t, exec (.peerSilent p) s = .next t ∧
      (∀ i, if i ∈ s.silentBorrowers p then (t.borrower i).st = 0 ∧ (t.borrower i).cause = 3 else t.borrower i = s.borrower i) ∧
      (∀ e, if e ∈ s.silentLenders p then (t.lender e).st = 0 ∧ (t.lender e).cause = 3 else t.lender e = s.lender e) ∧
      (∀ x ∈ t.snoops, x.holder ≠ p) ∧
      t.reports = (s.silentBorrowers p ++ s.silentLenders p).map (fun _ => (1, p)) ++ s.reports := by
  have hgo : ¬ ((!s.silent p) = true ∨ ((s.silentBorrowers p).isEmpty = true ∧ (s.silentLenders p).isEmpty = true)) := by
    simpa [hs, ← not_and_or] using hany
  let u := (s.silentBorrowers p).foldl (fun s i => s.freeBorrower i 3) s
  let v := u.poisonLost (s.snoops.filter (fun x => x.holder = p && x.modified))
  let w : State := { v with snoops := v.snoops.filter (fun x => x.holder != p) }
  let z := (s.silentLenders p).foldl (fun s e => s.freeLender e 3) w
  have hu := freeBorrowers_frame (s.silentBorrowers p) s 3
  have hv : { v with poison := [] } = { u with poison := [] } := poisonLost_frame _ u
  have hz : { z with lenders := [], snoops := [] } = { w with lenders := [], snoops := [] } := freeLenders_frame _ w 3
  have hborrower : z.borrower = u.borrower :=
    (congrArg State.borrower hz :).trans (congrArg State.borrower hv :)
  have hlender : w.lender = s.lender := (congrArg State.lender hv :).trans (congrArg State.lender hu :)
  have hreports : z.reports = s.reports :=
    (congrArg State.reports hz :).trans ((congrArg State.reports hv :).trans (congrArg State.reports hu :))
  refine ⟨_, if_neg hgo, fun i => ?_, fun e => ?_, fun x hx => ?_, congrArg (_ ++ ·) hreports⟩
  · show if _ then (z.borrower i).st = 0 ∧ (z.borrower i).cause = 3 else z.borrower i = s.borrower i
    rw [hborrower]
    exact freeBorrowers_borrower _ s 3 i
  · rw [← hlender]
    exact freeLenders_lender _ w 3 e
  · simpa using (List.mem_filter.1 (freeLenders_snoops (s := w) hx)).2

theorem peerSilent_none (h : s.silent p = false ∨ (s.silentBorrowers p = [] ∧ s.silentLenders p = [])) :
    exec (.peerSilent p) s = .next s :=
  if_pos (by simpa using h)

theorem silent_iff (s : State) (p : Nat) : s.silent p = true ↔ (s.peer p).heard + 50000 ≤ s.time ∨
    ∃ x ∈ s.snoops, x.holder = p ∧ x.pending = true ∧ x.asked + 50000 ≤ s.time := by
  simp [State.silent, and_assoc]
end

theorem termOk_iff (s : State) (e term : Nat) : s.termOk e term = true ↔
    s.time + 1000 * (s.leasectl.toNat / 2 ^ 32 % 2 ^ 16) < term ∧ term ≤ s.time + tabGet 0 e s.lendable :=
  decide_eq_true_iff

theorem leasectlWrite_result (s : State) (v : DWord) : exec (.leasectlWrite v) s =
    .next (if s.borrowers.any (fun b => b.2.st != 0) then s else { s with leasectl := v &&& 0x0000FFFF003FF7FF }) := rfl

/-! ### The obligation -/

/-- Settles O51, event by event. -/
theorem leaseProtocol : Obligations.LeaseProtocol :=
  ⟨fun _ _ => request_granted, fun _ _ => request_notLendable, fun _ _ => request_inUse, fun _ _ => request_badTerm,
    fun _ _ hp hb hf h2 hpeer hl ht => renewal_granted hp hb hf h2 hpeer hl ht, fun _ _ => renewal_notHeld,
    fun _ _ => renewal_refused, termOk_iff, fun _ _ _ ha hp he hg h1 hgr => answer_grant ha hp he hg h1 hgr,
    fun _ _ _ ha hp he hg h1 hgr => answer_refusal ha hp he hg h1 hgr,
    fun _ _ _ ha hp he hg h2 => answer_renewal ha hp he hg h2, answer_unasked, fun _ _ => replyTimeout_due,
    fun _ _ => replyTimeout_early, fun _ _ => leaseEnd_due, fun _ _ => leaseEnd_early, fun _ _ _ => rfl,
    fun _ _ => ending_releases, fun _ _ => ending_freed, fun _ _ => ending_stays, fun _ _ => revoke_frees, fun _ _ => revoke_kept,
    fun _ _ => revoke_free, fun _ _ => termExpiry_due, fun _ _ => rfl, fun _ _ => termExpiry_early,
    fun _ _ => releaseReceived_frees, fun _ _ => releaseReceived_free, fun _ _ _ _ => snoop_answered,
    fun _ _ _ => snoop_unasked, fun _ _ _ => snoop_taken, fun _ _ => recallCommit_frees, fun _ _ => recallCommit_waits,
    keepalive_arrives, fun _ _ => keepalive_due, fun _ _ => keepalive_early, fun _ _ => peerSilent_ends, fun _ _ => peerSilent_none,
    silent_iff, leasectlWrite_result⟩

end Sys2Proof.Machine
end

section
/-! SUPPORT. Instructions of the package run as any other (02 R75): their meaning does not look at the constructor that
stands for them. -/

namespace Sys2Proof.Machine

/-- The checks with another instruction in its place. -/
def Gate.named (j : Instr) : Gate → Gate
  | .go x => .go { x with i := j }
  | o => o

/-- For an instruction that never speculates the checks do not look at it. -/
theorem gate_named (s : State) (g : Grp) (i j : Instr) (f : Fields) (r : Row) :
    s.gate g j f r false = (s.gate g i f r false).named j := by
  unfold State.gate
  dsimp only
  simp only [Bool.not_false, Bool.true_or, Bool.and_true]
  repeat' split
  all_goals rfl

theorem unrun_named (x : Iss) (j : Instr) (h : x.deferredDest = []) (hj : Iss.deferredDest { x with i := j } = []) (s : State)
    (ls : List Nat) : Iss.unrun { x with i := j } s ls = x.unrun s ls := by
  unfold Iss.unrun
  rw [h, hj]
  rfl

theorem finish_named (x : Iss) (j : Instr) (h : x.deferredDest = []) (hj : Iss.deferredDest { x with i := j } = []) (a : Act) :
    Iss.finish { x with i := j } a = x.finish a := by
  cases a with
  | done s ran => simp only [Iss.finish, unrun_named x j h hj]; rfl
  | trap s ran c d f => simp only [Iss.finish, unrun_named x j h hj]
  | wait s => exact unrun_named x j h hj _ _
  | whole s => rfl

/-- The word that stands for such an instruction issues as the instruction itself. -/
theorem issueRow_issue {i : Instr} {body : Iss → State → Act} (hsp : i.speculates = false)
    (hd : ∀ x : Iss, x.i = i → x.deferredDest = []) (hb : ∀ x j u, body { x with i := j } u = body x u) (s : State) :
    issueRow (i.fields.getD {}) i.row body s = issue i body s := by
  unfold issueRow issue issueWith
  rw [hsp]
  cases s.group with
  | none => rfl
  | some g =>
    dsimp only
    rw [gate_named s g i]
    cases hg : s.gate g i (i.fields.getD {}) i.row false with
    | trap c d ls => rfl
    | wait => rfl
    | go x =>
      have hx : x.i = i := by rw [gate_go hg]
      exact congrArg Host.Outcome.next ((congrArg _ (hb x _ _)).trans (finish_named x _ (hd x hx) rfl _))
end Sys2Proof.Machine
end

section
/-! SUPPORT. Lease instructions (13 R423 to R426): each acts once for the operands that its lanes share, and what it asks for
keeps its lanes at the word until the answer. -/

namespace Sys2Proof.Machine

/-! ### A group that waits for an answer -/

theorem await_eq {x : Iss} (v : State) (hx : x.ex ≠ []) : x.await v = .done (x.holdMarked v x.ex (fun _ => none)) [] := by
  unfold Iss.await Iss.eachMarked
  dsimp only
  rw [List.filter_eq_self.2 (fun _ _ => rfl), List.filter_eq_nil_iff.2 (by simp), List.isEmpty_eq_false_iff.2 hx]
  rfl

/-- The state of a group all of whose executing lanes wait for an answer. -/
def Iss.waiting (x : Iss) (v : State) : State := x.keep (x.unrun (x.holdMarked v x.ex (fun _ => none)) x.ex) []

theorem finish_await {x : Iss} (v : State) (hx : x.ex ≠ []) : x.finish (x.await v) = x.waiting v := by
  rw [await_eq v hx]
  unfold Iss.finish Iss.waiting
  dsimp only
  rw [show x.ex.filter (fun l => !([] : List Nat).contains l) = x.ex from List.filter_eq_self.2 (fun _ _ => rfl), List.isEmpty_eq_false_iff.2 hx]
  rfl

theorem keep_nil_thread (x : Iss) (v : State) (l : Nat) :
    (x.keep v []).thread x.g.core x.g.slot l = v.thread x.g.core x.g.slot l := by
  unfold Iss.keep
  cases x.kept with
  | none => rfl
  | some q =>
    have hnil : x.ex.filter (fun l => ([] : List Nat).contains l) = [] := List.filter_eq_nil_iff.2 (by simp)
    dsimp only
    rw [hnil, thread_modThreads _ _ _ _ _ _ List.nodup_nil, if_neg List.not_mem_nil]

/-- Waiting changes the cores and the numbers of offers alone. -/
theorem waiting_frame (x : Iss) (v : State) :
    { x.waiting v with cores := [], nextId := 0 } = { v with cores := [], nextId := 0 } := by
  unfold Iss.waiting Iss.keep
  cases x.kept <;> rfl

/-- What parking has left empty concerns registers alone. -/
theorem whole_ctl (t : Thread) : t.whole.ctl = t.ctl := by
  unfold Thread.whole
  generalize t.hollow = ns
  induction ns generalizing t with
  | nil => rfl
  | cons n ns ih => exact ih _

/-- A lane that takes its number while it waits. -/
theorem holdMarked_lane {x : Iss} (v : State) (hn : x.ex.Nodup) {l : Nat} (hl : l ∈ x.ex) :
    ∃ m : Mark, m.pc = x.g.pc ∧ (x.holdMarked v x.ex (fun _ => none)).thread x.g.core x.g.slot l =
      { v.thread x.g.core x.g.slot l with mode := .waiting .retry, stamp := v.tick, mark := some m } := by
  have hheld : (v.hold x.g x.ex).thread x.g.core x.g.slot l =
      { v.thread x.g.core x.g.slot l with mode := .waiting .retry, stamp := v.tick } :=
    (thread_modThreads _ _ _ _ _ _ hn).trans (if_pos hl)
  refine ⟨{ pc := x.g.pc, id := x.since (v.hold x.g x.ex) l }, rfl, ?_⟩
  rw [Iss.holdMarked, Iss.note, thread_modThreads _ _ _ _ _ _ hn, if_pos hl]
  exact congrArg (fun t : Thread => { t with mark := some { pc := x.g.pc, id := x.since (v.hold x.g x.ex) l } }) hheld

/-- Each executing lane stands at its word, marked, until it is offered again. -/
theorem waiting_lane {i : Instr} {s v : State} {x : Iss} (hr : Ready i s x) {l : Nat} (hl : l ∈ x.ex) :
    ((x.waiting v).thread x.g.core x.g.slot l).mode = .waiting .retry ∧
      ((x.waiting v).thread x.g.core x.g.slot l).ctl = (s.thread x.g.core x.g.slot l).ctl ∧
      (((x.waiting v).thread x.g.core x.g.slot l).mark.map (·.pc)) = some x.g.pc := by
  have hn := ready_ex_nodup hr
  have hctl : (x.th l).ctl = (s.thread x.g.core x.g.slot l).ctl := by
    rw [Iss.th, (ready_ex hr).2.1, whole_ctl]
  obtain ⟨m, hm, hheld⟩ := holdMarked_lane v hn hl
  unfold Iss.waiting
  rw [keep_nil_thread, Iss.unrun, thread_modThreads _ _ _ _ _ _ hn, if_pos hl, hheld, hctl]
  exact ⟨rfl, rfl, congrArg some hm⟩

/-! ### Operands -/

section
variable {wa wb : Nat} {ops : Iss → Nat → List Nat} {h : Iss → State → Nat → Act} {x : Iss} {s : State}

theorem leaseOp_alike (ha : x.alike ops) (hw : ∀ l ∈ x.ex, x.a l < 2 ^ wa ∧ x.b l < 2 ^ wb) :
    leaseOp wa wb ops h x s = h x s x.low := by
  have hnone : x.ex.filter (fun l => 2 ^ wa ≤ x.a l || 2 ^ wb ≤ x.b l) = [] :=
    List.filter_eq_nil_iff.2 (fun l hl => by
      obtain ⟨h1, h2⟩ := hw l hl
      simp [h1, h2])
  unfold leaseOp
  rw [hnone]
  exact uniform_alike s ha

theorem leaseOp_reserved (hw : ∃ l ∈ x.ex, 2 ^ wa ≤ x.a l ∨ 2 ^ wb ≤ x.b l) :
    leaseOp wa wb ops h x s = .trap s [] trapIllegal 6 (x.ex.filter (fun l => 2 ^ wa ≤ x.a l || 2 ^ wb ≤ x.b l)) := by
  obtain ⟨l, hl, hw⟩ := hw
  have hmem : l ∈ x.ex.filter (fun l => 2 ^ wa ≤ x.a l || 2 ^ wb ≤ x.b l) := List.mem_filter.2 ⟨hl, by simpa using hw⟩
  unfold leaseOp
  split
  · rename_i k r he
    rw [he]
  · rename_i he
    rw [he] at hmem
    exact absurd hmem List.not_mem_nil
end

section
variable {i : Instr} {wa wb : Nat} {ops : Iss → Nat → List Nat} {h : Iss → State → Nat → Act}
  (hx : ∀ s, exec i s = issue i (leaseOp wa wb ops h) s)
include hx

/-- A reserved bit of an operand raises the trap in the lanes that have one (13 R424). -/
theorem lease_raises : Raises i (fun x _ => ∃ l ∈ x.ex, 2 ^ wa ≤ x.a l ∨ 2 ^ wb ≤ x.b l) 1 6
    (fun x => x.ex.filter (fun l => 2 ^ wa ≤ x.a l || 2 ^ wb ≤ x.b l)) :=
  raises_of hx (fun _ _ hw => leaseOp_reserved hw)

theorem lease_does {pre : Iss → State → Prop} {eff : Iss → State → State}
    (hb : ∀ x u, pre x u → h x u x.low = .done (eff x u) x.ex) :
    Does i (fun x s => x.alike ops ∧ (∀ l ∈ x.ex, x.a l < 2 ^ wa ∧ x.b l < 2 ^ wb) ∧ pre x s) eff :=
  does_of hx (fun x u ⟨ha, hw, hp⟩ => (leaseOp_alike ha hw).trans (hb x u hp))

theorem lease_awaits {s v : State} {x : Iss} (hr : Ready i s x) (ha : x.alike ops)
    (hw : ∀ l ∈ x.ex, x.a l < 2 ^ wa ∧ x.b l < 2 ^ wb) (hb : h x (x.moved s) x.low = x.await v) :
    exec i s = .next (x.waiting v) := by
  rw [hx, issue_go _ hr, ← finish_await v ha.1, ← hb,
    ← leaseOp_alike (h := h) (s := x.moved s) ha hw]
  rfl
end

/-! ### Each instruction's issue -/

theorem lsreq_issue (o : AForm) (s : State) : exec (.lsreq o) s = issue (.lsreq o) lsreqBody s :=
  issueRow_issue (i := .lsreq o) rfl (fun x hx => by rw [Iss.deferredDest, hx]) (fun _ _ _ => rfl) s
theorem lsrenew_issue (o : AForm) (s : State) : exec (.lsrenew o) s = issue (.lsrenew o) lsrenewBody s :=
  issueRow_issue (i := .lsrenew o) rfl (fun x hx => by rw [Iss.deferredDest, hx]) (fun _ _ _ => rfl) s
theorem lsdrop_issue (o : AForm) (s : State) : exec (.lsdrop o) s = issue (.lsdrop o) lsdropBody s :=
  issueRow_issue (i := .lsdrop o) rfl (fun x hx => by rw [Iss.deferredDest, hx]) (fun _ _ _ => rfl) s
theorem exlend_issue (o : AForm) (s : State) : exec (.exlend o) s = issue (.exlend o) exlendBody s :=
  issueRow_issue (i := .exlend o) rfl (fun x hx => by rw [Iss.deferredDest, hx]) (fun _ _ _ => rfl) s
theorem lsrecall_issue (o : AForm) (s : State) : exec (.lsrecall o) s = issue (.lsrecall o) lsrecallBody s :=
  issueRow_issue (i := .lsrecall o) rfl (fun x hx => by rw [Iss.deferredDest, hx]) (fun _ _ _ => rfl) s
theorem lsrd_issue (o : AForm) (s : State) : exec (.lsrd o) s = issue (.lsrd o) lsrdBody s :=
  issueRow_issue (i := .lsrd o) rfl (fun x hx => by rw [Iss.deferredDest, hx]) (fun _ _ _ => rfl) s

/-- What the lanes that wait leave of the state once a request has gone out. -/
theorem waiting_request (x : Iss) (u : State) (i kind peer : Nat) (g : Lease → Lease) :
    (∀ pa, (x.waiting ((u.modBorrower i g).send kind peer i)).memByte pa = u.memByte pa) ∧
      (x.waiting ((u.modBorrower i g).send kind peer i)).borrower i = g (u.borrower i) ∧
      (x.waiting ((u.modBorrower i g).send kind peer i)).sent = (kind, peer, i) :: u.sent := by
  have hframe := waiting_frame x ((u.modBorrower i g).send kind peer i)
  exact ⟨fun pa => (congrArg (fun w : State => w.memByte pa) hframe :),
    (congrArg (fun w : State => w.borrower i) hframe :).trans (borrower_set (s := u) rfl).1, (congrArg State.sent hframe :)⟩

theorem named_true {s : State} {id : Nat} (h : (s.borrower (id % 2 ^ 12)).st = 2 ∧ (s.borrower (id % 2 ^ 12)).gen = id / 2 ^ 12) :
    s.named id = true := by
  simpa [State.named] using h

theorem named_false {s : State} {id : Nat} (h : ¬ ((s.borrower (id % 2 ^ 12)).st = 2 ∧ (s.borrower (id % 2 ^ 12)).gen = id / 2 ^ 12)) :
    s.named id = false := by
  simpa [State.named] using h

/-! ### First offers -/

section
variable {o : AForm} {s : State} {x : Iss}

theorem lsreq_asks (hr : Ready (.lsreq o) s x) (ha : x.alike (fun x l => [x.a l, x.b l]))
    (hw : ∀ l ∈ x.ex, x.a l < 2 ^ 34 ∧ x.b l < 2 ^ 64) (hn : x.asked x.low = false)
    (h0 : (s.borrower (x.a x.low / 2 ^ 22 % 2 ^ 12)).st = 0) (hk : s.knows (x.a x.low % 2 ^ 10) = true) :
    exec (.lsreq o) s = .next (x.waiting (((x.moved s).modBorrower (x.a x.low / 2 ^ 22 % 2 ^ 12) (fun b => { b with
      st := 1, gen := nextGen b.gen, peer := x.a x.low % 2 ^ 10, ext := x.a x.low / 2 ^ 10 % 2 ^ 12, pent := 0, term := x.b x.low,
      since := s.time, ask := some (x.b x.low), answer := none })).send 1 (x.a x.low % 2 ^ 10) (x.a x.low / 2 ^ 22 % 2 ^ 12))) := by
  refine lease_awaits (lsreq_issue o) hr ha hw ?_
  dsimp only
  rw [bitsAt_zero, if_neg (ne_true_of_eq_false hn)]
  refine (if_neg (not_not.2 h0)).trans (if_neg ?_)
  rw [show (x.moved s).knows (x.a x.low % 2 ^ 10) = true from hk]
  decide

theorem lsrenew_asks (hr : Ready (.lsrenew o) s x) (ha : x.alike (fun x l => [x.a l, x.b l]))
    (hw : ∀ l ∈ x.ex, x.a l < 2 ^ 16 ∧ x.b l < 2 ^ 64) (hn : x.asked x.low = false)
    (h2 : (s.borrower (x.a x.low % 2 ^ 12)).st = 2) (hg : (s.borrower (x.a x.low % 2 ^ 12)).gen = x.a x.low / 2 ^ 12) :
    exec (.lsrenew o) s = .next (x.waiting (((x.moved s).modBorrower (x.a x.low % 2 ^ 12) (fun b => { b with
      since := s.time, ask := some (x.b x.low), answer := none })).send 2 (s.borrower (x.a x.low % 2 ^ 12)).peer
        (x.a x.low % 2 ^ 12))) := by
  refine lease_awaits (lsrenew_issue o) hr ha hw ?_
  dsimp only
  rw [if_neg (ne_true_of_eq_false hn), show (x.moved s).named (x.a x.low) = true from named_true ⟨h2, hg⟩]
  rfl

theorem lsdrop_ends (hr : Ready (.lsdrop o) s x) (ha : x.alike (fun x l => [x.a l]))
    (hw : ∀ l ∈ x.ex, x.a l < 2 ^ 16 ∧ x.b l < 2 ^ 32) (hn : x.asked x.low = false)
    (h2 : (s.borrower (x.a x.low % 2 ^ 12)).st = 2) (hg : (s.borrower (x.a x.low % 2 ^ 12)).gen = x.a x.low / 2 ^ 12) :
    exec (.lsdrop o) s = .next (x.waiting ((x.moved s).endBorrower (x.a x.low % 2 ^ 12) 4)) := by
  refine lease_awaits (lsdrop_issue o) hr ha hw ?_
  dsimp only
  rw [if_neg (ne_true_of_eq_false hn), show (x.moved s).named (x.a x.low) = true from named_true ⟨h2, hg⟩]
  rfl

theorem lsrecall_begins (hr : Ready (.lsrecall o) s x) (ha : x.alike (fun x l => [x.a l]))
    (hw : ∀ l ∈ x.ex, x.a l < 2 ^ 12 ∧ x.b l < 2 ^ 32) (hn : x.asked x.low = false) (h2 : (s.lender (x.a x.low)).st = 2) :
    exec (.lsrecall o) s = .next (x.waiting ((x.moved s).beginRecall (x.a x.low) false)) := by
  refine lease_awaits (lsrecall_issue o) hr ha hw ?_
  dsimp only
  rw [if_neg (ne_true_of_eq_false hn)]
  exact if_pos h2
end

/-- The answer to what a group has asked for completes it. -/
theorem answered_some {x : Iss} {s : State} {i c : Nat} (h : (s.borrower i).answer = some c) (f : Nat → Nat) :
    x.answered s i f = .done (x.giveAll (s.modBorrower i (fun b => { b with answer := none })) (f c)) x.ex := by
  unfold Iss.answered
  rw [h]
  rfl

/-! ### The obligation -/

/-- Settles O42, instruction by instruction. -/
theorem leaseInstructions : Obligations.LeaseInstructions := by
  refine ⟨fun o => lease_raises (lsreq_issue o), fun o => lease_raises (lsrenew_issue o), fun o => lease_raises (lsdrop_issue o),
    fun o => lease_raises (exlend_issue o), fun o => lease_raises (lsrecall_issue o), fun o => lease_raises (lsrd_issue o),
    ?_, ?_, ?_, ?_, ?_, ?_, ?_, ?_, ?_, ?_, ?_, ?_, ?_, ?_, ?_, fun _ _ => rfl⟩
  · intro o s x hr ha hw hn h0 hk
    obtain ⟨hbytes, hentry, hsent⟩ := waiting_request x (x.moved s) (x.a x.low / 2 ^ 22 % 2 ^ 12) 1 (x.a x.low % 2 ^ 10) _
    exact ⟨_, lsreq_asks hr ha hw hn h0 hk, hbytes, hentry, hsent, fun l hl => waiting_lane hr hl⟩
  · exact fun o => lease_does (lsreq_issue o) (fun x u ⟨hn, h0⟩ => (if_neg (ne_true_of_eq_false hn)).trans (if_pos h0))
  · refine fun o => lease_does (lsreq_issue o) (fun x u ⟨hn, h0, hk⟩ => ?_)
    dsimp only
    rw [bitsAt_zero, if_neg (ne_true_of_eq_false hn), hk]
    exact if_neg (not_not.2 h0)
  · exact fun c o => lease_does (lsreq_issue o) (fun x u ⟨hn, hc⟩ => (if_pos hn).trans (answered_some hc _))
  · intro o s x hr ha hw hn h2 hg
    obtain ⟨hbytes, hentry, hsent⟩ := waiting_request x (x.moved s) (x.a x.low % 2 ^ 12) 2 (s.borrower (x.a x.low % 2 ^ 12)).peer _
    exact ⟨_, lsrenew_asks hr ha hw hn h2 hg, hbytes, hentry, hsent, fun l hl => waiting_lane hr hl⟩
  · refine fun o => lease_does (lsrenew_issue o) (fun x u ⟨hn, h⟩ => ?_)
    dsimp only
    rw [if_neg (ne_true_of_eq_false hn), named_false h]
    rfl
  · exact fun c o => lease_does (lsrenew_issue o) (fun x u ⟨hn, hc⟩ => (if_pos hn).trans (answered_some hc _))
  · intro o s x hr ha hw hn h2 hg
    have hframe := waiting_frame x ((x.moved s).endBorrower (x.a x.low % 2 ^ 12) 4)
    exact ⟨_, lsdrop_ends hr ha hw hn h2 hg, fun pa => (congrArg (fun w : State => w.memByte pa) hframe :),
      (congrArg (fun w : State => w.borrower (x.a x.low % 2 ^ 12)) hframe :).trans (borrower_set (s := s) rfl).1,
      (congrArg State.sent hframe :), fun l hl => waiting_lane hr hl⟩
  · refine fun o => lease_does (lsdrop_issue o) (fun x u ⟨hn, h⟩ => ?_)
    dsimp only
    rw [if_neg (ne_true_of_eq_false hn), named_false h]
    rfl
  · exact fun o => lease_does (lsdrop_issue o) (fun x u ⟨hn, h⟩ => (if_pos hn).trans (if_neg h))
  · exact fun o => acts_still (exlend_issue o) (fun x u ⟨ha, hw⟩ => leaseOp_alike ha hw) (fun _ _ _ => sameWeaves_of rfl rfl rfl)
  · intro o s x hr ha hw hn h2
    have hframe := waiting_frame x ((x.moved s).beginRecall (x.a x.low) false)
    have hrecall := recallTenure_untenured ((x.moved s).modLender (x.a x.low) (fun l => { l with st := 3, byTerm := false }))
      s.pkg (x.a x.low)
    exact ⟨_, lsrecall_begins hr ha hw hn h2,
      fun pa => (congrArg (fun w : State => w.memByte pa) hframe :).trans (congrArg (fun w : State => w.memByte pa) hrecall :),
      (congrArg (fun w : State => w.lender (x.a x.low)) hframe :).trans (beginRecall_lender (x.moved s) (x.a x.low) false).1,
      (congrArg State.sent hframe :).trans (congrArg State.sent hrecall :), fun l hl => waiting_lane hr hl⟩
  · exact fun o => lease_does (lsrecall_issue o) (fun x u ⟨hn, h2, h3⟩ =>
      (if_neg (ne_true_of_eq_false hn)).trans ((if_neg h2).trans (if_neg h3)))
  · exact fun o => lease_does (lsrecall_issue o) (fun x u ⟨hn, h3⟩ => (if_pos hn).trans (if_neg h3))
  · refine fun o => acts_gives (eff := fun _ s => s) (lsrd_issue o) (fun x u ⟨ha, hw⟩ => (leaseOp_alike ha hw).trans ?_)
      (fun _ u _ => .rfl' u)
    rw [Nat.testBit_eq_decide_div_mod_eq]
    rfl

end Sys2Proof.Machine
end

section
/-! SUPPORT. Keys, the fabric manager, migration and the tile-window load of the house cores (13 R427, R429, R433, R435). -/

namespace Sys2Proof.Machine

/-! ### Protected sessions (13 R435) -/

theorem kyopen_issue (o : AForm) (s : State) : exec (.kyopen o) s = issue (.kyopen o) kyopenBody s :=
  issueRow_issue (i := .kyopen o) rfl (fun x hx => by rw [Iss.deferredDest, hx]) (fun _ _ _ => rfl) s
theorem kyclose_issue (o : AForm) (s : State) : exec (.kyclose o) s = issue (.kyclose o) kycloseBody s :=
  issueRow_issue (i := .kyclose o) rfl (fun x hx => by rw [Iss.deferredDest, hx]) (fun _ _ _ => rfl) s

/-- A group with a free slot: the session fails, or its key takes one of them. -/
theorem openKey_takes (s : State) (group peer : Nat) (k : Word) (h : s.freeKeys group ≠ []) :
    ((s.openKey group peer k).1.keys = s.keys ∧ ((s.openKey group peer k).2 = 0x11 ∨ (s.openKey group peer k).2 = 5)) ∨
      ∃ n ∈ s.freeKeys group, (s.openKey group peer k).1.keys = tabSet (group * 64 + n) (peer, k) s.keys ∧
        (s.openKey group peer k).2 = (n * 8 + group) * 2 ^ 16 := by
  have hlt : s.draw.1.toNat / 4 % (s.freeKeys group).length < (s.freeKeys group).length := Nat.mod_lt _ (List.length_pos_iff.2 h)
  have hmem : (s.freeKeys group).getD (s.draw.1.toNat / 4 % (s.freeKeys group).length) 0 ∈ s.freeKeys group := by
    rw [List.getD_eq_getElem _ _ hlt]
    exact List.getElem_mem hlt
  unfold State.openKey
  dsimp only
  split
  · exact .inl ⟨rfl, .inl rfl⟩
  · exact .inl ⟨rfl, .inr rfl⟩
  · exact .inr ⟨_, hmem, rfl, rfl⟩

/-! ### The fabric manager (13 R429) -/

/-- What fmcand does in its executing lanes. -/
def fmcandBody : Iss → State → Act := fun x s =>
  if x.ex.isEmpty then .done s []
  else .done (x.giveAll { s with fm := { s.fm with priority := x.f.imm.toNat } } s.fmWord) x.ex

theorem fmcand_issue (o : LForm) (s : State) : exec (.fmcand o) s = issue (.fmcand o) fmcandBody s :=
  issueRow_issue (i := .fmcand o) (body := fmcandBody) rfl (fun x hx => by rw [Iss.deferredDest, hx]) (fun _ _ _ => rfl) s

theorem fmWord_eq (s : State) : s.fmWord = match s.fm.manager with
    | some p => if s.time < s.fm.expiry then p % 2 ^ 10 + (if p = s.pkg then 2 ^ 10 else 0) + 2 ^ 11 else 0
    | none => 0 := by
  unfold State.fmWord FabricMgr.active
  cases s.fm.manager with
  | none => rfl
  | some p => by_cases h : s.time < s.fm.expiry <;> simp [h, Option.filter]

/-! ### Migration (13 R427) -/

theorem exmig_issue (o : XForm) (s : State) : exec (.exmig o) s = issue (.exmig o) exmigBody s :=
  issueRow_issue (i := .exmig o) rfl (fun x hx => by rw [Iss.deferredDest, hx]) (fun _ _ _ => rfl) s

/-! ### The tile-window load (13 R433) -/

/-- A house core after the load: the bytes of its elements from vstart on stand in vd. -/
def House.loaded (h : House) (vd : Nat) (bytes : List Byte) : House :=
  { h with v := ((bytes.zipIdx (vd * (Config.houseVlen + 1))).drop (h.vstart * (h.sew / 8))).foldl (fun m e => tabPut 0 e.2 e.1 m) h.v,
           pc := h.pc + 4, vstart := 0, waiting := false }

theorem drop_zipIdx {α : Type} (l : List α) (o k : Nat) : (l.zipIdx o).drop k = (l.drop k).zipIdx (o + k) := by
  induction k generalizing l o with
  | zero => rfl
  | succ k ih =>
    cases l with
    | nil => rfl
    | cons a t => rw [List.zipIdx_cons, List.drop_succ_cons, List.drop_succ_cons, ih, Nat.add_right_comm, Nat.add_assoc]

theorem loaded_v (h : House) (vd : Nat) (y : Team) (o n j : Nat) :
    tabGet 0 j (h.loaded vd (y.bufRead o n)).v =
      if vd * (Config.houseVlen + 1) + h.vstart * (h.sew / 8) ≤ j ∧ j < vd * (Config.houseVlen + 1) + n then
        tabGet 0 (o + (j - vd * (Config.houseVlen + 1))) y.opbuf
      else tabGet 0 j h.v := by
  unfold House.loaded Team.bufRead
  generalize vd * (Config.houseVlen + 1) = base
  generalize h.vstart * (h.sew / 8) = from_
  dsimp only
  rw [drop_zipIdx, tabGet_putList]
  by_cases hlo : base + from_ ≤ j
  · rw [if_pos hlo, List.getElem?_drop, show from_ + (j - (base + from_)) = j - base by omega]
    by_cases hhi : j < base + n
    · rw [if_pos ⟨hlo, hhi⟩, List.getElem?_map, List.getElem?_range (by omega)]
      rfl
    · rw [if_neg (fun h => hhi h.2), List.getElem?_eq_none (by rw [List.length_map, List.length_range]; omega)]
      rfl
  · rw [if_neg hlo, if_neg (fun h => hlo h.1)]

section
variable {s : State} {vd rs1 rs2 : BitVec 5} {k : Nat × Nat}

theorem twlV_unmapped (hw : tabFind ((s.house s.cur.house).xreg rs1.toNat % 16) s.windows = none) :
    exec (.twlV vd rs1 rs2) s = .next (s.modHouse s.cur.house (fun h => h.except 2)) := by
  show execTwlV vd rs1 rs2 s = _
  unfold execTwlV
  dsimp only
  rw [hw]

section
variable (hw : tabFind ((s.house s.cur.house).xreg rs1.toNat % 16) s.windows = some k)
include hw

/-- What the load does where its window is mapped. -/
theorem twlV_mapped : exec (.twlV vd rs1 rs2) s = .next (s.modHouse s.cur.house (
    let h := s.house s.cur.house
    let off := h.xreg rs2.toNat
    if vd.toNat % max 1 h.lmul ≠ 0 then fun h => h.except 2
    else if off % (h.sew / 8) ≠ 0 then fun h => h.except 5
    else match (s.core k.1).physSlot k.2 with
      | none => fun h => { h with waiting := true }
      | some (y, i) =>
        if ((s.team y).tslot i).st ≠ .ready then fun h => { h with waiting := true }
        else if ((s.team y).tslot i).len < off + h.vl * (h.sew / 8) then fun h => h.except 5
        else fun h => h.loaded vd.toNat
          ((s.team y).bufRead (((s.team y).tslot i).base.getD 0 + off) ((s.house s.cur.house).vl * ((s.house s.cur.house).sew / 8))))) := by
  show execTwlV vd rs1 rs2 s = _
  unfold execTwlV
  dsimp only
  rw [hw]
  dsimp only
  split
  · rfl
  · split
    · rfl
    · cases (s.core k.1).physSlot k.2 with
      | none => rfl
      | some p =>
        dsimp only
        split
        · rfl
        · split <;> rfl

variable (hm : vd.toNat % max 1 (s.house s.cur.house).lmul = 0)
include hm

theorem twlV_misaligned (ho : (s.house s.cur.house).xreg rs2.toNat % ((s.house s.cur.house).sew / 8) ≠ 0) :
    exec (.twlV vd rs1 rs2) s = .next (s.modHouse s.cur.house (fun h => h.except 5)) := by
  rw [twlV_mapped hw]
  dsimp only
  rw [if_neg (not_not.2 hm), if_pos ho]

variable (ho : (s.house s.cur.house).xreg rs2.toNat % ((s.house s.cur.house).sew / 8) = 0)
include ho

theorem twlV_unserved (hp : (s.core k.1).physSlot k.2 = none) :
    exec (.twlV vd rs1 rs2) s = .next (s.modHouse s.cur.house (fun h => { h with waiting := true })) := by
  rw [twlV_mapped hw]
  dsimp only
  rw [if_neg (not_not.2 hm), if_neg (not_not.2 ho), hp]

variable {y i : Nat} {q : TileSlot} (hp : (s.core k.1).physSlot k.2 = some (y, i)) (hq : (s.team y).tslot i = q)
include hp hq

/-- What it does where the slot behind the window is known. -/
theorem twlV_served : exec (.twlV vd rs1 rs2) s = .next (s.modHouse s.cur.house (
    if q.st ≠ .ready then fun h => { h with waiting := true }
    else if q.len < (s.house s.cur.house).xreg rs2.toNat + (s.house s.cur.house).vl * ((s.house s.cur.house).sew / 8) then
      fun h => h.except 5
    else fun h => h.loaded vd.toNat ((s.team y).bufRead (q.base.getD 0 + (s.house s.cur.house).xreg rs2.toNat)
      ((s.house s.cur.house).vl * ((s.house s.cur.house).sew / 8))))) := by
  rw [twlV_mapped hw]
  dsimp only
  rw [if_neg (not_not.2 hm), if_neg (not_not.2 ho), hp]
  dsimp only
  rw [hq]

theorem twlV_loads (hr : q.st = .ready)
    (hl : (s.house s.cur.house).xreg rs2.toNat + (s.house s.cur.house).vl * ((s.house s.cur.house).sew / 8) ≤ q.len) :
    ∃ t, exec (.twlV vd rs1 rs2) s = .next t ∧ { t with houses := s.houses } = s ∧
      t.house s.cur.house = (s.house s.cur.house).loaded vd.toNat ((s.team y).bufRead
        (q.base.getD 0 + (s.house s.cur.house).xreg rs2.toNat)
        ((s.house s.cur.house).vl * ((s.house s.cur.house).sew / 8))) := by
  refine ⟨_, twlV_served hw hm ho hp hq, rfl, ?_⟩
  rw [if_neg (not_not.2 hr), if_neg (not_lt.2 hl)]
  exact (tabGet_set ..).trans (if_pos rfl)
end
end

/-! ### The obligation -/

/-- Settles O43, instruction by instruction. -/
theorem keysManagerMigrationHouse : Obligations.KeysManagerMigrationHouse := by
  refine ⟨?_, ?_, ?_, ?_, openKey_takes, ?_, ?_, ?_, ?_, ?_, fun _ _ => ⟨rfl, rfl, rfl, rfl, rfl, rfl⟩⟩
  · exact fun o => lease_does (kyopen_issue o) (fun x u h4 => if_pos h4)
  · exact fun o => lease_does (kyopen_issue o) (fun x u ⟨h4, hk⟩ =>
      (if_neg (not_lt.2 h4)).trans (if_pos (by rw [hk]; rfl)))
  · exact fun o => lease_does (kyopen_issue o) (fun x u ⟨h4, hk, hf⟩ =>
      (if_neg (not_lt.2 h4)).trans ((if_neg (by rw [hk]; decide)).trans (if_pos (List.isEmpty_iff.2 hf))))
  · exact fun o => lease_does (kyopen_issue o) (fun x u ⟨h4, hk, hf⟩ =>
      (if_neg (not_lt.2 h4)).trans ((if_neg (by rw [hk]; decide)).trans (if_neg (fun he => hf (List.isEmpty_iff.1 he)))))
  · exact fun o => lease_does (kyclose_issue o) (fun x u h => if_pos (h.imp_right Option.isNone_iff_eq_none.2))
  · refine fun o => lease_does (kyclose_issue o) (fun x u ⟨h4, hk⟩ => if_neg ?_)
    rw [not_or, Option.isNone_iff_eq_none]
    exact ⟨not_lt.2 h4, Option.isSome_iff_ne_none.1 hk⟩
  · intro o
    have hacts := acts_gives (v := fun _ s => s.fmWord) (pre := fun x _ => x.ex ≠ [])
      (eff := fun x s => { s with fm := { s.fm with priority := x.f.imm.toNat } }) (fmcand_issue o)
      (fun x u hne => if_neg (by simpa using hne)) (fun _ _ _ => sameWeaves_of rfl rfl rfl)
    rw [show (fun (_ : Iss) (s : State) => s.fmWord) = _ from funext (fun _ => funext fmWord_eq)] at hacts
    exact hacts
  · refine fun o => engPosts_of (exmig_issue o) rfl (fun _ _ => rfl)
      (fun x s ha ⟨ha0, hb0, hd0, hpos, hmax, hsrc, hdst, hmeet⟩ => ?_)
    rw [uniform_alike s ha]
    dsimp only
    rw [if_neg (by omega), hsrc, hdst]
    dsimp only
    rw [hmeet]
    rfl
  · intro vd rs1 rs2 s h off eb
    refine ⟨twlV_unmapped, fun k hw hm => ?_, fun k hw hm ho => twlV_misaligned hw hm ho,
      fun core phys hw hm ho hp => twlV_unserved hw hm ho hp, fun core phys y i q hw hm ho hp hq => ⟨fun hr => ?_, fun hr hl => ?_, fun hr hl => ?_⟩⟩
    · rw [twlV_mapped hw]
      dsimp only
      rw [if_pos hm]
    · rw [twlV_served hw hm ho hp hq, if_pos hr]
    · rw [twlV_served hw hm ho hp hq, if_neg (not_not.2 hr), if_pos hl]
    · obtain ⟨t, ht, hframe, hhouse⟩ := twlV_loads hw hm ho hp hq hr hl
      refine ⟨t, ht, hframe, ?_, ?_, ?_, fun j => ?_⟩
      · rw [hhouse]; rfl
      · rw [hhouse]; rfl
      · rw [hhouse]; rfl
      · rw [hhouse]
        exact loaded_v _ _ _ _ _ j

end Sys2Proof.Machine
end

section
/-! SUPPORT. System registers (12 R387 to R390, Table 4): what stands behind each number, and what a write leaves. -/

namespace Sys2Proof.Machine

/-! ### What stands behind a number -/

theorem agent_team {s : State} {c w y : Nat} (h : (s.weave c w).team = some y) :
    s.agent c w = { core := c, ctx := (s.team y).ctx, fw := false, team := some y, gtkt := (s.team y).gtkt } := by
  unfold State.agent
  rw [h]

theorem agent_none {s : State} {c w : Nat} (h : (s.weave c w).team = none) :
    s.agent c w = { core := c, ctx := 0, fw := true, team := none, gtkt := 0 } := by
  unfold State.agent
  rw [h]

theorem trCtl_eq (x : Weave) : x.trCtl = (if x.trH then 1 else 0) + (if x.trM then 2 else 0) + (if x.trSkip then 4 else 0) := by
  unfold Weave.trCtl bit
  cases x.trH <;> cases x.trM <;> cases x.trSkip <;> rfl

theorem sliceLeft_eq (p : Preempt) (now : Nat) : p.sliceLeft now = if p.slice = 0 ∨ p.expired = true then 0 else
    match p.charged with
    | none => p.left
    | some f => p.left - (now - f) := by
  unfold Preempt.sliceLeft Preempt.settle
  simp only [Bool.or_eq_true, decide_eq_true_eq]
  cases p.charged <;> rfl

section
variable {s : State} {c w y : Nat}

theorem sregRead_team (h : (s.weave c w).team = some y) : let x := s.team y
    s.sregRead c w 0x001 = x.ctx ∧ s.sregRead c w 0x002 = (s.context x.ctx).ptroot.toNat ∧ s.sregRead c w 0x018 = x.cpErr ∧
    s.sregRead c w 0x019 = x.prog ∧ s.sregRead c w 0x031 = (s.context x.ctx).slDebt ∧
    s.sregRead c w 0x004 = ((x.spadBanks ++ x.bufBanks ++ x.garBanks).map (2 ^ ·)).sum ∧
    s.sregRead c w 0x030 = if x.pre.slice = 0 ∨ x.pre.expired = true then 0 else match x.pre.charged with
      | none => x.pre.left
      | some f => x.pre.left - (s.time - f) := by
  simp only [State.sregRead, agent_team h, Option.map_some, Option.getD_some, sliceLeft_eq, bankMask, and_self]

theorem sregRead_agent (h : (s.weave c w).team = none) :
    s.sregRead c w 0x001 = 0 ∧ s.sregRead c w 0x002 = (s.context 0).ptroot.toNat ∧ s.sregRead c w 0x004 = 0 ∧
    s.sregRead c w 0x018 = (s.core c).fwCpErr ∧ s.sregRead c w 0x019 = 0 ∧ s.sregRead c w 0x030 = 0 ∧
    s.sregRead c w 0x031 = (s.context 0).slDebt := by
  simp only [State.sregRead, agent_none h, Option.map_none, Option.getD_none, and_self]
end

/-- SYNCEST counts the entries of the die's engine (08 Table 11). -/
theorem sregRead_syncest (s : State) (c w : Nat) : s.sregRead c w 0x007 =
    min 65535 ((s.die (c / 36)).syncs.filter (fun e => e.overflow = true)).length * 2 ^ 32 +
      ((s.die (c / 36)).syncs.filter (fun e => e.overflow = false)).length % 2 ^ 17 := by
  simp only [State.sregRead, Die.syncest, dieOf, Bool.decide_eq_true, Bool.decide_eq_false]

/-- LARDRW names the next window to open, and its group (06 R200). -/
theorem sregRead_lardrw (s : State) (c w : Nat) : ∃ n, s.time ≤ 4000 * n ∧ 4000 * n < s.time + 4000 ∧
    refreshAt (4000 * n) (n % 16) = true ∧ s.sregRead c w 0x005 = n % 16 * 2 ^ 40 + 4000 * n % 2 ^ 40 := by
  refine ⟨(s.time + 3999) / 4000, by omega, by omega, ?_, ?_⟩
  · rw [refreshAt_iff]
    omega
  · rw [Nat.mul_comm 4000]
    rfl

theorem sregRead_record (s : State) (c w i : Nat) (hi : i < 4) :
    (∀ q, currentRec (s.core c).flt = some q → s.sregRead c w (0x040 + i) = ([q.w0, q.w1, q.w2, q.w3].getD i 0).toNat) ∧
    (currentRec (s.core c).flt = none → s.sregRead c w (0x040 + i) = 0) ∧
    (∀ q, currentRec (s.core c).eflt = some q → s.sregRead c w (0x048 + i) = ([q.w0, q.w1, q.w2, q.w3].getD i 0).toNat) ∧
    (currentRec (s.core c).eflt = none → s.sregRead c w (0x048 + i) = 0) := by
  interval_cases i <;>
    exact ⟨fun q h => by simp only [State.sregRead, h]; rfl, fun h => by simp only [State.sregRead, h]; rfl,
      fun q h => by simp only [State.sregRead, h]; rfl, fun h => by simp only [State.sregRead, h]; rfl⟩

/-- The current record has been presented with all of its number. -/
theorem currentRec_presented (rs : List FaultRec) (q : FaultRec) (h : currentRec rs = some q) :
    q ∈ rs ∧ q.shown = false ∧ ∀ r ∈ presented rs, r.idx = q.idx → r.shown = true := by
  refine ⟨List.mem_of_find?_eq_some h, by simpa using List.find?_some h, fun r hr he => ?_⟩
  unfold presented at hr
  rw [h] at hr
  obtain ⟨p, -, rfl⟩ := List.mem_map.1 hr
  by_cases hp : p.idx = q.idx
  · rw [if_pos hp]
  · rw [if_neg hp] at he
    exact absurd he hp

theorem sregMask_eq (n : Nat) : sregMask n = if n = 0x002 then 2 ^ 56 - 1 else if n = 0x010 then 0x11F else if n = 0x011 then 0x1F
    else if n = 0x012 then 2 ^ 32 - 1 else if n = 0x018 then 0xFF else if n = 0x019 then 0xFFFF else if n = 0x024 then 6
    else if n = 0x050 then 2 ^ 64 - 1 else 0 := by
  unfold sregMask
  split <;> simp_all

theorem sregStore_unwritable (s : State) (c w n v : Nat) (h : sregMask n = 0) : s.sregStore c w n v = s := by
  rw [sregMask_eq] at h
  unfold State.sregStore
  dsimp only
  split <;> simp_all

theorem sregStore_team {s : State} {c w y : Nat} (v : Nat) (h : (s.weave c w).team = some y) (hy : (s.findTeam y).isSome = true) :
    (s.sregStore c w 0x018 v).team y = { s.team y with cpErr := v } ∧ (s.sregStore c w 0x019 v).team y = { s.team y with prog := v } := by
  simp only [State.sregStore, agent_team h]
  exact ⟨team_modTeam hy _, team_modTeam hy _⟩

theorem sregStore_agent {s : State} {c w : Nat} (v : Nat) (h : (s.weave c w).team = none) :
    (s.sregStore c w 0x018 v).core c = { s.core c with fwCpErr := v } ∧ s.sregStore c w 0x019 v = s := by
  simp only [State.sregStore, agent_none h]
  exact ⟨(core_modCore ..).trans (if_pos rfl), trivial⟩

theorem sregStore_fields (s : State) (c w v : Nat) : ((s.sregStore c w 0x024 v).weave c w).trM = v.testBit 1 ∧
    ((s.sregStore c w 0x024 v).weave c w).trSkip = v.testBit 2 ∧ ((s.sregStore c w 0x024 v).weave c w).trH = (s.weave c w).trH ∧
    ((s.sregStore c w 0x050 v).core c).fwTrap = BitVec.ofNat 64 v ∧
    ((s.sregStore c w 0x002 v).context (s.agent c w).ctx).ptroot = BitVec.ofNat 64 v ∧
    ∀ n, sregMask n = 0 → s.sregStore c w n v = s := by
  have hctl : (s.sregStore c w 0x024 v).weave c w =
      { (s.weave c w).setM (bitAt v 1) s.time with trSkip := bitAt v 2 } := by
    simp only [State.sregStore]
    exact (weave_modWeave ..).trans (if_pos rfl)
  have hcore : (s.sregStore c w 0x050 v).core c = { s.core c with fwTrap := BitVec.ofNat 64 v } := by
    simp only [State.sregStore]
    exact (core_modCore ..).trans (if_pos rfl)
  have hctx : (s.sregStore c w 0x002 v).context (s.agent c w).ctx =
      { s.context (s.agent c w).ctx with ptroot := BitVec.ofNat 64 v } := by
    simp only [State.sregStore]
    exact (tabGet_set ..).trans (if_pos rfl)
  rw [hctl, hcore, hctx, ← bitAt_testBit, ← bitAt_testBit]
  exact ⟨rfl, rfl, rfl, rfl, rfl, fun n => sregStore_unwritable s c w n v⟩

/-! ### Registers held per thread -/

theorem perThreadReg_iff (n : Nat) : perThreadReg n = true ↔ n = 0x010 ∨ n = 0x011 ∨ n = 0x012 := by
  simp [perThreadReg, or_assoc]

theorem sreg_eq {n : Nat} (h : n = 0x010 ∨ n = 0x011 ∨ n = 0x012) (t : Thread) :
    t.sreg n = if n = 0x010 then t.fpCtl.toNat else if n = 0x011 then t.fpFlags.toNat else t.rsCount.toNat := by
  rcases h with rfl | rfl | rfl <;> rfl

/-! ### mfs (12 R390) -/

section
variable {o : AForm} {s : State} {x : Iss}

theorem mfs_thread (hr : Ready (.mfs o) s x) (hn : x.f.c.toNat = 0x010 ∨ x.f.c.toNat = 0x011 ∨ x.f.c.toNat = 0x012) :
    ∃ t, exec (.mfs o) s = .next t ∧ Computed s x (fun l => { reg := some (
      if x.f.c.toNat = 0x010 then (x.th l).fpCtl.toNat else if x.f.c.toNat = 0x011 then (x.th l).fpFlags.toNat
      else (x.th l).rsCount.toNat) }) t := by
  have hb : mfsBody x (x.moved s) = .done ((x.moved s).modThreads x.g.core x.g.slot x.ex (fun l t =>
      t.dest x.f.d (x.r.d.width x.f.b) ((x.th l).sreg x.f.c.toNat))) x.ex := if_pos ((perThreadReg_iff _).2 hn)
  refine ⟨_, (issue_go (i := .mfs o) mfsBody hr).trans (congrArg (fun a => Host.Outcome.next (x.finish a)) hb),
    computed_done _ (ready_nodup hr) (ready_ex_nodup hr) (ready_sub hr) (fun l _ t => ?_)⟩
  rw [← sreg_eq hn]
  exact dest_effect x t _
end

/-- A register that is held neither per thread nor outside the core. -/
theorem mfs_core {x : Iss} (hn : perThreadReg x.f.c.toNat = false) (hr : remoteReg x.f.c.toNat = false) (s : State) :
    mfsBody x s = .done (
      if x.ex.isEmpty then x.giveAll s (s.sregRead x.g.core x.g.slot x.f.c.toNat)
      else if x.f.c.toNat = 0x040 then (x.giveAll s (s.sregRead x.g.core x.g.slot x.f.c.toNat)).nextFlt x.g.core
      else if x.f.c.toNat = 0x048 then (x.giveAll s (s.sregRead x.g.core x.g.slot x.f.c.toNat)).nextEflt x.g.core
      else x.giveAll s (s.sregRead x.g.core x.g.slot x.f.c.toNat)) x.ex := by
  unfold mfsBody
  dsimp only
  rw [hn, hr]
  rfl

theorem mfs_plain (o : AForm) : Acts (.mfs o) (fun x _ => x.f.c.toNat ≠ 0x005 ∧ x.f.c.toNat ≠ 0x006 ∧ x.f.c.toNat ≠ 0x007 ∧
      x.f.c.toNat ≠ 0x010 ∧ x.f.c.toNat ≠ 0x011 ∧ x.f.c.toNat ≠ 0x012 ∧ x.f.c.toNat ≠ 0x040 ∧ x.f.c.toNat ≠ 0x048)
    (gives fun x s => s.sregRead x.g.core x.g.slot x.f.c.toNat) (fun x s => x.giveAll s (s.sregRead x.g.core x.g.slot x.f.c.toNat)) := by
  refine acts_gives (eff := fun _ s => s) (fun s => rfl) (fun x s ⟨h5, h6, h7, h10, h11, h12, h40, h48⟩ => ?_) (fun _ s _ => .rfl' s)
  rw [mfs_core (by simp [perThreadReg, h10, h11, h12]) (by simp [remoteReg, h5, h6, h7]), if_neg h40, if_neg h48, ite_self]

/-- What stands around an effect stands around it once a unit that holds no thread has changed as well. -/
theorem Stands.sameWeaves {s u v : State} {x : Iss} {out : Nat → LaneOut} (h : Stands s x out (x.settled u)) (hv : SameWeaves u v) :
    Stands s x out (x.settled v) := by
  have hs : SameWeaves (x.settled u) (x.settled v) := by
    unfold Iss.settled Iss.keep
    split
    · exact hv
    · exact sameWeaves_modThreads hv _ _ _ _
  have hthread : ∀ c w l, (x.settled v).thread c w l = (x.settled u).thread c w l := fun c w l =>
    congrArg (fun y : Weave => y.thread l) (hs.weave c w)
  obtain ⟨bytes, threads, tables, lanes⟩ := h
  refine ⟨fun pa => (hs.bytes pa).trans (bytes pa), fun c w l hn => ?_, fun c w => ?_, fun l hl => ?_⟩
  · rw [hthread]
    exact threads c w l hn
  · rw [hs.weave]
    exact tables c w
  · rw [hthread]
    exact lanes l hl

/-- A read of the first word of a current record presents it. -/
theorem mfs_record (o : AForm) (n : Nat) (g : Core → Core) (hg : ∀ k : Core, (g k).weaves = k.weaves)
    (hb : ∀ x s, x.ex ≠ [] → x.f.c.toNat = n →
      mfsBody x s = .done ((x.giveAll s (s.sregRead x.g.core x.g.slot n)).modCore x.g.core g) x.ex) :
    Acts (.mfs o) (fun x _ => x.ex ≠ [] ∧ x.f.c.toNat = n) (gives fun x s => s.sregRead x.g.core x.g.slot n)
      (fun x s => (x.giveAll s (s.sregRead x.g.core x.g.slot n)).modCore x.g.core g) := by
  intro s x hr ⟨hne, hn⟩
  refine ⟨exec_done (body := mfsBody) (fun _ => rfl) hr (hb x _ hne hn), ?_⟩
  have hgive := stands_effect (out := gives (fun x s => s.sregRead x.g.core x.g.slot n) x (x.moved s)) _ (ready_nodup hr)
    (ready_ex_nodup hr) (ready_sub hr) (SameWeaves.rfl' (x.moved s)) (fun l _ t => dest_effect x t _)
  exact hgive.sameWeaves (sameWeaves_modCore _ _ _ hg)

theorem mfs_flt (o : AForm) : Acts (.mfs o) (fun x _ => x.ex ≠ [] ∧ x.f.c.toNat = 0x040)
    (gives fun x s => s.sregRead x.g.core x.g.slot 0x040) (fun x s =>
      (x.giveAll s (s.sregRead x.g.core x.g.slot 0x040)).modCore x.g.core (fun k => { k with flt := presented k.flt })) :=
  mfs_record o 0x040 (fun k => { k with flt := presented k.flt }) (fun _ => rfl)
  (fun x s hne hn => by
    rw [mfs_core (by rw [hn]; rfl) (by rw [hn]; rfl), List.isEmpty_eq_false_iff.2 hne, if_pos hn, hn]
    rfl)
theorem mfs_eflt (o : AForm) : Acts (.mfs o) (fun x _ => x.ex ≠ [] ∧ x.f.c.toNat = 0x048)
    (gives fun x s => s.sregRead x.g.core x.g.slot 0x048) (fun x s =>
      (x.giveAll s (s.sregRead x.g.core x.g.slot 0x048)).modCore x.g.core (fun k => { k with eflt := presented k.eflt })) :=
  mfs_record o 0x048 (fun k => { k with eflt := presented k.eflt }) (fun _ => rfl)
  (fun x s hne hn => by
    rw [mfs_core (by rw [hn]; rfl) (by rw [hn]; rfl), List.isEmpty_eq_false_iff.2 hne, if_neg Bool.false_ne_true, if_neg (by rw [hn]; decide), if_pos hn,
      hn]
    rfl)

/-! ### Registers that come as deferred results (02 R55) -/

/-- The deferred results of lanes, none where the destination is vz. -/
def Iss.posting (x : Iss) (ls : List Nat) (v : Nat) : List Deferred :=
  if x.f.d = 511 then [] else ls.map (fun l =>
    { slot := x.g.slot, lane := l, reg := x.f.d.toNat, cnt := regsOf (x.r.d.width x.f.b), val := some v, pc := x.g.pc, va := 0 })

/-- `u` is `s` with the destination of the lanes `ls` set empty and their results posted. -/
structure Posts (x : Iss) (v : Nat) (ls : List Nat) (s u : State) : Prop where
  bytes : ∀ pa, u.memByte pa = s.memByte pa
  tables : SameTables s u
  threads : ∀ c w l, u.thread c w l = if c = x.g.core ∧ w = x.g.slot ∧ l ∈ ls then
    (s.thread c w l).setEmpty x.f.d (x.r.d.width x.f.b) else s.thread c w l
  deferred : (u.core x.g.core).deferred = (s.core x.g.core).deferred ++ x.posting ls v
  clock : u.time = s.time ∧ u.dies = s.dies

theorem posts_one {x : Iss} (s : State) (l v : Nat) (hs : x.g.spec = false) :
    Posts x v [l] s (s.defer x l x.f.d (x.r.d.width x.f.b) (some v) 0) := by
  by_cases hd : x.f.d = 511
  · have he : s.defer x l x.f.d (x.r.d.width x.f.b) (some v) 0 = s := if_pos hd
    rw [he]
    refine ⟨fun _ => rfl, fun _ _ => rfl, fun c w l => ?_, by rw [Iss.posting, if_pos hd, List.append_nil], rfl, rfl⟩
    rw [hd]
    exact (ite_self _).symm
  · have he : s.defer x l x.f.d (x.r.d.width x.f.b) (some v) 0 = (s.modThreads x.g.core x.g.slot [l]
        (fun _ t => t.setEmpty x.f.d (x.r.d.width x.f.b))).posts x.g.core (x.posting [l] v) := by
      refine (if_neg hd).trans ?_
      rw [Iss.posting, if_neg hd, hs]
      rfl
    rw [he]
    have ho := onlyThreads_modThreads s x.g.core x.g.slot [l] (fun _ t => t.setEmpty x.f.d (x.r.d.width x.f.b)) (List.nodup_singleton l)
    obtain ⟨hthreads, htables⟩ := stands_around ho
    refine ⟨fun _ => rfl, fun c w => ?_, fun c w m => ?_, ?_, rfl, rfl⟩
    · rw [quiet_posts]
      exact htables c w
    · rw [(quiet_posts _ _ _).thread]
      split
      · obtain ⟨rfl, rfl, hm⟩ := ‹_›
        rw [thread_modThreads _ _ _ _ _ _ (List.nodup_singleton l), if_pos hm]
      · exact hthreads c w m ‹_›
    · rw [State.posts, core_modCore, if_pos rfl, core_modThreads_deferred]

theorem Posts.cons {x : Iss} {v l : Nat} {ls : List Nat} {s u t : State} (h : Posts x v [l] s u) (k : Posts x v ls u t) (hl : l ∉ ls) :
    Posts x v (l :: ls) s t := by
  refine ⟨fun pa => (k.bytes pa).trans (h.bytes pa), fun c w => (k.tables c w).trans (h.tables c w), fun c w m => ?_, ?_,
    k.clock.1.trans h.clock.1, k.clock.2.trans h.clock.2⟩
  · rw [k.threads, h.threads]
    by_cases hm : m = l
    · subst hm
      simp [hl]
    · simp [hm]
  · rw [k.deferred, h.deferred, List.append_assoc]
    unfold Iss.posting
    split
    · rfl
    · rw [← List.map_append]
      rfl

/-- Every lane reads the same value, posted in turn. -/
theorem posts_all {x : Iss} (hs : x.g.spec = false) (v : Nat) (read : State → Nat) (hread : ∀ s u : State, u.time = s.time →
    u.dies = s.dies → read u = read s) (ls : List Nat) (hn : ls.Nodup) (s : State) (hv : read s = v) :
    Posts x v ls s (ls.foldl (fun s l => s.defer x l x.f.d (x.r.d.width x.f.b) (some (read s)) 0) s) := by
  induction ls generalizing s with
  | nil => exact ⟨fun _ => rfl, fun _ _ => rfl, fun c w l => by simp, by simp [Iss.posting], rfl, rfl⟩
  | cons l ls ih =>
    rw [List.nodup_cons] at hn
    have h1 := posts_one (x := x) s l v hs
    rw [List.foldl_cons, hv]
    exact h1.cons (ih hn.2 _ ((hread _ _ h1.clock.1 h1.clock.2).trans hv)) hn.1

/-- LARDRW, HGEN and SYNCEST depend on fabric time and on the dies alone. -/
theorem sregRead_remote {n : Nat} (hn : n = 0x005 ∨ n = 0x006 ∨ n = 0x007) (c w : Nat) (s u : State) (ht : u.time = s.time)
    (hd : u.dies = s.dies) : u.sregRead c w n = s.sregRead c w n := by
  rcases hn with rfl | rfl | rfl <;> simp only [State.sregRead, State.die, ht, hd]

/-- An instruction that does not speculate executes in no lane of a group that does. -/
theorem gate_calm {s : State} {g : Grp} {i : Instr} {f : Fields} {r : Row} {x : Iss} (h : s.gate g i f r false = .go x) :
    x.g.spec = false ∨ x.ex = [] := by
  rw [gate_go h]
  unfold State.gate at h
  simp only [Bool.not_false, Bool.true_or, Bool.and_true] at h
  repeat' split at h
  case isFalse hc =>
    dsimp only
    cases hs : g.spec with
    | false => exact .inl rfl
    | true => exact .inr (by simpa [hs] using hc)
  all_goals cases h

theorem mfs_remote_calm {o : AForm} {s : State} {x : Iss} (hr : Ready (.mfs o) s x)
    (hn : x.f.c.toNat = 0x005 ∨ x.f.c.toNat = 0x006 ∨ x.f.c.toNat = 0x007) : x.g.spec = false ∨ x.ex = [] := by
  have hf : x.f = o.fields := (ready_ex hr).2.2.1
  have hsp : (Instr.mfs o).speculates = false := by
    show [0x010, 0x011, 0x012].contains o.c.toNat = false
    rw [hf] at hn
    have hc : o.c.toNat = 0x005 ∨ o.c.toNat = 0x006 ∨ o.c.toNat = 0x007 := hn
    rcases hc with h | h | h <;> rw [h] <;> rfl
  have hg := hr.2
  rw [hsp] at hg
  exact gate_calm hg

theorem mfs_remote {o : AForm} {s : State} {x : Iss} (hr : Ready (.mfs o) s x)
    (hn : x.f.c.toNat = 0x005 ∨ x.f.c.toNat = 0x006 ∨ x.f.c.toNat = 0x007) :
    ∃ t, exec (.mfs o) s = .next t ∧ SameTables s t ∧
      Passed s s x id (fun _ t => t.setEmpty x.f.d (x.r.d.width x.f.b)) t ∧
      (t.core x.g.core).deferred = (s.core x.g.core).deferred ++ x.posting x.ex (s.sregRead x.g.core x.g.slot x.f.c.toNat) := by
  have hthread : perThreadReg x.f.c.toNat = false := by rcases hn with h | h | h <;> rw [h] <;> rfl
  have hremote : remoteReg x.f.c.toNat = true := by rcases hn with h | h | h <;> rw [h] <;> rfl
  have hb : mfsBody x (x.moved s) = .done (x.ex.foldl (fun s l =>
      s.defer x l x.f.d (x.r.d.width x.f.b) (some (s.sregRead x.g.core x.g.slot x.f.c.toNat)) 0) (x.moved s)) x.ex :=
    (if_neg (ne_true_of_eq_false hthread)).trans (if_pos hremote)
  have hposts : Posts x (s.sregRead x.g.core x.g.slot x.f.c.toNat) x.ex (x.moved s) (x.ex.foldl (fun s l =>
      s.defer x l x.f.d (x.r.d.width x.f.b) (some (s.sregRead x.g.core x.g.slot x.f.c.toNat)) 0) (x.moved s)) := by
    rcases mfs_remote_calm hr hn with hs | hnil
    · exact posts_all hs _ (fun u => u.sregRead x.g.core x.g.slot x.f.c.toNat) (sregRead_remote hn _ _) x.ex (ready_ex_nodup hr) _
        (sregRead_remote hn _ _ s (x.moved s) rfl rfl)
    · rw [hnil]
      exact ⟨fun _ => rfl, fun _ _ => rfl, fun c w l => by simp, by simp [Iss.posting], rfl, rfl⟩
  refine ⟨_, exec_done (body := mfsBody) (fun _ => rfl) hr hb, sameTables_settled hr hposts.tables,
    passed_settled hr (fun l _ _ => congrArg (x.keeps l)) (fun pa => hposts.bytes pa) (fun c w l => ?_), ?_⟩
  · rw [hposts.threads]
  · rw [deferred_settled, hposts.deferred, Iss.moved, State.advance, core_modThreads_deferred]

/-! ### mts, mtsset and mtsclr (12 R390) -/

/-- The value that a write leaves: the writable fields of the new one, the rest of the old one. -/
def sregMerge (n new old : Nat) : Nat := (new &&& sregMask n) ||| (old ^^^ (old &&& sregMask n))

/-- What a write does where the operands are alike. -/
theorem mts_alike (ack : Bool) (h : Nat → Nat → Nat) {x : Iss} (s : State) (ha : x.alike (fun x l => [x.a l])) (hn : perThreadReg x.f.c.toNat = false) :
    mtsBody ack h x s = .done (
      if x.f.c.toNat = 0x026 then s.modWeave x.g.core x.g.slot Weave.clearPoison
      else if x.f.c.toNat = 0x044 then (if ack then s.fltAck x.g.core (x.a x.low) else s)
      else if x.f.c.toNat = 0x04C then (if ack then s.efltAck x.g.core (x.a x.low) else s)
      else s.sregStore x.g.core x.g.slot x.f.c.toNat (sregMerge x.f.c.toNat
        (h (s.sregRead x.g.core x.g.slot x.f.c.toNat) (x.a x.low)) (s.sregRead x.g.core x.g.slot x.f.c.toNat))) x.ex := by
  obtain ⟨t, he⟩ := ex_low ha.1
  have hd : x.differ (fun l => [x.a l]) = [] := differ_nil ha
  unfold mtsBody
  dsimp only
  rw [hn, he]
  dsimp only
  rw [hd]
  rfl

section
variable {i : Instr} {ack : Bool} {h : Nat → Nat → Nat} (hx : ∀ s, exec i s = issue i (mtsBody ack h) s)
include hx

theorem mts_thread {s : State} {x : Iss} (hr : Ready i s x) (hn : x.f.c.toNat = 0x010 ∨ x.f.c.toNat = 0x011 ∨ x.f.c.toNat = 0x012) :
    ∃ t, exec i s = .next t ∧ SameTables s t ∧ Passed s s x id (fun l t => t.setSreg x.f.c.toNat
      (sregMerge x.f.c.toNat (h (t.sreg x.f.c.toNat) (x.a l)) (t.sreg x.f.c.toNat))) t := by
  refine ⟨_, exec_done hx hr (if_pos ((perThreadReg_iff _).2 hn)), passed_threads hr
    (onlyThreads_modThreads _ _ _ _ _ (ready_ex_nodup hr)) (fun l hl => ?_)⟩
  rw [thread_modThreads _ _ _ _ _ _ (ready_ex_nodup hr), if_pos hl]
  rfl

theorem mts_stores : Does i (fun x _ => x.alike (fun x l => [x.a l]) ∧ x.f.c.toNat ≠ 0x010 ∧ x.f.c.toNat ≠ 0x011 ∧
      x.f.c.toNat ≠ 0x012 ∧ x.f.c.toNat ≠ 0x026 ∧ x.f.c.toNat ≠ 0x044 ∧ x.f.c.toNat ≠ 0x04C)
    (fun x s => s.sregStore x.g.core x.g.slot x.f.c.toNat (sregMerge x.f.c.toNat
      (h (s.sregRead x.g.core x.g.slot x.f.c.toNat) (x.a x.low)) (s.sregRead x.g.core x.g.slot x.f.c.toNat))) :=
  does_of hx (fun x s ⟨ha, h10, h11, h12, h26, h44, h4c⟩ => by
    rw [mts_alike _ _ s ha (by simp [perThreadReg, h10, h11, h12]), if_neg h26, if_neg h44, if_neg h4c])

theorem mts_clearsPoison : Does i (fun x _ => x.alike (fun x l => [x.a l]) ∧ x.f.c.toNat = 0x026)
    (fun x s => s.modWeave x.g.core x.g.slot (fun w => { w with trPpc := 0, trPva := 0 })) :=
  does_of hx (fun x s ⟨ha, hn⟩ => by
    rw [mts_alike _ _ s ha (by rw [hn]; rfl), if_pos hn]
    rfl)

theorem mts_fltAck : Does i (fun x _ => x.alike (fun x l => [x.a l]) ∧ x.f.c.toNat = 0x044)
    (fun x s => if ack then s.fltAck x.g.core (x.a x.low) else s) :=
  does_of hx (fun x s ⟨ha, hn⟩ => by
    rw [mts_alike _ _ s ha (by rw [hn]; rfl), if_neg (by omega), if_pos hn])

theorem mts_efltAck : Does i (fun x _ => x.alike (fun x l => [x.a l]) ∧ x.f.c.toNat = 0x04C)
    (fun x s => if ack then s.efltAck x.g.core (x.a x.low) else s) :=
  does_of hx (fun x s ⟨ha, hn⟩ => by
    rw [mts_alike _ _ s ha (by rw [hn]; rfl), if_neg (by omega), if_neg (by omega), if_pos hn])

/-- 12 R390: a register not held per thread is written once, by one operand. -/
theorem mts_differs {s : State} {x : Iss} (hr : Ready i s x) (hc : x.canTrap (x.moved s))
    (hn : ¬ (x.f.c.toNat = 0x010 ∨ x.f.c.toNat = 0x011 ∨ x.f.c.toNat = 0x012)) (hd : x.differ (fun l => [x.a l]) ≠ []) :
    exec i s = .next ((x.back s).trapEntry x.g.core x.g.slot x.g.lanes (x.differ (fun l => [x.a l])) 8 0x22 x.g.pc) := by
  refine raises_of (who := fun x => x.differ (fun l => [x.a l])) (pre := fun x _ => ¬ (x.f.c.toNat = 0x010 ∨ x.f.c.toNat = 0x011 ∨ x.f.c.toNat = 0x012) ∧
    x.differ (fun l => [x.a l]) ≠ []) hx (fun x s ⟨hn, hd⟩ => ?_) s x hr hc ⟨hn, hd⟩
  obtain ⟨k, r, hk⟩ := List.exists_cons_of_ne_nil hd
  unfold mtsBody
  dsimp only
  rw [if_neg (fun hp => hn ((perThreadReg_iff _).1 hp))]
  cases he : x.ex with
  | nil => exact absurd (by rw [Iss.differ, he]) hd
  | cons l t =>
    dsimp only
    rw [hk]
    rfl
end

/-- mtsset and mtsclr leave the acknowledge registers (log entry 51). -/
theorem mts_ackLeft {i : Instr} {h : Nat → Nat → Nat} (hx : ∀ s, exec i s = issue i (mtsBody false h) s) :
    Acts i (fun x _ => x.alike (fun x l => [x.a l]) ∧ (x.f.c.toNat = 0x044 ∨ x.f.c.toNat = 0x04C)) still (fun _ s => s) :=
  acts_still hx (fun x s ⟨ha, hn⟩ => by
    rw [mts_alike _ _ s ha (by rcases hn with h | h <;> rw [h] <;> rfl)]
    rcases hn with h | h <;> rw [h] <;> rfl) (fun _ s _ => .rfl' s)

/-- A write to a register held per thread, by the field that it changes. -/
theorem setSreg_eq {n : Nat} (hn : n = 0x010 ∨ n = 0x011 ∨ n = 0x012) (h : Nat → Nat → Nat) (a : Nat) (t : Thread) :
    let new := fun (old a m : Nat) => (h old a &&& m) ||| (old ^^^ (old &&& m))
    t.setSreg n (sregMerge n (h (t.sreg n) a) (t.sreg n)) =
      if n = 0x010 then { t with fpCtl := BitVec.ofNat 32 (new t.fpCtl.toNat a 0x11F) }
      else if n = 0x011 then { t with fpFlags := BitVec.ofNat 32 (new t.fpFlags.toNat a 0x1F) }
      else { t with rsCount := BitVec.ofNat 32 (new t.rsCount.toNat a (2 ^ 32 - 1)) } := by
  rcases hn with rfl | rfl | rfl <;> rfl

theorem mts_threadFields {i : Instr} {ack : Bool} {h : Nat → Nat → Nat} (hx : ∀ s, exec i s = issue i (mtsBody ack h) s) {s : State}
    {x : Iss} (hr : Ready i s x) (hn : x.f.c.toNat = 0x010 ∨ x.f.c.toNat = 0x011 ∨ x.f.c.toNat = 0x012) :
    ∃ t, exec i s = .next t ∧ SameTables s t ∧ let new := fun (old a m : Nat) => (h old a &&& m) ||| (old ^^^ (old &&& m))
      Passed s s x id (fun l t =>
        if x.f.c.toNat = 0x010 then { t with fpCtl := BitVec.ofNat 32 (new t.fpCtl.toNat (x.a l) 0x11F) }
        else if x.f.c.toNat = 0x011 then { t with fpFlags := BitVec.ofNat 32 (new t.fpFlags.toNat (x.a l) 0x1F) }
        else { t with rsCount := BitVec.ofNat 32 (new t.rsCount.toNat (x.a l) (2 ^ 32 - 1)) }) t := by
  obtain ⟨t, ht, htables, hpassed⟩ := mts_thread hx hr hn
  simp only [setSreg_eq hn] at hpassed
  exact ⟨t, ht, htables, hpassed⟩

/-! ### The obligation -/

/-- Settles O39, instruction by instruction and register by register. -/
theorem systemRegisters : Obligations.SystemRegisters :=
  ⟨fun _ _ _ => mfs_thread, mfs_plain, mfs_flt, mfs_eflt, currentRec_presented, fun _ _ _ => mfs_remote,
    fun _ _ _ => mts_threadFields (h := fun _ a => a) (fun _ => rfl),
    fun _ _ _ => mts_threadFields (h := fun old a => old ||| a) (fun _ => rfl),
    fun _ _ _ => mts_threadFields (h := fun old a => old ^^^ (old &&& a)) (fun _ => rfl),
    fun o => mts_stores (i := .mts o) (fun _ => rfl), fun o => mts_stores (i := .mtsset o) (fun _ => rfl),
    fun o => mts_stores (i := .mtsclr o) (fun _ => rfl), fun o => mts_clearsPoison (i := .mts o) (fun _ => rfl),
    fun o => mts_clearsPoison (i := .mtsset o) (fun _ => rfl), fun o => mts_clearsPoison (i := .mtsclr o) (fun _ => rfl),
    fun o => mts_fltAck (i := .mts o) (ack := true) (fun _ => rfl), fun o => mts_efltAck (i := .mts o) (ack := true) (fun _ => rfl),
    fun o => mts_ackLeft (i := .mtsset o) (fun _ => rfl), fun o => mts_ackLeft (i := .mtsclr o) (fun _ => rfl),
    fun o _ _ => mts_differs (i := .mts o) (fun _ => rfl), fun o _ _ => mts_differs (i := .mtsset o) (fun _ => rfl),
    fun o _ _ => mts_differs (i := .mtsclr o) (fun _ => rfl),
    fun _ _ _ => ⟨rfl, rfl, rfl, rfl, rfl, trCtl_eq _, rfl, rfl, rfl, rfl, rfl, rfl⟩,
    fun s c w => ⟨rfl, rfl, sregRead_syncest s c w⟩, fun _ _ _ _ => sregRead_team, fun _ _ _ => sregRead_agent, sregRead_lardrw, sregRead_record,
    fun _ _ _ _ => sregStore_team, fun _ _ _ => sregStore_agent, sregMask_eq, sregStore_fields⟩

end Sys2Proof.Machine
end

section
/-! SUPPORT. Trap return, masks, time and events (12 R384, R385, R391, R395). -/

namespace Sys2Proof.Machine

/-! ### A weave that leaves its handler (12 R384) -/

/-- A weave but for its threads and joins. -/
def Weave.aside (x : Weave) : Weave := { x with threads := [], joins := [] }

theorem releaseOne_aside (x : Weave) (e : JoinEnt) : (x.releaseOne e).aside = x.aside :=
  (congrArg Weave.aside (tables_fold (lanesOf e.members) (fun _ t => { t with mode := .ready }) x x.threads) :)

theorem releaseJoins_aside (x : Weave) : x.releaseJoins.aside = x.aside := by
  rw [releaseJoins_eq]
  induction x.joins.filter JoinEnt.full generalizing x with
  | nil => rfl
  | cons e es ih => rw [List.foldl_cons, ih, releaseOne_aside]

/-- A thread that waits in no rvsync or gbsync is passed by no phase. -/
theorem passArrived_other {t : Thread} (h : ∀ g k, t.mode ≠ .waiting (.arrived g k)) : t.passArrived = t := by
  unfold Thread.passArrived
  dsimp only
  split
  · exact absurd ‹_› (h _ _)
  · exact absurd ‹_› (h _ _)
  · rfl

/-- The thread that a frame gives back: `skip` takes it past the trapping word to `past`. -/
def Thread.taken (t : Thread) (f : Frame) (skip : Bool) (past : DWord) : Thread :=
  let f := if skip then { f with lend := none, mark := none, hollow := [], ceded := [], watch := none, noSpec := none } else f
  let pc := if skip then past else f.ctl.pc
  Thread.passArrived { t with
    frame := none, preds := f.preds, ob := f.ob, wake := f.wake, conv := f.conv,
    lend := f.lend, mark := f.mark, hollow := f.hollow, ceded := f.ceded, watch := f.watch, noSpec := f.noSpec,
    mode := if skip then .ready else f.mode,
    ctl := if skip then { f.ctl with pc := pc, entry := pc == f.ctl.bh + 8#64 * BitVec.ofNat 64 (f.ctl.len + 1) } else f.ctl }

/-- The thread that a trap return leaves in a lane. -/
def Thread.left (t : Thread) (skip : Bool) (past : DWord) : Thread :=
  match t.frame with
  | none => t
  | some f => t.taken f skip past

/-- The weave that a trap return leaves, before its full join entries are released. -/
def Weave.left (w : Weave) (fr : WeaveFrame) (words : Nat) : Weave :=
  let gone := (List.range 32).filter (fun l => !w.live.contains l)
  { w.live.foldl (fun x l => x.modThread l (fun t =>
      t.left (w.trSkip && w.trFmask.getLsbD l) (w.trPc + 8#64 * BitVec.ofNat 64 words))) w with
    frame := none
    joins := gone.foldl (fun js l => dropJoins l js) fr.joins
    parked := (fr.parked.map (fun (p : Parked) => { p with lanes := p.lanes &&& ~~~(maskOf gone) })).filter (fun (p : Parked) => p.lanes != 0)
    colls := [], trH := false, trM := false, trSkip := false }

theorem leave_eq {w : Weave} {fr : WeaveFrame} (h : w.frame = some fr) (n : Nat) : w.leave n = (w.left fr n).releaseJoins := by
  unfold Weave.leave
  rw [h]
  rfl

/-- A thread whose frame held it in no rvsync or gbsync takes back what the frame holds. -/
theorem taken_fields (t : Thread) (f : Frame) (skip : Bool) (past : DWord) (h : ∀ g k, f.mode ≠ .waiting (.arrived g k)) :
    (t.taken f skip past).frame = none ∧ (t.taken f skip past).preds = f.preds ∧ (t.taken f skip past).ob = f.ob ∧
      (t.taken f skip past).regs = t.regs ∧ (t.taken f skip past).ctl.bh = f.ctl.bh ∧ (t.taken f skip past).ctl.depth = f.ctl.depth ∧
      (t.taken f skip past).ctl.pc = if skip then past else f.ctl.pc := by
  unfold Thread.taken
  cases skip with
  | true =>
    dsimp only
    rw [passArrived_other (by intro g k h; cases h)]
    exact ⟨rfl, rfl, rfl, rfl, rfl, rfl, rfl⟩
  | false =>
    dsimp only
    rw [passArrived_other h]
    exact ⟨rfl, rfl, rfl, rfl, rfl, rfl, rfl⟩

theorem mem_live {w : Weave} {l : Nat} : l ∈ w.live ↔ l < 32 ∧ (w.thread l).mode ≠ .exited := by
  simp [Weave.live]

theorem left_thread {w : Weave} {fr : WeaveFrame} {n l : Nat} {f : Frame} (hl : l < 32) (hm : (w.thread l).mode ≠ .exited)
    (hf : (w.thread l).frame = some f) : (w.left fr n).thread l =
      (w.thread l).taken f (w.trSkip && w.trFmask.getLsbD l) (w.trPc + 8#64 * BitVec.ofNat 64 n) := by
  have hnodup : w.live.Nodup := List.nodup_range.filter _
  refine (thread_fold w.live (fun l t => t.left (w.trSkip && w.trFmask.getLsbD l) (w.trPc + 8#64 * BitVec.ofNat 64 n)) w l hnodup).trans ?_
  rw [if_pos (mem_live.2 ⟨hl, hm⟩), Thread.left, hf]

/-- 12 R384: the handler's registers of the weave are cleared, and each live thread takes back its frame. -/
theorem leave_restores (w : Weave) (n : Nat) (fr : WeaveFrame) (h : w.frame = some fr) :
    (w.leave n).frame = none ∧ (w.leave n).trH = false ∧ (w.leave n).trM = false ∧
    (w.leave n).trSkip = false ∧ (w.leave n).trCause = w.trCause ∧ (w.leave n).trPc = w.trPc ∧
    ∀ l f, l < 32 → (w.thread l).mode ≠ .exited → (w.thread l).frame = some f → (∀ g k, f.mode ≠ .waiting (.arrived g k)) →
      ((w.leave n).thread l).frame = none ∧ ((w.leave n).thread l).preds = f.preds ∧ ((w.leave n).thread l).ob = f.ob ∧
      ((w.leave n).thread l).regs = (w.thread l).regs ∧ ((w.leave n).thread l).ctl.bh = f.ctl.bh ∧
      ((w.leave n).thread l).ctl.depth = f.ctl.depth ∧
      ((w.leave n).thread l).ctl.pc =
        if w.trSkip = true ∧ w.trFmask.getLsbD l = true then w.trPc + 8#64 * BitVec.ofNat 64 n else f.ctl.pc := by
  have haside : (w.leave n).aside = (w.left fr n).aside := by rw [leave_eq h, releaseJoins_aside]
  have hfold : (w.left fr n).trCause = w.trCause ∧ (w.left fr n).trPc = w.trPc := by
    have htables := tables_fold w.live (fun l t => t.left (w.trSkip && w.trFmask.getLsbD l) (w.trPc + 8#64 * BitVec.ofNat 64 n)) w []
    exact ⟨(congrArg Weave.trCause htables :), (congrArg Weave.trPc htables :)⟩
  refine ⟨(congrArg Weave.frame haside :), (congrArg Weave.trH haside :), (congrArg Weave.trM haside :),
    (congrArg Weave.trSkip haside :), (congrArg Weave.trCause haside :).trans hfold.1,
    (congrArg Weave.trPc haside :).trans hfold.2, fun l f hl hm hf hw => ?_⟩
  obtain ⟨hframe, hpreds, hob, hregs, hbh, hdepth, hpc⟩ := taken_fields (w.thread l) f (w.trSkip && w.trFmask.getLsbD l)
    (w.trPc + 8#64 * BitVec.ofNat 64 n) hw
  simp only [Bool.and_eq_true] at hpc
  rw [leave_eq h, (releaseJoins_law _).2 l, left_thread hl hm hf]
  split
  · exact ⟨hframe, hpreds, hob, hregs, hbh, hdepth, hpc⟩
  · exact ⟨hframe, hpreds, hob, hregs, hbh, hdepth, hpc⟩

/-! ### tret, tmask and tunmask (12 R384, R385) -/

/-- In an issue without an executing lane an instruction that then does nothing leaves all as it stands. -/
theorem acts_noLane {i : Instr} {body : Iss → State → Act} (hx : ∀ s, exec i s = issue i body s)
    (hb : ∀ x s, x.ex = [] → body x s = .done s x.ex) : Acts i (fun x _ => x.ex = []) still (fun _ s => s) :=
  acts_still hx hb (fun _ s _ => .rfl' s)

section
variable {o : AForm} {s : State} {x : Iss}

theorem tret_leaves (hr : Ready (.tret o) s x) (hne : x.ex ≠ []) (hh : ((x.moved s).weave x.g.core x.g.slot).trH = true)
    (hk : ((x.moved s).weave x.g.core x.g.slot).trSkip = false) :
    exec (.tret o) s = .next ((x.moved s).modWeave x.g.core x.g.slot (fun w => w.leave 1)) := by
  have hb : tretBody x (x.moved s) = .whole ((x.moved s).modWeave x.g.core x.g.slot (fun w => w.leave 1)) := by
    unfold tretBody
    dsimp only
    rw [List.isEmpty_eq_false_iff.2 hne, hh, hk]
    rfl
  exact (issue_go (i := .tret o) tretBody hr).trans (congrArg (fun a => Host.Outcome.next (x.finish a)) hb)

theorem tret_skips {u : State} {v : DWord} (hr : Ready (.tret o) s x) (hne : x.ex ≠ [])
    (hh : ((x.moved s).weave x.g.core x.g.slot).trH = true) (hk : ((x.moved s).weave x.g.core x.g.slot).trSkip = true)
    (hf : (x.moved s).fetchOn x.g.core x.g.slot ((x.moved s).weave x.g.core x.g.slot).trPc.toNat
      (x.ex.findSome? (fun l => x.onWay l ((x.moved s).weave x.g.core x.g.slot).trPc.toNat)) = (u, .word v)) :
    exec (.tret o) s = .next (u.modWeave x.g.core x.g.slot (fun w =>
      w.leave (if majorForm (majorOf v) = some .L ∧ isHeader v = false then 2 else 1))) := by
  have hwords : wordsAt (.word v) = if majorForm (majorOf v) = some .L ∧ isHeader v = false then 2 else 1 := by
    simp only [wordsAt, Bool.and_eq_true, decide_eq_true_eq, Bool.not_eq_true']
  have hb : tretBody x (x.moved s) = .whole (u.modWeave x.g.core x.g.slot (fun w => w.leave (wordsAt (.word v)))) := by
    unfold tretBody
    dsimp only
    rw [List.isEmpty_eq_false_iff.2 hne, hh, hk, hf]
    rfl
  rw [← hwords]
  exact (issue_go (i := .tret o) tretBody hr).trans (congrArg (fun a => Host.Outcome.next (x.finish a)) hb)
end

theorem tret_outside (o : AForm) : Raises (.tret o) (fun x s => x.ex ≠ [] ∧ (s.weave x.g.core x.g.slot).trH = false) 8 0x23
    (fun x => x.ex) :=
  raises_of (body := tretBody) (fun _ => rfl) (fun x s ⟨hne, hh⟩ => by
    unfold tretBody
    dsimp only
    rw [List.isEmpty_eq_false_iff.2 hne, hh]
    rfl)

section
variable {i : Instr} {m : Bool} (hx : ∀ s, exec i s = issue i (maskBody m) s)
include hx

theorem mask_outside : Raises i (fun x s => x.ex ≠ [] ∧ (s.weave x.g.core x.g.slot).trH = false) 8 0x23 (fun x => x.ex) :=
  raises_of hx (fun x s ⟨hne, hh⟩ => by
    unfold maskBody
    rw [List.isEmpty_eq_false_iff.2 hne, hh]
    rfl)

theorem mask_does : Does i (fun x s => x.ex ≠ [] ∧ (s.weave x.g.core x.g.slot).trH = true)
    (fun x s => s.modWeave x.g.core x.g.slot (fun y => y.setM m s.time)) :=
  does_of hx (fun x s ⟨hne, hh⟩ => by
    unfold maskBody
    rw [List.isEmpty_eq_false_iff.2 hne, hh]
    rfl)
end

/-- M becomes 1: the watchdog's count starts where it was 0 (12 R385). -/
theorem setM_true (now : Nat) : (fun w : Weave => w.setM true now) =
    fun w => { w with trM := true, trSince := if w.trM then w.trSince else now } := by
  funext w
  unfold Weave.setM
  cases w.trM <;> rfl

/-! ### tabort, ftime, rdcyc, fwidle and fwsev (12 R391, R395) -/

theorem tabort_ends {o : AForm} {s t : State} {x : Iss} {y : Nat} (hr : Ready (.tabort o) s x) (hne : x.ex ≠ [])
    (hy : ((x.moved s).weave x.g.core x.g.slot).team = some y)
    (ht : t = ((x.moved s).flushLaunch ((x.moved s).team y).launch).endLaunch ((x.moved s).team y).launch 3 (x.a x.low % 256) 0) :
    exec (.tabort o) s = .next (if (x.moved s).heldWrites x.g.core t = [] then t
      else x.unrun (((x.moved s).afterHolds x.g.core t).hold x.g x.g.lanes) x.g.lanes) := by
  obtain ⟨r, he⟩ := ex_low hne
  have hb : tabortBody x (x.moved s) = x.held (x.moved s) (.whole t) := by
    unfold tabortBody
    rw [he, hy, ht]
    rfl
  refine (issue_go (i := .tabort o) tabortBody hr).trans (congrArg Host.Outcome.next ((congrArg x.finish hb).trans ?_))
  unfold Iss.held
  by_cases hw : (x.moved s).heldWrites x.g.core t = []
  · rw [if_pos hw]
    dsimp only
    rw [if_pos (List.isEmpty_iff.2 hw)]
    rfl
  · rw [if_neg hw]
    dsimp only
    rw [if_neg (fun h => hw (List.isEmpty_iff.1 h))]
    rfl

theorem fwidle_takes (o : AForm) : Acts (.fwidle o) (fun x s => x.ex ≠ [] ∧ (s.core x.g.core).fwEvents ≠ 0)
    (gives fun x s => (s.core x.g.core).fwEvents.toNat)
    (fun x s => x.giveAll (s.modCore x.g.core (fun k => { k with fwEvents := 0 })) (s.core x.g.core).fwEvents.toNat) :=
  acts_gives (body := idleBody) (eff := fun x s => s.modCore x.g.core (fun k => { k with fwEvents := 0 })) (fun _ => rfl)
    (fun x s ⟨hne, he⟩ => by
      unfold idleBody
      dsimp only
      rw [List.isEmpty_eq_false_iff.2 hne, if_neg he]
      rfl)
    (fun x s _ => sameWeaves_modCore s x.g.core _ (fun _ => rfl))

theorem fwidle_waits (o : AForm) : Waits (.fwidle o) (fun x s => x.ex ≠ [] ∧ (s.core x.g.core).fwEvents = 0) :=
  waits_of (body := idleBody) (fun _ => rfl) (fun x s ⟨hne, he⟩ => by
    unfold idleBody
    dsimp only
    rw [List.isEmpty_eq_false_iff.2 hne, if_pos he]
    rfl)

theorem fwsev_wakes (o : AForm) : Acts (.fwsev o) (fun x _ => ∀ l ∈ x.ex, x.a l ≤ 143) still (fun x s => x.ex.foldl (fun s l =>
    s.modCore (x.a l) (fun k => { k with fwEvents := k.fwEvents ||| 0x10 })) s) :=
  acts_still (body := sevBody) (fun _ => rfl)
    (fun x s h => by
      unfold sevBody
      rw [List.filter_eq_nil_iff.2 (fun l hl => by simpa using h l hl)]
      rfl)
    (fun x s _ => sameWeaves_fold x.ex (fun s l => s.modCore (x.a l) (fun k => { k with fwEvents := k.fwEvents ||| 0x10 }))
      (fun s l => sameWeaves_modCore s (x.a l) _ (fun _ => rfl)) s)

theorem fwsev_beyond (o : AForm) : Raises (.fwsev o) (fun x _ => ∃ l ∈ x.ex, 143 < x.a l) 8 0x22
    (fun x => x.ex.filter (fun l => decide (143 < x.a l))) :=
  raises_of (body := sevBody) (fun _ => rfl) (fun x s ⟨l, hl, hbeyond⟩ => by
    have hmem : l ∈ x.ex.filter (fun l => decide (143 < x.a l)) := List.mem_filter.2 ⟨hl, decide_eq_true hbeyond⟩
    obtain ⟨k, r, hk⟩ := List.exists_cons_of_ne_nil (List.ne_nil_of_mem hmem)
    unfold sevBody
    rw [hk]
    rfl)

/-! ### The obligation -/

/-- Settles O40, instruction by instruction. -/
theorem trapReturnMasksAndTime : Obligations.TrapReturnMasksAndTime := by
  refine ⟨fun _ _ _ => tret_leaves, fun _ _ _ _ _ => tret_skips, leave_restores,
    fun o => acts_noLane (i := .tret o) (body := tretBody) (fun _ => rfl) (fun x s h => if_pos (List.isEmpty_iff.2 h)),
    fun o => acts_noLane (i := .tmask o) (body := maskBody true) (fun _ => rfl) (fun x s h => if_pos (List.isEmpty_iff.2 h)),
    fun o => acts_noLane (i := .tunmask o) (body := maskBody false) (fun _ => rfl) (fun x s h => if_pos (List.isEmpty_iff.2 h)),
    fun o => acts_noLane (i := .tabort o) (body := tabortBody) (fun _ => rfl) (fun x s h => by rw [tabortBody, h]),
    fun o => acts_noLane (i := .fwidle o) (body := idleBody) (fun _ => rfl) (fun x s h => if_pos (List.isEmpty_iff.2 h)),
    tret_outside, fun o => mask_outside (i := .tmask o) (m := true) (fun _ => rfl),
    fun o => mask_outside (i := .tunmask o) (m := false) (fun _ => rfl), fun o => ?_,
    fun o => mask_does (i := .tunmask o) (m := false) (fun _ => rfl), fun _ _ _ _ _ => tabort_ends, fun _ => computes_reg (fun _ => rfl),
    fun _ => computes_reg (fun _ => rfl), fwidle_takes, fwidle_waits, fwsev_wakes, fwsev_beyond⟩
  have hdoes := mask_does (i := .tmask o) (m := true) (fun _ => rfl)
  simp only [setM_true] at hdoes
  exact hdoes

end Sys2Proof.Machine
end

section
/-! SUPPORT. The statement on queues and gangs has the standby's takeover wait for holds without the adoption it has entered before. -/

namespace Sys2Proof.Machine

/-- Thread 0 of the queue processor has been silent for 50 microseconds, and its ring holds one unsound packet, whose completion
record goes to a line that core 0 holds. Context 0 maps the page at address 0 to frame 0x80000. -/
def heldRecord : State :=
  { time := 50000, contexts := [(0, { ptroot := 0x1000 })], holds := [{ line := 0x1000, core := 0, expiry := 60000 }],
    mem := [(0x1000, 0x01), (0x1001, 0x20), (0x2000, 0x01), (0x2001, 0x40), (0x4000, 0x01), (0x4001, 0x60), (0x6000, 0x37), (0x6001, 0x09),
      (0x10000, 0x01), (0x20000, 0x01)],
    queues := [(0, { words := [4, 0, 0x10000, 0x20000, 0, 0, 0, 0], active := true })] }

/-- The state in which the standby has adopted the queue. -/
def State.adopt (s : State) (n : Nat) : State := { s with sched := { s.sched with adopted := insertNat n s.sched.adopted } }

/-- The takeover waits for the hold, in the state that has the adoption entered. -/
theorem adopted_heldRecord :
    (match exec (.journalTakeover 0) heldRecord with
      | .next t => t.sched.adopted
      | _ => []) = [0] := by
  decide +kernel

theorem heldWrites_heldRecord : heldRecord.heldWrites ioDie (((heldRecord.adopt 0).intake 0).beat 0) = [0x1000] := by
  decide +kernel

theorem afterHolds_waiting {s t : State} {c n : Nat} {ns : List Nat} (h : s.heldWrites c t = n :: ns) :
    (s.afterHolds c t).sched = s.sched := by
  have hwait : ∀ (u : State) n, ((u.waitLine n).snoop (.mem (n * 128))).sched = u.sched := by
    intro u n
    rw [State.waitLine]
    split <;> rfl
  rw [State.afterHolds, h]
  exact foldl_leaves State.sched (fun u n => (u.waitLine n).snoop (.mem (n * 128))) hwait (n :: ns) s

/-- Refutes O49: its clause on the standby's takeover has the waiting action start from the state before the adoption. The model
enters the adoption first, so a takeover that waits for a hold leaves the queue adopted. In the state `heldRecord` the record of an
unsound packet waits for the hold on its line, and the queue is among those adopted. -/
theorem not_queuesAndGangs : ¬ Obligations.QueuesAndGangs := by
  intro h
  obtain ⟨-, -, -, -, -, -, -, -, -, -, -, -, -, -, -, -, -, -, -, -, -, -, -, -, -, -, -, -, -, -, takeover, -⟩ := h
  have hstep : exec (.journalTakeover 0) heldRecord =
      .next (heldRecord.afterHolds ioDie (((heldRecord.adopt 0).intake 0).beat 0)) :=
    takeover heldRecord 0 (by decide) (by decide) (by decide) (Nat.le_refl 50000)
  have hadopted := adopted_heldRecord
  rw [hstep] at hadopted
  dsimp only at hadopted
  rw [afterHolds_waiting heldWrites_heldRecord] at hadopted
  exact absurd hadopted (by decide)

end Sys2Proof.Machine
end

section
/-! SUPPORT. Ticket instructions (12 R393, R395): what the shared body of the instructions on a ticket leads to, and the
instructions on the ticket of the lowest lane. -/

namespace Sys2Proof.Machine

/-! ### An instruction on a ticket -/

/-- What an instruction makes of the team of an accepted ticket. -/
def Iss.onTeam (x : Iss) (s : State) (h : Iss → State → Nat → Gang × Nat × GangTeam → Act) : Act :=
  match s.ticketTeam (x.a x.low) with
  | none => .done s x.ex
  | some e => x.held s (h x s (x.a x.low) e)

theorem asked_or_sound {x : Iss} {s : State} {ok : List Nat} : (x.asked x.low ||
    (s.ticketSound (x.a x.low) && ok.contains (s.ticketState (x.a x.low)))) = true ↔ x.accepted s ok := by
  rw [Bool.or_eq_true, Bool.and_eq_true, List.contains_iff_mem]

/-- The state in which the group waits at its place, having left `u`. -/
def Iss.waitsAt (x : Iss) (u : State) : State := x.unrun ((x.note u x.ex (fun _ => none) none).hold x.g x.g.lanes) x.g.lanes

/-- The instruction completes with `t`, or waits until no hold keeps its writes. -/
def Iss.heldOr (x : Iss) (m t : State) : State :=
  if m.heldWrites x.g.core t = [] then x.settled t else x.waitsAt (m.afterHolds x.g.core t)

theorem held_free {x : Iss} {s t : State} (h : s.heldWrites x.g.core t = []) : x.held s (.done t x.ex) = .done t x.ex := by
  rw [Iss.held, h]
  rfl

theorem held_kept {x : Iss} {s t : State} (h : s.heldWrites x.g.core t ≠ []) :
    x.held s (.done t x.ex) = .wait (s.afterHolds x.g.core t) := by
  cases hw : s.heldWrites x.g.core t with
  | nil => exact absurd hw h
  | cons n ns => rw [Iss.held, hw]; rfl

section
variable {ok : List Nat} {h : Iss → State → Nat → Gang × Nat × GangTeam → Act} {x : Iss} {s t u : State} {e : Gang × Nat × GangTeam}

theorem onTicket_alike (ha : x.alike (fun x l => [x.a l])) : onTicket ok h x s =
    if x.accepted s ok then x.inPlace none (x.onTeam s h) else .trap s [] trapProt 0x24 x.ex := by
  rw [onTicket, uniform_alike s ha]
  by_cases hok : x.accepted s ok
  · rw [if_pos (asked_or_sound.2 hok), if_pos hok]
    rfl
  · rw [if_neg (fun hc => hok (asked_or_sound.1 hc)), if_neg hok]

theorem onTicket_refused (ha : x.alike (fun x l => [x.a l])) (hok : ¬ x.accepted s ok) :
    onTicket ok h x s = .trap s [] trapProt 0x24 x.ex := by
  rw [onTicket_alike ha, if_neg hok]

theorem onTicket_vain (ha : x.alike (fun x l => [x.a l])) (hok : x.accepted s ok) (ht : s.ticketTeam (x.a x.low) = none) :
    onTicket ok h x s = .done s x.ex := by
  rw [onTicket_alike ha, if_pos hok, Iss.onTeam, ht]
  rfl

theorem onTicket_done (ha : x.alike (fun x l => [x.a l])) (hok : x.accepted s ok) (ht : s.ticketTeam (x.a x.low) = some e)
    (hb : h x s (x.a x.low) e = .done t x.ex) (hw : s.heldWrites x.g.core t = []) : onTicket ok h x s = .done t x.ex := by
  rw [onTicket_alike ha, if_pos hok, Iss.onTeam, ht]
  dsimp only
  rw [hb, held_free hw]
  rfl

theorem onTicket_held (ha : x.alike (fun x l => [x.a l])) (hok : x.accepted s ok) (ht : s.ticketTeam (x.a x.low) = some e)
    (hb : h x s (x.a x.low) e = .done t x.ex) (hw : s.heldWrites x.g.core t ≠ []) :
    onTicket ok h x s = .wait (x.note (s.afterHolds x.g.core t) x.ex (fun _ => none) none) := by
  rw [onTicket_alike ha, if_pos hok, Iss.onTeam, ht]
  dsimp only
  rw [hb, held_kept hw]
  rfl

theorem onTicket_waits (ha : x.alike (fun x l => [x.a l])) (hok : x.accepted s ok) (ht : s.ticketTeam (x.a x.low) = some e)
    (hb : h x s (x.a x.low) e = .wait u) : onTicket ok h x s = .wait (x.note u x.ex (fun _ => none) none) := by
  rw [onTicket_alike ha, if_pos hok, Iss.onTeam, ht]
  dsimp only
  rw [hb]
  rfl
end

section
variable {i : Instr} {ok : List Nat} {h : Iss → State → Nat → Gang × Nat × GangTeam → Act}
  (hx : ∀ s, exec i s = issue i (onTicket ok h) s)
include hx

theorem ticket_raises : Raises i (fun x s => x.alike (fun x l => [x.a l]) ∧ ¬ x.accepted s ok) 8 0x24 (fun x => x.ex) :=
  raises_of hx (fun _ _ ⟨ha, hok⟩ => onTicket_refused ha hok)

theorem ticket_vain : Acts i (fun x s => x.alike (fun x l => [x.a l]) ∧ x.accepted s ok ∧ s.ticketTeam (x.a x.low) = none) still
    (fun _ s => s) :=
  acts_still hx (fun _ _ ⟨ha, hok, ht⟩ => onTicket_vain ha hok ht) (fun _ s _ => .rfl' s)

variable {s t u : State} {x : Iss} {e : Gang × Nat × GangTeam}

theorem ticket_completes (hr : Ready i s x) (ha : x.alike (fun x l => [x.a l])) (hok : x.accepted (x.moved s) ok)
    (ht : (x.moved s).ticketTeam (x.a x.low) = some e) (hb : h x (x.moved s) (x.a x.low) e = .done t x.ex)
    (hw : (x.moved s).heldWrites x.g.core t = []) : exec i s = .next (x.settled t) :=
  exec_done hx hr (onTicket_done ha hok ht hb hw)

theorem ticket_held (hr : Ready i s x) (ha : x.alike (fun x l => [x.a l])) (hok : x.accepted (x.moved s) ok)
    (ht : (x.moved s).ticketTeam (x.a x.low) = some e) (hb : h x (x.moved s) (x.a x.low) e = .done t x.ex)
    (hw : (x.moved s).heldWrites x.g.core t ≠ []) : exec i s = .next (x.waitsAt ((x.moved s).afterHolds x.g.core t)) := by
  rw [hx s, issue_go _ hr, show s.advance x.g x.words = x.moved s from rfl, onTicket_held ha hok ht hb hw]
  rfl

theorem ticket_heldOr (hr : Ready i s x) (ha : x.alike (fun x l => [x.a l])) (hok : x.accepted (x.moved s) ok)
    (ht : (x.moved s).ticketTeam (x.a x.low) = some e) (hb : h x (x.moved s) (x.a x.low) e = .done t x.ex) :
    exec i s = .next (x.heldOr (x.moved s) t) := by
  rw [Iss.heldOr]
  split
  next hw => exact ticket_completes hx hr ha hok ht hb hw
  next hw => exact ticket_held hx hr ha hok ht hb hw

theorem ticket_waits (hr : Ready i s x) (ha : x.alike (fun x l => [x.a l])) (hok : x.accepted (x.moved s) ok)
    (ht : (x.moved s).ticketTeam (x.a x.low) = some e) (hb : h x (x.moved s) (x.a x.low) e = .wait u) :
    exec i s = .next (x.waitsAt u) := by
  rw [hx s, issue_go _ hr, show s.advance x.g x.words = x.moved s from rfl, onTicket_waits ha hok ht hb]
  rfl
end

/-! ### The bodies on a team (12 R393) -/


/-- What tmplace makes of the team. -/
def placeTeam (x : Iss) (s : State) (a : Nat) (e : Gang × Nat × GangTeam) : Act :=
  if e.2.2.reserved && e.2.2.core == x.g.core && (s.findTeam e.2.2.team).isNone then
    match s.placeGangTeam e.1 e.2.1 e.2.2 with
    | (s, true) => .done (s.unclaim x.g.core a) x.ex
    | (s, false) => .wait s
  else .wait s

/-- What tmsave makes of the team. -/
def saveTeamBody (x : Iss) (s : State) (_ : Nat) (e : Gang × Nat × GangTeam) : Act :=
  match s.findTeam e.2.2.team with
  | none => .done s x.ex
  | some (c, y) =>
    if y.slots.isEmpty then .done s x.ex
    else if s.masked c y || y.pre.action == 4 then .wait s
    else if !y.pre.stopping then
      .wait (((s.modTeam e.2.2.team (fun y => { y with pre := { y.pre with requested := true, urgent := true, action := 2 } })).endPauses c y).stopTeam c y)
    else if ((s.carrySave c y).findTeam e.2.2.team).isNone then .done (s.carrySave c y) x.ex else .wait (s.carrySave c y)

/-- The team that a restore has brought back runs, or waits for its tenure. -/
def resumeBody (x : Iss) (u : State) (a : Nat) (e : Gang × Nat × GangTeam) : Act :=
  if u.granted e.2.2.team then .done ((u.resumeTeam e.2.2.team a e.1.started).unclaim x.g.core a) x.ex else .wait u
/-- What tmrest makes of the team. -/
def restTeamBody (x : Iss) (s : State) (a : Nat) (e : Gang × Nat × GangTeam) : Act :=
  match s.saved.find? (fun v => v.team.id = e.2.2.team) with
  | some v =>
    if !(e.2.2.reserved && e.2.2.core == x.g.core && s.roomFor e.2.2.core v) then .wait s
    else if !s.areaHolds v then .done (s.contextKill v.team.ctx 5 0) x.ex
    else resumeBody x (s.restoreTeam e.2.2.core v) a e
  | none => if (s.findTeam e.2.2.team).isNone then .done s x.ex else resumeBody x s a e

/-- What a flush leaves of the team: its ticket for a relaunch, or a killed team. -/
def State.discarded (s : State) (relaunch : Bool) (a : Nat) (e : Gang × Nat × GangTeam) : State :=
  if relaunch then s.flushTeam e.2.2.team a true else (s.flushTeam e.2.2.team a false).settleGang e.1.id
/-- What tmflush and tmkill make of the team. -/
def flushTeamBody (relaunch : Bool) (x : Iss) (s : State) (a : Nat) (e : Gang × Nat × GangTeam) : Act :=
  match s.findTeam e.2.2.team with
  | some (c, y) => if s.backsHeld c y then .wait (s.waitBacks c y) else .done (s.discarded relaunch a e) x.ex
  | none => .done (s.discarded relaunch a e) x.ex

/-- What tkdone makes of the team. -/
def doneTeamBody (x : Iss) (s : State) (a : Nat) (e : Gang × Nat × GangTeam) : Act :=
  if e.2.2.completed then
    .done (((s.setTicketState a 4).modGangTeam e.2.2.team (fun e => { e with reported := true })).settleGang e.1.id) x.ex
  else .wait s

section
variable {x : Iss} {s u : State} {a : Nat} {g : Gang} {i : Nat} {e : GangTeam}

theorem placeTeam_placed (hr : e.reserved = true) (hc : e.core = x.g.core) (hf : s.findTeam e.team = none)
    (hp : (s.placeGangTeam g i e).2 = true) :
    placeTeam x s a (g, i, e) = .done ((s.placeGangTeam g i e).1.unclaim x.g.core a) x.ex := by
  rw [placeTeam, if_pos (by simp [hr, hc, hf])]
  generalize s.placeGangTeam g i e = r at hp
  obtain ⟨t, b⟩ := r
  subst hp
  rfl

theorem placeTeam_reading (hr : e.reserved = true) (hc : e.core = x.g.core) (hf : s.findTeam e.team = none)
    (hp : (s.placeGangTeam g i e).2 = false) : placeTeam x s a (g, i, e) = .wait (s.placeGangTeam g i e).1 := by
  rw [placeTeam, if_pos (by simp [hr, hc, hf])]
  generalize s.placeGangTeam g i e = r at hp
  obtain ⟨t, b⟩ := r
  subst hp
  rfl

theorem placeTeam_unreserved (h : e.reserved = false ∨ e.core ≠ x.g.core ∨ (s.findTeam e.team).isSome = true) :
    placeTeam x s a (g, i, e) = .wait s := by
  refine if_neg (fun hc => ?_)
  simp only [Bool.and_eq_true, beq_iff_eq, Option.isNone_iff_eq_none] at hc
  obtain ⟨⟨hr, hcore⟩, hf⟩ := hc
  rw [hr, hf] at h
  simp [hcore] at h

variable {c : Nat} {y : Team}

theorem saveTeamBody_gone (h : s.findTeam e.team = none ∨ ∃ c y, s.findTeam e.team = some (c, y) ∧ y.slots = []) :
    saveTeamBody x s a (g, i, e) = .done s x.ex := by
  rcases h with h | ⟨c, y, h, hs⟩
  · simp only [saveTeamBody, h]
  · simp only [saveTeamBody, h, hs, List.isEmpty_nil, if_true]

theorem saveTeamBody_masked (hf : s.findTeam e.team = some (c, y)) (hs : y.slots ≠ [])
    (h : s.masked c y = true ∨ y.pre.action = 4) : saveTeamBody x s a (g, i, e) = .wait s := by
  simp only [saveTeamBody, hf, List.isEmpty_iff, if_neg hs]
  exact if_pos (by simpa using h)

theorem saveTeamBody_stopped (hf : s.findTeam e.team = some (c, y)) (hs : y.slots ≠ []) (hm : s.masked c y = false)
    (h4 : y.pre.action ≠ 4) (hp : y.pre.stopping = true) : saveTeamBody x s a (g, i, e) =
      if ((s.carrySave c y).findTeam e.team).isNone then .done (s.carrySave c y) x.ex else .wait (s.carrySave c y) := by
  simp only [saveTeamBody, hf, List.isEmpty_iff, if_neg hs, hm, hp]
  rw [if_neg (by simpa using h4)]
  rfl

variable {v : SavedTeam}

theorem restTeamBody_unroomy (hv : s.saved.find? (fun v => v.team.id = e.team) = some v)
    (h : e.reserved = false ∨ e.core ≠ x.g.core ∨ s.roomFor e.core v = false) : restTeamBody x s a (g, i, e) = .wait s := by
  simp only [restTeamBody, hv]
  refine if_pos ?_
  rcases h with h | h | h <;> simp [h]

theorem reserved_here (hr : e.reserved = true) (hc : e.core = x.g.core) (hroom : s.roomFor e.core v = true) :
    (!(e.reserved && e.core == x.g.core && s.roomFor e.core v)) = false := by
  rw [hroom, hr, hc, beq_self_eq_true]
  rfl

theorem restTeamBody_changed (hv : s.saved.find? (fun v => v.team.id = e.team) = some v) (hr : e.reserved = true)
    (hc : e.core = x.g.core) (hroom : s.roomFor e.core v = true) (ha : s.areaHolds v = false) :
    restTeamBody x s a (g, i, e) = .done (s.contextKill v.team.ctx 5 0) x.ex := by
  simp only [restTeamBody, hv]
  rw [reserved_here hr hc hroom, ha]
  rfl

theorem restTeamBody_back (hv : s.saved.find? (fun v => v.team.id = e.team) = some v) (hr : e.reserved = true)
    (hc : e.core = x.g.core) (hroom : s.roomFor e.core v = true) (ha : s.areaHolds v = true) :
    restTeamBody x s a (g, i, e) = resumeBody x (s.restoreTeam e.core v) a (g, i, e) := by
  simp only [restTeamBody, hv]
  rw [reserved_here hr hc hroom, ha]
  rfl

theorem restTeamBody_standing (hv : s.saved.find? (fun v => v.team.id = e.team) = none) (hf : (s.findTeam e.team).isSome = true) :
    restTeamBody x s a (g, i, e) = resumeBody x s a (g, i, e) := by
  obtain ⟨p, hp⟩ := Option.isSome_iff_exists.1 hf
  simp only [restTeamBody, hv, hp]
  rfl

theorem resumeBody_granted (h : u.granted e.team = true) :
    resumeBody x u a (g, i, e) = .done ((u.resumeTeam e.team a g.started).unclaim x.g.core a) x.ex := if_pos h

theorem resumeBody_waits (h : u.granted e.team = false) : resumeBody x u a (g, i, e) = .wait u :=
  if_neg (by rw [h]; decide)

theorem flushTeamBody_goes (relaunch : Bool) (h : ∀ c y, s.findTeam e.team = some (c, y) → s.backsHeld c y = false) :
    flushTeamBody relaunch x s a (g, i, e) = .done (s.discarded relaunch a (g, i, e)) x.ex := by
  rw [flushTeamBody]
  split
  next c y hf => exact if_neg (by rw [h c y hf]; decide)
  next => rfl

theorem flushTeamBody_waits (relaunch : Bool) (hf : s.findTeam e.team = some (c, y)) (hb : s.backsHeld c y = true) :
    flushTeamBody relaunch x s a (g, i, e) = .wait (s.waitBacks c y) := by
  simp only [flushTeamBody, hf, hb, if_true]

theorem doneTeamBody_completed (h : e.completed = true) : doneTeamBody x s a (g, i, e) =
    .done (((s.setTicketState a 4).modGangTeam e.team (fun e => { e with reported := true })).settleGang g.id) x.ex := if_pos h

theorem doneTeamBody_waits (h : e.completed = false) : doneTeamBody x s a (g, i, e) = .wait s :=
  if_neg (by rw [h]; decide)
end

end Sys2Proof.Machine
end

section
/-! SUPPORT. Words of plain memory: what a number written by an agent leaves of the words of a ticket (12 Table 8). -/

namespace Sys2Proof.Machine

/-! ### Numbers in plain memory -/

theorem lcBring_local {s : State} {pa : Nat} (h : s.isLocal pa = true) : s.lcBring pa = s := by
  rw [State.lcBring, h]
  rfl

theorem setByte_local {s : State} {pa : Nat} (h : s.isLocal pa = true) (b : Byte) :
    s.setByte pa b = { s with mem := tabPut 0 pa b s.mem } := by
  rw [State.setByte, lcBring_local h, h]
  rfl

/-- A byte put where an address leads to plain memory. -/
theorem touch_put {s : State} {pa : Nat} (h : s.isLocal pa = true) (b : Byte) :
    (s.touch (.mem pa)).putByte (.mem pa) b = { s with mem := tabPut 0 pa b s.mem } := by
  rw [State.touch, lcBring_local h]
  exact setByte_local h b

/-- Bytes put in turn into plain memory. -/
def putMem (m : Tab Byte) (bs : List (Nat × Byte)) : Tab Byte := bs.foldl (fun m e => tabPut 0 e.1 e.2 m) m

theorem touch_puts (bs : List (Nat × Byte)) (s : State) (h : ∀ e ∈ bs, s.isLocal e.1 = true) :
    bs.foldl (fun s e => (s.touch (.mem e.1)).putByte (.mem e.1) e.2) s = { s with mem := putMem s.mem bs } := by
  induction bs generalizing s with
  | nil => rfl
  | cons e t ih =>
    rw [List.forall_mem_cons] at h
    rw [List.foldl_cons, touch_put h.1]
    exact ih _ h.2

theorem tabGet_putMem_outside (bs : List (Nat × Byte)) (m : Tab Byte) (q : Nat) (h : ∀ e ∈ bs, e.1 ≠ q) :
    tabGet 0 q (putMem m bs) = tabGet 0 q m := by
  induction bs generalizing m with
  | nil => rfl
  | cons e t ih =>
    rw [List.forall_mem_cons] at h
    exact (ih _ h.2).trans ((tabGet_put 0 q e.1 e.2 m).trans (if_neg (Ne.symm h.1)))

/-- Bytes put at successive addresses. -/
theorem tabGet_putMem (bs : List Byte) (m : Tab Byte) (pa o i : Nat) (hi : i < bs.length) :
    tabGet 0 (pa + (o + i)) (putMem m ((bs.zipIdx o).map (fun e => (pa + e.2, e.1)))) = bs.getD i 0 := by
  induction bs generalizing m o i with
  | nil => exact absurd hi (Nat.not_lt_zero i)
  | cons b t ih =>
    cases i with
    | zero =>
      rw [List.zipIdx_cons, List.map_cons]
      show tabGet 0 (pa + o) (putMem (tabPut 0 (pa + o) b m) _) = b
      refine (tabGet_putMem_outside _ _ _ (fun e he => ?_)).trans ((tabGet_put 0 _ _ b m).trans (if_pos rfl))
      obtain ⟨d, hd, rfl⟩ := List.mem_map.1 he
      have := List.le_snd_of_mem_zipIdx hd
      show pa + d.2 ≠ pa + o
      omega
    | succ i =>
      rw [List.zipIdx_cons, List.map_cons, show o + (i + 1) = o + 1 + i by omega]
      exact ih _ _ _ (by simpa using hi)

/-- A number written to plain memory: the bytes, and marks of conflicts and of inherited priorities. -/
theorem writePhys_plain {s : State} {pa n v : Nat} (h : ∀ i < n, s.isLocal (pa + i) = true ∧ s.place (pa + i) = .mem (pa + i)) :
    ∃ ls : List Loc, s.writePhys pa n v = (({ s with mem := putMem s.mem (((leBytes n v).zipIdx).map (fun e => (pa + e.2, e.1))) } :
      State).conflicts ls (202, 0, 0) (fun _ _ => true)).endInherit := by
  have hmem : ∀ e ∈ (leBytes n v).zipIdx, s.isLocal (pa + e.2) = true ∧ s.place (pa + e.2) = .mem (pa + e.2) := by
    intro e he
    have := List.snd_lt_of_mem_zipIdx he
    rw [leBytes_length] at this
    exact h _ (by omega)
  have hbs : (leBytes n v).zipIdx.map (fun e => (s.place (pa + e.2), e.1)) =
      ((leBytes n v).zipIdx.map (fun e => (pa + e.2, e.1))).map (fun e => (Loc.mem e.1, e.2)) := by
    rw [List.map_map]
    exact List.map_congr_left (fun e he => by rw [(hmem e he).2]; rfl)
  refine ⟨(((leBytes n v).zipIdx.map (fun e => (pa + e.2, e.1))).map (fun e => (Loc.mem e.1, e.2))).map (·.1), ?_⟩
  rw [State.writePhys, hbs, State.writeAt, List.foldl_map, touch_puts]
  intro e he
  obtain ⟨d, hd, rfl⟩ := List.mem_map.1 he
  exact (hmem d hd).1

theorem teamTab_conflicts (s : State) (ls : List Loc) (b : Nat × Nat × Nat) (sees : Nat → Nat → Bool) :
    (s.conflicts ls b sees).teamTab = s.teamTab := by
  rw [State.teamTab, cores_conflicts, List.map_map]
  rfl

theorem teamTab_endInherit (s : State) : s.endInherit.teamTab = s.teamTab := rfl

/-- Such a write leaves the lease cache, the package's number, the teams, and what any address of plain memory holds but the
bytes written. -/
theorem writePhys_plain_law {s : State} {pa n v : Nat} (h : ∀ i < n, s.isLocal (pa + i) = true ∧ s.place (pa + i) = .mem (pa + i)) :
    let t := s.writePhys pa n v
    t.lcache = s.lcache ∧ t.pkg = s.pkg ∧ t.teamTab = s.teamTab ∧
      (∀ i < n, tabGet 0 (pa + i) t.mem = BitVec.ofNat 8 (v / 2 ^ (8 * i))) ∧
      ∀ q, (∀ i < n, pa + i ≠ q) → tabGet 0 q t.mem = tabGet 0 q s.mem := by
  obtain ⟨ls, ht⟩ := writePhys_plain (v := v) h
  intro t
  have hmem : t.mem = putMem s.mem (((leBytes n v).zipIdx).map (fun e => (pa + e.2, e.1))) := congrArg State.mem ht
  refine ⟨(congrArg State.lcache ht :), (congrArg State.pkg ht :), (congrArg State.teamTab ht).trans ((teamTab_endInherit _).trans (teamTab_conflicts _ ls _ _)), fun i hi => ?_,
    fun q hq => ?_⟩
  · have hb := tabGet_putMem (leBytes n v) s.mem pa 0 i (by rw [leBytes_length]; exact hi)
    rw [Nat.zero_add] at hb
    rw [hmem, hb, List.getD_eq_getElem?_getD, leBytes_getElem?, if_pos hi]
    rfl
  · rw [hmem]
    refine tabGet_putMem_outside _ _ q (fun e he => ?_)
    obtain ⟨d, hd, rfl⟩ := List.mem_map.1 he
    have := List.snd_lt_of_mem_zipIdx hd
    rw [leBytes_length] at this
    exact hq _ (by omega)

theorem memByte_uncached {s : State} (h : s.lcache = []) (pa : Nat) : s.memByte pa = tabGet 0 pa s.mem := by
  rw [State.memByte, h]
  rfl

theorem readPhys_plain {s : State} {pa n : Nat} (hc : s.lcache = []) (h : ∀ i < n, s.place (pa + i) = .mem (pa + i)) :
    s.readPhys pa n = leNat ((List.range n).map (fun i => tabGet 0 (pa + i) s.mem)) := by
  refine congrArg leNat (List.map_congr_left (fun i hi => ?_))
  rw [h i (List.mem_range.1 hi)]
  exact memByte_uncached hc _

theorem leBytes_eq_map (n v : Nat) : leBytes n v = (List.range n).map (fun i => BitVec.ofNat 8 (v / 2 ^ (8 * i))) := by
  refine List.ext_getElem? (fun i => ?_)
  rw [leBytes_getElem?, List.getElem?_map]
  by_cases hi : i < n
  · rw [if_pos hi, List.getElem?_range hi]; rfl
  · rw [if_neg hi, List.getElem?_eq_none (by simpa using hi)]; rfl

theorem leNat_lt (bs : List Byte) : leNat bs < 2 ^ (8 * bs.length) := by
  induction bs with
  | nil => exact Nat.one_pos
  | cons b t ih =>
    rw [leNat, List.length_cons, show 8 * (t.length + 1) = 8 * t.length + 8 by ring, pow_add]
    have := b.isLt
    omega

/-! ### The words of a ticket -/

theorem plain_word {s : State} {a : Nat} (h : s.ticketPlain a) {n : Nat} (hn : n < 8) {i : Nat} (hi : i < 8) :
    s.isLocal (s.fabric (a + 8 * n) + i) = true ∧ s.place (s.fabric (a + 8 * n) + i) = .mem (s.fabric (a + 8 * n) + i) := by
  have := h.2 (8 * n + i) (by omega)
  rwa [show s.fabric (a + (8 * n + i)) = s.fabric (a + 8 * n) + i by rw [State.fabric, State.fabric]; omega] at this

/-- A ticket stays plain where the lease cache and the package's number stay and every mapping entry is an old one. -/
theorem ticketPlain_of {s u : State} {a : Nat} (hc : u.lcache = s.lcache) (hp : u.pkg = s.pkg)
    (hm : ∀ e ∈ u.teamTab, ∀ t ∈ e.2, ∀ m ∈ t.2.maps, ∃ d ∈ s.teamTab, ∃ z ∈ d.2, m ∈ z.2.maps) (h : s.ticketPlain a) :
    u.ticketPlain a := by
  refine ⟨hc.trans h.1, fun i hi => ?_⟩
  obtain ⟨hl, hplace⟩ := h.2 i hi
  have hf : u.fabric (a + i) = s.fabric (a + i) := by rw [State.fabric, hp, ← State.fabric]
  rw [hf]
  refine ⟨by rw [State.isLocal, hp]; exact hl, (place_mem_iff u _).2 (fun e he t ht m hmm => ?_)⟩
  obtain ⟨d, hd, z, hz, hmz⟩ := hm e he t ht m hmm
  exact (place_mem_iff s _).1 hplace d hd z hz m hmz

theorem ticketPlain_of_tab {s u : State} {a : Nat} (hc : u.lcache = s.lcache) (hp : u.pkg = s.pkg) (ht : u.teamTab = s.teamTab)
    (h : s.ticketPlain a) : u.ticketPlain a :=
  ticketPlain_of hc hp (fun e he t hz _ hm => ⟨e, ht ▸ he, t, hz, hm⟩) h

theorem ticketWord_lt (s : State) (a n : Nat) : s.ticketWord a n < 2 ^ 64 := by
  have := leNat_lt ((List.range 8).map (fun i => s.getByte (s.place (s.fabric (a + 8 * n) + i))))
  rwa [List.length_map, List.length_range] at this

/-- A word of a plain ticket is written, and its other words stand. -/
theorem ticketWord_write {s : State} {a n : Nat} (h : s.ticketPlain a) (hn : n < 8) (v : Nat) :
    let t := s.writePhys (s.fabric (a + 8 * n)) 8 v
    t.ticketPlain a ∧ t.teamTab = s.teamTab ∧ ∀ m < 8, t.ticketWord a m = if m = n then v % 2 ^ 64 else s.ticketWord a m := by
  obtain ⟨hc, hp, htab, hin, hout⟩ := writePhys_plain_law (v := v) (fun i hi => plain_word h hn hi)
  have hplain := ticketPlain_of_tab hc hp htab h
  refine ⟨hplain, htab, fun m hm => ?_⟩
  rw [State.ticketWord, readPhys_plain hplain.1 (fun i hi => (plain_word hplain hm hi).2)]
  have hf : ∀ k, (s.writePhys (s.fabric (a + 8 * n)) 8 v).fabric k = s.fabric k := fun k => by rw [State.fabric, hp, ← State.fabric]
  rw [hf]
  split
  next hmn =>
    subst hmn
    rw [← leNat_leBytes 8 v, leBytes_eq_map]
    exact congrArg leNat (List.map_congr_left (fun i hi => hin i (List.mem_range.1 hi)))
  next hmn =>
    rw [State.ticketWord, readPhys_plain h.1 (fun i hi => (plain_word h hm hi).2)]
    refine congrArg leNat (List.map_congr_left (fun i hi => hout _ (fun j hj => ?_)))
    have := List.mem_range.1 hi
    rw [State.fabric, State.fabric]
    omega

theorem setTicketState_plain {s : State} {a : Nat} (h : s.ticketPlain a) {st : Nat} (hst : st < 16) :
    (s.setTicketState a st).ticketPlain a ∧ (s.setTicketState a st).teamTab = s.teamTab ∧ (s.setTicketState a st).ticketState a = st := by
  obtain ⟨hplain, htab, hword⟩ := ticketWord_write (n := 2) h (by decide) (s.ticketWord a 2 / 16 * 16 + st)
  refine ⟨hplain, htab, ?_⟩
  have hlt := ticketWord_lt s a 2
  have hw := hword 2 (by decide)
  rw [if_pos rfl, Nat.mod_eq_of_lt (by omega)] at hw
  rw [State.ticketState, State.setTicketState, hw]
  omega

theorem setTicketCore_plain {s : State} {a : Nat} (h : s.ticketPlain a) (c : Nat) :
    (s.setTicketCore a c).ticketPlain a ∧ (s.setTicketCore a c).teamTab = s.teamTab ∧ (s.setTicketCore a c).ticketState a = s.ticketState a := by
  obtain ⟨hplain, htab, hword⟩ := ticketWord_write (n := 1) h (by decide)
    (s.ticketWord a 1 - bitsAt (s.ticketWord a 1) 18 8 * 2 ^ 18 + c * 2 ^ 18)
  exact ⟨hplain, htab, congrArg (· % 16) ((hword 2 (by decide)).trans (if_neg (by decide)))⟩

theorem ticketSound_iff (s : State) (a : Nat) : s.ticketSound a = true ↔ (∀ n, 4 ≤ n → n < 8 → s.ticketWord a n = 0) ∧
    s.ticketWord a 2 / 2 ^ 48 % 2 ^ 16 = 0 ∧ s.ticketWord a 2 / 2 ^ 4 % 2 ^ 28 = 0 ∧ s.ticketWord a 1 / 2 ^ 16 % 2 ^ 2 = 0 := by
  simp only [State.ticketSound, bitsAt, Bool.and_eq_true, List.all_eq_true, List.mem_range, beq_iff_eq, and_assoc]
  refine and_congr_left (fun _ => ⟨fun h n h4 h8 => ?_, fun h n hn => h (4 + n) (by omega) (by omega)⟩)
  have := h (n - 4) (by omega)
  rwa [Nat.add_sub_cancel' h4] at this

end Sys2Proof.Machine
end

section
/-! SUPPORT. Teams that stay where they are: what checks, translations, writes and re-registrations leave of the places of teams on
cores (12 R393; 06 R195; 07 R247). -/

namespace Sys2Proof.Machine

/-- What an access leaves of a team. -/
def Team.brief (x : Team) : Kdesc × Nat × Bool := (x.kd, x.ctx, x.started)

/-- A table of teams for a core that has every team that the core had, and no team that did not stand there. -/
def Refits (T : Tab (Tab Team)) (c : Nat) (t : Tab Team) : Prop :=
  (∀ y, (tabFind y (tabGet [] c T)).isSome = true → (tabFind y t).isSome = true) ∧
    ∀ y x, tabFind y t = some x → ∃ d ∈ T, d.1 = c ∧ ∃ z, tabFind y d.2 = some z ∧ z.brief = x.brief

/-- Saved teams stay, and every team stays on each core on which it stands, and comes to no other. -/
structure Lodging (s u : State) : Prop where
  saved : u.saved = s.saved
  stay : ∀ c y, (tabFind y (s.core c).teams).isSome = true → (tabFind y (u.core c).teams).isSome = true
  site : ∀ y e, e ∈ s.teamTab → (tabFind y e.2).isSome = true → ∃ d ∈ u.teamTab, d.1 = e.1 ∧ (tabFind y d.2).isSome = true
  source : ∀ y e, e ∈ u.teamTab → ∀ x, tabFind y e.2 = some x →
    ∃ d ∈ s.teamTab, d.1 = e.1 ∧ ∃ z, tabFind y d.2 = some z ∧ z.brief = x.brief

theorem Lodging.trans {s t u : State} (h : Lodging s t) (k : Lodging t u) : Lodging s u where
  saved := k.saved.trans h.saved
  stay := fun c y hy => k.stay c y (h.stay c y hy)
  site := fun y e he hy => by
    obtain ⟨d, hd, hde, hdy⟩ := h.site y e he hy
    obtain ⟨b, hb, hbd, hby⟩ := k.site y d hd hdy
    exact ⟨b, hb, hbd.trans hde, hby⟩
  source := fun y e he x hx => by
    obtain ⟨d, hd, hde, z, hz, hzx⟩ := k.source y e he x hx
    obtain ⟨b, hb, hbd, w, hw, hwz⟩ := h.source y d hd z hz
    exact ⟨b, hb, hbd.trans hde, w, hw, hwz.trans hzx⟩

/-- Where the teams are the same. -/
theorem lodging_of_tab {s u : State} (hs : u.saved = s.saved) (h : u.teamTab = s.teamTab) : Lodging s u where
  saved := hs
  stay := fun c y hy => by rwa [teams_core, h, ← teams_core]
  site := fun y e he hy => ⟨e, h ▸ he, rfl, hy⟩
  source := fun y e he x hx => ⟨e, h ▸ he, rfl, x, hx, rfl⟩

theorem Lodging.rfl' (s : State) : Lodging s s := lodging_of_tab rfl rfl
theorem lodging_of {s u : State} (hs : u.saved = s.saved) (h : u.cores = s.cores) : Lodging s u :=
  lodging_of_tab hs (teamTab_of_cores h)

theorem lodging_fold {α : Type} (ls : List α) (f : State → α → State) (h : ∀ s a, Lodging s (f s a)) (s : State) :
    Lodging s (ls.foldl f s) := by
  induction ls generalizing s with
  | nil => exact .rfl' s
  | cons a t ih => exact (h s a).trans (ih _)

/-- An entry of a table stands after a write, or is the one that the write replaces. -/
theorem mem_or_replaced {α : Type} {T : Tab α} {e : Nat × α} (he : e ∈ T) (c : Nat) (v d : α) :
    e ∈ tabSet c v T ∨ e.1 = c ∧ e.2 = tabGet d c T := by
  induction T with
  | nil => cases he
  | cons a T ih =>
    obtain ⟨j, w⟩ := a
    rw [tabSet]
    by_cases hlt : c < j
    · rw [if_pos hlt]
      exact .inl (List.mem_cons_of_mem _ he)
    · rw [if_neg hlt]
      by_cases hj : j = c
      · rw [if_pos hj]
        rcases List.mem_cons.1 he with rfl | he
        · exact .inr ⟨hj, by simp [tabGet, tabFind, hj]⟩
        · exact .inl (List.mem_cons_of_mem _ he)
      · rw [if_neg hj]
        rcases List.mem_cons.1 he with rfl | he
        · exact .inl (List.mem_cons_self ..)
        · refine (ih he).imp (List.mem_cons_of_mem _) (fun ⟨h1, h2⟩ => ⟨h1, ?_⟩)
          rw [h2, tabGet, tabGet, tabFind, if_neg hj]

theorem mem_tabSet_self {α : Type} (k : Nat) (v : α) (t : Tab α) : (k, v) ∈ tabSet k v t := mem_of_tabFind (tabFind_set_same k v t)

theorem lodging_refits {s u : State} {c : Nat} {t : Tab Team} (hs : u.saved = s.saved) (h : u.teamTab = tabSet c t s.teamTab)
    (ht : Refits s.teamTab c t) : Lodging s u where
  saved := hs
  stay := fun k y hy => by
    rw [teams_core, h, tabGet_set]
    rw [teams_core] at hy
    split
    next hk => exact ht.1 y (hk ▸ hy)
    next => exact hy
  site := fun y e he hy => by
    rw [h]
    rcases mem_or_replaced he c t [] with hm | ⟨h1, h2⟩
    · exact ⟨e, hm, rfl, hy⟩
    · exact ⟨(c, t), mem_tabSet_self c t _, h1.symm, ht.1 y (h2 ▸ hy)⟩
  source := fun y e he x hx => by
    rcases mem_tabSet (h ▸ he) with rfl | he
    · exact ht.2 y x hx
    · exact ⟨e, he, rfl, x, hx, rfl⟩

/-- What a core's own table holds stands in the table of all. -/
theorem mem_teams {T : Tab (Tab Team)} {c y : Nat} {x : Team} (h : tabFind y (tabGet [] c T) = some x) :
    ∃ d ∈ T, d.1 = c ∧ ∃ z, tabFind y d.2 = some z ∧ z.brief = x.brief := by
  rw [tabGet] at h
  cases hf : tabFind c T with
  | none => rw [hf] at h; cases h
  | some t => rw [hf] at h; exact ⟨(c, t), mem_of_tabFind hf, rfl, x, h, rfl⟩

theorem lodging_setCore (s : State) (c : Nat) {k : Core} (h : k.teams = (s.core c).teams) : Lodging s (s.setCore c k) :=
  lodging_refits (s := s) (u := s.setCore c k) rfl (teamTab_setCore s c k)
    ⟨fun y hy => by rw [h, teams_core]; exact hy, fun y x hx => mem_teams (by rwa [h, teams_core] at hx)⟩

theorem lodging_modCore (s : State) (c : Nat) {g : Core → Core} (h : ∀ k, (g k).teams = k.teams) : Lodging s (s.modCore c g) :=
  lodging_setCore s c (h _)

theorem lodging_modTeam (s : State) (y : Nat) {g : Team → Team} (h : ∀ x, (g x).brief = x.brief) : Lodging s (s.modTeam y g) := by
  cases hy : s.findTeam y with
  | none => rw [State.modTeam, hy]; exact .rfl' s
  | some p =>
    obtain ⟨c, x⟩ := p
    have hsaved : (s.modTeam y g).saved = s.saved := by rw [State.modTeam, hy]; rfl
    refine lodging_refits hsaved (teamTab_modTeam hy g) ⟨fun z hz => ?_, fun z w hw => ?_⟩
    · rw [tabFind_set]
      split
      · rfl
      · exact hz
    · rw [tabFind_set] at hw
      split at hw
      next hzy =>
        subst hzy
        cases hw
        obtain ⟨e, he, hx⟩ := List.exists_of_findSome?_eq_some ((findTeam_eq s z).symm.trans hy)
        obtain ⟨v, hv, hvx⟩ := Option.map_eq_some_iff.1 hx
        cases hvx
        exact ⟨e, he, rfl, x, hv, (h x).symm⟩
      next => exact mem_teams hw

theorem lodging_conflicts (s : State) (ls : List Loc) (b : Nat × Nat × Nat) (sees : Nat → Nat → Bool) :
    Lodging s (s.conflicts ls b sees) := lodging_of_tab rfl (teamTab_conflicts s ls b sees)

/-! ### Bytes brought and written -/

theorem lodging_lcBring (s : State) (pa : Nat) : Lodging s (s.lcBring pa) :=
  lodging_of (congrArg State.saved (lcBring_frame s pa) :) (congrArg State.cores (lcBring_frame s pa) :)
theorem soil_brief (x : Team) (o : Nat) : (x.soil o).brief = x.brief := by
  unfold Team.soil
  split <;> rfl
theorem lodging_fillLine (s : State) (t o : Nat) : Lodging s (s.fillLine t o) := by
  unfold State.fillLine
  split
  · exact .rfl' s
  · dsimp only
    split
    · exact .rfl' s
    · refine lodging_modTeam s t ?_
      exact fun _ => rfl
theorem lodging_touch (s : State) (l : Loc) : Lodging s (s.touch l) := by
  cases l with
  | mem pa => exact lodging_lcBring s pa
  | spad t o => exact lodging_fillLine s t o
theorem lodging_putByte (s : State) (l : Loc) (b : Byte) : Lodging s (s.putByte l b) := by
  cases l with
  | mem pa => exact lodging_of (congrArg State.saved (setByte_frame s pa b) :) (congrArg State.cores (setByte_frame s pa b) :)
  | spad t o =>
    refine lodging_modTeam s t (fun x => ?_)
    rw [soil_brief]
    rfl
theorem lodging_endInherit (s : State) : Lodging s s.endInherit := lodging_of rfl rfl
theorem lodging_writeAt (s : State) (bs : List (Loc × Byte)) : Lodging s (s.writeAt bs) := by
  unfold State.writeAt
  extract_lets u
  have h : Lodging s u := lodging_fold bs (fun s b => (s.touch b.1).putByte b.1 b.2)
    (fun s b => (lodging_touch s b.1).trans (lodging_putByte _ _ _)) s
  exact (h.trans (lodging_conflicts u _ _ _)).trans (lodging_endInherit _)
theorem lodging_writePhys (s : State) (pa n v : Nat) : Lodging s (s.writePhys pa n v) := lodging_writeAt s _

/-! ### Translation and the checks of an access -/

theorem lodging_snoop (s : State) (l : Loc) : Lodging s (s.snoop l) := by
  cases l <;> exact lodging_of rfl rfl
theorem lodging_waitLine (s : State) (n : Nat) : Lodging s (s.waitLine n) := by
  unfold State.waitLine
  split <;> exact lodging_of rfl rfl
theorem lodging_waitLines (s : State) (ls : List Loc) : Lodging s (s.waitLines ls) :=
  lodging_fold ls _ (fun s l => by
    cases l with
    | mem pa => exact lodging_waitLine s _
    | spad => exact .rfl' s) s
theorem lodging_markLeaf (s : State) (x : Xlat) (b : Bool) : Lodging s (s.markLeaf x b).1 := by
  unfold State.markLeaf
  extract_lets l m
  split
  · exact .rfl' s
  · exact lodging_writePhys s _ _ _
/-- A translation marked in its leaf and entered in both TLBs. -/
theorem lodging_enterTlbs (s : State) (c ctx va : Nat) (x y : Xlat) (b : Bool) :
    Lodging s (((s.markLeaf x b).1.fillDieTlb c ctx va y).fillTlb c ctx va y) := by
  have h := lodging_markLeaf s x b
  generalize (s.markLeaf x b).1 = u at h
  have hd : Lodging u (u.fillDieTlb c ctx va y) := lodging_of rfl rfl
  exact (h.trans hd).trans (lodging_modCore _ c (fun _ => rfl))
theorem lodging_walkFill (s : State) (c ctx va : Nat) : Lodging s (s.walkFill c ctx va).1 := by
  unfold State.walkFill
  split
  · split
    · exact lodging_waitLines s _
    · exact lodging_enterTlbs s c ctx va _ _ false
  · exact .rfl' s
  · exact .rfl' s
theorem lodging_endShoot (s : State) (c : Nat) : Lodging s (s.endShoot c) := by
  unfold State.endShoot
  split
  · exact lodging_modCore s c (fun _ => rfl)
  · exact .rfl' s
theorem lodging_translate (s : State) (c ctx va : Nat) : Lodging s (s.translate c ctx va).1 := by
  unfold State.translate
  split
  · split
    · exact .rfl' s
    · split
      · exact (lodging_endShoot s c).trans (lodging_walkFill _ c ctx va)
      · exact .rfl' s
  · exact lodging_walkFill s c ctx va
theorem lodging_dirtied (s : State) (c ctx va : Nat) (x : Xlat) : Lodging s (s.dirtied c ctx va x).1 := by
  unfold State.dirtied
  split
  · exact .rfl' s
  · split
    · split
      · exact lodging_waitLines s _
      · exact lodging_enterTlbs s c ctx va _ _ true
    · exact .rfl' s
theorem lodging_checkFill (s : State) (t o : Nat) : Lodging s (s.checkFill t o).1 := by
  unfold State.checkFill
  split
  · split
    · exact lodging_snoop s (.mem _)
    · exact .rfl' s
  · exact .rfl' s
/-- A page that a translation has found is checked, and dirtied by a store. -/
theorem lodging_check (s : State) (a : Agent) (x : Acc) (ea : Nat) : Lodging s (s.check a x ea).1 := by
  unfold State.check
  split
  · exact .rfl' s
  split
  · exact .rfl' s
  split
  · split
    · exact lodging_checkFill s _ _
    · exact .rfl' s
  split
  · exact lodging_checkFill s _ _
  · have ht := lodging_translate s a.core a.ctx ea
    generalize s.translate a.core a.ctx ea = r at ht ⊢
    rcases r with ⟨u, t | _ | _⟩
    case fault => exact ht
    case wait => exact ht
    dsimp only at ht ⊢
    split
    · exact ht
    split
    · exact ht.trans (lodging_snoop u _)
    split
    · exact ht
    · have hd := lodging_dirtied u a.core a.ctx ea t
      generalize u.dirtied a.core a.ctx ea t = q at hd ⊢
      rcases q with ⟨v, _ | _ | _⟩ <;> exact ht.trans hd
theorem lodging_checkList (s : State) (a : Agent) (x : Acc) (es : List Nat) : Lodging s (s.checkList a x es).1 := by
  induction es generalizing s with
  | nil => exact .rfl' s
  | cons e t ih => exact (lodging_check s a x e).trans (ih _)

/-! ### Mappings and tenure of a restored team -/

theorem lodging_mapEntry (s : State) (t e : Nat) (m : MapEnt) : Lodging s (s.mapEntry t e m) :=
  (lodging_modTeam s t (g := fun x => { x with maps := tabSet e m x.maps }) (fun _ => rfl)).trans
    (lodging_of_tab rfl (teamTab_reroute _ _))
theorem lodging_remap (s : State) (core t e : Nat) (m : MapEnt) : Lodging s (s.remap core t e m) := by
  unfold State.remap
  extract_lets m'
  have hr : Lodging s (s.rangeSegs (s.teamAgent core (s.team t).ctx (some t)) m'.va m'.len).1 := lodging_checkList s _ _ _
  generalize s.rangeSegs (s.teamAgent core (s.team t).ctx (some t)) m'.va m'.len = r at hr ⊢
  rcases r with ⟨u, _ | gs⟩ <;> exact hr.trans (lodging_mapEntry u t e _)
theorem lodging_modHandle (s : State) (t n : Nat) (g : Handle → Handle) : Lodging s (s.modHandle t n g) :=
  lodging_modTeam s t (fun _ => rfl)
theorem lodging_reacquire (s : State) (core t n : Nat) (h : Handle) : Lodging s (s.reacquire core t n h) := by
  unfold State.reacquire
  split
  · exact .rfl' s
  · exact (lodging_modHandle s t n _).trans (lodging_of rfl rfl)

/-! ### What stands of one team -/

theorem findTeam_isSome_iff (s : State) (y : Nat) :
    (s.findTeam y).isSome = true ↔ ∃ e ∈ s.teamTab, (tabFind y e.2).isSome = true := by
  rw [findTeam_eq, findIn, List.findSome?_isSome_iff]
  simp only [Option.isSome_map]

theorem findTeam_source {s : State} {y c : Nat} {x : Team} (h : s.findTeam y = some (c, x)) :
    ∃ e ∈ s.teamTab, e.1 = c ∧ tabFind y e.2 = some x := by
  obtain ⟨e, he, hx⟩ := List.exists_of_findSome?_eq_some ((findTeam_eq s y).symm.trans h)
  obtain ⟨v, hv, hvx⟩ := Option.map_eq_some_iff.1 hx
  cases hvx
  exact ⟨e, he, rfl, hv⟩

theorem Lodging.find {s u : State} (h : Lodging s u) (y : Nat) : (u.findTeam y).isSome = (s.findTeam y).isSome := by
  rw [Bool.eq_iff_iff, findTeam_isSome_iff, findTeam_isSome_iff]
  constructor
  · rintro ⟨e, he, hy⟩
    obtain ⟨x, hx⟩ := Option.isSome_iff_exists.1 hy
    obtain ⟨d, hd, -, z, hz, -⟩ := h.source y e he x hx
    exact ⟨d, hd, by rw [hz]; rfl⟩
  · rintro ⟨e, he, hy⟩
    obtain ⟨d, hd, -, hdy⟩ := h.site y e he hy
    exact ⟨d, hd, hdy⟩

/-- A team that stands on one core alone stays there, with what an access leaves of it. -/
theorem Lodging.alone {s u : State} (h : Lodging s u) {y c : Nat} {b : Kdesc × Nat × Bool} (hs : (s.findTeam y).isSome = true)
    (ho : ∀ e ∈ s.teamTab, ∀ x, tabFind y e.2 = some x → e.1 = c ∧ x.brief = b) :
    ∃ x, u.findTeam y = some (c, x) ∧ x.brief = b := by
  obtain ⟨⟨k, x⟩, hk⟩ := Option.isSome_iff_exists.1 ((h.find y).trans hs)
  obtain ⟨e, he, rfl, hx⟩ := findTeam_source hk
  obtain ⟨d, hd, hde, z, hz, hzx⟩ := h.source y e he x hx
  obtain ⟨hc, hb⟩ := ho d hd z hz
  exact ⟨x, by rw [hk, ← hde, hc], hzx.symm.trans hb⟩

/-- A team whose slice has been settled. -/
def State.rechargedTeam (s : State) (y : Nat) (x : Team) : Team :=
  if x.pre.slice = 0 then x
  else
    let p := x.pre.settle s.time
    { x with pre := { p with charged := if x.started && !p.expired && s.blockedFor (s.teamClass y) then some s.time else none } }

theorem recharge_teamTab (s : State) : s.recharge.teamTab = s.teamTab.map (fun e => (e.1, e.2.map (fun t => (t.1, s.rechargedTeam t.1 t.2)))) := by
  rw [State.teamTab, State.teamTab, State.recharge, List.map_map, List.map_map]
  refine List.map_congr_left (fun k _ => ?_)
  refine Prod.ext rfl (List.map_congr_left (fun t _ => ?_))
  rw [State.rechargedTeam]
  split <;> rfl

theorem rechargedTeam_brief (s : State) (y : Nat) (x : Team) : (s.rechargedTeam y x).brief = x.brief := by
  rw [State.rechargedTeam]
  split <;> rfl

theorem lodging_recharge (s : State) : Lodging s s.recharge where
  saved := rfl
  stay := fun c y hy => by
    rw [teams_core] at hy
    rw [teams_core, recharge_teamTab, tabGet, tabFind_values]
    rw [tabGet] at hy
    cases hf : tabFind c s.teamTab with
    | none => rw [hf] at hy; exact hy
    | some t =>
      rw [hf] at hy
      show (tabFind y (t.map _)).isSome = true
      rw [tabFind_map, Option.isSome_map]
      exact hy
  site := fun y e he hy => by
    rw [recharge_teamTab]
    refine ⟨_, List.mem_map.2 ⟨e, he, rfl⟩, rfl, ?_⟩
    rw [tabFind_map, Option.isSome_map]
    exact hy
  source := fun y e he x hx => by
    rw [recharge_teamTab] at he
    obtain ⟨d, hd, rfl⟩ := List.mem_map.1 he
    rw [tabFind_map] at hx
    obtain ⟨z, hz, rfl⟩ := Option.map_eq_some_iff.1 hx
    exact ⟨d, hd, rfl, z, hz, (rechargedTeam_brief s y z).symm⟩

end Sys2Proof.Machine
end

section
/-! SUPPORT. A team comes to a core (12 R393, R400): what its preload reads, where it and its weaves stand, and the state of its
ticket. -/

namespace Sys2Proof.Machine

/-! ### The preload (12 R400) -/

theorem tabGet_putRegister (k r : Nat) (v : RegCell) (m : Tab RegCell) :
    tabGet {} k (if r = 511 then m else tabPut {} r v m) = if k = r ∧ k ≠ 511 then v else tabGet {} k m := by
  by_cases hr : r = 511
  · rw [if_pos hr, if_neg (fun h => h.2 (h.1.trans hr))]
  · rw [if_neg hr, tabGet_put]
    by_cases hk : k = r
    · rw [if_pos hk, if_pos ⟨hk, hk ▸ hr⟩]
    · rw [if_neg hk, if_neg (fun h => hk h.1)]

theorem preloadThread_entry (s u : State) (ctx base n : Nat) (asked : Option (Nat × Nat)) (p : Preload) (m r : Tab RegCell)
    (h : s.preloadThread ctx base n asked [p] m = (u, .ok r)) :
    ∃ v, (if p.perThread = true then (s.fwLoad ctx ((p.val.toNat + (base + n) * (if p.wide then 8 else 4)) % 2 ^ 64) (if p.wide then 8 else 4) asked).2 = .ok v
      else v = p.val.toNat) ∧
    ∀ k, tabGet ({} : RegCell) k r = if p.wide = true ∧ k = p.reg + 1 ∧ k ≠ 511 then { val := BitVec.ofNat 32 (v / 2 ^ 32) }
      else if k = p.reg ∧ k ≠ 511 then { val := BitVec.ofNat 32 v } else tabGet {} k m := by
  simp only [State.preloadThread] at h
  generalize hq : (if p.perThread = true then s.fwLoad ctx ((p.val.toNat + (base + n) * (if p.wide = true then 8 else 4)) % 2 ^ 64)
    (if p.wide = true then 8 else 4) asked else (s, Except.ok p.val.toNat)) = q at h
  rcases q with ⟨t, k | v⟩
  · cases h
  · dsimp only at h
    refine ⟨v, ?_, fun k => ?_⟩
    · split at hq
      next => rw [if_pos ‹_›, hq]
      next => rw [if_neg ‹_›]; cases hq; rfl
    · obtain rfl : _ = r := Except.ok.inj (Prod.mk.inj h).2
      cases p.wide with
      | true =>
        rw [if_pos rfl, tabGet_putRegister, tabGet_putRegister]
        simp only [true_and]
      | false =>
        rw [if_neg Bool.false_ne_true, tabGet_putRegister]
        simp only [Bool.false_eq_true, false_and, if_false]

/-! ### Weaves in their slots -/

theorem tabFind_written_other {α : Type} (es : List (Nat × α)) (m : Tab α) {k : Nat} (h : ∀ e ∈ es, e.1 ≠ k) :
    tabFind k (es.foldl (fun m e => tabSet e.1 e.2 m) m) = tabFind k m := by
  induction es generalizing m with
  | nil => rfl
  | cons e t ih =>
    rw [List.forall_mem_cons] at h
    exact (ih _ h.2).trans (tabFind_set_other e.2 m (Ne.symm h.1))

theorem tabFind_written {α : Type} (es : List (Nat × α)) (m : Tab α) (hn : (es.map Prod.fst).Nodup) {k : Nat} {v : α} (h : (k, v) ∈ es) :
    tabFind k (es.foldl (fun m e => tabSet e.1 e.2 m) m) = some v := by
  induction es generalizing m with
  | nil => cases h
  | cons e t ih =>
    rw [List.map_cons, List.nodup_cons] at hn
    rcases List.mem_cons.1 h with rfl | h
    · exact (tabFind_written_other t _ (fun e he hk => hn.1 (List.mem_map.2 ⟨e, he, hk⟩))).trans (tabFind_set_same k v m)
    · exact ih _ hn.2 h

theorem freeSlots_nodup (k : Core) : k.freeSlots.Nodup := List.nodup_range.filter _

/-- Weaves put into the first free slots, one by one. -/
theorem tabFind_slotted (k : Core) (ws : List Weave) {n c : Nat} {w : Weave} (hw : ws[n]? = some w) (hc : k.freeSlots[n]? = some c) :
    tabFind c (((k.freeSlots.take ws.length).zip ws).foldl (fun m e => tabSet e.1 e.2 m) k.weaves) = some w := by
  have hn : n < ws.length := (List.getElem?_eq_some_iff.1 hw).1
  refine tabFind_written _ _ ?_ ?_
  · rw [List.map_fst_zip (by rw [List.length_take]; omega)]
    exact (freeSlots_nodup k).sublist (List.take_sublist _ _)
  · refine List.mem_iff_getElem?.2 ⟨n, ?_⟩
    rw [List.getElem?_zip_eq_some]
    exact ⟨by rw [List.getElem?_take_of_lt hn]; exact hc, hw⟩

theorem bind_install_weave (k : Core) (x : Team) (ws : List Weave) (arr : MatArray × MatArray) (acc : Tab Word) (tags : Tab Bool)
    {n c : Nat} {w : Weave} (hw : ws[n]? = some w) (hc : k.freeSlots[n]? = some c) :
    (k.install (k.bind x ws.length) ws arr acc tags).weave c = w := by
  have hweaves : (k.install (k.bind x ws.length) ws arr acc tags).weaves =
      ((k.freeSlots.take ws.length).zip ws).foldl (fun m e => tabSet e.1 e.2 m) k.weaves := by
    rw [Core.install]
    dsimp only
    split <;> rfl
  rw [Core.weave, hweaves, tabGet, tabFind_slotted k ws hw hc]
  rfl

theorem install_teams (k : Core) (x : Team) (ws : List Weave) (arr : MatArray × MatArray) (acc : Tab Word) (tags : Tab Bool) :
    (k.install x ws arr acc tags).teams = tabSet x.id x k.teams := by
  rw [Core.install]
  dsimp only
  split <;> rfl

theorem fresh_thread (k : Kdesc) (t w : Nat) (ms : List (Tab RegCell)) {j : Nat} (hj : j < 32) :
    (Weave.fresh k t w ms).thread j = Thread.fresh k (ms.getD (32 * w + j) []) := by
  have hn : ∀ (f : Nat → Thread) (ls : List Nat), j ∈ ls → tabFind j (ls.map (fun l => (l, f l))) = some (f j) := by
    intro f ls
    induction ls with
    | nil => intro h; cases h
    | cons a t ih =>
      intro h
      rw [List.map_cons, tabFind]
      by_cases ha : a = j
      · rw [if_pos ha, ha]
      · rw [if_neg ha]
        exact ih ((List.mem_cons.1 h).resolve_left (Ne.symm ha))
  rw [Weave.thread, Weave.fresh, tabGet, hn (fun l => Thread.fresh k (ms.getD (32 * w + l) [])) _ (List.mem_range.2 hj)]
  rfl

/-! ### Slices settled leave weaves and words of tickets -/

/-- A part of a core, read from the table of that part. -/
theorem core_part {β : Type} (f : Core → β) (s : State) (c : Nat) :
    f (s.core c) = tabGet (f Core.init) c (s.cores.map (fun e => (e.1, f e.2))) := by
  rw [State.core, tabGet, tabGet, tabFind_values f]
  cases tabFind c s.cores <;> rfl

theorem weave_recharge (s : State) (c w : Nat) : s.recharge.weave c w = s.weave c w := by
  have h : s.recharge.cores.map (fun e => (e.1, e.2.weaves)) = s.cores.map (fun e => (e.1, e.2.weaves)) := by
    rw [State.recharge, List.map_map]
    rfl
  rw [State.weave, Core.weave, core_part Core.weaves, h, ← core_part Core.weaves]
  rfl

theorem thread_recharge (s : State) (c w l : Nat) : s.recharge.thread c w l = s.thread c w l :=
  congrArg (fun x : Weave => x.thread l) (weave_recharge s c w)

/-- Words of a plain ticket are those of the memory. -/
theorem ticketWord_of_mem {s u : State} {a : Nat} (hs : s.ticketPlain a) (hu : u.ticketPlain a) (hm : u.mem = s.mem) (hp : u.pkg = s.pkg)
    {n : Nat} (hn : n < 8) : u.ticketWord a n = s.ticketWord a n := by
  rw [State.ticketWord, State.ticketWord, readPhys_plain hu.1 (fun i hi => (plain_word hu hn hi).2),
    readPhys_plain hs.1 (fun i hi => (plain_word hs hn hi).2), hm, State.fabric, hp, ← State.fabric]

theorem rechargedTeam_maps (s : State) (y : Nat) (x : Team) : (s.rechargedTeam y x).maps = x.maps := by
  rw [State.rechargedTeam]
  split <;> rfl

theorem recharge_ticket {s : State} {a : Nat} (h : s.ticketPlain a) :
    s.recharge.ticketPlain a ∧ s.recharge.ticketState a = s.ticketState a := by
  have hplain : s.recharge.ticketPlain a := by
    refine ticketPlain_of (s := s) rfl rfl (fun e he t ht m hm => ?_) h
    rw [recharge_teamTab] at he
    obtain ⟨d, hd, rfl⟩ := List.mem_map.1 he
    obtain ⟨z, hz, rfl⟩ := List.mem_map.1 ht
    exact ⟨d, hd, z, hz, (rechargedTeam_maps s z.1 z.2) ▸ hm⟩
  exact ⟨hplain, congrArg (· % 16) (ticketWord_of_mem h hplain rfl rfl (by decide))⟩

/-! ### Placing (12 R393) -/

/-- The record of a team that is placed, and the team that the core binds. -/
def State.teamRecord (s : State) (g : Gang) (i : Nat) (e : GangTeam) (l : Launch) : Team :=
  { id := e.team, kd := l.kd, ctx := l.ctx, launch := l.id, gang := g.id, index := i, gtkt := g.gtkt,
    ticket := e.ticket, handler := l.words.getD 6 0, rswin := (l.words.getD 7 0).toNat,
    started := g.started, pre := s.freshSlice l.ctx l.queue }
def State.boundTeam (s : State) (g : Gang) (i : Nat) (e : GangTeam) (l : Launch) : Team :=
  (s.core e.core).bind (s.teamRecord g i e l) l.kd.weaves
def freshWeaves (l : Launch) (e : GangTeam) (ms : List (Tab RegCell)) : List Weave :=
  (List.range l.kd.weaves).map (fun w => Weave.fresh l.kd e.team w ms)
/-- The state in which a placed team stands, before its ticket says so. -/
def State.seated (s : State) (g : Gang) (i : Nat) (e : GangTeam) (l : Launch) (ms : List (Tab RegCell)) : State :=
  ((s.takeSlice l.ctx).modCore e.core (fun k => k.install (s.boundTeam g i e l) (freshWeaves l e ms) ({}, {}) [] [])).modGang g.id
    (fun g => { g with arrived := insertNat i g.arrived })

theorem placeGangTeam_seats {s u : State} {g : Gang} {i : Nat} {e : GangTeam} {l : Launch} {ms : List (Tab RegCell)}
    (hl : s.findLaunch g.launch = some l)
    (hp : s.preloadAll l.ctx ((g.index * l.kd.teams + i) * 1024) e.asked l.preload (32 * l.kd.weaves) = (u, .ok ms)) :
    s.placeGangTeam g i e = (((u.seated g i e l ms).setTicketState e.ticket 2).recharge, true) := by
  rw [State.placeGangTeam, hl]
  dsimp only
  rw [hp]
  rfl

section
variable (u : State) (g : Gang) (i : Nat) (e : GangTeam) (l : Launch) (ms : List (Tab RegCell))

theorem seated_core : (u.seated g i e l ms).core e.core =
    (u.core e.core).install (u.boundTeam g i e l) (freshWeaves l e ms) ({}, {}) [] [] :=
  (core_modCore (u.takeSlice l.ctx) e.core e.core
    (fun k => k.install (u.boundTeam g i e l) (freshWeaves l e ms) ({}, {}) [] [])).trans (if_pos rfl)

theorem seated_teamTab : (u.seated g i e l ms).teamTab = setIn u.teamTab e.core e.team (u.boundTeam g i e l) := by
  have h := teamTab_setCore (u.takeSlice l.ctx) e.core
    ((u.core e.core).install (u.boundTeam g i e l) (freshWeaves l e ms) ({}, {}) [] [])
  rw [install_teams, teams_core] at h
  exact h

theorem seated_plain {a : Nat} (h : u.ticketPlain a) : (u.seated g i e l ms).ticketPlain a := by
  refine ticketPlain_of (s := u) rfl rfl (fun d hd t ht m hm => ?_) h
  rw [seated_teamTab] at hd
  rcases mem_setIn hd ht with rfl | ⟨b, hb, htb⟩
  · cases hm
  · exact ⟨b, hb, t, htb, hm⟩

theorem seated_weave {w k : Nat} (hw : w < l.kd.weaves) (hk : (u.core e.core).freeSlots[w]? = some k) :
    (u.seated g i e l ms).weave e.core k = Weave.fresh l.kd e.team w ms := by
  have hlen : (freshWeaves l e ms).length = l.kd.weaves := by rw [freshWeaves, List.length_map, List.length_range]
  have hfresh : (freshWeaves l e ms)[w]? = some (Weave.fresh l.kd e.team w ms) := by
    rw [freshWeaves, List.getElem?_map, List.getElem?_range hw]; rfl
  have h := bind_install_weave (u.core e.core) (u.teamRecord g i e l) (freshWeaves l e ms) ({}, {}) [] [] hfresh hk
  rw [hlen] at h
  rw [State.weave, seated_core]
  exact h

/-- A team that stood nowhere stands on the core of its entry alone. -/
theorem seated_alone (hf : u.findTeam e.team = none) : ((u.seated g i e l ms).findTeam e.team).isSome = true ∧
    ∀ d ∈ (u.seated g i e l ms).teamTab, ∀ x, tabFind e.team d.2 = some x → d.1 = e.core ∧ x.brief = (l.kd, l.ctx, g.started) := by
  have hnone : ∀ d ∈ u.teamTab, tabFind e.team d.2 = none := by
    intro d hd
    by_contra hne
    have := (findTeam_isSome_iff u e.team).2 ⟨d, hd, Option.isSome_iff_ne_none.2 hne⟩
    rw [hf] at this
    cases this
  constructor
  · rw [findTeam_isSome_iff, seated_teamTab]
    exact ⟨_, mem_tabSet_self e.core _ _, by rw [tabFind_set_same]; rfl⟩
  · intro d hd x hx
    rw [seated_teamTab] at hd
    rcases mem_tabSet hd with rfl | hd
    · rw [tabFind_set_same] at hx
      cases hx
      exact ⟨rfl, rfl⟩
    · rw [hnone d hd] at hx
      cases hx
end

theorem plainly_fields {t f : Thread} (h : t.plainly = f.plainly) :
    t.mode = f.mode ∧ t.ctl = f.ctl ∧ t.fpCtl = f.fpCtl ∧ t.regs = f.regs :=
  ⟨(congrArg Thread.mode h :), (congrArg Thread.ctl h :), (congrArg Thread.fpCtl h :), (congrArg Thread.regs h :)⟩

theorem aside_fields {w v : Weave} (h : { w with threads := [] } = { v with threads := [] }) : w.team = v.team ∧ w.index = v.index :=
  ⟨(congrArg Weave.team h :), (congrArg Weave.index h :)⟩

theorem alike_setTicketState (s : State) (a st : Nat) : Alike s (s.setTicketState a st) := alike_writePhys s _ _ _

theorem placeGangTeam_places (s : State) (g : Gang) (i : Nat) (e : GangTeam) (l : Launch) (u : State) (ms : List (Tab RegCell))
    (hl : s.findLaunch g.launch = some l)
    (hp : s.preloadAll l.ctx ((g.index * l.kd.teams + i) * 1024) e.asked l.preload (32 * l.kd.weaves) = (u, .ok ms))
    (hf : u.findTeam e.team = none) : let t := (s.placeGangTeam g i e).1
    (s.placeGangTeam g i e).2 = true ∧ (u.ticketPlain e.ticket → t.ticketState e.ticket = 2) ∧
    (t.findTeam e.team).map (·.1) = some e.core ∧
    (t.team e.team).kd = l.kd ∧ (t.team e.team).ctx = l.ctx ∧ (t.team e.team).started = g.started ∧
    ∀ w k, w < l.kd.weaves → (u.core e.core).freeSlots[w]? = some k →
      (t.weave e.core k).team = some e.team ∧ (t.weave e.core k).index = w ∧
      ∀ j, j < 32 → (t.thread e.core k j).mode = .ready ∧ (t.thread e.core k j).ctl = { pc := BitVec.ofNat 64 l.kd.image } ∧
        (t.thread e.core k j).fpCtl = l.kd.fpctl ∧ (t.thread e.core k j).regs = ms.getD (32 * w + j) [] := by
  rw [placeGangTeam_seats hl hp]
  dsimp only
  have hlodge : Lodging (u.seated g i e l ms) ((u.seated g i e l ms).setTicketState e.ticket 2).recharge :=
    (lodging_writePhys _ _ _ _).trans (lodging_recharge _)
  obtain ⟨hsome, halone⟩ := seated_alone u g i e l ms hf
  obtain ⟨x, hx, hb⟩ := hlodge.alone hsome halone
  obtain ⟨hkd, hctx, hstarted⟩ : x.kd = l.kd ∧ x.ctx = l.ctx ∧ x.started = g.started := by
    simpa only [Team.brief, Prod.mk.injEq] using hb
  refine ⟨rfl, fun hplain => ?_, by rw [hx]; rfl, by rw [team_of_find hx, hkd], by rw [team_of_find hx, hctx],
    by rw [team_of_find hx, hstarted], fun w k hw hk => ?_⟩
  · obtain ⟨hp2, -, hst⟩ := setTicketState_plain (seated_plain u g i e l ms hplain) (st := 2) (by decide)
    exact (recharge_ticket hp2).2.trans hst
  · have hweave := seated_weave u g i e l ms hw hk
    have halike := alike_setTicketState (u.seated g i e l ms) e.ticket 2
    obtain ⟨hteam, hindex⟩ := aside_fields (halike.tables e.core k)
    rw [hweave] at hteam hindex
    refine ⟨(congrArg Weave.team (weave_recharge _ _ _)).trans hteam, (congrArg Weave.index (weave_recharge _ _ _)).trans hindex,
      fun j hj => ?_⟩
    obtain ⟨hmode, hctl, hfp, hregs⟩ := plainly_fields (halike.threads e.core k j)
    have hfresh : (u.seated g i e l ms).thread e.core k j = Thread.fresh l.kd (ms.getD (32 * w + j) []) :=
      (congrArg (fun y : Weave => y.thread j) hweave).trans (fresh_thread l.kd e.team w ms hj)
    rw [hfresh] at hmode hctl hfp hregs
    rw [thread_recharge]
    exact ⟨hmode, hctl, hfp, hregs⟩

end Sys2Proof.Machine
end

section
/-! SUPPORT. A team leaves its core (12 R393, R394): saved, flushed or killed, with the state of its ticket; and a saved team comes
back with its registers. -/

namespace Sys2Proof.Machine

/-! ### A team taken off its core -/

theorem tabErase_absent {α : Type} {k : Nat} {t : Tab α} (h : tabFind k t = none) : tabErase k t = t := by
  induction t with
  | nil => rfl
  | cons e t ih =>
    obtain ⟨j, v⟩ := e
    rw [tabFind] at h
    split at h
    · cases h
    · rw [tabErase, if_neg ‹_›, ih h]

theorem dropTeam_teams (k : Core) (n : Nat) : (k.dropTeam n).teams = tabErase n k.teams := by
  rw [Core.dropTeam]
  split
  next h => exact (tabErase_absent h).symm
  next => rfl

theorem teamTab_showStores (s : State) (c w : Nat) : (s.showStores c w).teamTab = s.teamTab :=
  foldl_leaves State.teamTab (fun s e => s.entryConflicts c e (fun c' w' => c' == c && w' != w))
    (fun s _ => foldl_leaves State.teamTab _ (fun _ _ => teamTab_conflicts _ _ _ _) _ s) _ s

theorem removeTeam_teamTab (s : State) (c n : Nat) :
    (s.removeTeam c n).teamTab = tabSet c (tabErase n (tabGet [] c s.teamTab)) s.teamTab := by
  have hshow : ((s.team n).slots.foldl (fun s w => s.showStores c w) s).teamTab = s.teamTab :=
    foldl_leaves State.teamTab (fun s w => s.showStores c w) (fun s w => teamTab_showStores s c w) _ s
  generalize hu : (s.team n).slots.foldl (fun s w => s.showStores c w) s = u at hshow
  have h := fun k : Core => teamTab_setCore u c k
  rw [hshow] at h
  have hcore : (u.core c).teams = tabGet [] c s.teamTab := by rw [teams_core, hshow]
  rw [← hcore, ← dropTeam_teams, State.removeTeam]
  dsimp only
  rw [hu]
  exact h _

theorem removeTeam_gone (s : State) (c n : Nat) : tabFind n ((s.removeTeam c n).core c).teams = none := by
  rw [teams_core, removeTeam_teamTab, tabGet_set, if_pos rfl, tabFind_erase, if_pos rfl]

theorem dropTeam_of_find {s : State} {n c : Nat} {y : Team} (h : s.findTeam n = some (c, y)) :
    s.dropTeam n = ((y.maps.map (·.1)).foldl (fun s e => s.spadClear n e) s).removeTeam c n := by
  rw [State.dropTeam, h]

/-! ### Without mappings every address leads to memory -/

/-- No team has a mapping. -/
def State.unmapped (s : State) : Prop := ∀ e ∈ s.teamTab, ∀ z ∈ e.2, z.2.maps = []

theorem unmapped_iff {s : State} : s.unmapped ↔ ∀ k ∈ s.cores, ∀ z ∈ k.2.teams, z.2.maps = [] := by
  simp only [State.unmapped, State.teamTab, List.forall_mem_map]

theorem place_unmapped {s : State} (h : s.unmapped) (pa : Nat) : s.place pa = .mem pa :=
  (place_mem_iff s pa).2 (fun e he z hz m hm => by rw [h e he z hz] at hm; cases hm)

theorem unmapped_removeTeam {s : State} (h : s.unmapped) (c n : Nat) : (s.removeTeam c n).unmapped := by
  intro e he z hz
  rw [removeTeam_teamTab] at he
  rcases mem_tabSet he with rfl | he
  · have hz := (mem_tabErase hz).1
    rw [tabGet] at hz
    cases hf : tabFind c s.teamTab with
    | none => rw [hf] at hz; cases hz
    | some t => rw [hf] at hz; exact h _ (mem_of_tabFind hf) z hz
  · exact h e he z hz

theorem unmapped_of_tab {s u : State} (ht : u.teamTab = s.teamTab) (h : s.unmapped) : u.unmapped := by rwa [State.unmapped, ht]

/-- Writes to memory leave the teams. -/
theorem teamTab_writeAt (bs : List (Loc × Byte)) (s : State) (h : ∀ b ∈ bs, ∃ pa, b.1 = .mem pa) :
    (s.writeAt bs).teamTab = s.teamTab := by
  have hput : ∀ (bs : List (Loc × Byte)) (s : State), (∀ b ∈ bs, ∃ pa, b.1 = .mem pa) →
      (bs.foldl (fun s b => (s.touch b.1).putByte b.1 b.2) s).teamTab = s.teamTab := by
    intro bs
    induction bs with
    | nil => exact fun _ _ => rfl
    | cons b t ih =>
      intro s h
      rw [List.forall_mem_cons] at h
      obtain ⟨⟨pa, hpa⟩, ht⟩ := h
      refine (ih _ ht).trans ?_
      dsimp only
      rw [hpa]
      exact (teamTab_of_cores (congrArg State.cores (setByte_frame (s.lcBring pa) pa b.2) :)).trans
        (teamTab_of_cores (congrArg State.cores (lcBring_frame s pa) :))
  rw [State.writeAt, teamTab_endInherit, teamTab_conflicts]
  exact hput bs s h

theorem teamTab_writePhys {s : State} (h : s.unmapped) (pa n v : Nat) : (s.writePhys pa n v).teamTab = s.teamTab := by
  refine teamTab_writeAt _ s (fun b hb => ?_)
  obtain ⟨e, -, rfl⟩ := List.mem_map.1 hb
  exact ⟨_, place_unmapped h _⟩

theorem teamTab_writeArea {s : State} (h : s.unmapped) (v : SavedTeam) : (s.writeArea v).teamTab = s.teamTab := by
  refine teamTab_writeAt _ s (fun b hb => ?_)
  obtain ⟨o, -, ho⟩ := List.mem_filterMap.1 hb
  obtain ⟨w, -, rfl⟩ := Option.map_eq_some_iff.1 ho
  exact ⟨_, place_unmapped h _⟩

/-- A team without mappings is only taken off. -/
theorem clear_unmapped {s : State} {n c : Nat} {y : Team} (h : s.findTeam n = some (c, y)) (hu : s.unmapped) :
    (y.maps.map (·.1)).foldl (fun s e => s.spadClear n e) s = s := by
  obtain ⟨e, he, -, hy⟩ := findTeam_source h
  rw [hu e he _ (mem_of_tabFind hy)]
  rfl

/-! ### Saving (12 R393, R394) -/

theorem carrySave_quiet (s : State) (c : Nat) (y : Team) (hq : (s.rollTeam c y).quiet c y = true)
    (hb : (s.rollTeam c y).backsHeld c y = false) : s.carrySave c y = (s.rollTeam c y).saveTeam y.id := by
  rw [State.carrySave, hq, hb]
  rfl

/-- The state in which the area of a saved team has been written. -/
def State.areaWritten (s : State) (n c : Nat) (y : Team) : State :=
  let d := ((y.maps.map (·.1)).foldl (fun s e => s.spadClear n e) s).removeTeam c n
  ({ d with free := d.free + 1 + 229376 } : State).writeArea (s.savedForm c y)
/-- And in which the team is among those saved. -/
def State.savedNow (u : State) (v : SavedTeam) : State := { u with saved := u.saved ++ [{ v with image := u.areaBytes v }] }

theorem saveTeam_of_find {s : State} {n c : Nat} {y : Team} (h : s.findTeam n = some (c, y)) :
    s.saveTeam n = (((s.areaWritten n c y).savedNow (s.savedForm c y)).setTicketState y.ticket 3).modGangTeam n
      (fun e => { e with reserved := false }) := by
  rw [State.saveTeam, h]
  rfl

section
variable (u : State) (v : SavedTeam) (n a : Nat) (f : GangTeam → GangTeam)

theorem savedNow_ticket (h : u.ticketPlain a) : (((u.savedNow v).setTicketState a 3).modGangTeam n f).ticketState a = 3 :=
  (setTicketState_plain (ticketPlain_of_tab (s := u) (u := u.savedNow v) rfl rfl rfl h) (by decide)).2.2

theorem savedNow_teamTab (h : u.unmapped) : (((u.savedNow v).setTicketState a 3).modGangTeam n f).teamTab = u.teamTab :=
  teamTab_writePhys (s := u.savedNow v) (unmapped_of_tab rfl h) _ _ _

theorem savedNow_last : (((u.savedNow v).setTicketState a 3).modGangTeam n f).saved.getLast? = some { v with image := u.areaBytes v } := by
  have hsaved : ((u.savedNow v).setTicketState a 3).saved = (u.savedNow v).saved := (lodging_writePhys _ _ _ _).saved
  exact (congrArg List.getLast? hsaved).trans List.getLast?_concat
end

section
variable {s : State} {n c : Nat} {y : Team} (h : s.findTeam n = some (c, y))
include h

theorem saveTeam_ticket (hp : (s.areaWritten n c y).ticketPlain y.ticket) : (s.saveTeam n).ticketState y.ticket = 3 := by
  rw [saveTeam_of_find h]
  exact savedNow_ticket _ _ _ _ _ hp

theorem saveTeam_gone (hun : s.unmapped) : tabFind n ((s.saveTeam n).core c).teams = none := by
  have hd : ({ s.removeTeam c n with free := (s.removeTeam c n).free + 1 + 229376 } : State).unmapped := unmapped_removeTeam hun c n
  have hu : (s.areaWritten n c y).teamTab = (s.removeTeam c n).teamTab := by
    rw [State.areaWritten, clear_unmapped h hun]
    exact teamTab_writeArea hd _
  rw [saveTeam_of_find h, teams_core, savedNow_teamTab _ _ _ _ _ (unmapped_of_tab hu hd), hu, ← teams_core]
  exact removeTeam_gone s c n

theorem saveTeam_last : ∃ v, (s.saveTeam n).saved.getLast? = some v ∧ v.team.id = y.id ∧ v.team.kd = y.kd ∧ v.team.ctx = y.ctx := by
  rw [saveTeam_of_find h]
  exact ⟨_, savedNow_last _ _ _ _ _, rfl, rfl, rfl⟩
end

theorem savedForm_keeps (s : State) (c : Nat) (y : Team) (w k : Nat) (hs : y.slots = [k]) (hw : (s.weave c k).index = w) :
    ∃ v : Weave, tabFind w (s.savedForm c y).weaves = some v ∧
      ∀ l n, s.liveAt c k l = none → (v.thread l).reg n = (s.thread c k l).reg n := by
  refine ⟨(s.weave c k).saved (s.liveAt c k), ?_, fun l n hlive => ?_⟩
  · rw [State.savedForm, hs, ← hw]
    exact tabFind_set_same _ _ _
  · have hfind : tabFind l ((s.weave c k).saved (s.liveAt c k)).threads =
        (tabFind l (s.weave c k).threads).map (fun t => t.saved (s.liveAt c k l)) :=
      tabFind_map (fun j (t : Thread) => t.saved (s.liveAt c k j)) l (s.weave c k).threads
    have hregs : (((s.weave c k).saved (s.liveAt c k)).thread l).regs = (s.thread c k l).regs := by
      rw [Weave.thread, tabGet, hfind, hlive, State.thread, Weave.thread, tabGet]
      cases tabFind l (s.weave c k).threads <;> rfl
    rw [Thread.reg, hregs, ← Thread.reg]

/-! ### Flush and kill (12 R393) -/

/-- A flushed team is off its core, and not among those saved; its ticket is not claimed. -/
def State.cleared (s : State) (n a : Nat) : State :=
  ({ s.dropTeam n with saved := (s.dropTeam n).saved.filter (fun v => v.team.id != n) } : State).dropClaim a
/-- Its ticket tells what has become of it. -/
def State.ticketFlushed (u : State) (n a : Nat) (relaunch : Bool) : State :=
  if relaunch then (u.setTicketState a 0).setTicketCore a (((u.gangTeam n).map (·.home)).getD 0)
  else u.setTicketState a 5

theorem teamTab_dropClaim (s : State) (a : Nat) : (s.dropClaim a).teamTab = s.teamTab := by
  rw [State.teamTab, State.dropClaim, List.map_map]
  rfl

theorem cleared_teamTab (s : State) (n a : Nat) : (s.cleared n a).teamTab = (s.dropTeam n).teamTab := teamTab_dropClaim _ a

section
variable (u : State) (n a : Nat) (relaunch : Bool)

theorem ticketFlushed_ticket (h : u.ticketPlain a) :
    (u.ticketFlushed n a relaunch).ticketState a = if relaunch = true then 0 else 5 := by
  cases relaunch with
  | true =>
    obtain ⟨hplain, -, hst⟩ := setTicketState_plain h (st := 0) (by decide)
    exact (setTicketCore_plain hplain _).2.2.trans hst
  | false => exact (setTicketState_plain h (st := 5) (by decide)).2.2

theorem ticketFlushed_teamTab (h : u.unmapped) : (u.ticketFlushed n a relaunch).teamTab = u.teamTab := by
  cases relaunch with
  | true =>
    have h0 : (u.setTicketState a 0).teamTab = u.teamTab := teamTab_writePhys h _ _ _
    exact (teamTab_writePhys (unmapped_of_tab h0 h) _ _ _).trans h0
  | false => exact teamTab_writePhys h _ _ _

theorem ticketFlushed_saved : (u.ticketFlushed n a relaunch).saved = u.saved := by
  cases relaunch with
  | true => exact (lodging_writePhys _ _ _ _).saved.trans (lodging_writePhys _ _ _ _).saved
  | false => exact (lodging_writePhys _ _ _ _).saved
end

/-- Past the ticket a flush changes the gangs alone. -/
def State.unganged (u : State) (n : Nat) (relaunch : Bool) : State :=
  let s := u.modGangTeam n (fun e => { e with
    reserved := false, reported := !relaunch, killed := !relaunch, core := if relaunch then e.home else e.core })
  { s with gangs := s.gangs.map (fun g => { g with arrived := g.arrived.filter (fun i =>
      ((g.teams[i]?).map (·.team)) != some n) }) }

theorem flushTeam_eq (s : State) (n a : Nat) (relaunch : Bool) :
    s.flushTeam n a relaunch = ((s.cleared n a).ticketFlushed n a relaunch).unganged n relaunch := rfl

theorem flushTeam_flushes (s : State) (n a : Nat) (relaunch : Bool) : let t := s.flushTeam n a relaunch
    ((s.dropTeam n).ticketPlain a → t.ticketState a = if relaunch = true then 0 else 5) ∧
    (∀ c y, s.findTeam n = some (c, y) → tabFind n ((s.dropTeam n).core c).teams = none ∧
      ((∀ k ∈ s.cores, ∀ z ∈ k.2.teams, z.2.maps = []) → tabFind n (t.core c).teams = none)) ∧ ∀ v ∈ t.saved, v.team.id ≠ n := by
  rw [flushTeam_eq]
  refine ⟨fun hplain => ?_, fun c y hf => ?_, fun v hv => ?_⟩
  · exact ticketFlushed_ticket _ n a relaunch (ticketPlain_of_tab (s := s.dropTeam n) rfl rfl (cleared_teamTab s n a) hplain)
  · have hgone : tabFind n ((s.dropTeam n).core c).teams = none := by
      rw [dropTeam_of_find hf]
      exact removeTeam_gone _ c n
    refine ⟨hgone, fun hmaps => ?_⟩
    have hun := unmapped_iff.2 hmaps
    have hdrop : (s.dropTeam n).unmapped := by
      rw [dropTeam_of_find hf, clear_unmapped hf hun]
      exact unmapped_removeTeam hun c n
    have hcl : (s.cleared n a).unmapped := unmapped_of_tab (cleared_teamTab s n a) hdrop
    have htab : ((s.cleared n a).ticketFlushed n a relaunch).teamTab = (s.dropTeam n).teamTab :=
      (ticketFlushed_teamTab _ n a relaunch hcl).trans (cleared_teamTab s n a)
    rw [teams_core, ← htab] at hgone
    rw [teams_core]
    exact hgone
  · have hv' : v ∈ ((s.cleared n a).ticketFlushed n a relaunch).saved := hv
    rw [ticketFlushed_saved] at hv'
    simpa using (List.mem_filter.1 hv').2

end Sys2Proof.Machine
end

section
/-! SUPPORT. A saved team comes back (12 R393, R394), resumes (12 R393), and firmware finds a ticket (12 R392). -/

namespace Sys2Proof.Machine

/-! ### Registers under mappings registered again (06 R195) -/

/-- Every thread has the registers that it had. -/
def KeepsRegs (s u : State) : Prop := ∀ c w l, (u.thread c w l).regs = (s.thread c w l).regs

theorem KeepsRegs.trans {s t u : State} (h : KeepsRegs s t) (k : KeepsRegs t u) : KeepsRegs s u :=
  fun c w l => (k c w l).trans (h c w l)
theorem keepsRegs_of_alike {s u : State} (h : Alike s u) : KeepsRegs s u :=
  fun c w l => (plainly_fields (h.threads c w l)).2.2.2
theorem keepsRegs_fold {α : Type} (ls : List α) (f : State → α → State) (h : ∀ s a, KeepsRegs s (f s a)) (s : State) :
    KeepsRegs s (ls.foldl f s) := by
  induction ls generalizing s with
  | nil => exact fun _ _ _ => rfl
  | cons a t ih => exact (h s a).trans (ih _)

/-- A thread of a weave whose locations follow `f`. -/
def Thread.rerouted (f : Loc → Loc) (t : Thread) : Thread := { t with spec := t.spec.map (Spec.reroute f) }

theorem reroute_regs (f : Loc → Loc) (w : Weave) (l : Nat) : ((w.reroute f).thread l).regs = (w.thread l).regs := by
  have hfind : tabFind l (w.reroute f).threads = (tabFind l w.threads).map (Thread.rerouted f) :=
    tabFind_values (Thread.rerouted f) l w.threads
  rw [Weave.thread, tabGet, hfind, Weave.thread, tabGet]
  cases tabFind l w.threads <;> rfl

theorem keepsRegs_reroute (s : State) (f : Loc → Loc) : KeepsRegs s (s.reroute f) := by
  intro c w l
  have hcore : (s.reroute f).core c = (s.core c).reroute f := by
    rw [State.core, State.reroute, tabGet, tabFind_values (Core.reroute f), State.core, tabGet]
    cases tabFind c s.cores <;> rfl
  have hweave : ((s.core c).reroute f).weave w = ((s.core c).weave w).reroute f := by
    rw [Core.weave, Core.reroute, tabGet, tabFind_values (Weave.reroute f), Core.weave, tabGet]
    cases tabFind w (s.core c).weaves <;> rfl
  rw [State.thread, State.weave, hcore, hweave, reroute_regs]
  rfl

theorem keepsRegs_mapEntry (s : State) (t e : Nat) (m : MapEnt) : KeepsRegs s (s.mapEntry t e m) :=
  (keepsRegs_of_alike (quiet_modTeam s t _).alike).trans (keepsRegs_reroute _ _)

theorem keepsRegs_remap (s : State) (core t e : Nat) (m : MapEnt) : KeepsRegs s (s.remap core t e m) := by
  unfold State.remap
  extract_lets m'
  have hr : KeepsRegs s (s.rangeSegs (s.teamAgent core (s.team t).ctx (some t)) m'.va m'.len).1 :=
    keepsRegs_of_alike (alike_checkList s _ _ _)
  generalize s.rangeSegs (s.teamAgent core (s.team t).ctx (some t)) m'.va m'.len = r at hr ⊢
  rcases r with ⟨u, _ | gs⟩ <;> exact hr.trans (keepsRegs_mapEntry u t e _)

theorem keepsRegs_reacquire (s : State) (core t n : Nat) (h : Handle) : KeepsRegs s (s.reacquire core t n h) := by
  unfold State.reacquire
  split
  · exact fun _ _ _ => rfl
  · have hmod : KeepsRegs s (s.modHandle t n (fun h => { h with lost := false })) := keepsRegs_of_alike (quiet_modHandle s t n _).alike
    exact hmod.trans (fun _ _ _ => rfl)

/-! ### Faults posted again (03 R99) -/

/-- The same teams, and the registers of every thread. -/
def Core.Reposted (k q : Core) : Prop :=
  q.teams = k.teams ∧ ∀ w l, ((q.weave w).thread l).regs = ((k.weave w).thread l).regs

theorem Core.Reposted.trans {k q r : Core} (h : k.Reposted q) (g : q.Reposted r) : k.Reposted r :=
  ⟨g.1.trans h.1, fun w l => (g.2 w l).trans (h.2 w l)⟩
theorem reposted_of {k q : Core} (ht : q.teams = k.teams) (hw : q.weaves = k.weaves) : k.Reposted q :=
  ⟨ht, fun w l => by rw [Core.weave, hw, ← Core.weave]⟩
theorem reposted_fold {α : Type} (ls : List α) (f : Core → α → Core) (h : ∀ (k : Core) (a : α), k.Reposted (f k a)) (k : Core) :
    k.Reposted (ls.foldl f k) := by
  induction ls generalizing k with
  | nil => exact reposted_of rfl rfl
  | cons a t ih => exact (h k a).trans (ih _)
/-- A fold that also gathers what it made of each entry. -/
theorem reposted_gather {α β : Type} (ls : List α) (f : Core × List β → α → Core × List β) (h : ∀ (r : Core × List β) (a : α), r.1.Reposted (f r a).1)
    (r : Core × List β) : r.1.Reposted (ls.foldl f r).1 := by
  induction ls generalizing r with
  | nil => exact reposted_of rfl rfl
  | cons a t ih => exact (h r a).trans (ih _)

theorem reposted_repark (k : Core) (slot : Nat) (flt : List FaultRec) (p : Parked) : k.Reposted (k.repark slot flt p).1 := by
  unfold Core.repark
  split <;> exact reposted_of rfl rfl

theorem reposted_reparkAll (k : Core) (slot : Nat) (flt : List FaultRec) (ps : List Parked) :
    k.Reposted (k.reparkAll slot flt ps).1 :=
  reposted_gather ps _ (fun r p => reposted_repark r.1 slot flt p) (k, [])

/-- A weave put back with the threads that it had. -/
theorem reposted_weave {k q : Core} (h : k.Reposted q) (slot : Nat) {v : Weave} (hv : v.threads = (k.weave slot).threads) :
    k.Reposted { q with weaves := tabSet slot v q.weaves } := by
  refine ⟨h.1, fun w l => ?_⟩
  rw [Core.weave, tabGet_set]
  by_cases hw : w = slot
  · rw [if_pos hw, Weave.thread, hv, hw, ← Weave.thread]
  · rw [if_neg hw, ← Core.weave]
    exact h.2 w l

theorem reposted_reparkWeave (k : Core) (flt : List FaultRec) (slot : Nat) : k.Reposted (k.reparkWeave flt slot) := by
  unfold Core.reparkWeave
  extract_lets w r
  split
  · exact reposted_weave (reposted_reparkAll k slot flt _) slot rfl
  · exact reposted_weave ((reposted_reparkAll k slot flt _).trans (reposted_reparkAll _ slot flt _)) slot rfl

theorem reposted_reenter (k : Core) (eflt : List FaultRec) (c : EngCmd) : k.Reposted (k.reenter eflt c) := by
  unfold Core.reenter
  refine (reposted_gather c.parked _ (fun r u => ?_) (k, [])).trans (reposted_of rfl rfl)
  dsimp only
  split <;> exact reposted_of rfl rfl

/-! ### Restore -/

/-- The team of a saved form, bound to the free places of a core. -/
def State.reboundTeam (s : State) (c : Nat) (v : SavedTeam) : Team :=
  (s.core c).bind { v.team with maps := [], pre := s.freshSlice v.team.ctx ((s.findLaunch v.team.launch).map (·.queue) |>.getD 0) }
    (v.weaves.map (·.2)).length
/-- The core with a saved team on it again. -/
def Core.reinstall (k : Core) (x : Team) (v : SavedTeam) : Core :=
  let k := k.install x (v.weaves.map (·.2)) (v.planes.getD ({}, {})) v.acc v.accInt
  let k := x.slots.foldl (fun k w => k.reparkWeave v.flt w) k
  let k := v.cmds.foldl (fun k c => k.reenter v.eflt c) k
  { k with eflt := k.eflt ++ (v.eflt.filter (fun r => decide (1024 ≤ r.idx))).map (fun r => { r with shown := false }) }
/-- It is not among those saved, and has taken its slice. -/
def State.unkept (s : State) (c : Nat) (v : SavedTeam) : State :=
  { s with saved := s.saved.filter (fun u => u.team.id != v.team.id) }.takeSlice (s.reboundTeam c v).ctx
/-- And its core has it. -/
def State.reseated (s : State) (c : Nat) (v : SavedTeam) : State :=
  (s.unkept c v).modCore c (fun k => k.reinstall (s.reboundTeam c v) v)

theorem restoreTeam_eq (s : State) (c : Nat) (v : SavedTeam) : ∃ g, s.restoreTeam c v =
    v.team.handles.foldl (fun s h => s.reacquire c v.team.id h.1 h.2)
      (v.team.maps.foldl (fun s m => s.remap c v.team.id m.1 m.2) ((s.reseated c v).modDie (dieOf c) g)) :=
  ⟨_, rfl⟩

theorem restoreTeam_lodging (s : State) (c : Nat) (v : SavedTeam) : Lodging (s.reseated c v) (s.restoreTeam c v) := by
  obtain ⟨g, hg⟩ := restoreTeam_eq s c v
  rw [hg]
  have hdie : Lodging (s.reseated c v) ((s.reseated c v).modDie (dieOf c) g) := lodging_of rfl rfl
  have hmaps := lodging_fold v.team.maps (fun s m => s.remap c v.team.id m.1 m.2) (fun s m => lodging_remap s c _ m.1 m.2)
  have hhandles := lodging_fold v.team.handles (fun s h => s.reacquire c v.team.id h.1 h.2) (fun s h => lodging_reacquire s c _ h.1 h.2)
  exact (hdie.trans (hmaps _)).trans (hhandles _)

theorem restoreTeam_regs (s : State) (c : Nat) (v : SavedTeam) : KeepsRegs (s.reseated c v) (s.restoreTeam c v) := by
  obtain ⟨g, hg⟩ := restoreTeam_eq s c v
  rw [hg]
  have hdie : KeepsRegs (s.reseated c v) ((s.reseated c v).modDie (dieOf c) g) :=
    keepsRegs_of_alike (Quiet.alike (sameWeaves_modDie _ _ g).weave)
  have hmaps := keepsRegs_fold v.team.maps (fun s m => s.remap c v.team.id m.1 m.2) (fun s m => keepsRegs_remap s c _ m.1 m.2)
  have hhandles := keepsRegs_fold v.team.handles (fun s h => s.reacquire c v.team.id h.1 h.2)
    (fun s h => keepsRegs_reacquire s c _ h.1 h.2)
  exact (hdie.trans (hmaps _)).trans (hhandles _)

theorem reinstall_reposted (k : Core) (x : Team) (v : SavedTeam) :
    (k.install x (v.weaves.map (·.2)) (v.planes.getD ({}, {})) v.acc v.accInt).Reposted (k.reinstall x v) :=
  ((reposted_fold _ _ (fun k w => reposted_reparkWeave k v.flt w) _).trans
    (reposted_fold _ _ (fun k c => reposted_reenter k v.eflt c) _)).trans (reposted_of rfl rfl)

theorem reseated_core (s : State) (c : Nat) (v : SavedTeam) : (s.reseated c v).core c = (s.core c).reinstall (s.reboundTeam c v) v :=
  (core_modCore (s.unkept c v) c c (fun k => k.reinstall (s.reboundTeam c v) v)).trans (if_pos rfl)

theorem restoreTeam_restores (s : State) (c : Nat) (v : SavedTeam) : let t := s.restoreTeam c v
    (tabFind v.team.id (t.core c).teams).isSome = true ∧ (∀ u ∈ t.saved, u.team.id ≠ v.team.id) ∧
    ∀ (n i : Nat) (w : Weave) (k : Nat), (v.weaves : List (Nat × Weave))[n]? = some (i, w) → (s.core c).freeSlots[n]? = some k →
      ∀ l, (t.thread c k l).regs = (w.thread l).regs := by
  have hlodge := restoreTeam_lodging s c v
  obtain ⟨hteams, hregs⟩ := reinstall_reposted (s.core c) (s.reboundTeam c v) v
  refine ⟨hlodge.stay c _ ?_, fun u hu => ?_, fun n i w k hw hk l => ?_⟩
  · have hid : (s.reboundTeam c v).id = v.team.id := rfl
    rw [reseated_core, hteams, install_teams, hid, tabFind_set_same]
    rfl
  · rw [hlodge.saved] at hu
    have hu' : u ∈ s.saved.filter (fun u => u.team.id != v.team.id) := hu
    simpa using (List.mem_filter.1 hu').2
  · have hws : (v.weaves.map (·.2))[n]? = some w := by rw [List.getElem?_map, hw]; rfl
    have hseat := bind_install_weave (s.core c)
      { v.team with maps := [], pre := s.freshSlice v.team.ctx ((s.findLaunch v.team.launch).map (·.queue) |>.getD 0) }
      (v.weaves.map (·.2)) (v.planes.getD ({}, {})) v.acc v.accInt hws hk
    have hcore := hregs k l
    rw [restoreTeam_regs s c v c k l, State.thread, State.weave, reseated_core, hcore]
    exact congrArg (fun z : Weave => (z.thread l).regs) hseat

/-! ### Resume -/

theorem ticketPlain_modTeam {s : State} {a : Nat} (h : s.ticketPlain a) (y : Nat) {g : Team → Team} (hg : ∀ x, (g x).maps = x.maps) :
    (s.modTeam y g).ticketPlain a := by
  cases hf : s.findTeam y with
  | none => rw [State.modTeam, hf]; exact h
  | some e =>
    obtain ⟨c, x⟩ := e
    obtain ⟨b, hb, hx⟩ := mem_findIn ((findTeam_eq s y).symm.trans hf)
    refine ticketPlain_of (s := s) (by simp) (by simp) (fun d hd t ht m hm => ?_) h
    rw [teamTab_modTeam hf] at hd
    rcases mem_setIn hd ht with rfl | ⟨b, hb, htb⟩
    · exact ⟨b, hb, _, hx, hg x ▸ hm⟩
    · exact ⟨b, hb, t, htb, hm⟩

theorem findTeam_modTeam_iff (s : State) (y : Nat) (g : Team → Team) : ((s.modTeam y g).findTeam y).isSome = (s.findTeam y).isSome := by
  cases hf : s.findTeam y with
  | none => rw [State.modTeam, hf, hf]
  | some e => rw [findTeam_modTeam hf]; rfl

/-- Its tenure requests are no longer waited for, and it issues. -/
def State.resumed (s : State) (n : Nat) (on : Bool) : State :=
  { s with dirReqs := s.dirReqs.filter (fun r => r.team != n || r.slot != 48) }.modTeam n (fun x => { x with started := on })

theorem resumed_plain {s : State} {a : Nat} (h : s.ticketPlain a) (n : Nat) (on : Bool) : (s.resumed n on).ticketPlain a :=
  ticketPlain_modTeam (s := { s with dirReqs := s.dirReqs.filter (fun r => r.team != n || r.slot != 48) })
    (ticketPlain_of_tab rfl rfl rfl h) n (g := fun x => { x with started := on }) (fun _ => rfl)

theorem resumed_found (s : State) (n : Nat) (on : Bool) : ((s.resumed n on).findTeam n).isSome = (s.findTeam n).isSome :=
  findTeam_modTeam_iff _ n _

theorem resumeTeam_eq (s : State) (n a : Nat) (on : Bool) : s.resumeTeam n a on = ((s.resumed n on).setTicketState a 2).recharge := rfl

theorem resumeTeam_resumes (s : State) (n a : Nat) (on : Bool) :
    ((s.resumeTeam n a on).findTeam n).isSome = (s.findTeam n).isSome ∧ (s.ticketPlain a → (s.resumeTeam n a on).ticketState a = 2) := by
  rw [resumeTeam_eq]
  have hlodge : Lodging (s.resumed n on) ((s.resumed n on).setTicketState a 2).recharge :=
    (lodging_writePhys _ _ _ _).trans (lodging_recharge _)
  refine ⟨(hlodge.find n).trans (resumed_found s n on), fun h => ?_⟩
  obtain ⟨hplain, -, hst⟩ := setTicketState_plain (resumed_plain h n on) (st := 2) (by decide)
  exact (recharge_ticket hplain).2.trans hst

/-! ### Tickets found -/

theorem findTicket_finds (s : State) (counter core a : Nat) (h : s.findTicket counter core = some a) :
    s.ticketState a = 0 ∧ s.ticketWord a 1 / 2 ^ 18 % 2 ^ 8 = core ∧ s.ticketSound a = true ∧
    s.readPhys (s.fabric (counter + 8)) 8 / 2 ^ 17 = 0 ∧ ∀ n, 4 ≤ n → n < 8 → s.readPhys (s.fabric (counter + 8 * n)) 8 = 0 := by
  rw [State.findTicket] at h
  dsimp only at h
  split at h
  next => cases h
  next hzero =>
    have hfound := List.find?_some h
    simp only [Bool.and_eq_true, beq_iff_eq] at hfound
    obtain ⟨⟨hsound, hstate⟩, hcore⟩ := hfound
    simp only [Bool.or_eq_true, bne_iff_ne, List.any_eq_true, List.mem_range, not_or, not_exists, not_and, not_not] at hzero
    obtain ⟨hslots, hrest⟩ := hzero
    refine ⟨hstate, hcore, hsound, hslots, fun n h4 h8 => ?_⟩
    have hword := hrest (n - 4) (by omega)
    rwa [Nat.add_sub_cancel' h4] at hword

end Sys2Proof.Machine
end

section
/-! SUPPORT. Claims (12 R395) and posted packets (12 R392), and the ticket instructions at the statement's clauses. -/

namespace Sys2Proof.Machine

/-! ### tkclaim -/

/-- A ticket is claimed for a core. -/
def State.claimed (s : State) (a c : Nat) : State :=
  (s.setTicketState a 1).modCore c (fun k => { k with fwTickets := insertNat a k.fwTickets })

section
variable {x : Iss} {s : State} {a : Nat}

theorem claimBody_none (ha : x.alike (fun x l => [x.a l])) (h : s.findTicket (x.a x.low) x.g.core = none) :
    claimBody x s = .done (x.giveAll s 0) x.ex := by
  rw [claimBody, uniform_alike s ha, h]

theorem claimBody_found (ha : x.alike (fun x l => [x.a l])) (h : s.findTicket (x.a x.low) x.g.core = some a)
    (hw : s.heldWrites x.g.core (x.giveAll (s.claimed a x.g.core) a) = []) :
    claimBody x s = .done (x.giveAll (s.claimed a x.g.core) a) x.ex := by
  rw [claimBody, uniform_alike s ha, h]
  exact held_free hw
end

theorem tkclaim_issue (o : AForm) (s : State) : exec (.tkclaim o) s = issue (.tkclaim o) claimBody s := rfl

/-! ### qpost -/

theorem qpost_issue (o : AForm) (s : State) : exec (.qpost o) s = issue (.qpost o) qpostBody s := rfl

/-- What qpost makes of a packet that it has read, with the descriptor of its queue as the issue found it. -/
def Iss.postPacket (x : Iss) (v w : State) (q : Queue) (n : Nat) (loc : Loc) : Act :=
  if !q.active || q.owner != x.agent.ctx || !bitAt (q.word 1) 3 then .done (x.giveAll v 2) x.ex
  else if 2 ^ q.logN ≤ v.readPhys (v.fabric (q.word 3)) 8 - q.word 4 then .done (x.giveAll v 1) x.ex
  else if !v.drained x.g.core x.g.slot then .wait w
  else x.held v (.done (x.giveAll (v.enqueue n ((loc.span 64).map (v.seenByte x.g.core x.g.slot x.low))) 0) x.ex)

section
variable {x : Iss} {s u v : State} {loc : Loc} {leaf : Nat} {q : Queue} {n : Nat}

theorem qpostBody_refused (ha : x.alike (fun x l => [x.a l, x.b l])) (h : 64 ≤ x.b x.low) :
    qpostBody x s = .trap s [] trapProt 0x22 x.ex := by
  rw [qpostBody, uniform_alike s ha]
  exact if_pos (by omega)

theorem qpostBody_read (ha : x.alike (fun x l => [x.a l, x.b l])) (hb : x.b x.low < 64) (hp : s.atomPending x.g.core x.g.slot x.ex = false)
    (hc : x.checkOnce s { rd := true, align := 64, size := 64 } (x.a x.low) = (u, .ok loc leaf))
    (hv : u.prepLoad x.g.core x.g.slot { l := x.low, ea := x.a x.low, loc := loc, leaf := leaf } 64 true = v)
    (hpo : v.anyPoison (loc.span 64) = false) : qpostBody x s = x.postPacket v u (s.queue (x.b x.low)) (x.b x.low) loc := by
  rw [qpostBody, uniform_alike s ha]
  dsimp only
  rw [if_neg (by omega), hp, if_neg Bool.false_ne_true, hc]
  dsimp only
  rw [hv, hpo, Nat.mod_eq_of_lt hb]
  rfl

theorem postPacket_refused (h : q.active = false ∨ q.owner ≠ x.agent.ctx ∨ (q.word 1).testBit 3 = false) :
    x.postPacket v u q n loc = .done (x.giveAll v 2) x.ex := by
  refine if_pos ?_
  rw [bitAt_testBit]
  simpa [or_assoc] using h

section
variable (hact : q.active = true) (hown : q.owner = x.agent.ctx) (hbit : (q.word 1).testBit 3 = true)
include hact hown hbit

theorem sound_queue : (!q.active || q.owner != x.agent.ctx || !bitAt (q.word 1) 3) = false := by
  rw [bitAt_testBit, hact, hown, hbit, bne_self_eq_false]
  rfl

theorem postPacket_full (h : 2 ^ q.logN ≤ v.readPhys (v.fabric (q.word 3)) 8 - q.word 4) :
    x.postPacket v u q n loc = .done (x.giveAll v 1) x.ex := by
  rw [Iss.postPacket, sound_queue hact hown hbit, if_neg Bool.false_ne_true, if_pos h]

theorem postPacket_posts (h : v.readPhys (v.fabric (q.word 3)) 8 - q.word 4 < 2 ^ q.logN)
    (hd : v.drained x.g.core x.g.slot = true)
    (hw : v.heldWrites x.g.core (x.giveAll (v.enqueue n ((loc.span 64).map (v.seenByte x.g.core x.g.slot x.low))) 0) = []) :
    x.postPacket v u q n loc = .done (x.giveAll (v.enqueue n ((loc.span 64).map (v.seenByte x.g.core x.g.slot x.low))) 0) x.ex := by
  rw [Iss.postPacket, sound_queue hact hown hbit, if_neg Bool.false_ne_true, if_neg (Nat.not_le.2 h), hd]
  exact held_free hw
end
end

/-! ### The instructions on a ticket -/

section
variable (o : AForm) (s : State)
theorem tmplace_onTicket : exec (.tmplace o) s = issue (.tmplace o) (onTicket [1] placeTeam) s := rfl
theorem tmsave_onTicket : exec (.tmsave o) s = issue (.tmsave o) (onTicket [2] saveTeamBody) s := rfl
theorem tmrest_onTicket : exec (.tmrest o) s = issue (.tmrest o) (onTicket [3] restTeamBody) s := rfl
theorem tmflush_onTicket : exec (.tmflush o) s = issue (.tmflush o) (onTicket [2, 3] (flushTeamBody true)) s := rfl
theorem tmkill_onTicket : exec (.tmkill o) s = issue (.tmkill o) (onTicket [2, 3] (flushTeamBody false)) s := rfl
theorem tkdone_onTicket : exec (.tkdone o) s = issue (.tkdone o) (onTicket [2] doneTeamBody) s := rfl
end

end Sys2Proof.Machine
end

section
/-! SUPPORT. Team tickets and packets (12 R392 to R395, R400, R414), settled. -/

namespace Sys2Proof.Machine

/-- No write waits where no byte has changed. -/
theorem heldWrites_self (s : State) (c : Nat) : s.heldWrites c s = [] := by
  rw [State.heldWrites, List.filter_eq_nil_iff]
  intro n _ h
  obtain ⟨i, -, hi⟩ := List.any_eq_true.1 h
  rw [bne_self_eq_false] at hi
  cases hi

section
variable {x : Iss} {s : State} {a : Nat} {g : Gang} {i : Nat} {e : GangTeam} {c : Nat} {y : Team} {v : SavedTeam}

theorem saveTeamBody_saved (hf : s.findTeam e.team = some (c, y)) (hs : y.slots ≠ []) (hm : s.masked c y = false)
    (h4 : y.pre.action ≠ 4) (hp : y.pre.stopping = true) (hg : (s.carrySave c y).findTeam e.team = none) :
    saveTeamBody x s a (g, i, e) = .done (s.carrySave c y) x.ex := by
  rw [saveTeamBody_stopped hf hs hm h4 hp, hg]
  rfl

theorem saveTeamBody_saving (hf : s.findTeam e.team = some (c, y)) (hs : y.slots ≠ []) (hm : s.masked c y = false)
    (h4 : y.pre.action ≠ 4) (hp : y.pre.stopping = true) (hg : ((s.carrySave c y).findTeam e.team).isSome = true) :
    saveTeamBody x s a (g, i, e) = .wait (s.carrySave c y) := by
  obtain ⟨z, hz⟩ := Option.isSome_iff_exists.1 hg
  rw [saveTeamBody_stopped hf hs hm h4 hp, hz]
  rfl

theorem restTeamBody_runs (hv : s.saved.find? (fun v => v.team.id = e.team) = some v) (hr : e.reserved = true)
    (hc : e.core = x.g.core) (hroom : s.roomFor e.core v = true) (ha : s.areaHolds v = true)
    (hg : (s.restoreTeam e.core v).granted e.team = true) : restTeamBody x s a (g, i, e) =
      .done (((s.restoreTeam e.core v).resumeTeam e.team a g.started).unclaim x.g.core a) x.ex :=
  (restTeamBody_back hv hr hc hroom ha).trans (resumeBody_granted hg)

theorem restTeamBody_asks (hv : s.saved.find? (fun v => v.team.id = e.team) = some v) (hr : e.reserved = true)
    (hc : e.core = x.g.core) (hroom : s.roomFor e.core v = true) (ha : s.areaHolds v = true)
    (hg : (s.restoreTeam e.core v).granted e.team = false) : restTeamBody x s a (g, i, e) = .wait (s.restoreTeam e.core v) :=
  (restTeamBody_back hv hr hc hroom ha).trans (resumeBody_waits hg)

theorem restTeamBody_resumes (hv : s.saved.find? (fun v => v.team.id = e.team) = none) (hf : (s.findTeam e.team).isSome = true)
    (hg : s.granted e.team = true) : restTeamBody x s a (g, i, e) =
      .done ((s.resumeTeam e.team a g.started).unclaim x.g.core a) x.ex :=
  (restTeamBody_standing hv hf).trans (resumeBody_granted hg)

theorem restTeamBody_ungranted (hv : s.saved.find? (fun v => v.team.id = e.team) = none) (hf : (s.findTeam e.team).isSome = true)
    (hg : s.granted e.team = false) : restTeamBody x s a (g, i, e) = .wait s :=
  (restTeamBody_standing hv hf).trans (resumeBody_waits hg)
end

/-- tmsave of a team that is gone, or has no slot, changes nothing. -/
theorem tmsave_gone (o : AForm) (g : Gang) (i : Nat) (e : GangTeam) : Acts (.tmsave o) (fun x s => x.alike (fun x l => [x.a l]) ∧
    x.accepted s [2] ∧ s.ticketTeam (x.a x.low) = some (g, i, e) ∧
    (s.findTeam e.team = none ∨ ∃ c y, s.findTeam e.team = some (c, y) ∧ y.slots = [])) still (fun _ s => s) :=
  acts_still (tmsave_onTicket o)
    (fun x s ⟨ha, hok, ht, h⟩ => onTicket_done ha hok ht (saveTeamBody_gone h) (heldWrites_self s x.g.core)) (fun _ s _ => .rfl' s)

/-- A saved team: its ticket, its core, and its form among those saved. -/
theorem saveTeam_saves (s : State) (n c : Nat) (y : Team) (h : s.findTeam n = some (c, y)) :
    let d := ((y.maps.map (·.1)).foldl (fun s e => s.spadClear n e) s).removeTeam c n
    let u := ({ d with free := d.free + 1 + 229376 } : State).writeArea (s.savedForm c y)
    (u.ticketPlain y.ticket → (s.saveTeam n).ticketState y.ticket = 3) ∧ tabFind n (d.core c).teams = none ∧
    ((∀ k ∈ s.cores, ∀ z ∈ k.2.teams, z.2.maps = []) → tabFind n ((s.saveTeam n).core c).teams = none) ∧
    (∃ v, (s.saveTeam n).saved.getLast? = some v ∧ v.team.id = y.id ∧ v.team.kd = y.kd ∧ v.team.ctx = y.ctx) :=
  ⟨saveTeam_ticket h, removeTeam_gone _ c n, fun hm => saveTeam_gone h (unmapped_iff.2 hm), saveTeam_last h⟩

/-- A packet posted, or refused. -/
theorem qpost_posts (o : AForm) (s : State) (x : Iss) (u : State) (loc : Loc) (leaf : Nat) (hr : Ready (.qpost o) s x)
    (ha : x.alike (fun x l => [x.a l, x.b l])) (hb : x.b x.low < 64)
    (hp : (x.moved s).atomPending x.g.core x.g.slot x.ex = false)
    (hc : x.checkOnce (x.moved s) { rd := true, align := 64, size := 64 } (x.a x.low) = (u, .ok loc leaf)) :
    let v := u.prepLoad x.g.core x.g.slot { l := x.low, ea := x.a x.low, loc := loc, leaf := leaf } 64 true
    let q := (x.moved s).queue (x.b x.low)
    let used := v.readPhys (v.fabric (q.word 3)) 8 - q.word 4
    let t := x.giveAll (v.enqueue (x.b x.low) ((loc.span 64).map (v.seenByte x.g.core x.g.slot x.low))) 0
    v.anyPoison (loc.span 64) = false →
    ((q.active = false ∨ q.owner ≠ x.agent.ctx ∨ (q.word 1).testBit 3 = false) → exec (.qpost o) s = .next (x.settled (x.giveAll v 2))) ∧
    (q.active = true → q.owner = x.agent.ctx → (q.word 1).testBit 3 = true →
      (2 ^ q.logN ≤ used → exec (.qpost o) s = .next (x.settled (x.giveAll v 1))) ∧
      (used < 2 ^ q.logN → v.drained x.g.core x.g.slot = true → v.heldWrites x.g.core t = [] → exec (.qpost o) s = .next (x.settled t))) := by
  intro v q used t hpo
  have hbody := qpostBody_read ha hb hp hc rfl hpo
  have done : ∀ {t}, x.postPacket v u q (x.b x.low) loc = .done t x.ex → exec (.qpost o) s = .next (x.settled t) :=
    fun h => exec_done (qpost_issue o) hr (hbody.trans h)
  exact ⟨fun h => done (postPacket_refused h), fun hact hown hbit => ⟨fun h => done (postPacket_full hact hown hbit h),
    fun h hd hw => done (postPacket_posts hact hown hbit h hd hw)⟩⟩

/-- Settles O41: each ticket instruction by what its body makes of the team of an accepted ticket, whose words are plain memory;
teams keep their cores and weaves while slices are settled and tickets written. -/
theorem ticketsAndPackets : Obligations.TicketsAndPackets := by
  unfold Obligations.TicketsAndPackets
  refine ⟨fun o => ticket_raises (tmplace_onTicket o), fun o => ticket_raises (tmsave_onTicket o),
    fun o => ticket_raises (tmrest_onTicket o), fun o => ticket_raises (tmflush_onTicket o),
    fun o => ticket_raises (tmkill_onTicket o), fun o => ticket_raises (tkdone_onTicket o),
    fun o => ticket_vain (tmplace_onTicket o), fun o => ticket_vain (tmsave_onTicket o),
    fun o => ticket_vain (tmrest_onTicket o), fun o => ticket_vain (tmflush_onTicket o),
    fun o => ticket_vain (tmkill_onTicket o), fun o => ticket_vain (tkdone_onTicket o),
    ticketSound_iff, fun s a st hst hp => (setTicketState_plain hp hst).2.2,
    fun o g i e s x hr ⟨ha, hok, ht, hres, hc, hf, hp, hw⟩ =>
      ticket_completes (tmplace_onTicket o) hr ha hok ht (placeTeam_placed hres hc hf hp) hw,
    fun o s x g i e hr ⟨ha, hok, ht, hres, hc, hf, hp⟩ hw =>
      ticket_held (tmplace_onTicket o) hr ha hok ht (placeTeam_placed hres hc hf hp) hw,
    fun o s x g i e hr ⟨ha, hok, ht, hres, hc, hf, hp⟩ =>
      ticket_waits (tmplace_onTicket o) hr ha hok ht (placeTeam_reading hres hc hf hp),
    fun o g i e s x hr ⟨ha, hok, ht, h⟩ => ticket_waits (tmplace_onTicket o) hr ha hok ht (placeTeam_unreserved h),
    fun s g i e l u ms hl hp hf _ => placeGangTeam_places s g i e l u ms hl hp hf,
    preloadThread_entry,
    fun o g i e c y s x hr ⟨ha, hok, ht, hf, hs, hm, h4, hp, hg, hw⟩ =>
      ticket_completes (tmsave_onTicket o) hr ha hok ht (saveTeamBody_saved hf hs hm h4 hp hg) hw,
    fun o s x g i e c y hr ⟨ha, hok, ht, hf, hs, hm, h4, hp, hg⟩ =>
      ticket_heldOr (tmsave_onTicket o) hr ha hok ht (saveTeamBody_saved hf hs hm h4 hp hg),
    fun o s x g i e c y hr ⟨ha, hok, ht, hf, hs, hm, h4, hp, hg⟩ =>
      ticket_waits (tmsave_onTicket o) hr ha hok ht (saveTeamBody_saving hf hs hm h4 hp hg),
    fun o g i e c y s x hr ⟨ha, hok, ht, hf, hs, h⟩ =>
      ticket_waits (tmsave_onTicket o) hr ha hok ht (saveTeamBody_masked hf hs h),
    tmsave_gone, carrySave_quiet, saveTeam_saves, savedForm_keeps,
    fun o g i e v s x hr ⟨ha, hok, ht, hv, hres, hc, hroom, hsame, hg, hw⟩ =>
      ticket_completes (tmrest_onTicket o) hr ha hok ht (restTeamBody_runs hv hres hc hroom hsame hg) hw,
    fun o s x g i e v hr ⟨ha, hok, ht, hv, hres, hc, hroom, hsame, hg⟩ =>
      ticket_heldOr (tmrest_onTicket o) hr ha hok ht (restTeamBody_runs hv hres hc hroom hsame hg),
    fun o s x g i e v hr ⟨ha, hok, ht, hv, hres, hc, hroom, hsame, hg⟩ =>
      ticket_waits (tmrest_onTicket o) hr ha hok ht (restTeamBody_asks hv hres hc hroom hsame hg),
    fun o g i e v s x hr ⟨ha, hok, ht, hv, hres, hc, hroom, hchanged, hw⟩ =>
      ticket_completes (tmrest_onTicket o) hr ha hok ht (restTeamBody_changed hv hres hc hroom hchanged) hw,
    fun o s x g i e v hr ⟨ha, hok, ht, hv, hres, hc, hroom, hchanged⟩ hw =>
      ticket_held (tmrest_onTicket o) hr ha hok ht (restTeamBody_changed hv hres hc hroom hchanged) hw,
    fun o g i e s x hr ⟨ha, hok, ht, hv, hf, hg, hw⟩ =>
      ticket_completes (tmrest_onTicket o) hr ha hok ht (restTeamBody_resumes hv hf hg) hw,
    fun o s x g i e hr ⟨ha, hok, ht, hv, hf, hg⟩ hw =>
      ticket_held (tmrest_onTicket o) hr ha hok ht (restTeamBody_resumes hv hf hg) hw,
    fun o g i e s x hr ⟨ha, hok, ht, hv, hf, hg⟩ =>
      ticket_waits (tmrest_onTicket o) hr ha hok ht (restTeamBody_ungranted hv hf hg),
    fun o g i e v s x hr ⟨ha, hok, ht, hv, h⟩ =>
      ticket_waits (tmrest_onTicket o) hr ha hok ht (restTeamBody_unroomy hv h),
    restoreTeam_restores, resumeTeam_resumes,
    fun o g i e s x hr ⟨ha, hok, ht, hb, hw⟩ =>
      ticket_completes (tmflush_onTicket o) hr ha hok ht (flushTeamBody_goes true hb) hw,
    fun o s x g i e hr ⟨ha, hok, ht, hb⟩ hw =>
      ticket_held (tmflush_onTicket o) hr ha hok ht (flushTeamBody_goes true hb) hw,
    fun o g i e s x hr ⟨ha, hok, ht, hb, hw⟩ =>
      ticket_completes (tmkill_onTicket o) hr ha hok ht (flushTeamBody_goes false hb) hw,
    fun o s x g i e hr ⟨ha, hok, ht, hb⟩ hw =>
      ticket_held (tmkill_onTicket o) hr ha hok ht (flushTeamBody_goes false hb) hw,
    fun o s x g i e c y hr ⟨ha, hok, ht, hf, hb⟩ =>
      ticket_waits (tmflush_onTicket o) hr ha hok ht (flushTeamBody_waits true hf hb),
    fun o s x g i e c y hr ⟨ha, hok, ht, hf, hb⟩ =>
      ticket_waits (tmkill_onTicket o) hr ha hok ht (flushTeamBody_waits false hf hb),
    flushTeam_flushes,
    fun o g i e s x hr ⟨ha, hok, ht, hd, hw⟩ =>
      ticket_completes (tkdone_onTicket o) hr ha hok ht (doneTeamBody_completed hd) hw,
    fun o s x g i e hr ⟨ha, hok, ht, hd⟩ hw =>
      ticket_held (tkdone_onTicket o) hr ha hok ht (doneTeamBody_completed hd) hw,
    fun o g i e s x hr ⟨ha, hok, ht, hd⟩ => ticket_waits (tkdone_onTicket o) hr ha hok ht (doneTeamBody_waits hd),
    fun o => acts_gives (tkclaim_issue o) (fun _ _ ⟨ha, h⟩ => claimBody_none ha h) (fun _ s _ => .rfl' s),
    fun o a s x hr ⟨ha, h, hw⟩ => exec_done (tkclaim_issue o) hr (claimBody_found ha h hw),
    findTicket_finds, qpost_posts,
    fun o => raises_of (qpost_issue o) (fun _ _ ⟨ha, h⟩ => qpostBody_refused ha h)⟩

end Sys2Proof.Machine
end
